-- ==== Sys2Proof/Word.lean ====
section
/-!
DEFINITION. The word types of the manual and their plainest arithmetic (R1, R6, R23, R24): bits numbered from 0 at the
least significant end, multi-byte values little-endian, integer arithmetic exact until a helper narrows it.
-/

namespace Sys2Proof

/-- A byte of memory (R1). -/
abbrev Byte := BitVec 8

/-- A 32-bit instruction word (R65). -/
abbrev Word32 := BitVec 32

/-- A 64-bit register value (R76). -/
abbrev Word := BitVec 64

/-- Three-valued predicates (R30, R76): false, true, undecided. -/
inductive K3 where
  | f
  | t
  | u
  deriving DecidableEq, Repr

/-- `sext(x, n)` of R24 as an integer: the low `n` bits of `x`, signed. -/
def sextInt (x n : Nat) : Int :=
  let m := x % 2 ^ n
  if n = 0 then 0 else if m < 2 ^ (n - 1) then (m : Int) else (m : Int) - 2 ^ n

/-- `sat(x, n)` of R24: saturation to the signed range of `n` bits. -/
def satInt (x : Int) (n : Nat) : Int :=
  min (max x (-(2 ^ (n - 1) : Int))) (2 ^ (n - 1) - 1)

end Sys2Proof
end

