-- ==== Sys2Proof/Syntax.lean ====
section
/-!
DEFINITION. The instructions: one constructor for each row of spec/opcode_table.json. The encoded words carry the fields of
their form (R83) at the widths the table gives them, the chain bit `c` and the guard `g` first; a row without bits is
an event (95_what_each_step_holds.md), and its operands name the piece of the machine it happens to. An event's operands are
plain numbers that whoever schedules the event supplies; an event that cannot happen at the named piece changes nothing
(log entry 2).
-/

namespace Sys2Proof

/-- One row of spec/opcode_table.json each. -/
inductive Instr where
  /-- CLAUSE_START, R73: The core selects a cohort whose next clause meets the start conditions, settles parking, chooses the frontier and starts the clause. -/
  | clauseStart (w : BitVec 12) (a b : BitVec 4) (y : BitVec 1) (l : BitVec 3)
  /-- WAIT_COUNT_EXPIRY, R102: A cohort's wait count reaches 256 and the cohort leaves the active set. -/
  | waitCountExpiry (core cohort : Nat)
  /-- RESULT_LANDS, R80: A fixed-latency result, predicate or sticky flag lands L cycles after its pass issues. -/
  | resultLands (core : Nat)
  /-- THREAD_SLOT_FREE, R100: An exited thread's slot becomes free once every operation it issued has finished. -/
  | threadSlotFree (thread : Nat)
  /-- COHORT_RETIRE, R100: A cohort retires once all its threads have exited, its flags are zero and its slots are free. -/
  | cohortRetire (cohort : Nat)
  /-- NOP, R67: Does nothing. -/
  | nop (c : BitVec 1) (g : BitVec 4)
  /-- YIELD, R109: Makes the cohort's next clause start a yield point. -/
  | yield (c : BitVec 1) (g : BitVec 4)
  /-- RDCLK, R109: Reads the core's cycle counter. -/
  | rdclk (c : BitVec 1) (g : BitVec 4) (d : BitVec 6)
  /-- RDTAGS, R109: Reads the group's view of the tag bitmap. -/
  | rdtags (c : BitVec 1) (g : BitVec 4) (d : BitVec 6)
  /-- BR_UT, R106: Branches on its guard; U is taken. -/
  | brUt (g : BitVec 4) (i : BitVec 19)
  /-- BR_UF, R106: Branches on its guard; U falls through. -/
  | brUf (g : BitVec 4) (i : BitVec 19)
  /-- BR, R106: Branches on its guard; U traps with UNDECIDED. -/
  | br (g : BitVec 4) (i : BitVec 19)
  /-- BR_UL, R106: Branches on its guard; U goes to the literal-word displacement. -/
  | brUl (g : BitVec 4) (i : BitVec 19)
  /-- JMP, R107: Jumps by a packet displacement. -/
  | jmp (i : BitVec 25)
  /-- CALL, R107: Pushes the fall-through address and jumps by a packet displacement. -/
  | call (i : BitVec 25)
  /-- JMPR, R108: Jumps to a register address. -/
  | jmpr (g : BitVec 4) (a : BitVec 6)
  /-- CALLR, R108: Pushes the fall-through address and jumps to a register address. -/
  | callr (g : BitVec 4) (a : BitVec 6)
  /-- RET, R108: Pops the return stack and releases colours acquired at that depth. -/
  | ret (g : BitVec 4)
  /-- EXIT, R108: The thread releases its colours and exits. -/
  | exit (g : BitVec 4)
  /-- ADD_W, R111: 32-bit add. -/
  | addW (c : BitVec 1) (g : BitVec 4) (d a b : BitVec 6)
  /-- SUB_W, R111: 32-bit subtract. -/
  | subW (c : BitVec 1) (g : BitVec 4) (d a b : BitVec 6)
  /-- AND_W, R111: 32-bit and. -/
  | andW (c : BitVec 1) (g : BitVec 4) (d a b : BitVec 6)
  /-- OR_W, R111: 32-bit or. -/
  | orW (c : BitVec 1) (g : BitVec 4) (d a b : BitVec 6)
  /-- XOR_W, R111: 32-bit exclusive or. -/
  | xorW (c : BitVec 1) (g : BitVec 4) (d a b : BitVec 6)
  /-- ANDN_W, R111: 32-bit and-not. -/
  | andnW (c : BitVec 1) (g : BitVec 4) (d a b : BitVec 6)
  /-- MIN_W, R111: 32-bit signed minimum. -/
  | minW (c : BitVec 1) (g : BitVec 4) (d a b : BitVec 6)
  /-- MAX_W, R111: 32-bit signed maximum. -/
  | maxW (c : BitVec 1) (g : BitVec 4) (d a b : BitVec 6)
  /-- ADD_D, R111: 64-bit add. -/
  | addD (c : BitVec 1) (g : BitVec 4) (d a b : BitVec 6)
  /-- SUB_D, R111: 64-bit subtract. -/
  | subD (c : BitVec 1) (g : BitVec 4) (d a b : BitVec 6)
  /-- AND_D, R111: 64-bit and. -/
  | andD (c : BitVec 1) (g : BitVec 4) (d a b : BitVec 6)
  /-- OR_D, R111: 64-bit or. -/
  | orD (c : BitVec 1) (g : BitVec 4) (d a b : BitVec 6)
  /-- XOR_D, R111: 64-bit exclusive or. -/
  | xorD (c : BitVec 1) (g : BitVec 4) (d a b : BitVec 6)
  /-- ANDN_D, R111: 64-bit and-not. -/
  | andnD (c : BitVec 1) (g : BitVec 4) (d a b : BitVec 6)
  /-- MIN_D, R111: 64-bit signed minimum. -/
  | minD (c : BitVec 1) (g : BitVec 4) (d a b : BitVec 6)
  /-- MAX_D, R111: 64-bit signed maximum. -/
  | maxD (c : BitVec 1) (g : BitVec 4) (d a b : BitVec 6)
  /-- MINU_W, R111: 32-bit unsigned minimum. -/
  | minuW (c : BitVec 1) (g : BitVec 4) (d a b : BitVec 6)
  /-- MAXU_W, R111: 32-bit unsigned maximum. -/
  | maxuW (c : BitVec 1) (g : BitVec 4) (d a b : BitVec 6)
  /-- SHL_W, R111: 32-bit shift left by register. -/
  | shlW (c : BitVec 1) (g : BitVec 4) (d a b : BitVec 6)
  /-- SHR_W, R111: 32-bit logical shift right by register. -/
  | shrW (c : BitVec 1) (g : BitVec 4) (d a b : BitVec 6)
  /-- SAR_W, R111: 32-bit arithmetic shift right by register. -/
  | sarW (c : BitVec 1) (g : BitVec 4) (d a b : BitVec 6)
  /-- ROT_W, R111: 32-bit rotate left by register. -/
  | rotW (c : BitVec 1) (g : BitVec 4) (d a b : BitVec 6)
  /-- MUL_W, R111: Low 32 bits of a product. -/
  | mulW (c : BitVec 1) (g : BitVec 4) (d a b : BitVec 6)
  /-- MULH_W, R111: High 32 bits of a signed product. -/
  | mulhW (c : BitVec 1) (g : BitVec 4) (d a b : BitVec 6)
  /-- MINU_D, R111: 64-bit unsigned minimum. -/
  | minuD (c : BitVec 1) (g : BitVec 4) (d a b : BitVec 6)
  /-- MAXU_D, R111: 64-bit unsigned maximum. -/
  | maxuD (c : BitVec 1) (g : BitVec 4) (d a b : BitVec 6)
  /-- SHL_D, R111: 64-bit shift left by register. -/
  | shlD (c : BitVec 1) (g : BitVec 4) (d a b : BitVec 6)
  /-- SHR_D, R111: 64-bit logical shift right by register. -/
  | shrD (c : BitVec 1) (g : BitVec 4) (d a b : BitVec 6)
  /-- SAR_D, R111: 64-bit arithmetic shift right by register. -/
  | sarD (c : BitVec 1) (g : BitVec 4) (d a b : BitVec 6)
  /-- ROT_D, R111: 64-bit rotate left by register. -/
  | rotD (c : BitVec 1) (g : BitVec 4) (d a b : BitVec 6)
  /-- MUL_D, R111: Low 64 bits of a product. -/
  | mulD (c : BitVec 1) (g : BitVec 4) (d a b : BitVec 6)
  /-- MULH_D, R111: High 64 bits of a signed product. -/
  | mulhD (c : BitVec 1) (g : BitVec 4) (d a b : BitVec 6)
  /-- ADDI_W, R112: 32-bit add of a signed 9-bit immediate. -/
  | addiW (c : BitVec 1) (g : BitVec 4) (d a : BitVec 6) (i : BitVec 9)
  /-- ADDI_D, R112: 64-bit add of a signed 9-bit immediate. -/
  | addiD (c : BitVec 1) (g : BitVec 4) (d a : BitVec 6) (i : BitVec 9)
  /-- SHLI_W, R113: 32-bit shift left by immediate. -/
  | shliW (c : BitVec 1) (g : BitVec 4) (d a : BitVec 6) (i : BitVec 5)
  /-- SHRI_W, R113: 32-bit logical shift right by immediate. -/
  | shriW (c : BitVec 1) (g : BitVec 4) (d a : BitVec 6) (i : BitVec 5)
  /-- SARI_W, R113: 32-bit arithmetic shift right by immediate. -/
  | sariW (c : BitVec 1) (g : BitVec 4) (d a : BitVec 6) (i : BitVec 5)
  /-- ROTI_W, R113: 32-bit rotate by immediate. -/
  | rotiW (c : BitVec 1) (g : BitVec 4) (d a : BitVec 6) (i : BitVec 5)
  /-- SHLI_D, R113: 64-bit shift left by immediate. -/
  | shliD (c : BitVec 1) (g : BitVec 4) (d a i : BitVec 6)
  /-- SHRI_D, R113: 64-bit logical shift right by immediate. -/
  | shriD (c : BitVec 1) (g : BitVec 4) (d a i : BitVec 6)
  /-- SARI_D, R113: 64-bit arithmetic shift right by immediate. -/
  | sariD (c : BitVec 1) (g : BitVec 4) (d a i : BitVec 6)
  /-- ROTI_D, R113: 64-bit rotate by immediate. -/
  | rotiD (c : BitVec 1) (g : BitVec 4) (d a i : BitVec 6)
  /-- MOVI, R112: Writes a sign-extended 15-bit immediate. -/
  | movi (c : BitVec 1) (g : BitVec 4) (d : BitVec 6) (i : BitVec 15)
  /-- LEA1, R114: Forms a + b. -/
  | lea1 (c : BitVec 1) (g : BitVec 4) (d a b : BitVec 6)
  /-- LEA2, R114: Forms a + 2b. -/
  | lea2 (c : BitVec 1) (g : BitVec 4) (d a b : BitVec 6)
  /-- LEA4, R114: Forms a + 4b. -/
  | lea4 (c : BitVec 1) (g : BitVec 4) (d a b : BitVec 6)
  /-- LEA8, R114: Forms a + 8b. -/
  | lea8 (c : BitVec 1) (g : BitVec 4) (d a b : BitVec 6)
  /-- LEA16, R114: Forms a + 16b. -/
  | lea16 (c : BitVec 1) (g : BitVec 4) (d a b : BitVec 6)
  /-- MAC_W, R114: 32-bit multiply-accumulate into d. -/
  | macW (c : BitVec 1) (g : BitVec 4) (d a b : BitVec 6)
  /-- MAC_D, R114: 64-bit multiply-accumulate into d. -/
  | macD (c : BitVec 1) (g : BitVec 4) (d a b : BitVec 6)
  /-- MULHU_D, R114: High 64 bits of an unsigned product. -/
  | mulhuD (c : BitVec 1) (g : BitVec 4) (d a b : BitVec 6)
  /-- MOV, R115: Copies a register. -/
  | mov (c : BitVec 1) (g : BitVec 4) (d a : BitVec 6)
  /-- NOT, R115: Bitwise not. -/
  | not (c : BitVec 1) (g : BitVec 4) (d a : BitVec 6)
  /-- NEG, R115: Negation modulo 2^64. -/
  | neg (c : BitVec 1) (g : BitVec 4) (d a : BitVec 6)
  /-- ABS, R115: Absolute value modulo 2^64. -/
  | abs (c : BitVec 1) (g : BitVec 4) (d a : BitVec 6)
  /-- CLZ_W, R115: Counts leading zeros of bits 31:0. -/
  | clzW (c : BitVec 1) (g : BitVec 4) (d a : BitVec 6)
  /-- CLZ_D, R115: Counts leading zeros of 64 bits. -/
  | clzD (c : BitVec 1) (g : BitVec 4) (d a : BitVec 6)
  /-- POPC, R115: Counts one bits. -/
  | popc (c : BitVec 1) (g : BitVec 4) (d a : BitVec 6)
  /-- BREV_D, R115: Reverses the 64 bits. -/
  | brevD (c : BitVec 1) (g : BitVec 4) (d a : BitVec 6)
  /-- SEXT_B, R115: Sign-extends from 8 bits. -/
  | sextB (c : BitVec 1) (g : BitVec 4) (d a : BitVec 6)
  /-- SEXT_H, R115: Sign-extends from 16 bits. -/
  | sextH (c : BitVec 1) (g : BitVec 4) (d a : BitVec 6)
  /-- SEXT_W, R115: Sign-extends from 32 bits. -/
  | sextW (c : BitVec 1) (g : BitVec 4) (d a : BitVec 6)
  /-- ZEXT_B, R115: Zero-extends from 8 bits. -/
  | zextB (c : BitVec 1) (g : BitVec 4) (d a : BitVec 6)
  /-- ZEXT_H, R115: Zero-extends from 16 bits. -/
  | zextH (c : BitVec 1) (g : BitVec 4) (d a : BitVec 6)
  /-- ZEXT_W, R115: Zero-extends from 32 bits. -/
  | zextW (c : BitVec 1) (g : BitVec 4) (d a : BitVec 6)
  /-- MOVK, R116: Reads an argument word. -/
  | movk (c : BitVec 1) (g : BitVec 4) (d k : BitVec 6)
  /-- RDSR, R116: Reads a special register. -/
  | rdsr (c : BitVec 1) (g : BitVec 4) (d s : BitVec 6)
  /-- WRSR, R116: Writes a special register for later clauses. -/
  | wrsr (c : BitVec 1) (g : BitVec 4) (s a : BitVec 6)
  /-- MOVP, R117: Packs the predicates into a register and optionally writes them from one. -/
  | movp (c : BitVec 1) (g : BitVec 4) (d a : BitVec 6)
  /-- BFX, R120: Extracts a signed bit field. -/
  | bfx (c : BitVec 1) (g : BitVec 4) (d a b : BitVec 6)
  /-- BFXU, R120: Extracts an unsigned bit field. -/
  | bfxu (c : BitVec 1) (g : BitVec 4) (d a b : BitVec 6)
  /-- BFI, R120: Inserts a bit field into d. -/
  | bfi (c : BitVec 1) (g : BitVec 4) (d a b : BitVec 6)
  /-- ICMP_EQ, R121: Integer compare equal into a predicate pair. -/
  | icmpEq (c : BitVec 1) (g : BitVec 4) (p : BitVec 2) (t : BitVec 3) (a b : BitVec 6)
  /-- ICMP_NE, R121: Integer compare not equal. -/
  | icmpNe (c : BitVec 1) (g : BitVec 4) (p : BitVec 2) (t : BitVec 3) (a b : BitVec 6)
  /-- ICMP_LT, R121: Signed integer compare less than. -/
  | icmpLt (c : BitVec 1) (g : BitVec 4) (p : BitVec 2) (t : BitVec 3) (a b : BitVec 6)
  /-- ICMP_LE, R121: Signed integer compare less or equal. -/
  | icmpLe (c : BitVec 1) (g : BitVec 4) (p : BitVec 2) (t : BitVec 3) (a b : BitVec 6)
  /-- ICMP_GT, R121: Signed integer compare greater than. -/
  | icmpGt (c : BitVec 1) (g : BitVec 4) (p : BitVec 2) (t : BitVec 3) (a b : BitVec 6)
  /-- ICMP_GE, R121: Signed integer compare greater or equal. -/
  | icmpGe (c : BitVec 1) (g : BitVec 4) (p : BitVec 2) (t : BitVec 3) (a b : BitVec 6)
  /-- ICMP_LTU, R121: Unsigned integer compare less than. -/
  | icmpLtu (c : BitVec 1) (g : BitVec 4) (p : BitVec 2) (t : BitVec 3) (a b : BitVec 6)
  /-- ICMP_LEU, R121: Unsigned integer compare less or equal. -/
  | icmpLeu (c : BitVec 1) (g : BitVec 4) (p : BitVec 2) (t : BitVec 3) (a b : BitVec 6)
  /-- ICMP_GTU, R121: Unsigned integer compare greater than. -/
  | icmpGtu (c : BitVec 1) (g : BitVec 4) (p : BitVec 2) (t : BitVec 3) (a b : BitVec 6)
  /-- ICMP_GEU, R121: Unsigned integer compare greater or equal. -/
  | icmpGeu (c : BitVec 1) (g : BitVec 4) (p : BitVec 2) (t : BitVec 3) (a b : BitVec 6)
  /-- ICMP_TST, R121: True when a AND b is non-zero. -/
  | icmpTst (c : BitVec 1) (g : BitVec 4) (p : BitVec 2) (t : BitVec 3) (a b : BitVec 6)
  /-- ICMP_NTST, R121: True when a AND b is zero. -/
  | icmpNtst (c : BitVec 1) (g : BitVec 4) (p : BitVec 2) (t : BitVec 3) (a b : BitVec 6)
  /-- PAND, R124: Kleene and of two predicates. -/
  | pand (c : BitVec 1) (g : BitVec 4) (d a b : BitVec 3)
  /-- POR, R124: Kleene or of two predicates. -/
  | por (c : BitVec 1) (g : BitVec 4) (d a b : BitVec 3)
  /-- PXOR, R124: Kleene exclusive or of two predicates. -/
  | pxor (c : BitVec 1) (g : BitVec 4) (d a b : BitVec 3)
  /-- PNOT, R124: Kleene not of a predicate. -/
  | pnot (c : BitVec 1) (g : BitVec 4) (d a : BitVec 3)
  /-- PMOV, R124: Copies a predicate. -/
  | pmov (c : BitVec 1) (g : BitVec 4) (d a : BitVec 3)
  /-- PISU, R124: T when the predicate is U, else F. -/
  | pisu (c : BitVec 1) (g : BitVec 4) (d a : BitVec 3)
  /-- PIST, R124: T when the predicate is T, else F. -/
  | pist (c : BitVec 1) (g : BitVec 4) (d a : BitVec 3)
  /-- PSET, R124: Sets a predicate to a constant F, T or U. -/
  | pset (c : BitVec 1) (g : BitVec 4) (d v : BitVec 3)
  /-- VOTE_ALL, R125: 1 if a is non-zero in every participant. -/
  | voteAll (c : BitVec 1) (g : BitVec 4) (d a : BitVec 6)
  /-- VOTE_ANY, R125: 1 if a is non-zero in some participant. -/
  | voteAny (c : BitVec 1) (g : BitVec 4) (d a : BitVec 6)
  /-- BALLOT, R125: Bit mask of participants 0-63 with non-zero a. -/
  | ballot (c : BitVec 1) (g : BitVec 4) (d a : BitVec 6)
  /-- BALLOTU, R125: Bit mask of participants 64-127 with non-zero a. -/
  | ballotu (c : BitVec 1) (g : BitVec 4) (d a : BitVec 6)
  /-- SHFL_IDX, R125: Reads a from an indexed thread. -/
  | shflIdx (c : BitVec 1) (g : BitVec 4) (d a b : BitVec 6)
  /-- SHFL_UP, R125: Reads a from thread i - b. -/
  | shflUp (c : BitVec 1) (g : BitVec 4) (d a b : BitVec 6)
  /-- SHFL_DOWN, R125: Reads a from thread i + b. -/
  | shflDown (c : BitVec 1) (g : BitVec 4) (d a b : BitVec 6)
  /-- SHFL_XOR, R125: Reads a from thread i XOR b. -/
  | shflXor (c : BitVec 1) (g : BitVec 4) (d a b : BitVec 6)
  /-- DIV_W, R126: Flagged 32-bit signed divide. -/
  | divW (c : BitVec 1) (g : BitVec 4) (d a b : BitVec 6)
  /-- DIVU_W, R126: Flagged 32-bit unsigned divide. -/
  | divuW (c : BitVec 1) (g : BitVec 4) (d a b : BitVec 6)
  /-- REM_W, R126: Flagged 32-bit signed remainder. -/
  | remW (c : BitVec 1) (g : BitVec 4) (d a b : BitVec 6)
  /-- REMU_W, R126: Flagged 32-bit unsigned remainder. -/
  | remuW (c : BitVec 1) (g : BitVec 4) (d a b : BitVec 6)
  /-- DIV_D, R126: Flagged 64-bit signed divide. -/
  | divD (c : BitVec 1) (g : BitVec 4) (d a b : BitVec 6)
  /-- DIVU_D, R126: Flagged 64-bit unsigned divide. -/
  | divuD (c : BitVec 1) (g : BitVec 4) (d a b : BitVec 6)
  /-- REM_D, R126: Flagged 64-bit signed remainder. -/
  | remD (c : BitVec 1) (g : BitVec 4) (d a b : BitVec 6)
  /-- REMU_D, R126: Flagged 64-bit unsigned remainder. -/
  | remuD (c : BitVec 1) (g : BitVec 4) (d a b : BitVec 6)
  /-- DIVIDE_COMPLETE, R126: A flagged integer divide finishes, writes its result and decrements its flag. -/
  | divideComplete (op : Nat)
  /-- SEL, R127: Selects a when pk is T, else b. -/
  | sel (c : BitVec 1) (g : BitVec 4) (d a b : BitVec 6) (k : BitVec 3)
  /-- RAND_W, R128: 32-bit counter-based random value. -/
  | randW (c : BitVec 1) (g : BitVec 4) (d a b : BitVec 6)
  /-- RAND_D, R128: 64-bit counter-based random value. -/
  | randD (c : BitVec 1) (g : BitVec 4) (d a b : BitVec 6)
  /-- FADD_S, R135: FP32 add. -/
  | faddS (c : BitVec 1) (g : BitVec 4) (d a b : BitVec 6)
  /-- FSUB_S, R135: FP32 subtract. -/
  | fsubS (c : BitVec 1) (g : BitVec 4) (d a b : BitVec 6)
  /-- FMUL_S, R135: FP32 multiply. -/
  | fmulS (c : BitVec 1) (g : BitVec 4) (d a b : BitVec 6)
  /-- FDIV_S, R135: Flagged FP32 divide. -/
  | fdivS (c : BitVec 1) (g : BitVec 4) (d a b : BitVec 6)
  /-- FMIN_S, R136: FP32 minimum treating NaN as missing. -/
  | fminS (c : BitVec 1) (g : BitVec 4) (d a b : BitVec 6)
  /-- FMAX_S, R136: FP32 maximum treating NaN as missing. -/
  | fmaxS (c : BitVec 1) (g : BitVec 4) (d a b : BitVec 6)
  /-- FCPYS_S, R135: FP32 copy sign. -/
  | fcpysS (c : BitVec 1) (g : BitVec 4) (d a b : BitVec 6)
  /-- FADD_D, R135: FP64 add. -/
  | faddD (c : BitVec 1) (g : BitVec 4) (d a b : BitVec 6)
  /-- FSUB_D, R135: FP64 subtract. -/
  | fsubD (c : BitVec 1) (g : BitVec 4) (d a b : BitVec 6)
  /-- FMUL_D, R135: FP64 multiply. -/
  | fmulD (c : BitVec 1) (g : BitVec 4) (d a b : BitVec 6)
  /-- FDIV_D, R135: Flagged FP64 divide. -/
  | fdivD (c : BitVec 1) (g : BitVec 4) (d a b : BitVec 6)
  /-- FMIN_D, R136: FP64 minimum. -/
  | fminD (c : BitVec 1) (g : BitVec 4) (d a b : BitVec 6)
  /-- FMAX_D, R136: FP64 maximum. -/
  | fmaxD (c : BitVec 1) (g : BitVec 4) (d a b : BitVec 6)
  /-- FCPYS_D, R135: FP64 copy sign. -/
  | fcpysD (c : BitVec 1) (g : BitVec 4) (d a b : BitVec 6)
  /-- FADD_I, R139: Type I interval add. -/
  | faddI (c : BitVec 1) (g : BitVec 4) (d a b : BitVec 6)
  /-- FSUB_I, R139: Type I interval subtract. -/
  | fsubI (c : BitVec 1) (g : BitVec 4) (d a b : BitVec 6)
  /-- FMUL_I, R139: Type I interval multiply. -/
  | fmulI (c : BitVec 1) (g : BitVec 4) (d a b : BitVec 6)
  /-- FDIV_I, R139: Flagged type I interval divide. -/
  | fdivI (c : BitVec 1) (g : BitVec 4) (d a b : BitVec 6)
  /-- FHULL_I, R140: Type I interval hull. -/
  | fhullI (c : BitVec 1) (g : BitVec 4) (d a b : BitVec 6)
  /-- FISECT_I, R140: Type I interval intersection. -/
  | fisectI (c : BitVec 1) (g : BitVec 4) (d a b : BitVec 6)
  /-- FMIN_I, R139: Type I interval minimum. -/
  | fminI (c : BitVec 1) (g : BitVec 4) (d a b : BitVec 6)
  /-- FMAX_I, R139: Type I interval maximum. -/
  | fmaxI (c : BitVec 1) (g : BitVec 4) (d a b : BitVec 6)
  /-- FADD_J, R139: Type J interval add. -/
  | faddJ (c : BitVec 1) (g : BitVec 4) (d a b : BitVec 6)
  /-- FSUB_J, R139: Type J interval subtract. -/
  | fsubJ (c : BitVec 1) (g : BitVec 4) (d a b : BitVec 6)
  /-- FMUL_J, R139: Type J interval multiply. -/
  | fmulJ (c : BitVec 1) (g : BitVec 4) (d a b : BitVec 6)
  /-- FDIV_J, R139: Flagged type J interval divide. -/
  | fdivJ (c : BitVec 1) (g : BitVec 4) (d a b : BitVec 6)
  /-- FHULL_J, R140: Type J interval hull. -/
  | fhullJ (c : BitVec 1) (g : BitVec 4) (d a b : BitVec 6)
  /-- FISECT_J, R140: Type J interval intersection. -/
  | fisectJ (c : BitVec 1) (g : BitVec 4) (d a b : BitVec 6)
  /-- FMIN_J, R139: Type J interval minimum. -/
  | fminJ (c : BitVec 1) (g : BitVec 4) (d a b : BitVec 6)
  /-- FMAX_J, R139: Type J interval maximum. -/
  | fmaxJ (c : BitVec 1) (g : BitVec 4) (d a b : BitVec 6)
  /-- FP_DIVIDE_SQRT_COMPLETE, R134: A flagged FDIV or FSQRT finishes, writes its result and sticky bits and decrements its flag. -/
  | fpDivideSqrtComplete (op : Nat)
  /-- FMAC_S, R137: FP32 fused a*b + d. -/
  | fmacS (c : BitVec 1) (g : BitVec 4) (d a b : BitVec 6)
  /-- FMSC_S, R137: FP32 fused a*b - d. -/
  | fmscS (c : BitVec 1) (g : BitVec 4) (d a b : BitVec 6)
  /-- FNMAC_S, R137: FP32 fused -(a*b + d). -/
  | fnmacS (c : BitVec 1) (g : BitVec 4) (d a b : BitVec 6)
  /-- FNMSC_S, R137: FP32 fused -(a*b - d). -/
  | fnmscS (c : BitVec 1) (g : BitVec 4) (d a b : BitVec 6)
  /-- FMAC_D, R137: FP64 fused a*b + d. -/
  | fmacD (c : BitVec 1) (g : BitVec 4) (d a b : BitVec 6)
  /-- FMSC_D, R137: FP64 fused a*b - d. -/
  | fmscD (c : BitVec 1) (g : BitVec 4) (d a b : BitVec 6)
  /-- FNMAC_D, R137: FP64 fused -(a*b + d). -/
  | fnmacD (c : BitVec 1) (g : BitVec 4) (d a b : BitVec 6)
  /-- FNMSC_D, R137: FP64 fused -(a*b - d). -/
  | fnmscD (c : BitVec 1) (g : BitVec 4) (d a b : BitVec 6)
  /-- FMAC_I, R139: Type I interval fused a*b + d. -/
  | fmacI (c : BitVec 1) (g : BitVec 4) (d a b : BitVec 6)
  /-- FMSC_I, R139: Type I interval fused a*b - d. -/
  | fmscI (c : BitVec 1) (g : BitVec 4) (d a b : BitVec 6)
  /-- FNMAC_I, R139: Type I interval fused -(a*b + d). -/
  | fnmacI (c : BitVec 1) (g : BitVec 4) (d a b : BitVec 6)
  /-- FNMSC_I, R139: Type I interval fused -(a*b - d). -/
  | fnmscI (c : BitVec 1) (g : BitVec 4) (d a b : BitVec 6)
  /-- FMAC_J, R139: Type J interval fused a*b + d. -/
  | fmacJ (c : BitVec 1) (g : BitVec 4) (d a b : BitVec 6)
  /-- FMSC_J, R139: Type J interval fused a*b - d. -/
  | fmscJ (c : BitVec 1) (g : BitVec 4) (d a b : BitVec 6)
  /-- FNMAC_J, R139: Type J interval fused -(a*b + d). -/
  | fnmacJ (c : BitVec 1) (g : BitVec 4) (d a b : BitVec 6)
  /-- FNMSC_J, R139: Type J interval fused -(a*b - d). -/
  | fnmscJ (c : BitVec 1) (g : BitVec 4) (d a b : BitVec 6)
  /-- FABS_S, R141: Clears the FP32 sign bit. -/
  | fabsS (c : BitVec 1) (g : BitVec 4) (d a : BitVec 6)
  /-- FNEG_S, R141: Inverts the FP32 sign bit. -/
  | fnegS (c : BitVec 1) (g : BitVec 4) (d a : BitVec 6)
  /-- FSQRT_S, R141: Flagged FP32 square root. -/
  | fsqrtS (c : BitVec 1) (g : BitVec 4) (d a : BitVec 6)
  /-- FRCP_S, R141: FP32 reciprocal. -/
  | frcpS (c : BitVec 1) (g : BitVec 4) (d a : BitVec 6)
  /-- FRSQ_S, R141: FP32 reciprocal square root. -/
  | frsqS (c : BitVec 1) (g : BitVec 4) (d a : BitVec 6)
  /-- FEXP2_S, R142: Correctly rounded FP32 power of two. -/
  | fexp2S (c : BitVec 1) (g : BitVec 4) (d a : BitVec 6)
  /-- FLOG2_S, R142: Correctly rounded FP32 base-2 logarithm. -/
  | flog2S (c : BitVec 1) (g : BitVec 4) (d a : BitVec 6)
  /-- FSIN_S, R142: Correctly rounded FP32 sine. -/
  | fsinS (c : BitVec 1) (g : BitVec 4) (d a : BitVec 6)
  /-- FCOS_S, R142: Correctly rounded FP32 cosine. -/
  | fcosS (c : BitVec 1) (g : BitVec 4) (d a : BitVec 6)
  /-- FRND_S, R141: Rounds FP32 to an integral value in RM. -/
  | frndS (c : BitVec 1) (g : BitVec 4) (d a : BitVec 6)
  /-- FCLASS_S, R143: Writes the class mask of an FP32 value. -/
  | fclassS (c : BitVec 1) (g : BitVec 4) (d a : BitVec 6)
  /-- FABS_D, R141: Clears the FP64 sign bit. -/
  | fabsD (c : BitVec 1) (g : BitVec 4) (d a : BitVec 6)
  /-- FNEG_D, R141: Inverts the FP64 sign bit. -/
  | fnegD (c : BitVec 1) (g : BitVec 4) (d a : BitVec 6)
  /-- FSQRT_D, R141: Flagged FP64 square root. -/
  | fsqrtD (c : BitVec 1) (g : BitVec 4) (d a : BitVec 6)
  /-- FRCP_D, R141: FP64 reciprocal. -/
  | frcpD (c : BitVec 1) (g : BitVec 4) (d a : BitVec 6)
  /-- FRSQ_D, R141: FP64 reciprocal square root. -/
  | frsqD (c : BitVec 1) (g : BitVec 4) (d a : BitVec 6)
  /-- FEXP2_D, R142: Correctly rounded FP64 power of two. -/
  | fexp2D (c : BitVec 1) (g : BitVec 4) (d a : BitVec 6)
  /-- FLOG2_D, R142: Correctly rounded FP64 base-2 logarithm. -/
  | flog2D (c : BitVec 1) (g : BitVec 4) (d a : BitVec 6)
  /-- FSIN_D, R142: Correctly rounded FP64 sine. -/
  | fsinD (c : BitVec 1) (g : BitVec 4) (d a : BitVec 6)
  /-- FCOS_D, R142: Correctly rounded FP64 cosine. -/
  | fcosD (c : BitVec 1) (g : BitVec 4) (d a : BitVec 6)
  /-- FRND_D, R141: Rounds FP64 to an integral value in RM. -/
  | frndD (c : BitVec 1) (g : BitVec 4) (d a : BitVec 6)
  /-- FCLASS_D, R143: Writes the class mask of an FP64 value. -/
  | fclassD (c : BitVec 1) (g : BitVec 4) (d a : BitVec 6)
  /-- FCVT_FLOAT, R144: Converts between float formats. -/
  | fcvtFloat (c : BitVec 1) (g : BitVec 4) (d a : BitVec 6) (x y : BitVec 3)
  /-- FCVT_TO_INT, R145: Converts S or D to an integer in the point mode. -/
  | fcvtToInt (c : BitVec 1) (g : BitVec 4) (d a : BitVec 6) (x y : BitVec 3)
  /-- FCVT_FROM_INT, R145: Converts an integer register to S or D. -/
  | fcvtFromInt (c : BitVec 1) (g : BitVec 4) (d a : BitVec 6) (x y : BitVec 3)
  /-- FCVTZ, R145: Converts S or D to an integer toward zero. -/
  | fcvtz (c : BitVec 1) (g : BitVec 4) (d a : BitVec 6) (x y : BitVec 3)
  /-- FMOV_GF, R146: Moves 64 bits from a general to a float register. -/
  | fmovGf (c : BitVec 1) (g : BitVec 4) (d a : BitVec 6)
  /-- FMOV_FG, R146: Moves 64 bits from a float to a general register. -/
  | fmovFg (c : BitVec 1) (g : BitVec 4) (d a : BitVec 6)
  /-- IPT_S, R146: Encloses an FP64 point in a type I interval. -/
  | iptS (c : BitVec 1) (g : BitVec 4) (d a : BitVec 6)
  /-- IPT_D, R146: Makes a type J point interval. -/
  | iptD (c : BitVec 1) (g : BitVec 4) (d a : BitVec 6)
  /-- ILO_I, R146: Lower bound of a type I interval. -/
  | iloI (c : BitVec 1) (g : BitVec 4) (d a : BitVec 6)
  /-- IHI_I, R146: Upper bound of a type I interval. -/
  | ihiI (c : BitVec 1) (g : BitVec 4) (d a : BitVec 6)
  /-- IMID_I, R146: Midpoint of a type I interval. -/
  | imidI (c : BitVec 1) (g : BitVec 4) (d a : BitVec 6)
  /-- IWID_I, R146: Width of a type I interval. -/
  | iwidI (c : BitVec 1) (g : BitVec 4) (d a : BitVec 6)
  /-- ILO_J, R146: Lower bound of a type J interval. -/
  | iloJ (c : BitVec 1) (g : BitVec 4) (d a : BitVec 6)
  /-- IHI_J, R146: Upper bound of a type J interval. -/
  | ihiJ (c : BitVec 1) (g : BitVec 4) (d a : BitVec 6)
  /-- IMID_J, R146: Midpoint of a type J interval. -/
  | imidJ (c : BitVec 1) (g : BitVec 4) (d a : BitVec 6)
  /-- IWID_J, R146: Width of a type J interval. -/
  | iwidJ (c : BitVec 1) (g : BitVec 4) (d a : BitVec 6)
  /-- FCMP_EQ_S, R148: FP32 compare equal. -/
  | fcmpEqS (c : BitVec 1) (g : BitVec 4) (p : BitVec 2) (t : BitVec 3) (a b : BitVec 6)
  /-- FCMP_NE_S, R148: FP32 compare not equal. -/
  | fcmpNeS (c : BitVec 1) (g : BitVec 4) (p : BitVec 2) (t : BitVec 3) (a b : BitVec 6)
  /-- FCMP_LT_S, R148: FP32 compare less than. -/
  | fcmpLtS (c : BitVec 1) (g : BitVec 4) (p : BitVec 2) (t : BitVec 3) (a b : BitVec 6)
  /-- FCMP_LE_S, R148: FP32 compare less or equal. -/
  | fcmpLeS (c : BitVec 1) (g : BitVec 4) (p : BitVec 2) (t : BitVec 3) (a b : BitVec 6)
  /-- FCMP_GT_S, R148: FP32 compare greater than. -/
  | fcmpGtS (c : BitVec 1) (g : BitVec 4) (p : BitVec 2) (t : BitVec 3) (a b : BitVec 6)
  /-- FCMP_GE_S, R148: FP32 compare greater or equal. -/
  | fcmpGeS (c : BitVec 1) (g : BitVec 4) (p : BitVec 2) (t : BitVec 3) (a b : BitVec 6)
  /-- FCMP_UN_S, R148: FP32 compare unordered. -/
  | fcmpUnS (c : BitVec 1) (g : BitVec 4) (p : BitVec 2) (t : BitVec 3) (a b : BitVec 6)
  /-- FCMP_ORD_S, R148: FP32 compare ordered. -/
  | fcmpOrdS (c : BitVec 1) (g : BitVec 4) (p : BitVec 2) (t : BitVec 3) (a b : BitVec 6)
  /-- FCMP_EQ_D, R148: FP64 compare equal. -/
  | fcmpEqD (c : BitVec 1) (g : BitVec 4) (p : BitVec 2) (t : BitVec 3) (a b : BitVec 6)
  /-- FCMP_NE_D, R148: FP64 compare not equal. -/
  | fcmpNeD (c : BitVec 1) (g : BitVec 4) (p : BitVec 2) (t : BitVec 3) (a b : BitVec 6)
  /-- FCMP_LT_D, R148: FP64 compare less than. -/
  | fcmpLtD (c : BitVec 1) (g : BitVec 4) (p : BitVec 2) (t : BitVec 3) (a b : BitVec 6)
  /-- FCMP_LE_D, R148: FP64 compare less or equal. -/
  | fcmpLeD (c : BitVec 1) (g : BitVec 4) (p : BitVec 2) (t : BitVec 3) (a b : BitVec 6)
  /-- FCMP_GT_D, R148: FP64 compare greater than. -/
  | fcmpGtD (c : BitVec 1) (g : BitVec 4) (p : BitVec 2) (t : BitVec 3) (a b : BitVec 6)
  /-- FCMP_GE_D, R148: FP64 compare greater or equal. -/
  | fcmpGeD (c : BitVec 1) (g : BitVec 4) (p : BitVec 2) (t : BitVec 3) (a b : BitVec 6)
  /-- FCMP_UN_D, R148: FP64 compare unordered. -/
  | fcmpUnD (c : BitVec 1) (g : BitVec 4) (p : BitVec 2) (t : BitVec 3) (a b : BitVec 6)
  /-- FCMP_ORD_D, R148: FP64 compare ordered. -/
  | fcmpOrdD (c : BitVec 1) (g : BitVec 4) (p : BitVec 2) (t : BitVec 3) (a b : BitVec 6)
  /-- FCMP_EQ_I, R149: Three-valued type I interval equal. -/
  | fcmpEqI (c : BitVec 1) (g : BitVec 4) (p : BitVec 2) (t : BitVec 3) (a b : BitVec 6)
  /-- FCMP_NE_I, R149: Three-valued type I interval not equal. -/
  | fcmpNeI (c : BitVec 1) (g : BitVec 4) (p : BitVec 2) (t : BitVec 3) (a b : BitVec 6)
  /-- FCMP_LT_I, R149: Three-valued type I interval less than. -/
  | fcmpLtI (c : BitVec 1) (g : BitVec 4) (p : BitVec 2) (t : BitVec 3) (a b : BitVec 6)
  /-- FCMP_LE_I, R149: Three-valued type I interval less or equal. -/
  | fcmpLeI (c : BitVec 1) (g : BitVec 4) (p : BitVec 2) (t : BitVec 3) (a b : BitVec 6)
  /-- FCMP_GT_I, R149: Three-valued type I interval greater than. -/
  | fcmpGtI (c : BitVec 1) (g : BitVec 4) (p : BitVec 2) (t : BitVec 3) (a b : BitVec 6)
  /-- FCMP_GE_I, R149: Three-valued type I interval greater or equal. -/
  | fcmpGeI (c : BitVec 1) (g : BitVec 4) (p : BitVec 2) (t : BitVec 3) (a b : BitVec 6)
  /-- FCMP_SUB_I, R149: Type I interval subset test. -/
  | fcmpSubI (c : BitVec 1) (g : BitVec 4) (p : BitVec 2) (t : BitVec 3) (a b : BitVec 6)
  /-- FCMP_DISJ_I, R149: Type I interval disjointness test. -/
  | fcmpDisjI (c : BitVec 1) (g : BitVec 4) (p : BitVec 2) (t : BitVec 3) (a b : BitVec 6)
  /-- FCMP_CONT_I, R149: Type I interval interior containment test. -/
  | fcmpContI (c : BitVec 1) (g : BitVec 4) (p : BitVec 2) (t : BitVec 3) (a b : BitVec 6)
  /-- FCMP_EMPTY_I, R149: Type I canonical-empty test. -/
  | fcmpEmptyI (c : BitVec 1) (g : BitVec 4) (p : BitVec 2) (t : BitVec 3) (a b : BitVec 6)
  /-- FCMP_EQ_J, R149: Three-valued type J interval equal. -/
  | fcmpEqJ (c : BitVec 1) (g : BitVec 4) (p : BitVec 2) (t : BitVec 3) (a b : BitVec 6)
  /-- FCMP_NE_J, R149: Three-valued type J interval not equal. -/
  | fcmpNeJ (c : BitVec 1) (g : BitVec 4) (p : BitVec 2) (t : BitVec 3) (a b : BitVec 6)
  /-- FCMP_LT_J, R149: Three-valued type J interval less than. -/
  | fcmpLtJ (c : BitVec 1) (g : BitVec 4) (p : BitVec 2) (t : BitVec 3) (a b : BitVec 6)
  /-- FCMP_LE_J, R149: Three-valued type J interval less or equal. -/
  | fcmpLeJ (c : BitVec 1) (g : BitVec 4) (p : BitVec 2) (t : BitVec 3) (a b : BitVec 6)
  /-- FCMP_GT_J, R149: Three-valued type J interval greater than. -/
  | fcmpGtJ (c : BitVec 1) (g : BitVec 4) (p : BitVec 2) (t : BitVec 3) (a b : BitVec 6)
  /-- FCMP_GE_J, R149: Three-valued type J interval greater or equal. -/
  | fcmpGeJ (c : BitVec 1) (g : BitVec 4) (p : BitVec 2) (t : BitVec 3) (a b : BitVec 6)
  /-- FCMP_SUB_J, R149: Type J interval subset test. -/
  | fcmpSubJ (c : BitVec 1) (g : BitVec 4) (p : BitVec 2) (t : BitVec 3) (a b : BitVec 6)
  /-- FCMP_DISJ_J, R149: Type J interval disjointness test. -/
  | fcmpDisjJ (c : BitVec 1) (g : BitVec 4) (p : BitVec 2) (t : BitVec 3) (a b : BitVec 6)
  /-- FCMP_CONT_J, R149: Type J interval interior containment test. -/
  | fcmpContJ (c : BitVec 1) (g : BitVec 4) (p : BitVec 2) (t : BitVec 3) (a b : BitVec 6)
  /-- FCMP_EMPTY_J, R149: Type J canonical-empty test. -/
  | fcmpEmptyJ (c : BitVec 1) (g : BitVec 4) (p : BitVec 2) (t : BitVec 3) (a b : BitVec 6)
  /-- IMAKE_S, R150: Builds a type I interval from two FP32 bounds. -/
  | imakeS (c : BitVec 1) (g : BitVec 4) (d a b : BitVec 6)
  /-- IMAKE_D, R150: Builds a type J interval from two FP64 bounds. -/
  | imakeD (c : BitVec 1) (g : BitVec 4) (d a b : BitVec 6)
  /-- BISECT_I, R152: Flagged split of a type I interval, creating a child thread when a slot is free. -/
  | bisectI (c : BitVec 1) (g : BitVec 4) (d a : BitVec 6) (k : BitVec 3)
  /-- BISECT_J, R152: Flagged split of a type J interval, creating a child thread when a slot is free. -/
  | bisectJ (c : BitVec 1) (g : BitVec 4) (d a : BitVec 6) (k : BitVec 3)
  /-- BISECT_COMPLETE, R153: A BISECT finishes for the parent, writes halves and predicate, and creates the child. -/
  | bisectComplete (op : Nat)
  /-- IINFL_I, R150: Inflates a type I interval by a point. -/
  | iinflI (c : BitVec 1) (g : BitVec 4) (d a b : BitVec 6)
  /-- IINFL_J, R150: Inflates a type J interval by a point. -/
  | iinflJ (c : BitVec 1) (g : BitVec 4) (d a b : BitVec 6)
  /-- HADD2, R154: Packed FP16 pair add. -/
  | hadd2 (c : BitVec 1) (g : BitVec 4) (d a b : BitVec 6)
  /-- HMUL2, R154: Packed FP16 pair multiply. -/
  | hmul2 (c : BitVec 1) (g : BitVec 4) (d a b : BitVec 6)
  /-- HFMA2, R154: Packed FP16 pair fused multiply-add. -/
  | hfma2 (c : BitVec 1) (g : BitVec 4) (d a b : BitVec 6)
  /-- BADD2, R154: Packed BF16 pair add. -/
  | badd2 (c : BitVec 1) (g : BitVec 4) (d a b : BitVec 6)
  /-- BMUL2, R154: Packed BF16 pair multiply. -/
  | bmul2 (c : BitVec 1) (g : BitVec 4) (d a b : BitVec 6)
  /-- BFMA2, R154: Packed BF16 pair fused multiply-add. -/
  | bfma2 (c : BitVec 1) (g : BitVec 4) (d a b : BitVec 6)
  /-- CBDEC, R155: Decodes a CB2 codeword into eight INT4 weights. -/
  | cbdec (c : BitVec 1) (g : BitVec 4) (d a b : BitVec 6)
  /-- MXQ, R156: Quantises an FP32 value to an INTp mantissa. -/
  | mxq (c : BitVec 1) (g : BitVec 4) (d a b : BitVec 6)
  /-- LDG_B, R164: Flagged global load of a signed byte. -/
  | ldgB (c : BitVec 1) (g : BitVec 4) (d b p : BitVec 6)
  /-- LDG_BU, R164: Flagged global load of an unsigned byte. -/
  | ldgBu (c : BitVec 1) (g : BitVec 4) (d b p : BitVec 6)
  /-- LDG_H, R164: Flagged global load of a signed half. -/
  | ldgH (c : BitVec 1) (g : BitVec 4) (d b p : BitVec 6)
  /-- LDG_HU, R164: Flagged global load of an unsigned half. -/
  | ldgHu (c : BitVec 1) (g : BitVec 4) (d b p : BitVec 6)
  /-- LDG_W, R164: Flagged global load of a signed word. -/
  | ldgW (c : BitVec 1) (g : BitVec 4) (d b p : BitVec 6)
  /-- LDG_WU, R164: Flagged global load of an unsigned word. -/
  | ldgWu (c : BitVec 1) (g : BitVec 4) (d b p : BitVec 6)
  /-- LDG_D, R164: Flagged global load of 8 bytes. -/
  | ldgD (c : BitVec 1) (g : BitVec 4) (d b p : BitVec 6)
  /-- LDG_Q, R164: Flagged global load of 16 bytes into a register pair. -/
  | ldgQ (c : BitVec 1) (g : BitVec 4) (d b p : BitVec 6)
  /-- STG_B, R167: Global store of a byte. -/
  | stgB (c : BitVec 1) (g : BitVec 4) (d b p : BitVec 6)
  /-- STG_H, R167: Global store of a half. -/
  | stgH (c : BitVec 1) (g : BitVec 4) (d b p : BitVec 6)
  /-- STG_W, R167: Global store of a word. -/
  | stgW (c : BitVec 1) (g : BitVec 4) (d b p : BitVec 6)
  /-- STG_D, R167: Global store of 8 bytes. -/
  | stgD (c : BitVec 1) (g : BitVec 4) (d b p : BitVec 6)
  /-- STG_Q, R167: Global store of 16 bytes from a register pair. -/
  | stgQ (c : BitVec 1) (g : BitVec 4) (d b p : BitVec 6)
  /-- STREF, R218: Flagged checked store of a reference, performed at the home slice. -/
  | stref (c : BitVec 1) (g : BitVec 4) (d b p : BitVec 6)
  /-- STHDR, R219: Stores an object header word. -/
  | sthdr (c : BitVec 1) (g : BitVec 4) (d b p : BitVec 6)
  /-- STREF_HOME_CHECK, R218: A STREF reaches its home slice, is checked against scopes and stored or faulted with ESCAPE. -/
  | strefHomeCheck (op : Nat)
  /-- LDS_B, R164: Flagged scratch load of a signed byte. -/
  | ldsB (c : BitVec 1) (g : BitVec 4) (d b i : BitVec 6)
  /-- LDS_BU, R164: Flagged scratch load of an unsigned byte. -/
  | ldsBu (c : BitVec 1) (g : BitVec 4) (d b i : BitVec 6)
  /-- LDS_H, R164: Flagged scratch load of a signed half. -/
  | ldsH (c : BitVec 1) (g : BitVec 4) (d b i : BitVec 6)
  /-- LDS_HU, R164: Flagged scratch load of an unsigned half. -/
  | ldsHu (c : BitVec 1) (g : BitVec 4) (d b i : BitVec 6)
  /-- LDS_W, R164: Flagged scratch load of a signed word. -/
  | ldsW (c : BitVec 1) (g : BitVec 4) (d b i : BitVec 6)
  /-- LDS_WU, R164: Flagged scratch load of an unsigned word. -/
  | ldsWu (c : BitVec 1) (g : BitVec 4) (d b i : BitVec 6)
  /-- LDS_D, R164: Flagged scratch load of 8 bytes. -/
  | ldsD (c : BitVec 1) (g : BitVec 4) (d b i : BitVec 6)
  /-- LDS_Q, R164: Flagged scratch load of 16 bytes. -/
  | ldsQ (c : BitVec 1) (g : BitVec 4) (d b i : BitVec 6)
  /-- STS_B, R165: Scratch store of a byte. -/
  | stsB (c : BitVec 1) (g : BitVec 4) (d b i : BitVec 6)
  /-- STS_H, R165: Scratch store of a half. -/
  | stsH (c : BitVec 1) (g : BitVec 4) (d b i : BitVec 6)
  /-- STS_W, R165: Scratch store of a word. -/
  | stsW (c : BitVec 1) (g : BitVec 4) (d b i : BitVec 6)
  /-- STS_D, R165: Scratch store of 8 bytes. -/
  | stsD (c : BitVec 1) (g : BitVec 4) (d b i : BitVec 6)
  /-- STS_Q, R165: Scratch store of 16 bytes. -/
  | stsQ (c : BitVec 1) (g : BitVec 4) (d b i : BitVec 6)
  /-- LDF_G_S, R164: Flagged global FP32 load. -/
  | ldfGS (c : BitVec 1) (g : BitVec 4) (d b p : BitVec 6)
  /-- LDF_G_D, R164: Flagged global FP64 load. -/
  | ldfGD (c : BitVec 1) (g : BitVec 4) (d b p : BitVec 6)
  /-- LDF_G_I, R166: Flagged global type I interval load with validity check. -/
  | ldfGI (c : BitVec 1) (g : BitVec 4) (d b p : BitVec 6)
  /-- LDF_G_J, R166: Flagged global type J interval load with validity check. -/
  | ldfGJ (c : BitVec 1) (g : BitVec 4) (d b p : BitVec 6)
  /-- LDF_L_S, R164: Flagged scratch FP32 load. -/
  | ldfLS (c : BitVec 1) (g : BitVec 4) (d b i : BitVec 6)
  /-- LDF_L_D, R164: Flagged scratch FP64 load. -/
  | ldfLD (c : BitVec 1) (g : BitVec 4) (d b i : BitVec 6)
  /-- LDF_L_I, R166: Flagged scratch type I interval load. -/
  | ldfLI (c : BitVec 1) (g : BitVec 4) (d b i : BitVec 6)
  /-- LDF_L_J, R166: Flagged scratch type J interval load. -/
  | ldfLJ (c : BitVec 1) (g : BitVec 4) (d b i : BitVec 6)
  /-- STF_G_S, R164: Global FP32 store. -/
  | stfGS (c : BitVec 1) (g : BitVec 4) (d b p : BitVec 6)
  /-- STF_G_D, R164: Global FP64 store. -/
  | stfGD (c : BitVec 1) (g : BitVec 4) (d b p : BitVec 6)
  /-- STF_G_I, R164: Global type I interval store. -/
  | stfGI (c : BitVec 1) (g : BitVec 4) (d b p : BitVec 6)
  /-- STF_G_J, R164: Global type J interval store. -/
  | stfGJ (c : BitVec 1) (g : BitVec 4) (d b p : BitVec 6)
  /-- STF_L_S, R164: Scratch FP32 store. -/
  | stfLS (c : BitVec 1) (g : BitVec 4) (d b i : BitVec 6)
  /-- STF_L_D, R164: Scratch FP64 store. -/
  | stfLD (c : BitVec 1) (g : BitVec 4) (d b i : BitVec 6)
  /-- STF_L_I, R164: Scratch type I interval store. -/
  | stfLI (c : BitVec 1) (g : BitVec 4) (d b i : BitVec 6)
  /-- STF_L_J, R164: Scratch type J interval store. -/
  | stfLJ (c : BitVec 1) (g : BitVec 4) (d b i : BitVec 6)
  /-- LOAD_REPLY, R77: A flagged load's data returns, is written to the destination and its flag is decremented. -/
  | loadReply (op : Nat) (evict : Bool)
  /-- STORE_FAULT_FOUND, R160: An unflagged store's outcome is found to be a fault, due at the next clause start. -/
  | storeFaultFound (op : Nat)
  /-- AMOG_ADD_W, R172: Relaxed 32-bit atomic add at the home slice. -/
  | amogAddW (c : BitVec 1) (g : BitVec 4) (d b v : BitVec 6)
  /-- AMOG_ADD_D, R172: Relaxed 64-bit atomic add at the home slice. -/
  | amogAddD (c : BitVec 1) (g : BitVec 4) (d b v : BitVec 6)
  /-- AMOG_MAX_W, R172: Relaxed 32-bit atomic signed maximum. -/
  | amogMaxW (c : BitVec 1) (g : BitVec 4) (d b v : BitVec 6)
  /-- AMOG_MIN_W, R172: Relaxed 32-bit atomic signed minimum. -/
  | amogMinW (c : BitVec 1) (g : BitVec 4) (d b v : BitVec 6)
  /-- AMOG_SWAP_W, R172: Relaxed 32-bit atomic swap. -/
  | amogSwapW (c : BitVec 1) (g : BitVec 4) (d b v : BitVec 6)
  /-- AMOG_SWAP_D, R172: Relaxed 64-bit atomic swap. -/
  | amogSwapD (c : BitVec 1) (g : BitVec 4) (d b v : BitVec 6)
  /-- AMOG_CAS_W, R172: Relaxed 32-bit compare-and-swap. -/
  | amogCasW (c : BitVec 1) (g : BitVec 4) (d b v : BitVec 6)
  /-- AMOG_CAS_D, R172: Relaxed 64-bit compare-and-swap. -/
  | amogCasD (c : BitVec 1) (g : BitVec 4) (d b v : BitVec 6)
  /-- AMOG2_AND_D, R172: Relaxed 64-bit atomic and. -/
  | amog2AndD (c : BitVec 1) (g : BitVec 4) (d b v : BitVec 6)
  /-- AMOG2_OR_D, R172: Relaxed 64-bit atomic or. -/
  | amog2OrD (c : BitVec 1) (g : BitVec 4) (d b v : BitVec 6)
  /-- AMOG2_XOR_D, R172: Relaxed 64-bit atomic exclusive or. -/
  | amog2XorD (c : BitVec 1) (g : BitVec 4) (d b v : BitVec 6)
  /-- AMOG2_MAXU_D, R172: Relaxed 64-bit atomic unsigned maximum. -/
  | amog2MaxuD (c : BitVec 1) (g : BitVec 4) (d b v : BitVec 6)
  /-- AMOG2_MINU_D, R172: Relaxed 64-bit atomic unsigned minimum. -/
  | amog2MinuD (c : BitVec 1) (g : BitVec 4) (d b v : BitVec 6)
  /-- AMOG2_AND_W, R172: Relaxed 32-bit atomic and. -/
  | amog2AndW (c : BitVec 1) (g : BitVec 4) (d b v : BitVec 6)
  /-- AMOG2_OR_W, R172: Relaxed 32-bit atomic or. -/
  | amog2OrW (c : BitVec 1) (g : BitVec 4) (d b v : BitVec 6)
  /-- AMOG2_XOR_W, R172: Relaxed 32-bit atomic exclusive or. -/
  | amog2XorW (c : BitVec 1) (g : BitVec 4) (d b v : BitVec 6)
  /-- AMOGSC_ADD_W, R173: Package-SC 32-bit atomic add. -/
  | amogscAddW (c : BitVec 1) (g : BitVec 4) (d b v : BitVec 6)
  /-- AMOGSC_ADD_D, R173: Package-SC 64-bit atomic add. -/
  | amogscAddD (c : BitVec 1) (g : BitVec 4) (d b v : BitVec 6)
  /-- AMOGSC_MAX_W, R173: Package-SC 32-bit atomic signed maximum. -/
  | amogscMaxW (c : BitVec 1) (g : BitVec 4) (d b v : BitVec 6)
  /-- AMOGSC_MIN_W, R173: Package-SC 32-bit atomic signed minimum. -/
  | amogscMinW (c : BitVec 1) (g : BitVec 4) (d b v : BitVec 6)
  /-- AMOGSC_SWAP_W, R173: Package-SC 32-bit atomic swap. -/
  | amogscSwapW (c : BitVec 1) (g : BitVec 4) (d b v : BitVec 6)
  /-- AMOGSC_SWAP_D, R173: Package-SC 64-bit atomic swap. -/
  | amogscSwapD (c : BitVec 1) (g : BitVec 4) (d b v : BitVec 6)
  /-- AMOGSC_CAS_W, R173: Package-SC 32-bit compare-and-swap. -/
  | amogscCasW (c : BitVec 1) (g : BitVec 4) (d b v : BitVec 6)
  /-- AMOGSC_CAS_D, R173: Package-SC 64-bit compare-and-swap. -/
  | amogscCasD (c : BitVec 1) (g : BitVec 4) (d b v : BitVec 6)
  /-- AMOS_ADD_W, R173: Quad-SC 32-bit scratch atomic add. -/
  | amosAddW (c : BitVec 1) (g : BitVec 4) (d b v : BitVec 6)
  /-- AMOS_ADD_D, R173: Quad-SC 64-bit scratch atomic add. -/
  | amosAddD (c : BitVec 1) (g : BitVec 4) (d b v : BitVec 6)
  /-- AMOS_MAX_W, R173: Quad-SC 32-bit scratch atomic signed maximum. -/
  | amosMaxW (c : BitVec 1) (g : BitVec 4) (d b v : BitVec 6)
  /-- AMOS_MIN_W, R173: Quad-SC 32-bit scratch atomic signed minimum. -/
  | amosMinW (c : BitVec 1) (g : BitVec 4) (d b v : BitVec 6)
  /-- AMOS_SWAP_W, R173: Quad-SC 32-bit scratch atomic swap. -/
  | amosSwapW (c : BitVec 1) (g : BitVec 4) (d b v : BitVec 6)
  /-- AMOS_SWAP_D, R173: Quad-SC 64-bit scratch atomic swap. -/
  | amosSwapD (c : BitVec 1) (g : BitVec 4) (d b v : BitVec 6)
  /-- AMOS_CAS_W, R173: Quad-SC 32-bit scratch compare-and-swap. -/
  | amosCasW (c : BitVec 1) (g : BitVec 4) (d b v : BitVec 6)
  /-- AMOS_CAS_D, R173: Quad-SC 64-bit scratch compare-and-swap. -/
  | amosCasD (c : BitVec 1) (g : BitVec 4) (d b v : BitVec 6)
  /-- ATOMIC_PERFORM, R172: An atomic request reaches its home slice or bank and its read-modify-write is performed in the location's single order. -/
  | atomicPerform (op : Nat)
  /-- ATOMIC_REPLY, R173: An atomic's old value returns to the thread and its flag is decremented. -/
  | atomicReply (op : Nat)
  /-- FENCE, R175: Orders predecessor-class operations before successor-class operations at a scope. -/
  | fence (c : BitVec 1) (g : BitVec 4) (p s : BitVec 6) (k : BitVec 3)
  /-- FENCE_RELEASE_HELD, R175: The fence's predecessor operations are performed and the held successor operations proceed. -/
  | fenceReleaseHeld (op : Nat)
  /-- PFL, R178: Prefetches a line into L1 and L2. -/
  | pfl (c : BitVec 1) (g : BitVec 4) (b p : BitVec 6)
  /-- PFR, R178: Prefetches a range into L2, completing on a tag. -/
  | pfr (c : BitVec 1) (g : BitVec 4) (t b l : BitVec 6)
  /-- WBL1, R177: Writes back the context's dirty L1 bytes in a range. -/
  | wbl1 (c : BitVec 1) (g : BitVec 4) (b l : BitVec 6)
  /-- INVL1, R177: Writes back and drops the context's L1 lines in a range. -/
  | invl1 (c : BitVec 1) (g : BitVec 4) (b l : BitVec 6)
  /-- ACQR, R179: Flagged remote-scope promotion over a victim core's L1. -/
  | acqr (c : BitVec 1) (g : BitVec 4) (d b l : BitVec 6)
  /-- ACQR_COMPLETE, R179: The victim and issuing L1 drops finish and the ACQR flag is decremented. -/
  | acqrComplete (op : Nat)
  /-- PUB, R221: Flagged publication of a root reference at a target scope. -/
  | pub (c : BitVec 1) (g : BitVec 4) (d b s : BitVec 6)
  /-- TAGOF, R220: Flagged read of a word's kind. -/
  | tagof (c : BitVec 1) (g : BitVec 4) (d b p : BitVec 6)
  /-- SCOPEOF, R220: Flagged read of a line's effective scope. -/
  | scopeof (c : BitVec 1) (g : BitVec 4) (d b p : BitVec 6)
  /-- COLR, R232: Colours a range of lines. -/
  | colr (c : BitVec 1) (g : BitVec 4) (d b l : BitVec 6)
  /-- COLOF, R234: Flagged read of a line's colour. -/
  | colof (c : BitVec 1) (g : BitVec 4) (d b p : BitVec 6)
  /-- COLR_LINE, R233: COLR reaches a line's home slice, purges its copies and sets or checks its colour. -/
  | colrLine (op : Nat)
  /-- WALK_START, R222: After PUB's release write-back and drain, the walk is handed to the quad's eclosion walker. -/
  | walkStart (op : Nat)
  /-- WALK_OBJECT, R223: The walker takes the next queue entry, raises the object's lines and appends its references. -/
  | walkObject (walk : Nat)
  /-- CWAIT, R245: Releases the highest held colour into the wait set and parks. -/
  | cwait (c : BitVec 1) (g : BitVec 4) (b : BitVec 6)
  /-- CNOTIFY, R244: Sends notify for a held colour. -/
  | cnotify (c : BitVec 1) (g : BitVec 4) (b : BitVec 6)
  /-- CNOTIFYALL, R244: Sends notify-all for a held colour. -/
  | cnotifyall (c : BitVec 1) (g : BitVec 4) (b : BitVec 6)
  /-- CHELD, R247: Reads whether and at what depth a colour is held. -/
  | cheld (c : BitVec 1) (g : BitVec 4) (d b : BitVec 6)
  /-- MONITOR_ACQUIRE, R236: An acquire message at the home slice grants ownership or joins the entry queue. -/
  | monitorAcquire (msg : Nat)
  /-- MONITOR_RELEASE, R236: A release message frees the monitor or grants the entry-queue head. -/
  | monitorRelease (msg : Nat)
  /-- MONITOR_WAIT, R236: A wait message releases the monitor and appends the sender to the wait set. -/
  | monitorWait (msg : Nat)
  /-- MONITOR_NOTIFY, R236: A notify message moves the oldest waiter to the entry queue. -/
  | monitorNotify (msg : Nat)
  /-- MONITOR_NOTIFY_ALL, R236: A notify-all message moves every waiter to the entry queue. -/
  | monitorNotifyAll (msg : Nat)
  /-- MONITOR_GRANT, R239: A grant arrives at the core, which drops colour 0 and c lines, performs held accesses and wakes the thread. -/
  | monitorGrant (reply : Nat)
  /-- MONITOR_QUEUED_REPLY, R238: A queued reply arrives and the thread becomes park-pending. -/
  | monitorQueuedReply (reply : Nat)
  /-- COLOUR_RELEASE_SEND, R241: Once earlier accesses, write-backs and drain complete, the release or wait message is sent. -/
  | colourReleaseSend (rel : Nat)
  /-- COPY, R284: Queues a copy between scratch and global or scratch, on a tag. -/
  | copy (c : BitVec 1) (g : BitVec 4) (d s p : BitVec 6)
  /-- COPYM, R289: Queues a multicast copy into groups on masked quad cores. -/
  | copym (c : BitVec 1) (g : BitVec 4) (d s p : BitVec 6)
  /-- COPYB, R290: Queues a copy that completes with an arrival on a barrier word. -/
  | copyb (c : BitVec 1) (g : BitVec 4) (d s p : BitVec 6)
  /-- GATHER, R292: Queues an indexed gather from a global table into scratch. -/
  | gather (c : BitVec 1) (g : BitVec 4) (d x p : BitVec 6)
  /-- COPY_START, R287: A queued copy, gather or PFR starts once its footprint conflicts and ring depth allow. -/
  | copyStart (copy : Nat)
  /-- COPY_END, R288: A copy finishes writing its destination, possibly with an error, and completes its tag. -/
  | copyEnd (copy : Nat)
  /-- GATHER_END, R292: The gather reply is written to the destination and the gather ends. -/
  | gatherEnd (copy : Nat)
  /-- PFR_END, R291: Every line of a PFR range is in L2 or skipped and its tag completes. -/
  | pfrEnd (copy : Nat)
  /-- RING_IDLE_EXPIRY, R293: The ring's idle count reaches 8 and the depth shrinks. -/
  | ringIdleExpiry (group : Nat)
  /-- TWAITALL, R294: Parks until every tag of the mask is ready. -/
  | twaitall (c : BitVec 1) (g : BitVec 4) (b : BitVec 6)
  /-- TWAITANY, R294: Parks until some tag of the mask is ready. -/
  | twaitany (c : BitVec 1) (g : BitVec 4) (b : BitVec 6)
  /-- TFIRST, R294: Returns the lowest ready tag of a mask. -/
  | tfirst (c : BitVec 1) (g : BitVec 4) (d b : BitVec 6)
  /-- TCLR, R294: Clears ready tags and empties error states. -/
  | tclr (c : BitVec 1) (g : BitVec 4) (b : BitVec 6)
  /-- TDEF, R268: Queues a command defining a tid entry from a scratch descriptor. -/
  | tdef (c : BitVec 1) (g : BitVec 4) (d b p : BitVec 6)
  /-- TRD, R269: Reads a 64-bit part of a tid entry. -/
  | trd (c : BitVec 1) (g : BitVec 4) (d t i : BitVec 6)
  /-- SIGN, R262: Signs a convergence register after the thread's scratch stores. -/
  | sign (c : BitVec 1) (g : BitVec 4) (n : BitVec 6)
  /-- MLDB, R270: Queues a decode of a B tile into a weight slot. -/
  | mldb (c : BitVec 1) (g : BitVec 4) (d b : BitVec 6)
  /-- MMQ, R271: Queues a block-scaled matrix multiply of A rows into accumulator rows. -/
  | mmq (c : BitVec 1) (g : BitVec 4) (d a m : BitVec 6)
  /-- MCOMMIT, R267: Closes the thread's open matrix group on a tag. -/
  | mcommit (c : BitVec 1) (g : BitVec 4) (n : BitVec 6)
  /-- MWAIT, R267: Waits for a tag and reports faulted matrix groups. -/
  | mwait (c : BitVec 1) (g : BitVec 4) (n : BitVec 6)
  /-- CVSET, R261: Sets a convergence register's expected count. -/
  | cvset (c : BitVec 1) (g : BitVec 4) (n p : BitVec 6)
  /-- SIGN_APPLY, R262: A signature is applied after the signer's scratch stores are performed; the register may fire. -/
  | signApply (op : Nat)
  /-- CVSET_APPLY, R261: A CVSET is applied in order, resetting the arrival count. -/
  | cvsetApply (op : Nat)
  /-- ENGINE_COMMAND_START, R265: A queued engine command starts on its unit once conflicts have ended and its register has fired. -/
  | engineCommandStart (cmd : Nat)
  /-- TDEF_COMPLETE, R268: A TDEF writes its tid entry or faults after 4 cycles. -/
  | tdefComplete (cmd : Nat)
  /-- MLDB_COMPLETE, R270: The decoder finishes 1,024 rows and the slot becomes loaded. -/
  | mldbComplete (cmd : Nat)
  /-- MMQ_ROW, R271: An array row ends, the accumulator row is updated and progress advances. -/
  | mmqRow (cmd : Nat)
  /-- MZERO_ROW, R274: The tile unit zeroes one accumulator row. -/
  | mzeroRow (cmd : Nat)
  /-- MXST_ROW, R274: The tile unit stores one accumulator row to scratch. -/
  | mxstRow (cmd : Nat)
  /-- MZERO, R274: Queues zeroing of accumulator rows. -/
  | mzero (c : BitVec 1) (g : BitVec 4) (b p : BitVec 6)
  /-- MRD, R275: Flagged read of two accumulator elements. -/
  | mrd (c : BitVec 1) (g : BitVec 4) (d b i : BitVec 6)
  /-- MWR, R275: Writes two accumulator elements. -/
  | mwr (c : BitVec 1) (g : BitVec 4) (d b i : BitVec 6)
  /-- STPL, R276: Stores a mantissa as bit planes in scratch. -/
  | stpl (c : BitVec 1) (g : BitVec 4) (d a p : BitVec 6)
  /-- MXST, R274: Queues storing of accumulator rows to scratch. -/
  | mxst (c : BitVec 1) (g : BitVec 4) (d b p : BitVec 6)
  /-- BINIT, R330: Initialises a live barrier word. -/
  | binit (c : BitVec 1) (g : BitVec 4) (b p : BitVec 6)
  /-- ARRIVE, R330: Releases and counts arrivals on a barrier word. -/
  | arrive (c : BitVec 1) (g : BitVec 4) (b p : BitVec 6)
  /-- BWAIT, R331: Parks until the barrier phase leaves a reference. -/
  | bwait (c : BitVec 1) (g : BitVec 4) (b p : BitVec 6)
  /-- ARRIVEW, R331: Arrives on a barrier word and waits for the phase to advance. -/
  | arrivew (c : BitVec 1) (g : BitVec 4) (b p : BitVec 6)
  /-- NBAR, R333: Arrives on the barrier network of a scope and parks until the phase completes. -/
  | nbar (c : BitVec 1) (g : BitVec 4) (s : BitVec 6)
  /-- BINVAL, R332: Makes a barrier word not live, faulting its waiters. -/
  | binval (c : BitVec 1) (g : BitVec 4) (b : BitVec 6)
  /-- BARRIER_BANK_OP, R330: The bank performs a barrier-word operation, counting arrivals and advancing the phase. -/
  | barrierBankOp (op : Nat)
  /-- NBAR_PHASE_COMPLETE, R333: A network barrier phase completes after its latency and parked participants wake. -/
  | nbarPhaseComplete (op : Nat)
  /-- TQPUSH, R318: Pushes a task entry at the head of the kernel's queue. -/
  | tqpush (c : BitVec 1) (g : BitVec 4) (d : BitVec 6)
  /-- TQPOP, R319: Flagged pop of a task entry, stealing if the own queue is empty. -/
  | tqpop (c : BitVec 1) (g : BitVec 4) (d : BitVec 6)
  /-- AMSEND, R323: Flagged send of an active message to a target core. -/
  | amsend (c : BitVec 1) (g : BitVec 4) (d b p : BitVec 6)
  /-- LAUNCH, R311: Flagged launch of a child kernel from a record. -/
  | launch (c : BitVec 1) (g : BitVec 4) (d b p : BitVec 6)
  /-- TQ_PUSH_APPLY, R318: After the thread's earlier accesses are performed, the entry is pushed at the queue head. -/
  | tqPushApply (op : Nat)
  /-- TQ_POP_SERVE, R320: The engine serves an own pop, returning the head entry or starting steal attempts. -/
  | tqPopServe (op : Nat)
  /-- TQ_STEAL_SERVE, R320: A victim engine serves a steal request from its queue tail. -/
  | tqStealServe (op : Nat)
  /-- TQPOP_REPLY, R319: The task word is written and the TQPOP flag decremented. -/
  | tqpopReply (op : Nat)
  /-- AM_ARRIVAL, R324: An active message reaches its target core and is accepted or refused. -/
  | amArrival (op : Nat)
  /-- AMSEND_STATUS, R323: The message status returns and the AMSEND flag is decremented. -/
  | amsendStatus (op : Nat)
  /-- HANDLER_GROUP_PLACE, R325: A handler group is placed on its target core with the payload and an acquire. -/
  | handlerGroupPlace (msg : Nat)
  /-- LAUNCH_STATUS, R311: The record is validated and appended to the launch list; status written and flag decremented. -/
  | launchStatus (op : Nat)
  /-- TRAP, R345: Raises SOFTWARE with an operand. -/
  | trap (c : BitVec 1) (g : BitVec 4) (b : BitVec 6)
  /-- RFT, R346: Returns from the trap handler to the resume address. -/
  | rft (c : BitVec 1) (g : BitVec 4)
  /-- RDTR, R345: Reads a trap-record word. -/
  | rdtr (c : BitVec 1) (g : BitVec 4) (d b : BitVec 6)
  /-- SYSCALL, R345: Raises SOFTWARE with SC set, as a service request. -/
  | syscall (c : BitVec 1) (g : BitVec 4) (b : BitVec 6)
  /-- DFLUSH, R398: Makes its clause end a flush point in deterministic mode. -/
  | dflush (c : BitVec 1) (g : BitVec 4)
  /-- RDFPC, R345: Reads sr.fpc. -/
  | rdfpc (c : BitVec 1) (g : BitVec 4) (d : BitVec 6)
  /-- WRFPC, R345: Writes sr.fpc for later clauses. -/
  | wrfpc (c : BitVec 1) (g : BitVec 4) (b : BitVec 6)
  /-- RDHASH, R398: Reads the thread's store hash. -/
  | rdhash (c : BitVec 1) (g : BitVec 4) (d : BitVec 6)
  /-- ATOMIC_BUFFER_DRAIN, R390: At a flush point the deterministic atomic buffer is sorted and performed. -/
  | atomicBufferDrain (kernel core : Nat)
  /-- L1_SWEEP_WRITEBACK, R182: A dirty byte reaches 4,096 cycles in L1 and is written back. -/
  | l1SweepWriteback (core asid line : Nat)
  /-- WRITEBACK_ARRIVAL, R180: A write-back reaches its L2 slice and merges its dirty bytes, waiting for a reserved entry if needed. -/
  | writebackArrival (wb : Nat)
  /-- WRITE_THROUGH_ARRIVAL, R183: A write-through of an L2 copy reaches the home slice and merges. -/
  | writeThroughArrival (wt : Nat)
  /-- KERNEL_RECORD_ACCEPT, R304: A launch record is accepted and becomes queued or rejected. -/
  | kernelRecordAccept (die : Nat)
  /-- GROUP_PLACE, R307: The dispatcher places the next group on the first core that can take it. -/
  | groupPlace
  /-- GROUP_START, R314: The L1 reclaim of the group's granules completes and its first clause may issue. -/
  | groupStart (group : Nat)
  /-- GROUP_RETIRE, R314: A retiring group's copies, releases and admitted writes end and its resources return. -/
  | groupRetire (group : Nat)
  /-- KERNEL_RETIRE, R201: After the last group retires, L1 write-back, drain and flash-clear complete and the kernel retires. -/
  | kernelRetire (kernel : Nat)
  /-- CONTEXT_SLOT_ASSIGN, R336: Firmware assigns a free context slot and starts loading. -/
  | contextSlotAssign (core slot asid : Nat)
  /-- CONTEXT_LOAD_COMPLETE, R338: A context's load from its chrysalis area completes and it becomes ready. -/
  | contextLoadComplete (core asid : Nat)
  /-- CONTEXT_SWITCH_REQUEST, R337: Firmware requests a switch; the core starts no new clause of the running context. -/
  | contextSwitchRequest (core asid : Nat)
  /-- SWITCH_EXCHANGE_BEGIN, R337: Clause and engine boundaries are reached and the slot exchange begins. -/
  | switchExchangeBegin (core : Nat)
  /-- SWITCH_EXCHANGE_END, R337: The exchange ends and the incoming context may issue. -/
  | switchExchangeEnd (core cycles : Nat)
  /-- WEIGHT_SLOT_RESTORE_DONE, R337: Weight-slot streaming completes and engine commands may resume. -/
  | weightSlotRestoreDone (core : Nat)
  /-- CONTEXT_EVICT, R336: Firmware evicts a ready context and its save begins. -/
  | contextEvict (core asid : Nat)
  /-- CONTEXT_SAVE_COMPLETE, R338: A context's save completes and its slot is free. -/
  | contextSaveComplete (core asid : Nat)
  /-- CONTEXT_DESTROY, R336: The driver destroys a context without saving. -/
  | contextDestroy (asid : Nat)
  /-- TRANSLATION, R354: An L2 miss is translated by the controller TLB, walking the page table on a TLB miss. -/
  | translation (op : Nat) (rewalk : Bool)
  /-- FAULT_READ_INDEX_ADVANCE, R359: The driver advances the fault buffer read index and held records are written. -/
  | faultReadIndexAdvance (asid idx : Nat)
  /-- MIGRATION_COUNTER_HALVE, R361: Every 2^20 cycles each migration counter is halved and may re-arm. -/
  | migrationCounterHalve (die : Nat)
  /-- INVAL, R356: Page command 0x01: drops TLB entries of a range. -/
  | inval (w0 w1 w2 w3 : Word)
  /-- PURGE, R356: Page command 0x02: INVAL plus write-back and drop of every cached copy of the range. -/
  | purge (w0 w1 w2 w3 : Word)
  /-- MOVE, R361: Page command 0x03: moves a leaf page to a new frame. -/
  | move (w0 w1 w2 w3 : Word)
  /-- BIAS, R364: Page command 0x04: changes a page between device and host bias. -/
  | bias (w0 w1 w2 w3 : Word)
  /-- REPLAY, R360: Page command 0x05: retranslates held accesses up to a sequence number. -/
  | replay (w0 w1 w2 w3 : Word)
  /-- DENY, R360: Page command 0x06: ends held accesses to a page with PAGE_DENIED. -/
  | deny (w0 w1 w2 w3 : Word)
  /-- DGET, R357: Page command 0x07: returns and clears one dirty-bitmap entry. -/
  | dget (w0 w1 w2 w3 : Word)
  /-- SCRUB, R356: Page command 0x08: zeroes data, metadata and poison of frames. -/
  | scrub (w0 w1 w2 w3 : Word)
  /-- QUEUE_REGISTER, R366: The driver registers a host command queue header with a die. -/
  | queueRegister (die hdr asid : Nat)
  /-- QUEUE_DESTROY, R371: The driver destroys an unmapped queue. -/
  | queueDestroy (queue : Nat)
  /-- QUEUE_MAP, R372: Firmware assigns a slot, swaps the wake word to 0 and scans the ring. -/
  | queueMap (queue slot : Nat)
  /-- QUEUE_UNMAP, R372: Firmware detaches a queue from its slot in five steps. -/
  | queueUnmap (queue : Nat)
  /-- QUEUE_WAKE, R371: A write at a mapped queue's wake word wakes its slot to scan for packets. -/
  | queueWake (queue : Nat)
  /-- QUEUE_SLOT_TIMESLICE, R371: A queue that has held its slot 1 ms is unmapped when others wait. -/
  | queueSlotTimeslice (die : Nat)
  /-- QUEUE_LAUNCH, R367: Packet type 1: accepts a launch record as a kernel. -/
  | queueLaunch (queue idx : Nat)
  /-- QUEUE_COPY, R367: Packet type 2: copies bytes between global addresses. -/
  | queueCopy (queue idx : Nat)
  /-- QUEUE_SIGNAL, R367: Packet type 3: atomic add as a pod-scope release. -/
  | queueSignal (queue idx : Nat)
  /-- QUEUE_WAIT, R367: Packet type 4: waits until a word reaches a value. -/
  | queueWait (queue idx : Nat)
  /-- QUEUE_WAIT_SATISFIED, R367: An atomic read at the wait word returns a value at least B and the wait packet completes. -/
  | queueWaitSatisfied (queue idx : Nat)
  /-- QUEUE_MARKER, R367: Packet type 5: after all earlier packets, writes a value. -/
  | queueMarker (queue idx : Nat)
  /-- QUEUE_TIMESTAMP, R367: Packet type 6: writes the package timestamp at completion. -/
  | queueTimestamp (queue idx : Nat)
  /-- QUEUE_PACKET_COMPLETE, R368: A packet completes, setting its tokens, clearing V and advancing the done index. -/
  | queuePacketComplete (queue idx : Nat)
  /-- BULK_ENGINE_WAKE, R299: A write at a bulk queue header or packet line wakes the die's copy engine. -/
  | bulkEngineWake (bulk : Nat)
  /-- BULK_PACKET_START, R299: The engine starts the next valid bulk packet in index order. -/
  | bulkPacketStart (bulk : Nat)
  /-- BULK_PACKET_COMPLETE, R299: A bulk packet writes its destination, performs its signal and clears V. -/
  | bulkPacketComplete (bulk idx : Nat)
  /-- KRFET, R374: Kiln fetches a queue packet into SRAM and returns word 0 if valid. -/
  | krfet (t s d : BitVec 5)
  /-- KBFX, R374: Kiln unsigned bit-field extract. -/
  | kbfx (t s d : BitVec 5)
  /-- KSWAIT, R374: Kiln stalls until a selected event line is pending. -/
  | kswait (s d : BitVec 5)
  /-- KSWAIT_WAKE, R374: A selected event line becomes pending; KSWAIT returns and clears those bits. -/
  | kswaitWake (die line : Nat)
  /-- KDISP, R374: Kiln hands a launch record to the die's dispatcher. -/
  | kdisp (t s d : BitVec 5)
  /-- WATCHDOG_HEARTBEAT, R376: Firmware writes the watchdog heartbeat. -/
  | watchdogHeartbeat
  /-- WATCHDOG_EXPIRY, R376: A missed heartbeat interrupts the host. -/
  | watchdogExpiry
  /-- POWER_GOOD, R377: After power-good, mask ROM trains UCIe and opens the download window. -/
  | powerGood
  /-- IMAGE_START_COMMAND, R377: The host's start command makes ROM check the image signature and apply floor map and repair data. -/
  | imageStartCommand (image : Nat) (floor : List Nat)
  /-- REDUCED_SERVICE_BEGIN, R377: Reduced service begins at low clock with one stack per die. -/
  | reducedServiceBegin
  /-- HBM_STACK_TRAINED, R377: A stack finishes training and held accesses to it proceed. -/
  | hbmStackTrained (stack : Nat)
  /-- FULL_SERVICE_BEGIN, R377: Full service begins: clocks rise, second stacks join, enabled links come up. -/
  | fullServiceBegin
  /-- DEVICE_RESET, R377: The device returns to mask ROM and needs a new image. -/
  | deviceReset
  /-- POWER_LIMIT_EXCEEDED, R20: The package power limit is exceeded and every quad clamps to 525 MHz. -/
  | powerLimitExceeded
  /-- THERMAL_TRIP, R20: A quad's trip point is exceeded and that quad clamps to 525 MHz. -/
  | thermalTrip (quad : Nat)
  /-- CLAMP_SECOND_STEP, R20: A clamp condition persisting 1 ms lowers the clock to 350 MHz. -/
  | clampSecondStep (thermal : Bool) (quad : Nat)
  /-- CLAMP_RESTORE, R20: A clamp cause clear for 10 ms restores the clock one step. -/
  | clampRestore (thermal : Bool) (quad : Nat)
  /-- CLOCK_CHANGE_APPLY, R21: A clock change takes effect at clause and row boundaries of the affected cores. -/
  | clockChangeApply (quad : Nat)
  /-- POWER_LIMIT_SET, R20: The host sets the package power limit. -/
  | powerLimitSet (watts : Nat)
  /-- RDC_SIZE_SET, R13: The driver sets a die's remote-data-cache size, refused while a kernel is resident. -/
  | rdcSizeSet (die gib : Nat)
  /-- LINK_ENABLE, R378: The host sets a link's enable and training begins. -/
  | linkEnable (link : Nat)
  /-- LINK_DISABLE, R378: The host clears a link's enable and the link goes down. -/
  | linkDisable (link : Nat)
  /-- LINK_TRAINED, R378: Link training completes and the link is up. -/
  | linkTrained (link rate : Nat)
  /-- LINK_TRAINING_TIMEOUT, R378: Training not complete 100 ms after enable; the link fails. -/
  | linkTrainingTimeout (link : Nat)
  /-- LINK_REPLAY_FAILURE, R378: Eight consecutive failed replays of one flit fail the link. -/
  | linkReplayFailure (link : Nat)
  /-- LINK_LOCK_LOSS, R378: Receiver lock lost for 10 micros fails the link. -/
  | linkLockLoss (link : Nat)
  /-- HOST_MODULE_FAIL, R380: A UCIe module fails and its quarter of host bandwidth is removed. -/
  | hostModuleFail (module : Nat)
  /-- REGISTER_WRITE, R2: A write to a device register with no row of its own, ignored if it breaks a requirement. -/
  | registerWrite (reg : Nat) (val : Word)
  /-- CONTEXT_CREATE, R336: The driver creates a context, giving its ASID, page-table base, handler entry, handler table, walk, monitor and chrysalis areas and fault buffer, with every tid entry at 0. -/
  | contextCreate (asid ptDie ptBase : Nat) (handler : Word) (table : List Nat) (walkArea monArea saveArea fbBase fbLog : Nat)
  /-- BULK_QUEUE_REGISTER, R297: The driver registers a bulk queue with a die under a context's ASID, up to 256 per die. -/
  | bulkQueueRegister (die hdr asid : Nat)
  /-- HOST_MEMORY_ACCESS, R364: A host CXL.mem read or write to device memory is performed at the line's home slice, and a write sets the kinds of the words it touches to data. -/
  | hostMemoryAccess (node addr : Nat) (write : Bool) (data : List Byte)
  /-- CLAMP_CONDITION_CLEAR, R20: Package power drops below the limit, or a quad's temperature falls below its trip point, and the 10 ms restore interval begins. -/
  | clampConditionClear (thermal : Bool) (quad : Nat)
  /-- COHORT_SWAP_COMPLETE, R102: Four cycles after a swap begins, the incoming pending cohort takes its place in the active set. -/
  | cohortSwapComplete (core : Nat)
  /-- EVENT_RING_READ_ADVANCE, R373: The host advances the event ring's read index, and the device may write event entries again after an overflow. -/
  | eventRingReadAdvance (idx : Nat)
  /-- POD_JOB_ENROL, R383: The driver enrols, re-enrols or removes a package's kernel in a pod job, which changes the membership that NBAR .pod phases count. -/
  | podJobEnrol (job kernel : Nat) (members : List Nat) (enrol : Bool)
  /-- SCRATCH_STORE_PERFORM, R316: A scratch store or MWR reaches its target bank and is admitted and written, or is dropped when its group is not resident. -/
  | scratchStorePerform (op : Nat)
  deriving DecidableEq, Repr

end Sys2Proof
end

