-- ==== Sys2Proof/WellFormed.lean ====
section
/-!
DEFINITION. Which instructions are well formed: the operand values that R68, R84, R86, R164, R283 and the words' own entries call ILLEGAL
whatever a kernel declares. Declared counts are checked when the word issues (Machine/Check.lean). Events have no encoding and are
not well formed as words.
-/

namespace Sys2Proof

/-- A general-register destination is not 63 (R68); a type J register is even (R31, R84); the registers of a 16-byte access are an even pair
(R164, R283); codes lie in their range (R86, R116, R124, R144, R145, R174, R221, R329, R72). -/
def Instr.wf (i : Instr) : Bool :=
  match i with
  | .clauseStart _ a b _ _ => decide ((a.toNat ≤ 11 ∧ (b.toNat ≤ 11 ∨ b.toNat = 15)))
  | .waitCountExpiry _ _ => false
  | .resultLands _ => false
  | .threadSlotFree _ => false
  | .cohortRetire _ => false
  | .nop _ _ => true
  | .yield _ _ => true
  | .rdclk _ _ d => decide (d.toNat ≠ 63)
  | .rdtags _ _ d => decide (d.toNat ≠ 63)
  | .brUt _ _ => true
  | .brUf _ _ => true
  | .br _ _ => true
  | .brUl _ _ => true
  | .jmp _ => true
  | .call _ => true
  | .jmpr _ _ => true
  | .callr _ _ => true
  | .ret _ => true
  | .exit _ => true
  | .addW _ _ d _ _ => decide (d.toNat ≠ 63)
  | .subW _ _ d _ _ => decide (d.toNat ≠ 63)
  | .andW _ _ d _ _ => decide (d.toNat ≠ 63)
  | .orW _ _ d _ _ => decide (d.toNat ≠ 63)
  | .xorW _ _ d _ _ => decide (d.toNat ≠ 63)
  | .andnW _ _ d _ _ => decide (d.toNat ≠ 63)
  | .minW _ _ d _ _ => decide (d.toNat ≠ 63)
  | .maxW _ _ d _ _ => decide (d.toNat ≠ 63)
  | .addD _ _ d _ _ => decide (d.toNat ≠ 63)
  | .subD _ _ d _ _ => decide (d.toNat ≠ 63)
  | .andD _ _ d _ _ => decide (d.toNat ≠ 63)
  | .orD _ _ d _ _ => decide (d.toNat ≠ 63)
  | .xorD _ _ d _ _ => decide (d.toNat ≠ 63)
  | .andnD _ _ d _ _ => decide (d.toNat ≠ 63)
  | .minD _ _ d _ _ => decide (d.toNat ≠ 63)
  | .maxD _ _ d _ _ => decide (d.toNat ≠ 63)
  | .minuW _ _ d _ _ => decide (d.toNat ≠ 63)
  | .maxuW _ _ d _ _ => decide (d.toNat ≠ 63)
  | .shlW _ _ d _ _ => decide (d.toNat ≠ 63)
  | .shrW _ _ d _ _ => decide (d.toNat ≠ 63)
  | .sarW _ _ d _ _ => decide (d.toNat ≠ 63)
  | .rotW _ _ d _ _ => decide (d.toNat ≠ 63)
  | .mulW _ _ d _ _ => decide (d.toNat ≠ 63)
  | .mulhW _ _ d _ _ => decide (d.toNat ≠ 63)
  | .minuD _ _ d _ _ => decide (d.toNat ≠ 63)
  | .maxuD _ _ d _ _ => decide (d.toNat ≠ 63)
  | .shlD _ _ d _ _ => decide (d.toNat ≠ 63)
  | .shrD _ _ d _ _ => decide (d.toNat ≠ 63)
  | .sarD _ _ d _ _ => decide (d.toNat ≠ 63)
  | .rotD _ _ d _ _ => decide (d.toNat ≠ 63)
  | .mulD _ _ d _ _ => decide (d.toNat ≠ 63)
  | .mulhD _ _ d _ _ => decide (d.toNat ≠ 63)
  | .addiW _ _ d _ _ => decide (d.toNat ≠ 63)
  | .addiD _ _ d _ _ => decide (d.toNat ≠ 63)
  | .shliW _ _ d _ _ => decide (d.toNat ≠ 63)
  | .shriW _ _ d _ _ => decide (d.toNat ≠ 63)
  | .sariW _ _ d _ _ => decide (d.toNat ≠ 63)
  | .rotiW _ _ d _ _ => decide (d.toNat ≠ 63)
  | .shliD _ _ d _ _ => decide (d.toNat ≠ 63)
  | .shriD _ _ d _ _ => decide (d.toNat ≠ 63)
  | .sariD _ _ d _ _ => decide (d.toNat ≠ 63)
  | .rotiD _ _ d _ _ => decide (d.toNat ≠ 63)
  | .movi _ _ d _ => decide (d.toNat ≠ 63)
  | .lea1 _ _ d _ _ => decide (d.toNat ≠ 63)
  | .lea2 _ _ d _ _ => decide (d.toNat ≠ 63)
  | .lea4 _ _ d _ _ => decide (d.toNat ≠ 63)
  | .lea8 _ _ d _ _ => decide (d.toNat ≠ 63)
  | .lea16 _ _ d _ _ => decide (d.toNat ≠ 63)
  | .macW _ _ d _ _ => decide (d.toNat ≠ 63)
  | .macD _ _ d _ _ => decide (d.toNat ≠ 63)
  | .mulhuD _ _ d _ _ => decide (d.toNat ≠ 63)
  | .mov _ _ d _ => decide (d.toNat ≠ 63)
  | .not _ _ d _ => decide (d.toNat ≠ 63)
  | .neg _ _ d _ => decide (d.toNat ≠ 63)
  | .abs _ _ d _ => decide (d.toNat ≠ 63)
  | .clzW _ _ d _ => decide (d.toNat ≠ 63)
  | .clzD _ _ d _ => decide (d.toNat ≠ 63)
  | .popc _ _ d _ => decide (d.toNat ≠ 63)
  | .brevD _ _ d _ => decide (d.toNat ≠ 63)
  | .sextB _ _ d _ => decide (d.toNat ≠ 63)
  | .sextH _ _ d _ => decide (d.toNat ≠ 63)
  | .sextW _ _ d _ => decide (d.toNat ≠ 63)
  | .zextB _ _ d _ => decide (d.toNat ≠ 63)
  | .zextH _ _ d _ => decide (d.toNat ≠ 63)
  | .zextW _ _ d _ => decide (d.toNat ≠ 63)
  | .movk _ _ d k => decide (d.toNat ≠ 63 ∧ k.toNat < 32)
  | .rdsr _ _ d s => decide (d.toNat ≠ 63 ∧ s.toNat < 20)
  | .wrsr _ _ s _ => decide ((s.toNat = 13 ∨ s.toNat = 16))
  | .movp _ _ d _ => decide (d.toNat ≠ 63)
  | .bfx _ _ d _ _ => decide (d.toNat ≠ 63)
  | .bfxu _ _ d _ _ => decide (d.toNat ≠ 63)
  | .bfi _ _ d _ _ => decide (d.toNat ≠ 63)
  | .icmpEq _ _ _ _ _ _ => true
  | .icmpNe _ _ _ _ _ _ => true
  | .icmpLt _ _ _ _ _ _ => true
  | .icmpLe _ _ _ _ _ _ => true
  | .icmpGt _ _ _ _ _ _ => true
  | .icmpGe _ _ _ _ _ _ => true
  | .icmpLtu _ _ _ _ _ _ => true
  | .icmpLeu _ _ _ _ _ _ => true
  | .icmpGtu _ _ _ _ _ _ => true
  | .icmpGeu _ _ _ _ _ _ => true
  | .icmpTst _ _ _ _ _ _ => true
  | .icmpNtst _ _ _ _ _ _ => true
  | .pand _ _ _ _ _ => true
  | .por _ _ _ _ _ => true
  | .pxor _ _ _ _ _ => true
  | .pnot _ _ _ _ => true
  | .pmov _ _ _ _ => true
  | .pisu _ _ _ _ => true
  | .pist _ _ _ _ => true
  | .pset _ _ _ v => decide (v.toNat ≤ 2)
  | .voteAll _ _ d _ => decide (d.toNat ≠ 63)
  | .voteAny _ _ d _ => decide (d.toNat ≠ 63)
  | .ballot _ _ d _ => decide (d.toNat ≠ 63)
  | .ballotu _ _ d _ => decide (d.toNat ≠ 63)
  | .shflIdx _ _ d _ _ => decide (d.toNat ≠ 63)
  | .shflUp _ _ d _ _ => decide (d.toNat ≠ 63)
  | .shflDown _ _ d _ _ => decide (d.toNat ≠ 63)
  | .shflXor _ _ d _ _ => decide (d.toNat ≠ 63)
  | .divW _ _ d _ _ => decide (d.toNat ≠ 63)
  | .divuW _ _ d _ _ => decide (d.toNat ≠ 63)
  | .remW _ _ d _ _ => decide (d.toNat ≠ 63)
  | .remuW _ _ d _ _ => decide (d.toNat ≠ 63)
  | .divD _ _ d _ _ => decide (d.toNat ≠ 63)
  | .divuD _ _ d _ _ => decide (d.toNat ≠ 63)
  | .remD _ _ d _ _ => decide (d.toNat ≠ 63)
  | .remuD _ _ d _ _ => decide (d.toNat ≠ 63)
  | .divideComplete _ => false
  | .sel _ _ d _ _ _ => decide (d.toNat ≠ 63)
  | .randW _ _ d _ _ => decide (d.toNat ≠ 63)
  | .randD _ _ d _ _ => decide (d.toNat ≠ 63)
  | .faddS _ _ _ _ _ => true
  | .fsubS _ _ _ _ _ => true
  | .fmulS _ _ _ _ _ => true
  | .fdivS _ _ _ _ _ => true
  | .fminS _ _ _ _ _ => true
  | .fmaxS _ _ _ _ _ => true
  | .fcpysS _ _ _ _ _ => true
  | .faddD _ _ _ _ _ => true
  | .fsubD _ _ _ _ _ => true
  | .fmulD _ _ _ _ _ => true
  | .fdivD _ _ _ _ _ => true
  | .fminD _ _ _ _ _ => true
  | .fmaxD _ _ _ _ _ => true
  | .fcpysD _ _ _ _ _ => true
  | .faddI _ _ _ _ _ => true
  | .fsubI _ _ _ _ _ => true
  | .fmulI _ _ _ _ _ => true
  | .fdivI _ _ _ _ _ => true
  | .fhullI _ _ _ _ _ => true
  | .fisectI _ _ _ _ _ => true
  | .fminI _ _ _ _ _ => true
  | .fmaxI _ _ _ _ _ => true
  | .faddJ _ _ d a b => decide (d.toNat % 2 = 0 ∧ a.toNat % 2 = 0 ∧ b.toNat % 2 = 0)
  | .fsubJ _ _ d a b => decide (d.toNat % 2 = 0 ∧ a.toNat % 2 = 0 ∧ b.toNat % 2 = 0)
  | .fmulJ _ _ d a b => decide (d.toNat % 2 = 0 ∧ a.toNat % 2 = 0 ∧ b.toNat % 2 = 0)
  | .fdivJ _ _ d a b => decide (d.toNat % 2 = 0 ∧ a.toNat % 2 = 0 ∧ b.toNat % 2 = 0)
  | .fhullJ _ _ d a b => decide (d.toNat % 2 = 0 ∧ a.toNat % 2 = 0 ∧ b.toNat % 2 = 0)
  | .fisectJ _ _ d a b => decide (d.toNat % 2 = 0 ∧ a.toNat % 2 = 0 ∧ b.toNat % 2 = 0)
  | .fminJ _ _ d a b => decide (d.toNat % 2 = 0 ∧ a.toNat % 2 = 0 ∧ b.toNat % 2 = 0)
  | .fmaxJ _ _ d a b => decide (d.toNat % 2 = 0 ∧ a.toNat % 2 = 0 ∧ b.toNat % 2 = 0)
  | .fpDivideSqrtComplete _ => false
  | .fmacS _ _ _ _ _ => true
  | .fmscS _ _ _ _ _ => true
  | .fnmacS _ _ _ _ _ => true
  | .fnmscS _ _ _ _ _ => true
  | .fmacD _ _ _ _ _ => true
  | .fmscD _ _ _ _ _ => true
  | .fnmacD _ _ _ _ _ => true
  | .fnmscD _ _ _ _ _ => true
  | .fmacI _ _ _ _ _ => true
  | .fmscI _ _ _ _ _ => true
  | .fnmacI _ _ _ _ _ => true
  | .fnmscI _ _ _ _ _ => true
  | .fmacJ _ _ d a b => decide (d.toNat % 2 = 0 ∧ a.toNat % 2 = 0 ∧ b.toNat % 2 = 0)
  | .fmscJ _ _ d a b => decide (d.toNat % 2 = 0 ∧ a.toNat % 2 = 0 ∧ b.toNat % 2 = 0)
  | .fnmacJ _ _ d a b => decide (d.toNat % 2 = 0 ∧ a.toNat % 2 = 0 ∧ b.toNat % 2 = 0)
  | .fnmscJ _ _ d a b => decide (d.toNat % 2 = 0 ∧ a.toNat % 2 = 0 ∧ b.toNat % 2 = 0)
  | .fabsS _ _ _ _ => true
  | .fnegS _ _ _ _ => true
  | .fsqrtS _ _ _ _ => true
  | .frcpS _ _ _ _ => true
  | .frsqS _ _ _ _ => true
  | .fexp2S _ _ _ _ => true
  | .flog2S _ _ _ _ => true
  | .fsinS _ _ _ _ => true
  | .fcosS _ _ _ _ => true
  | .frndS _ _ _ _ => true
  | .fclassS _ _ d _ => decide (d.toNat ≠ 63)
  | .fabsD _ _ _ _ => true
  | .fnegD _ _ _ _ => true
  | .fsqrtD _ _ _ _ => true
  | .frcpD _ _ _ _ => true
  | .frsqD _ _ _ _ => true
  | .fexp2D _ _ _ _ => true
  | .flog2D _ _ _ _ => true
  | .fsinD _ _ _ _ => true
  | .fcosD _ _ _ _ => true
  | .frndD _ _ _ _ => true
  | .fclassD _ _ d _ => decide (d.toNat ≠ 63)
  | .fcvtFloat _ _ _ _ x y => decide (x.toNat ≤ 5 ∧ y.toNat ≤ 5 ∧ x ≠ y)
  | .fcvtToInt _ _ d _ x y => decide (d.toNat ≠ 63 ∧ x.toNat ≤ 3 ∧ y.toNat ≤ 1)
  | .fcvtFromInt _ _ _ _ x y => decide (x.toNat ≤ 3 ∧ y.toNat ≤ 1)
  | .fcvtz _ _ d _ x y => decide (d.toNat ≠ 63 ∧ x.toNat ≤ 3 ∧ y.toNat ≤ 1)
  | .fmovGf _ _ _ _ => true
  | .fmovFg _ _ d _ => decide (d.toNat ≠ 63)
  | .iptS _ _ _ _ => true
  | .iptD _ _ d _ => decide (d.toNat % 2 = 0)
  | .iloI _ _ _ _ => true
  | .ihiI _ _ _ _ => true
  | .imidI _ _ _ _ => true
  | .iwidI _ _ _ _ => true
  | .iloJ _ _ _ a => decide (a.toNat % 2 = 0)
  | .ihiJ _ _ _ a => decide (a.toNat % 2 = 0)
  | .imidJ _ _ _ a => decide (a.toNat % 2 = 0)
  | .iwidJ _ _ _ a => decide (a.toNat % 2 = 0)
  | .fcmpEqS _ _ _ _ _ _ => true
  | .fcmpNeS _ _ _ _ _ _ => true
  | .fcmpLtS _ _ _ _ _ _ => true
  | .fcmpLeS _ _ _ _ _ _ => true
  | .fcmpGtS _ _ _ _ _ _ => true
  | .fcmpGeS _ _ _ _ _ _ => true
  | .fcmpUnS _ _ _ _ _ _ => true
  | .fcmpOrdS _ _ _ _ _ _ => true
  | .fcmpEqD _ _ _ _ _ _ => true
  | .fcmpNeD _ _ _ _ _ _ => true
  | .fcmpLtD _ _ _ _ _ _ => true
  | .fcmpLeD _ _ _ _ _ _ => true
  | .fcmpGtD _ _ _ _ _ _ => true
  | .fcmpGeD _ _ _ _ _ _ => true
  | .fcmpUnD _ _ _ _ _ _ => true
  | .fcmpOrdD _ _ _ _ _ _ => true
  | .fcmpEqI _ _ _ _ _ _ => true
  | .fcmpNeI _ _ _ _ _ _ => true
  | .fcmpLtI _ _ _ _ _ _ => true
  | .fcmpLeI _ _ _ _ _ _ => true
  | .fcmpGtI _ _ _ _ _ _ => true
  | .fcmpGeI _ _ _ _ _ _ => true
  | .fcmpSubI _ _ _ _ _ _ => true
  | .fcmpDisjI _ _ _ _ _ _ => true
  | .fcmpContI _ _ _ _ _ _ => true
  | .fcmpEmptyI _ _ _ _ _ _ => true
  | .fcmpEqJ _ _ _ _ a b => decide (a.toNat % 2 = 0 ∧ b.toNat % 2 = 0)
  | .fcmpNeJ _ _ _ _ a b => decide (a.toNat % 2 = 0 ∧ b.toNat % 2 = 0)
  | .fcmpLtJ _ _ _ _ a b => decide (a.toNat % 2 = 0 ∧ b.toNat % 2 = 0)
  | .fcmpLeJ _ _ _ _ a b => decide (a.toNat % 2 = 0 ∧ b.toNat % 2 = 0)
  | .fcmpGtJ _ _ _ _ a b => decide (a.toNat % 2 = 0 ∧ b.toNat % 2 = 0)
  | .fcmpGeJ _ _ _ _ a b => decide (a.toNat % 2 = 0 ∧ b.toNat % 2 = 0)
  | .fcmpSubJ _ _ _ _ a b => decide (a.toNat % 2 = 0 ∧ b.toNat % 2 = 0)
  | .fcmpDisjJ _ _ _ _ a b => decide (a.toNat % 2 = 0 ∧ b.toNat % 2 = 0)
  | .fcmpContJ _ _ _ _ a b => decide (a.toNat % 2 = 0 ∧ b.toNat % 2 = 0)
  | .fcmpEmptyJ _ _ _ _ a b => decide (a.toNat % 2 = 0 ∧ b.toNat % 2 = 0)
  | .imakeS _ _ _ _ _ => true
  | .imakeD _ _ d _ _ => decide (d.toNat % 2 = 0)
  | .bisectI _ _ _ _ _ => true
  | .bisectJ _ _ d a _ => decide (d.toNat % 2 = 0 ∧ a.toNat % 2 = 0)
  | .bisectComplete _ => false
  | .iinflI _ _ _ _ _ => true
  | .iinflJ _ _ d a _ => decide (d.toNat % 2 = 0 ∧ a.toNat % 2 = 0)
  | .hadd2 _ _ _ _ _ => true
  | .hmul2 _ _ _ _ _ => true
  | .hfma2 _ _ _ _ _ => true
  | .badd2 _ _ _ _ _ => true
  | .bmul2 _ _ _ _ _ => true
  | .bfma2 _ _ _ _ _ => true
  | .cbdec _ _ d _ _ => decide (d.toNat ≠ 63)
  | .mxq _ _ d _ _ => decide (d.toNat ≠ 63)
  | .ldgB _ _ d _ _ => decide (d.toNat ≠ 63)
  | .ldgBu _ _ d _ _ => decide (d.toNat ≠ 63)
  | .ldgH _ _ d _ _ => decide (d.toNat ≠ 63)
  | .ldgHu _ _ d _ _ => decide (d.toNat ≠ 63)
  | .ldgW _ _ d _ _ => decide (d.toNat ≠ 63)
  | .ldgWu _ _ d _ _ => decide (d.toNat ≠ 63)
  | .ldgD _ _ d _ _ => decide (d.toNat ≠ 63)
  | .ldgQ _ _ d _ _ => decide (2 ≤ d.toNat ∧ d.toNat ≤ 60 ∧ d.toNat % 2 = 0)
  | .stgB _ _ _ _ _ => true
  | .stgH _ _ _ _ _ => true
  | .stgW _ _ _ _ _ => true
  | .stgD _ _ _ _ _ => true
  | .stgQ _ _ d _ _ => decide (d.toNat ≤ 60 ∧ d.toNat % 2 = 0)
  | .stref _ _ _ _ _ => true
  | .sthdr _ _ _ _ _ => true
  | .strefHomeCheck _ => false
  | .ldsB _ _ d _ _ => decide (d.toNat ≠ 63)
  | .ldsBu _ _ d _ _ => decide (d.toNat ≠ 63)
  | .ldsH _ _ d _ _ => decide (d.toNat ≠ 63)
  | .ldsHu _ _ d _ _ => decide (d.toNat ≠ 63)
  | .ldsW _ _ d _ _ => decide (d.toNat ≠ 63)
  | .ldsWu _ _ d _ _ => decide (d.toNat ≠ 63)
  | .ldsD _ _ d _ _ => decide (d.toNat ≠ 63)
  | .ldsQ _ _ d _ _ => decide (2 ≤ d.toNat ∧ d.toNat ≤ 60 ∧ d.toNat % 2 = 0)
  | .stsB _ _ _ _ _ => true
  | .stsH _ _ _ _ _ => true
  | .stsW _ _ _ _ _ => true
  | .stsD _ _ _ _ _ => true
  | .stsQ _ _ d _ _ => decide (d.toNat ≤ 60 ∧ d.toNat % 2 = 0)
  | .ldfGS _ _ _ _ _ => true
  | .ldfGD _ _ _ _ _ => true
  | .ldfGI _ _ _ _ _ => true
  | .ldfGJ _ _ d _ _ => decide (d.toNat % 2 = 0)
  | .ldfLS _ _ _ _ _ => true
  | .ldfLD _ _ _ _ _ => true
  | .ldfLI _ _ _ _ _ => true
  | .ldfLJ _ _ d _ _ => decide (d.toNat % 2 = 0)
  | .stfGS _ _ _ _ _ => true
  | .stfGD _ _ _ _ _ => true
  | .stfGI _ _ _ _ _ => true
  | .stfGJ _ _ d _ _ => decide (d.toNat % 2 = 0)
  | .stfLS _ _ _ _ _ => true
  | .stfLD _ _ _ _ _ => true
  | .stfLI _ _ _ _ _ => true
  | .stfLJ _ _ d _ _ => decide (d.toNat % 2 = 0)
  | .loadReply _ _ => false
  | .storeFaultFound _ => false
  | .amogAddW _ _ d _ _ => decide (d.toNat ≠ 63)
  | .amogAddD _ _ d _ _ => decide (d.toNat ≠ 63)
  | .amogMaxW _ _ d _ _ => decide (d.toNat ≠ 63)
  | .amogMinW _ _ d _ _ => decide (d.toNat ≠ 63)
  | .amogSwapW _ _ d _ _ => decide (d.toNat ≠ 63)
  | .amogSwapD _ _ d _ _ => decide (d.toNat ≠ 63)
  | .amogCasW _ _ d _ _ => decide (d.toNat ≠ 63)
  | .amogCasD _ _ d _ _ => decide (d.toNat ≠ 63)
  | .amog2AndD _ _ d _ _ => decide (d.toNat ≠ 63)
  | .amog2OrD _ _ d _ _ => decide (d.toNat ≠ 63)
  | .amog2XorD _ _ d _ _ => decide (d.toNat ≠ 63)
  | .amog2MaxuD _ _ d _ _ => decide (d.toNat ≠ 63)
  | .amog2MinuD _ _ d _ _ => decide (d.toNat ≠ 63)
  | .amog2AndW _ _ d _ _ => decide (d.toNat ≠ 63)
  | .amog2OrW _ _ d _ _ => decide (d.toNat ≠ 63)
  | .amog2XorW _ _ d _ _ => decide (d.toNat ≠ 63)
  | .amogscAddW _ _ d _ _ => decide (d.toNat ≠ 63)
  | .amogscAddD _ _ d _ _ => decide (d.toNat ≠ 63)
  | .amogscMaxW _ _ d _ _ => decide (d.toNat ≠ 63)
  | .amogscMinW _ _ d _ _ => decide (d.toNat ≠ 63)
  | .amogscSwapW _ _ d _ _ => decide (d.toNat ≠ 63)
  | .amogscSwapD _ _ d _ _ => decide (d.toNat ≠ 63)
  | .amogscCasW _ _ d _ _ => decide (d.toNat ≠ 63)
  | .amogscCasD _ _ d _ _ => decide (d.toNat ≠ 63)
  | .amosAddW _ _ d _ _ => decide (d.toNat ≠ 63)
  | .amosAddD _ _ d _ _ => decide (d.toNat ≠ 63)
  | .amosMaxW _ _ d _ _ => decide (d.toNat ≠ 63)
  | .amosMinW _ _ d _ _ => decide (d.toNat ≠ 63)
  | .amosSwapW _ _ d _ _ => decide (d.toNat ≠ 63)
  | .amosSwapD _ _ d _ _ => decide (d.toNat ≠ 63)
  | .amosCasW _ _ d _ _ => decide (d.toNat ≠ 63)
  | .amosCasD _ _ d _ _ => decide (d.toNat ≠ 63)
  | .atomicPerform _ => false
  | .atomicReply _ => false
  | .fence _ _ _ _ k => decide (k.toNat ≤ 5)
  | .fenceReleaseHeld _ => false
  | .pfl _ _ _ _ => true
  | .pfr _ _ _ _ _ => true
  | .wbl1 _ _ _ _ => true
  | .invl1 _ _ _ _ => true
  | .acqr _ _ _ _ _ => true
  | .acqrComplete _ => false
  | .pub _ _ d _ s => decide (d.toNat ≠ 63 ∧ 1 ≤ s.toNat ∧ s.toNat ≤ 4)
  | .tagof _ _ d _ _ => decide (d.toNat ≠ 63)
  | .scopeof _ _ d _ _ => decide (d.toNat ≠ 63)
  | .colr _ _ _ _ _ => true
  | .colof _ _ d _ _ => decide (d.toNat ≠ 63)
  | .colrLine _ => false
  | .walkStart _ => false
  | .walkObject _ => false
  | .cwait _ _ _ => true
  | .cnotify _ _ _ => true
  | .cnotifyall _ _ _ => true
  | .cheld _ _ d _ => decide (d.toNat ≠ 63)
  | .monitorAcquire _ => false
  | .monitorRelease _ => false
  | .monitorWait _ => false
  | .monitorNotify _ => false
  | .monitorNotifyAll _ => false
  | .monitorGrant _ => false
  | .monitorQueuedReply _ => false
  | .colourReleaseSend _ => false
  | .copy _ _ _ _ _ => true
  | .copym _ _ _ _ _ => true
  | .copyb _ _ _ _ _ => true
  | .gather _ _ _ _ p => decide (2 ≤ p.toNat ∧ p.toNat ≤ 60 ∧ p.toNat % 2 = 0)
  | .copyStart _ => false
  | .copyEnd _ => false
  | .gatherEnd _ => false
  | .pfrEnd _ => false
  | .ringIdleExpiry _ => false
  | .twaitall _ _ _ => true
  | .twaitany _ _ _ => true
  | .tfirst _ _ d _ => decide (d.toNat ≠ 63)
  | .tclr _ _ _ => true
  | .tdef _ _ _ _ _ => true
  | .trd _ _ d _ _ => decide (d.toNat ≠ 63)
  | .sign _ _ _ => true
  | .mldb _ _ _ _ => true
  | .mmq _ _ _ _ _ => true
  | .mcommit _ _ _ => true
  | .mwait _ _ _ => true
  | .cvset _ _ _ _ => true
  | .signApply _ => false
  | .cvsetApply _ => false
  | .engineCommandStart _ => false
  | .tdefComplete _ => false
  | .mldbComplete _ => false
  | .mmqRow _ => false
  | .mzeroRow _ => false
  | .mxstRow _ => false
  | .mzero _ _ _ _ => true
  | .mrd _ _ d _ _ => decide (d.toNat ≠ 63)
  | .mwr _ _ _ _ _ => true
  | .stpl _ _ _ _ _ => true
  | .mxst _ _ _ _ _ => true
  | .binit _ _ _ _ => true
  | .arrive _ _ _ _ => true
  | .bwait _ _ _ _ => true
  | .arrivew _ _ _ _ => true
  | .nbar _ _ s => decide (s.toNat ≤ 5)
  | .binval _ _ _ => true
  | .barrierBankOp _ => false
  | .nbarPhaseComplete _ => false
  | .tqpush _ _ _ => true
  | .tqpop _ _ d => decide (d.toNat ≠ 63)
  | .amsend _ _ d _ _ => decide (d.toNat ≠ 63)
  | .launch _ _ d _ _ => decide (d.toNat ≠ 63)
  | .tqPushApply _ => false
  | .tqPopServe _ => false
  | .tqStealServe _ => false
  | .tqpopReply _ => false
  | .amArrival _ => false
  | .amsendStatus _ => false
  | .handlerGroupPlace _ => false
  | .launchStatus _ => false
  | .trap _ _ _ => true
  | .rft _ _ => true
  | .rdtr _ _ d _ => decide (d.toNat ≠ 63)
  | .syscall _ _ _ => true
  | .dflush _ _ => true
  | .rdfpc _ _ d => decide (d.toNat ≠ 63)
  | .wrfpc _ _ _ => true
  | .rdhash _ _ d => decide (d.toNat ≠ 63)
  | .atomicBufferDrain _ _ => false
  | .l1SweepWriteback _ _ _ => false
  | .writebackArrival _ => false
  | .writeThroughArrival _ => false
  | .kernelRecordAccept _ => false
  | .groupPlace => false
  | .groupStart _ => false
  | .groupRetire _ => false
  | .kernelRetire _ => false
  | .contextSlotAssign _ _ _ => false
  | .contextLoadComplete _ _ => false
  | .contextSwitchRequest _ _ => false
  | .switchExchangeBegin _ => false
  | .switchExchangeEnd _ _ => false
  | .weightSlotRestoreDone _ => false
  | .contextEvict _ _ => false
  | .contextSaveComplete _ _ => false
  | .contextDestroy _ => false
  | .translation _ _ => false
  | .faultReadIndexAdvance _ _ => false
  | .migrationCounterHalve _ => false
  | .inval _ _ _ _ => false
  | .purge _ _ _ _ => false
  | .move _ _ _ _ => false
  | .bias _ _ _ _ => false
  | .replay _ _ _ _ => false
  | .deny _ _ _ _ => false
  | .dget _ _ _ _ => false
  | .scrub _ _ _ _ => false
  | .queueRegister _ _ _ => false
  | .queueDestroy _ => false
  | .queueMap _ _ => false
  | .queueUnmap _ => false
  | .queueWake _ => false
  | .queueSlotTimeslice _ => false
  | .queueLaunch _ _ => false
  | .queueCopy _ _ => false
  | .queueSignal _ _ => false
  | .queueWait _ _ => false
  | .queueWaitSatisfied _ _ => false
  | .queueMarker _ _ => false
  | .queueTimestamp _ _ => false
  | .queuePacketComplete _ _ => false
  | .bulkEngineWake _ => false
  | .bulkPacketStart _ => false
  | .bulkPacketComplete _ _ => false
  | .krfet _ _ _ => true
  | .kbfx _ _ _ => true
  | .kswait _ _ => true
  | .kswaitWake _ _ => false
  | .kdisp _ _ _ => true
  | .watchdogHeartbeat => false
  | .watchdogExpiry => false
  | .powerGood => false
  | .imageStartCommand _ _ => false
  | .reducedServiceBegin => false
  | .hbmStackTrained _ => false
  | .fullServiceBegin => false
  | .deviceReset => false
  | .powerLimitExceeded => false
  | .thermalTrip _ => false
  | .clampSecondStep _ _ => false
  | .clampRestore _ _ => false
  | .clockChangeApply _ => false
  | .powerLimitSet _ => false
  | .rdcSizeSet _ _ => false
  | .linkEnable _ => false
  | .linkDisable _ => false
  | .linkTrained _ _ => false
  | .linkTrainingTimeout _ => false
  | .linkReplayFailure _ => false
  | .linkLockLoss _ => false
  | .hostModuleFail _ => false
  | .registerWrite _ _ => false
  | .contextCreate _ _ _ _ _ _ _ _ _ _ => false
  | .bulkQueueRegister _ _ _ => false
  | .hostMemoryAccess _ _ _ _ => false
  | .clampConditionClear _ _ => false
  | .cohortSwapComplete _ => false
  | .eventRingReadAdvance _ => false
  | .podJobEnrol _ _ _ _ => false
  | .scratchStorePerform _ => false

end Sys2Proof
end

