-- ==== Sys2Proof/Decode.lean ====
section
/-!
DEFINITION. The decoder and the encoder of instruction words (R65, R72, R83 to R88, R374). A word is read through its number, field by
field; each row of a major is told by its fixed fields. The words of the Kiln cores (R374) have a non-zero field where the cores' words of
major 0 must have zeros, so one decoder serves both.
-/

namespace Sys2Proof

/-- Bits hi down to lo of a word's number (R1). -/
def fld (n lo w : Nat) : Nat := n / 2 ^ lo % 2 ^ w

/-- Why a word is refused (R89). -/
inductive Reject where
  | reservedMajor
  | reservedFunction
  | badOperand
  deriving DecidableEq, Repr

/-- The rows of major 0x00. -/
noncomputable def decodeMajor00 (n : Nat) : Option Instr :=
  if fld n 0 21 = 0 ∧ fld n 25 6 = 0 then some (.nop (BitVec.ofNat 1 (fld n 31 1)) (BitVec.ofNat 4 (fld n 21 4)))
  else if fld n 0 21 = 1 ∧ fld n 25 6 = 0 then some (.yield (BitVec.ofNat 1 (fld n 31 1)) (BitVec.ofNat 4 (fld n 21 4)))
  else if fld n 0 15 = 2 ∧ fld n 25 6 = 0 then some (.rdclk (BitVec.ofNat 1 (fld n 31 1)) (BitVec.ofNat 4 (fld n 21 4)) (BitVec.ofNat 6 (fld n 15 6)))
  else if fld n 0 15 = 3 ∧ fld n 25 6 = 0 then some (.rdtags (BitVec.ofNat 1 (fld n 31 1)) (BitVec.ofNat 4 (fld n 21 4)) (BitVec.ofNat 6 (fld n 15 6)))
  else none

/-- The rows of major 0x01. -/
noncomputable def decodeMajor01 (n : Nat) : Option Instr :=
  if fld n 19 2 = 0 ∧ fld n 25 7 = 1 then some (.brUt (BitVec.ofNat 4 (fld n 21 4)) (BitVec.ofNat 19 (fld n 0 19)))
  else if fld n 19 2 = 1 ∧ fld n 25 7 = 1 then some (.brUf (BitVec.ofNat 4 (fld n 21 4)) (BitVec.ofNat 19 (fld n 0 19)))
  else if fld n 19 2 = 2 ∧ fld n 25 7 = 1 then some (.br (BitVec.ofNat 4 (fld n 21 4)) (BitVec.ofNat 19 (fld n 0 19)))
  else if fld n 19 2 = 3 ∧ fld n 25 7 = 1 then some (.brUl (BitVec.ofNat 4 (fld n 21 4)) (BitVec.ofNat 19 (fld n 0 19)))
  else none

/-- The rows of major 0x02. -/
noncomputable def decodeMajor02 (n : Nat) : Option Instr :=
  if fld n 25 7 = 2 then some (.jmp (BitVec.ofNat 25 (fld n 0 25)))
  else none

/-- The rows of major 0x03. -/
noncomputable def decodeMajor03 (n : Nat) : Option Instr :=
  if fld n 25 7 = 3 then some (.call (BitVec.ofNat 25 (fld n 0 25)))
  else none

/-- The rows of major 0x04. -/
noncomputable def decodeMajor04 (n : Nat) : Option Instr :=
  if fld n 0 9 = 0 ∧ fld n 15 6 = 0 ∧ fld n 25 7 = 4 then some (.jmpr (BitVec.ofNat 4 (fld n 21 4)) (BitVec.ofNat 6 (fld n 9 6)))
  else if fld n 0 9 = 1 ∧ fld n 15 6 = 0 ∧ fld n 25 7 = 4 then some (.callr (BitVec.ofNat 4 (fld n 21 4)) (BitVec.ofNat 6 (fld n 9 6)))
  else if fld n 0 21 = 2 ∧ fld n 25 7 = 4 then some (.ret (BitVec.ofNat 4 (fld n 21 4)))
  else if fld n 0 21 = 3 ∧ fld n 25 7 = 4 then some (.exit (BitVec.ofNat 4 (fld n 21 4)))
  else none

/-- The rows of major 0x05. -/
noncomputable def decodeMajor05 (n : Nat) : Option Instr :=
  if fld n 0 3 = 0 ∧ fld n 25 6 = 5 then some (.addW (BitVec.ofNat 1 (fld n 31 1)) (BitVec.ofNat 4 (fld n 21 4)) (BitVec.ofNat 6 (fld n 15 6)) (BitVec.ofNat 6 (fld n 9 6)) (BitVec.ofNat 6 (fld n 3 6)))
  else if fld n 0 3 = 1 ∧ fld n 25 6 = 5 then some (.subW (BitVec.ofNat 1 (fld n 31 1)) (BitVec.ofNat 4 (fld n 21 4)) (BitVec.ofNat 6 (fld n 15 6)) (BitVec.ofNat 6 (fld n 9 6)) (BitVec.ofNat 6 (fld n 3 6)))
  else if fld n 0 3 = 2 ∧ fld n 25 6 = 5 then some (.andW (BitVec.ofNat 1 (fld n 31 1)) (BitVec.ofNat 4 (fld n 21 4)) (BitVec.ofNat 6 (fld n 15 6)) (BitVec.ofNat 6 (fld n 9 6)) (BitVec.ofNat 6 (fld n 3 6)))
  else if fld n 0 3 = 3 ∧ fld n 25 6 = 5 then some (.orW (BitVec.ofNat 1 (fld n 31 1)) (BitVec.ofNat 4 (fld n 21 4)) (BitVec.ofNat 6 (fld n 15 6)) (BitVec.ofNat 6 (fld n 9 6)) (BitVec.ofNat 6 (fld n 3 6)))
  else if fld n 0 3 = 4 ∧ fld n 25 6 = 5 then some (.xorW (BitVec.ofNat 1 (fld n 31 1)) (BitVec.ofNat 4 (fld n 21 4)) (BitVec.ofNat 6 (fld n 15 6)) (BitVec.ofNat 6 (fld n 9 6)) (BitVec.ofNat 6 (fld n 3 6)))
  else if fld n 0 3 = 5 ∧ fld n 25 6 = 5 then some (.andnW (BitVec.ofNat 1 (fld n 31 1)) (BitVec.ofNat 4 (fld n 21 4)) (BitVec.ofNat 6 (fld n 15 6)) (BitVec.ofNat 6 (fld n 9 6)) (BitVec.ofNat 6 (fld n 3 6)))
  else if fld n 0 3 = 6 ∧ fld n 25 6 = 5 then some (.minW (BitVec.ofNat 1 (fld n 31 1)) (BitVec.ofNat 4 (fld n 21 4)) (BitVec.ofNat 6 (fld n 15 6)) (BitVec.ofNat 6 (fld n 9 6)) (BitVec.ofNat 6 (fld n 3 6)))
  else if fld n 0 3 = 7 ∧ fld n 25 6 = 5 then some (.maxW (BitVec.ofNat 1 (fld n 31 1)) (BitVec.ofNat 4 (fld n 21 4)) (BitVec.ofNat 6 (fld n 15 6)) (BitVec.ofNat 6 (fld n 9 6)) (BitVec.ofNat 6 (fld n 3 6)))
  else none

/-- The rows of major 0x06. -/
noncomputable def decodeMajor06 (n : Nat) : Option Instr :=
  if fld n 0 3 = 0 ∧ fld n 25 6 = 6 then some (.addD (BitVec.ofNat 1 (fld n 31 1)) (BitVec.ofNat 4 (fld n 21 4)) (BitVec.ofNat 6 (fld n 15 6)) (BitVec.ofNat 6 (fld n 9 6)) (BitVec.ofNat 6 (fld n 3 6)))
  else if fld n 0 3 = 1 ∧ fld n 25 6 = 6 then some (.subD (BitVec.ofNat 1 (fld n 31 1)) (BitVec.ofNat 4 (fld n 21 4)) (BitVec.ofNat 6 (fld n 15 6)) (BitVec.ofNat 6 (fld n 9 6)) (BitVec.ofNat 6 (fld n 3 6)))
  else if fld n 0 3 = 2 ∧ fld n 25 6 = 6 then some (.andD (BitVec.ofNat 1 (fld n 31 1)) (BitVec.ofNat 4 (fld n 21 4)) (BitVec.ofNat 6 (fld n 15 6)) (BitVec.ofNat 6 (fld n 9 6)) (BitVec.ofNat 6 (fld n 3 6)))
  else if fld n 0 3 = 3 ∧ fld n 25 6 = 6 then some (.orD (BitVec.ofNat 1 (fld n 31 1)) (BitVec.ofNat 4 (fld n 21 4)) (BitVec.ofNat 6 (fld n 15 6)) (BitVec.ofNat 6 (fld n 9 6)) (BitVec.ofNat 6 (fld n 3 6)))
  else if fld n 0 3 = 4 ∧ fld n 25 6 = 6 then some (.xorD (BitVec.ofNat 1 (fld n 31 1)) (BitVec.ofNat 4 (fld n 21 4)) (BitVec.ofNat 6 (fld n 15 6)) (BitVec.ofNat 6 (fld n 9 6)) (BitVec.ofNat 6 (fld n 3 6)))
  else if fld n 0 3 = 5 ∧ fld n 25 6 = 6 then some (.andnD (BitVec.ofNat 1 (fld n 31 1)) (BitVec.ofNat 4 (fld n 21 4)) (BitVec.ofNat 6 (fld n 15 6)) (BitVec.ofNat 6 (fld n 9 6)) (BitVec.ofNat 6 (fld n 3 6)))
  else if fld n 0 3 = 6 ∧ fld n 25 6 = 6 then some (.minD (BitVec.ofNat 1 (fld n 31 1)) (BitVec.ofNat 4 (fld n 21 4)) (BitVec.ofNat 6 (fld n 15 6)) (BitVec.ofNat 6 (fld n 9 6)) (BitVec.ofNat 6 (fld n 3 6)))
  else if fld n 0 3 = 7 ∧ fld n 25 6 = 6 then some (.maxD (BitVec.ofNat 1 (fld n 31 1)) (BitVec.ofNat 4 (fld n 21 4)) (BitVec.ofNat 6 (fld n 15 6)) (BitVec.ofNat 6 (fld n 9 6)) (BitVec.ofNat 6 (fld n 3 6)))
  else none

/-- The rows of major 0x07. -/
noncomputable def decodeMajor07 (n : Nat) : Option Instr :=
  if fld n 0 3 = 0 ∧ fld n 25 6 = 7 then some (.minuW (BitVec.ofNat 1 (fld n 31 1)) (BitVec.ofNat 4 (fld n 21 4)) (BitVec.ofNat 6 (fld n 15 6)) (BitVec.ofNat 6 (fld n 9 6)) (BitVec.ofNat 6 (fld n 3 6)))
  else if fld n 0 3 = 1 ∧ fld n 25 6 = 7 then some (.maxuW (BitVec.ofNat 1 (fld n 31 1)) (BitVec.ofNat 4 (fld n 21 4)) (BitVec.ofNat 6 (fld n 15 6)) (BitVec.ofNat 6 (fld n 9 6)) (BitVec.ofNat 6 (fld n 3 6)))
  else if fld n 0 3 = 2 ∧ fld n 25 6 = 7 then some (.shlW (BitVec.ofNat 1 (fld n 31 1)) (BitVec.ofNat 4 (fld n 21 4)) (BitVec.ofNat 6 (fld n 15 6)) (BitVec.ofNat 6 (fld n 9 6)) (BitVec.ofNat 6 (fld n 3 6)))
  else if fld n 0 3 = 3 ∧ fld n 25 6 = 7 then some (.shrW (BitVec.ofNat 1 (fld n 31 1)) (BitVec.ofNat 4 (fld n 21 4)) (BitVec.ofNat 6 (fld n 15 6)) (BitVec.ofNat 6 (fld n 9 6)) (BitVec.ofNat 6 (fld n 3 6)))
  else if fld n 0 3 = 4 ∧ fld n 25 6 = 7 then some (.sarW (BitVec.ofNat 1 (fld n 31 1)) (BitVec.ofNat 4 (fld n 21 4)) (BitVec.ofNat 6 (fld n 15 6)) (BitVec.ofNat 6 (fld n 9 6)) (BitVec.ofNat 6 (fld n 3 6)))
  else if fld n 0 3 = 5 ∧ fld n 25 6 = 7 then some (.rotW (BitVec.ofNat 1 (fld n 31 1)) (BitVec.ofNat 4 (fld n 21 4)) (BitVec.ofNat 6 (fld n 15 6)) (BitVec.ofNat 6 (fld n 9 6)) (BitVec.ofNat 6 (fld n 3 6)))
  else if fld n 0 3 = 6 ∧ fld n 25 6 = 7 then some (.mulW (BitVec.ofNat 1 (fld n 31 1)) (BitVec.ofNat 4 (fld n 21 4)) (BitVec.ofNat 6 (fld n 15 6)) (BitVec.ofNat 6 (fld n 9 6)) (BitVec.ofNat 6 (fld n 3 6)))
  else if fld n 0 3 = 7 ∧ fld n 25 6 = 7 then some (.mulhW (BitVec.ofNat 1 (fld n 31 1)) (BitVec.ofNat 4 (fld n 21 4)) (BitVec.ofNat 6 (fld n 15 6)) (BitVec.ofNat 6 (fld n 9 6)) (BitVec.ofNat 6 (fld n 3 6)))
  else none

/-- The rows of major 0x08. -/
noncomputable def decodeMajor08 (n : Nat) : Option Instr :=
  if fld n 0 3 = 0 ∧ fld n 25 6 = 8 then some (.minuD (BitVec.ofNat 1 (fld n 31 1)) (BitVec.ofNat 4 (fld n 21 4)) (BitVec.ofNat 6 (fld n 15 6)) (BitVec.ofNat 6 (fld n 9 6)) (BitVec.ofNat 6 (fld n 3 6)))
  else if fld n 0 3 = 1 ∧ fld n 25 6 = 8 then some (.maxuD (BitVec.ofNat 1 (fld n 31 1)) (BitVec.ofNat 4 (fld n 21 4)) (BitVec.ofNat 6 (fld n 15 6)) (BitVec.ofNat 6 (fld n 9 6)) (BitVec.ofNat 6 (fld n 3 6)))
  else if fld n 0 3 = 2 ∧ fld n 25 6 = 8 then some (.shlD (BitVec.ofNat 1 (fld n 31 1)) (BitVec.ofNat 4 (fld n 21 4)) (BitVec.ofNat 6 (fld n 15 6)) (BitVec.ofNat 6 (fld n 9 6)) (BitVec.ofNat 6 (fld n 3 6)))
  else if fld n 0 3 = 3 ∧ fld n 25 6 = 8 then some (.shrD (BitVec.ofNat 1 (fld n 31 1)) (BitVec.ofNat 4 (fld n 21 4)) (BitVec.ofNat 6 (fld n 15 6)) (BitVec.ofNat 6 (fld n 9 6)) (BitVec.ofNat 6 (fld n 3 6)))
  else if fld n 0 3 = 4 ∧ fld n 25 6 = 8 then some (.sarD (BitVec.ofNat 1 (fld n 31 1)) (BitVec.ofNat 4 (fld n 21 4)) (BitVec.ofNat 6 (fld n 15 6)) (BitVec.ofNat 6 (fld n 9 6)) (BitVec.ofNat 6 (fld n 3 6)))
  else if fld n 0 3 = 5 ∧ fld n 25 6 = 8 then some (.rotD (BitVec.ofNat 1 (fld n 31 1)) (BitVec.ofNat 4 (fld n 21 4)) (BitVec.ofNat 6 (fld n 15 6)) (BitVec.ofNat 6 (fld n 9 6)) (BitVec.ofNat 6 (fld n 3 6)))
  else if fld n 0 3 = 6 ∧ fld n 25 6 = 8 then some (.mulD (BitVec.ofNat 1 (fld n 31 1)) (BitVec.ofNat 4 (fld n 21 4)) (BitVec.ofNat 6 (fld n 15 6)) (BitVec.ofNat 6 (fld n 9 6)) (BitVec.ofNat 6 (fld n 3 6)))
  else if fld n 0 3 = 7 ∧ fld n 25 6 = 8 then some (.mulhD (BitVec.ofNat 1 (fld n 31 1)) (BitVec.ofNat 4 (fld n 21 4)) (BitVec.ofNat 6 (fld n 15 6)) (BitVec.ofNat 6 (fld n 9 6)) (BitVec.ofNat 6 (fld n 3 6)))
  else none

/-- The rows of major 0x09. -/
noncomputable def decodeMajor09 (n : Nat) : Option Instr :=
  if fld n 25 6 = 9 then some (.addiW (BitVec.ofNat 1 (fld n 31 1)) (BitVec.ofNat 4 (fld n 21 4)) (BitVec.ofNat 6 (fld n 15 6)) (BitVec.ofNat 6 (fld n 9 6)) (BitVec.ofNat 9 (fld n 0 9)))
  else none

/-- The rows of major 0x0A. -/
noncomputable def decodeMajor0A (n : Nat) : Option Instr :=
  if fld n 25 6 = 10 then some (.addiD (BitVec.ofNat 1 (fld n 31 1)) (BitVec.ofNat 4 (fld n 21 4)) (BitVec.ofNat 6 (fld n 15 6)) (BitVec.ofNat 6 (fld n 9 6)) (BitVec.ofNat 9 (fld n 0 9)))
  else none

/-- The rows of major 0x0B. -/
noncomputable def decodeMajor0B (n : Nat) : Option Instr :=
  if fld n 5 4 = 0 ∧ fld n 25 6 = 11 then some (.shliW (BitVec.ofNat 1 (fld n 31 1)) (BitVec.ofNat 4 (fld n 21 4)) (BitVec.ofNat 6 (fld n 15 6)) (BitVec.ofNat 6 (fld n 9 6)) (BitVec.ofNat 5 (fld n 0 5)))
  else if fld n 5 4 = 2 ∧ fld n 25 6 = 11 then some (.shriW (BitVec.ofNat 1 (fld n 31 1)) (BitVec.ofNat 4 (fld n 21 4)) (BitVec.ofNat 6 (fld n 15 6)) (BitVec.ofNat 6 (fld n 9 6)) (BitVec.ofNat 5 (fld n 0 5)))
  else if fld n 5 4 = 4 ∧ fld n 25 6 = 11 then some (.sariW (BitVec.ofNat 1 (fld n 31 1)) (BitVec.ofNat 4 (fld n 21 4)) (BitVec.ofNat 6 (fld n 15 6)) (BitVec.ofNat 6 (fld n 9 6)) (BitVec.ofNat 5 (fld n 0 5)))
  else if fld n 5 4 = 6 ∧ fld n 25 6 = 11 then some (.rotiW (BitVec.ofNat 1 (fld n 31 1)) (BitVec.ofNat 4 (fld n 21 4)) (BitVec.ofNat 6 (fld n 15 6)) (BitVec.ofNat 6 (fld n 9 6)) (BitVec.ofNat 5 (fld n 0 5)))
  else if fld n 6 3 = 4 ∧ fld n 25 6 = 11 then some (.shliD (BitVec.ofNat 1 (fld n 31 1)) (BitVec.ofNat 4 (fld n 21 4)) (BitVec.ofNat 6 (fld n 15 6)) (BitVec.ofNat 6 (fld n 9 6)) (BitVec.ofNat 6 (fld n 0 6)))
  else if fld n 6 3 = 5 ∧ fld n 25 6 = 11 then some (.shriD (BitVec.ofNat 1 (fld n 31 1)) (BitVec.ofNat 4 (fld n 21 4)) (BitVec.ofNat 6 (fld n 15 6)) (BitVec.ofNat 6 (fld n 9 6)) (BitVec.ofNat 6 (fld n 0 6)))
  else if fld n 6 3 = 6 ∧ fld n 25 6 = 11 then some (.sariD (BitVec.ofNat 1 (fld n 31 1)) (BitVec.ofNat 4 (fld n 21 4)) (BitVec.ofNat 6 (fld n 15 6)) (BitVec.ofNat 6 (fld n 9 6)) (BitVec.ofNat 6 (fld n 0 6)))
  else if fld n 6 3 = 7 ∧ fld n 25 6 = 11 then some (.rotiD (BitVec.ofNat 1 (fld n 31 1)) (BitVec.ofNat 4 (fld n 21 4)) (BitVec.ofNat 6 (fld n 15 6)) (BitVec.ofNat 6 (fld n 9 6)) (BitVec.ofNat 6 (fld n 0 6)))
  else none

/-- The rows of major 0x0C. -/
noncomputable def decodeMajor0C (n : Nat) : Option Instr :=
  if fld n 25 6 = 12 then some (.movi (BitVec.ofNat 1 (fld n 31 1)) (BitVec.ofNat 4 (fld n 21 4)) (BitVec.ofNat 6 (fld n 15 6)) (BitVec.ofNat 15 (fld n 0 15)))
  else none

/-- The rows of major 0x0D. -/
noncomputable def decodeMajor0D (n : Nat) : Option Instr :=
  if fld n 0 3 = 0 ∧ fld n 25 6 = 13 then some (.lea1 (BitVec.ofNat 1 (fld n 31 1)) (BitVec.ofNat 4 (fld n 21 4)) (BitVec.ofNat 6 (fld n 15 6)) (BitVec.ofNat 6 (fld n 9 6)) (BitVec.ofNat 6 (fld n 3 6)))
  else if fld n 0 3 = 1 ∧ fld n 25 6 = 13 then some (.lea2 (BitVec.ofNat 1 (fld n 31 1)) (BitVec.ofNat 4 (fld n 21 4)) (BitVec.ofNat 6 (fld n 15 6)) (BitVec.ofNat 6 (fld n 9 6)) (BitVec.ofNat 6 (fld n 3 6)))
  else if fld n 0 3 = 2 ∧ fld n 25 6 = 13 then some (.lea4 (BitVec.ofNat 1 (fld n 31 1)) (BitVec.ofNat 4 (fld n 21 4)) (BitVec.ofNat 6 (fld n 15 6)) (BitVec.ofNat 6 (fld n 9 6)) (BitVec.ofNat 6 (fld n 3 6)))
  else if fld n 0 3 = 3 ∧ fld n 25 6 = 13 then some (.lea8 (BitVec.ofNat 1 (fld n 31 1)) (BitVec.ofNat 4 (fld n 21 4)) (BitVec.ofNat 6 (fld n 15 6)) (BitVec.ofNat 6 (fld n 9 6)) (BitVec.ofNat 6 (fld n 3 6)))
  else if fld n 0 3 = 4 ∧ fld n 25 6 = 13 then some (.lea16 (BitVec.ofNat 1 (fld n 31 1)) (BitVec.ofNat 4 (fld n 21 4)) (BitVec.ofNat 6 (fld n 15 6)) (BitVec.ofNat 6 (fld n 9 6)) (BitVec.ofNat 6 (fld n 3 6)))
  else if fld n 0 3 = 5 ∧ fld n 25 6 = 13 then some (.macW (BitVec.ofNat 1 (fld n 31 1)) (BitVec.ofNat 4 (fld n 21 4)) (BitVec.ofNat 6 (fld n 15 6)) (BitVec.ofNat 6 (fld n 9 6)) (BitVec.ofNat 6 (fld n 3 6)))
  else if fld n 0 3 = 6 ∧ fld n 25 6 = 13 then some (.macD (BitVec.ofNat 1 (fld n 31 1)) (BitVec.ofNat 4 (fld n 21 4)) (BitVec.ofNat 6 (fld n 15 6)) (BitVec.ofNat 6 (fld n 9 6)) (BitVec.ofNat 6 (fld n 3 6)))
  else if fld n 0 3 = 7 ∧ fld n 25 6 = 13 then some (.mulhuD (BitVec.ofNat 1 (fld n 31 1)) (BitVec.ofNat 4 (fld n 21 4)) (BitVec.ofNat 6 (fld n 15 6)) (BitVec.ofNat 6 (fld n 9 6)) (BitVec.ofNat 6 (fld n 3 6)))
  else none

/-- The rows of major 0x0E. -/
noncomputable def decodeMajor0E (n : Nat) : Option Instr :=
  if fld n 0 9 = 0 ∧ fld n 25 6 = 14 then some (.mov (BitVec.ofNat 1 (fld n 31 1)) (BitVec.ofNat 4 (fld n 21 4)) (BitVec.ofNat 6 (fld n 15 6)) (BitVec.ofNat 6 (fld n 9 6)))
  else if fld n 0 9 = 1 ∧ fld n 25 6 = 14 then some (.not (BitVec.ofNat 1 (fld n 31 1)) (BitVec.ofNat 4 (fld n 21 4)) (BitVec.ofNat 6 (fld n 15 6)) (BitVec.ofNat 6 (fld n 9 6)))
  else if fld n 0 9 = 2 ∧ fld n 25 6 = 14 then some (.neg (BitVec.ofNat 1 (fld n 31 1)) (BitVec.ofNat 4 (fld n 21 4)) (BitVec.ofNat 6 (fld n 15 6)) (BitVec.ofNat 6 (fld n 9 6)))
  else if fld n 0 9 = 3 ∧ fld n 25 6 = 14 then some (.abs (BitVec.ofNat 1 (fld n 31 1)) (BitVec.ofNat 4 (fld n 21 4)) (BitVec.ofNat 6 (fld n 15 6)) (BitVec.ofNat 6 (fld n 9 6)))
  else if fld n 0 9 = 4 ∧ fld n 25 6 = 14 then some (.clzW (BitVec.ofNat 1 (fld n 31 1)) (BitVec.ofNat 4 (fld n 21 4)) (BitVec.ofNat 6 (fld n 15 6)) (BitVec.ofNat 6 (fld n 9 6)))
  else if fld n 0 9 = 5 ∧ fld n 25 6 = 14 then some (.clzD (BitVec.ofNat 1 (fld n 31 1)) (BitVec.ofNat 4 (fld n 21 4)) (BitVec.ofNat 6 (fld n 15 6)) (BitVec.ofNat 6 (fld n 9 6)))
  else if fld n 0 9 = 6 ∧ fld n 25 6 = 14 then some (.popc (BitVec.ofNat 1 (fld n 31 1)) (BitVec.ofNat 4 (fld n 21 4)) (BitVec.ofNat 6 (fld n 15 6)) (BitVec.ofNat 6 (fld n 9 6)))
  else if fld n 0 9 = 7 ∧ fld n 25 6 = 14 then some (.brevD (BitVec.ofNat 1 (fld n 31 1)) (BitVec.ofNat 4 (fld n 21 4)) (BitVec.ofNat 6 (fld n 15 6)) (BitVec.ofNat 6 (fld n 9 6)))
  else if fld n 0 9 = 8 ∧ fld n 25 6 = 14 then some (.sextB (BitVec.ofNat 1 (fld n 31 1)) (BitVec.ofNat 4 (fld n 21 4)) (BitVec.ofNat 6 (fld n 15 6)) (BitVec.ofNat 6 (fld n 9 6)))
  else if fld n 0 9 = 9 ∧ fld n 25 6 = 14 then some (.sextH (BitVec.ofNat 1 (fld n 31 1)) (BitVec.ofNat 4 (fld n 21 4)) (BitVec.ofNat 6 (fld n 15 6)) (BitVec.ofNat 6 (fld n 9 6)))
  else if fld n 0 9 = 10 ∧ fld n 25 6 = 14 then some (.sextW (BitVec.ofNat 1 (fld n 31 1)) (BitVec.ofNat 4 (fld n 21 4)) (BitVec.ofNat 6 (fld n 15 6)) (BitVec.ofNat 6 (fld n 9 6)))
  else if fld n 0 9 = 11 ∧ fld n 25 6 = 14 then some (.zextB (BitVec.ofNat 1 (fld n 31 1)) (BitVec.ofNat 4 (fld n 21 4)) (BitVec.ofNat 6 (fld n 15 6)) (BitVec.ofNat 6 (fld n 9 6)))
  else if fld n 0 9 = 12 ∧ fld n 25 6 = 14 then some (.zextH (BitVec.ofNat 1 (fld n 31 1)) (BitVec.ofNat 4 (fld n 21 4)) (BitVec.ofNat 6 (fld n 15 6)) (BitVec.ofNat 6 (fld n 9 6)))
  else if fld n 0 9 = 13 ∧ fld n 25 6 = 14 then some (.zextW (BitVec.ofNat 1 (fld n 31 1)) (BitVec.ofNat 4 (fld n 21 4)) (BitVec.ofNat 6 (fld n 15 6)) (BitVec.ofNat 6 (fld n 9 6)))
  else if fld n 0 9 = 16 ∧ fld n 25 6 = 14 then some (.movk (BitVec.ofNat 1 (fld n 31 1)) (BitVec.ofNat 4 (fld n 21 4)) (BitVec.ofNat 6 (fld n 15 6)) (BitVec.ofNat 6 (fld n 9 6)))
  else if fld n 0 9 = 17 ∧ fld n 25 6 = 14 then some (.rdsr (BitVec.ofNat 1 (fld n 31 1)) (BitVec.ofNat 4 (fld n 21 4)) (BitVec.ofNat 6 (fld n 15 6)) (BitVec.ofNat 6 (fld n 9 6)))
  else if fld n 0 9 = 18 ∧ fld n 25 6 = 14 then some (.wrsr (BitVec.ofNat 1 (fld n 31 1)) (BitVec.ofNat 4 (fld n 21 4)) (BitVec.ofNat 6 (fld n 15 6)) (BitVec.ofNat 6 (fld n 9 6)))
  else if fld n 0 9 = 19 ∧ fld n 25 6 = 14 then some (.movp (BitVec.ofNat 1 (fld n 31 1)) (BitVec.ofNat 4 (fld n 21 4)) (BitVec.ofNat 6 (fld n 15 6)) (BitVec.ofNat 6 (fld n 9 6)))
  else none

/-- The rows of major 0x0F. -/
noncomputable def decodeMajor0F (n : Nat) : Option Instr :=
  if fld n 0 3 = 0 ∧ fld n 25 6 = 15 then some (.bfx (BitVec.ofNat 1 (fld n 31 1)) (BitVec.ofNat 4 (fld n 21 4)) (BitVec.ofNat 6 (fld n 15 6)) (BitVec.ofNat 6 (fld n 9 6)) (BitVec.ofNat 6 (fld n 3 6)))
  else if fld n 0 3 = 1 ∧ fld n 25 6 = 15 then some (.bfxu (BitVec.ofNat 1 (fld n 31 1)) (BitVec.ofNat 4 (fld n 21 4)) (BitVec.ofNat 6 (fld n 15 6)) (BitVec.ofNat 6 (fld n 9 6)) (BitVec.ofNat 6 (fld n 3 6)))
  else if fld n 0 3 = 2 ∧ fld n 25 6 = 15 then some (.bfi (BitVec.ofNat 1 (fld n 31 1)) (BitVec.ofNat 4 (fld n 21 4)) (BitVec.ofNat 6 (fld n 15 6)) (BitVec.ofNat 6 (fld n 9 6)) (BitVec.ofNat 6 (fld n 3 6)))
  else none

/-- The rows of major 0x10. -/
noncomputable def decodeMajor10 (n : Nat) : Option Instr :=
  if fld n 12 4 = 0 ∧ fld n 25 6 = 16 then some (.icmpEq (BitVec.ofNat 1 (fld n 31 1)) (BitVec.ofNat 4 (fld n 21 4)) (BitVec.ofNat 2 (fld n 19 2)) (BitVec.ofNat 3 (fld n 16 3)) (BitVec.ofNat 6 (fld n 6 6)) (BitVec.ofNat 6 (fld n 0 6)))
  else if fld n 12 4 = 1 ∧ fld n 25 6 = 16 then some (.icmpNe (BitVec.ofNat 1 (fld n 31 1)) (BitVec.ofNat 4 (fld n 21 4)) (BitVec.ofNat 2 (fld n 19 2)) (BitVec.ofNat 3 (fld n 16 3)) (BitVec.ofNat 6 (fld n 6 6)) (BitVec.ofNat 6 (fld n 0 6)))
  else if fld n 12 4 = 2 ∧ fld n 25 6 = 16 then some (.icmpLt (BitVec.ofNat 1 (fld n 31 1)) (BitVec.ofNat 4 (fld n 21 4)) (BitVec.ofNat 2 (fld n 19 2)) (BitVec.ofNat 3 (fld n 16 3)) (BitVec.ofNat 6 (fld n 6 6)) (BitVec.ofNat 6 (fld n 0 6)))
  else if fld n 12 4 = 3 ∧ fld n 25 6 = 16 then some (.icmpLe (BitVec.ofNat 1 (fld n 31 1)) (BitVec.ofNat 4 (fld n 21 4)) (BitVec.ofNat 2 (fld n 19 2)) (BitVec.ofNat 3 (fld n 16 3)) (BitVec.ofNat 6 (fld n 6 6)) (BitVec.ofNat 6 (fld n 0 6)))
  else if fld n 12 4 = 4 ∧ fld n 25 6 = 16 then some (.icmpGt (BitVec.ofNat 1 (fld n 31 1)) (BitVec.ofNat 4 (fld n 21 4)) (BitVec.ofNat 2 (fld n 19 2)) (BitVec.ofNat 3 (fld n 16 3)) (BitVec.ofNat 6 (fld n 6 6)) (BitVec.ofNat 6 (fld n 0 6)))
  else if fld n 12 4 = 5 ∧ fld n 25 6 = 16 then some (.icmpGe (BitVec.ofNat 1 (fld n 31 1)) (BitVec.ofNat 4 (fld n 21 4)) (BitVec.ofNat 2 (fld n 19 2)) (BitVec.ofNat 3 (fld n 16 3)) (BitVec.ofNat 6 (fld n 6 6)) (BitVec.ofNat 6 (fld n 0 6)))
  else if fld n 12 4 = 6 ∧ fld n 25 6 = 16 then some (.icmpLtu (BitVec.ofNat 1 (fld n 31 1)) (BitVec.ofNat 4 (fld n 21 4)) (BitVec.ofNat 2 (fld n 19 2)) (BitVec.ofNat 3 (fld n 16 3)) (BitVec.ofNat 6 (fld n 6 6)) (BitVec.ofNat 6 (fld n 0 6)))
  else if fld n 12 4 = 7 ∧ fld n 25 6 = 16 then some (.icmpLeu (BitVec.ofNat 1 (fld n 31 1)) (BitVec.ofNat 4 (fld n 21 4)) (BitVec.ofNat 2 (fld n 19 2)) (BitVec.ofNat 3 (fld n 16 3)) (BitVec.ofNat 6 (fld n 6 6)) (BitVec.ofNat 6 (fld n 0 6)))
  else if fld n 12 4 = 8 ∧ fld n 25 6 = 16 then some (.icmpGtu (BitVec.ofNat 1 (fld n 31 1)) (BitVec.ofNat 4 (fld n 21 4)) (BitVec.ofNat 2 (fld n 19 2)) (BitVec.ofNat 3 (fld n 16 3)) (BitVec.ofNat 6 (fld n 6 6)) (BitVec.ofNat 6 (fld n 0 6)))
  else if fld n 12 4 = 9 ∧ fld n 25 6 = 16 then some (.icmpGeu (BitVec.ofNat 1 (fld n 31 1)) (BitVec.ofNat 4 (fld n 21 4)) (BitVec.ofNat 2 (fld n 19 2)) (BitVec.ofNat 3 (fld n 16 3)) (BitVec.ofNat 6 (fld n 6 6)) (BitVec.ofNat 6 (fld n 0 6)))
  else if fld n 12 4 = 10 ∧ fld n 25 6 = 16 then some (.icmpTst (BitVec.ofNat 1 (fld n 31 1)) (BitVec.ofNat 4 (fld n 21 4)) (BitVec.ofNat 2 (fld n 19 2)) (BitVec.ofNat 3 (fld n 16 3)) (BitVec.ofNat 6 (fld n 6 6)) (BitVec.ofNat 6 (fld n 0 6)))
  else if fld n 12 4 = 11 ∧ fld n 25 6 = 16 then some (.icmpNtst (BitVec.ofNat 1 (fld n 31 1)) (BitVec.ofNat 4 (fld n 21 4)) (BitVec.ofNat 2 (fld n 19 2)) (BitVec.ofNat 3 (fld n 16 3)) (BitVec.ofNat 6 (fld n 6 6)) (BitVec.ofNat 6 (fld n 0 6)))
  else none

/-- The rows of major 0x11. -/
noncomputable def decodeMajor11 (n : Nat) : Option Instr :=
  if fld n 0 12 = 0 ∧ fld n 25 6 = 17 then some (.pand (BitVec.ofNat 1 (fld n 31 1)) (BitVec.ofNat 4 (fld n 21 4)) (BitVec.ofNat 3 (fld n 18 3)) (BitVec.ofNat 3 (fld n 15 3)) (BitVec.ofNat 3 (fld n 12 3)))
  else if fld n 0 12 = 1 ∧ fld n 25 6 = 17 then some (.por (BitVec.ofNat 1 (fld n 31 1)) (BitVec.ofNat 4 (fld n 21 4)) (BitVec.ofNat 3 (fld n 18 3)) (BitVec.ofNat 3 (fld n 15 3)) (BitVec.ofNat 3 (fld n 12 3)))
  else if fld n 0 12 = 2 ∧ fld n 25 6 = 17 then some (.pxor (BitVec.ofNat 1 (fld n 31 1)) (BitVec.ofNat 4 (fld n 21 4)) (BitVec.ofNat 3 (fld n 18 3)) (BitVec.ofNat 3 (fld n 15 3)) (BitVec.ofNat 3 (fld n 12 3)))
  else if fld n 0 15 = 3 ∧ fld n 25 6 = 17 then some (.pnot (BitVec.ofNat 1 (fld n 31 1)) (BitVec.ofNat 4 (fld n 21 4)) (BitVec.ofNat 3 (fld n 18 3)) (BitVec.ofNat 3 (fld n 15 3)))
  else if fld n 0 15 = 4 ∧ fld n 25 6 = 17 then some (.pmov (BitVec.ofNat 1 (fld n 31 1)) (BitVec.ofNat 4 (fld n 21 4)) (BitVec.ofNat 3 (fld n 18 3)) (BitVec.ofNat 3 (fld n 15 3)))
  else if fld n 0 15 = 5 ∧ fld n 25 6 = 17 then some (.pisu (BitVec.ofNat 1 (fld n 31 1)) (BitVec.ofNat 4 (fld n 21 4)) (BitVec.ofNat 3 (fld n 18 3)) (BitVec.ofNat 3 (fld n 15 3)))
  else if fld n 0 15 = 6 ∧ fld n 25 6 = 17 then some (.pist (BitVec.ofNat 1 (fld n 31 1)) (BitVec.ofNat 4 (fld n 21 4)) (BitVec.ofNat 3 (fld n 18 3)) (BitVec.ofNat 3 (fld n 15 3)))
  else if fld n 0 15 = 7 ∧ fld n 25 6 = 17 then some (.pset (BitVec.ofNat 1 (fld n 31 1)) (BitVec.ofNat 4 (fld n 21 4)) (BitVec.ofNat 3 (fld n 18 3)) (BitVec.ofNat 3 (fld n 15 3)))
  else none

/-- The rows of major 0x12. -/
noncomputable def decodeMajor12 (n : Nat) : Option Instr :=
  if fld n 0 9 = 0 ∧ fld n 25 6 = 18 then some (.voteAll (BitVec.ofNat 1 (fld n 31 1)) (BitVec.ofNat 4 (fld n 21 4)) (BitVec.ofNat 6 (fld n 15 6)) (BitVec.ofNat 6 (fld n 9 6)))
  else if fld n 0 9 = 1 ∧ fld n 25 6 = 18 then some (.voteAny (BitVec.ofNat 1 (fld n 31 1)) (BitVec.ofNat 4 (fld n 21 4)) (BitVec.ofNat 6 (fld n 15 6)) (BitVec.ofNat 6 (fld n 9 6)))
  else if fld n 0 9 = 2 ∧ fld n 25 6 = 18 then some (.ballot (BitVec.ofNat 1 (fld n 31 1)) (BitVec.ofNat 4 (fld n 21 4)) (BitVec.ofNat 6 (fld n 15 6)) (BitVec.ofNat 6 (fld n 9 6)))
  else if fld n 0 9 = 3 ∧ fld n 25 6 = 18 then some (.ballotu (BitVec.ofNat 1 (fld n 31 1)) (BitVec.ofNat 4 (fld n 21 4)) (BitVec.ofNat 6 (fld n 15 6)) (BitVec.ofNat 6 (fld n 9 6)))
  else if fld n 0 3 = 4 ∧ fld n 25 6 = 18 then some (.shflIdx (BitVec.ofNat 1 (fld n 31 1)) (BitVec.ofNat 4 (fld n 21 4)) (BitVec.ofNat 6 (fld n 15 6)) (BitVec.ofNat 6 (fld n 9 6)) (BitVec.ofNat 6 (fld n 3 6)))
  else if fld n 0 3 = 5 ∧ fld n 25 6 = 18 then some (.shflUp (BitVec.ofNat 1 (fld n 31 1)) (BitVec.ofNat 4 (fld n 21 4)) (BitVec.ofNat 6 (fld n 15 6)) (BitVec.ofNat 6 (fld n 9 6)) (BitVec.ofNat 6 (fld n 3 6)))
  else if fld n 0 3 = 6 ∧ fld n 25 6 = 18 then some (.shflDown (BitVec.ofNat 1 (fld n 31 1)) (BitVec.ofNat 4 (fld n 21 4)) (BitVec.ofNat 6 (fld n 15 6)) (BitVec.ofNat 6 (fld n 9 6)) (BitVec.ofNat 6 (fld n 3 6)))
  else if fld n 0 3 = 7 ∧ fld n 25 6 = 18 then some (.shflXor (BitVec.ofNat 1 (fld n 31 1)) (BitVec.ofNat 4 (fld n 21 4)) (BitVec.ofNat 6 (fld n 15 6)) (BitVec.ofNat 6 (fld n 9 6)) (BitVec.ofNat 6 (fld n 3 6)))
  else none

/-- The rows of major 0x13. -/
noncomputable def decodeMajor13 (n : Nat) : Option Instr :=
  if fld n 0 3 = 0 ∧ fld n 25 6 = 19 then some (.divW (BitVec.ofNat 1 (fld n 31 1)) (BitVec.ofNat 4 (fld n 21 4)) (BitVec.ofNat 6 (fld n 15 6)) (BitVec.ofNat 6 (fld n 9 6)) (BitVec.ofNat 6 (fld n 3 6)))
  else if fld n 0 3 = 1 ∧ fld n 25 6 = 19 then some (.divuW (BitVec.ofNat 1 (fld n 31 1)) (BitVec.ofNat 4 (fld n 21 4)) (BitVec.ofNat 6 (fld n 15 6)) (BitVec.ofNat 6 (fld n 9 6)) (BitVec.ofNat 6 (fld n 3 6)))
  else if fld n 0 3 = 2 ∧ fld n 25 6 = 19 then some (.remW (BitVec.ofNat 1 (fld n 31 1)) (BitVec.ofNat 4 (fld n 21 4)) (BitVec.ofNat 6 (fld n 15 6)) (BitVec.ofNat 6 (fld n 9 6)) (BitVec.ofNat 6 (fld n 3 6)))
  else if fld n 0 3 = 3 ∧ fld n 25 6 = 19 then some (.remuW (BitVec.ofNat 1 (fld n 31 1)) (BitVec.ofNat 4 (fld n 21 4)) (BitVec.ofNat 6 (fld n 15 6)) (BitVec.ofNat 6 (fld n 9 6)) (BitVec.ofNat 6 (fld n 3 6)))
  else if fld n 0 3 = 4 ∧ fld n 25 6 = 19 then some (.divD (BitVec.ofNat 1 (fld n 31 1)) (BitVec.ofNat 4 (fld n 21 4)) (BitVec.ofNat 6 (fld n 15 6)) (BitVec.ofNat 6 (fld n 9 6)) (BitVec.ofNat 6 (fld n 3 6)))
  else if fld n 0 3 = 5 ∧ fld n 25 6 = 19 then some (.divuD (BitVec.ofNat 1 (fld n 31 1)) (BitVec.ofNat 4 (fld n 21 4)) (BitVec.ofNat 6 (fld n 15 6)) (BitVec.ofNat 6 (fld n 9 6)) (BitVec.ofNat 6 (fld n 3 6)))
  else if fld n 0 3 = 6 ∧ fld n 25 6 = 19 then some (.remD (BitVec.ofNat 1 (fld n 31 1)) (BitVec.ofNat 4 (fld n 21 4)) (BitVec.ofNat 6 (fld n 15 6)) (BitVec.ofNat 6 (fld n 9 6)) (BitVec.ofNat 6 (fld n 3 6)))
  else if fld n 0 3 = 7 ∧ fld n 25 6 = 19 then some (.remuD (BitVec.ofNat 1 (fld n 31 1)) (BitVec.ofNat 4 (fld n 21 4)) (BitVec.ofNat 6 (fld n 15 6)) (BitVec.ofNat 6 (fld n 9 6)) (BitVec.ofNat 6 (fld n 3 6)))
  else none

/-- The rows of major 0x14. -/
noncomputable def decodeMajor14 (n : Nat) : Option Instr :=
  if fld n 25 6 = 20 then some (.sel (BitVec.ofNat 1 (fld n 31 1)) (BitVec.ofNat 4 (fld n 21 4)) (BitVec.ofNat 6 (fld n 15 6)) (BitVec.ofNat 6 (fld n 9 6)) (BitVec.ofNat 6 (fld n 3 6)) (BitVec.ofNat 3 (fld n 0 3)))
  else none

/-- The rows of major 0x15. -/
noncomputable def decodeMajor15 (n : Nat) : Option Instr :=
  if fld n 0 3 = 0 ∧ fld n 25 6 = 21 then some (.randW (BitVec.ofNat 1 (fld n 31 1)) (BitVec.ofNat 4 (fld n 21 4)) (BitVec.ofNat 6 (fld n 15 6)) (BitVec.ofNat 6 (fld n 9 6)) (BitVec.ofNat 6 (fld n 3 6)))
  else if fld n 0 3 = 1 ∧ fld n 25 6 = 21 then some (.randD (BitVec.ofNat 1 (fld n 31 1)) (BitVec.ofNat 4 (fld n 21 4)) (BitVec.ofNat 6 (fld n 15 6)) (BitVec.ofNat 6 (fld n 9 6)) (BitVec.ofNat 6 (fld n 3 6)))
  else none

/-- The rows of major 0x18. -/
noncomputable def decodeMajor18 (n : Nat) : Option Instr :=
  if fld n 0 3 = 0 ∧ fld n 25 6 = 24 then some (.faddS (BitVec.ofNat 1 (fld n 31 1)) (BitVec.ofNat 4 (fld n 21 4)) (BitVec.ofNat 6 (fld n 15 6)) (BitVec.ofNat 6 (fld n 9 6)) (BitVec.ofNat 6 (fld n 3 6)))
  else if fld n 0 3 = 1 ∧ fld n 25 6 = 24 then some (.fsubS (BitVec.ofNat 1 (fld n 31 1)) (BitVec.ofNat 4 (fld n 21 4)) (BitVec.ofNat 6 (fld n 15 6)) (BitVec.ofNat 6 (fld n 9 6)) (BitVec.ofNat 6 (fld n 3 6)))
  else if fld n 0 3 = 2 ∧ fld n 25 6 = 24 then some (.fmulS (BitVec.ofNat 1 (fld n 31 1)) (BitVec.ofNat 4 (fld n 21 4)) (BitVec.ofNat 6 (fld n 15 6)) (BitVec.ofNat 6 (fld n 9 6)) (BitVec.ofNat 6 (fld n 3 6)))
  else if fld n 0 3 = 3 ∧ fld n 25 6 = 24 then some (.fdivS (BitVec.ofNat 1 (fld n 31 1)) (BitVec.ofNat 4 (fld n 21 4)) (BitVec.ofNat 6 (fld n 15 6)) (BitVec.ofNat 6 (fld n 9 6)) (BitVec.ofNat 6 (fld n 3 6)))
  else if fld n 0 3 = 4 ∧ fld n 25 6 = 24 then some (.fminS (BitVec.ofNat 1 (fld n 31 1)) (BitVec.ofNat 4 (fld n 21 4)) (BitVec.ofNat 6 (fld n 15 6)) (BitVec.ofNat 6 (fld n 9 6)) (BitVec.ofNat 6 (fld n 3 6)))
  else if fld n 0 3 = 5 ∧ fld n 25 6 = 24 then some (.fmaxS (BitVec.ofNat 1 (fld n 31 1)) (BitVec.ofNat 4 (fld n 21 4)) (BitVec.ofNat 6 (fld n 15 6)) (BitVec.ofNat 6 (fld n 9 6)) (BitVec.ofNat 6 (fld n 3 6)))
  else if fld n 0 3 = 6 ∧ fld n 25 6 = 24 then some (.fcpysS (BitVec.ofNat 1 (fld n 31 1)) (BitVec.ofNat 4 (fld n 21 4)) (BitVec.ofNat 6 (fld n 15 6)) (BitVec.ofNat 6 (fld n 9 6)) (BitVec.ofNat 6 (fld n 3 6)))
  else none

/-- The rows of major 0x19. -/
noncomputable def decodeMajor19 (n : Nat) : Option Instr :=
  if fld n 0 3 = 0 ∧ fld n 25 6 = 25 then some (.faddD (BitVec.ofNat 1 (fld n 31 1)) (BitVec.ofNat 4 (fld n 21 4)) (BitVec.ofNat 6 (fld n 15 6)) (BitVec.ofNat 6 (fld n 9 6)) (BitVec.ofNat 6 (fld n 3 6)))
  else if fld n 0 3 = 1 ∧ fld n 25 6 = 25 then some (.fsubD (BitVec.ofNat 1 (fld n 31 1)) (BitVec.ofNat 4 (fld n 21 4)) (BitVec.ofNat 6 (fld n 15 6)) (BitVec.ofNat 6 (fld n 9 6)) (BitVec.ofNat 6 (fld n 3 6)))
  else if fld n 0 3 = 2 ∧ fld n 25 6 = 25 then some (.fmulD (BitVec.ofNat 1 (fld n 31 1)) (BitVec.ofNat 4 (fld n 21 4)) (BitVec.ofNat 6 (fld n 15 6)) (BitVec.ofNat 6 (fld n 9 6)) (BitVec.ofNat 6 (fld n 3 6)))
  else if fld n 0 3 = 3 ∧ fld n 25 6 = 25 then some (.fdivD (BitVec.ofNat 1 (fld n 31 1)) (BitVec.ofNat 4 (fld n 21 4)) (BitVec.ofNat 6 (fld n 15 6)) (BitVec.ofNat 6 (fld n 9 6)) (BitVec.ofNat 6 (fld n 3 6)))
  else if fld n 0 3 = 4 ∧ fld n 25 6 = 25 then some (.fminD (BitVec.ofNat 1 (fld n 31 1)) (BitVec.ofNat 4 (fld n 21 4)) (BitVec.ofNat 6 (fld n 15 6)) (BitVec.ofNat 6 (fld n 9 6)) (BitVec.ofNat 6 (fld n 3 6)))
  else if fld n 0 3 = 5 ∧ fld n 25 6 = 25 then some (.fmaxD (BitVec.ofNat 1 (fld n 31 1)) (BitVec.ofNat 4 (fld n 21 4)) (BitVec.ofNat 6 (fld n 15 6)) (BitVec.ofNat 6 (fld n 9 6)) (BitVec.ofNat 6 (fld n 3 6)))
  else if fld n 0 3 = 6 ∧ fld n 25 6 = 25 then some (.fcpysD (BitVec.ofNat 1 (fld n 31 1)) (BitVec.ofNat 4 (fld n 21 4)) (BitVec.ofNat 6 (fld n 15 6)) (BitVec.ofNat 6 (fld n 9 6)) (BitVec.ofNat 6 (fld n 3 6)))
  else none

/-- The rows of major 0x1A. -/
noncomputable def decodeMajor1A (n : Nat) : Option Instr :=
  if fld n 0 3 = 0 ∧ fld n 25 6 = 26 then some (.faddI (BitVec.ofNat 1 (fld n 31 1)) (BitVec.ofNat 4 (fld n 21 4)) (BitVec.ofNat 6 (fld n 15 6)) (BitVec.ofNat 6 (fld n 9 6)) (BitVec.ofNat 6 (fld n 3 6)))
  else if fld n 0 3 = 1 ∧ fld n 25 6 = 26 then some (.fsubI (BitVec.ofNat 1 (fld n 31 1)) (BitVec.ofNat 4 (fld n 21 4)) (BitVec.ofNat 6 (fld n 15 6)) (BitVec.ofNat 6 (fld n 9 6)) (BitVec.ofNat 6 (fld n 3 6)))
  else if fld n 0 3 = 2 ∧ fld n 25 6 = 26 then some (.fmulI (BitVec.ofNat 1 (fld n 31 1)) (BitVec.ofNat 4 (fld n 21 4)) (BitVec.ofNat 6 (fld n 15 6)) (BitVec.ofNat 6 (fld n 9 6)) (BitVec.ofNat 6 (fld n 3 6)))
  else if fld n 0 3 = 3 ∧ fld n 25 6 = 26 then some (.fdivI (BitVec.ofNat 1 (fld n 31 1)) (BitVec.ofNat 4 (fld n 21 4)) (BitVec.ofNat 6 (fld n 15 6)) (BitVec.ofNat 6 (fld n 9 6)) (BitVec.ofNat 6 (fld n 3 6)))
  else if fld n 0 3 = 4 ∧ fld n 25 6 = 26 then some (.fhullI (BitVec.ofNat 1 (fld n 31 1)) (BitVec.ofNat 4 (fld n 21 4)) (BitVec.ofNat 6 (fld n 15 6)) (BitVec.ofNat 6 (fld n 9 6)) (BitVec.ofNat 6 (fld n 3 6)))
  else if fld n 0 3 = 5 ∧ fld n 25 6 = 26 then some (.fisectI (BitVec.ofNat 1 (fld n 31 1)) (BitVec.ofNat 4 (fld n 21 4)) (BitVec.ofNat 6 (fld n 15 6)) (BitVec.ofNat 6 (fld n 9 6)) (BitVec.ofNat 6 (fld n 3 6)))
  else if fld n 0 3 = 6 ∧ fld n 25 6 = 26 then some (.fminI (BitVec.ofNat 1 (fld n 31 1)) (BitVec.ofNat 4 (fld n 21 4)) (BitVec.ofNat 6 (fld n 15 6)) (BitVec.ofNat 6 (fld n 9 6)) (BitVec.ofNat 6 (fld n 3 6)))
  else if fld n 0 3 = 7 ∧ fld n 25 6 = 26 then some (.fmaxI (BitVec.ofNat 1 (fld n 31 1)) (BitVec.ofNat 4 (fld n 21 4)) (BitVec.ofNat 6 (fld n 15 6)) (BitVec.ofNat 6 (fld n 9 6)) (BitVec.ofNat 6 (fld n 3 6)))
  else none

/-- The rows of major 0x1B. -/
noncomputable def decodeMajor1B (n : Nat) : Option Instr :=
  if fld n 0 3 = 0 ∧ fld n 25 6 = 27 then some (.faddJ (BitVec.ofNat 1 (fld n 31 1)) (BitVec.ofNat 4 (fld n 21 4)) (BitVec.ofNat 6 (fld n 15 6)) (BitVec.ofNat 6 (fld n 9 6)) (BitVec.ofNat 6 (fld n 3 6)))
  else if fld n 0 3 = 1 ∧ fld n 25 6 = 27 then some (.fsubJ (BitVec.ofNat 1 (fld n 31 1)) (BitVec.ofNat 4 (fld n 21 4)) (BitVec.ofNat 6 (fld n 15 6)) (BitVec.ofNat 6 (fld n 9 6)) (BitVec.ofNat 6 (fld n 3 6)))
  else if fld n 0 3 = 2 ∧ fld n 25 6 = 27 then some (.fmulJ (BitVec.ofNat 1 (fld n 31 1)) (BitVec.ofNat 4 (fld n 21 4)) (BitVec.ofNat 6 (fld n 15 6)) (BitVec.ofNat 6 (fld n 9 6)) (BitVec.ofNat 6 (fld n 3 6)))
  else if fld n 0 3 = 3 ∧ fld n 25 6 = 27 then some (.fdivJ (BitVec.ofNat 1 (fld n 31 1)) (BitVec.ofNat 4 (fld n 21 4)) (BitVec.ofNat 6 (fld n 15 6)) (BitVec.ofNat 6 (fld n 9 6)) (BitVec.ofNat 6 (fld n 3 6)))
  else if fld n 0 3 = 4 ∧ fld n 25 6 = 27 then some (.fhullJ (BitVec.ofNat 1 (fld n 31 1)) (BitVec.ofNat 4 (fld n 21 4)) (BitVec.ofNat 6 (fld n 15 6)) (BitVec.ofNat 6 (fld n 9 6)) (BitVec.ofNat 6 (fld n 3 6)))
  else if fld n 0 3 = 5 ∧ fld n 25 6 = 27 then some (.fisectJ (BitVec.ofNat 1 (fld n 31 1)) (BitVec.ofNat 4 (fld n 21 4)) (BitVec.ofNat 6 (fld n 15 6)) (BitVec.ofNat 6 (fld n 9 6)) (BitVec.ofNat 6 (fld n 3 6)))
  else if fld n 0 3 = 6 ∧ fld n 25 6 = 27 then some (.fminJ (BitVec.ofNat 1 (fld n 31 1)) (BitVec.ofNat 4 (fld n 21 4)) (BitVec.ofNat 6 (fld n 15 6)) (BitVec.ofNat 6 (fld n 9 6)) (BitVec.ofNat 6 (fld n 3 6)))
  else if fld n 0 3 = 7 ∧ fld n 25 6 = 27 then some (.fmaxJ (BitVec.ofNat 1 (fld n 31 1)) (BitVec.ofNat 4 (fld n 21 4)) (BitVec.ofNat 6 (fld n 15 6)) (BitVec.ofNat 6 (fld n 9 6)) (BitVec.ofNat 6 (fld n 3 6)))
  else none

/-- The rows of major 0x1C. -/
noncomputable def decodeMajor1C (n : Nat) : Option Instr :=
  if fld n 0 3 = 0 ∧ fld n 25 6 = 28 then some (.fmacS (BitVec.ofNat 1 (fld n 31 1)) (BitVec.ofNat 4 (fld n 21 4)) (BitVec.ofNat 6 (fld n 15 6)) (BitVec.ofNat 6 (fld n 9 6)) (BitVec.ofNat 6 (fld n 3 6)))
  else if fld n 0 3 = 1 ∧ fld n 25 6 = 28 then some (.fmscS (BitVec.ofNat 1 (fld n 31 1)) (BitVec.ofNat 4 (fld n 21 4)) (BitVec.ofNat 6 (fld n 15 6)) (BitVec.ofNat 6 (fld n 9 6)) (BitVec.ofNat 6 (fld n 3 6)))
  else if fld n 0 3 = 2 ∧ fld n 25 6 = 28 then some (.fnmacS (BitVec.ofNat 1 (fld n 31 1)) (BitVec.ofNat 4 (fld n 21 4)) (BitVec.ofNat 6 (fld n 15 6)) (BitVec.ofNat 6 (fld n 9 6)) (BitVec.ofNat 6 (fld n 3 6)))
  else if fld n 0 3 = 3 ∧ fld n 25 6 = 28 then some (.fnmscS (BitVec.ofNat 1 (fld n 31 1)) (BitVec.ofNat 4 (fld n 21 4)) (BitVec.ofNat 6 (fld n 15 6)) (BitVec.ofNat 6 (fld n 9 6)) (BitVec.ofNat 6 (fld n 3 6)))
  else if fld n 0 3 = 4 ∧ fld n 25 6 = 28 then some (.fmacD (BitVec.ofNat 1 (fld n 31 1)) (BitVec.ofNat 4 (fld n 21 4)) (BitVec.ofNat 6 (fld n 15 6)) (BitVec.ofNat 6 (fld n 9 6)) (BitVec.ofNat 6 (fld n 3 6)))
  else if fld n 0 3 = 5 ∧ fld n 25 6 = 28 then some (.fmscD (BitVec.ofNat 1 (fld n 31 1)) (BitVec.ofNat 4 (fld n 21 4)) (BitVec.ofNat 6 (fld n 15 6)) (BitVec.ofNat 6 (fld n 9 6)) (BitVec.ofNat 6 (fld n 3 6)))
  else if fld n 0 3 = 6 ∧ fld n 25 6 = 28 then some (.fnmacD (BitVec.ofNat 1 (fld n 31 1)) (BitVec.ofNat 4 (fld n 21 4)) (BitVec.ofNat 6 (fld n 15 6)) (BitVec.ofNat 6 (fld n 9 6)) (BitVec.ofNat 6 (fld n 3 6)))
  else if fld n 0 3 = 7 ∧ fld n 25 6 = 28 then some (.fnmscD (BitVec.ofNat 1 (fld n 31 1)) (BitVec.ofNat 4 (fld n 21 4)) (BitVec.ofNat 6 (fld n 15 6)) (BitVec.ofNat 6 (fld n 9 6)) (BitVec.ofNat 6 (fld n 3 6)))
  else none

/-- The rows of major 0x1D. -/
noncomputable def decodeMajor1D (n : Nat) : Option Instr :=
  if fld n 0 3 = 0 ∧ fld n 25 6 = 29 then some (.fmacI (BitVec.ofNat 1 (fld n 31 1)) (BitVec.ofNat 4 (fld n 21 4)) (BitVec.ofNat 6 (fld n 15 6)) (BitVec.ofNat 6 (fld n 9 6)) (BitVec.ofNat 6 (fld n 3 6)))
  else if fld n 0 3 = 1 ∧ fld n 25 6 = 29 then some (.fmscI (BitVec.ofNat 1 (fld n 31 1)) (BitVec.ofNat 4 (fld n 21 4)) (BitVec.ofNat 6 (fld n 15 6)) (BitVec.ofNat 6 (fld n 9 6)) (BitVec.ofNat 6 (fld n 3 6)))
  else if fld n 0 3 = 2 ∧ fld n 25 6 = 29 then some (.fnmacI (BitVec.ofNat 1 (fld n 31 1)) (BitVec.ofNat 4 (fld n 21 4)) (BitVec.ofNat 6 (fld n 15 6)) (BitVec.ofNat 6 (fld n 9 6)) (BitVec.ofNat 6 (fld n 3 6)))
  else if fld n 0 3 = 3 ∧ fld n 25 6 = 29 then some (.fnmscI (BitVec.ofNat 1 (fld n 31 1)) (BitVec.ofNat 4 (fld n 21 4)) (BitVec.ofNat 6 (fld n 15 6)) (BitVec.ofNat 6 (fld n 9 6)) (BitVec.ofNat 6 (fld n 3 6)))
  else if fld n 0 3 = 4 ∧ fld n 25 6 = 29 then some (.fmacJ (BitVec.ofNat 1 (fld n 31 1)) (BitVec.ofNat 4 (fld n 21 4)) (BitVec.ofNat 6 (fld n 15 6)) (BitVec.ofNat 6 (fld n 9 6)) (BitVec.ofNat 6 (fld n 3 6)))
  else if fld n 0 3 = 5 ∧ fld n 25 6 = 29 then some (.fmscJ (BitVec.ofNat 1 (fld n 31 1)) (BitVec.ofNat 4 (fld n 21 4)) (BitVec.ofNat 6 (fld n 15 6)) (BitVec.ofNat 6 (fld n 9 6)) (BitVec.ofNat 6 (fld n 3 6)))
  else if fld n 0 3 = 6 ∧ fld n 25 6 = 29 then some (.fnmacJ (BitVec.ofNat 1 (fld n 31 1)) (BitVec.ofNat 4 (fld n 21 4)) (BitVec.ofNat 6 (fld n 15 6)) (BitVec.ofNat 6 (fld n 9 6)) (BitVec.ofNat 6 (fld n 3 6)))
  else if fld n 0 3 = 7 ∧ fld n 25 6 = 29 then some (.fnmscJ (BitVec.ofNat 1 (fld n 31 1)) (BitVec.ofNat 4 (fld n 21 4)) (BitVec.ofNat 6 (fld n 15 6)) (BitVec.ofNat 6 (fld n 9 6)) (BitVec.ofNat 6 (fld n 3 6)))
  else none

/-- The rows of major 0x1E. -/
noncomputable def decodeMajor1E (n : Nat) : Option Instr :=
  if fld n 0 9 = 0 ∧ fld n 25 6 = 30 then some (.fabsS (BitVec.ofNat 1 (fld n 31 1)) (BitVec.ofNat 4 (fld n 21 4)) (BitVec.ofNat 6 (fld n 15 6)) (BitVec.ofNat 6 (fld n 9 6)))
  else if fld n 0 9 = 1 ∧ fld n 25 6 = 30 then some (.fnegS (BitVec.ofNat 1 (fld n 31 1)) (BitVec.ofNat 4 (fld n 21 4)) (BitVec.ofNat 6 (fld n 15 6)) (BitVec.ofNat 6 (fld n 9 6)))
  else if fld n 0 9 = 2 ∧ fld n 25 6 = 30 then some (.fsqrtS (BitVec.ofNat 1 (fld n 31 1)) (BitVec.ofNat 4 (fld n 21 4)) (BitVec.ofNat 6 (fld n 15 6)) (BitVec.ofNat 6 (fld n 9 6)))
  else if fld n 0 9 = 3 ∧ fld n 25 6 = 30 then some (.frcpS (BitVec.ofNat 1 (fld n 31 1)) (BitVec.ofNat 4 (fld n 21 4)) (BitVec.ofNat 6 (fld n 15 6)) (BitVec.ofNat 6 (fld n 9 6)))
  else if fld n 0 9 = 4 ∧ fld n 25 6 = 30 then some (.frsqS (BitVec.ofNat 1 (fld n 31 1)) (BitVec.ofNat 4 (fld n 21 4)) (BitVec.ofNat 6 (fld n 15 6)) (BitVec.ofNat 6 (fld n 9 6)))
  else if fld n 0 9 = 5 ∧ fld n 25 6 = 30 then some (.fexp2S (BitVec.ofNat 1 (fld n 31 1)) (BitVec.ofNat 4 (fld n 21 4)) (BitVec.ofNat 6 (fld n 15 6)) (BitVec.ofNat 6 (fld n 9 6)))
  else if fld n 0 9 = 6 ∧ fld n 25 6 = 30 then some (.flog2S (BitVec.ofNat 1 (fld n 31 1)) (BitVec.ofNat 4 (fld n 21 4)) (BitVec.ofNat 6 (fld n 15 6)) (BitVec.ofNat 6 (fld n 9 6)))
  else if fld n 0 9 = 7 ∧ fld n 25 6 = 30 then some (.fsinS (BitVec.ofNat 1 (fld n 31 1)) (BitVec.ofNat 4 (fld n 21 4)) (BitVec.ofNat 6 (fld n 15 6)) (BitVec.ofNat 6 (fld n 9 6)))
  else if fld n 0 9 = 8 ∧ fld n 25 6 = 30 then some (.fcosS (BitVec.ofNat 1 (fld n 31 1)) (BitVec.ofNat 4 (fld n 21 4)) (BitVec.ofNat 6 (fld n 15 6)) (BitVec.ofNat 6 (fld n 9 6)))
  else if fld n 0 9 = 9 ∧ fld n 25 6 = 30 then some (.frndS (BitVec.ofNat 1 (fld n 31 1)) (BitVec.ofNat 4 (fld n 21 4)) (BitVec.ofNat 6 (fld n 15 6)) (BitVec.ofNat 6 (fld n 9 6)))
  else if fld n 0 9 = 10 ∧ fld n 25 6 = 30 then some (.fclassS (BitVec.ofNat 1 (fld n 31 1)) (BitVec.ofNat 4 (fld n 21 4)) (BitVec.ofNat 6 (fld n 15 6)) (BitVec.ofNat 6 (fld n 9 6)))
  else if fld n 0 9 = 16 ∧ fld n 25 6 = 30 then some (.fabsD (BitVec.ofNat 1 (fld n 31 1)) (BitVec.ofNat 4 (fld n 21 4)) (BitVec.ofNat 6 (fld n 15 6)) (BitVec.ofNat 6 (fld n 9 6)))
  else if fld n 0 9 = 17 ∧ fld n 25 6 = 30 then some (.fnegD (BitVec.ofNat 1 (fld n 31 1)) (BitVec.ofNat 4 (fld n 21 4)) (BitVec.ofNat 6 (fld n 15 6)) (BitVec.ofNat 6 (fld n 9 6)))
  else if fld n 0 9 = 18 ∧ fld n 25 6 = 30 then some (.fsqrtD (BitVec.ofNat 1 (fld n 31 1)) (BitVec.ofNat 4 (fld n 21 4)) (BitVec.ofNat 6 (fld n 15 6)) (BitVec.ofNat 6 (fld n 9 6)))
  else if fld n 0 9 = 19 ∧ fld n 25 6 = 30 then some (.frcpD (BitVec.ofNat 1 (fld n 31 1)) (BitVec.ofNat 4 (fld n 21 4)) (BitVec.ofNat 6 (fld n 15 6)) (BitVec.ofNat 6 (fld n 9 6)))
  else if fld n 0 9 = 20 ∧ fld n 25 6 = 30 then some (.frsqD (BitVec.ofNat 1 (fld n 31 1)) (BitVec.ofNat 4 (fld n 21 4)) (BitVec.ofNat 6 (fld n 15 6)) (BitVec.ofNat 6 (fld n 9 6)))
  else if fld n 0 9 = 21 ∧ fld n 25 6 = 30 then some (.fexp2D (BitVec.ofNat 1 (fld n 31 1)) (BitVec.ofNat 4 (fld n 21 4)) (BitVec.ofNat 6 (fld n 15 6)) (BitVec.ofNat 6 (fld n 9 6)))
  else if fld n 0 9 = 22 ∧ fld n 25 6 = 30 then some (.flog2D (BitVec.ofNat 1 (fld n 31 1)) (BitVec.ofNat 4 (fld n 21 4)) (BitVec.ofNat 6 (fld n 15 6)) (BitVec.ofNat 6 (fld n 9 6)))
  else if fld n 0 9 = 23 ∧ fld n 25 6 = 30 then some (.fsinD (BitVec.ofNat 1 (fld n 31 1)) (BitVec.ofNat 4 (fld n 21 4)) (BitVec.ofNat 6 (fld n 15 6)) (BitVec.ofNat 6 (fld n 9 6)))
  else if fld n 0 9 = 24 ∧ fld n 25 6 = 30 then some (.fcosD (BitVec.ofNat 1 (fld n 31 1)) (BitVec.ofNat 4 (fld n 21 4)) (BitVec.ofNat 6 (fld n 15 6)) (BitVec.ofNat 6 (fld n 9 6)))
  else if fld n 0 9 = 25 ∧ fld n 25 6 = 30 then some (.frndD (BitVec.ofNat 1 (fld n 31 1)) (BitVec.ofNat 4 (fld n 21 4)) (BitVec.ofNat 6 (fld n 15 6)) (BitVec.ofNat 6 (fld n 9 6)))
  else if fld n 0 9 = 26 ∧ fld n 25 6 = 30 then some (.fclassD (BitVec.ofNat 1 (fld n 31 1)) (BitVec.ofNat 4 (fld n 21 4)) (BitVec.ofNat 6 (fld n 15 6)) (BitVec.ofNat 6 (fld n 9 6)))
  else none

/-- The rows of major 0x1F. -/
noncomputable def decodeMajor1F (n : Nat) : Option Instr :=
  if fld n 6 3 = 0 ∧ fld n 25 6 = 31 then some (.fcvtFloat (BitVec.ofNat 1 (fld n 31 1)) (BitVec.ofNat 4 (fld n 21 4)) (BitVec.ofNat 6 (fld n 15 6)) (BitVec.ofNat 6 (fld n 9 6)) (BitVec.ofNat 3 (fld n 3 3)) (BitVec.ofNat 3 (fld n 0 3)))
  else if fld n 6 3 = 1 ∧ fld n 25 6 = 31 then some (.fcvtToInt (BitVec.ofNat 1 (fld n 31 1)) (BitVec.ofNat 4 (fld n 21 4)) (BitVec.ofNat 6 (fld n 15 6)) (BitVec.ofNat 6 (fld n 9 6)) (BitVec.ofNat 3 (fld n 3 3)) (BitVec.ofNat 3 (fld n 0 3)))
  else if fld n 6 3 = 2 ∧ fld n 25 6 = 31 then some (.fcvtFromInt (BitVec.ofNat 1 (fld n 31 1)) (BitVec.ofNat 4 (fld n 21 4)) (BitVec.ofNat 6 (fld n 15 6)) (BitVec.ofNat 6 (fld n 9 6)) (BitVec.ofNat 3 (fld n 3 3)) (BitVec.ofNat 3 (fld n 0 3)))
  else if fld n 6 3 = 4 ∧ fld n 25 6 = 31 then some (.fcvtz (BitVec.ofNat 1 (fld n 31 1)) (BitVec.ofNat 4 (fld n 21 4)) (BitVec.ofNat 6 (fld n 15 6)) (BitVec.ofNat 6 (fld n 9 6)) (BitVec.ofNat 3 (fld n 3 3)) (BitVec.ofNat 3 (fld n 0 3)))
  else if fld n 0 9 = 192 ∧ fld n 25 6 = 31 then some (.fmovGf (BitVec.ofNat 1 (fld n 31 1)) (BitVec.ofNat 4 (fld n 21 4)) (BitVec.ofNat 6 (fld n 15 6)) (BitVec.ofNat 6 (fld n 9 6)))
  else if fld n 0 9 = 193 ∧ fld n 25 6 = 31 then some (.fmovFg (BitVec.ofNat 1 (fld n 31 1)) (BitVec.ofNat 4 (fld n 21 4)) (BitVec.ofNat 6 (fld n 15 6)) (BitVec.ofNat 6 (fld n 9 6)))
  else if fld n 0 9 = 194 ∧ fld n 25 6 = 31 then some (.iptS (BitVec.ofNat 1 (fld n 31 1)) (BitVec.ofNat 4 (fld n 21 4)) (BitVec.ofNat 6 (fld n 15 6)) (BitVec.ofNat 6 (fld n 9 6)))
  else if fld n 0 9 = 195 ∧ fld n 25 6 = 31 then some (.iptD (BitVec.ofNat 1 (fld n 31 1)) (BitVec.ofNat 4 (fld n 21 4)) (BitVec.ofNat 6 (fld n 15 6)) (BitVec.ofNat 6 (fld n 9 6)))
  else if fld n 0 9 = 196 ∧ fld n 25 6 = 31 then some (.iloI (BitVec.ofNat 1 (fld n 31 1)) (BitVec.ofNat 4 (fld n 21 4)) (BitVec.ofNat 6 (fld n 15 6)) (BitVec.ofNat 6 (fld n 9 6)))
  else if fld n 0 9 = 197 ∧ fld n 25 6 = 31 then some (.ihiI (BitVec.ofNat 1 (fld n 31 1)) (BitVec.ofNat 4 (fld n 21 4)) (BitVec.ofNat 6 (fld n 15 6)) (BitVec.ofNat 6 (fld n 9 6)))
  else if fld n 0 9 = 198 ∧ fld n 25 6 = 31 then some (.imidI (BitVec.ofNat 1 (fld n 31 1)) (BitVec.ofNat 4 (fld n 21 4)) (BitVec.ofNat 6 (fld n 15 6)) (BitVec.ofNat 6 (fld n 9 6)))
  else if fld n 0 9 = 199 ∧ fld n 25 6 = 31 then some (.iwidI (BitVec.ofNat 1 (fld n 31 1)) (BitVec.ofNat 4 (fld n 21 4)) (BitVec.ofNat 6 (fld n 15 6)) (BitVec.ofNat 6 (fld n 9 6)))
  else if fld n 0 9 = 200 ∧ fld n 25 6 = 31 then some (.iloJ (BitVec.ofNat 1 (fld n 31 1)) (BitVec.ofNat 4 (fld n 21 4)) (BitVec.ofNat 6 (fld n 15 6)) (BitVec.ofNat 6 (fld n 9 6)))
  else if fld n 0 9 = 201 ∧ fld n 25 6 = 31 then some (.ihiJ (BitVec.ofNat 1 (fld n 31 1)) (BitVec.ofNat 4 (fld n 21 4)) (BitVec.ofNat 6 (fld n 15 6)) (BitVec.ofNat 6 (fld n 9 6)))
  else if fld n 0 9 = 202 ∧ fld n 25 6 = 31 then some (.imidJ (BitVec.ofNat 1 (fld n 31 1)) (BitVec.ofNat 4 (fld n 21 4)) (BitVec.ofNat 6 (fld n 15 6)) (BitVec.ofNat 6 (fld n 9 6)))
  else if fld n 0 9 = 203 ∧ fld n 25 6 = 31 then some (.iwidJ (BitVec.ofNat 1 (fld n 31 1)) (BitVec.ofNat 4 (fld n 21 4)) (BitVec.ofNat 6 (fld n 15 6)) (BitVec.ofNat 6 (fld n 9 6)))
  else none

/-- The rows of major 0x20. -/
noncomputable def decodeMajor20 (n : Nat) : Option Instr :=
  if fld n 12 4 = 0 ∧ fld n 25 6 = 32 then some (.fcmpEqS (BitVec.ofNat 1 (fld n 31 1)) (BitVec.ofNat 4 (fld n 21 4)) (BitVec.ofNat 2 (fld n 19 2)) (BitVec.ofNat 3 (fld n 16 3)) (BitVec.ofNat 6 (fld n 6 6)) (BitVec.ofNat 6 (fld n 0 6)))
  else if fld n 12 4 = 1 ∧ fld n 25 6 = 32 then some (.fcmpNeS (BitVec.ofNat 1 (fld n 31 1)) (BitVec.ofNat 4 (fld n 21 4)) (BitVec.ofNat 2 (fld n 19 2)) (BitVec.ofNat 3 (fld n 16 3)) (BitVec.ofNat 6 (fld n 6 6)) (BitVec.ofNat 6 (fld n 0 6)))
  else if fld n 12 4 = 2 ∧ fld n 25 6 = 32 then some (.fcmpLtS (BitVec.ofNat 1 (fld n 31 1)) (BitVec.ofNat 4 (fld n 21 4)) (BitVec.ofNat 2 (fld n 19 2)) (BitVec.ofNat 3 (fld n 16 3)) (BitVec.ofNat 6 (fld n 6 6)) (BitVec.ofNat 6 (fld n 0 6)))
  else if fld n 12 4 = 3 ∧ fld n 25 6 = 32 then some (.fcmpLeS (BitVec.ofNat 1 (fld n 31 1)) (BitVec.ofNat 4 (fld n 21 4)) (BitVec.ofNat 2 (fld n 19 2)) (BitVec.ofNat 3 (fld n 16 3)) (BitVec.ofNat 6 (fld n 6 6)) (BitVec.ofNat 6 (fld n 0 6)))
  else if fld n 12 4 = 4 ∧ fld n 25 6 = 32 then some (.fcmpGtS (BitVec.ofNat 1 (fld n 31 1)) (BitVec.ofNat 4 (fld n 21 4)) (BitVec.ofNat 2 (fld n 19 2)) (BitVec.ofNat 3 (fld n 16 3)) (BitVec.ofNat 6 (fld n 6 6)) (BitVec.ofNat 6 (fld n 0 6)))
  else if fld n 12 4 = 5 ∧ fld n 25 6 = 32 then some (.fcmpGeS (BitVec.ofNat 1 (fld n 31 1)) (BitVec.ofNat 4 (fld n 21 4)) (BitVec.ofNat 2 (fld n 19 2)) (BitVec.ofNat 3 (fld n 16 3)) (BitVec.ofNat 6 (fld n 6 6)) (BitVec.ofNat 6 (fld n 0 6)))
  else if fld n 12 4 = 6 ∧ fld n 25 6 = 32 then some (.fcmpUnS (BitVec.ofNat 1 (fld n 31 1)) (BitVec.ofNat 4 (fld n 21 4)) (BitVec.ofNat 2 (fld n 19 2)) (BitVec.ofNat 3 (fld n 16 3)) (BitVec.ofNat 6 (fld n 6 6)) (BitVec.ofNat 6 (fld n 0 6)))
  else if fld n 12 4 = 7 ∧ fld n 25 6 = 32 then some (.fcmpOrdS (BitVec.ofNat 1 (fld n 31 1)) (BitVec.ofNat 4 (fld n 21 4)) (BitVec.ofNat 2 (fld n 19 2)) (BitVec.ofNat 3 (fld n 16 3)) (BitVec.ofNat 6 (fld n 6 6)) (BitVec.ofNat 6 (fld n 0 6)))
  else none

/-- The rows of major 0x21. -/
noncomputable def decodeMajor21 (n : Nat) : Option Instr :=
  if fld n 12 4 = 0 ∧ fld n 25 6 = 33 then some (.fcmpEqD (BitVec.ofNat 1 (fld n 31 1)) (BitVec.ofNat 4 (fld n 21 4)) (BitVec.ofNat 2 (fld n 19 2)) (BitVec.ofNat 3 (fld n 16 3)) (BitVec.ofNat 6 (fld n 6 6)) (BitVec.ofNat 6 (fld n 0 6)))
  else if fld n 12 4 = 1 ∧ fld n 25 6 = 33 then some (.fcmpNeD (BitVec.ofNat 1 (fld n 31 1)) (BitVec.ofNat 4 (fld n 21 4)) (BitVec.ofNat 2 (fld n 19 2)) (BitVec.ofNat 3 (fld n 16 3)) (BitVec.ofNat 6 (fld n 6 6)) (BitVec.ofNat 6 (fld n 0 6)))
  else if fld n 12 4 = 2 ∧ fld n 25 6 = 33 then some (.fcmpLtD (BitVec.ofNat 1 (fld n 31 1)) (BitVec.ofNat 4 (fld n 21 4)) (BitVec.ofNat 2 (fld n 19 2)) (BitVec.ofNat 3 (fld n 16 3)) (BitVec.ofNat 6 (fld n 6 6)) (BitVec.ofNat 6 (fld n 0 6)))
  else if fld n 12 4 = 3 ∧ fld n 25 6 = 33 then some (.fcmpLeD (BitVec.ofNat 1 (fld n 31 1)) (BitVec.ofNat 4 (fld n 21 4)) (BitVec.ofNat 2 (fld n 19 2)) (BitVec.ofNat 3 (fld n 16 3)) (BitVec.ofNat 6 (fld n 6 6)) (BitVec.ofNat 6 (fld n 0 6)))
  else if fld n 12 4 = 4 ∧ fld n 25 6 = 33 then some (.fcmpGtD (BitVec.ofNat 1 (fld n 31 1)) (BitVec.ofNat 4 (fld n 21 4)) (BitVec.ofNat 2 (fld n 19 2)) (BitVec.ofNat 3 (fld n 16 3)) (BitVec.ofNat 6 (fld n 6 6)) (BitVec.ofNat 6 (fld n 0 6)))
  else if fld n 12 4 = 5 ∧ fld n 25 6 = 33 then some (.fcmpGeD (BitVec.ofNat 1 (fld n 31 1)) (BitVec.ofNat 4 (fld n 21 4)) (BitVec.ofNat 2 (fld n 19 2)) (BitVec.ofNat 3 (fld n 16 3)) (BitVec.ofNat 6 (fld n 6 6)) (BitVec.ofNat 6 (fld n 0 6)))
  else if fld n 12 4 = 6 ∧ fld n 25 6 = 33 then some (.fcmpUnD (BitVec.ofNat 1 (fld n 31 1)) (BitVec.ofNat 4 (fld n 21 4)) (BitVec.ofNat 2 (fld n 19 2)) (BitVec.ofNat 3 (fld n 16 3)) (BitVec.ofNat 6 (fld n 6 6)) (BitVec.ofNat 6 (fld n 0 6)))
  else if fld n 12 4 = 7 ∧ fld n 25 6 = 33 then some (.fcmpOrdD (BitVec.ofNat 1 (fld n 31 1)) (BitVec.ofNat 4 (fld n 21 4)) (BitVec.ofNat 2 (fld n 19 2)) (BitVec.ofNat 3 (fld n 16 3)) (BitVec.ofNat 6 (fld n 6 6)) (BitVec.ofNat 6 (fld n 0 6)))
  else none

/-- The rows of major 0x22. -/
noncomputable def decodeMajor22 (n : Nat) : Option Instr :=
  if fld n 12 4 = 0 ∧ fld n 25 6 = 34 then some (.fcmpEqI (BitVec.ofNat 1 (fld n 31 1)) (BitVec.ofNat 4 (fld n 21 4)) (BitVec.ofNat 2 (fld n 19 2)) (BitVec.ofNat 3 (fld n 16 3)) (BitVec.ofNat 6 (fld n 6 6)) (BitVec.ofNat 6 (fld n 0 6)))
  else if fld n 12 4 = 1 ∧ fld n 25 6 = 34 then some (.fcmpNeI (BitVec.ofNat 1 (fld n 31 1)) (BitVec.ofNat 4 (fld n 21 4)) (BitVec.ofNat 2 (fld n 19 2)) (BitVec.ofNat 3 (fld n 16 3)) (BitVec.ofNat 6 (fld n 6 6)) (BitVec.ofNat 6 (fld n 0 6)))
  else if fld n 12 4 = 2 ∧ fld n 25 6 = 34 then some (.fcmpLtI (BitVec.ofNat 1 (fld n 31 1)) (BitVec.ofNat 4 (fld n 21 4)) (BitVec.ofNat 2 (fld n 19 2)) (BitVec.ofNat 3 (fld n 16 3)) (BitVec.ofNat 6 (fld n 6 6)) (BitVec.ofNat 6 (fld n 0 6)))
  else if fld n 12 4 = 3 ∧ fld n 25 6 = 34 then some (.fcmpLeI (BitVec.ofNat 1 (fld n 31 1)) (BitVec.ofNat 4 (fld n 21 4)) (BitVec.ofNat 2 (fld n 19 2)) (BitVec.ofNat 3 (fld n 16 3)) (BitVec.ofNat 6 (fld n 6 6)) (BitVec.ofNat 6 (fld n 0 6)))
  else if fld n 12 4 = 4 ∧ fld n 25 6 = 34 then some (.fcmpGtI (BitVec.ofNat 1 (fld n 31 1)) (BitVec.ofNat 4 (fld n 21 4)) (BitVec.ofNat 2 (fld n 19 2)) (BitVec.ofNat 3 (fld n 16 3)) (BitVec.ofNat 6 (fld n 6 6)) (BitVec.ofNat 6 (fld n 0 6)))
  else if fld n 12 4 = 5 ∧ fld n 25 6 = 34 then some (.fcmpGeI (BitVec.ofNat 1 (fld n 31 1)) (BitVec.ofNat 4 (fld n 21 4)) (BitVec.ofNat 2 (fld n 19 2)) (BitVec.ofNat 3 (fld n 16 3)) (BitVec.ofNat 6 (fld n 6 6)) (BitVec.ofNat 6 (fld n 0 6)))
  else if fld n 12 4 = 8 ∧ fld n 25 6 = 34 then some (.fcmpSubI (BitVec.ofNat 1 (fld n 31 1)) (BitVec.ofNat 4 (fld n 21 4)) (BitVec.ofNat 2 (fld n 19 2)) (BitVec.ofNat 3 (fld n 16 3)) (BitVec.ofNat 6 (fld n 6 6)) (BitVec.ofNat 6 (fld n 0 6)))
  else if fld n 12 4 = 9 ∧ fld n 25 6 = 34 then some (.fcmpDisjI (BitVec.ofNat 1 (fld n 31 1)) (BitVec.ofNat 4 (fld n 21 4)) (BitVec.ofNat 2 (fld n 19 2)) (BitVec.ofNat 3 (fld n 16 3)) (BitVec.ofNat 6 (fld n 6 6)) (BitVec.ofNat 6 (fld n 0 6)))
  else if fld n 12 4 = 10 ∧ fld n 25 6 = 34 then some (.fcmpContI (BitVec.ofNat 1 (fld n 31 1)) (BitVec.ofNat 4 (fld n 21 4)) (BitVec.ofNat 2 (fld n 19 2)) (BitVec.ofNat 3 (fld n 16 3)) (BitVec.ofNat 6 (fld n 6 6)) (BitVec.ofNat 6 (fld n 0 6)))
  else if fld n 12 4 = 11 ∧ fld n 25 6 = 34 then some (.fcmpEmptyI (BitVec.ofNat 1 (fld n 31 1)) (BitVec.ofNat 4 (fld n 21 4)) (BitVec.ofNat 2 (fld n 19 2)) (BitVec.ofNat 3 (fld n 16 3)) (BitVec.ofNat 6 (fld n 6 6)) (BitVec.ofNat 6 (fld n 0 6)))
  else none

/-- The rows of major 0x23. -/
noncomputable def decodeMajor23 (n : Nat) : Option Instr :=
  if fld n 12 4 = 0 ∧ fld n 25 6 = 35 then some (.fcmpEqJ (BitVec.ofNat 1 (fld n 31 1)) (BitVec.ofNat 4 (fld n 21 4)) (BitVec.ofNat 2 (fld n 19 2)) (BitVec.ofNat 3 (fld n 16 3)) (BitVec.ofNat 6 (fld n 6 6)) (BitVec.ofNat 6 (fld n 0 6)))
  else if fld n 12 4 = 1 ∧ fld n 25 6 = 35 then some (.fcmpNeJ (BitVec.ofNat 1 (fld n 31 1)) (BitVec.ofNat 4 (fld n 21 4)) (BitVec.ofNat 2 (fld n 19 2)) (BitVec.ofNat 3 (fld n 16 3)) (BitVec.ofNat 6 (fld n 6 6)) (BitVec.ofNat 6 (fld n 0 6)))
  else if fld n 12 4 = 2 ∧ fld n 25 6 = 35 then some (.fcmpLtJ (BitVec.ofNat 1 (fld n 31 1)) (BitVec.ofNat 4 (fld n 21 4)) (BitVec.ofNat 2 (fld n 19 2)) (BitVec.ofNat 3 (fld n 16 3)) (BitVec.ofNat 6 (fld n 6 6)) (BitVec.ofNat 6 (fld n 0 6)))
  else if fld n 12 4 = 3 ∧ fld n 25 6 = 35 then some (.fcmpLeJ (BitVec.ofNat 1 (fld n 31 1)) (BitVec.ofNat 4 (fld n 21 4)) (BitVec.ofNat 2 (fld n 19 2)) (BitVec.ofNat 3 (fld n 16 3)) (BitVec.ofNat 6 (fld n 6 6)) (BitVec.ofNat 6 (fld n 0 6)))
  else if fld n 12 4 = 4 ∧ fld n 25 6 = 35 then some (.fcmpGtJ (BitVec.ofNat 1 (fld n 31 1)) (BitVec.ofNat 4 (fld n 21 4)) (BitVec.ofNat 2 (fld n 19 2)) (BitVec.ofNat 3 (fld n 16 3)) (BitVec.ofNat 6 (fld n 6 6)) (BitVec.ofNat 6 (fld n 0 6)))
  else if fld n 12 4 = 5 ∧ fld n 25 6 = 35 then some (.fcmpGeJ (BitVec.ofNat 1 (fld n 31 1)) (BitVec.ofNat 4 (fld n 21 4)) (BitVec.ofNat 2 (fld n 19 2)) (BitVec.ofNat 3 (fld n 16 3)) (BitVec.ofNat 6 (fld n 6 6)) (BitVec.ofNat 6 (fld n 0 6)))
  else if fld n 12 4 = 8 ∧ fld n 25 6 = 35 then some (.fcmpSubJ (BitVec.ofNat 1 (fld n 31 1)) (BitVec.ofNat 4 (fld n 21 4)) (BitVec.ofNat 2 (fld n 19 2)) (BitVec.ofNat 3 (fld n 16 3)) (BitVec.ofNat 6 (fld n 6 6)) (BitVec.ofNat 6 (fld n 0 6)))
  else if fld n 12 4 = 9 ∧ fld n 25 6 = 35 then some (.fcmpDisjJ (BitVec.ofNat 1 (fld n 31 1)) (BitVec.ofNat 4 (fld n 21 4)) (BitVec.ofNat 2 (fld n 19 2)) (BitVec.ofNat 3 (fld n 16 3)) (BitVec.ofNat 6 (fld n 6 6)) (BitVec.ofNat 6 (fld n 0 6)))
  else if fld n 12 4 = 10 ∧ fld n 25 6 = 35 then some (.fcmpContJ (BitVec.ofNat 1 (fld n 31 1)) (BitVec.ofNat 4 (fld n 21 4)) (BitVec.ofNat 2 (fld n 19 2)) (BitVec.ofNat 3 (fld n 16 3)) (BitVec.ofNat 6 (fld n 6 6)) (BitVec.ofNat 6 (fld n 0 6)))
  else if fld n 12 4 = 11 ∧ fld n 25 6 = 35 then some (.fcmpEmptyJ (BitVec.ofNat 1 (fld n 31 1)) (BitVec.ofNat 4 (fld n 21 4)) (BitVec.ofNat 2 (fld n 19 2)) (BitVec.ofNat 3 (fld n 16 3)) (BitVec.ofNat 6 (fld n 6 6)) (BitVec.ofNat 6 (fld n 0 6)))
  else none

/-- The rows of major 0x24. -/
noncomputable def decodeMajor24 (n : Nat) : Option Instr :=
  if fld n 0 3 = 0 ∧ fld n 25 6 = 36 then some (.imakeS (BitVec.ofNat 1 (fld n 31 1)) (BitVec.ofNat 4 (fld n 21 4)) (BitVec.ofNat 6 (fld n 15 6)) (BitVec.ofNat 6 (fld n 9 6)) (BitVec.ofNat 6 (fld n 3 6)))
  else if fld n 0 3 = 1 ∧ fld n 25 6 = 36 then some (.imakeD (BitVec.ofNat 1 (fld n 31 1)) (BitVec.ofNat 4 (fld n 21 4)) (BitVec.ofNat 6 (fld n 15 6)) (BitVec.ofNat 6 (fld n 9 6)) (BitVec.ofNat 6 (fld n 3 6)))
  else if fld n 0 3 = 2 ∧ fld n 6 3 = 0 ∧ fld n 25 6 = 36 then some (.bisectI (BitVec.ofNat 1 (fld n 31 1)) (BitVec.ofNat 4 (fld n 21 4)) (BitVec.ofNat 6 (fld n 15 6)) (BitVec.ofNat 6 (fld n 9 6)) (BitVec.ofNat 3 (fld n 3 3)))
  else if fld n 0 3 = 3 ∧ fld n 6 3 = 0 ∧ fld n 25 6 = 36 then some (.bisectJ (BitVec.ofNat 1 (fld n 31 1)) (BitVec.ofNat 4 (fld n 21 4)) (BitVec.ofNat 6 (fld n 15 6)) (BitVec.ofNat 6 (fld n 9 6)) (BitVec.ofNat 3 (fld n 3 3)))
  else if fld n 0 3 = 4 ∧ fld n 25 6 = 36 then some (.iinflI (BitVec.ofNat 1 (fld n 31 1)) (BitVec.ofNat 4 (fld n 21 4)) (BitVec.ofNat 6 (fld n 15 6)) (BitVec.ofNat 6 (fld n 9 6)) (BitVec.ofNat 6 (fld n 3 6)))
  else if fld n 0 3 = 5 ∧ fld n 25 6 = 36 then some (.iinflJ (BitVec.ofNat 1 (fld n 31 1)) (BitVec.ofNat 4 (fld n 21 4)) (BitVec.ofNat 6 (fld n 15 6)) (BitVec.ofNat 6 (fld n 9 6)) (BitVec.ofNat 6 (fld n 3 6)))
  else none

/-- The rows of major 0x25. -/
noncomputable def decodeMajor25 (n : Nat) : Option Instr :=
  if fld n 0 3 = 0 ∧ fld n 25 6 = 37 then some (.hadd2 (BitVec.ofNat 1 (fld n 31 1)) (BitVec.ofNat 4 (fld n 21 4)) (BitVec.ofNat 6 (fld n 15 6)) (BitVec.ofNat 6 (fld n 9 6)) (BitVec.ofNat 6 (fld n 3 6)))
  else if fld n 0 3 = 1 ∧ fld n 25 6 = 37 then some (.hmul2 (BitVec.ofNat 1 (fld n 31 1)) (BitVec.ofNat 4 (fld n 21 4)) (BitVec.ofNat 6 (fld n 15 6)) (BitVec.ofNat 6 (fld n 9 6)) (BitVec.ofNat 6 (fld n 3 6)))
  else if fld n 0 3 = 2 ∧ fld n 25 6 = 37 then some (.hfma2 (BitVec.ofNat 1 (fld n 31 1)) (BitVec.ofNat 4 (fld n 21 4)) (BitVec.ofNat 6 (fld n 15 6)) (BitVec.ofNat 6 (fld n 9 6)) (BitVec.ofNat 6 (fld n 3 6)))
  else if fld n 0 3 = 3 ∧ fld n 25 6 = 37 then some (.badd2 (BitVec.ofNat 1 (fld n 31 1)) (BitVec.ofNat 4 (fld n 21 4)) (BitVec.ofNat 6 (fld n 15 6)) (BitVec.ofNat 6 (fld n 9 6)) (BitVec.ofNat 6 (fld n 3 6)))
  else if fld n 0 3 = 4 ∧ fld n 25 6 = 37 then some (.bmul2 (BitVec.ofNat 1 (fld n 31 1)) (BitVec.ofNat 4 (fld n 21 4)) (BitVec.ofNat 6 (fld n 15 6)) (BitVec.ofNat 6 (fld n 9 6)) (BitVec.ofNat 6 (fld n 3 6)))
  else if fld n 0 3 = 5 ∧ fld n 25 6 = 37 then some (.bfma2 (BitVec.ofNat 1 (fld n 31 1)) (BitVec.ofNat 4 (fld n 21 4)) (BitVec.ofNat 6 (fld n 15 6)) (BitVec.ofNat 6 (fld n 9 6)) (BitVec.ofNat 6 (fld n 3 6)))
  else if fld n 0 3 = 6 ∧ fld n 25 6 = 37 then some (.cbdec (BitVec.ofNat 1 (fld n 31 1)) (BitVec.ofNat 4 (fld n 21 4)) (BitVec.ofNat 6 (fld n 15 6)) (BitVec.ofNat 6 (fld n 9 6)) (BitVec.ofNat 6 (fld n 3 6)))
  else if fld n 0 3 = 7 ∧ fld n 25 6 = 37 then some (.mxq (BitVec.ofNat 1 (fld n 31 1)) (BitVec.ofNat 4 (fld n 21 4)) (BitVec.ofNat 6 (fld n 15 6)) (BitVec.ofNat 6 (fld n 9 6)) (BitVec.ofNat 6 (fld n 3 6)))
  else none

/-- The rows of major 0x28. -/
noncomputable def decodeMajor28 (n : Nat) : Option Instr :=
  if fld n 0 3 = 0 ∧ fld n 25 6 = 40 then some (.ldgB (BitVec.ofNat 1 (fld n 31 1)) (BitVec.ofNat 4 (fld n 21 4)) (BitVec.ofNat 6 (fld n 15 6)) (BitVec.ofNat 6 (fld n 9 6)) (BitVec.ofNat 6 (fld n 3 6)))
  else if fld n 0 3 = 1 ∧ fld n 25 6 = 40 then some (.ldgBu (BitVec.ofNat 1 (fld n 31 1)) (BitVec.ofNat 4 (fld n 21 4)) (BitVec.ofNat 6 (fld n 15 6)) (BitVec.ofNat 6 (fld n 9 6)) (BitVec.ofNat 6 (fld n 3 6)))
  else if fld n 0 3 = 2 ∧ fld n 25 6 = 40 then some (.ldgH (BitVec.ofNat 1 (fld n 31 1)) (BitVec.ofNat 4 (fld n 21 4)) (BitVec.ofNat 6 (fld n 15 6)) (BitVec.ofNat 6 (fld n 9 6)) (BitVec.ofNat 6 (fld n 3 6)))
  else if fld n 0 3 = 3 ∧ fld n 25 6 = 40 then some (.ldgHu (BitVec.ofNat 1 (fld n 31 1)) (BitVec.ofNat 4 (fld n 21 4)) (BitVec.ofNat 6 (fld n 15 6)) (BitVec.ofNat 6 (fld n 9 6)) (BitVec.ofNat 6 (fld n 3 6)))
  else if fld n 0 3 = 4 ∧ fld n 25 6 = 40 then some (.ldgW (BitVec.ofNat 1 (fld n 31 1)) (BitVec.ofNat 4 (fld n 21 4)) (BitVec.ofNat 6 (fld n 15 6)) (BitVec.ofNat 6 (fld n 9 6)) (BitVec.ofNat 6 (fld n 3 6)))
  else if fld n 0 3 = 5 ∧ fld n 25 6 = 40 then some (.ldgWu (BitVec.ofNat 1 (fld n 31 1)) (BitVec.ofNat 4 (fld n 21 4)) (BitVec.ofNat 6 (fld n 15 6)) (BitVec.ofNat 6 (fld n 9 6)) (BitVec.ofNat 6 (fld n 3 6)))
  else if fld n 0 3 = 6 ∧ fld n 25 6 = 40 then some (.ldgD (BitVec.ofNat 1 (fld n 31 1)) (BitVec.ofNat 4 (fld n 21 4)) (BitVec.ofNat 6 (fld n 15 6)) (BitVec.ofNat 6 (fld n 9 6)) (BitVec.ofNat 6 (fld n 3 6)))
  else if fld n 0 3 = 7 ∧ fld n 25 6 = 40 then some (.ldgQ (BitVec.ofNat 1 (fld n 31 1)) (BitVec.ofNat 4 (fld n 21 4)) (BitVec.ofNat 6 (fld n 15 6)) (BitVec.ofNat 6 (fld n 9 6)) (BitVec.ofNat 6 (fld n 3 6)))
  else none

/-- The rows of major 0x29. -/
noncomputable def decodeMajor29 (n : Nat) : Option Instr :=
  if fld n 0 3 = 0 ∧ fld n 25 6 = 41 then some (.stgB (BitVec.ofNat 1 (fld n 31 1)) (BitVec.ofNat 4 (fld n 21 4)) (BitVec.ofNat 6 (fld n 15 6)) (BitVec.ofNat 6 (fld n 9 6)) (BitVec.ofNat 6 (fld n 3 6)))
  else if fld n 0 3 = 1 ∧ fld n 25 6 = 41 then some (.stgH (BitVec.ofNat 1 (fld n 31 1)) (BitVec.ofNat 4 (fld n 21 4)) (BitVec.ofNat 6 (fld n 15 6)) (BitVec.ofNat 6 (fld n 9 6)) (BitVec.ofNat 6 (fld n 3 6)))
  else if fld n 0 3 = 2 ∧ fld n 25 6 = 41 then some (.stgW (BitVec.ofNat 1 (fld n 31 1)) (BitVec.ofNat 4 (fld n 21 4)) (BitVec.ofNat 6 (fld n 15 6)) (BitVec.ofNat 6 (fld n 9 6)) (BitVec.ofNat 6 (fld n 3 6)))
  else if fld n 0 3 = 3 ∧ fld n 25 6 = 41 then some (.stgD (BitVec.ofNat 1 (fld n 31 1)) (BitVec.ofNat 4 (fld n 21 4)) (BitVec.ofNat 6 (fld n 15 6)) (BitVec.ofNat 6 (fld n 9 6)) (BitVec.ofNat 6 (fld n 3 6)))
  else if fld n 0 3 = 4 ∧ fld n 25 6 = 41 then some (.stgQ (BitVec.ofNat 1 (fld n 31 1)) (BitVec.ofNat 4 (fld n 21 4)) (BitVec.ofNat 6 (fld n 15 6)) (BitVec.ofNat 6 (fld n 9 6)) (BitVec.ofNat 6 (fld n 3 6)))
  else if fld n 0 3 = 5 ∧ fld n 25 6 = 41 then some (.stref (BitVec.ofNat 1 (fld n 31 1)) (BitVec.ofNat 4 (fld n 21 4)) (BitVec.ofNat 6 (fld n 15 6)) (BitVec.ofNat 6 (fld n 9 6)) (BitVec.ofNat 6 (fld n 3 6)))
  else if fld n 0 3 = 6 ∧ fld n 25 6 = 41 then some (.sthdr (BitVec.ofNat 1 (fld n 31 1)) (BitVec.ofNat 4 (fld n 21 4)) (BitVec.ofNat 6 (fld n 15 6)) (BitVec.ofNat 6 (fld n 9 6)) (BitVec.ofNat 6 (fld n 3 6)))
  else none

/-- The rows of major 0x2A. -/
noncomputable def decodeMajor2A (n : Nat) : Option Instr :=
  if fld n 0 3 = 0 ∧ fld n 25 6 = 42 then some (.ldsB (BitVec.ofNat 1 (fld n 31 1)) (BitVec.ofNat 4 (fld n 21 4)) (BitVec.ofNat 6 (fld n 15 6)) (BitVec.ofNat 6 (fld n 9 6)) (BitVec.ofNat 6 (fld n 3 6)))
  else if fld n 0 3 = 1 ∧ fld n 25 6 = 42 then some (.ldsBu (BitVec.ofNat 1 (fld n 31 1)) (BitVec.ofNat 4 (fld n 21 4)) (BitVec.ofNat 6 (fld n 15 6)) (BitVec.ofNat 6 (fld n 9 6)) (BitVec.ofNat 6 (fld n 3 6)))
  else if fld n 0 3 = 2 ∧ fld n 25 6 = 42 then some (.ldsH (BitVec.ofNat 1 (fld n 31 1)) (BitVec.ofNat 4 (fld n 21 4)) (BitVec.ofNat 6 (fld n 15 6)) (BitVec.ofNat 6 (fld n 9 6)) (BitVec.ofNat 6 (fld n 3 6)))
  else if fld n 0 3 = 3 ∧ fld n 25 6 = 42 then some (.ldsHu (BitVec.ofNat 1 (fld n 31 1)) (BitVec.ofNat 4 (fld n 21 4)) (BitVec.ofNat 6 (fld n 15 6)) (BitVec.ofNat 6 (fld n 9 6)) (BitVec.ofNat 6 (fld n 3 6)))
  else if fld n 0 3 = 4 ∧ fld n 25 6 = 42 then some (.ldsW (BitVec.ofNat 1 (fld n 31 1)) (BitVec.ofNat 4 (fld n 21 4)) (BitVec.ofNat 6 (fld n 15 6)) (BitVec.ofNat 6 (fld n 9 6)) (BitVec.ofNat 6 (fld n 3 6)))
  else if fld n 0 3 = 5 ∧ fld n 25 6 = 42 then some (.ldsWu (BitVec.ofNat 1 (fld n 31 1)) (BitVec.ofNat 4 (fld n 21 4)) (BitVec.ofNat 6 (fld n 15 6)) (BitVec.ofNat 6 (fld n 9 6)) (BitVec.ofNat 6 (fld n 3 6)))
  else if fld n 0 3 = 6 ∧ fld n 25 6 = 42 then some (.ldsD (BitVec.ofNat 1 (fld n 31 1)) (BitVec.ofNat 4 (fld n 21 4)) (BitVec.ofNat 6 (fld n 15 6)) (BitVec.ofNat 6 (fld n 9 6)) (BitVec.ofNat 6 (fld n 3 6)))
  else if fld n 0 3 = 7 ∧ fld n 25 6 = 42 then some (.ldsQ (BitVec.ofNat 1 (fld n 31 1)) (BitVec.ofNat 4 (fld n 21 4)) (BitVec.ofNat 6 (fld n 15 6)) (BitVec.ofNat 6 (fld n 9 6)) (BitVec.ofNat 6 (fld n 3 6)))
  else none

/-- The rows of major 0x2B. -/
noncomputable def decodeMajor2B (n : Nat) : Option Instr :=
  if fld n 0 3 = 0 ∧ fld n 25 6 = 43 then some (.stsB (BitVec.ofNat 1 (fld n 31 1)) (BitVec.ofNat 4 (fld n 21 4)) (BitVec.ofNat 6 (fld n 15 6)) (BitVec.ofNat 6 (fld n 9 6)) (BitVec.ofNat 6 (fld n 3 6)))
  else if fld n 0 3 = 1 ∧ fld n 25 6 = 43 then some (.stsH (BitVec.ofNat 1 (fld n 31 1)) (BitVec.ofNat 4 (fld n 21 4)) (BitVec.ofNat 6 (fld n 15 6)) (BitVec.ofNat 6 (fld n 9 6)) (BitVec.ofNat 6 (fld n 3 6)))
  else if fld n 0 3 = 2 ∧ fld n 25 6 = 43 then some (.stsW (BitVec.ofNat 1 (fld n 31 1)) (BitVec.ofNat 4 (fld n 21 4)) (BitVec.ofNat 6 (fld n 15 6)) (BitVec.ofNat 6 (fld n 9 6)) (BitVec.ofNat 6 (fld n 3 6)))
  else if fld n 0 3 = 3 ∧ fld n 25 6 = 43 then some (.stsD (BitVec.ofNat 1 (fld n 31 1)) (BitVec.ofNat 4 (fld n 21 4)) (BitVec.ofNat 6 (fld n 15 6)) (BitVec.ofNat 6 (fld n 9 6)) (BitVec.ofNat 6 (fld n 3 6)))
  else if fld n 0 3 = 4 ∧ fld n 25 6 = 43 then some (.stsQ (BitVec.ofNat 1 (fld n 31 1)) (BitVec.ofNat 4 (fld n 21 4)) (BitVec.ofNat 6 (fld n 15 6)) (BitVec.ofNat 6 (fld n 9 6)) (BitVec.ofNat 6 (fld n 3 6)))
  else none

/-- The rows of major 0x2C. -/
noncomputable def decodeMajor2C (n : Nat) : Option Instr :=
  if fld n 0 3 = 0 ∧ fld n 25 6 = 44 then some (.ldfGS (BitVec.ofNat 1 (fld n 31 1)) (BitVec.ofNat 4 (fld n 21 4)) (BitVec.ofNat 6 (fld n 15 6)) (BitVec.ofNat 6 (fld n 9 6)) (BitVec.ofNat 6 (fld n 3 6)))
  else if fld n 0 3 = 1 ∧ fld n 25 6 = 44 then some (.ldfGD (BitVec.ofNat 1 (fld n 31 1)) (BitVec.ofNat 4 (fld n 21 4)) (BitVec.ofNat 6 (fld n 15 6)) (BitVec.ofNat 6 (fld n 9 6)) (BitVec.ofNat 6 (fld n 3 6)))
  else if fld n 0 3 = 2 ∧ fld n 25 6 = 44 then some (.ldfGI (BitVec.ofNat 1 (fld n 31 1)) (BitVec.ofNat 4 (fld n 21 4)) (BitVec.ofNat 6 (fld n 15 6)) (BitVec.ofNat 6 (fld n 9 6)) (BitVec.ofNat 6 (fld n 3 6)))
  else if fld n 0 3 = 3 ∧ fld n 25 6 = 44 then some (.ldfGJ (BitVec.ofNat 1 (fld n 31 1)) (BitVec.ofNat 4 (fld n 21 4)) (BitVec.ofNat 6 (fld n 15 6)) (BitVec.ofNat 6 (fld n 9 6)) (BitVec.ofNat 6 (fld n 3 6)))
  else if fld n 0 3 = 4 ∧ fld n 25 6 = 44 then some (.ldfLS (BitVec.ofNat 1 (fld n 31 1)) (BitVec.ofNat 4 (fld n 21 4)) (BitVec.ofNat 6 (fld n 15 6)) (BitVec.ofNat 6 (fld n 9 6)) (BitVec.ofNat 6 (fld n 3 6)))
  else if fld n 0 3 = 5 ∧ fld n 25 6 = 44 then some (.ldfLD (BitVec.ofNat 1 (fld n 31 1)) (BitVec.ofNat 4 (fld n 21 4)) (BitVec.ofNat 6 (fld n 15 6)) (BitVec.ofNat 6 (fld n 9 6)) (BitVec.ofNat 6 (fld n 3 6)))
  else if fld n 0 3 = 6 ∧ fld n 25 6 = 44 then some (.ldfLI (BitVec.ofNat 1 (fld n 31 1)) (BitVec.ofNat 4 (fld n 21 4)) (BitVec.ofNat 6 (fld n 15 6)) (BitVec.ofNat 6 (fld n 9 6)) (BitVec.ofNat 6 (fld n 3 6)))
  else if fld n 0 3 = 7 ∧ fld n 25 6 = 44 then some (.ldfLJ (BitVec.ofNat 1 (fld n 31 1)) (BitVec.ofNat 4 (fld n 21 4)) (BitVec.ofNat 6 (fld n 15 6)) (BitVec.ofNat 6 (fld n 9 6)) (BitVec.ofNat 6 (fld n 3 6)))
  else none

/-- The rows of major 0x2D. -/
noncomputable def decodeMajor2D (n : Nat) : Option Instr :=
  if fld n 0 3 = 0 ∧ fld n 25 6 = 45 then some (.stfGS (BitVec.ofNat 1 (fld n 31 1)) (BitVec.ofNat 4 (fld n 21 4)) (BitVec.ofNat 6 (fld n 15 6)) (BitVec.ofNat 6 (fld n 9 6)) (BitVec.ofNat 6 (fld n 3 6)))
  else if fld n 0 3 = 1 ∧ fld n 25 6 = 45 then some (.stfGD (BitVec.ofNat 1 (fld n 31 1)) (BitVec.ofNat 4 (fld n 21 4)) (BitVec.ofNat 6 (fld n 15 6)) (BitVec.ofNat 6 (fld n 9 6)) (BitVec.ofNat 6 (fld n 3 6)))
  else if fld n 0 3 = 2 ∧ fld n 25 6 = 45 then some (.stfGI (BitVec.ofNat 1 (fld n 31 1)) (BitVec.ofNat 4 (fld n 21 4)) (BitVec.ofNat 6 (fld n 15 6)) (BitVec.ofNat 6 (fld n 9 6)) (BitVec.ofNat 6 (fld n 3 6)))
  else if fld n 0 3 = 3 ∧ fld n 25 6 = 45 then some (.stfGJ (BitVec.ofNat 1 (fld n 31 1)) (BitVec.ofNat 4 (fld n 21 4)) (BitVec.ofNat 6 (fld n 15 6)) (BitVec.ofNat 6 (fld n 9 6)) (BitVec.ofNat 6 (fld n 3 6)))
  else if fld n 0 3 = 4 ∧ fld n 25 6 = 45 then some (.stfLS (BitVec.ofNat 1 (fld n 31 1)) (BitVec.ofNat 4 (fld n 21 4)) (BitVec.ofNat 6 (fld n 15 6)) (BitVec.ofNat 6 (fld n 9 6)) (BitVec.ofNat 6 (fld n 3 6)))
  else if fld n 0 3 = 5 ∧ fld n 25 6 = 45 then some (.stfLD (BitVec.ofNat 1 (fld n 31 1)) (BitVec.ofNat 4 (fld n 21 4)) (BitVec.ofNat 6 (fld n 15 6)) (BitVec.ofNat 6 (fld n 9 6)) (BitVec.ofNat 6 (fld n 3 6)))
  else if fld n 0 3 = 6 ∧ fld n 25 6 = 45 then some (.stfLI (BitVec.ofNat 1 (fld n 31 1)) (BitVec.ofNat 4 (fld n 21 4)) (BitVec.ofNat 6 (fld n 15 6)) (BitVec.ofNat 6 (fld n 9 6)) (BitVec.ofNat 6 (fld n 3 6)))
  else if fld n 0 3 = 7 ∧ fld n 25 6 = 45 then some (.stfLJ (BitVec.ofNat 1 (fld n 31 1)) (BitVec.ofNat 4 (fld n 21 4)) (BitVec.ofNat 6 (fld n 15 6)) (BitVec.ofNat 6 (fld n 9 6)) (BitVec.ofNat 6 (fld n 3 6)))
  else none

/-- The rows of major 0x2E. -/
noncomputable def decodeMajor2E (n : Nat) : Option Instr :=
  if fld n 0 3 = 0 ∧ fld n 25 6 = 46 then some (.amogAddW (BitVec.ofNat 1 (fld n 31 1)) (BitVec.ofNat 4 (fld n 21 4)) (BitVec.ofNat 6 (fld n 15 6)) (BitVec.ofNat 6 (fld n 9 6)) (BitVec.ofNat 6 (fld n 3 6)))
  else if fld n 0 3 = 1 ∧ fld n 25 6 = 46 then some (.amogAddD (BitVec.ofNat 1 (fld n 31 1)) (BitVec.ofNat 4 (fld n 21 4)) (BitVec.ofNat 6 (fld n 15 6)) (BitVec.ofNat 6 (fld n 9 6)) (BitVec.ofNat 6 (fld n 3 6)))
  else if fld n 0 3 = 2 ∧ fld n 25 6 = 46 then some (.amogMaxW (BitVec.ofNat 1 (fld n 31 1)) (BitVec.ofNat 4 (fld n 21 4)) (BitVec.ofNat 6 (fld n 15 6)) (BitVec.ofNat 6 (fld n 9 6)) (BitVec.ofNat 6 (fld n 3 6)))
  else if fld n 0 3 = 3 ∧ fld n 25 6 = 46 then some (.amogMinW (BitVec.ofNat 1 (fld n 31 1)) (BitVec.ofNat 4 (fld n 21 4)) (BitVec.ofNat 6 (fld n 15 6)) (BitVec.ofNat 6 (fld n 9 6)) (BitVec.ofNat 6 (fld n 3 6)))
  else if fld n 0 3 = 4 ∧ fld n 25 6 = 46 then some (.amogSwapW (BitVec.ofNat 1 (fld n 31 1)) (BitVec.ofNat 4 (fld n 21 4)) (BitVec.ofNat 6 (fld n 15 6)) (BitVec.ofNat 6 (fld n 9 6)) (BitVec.ofNat 6 (fld n 3 6)))
  else if fld n 0 3 = 5 ∧ fld n 25 6 = 46 then some (.amogSwapD (BitVec.ofNat 1 (fld n 31 1)) (BitVec.ofNat 4 (fld n 21 4)) (BitVec.ofNat 6 (fld n 15 6)) (BitVec.ofNat 6 (fld n 9 6)) (BitVec.ofNat 6 (fld n 3 6)))
  else if fld n 0 3 = 6 ∧ fld n 25 6 = 46 then some (.amogCasW (BitVec.ofNat 1 (fld n 31 1)) (BitVec.ofNat 4 (fld n 21 4)) (BitVec.ofNat 6 (fld n 15 6)) (BitVec.ofNat 6 (fld n 9 6)) (BitVec.ofNat 6 (fld n 3 6)))
  else if fld n 0 3 = 7 ∧ fld n 25 6 = 46 then some (.amogCasD (BitVec.ofNat 1 (fld n 31 1)) (BitVec.ofNat 4 (fld n 21 4)) (BitVec.ofNat 6 (fld n 15 6)) (BitVec.ofNat 6 (fld n 9 6)) (BitVec.ofNat 6 (fld n 3 6)))
  else none

/-- The rows of major 0x2F. -/
noncomputable def decodeMajor2F (n : Nat) : Option Instr :=
  if fld n 0 3 = 0 ∧ fld n 25 6 = 47 then some (.amog2AndD (BitVec.ofNat 1 (fld n 31 1)) (BitVec.ofNat 4 (fld n 21 4)) (BitVec.ofNat 6 (fld n 15 6)) (BitVec.ofNat 6 (fld n 9 6)) (BitVec.ofNat 6 (fld n 3 6)))
  else if fld n 0 3 = 1 ∧ fld n 25 6 = 47 then some (.amog2OrD (BitVec.ofNat 1 (fld n 31 1)) (BitVec.ofNat 4 (fld n 21 4)) (BitVec.ofNat 6 (fld n 15 6)) (BitVec.ofNat 6 (fld n 9 6)) (BitVec.ofNat 6 (fld n 3 6)))
  else if fld n 0 3 = 2 ∧ fld n 25 6 = 47 then some (.amog2XorD (BitVec.ofNat 1 (fld n 31 1)) (BitVec.ofNat 4 (fld n 21 4)) (BitVec.ofNat 6 (fld n 15 6)) (BitVec.ofNat 6 (fld n 9 6)) (BitVec.ofNat 6 (fld n 3 6)))
  else if fld n 0 3 = 3 ∧ fld n 25 6 = 47 then some (.amog2MaxuD (BitVec.ofNat 1 (fld n 31 1)) (BitVec.ofNat 4 (fld n 21 4)) (BitVec.ofNat 6 (fld n 15 6)) (BitVec.ofNat 6 (fld n 9 6)) (BitVec.ofNat 6 (fld n 3 6)))
  else if fld n 0 3 = 4 ∧ fld n 25 6 = 47 then some (.amog2MinuD (BitVec.ofNat 1 (fld n 31 1)) (BitVec.ofNat 4 (fld n 21 4)) (BitVec.ofNat 6 (fld n 15 6)) (BitVec.ofNat 6 (fld n 9 6)) (BitVec.ofNat 6 (fld n 3 6)))
  else if fld n 0 3 = 5 ∧ fld n 25 6 = 47 then some (.amog2AndW (BitVec.ofNat 1 (fld n 31 1)) (BitVec.ofNat 4 (fld n 21 4)) (BitVec.ofNat 6 (fld n 15 6)) (BitVec.ofNat 6 (fld n 9 6)) (BitVec.ofNat 6 (fld n 3 6)))
  else if fld n 0 3 = 6 ∧ fld n 25 6 = 47 then some (.amog2OrW (BitVec.ofNat 1 (fld n 31 1)) (BitVec.ofNat 4 (fld n 21 4)) (BitVec.ofNat 6 (fld n 15 6)) (BitVec.ofNat 6 (fld n 9 6)) (BitVec.ofNat 6 (fld n 3 6)))
  else if fld n 0 3 = 7 ∧ fld n 25 6 = 47 then some (.amog2XorW (BitVec.ofNat 1 (fld n 31 1)) (BitVec.ofNat 4 (fld n 21 4)) (BitVec.ofNat 6 (fld n 15 6)) (BitVec.ofNat 6 (fld n 9 6)) (BitVec.ofNat 6 (fld n 3 6)))
  else none

/-- The rows of major 0x30. -/
noncomputable def decodeMajor30 (n : Nat) : Option Instr :=
  if fld n 0 3 = 0 ∧ fld n 25 6 = 48 then some (.amogscAddW (BitVec.ofNat 1 (fld n 31 1)) (BitVec.ofNat 4 (fld n 21 4)) (BitVec.ofNat 6 (fld n 15 6)) (BitVec.ofNat 6 (fld n 9 6)) (BitVec.ofNat 6 (fld n 3 6)))
  else if fld n 0 3 = 1 ∧ fld n 25 6 = 48 then some (.amogscAddD (BitVec.ofNat 1 (fld n 31 1)) (BitVec.ofNat 4 (fld n 21 4)) (BitVec.ofNat 6 (fld n 15 6)) (BitVec.ofNat 6 (fld n 9 6)) (BitVec.ofNat 6 (fld n 3 6)))
  else if fld n 0 3 = 2 ∧ fld n 25 6 = 48 then some (.amogscMaxW (BitVec.ofNat 1 (fld n 31 1)) (BitVec.ofNat 4 (fld n 21 4)) (BitVec.ofNat 6 (fld n 15 6)) (BitVec.ofNat 6 (fld n 9 6)) (BitVec.ofNat 6 (fld n 3 6)))
  else if fld n 0 3 = 3 ∧ fld n 25 6 = 48 then some (.amogscMinW (BitVec.ofNat 1 (fld n 31 1)) (BitVec.ofNat 4 (fld n 21 4)) (BitVec.ofNat 6 (fld n 15 6)) (BitVec.ofNat 6 (fld n 9 6)) (BitVec.ofNat 6 (fld n 3 6)))
  else if fld n 0 3 = 4 ∧ fld n 25 6 = 48 then some (.amogscSwapW (BitVec.ofNat 1 (fld n 31 1)) (BitVec.ofNat 4 (fld n 21 4)) (BitVec.ofNat 6 (fld n 15 6)) (BitVec.ofNat 6 (fld n 9 6)) (BitVec.ofNat 6 (fld n 3 6)))
  else if fld n 0 3 = 5 ∧ fld n 25 6 = 48 then some (.amogscSwapD (BitVec.ofNat 1 (fld n 31 1)) (BitVec.ofNat 4 (fld n 21 4)) (BitVec.ofNat 6 (fld n 15 6)) (BitVec.ofNat 6 (fld n 9 6)) (BitVec.ofNat 6 (fld n 3 6)))
  else if fld n 0 3 = 6 ∧ fld n 25 6 = 48 then some (.amogscCasW (BitVec.ofNat 1 (fld n 31 1)) (BitVec.ofNat 4 (fld n 21 4)) (BitVec.ofNat 6 (fld n 15 6)) (BitVec.ofNat 6 (fld n 9 6)) (BitVec.ofNat 6 (fld n 3 6)))
  else if fld n 0 3 = 7 ∧ fld n 25 6 = 48 then some (.amogscCasD (BitVec.ofNat 1 (fld n 31 1)) (BitVec.ofNat 4 (fld n 21 4)) (BitVec.ofNat 6 (fld n 15 6)) (BitVec.ofNat 6 (fld n 9 6)) (BitVec.ofNat 6 (fld n 3 6)))
  else none

/-- The rows of major 0x31. -/
noncomputable def decodeMajor31 (n : Nat) : Option Instr :=
  if fld n 0 3 = 0 ∧ fld n 25 6 = 49 then some (.amosAddW (BitVec.ofNat 1 (fld n 31 1)) (BitVec.ofNat 4 (fld n 21 4)) (BitVec.ofNat 6 (fld n 15 6)) (BitVec.ofNat 6 (fld n 9 6)) (BitVec.ofNat 6 (fld n 3 6)))
  else if fld n 0 3 = 1 ∧ fld n 25 6 = 49 then some (.amosAddD (BitVec.ofNat 1 (fld n 31 1)) (BitVec.ofNat 4 (fld n 21 4)) (BitVec.ofNat 6 (fld n 15 6)) (BitVec.ofNat 6 (fld n 9 6)) (BitVec.ofNat 6 (fld n 3 6)))
  else if fld n 0 3 = 2 ∧ fld n 25 6 = 49 then some (.amosMaxW (BitVec.ofNat 1 (fld n 31 1)) (BitVec.ofNat 4 (fld n 21 4)) (BitVec.ofNat 6 (fld n 15 6)) (BitVec.ofNat 6 (fld n 9 6)) (BitVec.ofNat 6 (fld n 3 6)))
  else if fld n 0 3 = 3 ∧ fld n 25 6 = 49 then some (.amosMinW (BitVec.ofNat 1 (fld n 31 1)) (BitVec.ofNat 4 (fld n 21 4)) (BitVec.ofNat 6 (fld n 15 6)) (BitVec.ofNat 6 (fld n 9 6)) (BitVec.ofNat 6 (fld n 3 6)))
  else if fld n 0 3 = 4 ∧ fld n 25 6 = 49 then some (.amosSwapW (BitVec.ofNat 1 (fld n 31 1)) (BitVec.ofNat 4 (fld n 21 4)) (BitVec.ofNat 6 (fld n 15 6)) (BitVec.ofNat 6 (fld n 9 6)) (BitVec.ofNat 6 (fld n 3 6)))
  else if fld n 0 3 = 5 ∧ fld n 25 6 = 49 then some (.amosSwapD (BitVec.ofNat 1 (fld n 31 1)) (BitVec.ofNat 4 (fld n 21 4)) (BitVec.ofNat 6 (fld n 15 6)) (BitVec.ofNat 6 (fld n 9 6)) (BitVec.ofNat 6 (fld n 3 6)))
  else if fld n 0 3 = 6 ∧ fld n 25 6 = 49 then some (.amosCasW (BitVec.ofNat 1 (fld n 31 1)) (BitVec.ofNat 4 (fld n 21 4)) (BitVec.ofNat 6 (fld n 15 6)) (BitVec.ofNat 6 (fld n 9 6)) (BitVec.ofNat 6 (fld n 3 6)))
  else if fld n 0 3 = 7 ∧ fld n 25 6 = 49 then some (.amosCasD (BitVec.ofNat 1 (fld n 31 1)) (BitVec.ofNat 4 (fld n 21 4)) (BitVec.ofNat 6 (fld n 15 6)) (BitVec.ofNat 6 (fld n 9 6)) (BitVec.ofNat 6 (fld n 3 6)))
  else none

/-- The rows of major 0x32. -/
noncomputable def decodeMajor32 (n : Nat) : Option Instr :=
  if fld n 0 6 = 0 ∧ fld n 25 6 = 50 then some (.fence (BitVec.ofNat 1 (fld n 31 1)) (BitVec.ofNat 4 (fld n 21 4)) (BitVec.ofNat 6 (fld n 15 6)) (BitVec.ofNat 6 (fld n 9 6)) (BitVec.ofNat 3 (fld n 6 3)))
  else none

/-- The rows of major 0x33. -/
noncomputable def decodeMajor33 (n : Nat) : Option Instr :=
  if fld n 0 3 = 0 ∧ fld n 15 6 = 0 ∧ fld n 25 6 = 51 then some (.pfl (BitVec.ofNat 1 (fld n 31 1)) (BitVec.ofNat 4 (fld n 21 4)) (BitVec.ofNat 6 (fld n 9 6)) (BitVec.ofNat 6 (fld n 3 6)))
  else if fld n 0 3 = 1 ∧ fld n 25 6 = 51 then some (.pfr (BitVec.ofNat 1 (fld n 31 1)) (BitVec.ofNat 4 (fld n 21 4)) (BitVec.ofNat 6 (fld n 15 6)) (BitVec.ofNat 6 (fld n 9 6)) (BitVec.ofNat 6 (fld n 3 6)))
  else if fld n 0 3 = 2 ∧ fld n 15 6 = 0 ∧ fld n 25 6 = 51 then some (.wbl1 (BitVec.ofNat 1 (fld n 31 1)) (BitVec.ofNat 4 (fld n 21 4)) (BitVec.ofNat 6 (fld n 9 6)) (BitVec.ofNat 6 (fld n 3 6)))
  else if fld n 0 3 = 3 ∧ fld n 15 6 = 0 ∧ fld n 25 6 = 51 then some (.invl1 (BitVec.ofNat 1 (fld n 31 1)) (BitVec.ofNat 4 (fld n 21 4)) (BitVec.ofNat 6 (fld n 9 6)) (BitVec.ofNat 6 (fld n 3 6)))
  else if fld n 0 3 = 4 ∧ fld n 25 6 = 51 then some (.acqr (BitVec.ofNat 1 (fld n 31 1)) (BitVec.ofNat 4 (fld n 21 4)) (BitVec.ofNat 6 (fld n 15 6)) (BitVec.ofNat 6 (fld n 9 6)) (BitVec.ofNat 6 (fld n 3 6)))
  else none

/-- The rows of major 0x34. -/
noncomputable def decodeMajor34 (n : Nat) : Option Instr :=
  if fld n 0 3 = 0 ∧ fld n 25 6 = 52 then some (.pub (BitVec.ofNat 1 (fld n 31 1)) (BitVec.ofNat 4 (fld n 21 4)) (BitVec.ofNat 6 (fld n 15 6)) (BitVec.ofNat 6 (fld n 9 6)) (BitVec.ofNat 6 (fld n 3 6)))
  else if fld n 0 3 = 1 ∧ fld n 25 6 = 52 then some (.tagof (BitVec.ofNat 1 (fld n 31 1)) (BitVec.ofNat 4 (fld n 21 4)) (BitVec.ofNat 6 (fld n 15 6)) (BitVec.ofNat 6 (fld n 9 6)) (BitVec.ofNat 6 (fld n 3 6)))
  else if fld n 0 3 = 2 ∧ fld n 25 6 = 52 then some (.scopeof (BitVec.ofNat 1 (fld n 31 1)) (BitVec.ofNat 4 (fld n 21 4)) (BitVec.ofNat 6 (fld n 15 6)) (BitVec.ofNat 6 (fld n 9 6)) (BitVec.ofNat 6 (fld n 3 6)))
  else if fld n 0 3 = 3 ∧ fld n 25 6 = 52 then some (.colr (BitVec.ofNat 1 (fld n 31 1)) (BitVec.ofNat 4 (fld n 21 4)) (BitVec.ofNat 6 (fld n 15 6)) (BitVec.ofNat 6 (fld n 9 6)) (BitVec.ofNat 6 (fld n 3 6)))
  else if fld n 0 3 = 4 ∧ fld n 25 6 = 52 then some (.colof (BitVec.ofNat 1 (fld n 31 1)) (BitVec.ofNat 4 (fld n 21 4)) (BitVec.ofNat 6 (fld n 15 6)) (BitVec.ofNat 6 (fld n 9 6)) (BitVec.ofNat 6 (fld n 3 6)))
  else none

/-- The rows of major 0x35. -/
noncomputable def decodeMajor35 (n : Nat) : Option Instr :=
  if fld n 0 9 = 0 ∧ fld n 15 6 = 0 ∧ fld n 25 6 = 53 then some (.cwait (BitVec.ofNat 1 (fld n 31 1)) (BitVec.ofNat 4 (fld n 21 4)) (BitVec.ofNat 6 (fld n 9 6)))
  else if fld n 0 9 = 1 ∧ fld n 15 6 = 0 ∧ fld n 25 6 = 53 then some (.cnotify (BitVec.ofNat 1 (fld n 31 1)) (BitVec.ofNat 4 (fld n 21 4)) (BitVec.ofNat 6 (fld n 9 6)))
  else if fld n 0 9 = 2 ∧ fld n 15 6 = 0 ∧ fld n 25 6 = 53 then some (.cnotifyall (BitVec.ofNat 1 (fld n 31 1)) (BitVec.ofNat 4 (fld n 21 4)) (BitVec.ofNat 6 (fld n 9 6)))
  else if fld n 0 9 = 3 ∧ fld n 25 6 = 53 then some (.cheld (BitVec.ofNat 1 (fld n 31 1)) (BitVec.ofNat 4 (fld n 21 4)) (BitVec.ofNat 6 (fld n 15 6)) (BitVec.ofNat 6 (fld n 9 6)))
  else none

/-- The rows of major 0x36. -/
noncomputable def decodeMajor36 (n : Nat) : Option Instr :=
  if fld n 0 3 = 0 ∧ fld n 25 6 = 54 then some (.copy (BitVec.ofNat 1 (fld n 31 1)) (BitVec.ofNat 4 (fld n 21 4)) (BitVec.ofNat 6 (fld n 15 6)) (BitVec.ofNat 6 (fld n 9 6)) (BitVec.ofNat 6 (fld n 3 6)))
  else if fld n 0 3 = 1 ∧ fld n 25 6 = 54 then some (.copym (BitVec.ofNat 1 (fld n 31 1)) (BitVec.ofNat 4 (fld n 21 4)) (BitVec.ofNat 6 (fld n 15 6)) (BitVec.ofNat 6 (fld n 9 6)) (BitVec.ofNat 6 (fld n 3 6)))
  else if fld n 0 3 = 2 ∧ fld n 25 6 = 54 then some (.copyb (BitVec.ofNat 1 (fld n 31 1)) (BitVec.ofNat 4 (fld n 21 4)) (BitVec.ofNat 6 (fld n 15 6)) (BitVec.ofNat 6 (fld n 9 6)) (BitVec.ofNat 6 (fld n 3 6)))
  else if fld n 0 3 = 3 ∧ fld n 25 6 = 54 then some (.gather (BitVec.ofNat 1 (fld n 31 1)) (BitVec.ofNat 4 (fld n 21 4)) (BitVec.ofNat 6 (fld n 15 6)) (BitVec.ofNat 6 (fld n 9 6)) (BitVec.ofNat 6 (fld n 3 6)))
  else none

/-- The rows of major 0x37. -/
noncomputable def decodeMajor37 (n : Nat) : Option Instr :=
  if fld n 0 9 = 0 ∧ fld n 15 6 = 0 ∧ fld n 25 6 = 55 then some (.twaitall (BitVec.ofNat 1 (fld n 31 1)) (BitVec.ofNat 4 (fld n 21 4)) (BitVec.ofNat 6 (fld n 9 6)))
  else if fld n 0 9 = 1 ∧ fld n 15 6 = 0 ∧ fld n 25 6 = 55 then some (.twaitany (BitVec.ofNat 1 (fld n 31 1)) (BitVec.ofNat 4 (fld n 21 4)) (BitVec.ofNat 6 (fld n 9 6)))
  else if fld n 0 9 = 2 ∧ fld n 25 6 = 55 then some (.tfirst (BitVec.ofNat 1 (fld n 31 1)) (BitVec.ofNat 4 (fld n 21 4)) (BitVec.ofNat 6 (fld n 15 6)) (BitVec.ofNat 6 (fld n 9 6)))
  else if fld n 0 9 = 3 ∧ fld n 15 6 = 0 ∧ fld n 25 6 = 55 then some (.tclr (BitVec.ofNat 1 (fld n 31 1)) (BitVec.ofNat 4 (fld n 21 4)) (BitVec.ofNat 6 (fld n 9 6)))
  else none

/-- The rows of major 0x38. -/
noncomputable def decodeMajor38 (n : Nat) : Option Instr :=
  if fld n 0 3 = 0 ∧ fld n 25 6 = 56 then some (.tdef (BitVec.ofNat 1 (fld n 31 1)) (BitVec.ofNat 4 (fld n 21 4)) (BitVec.ofNat 6 (fld n 15 6)) (BitVec.ofNat 6 (fld n 9 6)) (BitVec.ofNat 6 (fld n 3 6)))
  else if fld n 0 3 = 1 ∧ fld n 25 6 = 56 then some (.trd (BitVec.ofNat 1 (fld n 31 1)) (BitVec.ofNat 4 (fld n 21 4)) (BitVec.ofNat 6 (fld n 15 6)) (BitVec.ofNat 6 (fld n 9 6)) (BitVec.ofNat 6 (fld n 3 6)))
  else if fld n 0 9 = 2 ∧ fld n 15 6 = 0 ∧ fld n 25 6 = 56 then some (.sign (BitVec.ofNat 1 (fld n 31 1)) (BitVec.ofNat 4 (fld n 21 4)) (BitVec.ofNat 6 (fld n 9 6)))
  else if fld n 0 9 = 3 ∧ fld n 25 6 = 56 then some (.mldb (BitVec.ofNat 1 (fld n 31 1)) (BitVec.ofNat 4 (fld n 21 4)) (BitVec.ofNat 6 (fld n 15 6)) (BitVec.ofNat 6 (fld n 9 6)))
  else if fld n 0 3 = 4 ∧ fld n 25 6 = 56 then some (.mmq (BitVec.ofNat 1 (fld n 31 1)) (BitVec.ofNat 4 (fld n 21 4)) (BitVec.ofNat 6 (fld n 15 6)) (BitVec.ofNat 6 (fld n 9 6)) (BitVec.ofNat 6 (fld n 3 6)))
  else if fld n 0 15 = 5 ∧ fld n 25 6 = 56 then some (.mcommit (BitVec.ofNat 1 (fld n 31 1)) (BitVec.ofNat 4 (fld n 21 4)) (BitVec.ofNat 6 (fld n 15 6)))
  else if fld n 0 15 = 6 ∧ fld n 25 6 = 56 then some (.mwait (BitVec.ofNat 1 (fld n 31 1)) (BitVec.ofNat 4 (fld n 21 4)) (BitVec.ofNat 6 (fld n 15 6)))
  else if fld n 0 3 = 7 ∧ fld n 15 6 = 0 ∧ fld n 25 6 = 56 then some (.cvset (BitVec.ofNat 1 (fld n 31 1)) (BitVec.ofNat 4 (fld n 21 4)) (BitVec.ofNat 6 (fld n 9 6)) (BitVec.ofNat 6 (fld n 3 6)))
  else none

/-- The rows of major 0x39. -/
noncomputable def decodeMajor39 (n : Nat) : Option Instr :=
  if fld n 0 3 = 0 ∧ fld n 15 6 = 0 ∧ fld n 25 6 = 57 then some (.mzero (BitVec.ofNat 1 (fld n 31 1)) (BitVec.ofNat 4 (fld n 21 4)) (BitVec.ofNat 6 (fld n 9 6)) (BitVec.ofNat 6 (fld n 3 6)))
  else if fld n 0 3 = 1 ∧ fld n 25 6 = 57 then some (.mrd (BitVec.ofNat 1 (fld n 31 1)) (BitVec.ofNat 4 (fld n 21 4)) (BitVec.ofNat 6 (fld n 15 6)) (BitVec.ofNat 6 (fld n 9 6)) (BitVec.ofNat 6 (fld n 3 6)))
  else if fld n 0 3 = 2 ∧ fld n 25 6 = 57 then some (.mwr (BitVec.ofNat 1 (fld n 31 1)) (BitVec.ofNat 4 (fld n 21 4)) (BitVec.ofNat 6 (fld n 15 6)) (BitVec.ofNat 6 (fld n 9 6)) (BitVec.ofNat 6 (fld n 3 6)))
  else if fld n 0 3 = 3 ∧ fld n 25 6 = 57 then some (.stpl (BitVec.ofNat 1 (fld n 31 1)) (BitVec.ofNat 4 (fld n 21 4)) (BitVec.ofNat 6 (fld n 15 6)) (BitVec.ofNat 6 (fld n 9 6)) (BitVec.ofNat 6 (fld n 3 6)))
  else if fld n 0 3 = 4 ∧ fld n 25 6 = 57 then some (.mxst (BitVec.ofNat 1 (fld n 31 1)) (BitVec.ofNat 4 (fld n 21 4)) (BitVec.ofNat 6 (fld n 15 6)) (BitVec.ofNat 6 (fld n 9 6)) (BitVec.ofNat 6 (fld n 3 6)))
  else none

/-- The rows of major 0x3A. -/
noncomputable def decodeMajor3A (n : Nat) : Option Instr :=
  if fld n 0 3 = 0 ∧ fld n 15 6 = 0 ∧ fld n 25 6 = 58 then some (.binit (BitVec.ofNat 1 (fld n 31 1)) (BitVec.ofNat 4 (fld n 21 4)) (BitVec.ofNat 6 (fld n 9 6)) (BitVec.ofNat 6 (fld n 3 6)))
  else if fld n 0 3 = 1 ∧ fld n 15 6 = 0 ∧ fld n 25 6 = 58 then some (.arrive (BitVec.ofNat 1 (fld n 31 1)) (BitVec.ofNat 4 (fld n 21 4)) (BitVec.ofNat 6 (fld n 9 6)) (BitVec.ofNat 6 (fld n 3 6)))
  else if fld n 0 3 = 2 ∧ fld n 15 6 = 0 ∧ fld n 25 6 = 58 then some (.bwait (BitVec.ofNat 1 (fld n 31 1)) (BitVec.ofNat 4 (fld n 21 4)) (BitVec.ofNat 6 (fld n 9 6)) (BitVec.ofNat 6 (fld n 3 6)))
  else if fld n 0 3 = 3 ∧ fld n 15 6 = 0 ∧ fld n 25 6 = 58 then some (.arrivew (BitVec.ofNat 1 (fld n 31 1)) (BitVec.ofNat 4 (fld n 21 4)) (BitVec.ofNat 6 (fld n 9 6)) (BitVec.ofNat 6 (fld n 3 6)))
  else if fld n 0 3 = 4 ∧ fld n 9 12 = 0 ∧ fld n 25 6 = 58 then some (.nbar (BitVec.ofNat 1 (fld n 31 1)) (BitVec.ofNat 4 (fld n 21 4)) (BitVec.ofNat 6 (fld n 3 6)))
  else if fld n 0 9 = 5 ∧ fld n 15 6 = 0 ∧ fld n 25 6 = 58 then some (.binval (BitVec.ofNat 1 (fld n 31 1)) (BitVec.ofNat 4 (fld n 21 4)) (BitVec.ofNat 6 (fld n 9 6)))
  else none

/-- The rows of major 0x3B. -/
noncomputable def decodeMajor3B (n : Nat) : Option Instr :=
  if fld n 0 15 = 0 ∧ fld n 25 6 = 59 then some (.tqpush (BitVec.ofNat 1 (fld n 31 1)) (BitVec.ofNat 4 (fld n 21 4)) (BitVec.ofNat 6 (fld n 15 6)))
  else if fld n 0 15 = 1 ∧ fld n 25 6 = 59 then some (.tqpop (BitVec.ofNat 1 (fld n 31 1)) (BitVec.ofNat 4 (fld n 21 4)) (BitVec.ofNat 6 (fld n 15 6)))
  else if fld n 0 3 = 2 ∧ fld n 25 6 = 59 then some (.amsend (BitVec.ofNat 1 (fld n 31 1)) (BitVec.ofNat 4 (fld n 21 4)) (BitVec.ofNat 6 (fld n 15 6)) (BitVec.ofNat 6 (fld n 9 6)) (BitVec.ofNat 6 (fld n 3 6)))
  else if fld n 0 3 = 3 ∧ fld n 25 6 = 59 then some (.launch (BitVec.ofNat 1 (fld n 31 1)) (BitVec.ofNat 4 (fld n 21 4)) (BitVec.ofNat 6 (fld n 15 6)) (BitVec.ofNat 6 (fld n 9 6)) (BitVec.ofNat 6 (fld n 3 6)))
  else none

/-- The rows of major 0x3C. -/
noncomputable def decodeMajor3C (n : Nat) : Option Instr :=
  if fld n 0 9 = 0 ∧ fld n 15 6 = 0 ∧ fld n 25 6 = 60 then some (.trap (BitVec.ofNat 1 (fld n 31 1)) (BitVec.ofNat 4 (fld n 21 4)) (BitVec.ofNat 6 (fld n 9 6)))
  else if fld n 0 21 = 1 ∧ fld n 25 6 = 60 then some (.rft (BitVec.ofNat 1 (fld n 31 1)) (BitVec.ofNat 4 (fld n 21 4)))
  else if fld n 0 9 = 2 ∧ fld n 25 6 = 60 then some (.rdtr (BitVec.ofNat 1 (fld n 31 1)) (BitVec.ofNat 4 (fld n 21 4)) (BitVec.ofNat 6 (fld n 15 6)) (BitVec.ofNat 6 (fld n 9 6)))
  else if fld n 0 9 = 3 ∧ fld n 15 6 = 0 ∧ fld n 25 6 = 60 then some (.syscall (BitVec.ofNat 1 (fld n 31 1)) (BitVec.ofNat 4 (fld n 21 4)) (BitVec.ofNat 6 (fld n 9 6)))
  else if fld n 0 21 = 4 ∧ fld n 25 6 = 60 then some (.dflush (BitVec.ofNat 1 (fld n 31 1)) (BitVec.ofNat 4 (fld n 21 4)))
  else if fld n 0 15 = 5 ∧ fld n 25 6 = 60 then some (.rdfpc (BitVec.ofNat 1 (fld n 31 1)) (BitVec.ofNat 4 (fld n 21 4)) (BitVec.ofNat 6 (fld n 15 6)))
  else if fld n 0 9 = 6 ∧ fld n 15 6 = 0 ∧ fld n 25 6 = 60 then some (.wrfpc (BitVec.ofNat 1 (fld n 31 1)) (BitVec.ofNat 4 (fld n 21 4)) (BitVec.ofNat 6 (fld n 9 6)))
  else if fld n 0 15 = 7 ∧ fld n 25 6 = 60 then some (.rdhash (BitVec.ofNat 1 (fld n 31 1)) (BitVec.ofNat 4 (fld n 21 4)) (BitVec.ofNat 6 (fld n 15 6)))
  else none

/-- The rows of major 0x3F. -/
noncomputable def decodeMajor3F (n : Nat) : Option Instr :=
  if fld n 3 1 = 0 ∧ fld n 25 7 = 63 then some (.clauseStart (BitVec.ofNat 12 (fld n 13 12)) (BitVec.ofNat 4 (fld n 9 4)) (BitVec.ofNat 4 (fld n 5 4)) (BitVec.ofNat 1 (fld n 4 1)) (BitVec.ofNat 3 (fld n 0 3)))
  else none

/-- The extension words of Kiln (R374). -/
noncomputable def decodeKiln (n : Nat) : Option Instr :=
  if fld n 0 7 = 11 ∧ fld n 12 3 = 0 ∧ fld n 25 7 = 0 then some (.krfet (BitVec.ofNat 5 (fld n 20 5)) (BitVec.ofNat 5 (fld n 15 5)) (BitVec.ofNat 5 (fld n 7 5)))
  else if fld n 0 7 = 11 ∧ fld n 12 3 = 1 ∧ fld n 25 7 = 0 then some (.kbfx (BitVec.ofNat 5 (fld n 20 5)) (BitVec.ofNat 5 (fld n 15 5)) (BitVec.ofNat 5 (fld n 7 5)))
  else if fld n 0 7 = 11 ∧ fld n 12 3 = 2 ∧ fld n 20 12 = 0 then some (.kswait (BitVec.ofNat 5 (fld n 15 5)) (BitVec.ofNat 5 (fld n 7 5)))
  else if fld n 0 7 = 11 ∧ fld n 12 3 = 3 ∧ fld n 25 7 = 0 then some (.kdisp (BitVec.ofNat 5 (fld n 20 5)) (BitVec.ofNat 5 (fld n 15 5)) (BitVec.ofNat 5 (fld n 7 5)))
  else none

/-- The row a word's number belongs to (R85, R86, R88), before its operands are judged. -/
noncomputable def decodeRow (n : Nat) : Option Instr :=
  match fld n 25 6 with
  | 0 => (decodeMajor00 n).orElse fun _ => decodeKiln n
  | 1 => decodeMajor01 n
  | 2 => decodeMajor02 n
  | 3 => decodeMajor03 n
  | 4 => decodeMajor04 n
  | 5 => decodeMajor05 n
  | 6 => decodeMajor06 n
  | 7 => decodeMajor07 n
  | 8 => decodeMajor08 n
  | 9 => decodeMajor09 n
  | 10 => decodeMajor0A n
  | 11 => decodeMajor0B n
  | 12 => decodeMajor0C n
  | 13 => decodeMajor0D n
  | 14 => decodeMajor0E n
  | 15 => decodeMajor0F n
  | 16 => decodeMajor10 n
  | 17 => decodeMajor11 n
  | 18 => decodeMajor12 n
  | 19 => decodeMajor13 n
  | 20 => decodeMajor14 n
  | 21 => decodeMajor15 n
  | 24 => decodeMajor18 n
  | 25 => decodeMajor19 n
  | 26 => decodeMajor1A n
  | 27 => decodeMajor1B n
  | 28 => decodeMajor1C n
  | 29 => decodeMajor1D n
  | 30 => decodeMajor1E n
  | 31 => decodeMajor1F n
  | 32 => decodeMajor20 n
  | 33 => decodeMajor21 n
  | 34 => decodeMajor22 n
  | 35 => decodeMajor23 n
  | 36 => decodeMajor24 n
  | 37 => decodeMajor25 n
  | 40 => decodeMajor28 n
  | 41 => decodeMajor29 n
  | 42 => decodeMajor2A n
  | 43 => decodeMajor2B n
  | 44 => decodeMajor2C n
  | 45 => decodeMajor2D n
  | 46 => decodeMajor2E n
  | 47 => decodeMajor2F n
  | 48 => decodeMajor30 n
  | 49 => decodeMajor31 n
  | 50 => decodeMajor32 n
  | 51 => decodeMajor33 n
  | 52 => decodeMajor34 n
  | 53 => decodeMajor35 n
  | 54 => decodeMajor36 n
  | 55 => decodeMajor37 n
  | 56 => decodeMajor38 n
  | 57 => decodeMajor39 n
  | 58 => decodeMajor3A n
  | 59 => decodeMajor3B n
  | 60 => decodeMajor3C n
  | 63 => decodeMajor3F n
  | _ => none

/-- The reserved majors (R85, R86, R88, R89). -/
def reservedMajor (n : Nat) : Bool :=
  let m := fld n 25 6
  m == 0x16 || m == 0x17 || m == 0x26 || m == 0x27 || m == 0x3D || m == 0x3E

/-- The decoder: total, refusing by name. A Kiln word may have any major, so it is looked for before the majors are refused. -/
noncomputable def decode (w : Word32) : Except Reject Instr :=
  let n := w.toNat
  match (decodeKiln n).orElse fun _ => decodeRow n with
  | none => if reservedMajor n then .error .reservedMajor else .error .reservedFunction
  | some i => if i.wf then .ok i else .error .badOperand

/-- A word with fields at bits 13, 9, 5, 4, 0. -/
def layW13w12A9w4B5w4Y4w1L0w3 (base : Nat) (w : BitVec 12) (a : BitVec 4) (b : BitVec 4) (y : BitVec 1) (l : BitVec 3) : Nat :=
  base + w.toNat * 2 ^ 13 + a.toNat * 2 ^ 9 + b.toNat * 2 ^ 5 + y.toNat * 2 ^ 4 + l.toNat

/-- A word with fields at bits 31, 21. -/
def layC31w1G21w4 (base : Nat) (c : BitVec 1) (g : BitVec 4) : Nat :=
  base + c.toNat * 2 ^ 31 + g.toNat * 2 ^ 21

/-- A word with fields at bits 31, 21, 15. -/
def layC31w1G21w4D15w6 (base : Nat) (c : BitVec 1) (g : BitVec 4) (d : BitVec 6) : Nat :=
  base + c.toNat * 2 ^ 31 + g.toNat * 2 ^ 21 + d.toNat * 2 ^ 15

/-- A word with fields at bits 21, 0. -/
def layG21w4I0w19 (base : Nat) (g : BitVec 4) (i : BitVec 19) : Nat :=
  base + g.toNat * 2 ^ 21 + i.toNat

/-- A word with fields at bits 0. -/
def layI0w25 (base : Nat) (i : BitVec 25) : Nat :=
  base + i.toNat

/-- A word with fields at bits 21, 9. -/
def layG21w4A9w6 (base : Nat) (g : BitVec 4) (a : BitVec 6) : Nat :=
  base + g.toNat * 2 ^ 21 + a.toNat * 2 ^ 9

/-- A word with fields at bits 21. -/
def layG21w4 (base : Nat) (g : BitVec 4) : Nat :=
  base + g.toNat * 2 ^ 21

/-- A word with fields at bits 31, 21, 15, 9, 3. -/
def layC31w1G21w4D15w6A9w6B3w6 (base : Nat) (c : BitVec 1) (g : BitVec 4) (d : BitVec 6) (a : BitVec 6) (b : BitVec 6) : Nat :=
  base + c.toNat * 2 ^ 31 + g.toNat * 2 ^ 21 + d.toNat * 2 ^ 15 + a.toNat * 2 ^ 9 + b.toNat * 2 ^ 3

/-- A word with fields at bits 31, 21, 15, 9, 0. -/
def layC31w1G21w4D15w6A9w6I0w9 (base : Nat) (c : BitVec 1) (g : BitVec 4) (d : BitVec 6) (a : BitVec 6) (i : BitVec 9) : Nat :=
  base + c.toNat * 2 ^ 31 + g.toNat * 2 ^ 21 + d.toNat * 2 ^ 15 + a.toNat * 2 ^ 9 + i.toNat

/-- A word with fields at bits 31, 21, 15, 9, 0. -/
def layC31w1G21w4D15w6A9w6I0w5 (base : Nat) (c : BitVec 1) (g : BitVec 4) (d : BitVec 6) (a : BitVec 6) (i : BitVec 5) : Nat :=
  base + c.toNat * 2 ^ 31 + g.toNat * 2 ^ 21 + d.toNat * 2 ^ 15 + a.toNat * 2 ^ 9 + i.toNat

/-- A word with fields at bits 31, 21, 15, 9, 0. -/
def layC31w1G21w4D15w6A9w6I0w6 (base : Nat) (c : BitVec 1) (g : BitVec 4) (d : BitVec 6) (a : BitVec 6) (i : BitVec 6) : Nat :=
  base + c.toNat * 2 ^ 31 + g.toNat * 2 ^ 21 + d.toNat * 2 ^ 15 + a.toNat * 2 ^ 9 + i.toNat

/-- A word with fields at bits 31, 21, 15, 0. -/
def layC31w1G21w4D15w6I0w15 (base : Nat) (c : BitVec 1) (g : BitVec 4) (d : BitVec 6) (i : BitVec 15) : Nat :=
  base + c.toNat * 2 ^ 31 + g.toNat * 2 ^ 21 + d.toNat * 2 ^ 15 + i.toNat

/-- A word with fields at bits 31, 21, 15, 9. -/
def layC31w1G21w4D15w6A9w6 (base : Nat) (c : BitVec 1) (g : BitVec 4) (d : BitVec 6) (a : BitVec 6) : Nat :=
  base + c.toNat * 2 ^ 31 + g.toNat * 2 ^ 21 + d.toNat * 2 ^ 15 + a.toNat * 2 ^ 9

/-- A word with fields at bits 31, 21, 15, 9. -/
def layC31w1G21w4D15w6K9w6 (base : Nat) (c : BitVec 1) (g : BitVec 4) (d : BitVec 6) (k : BitVec 6) : Nat :=
  base + c.toNat * 2 ^ 31 + g.toNat * 2 ^ 21 + d.toNat * 2 ^ 15 + k.toNat * 2 ^ 9

/-- A word with fields at bits 31, 21, 15, 9. -/
def layC31w1G21w4D15w6S9w6 (base : Nat) (c : BitVec 1) (g : BitVec 4) (d : BitVec 6) (s : BitVec 6) : Nat :=
  base + c.toNat * 2 ^ 31 + g.toNat * 2 ^ 21 + d.toNat * 2 ^ 15 + s.toNat * 2 ^ 9

/-- A word with fields at bits 31, 21, 15, 9. -/
def layC31w1G21w4S15w6A9w6 (base : Nat) (c : BitVec 1) (g : BitVec 4) (s : BitVec 6) (a : BitVec 6) : Nat :=
  base + c.toNat * 2 ^ 31 + g.toNat * 2 ^ 21 + s.toNat * 2 ^ 15 + a.toNat * 2 ^ 9

/-- A word with fields at bits 31, 21, 19, 16, 6, 0. -/
def layC31w1G21w4P19w2T16w3A6w6B0w6 (base : Nat) (c : BitVec 1) (g : BitVec 4) (p : BitVec 2) (t : BitVec 3) (a : BitVec 6) (b : BitVec 6) : Nat :=
  base + c.toNat * 2 ^ 31 + g.toNat * 2 ^ 21 + p.toNat * 2 ^ 19 + t.toNat * 2 ^ 16 + a.toNat * 2 ^ 6 + b.toNat

/-- A word with fields at bits 31, 21, 18, 15, 12. -/
def layC31w1G21w4D18w3A15w3B12w3 (base : Nat) (c : BitVec 1) (g : BitVec 4) (d : BitVec 3) (a : BitVec 3) (b : BitVec 3) : Nat :=
  base + c.toNat * 2 ^ 31 + g.toNat * 2 ^ 21 + d.toNat * 2 ^ 18 + a.toNat * 2 ^ 15 + b.toNat * 2 ^ 12

/-- A word with fields at bits 31, 21, 18, 15. -/
def layC31w1G21w4D18w3A15w3 (base : Nat) (c : BitVec 1) (g : BitVec 4) (d : BitVec 3) (a : BitVec 3) : Nat :=
  base + c.toNat * 2 ^ 31 + g.toNat * 2 ^ 21 + d.toNat * 2 ^ 18 + a.toNat * 2 ^ 15

/-- A word with fields at bits 31, 21, 18, 15. -/
def layC31w1G21w4D18w3V15w3 (base : Nat) (c : BitVec 1) (g : BitVec 4) (d : BitVec 3) (v : BitVec 3) : Nat :=
  base + c.toNat * 2 ^ 31 + g.toNat * 2 ^ 21 + d.toNat * 2 ^ 18 + v.toNat * 2 ^ 15

/-- A word with fields at bits 31, 21, 15, 9, 3, 0. -/
def layC31w1G21w4D15w6A9w6B3w6K0w3 (base : Nat) (c : BitVec 1) (g : BitVec 4) (d : BitVec 6) (a : BitVec 6) (b : BitVec 6) (k : BitVec 3) : Nat :=
  base + c.toNat * 2 ^ 31 + g.toNat * 2 ^ 21 + d.toNat * 2 ^ 15 + a.toNat * 2 ^ 9 + b.toNat * 2 ^ 3 + k.toNat

/-- A word with fields at bits 31, 21, 15, 9, 3, 0. -/
def layC31w1G21w4D15w6A9w6X3w3Y0w3 (base : Nat) (c : BitVec 1) (g : BitVec 4) (d : BitVec 6) (a : BitVec 6) (x : BitVec 3) (y : BitVec 3) : Nat :=
  base + c.toNat * 2 ^ 31 + g.toNat * 2 ^ 21 + d.toNat * 2 ^ 15 + a.toNat * 2 ^ 9 + x.toNat * 2 ^ 3 + y.toNat

/-- A word with fields at bits 31, 21, 15, 9, 3. -/
def layC31w1G21w4D15w6A9w6K3w3 (base : Nat) (c : BitVec 1) (g : BitVec 4) (d : BitVec 6) (a : BitVec 6) (k : BitVec 3) : Nat :=
  base + c.toNat * 2 ^ 31 + g.toNat * 2 ^ 21 + d.toNat * 2 ^ 15 + a.toNat * 2 ^ 9 + k.toNat * 2 ^ 3

/-- A word with fields at bits 31, 21, 15, 9, 3. -/
def layC31w1G21w4D15w6B9w6P3w6 (base : Nat) (c : BitVec 1) (g : BitVec 4) (d : BitVec 6) (b : BitVec 6) (p : BitVec 6) : Nat :=
  base + c.toNat * 2 ^ 31 + g.toNat * 2 ^ 21 + d.toNat * 2 ^ 15 + b.toNat * 2 ^ 9 + p.toNat * 2 ^ 3

/-- A word with fields at bits 31, 21, 15, 9, 3. -/
def layC31w1G21w4D15w6B9w6I3w6 (base : Nat) (c : BitVec 1) (g : BitVec 4) (d : BitVec 6) (b : BitVec 6) (i : BitVec 6) : Nat :=
  base + c.toNat * 2 ^ 31 + g.toNat * 2 ^ 21 + d.toNat * 2 ^ 15 + b.toNat * 2 ^ 9 + i.toNat * 2 ^ 3

/-- A word with fields at bits 31, 21, 15, 9, 3. -/
def layC31w1G21w4D15w6B9w6V3w6 (base : Nat) (c : BitVec 1) (g : BitVec 4) (d : BitVec 6) (b : BitVec 6) (v : BitVec 6) : Nat :=
  base + c.toNat * 2 ^ 31 + g.toNat * 2 ^ 21 + d.toNat * 2 ^ 15 + b.toNat * 2 ^ 9 + v.toNat * 2 ^ 3

/-- A word with fields at bits 31, 21, 15, 9, 6. -/
def layC31w1G21w4P15w6S9w6K6w3 (base : Nat) (c : BitVec 1) (g : BitVec 4) (p : BitVec 6) (s : BitVec 6) (k : BitVec 3) : Nat :=
  base + c.toNat * 2 ^ 31 + g.toNat * 2 ^ 21 + p.toNat * 2 ^ 15 + s.toNat * 2 ^ 9 + k.toNat * 2 ^ 6

/-- A word with fields at bits 31, 21, 9, 3. -/
def layC31w1G21w4B9w6P3w6 (base : Nat) (c : BitVec 1) (g : BitVec 4) (b : BitVec 6) (p : BitVec 6) : Nat :=
  base + c.toNat * 2 ^ 31 + g.toNat * 2 ^ 21 + b.toNat * 2 ^ 9 + p.toNat * 2 ^ 3

/-- A word with fields at bits 31, 21, 15, 9, 3. -/
def layC31w1G21w4T15w6B9w6L3w6 (base : Nat) (c : BitVec 1) (g : BitVec 4) (t : BitVec 6) (b : BitVec 6) (l : BitVec 6) : Nat :=
  base + c.toNat * 2 ^ 31 + g.toNat * 2 ^ 21 + t.toNat * 2 ^ 15 + b.toNat * 2 ^ 9 + l.toNat * 2 ^ 3

/-- A word with fields at bits 31, 21, 9, 3. -/
def layC31w1G21w4B9w6L3w6 (base : Nat) (c : BitVec 1) (g : BitVec 4) (b : BitVec 6) (l : BitVec 6) : Nat :=
  base + c.toNat * 2 ^ 31 + g.toNat * 2 ^ 21 + b.toNat * 2 ^ 9 + l.toNat * 2 ^ 3

/-- A word with fields at bits 31, 21, 15, 9, 3. -/
def layC31w1G21w4D15w6B9w6L3w6 (base : Nat) (c : BitVec 1) (g : BitVec 4) (d : BitVec 6) (b : BitVec 6) (l : BitVec 6) : Nat :=
  base + c.toNat * 2 ^ 31 + g.toNat * 2 ^ 21 + d.toNat * 2 ^ 15 + b.toNat * 2 ^ 9 + l.toNat * 2 ^ 3

/-- A word with fields at bits 31, 21, 15, 9, 3. -/
def layC31w1G21w4D15w6B9w6S3w6 (base : Nat) (c : BitVec 1) (g : BitVec 4) (d : BitVec 6) (b : BitVec 6) (s : BitVec 6) : Nat :=
  base + c.toNat * 2 ^ 31 + g.toNat * 2 ^ 21 + d.toNat * 2 ^ 15 + b.toNat * 2 ^ 9 + s.toNat * 2 ^ 3

/-- A word with fields at bits 31, 21, 9. -/
def layC31w1G21w4B9w6 (base : Nat) (c : BitVec 1) (g : BitVec 4) (b : BitVec 6) : Nat :=
  base + c.toNat * 2 ^ 31 + g.toNat * 2 ^ 21 + b.toNat * 2 ^ 9

/-- A word with fields at bits 31, 21, 15, 9. -/
def layC31w1G21w4D15w6B9w6 (base : Nat) (c : BitVec 1) (g : BitVec 4) (d : BitVec 6) (b : BitVec 6) : Nat :=
  base + c.toNat * 2 ^ 31 + g.toNat * 2 ^ 21 + d.toNat * 2 ^ 15 + b.toNat * 2 ^ 9

/-- A word with fields at bits 31, 21, 15, 9, 3. -/
def layC31w1G21w4D15w6S9w6P3w6 (base : Nat) (c : BitVec 1) (g : BitVec 4) (d : BitVec 6) (s : BitVec 6) (p : BitVec 6) : Nat :=
  base + c.toNat * 2 ^ 31 + g.toNat * 2 ^ 21 + d.toNat * 2 ^ 15 + s.toNat * 2 ^ 9 + p.toNat * 2 ^ 3

/-- A word with fields at bits 31, 21, 15, 9, 3. -/
def layC31w1G21w4D15w6X9w6P3w6 (base : Nat) (c : BitVec 1) (g : BitVec 4) (d : BitVec 6) (x : BitVec 6) (p : BitVec 6) : Nat :=
  base + c.toNat * 2 ^ 31 + g.toNat * 2 ^ 21 + d.toNat * 2 ^ 15 + x.toNat * 2 ^ 9 + p.toNat * 2 ^ 3

/-- A word with fields at bits 31, 21, 15, 9, 3. -/
def layC31w1G21w4D15w6T9w6I3w6 (base : Nat) (c : BitVec 1) (g : BitVec 4) (d : BitVec 6) (t : BitVec 6) (i : BitVec 6) : Nat :=
  base + c.toNat * 2 ^ 31 + g.toNat * 2 ^ 21 + d.toNat * 2 ^ 15 + t.toNat * 2 ^ 9 + i.toNat * 2 ^ 3

/-- A word with fields at bits 31, 21, 9. -/
def layC31w1G21w4N9w6 (base : Nat) (c : BitVec 1) (g : BitVec 4) (n : BitVec 6) : Nat :=
  base + c.toNat * 2 ^ 31 + g.toNat * 2 ^ 21 + n.toNat * 2 ^ 9

/-- A word with fields at bits 31, 21, 15, 9, 3. -/
def layC31w1G21w4D15w6A9w6M3w6 (base : Nat) (c : BitVec 1) (g : BitVec 4) (d : BitVec 6) (a : BitVec 6) (m : BitVec 6) : Nat :=
  base + c.toNat * 2 ^ 31 + g.toNat * 2 ^ 21 + d.toNat * 2 ^ 15 + a.toNat * 2 ^ 9 + m.toNat * 2 ^ 3

/-- A word with fields at bits 31, 21, 15. -/
def layC31w1G21w4N15w6 (base : Nat) (c : BitVec 1) (g : BitVec 4) (n : BitVec 6) : Nat :=
  base + c.toNat * 2 ^ 31 + g.toNat * 2 ^ 21 + n.toNat * 2 ^ 15

/-- A word with fields at bits 31, 21, 9, 3. -/
def layC31w1G21w4N9w6P3w6 (base : Nat) (c : BitVec 1) (g : BitVec 4) (n : BitVec 6) (p : BitVec 6) : Nat :=
  base + c.toNat * 2 ^ 31 + g.toNat * 2 ^ 21 + n.toNat * 2 ^ 9 + p.toNat * 2 ^ 3

/-- A word with fields at bits 31, 21, 15, 9, 3. -/
def layC31w1G21w4D15w6A9w6P3w6 (base : Nat) (c : BitVec 1) (g : BitVec 4) (d : BitVec 6) (a : BitVec 6) (p : BitVec 6) : Nat :=
  base + c.toNat * 2 ^ 31 + g.toNat * 2 ^ 21 + d.toNat * 2 ^ 15 + a.toNat * 2 ^ 9 + p.toNat * 2 ^ 3

/-- A word with fields at bits 31, 21, 3. -/
def layC31w1G21w4S3w6 (base : Nat) (c : BitVec 1) (g : BitVec 4) (s : BitVec 6) : Nat :=
  base + c.toNat * 2 ^ 31 + g.toNat * 2 ^ 21 + s.toNat * 2 ^ 3

/-- A word with fields at bits 20, 15, 7. -/
def layT20w5S15w5D7w5 (base : Nat) (t : BitVec 5) (s : BitVec 5) (d : BitVec 5) : Nat :=
  base + t.toNat * 2 ^ 20 + s.toNat * 2 ^ 15 + d.toNat * 2 ^ 7

/-- A word with fields at bits 15, 7. -/
def layS15w5D7w5 (base : Nat) (s : BitVec 5) (d : BitVec 5) : Nat :=
  base + s.toNat * 2 ^ 15 + d.toNat * 2 ^ 7

/-- The word of an instruction; an event has none. -/
def encodeNat (i : Instr) : Option Nat :=
  match i with
  | .clauseStart w a b y l => some (layW13w12A9w4B5w4Y4w1L0w3 0x7E000000 w a b y l)
  | .waitCountExpiry _ _ => none
  | .resultLands _ => none
  | .threadSlotFree _ => none
  | .cohortRetire _ => none
  | .nop c g => some (layC31w1G21w4 0x00000000 c g)
  | .yield c g => some (layC31w1G21w4 0x00000001 c g)
  | .rdclk c g d => some (layC31w1G21w4D15w6 0x00000002 c g d)
  | .rdtags c g d => some (layC31w1G21w4D15w6 0x00000003 c g d)
  | .brUt g i => some (layG21w4I0w19 0x02000000 g i)
  | .brUf g i => some (layG21w4I0w19 0x02080000 g i)
  | .br g i => some (layG21w4I0w19 0x02100000 g i)
  | .brUl g i => some (layG21w4I0w19 0x02180000 g i)
  | .jmp i => some (layI0w25 0x04000000 i)
  | .call i => some (layI0w25 0x06000000 i)
  | .jmpr g a => some (layG21w4A9w6 0x08000000 g a)
  | .callr g a => some (layG21w4A9w6 0x08000001 g a)
  | .ret g => some (layG21w4 0x08000002 g)
  | .exit g => some (layG21w4 0x08000003 g)
  | .addW c g d a b => some (layC31w1G21w4D15w6A9w6B3w6 0x0A000000 c g d a b)
  | .subW c g d a b => some (layC31w1G21w4D15w6A9w6B3w6 0x0A000001 c g d a b)
  | .andW c g d a b => some (layC31w1G21w4D15w6A9w6B3w6 0x0A000002 c g d a b)
  | .orW c g d a b => some (layC31w1G21w4D15w6A9w6B3w6 0x0A000003 c g d a b)
  | .xorW c g d a b => some (layC31w1G21w4D15w6A9w6B3w6 0x0A000004 c g d a b)
  | .andnW c g d a b => some (layC31w1G21w4D15w6A9w6B3w6 0x0A000005 c g d a b)
  | .minW c g d a b => some (layC31w1G21w4D15w6A9w6B3w6 0x0A000006 c g d a b)
  | .maxW c g d a b => some (layC31w1G21w4D15w6A9w6B3w6 0x0A000007 c g d a b)
  | .addD c g d a b => some (layC31w1G21w4D15w6A9w6B3w6 0x0C000000 c g d a b)
  | .subD c g d a b => some (layC31w1G21w4D15w6A9w6B3w6 0x0C000001 c g d a b)
  | .andD c g d a b => some (layC31w1G21w4D15w6A9w6B3w6 0x0C000002 c g d a b)
  | .orD c g d a b => some (layC31w1G21w4D15w6A9w6B3w6 0x0C000003 c g d a b)
  | .xorD c g d a b => some (layC31w1G21w4D15w6A9w6B3w6 0x0C000004 c g d a b)
  | .andnD c g d a b => some (layC31w1G21w4D15w6A9w6B3w6 0x0C000005 c g d a b)
  | .minD c g d a b => some (layC31w1G21w4D15w6A9w6B3w6 0x0C000006 c g d a b)
  | .maxD c g d a b => some (layC31w1G21w4D15w6A9w6B3w6 0x0C000007 c g d a b)
  | .minuW c g d a b => some (layC31w1G21w4D15w6A9w6B3w6 0x0E000000 c g d a b)
  | .maxuW c g d a b => some (layC31w1G21w4D15w6A9w6B3w6 0x0E000001 c g d a b)
  | .shlW c g d a b => some (layC31w1G21w4D15w6A9w6B3w6 0x0E000002 c g d a b)
  | .shrW c g d a b => some (layC31w1G21w4D15w6A9w6B3w6 0x0E000003 c g d a b)
  | .sarW c g d a b => some (layC31w1G21w4D15w6A9w6B3w6 0x0E000004 c g d a b)
  | .rotW c g d a b => some (layC31w1G21w4D15w6A9w6B3w6 0x0E000005 c g d a b)
  | .mulW c g d a b => some (layC31w1G21w4D15w6A9w6B3w6 0x0E000006 c g d a b)
  | .mulhW c g d a b => some (layC31w1G21w4D15w6A9w6B3w6 0x0E000007 c g d a b)
  | .minuD c g d a b => some (layC31w1G21w4D15w6A9w6B3w6 0x10000000 c g d a b)
  | .maxuD c g d a b => some (layC31w1G21w4D15w6A9w6B3w6 0x10000001 c g d a b)
  | .shlD c g d a b => some (layC31w1G21w4D15w6A9w6B3w6 0x10000002 c g d a b)
  | .shrD c g d a b => some (layC31w1G21w4D15w6A9w6B3w6 0x10000003 c g d a b)
  | .sarD c g d a b => some (layC31w1G21w4D15w6A9w6B3w6 0x10000004 c g d a b)
  | .rotD c g d a b => some (layC31w1G21w4D15w6A9w6B3w6 0x10000005 c g d a b)
  | .mulD c g d a b => some (layC31w1G21w4D15w6A9w6B3w6 0x10000006 c g d a b)
  | .mulhD c g d a b => some (layC31w1G21w4D15w6A9w6B3w6 0x10000007 c g d a b)
  | .addiW c g d a i => some (layC31w1G21w4D15w6A9w6I0w9 0x12000000 c g d a i)
  | .addiD c g d a i => some (layC31w1G21w4D15w6A9w6I0w9 0x14000000 c g d a i)
  | .shliW c g d a i => some (layC31w1G21w4D15w6A9w6I0w5 0x16000000 c g d a i)
  | .shriW c g d a i => some (layC31w1G21w4D15w6A9w6I0w5 0x16000040 c g d a i)
  | .sariW c g d a i => some (layC31w1G21w4D15w6A9w6I0w5 0x16000080 c g d a i)
  | .rotiW c g d a i => some (layC31w1G21w4D15w6A9w6I0w5 0x160000C0 c g d a i)
  | .shliD c g d a i => some (layC31w1G21w4D15w6A9w6I0w6 0x16000100 c g d a i)
  | .shriD c g d a i => some (layC31w1G21w4D15w6A9w6I0w6 0x16000140 c g d a i)
  | .sariD c g d a i => some (layC31w1G21w4D15w6A9w6I0w6 0x16000180 c g d a i)
  | .rotiD c g d a i => some (layC31w1G21w4D15w6A9w6I0w6 0x160001C0 c g d a i)
  | .movi c g d i => some (layC31w1G21w4D15w6I0w15 0x18000000 c g d i)
  | .lea1 c g d a b => some (layC31w1G21w4D15w6A9w6B3w6 0x1A000000 c g d a b)
  | .lea2 c g d a b => some (layC31w1G21w4D15w6A9w6B3w6 0x1A000001 c g d a b)
  | .lea4 c g d a b => some (layC31w1G21w4D15w6A9w6B3w6 0x1A000002 c g d a b)
  | .lea8 c g d a b => some (layC31w1G21w4D15w6A9w6B3w6 0x1A000003 c g d a b)
  | .lea16 c g d a b => some (layC31w1G21w4D15w6A9w6B3w6 0x1A000004 c g d a b)
  | .macW c g d a b => some (layC31w1G21w4D15w6A9w6B3w6 0x1A000005 c g d a b)
  | .macD c g d a b => some (layC31w1G21w4D15w6A9w6B3w6 0x1A000006 c g d a b)
  | .mulhuD c g d a b => some (layC31w1G21w4D15w6A9w6B3w6 0x1A000007 c g d a b)
  | .mov c g d a => some (layC31w1G21w4D15w6A9w6 0x1C000000 c g d a)
  | .not c g d a => some (layC31w1G21w4D15w6A9w6 0x1C000001 c g d a)
  | .neg c g d a => some (layC31w1G21w4D15w6A9w6 0x1C000002 c g d a)
  | .abs c g d a => some (layC31w1G21w4D15w6A9w6 0x1C000003 c g d a)
  | .clzW c g d a => some (layC31w1G21w4D15w6A9w6 0x1C000004 c g d a)
  | .clzD c g d a => some (layC31w1G21w4D15w6A9w6 0x1C000005 c g d a)
  | .popc c g d a => some (layC31w1G21w4D15w6A9w6 0x1C000006 c g d a)
  | .brevD c g d a => some (layC31w1G21w4D15w6A9w6 0x1C000007 c g d a)
  | .sextB c g d a => some (layC31w1G21w4D15w6A9w6 0x1C000008 c g d a)
  | .sextH c g d a => some (layC31w1G21w4D15w6A9w6 0x1C000009 c g d a)
  | .sextW c g d a => some (layC31w1G21w4D15w6A9w6 0x1C00000A c g d a)
  | .zextB c g d a => some (layC31w1G21w4D15w6A9w6 0x1C00000B c g d a)
  | .zextH c g d a => some (layC31w1G21w4D15w6A9w6 0x1C00000C c g d a)
  | .zextW c g d a => some (layC31w1G21w4D15w6A9w6 0x1C00000D c g d a)
  | .movk c g d k => some (layC31w1G21w4D15w6K9w6 0x1C000010 c g d k)
  | .rdsr c g d s => some (layC31w1G21w4D15w6S9w6 0x1C000011 c g d s)
  | .wrsr c g s a => some (layC31w1G21w4S15w6A9w6 0x1C000012 c g s a)
  | .movp c g d a => some (layC31w1G21w4D15w6A9w6 0x1C000013 c g d a)
  | .bfx c g d a b => some (layC31w1G21w4D15w6A9w6B3w6 0x1E000000 c g d a b)
  | .bfxu c g d a b => some (layC31w1G21w4D15w6A9w6B3w6 0x1E000001 c g d a b)
  | .bfi c g d a b => some (layC31w1G21w4D15w6A9w6B3w6 0x1E000002 c g d a b)
  | .icmpEq c g p t a b => some (layC31w1G21w4P19w2T16w3A6w6B0w6 0x20000000 c g p t a b)
  | .icmpNe c g p t a b => some (layC31w1G21w4P19w2T16w3A6w6B0w6 0x20001000 c g p t a b)
  | .icmpLt c g p t a b => some (layC31w1G21w4P19w2T16w3A6w6B0w6 0x20002000 c g p t a b)
  | .icmpLe c g p t a b => some (layC31w1G21w4P19w2T16w3A6w6B0w6 0x20003000 c g p t a b)
  | .icmpGt c g p t a b => some (layC31w1G21w4P19w2T16w3A6w6B0w6 0x20004000 c g p t a b)
  | .icmpGe c g p t a b => some (layC31w1G21w4P19w2T16w3A6w6B0w6 0x20005000 c g p t a b)
  | .icmpLtu c g p t a b => some (layC31w1G21w4P19w2T16w3A6w6B0w6 0x20006000 c g p t a b)
  | .icmpLeu c g p t a b => some (layC31w1G21w4P19w2T16w3A6w6B0w6 0x20007000 c g p t a b)
  | .icmpGtu c g p t a b => some (layC31w1G21w4P19w2T16w3A6w6B0w6 0x20008000 c g p t a b)
  | .icmpGeu c g p t a b => some (layC31w1G21w4P19w2T16w3A6w6B0w6 0x20009000 c g p t a b)
  | .icmpTst c g p t a b => some (layC31w1G21w4P19w2T16w3A6w6B0w6 0x2000A000 c g p t a b)
  | .icmpNtst c g p t a b => some (layC31w1G21w4P19w2T16w3A6w6B0w6 0x2000B000 c g p t a b)
  | .pand c g d a b => some (layC31w1G21w4D18w3A15w3B12w3 0x22000000 c g d a b)
  | .por c g d a b => some (layC31w1G21w4D18w3A15w3B12w3 0x22000001 c g d a b)
  | .pxor c g d a b => some (layC31w1G21w4D18w3A15w3B12w3 0x22000002 c g d a b)
  | .pnot c g d a => some (layC31w1G21w4D18w3A15w3 0x22000003 c g d a)
  | .pmov c g d a => some (layC31w1G21w4D18w3A15w3 0x22000004 c g d a)
  | .pisu c g d a => some (layC31w1G21w4D18w3A15w3 0x22000005 c g d a)
  | .pist c g d a => some (layC31w1G21w4D18w3A15w3 0x22000006 c g d a)
  | .pset c g d v => some (layC31w1G21w4D18w3V15w3 0x22000007 c g d v)
  | .voteAll c g d a => some (layC31w1G21w4D15w6A9w6 0x24000000 c g d a)
  | .voteAny c g d a => some (layC31w1G21w4D15w6A9w6 0x24000001 c g d a)
  | .ballot c g d a => some (layC31w1G21w4D15w6A9w6 0x24000002 c g d a)
  | .ballotu c g d a => some (layC31w1G21w4D15w6A9w6 0x24000003 c g d a)
  | .shflIdx c g d a b => some (layC31w1G21w4D15w6A9w6B3w6 0x24000004 c g d a b)
  | .shflUp c g d a b => some (layC31w1G21w4D15w6A9w6B3w6 0x24000005 c g d a b)
  | .shflDown c g d a b => some (layC31w1G21w4D15w6A9w6B3w6 0x24000006 c g d a b)
  | .shflXor c g d a b => some (layC31w1G21w4D15w6A9w6B3w6 0x24000007 c g d a b)
  | .divW c g d a b => some (layC31w1G21w4D15w6A9w6B3w6 0x26000000 c g d a b)
  | .divuW c g d a b => some (layC31w1G21w4D15w6A9w6B3w6 0x26000001 c g d a b)
  | .remW c g d a b => some (layC31w1G21w4D15w6A9w6B3w6 0x26000002 c g d a b)
  | .remuW c g d a b => some (layC31w1G21w4D15w6A9w6B3w6 0x26000003 c g d a b)
  | .divD c g d a b => some (layC31w1G21w4D15w6A9w6B3w6 0x26000004 c g d a b)
  | .divuD c g d a b => some (layC31w1G21w4D15w6A9w6B3w6 0x26000005 c g d a b)
  | .remD c g d a b => some (layC31w1G21w4D15w6A9w6B3w6 0x26000006 c g d a b)
  | .remuD c g d a b => some (layC31w1G21w4D15w6A9w6B3w6 0x26000007 c g d a b)
  | .divideComplete _ => none
  | .sel c g d a b k => some (layC31w1G21w4D15w6A9w6B3w6K0w3 0x28000000 c g d a b k)
  | .randW c g d a b => some (layC31w1G21w4D15w6A9w6B3w6 0x2A000000 c g d a b)
  | .randD c g d a b => some (layC31w1G21w4D15w6A9w6B3w6 0x2A000001 c g d a b)
  | .faddS c g d a b => some (layC31w1G21w4D15w6A9w6B3w6 0x30000000 c g d a b)
  | .fsubS c g d a b => some (layC31w1G21w4D15w6A9w6B3w6 0x30000001 c g d a b)
  | .fmulS c g d a b => some (layC31w1G21w4D15w6A9w6B3w6 0x30000002 c g d a b)
  | .fdivS c g d a b => some (layC31w1G21w4D15w6A9w6B3w6 0x30000003 c g d a b)
  | .fminS c g d a b => some (layC31w1G21w4D15w6A9w6B3w6 0x30000004 c g d a b)
  | .fmaxS c g d a b => some (layC31w1G21w4D15w6A9w6B3w6 0x30000005 c g d a b)
  | .fcpysS c g d a b => some (layC31w1G21w4D15w6A9w6B3w6 0x30000006 c g d a b)
  | .faddD c g d a b => some (layC31w1G21w4D15w6A9w6B3w6 0x32000000 c g d a b)
  | .fsubD c g d a b => some (layC31w1G21w4D15w6A9w6B3w6 0x32000001 c g d a b)
  | .fmulD c g d a b => some (layC31w1G21w4D15w6A9w6B3w6 0x32000002 c g d a b)
  | .fdivD c g d a b => some (layC31w1G21w4D15w6A9w6B3w6 0x32000003 c g d a b)
  | .fminD c g d a b => some (layC31w1G21w4D15w6A9w6B3w6 0x32000004 c g d a b)
  | .fmaxD c g d a b => some (layC31w1G21w4D15w6A9w6B3w6 0x32000005 c g d a b)
  | .fcpysD c g d a b => some (layC31w1G21w4D15w6A9w6B3w6 0x32000006 c g d a b)
  | .faddI c g d a b => some (layC31w1G21w4D15w6A9w6B3w6 0x34000000 c g d a b)
  | .fsubI c g d a b => some (layC31w1G21w4D15w6A9w6B3w6 0x34000001 c g d a b)
  | .fmulI c g d a b => some (layC31w1G21w4D15w6A9w6B3w6 0x34000002 c g d a b)
  | .fdivI c g d a b => some (layC31w1G21w4D15w6A9w6B3w6 0x34000003 c g d a b)
  | .fhullI c g d a b => some (layC31w1G21w4D15w6A9w6B3w6 0x34000004 c g d a b)
  | .fisectI c g d a b => some (layC31w1G21w4D15w6A9w6B3w6 0x34000005 c g d a b)
  | .fminI c g d a b => some (layC31w1G21w4D15w6A9w6B3w6 0x34000006 c g d a b)
  | .fmaxI c g d a b => some (layC31w1G21w4D15w6A9w6B3w6 0x34000007 c g d a b)
  | .faddJ c g d a b => some (layC31w1G21w4D15w6A9w6B3w6 0x36000000 c g d a b)
  | .fsubJ c g d a b => some (layC31w1G21w4D15w6A9w6B3w6 0x36000001 c g d a b)
  | .fmulJ c g d a b => some (layC31w1G21w4D15w6A9w6B3w6 0x36000002 c g d a b)
  | .fdivJ c g d a b => some (layC31w1G21w4D15w6A9w6B3w6 0x36000003 c g d a b)
  | .fhullJ c g d a b => some (layC31w1G21w4D15w6A9w6B3w6 0x36000004 c g d a b)
  | .fisectJ c g d a b => some (layC31w1G21w4D15w6A9w6B3w6 0x36000005 c g d a b)
  | .fminJ c g d a b => some (layC31w1G21w4D15w6A9w6B3w6 0x36000006 c g d a b)
  | .fmaxJ c g d a b => some (layC31w1G21w4D15w6A9w6B3w6 0x36000007 c g d a b)
  | .fpDivideSqrtComplete _ => none
  | .fmacS c g d a b => some (layC31w1G21w4D15w6A9w6B3w6 0x38000000 c g d a b)
  | .fmscS c g d a b => some (layC31w1G21w4D15w6A9w6B3w6 0x38000001 c g d a b)
  | .fnmacS c g d a b => some (layC31w1G21w4D15w6A9w6B3w6 0x38000002 c g d a b)
  | .fnmscS c g d a b => some (layC31w1G21w4D15w6A9w6B3w6 0x38000003 c g d a b)
  | .fmacD c g d a b => some (layC31w1G21w4D15w6A9w6B3w6 0x38000004 c g d a b)
  | .fmscD c g d a b => some (layC31w1G21w4D15w6A9w6B3w6 0x38000005 c g d a b)
  | .fnmacD c g d a b => some (layC31w1G21w4D15w6A9w6B3w6 0x38000006 c g d a b)
  | .fnmscD c g d a b => some (layC31w1G21w4D15w6A9w6B3w6 0x38000007 c g d a b)
  | .fmacI c g d a b => some (layC31w1G21w4D15w6A9w6B3w6 0x3A000000 c g d a b)
  | .fmscI c g d a b => some (layC31w1G21w4D15w6A9w6B3w6 0x3A000001 c g d a b)
  | .fnmacI c g d a b => some (layC31w1G21w4D15w6A9w6B3w6 0x3A000002 c g d a b)
  | .fnmscI c g d a b => some (layC31w1G21w4D15w6A9w6B3w6 0x3A000003 c g d a b)
  | .fmacJ c g d a b => some (layC31w1G21w4D15w6A9w6B3w6 0x3A000004 c g d a b)
  | .fmscJ c g d a b => some (layC31w1G21w4D15w6A9w6B3w6 0x3A000005 c g d a b)
  | .fnmacJ c g d a b => some (layC31w1G21w4D15w6A9w6B3w6 0x3A000006 c g d a b)
  | .fnmscJ c g d a b => some (layC31w1G21w4D15w6A9w6B3w6 0x3A000007 c g d a b)
  | .fabsS c g d a => some (layC31w1G21w4D15w6A9w6 0x3C000000 c g d a)
  | .fnegS c g d a => some (layC31w1G21w4D15w6A9w6 0x3C000001 c g d a)
  | .fsqrtS c g d a => some (layC31w1G21w4D15w6A9w6 0x3C000002 c g d a)
  | .frcpS c g d a => some (layC31w1G21w4D15w6A9w6 0x3C000003 c g d a)
  | .frsqS c g d a => some (layC31w1G21w4D15w6A9w6 0x3C000004 c g d a)
  | .fexp2S c g d a => some (layC31w1G21w4D15w6A9w6 0x3C000005 c g d a)
  | .flog2S c g d a => some (layC31w1G21w4D15w6A9w6 0x3C000006 c g d a)
  | .fsinS c g d a => some (layC31w1G21w4D15w6A9w6 0x3C000007 c g d a)
  | .fcosS c g d a => some (layC31w1G21w4D15w6A9w6 0x3C000008 c g d a)
  | .frndS c g d a => some (layC31w1G21w4D15w6A9w6 0x3C000009 c g d a)
  | .fclassS c g d a => some (layC31w1G21w4D15w6A9w6 0x3C00000A c g d a)
  | .fabsD c g d a => some (layC31w1G21w4D15w6A9w6 0x3C000010 c g d a)
  | .fnegD c g d a => some (layC31w1G21w4D15w6A9w6 0x3C000011 c g d a)
  | .fsqrtD c g d a => some (layC31w1G21w4D15w6A9w6 0x3C000012 c g d a)
  | .frcpD c g d a => some (layC31w1G21w4D15w6A9w6 0x3C000013 c g d a)
  | .frsqD c g d a => some (layC31w1G21w4D15w6A9w6 0x3C000014 c g d a)
  | .fexp2D c g d a => some (layC31w1G21w4D15w6A9w6 0x3C000015 c g d a)
  | .flog2D c g d a => some (layC31w1G21w4D15w6A9w6 0x3C000016 c g d a)
  | .fsinD c g d a => some (layC31w1G21w4D15w6A9w6 0x3C000017 c g d a)
  | .fcosD c g d a => some (layC31w1G21w4D15w6A9w6 0x3C000018 c g d a)
  | .frndD c g d a => some (layC31w1G21w4D15w6A9w6 0x3C000019 c g d a)
  | .fclassD c g d a => some (layC31w1G21w4D15w6A9w6 0x3C00001A c g d a)
  | .fcvtFloat c g d a x y => some (layC31w1G21w4D15w6A9w6X3w3Y0w3 0x3E000000 c g d a x y)
  | .fcvtToInt c g d a x y => some (layC31w1G21w4D15w6A9w6X3w3Y0w3 0x3E000040 c g d a x y)
  | .fcvtFromInt c g d a x y => some (layC31w1G21w4D15w6A9w6X3w3Y0w3 0x3E000080 c g d a x y)
  | .fcvtz c g d a x y => some (layC31w1G21w4D15w6A9w6X3w3Y0w3 0x3E000100 c g d a x y)
  | .fmovGf c g d a => some (layC31w1G21w4D15w6A9w6 0x3E0000C0 c g d a)
  | .fmovFg c g d a => some (layC31w1G21w4D15w6A9w6 0x3E0000C1 c g d a)
  | .iptS c g d a => some (layC31w1G21w4D15w6A9w6 0x3E0000C2 c g d a)
  | .iptD c g d a => some (layC31w1G21w4D15w6A9w6 0x3E0000C3 c g d a)
  | .iloI c g d a => some (layC31w1G21w4D15w6A9w6 0x3E0000C4 c g d a)
  | .ihiI c g d a => some (layC31w1G21w4D15w6A9w6 0x3E0000C5 c g d a)
  | .imidI c g d a => some (layC31w1G21w4D15w6A9w6 0x3E0000C6 c g d a)
  | .iwidI c g d a => some (layC31w1G21w4D15w6A9w6 0x3E0000C7 c g d a)
  | .iloJ c g d a => some (layC31w1G21w4D15w6A9w6 0x3E0000C8 c g d a)
  | .ihiJ c g d a => some (layC31w1G21w4D15w6A9w6 0x3E0000C9 c g d a)
  | .imidJ c g d a => some (layC31w1G21w4D15w6A9w6 0x3E0000CA c g d a)
  | .iwidJ c g d a => some (layC31w1G21w4D15w6A9w6 0x3E0000CB c g d a)
  | .fcmpEqS c g p t a b => some (layC31w1G21w4P19w2T16w3A6w6B0w6 0x40000000 c g p t a b)
  | .fcmpNeS c g p t a b => some (layC31w1G21w4P19w2T16w3A6w6B0w6 0x40001000 c g p t a b)
  | .fcmpLtS c g p t a b => some (layC31w1G21w4P19w2T16w3A6w6B0w6 0x40002000 c g p t a b)
  | .fcmpLeS c g p t a b => some (layC31w1G21w4P19w2T16w3A6w6B0w6 0x40003000 c g p t a b)
  | .fcmpGtS c g p t a b => some (layC31w1G21w4P19w2T16w3A6w6B0w6 0x40004000 c g p t a b)
  | .fcmpGeS c g p t a b => some (layC31w1G21w4P19w2T16w3A6w6B0w6 0x40005000 c g p t a b)
  | .fcmpUnS c g p t a b => some (layC31w1G21w4P19w2T16w3A6w6B0w6 0x40006000 c g p t a b)
  | .fcmpOrdS c g p t a b => some (layC31w1G21w4P19w2T16w3A6w6B0w6 0x40007000 c g p t a b)
  | .fcmpEqD c g p t a b => some (layC31w1G21w4P19w2T16w3A6w6B0w6 0x42000000 c g p t a b)
  | .fcmpNeD c g p t a b => some (layC31w1G21w4P19w2T16w3A6w6B0w6 0x42001000 c g p t a b)
  | .fcmpLtD c g p t a b => some (layC31w1G21w4P19w2T16w3A6w6B0w6 0x42002000 c g p t a b)
  | .fcmpLeD c g p t a b => some (layC31w1G21w4P19w2T16w3A6w6B0w6 0x42003000 c g p t a b)
  | .fcmpGtD c g p t a b => some (layC31w1G21w4P19w2T16w3A6w6B0w6 0x42004000 c g p t a b)
  | .fcmpGeD c g p t a b => some (layC31w1G21w4P19w2T16w3A6w6B0w6 0x42005000 c g p t a b)
  | .fcmpUnD c g p t a b => some (layC31w1G21w4P19w2T16w3A6w6B0w6 0x42006000 c g p t a b)
  | .fcmpOrdD c g p t a b => some (layC31w1G21w4P19w2T16w3A6w6B0w6 0x42007000 c g p t a b)
  | .fcmpEqI c g p t a b => some (layC31w1G21w4P19w2T16w3A6w6B0w6 0x44000000 c g p t a b)
  | .fcmpNeI c g p t a b => some (layC31w1G21w4P19w2T16w3A6w6B0w6 0x44001000 c g p t a b)
  | .fcmpLtI c g p t a b => some (layC31w1G21w4P19w2T16w3A6w6B0w6 0x44002000 c g p t a b)
  | .fcmpLeI c g p t a b => some (layC31w1G21w4P19w2T16w3A6w6B0w6 0x44003000 c g p t a b)
  | .fcmpGtI c g p t a b => some (layC31w1G21w4P19w2T16w3A6w6B0w6 0x44004000 c g p t a b)
  | .fcmpGeI c g p t a b => some (layC31w1G21w4P19w2T16w3A6w6B0w6 0x44005000 c g p t a b)
  | .fcmpSubI c g p t a b => some (layC31w1G21w4P19w2T16w3A6w6B0w6 0x44008000 c g p t a b)
  | .fcmpDisjI c g p t a b => some (layC31w1G21w4P19w2T16w3A6w6B0w6 0x44009000 c g p t a b)
  | .fcmpContI c g p t a b => some (layC31w1G21w4P19w2T16w3A6w6B0w6 0x4400A000 c g p t a b)
  | .fcmpEmptyI c g p t a b => some (layC31w1G21w4P19w2T16w3A6w6B0w6 0x4400B000 c g p t a b)
  | .fcmpEqJ c g p t a b => some (layC31w1G21w4P19w2T16w3A6w6B0w6 0x46000000 c g p t a b)
  | .fcmpNeJ c g p t a b => some (layC31w1G21w4P19w2T16w3A6w6B0w6 0x46001000 c g p t a b)
  | .fcmpLtJ c g p t a b => some (layC31w1G21w4P19w2T16w3A6w6B0w6 0x46002000 c g p t a b)
  | .fcmpLeJ c g p t a b => some (layC31w1G21w4P19w2T16w3A6w6B0w6 0x46003000 c g p t a b)
  | .fcmpGtJ c g p t a b => some (layC31w1G21w4P19w2T16w3A6w6B0w6 0x46004000 c g p t a b)
  | .fcmpGeJ c g p t a b => some (layC31w1G21w4P19w2T16w3A6w6B0w6 0x46005000 c g p t a b)
  | .fcmpSubJ c g p t a b => some (layC31w1G21w4P19w2T16w3A6w6B0w6 0x46008000 c g p t a b)
  | .fcmpDisjJ c g p t a b => some (layC31w1G21w4P19w2T16w3A6w6B0w6 0x46009000 c g p t a b)
  | .fcmpContJ c g p t a b => some (layC31w1G21w4P19w2T16w3A6w6B0w6 0x4600A000 c g p t a b)
  | .fcmpEmptyJ c g p t a b => some (layC31w1G21w4P19w2T16w3A6w6B0w6 0x4600B000 c g p t a b)
  | .imakeS c g d a b => some (layC31w1G21w4D15w6A9w6B3w6 0x48000000 c g d a b)
  | .imakeD c g d a b => some (layC31w1G21w4D15w6A9w6B3w6 0x48000001 c g d a b)
  | .bisectI c g d a k => some (layC31w1G21w4D15w6A9w6K3w3 0x48000002 c g d a k)
  | .bisectJ c g d a k => some (layC31w1G21w4D15w6A9w6K3w3 0x48000003 c g d a k)
  | .bisectComplete _ => none
  | .iinflI c g d a b => some (layC31w1G21w4D15w6A9w6B3w6 0x48000004 c g d a b)
  | .iinflJ c g d a b => some (layC31w1G21w4D15w6A9w6B3w6 0x48000005 c g d a b)
  | .hadd2 c g d a b => some (layC31w1G21w4D15w6A9w6B3w6 0x4A000000 c g d a b)
  | .hmul2 c g d a b => some (layC31w1G21w4D15w6A9w6B3w6 0x4A000001 c g d a b)
  | .hfma2 c g d a b => some (layC31w1G21w4D15w6A9w6B3w6 0x4A000002 c g d a b)
  | .badd2 c g d a b => some (layC31w1G21w4D15w6A9w6B3w6 0x4A000003 c g d a b)
  | .bmul2 c g d a b => some (layC31w1G21w4D15w6A9w6B3w6 0x4A000004 c g d a b)
  | .bfma2 c g d a b => some (layC31w1G21w4D15w6A9w6B3w6 0x4A000005 c g d a b)
  | .cbdec c g d a b => some (layC31w1G21w4D15w6A9w6B3w6 0x4A000006 c g d a b)
  | .mxq c g d a b => some (layC31w1G21w4D15w6A9w6B3w6 0x4A000007 c g d a b)
  | .ldgB c g d b p => some (layC31w1G21w4D15w6B9w6P3w6 0x50000000 c g d b p)
  | .ldgBu c g d b p => some (layC31w1G21w4D15w6B9w6P3w6 0x50000001 c g d b p)
  | .ldgH c g d b p => some (layC31w1G21w4D15w6B9w6P3w6 0x50000002 c g d b p)
  | .ldgHu c g d b p => some (layC31w1G21w4D15w6B9w6P3w6 0x50000003 c g d b p)
  | .ldgW c g d b p => some (layC31w1G21w4D15w6B9w6P3w6 0x50000004 c g d b p)
  | .ldgWu c g d b p => some (layC31w1G21w4D15w6B9w6P3w6 0x50000005 c g d b p)
  | .ldgD c g d b p => some (layC31w1G21w4D15w6B9w6P3w6 0x50000006 c g d b p)
  | .ldgQ c g d b p => some (layC31w1G21w4D15w6B9w6P3w6 0x50000007 c g d b p)
  | .stgB c g d b p => some (layC31w1G21w4D15w6B9w6P3w6 0x52000000 c g d b p)
  | .stgH c g d b p => some (layC31w1G21w4D15w6B9w6P3w6 0x52000001 c g d b p)
  | .stgW c g d b p => some (layC31w1G21w4D15w6B9w6P3w6 0x52000002 c g d b p)
  | .stgD c g d b p => some (layC31w1G21w4D15w6B9w6P3w6 0x52000003 c g d b p)
  | .stgQ c g d b p => some (layC31w1G21w4D15w6B9w6P3w6 0x52000004 c g d b p)
  | .stref c g d b p => some (layC31w1G21w4D15w6B9w6P3w6 0x52000005 c g d b p)
  | .sthdr c g d b p => some (layC31w1G21w4D15w6B9w6P3w6 0x52000006 c g d b p)
  | .strefHomeCheck _ => none
  | .ldsB c g d b i => some (layC31w1G21w4D15w6B9w6I3w6 0x54000000 c g d b i)
  | .ldsBu c g d b i => some (layC31w1G21w4D15w6B9w6I3w6 0x54000001 c g d b i)
  | .ldsH c g d b i => some (layC31w1G21w4D15w6B9w6I3w6 0x54000002 c g d b i)
  | .ldsHu c g d b i => some (layC31w1G21w4D15w6B9w6I3w6 0x54000003 c g d b i)
  | .ldsW c g d b i => some (layC31w1G21w4D15w6B9w6I3w6 0x54000004 c g d b i)
  | .ldsWu c g d b i => some (layC31w1G21w4D15w6B9w6I3w6 0x54000005 c g d b i)
  | .ldsD c g d b i => some (layC31w1G21w4D15w6B9w6I3w6 0x54000006 c g d b i)
  | .ldsQ c g d b i => some (layC31w1G21w4D15w6B9w6I3w6 0x54000007 c g d b i)
  | .stsB c g d b i => some (layC31w1G21w4D15w6B9w6I3w6 0x56000000 c g d b i)
  | .stsH c g d b i => some (layC31w1G21w4D15w6B9w6I3w6 0x56000001 c g d b i)
  | .stsW c g d b i => some (layC31w1G21w4D15w6B9w6I3w6 0x56000002 c g d b i)
  | .stsD c g d b i => some (layC31w1G21w4D15w6B9w6I3w6 0x56000003 c g d b i)
  | .stsQ c g d b i => some (layC31w1G21w4D15w6B9w6I3w6 0x56000004 c g d b i)
  | .ldfGS c g d b p => some (layC31w1G21w4D15w6B9w6P3w6 0x58000000 c g d b p)
  | .ldfGD c g d b p => some (layC31w1G21w4D15w6B9w6P3w6 0x58000001 c g d b p)
  | .ldfGI c g d b p => some (layC31w1G21w4D15w6B9w6P3w6 0x58000002 c g d b p)
  | .ldfGJ c g d b p => some (layC31w1G21w4D15w6B9w6P3w6 0x58000003 c g d b p)
  | .ldfLS c g d b i => some (layC31w1G21w4D15w6B9w6I3w6 0x58000004 c g d b i)
  | .ldfLD c g d b i => some (layC31w1G21w4D15w6B9w6I3w6 0x58000005 c g d b i)
  | .ldfLI c g d b i => some (layC31w1G21w4D15w6B9w6I3w6 0x58000006 c g d b i)
  | .ldfLJ c g d b i => some (layC31w1G21w4D15w6B9w6I3w6 0x58000007 c g d b i)
  | .stfGS c g d b p => some (layC31w1G21w4D15w6B9w6P3w6 0x5A000000 c g d b p)
  | .stfGD c g d b p => some (layC31w1G21w4D15w6B9w6P3w6 0x5A000001 c g d b p)
  | .stfGI c g d b p => some (layC31w1G21w4D15w6B9w6P3w6 0x5A000002 c g d b p)
  | .stfGJ c g d b p => some (layC31w1G21w4D15w6B9w6P3w6 0x5A000003 c g d b p)
  | .stfLS c g d b i => some (layC31w1G21w4D15w6B9w6I3w6 0x5A000004 c g d b i)
  | .stfLD c g d b i => some (layC31w1G21w4D15w6B9w6I3w6 0x5A000005 c g d b i)
  | .stfLI c g d b i => some (layC31w1G21w4D15w6B9w6I3w6 0x5A000006 c g d b i)
  | .stfLJ c g d b i => some (layC31w1G21w4D15w6B9w6I3w6 0x5A000007 c g d b i)
  | .loadReply _ _ => none
  | .storeFaultFound _ => none
  | .amogAddW c g d b v => some (layC31w1G21w4D15w6B9w6V3w6 0x5C000000 c g d b v)
  | .amogAddD c g d b v => some (layC31w1G21w4D15w6B9w6V3w6 0x5C000001 c g d b v)
  | .amogMaxW c g d b v => some (layC31w1G21w4D15w6B9w6V3w6 0x5C000002 c g d b v)
  | .amogMinW c g d b v => some (layC31w1G21w4D15w6B9w6V3w6 0x5C000003 c g d b v)
  | .amogSwapW c g d b v => some (layC31w1G21w4D15w6B9w6V3w6 0x5C000004 c g d b v)
  | .amogSwapD c g d b v => some (layC31w1G21w4D15w6B9w6V3w6 0x5C000005 c g d b v)
  | .amogCasW c g d b v => some (layC31w1G21w4D15w6B9w6V3w6 0x5C000006 c g d b v)
  | .amogCasD c g d b v => some (layC31w1G21w4D15w6B9w6V3w6 0x5C000007 c g d b v)
  | .amog2AndD c g d b v => some (layC31w1G21w4D15w6B9w6V3w6 0x5E000000 c g d b v)
  | .amog2OrD c g d b v => some (layC31w1G21w4D15w6B9w6V3w6 0x5E000001 c g d b v)
  | .amog2XorD c g d b v => some (layC31w1G21w4D15w6B9w6V3w6 0x5E000002 c g d b v)
  | .amog2MaxuD c g d b v => some (layC31w1G21w4D15w6B9w6V3w6 0x5E000003 c g d b v)
  | .amog2MinuD c g d b v => some (layC31w1G21w4D15w6B9w6V3w6 0x5E000004 c g d b v)
  | .amog2AndW c g d b v => some (layC31w1G21w4D15w6B9w6V3w6 0x5E000005 c g d b v)
  | .amog2OrW c g d b v => some (layC31w1G21w4D15w6B9w6V3w6 0x5E000006 c g d b v)
  | .amog2XorW c g d b v => some (layC31w1G21w4D15w6B9w6V3w6 0x5E000007 c g d b v)
  | .amogscAddW c g d b v => some (layC31w1G21w4D15w6B9w6V3w6 0x60000000 c g d b v)
  | .amogscAddD c g d b v => some (layC31w1G21w4D15w6B9w6V3w6 0x60000001 c g d b v)
  | .amogscMaxW c g d b v => some (layC31w1G21w4D15w6B9w6V3w6 0x60000002 c g d b v)
  | .amogscMinW c g d b v => some (layC31w1G21w4D15w6B9w6V3w6 0x60000003 c g d b v)
  | .amogscSwapW c g d b v => some (layC31w1G21w4D15w6B9w6V3w6 0x60000004 c g d b v)
  | .amogscSwapD c g d b v => some (layC31w1G21w4D15w6B9w6V3w6 0x60000005 c g d b v)
  | .amogscCasW c g d b v => some (layC31w1G21w4D15w6B9w6V3w6 0x60000006 c g d b v)
  | .amogscCasD c g d b v => some (layC31w1G21w4D15w6B9w6V3w6 0x60000007 c g d b v)
  | .amosAddW c g d b v => some (layC31w1G21w4D15w6B9w6V3w6 0x62000000 c g d b v)
  | .amosAddD c g d b v => some (layC31w1G21w4D15w6B9w6V3w6 0x62000001 c g d b v)
  | .amosMaxW c g d b v => some (layC31w1G21w4D15w6B9w6V3w6 0x62000002 c g d b v)
  | .amosMinW c g d b v => some (layC31w1G21w4D15w6B9w6V3w6 0x62000003 c g d b v)
  | .amosSwapW c g d b v => some (layC31w1G21w4D15w6B9w6V3w6 0x62000004 c g d b v)
  | .amosSwapD c g d b v => some (layC31w1G21w4D15w6B9w6V3w6 0x62000005 c g d b v)
  | .amosCasW c g d b v => some (layC31w1G21w4D15w6B9w6V3w6 0x62000006 c g d b v)
  | .amosCasD c g d b v => some (layC31w1G21w4D15w6B9w6V3w6 0x62000007 c g d b v)
  | .atomicPerform _ => none
  | .atomicReply _ => none
  | .fence c g p s k => some (layC31w1G21w4P15w6S9w6K6w3 0x64000000 c g p s k)
  | .fenceReleaseHeld _ => none
  | .pfl c g b p => some (layC31w1G21w4B9w6P3w6 0x66000000 c g b p)
  | .pfr c g t b l => some (layC31w1G21w4T15w6B9w6L3w6 0x66000001 c g t b l)
  | .wbl1 c g b l => some (layC31w1G21w4B9w6L3w6 0x66000002 c g b l)
  | .invl1 c g b l => some (layC31w1G21w4B9w6L3w6 0x66000003 c g b l)
  | .acqr c g d b l => some (layC31w1G21w4D15w6B9w6L3w6 0x66000004 c g d b l)
  | .acqrComplete _ => none
  | .pub c g d b s => some (layC31w1G21w4D15w6B9w6S3w6 0x68000000 c g d b s)
  | .tagof c g d b p => some (layC31w1G21w4D15w6B9w6P3w6 0x68000001 c g d b p)
  | .scopeof c g d b p => some (layC31w1G21w4D15w6B9w6P3w6 0x68000002 c g d b p)
  | .colr c g d b l => some (layC31w1G21w4D15w6B9w6L3w6 0x68000003 c g d b l)
  | .colof c g d b p => some (layC31w1G21w4D15w6B9w6P3w6 0x68000004 c g d b p)
  | .colrLine _ => none
  | .walkStart _ => none
  | .walkObject _ => none
  | .cwait c g b => some (layC31w1G21w4B9w6 0x6A000000 c g b)
  | .cnotify c g b => some (layC31w1G21w4B9w6 0x6A000001 c g b)
  | .cnotifyall c g b => some (layC31w1G21w4B9w6 0x6A000002 c g b)
  | .cheld c g d b => some (layC31w1G21w4D15w6B9w6 0x6A000003 c g d b)
  | .monitorAcquire _ => none
  | .monitorRelease _ => none
  | .monitorWait _ => none
  | .monitorNotify _ => none
  | .monitorNotifyAll _ => none
  | .monitorGrant _ => none
  | .monitorQueuedReply _ => none
  | .colourReleaseSend _ => none
  | .copy c g d s p => some (layC31w1G21w4D15w6S9w6P3w6 0x6C000000 c g d s p)
  | .copym c g d s p => some (layC31w1G21w4D15w6S9w6P3w6 0x6C000001 c g d s p)
  | .copyb c g d s p => some (layC31w1G21w4D15w6S9w6P3w6 0x6C000002 c g d s p)
  | .gather c g d x p => some (layC31w1G21w4D15w6X9w6P3w6 0x6C000003 c g d x p)
  | .copyStart _ => none
  | .copyEnd _ => none
  | .gatherEnd _ => none
  | .pfrEnd _ => none
  | .ringIdleExpiry _ => none
  | .twaitall c g b => some (layC31w1G21w4B9w6 0x6E000000 c g b)
  | .twaitany c g b => some (layC31w1G21w4B9w6 0x6E000001 c g b)
  | .tfirst c g d b => some (layC31w1G21w4D15w6B9w6 0x6E000002 c g d b)
  | .tclr c g b => some (layC31w1G21w4B9w6 0x6E000003 c g b)
  | .tdef c g d b p => some (layC31w1G21w4D15w6B9w6P3w6 0x70000000 c g d b p)
  | .trd c g d t i => some (layC31w1G21w4D15w6T9w6I3w6 0x70000001 c g d t i)
  | .sign c g n => some (layC31w1G21w4N9w6 0x70000002 c g n)
  | .mldb c g d b => some (layC31w1G21w4D15w6B9w6 0x70000003 c g d b)
  | .mmq c g d a m => some (layC31w1G21w4D15w6A9w6M3w6 0x70000004 c g d a m)
  | .mcommit c g n => some (layC31w1G21w4N15w6 0x70000005 c g n)
  | .mwait c g n => some (layC31w1G21w4N15w6 0x70000006 c g n)
  | .cvset c g n p => some (layC31w1G21w4N9w6P3w6 0x70000007 c g n p)
  | .signApply _ => none
  | .cvsetApply _ => none
  | .engineCommandStart _ => none
  | .tdefComplete _ => none
  | .mldbComplete _ => none
  | .mmqRow _ => none
  | .mzeroRow _ => none
  | .mxstRow _ => none
  | .mzero c g b p => some (layC31w1G21w4B9w6P3w6 0x72000000 c g b p)
  | .mrd c g d b i => some (layC31w1G21w4D15w6B9w6I3w6 0x72000001 c g d b i)
  | .mwr c g d b i => some (layC31w1G21w4D15w6B9w6I3w6 0x72000002 c g d b i)
  | .stpl c g d a p => some (layC31w1G21w4D15w6A9w6P3w6 0x72000003 c g d a p)
  | .mxst c g d b p => some (layC31w1G21w4D15w6B9w6P3w6 0x72000004 c g d b p)
  | .binit c g b p => some (layC31w1G21w4B9w6P3w6 0x74000000 c g b p)
  | .arrive c g b p => some (layC31w1G21w4B9w6P3w6 0x74000001 c g b p)
  | .bwait c g b p => some (layC31w1G21w4B9w6P3w6 0x74000002 c g b p)
  | .arrivew c g b p => some (layC31w1G21w4B9w6P3w6 0x74000003 c g b p)
  | .nbar c g s => some (layC31w1G21w4S3w6 0x74000004 c g s)
  | .binval c g b => some (layC31w1G21w4B9w6 0x74000005 c g b)
  | .barrierBankOp _ => none
  | .nbarPhaseComplete _ => none
  | .tqpush c g d => some (layC31w1G21w4D15w6 0x76000000 c g d)
  | .tqpop c g d => some (layC31w1G21w4D15w6 0x76000001 c g d)
  | .amsend c g d b p => some (layC31w1G21w4D15w6B9w6P3w6 0x76000002 c g d b p)
  | .launch c g d b p => some (layC31w1G21w4D15w6B9w6P3w6 0x76000003 c g d b p)
  | .tqPushApply _ => none
  | .tqPopServe _ => none
  | .tqStealServe _ => none
  | .tqpopReply _ => none
  | .amArrival _ => none
  | .amsendStatus _ => none
  | .handlerGroupPlace _ => none
  | .launchStatus _ => none
  | .trap c g b => some (layC31w1G21w4B9w6 0x78000000 c g b)
  | .rft c g => some (layC31w1G21w4 0x78000001 c g)
  | .rdtr c g d b => some (layC31w1G21w4D15w6B9w6 0x78000002 c g d b)
  | .syscall c g b => some (layC31w1G21w4B9w6 0x78000003 c g b)
  | .dflush c g => some (layC31w1G21w4 0x78000004 c g)
  | .rdfpc c g d => some (layC31w1G21w4D15w6 0x78000005 c g d)
  | .wrfpc c g b => some (layC31w1G21w4B9w6 0x78000006 c g b)
  | .rdhash c g d => some (layC31w1G21w4D15w6 0x78000007 c g d)
  | .atomicBufferDrain _ _ => none
  | .l1SweepWriteback _ _ _ => none
  | .writebackArrival _ => none
  | .writeThroughArrival _ => none
  | .kernelRecordAccept _ => none
  | .groupPlace => none
  | .groupStart _ => none
  | .groupRetire _ => none
  | .kernelRetire _ => none
  | .contextSlotAssign _ _ _ => none
  | .contextLoadComplete _ _ => none
  | .contextSwitchRequest _ _ => none
  | .switchExchangeBegin _ => none
  | .switchExchangeEnd _ _ => none
  | .weightSlotRestoreDone _ => none
  | .contextEvict _ _ => none
  | .contextSaveComplete _ _ => none
  | .contextDestroy _ => none
  | .translation _ _ => none
  | .faultReadIndexAdvance _ _ => none
  | .migrationCounterHalve _ => none
  | .inval _ _ _ _ => none
  | .purge _ _ _ _ => none
  | .move _ _ _ _ => none
  | .bias _ _ _ _ => none
  | .replay _ _ _ _ => none
  | .deny _ _ _ _ => none
  | .dget _ _ _ _ => none
  | .scrub _ _ _ _ => none
  | .queueRegister _ _ _ => none
  | .queueDestroy _ => none
  | .queueMap _ _ => none
  | .queueUnmap _ => none
  | .queueWake _ => none
  | .queueSlotTimeslice _ => none
  | .queueLaunch _ _ => none
  | .queueCopy _ _ => none
  | .queueSignal _ _ => none
  | .queueWait _ _ => none
  | .queueWaitSatisfied _ _ => none
  | .queueMarker _ _ => none
  | .queueTimestamp _ _ => none
  | .queuePacketComplete _ _ => none
  | .bulkEngineWake _ => none
  | .bulkPacketStart _ => none
  | .bulkPacketComplete _ _ => none
  | .krfet t s d => some (layT20w5S15w5D7w5 0x0000000B t s d)
  | .kbfx t s d => some (layT20w5S15w5D7w5 0x0000100B t s d)
  | .kswait s d => some (layS15w5D7w5 0x0000200B s d)
  | .kswaitWake _ _ => none
  | .kdisp t s d => some (layT20w5S15w5D7w5 0x0000300B t s d)
  | .watchdogHeartbeat => none
  | .watchdogExpiry => none
  | .powerGood => none
  | .imageStartCommand _ _ => none
  | .reducedServiceBegin => none
  | .hbmStackTrained _ => none
  | .fullServiceBegin => none
  | .deviceReset => none
  | .powerLimitExceeded => none
  | .thermalTrip _ => none
  | .clampSecondStep _ _ => none
  | .clampRestore _ _ => none
  | .clockChangeApply _ => none
  | .powerLimitSet _ => none
  | .rdcSizeSet _ _ => none
  | .linkEnable _ => none
  | .linkDisable _ => none
  | .linkTrained _ _ => none
  | .linkTrainingTimeout _ => none
  | .linkReplayFailure _ => none
  | .linkLockLoss _ => none
  | .hostModuleFail _ => none
  | .registerWrite _ _ => none
  | .contextCreate _ _ _ _ _ _ _ _ _ _ => none
  | .bulkQueueRegister _ _ _ => none
  | .hostMemoryAccess _ _ _ _ => none
  | .clampConditionClear _ _ => none
  | .cohortSwapComplete _ => none
  | .eventRingReadAdvance _ => none
  | .podJobEnrol _ _ _ _ => none
  | .scratchStorePerform _ => none

def encode (i : Instr) : Option Word32 := (encodeNat i).map (BitVec.ofNat 32)

/-- The host's reading of a table word: the instruction's bits, the first word lowest. Instruction words are one 32-bit word (R65); the rest of
the bits, which are zeros, belong to no row. -/
noncomputable def decodeTableWord (nbits w : Nat) : Option Instr :=
  if nbits ≤ 32 then
    match decode (BitVec.ofNat 32 w) with
    | .ok i => some i
    | .error _ => none
  else none

end Sys2Proof
end

