-- ==== Sys2Proof/Config.lean ====
section
/-!
DEFINITION. What the manual leaves open and the machine goes on with: free values. Each is an opaque constant: no proof can see
its value, so a statement holds whatever it is. Each is named in a log entry of notes/assumptions.
-/

namespace Sys2Proof.Config

/-- Bytes that R291 leaves open: whether a byte at or above the first failing offset of a failed copy is written
(applied to the copy's number and the aligned 8-byte word's index). Log entry 14. -/
opaque copyWordLands : Nat → Nat → Bool

/-- The core a stealing `TQPOP` asks in each attempt (R319 'pseudo-random core'; the sequence is not given):
applied to the operation's number and the attempt, taken modulo the number of candidate cores. Log entry 15. -/
opaque stealVictim : Nat → Nat → Nat

/-- Whether each aligned 8-byte word that a racing decoder reads is the old or the new one (R270): applied to
the command's number and the word's index. Log entry 16. -/
opaque decoderSeesNew : Nat → Nat → Bool

/-- Which of two writes a register holds after software wrote it while it was the destination of an outstanding flagged
operation (R79): true keeps the operation's value. Applied to a fresh number. Log entry 17. -/
opaque flaggedWriteWins : Nat → Bool

/-- How far the package timestamp advances between two readings of it (R367 'at 100 MHz'; the model keeps no time): applied to a fresh number.
Log entry 18. -/
opaque elapsed : Nat → Nat

/-- Mask ROM's signature check (R377 step 2): whether an image, named by its number, carries a good signature. Log entry 20. -/
opaque signatureGood : Nat → Bool

/-- The status that another package's core returns for an active message (R323), modulo 3: the operation's number. Log entry 21. -/
opaque peerStatus : Nat → Nat

/-- Whether the page by which the host, or a peer package, reaches a frame in its n-th access is of 2 MiB or larger (R357, log entry 30). -/
opaque hostPageBig : Nat → Nat → Bool

end Sys2Proof.Config
end

