-- ==== Sys2Proof/Machine/Float.lean ====
section
/-!
DEFINITION. Number formats and exact arithmetic (R25 to R33, R133 to R156): floating-point values as exact dyadic numbers, one
rounding function, and the operations of the F pipe on them. Exceptions are numbers: 1 invalid, 2 divide-by-zero, 4 overflow,
8 underflow, 16 inexact, in the order of the sticky bits of `sr.fpc` (R132).
-/

namespace Sys2Proof.Machine

/-- A floating-point format (R25): exponent and fraction bits, bias, and whether it is the E4M3 exception (no infinities). -/
structure Fmt where
  ebits : Nat
  fbits : Nat
  bias : Nat
  e4m3 : Bool
  deriving DecidableEq, Repr

def Fmt.s : Fmt := ⟨8, 23, 127, false⟩
def Fmt.d : Fmt := ⟨11, 52, 1023, false⟩
def Fmt.h : Fmt := ⟨5, 10, 15, false⟩
def Fmt.bf : Fmt := ⟨8, 7, 127, false⟩
def Fmt.e5 : Fmt := ⟨5, 2, 15, false⟩
def Fmt.e4 : Fmt := ⟨4, 3, 7, true⟩

/-- The float codes of R86; 6 and 7 are reserved and never reach here. -/
def Fmt.ofCode (k : Nat) : Fmt :=
  match k with
  | 0 => .s | 1 => .d | 2 => .h | 3 => .bf | 4 => .e4 | _ => .e5

/-- The sign bit's place. -/
def Fmt.signBit (F : Fmt) : Nat := F.ebits + F.fbits

/-- The canonical NaN (R25). -/
def Fmt.nan (F : Fmt) : Nat :=
  if F.e4m3 then 0x7F else (2 ^ F.ebits - 1) * 2 ^ F.fbits + 2 ^ (F.fbits - 1)

/-- The exponent of the least normal number. -/
def Fmt.emin (F : Fmt) : Int := 1 - F.bias

/-- The largest finite value as significand and exponent of its last place (R25). -/
def Fmt.maxM (F : Fmt) : Nat := if F.e4m3 then 14 else 2 ^ (F.fbits + 1) - 1
def Fmt.maxE (F : Fmt) : Int :=
  if F.e4m3 then 5 else (2 ^ F.ebits - 2 : Int) - F.bias - F.fbits

/-- The bits of the largest finite value. -/
def Fmt.maxBits (F : Fmt) : Nat :=
  if F.e4m3 then 0x7E else (2 ^ F.ebits - 1) * 2 ^ F.fbits - 1

/-- The bits of +∞ (E4M3 has none). -/
def Fmt.infBits (F : Fmt) : Nat := (2 ^ F.ebits - 1) * 2 ^ F.fbits

/-- A value: NaN (signalling or not), an infinity, or ±m·2^e. -/
inductive Fp where
  | nan (sig : Bool)
  | inf (neg : Bool)
  | fin (neg : Bool) (m : Nat) (e : Int)
  deriving DecidableEq, Repr

def Fp.isNan : Fp → Bool
  | .nan _ => true
  | _ => false

def Fp.isSig : Fp → Bool
  | .nan s => s
  | _ => false

def Fp.isZero : Fp → Bool
  | .fin _ m _ => m == 0
  | _ => false

def Fp.neg? : Fp → Bool
  | .nan _ => false
  | .inf n => n
  | .fin n _ _ => n

def Fp.negate : Fp → Fp
  | .nan s => .nan s
  | .inf n => .inf (!n)
  | .fin n m e => .fin (!n) m e

def Fp.abs : Fp → Fp
  | .nan s => .nan s
  | .inf _ => .inf false
  | .fin _ m e => .fin false m e

/-- What the bits of format `F` stand for (R25). -/
def Fmt.decode (F : Fmt) (bits : Nat) : Fp :=
  let neg := bits / 2 ^ F.signBit % 2 == 1
  let ex := bits / 2 ^ F.fbits % 2 ^ F.ebits
  let fr := bits % 2 ^ F.fbits
  if F.e4m3 then
    if ex = 15 ∧ fr = 7 then .nan false
    else if ex = 0 then .fin neg fr (F.emin - F.fbits)
    else .fin neg (2 ^ F.fbits + fr) ((ex : Int) - F.bias - F.fbits)
  else if ex = 2 ^ F.ebits - 1 then
    if fr = 0 then .inf neg else .nan (fr / 2 ^ (F.fbits - 1) == 0)
  else if ex = 0 then .fin neg fr (F.emin - F.fbits)
  else .fin neg (2 ^ F.fbits + fr) ((ex : Int) - F.bias - F.fbits)

/-- The rounding modes in the encoding of `sr.fpc` (R132). -/
inductive RMode where
  | rne
  | rtz
  | rup
  | rdn
  deriving DecidableEq, Repr

def RMode.ofBits (n : Nat) : RMode :=
  match n % 4 with
  | 0 => .rne | 1 => .rtz | 2 => .rup | _ => .rdn

/-- Number of bits of `m`. -/
def bitLen (m : Nat) : Nat := if m = 0 then 0 else Nat.log2 m + 1

/-- Shift an exact dyadic number's exponent: `m·2^k` for `k ≥ 0`. -/
def scaleUp (m : Nat) (k : Int) : Nat := m <<< k.toNat

/-- Compare `a·2^x` with `b·2^y`: whether the first is greater. -/
def dyGt (a : Nat) (x : Int) (b : Nat) (y : Int) : Bool :=
  if x ≥ y then decide (scaleUp a (x - y) > b) else decide (a > scaleUp b (y - x))

/-- Whether a magnitude with kept part `q`, remainder `r` of `2^k` and lost bits below is rounded up. -/
def roundsUp (mode : RMode) (neg : Bool) (q r k : Nat) (sticky : Bool) : Bool :=
  let inexact := r != 0 || sticky
  match mode with
  | .rne =>
    if k = 0 then false
    else
      let half := 2 ^ (k - 1)
      decide (r > half) || (r == half && (sticky || q % 2 == 1))
  | .rtz => false
  | .rup => inexact && !neg
  | .rdn => inexact && neg

/-- Round `m·2^e` (plus something less than 2^e when `sticky`) to a multiple of `2^t`: the multiple and whether it is inexact.
The caller gives at least two spare bits below `2^t` when `sticky` holds. -/
def roundAt (mode : RMode) (neg : Bool) (m : Nat) (e : Int) (sticky : Bool) (t : Int) : Nat × Bool :=
  if t ≤ e then (scaleUp m (e - t), sticky)
  else
    let k := (t - e).toNat
    let q := m >>> k
    let r := m - (q <<< k)
    (if roundsUp mode neg q r k sticky then q + 1 else q, r != 0 || sticky)

/-- Bits of ±q·2^x, which is representable in `F`. -/
def Fmt.pack (F : Fmt) (neg : Bool) (q : Nat) (x : Int) : Nat :=
  let s := if neg then 2 ^ F.signBit else 0
  if q = 0 then s
  else
    let top := x + bitLen q - 1
    if top < F.emin then
      let t := F.emin - F.fbits
      s + (if t ≤ x then scaleUp q (x - t) else q >>> (t - x).toNat)
    else
      let t := top - F.fbits
      let sig := if t ≤ x then scaleUp q (x - t) else q >>> (t - x).toNat
      s + (top + F.bias).toNat * 2 ^ F.fbits + (sig - 2 ^ F.fbits)

/-- What overflow gives in each mode (R29). -/
def Fmt.overflow (F : Fmt) (mode : RMode) (neg : Bool) : Nat :=
  let s := if neg then 2 ^ F.signBit else 0
  let toInf := match mode with
    | .rne => true
    | .rtz => false
    | .rup => !neg
    | .rdn => neg
  s + (if toInf then F.infBits else F.maxBits)

/-- `round` of R29 on a finite non-zero magnitude m·2^e (and a little more when `sticky`), and its raised conditions. With `saturate`
an overflow gives the largest finite value (R28). -/
def Fmt.roundMag (F : Fmt) (mode : RMode) (saturate : Bool) (neg : Bool) (m0 : Nat) (e0 : Int) (sticky : Bool) : Nat × Nat :=
  -- spare bits, so that the sticky part lies below half a place
  let pad := F.fbits + 4
  let m := m0 <<< pad
  let e := e0 - pad
  let t := e + bitLen m - 1 - F.fbits
  let (q, nx) := roundAt mode neg m e sticky t
  if dyGt q t F.maxM F.maxE then
    (if saturate then (if neg then 2 ^ F.signBit else 0) + F.maxBits else F.overflow mode neg, 4 + 16)
  else if t + bitLen q - 1 < F.emin then
    let ts := F.emin - F.fbits
    -- spare bits again, for a value far below the subnormal grid
    let (qs, nxs) := roundAt mode neg m e sticky ts
    (F.pack neg qs ts, if nxs then 8 + 16 else 0)
  else (F.pack neg q t, if nx then 16 else 0)

/-- `round` of R29: NaN to the canonical NaN, infinities kept, a zero keeping its sign. -/
def Fmt.round (F : Fmt) (mode : RMode) (x : Fp) : Nat × Nat :=
  match x with
  | .nan _ => (F.nan, 0)
  | .inf n => ((if n then 2 ^ F.signBit else 0) + F.infBits, 0)
  | .fin n m e => if m = 0 then (F.pack n 0 0, 0) else F.roundMag mode false n m e false

/-- A signed integer times 2^e as a value; a zero gets the sign `zneg`. -/
def Fp.ofInt (n : Int) (e : Int) (zneg : Bool) : Fp :=
  if n = 0 then .fin zneg 0 0 else .fin (decide (n < 0)) n.natAbs e

/-- The signed significand. -/
def sgn (neg : Bool) (m : Nat) : Int := if neg then -(m : Int) else m

/-- Exact sum of two finite values, as an integer and an exponent. -/
def addExact (n1 : Bool) (m1 : Nat) (e1 : Int) (n2 : Bool) (m2 : Nat) (e2 : Int) : Int × Int :=
  let e := min e1 e2
  (sgn n1 (scaleUp m1 (e1 - e)) + sgn n2 (scaleUp m2 (e2 - e)), e)

/-- Whether an operand is a signalling NaN (R133). -/
def sigExc (xs : List Fp) : Nat := if xs.any Fp.isSig then 1 else 0

/-- IEEE addition (R135): sum of infinities of unlike sign is invalid; an exact zero sum of unlike signs is +0, −0 in RDN. -/
def Fmt.add (F : Fmt) (mode : RMode) (a b : Fp) : Nat × Nat :=
  match a, b with
  | .inf x, .inf y => if x = y then F.round mode a else (F.nan, 1)
  | .inf _, .fin .. => F.round mode a
  | .fin .., .inf _ => F.round mode b
  | .fin n1 m1 e1, .fin n2 m2 e2 =>
    let (s, e) := addExact n1 m1 e1 n2 m2 e2
    if s = 0 then
      (F.pack (if m1 = 0 ∧ m2 = 0 ∧ n1 = n2 then n1 else decide (mode = .rdn)) 0 0, 0)
    else F.round mode (Fp.ofInt s e false)
  | _, _ => (F.nan, sigExc [a, b])

/-- Exact product of two values that are not NaN; none for 0 × ∞. -/
def mulExact (a b : Fp) : Option Fp :=
  match a, b with
  | .inf x, .inf y => some (.inf (x != y))
  | .inf x, .fin y m _ => if m = 0 then none else some (.inf (x != y))
  | .fin x m _, .inf y => if m = 0 then none else some (.inf (x != y))
  | .fin x m1 e1, .fin y m2 e2 => some (.fin (x != y) (m1 * m2) (e1 + e2))
  | _, _ => none

/-- IEEE multiplication (R135). -/
def Fmt.mul (F : Fmt) (mode : RMode) (a b : Fp) : Nat × Nat :=
  if a.isNan || b.isNan then (F.nan, sigExc [a, b])
  else match mulExact a b with
    | none => (F.nan, 1)
    | some p => F.round mode p

/-- IEEE fusedMultiplyAdd (R137): a × b + d rounded once; 0 × ∞ is invalid even when d is a quiet NaN. -/
def Fmt.fma (F : Fmt) (mode : RMode) (a b d : Fp) : Nat × Nat :=
  if a.isNan || b.isNan then (F.nan, sigExc [a, b, d])
  else match mulExact a b with
    | none => (F.nan, 1)
    | some p =>
      match d with
      | .nan s => (F.nan, if s then 1 else 0)
      | _ => F.add mode p d

/-- Negate a result, flipping a zero's sign too (R137); a NaN stays canonical. -/
def Fmt.negBits (F : Fmt) (bits : Nat) : Nat :=
  match F.decode bits with
  | .nan _ => bits
  | _ => bits ^^^ 2 ^ F.signBit

/-- The mode that rounds −x as the given mode rounds x. -/
def RMode.mirror : RMode → RMode
  | .rup => .rdn
  | .rdn => .rup
  | m => m

/-- The fused words (R137): fn 0 FMAC, 1 FMSC, 2 FNMAC, 3 FNMSC. The negated words round the negated exact value, so they
round the sum in the mirrored mode; the zero of an exact cancellation takes IEEE's sign in the mode itself before it is negated. -/
def Fmt.fused (F : Fmt) (mode : RMode) (fn : Nat) (a b d : Fp) : Nat × Nat :=
  let d' := if fn % 2 = 1 then d.negate else d
  if fn < 2 then F.fma mode a b d'
  else
    let r := F.fma mode.mirror a b d'
    let z := F.fma mode a b d'
    if (F.decode r.1).isZero then (F.negBits (if r.2 = 0 then z.1 else r.1), r.2) else (F.negBits r.1, r.2)

/-- A quotient of magnitudes to more places than any format keeps: quotient, exponent, whether something was lost. -/
def divMag (m1 : Nat) (e1 : Int) (m2 : Nat) (e2 : Int) : Nat × Int × Bool :=
  let k := bitLen m2 + 70
  let n := m1 <<< k
  let q := n / m2
  (q, e1 - e2 - k, n - q * m2 != 0)

/-- IEEE division (R133, R135). -/
def Fmt.div (F : Fmt) (mode : RMode) (a b : Fp) : Nat × Nat :=
  match a, b with
  | .inf _, .inf _ => (F.nan, 1)
  | .inf x, .fin y _ _ => F.round mode (.inf (x != y))
  | .fin x _ _, .inf y => (F.pack (x != y) 0 0, 0)
  | .fin x m1 e1, .fin y m2 e2 =>
    if m2 = 0 then
      if m1 = 0 then (F.nan, 1)
      else ((F.round mode (.inf (x != y))).1, 2)
    else if m1 = 0 then (F.pack (x != y) 0 0, 0)
    else
      let (q, e, st) := divMag m1 e1 m2 e2
      F.roundMag mode false (x != y) q e st
  | _, _ => (F.nan, sigExc [a, b])

/-- Integer square root by one bit at a time, from bit `k − 1` down. -/
def isqrtGo (n : Nat) : Nat → Nat → Nat
  | 0, r => r
  | k + 1, r =>
    let r' := r + 2 ^ k
    if r' * r' ≤ n then isqrtGo n k r' else isqrtGo n k r

def isqrt (n : Nat) : Nat := isqrtGo n (bitLen n / 2 + 1) 0

/-- √(m·2^e) to more places than any format keeps. -/
def sqrtMag (m : Nat) (e : Int) : Nat × Int × Bool :=
  let k : Nat := 140 + (if (e % 2 + 2) % 2 = 1 then 1 else 0)
  let n := m <<< k
  let e' := e - k
  let r := isqrt n
  (r, e' / 2, r * r != n)

/-- 1/√(m·2^e) to more places than any format keeps. -/
def rsqrtMag (m : Nat) (e : Int) : Nat × Int × Bool :=
  let odd := (e % 2 + 2) % 2 = 1
  let m' := if odd then 2 * m else m
  let e' := if odd then e - 1 else e
  let k := bitLen m' + 80
  let n := 2 ^ (2 * k) / m'
  let r := isqrt n
  (r, -(e' / 2) - k, r * r * m' != 2 ^ (2 * k))

/-- FSQRT (R141). -/
def Fmt.sqrt (F : Fmt) (mode : RMode) (a : Fp) : Nat × Nat :=
  match a with
  | .nan s => (F.nan, if s then 1 else 0)
  | .inf n => if n then (F.nan, 1) else F.round mode a
  | .fin n m e =>
    if m = 0 then (F.pack n 0 0, 0)
    else if n then (F.nan, 1)
    else
      let (q, x, st) := sqrtMag m e
      F.roundMag mode false false q x st

/-- FRCP (R141). -/
def Fmt.rcp (F : Fmt) (mode : RMode) (a : Fp) : Nat × Nat := F.div mode (.fin false 1 0) a

/-- FRSQ (R141). -/
def Fmt.rsq (F : Fmt) (mode : RMode) (a : Fp) : Nat × Nat :=
  match a with
  | .nan s => (F.nan, if s then 1 else 0)
  | .inf n => if n then (F.nan, 1) else (0, 0)
  | .fin n m e =>
    if m = 0 then ((F.round mode (.inf n)).1, 2)
    else if n then (F.nan, 1)
    else
      let (q, x, st) := rsqrtMag m e
      F.roundMag mode false false q x st

/-- A finite value rounded to an integer, and whether it changed. -/
def roundInt (mode : RMode) (neg : Bool) (m : Nat) (e : Int) : Int × Bool :=
  let (q, nx) := roundAt mode neg m e false 0
  (sgn neg q, nx)

/-- FRND (R141): an integral value, keeping the sign of zero. -/
def Fmt.rnd (F : Fmt) (mode : RMode) (a : Fp) : Nat × Nat :=
  match a with
  | .nan s => (F.nan, if s then 1 else 0)
  | .inf _ => F.round mode a
  | .fin n m e =>
    let (q, nx) := roundInt mode n m e
    (F.pack n q.natAbs 0, if nx then 16 else 0)

/-- Order of two values that are not NaN: −1, 0, 1, with −0 = +0. -/
def Fp.cmp (a b : Fp) : Int :=
  match a, b with
  | .inf x, .inf y => if x = y then 0 else if x then -1 else 1
  | .inf x, _ => if x then -1 else 1
  | _, .inf y => if y then 1 else -1
  | .fin n1 m1 e1, .fin n2 m2 e2 =>
    let s := (addExact n1 m1 e1 (!n2) m2 e2).1
    if s < 0 then -1 else if s = 0 then 0 else 1
  | _, _ => 0

def Fp.lt (a b : Fp) : Bool := decide (Fp.cmp a b < 0)
def Fp.le (a b : Fp) : Bool := decide (Fp.cmp a b ≤ 0)
def Fp.eq (a b : Fp) : Bool := decide (Fp.cmp a b = 0)

/-- FMIN and FMAX (R136): bits of the chosen operand; −0 below +0; a NaN operand is missing. -/
def Fmt.minMax (F : Fmt) (isMax : Bool) (x y : Nat) : Nat × Nat :=
  let a := F.decode x
  let b := F.decode y
  let exc := sigExc [a, b]
  if a.isNan && b.isNan then (F.nan, exc)
  else if a.isNan then (y, exc)
  else if b.isNan then (x, exc)
  else
    let less := a.lt b || (a.eq b && a.neg? && !b.neg?)
    (if less = !isMax then x else y, exc)

/-- FCLASS (R143). -/
def Fmt.classBit (F : Fmt) (bits : Nat) : Nat :=
  match F.decode bits with
  | .nan s => if s then 8 else 9
  | .inf n => if n then 0 else 7
  | .fin n m _ =>
    if m = 0 then (if n then 3 else 4)
    else if m < 2 ^ F.fbits then (if n then 2 else 5)
    else if n then 1 else 6

/-- Conversion between formats (R28, R144). -/
def convert (dst src : Fmt) (toFp8 : Bool) (mode : RMode) (bits : Nat) : Nat × Nat :=
  match src.decode bits with
  | .nan s => (dst.nan, if s then 1 else 0)
  | .inf n =>
    if dst.e4m3 then ((if n then 0x80 else 0) + 0x7F, 1)
    else ((if n then 2 ^ dst.signBit else 0) + dst.infBits, 0)
  | .fin n m e => if m = 0 then (dst.pack n 0 0, 0) else dst.roundMag mode toFp8 n m e false

/-- Conversion to an integer of `bits` bits (R145): result as an integer and exceptions. -/
def toInteger (signed : Bool) (bits : Nat) (mode : RMode) (a : Fp) : Int × Nat :=
  let hi : Int := if signed then 2 ^ (bits - 1) - 1 else 2 ^ bits - 1
  let lo : Int := if signed then -(2 ^ (bits - 1)) else 0
  match a with
  | .nan _ => (hi, 1)
  | .inf n => (if n then lo else hi, 1)
  | .fin n m e =>
    let (q, nx) := roundInt mode n m e
    if q > hi then (hi, 1) else if q < lo then (lo, 1) else (q, if nx then 16 else 0)

/-! ### Elementary functions (R142) -/

/-- 2·atanh(1/3)·2^p: ln 2 as a fixed-point number, from below, within `terms + 1` last places. -/
def ln2Go (p : Nat) : Nat → Nat → Nat → Nat
  | 0, _, _ => 0
  | k + 1, i, pw => pw / (2 * i + 1) + ln2Go p k (i + 1) (pw / 9)

def ln2Fix (p : Nat) : Nat := 2 * ln2Go p (p / 3 + 2) 0 (2 ^ p / 3)

/-- Σ y^i/i! in fixed point. -/
def expGo (p y : Nat) : Nat → Nat → Nat → Nat
  | 0, _, _ => 0
  | k + 1, i, term => term + expGo p y k (i + 1) (((term * y) >>> p) / (i + 1))

def expFix (p y : Nat) : Nat := expGo p y (p / 2 + 10) 0 (2 ^ p)

/-- The first rounding that an enclosure [v − w, v + w]·2^x settles: `v` integer, `w` its error. -/
def Fmt.settle (F : Fmt) (neg : Bool) (v w : Nat) (x : Int) : Option (Nat × Nat) :=
  let lo := F.roundMag .rne false neg (v - w) x true
  let hi := F.roundMag .rne false neg (v + w) x true
  if v > w ∧ lo = hi then some lo else none

/-- 2^a for a finite a that is not an integer: a = ±m·2^e. -/
def Fmt.exp2At (F : Fmt) (err p : Nat) (neg : Bool) (m : Nat) (e : Int) : Option (Nat × Nat) :=
  -- n = floor a, r = a − n in (0, 1), fixed point
  let k := (-e).toNat
  let whole := m >>> k
  let frac := m - (whole <<< k)
  let n : Int := if neg then -(whole : Int) - 1 else whole
  let r := if neg then 2 ^ k - frac else frac
  let y := (((r <<< p) >>> k) * ln2Fix p) >>> p
  F.settle false (expFix p y) (err * (4 * p + 64)) (n - p)

/-- ln(1 + z)-style series: Σ z^(2i+1)/(2i+1) in signed fixed point, z given by its square and sign outside. -/
def atanhGo (p z2 : Nat) : Nat → Nat → Nat → Nat
  | 0, _, _ => 0
  | k + 1, i, pw => pw / (2 * i + 1) + atanhGo p z2 k (i + 1) ((pw * z2) >>> p)

/-- log2 of m·2^e, m not a power of two: the number is f·2^E with f in (1/√2, √2) about. -/
def Fmt.log2At (F : Fmt) (err p : Nat) (m : Nat) (e : Int) : Option (Nat × Nat) :=
  let l := bitLen m
  -- f = m / 2^(l-1) in [1, 2); halve it past 3/2
  let big := decide (2 * m > 3 * 2 ^ (l - 1))
  let ex : Int := e + l - 1 + (if big then 1 else 0)
  let den := if big then 2 ^ l else 2 ^ (l - 1)
  let neg := decide (m < den)
  let num := if neg then den - m else m - den
  let z := (num <<< p) / (m + den)
  let z2 := (z * z) >>> p
  let s := 2 * atanhGo p z2 (p / 2 + 10) 0 z
  let lg := (s <<< p) / ln2Fix p
  let v : Int := ex * 2 ^ p + (if neg then -(lg : Int) else lg)
  F.settle (decide (v < 0)) v.natAbs (err * (16 * p + 256)) (-(p : Int))

/-- atan(1/n)·2^p (alternating series). -/
def atanInvGo (n2 : Nat) : Nat → Nat → Nat → Int
  | 0, _, _ => 0
  | k + 1, i, pw =>
    (if i % 2 = 0 then (pw / (2 * i + 1) : Int) else -((pw / (2 * i + 1) : Nat) : Int)) + atanInvGo n2 k (i + 1) (pw / n2)

def piFix (p : Nat) : Nat :=
  (16 * atanInvGo 25 (p / 4 + 4) 0 (2 ^ p / 5) - 4 * atanInvGo 57121 (p / 15 + 4) 0 (2 ^ p / 239)).toNat

/-- sin and cos of r in fixed point by their Taylor series: `even` starts at 1 (cosine) or r (sine). -/
def trigGo (p r2 : Nat) : Nat → Nat → Nat → Int
  | 0, _, _ => 0
  | k + 1, i, term =>
    (term : Int) - trigGo p r2 k (i + 2) (((term * r2) >>> p) / ((i + 1) * (i + 2)))

/-- sin (or cos) of ±m·2^e by exact reduction modulo π/2 with `p` places. -/
def Fmt.trigAt (F : Fmt) (isCos : Bool) (err p : Nat) (neg : Bool) (m : Nat) (e : Int) : Option (Nat × Nat) :=
  let big := (e + bitLen m).toNat
  let q := p + big + 8
  let half := piFix q / 2
  -- x in fixed point with q places, exactly
  let x := if e + q ≥ 0 then scaleUp m (e + q) else m >>> (-(e + q)).toNat
  let n := (2 * x + half) / (2 * half)
  let r : Int := (x : Int) - (n * half : Nat)
  let rneg := decide (r < 0)
  let ra := r.natAbs >>> (q - p)
  let r2 := (ra * ra) >>> p
  let useCos := (isCos != (n % 2 == 1))
  let v := if useCos then trigGo p r2 (p / 4 + 10) 0 (2 ^ p) else trigGo p r2 (p / 4 + 10) 1 ra
  -- sign: sin x = sin r, cos r, −sin r, −cos r for n = 0 .. 3; cos x = cos r, −sin r, −cos r, sin r
  let quadNeg := if isCos then n % 4 == 1 || n % 4 == 2 else n % 4 == 2 || n % 4 == 3
  let s0 := (if useCos then false else rneg) != quadNeg
  let s1 := if isCos then s0 else s0 != neg
  F.settle s1 v.toNat (err * (64 + 4 * p)) (-(p : Int))

/-- The first answer of `f` at growing precision. -/
def searchPrec (f : Nat → Option (Nat × Nat)) : List Nat → Option (Nat × Nat)
  | [] => none
  | p :: ps => match f p with
    | some r => some r
    | none => searchPrec f ps

/-- The precisions tried (log entry 19). -/
def precisions : List Nat := [160, 320, 640, 1280]

/-- The correctly rounded result of a function that `at'` encloses at a precision, its error bound taken as it is or, with 0, as nothing: the first enclosure
that settles the rounding, and at the last precision the value found (log entry 19). -/
def rounded (at' : Nat → Nat → Option (Nat × Nat)) : Nat × Nat :=
  match searchPrec (at' 1) precisions with
  | some r => r
  | none => (at' 0 1280).getD (0, 16)

/-- FEXP2 (R142). -/
def Fmt.exp2 (F : Fmt) (bits : Nat) : Nat × Nat :=
  match F.decode bits with
  | .nan s => (F.nan, if s then 1 else 0)
  | .inf n => if n then (0, 0) else (F.infBits, 0)
  | .fin n m e =>
    if m = 0 then F.round .rne (.fin false 1 0)
    else if dyGt m e 2048 0 then
      if n then F.roundMag .rne false false 1 (-2048) true else F.roundMag .rne false false 1 2048 true
    else if e ≥ 0 ∨ m % 2 ^ (-e).toNat = 0 then
      let k : Int := if e ≥ 0 then scaleUp m e else m >>> (-e).toNat
      F.round .rne (.fin false 1 (if n then -k else k))
    else if dyGt 1 (-80) m e then
      -- 1 ± less than half a last place of any format
      ((F.round .rne (.fin false 1 0)).1, 16)
    else rounded fun err p => F.exp2At err p n m e

/-- FLOG2 (R142). -/
def Fmt.log2 (F : Fmt) (bits : Nat) : Nat × Nat :=
  match F.decode bits with
  | .nan s => (F.nan, if s then 1 else 0)
  | .inf n => if n then (F.nan, 1) else (F.infBits, 0)
  | .fin n m e =>
    if m = 0 then (2 ^ F.signBit + F.infBits, 2)
    else if n then (F.nan, 1)
    else if m = 2 ^ (bitLen m - 1) then F.round .rne (Fp.ofInt (e + bitLen m - 1) 0 false)
    else rounded fun err p => F.log2At err p m e

/-- FSIN and FCOS (R142). -/
def Fmt.trig (F : Fmt) (isCos : Bool) (bits : Nat) : Nat × Nat :=
  match F.decode bits with
  | .nan s => (F.nan, if s then 1 else 0)
  | .inf _ => (F.nan, 1)
  | .fin n m e =>
    if m = 0 then if isCos then F.round .rne (.fin false 1 0) else (bits, 0)
    else if dyGt 1 (-30) m e then
      -- x − x³/6 and 1 − x²/2 lie within half a last place
      if isCos then ((F.round .rne (.fin false 1 0)).1, 16) else (bits, 16)
    else rounded fun err p => F.trigAt isCos err p n m e

end Sys2Proof.Machine
end

