-- ==== Sys2Proof/Machine/Interval.lean ====
section
/-!
DEFINITION. Intervals (R31 to R33, R138 to R140, R146, R149 to R152): bounds as exact values, exact ends of the set of results,
rounded outward once.
-/

namespace Sys2Proof.Machine

/-- An interval as its two bounds. -/
structure Iv where
  lo : Fp
  hi : Fp
  deriving DecidableEq, Repr

/-- `valid_iv` of R32. -/
def Iv.valid (v : Iv) : Bool :=
  !v.lo.isNan && !v.hi.isNan && v.lo.le v.hi && v.lo != .inf false && v.hi != .inf true

/-- `is_empty_iv` of R32: the canonical bits only. -/
def Iv.empty? (v : Iv) : Bool := v.lo == .inf false && v.hi == .inf true

/-- An invalid operand (R32): not valid and not the canonical empty value. -/
def Iv.invalid (v : Iv) : Bool := !v.valid && !v.empty?

/-- Entire (R31). -/
def Iv.entire : Iv := ⟨.inf true, .inf false⟩

/-- The canonical empty value (R31). -/
def Iv.canonEmpty : Iv := ⟨.inf false, .inf true⟩

/-- Negate an exact bound; sum and product of exact bounds, where an infinity stands for a bound that is not reached:
0 times it is 0. -/
def addB (a b : Fp) : Fp :=
  match a, b with
  | .inf n, _ => .inf n
  | _, .inf n => .inf n
  | .fin n1 m1 e1, .fin n2 m2 e2 => let (s, e) := addExact n1 m1 e1 n2 m2 e2; Fp.ofInt s e false
  | _, _ => .nan false

def mulB (a b : Fp) : Fp :=
  if a.isZero || b.isZero then .fin false 0 0
  else (mulExact a b).getD (.fin false 0 0)

def minB (a b : Fp) : Fp := if a.le b then a else b
def maxB (a b : Fp) : Fp := if a.le b then b else a

/-- `rdn` and `rup` of R33: outward rounding with every zero written +0. -/
def Fmt.rdnB (F : Fmt) (x : Fp) : Nat :=
  let z := (F.round .rdn x).1
  if (F.decode z).isZero then 0 else z

def Fmt.rupB (F : Fmt) (x : Fp) : Nat :=
  let z := (F.round .rup x).1
  if (F.decode z).isZero then 0 else z

/-- Outward rounding of exact ends. -/
def Fmt.outward (F : Fmt) (v : Iv) : Nat × Nat := (F.rdnB v.lo, F.rupB v.hi)

def Iv.neg (v : Iv) : Iv := ⟨v.hi.negate, v.lo.negate⟩
def Iv.add (a b : Iv) : Iv := ⟨addB a.lo b.lo, addB a.hi b.hi⟩

/-- The exact set of products. -/
def Iv.mul (a b : Iv) : Iv :=
  let p := mulB a.lo b.lo
  let q := mulB a.lo b.hi
  let r := mulB a.hi b.lo
  let s := mulB a.hi b.hi
  ⟨minB (minB p q) (minB r s), maxB (maxB p q) (maxB r s)⟩

def Iv.hasZero (v : Iv) : Bool := v.lo.le (.fin false 0 0) && (Fp.fin false 0 0).le v.hi

/-- A quotient of bounds rounded in a directed mode; a bound at infinity contributes 0 as a divisor's end. -/
def Fmt.quotB (F : Fmt) (mode : RMode) (a b : Fp) : Fp :=
  match b with
  | .inf _ => .fin false 0 0
  | _ => if a.isZero then .fin false 0 0 else F.decode (F.div mode a b).1

/-- Interval division (R139): entire when 0 lies in the divisor. -/
def Fmt.divIv (F : Fmt) (a b : Iv) : Nat × Nat :=
  if b.hasZero then F.outward .entire
  else
    let q (m : RMode) (x y : Fp) := F.quotB m x y
    let lo := minB (minB (q .rdn a.lo b.lo) (q .rdn a.lo b.hi)) (minB (q .rdn a.hi b.lo) (q .rdn a.hi b.hi))
    let hi := maxB (maxB (q .rup a.lo b.lo) (q .rup a.lo b.hi)) (maxB (q .rup a.hi b.lo) (q .rup a.hi b.hi))
    F.outward ⟨lo, hi⟩

/-- The fault an interval word calls on its operands (R138): 7 INTERVAL_INVALID, then 6 EMPTY unless empties are accepted. -/
def ivFault (acceptEmpty : Bool) (vs : List Iv) : Option Nat :=
  if vs.any Iv.invalid then some 7
  else if !acceptEmpty && vs.any Iv.empty? then some 6
  else none

/-- The arithmetic words of majors 0x1A, 0x1B by function number (R139, R140): bits of the two bounds. -/
def Fmt.ivArith (F : Fmt) (fn : Nat) (a b : Iv) : Nat × Nat :=
  match fn with
  | 0 => F.outward (a.add b)
  | 1 => F.outward (a.add b.neg)
  | 2 => F.outward (a.mul b)
  | 3 => F.divIv a b
  | 4 =>
    if a.empty? then F.outward b
    else if b.empty? then F.outward a
    else F.outward ⟨minB a.lo b.lo, maxB a.hi b.hi⟩
  | 5 =>
    if a.empty? || b.empty? then F.outward .canonEmpty
    else
      let lo := maxB a.lo b.lo
      let hi := minB a.hi b.hi
      if hi.lt lo then F.outward .canonEmpty else F.outward ⟨lo, hi⟩
  | 6 => F.outward ⟨minB a.lo b.lo, minB a.hi b.hi⟩
  | _ => F.outward ⟨maxB a.lo b.lo, maxB a.hi b.hi⟩

/-- The fused words of major 0x1D (R139). -/
def Fmt.ivFused (F : Fmt) (fn : Nat) (a b d : Iv) : Nat × Nat :=
  let z := if fn % 2 = 1 then d.neg else d
  let r := (a.mul b).add z
  F.outward (if fn % 4 < 2 then r else r.neg)

/-- The midpoint of R151 as bits. -/
def Fmt.mid (F : Fmt) (v : Iv) : Nat :=
  match v.lo, v.hi with
  | .inf _, .inf _ => 0
  | .inf _, _ => 2 ^ F.signBit + F.maxBits
  | _, .inf _ => F.maxBits
  | .fin n1 m1 e1, .fin n2 m2 e2 =>
    let (s, e) := addExact n1 m1 e1 n2 m2 e2
    let z := (F.round .rne (Fp.ofInt s (e - 1) false)).1
    if (F.decode z).isZero then 0 else z
  | _, _ => 0

/-- Whether lo < m < hi (R151). -/
def Fmt.splittable (F : Fmt) (v : Iv) : Bool :=
  let m := F.decode (F.mid v)
  v.lo.lt m && m.lt v.hi

/-- The width rup(hi − lo) (R146). -/
def Fmt.wid (F : Fmt) (v : Iv) : Nat := F.rupB (addB v.hi v.lo.negate)

/-- The relations of FCMP on intervals (R149); conditions by the codes of R87. -/
def ivRel (cond : Nat) (a b : Iv) : K3 :=
  let lt (x y : Iv) : K3 := if x.hi.lt y.lo then .t else if y.hi.le x.lo then .f else .u
  let le (x y : Iv) : K3 := if x.hi.le y.lo then .t else if y.hi.lt x.lo then .f else .u
  let eq : K3 :=
    if a.lo.eq a.hi && a.hi.eq b.lo && b.lo.eq b.hi then .t
    else if a.hi.lt b.lo || b.hi.lt a.lo then .f else .u
  let bool (p : Bool) : K3 := if p then .t else .f
  match cond with
  | 0 => eq
  | 1 => match eq with
    | .t => .f | .f => .t | .u => .u
  | 2 => lt a b
  | 3 => le a b
  | 4 => lt b a
  | 5 => le b a
  | 8 => bool (a.empty? || (!b.empty? && b.lo.le a.lo && a.hi.le b.hi))
  | 9 => bool (a.empty? || b.empty? || a.hi.lt b.lo || b.hi.lt a.lo)
  | 10 => bool (b.empty? || (!a.empty? && (a.lo.lt b.lo || a.lo == .inf true) && (b.hi.lt a.hi || a.hi == .inf false)))
  | _ => bool a.empty?

/-- The relations of FCMP on points (R148) and the invalid condition they raise. -/
def ptRel (cond : Nat) (a b : Fp) : K3 × Nat :=
  let nan := a.isNan || b.isNan
  let bool (p : Bool) : K3 := if p then .t else .f
  let exc := if 2 ≤ cond ∧ cond ≤ 5 then (if nan then 1 else 0) else sigExc [a, b]
  (match cond with
   | 0 => bool (!nan && a.eq b)
   | 1 => bool (nan || !a.eq b)
   | 2 => bool (!nan && a.lt b)
   | 3 => bool (!nan && a.le b)
   | 4 => bool (!nan && b.lt a)
   | 5 => bool (!nan && b.le a)
   | 6 => bool nan
   | _ => bool (!nan), exc)

end Sys2Proof.Machine
end

