-- ==== Sys2Proof/Machine/State.lean ====
section
/-!
DEFINITION. The state of the machine: every piece of state the manual gives it, as plain data, and the state after a device
reset. Lists are keyed by numbers that the machine gives out from one counter (`State.fresh`); sparse tables list only what
differs from the value an unlisted entry has. INVENTORY.md lists each field with the rule that names it and its reset value.
-/

namespace Sys2Proof.Machine

/-- How a run stops. Every constructor is safe: the machine stops where the hardware has no defined effect.
* `noSuchMemory`: raised by an access to a frame outside every memory of the package (R12, R352), by the operations of Ops.
Safe. -/
inductive Fault where
  | noSuchMemory (node addr : Nat)
  deriving DecidableEq, Repr

/-- What the model gives no meaning.
* `notModelled`: an instruction the model has not reached (raised by exec's arms only). Safe. -/
inductive Refusal where
  | notModelled (mnemonic : String)
  deriving DecidableEq, Repr

/-! ### Threads and cohorts -/

/-- A register of a thread (R76). -/
inductive Reg where
  | g (k : Nat)
  | f (k : Nat)
  | p (k : Nat)
  deriving DecidableEq, Repr

/-- The effect of one fixed-latency result when it lands (R80, R133). -/
inductive Eff where
  | g (k : Nat) (v : Word)
  | f (k : Nat) (v : Word)
  | p (k : Nat) (v : K3)
  | sticky (bits : Nat)
  deriving DecidableEq, Repr

/-- A result on its way to a register (R80 to R82): lands at cycle `due` of the core's clock; `dep` is the moment of the reference
load that the value was computed from (R192), 0 for none. -/
structure Landing where
  due : Nat
  eff : Eff
  dep : Nat
  deriving DecidableEq, Repr

/-- The four words of the trap record (R341). -/
structure TrapRec where
  code : Word
  addr : Word
  pc : Word
  resume : Word
  deriving DecidableEq, Repr

/-- A trap a thread is due to take (R134, R160, R340). `seq` orders the words that raised them; `resume` is none for a fault
taken at a later boundary. -/
structure Due where
  seq : Nat
  code : Word
  addr : Word
  pc : Word
  resume : Option Word
  deriving DecidableEq, Repr

/-- A colour a thread holds (R235, R238, R240): the frame depth it was acquired at, and how far the acquire is. -/
inductive HoldSt where
  | sent
  | granted
  | waiting
  deriving DecidableEq, Repr

structure Held where
  colour : Nat
  depth : Nat
  st : HoldSt
  deriving DecidableEq, Repr

/-- Why a thread parks (R97): `fault` on an operation that has not been answered, `barrier` on the word at an offset of a group's region, `nbar` on an
arrival. -/
inductive Park where
  | fault (op : Nat)
  | colour (c : Nat)
  | cwait (c seq : Nat)
  | barrier (gid off : Nat) (phase : Nat) (pc addr : Word) (seq : Nat)
  | nbar (op : Nat)
  | tagAll (mask : Word) (pc : Word) (seq : Nat)
  | tagAny (mask : Word) (pc : Word) (seq : Nat)
  | mwait (tag : Nat) (pc : Word) (seq : Nat)
  deriving DecidableEq, Repr

/-- The thread's place in its life (R93): the frontier state is kept while its clause issues; `trapped` is a mark beside it. -/
inductive TSt where
  | runnable
  | frontier
  | parked
  | exited
  deriving DecidableEq, Repr

/-- A destination register of an outstanding flagged operation (R79): the operation's place in issue order, and whether another
instruction has written the register since. -/
structure Flying where
  seq : Nat
  reg : Reg
  wrote : Bool
  deriving DecidableEq, Repr

/-- A thread (R90 to R104, R119, R132, R341, R392). `tid` is the machine's own name for it;
`freed` says that its slot is free again (R100). `hashRd` and `heldRd` are `sr.hash` and `sr.held` as the words of the group in issue read them
(R71); `since` is when its clause started; `acq` the moment of its last acquire for every copy (R176), `acqC` that of its last colour grant (R239);
`retAt` when it last returned from each frame depth (R241). -/
structure Thread where
  tid : Nat
  gid : Nat
  cid : Nat
  core : Nat
  lane : Nat
  slot : Nat
  pass : Nat
  st : TSt
  trapped : Bool
  pc : Word
  stack : List (BitVec 52)
  g : Vector Word 63
  f : Vector Word 64
  p : Vector K3 8
  gdep : Vector Nat 63
  fdep : Vector Nat 64
  pdep : Vector Nat 8
  fpc : Word
  hash : Word
  hashRd : Word
  heldRd : Word
  hseq : Nat
  num : Word
  trap : TrapRec
  held : List Held
  lands : List Landing
  srPend : List (Nat × Word)
  stickyNow : Nat
  due : List Due
  parks : List Park
  stopped : Bool
  next : Option Word
  exiting : Bool
  rft : Bool
  matGrp : Option Nat
  since : Nat
  acq : Nat
  acqC : Nat
  retAt : List (Nat × Nat)
  flying : List Flying
  freed : Bool
  deriving DecidableEq, Repr

/-- The index of the thread within its cohort (R90). -/
def Thread.idx (t : Thread) : Nat := 32 * t.pass + t.lane

/-- A cohort (R90, R92, R76, R102): its first slot number, its twelve flags, its place in the scheduler. -/
structure Cohort where
  cid : Nat
  gid : Nat
  core : Nat
  slot0 : Nat
  passes : Nat
  idx : Nat
  spare : Bool
  formed : Bool
  retired : Bool
  flags : Vector Nat 12
  waitCount : Nat
  yieldNext : Bool
  yieldedAt : Option Word
  flushEnd : Bool
  deriving DecidableEq, Repr

/-- The clause a core has in issue (R73, R75): its words as fetched, where it stands, the threads that issue it, and the tag bitmap and the ring stage
as the words of the group in issue read them (R71). -/
structure Issue where
  core : Nat
  cid : Nat
  hdr : Word
  words : List Word32
  aFlag : Nat
  bFlag : Nat
  pos : Nat
  t0 : Nat
  grp : Nat
  flagged : Nat
  tids : List Nat
  tagsRd : Word
  stageRd : Word
  deriving DecidableEq, Repr

/-! ### Groups and kernels -/

/-- A convergence register (R261). -/
structure ConvReg where
  e : Nat
  s : Nat
  deriving DecidableEq, Repr

/-- A group's life (R314). -/
inductive GSt where
  | placed
  | running
  | retiring
  | retired
  deriving DecidableEq, Repr

/-- The fields of a launch record (R300 to R302). -/
structure LaunchRec where
  gx : Nat
  gy : Nat
  gz : Nat
  tx : Nat
  ty : Nat
  tz : Nat
  entry : Word
  mode : Nat
  spawn : Nat
  cvs : Nat
  tags : Nat
  nf : Nat
  ng : Nat
  width : Nat
  dies : Nat
  l1min : Nat
  accum : Nat
  scratch : Nat
  fpc : Word
  logBase : Nat
  args : List Word
  deriving DecidableEq, Repr

/-- A group (R303 to R316): its place, its granules of the pool, its tags, its convergence registers, its staged ring (R293: depth, bounds, idle count, stages in
flight), and `arrivals`, for each barrier word of its region by offset the groups that have arrived in the word's phase (R389). -/
structure Group where
  gid : Nat
  kid : Nat
  asid : Nat
  index : Nat
  core : Nat
  st : GSt
  regs : List Nat
  scratch : List Nat
  accum : List Nat
  tagBase : Nat
  ring : Option Nat
  ringLo : Nat
  ringHi : Nat
  ringIdle : Nat
  ringStarted : Nat
  children : Nat
  cv : List ConvReg
  arrivals : List (Nat × Nat)
  deriving DecidableEq, Repr

/-- A kernel's life (R304). -/
inductive KSt where
  | queued
  | rejected
  | placing
  | running
  | draining
  | retired
  deriving DecidableEq, Repr

/-- Where a kernel came from (R304, R312, R324, R367, R374): a packet; a LAUNCH, with its completion word where it names one; a message. -/
inductive Source where
  | queue (q idx : Nat)
  | launch (completion : Option Nat)
  | handler (msg scope : Nat)
  deriving DecidableEq, Repr

/-- A log stream of a recorded or replayed kernel (R393 to R397). -/
structure Stream where
  num : Nat
  pos : Nat
  used : Nat
  diverged : Bool
  deriving DecidableEq, Repr

/-- A kernel (R300 to R313, R386). `origin` is the packet that it descends from through launches and messages, which takes its errors (R344); `ring` names
the current cohort on each core in deterministic mode with its place in the order of the ring (R387), `drain` the atomics that flush points have drained and that
are still to be performed, in their order, each with the moment of its flush point (R390), `ranOn` the cores that ran its groups; `held` is the page fault
that the write of its completion word waits on (R312, R358). -/
structure Kernel where
  kid : Nat
  asid : Nat
  lr : LaunchRec
  recAddr : Nat
  st : KSt
  src : Source
  origin : Option (Nat × Nat)
  nextGroup : Nat
  retiredGroups : Nat
  errors : List (Nat × Word)
  ring : List (Nat × Nat × Nat)
  drain : List (Nat × Nat)
  streams : List Stream
  ranOn : List Nat
  held : Option Nat
  deriving DecidableEq, Repr

/-- A launch record handed to the dispatcher and not yet accepted (R311, R313): read already for a LAUNCH, still to be read for a packet;
`held` a page fault of its read (R358). -/
structure LaunchReq where
  die : Nat
  asid : Nat
  recAddr : Nat
  src : Source
  origin : Option (Nat × Nat)
  lr : Option LaunchRec
  held : Option Nat
  deriving DecidableEq, Repr

/-! ### Cores -/

/-- Where a line's home is and the leaf entry it was translated by (R181, R352, R354): `node` 0 to 3 a die, 4 the host, 8 + 4p + d die d of the
peer package p (R404); `addr` the line's physical address there; `big` whether the page has 2 MiB or more (R357), `size` the page's bytes. -/
structure Home where
  node : Nat
  addr : Nat
  entry : Word
  big : Bool
  size : Nat
  deriving DecidableEq, Repr

/-- A line in a core's L1 (R167, R182, R305): per-byte valid and dirty masks, metadata as the L1 holds it, the eviction class (R169). `since` is the
core's cycle at which it became dirty; `filled` the moment at which its oldest clean bytes were read at their home, `placed` when bytes last came
from outside the core, `used` when it was last accessed. -/
structure L1Line where
  asid : Nat
  line : Nat
  granule : Nat
  data : BitVec 512
  valid : BitVec 64
  dirty : BitVec 64
  mdata : BitVec 32
  home : Home
  cls : Nat
  since : Nat
  filled : Nat
  placed : Nat
  used : Nat
  deriving DecidableEq, Repr

/-- The state of a context slot (R336). -/
inductive SlotSt where
  | loading
  | ready
  | running
  | stopping
  | exchanging
  | saving
  deriving DecidableEq, Repr

/-- A context slot (R335): its context and its scheduler: the eight places of the active set (R101), the pending set and the queue of
its ready cohorts (R103), the swaps under way with their places and the cycle at which they are over (R102), and the place that issued last. -/
structure Slot where
  num : Nat
  asid : Nat
  st : SlotSt
  active : Vector (Option Nat) 8
  pending : List Nat
  ready : List Nat
  swapping : List (Nat × Nat × Nat)
  lastActive : Nat
  deriving DecidableEq, Repr

/-- A core tag (R280 to R282): its error state is (copy error word, reported). -/
structure Tag where
  ready : Bool
  outstanding : Nat
  err : Option (Word × Bool)
  deriving DecidableEq, Repr

/-- The state of a weight slot (R259). -/
inductive WSt where
  | empty
  | loading
  | loaded
  deriving DecidableEq, Repr

/-- A weight slot of a context on a core (R259): the tile as the decoder read it, each list entry one read as a little-endian number: the
K rows (CB2: the rows of 512 codewords), the scale rows of the 32 blocks, and for CB2 the shape table beside each codeword row. -/
structure WSlot where
  asid : Nat
  num : Nat
  st : WSt
  fmt : Nat
  data : List Nat
  scale : List Nat
  book : List Nat
  deriving DecidableEq, Repr

/-- An entry of the atomic buffer (R388) is an operation that has passed its checks; the buffer lists their numbers. -/
structure Core where
  id : Nat
  clock : Nat
  slots : List Slot
  l1 : List L1Line
  tags : Vector Tag 64
  tids : List ((Nat × Nat) × BitVec 512)
  wslots : List WSlot
  restoring : Bool
  tq : List (Nat × List (BitVec 48))
  atomBuf : List Nat
  switchReq : List Nat
  exchange : Option Nat
  deriving DecidableEq, Repr

/-! ### Operations under way -/

/-- Where a loaded value goes (R164, R131). -/
inductive LoadDst where
  | gS (d bytes : Nat)
  | gU (d bytes : Nat)
  | gQ (d : Nat)
  | fS (d : Nat)
  | fD (d : Nat)
  | fI (d : Nat)
  | fJ (d : Nat)
  deriving DecidableEq, Repr

/-- The read-modify-write functions of the atomics (R172). -/
inductive AOp where
  | add
  | max
  | min
  | swap
  | cas
  | and
  | or
  | xor
  | maxu
  | minu
  deriving DecidableEq, Repr

/-- What an operation under way is. Addresses and operands were read at issue (R79). -/
inductive OpKind where
  | load (dst : LoadDst) (size : Nat) (pol : Option Word)
  | loadS (dst : LoadDst) (size : Nat)
  | store (data : Nat) (size : Nat) (pol : Option Word) (hdr : Bool)
  | storeS (data : Nat) (size : Nat)
  | stpl (planes : Nat) (src : Word)
  | mwr (v : Word)
  | mrd (d : Nat)
  | stref (v : Word)
  | atomic (op : AOp) (bytes : Nat) (v e : Word) (d : Nat) (scRank : Nat)
  | atomicS (op : AOp) (bytes : Nat) (v e : Word) (d : Nat)
  | readMeta (what d : Nat) (pol : Option Word)
  | pub (scope d : Nat)
  | colr (c : Nat) (left : Nat)
  | wbl1 (len : Nat)
  | invl1 (len : Nat)
  | pfl (pol : Option Word)
  | acqr (victim len : Nat)
  | fence (pred succ scope : Nat)
  | divide (effs : List Eff)
  | fpDivSqrt (effs : List Eff) (fault : Option Due)
  | bisect (d k : Nat) (typeJ : Bool) (lo hi : Nat) (fault : Option Due) (childPc : Option Word)
  | sign (cv : Nat)
  | cvset (cv e : Nat)
  | binit (e : Nat)
  | arrive (n : Nat)
  | bwait (phase : Nat)
  | arrivew (n : Nat)
  | binval
  | nbar (scope : Nat)
  | tqpush (v : BitVec 48)
  | tqpop (d attempt : Nat)
  | amsend (d target : Nat)
  | launch (d : Nat) (completion : Option Nat)
  | fetch
  deriving DecidableEq, Repr

/-- How far an operation is: `held` on a page fault with the number of its fault record (0: no record written yet), `blocked` behind a
colour's acquire, `performed` with its result not yet delivered. -/
inductive OpSt where
  | queued
  | held (recSeq : Nat)
  | blocked (colour : Nat)
  | performed (v : Nat)
  | faulted (d : Due)
  deriving DecidableEq, Repr

/-- An operation under way. `use` is the flag use it finishes (R77), `seq` its place in issue order, `hseq` the sequence number it took
for the store hash (R392), `acq` and `acqC` the moments before which no copy that it reads may have been filled (R176, R192, R239), `dep` the moment of the
reference load that its result stems from through the registers it read (R191), `lost` the bytes of a store that a store of a higher index of its issue group
has written (R161), `met` whether it has met its line's colour (R238), `depth` the frame depth it was issued at, `rewalk` whether it is translated by the
table and not by the TLB's entry (R355). -/
structure Op where
  id : Nat
  tid : Nat
  gid : Nat
  core : Nat
  asid : Nat
  pc : Word
  hdr : Word
  use : Option Nat
  seq : Nat
  addr : Word
  kind : OpKind
  st : OpSt
  hseq : Nat
  acq : Nat
  acqC : Nat
  dep : Nat
  grpSeq : Nat
  lost : Nat
  met : Bool
  depth : Nat
  rewalk : Bool
  deriving DecidableEq, Repr

/-- One increment of a flag, and the threads it still waits for (R77). -/
structure FlagUse where
  id : Nat
  cid : Nat
  flag : Nat
  left : List Nat
  deriving DecidableEq, Repr

/-! ### The matrix engine and the copy unit -/

/-- A matrix group (R266): `closed` holds the tag it was committed on, none inside for a commit by EXIT. -/
structure MGroup where
  id : Nat
  tid : Nat
  gid : Nat
  core : Nat
  queued : Nat
  closed : Option (Option Nat)
  done : Bool
  fault : Option Word
  reported : Bool
  deriving DecidableEq, Repr

inductive CmdKind where
  | tdef (t : Nat) (addr : Word) (bias : Int)
  | mldb (t slot : Nat)
  | mmq (a m afirst mfirst slot pa count : Nat)
  | mzero (t first count : Nat)
  | mxst (t first count out : Nat) (dst : Word)
  deriving DecidableEq, Repr

/-- An engine command that has not ended (R263 to R272). `snap` holds what its unit has read for the row in progress; `stop` the row at which a context
switch has it stop (R279). -/
structure Cmd where
  id : Nat
  tid : Nat
  gid : Nat
  core : Nat
  asid : Nat
  grp : Nat
  index : Nat
  seq : Nat
  cv : Option Nat
  kind : CmdKind
  started : Bool
  progress : Nat
  snap : List Nat
  stop : Option Nat
  deriving DecidableEq, Repr

inductive CopyKind where
  | copy (ring : Option (Nat × Nat))
  | copym (mask : Nat)
  | copyb (barrier : Nat)
  | gather (esize count : Nat) (index : Word)
  | pfr
  deriving DecidableEq, Repr

/-- A copy, gather or range prefetch under way (R286 to R292). `tag` is the core tag; `held` a page fault it waits on, `denied` the page at which DENY
ended that wait (R360). -/
structure Copy where
  id : Nat
  tid : Nat
  gid : Nat
  core : Nat
  asid : Nat
  seq : Nat
  pc : Word
  kind : CopyKind
  dst : Word
  dstS : Bool
  src : Word
  srcS : Bool
  len : Nat
  tag : Option Nat
  started : Bool
  held : Option Nat
  denied : Option Nat
  acq : Nat
  acqC : Nat
  deriving DecidableEq, Repr

/-! ### Monitors and the walker -/

/-- A colour monitor at its home slice (R235, R236). -/
structure Monitor where
  asid : Nat
  colour : Nat
  owner : Option (Nat × Nat)
  entry : List (Nat × Nat)
  waiters : List (Nat × Nat)
  deriving DecidableEq, Repr

inductive MsgKind where
  | acquire
  | release
  | wait
  | notify
  | notifyAll
  deriving DecidableEq, Repr

/-- A message to a monitor, in the order it was sent (R242); `grp` names the issue group of an acquire, 0 for other messages. -/
structure Msg where
  id : Nat
  tid : Nat
  gid : Nat
  asid : Nat
  colour : Nat
  depth : Nat
  kind : MsgKind
  grp : Nat
  deriving DecidableEq, Repr

/-- A grant (true) or queued reply on its way to a thread (R236, R243). -/
structure Reply where
  id : Nat
  tid : Nat
  asid : Nat
  colour : Nat
  depth : Nat
  grant : Bool
  deriving DecidableEq, Repr

/-- A release or wait that waits for the steps of R241 before its message is sent. -/
structure Rel where
  id : Nat
  tid : Nat
  gid : Nat
  asid : Nat
  core : Nat
  colour : Nat
  depth : Nat
  seq : Nat
  wait : Bool
  deriving DecidableEq, Repr

/-- A walk of the eclosion walker (R222 to R226). `obj` is the object under way: its header, its length in words and the next line to raise; `lines` the
lines that the walk has raised; `spilled` counts the entries written to the walk area (R224); `absent` is the address of the page fault that the
walk waits on. -/
structure Walk where
  id : Nat
  op : Nat
  quad : Nat
  core : Nat
  asid : Nat
  tid : Nat
  scope : Nat
  queue : List Nat
  raised : Nat
  obj : Option (Nat × Nat × Nat)
  lines : List Nat
  spilled : Nat
  absent : Option Nat
  deriving DecidableEq, Repr

/-! ### Memory -/

/-- A leaf entry in a TLB (R354): the page's virtual base and size. -/
structure TlbEntry where
  die : Nat
  asid : Nat
  base : Nat
  size : Nat
  entry : Word
  deriving DecidableEq, Repr

/-- A die's copy of a line homed elsewhere (R183): L2 and remote-data cache together, filled at moment `filled`; its eviction class (R169) and when it
was last accessed. -/
structure DieCopy where
  die : Nat
  asid : Nat
  line : Nat
  data : BitVec 512
  valid : BitVec 64
  mdata : BitVec 32
  home : Home
  filled : Nat
  cls : Nat
  used : Nat
  deriving DecidableEq, Repr

/-- A line of a die's own memory that its L2 holds (R12, R355): its bytes are the home's, so only that it is there, and by which entry, is kept. -/
structure OwnLine where
  die : Nat
  asid : Nat
  line : Nat
  home : Home
  cls : Nat
  used : Nat
  deriving DecidableEq, Repr

/-- Dirty bytes on their way from an L1 to its die's L2 (R180). -/
structure WriteBack where
  id : Nat
  core : Nat
  asid : Nat
  line : Nat
  data : BitVec 512
  mask : BitVec 64
  kinds : BitVec 32
  home : Home
  cls : Nat
  deriving DecidableEq, Repr

/-- Bytes of a die's copy on their way to the home slice (R183, R188). -/
structure WriteThrough where
  id : Nat
  die : Nat
  asid : Nat
  line : Nat
  data : BitVec 512
  mask : BitVec 64
  kinds : BitVec 32
  home : Home
  deriving DecidableEq, Repr

/-- A write that waits for the way to its place: of the device at a virtual address, `n` bytes or an add to a word, or of the host at a frame
(R377, R378). -/
inductive LateWrite where
  | put (asid va n v : Nat)
  | add (asid va v : Nat)
  | host (node addr : Nat) (data : List Byte)
  deriving DecidableEq, Repr

/-- A request to a peer package whose acknowledgement has not arrived: the operation or write-through that it serves, the plane it was sent on, none while no plane
is up, and its sequence number (R381, R382). -/
structure PeerReq where
  id : Nat
  pkg : Nat
  plane : Option Nat
  line : Nat
  seq : Nat
  deriving DecidableEq, Repr

/-- What a package's record keeps of an atomic or a write-through of another package (R382), `pkg` the other of the two than this one: its sequence number, and an atomic's
old value. -/
structure PeerDone where
  pkg : Nat
  seq : Nat
  old : Nat
  deriving DecidableEq, Repr

/-- A migration counter (R361). -/
structure MigCount where
  die : Nat
  asid : Nat
  region : Nat
  count : Nat
  armed : Bool
  deriving DecidableEq, Repr

/-- Memory as a whole: bytes keyed node·2^52 + physical address (nodes as in `Home`), an unlisted byte reading 0; line metadata (R210) keyed by
line; poisoned lines, and lines whose next read is uncorrectable (R363); what the caches and channels hold; and for each die and context the latest
acquire that a release there has made visible to others (R194); the migration requests with the number of those written to memory (R361); where the side table
of each die's dirty bitmaps lies, with the bitmaps of dies whose table has not been placed (R357); the writes that wait for the way to their places; and of
the requests to peers the sequence number, those not acknowledged, the records that the peers keep of them, and the record that this package keeps of the requests
of its peers (R382). -/
structure Mem where
  bytes : List Host.Cell
  lineMeta : List (Nat × BitVec 32)
  poison : List Nat
  latent : List Nat
  relAcq : List (Nat × Nat)
  tlb : List TlbEntry
  copies : List DieCopy
  own : List OwnLine
  wbs : List WriteBack
  wts : List WriteThrough
  dirtyMap : List (Nat × Nat)
  sideBase : List (Nat × Nat)
  late : List LateWrite
  peerSeq : Nat
  unacked : List PeerReq
  peerLog : List PeerDone
  peerIn : List PeerDone
  mig : List MigCount
  migHigh : Nat
  migLow : Nat
  migBase : Nat
  migDone : Nat
  migBuf : List (Nat × Nat × Nat × Nat)
  deriving DecidableEq, Repr

/-- The scratch, accumulator and register granules of all cores, by physical place in the pool: core·2^21 + byte, an
unlisted byte reading 0; the live map (R326) by physical 8-byte word; which context last held each granule (R305); the words with an uncorrectable
error (R277). -/
structure Pool where
  bytes : List Host.Cell
  live : List Nat
  lastAsid : List (Nat × Nat)
  bad : List Nat
  deriving DecidableEq, Repr

/-! ### Contexts, queues, firmware, device -/

/-- A page-fault record (R359), kept as its fields. -/
structure FaultRec where
  asid : Nat
  seq : Nat
  va : Nat
  kind : Nat
  level : Nat
  mf : Bool
  core : Nat
  lanes : Nat
  passes : Nat
  count : Nat
  deriving DecidableEq, Repr

/-- The saved image of a group's regions while its context is absent on its core (R338). -/
structure Saved where
  core : Nat
  asid : Nat
  gid : Nat
  bytes : List Host.Cell
  live : List Nat
  deriving DecidableEq, Repr

/-- A context (R322, R335, R340, R351, R359); `savedOn` the cores whose chrysalis area holds state of it, with the slot saved there (R338);
`fbDone` is the index up to which fault records have been written to memory. -/
structure Ctx where
  asid : Nat
  ptDie : Nat
  ptBase : Nat
  handler : Word
  table : List Nat
  walkArea : Nat
  monArea : Nat
  saveArea : Nat
  fbBase : Nat
  fbLog : Nat
  fbRead : Nat
  fbWrite : Nat
  fbDone : Nat
  fbSeq : Nat
  fbOverflow : Bool
  fbHeld : List FaultRec
  savedOn : List (Nat × Slot)
  alive : Bool
  deriving DecidableEq, Repr

/-- A message entry of a core (R324), with the handler's record that its acceptance found valid. -/
structure AMsg where
  id : Nat
  core : Nat
  asid : Nat
  handler : Nat
  lr : LaunchRec
  origin : Option (Nat × Nat)
  payload : List Word
  sender : Word
  scope : Nat
  deriving DecidableEq, Repr

inductive QSt where
  | created
  | mapped
  | running
  | unmapped
  | destroyed
  deriving DecidableEq, Repr

/-- A started packet of a host command queue or a bulk queue (R299, R368): whether its effect has ended and with which cause of failure, a
page fault it waits on, whether it has completed; `since` orders the packets by their start. -/
structure Pkt where
  idx : Nat
  since : Nat
  ended : Bool
  cause : Nat
  held : Option Nat
  done : Bool
  deriving DecidableEq, Repr

/-- A host command queue (R366 to R372): `since` orders the queues by how long they hold their slots; `listed` the map list of R372. -/
structure HQueue where
  id : Nat
  die : Nat
  hdr : Nat
  asid : Nat
  st : QSt
  slot : Option Nat
  since : Nat
  listed : Bool
  tokens : Word
  doneIdx : Nat
  started : List Pkt
  deriving DecidableEq, Repr

/-- A bulk queue (R297 to R299). -/
structure BulkQ where
  id : Nat
  die : Nat
  hdr : Nat
  asid : Nat
  awake : Bool
  doneIdx : Nat
  nextIdx : Nat
  running : List Pkt
  deriving DecidableEq, Repr

/-- A Kiln core (R374), machine mode only: its registers, and of the control registers of RISC-V's machine mode those that hold something (log entry 24);
`reserved` is the place of a load-reserved. -/
structure KilnCore where
  x : Vector Word 32
  pc : Word
  mstatus : Word
  mie : Word
  mip : Word
  mscratch : Word
  mcause : Word
  mtval : Word
  mepc : Word
  mtvec : Word
  mcycle : Word
  minstret : Word
  reserved : Option Nat
  stalled : Option Nat
  deriving DecidableEq, Repr

/-- A page command whose completion is still to be written (R356): the words that go to its completion address; for REPLAY the number up to which records are replayed
and the operations that it tried again; the write-throughs of its range that have still to arrive; and, where its effect waits for the way to a table or a frame (R377,
R378), the four words of the command. -/
structure PageCmd where
  asid : Nat
  upTo : Nat
  waits : List Nat
  wts : List Nat
  todo : Option (Word × Word × Word × Word)
  addr : Nat
  words : List Nat
  deriving DecidableEq, Repr

/-- Kiln (R374): core 4·d + i is core i of die d; SRAM keyed die·2^19 + byte; one word of event lines for each die; where the top table of
ASID 0 lies (R354); and the page commands that have not completed, in the order of their ring (R356). -/
structure Kiln where
  ptDie : Nat
  ptBase : Nat
  cores : Vector KilnCore 16
  sram : List Host.Cell
  events : Vector Word 4
  pages : List PageCmd
  deriving DecidableEq, Repr

inductive LinkSt where
  | down
  | training
  | up
  | failed
  deriving DecidableEq, Repr

/-- A link (R378, R379): 0 to 15 scale-up, 16 to 27 scale-out, 28 the host port. -/
structure Link where
  st : LinkSt
  en : Bool
  rate : Nat
  peer : Nat
  replays : Nat
  deriving DecidableEq, Repr

/-- Where the device stands between power-good and full service (R377). -/
inductive Service where
  | maskRom
  | badImage
  | imageGood
  | reduced
  | full
  deriving DecidableEq, Repr

/-- The clock clamps of a quad (R20): steps taken for each cause, whether the cause's condition holds, the clock the quad runs
at (MHz) and whether a change waits for its boundary (R21). -/
structure Clamp where
  pStep : Nat
  pOn : Bool
  tStep : Nat
  tOn : Bool
  mhz : Nat
  deriving DecidableEq, Repr

/-- An entry of the host event ring (R373). -/
structure Event where
  kind : Nat
  id : Nat
  payload : Nat
  seq : Nat
  deriving DecidableEq, Repr

/-- The event ring (R373): where it lies in host memory, its size, its indexes with the one up to which entries have been written to memory, and the entries
that the host has not read. -/
structure EvRing where
  base : Nat
  log : Nat
  read : Nat
  write : Nat
  done : Nat
  seq : Nat
  dropped : Nat
  entries : List Event
  deriving DecidableEq, Repr

/-- A pod job (R383): its members, and those that have reported the completion of the phase in progress. -/
structure PodJob where
  job : Nat
  kid : Nat
  members : List Nat
  reports : List Nat
  deriving DecidableEq, Repr

/-- Device-wide state. `repair` is the image whose HBM repair data is applied (R377); `bindings` the contexts that the driver has bound to pod jobs (R322);
`irqs` the vectors within 2 µs of their last interrupt, with whether one more is merged, and `irq` counts the interrupts sent (R376). -/
structure Dev where
  service : Service
  window : Bool
  status : Nat
  floor : List Nat
  clamps : Vector Clamp 128
  powerLimit : Nat
  hbm : Vector Bool 8
  rdcGib : Vector Nat 4
  links : Vector Link 29
  modules : Vector Bool 4
  heartbeat : Bool
  pkgid : Nat
  timestamp : Nat
  windows : Vector (Nat × Nat) 8
  ring : EvRing
  jobs : List PodJob
  bindings : List (Nat × Nat)
  rotation : Nat
  irq : Nat
  irqs : List (Nat × Bool)
  repair : Option Nat
  deriving DecidableEq, Repr

/-! ### Snapshots and the environment -/

/-- What the chrysalis area of a context holds for a core (R335, R338): its tid table, its weight slots, its task queues and the state of its groups' tags. -/
structure CoreImage where
  core : Nat
  tids : List ((Nat × Nat) × BitVec 512)
  wslots : List WSlot
  tq : List (Nat × List (BitVec 48))
  tags : List (Nat × Tag)
  deriving DecidableEq, Repr

/-- A copy of a context as a snapshot has it (R384, R385): its record, its chrysalis and monitor areas, its fault buffer and the records of its queues, as the machine keeps
them while it is absent on every core (log entry 9). `fresh` is the counter at the snapshot. -/
structure CtxImage where
  fresh : Nat
  ctx : Ctx
  threads : List Thread
  cohorts : List Cohort
  groups : List Group
  kernels : List Kernel
  launches : List LaunchReq
  ops : List Op
  uses : List FlagUse
  mgroups : List MGroup
  cmds : List Cmd
  monitors : List Monitor
  msgs : List Msg
  replies : List Reply
  rels : List Rel
  saved : List Saved
  faultRecs : List FaultRec
  amsgs : List AMsg
  cores : List CoreImage
  queues : List HQueue
  bulks : List BulkQ
  deriving DecidableEq, Repr

/-- What a request of a peer package asks of a line of this one's memory (R382): a write-through merges the bytes of a mask with their kinds; an atomic at an offset, with
the size of its word and its two operands; a read. -/
inductive PeerWork where
  | merge (data : BitVec 512) (mask : BitVec 64) (kinds : BitVec 32)
  | atomic (op : AOp) (off bytes : Nat) (v e : Word)
  | read
  deriving DecidableEq, Repr

/-- What happens next when the run is told by its environment: a row of the table without bits, or which core issues (R101), or something
that the manual says can happen at any time and the table has no row for: a line leaves an L1 or an L2 to make room (R169, R182, R183); an
uncorrectable error strikes a line of memory, or a word of a pool (R277, R363); a link replays a flit (R379); the 2 µs of a host interrupt pass (R376);
the driver binds a context of a pod job, or unbinds it (R322); the loader writes a data image, each line with its kinds and colour (R62);
another package of a pod job reports the completion of its phase (R383), or sends this one a request (R381, R382); the driver loads a snapshot of a context (R384). The list of these is
the outside world and the free interleaving of the machine's agents, as plain data. -/
inductive Agent where
  | act (i : Instr)
  | core (c : Nat)
  | evictL1 (core asid line : Nat)
  | evictL2 (die asid line : Nat)
  | memError (node addr : Nat)
  | poolError (core byte : Nat)
  | linkReplay (link : Nat)
  | irqWindow (vector : Nat)
  | bindJob (job asid : Nat) (bound : Bool)
  | loadImage (asid : Nat) (base : Word) (lines : List (BitVec 512 × BitVec 32))
  | podReport (job pkg : Nat)
  | peerRequest (pkg seq node addr : Nat) (what : PeerWork)
  | loadSnapshot (img : CtxImage)
  deriving DecidableEq, Repr

/-- The state of the machine. `turn` is the core that issues (0 to 511 a core, die·128 + core; 512 + k the Kiln core k);
`agenda` what the environment and the interleaving do next; `fresh` the machine's own counter, from which it names new things and
takes free values (not the manual's; log entry 3). -/
structure State where
  agenda : List Agent
  turn : Nat
  fresh : Nat
  threads : List Thread
  cohorts : List Cohort
  issues : List Issue
  groups : List Group
  kernels : List Kernel
  launches : List LaunchReq
  cores : List Core
  ops : List Op
  uses : List FlagUse
  mgroups : List MGroup
  cmds : List Cmd
  cpys : List Copy
  monitors : List Monitor
  msgs : List Msg
  replies : List Reply
  rels : List Rel
  walks : List Walk
  mem : Mem
  pool : Pool
  saved : List Saved
  faultRecs : List FaultRec
  ctxs : List Ctx
  amsgs : List AMsg
  queues : List HQueue
  bulks : List BulkQ
  kiln : Kiln
  dev : Dev
  deriving DecidableEq, Repr

/-! ### Reset -/

/-- A link after reset (R379): every field 0. -/
def Link.reset : Link := { st := .down, en := false, rate := 0, peer := 0, replays := 0 }

/-- A Kiln core after reset: R374 states no value for its registers (log entry 4). -/
def KilnCore.reset : KilnCore :=
  { x := .replicate 32 0, pc := 0, mstatus := 0, mie := 0, mip := 0, mscratch := 0, mcause := 0, mtval := 0, mepc := 0, mtvec := 0, mcycle := 0,
    minstret := 0, reserved := none, stalled := none }

/-- A clear tag (R280). -/
def Tag.clear : Tag := { ready := false, outstanding := 0, err := none }

/-- A core that has just left reset (R109, R119, R305, R336): its counter at 0, nothing resident. -/
def Core.fresh (c : Nat) : Core :=
  { id := c, clock := 0, slots := [], l1 := [],
    tags := .replicate 64 .clear, tids := [], wslots := [], restoring := false, tq := [], atomBuf := [], switchReq := [],
    exchange := none }

/-- Memory after reset: nothing listed (log entry 5). -/
def Mem.reset : Mem :=
  { bytes := [], lineMeta := [], poison := [], latent := [], relAcq := [], tlb := [], copies := [], own := [], wbs := [], wts := [], dirtyMap := [], sideBase := [],
    late := [], peerSeq := 0, unacked := [], peerLog := [], peerIn := [], mig := [],
    migHigh := 65535, migLow := 0, migBase := 0, migDone := 0, migBuf := [] }

/-- The device after a device reset: step 1 of R377, the mask ROM running and the download window open. -/
def Dev.reset : Dev :=
  { service := .maskRom, window := true, status := 0, floor := [],
    clamps := .replicate 128 { pStep := 0, pOn := false, tStep := 0, tOn := false, mhz := 350 },
    powerLimit := 2400, hbm := .replicate 8 false, rdcGib := .replicate 4 8, links := .replicate 29 Link.reset,
    modules := .replicate 4 true, heartbeat := true, pkgid := 0, timestamp := 0, windows := .replicate 8 (0, 0),
    ring := { base := 0, log := 6, read := 0, write := 0, done := 0, seq := 0, dropped := 0, entries := [] },
    jobs := [], bindings := [], rotation := 0, irq := 0, irqs := [], repair := none }

/-- The machine right after a device reset (R377): no context, no kernel, no thread; the cores' counters at 0. -/
def State.reset : State :=
  { agenda := [], turn := 0, fresh := 1, threads := [], cohorts := [], issues := [], groups := [], kernels := [],
    launches := [], cores := [], ops := [], uses := [], mgroups := [], cmds := [], cpys := [], monitors := [], msgs := [],
    replies := [], rels := [], walks := [], mem := Mem.reset,
    pool := { bytes := [], live := [], lastAsid := [], bad := [] }, saved := [], faultRecs := [], ctxs := [], amsgs := [],
    queues := [], bulks := [],
    kiln := { ptDie := 0, ptBase := 0, cores := .replicate 16 KilnCore.reset, sram := [], events := .replicate 4 0, pages := [] }, dev := Dev.reset }

end Sys2Proof.Machine
end

