-- ==== Sys2Proof/Machine/Flags.lean ====
section
/-!
DEFINITION. Predicates and status: Kleene logic (R30), guards (R66), the combining types of the compares (R122, R123), predicate
logic (R124), and the fields of `sr.fpc` (R132, R133).
-/

namespace Sys2Proof.Machine

/-- `k_not` of R30. -/
def kNot : K3 → K3
  | .f => .t
  | .t => .f
  | .u => .u

/-- `k_and` of R30. -/
def kAnd (a b : K3) : K3 :=
  match a, b with
  | .f, _ => .f
  | _, .f => .f
  | .t, .t => .t
  | _, _ => .u

/-- `k_or` of R30. -/
def kOr (a b : K3) : K3 :=
  match a, b with
  | .t, _ => .t
  | _, .t => .t
  | .f, .f => .f
  | _, _ => .u

/-- `kx` of R122, PXOR of R124. -/
def kXor (a b : K3) : K3 :=
  match a, b with
  | .u, _ => .u
  | _, .u => .u
  | .t, .t => .f
  | .f, .f => .f
  | _, _ => .t

def K3.ofBool (b : Bool) : K3 := if b then .t else .f

/-- The two-bit encoding of R76. -/
def K3.code : K3 → Nat
  | .f => 0
  | .t => 1
  | .u => 2

/-- Reading the two-bit encoding; 0b11 reads as U (R76, R117). -/
def K3.ofCode (n : Nat) : K3 :=
  match n % 4 with
  | 0 => .f
  | 1 => .t
  | _ => .u

/-- Predicate register k; p0 reads T (R76). -/
def Thread.pred (t : Thread) (k : Nat) : K3 := if k = 0 then .t else t.p[k]?.getD .f

/-- The guard's value with its sense applied (R66, R106, R123). -/
def Thread.guardVal (t : Thread) (g : BitVec 4) : K3 :=
  let v := t.pred (g.toNat % 8)
  if g.toNat / 8 = 1 then kNot v else v

/-- A guarded word executes only when its guard is T (R66). -/
def Thread.guard (t : Thread) (g : BitVec 4) : Bool := t.guardVal g == .t

/-- The two predicates a compare writes (R122): type 1 with a guard that is T or U; `c` is the guard's value. -/
def combine (ctype : Nat) (c p1 p2 r : K3) : K3 × K3 :=
  let wit := if r = .u then .t else p2
  match ctype with
  | 0 => (r, kNot r)
  | 1 => (kAnd c r, kNot (kAnd c r))
  | 2 => (kAnd p1 r, wit)
  | 3 => (kOr p1 r, wit)
  | 4 => (kAnd p1 (kNot r), wit)
  | 5 => (kOr p1 (kNot r), wit)
  | 6 => (kXor p1 r, wit)
  | _ => (kNot (kXor p1 r), wit)

/-- The integer relations of ICMP (R121). -/
def icmpRel (cond : Nat) (a b : Word) : K3 :=
  K3.ofBool (match cond with
    | 0 => a == b
    | 1 => a != b
    | 2 => a.slt b
    | 3 => a.sle b
    | 4 => b.slt a
    | 5 => b.sle a
    | 6 => a.ult b
    | 7 => a.ule b
    | 8 => b.ult a
    | 9 => b.ule a
    | 10 => a &&& b != 0
    | _ => a &&& b == 0)

/-- The bits of `sr.fpc` that are not reserved (R132). -/
def fpcMask : Word := 0x1F1F03

/-- The point rounding mode RM (R132). -/
def Thread.rmode (t : Thread) : RMode := RMode.ofBits (t.fpc.toNat % 4)

/-- The trap enables, in the order of the exception bits (R132). -/
def Thread.enables (t : Thread) : Nat := t.fpc.toNat / 2 ^ 8 % 32

/-- The exceptions of a set that are enabled (R133). -/
def Thread.trapped? (t : Thread) (exc : Nat) : Nat := exc &&& t.enables

/-- ORing sticky bits in (R133). -/
def Thread.orSticky (t : Thread) (exc : Nat) : Thread :=
  { t with fpc := t.fpc ||| BitVec.ofNat 64 (exc % 32 * 2 ^ 16) }

end Sys2Proof.Machine
end

