-- ==== Sys2Proof/Machine/Operands.lean ====
section
/-!
DEFINITION. Operands: registers with their hard-wired behaviour (R76, R131), the literal word (R68, R69), the scratch address
(R158, R165), the policy operand (R168, R169), tile references and control words (R258, R284, R292), the barrier operands.
-/

namespace Sys2Proof.Machine

/-- General register k: g0 reads 0 (R76). -/
def Thread.gr (t : Thread) (k : Nat) : Word := if k = 0 then 0 else t.g[k]?.getD 0

/-- Floating-point register k (R76). -/
def Thread.fr (t : Thread) (k : Nat) : Word := t.f[k]?.getD 0

/-- A write to a general register: g0 ignores it (R76). -/
def Thread.setG (t : Thread) (k : Nat) (v : Word) : Thread :=
  if k = 0 then t else { t with g := t.g.setIfInBounds k v }

def Thread.setF (t : Thread) (k : Nat) (v : Word) : Thread := { t with f := t.f.setIfInBounds k v }

/-- A write to a predicate register: p0 ignores it (R76). -/
def Thread.setP (t : Thread) (k : Nat) (v : K3) : Thread :=
  if k = 0 then t else { t with p := t.p.setIfInBounds k v }

/-- How a literal is widened (R69). -/
inductive Widen where
  | sign
  | zero
  deriving DecidableEq, Repr

/-- The word of the clause at place `n`, counted from the header (R70, R72). -/
def Issue.wordAt (iss : Issue) (n : Nat) : Word32 := iss.words[n]?.getD 0

/-- The literal word: the one after the word in issue (R68). -/
def Issue.literal (iss : Issue) (w : Widen) : Word :=
  match w with
  | .sign => (iss.wordAt (iss.pos + 1)).signExtend 64
  | .zero => (iss.wordAt (iss.pos + 1)).zeroExtend 64

/-- A general-register source field: 63 reads the literal (R68). -/
def srcG (iss : Issue) (t : Thread) (w : Widen) (k : BitVec 6) : Word :=
  if k.toNat = 63 then iss.literal w else t.gr k.toNat

/-- The address of the packet that holds the word in issue (R106). -/
def Issue.pk (iss : Issue) : Word := iss.hdr + BitVec.ofNat 64 (12 * (iss.pos / 3))

/-- The address of the word in issue (R341). -/
def Issue.wordPc (iss : Issue) : Word := iss.hdr + BitVec.ofNat 64 (4 * iss.pos)

/-- The fall-through address of the clause (R95). -/
def Issue.fall (iss : Issue) : Word := iss.hdr + BitVec.ofNat 64 (4 * iss.words.length)

/-- The number of passes whose cycle a thread issues in: its pass (R90). The cycle of its issue (R75). -/
def Issue.cycle (iss : Issue) (t : Thread) : Nat := iss.t0 + t.pass

/-! ### Scratch addresses (R158) -/

structure ScrAddr where
  reserved : Bool
  group : Nat
  x : Bool
  corePos : Nat
  offset : Nat
  deriving DecidableEq, Repr

def ScrAddr.ofWord (a : Word) : ScrAddr :=
  let n := a.toNat
  { reserved := n / 2 ^ 52 != 0, group := n / 2 ^ 24 % 2 ^ 28, x := n / 2 ^ 23 % 2 == 1,
    corePos := n / 2 ^ 21 % 4, offset := n % 2 ^ 21 }

/-- With X = 0, bits 51:21 must be zero (R158). -/
def ScrAddr.badOwn (a : ScrAddr) : Bool := !a.x && (a.group != 0 || a.corePos != 0)

/-! ### Policy (R168, R169) -/

structure Policy where
  l2na : Bool
  l1na : Bool
  ro : Bool
  t2 : Nat
  t1 : Nat
  deriving DecidableEq, Repr

/-- Bits 31:23 must be 0, otherwise ILLEGAL at issue (R168). -/
def policyBad (w : Word) : Bool := w.toNat / 2 ^ 23 % 2 ^ 9 != 0

def Policy.ofWord (w : Word) : Policy :=
  let n := w.toNat
  { l2na := n / 2 ^ 22 % 2 == 1, l1na := n / 2 ^ 21 % 2 == 1, ro := n / 2 ^ 20 % 2 == 1,
    t2 := n / 2 ^ 10 % 1024, t1 := n % 1024 }

/-- The line-address hash of R169, on line address a (bits 51:6 of the virtual address). -/
def lineHash (a : Nat) : Nat :=
  (a % 1024) ^^^ (a / 2 ^ 10 % 1024) ^^^ (a / 2 ^ 20 % 1024) ^^^ (a / 2 ^ 30 % 1024) ^^^ (a / 2 ^ 40 % 64)

/-- The eviction class (R169): 0 keep, 1 normal, 2 stream; the default policy is normal. -/
def Policy.class (p : Option Word) (a : Nat) : Nat :=
  match p with
  | none => 1
  | some w =>
    let q := Policy.ofWord w
    let h := lineHash a
    if h < q.t1 then 0 else if h < q.t2 then 1 else 2

def l1na (p : Option Word) : Bool := match p with
  | none => false
  | some w => (Policy.ofWord w).l1na

/-- The home-slice number of a line (R404). -/
def sliceOf (a : Nat) : Nat := (lineHash a % 32) ^^^ (lineHash a / 32 % 32)

/-- The home slice of a monitor (R235): its number over the package, die·32 + slice. -/
def monitorSlice (asid c : Nat) : Nat :=
  ((asid % 128) ^^^ (asid / 128 % 128) ^^^ (asid / 2 ^ 14 % 4 * 32) ^^^ c ^^^ (c * 2 % 128)) % 128

/-! ### Engine operand words (R258) -/

structure TileRef where
  bad : Bool
  first : Nat
  tid : Nat
  deriving DecidableEq, Repr

def TileRef.ofWord (w : Word) : TileRef :=
  let n := w.toNat
  { bad := n / 2 ^ 24 != 0 || n / 2 ^ 8 % 256 != 0, first := n / 2 ^ 16 % 256, tid := n % 256 }

structure CtlWord where
  bad : Bool
  ce : Bool
  cv : Nat
  slot : Nat
  pa : Nat
  count : Nat
  deriving DecidableEq, Repr

def CtlWord.ofWord (w : Word) : CtlWord :=
  let n := w.toNat
  { bad := n / 2 ^ 20 != 0 || n / 2 ^ 15 % 2 != 0, ce := n / 2 ^ 19 % 2 == 1, cv := n / 2 ^ 16 % 8,
    slot := n / 2 ^ 14 % 2, pa := n / 2 ^ 9 % 32, count := n % 512 }

structure CntWord where
  bad : Bool
  out : Nat
  count : Nat
  deriving DecidableEq, Repr

def CntWord.ofWord (w : Word) : CntWord :=
  let n := w.toNat
  { bad := n / 2 ^ 11 != 0, out := n / 2 ^ 9 % 4, count := n % 512 }

/-- The index word of MRD and MWR (R275). -/
structure IdxWord where
  bad : Bool
  row : Nat
  element : Nat
  deriving DecidableEq, Repr

def IdxWord.ofWord (w : Word) : IdxWord :=
  let n := w.toNat
  { bad := n / 2 ^ 17 != 0, row := n / 2 ^ 9 % 256, element := n % 512 }

/-! ### Copy operand words (R284, R292) -/

structure CopyCtl where
  bad : Bool
  aux : Nat
  ds : Bool
  ss : Bool
  tag : Nat
  len : Nat
  deriving DecidableEq, Repr

def CopyCtl.ofWord (w : Word) : CopyCtl :=
  let n := w.toNat
  { bad := n / 2 ^ 53 != 0 || n / 2 ^ 22 % 4 != 0, aux := n / 2 ^ 32 % 2 ^ 21, ds := n / 2 ^ 31 % 2 == 1,
    ss := n / 2 ^ 30 % 2 == 1, tag := n / 2 ^ 24 % 64, len := n % 2 ^ 22 }

structure GatherCtl where
  bad : Bool
  tag : Nat
  esize : Nat
  count : Nat
  deriving DecidableEq, Repr

def GatherCtl.ofWord (w : Word) : GatherCtl :=
  let n := w.toNat
  { bad := n / 2 ^ 30 != 0 || n / 2 ^ 18 % 64 != 0 || n / 2 ^ 13 % 8 != 0, tag := n / 2 ^ 24 % 64,
    esize := match n / 2 ^ 16 % 4 with
      | 0 => 4 | 1 => 8 | 2 => 16 | _ => 64
    count := n % 2 ^ 13 }

/-- A bit field of R120: BFX, BFXU and KBFX share it. -/
def fieldPos (b : Word) : Nat := b.toNat % 64
def fieldLen (b : Word) : Nat := min (b.toNat / 256 % 128) (64 - fieldPos b)

end Sys2Proof.Machine
end

