-- ==== Sys2Proof/Machine/Ops.lean ====
section
/-!
DEFINITION. The named operations on the state: finding and changing its records, landings (R80 to R82), issuing a word to the
threads of the clause (R66, R89), flags (R77), operations under way, taking a trap and returning from it (R340 to R346), colours
and the exit of a thread.
-/

namespace Sys2Proof.Machine

/-- The answer of a meaning. -/
abbrev Out := Host.Outcome State Fault Refusal

/-! ### Lists -/

/-- Insert after every entry whose key is not greater. -/
def insertBy {α : Type} (key : α → Nat) (x : α) : List α → List α
  | [] => [x]
  | y :: ys => if key x < key y then x :: y :: ys else y :: insertBy key x ys

/-- Stable insertion sort by a numeric key. -/
def sortBy {α : Type} (key : α → Nat) (l : List α) : List α := l.foldl (fun acc x => insertBy key x acc) []

/-- Numbers `a, a + 1, …` beside a list's entries. -/
def withIdx {α : Type} (a : Nat) : List α → List (Nat × α)
  | [] => []
  | x :: xs => (a, x) :: withIdx (a + 1) xs

/-- The least numeric key's entry. -/
def minBy {α : Type} (key : α → Nat) : List α → Option α
  | [] => none
  | x :: xs => match minBy key xs with
    | none => some x
    | some y => if key y < key x then some y else some x

/-! ### Sparse byte stores in canonical form -/

/-- What a byte that nothing has written reads as (log entry 5). -/
def emptyByte : Byte := 0

def cellsRead : List Host.Cell → Nat → Byte
  | [], _ => emptyByte
  | (k, b) :: rest, a => if a = k then b else cellsRead rest a

/-- An entry goes to its place among rising addresses. -/
def cellsPut (a : Nat) (v : Byte) : List Host.Cell → List Host.Cell
  | [] => [(a, v)]
  | (k, b) :: rest => if a < k then (a, v) :: (k, b) :: rest else if a = k then (a, v) :: rest else (k, b) :: cellsPut a v rest

/-- A write keeps addresses rising and lists no byte equal to the unlisted value. -/
def cellsWrite (a : Nat) (v : Byte) (l : List Host.Cell) : List Host.Cell := if v = emptyByte then l.filter fun c => c.1 != a else cellsPut a v l

/-- The `n` bytes at `a` as a little-endian number (R1). -/
def cellsReadN (m : List Host.Cell) (a : Nat) : Nat → Nat
  | 0 => 0
  | n + 1 => (cellsRead m a).toNat + 256 * cellsReadN m (a + 1) n

/-- The low `n` bytes of a number stored at `a`, little-endian (R1). -/
def cellsWriteN (a v : Nat) : Nat → List Host.Cell → List Host.Cell
  | 0, m => m
  | n + 1, m => cellsWriteN (a + 1) (v / 256) n (cellsWrite a (BitVec.ofNat 8 v) m)

/-- The canonical form of a byte store: addresses strictly rising, and no byte listed that reads as an unlisted one does (log entry 5). -/
def cellsWf : List Host.Cell → Bool
  | [] => true
  | c :: rest => decide (c.2 ≠ emptyByte) && rest.all (fun d => decide (c.1 < d.1)) && cellsWf rest

/-- The machine's byte stores, memory, the cores' pools and the SRAM of Kiln, are in canonical form. -/
def Memory.wf (s : State) : Bool := cellsWf s.mem.bytes && cellsWf s.pool.bytes && cellsWf s.kiln.sram

/-- A sorted list of numbers without repeats: membership and change. -/
def setInsert (a : Nat) : List Nat → List Nat
  | [] => [a]
  | k :: rest => if a < k then a :: k :: rest else if a = k then k :: rest else k :: setInsert a rest

def setErase (a : Nat) (l : List Nat) : List Nat := l.filter (· != a)

/-- A sorted table of words that omits the value 0. -/
def tabRead {n : Nat} : List (Nat × BitVec n) → Nat → BitVec n
  | [], _ => 0
  | (k, v) :: rest, a => if a = k then v else tabRead rest a

def tabPut {n : Nat} (a : Nat) (v : BitVec n) : List (Nat × BitVec n) → List (Nat × BitVec n)
  | [] => [(a, v)]
  | (k, b) :: rest => if a < k then (a, v) :: (k, b) :: rest else if a = k then (a, v) :: rest else (k, b) :: tabPut a v rest

def tabWrite {n : Nat} (a : Nat) (v : BitVec n) (l : List (Nat × BitVec n)) : List (Nat × BitVec n) :=
  if v = 0 then l.filter fun c => c.1 != a else tabPut a v l

/-! ### Records of the state -/

namespace State

def thread? (s : State) (tid : Nat) : Option Thread := s.threads.find? (·.tid == tid)
def cohort? (s : State) (cid : Nat) : Option Cohort := s.cohorts.find? (·.cid == cid)
def group? (s : State) (gid : Nat) : Option Group := s.groups.find? (·.gid == gid)
def kernel? (s : State) (kid : Nat) : Option Kernel := s.kernels.find? (·.kid == kid)
def ctx? (s : State) (asid : Nat) : Option Ctx := s.ctxs.find? (fun c => c.asid == asid && c.alive)
def op? (s : State) (id : Nat) : Option Op := s.ops.find? (·.id == id)

/-- A core's state; a core nothing has touched is as it left reset. -/
def coreAt (s : State) (c : Nat) : Core := (s.cores.find? (·.id == c)).getD (Core.fresh c)

def setCore (s : State) (k : Core) : State :=
  if s.cores.any (·.id == k.id) then { s with cores := s.cores.map fun c => if c.id = k.id then k else c }
  else { s with cores := s.cores ++ [k] }

def modCore (s : State) (c : Nat) (f : Core → Core) : State := s.setCore (f (s.coreAt c))

def modThread (s : State) (tid : Nat) (f : Thread → Thread) : State :=
  { s with threads := s.threads.map fun t => if t.tid = tid then f t else t }

def modCohort (s : State) (cid : Nat) (f : Cohort → Cohort) : State :=
  { s with cohorts := s.cohorts.map fun c => if c.cid = cid then f c else c }

def modGroup (s : State) (gid : Nat) (f : Group → Group) : State :=
  { s with groups := s.groups.map fun g => if g.gid = gid then f g else g }

def modKernel (s : State) (kid : Nat) (f : Kernel → Kernel) : State :=
  { s with kernels := s.kernels.map fun k => if k.kid = kid then f k else k }

def modCtx (s : State) (asid : Nat) (f : Ctx → Ctx) : State :=
  { s with ctxs := s.ctxs.map fun c => if c.asid = asid then f c else c }

def modOp (s : State) (id : Nat) (f : Op → Op) : State :=
  { s with ops := s.ops.map fun o => if o.id = id then f o else o }

/-- An operation is over: a thread that parked on it, or was about to, no longer waits for it (R98, R99). -/
def dropOp (s : State) (id : Nat) : State :=
  { s with
    ops := s.ops.filter (·.id != id)
    threads := s.threads.map fun t =>
      if t.parks.contains (.fault id) then
        let ps := t.parks.filter (· != .fault id)
        { t with parks := ps, st := if t.st = .parked ∧ ps = [] then .runnable else t.st }
      else t }

/-- The next fresh number is taken. -/
def tick (s : State) (n : Nat) : State := { s with fresh := s.fresh + n }

/-- The clause in issue on the core that issues. -/
def cur? (s : State) : Option Issue := s.issues.find? (·.core == s.turn)

def modIssue (s : State) (core : Nat) (f : Issue → Issue) : State :=
  { s with issues := s.issues.map fun i => if i.core = core then f i else i }

/-- The kernel of a thread's group. -/
def kernelOf? (s : State) (gid : Nat) : Option Kernel := (s.group? gid).bind fun g => s.kernel? g.kid

def asidOf (s : State) (gid : Nat) : Nat := ((s.group? gid).map (·.asid)).getD 0

/-- The context running on a core (R335). -/
def runningAsid? (s : State) (core : Nat) : Option Nat :=
  ((s.coreAt core).slots.find? (fun x => x.st == .running || x.st == .stopping)).map (·.asid)

end State

/-- The quad, die and position of a core (R8). -/
def dieOf (core : Nat) : Nat := core / 128
def quadOf (core : Nat) : Nat := core / 4

/-! ### Landings (R80 to R82, R133) -/

/-- The register a result goes to. -/
def Eff.reg? : Eff → Option Reg
  | .g k _ => some (.g k)
  | .f k _ => some (.f k)
  | .p k _ => some (.p k)
  | .sticky _ => none

/-- A result is written to its register, or sticky bits are ORed in. -/
def Thread.put (t : Thread) (l : Landing) : Thread :=
  match l.eff with
  | .g k v => { t.setG k v with gdep := t.gdep.setIfInBounds k l.dep }
  | .f k v => { t.setF k v with fdep := t.fdep.setIfInBounds k l.dep }
  | .p k v => { t.setP k v with pdep := t.pdep.setIfInBounds k l.dep }
  | .sticky b => { t.orSticky b with stickyNow := t.stickyNow ||| b }

/-- A flagged word's result is written; its sticky bits count with those of the clause in issue only when it is a word of that clause (R133). -/
def Thread.putLate (t : Thread) (seq : Nat) (l : Landing) : Thread :=
  match l.eff with
  | .sticky b => if seq < t.since then t.orSticky b else t.put l
  | _ => t.put l

/-- A fixed-latency result lands; a register that is the destination of an outstanding flagged operation is marked as written (R79). -/
def Thread.land (t : Thread) (l : Landing) : Thread :=
  { t.put l with
    flying := t.flying.map fun x => if l.eff.reg? = some x.reg then { x with wrote := true } else x }

/-- Every result due by cycle `now` lands, earliest first; of two in one cycle the one issued later prevails (R82). -/
def Thread.landUpTo (t : Thread) (now : Nat) : Thread :=
  let r := (t.lands.filter (fun l => decide (l.due ≤ now))).foldl Thread.land t
  { r with lands := t.lands.filter (fun l => decide (now < l.due)) }

/-- Put results on their way, `lat` cycles after the thread's pass issues (R80). -/
def Thread.receive (t : Thread) (iss : Issue) (lat dep : Nat) (es : List Eff) : Thread :=
  { t with lands := es.foldl (fun ls e => insertBy Landing.due ⟨iss.cycle t + lat, e, dep⟩ ls) t.lands }

/-- The moment a register's value stems from a reference load (R191, R192). -/
def Thread.depOf (t : Thread) : Reg → Nat
  | .g k => if k = 0 then 0 else t.gdep[k]?.getD 0
  | .f k => t.fdep[k]?.getD 0
  | .p k => if k = 0 then 0 else t.pdep[k]?.getD 0

/-- The predicate that a guard reads (R66), which is in the chain of dependency (R191). -/
def guardReg (g : BitVec 4) : Reg := .p (g.toNat % 8)

def Thread.depMax (t : Thread) (rs : List Reg) : Nat := rs.foldl (fun m r => max m (t.depOf r)) 0

/-! ### Faults at issue (R46, R89, R340 to R343) -/

/-- A fault a word calls for one thread: trap code, `sr.trapaddr`, SC (R341). `fall`: the record's resume address is the
fall-through address, as for TRAP and SYSCALL. -/
structure Flt where
  code : Nat
  addr : Word
  sc : Bool
  fall : Bool
  deriving DecidableEq, Repr

def Flt.mk2 (code : Nat) (addr : Word) : Flt := { code := code, addr := addr, sc := false, fall := false }

/-- Trap codes (R342). -/
def tcIllegal : Nat := 0x01
def tcMisaligned : Nat := 0x02
def tcProtection : Nat := 0x03
def tcScratch : Nat := 0x04
def tcUndecided : Nat := 0x05
def tcEmpty : Nat := 0x06
def tcIvInvalid : Nat := 0x07
def tcFp : Nat := 0x08
def tcEscape : Nat := 0x09
def tcColourOrder : Nat := 0x0A
def tcMonitor : Nat := 0x0B
def tcRetEmpty : Nat := 0x0C
def tcClobber : Nat := 0x0D
def tcMatrix : Nat := 0x0E
def tcCopy : Nat := 0x0F
def tcWalkLimit : Nat := 0x11
def tcLaunch : Nat := 0x12
def tcSoftware : Nat := 0x13
def tcUncorrectable : Nat := 0x14
def tcDiverged : Nat := 0x15
def tcDenied : Nat := 0x16
def tcCallDepth : Nat := 0x17

/-- Word 0 of the trap record for a code other than FP_EXCEPTION (R341): count 1, the thread's pass. -/
def codeWord (t : Thread) (code : Nat) (sc : Bool) : Word :=
  BitVec.ofNat 64 (code + (if sc then 256 else 0) + 2 ^ 16 + t.pass * 2 ^ 24)

/-- The thread stops at this word: the trap is due, and no later word of the clause has an effect for it (R46, R89, R160). -/
def Thread.raise (t : Thread) (d : Due) : Thread := { t with due := t.due ++ [d], stopped := true }

/-- A trap raised by the word in issue (R341). -/
def Thread.fault (t : Thread) (iss : Issue) (seq : Nat) (x : Flt) : Thread :=
  t.raise { seq := seq, code := codeWord t x.code x.sc, addr := x.addr, pc := iss.wordPc,
            resume := some (if x.fall then iss.fall else iss.hdr) }

/-! ### Issuing a word -/

/-- Whether a word with guard `g` executes for the thread (R66, R89, R94). -/
def executes (iss : Issue) (g : BitVec 4) (t : Thread) : Bool :=
  iss.tids.contains t.tid && !t.stopped && t.guard g

/-- Whether the thread issues the clause and no earlier word of it has faulted for it. -/
def issuesIt (iss : Issue) (t : Thread) : Bool := iss.tids.contains t.tid && !t.stopped

/-- Change every thread that issues the clause. -/
def State.onIssuing (s : State) (f : Issue → Thread → Thread) : State :=
  match s.cur? with
  | none => s
  | some iss => { s with threads := s.threads.map fun t => if issuesIt iss t then f iss t else t }

/-- What a fixed-latency word does to one thread that issues it. -/
def fixedOne (g : BitVec 4) (seq lat : Nat) (srcs : List Reg) (f : Issue → Thread → Except Flt (List Eff))
    (iss : Issue) (t : Thread) : Thread :=
  if t.guard g then
    match f iss t with
    | .ok es => t.receive iss lat (t.depMax (guardReg g :: srcs)) es
    | .error x => t.fault iss seq x
  else t

/-- A fixed-latency word (R66, R80, R110): each executing thread gets its results `lat` cycles after its pass, or faults. -/
def fixedWord (g : BitVec 4) (lat : Nat) (srcs : List Reg) (f : Issue → Thread → Except Flt (List Eff)) (s : State) : Out :=
  .next (s.onIssuing (fixedOne g s.fresh lat srcs f))

/-- Word 0 of the record of a collection of FP_EXCEPTION (R341, R343): all raisers of the issue group with their exceptions. -/
def fpCodeWord (raisers : List (Thread × Nat)) : Word :=
  match minBy (fun r => r.1.idx) raisers with
  | none => 0
  | some (t, exc) =>
    let lanes := raisers.foldl (fun m r => m ||| 2 ^ r.1.lane) 0
    BitVec.ofNat 64 (tcFp + exc * 2 ^ 9 + raisers.length * 2 ^ 16 + t.pass * 2 ^ 24 + lanes * 2 ^ 32)

def fpReported (raisers : List (Thread × Nat)) : Word :=
  match minBy (fun r => r.1.idx) raisers with
  | none => 0
  | some (t, _) => BitVec.ofNat 64 t.idx

/-- The threads of the group whose word raises an enabled exception, with the enabled exceptions (R133, R343). -/
def fpRaisers (s : State) (iss : Issue) (g : BitVec 4) (f : Issue → Thread → List Eff × Nat) : List (Thread × Nat) :=
  (s.threads.filter (executes iss g)).filterMap fun t =>
    let e := t.trapped? (f iss t).2
    if e = 0 then none else some (t, e)

/-- What a point operation does to one thread: results and sticky bits, or the collected trap (R133). -/
def fpOne (g : BitVec 4) (seq lat : Nat) (srcs : List Reg) (raisers : List (Thread × Nat))
    (f : Issue → Thread → List Eff × Nat) (iss : Issue) (t : Thread) : Thread :=
  if t.guard g then
    let r := f iss t
    if t.trapped? r.2 = 0 then
      t.receive iss lat (t.depMax (guardReg g :: srcs)) (if r.2 = 0 then r.1 else r.1 ++ [.sticky r.2])
    else t.raise { seq := seq, code := fpCodeWord raisers, addr := fpReported raisers, pc := iss.wordPc, resume := some iss.hdr }
  else t

/-- A fixed-latency point operation (R133, R343). -/
def fpWord (g : BitVec 4) (lat : Nat) (srcs : List Reg) (f : Issue → Thread → List Eff × Nat) (s : State) : Out :=
  .next (s.onIssuing fun iss t => fpOne g s.fresh lat srcs (fpRaisers s iss g f) f iss t)

/-! ### Flags (R77) -/

/-- An operation has finished for a thread: when it was the last, the flag falls by 1. -/
def State.finishUse (s : State) (use : Option Nat) (tid : Nat) : State :=
  match use with
  | none => s
  | some u =>
    match s.uses.find? (·.id == u) with
    | none => s
    | some x =>
      let left := x.left.filter (· != tid)
      if left = [] then
        { s.modCohort x.cid (fun c => { c with flags := c.flags.setIfInBounds x.flag (c.flags[x.flag]?.getD 0 - 1) }) with
          uses := s.uses.filter (·.id != u) }
      else { s with uses := s.uses.map fun y => if y.id = u then { y with left := left } else y }

/-- The flag the next flagged word of the clause marks (R78). -/
def Issue.flag (iss : Issue) : Nat := if iss.flagged = 0 then iss.aFlag else iss.bFlag

/-- A flagged word that executes for the given threads marks its flag once; for none it leaves it (R77). -/
def State.markFlag (s : State) (iss : Issue) (id : Nat) (tids : List Nat) : State :=
  let s1 := s.modIssue iss.core (fun i => { i with flagged := i.flagged + 1 })
  if tids = [] then s1
  else
    { s1.modCohort iss.cid (fun c => { c with flags := c.flags.setIfInBounds iss.flag (c.flags[iss.flag]?.getD 0 + 1) }) with
      uses := s1.uses ++ [{ id := id, cid := iss.cid, flag := iss.flag, left := tids }] }

/-! ### The store hash (R392) -/

def mixC1 : Nat := 0xB5C18E6A3F27D94B
def mixC2 : Nat := 0x8F3D61C72E95A0B3

/-- `mix` of R392. -/
def mix (q : Nat) (a : Word) (n : Nat) (u0 u1 : Word) : Word :=
  let x := a ^^^ BitVec.ofNat 64 (q * 2 ^ 40) ^^^ BitVec.ofNat 64 n
  let x := (x ^^^ u0) * BitVec.ofNat 64 mixC1
  let x := (x ^^^ (x >>> 31) ^^^ u1) * BitVec.ofNat 64 mixC2
  x ^^^ (x >>> 29)

def mixStore (q : Nat) (a : Word) (size data : Nat) : Word :=
  mix q a size (BitVec.ofNat 64 data) (BitVec.ofNat 64 (data / 2 ^ 64))

/-! ### Operations under way -/

/-- The destination registers of a flagged operation. -/
def OpKind.dests : OpKind → List Reg
  | .load (.gS d _) _ _ => [.g d]
  | .load (.gU d _) _ _ => [.g d]
  | .load (.gQ d) _ _ => [.g d, .g (d + 1)]
  | .load (.fS d) _ _ => [.f d]
  | .load (.fD d) _ _ => [.f d]
  | .load (.fI d) _ _ => [.f d]
  | .load (.fJ d) _ _ => [.f d, .f (d + 1)]
  | .loadS (.gS d _) _ => [.g d]
  | .loadS (.gU d _) _ => [.g d]
  | .loadS (.gQ d) _ => [.g d, .g (d + 1)]
  | .loadS (.fS d) _ => [.f d]
  | .loadS (.fD d) _ => [.f d]
  | .loadS (.fI d) _ => [.f d]
  | .loadS (.fJ d) _ => [.f d, .f (d + 1)]
  | .mrd d => [.g d]
  | .atomic _ _ _ _ d _ => [.g d]
  | .atomicS _ _ _ _ d => [.g d]
  | .readMeta _ d _ => [.g d]
  | .pub _ d => [.g d]
  | .divide es => es.filterMap Eff.reg?
  | .fpDivSqrt es _ => es.filterMap Eff.reg?
  | .bisect d k j _ _ _ _ => if j then [.f d, .f (d + 1), .p k] else [.f d, .p k]
  | .tqpop d _ => [.g d]
  | .amsend d _ => [.g d]
  | .launch d _ => [.g d]
  | _ => []

/-- What a word asks to be put under way for one thread; `stored` is the size and data that its store-hash contribution takes
at issue (R392). -/
structure OpReq where
  addr : Word
  kind : OpKind
  stored : Option (Nat × Nat)
  deriving DecidableEq, Repr

def OpReq.plain (addr : Word) (kind : OpKind) : OpReq := { addr := addr, kind := kind, stored := none }

/-- The threads a word executes for, in ascending cohort index (R196, R242). -/
def State.executing (s : State) (iss : Issue) (g : BitVec 4) : List Thread :=
  sortBy Thread.idx (s.threads.filter (executes iss g))

/-- One operation for one thread: `addrDep` the moment its address stems from, `dep` that of all that it reads (R191). -/
def mkOp (s : State) (iss : Issue) (use : Option Nat) (addrDep dep : Nat) (id : Nat) (t : Thread) (r : OpReq) : Op :=
  { id := id, tid := t.tid, gid := t.gid, core := t.core, asid := s.asidOf t.gid, pc := iss.wordPc, hdr := iss.hdr,
    use := use, seq := s.fresh, addr := r.addr, kind := r.kind, st := .queued, hseq := t.hseq, acq := max t.acq addrDep, acqC := t.acqC,
    dep := dep, grpSeq := s.fresh, lost := 0, met := false, depth := t.stack.length, rewalk := false }

/-- What the word does to an executing thread itself: a fault at issue, or the sequence number and hash contribution it takes. -/
def opThread (g : BitVec 4) (seq : Nat) (hashed : Bool) (mk : Issue → Thread → Except Flt OpReq) (iss : Issue) (t : Thread) : Thread :=
  if t.guard g then
    match mk iss t with
    | .error x => { t.fault iss seq x with hseq := if hashed then t.hseq + 1 else t.hseq }
    | .ok r =>
      { t with
        hseq := if hashed then t.hseq + 1 else t.hseq
        hash := match r.stored with
          | some (n, d) => t.hash + mixStore t.hseq r.addr n d
          | none => t.hash
        flying := t.flying ++ r.kind.dests.map fun x => { seq := seq, reg := x, wrote := false } }
  else t

/-- The operations a word puts under way, numbered from `id`. The register that gives the address stands first in `srcs`: a load is ordered after what its
address depends on, not after what its guard or its policy does (R191, R192). -/
def State.newOps (s : State) (iss : Issue) (g : BitVec 4) (use : Option Nat) (srcs : List Reg)
    (mk : Issue → Thread → Except Flt OpReq) (id : Nat) : List Op :=
  let oks := (s.executing iss g).filterMap fun t => match mk iss t with
    | .ok r => some (t, r)
    | .error _ => none
  (withIdx id oks).map fun x => mkOp s iss use (x.2.1.depMax (srcs.take 1)) (x.2.1.depMax (guardReg g :: srcs)) x.1 x.2.1 x.2.2

/-- A word that puts an operation under way for each executing thread (R77, R79, R196): flagged words mark their flag for the threads that
do not fault at issue; `hashed` words take a sequence number of the store hash (R392). -/
def State.startOps (s : State) (g : BitVec 4) (flagged hashed : Bool) (srcs : List Reg)
    (mk : Issue → Thread → Except Flt OpReq) : State :=
  match s.cur? with
  | none => s
  | some iss =>
    let use := s.fresh + 1
    let os := s.newOps iss g (if flagged then some use else none) srcs mk (s.fresh + 2)
    let s1 := s.onIssuing (opThread g s.fresh hashed mk)
    let s2 := if flagged then s1.markFlag iss use (os.map (·.tid)) else s1
    { s2 with ops := s2.ops ++ os, fresh := s.fresh + 2 + os.length }

/-! ### Kernel errors, exit and traps (R344) -/

/-- A kernel error, kept with the kernel until it retires (R344, R369). -/
def State.kernelError (s : State) (gid : Nat) (code : Nat) (pc : Word) : State :=
  match s.group? gid with
  | none => s
  | some g => s.modKernel g.kid fun k => { k with errors := k.errors ++ [(code, pc)] }

/-- Release the colours of a thread that `which` selects (R241): they are no longer held, and each release or wait follows when its steps
are done. -/
def State.releaseColours (s : State) (tid : Nat) (which : Held → Bool) : State :=
  match s.thread? tid with
  | none => s
  | some t =>
    let hs := t.held.filter which
    let rs := (withIdx s.fresh hs).map fun x =>
      { id := x.1, tid := tid, gid := t.gid, asid := s.asidOf t.gid, core := t.core, colour := x.2.colour, depth := x.2.depth, seq := s.fresh,
        wait := false : Rel }
    { s.modThread tid (fun t => { t with held := t.held.filter (fun h => !which h) }) with
      rels := s.rels ++ rs, fresh := s.fresh + hs.length }

/-- Whether a cause of parking is a wait for a colour (R245). -/
def Park.isCwait : Park → Bool
  | .cwait _ _ => true
  | _ => false

/-- The thread exits (R108, R266): its colours are released, its open matrix group is committed on no tag, its waits end, but that its accesses issued after a
CWAIT go on waiting for the grant (R245). The manual does not say what becomes of a colour that CWAIT gave up and that is not granted again yet: its release
follows the wait message and the grant (log entry 61). -/
def State.exitThread (s : State) (tid : Nat) : State :=
  match s.thread? tid with
  | none => s
  | some t =>
    let s1 := s.releaseColours tid (fun _ => true)
    let s2 := match t.matGrp with
      | none => s1
      | some m => { s1 with mgroups := s1.mgroups.map fun (x : MGroup) => if x.id = m then { x with closed := some none } else x }
    s2.modThread tid fun t =>
      { t with st := .exited, trapped := false, parks := t.parks.filter Park.isCwait, matGrp := none, exiting := false, stopped := false, rft := false }

/-- Taking a trap (R340): the record is written, the thread becomes trapped and goes to the handler entry. `here` is the clause it would have
started at this boundary. -/
def Thread.enterTrap (t : Thread) (d : Due) (handler here : Word) : Thread :=
  { t with
    trap := { code := d.code, addr := d.addr, pc := d.pc, resume := d.resume.getD here }
    trapped := true, pc := handler, st := .runnable, due := [], stopped := false, next := none, rft := false }

/-- Returning from a trap at the end of a clause (R346): the mark is cleared and the thread goes to the resume address that stood in its record during the clause
(R116, R341). -/
def Thread.leaveTrap (t : Thread) (resume : Word) : Thread :=
  { t with trapped := false, pc := resume, rft := false }

def State.handlerOf (s : State) (gid : Nat) : Word := ((s.ctx? (s.asidOf gid)).map (·.handler)).getD 0

/-- The trap a thread is due takes place (R340), or it acts as EXIT with a kernel error (R344). -/
def State.takeTrap (s : State) (t : Thread) : State :=
  match minBy Due.seq t.due with
  | none => s
  | some d =>
    let h := s.handlerOf t.gid
    if t.trapped || h == 0 then
      (s.kernelError t.gid (d.code.toNat % 256) d.pc).exitThread t.tid |>.modThread t.tid (fun t => { t with due := [] })
    else s.modThread t.tid (fun t => t.enterTrap d h t.pc)

/-- At a boundary of a cohort each of its threads that takes part takes at most one trap (R134, R160, R340). -/
def State.settleTraps (s : State) (cid : Nat) : State :=
  let ts := s.threads.filter fun t => t.cid == cid && (t.st == .runnable || t.st == .frontier) && t.due != []
  ts.foldl (fun s t => s.takeTrap t) s

/-- A fault found after issue (R134, R160): due at the next boundary, or a kernel error when the thread has exited (R344). -/
def State.lateFault (s : State) (tid : Nat) (d : Due) : State :=
  match s.thread? tid with
  | none => s
  | some t =>
    if t.st = .exited then s.kernelError t.gid (d.code.toNat % 256) d.pc
    else s.modThread tid fun t => { t with due := t.due ++ [{ d with resume := none }] }

/-! ### Parking and waking (R97 to R99) -/

/-- The flag use of the operations that a thread parks on for a cause ends for it (R77, R97). -/
def State.parkUse (s : State) (tid : Nat) (p : Park) : State :=
  let os : List Op := match p with
    | .fault o => s.ops.filter fun (y : Op) => y.id == o
    | .colour c => s.ops.filter fun o => o.tid == tid && o.st == .blocked c
    | _ => []
  os.foldl (fun s o => (s.finishUse o.use o.tid).modOp o.id fun o => { o with use := none }) s

/-- A cause is detected: the thread is park-pending, or, where it has parked already, parked for this cause too (R97). -/
def State.addPark (s : State) (tid : Nat) (p : Park) : State :=
  let s1 := s.modThread tid fun t => { t with parks := t.parks ++ [p] }
  if ((s.thread? tid).map (·.st)) = some .parked then s1.parkUse tid p else s1

/-- A cause is resolved: a park-pending thread stops being so (R99); a parked thread with no cause left wakes (R98). -/
def State.endPark (s : State) (tid : Nat) (which : Park → Bool) : State :=
  s.modThread tid fun t =>
    let ps := t.parks.filter (fun p => !which p)
    { t with parks := ps, st := if t.st = .parked ∧ ps = [] then .runnable else t.st }

/-- Whether another instruction has written a result's register since its operation was issued (R79). -/
def Thread.overwritten (t : Thread) (seq : Nat) (e : Eff) : Bool :=
  t.flying.any fun x => x.seq == seq && x.wrote && e.reg? == some x.reg

/-- The operation no longer has destinations outstanding. -/
def Thread.settled (t : Thread) (seq : Nat) : Thread := { t with flying := t.flying.filter (·.seq != seq) }

/-- Delivering results to registers at once, as a flagged operation does (R77). A register that software wrote meanwhile holds one of the two
values, and which one is free (R79, log entry 17). -/
def Thread.write (t : Thread) (seq dep pick : Nat) (es : List Eff) : Thread :=
  (es.foldl (fun t e => if t.overwritten seq e && !Config.flaggedWriteWins pick then t else t.putLate seq ⟨0, e, dep⟩) t).settled seq

/-- A flagged operation finishes for its thread: results, sticky bits, flag (R77, R133). What the registers it read depend on goes on through
its result (R191). -/
def State.finishOp (s : State) (o : Op) (dep : Nat) (es : List Eff) : State :=
  ((s.modThread o.tid (fun t => t.write o.seq (max dep o.dep) s.fresh es)).finishUse o.use o.tid).dropOp o.id |>.tick 1

/-- A fault ended what a thread was parked for: it is trapped at once (R93). A thread that was not parked, or that is still parked for another cause, takes the
trap at a boundary (R134, R160). -/
def State.trapWoken (s : State) (was : TSt) (tid : Nat) : State :=
  match s.thread? tid with
  | none => s
  | some t => if was = .parked ∧ t.st = .runnable then s.takeTrap t else s

/-- An operation ends in a fault found after issue, at a boundary or, where its thread is parked on it, at once (R93, R134, R160). -/
def State.endInFault (s : State) (o : Op) (t : Thread) (d : Due) : State :=
  ((s.lateFault o.tid d).dropOp o.id).trapWoken t.st o.tid

/-- A flagged operation ends in a given fault for its thread: its destinations are settled, its flag falls (R134). -/
def State.flaggedFault (s : State) (o : Op) (d : Due) : State :=
  match s.thread? o.tid with
  | none => s.dropOp o.id
  | some t => ((s.modThread o.tid fun t => t.settled o.seq).finishUse o.use o.tid).endInFault o t d

/-- An operation ends in a fault of a code (R134, R341). -/
def State.faultOp (s : State) (o : Op) (code : Nat) (addr : Word) : State :=
  match s.thread? o.tid with
  | none => s.dropOp o.id
  | some t => s.flaggedFault o { seq := o.seq, code := codeWord t code false, addr := addr, pc := o.pc, resume := none }

/-! ### Words that act on the thread itself -/

/-- What such a word does to one thread that issues it. -/
def threadOne (g : BitVec 4) (seq : Nat) (f : Issue → Thread → Except Flt Thread) (iss : Issue) (t : Thread) : Thread :=
  if t.guard g then
    match f iss t with
    | .ok u => u
    | .error x => t.fault iss seq x
  else t

/-- A word that changes marks of its thread, or faults (R66). -/
def threadWord (g : BitVec 4) (f : Issue → Thread → Except Flt Thread) (s : State) : Out :=
  .next (s.onIssuing (threadOne g s.fresh f))

/-- A flagged or memory word: its operations are put under way (R77, R196). -/
def opWord (g : BitVec 4) (flagged hashed : Bool) (srcs : List Reg) (mk : Issue → Thread → Except Flt OpReq) (s : State) : Out :=
  .next (s.startOps g flagged hashed srcs mk)

end Sys2Proof.Machine
end

