-- ==== Sys2Proof/Machine/Check.lean ====
section
/-!
DEFINITION. The structural checks of a chain group when it issues (R71, R78, R84, R88, R89): the registers each word names against the
kernel's declared counts, one word to a pipe, the literal's place, branches last, the flagged words of a clause.
-/

namespace Sys2Proof.Machine

/-- What a field of a word names (R68, R84). -/
inductive RegUse where
  | src (k : Nat)
  | dst (k : Nat)
  | pair (k : Nat)
  | pairSrc (k : Nat)
  | fr (k : Nat)
  | fpair (k : Nat)
  | tag (k : Nat)
  | cv (k : Nat)
  deriving DecidableEq, Repr

/-- The registers, tags and convergence registers a word names. -/
def regUses (i : Instr) : List RegUse :=
  match i with
  | .clauseStart _ _ _ _ _ => []
  | .waitCountExpiry _ _ => []
  | .resultLands _ => []
  | .threadSlotFree _ => []
  | .cohortRetire _ => []
  | .nop _ _ => []
  | .yield _ _ => []
  | .rdclk _ _ d => [.dst d.toNat]
  | .rdtags _ _ d => [.dst d.toNat]
  | .brUt _ _ => []
  | .brUf _ _ => []
  | .br _ _ => []
  | .brUl _ _ => []
  | .jmp _ => []
  | .call _ => []
  | .jmpr _ a => [.src a.toNat]
  | .callr _ a => [.src a.toNat]
  | .ret _ => []
  | .exit _ => []
  | .addW _ _ d a b => [.dst d.toNat, .src a.toNat, .src b.toNat]
  | .subW _ _ d a b => [.dst d.toNat, .src a.toNat, .src b.toNat]
  | .andW _ _ d a b => [.dst d.toNat, .src a.toNat, .src b.toNat]
  | .orW _ _ d a b => [.dst d.toNat, .src a.toNat, .src b.toNat]
  | .xorW _ _ d a b => [.dst d.toNat, .src a.toNat, .src b.toNat]
  | .andnW _ _ d a b => [.dst d.toNat, .src a.toNat, .src b.toNat]
  | .minW _ _ d a b => [.dst d.toNat, .src a.toNat, .src b.toNat]
  | .maxW _ _ d a b => [.dst d.toNat, .src a.toNat, .src b.toNat]
  | .addD _ _ d a b => [.dst d.toNat, .src a.toNat, .src b.toNat]
  | .subD _ _ d a b => [.dst d.toNat, .src a.toNat, .src b.toNat]
  | .andD _ _ d a b => [.dst d.toNat, .src a.toNat, .src b.toNat]
  | .orD _ _ d a b => [.dst d.toNat, .src a.toNat, .src b.toNat]
  | .xorD _ _ d a b => [.dst d.toNat, .src a.toNat, .src b.toNat]
  | .andnD _ _ d a b => [.dst d.toNat, .src a.toNat, .src b.toNat]
  | .minD _ _ d a b => [.dst d.toNat, .src a.toNat, .src b.toNat]
  | .maxD _ _ d a b => [.dst d.toNat, .src a.toNat, .src b.toNat]
  | .minuW _ _ d a b => [.dst d.toNat, .src a.toNat, .src b.toNat]
  | .maxuW _ _ d a b => [.dst d.toNat, .src a.toNat, .src b.toNat]
  | .shlW _ _ d a b => [.dst d.toNat, .src a.toNat, .src b.toNat]
  | .shrW _ _ d a b => [.dst d.toNat, .src a.toNat, .src b.toNat]
  | .sarW _ _ d a b => [.dst d.toNat, .src a.toNat, .src b.toNat]
  | .rotW _ _ d a b => [.dst d.toNat, .src a.toNat, .src b.toNat]
  | .mulW _ _ d a b => [.dst d.toNat, .src a.toNat, .src b.toNat]
  | .mulhW _ _ d a b => [.dst d.toNat, .src a.toNat, .src b.toNat]
  | .minuD _ _ d a b => [.dst d.toNat, .src a.toNat, .src b.toNat]
  | .maxuD _ _ d a b => [.dst d.toNat, .src a.toNat, .src b.toNat]
  | .shlD _ _ d a b => [.dst d.toNat, .src a.toNat, .src b.toNat]
  | .shrD _ _ d a b => [.dst d.toNat, .src a.toNat, .src b.toNat]
  | .sarD _ _ d a b => [.dst d.toNat, .src a.toNat, .src b.toNat]
  | .rotD _ _ d a b => [.dst d.toNat, .src a.toNat, .src b.toNat]
  | .mulD _ _ d a b => [.dst d.toNat, .src a.toNat, .src b.toNat]
  | .mulhD _ _ d a b => [.dst d.toNat, .src a.toNat, .src b.toNat]
  | .addiW _ _ d a _ => [.dst d.toNat, .src a.toNat]
  | .addiD _ _ d a _ => [.dst d.toNat, .src a.toNat]
  | .shliW _ _ d a _ => [.dst d.toNat, .src a.toNat]
  | .shriW _ _ d a _ => [.dst d.toNat, .src a.toNat]
  | .sariW _ _ d a _ => [.dst d.toNat, .src a.toNat]
  | .rotiW _ _ d a _ => [.dst d.toNat, .src a.toNat]
  | .shliD _ _ d a _ => [.dst d.toNat, .src a.toNat]
  | .shriD _ _ d a _ => [.dst d.toNat, .src a.toNat]
  | .sariD _ _ d a _ => [.dst d.toNat, .src a.toNat]
  | .rotiD _ _ d a _ => [.dst d.toNat, .src a.toNat]
  | .movi _ _ d _ => [.dst d.toNat]
  | .lea1 _ _ d a b => [.dst d.toNat, .src a.toNat, .src b.toNat]
  | .lea2 _ _ d a b => [.dst d.toNat, .src a.toNat, .src b.toNat]
  | .lea4 _ _ d a b => [.dst d.toNat, .src a.toNat, .src b.toNat]
  | .lea8 _ _ d a b => [.dst d.toNat, .src a.toNat, .src b.toNat]
  | .lea16 _ _ d a b => [.dst d.toNat, .src a.toNat, .src b.toNat]
  | .macW _ _ d a b => [.dst d.toNat, .src a.toNat, .src b.toNat]
  | .macD _ _ d a b => [.dst d.toNat, .src a.toNat, .src b.toNat]
  | .mulhuD _ _ d a b => [.dst d.toNat, .src a.toNat, .src b.toNat]
  | .mov _ _ d a => [.dst d.toNat, .src a.toNat]
  | .not _ _ d a => [.dst d.toNat, .src a.toNat]
  | .neg _ _ d a => [.dst d.toNat, .src a.toNat]
  | .abs _ _ d a => [.dst d.toNat, .src a.toNat]
  | .clzW _ _ d a => [.dst d.toNat, .src a.toNat]
  | .clzD _ _ d a => [.dst d.toNat, .src a.toNat]
  | .popc _ _ d a => [.dst d.toNat, .src a.toNat]
  | .brevD _ _ d a => [.dst d.toNat, .src a.toNat]
  | .sextB _ _ d a => [.dst d.toNat, .src a.toNat]
  | .sextH _ _ d a => [.dst d.toNat, .src a.toNat]
  | .sextW _ _ d a => [.dst d.toNat, .src a.toNat]
  | .zextB _ _ d a => [.dst d.toNat, .src a.toNat]
  | .zextH _ _ d a => [.dst d.toNat, .src a.toNat]
  | .zextW _ _ d a => [.dst d.toNat, .src a.toNat]
  | .movk _ _ d _ => [.dst d.toNat]
  | .rdsr _ _ d _ => [.dst d.toNat]
  | .wrsr _ _ _ a => [.src a.toNat]
  | .movp _ _ d a => [.dst d.toNat, .src a.toNat]
  | .bfx _ _ d a b => [.dst d.toNat, .src a.toNat, .src b.toNat]
  | .bfxu _ _ d a b => [.dst d.toNat, .src a.toNat, .src b.toNat]
  | .bfi _ _ d a b => [.dst d.toNat, .src a.toNat, .src b.toNat]
  | .icmpEq _ _ _ _ a b => [.src a.toNat, .src b.toNat]
  | .icmpNe _ _ _ _ a b => [.src a.toNat, .src b.toNat]
  | .icmpLt _ _ _ _ a b => [.src a.toNat, .src b.toNat]
  | .icmpLe _ _ _ _ a b => [.src a.toNat, .src b.toNat]
  | .icmpGt _ _ _ _ a b => [.src a.toNat, .src b.toNat]
  | .icmpGe _ _ _ _ a b => [.src a.toNat, .src b.toNat]
  | .icmpLtu _ _ _ _ a b => [.src a.toNat, .src b.toNat]
  | .icmpLeu _ _ _ _ a b => [.src a.toNat, .src b.toNat]
  | .icmpGtu _ _ _ _ a b => [.src a.toNat, .src b.toNat]
  | .icmpGeu _ _ _ _ a b => [.src a.toNat, .src b.toNat]
  | .icmpTst _ _ _ _ a b => [.src a.toNat, .src b.toNat]
  | .icmpNtst _ _ _ _ a b => [.src a.toNat, .src b.toNat]
  | .pand _ _ _ _ _ => []
  | .por _ _ _ _ _ => []
  | .pxor _ _ _ _ _ => []
  | .pnot _ _ _ _ => []
  | .pmov _ _ _ _ => []
  | .pisu _ _ _ _ => []
  | .pist _ _ _ _ => []
  | .pset _ _ _ _ => []
  | .voteAll _ _ d a => [.dst d.toNat, .src a.toNat]
  | .voteAny _ _ d a => [.dst d.toNat, .src a.toNat]
  | .ballot _ _ d a => [.dst d.toNat, .src a.toNat]
  | .ballotu _ _ d a => [.dst d.toNat, .src a.toNat]
  | .shflIdx _ _ d a b => [.dst d.toNat, .src a.toNat, .src b.toNat]
  | .shflUp _ _ d a b => [.dst d.toNat, .src a.toNat, .src b.toNat]
  | .shflDown _ _ d a b => [.dst d.toNat, .src a.toNat, .src b.toNat]
  | .shflXor _ _ d a b => [.dst d.toNat, .src a.toNat, .src b.toNat]
  | .divW _ _ d a b => [.dst d.toNat, .src a.toNat, .src b.toNat]
  | .divuW _ _ d a b => [.dst d.toNat, .src a.toNat, .src b.toNat]
  | .remW _ _ d a b => [.dst d.toNat, .src a.toNat, .src b.toNat]
  | .remuW _ _ d a b => [.dst d.toNat, .src a.toNat, .src b.toNat]
  | .divD _ _ d a b => [.dst d.toNat, .src a.toNat, .src b.toNat]
  | .divuD _ _ d a b => [.dst d.toNat, .src a.toNat, .src b.toNat]
  | .remD _ _ d a b => [.dst d.toNat, .src a.toNat, .src b.toNat]
  | .remuD _ _ d a b => [.dst d.toNat, .src a.toNat, .src b.toNat]
  | .divideComplete _ => []
  | .sel _ _ d a b _ => [.dst d.toNat, .src a.toNat, .src b.toNat]
  | .randW _ _ d a b => [.dst d.toNat, .src a.toNat, .src b.toNat]
  | .randD _ _ d a b => [.dst d.toNat, .src a.toNat, .src b.toNat]
  | .faddS _ _ d a b => [.fr d.toNat, .fr a.toNat, .fr b.toNat]
  | .fsubS _ _ d a b => [.fr d.toNat, .fr a.toNat, .fr b.toNat]
  | .fmulS _ _ d a b => [.fr d.toNat, .fr a.toNat, .fr b.toNat]
  | .fdivS _ _ d a b => [.fr d.toNat, .fr a.toNat, .fr b.toNat]
  | .fminS _ _ d a b => [.fr d.toNat, .fr a.toNat, .fr b.toNat]
  | .fmaxS _ _ d a b => [.fr d.toNat, .fr a.toNat, .fr b.toNat]
  | .fcpysS _ _ d a b => [.fr d.toNat, .fr a.toNat, .fr b.toNat]
  | .faddD _ _ d a b => [.fr d.toNat, .fr a.toNat, .fr b.toNat]
  | .fsubD _ _ d a b => [.fr d.toNat, .fr a.toNat, .fr b.toNat]
  | .fmulD _ _ d a b => [.fr d.toNat, .fr a.toNat, .fr b.toNat]
  | .fdivD _ _ d a b => [.fr d.toNat, .fr a.toNat, .fr b.toNat]
  | .fminD _ _ d a b => [.fr d.toNat, .fr a.toNat, .fr b.toNat]
  | .fmaxD _ _ d a b => [.fr d.toNat, .fr a.toNat, .fr b.toNat]
  | .fcpysD _ _ d a b => [.fr d.toNat, .fr a.toNat, .fr b.toNat]
  | .faddI _ _ d a b => [.fr d.toNat, .fr a.toNat, .fr b.toNat]
  | .fsubI _ _ d a b => [.fr d.toNat, .fr a.toNat, .fr b.toNat]
  | .fmulI _ _ d a b => [.fr d.toNat, .fr a.toNat, .fr b.toNat]
  | .fdivI _ _ d a b => [.fr d.toNat, .fr a.toNat, .fr b.toNat]
  | .fhullI _ _ d a b => [.fr d.toNat, .fr a.toNat, .fr b.toNat]
  | .fisectI _ _ d a b => [.fr d.toNat, .fr a.toNat, .fr b.toNat]
  | .fminI _ _ d a b => [.fr d.toNat, .fr a.toNat, .fr b.toNat]
  | .fmaxI _ _ d a b => [.fr d.toNat, .fr a.toNat, .fr b.toNat]
  | .faddJ _ _ d a b => [.fpair d.toNat, .fpair a.toNat, .fpair b.toNat]
  | .fsubJ _ _ d a b => [.fpair d.toNat, .fpair a.toNat, .fpair b.toNat]
  | .fmulJ _ _ d a b => [.fpair d.toNat, .fpair a.toNat, .fpair b.toNat]
  | .fdivJ _ _ d a b => [.fpair d.toNat, .fpair a.toNat, .fpair b.toNat]
  | .fhullJ _ _ d a b => [.fpair d.toNat, .fpair a.toNat, .fpair b.toNat]
  | .fisectJ _ _ d a b => [.fpair d.toNat, .fpair a.toNat, .fpair b.toNat]
  | .fminJ _ _ d a b => [.fpair d.toNat, .fpair a.toNat, .fpair b.toNat]
  | .fmaxJ _ _ d a b => [.fpair d.toNat, .fpair a.toNat, .fpair b.toNat]
  | .fpDivideSqrtComplete _ => []
  | .fmacS _ _ d a b => [.fr d.toNat, .fr a.toNat, .fr b.toNat]
  | .fmscS _ _ d a b => [.fr d.toNat, .fr a.toNat, .fr b.toNat]
  | .fnmacS _ _ d a b => [.fr d.toNat, .fr a.toNat, .fr b.toNat]
  | .fnmscS _ _ d a b => [.fr d.toNat, .fr a.toNat, .fr b.toNat]
  | .fmacD _ _ d a b => [.fr d.toNat, .fr a.toNat, .fr b.toNat]
  | .fmscD _ _ d a b => [.fr d.toNat, .fr a.toNat, .fr b.toNat]
  | .fnmacD _ _ d a b => [.fr d.toNat, .fr a.toNat, .fr b.toNat]
  | .fnmscD _ _ d a b => [.fr d.toNat, .fr a.toNat, .fr b.toNat]
  | .fmacI _ _ d a b => [.fr d.toNat, .fr a.toNat, .fr b.toNat]
  | .fmscI _ _ d a b => [.fr d.toNat, .fr a.toNat, .fr b.toNat]
  | .fnmacI _ _ d a b => [.fr d.toNat, .fr a.toNat, .fr b.toNat]
  | .fnmscI _ _ d a b => [.fr d.toNat, .fr a.toNat, .fr b.toNat]
  | .fmacJ _ _ d a b => [.fpair d.toNat, .fpair a.toNat, .fpair b.toNat]
  | .fmscJ _ _ d a b => [.fpair d.toNat, .fpair a.toNat, .fpair b.toNat]
  | .fnmacJ _ _ d a b => [.fpair d.toNat, .fpair a.toNat, .fpair b.toNat]
  | .fnmscJ _ _ d a b => [.fpair d.toNat, .fpair a.toNat, .fpair b.toNat]
  | .fabsS _ _ d a => [.fr d.toNat, .fr a.toNat]
  | .fnegS _ _ d a => [.fr d.toNat, .fr a.toNat]
  | .fsqrtS _ _ d a => [.fr d.toNat, .fr a.toNat]
  | .frcpS _ _ d a => [.fr d.toNat, .fr a.toNat]
  | .frsqS _ _ d a => [.fr d.toNat, .fr a.toNat]
  | .fexp2S _ _ d a => [.fr d.toNat, .fr a.toNat]
  | .flog2S _ _ d a => [.fr d.toNat, .fr a.toNat]
  | .fsinS _ _ d a => [.fr d.toNat, .fr a.toNat]
  | .fcosS _ _ d a => [.fr d.toNat, .fr a.toNat]
  | .frndS _ _ d a => [.fr d.toNat, .fr a.toNat]
  | .fclassS _ _ d a => [.dst d.toNat, .fr a.toNat]
  | .fabsD _ _ d a => [.fr d.toNat, .fr a.toNat]
  | .fnegD _ _ d a => [.fr d.toNat, .fr a.toNat]
  | .fsqrtD _ _ d a => [.fr d.toNat, .fr a.toNat]
  | .frcpD _ _ d a => [.fr d.toNat, .fr a.toNat]
  | .frsqD _ _ d a => [.fr d.toNat, .fr a.toNat]
  | .fexp2D _ _ d a => [.fr d.toNat, .fr a.toNat]
  | .flog2D _ _ d a => [.fr d.toNat, .fr a.toNat]
  | .fsinD _ _ d a => [.fr d.toNat, .fr a.toNat]
  | .fcosD _ _ d a => [.fr d.toNat, .fr a.toNat]
  | .frndD _ _ d a => [.fr d.toNat, .fr a.toNat]
  | .fclassD _ _ d a => [.dst d.toNat, .fr a.toNat]
  | .fcvtFloat _ _ d a _ _ => [.fr d.toNat, .fr a.toNat]
  | .fcvtToInt _ _ d a _ _ => [.dst d.toNat, .fr a.toNat]
  | .fcvtFromInt _ _ d a _ _ => [.fr d.toNat, .src a.toNat]
  | .fcvtz _ _ d a _ _ => [.dst d.toNat, .fr a.toNat]
  | .fmovGf _ _ d a => [.fr d.toNat, .src a.toNat]
  | .fmovFg _ _ d a => [.dst d.toNat, .fr a.toNat]
  | .iptS _ _ d a => [.fr d.toNat, .fr a.toNat]
  | .iptD _ _ d a => [.fpair d.toNat, .fr a.toNat]
  | .iloI _ _ d a => [.fr d.toNat, .fr a.toNat]
  | .ihiI _ _ d a => [.fr d.toNat, .fr a.toNat]
  | .imidI _ _ d a => [.fr d.toNat, .fr a.toNat]
  | .iwidI _ _ d a => [.fr d.toNat, .fr a.toNat]
  | .iloJ _ _ d a => [.fr d.toNat, .fpair a.toNat]
  | .ihiJ _ _ d a => [.fr d.toNat, .fpair a.toNat]
  | .imidJ _ _ d a => [.fr d.toNat, .fpair a.toNat]
  | .iwidJ _ _ d a => [.fr d.toNat, .fpair a.toNat]
  | .fcmpEqS _ _ _ _ a b => [.fr a.toNat, .fr b.toNat]
  | .fcmpNeS _ _ _ _ a b => [.fr a.toNat, .fr b.toNat]
  | .fcmpLtS _ _ _ _ a b => [.fr a.toNat, .fr b.toNat]
  | .fcmpLeS _ _ _ _ a b => [.fr a.toNat, .fr b.toNat]
  | .fcmpGtS _ _ _ _ a b => [.fr a.toNat, .fr b.toNat]
  | .fcmpGeS _ _ _ _ a b => [.fr a.toNat, .fr b.toNat]
  | .fcmpUnS _ _ _ _ a b => [.fr a.toNat, .fr b.toNat]
  | .fcmpOrdS _ _ _ _ a b => [.fr a.toNat, .fr b.toNat]
  | .fcmpEqD _ _ _ _ a b => [.fr a.toNat, .fr b.toNat]
  | .fcmpNeD _ _ _ _ a b => [.fr a.toNat, .fr b.toNat]
  | .fcmpLtD _ _ _ _ a b => [.fr a.toNat, .fr b.toNat]
  | .fcmpLeD _ _ _ _ a b => [.fr a.toNat, .fr b.toNat]
  | .fcmpGtD _ _ _ _ a b => [.fr a.toNat, .fr b.toNat]
  | .fcmpGeD _ _ _ _ a b => [.fr a.toNat, .fr b.toNat]
  | .fcmpUnD _ _ _ _ a b => [.fr a.toNat, .fr b.toNat]
  | .fcmpOrdD _ _ _ _ a b => [.fr a.toNat, .fr b.toNat]
  | .fcmpEqI _ _ _ _ a b => [.fr a.toNat, .fr b.toNat]
  | .fcmpNeI _ _ _ _ a b => [.fr a.toNat, .fr b.toNat]
  | .fcmpLtI _ _ _ _ a b => [.fr a.toNat, .fr b.toNat]
  | .fcmpLeI _ _ _ _ a b => [.fr a.toNat, .fr b.toNat]
  | .fcmpGtI _ _ _ _ a b => [.fr a.toNat, .fr b.toNat]
  | .fcmpGeI _ _ _ _ a b => [.fr a.toNat, .fr b.toNat]
  | .fcmpSubI _ _ _ _ a b => [.fr a.toNat, .fr b.toNat]
  | .fcmpDisjI _ _ _ _ a b => [.fr a.toNat, .fr b.toNat]
  | .fcmpContI _ _ _ _ a b => [.fr a.toNat, .fr b.toNat]
  | .fcmpEmptyI _ _ _ _ a b => [.fr a.toNat, .fr b.toNat]
  | .fcmpEqJ _ _ _ _ a b => [.fpair a.toNat, .fpair b.toNat]
  | .fcmpNeJ _ _ _ _ a b => [.fpair a.toNat, .fpair b.toNat]
  | .fcmpLtJ _ _ _ _ a b => [.fpair a.toNat, .fpair b.toNat]
  | .fcmpLeJ _ _ _ _ a b => [.fpair a.toNat, .fpair b.toNat]
  | .fcmpGtJ _ _ _ _ a b => [.fpair a.toNat, .fpair b.toNat]
  | .fcmpGeJ _ _ _ _ a b => [.fpair a.toNat, .fpair b.toNat]
  | .fcmpSubJ _ _ _ _ a b => [.fpair a.toNat, .fpair b.toNat]
  | .fcmpDisjJ _ _ _ _ a b => [.fpair a.toNat, .fpair b.toNat]
  | .fcmpContJ _ _ _ _ a b => [.fpair a.toNat, .fpair b.toNat]
  | .fcmpEmptyJ _ _ _ _ a b => [.fpair a.toNat, .fpair b.toNat]
  | .imakeS _ _ d a b => [.fr d.toNat, .fr a.toNat, .fr b.toNat]
  | .imakeD _ _ d a b => [.fpair d.toNat, .fr a.toNat, .fr b.toNat]
  | .bisectI _ _ d a _ => [.fr d.toNat, .fr a.toNat]
  | .bisectJ _ _ d a _ => [.fpair d.toNat, .fpair a.toNat]
  | .bisectComplete _ => []
  | .iinflI _ _ d a b => [.fr d.toNat, .fr a.toNat, .fr b.toNat]
  | .iinflJ _ _ d a b => [.fpair d.toNat, .fpair a.toNat, .fr b.toNat]
  | .hadd2 _ _ d a b => [.fr d.toNat, .fr a.toNat, .fr b.toNat]
  | .hmul2 _ _ d a b => [.fr d.toNat, .fr a.toNat, .fr b.toNat]
  | .hfma2 _ _ d a b => [.fr d.toNat, .fr a.toNat, .fr b.toNat]
  | .badd2 _ _ d a b => [.fr d.toNat, .fr a.toNat, .fr b.toNat]
  | .bmul2 _ _ d a b => [.fr d.toNat, .fr a.toNat, .fr b.toNat]
  | .bfma2 _ _ d a b => [.fr d.toNat, .fr a.toNat, .fr b.toNat]
  | .cbdec _ _ d a b => [.dst d.toNat, .src a.toNat, .src b.toNat]
  | .mxq _ _ d a b => [.dst d.toNat, .fr a.toNat, .src b.toNat]
  | .ldgB _ _ d b p => [.dst d.toNat, .src b.toNat, .src p.toNat]
  | .ldgBu _ _ d b p => [.dst d.toNat, .src b.toNat, .src p.toNat]
  | .ldgH _ _ d b p => [.dst d.toNat, .src b.toNat, .src p.toNat]
  | .ldgHu _ _ d b p => [.dst d.toNat, .src b.toNat, .src p.toNat]
  | .ldgW _ _ d b p => [.dst d.toNat, .src b.toNat, .src p.toNat]
  | .ldgWu _ _ d b p => [.dst d.toNat, .src b.toNat, .src p.toNat]
  | .ldgD _ _ d b p => [.dst d.toNat, .src b.toNat, .src p.toNat]
  | .ldgQ _ _ d b p => [.pair d.toNat, .src b.toNat, .src p.toNat]
  | .stgB _ _ d b p => [.src d.toNat, .src b.toNat, .src p.toNat]
  | .stgH _ _ d b p => [.src d.toNat, .src b.toNat, .src p.toNat]
  | .stgW _ _ d b p => [.src d.toNat, .src b.toNat, .src p.toNat]
  | .stgD _ _ d b p => [.src d.toNat, .src b.toNat, .src p.toNat]
  | .stgQ _ _ d b p => [.pairSrc d.toNat, .src b.toNat, .src p.toNat]
  | .stref _ _ d b p => [.src d.toNat, .src b.toNat, .src p.toNat]
  | .sthdr _ _ d b p => [.src d.toNat, .src b.toNat, .src p.toNat]
  | .strefHomeCheck _ => []
  | .ldsB _ _ d b i => [.dst d.toNat, .src b.toNat, .src i.toNat]
  | .ldsBu _ _ d b i => [.dst d.toNat, .src b.toNat, .src i.toNat]
  | .ldsH _ _ d b i => [.dst d.toNat, .src b.toNat, .src i.toNat]
  | .ldsHu _ _ d b i => [.dst d.toNat, .src b.toNat, .src i.toNat]
  | .ldsW _ _ d b i => [.dst d.toNat, .src b.toNat, .src i.toNat]
  | .ldsWu _ _ d b i => [.dst d.toNat, .src b.toNat, .src i.toNat]
  | .ldsD _ _ d b i => [.dst d.toNat, .src b.toNat, .src i.toNat]
  | .ldsQ _ _ d b i => [.pair d.toNat, .src b.toNat, .src i.toNat]
  | .stsB _ _ d b i => [.src d.toNat, .src b.toNat, .src i.toNat]
  | .stsH _ _ d b i => [.src d.toNat, .src b.toNat, .src i.toNat]
  | .stsW _ _ d b i => [.src d.toNat, .src b.toNat, .src i.toNat]
  | .stsD _ _ d b i => [.src d.toNat, .src b.toNat, .src i.toNat]
  | .stsQ _ _ d b i => [.pairSrc d.toNat, .src b.toNat, .src i.toNat]
  | .ldfGS _ _ d b p => [.fr d.toNat, .src b.toNat, .src p.toNat]
  | .ldfGD _ _ d b p => [.fr d.toNat, .src b.toNat, .src p.toNat]
  | .ldfGI _ _ d b p => [.fr d.toNat, .src b.toNat, .src p.toNat]
  | .ldfGJ _ _ d b p => [.fpair d.toNat, .src b.toNat, .src p.toNat]
  | .ldfLS _ _ d b i => [.fr d.toNat, .src b.toNat, .src i.toNat]
  | .ldfLD _ _ d b i => [.fr d.toNat, .src b.toNat, .src i.toNat]
  | .ldfLI _ _ d b i => [.fr d.toNat, .src b.toNat, .src i.toNat]
  | .ldfLJ _ _ d b i => [.fpair d.toNat, .src b.toNat, .src i.toNat]
  | .stfGS _ _ d b p => [.fr d.toNat, .src b.toNat, .src p.toNat]
  | .stfGD _ _ d b p => [.fr d.toNat, .src b.toNat, .src p.toNat]
  | .stfGI _ _ d b p => [.fr d.toNat, .src b.toNat, .src p.toNat]
  | .stfGJ _ _ d b p => [.fpair d.toNat, .src b.toNat, .src p.toNat]
  | .stfLS _ _ d b i => [.fr d.toNat, .src b.toNat, .src i.toNat]
  | .stfLD _ _ d b i => [.fr d.toNat, .src b.toNat, .src i.toNat]
  | .stfLI _ _ d b i => [.fr d.toNat, .src b.toNat, .src i.toNat]
  | .stfLJ _ _ d b i => [.fpair d.toNat, .src b.toNat, .src i.toNat]
  | .loadReply _ _ => []
  | .storeFaultFound _ => []
  | .amogAddW _ _ d b v => [.dst d.toNat, .src b.toNat, .src v.toNat]
  | .amogAddD _ _ d b v => [.dst d.toNat, .src b.toNat, .src v.toNat]
  | .amogMaxW _ _ d b v => [.dst d.toNat, .src b.toNat, .src v.toNat]
  | .amogMinW _ _ d b v => [.dst d.toNat, .src b.toNat, .src v.toNat]
  | .amogSwapW _ _ d b v => [.dst d.toNat, .src b.toNat, .src v.toNat]
  | .amogSwapD _ _ d b v => [.dst d.toNat, .src b.toNat, .src v.toNat]
  | .amogCasW _ _ d b v => [.dst d.toNat, .src b.toNat, .src v.toNat]
  | .amogCasD _ _ d b v => [.dst d.toNat, .src b.toNat, .src v.toNat]
  | .amog2AndD _ _ d b v => [.dst d.toNat, .src b.toNat, .src v.toNat]
  | .amog2OrD _ _ d b v => [.dst d.toNat, .src b.toNat, .src v.toNat]
  | .amog2XorD _ _ d b v => [.dst d.toNat, .src b.toNat, .src v.toNat]
  | .amog2MaxuD _ _ d b v => [.dst d.toNat, .src b.toNat, .src v.toNat]
  | .amog2MinuD _ _ d b v => [.dst d.toNat, .src b.toNat, .src v.toNat]
  | .amog2AndW _ _ d b v => [.dst d.toNat, .src b.toNat, .src v.toNat]
  | .amog2OrW _ _ d b v => [.dst d.toNat, .src b.toNat, .src v.toNat]
  | .amog2XorW _ _ d b v => [.dst d.toNat, .src b.toNat, .src v.toNat]
  | .amogscAddW _ _ d b v => [.dst d.toNat, .src b.toNat, .src v.toNat]
  | .amogscAddD _ _ d b v => [.dst d.toNat, .src b.toNat, .src v.toNat]
  | .amogscMaxW _ _ d b v => [.dst d.toNat, .src b.toNat, .src v.toNat]
  | .amogscMinW _ _ d b v => [.dst d.toNat, .src b.toNat, .src v.toNat]
  | .amogscSwapW _ _ d b v => [.dst d.toNat, .src b.toNat, .src v.toNat]
  | .amogscSwapD _ _ d b v => [.dst d.toNat, .src b.toNat, .src v.toNat]
  | .amogscCasW _ _ d b v => [.dst d.toNat, .src b.toNat, .src v.toNat]
  | .amogscCasD _ _ d b v => [.dst d.toNat, .src b.toNat, .src v.toNat]
  | .amosAddW _ _ d b v => [.dst d.toNat, .src b.toNat, .src v.toNat]
  | .amosAddD _ _ d b v => [.dst d.toNat, .src b.toNat, .src v.toNat]
  | .amosMaxW _ _ d b v => [.dst d.toNat, .src b.toNat, .src v.toNat]
  | .amosMinW _ _ d b v => [.dst d.toNat, .src b.toNat, .src v.toNat]
  | .amosSwapW _ _ d b v => [.dst d.toNat, .src b.toNat, .src v.toNat]
  | .amosSwapD _ _ d b v => [.dst d.toNat, .src b.toNat, .src v.toNat]
  | .amosCasW _ _ d b v => [.dst d.toNat, .src b.toNat, .src v.toNat]
  | .amosCasD _ _ d b v => [.dst d.toNat, .src b.toNat, .src v.toNat]
  | .atomicPerform _ => []
  | .atomicReply _ => []
  | .fence _ _ _ _ _ => []
  | .fenceReleaseHeld _ => []
  | .pfl _ _ b p => [.src b.toNat, .src p.toNat]
  | .pfr _ _ t b l => [.tag t.toNat, .src b.toNat, .src l.toNat]
  | .wbl1 _ _ b l => [.src b.toNat, .src l.toNat]
  | .invl1 _ _ b l => [.src b.toNat, .src l.toNat]
  | .acqr _ _ d b l => [.src d.toNat, .src b.toNat, .src l.toNat]
  | .acqrComplete _ => []
  | .pub _ _ d b _ => [.dst d.toNat, .src b.toNat]
  | .tagof _ _ d b p => [.dst d.toNat, .src b.toNat, .src p.toNat]
  | .scopeof _ _ d b p => [.dst d.toNat, .src b.toNat, .src p.toNat]
  | .colr _ _ d b l => [.src d.toNat, .src b.toNat, .src l.toNat]
  | .colof _ _ d b p => [.dst d.toNat, .src b.toNat, .src p.toNat]
  | .colrLine _ => []
  | .walkStart _ => []
  | .walkObject _ => []
  | .cwait _ _ b => [.src b.toNat]
  | .cnotify _ _ b => [.src b.toNat]
  | .cnotifyall _ _ b => [.src b.toNat]
  | .cheld _ _ d b => [.dst d.toNat, .src b.toNat]
  | .monitorAcquire _ => []
  | .monitorRelease _ => []
  | .monitorWait _ => []
  | .monitorNotify _ => []
  | .monitorNotifyAll _ => []
  | .monitorGrant _ => []
  | .monitorQueuedReply _ => []
  | .colourReleaseSend _ => []
  | .copy _ _ d s p => [.src d.toNat, .src s.toNat, .src p.toNat]
  | .copym _ _ d s p => [.src d.toNat, .src s.toNat, .src p.toNat]
  | .copyb _ _ d s p => [.src d.toNat, .src s.toNat, .src p.toNat]
  | .gather _ _ d x p => [.src d.toNat, .src x.toNat, .pairSrc p.toNat]
  | .copyStart _ => []
  | .copyEnd _ => []
  | .gatherEnd _ => []
  | .pfrEnd _ => []
  | .ringIdleExpiry _ => []
  | .twaitall _ _ b => [.src b.toNat]
  | .twaitany _ _ b => [.src b.toNat]
  | .tfirst _ _ d b => [.dst d.toNat, .src b.toNat]
  | .tclr _ _ b => [.src b.toNat]
  | .tdef _ _ d b p => [.src d.toNat, .src b.toNat, .src p.toNat]
  | .trd _ _ d t i => [.dst d.toNat, .src t.toNat, .src i.toNat]
  | .sign _ _ n => [.cv n.toNat]
  | .mldb _ _ d b => [.src d.toNat, .src b.toNat]
  | .mmq _ _ d a m => [.src d.toNat, .src a.toNat, .src m.toNat]
  | .mcommit _ _ n => [.tag n.toNat]
  | .mwait _ _ n => [.tag n.toNat]
  | .cvset _ _ n p => [.cv n.toNat, .src p.toNat]
  | .signApply _ => []
  | .cvsetApply _ => []
  | .engineCommandStart _ => []
  | .tdefComplete _ => []
  | .mldbComplete _ => []
  | .mmqRow _ => []
  | .mzeroRow _ => []
  | .mxstRow _ => []
  | .mzero _ _ b p => [.src b.toNat, .src p.toNat]
  | .mrd _ _ d b i => [.dst d.toNat, .src b.toNat, .src i.toNat]
  | .mwr _ _ d b i => [.src d.toNat, .src b.toNat, .src i.toNat]
  | .stpl _ _ d a p => [.src d.toNat, .src a.toNat, .src p.toNat]
  | .mxst _ _ d b p => [.src d.toNat, .src b.toNat, .src p.toNat]
  | .binit _ _ b p => [.src b.toNat, .src p.toNat]
  | .arrive _ _ b p => [.src b.toNat, .src p.toNat]
  | .bwait _ _ b p => [.src b.toNat, .src p.toNat]
  | .arrivew _ _ b p => [.src b.toNat, .src p.toNat]
  | .nbar _ _ _ => []
  | .binval _ _ b => [.src b.toNat]
  | .barrierBankOp _ => []
  | .nbarPhaseComplete _ => []
  | .tqpush _ _ d => [.src d.toNat]
  | .tqpop _ _ d => [.dst d.toNat]
  | .amsend _ _ d b p => [.dst d.toNat, .src b.toNat, .src p.toNat]
  | .launch _ _ d b p => [.dst d.toNat, .src b.toNat, .src p.toNat]
  | .tqPushApply _ => []
  | .tqPopServe _ => []
  | .tqStealServe _ => []
  | .tqpopReply _ => []
  | .amArrival _ => []
  | .amsendStatus _ => []
  | .handlerGroupPlace _ => []
  | .launchStatus _ => []
  | .trap _ _ b => [.src b.toNat]
  | .rft _ _ => []
  | .rdtr _ _ d b => [.dst d.toNat, .src b.toNat]
  | .syscall _ _ b => [.src b.toNat]
  | .dflush _ _ => []
  | .rdfpc _ _ d => [.dst d.toNat]
  | .wrfpc _ _ b => [.src b.toNat]
  | .rdhash _ _ d => [.dst d.toNat]
  | .atomicBufferDrain _ _ => []
  | .l1SweepWriteback _ _ _ => []
  | .writebackArrival _ => []
  | .writeThroughArrival _ => []
  | .kernelRecordAccept _ => []
  | .groupPlace => []
  | .groupStart _ => []
  | .groupRetire _ => []
  | .kernelRetire _ => []
  | .contextSlotAssign _ _ _ => []
  | .contextLoadComplete _ _ => []
  | .contextSwitchRequest _ _ => []
  | .switchExchangeBegin _ => []
  | .switchExchangeEnd _ _ => []
  | .weightSlotRestoreDone _ => []
  | .contextEvict _ _ => []
  | .contextSaveComplete _ _ => []
  | .contextDestroy _ => []
  | .translation _ _ => []
  | .faultReadIndexAdvance _ _ => []
  | .migrationCounterHalve _ => []
  | .inval _ _ _ _ => []
  | .purge _ _ _ _ => []
  | .move _ _ _ _ => []
  | .bias _ _ _ _ => []
  | .replay _ _ _ _ => []
  | .deny _ _ _ _ => []
  | .dget _ _ _ _ => []
  | .scrub _ _ _ _ => []
  | .queueRegister _ _ _ => []
  | .queueDestroy _ => []
  | .queueMap _ _ => []
  | .queueUnmap _ => []
  | .queueWake _ => []
  | .queueSlotTimeslice _ => []
  | .queueLaunch _ _ => []
  | .queueCopy _ _ => []
  | .queueSignal _ _ => []
  | .queueWait _ _ => []
  | .queueWaitSatisfied _ _ => []
  | .queueMarker _ _ => []
  | .queueTimestamp _ _ => []
  | .queuePacketComplete _ _ => []
  | .bulkEngineWake _ => []
  | .bulkPacketStart _ => []
  | .bulkPacketComplete _ _ => []
  | .krfet _ _ _ => []
  | .kbfx _ _ _ => []
  | .kswait _ _ => []
  | .kswaitWake _ _ => []
  | .kdisp _ _ _ => []
  | .watchdogHeartbeat => []
  | .watchdogExpiry => []
  | .powerGood => []
  | .imageStartCommand _ _ => []
  | .reducedServiceBegin => []
  | .hbmStackTrained _ => []
  | .fullServiceBegin => []
  | .deviceReset => []
  | .powerLimitExceeded => []
  | .thermalTrip _ => []
  | .clampSecondStep _ _ => []
  | .clampRestore _ _ => []
  | .clockChangeApply _ => []
  | .powerLimitSet _ => []
  | .rdcSizeSet _ _ => []
  | .linkEnable _ => []
  | .linkDisable _ => []
  | .linkTrained _ _ => []
  | .linkTrainingTimeout _ => []
  | .linkReplayFailure _ => []
  | .linkLockLoss _ => []
  | .hostModuleFail _ => []
  | .registerWrite _ _ => []
  | .contextCreate _ _ _ _ _ _ _ _ _ _ => []
  | .bulkQueueRegister _ _ _ => []
  | .hostMemoryAccess _ _ _ _ => []
  | .clampConditionClear _ _ => []
  | .cohortSwapComplete _ => []
  | .eventRingReadAdvance _ => []
  | .podJobEnrol _ _ _ _ => []
  | .scratchStorePerform _ => []

/-- Whether a general register exists for the kernel (R84): g0, or g1 to the declared count. -/
def gOk (lr : LaunchRec) (k : Nat) : Bool := decide (k ≤ lr.ng)

/-- R84 for one field; 63 in a source field is the literal (R68). R108 lists g1 to g62 and the literal for the target of JMPR and CALLR, where R84 allows g0 in every field of
a general register: here g0 is no ILLEGAL word there, and its target is address 0 (log entry 77). -/
def useOk (lr : LaunchRec) : RegUse → Bool
  | .src k => k == 63 || gOk lr k
  | .dst k => gOk lr k
  | .pair k => gOk lr k && gOk lr (k + 1)
  | .pairSrc k => k == 0 || (gOk lr k && gOk lr (k + 1))
  | .fr k => decide (k < lr.nf)
  | .fpair k => decide (k + 1 < lr.nf)
  | .tag k => decide (k < lr.tags)
  | .cv k => decide (k < lr.cvs)

/-- Whether a word reads a literal (R68, R106). -/
def readsLiteral (i : Instr) : Bool :=
  (match i with
   | .brUl _ _ => true
   | _ => false) || (regUses i).any (· == .src 63)

/-- The pipe of a major (R85): 0 I, 1 F, 2 M. -/
def pipeOf (w : Word32) : Nat :=
  let m := fld w.toNat 25 6
  if m < 0x18 then 0 else if m < 0x28 then 1 else 2

/-- The branches (R88). -/
def isBranch (i : Instr) : Bool :=
  match i with
  | .brUt _ _ => true
  | .brUf _ _ => true
  | .br _ _ => true
  | .brUl _ _ => true
  | .jmp _ => true
  | .call _ => true
  | .jmpr _ _ => true
  | .callr _ _ => true
  | .ret _ => true
  | .exit _ => true
  | _ => false

def isNop (i : Instr) : Bool :=
  match i with
  | .nop _ _ => true
  | _ => false

def isBisect (i : Instr) : Bool :=
  match i with
  | .bisectI .. => true
  | .bisectJ .. => true
  | _ => false

/-- The flagged words of R78, by major and function. -/
def isFlagged (w : Word32) : Bool :=
  let n := w.toNat
  let fn := n % 8
  let fn9 := n % 512
  match fld n 25 6 with
  | 0x13 => true
  | 0x18 => fn == 3
  | 0x19 => fn == 3
  | 0x1A => fn == 3
  | 0x1B => fn == 3
  | 0x1E => fn9 == 2 || fn9 == 18
  | 0x24 => fn == 2 || fn == 3
  | 0x28 => true
  | 0x29 => fn == 5
  | 0x2A => true
  | 0x2C => true
  | 0x2E => true
  | 0x2F => true
  | 0x30 => true
  | 0x31 => true
  | 0x33 => fn == 4
  | 0x34 => fn == 0 || fn == 1 || fn == 2 || fn == 4
  | 0x39 => fn == 1
  | 0x3B => fn == 1 || fn == 2 || fn == 3
  | _ => false

/-- The words from place `p` that belong to one chain group (R71), with their places: up to the first word with C = 0 or the packet's end. -/
def groupFrom (words : List Word32) : Nat → Nat → List (Nat × Word32)
  | 0, _ => []
  | fuel + 1, p =>
    match words[p]? with
    | none => []
    | some w =>
      if w.toNat / 2 ^ 31 = 1 ∧ p % 3 < 2 then (p, w) :: groupFrom words fuel (p + 1) else [(p, w)]

/-- Places of instruction words from `p` on, skipping literal words, with the instructions they decode to (R68, R88). -/
noncomputable def instrsFrom (words : List Word32) : Nat → Nat → List (Option Instr)
  | 0, _ => []
  | fuel + 1, p =>
    match words[p]? with
    | none => []
    | some w =>
      match decode w with
      | .error _ => none :: instrsFrom words fuel (p + 1)
      | .ok i => some i :: instrsFrom words fuel (if readsLiteral i then p + 2 else p + 1)

/-- One word of a group against the rules that concern it alone (R68, R71, R84, R88, R89). -/
noncomputable def wordOk (lr : LaunchRec) (words : List Word32) (last : Bool) (p : Nat) (w : Word32) : Bool :=
  match decode w with
  | .error _ => false
  | .ok i =>
    (regUses i).all (useOk lr)
    && (match i with
        | .clauseStart .. => false
        | .krfet .. => false
        | .kbfx .. => false
        | .kswait .. => false
        | .kdisp .. => false
        | _ => true)
    && (!readsLiteral i || (last && p % 3 != 2))
    && (!isBranch i || p + (if readsLiteral i then 2 else 1) == words.length)
    && (!isBisect i ||
        (let rest := instrsFrom words words.length (p + 1)
         (rest.dropLast.all fun x => match x with
           | some j => isNop j
           | none => false)
         && (match rest.getLast? with
             | none => true
             | some (some j) => isNop j || isBranch j
             | some none => false)))

/-- The first word of the chain group that breaks a structural rule (R71, R78, R89), going through the group's words with the pipes and
the number of flagged words before each; `more` flagged words may still be marked. -/
noncomputable def badFrom (lr : LaunchRec) (words : List Word32) : List (Nat × Word32) → List Nat → Nat → Option Nat
  | [], _, _ => none
  | (p, w) :: rest, pipes, more =>
    -- the last word of a packet has no next word to be tied to
    if rest.isEmpty && w.toNat / 2 ^ 31 == 1 then some p
    else if pipes.contains (pipeOf w) then some p
    else if !wordOk lr words rest.isEmpty p w then some p
    else if isFlagged w then (if more = 0 then some p else badFrom lr words rest (pipeOf w :: pipes) (more - 1))
    else badFrom lr words rest (pipeOf w :: pipes) more

/-- The place of the word that makes the chain group in issue ILLEGAL, if any (R89): a clause marks one flag, or two when B is not 15
(R78). -/
noncomputable def badPlace (lr : LaunchRec) (iss : Issue) : Option Nat :=
  badFrom lr iss.words (groupFrom iss.words 3 iss.pos) [] ((if iss.bFlag = 15 then 1 else 2) - iss.flagged)

end Sys2Proof.Machine
end

