-- ==== Sys2Proof/Machine/Memory.lean ====
section
/-!
DEFINITION. Memory: homes and translation (R351 to R354, R404), line metadata (R210 to R214), the L1s, the dies' copies, write-backs and
write-throughs (R167, R172, R176, R181 to R184, R188), scratch and its banks (R158, R305, R306, R316, R326).
-/

namespace Sys2Proof.Machine

/-! ### Homes -/

/-- A byte's place in the memory of all nodes. -/
def physKey (node addr : Nat) : Nat := node * 2 ^ 52 + addr

/-- Bytes at a home. -/
def Mem.rd (m : Mem) (node addr n : Nat) : Nat := cellsReadN m.bytes (physKey node addr) n

def Mem.wr (m : Mem) (node addr n v : Nat) : Mem := { m with bytes := cellsWriteN (physKey node addr) v n m.bytes }

/-- The line of a place. -/
def lineKey (node addr : Nat) : Nat := physKey node addr / 64

def Mem.metaAt (m : Mem) (node addr : Nat) : BitVec 32 := tabRead m.lineMeta (lineKey node addr)

def Mem.setMeta (m : Mem) (node addr : Nat) (v : BitVec 32) : Mem :=
  { m with lineMeta := tabWrite (lineKey node addr) v m.lineMeta }

def Mem.poisoned (m : Mem) (node addr : Nat) : Bool := m.poison.contains (lineKey node addr)

/-! ### Line metadata (R210, R214) -/

def mKind (v : BitVec 32) (w : Nat) : Nat := v.toNat / 4 ^ w % 4
def mColour (v : BitVec 32) : Nat := v.toNat / 2 ^ 16 % 64
def mScope (v : BitVec 32) : Nat := v.toNat / 2 ^ 22 % 8

def setKind (v : BitVec 32) (w k : Nat) : BitVec 32 :=
  BitVec.ofNat 32 (v.toNat - mKind v w * 4 ^ w + k * 4 ^ w)

def setScope (v : BitVec 32) (k : Nat) : BitVec 32 :=
  BitVec.ofNat 32 (v.toNat - mScope v * 2 ^ 22 + k * 2 ^ 22)

def setColour (v : BitVec 32) (k : Nat) : BitVec 32 :=
  BitVec.ofNat 32 (v.toNat - mColour v * 2 ^ 16 + k * 2 ^ 16)

/-- The effective scope (R214). -/
def effScope (v : BitVec 32) : Nat := if mColour v != 0 && decide (mScope v < 3) then 3 else mScope v

/-- Kinds of words `w, w+1, …` (n of them) set to `k`. -/
def setKinds (v : BitVec 32) (k w : Nat) : Nat → BitVec 32
  | 0 => v
  | n + 1 => setKinds (setKind v w k) k (w + 1) n

/-- The words of a line that bytes [off, off + n) touch get kind `k` (R162, R211). -/
def kindsOver (v : BitVec 32) (k off n : Nat) : BitVec 32 :=
  if n = 0 then v else setKinds v k (off / 8) ((off + n - 1) / 8 - off / 8 + 1)

/-! ### Page-table entries (R352, R353) -/

def peV (e : Word) : Bool := e.toNat % 2 == 1
def peRD (e : Word) : Bool := e.toNat / 2 % 2 == 1
def peWR (e : Word) : Bool := e.toNat / 4 % 2 == 1
def peEX (e : Word) : Bool := e.toNat / 8 % 2 == 1
def peME (e : Word) : Bool := e.toNat / 16 % 2 == 1
def peAT (e : Word) : Bool := e.toNat / 32 % 2 == 1
def peHome (e : Word) : Nat := e.toNat / 64 % 4
def peDie (e : Word) : Nat := e.toNat / 256 % 4
def peSpan (e : Word) : Nat := e.toNat / 1024 % 8
def peLeaf (e : Word) : Bool := e.toNat / 2 ^ 13 % 2 == 1
def peHB (e : Word) : Bool := e.toNat / 2 ^ 14 % 2 == 1 || peHome e == 3
def peFrame (e : Word) : Nat := e.toNat / 2 ^ 16 % 2 ^ 36
def pePkg (e : Word) : Nat := e.toNat / 2 ^ 54

/-- The node of a leaf's home. -/
def peNode (e : Word) : Nat :=
  match peHome e with
  | 2 => 8 + 4 * pePkg e + peDie e
  | 3 => 4
  | _ => peDie e

/-- Bytes of a page at a level with a span code (R353); 0 when malformed. -/
def pageSize (level span : Nat) : Nat :=
  if level = 2 then (if span = 0 then 2 ^ 30 else 0)
  else if level = 0 then (if span ≤ 3 then 4 ^ span * 2 ^ 12 else 0)
  else if span ≤ 4 then 4 ^ span * 2 ^ 21
  else 0

/-- Reserved bits, and the fields that must be 0 for the home type (R352). -/
def peReservedBad (e : Word) : Bool :=
  e.toNat / 2 ^ 52 % 4 != 0 || e.toNat / 2 ^ 15 % 2 != 0 || (peHome e != 2 && pePkg e != 0)

/-- Shift of the index of a level (R351). -/
def levelShift (level : Nat) : Nat := 12 + 9 * level

/-- What translation finds: the leaf with its page; the level that stopped the walk and whether an entry was malformed; that a table lies where the way
is not open, so that the walk waits (R377, R378); or that the line of a table which the walk reads, at a node's address, has an uncorrectable error (R363). -/
inductive Trans where
  | leaf (entry : Word) (base size : Nat)
  | none (level : Nat) (mf : Bool)
  | wait
  | bad (node addr : Nat)
  deriving DecidableEq, Repr

/-- Why an address has no home yet: its page has no valid leaf (R358), its walk waits for a stack or the host port (R377, R378), or its walk has met an
uncorrectable error in a table's line (R363). -/
inductive Miss where
  | absent (level : Nat) (mf : Bool)
  | wait
  | bad (node addr : Nat)
  deriving DecidableEq, Repr

/-! ### Uncorrectable errors (R363) -/

/-- Whether reading a line meets an uncorrectable error: it is poisoned, or has an error that this read is the first to meet. -/
def Mem.bad (m : Mem) (node addr : Nat) : Bool := m.poisoned node addr || m.latent.contains (lineKey node addr)

/-- A read meets a line's uncorrectable error: the line is poisoned from now on. -/
def State.meetLine (s : State) (node addr : Nat) : State :=
  let k := lineKey node addr
  if s.mem.latent.contains k then { s with mem := { s.mem with latent := setErase k s.mem.latent, poison := setInsert k s.mem.poison } } else s

def State.meetError (s : State) (h : Home) : State := s.meetLine h.node h.addr

/-- Whether a frame of the node exists (R12, R13, R352): HBM of a die less its remote-data cache; the host and peers have any. -/
def State.frameExists (s : State) (node addr : Nat) : Bool :=
  if h : node < 4 then decide (addr < (160 - s.dev.rdcGib[node]) * 2 ^ 30) else true

/-- Whether the host port is up: it carries nothing otherwise (R378). -/
def State.hostUp (s : State) : Bool := (s.dev.links[28]?.getD Link.reset).st == .up

/-- Whether the way to a frame is open: its HBM stack is trained (R377), of which the first of each die holds the lower half; for host memory, the host
port is up (R378). -/
def State.stackTrained (s : State) (node addr : Nat) : Bool :=
  if node < 4 then s.dev.hbm[2 * node + (if addr < 80 * 2 ^ 30 then 0 else 1)]?.getD false
  else if node = 4 then s.hostUp else true

/-- The walk from one level down (R351 to R354); `node`, `tab` where the table lies. A table outside every memory holds no entry, as if the entry that
names it were malformed (log entry 44). -/
def State.walkFrom (s : State) (va : Nat) : Nat → Nat → Nat → Trans
  | 0, node, tab =>
    let at' := tab + 8 * (va / 2 ^ 12 % 512)
    if !s.frameExists node tab then .none 0 true
    else if !s.stackTrained node tab then .wait
    else if s.mem.bad node at' then .bad node at'
    else leafOf (BitVec.ofNat 64 (s.mem.rd node at' 8)) 0
  | level + 1, node, tab =>
    let n := if level + 1 = 4 then 16 else 512
    let at' := tab + 8 * (va / 2 ^ levelShift (level + 1) % n)
    let e := BitVec.ofNat 64 (s.mem.rd node at' 8)
    if !s.frameExists node tab then .none (level + 1) true
    else if !s.stackTrained node tab then .wait
    else if s.mem.bad node at' then .bad node at'
    else if !peV e then .none (level + 1) false
    else if peLeaf e then leafOf e (level + 1)
    else if peReservedBad e then .none (level + 1) true
    else s.walkFrom va level (peNode e) (peFrame e * 2 ^ 12)
where
  /-- A leaf at a level, judged by R352 and R353. -/
  leafOf (e : Word) (level : Nat) : Trans :=
    if !peV e then .none level false
    else
      let size := pageSize level (peSpan e)
      if !peLeaf e || decide (level > 2) || size == 0 || peReservedBad e || peFrame e * 2 ^ 12 % size != 0 then .none level true
      else .leaf e (va / size * size) size

/-- A translation of the context's address at a die (R354): from its TLB, or by a walk; `rewalk` the TLB's entry was replaced meanwhile. -/
def State.translate (s : State) (die asid va : Nat) (rewalk : Bool) : Trans :=
  let hit := if rewalk then none else
    s.mem.tlb.find? fun t => t.die == die && t.asid == asid && decide (t.base ≤ va ∧ va < t.base + t.size)
  match hit with
  | some t => .leaf t.entry t.base t.size
  | none =>
    -- ASID 0 is the firmware's (R354)
    if asid = 0 then s.walkFrom va 4 s.kiln.ptDie s.kiln.ptBase
    else match s.ctx? asid with
      | none => .none 4 false
      | some c => s.walkFrom va 4 c.ptDie c.ptBase

/-- A walk's leaf is kept in the die's TLB (R354). An entry of the page that is there stays until a command drops it, so that a later translation may still
use it (R355). -/
def State.fillTlb (s : State) (die asid : Nat) (e : Word) (base size : Nat) : State :=
  if s.mem.tlb.any fun t => t.die == die && t.asid == asid && t.base == base && t.size == size then s
  else { s with mem := { s.mem with tlb := s.mem.tlb ++ [{ die := die, asid := asid, base := base, size := size, entry := e }] } }

/-- The home of the line that holds `va` in a page. -/
def homeOf (e : Word) (base size va : Nat) : Home :=
  { node := peNode e, addr := peFrame e * 2 ^ 12 + (va / 64 * 64 - base), entry := e, big := decide (2 ^ 21 ≤ size), size := size }

/-! ### Dirty bitmap (R357) -/

/-- Where the driver has placed the side table of a die. -/
def Mem.sideAt (m : Mem) (die : Nat) : Option Nat := (m.sideBase.find? (·.1 == die)).map (·.2)

/-- The 64-byte bitmap entry of the 2 MiB frame with number `e`, die·2^31 + frame: in its die's side table, the n-th entry at base + 64·n, or, where no table
has been placed, kept beside memory (log entry 50). -/
def Mem.dirtyOf (m : Mem) (e : Nat) : Nat :=
  match m.sideAt (e / 2 ^ 31) with
  | some base => m.rd (e / 2 ^ 31) (base + 64 * (e % 2 ^ 31)) 64
  | none => ((m.dirtyMap.find? (·.1 == e)).map (·.2)).getD 0

def Mem.setDirty (m : Mem) (e v : Nat) : Mem :=
  match m.sideAt (e / 2 ^ 31) with
  | some base => m.wr (e / 2 ^ 31) (base + 64 * (e % 2 ^ 31)) 64 v
  | none =>
    let rest := m.dirtyMap.filter (·.1 != e)
    { m with dirtyMap := if v = 0 then rest else insertBy (·.1) (e, v) rest }

/-- The driver places the side table of a die; what was marked before is marked there. -/
def Mem.placeSide (m : Mem) (die base : Nat) : Mem :=
  let marked := m.dirtyMap.filter fun x => x.1 / 2 ^ 31 == die
  let m1 := { m with
    sideBase := insertBy (·.1) (die, base) (m.sideBase.filter (·.1 != die))
    dirtyMap := m.dirtyMap.filter fun x => x.1 / 2 ^ 31 != die }
  marked.foldl (fun m x => m.setDirty x.1 x.2) m1

/-- A write that reaches home memory in a page of 2 MiB or larger sets its frame's bit. -/
def Mem.markDirty (m : Mem) (h : Home) : Mem :=
  if h.big ∧ h.node < 4 then
    let e := physKey h.node h.addr / 2 ^ 21
    m.setDirty e (m.dirtyOf e ||| 2 ^ (h.addr / 2 ^ 12 % 512))
  else m

/-! ### Lines as 64-byte values -/

/-- Byte masks and merging. -/
def byteMask (off n : Nat) : BitVec 64 := BitVec.ofNat 64 ((2 ^ n - 1) * 2 ^ off)

/-- A bit mask of 512 bits from a byte mask. -/
def bitsOfBytes (mask : BitVec 64) : Nat → BitVec 512
  | 0 => 0
  | n + 1 => bitsOfBytes mask n ||| (if mask.getLsbD n then (255#512 <<< (8 * n)) else 0)

def mergeLine (old new : BitVec 512) (mask : BitVec 64) : BitVec 512 :=
  let b := bitsOfBytes mask 64
  (old &&& ~~~b) ||| (new &&& b)

def lineSlice (d : BitVec 512) (off n : Nat) : Nat := d.toNat / 2 ^ (8 * off) % 2 ^ (8 * n)

def linePut (d : BitVec 512) (off n v : Nat) : BitVec 512 :=
  mergeLine d (BitVec.ofNat 512 (v * 2 ^ (8 * off))) (byteMask off n)

/-- The kinds of the words that have a byte in the mask replace the old ones (R211). -/
def mergeKinds (old new : BitVec 32) (mask : BitVec 64) : Nat → BitVec 32
  | 0 => old
  | n + 1 =>
    let r := mergeKinds old new mask n
    if mask.toNat / 2 ^ (8 * n) % 256 = 0 then r else setKind r n (mKind new n)

/-- Dirty bytes merge at the home, with their kinds on a page with metadata (R183, R211, R357). -/
def Mem.mergeHome (m : Mem) (h : Home) (data : BitVec 512) (mask : BitVec 64) (kinds : BitVec 32) : Mem :=
  if mask = 0 then m
  else
    let old := BitVec.ofNat 512 (m.rd h.node h.addr 64)
    let m1 := m.wr h.node h.addr 64 (mergeLine old data mask).toNat
    let m2 := if peME h.entry then m1.setMeta h.node h.addr (mergeKinds (m1.metaAt h.node h.addr) kinds mask 8) else m1
    m2.markDirty h

/-! ### The dies' L2s and copies (R169, R183) and write-throughs (R188) -/

/-- Whether the die holds copies of the line at all: it is homed elsewhere and may be cached (R202, R364). -/
def copyable (die : Nat) (h : Home) : Bool := h.node != die && h.node != 4 && !peHB h.entry

/-- Whether a line may be held in any cache of the package (R202). -/
def Home.cached (h : Home) : Bool := h.node != 4 && !peHB h.entry

def State.copyOf? (s : State) (die asid line : Nat) : Option DieCopy :=
  s.mem.copies.find? fun c => c.die == die && c.asid == asid && c.line == line

def State.ownLine? (s : State) (die asid line : Nat) : Option OwnLine :=
  s.mem.own.find? fun c => c.die == die && c.asid == asid && c.line == line

/-! ### Peers (R381, R382) -/

/-- The switch planes that are up, in ascending order: scale-up link i attaches to plane i (R381). -/
def State.planes (s : State) : List Nat := (List.range 16).filter fun i => (s.dev.links[i]?.getD Link.reset).st == .up

/-- The plane that a request to a peer package about a line is sent on (R381). -/
def State.planeOf (s : State) (line : Nat) : Option Nat := s.planes[lineHash line % max 1 s.planes.length]?

/-- Whether any scale-up link is up (R382). -/
def State.scaleUp (s : State) : Bool := !s.planes.isEmpty

/-- Whether accesses to the home end UNCORRECTABLE: a peer, with no link up (R382). -/
def State.unreachable (s : State) (h : Home) : Bool := decide (h.node ≥ 8) && !s.scaleUp

/-- The most entries that a package's record keeps for one sender (R382). -/
def peerRecord : Nat := 4096

/-- The record of a peer package takes one more request of this package, and forgets the oldest beyond its 4,096. -/
def recordPeer (log : List PeerDone) (x : PeerDone) : List PeerDone :=
  let mine := log.filter (·.pkg == x.pkg)
  (if mine.length < peerRecord then log else log.filter fun y => some y != mine.head?) ++ [x]

/-- The number of the package that a peer's node belongs to (R404). -/
def nodePkg (node : Nat) : Nat := (node - 8) / 4

/-- A request to a package about a line takes the sender's next sequence number and the plane of the line (R381, R382); `id` is who waits for its
acknowledgement. -/
def State.newPeer (s : State) (id pkg line : Nat) : PeerReq := { id := id, pkg := pkg, plane := s.planeOf line, line := line, seq := s.mem.peerSeq }

/-- A request has been sent; with `wait` it is kept until it is acknowledged (R382). -/
def State.sent (s : State) (r : PeerReq) (wait : Bool) : State :=
  { s with mem := { s.mem with peerSeq := s.mem.peerSeq + 1, unacked := if wait then s.mem.unacked ++ [r] else s.mem.unacked } }

/-- The peer performs an atomic or a write-through, and keeps its sequence number with an atomic's old value (R382). -/
def State.recorded (s : State) (r : PeerReq) (old : Nat) : State :=
  { s with mem := { s.mem with peerLog := recordPeer s.mem.peerLog { pkg := r.pkg, seq := r.seq, old := old } } }

/-- A write to a line of a peer that is sent, performed and acknowledged at once. A home in this package needs no request. -/
def State.writePeer (s : State) (h : Home) (line : Nat) : State :=
  if h.node < 8 then s
  else
    let r := s.newPeer 0 (nodePkg h.node) line
    (s.sent r false).recorded r 0

/-- A read of a line of a peer is sent (R381, R382); nothing is recorded there. The request, for the one that waits for its answer. -/
def State.readPeer (s : State) (h : Home) (line : Nat) : State × Option PeerReq :=
  if h.node < 8 then (s, none)
  else
    let r := s.newPeer 0 (nodePkg h.node) line
    (s.sent r false, some r)

/-- A request that has been sent is not acknowledged before its reply reaches operation `id` (R382). -/
def State.keepPeer (s : State) (id : Nat) (r : Option PeerReq) : State :=
  match r with
  | none => s
  | some r => { s with mem := { s.mem with unacked := s.mem.unacked ++ [{ r with id := id }] } }

/-- A scale-up link leaves up: every request whose acknowledgement has not arrived is sent again, on the plane that the hash now gives (R382); none while no plane
is up. -/
def State.resendPeer (s : State) : State :=
  { s with mem := { s.mem with unacked := s.mem.unacked.map fun r => { r with plane := s.planeOf r.line } } }

/-- A scale-up link comes up: the requests that found no plane are sent. -/
def State.sendWaiting (s : State) : State :=
  { s with mem := { s.mem with unacked := s.mem.unacked.map fun r => if r.plane = none then { r with plane := s.planeOf r.line } else r } }

/-- A request to a peer is acknowledged. -/
def State.ackPeer (s : State) (id : Nat) : State := { s with mem := { s.mem with unacked := s.mem.unacked.filter (·.id != id) } }

/-- The request that waits for its acknowledgement under `id`. -/
def State.peerReq? (s : State) (id : Nat) : Option PeerReq := s.mem.unacked.find? (·.id == id)

/-- The old value that a request's acknowledgement brings: from the record of the package that performed it, whichever of its sendings is answered. -/
def State.peerAnswer (s : State) (r : PeerReq) : Option Nat := (s.mem.peerLog.find? fun x => x.pkg == r.pkg && x.seq == r.seq).map (·.old)

/-- Whether the way of a write-through to its home is closed: its stack is not trained, or its package is out of reach (R377, R382). It waits. -/
def State.wtStuck (s : State) (w : WriteThrough) : Bool := !s.stackTrained w.home.node w.home.addr || s.unreachable w.home

/-- A write-through reaches its home (R183), where it is merged once; a peer records it and acknowledges it (R382). -/
def State.wtArrives (s : State) (w : WriteThrough) : State :=
  let s1 := match s.peerReq? w.id with
    | some r => (s.recorded r 0).ackPeer w.id
    | none => s
  { s1 with mem := { (s1.mem.mergeHome w.home w.data w.mask w.kinds) with wts := s.mem.wts.filter (·.id != w.id) } }

/-- Whether a release at a scope waits for a write-through whose way is closed: those to homes in the package from package scope on, those to peers at pod scope
(R188). -/
def State.drainStuck (s : State) (die asid scope : Nat) : Bool :=
  s.mem.wts.any fun w => w.die == die && w.asid == asid && s.wtStuck w && decide (4 ≤ scope ∧ (w.home.node < 8 ∨ 5 ≤ scope))

/-- Every write-through of the die and context (of one line, or of all) whose way is open reaches its home, oldest first (R188). -/
def State.drain (s : State) (which : WriteThrough → Bool) : State :=
  (s.mem.wts.filter fun w => which w && !s.wtStuck w).foldl State.wtArrives s

def State.drainDie (s : State) (die asid : Nat) : State := s.drain fun w => w.die == die && w.asid == asid

/-- The write-throughs of one line of a die reach the home. -/
def State.drainLine (s : State) (die asid line : Nat) : State := s.drain fun w => w.die == die && w.asid == asid && w.line == line

/-- Whether an earlier write-through of the same die to the same line is still on its way: they keep their order (R183). -/
def State.wtWaits (s : State) (w : WriteThrough) : Bool :=
  s.mem.wts.any fun x => decide (x.id < w.id) && x.die == w.die && x.home.node == w.home.node && x.home.addr == w.home.addr

/-- A die's copy is dropped; nothing in it is dirty, since every write-back into it was written through (R183). -/
def State.dropCopies (s : State) (which : DieCopy → Bool) : State :=
  { s with mem := { s.mem with copies := s.mem.copies.filter (fun c => !which c) } }

/-- Lines of a die's own memory leave its L2. -/
def State.dropOwn (s : State) (which : OwnLine → Bool) : State :=
  { s with mem := { s.mem with own := s.mem.own.filter (fun c => !which c) } }

/-- Lines that an L2 slice of 4 MiB holds, and those that it holds together with its share of the die's remote-data cache (R12, R13). -/
def sliceLines : Nat := 2 ^ 22 / 64

def State.cacheLines (s : State) (die : Nat) : Nat := sliceLines + (s.dev.rdcGib[die]?.getD 0) * 2 ^ 30 / 64 / 32

/-- The order in which lines are victims (R169): stream before normal before keep, the least recently used first. -/
def victimKey (cls used : Nat) : Nat := (2 - cls) * 2 ^ 64 + used

/-- The copies, and the lines of the die's own memory, that a slice of a die holds. -/
def State.sliceCopies (s : State) (die slice : Nat) : List DieCopy := s.mem.copies.filter fun c => c.die == die && sliceOf c.line == slice

def State.sliceOwn (s : State) (die slice : Nat) : List OwnLine := s.mem.own.filter fun c => c.die == die && sliceOf c.line == slice

/-- The line of a slice of a die that leaves next, of the die's own memory or of the copies unless `ownOnly`. The lines of a slice are taken as one set
(log entry 6). -/
def State.victimsL2 (s : State) (die slice : Nat) (ownOnly : Bool) : (DieCopy → Bool) × (OwnLine → Bool) :=
  let none' {α : Type} : α → Bool := fun _ => false
  let vo := minBy (fun c : OwnLine => victimKey c.cls c.used) (s.sliceOwn die slice)
  let vc := minBy (fun c : DieCopy => victimKey c.cls c.used) (if ownOnly then [] else s.sliceCopies die slice)
  match vc, vo with
  | none, none => (none', none')
  | some c, none => (fun x => x.die == die && x.asid == c.asid && x.line == c.line, none')
  | none, some o => (none', fun x => x.die == die && x.asid == o.asid && x.line == o.line)
  | some c, some o =>
    if victimKey c.cls c.used < victimKey o.cls o.used then (fun x => x.die == die && x.asid == c.asid && x.line == c.line, none')
    else (none', fun x => x.die == die && x.asid == o.asid && x.line == o.line)

/-- The lines of a slice of a die: those of the die's own memory alone, or all. -/
def State.linesIn (s : State) (die slice : Nat) (ownOnly : Bool) : Nat :=
  (if ownOnly then 0 else (s.sliceCopies die slice).length) + (s.sliceOwn die slice).length

/-- Lines of a slice leave, one after another, n at most, until so many are left. -/
def State.evictL2s (s : State) (die slice : Nat) (ownOnly : Bool) (left : Nat) : Nat → State
  | 0 => s
  | n + 1 =>
    if s.linesIn die slice ownOnly ≤ left then s
    else
      let v := s.victimsL2 die slice ownOnly
      State.evictL2s ((s.dropCopies v.1).dropOwn v.2) die slice ownOnly left n

/-- A slice of a die comes down to what its storage holds less `spare` lines, of which the die's own memory has the L2's part less `spareOwn` (R12, R13,
R169). -/
def State.trimSlice (s : State) (die slice spare spareOwn : Nat) : State :=
  let s1 := s.evictL2s die slice true (sliceLines - spareOwn) (s.linesIn die slice true)
  s1.evictL2s die slice false (s1.cacheLines die - spare) (s1.linesIn die slice false)

/-- Room for one more line in a slice of a die (R12, R13, R169). -/
def State.roomL2 (s : State) (die line : Nat) (own : Bool) : State := s.trimSlice die (sliceOf line) 1 (if own then 1 else 0)

/-- A copy enters a die's L2 or remote-data cache. -/
def State.addCopy (s : State) (c : DieCopy) : State :=
  let s1 := s.roomL2 c.die c.line false
  { s1 with mem := { s1.mem with copies := s1.mem.copies ++ [c] } }

/-- The die's L2 holds a line of the die's own memory from now on, unless the access does not allocate; the latest access gives its class
(R168, R169). -/
def State.touchOwn (s : State) (die asid line : Nat) (h : Home) (alloc : Bool) (cls : Nat) : State :=
  if (s.ownLine? die asid line).isSome then
    { s with mem := { s.mem with own := s.mem.own.map fun c =>
        if c.die = die ∧ c.asid = asid ∧ c.line = line then { c with cls := cls, used := s.fresh } else c } }
  else if alloc && h.node == die && h.cached then
    let s1 := s.roomL2 die line true
    { s1 with mem := { s1.mem with own := s1.mem.own ++ [{ die := die, asid := asid, line := line, home := h, cls := cls, used := s.fresh }] } }
  else s

/-- A miss of a die's L2 that goes to another home is counted for migration (R361). -/
def State.countMiss (s : State) (die asid line : Nat) (h : Home) : State :=
  if h.node = die then s
  else
    let region := line / 2 ^ 15
    let mine (m : MigCount) : Bool := m.die == die && m.asid == asid && m.region == region
    let old := (s.mem.mig.find? mine).getD { die := die, asid := asid, region := region, count := 0, armed := true }
    let n := min 65535 (old.count + 1)
    let fires := old.armed && decide (s.mem.migHigh ≤ n)
    -- the least recently used of a die's 4,096 counters is replaced
    let rest := s.mem.mig.filter fun m => !mine m
    let ofDie := rest.filter fun m => m.die == die
    let kept := if ofDie.length < 4096 then rest else rest.filter fun m => some m != ofDie.head?
    { s with mem := { s.mem with
        mig := kept ++ [{ old with count := n, armed := old.armed && !fires }]
        migBuf := if fires then s.mem.migBuf ++ [(region, asid, die, n)] else s.mem.migBuf } }

/-- Dirty bytes of an L1 reach the die's L2 (R180, R183): at the home when it is this die or the page is not cached, otherwise in
the die's copy, with a write-through to the home. A write-back that finds no copy allocates one, unless `alloc` is off (R168, R180). -/
def State.mergeL2 (s : State) (die asid line : Nat) (h : Home) (data : BitVec 512) (mask : BitVec 64) (kinds : BitVec 32)
    (alloc : Bool) (cls : Nat) : State :=
  if mask = 0 then s
  else if !copyable die h then
    let s1 := (s.touchOwn die asid line h alloc cls).writePeer h line
    { s1 with mem := s1.mem.mergeHome h data mask kinds }
  else
    let me := peME h.entry
    let upd (c : DieCopy) : DieCopy :=
      { c with data := mergeLine c.data data mask, valid := c.valid ||| mask,
               mdata := if me then mergeKinds c.mdata kinds mask 8 else c.mdata, cls := cls, used := s.fresh }
    let s1 := if (s.copyOf? die asid line).isSome then
        { s with mem := { s.mem with copies := s.mem.copies.map fun c =>
            if c.die = die ∧ c.asid = asid ∧ c.line = line then upd c else c } }
      else if alloc then
        s.addCopy (upd { die := die, asid := asid, line := line, data := 0, valid := 0, mdata := s.mem.metaAt h.node h.addr, home := h,
                         filled := s.fresh, cls := cls, used := s.fresh })
      else s
    -- a write-through to a peer is a request of its own (R381, R382)
    let s2 := if h.node < 8 then s1 else s1.sent (s1.newPeer s.fresh (nodePkg h.node) line) true
    { s2 with
      mem := { s2.mem with
        wts := s2.mem.wts ++ [{ id := s.fresh, die := die, asid := asid, line := line, data := data, mask := mask, kinds := kinds,
                                home := h }] }
      fresh := s.fresh + 1 }

/-- Whether reads of the home end UNCORRECTABLE: its line has an error (R363), or its package is out of reach (R382). -/
def State.unreadable (s : State) (h : Home) : Bool := s.mem.bad h.node h.addr || s.unreachable h

/-- A line as a die reads it: its bytes, of which those in `valid` were read, its metadata, the moment at which its oldest bytes were read at the home, and the
request to a peer that the reading has made. -/
structure LineRead where
  data : BitVec 512
  mdata : BitVec 32
  filled : Nat
  valid : BitVec 64
  req : Option PeerReq
  deriving DecidableEq, Repr

/-- What stands at the home now. -/
def State.readHome (s : State) (h : Home) : LineRead :=
  { data := BitVec.ofNat 512 (s.mem.rd h.node h.addr 64), mdata := s.mem.metaAt h.node h.addr, filled := s.fresh, valid := BitVec.allOnes 64, req := none }

/-- The bytes of the first n aligned blocks of 16 bytes, the largest access, that are wholly in a mask. -/
def wholeBlocks (mask : BitVec 64) : Nat → BitVec 64
  | 0 => 0
  | n + 1 =>
    let w := byteMask (16 * n) 16
    wholeBlocks mask n ||| (if mask &&& w = w then w else 0)

/-- A line of which the bytes in a mask are held, completed from what was read beside it. The mask takes an aligned block of the largest access whole, from what
is held where that has all of it, so that no access mixes two moments (R159, R216); kinds come with their words (R211), colour and scope come from the
reading. -/
def LineRead.complete (r : LineRead) (data : BitVec 512) (mdata : BitVec 32) (held : BitVec 64) : LineRead :=
  { r with data := mergeLine r.data data held, mdata := mergeKinds r.mdata mdata held 8, valid := r.valid ||| held }

/-- The line is read at its home over another die's or package's slice, which counts as a miss (R361). What the die wrote through arrives there first (R183). -/
def State.fetchHome (s : State) (die asid line : Nat) (h : Home) : State × LineRead :=
  let (s1, req) := ((s.drainLine die asid line).countMiss die asid line h).readPeer h line
  (s1, { s1.readHome h with req := req })

/-- The line as the die reads it (R181, R183, R192): its own memory, or a copy filled at or after `bound`, or one refetched from
the home, which refreshes the copy. `alloc` keeps a new line in the L2; the access gives the line its class (R169). What the die wrote through arrives at the
home before the line is read there again (R183), and before a copy serves one who has acquired, so that two such readers on different dies see its bytes in
one order (R190; log entry 48). Of a copy whose home cannot be read the bytes that it has are answered, and no others (R363, R382). -/
def State.readL2 (s : State) (die asid line : Nat) (h : Home) (bound : Nat) (alloc : Bool) (cls : Nat) : State × LineRead :=
  if !copyable die h then
    let s1 := s.touchOwn die asid line h alloc cls
    if h.node = die then (s1, s1.readHome h) else s1.fetchHome die asid line h
  else
    match s.copyOf? die asid line with
    | some c =>
      if bound ≤ c.filled then
        let mine : LineRead := { data := c.data, mdata := c.mdata, filled := c.filled, valid := c.valid, req := none }
        let whole := c.valid == BitVec.allOnes 64 || s.unreadable h
        -- what no write-back brought is read from the home now (R180), which is a miss of its own (R361)
        let (s1, r) := if whole then ((if bound == 0 then s else s.drainLine die asid line), mine)
          else
            let (s1, r) := s.fetchHome die asid line h
            (s1, { r.complete c.data c.mdata (wholeBlocks c.valid 4) with filled := c.filled })
        ({ s1 with mem := { s1.mem with copies := s1.mem.copies.map fun x =>
            if x.die = die ∧ x.asid = asid ∧ x.line = line then
              { x with data := r.data, valid := r.valid, mdata := r.mdata, cls := cls, used := s.fresh }
            else x } }, r)
      else
        let (s1, r) := s.fetchHome die asid line h
        ({ s1 with
           mem := { s1.mem with copies := s1.mem.copies.map fun x =>
             if x.die = die ∧ x.asid = asid ∧ x.line = line then
               { x with data := r.data, valid := BitVec.allOnes 64, mdata := r.mdata, filled := s1.fresh, cls := cls, used := s1.fresh }
             else x }
           fresh := s1.fresh + 1 }, r)
    | none =>
      let (s1, r) := s.fetchHome die asid line h
      if alloc then
        let s2 := s1.addCopy { die := die, asid := asid, line := line, data := r.data, valid := BitVec.allOnes 64, mdata := r.mdata, home := h,
                               filled := s1.fresh, cls := cls, used := s1.fresh }
        ({ s2 with fresh := s2.fresh + 1 }, r)
      else (s1, r)

/-! ### The L1s -/

def State.l1? (s : State) (core asid line : Nat) : Option L1Line :=
  (s.coreAt core).l1.find? fun l => l.asid == asid && l.line == line

/-- Dirty bytes that left this core's L1 and are still on their way reach L2 (R180). -/
def State.wbArrives (s : State) (w : WriteBack) : State :=
  let s1 := { s with mem := { s.mem with wbs := s.mem.wbs.filter (·.id != w.id) } }
  s1.mergeL2 (dieOf w.core) w.asid w.line w.home w.data w.mask w.kinds true w.cls

/-- Whether an earlier write-back of the same core's line is still on its way: a core's bytes of a line keep their order (R161, R184). -/
def State.wbWaits (s : State) (w : WriteBack) : Bool :=
  s.mem.wbs.any fun x => decide (x.id < w.id) && x.core == w.core && x.asid == w.asid && x.line == w.line

def State.flushWbs (s : State) (which : WriteBack → Bool) : State :=
  (s.mem.wbs.filter which).foldl State.wbArrives s

/-- Write back the dirty bytes of the L1 lines of a core that `which` selects (R182); they stay valid and clean. -/
def State.cleanL1 (s : State) (core : Nat) (which : L1Line → Bool) : State :=
  let s0 := s.flushWbs fun w => w.core == core
  let ls := (s0.coreAt core).l1.filter which
  let s1 := ls.foldl (fun s l => s.mergeL2 (dieOf core) l.asid l.line l.home l.data l.dirty l.mdata true l.cls) s0
  s1.modCore core fun k => { k with l1 := k.l1.map fun l => if which l then { l with dirty := 0 } else l }

/-- Write back, then drop the lines that `which` selects (R176, R182). -/
def State.dropL1 (s : State) (core : Nat) (which : L1Line → Bool) : State :=
  (s.cleanL1 core which).modCore core fun k => { k with l1 := k.l1.filter fun l => !which l }

/-- A line of the core's L1 leaves by write-back, whole and clean, with its dirty bytes on their way to L2 (R180, R182). -/
def State.sendBack (s : State) (core : Nat) (l : L1Line) : State :=
  if l.dirty = 0 then s
  else
    let s1 := s.modCore core fun k => { k with l1 := k.l1.map fun x => if x.asid = l.asid ∧ x.line = l.line then { x with dirty := 0 } else x }
    { s1 with
      mem := { s1.mem with wbs := s1.mem.wbs ++ [{ id := s1.fresh, core := core, asid := l.asid, line := l.line, data := l.data,
                                                   mask := l.dirty, kinds := l.mdata, home := l.home, cls := l.cls }] }
      fresh := s1.fresh + 1 }

/-- A core's counter reaches a cycle: the lines that have been dirty for 4,096 cycles by then are written back (R182). -/
def State.setClock (s : State) (core cycle : Nat) : State :=
  let s1 := s.modCore core fun k => { k with clock := cycle }
  ((s1.coreAt core).l1.filter fun l => l.dirty != 0 && decide (l.since + 4096 ≤ cycle)).foldl (fun s l => s.sendBack core l) s1

/-- Granules of the pool that no group of the core holds (R305). -/
def State.freeGranules (s : State) (core : Nat) : List Nat :=
  let used := (s.groups.filter fun g => g.core == core && g.st != .retired).flatMap fun g => g.regs ++ g.scratch ++ g.accum
  (List.range 128).filter fun i => !used.contains i

/-- The granule a new line takes, of those that are L1: the manual does not say which (log entry 8). None where the partition leaves no L1. -/
def State.lineGranule? (s : State) (core line : Nat) : Option Nat :=
  let fr := s.freeGranules core
  fr[line % max fr.length 1]?

/-- Lines that a granule of 16 KiB holds (R305). -/
def granuleLines : Nat := 2 ^ 14 / 64

/-- Room for one more line in a granule: a victim is written back and leaves where it is full (R169). The lines of a granule are taken as one set
(log entry 8). -/
def State.roomL1 (s : State) (core granule : Nat) : State :=
  let ls := (s.coreAt core).l1.filter fun l => l.granule == granule
  if ls.length < granuleLines then s
  else match minBy (fun l : L1Line => victimKey l.cls l.used) ls with
    | none => s
    | some v => s.dropL1 core fun l => l.asid == v.asid && l.line == v.line

/-- Replace a line in a core's L1, or put a new one there. -/
def State.putL1 (s : State) (core : Nat) (l : L1Line) : State :=
  if (s.l1? core l.asid l.line).isSome then
    s.modCore core fun k => { k with l1 := k.l1.map fun x => if x.asid = l.asid ∧ x.line = l.line then l else x }
  else (s.roomL1 core l.granule).modCore core fun k => { k with l1 := k.l1 ++ [l] }

/-- Whether an L1 line serves a load whose copies must be no older than the two bounds (R176, R192, R239): a line that was in the L1 at a colour grant, and
that the grant did not drop, still serves. -/
def L1Line.serves (l : L1Line) (bound boundC : Nat) : Bool :=
  decide (bound ≤ l.filled) && (decide (boundC ≤ l.filled) || decide (l.placed < boundC))

/-- The colour of a line in an L1: none on a page without metadata (R231). -/
def L1Line.colour (l : L1Line) : Nat := if peME l.home.entry then mColour l.mdata else 0

/-- Whether the access allocates in L2 (R168). -/
def l2Alloc (pol : Option Word) : Bool := match pol with
  | none => true
  | some w => !(Policy.ofWord w).l2na

/-- A load of `n` bytes at `va` by a core (R167, R168, R182, R192, R239): a hit in L1 on valid bytes, otherwise through L2, filled into L1
unless the policy says not. -/
def State.loadLine (s : State) (core asid va n : Nat) (h : Home) (bound boundC : Nat) (pol : Option Word) : State × LineRead :=
  let line := va / 64
  let need := byteMask (va % 64) n
  let cls := Policy.class pol line
  let s0 := s.flushWbs fun w => w.core == core && w.asid == asid && w.line == line
  let s1 := match s0.l1? core asid line with
    | some l => if l.serves bound boundC then s0 else s0.dropL1 core (fun x => x.asid == asid && x.line == line)
    | none => s0
  match s1.l1? core asid line with
  | some l =>
    if l.valid &&& need = need then
      (s1.putL1 core { l with cls := cls, used := s1.fresh },
        { data := l.data, mdata := l.mdata, filled := l.filled, valid := l.valid, req := none })
    else
      let (s2, r) := s1.readL2 (dieOf core) asid line h (max bound boundC) (l2Alloc pol) cls
      -- the blocks that the L1 holds whole stay, and so do the dirty bytes
      let u := { r.complete l.data l.mdata (wholeBlocks l.valid 4 ||| l.dirty) with filled := min l.filled r.filled }
      let s3 := if l1na pol then s2.putL1 core { l with cls := cls, used := s2.fresh }
        else s2.putL1 core { l with data := u.data, valid := u.valid, mdata := u.mdata, cls := cls, filled := u.filled,
                                    placed := s2.fresh, used := s2.fresh }
      ({ s3 with fresh := s3.fresh + 1 }, u)
  | none =>
    let (s2, r) := s1.readL2 (dieOf core) asid line h (max bound boundC) (l2Alloc pol) cls
    if !h.cached || l1na pol then (s2, r)
    else match s2.lineGranule? core line with
      | none => (s2, r)
      | some gr =>
        (({ s2 with fresh := s2.fresh + 1 } : State).putL1 core
          { asid := asid, line := line, granule := gr, data := r.data, valid := r.valid, dirty := 0, mdata := r.mdata,
            home := h, cls := cls, since := 0, filled := r.filled, placed := s2.fresh, used := s2.fresh }, r)

/-- The words of a line that have a byte in the mask get kind `k` (R162). -/
def kindsMask (v : BitVec 32) (k : Nat) (mask : BitVec 64) : Nat → BitVec 32
  | 0 => v
  | n + 1 =>
    let r := kindsMask v k mask n
    if mask.toNat / 2 ^ (8 * n) % 256 = 0 then r else setKind r n k

/-- The metadata of a line as the core meets it before an access (R238): its L1's, else L2's, else the home's. -/
def State.metaSeen (s : State) (core asid line : Nat) (h : Home) : BitVec 32 :=
  if !peME h.entry then 0
  else match s.l1? core asid line with
    | some l => l.mdata
    | none => match s.copyOf? (dieOf core) asid line with
      | some c => c.mdata
      | none => s.mem.metaAt h.node h.addr

/-- A store of `n` bytes enters L1 with a per-byte dirty mask (R167), or goes to L2 and updates a present L1 copy (L1NA, uncached pages, no L1).
Bytes in `lost` are not written (R161); `kind` is written to the words it touches on a page with metadata (R162). -/
def State.storeLine (s : State) (core asid va n v : Nat) (h : Home) (pol : Option Word) (kind lost : Nat) : State :=
  let line := va / 64
  let mask := byteMask (va % 64) n &&& ~~~(BitVec.ofNat 64 (lost * 2 ^ (va % 64)))
  let data := BitVec.ofNat 512 (v * 2 ^ (8 * (va % 64)))
  let cls := Policy.class pol line
  let md0 := s.metaSeen core asid line h
  let md := if peME h.entry then kindsMask md0 kind mask 8 else s.mem.metaAt h.node h.addr
  let through (s : State) : State :=
    let s1 := match s.l1? core asid line with
      -- the line's own dirty bytes that the store overwrites are dirty no longer: the value leaves for L2 once (R167, R184)
      | some l => s.putL1 core { l with data := mergeLine l.data data mask, valid := l.valid ||| mask, dirty := l.dirty &&& ~~~mask, mdata := md,
                                        cls := cls, used := s.fresh }
      | none => s
    (s1.flushWbs fun w => w.core == core && w.asid == asid && w.line == line).mergeL2 (dieOf core) asid line h data mask md (l2Alloc pol) cls
  if mask = 0 then s
  else if !h.cached || l1na pol then through s
  else
    match s.l1? core asid line with
    | some l =>
      s.putL1 core { l with data := mergeLine l.data data mask, valid := l.valid ||| mask, dirty := l.dirty ||| mask, mdata := md,
                            cls := cls, used := s.fresh, since := if l.dirty = 0 then (s.coreAt core).clock else l.since }
    | none => match s.lineGranule? core line with
      | none => through s
      | some gr =>
        ({ s with fresh := s.fresh + 1 } : State).putL1 core
          { asid := asid, line := line, granule := gr, data := data, valid := mask, dirty := mask, mdata := md, home := h,
            cls := cls, since := (s.coreAt core).clock, filled := s.fresh, placed := s.fresh, used := s.fresh }

/-- Read bytes at the point of coherence of a scope (R181), after the core's own dirty bytes are written back: the die's L2 below package
scope, where a copy older than `bound` is not used (R194), the home from package scope on. -/
def State.readAt (s : State) (die asid line : Nat) (h : Home) (scope bound : Nat) : LineRead :=
  if scope ≥ 3 then s.readHome h else (s.readL2 die asid line h bound false 1).2

/-! ### Releases and acquires (R176, R187 to R194) -/

/-- The key of a die and context in the table of bounds. -/
def bindKey (die asid : Nat) : Nat := die * 2 ^ 16 + asid

/-- The moment of the latest acquire that a release on the die has made visible to the context's other threads there (R194). -/
def State.relBound (s : State) (die asid : Nat) : Nat := ((s.mem.relAcq.find? (·.1 == bindKey die asid)).map (·.2)).getD 0

/-- From moment `m` on, those who acquire on the die see nothing older (R194). -/
def State.raiseBound (s : State) (die asid m : Nat) : State :=
  let k := bindKey die asid
  if m ≤ s.relBound die asid then s
  else { s with mem := { s.mem with relAcq := insertBy (·.1) (k, m) (s.mem.relAcq.filter (·.1 != k)) } }

/-- What a thread acquired becomes visible, by its release, to those that acquire on its die after it (R194). -/
def State.passBound (s : State) (tid core asid : Nat) : State :=
  s.raiseBound (dieOf core) asid (max (((s.thread? tid).map (·.acq)).getD 0) (((s.thread? tid).map (·.acqC)).getD 0))

/-- A release at a scope (R176, R188, R194): from quad scope on the core's dirty bytes of the context are written back; from package scope on the die's
write-throughs of the context are drained as well. -/
def State.releaseAt (s : State) (tid core asid scope : Nat) : State :=
  let s1 := s.passBound tid core asid
  let s2 := if scope < 2 then s1 else s1.cleanL1 core (·.asid == asid)
  if scope < 4 then s2 else s2.drainDie (dieOf core) asid

/-- Whether a release of a core at a scope has to wait: a write-through that it covers, of those that its own write-backs make too, has its way closed
(R176, R188). -/
def State.releaseStuck (s : State) (core asid scope : Nat) : Bool := (s.cleanL1 core (·.asid == asid)).drainStuck (dieOf core) asid scope

/-- From a moment on, the thread's later reads, and those of the copies it queues later, use no copy filled before it (R176, R185). -/
def State.bound (s : State) (tid seq m : Nat) : State :=
  { s.modThread tid (fun t => { t with acq := max t.acq m }) with
    ops := s.ops.map fun (o : Op) => if o.tid = tid ∧ seq < o.seq then { o with acq := max o.acq m } else o
    cpys := s.cpys.map fun (c : Copy) => if c.tid = tid ∧ seq < c.seq then { c with acq := max c.acq m } else c }

/-- An acquire at a scope by the word with place `seq` in issue order (R176, R187): from quad scope on the core's L1 lines of the context are written back
and dropped; from package scope on no older copy of a die is used. -/
def State.acquireAt (s : State) (tid seq core asid scope : Nat) : State :=
  let s1 := if scope < 2 then s else s.dropL1 core (·.asid == asid)
  if scope < 4 then s1.bound tid seq (s1.relBound (dieOf core) asid)
  else ({ s1 with fresh := s1.fresh + 2 } : State).bound tid seq (s1.fresh + 1)

/-- What an operation that orders does before its later operations are performed (R176, R187): `rel` a release, `acq` an acquire. -/
def State.fenceEffect (s : State) (tid seq core asid scope : Nat) (rel acq : Bool) : State :=
  let s1 := if rel then s.releaseAt tid core asid scope else s
  if acq then s1.acquireAt tid seq core asid scope else s1

/-! ### Scratch and accumulator (R158, R305, R306, R316) -/

/-- Physical pool byte of region offset `o` of a list of granules (R306). -/
def regionByte (core : Nat) (gs : List Nat) (o : Nat) : Option Nat :=
  (gs[o / 2 ^ 14]?).map fun g => core * 2 ^ 21 + g * 2 ^ 14 + o % 2 ^ 14

/-- The live map's index of a pool byte (R326). -/
def liveIdx (b : Nat) : Nat := b / 8

/-- Bytes of a region, little-endian; a byte outside the region reads 0. -/
def State.regionRead (s : State) (core : Nat) (gs : List Nat) (o : Nat) : Nat → Nat
  | 0 => 0
  | n + 1 =>
    (match regionByte core gs o with
     | some b => (cellsRead s.pool.bytes b).toNat
     | none => 0) + 256 * State.regionRead s core gs (o + 1) n

def poolWriteN (core : Nat) (gs : List Nat) (o v : Nat) : Nat → Pool → Pool
  | 0, p => p
  | n + 1, p =>
    poolWriteN core gs (o + 1) (v / 256) n
      (match regionByte core gs o with
       | some b => { p with bytes := cellsWrite b (BitVec.ofNat 8 v) p.bytes }
       | none => p)

/-- A store's bytes, but for those in `lost`, which a store of a higher index has written (R161). -/
def poolStoreN (core : Nat) (gs : List Nat) (o v lost : Nat) : Nat → Pool → Pool
  | 0, p => p
  | n + 1, p =>
    poolStoreN core gs (o + 1) (v / 256) (lost / 2) n
      (match regionByte core gs o with
       | some b => if lost % 2 = 1 then p else { p with bytes := cellsWrite b (BitVec.ofNat 8 v) p.bytes }
       | none => p)

def State.regionStore (s : State) (core : Nat) (gs : List Nat) (o v lost n : Nat) : State :=
  { s with pool := poolStoreN core gs o v lost n s.pool }

/-- Whether a word that [o, o + n) touches has an uncorrectable error (R277, R363). -/
def State.regionBad (s : State) (core : Nat) (gs : List Nat) (o n : Nat) : Bool :=
  !s.pool.bad.isEmpty && (List.range n).any fun i => match regionByte core gs (o + i) with
    | some b => s.pool.bad.contains (b / 8)
    | none => false

def State.regionWrite (s : State) (core : Nat) (gs : List Nat) (o v n : Nat) : State :=
  { s with pool := poolWriteN core gs o v n s.pool }

/-- Whether a word of the region is live (R326). -/
def State.liveAt (s : State) (core : Nat) (gs : List Nat) (o : Nat) : Bool :=
  match regionByte core gs o with
  | some b => s.pool.live.contains (liveIdx b)
  | none => false

/-- Whether any 8-byte word that [o, o + n) touches is live. -/
def State.liveOver (s : State) (core : Nat) (gs : List Nat) (o : Nat) (n : Nat) : Bool :=
  n != 0 && (List.range ((o + n - 1) / 8 - o / 8 + 1)).any fun i => s.liveAt core gs (8 * (o / 8 + i))

/-- Whether a group is resident on the core: placed and not retired, and its context not absent there (R316, R338). -/
def Group.resident (g : Group) : Bool := g.st != .retired

/-- The group a scratch address names for a thread's group (R158): its own, or the named group of the launch on the named core of the
quad. None where the address breaks R158. -/
def State.scratchGroup? (s : State) (g : Group) (a : Word) : Option Group :=
  let x := ScrAddr.ofWord a
  if x.reserved || x.badOwn then none
  else if !x.x then some g
  else s.groups.find? fun h =>
    h.kid == g.kid && h.core == g.core / 4 * 4 + x.corePos && h.index % 2 ^ 28 == x.group && h.resident

/-- The region size of a launch in bytes (R302). -/
def State.scratchSize (s : State) (g : Group) : Nat := ((s.kernel? g.kid).map (fun k => k.lr.scratch * 2 ^ 14)).getD 0

def State.accumSize (s : State) (g : Group) : Nat := ((s.kernel? g.kid).map (fun k => k.lr.accum * 2 ^ 14)).getD 0

/-- R158's check of an access of `n` bytes. -/
def State.scratchOk (s : State) (g : Group) (a : Word) (n : Nat) : Bool :=
  match s.scratchGroup? g a with
  | none => false
  | some _ => decide ((ScrAddr.ofWord a).offset + n ≤ s.scratchSize g)

/-! ### Home lines by virtual address -/

/-- The home of an address as the die translates it now, with the state after the TLB fill; why there is none otherwise. -/
def State.locate (s : State) (die asid va : Nat) (rewalk : Bool) : State × Except Miss Home :=
  match s.translate die asid va rewalk with
  | .none l mf => (s, .error (.absent l mf))
  | .wait => (s, .error .wait)
  | .bad node addr => (s, .error (.bad node addr))
  | .leaf e base size => (s.fillTlb die asid e base size, .ok (homeOf e base size va))

/-- Where an access of the device itself stands (R12, R352, R377, R382): mapped or not, to a frame that exists or not, the way to it open or not. A walk that
meets an uncorrectable error in a table finds no page for the device itself (log entry 73). -/
inductive Place where
  | home (h : Home)
  | absent
  | hole (node addr : Nat)
  | wait
  deriving DecidableEq, Repr

def State.placeOf (s : State) (asid va : Nat) : Place :=
  match s.translate 0 asid va false with
  | .none _ _ => .absent
  | .bad _ _ => .absent
  | .wait => .wait
  | .leaf e base size =>
    let h := homeOf e base size va
    if !s.frameExists h.node h.addr then .hole h.node h.addr
    else if !s.stackTrained h.node h.addr || s.unreachable h then .wait
    else .home h

/-- Reading `n` bytes at a virtual address at the home slice, for the device itself (records, headers, queues): 0 where nothing can be read. -/
def State.homeRead (s : State) (asid va n : Nat) : Nat :=
  match s.placeOf asid va with
  | .home h => s.mem.rd h.node (h.addr + va % 64) n
  | _ => 0

/-- Reading an aligned run of `k` 8-byte words (each within a line). -/
def State.homeReadWords (s : State) (asid va : Nat) : Nat → List Word
  | 0 => []
  | k + 1 => BitVec.ofNat 64 (s.homeRead asid va 8) :: State.homeReadWords s asid (va + 8) k

/-- A write waits for the way to its place (R377, R378). -/
def State.holdWrite (s : State) (w : LateWrite) : State := { s with mem := { s.mem with late := s.mem.late ++ [w] } }

/-- A walk of the device itself meets an uncorrectable error in a table: its line is poisoned (R363). -/
def State.meetTable (s : State) (asid va : Nat) : State :=
  match s.translate 0 asid va false with
  | .bad node addr => s.meetLine node addr
  | _ => s

/-- A write of up to 8 aligned bytes at the home by the device itself: kinds become data (R211), copies of the line on the dies are those of
R183 and do not change; to a peer it is a request (R381, R382). Where the way is not open yet the write waits. -/
def State.homeWrite (s : State) (asid va n v : Nat) : State :=
  match s.placeOf asid va with
  | .home h =>
    let s1 := s.writePeer h (va / 64)
    { s1 with mem := s1.mem.mergeHome h (BitVec.ofNat 512 (v * 2 ^ (8 * (va % 64)))) (byteMask (va % 64) n) 0 }
  | .wait => s.holdWrite (.put asid va n v)
  | _ => s.meetTable asid va

/-- The device itself reads an aligned word: an uncorrectable error poisons its line (R363), or that of a table which the walk to it reads. -/
def State.meetRead (s : State) (asid va : Nat) : State :=
  match s.translate 0 asid va false with
  | .leaf e base size => s.meetError (homeOf e base size va)
  | _ => s.meetTable asid va

/-- Whether reading an aligned word meets an uncorrectable error for the device itself: in its line, or in that of a table on the way to it (R363). -/
def State.badLine (s : State) (asid va : Nat) : Bool :=
  match s.translate 0 asid va false with
  | .bad _ _ => true
  | .leaf e base size =>
    let h := homeOf e base size va
    s.frameExists h.node h.addr && s.mem.bad h.node h.addr
  | _ => false

/-- An atomic add of the device at an 8-aligned word of a context, at its home (R172, R299, R312). It asks no permission, and what it reads from a line with an
uncorrectable error, which its reading poisons (R363), it adds to all the same (log entry 75). -/
def State.deviceAdd (s : State) (asid va v : Nat) : State :=
  match s.placeOf asid va with
  | .wait => s.holdWrite (.add asid va v)
  | _ => (s.meetRead asid va).homeWrite asid va 8 ((s.homeRead asid va 8 + v) % 2 ^ 64)

/-- Words in a row, written one after another. -/
def State.homeWriteWords (s : State) (asid va : Nat) : List Nat → State
  | [] => s
  | v :: vs => (s.homeWrite asid va 8 v).homeWriteWords asid (va + 8) vs

/-- An access of the device itself to an address goes on, waits for its stack, or stops at a frame that does not exist (R12, R377). -/
def State.atPlace (s : State) (asid va : Nat) (t : Out) : Out :=
  match s.placeOf asid va with
  | .wait => .next s
  | .hole node addr => .fault (.noSuchMemory node addr)
  | _ => t

end Sys2Proof.Machine
end

