-- ==== Sys2Proof/Machine/Logs.lean ====
section
/-!
DEFINITION. The arbitration logs of the record and replay modes (R393 to R397): streams, chunks, the order gate, and the hash entries
of threads.
-/

namespace Sys2Proof.Machine

/-- The stream of a line's atomics (R393, R404): 32·die + slice of its home; none where the home lies outside the package (R395). -/
def streamOf (h : Home) (va : Nat) : Option Nat :=
  if h.node < 4 ∧ !peHB h.entry then some (32 * h.node + sliceOf (va / 64)) else none

/-- log2 of each stream's bytes, from the log header (R393). -/
def State.logRg (s : State) (k : Kernel) : Nat := s.homeRead k.asid k.lr.logBase 8 % 32

/-- Where stream i lies (R393). -/
def State.streamBase (s : State) (k : Kernel) (i : Nat) : Nat := k.lr.logBase + 4096 + i * 2 ^ s.logRg k

def Kernel.stream (k : Kernel) (i : Nat) : Stream :=
  (k.streams.find? (·.num == i)).getD { num := i, pos := 0, used := 0, diverged := false }

def Kernel.setStream (k : Kernel) (x : Stream) : Kernel :=
  if k.streams.any (·.num == x.num) then { k with streams := k.streams.map fun y => if y.num = x.num then x else y }
  else { k with streams := k.streams ++ [x] }

/-- A thread's name in a log: group index, logical cohort index, thread index (R394). -/
structure LogName where
  group : Nat
  cohort : Nat
  thread : Nat
  deriving DecidableEq, Repr

def State.logName (s : State) (tid : Nat) : LogName :=
  match s.thread? tid with
  | none => { group := 0, cohort := 0, thread := 0 }
  | some t =>
    { group := ((s.group? t.gid).map (·.index)).getD 0, cohort := ((s.cohort? t.cid).map (·.idx)).getD 0, thread := t.idx }

/-- Chunk k of a stream (R394): its name, run, and whether a reserved bit is set. -/
def State.chunk (s : State) (k : Kernel) (i n : Nat) : LogName × Nat × Bool :=
  let a := s.streamBase k i + 32 + 32 * n
  let w0 := s.homeRead k.asid a 8
  let w1 := s.homeRead k.asid (a + 8) 8
  let w2 := s.homeRead k.asid (a + 16) 8
  let w3 := s.homeRead k.asid (a + 24) 8
  ({ group := w0, cohort := w1 % 2 ^ 16, thread := w1 / 2 ^ 16 % 128 }, w1 / 2 ^ 48,
   w2 != 0 || w3 != 0 || w1 / 2 ^ 23 % 2 ^ 25 != 0)

def State.putChunk (s : State) (k : Kernel) (i n : Nat) (x : LogName) (run : Nat) : State :=
  let a := s.streamBase k i + 32 + 32 * n
  (((s.homeWrite k.asid a 8 x.group).homeWrite k.asid (a + 8) 8 (x.cohort + x.thread * 2 ^ 16 + run * 2 ^ 48)).homeWrite
    k.asid (a + 16) 8 0).homeWrite k.asid (a + 24) 8 0

/-- Whether stream i has room for a chunk n. -/
def State.logRoom (s : State) (k : Kernel) (n : Nat) : Bool := decide (32 + 32 * (n + 1) ≤ 2 ^ s.logRg k)

/-- The words of the log that an atomic of stream i has read, one of each line: the header with the overflow map; in record mode the last chunk, in replay mode
the stream's count and its current chunk (R393, R395, R396). -/
def State.logWords (s : State) (k : Kernel) (i : Nat) : List Nat :=
  let b := s.streamBase k i
  let pos := (k.stream i).pos
  if k.lr.mode = 3 then
    [k.lr.logBase, b] ++ (if pos < s.homeRead k.asid b 8 then [b + 32 + 32 * pos] else [])
  else k.lr.logBase :: (if pos = 0 then [] else [b + 32 + 32 * (pos - 1)])

/-- The first of those words whose reading meets an uncorrectable error (R363, log entry 74). -/
def State.logBad (s : State) (k : Kernel) (i : Nat) : Option Nat := (s.logWords k i).find? (s.badLine k.asid)

/-- Whether the way to one of those words is not open yet (R377, R378). -/
def State.logWaits (s : State) (k : Kernel) (i : Nat) : Bool := (s.logWords k i).any fun a => s.placeOf k.asid a == .wait

/-- The overflow bit of a stream is set (R393). -/
def State.setOverflow (s : State) (k : Kernel) (i : Nat) : State :=
  let a := k.lr.logBase + 16 + 8 * (i / 64)
  s.homeWrite k.asid a 8 (s.homeRead k.asid a 8 ||| 2 ^ (i % 64))

/-- In record mode the slice extends the last chunk or opens one; a stream that is filled sets its overflow bit and takes no more chunks (R393, R395). -/
def State.logAppend (s : State) (k : Kernel) (i tid : Nat) : State :=
  let st := k.stream i
  let x := s.logName tid
  if st.diverged then s
  else
    let last := s.chunk k i (st.pos - 1)
    if st.pos != 0 && last.1 == x && decide (last.2.1 < 65535) then s.putChunk k i (st.pos - 1) x (last.2.1 + 1)
    else if s.logRoom k st.pos then
      let s1 := (s.putChunk k i st.pos x 1).modKernel k.kid fun k => k.setStream { st with pos := st.pos + 1 }
      if s.logRoom k (st.pos + 1) then s1 else s1.setOverflow k i
    else (s.setOverflow k i).modKernel k.kid fun k => k.setStream { st with diverged := true }

/-- What the order gate says of an atomic that arrives (R396, R397). -/
inductive Gate where
  | pass
  | hold
  | diverged
  deriving DecidableEq, Repr

/-- Whether a chunk is malformed (R396). -/
def chunkBad (k : Kernel) (c : LogName × Nat × Bool) : Bool :=
  c.2.1 == 0 || c.2.2 || decide (k.lr.gx * k.lr.gy * k.lr.gz ≤ c.1.group)
    || decide (k.lr.tx * k.lr.ty * k.lr.tz / (32 * 2 ^ k.lr.width) + k.lr.spawn ≤ c.1.cohort)
    || decide (32 * 2 ^ k.lr.width ≤ c.1.thread)

/-- Whether the thread a chunk names can no longer perform its atomics: it has exited, or its group has retired (R397). -/
def State.nameGone (s : State) (k : Kernel) (x : LogName) : Bool :=
  match s.groups.find? fun g => g.kid == k.kid && g.index == x.group with
  | none => decide (x.group < k.nextGroup)
  | some g =>
    if g.st == .retired then true
    else
      let named := s.threads.filter fun t => t.gid == g.gid && t.idx == x.thread && ((s.cohort? t.cid).map (·.idx)).getD 0 == x.cohort
      named.any (·.st == .exited) && named.all (·.st == .exited)

/-- The order gate (R396). -/
def State.orderGate (s : State) (k : Kernel) (i tid : Nat) : Gate :=
  let st := k.stream i
  let count := s.homeRead k.asid (s.streamBase k i) 8
  let full := s.homeRead k.asid (k.lr.logBase + 16 + 8 * (i / 64)) 8 / 2 ^ (i % 64) % 2 == 1
  if st.diverged then .diverged
  else if full || decide (count ≤ st.pos) then .pass
  else
    let c := s.chunk k i st.pos
    if chunkBad k c || s.nameGone k c.1 then .diverged
    else if c.1 == s.logName tid then .pass
    else .hold

/-- Whether the thread that the current chunk of a gate names has exited, or its group has retired, with the chunk's run not spent (R397). -/
def State.gateLeft (s : State) (k : Kernel) (i : Nat) : Bool :=
  let st := k.stream i
  let full := s.homeRead k.asid (k.lr.logBase + 16 + 8 * (i / 64)) 8 / 2 ^ (i % 64) % 2 == 1
  !st.diverged && !full && (s.logBad k i).isNone && decide (st.pos < s.homeRead k.asid (s.streamBase k i) 8)
    && (let c := s.chunk k i st.pos
        !chunkBad k c && s.nameGone k c.1)

/-- The gates of the kernels in replay, of whose groups some are still to be placed or none, notice at once that a named thread is gone; what they hold ends
(R397). -/
def State.reviewGates (s : State) : State :=
  (s.kernels.filter fun k => k.lr.mode == 3 && k.st != .retired).foldl (fun s k =>
    ((List.range 128).filter fun i => s.gateLeft k i).foldl (fun s i => s.modKernel k.kid fun k =>
      k.setStream { k.stream i with diverged := true }) s) s

/-- One unit of the current chunk's run is used (R396). -/
def State.gateUse (s : State) (k : Kernel) (i : Nat) : State :=
  let st := k.stream i
  let count := s.homeRead k.asid (s.streamBase k i) 8
  if count ≤ st.pos then s
  else
    let c := s.chunk k i st.pos
    s.modKernel k.kid fun k => k.setStream
      (if c.2.1 ≤ st.used + 1 then { st with pos := st.pos + 1, used := 0 } else { st with used := st.used + 1 })

/-- The hash entry of a thread (R393). -/
def State.hashEntry (s : State) (k : Kernel) (tid : Nat) : Nat :=
  let x := s.logName tid
  let w := 32 * 2 ^ k.lr.width
  k.lr.logBase + s.homeRead k.asid (k.lr.logBase + 8) 8
    + 8 * (x.group * (k.lr.tx * k.lr.ty * k.lr.tz + k.lr.spawn * w) + w * x.cohort + x.thread)

/-- What EXIT reads of the log, the header and in replay mode the thread's entry (R395, R397): the first word whose reading meets an uncorrectable error (R363, log
entry 74). -/
def State.hashBad (s : State) (k : Kernel) (tid : Nat) : Option Nat :=
  (k.lr.logBase :: (if k.lr.mode = 3 then [s.hashEntry k tid] else [])).find? (s.badLine k.asid)

end Sys2Proof.Machine
end

