-- ==== Sys2Proof/Machine/Access.lean ====
section
/-!
DEFINITION. Performing memory operations: which operation waits for which (R161, R173, R175, R187, R191, R238, R358), page faults and their
records (R358, R359), acquiring a coloured line (R238), loads, stores, atomics and their replies (R164 to R173, R218, R390, R392).
-/

namespace Sys2Proof.Machine

/-! ### What waits for what -/

/-- The class of an operation in a fence's sets (R175, R178): bit 0 loads, 1 stores, 2 atomics, 5 walks. R175 and R178 class WBL1 and INVL1 and not ACQR, which
counts as a load and a store here (log entry 13). -/
def OpKind.classes : OpKind → Nat
  | .load .. => 1
  | .loadS .. => 1
  | .mrd .. => 1
  | .readMeta .. => 1
  | .store .. => 2
  | .storeS .. => 2
  | .stpl .. => 2
  | .mwr .. => 2
  | .stref .. => 2
  | .colr .. => 2
  | .wbl1 .. => 2
  | .invl1 .. => 3
  | .acqr .. => 3
  | .atomic .. => 4
  | .atomicS .. => 4
  | .pub .. => 32
  | _ => 0

/-- Whether an operation is an access of the thread to memory, in the classes of the fences. -/
def OpKind.access (k : OpKind) : Bool := k.classes % 32 != 0

/-- Whether an operation of a thread reaches memory or a scratch bank: what is held behind a page fault (R358) or an acquire (R238) of the thread. -/
def OpKind.memory (k : OpKind) : Bool :=
  k.classes != 0 || (match k with
    | .binit _ => true
    | .arrive _ => true
    | .bwait _ => true
    | .arrivew _ => true
    | .binval => true
    | .tqpush _ => true
    | .amsend .. => true
    | .launch .. => true
    | _ => false)

/-- Whether the words of R237 acquire. -/
def OpKind.acquires : OpKind → Bool
  | .load .. => true
  | .store .. => true
  | .stref _ => true
  | .atomic .. => true
  | _ => false

def OpKind.isMeta : OpKind → Bool
  | .readMeta .. => true
  | _ => false

/-- The space, first byte and size of an access, for the order of a thread's own accesses to one byte (R161): scratch offsets are compared
whatever region they name. -/
def OpKind.span : OpKind → Word → Option (Bool × Nat × Nat)
  | .load _ n _, a => some (false, a.toNat, n)
  | .store _ n _ _, a => some (false, a.toNat, n)
  | .stref _, a => some (false, a.toNat, 8)
  | .atomic _ n _ _ _ _, a => some (false, a.toNat, n)
  | .readMeta .., a => some (false, a.toNat / 64 * 64, 64)
  | .colr _ n, a => some (false, a.toNat, n)
  | .loadS _ n, a => some (true, a.toNat % 2 ^ 21, n)
  | .storeS _ n, a => some (true, a.toNat % 2 ^ 21, n)
  | .stpl p _, a => some (true, a.toNat % 2 ^ 21, 128 * (p - 1) + 4)
  | .atomicS _ n _ _ _, a => some (true, a.toNat % 2 ^ 21, n)
  | .binit _, a => some (true, a.toNat % 2 ^ 21, 8)
  | .arrive _, a => some (true, a.toNat % 2 ^ 21, 8)
  | .bwait _, a => some (true, a.toNat % 2 ^ 21, 8)
  | .arrivew _, a => some (true, a.toNat % 2 ^ 21, 8)
  | .binval, a => some (true, a.toNat % 2 ^ 21, 8)
  | _, _ => none

/-- Accumulator accesses by MRD and MWR: their rows are ordered with one another. -/
def OpKind.accum : OpKind → Bool
  | .mrd _ => true
  | .mwr _ => true
  | _ => false

def Op.waiting (o : Op) : Bool :=
  match o.st with
  | .queued => true
  | .held _ => true
  | .blocked _ => true
  | .performed _ => false
  | .faulted _ => false

def overlap (p o : Op) : Bool :=
  match p.kind.span p.addr, o.kind.span o.addr with
  | some (x, a, n), some (y, b, m) => x == y && decide (a < b + m ∧ b < a + n)
  | _, _ => p.kind.accum && o.kind.accum && p.addr == o.addr

/-- Operations that release everything earlier (R187), or that wait for every earlier access (R318). -/
def OpKind.releases : OpKind → Bool
  | .atomic _ _ _ _ _ r => r != 0
  | .atomicS .. => true
  | .arrive _ => true
  | .arrivew _ => true
  | .nbar _ => true
  | .tqpush _ => true
  | .amsend .. => true
  | .launch .. => true
  | _ => false

/-- BINIT, a scratch store that is in no class of the fences (R330; log entry 13). -/
def OpKind.isBinit : OpKind → Bool
  | .binit _ => true
  | _ => false

/-- Operations that later accesses wait for: SC atomics (R173) and a pop, which is an acquire (R321). -/
def OpKind.holdsLater : OpKind → Bool
  | .atomic _ _ _ _ _ r => r != 0
  | .atomicS .. => true
  | .tqpop .. => true
  | _ => false

/-- Whether an operation holds every later access of its thread: on a page fault that parks the thread (R358), or behind an acquire (R238). A walk and a
launch record wait without parking it. -/
def Op.holdsBack (p : Op) : Bool :=
  match p.st, p.kind with
  | .held _, .pub .. => false
  | .held _, .launch .. => false
  | .held _, _ => true
  | .blocked _, _ => true
  | _, _ => false

/-- Two accesses of a thread to one byte, in its program order (R161, R184): a read of metadata and a load of the line are not such. -/
def sameByte (p o : Op) : Bool :=
  overlap p o && !(p.kind.classes == 1 && o.kind.classes == 1 && p.kind.isMeta != o.kind.isMeta)

/-- Whether the earlier operation `p` of a thread keeps `o` from being performed. The colours of a thread's accesses are met in program order (R238). -/
def blocks (p o : Op) : Bool :=
  p.waiting &&
  ((o.kind.memory && (p.holdsBack || (p.kind.acquires && !p.met)))
   || sameByte p o
   || (match p.kind with
       | .fence _ succ scope => decide (succ &&& o.kind.classes ≠ 0) && decide (scope ≤ 5)
       | .invl1 _ => o.kind.classes % 2 == 1
       | _ => false)
   || (p.kind.holdsLater && o.kind.access)
   || (o.kind.releases && (p.kind.classes != 0 || p.kind.isBinit))
   || (match o.kind with
       | .fence pred _ _ => decide (pred &&& p.kind.classes ≠ 0)
       | .pub .. => p.kind.classes % 32 / 2 != 0
       | .tqpush _ => p.kind.memory
       | .sign _ => (match p.kind with
           | .storeS .. => true
           | .stpl .. => true
           | .mwr _ => true
           | k => k.isBinit)
       | _ => false))

/-- The classes of engine work (R175) that an operation waits for: those of a fence's predecessor set, and for AMSEND those of a fence with every class
(R323). -/
def OpKind.engineSet : OpKind → Nat
  | .fence pred _ _ => pred / 8 % 4
  | .amsend .. => 3
  | _ => 0

/-- Engine work of the thread that an operation waits for (R175). -/
def State.engineBusy (s : State) (o : Op) : Bool :=
  decide (o.kind.engineSet ≠ 0) &&
    (s.cmds.any (fun c => c.tid == o.tid && decide (c.seq < o.seq)) || s.cpys.any (fun c => c.tid == o.tid && decide (c.seq < o.seq)))

/-- Whether engine work that the thread queued at place `seq` is held: by an earlier fence, not yet performed, that is an acquire or has engine work in its
successor set, or by an earlier SC atomic (R175, R185, R196). -/
def State.engineHeld (s : State) (tid seq : Nat) : Bool :=
  s.ops.any fun p => p.tid == tid && decide (p.seq < seq) && p.waiting && (match p.kind with
    | .fence pred succ _ => decide (pred ≠ 0) && decide (succ &&& 25 ≠ 0)
    | _ => p.kind.holdsLater)

/-- Whether an atomic sits in its core's buffer (R388). -/
def State.buffered (s : State) (o : Op) : Bool := (s.coreAt o.core).atomBuf.contains o.id

/-- The moment of the flush point that has drained an atomic which is still to be performed (R389, R390). -/
def State.flushOf (s : State) (o : Op) : Option Nat :=
  ((s.kernelOf? o.gid).bind fun k => k.drain.find? (·.1 == o.id)).map (·.2)

/-- Whether an earlier operation is an atomic in the buffer, which later operations other than a task push do not wait for (R318, R388); those issued before its
flush point do not wait for it afterwards either (R390). -/
def State.passedBy (s : State) (p o : Op) : Bool :=
  (s.buffered p || (match s.flushOf p with
    | some m => decide (o.seq < m)
    | none => false))
  && !p.holdsBack && (match o.kind with
    | .tqpush _ => false
    | _ => true)

/-- Whether nothing earlier of its thread keeps an operation from being performed. -/
def State.gate (s : State) (o : Op) : Bool :=
  (match o.st with
   | .queued => true
   | _ => false)
  && (s.ops.all fun p => !(p.tid == o.tid && decide (p.id < o.id)) || s.passedBy p o || !blocks p o)
  && !s.engineBusy o
  && (match s.thread? o.tid with
      | none => true
      | some t => !(o.kind.memory && t.parks.any fun p => match p with
          | .cwait _ q => decide (q < o.seq)
          | _ => false))

/-! ### The stores of an issue group to one byte (R161) -/

/-- The bytes of an access at [a, a + n) that one at [b, b + m) covers, as bits. -/
def coveredBits (a n b m : Nat) : Nat := 2 ^ (min (a + n) (b + m) - a) - 2 ^ (min n (max a b - a))

/-- The group whose region a scratch operation reaches (R158). -/
def State.targetOf (s : State) (o : Op) : Option Nat :=
  ((s.group? o.gid).bind fun g => s.scratchGroup? g o.addr).map (·.gid)

/-- Whether two operations are in one region: both global, both accumulator accesses of one group, or both scratch accesses of one region. -/
def State.sameSpace (s : State) (p o : Op) : Bool :=
  match p.kind.span p.addr, o.kind.span o.addr with
  | some (x, _, _), some (y, _, _) => x == y && (!x || s.targetOf p == s.targetOf o)
  | _, _ => p.kind.accum && o.kind.accum && p.gid == o.gid

/-- Whether two operations name one location (R173). -/
def State.sameLocation (s : State) (p o : Op) : Bool := overlap p o && s.sameSpace p o

/-- The bytes of `p` that the store `o` covers. -/
def shadowBits (p o : Op) : Nat :=
  match p.kind.span p.addr, o.kind.span o.addr with
  | some (_, a, n), some (_, b, m) => coveredBits a n b m
  | _, _ => 255

/-- A store is performed: those of its issue group with a lower index that are still to come leave its bytes as they are (R161). -/
def State.shadow (s : State) (o : Op) : State :=
  { s with ops := s.ops.map fun p =>
      if p.grpSeq = o.grpSeq ∧ p.id < o.id ∧ p.waiting ∧ s.sameLocation p o then { p with lost := p.lost ||| shadowBits p o } else p }

/-! ### Page faults (R358, R359) -/

/-- The kind field of a fault record (R359). -/
def OpKind.faultKind : OpKind → Nat
  | .store .. => 1
  | .stref _ => 1
  | .colr .. => 1
  | .atomic .. => 2
  | .fetch => 3
  | .pub .. => 4
  | .launch .. => 6
  | _ => 0

/-! ### The event ring (R373) -/

/-- Types of event entries; the manual gives them no numbers (log entry 23). -/
def evOverflow : Nat := 0
def evPageRefused : Nat := 1
def evMoveAborted : Nat := 2
def evFaultBuffer : Nat := 3
def evQueueRefused : Nat := 4
def evWatchdog : Nat := 5
def evLink : Nat := 6

/-- An event counted in the overflow entry, which is the last one written (R373). -/
def dropEvent (l : List Event) (n : Nat) : List Event :=
  match l.reverse with
  | [] => []
  | e :: rest => (({ e with payload := n } : Event) :: rest).reverse

/-- The device writes an event to the host event ring: as an entry, or, when only the reserved entry is free, as an overflow event that counts
what is dropped (R373). -/
def EvRing.push (r : EvRing) (kind id payload : Nat) : EvRing :=
  let size := 2 ^ r.log
  let used := r.write - r.read
  if used + 1 < size then
    { r with write := r.write + 1, seq := r.seq + 1
             entries := r.entries ++ [{ kind := kind, id := id, payload := payload, seq := r.seq + 1 }] }
  else if used < size then
    { r with write := r.write + 1, seq := r.seq + 1, dropped := 1
             entries := r.entries ++ [{ kind := evOverflow, id := 0, payload := 1, seq := r.seq + 1 }] }
  else
    let n := min (r.dropped + 1) (2 ^ 64 - 1)
    -- the entry is written again with its count
    { r with dropped := n, done := min r.done (r.write - 1), entries := dropEvent r.entries n }

def State.hostEvent (s : State) (kind id payload : Nat) : State :=
  { s with dev := { s.dev with ring := s.dev.ring.push kind id payload } }

/-! ### Fault records (R358, R359) -/

/-- Write a record into the context's fault buffer, or hold it when the ring is full (R359). Answers its sequence number, 0 for none yet. -/
def State.putFault (s : State) (r : FaultRec) : State × Nat :=
  match s.ctx? r.asid with
  | none => (s, 0)
  | some c =>
    if c.fbWrite - c.fbRead < 2 ^ c.fbLog then
      let q := c.fbSeq + 1
      let r' := { r with seq := q }
      let s1 := s.modCtx r.asid fun c => { c with fbSeq := q, fbWrite := c.fbWrite + 1 }
      ({ s1 with faultRecs := s1.faultRecs ++ [r'] }, q)
    else
      -- the overflow event is raised once
      let s1 := if c.fbOverflow then s else s.hostEvent evFaultBuffer r.asid 0
      (s1.modCtx r.asid fun c => { c with fbOverflow := true, fbHeld := c.fbHeld ++ [r] }, 0)

/-- A thread waits for a held access; it may do so already. -/
def State.parkOn (s : State) (tid id : Nat) : State :=
  if ((s.thread? tid).map fun t => t.parks.contains (.fault id)) = some true then s else s.addPark tid (.fault id)

/-! ### Colours (R231, R238) -/

/-- What a coloured line asks of an access (R238). -/
inductive Colour where
  | free
  | acquire
  | fault (code : Nat)
  deriving DecidableEq, Repr

/-- The check of an access whose thread holds the colours `held` at its place in program order. -/
def colourCheck (held : List Nat) (c : Nat) (home : Home) : Colour :=
  if c = 0 then .free
  else if home.node ≥ 8 then .fault tcProtection
  else if held.contains c then .free
  else if held.any fun h => decide (c < h) then .fault tcColourOrder
  else if held.length ≥ 4 then .fault tcMonitor
  else .acquire

/-- The colours that a thread holds at an access: those of its record, and those that a word after the access gives up and whose release or wait message has not
been sent yet (R238, R241). -/
def State.heldAtOp (s : State) (t : Thread) (o : Op) : List Nat :=
  let now := (t.held.filter fun h => h.st != .waiting).map (·.colour)
  let later := (s.rels.filter fun r => r.tid == o.tid && decide (o.seq < r.seq)).map (·.colour)
  now ++ later.filter fun c => !now.contains c

/-- Whether an access comes before a release or wait of its thread whose colour has been granted: it is performed under that grant, also
after the thread has exited (R241). -/
def State.underRelease (s : State) (o : Op) (c : Nat) : Bool :=
  (s.rels.any fun r => r.tid == o.tid && r.colour == c && decide (o.seq < r.seq))
  && (s.monitors.any fun m => m.asid == o.asid && m.colour == c && (m.owner.map (·.1)) == some o.tid)
  && s.replies.all fun x => !(x.tid == o.tid && x.colour == c)

/-- Whether the frame that an access was issued in has been left, by RET or EXIT, when its colour is met (R241). -/
def Thread.leftFrame (t : Thread) (o : Op) : Bool :=
  t.st == .exited || t.retAt.any fun r => r.1 == o.depth && decide (o.seq < r.2)

/-- When the frame of an access was left: the first return from its depth after the access was issued (R241). -/
def Thread.leftAt (t : Thread) (o : Op) : Option Nat :=
  minBy id ((t.retAt.filter fun r => r.1 == o.depth && decide (o.seq < r.2)).map (·.2))

/-- Send the acquire, and hold this access and the thread's later ones (R238). The colour is held against the frame the access was issued in; when that
frame has been left meanwhile, the release follows as soon as the accesses of the frame are performed, and only they are performed under its grant (R241). -/
def State.sendAcquire (s : State) (o : Op) (c : Nat) : State :=
  match s.thread? o.tid with
  | none => s
  | some t =>
    let left := t.leftFrame o
    let s1 := s.modThread o.tid fun t => if left then t else { t with held := t.held ++ [{ colour := c, depth := o.depth, st := .sent }] }
    let s2 := s1.modOp o.id fun o => { o with st := .blocked c }
    { s2 with
      msgs := s2.msgs ++ [{ id := s2.fresh, tid := o.tid, gid := o.gid, asid := o.asid, colour := c, depth := o.depth, kind := .acquire, grp := o.grpSeq }]
      rels := s2.rels ++ (if left then
          [{ id := s2.fresh + 1, tid := o.tid, gid := o.gid, asid := o.asid, core := o.core, colour := c, depth := o.depth, seq := (t.leftAt o).getD (s2.fresh + 1), wait := false }]
        else [])
      fresh := s2.fresh + 2 }

/-- Every copy of the lines selected is written back, if dirty, and dropped, everywhere in the package (R233, R356). -/
def State.purgeLines (s : State) (sel : Nat → Nat → Home → Bool) : State :=
  let s1 := s.cores.foldl (fun s k => s.dropL1 k.id fun l => sel l.asid l.line l.home) s
  let s2 := s1.flushWbs fun w => sel w.asid w.line w.home
  let s3 := s2.drain fun w => sel w.asid w.line w.home
  (s3.dropCopies fun c => sel c.asid c.line c.home).dropOwn fun c => sel c.asid c.line c.home

/-! ### Permissions and the state of a home -/

/-- Permissions of R157. -/
def permOk (k : OpKind) (e : Word) : Bool :=
  match k with
  | .store .. => peWR e
  | .stref _ => peWR e
  | .colr .. => peWR e
  | .atomic .. => peRD e && peWR e && peAT e
  | .fetch => peEX e
  | _ => peRD e

/-- The home of a line as the core's L1 or its die's L2 holds it: checked when it was filled, and usable since without a translation (R355). -/
def State.heldHome? (s : State) (die asid line : Nat) : Option Home :=
  match s.copyOf? die asid line with
  | some c => some c.home
  | none => (s.ownLine? die asid line).map (·.home)

/-- The home of an access: as its L1 or the die's L2 was filled (R355), otherwise translated (R354), by the table where its translation was made anew. -/
def State.homeFor (s : State) (o : Op) (rewalk : Bool) : State × Except Miss Home :=
  let va := o.addr.toNat
  let die := dieOf o.core
  let held := match s.l1? o.core o.asid (va / 64) with
    | some l => some l.home
    | none => s.heldHome? die o.asid (va / 64)
  match held with
  | some h => if permOk o.kind h.entry then (s, .ok h) else s.locate die o.asid va (rewalk || o.rewalk)
  | none => s.locate die o.asid va (rewalk || o.rewalk)

/-- The home of a line for the die's own agents: as its L2 holds it, where the entry it was filled by allows the access, or translated (R354, R355). -/
def State.homeWith (s : State) (die asid va : Nat) (allows : Word → Bool) : Except Miss Home :=
  match (s.heldHome? die asid (va / 64)).filter fun h => allows h.entry with
  | some h => .ok h
  | none => match s.translate die asid va false with
    | .none l mf => .error (.absent l mf)
    | .wait => .error .wait
    | .bad node addr => .error (.bad node addr)
    | .leaf e base size => .ok (homeOf e base size va)

/-- The same where no permission is asked. -/
def State.homeAt (s : State) (die asid va : Nat) : Except Miss Home := s.homeWith die asid va fun _ => true

/-- An access finds no valid leaf (R358): its operations of one issue group on one 4 KiB page share a record; the threads become
park-pending when the kind parks. One whose line is held, and usable without a translation (R355), is not among them. -/
def State.pageFault (s : State) (o : Op) (va level : Nat) (mf : Bool) : State :=
  let mates := s.ops.filter fun p => p.grpSeq == o.grpSeq && p.kind.faultKind == o.kind.faultKind
    && p.addr.toNat / 2 ^ 12 == va / 2 ^ 12 && (match p.st with
      | .queued => true
      | _ => false) && (match (s.homeFor p false).2 with
      | .ok _ => false
      | .error _ => true)
  let alone := match o.kind with
    | .pub .. => true
    | .launch .. => true
    | _ => mates.isEmpty
  let ms := if alone then [o] else mates
  let ts := ms.filterMap fun p => s.thread? p.tid
  -- the record names the address of the lowest-indexed access
  let first := if alone then va else ((minBy Op.id ms).map fun p => p.addr.toNat).getD va
  let r : FaultRec :=
    { asid := o.asid, seq := 0, va := first, kind := o.kind.faultKind, level := level, mf := mf, core := o.core,
      lanes := ts.foldl (fun m t => m ||| 2 ^ t.lane) 0, passes := ts.foldl (fun m t => m ||| 2 ^ t.pass) 0, count := max 1 ts.length }
  let (s1, q) := s.putFault r
  let s2 := ms.foldl (fun s p => s.modOp p.id fun p => { p with st := .held q }) s1
  let parks := match o.kind with
    | .pub .. => false
    | .launch .. => false
    | .pfl _ => false
    | _ => true
  if parks then ms.foldl (fun s p => s.parkOn p.tid p.id) s2 else s2

/-- Whether a mask has the n bytes of a line at an address. -/
def covers (valid : BitVec 64) (va n : Nat) : Bool := valid &&& byteMask (va % 64) n == byteMask (va % 64) n

/-- Whether the die's copy of a line serves n bytes at an address, for a reader that uses no copy filled before `bound` (R183). -/
def State.copyServes (s : State) (die asid va n bound : Nat) (h : Home) : Bool :=
  copyable die h && (match s.copyOf? die asid (va / 64) with
    | some c => decide (bound ≤ c.filled) && covers c.valid va n
    | none => false)

/-- Whether an access reads its line at the home: not where the L1 or a copy of the die serves it. -/
def State.readsHome (s : State) (o : Op) (h : Home) : Bool :=
  let byL1 (n : Nat) : Bool := match s.l1? o.core o.asid (o.addr.toNat / 64) with
    | some l => l.serves o.acq o.acqC && covers l.valid o.addr.toNat n
    | none => false
  let byCopy (n : Nat) : Bool := s.copyServes (dieOf o.core) o.asid o.addr.toNat n (max o.acq o.acqC) h
  match o.kind with
  | .store .. => false
  | .load _ n _ => !byL1 n && !byCopy n
  | .readMeta .. => !byL1 0 && !byCopy 0
  | _ => true

/-- Whether a store leaves for its home at once, where no L1 takes its bytes (R167, R168). -/
def State.storesHome (s : State) (o : Op) (h : Home) : Bool :=
  match o.kind with
  | .store _ _ pol _ =>
    !h.cached || l1na pol || ((s.l1? o.core o.asid (o.addr.toNat / 64)).isNone && (s.lineGranule? o.core (o.addr.toNat / 64)).isNone)
  | _ => false

/-- Whether an access to a home ends UNCORRECTABLE (R363, R382). -/
def State.uncorrectable (s : State) (o : Op) (h : Home) : Bool :=
  (s.readsHome o h && s.unreadable h) || (s.storesHome o h && s.unreachable h)

/-! ### Results -/

/-- What a load writes (R164, R131): the bytes as a number. -/
def loadEffs (dst : LoadDst) (v : Nat) : List Eff :=
  match dst with
  | .gS d n => [.g d (BitVec.ofInt 64 (sextInt v (8 * n)))]
  | .gU d n => [.g d (BitVec.ofNat 64 (v % 2 ^ (8 * n)))]
  | .gQ d => [.g d (BitVec.ofNat 64 v), .g (d + 1) (BitVec.ofNat 64 (v / 2 ^ 64))]
  | .fS d => [.f d (BitVec.ofNat 64 (v % 2 ^ 32))]
  | .fD d => [.f d (BitVec.ofNat 64 v)]
  | .fI d => [.f d (BitVec.ofNat 64 v)]
  | .fJ d => [.f d (BitVec.ofNat 64 v), .f (d + 1) (BitVec.ofNat 64 (v / 2 ^ 64))]

/-- The interval check of a load (R166). -/
def loadIvBad (dst : LoadDst) (v : Nat) : Bool :=
  match dst with
  | .fI _ => (Iv.mk (Fmt.s.decode (v % 2 ^ 32)) (Fmt.s.decode (v / 2 ^ 32 % 2 ^ 32))).invalid
  | .fJ _ => (Iv.mk (Fmt.d.decode (v % 2 ^ 64)) (Fmt.d.decode (v / 2 ^ 64 % 2 ^ 64))).invalid
  | _ => false

/-- The read-modify-write of R172 on numbers of N bits. -/
def atomicNew (op : AOp) (n old v e : Nat) : Nat :=
  let m := 2 ^ n
  match op with
  | .add => (old + v) % m
  | .max => if sextInt old n < sextInt v n then v else old
  | .min => if sextInt v n < sextInt old n then v else old
  | .maxu => max old v
  | .minu => min old v
  | .and => old &&& v
  | .or => old ||| v
  | .xor => old ^^^ v
  | .swap => v
  | .cas => if old = e then v else old

/-- Whether the operation writes (R172). -/
def atomicWrites (op : AOp) (old new : Nat) : Bool := op == .swap || new != old

/-- What an atomic writes back to its thread (R172). -/
def atomicEff (d bytes old : Nat) : List Eff :=
  [.g d (if bytes = 4 then BitVec.ofInt 64 (sextInt old 32) else BitVec.ofNat 64 old)]

/-- An atomic's contribution to the store hash (R392). -/
def mixAtomic (q : Nat) (a : Word) (bytes old : Nat) : Word := mix q a (0x100 + bytes) (BitVec.ofNat 64 old) 0

/-! ### Performing -/

/-- A fault found for an operation after issue: at its flag for a flagged word (R134), kept for STORE_FAULT_FOUND for a store (R160). -/
def State.foundFault (s : State) (o : Op) (code : Nat) (addr : Word) : State :=
  let keep := s.modOp o.id fun o =>
    { o with st := .faulted { seq := o.seq, code := BitVec.ofNat 64 code, addr := addr, pc := o.pc, resume := none } }
  match o.kind with
  | .store .. => keep
  | .storeS .. => keep
  | .stpl .. => keep
  | .mwr .. => keep
  | .colr .. => keep
  | .binit .. => keep
  -- a STREF that fails contributes nothing to the store hash (R392)
  | .stref v => (s.modThread o.tid fun t => { t with hash := t.hash - mixStore o.hseq o.addr 8 v.toNat }).faultOp o code addr
  | _ => s.faultOp o code addr

/-- A store's fault is found: its hash contribution is subtracted (R392) and the trap is due at the next clause start (R160), or taken at once where the thread is
parked on the store (R93). -/
def State.storeFault (s : State) (o : Op) (d : Due) : State :=
  match s.thread? o.tid with
  | none => s.dropOp o.id
  | some t =>
    let back : Word := match o.kind with
      | .store v n _ hdr => mixStore o.hseq o.addr n (if hdr then v % 2 ^ 32 else v)
      | .storeS v n => mixStore o.hseq o.addr n v
      | _ => 0
    let s1 := s.modThread o.tid fun t => { t with hash := t.hash - back }
    s1.endInFault o t { d with code := codeWord t d.code.toNat false }

/-- Whether words `w, w+1, …` (n of them) of a line hold a reference. -/
def anyRef (md : BitVec 32) (w n : Nat) : Bool := (List.range n).any fun i => mKind md (w + i) == 1

/-- Whether the bytes of a load hold a reference of a line published at quad scope or wider, or coloured (R192). -/
def loadsRef (e : Word) (md : BitVec 32) (va n : Nat) : Bool :=
  peME e && anyRef md (va % 64 / 8) ((n + 7) / 8) && (decide (1 ≤ mScope md) || mColour md != 0)

/-- The line of the header that a STREF's value names, where the header has to be read for the judgement (R218), or what keeps it from being read. -/
def State.headerHome (s : State) (die asid : Nat) (v : Word) : Except Miss Home := s.homeAt die asid v.toNat

/-- STREF's judgement at the home slice (R213, R218): whether the value names the header of an object of a narrower scope than the line it is stored to. A
value whose page has no valid leaf, or lies outside every memory, names no header (log entry 52). -/
def State.escapes (s : State) (die asid : Nat) (v : Word) (scope : Nat) : Bool :=
  decide (1 ≤ scope) && v != 0 && (match s.headerHome die asid v with
    | .error _ => false
    | .ok hh =>
      let hm := s.mem.metaAt hh.node hh.addr
      s.frameExists hh.node hh.addr && peME hh.entry && mKind hm (v.toNat % 64 / 8) == 2 && decide (effScope hm < scope))

/-- Whether STREF waits for the way to the header of its value: its stack is not trained, or the host port is down (R377, R378). -/
def State.headerWaits (s : State) (o : Op) : Bool :=
  match o.kind with
  | .stref v => v != 0 && (match s.headerHome (dieOf o.core) o.asid v with
    | .error .wait => true
    | .error _ => false
    | .ok h => !s.stackTrained h.node h.addr)
  | _ => false

/-- Where reading the header that a STREF's value names meets an uncorrectable error (R218, R363): its line, or that of a page table on the way to it; a peer out of reach
too (R382). The scope is that of the line stored to: at 0 no header is read. -/
def State.headerBad (s : State) (die asid : Nat) (v : Word) (scope : Nat) : Option (Nat × Nat) :=
  if scope = 0 ∨ v = 0 then none
  else match s.headerHome die asid v with
    | .error (.bad node addr) => some (node, addr)
    | .error _ => none
    | .ok h => if s.frameExists h.node h.addr && peME h.entry && s.unreadable h then some (h.node, h.addr) else none

/-- The result of an access at a home where nothing stands in the way. -/
def State.atHome (s : State) (o : Op) (h : Home) : State :=
  let va := o.addr.toNat
  let line := va / 64
  let die := dieOf o.core
  match o.kind with
  | .load dst n pol =>
    let (s1, r) := s.loadLine o.core o.asid va n h o.acq o.acqC pol
    let v := lineSlice r.data (va % 64) n
    if loadIvBad dst v then s1.faultOp o tcIvInvalid o.addr
    else
      -- a reference load is a moment that what depends on it is not older than (R192)
      let dep := if loadsRef h.entry r.mdata va n then s1.fresh + 1 else o.dep
      { (s1.keepPeer o.id r.req).modOp o.id (fun o => { o with st := .performed v, dep := dep }) with fresh := s1.fresh + 2 }
  | .store v n pol hdr =>
    ((s.storeLine o.core o.asid va n (if hdr then v % 2 ^ 32 else v) h pol (if hdr then 2 else 0) o.lost).shadow o).dropOp o.id
  | .readMeta what _ pol =>
    let (s1, r) := if l1na pol then s.readL2 die o.asid line h (max o.acq o.acqC) (l2Alloc pol) (Policy.class pol line)
      else s.loadLine o.core o.asid va 1 h o.acq o.acqC pol
    let m := if peME h.entry then r.mdata else 0
    let v := match what with
      | 0 => mKind m (va % 64 / 8)
      | 1 => effScope m
      | _ => mColour m
    (s1.keepPeer o.id r.req).modOp o.id fun o => { o with st := .performed v }
  | .stref v =>
    if !peME h.entry then s.foundFault o tcProtection o.addr
    else
      let s1 := s.dropL1 o.core fun l => l.asid == o.asid && l.line == line
      let s2 := s1.drainLine die o.asid line
      let scope := effScope (s2.mem.metaAt h.node h.addr)
      -- the header's line, read at its home slice (R213, R218)
      match s2.headerBad die o.asid v scope with
      | some (node, addr) => (s2.meetLine node addr).foundFault o tcUncorrectable o.addr
      | none =>
      if s2.escapes die o.asid v scope then s2.foundFault o tcEscape o.addr
      else if o.lost != 0 then s2.finishOp o 0 []
      else
        let m1 := (s2.writePeer h line).mem.mergeHome h (BitVec.ofNat 512 (v.toNat * 2 ^ (8 * (va % 64)))) (byteMask (va % 64) 8) (setKind 0 (va % 64 / 8) 1)
        let upd (c : DieCopy) : DieCopy :=
          { c with data := linePut c.data (va % 64) 8 v.toNat, valid := c.valid ||| byteMask (va % 64) 8,
                   mdata := setKind c.mdata (va % 64 / 8) 1 }
        let cs := m1.copies.map fun (c : DieCopy) => if c.die = die ∧ c.asid = o.asid ∧ c.line = line then upd c else c
        let s3 : State := { s2 with mem := { m1 with copies := cs } }
        (s3.shadow o).finishOp o 0 []
  | .atomic op n v e _ _ =>
    let s1 := s.dropL1 o.core fun l => l.asid == o.asid && l.line == line
    let s2 := s1.drainLine die o.asid line
    let old := s2.mem.rd h.node (h.addr + va % 64) n
    let new := atomicNew op (8 * n) old (v.toNat % 2 ^ (8 * n)) (e.toNat % 2 ^ (8 * n))
    let s3 := if atomicWrites op old new then
        { s2 with mem := s2.mem.mergeHome h (BitVec.ofNat 512 (new * 2 ^ (8 * (va % 64)))) (byteMask (va % 64) n) 0 }
      else s2
    let s4 := s3.dropCopies fun c => c.die == die && c.asid == o.asid && c.line == line
    -- a peer performs it as a request, which it records (R382)
    let r := s4.newPeer o.id (nodePkg h.node) line
    let s5 := if h.node < 8 then s4 else (s4.sent r true).recorded r old
    s5.modOp o.id fun o => { o with st := .performed old }
  | _ => s

/-- A request that a die sends to another home as it misses (R361): reads are counted as they miss, atomics and checked stores here. -/
def State.countRequest (s : State) (o : Op) (h : Home) : State :=
  match o.kind with
  | .stref _ => s.countMiss (dieOf o.core) o.asid (o.addr.toNat / 64) h
  | .atomic .. => s.countMiss (dieOf o.core) o.asid (o.addr.toNat / 64) h
  | _ => s

/-- An access meets the colour of its line (R231, R238): the state after, and whether the access may be performed. R231 has a thread's access to a coloured line of another
package fault PROTECTION, and R237 has TAGOF, SCOPEOF and COLOF reach coloured lines without the monitor as other agents do: here the three words read such a line's metadata
and do not fault (log entry 79). -/
def State.meetColour (s : State) (o : Op) (h : Home) : State × Bool :=
  match s.thread? o.tid with
  | none => (s.dropOp o.id, false)
  | some t =>
    let c := if o.kind.acquires then mColour (s.metaSeen o.core o.asid (o.addr.toNat / 64) h) else 0
    let passed := s.modOp o.id fun o => { o with met := true }
    if c != 0 && decide (h.node ≥ 8) then (s.foundFault o tcProtection o.addr, false)
    else if s.underRelease o c then (passed, true)
    else match colourCheck (s.heldAtOp t o) c h with
      | .fault code => (s.foundFault o code o.addr, false)
      | .acquire =>
        -- the acquires of one issue group are sent in ascending index, behind a release of the colour (R241, R242)
        if s.rels.any (fun r => r.tid == o.tid && r.colour == c)
            || s.ops.any (fun p => p.grpSeq == o.grpSeq && decide (p.id < o.id) && p.kind.acquires && !p.met && s.gate p) then (s, false)
        else (s.sendAcquire o c, false)
      | .free => (passed, true)

/-- Try to perform a global access (R157, R161, R238, R354, R358, R361), or, with `only`, to meet its colour: it stays under way where it must wait. -/
def State.performGlobal (s : State) (o : Op) (rewalk only : Bool) : State :=
  if !s.gate o then s
  else
    match s.homeFor o rewalk with
    | (s1, .error .wait) => s1
    | (s1, .error (.bad node addr)) => (s1.meetLine node addr).foundFault o tcUncorrectable o.addr
    | (s1, .error (.absent level mf)) => s1.pageFault o o.addr.toNat level mf
    | (s1, .ok h) =>
      if !permOk o.kind h.entry then s1.foundFault o tcProtection o.addr
      else if !s1.stackTrained h.node h.addr || !s1.frameExists h.node h.addr || s1.headerWaits o then s1
      else
        match s1.meetColour o h with
        | (s2, false) => s2
        | (s2, true) =>
          if only then s2
          else if s2.uncorrectable o h then (s2.meetError h).foundFault o tcUncorrectable o.addr
          else match o.kind with
            | .store _ _ _ true => if peME h.entry then s2.atHome o h else s2.foundFault o tcProtection o.addr
            | _ => (s2.countRequest o h).atHome o h

/-- The resident group a scratch operation reaches (R158, R316): its granules are there and its context is not being saved or loaded
(R338). -/
def State.scratchTarget (s : State) (o : Op) : Option Group :=
  match s.group? o.gid with
  | none => none
  | some g => (s.scratchGroup? g o.addr).filter fun h =>
      h.resident && !(s.saved.any fun x => x.gid == h.gid)

/-- Whether the target's context is being saved or loaded, so that the access is held at the bank (R338). -/
def State.scratchHeld (s : State) (o : Op) : Bool :=
  match s.group? o.gid with
  | none => false
  | some g => match s.scratchGroup? g o.addr with
    | none => false
    | some h => h.resident && s.saved.any fun x => x.gid == h.gid

/-- STPL's merged bits for one thread: bit l mod 8 of byte 128j + l div 8 for each plane j (R276). -/
def stplGo (core lane : Nat) (gs : List Nat) (o : Nat) (src : Word) : Nat → Pool → Pool
  | 0, p => p
  | j + 1, p =>
    let p1 := stplGo core lane gs o src j p
    let a := o + 128 * j + lane / 8
    match regionByte core gs a with
    | none => p1
    | some b =>
      let old := (cellsRead p1.bytes b).toNat
      let bit := 2 ^ (lane % 8)
      let cleared := old - (old / bit % 2) * bit
      { p1 with bytes := cellsWrite b (BitVec.ofNat 8 (cleared + (if src.getLsbD j then bit else 0))) p1.bytes }

/-- The operations of an STPL word that make one store with `o`: those of the threads of its pass that name its address (R276). -/
def State.stplMates (s : State) (o : Op) : List Op :=
  let pass (p : Op) : Option Nat := (s.thread? p.tid).map (·.pass)
  s.ops.filter fun p => p.grpSeq == o.grpSeq && p.addr == o.addr && p.waiting && pass p == pass o && s.targetOf p == s.targetOf o

/-- One thread's bits of an STPL. The manual does not say which planes the one store has where threads of a pass name one address with different P: here each
thread stores the planes of its own word (log entry 63). -/
def State.stplOne (s : State) (g : Group) (o : Op) : State :=
  match o.kind with
  | .stpl p src =>
    { s with pool := stplGo g.core (((s.thread? o.tid).map (·.lane)).getD 0) g.scratch (ScrAddr.ofWord o.addr).offset src p s.pool }
  | _ => s

/-- A scratch or accumulator store reaches its bank (R161, R162, R167, R276, R316, R328). -/
def State.performScratchStore (s : State) (o : Op) : State :=
  if !s.gate o || s.scratchHeld o then s
  else
    match s.scratchTarget o with
    | none => s.dropOp o.id
    | some g =>
      let off := (ScrAddr.ofWord o.addr).offset
      match o.kind with
      | .storeS v n =>
        if s.liveOver g.core g.scratch off n then s.foundFault o tcClobber o.addr
        else ((s.regionStore g.core g.scratch off v o.lost n).shadow o).dropOp o.id
      | .stpl p _ =>
        let ms := s.stplMates o
        -- the pass makes one store: it waits until nothing keeps any of its threads (R276)
        if !ms.all s.gate then s
        else if (List.range p).any fun j => s.liveOver g.core g.scratch (off + 128 * j) 4 then
          ms.foldl (fun s m => s.foundFault m tcClobber m.addr) s
        else ms.foldl (fun s m => (s.stplOne g m).dropOp m.id) s
      | _ => s

/-- MWR's element pair in the accumulator region of the thread's own group: `addr` is the byte offset (R161, R275). -/
def State.performMwr (s : State) (o : Op) (v : Word) : State :=
  if !s.gate o || s.saved.any (fun x => x.gid == o.gid) then s
  else
    match s.group? o.gid with
    | none => s.dropOp o.id
    | some g =>
      if !g.resident then s.dropOp o.id
      else if s.liveOver g.core g.accum o.addr.toNat 8 then s.foundFault o tcClobber o.addr
      else ((s.regionStore g.core g.accum o.addr.toNat v.toNat o.lost 8).shadow o).dropOp o.id

/-- The acknowledgement of an operation's request to a peer, if it has made one, arrives, and the operation goes on from it; with no plane up that could bring it,
the operation ends UNCORRECTABLE (R382, log entry 7). -/
def State.fromPeer (s : State) (o : Op) (done : State → Option PeerReq → State) : State :=
  match s.peerReq? o.id with
  | none => done s none
  | some r => if s.scaleUp then done (s.ackPeer o.id) (some r) else (s.ackPeer o.id).faultOp o tcUncorrectable o.addr

/-- A load's data returns (R77, R164): performed now if it was not before, then delivered; from a peer with the acknowledgement of its request (R382). -/
def State.deliverLoad (s : State) (o : Op) : State :=
  match o.st, o.kind with
  | .performed v, .load dst _ _ => s.fromPeer o fun s _ => s.finishOp o 0 (loadEffs dst v)
  | .performed v, .loadS dst _ => s.finishOp o 0 (loadEffs dst v)
  | .performed v, .mrd d => s.finishOp o 0 [.g d (BitVec.ofNat 64 v)]
  | .performed v, .readMeta _ d _ => s.fromPeer o fun s _ => s.finishOp o 0 [.g d (BitVec.ofNat 64 v)]
  | _, _ => s

/-- Perform a scratch or accumulator load at its bank (R165, R275, R316). -/
def State.performScratchLoad (s : State) (o : Op) : State :=
  if !s.gate o then s
  else
    match o.kind with
    | .loadS dst n =>
      if s.scratchHeld o then s
      else
        let v := match s.scratchTarget o with
          | none => 0
          | some g => s.regionRead g.core g.scratch (ScrAddr.ofWord o.addr).offset n
        if ((s.scratchTarget o).map fun g => s.regionBad g.core g.scratch (ScrAddr.ofWord o.addr).offset n).getD false then
          s.faultOp o tcUncorrectable o.addr
        else if loadIvBad dst v then s.faultOp o tcIvInvalid o.addr
        else s.modOp o.id fun o => { o with st := .performed v }
    | .mrd _ =>
      if s.saved.any (fun x => x.gid == o.gid) then s
      else
        let v := match s.group? o.gid with
          | none => 0
          | some g => s.regionRead g.core g.accum o.addr.toNat 8
        if ((s.group? o.gid).map fun g => s.regionBad g.core g.accum o.addr.toNat 8).getD false then s.faultOp o tcUncorrectable o.addr
        else s.modOp o.id fun o => { o with st := .performed v }
    | _ => s

/-- AMOS at the bank of its target (R172, R173, R316, R328). R316 says of a group that is no longer resident that a store is dropped and a load returns 0; an atomic
does both here: it writes nothing and returns 0 (log entry 64). -/
def State.performAtomicS (s : State) (o : Op) : State :=
  if !s.gate o || s.scratchHeld o then s
  else
    match o.kind with
    | .atomicS op n v e _ =>
      let s1 := s.fenceEffect o.tid o.seq o.core o.asid 2 true true
      match s1.scratchTarget o with
      | none => s1.modOp o.id fun o => { o with st := .performed 0 }
      | some g =>
        let off := (ScrAddr.ofWord o.addr).offset
        if s1.liveOver g.core g.scratch off n then s1.faultOp o tcClobber o.addr
        else if s1.regionBad g.core g.scratch off n then s1.faultOp o tcUncorrectable o.addr
        else
          let old := s1.regionRead g.core g.scratch off n
          let new := atomicNew op (8 * n) old (v.toNat % 2 ^ (8 * n)) (e.toNat % 2 ^ (8 * n))
          let s2 := if atomicWrites op old new then s1.regionWrite g.core g.scratch off new n else s1
          s2.modOp o.id fun o => { o with st := .performed old }
    | _ => s

/-- Whether an earlier global atomic of the thread to the same slice is still to be performed: in record and replay mode they arrive in issue order (R395). -/
def State.streamWaits (s : State) (o : Op) (i : Nat) : Bool :=
  s.ops.any fun p => p.tid == o.tid && decide (p.id < o.id) && p.waiting && (match p.kind with
    | .atomic .. => (match (s.homeFor p false).2 with
      | .ok h => streamOf h p.addr.toNat == some i
      | .error _ => false)
    | _ => false)

/-- A global atomic at its home slice, past the order gate or into the log (R172, R173, R395 to R397). A missing permission is found at its translation, before it
reaches the slice (R354, R396). One for which the log cannot be read ends UNCORRECTABLE at its flag (R363, log entry 74). -/
def State.performAtomicG (s : State) (o : Op) (rewalk : Bool) : State :=
  if !s.gate o then s
  else
    let sc := match o.kind with
      | .atomic _ _ _ _ _ r => r != 0
      | _ => false
    let go (s : State) : State :=
      let s1 := if sc then s.fenceEffect o.tid o.seq o.core o.asid 4 true true else s
      s1.performGlobal o rewalk false
    if sc && s.releaseStuck o.core o.asid 4 then s
    else match s.kernelOf? o.gid with
    | none => s.dropOp o.id
    | some k =>
      if k.lr.mode < 2 then go s
      else
        match s.homeFor o rewalk with
        | (s1, .error _) => s1.performGlobal o rewalk false
        | (s1, .ok h) =>
          if !permOk o.kind h.entry then s1.performGlobal o rewalk false
          else match streamOf h o.addr.toNat with
          | none => go s1
          | some i =>
            if s1.streamWaits o i || s1.logWaits k i then s1
            else match s1.logBad k i with
            | some a => (s1.meetRead k.asid a).faultOp o tcUncorrectable o.addr
            | none =>
            if k.lr.mode = 2 then
              let s2 := go s1
              (match (s2.op? o.id).map Op.st with
               | some (OpSt.performed _) => s2.logAppend k i o.tid
               | _ => s2)
            else
              match s1.orderGate k i o.tid with
              | .hold => s1
              | .diverged =>
                (s1.modKernel k.kid fun k => k.setStream { k.stream i with diverged := true }).faultOp o tcDiverged o.addr
              | .pass =>
                let s2 := go s1
                match (s2.op? o.id).map Op.st with
                | some (OpSt.performed _) => s2.gateUse k i
                | _ => s2

/-- An atomic's old value returns to its thread (R172, R173, R392); from a peer with the acknowledgement of its request (R382). -/
def State.deliverAtomic (s : State) (o : Op) : State :=
  match o.st, o.kind with
  | .performed v, .atomic _ n _ _ d _ =>
    let done (s : State) (v : Nat) : State :=
      (s.modThread o.tid fun t => { t with hash := t.hash + mixAtomic o.hseq o.addr n v }).finishOp o 0 (atomicEff d n v)
    s.fromPeer o fun s r => done s ((r.bind s.peerAnswer).getD v)
  | .performed v, .atomicS _ n _ _ d =>
    (s.modThread o.tid fun t => { t with hash := t.hash + mixAtomic o.hseq o.addr n v }).finishOp o 0 (atomicEff d n v)
  | _, _ => s

/-! ### Fences and cache words -/

/-- A fence whose predecessors are all performed takes effect (R175, R176). It is a release when stores are in its predecessor set, or when anything
that can mark it is in its successor set, since it then covers what the thread has seen (R187, R194); an acquire when loads are in its successor set. -/
def State.performFence (s : State) (o : Op) : State :=
  if !s.gate o then s
  else
    match o.kind with
    | .fence pred succ scope =>
      if pred = 0 ∨ succ = 0 then s.dropOp o.id
      else if s.releaseStuck o.core o.asid scope then s
      else (s.fenceEffect o.tid o.seq o.core o.asid scope (pred / 2 % 2 == 1 || decide (succ / 2 ≠ 0)) (succ % 2 == 1)).dropOp o.id
    | _ => s

/-- The lines a cache word names (R177): the whole context for length 0, else the range rounded to lines and cut at 2^52. -/
def inRange (asid a len : Nat) (l : L1Line) : Bool :=
  l.asid == asid && (len == 0 || decide (a / 64 ≤ l.line ∧ l.line < (min (a + len) (2 ^ 52) + 63) / 64))

/-- WBL1 and INVL1 (R177). -/
def State.performCache (s : State) (o : Op) : State :=
  if !s.gate o then s
  else
    match o.kind with
    | .wbl1 len => (s.cleanL1 o.core (inRange o.asid o.addr.toNat len)).dropOp o.id
    | .invl1 len => (s.dropL1 o.core (inRange o.asid o.addr.toNat len)).dropOp o.id
    | _ => s

/-- Whether the page of a line is poisoned: its frame, which is as large as the page, holds a poisoned line (R353, R363). -/
def State.pagePoisoned (s : State) (h : Home) : Bool :=
  let first := lineKey h.node (peFrame h.entry * 2 ^ 12)
  s.mem.poison.any fun k => decide (first ≤ k ∧ k < first + h.size / 64)

/-- PFL brings the whole line into L1 and L2 under its policy, or is cancelled silently: no leaf, no permission, no such frame, an untrained stack, a poisoned page
(R177, R178). -/
def State.performPfl (s : State) (o : Op) : State :=
  match o.kind with
  | .pfl pol =>
    (match s.homeFor o false with
     | (s1, .error (.bad node addr)) => s1.meetLine node addr
     | (s1, .error _) => s1
     | (s1, .ok h) =>
       let line := o.addr.toNat / 64
       if !peRD h.entry || !s1.frameExists h.node h.addr || !s1.stackTrained h.node h.addr || s1.pagePoisoned h then s1
       else if s1.unreadable h then s1.meetError h
       else
         let s2 := if l2Alloc pol then (s1.readL2 (dieOf o.core) o.asid line h 0 true (Policy.class pol line)).1 else s1
         (s2.loadLine o.core o.asid (64 * line) 64 h 0 0 pol).1).dropOp o.id
  | _ => s

/-- A thread that exits after its arrival at a network no longer counts in the phase; the arrival's release is made all the same (R333, R334). -/
def State.leaveNbar (s : State) (o : Op) (scope : Nat) : State :=
  if ((s.thread? o.tid).map (·.st)) = some .exited ∧ s.gate o ∧ !s.releaseStuck o.core o.asid scope then
    (s.fenceEffect o.tid o.seq o.core o.asid scope true false).dropOp o.id
  else s

/-- Whether the home of an access is known: its line is held, or its page has a leaf. -/
def State.located (s : State) (o : Op) : Bool :=
  match s.homeFor o false with
  | (_, .ok _) => true
  | (_, .error _) => false

/-- Operations that are performed as soon as nothing keeps them: global stores, cache words, prefetches, fences; and the other accesses of R237 meet the
colour of their line. One attempt. -/
def State.tryOp (s : State) (id : Nat) : State :=
  match s.op? id with
  | none => s
  | some o =>
    match o.kind with
    | .store .. => if s.located o then s.performGlobal o false false else s
    | .load .. => if !o.met && s.located o then s.performGlobal o false true else s
    | .stref _ => if !o.met && s.located o then s.performGlobal o false true else s
    | .atomic .. => if !o.met && !s.buffered o && (s.flushOf o).isNone && s.located o then s.performGlobal o false true else s
    | .wbl1 _ => s.performCache o
    | .invl1 _ => s.performCache o
    | .pfl _ => s.performPfl o
    | .fence .. => s.performFence o
    | .nbar scope => s.leaveNbar o scope
    | _ => s

/-- Every such operation gets its attempt, oldest first; an operation that is held back waits for a later one. -/
def State.pump (s : State) : State := (s.ops.map (·.id)).foldl State.tryOp s

end Sys2Proof.Machine
end

