-- ==== Sys2Proof/Machine/Determinism.lean ====
section
/-!
DEFINITION. Deterministic mode (R386 to R390): the ring of a kernel's cohorts on a core, its switch points, and the drain of the atomic
buffer at a flush point.
-/

namespace Sys2Proof.Machine

/-- Whether a thread takes part in choosing the frontier: runnable or trapped, and not about to park (R94, R97). -/
def Thread.live (t : Thread) : Bool := (t.st == .runnable || t.st == .frontier) && t.parks.isEmpty

/-- Whether a thread is runnable or trapped, about to park or not (R93). -/
def Thread.running (t : Thread) : Bool := t.st == .runnable || t.st == .frontier

def State.threadsOf (s : State) (cid : Nat) : List Thread := s.threads.filter (·.cid == cid)

/-- The cohorts that stand in a scheduler: formed and not retired. -/
def Cohort.stands (c : Cohort) : Bool := c.formed && !c.retired

/-- The ring of a kernel on a core (R387): by group index, then by logical cohort index. -/
def State.ringOf (s : State) (kid core : Nat) : List Nat :=
  let gs := sortBy Group.index (s.groups.filter fun g => g.kid == kid && g.core == core && g.st == .running)
  gs.flatMap fun g => (sortBy Cohort.idx (s.cohorts.filter fun c => c.gid == g.gid && c.stands)).map (·.cid)

/-- A cohort's place in the order of the ring: group index, then logical cohort index (R387). -/
def State.ringKey (s : State) (cid : Nat) : Nat :=
  match s.cohort? cid with
  | none => 0
  | some c => ((s.group? c.gid).map (·.index)).getD 0 * 2 ^ 16 + c.idx

/-- The cohort current on a core (R387), and its place in the order, which outlasts it. -/
def Kernel.currentOn (k : Kernel) (core : Nat) : Option Nat := (k.ring.find? (·.1 == core)).map (·.2.1)

def Kernel.currentKey (k : Kernel) (core : Nat) : Nat := ((k.ring.find? (·.1 == core)).map (·.2.2)).getD 0

/-- A cohort becomes current on a core. -/
def State.makeCurrent (s : State) (kid core cid : Nat) : State :=
  s.modKernel kid fun k => { k with ring := (k.ring.filter (·.1 != core)) ++ [(core, cid, s.ringKey cid)] }

/-- A barrier park. -/
def Park.barrier? : Park → Bool
  | .barrier .. => true
  | .nbar _ => true
  | _ => false

/-- Whether every runnable thread of a cohort has parked in a barrier wait (R387). -/
def State.barrierParked (s : State) (cid : Nat) : Bool :=
  let ts := (s.threadsOf cid).filter fun t => t.st != .exited
  !ts.isEmpty && ts.all fun t => t.st == .parked && !t.parks.isEmpty && t.parks.all Park.barrier?

/-- The other cohorts of the ring in ring order from the place after the current cohort's on, wrapping; a cohort that has retired keeps its place. -/
def State.ringAfter (s : State) (k : Kernel) (core : Nat) : List Nat :=
  let key := k.currentKey core
  let others := (s.ringOf k.kid core).filter fun c => k.currentOn core != some c
  others.filter (fun c => decide (key < s.ringKey c)) ++ others.filter fun c => decide (s.ringKey c ≤ key)

/-- The next cohort in ring order with a runnable or trapped thread becomes current, where there is one (R387). -/
def State.ringMove (s : State) (k : Kernel) (core : Nat) : Option State :=
  ((s.ringAfter k core).find? fun c => (s.threadsOf c).any Thread.live).map fun c => s.makeCurrent k.kid core c

/-- At a switch point by park or retirement, or where no cohort is current, the next cohort becomes current (R387). -/
def State.ringStep (s : State) (k : Kernel) (core : Nat) : State :=
  let stays := match k.currentOn core with
    | none => false
    | some cid => (s.ringOf k.kid core).contains cid && !s.barrierParked cid
  if stays then s else (s.ringMove k core).getD s

/-- The deterministic kernels of a context that have groups on a core. -/
def State.ringKernels (s : State) (asid core : Nat) : List Kernel :=
  s.kernels.filter fun k => k.lr.mode == 1 && k.asid == asid && s.groups.any fun g => g.kid == k.kid && g.core == core && g.st == .running

/-! ### The atomic buffer (R388 to R390) -/

/-- Whether a thread's kernel is in deterministic mode. -/
def State.deterministic (s : State) (gid : Nat) : Bool := ((s.kernelOf? gid).map fun k => k.lr.mode == 1).getD false

/-- The order in which a drain performs its entries (R390). -/
def State.drainKey (s : State) (o : Op) : Nat :=
  let n := s.logName o.tid
  ((n.group * 2 ^ 16 + n.cohort) * 128 + n.thread) * 2 ^ 64 + o.id

/-- The buffered atomics of a kernel on the cores selected. -/
def State.drained (s : State) (kid : Nat) (cores : Nat → Bool) : List Op :=
  sortBy s.drainKey (s.ops.filter fun o => cores o.core && s.buffered o && ((s.kernelOf? o.gid).map (·.kid)) == some kid)

/-- A store of the thread that a drain waits for (R390). -/
def OpKind.isStore : OpKind → Bool
  | .store .. => true
  | .storeS .. => true
  | .stpl .. => true
  | .mwr .. => true
  | .stref .. => true
  | .colr .. => true
  | k => k.isBinit

/-- Loads issued before the flush point are performed before it, and so are stores (R390), as far as nothing keeps them. -/
def State.performEarlier (s : State) (id : Nat) : State :=
  match s.op? id with
  | none => s
  | some o => match o.kind with
    | .load .. => s.performGlobal o false false
    | .store .. => s.performGlobal o false false
    | .stref _ => s.performGlobal o false false
    | .loadS .. => s.performScratchLoad o
    | .mrd _ => s.performScratchLoad o
    | .storeS .. => s.performScratchStore o
    | .stpl .. => s.performScratchStore o
    | .mwr v => s.performMwr o v
    | .atomic .. => s
    | .atomicS .. => s
    | _ => s.tryOp id

/-- Whether a drained entry waits (R390): for an entry before it at its location; for a store that a thread drained at the same flush point issued before that point;
for a load of the kernel from the location that was issued before it. -/
def State.entryWaits (s : State) (k : Kernel) (o : Op) (m : Nat) : Bool :=
  let before := (k.drain.takeWhile (·.1 != o.id)).map (·.1)
  let tids := (s.ops.filter fun p => k.drain.contains (p.id, m)).map (·.tid)
  s.ops.any fun p => p.waiting &&
    ((before.contains p.id && s.sameLocation p o)
     || (decide (p.seq < m) && p.kind.isStore && tids.contains p.tid)
     || (decide (p.seq < m) && p.kind.classes == 1 && s.sameLocation p o && ((s.kernelOf? p.gid).map (·.kid)) == some k.kid))

/-- A drained entry is performed, when it need not wait, and its thread receives the old value (R172, R390). The stores that the kernel's threads have performed are at
their dies' L2s by then. -/
def State.performEntry (s : State) (id : Nat) : State :=
  match s.op? id with
  | none => s
  | some o => match s.kernelOf? o.gid, s.flushOf o with
    | some k, some m =>
      if s.entryWaits k o m then s
      else
        let s0 := k.ranOn.foldl (fun s c => s.cleanL1 c (·.asid == k.asid)) s
        let s1 := match o.kind with
          | .atomicS .. => s0.performAtomicS o
          | _ => s0.performAtomicG o false
        match s1.op? id with
        | none => s1
        | some o1 => s1.deliverAtomic o1
    | _, _ => s

/-- A flush point drains a kernel's entries on the cores selected (R389, R390): they leave the buffers in their order, and are performed as far as nothing keeps
them; what waits is performed later, in the same order at each location. -/
def State.drainAtomics (s : State) (kid : Nat) (cores : Nat → Bool) : State :=
  let ids := (s.drained kid cores).map (·.id)
  if ids.isEmpty then s
  else
    let s1 : State := { s with
      cores := s.cores.map fun c => { c with atomBuf := c.atomBuf.filter fun i => !ids.contains i }
      fresh := s.fresh + 1 }
    let s2 := s1.modKernel kid fun k =>
      { k with drain := (k.drain.filter fun x => (s.op? x.1).isSome) ++ ids.map fun i => (i, s.fresh) }
    let early := (s2.ops.filter fun o => ((s2.kernelOf? o.gid).map (·.kid)) == some kid).map (·.id)
    ids.foldl State.performEntry (early.foldl State.performEarlier s2)

/-- The drain at a core's flush point. -/
def State.drainOn (s : State) (kid core : Nat) : State := s.drainAtomics kid (· == core)

end Sys2Proof.Machine
end

