-- ==== Sys2Proof/Machine/Sched.lean ====
section
/-!
DEFINITION. Clauses: fetching a header and a clause (R70 to R73, R105), parking and traps at a boundary (R97, R340), the scheduler
(R101 to R103, R74, R387), starting a clause (R94) and ending it (R95).
-/

namespace Sys2Proof.Machine

/-! ### Fetching (R70, R73, R89, R105, R358) -/

/-- What fetching one instruction word finds; `hole` a frame that no memory has (R12, R13, R352). -/
inductive Fetched where
  | word (w : Word32)
  | protection
  | poisoned
  | absent (level : Nat) (mf : Bool)
  | hole (node addr : Nat)
  | stall
  deriving DecidableEq, Repr

/-- The word at an address, as the core's die reads it, on a page with execute permission. -/
def State.fetchWord (s : State) (core asid va : Nat) : Fetched :=
  if 2 ^ 52 ≤ va then .protection
  else
    match s.homeWith (dieOf core) asid va peEX with
    | .error (.absent l mf) => .absent l mf
    | .error (.bad _ _) => .poisoned
    | .error .wait => .stall
    | .ok h =>
      if !peEX h.entry then .protection
      else if !s.frameExists h.node h.addr then .hole h.node h.addr
      else if !s.stackTrained h.node h.addr then .stall
      else if s.unreadable h && !s.copyServes (dieOf core) asid va 4 0 h then .poisoned
      else .word (BitVec.ofNat 32 (lineSlice (s.readAt (dieOf core) asid (va / 64) h 2 0).data (va % 64) 4))

/-- A die's agent whose accesses ask for a permission met an uncorrectable error at an address (R363). -/
def State.meetErrorAt (s : State) (die asid va : Nat) (allows : Word → Bool) : State :=
  match s.homeWith die asid va allows with
  | .error (.bad node addr) => s.meetLine node addr
  | .error _ => s
  | .ok h => s.meetError h

/-- Fetching brings the lines from `line` on into the die's L2 (R168, R361). -/
def State.fetchLines (s : State) (die asid line : Nat) : Nat → State
  | 0 => s
  | n + 1 =>
    let s1 := match s.homeWith die asid (64 * line) peEX with
      | .error _ => s
      | .ok h => (s.readL2 die asid line h 0 true 1).1
    s1.fetchLines die asid (line + 1) n

/-- The fields of a well-formed clause header (R72). -/
structure Hdr where
  wait : Nat
  a : Nat
  b : Nat
  y : Bool
  len : Nat
  deriving DecidableEq, Repr

def Hdr.ofWord (w : Word32) : Option Hdr :=
  let n := w.toNat
  let a := n / 2 ^ 9 % 16
  let b := n / 2 ^ 5 % 16
  if n / 2 ^ 25 = 0x3F ∧ a < 12 ∧ (b < 12 ∨ b = 15) ∧ n / 8 % 2 = 0 then
    some { wait := n / 2 ^ 13 % 2 ^ 12, a := a, b := b, y := n / 16 % 2 == 1, len := n % 8 }
  else none

/-- What stands at a cohort's frontier. -/
inductive Head where
  | idle
  | stall
  | bad (x : Word) (code : Nat) (addr : Word)
  | absent (x : Word) (level : Nat) (mf : Bool)
  | hole (node addr : Nat)
  | hdr (x : Word) (h : Hdr)
  deriving DecidableEq, Repr

/-- The frontier: the lowest program counter of the cohort's runnable or trapped threads (R94). -/
def State.frontier (s : State) (cid : Nat) : Option Word :=
  (minBy (fun t => t.pc.toNat) ((s.threadsOf cid).filter Thread.live)).map (·.pc)

/-- The lowest program counter of those threads and of the ones about to park, which have not parked yet (R97). -/
def State.frontierAll (s : State) (cid : Nat) : Option Word :=
  (minBy (fun t => t.pc.toNat) ((s.threadsOf cid).filter Thread.running)).map (·.pc)

/-- The check of a clause start at a header (R73, R89, R105). Of an address that breaks both rules of R105, PROTECTION is reported (log entry 33). -/
def State.headAt (s : State) (core asid : Nat) : Option Word → Head
  | none => .idle
  | some x =>
    if 2 ^ 52 ≤ x.toNat then .bad x tcProtection x
    else if x.toNat % 12 != 0 then .bad x tcIllegal 0
    else
      match s.fetchWord core asid x.toNat with
      | .protection => .bad x tcProtection x
      | .poisoned => .bad x tcUncorrectable x
      | .absent l mf => .absent x l mf
      | .hole node addr => .hole node addr
      | .stall => .stall
      | .word w => match Hdr.ofWord w with
        | none => .bad x tcIllegal 0
        | some h => .hdr x h

/-- What stands at a cohort's frontier. -/
def State.head (s : State) (core asid cid : Nat) : Head := s.headAt core asid (s.frontier cid)

/-- What stands where a cohort would start its next clause, before the threads about to park have parked. -/
def State.headAll (s : State) (core asid cid : Nat) : Head := s.headAt core asid (s.frontierAll cid)

/-- The words of a clause, or what stops its start: the clause whose words leave executable memory (R89). -/
def State.fetchClause (s : State) (core asid x : Nat) : Nat → Except (Nat × Fetched) (List Word32)
  | 0 => .ok []
  | n + 1 =>
    match s.fetchWord core asid x with
    | .word w => (s.fetchClause core asid (x + 4) n).map (w :: ·)
    | f => .error (x, f)

/-- Conditions 2 and 3 of R73. -/
def Cohort.startOk (c : Cohort) (wait a b : Nat) : Bool :=
  let f (n : Nat) : Nat := c.flags[n]?.getD 0
  ((List.range 12).all fun n => wait / 2 ^ n % 2 == 0 || f n == 0)
  && decide (f a + (if a = b then 2 else 1) ≤ 15)
  && (b == 15 || decide (f b + (if a = b then 2 else 1) ≤ 15))

/-- Whether the start at a head is held by a pending wait (R73). A header that cannot be fetched yet, because its stack is not trained or the host port is down (R377,
R378), is taken as a pending wait too: the cohort may leave the active set and is not ready, and its threads about to park do so at once (log entry 76). -/
def State.heldAt (s : State) (cid : Nat) : Head → Bool
  | .hdr _ h => match s.cohort? cid with
    | none => true
    | some c => !c.startOk h.wait h.a h.b
  | .stall => true
  | _ => false

/-- Whether the start is a yield point that has not been taken for it (R74, R109). -/
def State.yieldsAt (s : State) (cid : Nat) : Head → Option Word
  | .hdr x h => match s.cohort? cid with
    | none => none
    | some c => if (h.y || c.yieldNext) && c.yieldedAt != some x then some x else none
  | _ => none

/-! ### Boundaries (R97, R340) -/

/-- The flag uses of the operations a thread parks on end for it (R77, R97). -/
def State.parkUses (s : State) (t : Thread) : State := t.parks.foldl (fun s p => s.parkUse t.tid p) s

/-- Park-pending threads of a cohort park, with the header they would have started (R97). -/
def State.parkAll (s : State) (cid : Nat) : State :=
  let ts := (s.threadsOf cid).filter fun t => t.st == .runnable && !t.parks.isEmpty
  ts.foldl (fun s t => (s.parkUses t).modThread t.tid fun t => { t with st := .parked }) s

/-- A cohort's state is settled before its frontier is chosen: traps that are due, then parking (R97, R340). -/
def State.settle (s : State) (cid : Nat) : State := (s.settleTraps cid).parkAll cid

/-- Where a cohort's next clause is held by a pending wait, its threads that are about to park do so at once (R97). -/
def State.settleHeld (s : State) (core asid cid : Nat) : State :=
  if s.heldAt cid (s.headAll core asid cid) then s.parkAll cid else s

/-! ### The scheduler (R101 to R103, R387) -/

/-- The slot of the context that runs and may start clauses (R335, R337). -/
def Core.running? (k : Core) : Option Slot := k.slots.find? fun x => x.st == .running

def State.modSlot (s : State) (core asid : Nat) (f : Slot → Slot) : State :=
  s.modCore core fun k => { k with slots := k.slots.map fun x => if x.asid = asid then f x else x }

def State.slotOf? (s : State) (core asid : Nat) : Option Slot := (s.coreAt core).slots.find? (·.asid == asid)

/-- Whether a pending cohort is ready (R103). -/
def State.isReady (s : State) (core asid cid : Nat) : Bool :=
  let h := s.headAll core asid cid
  h != .idle && !s.heldAt cid h

/-- The queue of ready cohorts keeps the order in which they became ready (R103): it is brought up to date after every step. R103 gives no order to cohorts that
become ready at one moment, such as those of a group at its start: here they queue in the order in which they entered the pending set (log entry 66). -/
def State.refreshReady (s : State) (core asid : Nat) : State :=
  s.modSlot core asid fun x =>
    let still := x.ready.filter fun c => x.pending.contains c && s.isReady core asid c
    { x with ready := still ++ x.pending.filter fun c => !still.contains c && s.isReady core asid c }

/-- The ready queues of every context slot after a step (R103). -/
def State.noteReady (s : State) : State :=
  s.cores.foldl (fun s k => k.slots.foldl (fun s x => s.refreshReady k.id x.asid) s) s

/-- A cohort leaves its place of the active set for the pending set (R102). -/
def Slot.leave (x : Slot) (place cid : Nat) : Slot :=
  { x with active := x.active.setIfInBounds place none, pending := x.pending ++ [cid] }

/-- The head of the ready cohorts begins the swap into a place, which takes 4 cycles (R102). -/
def Slot.swapIn (x : Slot) (place now : Nat) : Slot :=
  match x.ready with
  | [] => x
  | c :: rest => { x with ready := rest, pending := x.pending.filter (· != c), swapping := x.swapping ++ [(place, c, now + 4)] }

/-- A retired cohort's place is free at the next clause boundary (R102), also where the cohort forms again before it: until then the place holds a number that names
no cohort. -/
def Slot.vacate (x : Slot) (cid unused : Nat) : Slot := { x with active := x.active.map fun p => if p = some cid then some unused else p }

/-- The head of the ready cohorts enters a place without a swap (R103). -/
def Slot.enter (x : Slot) (place : Nat) : Slot :=
  match x.ready with
  | [] => x
  | c :: rest => { x with ready := rest, pending := x.pending.filter (· != c), active := x.active.setIfInBounds place (some c) }

/-- The cohort in a place leaves it where R102 says so, and the head of the ready cohorts takes the place. A cohort that leaves may be ready at once, and then
waits in the pending set for the places that are reviewed after. -/
def State.reviewPlace (s0 : State) (core asid : Nat) (place : Nat) : State :=
  let s := s0.refreshReady core asid
  match s.slotOf? core asid with
  | none => s
  | some x =>
    match x.active[place]?.getD none with
    | none => s
    | some cid =>
      let gone := (match s.cohort? cid with
        | none => true
        | some c => !c.stands)
      let h := s.headAll core asid cid
      let y := s.yieldsAt cid h
      let now := (s.coreAt core).clock
      let count := ((s.cohort? cid).map (·.waitCount)).getD 0
      if gone then s.modSlot core asid fun x => ({ x with active := x.active.setIfInBounds place none }).swapIn place now
      else if h == .idle || (!x.ready.isEmpty && (s.heldAt cid h || y.isSome || decide (256 ≤ count))) then
        ((s.modSlot core asid fun x => (x.leave place cid).swapIn place now).modCohort cid fun c =>
          { c with waitCount := 0, yieldedAt := if y.isSome then y else c.yieldedAt })
      else s

/-- A free place that no swap is filling takes the head of the ready cohorts (R103). -/
def State.fillPlace (s : State) (core asid : Nat) (place : Nat) : State :=
  s.modSlot core asid fun x =>
    if (x.active[place]?.getD none).isNone && x.swapping.all (·.1 != place) then x.enter place else x

/-- A current cohort of a deterministic kernel at a yield point switches (R387); a start that waits on a flag marked by a buffered atomic
is a flush point (R389). -/
def State.reviewRing (s : State) (core asid : Nat) (k : Kernel) : State :=
  let s1 := s.ringStep k core
  match ((s1.kernel? k.kid).getD k).currentOn core with
  | none => s1
  | some cid =>
    let h := s1.headAll core asid cid
    let s2 := match s1.yieldsAt cid h with
      | none => s1
      | some x => match s1.ringMove ((s1.kernel? k.kid).getD k) core with
        | none => s1
        | some s2 => s2.modCohort cid fun c => { c with yieldedAt := some x }
    match h with
    | .hdr _ hd =>
      let waits (f : Nat) : Bool := hd.wait / 2 ^ f % 2 == 1
      if s2.uses.any fun u => u.cid == cid && waits u.flag && s2.ops.any fun o => o.use == some u.id && s2.buffered o then
        s2.drainOn k.kid core
      else s2
    | _ => s2

/-- The cohorts of the running context on a core. -/
def State.cohortsOf (s : State) (core asid : Nat) : List Nat :=
  (s.cohorts.filter fun c => c.core == core && c.stands && s.asidOf c.gid == asid).map (·.cid)

/-- The cohorts of the context that runs on a core, but for the one that has a clause in issue, park where they are held (R97). -/
def State.settleCore (s : State) (core : Nat) : State :=
  match (s.coreAt core).running? with
  | none => s
  | some x =>
    ((s.cohortsOf core x.asid).filter fun c => s.issues.all (fun i => i.cid != c) &&
      (s.threadsOf c).any fun t => t.st == .runnable && !t.parks.isEmpty).foldl (fun s c => s.settleHeld core x.asid c) s

/-- A clause boundary of a core: the cohorts of the running context park where they are held; then ready cohorts enter free places (R103), and the active set
and the rings are reviewed. R102 and R103 do not say which of several free places a ready cohort enters, nor which of several cohorts that may leave at one
boundary leaves first: here places are taken and reviewed by their number, from 0 to 7 (log entry 66). -/
def State.schedule (s : State) (core : Nat) : State :=
  match (s.coreAt core).running? with
  | none => s
  | some x =>
    let a := x.asid
    let s1 := s.settleCore core
    let s2 := (s1.ringKernels a core).foldl (fun s k => s.reviewRing core a k) s1
    let s3 := s2.refreshReady core a
    let s4 := (List.range 8).foldl (fun s p => s.fillPlace core a p) s3
    (List.range 8).foldl (fun s p => s.reviewPlace core a p) s4

/-- The cohorts that may issue, with their places: the active set from the place after the one that issued last, then the current cohorts
of the rings (R101, R387). -/
def State.candidates (s : State) (core : Nat) (x : Slot) : List (Nat × Nat) :=
  let act := (List.range 8).filterMap fun i =>
    let p := (x.lastActive + 1 + i) % 8
    (x.active[p]?.getD none).map fun c => (p, c)
  act ++ (s.ringKernels x.asid core).filterMap fun k => (k.currentOn core).map fun c => (x.lastActive, c)

/-- Whether the fixed-latency results of a cohort have landed by the core's clock (condition 4 of R73). -/
def State.landed (s : State) (core cid : Nat) : Bool :=
  (s.threadsOf cid).all fun t => t.lands.all fun l => decide (l.due ≤ (s.coreAt core).clock)

/-- A cohort whose next clause starts, with its context, its place and its head. -/
structure Pick where
  asid : Nat
  place : Nat
  cid : Nat
  head : Head
  deriving DecidableEq, Repr

/-- The first of the candidates that can start a clause (R73, R101): one whose next clause may start is selected, its state is settled, and it starts the
clause at its frontier unless that is held then (R94, R97). -/
def State.pickFrom (s : State) (core asid : Nat) : List (Nat × Nat) → State × Option Pick
  | [] => (s, none)
  | c :: rest =>
    let h := s.headAll core asid c.2
    if h == .idle || s.heldAt c.2 h || !s.landed core c.2 then s.pickFrom core asid rest
    else
      let s1 := s.settle c.2
      let h1 := s1.head core asid c.2
      if h1 == .idle || s1.heldAt c.2 h1 then s1.pickFrom core asid rest
      else (s1, some { asid := asid, place := c.1, cid := c.2, head := h1 })

/-- The core selects the cohort whose next clause starts (R101). -/
def State.pick (s : State) (core : Nat) : State × Option Pick :=
  if (s.coreAt core).exchange.isSome then (s, none)
  else
    match (s.coreAt core).running? with
    | none => (s, none)
    | some x => s.pickFrom core x.asid (s.candidates core x)

/-! ### Starting a clause -/

/-- Whether a thread issues the clause at x: it stands at the frontier (R94). -/
def standsAt (cid : Nat) (x : Word) (t : Thread) : Bool := t.cid == cid && t.live && t.pc == x

/-- A fault of a clause start, for the threads that stand there (R73, R105, R341). -/
def State.startFault (s : State) (cid : Nat) (x : Word) (code : Nat) (addr : Word) : State :=
  let s1 : State := { s with
    threads := s.threads.map fun t =>
      if standsAt cid x t then
        { t with due := t.due ++ [{ seq := s.fresh, code := codeWord t code false, addr := addr, pc := x, resume := some x }] }
      else t
    fresh := s.fresh + 1 }
  s1.settleTraps cid

/-- A page fault of instruction fetch: the threads that stand there park at the header (R358, R359). -/
def State.startAbsent (s : State) (core asid cid : Nat) (x : Word) (va : Nat) (level : Nat) (mf : Bool) : State :=
  let ts := sortBy Thread.idx (s.threads.filter (standsAt cid x))
  let os : List Op := (withIdx (s.fresh + 1) ts).map fun y =>
    ({
      id := y.1, tid := y.2.tid, gid := y.2.gid, core := core, asid := asid, pc := x, hdr := x, use := none, seq := s.fresh,
      addr := BitVec.ofNat 64 va, kind := .fetch, st := .queued, hseq := 0, acq := 0, acqC := 0, dep := 0, grpSeq := s.fresh, lost := 0,
      met := false, depth := 0, rewalk := false } : Op)
  let s1 : State := { s with ops := s.ops ++ os, fresh := s.fresh + 1 + os.length }
  match os.head? with
  | none => s1
  | some o => (s1.pageFault o va level mf).parkAll cid

/-- A thread begins a clause: earlier results have landed, the marks of a clause are clear (R73, R93). -/
def Thread.begin (now seq : Nat) (t : Thread) : Thread :=
  { t.landUpTo now with st := .frontier, since := seq, stopped := false, next := none, exiting := false, rft := false, stickyNow := 0, srPend := [] }

/-- The clause starts (R73, R94, R102): its threads become the frontier and the core has it in issue. -/
def State.begin (s : State) (core : Nat) (p : Pick) (x : Word) (words : List Word32) (a b : Nat) : State :=
  let now := (s.coreAt core).clock
  let waiting := ((s.slotOf? core p.asid).map fun y => y.pending.any fun c => s.isReady core p.asid c).getD false
  let iss : Issue :=
    { core := core, cid := p.cid, hdr := x, words := words, aFlag := a, bFlag := b, pos := 1, t0 := now, grp := 1, flagged := 0,
      tids := (s.threads.filter (standsAt p.cid x)).map (·.tid), tagsRd := 0, stageRd := 0 }
  let s1 : State := { s with
    threads := s.threads.map fun t => if standsAt p.cid x t then t.begin now s.fresh else t
    issues := (s.issues.filter fun i => i.core != core) ++ [iss] }
  let s2 := s1.modCohort p.cid fun c =>
    { c with waitCount := if waiting then min 256 (c.waitCount + 1) else 0, yieldNext := false, yieldedAt := none }
  s2.modSlot core p.asid fun y => { y with lastActive := p.place }

/-- A clause of `len + 1` packets starts at the picked cohort's frontier, or its fetch stops it (R73, R89, R358). Where its words leave executable memory, the
trap's address is that of the first word that cannot be fetched (log entry 33). -/
def State.startClause (s : State) (core : Nat) (p : Pick) (x : Word) (a b len : Nat) : State :=
  match s.fetchClause core p.asid x.toNat (3 * (len + 1)) with
  | .ok ws =>
    (s.fetchLines (dieOf core) p.asid (x.toNat / 64) ((x.toNat + 12 * len + 11) / 64 - x.toNat / 64 + 1)).begin core p x ws a b
  | .error (va, f) =>
    match f with
    | .protection => s.startFault p.cid x tcProtection (BitVec.ofNat 64 va)
    | .poisoned => (s.meetErrorAt (dieOf core) p.asid va peEX).startFault p.cid x tcUncorrectable (BitVec.ofNat 64 va)
    | .absent l mf => s.startAbsent core p.asid p.cid x va l mf
    | .hole .. => s
    | .stall => s
    | .word _ => s

/-! ### Ending a clause (R95, R80, R108, R346) -/

/-- The special registers a thread wrote in the clause take their values for later clauses (R80, R133, R341). -/
def Thread.applySr (t : Thread) : Thread :=
  let r := t.srPend.foldl (fun t x =>
    if x.1 = 13 then { t with fpc := (x.2 &&& fpcMask) ||| BitVec.ofNat 64 (t.stickyNow % 32 * 2 ^ 16) }
    else { t with trap := { t.trap with pc := x.2, resume := x.2 } }) t
  { r with srPend := [] }

/-- A thread leaves the clause for its next address (R95). -/
def Thread.leaveClause (fall : Word) (t : Thread) : Thread :=
  { t.applySr with pc := t.next.getD fall, st := .runnable, next := none, stopped := false }

/-- Faults due for a thread that has exited are kernel errors (R344). -/
def State.dropDue (s : State) (tid : Nat) : State :=
  match s.thread? tid with
  | none => s
  | some t =>
    (t.due.foldl (fun s d => s.kernelError t.gid (d.code.toNat % 256) d.pc) s).modThread tid fun t => { t with due := [] }

/-- The clause in issue ends (R95): next addresses, exits, traps, returns from traps, and the flush point of DFLUSH. -/
def State.finishClause (s : State) (iss : Issue) : State :=
  let ts := s.threads.filter fun t => iss.tids.contains t.tid
  let leaving := (ts.filter fun t => t.exiting && !t.stopped).map (·.tid)
  let returning := (ts.filter fun t => t.rft).map fun t => (t.tid, t.trap.resume)
  let s1 : State := { s with
    threads := s.threads.map fun t => if iss.tids.contains t.tid then t.leaveClause iss.fall else t
    issues := s.issues.filter fun i => i.core != iss.core }
  let child (o : Op) : Op :=
    match o.kind with
    | .bisect d k j lo hi f none =>
      if o.hdr == iss.hdr && iss.tids.contains o.tid then
        { o with kind := .bisect d k j lo hi f (some (((s1.thread? o.tid).map (·.pc)).getD iss.fall)) }
      else o
    | _ => o
  let s2 : State := { s1 with ops := s1.ops.map child }
  let s3 := leaving.foldl (fun s i => (s.exitThread i).dropDue i) s2
  let s4 := s3.settleTraps iss.cid
  let back (t : Thread) : Thread :=
    match returning.find? (·.1 == t.tid) with
    | some r => if t.rft && t.st != .exited then t.leaveTrap r.2 else t
    | none => t
  let s5 : State := { s4 with threads := s4.threads.map back }
  let s6 := s5.setClock iss.core iss.t0
  match s6.cohort? iss.cid with
  | none => s6
  | some c =>
    if c.flushEnd then
      let s7 := s6.modCohort iss.cid fun c => { c with flushEnd := false }
      match s7.kernelOf? c.gid with
      | none => s7
      | some k => if k.lr.mode = 1 then s7.drainOn k.kid iss.core else s7
    else s6

/-! ### Issuing (R75, R80, R89) -/

/-- The group's view of the tag bitmap (R280). -/
def State.tagView (s : State) (gid : Nat) : Word :=
  match s.group? gid, s.kernelOf? gid with
  | some g, some k =>
    let c := s.coreAt g.core
    BitVec.ofNat 64 ((List.range k.lr.tags).foldl (fun m i =>
      if (c.tags[g.tagBase + i]?.getD Tag.clear).ready then m ||| 2 ^ i else m) 0)
  | _, _ => 0

/-- The colours a thread holds, their acquires sent at least, as `sr.held` shows them (R119, R240). -/
def Thread.heldMask (t : Thread) : Word :=
  BitVec.ofNat 64 ((t.held.filter fun h => h.st != .waiting).foldl (fun m h => m ||| 2 ^ h.colour) 0)

/-- The stage of a group's ring, as `sr.stage` shows it (R119, R293): 0 where none is installed. -/
def State.stageOf (s : State) (gid : Nat) : Word := BitVec.ofNat 64 (((s.group? gid).bind (·.ring)).getD 0)

/-- At the start of a group the results due by each thread's pass land (R80). What its words read of the store hash, the held colours, the tags and the ring is
as it stands then, before any of them takes effect (R71). -/
def State.landGroup (s : State) (iss : Issue) : State :=
  let gid := ((s.cohort? iss.cid).map (·.gid)).getD 0
  { s.modIssue iss.core (fun i => { i with tagsRd := s.tagView gid, stageRd := s.stageOf gid }) with
    threads := s.threads.map fun t =>
      if t.cid = iss.cid then { t.landUpTo (iss.cycle t) with hashRd := t.hash, heldRd := t.heldMask } else t }

/-- The passes of the cohort in issue (R90). -/
def State.passesOf (s : State) (iss : Issue) : Nat := ((s.cohort? iss.cid).map (·.passes)).getD 1

/-- The clause moves past the words up to place `q`, the last word of their group or not; at the end of the clause it ends. Padding NOPs are groups and take
their issue slots (R75), against the cycles that R348 prints for events 6 to 13 (log entry 65). -/
def State.moveTo (s : State) (core q : Nat) (groupEnds : Bool) : State :=
  match s.issues.find? (·.core == core) with
  | none => s
  | some iss =>
    let n := s.passesOf iss
    let iss' := { iss with pos := q, t0 := if groupEnds then iss.t0 + n else iss.t0, grp := if groupEnds then q else iss.grp }
    let s1 : State := { s.modIssue core (fun _ => iss') with fresh := s.fresh + 1 }
    if iss.words.length ≤ q then s1.finishClause iss' else s1

/-- An ILLEGAL group: every thread that issues it faults at the offending word, and none of its words has an effect (R89). -/
def State.illegalGroup (s : State) (iss : Issue) (p : Nat) : State :=
  { s with threads := s.threads.map fun t =>
      if issuesIt iss t then t.fault { iss with pos := p } s.fresh (Flt.mk2 tcIllegal 0) else t }

end Sys2Proof.Machine
end

