-- ==== Sys2Proof/Machine/MemWords.lean ====
section
/-!
DEFINITION. Loads and stores (R157 to R170), fences, the cache group (R174 to R180) and the events that perform them: one meaning for
each, over shared operations.
-/

namespace Sys2Proof.Machine

/-! ### Addresses and checks at issue (R157 to R160, R165, R168) -/

/-- The policy operand: none is the default policy of g0 (R168). -/
def polOf (iss : Issue) (t : Thread) (p : BitVec 6) : Option Word := if p = 0 then none else some (srcG iss t .zero p)

def polIllegal (x : Option Word) : Bool := (x.map policyBad).getD false

/-- A global access of n bytes: the checks at issue in the order of R160, then the operation. -/
def globalReq (n : Nat) (b p : BitVec 6) (mk : Option Word → OpKind) (stored : Option (Nat × Nat)) (iss : Issue) (t : Thread) :
    Except Flt OpReq :=
  let pol := polOf iss t p
  let a := srcG iss t .zero b
  if polIllegal pol then .error (.mk2 tcIllegal 0)
  else if a.toNat % n != 0 then .error (.mk2 tcMisaligned a)
  else if 2 ^ 52 ≤ a.toNat then .error (.mk2 tcProtection a)
  else .ok { addr := a, kind := mk pol, stored := stored }

/-- A scratch access of n bytes at base + index × size (R158, R165). -/
def scratchReq (s : State) (n : Nat) (b i : BitVec 6) (k : OpKind) (stored : Option (Nat × Nat)) (iss : Issue) (t : Thread) :
    Except Flt OpReq :=
  let a := srcG iss t .zero b + srcG iss t .zero i * BitVec.ofNat 64 n
  if a.toNat % n != 0 then .error (.mk2 tcMisaligned a)
  else match s.group? t.gid with
    | none => .error (.mk2 tcScratch a)
    | some grp => if s.scratchOk grp a n then .ok { addr := a, kind := k, stored := stored } else .error (.mk2 tcScratch a)

/-- A flagged global load (R164). -/
def ldgWord (n : Nat) (dst : LoadDst) (g : BitVec 4) (b p : BitVec 6) (s : State) : Out :=
  opWord g true false [.g b.toNat, .g p.toNat] (fun iss t => globalReq n b p (fun pol => .load dst n pol) none iss t) s

/-- A flagged scratch load (R164, R165). -/
def ldsWord (n : Nat) (dst : LoadDst) (g : BitVec 4) (b i : BitVec 6) (s : State) : Out :=
  opWord g true false [.g b.toNat, .g i.toNat] (fun iss t => scratchReq s n b i (.loadS dst n) none iss t) s

/-- The data of a store from general registers, n bytes of it: a Q store of g0 stores zeros (R164). -/
def storeG (n : Nat) (d : BitVec 6) (iss : Issue) (t : Thread) : Nat :=
  if n = 16 then (if d = 0 then 0 else (t.gr d.toNat).toNat + (t.gr (d.toNat + 1)).toNat * 2 ^ 64)
  else (srcG iss t .sign d).toNat % 2 ^ (8 * n)

/-- The data of a store from floating-point registers (R164). -/
def storeF (n : Nat) (d : BitVec 6) (_ : Issue) (t : Thread) : Nat :=
  if n = 16 then (t.fr d.toNat).toNat + (t.fr (d.toNat + 1)).toNat * 2 ^ 64 else (t.fr d.toNat).toNat % 2 ^ (8 * n)

/-- A global store: it takes its place in the store hash at issue and is performed as soon as nothing keeps it (R161, R167, R392). -/
def stgWord (n : Nat) (data : Issue → Thread → Nat) (g : BitVec 4) (srcs : List Reg) (b p : BitVec 6) (s : State) : Out :=
  .next (s.startOps g false true (.g b.toNat :: .g p.toNat :: srcs)
    (fun iss t => globalReq n b p (fun pol => .store (data iss t) n pol false) (some (n, data iss t)) iss t)).pump

/-- A scratch store reaches its bank later (R167, R316). -/
def stsWord (n : Nat) (data : Issue → Thread → Nat) (g : BitVec 4) (srcs : List Reg) (b i : BitVec 6) (s : State) : Out :=
  opWord g false true (.g b.toNat :: .g i.toNat :: srcs)
    (fun iss t => scratchReq s n b i (.storeS (data iss t) n) (some (n, data iss t)) iss t) s

/-! ### Loads (R164 to R166) -/

/-- LDG_B (R164). -/
def execLdgB (g : BitVec 4) (d b p : BitVec 6) (s : State) : Out :=
  ldgWord 1 (.gS d.toNat 1) g b p s

/-- LDG_BU (R164). -/
def execLdgBu (g : BitVec 4) (d b p : BitVec 6) (s : State) : Out :=
  ldgWord 1 (.gU d.toNat 1) g b p s

/-- LDG_H (R164). -/
def execLdgH (g : BitVec 4) (d b p : BitVec 6) (s : State) : Out :=
  ldgWord 2 (.gS d.toNat 2) g b p s

/-- LDG_HU (R164). -/
def execLdgHu (g : BitVec 4) (d b p : BitVec 6) (s : State) : Out :=
  ldgWord 2 (.gU d.toNat 2) g b p s

/-- LDG_W (R164). -/
def execLdgW (g : BitVec 4) (d b p : BitVec 6) (s : State) : Out :=
  ldgWord 4 (.gS d.toNat 4) g b p s

/-- LDG_WU (R164). -/
def execLdgWu (g : BitVec 4) (d b p : BitVec 6) (s : State) : Out :=
  ldgWord 4 (.gU d.toNat 4) g b p s

/-- LDG_D (R164). -/
def execLdgD (g : BitVec 4) (d b p : BitVec 6) (s : State) : Out :=
  ldgWord 8 (.gU d.toNat 8) g b p s

/-- LDG_Q (R164). -/
def execLdgQ (g : BitVec 4) (d b p : BitVec 6) (s : State) : Out :=
  ldgWord 16 (.gQ d.toNat) g b p s

/-- LDS_B (R164). -/
def execLdsB (g : BitVec 4) (d b i : BitVec 6) (s : State) : Out :=
  ldsWord 1 (.gS d.toNat 1) g b i s

/-- LDS_BU (R164). -/
def execLdsBu (g : BitVec 4) (d b i : BitVec 6) (s : State) : Out :=
  ldsWord 1 (.gU d.toNat 1) g b i s

/-- LDS_H (R164). -/
def execLdsH (g : BitVec 4) (d b i : BitVec 6) (s : State) : Out :=
  ldsWord 2 (.gS d.toNat 2) g b i s

/-- LDS_HU (R164). -/
def execLdsHu (g : BitVec 4) (d b i : BitVec 6) (s : State) : Out :=
  ldsWord 2 (.gU d.toNat 2) g b i s

/-- LDS_W (R164). -/
def execLdsW (g : BitVec 4) (d b i : BitVec 6) (s : State) : Out :=
  ldsWord 4 (.gS d.toNat 4) g b i s

/-- LDS_WU (R164). -/
def execLdsWu (g : BitVec 4) (d b i : BitVec 6) (s : State) : Out :=
  ldsWord 4 (.gU d.toNat 4) g b i s

/-- LDS_D (R164). -/
def execLdsD (g : BitVec 4) (d b i : BitVec 6) (s : State) : Out :=
  ldsWord 8 (.gU d.toNat 8) g b i s

/-- LDS_Q (R164). -/
def execLdsQ (g : BitVec 4) (d b i : BitVec 6) (s : State) : Out :=
  ldsWord 16 (.gQ d.toNat) g b i s

/-- LDF_G_S (R164). -/
def execLdfGS (g : BitVec 4) (d b p : BitVec 6) (s : State) : Out :=
  ldgWord 4 (.fS d.toNat) g b p s

/-- LDF_G_D (R164). -/
def execLdfGD (g : BitVec 4) (d b p : BitVec 6) (s : State) : Out :=
  ldgWord 8 (.fD d.toNat) g b p s

/-- LDF_G_I (R166). -/
def execLdfGI (g : BitVec 4) (d b p : BitVec 6) (s : State) : Out :=
  ldgWord 8 (.fI d.toNat) g b p s

/-- LDF_G_J (R166). -/
def execLdfGJ (g : BitVec 4) (d b p : BitVec 6) (s : State) : Out :=
  ldgWord 16 (.fJ d.toNat) g b p s

/-- LDF_L_S (R164). -/
def execLdfLS (g : BitVec 4) (d b i : BitVec 6) (s : State) : Out :=
  ldsWord 4 (.fS d.toNat) g b i s

/-- LDF_L_D (R164). -/
def execLdfLD (g : BitVec 4) (d b i : BitVec 6) (s : State) : Out :=
  ldsWord 8 (.fD d.toNat) g b i s

/-- LDF_L_I (R166). -/
def execLdfLI (g : BitVec 4) (d b i : BitVec 6) (s : State) : Out :=
  ldsWord 8 (.fI d.toNat) g b i s

/-- LDF_L_J (R166). -/
def execLdfLJ (g : BitVec 4) (d b i : BitVec 6) (s : State) : Out :=
  ldsWord 16 (.fJ d.toNat) g b i s

/-! ### Stores (R164, R167) -/

/-- STG_B (R167). -/
def execStgB (g : BitVec 4) (d b p : BitVec 6) (s : State) : Out :=
  stgWord 1 (storeG 1 d) g [.g d.toNat] b p s

/-- STG_H (R167). -/
def execStgH (g : BitVec 4) (d b p : BitVec 6) (s : State) : Out :=
  stgWord 2 (storeG 2 d) g [.g d.toNat] b p s

/-- STG_W (R167). -/
def execStgW (g : BitVec 4) (d b p : BitVec 6) (s : State) : Out :=
  stgWord 4 (storeG 4 d) g [.g d.toNat] b p s

/-- STG_D (R167). -/
def execStgD (g : BitVec 4) (d b p : BitVec 6) (s : State) : Out :=
  stgWord 8 (storeG 8 d) g [.g d.toNat] b p s

/-- STG_Q (R167). -/
def execStgQ (g : BitVec 4) (d b p : BitVec 6) (s : State) : Out :=
  stgWord 16 (storeG 16 d) g [.g d.toNat, .g (d.toNat + 1)] b p s

/-- STS_B (R165). -/
def execStsB (g : BitVec 4) (d b i : BitVec 6) (s : State) : Out :=
  stsWord 1 (storeG 1 d) g [.g d.toNat] b i s

/-- STS_H (R165). -/
def execStsH (g : BitVec 4) (d b i : BitVec 6) (s : State) : Out :=
  stsWord 2 (storeG 2 d) g [.g d.toNat] b i s

/-- STS_W (R165). -/
def execStsW (g : BitVec 4) (d b i : BitVec 6) (s : State) : Out :=
  stsWord 4 (storeG 4 d) g [.g d.toNat] b i s

/-- STS_D (R165). -/
def execStsD (g : BitVec 4) (d b i : BitVec 6) (s : State) : Out :=
  stsWord 8 (storeG 8 d) g [.g d.toNat] b i s

/-- STS_Q (R165). -/
def execStsQ (g : BitVec 4) (d b i : BitVec 6) (s : State) : Out :=
  stsWord 16 (storeG 16 d) g [.g d.toNat, .g (d.toNat + 1)] b i s

/-- STF_G_S (R164). -/
def execStfGS (g : BitVec 4) (d b p : BitVec 6) (s : State) : Out :=
  stgWord 4 (storeF 4 d) g [.f d.toNat] b p s

/-- STF_G_D (R164). -/
def execStfGD (g : BitVec 4) (d b p : BitVec 6) (s : State) : Out :=
  stgWord 8 (storeF 8 d) g [.f d.toNat] b p s

/-- STF_G_I (R164). -/
def execStfGI (g : BitVec 4) (d b p : BitVec 6) (s : State) : Out :=
  stgWord 8 (storeF 8 d) g [.f d.toNat] b p s

/-- STF_G_J (R164). -/
def execStfGJ (g : BitVec 4) (d b p : BitVec 6) (s : State) : Out :=
  stgWord 16 (storeF 16 d) g [.f d.toNat, .f (d.toNat + 1)] b p s

/-- STF_L_S (R164). -/
def execStfLS (g : BitVec 4) (d b i : BitVec 6) (s : State) : Out :=
  stsWord 4 (storeF 4 d) g [.f d.toNat] b i s

/-- STF_L_D (R164). -/
def execStfLD (g : BitVec 4) (d b i : BitVec 6) (s : State) : Out :=
  stsWord 8 (storeF 8 d) g [.f d.toNat] b i s

/-- STF_L_I (R164). -/
def execStfLI (g : BitVec 4) (d b i : BitVec 6) (s : State) : Out :=
  stsWord 8 (storeF 8 d) g [.f d.toNat] b i s

/-- STF_L_J (R164). -/
def execStfLJ (g : BitVec 4) (d b i : BitVec 6) (s : State) : Out :=
  stsWord 16 (storeF 16 d) g [.f d.toNat, .f (d.toNat + 1)] b i s

/-! ### Performing (R77, R160, R316, R354) -/

/-- A frame outside every memory that a global operation would reach (R12, R352). -/
def State.hole? (s : State) (o : Op) : Option Fault :=
  match s.homeFor o false with
  | (_, .error _) => none
  | (_, .ok h) => if s.frameExists h.node h.addr then none else some (.noSuchMemory h.node h.addr)

/-- Answer the state, unless the operation would reach a frame that does not exist. -/
def orHole (s : State) (o : Op) (t : State) : Out :=
  match s.hole? o with
  | some f => .fault f
  | none => .next t

/-- The line an access names is evicted from its core's L1 first (R169, R182). -/
def State.evictLine (s : State) (o : Op) : State :=
  s.dropL1 o.core fun l => l.asid == o.asid && l.line == o.addr.toNat / 64

/-- A result that is there is delivered. -/
def State.deliver (s : State) (id : Nat) : State :=
  match s.op? id with
  | none => s
  | some o => s.deliverLoad o

/-- LOAD_REPLY (R77). -/
def execLoadReply (op : Nat) (evict : Bool) (s : State) : Out :=
  match s.op? op with
  | none => .next s
  | some o =>
    match o.kind with
    | .load .. =>
      let s1 := if evict then s.evictLine o else s
      orHole s o (((s1.performGlobal o false false).deliver op).pump)
    | .readMeta .. => orHole s o (((s.performGlobal o false false).deliver op).pump)
    | .loadS .. => .next ((s.performScratchLoad o).deliver op).pump
    | .mrd _ => .next ((s.performScratchLoad o).deliver op).pump
    | _ => .next s

/-- STORE_FAULT_FOUND (R160). -/
def execStoreFaultFound (op : Nat) (s : State) : Out :=
  match s.op? op with
  | none => .next s
  | some o => match o.st with
    | .faulted x => .next (s.storeFault o x)
    | _ => .next s

/-- SCRATCH_STORE_PERFORM (R316). -/
def execScratchStorePerform (op : Nat) (s : State) : Out :=
  match s.op? op with
  | none => .next s
  | some o =>
    match o.kind with
    | .storeS .. => .next (s.performScratchStore o).pump
    | .stpl .. => .next (s.performScratchStore o).pump
    | .mwr v => .next (s.performMwr o v).pump
    | _ => .next s

/-- An access is translated: its page has a leaf, by which it is performed later, it waits, or it faults (R354, R355, R358). With `rewalk` the table's entry serves
it from now on, whatever the TLB holds. -/
def State.translated (s : State) (o : Op) (rewalk : Bool) : State :=
  match s.homeFor o rewalk with
  | (s1, .ok _) => s1.modOp o.id fun o => { o with rewalk := o.rewalk || rewalk }
  | (s1, .error .wait) => s1
  | (s1, .error (.bad node addr)) => (s1.meetLine node addr).foundFault o tcUncorrectable o.addr
  | (s1, .error (.absent l mf)) => s1.pageFault o o.addr.toNat l mf

/-- TRANSLATION (R354). -/
def execTranslation (op : Nat) (rewalk : Bool) (s : State) : Out :=
  match s.op? op with
  | none => .next s
  | some o =>
    if !o.kind.access || !s.gate o then .next s
    else
      match o.kind with
      | .store .. => orHole s o (s.performGlobal o rewalk false).pump
      | .load .. => orHole s o (s.translated o rewalk)
      | .atomic .. => orHole s o (s.translated o rewalk)
      | .stref _ => orHole s o (s.translated o rewalk)
      | .readMeta .. => orHole s o (s.translated o rewalk)
      | _ => .next s

/-! ### Fences and the cache group (R174 to R180) -/

/-- FENCE (R174 to R176): held until its predecessors are performed. -/
def execFence (g : BitVec 4) (p q : BitVec 6) (k : BitVec 3) (s : State) : Out :=
  .next (s.startOps g false false [] (fun _ _ => .ok (.plain 0 (.fence p.toNat q.toNat k.toNat)))).pump

/-- FENCE_RELEASE_HELD (R175). -/
def execFenceReleaseHeld (op : Nat) (s : State) : Out :=
  match s.op? op with
  | none => .next s
  | some o => .next (s.performFence o).pump

/-- A cache word's address check (R177). -/
def cacheReq (b : BitVec 6) (mk : Nat → OpKind) (l : BitVec 6) (iss : Issue) (t : Thread) : Except Flt OpReq :=
  let a := srcG iss t .zero b
  if 2 ^ 52 ≤ a.toNat then .error (.mk2 tcProtection a)
  else .ok (.plain a (mk ((srcG iss t .zero l).toNat % 2 ^ 32)))

/-- PFL (R178). -/
def execPfl (g : BitVec 4) (b p : BitVec 6) (s : State) : Out :=
  .next (s.startOps g false false [.g b.toNat, .g p.toNat]
    (fun iss t => globalReq 1 b p (fun pol => .pfl pol) none iss t)).pump

/-- WBL1 (R177). -/
def execWbl1 (g : BitVec 4) (b l : BitVec 6) (s : State) : Out :=
  .next (s.startOps g false false [.g b.toNat, .g l.toNat] (cacheReq b (fun n => .wbl1 n) l)).pump

/-- INVL1 (R177). -/
def execInvl1 (g : BitVec 4) (b l : BitVec 6) (s : State) : Out :=
  .next (s.startOps g false false [.g b.toNat, .g l.toNat] (cacheReq b (fun n => .invl1 n) l)).pump

/-- ACQR (R179). -/
def execAcqr (g : BitVec 4) (d b l : BitVec 6) (s : State) : Out :=
  opWord g true false [.g b.toNat, .g l.toNat, .g d.toNat]
    (fun iss t =>
      let v := srcG iss t .sign d
      if v.toNat / 128 != 0 then .error (.mk2 tcProtection (srcG iss t .zero b))
      else cacheReq b (fun n => .acqr (dieOf iss.core * 128 + v.toNat) n) l iss t) s

/-- ACQR_COMPLETE (R179). -/
def execAcqrComplete (op : Nat) (s : State) : Out :=
  match s.op? op with
  | none => .next s
  | some o =>
    match o.kind with
    | .acqr victim len =>
      if !s.gate o then .next s
      else
        let s1 := if victim = o.core then s else s.dropL1 victim (inRange o.asid o.addr.toNat len)
        let s2 := s1.dropL1 o.core (inRange o.asid o.addr.toNat len)
        .next (s2.finishOp o 0 []).pump
    | _ => .next s

/-- L1_SWEEP_WRITEBACK (R182): a core may write a dirty line back at any time; its counter does not pass the 4,096th cycle before it has. -/
def execL1SweepWriteback (core asid line : Nat) (s : State) : Out :=
  match s.l1? core asid line with
  | none => .next s
  | some l => .next (s.sendBack core l)

/-- WRITEBACK_ARRIVAL (R180), in order for each line of a core (R184). -/
def execWritebackArrival (wb : Nat) (s : State) : Out :=
  match s.mem.wbs.find? fun w => w.id == wb with
  | none => .next s
  | some w => .next (if s.wbWaits w then s else s.wbArrives w)

/-- WRITE_THROUGH_ARRIVAL (R183), in order for each line of a die. -/
def execWriteThroughArrival (wt : Nat) (s : State) : Out :=
  match s.mem.wts.find? fun w => w.id == wt with
  | none => .next s
  | some w => .next (if s.wtWaits w || s.wtStuck w then s else s.wtArrives w)

/-! ### Agents the table has no row for (R169, R182, R183, R277, R363) -/

/-- A line leaves an L1 to make room, its dirty bytes written back (R169, R182). -/
def State.evictFromL1 (s : State) (core asid line : Nat) : State := s.dropL1 core fun l => l.asid == asid && l.line == line

/-- A line leaves a die's L2 or remote-data cache to make room (R169, R183). -/
def State.evictFromL2 (s : State) (die asid line : Nat) : State :=
  (s.dropCopies fun c => c.die == die && c.asid == asid && c.line == line).dropOwn fun c => c.die == die && c.asid == asid && c.line == line

/-- An uncorrectable error strikes a line; the next read meets it (R363). -/
def State.strikeLine (s : State) (node addr : Nat) : State :=
  { s with mem := { s.mem with latent := setInsert (lineKey node addr) s.mem.latent } }

/-- An uncorrectable error strikes an 8-byte word of a core's pool (R277). The manual gives nothing that clears it: here it lasts, through stores to the word,
placements and retirements (log entry 67). -/
def State.strikePool (s : State) (core byte : Nat) : State :=
  { s with pool := { s.pool with bad := setInsert ((core * 2 ^ 21 + byte % 2 ^ 21) / 8) s.pool.bad } }

end Sys2Proof.Machine
end

