-- ==== Sys2Proof/Machine/Atomics.lean ====
section
/-!
DEFINITION. The atomics (R171 to R173) and their events, with the atomic buffer of deterministic mode (R388 to R390).
-/

namespace Sys2Proof.Machine

/-- A global atomic's request: PROTECTION before MISALIGNED (R172). -/
def amoReq (op : AOp) (n rank : Nat) (d b v : BitVec 6) (iss : Issue) (t : Thread) : Except Flt OpReq :=
  let a := srcG iss t .zero b
  if 2 ^ 52 ≤ a.toNat then .error (.mk2 tcProtection a)
  else if a.toNat % n != 0 then .error (.mk2 tcMisaligned a)
  else .ok (.plain a (.atomic op n (srcG iss t .zero v) (t.gr d.toNat) d.toNat rank))

/-- A scratch atomic's request: SCRATCH_RANGE before MISALIGNED (R171, R172). -/
def amosReq (s : State) (op : AOp) (n : Nat) (d b v : BitVec 6) (iss : Issue) (t : Thread) : Except Flt OpReq :=
  let a := srcG iss t .zero b
  match s.group? t.gid with
  | none => .error (.mk2 tcScratch a)
  | some grp =>
    if !s.scratchOk grp a n then .error (.mk2 tcScratch a)
    else if a.toNat % n != 0 then .error (.mk2 tcMisaligned a)
    else .ok (.plain a (.atomicS op n (srcG iss t .zero v) (t.gr d.toNat) d.toNat))

/-- An atomic of a deterministic kernel enters its core's buffer; a full buffer is emptied first: the entries of every kernel in it are drained (R388,
log entry 38). -/
def State.bufferOp (s : State) (o : Op) : State :=
  let s1 := if 1024 ≤ (s.coreAt o.core).atomBuf.length then s.kernels.foldl (fun s k => s.drainOn k.kid o.core) s else s
  s1.modCore o.core fun c => { c with atomBuf := c.atomBuf ++ [o.id] }

/-- An atomic word (R171): its operations are under way, in the buffer for a deterministic kernel. -/
def amoWord (g : BitVec 4) (d b v : BitVec 6) (mk : Issue → Thread → Except Flt OpReq) (s : State) : Out :=
  let s1 := s.startOps g true true [.g b.toNat, .g v.toNat, .g d.toNat] mk
  let new := s1.ops.filter fun o => decide (s.fresh ≤ o.id) && s1.deterministic o.gid
  .next (new.foldl State.bufferOp s1)

/-- AMOG_ADD_W (R172). -/
def execAmogAddW (g : BitVec 4) (d b v : BitVec 6) (s : State) : Out :=
  amoWord g d b v (amoReq .add 4 0 d b v) s

/-- AMOG_ADD_D (R172). -/
def execAmogAddD (g : BitVec 4) (d b v : BitVec 6) (s : State) : Out :=
  amoWord g d b v (amoReq .add 8 0 d b v) s

/-- AMOG_MAX_W (R172). -/
def execAmogMaxW (g : BitVec 4) (d b v : BitVec 6) (s : State) : Out :=
  amoWord g d b v (amoReq .max 4 0 d b v) s

/-- AMOG_MIN_W (R172). -/
def execAmogMinW (g : BitVec 4) (d b v : BitVec 6) (s : State) : Out :=
  amoWord g d b v (amoReq .min 4 0 d b v) s

/-- AMOG_SWAP_W (R172). -/
def execAmogSwapW (g : BitVec 4) (d b v : BitVec 6) (s : State) : Out :=
  amoWord g d b v (amoReq .swap 4 0 d b v) s

/-- AMOG_SWAP_D (R172). -/
def execAmogSwapD (g : BitVec 4) (d b v : BitVec 6) (s : State) : Out :=
  amoWord g d b v (amoReq .swap 8 0 d b v) s

/-- AMOG_CAS_W (R172). -/
def execAmogCasW (g : BitVec 4) (d b v : BitVec 6) (s : State) : Out :=
  amoWord g d b v (amoReq .cas 4 0 d b v) s

/-- AMOG_CAS_D (R172). -/
def execAmogCasD (g : BitVec 4) (d b v : BitVec 6) (s : State) : Out :=
  amoWord g d b v (amoReq .cas 8 0 d b v) s

/-- AMOGSC_ADD_W (R173). -/
def execAmogscAddW (g : BitVec 4) (d b v : BitVec 6) (s : State) : Out :=
  amoWord g d b v (amoReq .add 4 1 d b v) s

/-- AMOGSC_ADD_D (R173). -/
def execAmogscAddD (g : BitVec 4) (d b v : BitVec 6) (s : State) : Out :=
  amoWord g d b v (amoReq .add 8 1 d b v) s

/-- AMOGSC_MAX_W (R173). -/
def execAmogscMaxW (g : BitVec 4) (d b v : BitVec 6) (s : State) : Out :=
  amoWord g d b v (amoReq .max 4 1 d b v) s

/-- AMOGSC_MIN_W (R173). -/
def execAmogscMinW (g : BitVec 4) (d b v : BitVec 6) (s : State) : Out :=
  amoWord g d b v (amoReq .min 4 1 d b v) s

/-- AMOGSC_SWAP_W (R173). -/
def execAmogscSwapW (g : BitVec 4) (d b v : BitVec 6) (s : State) : Out :=
  amoWord g d b v (amoReq .swap 4 1 d b v) s

/-- AMOGSC_SWAP_D (R173). -/
def execAmogscSwapD (g : BitVec 4) (d b v : BitVec 6) (s : State) : Out :=
  amoWord g d b v (amoReq .swap 8 1 d b v) s

/-- AMOGSC_CAS_W (R173). -/
def execAmogscCasW (g : BitVec 4) (d b v : BitVec 6) (s : State) : Out :=
  amoWord g d b v (amoReq .cas 4 1 d b v) s

/-- AMOGSC_CAS_D (R173). -/
def execAmogscCasD (g : BitVec 4) (d b v : BitVec 6) (s : State) : Out :=
  amoWord g d b v (amoReq .cas 8 1 d b v) s

/-- AMOS_ADD_W (R173). -/
def execAmosAddW (g : BitVec 4) (d b v : BitVec 6) (s : State) : Out :=
  amoWord g d b v (amosReq s .add 4 d b v) s

/-- AMOS_ADD_D (R173). -/
def execAmosAddD (g : BitVec 4) (d b v : BitVec 6) (s : State) : Out :=
  amoWord g d b v (amosReq s .add 8 d b v) s

/-- AMOS_MAX_W (R173). -/
def execAmosMaxW (g : BitVec 4) (d b v : BitVec 6) (s : State) : Out :=
  amoWord g d b v (amosReq s .max 4 d b v) s

/-- AMOS_MIN_W (R173). -/
def execAmosMinW (g : BitVec 4) (d b v : BitVec 6) (s : State) : Out :=
  amoWord g d b v (amosReq s .min 4 d b v) s

/-- AMOS_SWAP_W (R173). -/
def execAmosSwapW (g : BitVec 4) (d b v : BitVec 6) (s : State) : Out :=
  amoWord g d b v (amosReq s .swap 4 d b v) s

/-- AMOS_SWAP_D (R173). -/
def execAmosSwapD (g : BitVec 4) (d b v : BitVec 6) (s : State) : Out :=
  amoWord g d b v (amosReq s .swap 8 d b v) s

/-- AMOS_CAS_W (R173). -/
def execAmosCasW (g : BitVec 4) (d b v : BitVec 6) (s : State) : Out :=
  amoWord g d b v (amosReq s .cas 4 d b v) s

/-- AMOS_CAS_D (R173). -/
def execAmosCasD (g : BitVec 4) (d b v : BitVec 6) (s : State) : Out :=
  amoWord g d b v (amosReq s .cas 8 d b v) s

/-- AMOG2_AND_D (R172). -/
def execAmog2AndD (g : BitVec 4) (d b v : BitVec 6) (s : State) : Out :=
  amoWord g d b v (amoReq .and 8 0 d b v) s

/-- AMOG2_OR_D (R172). -/
def execAmog2OrD (g : BitVec 4) (d b v : BitVec 6) (s : State) : Out :=
  amoWord g d b v (amoReq .or 8 0 d b v) s

/-- AMOG2_XOR_D (R172). -/
def execAmog2XorD (g : BitVec 4) (d b v : BitVec 6) (s : State) : Out :=
  amoWord g d b v (amoReq .xor 8 0 d b v) s

/-- AMOG2_MAXU_D (R172). -/
def execAmog2MaxuD (g : BitVec 4) (d b v : BitVec 6) (s : State) : Out :=
  amoWord g d b v (amoReq .maxu 8 0 d b v) s

/-- AMOG2_MINU_D (R172). -/
def execAmog2MinuD (g : BitVec 4) (d b v : BitVec 6) (s : State) : Out :=
  amoWord g d b v (amoReq .minu 8 0 d b v) s

/-- AMOG2_AND_W (R172). -/
def execAmog2AndW (g : BitVec 4) (d b v : BitVec 6) (s : State) : Out :=
  amoWord g d b v (amoReq .and 4 0 d b v) s

/-- AMOG2_OR_W (R172). -/
def execAmog2OrW (g : BitVec 4) (d b v : BitVec 6) (s : State) : Out :=
  amoWord g d b v (amoReq .or 4 0 d b v) s

/-- AMOG2_XOR_W (R172). -/
def execAmog2XorW (g : BitVec 4) (d b v : BitVec 6) (s : State) : Out :=
  amoWord g d b v (amoReq .xor 4 0 d b v) s

/-- Whether an earlier atomic of the issue group at the same location is still to be performed (R173). -/
def State.turnWaits (s : State) (o : Op) : Bool :=
  s.ops.any fun p => p.grpSeq == o.grpSeq && decide (p.id < o.id) && p.waiting && s.sameLocation p o

/-- ATOMIC_PERFORM (R172). -/
def execAtomicPerform (op : Nat) (s : State) : Out :=
  match s.op? op with
  | none => .next s
  | some o =>
    if s.buffered o || s.turnWaits o then .next s
    else if (s.flushOf o).isSome then orHole s o (s.performEntry op).pump
    else match o.kind with
      | .atomic .. => orHole s o (s.performAtomicG o false).pump
      | .atomicS .. => .next (s.performAtomicS o).pump
      | _ => .next s

/-- ATOMIC_REPLY (R173). -/
def execAtomicReply (op : Nat) (s : State) : Out :=
  match s.op? op with
  | none => .next s
  | some o => .next (s.deliverAtomic o).pump

/-- Whether a core's buffer holds entries of a kernel. -/
def State.buffersFor (s : State) (kid core : Nat) : Bool :=
  s.ops.any fun o => o.core == core && s.buffered o && ((s.kernelOf? o.gid).map (·.kid)) == some kid

/-- Whether every thread of a kernel has exited after its last group was placed: the flush point at the kernel's end, which its last groups
need before they can retire (R100, R389). -/
def State.kernelOver (s : State) (k : Kernel) : Bool :=
  k.st == .running && s.threads.all fun t => ((s.kernelOf? t.gid).map (·.kid)) != some k.kid || t.st == .exited

/-- ATOMIC_BUFFER_DRAIN (R389, R390): the flush point at the end of a deterministic kernel, named by a core that holds entries of it. The other
flush points drain within the step that reaches them. -/
def execAtomicBufferDrain (kernel core : Nat) (s : State) : Out :=
  match s.kernel? kernel with
  | none => .next s
  | some k =>
    if k.lr.mode = 1 ∧ s.buffersFor kernel core ∧ s.kernelOver k then .next (s.drainAtomics kernel fun _ => true).pump else .next s

end Sys2Proof.Machine
end

