-- ==== Sys2Proof/Machine/Barrier.lean ====
section
/-!
DEFINITION. Barriers (R326 to R334): barrier words at the banks, their phases and waiters, and the barrier networks.
-/

namespace Sys2Proof.Machine

/-! ### Barrier words (R326) -/

def bwExpected (w : Nat) : Nat := w % 2 ^ 16
def bwArrived (w : Nat) : Nat := w / 2 ^ 16 % 2 ^ 16
def bwPhase (w : Nat) : Nat := w / 2 ^ 48 % 2 ^ 16

/-- A barrier word. -/
def bwMake (phase arrived expected : Nat) : Nat := expected % 2 ^ 16 + arrived % 2 ^ 16 * 2 ^ 16 + phase % 2 ^ 16 * 2 ^ 48

/-- The word after c arrivals, and whether they complete the phase (R327, R330). -/
def bwArrive (w c : Nat) : Nat × Bool :=
  if bwExpected w ≤ bwArrived w + c then (bwMake (bwPhase w + 1) 0 (bwExpected w), true)
  else (bwMake (bwPhase w) (bwArrived w + c) (bwExpected w), false)

/-- A barrier word (R326): the group whose region it lies in, its offset there and its pool byte. -/
structure BarAt where
  grp : Group
  off : Nat
  byte : Nat
  deriving DecidableEq, Repr

/-- The barrier word at an offset of a group's region. -/
def barAt? (h : Group) (off : Nat) : Option BarAt := (regionByte h.core h.scratch off).map fun b => { grp := h, off := off, byte := b }

/-- The word a barrier operation names; none where it is not admitted (R316). -/
def State.barrierWord? (s : State) (o : Op) : Option BarAt := (s.scratchTarget o).bind fun h => barAt? h (ScrAddr.ofWord o.addr).offset

def State.poolWord (s : State) (b : Nat) : Nat := cellsReadN s.pool.bytes b 8

def State.setPoolWord (s : State) (b v : Nat) : State := { s with pool := { s.pool with bytes := cellsWriteN b v 8 s.pool.bytes } }

def State.isLive (s : State) (b : Nat) : Bool := s.pool.live.contains (liveIdx b)

/-! ### Phases (R327, R331, R334, R389) -/

/-- A park on a barrier word. -/
def waitsOn (w : BarAt) : Park → Bool
  | .barrier g o _ _ _ _ => g == w.grp.gid && o == w.off
  | _ => false

/-- Drain the buffered atomics of deterministic kernels that took part, on the cores that hold participants (R389). -/
def State.phaseDrain (s : State) (gids cores : List Nat) : State :=
  let ks := (gids.filterMap fun g => s.kernelOf? g).filter fun k => k.lr.mode == 1
  ks.foldl (fun s k => s.drainAtomics k.kid (cores.contains ·)) s

/-- The acquire of a wake at the word's scope, by the word of the thread with place `seq`: core for a thread on the word's core, else quad (R334). -/
def State.wakeAcquire (s : State) (core seq : Nat) (t : Thread) : State :=
  s.fenceEffect t.tid seq t.core (s.asidOf t.gid) (if t.core = core then 1 else 2) false true

/-- The place in issue order of the words by which a thread waits on a barrier word. -/
def Thread.waitSeq (t : Thread) (w : BarAt) : Nat :=
  t.parks.foldl (fun m p => match p with
    | .barrier g o _ _ _ q => if g = w.grp.gid ∧ o = w.off then max m q else m
    | _ => m) 0

/-- The groups that have arrived in the phase of a word are noted, or forgotten (R389). -/
def State.noteArrivals (s : State) (w : BarAt) (who : List Nat) : State :=
  s.modGroup w.grp.gid fun g => { g with arrivals := g.arrivals ++ who.map fun i => (w.off, i) }

def State.clearArrivals (s : State) (w : BarAt) : State :=
  s.modGroup w.grp.gid fun g => { g with arrivals := g.arrivals.filter (·.1 != w.off) }

/-- The groups that have arrived at a word in its phase. -/
def State.arrivedAt (s : State) (w : BarAt) : List Nat :=
  ((((s.group? w.grp.gid).map (·.arrivals)).getD []).filter (·.1 == w.off)).map (·.2)

/-- The phase of a word advances: a flush point on the cores that hold participants, those that arrived or wait (R389), then its waiters wake (R331, R334). -/
def State.phaseAdvance (s : State) (w : BarAt) : State :=
  let ws := sortBy Thread.tid (s.threads.filter fun t => t.parks.any (waitsOn w))
  let who := s.arrivedAt w ++ ws.map (·.gid)
  let s1 := s.phaseDrain who (who.filterMap fun g => (s.group? g).map (·.core))
  ws.foldl (fun s t => (s.wakeAcquire w.grp.core (t.waitSeq w) t).endPark t.tid (waitsOn w)) (s1.clearArrivals w)

/-- c arrivals of a group at a live word (R330). -/
def State.arriveAt (s : State) (w : BarAt) (c gid : Nat) : State :=
  if c = 0 then s
  else
    let r := bwArrive (s.poolWord w.byte) c
    let s1 := (s.setPoolWord w.byte r.1).noteArrivals w [gid]
    if r.2 then s1.phaseAdvance w else s1

/-- COPYB's arrival at offset o of a group's region: discarded where the word is not live or the group not there (R290, R316, R332). -/
def State.copyArrive (s : State) (h : Group) (o : Nat) (gid : Nat) : State :=
  match barAt? h o with
  | none => s
  | some w => if s.isLive w.byte then s.arriveAt w 1 gid else s

/-! ### The words (R329) -/

/-- The address check of a barrier word (R329). -/
def barrierReq (s : State) (b : BitVec 6) (mk : Issue → Thread → OpKind) (iss : Issue) (t : Thread) : Except Flt OpReq :=
  let a := srcG iss t .zero b
  if a.toNat % 8 != 0 then .error (.mk2 tcMisaligned a)
  else match s.group? t.gid with
    | none => .error (.mk2 tcScratch a)
    | some g => if s.scratchOk g a 8 then .ok (.plain a (mk iss t)) else .error (.mk2 tcScratch a)

/-- The count of ARRIVE and ARRIVEW: one for g0 (R329). -/
def arriveCount (p : BitVec 6) (iss : Issue) (t : Thread) : Nat := if p = 0 then 1 else (srcG iss t .zero p).toNat % 2 ^ 16

/-- A word on which the thread waits for an answer of the bank, or of a network: it is park-pending until then (R331, R333). -/
def waitWord (g : BitVec 4) (srcs : List Reg) (mk : Issue → Thread → Except Flt OpReq) (park : Nat → Park) (s : State) : Out :=
  let s1 := s.startOps g false false srcs mk
  .next ((s1.ops.filter fun o => decide (s.fresh ≤ o.id)).foldl (fun s o => s.addPark o.tid (park o.id)) s1)

/-- BINIT (R330). -/
def execBinit (g : BitVec 4) (b p : BitVec 6) (s : State) : Out :=
  opWord g false false [.g b.toNat, .g p.toNat]
    (barrierReq s b fun iss t => .binit ((srcG iss t .zero p).toNat % 2 ^ 16)) s

/-- ARRIVE (R330). -/
def execArrive (g : BitVec 4) (b p : BitVec 6) (s : State) : Out :=
  opWord g false false [.g b.toNat, .g p.toNat] (barrierReq s b fun iss t => .arrive (arriveCount p iss t)) s

/-- BWAIT (R331). -/
def execBwait (g : BitVec 4) (b p : BitVec 6) (s : State) : Out :=
  waitWord g [.g b.toNat, .g p.toNat]
    (barrierReq s b fun iss t => .bwait ((srcG iss t .zero p).toNat % 2 ^ 16)) Park.fault s

/-- ARRIVEW (R331). -/
def execArrivew (g : BitVec 4) (b p : BitVec 6) (s : State) : Out :=
  waitWord g [.g b.toNat, .g p.toNat] (barrierReq s b fun iss t => .arrivew (arriveCount p iss t)) Park.fault s

/-- BINVAL (R332). -/
def execBinval (g : BitVec 4) (b : BitVec 6) (s : State) : Out :=
  opWord g false false [.g b.toNat] (barrierReq s b fun _ _ => .binval) s

/-- NBAR (R333). -/
def execNbar (g : BitVec 4) (k : BitVec 6) (s : State) : Out :=
  waitWord g [] (fun _ _ => .ok (.plain 0 (.nbar k.toNat))) Park.nbar s

/-! ### At the bank (R330 to R332) -/

/-- Whether an earlier barrier word of the issue group is still to be performed by the same core's bank (R330). -/
def State.bankTurn (s : State) (o : Op) : Bool :=
  s.ops.any fun p => p.grpSeq == o.grpSeq && decide (p.id < o.id) && p.waiting && ((s.barrierWord? p).map (·.grp.core)) == (s.barrierWord? o).map (·.grp.core)

/-- Answer a BWAIT or an ARRIVEW whose arrival is done: the thread goes on, or waits on the word (R331, R99), unless it has exited; a word that is no longer live
faults (R332). -/
def State.answerWait (s : State) (w : BarAt) (o : Op) (p : Nat) : State :=
  let now := bwPhase (s.poolWord w.byte)
  if now != p then
    match s.thread? o.tid with
    | none => s.dropOp o.id
    | some t => (s.wakeAcquire w.grp.core o.seq t).dropOp o.id
  else if !s.isLive w.byte then s.faultOp o tcClobber o.addr
  else if ((s.thread? o.tid).map (·.st)) = some .exited then s.dropOp o.id
  else (s.addPark o.tid (.barrier w.grp.gid w.off p o.pc o.addr o.seq)).dropOp o.id

/-- The ARRIVEW words of a group on a word are answered once all its arrivals there are performed (R331). -/
def State.answerGroup (s : State) (w : BarAt) (grp : Nat) : State :=
  let mates := s.ops.filter fun p => p.grpSeq == grp && ((s.barrierWord? p).map (·.byte)) == some w.byte
  if mates.any Op.waiting then s
  else mates.foldl (fun s p => match p.kind with
    | .bwait q => s.answerWait w p q
    | _ => s) s

/-- A thread that waits on a word which BINVAL clears wakes and takes the fault where it parked (R93, R332). -/
def State.faultWaiter (s : State) (w : BarAt) (t : Thread) : State :=
  match t.parks.find? (waitsOn w) with
  | some (.barrier _ _ _ pc a q) =>
    ((s.lateFault t.tid { seq := q, code := codeWord t tcClobber false, addr := a, pc := pc, resume := none }).endPark t.tid (waitsOn w)).trapWoken t.st t.tid
  | _ => s

/-- Whether an operation is an ARRIVEW whose arrival at a word is done and that the bank has not answered (R331). -/
def State.unanswered (s : State) (w : BarAt) (o : Op) : Bool :=
  !o.waiting && ((s.barrierWord? o).map (·.byte)) == some w.byte && (match o.kind with
    | .bwait _ => true
    | _ => false)

/-- BINVAL clears a live word (R332): those that wait on it, answered already or not, take the fault. The thread that executes it does not; where it waits on the word
itself its wait ends (log entry 37). -/
def State.clearWord (s : State) (w : BarAt) (o : Op) : State :=
  let s1 : State := { s with pool := { s.pool with live := setErase (liveIdx w.byte) s.pool.live } }
  let ws := s1.threads.filter fun t => t.tid != o.tid && t.parks.any (waitsOn w)
  let us := s1.ops.filter (s1.unanswered w)
  let s2 := ws.foldl (fun s t => s.faultWaiter w t) s1
  let s3 := us.foldl (fun s p => if p.tid = o.tid then s.dropOp p.id else s.faultOp p tcClobber p.addr) s2
  s3.endPark o.tid (waitsOn w)

/-- The bank performs one word for a thread (R330 to R332). -/
def State.bankOp (s : State) (o : Op) : State :=
  let own (w : BarAt) : Nat := if w.grp.core = o.core then 1 else 2
  match s.barrierWord? o with
  | none =>
    match o.kind with
    | .bwait _ => s.faultOp o tcClobber o.addr
    | .arrivew _ => s.faultOp o tcClobber o.addr
    | _ => s.dropOp o.id
  | some w =>
    match o.kind with
    | .binit e =>
      if s.isLive w.byte || e == 0 then s.foundFault o tcClobber o.addr
      else
        let s1 := (s.setPoolWord w.byte (bwMake 0 0 e)).clearArrivals w
        { s1 with pool := { s1.pool with live := setInsert (liveIdx w.byte) s1.pool.live } }.dropOp o.id
    | .arrive c =>
      let s1 := s.fenceEffect o.tid o.seq o.core o.asid (own w) true false
      if !s1.isLive w.byte then s1.faultOp o tcClobber o.addr
      else (s1.dropOp o.id).arriveAt w c o.gid
    | .bwait p => if !s.isLive w.byte then s.faultOp o tcClobber o.addr else s.answerWait w o p
    | .arrivew c =>
      let s1 := s.fenceEffect o.tid o.seq o.core o.asid (own w) true false
      if !s1.isLive w.byte then (s1.faultOp o tcClobber o.addr).answerGroup w o.grpSeq
      else
        let q := bwPhase (s1.poolWord w.byte)
        let s2 := s1.modOp o.id fun o => { o with kind := .bwait q, st := .performed 0 }
        (s2.arriveAt w c o.gid).answerGroup w o.grpSeq
    | .binval => if s.isLive w.byte then (s.clearWord w o).dropOp o.id else s.dropOp o.id
    | _ => s

/-- Whether an operation is a barrier word's. -/
def OpKind.barrier? : OpKind → Bool
  | .binit _ => true
  | .arrive _ => true
  | .bwait _ => true
  | .arrivew _ => true
  | .binval => true
  | _ => false

/-- BARRIER_BANK_OP (R330). -/
def execBarrierBankOp (op : Nat) (s : State) : Out :=
  match s.op? op with
  | none => .next s
  | some o =>
    if !o.kind.barrier? || !s.gate o || s.scratchHeld o then .next s
    else if s.bankTurn o then .next s
    else .next (s.bankOp o).pump

/-! ### The barrier networks (R333, R334, R383) -/

/-- The groups of a kernel placed in the quad, die or package of a core. -/
def State.groupsWithin (s : State) (kid core scope : Nat) : List Group :=
  s.groups.filter fun h => h.kid == kid && h.st != .retired &&
    (match scope with
     | 2 => h.core / 4 == core / 4
     | 3 => h.core / 128 == core / 128
     | _ => true)

/-- Whether two threads are on one network of a scope: the same lane of a group, the same group, or the same quad, die or package with groups of one kernel
(R333). -/
def State.onNetwork (s : State) (t u : Thread) (scope : Nat) : Bool :=
  match scope with
  | 0 => u.gid == t.gid && u.lane == t.lane
  | 1 => u.gid == t.gid
  | _ => match s.kernelOf? t.gid with
    | none => false
    | some k => (s.groupsWithin k.kid t.core scope).any fun h => h.gid == u.gid

/-- The threads that take part in a phase with a thread, those that have exited not counted (R333). -/
def State.participants (s : State) (t : Thread) (scope : Nat) : List Thread :=
  s.threads.filter fun u => u.st != .exited && s.onNetwork t u scope

/-- A thread's oldest arrival at a scope that can make its release: nothing earlier of the thread keeps it, nor a drain (R188, R333, R334). -/
def State.arrival? (s : State) (scope tid : Nat) : Option Op :=
  (s.ops.find? fun o => o.tid == tid && o.kind == .nbar scope).filter fun o => s.gate o && !s.releaseStuck o.core o.asid scope

/-- Whether every other member package of a pod job has reported its completion of the phase, and the reports can travel (R383). -/
def State.podReported (s : State) (j : PodJob) : Bool :=
  s.scaleUp && j.members.all fun m => m == s.dev.pkgid || j.reports.contains m

/-- Whether a phase may complete at all: wide scopes only while the kernel runs, the pod only for an enrolled kernel whose other packages have reported
(R333, R383). -/
def State.nbarOpen (s : State) (t : Thread) (scope : Nat) : Bool :=
  if scope < 2 then true
  else match s.kernelOf? t.gid with
    | none => false
    | some k => k.st == .running && (scope < 5 || s.dev.jobs.any fun j => j.kid == k.kid && s.podReported j)

/-- A pod phase is complete: the next one starts without reports (R383). -/
def State.clearReports (s : State) (kid scope : Nat) : State :=
  if scope < 5 then s
  else { s with dev := { s.dev with jobs := s.dev.jobs.map fun j => if j.kid = kid then { j with reports := [] } else j } }

/-- Another member package of a pod job reports its completion of the phase, over the lowest-numbered plane that is up (R383). -/
def State.podReport (s : State) (job pkg : Nat) : State :=
  if s.scaleUp then
    { s with dev := { s.dev with jobs := s.dev.jobs.map fun j =>
        if j.job = job ∧ j.members.contains pkg ∧ !j.reports.contains pkg then { j with reports := j.reports ++ [pkg] } else j } }
  else s

/-- Whether a thread of the network that has exited since its arrival has still to make the arrival's release (R334). -/
def State.leaverPending (s : State) (t : Thread) (scope : Nat) : Bool :=
  s.ops.any fun o => o.kind == .nbar scope && (match s.thread? o.tid with
    | some u => u.st == .exited && s.onNetwork t u scope
    | none => false)

/-- This package's report of a completed pod phase goes to the other members of the job, over the lowest-numbered plane that is up (R381, R383). -/
def State.sendReports (s : State) (kid scope : Nat) : State :=
  if scope < 5 then s
  else (s.dev.jobs.filter (·.kid == kid)).foldl (fun s j => (j.members.filter (· != s.dev.pkgid)).foldl (fun s m =>
    s.sent { s.newPeer 0 m 0 with plane := s.planes.head? } false) s) s

/-- NBAR_PHASE_COMPLETE (R333). -/
def execNbarPhaseComplete (op : Nat) (s : State) : Out :=
  match s.op? op with
  | none => .next s
  | some o =>
    match o.kind, s.thread? o.tid with
    | .nbar scope, some t =>
      let ps := s.participants t scope
      let os := ps.filterMap fun u => s.arrival? scope u.tid
      if !s.nbarOpen t scope || os.length < ps.length || s.leaverPending t scope then .next s
      else
        let s1 := os.foldl (fun s o => s.fenceEffect o.tid o.seq o.core o.asid scope true false) s
        let kid := ((s.kernelOf? t.gid).map (·.kid)).getD 0
        let s2 := ((s1.phaseDrain [t.gid] (ps.map (·.core))).sendReports kid scope).clearReports kid scope
        .next (os.foldl (fun s o => ((s.fenceEffect o.tid o.seq o.core o.asid scope false true).dropOp o.id).endPark o.tid (· == .nbar o.id)) s2).pump
    | _, _ => .next s

end Sys2Proof.Machine
end

