-- ==== Sys2Proof/Machine/Cohorts.lean ====
section
/-!
DEFINITION. The events of clauses, cohorts and threads: CLAUSE_START (R73), WAIT_COUNT_EXPIRY and COHORT_SWAP_COMPLETE (R102),
RESULT_LANDS (R80), THREAD_SLOT_FREE and COHORT_RETIRE (R100).
-/

namespace Sys2Proof.Machine

/-- CLAUSE_START (R73): the core settles and reviews its cohorts, picks one, and starts the clause whose header carries these fields. The
header's Y bit makes the start a yield point (R74), which the review has dealt with. A clause in issue is not interrupted. -/
def execClauseStart (w : BitVec 12) (a b : BitVec 4) (_y : BitVec 1) (l : BitVec 3) (s : State) : Out :=
  if s.cur?.isSome then .next s
  else
    match (s.schedule s.turn).pick s.turn with
    | (s1, none) => .next s1
    | (s1, some p) =>
      match p.head, s1.cohort? p.cid with
      | .hdr x _, some c =>
        if c.startOk w.toNat a.toNat b.toNat then .next (s1.startClause s.turn p x a.toNat b.toNat l.toNat) else .next s1
      | _, _ => .next s1

/-- WAIT_COUNT_EXPIRY (R102). -/
def execWaitCountExpiry (core cohort : Nat) (s : State) : Out :=
  match s.cohort? cohort with
  | none => .next s
  | some c =>
    let asid := s.asidOf c.gid
    match s.slotOf? core asid with
    | none => .next s
    | some x =>
      match (List.range 8).find? fun p => x.active[p]?.getD none == some cohort with
      | none => .next s
      | some p =>
        -- a cohort leaves at a clause boundary only
        if c.waitCount < 256 || x.ready.isEmpty || s.issues.any (·.core == core) then .next s
        else .next ((s.modSlot core asid fun x => (x.leave p cohort).swapIn p (s.coreAt core).clock).modCohort cohort fun c => { c with waitCount := 0 })

/-- COHORT_SWAP_COMPLETE (R102): a swap of the running context is over after its 4 cycles, and the cohort stands in its place. -/
def execCohortSwapComplete (core : Nat) (s : State) : Out :=
  match (s.coreAt core).running? with
  | none => .next s
  | some x =>
    match x.swapping.find? fun y => decide (y.2.2 ≤ (s.coreAt core).clock) with
    | none => .next s
    | some (p, cid, due) =>
      .next ((s.modSlot core x.asid fun x => { x with swapping := x.swapping.filter (· != (p, cid, due)), active := x.active.setIfInBounds p (some cid) }).modCohort cid
        fun c => { c with waitCount := 0 })

/-- RESULT_LANDS (R80): what is due by the core's clock lands. -/
def execResultLands (core : Nat) (s : State) : Out :=
  let now := (s.coreAt core).clock
  .next { s with threads := s.threads.map fun t => if t.core = core then t.landUpTo now else t }

/-- Whether every operation a thread issued has finished (R77, R100, R278). -/
def State.idleThread (s : State) (tid : Nat) : Bool :=
  (s.ops.all fun o => o.tid != tid) && (s.rels.all fun r => r.tid != tid) && (s.cmds.all fun c => c.tid != tid)
    && s.cpys.all fun c => c.tid != tid

/-- THREAD_SLOT_FREE (R100). -/
def execThreadSlotFree (thread : Nat) (s : State) : Out :=
  match s.thread? thread with
  | none => .next s
  | some t =>
    if t.st = .exited ∧ !t.freed ∧ s.idleThread thread then .next (s.modThread thread fun t => { t with freed := true }) else .next s

/-- A retired cohort leaves the pending set of its context; its place in the active set goes to the head of the ready cohorts at the next clause boundary (R102). -/
def Slot.drop (x : Slot) (cid : Nat) : Slot :=
  { x with
    pending := x.pending.filter (· != cid)
    ready := x.ready.filter (· != cid)
    swapping := x.swapping.filter (·.2.1 != cid) }

/-- COHORT_RETIRE (R100); a spare cohort returns to the reserve (R92). -/
def execCohortRetire (cohort : Nat) (s : State) : Out :=
  match s.cohort? cohort with
  | none => .next s
  | some c =>
    let ts := s.threadsOf cohort
    let done := c.stands && ts.all (fun t => t.st == .exited && t.freed) && c.flags.toList.all (· == 0)
    if !done then .next s
    else
      let s1 := s.modCohort cohort fun c =>
        if c.spare then { c with formed := false, waitCount := 0, yieldNext := false, yieldedAt := none, flushEnd := false }
        else { c with retired := true }
      .next (s1.modSlot c.core (s1.asidOf c.gid) fun x => x.drop cohort)

end Sys2Proof.Machine
end

