-- ==== Sys2Proof/Machine/Control.lean ====
section
/-!
DEFINITION. Control flow (R105 to R109), register transfers and special registers (R116 to R119), the system group (R345, R346, R398).
-/

namespace Sys2Proof.Machine

/-! ### Transfers of control (R106 to R108) -/

/-- A branch target: `n` packets from the packet of the word in issue. -/
def Issue.target (iss : Issue) (n : Int) : Word := iss.pk + BitVec.ofInt 64 (12 * n)

/-- The branch decides by its guard's value; `undecided` says where a thread goes when that is U (R106). -/
def brWord (g : BitVec 4) (i : BitVec 19) (undecided : Issue → Except Flt (Option Word)) (s : State) : Out :=
  threadWord 0 (fun iss t =>
    match t.guardVal g with
    | .t => .ok { t with next := some (iss.target i.toInt) }
    | .f => .ok t
    | .u => (undecided iss).map fun x => { t with next := x }) s

/-- BR_UT (R106). -/
def execBrUt (g : BitVec 4) (i : BitVec 19) (s : State) : Out :=
  brWord g i (fun iss => .ok (some (iss.target i.toInt))) s

/-- BR_UF (R106). -/
def execBrUf (g : BitVec 4) (i : BitVec 19) (s : State) : Out :=
  brWord g i (fun _ => .ok none) s

/-- BR (R106). -/
def execBr (g : BitVec 4) (i : BitVec 19) (s : State) : Out :=
  brWord g i (fun iss => .error (.mk2 tcUndecided (iss.target i.toInt))) s

/-- BR_UL (R106). -/
def execBrUl (g : BitVec 4) (i : BitVec 19) (s : State) : Out :=
  brWord g i (fun iss => .ok (some (iss.target (iss.literal .sign).toInt))) s

/-- Pushing the fall-through address (R104, R107); the list's head is the newest entry. -/
def Thread.push (t : Thread) (iss : Issue) : Except Flt Thread :=
  if 16 ≤ t.stack.length then .error (.mk2 tcCallDepth 0)
  else .ok { t with stack := iss.fall.setWidth 52 :: t.stack }

/-- JMP (R107). -/
def execJmp (i : BitVec 25) (s : State) : Out :=
  threadWord 0 (fun iss t => .ok { t with next := some (iss.target i.toInt) }) s

/-- CALL (R107). -/
def execCall (i : BitVec 25) (s : State) : Out :=
  threadWord 0 (fun iss t => (t.push iss).map fun t => { t with next := some (iss.target i.toInt) }) s

/-- JMPR (R108). -/
def execJmpr (g : BitVec 4) (a : BitVec 6) (s : State) : Out :=
  threadWord g (fun iss t => .ok { t with next := some (srcG iss t .sign a) }) s

/-- CALLR (R108). -/
def execCallr (g : BitVec 4) (a : BitVec 6) (s : State) : Out :=
  threadWord g (fun iss t => (t.push iss).map fun u => { u with next := some (srcG iss t .sign a) }) s

/-- RET for one thread: the stack is popped (R108). -/
def Thread.pop (t : Thread) : Except Flt Thread :=
  match t.stack with
  | [] => .error (.mk2 tcRetEmpty 0)
  | x :: rest => .ok { t with stack := rest, next := some (x.setWidth 64) }

/-- RET (R108). A colour of the frame that CWAIT gave up and that is not granted again yet is not released: the manual is silent on it (log entry 61). -/
def execRet (g : BitVec 4) (s : State) : Out :=
  match s.cur? with
  | none => .next s
  | some iss =>
    let ts := s.executing iss g
    -- a return is remembered while an access that was issued in the frame before it is under way
    let past (t : Thread) (r : Nat × Nat) : Bool := s.ops.any fun o => o.tid == t.tid && o.depth == r.1 && decide (o.seq < r.2)
    let s1 := s.onIssuing (threadOne g s.fresh (fun _ t => (t.pop).map fun u =>
      { u with retAt := (t.stack.length, s.fresh) :: t.retAt.filter (past t) }))
    -- the colours acquired in the frame that ends are released (R240, R241)
    .next (ts.foldl (fun s t => if t.stack = [] then s else s.releaseColours t.tid fun h => h.depth == t.stack.length && h.st != .waiting) s1)

/-- EXIT's check of the store hash in replay mode (R397). A log that cannot be read is UNCORRECTABLE in both modes (R363, log entry 74). -/
def State.exitCheck (s : State) (t : Thread) : Except Flt Thread :=
  match s.kernelOf? t.gid with
  | none => .ok { t with exiting := true }
  | some k =>
    if k.lr.mode < 2 ∨ t.trapped then .ok { t with exiting := true } else
    match s.hashBad k t.tid with
    | some a => .error (.mk2 tcUncorrectable (BitVec.ofNat 64 a))
    | none =>
    let rec' := BitVec.ofNat 64 (s.homeRead k.asid (s.hashEntry k t.tid) 8)
    if k.lr.mode = 3 ∧ !t.trapped ∧ t.hash ≠ rec' then .error (.mk2 tcDiverged rec') else .ok { t with exiting := true }

/-- The hash entry that EXIT writes in record mode (R395); an uncorrectable error that it meets in the log poisons its line (R363). -/
def State.exitRecord (s : State) (t : Thread) : State :=
  match s.kernelOf? t.gid with
  | none => s
  | some k =>
    if k.lr.mode < 2 ∨ t.trapped then s
    else match s.hashBad k t.tid with
    | some a => s.meetRead k.asid a
    | none => if k.lr.mode = 2 then s.homeWrite k.asid (s.hashEntry k t.tid) 8 t.hash.toNat else s

/-- EXIT (R108). -/
def execExit (g : BitVec 4) (s : State) : Out :=
  match s.cur? with
  | none => .next s
  | some iss =>
    let ts := s.executing iss g
    let s1 := s.onIssuing (threadOne g s.fresh (fun _ t => s.exitCheck t))
    .next (ts.foldl State.exitRecord s1)

/-! ### NOP, YIELD, RDCLK, RDTAGS (R67, R109) -/

/-- Whether a word executes for at least one thread: then the cohort is changed (R109, R398). -/
def cohortWord (g : BitVec 4) (f : Cohort → Cohort) (s : State) : Out :=
  match s.cur? with
  | none => .next s
  | some iss => if (s.executing iss g).isEmpty then .next s else .next (s.modCohort iss.cid f)

/-- NOP (R67): no effect, whatever its guard. -/
def execNop (_g : BitVec 4) (s : State) : Out :=
  .next s

/-- YIELD (R109). -/
def execYield (g : BitVec 4) (s : State) : Out :=
  cohortWord g (fun c => { c with yieldNext := true }) s

/-- RDCLK (R109). -/
def execRdclk (g : BitVec 4) (d : BitVec 6) (s : State) : Out :=
  fixedWord g 2 [] (fun iss t => .ok [.g d.toNat (BitVec.ofNat 64 (iss.cycle t))]) s

/-- RDTAGS (R109). -/
def execRdtags (g : BitVec 4) (d : BitVec 6) (s : State) : Out :=
  fixedWord g 2 [] (fun iss _ => .ok [.g d.toNat iss.tagsRd]) s

/-! ### Register transfers (R116 to R119) -/

/-- Free slots in the thread's lane in the spare cohorts of its group (R119). -/
def State.spawnFree (s : State) (t : Thread) : Nat :=
  let cs := s.cohorts.filter fun c => c.gid == t.gid && c.spare
  (cs.map fun c => ((List.range c.passes).filter fun j =>
    !(s.threads.any fun x => x.cid == c.cid && x.lane == t.lane && x.pass == j && !x.freed)).length).sum

/-- Special register n of a thread (R119); the clock as in the thread's pass. -/
def State.readSr (s : State) (iss : Issue) (t : Thread) (n : Nat) : Word :=
  let lr := (s.kernelOf? t.gid).map (·.lr)
  let idx := ((s.group? t.gid).map (·.index)).getD 0
  let gx := max 1 ((lr.map (·.gx)).getD 1)
  let gy := max 1 ((lr.map (·.gy)).getD 1)
  let nat (k : Nat) : Word := BitVec.ofNat 64 k
  match n with
  | 0 => nat t.lane
  | 1 => nat t.slot
  | 2 => nat (((s.cohort? t.cid).map (·.idx)).getD 0 + t.pass * 2 ^ 16)
  | 3 => nat idx
  | 4 => nat (idx % gx + (idx / gx % gy) * 2 ^ 21 + (idx / gx / gy) * 2 ^ 42)
  | 5 => nat ((lr.map (·.tx)).getD 0 + ((lr.map (·.ty)).getD 0) * 2 ^ 16 + ((lr.map (·.tz)).getD 0) * 2 ^ 32)
  | 6 => nat (t.core % 128)
  | 7 => nat (t.core % 128 / 4)
  | 8 => nat (t.core / 128)
  | 9 => nat s.dev.pkgid
  | 10 => nat (iss.cycle t)
  | 11 => iss.tagsRd
  | 12 => iss.stageRd
  | 13 => t.fpc
  | 14 => t.trap.code
  | 15 => t.trap.addr
  | 16 => t.trap.pc
  | 17 => t.heldRd
  | 18 => nat (s.spawnFree t)
  | _ => t.hashRd

/-- MOVK (R116). -/
def execMovk (g : BitVec 4) (d k : BitVec 6) (s : State) : Out :=
  fixedWord g 2 [] (fun _ t => .ok [.g d.toNat (((s.kernelOf? t.gid).bind fun x => x.lr.args[k.toNat]?).getD 0)]) s

/-- RDSR (R116, R119). -/
def execRdsr (g : BitVec 4) (d n : BitVec 6) (s : State) : Out :=
  fixedWord g 2 [] (fun iss t => .ok [.g d.toNat (s.readSr iss t n.toNat)]) s

/-- WRSR (R116, R119): for later clauses; `sr.trappc` only by a trapped thread. -/
def execWrsr (g : BitVec 4) (n a : BitVec 6) (s : State) : Out :=
  threadWord g (fun iss t =>
    if n = 16 ∧ !t.trapped then .error (.mk2 tcIllegal 0)
    else .ok { t with srPend := t.srPend ++ [(n.toNat, srcG iss t .sign a)] }) s

/-- The predicates packed as in R117: p0 to p(n−1). -/
def Thread.packPreds (t : Thread) : Nat → Nat
  | 0 => 0
  | n + 1 => t.packPreds n + K3.code (t.pred n) * 4 ^ n

/-- MOVP (R117). -/
def execMovp (g : BitVec 4) (d a : BitVec 6) (s : State) : Out :=
  fixedWord g 2 [.g a.toNat, .p 1, .p 2, .p 3, .p 4, .p 5, .p 6, .p 7]
    (fun iss t =>
      let v := (srcG iss t .sign a).toNat
      let ps := (List.range 7).map fun i => Eff.p (i + 1) (K3.ofCode (v / 4 ^ (i + 1)))
      .ok (.g d.toNat (BitVec.ofNat 64 (t.packPreds 8)) :: (if a = 0 then [] else ps))) s

/-! ### The system group (R345, R346, R398) -/

/-- Word i of the trap record (R341). -/
def TrapRec.word (r : TrapRec) (i : Nat) : Word :=
  match i % 4 with
  | 0 => r.code
  | 1 => r.addr
  | 2 => r.pc
  | _ => r.resume

/-- TRAP and SYSCALL raise SOFTWARE with their operand; the record's resume address is the fall-through address (R341, R345). -/
def softWord (g : BitVec 4) (b : BitVec 6) (sc : Bool) (s : State) : Out :=
  threadWord g (fun iss t => .error { code := tcSoftware, addr := srcG iss t .zero b, sc := sc, fall := true }) s

/-- TRAP (R345). -/
def execTrap (g : BitVec 4) (b : BitVec 6) (s : State) : Out :=
  softWord g b false s

/-- SYSCALL (R345). -/
def execSyscall (g : BitVec 4) (b : BitVec 6) (s : State) : Out :=
  softWord g b true s

/-- RFT (R346). -/
def execRft (g : BitVec 4) (s : State) : Out :=
  threadWord g (fun _ t => if t.trapped then .ok { t with rft := true } else .error (.mk2 tcIllegal 0)) s

/-- RDTR (R345). -/
def execRdtr (g : BitVec 4) (d b : BitVec 6) (s : State) : Out :=
  fixedWord g 4 [.g b.toNat] (fun iss t => .ok [.g d.toNat (t.trap.word (srcG iss t .zero b).toNat)]) s

/-- RDFPC (R345). -/
def execRdfpc (g : BitVec 4) (d : BitVec 6) (s : State) : Out :=
  fixedWord g 4 [] (fun _ t => .ok [.g d.toNat t.fpc]) s

/-- WRFPC (R345). -/
def execWrfpc (g : BitVec 4) (b : BitVec 6) (s : State) : Out :=
  threadWord g (fun iss t => .ok { t with srPend := t.srPend ++ [(13, srcG iss t .zero b)] }) s

/-- DFLUSH (R398). -/
def execDflush (g : BitVec 4) (s : State) : Out :=
  cohortWord g (fun c => { c with flushEnd := true }) s

/-- RDHASH (R398). -/
def execRdhash (g : BitVec 4) (d : BitVec 6) (s : State) : Out :=
  fixedWord g 4 [] (fun _ t => .ok [.g d.toNat t.hash]) s

end Sys2Proof.Machine
end

