-- ==== Sys2Proof/Machine/Tags.lean ====
section
/-!
DEFINITION. Core tags (R280 to R282): marking a tag, the end of an operation on it, and the release points of the tag waits (R295, R267).
-/

namespace Sys2Proof.Machine

def State.tagAt (s : State) (core n : Nat) : Tag := (s.coreAt core).tags[n]?.getD Tag.clear

def State.modTag (s : State) (core n : Nat) (f : Tag → Tag) : State :=
  s.modCore core fun k => { k with tags := k.tags.setIfInBounds n (f (k.tags[n]?.getD Tag.clear)) }

/-- The core tag that a group's tag k is (R280). -/
def State.tagOf (s : State) (gid k : Nat) : Nat × Nat :=
  match s.group? gid with
  | none => (0, 64)
  | some g => (g.core, g.tagBase + k)

/-- The group's `.tags` count. -/
def State.tagCount (s : State) (gid : Nat) : Nat := ((s.kernelOf? gid).map (·.lr.tags)).getD 0

/-- An operation is issued or committed on the tag (R281). -/
def Tag.mark (t : Tag) : Tag := { t with ready := false, outstanding := t.outstanding + 1 }

/-- A copy error word (R282). -/
def copyWord (cause count addr : Nat) : Word := BitVec.ofNat 64 (cause * 2 ^ 56 + count * 2 ^ 52 + addr % 2 ^ 52)

/-- A failure is counted in the error state; the first gives its cause and address (R282). -/
def Tag.fail (t : Tag) (cause addr : Nat) : Tag :=
  match t.err with
  | none => { t with err := some (copyWord cause 1 addr, false) }
  | some (w, r) =>
    let n := w.toNat / 2 ^ 52 % 16
    { t with err := some (if n = 15 then w else w + BitVec.ofNat 64 (2 ^ 52), r) }

/-- An operation on the tag ends (R281). -/
def Tag.finish (t : Tag) : Tag :=
  { t with outstanding := t.outstanding - 1, ready := t.ready || decide (t.outstanding = 1) }

/-! ### Release points (R295) -/

/-- A fault of a word of the thread that is taken at a later boundary (R134). -/
def State.wordFault (s : State) (tid seq : Nat) (pc : Word) (code : Nat) (addr : Word) : State :=
  match s.thread? tid with
  | none => s
  | some t => s.lateFault tid { seq := seq, code := codeWord t code false, addr := addr, pc := pc, resume := none }

/-- The tags whose error states a release point reports, in ascending order. -/
def State.reported (s : State) (gid m : Nat) (any : Bool) : List Nat :=
  (List.range (s.tagCount gid)).filter fun k =>
    let x := s.tagOf gid k
    let t := s.tagAt x.1 x.2
    m / 2 ^ k % 2 == 1 && (!any || t.ready) && (match t.err with
      | some (_, r) => !r
      | none => false)

/-- Copy errors are reported to the thread (R295). -/
def State.reportTags (s : State) (t : Thread) (m : Nat) (any : Bool) (pc : Word) (seq : Nat) : State :=
  match s.reported t.gid m any with
  | [] => s
  | k :: ks =>
    let x := s.tagOf t.gid k
    let w := match (s.tagAt x.1 x.2).err with
      | some (w, _) => w
      | none => 0
    let s1 := (k :: ks).foldl (fun s i =>
      let y := s.tagOf t.gid i
      s.modTag y.1 y.2 fun g => { g with err := g.err.map fun e => (e.1, true) }) s
    s1.wordFault t.tid seq pc tcCopy w

/-- The faulted matrix groups of a thread on a tag are reported (R267). -/
def State.reportEngine (s : State) (t : Thread) (n : Nat) (pc : Word) (seq : Nat) : State :=
  let mine (m : MGroup) : Bool := m.tid == t.tid && m.closed == some (some n) && m.fault.isSome && !m.reported
  match s.mgroups.find? mine with
  | none => s
  | some m =>
    let s1 : State := { s with mgroups := s.mgroups.map fun x => if mine x then { x with reported := true } else x }
    s1.wordFault t.tid seq pc tcMatrix (m.fault.getD 0)

/-- Whether the ready bits end a tag wait (R294). -/
def tagWaitDone (view : Word) : Park → Bool
  | .tagAll m _ _ => view &&& m == m
  | .tagAny m _ _ => m == 0 || view &&& m != 0
  | .mwait n _ _ => view.getLsbD n
  | _ => false

/-- What a tag wait does at its release point (R267, R295). -/
def State.releasePoint (s : State) (t : Thread) : Park → State
  | .tagAll m pc seq => s.reportTags t m.toNat false pc seq
  | .tagAny m pc seq => s.reportTags t m.toNat true pc seq
  | .mwait n pc seq => s.reportEngine t n pc seq
  | _ => s

/-- The tag waits of a group that are over end (R98, R99). -/
def State.wakeTags (s : State) (gid : Nat) : State :=
  let view := s.tagView gid
  let ts := sortBy Thread.idx (s.threads.filter fun t => t.gid == gid && t.parks.any (tagWaitDone view))
  ts.foldl (fun s t =>
    (t.parks.filter (tagWaitDone view)).foldl (fun s p => (s.releasePoint t p).endPark t.tid (· == p)) s) s

/-- An operation of a group on its tag k ends, in failure or not (R281, R282). -/
def State.tagEnds (s : State) (gid k : Nat) (failure : Option (Nat × Nat)) : State :=
  let x := s.tagOf gid k
  let s1 := s.modTag x.1 x.2 fun t =>
    (match failure with
     | none => t
     | some (cause, addr) => t.fail cause addr).finish
  s1.wakeTags gid

/-- A thread waits on tags, or is at its release point at once (R97, R294). -/
def State.tagWait (s : State) (t : Thread) (p : Park) : State :=
  if tagWaitDone (s.tagView t.gid) p then s.releasePoint t p else s.addPark t.tid p

end Sys2Proof.Machine
end

