-- ==== Sys2Proof/Machine/Footprint.lean ====
section
/-!
DEFINITION. Tid entries and descriptors (R252 to R257), and the footprints that order engine commands, copies and gathers (R196, R264, R265,
R287).
-/

namespace Sys2Proof.Machine

/-! ### The tid table (R252, R253) -/

def Core.tidEntry (k : Core) (asid t : Nat) : BitVec 512 := ((k.tids.find? fun x => x.1 == (asid, t)).map (·.2)).getD 0

/-- Entries of value 0 are not listed. -/
def Core.setTid (k : Core) (asid t : Nat) (v : BitVec 512) : Core :=
  let rest := k.tids.filter fun x => x.1 != (asid, t)
  { k with tids := if v = 0 then rest else insertBy (fun x => x.1.1 * 256 + x.1.2) ((asid, t), v) rest }

/-- The fields of an entry (R253). -/
structure Desc where
  reserved : Bool
  fmt : Nat
  planes : Nat
  rows : Nat
  cols : Nat
  data : Nat
  scale : Nat
  book : Nat
  deriving DecidableEq, Repr

def Desc.ofEntry (v : BitVec 512) : Desc :=
  let n := v.toNat
  { reserved := n / 2 ^ 256 != 0 || n / 2 ^ 48 % 2 ^ 16 != 0 || n / 2 ^ 13 % 8 != 0
    fmt := n % 256, planes := n / 2 ^ 8 % 32, rows := n / 2 ^ 16 % 2 ^ 16, cols := n / 2 ^ 32 % 2 ^ 16
    data := n / 2 ^ 64 % 2 ^ 64, scale := n / 2 ^ 128 % 2 ^ 64, book := n / 2 ^ 192 % 2 ^ 64 }

/-- The entry with a record offset moved, for a record of region 0 (R268). -/
def Desc.entry (d : Desc) : BitVec 512 :=
  BitVec.ofNat 512 (d.fmt + d.planes * 2 ^ 8 + d.rows * 2 ^ 16 + d.cols * 2 ^ 32 + d.data * 2 ^ 64 + d.scale * 2 ^ 128 + d.book * 2 ^ 192)

/-- Offset and region of a record (R254). -/
def recOffset (r : Nat) : Nat := r % 2 ^ 21
def recRegion (r : Nat) : Nat := r / 2 ^ 23 % 4

/-- A record that meets its placement (R254, R255). -/
def recOk (region align size limit r : Nat) : Bool :=
  r / 2 ^ 25 == 0 && r / 2 ^ 21 % 4 == 0 && recRegion r == region && recOffset r % align == 0 && decide (recOffset r + size ≤ limit)

/-- Bytes of a B tile's data (R255). -/
def bSize : Nat → Nat
  | 2 => 262144
  | 3 => 524288
  | 4 => 1048576
  | _ => 131072

/-- A descriptor that R253 to R255 allow, for regions of the given sizes. -/
def Desc.ok (d : Desc) (scratch accum : Nat) : Bool :=
  !d.reserved &&
  match d.fmt with
  | 1 => decide (1 ≤ d.rows ∧ d.rows ≤ 256 ∧ d.cols = 1024 ∧ 2 ≤ d.planes ∧ d.planes ≤ 16 ∧ d.book = 0)
      && recOk 0 128 (d.rows * d.planes * 128) scratch d.data && recOk 0 32 (d.rows * 32) scratch d.scale
  | 2 => decide (d.rows = 1024 ∧ d.cols = 512 ∧ d.planes = 0 ∧ d.book = 0)
      && recOk 0 512 (bSize 2) scratch d.data && recOk 0 512 16384 scratch d.scale
  | 3 => decide (d.rows = 1024 ∧ d.cols = 512 ∧ d.planes = 0 ∧ d.book = 0)
      && recOk 0 512 (bSize 3) scratch d.data && recOk 0 512 16384 scratch d.scale
  | 4 => decide (d.rows = 1024 ∧ d.cols = 512 ∧ d.planes = 0 ∧ d.book = 0)
      && recOk 0 512 (bSize 4) scratch d.data && recOk 0 512 16384 scratch d.scale
  | 5 => decide (d.rows = 1024 ∧ d.cols = 512 ∧ d.planes = 0)
      && recOk 0 512 (bSize 5) scratch d.data && recOk 0 512 16384 scratch d.scale && recOk 0 64 512 scratch d.book
  | 6 => decide (1 ≤ d.rows ∧ d.rows ≤ 256 ∧ d.cols = 512 ∧ d.planes = 0 ∧ d.scale = 0 ∧ d.book = 0)
      && recOk 1 2048 (d.rows * 2048) accum d.data
  | 7 => decide (1 ≤ d.rows ∧ d.rows ≤ 256 ∧ d.cols = 512 ∧ d.planes = 0 ∧ d.scale = 0 ∧ d.book = 0)
      && recOk 1 2048 (d.rows * 2048) accum d.data
  | _ => false

/-- A record of region 0 with the bias added; none when it leaves 0 .. 2^21 − 1 (R268). -/
def biased (bias : Int) (r : Nat) : Option Nat :=
  if recRegion r != 0 then some r
  else
    let o : Int := (recOffset r : Int) + bias
    if o < 0 ∨ 2 ^ 21 ≤ o then none else some (r - recOffset r + o.toNat)

/-- The entry that TDEF writes from a descriptor, or none (R268). -/
def Desc.placed (d : Desc) (bias : Int) (scratch accum : Nat) : Option Desc := do
  let data ← biased bias d.data
  let scale ← if 1 ≤ d.fmt ∧ d.fmt ≤ 5 then biased bias d.scale else some d.scale
  let book ← if d.fmt = 5 then biased bias d.book else some d.book
  let e : Desc := { d with data := data, scale := scale, book := book }
  if e.ok scratch accum then some e else none

def State.desc (s : State) (core asid t : Nat) : Desc := Desc.ofEntry ((s.coreAt core).tidEntry asid t)

/-! ### Footprints (R264, R287) -/

/-- A run of items: granules or numbers lo .. hi − 1 of a space. -/
structure Item where
  space : Nat
  owner : Nat
  lo : Nat
  hi : Nat
  deriving DecidableEq, Repr

/-- Granules of a byte range. -/
def granules (space owner a n : Nat) : List Item :=
  if n = 0 then [] else [{ space := space, owner := owner, lo := a / 64, hi := (a + n + 63) / 64 }]

def scratchItems (gid a n : Nat) : List Item := granules 0 gid a n
def accumItems (gid a n : Nat) : List Item := granules 1 gid a n
def tidItem (asid t : Nat) : Item := { space := 2, owner := asid, lo := t, hi := t + 1 }
def slotItem (asid n : Nat) : Item := { space := 3, owner := asid, lo := n, hi := n + 1 }
def globalItems (asid a n : Nat) : List Item := granules 4 asid a n

def Item.meets (x y : Item) : Bool := x.space == y.space && x.owner == y.owner && decide (x.lo < y.hi ∧ y.lo < x.hi)

/-- What an operation reads and what it writes. -/
structure Foot where
  reads : List Item
  writes : List Item
  deriving DecidableEq, Repr

def meetAny (a b : List Item) : Bool := a.any fun x => b.any x.meets

/-- Two footprints conflict when one writes an item that the other reads or writes (R265). -/
def Foot.conflicts (a b : Foot) : Bool := meetAny a.writes (b.reads ++ b.writes) || meetAny b.writes a.reads

/-- The rows [first, first + count) of an accumulator tile. -/
def accRows (gid : Nat) (d : Desc) (first count : Nat) : List Item := accumItems gid (recOffset d.data + 2048 * first) (2048 * count)

/-- The tid entries a command reads (R264). -/
def CmdKind.tids : CmdKind → List Nat
  | .tdef .. => []
  | .mldb t _ => [t]
  | .mmq a m .. => [a, m]
  | .mzero t .. => [t]
  | .mxst t .. => [t]

/-- The footprint of a command from the table entries as they stand (R264). -/
def State.cmdFoot (s : State) (c : Cmd) : Foot :=
  let e (t : Nat) : Desc := s.desc c.core c.asid t
  match c.kind with
  | .tdef t addr _ => { reads := scratchItems c.gid (addr.toNat % 2 ^ 21) 64, writes := [tidItem c.asid t] }
  | .mldb t slot =>
    let d := e t
    { reads := tidItem c.asid t :: (if 2 ≤ d.fmt ∧ d.fmt ≤ 5 then
          scratchItems c.gid (recOffset d.data) (bSize d.fmt) ++ scratchItems c.gid (recOffset d.scale) 16384
            ++ (if d.fmt = 5 then scratchItems c.gid (recOffset d.book) 512 else [])
        else [])
      writes := [slotItem c.asid slot] }
  | .mmq a m afirst mfirst slot _ count =>
    let d := e a
    { reads := [tidItem c.asid a, tidItem c.asid m, slotItem c.asid slot]
        ++ scratchItems c.gid (recOffset d.data + 128 * d.planes * afirst) (128 * d.planes * count)
        ++ scratchItems c.gid (recOffset d.scale + 32 * afirst) (32 * count)
      writes := accRows c.gid (e m) mfirst count }
  | .mzero t first count => { reads := [tidItem c.asid t], writes := accRows c.gid (e t) first count }
  | .mxst t first count out dst =>
    { reads := tidItem c.asid t :: accRows c.gid (e t) first count
      writes := scratchItems c.gid (dst.toNat % 2 ^ 21) (count * (if out = 0 then 2048 else 1024)) }

/-- Whether a command's footprint is known: no earlier TDEF of an entry it reads is still to end (R264). -/
def State.footKnown (s : State) (c : Cmd) : Bool :=
  s.cmds.all fun x => !(x.core == c.core && x.asid == c.asid && decide (x.id < c.id) && (match x.kind with
    | .tdef t _ _ => c.kind.tids.contains t
    | _ => false))

/-- The groups of a launch resident on the masked cores of a quad (R289). -/
def State.maskedGroups (s : State) (gid mask : Nat) : List Group :=
  match s.group? gid with
  | none => []
  | some g => s.groups.filter fun h =>
      h.kid == g.kid && h.core / 4 == g.core / 4 && mask / 2 ^ (h.core % 4) % 2 == 1 && h.resident

/-- Granules of a scratch address range, in the region that it names (R158). -/
def State.scratchSide (s : State) (gid : Nat) (a : Word) (n : Nat) : List Item :=
  match (s.group? gid).bind fun g => s.scratchGroup? g a with
  | none => []
  | some h => scratchItems h.gid (a.toNat % 2 ^ 21) n

/-- Threads of a group and the width of its cohorts (R303). -/
def LaunchRec.threads (r : LaunchRec) : Nat := r.tx * r.ty * r.tz
def LaunchRec.cohortWidth (r : LaunchRec) : Nat := 32 * 2 ^ r.width

/-- The register granules of a group (R303). -/
def LaunchRec.regGranules (r : LaunchRec) : Nat := ((r.threads + r.spawn * r.cohortWidth) * 8 * (r.ng + r.nf) + 16383) / 16384

/-- Bytes of a group's scratch region: at its granules, or, while it is with its context in the chrysalis area, in the saved image, where scratch stands behind the
registers (R338). -/
def State.regionHeld (s : State) (h : Group) (o n : Nat) : Nat :=
  match s.saved.find? fun v => v.gid == h.gid with
  | none => s.regionRead h.core h.scratch o n
  | some v => cellsReadN v.bytes ((((s.kernel? h.kid).map (·.lr.regGranules)).getD 0) * 2 ^ 14 + o) n

/-- Index i of a gather's vector. -/
def State.gatherIndex (s : State) (gid : Nat) (index : Word) (i : Nat) : Nat :=
  match (s.group? gid).bind fun g => s.scratchGroup? g index with
  | none => 0
  | some h => s.regionHeld h (index.toNat % 2 ^ 21 + 4 * i) 4

/-- The footprint of a copy or a gather (R287); PFR has none. -/
def State.copyFoot (s : State) (c : Copy) : Foot :=
  let side (scr : Bool) (a : Word) (n : Nat) : List Item := if scr then s.scratchSide c.gid a n else globalItems c.asid a.toNat n
  match c.kind with
  | .copy _ => { reads := side c.srcS c.src c.len, writes := side c.dstS c.dst c.len }
  | .copym mask =>
    { reads := side c.srcS c.src c.len
      writes := (s.maskedGroups c.gid mask).flatMap fun h => scratchItems h.gid (c.dst.toNat % 2 ^ 21) c.len }
  | .copyb b =>
    { reads := side c.srcS c.src c.len
      writes := side c.dstS c.dst c.len ++ s.scratchSide c.gid (BitVec.ofNat 64 (c.dst.toNat / 2 ^ 21 * 2 ^ 21 + b)) 8 }
  | .gather es count index =>
    { reads := side true index (4 * count)
        ++ (List.range count).flatMap fun i => globalItems c.asid (c.src.toNat + es * s.gatherIndex c.gid index i) es
      writes := side true c.dst (es * count) }
  | .pfr => { reads := [], writes := [] }

/-- Whether a store of the thread to a copy's source, made before the copy, is still to be performed (R199): of a gather's source, the index vector and the
elements that it names. -/
def State.sourcePending (s : State) (c : Copy) : Bool :=
  let reads : List (Bool × Nat × Nat) := match c.kind with
    | .gather es n idx => (true, idx.toNat % 2 ^ 21, 4 * n) :: (List.range n).map fun i => (false, c.src.toNat + es * s.gatherIndex c.gid idx i, es)
    | .pfr => []
    | _ => [(c.srcS, if c.srcS then c.src.toNat % 2 ^ 21 else c.src.toNat, c.len)]
  s.ops.any fun o => o.tid == c.tid && decide (o.seq < c.seq) && o.waiting && o.kind.classes / 2 % 2 == 1 &&
    (match o.kind.span o.addr with
     | none => false
     | some (x, a, n) => reads.any fun r => r.1 == x && decide (r.2.1 < a + n ∧ a < r.2.1 + r.2.2))

/-- Whether the elements that a gather names are settled, so that its footprint is known: nothing queued before it, and no earlier store of its thread, is
still to write its index vector, and the region of the vector and its context's scratch are there (R264, R287, R338). -/
def State.copyKnown (s : State) (c : Copy) : Bool :=
  match c.kind with
  | .gather _ count index =>
    let v := s.scratchSide c.gid index (4 * count)
    let there := match (s.group? c.gid).bind fun g => s.scratchGroup? g index with
      | some h => s.saved.all fun x => x.gid != h.gid
      | none => true
    c.started || (there && s.saved.all (fun x => !(x.core == c.core && x.asid == c.asid)) && !s.sourcePending c
      && (s.cmds.all fun x => !(x.core == c.core && x.asid == c.asid && decide (x.id < c.id) && meetAny (s.cmdFoot x).writes v))
      && s.cpys.all fun x => !(x.core == c.core && x.asid == c.asid && decide (x.id < c.id) && meetAny (s.copyFoot x).writes v))
  | _ => true

/-- Whether an operation with a footprint has to wait for one queued earlier on its core (R265, R287). -/
def State.footWaits (s : State) (core asid id : Nat) (f : Foot) : Bool :=
  (s.cmds.any fun c => c.core == core && c.asid == asid && decide (c.id < id) && (!s.footKnown c || f.conflicts (s.cmdFoot c)))
  || s.cpys.any fun c => c.core == core && c.asid == asid && decide (c.id < id) && (!s.copyKnown c || f.conflicts (s.copyFoot c))

end Sys2Proof.Machine
end

