-- ==== Sys2Proof/Machine/Copies.lean ====
section
/-!
DEFINITION. Copies, gathers and range prefetches of a core's copy unit (R283 to R293), and the tag words (R294, R295).
-/

namespace Sys2Proof.Machine

/-! ### Issue checks (R284, R285) -/

/-- A fault at issue: the copy error word with count 0 (R285). -/
def copyFlt (code cause addr : Nat) : Flt := .mk2 code (copyWord cause 0 addr)

/-- What a copy word asks for: what runs, its two sides, and its tag. -/
structure CopyReq where
  kind : CopyKind
  dst : Word
  dstS : Bool
  src : Word
  srcS : Bool
  len : Nat
  tag : Option Nat
  deriving DecidableEq, Repr

/-- The first of some values that is not a multiple of its alignment. -/
def firstOdd : List (Nat × Nat) → Option Nat
  | [] => none
  | (v, n) :: rest => if v % n != 0 then some v else firstOdd rest

/-- A scratch address at an offset within the region that an address names. -/
def atOffset (a : Word) (o : Nat) : Word := BitVec.ofNat 64 (a.toNat / 2 ^ 21 * 2 ^ 21 + o)

/-- The first of some scratch ranges that breaks R158. -/
def firstOutside (s : State) (g : Group) : List (Word × Nat) → Option Word
  | [] => none
  | (a, n) :: rest => if s.scratchOk g a n then firstOutside s g rest else some a

/-- The first of some global addresses with bits 63:52 set. -/
def firstHigh : List Word → Option Word
  | [] => none
  | a :: rest => if 2 ^ 52 ≤ a.toNat then some a else firstHigh rest

/-- Steps 4 to 6 of R285. -/
def copyPlaces (s : State) (t : Thread) (aligned : List (Nat × Nat)) (globals : List Word) (scratch : List (Word × Nat)) (r : CopyReq) :
    Except Flt CopyReq :=
  match firstOdd aligned with
  | some v => .error (copyFlt tcMisaligned 0x0A v)
  | none =>
    match firstHigh globals with
    | some a => .error (copyFlt tcProtection 0x0B a.toNat)
    | none =>
      match s.group? t.gid with
      | none => .error (copyFlt tcScratch 0x0C 0)
      | some g => match firstOutside s g scratch with
        | some a => .error (copyFlt tcScratch 0x0C a.toNat)
        | none => .ok r

/-- The checks of COPY, COPYM and COPYB after their own of the aux field (R284, R285). -/
def copyReq (s : State) (t : Thread) (w : CopyCtl) (auxOk own : Bool) (tag : Option Nat) (kind : CopyKind) (word : Option Nat) (d b : Word) :
    Except Flt CopyReq :=
  if w.bad || !auxOk || decide (2 ^ 21 < w.len) || (match tag with
      | none => w.tag != 0
      | some k => decide (s.tagCount t.gid ≤ k)) then .error (copyFlt tcCopy 0x02 0)
  else if !(w.ds || w.ss) || !own then .error (copyFlt tcCopy 0x02 0)
  else
    copyPlaces s t
      ([(d.toNat, 8), (b.toNat, 8), (w.len, 8)] ++ (match word with
        | none => []
        | some o => [(o, 8)]))
      ((if w.ds then [] else [d]) ++ (if w.ss then [] else [b]))
      ((if w.ds then [(d, w.len)] else []) ++ (if w.ss then [(b, w.len)] else []) ++ (match word with
        | none => []
        | some o => [(atOffset d o, 8)]))
      { kind := kind, dst := d, dstS := w.ds, src := b, srcS := w.ss, len := w.len, tag := tag }

/-- The aux field of COPY: none where it breaks R284, else the ring stage it asks for. -/
def ringOfAux (aux : Nat) : Option (Option (Nat × Nat)) :=
  let lo := aux % 16
  let hi := aux / 16 % 16
  if aux / 2 ^ 9 != 0 then none
  else if aux / 2 ^ 8 % 2 == 0 then (if lo == 0 && hi == 0 then some none else none)
  else if decide (1 ≤ lo ∧ lo ≤ hi ∧ hi ≤ 8) then some (some (lo, hi)) else none

/-! ### Queueing (R286, R287, R293) -/

/-- The copy entries of a core in use (R286). -/
def State.copyCount (s : State) (core : Nat) : Nat := (s.cpys.filter fun c => c.core == core && c.len != 0).length

/-- The depth of a group's ring for a stage with the given bounds: DMIN for the first, DMAX in the deterministic, record and replay modes, else
the depth clamped (R293). -/
def State.ringDepth (s : State) (g : Group) (lo hi : Nat) : Nat :=
  let mode := ((s.kernel? g.kid).map (·.lr.mode)).getD 0
  if mode != 0 then hi
  else match g.ring with
    | none => lo
    | some d => max lo (min hi d)

/-- A ring stage installs its bounds and the depth (R293). -/
def State.ringInstall (s : State) (gid lo hi started : Nat) : State :=
  s.modGroup gid fun g => { g with ring := some (s.ringDepth g lo hi), ringLo := lo, ringHi := hi, ringStarted := g.ringStarted + started }

/-- Whether a thread of a group is parked in a tag wait whose mask holds a tag (R293). -/
def State.tagWaited (s : State) (gid k : Nat) : Bool :=
  s.threads.any fun t => t.gid == gid && t.st == .parked && t.parks.any fun p => match p with
    | .tagAll m _ _ => m.getLsbD k
    | .tagAny m _ _ => m.getLsbD k
    | .mwait n _ _ => n == k
    | _ => false

/-- The idle count has reached 8: the depth falls (R293). -/
def Group.ringExpire (g : Group) : Group :=
  if g.ringIdle < 8 then g else { g with ring := some (max (g.ring.getD 0 - 1) g.ringLo), ringIdle := 0 }

/-- A ring stage on a tag ends: the depth follows what waits for it (R293). -/
def State.ringAdjust (s : State) (gid : Nat) (tag : Option Nat) (ended : Nat) : State :=
  let mode := ((s.kernelOf? gid).map (·.lr.mode)).getD 0
  let waits := s.tagWaited gid (tag.getD 0)
  s.modGroup gid fun g =>
    let g1 := { g with ringStarted := g.ringStarted - ended }
    if mode != 0 then g1
    else if waits then { g1 with ring := some (min (g1.ring.getD 0 + 1) g1.ringHi), ringIdle := 0 }
    else ({ g1 with ringIdle := g1.ringIdle + 1 } : Group).ringExpire

/-- Whether a group's regions are with its context, which is absent, saving or loading on the core, so that an access is held (R338). -/
def State.away (s : State) (h : Group) : Bool := s.saved.any fun x => x.gid == h.gid

/-- What ends with a copy of length 0: its tag, with a ring stage's part, or its arrival (R286, R293). -/
def State.emptyCopy (s : State) (t : Thread) (r : CopyReq) : State :=
  match r.kind with
  | .copyb o =>
    match (s.group? t.gid).bind fun g => s.scratchGroup? g r.dst with
    | none => s
    | some h => s.copyArrive h o t.gid
  | _ =>
    let s1 := match r.kind with
      | .copy (some (lo, hi)) => (s.ringInstall t.gid lo hi 0).ringAdjust t.gid r.tag 0
      | _ => s
    match r.tag with
    | none => s1
    | some k => s1.tagEnds t.gid k none

/-- Whether an arrival of a copy of length 0 is held at the bank (R338, R339). -/
def State.arrivalHeld (s : State) (t : Thread) (r : CopyReq) : Bool :=
  match r.kind with
  | .copyb _ => (((s.group? t.gid).bind fun g => s.scratchGroup? g r.dst).map s.away).getD false
  | _ => false

/-- A copy that passed its checks takes its entry and marks its tag (R286). A copy of length 0 takes none, and ends at once unless its arrival is held. -/
def State.queueCopy (s : State) (iss : Issue) (seq : Nat) (t : Thread) (r : CopyReq) : State :=
  let s1 := match r.tag with
    | none => s
    | some k => let x := s.tagOf t.gid k; s.modTag x.1 x.2 Tag.mark
  if r.len = 0 ∧ !s1.arrivalHeld t r then s1.emptyCopy t r
  else
    let c : Copy :=
      { id := s1.fresh, tid := t.tid, gid := t.gid, core := t.core, asid := s.asidOf t.gid, seq := seq, pc := iss.wordPc, kind := r.kind,
        dst := r.dst, dstS := r.dstS, src := r.src, srcS := r.srcS, len := r.len, tag := r.tag,
        started := decide (r.len = 0) || (match r.kind with
          | .pfr => true
          | _ => false), held := none, denied := none, acq := t.acq, acqC := t.acqC }
    { s1 with cpys := s1.cpys ++ [c], fresh := s1.fresh + 1 }

/-- A copy word for one thread: the checks of R285, the seventh last. -/
def copyOne (iss : Issue) (seq : Nat) (mk : State → Issue → Thread → Except Flt CopyReq) (s : State) (t : Thread) : State :=
  match mk s iss t with
  | .error x => s.modThread t.tid fun t => t.fault iss seq x
  | .ok r =>
    if r.len != 0 && decide (128 ≤ s.copyCount t.core) then s.modThread t.tid fun t => t.fault iss seq (copyFlt tcCopy 0x01 0)
    else s.queueCopy iss seq t r

/-- A word of the copy unit (R196, R286). -/
def copyUnitWord (g : BitVec 4) (mk : State → Issue → Thread → Except Flt CopyReq) (s : State) : Out :=
  match s.cur? with
  | none => .next s
  | some iss => .next ((s.executing iss g).foldl (copyOne iss s.fresh mk) { s with fresh := s.fresh + 1 })

/-! ### The words (R283, R284, R292, R177)

A literal in the d field is zero-extended, as R283 says of these words, though R69's table sign-extends the literal of a d field (log entry 55). -/

/-- COPY (R284). -/
def execCopy (g : BitVec 4) (d b p : BitVec 6) (s : State) : Out :=
  copyUnitWord g
    (fun s iss t =>
      let w := CopyCtl.ofWord (srcG iss t .zero p)
      copyReq s t w (ringOfAux w.aux).isSome true (some w.tag) (.copy ((ringOfAux w.aux).getD none)) none
        (srcG iss t .zero d) (srcG iss t .zero b)) s

/-- COPYM (R289). -/
def execCopym (g : BitVec 4) (d b p : BitVec 6) (s : State) : Out :=
  copyUnitWord g
    (fun s iss t =>
      let w := CopyCtl.ofWord (srcG iss t .zero p)
      let a := srcG iss t .zero d
      copyReq s t w (decide (w.aux < 16)) (w.ds && !(ScrAddr.ofWord a).x && w.aux != 0) (some w.tag) (.copym w.aux) none
        a (srcG iss t .zero b)) s

/-- COPYB (R290). -/
def execCopyb (g : BitVec 4) (d b p : BitVec 6) (s : State) : Out :=
  copyUnitWord g
    (fun s iss t =>
      let w := CopyCtl.ofWord (srcG iss t .zero p)
      copyReq s t w true w.ds none (.copyb w.aux) (some w.aux) (srcG iss t .zero d) (srcG iss t .zero b)) s

/-- GATHER (R292): pol names the pair of the table base and the control word. R285 asks multiples of 8 of both addresses of a copy or gather, R292 a destination and a
table aligned to the element and an index vector aligned to 4: of a gather the alignments of R292 alone are checked (log entry 69). -/
def execGather (g : BitVec 4) (d x p : BitVec 6) (s : State) : Out :=
  copyUnitWord g
    (fun s iss t =>
      let base := t.gr p.toNat
      let w := GatherCtl.ofWord (t.gr (p.toNat + 1))
      let dst := srcG iss t .zero d
      let idx := srcG iss t .zero x
      if w.bad || w.count == 0 || decide (4096 < w.count) || decide (s.tagCount t.gid ≤ w.tag) then .error (copyFlt tcCopy 0x02 0)
      else
        copyPlaces s t [(dst.toNat, w.esize), (idx.toNat, 4), (base.toNat, w.esize)] [base]
          [(dst, w.esize * w.count), (idx, 4 * w.count)]
          { kind := .gather w.esize w.count idx, dst := dst, dstS := true, src := base, srcS := false, len := w.esize * w.count,
            tag := some w.tag }) s

/-- PFR (R178). -/
def execPfr (g : BitVec 4) (t b l : BitVec 6) (s : State) : Out :=
  copyUnitWord g
    (fun _ iss u =>
      let a := srcG iss u .zero b
      if 2 ^ 52 ≤ a.toNat then .error (.mk2 tcProtection a)
      else .ok { kind := .pfr, dst := 0, dstS := false, src := a, srcS := false, len := (srcG iss u .zero l).toNat % 2 ^ 32,
                 tag := some t.toNat }) s

/-! ### Starting (R199, R287, R292, R293) -/

/-- Whether a ring stage has to wait for the depth (R293). -/
def State.ringFull (s : State) (c : Copy) : Bool :=
  match c.kind, s.group? c.gid with
  | .copy (some (lo, hi)), some g => decide (s.ringDepth g lo hi ≤ g.ringStarted)
  | _, _ => false

/-- A copy starts: dirty bytes of its source leave the L1, all of the context's for a gather (R199, R292); a ring stage installs its bounds
(R293). -/
def State.startCopy (s : State) (c : Copy) : State :=
  let s1 := match c.kind with
    | .gather .. => s.cleanL1 c.core (·.asid == c.asid)
    | .pfr => s
    | _ => if c.srcS then s else s.cleanL1 c.core (inRange c.asid c.src.toNat c.len)
  let s2 := match c.kind with
    | .copy (some (lo, hi)) => s1.ringInstall c.gid lo hi 1
    | _ => s1
  { s2 with cpys := s2.cpys.map fun x => if x.id = c.id then { x with started := true } else x }

def State.copy? (s : State) (id : Nat) : Option Copy := s.cpys.find? (·.id == id)

/-- COPY_START (R175, R199, R287, R293). -/
def execCopyStart (copy : Nat) (s : State) : Out :=
  match s.copy? copy with
  | none => .next s
  | some c =>
    if c.started || s.engineHeld c.tid c.seq || s.sourcePending c || !s.copyKnown c || s.ringFull c || s.footWaits c.core c.asid c.id (s.copyFoot c) then .next s
    else .next (s.startCopy c)

/-! ### Running (R288, R289, R291, R358) -/

/-- What a side of a copy meets at a global address: a home, what ends the copy there, or what holds it. -/
inductive Side where
  | home (h : Home)
  | bad (cause : Nat)
  | absent (level : Nat) (mf : Bool)
  | wait
  deriving DecidableEq, Repr

/-- The moment before which no copy of a die that a copy reads may have been filled (R288). -/
def Copy.bound (c : Copy) : Nat := max c.acq c.acqC

/-- n bytes at a global address met for reading or writing (R291); `denied` a page that the driver denied. A copy of the die serves a read as it serves a load (R288). -/
def State.copySide (s : State) (c : Copy) (denied : Option Nat) (va n : Nat) (write : Bool) : Side :=
  let allows := if write then peWR else peRD
  if 2 ^ 52 ≤ va then .bad 0x04
  else if denied == some (va / 2 ^ 12) then .bad 0x03
  else match s.homeWith (dieOf c.core) c.asid va allows with
    | .error .wait => .wait
    | .error (.bad _ _) => .bad 0x05
    | .error (.absent l mf) => .absent l mf
    | .ok h =>
      if !allows h.entry then .bad 0x04
      else if !s.stackTrained h.node h.addr || !s.frameExists h.node h.addr then .wait
      else if (if write then s.unreachable h else s.unreadable h && !s.copyServes (dieOf c.core) c.asid va n c.bound h) then .bad 0x05
      else .home h

/-- The copy reads one aligned run of n bytes at its source (R288, R296). R316 has a load from a group that has retired return 0, and gives a copy cause 0x07 where its named
group has retired, without saying whether the source counts: here a source there reads 0 and is no failure (log entry 83). -/
def State.copyRead (s : State) (c : Copy) (denied : Option Nat) (o n : Nat) : State × Except (Nat × Nat) Nat :=
  if c.srcS then
    match (s.group? c.gid).bind fun g => s.scratchGroup? g c.src with
    | none => (s, .ok 0)
    | some h =>
      let a := c.src.toNat % 2 ^ 21 + o
      (s, if s.regionBad h.core h.scratch a n then .error (0x05, a) else .ok (s.regionRead h.core h.scratch a n))
  else
    let va := c.src.toNat + o
    match s.copySide c denied va n false with
    | .home h =>
      let r := s.readL2 (dieOf c.core) c.asid (va / 64) h c.bound true 1
      (r.1, .ok (lineSlice r.2.data (va % 64) n))
    | .bad cause => (if cause = 0x05 then s.meetErrorAt (dieOf c.core) c.asid va peRD else s, .error (cause, va))
    | _ => (s, .error (0x03, va))

/-- The regions a scratch destination stands for (R288, R289, R316). -/
def State.copyTargets (s : State) (c : Copy) : List Group :=
  match c.kind with
  | .copym mask => s.maskedGroups c.gid mask
  | _ => ((s.group? c.gid).bind fun g => s.scratchGroup? g c.dst).toList

/-- Why the destination of a word cannot be written (R291). -/
def State.writeBlocked (s : State) (c : Copy) (denied : Option Nat) (o : Nat) : Option (Nat × Nat) :=
  if c.dstS then none
  else match s.copySide c denied (c.dst.toNat + o) 8 true with
    | .home _ => none
    | .bad cause => some (cause, c.dst.toNat + o)
    | _ => some (0x03, c.dst.toNat + o)

/-- One aligned run of up to 8 bytes of the destination is written whole (R200, R288); a live barrier word is not, and its offset is
answered. -/
def State.copyPut (s : State) (c : Copy) (o n v : Nat) : State × Option Nat :=
  if c.dstS then
    let p := c.dst.toNat % 2 ^ 21 + o
    (s.copyTargets c).foldl (fun (x : State × Option Nat) h =>
      if x.1.liveOver h.core h.scratch p n then (x.1, some p) else (x.1.regionWrite h.core h.scratch p v n, x.2)) (s, none)
  else
    let va := c.dst.toNat + o
    match s.copySide c none va n true with
    | .home h =>
      (s.mergeL2 (dieOf c.core) c.asid (va / 64) h (BitVec.ofNat 512 (v % 2 ^ (8 * n) * 2 ^ (8 * (va % 64)))) (byteMask (va % 64) n) 0 true 1, none)
    | _ => (s, none)

/-- Where a copy stands: the failure of R291 met first, and the first failure of any kind. -/
structure Progress where
  failed : Bool
  first : Option (Nat × Nat)
  deriving DecidableEq, Repr

def Progress.note (p : Progress) (x : Nat × Nat) (hard : Bool) : Progress :=
  { failed := p.failed || hard, first := some (p.first.getD x) }

/-- The words of a copy from index i on (R291). A word beyond the first failing one that could be written is written or not (log entry 14). -/
def copyGo (c : Copy) (denied : Option Nat) : Nat → Nat → Progress → State → State × Progress
  | 0, _, p, s => (s, p)
  | n + 1, i, p, s =>
    match s.copyRead c denied (8 * i) 8 with
    | (s1, .error x) => copyGo c denied n (i + 1) (p.note x true) s1
    | (s1, .ok v) =>
      match s1.writeBlocked c denied (8 * i) with
      | some x => copyGo c denied n (i + 1) (p.note x true) s1
      | none =>
        if p.failed && !Config.copyWordLands c.id i then copyGo c denied n (i + 1) p s1
        else
          match s1.copyPut c (8 * i) 8 v with
          | (s2, none) => copyGo c denied n (i + 1) p s2
          | (s2, some live) => copyGo c denied n (i + 1) (p.note (0x06, live) false) s2

/-- The first address from index i on that holds a copy: an absent page with its level, or a page that is moving (R358). -/
def State.copyHolds (s : State) (c : Copy) (denied : Option Nat) (places : List (Nat × Bool)) : Option (Nat × Option (Nat × Bool)) :=
  places.findSome? fun x => match s.copySide c denied x.1 1 x.2 with
    | .absent l mf => some (x.1, some (l, mf))
    | .wait => some (x.1, none)
    | _ => none

/-- A frame outside every memory that the copy would reach (R12, R352). -/
def State.copyHole? (s : State) (c : Copy) (places : List (Nat × Bool)) : Option Fault :=
  places.findSome? fun x => match s.homeWith (dieOf c.core) c.asid x.1 (if x.2 then peWR else peRD) with
    | .error _ => none
    | .ok h =>
      if s.frameExists h.node h.addr || !(if x.2 then peWR h.entry else peRD h.entry) then none else some (.noSuchMemory h.node h.addr)

/-- Answer the state, unless the copy would reach a frame that does not exist. -/
def orCopyHole (s : State) (c : Copy) (places : List (Nat × Bool)) (t : State) : Out :=
  match s.copyHole? c places with
  | some f => .fault f
  | none => .next t

/-- A copy is held at an absent page with a record of its own (R291, R358, R359). -/
def State.holdCopy (s : State) (c : Copy) (va level : Nat) (mf : Bool) : State :=
  let (s1, q) := s.putFault
    { asid := c.asid, seq := 0, va := va, kind := 5, level := level, mf := mf, core := c.core, lanes := 0, passes := 0, count := 1 }
  { s1 with cpys := s1.cpys.map fun x => if x.id = c.id then { x with held := some q } else x }

/-- The global addresses of a copy, one for each line that each side touches, sources first at each place. -/
def Copy.places (c : Copy) : List (Nat × Bool) :=
  (List.range (c.len / 64 + 2)).flatMap fun i =>
    let at' (a : Nat) : Nat := max a ((a / 64 + i) * 64)
    (if c.srcS || decide (c.src.toNat + c.len ≤ at' c.src.toNat) then [] else [(at' c.src.toNat, false)])
      ++ (if c.dstS || decide (c.dst.toNat + c.len ≤ at' c.dst.toNat) then [] else [(at' c.dst.toNat, true)])

/-- A copy ends: its entry is free, its tag or its thread learns of it (R282, R286, R290). The copy error word that a COPYB leaves in `sr.trapaddr` belongs to no tag, and the
manual does not say what its count is: here 1 (log entry 70). -/
def State.finishCopy (s : State) (c : Copy) (err : Option (Nat × Nat)) : State :=
  let s0 := match c.kind with
    | .copy (some _) => s.ringAdjust c.gid c.tag 1
    | _ => s
  let s1 : State := { s0 with cpys := s0.cpys.filter (·.id != c.id) }
  match c.tag with
  | some k => s1.tagEnds c.gid k err
  | none => match err with
    | none => s1
    | some (cause, addr) => s1.wordFault c.tid c.seq c.pc tcCopy (copyWord cause 1 addr)

/-- COPYB's arrival after its bytes (R200, R290). -/
def State.copybArrival (s : State) (c : Copy) : State :=
  match c.kind with
  | .copyb o => match (s.copyTargets c).head? with
    | none => s
    | some h => s.copyArrive h o c.gid
  | _ => s

/-- The region of a scratch address of a copy's group (R158). -/
def State.copyRegion (s : State) (c : Copy) (a : Word) : Option Group := (s.group? c.gid).bind fun g => s.scratchGroup? g a

/-- What holds a copy or a gather before it ends, with the state it is held in: an absent page, on which a record is written, unless a page of it has been
denied and it ends in failure (R291, R358); a page that cannot be reached yet; a region that is away (R338). -/
def State.copyStops (s : State) (c : Copy) (denied : Option Nat) (places : List (Nat × Bool)) (regions : List Group) : Option State :=
  if regions.any s.away then some s
  else if denied.isSome then (if places.any fun x => s.copySide c denied x.1 1 x.2 == .wait then some s else none)
  else match s.copyHolds c denied places with
    | some (va, some (l, mf)) => some (s.holdCopy c va l mf)
    | some (_, none) => some s
    | none => none

/-- A copy runs to its end, or is held (R288 to R291, R316). -/
def State.endCopy (s : State) (c : Copy) (denied : Option Nat) : State :=
  let regions := (if c.dstS then s.copyTargets c else []) ++ (if c.srcS then (s.copyRegion c c.src).toList else [])
  match s.copyStops c denied c.places regions with
  | some s1 => s1
  | none =>
    -- a masked core without a group of the launch, or a named group that has retired
    let lost := c.dstS && (match c.kind with
      | .copym mask => (List.range 4).any fun p => mask / 2 ^ p % 2 == 1 && (s.copyTargets c).all fun h => h.core % 4 != p
      | _ => (s.copyTargets c).isEmpty)
    let p0 : Progress := { failed := false, first := if lost then some (0x07, c.dst.toNat % 2 ^ 21) else none }
    let s1 := if c.dstS then s else s.dropL1 c.core (inRange c.asid c.dst.toNat c.len)
    let r := copyGo c denied (c.len / 8) 0 p0 s1
    (r.1.copybArrival c).finishCopy c r.2.first

/-- COPY_END (R288). -/
def execCopyEnd (copy : Nat) (s : State) : Out :=
  match s.copy? copy with
  | none => .next s
  | some c =>
    match c.kind with
    | .gather .. => .next s
    | .pfr => .next s
    | _ => if !c.started || c.held.isSome then .next s else orCopyHole s c c.places (s.endCopy c c.denied).pump

/-- One element of a gather: its bytes, or zero bytes and the failure (R291, R292). -/
def State.gatherElem (s : State) (c : Copy) (denied : Option Nat) (a es : Nat) : State × Except (Nat × Nat) Nat :=
  if 2 ^ 52 ≤ a then (s, .error (0x04, a))
  else ({ c with src := BitVec.ofNat 64 a, srcS := false } : Copy) |> fun c1 => s.copyRead c1 denied 0 es

/-- Whether the word of an index has an uncorrectable error (R296). -/
def State.indexBad (s : State) (c : Copy) (index : Word) (i : Nat) : Bool :=
  ((s.copyRegion c index).map fun h => s.regionBad h.core h.scratch (index.toNat % 2 ^ 21 + 4 * i) 4).getD false

/-- The elements from i on are read: their values in order and the first failure. For an element that fails bytes of value 0 are written, as R292's pseudocode has it,
where R291 writes no byte whose source could not be read (log entry 81). -/
def gatherRead (c : Copy) (denied : Option Nat) (es : Nat) (index : Word) : Nat → Nat → Progress → State → State × List Nat × Progress
  | 0, _, p, s => (s, [], p)
  | n + 1, i, p, s =>
    let r := if s.indexBad c index i then (s, .error (0x05, index.toNat % 2 ^ 21 + 4 * i))
      else s.gatherElem c denied (c.src.toNat + es * s.gatherIndex c.gid index i) es
    let x := match r.2 with
      | .ok v => (v, p)
      | .error e => (0, p.note e true)
    let rest := gatherRead c denied es index n (i + 1) x.2 r.1
    (rest.1, x.1 :: rest.2.1, rest.2.2)

/-- The block of a gather's reply is written at its destination from offset o on, each element in runs of at most 8 bytes (R200, R292). -/
def gatherWrite (c : Copy) (es : Nat) : List Nat → Nat → Progress → State → State × Progress
  | [], _, p, s => (s, p)
  | v :: vs, o, p, s =>
    let k := min es 8
    let w := (List.range (es / k)).foldl (fun (x : State × Progress) j =>
      match x.1.copyPut c (o + k * j) k (v / 2 ^ (8 * k * j) % 2 ^ (8 * k)) with
      | (s2, none) => (s2, x.2)
      | (s2, some live) => (s2, x.2.note (0x06, live) false)) (s, p)
    gatherWrite c es vs (o + es) w.2 w.1

/-- The addresses of a gather's elements, in index order. -/
def State.gatherPlaces (s : State) (c : Copy) (es count : Nat) (index : Word) : List (Nat × Bool) :=
  (List.range count).map fun i => (c.src.toNat + es * s.gatherIndex c.gid index i, false)

/-- A gather runs to its end, or is held: every element is read, then the reply is written as one block (R291, R292). -/
def State.endGather (s : State) (c : Copy) (denied : Option Nat) (es count : Nat) (index : Word) : State :=
  match s.copyStops c denied (s.gatherPlaces c es count index) (s.copyTargets c ++ (s.copyRegion c index).toList) with
  | some s1 => s1
  | none =>
    let r := gatherRead c denied es index count 0 { failed := false, first := none } s
    let w := gatherWrite c es r.2.1 0 r.2.2 r.1
    w.1.finishCopy c w.2.first

/-- GATHER_END (R292). -/
def execGatherEnd (copy : Nat) (s : State) : Out :=
  match s.copy? copy with
  | none => .next s
  | some c =>
    match c.kind with
    | .gather es count index =>
      if !c.started || c.held.isSome then .next s
      else orCopyHole s c (s.gatherPlaces c es count index) (s.endGather c c.denied es count index).pump
    | _ => .next s

/-- The lines of a range prefetch from line l on; a line that cannot be brought in is skipped (R178, R291). -/
def State.prefetchGo (s : State) (c : Copy) (line : Nat) (skipped : Option (Nat × Nat)) : Nat → State × Option (Nat × Nat)
  | 0 => (s, skipped)
  | n + 1 =>
    match s.copySide c none (64 * line) 64 false with
    | .home h => (s.readL2 (dieOf c.core) c.asid line h c.bound true 1).1.prefetchGo c (line + 1) skipped n
    | .bad 0x05 => (s.meetErrorAt (dieOf c.core) c.asid (64 * line) peRD).prefetchGo c (line + 1) (some (skipped.getD (0x09, 64 * line))) n
    | _ => s.prefetchGo c (line + 1) (some (skipped.getD (0x09, 64 * line))) n

/-- PFR_END (R291). -/
def execPfrEnd (copy : Nat) (s : State) : Out :=
  match s.copy? copy with
  | none => .next s
  | some c =>
    match c.kind with
    | .pfr =>
      let first := c.src.toNat / 64
      let last := (min (c.src.toNat + c.len) (2 ^ 52) + 63) / 64
      let r := s.prefetchGo c first none (last - first)
      .next (r.1.finishCopy c r.2)
    | _ => .next s

/-- RING_IDLE_EXPIRY (R293): the step that counts the 8th idle end takes it as well. -/
def execRingIdleExpiry (group : Nat) (s : State) : Out :=
  match s.group? group with
  | none => .next s
  | some g => if g.ringIdle < 8 then .next s else .next (s.modGroup group Group.ringExpire)

/-! ### Tag words (R294, R295) -/

/-- The mask of a tag word; a bit at or above the `.tags` count faults (R294). -/
def tagMask (s : State) (iss : Issue) (t : Thread) (b : BitVec 6) : Except Flt Word :=
  let m := srcG iss t .zero b
  if 2 ^ s.tagCount t.gid ≤ m.toNat then .error (copyFlt tcCopy 0x02 0) else .ok m

/-- A tag word for one thread. -/
def tagOne (iss : Issue) (seq : Nat) (b : BitVec 6) (f : State → Thread → Word → State) (s : State) (t : Thread) : State :=
  match tagMask s iss t b with
  | .error x => s.modThread t.tid fun t => t.fault iss seq x
  | .ok m => f s t m

/-- A tag word that acts on the tags or waits for them, in ascending cohort index. -/
def tagWord (g : BitVec 4) (b : BitVec 6) (f : Issue → Nat → State → Thread → Word → State) (s : State) : Out :=
  match s.cur? with
  | none => .next s
  | some iss => .next ((s.executing iss g).foldl (tagOne iss s.fresh b (f iss s.fresh)) { s with fresh := s.fresh + 1 })

/-- TWAITALL (R294). -/
def execTwaitall (g : BitVec 4) (b : BitVec 6) (s : State) : Out :=
  tagWord g b (fun iss seq s t m => s.tagWait t (.tagAll m iss.wordPc seq)) s

/-- TWAITANY (R294). -/
def execTwaitany (g : BitVec 4) (b : BitVec 6) (s : State) : Out :=
  tagWord g b (fun iss seq s t m =>
    if m = 0 then s.reportTags t 0 true iss.wordPc seq else s.tagWait t (.tagAny m iss.wordPc seq)) s

/-- The number of the lowest set bit, 64 when there is none (R294). -/
def lowestBit (m : Word) : Nat := ((List.range 64).find? fun i => m.getLsbD i).getD 64

/-- TFIRST (R294): like every source, the tags are those of its group's start (R71). -/
def execTfirst (g : BitVec 4) (d b : BitVec 6) (s : State) : Out :=
  fixedWord g 4 [.g b.toNat]
    (fun iss t => (tagMask s iss t b).map fun m => [.g d.toNat (BitVec.ofNat 64 (lowestBit (iss.tagsRd &&& m)))]) s

/-- A copy error that no tag wait reported is a kernel error when TCLR empties it (R295). -/
def State.emptyTag (s : State) (gid k : Nat) : State :=
  let x := s.tagOf gid k
  let s1 := match (s.tagAt x.1 x.2).err with
    | some (w, false) => s.kernelError gid tcCopy w
    | _ => s
  s1.modTag x.1 x.2 fun t => { t with ready := false, err := none }

/-- TCLR (R294). -/
def execTclr (g : BitVec 4) (b : BitVec 6) (s : State) : Out :=
  tagWord g b (fun _ _ s t m => ((List.range 64).filter fun k => m.getLsbD k).foldl (fun s k => s.emptyTag t.gid k) s) s

end Sys2Proof.Machine
end

