-- ==== Sys2Proof/Machine/Predicate.lean ====
section
/-!
DEFINITION. Integer compares, predicate logic and the cohort group (R121 to R125).
-/

namespace Sys2Proof.Machine

/-! ### Compares (R121 to R123) -/

/-- The two predicates a compare writes for a thread, from its relation (R122). -/
def pairEffs (t : Thread) (g : BitVec 4) (p : BitVec 2) (ctype : BitVec 3) (r : K3) : List Eff :=
  let k := 2 * p.toNat
  let x := combine ctype.toNat (t.guardVal g) (t.pred k) (t.pred (k + 1)) r
  [.p k x.1, .p (k + 1) x.2]

/-- The guard that decides whether a compare executes: a `.gd` compare executes for every thread that issues it (R123). -/
def cmpGuard (g : BitVec 4) (ctype : BitVec 3) : BitVec 4 := if ctype = 1 then 0 else g

/-- The predicates a compare reads. -/
def pairSrcs (p : BitVec 2) : List Reg := [.p (2 * p.toNat), .p (2 * p.toNat + 1)]

/-- An integer compare (R121). -/
def icmpWord (g : BitVec 4) (p : BitVec 2) (ctype : BitVec 3) (a b : BitVec 6) (w : Widen) (cond : Nat) (s : State) : Out :=
  fixedWord (cmpGuard g ctype) 2 (.g a.toNat :: .g b.toNat :: guardReg g :: pairSrcs p)
    (fun iss t => .ok (pairEffs t g p ctype (icmpRel cond (srcG iss t w a) (srcG iss t w b)))) s

/-- ICMP_EQ (R121). -/
def execIcmpEq (g : BitVec 4) (p : BitVec 2) (t : BitVec 3) (a b : BitVec 6) (s : State) : Out :=
  icmpWord g p t a b .sign 0 s

/-- ICMP_NE (R121). -/
def execIcmpNe (g : BitVec 4) (p : BitVec 2) (t : BitVec 3) (a b : BitVec 6) (s : State) : Out :=
  icmpWord g p t a b .sign 1 s

/-- ICMP_LT (R121). -/
def execIcmpLt (g : BitVec 4) (p : BitVec 2) (t : BitVec 3) (a b : BitVec 6) (s : State) : Out :=
  icmpWord g p t a b .sign 2 s

/-- ICMP_LE (R121). -/
def execIcmpLe (g : BitVec 4) (p : BitVec 2) (t : BitVec 3) (a b : BitVec 6) (s : State) : Out :=
  icmpWord g p t a b .sign 3 s

/-- ICMP_GT (R121). -/
def execIcmpGt (g : BitVec 4) (p : BitVec 2) (t : BitVec 3) (a b : BitVec 6) (s : State) : Out :=
  icmpWord g p t a b .sign 4 s

/-- ICMP_GE (R121). -/
def execIcmpGe (g : BitVec 4) (p : BitVec 2) (t : BitVec 3) (a b : BitVec 6) (s : State) : Out :=
  icmpWord g p t a b .sign 5 s

/-- ICMP_LTU (R121). -/
def execIcmpLtu (g : BitVec 4) (p : BitVec 2) (t : BitVec 3) (a b : BitVec 6) (s : State) : Out :=
  icmpWord g p t a b .zero 6 s

/-- ICMP_LEU (R121). -/
def execIcmpLeu (g : BitVec 4) (p : BitVec 2) (t : BitVec 3) (a b : BitVec 6) (s : State) : Out :=
  icmpWord g p t a b .zero 7 s

/-- ICMP_GTU (R121). -/
def execIcmpGtu (g : BitVec 4) (p : BitVec 2) (t : BitVec 3) (a b : BitVec 6) (s : State) : Out :=
  icmpWord g p t a b .zero 8 s

/-- ICMP_GEU (R121). -/
def execIcmpGeu (g : BitVec 4) (p : BitVec 2) (t : BitVec 3) (a b : BitVec 6) (s : State) : Out :=
  icmpWord g p t a b .zero 9 s

/-- ICMP_TST (R121). -/
def execIcmpTst (g : BitVec 4) (p : BitVec 2) (t : BitVec 3) (a b : BitVec 6) (s : State) : Out :=
  icmpWord g p t a b .sign 10 s

/-- ICMP_NTST (R121). -/
def execIcmpNtst (g : BitVec 4) (p : BitVec 2) (t : BitVec 3) (a b : BitVec 6) (s : State) : Out :=
  icmpWord g p t a b .sign 11 s

/-! ### Predicate logic (R124) -/

/-- A word that writes one predicate from others. -/
def predWord (g : BitVec 4) (d : BitVec 3) (srcs : List (BitVec 3)) (f : Thread → K3) (s : State) : Out :=
  fixedWord g 2 (srcs.map fun k => .p k.toNat) (fun _ t => .ok [.p d.toNat (f t)]) s

/-- PAND (R124). -/
def execPand (g : BitVec 4) (d a b : BitVec 3) (s : State) : Out :=
  predWord g d [a, b] (fun t => kAnd (t.pred a.toNat) (t.pred b.toNat)) s

/-- POR (R124). -/
def execPor (g : BitVec 4) (d a b : BitVec 3) (s : State) : Out :=
  predWord g d [a, b] (fun t => kOr (t.pred a.toNat) (t.pred b.toNat)) s

/-- PXOR (R124). -/
def execPxor (g : BitVec 4) (d a b : BitVec 3) (s : State) : Out :=
  predWord g d [a, b] (fun t => kXor (t.pred a.toNat) (t.pred b.toNat)) s

/-- PNOT (R124). -/
def execPnot (g : BitVec 4) (d a : BitVec 3) (s : State) : Out :=
  predWord g d [a] (fun t => kNot (t.pred a.toNat)) s

/-- PMOV (R124). -/
def execPmov (g : BitVec 4) (d a : BitVec 3) (s : State) : Out :=
  predWord g d [a] (fun t => t.pred a.toNat) s

/-- PISU (R124). -/
def execPisu (g : BitVec 4) (d a : BitVec 3) (s : State) : Out :=
  predWord g d [a] (fun t => K3.ofBool (t.pred a.toNat == .u)) s

/-- PIST (R124). -/
def execPist (g : BitVec 4) (d a : BitVec 3) (s : State) : Out :=
  predWord g d [a] (fun t => K3.ofBool (t.pred a.toNat == .t)) s

/-- PSET (R124). -/
def execPset (g : BitVec 4) (d v : BitVec 3) (s : State) : Out :=
  predWord g d [] (fun _ => K3.ofCode v.toNat) s

/-! ### The cohort group (R125) -/

/-- A participant's value of the source a. -/
def partA (iss : Issue) (a : BitVec 6) (t : Thread) : Word := srcG iss t .sign a

/-- The participants of a cohort word: the threads that issue its group and for which its guard holds. -/
def voteWord (g : BitVec 4) (d a : BitVec 6) (f : List (Nat × Word) → Word) (s : State) : Out :=
  fixedWord g 3 [.g a.toNat]
    (fun iss _ => .ok [.g d.toNat (f ((s.executing iss g).map fun t => (t.idx, partA iss a t)))]) s

/-- Bit q for each participant lo + q, q below 64, whose value is not 0. -/
def ballotOf (lo : Nat) (ps : List (Nat × Word)) : Word :=
  BitVec.ofNat 64 (ps.foldl (fun m x => if x.2 != 0 && decide (lo ≤ x.1 ∧ x.1 < lo + 64) then m ||| 2 ^ (x.1 - lo) else m) 0)

/-- A shuffle: the value of the thread `src` names, or its own where that thread is outside the cohort or does not participate. -/
def shflWord (g : BitVec 4) (d a b : BitVec 6) (src : Nat → Nat → Nat → Option Nat) (s : State) : Out :=
  fixedWord g 3 [.g a.toNat, .g b.toNat]
    (fun iss t =>
      let w := 32 * s.passesOf iss
      let own := partA iss a t
      let v := match src w t.idx (srcG iss t .sign b).toNat with
        | none => own
        | some q => ((s.executing iss g).find? fun x => x.idx == q).elim own (partA iss a)
      .ok [.g d.toNat v]) s

/-- VOTE_ALL (R125). -/
def execVoteAll (g : BitVec 4) (d a : BitVec 6) (s : State) : Out :=
  voteWord g d a (fun ps => if ps.all (fun x => x.2 != 0) then 1 else 0) s

/-- VOTE_ANY (R125). -/
def execVoteAny (g : BitVec 4) (d a : BitVec 6) (s : State) : Out :=
  voteWord g d a (fun ps => if ps.any (fun x => x.2 != 0) then 1 else 0) s

/-- BALLOT (R125). -/
def execBallot (g : BitVec 4) (d a : BitVec 6) (s : State) : Out :=
  voteWord g d a (ballotOf 0) s

/-- BALLOTU (R125). -/
def execBallotu (g : BitVec 4) (d a : BitVec 6) (s : State) : Out :=
  voteWord g d a (ballotOf 64) s

/-- SHFL_IDX (R125). -/
def execShflIdx (g : BitVec 4) (d a b : BitVec 6) (s : State) : Out :=
  shflWord g d a b (fun w _ y => some (y % w)) s

/-- SHFL_UP (R125). -/
def execShflUp (g : BitVec 4) (d a b : BitVec 6) (s : State) : Out :=
  shflWord g d a b (fun _ i y => if y ≤ i then some (i - y) else none) s

/-- SHFL_DOWN (R125). -/
def execShflDown (g : BitVec 4) (d a b : BitVec 6) (s : State) : Out :=
  shflWord g d a b (fun w i y => if i + y < w then some (i + y) else none) s

/-- SHFL_XOR (R125). -/
def execShflXor (g : BitVec 4) (d a b : BitVec 6) (s : State) : Out :=
  shflWord g d a b (fun w i y => if i ^^^ (y % 128) < w then some (i ^^^ (y % 128)) else none) s

end Sys2Proof.Machine
end

