-- ==== Sys2Proof/Machine/FloatOps.lean ====
section
/-!
DEFINITION. The point words of the F pipe (R130 to R137, R141 to R148, R154 to R156): one meaning for each, over shared operations.
-/

namespace Sys2Proof.Machine

/-! ### Shared operations -/

/-- A floating-point register's value in a format: its low bits (R131). -/
def Fmt.bitsOf (F : Fmt) (x : Word) : Nat := x.toNat % 2 ^ (F.signBit + 1)

def Thread.pt (t : Thread) (F : Fmt) (k : BitVec 6) : Fp := F.decode (F.bitsOf (t.fr k.toNat))

/-- A result in the low bits, zero above (R131). -/
def toF (d : BitVec 6) (v : Nat) : Eff := .f d.toNat (BitVec.ofNat 64 v)

def toG (d : BitVec 6) (v : Nat) : Eff := .g d.toNat (BitVec.ofNat 64 v)

/-- A point word of two sources (R135). -/
def ptBin (F : Fmt) (g : BitVec 4) (d a b : BitVec 6) (f : RMode → Fp → Fp → Nat × Nat) (s : State) : Out :=
  fpWord g 4 [.f a.toNat, .f b.toNat]
    (fun _ t => let r := f t.rmode (t.pt F a) (t.pt F b); ([toF d r.1], r.2)) s

/-- A fused word reads its destination as a third source (R130, R137). -/
def ptFused (F : Fmt) (fn : Nat) (g : BitVec 4) (d a b : BitVec 6) (s : State) : Out :=
  fpWord g 4 [.f a.toNat, .f b.toNat, .f d.toNat]
    (fun _ t => let r := F.fused t.rmode fn (t.pt F a) (t.pt F b) (t.pt F d); ([toF d r.1], r.2)) s

/-- FMIN and FMAX work on bits (R136). -/
def ptMinMax (F : Fmt) (isMax : Bool) (g : BitVec 4) (d a b : BitVec 6) (s : State) : Out :=
  fpWord g 4 [.f a.toNat, .f b.toNat]
    (fun _ t => let r := F.minMax isMax (F.bitsOf (t.fr a.toNat)) (F.bitsOf (t.fr b.toNat)); ([toF d r.1], r.2)) s

/-- Words on bits alone raise nothing (R136): the sign bit is replaced. -/
def ptSign (F : Fmt) (g : BitVec 4) (d a : BitVec 6) (more : List Reg) (sign : Thread → Nat → Nat) (s : State) : Out :=
  fixedWord g 4 (.f a.toNat :: more)
    (fun _ t =>
      let x := F.bitsOf (t.fr a.toNat)
      .ok [toF d (x % 2 ^ F.signBit + sign t (x / 2 ^ F.signBit) * 2 ^ F.signBit)]) s

/-- A point word of one source (R141). -/
def ptUn (lat : Nat) (F : Fmt) (g : BitVec 4) (d a : BitVec 6) (f : RMode → Nat → Nat × Nat) (s : State) : Out :=
  fpWord g lat [.f a.toNat]
    (fun _ t => let r := f t.rmode (F.bitsOf (t.fr a.toNat)); ([toF d r.1], r.2)) s

/-- A flagged point word: its results and the trap it may call are known at issue and take effect when it finishes (R133, R134, R343). -/
def ptFlagged (g : BitVec 4) (srcs : List Reg) (f : Thread → List Eff × Nat) (s : State) : Out :=
  opWord g true false srcs
    (fun iss t =>
      let r := f t
      let rs := fpRaisers s iss g fun _ t => f t
      .ok (.plain 0 (if t.trapped? r.2 = 0 then .fpDivSqrt (if r.2 = 0 then r.1 else r.1 ++ [.sticky r.2]) none
        else .fpDivSqrt [] (some { seq := s.fresh, code := fpCodeWord rs, addr := fpReported rs, pc := iss.wordPc, resume := none })))) s

/-- A compare of points (R148): the relation with the invalid condition, unless a `.gd` guard is F (R123). -/
def ptCmp (F : Fmt) (cond : Nat) (g : BitVec 4) (p : BitVec 2) (ctype : BitVec 3) (a b : BitVec 6) (s : State) : Out :=
  fpWord (cmpGuard g ctype) 4 (.f a.toNat :: .f b.toNat :: guardReg g :: pairSrcs p)
    (fun _ t =>
      if ctype = 1 ∧ t.guardVal g = .f then (pairEffs t g p ctype .f, 0)
      else
        let r := ptRel cond (t.pt F a) (t.pt F b)
        (pairEffs t g p ctype r.1, r.2)) s

/-- A packed word acts on the two elements of a pair and joins their exceptions (R154). -/
def packWord (g : BitVec 4) (d : BitVec 6) (srcs : List (BitVec 6)) (f : Thread → (Word → Nat) → Nat × Nat) (s : State) : Out :=
  fpWord g 4 (srcs.map fun k => .f k.toNat)
    (fun _ t =>
      let r0 := f t fun x => x.toNat % 2 ^ 16
      let r1 := f t fun x => x.toNat / 2 ^ 16 % 2 ^ 16
      ([toF d (r0.1 + r1.1 * 2 ^ 16)], r0.2 ||| r1.2)) s

/-! ### Point arithmetic (R135 to R137) -/

/-- FADD_S (R135). -/
def execFaddS (g : BitVec 4) (d a b : BitVec 6) (s : State) : Out :=
  ptBin Fmt.s g d a b Fmt.s.add s

/-- FSUB_S (R135). -/
def execFsubS (g : BitVec 4) (d a b : BitVec 6) (s : State) : Out :=
  ptBin Fmt.s g d a b (fun m x y => Fmt.s.add m x y.negate) s

/-- FMUL_S (R135). -/
def execFmulS (g : BitVec 4) (d a b : BitVec 6) (s : State) : Out :=
  ptBin Fmt.s g d a b Fmt.s.mul s

/-- FDIV_S (R135). -/
def execFdivS (g : BitVec 4) (d a b : BitVec 6) (s : State) : Out :=
  ptFlagged g [.f a.toNat, .f b.toNat]
    (fun t => let r := Fmt.s.div t.rmode (t.pt Fmt.s a) (t.pt Fmt.s b); ([toF d r.1], r.2)) s

/-- FMIN_S (R136). -/
def execFminS (g : BitVec 4) (d a b : BitVec 6) (s : State) : Out :=
  ptMinMax Fmt.s false g d a b s

/-- FMAX_S (R136). -/
def execFmaxS (g : BitVec 4) (d a b : BitVec 6) (s : State) : Out :=
  ptMinMax Fmt.s true g d a b s

/-- FCPYS_S (R135). -/
def execFcpysS (g : BitVec 4) (d a b : BitVec 6) (s : State) : Out :=
  ptSign Fmt.s g d a [.f b.toNat] (fun t _ => Fmt.s.bitsOf (t.fr b.toNat) / 2 ^ Fmt.s.signBit) s

/-- FADD_D (R135). -/
def execFaddD (g : BitVec 4) (d a b : BitVec 6) (s : State) : Out :=
  ptBin Fmt.d g d a b Fmt.d.add s

/-- FSUB_D (R135). -/
def execFsubD (g : BitVec 4) (d a b : BitVec 6) (s : State) : Out :=
  ptBin Fmt.d g d a b (fun m x y => Fmt.d.add m x y.negate) s

/-- FMUL_D (R135). -/
def execFmulD (g : BitVec 4) (d a b : BitVec 6) (s : State) : Out :=
  ptBin Fmt.d g d a b Fmt.d.mul s

/-- FDIV_D (R135). -/
def execFdivD (g : BitVec 4) (d a b : BitVec 6) (s : State) : Out :=
  ptFlagged g [.f a.toNat, .f b.toNat]
    (fun t => let r := Fmt.d.div t.rmode (t.pt Fmt.d a) (t.pt Fmt.d b); ([toF d r.1], r.2)) s

/-- FMIN_D (R136). -/
def execFminD (g : BitVec 4) (d a b : BitVec 6) (s : State) : Out :=
  ptMinMax Fmt.d false g d a b s

/-- FMAX_D (R136). -/
def execFmaxD (g : BitVec 4) (d a b : BitVec 6) (s : State) : Out :=
  ptMinMax Fmt.d true g d a b s

/-- FCPYS_D (R135). -/
def execFcpysD (g : BitVec 4) (d a b : BitVec 6) (s : State) : Out :=
  ptSign Fmt.d g d a [.f b.toNat] (fun t _ => Fmt.d.bitsOf (t.fr b.toNat) / 2 ^ Fmt.d.signBit) s

/-- FMAC_S (R137). -/
def execFmacS (g : BitVec 4) (d a b : BitVec 6) (s : State) : Out :=
  ptFused Fmt.s 0 g d a b s

/-- FMSC_S (R137). -/
def execFmscS (g : BitVec 4) (d a b : BitVec 6) (s : State) : Out :=
  ptFused Fmt.s 1 g d a b s

/-- FNMAC_S (R137). -/
def execFnmacS (g : BitVec 4) (d a b : BitVec 6) (s : State) : Out :=
  ptFused Fmt.s 2 g d a b s

/-- FNMSC_S (R137). -/
def execFnmscS (g : BitVec 4) (d a b : BitVec 6) (s : State) : Out :=
  ptFused Fmt.s 3 g d a b s

/-- FMAC_D (R137). -/
def execFmacD (g : BitVec 4) (d a b : BitVec 6) (s : State) : Out :=
  ptFused Fmt.d 0 g d a b s

/-- FMSC_D (R137). -/
def execFmscD (g : BitVec 4) (d a b : BitVec 6) (s : State) : Out :=
  ptFused Fmt.d 1 g d a b s

/-- FNMAC_D (R137). -/
def execFnmacD (g : BitVec 4) (d a b : BitVec 6) (s : State) : Out :=
  ptFused Fmt.d 2 g d a b s

/-- FNMSC_D (R137). -/
def execFnmscD (g : BitVec 4) (d a b : BitVec 6) (s : State) : Out :=
  ptFused Fmt.d 3 g d a b s

/-- FP_DIVIDE_SQRT_COMPLETE (R134). -/
def execFpDivideSqrtComplete (op : Nat) (s : State) : Out :=
  match s.op? op with
  | some o => match o.kind with
    | .fpDivSqrt es none => .next (s.finishOp o 0 es)
    | .fpDivSqrt _ (some x) => .next (s.flaggedFault o x)
    | _ => .next s
  | none => .next s

/-! ### Functions (R141 to R143) -/

/-- FABS_S (R141). -/
def execFabsS (g : BitVec 4) (d a : BitVec 6) (s : State) : Out :=
  ptSign Fmt.s g d a [] (fun _ _ => 0) s

/-- FNEG_S (R141). -/
def execFnegS (g : BitVec 4) (d a : BitVec 6) (s : State) : Out :=
  ptSign Fmt.s g d a [] (fun _ x => 1 - x) s

/-- FSQRT_S (R141). -/
def execFsqrtS (g : BitVec 4) (d a : BitVec 6) (s : State) : Out :=
  ptFlagged g [.f a.toNat]
    (fun t => let r := Fmt.s.sqrt t.rmode (t.pt Fmt.s a); ([toF d r.1], r.2)) s

/-- FRCP_S (R141). -/
def execFrcpS (g : BitVec 4) (d a : BitVec 6) (s : State) : Out :=
  ptUn 8 Fmt.s g d a (fun m x => Fmt.s.rcp m (Fmt.s.decode x)) s

/-- FRSQ_S (R141). -/
def execFrsqS (g : BitVec 4) (d a : BitVec 6) (s : State) : Out :=
  ptUn 8 Fmt.s g d a (fun m x => Fmt.s.rsq m (Fmt.s.decode x)) s

/-- FEXP2_S (R142). -/
def execFexp2S (g : BitVec 4) (d a : BitVec 6) (s : State) : Out :=
  ptUn 8 Fmt.s g d a (fun _ x => Fmt.s.exp2 x) s

/-- FLOG2_S (R142). -/
def execFlog2S (g : BitVec 4) (d a : BitVec 6) (s : State) : Out :=
  ptUn 8 Fmt.s g d a (fun _ x => Fmt.s.log2 x) s

/-- FSIN_S (R142). -/
def execFsinS (g : BitVec 4) (d a : BitVec 6) (s : State) : Out :=
  ptUn 8 Fmt.s g d a (fun _ x => Fmt.s.trig false x) s

/-- FCOS_S (R142). -/
def execFcosS (g : BitVec 4) (d a : BitVec 6) (s : State) : Out :=
  ptUn 8 Fmt.s g d a (fun _ x => Fmt.s.trig true x) s

/-- FRND_S (R141). -/
def execFrndS (g : BitVec 4) (d a : BitVec 6) (s : State) : Out :=
  ptUn 4 Fmt.s g d a (fun m x => Fmt.s.rnd m (Fmt.s.decode x)) s

/-- FCLASS_S (R143). -/
def execFclassS (g : BitVec 4) (d a : BitVec 6) (s : State) : Out :=
  fixedWord g 4 [.f a.toNat] (fun _ t => .ok [toG d (2 ^ Fmt.s.classBit (Fmt.s.bitsOf (t.fr a.toNat)))]) s

/-- FABS_D (R141). -/
def execFabsD (g : BitVec 4) (d a : BitVec 6) (s : State) : Out :=
  ptSign Fmt.d g d a [] (fun _ _ => 0) s

/-- FNEG_D (R141). -/
def execFnegD (g : BitVec 4) (d a : BitVec 6) (s : State) : Out :=
  ptSign Fmt.d g d a [] (fun _ x => 1 - x) s

/-- FSQRT_D (R141). -/
def execFsqrtD (g : BitVec 4) (d a : BitVec 6) (s : State) : Out :=
  ptFlagged g [.f a.toNat]
    (fun t => let r := Fmt.d.sqrt t.rmode (t.pt Fmt.d a); ([toF d r.1], r.2)) s

/-- FRCP_D (R141). -/
def execFrcpD (g : BitVec 4) (d a : BitVec 6) (s : State) : Out :=
  ptUn 8 Fmt.d g d a (fun m x => Fmt.d.rcp m (Fmt.d.decode x)) s

/-- FRSQ_D (R141). -/
def execFrsqD (g : BitVec 4) (d a : BitVec 6) (s : State) : Out :=
  ptUn 8 Fmt.d g d a (fun m x => Fmt.d.rsq m (Fmt.d.decode x)) s

/-- FEXP2_D (R142). -/
def execFexp2D (g : BitVec 4) (d a : BitVec 6) (s : State) : Out :=
  ptUn 8 Fmt.d g d a (fun _ x => Fmt.d.exp2 x) s

/-- FLOG2_D (R142). -/
def execFlog2D (g : BitVec 4) (d a : BitVec 6) (s : State) : Out :=
  ptUn 8 Fmt.d g d a (fun _ x => Fmt.d.log2 x) s

/-- FSIN_D (R142). -/
def execFsinD (g : BitVec 4) (d a : BitVec 6) (s : State) : Out :=
  ptUn 8 Fmt.d g d a (fun _ x => Fmt.d.trig false x) s

/-- FCOS_D (R142). -/
def execFcosD (g : BitVec 4) (d a : BitVec 6) (s : State) : Out :=
  ptUn 8 Fmt.d g d a (fun _ x => Fmt.d.trig true x) s

/-- FRND_D (R141). -/
def execFrndD (g : BitVec 4) (d a : BitVec 6) (s : State) : Out :=
  ptUn 4 Fmt.d g d a (fun m x => Fmt.d.rnd m (Fmt.d.decode x)) s

/-- FCLASS_D (R143). -/
def execFclassD (g : BitVec 4) (d a : BitVec 6) (s : State) : Out :=
  fixedWord g 4 [.f a.toNat] (fun _ t => .ok [toG d (2 ^ Fmt.d.classBit (Fmt.d.bitsOf (t.fr a.toNat)))]) s

/-! ### Conversions and moves (R144 to R146) -/

/-- The integer codes of R86 (0 I32, 1 U32, 2 I64, 3 U64): width and signedness. -/
def intBits (x : BitVec 3) : Nat := if x.toNat < 2 then 32 else 64
def intSigned (x : BitVec 3) : Bool := x.toNat % 2 == 0

/-- A conversion to an integer writes a general register: an I32 result sign-extended, a U32 result zero-extended (R145). -/
def toIntWord (g : BitVec 4) (d a : BitVec 6) (x y : BitVec 3) (mode : Thread → RMode) (s : State) : Out :=
  fpWord g 4 [.f a.toNat]
    (fun _ t =>
      let r := toInteger (intSigned x) (intBits x) (mode t) (t.pt (Fmt.ofCode y.toNat) a)
      ([.g d.toNat (BitVec.ofInt 64 r.1)], r.2)) s

/-- FCVT_FLOAT (R144). -/
def execFcvtFloat (g : BitVec 4) (d a : BitVec 6) (x y : BitVec 3) (s : State) : Out :=
  fpWord g 4 [.f a.toNat]
    (fun _ t =>
      let src := Fmt.ofCode y.toNat
      let r := convert (Fmt.ofCode x.toNat) src (decide (4 ≤ x.toNat)) t.rmode (src.bitsOf (t.fr a.toNat))
      ([toF d r.1], r.2)) s

/-- FCVT_TO_INT (R145). -/
def execFcvtToInt (g : BitVec 4) (d a : BitVec 6) (x y : BitVec 3) (s : State) : Out :=
  toIntWord g d a x y Thread.rmode s

/-- FCVTZ (R145). -/
def execFcvtz (g : BitVec 4) (d a : BitVec 6) (x y : BitVec 3) (s : State) : Out :=
  toIntWord g d a x y (fun _ => .rtz) s

/-- FCVT_FROM_INT (R145). -/
def execFcvtFromInt (g : BitVec 4) (d a : BitVec 6) (x y : BitVec 3) (s : State) : Out :=
  fpWord g 4 [.g a.toNat]
    (fun iss t =>
      let v := srcG iss t (if x.toNat % 2 = 1 then .zero else .sign) a
      let n : Int := if intSigned x then sextInt v.toNat (intBits x) else (v.toNat % 2 ^ intBits x : Nat)
      let r := (Fmt.ofCode y.toNat).round t.rmode (Fp.ofInt n 0 false)
      ([toF d r.1], r.2)) s

/-- FMOV_GF (R146). -/
def execFmovGf (g : BitVec 4) (d a : BitVec 6) (s : State) : Out :=
  fixedWord g 4 [.g a.toNat] (fun iss t => .ok [.f d.toNat (srcG iss t .sign a)]) s

/-- FMOV_FG (R146). -/
def execFmovFg (g : BitVec 4) (d a : BitVec 6) (s : State) : Out :=
  fixedWord g 4 [.f a.toNat] (fun _ t => .ok [.g d.toNat (t.fr a.toNat)]) s

/-! ### Compares (R147, R148) -/

/-- FCMP_EQ_S (R148). -/
def execFcmpEqS (g : BitVec 4) (p : BitVec 2) (t : BitVec 3) (a b : BitVec 6) (s : State) : Out :=
  ptCmp Fmt.s 0 g p t a b s

/-- FCMP_NE_S (R148). -/
def execFcmpNeS (g : BitVec 4) (p : BitVec 2) (t : BitVec 3) (a b : BitVec 6) (s : State) : Out :=
  ptCmp Fmt.s 1 g p t a b s

/-- FCMP_LT_S (R148). -/
def execFcmpLtS (g : BitVec 4) (p : BitVec 2) (t : BitVec 3) (a b : BitVec 6) (s : State) : Out :=
  ptCmp Fmt.s 2 g p t a b s

/-- FCMP_LE_S (R148). -/
def execFcmpLeS (g : BitVec 4) (p : BitVec 2) (t : BitVec 3) (a b : BitVec 6) (s : State) : Out :=
  ptCmp Fmt.s 3 g p t a b s

/-- FCMP_GT_S (R148). -/
def execFcmpGtS (g : BitVec 4) (p : BitVec 2) (t : BitVec 3) (a b : BitVec 6) (s : State) : Out :=
  ptCmp Fmt.s 4 g p t a b s

/-- FCMP_GE_S (R148). -/
def execFcmpGeS (g : BitVec 4) (p : BitVec 2) (t : BitVec 3) (a b : BitVec 6) (s : State) : Out :=
  ptCmp Fmt.s 5 g p t a b s

/-- FCMP_UN_S (R148). -/
def execFcmpUnS (g : BitVec 4) (p : BitVec 2) (t : BitVec 3) (a b : BitVec 6) (s : State) : Out :=
  ptCmp Fmt.s 6 g p t a b s

/-- FCMP_ORD_S (R148). -/
def execFcmpOrdS (g : BitVec 4) (p : BitVec 2) (t : BitVec 3) (a b : BitVec 6) (s : State) : Out :=
  ptCmp Fmt.s 7 g p t a b s

/-- FCMP_EQ_D (R148). -/
def execFcmpEqD (g : BitVec 4) (p : BitVec 2) (t : BitVec 3) (a b : BitVec 6) (s : State) : Out :=
  ptCmp Fmt.d 0 g p t a b s

/-- FCMP_NE_D (R148). -/
def execFcmpNeD (g : BitVec 4) (p : BitVec 2) (t : BitVec 3) (a b : BitVec 6) (s : State) : Out :=
  ptCmp Fmt.d 1 g p t a b s

/-- FCMP_LT_D (R148). -/
def execFcmpLtD (g : BitVec 4) (p : BitVec 2) (t : BitVec 3) (a b : BitVec 6) (s : State) : Out :=
  ptCmp Fmt.d 2 g p t a b s

/-- FCMP_LE_D (R148). -/
def execFcmpLeD (g : BitVec 4) (p : BitVec 2) (t : BitVec 3) (a b : BitVec 6) (s : State) : Out :=
  ptCmp Fmt.d 3 g p t a b s

/-- FCMP_GT_D (R148). -/
def execFcmpGtD (g : BitVec 4) (p : BitVec 2) (t : BitVec 3) (a b : BitVec 6) (s : State) : Out :=
  ptCmp Fmt.d 4 g p t a b s

/-- FCMP_GE_D (R148). -/
def execFcmpGeD (g : BitVec 4) (p : BitVec 2) (t : BitVec 3) (a b : BitVec 6) (s : State) : Out :=
  ptCmp Fmt.d 5 g p t a b s

/-- FCMP_UN_D (R148). -/
def execFcmpUnD (g : BitVec 4) (p : BitVec 2) (t : BitVec 3) (a b : BitVec 6) (s : State) : Out :=
  ptCmp Fmt.d 6 g p t a b s

/-- FCMP_ORD_D (R148). -/
def execFcmpOrdD (g : BitVec 4) (p : BitVec 2) (t : BitVec 3) (a b : BitVec 6) (s : State) : Out :=
  ptCmp Fmt.d 7 g p t a b s

/-! ### Packed, codebook and quantising words (R154 to R156) -/

/-- HADD2 (R154). -/
def execHadd2 (g : BitVec 4) (d a b : BitVec 6) (s : State) : Out :=
  packWord g d [a, b] (fun t e => Fmt.h.add t.rmode (Fmt.h.decode (e (t.fr a.toNat))) (Fmt.h.decode (e (t.fr b.toNat)))) s

/-- HMUL2 (R154). -/
def execHmul2 (g : BitVec 4) (d a b : BitVec 6) (s : State) : Out :=
  packWord g d [a, b] (fun t e => Fmt.h.mul t.rmode (Fmt.h.decode (e (t.fr a.toNat))) (Fmt.h.decode (e (t.fr b.toNat)))) s

/-- HFMA2 (R154). -/
def execHfma2 (g : BitVec 4) (d a b : BitVec 6) (s : State) : Out :=
  packWord g d [a, b, d] (fun t e =>
    Fmt.h.fma t.rmode (Fmt.h.decode (e (t.fr a.toNat))) (Fmt.h.decode (e (t.fr b.toNat))) (Fmt.h.decode (e (t.fr d.toNat)))) s

/-- BADD2 (R154). -/
def execBadd2 (g : BitVec 4) (d a b : BitVec 6) (s : State) : Out :=
  packWord g d [a, b] (fun t e => Fmt.bf.add t.rmode (Fmt.bf.decode (e (t.fr a.toNat))) (Fmt.bf.decode (e (t.fr b.toNat)))) s

/-- BMUL2 (R154). -/
def execBmul2 (g : BitVec 4) (d a b : BitVec 6) (s : State) : Out :=
  packWord g d [a, b] (fun t e => Fmt.bf.mul t.rmode (Fmt.bf.decode (e (t.fr a.toNat))) (Fmt.bf.decode (e (t.fr b.toNat)))) s

/-- BFMA2 (R154). -/
def execBfma2 (g : BitVec 4) (d a b : BitVec 6) (s : State) : Out :=
  packWord g d [a, b, d] (fun t e =>
    Fmt.bf.fma t.rmode (Fmt.bf.decode (e (t.fr a.toNat))) (Fmt.bf.decode (e (t.fr b.toNat))) (Fmt.bf.decode (e (t.fr d.toNat)))) s

/-- The sign of coordinate i of a CB2 index: that of coordinate 7 makes the count of negatives even (R39). -/
def cbNegative (idx i : Nat) : Bool :=
  if i < 7 then idx / 2 ^ (i + 1) % 2 == 1
  else ((List.range 7).filter fun k => idx / 2 ^ (k + 1) % 2 == 1).length % 2 == 1

/-- The decoded weight of coordinate i (R40). -/
def cbWeight (idx entry i : Nat) : Int :=
  let m : Int := 2 * (entry / 4 ^ i % 4 : Nat) + 1 - (idx % 2 : Nat)
  if cbNegative idx i then -m else m

/-- The eight nibbles of CBDEC, the first n of them (R155). -/
def cbPack (idx entry : Nat) : Nat → Nat
  | 0 => 0
  | n + 1 => cbPack idx entry n + ((cbWeight idx entry n) % 16).toNat * 16 ^ n

/-- MXQ's mantissa and exceptions (R156). -/
def mxqOf (mode : RMode) (x : Fp) (e p : Nat) : Int × Nat :=
  if e = 0xFF ∨ x.isNan ∨ p < 2 ∨ 16 < p then (0, 1)
  else
    match x with
    | .inf n => (if n then -(2 ^ (p - 1)) else 2 ^ (p - 1) - 1, 1)
    | .fin n m k =>
      let r := roundInt mode n m (k + (p : Int) - 2 - ((e : Int) - 127))
      let v := satInt r.1 p
      if v ≠ r.1 then (v, 1) else (v, if r.2 then 16 else 0)
    | .nan _ => (0, 1)

/-- CBDEC (R155). -/
def execCbdec (g : BitVec 4) (d a b : BitVec 6) (s : State) : Out :=
  fixedWord g 4 [.g a.toNat, .g b.toNat]
    (fun iss t => .ok [toG d (cbPack ((srcG iss t .sign a).toNat % 2 ^ 16) ((srcG iss t .sign b).toNat % 2 ^ 16) 8)]) s

/-- MXQ (R156). -/
def execMxq (g : BitVec 4) (d a b : BitVec 6) (s : State) : Out :=
  fpWord g 4 [.f a.toNat, .g b.toNat]
    (fun iss t =>
      let k := (srcG iss t .sign b).toNat
      let r := mxqOf t.rmode (t.pt Fmt.s a) (k % 256) (k / 256 % 32)
      ([.g d.toNat (BitVec.ofInt 64 r.1)], r.2)) s

end Sys2Proof.Machine
end

