-- ==== Sys2Proof/Machine/Engine.lean ====
section
/-!
DEFINITION. The matrix engine (R252 to R279): its words, commands and units, matrix groups, convergence registers, and the exact matrix
sum (R36 to R45).
-/

namespace Sys2Proof.Machine

/-! ### Weights and rows (R36 to R40) -/

/-- The integer weights of K row k as the array uses them (R38 to R40, R42), from the rows that the decoder read. -/
def rowWeights (fmt k row book : Nat) : List Int :=
  match fmt with
  | 2 => (List.range 512).map fun n => sextInt (row / 16 ^ n % 16) 4
  | 3 => (List.range 512).map fun n => sextInt (row / 256 ^ n % 256) 8
  | 4 => (List.range 512).map fun n => sextInt (row / 65536 ^ n % 65536) 16
  | _ => (List.range 512).map fun n =>
      let idx := row / 65536 ^ n % 65536
      cbWeight idx (book / 65536 ^ (idx / 256) % 65536) (k % 8)

/-- K row k of a loaded slot. -/
def WSlot.rowAt (x : WSlot) (k : Nat) : List Int :=
  let i := if x.fmt = 5 then k / 8 else k
  rowWeights x.fmt k (x.data[i]?.getD 0) (x.book[i]?.getD 0)

/-- The shift fb of a format (R38). -/
def fbOf : Nat → Nat
  | 3 => 6
  | 4 => 14
  | _ => 1

/-- The integer used of element k of an A row, read with pa of P planes (R37). -/
def aInt (row planes pa k : Nat) : Int :=
  sextInt ((List.range pa).foldl (fun m i => m + (if row.testBit (1024 * (planes - pa + i) + k) then 2 ^ i else 0)) 0) pa

/-- The sums of block b for the 512 columns (R43). -/
def blockSums (x : WSlot) (row planes pa b : Nat) : List Int :=
  (List.range 32).foldl (fun acc i =>
    let k := 32 * b + i
    let a := aInt row planes pa k
    List.zipWith (fun s w => s + a * w) acc (x.rowAt k)) (List.replicate 512 0)

/-- Byte n of a number. -/
def byteAt (v n : Nat) : Nat := v / 256 ^ n % 256

/-- The total of one column from its 32 blocks, given as (A scale, B scale, block sum) (R43). -/
def columnTotal (pa fb : Nat) (bs : List (Nat × Nat × Int)) : Nat :=
  if bs.any fun x => x.1 == 255 || x.2.1 == 255 then Fmt.s.nan
  else
    let xs : List (Int × Int) := bs.map fun x => ((x.1 : Int) + x.2.1 - 254 - ((pa : Int) - 2) - fb, x.2.2)
    match (xs.filter fun x => x.2 != 0).map (fun x => x.1 + 36) with
    | [] => 0
    | t :: ts =>
      let lsb := ts.foldl max t - 122
      let r := xs.foldl (fun (acc : Int × Bool) x =>
        let d := x.1 - lsb
        if 0 ≤ d then (acc.1 + x.2 * 2 ^ d.toNat, acc.2)
        else
          let q := x.2 / 2 ^ (-d).toNat
          (acc.1 + q, acc.2 || decide (q * 2 ^ (-d).toNat ≠ x.2))) (0, false)
      (Fmt.s.round .rne (Fp.ofInt (2 * r.1 + (if r.2 then 1 else 0)) (lsb - 1) false)).1

/-- `block_sum` of R43: the totals of the 512 columns. -/
def blockSum (x : WSlot) (row scales planes pa : Nat) : List Nat :=
  let blocks := (List.range 32).map (blockSums x row planes pa)
  (List.range 512).map fun n =>
    columnTotal pa (fbOf x.fmt) ((withIdx 0 blocks).map fun b => (byteAt scales b.1, byteAt (x.scale[b.1]?.getD 0) n, b.2[n]?.getD 0))

/-- A row of 4-byte elements as one number, element n at bytes 4n (R42). -/
def packRow (es : List Nat) : Nat := es.foldr (fun e acc => e + 2 ^ 32 * acc) 0

/-- Element n of a row. -/
def elemAt (row n : Nat) : Nat := row / 2 ^ (32 * n) % 2 ^ 32

/-- `mmq_update_fp32` (R43). -/
def mmqFp32 (x : WSlot) (acc row scales planes pa : Nat) : Nat :=
  packRow ((withIdx 0 (blockSum x row scales planes pa)).map fun t => (Fmt.s.add .rne (Fmt.s.decode (elemAt acc t.1)) (Fmt.s.decode t.2)).1)

/-- `mmq_update_int32` (R44). -/
def mmqInt32 (x : WSlot) (acc row planes pa : Nat) : Nat :=
  let sums := ((List.range 32).map (blockSums x row planes pa)).foldl (fun a b => List.zipWith (· + ·) a b) (List.replicate 512 0)
  packRow ((withIdx 0 sums).map fun t =>
    let v : Int := max (-2 ^ 31) (min (2 ^ 31 - 1) (sextInt (elemAt acc t.1) 32 + t.2))
    (v % 2 ^ 32).toNat)

/-! ### Fault words and matrix groups (R266, R277) -/

/-- A fault word (R277). -/
def mxWord (cause tid index progress : Nat) : Word :=
  BitVec.ofNat 64 (cause + index % 256 * 2 ^ 8 + progress * 2 ^ 16 + tid * 2 ^ 32)

/-- A fault raised at issue (R258, R277). -/
def mxFlt (cause tid : Nat) : Flt := .mk2 tcMatrix (mxWord cause tid 255 0)

/-- A closed group whose commands have all ended is over: its tag is completed for it; a faulted one is kept for MWAIT (R266, R267). -/
def State.groupEnds (s : State) (m : Nat) : State :=
  match s.mgroups.find? (·.id == m) with
  | none => s
  | some g =>
    match g.closed with
    | none => s
    | some tag =>
      if g.done || s.cmds.any (·.grp == m) then s
      else
        let s1 : State := { s with
          mgroups := if g.fault.isNone then s.mgroups.filter (·.id != m)
            else s.mgroups.map fun x => if x.id = m then { x with done := true } else x }
        match tag with
        | none => s1
        | some n => s1.tagEnds g.gid n none

/-- A command completes (R263). -/
def State.endCmd (s : State) (c : Cmd) : State :=
  ({ s with cmds := s.cmds.filter (·.id != c.id) } : State).groupEnds c.grp

/-- A command faults: the fault word is kept with its group, and the group's later commands that have not started are cancelled (R266). -/
def State.faultCmd (s : State) (c : Cmd) (cause tid : Nat) : State :=
  let w := mxWord cause tid c.index c.progress
  let s1 : State := { s with
    mgroups := s.mgroups.map fun x => if x.id = c.grp then { x with fault := some (x.fault.getD w) } else x
    cmds := s.cmds.filter fun x => x.id != c.id && !(x.grp == c.grp && decide (c.id < x.id) && !x.started) }
  s1.groupEnds c.grp

/-! ### Queueing (R258, R263) -/

/-- The most commands a core holds (R263). -/
def cmdLimit : Nat := 256

/-- The open group of a thread, opened when there is none (R266). -/
def State.openGroup (s : State) (t : Thread) : State × Nat :=
  match (s.thread? t.tid).bind (·.matGrp) with
  | some m => (s, m)
  | none =>
    let m : MGroup :=
      { id := s.fresh, tid := t.tid, gid := t.gid, core := t.core, queued := 0, closed := none, done := false, fault := none,
        reported := false }
    ({ s.modThread t.tid (fun t => { t with matGrp := some s.fresh }) with mgroups := s.mgroups ++ [m], fresh := s.fresh + 1 }, s.fresh)

/-- What a thread queues: the command and the convergence register it waits on. -/
structure CmdReq where
  kind : CmdKind
  cv : Option Nat
  deriving DecidableEq, Repr

/-- One thread queues its command; into a faulted group it is cancelled at once (R266). -/
def State.queueCmd (s : State) (t : Thread) (seq : Nat) (r : CmdReq) : State :=
  let (s1, m) := s.openGroup t
  match s1.mgroups.find? (·.id == m) with
  | none => s1
  | some g =>
    let s2 : State := { s1 with mgroups := s1.mgroups.map fun x => if x.id = m then { x with queued := x.queued + 1 } else x }
    if g.fault.isSome then s2
    else
      let c : Cmd :=
        { id := s2.fresh, tid := t.tid, gid := t.gid, core := t.core, asid := s.asidOf t.gid, grp := m, index := g.queued, seq := seq,
          cv := r.cv, kind := r.kind, started := false, progress := 0, snap := [], stop := none }
      { s2 with cmds := s2.cmds ++ [c], fresh := s2.fresh + 1 }

/-- The commands of a context that a core holds. -/
def State.cmdCount (s : State) (core asid : Nat) : Nat := (s.cmds.filter fun c => c.core == core && c.asid == asid).length

/-- An engine word for one thread: a fault at issue, or a command queued (R258, R263). Its operands are checked before the room in the queue, and a word's
own operand words before its addresses (log entry 54). -/
def engineOne (iss : Issue) (seq : Nat) (mk : Issue → Thread → Except Flt CmdReq) (s : State) (t : Thread) : State :=
  match mk iss t with
  | .error x => s.modThread t.tid fun t => t.fault iss seq x
  | .ok r =>
    if cmdLimit ≤ s.cmdCount t.core (s.asidOf t.gid) then s.modThread t.tid fun t => t.fault iss seq (mxFlt 0x09 0)
    else s.queueCmd t seq r

/-- An engine word (R263). -/
def engineWord (g : BitVec 4) (mk : Issue → Thread → Except Flt CmdReq) (s : State) : Out :=
  match s.cur? with
  | none => .next s
  | some iss => .next ((s.executing iss g).foldl (engineOne iss s.fresh mk) { s with fresh := s.fresh + 1 })

/-- A scratch address of the group's own region with X = 0, 64-aligned (R268, R274). -/
def ownScratch (s : State) (t : Thread) (a : Word) : Except Flt Word :=
  if a.toNat % 64 != 0 then .error (.mk2 tcMisaligned a)
  else match s.group? t.gid with
    | none => .error (.mk2 tcScratch a)
    | some g => if (ScrAddr.ofWord a).x || !s.scratchOk g a 64 then .error (.mk2 tcScratch a) else .ok a

/-- The `.cvs` count of a thread's group. -/
def State.cvCount (s : State) (gid : Nat) : Nat := ((s.kernelOf? gid).map (·.lr.cvs)).getD 0

/-- The convergence register of a control word (R258). -/
def CtlWord.reg (w : CtlWord) : Option Nat := if w.ce then some w.cv else none

/-- TDEF (R268); its operand word is checked before its address (log entry 54). -/
def execTdef (g : BitVec 4) (d b p : BitVec 6) (s : State) : Out :=
  engineWord g
    (fun iss t =>
      let x := srcG iss t .sign d
      if x.toNat / 256 != 0 then .error (mxFlt 0x08 0)
      else (ownScratch s t (srcG iss t .zero b)).map fun a => { kind := .tdef x.toNat a (srcG iss t .zero p).toInt, cv := none }) s

/-- MLDB (R270). -/
def execMldb (g : BitVec 4) (d b : BitVec 6) (s : State) : Out :=
  engineWord g
    (fun iss t =>
      let w := CtlWord.ofWord (srcG iss t .sign d)
      let x := TileRef.ofWord (srcG iss t .zero b)
      if w.bad || w.pa != 0 || w.count != 0 || (w.ce && decide (s.cvCount t.gid ≤ w.cv)) || x.bad || x.first != 0 then .error (mxFlt 0x08 0)
      else .ok { kind := .mldb x.tid w.slot, cv := w.reg }) s

/-- MMQ (R271). -/
def execMmq (g : BitVec 4) (d a m : BitVec 6) (s : State) : Out :=
  engineWord g
    (fun iss t =>
      let w := CtlWord.ofWord (srcG iss t .sign d)
      let x := TileRef.ofWord (srcG iss t .zero a)
      let y := TileRef.ofWord (srcG iss t .zero m)
      if w.bad || w.pa == 1 || decide (16 < w.pa) || w.count == 0 || decide (256 < w.count)
          || (w.ce && decide (s.cvCount t.gid ≤ w.cv)) || x.bad || y.bad then .error (mxFlt 0x08 0)
      else .ok { kind := .mmq x.tid y.tid x.first y.first w.slot w.pa w.count, cv := w.reg }) s

/-- MZERO (R274). -/
def execMzero (g : BitVec 4) (b p : BitVec 6) (s : State) : Out :=
  engineWord g
    (fun iss t =>
      let x := TileRef.ofWord (srcG iss t .zero b)
      let n := CntWord.ofWord (srcG iss t .zero p)
      if x.bad || n.bad || n.out != 0 || n.count == 0 || decide (256 < n.count) then .error (mxFlt 0x08 0)
      else .ok { kind := .mzero x.tid x.first n.count, cv := none }) s

/-- MXST (R274); its operand words are checked before its address (log entry 54). -/
def execMxst (g : BitVec 4) (d b p : BitVec 6) (s : State) : Out :=
  engineWord g
    (fun iss t =>
      let x := TileRef.ofWord (srcG iss t .zero b)
      let n := CntWord.ofWord (srcG iss t .zero p)
      if x.bad || n.bad || n.out == 3 || n.count == 0 || decide (256 < n.count) then .error (mxFlt 0x08 0)
      else (ownScratch s t (srcG iss t .sign d)).map fun a => { kind := .mxst x.tid x.first n.count n.out a, cv := none }) s

/-! ### Thread words on tensors (R269, R275, R276) -/

/-- TRD (R269). -/
def execTrd (g : BitVec 4) (d t i : BitVec 6) (s : State) : Out :=
  fixedWord g 4 [.g t.toNat, .g i.toNat]
    (fun iss u =>
      let x := (srcG iss u .zero t).toNat
      let y := (srcG iss u .zero i).toNat
      if x / 256 != 0 || y / 8 != 0 then .error (mxFlt 0x08 0)
      else
        let e := (s.coreAt u.core).tidEntry (s.asidOf u.gid) x
        .ok [.g d.toNat (BitVec.ofNat 64 (e.toNat / 2 ^ (64 * y)))]) s

/-- The checks of MRD and MWR, and the byte of the accumulator region they name (R275). The rule gives the checks no order, and does not say what an element past the
accumulator region does: here the checks go format, row, evenness, and the region last, whose breach is cause 0x03 of R277 (log entry 54). -/
def accumReq (s : State) (b i : BitVec 6) (k : OpKind) (iss : Issue) (t : Thread) : Except Flt OpReq :=
  let x := TileRef.ofWord (srcG iss t .zero b)
  let y := IdxWord.ofWord (srcG iss t .zero i)
  if x.bad || y.bad then .error (mxFlt 0x08 0)
  else
    let e := s.desc t.core (s.asidOf t.gid) x.tid
    let row := x.first + y.row
    let a := recOffset e.data + 2048 * row + 4 * y.element
    let size := ((s.group? t.gid).map s.accumSize).getD 0
    if e.fmt != 6 && e.fmt != 7 then .error (mxFlt 0x01 x.tid)
    else if e.rows ≤ row then .error (mxFlt 0x02 x.tid)
    else if y.element % 2 != 0 then .error (.mk2 tcMisaligned (BitVec.ofNat 64 a))
    else if size < a + 8 then .error (mxFlt 0x03 x.tid)
    else .ok (.plain (BitVec.ofNat 64 a) k)

/-- MRD (R275). -/
def execMrd (g : BitVec 4) (d b i : BitVec 6) (s : State) : Out :=
  opWord g true false [.g b.toNat, .g i.toNat] (accumReq s b i (.mrd d.toNat)) s

/-- MWR (R275). -/
def execMwr (g : BitVec 4) (d b i : BitVec 6) (s : State) : Out :=
  opWord g false false [.g b.toNat, .g i.toNat, .g d.toNat]
    (fun iss t => accumReq s b i (.mwr (srcG iss t .sign d)) iss t) s

/-- STPL (R276). -/
def execStpl (g : BitVec 4) (d a p : BitVec 6) (s : State) : Out :=
  opWord g false false [.g d.toNat, .g a.toNat, .g p.toNat]
    (fun iss t =>
      let x := srcG iss t .zero a
      let n := (srcG iss t .zero p).toNat
      if n < 2 ∨ 16 < n then .error (mxFlt 0x08 0)
      else if x.toNat % 4 != 0 then .error (.mk2 tcMisaligned x)
      else match s.group? t.gid with
        | none => .error (.mk2 tcScratch x)
        | some grp =>
          if s.scratchOk grp x (128 * (n - 1) + 4) then .ok (.plain x (.stpl n (srcG iss t .sign d))) else .error (.mk2 tcScratch x)) s

/-! ### Convergence registers (R261, R262) -/

/-- SIGN (R262). -/
def execSign (g : BitVec 4) (n : BitVec 6) (s : State) : Out :=
  opWord g false false [] (fun _ _ => .ok (.plain 0 (.sign n.toNat))) s


/-- The convergence register that an operation acts on. -/
def OpKind.cv? : OpKind → Option Nat
  | .sign n => some n
  | .cvset n _ => some n
  | _ => none

/-- Whether an earlier word of the same register of the group is still to be applied (R262). -/
def State.cvWaits (s : State) (o : Op) : Bool :=
  s.ops.any fun p => p.gid == o.gid && decide (p.id < o.id) && p.kind.cv? == o.kind.cv?

def State.modCv (s : State) (gid n : Nat) (f : ConvReg → ConvReg) : State :=
  s.modGroup gid fun g => { g with cv := (withIdx 0 g.cv).map fun x => if x.1 = n then f x.2 else x.2 }

/-- A CVSET takes effect, unless an earlier word of its register is still to be applied (R261, R262). -/
def State.applyCvset (s : State) (id : Nat) : State :=
  match s.op? id with
  | none => s
  | some o =>
    match o.kind with
    | .cvset n e => if s.cvWaits o then s else (s.modCv o.gid n fun _ => { e := e, s := 0 }).dropOp o.id
    | _ => s

/-- CVSET (R261): it takes effect at issue, unless an earlier word of its register holds it back (R262, R348). -/
def execCvset (g : BitVec 4) (n p : BitVec 6) (s : State) : Out :=
  let s1 := s.startOps g false false [.g p.toNat] fun iss t => .ok (.plain 0 (.cvset n.toNat ((srcG iss t .zero p).toNat % 2 ^ 16)))
  .next ((List.range (s1.fresh - s.fresh)).foldl (fun s' i => s'.applyCvset (s.fresh + i)) s1)

/-- SIGN_APPLY (R262). -/
def execSignApply (op : Nat) (s : State) : Out :=
  match s.op? op with
  | none => .next s
  | some o =>
    match o.kind with
    | .sign n =>
      if s.cvWaits o || !s.gate o then .next s
      else .next ((s.modCv o.gid n fun r => { r with s := min (r.s + 1) 65535 }).dropOp o.id)
    | _ => .next s

/-- CVSET_APPLY (R261). -/
def execCvsetApply (op : Nat) (s : State) : Out := .next (s.applyCvset op)

/-! ### MCOMMIT and MWAIT (R266, R267) -/

/-- The thread's open group is closed on its tag (R266, R267). -/
def State.commitGroup (s : State) (k : Nat) (t : Thread) : State :=
  let x := s.tagOf t.gid k
  let s1 := s.modTag x.1 x.2 Tag.mark
  match (s1.thread? t.tid).bind (·.matGrp) with
  | none => s1.tagEnds t.gid k none
  | some m =>
    let s2 : State := { s1.modThread t.tid (fun t => { t with matGrp := none }) with
      mgroups := s1.mgroups.map fun g => if g.id = m then { g with closed := some (some k) } else g }
    s2.groupEnds m

/-- MCOMMIT (R267). -/
def execMcommit (g : BitVec 4) (n : BitVec 6) (s : State) : Out :=
  match s.cur? with
  | none => .next s
  | some iss => .next ((s.executing iss g).foldl (fun s t => s.commitGroup n.toNat t) s)

/-- MWAIT (R267). -/
def execMwait (g : BitVec 4) (n : BitVec 6) (s : State) : Out :=
  match s.cur? with
  | none => .next s
  | some iss => .next ((s.executing iss g).foldl (fun s' t => s'.tagWait t (.mwait n.toNat iss.wordPc s.fresh)) s)

/-! ### Starting a command (R260, R265, R270, R271, R274) -/

/-- The unit of a command: 0 the array, 1 the decoder, 2 the tile unit (R260). -/
def CmdKind.unit : CmdKind → Nat
  | .mmq .. => 0
  | .mldb .. => 1
  | _ => 2

/-- Whether a command's convergence register has fired (R261). -/
def State.fired (s : State) (c : Cmd) : Bool :=
  match c.cv with
  | none => true
  | some n => match (s.group? c.gid).bind fun g => g.cv[n]? with
    | none => true
    | some r => decide (r.e ≤ r.s)

/-- Whether a scratch store that the thread made before a TDEF is still to reach its descriptor (R199, R268). -/
def State.descPending (s : State) (c : Cmd) : Bool :=
  match c.kind with
  | .tdef _ a _ => s.ops.any fun o => o.tid == c.tid && decide (o.seq < c.seq) && o.waiting
      && (o.kind.classes / 2 % 2 == 1 || (match o.kind with
        | .binit _ => true
        | _ => false))
      && s.targetOf o == some c.gid && (match o.kind.span o.addr with
        | some (true, b, n) => decide (b < a.toNat % 2 ^ 21 + 64 ∧ a.toNat % 2 ^ 21 < b + n)
        | _ => false)
  | _ => false

/-- Whether a command meets conditions 1 and 2 of R265, on a core that runs its context and is not switching (R279), and neither a fence (R175, R196)
nor a store to its descriptor (R268) holds it. -/
def State.cmdReady (s : State) (c : Cmd) : Bool :=
  !c.started && ((s.coreAt c.core).running?.map (·.asid)) == some c.asid && !(s.coreAt c.core).restoring && (s.coreAt c.core).exchange.isNone
    && s.fired c && !s.engineHeld c.tid c.seq && !s.descPending c && !s.footWaits c.core c.asid c.id (s.cmdFoot c)

/-- Whether its unit is free and no command queued earlier is ready for it (condition 3 of R265). -/
def State.unitFree (s : State) (c : Cmd) : Bool :=
  s.cmds.all fun x => !(x.core == c.core && x.asid == c.asid && x.kind.unit == c.kind.unit)
    || (!x.started && !(decide (x.id < c.id) && s.cmdReady x))

/-- The slot of a context on a core (R259). -/
def State.wslot (s : State) (core asid n : Nat) : WSlot :=
  ((s.coreAt core).wslots.find? fun x => x.asid == asid && x.num == n).getD
    { asid := asid, num := n, st := .empty, fmt := 0, data := [], scale := [], book := [] }

def State.setWslot (s : State) (core : Nat) (x : WSlot) : State :=
  s.modCore core fun k => { k with wslots := (k.wslots.filter fun y => !(y.asid == x.asid && y.num == x.num)) ++ [x] }

/-- n bytes of a group's scratch region. -/
def State.scratchOf (s : State) (gid o n : Nat) : Nat :=
  match s.group? gid with
  | none => 0
  | some g => s.regionRead g.core g.scratch o n

def State.accumOf (s : State) (gid o n : Nat) : Nat :=
  match s.group? gid with
  | none => 0
  | some g => s.regionRead g.core g.accum o n

def State.setAccum (s : State) (gid o v n : Nat) : State :=
  match s.group? gid with
  | none => s
  | some g => s.regionWrite g.core g.accum o v n

/-- The reads of a decoder's whole run: K rows, scale rows, shape tables (R270). -/
def State.decoderReads (s : State) (gid : Nat) (e : Desc) : List Nat × List Nat × List Nat :=
  let rows := if e.fmt = 5 then 128 else 1024
  let n := bSize e.fmt / rows
  ((List.range rows).map fun k => s.scratchOf gid (recOffset e.data + n * k) n,
   (List.range 32).map fun b => s.scratchOf gid (recOffset e.scale + 512 * b) 512,
   if e.fmt = 5 then (List.range rows).map fun _ => s.scratchOf gid (recOffset e.book) 512 else [])

/-- The clock a quad's clamps ask for at a service's rate (R20, R22). -/
def Clamp.target (service : Service) (c : Clamp) : Nat :=
  match service, max c.pStep c.tStep with
  | .full, 0 => 700
  | .full, 1 => 525
  | _, _ => 350

/-- Whether a quad waits to change its clock: its arrays start no row then (R21). -/
def State.clockPending (s : State) (quad : Nat) : Bool :=
  ((s.dev.clamps[quad]?).map fun c => c.mhz != c.target s.dev.service).getD false

/-- The reads in the first cycle of row r of an MMQ: the A row and its scales (R271). -/
def State.rowReads (s : State) (c : Cmd) : List Nat :=
  match c.kind with
  | .mmq a _ afirst _ _ _ _ =>
    let e := s.desc c.core c.asid a
    let row := afirst + c.progress
    [s.scratchOf c.gid (recOffset e.data + 128 * e.planes * row) (128 * e.planes), s.scratchOf c.gid (recOffset e.scale + 32 * row) 32]
  | _ => []

/-- The next row of an MMQ starts, unless its quad waits at a row boundary to change its clock (R21, R271). -/
def State.nextRow (s : State) (c : Cmd) : List Nat := if s.clockPending (quadOf c.core) then [] else s.rowReads c

/-- Whether a command has a row of the array in progress: its operands are read and its result is not written yet (R21, R271). -/
def Cmd.inRow (c : Cmd) : Bool :=
  match c.kind with
  | .mmq .. => c.started && c.snap != []
  | _ => false

/-- Whether n bytes of a group's scratch, or of its accumulator, hold an uncorrectable error (R277). -/
def State.scratchBad (s : State) (gid o n : Nat) : Bool := ((s.group? gid).map fun g => s.regionBad g.core g.scratch o n).getD false
def State.accumBad (s : State) (gid o n : Nat) : Bool := ((s.group? gid).map fun g => s.regionBad g.core g.accum o n).getD false

/-- The sizes of a group's regions. -/
def State.regionSizes (s : State) (gid : Nat) : Nat × Nat :=
  match s.group? gid with
  | none => (0, 0)
  | some g => (s.scratchSize g, s.accumSize g)

/-- The checks at a command's start: the cause and the tid it concerns (R270, R271, R274, R277, R328). Where R271 and R274 give cause 0x03 and MXST's
formats no place in the order, the order is the model's (log entry 54). A TDEF reads its descriptor here. -/
def State.startCheck (s : State) (c : Cmd) : Option (Nat × Nat) :=
  let e (t : Nat) : Desc := s.desc c.core c.asid t
  let z := s.regionSizes c.gid
  let acc (t first count : Nat) : Option (Nat × Nat) :=
    if (e t).fmt != 6 && (e t).fmt != 7 then some (0x01, t)
    else if (e t).rows < first + count then some (0x02, t)
    else if !(e t).ok z.1 z.2 then some (0x03, t)
    else none
  match c.kind with
  | .tdef t addr _ => if s.scratchBad c.gid (addr.toNat % 2 ^ 21) 64 then some (0x07, t) else none
  | .mldb t _ =>
    if (e t).fmt < 2 ∨ 5 < (e t).fmt then some (0x01, t) else if !(e t).ok z.1 z.2 then some (0x03, t) else none
  | .mmq a m afirst mfirst slot pa count =>
    if (e a).fmt != 1 then some (0x01, a)
    else if (e m).fmt != 6 && (e m).fmt != 7 then some (0x01, m)
    else if (e a).rows < afirst + count then some (0x02, a)
    else if (e m).rows < mfirst + count then some (0x02, m)
    else if (e a).planes < pa then some (0x04, a)
    else if (s.wslot c.core c.asid slot).st != .loaded then some (0x05, 0)
    else if !(e a).ok z.1 z.2 then some (0x03, a)
    else if !(e m).ok z.1 z.2 then some (0x03, m)
    else none
  | .mzero t first count => acc t first count
  | .mxst t first count out dst =>
    match acc t first count with
    | some x => some x
    | none =>
      let n := count * (if out = 0 then 2048 else 1024)
      let o := dst.toNat % 2 ^ 21
      if out != 0 && (e t).fmt == 7 then some (0x01, t)
      else if z.1 < o + n then some (0x03, t)
      else match s.group? c.gid with
        | none => none
        | some g => if s.liveOver g.core g.scratch o n then some (0x03, t) else none

def State.modCmd (s : State) (id : Nat) (f : Cmd → Cmd) : State :=
  { s with cmds := s.cmds.map fun c => if c.id = id then f c else c }

/-- A command starts on its unit: its checks, then its first reads (R265, R268, R270, R271). -/
def State.startCmd (s : State) (c : Cmd) : State :=
  match s.startCheck c with
  | some (cause, t) =>
    let s1 := match c.kind with
      | .mldb _ slot => s.setWslot c.core { asid := c.asid, num := slot, st := .empty, fmt := 0, data := [], scale := [], book := [] }
      | _ => s
    s1.faultCmd c cause t
  | none =>
    match c.kind with
    | .tdef _ addr _ => s.modCmd c.id fun c => { c with started := true, snap := [s.scratchOf c.gid (addr.toNat % 2 ^ 21) 64] }
    | .mldb t slot =>
      let r := s.decoderReads c.gid (s.desc c.core c.asid t)
      let s1 := s.setWslot c.core { s.wslot c.core c.asid slot with st := .loading }
      s1.modCmd c.id fun c => { c with started := true, snap := r.1 ++ r.2.1 ++ r.2.2 }
    | .mmq .. => s.modCmd c.id fun c => { c with started := true, snap := s.nextRow c }
    | _ => s.modCmd c.id fun c => { c with started := true }

def State.cmd? (s : State) (id : Nat) : Option Cmd := s.cmds.find? (·.id == id)

/-- ENGINE_COMMAND_START (R265). -/
def execEngineCommandStart (cmd : Nat) (s : State) : Out :=
  match s.cmd? cmd with
  | none => .next s
  | some c => if s.cmdReady c && s.unitFree c then .next (s.startCmd c) else .next s

/-! ### Running commands -/

/-- A started command of the context that runs on the core; the other contexts' engines stand still (R279). -/
def State.running? (s : State) (cmd : Nat) : Option Cmd :=
  (s.cmd? cmd).filter fun c => c.started && s.runningAsid? c.core == some c.asid && (s.coreAt c.core).exchange.isNone
    && !(s.coreAt c.core).restoring && (match c.stop with
      | none => true
      | some n => decide (c.progress < n))

/-- At the request of a switch each unit is to stop at its next boundary (R279): after the row in progress, after a TDEF, at once for the decoder. -/
def Cmd.stopAt (c : Cmd) : Cmd :=
  if !c.started || c.stop.isSome then c
  else match c.kind with
    | .tdef .. => c
    | .mldb .. => { c with snap := [], stop := some 0 }
    | .mmq .. => { c with stop := some (if c.inRow then c.progress + 1 else c.progress) }
    | _ => { c with stop := some (c.progress + 1) }

def State.stopEngine (s : State) (core asid : Nat) : State :=
  { s with cmds := s.cmds.map fun c => if c.core = core ∧ c.asid = asid then c.stopAt else c }

/-- Whether the units of a context have reached the boundaries of R279. -/
def State.engineStopped (s : State) (core asid : Nat) : Bool :=
  s.cmds.all fun c => !(c.core == core && c.asid == asid && c.started) || (match c.stop with
    | none => false
    | some n => decide (n ≤ c.progress))

/-- The units go on from where they stopped, an abandoned MLDB from its first row (R279). -/
def State.resumeCmd (s : State) (c : Cmd) : Cmd :=
  if c.stop.isNone then c
  else match c.kind with
    | .mldb t _ =>
      let r := s.decoderReads c.gid (s.desc c.core c.asid t)
      { c with stop := none, snap := r.1 ++ r.2.1 ++ r.2.2 }
    | _ => { c with stop := none, snap := s.nextRow c }

def State.resumeEngine (s : State) (core asid : Nat) : State :=
  { s with cmds := s.cmds.map fun c => if c.core = core ∧ c.asid = asid then s.resumeCmd c else c }

/-- A TDEF writes its entry, or faults with the entry cleared (R268). -/
def State.endTdef (s : State) (c : Cmd) : State :=
  match c.kind with
  | .tdef t _ bias =>
    let z := s.regionSizes c.gid
    match (Desc.ofEntry (BitVec.ofNat 512 (c.snap[0]?.getD 0))).placed bias z.1 z.2 with
    | none => (s.modCore c.core fun k => k.setTid c.asid t 0).faultCmd c 0x06 t
    | some e => (s.modCore c.core fun k => k.setTid c.asid t e.entry).endCmd c
  | _ => s

/-- TDEF_COMPLETE (R268). -/
def execTdefComplete (cmd : Nat) (s : State) : Out :=
  match s.running? cmd with
  | none => .next s
  | some c => .next (s.endTdef c)

/-- The words of a row that a thread store changed while the decoder ran are old or new, word by word (R270, log entry 16). -/
def racedRow (id place old new : Nat) : Nat → Nat
  | 0 => 0
  | n + 1 =>
    let v := if Config.decoderSeesNew id (256 * place + n) then new else old
    racedRow id place old new n + v / 2 ^ (64 * n) % 2 ^ 64 * 2 ^ (64 * n)

/-- A row as the decoder read it. -/
def decodedRow (id place bytes old new : Nat) : Nat := if old = new then new else racedRow id place old new (bytes / 8)

/-- The rows of a list as the decoder read them. -/
def decodedRows (id place bytes : Nat) (old new : List Nat) : List Nat :=
  (withIdx place (old.zip new)).map fun x => decodedRow id x.1 bytes x.2.1 x.2.2

/-- Whether a row of codewords selects entry j of the shape table (R270). -/
def selectsEntry (row j : Nat) : Bool := (List.range 512).any fun n => row / 65536 ^ n % 65536 / 256 == j

/-- Whether a decoder's run meets an uncorrectable error, in a word that it reads: of the shape table those entries alone that its codeword rows select (R270,
R277). -/
def State.decoderBad (s : State) (gid : Nat) (e : Desc) (rows : List Nat) : Bool :=
  s.scratchBad gid (recOffset e.data) (bSize e.fmt) || s.scratchBad gid (recOffset e.scale) 16384
    || (e.fmt == 5 && (List.range 256).any fun j => s.scratchBad gid (recOffset e.book + 2 * j) 2 && rows.any fun row => selectsEntry row j)

/-- MLDB_COMPLETE (R270, R277). -/
def execMldbComplete (cmd : Nat) (s : State) : Out :=
  match s.running? cmd with
  | none => .next s
  | some c =>
    match c.kind with
    | .mldb t slot =>
      let e := s.desc c.core c.asid t
      let r := s.decoderReads c.gid e
      let n := r.1.length
      let x : WSlot :=
        { asid := c.asid, num := slot, st := .loaded, fmt := e.fmt
          data := decodedRows c.id 0 (bSize e.fmt / n) (c.snap.take n) r.1
          scale := decodedRows c.id 2048 512 ((c.snap.drop n).take 32) r.2.1
          book := decodedRows c.id 4096 512 (c.snap.drop (n + 32)) r.2.2 }
      if s.decoderBad c.gid e x.data then
        .next ((s.setWslot c.core { asid := c.asid, num := slot, st := .empty, fmt := 0, data := [], scale := [], book := [] }).faultCmd c 0x07 t)
      else .next ((s.setWslot c.core x).endCmd c)
    | _ => .next s

/-- A row of a command is done; after the last the command ends, and an MMQ reads its next A row (R260, R271, R272). -/
def State.rowDone (s : State) (c : Cmd) (count : Nat) : State :=
  let c1 := { c with progress := c.progress + 1 }
  if count ≤ c1.progress then s.endCmd c1
  else s.modCmd c.id fun _ => { c1 with snap := if c1.stop = some c1.progress then [] else s.nextRow c1 }

/-- Whether the reads of an MMQ's row in progress meet an uncorrectable error, and in which tile (R277). -/
def State.rowBad (s : State) (c : Cmd) (a m afirst mfirst q : Nat) : Option Nat :=
  let e := s.desc c.core c.asid a
  let row := afirst + c.progress
  if s.scratchBad c.gid (recOffset e.data + 128 * e.planes * row + 128 * (e.planes - q)) (128 * q)
      || s.scratchBad c.gid (recOffset e.scale + 32 * row) 32 then some a
  else if s.accumBad c.gid (recOffset (s.desc c.core c.asid m).data + 2048 * (mfirst + c.progress)) 2048 then some m
  else none

/-- MMQ_ROW (R271, R277). -/
def execMmqRow (cmd : Nat) (s : State) : Out :=
  match s.running? cmd with
  | none => .next s
  | some c =>
    match c.kind with
    | .mmq a m afirst mfirst slot pa count =>
      let planes := (s.desc c.core c.asid a).planes
      let q := if pa = 0 then planes else pa
      let e := s.desc c.core c.asid m
      let o := recOffset e.data + 2048 * (mfirst + c.progress)
      let acc := s.accumOf c.gid o 2048
      let rd := if c.snap = [] then s.rowReads c else c.snap
      let x := s.wslot c.core c.asid slot
      let new := if e.fmt = 6 then mmqFp32 x acc (rd[0]?.getD 0) (rd[1]?.getD 0) planes q else mmqInt32 x acc (rd[0]?.getD 0) planes q
      match s.rowBad c a m afirst mfirst q with
      | some t => .next (s.faultCmd c 0x07 t)
      | none => .next ((s.setAccum c.gid o new 2048).rowDone c count)
    | _ => .next s

/-- MZERO_ROW (R274). -/
def execMzeroRow (cmd : Nat) (s : State) : Out :=
  match s.running? cmd with
  | none => .next s
  | some c =>
    match c.kind with
    | .mzero t first count =>
      .next ((s.setAccum c.gid (recOffset (s.desc c.core c.asid t).data + 2048 * (first + c.progress)) 0 2048).rowDone c count)
    | _ => .next s

/-- An element as MXST writes it (R274). -/
def outElem (out v : Nat) : Nat :=
  match out with
  | 1 => (convert .bf .s false .rne v).1
  | 2 => (convert .h .s false .rne v).1
  | _ => v

/-- A row of 2-byte elements as one number. -/
def packRow16 (es : List Nat) : Nat := es.foldr (fun e acc => e + 2 ^ 16 * acc) 0

/-- MXST_ROW (R274, R277). -/
def execMxstRow (cmd : Nat) (s : State) : Out :=
  match s.running? cmd with
  | none => .next s
  | some c =>
    match c.kind with
    | .mxst t first count out dst =>
      let row := s.accumOf c.gid (recOffset (s.desc c.core c.asid t).data + 2048 * (first + c.progress)) 2048
      let n := if out = 0 then 2048 else 1024
      let v := if out = 0 then row else packRow16 ((List.range 512).map fun i => outElem out (elemAt row i))
      match s.group? c.gid with
      | none => .next s
      | some g =>
        if s.accumBad c.gid (recOffset (s.desc c.core c.asid t).data + 2048 * (first + c.progress)) 2048 then .next (s.faultCmd c 0x07 t)
        else .next ((s.regionWrite g.core g.scratch (dst.toNat % 2 ^ 21 + n * c.progress) v n).rowDone c count)
    | _ => .next s

end Sys2Proof.Machine
end

