-- ==== Sys2Proof/Machine/Groups.lean ====
section
/-!
DEFINITION. Kernels and groups: launch records (R300 to R303), acceptance, placement and retirement (R304 to R316), LAUNCH (R310 to R313), task
queues (R317 to R321) and active messages (R322 to R325).
-/

namespace Sys2Proof.Machine

/-! ### Launch records (R300 to R303) -/

/-- Bits lo .. lo + n − 1 of a word. -/
def bitsOf (w : Word) (lo n : Nat) : Nat := w.toNat / 2 ^ lo % 2 ^ n

/-- The fields of the 64 words of a launch record (R300 to R302). -/
def LaunchRec.ofWords (ws : List Word) : LaunchRec :=
  let w (i : Nat) : Word := ws[i]?.getD 0
  { gx := bitsOf (w 0) 0 21, gy := bitsOf (w 0) 21 21, gz := bitsOf (w 0) 42 21
    tx := bitsOf (w 1) 0 16, ty := bitsOf (w 1) 16 16, tz := bitsOf (w 1) 32 16
    entry := w 2, mode := bitsOf (w 3) 40 2, spawn := bitsOf (w 3) 36 4, cvs := bitsOf (w 3) 32 4, tags := bitsOf (w 3) 24 7
    nf := bitsOf (w 3) 16 7, ng := bitsOf (w 3) 8 6, width := bitsOf (w 3) 0 2
    dies := bitsOf (w 4) 32 4, l1min := bitsOf (w 4) 16 7, accum := bitsOf (w 4) 8 7, scratch := bitsOf (w 4) 0 7
    fpc := w 5, logBase := (w 6).toNat, args := (ws.drop 8).take 32 }

/-- Whether a reserved bit of the record is set (R300 to R302); the grid and group words apart. -/
def recReserved (ws : List Word) : Bool :=
  let w (i : Nat) : Word := ws[i]?.getD 0
  w 7 != 0 || (ws.drop 40).any (· != 0)
    || bitsOf (w 3) 42 22 != 0 || bitsOf (w 3) 31 1 != 0 || bitsOf (w 3) 23 1 != 0 || bitsOf (w 3) 14 2 != 0 || bitsOf (w 3) 2 6 != 0
    || bitsOf (w 4) 36 28 != 0 || bitsOf (w 4) 23 9 != 0 || bitsOf (w 4) 15 1 != 0 || bitsOf (w 4) 7 1 != 0

/-- Reserved bits and extents of the grid and group words (R300). -/
def recExtents (ws : List Word) (r : LaunchRec) : Bool :=
  bitsOf (ws[0]?.getD 0) 63 1 == 0 && bitsOf (ws[1]?.getD 0) 48 16 == 0
    && decide (1 ≤ r.gx ∧ 1 ≤ r.gy ∧ 1 ≤ r.gz ∧ 1 ≤ r.tx ∧ 1 ≤ r.ty ∧ 1 ≤ r.tz)

namespace LaunchRec

def passes (r : LaunchRec) : Nat := 2 ^ r.width
def ordinary (r : LaunchRec) : Nat := r.threads / r.cohortWidth
def groups (r : LaunchRec) : Nat := r.gx * r.gy * r.gz

def granules (r : LaunchRec) : Nat := r.regGranules + r.scratch + r.accum
def slots (r : LaunchRec) : Nat := (r.ordinary + r.spawn) * r.passes

/-- The conditions of R303 on the fields. -/
def fieldsOk (r : LaunchRec) : Bool :=
  decide (r.width ≤ 2 ∧ r.spawn ≤ 8 ∧ r.cvs ≤ 8 ∧ r.tags ≤ 64 ∧ r.nf ≤ 64 ∧ 8 ≤ r.ng ∧ r.ng ≤ 62)
    && decide (r.entry.toNat < 2 ^ 52) && r.entry.toNat % 12 == 0 && r.fpc &&& 0x1F03 == r.fpc
    && r.threads % r.cohortWidth == 0 && decide (r.threads ≤ 1536 ∧ r.slots ≤ 48 ∧ r.granules + r.l1min ≤ 128)
    && (if r.mode < 2 then r.logBase == 0 else r.logBase != 0 && r.logBase % 64 == 0)

end LaunchRec

/-- A word of a record as it stands at its home slice, which the die finds (R311). -/
def State.recWord (s : State) (die asid va : Nat) : Nat :=
  match s.homeWith die asid va peRD with
  | .ok h => s.mem.rd h.node (h.addr + va % 64) 8
  | .error _ => 0

/-- The log header of a recorded or replayed kernel (R303, R393). -/
def State.logOk (s : State) (die asid : Nat) (r : LaunchRec) : Bool :=
  if r.mode < 2 then true
  else
    let w0 := s.recWord die asid r.logBase
    w0 / 32 == 0 && decide (12 ≤ w0 % 32 ∧ w0 % 32 ≤ 30) && s.recWord die asid (r.logBase + 8) % 8 == 0
      && (List.range 4).all fun i => s.recWord die asid (r.logBase + 32 + 8 * i) == 0

/-- A valid record (R303). -/
def State.recOk (s : State) (die asid : Nat) (ws : List Word) : Bool :=
  let r := LaunchRec.ofWords ws
  !recReserved ws && recExtents ws r && r.fieldsOk && s.logOk die asid r

/-- What reading a record at its home slices meets (R311, R358): its words, an absent page, a line that ends the reading with a trap code, a frame outside
every memory, or a way that is not open yet. -/
inductive RecRead where
  | ok (ws : List Word)
  | absent (va level : Nat) (mf : Bool)
  | bad (code va : Nat)
  | hole (node addr : Nat)
  | wait
  deriving DecidableEq, Repr

/-- The first thing that stops the reading of n lines from va. -/
def State.linesStop (s : State) (die asid va : Nat) : Nat → Option RecRead
  | 0 => none
  | n + 1 =>
    if 2 ^ 52 ≤ va then some (.bad tcProtection va)
    else match s.homeWith die asid va peRD with
      | .error .wait => some .wait
      | .error (.bad _ _) => some (.bad tcUncorrectable va)
      | .error (.absent l mf) => some (.absent va l mf)
      | .ok h =>
        if !peRD h.entry then some (.bad tcProtection va)
        else if !s.frameExists h.node h.addr then some (.hole h.node h.addr)
        else if !s.stackTrained h.node h.addr then some .wait
        else if s.unreadable h then some (.bad tcUncorrectable va)
        else s.linesStop die asid (va + 64) n

/-- The 64 words of a record, and its log header where it names one (R303, R311). -/
def State.readRec (s : State) (die asid va : Nat) : RecRead :=
  match s.linesStop die asid va 8 with
  | some x => x
  | none =>
    let ws := (List.range 64).map fun i => BitVec.ofNat 64 (s.recWord die asid (va + 8 * i))
    let r := LaunchRec.ofWords ws
    if r.mode < 2 ∨ r.logBase = 0 ∨ r.logBase % 64 ≠ 0 then .ok ws
    else match s.linesStop die asid r.logBase 1 with
      | some x => x
      | none => .ok ws

/-! ### Acceptance (R304, R313) -/

/-- A read that ends with a trap code has met its line: an uncorrectable error marks it poisoned (R363). -/
def State.metBad (s : State) (die asid code va : Nat) : State := if code = tcUncorrectable then s.meetErrorAt die asid va peRD else s

/-- The most entries of a die's launch list (R311). -/
def launchLimit : Nat := 1024

def State.launchCount (s : State) (die : Nat) : Nat := (s.launches.filter fun l => l.die == die).length

/-- A kernel that has not been placed. -/
def newKernel (kid asid recAddr : Nat) (lr : LaunchRec) (src : Source) (origin : Option (Nat × Nat)) (st : KSt) : Kernel :=
  { kid := kid, asid := asid, lr := lr, recAddr := recAddr, st := st, src := src, origin := origin, nextGroup := 0, retiredGroups := 0, errors := [],
    ring := [], drain := [], streams := [], ranOn := [], held := none }

def State.modQueue (s : State) (q : Nat) (f : HQueue → HQueue) : State :=
  { s with queues := s.queues.map fun x => if x.id = q then f x else x }

/-- A started packet has ended, with a cause of failure or 0 (R368, R369); completion follows. -/
def State.packetEnds (s : State) (q idx cause : Nat) : State :=
  s.modQueue q fun x => { x with started := x.started.map fun p => if p.idx = idx then { p with ended := true, cause := cause } else p }

/-- The packet that a kernel completes (R367). -/
def State.sourceEnds (s : State) (src : Source) (cause : Nat) : State :=
  match src with
  | .queue q idx => s.packetEnds q idx cause
  | _ => s

/-- A launch entry leaves the list. -/
def State.takeLaunch (s : State) (l : LaunchReq) : State :=
  { s with launches := s.launches.erase l }

/-- The record is accepted: valid and queued, or rejected (R304). -/
def State.acceptRec (s : State) (l : LaunchReq) (lr : LaunchRec) (ok : Bool) : State :=
  let s1 := s.takeLaunch l
  let k := newKernel s1.fresh l.asid l.recAddr lr l.src l.origin (if ok then .queued else .rejected)
  let s2 : State := { s1 with kernels := s1.kernels ++ [k], fresh := s1.fresh + 1 }
  if ok then s2 else s2.sourceEnds l.src 0x02

/-- A launch record's read is held at an absent page with a record of its own (R358, R359). -/
def State.holdLaunch (s : State) (l : LaunchReq) (va level : Nat) (mf : Bool) : State :=
  let (s1, q) := s.putFault
    { asid := l.asid, seq := 0, va := va, kind := 6, level := level, mf := mf, core := l.die * 128, lanes := 0, passes := 0, count := 1 }
  { s1 with launches := s1.launches.map fun x => if x = l then { x with held := some q } else x }

/-- The dispatcher takes a launch record: it reads it where that has not been done, and accepts it, holds it at an absent page, or waits (R304, R311, R358). A packet's record that lacks
read permission or has an uncorrectable error is taken as not valid, as is one in a denied page: the kernel is rejected with cause 0x02 (log entry 82). -/
def State.takeRec (s : State) (l : LaunchReq) : Out :=
  match l.lr with
  | some r => .next (s.acceptRec l r true)
  | none =>
    match s.readRec l.die l.asid l.recAddr with
    | .ok ws => .next (s.acceptRec l (LaunchRec.ofWords ws) (l.recAddr % 64 == 0 && s.recOk l.die l.asid ws))
    | .absent va lv mf => .next (s.holdLaunch l va lv mf)
    | .bad code va => .next ((s.metBad l.die l.asid code va).acceptRec l (LaunchRec.ofWords []) false)
    | .hole node addr => .fault (.noSuchMemory node addr)
    | .wait => .next s

/-- Whether a record came from a launch packet. -/
def LaunchReq.ofPacket (l : LaunchReq) : Bool :=
  match l.src with
  | .queue .. => true
  | _ => false

/-- Whether the record of a launch packet that started earlier, on whatever die, has still to be accepted: the kernels of launch packets enter placement in the
order in which the packets start (R307, R368). -/
def State.packetTurn (s : State) (l : LaunchReq) : Bool :=
  l.ofPacket && (s.launches.find? LaunchReq.ofPacket) != some l

/-- KERNEL_RECORD_ACCEPT (R304): the dispatcher takes the records of a die in the order of its list, and one that is held keeps those after it (R313, R368). -/
def execKernelRecordAccept (die : Nat) (s : State) : Out :=
  match s.launches.find? fun l => l.die == die with
  | none => .next s
  | some l => if l.held.isSome || s.packetTurn l then .next s else s.takeRec l

/-! ### LAUNCH (R310 to R313) -/

/-- LAUNCH (R311). Of an address with bits 63:52 set that is misaligned too PROTECTION is reported, in the order in which R310 lists the faults (log entry 33). -/
def execLaunch (g : BitVec 4) (d b p : BitVec 6) (s : State) : Out :=
  opWord g true false [.g b.toNat, .g p.toNat]
    (fun iss t =>
      let a := srcG iss t .zero b
      let w := srcG iss t .zero p
      if 2 ^ 52 ≤ a.toNat then .error (.mk2 tcProtection a)
      else if a.toNat % 64 != 0 then .error (.mk2 tcMisaligned a)
      else if 2 ^ 52 ≤ w.toNat then .error (.mk2 tcProtection w)
      else if w.toNat % 8 != 0 then .error (.mk2 tcMisaligned w)
      -- g0 in the pol field names no completion word (R310)
      else .ok (.plain a (.launch d.toNat (if p = 0 then none else some w.toNat)))) s

/-- Whether an earlier LAUNCH of the core, of whatever context, has not entered the list (R313). -/
def State.launchTurn (s : State) (o : Op) : Bool :=
  s.ops.any fun p => p.core == o.core && decide (p.id < o.id) && (match p.kind with
    | .launch .. => true
    | _ => false)

/-- The packet that a thread's kernel descends from (R344). -/
def State.originOf (s : State) (gid : Nat) : Option (Nat × Nat) := (s.kernelOf? gid).bind (·.origin)

/-- LAUNCH for one thread: release, record, status (R311). -/
def State.launchOp (s : State) (o : Op) (d : Nat) (completion : Option Nat) : Out :=
  let die := dieOf o.core
  let s1 := s.fenceEffect o.tid o.seq o.core o.asid 4 true false
  match s1.readRec die o.asid o.addr.toNat with
  | .absent va l mf => .next (s1.pageFault o va l mf).pump
  | .bad code va => .next ((s1.metBad die o.asid code va).faultOp o code (BitVec.ofNat 64 va)).pump
  | .hole node addr => .fault (.noSuchMemory node addr)
  | .wait => .next s
  | .ok ws =>
    if !s1.recOk die o.asid ws then .next (s1.faultOp o tcLaunch o.addr).pump
    else if launchLimit ≤ s1.launchCount die then .next (s1.finishOp o 0 [.g d 1]).pump
    else
      let l : LaunchReq :=
        { die := die, asid := o.asid, recAddr := o.addr.toNat, src := .launch completion, origin := s1.originOf o.gid,
          lr := some (LaunchRec.ofWords ws), held := none }
      .next (({ s1 with launches := s1.launches ++ [l] } : State).finishOp o 0 [.g d 0]).pump

/-- LAUNCH_STATUS (R311). -/
def execLaunchStatus (op : Nat) (s : State) : Out :=
  match s.op? op with
  | none => .next s
  | some o =>
    match o.kind with
    | .launch d completion =>
      if !s.gate o || s.launchTurn o || s.releaseStuck o.core o.asid 4 then .next s else s.launchOp o d completion
    | _ => .next s

/-! ### Placement (R90, R92, R280, R303, R305 to R308) -/

/-- Groups that hold resources of a core. -/
def State.groupsOn (s : State) (core : Nat) : List Group := s.groups.filter fun g => g.core == core && g.st != .retired

/-- Thread slots of a core's lanes in use (R90). -/
def State.busySlots (s : State) (core : Nat) : List Nat :=
  (s.cohorts.filter fun c => c.core == core).flatMap fun c => (List.range c.passes).map (c.slot0 + ·)

/-- The lowest aligned runs of n slots for k cohorts, in order (R90). -/
def allocSlots (busy : List Nat) (n : Nat) : Nat → Option (List Nat)
  | 0 => some []
  | k + 1 =>
    match (List.range (48 / n)).find? fun i => (List.range n).all fun j => !busy.contains (i * n + j) with
    | none => none
    | some i => (allocSlots (busy ++ (List.range n).map (i * n + ·)) n k).map (i * n :: ·)

/-- Core tags of a core in use (R280). -/
def State.busyTags (s : State) (core : Nat) : List Nat :=
  (s.groupsOn core).flatMap fun g => (List.range (((s.kernel? g.kid).map (·.lr.tags)).getD 0)).map (g.tagBase + ·)

/-- The lowest run of n free tags (R280). -/
def allocTags (busy : List Nat) (n : Nat) : Option Nat :=
  (List.range 65).find? fun b => decide (b + n ≤ 64) && (List.range n).all fun i => !busy.contains (b + i)

/-- What a group gets on a core. -/
structure Fit where
  regs : List Nat
  scratch : List Nat
  accum : List Nat
  slots : List Nat
  tagBase : Nat
  deriving DecidableEq, Repr

/-- The granules of a group, in the order of its image. -/
def Group.granuleList (g : Group) : List Nat := g.regs ++ g.scratch ++ g.accum

/-- The groups resident on a core: those whose granules are not in a chrysalis area (R305, R338). -/
def State.residentOn (s : State) (core : Nat) : List Group :=
  (s.groupsOn core).filter fun g => !(s.away g && g.granuleList.isEmpty)

/-- The largest l1min of the kernels with a resident group (R305). -/
def State.l1min (s : State) (core : Nat) : Nat :=
  (s.residentOn core).foldl (fun m g => max m (((s.kernel? g.kid).map (·.lr.l1min)).getD 0)) 0

/-- The partition word of a core (R305). -/
def State.partitionWord (s : State) (core : Nat) : Nat :=
  let gs := s.residentOn core
  (gs.map fun g => g.regs.length).sum + (gs.map fun g => g.scratch.length).sum * 2 ^ 7 + (gs.map fun g => g.accum.length).sum * 2 ^ 14
    + s.l1min core * 2 ^ 21 + (if gs.isEmpty then 0 else 2 ^ 28)

/-- Whether a core can take a group, and with what (R303, R305, R307). -/
def State.fit? (s : State) (lr : LaunchRec) (kid idx core : Nat) : Option Fit := do
  let gs := s.groupsOn core
  let free := s.freeGranules core
  let cvs := (gs.map fun g => g.cv.length).sum
  if free.length < lr.granules + max lr.l1min (s.l1min core) then none
  else if 64 < cvs + lr.cvs ∨ 16 ≤ gs.length then none
  else if gs.any fun g => g.kid == kid && g.index % 2 ^ 28 == idx % 2 ^ 28 then none
  else
    let slots ← allocSlots (s.busySlots core) lr.passes (lr.ordinary + lr.spawn)
    let tagBase ← allocTags (s.busyTags core) lr.tags
    let a := lr.regGranules
    let b := a + lr.scratch
    some { regs := free.take a, scratch := (free.drop a).take lr.scratch, accum := (free.drop b).take lr.accum, slots := slots,
           tagBase := tagBase }

/-- A thread placed with its group (R93, R104, R129, R308). -/
def placedThread (lr : LaunchRec) (gid cid core idx slot0 c tid0 i : Nat) : Thread :=
  { tid := tid0 + i, gid := gid, cid := cid, core := core, lane := i % 32, slot := slot0 + i / 32, pass := i / 32, st := .runnable,
    trapped := false, pc := lr.entry, stack := [], g := .replicate 63 0, f := .replicate 64 0, p := .replicate 8 .f,
    gdep := .replicate 63 0, fdep := .replicate 64 0, pdep := .replicate 8 0, fpc := lr.fpc, hash := 0, hashRd := 0, heldRd := 0, hseq := 0,
    num := BitVec.ofNat 64 ((idx * lr.threads + lr.cohortWidth * c + i) % 2 ^ 63), trap := { code := 0, addr := 0, pc := 0, resume := 0 },
    held := [], lands := [], srPend := [], stickyNow := 0, due := [], parks := [], stopped := false, next := none, exiting := false,
    rft := false, matGrp := none, since := 0, acq := 0, acqC := 0, retAt := [], flying := [], freed := false }

/-- A cohort placed with its group; a spare one has not formed (R92). -/
def placedCohort (lr : LaunchRec) (gid core cid slot0 c : Nat) : Cohort :=
  { cid := cid, gid := gid, core := core, slot0 := slot0, passes := lr.passes, idx := c, spare := decide (lr.ordinary ≤ c), formed := false,
    retired := false, flags := .replicate 12 0, waitCount := 0, yieldNext := false, yieldedAt := none, flushEnd := false }

/-- Bytes of granules removed from the pool's store. -/
def wipe (core : Nat) (gs : List Nat) (cells : List Host.Cell) : List Host.Cell :=
  cells.filter fun c => !(c.1 / 2 ^ 21 == core && gs.contains (c.1 % 2 ^ 21 / 2 ^ 14))

/-- Granules change hands: those last held by another context are zero (R305). -/
def Pool.take (p : Pool) (core asid : Nat) (gs : List Nat) : Pool :=
  let last (g : Nat) : Option Nat := (p.lastAsid.find? (·.1 == core * 128 + g)).map (·.2)
  let foreign := gs.filter fun g => (match last g with
    | none => false
    | some a => a != asid)
  { p with
    bytes := wipe core foreign p.bytes
    lastAsid := (p.lastAsid.filter fun x => !(x.1 / 128 == core && gs.contains (x.1 % 128))) ++ gs.map fun g => (core * 128 + g, asid) }

/-- A group is placed on a core (R307, R308). -/
def State.placeGroup (s : State) (k : Kernel) (idx core : Nat) (f : Fit) : State :=
  let lr := k.lr
  let gid := s.fresh
  let cid0 := gid + 1
  let tid0 := cid0 + f.slots.length
  let g : Group :=
    { gid := gid, kid := k.kid, asid := k.asid, index := idx, core := core, st := .placed, regs := f.regs, scratch := f.scratch,
      accum := f.accum, tagBase := f.tagBase, ring := none, ringLo := 0, ringHi := 0, ringIdle := 0, ringStarted := 0, children := 0,
      cv := List.replicate lr.cvs { e := 0, s := 0 }, arrivals := [] }
  let cs := (withIdx 0 f.slots).map fun x => placedCohort lr gid core (cid0 + x.1) x.2 x.1
  let w := lr.cohortWidth
  let ts := (cs.filter fun c => !c.spare).flatMap fun c =>
    (List.range w).map fun i => placedThread lr gid c.cid core idx c.slot0 c.idx (tid0 + w * c.idx) i
  let tags (v : Vector Tag 64) : Vector Tag 64 := (List.range lr.tags).foldl (fun v i => v.setIfInBounds (f.tagBase + i) Tag.clear) v
  let s1 := s.modCore core fun c => { c with tags := tags c.tags }
  let s2 : State := { s1 with
    groups := s1.groups ++ [g], cohorts := s1.cohorts ++ cs, threads := s1.threads ++ ts
    pool := s1.pool.take core k.asid (f.regs ++ f.scratch ++ f.accum), fresh := tid0 + ts.length }
  s2.modKernel k.kid fun k =>
    { k with
      nextGroup := k.nextGroup + 1
      ranOn := setInsert core k.ranOn
      st := if k.lr.groups ≤ k.nextGroup + 1 then .running else .placing }

/-- Core number r of the rotation (R307). -/
def rotationCore (r : Nat) : Nat := r % 4 * 128 + r / 4

/-- The place of a core in the rotation. -/
def rotationOf (core : Nat) : Nat := core % 128 * 4 + core / 128

def LaunchRec.allows (lr : LaunchRec) (core : Nat) : Bool := lr.dies == 0 || lr.dies / 2 ^ dieOf core % 2 == 1

/-- The kernel whose group is offered next: the first in order of acceptance with a group to place; handler kernels stand outside (R307). -/
def State.nextKernel? (s : State) : Option Kernel :=
  s.kernels.find? fun k => (k.st == .queued || k.st == .placing) && (match k.src with
    | .handler _ _ => false
    | _ => true)

/-- The first core in the rotation that can take the next group (R307). -/
def State.offer (s : State) (k : Kernel) : Option (Nat × Fit) :=
  (List.range 512).findSome? fun i =>
    let core := rotationCore ((s.dev.rotation + i) % 512)
    if !k.lr.allows core then none
    else (s.fit? k.lr k.kid k.nextGroup core).map fun f => (core, f)

/-- A handler's record made a launch of one cohort (R322). -/
def LaunchRec.handler (r : LaunchRec) (args : List Word) : LaunchRec :=
  { r with gx := 1, gy := 1, gz := 1, tx := r.cohortWidth, ty := 1, tz := 1, args := args ++ r.args.drop args.length }

/-- A handler group is placed: a kernel of one group with the payload as its arguments (R324, R325). -/
def State.placeHandler (s : State) (m : AMsg) : Option State :=
  let lr := m.lr.handler (m.payload ++ [m.sender])
  let kid := s.fresh
  (s.fit? lr kid 0 m.core).map fun f =>
    let k := newKernel kid m.asid 0 lr (.handler m.id m.scope) m.origin .placing
    let s1 : State := { s with kernels := s.kernels ++ [k], fresh := s.fresh + 1, amsgs := s.amsgs.filter (·.id != m.id) }
    s1.placeGroup k 0 m.core f

/-- The handler group of a message is placed where its core can take it; the entries of a core are served in order of arrival (R324). -/
def State.tryHandler (s : State) (m : AMsg) : State :=
  if s.amsgs.any fun x => x.core == m.core && decide (x.id < m.id) then s
  else (s.placeHandler m).getD s

/-- GROUP_PLACE (R307): handler groups that can be placed go ahead of the ordinary group (R324). -/
def execGroupPlace (s : State) : Out :=
  let s0 := s.amsgs.foldl State.tryHandler s
  match s0.nextKernel? with
  | none => .next s0
  | some k =>
    match s0.offer k with
    | none => .next s0
    | some (core, f) =>
      let s1 := s0.placeGroup k k.nextGroup core f
      .next { s1 with dev := { s1.dev with rotation := (rotationOf core + 1) % 512 } }

/-- The L1 lines in the granules that a group takes are removed (R309). -/
def State.reclaim (s : State) (g : Group) : State :=
  s.dropL1 g.core fun l => (g.regs ++ g.scratch ++ g.accum).contains l.granule

/-- What a group's threads start from: a handler's core performs the acquire of R325, as the fence of R176; the threads of another group read no copy filled before
now, and no line outside the granules that the group takes leaves the L1 (R309, R311). With it the moment before which their reads use no copy. -/
def State.startAcquire (s : State) (g : Group) (src : Source) : State × Nat :=
  match src with
  | .handler _ scope =>
    let s1 := s.fenceEffect 0 0 g.core g.asid scope false true
    (s1, if 4 ≤ scope then s1.fresh - 1 else s1.relBound (dieOf g.core) g.asid)
  | _ => ({ s with fresh := s.fresh + 2 }, s.fresh + 1)

/-- GROUP_START (R314): the L1 reclaim of R309 is done, and the cohorts may issue. -/
def execGroupStart (group : Nat) (s : State) : Out :=
  match s.group? group with
  | none => .next s
  | some g =>
    if g.st != .placed || s.runningAsid? g.core != some g.asid then .next s
    else
      let s1 := s.reclaim g
      let (s2, bound) := s1.startAcquire g (((s1.kernel? g.kid).map (·.src)).getD (.launch none))
      let own := (s2.cohorts.filter fun c => c.gid == group && !c.spare).map (·.cid)
      let s3 : State := { (s2.modGroup group fun g => { g with st := .running }) with
        cohorts := s2.cohorts.map fun c => if own.contains c.cid then { c with formed := true } else c
        threads := s2.threads.map fun t => if t.gid = group then { t with acq := bound } else t
        fresh := s2.fresh + 1 }
      .next (if s3.deterministic group then s3 else s3.modSlot g.core g.asid fun x => { x with pending := x.pending ++ own })

/-! ### Retirement (R201, R312, R314, R315, R317, R325) -/

/-- Whether every cohort of a group has retired (R314). -/
def State.cohortsOver (s : State) (gid : Nat) : Bool :=
  s.cohorts.all fun c => c.gid != gid || (if c.spare then !c.formed else c.retired)

/-- Whether nothing that a retiring group's threads started is still under way (R314). -/
def State.groupQuiet (s : State) (gid : Nat) : Bool :=
  (s.cpys.all fun c => c.gid != gid) && (s.cmds.all fun c => c.gid != gid) && (s.ops.all fun o => o.gid != gid)
    && (s.rels.all fun r => r.gid != gid) && s.msgs.all fun m => m.gid != gid

/-- Copy errors and engine faults that nothing reported become kernel errors (R267, R295, R314). -/
def State.groupErrors (s : State) (gid : Nat) : State :=
  let s1 := (List.range (s.tagCount gid)).foldl (fun s k => s.emptyTag gid k) s
  let ms := s1.mgroups.filter fun m => m.gid == gid && m.fault.isSome && !m.reported
  ms.foldl (fun s m => s.kernelError gid tcMatrix (m.fault.getD 0)) s1

/-- The core takes a retired group's resources back in one step (R315). -/
def State.returnGroup (s : State) (g : Group) : State :=
  let gs := g.regs ++ g.scratch ++ g.accum
  let inside (w : Nat) : Bool := 8 * w / 2 ^ 21 == g.core && gs.contains (8 * w % 2 ^ 21 / 2 ^ 14)
  { s with
    groups := s.groups.filter (·.gid != g.gid)
    threads := s.threads.filter (·.gid != g.gid)
    cohorts := s.cohorts.filter (·.gid != g.gid)
    mgroups := s.mgroups.filter (·.gid != g.gid)
    pool := { s.pool with live := s.pool.live.filter fun w => !inside w } }

/-- The entries that a draining kernel left in its task queues are discarded (R317). -/
def State.dropTasks (s : State) (kid : Nat) : State :=
  { s with cores := s.cores.map fun c => { c with tq := c.tq.filter (·.1 != kid) } }

/-- A retired group counts for its kernel; after the last one the kernel drains (R304, R317). -/
def State.countRetired (s : State) (kid : Nat) : State :=
  match s.kernel? kid with
  | none => s
  | some k =>
    let last := decide (k.lr.groups ≤ k.retiredGroups + 1)
    let s1 := s.modKernel kid fun k => { k with retiredGroups := k.retiredGroups + 1, st := if last then .draining else k.st }
    if last then s1.dropTasks kid else s1

/-- GROUP_RETIRE (R314). -/
def execGroupRetire (group : Nat) (s : State) : Out :=
  match s.group? group with
  | none => .next s
  | some g =>
    if (g.st != .running && g.st != .retiring) || !s.cohortsOver group || s.runningAsid? g.core != some g.asid then .next s
    else if !s.groupQuiet group then .next (s.modGroup group fun g => { g with st := .retiring })
    else .next (((s.groupErrors group).returnGroup g).countRetired g.kid)

/-- The memory steps at a kernel's end (R201): the first two name the context, the third clears every die's copies of lines homed elsewhere; a handler
makes a release at pod scope in their place (R325). -/
def State.settleKernel (s : State) (k : Kernel) : State :=
  match k.src with
  | .handler _ _ =>
    let s1 := k.ranOn.foldl (fun s c => s.cleanL1 c (·.asid == k.asid)) s
    s1.drain fun w => w.asid == k.asid
  | _ =>
    let s1 := k.ranOn.foldl (fun s c => s.dropL1 c (·.asid == k.asid)) s
    let s2 := s1.drain fun w => w.asid == k.asid
    s2.dropCopies fun _ => true

/-- The chunk counts of a recorded kernel's streams (R393). -/
def State.writeCounts (s : State) (k : Kernel) : State :=
  if k.lr.mode != 2 then s
  -- without the header the streams are not found (log entry 74)
  else if s.badLine k.asid k.lr.logBase then s.meetRead k.asid k.lr.logBase
  else (List.range 128).foldl (fun s i =>
    let a := s.streamBase k i
    (((s.homeWrite k.asid a 8 (k.stream i).pos).homeWrite k.asid (a + 8) 8 0).homeWrite k.asid (a + 16) 8 0).homeWrite k.asid (a + 24) 8 0) s

/-- Word i of a queue header at its home (R366). -/
def State.hdrWord (s : State) (asid hdr i : Nat) : Nat := s.homeRead asid (hdr + 8 * i) 8

def State.setHdr (s : State) (asid hdr i v : Nat) : State := s.homeWrite asid (hdr + 8 * i) 8 v

/-- A failure in the sticky error word: code and index only while the count is 0 (R370). -/
def State.stickyError (s : State) (q : HQueue) (i cause : Nat) : State :=
  let w := s.hdrWord q.asid q.hdr 6
  let n := w / 2 ^ 16 % 2 ^ 16
  s.setHdr q.asid q.hdr 6
    (if n = 0 then i % 2 ^ 32 * 2 ^ 32 + 2 ^ 16 + cause else if n = 65535 then w else w + 2 ^ 16)

def State.queue? (s : State) (id : Nat) : Option HQueue := s.queues.find? fun q => q.id == id && q.st != .destroyed

/-- The errors of a kernel that no packet completes, a LAUNCH's or a handler's, are recorded in the sticky error word of the queue that it descends from
(R344; the word has no room for the trap code and the address, log entry 56). -/
def State.originError (s : State) (k : Kernel) : State :=
  match k.src, k.origin with
  | .queue _ _, _ => s
  | _, none => s
  | _, some (q, i) => if k.errors = [] then s else match s.queue? q with
    | none => s
    | some x => s.stickyError x i 0x03

/-- The steps of R201 are done and the kernel is retired; its errors are recorded (R344). -/
def State.endKernel (s : State) (k : Kernel) : State :=
  (((s.settleKernel k).writeCounts k).modKernel k.kid fun k => { k with st := .retired, held := none }).originError k

/-- Whether a write-through of a kernel's context, those that its cores' L1s still owe among them, has its way closed: the steps of R201 wait for it. -/
def State.kernelStuck (s : State) (k : Kernel) : Bool :=
  let s1 := k.ranOn.foldl (fun s c => s.cleanL1 c (·.asid == k.asid)) s
  s1.mem.wts.any fun w => w.asid == k.asid && s1.wtStuck w

/-- Where a draining kernel retires: its completion word gets its add, or what completes with it does (R201, R312). A completion word whose page has no valid leaf holds
the retirement, with a record, until REPLAY (R358); so does one that cannot be reached yet, and write-throughs that cannot reach their homes. The device's own add asks no
write or atomic permission of the word's page, and is made on a poisoned line too (log entry 75). -/
def State.retireKernel (s : State) (k : Kernel) : Out :=
  if s.kernelStuck k then .next s
  else match k.src with
    | .launch (some completion) => (match s.translate 0 k.asid completion false with
      | .none level mf =>
        let (s1, q) := s.putFault
          { asid := k.asid, seq := 0, va := completion, kind := 2, level := level, mf := mf, core := 0, lanes := 0, passes := 0, count := 1 }
        .next (s1.modKernel k.kid fun k => { k with held := some q })
      | _ => s.atPlace k.asid completion (.next ((s.endKernel k).deviceAdd k.asid completion 1)))
    | src => .next ((s.endKernel k).sourceEnds src (if k.errors = [] then 0 else 0x03))

/-- KERNEL_RETIRE (R201, R312, R344). -/
def execKernelRetire (kernel : Nat) (s : State) : Out :=
  match s.kernel? kernel with
  | none => .next s
  | some k => if k.st != .draining || k.held.isSome then .next s else s.retireKernel k

/-! ### Task queues (R317 to R321) -/

/-- The entries of a core's task queues in use, the pushes on their way counted (R318): those of the context that runs there, since the queues of another
are saved with it (R317, R335). -/
def State.taskCount (s : State) (core : Nat) : Nat :=
  let here (asid : Option Nat) : Bool := asid == s.runningAsid? core
  ((((s.coreAt core).tq.filter fun x => here ((s.kernel? x.1).map (·.asid))).map fun x => x.2.length).sum)
    + (s.ops.filter fun o => o.core == core && here (some o.asid) && (match o.kind with
      | .tqpush _ => true
      | _ => false)).length

/-- Whether a core's engine serves the queues of a context: they are there while it runs (R317, R335, R339). -/
def State.serves (s : State) (core asid : Nat) : Bool := s.runningAsid? core == some asid

/-- The entries that all queues of a core share (R317). -/
def taskLimit : Nat := 4096

/-- TQPUSH (R318). -/
def execTqpush (g : BitVec 4) (d : BitVec 6) (s : State) : Out :=
  match s.cur? with
  | none => .next s
  | some iss =>
    let used := s.taskCount iss.core
    let before (t : Thread) : Nat := ((s.executing iss g).filter fun u => decide (u.idx < t.idx)).length
    opWord g false false [.g d.toNat]
      (fun iss t =>
        let v := srcG iss t .sign d
        if taskLimit ≤ used + before t then .error (.mk2 tcSoftware v)
        else .ok (.plain 0 (.tqpush (v.truncate 48)))) s

/-- TQPOP (R319). -/
def execTqpop (g : BitVec 4) (d : BitVec 6) (s : State) : Out :=
  opWord g true false [] (fun _ _ => .ok (.plain 0 (.tqpop d.toNat 0))) s

def Core.tasks (c : Core) (kid : Nat) : List (BitVec 48) := ((c.tq.find? (·.1 == kid)).map (·.2)).getD []

def Core.setTasks (c : Core) (kid : Nat) (q : List (BitVec 48)) : Core :=
  let rest := c.tq.filter (·.1 != kid)
  { c with tq := if q = [] then rest else rest ++ [(kid, q)] }

/-- The kernel of an operation's thread. -/
def State.kidOf (s : State) (o : Op) : Nat := ((s.kernelOf? o.gid).map (·.kid)).getD 0

/-- TQ_PUSH_APPLY (R318). -/
def execTqPushApply (op : Nat) (s : State) : Out :=
  match s.op? op with
  | none => .next s
  | some o =>
    match o.kind with
    | .tqpush v =>
      if !s.gate o || !s.serves o.core o.asid then .next s
      else
        -- what the pushing thread has acquired goes with the entry (R194, R321)
        let s1 := s.fenceEffect o.tid o.seq o.core o.asid 1 true false
        .next ((s1.modCore o.core fun c => c.setTasks (s.kidOf o) (v :: c.tasks (s.kidOf o))).dropOp op).pump
    | _ => .next s

/-- A task word (R319). -/
def taskWord (stolen : Bool) (core : Nat) (v : BitVec 48) : Nat :=
  v.toNat + core % 128 * 2 ^ 48 + (if stolen then 2 ^ 62 else 0)

/-- The task word of a pop that found nothing (R319). -/
def noTask : Nat := 2 ^ 63

/-- Whether an earlier pop of the issue group is still to be served (R320). -/
def State.popTurn (s : State) (o : Op) : Bool :=
  s.ops.any fun p => p.grpSeq == o.grpSeq && decide (p.id < o.id) && (match p.kind, p.st with
    | .tqpop _ 0, .queued => true
    | _, _ => false)

/-- A pop is answered. -/
def State.answerPop (s : State) (o : Op) (v : Nat) : State := s.modOp o.id fun o => { o with st := .performed v }

/-- TQ_POP_SERVE (R320). -/
def execTqPopServe (op : Nat) (s : State) : Out :=
  match s.op? op with
  | none => .next s
  | some o =>
    match o.kind, o.st with
    | .tqpop d 0, .queued =>
      if s.popTurn o || !s.serves o.core o.asid then .next s
      else
        let kid := s.kidOf o
        match (s.coreAt o.core).tasks kid with
        | v :: rest =>
          -- a pop from the core's own queue is an acquire at core scope (R321)
          .next (((s.modCore o.core fun c => c.setTasks kid rest).fenceEffect o.tid o.seq o.core o.asid 1 false true).answerPop o (taskWord false o.core v))
        | [] =>
          if ((s.kernelOf? o.gid).map (·.lr.mode)).getD 0 = 0 then .next (s.modOp op fun o => { o with kind := .tqpop d 1 })
          else .next (s.answerPop o noTask)
    | _, _ => .next s

/-- The cores of the die, other than the pop's, that hold a group of its kernel (R319). -/
def State.victims (s : State) (o : Op) : List Nat :=
  let kid := s.kidOf o
  (List.range 128).filterMap fun i =>
    let c := dieOf o.core * 128 + i
    if c != o.core && (s.groupsOn c).any (·.kid == kid) then some c else none

/-- TQ_STEAL_SERVE (R320). -/
def execTqStealServe (op : Nat) (s : State) : Out :=
  match s.op? op with
  | none => .next s
  | some o =>
    match o.kind, o.st with
    | .tqpop d (n + 1), .queued =>
      let vs := s.victims o
      if vs.isEmpty ∨ 8 ≤ n then .next (s.answerPop o noTask)
      else
        let v := (vs[Config.stealVictim op (n + 1) % vs.length]?).getD o.core
        let kid := s.kidOf o
        let q := (s.coreAt v).tasks kid
        if !s.serves v o.asid then .next s
        else match q.getLast? with
        | some e => .next ((s.modCore v fun c => c.setTasks kid q.dropLast).answerPop o (taskWord true v e))
        | none => .next (if n + 1 = 8 then s.answerPop o noTask else s.modOp op fun o => { o with kind := .tqpop d (n + 2) })
    | _, _ => .next s

/-- TQPOP_REPLY (R319). -/
def execTqpopReply (op : Nat) (s : State) : Out :=
  match s.op? op with
  | none => .next s
  | some o =>
    match o.kind, o.st with
    | .tqpop d _, .performed v => .next (s.finishOp o 0 [.g d (BitVec.ofNat 64 v)])
    | _, _ => .next s

/-! ### Active messages (R322 to R325) -/

/-- The fields of a target word (R323). -/
structure Target where
  bad : Bool
  core : Nat
  die : Nat
  pkg : Nat
  h : Nat
  deriving DecidableEq, Repr

def Target.ofWord (w : Word) : Target :=
  { bad := bitsOf w 19 5 != 0 || bitsOf w 30 34 != 0, core := bitsOf w 0 7, die := bitsOf w 7 2, pkg := bitsOf w 9 10, h := bitsOf w 24 6 }

/-- AMSEND (R323). -/
def execAmsend (g : BitVec 4) (d b p : BitVec 6) (s : State) : Out :=
  opWord g true false [.g b.toNat, .g p.toNat]
    (fun iss t =>
      let a := srcG iss t .zero b
      let w := srcG iss t .zero p
      if (Target.ofWord w).bad then .error (.mk2 tcSoftware a)
      else (ownScratch s t a).map fun a => .plain a (.amsend d.toNat w.toNat)) s

/-- The narrowest scope that holds both cores (R7, R323). -/
def amScope (s : State) (from' : Nat) (t : Target) : Nat :=
  let c := t.die * 128 + t.core
  if t.pkg != s.dev.pkgid then 5
  else if c = from' then 1
  else if c / 4 = from' / 4 then 2
  else if c / 128 = from' / 128 then 3
  else 4

/-- The pod job of a sender: the one its kernel is enrolled in, or the one its context is bound to (R322, R383; log entry 22). -/
def State.jobOf? (s : State) (gid asid : Nat) : Option Nat :=
  match (s.kernelOf? gid).bind fun k => s.dev.jobs.find? fun j => j.kid == k.kid with
  | some j => some j.job
  | none => (s.dev.bindings.find? (·.2 == asid)).map (·.1)

/-- The context that the driver has bound to a message's pod job in this package (R322). -/
def State.boundCtx? (s : State) (gid asid : Nat) : Option Ctx :=
  (s.jobOf? gid asid).bind fun j => (s.dev.bindings.find? (·.1 == j)).bind fun b => s.ctx? b.2

/-- The driver binds a context to a pod job in this package, or takes the binding back (R322). -/
def State.bindJob (s : State) (job asid : Nat) (bound : Bool) : State :=
  let rest := s.dev.bindings.filter (·.1 != job)
  { s with dev := { s.dev with bindings := if bound && (s.ctx? asid).isSome then rest ++ [(job, asid)] else rest } }

/-- A valid handler's record: grid and group ignored, mode 0 (R322). -/
def handlerOk (ws : List Word) : Bool :=
  let r := LaunchRec.ofWords ws
  !recReserved ws && r.mode == 0 && (r.handler []).fieldsOk

/-- The words of handler entry h of a context, when its record can be read and is valid (R322). -/
def State.handlerRec? (s : State) (die : Nat) (c : Ctx) (h : Nat) : Option LaunchRec :=
  let a := c.table[h]?.getD 0
  if a = 0 ∨ a % 64 ≠ 0 then none
  else match s.readRec die c.asid a with
    | .ok ws => if handlerOk ws then some (LaunchRec.ofWords ws) else none
    | _ => none

/-- An uncorrectable error that the reading of handler entry h met poisons its line (R363); the record is not valid then (log entry 82). -/
def State.meetHandler (s : State) (die : Nat) (c : Ctx) (h : Nat) : State :=
  match s.readRec die c.asid (c.table[h]?.getD 0) with
  | .bad code va => s.metBad die c.asid code va
  | _ => s

/-- A message reaches its target's core: the status it is answered with (R323, R324). To a peer package it is a request, whose answer comes from there (R381, R382): the plane
is that of the line number of the payload's address (log entry 7). -/
def State.amDeliver (s : State) (o : Op) (t : Target) : State :=
  let core := t.die * 128 + t.core
  let answer (s : State) (v : Nat) : State := s.modOp o.id fun o => { o with st := .performed v }
  if t.pkg != s.dev.pkgid then answer (s.sent (s.newPeer o.id t.pkg (o.addr.toNat / 64)) true) (Config.peerStatus o.id % 3)
  else if 64 ≤ (s.amsgs.filter (·.core == core)).length then answer s 1
  else
    match s.boundCtx? o.gid o.asid with
    | none => answer s 2
    | some c =>
      match s.handlerRec? t.die c t.h with
      | none => answer (s.meetHandler t.die c t.h) 2
      | some lr =>
        let off := o.addr.toNat % 2 ^ 21
        let m : AMsg :=
          { id := s.fresh, core := core, asid := c.asid, handler := t.h, lr := lr, origin := s.originOf o.gid
            payload := (List.range 8).map fun i => BitVec.ofNat 64 (s.scratchOf o.gid (off + 8 * i) 8)
            sender := BitVec.ofNat 64 (o.core % 128 + dieOf o.core * 2 ^ 7 + s.dev.pkgid * 2 ^ 9), scope := amScope s o.core t }
        answer { s with amsgs := s.amsgs ++ [m], fresh := s.fresh + 1 } 0

/-- Whether an earlier message of the thread is still to arrive (R324). -/
def State.amTurn (s : State) (o : Op) : Bool :=
  s.ops.any fun p => p.tid == o.tid && decide (p.id < o.id) && p.waiting && (match p.kind with
    | .amsend .. => true
    | _ => false)

/-- Whether the region that holds a message's payload is away with its context, so that its read waits (R338). -/
def State.payloadAway (s : State) (o : Op) : Bool := ((s.group? o.gid).map s.away).getD false

/-- AM_ARRIVAL (R324). -/
def execAmArrival (op : Nat) (s : State) : Out :=
  match s.op? op with
  | none => .next s
  | some o =>
    match o.kind with
    | .amsend _ target =>
      if !s.gate o || s.amTurn o || s.payloadAway o then .next s
      else
        let t := Target.ofWord (BitVec.ofNat 64 target)
        -- a message to a peer package needs a plane (R382)
        if t.pkg != s.dev.pkgid && !s.scaleUp then .next (s.faultOp o tcUncorrectable o.addr).pump
        else if s.releaseStuck o.core o.asid (amScope s o.core t) then .next s
        else .next ((s.fenceEffect o.tid o.seq o.core o.asid (amScope s o.core t) true false).amDeliver o t).pump
    | _ => .next s

/-- AMSEND_STATUS (R323). -/
def execAmsendStatus (op : Nat) (s : State) : Out :=
  match s.op? op with
  | none => .next s
  | some o =>
    match o.kind, o.st with
    | .amsend d _, .performed v => .next (s.fromPeer o fun s _ => s.finishOp o 0 [.g d (BitVec.ofNat 64 v)])
    | _, _ => .next s

/-- HANDLER_GROUP_PLACE (R325). -/
def execHandlerGroupPlace (msg : Nat) (s : State) : Out :=
  match s.amsgs.find? (·.id == msg) with
  | none => .next s
  | some m => .next (s.tryHandler m)

end Sys2Proof.Machine
end

