-- ==== Sys2Proof/Machine/Contexts.lean ====
section
/-!
DEFINITION. Contexts on cores (R335 to R339): slots, switching, saving and loading, and the driver's creation and destruction of a context.
The contents of a chrysalis area are kept as data of the machine, not as bytes of HBM.
-/

namespace Sys2Proof.Machine

/-- A context slot as the firmware assigns it, with nothing in its scheduler. Before any cohort has issued the round begins at place 1, as if place 0 had
issued last: R101 does not say where (log entry 57). -/
def Slot.fresh (num asid : Nat) (st : SlotSt) : Slot :=
  { num := num, asid := asid, st := st, active := .replicate 8 none, pending := [], ready := [], swapping := [], lastActive := 0 }

/-! ### Switching (R337) -/

/-- The running slot of a core, stopping or not. -/
def Core.runner? (k : Core) : Option Slot := k.slots.find? fun x => x.st == .running || x.st == .stopping

/-- Whether a context stands in a slot of the core and can be switched in (R336). -/
def Core.canSwitchTo (k : Core) (asid : Nat) : Bool := k.slots.any fun x => x.asid == asid && x.st == .ready

/-- Requests up to the first that can be carried out, without those that name the running context, which have no effect (R337). -/
def Core.dropIdle (k : Core) (running : Nat) : List Nat → List Nat
  | [] => []
  | a :: rest => if a = running then k.dropIdle running rest else if k.canSwitchTo a then a :: rest else a :: k.dropIdle running rest

/-- Held requests with the one that is carried out next at their head: of those whose context is ready the one that arrived first; a request whose context is
not ready is held and holds no other (R337). -/
def Core.bringForward (k : Core) (reqs : List Nat) : List Nat :=
  match reqs.find? k.canSwitchTo with
  | none => reqs
  | some a => a :: reqs.erase a

/-- The held requests of a core are looked at: for the next that can be carried out the running context and its engine units stop (R279, R337). -/
def State.switchOn (s : State) (core : Nat) : State :=
  let k := s.coreAt core
  match k.runner? with
  | none => s
  | some r =>
    if r.st != .running || k.exchange.isSome then s
    else
      let reqs := k.bringForward (k.dropIdle r.asid k.switchReq)
      let s1 := s.modCore core fun k => { k with switchReq := reqs }
      if reqs.any k.canSwitchTo then (s1.modSlot core r.asid fun x => { x with st := .stopping }).stopEngine core r.asid else s1

/-- CONTEXT_SLOT_ASSIGN (R336). -/
def execContextSlotAssign (core slot asid : Nat) (s : State) : Out :=
  let k := s.coreAt core
  match s.ctx? asid with
  | none => .next s
  | some c =>
    if 512 ≤ core ∨ 3 ≤ slot ∨ k.slots.any (fun x => x.num == slot || x.asid == asid) then .next s
    else
      let st : SlotSt := if c.savedOn.any (·.1 == core) then .loading else .ready
      .next ((s.modCore core fun k => { k with slots := k.slots ++ [Slot.fresh slot asid st] }).switchOn core)

/-! ### Saving and loading (R338) -/

/-- The image of a group's granules: offsets count through its granules. -/
def State.imageOf (s : State) (g : Group) : Saved :=
  let place (b : Nat) : Option Nat :=
    if b / 2 ^ 21 != g.core then none
    else (g.granuleList.findIdx? (· == b % 2 ^ 21 / 2 ^ 14)).map fun i => i * 2 ^ 14 + b % 2 ^ 14
  { core := g.core, asid := g.asid, gid := g.gid
    bytes := s.pool.bytes.filterMap fun c => (place c.1).map fun o => (o, c.2)
    live := s.pool.live.filterMap fun w => (place (8 * w)).map fun o => o / 8 }

/-- The groups of a context on a core. -/
def State.ctxGroups (s : State) (core asid : Nat) : List Group := (s.groupsOn core).filter (·.asid == asid)

/-- Whether a switch under way names a context: the exchange, or the request for which the running context stops. -/
def Core.switchesTo (k : Core) (asid : Nat) : Bool :=
  k.exchange == some asid || (k.switchReq.head? == some asid && (k.runner?.map (·.st)) == some .stopping)

/-- Whether a context has nothing on a core that a save would have to keep: its groups there have retired and its queues are empty (R336). -/
def State.idleOn (s : State) (core asid : Nat) : Bool :=
  (s.ctxGroups core asid).isEmpty && (s.cmds.all fun c => !(c.core == core && c.asid == asid))
    && (s.coreAt core).tq.all fun q => ((s.kernel? q.1).map (·.asid)) != some asid

/-- CONTEXT_EVICT (R336): a context with nothing left on the core is released without a save. -/
def execContextEvict (core asid : Nat) (s : State) : Out :=
  match s.slotOf? core asid with
  | none => .next s
  | some x =>
    if x.st != .ready || (s.coreAt core).switchesTo asid then .next s
    else if s.idleOn core asid then .next (s.modCore core fun k => { k with slots := k.slots.filter (·.asid != asid) })
    else
      let s1 := s.modSlot core asid fun x => { x with st := .saving }
      .next { s1 with saved := s1.saved ++ (s.ctxGroups core asid).map s.imageOf }

/-- CONTEXT_SAVE_COMPLETE (R338). -/
def execContextSaveComplete (core asid : Nat) (s : State) : Out :=
  match s.slotOf? core asid with
  | none => .next s
  | some x =>
    if x.st != .saving then .next s
    else
      let gs := s.ctxGroups core asid
      let gone := gs.flatMap Group.granuleList
      let inside (w : Nat) : Bool := 8 * w / 2 ^ 21 == core && gone.contains (8 * w % 2 ^ 21 / 2 ^ 14)
      let s1 : State := { s with
        groups := s.groups.map fun g =>
          if g.core = core ∧ g.asid = asid ∧ s.saved.any (·.gid == g.gid) then { g with regs := [], scratch := [], accum := [] } else g
        pool := { s.pool with live := s.pool.live.filter fun w => !inside w } }
      let s2 := s1.modCtx asid fun c => { c with savedOn := (c.savedOn.filter (·.1 != core)) ++ [(core, x)] }
      .next (s2.modCore core fun k => { k with slots := k.slots.filter (·.asid != asid) })

/-- A group takes granules again and its image is put back (R338). -/
def State.restoreGroup (s : State) (v : Saved) : State :=
  match s.group? v.gid with
  | none => s
  | some g =>
    match s.kernel? g.kid with
    | none => s
    | some k =>
      let free := s.freeGranules g.core
      let a := k.lr.regGranules
      let b := a + k.lr.scratch
      let g1 : Group := { g with
        regs := free.take a, scratch := (free.drop a).take k.lr.scratch, accum := (free.drop b).take k.lr.accum }
      let gs := g1.granuleList
      let phys (o : Nat) : Nat := g.core * 2 ^ 21 + (gs[o / 2 ^ 14]?.getD 0) * 2 ^ 14 + o % 2 ^ 14
      let p1 := s.pool.take g.core g.asid gs
      let p2 := { p1 with bytes := wipe g.core gs p1.bytes }
      let p3 := { p2 with
        bytes := v.bytes.foldl (fun m c => cellsWrite (phys c.1) c.2 m) p2.bytes
        live := v.live.foldl (fun l w => setInsert (phys (8 * w) / 8) l) p2.live }
      let s1 := (s.modGroup g.gid fun _ => g1).reclaim g1
      { s1 with pool := p3, saved := s1.saved.filter (·.gid != v.gid) }

/-- The records of the kernels of saved groups. -/
def State.savedRecs (s : State) (vs : List Saved) : List LaunchRec :=
  vs.filterMap fun v => ((s.group? v.gid).bind fun g => s.kernel? g.kid).map (·.lr)

/-- Granules that must be free on a core before the saved groups of a context can come back: what they take, and what stays with the L1 (R305, R338). -/
def State.loadNeed (s : State) (core : Nat) (vs : List Saved) : Nat :=
  let rs := s.savedRecs vs
  (rs.map (·.granules)).sum + (rs.map (·.l1min)).foldl max (s.l1min core)

/-- CONTEXT_LOAD_COMPLETE (R338). -/
def execContextLoadComplete (core asid : Nat) (s : State) : Out :=
  match s.slotOf? core asid, s.ctx? asid with
  | some x, some c =>
    let vs := s.saved.filter fun v => v.core == core && v.asid == asid
    if x.st != .loading || decide ((s.freeGranules core).length < s.loadNeed core vs) then .next s
    else
      let s1 := vs.foldl State.restoreGroup s
      let old := ((c.savedOn.find? (·.1 == core)).map (·.2)).getD x
      let s2 := s1.modSlot core asid fun x => { old with num := x.num, st := .ready }
      .next ((s2.modCtx asid fun c => { c with savedOn := c.savedOn.filter (·.1 != core) }).switchOn core).pump
  | _, _ => .next s

/-! ### The exchange (R337) -/

/-- CONTEXT_SWITCH_REQUEST (R337). -/
def execContextSwitchRequest (core asid : Nat) (s : State) : Out :=
  .next ((s.modCore core fun k => { k with switchReq := k.switchReq ++ [asid] }).switchOn core)

/-- SWITCH_EXCHANGE_BEGIN (R337): the clause in issue has ended and the engine units have reached their boundaries. -/
def execSwitchExchangeBegin (core : Nat) (s : State) : Out :=
  let k := s.coreAt core
  match k.bringForward k.switchReq with
  | [] => .next s
  | a :: rest =>
    if k.exchange.isSome || !k.canSwitchTo a || s.issues.any (·.core == core) then .next s
    else
      let go (s : State) : State := s.modCore core fun k => { k with exchange := some a, switchReq := rest }
      match k.runner? with
      | none => .next (go s)
      | some r =>
        if r.st != .stopping then .next (s.switchOn core)
        else if !s.engineStopped core r.asid then .next s
        else .next (go (s.modSlot core r.asid fun x => { x with st := .exchanging }))

/-- SWITCH_EXCHANGE_END (R337). -/
def execSwitchExchangeEnd (core cycles : Nat) (s : State) : Out :=
  match (s.coreAt core).exchange with
  | none => .next s
  | some a =>
    if cycles = 0 ∨ 64 < cycles then .next s
    else
      let weights := (s.coreAt core).wslots.any fun w => w.asid == a && w.st != .empty
      let s1 := (s.setClock core ((s.coreAt core).clock + cycles)).modCore core fun k => { k with
        exchange := none, restoring := weights
        slots := k.slots.map fun x =>
          if x.st = .exchanging then { x with st := .ready } else if x.asid = a then { x with st := .running } else x }
      let s2 := if weights then s1 else s1.resumeEngine core a
      .next (s2.switchOn core).pump

/-- WEIGHT_SLOT_RESTORE_DONE (R337): the units of the incoming context go on (R279), unless it is to stop again already. -/
def execWeightSlotRestoreDone (core : Nat) (s : State) : Out :=
  let s1 := s.modCore core fun k => { k with restoring := false }
  match (s.coreAt core).runner? with
  | none => .next s1
  | some r => .next (if (s.coreAt core).restoring && r.st == .running then s1.resumeEngine core r.asid else s1)

/-! ### The driver (R252, R336, R340, R351, R359) -/

/-- CONTEXT_CREATE (R336). -/
def execContextCreate (asid ptDie ptBase : Nat) (handler : Word) (table : List Nat) (walkArea monArea saveArea fbBase fbLog : Nat) (s : State) : Out :=
  if asid = 0 ∨ 2 ^ 16 ≤ asid ∨ fbLog < 10 ∨ 20 < fbLog ∨ s.ctxs.any (fun c => c.asid == asid && c.alive) then .next s
  else
    let c : Ctx :=
      { asid := asid, ptDie := ptDie, ptBase := ptBase, handler := handler, table := table.take 64, walkArea := walkArea, monArea := monArea,
        saveArea := saveArea, fbBase := fbBase, fbLog := fbLog, fbRead := 0, fbWrite := 0, fbDone := 0, fbSeq := 0, fbOverflow := false, fbHeld := [],
        savedOn := [], alive := true }
    -- tid entries hold 0 and weight slots are empty (R252, R259)
    .next { s with
      ctxs := (s.ctxs.filter (·.asid != asid)) ++ [c]
      cores := s.cores.map fun k =>
        { k with tids := k.tids.filter (·.1.1 != asid), wslots := k.wslots.filter (·.asid != asid) } }

/-- Everything that belongs to a context's execution is gone; its memory stays (R336). -/
def State.dropCtx (s : State) (asid : Nat) : State :=
  let tids := (s.threads.filter fun t => s.asidOf t.gid == asid).map (·.tid)
  let cids := (s.cohorts.filter fun c => s.asidOf c.gid == asid).map (·.cid)
  let gids := (s.groups.filter (·.asid == asid)).map (·.gid)
  let gs := (s.groups.filter (·.asid == asid))
  let inside (w : Nat) : Bool := gs.any fun g => 8 * w / 2 ^ 21 == g.core && g.granuleList.contains (8 * w % 2 ^ 21 / 2 ^ 14)
  { s with
    threads := s.threads.filter fun t => !tids.contains t.tid
    cohorts := s.cohorts.filter fun c => !cids.contains c.cid
    issues := s.issues.filter fun i => !cids.contains i.cid
    groups := s.groups.filter fun g => !gids.contains g.gid
    kernels := s.kernels.filter (·.asid != asid)
    launches := s.launches.filter (·.asid != asid)
    ops := s.ops.filter (·.asid != asid)
    uses := s.uses.filter fun u => !cids.contains u.cid
    mgroups := s.mgroups.filter fun m => !gids.contains m.gid
    cmds := s.cmds.filter (·.asid != asid)
    cpys := s.cpys.filter (·.asid != asid)
    monitors := s.monitors.filter (·.asid != asid)
    msgs := s.msgs.filter (·.asid != asid)
    replies := s.replies.filter (·.asid != asid)
    rels := s.rels.filter (·.asid != asid)
    walks := s.walks.filter (·.asid != asid)
    saved := s.saved.filter (·.asid != asid)
    faultRecs := s.faultRecs.filter (·.asid != asid)
    amsgs := s.amsgs.filter (·.asid != asid)
    dev := { s.dev with bindings := s.dev.bindings.filter (·.2 != asid) }
    -- no operation is there any more to take the answer of its request to a peer
    mem := { s.mem with unacked := s.mem.unacked.filter fun r => ((s.op? r.id).map (·.asid)) != some asid }
    -- a later context of the same number finds the granules as another's (R305)
    pool := { s.pool with
      live := s.pool.live.filter fun w => !inside w
      lastAsid := s.pool.lastAsid.map fun x => if x.2 = asid then (x.1, 2 ^ 16 + asid) else x }
    cores := s.cores.map fun k => { k with
      slots := (k.slots.filter (·.asid != asid)).map fun x =>
        if k.exchange = some asid ∧ x.st = .exchanging then { x with st := .ready } else x
      tids := k.tids.filter (·.1.1 != asid), wslots := k.wslots.filter (·.asid != asid)
      tq := k.tq.filter fun q => ((s.kernel? q.1).map (·.asid)) != some asid
      switchReq := k.switchReq.filter (· != asid), exchange := if k.exchange = some asid then none else k.exchange
      atomBuf := k.atomBuf.filter fun i => ((s.op? i).map (·.asid)) != some asid } }

/-- Whether the running context of a core stops for a switch whose request is gone. -/
def State.stopsForNothing (s : State) (core : Nat) : Option Slot :=
  let k := s.coreAt core
  (k.runner?).filter fun r => r.st == .stopping && k.exchange.isNone
    && !(match k.switchReq with
      | [] => false
      | a :: _ => k.canSwitchTo a)

/-- A context that stopped for a destroyed one goes on, until the next held request (R337). -/
def State.unstop (s : State) (core : Nat) : State :=
  match s.stopsForNothing core with
  | none => s
  | some r => ((s.modSlot core r.asid fun x => { x with st := .running }).resumeEngine core r.asid).switchOn core

/-- CONTEXT_DESTROY (R336). -/
def execContextDestroy (asid : Nat) (s : State) : Out :=
  match s.ctx? asid with
  | none => .next s
  | some _ =>
    let s1 := (s.dropCtx asid).modCtx asid fun c => { c with alive := false, savedOn := [] }
    .next ((s1.cores.map (·.id)).foldl State.unstop s1)

/-! ### Snapshots (R384, R385) -/

/-- log2 of the entry count. -/
def State.ringLog (s : State) (asid hdr : Nat) : Nat := s.hdrWord asid hdr 3 % 32

/-- The address of packet i (R298). -/
def State.pktAddr (s : State) (asid hdr i : Nat) : Nat := s.hdrWord asid hdr 2 + 64 * (i % 2 ^ s.ringLog asid hdr)

/-- Word k of packet i. -/
def State.pktWord (s : State) (asid hdr i k : Nat) : Nat := s.homeRead asid (s.pktAddr asid hdr i + 8 * k) 8

/-- The type of a packet (R298, R367). -/
def State.pktType (s : State) (asid hdr i : Nat) : Nat := s.pktWord asid hdr i 0 / 2 ^ 8 % 256

/-- What the chrysalis area of a context holds for a core. -/
def State.coreImage (s : State) (asid : Nat) (k : Core) : CoreImage :=
  let tags (g : Group) : List Nat := (List.range (((s.kernel? g.kid).map (·.lr.tags)).getD 0)).map (g.tagBase + ·)
  { core := k.id
    tids := k.tids.filter (·.1.1 == asid)
    wslots := k.wslots.filter (·.asid == asid)
    tq := k.tq.filter fun q => ((s.kernel? q.1).map (·.asid)) == some asid
    tags := ((s.ctxGroups k.id asid).flatMap tags).map fun n => (n, s.tagAt k.id n) }

/-- The driver's copy of a context (R385): what its chrysalis, monitor and fault areas hold, and the records of its queues. Its memory, with the queues' headers, is copied by
other means. -/
def State.snapshot (s : State) (c : Ctx) : CtxImage :=
  let asid := c.asid
  let cids := (s.cohorts.filter fun c => s.asidOf c.gid == asid).map (·.cid)
  let mine (gid : Nat) : Bool := s.asidOf gid == asid
  { fresh := s.fresh, ctx := c
    threads := s.threads.filter fun t => mine t.gid
    cohorts := s.cohorts.filter fun c => mine c.gid
    groups := s.groups.filter (·.asid == asid)
    kernels := s.kernels.filter (·.asid == asid)
    launches := s.launches.filter (·.asid == asid)
    ops := s.ops.filter (·.asid == asid)
    uses := s.uses.filter fun u => cids.contains u.cid
    mgroups := s.mgroups.filter fun m => mine m.gid
    cmds := s.cmds.filter (·.asid == asid)
    monitors := s.monitors.filter (·.asid == asid)
    msgs := s.msgs.filter (·.asid == asid)
    replies := s.replies.filter (·.asid == asid)
    rels := s.rels.filter (·.asid == asid)
    saved := s.saved.filter (·.asid == asid)
    faultRecs := s.faultRecs.filter (·.asid == asid)
    amsgs := s.amsgs.filter (·.asid == asid)
    cores := s.cores.map (s.coreImage asid)
    queues := s.queues.filter (·.asid == asid)
    bulks := s.bulks.filter (·.asid == asid) }

/-- Whether a context is absent on every core, with nothing of it at work: what the driver waits for before it copies or loads one (R385). -/
def State.quiet (s : State) (asid : Nat) : Bool :=
  s.cores.all (fun k => k.slots.all (·.asid != asid)) && s.cpys.all (·.asid != asid) && s.walks.all (·.asid != asid)
    && s.queues.all (fun q => q.asid != asid || ((q.st == .created || q.st == .unmapped || q.st == .destroyed)
        && q.started.all fun p => p.done || s.pktType asid q.hdr p.idx != 2))
    && s.bulks.all fun b => b.asid != asid || b.running.all (·.done)

/-- Whether a number that the snapshot uses names something of another context, or a tag of it serves another group: only another package's snapshot can. -/
def State.clashes (s : State) (m : CtxImage) : Bool :=
  m.threads.any (fun t => (s.thread? t.tid).isSome) || m.cohorts.any (fun c => (s.cohort? c.cid).isSome)
    || m.groups.any (fun g => (s.group? g.gid).isSome) || m.kernels.any (fun k => (s.kernel? k.kid).isSome)
    || m.ops.any (fun o => (s.op? o.id).isSome) || m.mgroups.any (fun g => s.mgroups.any (·.id == g.id))
    || m.cmds.any (fun c => s.cmds.any (·.id == c.id))
    || m.queues.any (fun q => q.slot.isSome || s.queues.any fun x => x.id == q.id && x.asid != q.asid)
    || m.bulks.any (fun b => s.bulks.any fun x => x.id == b.id && x.asid != b.asid)
    || m.groups.any fun g => (s.groupsOn g.core).any fun h =>
      let n := ((m.kernels.find? (·.kid == g.kid)).map (·.lr.tags)).getD 0
      h.st != .retired && decide (g.tagBase < h.tagBase + ((s.kernel? h.kid).map (·.lr.tags)).getD 0) && decide (h.tagBase < g.tagBase + n)

/-- A core takes over what the snapshot holds for it. -/
def CoreImage.into (m : CoreImage) (s : State) : State :=
  let s1 := s.modCore m.core fun k => { k with tids := k.tids ++ m.tids, wslots := k.wslots ++ m.wslots, tq := k.tq ++ m.tq }
  m.tags.foldl (fun s x => s.modTag m.core x.1 fun _ => x.2) s1

/-- The driver loads a snapshot of a context that is absent on every core: what the context has done since is gone, and it goes on from the snapshot once its
queues are mapped and its slots are assigned again (R384). -/
def State.loadSnapshot (s : State) (m : CtxImage) : State :=
  let asid := m.ctx.asid
  let s1 := s.dropCtx asid
  if asid = 0 ∨ 2 ^ 16 ≤ asid ∨ !s.quiet asid ∨ s1.clashes m then s
  else
    m.cores.foldl (fun s x => x.into s) { s1 with
      fresh := max s.fresh m.fresh
      ctxs := s1.ctxs.filter (·.asid != asid) ++ [m.ctx]
      threads := s1.threads ++ m.threads, cohorts := s1.cohorts ++ m.cohorts, groups := s1.groups ++ m.groups
      kernels := s1.kernels ++ m.kernels, launches := s1.launches ++ m.launches, ops := s1.ops ++ m.ops, uses := s1.uses ++ m.uses
      mgroups := s1.mgroups ++ m.mgroups, cmds := s1.cmds ++ m.cmds, monitors := s1.monitors ++ m.monitors, msgs := s1.msgs ++ m.msgs
      replies := s1.replies ++ m.replies, rels := s1.rels ++ m.rels, saved := s1.saved ++ m.saved
      faultRecs := s1.faultRecs ++ m.faultRecs, amsgs := s1.amsgs ++ m.amsgs
      -- what its queues have done since is gone too: their headers are of the snapshot
      queues := s1.queues.filter (·.asid != asid) ++ m.queues
      bulks := s1.bulks.filter (·.asid != asid) ++ m.bulks }

end Sys2Proof.Machine
end

