-- ==== Sys2Proof/Machine/Lines.lean ====
section
/-!
DEFINITION. A Kiln core's registers and exceptions, and the event lines of a die's Kiln (R374). The core that executes is Kiln core `turn` − 512: core
4·d + i is core i of die d.
-/

namespace Sys2Proof.Machine

/-- The type of the host's event for a firmware access outside its windows (R376; log entry 23). -/
def evKiln : Nat := 7

/-- The Kiln core that executes. -/
def State.kilnIdx (s : State) : Nat := (s.turn - 512) % 16

def State.kilnAt (s : State) (i : Nat) : KilnCore := s.kiln.cores[i]?.getD KilnCore.reset

def State.kilnCore (s : State) : KilnCore := s.kilnAt s.kilnIdx

def State.setKilnAt (s : State) (i : Nat) (k : KilnCore) : State :=
  { s with kiln := { s.kiln with cores := s.kiln.cores.setIfInBounds i k } }

def State.setKiln (s : State) (k : KilnCore) : State := s.setKilnAt s.kilnIdx k

/-- A register of a Kiln core; x0 reads 0. -/
def KilnCore.rd (k : KilnCore) (r : Nat) : Word := if r = 0 then 0 else k.x[r]?.getD 0

/-- A result goes to a register; x0 discards it. -/
def KilnCore.put (k : KilnCore) (r : Nat) (v : Word) : KilnCore := { k with x := if r = 0 then k.x else k.x.setIfInBounds r v }

/-- A result goes to a register, and the program counter to the instruction after n bytes. -/
def KilnCore.doneBy (k : KilnCore) (n : Nat) (r : Nat) (v : Word) : KilnCore :=
  { k.put r v with pc := k.pc + BitVec.ofNat 64 n, stalled := none, minstret := k.minstret + 1 }

def KilnCore.done (k : KilnCore) (r : Nat) (v : Word) : KilnCore := k.doneBy 4 r v

/-- An exception of a Kiln core: cause, value, address, the interrupt enable and mode saved and the handler entered (R375; the entry is RISC-V's, log entry
24). -/
def KilnCore.trap (k : KilnCore) (cause : Nat) (val : Word) : KilnCore :=
  let mie : Word := (k.mstatus >>> 3) &&& 1
  { k with
    mcause := BitVec.ofNat 64 cause, mtval := val, mepc := k.pc, pc := k.mtvec &&& ~~~3#64, stalled := none
    mstatus := (k.mstatus &&& ~~~0x88#64) ||| (mie <<< 7) ||| 0x1800 }

/-- The event lines of a die. -/
def State.eventLines (s : State) (die : Nat) : Word := s.kiln.events[die]?.getD 0

def State.setLines (s : State) (die : Nat) (v : Word) : State :=
  { s with kiln := { s.kiln with events := s.kiln.events.setIfInBounds die v } }

/-- A core that waits for event lines goes on when one is pending, and takes those it waited for (R374). -/
def State.kilnWake (s : State) (i : Nat) : State :=
  let k := s.kilnAt i
  match k.stalled with
  | none => s
  | some n =>
    let got := s.eventLines (i / 4) &&& k.rd (n / 32)
    if got = 0 then s
    else (s.setLines (i / 4) (s.eventLines (i / 4) &&& ~~~got)).setKilnAt i (k.done (n % 32) got)

/-- An event line of a die is raised: it is pending, and the cores of the die that wait for it go on (R374). -/
def State.eventLine (s : State) (die line : Nat) : State :=
  (List.range 4).foldl (fun s i => s.kilnWake (4 * die + i)) (s.setLines die (s.eventLines die ||| (1#64 <<< line)))

end Sys2Proof.Machine
end

