-- ==== Sys2Proof/Machine/Queues.lean ====
section
/-!
DEFINITION. Host command queues (R366 to R372) and bulk queues (R297 to R299). The firmware's side of a queue is carried out by the events of the
table; a packet's start, its effect and its completion are separate steps.
-/

namespace Sys2Proof.Machine

/-! ### Headers and rings (R297, R298, R366, R367) -/

/-- V is 1 and the phase is (i div N) mod 2 (R299). -/
def State.pktValid (s : State) (asid hdr i : Nat) : Bool :=
  let w := s.pktWord asid hdr i 0
  w % 2 == 1 && w / 2 % 2 == i / 2 ^ s.ringLog asid hdr % 2

/-- The bits of word 0 that are 0 (R298, R367). -/
def word0Bad (w : Nat) : Bool := w / 4 % 64 != 0 || w / 2 ^ 16 % 2 ^ 40 != 0

/-- A queue's header and packet i are read: an uncorrectable error poisons its line (R363). A header is used as it stands all the same (log entry 58). -/
def State.meetPkt (s : State) (asid hdr i : Nat) : State := (s.meetRead asid hdr).meetRead asid (s.pktAddr asid hdr i)

/-- V is cleared, and a cause of failure goes into bits 63:56 (R299, R369). -/
def State.closePkt (s : State) (asid hdr i cause : Nat) : State :=
  let w := s.pktWord asid hdr i 0
  (s.meetPkt asid hdr i).homeWrite asid (s.pktAddr asid hdr i) 8 (w % 2 ^ 56 / 2 * 2 + cause * 2 ^ 56)

/-- Whether the 64 bytes at an address are in device memory, and can be reached: an access to an untrained stack is held (R297, R366, R377). -/
def State.inDevice (s : State) (asid va : Nat) : Bool :=
  decide (va < 2 ^ 52) && match s.placeOf asid va with
    | .home h => decide (h.node < 4)
    | _ => false

/-- The done index passes every completed packet at its place (R299, R368). -/
def advanceDone : Nat → List Pkt → Nat → List Pkt × Nat
  | 0, l, d => (l, d)
  | n + 1, l, d =>
    if l.any fun p => p.idx == d && p.done then advanceDone n (l.filter (·.idx != d)) (d + 1) else (l, d)

def setPkt (l : List Pkt) (p : Pkt) : List Pkt := l.map fun x => if x.idx = p.idx then p else x

def newPkt (idx since : Nat) (ended : Bool) (cause : Nat) : Pkt :=
  { idx := idx, since := since, ended := ended, cause := cause, held := none, done := false }


/-! ### Bytes moved by the copy engines of a die (R299) -/

/-- What a packet moves: len bytes to dst, from src or a repeated pattern; `sig` a word that is added to afterwards, 0 for none. -/
structure Move where
  die : Nat
  asid : Nat
  dst : Nat
  src : Nat
  len : Nat
  fill : Option Word
  sig : Nat
  deriving DecidableEq, Repr

/-- The engine's work as the copy unit sees a copy between global addresses. -/
def Move.asCopy (m : Move) (id : Nat) : Copy :=
  { id := id, tid := 0, gid := 0, core := m.die * 128, asid := m.asid, seq := 0, pc := 0, kind := .copy none, dst := BitVec.ofNat 64 m.dst,
    dstS := false, src := BitVec.ofNat 64 m.src, srcS := false, len := m.len, tag := none, started := true, held := none, denied := none,
    acq := 0, acqC := 0 }

/-- The pieces of eight bytes at va that lie in one line each: offset and bytes. -/
def linePieces (va : Nat) : List (Nat × Nat) :=
  let n := 64 - va % 64
  if 8 ≤ n then [(0, 8)] else [(0, n), (n, 8 - n)]

/-- The first failure at the pieces of eight bytes: a byte that cannot be reached is not read and not written (R291). -/
def State.pieceFails (s : State) (c : Copy) (denied : Option Nat) (va : Nat) (write : Bool) : Option (Nat × Nat) :=
  (linePieces va).findSome? fun p => match s.copySide c denied (va + p.1) p.2 write with
    | .home _ => none
    | .bad cause => some (cause, va + p.1)
    | _ => some (0x03, va + p.1)

/-- Eight bytes are read at their homes, of a peer by a request for each line (R381, R382). -/
def State.piecesRead (s : State) (asid va : Nat) : State × Nat :=
  (linePieces va).foldl (fun (x : State × Nat) p => match x.1.placeOf asid (va + p.1) with
    | .home h => ((x.1.readPeer h ((va + p.1) / 64)).1, x.2 + x.1.mem.rd h.node (h.addr + (va + p.1) % 64) p.2 * 2 ^ (8 * p.1))
    | _ => x) (s, 0)

def State.piecesWrite (s : State) (asid va v : Nat) : State :=
  (linePieces va).foldl (fun s p => s.homeWrite asid (va + p.1) p.2 (v / 2 ^ (8 * p.1) % 2 ^ (8 * p.2))) s

/-- The words of a packet's move from index i on, each read and written at its home (R291, R299): a copy of the die serves no source (log entry 84). -/
def moveGo (m : Move) (c : Copy) (denied : Option Nat) : Nat → Nat → Progress → State → State × Progress
  | 0, _, p, s => (s, p)
  | n + 1, i, p, s =>
    let stop := match (if m.fill.isSome then none else s.pieceFails { c with acq := s.fresh + 1 } denied (m.src + 8 * i) false) with
      | some x => some x
      | none => s.pieceFails c denied (m.dst + 8 * i) true
    match stop with
    | some x => moveGo m c denied n (i + 1) (p.note x true) (if x.1 = 0x05 then s.meetErrorAt m.die m.asid x.2 peRD else s)
    | none =>
      if p.failed && !Config.copyWordLands c.id i then moveGo m c denied n (i + 1) p s
      else
        let r := match m.fill with
          | some w => (s, w.toNat)
          | none => s.piecesRead m.asid (m.src + 8 * i)
        moveGo m c denied n (i + 1) p (r.1.piecesWrite m.asid (m.dst + 8 * i) r.2)

/-- The global addresses that a move's bytes touch, one for each line. -/
def Move.bytePlaces (m : Move) : List (Nat × Bool) := (m.asCopy 0).places.filter fun x => m.fill.isNone || x.2

/-- The signal word of a move, where it names one that an add can be made to. -/
def Move.sigPlaces (m : Move) : List (Nat × Bool) := if m.sig = 0 ∨ m.sig % 8 ≠ 0 then [] else [(m.sig, true)]

/-- The global addresses of a move, its signal last. -/
def Move.places (m : Move) : List (Nat × Bool) := m.bytePlaces ++ m.sigPlaces

/-- What comes of a move: it waits, it is held at an absent page, or it has ended with a cause or 0. -/
inductive Moved where
  | wait
  | absent (va level : Nat) (mf : Bool)
  | over (s : State) (cause : Nat)

/-- What holds a move at some of its places: an absent page, unless one has been denied, which ends the packet (R291, R358); or a way not open yet. -/
def State.moveStops (s : State) (m : Move) (denied : Option Nat) (places : List (Nat × Bool)) : Option Moved :=
  let c := m.asCopy 0
  if denied.isSome then (if places.any fun x => s.copySide c denied x.1 1 x.2 == .wait then some .wait else none)
  else match s.copyHolds c denied places with
  | some (va, some (l, mf)) => some (.absent va l mf)
  | some (_, none) => some .wait
  | none => none

/-- A move's bytes are written to the end, or are held (R291, R299, R358). -/
def State.runMove (s : State) (m : Move) (id : Nat) (denied : Option Nat) : Moved :=
  match s.moveStops m denied m.bytePlaces with
  | some x => x
  | none =>
    let r := moveGo m (m.asCopy id) denied (m.len / 8) 0 { failed := false, first := none } s
    .over r.1 ((r.2.first.map (·.1)).getD 0)

/-- A bulk packet's record of a page fault (R358, R359). -/
def State.moveFault (s : State) (m : Move) (va level : Nat) (mf : Bool) : State × Nat :=
  s.putFault
    { asid := m.asid, seq := 0, va := va, kind := 7, level := level, mf := mf, core := m.die * 128, lanes := 0, passes := 0, count := 1 }

/-- A frame outside every memory that a move would reach (R12, R352). -/
def orMoveHole (s : State) (m : Move) (t : State) : Out := orCopyHole s (m.asCopy 0) m.places t

/-! ### Bulk queues (R297 to R299) -/

def State.bulk? (s : State) (id : Nat) : Option BulkQ := s.bulks.find? (·.id == id)

def State.modBulk (s : State) (id : Nat) (f : BulkQ → BulkQ) : State :=
  { s with bulks := s.bulks.map fun b => if b.id = id then f b else b }

/-- BULK_QUEUE_REGISTER (R297). -/
def execBulkQueueRegister (die hdr asid : Nat) (s : State) : Out :=
  if 4 ≤ die ∨ hdr % 64 ≠ 0 ∨ (s.ctx? asid).isNone ∨ !s.inDevice asid hdr ∨ 256 ≤ (s.bulks.filter fun b => b.die == die).length then .next s
  else
    let b : BulkQ :=
      { id := s.fresh, die := die, hdr := hdr, asid := asid, awake := true, doneIdx := s.hdrWord asid hdr 1, nextIdx := s.hdrWord asid hdr 1,
        running := [] }
    .next { s.meetRead asid hdr with bulks := s.bulks ++ [b], fresh := s.fresh + 1 }

/-- BULK_ENGINE_WAKE (R299). -/
def execBulkEngineWake (bulk : Nat) (s : State) : Out :=
  .next (s.modBulk bulk fun b => { b with awake := true })

/-- Whether the next packet of a bulk queue may start (R297, R299). -/
def State.bulkReady (s : State) (b : BulkQ) : Bool :=
  let n := s.ringLog b.asid b.hdr
  decide (4 ≤ n ∧ n ≤ 20) && s.pktValid b.asid b.hdr b.nextIdx

/-- BULK_PACKET_START (R299). -/
def execBulkPacketStart (bulk : Nat) (s : State) : Out :=
  match s.bulk? bulk with
  | none => .next s
  | some b =>
    if !b.awake || decide (16 ≤ (b.running.filter fun p => !p.done).length) then .next s
    else if !s.bulkReady b then .next (s.modBulk bulk fun b => { b with awake := false })
    else .next ((s.meetPkt b.asid b.hdr b.nextIdx).modBulk bulk fun b => { b with running := b.running ++ [newPkt b.nextIdx s.fresh false 0], nextIdx := b.nextIdx + 1 })

/-- A malformed bulk packet (R298), or one that cannot be read (log entry 58). -/
def State.bulkBad (s : State) (b : BulkQ) (i : Nat) : Bool :=
  let w (k : Nat) : Nat := s.pktWord b.asid b.hdr i k
  let ty := s.pktType b.asid b.hdr i
  s.badLine b.asid (s.pktAddr b.asid b.hdr i) || (ty != 1 && ty != 2) || word0Bad (w 0) || w 3 % 8 != 0 || decide (2 ^ 40 ≤ w 3) || w 4 % 8 != 0 || w 7 != 0

/-- What a bulk packet asks for (R298). -/
def State.bulkMove (s : State) (b : BulkQ) (i : Nat) : Move :=
  let w (k : Nat) : Nat := s.pktWord b.asid b.hdr i k
  { die := b.die, asid := b.asid, dst := w 2, src := w 1, len := w 3,
    fill := if s.pktType b.asid b.hdr i = 2 then some (BitVec.ofNat 64 (w 6)) else none, sig := w 4 }

/-- A failure in the header's error word: the first one's cause and packet, the count saturating (R282, R297). -/
def State.bulkError (s : State) (b : BulkQ) (i cause : Nat) : State :=
  let w := s.hdrWord b.asid b.hdr 4
  let n := w / 2 ^ 52 % 16
  s.setHdr b.asid b.hdr 4 (if n = 0 then (copyWord cause 1 i).toNat else if n = 15 then w else w + 2 ^ 52)

/-- An atomic add that acts as a release at pod scope: what the die wrote through for the context is drained first, for which it has waited where a way was closed (R188,
R299, R367). -/
def State.podAdd (s : State) (die asid va v : Nat) : State := (s.drainDie die asid).deviceAdd asid va v

/-- What a signal's add ends with: 0, or the cause of its failure (R291, R299). -/
def State.sigCause (s : State) (m : Move) (denied : Option Nat) : Nat :=
  if m.sigPlaces = [] then 0
  else match s.copySide (m.asCopy 0) denied m.sig 8 true with
    | .home h => if permOk (.atomic .add 8 0 0 0 0) h.entry then (if s.unreadable h then 0x05 else 0) else 0x04
    | .bad cause => cause
    | _ => 0x03

/-- The steps of R299 after the bytes: the signal's add, the cause, V, the done index. A signal word that cannot be added to is a failure too. -/
def State.finishBulk (s : State) (b : BulkQ) (m : Move) (i cause : Nat) (denied : Option Nat) : State :=
  let bad := s.sigCause m denied
  let cause1 := if cause = 0 then bad else cause
  let s1 := if bad = 0 ∧ m.sigPlaces ≠ [] then s.podAdd b.die b.asid m.sig (s.pktWord b.asid b.hdr i 5)
    else if bad = 0x05 then s.meetErrorAt b.die b.asid m.sig peWR else s
  let s2 := s1.closePkt b.asid b.hdr i cause1
  let s3 := if cause1 = 0 then s2 else s2.bulkError b i cause1
  let ps := b.running.map fun p => if p.idx = i then { p with done := true } else p
  let r := advanceDone ps.length ps b.doneIdx
  (s3.setHdr b.asid b.hdr 1 r.2).modBulk b.id fun b => { b with running := r.1, doneIdx := r.2 }

def State.modBulkPkt (s : State) (b i : Nat) (f : Pkt → Pkt) : State :=
  s.modBulk b fun b => { b with running := b.running.map fun p => if p.idx = i then f p else p }

/-- The packet's bytes have ended with a cause or 0: its signal is added and it completes, or it waits for its signal word (R299, R358). -/
def State.signalBulk (s : State) (b : BulkQ) (i cause : Nat) (denied : Option Nat) : State :=
  let m := s.bulkMove b i
  match s.copyHolds (m.asCopy 0) denied m.sigPlaces with
  | some (va, some (l, mf)) =>
    let r := s.moveFault m va l mf
    r.1.modBulkPkt b.id i fun p => { p with ended := true, cause := cause, held := some r.2 }
  | some (_, none) => s.modBulkPkt b.id i fun p => { p with ended := true, cause := cause }
  | none =>
    -- the add's release waits for the write-throughs that it covers
    if m.sigPlaces ≠ [] ∧ s.sigCause m denied = 0 ∧ s.drainStuck b.die b.asid 5 then s.modBulkPkt b.id i fun p => { p with ended := true, cause := cause }
    else s.finishBulk b m i cause denied

/-- A bulk packet runs, is held, or waits. -/
def State.endBulk (s : State) (b : BulkQ) (p : Pkt) (denied : Option Nat) : State :=
  if p.ended then s.signalBulk b p.idx p.cause denied
  else if s.bulkBad b p.idx then s.signalBulk b p.idx 0x08 denied
  else match s.runMove (s.bulkMove b p.idx) b.id denied with
    | .wait => s
    | .absent va l mf =>
      let r := s.moveFault (s.bulkMove b p.idx) va l mf
      r.1.modBulkPkt b.id p.idx fun p => { p with held := some r.2 }
    | .over s1 cause => s1.signalBulk b p.idx cause denied

/-- BULK_PACKET_COMPLETE (R299). -/
def execBulkPacketComplete (bulk idx : Nat) (s : State) : Out :=
  match s.bulk? bulk with
  | none => .next s
  | some b =>
    match b.running.find? fun p => p.idx == idx && !p.done && p.held.isNone with
    | none => .next s
    | some p =>
      let m := s.bulkMove b idx
      orCopyHole s (m.asCopy 0) (if s.bulkBad b idx then m.sigPlaces else m.places) (s.endBulk b p none)

/-! ### Host command queues (R366 to R372) -/

/-- The queue in a hardware slot of a die (R366). -/
def State.queueInSlot? (s : State) (die slot : Nat) : Option HQueue := s.queues.find? fun q => q.die == die && q.slot == some slot

def HQueue.wake (q : HQueue) (s : State) : Nat := s.hdrWord q.asid q.hdr 5

/-- Whether packet i is in the queue's window, claimed and written (R366, R368). -/
def State.inWindow (s : State) (q : HQueue) (i : Nat) : Bool :=
  let n := s.ringLog q.asid q.hdr
  decide (4 ≤ n ∧ n ≤ 16) && decide (q.doneIdx ≤ i ∧ i < q.doneIdx + 32 ∧ i < s.hdrWord q.asid q.hdr 0) && s.pktValid q.asid q.hdr i

/-- Whether the window holds a packet. -/
def State.windowBusy (s : State) (q : HQueue) : Bool := (List.range 32).any fun k => s.inWindow q (q.doneIdx + k)

/-- A queue that holds a slot runs while packets are in its window or its wake word is not 0 (R371). -/
def State.settleQueue (s : State) (id : Nat) : State :=
  match s.queue? id with
  | none => s
  | some q =>
    if q.slot.isNone then s
    else s.modQueue id fun x => { x with st := if s.windowBusy q || q.wake s != 0 then .running else .mapped }

/-- Whether packet i can start (R368). -/
def State.eligible (s : State) (q : HQueue) (i : Nat) : Bool :=
  q.slot.isSome && q.st == .running && s.inWindow q i && q.started.all (·.idx != i)
    && BitVec.ofNat 64 (s.pktWord q.asid q.hdr i 1) &&& ~~~q.tokens == 0
    && (s.pktType q.asid q.hdr i != 5 || i == q.doneIdx)

/-- Of the packets that can start the one with the lowest index does (R368). -/
def State.mayStart (s : State) (q : HQueue) (i : Nat) : Bool :=
  s.eligible q i && (List.range 32).all fun k => decide (i ≤ q.doneIdx + k) || !s.eligible q (q.doneIdx + k)

/-- A malformed packet (R367), or one that cannot be read (log entry 58). -/
def State.queueBad (s : State) (q : HQueue) (i : Nat) : Bool :=
  let w (k : Nat) : Nat := s.pktWord q.asid q.hdr i k
  s.badLine q.asid (s.pktAddr q.asid q.hdr i) || word0Bad (w 0) || w 6 != 0 || w 7 != 0 || (match s.pktType q.asid q.hdr i with
    | 1 => w 3 % 64 != 0
    | 2 => w 5 % 8 != 0 || decide (2 ^ 40 ≤ w 5)
    | 3 => w 3 % 8 != 0
    | 4 => w 3 % 8 != 0
    | 5 => w 3 % 8 != 0
    | 6 => w 3 % 8 != 0
    | _ => true)

/-- A packet starts: its wait tokens are cleared (R368). -/
def State.startPkt (s : State) (q : HQueue) (i : Nat) (ended : Bool) (cause : Nat) : State :=
  let mask := BitVec.ofNat 64 (s.pktWord q.asid q.hdr i 1)
  let s1 := s.meetPkt q.asid q.hdr i
  ({ s1 with fresh := s1.fresh + 1 } : State).modQueue q.id fun q =>
    { q with tokens := q.tokens &&& ~~~mask, started := q.started ++ [newPkt i s1.fresh ended cause] }

/-- What an access of the firmware at a packet's word A meets (R367, R369); `reads` whether it reads the word, and meets its errors. -/
def State.wordMeet (s : State) (q : HQueue) (a : Nat) (ok : Word → Bool) (reads : Bool) : Side :=
  if 2 ^ 52 ≤ a then .bad 0x04
  else match s.translate q.die q.asid a false with
    | .none _ _ => .bad 0x04
    | .bad _ _ => .bad 0x05
    | .wait => .wait
    | .leaf e base size =>
      let h := homeOf e base size a
      if !ok e then .bad 0x04
      else if !s.stackTrained h.node h.addr then .wait
      else if (if reads then s.unreadable h else s.unreachable h) then .bad 0x05
      else .home h

/-- What starting a packet does: it waits, it stops at a frame that does not exist, or the state with the packet's end and cause so far. -/
inductive Begun where
  | wait
  | hole (f : Fault)
  | go (s : State) (ended : Bool) (cause : Nat)

/-- An access at A: its effect, or the cause of failure (R369), which an uncorrectable error is too (log entry 58). -/
def State.atWord (s : State) (q : HQueue) (a : Nat) (ok : Word → Bool) (reads : Bool) (f : Begun) : Begun :=
  match s.wordMeet q a ok reads with
  | .home h => if s.frameExists h.node h.addr then f else .hole (.noSuchMemory h.node h.addr)
  | .wait => .wait
  | .bad 0x05 => .go (s.meetErrorAt q.die q.asid a ok) true 0x04
  | _ => .go s true 0x04

/-- A packet of a type starts; a malformed one fails at once (R367 to R369). One whose effect has to wait has started all the same (R368), and its effect
follows at its completion. -/
def queueStart (queue idx ty : Nat) (act : HQueue → Begun) (s : State) : Out :=
  match s.queue? queue with
  | none => .next s
  | some q =>
    if !s.mayStart q idx || s.pktType q.asid q.hdr idx != ty then .next s
    else if s.queueBad q idx then .next (s.startPkt q idx true 0x01)
    else match act q with
      | .wait => .next (s.startPkt q idx false 0)
      | .hole f => .fault f
      | .go s1 ended cause => .next (s1.startPkt q idx ended cause)

/-- Whether an atomic is permitted at a page (R157). -/
def atomicOk (e : Word) : Bool := permOk (.atomic .add 8 0 0 0 0) e

/-- QUEUE_REGISTER (R366): the header carries the ASID of its context. -/
def execQueueRegister (die hdr asid : Nat) (s : State) : Out :=
  if 4 ≤ die ∨ hdr % 64 ≠ 0 ∨ (s.ctx? asid).isNone ∨ !s.inDevice asid hdr ∨ s.hdrWord asid hdr 3 / 2 ^ 16 % 2 ^ 16 ≠ asid
      ∨ 1024 ≤ (s.queues.filter fun q => q.die == die && q.st != .destroyed).length then .next s
  else
    let q : HQueue :=
      { id := s.fresh, die := die, hdr := hdr, asid := asid, st := .created, slot := none, since := 0, listed := false, tokens := 0,
        doneIdx := s.hdrWord asid hdr 1, started := [] }
    -- at creation every token is clear (R368)
    .next (({ s.meetRead asid hdr with queues := s.queues ++ [q], fresh := s.fresh + 1 } : State).setHdr asid hdr 4 0)

/-- QUEUE_DESTROY (R371). -/
def execQueueDestroy (queue : Nat) (s : State) : Out :=
  match s.queue? queue with
  | none => .next s
  | some q =>
    if q.slot.isSome then .next (s.hostEvent evQueueRefused queue 0)
    else .next (s.modQueue queue fun q => { q with st := .destroyed, started := [], listed := false })

/-- QUEUE_MAP (R372): the token word and the done index are the header's. -/
def execQueueMap (queue slot : Nat) (s : State) : Out :=
  match s.queue? queue with
  | none => .next s
  | some q =>
    if q.slot.isSome || decide (32 ≤ slot) || (s.queueInSlot? q.die slot).isSome then .next s
    else
      let s1 := (s.meetRead q.asid q.hdr).setHdr q.asid q.hdr 5 0
      let s2 := s1.modQueue queue fun q =>
        { q with
          slot := some slot, st := .mapped, since := s.fresh, listed := false
          tokens := BitVec.ofNat 64 (s.hdrWord q.asid q.hdr 4), doneIdx := s.hdrWord q.asid q.hdr 1 }
      .next (({ s2 with fresh := s2.fresh + 1 } : State).settleQueue queue)

/-- The five steps of unmapping (R372): token word and done index go to the header, the slot is detached, the wake word is swapped to 0, and a queue
that was woken meanwhile is on the map list. -/
def State.unmapQueue (s : State) (q : HQueue) : State :=
  let s1 := ((s.meetRead q.asid q.hdr).setHdr q.asid q.hdr 4 q.tokens.toNat).setHdr q.asid q.hdr 1 q.doneIdx
  let woken := q.wake s1 != 0
  (s1.setHdr q.asid q.hdr 5 0).modQueue q.id fun q => { q with slot := none, st := .unmapped, listed := woken }

/-- QUEUE_UNMAP (R372). -/
def execQueueUnmap (queue : Nat) (s : State) : Out :=
  match s.queue? queue with
  | none => .next s
  | some q => if q.slot.isNone then .next s else .next (s.unmapQueue q)

/-- QUEUE_WAKE (R371). -/
def execQueueWake (queue : Nat) (s : State) : Out :=
  match s.queue? queue with
  | none => .next s
  | some q =>
    match q.slot with
    | none => .next s
    | some k => .next ((((s.meetRead q.asid q.hdr).setHdr q.asid q.hdr 5 0).settleQueue queue).eventLine q.die k)

/-- Whether a queue without a slot has work (R371, R372). -/
def State.queueWaits (s : State) (q : HQueue) : Bool :=
  (q.st == .created || q.st == .unmapped) && (q.listed || q.wake s != 0)

/-- QUEUE_SLOT_TIMESLICE (R371). -/
def execQueueSlotTimeslice (die : Nat) (s : State) : Out :=
  let held := s.queues.filter fun q => q.die == die && q.slot.isSome
  if held.length < 32 ∨ !(s.queues.any fun q => q.die == die && s.queueWaits q) then .next s
  else match minBy HQueue.since held with
    | none => .next s
    | some q => .next (s.unmapQueue q)

/-! ### Packets (R367) -/

/-- Whether a started launch packet has still to enter the launch list. -/
def State.unlisted (s : State) (q : HQueue) (p : Pkt) : Bool :=
  !p.done && !p.ended && s.pktType q.asid q.hdr p.idx == 1 && s.launches.all (fun l => l.src != .queue q.id p.idx)
    && s.kernels.all (fun k => k.src != .queue q.id p.idx)

/-- Of the launch packets that wait for their launch lists the one that started first, with its queue. -/
def State.firstUnlisted (s : State) : Option (HQueue × Pkt) :=
  minBy (fun x : HQueue × Pkt => x.2.since) (s.queues.flatMap fun q => (q.started.filter (s.unlisted q)).map fun p => (q, p))

/-- Whether the launch list of a die has room, and no launch packet that started earlier waits for its own: kernels enter placement in the order in which
their packets start (R311, R368). -/
def State.launchOpen (s : State) (die : Nat) : Bool :=
  decide (s.launchCount die < launchLimit) && s.firstUnlisted.isNone

/-- A launch packet's record enters the launch list of its die (R367). -/
def State.listLaunch (s : State) (q : HQueue) (idx : Nat) : State :=
  let l : LaunchReq :=
    { die := q.die, asid := q.asid, recAddr := s.pktWord q.asid q.hdr idx 3, src := .queue q.id idx, origin := some (q.id, idx), lr := none,
      held := none }
  { s with launches := s.launches ++ [l] }

/-- QUEUE_LAUNCH (R367). -/
def execQueueLaunch (queue idx : Nat) (s : State) : Out :=
  queueStart queue idx 1 (fun q => if s.launchOpen q.die then .go (s.listLaunch q idx) false 0 else .wait) s

/-- QUEUE_COPY (R367). -/
def execQueueCopy (queue idx : Nat) (s : State) : Out :=
  queueStart queue idx 2 (fun _ => .go s false 0) s

/-- The effect of a signal packet: an add that is a release at pod scope, and waits for the write-throughs that it covers (R188, R367). -/
def State.signalEffect (s : State) (q : HQueue) (idx : Nat) : Begun :=
  let a := s.pktWord q.asid q.hdr idx 3
  s.atWord q a atomicOk true <| if s.drainStuck q.die q.asid 5 then .wait else (.go (s.podAdd q.die q.asid a (s.pktWord q.asid q.hdr idx 4)) true 0)

/-- The effect of a marker packet (R367). -/
def State.markerEffect (s : State) (q : HQueue) (idx : Nat) : Begun :=
  let a := s.pktWord q.asid q.hdr idx 3
  if a = 0 then .go s true 0 else s.atWord q a peWR false (.go (s.homeWrite q.asid a 8 (s.pktWord q.asid q.hdr idx 4)) true 0)

/-- QUEUE_SIGNAL (R367). -/
def execQueueSignal (queue idx : Nat) (s : State) : Out :=
  queueStart queue idx 3 (fun q => s.signalEffect q idx) s

/-- QUEUE_WAIT (R367). -/
def execQueueWait (queue idx : Nat) (s : State) : Out :=
  queueStart queue idx 4 (fun q => s.atWord q (s.pktWord q.asid q.hdr idx 3) peRD true (.go s false 0)) s

/-- What a wait packet has read, whatever starts on its die after it sees too: an acquire at pod scope (R367, R368). -/
def State.podAcquire (s : State) (die asid : Nat) : State := { s.raiseBound die asid s.fresh with fresh := s.fresh + 1 }

/-- QUEUE_WAIT_SATISFIED (R367). -/
def execQueueWaitSatisfied (queue idx : Nat) (s : State) : Out :=
  match s.queue? queue with
  | none => .next s
  | some q =>
    let a := s.pktWord q.asid q.hdr idx 3
    if !(q.started.any fun p => p.idx == idx && !p.ended) || s.pktType q.asid q.hdr idx != 4 then .next s
    else match s.atWord q a peRD true
      (if s.pktWord q.asid q.hdr idx 4 ≤ s.homeRead q.asid a 8 then .go (s.podAcquire q.die q.asid) true 0 else .wait) with
      | .wait => .next s
      | .hole f => .fault f
      | .go s1 _ cause => .next (s1.packetEnds queue idx cause)

/-- QUEUE_MARKER (R367). -/
def execQueueMarker (queue idx : Nat) (s : State) : Out :=
  queueStart queue idx 5 (fun q => s.markerEffect q idx) s

/-- QUEUE_TIMESTAMP (R367). -/
def execQueueTimestamp (queue idx : Nat) (s : State) : Out :=
  queueStart queue idx 6 (fun q => s.atWord q (s.pktWord q.asid q.hdr idx 3) peWR false (.go s true 0)) s

/-! ### Completion (R368 to R370) -/

/-- A packet completes: its set tokens, V with its cause, the error word, the done index (R368, R369). The completions of a queue without a slot
go to its header (R372). -/
def State.finishPkt (s : State) (q : HQueue) (i cause : Nat) : State :=
  let mask := BitVec.ofNat 64 (s.pktWord q.asid q.hdr i 2)
  let s1 := if q.slot.isSome then s.modQueue q.id fun q => { q with tokens := q.tokens ||| mask }
    else s.setHdr q.asid q.hdr 4 ((BitVec.ofNat 64 (s.hdrWord q.asid q.hdr 4) ||| mask).toNat)
  let s2 := s1.closePkt q.asid q.hdr i cause
  let s3 := if cause = 0 then s2 else s2.stickyError q i cause
  let ps := q.started.map fun p => if p.idx = i then { p with ended := true, cause := cause, held := none, done := true } else p
  let r := advanceDone ps.length ps q.doneIdx
  ((s3.setHdr q.asid q.hdr 1 r.2).modQueue q.id fun q => { q with started := r.1, doneIdx := r.2 }).settleQueue q.id

/-- What a copy packet asks for (R367). -/
def State.queueMove (s : State) (q : HQueue) (i : Nat) : Move :=
  let w (k : Nat) : Nat := s.pktWord q.asid q.hdr i k
  { die := q.die, asid := q.asid, dst := w 3, src := w 4, len := w 5, fill := none, sig := 0 }

/-- A copy packet runs, is held, or waits; its cause is 0x10 plus that of the copy (R369). -/
def State.endQueueCopy (s : State) (q : HQueue) (i : Nat) (denied : Option Nat) : State :=
  let m := s.queueMove q i
  match s.runMove m q.id denied with
  | .wait => s
  | .absent va l mf =>
    let r := s.moveFault m va l mf
    r.1.modQueue q.id fun q => { q with started := q.started.map fun p => if p.idx = i then { p with held := some r.2 } else p }
  | .over s1 cause => s1.finishPkt q i (if cause = 0 then 0 else 0x10 + cause)

/-- The package timestamp read at this moment (R367; the model keeps no time, log entry 18). -/
def State.readTimestamp (s : State) : State × Nat :=
  let t := (s.dev.timestamp + Config.elapsed s.fresh) % 2 ^ 64
  ({ s with dev := { s.dev with timestamp := t }, fresh := s.fresh + 1 }, t)

/-- The effect that a started packet still owed is had, and it completes. -/
def State.owed (s : State) (q : HQueue) (idx : Nat) : Begun → Out
  | .wait => .next s
  | .hole f => .fault f
  | .go s1 _ cause => .next (s1.finishPkt q idx cause)

/-- QUEUE_PACKET_COMPLETE (R368). -/
def execQueuePacketComplete (queue idx : Nat) (s : State) : Out :=
  match s.queue? queue with
  | none => .next s
  | some q =>
    match q.started.find? (·.idx == idx) with
    | none =>
      -- a type that R367 does not name starts and fails in one step
      if s.mayStart q idx && decide (s.pktType q.asid q.hdr idx = 0 ∨ 6 < s.pktType q.asid q.hdr idx) then
        let s1 := s.startPkt q idx true 0x01
        match s1.queue? queue with
        | none => .next s1
        | some q1 => .next (s1.finishPkt q1 idx 0x01)
      else .next s
    | some p =>
      if p.done || p.held.isSome then .next s
      else if p.cause != 0 then .next (s.finishPkt q idx p.cause)
      else match s.pktType q.asid q.hdr idx, p.ended with
        | 6, _ =>
          let a := s.pktWord q.asid q.hdr idx 3
          s.owed q idx (s.atWord q a peWR false (let r := s.readTimestamp; .go (r.1.homeWrite q.asid a 8 r.2) true 0))
        | _, true => .next (s.finishPkt q idx 0)
        | 1, false =>
          if decide (s.launchCount q.die < launchLimit) && s.firstUnlisted == some (q, p) then
            .next (s.listLaunch q idx)
          else .next s
        | 2, false => orMoveHole s (s.queueMove q idx) (s.endQueueCopy q idx none)
        | 3, false => s.owed q idx (s.signalEffect q idx)
        | 5, false => s.owed q idx (s.markerEffect q idx)
        | _, false => .next s

end Sys2Proof.Machine
end

