-- ==== Sys2Proof/Machine/Device.lean ====
section
/-!
DEFINITION. The device as a whole: power-up and reset (R377), clamps and clocks (R20 to R22), the remote-data cache's size (R13), links (R378 to
R383), the event ring's reader, the watchdog (R376) and register writes (R2).
-/

namespace Sys2Proof.Machine

/-! ### Power-up and reset (R377) -/

/-- Cells of the host's and the peers' memory, which no reset of the device touches. -/
def outsideCells (l : List Host.Cell) : List Host.Cell := l.filter fun c => decide (4 * 2 ^ 52 ≤ c.1)

/-- POWER_GOOD (R377): step 1, the mask ROM running. -/
def execPowerGood (s : State) : Out :=
  let r := State.reset
  .next { r with
    agenda := s.agenda, fresh := s.fresh
    mem := { r.mem with bytes := outsideCells s.mem.bytes } }

/-- DEVICE_RESET (R377). -/
def execDeviceReset (s : State) : Out :=
  let r := State.reset
  -- the manual names no change of HBM, nor of the timestamp, which counts from power-good (log entry 25)
  .next { r with
    agenda := s.agenda, fresh := s.fresh
    mem := { r.mem with bytes := s.mem.bytes, lineMeta := s.mem.lineMeta, poison := s.mem.poison, latent := s.mem.latent }
    dev := { r.dev with timestamp := s.dev.timestamp } }

/-- IMAGE_START_COMMAND (R377). -/
def execImageStartCommand (image : Nat) (floor : List Nat) (s : State) : Out :=
  if !s.dev.window then .next s
  else if Config.signatureGood image then
    -- the image carries the floor map and the HBM repair data, which are applied (R377)
    .next { s with dev := { s.dev with service := .imageGood, window := false, status := 0, floor := floor, repair := some image } }
  else .next { s with dev := { s.dev with service := .badImage, status := 0xE1 } }

/-- The stacks of a list are trained (R377). -/
def trainStacks (hbm : Vector Bool 8) (l : List Nat) : Vector Bool 8 := l.foldl (fun v i => v.setIfInBounds i true) hbm

/-- REDUCED_SERVICE_BEGIN (R377). -/
def execReducedServiceBegin (s : State) : Out :=
  if s.dev.service != .imageGood then .next s
  else .next { s with dev := { s.dev with
    service := .reduced, hbm := trainStacks s.dev.hbm [0, 2, 4, 6], clamps := s.dev.clamps.map fun c => { c with mhz := 350 } } }

/-- HBM_STACK_TRAINED (R377). -/
def execHbmStackTrained (stack : Nat) (s : State) : Out :=
  if (s.dev.service != .reduced && s.dev.service != .full) || decide (8 ≤ stack) then .next s
  else .next ({ s with dev := { s.dev with hbm := trainStacks s.dev.hbm [stack] } } : State).pump

/-- The ports that have a link: 0 to 15 scale-up, 16 to 27 scale-out, 28 the host port (R378). -/
def linkCount : Nat := 29
def hostPort : Nat := 28

/-- The link of a number. -/
def State.link (s : State) (i : Nat) : Link := s.dev.links[i]?.getD Link.reset

/-- A link's state as its status word has it (R379). -/
def LinkSt.code : LinkSt → Nat
  | .down => 0
  | .training => 1
  | .up => 2
  | .failed => 3

/-- The 64-bit status word of a link, which the host and the driver read (R379). -/
def Link.word (l : Link) : Word :=
  BitVec.ofNat 64 (l.st.code + (if l.en then 8 else 0) + (if l.st = .up then l.rate % 256 else 0) * 2 ^ 8 + l.peer % 2 ^ 16 * 2 ^ 16
    + min l.replays 65535 * 2 ^ 32)

/-- A link changes: a change of its state writes an event (R373, R378). When a scale-up link leaves up, every request that is not acknowledged is sent again (R382); when one
comes up, those that found no plane are sent. -/
def State.setLink (s : State) (i : Nat) (l : Link) : State :=
  let s1 : State := { s with dev := { s.dev with links := s.dev.links.setIfInBounds i l } }
  if l.st = (s.link i).st then s1
  else
    let s2 := if 16 ≤ i then s1 else if (s.link i).st = .up then s1.resendPeer else if l.st = .up then s1.sendWaiting else s1
    s2.hostEvent evLink i l.st.code

/-- Whether a link may leave down: scale-up and scale-out links stay down until full service, the host port does not (R22, R378). -/
def State.linkMayTrain (s : State) (i : Nat) : Bool := i == hostPort || s.dev.service == .full

/-- An enabled link that is down starts training, counting its replays afresh (R378, R379). -/
def State.trainLink (s : State) (i : Nat) : State :=
  let l := s.link i
  if l.en && l.st == .down && s.linkMayTrain i then s.setLink i { l with st := .training, replays := 0 } else s

/-- A link-level replay of a link that is up is counted, saturating (R379). -/
def State.countReplay (s : State) (i : Nat) : State :=
  let l := s.link i
  if l.st = .up then s.setLink i { l with replays := min 65535 (l.replays + 1) } else s

/-- FULL_SERVICE_BEGIN (R377). -/
def execFullServiceBegin (s : State) : Out :=
  if s.dev.service != .reduced then .next s
  else
    let s1 : State := { s with dev := { s.dev with service := .full, hbm := .replicate 8 true } }
    .next ((List.range hostPort).foldl State.trainLink s1).pump

/-! ### Clamps and clocks (R20, R21) -/

/-- Change the clamp of one quad, or of every quad for the package's power. -/
def State.modClamps (s : State) (thermal : Bool) (quad : Nat) (f : Clamp → Clamp) : State :=
  let cs := if thermal then (match s.dev.clamps[quad]? with
      | some c => s.dev.clamps.setIfInBounds quad (f c)
      | none => s.dev.clamps)
    else s.dev.clamps.map f
  { s with dev := { s.dev with clamps := cs } }

/-- POWER_LIMIT_EXCEEDED (R20). -/
def execPowerLimitExceeded (s : State) : Out :=
  .next (s.modClamps false 0 fun c => { c with pOn := true, pStep := max 1 c.pStep })

/-- THERMAL_TRIP (R20). -/
def execThermalTrip (quad : Nat) (s : State) : Out :=
  .next (s.modClamps true quad fun c => { c with tOn := true, tStep := max 1 c.tStep })

/-- CLAMP_SECOND_STEP (R20). -/
def execClampSecondStep (thermal : Bool) (quad : Nat) (s : State) : Out :=
  .next (s.modClamps thermal quad fun c =>
    if thermal then (if c.tOn && c.tStep == 1 then { c with tStep := 2 } else c)
    else if c.pOn && c.pStep == 1 then { c with pStep := 2 } else c)

/-- CLAMP_CONDITION_CLEAR (R20). -/
def execClampConditionClear (thermal : Bool) (quad : Nat) (s : State) : Out :=
  .next (s.modClamps thermal quad fun c => if thermal then { c with tOn := false } else { c with pOn := false })

/-- CLAMP_RESTORE (R20). -/
def execClampRestore (thermal : Bool) (quad : Nat) (s : State) : Out :=
  .next (s.modClamps thermal quad fun c =>
    if thermal then (if c.tOn then c else { c with tStep := c.tStep - 1 })
    else if c.pOn then c else { c with pStep := c.pStep - 1 })

/-- CLOCK_CHANGE_APPLY (R21): between clauses on the quad's cores, whose arrays have no row in progress. -/
def execClockChangeApply (quad : Nat) (s : State) : Out :=
  if (s.issues.any fun i => quadOf i.core == quad) || (s.cmds.any fun c => quadOf c.core == quad && c.inRow) then .next s
  else .next (s.modClamps true quad fun c => { c with mhz := c.target s.dev.service })

/-- POWER_LIMIT_SET (R20). -/
def execPowerLimitSet (watts : Nat) (s : State) : Out :=
  if 2400 < watts then .next s else .next { s with dev := { s.dev with powerLimit := watts } }

/-- RDC_SIZE_SET (R13). The manual does not say when a kernel is resident on a die: here, while a group placed there has not retired, also one whose context
is switched out or evicted; a kernel that drains, all its groups retired, is not (log entry 60). Nor does it say what the HBM holds that a smaller cache gives back: here what
it held when it was taken (log entry 71). The lines beyond the new size leave (log entry 6). -/
def execRdcSizeSet (die gib : Nat) (s : State) : Out :=
  if 32 < gib ∨ 4 ≤ die ∨ s.groups.any (fun g => g.st != .retired && dieOf g.core == die) then .next s
  else
    let s1 : State := { s with dev := { s.dev with rdcGib := s.dev.rdcGib.setIfInBounds die gib } }
    .next ((List.range 32).foldl (fun s k => s.trimSlice die k 0 0) s1)

/-! ### Links (R378 to R380, R383) -/

/-- This package's record of the requests of its peers takes one more (R382). -/
def State.recordIn (s : State) (x : PeerDone) : State := { s with mem := { s.mem with peerIn := recordPeer s.mem.peerIn x } }

/-- Whether a request of a package has been performed here already: it is answered from the record then (R382). -/
def State.peerKnown (s : State) (pkg seq : Nat) : Bool := s.mem.peerIn.any fun x => x.pkg == pkg && x.seq == seq

/-- A request of a peer at a line of this package, where it can be reached, is performed (R183, R363, R382). A line with an uncorrectable error is poisoned, and an atomic at it
is not performed. The kinds that a write-through brings are written; an atomic's word becomes data (R211). -/
def State.peerWork (s : State) (pkg seq : Nat) (h : Home) : PeerWork → State
  | .merge data mask kinds => ({ s with mem := s.mem.mergeHome h data mask kinds } : State).recordIn { pkg := pkg, seq := seq, old := 0 }
  | .atomic op off bytes v e =>
    if s.mem.bad h.node h.addr then s.meetError h
    else if (bytes != 4 && bytes != 8) || off % bytes != 0 || decide (64 < off + bytes) then s
    else
      let old := s.mem.rd h.node (h.addr + off) bytes
      let new := atomicNew op (8 * bytes) old (v.toNat % 2 ^ (8 * bytes)) (e.toNat % 2 ^ (8 * bytes))
      let s1 := if atomicWrites op old new then
          { s with mem := s.mem.mergeHome h (BitVec.ofNat 512 (new * 2 ^ (8 * off))) (byteMask off bytes) 0 }
        else s
      s1.recordIn { pkg := pkg, seq := seq, old := old }
  | .read => s.meetError h

/-- Another package's request arrives over a plane that is up (R381, R382), and is performed once. Which of its writes come from a page of 2 MiB or larger the spec does not
say here (R357, log entry 30). -/
def State.peerRequest (s : State) (pkg seq node addr : Nat) (w : PeerWork) : State :=
  let line := addr / 64 * 64
  if !s.scaleUp || decide (4 ≤ node) || !s.frameExists node line || !s.stackTrained node line || s.peerKnown pkg seq then s
  else
    let h : Home := { node := node, addr := line, entry := 0x10, size := 2 ^ 12, big := Config.hostPageBig s.fresh (line / 2 ^ 12) }
    { s.peerWork pkg seq h w with fresh := s.fresh + 1 }

/-- LINK_ENABLE (R378). -/
def execLinkEnable (link : Nat) (s : State) : Out :=
  if linkCount ≤ link then .next s else .next ((s.setLink link { s.link link with en := true }).trainLink link)

/-- LINK_DISABLE (R378). -/
def execLinkDisable (link : Nat) (s : State) : Out :=
  if linkCount ≤ link then .next s
  else .next (s.setLink link { s.link link with en := false, st := .down, rate := 0 }).pump

/-- LINK_TRAINED (R378). -/
def execLinkTrained (link rate : Nat) (s : State) : Out :=
  if (s.link link).st != .training || decide (linkCount ≤ link ∨ rate = 0 ∨ 256 ≤ rate) then .next s
  else .next (s.setLink link { s.link link with st := .up, rate := rate }).pump

/-- LINK_TRAINING_TIMEOUT (R378). -/
def execLinkTrainingTimeout (link : Nat) (s : State) : Out :=
  if (s.link link).st != .training then .next s else .next (s.setLink link { s.link link with st := .failed, rate := 0 })

/-- LINK_REPLAY_FAILURE (R378). -/
def execLinkReplayFailure (link : Nat) (s : State) : Out :=
  if (s.link link).st != .up then .next s
  else .next (s.setLink link { s.link link with st := .failed, rate := 0, replays := min 65535 ((s.link link).replays + 8) })

/-- LINK_LOCK_LOSS (R378). -/
def execLinkLockLoss (link : Nat) (s : State) : Out :=
  if (s.link link).st != .up then .next s else .next (s.setLink link { s.link link with st := .failed, rate := 0 })

/-- HOST_MODULE_FAIL (R380): the port stays up while at least one module is up. -/
def execHostModuleFail (module : Nat) (s : State) : Out :=
  let s1 : State := { s with dev := { s.dev with modules := s.dev.modules.setIfInBounds module false } }
  let l := s1.link hostPort
  .next (if l.st = .up ∧ s1.dev.modules.toList.all (! ·) then s1.setLink hostPort { l with st := .failed, rate := 0 } else s1)

/-- POD_JOB_ENROL (R383). -/
def execPodJobEnrol (job kernel : Nat) (members : List Nat) (enrol : Bool) (s : State) : Out :=
  let rest := s.dev.jobs.filter fun j => j.job != job
  -- the members that stay have reported what they have reported
  let reported := (s.dev.jobs.filter (·.job == job)).flatMap (·.reports)
  if !enrol then .next { s with dev := { s.dev with jobs := rest } }
  else if (s.kernel? kernel).isNone ∨ 1024 < members.length ∨ members.any (fun m => decide (1024 ≤ m)) then .next s
  else .next { s with dev := { s.dev with jobs := rest ++ [{ job := job, kid := kernel, members := members, reports := (reported.filter members.contains) }] } }

/-! ### Event ring, watchdog, registers (R2, R373, R376) -/

/-- EVENT_RING_READ_ADVANCE (R373). -/
def execEventRingReadAdvance (idx : Nat) (s : State) : Out :=
  let r := s.dev.ring
  if idx ≤ r.read ∨ r.write < idx then .next s
  else
    -- the firmware of every die learns of the space by event line 35 (R374)
    let s1 : State := { s with dev := { s.dev with
      ring := { r with read := idx, done := max r.done idx, entries := r.entries.drop (idx - r.read) } } }
    .next ((List.range 4).foldl (fun s d => s.eventLine d 35) s1)

/-- WATCHDOG_HEARTBEAT (R376). -/
def execWatchdogHeartbeat (s : State) : Out :=
  .next { s with dev := { s.dev with heartbeat := true } }

/-- An interrupt to the host on a vector: sent, or, within 2 µs of the vector's last one, merged into one more (R376). -/
def State.interrupt (s : State) (vector : Nat) : State :=
  if s.dev.irqs.any (·.1 == vector) then
    { s with dev := { s.dev with irqs := s.dev.irqs.map fun x => if x.1 = vector then (vector, true) else x } }
  else { s with dev := { s.dev with irq := s.dev.irq + 1, irqs := s.dev.irqs ++ [(vector, false)] } }

/-- The 2 µs after a vector's last interrupt are over: what was merged is sent, and they begin again (R376). -/
def State.irqWindowOver (s : State) (vector : Nat) : State :=
  match s.dev.irqs.find? (·.1 == vector) with
  | none => s
  | some (_, merged) =>
    let rest := s.dev.irqs.filter (·.1 != vector)
    if merged then { s with dev := { s.dev with irq := s.dev.irq + 1, irqs := rest ++ [(vector, false)] } }
    else { s with dev := { s.dev with irqs := rest } }

/-- The host's interrupt vector for a missed heartbeat; the manual gives vectors no numbers (log entry 23). -/
def watchdogVector : Nat := 0

/-- WATCHDOG_EXPIRY (R376). -/
def execWatchdogExpiry (s : State) : Out :=
  let s1 : State := { s with dev := { s.dev with heartbeat := false } }
  .next ((s1.interrupt watchdogVector).hostEvent evWatchdog 0 0)

/-- The registers without a row of their own, under the model's numbers (log entry 26); a value that breaks a requirement is ignored (R2). -/
def Dev.setReg (d : Dev) (reg : Nat) (v : Nat) : Dev :=
  if reg = 0 then (if decide (6 ≤ v ∧ v ≤ 16) then { d with
        ring := { d.ring with log := v, read := 0, write := 0, done := 0, seq := 0, dropped := 0, entries := [] } } else d)
  else if reg = 1 then (if v < 1024 then { d with pkgid := v } else d)
  else if reg = 4 then { d with ring := { d.ring with base := v } }
  else if 16 ≤ reg ∧ reg < 32 then
    (if v < 1024 then { d with links := match d.links[reg - 16]? with
      | some l => d.links.setIfInBounds (reg - 16) { l with peer := v }
      | none => d.links } else d)
  else if 32 ≤ reg ∧ reg < 40 then { d with windows := match d.windows[reg - 32]? with
    | some w => d.windows.setIfInBounds (reg - 32) (v, w.2)
    | none => d.windows }
  else if 40 ≤ reg ∧ reg < 48 then { d with windows := match d.windows[reg - 40]? with
    | some w => d.windows.setIfInBounds (reg - 40) (w.1, v)
    | none => d.windows }
  else d

/-- The bytes of a die's side table: 64 for every 2 MiB of its 160 GiB of HBM (R12, R357). -/
def sideSize : Nat := 160 * 2 ^ 30 / 2 ^ 21 * 64

/-- REGISTER_WRITE (R2). -/
def execRegisterWrite (reg : Nat) (val : Word) (s : State) : Out :=
  let v := val.toNat
  if reg = 2 then .next (if v < 65536 then { s with mem := { s.mem with migHigh := v } } else s)
  else if reg = 3 then .next (if v < 65536 then { s with mem := { s.mem with migLow := v } } else s)
  else if reg = 5 then .next { s with mem := { s.mem with migBase := v } }
  else if 48 ≤ reg ∧ reg < 52 then
    -- the side table of a die's dirty bitmaps (R357)
    .next (if v % 64 = 0 ∧ s.frameExists (reg - 48) (v + sideSize - 64) then { s with mem := s.mem.placeSide (reg - 48) v } else s)
  else .next { s with dev := s.dev.setReg reg v }

end Sys2Proof.Machine
end

