-- ==== Sys2Proof/Machine/Integer.lean ====
section
/-!
DEFINITION. The integer words (R110 to R117, R120, R126 to R128): one meaning for each, over shared operations.
-/

namespace Sys2Proof.Machine

/-! ### Shared operations -/

/-- Bits 31:0 of a register value, and the extension of a .W result (R110). -/
def lo32 (x : Word) : BitVec 32 := x.setWidth 32
def sx32 (x : BitVec 32) : Word := x.signExtend 64

/-- A word of two general sources and a general destination (R110). -/
def binWord (g : BitVec 4) (d a b : BitVec 6) (lat : Nat) (w : Widen) (f : Word → Word → Word) (s : State) : Out :=
  fixedWord g lat [.g a.toNat, .g b.toNat]
    (fun iss t => .ok [.g d.toNat (f (srcG iss t w a) (srcG iss t w b))]) s

/-- A .W word: the operation on bits 31:0, sign-extended (R110). -/
def onW (f : BitVec 32 → BitVec 32 → BitVec 32) (x y : Word) : Word := sx32 (f (lo32 x) (lo32 y))

/-- A word of one general source (R115). -/
def unWord (g : BitVec 4) (d a : BitVec 6) (f : Word → Word) (s : State) : Out :=
  fixedWord g 2 [.g a.toNat] (fun iss t => .ok [.g d.toNat (f (srcG iss t .sign a))]) s

/-- MAC and BFI read their destination as a third source (R114, R120). -/
def terWord (g : BitVec 4) (d a b : BitVec 6) (lat : Nat) (f : Word → Word → Word → Word) (s : State) : Out :=
  fixedWord g lat [.g a.toNat, .g b.toNat, .g d.toNat]
    (fun iss t => .ok [.g d.toNat (f (t.gr d.toNat) (srcG iss t .sign a) (srcG iss t .sign b))]) s

/-- Minimum and maximum, signed and unsigned, at one width (R111). -/
def minS {n : Nat} (x y : BitVec n) : BitVec n := if x.slt y then x else y
def maxS {n : Nat} (x y : BitVec n) : BitVec n := if x.slt y then y else x
def minU {n : Nat} (x y : BitVec n) : BitVec n := if x.ult y then x else y
def maxU {n : Nat} (x y : BitVec n) : BitVec n := if x.ult y then y else x

/-- Shifts and the rotate by the low bits of a count (R111). -/
def shl {n : Nat} (x : BitVec n) (k : Nat) : BitVec n := x <<< (k % n)
def shr {n : Nat} (x : BitVec n) (k : Nat) : BitVec n := x >>> (k % n)
def sar {n : Nat} (x : BitVec n) (k : Nat) : BitVec n := x.sshiftRight (k % n)
def rot {n : Nat} (x : BitVec n) (k : Nat) : BitVec n := (x <<< (k % n)) ||| (x >>> ((n - k % n) % n))

/-- The high half of the exact signed and unsigned products (R111, R114). -/
def mulhS {n : Nat} (x y : BitVec n) : BitVec n := BitVec.ofInt n ((x.toInt * y.toInt) / 2 ^ n)
def mulhU {n : Nat} (x y : BitVec n) : BitVec n := BitVec.ofNat n (x.toNat * y.toNat / 2 ^ n)

/-- Leading zeros of an n-bit value (R115). -/
def clz (n x : Nat) : Nat := n - bitLen (x % 2 ^ n)

/-- The number of 1 bits among the low n (R115). -/
def ones (x : Word) : Nat → Nat
  | 0 => 0
  | n + 1 => (if x.getLsbD n then 1 else 0) + ones x n

/-- Bit i of the result is bit 63 − i (R115): the low n bits reversed. -/
def revBits (x : Word) : Nat → Nat
  | 0 => 0
  | n + 1 => (if x.getLsbD n then 2 ^ (63 - n) else 0) + revBits x n

/-- Division as R126 defines it on N-bit values: signed and unsigned, with the cases of a zero divisor and of overflow. -/
def divS {n : Nat} (x y : BitVec n) : BitVec n := if y = 0 then BitVec.allOnes n else BitVec.ofInt n (x.toInt.tdiv y.toInt)
def divU {n : Nat} (x y : BitVec n) : BitVec n := if y = 0 then BitVec.allOnes n else BitVec.ofNat n (x.toNat / y.toNat)
def remS {n : Nat} (x y : BitVec n) : BitVec n := if y = 0 then x else BitVec.ofInt n (x.toInt.tmod y.toInt)
def remU {n : Nat} (x y : BitVec n) : BitVec n := if y = 0 then x else BitVec.ofNat n (x.toNat % y.toNat)

/-- A divide word: flagged, its result under way (R126). -/
def divWord (g : BitVec 4) (d a b : BitVec 6) (w : Widen) (f : Word → Word → Word) (s : State) : Out :=
  opWord g true false [.g a.toNat, .g b.toNat]
    (fun iss t => .ok (.plain 0 (.divide [.g d.toNat (f (srcG iss t w a) (srcG iss t w b))]))) s

/-! ### Register arithmetic (R111) -/

/-- ADD_W (R111). -/
def execAddW (g : BitVec 4) (d a b : BitVec 6) (s : State) : Out :=
  binWord g d a b 2 .sign (onW (· + ·)) s

/-- SUB_W (R111). -/
def execSubW (g : BitVec 4) (d a b : BitVec 6) (s : State) : Out :=
  binWord g d a b 2 .sign (onW (· - ·)) s

/-- AND_W (R111). -/
def execAndW (g : BitVec 4) (d a b : BitVec 6) (s : State) : Out :=
  binWord g d a b 2 .sign (onW (· &&& ·)) s

/-- OR_W (R111). -/
def execOrW (g : BitVec 4) (d a b : BitVec 6) (s : State) : Out :=
  binWord g d a b 2 .sign (onW (· ||| ·)) s

/-- XOR_W (R111). -/
def execXorW (g : BitVec 4) (d a b : BitVec 6) (s : State) : Out :=
  binWord g d a b 2 .sign (onW (· ^^^ ·)) s

/-- ANDN_W (R111). -/
def execAndnW (g : BitVec 4) (d a b : BitVec 6) (s : State) : Out :=
  binWord g d a b 2 .sign (onW (fun x y => x &&& ~~~y)) s

/-- MIN_W (R111). -/
def execMinW (g : BitVec 4) (d a b : BitVec 6) (s : State) : Out :=
  binWord g d a b 2 .sign (onW minS) s

/-- MAX_W (R111). -/
def execMaxW (g : BitVec 4) (d a b : BitVec 6) (s : State) : Out :=
  binWord g d a b 2 .sign (onW maxS) s

/-- MINU_W (R111). -/
def execMinuW (g : BitVec 4) (d a b : BitVec 6) (s : State) : Out :=
  binWord g d a b 2 .zero (onW minU) s

/-- MAXU_W (R111). -/
def execMaxuW (g : BitVec 4) (d a b : BitVec 6) (s : State) : Out :=
  binWord g d a b 2 .zero (onW maxU) s

/-- SHL_W (R111). -/
def execShlW (g : BitVec 4) (d a b : BitVec 6) (s : State) : Out :=
  binWord g d a b 2 .sign (onW (fun x y => shl x y.toNat)) s

/-- SHR_W (R111). -/
def execShrW (g : BitVec 4) (d a b : BitVec 6) (s : State) : Out :=
  binWord g d a b 2 .sign (onW (fun x y => shr x y.toNat)) s

/-- SAR_W (R111). -/
def execSarW (g : BitVec 4) (d a b : BitVec 6) (s : State) : Out :=
  binWord g d a b 2 .sign (onW (fun x y => sar x y.toNat)) s

/-- ROT_W (R111). -/
def execRotW (g : BitVec 4) (d a b : BitVec 6) (s : State) : Out :=
  binWord g d a b 2 .sign (onW (fun x y => rot x y.toNat)) s

/-- MUL_W (R111). -/
def execMulW (g : BitVec 4) (d a b : BitVec 6) (s : State) : Out :=
  binWord g d a b 3 .sign (onW (· * ·)) s

/-- MULH_W (R111). -/
def execMulhW (g : BitVec 4) (d a b : BitVec 6) (s : State) : Out :=
  binWord g d a b 3 .sign (onW mulhS) s

/-- ADD_D (R111). -/
def execAddD (g : BitVec 4) (d a b : BitVec 6) (s : State) : Out :=
  binWord g d a b 2 .sign (· + ·) s

/-- SUB_D (R111). -/
def execSubD (g : BitVec 4) (d a b : BitVec 6) (s : State) : Out :=
  binWord g d a b 2 .sign (· - ·) s

/-- AND_D (R111). -/
def execAndD (g : BitVec 4) (d a b : BitVec 6) (s : State) : Out :=
  binWord g d a b 2 .sign (· &&& ·) s

/-- OR_D (R111). -/
def execOrD (g : BitVec 4) (d a b : BitVec 6) (s : State) : Out :=
  binWord g d a b 2 .sign (· ||| ·) s

/-- XOR_D (R111). -/
def execXorD (g : BitVec 4) (d a b : BitVec 6) (s : State) : Out :=
  binWord g d a b 2 .sign (· ^^^ ·) s

/-- ANDN_D (R111). -/
def execAndnD (g : BitVec 4) (d a b : BitVec 6) (s : State) : Out :=
  binWord g d a b 2 .sign (fun x y => x &&& ~~~y) s

/-- MIN_D (R111). -/
def execMinD (g : BitVec 4) (d a b : BitVec 6) (s : State) : Out :=
  binWord g d a b 2 .sign minS s

/-- MAX_D (R111). -/
def execMaxD (g : BitVec 4) (d a b : BitVec 6) (s : State) : Out :=
  binWord g d a b 2 .sign maxS s

/-- MINU_D (R111). -/
def execMinuD (g : BitVec 4) (d a b : BitVec 6) (s : State) : Out :=
  binWord g d a b 2 .zero minU s

/-- MAXU_D (R111). -/
def execMaxuD (g : BitVec 4) (d a b : BitVec 6) (s : State) : Out :=
  binWord g d a b 2 .zero maxU s

/-- SHL_D (R111). -/
def execShlD (g : BitVec 4) (d a b : BitVec 6) (s : State) : Out :=
  binWord g d a b 2 .sign (fun x y => shl x y.toNat) s

/-- SHR_D (R111). -/
def execShrD (g : BitVec 4) (d a b : BitVec 6) (s : State) : Out :=
  binWord g d a b 2 .sign (fun x y => shr x y.toNat) s

/-- SAR_D (R111). -/
def execSarD (g : BitVec 4) (d a b : BitVec 6) (s : State) : Out :=
  binWord g d a b 2 .sign (fun x y => sar x y.toNat) s

/-- ROT_D (R111). -/
def execRotD (g : BitVec 4) (d a b : BitVec 6) (s : State) : Out :=
  binWord g d a b 2 .sign (fun x y => rot x y.toNat) s

/-- MUL_D (R111). -/
def execMulD (g : BitVec 4) (d a b : BitVec 6) (s : State) : Out :=
  binWord g d a b 3 .sign (· * ·) s

/-- MULH_D (R111). -/
def execMulhD (g : BitVec 4) (d a b : BitVec 6) (s : State) : Out :=
  binWord g d a b 3 .sign mulhS s

/-! ### Immediates (R112, R113) -/

/-- ADDI_W (R112). -/
def execAddiW (g : BitVec 4) (d a : BitVec 6) (i : BitVec 9) (s : State) : Out :=
  unWord g d a (fun x => sx32 (lo32 x + i.signExtend 32)) s

/-- ADDI_D (R112). -/
def execAddiD (g : BitVec 4) (d a : BitVec 6) (i : BitVec 9) (s : State) : Out :=
  unWord g d a (fun x => x + i.signExtend 64) s

/-- SHLI_W (R113). -/
def execShliW (g : BitVec 4) (d a : BitVec 6) (i : BitVec 5) (s : State) : Out :=
  unWord g d a (fun x => sx32 (shl (lo32 x) i.toNat)) s

/-- SHRI_W (R113). -/
def execShriW (g : BitVec 4) (d a : BitVec 6) (i : BitVec 5) (s : State) : Out :=
  unWord g d a (fun x => sx32 (shr (lo32 x) i.toNat)) s

/-- SARI_W (R113). -/
def execSariW (g : BitVec 4) (d a : BitVec 6) (i : BitVec 5) (s : State) : Out :=
  unWord g d a (fun x => sx32 (sar (lo32 x) i.toNat)) s

/-- ROTI_W (R113). -/
def execRotiW (g : BitVec 4) (d a : BitVec 6) (i : BitVec 5) (s : State) : Out :=
  unWord g d a (fun x => sx32 (rot (lo32 x) i.toNat)) s

/-- SHLI_D (R113). -/
def execShliD (g : BitVec 4) (d a i : BitVec 6) (s : State) : Out :=
  unWord g d a (fun x => shl x i.toNat) s

/-- SHRI_D (R113). -/
def execShriD (g : BitVec 4) (d a i : BitVec 6) (s : State) : Out :=
  unWord g d a (fun x => shr x i.toNat) s

/-- SARI_D (R113). -/
def execSariD (g : BitVec 4) (d a i : BitVec 6) (s : State) : Out :=
  unWord g d a (fun x => sar x i.toNat) s

/-- ROTI_D (R113). -/
def execRotiD (g : BitVec 4) (d a i : BitVec 6) (s : State) : Out :=
  unWord g d a (fun x => rot x i.toNat) s

/-- MOVI (R112). -/
def execMovi (g : BitVec 4) (d : BitVec 6) (i : BitVec 15) (s : State) : Out :=
  fixedWord g 2 [] (fun _ _ => .ok [.g d.toNat (i.signExtend 64)]) s

/-! ### Addresses and multiply–accumulate (R114) -/

/-- LEA1 (R114). -/
def execLea1 (g : BitVec 4) (d a b : BitVec 6) (s : State) : Out :=
  binWord g d a b 2 .sign (fun x y => x + y * 1) s

/-- LEA2 (R114). -/
def execLea2 (g : BitVec 4) (d a b : BitVec 6) (s : State) : Out :=
  binWord g d a b 2 .sign (fun x y => x + y * 2) s

/-- LEA4 (R114). -/
def execLea4 (g : BitVec 4) (d a b : BitVec 6) (s : State) : Out :=
  binWord g d a b 2 .sign (fun x y => x + y * 4) s

/-- LEA8 (R114). -/
def execLea8 (g : BitVec 4) (d a b : BitVec 6) (s : State) : Out :=
  binWord g d a b 2 .sign (fun x y => x + y * 8) s

/-- LEA16 (R114). -/
def execLea16 (g : BitVec 4) (d a b : BitVec 6) (s : State) : Out :=
  binWord g d a b 2 .sign (fun x y => x + y * 16) s

/-- MAC_W (R114). -/
def execMacW (g : BitVec 4) (d a b : BitVec 6) (s : State) : Out :=
  terWord g d a b 3 (fun z x y => sx32 (lo32 z + lo32 x * lo32 y)) s

/-- MAC_D (R114). -/
def execMacD (g : BitVec 4) (d a b : BitVec 6) (s : State) : Out :=
  terWord g d a b 3 (fun z x y => z + x * y) s

/-- MULHU_D (R114). -/
def execMulhuD (g : BitVec 4) (d a b : BitVec 6) (s : State) : Out :=
  binWord g d a b 3 .zero mulhU s

/-! ### Unary words (R115) -/

/-- MOV (R115). -/
def execMov (g : BitVec 4) (d a : BitVec 6) (s : State) : Out :=
  unWord g d a (fun x => x) s

/-- NOT (R115). -/
def execNot (g : BitVec 4) (d a : BitVec 6) (s : State) : Out :=
  unWord g d a (fun x => ~~~x) s

/-- NEG (R115). -/
def execNeg (g : BitVec 4) (d a : BitVec 6) (s : State) : Out :=
  unWord g d a (fun x => 0 - x) s

/-- ABS (R115). -/
def execAbs (g : BitVec 4) (d a : BitVec 6) (s : State) : Out :=
  unWord g d a (fun x => if x.msb then 0 - x else x) s

/-- CLZ_W (R115). -/
def execClzW (g : BitVec 4) (d a : BitVec 6) (s : State) : Out :=
  unWord g d a (fun x => BitVec.ofNat 64 (clz 32 x.toNat)) s

/-- CLZ_D (R115). -/
def execClzD (g : BitVec 4) (d a : BitVec 6) (s : State) : Out :=
  unWord g d a (fun x => BitVec.ofNat 64 (clz 64 x.toNat)) s

/-- POPC (R115). -/
def execPopc (g : BitVec 4) (d a : BitVec 6) (s : State) : Out :=
  unWord g d a (fun x => BitVec.ofNat 64 (ones x 64)) s

/-- BREV_D (R115). -/
def execBrevD (g : BitVec 4) (d a : BitVec 6) (s : State) : Out :=
  unWord g d a (fun x => BitVec.ofNat 64 (revBits x 64)) s

/-- SEXT_B (R115). -/
def execSextB (g : BitVec 4) (d a : BitVec 6) (s : State) : Out :=
  unWord g d a (fun x => (x.setWidth 8).signExtend 64) s

/-- SEXT_H (R115). -/
def execSextH (g : BitVec 4) (d a : BitVec 6) (s : State) : Out :=
  unWord g d a (fun x => (x.setWidth 16).signExtend 64) s

/-- SEXT_W (R115). -/
def execSextW (g : BitVec 4) (d a : BitVec 6) (s : State) : Out :=
  unWord g d a (fun x => (x.setWidth 32).signExtend 64) s

/-- ZEXT_B (R115). -/
def execZextB (g : BitVec 4) (d a : BitVec 6) (s : State) : Out :=
  unWord g d a (fun x => (x.setWidth 8).setWidth 64) s

/-- ZEXT_H (R115). -/
def execZextH (g : BitVec 4) (d a : BitVec 6) (s : State) : Out :=
  unWord g d a (fun x => (x.setWidth 16).setWidth 64) s

/-- ZEXT_W (R115). -/
def execZextW (g : BitVec 4) (d a : BitVec 6) (s : State) : Out :=
  unWord g d a (fun x => (x.setWidth 32).setWidth 64) s

/-! ### Bit fields (R120) -/

/-- The mask of a field. -/
def fieldMask (b : Word) : Word := BitVec.ofNat 64 ((2 ^ fieldLen b - 1) * 2 ^ fieldPos b)

/-- BFX (R120). -/
def execBfx (g : BitVec 4) (d a b : BitVec 6) (s : State) : Out :=
  binWord g d a b 2 .sign (fun x y => BitVec.ofInt 64 (sextInt (x.toNat / 2 ^ fieldPos y) (fieldLen y))) s

/-- BFXU (R120). -/
def execBfxu (g : BitVec 4) (d a b : BitVec 6) (s : State) : Out :=
  binWord g d a b 2 .sign (fun x y => BitVec.ofNat 64 (x.toNat / 2 ^ fieldPos y % 2 ^ fieldLen y)) s

/-- BFI (R120). -/
def execBfi (g : BitVec 4) (d a b : BitVec 6) (s : State) : Out :=
  terWord g d a b 2 (fun z x y => (z &&& ~~~fieldMask y) ||| ((x <<< fieldPos y) &&& fieldMask y)) s

/-! ### Division (R126) -/

/-- DIV_W (R126). -/
def execDivW (g : BitVec 4) (d a b : BitVec 6) (s : State) : Out :=
  divWord g d a b .sign (onW divS) s

/-- DIVU_W (R126). -/
def execDivuW (g : BitVec 4) (d a b : BitVec 6) (s : State) : Out :=
  divWord g d a b .zero (onW divU) s

/-- REM_W (R126). -/
def execRemW (g : BitVec 4) (d a b : BitVec 6) (s : State) : Out :=
  divWord g d a b .sign (onW remS) s

/-- REMU_W (R126). -/
def execRemuW (g : BitVec 4) (d a b : BitVec 6) (s : State) : Out :=
  divWord g d a b .zero (onW remU) s

/-- DIV_D (R126). -/
def execDivD (g : BitVec 4) (d a b : BitVec 6) (s : State) : Out :=
  divWord g d a b .sign divS s

/-- DIVU_D (R126). -/
def execDivuD (g : BitVec 4) (d a b : BitVec 6) (s : State) : Out :=
  divWord g d a b .zero divU s

/-- REM_D (R126). -/
def execRemD (g : BitVec 4) (d a b : BitVec 6) (s : State) : Out :=
  divWord g d a b .sign remS s

/-- REMU_D (R126). -/
def execRemuD (g : BitVec 4) (d a b : BitVec 6) (s : State) : Out :=
  divWord g d a b .zero remU s

/-- DIVIDE_COMPLETE (R126). -/
def execDivideComplete (op : Nat) (s : State) : Out :=
  match s.op? op with
  | some o => match o.kind with
    | .divide es => .next (s.finishOp o 0 es)
    | _ => .next s
  | none => .next s

/-! ### Selection and random numbers (R127, R128) -/

/-- SEL (R127). -/
def execSel (g : BitVec 4) (d a b : BitVec 6) (k : BitVec 3) (s : State) : Out :=
  fixedWord g 2 [.g a.toNat, .g b.toNat, .p k.toNat]
    (fun iss t => .ok [.g d.toNat (if t.pred k.toNat = .t then srcG iss t .sign a else srcG iss t .sign b)]) s

/-- The rounds of `rand_block` from round i on (R128). -/
def randRounds (key : Word) : Nat → Nat → Word → Word → Word
  | 0, _, x, y => x ^^^ y
  | n + 1, i, x, y =>
    let x1 := x + ((y <<< 17) ||| (y >>> 47)) + key + BitVec.ofNat 64 (i * 0xA3B195E74C2D6F09)
    let m := x1 * 0xC86D2F1B35E9A477#64
    randRounds key n (i + 1) x1 (y ^^^ ((m <<< 29) ||| (m >>> 35)))

def randBlock (key num ctr : Word) : Word := randRounds key 6 0 ctr num

/-- RAND_W (R128). -/
def execRandW (g : BitVec 4) (d a b : BitVec 6) (s : State) : Out :=
  fixedWord g 2 [.g a.toNat, .g b.toNat]
    (fun iss t => .ok [.g d.toNat (sx32 (lo32 (randBlock (srcG iss t .sign a) t.num ((lo32 (srcG iss t .sign b)).setWidth 64))))]) s

/-- RAND_D (R128). -/
def execRandD (g : BitVec 4) (d a b : BitVec 6) (s : State) : Out :=
  fixedWord g 2 [.g a.toNat, .g b.toNat]
    (fun iss t => .ok [.g d.toNat (randBlock (srcG iss t .sign a) t.num (srcG iss t .sign b))]) s

end Sys2Proof.Machine
end

