-- ==== Sys2Proof/Machine/IntervalOps.lean ====
section
/-!
DEFINITION. The interval words of the F pipe (R138 to R140, R146, R149 to R153): one meaning for each, over shared operations, and the
child of a BISECT.
-/

namespace Sys2Proof.Machine

/-! ### Shared operations -/

/-- The bound format of type I (false) and type J (true). -/
def ivFmt (j : Bool) : Fmt := if j then .d else .s

/-- The bits of the two bounds of an interval operand (R31, R131). -/
def Thread.ivBits (t : Thread) (j : Bool) (k : BitVec 6) : Nat × Nat :=
  if j then ((t.fr k.toNat).toNat, (t.fr (k.toNat + 1)).toNat)
  else ((t.fr k.toNat).toNat % 2 ^ 32, (t.fr k.toNat).toNat / 2 ^ 32)

def Thread.iv (t : Thread) (j : Bool) (k : BitVec 6) : Iv :=
  let b := t.ivBits j k
  ⟨(ivFmt j).decode b.1, (ivFmt j).decode b.2⟩

/-- Writing an interval. -/
def ivEffs (j : Bool) (d : Nat) (v : Nat × Nat) : List Eff :=
  if j then [.f d (BitVec.ofNat 64 v.1), .f (d + 1) (BitVec.ofNat 64 v.2)]
  else [.f d (BitVec.ofNat 64 (v.1 + v.2 * 2 ^ 32))]

def ivSrcs (j : Bool) (ks : List (BitVec 6)) : List Reg :=
  ks.flatMap fun k => if j then [.f k.toNat, .f (k.toNat + 1)] else [.f k.toNat]

/-- The check of R138, then a result. -/
def ivChecked (acceptEmpty : Bool) (vs : List Iv) (es : List Eff) : Except Flt (List Eff) :=
  match ivFault acceptEmpty vs with
  | some code => .error (.mk2 code 0)
  | none => .ok es

/-- Interval arithmetic and the set words, which accept empties (R139, R140). -/
def ivBin (j : Bool) (fn lat : Nat) (g : BitVec 4) (d a b : BitVec 6) (s : State) : Out :=
  fixedWord g lat (ivSrcs j [a, b])
    (fun _ t => ivChecked (fn == 4 || fn == 5) [t.iv j a, t.iv j b] (ivEffs j d.toNat ((ivFmt j).ivArith fn (t.iv j a) (t.iv j b)))) s

def ivFusedWord (j : Bool) (fn : Nat) (g : BitVec 4) (d a b : BitVec 6) (s : State) : Out :=
  fixedWord g 4 (ivSrcs j [a, b, d])
    (fun _ t => ivChecked false [t.iv j a, t.iv j b, t.iv j d]
      (ivEffs j d.toNat ((ivFmt j).ivFused fn (t.iv j a) (t.iv j b) (t.iv j d)))) s

/-- The fault of a flagged interval word, taken when it finishes (R134, R138). -/
def ivDue (s : State) (iss : Issue) (t : Thread) (code : Nat) : Due :=
  { seq := s.fresh, code := codeWord t code false, addr := 0, pc := iss.wordPc, resume := none }

/-- Interval division is flagged (R139). -/
def ivDiv (j : Bool) (g : BitVec 4) (d a b : BitVec 6) (s : State) : Out :=
  opWord g true false (ivSrcs j [a, b])
    (fun iss t =>
      .ok (.plain 0 (match ivFault false [t.iv j a, t.iv j b] with
        | some code => .fpDivSqrt [] (some (ivDue s iss t code))
        | none => .fpDivSqrt (ivEffs j d.toNat ((ivFmt j).divIv (t.iv j a) (t.iv j b))) none))) s

/-- A part of an interval as a point (R146). -/
def ivPart (j : Bool) (g : BitVec 4) (d a : BitVec 6) (f : Thread → Nat) (s : State) : Out :=
  fixedWord g 4 (ivSrcs j [a]) (fun _ t => ivChecked false [t.iv j a] [toF d (f t)]) s

/-- A compare of intervals (R149); `both` false: b is neither read nor checked. -/
def ivCmp (j : Bool) (cond : Nat) (g : BitVec 4) (p : BitVec 2) (ctype : BitVec 3) (a b : BitVec 6) (s : State) : Out :=
  let both := cond != 11
  fixedWord (cmpGuard g ctype) 4 (ivSrcs j (if both then [a, b] else [a]) ++ guardReg g :: pairSrcs p)
    (fun _ t =>
      if ctype = 1 ∧ t.guardVal g = .f then .ok (pairEffs t g p ctype .f)
      else ivChecked (decide (8 ≤ cond)) (if both then [t.iv j a, t.iv j b] else [t.iv j a])
        (pairEffs t g p ctype (ivRel cond (t.iv j a) (t.iv j b)))) s

/-- Bits of a bound copied exactly, a zero as +0 (R150). -/
def Fmt.boundBits (F : Fmt) (x : Nat) : Nat := if (F.decode x).isZero then 0 else x

/-- IMAKE (R150). -/
def imakeWord (j : Bool) (g : BitVec 4) (d a b : BitVec 6) (s : State) : Out :=
  let F := ivFmt j
  fixedWord g 4 [.f a.toNat, .f b.toNat]
    (fun _ t =>
      let x := F.bitsOf (t.fr a.toNat)
      let y := F.bitsOf (t.fr b.toNat)
      let v : Iv := ⟨F.decode x, F.decode y⟩
      if v.invalid then .error (.mk2 tcIvInvalid 0) else .ok (ivEffs j d.toNat (F.boundBits x, F.boundBits y))) s

/-- IINFL: the point operand takes part in the check (R138, R150). -/
def iinflWord (j : Bool) (g : BitVec 4) (d a b : BitVec 6) (s : State) : Out :=
  let F := ivFmt j
  fixedWord g 4 (.f b.toNat :: ivSrcs j [a])
    (fun _ t =>
      let e := t.pt F b
      let v := t.iv j a
      if e.isNan then .error (.mk2 tcIvInvalid 0)
      else ivChecked false [v] (ivEffs j d.toNat (F.outward ⟨addB v.lo e.abs.negate, addB v.hi e.abs⟩))) s

/-! ### Arithmetic and sets (R139, R140) -/

/-- FADD_I (R139). -/
def execFaddI (g : BitVec 4) (d a b : BitVec 6) (s : State) : Out :=
  ivBin false 0 4 g d a b s

/-- FSUB_I (R139). -/
def execFsubI (g : BitVec 4) (d a b : BitVec 6) (s : State) : Out :=
  ivBin false 1 4 g d a b s

/-- FMUL_I (R139). -/
def execFmulI (g : BitVec 4) (d a b : BitVec 6) (s : State) : Out :=
  ivBin false 2 6 g d a b s

/-- FHULL_I (R140). -/
def execFhullI (g : BitVec 4) (d a b : BitVec 6) (s : State) : Out :=
  ivBin false 4 4 g d a b s

/-- FISECT_I (R140). -/
def execFisectI (g : BitVec 4) (d a b : BitVec 6) (s : State) : Out :=
  ivBin false 5 4 g d a b s

/-- FMIN_I (R139). -/
def execFminI (g : BitVec 4) (d a b : BitVec 6) (s : State) : Out :=
  ivBin false 6 4 g d a b s

/-- FMAX_I (R139). -/
def execFmaxI (g : BitVec 4) (d a b : BitVec 6) (s : State) : Out :=
  ivBin false 7 4 g d a b s

/-- FDIV_I (R139). -/
def execFdivI (g : BitVec 4) (d a b : BitVec 6) (s : State) : Out :=
  ivDiv false g d a b s

/-- FMAC_I (R139). -/
def execFmacI (g : BitVec 4) (d a b : BitVec 6) (s : State) : Out :=
  ivFusedWord false 0 g d a b s

/-- FMSC_I (R139). -/
def execFmscI (g : BitVec 4) (d a b : BitVec 6) (s : State) : Out :=
  ivFusedWord false 1 g d a b s

/-- FNMAC_I (R139). -/
def execFnmacI (g : BitVec 4) (d a b : BitVec 6) (s : State) : Out :=
  ivFusedWord false 2 g d a b s

/-- FNMSC_I (R139). -/
def execFnmscI (g : BitVec 4) (d a b : BitVec 6) (s : State) : Out :=
  ivFusedWord false 3 g d a b s

/-- FADD_J (R139). -/
def execFaddJ (g : BitVec 4) (d a b : BitVec 6) (s : State) : Out :=
  ivBin true 0 4 g d a b s

/-- FSUB_J (R139). -/
def execFsubJ (g : BitVec 4) (d a b : BitVec 6) (s : State) : Out :=
  ivBin true 1 4 g d a b s

/-- FMUL_J (R139). -/
def execFmulJ (g : BitVec 4) (d a b : BitVec 6) (s : State) : Out :=
  ivBin true 2 6 g d a b s

/-- FHULL_J (R140). -/
def execFhullJ (g : BitVec 4) (d a b : BitVec 6) (s : State) : Out :=
  ivBin true 4 4 g d a b s

/-- FISECT_J (R140). -/
def execFisectJ (g : BitVec 4) (d a b : BitVec 6) (s : State) : Out :=
  ivBin true 5 4 g d a b s

/-- FMIN_J (R139). -/
def execFminJ (g : BitVec 4) (d a b : BitVec 6) (s : State) : Out :=
  ivBin true 6 4 g d a b s

/-- FMAX_J (R139). -/
def execFmaxJ (g : BitVec 4) (d a b : BitVec 6) (s : State) : Out :=
  ivBin true 7 4 g d a b s

/-- FDIV_J (R139). -/
def execFdivJ (g : BitVec 4) (d a b : BitVec 6) (s : State) : Out :=
  ivDiv true g d a b s

/-- FMAC_J (R139). -/
def execFmacJ (g : BitVec 4) (d a b : BitVec 6) (s : State) : Out :=
  ivFusedWord true 0 g d a b s

/-- FMSC_J (R139). -/
def execFmscJ (g : BitVec 4) (d a b : BitVec 6) (s : State) : Out :=
  ivFusedWord true 1 g d a b s

/-- FNMAC_J (R139). -/
def execFnmacJ (g : BitVec 4) (d a b : BitVec 6) (s : State) : Out :=
  ivFusedWord true 2 g d a b s

/-- FNMSC_J (R139). -/
def execFnmscJ (g : BitVec 4) (d a b : BitVec 6) (s : State) : Out :=
  ivFusedWord true 3 g d a b s

/-! ### Points and parts (R146) -/

/-- IPT.S and IPT.D: a NaN or infinite point is a fault. -/
def iptWord (g : BitVec 4) (a : BitVec 6) (f : Nat → List Eff) (s : State) : Out :=
  fixedWord g 4 [.f a.toNat]
    (fun _ t => match t.pt .d a with
      | .fin .. => .ok (f (t.fr a.toNat).toNat)
      | _ => .error (.mk2 tcIvInvalid 0)) s

/-- IPT_S (R146). -/
def execIptS (g : BitVec 4) (d a : BitVec 6) (s : State) : Out :=
  iptWord g a (fun x => ivEffs false d.toNat (Fmt.s.rdnB (Fmt.d.decode x), Fmt.s.rupB (Fmt.d.decode x))) s

/-- IPT_D (R146). -/
def execIptD (g : BitVec 4) (d a : BitVec 6) (s : State) : Out :=
  iptWord g a (fun x => ivEffs true d.toNat (Fmt.d.boundBits x, Fmt.d.boundBits x)) s

/-- ILO_I (R146). -/
def execIloI (g : BitVec 4) (d a : BitVec 6) (s : State) : Out :=
  ivPart false g d a (fun t => (t.ivBits false a).1) s

/-- IHI_I (R146). -/
def execIhiI (g : BitVec 4) (d a : BitVec 6) (s : State) : Out :=
  ivPart false g d a (fun t => (t.ivBits false a).2) s

/-- IMID_I (R146). -/
def execImidI (g : BitVec 4) (d a : BitVec 6) (s : State) : Out :=
  ivPart false g d a (fun t => (ivFmt false).mid (t.iv false a)) s

/-- IWID_I (R146). -/
def execIwidI (g : BitVec 4) (d a : BitVec 6) (s : State) : Out :=
  ivPart false g d a (fun t => (ivFmt false).wid (t.iv false a)) s

/-- ILO_J (R146). -/
def execIloJ (g : BitVec 4) (d a : BitVec 6) (s : State) : Out :=
  ivPart true g d a (fun t => (t.ivBits true a).1) s

/-- IHI_J (R146). -/
def execIhiJ (g : BitVec 4) (d a : BitVec 6) (s : State) : Out :=
  ivPart true g d a (fun t => (t.ivBits true a).2) s

/-- IMID_J (R146). -/
def execImidJ (g : BitVec 4) (d a : BitVec 6) (s : State) : Out :=
  ivPart true g d a (fun t => (ivFmt true).mid (t.iv true a)) s

/-- IWID_J (R146). -/
def execIwidJ (g : BitVec 4) (d a : BitVec 6) (s : State) : Out :=
  ivPart true g d a (fun t => (ivFmt true).wid (t.iv true a)) s

/-! ### Compares (R149) -/

/-- FCMP_EQ_I (R149). -/
def execFcmpEqI (g : BitVec 4) (p : BitVec 2) (t : BitVec 3) (a b : BitVec 6) (s : State) : Out :=
  ivCmp false 0 g p t a b s

/-- FCMP_NE_I (R149). -/
def execFcmpNeI (g : BitVec 4) (p : BitVec 2) (t : BitVec 3) (a b : BitVec 6) (s : State) : Out :=
  ivCmp false 1 g p t a b s

/-- FCMP_LT_I (R149). -/
def execFcmpLtI (g : BitVec 4) (p : BitVec 2) (t : BitVec 3) (a b : BitVec 6) (s : State) : Out :=
  ivCmp false 2 g p t a b s

/-- FCMP_LE_I (R149). -/
def execFcmpLeI (g : BitVec 4) (p : BitVec 2) (t : BitVec 3) (a b : BitVec 6) (s : State) : Out :=
  ivCmp false 3 g p t a b s

/-- FCMP_GT_I (R149). -/
def execFcmpGtI (g : BitVec 4) (p : BitVec 2) (t : BitVec 3) (a b : BitVec 6) (s : State) : Out :=
  ivCmp false 4 g p t a b s

/-- FCMP_GE_I (R149). -/
def execFcmpGeI (g : BitVec 4) (p : BitVec 2) (t : BitVec 3) (a b : BitVec 6) (s : State) : Out :=
  ivCmp false 5 g p t a b s

/-- FCMP_SUB_I (R149). -/
def execFcmpSubI (g : BitVec 4) (p : BitVec 2) (t : BitVec 3) (a b : BitVec 6) (s : State) : Out :=
  ivCmp false 8 g p t a b s

/-- FCMP_DISJ_I (R149). -/
def execFcmpDisjI (g : BitVec 4) (p : BitVec 2) (t : BitVec 3) (a b : BitVec 6) (s : State) : Out :=
  ivCmp false 9 g p t a b s

/-- FCMP_CONT_I (R149). -/
def execFcmpContI (g : BitVec 4) (p : BitVec 2) (t : BitVec 3) (a b : BitVec 6) (s : State) : Out :=
  ivCmp false 10 g p t a b s

/-- FCMP_EMPTY_I (R149). -/
def execFcmpEmptyI (g : BitVec 4) (p : BitVec 2) (t : BitVec 3) (a b : BitVec 6) (s : State) : Out :=
  ivCmp false 11 g p t a b s

/-- FCMP_EQ_J (R149). -/
def execFcmpEqJ (g : BitVec 4) (p : BitVec 2) (t : BitVec 3) (a b : BitVec 6) (s : State) : Out :=
  ivCmp true 0 g p t a b s

/-- FCMP_NE_J (R149). -/
def execFcmpNeJ (g : BitVec 4) (p : BitVec 2) (t : BitVec 3) (a b : BitVec 6) (s : State) : Out :=
  ivCmp true 1 g p t a b s

/-- FCMP_LT_J (R149). -/
def execFcmpLtJ (g : BitVec 4) (p : BitVec 2) (t : BitVec 3) (a b : BitVec 6) (s : State) : Out :=
  ivCmp true 2 g p t a b s

/-- FCMP_LE_J (R149). -/
def execFcmpLeJ (g : BitVec 4) (p : BitVec 2) (t : BitVec 3) (a b : BitVec 6) (s : State) : Out :=
  ivCmp true 3 g p t a b s

/-- FCMP_GT_J (R149). -/
def execFcmpGtJ (g : BitVec 4) (p : BitVec 2) (t : BitVec 3) (a b : BitVec 6) (s : State) : Out :=
  ivCmp true 4 g p t a b s

/-- FCMP_GE_J (R149). -/
def execFcmpGeJ (g : BitVec 4) (p : BitVec 2) (t : BitVec 3) (a b : BitVec 6) (s : State) : Out :=
  ivCmp true 5 g p t a b s

/-- FCMP_SUB_J (R149). -/
def execFcmpSubJ (g : BitVec 4) (p : BitVec 2) (t : BitVec 3) (a b : BitVec 6) (s : State) : Out :=
  ivCmp true 8 g p t a b s

/-- FCMP_DISJ_J (R149). -/
def execFcmpDisjJ (g : BitVec 4) (p : BitVec 2) (t : BitVec 3) (a b : BitVec 6) (s : State) : Out :=
  ivCmp true 9 g p t a b s

/-- FCMP_CONT_J (R149). -/
def execFcmpContJ (g : BitVec 4) (p : BitVec 2) (t : BitVec 3) (a b : BitVec 6) (s : State) : Out :=
  ivCmp true 10 g p t a b s

/-- FCMP_EMPTY_J (R149). -/
def execFcmpEmptyJ (g : BitVec 4) (p : BitVec 2) (t : BitVec 3) (a b : BitVec 6) (s : State) : Out :=
  ivCmp true 11 g p t a b s

/-! ### Construction and bisection (R150 to R153) -/

/-- IMAKE_S (R150). -/
def execImakeS (g : BitVec 4) (d a b : BitVec 6) (s : State) : Out :=
  imakeWord false g d a b s

/-- IMAKE_D (R150). -/
def execImakeD (g : BitVec 4) (d a b : BitVec 6) (s : State) : Out :=
  imakeWord true g d a b s

/-- IINFL_I (R150). -/
def execIinflI (g : BitVec 4) (d a b : BitVec 6) (s : State) : Out :=
  iinflWord false g d a b s

/-- IINFL_J (R150). -/
def execIinflJ (g : BitVec 4) (d a b : BitVec 6) (s : State) : Out :=
  iinflWord true g d a b s

/-- BISECT: the interval is read at issue, the rest follows when it finishes (R152). -/
def bisectWord (j : Bool) (g : BitVec 4) (d a : BitVec 6) (k : BitVec 3) (s : State) : Out :=
  opWord g true false (ivSrcs j [a])
    (fun iss t =>
      let b := t.ivBits j a
      .ok (.plain 0 (.bisect d.toNat k.toNat j b.1 b.2 ((ivFault false [t.iv j a]).map (ivDue s iss t)) none))) s

/-- BISECT_I (R152). -/
def execBisectI (g : BitVec 4) (d a : BitVec 6) (k : BitVec 3) (s : State) : Out :=
  bisectWord false g d a k s

/-- BISECT_J (R152). -/
def execBisectJ (g : BitVec 4) (d a : BitVec 6) (k : BitVec 3) (s : State) : Out :=
  bisectWord true g d a k s

/-- The free slot a child takes: the lowest spare cohort of the group with a free slot in the lane, the lowest pass (R92). -/
def State.spareSlot? (s : State) (t : Thread) : Option (Cohort × Nat) :=
  let cs := sortBy Cohort.idx (s.cohorts.filter fun c => c.gid == t.gid && c.spare)
  cs.findSome? fun c =>
    ((List.range c.passes).find? fun j =>
      !(s.threads.any fun x => x.cid == c.cid && x.lane == t.lane && x.pass == j && !x.freed)).map fun j => (c, j)

/-- The random number of a child (R129). -/
def childNum (groupid count : Nat) : Word := BitVec.ofNat 64 (2 ^ 63 + (groupid * 2 ^ 24 + count % 2 ^ 24) % 2 ^ 63)

/-- The cycle a core's counter stands at: within a clause, that of the group in issue. -/
def State.nowOn (s : State) (core : Nat) : Nat := ((s.issues.find? (·.core == core)).map (·.t0)).getD (s.coreAt core).clock

/-- A child thread (R153): the parent's registers, predicates, stack and sr.fpc; its own name, slot and number. -/
def childOf (t : Thread) (c : Cohort) (pass tid : Nat) (num pc : Word) : Thread :=
  { t with
    tid := tid, cid := c.cid, slot := c.slot0 + pass, pass := pass, st := .runnable, trapped := false, pc := pc, hash := 0, hseq := 0,
    num := num, trap := { code := 0, addr := 0, pc := 0, resume := 0 }, held := [], lands := [], srPend := [], stickyNow := 0, due := [],
    parks := [], stopped := false, next := none, exiting := false, rft := false, matGrp := none, flying := [], freed := false,
    hashRd := 0, heldRd := 0, since := tid, retAt := [] }

/-- The child is created with the parent's registers as they stand then: its spare cohort forms on its first child and joins the pending set (R92,
R153). -/
def State.spawn (s : State) (t : Thread) (c : Cohort) (pass : Nat) (pc : Word) (es : List Eff) : State :=
  match s.group? t.gid with
  | none => s
  | some g =>
    let child := es.foldl (fun u e => u.put ⟨0, e, 0⟩) (childOf (t.landUpTo (s.nowOn t.core)) c pass s.fresh (childNum g.index g.children) pc)
    let s1 := (s.modGroup g.gid fun g => { g with children := g.children + 1 }).modCohort c.cid fun c => { c with formed := true }
    let s2 : State := { s1 with
      threads := (s1.threads.filter fun x => !(x.freed && x.cid == c.cid && x.lane == t.lane && x.pass == pass)) ++ [child]
      fresh := s1.fresh + 1 }
    if c.formed || s.deterministic g.gid then s2
    else
      -- the place that the cohort may still have from its last life is another's, or nobody's
      { s2.modSlot g.core g.asid (fun x => { x.vacate c.cid s2.fresh with pending := x.pending ++ [c.cid] }) with fresh := s2.fresh + 1 }

/-- Whether an earlier BISECT of the lane is still to be served (R153). -/
def State.bisectWaits (s : State) (o : Op) : Bool :=
  let lane := (s.thread? o.tid).map (·.lane)
  s.ops.any fun p => p.gid == o.gid && decide (p.id < o.id) && (s.thread? p.tid).map (·.lane) == lane && (match p.kind with
    | .bisect .. => true
    | _ => false)

/-- A BISECT finishes for its parent (R152, R153). -/
def State.bisectDone (s : State) (o : Op) (d k : Nat) (j : Bool) (lo hi : Nat) (pc : Word) : State :=
  match s.thread? o.tid with
  | none => s.dropOp o.id
  | some t =>
    let F := ivFmt j
    let v : Iv := ⟨F.decode lo, F.decode hi⟩
    let m := F.mid v
    let none' := s.finishOp o 0 (ivEffs j d (lo, hi) ++ [.p k .u])
    if !F.splittable v then none'
    else
      match s.spareSlot? t with
      | none => none'
      | some (c, pass) =>
        (s.spawn t c pass pc (ivEffs j d (m, hi) ++ [.p k .f])).finishOp o 0 (ivEffs j d (lo, m) ++ [.p k .t])

/-- BISECT_COMPLETE (R153). -/
def execBisectComplete (op : Nat) (s : State) : Out :=
  match s.op? op with
  | some o => match o.kind with
    | .bisect d k j lo hi f (some pc) =>
      if s.bisectWaits o then .next s
      else match f with
        | some x => .next (s.flaggedFault o x)
        | none => .next (s.bisectDone o d k j lo hi pc)
    | _ => .next s
  | none => .next s

end Sys2Proof.Machine
end

