-- ==== Sys2Proof/Machine/Riscv.lean ====
section
/-!
DEFINITION. What a Kiln core does with a base word (R374): RV64IMAC in machine mode. The manual names the instruction set and does not define it: its
meaning here is RISC-V's (log entry 24). Where a core's addresses lead is R374's and R376's: the die's SRAM, device memory through ASID 0, host memory
through the windows.
-/

namespace Sys2Proof.Machine

/-! ### Where an address leads (R354, R374, R376) -/

/-- A place that a Kiln core reaches: a byte of the SRAM, or of a line at its home. -/
inductive KilnSpot where
  | sram (a : Nat)
  | home (h : Home) (off : Nat)
  deriving DecidableEq, Repr

/-- What an access of a Kiln core meets: its place, an access fault, an address of the host outside the windows, an uncorrectable error, or a way that is not
open yet. -/
inductive KilnMet where
  | spot (p : KilnSpot)
  | fault
  | outside
  | error (node addr : Nat)
  | wait
  deriving DecidableEq, Repr

/-- Whether n bytes of host memory lie in one of the eight windows, whose limit is the first address behind it (R376). -/
def Dev.inWindow (d : Dev) (a n : Nat) : Bool := d.windows.toList.any fun w => decide (w.1 ≤ a ∧ a + n ≤ w.2)

/-- Bytes of a die's SRAM (R374). -/
def sramSize : Nat := 2 ^ 19

/-- Where n bytes at an address lead, for an access that needs a permission; `write` whether it only writes. The manual does not say what an access of a Kiln core to a
frame does that the remote-data cache has taken or that lies beyond the HBM (R13, R375): here it is an access fault, where a core's access stops the run (log entries
24, 44). -/
def State.kilnMeets (s : State) (va n : Nat) (perm : Word → Bool) (write : Bool) : KilnMet :=
  let die := s.kilnIdx / 4
  if va + n ≤ sramSize then .spot (.sram (die * sramSize + va))
  else if 2 ^ 52 ≤ va then .fault
  else match s.homeWith die 0 va perm with
    | .error .wait => .wait
    | .error (.absent _ _) => .fault
    | .error (.bad node addr) => .error node addr
    | .ok h =>
      if !perm h.entry || decide (4 < h.node) || !s.frameExists h.node h.addr then .fault
      else if h.node == 4 && !s.dev.inWindow (h.addr + va % 64) n then .outside
      else if !s.stackTrained h.node h.addr then .wait
      else if !write && s.unreadable h then .error h.node h.addr
      else .spot (.home h (va % 64))

def State.spotRead (s : State) (p : KilnSpot) (n : Nat) : Nat :=
  match p with
  | .sram a => cellsReadN s.kiln.sram a n
  | .home h off => s.mem.rd h.node (h.addr + off) n

/-- The 8-byte word of a place, as a reservation names it. -/
def KilnSpot.key : KilnSpot → Nat
  | .sram a => a / 8
  | .home h off => 2 ^ 22 + physKey h.node (h.addr + off) / 8

/-- Bytes written at a place; reservations of its word are gone. -/
def State.spotWrite (s : State) (p : KilnSpot) (n v : Nat) : State :=
  let s1 : State := match p with
    | .sram a => { s with kiln := { s.kiln with sram := cellsWriteN a v n s.kiln.sram } }
    | .home h off => { s with mem := s.mem.mergeHome h (BitVec.ofNat 512 (v * 2 ^ (8 * off))) (byteMask off n) 0 }
  { s1 with kiln := { s1.kiln with cores := s1.kiln.cores.map fun k => if k.reserved = some p.key then { k with reserved := none } else k } }

/-- An access to n bytes goes on at its place, waits, or takes its exception: misaligned, or an access fault, which outside the windows is an event for the
host too (R376). -/
def State.kilnAccess (s : State) (k : KilnCore) (va : Word) (n misaligned denied : Nat) (perm : Word → Bool) (write : Bool) (go : KilnSpot → Out) : Out :=
  if va.toNat % n ≠ 0 then .next (s.setKiln (k.trap misaligned va))
  else match s.kilnMeets va.toNat n perm write with
    | .spot p => go p
    | .fault => .next (s.setKiln (k.trap denied va))
    | .outside => .next ((s.setKiln (k.trap denied va)).hostEvent evKiln s.kilnIdx va.toNat)
    | .error node addr => .next ((s.meetLine node addr).setKiln (k.trap denied va))
    | .wait => .next s

/-! ### Arithmetic -/

/-- The low bits of a number, sign-extended. -/
def rvSx (v bits : Nat) : Word := BitVec.ofInt 64 (sextInt v bits)

/-- The integer operations of OP and OP-IMM; `alt` subtracts, or shifts arithmetically. -/
def rvAlu (f3 : Nat) (alt : Bool) (a b : Word) : Word :=
  match f3 with
  | 0 => if alt then a - b else a + b
  | 1 => a <<< (b.toNat % 64)
  | 2 => if a.toInt < b.toInt then 1 else 0
  | 3 => if a.toNat < b.toNat then 1 else 0
  | 4 => a ^^^ b
  | 5 => if alt then a.sshiftRight (b.toNat % 64) else a >>> (b.toNat % 64)
  | 6 => a ||| b
  | _ => a &&& b

/-- The operations on 32 bits, sign-extended. -/
def rvAluW (f3 : Nat) (alt : Bool) (a b : Word) : Word :=
  let x := a.truncate 32
  let n := b.toNat % 32
  let r : BitVec 32 := match f3 with
    | 0 => if alt then x - b.truncate 32 else x + b.truncate 32
    | 1 => x <<< n
    | _ => if alt then x.sshiftRight n else x >>> n
  r.signExtend 64

/-- A quotient and a remainder as RISC-V has them: by zero −1 and the dividend. -/
def rvDiv {w : Nat} (signed : Bool) (a b : BitVec w) : BitVec w :=
  if b = 0 then BitVec.allOnes w else if signed then a.sdiv b else a.udiv b

def rvRem {w : Nat} (signed : Bool) (a b : BitVec w) : BitVec w :=
  if b = 0 then a else if signed then a.srem b else a.umod b

/-- The M extension's operations. -/
def rvMul (f3 : Nat) (a b : Word) : Word :=
  match f3 with
  | 0 => a * b
  | 1 => BitVec.ofInt 64 (a.toInt * b.toInt / 2 ^ 64)
  | 2 => BitVec.ofInt 64 (a.toInt * b.toNat / 2 ^ 64)
  | 3 => BitVec.ofNat 64 (a.toNat * b.toNat / 2 ^ 64)
  | 4 => rvDiv true a b
  | 5 => rvDiv false a b
  | 6 => rvRem true a b
  | _ => rvRem false a b

def rvMulW (f3 : Nat) (a b : Word) : Option Word :=
  let x := a.truncate 32
  let y := b.truncate 32
  match f3 with
  | 0 => some ((x * y).signExtend 64)
  | 4 => some ((rvDiv true x y).signExtend 64)
  | 5 => some ((rvDiv false x y).signExtend 64)
  | 6 => some ((rvRem true x y).signExtend 64)
  | 7 => some ((rvRem false x y).signExtend 64)
  | _ => none

/-- A branch's condition. -/
def rvTaken (f3 : Nat) (a b : Word) : Option Bool :=
  match f3 with
  | 0 => some (a == b)
  | 1 => some (a != b)
  | 4 => some (decide (a.toInt < b.toInt))
  | 5 => some (decide (b.toInt ≤ a.toInt))
  | 6 => some (decide (a.toNat < b.toNat))
  | 7 => some (decide (b.toNat ≤ a.toNat))
  | _ => none

/-- The value of a register operation, by its function fields. -/
def rvOp (f3 f7 : Nat) (a b : Word) : Option Word :=
  if f7 = 0 then some (rvAlu f3 false a b)
  else if f7 = 0x20 ∧ (f3 = 0 ∨ f3 = 5) then some (rvAlu f3 true a b)
  else if f7 = 1 then some (rvMul f3 a b) else none

def rvOpW (f3 f7 : Nat) (a b : Word) : Option Word :=
  if f7 = 0 ∧ (f3 = 0 ∨ f3 = 1 ∨ f3 = 5) then some (rvAluW f3 false a b)
  else if f7 = 0x20 ∧ (f3 = 0 ∨ f3 = 5) then some (rvAluW f3 true a b)
  else if f7 = 1 then rvMulW f3 a b else none

/-- The value of an immediate operation on 64 bits; shifts take six bits. -/
def rvOpImm (f3 w : Nat) (a : Word) : Option Word :=
  let top := w / 2 ^ 26
  let imm := rvSx (w / 2 ^ 20) 12
  if f3 = 1 then (if top = 0 then some (rvAlu 1 false a imm) else none)
  else if f3 = 5 then (if top = 0 ∨ top = 0x10 then some (rvAlu 5 (top == 0x10) a imm) else none)
  else some (rvAlu f3 false a imm)

def rvOpImmW (f3 w : Nat) (a : Word) : Option Word :=
  let top := w / 2 ^ 25
  let imm := rvSx (w / 2 ^ 20) 12
  if f3 = 0 then some (rvAluW 0 false a imm)
  else if f3 = 1 then (if top = 0 then some (rvAluW 1 false a imm) else none)
  else if f3 = 5 then (if top = 0 ∨ top = 0x20 then some (rvAluW 5 (top == 0x20) a imm) else none)
  else none

/-! ### Control and status registers -/

/-- The bits of mstatus that can be written: MIE and MPIE; MPP reads machine mode. -/
def mstatusMask : Word := 0x88

def KilnCore.csr (k : KilnCore) (i n : Nat) : Option Word :=
  match n with
  | 0x300 => some ((k.mstatus &&& mstatusMask) ||| 0x1800)
  | 0x301 => some 0x8000000000001105
  | 0x304 => some k.mie
  | 0x305 => some k.mtvec
  | 0x340 => some k.mscratch
  | 0x341 => some k.mepc
  | 0x342 => some k.mcause
  | 0x343 => some k.mtval
  | 0x344 => some k.mip
  | 0xB00 => some k.mcycle
  | 0xB02 => some k.minstret
  | 0xC00 => some k.mcycle
  | 0xC02 => some k.minstret
  | 0xF11 => some 0
  | 0xF12 => some 0
  | 0xF13 => some 0
  | 0xF14 => some (BitVec.ofNat 64 i)
  | 0xF15 => some 0
  | _ => none

def KilnCore.setCsr (k : KilnCore) (n : Nat) (v : Word) : KilnCore :=
  match n with
  | 0x300 => { k with mstatus := v &&& mstatusMask }
  | 0x304 => { k with mie := v &&& 0x888 }
  | 0x305 => { k with mtvec := v &&& ~~~2#64 }
  | 0x340 => { k with mscratch := v }
  | 0x341 => { k with mepc := v &&& ~~~1#64 }
  | 0x342 => { k with mcause := v }
  | 0x343 => { k with mtval := v }
  | 0xB00 => { k with mcycle := v }
  | 0xB02 => { k with minstret := v }
  | _ => k

/-- The return from an exception: the address and the interrupt enable that its entry saved. -/
def KilnCore.mret (k : KilnCore) : KilnCore :=
  { k with
    pc := k.mepc, minstret := k.minstret + 1
    mstatus := (k.mstatus &&& ~~~mstatusMask) ||| (((k.mstatus >>> 7) &&& 1) <<< 3) ||| 0x80 }

/-! ### Compressed words -/

/-- Bits [lo, lo + n) of a word, placed at a bit. -/
def bitsAt (c lo n at' : Nat) : Nat := c / 2 ^ lo % 2 ^ n * 2 ^ at'

def rvR (op f3 f7 rd rs1 rs2 : Nat) : Nat := op + rd * 2 ^ 7 + f3 * 2 ^ 12 + rs1 * 2 ^ 15 + rs2 * 2 ^ 20 + f7 * 2 ^ 25
def rvI (op f3 rd rs1 imm : Nat) : Nat := op + rd * 2 ^ 7 + f3 * 2 ^ 12 + rs1 * 2 ^ 15 + imm % 2 ^ 12 * 2 ^ 20
def rvS (f3 rs1 rs2 imm : Nat) : Nat := 0x23 + imm % 32 * 2 ^ 7 + f3 * 2 ^ 12 + rs1 * 2 ^ 15 + rs2 * 2 ^ 20 + imm / 32 % 128 * 2 ^ 25
def rvB (f3 rs1 imm : Nat) : Nat :=
  0x63 + bitsAt imm 11 1 7 + bitsAt imm 1 4 8 + f3 * 2 ^ 12 + rs1 * 2 ^ 15 + bitsAt imm 5 6 25 + bitsAt imm 12 1 31
def rvJ (rd imm : Nat) : Nat := 0x6F + rd * 2 ^ 7 + bitsAt imm 12 8 12 + bitsAt imm 11 1 20 + bitsAt imm 1 10 21 + bitsAt imm 20 1 31

/-- An immediate of n bits sign-extended to m bits. -/
def widen (v n m : Nat) : Nat := (sextInt v n % 2 ^ m).toNat

/-- The word of 32 bits that a compressed word of quadrant 0 stands for. -/
def rvExpand0 (c : Nat) : Option Nat :=
  let a := 8 + c / 2 ^ 7 % 8
  let b := 8 + c / 4 % 8
  let word := bitsAt c 10 3 3 + bitsAt c 6 1 2 + bitsAt c 5 1 6
  let double := bitsAt c 10 3 3 + bitsAt c 5 2 6
  match c / 2 ^ 13 with
  | 0 =>
    let imm := bitsAt c 11 2 4 + bitsAt c 7 4 6 + bitsAt c 6 1 2 + bitsAt c 5 1 3
    if imm = 0 then none else some (rvI 0x13 0 b 2 imm)
  | 2 => some (rvI 0x03 2 b a word)
  | 3 => some (rvI 0x03 3 b a double)
  | 6 => some (rvS 2 a b word)
  | 7 => some (rvS 3 a b double)
  | _ => none

def rvExpand1 (c : Nat) : Option Nat :=
  let rd := c / 2 ^ 7 % 32
  let a := 8 + c / 2 ^ 7 % 8
  let b := 8 + c / 4 % 8
  let six := bitsAt c 12 1 5 + bitsAt c 2 5 0
  let imm := widen six 6 12
  match c / 2 ^ 13 with
  | 0 => some (rvI 0x13 0 rd rd imm)
  | 1 => if rd = 0 then none else some (rvI 0x1B 0 rd rd imm)
  | 2 => some (rvI 0x13 0 rd 0 imm)
  | 3 =>
    if six = 0 then none
    else if rd = 2 then
      some (rvI 0x13 0 2 2 (widen (bitsAt c 12 1 9 + bitsAt c 6 1 4 + bitsAt c 5 1 6 + bitsAt c 3 2 7 + bitsAt c 2 1 5) 10 12))
    else some (0x37 + rd * 2 ^ 7 + widen six 6 20 * 2 ^ 12)
  | 4 =>
    (match c / 2 ^ 10 % 4 with
     | 0 => some (rvI 0x13 5 a a six)
     | 1 => some (rvI 0x13 5 a a (six + 0x400))
     | 2 => some (rvI 0x13 7 a a imm)
     | _ =>
       match c / 2 ^ 12 % 2, c / 2 ^ 5 % 4 with
       | 0, 0 => some (rvR 0x33 0 0x20 a a b)
       | 0, 1 => some (rvR 0x33 4 0 a a b)
       | 0, 2 => some (rvR 0x33 6 0 a a b)
       | 0, _ => some (rvR 0x33 7 0 a a b)
       | _, 0 => some (rvR 0x3B 0 0x20 a a b)
       | _, 1 => some (rvR 0x3B 0 0 a a b)
       | _, _ => none)
  | 5 =>
    some (rvJ 0 (widen (bitsAt c 12 1 11 + bitsAt c 11 1 4 + bitsAt c 9 2 8 + bitsAt c 8 1 10 + bitsAt c 7 1 6 + bitsAt c 6 1 7 + bitsAt c 3 3 1
      + bitsAt c 2 1 5) 12 21))
  | q => some (rvB (q - 6) a (widen (bitsAt c 12 1 8 + bitsAt c 10 2 3 + bitsAt c 5 2 6 + bitsAt c 3 2 1 + bitsAt c 2 1 5) 9 13))

def rvExpand2 (c : Nat) : Option Nat :=
  let rd := c / 2 ^ 7 % 32
  let r2 := c / 4 % 32
  match c / 2 ^ 13 with
  | 0 => some (rvI 0x13 1 rd rd (bitsAt c 12 1 5 + bitsAt c 2 5 0))
  | 2 => if rd = 0 then none else some (rvI 0x03 2 rd 2 (bitsAt c 12 1 5 + bitsAt c 4 3 2 + bitsAt c 2 2 6))
  | 3 => if rd = 0 then none else some (rvI 0x03 3 rd 2 (bitsAt c 12 1 5 + bitsAt c 5 2 3 + bitsAt c 2 3 6))
  | 4 =>
    if c / 2 ^ 12 % 2 = 0 then
      if r2 = 0 then (if rd = 0 then none else some (rvI 0x67 0 0 rd 0)) else some (rvR 0x33 0 0 rd 0 r2)
    else if r2 = 0 then (if rd = 0 then some 0x00100073 else some (rvI 0x67 0 1 rd 0)) else some (rvR 0x33 0 0 rd rd r2)
  | 6 => some (rvS 2 2 r2 (bitsAt c 9 4 2 + bitsAt c 7 2 6))
  | 7 => some (rvS 3 2 r2 (bitsAt c 10 3 3 + bitsAt c 7 3 6))
  | _ => none

def rvExpand (c : Nat) : Option Nat :=
  match c % 4 with
  | 0 => rvExpand0 c
  | 1 => rvExpand1 c
  | _ => rvExpand2 c

/-! ### Words -/

/-- What the read-modify-write of an A-extension word is. -/
def rvAmo : Nat → Option AOp
  | 0 => some .add
  | 1 => some .swap
  | 4 => some .xor
  | 8 => some .or
  | 12 => some .and
  | 16 => some .min
  | 20 => some .max
  | 24 => some .minu
  | 28 => some .maxu
  | _ => none

/-- A word in execution: the core, its 32 bits, its length in bytes, and what stands in memory. -/
structure RvWord where
  k : KilnCore
  w : Nat
  len : Nat
  raw : Nat
  deriving DecidableEq, Repr

def RvWord.rd (x : RvWord) : Nat := x.w / 2 ^ 7 % 32
def RvWord.f3 (x : RvWord) : Nat := x.w / 2 ^ 12 % 8
def RvWord.f7 (x : RvWord) : Nat := x.w / 2 ^ 25
def RvWord.rs2 (x : RvWord) : Nat := x.w / 2 ^ 20 % 32
def RvWord.a (x : RvWord) : Word := x.k.rd (x.w / 2 ^ 15 % 32)
def RvWord.b (x : RvWord) : Word := x.k.rd x.rs2
def RvWord.immI (x : RvWord) : Word := rvSx (x.w / 2 ^ 20) 12
def RvWord.immS (x : RvWord) : Word := rvSx (x.f7 * 32 + x.rd) 12
def RvWord.immB (x : RvWord) : Word := rvSx (bitsAt x.w 31 1 12 + bitsAt x.w 7 1 11 + bitsAt x.w 25 6 5 + bitsAt x.w 8 4 1) 13
def RvWord.immU (x : RvWord) : Word := rvSx (x.w / 2 ^ 12 * 2 ^ 12) 32
def RvWord.immJ (x : RvWord) : Word := rvSx (bitsAt x.w 31 1 20 + bitsAt x.w 12 8 12 + bitsAt x.w 20 1 11 + bitsAt x.w 21 10 1) 21

/-- The word writes a register and the core goes on behind it. -/
def RvWord.puts (x : RvWord) (s : State) (v : Word) : State := s.setKiln (x.k.doneBy x.len x.rd v)

/-- The word writes a register, or is no instruction (mcause 2). -/
def RvWord.orIllegal (x : RvWord) (s : State) : Option Word → State
  | some v => x.puts s v
  | none => s.setKiln (x.k.trap 2 (BitVec.ofNat 64 x.raw))

def RvWord.illegal (x : RvWord) (s : State) : Out := .next (x.orIllegal s none)

/-- The core goes on elsewhere, and the address behind the word goes to a register. -/
def RvWord.jump (x : RvWord) (s : State) (target : Word) : Out :=
  .next (s.setKiln { x.k.doneBy x.len x.rd (x.k.pc + BitVec.ofNat 64 x.len) with pc := target })

/-- The core goes on behind the word or at a branch's target; no register is written. -/
def RvWord.branch (x : RvWord) (s : State) : Out :=
  match rvTaken x.f3 x.a x.b with
  | none => x.illegal s
  | some taken => .next (s.setKiln { x.k.doneBy x.len 0 0 with pc := x.k.pc + (if taken then x.immB else BitVec.ofNat 64 x.len) })

def RvWord.load (x : RvWord) (s : State) : Out :=
  let n := 2 ^ (x.f3 % 4)
  if x.f3 = 7 then x.illegal s
  else s.kilnAccess x.k (x.a + x.immI) n 4 5 peRD false fun p =>
    let v := s.spotRead p n
    .next (x.puts s (if x.f3 < 4 then rvSx v (8 * n) else BitVec.ofNat 64 v))

def RvWord.store (x : RvWord) (s : State) : Out :=
  let n := 2 ^ x.f3
  if 4 ≤ x.f3 then x.illegal s
  else s.kilnAccess x.k (x.a + x.immS) n 6 7 peWR true fun p =>
    .next ((s.setKiln (x.k.doneBy x.len 0 0)).spotWrite p n (x.b.toNat % 2 ^ (8 * n)))

def RvWord.atomic (x : RvWord) (s : State) : Out :=
  let n := 2 ^ x.f3
  let f5 := x.f7 / 4
  if x.f3 ≠ 2 ∧ x.f3 ≠ 3 then x.illegal s
  else if f5 = 2 then
    if x.rs2 ≠ 0 then x.illegal s
    else s.kilnAccess x.k x.a n 4 5 peRD false fun p =>
      .next (s.setKiln { x.k.doneBy x.len x.rd (rvSx (s.spotRead p n) (8 * n)) with reserved := some p.key })
  else if f5 = 3 then
    s.kilnAccess x.k x.a n 6 7 peWR true fun p =>
      let ok := x.k.reserved == some p.key
      let s1 := s.setKiln { x.k.doneBy x.len x.rd (if ok then 0 else 1) with reserved := none }
      .next (if ok then s1.spotWrite p n (x.b.toNat % 2 ^ (8 * n)) else s1)
  else match rvAmo f5 with
    | none => x.illegal s
    | some op =>
      s.kilnAccess x.k x.a n 6 7 (fun e => peRD e && peWR e && peAT e) false fun p =>
        let old := s.spotRead p n
        .next ((x.puts s (rvSx old (8 * n))).spotWrite p n (atomicNew op (8 * n) old (x.b.toNat % 2 ^ (8 * n)) 0))

/-- A word of Zicsr: the register's old value goes to rd, the new one into the register. -/
def RvWord.csrWord (x : RvWord) (s : State) : Out :=
  let n := x.w / 2 ^ 20
  let src := x.w / 2 ^ 15 % 32
  let v : Word := if 4 ≤ x.f3 then BitVec.ofNat 64 src else x.a
  let writes := x.f3 % 4 == 1 || src != 0
  match x.k.csr s.kilnIdx n with
  | none => x.illegal s
  | some old =>
    if writes && decide (n / 2 ^ 10 = 3) then x.illegal s
    else
      let k := x.k.doneBy x.len x.rd old
      let new := match x.f3 % 4 with
        | 1 => v
        | 2 => old ||| v
        | _ => old &&& ~~~v
      .next (s.setKiln (if writes then k.setCsr n new else k))

def RvWord.system (x : RvWord) (s : State) : Out :=
  if x.f3 % 4 ≠ 0 then x.csrWord s
  else match x.w with
    | 0x00000073 => .next (s.setKiln (x.k.trap 11 0))
    | 0x00100073 => .next (s.setKiln (x.k.trap 3 x.k.pc))
    | 0x30200073 => .next (s.setKiln x.k.mret)
    | 0x10500073 => .next (x.puts s 0)
    | _ => x.illegal s

/-- One word of 32 bits. -/
def RvWord.run (x : RvWord) (s : State) : Out :=
  match x.w % 128 with
  | 0x37 => .next (x.puts s x.immU)
  | 0x17 => .next (x.puts s (x.k.pc + x.immU))
  | 0x6F => x.jump s (x.k.pc + x.immJ)
  | 0x67 => if x.f3 = 0 then x.jump s ((x.a + x.immI) &&& ~~~1#64) else x.illegal s
  | 0x63 => x.branch s
  | 0x03 => x.load s
  | 0x23 => x.store s
  | 0x13 => .next (x.orIllegal s (rvOpImm x.f3 x.w x.a))
  | 0x1B => .next (x.orIllegal s (rvOpImmW x.f3 x.w x.a))
  | 0x33 => .next (x.orIllegal s (rvOp x.f3 x.f7 x.a x.b))
  | 0x3B => .next (x.orIllegal s (rvOpW x.f3 x.f7 x.a x.b))
  | 0x0F => if x.f3 ≤ 1 then .next (s.setKiln (x.k.doneBy x.len 0 0)) else x.illegal s
  | 0x2F => x.atomic s
  | 0x73 => x.system s
  | _ => x.illegal s


/-- The two bytes at an address of the program, for the fetch. -/
def State.kilnFetch (s : State) (k : KilnCore) (va : Word) (go : Nat → Out) : Out :=
  s.kilnAccess k va 2 0 1 peEX false fun p => go (s.spotRead p 2)

/-- The word at a Kiln core's program counter is fetched: two bytes, or four where they say so. What is done with it is given. -/
def State.kilnWord (s : State) (go : RvWord → Out) : Out :=
  let k := s.kilnCore
  s.kilnFetch k k.pc fun lo =>
    if lo % 4 = 3 then s.kilnFetch k (k.pc + 2) fun hi => go { k := k, w := lo + 2 ^ 16 * hi, len := 4, raw := lo + 2 ^ 16 * hi }
    else match rvExpand lo with
      | some w => go { k := k, w := w, len := 2, raw := lo }
      | none => .next (s.setKiln (k.trap 2 (BitVec.ofNat 64 lo)))

end Sys2Proof.Machine
end

