-- ==== Sys2Proof/Machine/Kiln.lean ====
section
/-!
DEFINITION. Kiln's extension instructions (R374, R375).
-/

namespace Sys2Proof.Machine

/-- The packet slot in the SRAM (R374). -/
def kilnSlot (die i : Nat) : Nat := die * 2 ^ 19 + 0x40000 + 64 * (i % 8)

/-- Where 64 bytes that the firmware reads stand: in device memory, and readable (R354, R375). -/
def State.kilnReads (s : State) (va : Nat) : Place :=
  if 2 ^ 52 ≤ va then .absent
  else match s.placeOf 0 va with
    | .home h => if peRD h.entry && decide (h.node < 4) then .home h else .absent
    | x => x

/-- An address that the firmware finds nothing at: the error of a table's line, met on the way, poisons it (R363). -/
def State.kilnMissed (s : State) (va : Nat) : State := if 2 ^ 52 ≤ va then s else s.meetTable 0 va

/-- KRFET (R374): the header and the packet are read through ASID 0; a stack that is not trained holds the core (R377). What cannot be read raises cause 24,
an uncorrectable error too, which poisons its line (R363, log entry 31). -/
def execKrfet (rs2 rs1 rd : BitVec 5) (s : State) : Out :=
  let k := s.kilnCore
  let hdr := k.rd rs1.toNat
  let i := (k.rd rs2.toNat).toNat
  let bad : Out := .next (s.setKiln (k.trap 24 hdr))
  if hdr.toNat % 64 ≠ 0 then bad
  else match s.kilnReads hdr.toNat with
    | .wait => .next s
    | .absent => .next ((s.kilnMissed hdr.toNat).setKiln (k.trap 24 hdr))
    | .hole _ _ => bad
    | .home h =>
      let n := s.ringLog 0 hdr.toNat
      let a := s.pktAddr 0 hdr.toNat i
      if s.unreadable h then .next ((s.meetError h).setKiln (k.trap 24 hdr))
      else if n < 4 ∨ 16 < n then bad
      else match s.kilnReads a with
        | .wait => .next s
        | .absent => .next ((s.kilnMissed a).setKiln (k.trap 24 hdr))
        | .hole _ _ => bad
        | .home h =>
          if s.unreadable h then .next ((s.meetError h).setKiln (k.trap 24 hdr)) else
          let die := s.kilnIdx / 4
          let w0 := s.pktWord 0 hdr.toNat i 0
          let s1 : State := { s with kiln := { s.kiln with sram := cellsWriteN (kilnSlot die i) (s.homeRead 0 a 64) 64 s.kiln.sram } }
          .next (s1.setKiln (k.done rd.toNat (if s.pktValid 0 hdr.toNat i then BitVec.ofNat 64 w0 else 0)))

/-- KBFX (R374): the field as BFXU takes it. -/
def execKbfx (rs2 rs1 rd : BitVec 5) (s : State) : Out :=
  let k := s.kilnCore
  let f := k.rd rs2.toNat
  if f.toNat / 2 ^ 15 ≠ 0 ∨ f.getLsbD 7 then .next (s.setKiln (k.trap 25 f))
  else .next (s.setKiln (k.done rd.toNat (BitVec.ofNat 64 ((k.rd rs1.toNat).toNat / 2 ^ fieldPos f % 2 ^ fieldLen f))))

/-- KSWAIT (R374). -/
def execKswait (rs1 rd : BitVec 5) (s : State) : Out :=
  let k := s.kilnCore
  let m := k.rd rs1.toNat
  if m = 0 ∨ m.toNat / 2 ^ 36 ≠ 0 then .next (s.setKiln (k.trap 26 m))
  else .next ((s.setKiln { k with stalled := some (32 * rs1.toNat + rd.toNat) }).kilnWake s.kilnIdx)

/-- KSWAIT_WAKE (R374). -/
def execKswaitWake (die line : Nat) (s : State) : Out :=
  if 36 ≤ line ∨ 4 ≤ die then .next s else .next (s.eventLine die line)

/-- Whether KDISP's packet may be launched now (R368): a launch packet that has started and waits first for the launch list, or one that may start while none waits
for it. -/
def State.kdispOpen (s : State) (q : HQueue) (i : Nat) : Bool :=
  match q.started.find? (·.idx == i) with
  | some p => s.firstUnlisted == some (q, p)
  | none => s.firstUnlisted.isNone && s.mayStart q i && s.pktType q.asid q.hdr i == 1 && !s.queueBad q i

/-- KDISP (R374). The launch record belongs to the context of the slot's queue. A packet that R368 does not let start, or that others precede, is not accepted: rd is 1,
as for a full launch list (log entry 31). -/
def execKdisp (rs2 rs1 rd : BitVec 5) (s : State) : Out :=
  let k := s.kilnCore
  let a := k.rd rs1.toNat
  let w := k.rd rs2.toNat
  let die := s.kilnIdx / 4
  if a.toNat % 64 ≠ 0 then .next (s.setKiln (k.trap 27 a))
  else match s.queueInSlot? die (bitsOf w 0 5) with
    | none => .next (s.setKiln (k.trap 27 w))
    | some q =>
      let i := bitsOf w 16 32
      if decide (launchLimit ≤ s.launchCount die) || !s.kdispOpen q i then .next (s.setKiln (k.done rd.toNat 1))
      else
        -- a packet that starts clears its wait tokens (R368)
        let s1 := if q.started.any (·.idx == i) then s else s.startPkt q i false 0
        let l : LaunchReq :=
          { die := die, asid := q.asid, recAddr := a.toNat, src := .queue q.id i, origin := some (q.id, i), lr := none, held := none }
        let s2 : State := { s1 with launches := s1.launches ++ [l] }
        .next (s2.setKiln (k.done rd.toNat 0))

end Sys2Proof.Machine
end

