-- ==== Sys2Proof/Machine/Monitor.lean ====
section
/-!
DEFINITION. The colour monitor (R231 to R247): COLR, the monitor words, and the messages, replies and releases.
-/

namespace Sys2Proof.Machine

/-! ### COLR (R232, R233) -/

/-- COLR (R232). -/
def execColr (g : BitVec 4) (d b l : BitVec 6) (s : State) : Out :=
  .next (s.startOps g false false [.g b.toNat, .g l.toNat, .g d.toNat]
    (fun iss t =>
      let c := (srcG iss t .sign d).toNat
      let a := srcG iss t .zero b
      let n := (srcG iss t .zero l).toNat % 2 ^ 32
      if c < 1 ∨ 63 < c then .error (.mk2 tcMonitor a)
      else if 2 ^ 52 ≤ a.toNat then .error (.mk2 tcProtection a)
      else if a.toNat % 64 != 0 || n % 64 != 0 then .error (.mk2 tcMisaligned a)
      else .ok (.plain a (.colr c n)))).pump

/-- COLR at one line's home (R231 to R233): a line of a peer package that has a colour is refused. A range that runs past 2^52 is a PROTECTION fault at the first line
there (log entry 80), which the lines before it have not undone (R233). -/
def State.colourLine (s : State) (o : Op) (c left : Nat) : State :=
  if left = 0 then s.dropOp o.id
  else if 2 ^ 52 ≤ o.addr.toNat then s.foundFault o tcProtection o.addr
  else
    let va := o.addr.toNat
    match s.homeFor o false with
    | (s1, .error .wait) => s1
    | (s1, .error (.bad node addr)) => (s1.meetLine node addr).foundFault o tcUncorrectable o.addr
    | (s1, .error (.absent l mf)) => s1.pageFault o va l mf
    | (s1, .ok h) =>
      if !peME h.entry || !peWR h.entry then s1.foundFault o tcProtection o.addr
      else if !s1.stackTrained h.node h.addr || !s1.frameExists h.node h.addr then s1
      -- the colour that the line has is read at its home (R363, R382)
      else if s1.unreadable h then (s1.meetError h).foundFault o tcUncorrectable o.addr
      else if mColour (s1.mem.metaAt h.node h.addr) != 0 && decide (h.node ≥ 8) then s1.foundFault o tcProtection o.addr
      else
        let s2 := (s1.writePeer h (va / 64)).purgeLines fun _ _ x => x.node == h.node && x.addr == h.addr
        let md := s2.mem.metaAt h.node h.addr
        if mColour md != 0 && mColour md != c then s2.foundFault o tcProtection o.addr
        else
          let s3 : State := { s2 with mem := s2.mem.setMeta h.node h.addr (setColour md c) }
          if left ≤ 64 then s3.dropOp o.id
          else s3.modOp o.id fun o => { o with addr := o.addr + 64, kind := .colr c (left - 64) }

/-- Whether COLR meets no line, or the page of its line does not admit it (R232). -/
def State.colourRefused (s : State) (o : Op) (left : Nat) : Bool :=
  left == 0 || decide (2 ^ 52 ≤ o.addr.toNat) || (match (s.homeFor o false).2 with
    | .ok h => !peME h.entry || !peWR h.entry
    | .error _ => false)

/-- COLR_LINE (R233). -/
def execColrLine (op : Nat) (s : State) : Out :=
  match s.op? op with
  | none => .next s
  | some o =>
    match o.kind with
    | .colr c left =>
      if !s.gate o then .next s
      else if s.colourRefused o left then .next (s.colourLine o c left).pump
      else orHole s o (s.colourLine o c left).pump
    | _ => .next s

/-! ### The monitor words (R244 to R247) -/

/-- A colour the thread holds, its acquire sent at least (R238). -/
def Thread.holds (t : Thread) (c : Nat) : Bool := t.held.any fun h => h.colour == c && h.st != .waiting

/-- The check of CWAIT, CNOTIFY and CNOTIFYALL (R244). -/
def monitorReq (top : Bool) (b : BitVec 6) (iss : Issue) (t : Thread) : Except Flt Nat :=
  let c := (srcG iss t .zero b).toNat
  if c < 1 ∨ 63 < c then .error (.mk2 tcMonitor 0)
  else if !t.holds c then .error (.mk2 tcMonitor 0)
  else if top && t.held.any (fun h => h.st != .waiting && decide (c < h.colour)) then .error (.mk2 tcMonitor 0)
  else .ok c

/-- The threads a monitor word executes for without a fault, with the colour each names, in ascending index (R242). -/
def State.monitorOks (s : State) (top : Bool) (g : BitVec 4) (b : BitVec 6) (iss : Issue) : List (Thread × Nat) :=
  (s.executing iss g).filterMap fun t => match monitorReq top b iss t with
    | .ok c => some (t, c)
    | .error _ => none

/-- A word that sends a message for a held colour (R244). -/
def notifyWord (kind : MsgKind) (g : BitVec 4) (b : BitVec 6) (s : State) : Out :=
  match s.cur? with
  | none => .next s
  | some iss =>
    let oks := s.monitorOks false g b iss
    let s1 := s.onIssuing (threadOne g s.fresh fun iss t => (monitorReq false b iss t).map fun _ => t)
    let ms : List Msg := (withIdx s.fresh oks).map fun x =>
      ({ id := x.1, tid := x.2.1.tid, gid := x.2.1.gid, asid := s.asidOf x.2.1.gid, colour := x.2.2, depth := 0, kind := kind, grp := 0 } : Msg)
    .next { s1 with msgs := s1.msgs ++ ms, fresh := s.fresh + ms.length }

/-- CWAIT for one thread: the colour is given up, a wait message will follow, the thread is park-pending (R245). -/
def State.giveUp (s : State) (x : Thread × Nat) : State :=
  let depth := ((x.1.held.find? fun h => h.colour == x.2).map (·.depth)).getD 0
  let s1 := s.modThread x.1.tid fun t =>
    { t with
      held := t.held.map fun h => if h.colour = x.2 then { h with st := .waiting } else h
      parks := t.parks ++ [.cwait x.2 s.fresh] }
  { s1 with
    rels := s1.rels ++ [{ id := s.fresh, tid := x.1.tid, gid := x.1.gid, asid := s.asidOf x.1.gid, core := x.1.core, colour := x.2, depth := depth,
                          seq := s.fresh, wait := true }]
    fresh := s.fresh + 1 }

/-- CWAIT (R245). -/
def execCwait (g : BitVec 4) (b : BitVec 6) (s : State) : Out :=
  match s.cur? with
  | none => .next s
  | some iss =>
    let oks := s.monitorOks true g b iss
    let s1 := s.onIssuing (threadOne g s.fresh fun iss t => (monitorReq true b iss t).map fun _ => t)
    .next (oks.foldl State.giveUp s1)

/-- CNOTIFY (R244). -/
def execCnotify (g : BitVec 4) (b : BitVec 6) (s : State) : Out :=
  notifyWord .notify g b s

/-- CNOTIFYALL (R244). -/
def execCnotifyall (g : BitVec 4) (b : BitVec 6) (s : State) : Out :=
  notifyWord .notifyAll g b s

/-- CHELD (R247). -/
def execCheld (g : BitVec 4) (d b : BitVec 6) (s : State) : Out :=
  fixedWord g 4 [.g b.toNat]
    (fun iss t =>
      let c := (srcG iss t .zero b).toNat
      let v := match t.held.find? fun h => h.colour == c && h.st != .waiting with
        | none => 0
        | some h => 1 + h.depth
      .ok [.g d.toNat (BitVec.ofNat 64 v)]) s

/-! ### Messages at the home slice (R235, R236, R242) -/

def State.monitorAt (s : State) (asid c : Nat) : Monitor :=
  (s.monitors.find? fun m => m.asid == asid && m.colour == c).getD
    { asid := asid, colour := c, owner := none, entry := [], waiters := [] }

def State.setMonitor (s : State) (m : Monitor) : State :=
  { s with monitors := (s.monitors.filter fun x => !(x.asid == m.asid && x.colour == m.colour)) ++ [m] }

/-- A reply to a thread. -/
def State.reply (s : State) (tid asid c depth : Nat) (grant : Bool) : State :=
  { s with
    replies := s.replies ++ [{ id := s.fresh, tid := tid, asid := asid, colour := c, depth := depth, grant := grant }]
    fresh := s.fresh + 1 }

/-- Whether a message has to wait for an earlier one of its thread or its issue group to the same slice (R242). -/
def State.msgWaits (s : State) (m : Msg) : Bool :=
  s.msgs.any fun x => decide (x.id < m.id) && monitorSlice x.asid x.colour == monitorSlice m.asid m.colour
    && (x.tid == m.tid || (x.grp != 0 && x.grp == m.grp))

/-- The monitor is freed or given to the head of its entry queue (R236). -/
def State.passOn (s : State) (m : Monitor) : State :=
  match m.entry with
  | [] => s.setMonitor { m with owner := none }
  | e :: rest => (s.setMonitor { m with owner := some e, entry := rest }).reply e.1 m.asid m.colour e.2 true

/-- A message of the kind is served (R236). -/
def monitorServe (kind : MsgKind) (f : State → Msg → Monitor → State) (msg : Nat) (s : State) : Out :=
  match s.msgs.find? fun m => m.id == msg with
  | none => .next s
  | some m =>
    if m.kind ≠ kind ∨ s.msgWaits m then .next s
    else
      let s1 : State := { s with msgs := s.msgs.filter fun x => x.id != msg }
      .next (f s1 m (s1.monitorAt m.asid m.colour))

/-- MONITOR_ACQUIRE (R236). -/
def execMonitorAcquire (msg : Nat) (s : State) : Out :=
  monitorServe .acquire (fun s m mon =>
    match mon.owner with
    | none => (s.setMonitor { mon with owner := some (m.tid, m.depth) }).reply m.tid m.asid m.colour m.depth true
    | some _ => (s.setMonitor { mon with entry := mon.entry ++ [(m.tid, m.depth)] }).reply m.tid m.asid m.colour m.depth false) msg s

/-- MONITOR_RELEASE (R236). -/
def execMonitorRelease (msg : Nat) (s : State) : Out :=
  monitorServe .release (fun s _ mon => s.passOn mon) msg s

/-- MONITOR_WAIT (R236). -/
def execMonitorWait (msg : Nat) (s : State) : Out :=
  monitorServe .wait (fun s m mon =>
    s.passOn { mon with waiters := mon.waiters ++ [(m.tid, m.depth)] }) msg s

/-- MONITOR_NOTIFY (R236). -/
def execMonitorNotify (msg : Nat) (s : State) : Out :=
  monitorServe .notify (fun s _ mon =>
    match mon.waiters with
    | [] => s
    | w :: rest => s.setMonitor { mon with entry := mon.entry ++ [w], waiters := rest }) msg s

/-- MONITOR_NOTIFY_ALL (R236). -/
def execMonitorNotifyAll (msg : Nat) (s : State) : Out :=
  monitorServe .notifyAll (fun s _ mon =>
    s.setMonitor { mon with entry := mon.entry ++ mon.waiters, waiters := [] }) msg s

/-! ### Replies at the core (R238, R239, R243, R245) -/

/-- Whether a reply waits: its thread's context is switched out (R243), or an earlier reply for the colour is still to come. -/
def State.replyWaits (s : State) (r : Reply) (core : Nat) : Bool :=
  s.runningAsid? core != some r.asid || s.replies.any fun x => decide (x.id < r.id) && x.tid == r.tid && x.colour == r.colour

/-- The acquire of a grant (R239): lines of colour 0 and c leave the L1, lines of other colours stay, and the thread's later reads use no copy of a die
filled before it. -/
def State.grantAcquire (s : State) (core asid tid c : Nat) : State :=
  let s1 := s.dropL1 core fun l => l.asid == asid && (l.colour == 0 || l.colour == c)
  let held (seq : Nat) : Bool := s1.ops.any fun o => o.tid == tid && o.st == .blocked c && decide (o.seq < seq)
  { (s1.modThread tid fun t => { t with acqC := s1.fresh + 1 }) with
    ops := s1.ops.map fun o => if o.tid = tid ∧ o.waiting then { o with acqC := s1.fresh + 1 } else o
    cpys := s1.cpys.map fun (y : Copy) => if y.tid = tid ∧ held y.seq then { y with acqC := s1.fresh + 1 } else y
    fresh := s1.fresh + 2 }

/-- The grant of a colour given up by CWAIT restores it at its depth and wakes the thread; any grant lets the held accesses go on, and a
thread parked on the colour then waits for its access (R98, R238, R245). A grant that comes before the wait message has been sent is that of the acquire before
it. -/
def State.granted (s : State) (tid c : Nat) : State :=
  let first := s.rels.any fun r => r.tid == tid && r.colour == c
  let os := s.ops.filter fun o => o.tid == tid && o.st == .blocked c
  let s1 : State := { s with ops := s.ops.map fun o => if o.tid = tid ∧ o.st = .blocked c then { o with st := .queued } else o }
  let s2 := s1.modThread tid fun t =>
    { t with
      held := if first then t.held else t.held.map fun h => if h.colour = c then { h with st := .granted } else h
      parks := t.parks.flatMap fun p => if p = .colour c then os.map fun o => .fault o.id else [p] }
  let early := s.rels.any fun r => r.tid == tid && r.colour == c && r.wait
  let s3 := if early then s2 else s2.endPark tid fun p => match p with
    | .cwait x _ => x == c
    | _ => false
  s3.endPark tid fun _ => false

/-- MONITOR_GRANT (R239). -/
def execMonitorGrant (reply : Nat) (s : State) : Out :=
  match s.replies.find? fun r => r.id == reply with
  | none => .next s
  | some r =>
    match s.thread? r.tid with
    | none => .next s
    | some t =>
      if !r.grant || s.replyWaits r t.core then .next s
      else
        let s1 : State := { s with replies := s.replies.filter fun x => x.id != reply }
        .next ((s1.grantAcquire t.core r.asid r.tid r.colour).granted r.tid r.colour).pump

/-- MONITOR_QUEUED_REPLY (R238). -/
def execMonitorQueuedReply (reply : Nat) (s : State) : Out :=
  match s.replies.find? fun r => r.id == reply with
  | none => .next s
  | some r =>
    match s.thread? r.tid with
    | none => .next s
    | some t =>
      if r.grant || s.replyWaits r t.core then .next s
      else
        let s1 : State := { s with replies := s.replies.filter fun x => x.id != reply }
        -- a thread that has exited does not park (R241)
        .next (if t.st = .exited then s1 else s1.addPark r.tid (.colour r.colour))

/-- Accesses that are performed before a release of a colour: not walks, launches and messages, which go their own way. -/
def OpKind.beforeRelease (k : OpKind) : Bool :=
  k.memory && (match k with
    | .pub .. => false
    | .launch .. => false
    | .amsend .. => false
    | _ => true)

/-- The dirty lines of colour 0 and of the released colour leave the L1 (R241). -/
def State.releaseWrites (s : State) (r : Rel) : State := s.cleanL1 r.core fun l => l.asid == r.asid && (l.colour == 0 || l.colour == r.colour)

/-- Whether the steps before a release or wait message are done: earlier accesses performed, the colour granted, and what the thread sent before for the
colour served (R241, R242). -/
def State.relReady (s : State) (r : Rel) : Bool :=
  (s.ops.all fun o => !(o.tid == r.tid && decide (o.seq < r.seq) && o.kind.beforeRelease && o.waiting))
  && (s.rels.all fun x => !(x.tid == r.tid && x.colour == r.colour && decide (x.id < r.id)))
  && (s.msgs.all fun m => !(m.tid == r.tid && m.colour == r.colour && m.kind != .notify && m.kind != .notifyAll))
  && ((s.monitorAt r.asid r.colour).owner.map (·.1)) == some r.tid
  && !(s.releaseWrites r).drainStuck (dieOf r.core) r.asid 4
  && s.replies.all fun x => !(x.tid == r.tid && x.colour == r.colour)

/-- COLOUR_RELEASE_SEND (R241). -/
def execColourReleaseSend (rel : Nat) (s : State) : Out :=
  match s.rels.find? fun r => r.id == rel with
  | none => .next s
  | some r =>
    if !s.relReady r then .next s
    else
      let s2 := (s.releaseWrites r).drainDie (dieOf r.core) r.asid
      let kind : MsgKind := if r.wait then .wait else .release
      .next { s2 with
        rels := s2.rels.filter fun x => x.id != rel
        msgs := s2.msgs ++ [{ id := s2.fresh, tid := r.tid, gid := r.gid, asid := r.asid, colour := r.colour, depth := r.depth, kind := kind, grp := 0 }]
        fresh := s2.fresh + 1 }

end Sys2Proof.Machine
end

