-- ==== Sys2Proof/Machine/Object.lean ====
section
/-!
DEFINITION. Objects and publication (R217 to R226): STREF, STHDR, the metadata reads, PUB and the eclosion walker.
-/

namespace Sys2Proof.Machine

/-! ### References, headers and metadata (R217 to R220) -/

/-- The check of a reference value (R217). -/
def refOk (v : Word) : Bool := v.toNat / 2 ^ 52 == 0 && (v.toNat % 8 == 0 || v == 0)

/-- STREF (R218). -/
def execStref (g : BitVec 4) (d b p : BitVec 6) (s : State) : Out :=
  opWord g true true [.g b.toNat, .g p.toNat, .g d.toNat]
    (fun iss t =>
      let v := srcG iss t .sign d
      match globalReq 8 b p (fun _ => .stref v) (some (8, v.toNat)) iss t with
      | .ok r => if refOk v then .ok r else .error (.mk2 tcProtection r.addr)
      | .error x => .error x) s

/-- STHDR (R219). -/
def execSthdr (g : BitVec 4) (d b p : BitVec 6) (s : State) : Out :=
  .next (s.startOps g false true [.g b.toNat, .g p.toNat, .g d.toNat]
    (fun iss t =>
      let v := (srcG iss t .sign d).toNat % 2 ^ 32
      globalReq 8 b p (fun pol => .store v 8 pol true) (some (8, v)) iss t)).pump

/-- STREF_HOME_CHECK (R218). -/
def execStrefHomeCheck (op : Nat) (s : State) : Out :=
  match s.op? op with
  | none => .next s
  | some o => match o.kind with
    | .stref _ => orHole s o (s.performGlobal o false false).pump
    | _ => .next s

/-- A flagged read of metadata (R220, R234): 0 the word's kind, 1 the effective scope, 2 the colour. -/
def metaWord (what : Nat) (g : BitVec 4) (d b p : BitVec 6) (s : State) : Out :=
  opWord g true false [.g b.toNat, .g p.toNat]
    (fun iss t => globalReq 1 b p (fun pol => .readMeta what d.toNat pol) none iss t) s

/-- TAGOF (R220). -/
def execTagof (g : BitVec 4) (d b p : BitVec 6) (s : State) : Out :=
  metaWord 0 g d b p s

/-- SCOPEOF (R220). -/
def execScopeof (g : BitVec 4) (d b p : BitVec 6) (s : State) : Out :=
  metaWord 1 g d b p s

/-- COLOF (R234). -/
def execColof (g : BitVec 4) (d b p : BitVec 6) (s : State) : Out :=
  metaWord 2 g d b p s

/-! ### PUB and the walker (R221 to R226) -/

/-- PUB (R221): the pol field holds the target scope as a number. Of a root that breaks both checks PROTECTION is reported, in the order in which R221 lists them
(log entry 33). -/
def execPub (g : BitVec 4) (d b k : BitVec 6) (s : State) : Out :=
  opWord g true false [.g b.toNat]
    (fun iss t =>
      let r := srcG iss t .zero b
      if 2 ^ 52 ≤ r.toNat then .error (.mk2 tcProtection r)
      else if r.toNat % 8 != 0 then .error (.mk2 tcMisaligned r)
      else .ok (.plain r (.pub k.toNat d.toNat))) s

/-- PUB's release at its scope (R222): 1 quad, 2 die, 3 package, 4 pod. -/
def State.pubRelease (s : State) (tid core asid scope : Nat) : State := s.releaseAt tid core asid (scope + 1)

/-- Whether a walk of the same issue group and a lower index has still to arrive at the walker (R226). -/
def State.walkTurn (s : State) (o : Op) : Bool :=
  s.ops.any fun p => p.grpSeq == o.grpSeq && decide (p.id < o.id) && s.walks.all (fun w => w.op != p.id) && (match p.kind with
    | .pub .. => true
    | _ => false)

/-- WALK_START (R222): the release, and then the walk arrives at its quad's walker, those of an issue group in ascending index (R226). -/
def execWalkStart (op : Nat) (s : State) : Out :=
  match s.op? op with
  | none => .next s
  | some o =>
    match o.kind with
    | .pub scope _ =>
      if !s.gate o || s.walks.any (fun w => w.op == o.id) || s.walkTurn o || s.releaseStuck o.core o.asid (scope + 1) then .next s
      else
        let s1 := s.pubRelease o.tid o.core o.asid scope
        .next { s1 with
          walks := s1.walks ++ [{ id := s1.fresh, op := o.id, quad := quadOf o.core, core := o.core, asid := o.asid, tid := o.tid,
                                  scope := scope, queue := [o.addr.toNat % 2 ^ 52], raised := 0, obj := none, lines := [], spilled := 0,
                                  absent := none }]
          fresh := s1.fresh + 1 }
    | _ => .next s

/-- The moments before which no copy that the walk reads may have been filled: those of its word (R227). -/
def State.walkBound (s : State) (w : Walk) : Nat := ((s.op? w.op).map fun o => max o.acq o.acqC).getD 0

/-- What the walker meets at an address: its home, or what stops it (R225). -/
inductive Met where
  | home (h : Home)
  | absent (level : Nat) (mf : Bool)
  | bad (code : Nat)
  | hole (node addr : Nat)
  | wait
  deriving DecidableEq, Repr

/-- The walker's accesses, of n bytes, are translated and checked like loads of the issuing thread (R225). The manual does not say what a reference to a page without metadata does
that also lacks read permission or is poisoned: dangling references cause no fault (R213), a failed access ends the walk (R225). Here the walker's access comes first, and
ends it (log entry 68). -/
def State.walkMeet (s : State) (w : Walk) (va n : Nat) : Met :=
  if 2 ^ 52 ≤ va then .bad tcProtection
  else
    match s.homeWith (dieOf w.core) w.asid va peRD with
    | .error .wait => .wait
    | .error (.bad _ _) => .bad tcUncorrectable
    | .error (.absent l mf) => .absent l mf
    | .ok h =>
      if !peRD h.entry then .bad tcProtection
      else if !s.frameExists h.node h.addr then .hole h.node h.addr
      else if !s.stackTrained h.node h.addr then .wait
      -- below package scope a copy of the die serves the walk as it serves a load
      else if s.unreadable h && !(decide (w.scope < 3) && s.copyServes (dieOf w.core) w.asid va n (s.walkBound w) h) then .bad tcUncorrectable
      else .home h

/-- The walker reads a line at the point of coherence of its scope (R181, R223): at the home from package scope on, in the die's L2 below. -/
def State.walkRead (s : State) (w : Walk) (va : Nat) (h : Home) : State × LineRead :=
  if 3 ≤ w.scope then
    let (s1, req) := (s.countMiss (dieOf w.core) w.asid (va / 64) h).readPeer h (va / 64)
    (s1, { s1.readHome h with req := req })
  else s.readL2 (dieOf w.core) w.asid (va / 64) h (s.walkBound w) true 1

/-- A line is raised (R223): written back, written through at package scope, and its scope set at the home, in the die's copy and in the
issuing core's L1. -/
def State.raiseLine (s : State) (w : Walk) (line : Nat) (h : Home) : State :=
  let die := dieOf w.core
  let s1 := s.cleanL1 w.core fun l => l.asid == w.asid && l.line == line
  -- the raise is a write at the home, of a peer by a request (R381, R382)
  let s2 := (if 3 ≤ w.scope then s1.drainLine die w.asid line else s1).writePeer h line
  let up (m : BitVec 32) : BitVec 32 := setScope m (max (mScope m) w.scope)
  let s3 : State := { s2 with
    mem := { (if peME h.entry then s2.mem.setMeta h.node h.addr (up (s2.mem.metaAt h.node h.addr)) else s2.mem) with
      copies := s2.mem.copies.map fun c =>
        if c.die = die ∧ c.asid = w.asid ∧ c.line = line ∧ peME h.entry then { c with mdata := up c.mdata } else c } }
  s3.modCore w.core fun k =>
    { k with l1 := k.l1.map fun l =>
        if l.asid = w.asid ∧ l.line = line ∧ peME h.entry then { l with mdata := up l.mdata } else l }

/-- Lines `line, line + 1, …` (n of them) are raised in address order, up to the first that the walker cannot read, with what it met there (R223, R225). -/
def State.raiseLines (s : State) (w : Walk) (line : Nat) : Nat → State × Option (Nat × Met)
  | 0 => (s, none)
  | n + 1 =>
    match s.walkMeet w (64 * line) 64 with
    | .home h => (s.raiseLine w line h).raiseLines w (line + 1) n
    | m => (s, some (64 * line, m))

/-- The first of n lines from `line` on that the walker cannot read, with what it meets there: lines raised before a page fault may have left since. -/
def State.walkBlocked (s : State) (w : Walk) (line : Nat) : Nat → Option (Nat × Met)
  | 0 => none
  | n + 1 =>
    match s.walkMeet w (64 * line) 64 with
    | .home _ => s.walkBlocked w (line + 1) n
    | m => some (64 * line, m)

/-- The references an object holds, in address order, from word address a on (R223). The walker reads each line once; that of the header it has read. -/
def State.objectRefs (s : State) (w : Walk) (a : Nat) : Nat → State × List Nat
  | 0 => (s, [])
  | n + 1 =>
    match s.walkMeet w a 8 with
    | .home h =>
      let (s1, r) := s.walkRead w a h
      let v := lineSlice r.data (a % 64) 8
      let newLine := a % 64 == 0 && w.obj.map (·.1) != some a
      let (s2, rest) := (if newLine || decide (w.scope < 3) then s1 else s).objectRefs w (a + 8) n
      (s2, if peME h.entry && mKind r.mdata (a % 64 / 8) == 1 && v != 0 then v % 2 ^ 52 :: rest else rest)
    | _ => s.objectRefs w (a + 8) n

/-- The hardware work queue of a walker, and the limit of a walk's queue with what spills (R224). -/
def walkQueue : Nat := 1024
def walkLimit : Nat := walkQueue + 2 ^ 20

def State.setWalk (s : State) (w : Walk) : State :=
  { s with walks := s.walks.map fun x => if x.id = w.id then w else x }

/-- Entries beyond the work queue are written to the quad's part of the walk area, 8 bytes each, in queue order (R224; log entry 53): `held` entries stand
in the queue before these. -/
def State.spill (s : State) (w : Walk) (held : Nat) : List Nat → State × Nat
  | [] => (s, w.spilled)
  | r :: rs =>
    if held < walkQueue then s.spill w (held + 1) rs
    else
      let base := ((s.ctx? w.asid).map (·.walkArea)).getD 0 + w.quad * 2 ^ 23
      (s.homeWrite w.asid (base + 8 * (w.spilled % 2 ^ 20)) 8 r).spill { w with spilled := w.spilled + 1 } (held + 1) rs

/-- Whether a write-through is of a line that the walk has raised. -/
def Walk.wrote (w : Walk) (x : WriteThrough) : Bool := x.die == dieOf w.core && x.asid == w.asid && w.lines.contains x.line

/-- The walk is over: what it wrote back reaches the home slices, for which it waits where their way is closed, and then its flag falls (R222). -/
def State.walkOver (s : State) (w : Walk) (last : State → Op → State) : State :=
  if s.mem.wts.any fun x => w.wrote x && s.wtStuck x then s
  else
    let s0 := s.drain w.wrote
    let s1 : State := { s0 with walks := s0.walks.filter fun x => x.id != w.id }
    match s1.op? w.op with
    | none => s1
    | some o => last s1 o

/-- A walk ends in a fault at its flag (R222, R224, R225). -/
def State.walkFault (s : State) (w : Walk) (code addr : Nat) : State := s.walkOver w fun s o => s.faultOp o code (BitVec.ofNat 64 addr)

/-- The walk ends: the count is written and the flag falls (R222). -/
def State.walkEnd (s : State) (w : Walk) : State :=
  s.walkOver w fun s o => match o.kind with
    | .pub _ d => s.finishOp o 0 [.g d (BitVec.ofNat 64 w.raised)]
    | _ => s

/-- What stops the walker at an address (R225): an ending fault, a page fault on which the walk is held, or a stack that is not trained. -/
def State.walkStop (s : State) (w : Walk) (va : Nat) : Met → Out
  | .home _ => .next s
  | .wait => .next s
  | .hole node addr => .fault (.noSuchMemory node addr)
  | .bad code =>
    .next ((if code = tcUncorrectable then s.meetErrorAt (dieOf w.core) w.asid va peRD else s).walkFault w code va)
  | .absent l mf =>
    let s1 := s.setWalk { w with absent := some va }
    match s1.op? w.op with
    | none => .next s1
    | some o => .next (s1.pageFault o va l mf)

/-- The words of an object whose lines are raised are scanned, and its references appended, as far as they fit (R223, R224). -/
def State.walkScan (s : State) (w : Walk) (h len : Nat) : State :=
  let (s0, refs) := s.objectRefs w h len
  let room := walkLimit - w.queue.length
  let (s1, n) := s0.spill w w.queue.length (refs.take room)
  match refs[room]? with
  | some r => s1.walkFault w tcWalkLimit r
  | none => s1.setWalk { w with queue := w.queue ++ refs, raised := w.raised + 1, spilled := n, obj := none, absent := none }

/-- The object whose header stands at `h` is raised from line `line` on, and scanned (R223). -/
def State.walkRaise (s : State) (w : Walk) (h len line : Nat) : Out :=
  let last := (h + 8 * len - 1) / 64
  let (s1, stop) := s.raiseLines w line (last + 1 - line)
  let upTo (n : Nat) : Walk := { w with obj := some (h, len, n), absent := none, lines := w.lines ++ (List.range (n - line)).map (line + ·) }
  match stop with
  | some (va, m) => (s1.setWalk (upTo (va / 64))).walkStop (upTo (va / 64)) va m
  | none =>
    let w1 := upTo (last + 1)
    let s2 := s1.setWalk w1
    match s2.walkBlocked w1 (h / 64) (last + 1 - h / 64) with
    | some (va, m) => s2.walkStop w1 va m
    | none => .next (s2.walkScan w1 h len)

/-- The walker goes on with the object under way, or takes the next entry of a walk's queue (R223). -/
def State.walkStep (s : State) (w : Walk) : Out :=
  match w.obj, w.queue with
  | some (h, len, line), _ => s.walkRaise w h len line
  | none, [] => .next (s.walkEnd w)
  | none, h :: rest =>
    let skip : Walk := { w with queue := rest, absent := none }
    if h = 0 then .next (s.setWalk skip)
    else
      match s.walkMeet w h 8 with
      | .home hm =>
        let (s1, r) := s.walkRead w h hm
        -- a word that is no header is passed over, and an object whose scope at the home slice is wide enough (R213, R223)
        if !(peME hm.entry && mKind r.mdata (h % 64 / 8) == 2) then .next (s1.setWalk skip)
        else if w.scope ≤ effScope (s1.mem.metaAt hm.node hm.addr) then .next (s1.setWalk skip)
        else if w.raised = 2 ^ 20 then .next (s1.walkFault w tcWalkLimit h)
        else s1.walkRaise skip h (max 1 (lineSlice r.data (h % 64) 8 % 2 ^ 32)) (h / 64)
      | m => s.walkStop w h m

/-- WALK_OBJECT (R223). -/
def execWalkObject (walk : Nat) (s : State) : Out :=
  match s.walks.find? fun w => w.id == walk with
  | none => .next s
  | some w =>
    -- a walker serves its walks one at a time, in order of arrival (R226); a walk on a page fault is held
    if s.walks.any (fun x => x.quad == w.quad && decide (x.id < w.id)) then .next s
    else match (s.op? w.op).map Op.st with
      | some .queued => s.walkStep w
      | _ => .next s

end Sys2Proof.Machine
end

