-- ==== Sys2Proof/Machine/Pages.lean ====
section
/-!
DEFINITION. Pages as the driver and the host act on them (R355 to R365): page commands, replay and denial of held accesses, fault-buffer reading,
migration counters, and the host's own accesses. Each page command is one step, as the table has it.
-/

namespace Sys2Proof.Machine

/-! ### Commands (R356) -/

/-- The context of a command. -/
def cmdAsid (w0 : Word) : Nat := bitsOf w0 16 16

/-- Another code, or a non-zero reserved bit in word 0 (R356). -/
def cmdBad (code : Nat) (w0 : Word) : Bool := bitsOf w0 0 8 != code || bitsOf w0 8 8 != 0 || bitsOf w0 32 32 != 0

/-- A refused command: an event and nothing else (R356). -/
def State.refuseCmd (s : State) (w0 w1 : Word) : State := s.hostEvent evPageRefused (cmdAsid w0) w1.toNat

/-- Words in a row, each at its homes. -/
def State.putWords (s : State) (asid va : Nat) : List Nat → State
  | [] => s
  | v :: vs => (s.piecesWrite asid va v).putWords asid (va + 8) vs

/-- Held on a record of sequence n or below. -/
def heldUpTo (n : Nat) : Option Nat → Bool
  | some q => decide (0 < q ∧ q ≤ n)
  | none => false

def Op.heldOn (o : Op) : Option Nat :=
  match o.st with
  | .held q => some q
  | _ => none

/-- Whether an access of a context is still held on a record of sequence n or below. -/
def State.heldBelow (s : State) (asid n : Nat) : Bool :=
  (s.ops.any fun o => o.asid == asid && heldUpTo n o.heldOn)
  || (s.cpys.any fun c => c.asid == asid && heldUpTo n c.held)
  || (s.launches.any fun l => l.asid == asid && heldUpTo n l.held)
  || (s.kernels.any fun k => k.asid == asid && heldUpTo n k.held)
  || (s.queues.any fun q => q.asid == asid && q.started.any fun p => heldUpTo n p.held)
  || (s.bulks.any fun b => b.asid == asid && b.running.any fun p => heldUpTo n p.held)

/-- Whether a command is not over: it has still to take effect; a retried access has neither been performed nor faulted again, or a write-through of its range is still on
its way (R356); or its completion address, which the firmware reaches through ASID 0 (R354), cannot be written yet (R377, R378). -/
def State.pagePending (s : State) (c : PageCmd) : Bool :=
  c.todo.isSome || (c.wts.any fun i => s.mem.wts.any (·.id == i))
  || s.heldBelow c.asid c.upTo
  || (c.waits.any fun i => (s.op? i).any fun o => o.waiting && o.heldOn.isNone)
  || (decide (c.addr < 2 ^ 52) && s.placeOf 0 c.addr == .wait)

/-- Commands complete in the order of their ring (R356). -/
def servePages : List PageCmd → State → State
  | [], s => { s with kiln := { s.kiln with pages := [] } }
  | c :: rest, s =>
    if s.pagePending c then { s with kiln := { s.kiln with pages := c :: rest } }
    else servePages rest (if c.addr < 2 ^ 52 then s.putWords 0 c.addr c.words else s)

/-- A command's effect has been had; it completes when its turn comes (R356). -/
def State.endPageCmd (s : State) (c : PageCmd) : State := servePages (s.kiln.pages ++ [c]) s

/-- The completion of a command that waits for nothing: any command but DGET writes 1 at its completion address (R356). -/
def cmdDone (w3 : Word) : PageCmd := { asid := 0, upTo := 0, waits := [], wts := [], todo := none, addr := w3.toNat, words := [1] }

def State.pageDone (s : State) (w3 : Word) : State := s.endPageCmd (cmdDone w3)

/-- A completion address outside every memory stops the run (R12, R352). -/
def State.orPageHole (s : State) (w3 : Word) (t : Out) : Out :=
  if w3.toNat < 2 ^ 52 then match s.placeOf 0 w3.toNat with
    | .hole node addr => .fault (.noSuchMemory node addr)
    | _ => t
  else t

/-- Whether a line of a context lies in a range; length 0 is the whole space (R356). -/
def lineIn (asid a len : Nat) (asid' line : Nat) : Bool :=
  asid' == asid && (len == 0 || decide (a < 64 * line + 64 ∧ 64 * line < a + len))

/-- The TLB entries of a range are dropped in every TLB of the package (R356). -/
def State.dropTlb (s : State) (asid a len : Nat) : State :=
  { s with mem := { s.mem with tlb := s.mem.tlb.filter fun t =>
      !(t.asid == asid && (len == 0 || decide (t.base < a + len ∧ a < t.base + t.size))) } }

/-- INVAL: the entries are dropped and what was translated with them is performed (R356). -/
def State.invalRange (s : State) (asid a len : Nat) : State :=
  (s.dropTlb asid a len).drain fun w => lineIn asid a len w.asid w.line

/-- PURGE: every copy of the range is written back and dropped as well (R356). -/
def State.purgeRange (s : State) (asid a len : Nat) : State :=
  (s.purgeLines fun as line _ => lineIn asid a len as line).invalRange asid a len

/-- The write-throughs of a range that are on their way, because their ways are closed: what was translated with the dropped entries, or written back, is performed when they
have arrived (R356). -/
def State.leftIn (s : State) (asid a len : Nat) : List Nat := (s.mem.wts.filter fun w => lineIn asid a len w.asid w.line).map (·.id)

/-- A command over a range completes when nothing of the range is on its way. -/
def State.rangeDone (s : State) (asid a len : Nat) (w3 : Word) : State := s.endPageCmd { cmdDone w3 with wts := s.leftIn asid a len }

/-- INVAL (R356). -/
def execInval (w0 w1 w2 w3 : Word) (s : State) : Out :=
  if cmdBad 1 w0 || decide (2 ^ 52 ≤ w1.toNat) then .next (s.refuseCmd w0 w1)
  else s.orPageHole w3 (.next ((s.invalRange (cmdAsid w0) w1.toNat w2.toNat).rangeDone (cmdAsid w0) w1.toNat w2.toNat w3).pump)

/-- PURGE (R356). -/
def execPurge (w0 w1 w2 w3 : Word) (s : State) : Out :=
  if cmdBad 2 w0 || decide (2 ^ 52 ≤ w1.toNat) then .next (s.refuseCmd w0 w1)
  else s.orPageHole w3 (.next ((s.purgeRange (cmdAsid w0) w1.toNat w2.toNat).rangeDone (cmdAsid w0) w1.toNat w2.toNat w3).pump)

/-! ### Leaves (R351 to R353) -/

/-- Where the leaf entry of an address stands, when a walk finds one: node and table, level. -/
def leafPlace (m : Mem) (va : Nat) : Nat → Nat → Nat → Nat × Nat × Nat
  | 0, node, tab => (node, tab, 0)
  | level + 1, node, tab =>
    let n := if level + 1 = 4 then 16 else 512
    let e := BitVec.ofNat 64 (m.rd node (tab + 8 * (va / 2 ^ levelShift (level + 1) % n)) 8)
    if peLeaf e then (node, tab, level + 1) else leafPlace m va level (peNode e) (peFrame e * 2 ^ 12)

/-- A leaf found in the page table: where it lies, its level, and the page. -/
structure Leaf where
  node : Nat
  tab : Nat
  level : Nat
  entry : Word
  base : Nat
  size : Nat
  deriving DecidableEq, Repr

/-- What the firmware finds of a page: its leaf; none; that the way to a table is not open yet (R377, R378); or an uncorrectable error in a table's line, at which it finds
none (R363, log entry 73). -/
inductive Found where
  | leaf (l : Leaf)
  | none
  | wait
  | bad (node addr : Nat)
  deriving DecidableEq, Repr

def State.leaf? (s : State) (asid va : Nat) : Found :=
  match s.ctx? asid with
  | Option.none => .none
  | some c =>
    match s.walkFrom va 4 c.ptDie c.ptBase with
    | .leaf e base size =>
      let p := leafPlace s.mem va 4 c.ptDie c.ptBase
      .leaf { node := p.1, tab := p.2.1, level := p.2.2, entry := e, base := base, size := size }
    | .none _ _ => .none
    | .wait => .wait
    | .bad node addr => .bad node addr

/-- An entry is written to every place of its run (R353). -/
def Mem.writeLeaf (m : Mem) (l : Leaf) (va : Nat) (e : Word) : Mem :=
  let n := 4 ^ peSpan l.entry
  let first := va / 2 ^ levelShift l.level % 512 / n * n
  (List.range n).foldl (fun m k => m.wr l.node (l.tab + 8 * (first + k)) 8 e.toNat) m

/-! ### MOVE (R361) -/

/-- Bytes and metadata of `len` bytes copied from one frame to another. -/
def Mem.copyFrame (m : Mem) (src dst len : Nat) : Mem :=
  let bs := m.bytes.filter fun c => decide (src ≤ c.1 ∧ c.1 < src + len)
  let ms := m.lineMeta.filter fun c => decide (src / 64 ≤ c.1 ∧ c.1 < (src + len) / 64)
  { m with
    bytes := bs.foldl (fun l c => cellsWrite (c.1 - src + dst) c.2 l) (m.bytes.filter fun c => !decide (dst ≤ c.1 ∧ c.1 < dst + len))
    lineMeta := ms.foldl (fun l c => tabWrite (c.1 - src / 64 + dst / 64) c.2 l)
      (m.lineMeta.filter fun c => !decide (dst / 64 ≤ c.1 ∧ c.1 < (dst + len) / 64)) }

/-- The lines of a frame become poisoned (R361, R363). -/
def Mem.poisonFrame (m : Mem) (at' len : Nat) : Mem :=
  { m with poison := (List.range (len / 64)).foldl (fun l k => setInsert (at' / 64 + k) l) m.poison }

/-- Whether MOVE is refused (R361): the new entry is not a leaf of the package's HBM of the same size, or the page is not. -/
def State.moveBad (s : State) (l : Leaf) (new : Word) : Bool :=
  match State.walkFrom.leafOf l.base new l.level with
  | .none _ _ => true
  | .wait => true
  | .bad _ _ => true
  | .leaf e _ size =>
    decide (2 ≤ peHome e) || size != l.size || decide (4 ≤ peNode l.entry) || !s.frameExists (peNode e) (peFrame e * 2 ^ 12 + size - 64)

/-- The first line of a frame whose read is uncorrectable (R363). -/
def Mem.badLine? (m : Mem) (at' len : Nat) : Option Nat :=
  minBy id ((m.poison ++ m.latent).filter fun k => decide (at' / 64 ≤ k ∧ k < (at' + len) / 64))

/-- The page moves; a line of the old frame whose read is uncorrectable becomes poisoned and aborts (R361). Answers the address of that line. -/
def State.movePage (s : State) (asid va : Nat) (l : Leaf) (new : Word) : State × Option Nat :=
  let s1 := s.purgeRange asid l.base l.size
  let src := physKey (peNode l.entry) (peFrame l.entry * 2 ^ 12)
  let dst := physKey (peNode new) (peFrame new * 2 ^ 12)
  match s1.mem.badLine? src l.size with
  | some k =>
    let m := (s1.mem.copyFrame src dst (64 * k - src)).poisonFrame dst l.size
    ({ s1 with mem := { m with poison := setInsert k m.poison, latent := setErase k m.latent } }, some (l.base + (64 * k - src)))
  | none =>
    (({ s1 with mem := (s1.mem.copyFrame src dst l.size).writeLeaf l va new } : State).dropTlb asid l.base l.size, none)

/-- Whether both frames of a move can be reached: their stacks are trained (R377). -/
def State.moveOpen (s : State) (l : Leaf) (new : Word) : Bool :=
  s.stackTrained (peNode l.entry) (peFrame l.entry * 2 ^ 12) && s.stackTrained (peNode l.entry) (peFrame l.entry * 2 ^ 12 + l.size - 64)
  && s.stackTrained (peNode new) (peFrame new * 2 ^ 12) && s.stackTrained (peNode new) (peFrame new * 2 ^ 12 + l.size - 64)

/-- What comes of a command that reaches tables or frames: it is refused; a frame that no memory has stops the run; it is held until the way is open (R377, R378); or it has
had its effect, and will complete. -/
inductive CmdRes where
  | refused (s : State)
  | hole (node addr : Nat)
  | wait
  | done (s : State) (c : PageCmd)

/-- A leaf's command goes on with its leaf, is refused without one, or is held. -/
def State.withLeaf (s : State) (w0 w1 : Word) (f : Leaf → CmdRes) : CmdRes :=
  match s.leaf? (cmdAsid w0) w1.toNat with
  | .none => .refused (s.refuseCmd w0 w1)
  | .bad node addr => .refused ((s.meetLine node addr).refuseCmd w0 w1)
  | .wait => .wait
  | .leaf l => f l

/-- The effect of MOVE (R361). -/
def State.moveCmd (s : State) (w0 w1 w2 w3 : Word) : CmdRes :=
  let va := w1.toNat
  if cmdBad 3 w0 || decide (2 ^ 52 ≤ va) then .refused (s.refuseCmd w0 w1)
  else s.withLeaf w0 w1 fun l =>
    let last := peFrame l.entry * 2 ^ 12 + l.size - 64
    if s.moveBad l w2 then .refused (s.refuseCmd w0 w1)
    else if !s.frameExists (peNode l.entry) last then .hole (peNode l.entry) last
    else if !s.moveOpen l w2 then .wait
    else match s.movePage (cmdAsid w0) va l w2 with
      | (s1, none) => .done s1 (cmdDone w3)
      | (s1, some a) => .done (s1.hostEvent evMoveAborted (cmdAsid w0) a) (cmdDone w3)

/-- The effect of BIAS (R364). -/
def State.biasCmd (s : State) (w0 w1 w2 w3 : Word) : CmdRes :=
  let va := w1.toNat
  if cmdBad 4 w0 || decide (2 ^ 52 ≤ va) || decide (1 < w2.toNat) then .refused (s.refuseCmd w0 w1)
  else s.withLeaf w0 w1 fun l =>
    let s1 := if w2 = 1 then s.purgeRange (cmdAsid w0) l.base l.size else s
    let e := if w2 = 1 then l.entry ||| (1#64 <<< 14) else l.entry &&& ~~~(1#64 <<< 14)
    let s2 : State := { s1 with mem := s1.mem.writeLeaf l va e }
    let s3 := s2.invalRange (cmdAsid w0) l.base l.size
    .done s3 { cmdDone w3 with wts := s3.leftIn (cmdAsid w0) l.base l.size }

/-! ### REPLAY and DENY (R360) -/

/-- The state an event would leave; the same where it would stop the run, which the event itself will do. -/
def orSame (s : State) : Out → State
  | .next s1 => s1
  | .fault _ => s
  | .refused _ => s

/-- A held access is translated again (R360): it is performed and its result written, whereupon its thread wakes (R98), or it faults again, or goes on as it
does when it need not be held. -/
def State.retryOp (s : State) (id : Nat) : State :=
  let s1 := s.modOp id fun o => { o with st := .queued }
  match s1.op? id with
  | none => s
  | some o =>
    let after (s : State) : State := match s.op? id with
      | none => s
      | some o1 => (s.deliverLoad o1).deliverAtomic o1
    match o.kind with
    | .load .. => after (s1.performGlobal o true false)
    | .readMeta .. => after (s1.performGlobal o true false)
    | .store .. => s1.performGlobal o true false
    | .stref _ => s1.performGlobal o true false
    -- an entry that a flush point has drained keeps its place in the drain (R390)
    | .atomic .. =>
      if (s1.flushOf o).isSome then (s1.modOp id fun o => { o with rewalk := true }).performEntry id
      else after (s1.performAtomicG o true)
    | .colr c left => s1.colourLine o c left
    | .fetch => (match s1.homeWith (dieOf o.core) o.asid o.addr.toNat peEX with
      | .error (.absent l mf) => s1.pageFault o o.addr.toNat l mf
      | _ => s1.dropOp id)
    | .pub .. => (match s1.walks.find? fun (w : Walk) => w.op == id with
      | some w => orSame s1 (s1.walkStep w)
      | none => s1)
    | .launch d completion => orSame s1 (s1.launchOp o d completion)
    | _ => s1

/-- A held copy or gather is tried again (R360). -/
def State.retryCopy (s : State) (c : Copy) : State :=
  match c.kind with
  | .gather es count index => s.endGather { c with held := none } none es count index
  | _ => s.endCopy { c with held := none } none

/-- A held packet of a host command queue is tried again (R360). -/
def State.retryQueuePkt (s : State) (q : Nat) (p : Pkt) : State :=
  match s.queue? q with
  | none => s
  | some x => s.endQueueCopy x p.idx none

/-- A held bulk packet is tried again (R360). -/
def State.retryBulkPkt (s : State) (b : Nat) (p : Pkt) : State :=
  match s.bulk? b with
  | none => s
  | some x => s.endBulk x { p with held := none } none

/-- The held packets of the rings of a context. -/
def State.heldQueuePkts (s : State) (asid n : Nat) : List (Nat × Pkt) :=
  (s.queues.filter (·.asid == asid)).flatMap fun q => (q.started.filter fun p => heldUpTo n p.held).map fun p => (q.id, p)

def State.heldBulkPkts (s : State) (asid n : Nat) : List (Nat × Pkt) :=
  (s.bulks.filter (·.asid == asid)).flatMap fun b => (b.running.filter fun p => heldUpTo n p.held).map fun p => (b.id, p)

/-- The operations of a context held on a record of sequence n or below. -/
def State.heldOps (s : State) (asid n : Nat) : List Nat := (s.ops.filter fun o => o.asid == asid && heldUpTo n o.heldOn).map (·.id)

/-- A kernel whose completion word was held at an absent page tries again to retire (R312, R360). -/
def State.retryKernel (s : State) (k : Kernel) : State :=
  let s1 := s.modKernel k.kid fun k => { k with held := none }
  orSame s1 (s1.retireKernel { k with held := none })

/-- Every access of a context held on a record of sequence n or below is tried again, in each requester's order (R360). -/
def State.replay (s : State) (asid n : Nat) : State :=
  let s0 := (s.heldOps asid n).foldl State.retryOp s
  -- drained entries that waited for one of these follow in the order of their drain (R390)
  let s1 := (s0.kernels.flatMap fun k => if k.asid = asid then k.drain.map (·.1) else []).foldl State.performEntry s0
  let s2 := (s1.cpys.filter fun c => c.asid == asid && heldUpTo n c.held).foldl State.retryCopy s1
  let s3 := (s2.launches.filter fun l => l.asid == asid && heldUpTo n l.held).foldl (fun s l => orSame s (s.takeRec l)) s2
  let s4 := (s3.heldQueuePkts asid n).foldl (fun s x => s.retryQueuePkt x.1 x.2) s3
  let s5 := (s4.heldBulkPkts asid n).foldl (fun s x => s.retryBulkPkt x.1 x.2) s4
  (s5.kernels.filter fun k => k.asid == asid && heldUpTo n k.held).foldl State.retryKernel s5

/-- REPLAY (R360). -/
def execReplay (w0 w1 w2 w3 : Word) (s : State) : Out :=
  if cmdBad 5 w0 || (s.ctx? (cmdAsid w0)).isNone then .next (s.refuseCmd w0 w1)
  else
    -- a walk goes on by itself once its own access has been tried again
    let waits := (s.heldOps (cmdAsid w0) w2.toNat).filter fun i => s.walks.all (·.op != i)
    s.orPageHole w3 (.next ((s.replay (cmdAsid w0) w2.toNat).endPageCmd
      { cmdDone w3 with asid := cmdAsid w0, upTo := w2.toNat, waits := waits }).pump)

/-- The address at which a held operation waits for a page. -/
def State.heldAt? (s : State) (o : Op) : Option Nat :=
  match o.kind with
   | .pub .. => (s.walks.find? fun (w : Walk) => w.op == o.id).bind (·.absent)
   | .launch .. => (match s.readRec (dieOf o.core) o.asid o.addr.toNat with
     | .absent va _ _ => some va
     | _ => none)
   | _ => some o.addr.toNat

/-- A held access to a denied page ends: its thread takes PAGE_DENIED at its wake, a walk ends (R225, R311, R360). -/
def State.denyOp (s : State) (o : Op) : State :=
  let va := BitVec.ofNat 64 ((s.heldAt? o).getD o.addr.toNat)
  match o.kind with
  | .pub .. => (match s.walks.find? fun (w : Walk) => w.op == o.id with
    | some w => s.walkFault w tcDenied va.toNat
    | none => s.faultOp o tcDenied va)
  | _ =>
    let s1 := s.foundFault o tcDenied va
    match s1.op? o.id with
    | some o1 => (match o1.st with
      | .faulted d => s1.storeFault o1 d
      | _ => s1)
    | none => s1

/-- Whether a page is among the absent ones of a copy's places. -/
def State.absentAt (s : State) (c : Copy) (page : Nat) (places : List (Nat × Bool)) : Bool :=
  places.any fun x => x.1 / 2 ^ 12 == page && (match s.copySide c none x.1 1 x.2 with
    | .absent _ _ => true
    | _ => false)

/-- A copy is no longer held, and will end in failure at a page (R291, R360). -/
def Copy.deniedAt (c : Copy) (page : Nat) : Copy := { c with held := none, denied := some page }

/-- A held copy that needs a denied page ends, at once or, where its region is away or a place of it waits, once that is over (R291, R338, R360). -/
def State.denyCopy (s : State) (page : Nat) (c : Copy) : State :=
  let s1 : State := { s with cpys := s.cpys.map fun x => if x.id = c.id then x.deniedAt page else x }
  match c.kind with
  | .gather es count index =>
    if s.absentAt c page (s.gatherPlaces c es count index) then s1.endGather (c.deniedAt page) (some page) es count index else s
  | _ => if s.absentAt c page c.places then s1.endCopy (c.deniedAt page) (some page) else s

/-- A kernel whose completion word lies in a denied page retires without its add: no thread and no packet is there to take the denial (log entry 72). Its retirement goes on
as any other's does. -/
def State.denyKernel (s : State) (page : Nat) (k : Kernel) : State :=
  match k.src with
  | .launch (some completion) =>
    let without (k : Kernel) : Kernel := { k with src := .launch none, held := none }
    let s1 := s.modKernel k.kid without
    if completion / 2 ^ 12 = page then orSame s1 (s1.retireKernel (without k)) else s
  | _ => s

/-- Whether a packet's move is held at a page: of its bytes, or of its signal once they are over. -/
def State.moveAt (s : State) (m : Move) (p : Pkt) (page : Nat) : Bool :=
  s.absentAt (m.asCopy 0) page (if p.ended then m.sigPlaces else m.places)

/-- Every held access of a context to a page ends (R360). A launch packet whose record lies there is rejected with cause 0x02, as one whose record is not valid (log entry
82). -/
def State.deny (s : State) (asid page : Nat) : State :=
  let os := s.ops.filter fun o => o.asid == asid && o.heldOn.isSome && (s.heldAt? o).map (· / 2 ^ 12) == some page
  let s1 := os.foldl State.denyOp s
  let s2 := (s1.cpys.filter fun c => c.asid == asid && c.held.isSome).foldl (fun s c => s.denyCopy page c) s1
  let ls := s2.launches.filter fun l => l.asid == asid && l.held.isSome && (match s2.readRec l.die l.asid l.recAddr with
    | .absent va _ _ => va / 2 ^ 12 == page
    | _ => false)
  let s3 := ls.foldl (fun s l => s.acceptRec l (LaunchRec.ofWords []) false) s2
  let s4 := (s3.queues.filter (·.asid == asid)).foldl (fun s q =>
    (q.started.filter fun p => p.held.isSome && s.moveAt (s.queueMove q p.idx) p page).foldl (fun s p =>
      match s.queue? q.id with
      | some q1 => s.endQueueCopy q1 p.idx (some page)
      | none => s) s) s3
  let s5 := (s4.kernels.filter fun k => k.asid == asid && k.held.isSome).foldl (fun s k => s.denyKernel page k) s4
  (s5.bulks.filter (·.asid == asid)).foldl (fun s b =>
    (b.running.filter fun p => p.held.isSome && s.moveAt (s.bulkMove b p.idx) p page).foldl (fun s p =>
      match s.bulk? b.id with
      | some b1 => s.endBulk b1 { p with held := none } (some page)
      | none => s) s) s5

/-- DENY (R360). -/
def execDeny (w0 w1 w2 w3 : Word) (s : State) : Out :=
  if cmdBad 6 w0 || (s.ctx? (cmdAsid w0)).isNone || decide (2 ^ 52 ≤ w1.toNat) || w2 != 0 then .next (s.refuseCmd w0 w1)
  else s.orPageHole w3 (.next ((s.deny (cmdAsid w0) (w1.toNat / 2 ^ 12)).pageDone w3).pump)

/-! ### Frames (R357, R363) -/

/-- A number's n words of 8 bytes, the lowest first. -/
def wordsOf (v : Nat) : Nat → List Nat
  | 0 => []
  | n + 1 => v % 2 ^ 64 :: wordsOf (v / 2 ^ 64) n

/-- Whether the side table of a die can be reached (R357, R377). -/
def State.sideOpen (s : State) (die : Nat) : Bool :=
  match s.mem.sideAt die with
  | some base => s.stackTrained die base
  | none => true

/-- Reading the bitmap entry of a frame meets an uncorrectable error of the side table (R363). -/
def State.meetSide (s : State) (die e : Nat) : State :=
  match s.mem.sideAt die with
  | some base => s.meetLine die (base + 64 * (e % 2 ^ 31))
  | none => s

/-- The effect of DGET (R357): the entry is answered and cleared. -/
def State.dgetCmd (s : State) (w0 w1 w2 w3 : Word) : CmdRes :=
  if cmdBad 7 w0 || decide (2 ^ 36 ≤ w1.toNat ∨ 4 ≤ w2.toNat) then .refused (s.refuseCmd w0 w1)
  else if !s.sideOpen w2.toNat then .wait
  else
    let e := physKey w2.toNat (w1.toNat * 2 ^ 12) / 2 ^ 21
    let s1 := s.meetSide w2.toNat e
    .done { s1 with mem := s1.mem.setDirty e 0 } { cmdDone w3 with words := wordsOf (s.mem.dirtyOf e) 8 }

/-- Zero data, zero metadata and no poison in `len` bytes from a place (R356, R363). -/
def Mem.scrub (m : Mem) (at' len : Nat) : Mem :=
  let inLine (k : Nat) : Bool := decide (at' / 64 ≤ k ∧ k < (at' + len) / 64)
  { m with
    bytes := m.bytes.filter fun c => !decide (at' ≤ c.1 ∧ c.1 < at' + len)
    lineMeta := m.lineMeta.filter fun c => !inLine c.1
    poison := m.poison.filter fun k => !inLine k
    latent := m.latent.filter fun k => !inLine k }

/-- The effect of SCRUB (R356). -/
def State.scrubCmd (s : State) (w0 w1 w2 w3 : Word) : CmdRes :=
  let die := bitsOf w1 36 2
  let at' := bitsOf w1 0 36 * 2 ^ 12
  let len := w2.toNat * 2 ^ 12
  if cmdBad 8 w0 || bitsOf w1 38 26 != 0 || (len != 0 && !s.frameExists die (at' + len - 64)) then .refused (s.refuseCmd w0 w1)
  else if len != 0 && !(s.stackTrained die at' && s.stackTrained die (at' + len - 64)) then .wait
  else .done { s with mem := s.mem.scrub (physKey die at') len } (cmdDone w3)

/-! ### Commands that are held (R356, R377, R378) -/

/-- The effect of a command that may have to be held, by its code. -/
def State.heldCmd (s : State) (x : Word × Word × Word × Word) : CmdRes :=
  match bitsOf x.1 0 8 with
  | 3 => s.moveCmd x.1 x.2.1 x.2.2.1 x.2.2.2
  | 4 => s.biasCmd x.1 x.2.1 x.2.2.1 x.2.2.2
  | 7 => s.dgetCmd x.1 x.2.1 x.2.2.1 x.2.2.2
  | _ => s.scrubCmd x.1 x.2.1 x.2.2.1 x.2.2.2

/-- A command is served: one that has to be held keeps its place in the ring. -/
def State.serveCmd (s : State) (w0 w1 w2 w3 : Word) (r : CmdRes) : Out :=
  match r with
  | .refused s1 => .next s1
  | .hole node addr => .fault (.noSuchMemory node addr)
  | .wait => s.orPageHole w3 (.next (s.endPageCmd { cmdDone w3 with todo := some (w0, w1, w2, w3) }))
  | .done s1 c => s.orPageHole w3 (.next (s1.endPageCmd c).pump)

/-- Held commands are tried again, in the order of the ring. -/
def retryCmds : List PageCmd → State → State × List PageCmd
  | [], s => (s, [])
  | c :: rest, s =>
    match c.todo with
    | none => let r := retryCmds rest s; (r.1, c :: r.2)
    | some x => match s.heldCmd x with
      | .done s1 c1 => let r := retryCmds rest s1; (r.1, c1 :: r.2)
      | .refused s1 => retryCmds rest s1
      | _ => let r := retryCmds rest s; (r.1, c :: r.2)

/-- MOVE (R361). -/
def execMove (w0 w1 w2 w3 : Word) (s : State) : Out := s.serveCmd w0 w1 w2 w3 (s.moveCmd w0 w1 w2 w3)

/-- BIAS (R364). -/
def execBias (w0 w1 w2 w3 : Word) (s : State) : Out := s.serveCmd w0 w1 w2 w3 (s.biasCmd w0 w1 w2 w3)

/-- DGET (R357). -/
def execDget (w0 w1 w2 w3 : Word) (s : State) : Out := s.serveCmd w0 w1 w2 w3 (s.dgetCmd w0 w1 w2 w3)

/-- SCRUB (R356). -/
def execScrub (w0 w1 w2 w3 : Word) (s : State) : Out := s.serveCmd w0 w1 w2 w3 (s.scrubCmd w0 w1 w2 w3)

/-! ### Fault buffers and migration (R359, R361) -/

/-- A record that was held without a place is written; what waits on it learns its number (R359). -/
def State.writeHeld (s : State) (r : FaultRec) : State :=
  match s.putFault r with
  | (s1, 0) => s1
  | (s1, q) =>
    match r.kind with
    | 5 => (match s1.cpys.find? fun c => c.asid == r.asid && c.core == r.core && c.held == some 0 with
      | some c => { s1 with cpys := s1.cpys.map fun x => if x.id = c.id then { x with held := some q } else x }
      | none => s1)
    | 7 =>
      let die := dieOf r.core
      let waits (l : List Pkt) : Bool := l.any (·.held == some 0)
      let first (l : List Pkt) : List Pkt := match l.find? (·.held == some 0) with
        | some p => setPkt l { p with held := some q }
        | none => l
      (match s1.queues.find? fun x => x.asid == r.asid && x.die == die && waits x.started with
       | some x => s1.modQueue x.id fun x => { x with started := first x.started }
       | none => (match s1.bulks.find? fun x => x.asid == r.asid && x.die == die && waits x.running with
         | some x => s1.modBulk x.id fun x => { x with running := first x.running }
         | none => s1))
    | k =>
      let os := s1.ops.filter fun o => o.asid == r.asid && o.core == r.core && o.kind.faultKind == k && o.heldOn == some 0
        && (k == 4 || k == 6 || o.addr.toNat / 2 ^ 12 == r.va / 2 ^ 12)
      let ks := s1.kernels.filter fun x => k == 2 && r.core == 0 && x.asid == r.asid && x.held == some 0 && (match x.src with
        | .launch (some completion) => completion / 2 ^ 12 == r.va / 2 ^ 12
        | _ => false)
      match os.head?, (s1.launches.find? fun l => l.asid == r.asid && l.die * 128 == r.core && l.held == some 0) with
      | some o, _ =>
        { s1 with ops := s1.ops.map fun p => if p.heldOn = some 0 ∧ (p.id = o.id ∨ (k < 4 ∧ os.any (·.id == p.id) ∧ p.grpSeq = o.grpSeq))
            then { p with st := .held q } else p }
      | none, some l => if k = 6 then { s1 with launches := s1.launches.map fun x => if x = l then { x with held := some q } else x } else s1
      | none, none => (match ks.head? with
        | some x => s1.modKernel x.kid fun y => { y with held := some q }
        | none => s1)

/-- The records of a context that the driver has read leave the ring. -/
def dropRecs (asid : Nat) : Nat → List FaultRec → List FaultRec
  | _, [] => []
  | 0, l => l
  | n + 1, r :: rest => if r.asid = asid then dropRecs asid n rest else r :: dropRecs asid (n + 1) rest

/-- FAULT_READ_INDEX_ADVANCE (R359). -/
def execFaultReadIndexAdvance (asid idx : Nat) (s : State) : Out :=
  match s.ctx? asid with
  | none => .next s
  | some c =>
    if idx ≤ c.fbRead ∨ c.fbWrite < idx then .next s
    else
      let s1 : State := (s.modCtx asid fun c => { c with fbRead := idx, fbDone := max c.fbDone idx, fbHeld := [], fbOverflow := false })
      let s2 : State := { s1 with faultRecs := dropRecs asid (idx - c.fbRead) s1.faultRecs }
      .next (c.fbHeld.foldl State.writeHeld s2)

/-- MIGRATION_COUNTER_HALVE (R361). -/
def execMigrationCounterHalve (die : Nat) (s : State) : Out :=
  .next { s with mem := { s.mem with mig := s.mem.mig.map fun m =>
    if m.die = die then { m with count := m.count / 2, armed := m.armed || decide (m.count / 2 < s.mem.migLow) } else m } }

/-! ### The host (R211, R364) -/

/-- Bytes written at consecutive places. -/
def writeBytes : Nat → List Byte → List Host.Cell → List Host.Cell
  | _, [], m => m
  | a, b :: rest, m => writeBytes (a + 1) rest (cellsWrite a b m)

/-- The words of a range of places become data, line by line (R211). -/
def Mem.dataKinds (m : Mem) (node addr n : Nat) : Mem :=
  if n = 0 then m
  else (List.range ((addr + n - 1) / 64 - addr / 64 + 1)).foldl (fun m i =>
    let line := (addr / 64 + i) * 64
    let lo := max addr line
    let hi := min (addr + n) (line + 64)
    m.setMeta node line (kindsOver (m.metaAt node line) 0 (lo - line) (hi - lo))) m

/-- The frames of a range that the host reaches by a page of 2 MiB or larger get their dirty bits (R357); which those are, the spec does not say (log
entry 30): `k` names the access. -/
def Mem.dirtyRange (m : Mem) (k node addr n : Nat) : Mem :=
  if n = 0 then m
  else (List.range ((addr + n - 1) / 2 ^ 12 - addr / 2 ^ 12 + 1)).foldl (fun m i =>
    m.markDirty { node := node, addr := (addr / 2 ^ 12 + i) * 2 ^ 12, entry := 0, size := 2 ^ 12,
                   big := Config.hostPageBig k (addr / 2 ^ 12 + i) }) m

/-- Whether the stacks that hold a range are trained (R377); host memory needs none. -/
def State.rangeTrained (s : State) (node addr n : Nat) : Bool :=
  decide (4 ≤ node) || (s.stackTrained node addr && s.stackTrained node (addr + (n - 1)))

/-- The host's bytes reach a place: device memory at its home slice, with its words data and its frames' dirty bits (R211, R357, R364). -/
def State.hostPut (s : State) (node addr : Nat) (data : List Byte) : State :=
  let n := data.length
  let m1 : Mem := { s.mem with bytes := writeBytes (physKey node addr) data s.mem.bytes }
  { s with
    mem := if node < 4 then (m1.dataKinds node addr n).dirtyRange s.fresh node addr n else m1
    fresh := s.fresh + 1 }

/-- The lines of a range that a read meets: one with an uncorrectable error is poisoned (R363). -/
def State.meetRange (s : State) (node addr n : Nat) : State :=
  if n = 0 then s
  else (List.range ((addr + n - 1) / 64 - addr / 64 + 1)).foldl (fun s i =>
    s.meetError { node := node, addr := (addr / 64 + i) * 64, entry := 0, size := 64, big := false }) s

/-- HOST_MEMORY_ACCESS (R364): device memory is reached while the host port is up (R378, log entry 59); a write to a stack that is not trained is held until it is, and
a read of one is not answered yet (R377). -/
def execHostMemoryAccess (node addr : Nat) (write : Bool) (data : List Byte) (s : State) : Out :=
  let n := data.length
  if !s.frameExists node addr then .fault (.noSuchMemory node addr)
  else if !s.frameExists node (addr + (n - 1)) then .fault (.noSuchMemory node (addr + (n - 1)))
  else if node < 4 ∧ !s.hostUp then .next s
  else if !s.rangeTrained node addr n then .next (if write then s.holdWrite (.host node addr data) else s)
  else .next (if write then s.hostPut node addr data else s.meetRange node addr n)

/-- The image base is added to the references among a line's words from word n down (R62). It is added to a null reference, `.ref 0`, as well: R62 excepts none, and
R213 does not say whether the loader leaves a null reference null (log entry 51). -/
def relocate (base : Word) (md : BitVec 32) (data : BitVec 512) : Nat → BitVec 512
  | 0 => data
  | n + 1 =>
    let d := relocate base md data n
    if mKind md n = 1 then linePut d (8 * n) 8 (BitVec.ofNat 64 (lineSlice d (8 * n) 8) + base).toNat else d

/-- The metadata that the loader writes: the kinds and the colour, the publication scope 0 (R62, R210). -/
def loaderMeta (md : BitVec 32) : BitVec 32 := md &&& 0x3FFFFF

/-- Whether a data image holds a reference, a header or a colour: all of it lies in pages with metadata then (R62). -/
def imageTagged (lines : List (BitVec 512 × BitVec 32)) : Bool := lines.any fun l => loaderMeta l.2 != 0

/-- The loader writes a line of a data image: the image base is added to its references, its kinds and colour are written and its scope is 0 (R62). -/
def State.loadLineImage (s : State) (asid va : Nat) (base : Word) (l : BitVec 512 × BitVec 32) : State :=
  match s.placeOf asid va with
  | .home h =>
    let md := loaderMeta l.2
    let s1 := s.writePeer h (va / 64)
    let m := s1.mem.mergeHome h (relocate base md l.1 8) (BitVec.allOnes 64) md
    { s1 with mem := if peME h.entry then m.setMeta h.node h.addr md else m }
  | _ => s

/-- Whether a page takes a line of a data image (R62). -/
def Place.takes (tagged : Bool) : Place → Bool
  | .home h => peME h.entry || !tagged
  | _ => false

/-- The loader writes a data image from its base on, line by line, where every page takes its lines (R62). -/
def State.loadImage (s : State) (asid : Nat) (base : Word) (lines : List (BitVec 512 × BitVec 32)) : Out :=
  let ls := withIdx 0 lines
  let ps := ls.map fun x => s.placeOf asid (base.toNat + 64 * x.1)
  match ps.findSome? (fun p => match p with
    | .hole node addr => some (node, addr)
    | _ => none) with
  | some x => .fault (.noSuchMemory x.1 x.2)
  | none =>
    if base.toNat % 64 != 0 || decide (2 ^ 52 < base.toNat + 64 * lines.length) || !s.hostUp || !ps.all (Place.takes (imageTagged lines))
        || lines.any (fun l => (List.range 8).any (mKind l.2 · == 3)) then .next s
    else .next (ls.foldl (fun s x => s.loadLineImage asid (base.toNat + 64 * x.1) base x.2) s)

end Sys2Proof.Machine
end

