-- ==== Sys2Proof/Machine/Dispatch.lean ====
section
/-!
DEFINITION. Dispatch: one arm for each constructor of Instr, each a direct call of its meaning.
-/

namespace Sys2Proof.Machine

/-- The meaning of an instruction or event. The chain bit of a word acts where its group ends, in the step. -/
def exec (i : Instr) (s : State) : Host.Outcome State Fault Refusal :=
  match i with
  | .clauseStart w a b y l => Sys2Proof.Machine.execClauseStart w a b y l s
  | .waitCountExpiry core cohort => Sys2Proof.Machine.execWaitCountExpiry core cohort s
  | .resultLands core => Sys2Proof.Machine.execResultLands core s
  | .threadSlotFree thread => Sys2Proof.Machine.execThreadSlotFree thread s
  | .cohortRetire cohort => Sys2Proof.Machine.execCohortRetire cohort s
  | .nop _ g => Sys2Proof.Machine.execNop g s
  | .yield _ g => Sys2Proof.Machine.execYield g s
  | .rdclk _ g d => Sys2Proof.Machine.execRdclk g d s
  | .rdtags _ g d => Sys2Proof.Machine.execRdtags g d s
  | .brUt g im => Sys2Proof.Machine.execBrUt g im s
  | .brUf g im => Sys2Proof.Machine.execBrUf g im s
  | .br g im => Sys2Proof.Machine.execBr g im s
  | .brUl g im => Sys2Proof.Machine.execBrUl g im s
  | .jmp im => Sys2Proof.Machine.execJmp im s
  | .call im => Sys2Proof.Machine.execCall im s
  | .jmpr g a => Sys2Proof.Machine.execJmpr g a s
  | .callr g a => Sys2Proof.Machine.execCallr g a s
  | .ret g => Sys2Proof.Machine.execRet g s
  | .exit g => Sys2Proof.Machine.execExit g s
  | .addW _ g d a b => Sys2Proof.Machine.execAddW g d a b s
  | .subW _ g d a b => Sys2Proof.Machine.execSubW g d a b s
  | .andW _ g d a b => Sys2Proof.Machine.execAndW g d a b s
  | .orW _ g d a b => Sys2Proof.Machine.execOrW g d a b s
  | .xorW _ g d a b => Sys2Proof.Machine.execXorW g d a b s
  | .andnW _ g d a b => Sys2Proof.Machine.execAndnW g d a b s
  | .minW _ g d a b => Sys2Proof.Machine.execMinW g d a b s
  | .maxW _ g d a b => Sys2Proof.Machine.execMaxW g d a b s
  | .addD _ g d a b => Sys2Proof.Machine.execAddD g d a b s
  | .subD _ g d a b => Sys2Proof.Machine.execSubD g d a b s
  | .andD _ g d a b => Sys2Proof.Machine.execAndD g d a b s
  | .orD _ g d a b => Sys2Proof.Machine.execOrD g d a b s
  | .xorD _ g d a b => Sys2Proof.Machine.execXorD g d a b s
  | .andnD _ g d a b => Sys2Proof.Machine.execAndnD g d a b s
  | .minD _ g d a b => Sys2Proof.Machine.execMinD g d a b s
  | .maxD _ g d a b => Sys2Proof.Machine.execMaxD g d a b s
  | .minuW _ g d a b => Sys2Proof.Machine.execMinuW g d a b s
  | .maxuW _ g d a b => Sys2Proof.Machine.execMaxuW g d a b s
  | .shlW _ g d a b => Sys2Proof.Machine.execShlW g d a b s
  | .shrW _ g d a b => Sys2Proof.Machine.execShrW g d a b s
  | .sarW _ g d a b => Sys2Proof.Machine.execSarW g d a b s
  | .rotW _ g d a b => Sys2Proof.Machine.execRotW g d a b s
  | .mulW _ g d a b => Sys2Proof.Machine.execMulW g d a b s
  | .mulhW _ g d a b => Sys2Proof.Machine.execMulhW g d a b s
  | .minuD _ g d a b => Sys2Proof.Machine.execMinuD g d a b s
  | .maxuD _ g d a b => Sys2Proof.Machine.execMaxuD g d a b s
  | .shlD _ g d a b => Sys2Proof.Machine.execShlD g d a b s
  | .shrD _ g d a b => Sys2Proof.Machine.execShrD g d a b s
  | .sarD _ g d a b => Sys2Proof.Machine.execSarD g d a b s
  | .rotD _ g d a b => Sys2Proof.Machine.execRotD g d a b s
  | .mulD _ g d a b => Sys2Proof.Machine.execMulD g d a b s
  | .mulhD _ g d a b => Sys2Proof.Machine.execMulhD g d a b s
  | .addiW _ g d a im => Sys2Proof.Machine.execAddiW g d a im s
  | .addiD _ g d a im => Sys2Proof.Machine.execAddiD g d a im s
  | .shliW _ g d a im => Sys2Proof.Machine.execShliW g d a im s
  | .shriW _ g d a im => Sys2Proof.Machine.execShriW g d a im s
  | .sariW _ g d a im => Sys2Proof.Machine.execSariW g d a im s
  | .rotiW _ g d a im => Sys2Proof.Machine.execRotiW g d a im s
  | .shliD _ g d a im => Sys2Proof.Machine.execShliD g d a im s
  | .shriD _ g d a im => Sys2Proof.Machine.execShriD g d a im s
  | .sariD _ g d a im => Sys2Proof.Machine.execSariD g d a im s
  | .rotiD _ g d a im => Sys2Proof.Machine.execRotiD g d a im s
  | .movi _ g d im => Sys2Proof.Machine.execMovi g d im s
  | .lea1 _ g d a b => Sys2Proof.Machine.execLea1 g d a b s
  | .lea2 _ g d a b => Sys2Proof.Machine.execLea2 g d a b s
  | .lea4 _ g d a b => Sys2Proof.Machine.execLea4 g d a b s
  | .lea8 _ g d a b => Sys2Proof.Machine.execLea8 g d a b s
  | .lea16 _ g d a b => Sys2Proof.Machine.execLea16 g d a b s
  | .macW _ g d a b => Sys2Proof.Machine.execMacW g d a b s
  | .macD _ g d a b => Sys2Proof.Machine.execMacD g d a b s
  | .mulhuD _ g d a b => Sys2Proof.Machine.execMulhuD g d a b s
  | .mov _ g d a => Sys2Proof.Machine.execMov g d a s
  | .not _ g d a => Sys2Proof.Machine.execNot g d a s
  | .neg _ g d a => Sys2Proof.Machine.execNeg g d a s
  | .abs _ g d a => Sys2Proof.Machine.execAbs g d a s
  | .clzW _ g d a => Sys2Proof.Machine.execClzW g d a s
  | .clzD _ g d a => Sys2Proof.Machine.execClzD g d a s
  | .popc _ g d a => Sys2Proof.Machine.execPopc g d a s
  | .brevD _ g d a => Sys2Proof.Machine.execBrevD g d a s
  | .sextB _ g d a => Sys2Proof.Machine.execSextB g d a s
  | .sextH _ g d a => Sys2Proof.Machine.execSextH g d a s
  | .sextW _ g d a => Sys2Proof.Machine.execSextW g d a s
  | .zextB _ g d a => Sys2Proof.Machine.execZextB g d a s
  | .zextH _ g d a => Sys2Proof.Machine.execZextH g d a s
  | .zextW _ g d a => Sys2Proof.Machine.execZextW g d a s
  | .movk _ g d k => Sys2Proof.Machine.execMovk g d k s
  | .rdsr _ g d r => Sys2Proof.Machine.execRdsr g d r s
  | .wrsr _ g r a => Sys2Proof.Machine.execWrsr g r a s
  | .movp _ g d a => Sys2Proof.Machine.execMovp g d a s
  | .bfx _ g d a b => Sys2Proof.Machine.execBfx g d a b s
  | .bfxu _ g d a b => Sys2Proof.Machine.execBfxu g d a b s
  | .bfi _ g d a b => Sys2Proof.Machine.execBfi g d a b s
  | .icmpEq _ g p t a b => Sys2Proof.Machine.execIcmpEq g p t a b s
  | .icmpNe _ g p t a b => Sys2Proof.Machine.execIcmpNe g p t a b s
  | .icmpLt _ g p t a b => Sys2Proof.Machine.execIcmpLt g p t a b s
  | .icmpLe _ g p t a b => Sys2Proof.Machine.execIcmpLe g p t a b s
  | .icmpGt _ g p t a b => Sys2Proof.Machine.execIcmpGt g p t a b s
  | .icmpGe _ g p t a b => Sys2Proof.Machine.execIcmpGe g p t a b s
  | .icmpLtu _ g p t a b => Sys2Proof.Machine.execIcmpLtu g p t a b s
  | .icmpLeu _ g p t a b => Sys2Proof.Machine.execIcmpLeu g p t a b s
  | .icmpGtu _ g p t a b => Sys2Proof.Machine.execIcmpGtu g p t a b s
  | .icmpGeu _ g p t a b => Sys2Proof.Machine.execIcmpGeu g p t a b s
  | .icmpTst _ g p t a b => Sys2Proof.Machine.execIcmpTst g p t a b s
  | .icmpNtst _ g p t a b => Sys2Proof.Machine.execIcmpNtst g p t a b s
  | .pand _ g d a b => Sys2Proof.Machine.execPand g d a b s
  | .por _ g d a b => Sys2Proof.Machine.execPor g d a b s
  | .pxor _ g d a b => Sys2Proof.Machine.execPxor g d a b s
  | .pnot _ g d a => Sys2Proof.Machine.execPnot g d a s
  | .pmov _ g d a => Sys2Proof.Machine.execPmov g d a s
  | .pisu _ g d a => Sys2Proof.Machine.execPisu g d a s
  | .pist _ g d a => Sys2Proof.Machine.execPist g d a s
  | .pset _ g d v => Sys2Proof.Machine.execPset g d v s
  | .voteAll _ g d a => Sys2Proof.Machine.execVoteAll g d a s
  | .voteAny _ g d a => Sys2Proof.Machine.execVoteAny g d a s
  | .ballot _ g d a => Sys2Proof.Machine.execBallot g d a s
  | .ballotu _ g d a => Sys2Proof.Machine.execBallotu g d a s
  | .shflIdx _ g d a b => Sys2Proof.Machine.execShflIdx g d a b s
  | .shflUp _ g d a b => Sys2Proof.Machine.execShflUp g d a b s
  | .shflDown _ g d a b => Sys2Proof.Machine.execShflDown g d a b s
  | .shflXor _ g d a b => Sys2Proof.Machine.execShflXor g d a b s
  | .divW _ g d a b => Sys2Proof.Machine.execDivW g d a b s
  | .divuW _ g d a b => Sys2Proof.Machine.execDivuW g d a b s
  | .remW _ g d a b => Sys2Proof.Machine.execRemW g d a b s
  | .remuW _ g d a b => Sys2Proof.Machine.execRemuW g d a b s
  | .divD _ g d a b => Sys2Proof.Machine.execDivD g d a b s
  | .divuD _ g d a b => Sys2Proof.Machine.execDivuD g d a b s
  | .remD _ g d a b => Sys2Proof.Machine.execRemD g d a b s
  | .remuD _ g d a b => Sys2Proof.Machine.execRemuD g d a b s
  | .divideComplete op => Sys2Proof.Machine.execDivideComplete op s
  | .sel _ g d a b k => Sys2Proof.Machine.execSel g d a b k s
  | .randW _ g d a b => Sys2Proof.Machine.execRandW g d a b s
  | .randD _ g d a b => Sys2Proof.Machine.execRandD g d a b s
  | .faddS _ g d a b => Sys2Proof.Machine.execFaddS g d a b s
  | .fsubS _ g d a b => Sys2Proof.Machine.execFsubS g d a b s
  | .fmulS _ g d a b => Sys2Proof.Machine.execFmulS g d a b s
  | .fdivS _ g d a b => Sys2Proof.Machine.execFdivS g d a b s
  | .fminS _ g d a b => Sys2Proof.Machine.execFminS g d a b s
  | .fmaxS _ g d a b => Sys2Proof.Machine.execFmaxS g d a b s
  | .fcpysS _ g d a b => Sys2Proof.Machine.execFcpysS g d a b s
  | .faddD _ g d a b => Sys2Proof.Machine.execFaddD g d a b s
  | .fsubD _ g d a b => Sys2Proof.Machine.execFsubD g d a b s
  | .fmulD _ g d a b => Sys2Proof.Machine.execFmulD g d a b s
  | .fdivD _ g d a b => Sys2Proof.Machine.execFdivD g d a b s
  | .fminD _ g d a b => Sys2Proof.Machine.execFminD g d a b s
  | .fmaxD _ g d a b => Sys2Proof.Machine.execFmaxD g d a b s
  | .fcpysD _ g d a b => Sys2Proof.Machine.execFcpysD g d a b s
  | .faddI _ g d a b => Sys2Proof.Machine.execFaddI g d a b s
  | .fsubI _ g d a b => Sys2Proof.Machine.execFsubI g d a b s
  | .fmulI _ g d a b => Sys2Proof.Machine.execFmulI g d a b s
  | .fdivI _ g d a b => Sys2Proof.Machine.execFdivI g d a b s
  | .fhullI _ g d a b => Sys2Proof.Machine.execFhullI g d a b s
  | .fisectI _ g d a b => Sys2Proof.Machine.execFisectI g d a b s
  | .fminI _ g d a b => Sys2Proof.Machine.execFminI g d a b s
  | .fmaxI _ g d a b => Sys2Proof.Machine.execFmaxI g d a b s
  | .faddJ _ g d a b => Sys2Proof.Machine.execFaddJ g d a b s
  | .fsubJ _ g d a b => Sys2Proof.Machine.execFsubJ g d a b s
  | .fmulJ _ g d a b => Sys2Proof.Machine.execFmulJ g d a b s
  | .fdivJ _ g d a b => Sys2Proof.Machine.execFdivJ g d a b s
  | .fhullJ _ g d a b => Sys2Proof.Machine.execFhullJ g d a b s
  | .fisectJ _ g d a b => Sys2Proof.Machine.execFisectJ g d a b s
  | .fminJ _ g d a b => Sys2Proof.Machine.execFminJ g d a b s
  | .fmaxJ _ g d a b => Sys2Proof.Machine.execFmaxJ g d a b s
  | .fpDivideSqrtComplete op => Sys2Proof.Machine.execFpDivideSqrtComplete op s
  | .fmacS _ g d a b => Sys2Proof.Machine.execFmacS g d a b s
  | .fmscS _ g d a b => Sys2Proof.Machine.execFmscS g d a b s
  | .fnmacS _ g d a b => Sys2Proof.Machine.execFnmacS g d a b s
  | .fnmscS _ g d a b => Sys2Proof.Machine.execFnmscS g d a b s
  | .fmacD _ g d a b => Sys2Proof.Machine.execFmacD g d a b s
  | .fmscD _ g d a b => Sys2Proof.Machine.execFmscD g d a b s
  | .fnmacD _ g d a b => Sys2Proof.Machine.execFnmacD g d a b s
  | .fnmscD _ g d a b => Sys2Proof.Machine.execFnmscD g d a b s
  | .fmacI _ g d a b => Sys2Proof.Machine.execFmacI g d a b s
  | .fmscI _ g d a b => Sys2Proof.Machine.execFmscI g d a b s
  | .fnmacI _ g d a b => Sys2Proof.Machine.execFnmacI g d a b s
  | .fnmscI _ g d a b => Sys2Proof.Machine.execFnmscI g d a b s
  | .fmacJ _ g d a b => Sys2Proof.Machine.execFmacJ g d a b s
  | .fmscJ _ g d a b => Sys2Proof.Machine.execFmscJ g d a b s
  | .fnmacJ _ g d a b => Sys2Proof.Machine.execFnmacJ g d a b s
  | .fnmscJ _ g d a b => Sys2Proof.Machine.execFnmscJ g d a b s
  | .fabsS _ g d a => Sys2Proof.Machine.execFabsS g d a s
  | .fnegS _ g d a => Sys2Proof.Machine.execFnegS g d a s
  | .fsqrtS _ g d a => Sys2Proof.Machine.execFsqrtS g d a s
  | .frcpS _ g d a => Sys2Proof.Machine.execFrcpS g d a s
  | .frsqS _ g d a => Sys2Proof.Machine.execFrsqS g d a s
  | .fexp2S _ g d a => Sys2Proof.Machine.execFexp2S g d a s
  | .flog2S _ g d a => Sys2Proof.Machine.execFlog2S g d a s
  | .fsinS _ g d a => Sys2Proof.Machine.execFsinS g d a s
  | .fcosS _ g d a => Sys2Proof.Machine.execFcosS g d a s
  | .frndS _ g d a => Sys2Proof.Machine.execFrndS g d a s
  | .fclassS _ g d a => Sys2Proof.Machine.execFclassS g d a s
  | .fabsD _ g d a => Sys2Proof.Machine.execFabsD g d a s
  | .fnegD _ g d a => Sys2Proof.Machine.execFnegD g d a s
  | .fsqrtD _ g d a => Sys2Proof.Machine.execFsqrtD g d a s
  | .frcpD _ g d a => Sys2Proof.Machine.execFrcpD g d a s
  | .frsqD _ g d a => Sys2Proof.Machine.execFrsqD g d a s
  | .fexp2D _ g d a => Sys2Proof.Machine.execFexp2D g d a s
  | .flog2D _ g d a => Sys2Proof.Machine.execFlog2D g d a s
  | .fsinD _ g d a => Sys2Proof.Machine.execFsinD g d a s
  | .fcosD _ g d a => Sys2Proof.Machine.execFcosD g d a s
  | .frndD _ g d a => Sys2Proof.Machine.execFrndD g d a s
  | .fclassD _ g d a => Sys2Proof.Machine.execFclassD g d a s
  | .fcvtFloat _ g d a x y => Sys2Proof.Machine.execFcvtFloat g d a x y s
  | .fcvtToInt _ g d a x y => Sys2Proof.Machine.execFcvtToInt g d a x y s
  | .fcvtFromInt _ g d a x y => Sys2Proof.Machine.execFcvtFromInt g d a x y s
  | .fcvtz _ g d a x y => Sys2Proof.Machine.execFcvtz g d a x y s
  | .fmovGf _ g d a => Sys2Proof.Machine.execFmovGf g d a s
  | .fmovFg _ g d a => Sys2Proof.Machine.execFmovFg g d a s
  | .iptS _ g d a => Sys2Proof.Machine.execIptS g d a s
  | .iptD _ g d a => Sys2Proof.Machine.execIptD g d a s
  | .iloI _ g d a => Sys2Proof.Machine.execIloI g d a s
  | .ihiI _ g d a => Sys2Proof.Machine.execIhiI g d a s
  | .imidI _ g d a => Sys2Proof.Machine.execImidI g d a s
  | .iwidI _ g d a => Sys2Proof.Machine.execIwidI g d a s
  | .iloJ _ g d a => Sys2Proof.Machine.execIloJ g d a s
  | .ihiJ _ g d a => Sys2Proof.Machine.execIhiJ g d a s
  | .imidJ _ g d a => Sys2Proof.Machine.execImidJ g d a s
  | .iwidJ _ g d a => Sys2Proof.Machine.execIwidJ g d a s
  | .fcmpEqS _ g p t a b => Sys2Proof.Machine.execFcmpEqS g p t a b s
  | .fcmpNeS _ g p t a b => Sys2Proof.Machine.execFcmpNeS g p t a b s
  | .fcmpLtS _ g p t a b => Sys2Proof.Machine.execFcmpLtS g p t a b s
  | .fcmpLeS _ g p t a b => Sys2Proof.Machine.execFcmpLeS g p t a b s
  | .fcmpGtS _ g p t a b => Sys2Proof.Machine.execFcmpGtS g p t a b s
  | .fcmpGeS _ g p t a b => Sys2Proof.Machine.execFcmpGeS g p t a b s
  | .fcmpUnS _ g p t a b => Sys2Proof.Machine.execFcmpUnS g p t a b s
  | .fcmpOrdS _ g p t a b => Sys2Proof.Machine.execFcmpOrdS g p t a b s
  | .fcmpEqD _ g p t a b => Sys2Proof.Machine.execFcmpEqD g p t a b s
  | .fcmpNeD _ g p t a b => Sys2Proof.Machine.execFcmpNeD g p t a b s
  | .fcmpLtD _ g p t a b => Sys2Proof.Machine.execFcmpLtD g p t a b s
  | .fcmpLeD _ g p t a b => Sys2Proof.Machine.execFcmpLeD g p t a b s
  | .fcmpGtD _ g p t a b => Sys2Proof.Machine.execFcmpGtD g p t a b s
  | .fcmpGeD _ g p t a b => Sys2Proof.Machine.execFcmpGeD g p t a b s
  | .fcmpUnD _ g p t a b => Sys2Proof.Machine.execFcmpUnD g p t a b s
  | .fcmpOrdD _ g p t a b => Sys2Proof.Machine.execFcmpOrdD g p t a b s
  | .fcmpEqI _ g p t a b => Sys2Proof.Machine.execFcmpEqI g p t a b s
  | .fcmpNeI _ g p t a b => Sys2Proof.Machine.execFcmpNeI g p t a b s
  | .fcmpLtI _ g p t a b => Sys2Proof.Machine.execFcmpLtI g p t a b s
  | .fcmpLeI _ g p t a b => Sys2Proof.Machine.execFcmpLeI g p t a b s
  | .fcmpGtI _ g p t a b => Sys2Proof.Machine.execFcmpGtI g p t a b s
  | .fcmpGeI _ g p t a b => Sys2Proof.Machine.execFcmpGeI g p t a b s
  | .fcmpSubI _ g p t a b => Sys2Proof.Machine.execFcmpSubI g p t a b s
  | .fcmpDisjI _ g p t a b => Sys2Proof.Machine.execFcmpDisjI g p t a b s
  | .fcmpContI _ g p t a b => Sys2Proof.Machine.execFcmpContI g p t a b s
  | .fcmpEmptyI _ g p t a b => Sys2Proof.Machine.execFcmpEmptyI g p t a b s
  | .fcmpEqJ _ g p t a b => Sys2Proof.Machine.execFcmpEqJ g p t a b s
  | .fcmpNeJ _ g p t a b => Sys2Proof.Machine.execFcmpNeJ g p t a b s
  | .fcmpLtJ _ g p t a b => Sys2Proof.Machine.execFcmpLtJ g p t a b s
  | .fcmpLeJ _ g p t a b => Sys2Proof.Machine.execFcmpLeJ g p t a b s
  | .fcmpGtJ _ g p t a b => Sys2Proof.Machine.execFcmpGtJ g p t a b s
  | .fcmpGeJ _ g p t a b => Sys2Proof.Machine.execFcmpGeJ g p t a b s
  | .fcmpSubJ _ g p t a b => Sys2Proof.Machine.execFcmpSubJ g p t a b s
  | .fcmpDisjJ _ g p t a b => Sys2Proof.Machine.execFcmpDisjJ g p t a b s
  | .fcmpContJ _ g p t a b => Sys2Proof.Machine.execFcmpContJ g p t a b s
  | .fcmpEmptyJ _ g p t a b => Sys2Proof.Machine.execFcmpEmptyJ g p t a b s
  | .imakeS _ g d a b => Sys2Proof.Machine.execImakeS g d a b s
  | .imakeD _ g d a b => Sys2Proof.Machine.execImakeD g d a b s
  | .bisectI _ g d a k => Sys2Proof.Machine.execBisectI g d a k s
  | .bisectJ _ g d a k => Sys2Proof.Machine.execBisectJ g d a k s
  | .bisectComplete op => Sys2Proof.Machine.execBisectComplete op s
  | .iinflI _ g d a b => Sys2Proof.Machine.execIinflI g d a b s
  | .iinflJ _ g d a b => Sys2Proof.Machine.execIinflJ g d a b s
  | .hadd2 _ g d a b => Sys2Proof.Machine.execHadd2 g d a b s
  | .hmul2 _ g d a b => Sys2Proof.Machine.execHmul2 g d a b s
  | .hfma2 _ g d a b => Sys2Proof.Machine.execHfma2 g d a b s
  | .badd2 _ g d a b => Sys2Proof.Machine.execBadd2 g d a b s
  | .bmul2 _ g d a b => Sys2Proof.Machine.execBmul2 g d a b s
  | .bfma2 _ g d a b => Sys2Proof.Machine.execBfma2 g d a b s
  | .cbdec _ g d a b => Sys2Proof.Machine.execCbdec g d a b s
  | .mxq _ g d a b => Sys2Proof.Machine.execMxq g d a b s
  | .ldgB _ g d b p => Sys2Proof.Machine.execLdgB g d b p s
  | .ldgBu _ g d b p => Sys2Proof.Machine.execLdgBu g d b p s
  | .ldgH _ g d b p => Sys2Proof.Machine.execLdgH g d b p s
  | .ldgHu _ g d b p => Sys2Proof.Machine.execLdgHu g d b p s
  | .ldgW _ g d b p => Sys2Proof.Machine.execLdgW g d b p s
  | .ldgWu _ g d b p => Sys2Proof.Machine.execLdgWu g d b p s
  | .ldgD _ g d b p => Sys2Proof.Machine.execLdgD g d b p s
  | .ldgQ _ g d b p => Sys2Proof.Machine.execLdgQ g d b p s
  | .stgB _ g d b p => Sys2Proof.Machine.execStgB g d b p s
  | .stgH _ g d b p => Sys2Proof.Machine.execStgH g d b p s
  | .stgW _ g d b p => Sys2Proof.Machine.execStgW g d b p s
  | .stgD _ g d b p => Sys2Proof.Machine.execStgD g d b p s
  | .stgQ _ g d b p => Sys2Proof.Machine.execStgQ g d b p s
  | .stref _ g d b p => Sys2Proof.Machine.execStref g d b p s
  | .sthdr _ g d b p => Sys2Proof.Machine.execSthdr g d b p s
  | .strefHomeCheck op => Sys2Proof.Machine.execStrefHomeCheck op s
  | .ldsB _ g d b im => Sys2Proof.Machine.execLdsB g d b im s
  | .ldsBu _ g d b im => Sys2Proof.Machine.execLdsBu g d b im s
  | .ldsH _ g d b im => Sys2Proof.Machine.execLdsH g d b im s
  | .ldsHu _ g d b im => Sys2Proof.Machine.execLdsHu g d b im s
  | .ldsW _ g d b im => Sys2Proof.Machine.execLdsW g d b im s
  | .ldsWu _ g d b im => Sys2Proof.Machine.execLdsWu g d b im s
  | .ldsD _ g d b im => Sys2Proof.Machine.execLdsD g d b im s
  | .ldsQ _ g d b im => Sys2Proof.Machine.execLdsQ g d b im s
  | .stsB _ g d b im => Sys2Proof.Machine.execStsB g d b im s
  | .stsH _ g d b im => Sys2Proof.Machine.execStsH g d b im s
  | .stsW _ g d b im => Sys2Proof.Machine.execStsW g d b im s
  | .stsD _ g d b im => Sys2Proof.Machine.execStsD g d b im s
  | .stsQ _ g d b im => Sys2Proof.Machine.execStsQ g d b im s
  | .ldfGS _ g d b p => Sys2Proof.Machine.execLdfGS g d b p s
  | .ldfGD _ g d b p => Sys2Proof.Machine.execLdfGD g d b p s
  | .ldfGI _ g d b p => Sys2Proof.Machine.execLdfGI g d b p s
  | .ldfGJ _ g d b p => Sys2Proof.Machine.execLdfGJ g d b p s
  | .ldfLS _ g d b im => Sys2Proof.Machine.execLdfLS g d b im s
  | .ldfLD _ g d b im => Sys2Proof.Machine.execLdfLD g d b im s
  | .ldfLI _ g d b im => Sys2Proof.Machine.execLdfLI g d b im s
  | .ldfLJ _ g d b im => Sys2Proof.Machine.execLdfLJ g d b im s
  | .stfGS _ g d b p => Sys2Proof.Machine.execStfGS g d b p s
  | .stfGD _ g d b p => Sys2Proof.Machine.execStfGD g d b p s
  | .stfGI _ g d b p => Sys2Proof.Machine.execStfGI g d b p s
  | .stfGJ _ g d b p => Sys2Proof.Machine.execStfGJ g d b p s
  | .stfLS _ g d b im => Sys2Proof.Machine.execStfLS g d b im s
  | .stfLD _ g d b im => Sys2Proof.Machine.execStfLD g d b im s
  | .stfLI _ g d b im => Sys2Proof.Machine.execStfLI g d b im s
  | .stfLJ _ g d b im => Sys2Proof.Machine.execStfLJ g d b im s
  | .loadReply op evict => Sys2Proof.Machine.execLoadReply op evict s
  | .storeFaultFound op => Sys2Proof.Machine.execStoreFaultFound op s
  | .amogAddW _ g d b v => Sys2Proof.Machine.execAmogAddW g d b v s
  | .amogAddD _ g d b v => Sys2Proof.Machine.execAmogAddD g d b v s
  | .amogMaxW _ g d b v => Sys2Proof.Machine.execAmogMaxW g d b v s
  | .amogMinW _ g d b v => Sys2Proof.Machine.execAmogMinW g d b v s
  | .amogSwapW _ g d b v => Sys2Proof.Machine.execAmogSwapW g d b v s
  | .amogSwapD _ g d b v => Sys2Proof.Machine.execAmogSwapD g d b v s
  | .amogCasW _ g d b v => Sys2Proof.Machine.execAmogCasW g d b v s
  | .amogCasD _ g d b v => Sys2Proof.Machine.execAmogCasD g d b v s
  | .amog2AndD _ g d b v => Sys2Proof.Machine.execAmog2AndD g d b v s
  | .amog2OrD _ g d b v => Sys2Proof.Machine.execAmog2OrD g d b v s
  | .amog2XorD _ g d b v => Sys2Proof.Machine.execAmog2XorD g d b v s
  | .amog2MaxuD _ g d b v => Sys2Proof.Machine.execAmog2MaxuD g d b v s
  | .amog2MinuD _ g d b v => Sys2Proof.Machine.execAmog2MinuD g d b v s
  | .amog2AndW _ g d b v => Sys2Proof.Machine.execAmog2AndW g d b v s
  | .amog2OrW _ g d b v => Sys2Proof.Machine.execAmog2OrW g d b v s
  | .amog2XorW _ g d b v => Sys2Proof.Machine.execAmog2XorW g d b v s
  | .amogscAddW _ g d b v => Sys2Proof.Machine.execAmogscAddW g d b v s
  | .amogscAddD _ g d b v => Sys2Proof.Machine.execAmogscAddD g d b v s
  | .amogscMaxW _ g d b v => Sys2Proof.Machine.execAmogscMaxW g d b v s
  | .amogscMinW _ g d b v => Sys2Proof.Machine.execAmogscMinW g d b v s
  | .amogscSwapW _ g d b v => Sys2Proof.Machine.execAmogscSwapW g d b v s
  | .amogscSwapD _ g d b v => Sys2Proof.Machine.execAmogscSwapD g d b v s
  | .amogscCasW _ g d b v => Sys2Proof.Machine.execAmogscCasW g d b v s
  | .amogscCasD _ g d b v => Sys2Proof.Machine.execAmogscCasD g d b v s
  | .amosAddW _ g d b v => Sys2Proof.Machine.execAmosAddW g d b v s
  | .amosAddD _ g d b v => Sys2Proof.Machine.execAmosAddD g d b v s
  | .amosMaxW _ g d b v => Sys2Proof.Machine.execAmosMaxW g d b v s
  | .amosMinW _ g d b v => Sys2Proof.Machine.execAmosMinW g d b v s
  | .amosSwapW _ g d b v => Sys2Proof.Machine.execAmosSwapW g d b v s
  | .amosSwapD _ g d b v => Sys2Proof.Machine.execAmosSwapD g d b v s
  | .amosCasW _ g d b v => Sys2Proof.Machine.execAmosCasW g d b v s
  | .amosCasD _ g d b v => Sys2Proof.Machine.execAmosCasD g d b v s
  | .atomicPerform op => Sys2Proof.Machine.execAtomicPerform op s
  | .atomicReply op => Sys2Proof.Machine.execAtomicReply op s
  | .fence _ g p r k => Sys2Proof.Machine.execFence g p r k s
  | .fenceReleaseHeld op => Sys2Proof.Machine.execFenceReleaseHeld op s
  | .pfl _ g b p => Sys2Proof.Machine.execPfl g b p s
  | .pfr _ g t b l => Sys2Proof.Machine.execPfr g t b l s
  | .wbl1 _ g b l => Sys2Proof.Machine.execWbl1 g b l s
  | .invl1 _ g b l => Sys2Proof.Machine.execInvl1 g b l s
  | .acqr _ g d b l => Sys2Proof.Machine.execAcqr g d b l s
  | .acqrComplete op => Sys2Proof.Machine.execAcqrComplete op s
  | .pub _ g d b r => Sys2Proof.Machine.execPub g d b r s
  | .tagof _ g d b p => Sys2Proof.Machine.execTagof g d b p s
  | .scopeof _ g d b p => Sys2Proof.Machine.execScopeof g d b p s
  | .colr _ g d b l => Sys2Proof.Machine.execColr g d b l s
  | .colof _ g d b p => Sys2Proof.Machine.execColof g d b p s
  | .colrLine op => Sys2Proof.Machine.execColrLine op s
  | .walkStart op => Sys2Proof.Machine.execWalkStart op s
  | .walkObject walk => Sys2Proof.Machine.execWalkObject walk s
  | .cwait _ g b => Sys2Proof.Machine.execCwait g b s
  | .cnotify _ g b => Sys2Proof.Machine.execCnotify g b s
  | .cnotifyall _ g b => Sys2Proof.Machine.execCnotifyall g b s
  | .cheld _ g d b => Sys2Proof.Machine.execCheld g d b s
  | .monitorAcquire msg => Sys2Proof.Machine.execMonitorAcquire msg s
  | .monitorRelease msg => Sys2Proof.Machine.execMonitorRelease msg s
  | .monitorWait msg => Sys2Proof.Machine.execMonitorWait msg s
  | .monitorNotify msg => Sys2Proof.Machine.execMonitorNotify msg s
  | .monitorNotifyAll msg => Sys2Proof.Machine.execMonitorNotifyAll msg s
  | .monitorGrant reply => Sys2Proof.Machine.execMonitorGrant reply s
  | .monitorQueuedReply reply => Sys2Proof.Machine.execMonitorQueuedReply reply s
  | .colourReleaseSend rel => Sys2Proof.Machine.execColourReleaseSend rel s
  | .copy _ g d r p => Sys2Proof.Machine.execCopy g d r p s
  | .copym _ g d r p => Sys2Proof.Machine.execCopym g d r p s
  | .copyb _ g d r p => Sys2Proof.Machine.execCopyb g d r p s
  | .gather _ g d x p => Sys2Proof.Machine.execGather g d x p s
  | .copyStart copy => Sys2Proof.Machine.execCopyStart copy s
  | .copyEnd copy => Sys2Proof.Machine.execCopyEnd copy s
  | .gatherEnd copy => Sys2Proof.Machine.execGatherEnd copy s
  | .pfrEnd copy => Sys2Proof.Machine.execPfrEnd copy s
  | .ringIdleExpiry group => Sys2Proof.Machine.execRingIdleExpiry group s
  | .twaitall _ g b => Sys2Proof.Machine.execTwaitall g b s
  | .twaitany _ g b => Sys2Proof.Machine.execTwaitany g b s
  | .tfirst _ g d b => Sys2Proof.Machine.execTfirst g d b s
  | .tclr _ g b => Sys2Proof.Machine.execTclr g b s
  | .tdef _ g d b p => Sys2Proof.Machine.execTdef g d b p s
  | .trd _ g d t im => Sys2Proof.Machine.execTrd g d t im s
  | .sign _ g n => Sys2Proof.Machine.execSign g n s
  | .mldb _ g d b => Sys2Proof.Machine.execMldb g d b s
  | .mmq _ g d a m => Sys2Proof.Machine.execMmq g d a m s
  | .mcommit _ g n => Sys2Proof.Machine.execMcommit g n s
  | .mwait _ g n => Sys2Proof.Machine.execMwait g n s
  | .cvset _ g n p => Sys2Proof.Machine.execCvset g n p s
  | .signApply op => Sys2Proof.Machine.execSignApply op s
  | .cvsetApply op => Sys2Proof.Machine.execCvsetApply op s
  | .engineCommandStart cmd => Sys2Proof.Machine.execEngineCommandStart cmd s
  | .tdefComplete cmd => Sys2Proof.Machine.execTdefComplete cmd s
  | .mldbComplete cmd => Sys2Proof.Machine.execMldbComplete cmd s
  | .mmqRow cmd => Sys2Proof.Machine.execMmqRow cmd s
  | .mzeroRow cmd => Sys2Proof.Machine.execMzeroRow cmd s
  | .mxstRow cmd => Sys2Proof.Machine.execMxstRow cmd s
  | .mzero _ g b p => Sys2Proof.Machine.execMzero g b p s
  | .mrd _ g d b im => Sys2Proof.Machine.execMrd g d b im s
  | .mwr _ g d b im => Sys2Proof.Machine.execMwr g d b im s
  | .stpl _ g d a p => Sys2Proof.Machine.execStpl g d a p s
  | .mxst _ g d b p => Sys2Proof.Machine.execMxst g d b p s
  | .binit _ g b p => Sys2Proof.Machine.execBinit g b p s
  | .arrive _ g b p => Sys2Proof.Machine.execArrive g b p s
  | .bwait _ g b p => Sys2Proof.Machine.execBwait g b p s
  | .arrivew _ g b p => Sys2Proof.Machine.execArrivew g b p s
  | .nbar _ g r => Sys2Proof.Machine.execNbar g r s
  | .binval _ g b => Sys2Proof.Machine.execBinval g b s
  | .barrierBankOp op => Sys2Proof.Machine.execBarrierBankOp op s
  | .nbarPhaseComplete op => Sys2Proof.Machine.execNbarPhaseComplete op s
  | .tqpush _ g d => Sys2Proof.Machine.execTqpush g d s
  | .tqpop _ g d => Sys2Proof.Machine.execTqpop g d s
  | .amsend _ g d b p => Sys2Proof.Machine.execAmsend g d b p s
  | .launch _ g d b p => Sys2Proof.Machine.execLaunch g d b p s
  | .tqPushApply op => Sys2Proof.Machine.execTqPushApply op s
  | .tqPopServe op => Sys2Proof.Machine.execTqPopServe op s
  | .tqStealServe op => Sys2Proof.Machine.execTqStealServe op s
  | .tqpopReply op => Sys2Proof.Machine.execTqpopReply op s
  | .amArrival op => Sys2Proof.Machine.execAmArrival op s
  | .amsendStatus op => Sys2Proof.Machine.execAmsendStatus op s
  | .handlerGroupPlace msg => Sys2Proof.Machine.execHandlerGroupPlace msg s
  | .launchStatus op => Sys2Proof.Machine.execLaunchStatus op s
  | .trap _ g b => Sys2Proof.Machine.execTrap g b s
  | .rft _ g => Sys2Proof.Machine.execRft g s
  | .rdtr _ g d b => Sys2Proof.Machine.execRdtr g d b s
  | .syscall _ g b => Sys2Proof.Machine.execSyscall g b s
  | .dflush _ g => Sys2Proof.Machine.execDflush g s
  | .rdfpc _ g d => Sys2Proof.Machine.execRdfpc g d s
  | .wrfpc _ g b => Sys2Proof.Machine.execWrfpc g b s
  | .rdhash _ g d => Sys2Proof.Machine.execRdhash g d s
  | .atomicBufferDrain kernel core => Sys2Proof.Machine.execAtomicBufferDrain kernel core s
  | .l1SweepWriteback core asid line => Sys2Proof.Machine.execL1SweepWriteback core asid line s
  | .writebackArrival wb => Sys2Proof.Machine.execWritebackArrival wb s
  | .writeThroughArrival wt => Sys2Proof.Machine.execWriteThroughArrival wt s
  | .kernelRecordAccept die => Sys2Proof.Machine.execKernelRecordAccept die s
  | .groupPlace => Sys2Proof.Machine.execGroupPlace s
  | .groupStart group => Sys2Proof.Machine.execGroupStart group s
  | .groupRetire group => Sys2Proof.Machine.execGroupRetire group s
  | .kernelRetire kernel => Sys2Proof.Machine.execKernelRetire kernel s
  | .contextSlotAssign core slot asid => Sys2Proof.Machine.execContextSlotAssign core slot asid s
  | .contextLoadComplete core asid => Sys2Proof.Machine.execContextLoadComplete core asid s
  | .contextSwitchRequest core asid => Sys2Proof.Machine.execContextSwitchRequest core asid s
  | .switchExchangeBegin core => Sys2Proof.Machine.execSwitchExchangeBegin core s
  | .switchExchangeEnd core cycles => Sys2Proof.Machine.execSwitchExchangeEnd core cycles s
  | .weightSlotRestoreDone core => Sys2Proof.Machine.execWeightSlotRestoreDone core s
  | .contextEvict core asid => Sys2Proof.Machine.execContextEvict core asid s
  | .contextSaveComplete core asid => Sys2Proof.Machine.execContextSaveComplete core asid s
  | .contextDestroy asid => Sys2Proof.Machine.execContextDestroy asid s
  | .translation op rewalk => Sys2Proof.Machine.execTranslation op rewalk s
  | .faultReadIndexAdvance asid idx => Sys2Proof.Machine.execFaultReadIndexAdvance asid idx s
  | .migrationCounterHalve die => Sys2Proof.Machine.execMigrationCounterHalve die s
  | .inval w0 w1 w2 w3 => Sys2Proof.Machine.execInval w0 w1 w2 w3 s
  | .purge w0 w1 w2 w3 => Sys2Proof.Machine.execPurge w0 w1 w2 w3 s
  | .move w0 w1 w2 w3 => Sys2Proof.Machine.execMove w0 w1 w2 w3 s
  | .bias w0 w1 w2 w3 => Sys2Proof.Machine.execBias w0 w1 w2 w3 s
  | .replay w0 w1 w2 w3 => Sys2Proof.Machine.execReplay w0 w1 w2 w3 s
  | .deny w0 w1 w2 w3 => Sys2Proof.Machine.execDeny w0 w1 w2 w3 s
  | .dget w0 w1 w2 w3 => Sys2Proof.Machine.execDget w0 w1 w2 w3 s
  | .scrub w0 w1 w2 w3 => Sys2Proof.Machine.execScrub w0 w1 w2 w3 s
  | .queueRegister die hdr asid => Sys2Proof.Machine.execQueueRegister die hdr asid s
  | .queueDestroy queue => Sys2Proof.Machine.execQueueDestroy queue s
  | .queueMap queue slot => Sys2Proof.Machine.execQueueMap queue slot s
  | .queueUnmap queue => Sys2Proof.Machine.execQueueUnmap queue s
  | .queueWake queue => Sys2Proof.Machine.execQueueWake queue s
  | .queueSlotTimeslice die => Sys2Proof.Machine.execQueueSlotTimeslice die s
  | .queueLaunch queue idx => Sys2Proof.Machine.execQueueLaunch queue idx s
  | .queueCopy queue idx => Sys2Proof.Machine.execQueueCopy queue idx s
  | .queueSignal queue idx => Sys2Proof.Machine.execQueueSignal queue idx s
  | .queueWait queue idx => Sys2Proof.Machine.execQueueWait queue idx s
  | .queueWaitSatisfied queue idx => Sys2Proof.Machine.execQueueWaitSatisfied queue idx s
  | .queueMarker queue idx => Sys2Proof.Machine.execQueueMarker queue idx s
  | .queueTimestamp queue idx => Sys2Proof.Machine.execQueueTimestamp queue idx s
  | .queuePacketComplete queue idx => Sys2Proof.Machine.execQueuePacketComplete queue idx s
  | .bulkEngineWake bulk => Sys2Proof.Machine.execBulkEngineWake bulk s
  | .bulkPacketStart bulk => Sys2Proof.Machine.execBulkPacketStart bulk s
  | .bulkPacketComplete bulk idx => Sys2Proof.Machine.execBulkPacketComplete bulk idx s
  | .krfet t r d => Sys2Proof.Machine.execKrfet t r d s
  | .kbfx t r d => Sys2Proof.Machine.execKbfx t r d s
  | .kswait r d => Sys2Proof.Machine.execKswait r d s
  | .kswaitWake die line => Sys2Proof.Machine.execKswaitWake die line s
  | .kdisp t r d => Sys2Proof.Machine.execKdisp t r d s
  | .watchdogHeartbeat => Sys2Proof.Machine.execWatchdogHeartbeat s
  | .watchdogExpiry => Sys2Proof.Machine.execWatchdogExpiry s
  | .powerGood => Sys2Proof.Machine.execPowerGood s
  | .imageStartCommand image floor => Sys2Proof.Machine.execImageStartCommand image floor s
  | .reducedServiceBegin => Sys2Proof.Machine.execReducedServiceBegin s
  | .hbmStackTrained stack => Sys2Proof.Machine.execHbmStackTrained stack s
  | .fullServiceBegin => Sys2Proof.Machine.execFullServiceBegin s
  | .deviceReset => Sys2Proof.Machine.execDeviceReset s
  | .powerLimitExceeded => Sys2Proof.Machine.execPowerLimitExceeded s
  | .thermalTrip quad => Sys2Proof.Machine.execThermalTrip quad s
  | .clampSecondStep thermal quad => Sys2Proof.Machine.execClampSecondStep thermal quad s
  | .clampRestore thermal quad => Sys2Proof.Machine.execClampRestore thermal quad s
  | .clockChangeApply quad => Sys2Proof.Machine.execClockChangeApply quad s
  | .powerLimitSet watts => Sys2Proof.Machine.execPowerLimitSet watts s
  | .rdcSizeSet die gib => Sys2Proof.Machine.execRdcSizeSet die gib s
  | .linkEnable link => Sys2Proof.Machine.execLinkEnable link s
  | .linkDisable link => Sys2Proof.Machine.execLinkDisable link s
  | .linkTrained link rate => Sys2Proof.Machine.execLinkTrained link rate s
  | .linkTrainingTimeout link => Sys2Proof.Machine.execLinkTrainingTimeout link s
  | .linkReplayFailure link => Sys2Proof.Machine.execLinkReplayFailure link s
  | .linkLockLoss link => Sys2Proof.Machine.execLinkLockLoss link s
  | .hostModuleFail module => Sys2Proof.Machine.execHostModuleFail module s
  | .registerWrite reg val => Sys2Proof.Machine.execRegisterWrite reg val s
  | .contextCreate asid ptDie ptBase handler table walkArea monArea saveArea fbBase fbLog => Sys2Proof.Machine.execContextCreate asid ptDie ptBase handler table walkArea monArea saveArea fbBase fbLog s
  | .bulkQueueRegister die hdr asid => Sys2Proof.Machine.execBulkQueueRegister die hdr asid s
  | .hostMemoryAccess node addr write data => Sys2Proof.Machine.execHostMemoryAccess node addr write data s
  | .clampConditionClear thermal quad => Sys2Proof.Machine.execClampConditionClear thermal quad s
  | .cohortSwapComplete core => Sys2Proof.Machine.execCohortSwapComplete core s
  | .eventRingReadAdvance idx => Sys2Proof.Machine.execEventRingReadAdvance idx s
  | .podJobEnrol job kernel members enrol => Sys2Proof.Machine.execPodJobEnrol job kernel members enrol s
  | .scratchStorePerform op => Sys2Proof.Machine.execScratchStorePerform op s

end Sys2Proof.Machine
end

