-- ==== Sys2Proof/Machine/Events.lean ====
section
/-!
DEFINITION. What the machine's agents can do next by themselves: the events of the table that belong to work under way, in one order. Acts of the
driver, the host, the firmware's policy, the sensors and the links are not here; they come from the agenda (log entry 2).
-/

namespace Sys2Proof.Machine

/-- The events that carry an operation on. -/
noncomputable def opEvents (o : Op) : List Instr :=
  match o.kind with
  | .load .. => [.loadReply o.id false]
  | .loadS .. => [.loadReply o.id false]
  | .mrd _ => [.loadReply o.id false]
  | .readMeta .. => [.loadReply o.id false]
  | .store .. => [.translation o.id false, .storeFaultFound o.id]
  | .storeS .. => [.scratchStorePerform o.id, .storeFaultFound o.id]
  | .stpl .. => [.scratchStorePerform o.id, .storeFaultFound o.id]
  | .mwr _ => [.scratchStorePerform o.id, .storeFaultFound o.id]
  | .stref _ => [.strefHomeCheck o.id]
  | .atomic .. => [.atomicPerform o.id, .atomicReply o.id]
  | .atomicS .. => [.atomicPerform o.id, .atomicReply o.id]
  | .pub .. => [.walkStart o.id]
  | .colr .. => [.colrLine o.id, .storeFaultFound o.id]
  | .wbl1 _ => []
  | .invl1 _ => []
  | .pfl _ => []
  | .acqr .. => [.acqrComplete o.id]
  | .fence .. => [.fenceReleaseHeld o.id]
  | .divide _ => [.divideComplete o.id]
  | .fpDivSqrt .. => [.fpDivideSqrtComplete o.id]
  | .bisect .. => [.bisectComplete o.id]
  | .sign _ => [.signApply o.id]
  | .cvset .. => [.cvsetApply o.id]
  | .binit _ => [.barrierBankOp o.id, .storeFaultFound o.id]
  | .arrive _ => [.barrierBankOp o.id]
  | .bwait _ => [.barrierBankOp o.id]
  | .arrivew _ => [.barrierBankOp o.id]
  | .binval => [.barrierBankOp o.id]
  | .nbar _ => [.nbarPhaseComplete o.id]
  | .tqpush _ => [.tqPushApply o.id]
  | .tqpop .. => [.tqPopServe o.id, .tqStealServe o.id, .tqpopReply o.id]
  | .amsend .. => [.amArrival o.id, .amsendStatus o.id]
  | .launch .. => [.launchStatus o.id]
  | .fetch => []

/-- The events that carry an engine command on. -/
noncomputable def cmdEvents (c : Cmd) : List Instr :=
  if !c.started then [.engineCommandStart c.id]
  else match c.kind with
    | .tdef .. => [.tdefComplete c.id]
    | .mldb .. => [.mldbComplete c.id]
    | .mmq .. => [.mmqRow c.id]
    | .mzero .. => [.mzeroRow c.id]
    | .mxst .. => [.mxstRow c.id]

/-- The events that carry a copy on. -/
noncomputable def copyEvents (c : Copy) : List Instr :=
  if !c.started then [.copyStart c.id]
  else match c.kind with
    | .gather .. => [.gatherEnd c.id]
    | .pfr => [.pfrEnd c.id]
    | _ => [.copyEnd c.id]

noncomputable def msgEvent (m : Msg) : Instr :=
  match m.kind with
  | .acquire => .monitorAcquire m.id
  | .release => .monitorRelease m.id
  | .wait => .monitorWait m.id
  | .notify => .monitorNotify m.id
  | .notifyAll => .monitorNotifyAll m.id

/-- The events of a core. -/
noncomputable def coreEvents (k : Core) : List Instr :=
  [.cohortSwapComplete k.id]
    ++ (if k.restoring then [.weightSlotRestoreDone k.id] else [])
    ++ k.slots.flatMap (fun x => match x.st with
        | .loading => [Instr.contextLoadComplete k.id x.asid]
        | .saving => [Instr.contextSaveComplete k.id x.asid]
        | _ => [])
    ++ (if k.switchReq.isEmpty then [] else [.switchExchangeBegin k.id])
    ++ (if k.exchange.isSome then [.switchExchangeEnd k.id 64] else [])

/-- The event that starts packet i of a queue, by its type. -/
noncomputable def startEvent (s : State) (q : HQueue) (i : Nat) : Instr :=
  match s.pktType q.asid q.hdr i with
  | 1 => .queueLaunch q.id i
  | 2 => .queueCopy q.id i
  | 3 => .queueSignal q.id i
  | 4 => .queueWait q.id i
  | 5 => .queueMarker q.id i
  | 6 => .queueTimestamp q.id i
  | _ => .queuePacketComplete q.id i

/-- The events of a host command queue: mapping where a slot is free, waking, packets. -/
noncomputable def queueEvents (s : State) (q : HQueue) : List Instr :=
  if q.slot.isNone then
    (if s.queueWaits q then
      match (List.range 32).find? fun k => (s.queueInSlot? q.die k).isNone with
      | some k => [.queueMap q.id k]
      | none => []
    else []) ++ (q.started.filter fun p => !p.done).flatMap fun p => [Instr.queueWaitSatisfied q.id p.idx, .queuePacketComplete q.id p.idx]
  else
    (if q.wake s != 0 then [.queueWake q.id] else [])
      ++ ((List.range 32).filter fun k => s.mayStart q (q.doneIdx + k)).map (fun k => startEvent s q (q.doneIdx + k))
      ++ (q.started.filter fun p => !p.done).flatMap fun p => [Instr.queueWaitSatisfied q.id p.idx, .queuePacketComplete q.id p.idx]

/-- The events of a bulk queue. -/
noncomputable def bulkEvents (s : State) (b : BulkQ) : List Instr :=
  (if s.bulkReady b then (if b.awake then [.bulkPacketStart b.id] else [.bulkEngineWake b.id]) else [])
    ++ (b.running.filter fun p => !p.done).map fun p => .bulkPacketComplete b.id p.idx

/-- The events of kernels and groups. -/
noncomputable def kernelEvents (s : State) : List Instr :=
  s.groups.flatMap (fun g => match g.st with
    | .placed => [Instr.groupStart g.gid]
    | _ => [Instr.groupRetire g.gid, .ringIdleExpiry g.gid])
  ++ (s.kernels.filter fun k => k.st == .draining).map (fun k => Instr.kernelRetire k.kid)
  ++ s.kernels.flatMap (fun k => if k.lr.mode = 0 then [] else k.ranOn.map fun c => Instr.atomicBufferDrain k.kid c)
  ++ s.amsgs.map (fun m => Instr.handlerGroupPlace m.id)
  ++ (List.range 4).map (fun d => Instr.kernelRecordAccept d)
  ++ [.groupPlace]

/-- The write-backs that the sweep of an L1 owes (R182). -/
noncomputable def sweepEvents (k : Core) : List Instr :=
  (k.l1.filter fun l => l.dirty != 0 && decide (l.since + 4096 ≤ k.clock)).map fun l => .l1SweepWriteback k.id l.asid l.line

/-- Every event that the machine's own agents may carry out now, in the order the model takes them. -/
noncomputable def pendingEvents (s : State) : List Instr :=
  s.ops.flatMap opEvents
  ++ s.walks.map (fun w => Instr.walkObject w.id)
  ++ s.rels.map (fun r => Instr.colourReleaseSend r.id)
  ++ s.msgs.map msgEvent
  ++ s.replies.map (fun r => if r.grant then Instr.monitorGrant r.id else .monitorQueuedReply r.id)
  ++ s.cmds.flatMap cmdEvents
  ++ s.cpys.flatMap copyEvents
  ++ (s.threads.filter fun t => t.st == .exited && !t.freed).map (fun t => Instr.threadSlotFree t.tid)
  ++ s.cohorts.map (fun c => Instr.cohortRetire c.cid)
  ++ s.cores.flatMap coreEvents
  ++ kernelEvents s
  ++ s.queues.flatMap (queueEvents s)
  ++ s.bulks.flatMap (bulkEvents s)
  ++ s.mem.wbs.map (fun w => Instr.writebackArrival w.id)
  ++ s.mem.wts.map (fun w => Instr.writeThroughArrival w.id)
  ++ s.cores.flatMap sweepEvents

/-- What the first event that changes the state answers. -/
noncomputable def firstEvent (s : State) : List Instr → Option Out
  | [] => none
  | e :: rest =>
    match exec e s with
    | .next t => if t = s then firstEvent s rest else some (.next t)
    | r => some r

end Sys2Proof.Machine
end

