-- ==== Sys2Proof/Machine/Flush.lean ====
section
/-!
DEFINITION. What the device does by itself after every step: it writes its records, its events and its migration requests to memory (R359, R361, R373),
makes the writes that waited for the way to their places (R377), goes on with page commands that have not completed (R356), has threads park and arrivals
leave (R97, R333), and keeps the queues of ready cohorts (R103). An entry that cannot be written yet waits; it is never lost.
-/

namespace Sys2Proof.Machine

/-- Words to a place of a context's memory, when it can be written now. -/
def State.tryPut (s : State) (asid va : Nat) (ws : List Nat) : Option State :=
  match s.placeOf asid va with
  | .home _ => some (s.putWords asid va ws)
  | _ => none

/-- Entries to a ring from index i on, up to the first that cannot be written, with the index reached. -/
def ringPut (asid : Nat) (place : Nat → Nat) : Nat → List (List Nat) → State → State × Nat
  | i, [], s => (s, i)
  | i, e :: rest, s =>
    match s.tryPut asid (place i) e with
    | some s1 => ringPut asid place (i + 1) rest s1
    | none => (s, i)

/-- The 32 bytes of a fault record, as words of 8 (R359). -/
def FaultRec.words (r : FaultRec) : List Nat :=
  [r.va % 2 ^ 52 + r.kind % 16 * 2 ^ 52 + r.level % 8 * 2 ^ 56 + (if r.mf then 2 ^ 59 else 0),
   r.asid % 2 ^ 16 + r.core % 128 * 2 ^ 16 + r.core / 128 % 4 * 2 ^ 23 + r.seq % 2 ^ 32 * 2 ^ 32,
   r.lanes % 2 ^ 32 + r.passes % 16 * 2 ^ 32 + r.count % 256 * 2 ^ 36, 0]

/-- The records of a context that its fault buffer does not hold in memory yet are written there, by the context's own pages (R359, log entry 9). -/
def State.flushFaults (s : State) (c : Ctx) : State :=
  if !c.alive || c.fbDone == c.fbWrite then s
  else
    let rs := (s.faultRecs.filter (·.asid == c.asid)).drop (c.fbDone - c.fbRead)
    let r := ringPut c.asid (fun i => c.fbBase + 32 * (i % 2 ^ c.fbLog)) c.fbDone (rs.map FaultRec.words) s
    r.1.modCtx c.asid fun c => { c with fbDone := r.2 }

/-- An entry of the event ring, as words of 8 bytes (R373). -/
def Event.words (e : Event) : List Nat := [e.kind, e.id, e.payload, e.seq]

/-- Words at a place of host memory. -/
def Mem.putHost (m : Mem) (a : Nat) : List Nat → Mem
  | [] => m
  | v :: vs => (m.wr 4 a 8 v).putHost (a + 8) vs

/-- The events that host memory does not hold yet are written there, while the host port is up (R373, R378). -/
def State.flushEvents (s : State) : State :=
  let r := s.dev.ring
  if r.done == r.write || !s.hostUp then s
  else
    let es := withIdx r.done (r.entries.drop (r.done - r.read))
    { s with
      mem := es.foldl (fun m e => m.putHost (r.base + 32 * (e.1 % 2 ^ r.log)) e.2.words) s.mem
      dev := { s.dev with ring := { r with done := r.write } } }

/-- The 16 bytes of a migration request: the region, then ASID, die and count (R361, log entry 9). -/
def requestWords (x : Nat × Nat × Nat × Nat) : List Nat := [x.1, x.2.1 % 2 ^ 16 + x.2.2.1 % 2 ^ 16 * 2 ^ 16 + x.2.2.2 % 2 ^ 32 * 2 ^ 32]

/-- The migration requests that the package's migration buffer does not hold yet are written there, through ASID 0 (R361). -/
def State.flushRequests (s : State) : State :=
  let m := s.mem
  if m.migDone == m.migBuf.length then s
  else
    let r := ringPut 0 (fun i => m.migBase + 16 * i) m.migDone ((m.migBuf.drop m.migDone).map requestWords) s
    { r.1 with mem := { r.1.mem with migDone := r.2 } }

/-- Held commands are tried again; a REPLAY that has not completed tries again what it left held; then commands complete in order (R356, R360, R377). -/
def State.resumePages (s : State) : State :=
  if s.kiln.pages.isEmpty then s
  else
    let r := retryCmds s.kiln.pages s
    let s0 : State := { r.1 with kiln := { r.1.kiln with pages := r.2 } }
    let s1 := s0.kiln.pages.foldl (fun s c => if s.heldBelow c.asid c.upTo then s.replay c.asid c.upTo else s) s0
    let s2 := servePages s1.kiln.pages s1
    -- what a move held goes on
    if r.2 = s.kiln.pages then s2 else s2.pump

/-- Threads that are about to park do so where their cohorts are held (R97). -/
def State.settleCores (s : State) : State := (s.cores.map (·.id)).foldl State.settleCore s

/-- Arrivals of threads that have exited leave their networks (R333). -/
def State.leaveNbars (s : State) : State :=
  (s.ops.map (·.id)).foldl (fun s i => match s.op? i with
    | some o => (match o.kind with
      | .nbar scope => s.leaveNbar o scope
      | _ => s)
    | none => s) s

/-- A write that waited for the way to its place is made, or waits on (R377, R378). -/
def State.tryLate (s : State) (w : LateWrite) : State :=
  match w with
  | .put asid va n v => s.homeWrite asid va n v
  | .add asid va v => s.deviceAdd asid va v
  | .host node addr data => if s.rangeTrained node addr data.length then s.hostPut node addr data else s.holdWrite w

/-- The writes that wait are tried again in their order. -/
def State.settleLate (s : State) : State :=
  if s.mem.late.isEmpty then s else s.mem.late.foldl State.tryLate { s with mem := { s.mem with late := [] } }

/-- What follows every step. -/
def State.afterStep (s : State) : State :=
  let s1 := s.settleLate.resumePages
  let s2 := s1.ctxs.foldl State.flushFaults s1
  s2.flushRequests.flushEvents.reviewGates.leaveNbars.settleCores.noteReady

end Sys2Proof.Machine
end

