-- ==== Sys2Proof/Machine/Run.lean ====
section
/-!
DEFINITION. What a core does when it has the turn: issuing the next word of its clause (R66, R68, R75, R89), starting a clause (R73), Kiln's cores
(R374); what the environment does (R377); and which core has the turn next.
-/

namespace Sys2Proof.Machine

/-! ### Issuing -/

/-- The word in issue is performed; its literal, if it reads one, is skipped, and the group ends after the literal or at C = 0 (R68, R71). -/
noncomputable def issueWord (s : State) (iss : Issue) : Out :=
  match decode (iss.wordAt iss.pos) with
  | .error _ => .next (s.moveTo iss.core (iss.pos + 1) true)
  | .ok i =>
    match exec i s with
    | .next t =>
      .next (t.moveTo iss.core (iss.pos + (if readsLiteral i then 2 else 1)) (readsLiteral i || (iss.wordAt iss.pos).toNat / 2 ^ 31 == 0))
    | r => r

/-- The place after the chain group in issue. -/
def groupEnd (iss : Issue) : Nat := iss.pos + max 1 (groupFrom iss.words 3 iss.pos).length

/-- Of the threads that a word of a group's trial stopped, `s` before it and `t` after it, the sequence number of the store hash counts from the group's start, `base`,
where the word itself takes one (R392): the words before it have no effect for them (R89). -/
def State.keepSeq (base s t : State) : State :=
  { t with threads := t.threads.map fun v => match s.thread? v.tid, base.thread? v.tid with
      | some u, some b => if v.stopped && !u.stopped then { v with hseq := b.hseq + (v.hseq - u.hseq) } else v
      | _, _ => v }

/-- The state that the words of the group from the one in issue on would leave, three at most (R71); `base` the state before its first. -/
noncomputable def tryGroup (base : State) : Nat → State → State
  | 0, s => s
  | n + 1, s =>
    match s.cur? with
    | none => s
    | some iss =>
      match decode (iss.wordAt iss.pos) with
      | .error _ => s
      | .ok i =>
        match exec i s with
        | .next t0 =>
          let t := State.keepSeq base s t0
          if readsLiteral i || (iss.wordAt iss.pos).toNat / 2 ^ 31 == 0 then t
          else tryGroup base n ({ t.modIssue iss.core (fun x => { x with pos := x.pos + 1 }) with fresh := t.fresh + 1 })
        | _ => s

/-- Threads for which a word of the group faults take the fault, and none of its words has an effect for them (R89, R160), but for the sequence number that the
faulting word takes (R392): `t` is what the whole group would leave. -/
def State.faultGroup (s t : State) : State :=
  { s with threads := s.threads.map fun u => match t.thread? u.tid with
      | some v => if v.stopped && !u.stopped then { u with due := v.due, stopped := true, hseq := v.hseq } else u
      | none => u }

/-- A group of several words is tried as a whole first. R125 counts as participants of a cohort word the threads that issue its group with the guard holding, and R89 leaves a
thread that another word of the group makes fault without any effect of the group: here such a thread is no participant of the group's votes, ballots and shuffles, and the
others get their results without it (log entry 78). -/
noncomputable def State.settleGroup (s : State) (iss : Issue) : State :=
  if (groupFrom iss.words 3 iss.pos).length < 2 then s else s.faultGroup (tryGroup s 3 s)

/-- One word of the clause in issue: at the start of a chain group the results due have landed (R80) and the group is checked (R89). -/
noncomputable def issueStep (s : State) (iss : Issue) : Out :=
  if iss.grp != iss.pos then issueWord s iss
  else
    let s1 := s.landGroup iss
    match (s.cohort? iss.cid).bind fun c => s.kernelOf? c.gid with
    | none => .next (s1.moveTo iss.core (iss.pos + 1) true)
    | some k =>
      match badPlace k.lr iss with
      | some p => .next ((s1.illegalGroup iss p).moveTo iss.core (groupEnd iss) true)
      | none => issueWord (s1.settleGroup iss) iss

/-! ### Starting a clause -/

/-- A frame outside every memory that fetching n words from x would reach (R12, R352). -/
def State.fetchHole? (s : State) (core asid x : Nat) : Nat → Option Fault
  | 0 => none
  | n + 1 =>
    match s.homeWith (dieOf core) asid x peEX with
    | .error _ => s.fetchHole? core asid (x + 4) n
    | .ok h =>
      if !peEX h.entry || s.frameExists h.node h.addr then s.fetchHole? core asid (x + 4) n else some (.noSuchMemory h.node h.addr)

/-- The header that a clause start names, as an instruction. -/
noncomputable def Hdr.instr (h : Hdr) : Instr :=
  .clauseStart (BitVec.ofNat 12 h.wait) (BitVec.ofNat 4 h.a) (BitVec.ofNat 4 h.b) (if h.y then 1 else 0) (BitVec.ofNat 3 h.len)

/-- A cycle passes on a core (R182). -/
def State.passCycle (s : State) (core : Nat) : State := s.setClock core ((s.coreAt core).clock + 1)

/-- A core without a clause in issue starts one where it can (R73, R101); otherwise a cycle passes for it. -/
noncomputable def startStep (s : State) : Out :=
  let core := s.turn
  match (s.schedule core).pick core with
  | (s1, none) => .next (s1.passCycle core)
  | (s1, some p) =>
    match p.head with
    | .hdr x h =>
      (match s1.fetchHole? core p.asid x.toNat (3 * (h.len + 1)) with
       | some f => .fault f
       | none => exec h.instr s)
    | .bad x code addr =>
      let s2 := if code = tcUncorrectable then s1.meetErrorAt (dieOf core) p.asid x.toNat peEX else s1
      .next (s2.startFault p.cid x code addr)
    | .absent x l mf => .next (s1.startAbsent core p.asid p.cid x x.toNat l mf)
    | .hole node addr => .fault (.noSuchMemory node addr)
    | .idle => .next s1
    | .stall => .next (s1.passCycle core)

/-! ### Kiln -/

/-- A Kiln core executes one instruction (R374): an extension word as the table has it, the major opcode with other function fields raising the
illegal-instruction exception, or a base word. A core that waits, or that has no firmware yet (R377), does nothing. -/
noncomputable def kilnStep (s : State) : Out :=
  if s.kilnCore.stalled.isSome || s.dev.service == .maskRom || s.dev.service == .badImage then .next s
  else
    let s1 := s.setKiln { s.kilnCore with mcycle := s.kilnCore.mcycle + 1 }
    s1.kilnWord fun x =>
      if x.len = 4 ∧ x.w % 128 = 11 then
        match decodeKiln x.w with
        | some i => exec i s1
        | none => x.illegal s1
      else x.run s1

/-! ### Turns -/

/-- The agent that has the turn acts: a core issues or starts, a Kiln core executes. -/
noncomputable def coreStep (s : State) : Out :=
  if 512 ≤ s.turn then kilnStep s
  else match s.cur? with
    | some iss => issueStep s iss
    | none => startStep s

/-- Whether queues, contexts and kernels work yet: from reduced service on (R377). -/
def State.inService (s : State) : Bool := s.dev.service == .reduced || s.dev.service == .full

/-- Whether a core only waits for cycles to pass: for a cohort's results to land, or for a swap to end (R73, R102). -/
def State.waitsCycles (s : State) (core : Nat) : Bool :=
  match (s.coreAt core).running? with
  | none => false
  | some x =>
    (s.coreAt core).exchange.isNone && (!x.swapping.isEmpty || (s.candidates core x).any fun c =>
      let h := s.headAll core x.asid c.2
      h != .idle && !s.heldAt c.2 h && !s.landed core c.2)

/-- Whether a core has a clause in issue, could start one, or could once some cycles have passed. -/
def State.canGo (s : State) (core : Nat) : Bool :=
  s.issues.any (·.core == core) || (let s1 := s.schedule core; (s1.pick core).2.isSome || s1.waitsCycles core)

/-- The next core in turn that can go on: the one whose cycles are furthest behind, and of those the next in order (log entry 2). -/
def State.nextTurn (s : State) : Option Nat :=
  minBy (fun c => (s.coreAt c).clock * 512 + (c + 511 - s.turn % 512) % 512) ((s.cores.map (·.id)).filter s.canGo)

/-- A cycle passes on every core, none of which can start a clause: their cohorts settle and their swaps begin all the same (R97, R102). -/
def State.idle (s : State) : State :=
  (s.cores.map (·.id)).foldl (fun s c => (((s.schedule c).pick c).1).passCycle c) s

/-- The counters of the cores that cannot go on keep pace with the core that does, since cycles pass for them too (R119, log entry 2). -/
def State.keepPace (s : State) (core : Nat) : State :=
  let now := (s.coreAt core).clock
  (s.cores.filter fun k => decide (k.clock < now) && !s.canGo k.id).foldl (fun s k => s.setClock k.id now) s

/-- Reservations of the Kiln cores do not outlast what another agent does (log entry 24). -/
def State.dropReserved (s : State) : State :=
  if s.kiln.cores.toList.all (·.reserved.isNone) then s
  else { s with kiln := { s.kiln with cores := s.kiln.cores.map fun k => { k with reserved := none } } }

/-- A clause in issue goes on; otherwise work under way is carried on, and otherwise the next core in turn starts a clause. -/
noncomputable def State.carryOn (s : State) : Out :=
  if s.turn < 512 && s.cur?.isSome then coreStep s
  else match firstEvent s (pendingEvents s) with
    | some r => r
    | none =>
      match s.nextTurn with
      | some c => coreStep { s.keepPace c with turn := c }
      | none => .next s.idle

/-- The machine by itself, with nothing on the agenda. Before reduced service only the firmware runs (R377). -/
noncomputable def selfStep (s : State) : Out :=
  if 512 ≤ s.turn && (s.kilnCore.stalled.isNone) && s.dev.service != .maskRom && s.dev.service != .badImage then kilnStep s
  else if !s.inService then .next s.idle
  else s.dropReserved.carryOn

/-! ### The environment -/

/-- An act of the environment: an event of the table. A word of a core or of Kiln is no event, and starting a clause is the core's own. -/
def isEvent (i : Instr) : Bool := (encodeNat i).isNone

/-- Events of the device's power, clocks, ports and memory, which happen also before queues, contexts and kernels work (R20, R376 to R380). -/
def deviceEvent : Instr → Bool
  | .powerGood => true
  | .deviceReset => true
  | .imageStartCommand .. => true
  | .reducedServiceBegin => true
  | .hostMemoryAccess .. => true
  | .registerWrite .. => true
  | .eventRingReadAdvance _ => true
  | .watchdogHeartbeat => true
  | .watchdogExpiry => true
  | .kswaitWake .. => true
  | .powerLimitSet _ => true
  | .powerLimitExceeded => true
  | .thermalTrip _ => true
  | .clampSecondStep .. => true
  | .clampRestore .. => true
  | .clampConditionClear .. => true
  | .clockChangeApply _ => true
  | .linkEnable _ => true
  | .linkDisable _ => true
  | .linkTrained .. => true
  | .linkTrainingTimeout _ => true
  | .linkReplayFailure _ => true
  | .linkLockLoss _ => true
  | .hostModuleFail _ => true
  | _ => false

/-- What the agenda names happens. Before reduced service nothing of queues, contexts and kernels does (R377). -/
noncomputable def agentStep (a : Agent) (s : State) : Out :=
  match a with
  | .act i => if isEvent i && (s.inService || deviceEvent i) then exec i s.dropReserved else .next s
  | .core c => if 512 ≤ c then coreStep { s with turn := c } else if s.inService then coreStep { s.dropReserved with turn := c } else .next s
  | .evictL1 core asid line => .next (s.evictFromL1 core asid line)
  | .evictL2 die asid line => .next (s.evictFromL2 die asid line)
  | .memError node addr => .next (if s.frameExists node addr then s.strikeLine node addr else s)
  | .poolError core byte => .next (if core < 512 then s.strikePool core byte else s)
  | .linkReplay link => .next (s.countReplay link)
  | .irqWindow vector => .next (s.irqWindowOver vector)
  | .bindJob job asid bound => .next (if s.inService then s.bindJob job asid bound else s)
  | .loadImage asid base lines => s.dropReserved.loadImage asid base lines
  | .podReport job pkg => .next (s.podReport job pkg)
  | .peerRequest pkg seq node addr what => .next (s.dropReserved.peerRequest pkg seq node addr what)
  | .loadSnapshot img => .next (if s.inService then s.loadSnapshot img else s)

/-- What follows a step: what the device does by itself. -/
def afterOut : Out → Out
  | .next s => .next s.afterStep
  | .fault f => .fault f
  | .refused r => .refused r

end Sys2Proof.Machine
end

