-- ==== Sys2Proof/Machine/Placing.lean ====
section
/-!
DEFINITION. Where the host's next instruction goes. A word of a core stands in a clause that a core has in issue, the header at its cohort's
frontier in memory, a word of Kiln in the SRAM (log entry 1). The group, cohort and thread placed here are as a placement leaves them (R308).
-/

namespace Sys2Proof.Machine

/-- The launch that the placed group belongs to: one ordinary cohort, every register declared (R84, R300 to R303). -/
def placedLaunch : LaunchRec :=
  { gx := 1, gy := 1, gz := 1, tx := 32, ty := 1, tz := 1, entry := 0, mode := 0, spawn := 0, cvs := 8, tags := 64, nf := 64, ng := 62, width := 0,
    dies := 0, l1min := 0, accum := 1, scratch := 1, fpc := 0, logBase := 0, args := [] }

/-- The placed context's number. -/
def placedAsid : Nat := 1

def placedCtx : Ctx :=
  { asid := placedAsid, ptDie := 0, ptBase := 0, handler := 0, table := [], walkArea := 0, monArea := 0, saveArea := 0, fbBase := 0, fbLog := 10,
    fbRead := 0, fbWrite := 0, fbDone := 0, fbSeq := 0, fbOverflow := false, fbHeld := [], savedOn := [], alive := true }

/-- A context, a kernel, its group and cohort with one thread that has not exited, all on core 0 and running; numbers from `fresh` on. -/
def State.withThread (s : State) (st : TSt) : State :=
  let n := s.fresh
  let k : Kernel := { newKernel n placedAsid 0 placedLaunch (.launch none) none .running with nextGroup := 1, ranOn := [0] }
  let g : Group :=
    { gid := n + 1, kid := n, asid := placedAsid, index := 0, core := 0, st := .running, regs := [0, 1], scratch := [2], accum := [3], tagBase := 0,
      ring := none, ringLo := 0, ringHi := 0, ringIdle := 0, ringStarted := 0, children := 0, cv := List.replicate 8 { e := 0, s := 0 }, arrivals := [] }
  let c : Cohort := { placedCohort placedLaunch (n + 1) 0 (n + 2) 0 0 with formed := true }
  let t : Thread := { placedThread placedLaunch (n + 1) (n + 2) 0 0 0 0 (n + 3) 0 with st := st }
  let x : Slot := { Slot.fresh 0 placedAsid .running with active := (Vector.replicate 8 none).setIfInBounds 0 (some (n + 2)) }
  { s.modCore 0 fun k => { k with slots := [x], exchange := none } with
    agenda := [.core 0], turn := 0, fresh := n + 4
    threads := s.threads ++ [t], cohorts := s.cohorts ++ [c], groups := s.groups ++ [g], kernels := s.kernels ++ [k]
    issues := s.issues.filter fun i => i.core != 0
    ctxs := (s.ctxs.filter fun c => c.asid != placedAsid) ++ [placedCtx]
    dev := { s.dev with service := .full, hbm := .replicate 8 true } }

/-- The three words of the clause that holds a word: a branch stands last, and a word tied to the next one is followed by a word of another
pipe (R71, R88). -/
def placedClause (w : Word32) (branch literal : Bool) : Nat × List Word32 :=
  if branch && !literal then (2, [0x7E0001E0, 0, w])
  else (1, [0x7E0001E0, w, if w.toNat / 2 ^ 31 = 1 ∧ pipeOf w = 0 then 0x64000000 else 0])

/-- A word in a clause that core 0 has in issue. -/
def State.placeInClause (s : State) (w : Word32) (branch literal : Bool) : State :=
  let s1 := s.withThread .frontier
  let n := s.fresh
  let (p, ws) := placedClause w branch literal
  let iss : Issue :=
    { core := 0, cid := n + 2, hdr := 0, words := ws, aFlag := 0, bFlag := 15, pos := p, t0 := (s.coreAt 0).clock, grp := p, flagged := 0,
      tids := [n + 3], tagsRd := 0, stageRd := 0 }
  { s1 with issues := s1.issues ++ [iss] }

/-- The leaf entry of the code page: 4 KiB of die 0 at frame 256, all permissions (R352). -/
def placedLeaf : Word := 0x0000000001002000 ||| 0x2F

/-- A header at the frontier of the placed cohort: no cache of die 0 holds a line of the placed context. -/
def State.placeHeader (s : State) (w : Word32) : State :=
  let s1 := s.withThread .runnable
  let line := lineKey 0 (256 * 2 ^ 12)
  { s1 with mem := { s1.mem with
      bytes := cellsWriteN (physKey 0 (256 * 2 ^ 12)) w.toNat 4 s1.mem.bytes
      poison := setErase line s1.mem.poison, latent := setErase line s1.mem.latent
      copies := s1.mem.copies.filter fun c => !(c.die == 0 && c.asid == placedAsid)
      own := s1.mem.own.filter fun c => !(c.die == 0 && c.asid == placedAsid)
      tlb := { die := 0, asid := placedAsid, base := 0, size := 2 ^ 12, entry := placedLeaf }
        :: s1.mem.tlb.filter fun t => !(t.die == 0 && t.asid == placedAsid) } }

/-- A word at address 0 of the SRAM, where Kiln core 0 stands. -/
def State.placeKiln (s : State) (w : Word32) : State :=
  let k := s.kiln.cores[0]
  { s with
    agenda := [.core 512]
    kiln := { s.kiln with
      cores := s.kiln.cores.setIfInBounds 0 { k with pc := 0, stalled := none }
      sram := cellsWriteN 0 w.toNat 4 s.kiln.sram }
    dev := { s.dev with service := .full } }

/-- The word is placed as its kind asks. -/
noncomputable def State.placeWord (s : State) (nbits w : Nat) : State :=
  if 32 < nbits then s
  else
    let x : Word32 := BitVec.ofNat 32 w
    match decode x with
    | .error _ => s.placeInClause x false false
    | .ok i => match i with
      | .clauseStart .. => s.placeHeader x
      | .krfet .. => s.placeKiln x
      | .kbfx .. => s.placeKiln x
      | .kswait .. => s.placeKiln x
      | .kdisp .. => s.placeKiln x
      | _ => s.placeInClause x (isBranch i) (readsLiteral i)

end Sys2Proof.Machine
end

