-- ==== Sys2Proof/Machine/Step.lean ====
section
/-!
DEFINITION. One step of the machine: the head of the agenda, or what the machine does by itself. And where the host puts the next instruction.
-/

namespace Sys2Proof.Machine

/-- One step. The agenda holds what the environment does and which agent moves, as plain data (log entry 2). -/
noncomputable def step (s : State) : Host.Outcome State Fault Refusal :=
  afterOut (match s.agenda with
    | a :: rest => agentStep a { s with agenda := rest }
    | [] => selfStep s)

/-- The state with an instruction placed where the next step fetches (log entry 1). -/
noncomputable def State.withFetchWord (s : State) (nbits w : Nat) : State := s.placeWord nbits w

end Sys2Proof.Machine
end

