-- ==== Sys2Proof/Laws/PerInstr.lean ====
section
/-!
SUPPORT. Decoding an encoded instruction gives it back, one lemma for each constructor: the words of the table's instructions by their fields,
the events because they have no word.
-/

namespace Sys2Proof.Laws

/-- Encoding and decoding a well-formed instruction gives it back. -/
def RoundTrip.Statement (i : Instr) : Prop := i.wf = true → ∀ w, encode i = some w → decode w = .ok i

/-- A word whose top major bits are not all zero is no word of Kiln. -/
theorem kiln_none {n : Nat} (h : fld n 25 6 ≠ 0) : decodeKiln n = none := by
  have h1 : fld n 25 7 ≠ 0 := by simp only [fld] at *; omega
  have h2 : fld n 20 12 ≠ 0 := by simp only [fld] at *; omega
  simp [decodeKiln, h1, h2]

theorem roundTrip_of {i : Instr} {n : Nat} (he : encodeNat i = some n) (hn : n < 2 ^ 32)
    (hd : (decodeKiln n).orElse (fun _ => decodeRow n) = some i) : RoundTrip.Statement i := by
  intro hw w h
  simp only [encode, he, Option.map_some, Option.some.injEq] at h
  subst h
  have h2 : (BitVec.ofNat 32 n).toNat = n := by simp [BitVec.toNat_ofNat]; omega
  simp only [decode, h2]
  rw [hd]
  simp [hw]

/-- A word of a major other than 0. -/
theorem roundTrip_row {i : Instr} {n : Nat} (he : encodeNat i = some n) (hn : n < 2 ^ 32) (hk : fld n 25 6 ≠ 0)
    (hd : decodeRow n = some i) : RoundTrip.Statement i :=
  roundTrip_of he hn (by rw [kiln_none hk]; exact hd)

/-- An event has no word. -/
theorem roundTrip_event {i : Instr} (h : encodeNat i = none) : RoundTrip.Statement i := by
  intro _ w hw
  simp [encode, h] at hw

theorem row_01 {n : Nat} (h : fld n 25 6 = 1) : decodeRow n = decodeMajor01 n := by
  unfold decodeRow; rw [h]; rfl

theorem row_02 {n : Nat} (h : fld n 25 6 = 2) : decodeRow n = decodeMajor02 n := by
  unfold decodeRow; rw [h]; rfl

theorem row_03 {n : Nat} (h : fld n 25 6 = 3) : decodeRow n = decodeMajor03 n := by
  unfold decodeRow; rw [h]; rfl

theorem row_04 {n : Nat} (h : fld n 25 6 = 4) : decodeRow n = decodeMajor04 n := by
  unfold decodeRow; rw [h]; rfl

theorem row_05 {n : Nat} (h : fld n 25 6 = 5) : decodeRow n = decodeMajor05 n := by
  unfold decodeRow; rw [h]; rfl

theorem row_06 {n : Nat} (h : fld n 25 6 = 6) : decodeRow n = decodeMajor06 n := by
  unfold decodeRow; rw [h]; rfl

theorem row_07 {n : Nat} (h : fld n 25 6 = 7) : decodeRow n = decodeMajor07 n := by
  unfold decodeRow; rw [h]; rfl

theorem row_08 {n : Nat} (h : fld n 25 6 = 8) : decodeRow n = decodeMajor08 n := by
  unfold decodeRow; rw [h]; rfl

theorem row_09 {n : Nat} (h : fld n 25 6 = 9) : decodeRow n = decodeMajor09 n := by
  unfold decodeRow; rw [h]; rfl

theorem row_0A {n : Nat} (h : fld n 25 6 = 10) : decodeRow n = decodeMajor0A n := by
  unfold decodeRow; rw [h]; rfl

theorem row_0B {n : Nat} (h : fld n 25 6 = 11) : decodeRow n = decodeMajor0B n := by
  unfold decodeRow; rw [h]; rfl

theorem row_0C {n : Nat} (h : fld n 25 6 = 12) : decodeRow n = decodeMajor0C n := by
  unfold decodeRow; rw [h]; rfl

theorem row_0D {n : Nat} (h : fld n 25 6 = 13) : decodeRow n = decodeMajor0D n := by
  unfold decodeRow; rw [h]; rfl

theorem row_0E {n : Nat} (h : fld n 25 6 = 14) : decodeRow n = decodeMajor0E n := by
  unfold decodeRow; rw [h]; rfl

theorem row_0F {n : Nat} (h : fld n 25 6 = 15) : decodeRow n = decodeMajor0F n := by
  unfold decodeRow; rw [h]; rfl

theorem row_10 {n : Nat} (h : fld n 25 6 = 16) : decodeRow n = decodeMajor10 n := by
  unfold decodeRow; rw [h]; rfl

theorem row_11 {n : Nat} (h : fld n 25 6 = 17) : decodeRow n = decodeMajor11 n := by
  unfold decodeRow; rw [h]; rfl

theorem row_12 {n : Nat} (h : fld n 25 6 = 18) : decodeRow n = decodeMajor12 n := by
  unfold decodeRow; rw [h]; rfl

theorem row_13 {n : Nat} (h : fld n 25 6 = 19) : decodeRow n = decodeMajor13 n := by
  unfold decodeRow; rw [h]; rfl

theorem row_14 {n : Nat} (h : fld n 25 6 = 20) : decodeRow n = decodeMajor14 n := by
  unfold decodeRow; rw [h]; rfl

theorem row_15 {n : Nat} (h : fld n 25 6 = 21) : decodeRow n = decodeMajor15 n := by
  unfold decodeRow; rw [h]; rfl

theorem row_18 {n : Nat} (h : fld n 25 6 = 24) : decodeRow n = decodeMajor18 n := by
  unfold decodeRow; rw [h]; rfl

theorem row_19 {n : Nat} (h : fld n 25 6 = 25) : decodeRow n = decodeMajor19 n := by
  unfold decodeRow; rw [h]; rfl

theorem row_1A {n : Nat} (h : fld n 25 6 = 26) : decodeRow n = decodeMajor1A n := by
  unfold decodeRow; rw [h]; rfl

theorem row_1B {n : Nat} (h : fld n 25 6 = 27) : decodeRow n = decodeMajor1B n := by
  unfold decodeRow; rw [h]; rfl

theorem row_1C {n : Nat} (h : fld n 25 6 = 28) : decodeRow n = decodeMajor1C n := by
  unfold decodeRow; rw [h]; rfl

theorem row_1D {n : Nat} (h : fld n 25 6 = 29) : decodeRow n = decodeMajor1D n := by
  unfold decodeRow; rw [h]; rfl

theorem row_1E {n : Nat} (h : fld n 25 6 = 30) : decodeRow n = decodeMajor1E n := by
  unfold decodeRow; rw [h]; rfl

theorem row_1F {n : Nat} (h : fld n 25 6 = 31) : decodeRow n = decodeMajor1F n := by
  unfold decodeRow; rw [h]; rfl

theorem row_20 {n : Nat} (h : fld n 25 6 = 32) : decodeRow n = decodeMajor20 n := by
  unfold decodeRow; rw [h]; rfl

theorem row_21 {n : Nat} (h : fld n 25 6 = 33) : decodeRow n = decodeMajor21 n := by
  unfold decodeRow; rw [h]; rfl

theorem row_22 {n : Nat} (h : fld n 25 6 = 34) : decodeRow n = decodeMajor22 n := by
  unfold decodeRow; rw [h]; rfl

theorem row_23 {n : Nat} (h : fld n 25 6 = 35) : decodeRow n = decodeMajor23 n := by
  unfold decodeRow; rw [h]; rfl

theorem row_24 {n : Nat} (h : fld n 25 6 = 36) : decodeRow n = decodeMajor24 n := by
  unfold decodeRow; rw [h]; rfl

theorem row_25 {n : Nat} (h : fld n 25 6 = 37) : decodeRow n = decodeMajor25 n := by
  unfold decodeRow; rw [h]; rfl

theorem row_28 {n : Nat} (h : fld n 25 6 = 40) : decodeRow n = decodeMajor28 n := by
  unfold decodeRow; rw [h]; rfl

theorem row_29 {n : Nat} (h : fld n 25 6 = 41) : decodeRow n = decodeMajor29 n := by
  unfold decodeRow; rw [h]; rfl

theorem row_2A {n : Nat} (h : fld n 25 6 = 42) : decodeRow n = decodeMajor2A n := by
  unfold decodeRow; rw [h]; rfl

theorem row_2B {n : Nat} (h : fld n 25 6 = 43) : decodeRow n = decodeMajor2B n := by
  unfold decodeRow; rw [h]; rfl

theorem row_2C {n : Nat} (h : fld n 25 6 = 44) : decodeRow n = decodeMajor2C n := by
  unfold decodeRow; rw [h]; rfl

theorem row_2D {n : Nat} (h : fld n 25 6 = 45) : decodeRow n = decodeMajor2D n := by
  unfold decodeRow; rw [h]; rfl

theorem row_2E {n : Nat} (h : fld n 25 6 = 46) : decodeRow n = decodeMajor2E n := by
  unfold decodeRow; rw [h]; rfl

theorem row_2F {n : Nat} (h : fld n 25 6 = 47) : decodeRow n = decodeMajor2F n := by
  unfold decodeRow; rw [h]; rfl

theorem row_30 {n : Nat} (h : fld n 25 6 = 48) : decodeRow n = decodeMajor30 n := by
  unfold decodeRow; rw [h]; rfl

theorem row_31 {n : Nat} (h : fld n 25 6 = 49) : decodeRow n = decodeMajor31 n := by
  unfold decodeRow; rw [h]; rfl

theorem row_32 {n : Nat} (h : fld n 25 6 = 50) : decodeRow n = decodeMajor32 n := by
  unfold decodeRow; rw [h]; rfl

theorem row_33 {n : Nat} (h : fld n 25 6 = 51) : decodeRow n = decodeMajor33 n := by
  unfold decodeRow; rw [h]; rfl

theorem row_34 {n : Nat} (h : fld n 25 6 = 52) : decodeRow n = decodeMajor34 n := by
  unfold decodeRow; rw [h]; rfl

theorem row_35 {n : Nat} (h : fld n 25 6 = 53) : decodeRow n = decodeMajor35 n := by
  unfold decodeRow; rw [h]; rfl

theorem row_36 {n : Nat} (h : fld n 25 6 = 54) : decodeRow n = decodeMajor36 n := by
  unfold decodeRow; rw [h]; rfl

theorem row_37 {n : Nat} (h : fld n 25 6 = 55) : decodeRow n = decodeMajor37 n := by
  unfold decodeRow; rw [h]; rfl

theorem row_38 {n : Nat} (h : fld n 25 6 = 56) : decodeRow n = decodeMajor38 n := by
  unfold decodeRow; rw [h]; rfl

theorem row_39 {n : Nat} (h : fld n 25 6 = 57) : decodeRow n = decodeMajor39 n := by
  unfold decodeRow; rw [h]; rfl

theorem row_3A {n : Nat} (h : fld n 25 6 = 58) : decodeRow n = decodeMajor3A n := by
  unfold decodeRow; rw [h]; rfl

theorem row_3B {n : Nat} (h : fld n 25 6 = 59) : decodeRow n = decodeMajor3B n := by
  unfold decodeRow; rw [h]; rfl

theorem row_3C {n : Nat} (h : fld n 25 6 = 60) : decodeRow n = decodeMajor3C n := by
  unfold decodeRow; rw [h]; rfl

theorem row_3F {n : Nat} (h : fld n 25 6 = 63) : decodeRow n = decodeMajor3F n := by
  unfold decodeRow; rw [h]; rfl

/-- A field inside a field. -/
theorem sub_eq {n lo w v a b : Nat} (e : fld n lo w = v) (h : a + b ≤ w) : fld n (lo + a) b = fld v a b := by
  subst e
  obtain ⟨k, rfl⟩ := Nat.exists_eq_add_of_le h
  simp only [fld]
  rw [Nat.pow_add, ← Nat.div_div_eq_div_mul]
  generalize n / 2 ^ lo = m
  rw [Nat.add_assoc, Nat.pow_add 2 a, Nat.mod_mul_right_div_self, Nat.pow_add, Nat.mod_mul_right_mod]

/-- A field differs where a field inside it does. -/
theorem sub_ne {n lo w a b v u : Nat} (e : fld n (lo + a) b = v) (h : a + b ≤ w) (hne : fld u a b ≠ v) : fld n lo w ≠ u :=
  fun x => hne ((sub_eq x h).symm.trans e)
theorem fields_W13w12A9w4B5w4Y4w1L0w3 (base : Nat) (w : BitVec 12) (a : BitVec 4) (b : BitVec 4) (y : BitVec 1) (l : BitVec 3) (v3 v25 : Nat) (hv : v3 < 2 ^ 1 ∧ v25 < 2 ^ 7)
    (hB : base = v3 * 2 ^ 3 + v25 * 2 ^ 25) :
    layW13w12A9w4B5w4Y4w1L0w3 base w a b y l < 2 ^ 32 ∧ fld (layW13w12A9w4B5w4Y4w1L0w3 base w a b y l) 3 1 = v3
      ∧ fld (layW13w12A9w4B5w4Y4w1L0w3 base w a b y l) 25 7 = v25
      ∧ fld (layW13w12A9w4B5w4Y4w1L0w3 base w a b y l) 13 12 = w.toNat
      ∧ fld (layW13w12A9w4B5w4Y4w1L0w3 base w a b y l) 9 4 = a.toNat
      ∧ fld (layW13w12A9w4B5w4Y4w1L0w3 base w a b y l) 5 4 = b.toNat
      ∧ fld (layW13w12A9w4B5w4Y4w1L0w3 base w a b y l) 4 1 = y.toNat
      ∧ fld (layW13w12A9w4B5w4Y4w1L0w3 base w a b y l) 0 3 = l.toNat := by
  have kw := w.isLt
  have ka := a.isLt
  have kb := b.isLt
  have ky := y.isLt
  have kl := l.isLt
  subst hB
  simp only [layW13w12A9w4B5w4Y4w1L0w3, fld, Nat.reducePow, Nat.div_one, Nat.mul_one] at *
  refine ⟨?_, ?_, ?_, ?_, ?_, ?_, ?_, ?_⟩ <;> omega

theorem fields_C31w1G21w4 (base : Nat) (c : BitVec 1) (g : BitVec 4) (v0 v25 : Nat) (hv : v0 < 2 ^ 21 ∧ v25 < 2 ^ 6)
    (hB : base = v0 * 2 ^ 0 + v25 * 2 ^ 25) :
    layC31w1G21w4 base c g < 2 ^ 32 ∧ fld (layC31w1G21w4 base c g) 0 21 = v0
      ∧ fld (layC31w1G21w4 base c g) 25 6 = v25
      ∧ fld (layC31w1G21w4 base c g) 31 1 = c.toNat
      ∧ fld (layC31w1G21w4 base c g) 21 4 = g.toNat := by
  have kc := c.isLt
  have kg := g.isLt
  subst hB
  simp only [layC31w1G21w4, fld, Nat.reducePow, Nat.div_one, Nat.mul_one] at *
  refine ⟨?_, ?_, ?_, ?_, ?_⟩ <;> omega

theorem fields_C31w1G21w4D15w6 (base : Nat) (c : BitVec 1) (g : BitVec 4) (d : BitVec 6) (v0 v25 : Nat) (hv : v0 < 2 ^ 15 ∧ v25 < 2 ^ 6)
    (hB : base = v0 * 2 ^ 0 + v25 * 2 ^ 25) :
    layC31w1G21w4D15w6 base c g d < 2 ^ 32 ∧ fld (layC31w1G21w4D15w6 base c g d) 0 15 = v0
      ∧ fld (layC31w1G21w4D15w6 base c g d) 25 6 = v25
      ∧ fld (layC31w1G21w4D15w6 base c g d) 31 1 = c.toNat
      ∧ fld (layC31w1G21w4D15w6 base c g d) 21 4 = g.toNat
      ∧ fld (layC31w1G21w4D15w6 base c g d) 15 6 = d.toNat := by
  have kc := c.isLt
  have kg := g.isLt
  have kd := d.isLt
  subst hB
  simp only [layC31w1G21w4D15w6, fld, Nat.reducePow, Nat.div_one, Nat.mul_one] at *
  refine ⟨?_, ?_, ?_, ?_, ?_, ?_⟩ <;> omega

theorem fields_G21w4I0w19 (base : Nat) (g : BitVec 4) (i : BitVec 19) (v19 v25 : Nat) (hv : v19 < 2 ^ 2 ∧ v25 < 2 ^ 7)
    (hB : base = v19 * 2 ^ 19 + v25 * 2 ^ 25) :
    layG21w4I0w19 base g i < 2 ^ 32 ∧ fld (layG21w4I0w19 base g i) 19 2 = v19
      ∧ fld (layG21w4I0w19 base g i) 25 7 = v25
      ∧ fld (layG21w4I0w19 base g i) 21 4 = g.toNat
      ∧ fld (layG21w4I0w19 base g i) 0 19 = i.toNat := by
  have kg := g.isLt
  have ki := i.isLt
  subst hB
  simp only [layG21w4I0w19, fld, Nat.reducePow, Nat.div_one, Nat.mul_one] at *
  refine ⟨?_, ?_, ?_, ?_, ?_⟩ <;> omega

theorem fields_I0w25 (base : Nat) (i : BitVec 25) (v25 : Nat) (hv : v25 < 2 ^ 7)
    (hB : base = v25 * 2 ^ 25) :
    layI0w25 base i < 2 ^ 32 ∧ fld (layI0w25 base i) 25 7 = v25
      ∧ fld (layI0w25 base i) 0 25 = i.toNat := by
  have ki := i.isLt
  subst hB
  simp only [layI0w25, fld, Nat.reducePow, Nat.div_one, Nat.mul_one] at *
  refine ⟨?_, ?_, ?_⟩ <;> omega

theorem fields_G21w4A9w6 (base : Nat) (g : BitVec 4) (a : BitVec 6) (v0 v15 v25 : Nat) (hv : v0 < 2 ^ 9 ∧ v15 < 2 ^ 6 ∧ v25 < 2 ^ 7)
    (hB : base = v0 * 2 ^ 0 + v15 * 2 ^ 15 + v25 * 2 ^ 25) :
    layG21w4A9w6 base g a < 2 ^ 32 ∧ fld (layG21w4A9w6 base g a) 0 9 = v0
      ∧ fld (layG21w4A9w6 base g a) 15 6 = v15
      ∧ fld (layG21w4A9w6 base g a) 25 7 = v25
      ∧ fld (layG21w4A9w6 base g a) 21 4 = g.toNat
      ∧ fld (layG21w4A9w6 base g a) 9 6 = a.toNat := by
  have kg := g.isLt
  have ka := a.isLt
  subst hB
  simp only [layG21w4A9w6, fld, Nat.reducePow, Nat.div_one, Nat.mul_one] at *
  refine ⟨?_, ?_, ?_, ?_, ?_, ?_⟩ <;> omega

theorem fields_G21w4 (base : Nat) (g : BitVec 4) (v0 v25 : Nat) (hv : v0 < 2 ^ 21 ∧ v25 < 2 ^ 7)
    (hB : base = v0 * 2 ^ 0 + v25 * 2 ^ 25) :
    layG21w4 base g < 2 ^ 32 ∧ fld (layG21w4 base g) 0 21 = v0
      ∧ fld (layG21w4 base g) 25 7 = v25
      ∧ fld (layG21w4 base g) 21 4 = g.toNat := by
  have kg := g.isLt
  subst hB
  simp only [layG21w4, fld, Nat.reducePow, Nat.div_one, Nat.mul_one] at *
  refine ⟨?_, ?_, ?_, ?_⟩ <;> omega

theorem fields_C31w1G21w4D15w6A9w6B3w6 (base : Nat) (c : BitVec 1) (g : BitVec 4) (d : BitVec 6) (a : BitVec 6) (b : BitVec 6) (v0 v25 : Nat) (hv : v0 < 2 ^ 3 ∧ v25 < 2 ^ 6)
    (hB : base = v0 * 2 ^ 0 + v25 * 2 ^ 25) :
    layC31w1G21w4D15w6A9w6B3w6 base c g d a b < 2 ^ 32 ∧ fld (layC31w1G21w4D15w6A9w6B3w6 base c g d a b) 0 3 = v0
      ∧ fld (layC31w1G21w4D15w6A9w6B3w6 base c g d a b) 25 6 = v25
      ∧ fld (layC31w1G21w4D15w6A9w6B3w6 base c g d a b) 31 1 = c.toNat
      ∧ fld (layC31w1G21w4D15w6A9w6B3w6 base c g d a b) 21 4 = g.toNat
      ∧ fld (layC31w1G21w4D15w6A9w6B3w6 base c g d a b) 15 6 = d.toNat
      ∧ fld (layC31w1G21w4D15w6A9w6B3w6 base c g d a b) 9 6 = a.toNat
      ∧ fld (layC31w1G21w4D15w6A9w6B3w6 base c g d a b) 3 6 = b.toNat := by
  have kc := c.isLt
  have kg := g.isLt
  have kd := d.isLt
  have ka := a.isLt
  have kb := b.isLt
  subst hB
  simp only [layC31w1G21w4D15w6A9w6B3w6, fld, Nat.reducePow, Nat.div_one, Nat.mul_one] at *
  refine ⟨?_, ?_, ?_, ?_, ?_, ?_, ?_, ?_⟩ <;> omega

theorem fields_C31w1G21w4D15w6A9w6I0w9 (base : Nat) (c : BitVec 1) (g : BitVec 4) (d : BitVec 6) (a : BitVec 6) (i : BitVec 9) (v25 : Nat) (hv : v25 < 2 ^ 6)
    (hB : base = v25 * 2 ^ 25) :
    layC31w1G21w4D15w6A9w6I0w9 base c g d a i < 2 ^ 32 ∧ fld (layC31w1G21w4D15w6A9w6I0w9 base c g d a i) 25 6 = v25
      ∧ fld (layC31w1G21w4D15w6A9w6I0w9 base c g d a i) 31 1 = c.toNat
      ∧ fld (layC31w1G21w4D15w6A9w6I0w9 base c g d a i) 21 4 = g.toNat
      ∧ fld (layC31w1G21w4D15w6A9w6I0w9 base c g d a i) 15 6 = d.toNat
      ∧ fld (layC31w1G21w4D15w6A9w6I0w9 base c g d a i) 9 6 = a.toNat
      ∧ fld (layC31w1G21w4D15w6A9w6I0w9 base c g d a i) 0 9 = i.toNat := by
  have kc := c.isLt
  have kg := g.isLt
  have kd := d.isLt
  have ka := a.isLt
  have ki := i.isLt
  subst hB
  simp only [layC31w1G21w4D15w6A9w6I0w9, fld, Nat.reducePow, Nat.div_one, Nat.mul_one] at *
  refine ⟨?_, ?_, ?_, ?_, ?_, ?_, ?_⟩ <;> omega

theorem fields_C31w1G21w4D15w6A9w6I0w5 (base : Nat) (c : BitVec 1) (g : BitVec 4) (d : BitVec 6) (a : BitVec 6) (i : BitVec 5) (v5 v25 : Nat) (hv : v5 < 2 ^ 4 ∧ v25 < 2 ^ 6)
    (hB : base = v5 * 2 ^ 5 + v25 * 2 ^ 25) :
    layC31w1G21w4D15w6A9w6I0w5 base c g d a i < 2 ^ 32 ∧ fld (layC31w1G21w4D15w6A9w6I0w5 base c g d a i) 5 4 = v5
      ∧ fld (layC31w1G21w4D15w6A9w6I0w5 base c g d a i) 25 6 = v25
      ∧ fld (layC31w1G21w4D15w6A9w6I0w5 base c g d a i) 31 1 = c.toNat
      ∧ fld (layC31w1G21w4D15w6A9w6I0w5 base c g d a i) 21 4 = g.toNat
      ∧ fld (layC31w1G21w4D15w6A9w6I0w5 base c g d a i) 15 6 = d.toNat
      ∧ fld (layC31w1G21w4D15w6A9w6I0w5 base c g d a i) 9 6 = a.toNat
      ∧ fld (layC31w1G21w4D15w6A9w6I0w5 base c g d a i) 0 5 = i.toNat := by
  have kc := c.isLt
  have kg := g.isLt
  have kd := d.isLt
  have ka := a.isLt
  have ki := i.isLt
  subst hB
  simp only [layC31w1G21w4D15w6A9w6I0w5, fld, Nat.reducePow, Nat.div_one, Nat.mul_one] at *
  refine ⟨?_, ?_, ?_, ?_, ?_, ?_, ?_, ?_⟩ <;> omega

theorem fields_C31w1G21w4D15w6A9w6I0w6 (base : Nat) (c : BitVec 1) (g : BitVec 4) (d : BitVec 6) (a : BitVec 6) (i : BitVec 6) (v6 v25 : Nat) (hv : v6 < 2 ^ 3 ∧ v25 < 2 ^ 6)
    (hB : base = v6 * 2 ^ 6 + v25 * 2 ^ 25) :
    layC31w1G21w4D15w6A9w6I0w6 base c g d a i < 2 ^ 32 ∧ fld (layC31w1G21w4D15w6A9w6I0w6 base c g d a i) 6 3 = v6
      ∧ fld (layC31w1G21w4D15w6A9w6I0w6 base c g d a i) 25 6 = v25
      ∧ fld (layC31w1G21w4D15w6A9w6I0w6 base c g d a i) 31 1 = c.toNat
      ∧ fld (layC31w1G21w4D15w6A9w6I0w6 base c g d a i) 21 4 = g.toNat
      ∧ fld (layC31w1G21w4D15w6A9w6I0w6 base c g d a i) 15 6 = d.toNat
      ∧ fld (layC31w1G21w4D15w6A9w6I0w6 base c g d a i) 9 6 = a.toNat
      ∧ fld (layC31w1G21w4D15w6A9w6I0w6 base c g d a i) 0 6 = i.toNat := by
  have kc := c.isLt
  have kg := g.isLt
  have kd := d.isLt
  have ka := a.isLt
  have ki := i.isLt
  subst hB
  simp only [layC31w1G21w4D15w6A9w6I0w6, fld, Nat.reducePow, Nat.div_one, Nat.mul_one] at *
  refine ⟨?_, ?_, ?_, ?_, ?_, ?_, ?_, ?_⟩ <;> omega

theorem fields_C31w1G21w4D15w6I0w15 (base : Nat) (c : BitVec 1) (g : BitVec 4) (d : BitVec 6) (i : BitVec 15) (v25 : Nat) (hv : v25 < 2 ^ 6)
    (hB : base = v25 * 2 ^ 25) :
    layC31w1G21w4D15w6I0w15 base c g d i < 2 ^ 32 ∧ fld (layC31w1G21w4D15w6I0w15 base c g d i) 25 6 = v25
      ∧ fld (layC31w1G21w4D15w6I0w15 base c g d i) 31 1 = c.toNat
      ∧ fld (layC31w1G21w4D15w6I0w15 base c g d i) 21 4 = g.toNat
      ∧ fld (layC31w1G21w4D15w6I0w15 base c g d i) 15 6 = d.toNat
      ∧ fld (layC31w1G21w4D15w6I0w15 base c g d i) 0 15 = i.toNat := by
  have kc := c.isLt
  have kg := g.isLt
  have kd := d.isLt
  have ki := i.isLt
  subst hB
  simp only [layC31w1G21w4D15w6I0w15, fld, Nat.reducePow, Nat.div_one, Nat.mul_one] at *
  refine ⟨?_, ?_, ?_, ?_, ?_, ?_⟩ <;> omega

theorem fields_C31w1G21w4D15w6A9w6 (base : Nat) (c : BitVec 1) (g : BitVec 4) (d : BitVec 6) (a : BitVec 6) (v0 v25 : Nat) (hv : v0 < 2 ^ 9 ∧ v25 < 2 ^ 6)
    (hB : base = v0 * 2 ^ 0 + v25 * 2 ^ 25) :
    layC31w1G21w4D15w6A9w6 base c g d a < 2 ^ 32 ∧ fld (layC31w1G21w4D15w6A9w6 base c g d a) 0 9 = v0
      ∧ fld (layC31w1G21w4D15w6A9w6 base c g d a) 25 6 = v25
      ∧ fld (layC31w1G21w4D15w6A9w6 base c g d a) 31 1 = c.toNat
      ∧ fld (layC31w1G21w4D15w6A9w6 base c g d a) 21 4 = g.toNat
      ∧ fld (layC31w1G21w4D15w6A9w6 base c g d a) 15 6 = d.toNat
      ∧ fld (layC31w1G21w4D15w6A9w6 base c g d a) 9 6 = a.toNat := by
  have kc := c.isLt
  have kg := g.isLt
  have kd := d.isLt
  have ka := a.isLt
  subst hB
  simp only [layC31w1G21w4D15w6A9w6, fld, Nat.reducePow, Nat.div_one, Nat.mul_one] at *
  refine ⟨?_, ?_, ?_, ?_, ?_, ?_, ?_⟩ <;> omega

theorem fields_C31w1G21w4D15w6K9w6 (base : Nat) (c : BitVec 1) (g : BitVec 4) (d : BitVec 6) (k : BitVec 6) (v0 v25 : Nat) (hv : v0 < 2 ^ 9 ∧ v25 < 2 ^ 6)
    (hB : base = v0 * 2 ^ 0 + v25 * 2 ^ 25) :
    layC31w1G21w4D15w6K9w6 base c g d k < 2 ^ 32 ∧ fld (layC31w1G21w4D15w6K9w6 base c g d k) 0 9 = v0
      ∧ fld (layC31w1G21w4D15w6K9w6 base c g d k) 25 6 = v25
      ∧ fld (layC31w1G21w4D15w6K9w6 base c g d k) 31 1 = c.toNat
      ∧ fld (layC31w1G21w4D15w6K9w6 base c g d k) 21 4 = g.toNat
      ∧ fld (layC31w1G21w4D15w6K9w6 base c g d k) 15 6 = d.toNat
      ∧ fld (layC31w1G21w4D15w6K9w6 base c g d k) 9 6 = k.toNat := by
  have kc := c.isLt
  have kg := g.isLt
  have kd := d.isLt
  have kk := k.isLt
  subst hB
  simp only [layC31w1G21w4D15w6K9w6, fld, Nat.reducePow, Nat.div_one, Nat.mul_one] at *
  refine ⟨?_, ?_, ?_, ?_, ?_, ?_, ?_⟩ <;> omega

theorem fields_C31w1G21w4D15w6S9w6 (base : Nat) (c : BitVec 1) (g : BitVec 4) (d : BitVec 6) (s : BitVec 6) (v0 v25 : Nat) (hv : v0 < 2 ^ 9 ∧ v25 < 2 ^ 6)
    (hB : base = v0 * 2 ^ 0 + v25 * 2 ^ 25) :
    layC31w1G21w4D15w6S9w6 base c g d s < 2 ^ 32 ∧ fld (layC31w1G21w4D15w6S9w6 base c g d s) 0 9 = v0
      ∧ fld (layC31w1G21w4D15w6S9w6 base c g d s) 25 6 = v25
      ∧ fld (layC31w1G21w4D15w6S9w6 base c g d s) 31 1 = c.toNat
      ∧ fld (layC31w1G21w4D15w6S9w6 base c g d s) 21 4 = g.toNat
      ∧ fld (layC31w1G21w4D15w6S9w6 base c g d s) 15 6 = d.toNat
      ∧ fld (layC31w1G21w4D15w6S9w6 base c g d s) 9 6 = s.toNat := by
  have kc := c.isLt
  have kg := g.isLt
  have kd := d.isLt
  have ks := s.isLt
  subst hB
  simp only [layC31w1G21w4D15w6S9w6, fld, Nat.reducePow, Nat.div_one, Nat.mul_one] at *
  refine ⟨?_, ?_, ?_, ?_, ?_, ?_, ?_⟩ <;> omega

theorem fields_C31w1G21w4S15w6A9w6 (base : Nat) (c : BitVec 1) (g : BitVec 4) (s : BitVec 6) (a : BitVec 6) (v0 v25 : Nat) (hv : v0 < 2 ^ 9 ∧ v25 < 2 ^ 6)
    (hB : base = v0 * 2 ^ 0 + v25 * 2 ^ 25) :
    layC31w1G21w4S15w6A9w6 base c g s a < 2 ^ 32 ∧ fld (layC31w1G21w4S15w6A9w6 base c g s a) 0 9 = v0
      ∧ fld (layC31w1G21w4S15w6A9w6 base c g s a) 25 6 = v25
      ∧ fld (layC31w1G21w4S15w6A9w6 base c g s a) 31 1 = c.toNat
      ∧ fld (layC31w1G21w4S15w6A9w6 base c g s a) 21 4 = g.toNat
      ∧ fld (layC31w1G21w4S15w6A9w6 base c g s a) 15 6 = s.toNat
      ∧ fld (layC31w1G21w4S15w6A9w6 base c g s a) 9 6 = a.toNat := by
  have kc := c.isLt
  have kg := g.isLt
  have ks := s.isLt
  have ka := a.isLt
  subst hB
  simp only [layC31w1G21w4S15w6A9w6, fld, Nat.reducePow, Nat.div_one, Nat.mul_one] at *
  refine ⟨?_, ?_, ?_, ?_, ?_, ?_, ?_⟩ <;> omega

theorem fields_C31w1G21w4P19w2T16w3A6w6B0w6 (base : Nat) (c : BitVec 1) (g : BitVec 4) (p : BitVec 2) (t : BitVec 3) (a : BitVec 6) (b : BitVec 6) (v12 v25 : Nat) (hv : v12 < 2 ^ 4 ∧ v25 < 2 ^ 6)
    (hB : base = v12 * 2 ^ 12 + v25 * 2 ^ 25) :
    layC31w1G21w4P19w2T16w3A6w6B0w6 base c g p t a b < 2 ^ 32 ∧ fld (layC31w1G21w4P19w2T16w3A6w6B0w6 base c g p t a b) 12 4 = v12
      ∧ fld (layC31w1G21w4P19w2T16w3A6w6B0w6 base c g p t a b) 25 6 = v25
      ∧ fld (layC31w1G21w4P19w2T16w3A6w6B0w6 base c g p t a b) 31 1 = c.toNat
      ∧ fld (layC31w1G21w4P19w2T16w3A6w6B0w6 base c g p t a b) 21 4 = g.toNat
      ∧ fld (layC31w1G21w4P19w2T16w3A6w6B0w6 base c g p t a b) 19 2 = p.toNat
      ∧ fld (layC31w1G21w4P19w2T16w3A6w6B0w6 base c g p t a b) 16 3 = t.toNat
      ∧ fld (layC31w1G21w4P19w2T16w3A6w6B0w6 base c g p t a b) 6 6 = a.toNat
      ∧ fld (layC31w1G21w4P19w2T16w3A6w6B0w6 base c g p t a b) 0 6 = b.toNat := by
  have kc := c.isLt
  have kg := g.isLt
  have kp := p.isLt
  have kt := t.isLt
  have ka := a.isLt
  have kb := b.isLt
  subst hB
  simp only [layC31w1G21w4P19w2T16w3A6w6B0w6, fld, Nat.reducePow, Nat.div_one, Nat.mul_one] at *
  refine ⟨?_, ?_, ?_, ?_, ?_, ?_, ?_, ?_, ?_⟩ <;> omega

theorem fields_C31w1G21w4D18w3A15w3B12w3 (base : Nat) (c : BitVec 1) (g : BitVec 4) (d : BitVec 3) (a : BitVec 3) (b : BitVec 3) (v0 v25 : Nat) (hv : v0 < 2 ^ 12 ∧ v25 < 2 ^ 6)
    (hB : base = v0 * 2 ^ 0 + v25 * 2 ^ 25) :
    layC31w1G21w4D18w3A15w3B12w3 base c g d a b < 2 ^ 32 ∧ fld (layC31w1G21w4D18w3A15w3B12w3 base c g d a b) 0 12 = v0
      ∧ fld (layC31w1G21w4D18w3A15w3B12w3 base c g d a b) 25 6 = v25
      ∧ fld (layC31w1G21w4D18w3A15w3B12w3 base c g d a b) 31 1 = c.toNat
      ∧ fld (layC31w1G21w4D18w3A15w3B12w3 base c g d a b) 21 4 = g.toNat
      ∧ fld (layC31w1G21w4D18w3A15w3B12w3 base c g d a b) 18 3 = d.toNat
      ∧ fld (layC31w1G21w4D18w3A15w3B12w3 base c g d a b) 15 3 = a.toNat
      ∧ fld (layC31w1G21w4D18w3A15w3B12w3 base c g d a b) 12 3 = b.toNat := by
  have kc := c.isLt
  have kg := g.isLt
  have kd := d.isLt
  have ka := a.isLt
  have kb := b.isLt
  subst hB
  simp only [layC31w1G21w4D18w3A15w3B12w3, fld, Nat.reducePow, Nat.div_one, Nat.mul_one] at *
  refine ⟨?_, ?_, ?_, ?_, ?_, ?_, ?_, ?_⟩ <;> omega

theorem fields_C31w1G21w4D18w3A15w3 (base : Nat) (c : BitVec 1) (g : BitVec 4) (d : BitVec 3) (a : BitVec 3) (v0 v25 : Nat) (hv : v0 < 2 ^ 15 ∧ v25 < 2 ^ 6)
    (hB : base = v0 * 2 ^ 0 + v25 * 2 ^ 25) :
    layC31w1G21w4D18w3A15w3 base c g d a < 2 ^ 32 ∧ fld (layC31w1G21w4D18w3A15w3 base c g d a) 0 15 = v0
      ∧ fld (layC31w1G21w4D18w3A15w3 base c g d a) 25 6 = v25
      ∧ fld (layC31w1G21w4D18w3A15w3 base c g d a) 31 1 = c.toNat
      ∧ fld (layC31w1G21w4D18w3A15w3 base c g d a) 21 4 = g.toNat
      ∧ fld (layC31w1G21w4D18w3A15w3 base c g d a) 18 3 = d.toNat
      ∧ fld (layC31w1G21w4D18w3A15w3 base c g d a) 15 3 = a.toNat := by
  have kc := c.isLt
  have kg := g.isLt
  have kd := d.isLt
  have ka := a.isLt
  subst hB
  simp only [layC31w1G21w4D18w3A15w3, fld, Nat.reducePow, Nat.div_one, Nat.mul_one] at *
  refine ⟨?_, ?_, ?_, ?_, ?_, ?_, ?_⟩ <;> omega

theorem fields_C31w1G21w4D18w3V15w3 (base : Nat) (c : BitVec 1) (g : BitVec 4) (d : BitVec 3) (v : BitVec 3) (v0 v25 : Nat) (hv : v0 < 2 ^ 15 ∧ v25 < 2 ^ 6)
    (hB : base = v0 * 2 ^ 0 + v25 * 2 ^ 25) :
    layC31w1G21w4D18w3V15w3 base c g d v < 2 ^ 32 ∧ fld (layC31w1G21w4D18w3V15w3 base c g d v) 0 15 = v0
      ∧ fld (layC31w1G21w4D18w3V15w3 base c g d v) 25 6 = v25
      ∧ fld (layC31w1G21w4D18w3V15w3 base c g d v) 31 1 = c.toNat
      ∧ fld (layC31w1G21w4D18w3V15w3 base c g d v) 21 4 = g.toNat
      ∧ fld (layC31w1G21w4D18w3V15w3 base c g d v) 18 3 = d.toNat
      ∧ fld (layC31w1G21w4D18w3V15w3 base c g d v) 15 3 = v.toNat := by
  have kc := c.isLt
  have kg := g.isLt
  have kd := d.isLt
  have kv := v.isLt
  subst hB
  simp only [layC31w1G21w4D18w3V15w3, fld, Nat.reducePow, Nat.div_one, Nat.mul_one] at *
  refine ⟨?_, ?_, ?_, ?_, ?_, ?_, ?_⟩ <;> omega

theorem fields_C31w1G21w4D15w6A9w6B3w6K0w3 (base : Nat) (c : BitVec 1) (g : BitVec 4) (d : BitVec 6) (a : BitVec 6) (b : BitVec 6) (k : BitVec 3) (v25 : Nat) (hv : v25 < 2 ^ 6)
    (hB : base = v25 * 2 ^ 25) :
    layC31w1G21w4D15w6A9w6B3w6K0w3 base c g d a b k < 2 ^ 32 ∧ fld (layC31w1G21w4D15w6A9w6B3w6K0w3 base c g d a b k) 25 6 = v25
      ∧ fld (layC31w1G21w4D15w6A9w6B3w6K0w3 base c g d a b k) 31 1 = c.toNat
      ∧ fld (layC31w1G21w4D15w6A9w6B3w6K0w3 base c g d a b k) 21 4 = g.toNat
      ∧ fld (layC31w1G21w4D15w6A9w6B3w6K0w3 base c g d a b k) 15 6 = d.toNat
      ∧ fld (layC31w1G21w4D15w6A9w6B3w6K0w3 base c g d a b k) 9 6 = a.toNat
      ∧ fld (layC31w1G21w4D15w6A9w6B3w6K0w3 base c g d a b k) 3 6 = b.toNat
      ∧ fld (layC31w1G21w4D15w6A9w6B3w6K0w3 base c g d a b k) 0 3 = k.toNat := by
  have kc := c.isLt
  have kg := g.isLt
  have kd := d.isLt
  have ka := a.isLt
  have kb := b.isLt
  have kk := k.isLt
  subst hB
  simp only [layC31w1G21w4D15w6A9w6B3w6K0w3, fld, Nat.reducePow, Nat.div_one, Nat.mul_one] at *
  refine ⟨?_, ?_, ?_, ?_, ?_, ?_, ?_, ?_⟩ <;> omega

theorem fields_C31w1G21w4D15w6A9w6X3w3Y0w3 (base : Nat) (c : BitVec 1) (g : BitVec 4) (d : BitVec 6) (a : BitVec 6) (x : BitVec 3) (y : BitVec 3) (v6 v25 : Nat) (hv : v6 < 2 ^ 3 ∧ v25 < 2 ^ 6)
    (hB : base = v6 * 2 ^ 6 + v25 * 2 ^ 25) :
    layC31w1G21w4D15w6A9w6X3w3Y0w3 base c g d a x y < 2 ^ 32 ∧ fld (layC31w1G21w4D15w6A9w6X3w3Y0w3 base c g d a x y) 6 3 = v6
      ∧ fld (layC31w1G21w4D15w6A9w6X3w3Y0w3 base c g d a x y) 25 6 = v25
      ∧ fld (layC31w1G21w4D15w6A9w6X3w3Y0w3 base c g d a x y) 31 1 = c.toNat
      ∧ fld (layC31w1G21w4D15w6A9w6X3w3Y0w3 base c g d a x y) 21 4 = g.toNat
      ∧ fld (layC31w1G21w4D15w6A9w6X3w3Y0w3 base c g d a x y) 15 6 = d.toNat
      ∧ fld (layC31w1G21w4D15w6A9w6X3w3Y0w3 base c g d a x y) 9 6 = a.toNat
      ∧ fld (layC31w1G21w4D15w6A9w6X3w3Y0w3 base c g d a x y) 3 3 = x.toNat
      ∧ fld (layC31w1G21w4D15w6A9w6X3w3Y0w3 base c g d a x y) 0 3 = y.toNat := by
  have kc := c.isLt
  have kg := g.isLt
  have kd := d.isLt
  have ka := a.isLt
  have kx := x.isLt
  have ky := y.isLt
  subst hB
  simp only [layC31w1G21w4D15w6A9w6X3w3Y0w3, fld, Nat.reducePow, Nat.div_one, Nat.mul_one] at *
  refine ⟨?_, ?_, ?_, ?_, ?_, ?_, ?_, ?_, ?_⟩ <;> omega

theorem fields_C31w1G21w4D15w6A9w6K3w3 (base : Nat) (c : BitVec 1) (g : BitVec 4) (d : BitVec 6) (a : BitVec 6) (k : BitVec 3) (v0 v6 v25 : Nat) (hv : v0 < 2 ^ 3 ∧ v6 < 2 ^ 3 ∧ v25 < 2 ^ 6)
    (hB : base = v0 * 2 ^ 0 + v6 * 2 ^ 6 + v25 * 2 ^ 25) :
    layC31w1G21w4D15w6A9w6K3w3 base c g d a k < 2 ^ 32 ∧ fld (layC31w1G21w4D15w6A9w6K3w3 base c g d a k) 0 3 = v0
      ∧ fld (layC31w1G21w4D15w6A9w6K3w3 base c g d a k) 6 3 = v6
      ∧ fld (layC31w1G21w4D15w6A9w6K3w3 base c g d a k) 25 6 = v25
      ∧ fld (layC31w1G21w4D15w6A9w6K3w3 base c g d a k) 31 1 = c.toNat
      ∧ fld (layC31w1G21w4D15w6A9w6K3w3 base c g d a k) 21 4 = g.toNat
      ∧ fld (layC31w1G21w4D15w6A9w6K3w3 base c g d a k) 15 6 = d.toNat
      ∧ fld (layC31w1G21w4D15w6A9w6K3w3 base c g d a k) 9 6 = a.toNat
      ∧ fld (layC31w1G21w4D15w6A9w6K3w3 base c g d a k) 3 3 = k.toNat := by
  have kc := c.isLt
  have kg := g.isLt
  have kd := d.isLt
  have ka := a.isLt
  have kk := k.isLt
  subst hB
  simp only [layC31w1G21w4D15w6A9w6K3w3, fld, Nat.reducePow, Nat.div_one, Nat.mul_one] at *
  refine ⟨?_, ?_, ?_, ?_, ?_, ?_, ?_, ?_, ?_⟩ <;> omega

theorem fields_C31w1G21w4D15w6B9w6P3w6 (base : Nat) (c : BitVec 1) (g : BitVec 4) (d : BitVec 6) (b : BitVec 6) (p : BitVec 6) (v0 v25 : Nat) (hv : v0 < 2 ^ 3 ∧ v25 < 2 ^ 6)
    (hB : base = v0 * 2 ^ 0 + v25 * 2 ^ 25) :
    layC31w1G21w4D15w6B9w6P3w6 base c g d b p < 2 ^ 32 ∧ fld (layC31w1G21w4D15w6B9w6P3w6 base c g d b p) 0 3 = v0
      ∧ fld (layC31w1G21w4D15w6B9w6P3w6 base c g d b p) 25 6 = v25
      ∧ fld (layC31w1G21w4D15w6B9w6P3w6 base c g d b p) 31 1 = c.toNat
      ∧ fld (layC31w1G21w4D15w6B9w6P3w6 base c g d b p) 21 4 = g.toNat
      ∧ fld (layC31w1G21w4D15w6B9w6P3w6 base c g d b p) 15 6 = d.toNat
      ∧ fld (layC31w1G21w4D15w6B9w6P3w6 base c g d b p) 9 6 = b.toNat
      ∧ fld (layC31w1G21w4D15w6B9w6P3w6 base c g d b p) 3 6 = p.toNat := by
  have kc := c.isLt
  have kg := g.isLt
  have kd := d.isLt
  have kb := b.isLt
  have kp := p.isLt
  subst hB
  simp only [layC31w1G21w4D15w6B9w6P3w6, fld, Nat.reducePow, Nat.div_one, Nat.mul_one] at *
  refine ⟨?_, ?_, ?_, ?_, ?_, ?_, ?_, ?_⟩ <;> omega

theorem fields_C31w1G21w4D15w6B9w6I3w6 (base : Nat) (c : BitVec 1) (g : BitVec 4) (d : BitVec 6) (b : BitVec 6) (i : BitVec 6) (v0 v25 : Nat) (hv : v0 < 2 ^ 3 ∧ v25 < 2 ^ 6)
    (hB : base = v0 * 2 ^ 0 + v25 * 2 ^ 25) :
    layC31w1G21w4D15w6B9w6I3w6 base c g d b i < 2 ^ 32 ∧ fld (layC31w1G21w4D15w6B9w6I3w6 base c g d b i) 0 3 = v0
      ∧ fld (layC31w1G21w4D15w6B9w6I3w6 base c g d b i) 25 6 = v25
      ∧ fld (layC31w1G21w4D15w6B9w6I3w6 base c g d b i) 31 1 = c.toNat
      ∧ fld (layC31w1G21w4D15w6B9w6I3w6 base c g d b i) 21 4 = g.toNat
      ∧ fld (layC31w1G21w4D15w6B9w6I3w6 base c g d b i) 15 6 = d.toNat
      ∧ fld (layC31w1G21w4D15w6B9w6I3w6 base c g d b i) 9 6 = b.toNat
      ∧ fld (layC31w1G21w4D15w6B9w6I3w6 base c g d b i) 3 6 = i.toNat := by
  have kc := c.isLt
  have kg := g.isLt
  have kd := d.isLt
  have kb := b.isLt
  have ki := i.isLt
  subst hB
  simp only [layC31w1G21w4D15w6B9w6I3w6, fld, Nat.reducePow, Nat.div_one, Nat.mul_one] at *
  refine ⟨?_, ?_, ?_, ?_, ?_, ?_, ?_, ?_⟩ <;> omega

theorem fields_C31w1G21w4D15w6B9w6V3w6 (base : Nat) (c : BitVec 1) (g : BitVec 4) (d : BitVec 6) (b : BitVec 6) (v : BitVec 6) (v0 v25 : Nat) (hv : v0 < 2 ^ 3 ∧ v25 < 2 ^ 6)
    (hB : base = v0 * 2 ^ 0 + v25 * 2 ^ 25) :
    layC31w1G21w4D15w6B9w6V3w6 base c g d b v < 2 ^ 32 ∧ fld (layC31w1G21w4D15w6B9w6V3w6 base c g d b v) 0 3 = v0
      ∧ fld (layC31w1G21w4D15w6B9w6V3w6 base c g d b v) 25 6 = v25
      ∧ fld (layC31w1G21w4D15w6B9w6V3w6 base c g d b v) 31 1 = c.toNat
      ∧ fld (layC31w1G21w4D15w6B9w6V3w6 base c g d b v) 21 4 = g.toNat
      ∧ fld (layC31w1G21w4D15w6B9w6V3w6 base c g d b v) 15 6 = d.toNat
      ∧ fld (layC31w1G21w4D15w6B9w6V3w6 base c g d b v) 9 6 = b.toNat
      ∧ fld (layC31w1G21w4D15w6B9w6V3w6 base c g d b v) 3 6 = v.toNat := by
  have kc := c.isLt
  have kg := g.isLt
  have kd := d.isLt
  have kb := b.isLt
  have kv := v.isLt
  subst hB
  simp only [layC31w1G21w4D15w6B9w6V3w6, fld, Nat.reducePow, Nat.div_one, Nat.mul_one] at *
  refine ⟨?_, ?_, ?_, ?_, ?_, ?_, ?_, ?_⟩ <;> omega

theorem fields_C31w1G21w4P15w6S9w6K6w3 (base : Nat) (c : BitVec 1) (g : BitVec 4) (p : BitVec 6) (s : BitVec 6) (k : BitVec 3) (v0 v25 : Nat) (hv : v0 < 2 ^ 6 ∧ v25 < 2 ^ 6)
    (hB : base = v0 * 2 ^ 0 + v25 * 2 ^ 25) :
    layC31w1G21w4P15w6S9w6K6w3 base c g p s k < 2 ^ 32 ∧ fld (layC31w1G21w4P15w6S9w6K6w3 base c g p s k) 0 6 = v0
      ∧ fld (layC31w1G21w4P15w6S9w6K6w3 base c g p s k) 25 6 = v25
      ∧ fld (layC31w1G21w4P15w6S9w6K6w3 base c g p s k) 31 1 = c.toNat
      ∧ fld (layC31w1G21w4P15w6S9w6K6w3 base c g p s k) 21 4 = g.toNat
      ∧ fld (layC31w1G21w4P15w6S9w6K6w3 base c g p s k) 15 6 = p.toNat
      ∧ fld (layC31w1G21w4P15w6S9w6K6w3 base c g p s k) 9 6 = s.toNat
      ∧ fld (layC31w1G21w4P15w6S9w6K6w3 base c g p s k) 6 3 = k.toNat := by
  have kc := c.isLt
  have kg := g.isLt
  have kp := p.isLt
  have ks := s.isLt
  have kk := k.isLt
  subst hB
  simp only [layC31w1G21w4P15w6S9w6K6w3, fld, Nat.reducePow, Nat.div_one, Nat.mul_one] at *
  refine ⟨?_, ?_, ?_, ?_, ?_, ?_, ?_, ?_⟩ <;> omega

theorem fields_C31w1G21w4B9w6P3w6 (base : Nat) (c : BitVec 1) (g : BitVec 4) (b : BitVec 6) (p : BitVec 6) (v0 v15 v25 : Nat) (hv : v0 < 2 ^ 3 ∧ v15 < 2 ^ 6 ∧ v25 < 2 ^ 6)
    (hB : base = v0 * 2 ^ 0 + v15 * 2 ^ 15 + v25 * 2 ^ 25) :
    layC31w1G21w4B9w6P3w6 base c g b p < 2 ^ 32 ∧ fld (layC31w1G21w4B9w6P3w6 base c g b p) 0 3 = v0
      ∧ fld (layC31w1G21w4B9w6P3w6 base c g b p) 15 6 = v15
      ∧ fld (layC31w1G21w4B9w6P3w6 base c g b p) 25 6 = v25
      ∧ fld (layC31w1G21w4B9w6P3w6 base c g b p) 31 1 = c.toNat
      ∧ fld (layC31w1G21w4B9w6P3w6 base c g b p) 21 4 = g.toNat
      ∧ fld (layC31w1G21w4B9w6P3w6 base c g b p) 9 6 = b.toNat
      ∧ fld (layC31w1G21w4B9w6P3w6 base c g b p) 3 6 = p.toNat := by
  have kc := c.isLt
  have kg := g.isLt
  have kb := b.isLt
  have kp := p.isLt
  subst hB
  simp only [layC31w1G21w4B9w6P3w6, fld, Nat.reducePow, Nat.div_one, Nat.mul_one] at *
  refine ⟨?_, ?_, ?_, ?_, ?_, ?_, ?_, ?_⟩ <;> omega

theorem fields_C31w1G21w4T15w6B9w6L3w6 (base : Nat) (c : BitVec 1) (g : BitVec 4) (t : BitVec 6) (b : BitVec 6) (l : BitVec 6) (v0 v25 : Nat) (hv : v0 < 2 ^ 3 ∧ v25 < 2 ^ 6)
    (hB : base = v0 * 2 ^ 0 + v25 * 2 ^ 25) :
    layC31w1G21w4T15w6B9w6L3w6 base c g t b l < 2 ^ 32 ∧ fld (layC31w1G21w4T15w6B9w6L3w6 base c g t b l) 0 3 = v0
      ∧ fld (layC31w1G21w4T15w6B9w6L3w6 base c g t b l) 25 6 = v25
      ∧ fld (layC31w1G21w4T15w6B9w6L3w6 base c g t b l) 31 1 = c.toNat
      ∧ fld (layC31w1G21w4T15w6B9w6L3w6 base c g t b l) 21 4 = g.toNat
      ∧ fld (layC31w1G21w4T15w6B9w6L3w6 base c g t b l) 15 6 = t.toNat
      ∧ fld (layC31w1G21w4T15w6B9w6L3w6 base c g t b l) 9 6 = b.toNat
      ∧ fld (layC31w1G21w4T15w6B9w6L3w6 base c g t b l) 3 6 = l.toNat := by
  have kc := c.isLt
  have kg := g.isLt
  have kt := t.isLt
  have kb := b.isLt
  have kl := l.isLt
  subst hB
  simp only [layC31w1G21w4T15w6B9w6L3w6, fld, Nat.reducePow, Nat.div_one, Nat.mul_one] at *
  refine ⟨?_, ?_, ?_, ?_, ?_, ?_, ?_, ?_⟩ <;> omega

theorem fields_C31w1G21w4B9w6L3w6 (base : Nat) (c : BitVec 1) (g : BitVec 4) (b : BitVec 6) (l : BitVec 6) (v0 v15 v25 : Nat) (hv : v0 < 2 ^ 3 ∧ v15 < 2 ^ 6 ∧ v25 < 2 ^ 6)
    (hB : base = v0 * 2 ^ 0 + v15 * 2 ^ 15 + v25 * 2 ^ 25) :
    layC31w1G21w4B9w6L3w6 base c g b l < 2 ^ 32 ∧ fld (layC31w1G21w4B9w6L3w6 base c g b l) 0 3 = v0
      ∧ fld (layC31w1G21w4B9w6L3w6 base c g b l) 15 6 = v15
      ∧ fld (layC31w1G21w4B9w6L3w6 base c g b l) 25 6 = v25
      ∧ fld (layC31w1G21w4B9w6L3w6 base c g b l) 31 1 = c.toNat
      ∧ fld (layC31w1G21w4B9w6L3w6 base c g b l) 21 4 = g.toNat
      ∧ fld (layC31w1G21w4B9w6L3w6 base c g b l) 9 6 = b.toNat
      ∧ fld (layC31w1G21w4B9w6L3w6 base c g b l) 3 6 = l.toNat := by
  have kc := c.isLt
  have kg := g.isLt
  have kb := b.isLt
  have kl := l.isLt
  subst hB
  simp only [layC31w1G21w4B9w6L3w6, fld, Nat.reducePow, Nat.div_one, Nat.mul_one] at *
  refine ⟨?_, ?_, ?_, ?_, ?_, ?_, ?_, ?_⟩ <;> omega

theorem fields_C31w1G21w4D15w6B9w6L3w6 (base : Nat) (c : BitVec 1) (g : BitVec 4) (d : BitVec 6) (b : BitVec 6) (l : BitVec 6) (v0 v25 : Nat) (hv : v0 < 2 ^ 3 ∧ v25 < 2 ^ 6)
    (hB : base = v0 * 2 ^ 0 + v25 * 2 ^ 25) :
    layC31w1G21w4D15w6B9w6L3w6 base c g d b l < 2 ^ 32 ∧ fld (layC31w1G21w4D15w6B9w6L3w6 base c g d b l) 0 3 = v0
      ∧ fld (layC31w1G21w4D15w6B9w6L3w6 base c g d b l) 25 6 = v25
      ∧ fld (layC31w1G21w4D15w6B9w6L3w6 base c g d b l) 31 1 = c.toNat
      ∧ fld (layC31w1G21w4D15w6B9w6L3w6 base c g d b l) 21 4 = g.toNat
      ∧ fld (layC31w1G21w4D15w6B9w6L3w6 base c g d b l) 15 6 = d.toNat
      ∧ fld (layC31w1G21w4D15w6B9w6L3w6 base c g d b l) 9 6 = b.toNat
      ∧ fld (layC31w1G21w4D15w6B9w6L3w6 base c g d b l) 3 6 = l.toNat := by
  have kc := c.isLt
  have kg := g.isLt
  have kd := d.isLt
  have kb := b.isLt
  have kl := l.isLt
  subst hB
  simp only [layC31w1G21w4D15w6B9w6L3w6, fld, Nat.reducePow, Nat.div_one, Nat.mul_one] at *
  refine ⟨?_, ?_, ?_, ?_, ?_, ?_, ?_, ?_⟩ <;> omega

theorem fields_C31w1G21w4D15w6B9w6S3w6 (base : Nat) (c : BitVec 1) (g : BitVec 4) (d : BitVec 6) (b : BitVec 6) (s : BitVec 6) (v0 v25 : Nat) (hv : v0 < 2 ^ 3 ∧ v25 < 2 ^ 6)
    (hB : base = v0 * 2 ^ 0 + v25 * 2 ^ 25) :
    layC31w1G21w4D15w6B9w6S3w6 base c g d b s < 2 ^ 32 ∧ fld (layC31w1G21w4D15w6B9w6S3w6 base c g d b s) 0 3 = v0
      ∧ fld (layC31w1G21w4D15w6B9w6S3w6 base c g d b s) 25 6 = v25
      ∧ fld (layC31w1G21w4D15w6B9w6S3w6 base c g d b s) 31 1 = c.toNat
      ∧ fld (layC31w1G21w4D15w6B9w6S3w6 base c g d b s) 21 4 = g.toNat
      ∧ fld (layC31w1G21w4D15w6B9w6S3w6 base c g d b s) 15 6 = d.toNat
      ∧ fld (layC31w1G21w4D15w6B9w6S3w6 base c g d b s) 9 6 = b.toNat
      ∧ fld (layC31w1G21w4D15w6B9w6S3w6 base c g d b s) 3 6 = s.toNat := by
  have kc := c.isLt
  have kg := g.isLt
  have kd := d.isLt
  have kb := b.isLt
  have ks := s.isLt
  subst hB
  simp only [layC31w1G21w4D15w6B9w6S3w6, fld, Nat.reducePow, Nat.div_one, Nat.mul_one] at *
  refine ⟨?_, ?_, ?_, ?_, ?_, ?_, ?_, ?_⟩ <;> omega

theorem fields_C31w1G21w4B9w6 (base : Nat) (c : BitVec 1) (g : BitVec 4) (b : BitVec 6) (v0 v15 v25 : Nat) (hv : v0 < 2 ^ 9 ∧ v15 < 2 ^ 6 ∧ v25 < 2 ^ 6)
    (hB : base = v0 * 2 ^ 0 + v15 * 2 ^ 15 + v25 * 2 ^ 25) :
    layC31w1G21w4B9w6 base c g b < 2 ^ 32 ∧ fld (layC31w1G21w4B9w6 base c g b) 0 9 = v0
      ∧ fld (layC31w1G21w4B9w6 base c g b) 15 6 = v15
      ∧ fld (layC31w1G21w4B9w6 base c g b) 25 6 = v25
      ∧ fld (layC31w1G21w4B9w6 base c g b) 31 1 = c.toNat
      ∧ fld (layC31w1G21w4B9w6 base c g b) 21 4 = g.toNat
      ∧ fld (layC31w1G21w4B9w6 base c g b) 9 6 = b.toNat := by
  have kc := c.isLt
  have kg := g.isLt
  have kb := b.isLt
  subst hB
  simp only [layC31w1G21w4B9w6, fld, Nat.reducePow, Nat.div_one, Nat.mul_one] at *
  refine ⟨?_, ?_, ?_, ?_, ?_, ?_, ?_⟩ <;> omega

theorem fields_C31w1G21w4D15w6B9w6 (base : Nat) (c : BitVec 1) (g : BitVec 4) (d : BitVec 6) (b : BitVec 6) (v0 v25 : Nat) (hv : v0 < 2 ^ 9 ∧ v25 < 2 ^ 6)
    (hB : base = v0 * 2 ^ 0 + v25 * 2 ^ 25) :
    layC31w1G21w4D15w6B9w6 base c g d b < 2 ^ 32 ∧ fld (layC31w1G21w4D15w6B9w6 base c g d b) 0 9 = v0
      ∧ fld (layC31w1G21w4D15w6B9w6 base c g d b) 25 6 = v25
      ∧ fld (layC31w1G21w4D15w6B9w6 base c g d b) 31 1 = c.toNat
      ∧ fld (layC31w1G21w4D15w6B9w6 base c g d b) 21 4 = g.toNat
      ∧ fld (layC31w1G21w4D15w6B9w6 base c g d b) 15 6 = d.toNat
      ∧ fld (layC31w1G21w4D15w6B9w6 base c g d b) 9 6 = b.toNat := by
  have kc := c.isLt
  have kg := g.isLt
  have kd := d.isLt
  have kb := b.isLt
  subst hB
  simp only [layC31w1G21w4D15w6B9w6, fld, Nat.reducePow, Nat.div_one, Nat.mul_one] at *
  refine ⟨?_, ?_, ?_, ?_, ?_, ?_, ?_⟩ <;> omega

theorem fields_C31w1G21w4D15w6S9w6P3w6 (base : Nat) (c : BitVec 1) (g : BitVec 4) (d : BitVec 6) (s : BitVec 6) (p : BitVec 6) (v0 v25 : Nat) (hv : v0 < 2 ^ 3 ∧ v25 < 2 ^ 6)
    (hB : base = v0 * 2 ^ 0 + v25 * 2 ^ 25) :
    layC31w1G21w4D15w6S9w6P3w6 base c g d s p < 2 ^ 32 ∧ fld (layC31w1G21w4D15w6S9w6P3w6 base c g d s p) 0 3 = v0
      ∧ fld (layC31w1G21w4D15w6S9w6P3w6 base c g d s p) 25 6 = v25
      ∧ fld (layC31w1G21w4D15w6S9w6P3w6 base c g d s p) 31 1 = c.toNat
      ∧ fld (layC31w1G21w4D15w6S9w6P3w6 base c g d s p) 21 4 = g.toNat
      ∧ fld (layC31w1G21w4D15w6S9w6P3w6 base c g d s p) 15 6 = d.toNat
      ∧ fld (layC31w1G21w4D15w6S9w6P3w6 base c g d s p) 9 6 = s.toNat
      ∧ fld (layC31w1G21w4D15w6S9w6P3w6 base c g d s p) 3 6 = p.toNat := by
  have kc := c.isLt
  have kg := g.isLt
  have kd := d.isLt
  have ks := s.isLt
  have kp := p.isLt
  subst hB
  simp only [layC31w1G21w4D15w6S9w6P3w6, fld, Nat.reducePow, Nat.div_one, Nat.mul_one] at *
  refine ⟨?_, ?_, ?_, ?_, ?_, ?_, ?_, ?_⟩ <;> omega

theorem fields_C31w1G21w4D15w6X9w6P3w6 (base : Nat) (c : BitVec 1) (g : BitVec 4) (d : BitVec 6) (x : BitVec 6) (p : BitVec 6) (v0 v25 : Nat) (hv : v0 < 2 ^ 3 ∧ v25 < 2 ^ 6)
    (hB : base = v0 * 2 ^ 0 + v25 * 2 ^ 25) :
    layC31w1G21w4D15w6X9w6P3w6 base c g d x p < 2 ^ 32 ∧ fld (layC31w1G21w4D15w6X9w6P3w6 base c g d x p) 0 3 = v0
      ∧ fld (layC31w1G21w4D15w6X9w6P3w6 base c g d x p) 25 6 = v25
      ∧ fld (layC31w1G21w4D15w6X9w6P3w6 base c g d x p) 31 1 = c.toNat
      ∧ fld (layC31w1G21w4D15w6X9w6P3w6 base c g d x p) 21 4 = g.toNat
      ∧ fld (layC31w1G21w4D15w6X9w6P3w6 base c g d x p) 15 6 = d.toNat
      ∧ fld (layC31w1G21w4D15w6X9w6P3w6 base c g d x p) 9 6 = x.toNat
      ∧ fld (layC31w1G21w4D15w6X9w6P3w6 base c g d x p) 3 6 = p.toNat := by
  have kc := c.isLt
  have kg := g.isLt
  have kd := d.isLt
  have kx := x.isLt
  have kp := p.isLt
  subst hB
  simp only [layC31w1G21w4D15w6X9w6P3w6, fld, Nat.reducePow, Nat.div_one, Nat.mul_one] at *
  refine ⟨?_, ?_, ?_, ?_, ?_, ?_, ?_, ?_⟩ <;> omega

theorem fields_C31w1G21w4D15w6T9w6I3w6 (base : Nat) (c : BitVec 1) (g : BitVec 4) (d : BitVec 6) (t : BitVec 6) (i : BitVec 6) (v0 v25 : Nat) (hv : v0 < 2 ^ 3 ∧ v25 < 2 ^ 6)
    (hB : base = v0 * 2 ^ 0 + v25 * 2 ^ 25) :
    layC31w1G21w4D15w6T9w6I3w6 base c g d t i < 2 ^ 32 ∧ fld (layC31w1G21w4D15w6T9w6I3w6 base c g d t i) 0 3 = v0
      ∧ fld (layC31w1G21w4D15w6T9w6I3w6 base c g d t i) 25 6 = v25
      ∧ fld (layC31w1G21w4D15w6T9w6I3w6 base c g d t i) 31 1 = c.toNat
      ∧ fld (layC31w1G21w4D15w6T9w6I3w6 base c g d t i) 21 4 = g.toNat
      ∧ fld (layC31w1G21w4D15w6T9w6I3w6 base c g d t i) 15 6 = d.toNat
      ∧ fld (layC31w1G21w4D15w6T9w6I3w6 base c g d t i) 9 6 = t.toNat
      ∧ fld (layC31w1G21w4D15w6T9w6I3w6 base c g d t i) 3 6 = i.toNat := by
  have kc := c.isLt
  have kg := g.isLt
  have kd := d.isLt
  have kt := t.isLt
  have ki := i.isLt
  subst hB
  simp only [layC31w1G21w4D15w6T9w6I3w6, fld, Nat.reducePow, Nat.div_one, Nat.mul_one] at *
  refine ⟨?_, ?_, ?_, ?_, ?_, ?_, ?_, ?_⟩ <;> omega

theorem fields_C31w1G21w4N9w6 (base : Nat) (c : BitVec 1) (g : BitVec 4) (n : BitVec 6) (v0 v15 v25 : Nat) (hv : v0 < 2 ^ 9 ∧ v15 < 2 ^ 6 ∧ v25 < 2 ^ 6)
    (hB : base = v0 * 2 ^ 0 + v15 * 2 ^ 15 + v25 * 2 ^ 25) :
    layC31w1G21w4N9w6 base c g n < 2 ^ 32 ∧ fld (layC31w1G21w4N9w6 base c g n) 0 9 = v0
      ∧ fld (layC31w1G21w4N9w6 base c g n) 15 6 = v15
      ∧ fld (layC31w1G21w4N9w6 base c g n) 25 6 = v25
      ∧ fld (layC31w1G21w4N9w6 base c g n) 31 1 = c.toNat
      ∧ fld (layC31w1G21w4N9w6 base c g n) 21 4 = g.toNat
      ∧ fld (layC31w1G21w4N9w6 base c g n) 9 6 = n.toNat := by
  have kc := c.isLt
  have kg := g.isLt
  have kn := n.isLt
  subst hB
  simp only [layC31w1G21w4N9w6, fld, Nat.reducePow, Nat.div_one, Nat.mul_one] at *
  refine ⟨?_, ?_, ?_, ?_, ?_, ?_, ?_⟩ <;> omega

theorem fields_C31w1G21w4D15w6A9w6M3w6 (base : Nat) (c : BitVec 1) (g : BitVec 4) (d : BitVec 6) (a : BitVec 6) (m : BitVec 6) (v0 v25 : Nat) (hv : v0 < 2 ^ 3 ∧ v25 < 2 ^ 6)
    (hB : base = v0 * 2 ^ 0 + v25 * 2 ^ 25) :
    layC31w1G21w4D15w6A9w6M3w6 base c g d a m < 2 ^ 32 ∧ fld (layC31w1G21w4D15w6A9w6M3w6 base c g d a m) 0 3 = v0
      ∧ fld (layC31w1G21w4D15w6A9w6M3w6 base c g d a m) 25 6 = v25
      ∧ fld (layC31w1G21w4D15w6A9w6M3w6 base c g d a m) 31 1 = c.toNat
      ∧ fld (layC31w1G21w4D15w6A9w6M3w6 base c g d a m) 21 4 = g.toNat
      ∧ fld (layC31w1G21w4D15w6A9w6M3w6 base c g d a m) 15 6 = d.toNat
      ∧ fld (layC31w1G21w4D15w6A9w6M3w6 base c g d a m) 9 6 = a.toNat
      ∧ fld (layC31w1G21w4D15w6A9w6M3w6 base c g d a m) 3 6 = m.toNat := by
  have kc := c.isLt
  have kg := g.isLt
  have kd := d.isLt
  have ka := a.isLt
  have km := m.isLt
  subst hB
  simp only [layC31w1G21w4D15w6A9w6M3w6, fld, Nat.reducePow, Nat.div_one, Nat.mul_one] at *
  refine ⟨?_, ?_, ?_, ?_, ?_, ?_, ?_, ?_⟩ <;> omega

theorem fields_C31w1G21w4N15w6 (base : Nat) (c : BitVec 1) (g : BitVec 4) (n : BitVec 6) (v0 v25 : Nat) (hv : v0 < 2 ^ 15 ∧ v25 < 2 ^ 6)
    (hB : base = v0 * 2 ^ 0 + v25 * 2 ^ 25) :
    layC31w1G21w4N15w6 base c g n < 2 ^ 32 ∧ fld (layC31w1G21w4N15w6 base c g n) 0 15 = v0
      ∧ fld (layC31w1G21w4N15w6 base c g n) 25 6 = v25
      ∧ fld (layC31w1G21w4N15w6 base c g n) 31 1 = c.toNat
      ∧ fld (layC31w1G21w4N15w6 base c g n) 21 4 = g.toNat
      ∧ fld (layC31w1G21w4N15w6 base c g n) 15 6 = n.toNat := by
  have kc := c.isLt
  have kg := g.isLt
  have kn := n.isLt
  subst hB
  simp only [layC31w1G21w4N15w6, fld, Nat.reducePow, Nat.div_one, Nat.mul_one] at *
  refine ⟨?_, ?_, ?_, ?_, ?_, ?_⟩ <;> omega

theorem fields_C31w1G21w4N9w6P3w6 (base : Nat) (c : BitVec 1) (g : BitVec 4) (n : BitVec 6) (p : BitVec 6) (v0 v15 v25 : Nat) (hv : v0 < 2 ^ 3 ∧ v15 < 2 ^ 6 ∧ v25 < 2 ^ 6)
    (hB : base = v0 * 2 ^ 0 + v15 * 2 ^ 15 + v25 * 2 ^ 25) :
    layC31w1G21w4N9w6P3w6 base c g n p < 2 ^ 32 ∧ fld (layC31w1G21w4N9w6P3w6 base c g n p) 0 3 = v0
      ∧ fld (layC31w1G21w4N9w6P3w6 base c g n p) 15 6 = v15
      ∧ fld (layC31w1G21w4N9w6P3w6 base c g n p) 25 6 = v25
      ∧ fld (layC31w1G21w4N9w6P3w6 base c g n p) 31 1 = c.toNat
      ∧ fld (layC31w1G21w4N9w6P3w6 base c g n p) 21 4 = g.toNat
      ∧ fld (layC31w1G21w4N9w6P3w6 base c g n p) 9 6 = n.toNat
      ∧ fld (layC31w1G21w4N9w6P3w6 base c g n p) 3 6 = p.toNat := by
  have kc := c.isLt
  have kg := g.isLt
  have kn := n.isLt
  have kp := p.isLt
  subst hB
  simp only [layC31w1G21w4N9w6P3w6, fld, Nat.reducePow, Nat.div_one, Nat.mul_one] at *
  refine ⟨?_, ?_, ?_, ?_, ?_, ?_, ?_, ?_⟩ <;> omega

theorem fields_C31w1G21w4D15w6A9w6P3w6 (base : Nat) (c : BitVec 1) (g : BitVec 4) (d : BitVec 6) (a : BitVec 6) (p : BitVec 6) (v0 v25 : Nat) (hv : v0 < 2 ^ 3 ∧ v25 < 2 ^ 6)
    (hB : base = v0 * 2 ^ 0 + v25 * 2 ^ 25) :
    layC31w1G21w4D15w6A9w6P3w6 base c g d a p < 2 ^ 32 ∧ fld (layC31w1G21w4D15w6A9w6P3w6 base c g d a p) 0 3 = v0
      ∧ fld (layC31w1G21w4D15w6A9w6P3w6 base c g d a p) 25 6 = v25
      ∧ fld (layC31w1G21w4D15w6A9w6P3w6 base c g d a p) 31 1 = c.toNat
      ∧ fld (layC31w1G21w4D15w6A9w6P3w6 base c g d a p) 21 4 = g.toNat
      ∧ fld (layC31w1G21w4D15w6A9w6P3w6 base c g d a p) 15 6 = d.toNat
      ∧ fld (layC31w1G21w4D15w6A9w6P3w6 base c g d a p) 9 6 = a.toNat
      ∧ fld (layC31w1G21w4D15w6A9w6P3w6 base c g d a p) 3 6 = p.toNat := by
  have kc := c.isLt
  have kg := g.isLt
  have kd := d.isLt
  have ka := a.isLt
  have kp := p.isLt
  subst hB
  simp only [layC31w1G21w4D15w6A9w6P3w6, fld, Nat.reducePow, Nat.div_one, Nat.mul_one] at *
  refine ⟨?_, ?_, ?_, ?_, ?_, ?_, ?_, ?_⟩ <;> omega

theorem fields_C31w1G21w4S3w6 (base : Nat) (c : BitVec 1) (g : BitVec 4) (s : BitVec 6) (v0 v9 v25 : Nat) (hv : v0 < 2 ^ 3 ∧ v9 < 2 ^ 12 ∧ v25 < 2 ^ 6)
    (hB : base = v0 * 2 ^ 0 + v9 * 2 ^ 9 + v25 * 2 ^ 25) :
    layC31w1G21w4S3w6 base c g s < 2 ^ 32 ∧ fld (layC31w1G21w4S3w6 base c g s) 0 3 = v0
      ∧ fld (layC31w1G21w4S3w6 base c g s) 9 12 = v9
      ∧ fld (layC31w1G21w4S3w6 base c g s) 25 6 = v25
      ∧ fld (layC31w1G21w4S3w6 base c g s) 31 1 = c.toNat
      ∧ fld (layC31w1G21w4S3w6 base c g s) 21 4 = g.toNat
      ∧ fld (layC31w1G21w4S3w6 base c g s) 3 6 = s.toNat := by
  have kc := c.isLt
  have kg := g.isLt
  have ks := s.isLt
  subst hB
  simp only [layC31w1G21w4S3w6, fld, Nat.reducePow, Nat.div_one, Nat.mul_one] at *
  refine ⟨?_, ?_, ?_, ?_, ?_, ?_, ?_⟩ <;> omega

theorem fields_T20w5S15w5D7w5 (base : Nat) (t : BitVec 5) (s : BitVec 5) (d : BitVec 5) (v0 v12 v25 : Nat) (hv : v0 < 2 ^ 7 ∧ v12 < 2 ^ 3 ∧ v25 < 2 ^ 7)
    (hB : base = v0 * 2 ^ 0 + v12 * 2 ^ 12 + v25 * 2 ^ 25) :
    layT20w5S15w5D7w5 base t s d < 2 ^ 32 ∧ fld (layT20w5S15w5D7w5 base t s d) 0 7 = v0
      ∧ fld (layT20w5S15w5D7w5 base t s d) 12 3 = v12
      ∧ fld (layT20w5S15w5D7w5 base t s d) 25 7 = v25
      ∧ fld (layT20w5S15w5D7w5 base t s d) 20 5 = t.toNat
      ∧ fld (layT20w5S15w5D7w5 base t s d) 15 5 = s.toNat
      ∧ fld (layT20w5S15w5D7w5 base t s d) 7 5 = d.toNat := by
  have kt := t.isLt
  have ks := s.isLt
  have kd := d.isLt
  subst hB
  simp only [layT20w5S15w5D7w5, fld, Nat.reducePow, Nat.div_one, Nat.mul_one] at *
  refine ⟨?_, ?_, ?_, ?_, ?_, ?_, ?_⟩ <;> omega

theorem fields_S15w5D7w5 (base : Nat) (s : BitVec 5) (d : BitVec 5) (v0 v12 v20 : Nat) (hv : v0 < 2 ^ 7 ∧ v12 < 2 ^ 3 ∧ v20 < 2 ^ 12)
    (hB : base = v0 * 2 ^ 0 + v12 * 2 ^ 12 + v20 * 2 ^ 20) :
    layS15w5D7w5 base s d < 2 ^ 32 ∧ fld (layS15w5D7w5 base s d) 0 7 = v0
      ∧ fld (layS15w5D7w5 base s d) 12 3 = v12
      ∧ fld (layS15w5D7w5 base s d) 20 12 = v20
      ∧ fld (layS15w5D7w5 base s d) 15 5 = s.toNat
      ∧ fld (layS15w5D7w5 base s d) 7 5 = d.toNat := by
  have ks := s.isLt
  have kd := d.isLt
  subst hB
  simp only [layS15w5D7w5, fld, Nat.reducePow, Nat.div_one, Nat.mul_one] at *
  refine ⟨?_, ?_, ?_, ?_, ?_, ?_⟩ <;> omega

theorem RoundTrip.clauseStart w a b y l : RoundTrip.Statement (.clauseStart w a b y l) := by
  have he : encodeNat (.clauseStart w a b y l) = some (layW13w12A9w4B5w4Y4w1L0w3 0x7E000000 w a b y l) := rfl
  have ⟨hn, e3, e25, fw, fa, fb, fy, fl⟩ := fields_W13w12A9w4B5w4Y4w1L0w3 0x7E000000 w a b y l 0 63 (by decide) (by decide)
  generalize layW13w12A9w4B5w4Y4w1L0w3 0x7E000000 w a b y l = N at *
  have t25_6 : fld N 25 6 = 63 := sub_eq (lo := 25) (a := 0) e25 (by decide)
  refine roundTrip_row he hn (by rw [t25_6]; decide) ?_
  rw [row_3F t25_6]; simp [decodeMajor3F, fw, fa, fb, fy, fl, e3, e25, t25_6]

theorem RoundTrip.waitCountExpiry core cohort : RoundTrip.Statement (.waitCountExpiry core cohort) := roundTrip_event rfl

theorem RoundTrip.resultLands core : RoundTrip.Statement (.resultLands core) := roundTrip_event rfl

theorem RoundTrip.threadSlotFree thread : RoundTrip.Statement (.threadSlotFree thread) := roundTrip_event rfl

theorem RoundTrip.cohortRetire cohort : RoundTrip.Statement (.cohortRetire cohort) := roundTrip_event rfl

theorem RoundTrip.nop c g : RoundTrip.Statement (.nop c g) := by
  have he : encodeNat (.nop c g) = some (layC31w1G21w4 0x00000000 c g) := rfl
  have ⟨hn, e0, e25, fc, fg⟩ := fields_C31w1G21w4 0x00000000 c g 0 0 (by decide) (by decide)
  generalize layC31w1G21w4 0x00000000 c g = N at *
  have t0_7 : fld N 0 7 = 0 := sub_eq (lo := 0) (a := 0) e0 (by decide)
  have u0_7_11 : fld N 0 7 ≠ 11 := sub_ne (lo := 0) (a := 0) t0_7 (by decide) (by decide)
  refine roundTrip_of he hn ?_
  simp [decodeKiln, decodeRow, decodeMajor00, fc, fg, e0, e25, t0_7, u0_7_11]

theorem RoundTrip.yield c g : RoundTrip.Statement (.yield c g) := by
  have he : encodeNat (.yield c g) = some (layC31w1G21w4 0x00000001 c g) := rfl
  have ⟨hn, e0, e25, fc, fg⟩ := fields_C31w1G21w4 0x00000001 c g 1 0 (by decide) (by decide)
  generalize layC31w1G21w4 0x00000001 c g = N at *
  have t0_7 : fld N 0 7 = 1 := sub_eq (lo := 0) (a := 0) e0 (by decide)
  have u0_7_11 : fld N 0 7 ≠ 11 := sub_ne (lo := 0) (a := 0) t0_7 (by decide) (by decide)
  refine roundTrip_of he hn ?_
  simp [decodeKiln, decodeRow, decodeMajor00, fc, fg, e0, e25, t0_7, u0_7_11]

theorem RoundTrip.rdclk c g d : RoundTrip.Statement (.rdclk c g d) := by
  have he : encodeNat (.rdclk c g d) = some (layC31w1G21w4D15w6 0x00000002 c g d) := rfl
  have ⟨hn, e0, e25, fc, fg, fd⟩ := fields_C31w1G21w4D15w6 0x00000002 c g d 2 0 (by decide) (by decide)
  generalize layC31w1G21w4D15w6 0x00000002 c g d = N at *
  have u0_21_0 : fld N 0 21 ≠ 0 := sub_ne (lo := 0) (a := 0) e0 (by decide) (by decide)
  have u0_21_1 : fld N 0 21 ≠ 1 := sub_ne (lo := 0) (a := 0) e0 (by decide) (by decide)
  have t0_7 : fld N 0 7 = 2 := sub_eq (lo := 0) (a := 0) e0 (by decide)
  have u0_7_11 : fld N 0 7 ≠ 11 := sub_ne (lo := 0) (a := 0) t0_7 (by decide) (by decide)
  refine roundTrip_of he hn ?_
  simp [decodeKiln, decodeRow, decodeMajor00, fc, fg, fd, u0_21_0, u0_21_1, e0, e25, t0_7, u0_7_11]

theorem RoundTrip.rdtags c g d : RoundTrip.Statement (.rdtags c g d) := by
  have he : encodeNat (.rdtags c g d) = some (layC31w1G21w4D15w6 0x00000003 c g d) := rfl
  have ⟨hn, e0, e25, fc, fg, fd⟩ := fields_C31w1G21w4D15w6 0x00000003 c g d 3 0 (by decide) (by decide)
  generalize layC31w1G21w4D15w6 0x00000003 c g d = N at *
  have u0_21_0 : fld N 0 21 ≠ 0 := sub_ne (lo := 0) (a := 0) e0 (by decide) (by decide)
  have u0_21_1 : fld N 0 21 ≠ 1 := sub_ne (lo := 0) (a := 0) e0 (by decide) (by decide)
  have t0_7 : fld N 0 7 = 3 := sub_eq (lo := 0) (a := 0) e0 (by decide)
  have u0_7_11 : fld N 0 7 ≠ 11 := sub_ne (lo := 0) (a := 0) t0_7 (by decide) (by decide)
  refine roundTrip_of he hn ?_
  simp [decodeKiln, decodeRow, decodeMajor00, fc, fg, fd, u0_21_0, u0_21_1, e0, e25, t0_7, u0_7_11]

theorem RoundTrip.brUt g i : RoundTrip.Statement (.brUt g i) := by
  have he : encodeNat (.brUt g i) = some (layG21w4I0w19 0x02000000 g i) := rfl
  have ⟨hn, e19, e25, fg, fi⟩ := fields_G21w4I0w19 0x02000000 g i 0 1 (by decide) (by decide)
  generalize layG21w4I0w19 0x02000000 g i = N at *
  have t25_6 : fld N 25 6 = 1 := sub_eq (lo := 25) (a := 0) e25 (by decide)
  refine roundTrip_row he hn (by rw [t25_6]; decide) ?_
  rw [row_01 t25_6]; simp [decodeMajor01, fg, fi, e19, e25, t25_6]

theorem RoundTrip.brUf g i : RoundTrip.Statement (.brUf g i) := by
  have he : encodeNat (.brUf g i) = some (layG21w4I0w19 0x02080000 g i) := rfl
  have ⟨hn, e19, e25, fg, fi⟩ := fields_G21w4I0w19 0x02080000 g i 1 1 (by decide) (by decide)
  generalize layG21w4I0w19 0x02080000 g i = N at *
  have t25_6 : fld N 25 6 = 1 := sub_eq (lo := 25) (a := 0) e25 (by decide)
  refine roundTrip_row he hn (by rw [t25_6]; decide) ?_
  rw [row_01 t25_6]; simp [decodeMajor01, fg, fi, e19, e25, t25_6]

theorem RoundTrip.br g i : RoundTrip.Statement (.br g i) := by
  have he : encodeNat (.br g i) = some (layG21w4I0w19 0x02100000 g i) := rfl
  have ⟨hn, e19, e25, fg, fi⟩ := fields_G21w4I0w19 0x02100000 g i 2 1 (by decide) (by decide)
  generalize layG21w4I0w19 0x02100000 g i = N at *
  have t25_6 : fld N 25 6 = 1 := sub_eq (lo := 25) (a := 0) e25 (by decide)
  refine roundTrip_row he hn (by rw [t25_6]; decide) ?_
  rw [row_01 t25_6]; simp [decodeMajor01, fg, fi, e19, e25, t25_6]

theorem RoundTrip.brUl g i : RoundTrip.Statement (.brUl g i) := by
  have he : encodeNat (.brUl g i) = some (layG21w4I0w19 0x02180000 g i) := rfl
  have ⟨hn, e19, e25, fg, fi⟩ := fields_G21w4I0w19 0x02180000 g i 3 1 (by decide) (by decide)
  generalize layG21w4I0w19 0x02180000 g i = N at *
  have t25_6 : fld N 25 6 = 1 := sub_eq (lo := 25) (a := 0) e25 (by decide)
  refine roundTrip_row he hn (by rw [t25_6]; decide) ?_
  rw [row_01 t25_6]; simp [decodeMajor01, fg, fi, e19, e25, t25_6]

theorem RoundTrip.jmp i : RoundTrip.Statement (.jmp i) := by
  have he : encodeNat (.jmp i) = some (layI0w25 0x04000000 i) := rfl
  have ⟨hn, e25, fi⟩ := fields_I0w25 0x04000000 i 2 (by decide) (by decide)
  generalize layI0w25 0x04000000 i = N at *
  have t25_6 : fld N 25 6 = 2 := sub_eq (lo := 25) (a := 0) e25 (by decide)
  refine roundTrip_row he hn (by rw [t25_6]; decide) ?_
  rw [row_02 t25_6]; simp [decodeMajor02, fi, e25, t25_6]

theorem RoundTrip.call i : RoundTrip.Statement (.call i) := by
  have he : encodeNat (.call i) = some (layI0w25 0x06000000 i) := rfl
  have ⟨hn, e25, fi⟩ := fields_I0w25 0x06000000 i 3 (by decide) (by decide)
  generalize layI0w25 0x06000000 i = N at *
  have t25_6 : fld N 25 6 = 3 := sub_eq (lo := 25) (a := 0) e25 (by decide)
  refine roundTrip_row he hn (by rw [t25_6]; decide) ?_
  rw [row_03 t25_6]; simp [decodeMajor03, fi, e25, t25_6]

theorem RoundTrip.jmpr g a : RoundTrip.Statement (.jmpr g a) := by
  have he : encodeNat (.jmpr g a) = some (layG21w4A9w6 0x08000000 g a) := rfl
  have ⟨hn, e0, e15, e25, fg, fa⟩ := fields_G21w4A9w6 0x08000000 g a 0 0 4 (by decide) (by decide)
  generalize layG21w4A9w6 0x08000000 g a = N at *
  have t25_6 : fld N 25 6 = 4 := sub_eq (lo := 25) (a := 0) e25 (by decide)
  refine roundTrip_row he hn (by rw [t25_6]; decide) ?_
  rw [row_04 t25_6]; simp [decodeMajor04, fg, fa, e0, e15, e25, t25_6]

theorem RoundTrip.callr g a : RoundTrip.Statement (.callr g a) := by
  have he : encodeNat (.callr g a) = some (layG21w4A9w6 0x08000001 g a) := rfl
  have ⟨hn, e0, e15, e25, fg, fa⟩ := fields_G21w4A9w6 0x08000001 g a 1 0 4 (by decide) (by decide)
  generalize layG21w4A9w6 0x08000001 g a = N at *
  have t25_6 : fld N 25 6 = 4 := sub_eq (lo := 25) (a := 0) e25 (by decide)
  refine roundTrip_row he hn (by rw [t25_6]; decide) ?_
  rw [row_04 t25_6]; simp [decodeMajor04, fg, fa, e0, e15, e25, t25_6]

theorem RoundTrip.ret g : RoundTrip.Statement (.ret g) := by
  have he : encodeNat (.ret g) = some (layG21w4 0x08000002 g) := rfl
  have ⟨hn, e0, e25, fg⟩ := fields_G21w4 0x08000002 g 2 4 (by decide) (by decide)
  generalize layG21w4 0x08000002 g = N at *
  have t0_9 : fld N 0 9 = 2 := sub_eq (lo := 0) (a := 0) e0 (by decide)
  have t25_6 : fld N 25 6 = 4 := sub_eq (lo := 25) (a := 0) e25 (by decide)
  refine roundTrip_row he hn (by rw [t25_6]; decide) ?_
  rw [row_04 t25_6]; simp [decodeMajor04, fg, t0_9, e0, e25, t25_6]

theorem RoundTrip.exit g : RoundTrip.Statement (.exit g) := by
  have he : encodeNat (.exit g) = some (layG21w4 0x08000003 g) := rfl
  have ⟨hn, e0, e25, fg⟩ := fields_G21w4 0x08000003 g 3 4 (by decide) (by decide)
  generalize layG21w4 0x08000003 g = N at *
  have t0_9 : fld N 0 9 = 3 := sub_eq (lo := 0) (a := 0) e0 (by decide)
  have t25_6 : fld N 25 6 = 4 := sub_eq (lo := 25) (a := 0) e25 (by decide)
  refine roundTrip_row he hn (by rw [t25_6]; decide) ?_
  rw [row_04 t25_6]; simp [decodeMajor04, fg, t0_9, e0, e25, t25_6]

theorem RoundTrip.addW c g d a b : RoundTrip.Statement (.addW c g d a b) := by
  have he : encodeNat (.addW c g d a b) = some (layC31w1G21w4D15w6A9w6B3w6 0x0A000000 c g d a b) := rfl
  have ⟨hn, e0, e25, fc, fg, fd, fa, fb⟩ := fields_C31w1G21w4D15w6A9w6B3w6 0x0A000000 c g d a b 0 5 (by decide) (by decide)
  generalize layC31w1G21w4D15w6A9w6B3w6 0x0A000000 c g d a b = N at *
  refine roundTrip_row he hn (by rw [e25]; decide) ?_
  rw [row_05 e25]; simp [decodeMajor05, fc, fg, fd, fa, fb, e0, e25]

theorem RoundTrip.subW c g d a b : RoundTrip.Statement (.subW c g d a b) := by
  have he : encodeNat (.subW c g d a b) = some (layC31w1G21w4D15w6A9w6B3w6 0x0A000001 c g d a b) := rfl
  have ⟨hn, e0, e25, fc, fg, fd, fa, fb⟩ := fields_C31w1G21w4D15w6A9w6B3w6 0x0A000001 c g d a b 1 5 (by decide) (by decide)
  generalize layC31w1G21w4D15w6A9w6B3w6 0x0A000001 c g d a b = N at *
  refine roundTrip_row he hn (by rw [e25]; decide) ?_
  rw [row_05 e25]; simp [decodeMajor05, fc, fg, fd, fa, fb, e0, e25]

theorem RoundTrip.andW c g d a b : RoundTrip.Statement (.andW c g d a b) := by
  have he : encodeNat (.andW c g d a b) = some (layC31w1G21w4D15w6A9w6B3w6 0x0A000002 c g d a b) := rfl
  have ⟨hn, e0, e25, fc, fg, fd, fa, fb⟩ := fields_C31w1G21w4D15w6A9w6B3w6 0x0A000002 c g d a b 2 5 (by decide) (by decide)
  generalize layC31w1G21w4D15w6A9w6B3w6 0x0A000002 c g d a b = N at *
  refine roundTrip_row he hn (by rw [e25]; decide) ?_
  rw [row_05 e25]; simp [decodeMajor05, fc, fg, fd, fa, fb, e0, e25]

theorem RoundTrip.orW c g d a b : RoundTrip.Statement (.orW c g d a b) := by
  have he : encodeNat (.orW c g d a b) = some (layC31w1G21w4D15w6A9w6B3w6 0x0A000003 c g d a b) := rfl
  have ⟨hn, e0, e25, fc, fg, fd, fa, fb⟩ := fields_C31w1G21w4D15w6A9w6B3w6 0x0A000003 c g d a b 3 5 (by decide) (by decide)
  generalize layC31w1G21w4D15w6A9w6B3w6 0x0A000003 c g d a b = N at *
  refine roundTrip_row he hn (by rw [e25]; decide) ?_
  rw [row_05 e25]; simp [decodeMajor05, fc, fg, fd, fa, fb, e0, e25]

theorem RoundTrip.xorW c g d a b : RoundTrip.Statement (.xorW c g d a b) := by
  have he : encodeNat (.xorW c g d a b) = some (layC31w1G21w4D15w6A9w6B3w6 0x0A000004 c g d a b) := rfl
  have ⟨hn, e0, e25, fc, fg, fd, fa, fb⟩ := fields_C31w1G21w4D15w6A9w6B3w6 0x0A000004 c g d a b 4 5 (by decide) (by decide)
  generalize layC31w1G21w4D15w6A9w6B3w6 0x0A000004 c g d a b = N at *
  refine roundTrip_row he hn (by rw [e25]; decide) ?_
  rw [row_05 e25]; simp [decodeMajor05, fc, fg, fd, fa, fb, e0, e25]

theorem RoundTrip.andnW c g d a b : RoundTrip.Statement (.andnW c g d a b) := by
  have he : encodeNat (.andnW c g d a b) = some (layC31w1G21w4D15w6A9w6B3w6 0x0A000005 c g d a b) := rfl
  have ⟨hn, e0, e25, fc, fg, fd, fa, fb⟩ := fields_C31w1G21w4D15w6A9w6B3w6 0x0A000005 c g d a b 5 5 (by decide) (by decide)
  generalize layC31w1G21w4D15w6A9w6B3w6 0x0A000005 c g d a b = N at *
  refine roundTrip_row he hn (by rw [e25]; decide) ?_
  rw [row_05 e25]; simp [decodeMajor05, fc, fg, fd, fa, fb, e0, e25]

theorem RoundTrip.minW c g d a b : RoundTrip.Statement (.minW c g d a b) := by
  have he : encodeNat (.minW c g d a b) = some (layC31w1G21w4D15w6A9w6B3w6 0x0A000006 c g d a b) := rfl
  have ⟨hn, e0, e25, fc, fg, fd, fa, fb⟩ := fields_C31w1G21w4D15w6A9w6B3w6 0x0A000006 c g d a b 6 5 (by decide) (by decide)
  generalize layC31w1G21w4D15w6A9w6B3w6 0x0A000006 c g d a b = N at *
  refine roundTrip_row he hn (by rw [e25]; decide) ?_
  rw [row_05 e25]; simp [decodeMajor05, fc, fg, fd, fa, fb, e0, e25]

theorem RoundTrip.maxW c g d a b : RoundTrip.Statement (.maxW c g d a b) := by
  have he : encodeNat (.maxW c g d a b) = some (layC31w1G21w4D15w6A9w6B3w6 0x0A000007 c g d a b) := rfl
  have ⟨hn, e0, e25, fc, fg, fd, fa, fb⟩ := fields_C31w1G21w4D15w6A9w6B3w6 0x0A000007 c g d a b 7 5 (by decide) (by decide)
  generalize layC31w1G21w4D15w6A9w6B3w6 0x0A000007 c g d a b = N at *
  refine roundTrip_row he hn (by rw [e25]; decide) ?_
  rw [row_05 e25]; simp [decodeMajor05, fc, fg, fd, fa, fb, e0, e25]

theorem RoundTrip.addD c g d a b : RoundTrip.Statement (.addD c g d a b) := by
  have he : encodeNat (.addD c g d a b) = some (layC31w1G21w4D15w6A9w6B3w6 0x0C000000 c g d a b) := rfl
  have ⟨hn, e0, e25, fc, fg, fd, fa, fb⟩ := fields_C31w1G21w4D15w6A9w6B3w6 0x0C000000 c g d a b 0 6 (by decide) (by decide)
  generalize layC31w1G21w4D15w6A9w6B3w6 0x0C000000 c g d a b = N at *
  refine roundTrip_row he hn (by rw [e25]; decide) ?_
  rw [row_06 e25]; simp [decodeMajor06, fc, fg, fd, fa, fb, e0, e25]

theorem RoundTrip.subD c g d a b : RoundTrip.Statement (.subD c g d a b) := by
  have he : encodeNat (.subD c g d a b) = some (layC31w1G21w4D15w6A9w6B3w6 0x0C000001 c g d a b) := rfl
  have ⟨hn, e0, e25, fc, fg, fd, fa, fb⟩ := fields_C31w1G21w4D15w6A9w6B3w6 0x0C000001 c g d a b 1 6 (by decide) (by decide)
  generalize layC31w1G21w4D15w6A9w6B3w6 0x0C000001 c g d a b = N at *
  refine roundTrip_row he hn (by rw [e25]; decide) ?_
  rw [row_06 e25]; simp [decodeMajor06, fc, fg, fd, fa, fb, e0, e25]

theorem RoundTrip.andD c g d a b : RoundTrip.Statement (.andD c g d a b) := by
  have he : encodeNat (.andD c g d a b) = some (layC31w1G21w4D15w6A9w6B3w6 0x0C000002 c g d a b) := rfl
  have ⟨hn, e0, e25, fc, fg, fd, fa, fb⟩ := fields_C31w1G21w4D15w6A9w6B3w6 0x0C000002 c g d a b 2 6 (by decide) (by decide)
  generalize layC31w1G21w4D15w6A9w6B3w6 0x0C000002 c g d a b = N at *
  refine roundTrip_row he hn (by rw [e25]; decide) ?_
  rw [row_06 e25]; simp [decodeMajor06, fc, fg, fd, fa, fb, e0, e25]

theorem RoundTrip.orD c g d a b : RoundTrip.Statement (.orD c g d a b) := by
  have he : encodeNat (.orD c g d a b) = some (layC31w1G21w4D15w6A9w6B3w6 0x0C000003 c g d a b) := rfl
  have ⟨hn, e0, e25, fc, fg, fd, fa, fb⟩ := fields_C31w1G21w4D15w6A9w6B3w6 0x0C000003 c g d a b 3 6 (by decide) (by decide)
  generalize layC31w1G21w4D15w6A9w6B3w6 0x0C000003 c g d a b = N at *
  refine roundTrip_row he hn (by rw [e25]; decide) ?_
  rw [row_06 e25]; simp [decodeMajor06, fc, fg, fd, fa, fb, e0, e25]

theorem RoundTrip.xorD c g d a b : RoundTrip.Statement (.xorD c g d a b) := by
  have he : encodeNat (.xorD c g d a b) = some (layC31w1G21w4D15w6A9w6B3w6 0x0C000004 c g d a b) := rfl
  have ⟨hn, e0, e25, fc, fg, fd, fa, fb⟩ := fields_C31w1G21w4D15w6A9w6B3w6 0x0C000004 c g d a b 4 6 (by decide) (by decide)
  generalize layC31w1G21w4D15w6A9w6B3w6 0x0C000004 c g d a b = N at *
  refine roundTrip_row he hn (by rw [e25]; decide) ?_
  rw [row_06 e25]; simp [decodeMajor06, fc, fg, fd, fa, fb, e0, e25]

theorem RoundTrip.andnD c g d a b : RoundTrip.Statement (.andnD c g d a b) := by
  have he : encodeNat (.andnD c g d a b) = some (layC31w1G21w4D15w6A9w6B3w6 0x0C000005 c g d a b) := rfl
  have ⟨hn, e0, e25, fc, fg, fd, fa, fb⟩ := fields_C31w1G21w4D15w6A9w6B3w6 0x0C000005 c g d a b 5 6 (by decide) (by decide)
  generalize layC31w1G21w4D15w6A9w6B3w6 0x0C000005 c g d a b = N at *
  refine roundTrip_row he hn (by rw [e25]; decide) ?_
  rw [row_06 e25]; simp [decodeMajor06, fc, fg, fd, fa, fb, e0, e25]

theorem RoundTrip.minD c g d a b : RoundTrip.Statement (.minD c g d a b) := by
  have he : encodeNat (.minD c g d a b) = some (layC31w1G21w4D15w6A9w6B3w6 0x0C000006 c g d a b) := rfl
  have ⟨hn, e0, e25, fc, fg, fd, fa, fb⟩ := fields_C31w1G21w4D15w6A9w6B3w6 0x0C000006 c g d a b 6 6 (by decide) (by decide)
  generalize layC31w1G21w4D15w6A9w6B3w6 0x0C000006 c g d a b = N at *
  refine roundTrip_row he hn (by rw [e25]; decide) ?_
  rw [row_06 e25]; simp [decodeMajor06, fc, fg, fd, fa, fb, e0, e25]

theorem RoundTrip.maxD c g d a b : RoundTrip.Statement (.maxD c g d a b) := by
  have he : encodeNat (.maxD c g d a b) = some (layC31w1G21w4D15w6A9w6B3w6 0x0C000007 c g d a b) := rfl
  have ⟨hn, e0, e25, fc, fg, fd, fa, fb⟩ := fields_C31w1G21w4D15w6A9w6B3w6 0x0C000007 c g d a b 7 6 (by decide) (by decide)
  generalize layC31w1G21w4D15w6A9w6B3w6 0x0C000007 c g d a b = N at *
  refine roundTrip_row he hn (by rw [e25]; decide) ?_
  rw [row_06 e25]; simp [decodeMajor06, fc, fg, fd, fa, fb, e0, e25]

theorem RoundTrip.minuW c g d a b : RoundTrip.Statement (.minuW c g d a b) := by
  have he : encodeNat (.minuW c g d a b) = some (layC31w1G21w4D15w6A9w6B3w6 0x0E000000 c g d a b) := rfl
  have ⟨hn, e0, e25, fc, fg, fd, fa, fb⟩ := fields_C31w1G21w4D15w6A9w6B3w6 0x0E000000 c g d a b 0 7 (by decide) (by decide)
  generalize layC31w1G21w4D15w6A9w6B3w6 0x0E000000 c g d a b = N at *
  refine roundTrip_row he hn (by rw [e25]; decide) ?_
  rw [row_07 e25]; simp [decodeMajor07, fc, fg, fd, fa, fb, e0, e25]

theorem RoundTrip.maxuW c g d a b : RoundTrip.Statement (.maxuW c g d a b) := by
  have he : encodeNat (.maxuW c g d a b) = some (layC31w1G21w4D15w6A9w6B3w6 0x0E000001 c g d a b) := rfl
  have ⟨hn, e0, e25, fc, fg, fd, fa, fb⟩ := fields_C31w1G21w4D15w6A9w6B3w6 0x0E000001 c g d a b 1 7 (by decide) (by decide)
  generalize layC31w1G21w4D15w6A9w6B3w6 0x0E000001 c g d a b = N at *
  refine roundTrip_row he hn (by rw [e25]; decide) ?_
  rw [row_07 e25]; simp [decodeMajor07, fc, fg, fd, fa, fb, e0, e25]

theorem RoundTrip.shlW c g d a b : RoundTrip.Statement (.shlW c g d a b) := by
  have he : encodeNat (.shlW c g d a b) = some (layC31w1G21w4D15w6A9w6B3w6 0x0E000002 c g d a b) := rfl
  have ⟨hn, e0, e25, fc, fg, fd, fa, fb⟩ := fields_C31w1G21w4D15w6A9w6B3w6 0x0E000002 c g d a b 2 7 (by decide) (by decide)
  generalize layC31w1G21w4D15w6A9w6B3w6 0x0E000002 c g d a b = N at *
  refine roundTrip_row he hn (by rw [e25]; decide) ?_
  rw [row_07 e25]; simp [decodeMajor07, fc, fg, fd, fa, fb, e0, e25]

theorem RoundTrip.shrW c g d a b : RoundTrip.Statement (.shrW c g d a b) := by
  have he : encodeNat (.shrW c g d a b) = some (layC31w1G21w4D15w6A9w6B3w6 0x0E000003 c g d a b) := rfl
  have ⟨hn, e0, e25, fc, fg, fd, fa, fb⟩ := fields_C31w1G21w4D15w6A9w6B3w6 0x0E000003 c g d a b 3 7 (by decide) (by decide)
  generalize layC31w1G21w4D15w6A9w6B3w6 0x0E000003 c g d a b = N at *
  refine roundTrip_row he hn (by rw [e25]; decide) ?_
  rw [row_07 e25]; simp [decodeMajor07, fc, fg, fd, fa, fb, e0, e25]

theorem RoundTrip.sarW c g d a b : RoundTrip.Statement (.sarW c g d a b) := by
  have he : encodeNat (.sarW c g d a b) = some (layC31w1G21w4D15w6A9w6B3w6 0x0E000004 c g d a b) := rfl
  have ⟨hn, e0, e25, fc, fg, fd, fa, fb⟩ := fields_C31w1G21w4D15w6A9w6B3w6 0x0E000004 c g d a b 4 7 (by decide) (by decide)
  generalize layC31w1G21w4D15w6A9w6B3w6 0x0E000004 c g d a b = N at *
  refine roundTrip_row he hn (by rw [e25]; decide) ?_
  rw [row_07 e25]; simp [decodeMajor07, fc, fg, fd, fa, fb, e0, e25]

theorem RoundTrip.rotW c g d a b : RoundTrip.Statement (.rotW c g d a b) := by
  have he : encodeNat (.rotW c g d a b) = some (layC31w1G21w4D15w6A9w6B3w6 0x0E000005 c g d a b) := rfl
  have ⟨hn, e0, e25, fc, fg, fd, fa, fb⟩ := fields_C31w1G21w4D15w6A9w6B3w6 0x0E000005 c g d a b 5 7 (by decide) (by decide)
  generalize layC31w1G21w4D15w6A9w6B3w6 0x0E000005 c g d a b = N at *
  refine roundTrip_row he hn (by rw [e25]; decide) ?_
  rw [row_07 e25]; simp [decodeMajor07, fc, fg, fd, fa, fb, e0, e25]

theorem RoundTrip.mulW c g d a b : RoundTrip.Statement (.mulW c g d a b) := by
  have he : encodeNat (.mulW c g d a b) = some (layC31w1G21w4D15w6A9w6B3w6 0x0E000006 c g d a b) := rfl
  have ⟨hn, e0, e25, fc, fg, fd, fa, fb⟩ := fields_C31w1G21w4D15w6A9w6B3w6 0x0E000006 c g d a b 6 7 (by decide) (by decide)
  generalize layC31w1G21w4D15w6A9w6B3w6 0x0E000006 c g d a b = N at *
  refine roundTrip_row he hn (by rw [e25]; decide) ?_
  rw [row_07 e25]; simp [decodeMajor07, fc, fg, fd, fa, fb, e0, e25]

theorem RoundTrip.mulhW c g d a b : RoundTrip.Statement (.mulhW c g d a b) := by
  have he : encodeNat (.mulhW c g d a b) = some (layC31w1G21w4D15w6A9w6B3w6 0x0E000007 c g d a b) := rfl
  have ⟨hn, e0, e25, fc, fg, fd, fa, fb⟩ := fields_C31w1G21w4D15w6A9w6B3w6 0x0E000007 c g d a b 7 7 (by decide) (by decide)
  generalize layC31w1G21w4D15w6A9w6B3w6 0x0E000007 c g d a b = N at *
  refine roundTrip_row he hn (by rw [e25]; decide) ?_
  rw [row_07 e25]; simp [decodeMajor07, fc, fg, fd, fa, fb, e0, e25]

theorem RoundTrip.minuD c g d a b : RoundTrip.Statement (.minuD c g d a b) := by
  have he : encodeNat (.minuD c g d a b) = some (layC31w1G21w4D15w6A9w6B3w6 0x10000000 c g d a b) := rfl
  have ⟨hn, e0, e25, fc, fg, fd, fa, fb⟩ := fields_C31w1G21w4D15w6A9w6B3w6 0x10000000 c g d a b 0 8 (by decide) (by decide)
  generalize layC31w1G21w4D15w6A9w6B3w6 0x10000000 c g d a b = N at *
  refine roundTrip_row he hn (by rw [e25]; decide) ?_
  rw [row_08 e25]; simp [decodeMajor08, fc, fg, fd, fa, fb, e0, e25]

theorem RoundTrip.maxuD c g d a b : RoundTrip.Statement (.maxuD c g d a b) := by
  have he : encodeNat (.maxuD c g d a b) = some (layC31w1G21w4D15w6A9w6B3w6 0x10000001 c g d a b) := rfl
  have ⟨hn, e0, e25, fc, fg, fd, fa, fb⟩ := fields_C31w1G21w4D15w6A9w6B3w6 0x10000001 c g d a b 1 8 (by decide) (by decide)
  generalize layC31w1G21w4D15w6A9w6B3w6 0x10000001 c g d a b = N at *
  refine roundTrip_row he hn (by rw [e25]; decide) ?_
  rw [row_08 e25]; simp [decodeMajor08, fc, fg, fd, fa, fb, e0, e25]

theorem RoundTrip.shlD c g d a b : RoundTrip.Statement (.shlD c g d a b) := by
  have he : encodeNat (.shlD c g d a b) = some (layC31w1G21w4D15w6A9w6B3w6 0x10000002 c g d a b) := rfl
  have ⟨hn, e0, e25, fc, fg, fd, fa, fb⟩ := fields_C31w1G21w4D15w6A9w6B3w6 0x10000002 c g d a b 2 8 (by decide) (by decide)
  generalize layC31w1G21w4D15w6A9w6B3w6 0x10000002 c g d a b = N at *
  refine roundTrip_row he hn (by rw [e25]; decide) ?_
  rw [row_08 e25]; simp [decodeMajor08, fc, fg, fd, fa, fb, e0, e25]

theorem RoundTrip.shrD c g d a b : RoundTrip.Statement (.shrD c g d a b) := by
  have he : encodeNat (.shrD c g d a b) = some (layC31w1G21w4D15w6A9w6B3w6 0x10000003 c g d a b) := rfl
  have ⟨hn, e0, e25, fc, fg, fd, fa, fb⟩ := fields_C31w1G21w4D15w6A9w6B3w6 0x10000003 c g d a b 3 8 (by decide) (by decide)
  generalize layC31w1G21w4D15w6A9w6B3w6 0x10000003 c g d a b = N at *
  refine roundTrip_row he hn (by rw [e25]; decide) ?_
  rw [row_08 e25]; simp [decodeMajor08, fc, fg, fd, fa, fb, e0, e25]

theorem RoundTrip.sarD c g d a b : RoundTrip.Statement (.sarD c g d a b) := by
  have he : encodeNat (.sarD c g d a b) = some (layC31w1G21w4D15w6A9w6B3w6 0x10000004 c g d a b) := rfl
  have ⟨hn, e0, e25, fc, fg, fd, fa, fb⟩ := fields_C31w1G21w4D15w6A9w6B3w6 0x10000004 c g d a b 4 8 (by decide) (by decide)
  generalize layC31w1G21w4D15w6A9w6B3w6 0x10000004 c g d a b = N at *
  refine roundTrip_row he hn (by rw [e25]; decide) ?_
  rw [row_08 e25]; simp [decodeMajor08, fc, fg, fd, fa, fb, e0, e25]

theorem RoundTrip.rotD c g d a b : RoundTrip.Statement (.rotD c g d a b) := by
  have he : encodeNat (.rotD c g d a b) = some (layC31w1G21w4D15w6A9w6B3w6 0x10000005 c g d a b) := rfl
  have ⟨hn, e0, e25, fc, fg, fd, fa, fb⟩ := fields_C31w1G21w4D15w6A9w6B3w6 0x10000005 c g d a b 5 8 (by decide) (by decide)
  generalize layC31w1G21w4D15w6A9w6B3w6 0x10000005 c g d a b = N at *
  refine roundTrip_row he hn (by rw [e25]; decide) ?_
  rw [row_08 e25]; simp [decodeMajor08, fc, fg, fd, fa, fb, e0, e25]

theorem RoundTrip.mulD c g d a b : RoundTrip.Statement (.mulD c g d a b) := by
  have he : encodeNat (.mulD c g d a b) = some (layC31w1G21w4D15w6A9w6B3w6 0x10000006 c g d a b) := rfl
  have ⟨hn, e0, e25, fc, fg, fd, fa, fb⟩ := fields_C31w1G21w4D15w6A9w6B3w6 0x10000006 c g d a b 6 8 (by decide) (by decide)
  generalize layC31w1G21w4D15w6A9w6B3w6 0x10000006 c g d a b = N at *
  refine roundTrip_row he hn (by rw [e25]; decide) ?_
  rw [row_08 e25]; simp [decodeMajor08, fc, fg, fd, fa, fb, e0, e25]

theorem RoundTrip.mulhD c g d a b : RoundTrip.Statement (.mulhD c g d a b) := by
  have he : encodeNat (.mulhD c g d a b) = some (layC31w1G21w4D15w6A9w6B3w6 0x10000007 c g d a b) := rfl
  have ⟨hn, e0, e25, fc, fg, fd, fa, fb⟩ := fields_C31w1G21w4D15w6A9w6B3w6 0x10000007 c g d a b 7 8 (by decide) (by decide)
  generalize layC31w1G21w4D15w6A9w6B3w6 0x10000007 c g d a b = N at *
  refine roundTrip_row he hn (by rw [e25]; decide) ?_
  rw [row_08 e25]; simp [decodeMajor08, fc, fg, fd, fa, fb, e0, e25]

theorem RoundTrip.addiW c g d a i : RoundTrip.Statement (.addiW c g d a i) := by
  have he : encodeNat (.addiW c g d a i) = some (layC31w1G21w4D15w6A9w6I0w9 0x12000000 c g d a i) := rfl
  have ⟨hn, e25, fc, fg, fd, fa, fi⟩ := fields_C31w1G21w4D15w6A9w6I0w9 0x12000000 c g d a i 9 (by decide) (by decide)
  generalize layC31w1G21w4D15w6A9w6I0w9 0x12000000 c g d a i = N at *
  refine roundTrip_row he hn (by rw [e25]; decide) ?_
  rw [row_09 e25]; simp [decodeMajor09, fc, fg, fd, fa, fi, e25]

theorem RoundTrip.addiD c g d a i : RoundTrip.Statement (.addiD c g d a i) := by
  have he : encodeNat (.addiD c g d a i) = some (layC31w1G21w4D15w6A9w6I0w9 0x14000000 c g d a i) := rfl
  have ⟨hn, e25, fc, fg, fd, fa, fi⟩ := fields_C31w1G21w4D15w6A9w6I0w9 0x14000000 c g d a i 10 (by decide) (by decide)
  generalize layC31w1G21w4D15w6A9w6I0w9 0x14000000 c g d a i = N at *
  refine roundTrip_row he hn (by rw [e25]; decide) ?_
  rw [row_0A e25]; simp [decodeMajor0A, fc, fg, fd, fa, fi, e25]

theorem RoundTrip.shliW c g d a i : RoundTrip.Statement (.shliW c g d a i) := by
  have he : encodeNat (.shliW c g d a i) = some (layC31w1G21w4D15w6A9w6I0w5 0x16000000 c g d a i) := rfl
  have ⟨hn, e5, e25, fc, fg, fd, fa, fi⟩ := fields_C31w1G21w4D15w6A9w6I0w5 0x16000000 c g d a i 0 11 (by decide) (by decide)
  generalize layC31w1G21w4D15w6A9w6I0w5 0x16000000 c g d a i = N at *
  refine roundTrip_row he hn (by rw [e25]; decide) ?_
  rw [row_0B e25]; simp [decodeMajor0B, fc, fg, fd, fa, fi, e5, e25]

theorem RoundTrip.shriW c g d a i : RoundTrip.Statement (.shriW c g d a i) := by
  have he : encodeNat (.shriW c g d a i) = some (layC31w1G21w4D15w6A9w6I0w5 0x16000040 c g d a i) := rfl
  have ⟨hn, e5, e25, fc, fg, fd, fa, fi⟩ := fields_C31w1G21w4D15w6A9w6I0w5 0x16000040 c g d a i 2 11 (by decide) (by decide)
  generalize layC31w1G21w4D15w6A9w6I0w5 0x16000040 c g d a i = N at *
  refine roundTrip_row he hn (by rw [e25]; decide) ?_
  rw [row_0B e25]; simp [decodeMajor0B, fc, fg, fd, fa, fi, e5, e25]

theorem RoundTrip.sariW c g d a i : RoundTrip.Statement (.sariW c g d a i) := by
  have he : encodeNat (.sariW c g d a i) = some (layC31w1G21w4D15w6A9w6I0w5 0x16000080 c g d a i) := rfl
  have ⟨hn, e5, e25, fc, fg, fd, fa, fi⟩ := fields_C31w1G21w4D15w6A9w6I0w5 0x16000080 c g d a i 4 11 (by decide) (by decide)
  generalize layC31w1G21w4D15w6A9w6I0w5 0x16000080 c g d a i = N at *
  refine roundTrip_row he hn (by rw [e25]; decide) ?_
  rw [row_0B e25]; simp [decodeMajor0B, fc, fg, fd, fa, fi, e5, e25]

theorem RoundTrip.rotiW c g d a i : RoundTrip.Statement (.rotiW c g d a i) := by
  have he : encodeNat (.rotiW c g d a i) = some (layC31w1G21w4D15w6A9w6I0w5 0x160000C0 c g d a i) := rfl
  have ⟨hn, e5, e25, fc, fg, fd, fa, fi⟩ := fields_C31w1G21w4D15w6A9w6I0w5 0x160000C0 c g d a i 6 11 (by decide) (by decide)
  generalize layC31w1G21w4D15w6A9w6I0w5 0x160000C0 c g d a i = N at *
  refine roundTrip_row he hn (by rw [e25]; decide) ?_
  rw [row_0B e25]; simp [decodeMajor0B, fc, fg, fd, fa, fi, e5, e25]

theorem RoundTrip.shliD c g d a i : RoundTrip.Statement (.shliD c g d a i) := by
  have he : encodeNat (.shliD c g d a i) = some (layC31w1G21w4D15w6A9w6I0w6 0x16000100 c g d a i) := rfl
  have ⟨hn, e6, e25, fc, fg, fd, fa, fi⟩ := fields_C31w1G21w4D15w6A9w6I0w6 0x16000100 c g d a i 4 11 (by decide) (by decide)
  generalize layC31w1G21w4D15w6A9w6I0w6 0x16000100 c g d a i = N at *
  have u5_4_0 : fld N 5 4 ≠ 0 := sub_ne (lo := 5) (a := 1) e6 (by decide) (by decide)
  have u5_4_2 : fld N 5 4 ≠ 2 := sub_ne (lo := 5) (a := 1) e6 (by decide) (by decide)
  have u5_4_4 : fld N 5 4 ≠ 4 := sub_ne (lo := 5) (a := 1) e6 (by decide) (by decide)
  have u5_4_6 : fld N 5 4 ≠ 6 := sub_ne (lo := 5) (a := 1) e6 (by decide) (by decide)
  refine roundTrip_row he hn (by rw [e25]; decide) ?_
  rw [row_0B e25]; simp [decodeMajor0B, fc, fg, fd, fa, fi, u5_4_0, u5_4_2, u5_4_4, u5_4_6, e6, e25]

theorem RoundTrip.shriD c g d a i : RoundTrip.Statement (.shriD c g d a i) := by
  have he : encodeNat (.shriD c g d a i) = some (layC31w1G21w4D15w6A9w6I0w6 0x16000140 c g d a i) := rfl
  have ⟨hn, e6, e25, fc, fg, fd, fa, fi⟩ := fields_C31w1G21w4D15w6A9w6I0w6 0x16000140 c g d a i 5 11 (by decide) (by decide)
  generalize layC31w1G21w4D15w6A9w6I0w6 0x16000140 c g d a i = N at *
  have u5_4_0 : fld N 5 4 ≠ 0 := sub_ne (lo := 5) (a := 1) e6 (by decide) (by decide)
  have u5_4_2 : fld N 5 4 ≠ 2 := sub_ne (lo := 5) (a := 1) e6 (by decide) (by decide)
  have u5_4_4 : fld N 5 4 ≠ 4 := sub_ne (lo := 5) (a := 1) e6 (by decide) (by decide)
  have u5_4_6 : fld N 5 4 ≠ 6 := sub_ne (lo := 5) (a := 1) e6 (by decide) (by decide)
  refine roundTrip_row he hn (by rw [e25]; decide) ?_
  rw [row_0B e25]; simp [decodeMajor0B, fc, fg, fd, fa, fi, u5_4_0, u5_4_2, u5_4_4, u5_4_6, e6, e25]

theorem RoundTrip.sariD c g d a i : RoundTrip.Statement (.sariD c g d a i) := by
  have he : encodeNat (.sariD c g d a i) = some (layC31w1G21w4D15w6A9w6I0w6 0x16000180 c g d a i) := rfl
  have ⟨hn, e6, e25, fc, fg, fd, fa, fi⟩ := fields_C31w1G21w4D15w6A9w6I0w6 0x16000180 c g d a i 6 11 (by decide) (by decide)
  generalize layC31w1G21w4D15w6A9w6I0w6 0x16000180 c g d a i = N at *
  have u5_4_0 : fld N 5 4 ≠ 0 := sub_ne (lo := 5) (a := 1) e6 (by decide) (by decide)
  have u5_4_2 : fld N 5 4 ≠ 2 := sub_ne (lo := 5) (a := 1) e6 (by decide) (by decide)
  have u5_4_4 : fld N 5 4 ≠ 4 := sub_ne (lo := 5) (a := 1) e6 (by decide) (by decide)
  have u5_4_6 : fld N 5 4 ≠ 6 := sub_ne (lo := 5) (a := 1) e6 (by decide) (by decide)
  refine roundTrip_row he hn (by rw [e25]; decide) ?_
  rw [row_0B e25]; simp [decodeMajor0B, fc, fg, fd, fa, fi, u5_4_0, u5_4_2, u5_4_4, u5_4_6, e6, e25]

theorem RoundTrip.rotiD c g d a i : RoundTrip.Statement (.rotiD c g d a i) := by
  have he : encodeNat (.rotiD c g d a i) = some (layC31w1G21w4D15w6A9w6I0w6 0x160001C0 c g d a i) := rfl
  have ⟨hn, e6, e25, fc, fg, fd, fa, fi⟩ := fields_C31w1G21w4D15w6A9w6I0w6 0x160001C0 c g d a i 7 11 (by decide) (by decide)
  generalize layC31w1G21w4D15w6A9w6I0w6 0x160001C0 c g d a i = N at *
  have u5_4_0 : fld N 5 4 ≠ 0 := sub_ne (lo := 5) (a := 1) e6 (by decide) (by decide)
  have u5_4_2 : fld N 5 4 ≠ 2 := sub_ne (lo := 5) (a := 1) e6 (by decide) (by decide)
  have u5_4_4 : fld N 5 4 ≠ 4 := sub_ne (lo := 5) (a := 1) e6 (by decide) (by decide)
  have u5_4_6 : fld N 5 4 ≠ 6 := sub_ne (lo := 5) (a := 1) e6 (by decide) (by decide)
  refine roundTrip_row he hn (by rw [e25]; decide) ?_
  rw [row_0B e25]; simp [decodeMajor0B, fc, fg, fd, fa, fi, u5_4_0, u5_4_2, u5_4_4, u5_4_6, e6, e25]

theorem RoundTrip.movi c g d i : RoundTrip.Statement (.movi c g d i) := by
  have he : encodeNat (.movi c g d i) = some (layC31w1G21w4D15w6I0w15 0x18000000 c g d i) := rfl
  have ⟨hn, e25, fc, fg, fd, fi⟩ := fields_C31w1G21w4D15w6I0w15 0x18000000 c g d i 12 (by decide) (by decide)
  generalize layC31w1G21w4D15w6I0w15 0x18000000 c g d i = N at *
  refine roundTrip_row he hn (by rw [e25]; decide) ?_
  rw [row_0C e25]; simp [decodeMajor0C, fc, fg, fd, fi, e25]

theorem RoundTrip.lea1 c g d a b : RoundTrip.Statement (.lea1 c g d a b) := by
  have he : encodeNat (.lea1 c g d a b) = some (layC31w1G21w4D15w6A9w6B3w6 0x1A000000 c g d a b) := rfl
  have ⟨hn, e0, e25, fc, fg, fd, fa, fb⟩ := fields_C31w1G21w4D15w6A9w6B3w6 0x1A000000 c g d a b 0 13 (by decide) (by decide)
  generalize layC31w1G21w4D15w6A9w6B3w6 0x1A000000 c g d a b = N at *
  refine roundTrip_row he hn (by rw [e25]; decide) ?_
  rw [row_0D e25]; simp [decodeMajor0D, fc, fg, fd, fa, fb, e0, e25]

theorem RoundTrip.lea2 c g d a b : RoundTrip.Statement (.lea2 c g d a b) := by
  have he : encodeNat (.lea2 c g d a b) = some (layC31w1G21w4D15w6A9w6B3w6 0x1A000001 c g d a b) := rfl
  have ⟨hn, e0, e25, fc, fg, fd, fa, fb⟩ := fields_C31w1G21w4D15w6A9w6B3w6 0x1A000001 c g d a b 1 13 (by decide) (by decide)
  generalize layC31w1G21w4D15w6A9w6B3w6 0x1A000001 c g d a b = N at *
  refine roundTrip_row he hn (by rw [e25]; decide) ?_
  rw [row_0D e25]; simp [decodeMajor0D, fc, fg, fd, fa, fb, e0, e25]

theorem RoundTrip.lea4 c g d a b : RoundTrip.Statement (.lea4 c g d a b) := by
  have he : encodeNat (.lea4 c g d a b) = some (layC31w1G21w4D15w6A9w6B3w6 0x1A000002 c g d a b) := rfl
  have ⟨hn, e0, e25, fc, fg, fd, fa, fb⟩ := fields_C31w1G21w4D15w6A9w6B3w6 0x1A000002 c g d a b 2 13 (by decide) (by decide)
  generalize layC31w1G21w4D15w6A9w6B3w6 0x1A000002 c g d a b = N at *
  refine roundTrip_row he hn (by rw [e25]; decide) ?_
  rw [row_0D e25]; simp [decodeMajor0D, fc, fg, fd, fa, fb, e0, e25]

theorem RoundTrip.lea8 c g d a b : RoundTrip.Statement (.lea8 c g d a b) := by
  have he : encodeNat (.lea8 c g d a b) = some (layC31w1G21w4D15w6A9w6B3w6 0x1A000003 c g d a b) := rfl
  have ⟨hn, e0, e25, fc, fg, fd, fa, fb⟩ := fields_C31w1G21w4D15w6A9w6B3w6 0x1A000003 c g d a b 3 13 (by decide) (by decide)
  generalize layC31w1G21w4D15w6A9w6B3w6 0x1A000003 c g d a b = N at *
  refine roundTrip_row he hn (by rw [e25]; decide) ?_
  rw [row_0D e25]; simp [decodeMajor0D, fc, fg, fd, fa, fb, e0, e25]

theorem RoundTrip.lea16 c g d a b : RoundTrip.Statement (.lea16 c g d a b) := by
  have he : encodeNat (.lea16 c g d a b) = some (layC31w1G21w4D15w6A9w6B3w6 0x1A000004 c g d a b) := rfl
  have ⟨hn, e0, e25, fc, fg, fd, fa, fb⟩ := fields_C31w1G21w4D15w6A9w6B3w6 0x1A000004 c g d a b 4 13 (by decide) (by decide)
  generalize layC31w1G21w4D15w6A9w6B3w6 0x1A000004 c g d a b = N at *
  refine roundTrip_row he hn (by rw [e25]; decide) ?_
  rw [row_0D e25]; simp [decodeMajor0D, fc, fg, fd, fa, fb, e0, e25]

theorem RoundTrip.macW c g d a b : RoundTrip.Statement (.macW c g d a b) := by
  have he : encodeNat (.macW c g d a b) = some (layC31w1G21w4D15w6A9w6B3w6 0x1A000005 c g d a b) := rfl
  have ⟨hn, e0, e25, fc, fg, fd, fa, fb⟩ := fields_C31w1G21w4D15w6A9w6B3w6 0x1A000005 c g d a b 5 13 (by decide) (by decide)
  generalize layC31w1G21w4D15w6A9w6B3w6 0x1A000005 c g d a b = N at *
  refine roundTrip_row he hn (by rw [e25]; decide) ?_
  rw [row_0D e25]; simp [decodeMajor0D, fc, fg, fd, fa, fb, e0, e25]

theorem RoundTrip.macD c g d a b : RoundTrip.Statement (.macD c g d a b) := by
  have he : encodeNat (.macD c g d a b) = some (layC31w1G21w4D15w6A9w6B3w6 0x1A000006 c g d a b) := rfl
  have ⟨hn, e0, e25, fc, fg, fd, fa, fb⟩ := fields_C31w1G21w4D15w6A9w6B3w6 0x1A000006 c g d a b 6 13 (by decide) (by decide)
  generalize layC31w1G21w4D15w6A9w6B3w6 0x1A000006 c g d a b = N at *
  refine roundTrip_row he hn (by rw [e25]; decide) ?_
  rw [row_0D e25]; simp [decodeMajor0D, fc, fg, fd, fa, fb, e0, e25]

theorem RoundTrip.mulhuD c g d a b : RoundTrip.Statement (.mulhuD c g d a b) := by
  have he : encodeNat (.mulhuD c g d a b) = some (layC31w1G21w4D15w6A9w6B3w6 0x1A000007 c g d a b) := rfl
  have ⟨hn, e0, e25, fc, fg, fd, fa, fb⟩ := fields_C31w1G21w4D15w6A9w6B3w6 0x1A000007 c g d a b 7 13 (by decide) (by decide)
  generalize layC31w1G21w4D15w6A9w6B3w6 0x1A000007 c g d a b = N at *
  refine roundTrip_row he hn (by rw [e25]; decide) ?_
  rw [row_0D e25]; simp [decodeMajor0D, fc, fg, fd, fa, fb, e0, e25]

theorem RoundTrip.mov c g d a : RoundTrip.Statement (.mov c g d a) := by
  have he : encodeNat (.mov c g d a) = some (layC31w1G21w4D15w6A9w6 0x1C000000 c g d a) := rfl
  have ⟨hn, e0, e25, fc, fg, fd, fa⟩ := fields_C31w1G21w4D15w6A9w6 0x1C000000 c g d a 0 14 (by decide) (by decide)
  generalize layC31w1G21w4D15w6A9w6 0x1C000000 c g d a = N at *
  refine roundTrip_row he hn (by rw [e25]; decide) ?_
  rw [row_0E e25]; simp [decodeMajor0E, fc, fg, fd, fa, e0, e25]

theorem RoundTrip.not c g d a : RoundTrip.Statement (.not c g d a) := by
  have he : encodeNat (.not c g d a) = some (layC31w1G21w4D15w6A9w6 0x1C000001 c g d a) := rfl
  have ⟨hn, e0, e25, fc, fg, fd, fa⟩ := fields_C31w1G21w4D15w6A9w6 0x1C000001 c g d a 1 14 (by decide) (by decide)
  generalize layC31w1G21w4D15w6A9w6 0x1C000001 c g d a = N at *
  refine roundTrip_row he hn (by rw [e25]; decide) ?_
  rw [row_0E e25]; simp [decodeMajor0E, fc, fg, fd, fa, e0, e25]

theorem RoundTrip.neg c g d a : RoundTrip.Statement (.neg c g d a) := by
  have he : encodeNat (.neg c g d a) = some (layC31w1G21w4D15w6A9w6 0x1C000002 c g d a) := rfl
  have ⟨hn, e0, e25, fc, fg, fd, fa⟩ := fields_C31w1G21w4D15w6A9w6 0x1C000002 c g d a 2 14 (by decide) (by decide)
  generalize layC31w1G21w4D15w6A9w6 0x1C000002 c g d a = N at *
  refine roundTrip_row he hn (by rw [e25]; decide) ?_
  rw [row_0E e25]; simp [decodeMajor0E, fc, fg, fd, fa, e0, e25]

theorem RoundTrip.abs c g d a : RoundTrip.Statement (.abs c g d a) := by
  have he : encodeNat (.abs c g d a) = some (layC31w1G21w4D15w6A9w6 0x1C000003 c g d a) := rfl
  have ⟨hn, e0, e25, fc, fg, fd, fa⟩ := fields_C31w1G21w4D15w6A9w6 0x1C000003 c g d a 3 14 (by decide) (by decide)
  generalize layC31w1G21w4D15w6A9w6 0x1C000003 c g d a = N at *
  refine roundTrip_row he hn (by rw [e25]; decide) ?_
  rw [row_0E e25]; simp [decodeMajor0E, fc, fg, fd, fa, e0, e25]

theorem RoundTrip.clzW c g d a : RoundTrip.Statement (.clzW c g d a) := by
  have he : encodeNat (.clzW c g d a) = some (layC31w1G21w4D15w6A9w6 0x1C000004 c g d a) := rfl
  have ⟨hn, e0, e25, fc, fg, fd, fa⟩ := fields_C31w1G21w4D15w6A9w6 0x1C000004 c g d a 4 14 (by decide) (by decide)
  generalize layC31w1G21w4D15w6A9w6 0x1C000004 c g d a = N at *
  refine roundTrip_row he hn (by rw [e25]; decide) ?_
  rw [row_0E e25]; simp [decodeMajor0E, fc, fg, fd, fa, e0, e25]

theorem RoundTrip.clzD c g d a : RoundTrip.Statement (.clzD c g d a) := by
  have he : encodeNat (.clzD c g d a) = some (layC31w1G21w4D15w6A9w6 0x1C000005 c g d a) := rfl
  have ⟨hn, e0, e25, fc, fg, fd, fa⟩ := fields_C31w1G21w4D15w6A9w6 0x1C000005 c g d a 5 14 (by decide) (by decide)
  generalize layC31w1G21w4D15w6A9w6 0x1C000005 c g d a = N at *
  refine roundTrip_row he hn (by rw [e25]; decide) ?_
  rw [row_0E e25]; simp [decodeMajor0E, fc, fg, fd, fa, e0, e25]

theorem RoundTrip.popc c g d a : RoundTrip.Statement (.popc c g d a) := by
  have he : encodeNat (.popc c g d a) = some (layC31w1G21w4D15w6A9w6 0x1C000006 c g d a) := rfl
  have ⟨hn, e0, e25, fc, fg, fd, fa⟩ := fields_C31w1G21w4D15w6A9w6 0x1C000006 c g d a 6 14 (by decide) (by decide)
  generalize layC31w1G21w4D15w6A9w6 0x1C000006 c g d a = N at *
  refine roundTrip_row he hn (by rw [e25]; decide) ?_
  rw [row_0E e25]; simp [decodeMajor0E, fc, fg, fd, fa, e0, e25]

theorem RoundTrip.brevD c g d a : RoundTrip.Statement (.brevD c g d a) := by
  have he : encodeNat (.brevD c g d a) = some (layC31w1G21w4D15w6A9w6 0x1C000007 c g d a) := rfl
  have ⟨hn, e0, e25, fc, fg, fd, fa⟩ := fields_C31w1G21w4D15w6A9w6 0x1C000007 c g d a 7 14 (by decide) (by decide)
  generalize layC31w1G21w4D15w6A9w6 0x1C000007 c g d a = N at *
  refine roundTrip_row he hn (by rw [e25]; decide) ?_
  rw [row_0E e25]; simp [decodeMajor0E, fc, fg, fd, fa, e0, e25]

theorem RoundTrip.sextB c g d a : RoundTrip.Statement (.sextB c g d a) := by
  have he : encodeNat (.sextB c g d a) = some (layC31w1G21w4D15w6A9w6 0x1C000008 c g d a) := rfl
  have ⟨hn, e0, e25, fc, fg, fd, fa⟩ := fields_C31w1G21w4D15w6A9w6 0x1C000008 c g d a 8 14 (by decide) (by decide)
  generalize layC31w1G21w4D15w6A9w6 0x1C000008 c g d a = N at *
  refine roundTrip_row he hn (by rw [e25]; decide) ?_
  rw [row_0E e25]; simp [decodeMajor0E, fc, fg, fd, fa, e0, e25]

theorem RoundTrip.sextH c g d a : RoundTrip.Statement (.sextH c g d a) := by
  have he : encodeNat (.sextH c g d a) = some (layC31w1G21w4D15w6A9w6 0x1C000009 c g d a) := rfl
  have ⟨hn, e0, e25, fc, fg, fd, fa⟩ := fields_C31w1G21w4D15w6A9w6 0x1C000009 c g d a 9 14 (by decide) (by decide)
  generalize layC31w1G21w4D15w6A9w6 0x1C000009 c g d a = N at *
  refine roundTrip_row he hn (by rw [e25]; decide) ?_
  rw [row_0E e25]; simp [decodeMajor0E, fc, fg, fd, fa, e0, e25]

theorem RoundTrip.sextW c g d a : RoundTrip.Statement (.sextW c g d a) := by
  have he : encodeNat (.sextW c g d a) = some (layC31w1G21w4D15w6A9w6 0x1C00000A c g d a) := rfl
  have ⟨hn, e0, e25, fc, fg, fd, fa⟩ := fields_C31w1G21w4D15w6A9w6 0x1C00000A c g d a 10 14 (by decide) (by decide)
  generalize layC31w1G21w4D15w6A9w6 0x1C00000A c g d a = N at *
  refine roundTrip_row he hn (by rw [e25]; decide) ?_
  rw [row_0E e25]; simp [decodeMajor0E, fc, fg, fd, fa, e0, e25]

theorem RoundTrip.zextB c g d a : RoundTrip.Statement (.zextB c g d a) := by
  have he : encodeNat (.zextB c g d a) = some (layC31w1G21w4D15w6A9w6 0x1C00000B c g d a) := rfl
  have ⟨hn, e0, e25, fc, fg, fd, fa⟩ := fields_C31w1G21w4D15w6A9w6 0x1C00000B c g d a 11 14 (by decide) (by decide)
  generalize layC31w1G21w4D15w6A9w6 0x1C00000B c g d a = N at *
  refine roundTrip_row he hn (by rw [e25]; decide) ?_
  rw [row_0E e25]; simp [decodeMajor0E, fc, fg, fd, fa, e0, e25]

theorem RoundTrip.zextH c g d a : RoundTrip.Statement (.zextH c g d a) := by
  have he : encodeNat (.zextH c g d a) = some (layC31w1G21w4D15w6A9w6 0x1C00000C c g d a) := rfl
  have ⟨hn, e0, e25, fc, fg, fd, fa⟩ := fields_C31w1G21w4D15w6A9w6 0x1C00000C c g d a 12 14 (by decide) (by decide)
  generalize layC31w1G21w4D15w6A9w6 0x1C00000C c g d a = N at *
  refine roundTrip_row he hn (by rw [e25]; decide) ?_
  rw [row_0E e25]; simp [decodeMajor0E, fc, fg, fd, fa, e0, e25]

theorem RoundTrip.zextW c g d a : RoundTrip.Statement (.zextW c g d a) := by
  have he : encodeNat (.zextW c g d a) = some (layC31w1G21w4D15w6A9w6 0x1C00000D c g d a) := rfl
  have ⟨hn, e0, e25, fc, fg, fd, fa⟩ := fields_C31w1G21w4D15w6A9w6 0x1C00000D c g d a 13 14 (by decide) (by decide)
  generalize layC31w1G21w4D15w6A9w6 0x1C00000D c g d a = N at *
  refine roundTrip_row he hn (by rw [e25]; decide) ?_
  rw [row_0E e25]; simp [decodeMajor0E, fc, fg, fd, fa, e0, e25]

theorem RoundTrip.movk c g d k : RoundTrip.Statement (.movk c g d k) := by
  have he : encodeNat (.movk c g d k) = some (layC31w1G21w4D15w6K9w6 0x1C000010 c g d k) := rfl
  have ⟨hn, e0, e25, fc, fg, fd, fk⟩ := fields_C31w1G21w4D15w6K9w6 0x1C000010 c g d k 16 14 (by decide) (by decide)
  generalize layC31w1G21w4D15w6K9w6 0x1C000010 c g d k = N at *
  refine roundTrip_row he hn (by rw [e25]; decide) ?_
  rw [row_0E e25]; simp [decodeMajor0E, fc, fg, fd, fk, e0, e25]

theorem RoundTrip.rdsr c g d s : RoundTrip.Statement (.rdsr c g d s) := by
  have he : encodeNat (.rdsr c g d s) = some (layC31w1G21w4D15w6S9w6 0x1C000011 c g d s) := rfl
  have ⟨hn, e0, e25, fc, fg, fd, fs⟩ := fields_C31w1G21w4D15w6S9w6 0x1C000011 c g d s 17 14 (by decide) (by decide)
  generalize layC31w1G21w4D15w6S9w6 0x1C000011 c g d s = N at *
  refine roundTrip_row he hn (by rw [e25]; decide) ?_
  rw [row_0E e25]; simp [decodeMajor0E, fc, fg, fd, fs, e0, e25]

theorem RoundTrip.wrsr c g s a : RoundTrip.Statement (.wrsr c g s a) := by
  have he : encodeNat (.wrsr c g s a) = some (layC31w1G21w4S15w6A9w6 0x1C000012 c g s a) := rfl
  have ⟨hn, e0, e25, fc, fg, fs, fa⟩ := fields_C31w1G21w4S15w6A9w6 0x1C000012 c g s a 18 14 (by decide) (by decide)
  generalize layC31w1G21w4S15w6A9w6 0x1C000012 c g s a = N at *
  refine roundTrip_row he hn (by rw [e25]; decide) ?_
  rw [row_0E e25]; simp [decodeMajor0E, fc, fg, fs, fa, e0, e25]

theorem RoundTrip.movp c g d a : RoundTrip.Statement (.movp c g d a) := by
  have he : encodeNat (.movp c g d a) = some (layC31w1G21w4D15w6A9w6 0x1C000013 c g d a) := rfl
  have ⟨hn, e0, e25, fc, fg, fd, fa⟩ := fields_C31w1G21w4D15w6A9w6 0x1C000013 c g d a 19 14 (by decide) (by decide)
  generalize layC31w1G21w4D15w6A9w6 0x1C000013 c g d a = N at *
  refine roundTrip_row he hn (by rw [e25]; decide) ?_
  rw [row_0E e25]; simp [decodeMajor0E, fc, fg, fd, fa, e0, e25]

theorem RoundTrip.bfx c g d a b : RoundTrip.Statement (.bfx c g d a b) := by
  have he : encodeNat (.bfx c g d a b) = some (layC31w1G21w4D15w6A9w6B3w6 0x1E000000 c g d a b) := rfl
  have ⟨hn, e0, e25, fc, fg, fd, fa, fb⟩ := fields_C31w1G21w4D15w6A9w6B3w6 0x1E000000 c g d a b 0 15 (by decide) (by decide)
  generalize layC31w1G21w4D15w6A9w6B3w6 0x1E000000 c g d a b = N at *
  refine roundTrip_row he hn (by rw [e25]; decide) ?_
  rw [row_0F e25]; simp [decodeMajor0F, fc, fg, fd, fa, fb, e0, e25]

theorem RoundTrip.bfxu c g d a b : RoundTrip.Statement (.bfxu c g d a b) := by
  have he : encodeNat (.bfxu c g d a b) = some (layC31w1G21w4D15w6A9w6B3w6 0x1E000001 c g d a b) := rfl
  have ⟨hn, e0, e25, fc, fg, fd, fa, fb⟩ := fields_C31w1G21w4D15w6A9w6B3w6 0x1E000001 c g d a b 1 15 (by decide) (by decide)
  generalize layC31w1G21w4D15w6A9w6B3w6 0x1E000001 c g d a b = N at *
  refine roundTrip_row he hn (by rw [e25]; decide) ?_
  rw [row_0F e25]; simp [decodeMajor0F, fc, fg, fd, fa, fb, e0, e25]

theorem RoundTrip.bfi c g d a b : RoundTrip.Statement (.bfi c g d a b) := by
  have he : encodeNat (.bfi c g d a b) = some (layC31w1G21w4D15w6A9w6B3w6 0x1E000002 c g d a b) := rfl
  have ⟨hn, e0, e25, fc, fg, fd, fa, fb⟩ := fields_C31w1G21w4D15w6A9w6B3w6 0x1E000002 c g d a b 2 15 (by decide) (by decide)
  generalize layC31w1G21w4D15w6A9w6B3w6 0x1E000002 c g d a b = N at *
  refine roundTrip_row he hn (by rw [e25]; decide) ?_
  rw [row_0F e25]; simp [decodeMajor0F, fc, fg, fd, fa, fb, e0, e25]

theorem RoundTrip.icmpEq c g p t a b : RoundTrip.Statement (.icmpEq c g p t a b) := by
  have he : encodeNat (.icmpEq c g p t a b) = some (layC31w1G21w4P19w2T16w3A6w6B0w6 0x20000000 c g p t a b) := rfl
  have ⟨hn, e12, e25, fc, fg, fp, ft, fa, fb⟩ := fields_C31w1G21w4P19w2T16w3A6w6B0w6 0x20000000 c g p t a b 0 16 (by decide) (by decide)
  generalize layC31w1G21w4P19w2T16w3A6w6B0w6 0x20000000 c g p t a b = N at *
  refine roundTrip_row he hn (by rw [e25]; decide) ?_
  rw [row_10 e25]; simp [decodeMajor10, fc, fg, fp, ft, fa, fb, e12, e25]

theorem RoundTrip.icmpNe c g p t a b : RoundTrip.Statement (.icmpNe c g p t a b) := by
  have he : encodeNat (.icmpNe c g p t a b) = some (layC31w1G21w4P19w2T16w3A6w6B0w6 0x20001000 c g p t a b) := rfl
  have ⟨hn, e12, e25, fc, fg, fp, ft, fa, fb⟩ := fields_C31w1G21w4P19w2T16w3A6w6B0w6 0x20001000 c g p t a b 1 16 (by decide) (by decide)
  generalize layC31w1G21w4P19w2T16w3A6w6B0w6 0x20001000 c g p t a b = N at *
  refine roundTrip_row he hn (by rw [e25]; decide) ?_
  rw [row_10 e25]; simp [decodeMajor10, fc, fg, fp, ft, fa, fb, e12, e25]

theorem RoundTrip.icmpLt c g p t a b : RoundTrip.Statement (.icmpLt c g p t a b) := by
  have he : encodeNat (.icmpLt c g p t a b) = some (layC31w1G21w4P19w2T16w3A6w6B0w6 0x20002000 c g p t a b) := rfl
  have ⟨hn, e12, e25, fc, fg, fp, ft, fa, fb⟩ := fields_C31w1G21w4P19w2T16w3A6w6B0w6 0x20002000 c g p t a b 2 16 (by decide) (by decide)
  generalize layC31w1G21w4P19w2T16w3A6w6B0w6 0x20002000 c g p t a b = N at *
  refine roundTrip_row he hn (by rw [e25]; decide) ?_
  rw [row_10 e25]; simp [decodeMajor10, fc, fg, fp, ft, fa, fb, e12, e25]

theorem RoundTrip.icmpLe c g p t a b : RoundTrip.Statement (.icmpLe c g p t a b) := by
  have he : encodeNat (.icmpLe c g p t a b) = some (layC31w1G21w4P19w2T16w3A6w6B0w6 0x20003000 c g p t a b) := rfl
  have ⟨hn, e12, e25, fc, fg, fp, ft, fa, fb⟩ := fields_C31w1G21w4P19w2T16w3A6w6B0w6 0x20003000 c g p t a b 3 16 (by decide) (by decide)
  generalize layC31w1G21w4P19w2T16w3A6w6B0w6 0x20003000 c g p t a b = N at *
  refine roundTrip_row he hn (by rw [e25]; decide) ?_
  rw [row_10 e25]; simp [decodeMajor10, fc, fg, fp, ft, fa, fb, e12, e25]

theorem RoundTrip.icmpGt c g p t a b : RoundTrip.Statement (.icmpGt c g p t a b) := by
  have he : encodeNat (.icmpGt c g p t a b) = some (layC31w1G21w4P19w2T16w3A6w6B0w6 0x20004000 c g p t a b) := rfl
  have ⟨hn, e12, e25, fc, fg, fp, ft, fa, fb⟩ := fields_C31w1G21w4P19w2T16w3A6w6B0w6 0x20004000 c g p t a b 4 16 (by decide) (by decide)
  generalize layC31w1G21w4P19w2T16w3A6w6B0w6 0x20004000 c g p t a b = N at *
  refine roundTrip_row he hn (by rw [e25]; decide) ?_
  rw [row_10 e25]; simp [decodeMajor10, fc, fg, fp, ft, fa, fb, e12, e25]

theorem RoundTrip.icmpGe c g p t a b : RoundTrip.Statement (.icmpGe c g p t a b) := by
  have he : encodeNat (.icmpGe c g p t a b) = some (layC31w1G21w4P19w2T16w3A6w6B0w6 0x20005000 c g p t a b) := rfl
  have ⟨hn, e12, e25, fc, fg, fp, ft, fa, fb⟩ := fields_C31w1G21w4P19w2T16w3A6w6B0w6 0x20005000 c g p t a b 5 16 (by decide) (by decide)
  generalize layC31w1G21w4P19w2T16w3A6w6B0w6 0x20005000 c g p t a b = N at *
  refine roundTrip_row he hn (by rw [e25]; decide) ?_
  rw [row_10 e25]; simp [decodeMajor10, fc, fg, fp, ft, fa, fb, e12, e25]

theorem RoundTrip.icmpLtu c g p t a b : RoundTrip.Statement (.icmpLtu c g p t a b) := by
  have he : encodeNat (.icmpLtu c g p t a b) = some (layC31w1G21w4P19w2T16w3A6w6B0w6 0x20006000 c g p t a b) := rfl
  have ⟨hn, e12, e25, fc, fg, fp, ft, fa, fb⟩ := fields_C31w1G21w4P19w2T16w3A6w6B0w6 0x20006000 c g p t a b 6 16 (by decide) (by decide)
  generalize layC31w1G21w4P19w2T16w3A6w6B0w6 0x20006000 c g p t a b = N at *
  refine roundTrip_row he hn (by rw [e25]; decide) ?_
  rw [row_10 e25]; simp [decodeMajor10, fc, fg, fp, ft, fa, fb, e12, e25]

theorem RoundTrip.icmpLeu c g p t a b : RoundTrip.Statement (.icmpLeu c g p t a b) := by
  have he : encodeNat (.icmpLeu c g p t a b) = some (layC31w1G21w4P19w2T16w3A6w6B0w6 0x20007000 c g p t a b) := rfl
  have ⟨hn, e12, e25, fc, fg, fp, ft, fa, fb⟩ := fields_C31w1G21w4P19w2T16w3A6w6B0w6 0x20007000 c g p t a b 7 16 (by decide) (by decide)
  generalize layC31w1G21w4P19w2T16w3A6w6B0w6 0x20007000 c g p t a b = N at *
  refine roundTrip_row he hn (by rw [e25]; decide) ?_
  rw [row_10 e25]; simp [decodeMajor10, fc, fg, fp, ft, fa, fb, e12, e25]

theorem RoundTrip.icmpGtu c g p t a b : RoundTrip.Statement (.icmpGtu c g p t a b) := by
  have he : encodeNat (.icmpGtu c g p t a b) = some (layC31w1G21w4P19w2T16w3A6w6B0w6 0x20008000 c g p t a b) := rfl
  have ⟨hn, e12, e25, fc, fg, fp, ft, fa, fb⟩ := fields_C31w1G21w4P19w2T16w3A6w6B0w6 0x20008000 c g p t a b 8 16 (by decide) (by decide)
  generalize layC31w1G21w4P19w2T16w3A6w6B0w6 0x20008000 c g p t a b = N at *
  refine roundTrip_row he hn (by rw [e25]; decide) ?_
  rw [row_10 e25]; simp [decodeMajor10, fc, fg, fp, ft, fa, fb, e12, e25]

theorem RoundTrip.icmpGeu c g p t a b : RoundTrip.Statement (.icmpGeu c g p t a b) := by
  have he : encodeNat (.icmpGeu c g p t a b) = some (layC31w1G21w4P19w2T16w3A6w6B0w6 0x20009000 c g p t a b) := rfl
  have ⟨hn, e12, e25, fc, fg, fp, ft, fa, fb⟩ := fields_C31w1G21w4P19w2T16w3A6w6B0w6 0x20009000 c g p t a b 9 16 (by decide) (by decide)
  generalize layC31w1G21w4P19w2T16w3A6w6B0w6 0x20009000 c g p t a b = N at *
  refine roundTrip_row he hn (by rw [e25]; decide) ?_
  rw [row_10 e25]; simp [decodeMajor10, fc, fg, fp, ft, fa, fb, e12, e25]

theorem RoundTrip.icmpTst c g p t a b : RoundTrip.Statement (.icmpTst c g p t a b) := by
  have he : encodeNat (.icmpTst c g p t a b) = some (layC31w1G21w4P19w2T16w3A6w6B0w6 0x2000A000 c g p t a b) := rfl
  have ⟨hn, e12, e25, fc, fg, fp, ft, fa, fb⟩ := fields_C31w1G21w4P19w2T16w3A6w6B0w6 0x2000A000 c g p t a b 10 16 (by decide) (by decide)
  generalize layC31w1G21w4P19w2T16w3A6w6B0w6 0x2000A000 c g p t a b = N at *
  refine roundTrip_row he hn (by rw [e25]; decide) ?_
  rw [row_10 e25]; simp [decodeMajor10, fc, fg, fp, ft, fa, fb, e12, e25]

theorem RoundTrip.icmpNtst c g p t a b : RoundTrip.Statement (.icmpNtst c g p t a b) := by
  have he : encodeNat (.icmpNtst c g p t a b) = some (layC31w1G21w4P19w2T16w3A6w6B0w6 0x2000B000 c g p t a b) := rfl
  have ⟨hn, e12, e25, fc, fg, fp, ft, fa, fb⟩ := fields_C31w1G21w4P19w2T16w3A6w6B0w6 0x2000B000 c g p t a b 11 16 (by decide) (by decide)
  generalize layC31w1G21w4P19w2T16w3A6w6B0w6 0x2000B000 c g p t a b = N at *
  refine roundTrip_row he hn (by rw [e25]; decide) ?_
  rw [row_10 e25]; simp [decodeMajor10, fc, fg, fp, ft, fa, fb, e12, e25]

theorem RoundTrip.pand c g d a b : RoundTrip.Statement (.pand c g d a b) := by
  have he : encodeNat (.pand c g d a b) = some (layC31w1G21w4D18w3A15w3B12w3 0x22000000 c g d a b) := rfl
  have ⟨hn, e0, e25, fc, fg, fd, fa, fb⟩ := fields_C31w1G21w4D18w3A15w3B12w3 0x22000000 c g d a b 0 17 (by decide) (by decide)
  generalize layC31w1G21w4D18w3A15w3B12w3 0x22000000 c g d a b = N at *
  refine roundTrip_row he hn (by rw [e25]; decide) ?_
  rw [row_11 e25]; simp [decodeMajor11, fc, fg, fd, fa, fb, e0, e25]

theorem RoundTrip.por c g d a b : RoundTrip.Statement (.por c g d a b) := by
  have he : encodeNat (.por c g d a b) = some (layC31w1G21w4D18w3A15w3B12w3 0x22000001 c g d a b) := rfl
  have ⟨hn, e0, e25, fc, fg, fd, fa, fb⟩ := fields_C31w1G21w4D18w3A15w3B12w3 0x22000001 c g d a b 1 17 (by decide) (by decide)
  generalize layC31w1G21w4D18w3A15w3B12w3 0x22000001 c g d a b = N at *
  refine roundTrip_row he hn (by rw [e25]; decide) ?_
  rw [row_11 e25]; simp [decodeMajor11, fc, fg, fd, fa, fb, e0, e25]

theorem RoundTrip.pxor c g d a b : RoundTrip.Statement (.pxor c g d a b) := by
  have he : encodeNat (.pxor c g d a b) = some (layC31w1G21w4D18w3A15w3B12w3 0x22000002 c g d a b) := rfl
  have ⟨hn, e0, e25, fc, fg, fd, fa, fb⟩ := fields_C31w1G21w4D18w3A15w3B12w3 0x22000002 c g d a b 2 17 (by decide) (by decide)
  generalize layC31w1G21w4D18w3A15w3B12w3 0x22000002 c g d a b = N at *
  refine roundTrip_row he hn (by rw [e25]; decide) ?_
  rw [row_11 e25]; simp [decodeMajor11, fc, fg, fd, fa, fb, e0, e25]

theorem RoundTrip.pnot c g d a : RoundTrip.Statement (.pnot c g d a) := by
  have he : encodeNat (.pnot c g d a) = some (layC31w1G21w4D18w3A15w3 0x22000003 c g d a) := rfl
  have ⟨hn, e0, e25, fc, fg, fd, fa⟩ := fields_C31w1G21w4D18w3A15w3 0x22000003 c g d a 3 17 (by decide) (by decide)
  generalize layC31w1G21w4D18w3A15w3 0x22000003 c g d a = N at *
  have t0_12 : fld N 0 12 = 3 := sub_eq (lo := 0) (a := 0) e0 (by decide)
  refine roundTrip_row he hn (by rw [e25]; decide) ?_
  rw [row_11 e25]; simp [decodeMajor11, fc, fg, fd, fa, t0_12, e0, e25]

theorem RoundTrip.pmov c g d a : RoundTrip.Statement (.pmov c g d a) := by
  have he : encodeNat (.pmov c g d a) = some (layC31w1G21w4D18w3A15w3 0x22000004 c g d a) := rfl
  have ⟨hn, e0, e25, fc, fg, fd, fa⟩ := fields_C31w1G21w4D18w3A15w3 0x22000004 c g d a 4 17 (by decide) (by decide)
  generalize layC31w1G21w4D18w3A15w3 0x22000004 c g d a = N at *
  have t0_12 : fld N 0 12 = 4 := sub_eq (lo := 0) (a := 0) e0 (by decide)
  refine roundTrip_row he hn (by rw [e25]; decide) ?_
  rw [row_11 e25]; simp [decodeMajor11, fc, fg, fd, fa, t0_12, e0, e25]

theorem RoundTrip.pisu c g d a : RoundTrip.Statement (.pisu c g d a) := by
  have he : encodeNat (.pisu c g d a) = some (layC31w1G21w4D18w3A15w3 0x22000005 c g d a) := rfl
  have ⟨hn, e0, e25, fc, fg, fd, fa⟩ := fields_C31w1G21w4D18w3A15w3 0x22000005 c g d a 5 17 (by decide) (by decide)
  generalize layC31w1G21w4D18w3A15w3 0x22000005 c g d a = N at *
  have t0_12 : fld N 0 12 = 5 := sub_eq (lo := 0) (a := 0) e0 (by decide)
  refine roundTrip_row he hn (by rw [e25]; decide) ?_
  rw [row_11 e25]; simp [decodeMajor11, fc, fg, fd, fa, t0_12, e0, e25]

theorem RoundTrip.pist c g d a : RoundTrip.Statement (.pist c g d a) := by
  have he : encodeNat (.pist c g d a) = some (layC31w1G21w4D18w3A15w3 0x22000006 c g d a) := rfl
  have ⟨hn, e0, e25, fc, fg, fd, fa⟩ := fields_C31w1G21w4D18w3A15w3 0x22000006 c g d a 6 17 (by decide) (by decide)
  generalize layC31w1G21w4D18w3A15w3 0x22000006 c g d a = N at *
  have t0_12 : fld N 0 12 = 6 := sub_eq (lo := 0) (a := 0) e0 (by decide)
  refine roundTrip_row he hn (by rw [e25]; decide) ?_
  rw [row_11 e25]; simp [decodeMajor11, fc, fg, fd, fa, t0_12, e0, e25]

theorem RoundTrip.pset c g d v : RoundTrip.Statement (.pset c g d v) := by
  have he : encodeNat (.pset c g d v) = some (layC31w1G21w4D18w3V15w3 0x22000007 c g d v) := rfl
  have ⟨hn, e0, e25, fc, fg, fd, fv⟩ := fields_C31w1G21w4D18w3V15w3 0x22000007 c g d v 7 17 (by decide) (by decide)
  generalize layC31w1G21w4D18w3V15w3 0x22000007 c g d v = N at *
  have t0_12 : fld N 0 12 = 7 := sub_eq (lo := 0) (a := 0) e0 (by decide)
  refine roundTrip_row he hn (by rw [e25]; decide) ?_
  rw [row_11 e25]; simp [decodeMajor11, fc, fg, fd, fv, t0_12, e0, e25]

theorem RoundTrip.voteAll c g d a : RoundTrip.Statement (.voteAll c g d a) := by
  have he : encodeNat (.voteAll c g d a) = some (layC31w1G21w4D15w6A9w6 0x24000000 c g d a) := rfl
  have ⟨hn, e0, e25, fc, fg, fd, fa⟩ := fields_C31w1G21w4D15w6A9w6 0x24000000 c g d a 0 18 (by decide) (by decide)
  generalize layC31w1G21w4D15w6A9w6 0x24000000 c g d a = N at *
  refine roundTrip_row he hn (by rw [e25]; decide) ?_
  rw [row_12 e25]; simp [decodeMajor12, fc, fg, fd, fa, e0, e25]

theorem RoundTrip.voteAny c g d a : RoundTrip.Statement (.voteAny c g d a) := by
  have he : encodeNat (.voteAny c g d a) = some (layC31w1G21w4D15w6A9w6 0x24000001 c g d a) := rfl
  have ⟨hn, e0, e25, fc, fg, fd, fa⟩ := fields_C31w1G21w4D15w6A9w6 0x24000001 c g d a 1 18 (by decide) (by decide)
  generalize layC31w1G21w4D15w6A9w6 0x24000001 c g d a = N at *
  refine roundTrip_row he hn (by rw [e25]; decide) ?_
  rw [row_12 e25]; simp [decodeMajor12, fc, fg, fd, fa, e0, e25]

theorem RoundTrip.ballot c g d a : RoundTrip.Statement (.ballot c g d a) := by
  have he : encodeNat (.ballot c g d a) = some (layC31w1G21w4D15w6A9w6 0x24000002 c g d a) := rfl
  have ⟨hn, e0, e25, fc, fg, fd, fa⟩ := fields_C31w1G21w4D15w6A9w6 0x24000002 c g d a 2 18 (by decide) (by decide)
  generalize layC31w1G21w4D15w6A9w6 0x24000002 c g d a = N at *
  refine roundTrip_row he hn (by rw [e25]; decide) ?_
  rw [row_12 e25]; simp [decodeMajor12, fc, fg, fd, fa, e0, e25]

theorem RoundTrip.ballotu c g d a : RoundTrip.Statement (.ballotu c g d a) := by
  have he : encodeNat (.ballotu c g d a) = some (layC31w1G21w4D15w6A9w6 0x24000003 c g d a) := rfl
  have ⟨hn, e0, e25, fc, fg, fd, fa⟩ := fields_C31w1G21w4D15w6A9w6 0x24000003 c g d a 3 18 (by decide) (by decide)
  generalize layC31w1G21w4D15w6A9w6 0x24000003 c g d a = N at *
  refine roundTrip_row he hn (by rw [e25]; decide) ?_
  rw [row_12 e25]; simp [decodeMajor12, fc, fg, fd, fa, e0, e25]

theorem RoundTrip.shflIdx c g d a b : RoundTrip.Statement (.shflIdx c g d a b) := by
  have he : encodeNat (.shflIdx c g d a b) = some (layC31w1G21w4D15w6A9w6B3w6 0x24000004 c g d a b) := rfl
  have ⟨hn, e0, e25, fc, fg, fd, fa, fb⟩ := fields_C31w1G21w4D15w6A9w6B3w6 0x24000004 c g d a b 4 18 (by decide) (by decide)
  generalize layC31w1G21w4D15w6A9w6B3w6 0x24000004 c g d a b = N at *
  have u0_9_0 : fld N 0 9 ≠ 0 := sub_ne (lo := 0) (a := 0) e0 (by decide) (by decide)
  have u0_9_1 : fld N 0 9 ≠ 1 := sub_ne (lo := 0) (a := 0) e0 (by decide) (by decide)
  have u0_9_2 : fld N 0 9 ≠ 2 := sub_ne (lo := 0) (a := 0) e0 (by decide) (by decide)
  have u0_9_3 : fld N 0 9 ≠ 3 := sub_ne (lo := 0) (a := 0) e0 (by decide) (by decide)
  refine roundTrip_row he hn (by rw [e25]; decide) ?_
  rw [row_12 e25]; simp [decodeMajor12, fc, fg, fd, fa, fb, u0_9_0, u0_9_1, u0_9_2, u0_9_3, e0, e25]

theorem RoundTrip.shflUp c g d a b : RoundTrip.Statement (.shflUp c g d a b) := by
  have he : encodeNat (.shflUp c g d a b) = some (layC31w1G21w4D15w6A9w6B3w6 0x24000005 c g d a b) := rfl
  have ⟨hn, e0, e25, fc, fg, fd, fa, fb⟩ := fields_C31w1G21w4D15w6A9w6B3w6 0x24000005 c g d a b 5 18 (by decide) (by decide)
  generalize layC31w1G21w4D15w6A9w6B3w6 0x24000005 c g d a b = N at *
  have u0_9_0 : fld N 0 9 ≠ 0 := sub_ne (lo := 0) (a := 0) e0 (by decide) (by decide)
  have u0_9_1 : fld N 0 9 ≠ 1 := sub_ne (lo := 0) (a := 0) e0 (by decide) (by decide)
  have u0_9_2 : fld N 0 9 ≠ 2 := sub_ne (lo := 0) (a := 0) e0 (by decide) (by decide)
  have u0_9_3 : fld N 0 9 ≠ 3 := sub_ne (lo := 0) (a := 0) e0 (by decide) (by decide)
  refine roundTrip_row he hn (by rw [e25]; decide) ?_
  rw [row_12 e25]; simp [decodeMajor12, fc, fg, fd, fa, fb, u0_9_0, u0_9_1, u0_9_2, u0_9_3, e0, e25]

theorem RoundTrip.shflDown c g d a b : RoundTrip.Statement (.shflDown c g d a b) := by
  have he : encodeNat (.shflDown c g d a b) = some (layC31w1G21w4D15w6A9w6B3w6 0x24000006 c g d a b) := rfl
  have ⟨hn, e0, e25, fc, fg, fd, fa, fb⟩ := fields_C31w1G21w4D15w6A9w6B3w6 0x24000006 c g d a b 6 18 (by decide) (by decide)
  generalize layC31w1G21w4D15w6A9w6B3w6 0x24000006 c g d a b = N at *
  have u0_9_0 : fld N 0 9 ≠ 0 := sub_ne (lo := 0) (a := 0) e0 (by decide) (by decide)
  have u0_9_1 : fld N 0 9 ≠ 1 := sub_ne (lo := 0) (a := 0) e0 (by decide) (by decide)
  have u0_9_2 : fld N 0 9 ≠ 2 := sub_ne (lo := 0) (a := 0) e0 (by decide) (by decide)
  have u0_9_3 : fld N 0 9 ≠ 3 := sub_ne (lo := 0) (a := 0) e0 (by decide) (by decide)
  refine roundTrip_row he hn (by rw [e25]; decide) ?_
  rw [row_12 e25]; simp [decodeMajor12, fc, fg, fd, fa, fb, u0_9_0, u0_9_1, u0_9_2, u0_9_3, e0, e25]

theorem RoundTrip.shflXor c g d a b : RoundTrip.Statement (.shflXor c g d a b) := by
  have he : encodeNat (.shflXor c g d a b) = some (layC31w1G21w4D15w6A9w6B3w6 0x24000007 c g d a b) := rfl
  have ⟨hn, e0, e25, fc, fg, fd, fa, fb⟩ := fields_C31w1G21w4D15w6A9w6B3w6 0x24000007 c g d a b 7 18 (by decide) (by decide)
  generalize layC31w1G21w4D15w6A9w6B3w6 0x24000007 c g d a b = N at *
  have u0_9_0 : fld N 0 9 ≠ 0 := sub_ne (lo := 0) (a := 0) e0 (by decide) (by decide)
  have u0_9_1 : fld N 0 9 ≠ 1 := sub_ne (lo := 0) (a := 0) e0 (by decide) (by decide)
  have u0_9_2 : fld N 0 9 ≠ 2 := sub_ne (lo := 0) (a := 0) e0 (by decide) (by decide)
  have u0_9_3 : fld N 0 9 ≠ 3 := sub_ne (lo := 0) (a := 0) e0 (by decide) (by decide)
  refine roundTrip_row he hn (by rw [e25]; decide) ?_
  rw [row_12 e25]; simp [decodeMajor12, fc, fg, fd, fa, fb, u0_9_0, u0_9_1, u0_9_2, u0_9_3, e0, e25]

theorem RoundTrip.divW c g d a b : RoundTrip.Statement (.divW c g d a b) := by
  have he : encodeNat (.divW c g d a b) = some (layC31w1G21w4D15w6A9w6B3w6 0x26000000 c g d a b) := rfl
  have ⟨hn, e0, e25, fc, fg, fd, fa, fb⟩ := fields_C31w1G21w4D15w6A9w6B3w6 0x26000000 c g d a b 0 19 (by decide) (by decide)
  generalize layC31w1G21w4D15w6A9w6B3w6 0x26000000 c g d a b = N at *
  refine roundTrip_row he hn (by rw [e25]; decide) ?_
  rw [row_13 e25]; simp [decodeMajor13, fc, fg, fd, fa, fb, e0, e25]

theorem RoundTrip.divuW c g d a b : RoundTrip.Statement (.divuW c g d a b) := by
  have he : encodeNat (.divuW c g d a b) = some (layC31w1G21w4D15w6A9w6B3w6 0x26000001 c g d a b) := rfl
  have ⟨hn, e0, e25, fc, fg, fd, fa, fb⟩ := fields_C31w1G21w4D15w6A9w6B3w6 0x26000001 c g d a b 1 19 (by decide) (by decide)
  generalize layC31w1G21w4D15w6A9w6B3w6 0x26000001 c g d a b = N at *
  refine roundTrip_row he hn (by rw [e25]; decide) ?_
  rw [row_13 e25]; simp [decodeMajor13, fc, fg, fd, fa, fb, e0, e25]

theorem RoundTrip.remW c g d a b : RoundTrip.Statement (.remW c g d a b) := by
  have he : encodeNat (.remW c g d a b) = some (layC31w1G21w4D15w6A9w6B3w6 0x26000002 c g d a b) := rfl
  have ⟨hn, e0, e25, fc, fg, fd, fa, fb⟩ := fields_C31w1G21w4D15w6A9w6B3w6 0x26000002 c g d a b 2 19 (by decide) (by decide)
  generalize layC31w1G21w4D15w6A9w6B3w6 0x26000002 c g d a b = N at *
  refine roundTrip_row he hn (by rw [e25]; decide) ?_
  rw [row_13 e25]; simp [decodeMajor13, fc, fg, fd, fa, fb, e0, e25]

theorem RoundTrip.remuW c g d a b : RoundTrip.Statement (.remuW c g d a b) := by
  have he : encodeNat (.remuW c g d a b) = some (layC31w1G21w4D15w6A9w6B3w6 0x26000003 c g d a b) := rfl
  have ⟨hn, e0, e25, fc, fg, fd, fa, fb⟩ := fields_C31w1G21w4D15w6A9w6B3w6 0x26000003 c g d a b 3 19 (by decide) (by decide)
  generalize layC31w1G21w4D15w6A9w6B3w6 0x26000003 c g d a b = N at *
  refine roundTrip_row he hn (by rw [e25]; decide) ?_
  rw [row_13 e25]; simp [decodeMajor13, fc, fg, fd, fa, fb, e0, e25]

theorem RoundTrip.divD c g d a b : RoundTrip.Statement (.divD c g d a b) := by
  have he : encodeNat (.divD c g d a b) = some (layC31w1G21w4D15w6A9w6B3w6 0x26000004 c g d a b) := rfl
  have ⟨hn, e0, e25, fc, fg, fd, fa, fb⟩ := fields_C31w1G21w4D15w6A9w6B3w6 0x26000004 c g d a b 4 19 (by decide) (by decide)
  generalize layC31w1G21w4D15w6A9w6B3w6 0x26000004 c g d a b = N at *
  refine roundTrip_row he hn (by rw [e25]; decide) ?_
  rw [row_13 e25]; simp [decodeMajor13, fc, fg, fd, fa, fb, e0, e25]

theorem RoundTrip.divuD c g d a b : RoundTrip.Statement (.divuD c g d a b) := by
  have he : encodeNat (.divuD c g d a b) = some (layC31w1G21w4D15w6A9w6B3w6 0x26000005 c g d a b) := rfl
  have ⟨hn, e0, e25, fc, fg, fd, fa, fb⟩ := fields_C31w1G21w4D15w6A9w6B3w6 0x26000005 c g d a b 5 19 (by decide) (by decide)
  generalize layC31w1G21w4D15w6A9w6B3w6 0x26000005 c g d a b = N at *
  refine roundTrip_row he hn (by rw [e25]; decide) ?_
  rw [row_13 e25]; simp [decodeMajor13, fc, fg, fd, fa, fb, e0, e25]

theorem RoundTrip.remD c g d a b : RoundTrip.Statement (.remD c g d a b) := by
  have he : encodeNat (.remD c g d a b) = some (layC31w1G21w4D15w6A9w6B3w6 0x26000006 c g d a b) := rfl
  have ⟨hn, e0, e25, fc, fg, fd, fa, fb⟩ := fields_C31w1G21w4D15w6A9w6B3w6 0x26000006 c g d a b 6 19 (by decide) (by decide)
  generalize layC31w1G21w4D15w6A9w6B3w6 0x26000006 c g d a b = N at *
  refine roundTrip_row he hn (by rw [e25]; decide) ?_
  rw [row_13 e25]; simp [decodeMajor13, fc, fg, fd, fa, fb, e0, e25]

theorem RoundTrip.remuD c g d a b : RoundTrip.Statement (.remuD c g d a b) := by
  have he : encodeNat (.remuD c g d a b) = some (layC31w1G21w4D15w6A9w6B3w6 0x26000007 c g d a b) := rfl
  have ⟨hn, e0, e25, fc, fg, fd, fa, fb⟩ := fields_C31w1G21w4D15w6A9w6B3w6 0x26000007 c g d a b 7 19 (by decide) (by decide)
  generalize layC31w1G21w4D15w6A9w6B3w6 0x26000007 c g d a b = N at *
  refine roundTrip_row he hn (by rw [e25]; decide) ?_
  rw [row_13 e25]; simp [decodeMajor13, fc, fg, fd, fa, fb, e0, e25]

theorem RoundTrip.divideComplete op : RoundTrip.Statement (.divideComplete op) := roundTrip_event rfl

theorem RoundTrip.sel c g d a b k : RoundTrip.Statement (.sel c g d a b k) := by
  have he : encodeNat (.sel c g d a b k) = some (layC31w1G21w4D15w6A9w6B3w6K0w3 0x28000000 c g d a b k) := rfl
  have ⟨hn, e25, fc, fg, fd, fa, fb, fk⟩ := fields_C31w1G21w4D15w6A9w6B3w6K0w3 0x28000000 c g d a b k 20 (by decide) (by decide)
  generalize layC31w1G21w4D15w6A9w6B3w6K0w3 0x28000000 c g d a b k = N at *
  refine roundTrip_row he hn (by rw [e25]; decide) ?_
  rw [row_14 e25]; simp [decodeMajor14, fc, fg, fd, fa, fb, fk, e25]

theorem RoundTrip.randW c g d a b : RoundTrip.Statement (.randW c g d a b) := by
  have he : encodeNat (.randW c g d a b) = some (layC31w1G21w4D15w6A9w6B3w6 0x2A000000 c g d a b) := rfl
  have ⟨hn, e0, e25, fc, fg, fd, fa, fb⟩ := fields_C31w1G21w4D15w6A9w6B3w6 0x2A000000 c g d a b 0 21 (by decide) (by decide)
  generalize layC31w1G21w4D15w6A9w6B3w6 0x2A000000 c g d a b = N at *
  refine roundTrip_row he hn (by rw [e25]; decide) ?_
  rw [row_15 e25]; simp [decodeMajor15, fc, fg, fd, fa, fb, e0, e25]

theorem RoundTrip.randD c g d a b : RoundTrip.Statement (.randD c g d a b) := by
  have he : encodeNat (.randD c g d a b) = some (layC31w1G21w4D15w6A9w6B3w6 0x2A000001 c g d a b) := rfl
  have ⟨hn, e0, e25, fc, fg, fd, fa, fb⟩ := fields_C31w1G21w4D15w6A9w6B3w6 0x2A000001 c g d a b 1 21 (by decide) (by decide)
  generalize layC31w1G21w4D15w6A9w6B3w6 0x2A000001 c g d a b = N at *
  refine roundTrip_row he hn (by rw [e25]; decide) ?_
  rw [row_15 e25]; simp [decodeMajor15, fc, fg, fd, fa, fb, e0, e25]

theorem RoundTrip.faddS c g d a b : RoundTrip.Statement (.faddS c g d a b) := by
  have he : encodeNat (.faddS c g d a b) = some (layC31w1G21w4D15w6A9w6B3w6 0x30000000 c g d a b) := rfl
  have ⟨hn, e0, e25, fc, fg, fd, fa, fb⟩ := fields_C31w1G21w4D15w6A9w6B3w6 0x30000000 c g d a b 0 24 (by decide) (by decide)
  generalize layC31w1G21w4D15w6A9w6B3w6 0x30000000 c g d a b = N at *
  refine roundTrip_row he hn (by rw [e25]; decide) ?_
  rw [row_18 e25]; simp [decodeMajor18, fc, fg, fd, fa, fb, e0, e25]

theorem RoundTrip.fsubS c g d a b : RoundTrip.Statement (.fsubS c g d a b) := by
  have he : encodeNat (.fsubS c g d a b) = some (layC31w1G21w4D15w6A9w6B3w6 0x30000001 c g d a b) := rfl
  have ⟨hn, e0, e25, fc, fg, fd, fa, fb⟩ := fields_C31w1G21w4D15w6A9w6B3w6 0x30000001 c g d a b 1 24 (by decide) (by decide)
  generalize layC31w1G21w4D15w6A9w6B3w6 0x30000001 c g d a b = N at *
  refine roundTrip_row he hn (by rw [e25]; decide) ?_
  rw [row_18 e25]; simp [decodeMajor18, fc, fg, fd, fa, fb, e0, e25]

theorem RoundTrip.fmulS c g d a b : RoundTrip.Statement (.fmulS c g d a b) := by
  have he : encodeNat (.fmulS c g d a b) = some (layC31w1G21w4D15w6A9w6B3w6 0x30000002 c g d a b) := rfl
  have ⟨hn, e0, e25, fc, fg, fd, fa, fb⟩ := fields_C31w1G21w4D15w6A9w6B3w6 0x30000002 c g d a b 2 24 (by decide) (by decide)
  generalize layC31w1G21w4D15w6A9w6B3w6 0x30000002 c g d a b = N at *
  refine roundTrip_row he hn (by rw [e25]; decide) ?_
  rw [row_18 e25]; simp [decodeMajor18, fc, fg, fd, fa, fb, e0, e25]

theorem RoundTrip.fdivS c g d a b : RoundTrip.Statement (.fdivS c g d a b) := by
  have he : encodeNat (.fdivS c g d a b) = some (layC31w1G21w4D15w6A9w6B3w6 0x30000003 c g d a b) := rfl
  have ⟨hn, e0, e25, fc, fg, fd, fa, fb⟩ := fields_C31w1G21w4D15w6A9w6B3w6 0x30000003 c g d a b 3 24 (by decide) (by decide)
  generalize layC31w1G21w4D15w6A9w6B3w6 0x30000003 c g d a b = N at *
  refine roundTrip_row he hn (by rw [e25]; decide) ?_
  rw [row_18 e25]; simp [decodeMajor18, fc, fg, fd, fa, fb, e0, e25]

theorem RoundTrip.fminS c g d a b : RoundTrip.Statement (.fminS c g d a b) := by
  have he : encodeNat (.fminS c g d a b) = some (layC31w1G21w4D15w6A9w6B3w6 0x30000004 c g d a b) := rfl
  have ⟨hn, e0, e25, fc, fg, fd, fa, fb⟩ := fields_C31w1G21w4D15w6A9w6B3w6 0x30000004 c g d a b 4 24 (by decide) (by decide)
  generalize layC31w1G21w4D15w6A9w6B3w6 0x30000004 c g d a b = N at *
  refine roundTrip_row he hn (by rw [e25]; decide) ?_
  rw [row_18 e25]; simp [decodeMajor18, fc, fg, fd, fa, fb, e0, e25]

theorem RoundTrip.fmaxS c g d a b : RoundTrip.Statement (.fmaxS c g d a b) := by
  have he : encodeNat (.fmaxS c g d a b) = some (layC31w1G21w4D15w6A9w6B3w6 0x30000005 c g d a b) := rfl
  have ⟨hn, e0, e25, fc, fg, fd, fa, fb⟩ := fields_C31w1G21w4D15w6A9w6B3w6 0x30000005 c g d a b 5 24 (by decide) (by decide)
  generalize layC31w1G21w4D15w6A9w6B3w6 0x30000005 c g d a b = N at *
  refine roundTrip_row he hn (by rw [e25]; decide) ?_
  rw [row_18 e25]; simp [decodeMajor18, fc, fg, fd, fa, fb, e0, e25]

theorem RoundTrip.fcpysS c g d a b : RoundTrip.Statement (.fcpysS c g d a b) := by
  have he : encodeNat (.fcpysS c g d a b) = some (layC31w1G21w4D15w6A9w6B3w6 0x30000006 c g d a b) := rfl
  have ⟨hn, e0, e25, fc, fg, fd, fa, fb⟩ := fields_C31w1G21w4D15w6A9w6B3w6 0x30000006 c g d a b 6 24 (by decide) (by decide)
  generalize layC31w1G21w4D15w6A9w6B3w6 0x30000006 c g d a b = N at *
  refine roundTrip_row he hn (by rw [e25]; decide) ?_
  rw [row_18 e25]; simp [decodeMajor18, fc, fg, fd, fa, fb, e0, e25]

theorem RoundTrip.faddD c g d a b : RoundTrip.Statement (.faddD c g d a b) := by
  have he : encodeNat (.faddD c g d a b) = some (layC31w1G21w4D15w6A9w6B3w6 0x32000000 c g d a b) := rfl
  have ⟨hn, e0, e25, fc, fg, fd, fa, fb⟩ := fields_C31w1G21w4D15w6A9w6B3w6 0x32000000 c g d a b 0 25 (by decide) (by decide)
  generalize layC31w1G21w4D15w6A9w6B3w6 0x32000000 c g d a b = N at *
  refine roundTrip_row he hn (by rw [e25]; decide) ?_
  rw [row_19 e25]; simp [decodeMajor19, fc, fg, fd, fa, fb, e0, e25]

theorem RoundTrip.fsubD c g d a b : RoundTrip.Statement (.fsubD c g d a b) := by
  have he : encodeNat (.fsubD c g d a b) = some (layC31w1G21w4D15w6A9w6B3w6 0x32000001 c g d a b) := rfl
  have ⟨hn, e0, e25, fc, fg, fd, fa, fb⟩ := fields_C31w1G21w4D15w6A9w6B3w6 0x32000001 c g d a b 1 25 (by decide) (by decide)
  generalize layC31w1G21w4D15w6A9w6B3w6 0x32000001 c g d a b = N at *
  refine roundTrip_row he hn (by rw [e25]; decide) ?_
  rw [row_19 e25]; simp [decodeMajor19, fc, fg, fd, fa, fb, e0, e25]

theorem RoundTrip.fmulD c g d a b : RoundTrip.Statement (.fmulD c g d a b) := by
  have he : encodeNat (.fmulD c g d a b) = some (layC31w1G21w4D15w6A9w6B3w6 0x32000002 c g d a b) := rfl
  have ⟨hn, e0, e25, fc, fg, fd, fa, fb⟩ := fields_C31w1G21w4D15w6A9w6B3w6 0x32000002 c g d a b 2 25 (by decide) (by decide)
  generalize layC31w1G21w4D15w6A9w6B3w6 0x32000002 c g d a b = N at *
  refine roundTrip_row he hn (by rw [e25]; decide) ?_
  rw [row_19 e25]; simp [decodeMajor19, fc, fg, fd, fa, fb, e0, e25]

theorem RoundTrip.fdivD c g d a b : RoundTrip.Statement (.fdivD c g d a b) := by
  have he : encodeNat (.fdivD c g d a b) = some (layC31w1G21w4D15w6A9w6B3w6 0x32000003 c g d a b) := rfl
  have ⟨hn, e0, e25, fc, fg, fd, fa, fb⟩ := fields_C31w1G21w4D15w6A9w6B3w6 0x32000003 c g d a b 3 25 (by decide) (by decide)
  generalize layC31w1G21w4D15w6A9w6B3w6 0x32000003 c g d a b = N at *
  refine roundTrip_row he hn (by rw [e25]; decide) ?_
  rw [row_19 e25]; simp [decodeMajor19, fc, fg, fd, fa, fb, e0, e25]

theorem RoundTrip.fminD c g d a b : RoundTrip.Statement (.fminD c g d a b) := by
  have he : encodeNat (.fminD c g d a b) = some (layC31w1G21w4D15w6A9w6B3w6 0x32000004 c g d a b) := rfl
  have ⟨hn, e0, e25, fc, fg, fd, fa, fb⟩ := fields_C31w1G21w4D15w6A9w6B3w6 0x32000004 c g d a b 4 25 (by decide) (by decide)
  generalize layC31w1G21w4D15w6A9w6B3w6 0x32000004 c g d a b = N at *
  refine roundTrip_row he hn (by rw [e25]; decide) ?_
  rw [row_19 e25]; simp [decodeMajor19, fc, fg, fd, fa, fb, e0, e25]

theorem RoundTrip.fmaxD c g d a b : RoundTrip.Statement (.fmaxD c g d a b) := by
  have he : encodeNat (.fmaxD c g d a b) = some (layC31w1G21w4D15w6A9w6B3w6 0x32000005 c g d a b) := rfl
  have ⟨hn, e0, e25, fc, fg, fd, fa, fb⟩ := fields_C31w1G21w4D15w6A9w6B3w6 0x32000005 c g d a b 5 25 (by decide) (by decide)
  generalize layC31w1G21w4D15w6A9w6B3w6 0x32000005 c g d a b = N at *
  refine roundTrip_row he hn (by rw [e25]; decide) ?_
  rw [row_19 e25]; simp [decodeMajor19, fc, fg, fd, fa, fb, e0, e25]

theorem RoundTrip.fcpysD c g d a b : RoundTrip.Statement (.fcpysD c g d a b) := by
  have he : encodeNat (.fcpysD c g d a b) = some (layC31w1G21w4D15w6A9w6B3w6 0x32000006 c g d a b) := rfl
  have ⟨hn, e0, e25, fc, fg, fd, fa, fb⟩ := fields_C31w1G21w4D15w6A9w6B3w6 0x32000006 c g d a b 6 25 (by decide) (by decide)
  generalize layC31w1G21w4D15w6A9w6B3w6 0x32000006 c g d a b = N at *
  refine roundTrip_row he hn (by rw [e25]; decide) ?_
  rw [row_19 e25]; simp [decodeMajor19, fc, fg, fd, fa, fb, e0, e25]

theorem RoundTrip.faddI c g d a b : RoundTrip.Statement (.faddI c g d a b) := by
  have he : encodeNat (.faddI c g d a b) = some (layC31w1G21w4D15w6A9w6B3w6 0x34000000 c g d a b) := rfl
  have ⟨hn, e0, e25, fc, fg, fd, fa, fb⟩ := fields_C31w1G21w4D15w6A9w6B3w6 0x34000000 c g d a b 0 26 (by decide) (by decide)
  generalize layC31w1G21w4D15w6A9w6B3w6 0x34000000 c g d a b = N at *
  refine roundTrip_row he hn (by rw [e25]; decide) ?_
  rw [row_1A e25]; simp [decodeMajor1A, fc, fg, fd, fa, fb, e0, e25]

theorem RoundTrip.fsubI c g d a b : RoundTrip.Statement (.fsubI c g d a b) := by
  have he : encodeNat (.fsubI c g d a b) = some (layC31w1G21w4D15w6A9w6B3w6 0x34000001 c g d a b) := rfl
  have ⟨hn, e0, e25, fc, fg, fd, fa, fb⟩ := fields_C31w1G21w4D15w6A9w6B3w6 0x34000001 c g d a b 1 26 (by decide) (by decide)
  generalize layC31w1G21w4D15w6A9w6B3w6 0x34000001 c g d a b = N at *
  refine roundTrip_row he hn (by rw [e25]; decide) ?_
  rw [row_1A e25]; simp [decodeMajor1A, fc, fg, fd, fa, fb, e0, e25]

theorem RoundTrip.fmulI c g d a b : RoundTrip.Statement (.fmulI c g d a b) := by
  have he : encodeNat (.fmulI c g d a b) = some (layC31w1G21w4D15w6A9w6B3w6 0x34000002 c g d a b) := rfl
  have ⟨hn, e0, e25, fc, fg, fd, fa, fb⟩ := fields_C31w1G21w4D15w6A9w6B3w6 0x34000002 c g d a b 2 26 (by decide) (by decide)
  generalize layC31w1G21w4D15w6A9w6B3w6 0x34000002 c g d a b = N at *
  refine roundTrip_row he hn (by rw [e25]; decide) ?_
  rw [row_1A e25]; simp [decodeMajor1A, fc, fg, fd, fa, fb, e0, e25]

theorem RoundTrip.fdivI c g d a b : RoundTrip.Statement (.fdivI c g d a b) := by
  have he : encodeNat (.fdivI c g d a b) = some (layC31w1G21w4D15w6A9w6B3w6 0x34000003 c g d a b) := rfl
  have ⟨hn, e0, e25, fc, fg, fd, fa, fb⟩ := fields_C31w1G21w4D15w6A9w6B3w6 0x34000003 c g d a b 3 26 (by decide) (by decide)
  generalize layC31w1G21w4D15w6A9w6B3w6 0x34000003 c g d a b = N at *
  refine roundTrip_row he hn (by rw [e25]; decide) ?_
  rw [row_1A e25]; simp [decodeMajor1A, fc, fg, fd, fa, fb, e0, e25]

theorem RoundTrip.fhullI c g d a b : RoundTrip.Statement (.fhullI c g d a b) := by
  have he : encodeNat (.fhullI c g d a b) = some (layC31w1G21w4D15w6A9w6B3w6 0x34000004 c g d a b) := rfl
  have ⟨hn, e0, e25, fc, fg, fd, fa, fb⟩ := fields_C31w1G21w4D15w6A9w6B3w6 0x34000004 c g d a b 4 26 (by decide) (by decide)
  generalize layC31w1G21w4D15w6A9w6B3w6 0x34000004 c g d a b = N at *
  refine roundTrip_row he hn (by rw [e25]; decide) ?_
  rw [row_1A e25]; simp [decodeMajor1A, fc, fg, fd, fa, fb, e0, e25]

theorem RoundTrip.fisectI c g d a b : RoundTrip.Statement (.fisectI c g d a b) := by
  have he : encodeNat (.fisectI c g d a b) = some (layC31w1G21w4D15w6A9w6B3w6 0x34000005 c g d a b) := rfl
  have ⟨hn, e0, e25, fc, fg, fd, fa, fb⟩ := fields_C31w1G21w4D15w6A9w6B3w6 0x34000005 c g d a b 5 26 (by decide) (by decide)
  generalize layC31w1G21w4D15w6A9w6B3w6 0x34000005 c g d a b = N at *
  refine roundTrip_row he hn (by rw [e25]; decide) ?_
  rw [row_1A e25]; simp [decodeMajor1A, fc, fg, fd, fa, fb, e0, e25]

theorem RoundTrip.fminI c g d a b : RoundTrip.Statement (.fminI c g d a b) := by
  have he : encodeNat (.fminI c g d a b) = some (layC31w1G21w4D15w6A9w6B3w6 0x34000006 c g d a b) := rfl
  have ⟨hn, e0, e25, fc, fg, fd, fa, fb⟩ := fields_C31w1G21w4D15w6A9w6B3w6 0x34000006 c g d a b 6 26 (by decide) (by decide)
  generalize layC31w1G21w4D15w6A9w6B3w6 0x34000006 c g d a b = N at *
  refine roundTrip_row he hn (by rw [e25]; decide) ?_
  rw [row_1A e25]; simp [decodeMajor1A, fc, fg, fd, fa, fb, e0, e25]

theorem RoundTrip.fmaxI c g d a b : RoundTrip.Statement (.fmaxI c g d a b) := by
  have he : encodeNat (.fmaxI c g d a b) = some (layC31w1G21w4D15w6A9w6B3w6 0x34000007 c g d a b) := rfl
  have ⟨hn, e0, e25, fc, fg, fd, fa, fb⟩ := fields_C31w1G21w4D15w6A9w6B3w6 0x34000007 c g d a b 7 26 (by decide) (by decide)
  generalize layC31w1G21w4D15w6A9w6B3w6 0x34000007 c g d a b = N at *
  refine roundTrip_row he hn (by rw [e25]; decide) ?_
  rw [row_1A e25]; simp [decodeMajor1A, fc, fg, fd, fa, fb, e0, e25]

theorem RoundTrip.faddJ c g d a b : RoundTrip.Statement (.faddJ c g d a b) := by
  have he : encodeNat (.faddJ c g d a b) = some (layC31w1G21w4D15w6A9w6B3w6 0x36000000 c g d a b) := rfl
  have ⟨hn, e0, e25, fc, fg, fd, fa, fb⟩ := fields_C31w1G21w4D15w6A9w6B3w6 0x36000000 c g d a b 0 27 (by decide) (by decide)
  generalize layC31w1G21w4D15w6A9w6B3w6 0x36000000 c g d a b = N at *
  refine roundTrip_row he hn (by rw [e25]; decide) ?_
  rw [row_1B e25]; simp [decodeMajor1B, fc, fg, fd, fa, fb, e0, e25]

theorem RoundTrip.fsubJ c g d a b : RoundTrip.Statement (.fsubJ c g d a b) := by
  have he : encodeNat (.fsubJ c g d a b) = some (layC31w1G21w4D15w6A9w6B3w6 0x36000001 c g d a b) := rfl
  have ⟨hn, e0, e25, fc, fg, fd, fa, fb⟩ := fields_C31w1G21w4D15w6A9w6B3w6 0x36000001 c g d a b 1 27 (by decide) (by decide)
  generalize layC31w1G21w4D15w6A9w6B3w6 0x36000001 c g d a b = N at *
  refine roundTrip_row he hn (by rw [e25]; decide) ?_
  rw [row_1B e25]; simp [decodeMajor1B, fc, fg, fd, fa, fb, e0, e25]

theorem RoundTrip.fmulJ c g d a b : RoundTrip.Statement (.fmulJ c g d a b) := by
  have he : encodeNat (.fmulJ c g d a b) = some (layC31w1G21w4D15w6A9w6B3w6 0x36000002 c g d a b) := rfl
  have ⟨hn, e0, e25, fc, fg, fd, fa, fb⟩ := fields_C31w1G21w4D15w6A9w6B3w6 0x36000002 c g d a b 2 27 (by decide) (by decide)
  generalize layC31w1G21w4D15w6A9w6B3w6 0x36000002 c g d a b = N at *
  refine roundTrip_row he hn (by rw [e25]; decide) ?_
  rw [row_1B e25]; simp [decodeMajor1B, fc, fg, fd, fa, fb, e0, e25]

theorem RoundTrip.fdivJ c g d a b : RoundTrip.Statement (.fdivJ c g d a b) := by
  have he : encodeNat (.fdivJ c g d a b) = some (layC31w1G21w4D15w6A9w6B3w6 0x36000003 c g d a b) := rfl
  have ⟨hn, e0, e25, fc, fg, fd, fa, fb⟩ := fields_C31w1G21w4D15w6A9w6B3w6 0x36000003 c g d a b 3 27 (by decide) (by decide)
  generalize layC31w1G21w4D15w6A9w6B3w6 0x36000003 c g d a b = N at *
  refine roundTrip_row he hn (by rw [e25]; decide) ?_
  rw [row_1B e25]; simp [decodeMajor1B, fc, fg, fd, fa, fb, e0, e25]

theorem RoundTrip.fhullJ c g d a b : RoundTrip.Statement (.fhullJ c g d a b) := by
  have he : encodeNat (.fhullJ c g d a b) = some (layC31w1G21w4D15w6A9w6B3w6 0x36000004 c g d a b) := rfl
  have ⟨hn, e0, e25, fc, fg, fd, fa, fb⟩ := fields_C31w1G21w4D15w6A9w6B3w6 0x36000004 c g d a b 4 27 (by decide) (by decide)
  generalize layC31w1G21w4D15w6A9w6B3w6 0x36000004 c g d a b = N at *
  refine roundTrip_row he hn (by rw [e25]; decide) ?_
  rw [row_1B e25]; simp [decodeMajor1B, fc, fg, fd, fa, fb, e0, e25]

theorem RoundTrip.fisectJ c g d a b : RoundTrip.Statement (.fisectJ c g d a b) := by
  have he : encodeNat (.fisectJ c g d a b) = some (layC31w1G21w4D15w6A9w6B3w6 0x36000005 c g d a b) := rfl
  have ⟨hn, e0, e25, fc, fg, fd, fa, fb⟩ := fields_C31w1G21w4D15w6A9w6B3w6 0x36000005 c g d a b 5 27 (by decide) (by decide)
  generalize layC31w1G21w4D15w6A9w6B3w6 0x36000005 c g d a b = N at *
  refine roundTrip_row he hn (by rw [e25]; decide) ?_
  rw [row_1B e25]; simp [decodeMajor1B, fc, fg, fd, fa, fb, e0, e25]

theorem RoundTrip.fminJ c g d a b : RoundTrip.Statement (.fminJ c g d a b) := by
  have he : encodeNat (.fminJ c g d a b) = some (layC31w1G21w4D15w6A9w6B3w6 0x36000006 c g d a b) := rfl
  have ⟨hn, e0, e25, fc, fg, fd, fa, fb⟩ := fields_C31w1G21w4D15w6A9w6B3w6 0x36000006 c g d a b 6 27 (by decide) (by decide)
  generalize layC31w1G21w4D15w6A9w6B3w6 0x36000006 c g d a b = N at *
  refine roundTrip_row he hn (by rw [e25]; decide) ?_
  rw [row_1B e25]; simp [decodeMajor1B, fc, fg, fd, fa, fb, e0, e25]

theorem RoundTrip.fmaxJ c g d a b : RoundTrip.Statement (.fmaxJ c g d a b) := by
  have he : encodeNat (.fmaxJ c g d a b) = some (layC31w1G21w4D15w6A9w6B3w6 0x36000007 c g d a b) := rfl
  have ⟨hn, e0, e25, fc, fg, fd, fa, fb⟩ := fields_C31w1G21w4D15w6A9w6B3w6 0x36000007 c g d a b 7 27 (by decide) (by decide)
  generalize layC31w1G21w4D15w6A9w6B3w6 0x36000007 c g d a b = N at *
  refine roundTrip_row he hn (by rw [e25]; decide) ?_
  rw [row_1B e25]; simp [decodeMajor1B, fc, fg, fd, fa, fb, e0, e25]

theorem RoundTrip.fpDivideSqrtComplete op : RoundTrip.Statement (.fpDivideSqrtComplete op) := roundTrip_event rfl

theorem RoundTrip.fmacS c g d a b : RoundTrip.Statement (.fmacS c g d a b) := by
  have he : encodeNat (.fmacS c g d a b) = some (layC31w1G21w4D15w6A9w6B3w6 0x38000000 c g d a b) := rfl
  have ⟨hn, e0, e25, fc, fg, fd, fa, fb⟩ := fields_C31w1G21w4D15w6A9w6B3w6 0x38000000 c g d a b 0 28 (by decide) (by decide)
  generalize layC31w1G21w4D15w6A9w6B3w6 0x38000000 c g d a b = N at *
  refine roundTrip_row he hn (by rw [e25]; decide) ?_
  rw [row_1C e25]; simp [decodeMajor1C, fc, fg, fd, fa, fb, e0, e25]

theorem RoundTrip.fmscS c g d a b : RoundTrip.Statement (.fmscS c g d a b) := by
  have he : encodeNat (.fmscS c g d a b) = some (layC31w1G21w4D15w6A9w6B3w6 0x38000001 c g d a b) := rfl
  have ⟨hn, e0, e25, fc, fg, fd, fa, fb⟩ := fields_C31w1G21w4D15w6A9w6B3w6 0x38000001 c g d a b 1 28 (by decide) (by decide)
  generalize layC31w1G21w4D15w6A9w6B3w6 0x38000001 c g d a b = N at *
  refine roundTrip_row he hn (by rw [e25]; decide) ?_
  rw [row_1C e25]; simp [decodeMajor1C, fc, fg, fd, fa, fb, e0, e25]

theorem RoundTrip.fnmacS c g d a b : RoundTrip.Statement (.fnmacS c g d a b) := by
  have he : encodeNat (.fnmacS c g d a b) = some (layC31w1G21w4D15w6A9w6B3w6 0x38000002 c g d a b) := rfl
  have ⟨hn, e0, e25, fc, fg, fd, fa, fb⟩ := fields_C31w1G21w4D15w6A9w6B3w6 0x38000002 c g d a b 2 28 (by decide) (by decide)
  generalize layC31w1G21w4D15w6A9w6B3w6 0x38000002 c g d a b = N at *
  refine roundTrip_row he hn (by rw [e25]; decide) ?_
  rw [row_1C e25]; simp [decodeMajor1C, fc, fg, fd, fa, fb, e0, e25]

theorem RoundTrip.fnmscS c g d a b : RoundTrip.Statement (.fnmscS c g d a b) := by
  have he : encodeNat (.fnmscS c g d a b) = some (layC31w1G21w4D15w6A9w6B3w6 0x38000003 c g d a b) := rfl
  have ⟨hn, e0, e25, fc, fg, fd, fa, fb⟩ := fields_C31w1G21w4D15w6A9w6B3w6 0x38000003 c g d a b 3 28 (by decide) (by decide)
  generalize layC31w1G21w4D15w6A9w6B3w6 0x38000003 c g d a b = N at *
  refine roundTrip_row he hn (by rw [e25]; decide) ?_
  rw [row_1C e25]; simp [decodeMajor1C, fc, fg, fd, fa, fb, e0, e25]

theorem RoundTrip.fmacD c g d a b : RoundTrip.Statement (.fmacD c g d a b) := by
  have he : encodeNat (.fmacD c g d a b) = some (layC31w1G21w4D15w6A9w6B3w6 0x38000004 c g d a b) := rfl
  have ⟨hn, e0, e25, fc, fg, fd, fa, fb⟩ := fields_C31w1G21w4D15w6A9w6B3w6 0x38000004 c g d a b 4 28 (by decide) (by decide)
  generalize layC31w1G21w4D15w6A9w6B3w6 0x38000004 c g d a b = N at *
  refine roundTrip_row he hn (by rw [e25]; decide) ?_
  rw [row_1C e25]; simp [decodeMajor1C, fc, fg, fd, fa, fb, e0, e25]

theorem RoundTrip.fmscD c g d a b : RoundTrip.Statement (.fmscD c g d a b) := by
  have he : encodeNat (.fmscD c g d a b) = some (layC31w1G21w4D15w6A9w6B3w6 0x38000005 c g d a b) := rfl
  have ⟨hn, e0, e25, fc, fg, fd, fa, fb⟩ := fields_C31w1G21w4D15w6A9w6B3w6 0x38000005 c g d a b 5 28 (by decide) (by decide)
  generalize layC31w1G21w4D15w6A9w6B3w6 0x38000005 c g d a b = N at *
  refine roundTrip_row he hn (by rw [e25]; decide) ?_
  rw [row_1C e25]; simp [decodeMajor1C, fc, fg, fd, fa, fb, e0, e25]

theorem RoundTrip.fnmacD c g d a b : RoundTrip.Statement (.fnmacD c g d a b) := by
  have he : encodeNat (.fnmacD c g d a b) = some (layC31w1G21w4D15w6A9w6B3w6 0x38000006 c g d a b) := rfl
  have ⟨hn, e0, e25, fc, fg, fd, fa, fb⟩ := fields_C31w1G21w4D15w6A9w6B3w6 0x38000006 c g d a b 6 28 (by decide) (by decide)
  generalize layC31w1G21w4D15w6A9w6B3w6 0x38000006 c g d a b = N at *
  refine roundTrip_row he hn (by rw [e25]; decide) ?_
  rw [row_1C e25]; simp [decodeMajor1C, fc, fg, fd, fa, fb, e0, e25]

theorem RoundTrip.fnmscD c g d a b : RoundTrip.Statement (.fnmscD c g d a b) := by
  have he : encodeNat (.fnmscD c g d a b) = some (layC31w1G21w4D15w6A9w6B3w6 0x38000007 c g d a b) := rfl
  have ⟨hn, e0, e25, fc, fg, fd, fa, fb⟩ := fields_C31w1G21w4D15w6A9w6B3w6 0x38000007 c g d a b 7 28 (by decide) (by decide)
  generalize layC31w1G21w4D15w6A9w6B3w6 0x38000007 c g d a b = N at *
  refine roundTrip_row he hn (by rw [e25]; decide) ?_
  rw [row_1C e25]; simp [decodeMajor1C, fc, fg, fd, fa, fb, e0, e25]

theorem RoundTrip.fmacI c g d a b : RoundTrip.Statement (.fmacI c g d a b) := by
  have he : encodeNat (.fmacI c g d a b) = some (layC31w1G21w4D15w6A9w6B3w6 0x3A000000 c g d a b) := rfl
  have ⟨hn, e0, e25, fc, fg, fd, fa, fb⟩ := fields_C31w1G21w4D15w6A9w6B3w6 0x3A000000 c g d a b 0 29 (by decide) (by decide)
  generalize layC31w1G21w4D15w6A9w6B3w6 0x3A000000 c g d a b = N at *
  refine roundTrip_row he hn (by rw [e25]; decide) ?_
  rw [row_1D e25]; simp [decodeMajor1D, fc, fg, fd, fa, fb, e0, e25]

theorem RoundTrip.fmscI c g d a b : RoundTrip.Statement (.fmscI c g d a b) := by
  have he : encodeNat (.fmscI c g d a b) = some (layC31w1G21w4D15w6A9w6B3w6 0x3A000001 c g d a b) := rfl
  have ⟨hn, e0, e25, fc, fg, fd, fa, fb⟩ := fields_C31w1G21w4D15w6A9w6B3w6 0x3A000001 c g d a b 1 29 (by decide) (by decide)
  generalize layC31w1G21w4D15w6A9w6B3w6 0x3A000001 c g d a b = N at *
  refine roundTrip_row he hn (by rw [e25]; decide) ?_
  rw [row_1D e25]; simp [decodeMajor1D, fc, fg, fd, fa, fb, e0, e25]

theorem RoundTrip.fnmacI c g d a b : RoundTrip.Statement (.fnmacI c g d a b) := by
  have he : encodeNat (.fnmacI c g d a b) = some (layC31w1G21w4D15w6A9w6B3w6 0x3A000002 c g d a b) := rfl
  have ⟨hn, e0, e25, fc, fg, fd, fa, fb⟩ := fields_C31w1G21w4D15w6A9w6B3w6 0x3A000002 c g d a b 2 29 (by decide) (by decide)
  generalize layC31w1G21w4D15w6A9w6B3w6 0x3A000002 c g d a b = N at *
  refine roundTrip_row he hn (by rw [e25]; decide) ?_
  rw [row_1D e25]; simp [decodeMajor1D, fc, fg, fd, fa, fb, e0, e25]

theorem RoundTrip.fnmscI c g d a b : RoundTrip.Statement (.fnmscI c g d a b) := by
  have he : encodeNat (.fnmscI c g d a b) = some (layC31w1G21w4D15w6A9w6B3w6 0x3A000003 c g d a b) := rfl
  have ⟨hn, e0, e25, fc, fg, fd, fa, fb⟩ := fields_C31w1G21w4D15w6A9w6B3w6 0x3A000003 c g d a b 3 29 (by decide) (by decide)
  generalize layC31w1G21w4D15w6A9w6B3w6 0x3A000003 c g d a b = N at *
  refine roundTrip_row he hn (by rw [e25]; decide) ?_
  rw [row_1D e25]; simp [decodeMajor1D, fc, fg, fd, fa, fb, e0, e25]

theorem RoundTrip.fmacJ c g d a b : RoundTrip.Statement (.fmacJ c g d a b) := by
  have he : encodeNat (.fmacJ c g d a b) = some (layC31w1G21w4D15w6A9w6B3w6 0x3A000004 c g d a b) := rfl
  have ⟨hn, e0, e25, fc, fg, fd, fa, fb⟩ := fields_C31w1G21w4D15w6A9w6B3w6 0x3A000004 c g d a b 4 29 (by decide) (by decide)
  generalize layC31w1G21w4D15w6A9w6B3w6 0x3A000004 c g d a b = N at *
  refine roundTrip_row he hn (by rw [e25]; decide) ?_
  rw [row_1D e25]; simp [decodeMajor1D, fc, fg, fd, fa, fb, e0, e25]

theorem RoundTrip.fmscJ c g d a b : RoundTrip.Statement (.fmscJ c g d a b) := by
  have he : encodeNat (.fmscJ c g d a b) = some (layC31w1G21w4D15w6A9w6B3w6 0x3A000005 c g d a b) := rfl
  have ⟨hn, e0, e25, fc, fg, fd, fa, fb⟩ := fields_C31w1G21w4D15w6A9w6B3w6 0x3A000005 c g d a b 5 29 (by decide) (by decide)
  generalize layC31w1G21w4D15w6A9w6B3w6 0x3A000005 c g d a b = N at *
  refine roundTrip_row he hn (by rw [e25]; decide) ?_
  rw [row_1D e25]; simp [decodeMajor1D, fc, fg, fd, fa, fb, e0, e25]

theorem RoundTrip.fnmacJ c g d a b : RoundTrip.Statement (.fnmacJ c g d a b) := by
  have he : encodeNat (.fnmacJ c g d a b) = some (layC31w1G21w4D15w6A9w6B3w6 0x3A000006 c g d a b) := rfl
  have ⟨hn, e0, e25, fc, fg, fd, fa, fb⟩ := fields_C31w1G21w4D15w6A9w6B3w6 0x3A000006 c g d a b 6 29 (by decide) (by decide)
  generalize layC31w1G21w4D15w6A9w6B3w6 0x3A000006 c g d a b = N at *
  refine roundTrip_row he hn (by rw [e25]; decide) ?_
  rw [row_1D e25]; simp [decodeMajor1D, fc, fg, fd, fa, fb, e0, e25]

theorem RoundTrip.fnmscJ c g d a b : RoundTrip.Statement (.fnmscJ c g d a b) := by
  have he : encodeNat (.fnmscJ c g d a b) = some (layC31w1G21w4D15w6A9w6B3w6 0x3A000007 c g d a b) := rfl
  have ⟨hn, e0, e25, fc, fg, fd, fa, fb⟩ := fields_C31w1G21w4D15w6A9w6B3w6 0x3A000007 c g d a b 7 29 (by decide) (by decide)
  generalize layC31w1G21w4D15w6A9w6B3w6 0x3A000007 c g d a b = N at *
  refine roundTrip_row he hn (by rw [e25]; decide) ?_
  rw [row_1D e25]; simp [decodeMajor1D, fc, fg, fd, fa, fb, e0, e25]

theorem RoundTrip.fabsS c g d a : RoundTrip.Statement (.fabsS c g d a) := by
  have he : encodeNat (.fabsS c g d a) = some (layC31w1G21w4D15w6A9w6 0x3C000000 c g d a) := rfl
  have ⟨hn, e0, e25, fc, fg, fd, fa⟩ := fields_C31w1G21w4D15w6A9w6 0x3C000000 c g d a 0 30 (by decide) (by decide)
  generalize layC31w1G21w4D15w6A9w6 0x3C000000 c g d a = N at *
  refine roundTrip_row he hn (by rw [e25]; decide) ?_
  rw [row_1E e25]; simp [decodeMajor1E, fc, fg, fd, fa, e0, e25]

theorem RoundTrip.fnegS c g d a : RoundTrip.Statement (.fnegS c g d a) := by
  have he : encodeNat (.fnegS c g d a) = some (layC31w1G21w4D15w6A9w6 0x3C000001 c g d a) := rfl
  have ⟨hn, e0, e25, fc, fg, fd, fa⟩ := fields_C31w1G21w4D15w6A9w6 0x3C000001 c g d a 1 30 (by decide) (by decide)
  generalize layC31w1G21w4D15w6A9w6 0x3C000001 c g d a = N at *
  refine roundTrip_row he hn (by rw [e25]; decide) ?_
  rw [row_1E e25]; simp [decodeMajor1E, fc, fg, fd, fa, e0, e25]

theorem RoundTrip.fsqrtS c g d a : RoundTrip.Statement (.fsqrtS c g d a) := by
  have he : encodeNat (.fsqrtS c g d a) = some (layC31w1G21w4D15w6A9w6 0x3C000002 c g d a) := rfl
  have ⟨hn, e0, e25, fc, fg, fd, fa⟩ := fields_C31w1G21w4D15w6A9w6 0x3C000002 c g d a 2 30 (by decide) (by decide)
  generalize layC31w1G21w4D15w6A9w6 0x3C000002 c g d a = N at *
  refine roundTrip_row he hn (by rw [e25]; decide) ?_
  rw [row_1E e25]; simp [decodeMajor1E, fc, fg, fd, fa, e0, e25]

theorem RoundTrip.frcpS c g d a : RoundTrip.Statement (.frcpS c g d a) := by
  have he : encodeNat (.frcpS c g d a) = some (layC31w1G21w4D15w6A9w6 0x3C000003 c g d a) := rfl
  have ⟨hn, e0, e25, fc, fg, fd, fa⟩ := fields_C31w1G21w4D15w6A9w6 0x3C000003 c g d a 3 30 (by decide) (by decide)
  generalize layC31w1G21w4D15w6A9w6 0x3C000003 c g d a = N at *
  refine roundTrip_row he hn (by rw [e25]; decide) ?_
  rw [row_1E e25]; simp [decodeMajor1E, fc, fg, fd, fa, e0, e25]

theorem RoundTrip.frsqS c g d a : RoundTrip.Statement (.frsqS c g d a) := by
  have he : encodeNat (.frsqS c g d a) = some (layC31w1G21w4D15w6A9w6 0x3C000004 c g d a) := rfl
  have ⟨hn, e0, e25, fc, fg, fd, fa⟩ := fields_C31w1G21w4D15w6A9w6 0x3C000004 c g d a 4 30 (by decide) (by decide)
  generalize layC31w1G21w4D15w6A9w6 0x3C000004 c g d a = N at *
  refine roundTrip_row he hn (by rw [e25]; decide) ?_
  rw [row_1E e25]; simp [decodeMajor1E, fc, fg, fd, fa, e0, e25]

theorem RoundTrip.fexp2S c g d a : RoundTrip.Statement (.fexp2S c g d a) := by
  have he : encodeNat (.fexp2S c g d a) = some (layC31w1G21w4D15w6A9w6 0x3C000005 c g d a) := rfl
  have ⟨hn, e0, e25, fc, fg, fd, fa⟩ := fields_C31w1G21w4D15w6A9w6 0x3C000005 c g d a 5 30 (by decide) (by decide)
  generalize layC31w1G21w4D15w6A9w6 0x3C000005 c g d a = N at *
  refine roundTrip_row he hn (by rw [e25]; decide) ?_
  rw [row_1E e25]; simp [decodeMajor1E, fc, fg, fd, fa, e0, e25]

theorem RoundTrip.flog2S c g d a : RoundTrip.Statement (.flog2S c g d a) := by
  have he : encodeNat (.flog2S c g d a) = some (layC31w1G21w4D15w6A9w6 0x3C000006 c g d a) := rfl
  have ⟨hn, e0, e25, fc, fg, fd, fa⟩ := fields_C31w1G21w4D15w6A9w6 0x3C000006 c g d a 6 30 (by decide) (by decide)
  generalize layC31w1G21w4D15w6A9w6 0x3C000006 c g d a = N at *
  refine roundTrip_row he hn (by rw [e25]; decide) ?_
  rw [row_1E e25]; simp [decodeMajor1E, fc, fg, fd, fa, e0, e25]

theorem RoundTrip.fsinS c g d a : RoundTrip.Statement (.fsinS c g d a) := by
  have he : encodeNat (.fsinS c g d a) = some (layC31w1G21w4D15w6A9w6 0x3C000007 c g d a) := rfl
  have ⟨hn, e0, e25, fc, fg, fd, fa⟩ := fields_C31w1G21w4D15w6A9w6 0x3C000007 c g d a 7 30 (by decide) (by decide)
  generalize layC31w1G21w4D15w6A9w6 0x3C000007 c g d a = N at *
  refine roundTrip_row he hn (by rw [e25]; decide) ?_
  rw [row_1E e25]; simp [decodeMajor1E, fc, fg, fd, fa, e0, e25]

theorem RoundTrip.fcosS c g d a : RoundTrip.Statement (.fcosS c g d a) := by
  have he : encodeNat (.fcosS c g d a) = some (layC31w1G21w4D15w6A9w6 0x3C000008 c g d a) := rfl
  have ⟨hn, e0, e25, fc, fg, fd, fa⟩ := fields_C31w1G21w4D15w6A9w6 0x3C000008 c g d a 8 30 (by decide) (by decide)
  generalize layC31w1G21w4D15w6A9w6 0x3C000008 c g d a = N at *
  refine roundTrip_row he hn (by rw [e25]; decide) ?_
  rw [row_1E e25]; simp [decodeMajor1E, fc, fg, fd, fa, e0, e25]

theorem RoundTrip.frndS c g d a : RoundTrip.Statement (.frndS c g d a) := by
  have he : encodeNat (.frndS c g d a) = some (layC31w1G21w4D15w6A9w6 0x3C000009 c g d a) := rfl
  have ⟨hn, e0, e25, fc, fg, fd, fa⟩ := fields_C31w1G21w4D15w6A9w6 0x3C000009 c g d a 9 30 (by decide) (by decide)
  generalize layC31w1G21w4D15w6A9w6 0x3C000009 c g d a = N at *
  refine roundTrip_row he hn (by rw [e25]; decide) ?_
  rw [row_1E e25]; simp [decodeMajor1E, fc, fg, fd, fa, e0, e25]

theorem RoundTrip.fclassS c g d a : RoundTrip.Statement (.fclassS c g d a) := by
  have he : encodeNat (.fclassS c g d a) = some (layC31w1G21w4D15w6A9w6 0x3C00000A c g d a) := rfl
  have ⟨hn, e0, e25, fc, fg, fd, fa⟩ := fields_C31w1G21w4D15w6A9w6 0x3C00000A c g d a 10 30 (by decide) (by decide)
  generalize layC31w1G21w4D15w6A9w6 0x3C00000A c g d a = N at *
  refine roundTrip_row he hn (by rw [e25]; decide) ?_
  rw [row_1E e25]; simp [decodeMajor1E, fc, fg, fd, fa, e0, e25]

theorem RoundTrip.fabsD c g d a : RoundTrip.Statement (.fabsD c g d a) := by
  have he : encodeNat (.fabsD c g d a) = some (layC31w1G21w4D15w6A9w6 0x3C000010 c g d a) := rfl
  have ⟨hn, e0, e25, fc, fg, fd, fa⟩ := fields_C31w1G21w4D15w6A9w6 0x3C000010 c g d a 16 30 (by decide) (by decide)
  generalize layC31w1G21w4D15w6A9w6 0x3C000010 c g d a = N at *
  refine roundTrip_row he hn (by rw [e25]; decide) ?_
  rw [row_1E e25]; simp [decodeMajor1E, fc, fg, fd, fa, e0, e25]

theorem RoundTrip.fnegD c g d a : RoundTrip.Statement (.fnegD c g d a) := by
  have he : encodeNat (.fnegD c g d a) = some (layC31w1G21w4D15w6A9w6 0x3C000011 c g d a) := rfl
  have ⟨hn, e0, e25, fc, fg, fd, fa⟩ := fields_C31w1G21w4D15w6A9w6 0x3C000011 c g d a 17 30 (by decide) (by decide)
  generalize layC31w1G21w4D15w6A9w6 0x3C000011 c g d a = N at *
  refine roundTrip_row he hn (by rw [e25]; decide) ?_
  rw [row_1E e25]; simp [decodeMajor1E, fc, fg, fd, fa, e0, e25]

theorem RoundTrip.fsqrtD c g d a : RoundTrip.Statement (.fsqrtD c g d a) := by
  have he : encodeNat (.fsqrtD c g d a) = some (layC31w1G21w4D15w6A9w6 0x3C000012 c g d a) := rfl
  have ⟨hn, e0, e25, fc, fg, fd, fa⟩ := fields_C31w1G21w4D15w6A9w6 0x3C000012 c g d a 18 30 (by decide) (by decide)
  generalize layC31w1G21w4D15w6A9w6 0x3C000012 c g d a = N at *
  refine roundTrip_row he hn (by rw [e25]; decide) ?_
  rw [row_1E e25]; simp [decodeMajor1E, fc, fg, fd, fa, e0, e25]

theorem RoundTrip.frcpD c g d a : RoundTrip.Statement (.frcpD c g d a) := by
  have he : encodeNat (.frcpD c g d a) = some (layC31w1G21w4D15w6A9w6 0x3C000013 c g d a) := rfl
  have ⟨hn, e0, e25, fc, fg, fd, fa⟩ := fields_C31w1G21w4D15w6A9w6 0x3C000013 c g d a 19 30 (by decide) (by decide)
  generalize layC31w1G21w4D15w6A9w6 0x3C000013 c g d a = N at *
  refine roundTrip_row he hn (by rw [e25]; decide) ?_
  rw [row_1E e25]; simp [decodeMajor1E, fc, fg, fd, fa, e0, e25]

theorem RoundTrip.frsqD c g d a : RoundTrip.Statement (.frsqD c g d a) := by
  have he : encodeNat (.frsqD c g d a) = some (layC31w1G21w4D15w6A9w6 0x3C000014 c g d a) := rfl
  have ⟨hn, e0, e25, fc, fg, fd, fa⟩ := fields_C31w1G21w4D15w6A9w6 0x3C000014 c g d a 20 30 (by decide) (by decide)
  generalize layC31w1G21w4D15w6A9w6 0x3C000014 c g d a = N at *
  refine roundTrip_row he hn (by rw [e25]; decide) ?_
  rw [row_1E e25]; simp [decodeMajor1E, fc, fg, fd, fa, e0, e25]

theorem RoundTrip.fexp2D c g d a : RoundTrip.Statement (.fexp2D c g d a) := by
  have he : encodeNat (.fexp2D c g d a) = some (layC31w1G21w4D15w6A9w6 0x3C000015 c g d a) := rfl
  have ⟨hn, e0, e25, fc, fg, fd, fa⟩ := fields_C31w1G21w4D15w6A9w6 0x3C000015 c g d a 21 30 (by decide) (by decide)
  generalize layC31w1G21w4D15w6A9w6 0x3C000015 c g d a = N at *
  refine roundTrip_row he hn (by rw [e25]; decide) ?_
  rw [row_1E e25]; simp [decodeMajor1E, fc, fg, fd, fa, e0, e25]

theorem RoundTrip.flog2D c g d a : RoundTrip.Statement (.flog2D c g d a) := by
  have he : encodeNat (.flog2D c g d a) = some (layC31w1G21w4D15w6A9w6 0x3C000016 c g d a) := rfl
  have ⟨hn, e0, e25, fc, fg, fd, fa⟩ := fields_C31w1G21w4D15w6A9w6 0x3C000016 c g d a 22 30 (by decide) (by decide)
  generalize layC31w1G21w4D15w6A9w6 0x3C000016 c g d a = N at *
  refine roundTrip_row he hn (by rw [e25]; decide) ?_
  rw [row_1E e25]; simp [decodeMajor1E, fc, fg, fd, fa, e0, e25]

theorem RoundTrip.fsinD c g d a : RoundTrip.Statement (.fsinD c g d a) := by
  have he : encodeNat (.fsinD c g d a) = some (layC31w1G21w4D15w6A9w6 0x3C000017 c g d a) := rfl
  have ⟨hn, e0, e25, fc, fg, fd, fa⟩ := fields_C31w1G21w4D15w6A9w6 0x3C000017 c g d a 23 30 (by decide) (by decide)
  generalize layC31w1G21w4D15w6A9w6 0x3C000017 c g d a = N at *
  refine roundTrip_row he hn (by rw [e25]; decide) ?_
  rw [row_1E e25]; simp [decodeMajor1E, fc, fg, fd, fa, e0, e25]

theorem RoundTrip.fcosD c g d a : RoundTrip.Statement (.fcosD c g d a) := by
  have he : encodeNat (.fcosD c g d a) = some (layC31w1G21w4D15w6A9w6 0x3C000018 c g d a) := rfl
  have ⟨hn, e0, e25, fc, fg, fd, fa⟩ := fields_C31w1G21w4D15w6A9w6 0x3C000018 c g d a 24 30 (by decide) (by decide)
  generalize layC31w1G21w4D15w6A9w6 0x3C000018 c g d a = N at *
  refine roundTrip_row he hn (by rw [e25]; decide) ?_
  rw [row_1E e25]; simp [decodeMajor1E, fc, fg, fd, fa, e0, e25]

theorem RoundTrip.frndD c g d a : RoundTrip.Statement (.frndD c g d a) := by
  have he : encodeNat (.frndD c g d a) = some (layC31w1G21w4D15w6A9w6 0x3C000019 c g d a) := rfl
  have ⟨hn, e0, e25, fc, fg, fd, fa⟩ := fields_C31w1G21w4D15w6A9w6 0x3C000019 c g d a 25 30 (by decide) (by decide)
  generalize layC31w1G21w4D15w6A9w6 0x3C000019 c g d a = N at *
  refine roundTrip_row he hn (by rw [e25]; decide) ?_
  rw [row_1E e25]; simp [decodeMajor1E, fc, fg, fd, fa, e0, e25]

theorem RoundTrip.fclassD c g d a : RoundTrip.Statement (.fclassD c g d a) := by
  have he : encodeNat (.fclassD c g d a) = some (layC31w1G21w4D15w6A9w6 0x3C00001A c g d a) := rfl
  have ⟨hn, e0, e25, fc, fg, fd, fa⟩ := fields_C31w1G21w4D15w6A9w6 0x3C00001A c g d a 26 30 (by decide) (by decide)
  generalize layC31w1G21w4D15w6A9w6 0x3C00001A c g d a = N at *
  refine roundTrip_row he hn (by rw [e25]; decide) ?_
  rw [row_1E e25]; simp [decodeMajor1E, fc, fg, fd, fa, e0, e25]

theorem RoundTrip.fcvtFloat c g d a x y : RoundTrip.Statement (.fcvtFloat c g d a x y) := by
  have he : encodeNat (.fcvtFloat c g d a x y) = some (layC31w1G21w4D15w6A9w6X3w3Y0w3 0x3E000000 c g d a x y) := rfl
  have ⟨hn, e6, e25, fc, fg, fd, fa, fx, fy⟩ := fields_C31w1G21w4D15w6A9w6X3w3Y0w3 0x3E000000 c g d a x y 0 31 (by decide) (by decide)
  generalize layC31w1G21w4D15w6A9w6X3w3Y0w3 0x3E000000 c g d a x y = N at *
  refine roundTrip_row he hn (by rw [e25]; decide) ?_
  rw [row_1F e25]; simp [decodeMajor1F, fc, fg, fd, fa, fx, fy, e6, e25]

theorem RoundTrip.fcvtToInt c g d a x y : RoundTrip.Statement (.fcvtToInt c g d a x y) := by
  have he : encodeNat (.fcvtToInt c g d a x y) = some (layC31w1G21w4D15w6A9w6X3w3Y0w3 0x3E000040 c g d a x y) := rfl
  have ⟨hn, e6, e25, fc, fg, fd, fa, fx, fy⟩ := fields_C31w1G21w4D15w6A9w6X3w3Y0w3 0x3E000040 c g d a x y 1 31 (by decide) (by decide)
  generalize layC31w1G21w4D15w6A9w6X3w3Y0w3 0x3E000040 c g d a x y = N at *
  refine roundTrip_row he hn (by rw [e25]; decide) ?_
  rw [row_1F e25]; simp [decodeMajor1F, fc, fg, fd, fa, fx, fy, e6, e25]

theorem RoundTrip.fcvtFromInt c g d a x y : RoundTrip.Statement (.fcvtFromInt c g d a x y) := by
  have he : encodeNat (.fcvtFromInt c g d a x y) = some (layC31w1G21w4D15w6A9w6X3w3Y0w3 0x3E000080 c g d a x y) := rfl
  have ⟨hn, e6, e25, fc, fg, fd, fa, fx, fy⟩ := fields_C31w1G21w4D15w6A9w6X3w3Y0w3 0x3E000080 c g d a x y 2 31 (by decide) (by decide)
  generalize layC31w1G21w4D15w6A9w6X3w3Y0w3 0x3E000080 c g d a x y = N at *
  refine roundTrip_row he hn (by rw [e25]; decide) ?_
  rw [row_1F e25]; simp [decodeMajor1F, fc, fg, fd, fa, fx, fy, e6, e25]

theorem RoundTrip.fcvtz c g d a x y : RoundTrip.Statement (.fcvtz c g d a x y) := by
  have he : encodeNat (.fcvtz c g d a x y) = some (layC31w1G21w4D15w6A9w6X3w3Y0w3 0x3E000100 c g d a x y) := rfl
  have ⟨hn, e6, e25, fc, fg, fd, fa, fx, fy⟩ := fields_C31w1G21w4D15w6A9w6X3w3Y0w3 0x3E000100 c g d a x y 4 31 (by decide) (by decide)
  generalize layC31w1G21w4D15w6A9w6X3w3Y0w3 0x3E000100 c g d a x y = N at *
  refine roundTrip_row he hn (by rw [e25]; decide) ?_
  rw [row_1F e25]; simp [decodeMajor1F, fc, fg, fd, fa, fx, fy, e6, e25]

theorem RoundTrip.fmovGf c g d a : RoundTrip.Statement (.fmovGf c g d a) := by
  have he : encodeNat (.fmovGf c g d a) = some (layC31w1G21w4D15w6A9w6 0x3E0000C0 c g d a) := rfl
  have ⟨hn, e0, e25, fc, fg, fd, fa⟩ := fields_C31w1G21w4D15w6A9w6 0x3E0000C0 c g d a 192 31 (by decide) (by decide)
  generalize layC31w1G21w4D15w6A9w6 0x3E0000C0 c g d a = N at *
  have t6_3 : fld N 6 3 = 3 := sub_eq (lo := 0) (a := 6) e0 (by decide)
  refine roundTrip_row he hn (by rw [e25]; decide) ?_
  rw [row_1F e25]; simp [decodeMajor1F, fc, fg, fd, fa, t6_3, e0, e25]

theorem RoundTrip.fmovFg c g d a : RoundTrip.Statement (.fmovFg c g d a) := by
  have he : encodeNat (.fmovFg c g d a) = some (layC31w1G21w4D15w6A9w6 0x3E0000C1 c g d a) := rfl
  have ⟨hn, e0, e25, fc, fg, fd, fa⟩ := fields_C31w1G21w4D15w6A9w6 0x3E0000C1 c g d a 193 31 (by decide) (by decide)
  generalize layC31w1G21w4D15w6A9w6 0x3E0000C1 c g d a = N at *
  have t6_3 : fld N 6 3 = 3 := sub_eq (lo := 0) (a := 6) e0 (by decide)
  refine roundTrip_row he hn (by rw [e25]; decide) ?_
  rw [row_1F e25]; simp [decodeMajor1F, fc, fg, fd, fa, t6_3, e0, e25]

theorem RoundTrip.iptS c g d a : RoundTrip.Statement (.iptS c g d a) := by
  have he : encodeNat (.iptS c g d a) = some (layC31w1G21w4D15w6A9w6 0x3E0000C2 c g d a) := rfl
  have ⟨hn, e0, e25, fc, fg, fd, fa⟩ := fields_C31w1G21w4D15w6A9w6 0x3E0000C2 c g d a 194 31 (by decide) (by decide)
  generalize layC31w1G21w4D15w6A9w6 0x3E0000C2 c g d a = N at *
  have t6_3 : fld N 6 3 = 3 := sub_eq (lo := 0) (a := 6) e0 (by decide)
  refine roundTrip_row he hn (by rw [e25]; decide) ?_
  rw [row_1F e25]; simp [decodeMajor1F, fc, fg, fd, fa, t6_3, e0, e25]

theorem RoundTrip.iptD c g d a : RoundTrip.Statement (.iptD c g d a) := by
  have he : encodeNat (.iptD c g d a) = some (layC31w1G21w4D15w6A9w6 0x3E0000C3 c g d a) := rfl
  have ⟨hn, e0, e25, fc, fg, fd, fa⟩ := fields_C31w1G21w4D15w6A9w6 0x3E0000C3 c g d a 195 31 (by decide) (by decide)
  generalize layC31w1G21w4D15w6A9w6 0x3E0000C3 c g d a = N at *
  have t6_3 : fld N 6 3 = 3 := sub_eq (lo := 0) (a := 6) e0 (by decide)
  refine roundTrip_row he hn (by rw [e25]; decide) ?_
  rw [row_1F e25]; simp [decodeMajor1F, fc, fg, fd, fa, t6_3, e0, e25]

theorem RoundTrip.iloI c g d a : RoundTrip.Statement (.iloI c g d a) := by
  have he : encodeNat (.iloI c g d a) = some (layC31w1G21w4D15w6A9w6 0x3E0000C4 c g d a) := rfl
  have ⟨hn, e0, e25, fc, fg, fd, fa⟩ := fields_C31w1G21w4D15w6A9w6 0x3E0000C4 c g d a 196 31 (by decide) (by decide)
  generalize layC31w1G21w4D15w6A9w6 0x3E0000C4 c g d a = N at *
  have t6_3 : fld N 6 3 = 3 := sub_eq (lo := 0) (a := 6) e0 (by decide)
  refine roundTrip_row he hn (by rw [e25]; decide) ?_
  rw [row_1F e25]; simp [decodeMajor1F, fc, fg, fd, fa, t6_3, e0, e25]

theorem RoundTrip.ihiI c g d a : RoundTrip.Statement (.ihiI c g d a) := by
  have he : encodeNat (.ihiI c g d a) = some (layC31w1G21w4D15w6A9w6 0x3E0000C5 c g d a) := rfl
  have ⟨hn, e0, e25, fc, fg, fd, fa⟩ := fields_C31w1G21w4D15w6A9w6 0x3E0000C5 c g d a 197 31 (by decide) (by decide)
  generalize layC31w1G21w4D15w6A9w6 0x3E0000C5 c g d a = N at *
  have t6_3 : fld N 6 3 = 3 := sub_eq (lo := 0) (a := 6) e0 (by decide)
  refine roundTrip_row he hn (by rw [e25]; decide) ?_
  rw [row_1F e25]; simp [decodeMajor1F, fc, fg, fd, fa, t6_3, e0, e25]

theorem RoundTrip.imidI c g d a : RoundTrip.Statement (.imidI c g d a) := by
  have he : encodeNat (.imidI c g d a) = some (layC31w1G21w4D15w6A9w6 0x3E0000C6 c g d a) := rfl
  have ⟨hn, e0, e25, fc, fg, fd, fa⟩ := fields_C31w1G21w4D15w6A9w6 0x3E0000C6 c g d a 198 31 (by decide) (by decide)
  generalize layC31w1G21w4D15w6A9w6 0x3E0000C6 c g d a = N at *
  have t6_3 : fld N 6 3 = 3 := sub_eq (lo := 0) (a := 6) e0 (by decide)
  refine roundTrip_row he hn (by rw [e25]; decide) ?_
  rw [row_1F e25]; simp [decodeMajor1F, fc, fg, fd, fa, t6_3, e0, e25]

theorem RoundTrip.iwidI c g d a : RoundTrip.Statement (.iwidI c g d a) := by
  have he : encodeNat (.iwidI c g d a) = some (layC31w1G21w4D15w6A9w6 0x3E0000C7 c g d a) := rfl
  have ⟨hn, e0, e25, fc, fg, fd, fa⟩ := fields_C31w1G21w4D15w6A9w6 0x3E0000C7 c g d a 199 31 (by decide) (by decide)
  generalize layC31w1G21w4D15w6A9w6 0x3E0000C7 c g d a = N at *
  have t6_3 : fld N 6 3 = 3 := sub_eq (lo := 0) (a := 6) e0 (by decide)
  refine roundTrip_row he hn (by rw [e25]; decide) ?_
  rw [row_1F e25]; simp [decodeMajor1F, fc, fg, fd, fa, t6_3, e0, e25]

theorem RoundTrip.iloJ c g d a : RoundTrip.Statement (.iloJ c g d a) := by
  have he : encodeNat (.iloJ c g d a) = some (layC31w1G21w4D15w6A9w6 0x3E0000C8 c g d a) := rfl
  have ⟨hn, e0, e25, fc, fg, fd, fa⟩ := fields_C31w1G21w4D15w6A9w6 0x3E0000C8 c g d a 200 31 (by decide) (by decide)
  generalize layC31w1G21w4D15w6A9w6 0x3E0000C8 c g d a = N at *
  have t6_3 : fld N 6 3 = 3 := sub_eq (lo := 0) (a := 6) e0 (by decide)
  refine roundTrip_row he hn (by rw [e25]; decide) ?_
  rw [row_1F e25]; simp [decodeMajor1F, fc, fg, fd, fa, t6_3, e0, e25]

theorem RoundTrip.ihiJ c g d a : RoundTrip.Statement (.ihiJ c g d a) := by
  have he : encodeNat (.ihiJ c g d a) = some (layC31w1G21w4D15w6A9w6 0x3E0000C9 c g d a) := rfl
  have ⟨hn, e0, e25, fc, fg, fd, fa⟩ := fields_C31w1G21w4D15w6A9w6 0x3E0000C9 c g d a 201 31 (by decide) (by decide)
  generalize layC31w1G21w4D15w6A9w6 0x3E0000C9 c g d a = N at *
  have t6_3 : fld N 6 3 = 3 := sub_eq (lo := 0) (a := 6) e0 (by decide)
  refine roundTrip_row he hn (by rw [e25]; decide) ?_
  rw [row_1F e25]; simp [decodeMajor1F, fc, fg, fd, fa, t6_3, e0, e25]

theorem RoundTrip.imidJ c g d a : RoundTrip.Statement (.imidJ c g d a) := by
  have he : encodeNat (.imidJ c g d a) = some (layC31w1G21w4D15w6A9w6 0x3E0000CA c g d a) := rfl
  have ⟨hn, e0, e25, fc, fg, fd, fa⟩ := fields_C31w1G21w4D15w6A9w6 0x3E0000CA c g d a 202 31 (by decide) (by decide)
  generalize layC31w1G21w4D15w6A9w6 0x3E0000CA c g d a = N at *
  have t6_3 : fld N 6 3 = 3 := sub_eq (lo := 0) (a := 6) e0 (by decide)
  refine roundTrip_row he hn (by rw [e25]; decide) ?_
  rw [row_1F e25]; simp [decodeMajor1F, fc, fg, fd, fa, t6_3, e0, e25]

theorem RoundTrip.iwidJ c g d a : RoundTrip.Statement (.iwidJ c g d a) := by
  have he : encodeNat (.iwidJ c g d a) = some (layC31w1G21w4D15w6A9w6 0x3E0000CB c g d a) := rfl
  have ⟨hn, e0, e25, fc, fg, fd, fa⟩ := fields_C31w1G21w4D15w6A9w6 0x3E0000CB c g d a 203 31 (by decide) (by decide)
  generalize layC31w1G21w4D15w6A9w6 0x3E0000CB c g d a = N at *
  have t6_3 : fld N 6 3 = 3 := sub_eq (lo := 0) (a := 6) e0 (by decide)
  refine roundTrip_row he hn (by rw [e25]; decide) ?_
  rw [row_1F e25]; simp [decodeMajor1F, fc, fg, fd, fa, t6_3, e0, e25]

theorem RoundTrip.fcmpEqS c g p t a b : RoundTrip.Statement (.fcmpEqS c g p t a b) := by
  have he : encodeNat (.fcmpEqS c g p t a b) = some (layC31w1G21w4P19w2T16w3A6w6B0w6 0x40000000 c g p t a b) := rfl
  have ⟨hn, e12, e25, fc, fg, fp, ft, fa, fb⟩ := fields_C31w1G21w4P19w2T16w3A6w6B0w6 0x40000000 c g p t a b 0 32 (by decide) (by decide)
  generalize layC31w1G21w4P19w2T16w3A6w6B0w6 0x40000000 c g p t a b = N at *
  refine roundTrip_row he hn (by rw [e25]; decide) ?_
  rw [row_20 e25]; simp [decodeMajor20, fc, fg, fp, ft, fa, fb, e12, e25]

theorem RoundTrip.fcmpNeS c g p t a b : RoundTrip.Statement (.fcmpNeS c g p t a b) := by
  have he : encodeNat (.fcmpNeS c g p t a b) = some (layC31w1G21w4P19w2T16w3A6w6B0w6 0x40001000 c g p t a b) := rfl
  have ⟨hn, e12, e25, fc, fg, fp, ft, fa, fb⟩ := fields_C31w1G21w4P19w2T16w3A6w6B0w6 0x40001000 c g p t a b 1 32 (by decide) (by decide)
  generalize layC31w1G21w4P19w2T16w3A6w6B0w6 0x40001000 c g p t a b = N at *
  refine roundTrip_row he hn (by rw [e25]; decide) ?_
  rw [row_20 e25]; simp [decodeMajor20, fc, fg, fp, ft, fa, fb, e12, e25]

theorem RoundTrip.fcmpLtS c g p t a b : RoundTrip.Statement (.fcmpLtS c g p t a b) := by
  have he : encodeNat (.fcmpLtS c g p t a b) = some (layC31w1G21w4P19w2T16w3A6w6B0w6 0x40002000 c g p t a b) := rfl
  have ⟨hn, e12, e25, fc, fg, fp, ft, fa, fb⟩ := fields_C31w1G21w4P19w2T16w3A6w6B0w6 0x40002000 c g p t a b 2 32 (by decide) (by decide)
  generalize layC31w1G21w4P19w2T16w3A6w6B0w6 0x40002000 c g p t a b = N at *
  refine roundTrip_row he hn (by rw [e25]; decide) ?_
  rw [row_20 e25]; simp [decodeMajor20, fc, fg, fp, ft, fa, fb, e12, e25]

theorem RoundTrip.fcmpLeS c g p t a b : RoundTrip.Statement (.fcmpLeS c g p t a b) := by
  have he : encodeNat (.fcmpLeS c g p t a b) = some (layC31w1G21w4P19w2T16w3A6w6B0w6 0x40003000 c g p t a b) := rfl
  have ⟨hn, e12, e25, fc, fg, fp, ft, fa, fb⟩ := fields_C31w1G21w4P19w2T16w3A6w6B0w6 0x40003000 c g p t a b 3 32 (by decide) (by decide)
  generalize layC31w1G21w4P19w2T16w3A6w6B0w6 0x40003000 c g p t a b = N at *
  refine roundTrip_row he hn (by rw [e25]; decide) ?_
  rw [row_20 e25]; simp [decodeMajor20, fc, fg, fp, ft, fa, fb, e12, e25]

theorem RoundTrip.fcmpGtS c g p t a b : RoundTrip.Statement (.fcmpGtS c g p t a b) := by
  have he : encodeNat (.fcmpGtS c g p t a b) = some (layC31w1G21w4P19w2T16w3A6w6B0w6 0x40004000 c g p t a b) := rfl
  have ⟨hn, e12, e25, fc, fg, fp, ft, fa, fb⟩ := fields_C31w1G21w4P19w2T16w3A6w6B0w6 0x40004000 c g p t a b 4 32 (by decide) (by decide)
  generalize layC31w1G21w4P19w2T16w3A6w6B0w6 0x40004000 c g p t a b = N at *
  refine roundTrip_row he hn (by rw [e25]; decide) ?_
  rw [row_20 e25]; simp [decodeMajor20, fc, fg, fp, ft, fa, fb, e12, e25]

theorem RoundTrip.fcmpGeS c g p t a b : RoundTrip.Statement (.fcmpGeS c g p t a b) := by
  have he : encodeNat (.fcmpGeS c g p t a b) = some (layC31w1G21w4P19w2T16w3A6w6B0w6 0x40005000 c g p t a b) := rfl
  have ⟨hn, e12, e25, fc, fg, fp, ft, fa, fb⟩ := fields_C31w1G21w4P19w2T16w3A6w6B0w6 0x40005000 c g p t a b 5 32 (by decide) (by decide)
  generalize layC31w1G21w4P19w2T16w3A6w6B0w6 0x40005000 c g p t a b = N at *
  refine roundTrip_row he hn (by rw [e25]; decide) ?_
  rw [row_20 e25]; simp [decodeMajor20, fc, fg, fp, ft, fa, fb, e12, e25]

theorem RoundTrip.fcmpUnS c g p t a b : RoundTrip.Statement (.fcmpUnS c g p t a b) := by
  have he : encodeNat (.fcmpUnS c g p t a b) = some (layC31w1G21w4P19w2T16w3A6w6B0w6 0x40006000 c g p t a b) := rfl
  have ⟨hn, e12, e25, fc, fg, fp, ft, fa, fb⟩ := fields_C31w1G21w4P19w2T16w3A6w6B0w6 0x40006000 c g p t a b 6 32 (by decide) (by decide)
  generalize layC31w1G21w4P19w2T16w3A6w6B0w6 0x40006000 c g p t a b = N at *
  refine roundTrip_row he hn (by rw [e25]; decide) ?_
  rw [row_20 e25]; simp [decodeMajor20, fc, fg, fp, ft, fa, fb, e12, e25]

theorem RoundTrip.fcmpOrdS c g p t a b : RoundTrip.Statement (.fcmpOrdS c g p t a b) := by
  have he : encodeNat (.fcmpOrdS c g p t a b) = some (layC31w1G21w4P19w2T16w3A6w6B0w6 0x40007000 c g p t a b) := rfl
  have ⟨hn, e12, e25, fc, fg, fp, ft, fa, fb⟩ := fields_C31w1G21w4P19w2T16w3A6w6B0w6 0x40007000 c g p t a b 7 32 (by decide) (by decide)
  generalize layC31w1G21w4P19w2T16w3A6w6B0w6 0x40007000 c g p t a b = N at *
  refine roundTrip_row he hn (by rw [e25]; decide) ?_
  rw [row_20 e25]; simp [decodeMajor20, fc, fg, fp, ft, fa, fb, e12, e25]

theorem RoundTrip.fcmpEqD c g p t a b : RoundTrip.Statement (.fcmpEqD c g p t a b) := by
  have he : encodeNat (.fcmpEqD c g p t a b) = some (layC31w1G21w4P19w2T16w3A6w6B0w6 0x42000000 c g p t a b) := rfl
  have ⟨hn, e12, e25, fc, fg, fp, ft, fa, fb⟩ := fields_C31w1G21w4P19w2T16w3A6w6B0w6 0x42000000 c g p t a b 0 33 (by decide) (by decide)
  generalize layC31w1G21w4P19w2T16w3A6w6B0w6 0x42000000 c g p t a b = N at *
  refine roundTrip_row he hn (by rw [e25]; decide) ?_
  rw [row_21 e25]; simp [decodeMajor21, fc, fg, fp, ft, fa, fb, e12, e25]

theorem RoundTrip.fcmpNeD c g p t a b : RoundTrip.Statement (.fcmpNeD c g p t a b) := by
  have he : encodeNat (.fcmpNeD c g p t a b) = some (layC31w1G21w4P19w2T16w3A6w6B0w6 0x42001000 c g p t a b) := rfl
  have ⟨hn, e12, e25, fc, fg, fp, ft, fa, fb⟩ := fields_C31w1G21w4P19w2T16w3A6w6B0w6 0x42001000 c g p t a b 1 33 (by decide) (by decide)
  generalize layC31w1G21w4P19w2T16w3A6w6B0w6 0x42001000 c g p t a b = N at *
  refine roundTrip_row he hn (by rw [e25]; decide) ?_
  rw [row_21 e25]; simp [decodeMajor21, fc, fg, fp, ft, fa, fb, e12, e25]

theorem RoundTrip.fcmpLtD c g p t a b : RoundTrip.Statement (.fcmpLtD c g p t a b) := by
  have he : encodeNat (.fcmpLtD c g p t a b) = some (layC31w1G21w4P19w2T16w3A6w6B0w6 0x42002000 c g p t a b) := rfl
  have ⟨hn, e12, e25, fc, fg, fp, ft, fa, fb⟩ := fields_C31w1G21w4P19w2T16w3A6w6B0w6 0x42002000 c g p t a b 2 33 (by decide) (by decide)
  generalize layC31w1G21w4P19w2T16w3A6w6B0w6 0x42002000 c g p t a b = N at *
  refine roundTrip_row he hn (by rw [e25]; decide) ?_
  rw [row_21 e25]; simp [decodeMajor21, fc, fg, fp, ft, fa, fb, e12, e25]

theorem RoundTrip.fcmpLeD c g p t a b : RoundTrip.Statement (.fcmpLeD c g p t a b) := by
  have he : encodeNat (.fcmpLeD c g p t a b) = some (layC31w1G21w4P19w2T16w3A6w6B0w6 0x42003000 c g p t a b) := rfl
  have ⟨hn, e12, e25, fc, fg, fp, ft, fa, fb⟩ := fields_C31w1G21w4P19w2T16w3A6w6B0w6 0x42003000 c g p t a b 3 33 (by decide) (by decide)
  generalize layC31w1G21w4P19w2T16w3A6w6B0w6 0x42003000 c g p t a b = N at *
  refine roundTrip_row he hn (by rw [e25]; decide) ?_
  rw [row_21 e25]; simp [decodeMajor21, fc, fg, fp, ft, fa, fb, e12, e25]

theorem RoundTrip.fcmpGtD c g p t a b : RoundTrip.Statement (.fcmpGtD c g p t a b) := by
  have he : encodeNat (.fcmpGtD c g p t a b) = some (layC31w1G21w4P19w2T16w3A6w6B0w6 0x42004000 c g p t a b) := rfl
  have ⟨hn, e12, e25, fc, fg, fp, ft, fa, fb⟩ := fields_C31w1G21w4P19w2T16w3A6w6B0w6 0x42004000 c g p t a b 4 33 (by decide) (by decide)
  generalize layC31w1G21w4P19w2T16w3A6w6B0w6 0x42004000 c g p t a b = N at *
  refine roundTrip_row he hn (by rw [e25]; decide) ?_
  rw [row_21 e25]; simp [decodeMajor21, fc, fg, fp, ft, fa, fb, e12, e25]

theorem RoundTrip.fcmpGeD c g p t a b : RoundTrip.Statement (.fcmpGeD c g p t a b) := by
  have he : encodeNat (.fcmpGeD c g p t a b) = some (layC31w1G21w4P19w2T16w3A6w6B0w6 0x42005000 c g p t a b) := rfl
  have ⟨hn, e12, e25, fc, fg, fp, ft, fa, fb⟩ := fields_C31w1G21w4P19w2T16w3A6w6B0w6 0x42005000 c g p t a b 5 33 (by decide) (by decide)
  generalize layC31w1G21w4P19w2T16w3A6w6B0w6 0x42005000 c g p t a b = N at *
  refine roundTrip_row he hn (by rw [e25]; decide) ?_
  rw [row_21 e25]; simp [decodeMajor21, fc, fg, fp, ft, fa, fb, e12, e25]

theorem RoundTrip.fcmpUnD c g p t a b : RoundTrip.Statement (.fcmpUnD c g p t a b) := by
  have he : encodeNat (.fcmpUnD c g p t a b) = some (layC31w1G21w4P19w2T16w3A6w6B0w6 0x42006000 c g p t a b) := rfl
  have ⟨hn, e12, e25, fc, fg, fp, ft, fa, fb⟩ := fields_C31w1G21w4P19w2T16w3A6w6B0w6 0x42006000 c g p t a b 6 33 (by decide) (by decide)
  generalize layC31w1G21w4P19w2T16w3A6w6B0w6 0x42006000 c g p t a b = N at *
  refine roundTrip_row he hn (by rw [e25]; decide) ?_
  rw [row_21 e25]; simp [decodeMajor21, fc, fg, fp, ft, fa, fb, e12, e25]

theorem RoundTrip.fcmpOrdD c g p t a b : RoundTrip.Statement (.fcmpOrdD c g p t a b) := by
  have he : encodeNat (.fcmpOrdD c g p t a b) = some (layC31w1G21w4P19w2T16w3A6w6B0w6 0x42007000 c g p t a b) := rfl
  have ⟨hn, e12, e25, fc, fg, fp, ft, fa, fb⟩ := fields_C31w1G21w4P19w2T16w3A6w6B0w6 0x42007000 c g p t a b 7 33 (by decide) (by decide)
  generalize layC31w1G21w4P19w2T16w3A6w6B0w6 0x42007000 c g p t a b = N at *
  refine roundTrip_row he hn (by rw [e25]; decide) ?_
  rw [row_21 e25]; simp [decodeMajor21, fc, fg, fp, ft, fa, fb, e12, e25]

theorem RoundTrip.fcmpEqI c g p t a b : RoundTrip.Statement (.fcmpEqI c g p t a b) := by
  have he : encodeNat (.fcmpEqI c g p t a b) = some (layC31w1G21w4P19w2T16w3A6w6B0w6 0x44000000 c g p t a b) := rfl
  have ⟨hn, e12, e25, fc, fg, fp, ft, fa, fb⟩ := fields_C31w1G21w4P19w2T16w3A6w6B0w6 0x44000000 c g p t a b 0 34 (by decide) (by decide)
  generalize layC31w1G21w4P19w2T16w3A6w6B0w6 0x44000000 c g p t a b = N at *
  refine roundTrip_row he hn (by rw [e25]; decide) ?_
  rw [row_22 e25]; simp [decodeMajor22, fc, fg, fp, ft, fa, fb, e12, e25]

theorem RoundTrip.fcmpNeI c g p t a b : RoundTrip.Statement (.fcmpNeI c g p t a b) := by
  have he : encodeNat (.fcmpNeI c g p t a b) = some (layC31w1G21w4P19w2T16w3A6w6B0w6 0x44001000 c g p t a b) := rfl
  have ⟨hn, e12, e25, fc, fg, fp, ft, fa, fb⟩ := fields_C31w1G21w4P19w2T16w3A6w6B0w6 0x44001000 c g p t a b 1 34 (by decide) (by decide)
  generalize layC31w1G21w4P19w2T16w3A6w6B0w6 0x44001000 c g p t a b = N at *
  refine roundTrip_row he hn (by rw [e25]; decide) ?_
  rw [row_22 e25]; simp [decodeMajor22, fc, fg, fp, ft, fa, fb, e12, e25]

theorem RoundTrip.fcmpLtI c g p t a b : RoundTrip.Statement (.fcmpLtI c g p t a b) := by
  have he : encodeNat (.fcmpLtI c g p t a b) = some (layC31w1G21w4P19w2T16w3A6w6B0w6 0x44002000 c g p t a b) := rfl
  have ⟨hn, e12, e25, fc, fg, fp, ft, fa, fb⟩ := fields_C31w1G21w4P19w2T16w3A6w6B0w6 0x44002000 c g p t a b 2 34 (by decide) (by decide)
  generalize layC31w1G21w4P19w2T16w3A6w6B0w6 0x44002000 c g p t a b = N at *
  refine roundTrip_row he hn (by rw [e25]; decide) ?_
  rw [row_22 e25]; simp [decodeMajor22, fc, fg, fp, ft, fa, fb, e12, e25]

theorem RoundTrip.fcmpLeI c g p t a b : RoundTrip.Statement (.fcmpLeI c g p t a b) := by
  have he : encodeNat (.fcmpLeI c g p t a b) = some (layC31w1G21w4P19w2T16w3A6w6B0w6 0x44003000 c g p t a b) := rfl
  have ⟨hn, e12, e25, fc, fg, fp, ft, fa, fb⟩ := fields_C31w1G21w4P19w2T16w3A6w6B0w6 0x44003000 c g p t a b 3 34 (by decide) (by decide)
  generalize layC31w1G21w4P19w2T16w3A6w6B0w6 0x44003000 c g p t a b = N at *
  refine roundTrip_row he hn (by rw [e25]; decide) ?_
  rw [row_22 e25]; simp [decodeMajor22, fc, fg, fp, ft, fa, fb, e12, e25]

theorem RoundTrip.fcmpGtI c g p t a b : RoundTrip.Statement (.fcmpGtI c g p t a b) := by
  have he : encodeNat (.fcmpGtI c g p t a b) = some (layC31w1G21w4P19w2T16w3A6w6B0w6 0x44004000 c g p t a b) := rfl
  have ⟨hn, e12, e25, fc, fg, fp, ft, fa, fb⟩ := fields_C31w1G21w4P19w2T16w3A6w6B0w6 0x44004000 c g p t a b 4 34 (by decide) (by decide)
  generalize layC31w1G21w4P19w2T16w3A6w6B0w6 0x44004000 c g p t a b = N at *
  refine roundTrip_row he hn (by rw [e25]; decide) ?_
  rw [row_22 e25]; simp [decodeMajor22, fc, fg, fp, ft, fa, fb, e12, e25]

theorem RoundTrip.fcmpGeI c g p t a b : RoundTrip.Statement (.fcmpGeI c g p t a b) := by
  have he : encodeNat (.fcmpGeI c g p t a b) = some (layC31w1G21w4P19w2T16w3A6w6B0w6 0x44005000 c g p t a b) := rfl
  have ⟨hn, e12, e25, fc, fg, fp, ft, fa, fb⟩ := fields_C31w1G21w4P19w2T16w3A6w6B0w6 0x44005000 c g p t a b 5 34 (by decide) (by decide)
  generalize layC31w1G21w4P19w2T16w3A6w6B0w6 0x44005000 c g p t a b = N at *
  refine roundTrip_row he hn (by rw [e25]; decide) ?_
  rw [row_22 e25]; simp [decodeMajor22, fc, fg, fp, ft, fa, fb, e12, e25]

theorem RoundTrip.fcmpSubI c g p t a b : RoundTrip.Statement (.fcmpSubI c g p t a b) := by
  have he : encodeNat (.fcmpSubI c g p t a b) = some (layC31w1G21w4P19w2T16w3A6w6B0w6 0x44008000 c g p t a b) := rfl
  have ⟨hn, e12, e25, fc, fg, fp, ft, fa, fb⟩ := fields_C31w1G21w4P19w2T16w3A6w6B0w6 0x44008000 c g p t a b 8 34 (by decide) (by decide)
  generalize layC31w1G21w4P19w2T16w3A6w6B0w6 0x44008000 c g p t a b = N at *
  refine roundTrip_row he hn (by rw [e25]; decide) ?_
  rw [row_22 e25]; simp [decodeMajor22, fc, fg, fp, ft, fa, fb, e12, e25]

theorem RoundTrip.fcmpDisjI c g p t a b : RoundTrip.Statement (.fcmpDisjI c g p t a b) := by
  have he : encodeNat (.fcmpDisjI c g p t a b) = some (layC31w1G21w4P19w2T16w3A6w6B0w6 0x44009000 c g p t a b) := rfl
  have ⟨hn, e12, e25, fc, fg, fp, ft, fa, fb⟩ := fields_C31w1G21w4P19w2T16w3A6w6B0w6 0x44009000 c g p t a b 9 34 (by decide) (by decide)
  generalize layC31w1G21w4P19w2T16w3A6w6B0w6 0x44009000 c g p t a b = N at *
  refine roundTrip_row he hn (by rw [e25]; decide) ?_
  rw [row_22 e25]; simp [decodeMajor22, fc, fg, fp, ft, fa, fb, e12, e25]

theorem RoundTrip.fcmpContI c g p t a b : RoundTrip.Statement (.fcmpContI c g p t a b) := by
  have he : encodeNat (.fcmpContI c g p t a b) = some (layC31w1G21w4P19w2T16w3A6w6B0w6 0x4400A000 c g p t a b) := rfl
  have ⟨hn, e12, e25, fc, fg, fp, ft, fa, fb⟩ := fields_C31w1G21w4P19w2T16w3A6w6B0w6 0x4400A000 c g p t a b 10 34 (by decide) (by decide)
  generalize layC31w1G21w4P19w2T16w3A6w6B0w6 0x4400A000 c g p t a b = N at *
  refine roundTrip_row he hn (by rw [e25]; decide) ?_
  rw [row_22 e25]; simp [decodeMajor22, fc, fg, fp, ft, fa, fb, e12, e25]

theorem RoundTrip.fcmpEmptyI c g p t a b : RoundTrip.Statement (.fcmpEmptyI c g p t a b) := by
  have he : encodeNat (.fcmpEmptyI c g p t a b) = some (layC31w1G21w4P19w2T16w3A6w6B0w6 0x4400B000 c g p t a b) := rfl
  have ⟨hn, e12, e25, fc, fg, fp, ft, fa, fb⟩ := fields_C31w1G21w4P19w2T16w3A6w6B0w6 0x4400B000 c g p t a b 11 34 (by decide) (by decide)
  generalize layC31w1G21w4P19w2T16w3A6w6B0w6 0x4400B000 c g p t a b = N at *
  refine roundTrip_row he hn (by rw [e25]; decide) ?_
  rw [row_22 e25]; simp [decodeMajor22, fc, fg, fp, ft, fa, fb, e12, e25]

theorem RoundTrip.fcmpEqJ c g p t a b : RoundTrip.Statement (.fcmpEqJ c g p t a b) := by
  have he : encodeNat (.fcmpEqJ c g p t a b) = some (layC31w1G21w4P19w2T16w3A6w6B0w6 0x46000000 c g p t a b) := rfl
  have ⟨hn, e12, e25, fc, fg, fp, ft, fa, fb⟩ := fields_C31w1G21w4P19w2T16w3A6w6B0w6 0x46000000 c g p t a b 0 35 (by decide) (by decide)
  generalize layC31w1G21w4P19w2T16w3A6w6B0w6 0x46000000 c g p t a b = N at *
  refine roundTrip_row he hn (by rw [e25]; decide) ?_
  rw [row_23 e25]; simp [decodeMajor23, fc, fg, fp, ft, fa, fb, e12, e25]

theorem RoundTrip.fcmpNeJ c g p t a b : RoundTrip.Statement (.fcmpNeJ c g p t a b) := by
  have he : encodeNat (.fcmpNeJ c g p t a b) = some (layC31w1G21w4P19w2T16w3A6w6B0w6 0x46001000 c g p t a b) := rfl
  have ⟨hn, e12, e25, fc, fg, fp, ft, fa, fb⟩ := fields_C31w1G21w4P19w2T16w3A6w6B0w6 0x46001000 c g p t a b 1 35 (by decide) (by decide)
  generalize layC31w1G21w4P19w2T16w3A6w6B0w6 0x46001000 c g p t a b = N at *
  refine roundTrip_row he hn (by rw [e25]; decide) ?_
  rw [row_23 e25]; simp [decodeMajor23, fc, fg, fp, ft, fa, fb, e12, e25]

theorem RoundTrip.fcmpLtJ c g p t a b : RoundTrip.Statement (.fcmpLtJ c g p t a b) := by
  have he : encodeNat (.fcmpLtJ c g p t a b) = some (layC31w1G21w4P19w2T16w3A6w6B0w6 0x46002000 c g p t a b) := rfl
  have ⟨hn, e12, e25, fc, fg, fp, ft, fa, fb⟩ := fields_C31w1G21w4P19w2T16w3A6w6B0w6 0x46002000 c g p t a b 2 35 (by decide) (by decide)
  generalize layC31w1G21w4P19w2T16w3A6w6B0w6 0x46002000 c g p t a b = N at *
  refine roundTrip_row he hn (by rw [e25]; decide) ?_
  rw [row_23 e25]; simp [decodeMajor23, fc, fg, fp, ft, fa, fb, e12, e25]

theorem RoundTrip.fcmpLeJ c g p t a b : RoundTrip.Statement (.fcmpLeJ c g p t a b) := by
  have he : encodeNat (.fcmpLeJ c g p t a b) = some (layC31w1G21w4P19w2T16w3A6w6B0w6 0x46003000 c g p t a b) := rfl
  have ⟨hn, e12, e25, fc, fg, fp, ft, fa, fb⟩ := fields_C31w1G21w4P19w2T16w3A6w6B0w6 0x46003000 c g p t a b 3 35 (by decide) (by decide)
  generalize layC31w1G21w4P19w2T16w3A6w6B0w6 0x46003000 c g p t a b = N at *
  refine roundTrip_row he hn (by rw [e25]; decide) ?_
  rw [row_23 e25]; simp [decodeMajor23, fc, fg, fp, ft, fa, fb, e12, e25]

theorem RoundTrip.fcmpGtJ c g p t a b : RoundTrip.Statement (.fcmpGtJ c g p t a b) := by
  have he : encodeNat (.fcmpGtJ c g p t a b) = some (layC31w1G21w4P19w2T16w3A6w6B0w6 0x46004000 c g p t a b) := rfl
  have ⟨hn, e12, e25, fc, fg, fp, ft, fa, fb⟩ := fields_C31w1G21w4P19w2T16w3A6w6B0w6 0x46004000 c g p t a b 4 35 (by decide) (by decide)
  generalize layC31w1G21w4P19w2T16w3A6w6B0w6 0x46004000 c g p t a b = N at *
  refine roundTrip_row he hn (by rw [e25]; decide) ?_
  rw [row_23 e25]; simp [decodeMajor23, fc, fg, fp, ft, fa, fb, e12, e25]

theorem RoundTrip.fcmpGeJ c g p t a b : RoundTrip.Statement (.fcmpGeJ c g p t a b) := by
  have he : encodeNat (.fcmpGeJ c g p t a b) = some (layC31w1G21w4P19w2T16w3A6w6B0w6 0x46005000 c g p t a b) := rfl
  have ⟨hn, e12, e25, fc, fg, fp, ft, fa, fb⟩ := fields_C31w1G21w4P19w2T16w3A6w6B0w6 0x46005000 c g p t a b 5 35 (by decide) (by decide)
  generalize layC31w1G21w4P19w2T16w3A6w6B0w6 0x46005000 c g p t a b = N at *
  refine roundTrip_row he hn (by rw [e25]; decide) ?_
  rw [row_23 e25]; simp [decodeMajor23, fc, fg, fp, ft, fa, fb, e12, e25]

theorem RoundTrip.fcmpSubJ c g p t a b : RoundTrip.Statement (.fcmpSubJ c g p t a b) := by
  have he : encodeNat (.fcmpSubJ c g p t a b) = some (layC31w1G21w4P19w2T16w3A6w6B0w6 0x46008000 c g p t a b) := rfl
  have ⟨hn, e12, e25, fc, fg, fp, ft, fa, fb⟩ := fields_C31w1G21w4P19w2T16w3A6w6B0w6 0x46008000 c g p t a b 8 35 (by decide) (by decide)
  generalize layC31w1G21w4P19w2T16w3A6w6B0w6 0x46008000 c g p t a b = N at *
  refine roundTrip_row he hn (by rw [e25]; decide) ?_
  rw [row_23 e25]; simp [decodeMajor23, fc, fg, fp, ft, fa, fb, e12, e25]

theorem RoundTrip.fcmpDisjJ c g p t a b : RoundTrip.Statement (.fcmpDisjJ c g p t a b) := by
  have he : encodeNat (.fcmpDisjJ c g p t a b) = some (layC31w1G21w4P19w2T16w3A6w6B0w6 0x46009000 c g p t a b) := rfl
  have ⟨hn, e12, e25, fc, fg, fp, ft, fa, fb⟩ := fields_C31w1G21w4P19w2T16w3A6w6B0w6 0x46009000 c g p t a b 9 35 (by decide) (by decide)
  generalize layC31w1G21w4P19w2T16w3A6w6B0w6 0x46009000 c g p t a b = N at *
  refine roundTrip_row he hn (by rw [e25]; decide) ?_
  rw [row_23 e25]; simp [decodeMajor23, fc, fg, fp, ft, fa, fb, e12, e25]

theorem RoundTrip.fcmpContJ c g p t a b : RoundTrip.Statement (.fcmpContJ c g p t a b) := by
  have he : encodeNat (.fcmpContJ c g p t a b) = some (layC31w1G21w4P19w2T16w3A6w6B0w6 0x4600A000 c g p t a b) := rfl
  have ⟨hn, e12, e25, fc, fg, fp, ft, fa, fb⟩ := fields_C31w1G21w4P19w2T16w3A6w6B0w6 0x4600A000 c g p t a b 10 35 (by decide) (by decide)
  generalize layC31w1G21w4P19w2T16w3A6w6B0w6 0x4600A000 c g p t a b = N at *
  refine roundTrip_row he hn (by rw [e25]; decide) ?_
  rw [row_23 e25]; simp [decodeMajor23, fc, fg, fp, ft, fa, fb, e12, e25]

theorem RoundTrip.fcmpEmptyJ c g p t a b : RoundTrip.Statement (.fcmpEmptyJ c g p t a b) := by
  have he : encodeNat (.fcmpEmptyJ c g p t a b) = some (layC31w1G21w4P19w2T16w3A6w6B0w6 0x4600B000 c g p t a b) := rfl
  have ⟨hn, e12, e25, fc, fg, fp, ft, fa, fb⟩ := fields_C31w1G21w4P19w2T16w3A6w6B0w6 0x4600B000 c g p t a b 11 35 (by decide) (by decide)
  generalize layC31w1G21w4P19w2T16w3A6w6B0w6 0x4600B000 c g p t a b = N at *
  refine roundTrip_row he hn (by rw [e25]; decide) ?_
  rw [row_23 e25]; simp [decodeMajor23, fc, fg, fp, ft, fa, fb, e12, e25]

theorem RoundTrip.imakeS c g d a b : RoundTrip.Statement (.imakeS c g d a b) := by
  have he : encodeNat (.imakeS c g d a b) = some (layC31w1G21w4D15w6A9w6B3w6 0x48000000 c g d a b) := rfl
  have ⟨hn, e0, e25, fc, fg, fd, fa, fb⟩ := fields_C31w1G21w4D15w6A9w6B3w6 0x48000000 c g d a b 0 36 (by decide) (by decide)
  generalize layC31w1G21w4D15w6A9w6B3w6 0x48000000 c g d a b = N at *
  refine roundTrip_row he hn (by rw [e25]; decide) ?_
  rw [row_24 e25]; simp [decodeMajor24, fc, fg, fd, fa, fb, e0, e25]

theorem RoundTrip.imakeD c g d a b : RoundTrip.Statement (.imakeD c g d a b) := by
  have he : encodeNat (.imakeD c g d a b) = some (layC31w1G21w4D15w6A9w6B3w6 0x48000001 c g d a b) := rfl
  have ⟨hn, e0, e25, fc, fg, fd, fa, fb⟩ := fields_C31w1G21w4D15w6A9w6B3w6 0x48000001 c g d a b 1 36 (by decide) (by decide)
  generalize layC31w1G21w4D15w6A9w6B3w6 0x48000001 c g d a b = N at *
  refine roundTrip_row he hn (by rw [e25]; decide) ?_
  rw [row_24 e25]; simp [decodeMajor24, fc, fg, fd, fa, fb, e0, e25]

theorem RoundTrip.bisectI c g d a k : RoundTrip.Statement (.bisectI c g d a k) := by
  have he : encodeNat (.bisectI c g d a k) = some (layC31w1G21w4D15w6A9w6K3w3 0x48000002 c g d a k) := rfl
  have ⟨hn, e0, e6, e25, fc, fg, fd, fa, fk⟩ := fields_C31w1G21w4D15w6A9w6K3w3 0x48000002 c g d a k 2 0 36 (by decide) (by decide)
  generalize layC31w1G21w4D15w6A9w6K3w3 0x48000002 c g d a k = N at *
  refine roundTrip_row he hn (by rw [e25]; decide) ?_
  rw [row_24 e25]; simp [decodeMajor24, fc, fg, fd, fa, fk, e0, e6, e25]

theorem RoundTrip.bisectJ c g d a k : RoundTrip.Statement (.bisectJ c g d a k) := by
  have he : encodeNat (.bisectJ c g d a k) = some (layC31w1G21w4D15w6A9w6K3w3 0x48000003 c g d a k) := rfl
  have ⟨hn, e0, e6, e25, fc, fg, fd, fa, fk⟩ := fields_C31w1G21w4D15w6A9w6K3w3 0x48000003 c g d a k 3 0 36 (by decide) (by decide)
  generalize layC31w1G21w4D15w6A9w6K3w3 0x48000003 c g d a k = N at *
  refine roundTrip_row he hn (by rw [e25]; decide) ?_
  rw [row_24 e25]; simp [decodeMajor24, fc, fg, fd, fa, fk, e0, e6, e25]

theorem RoundTrip.bisectComplete op : RoundTrip.Statement (.bisectComplete op) := roundTrip_event rfl

theorem RoundTrip.iinflI c g d a b : RoundTrip.Statement (.iinflI c g d a b) := by
  have he : encodeNat (.iinflI c g d a b) = some (layC31w1G21w4D15w6A9w6B3w6 0x48000004 c g d a b) := rfl
  have ⟨hn, e0, e25, fc, fg, fd, fa, fb⟩ := fields_C31w1G21w4D15w6A9w6B3w6 0x48000004 c g d a b 4 36 (by decide) (by decide)
  generalize layC31w1G21w4D15w6A9w6B3w6 0x48000004 c g d a b = N at *
  refine roundTrip_row he hn (by rw [e25]; decide) ?_
  rw [row_24 e25]; simp [decodeMajor24, fc, fg, fd, fa, fb, e0, e25]

theorem RoundTrip.iinflJ c g d a b : RoundTrip.Statement (.iinflJ c g d a b) := by
  have he : encodeNat (.iinflJ c g d a b) = some (layC31w1G21w4D15w6A9w6B3w6 0x48000005 c g d a b) := rfl
  have ⟨hn, e0, e25, fc, fg, fd, fa, fb⟩ := fields_C31w1G21w4D15w6A9w6B3w6 0x48000005 c g d a b 5 36 (by decide) (by decide)
  generalize layC31w1G21w4D15w6A9w6B3w6 0x48000005 c g d a b = N at *
  refine roundTrip_row he hn (by rw [e25]; decide) ?_
  rw [row_24 e25]; simp [decodeMajor24, fc, fg, fd, fa, fb, e0, e25]

theorem RoundTrip.hadd2 c g d a b : RoundTrip.Statement (.hadd2 c g d a b) := by
  have he : encodeNat (.hadd2 c g d a b) = some (layC31w1G21w4D15w6A9w6B3w6 0x4A000000 c g d a b) := rfl
  have ⟨hn, e0, e25, fc, fg, fd, fa, fb⟩ := fields_C31w1G21w4D15w6A9w6B3w6 0x4A000000 c g d a b 0 37 (by decide) (by decide)
  generalize layC31w1G21w4D15w6A9w6B3w6 0x4A000000 c g d a b = N at *
  refine roundTrip_row he hn (by rw [e25]; decide) ?_
  rw [row_25 e25]; simp [decodeMajor25, fc, fg, fd, fa, fb, e0, e25]

theorem RoundTrip.hmul2 c g d a b : RoundTrip.Statement (.hmul2 c g d a b) := by
  have he : encodeNat (.hmul2 c g d a b) = some (layC31w1G21w4D15w6A9w6B3w6 0x4A000001 c g d a b) := rfl
  have ⟨hn, e0, e25, fc, fg, fd, fa, fb⟩ := fields_C31w1G21w4D15w6A9w6B3w6 0x4A000001 c g d a b 1 37 (by decide) (by decide)
  generalize layC31w1G21w4D15w6A9w6B3w6 0x4A000001 c g d a b = N at *
  refine roundTrip_row he hn (by rw [e25]; decide) ?_
  rw [row_25 e25]; simp [decodeMajor25, fc, fg, fd, fa, fb, e0, e25]

theorem RoundTrip.hfma2 c g d a b : RoundTrip.Statement (.hfma2 c g d a b) := by
  have he : encodeNat (.hfma2 c g d a b) = some (layC31w1G21w4D15w6A9w6B3w6 0x4A000002 c g d a b) := rfl
  have ⟨hn, e0, e25, fc, fg, fd, fa, fb⟩ := fields_C31w1G21w4D15w6A9w6B3w6 0x4A000002 c g d a b 2 37 (by decide) (by decide)
  generalize layC31w1G21w4D15w6A9w6B3w6 0x4A000002 c g d a b = N at *
  refine roundTrip_row he hn (by rw [e25]; decide) ?_
  rw [row_25 e25]; simp [decodeMajor25, fc, fg, fd, fa, fb, e0, e25]

theorem RoundTrip.badd2 c g d a b : RoundTrip.Statement (.badd2 c g d a b) := by
  have he : encodeNat (.badd2 c g d a b) = some (layC31w1G21w4D15w6A9w6B3w6 0x4A000003 c g d a b) := rfl
  have ⟨hn, e0, e25, fc, fg, fd, fa, fb⟩ := fields_C31w1G21w4D15w6A9w6B3w6 0x4A000003 c g d a b 3 37 (by decide) (by decide)
  generalize layC31w1G21w4D15w6A9w6B3w6 0x4A000003 c g d a b = N at *
  refine roundTrip_row he hn (by rw [e25]; decide) ?_
  rw [row_25 e25]; simp [decodeMajor25, fc, fg, fd, fa, fb, e0, e25]

theorem RoundTrip.bmul2 c g d a b : RoundTrip.Statement (.bmul2 c g d a b) := by
  have he : encodeNat (.bmul2 c g d a b) = some (layC31w1G21w4D15w6A9w6B3w6 0x4A000004 c g d a b) := rfl
  have ⟨hn, e0, e25, fc, fg, fd, fa, fb⟩ := fields_C31w1G21w4D15w6A9w6B3w6 0x4A000004 c g d a b 4 37 (by decide) (by decide)
  generalize layC31w1G21w4D15w6A9w6B3w6 0x4A000004 c g d a b = N at *
  refine roundTrip_row he hn (by rw [e25]; decide) ?_
  rw [row_25 e25]; simp [decodeMajor25, fc, fg, fd, fa, fb, e0, e25]

theorem RoundTrip.bfma2 c g d a b : RoundTrip.Statement (.bfma2 c g d a b) := by
  have he : encodeNat (.bfma2 c g d a b) = some (layC31w1G21w4D15w6A9w6B3w6 0x4A000005 c g d a b) := rfl
  have ⟨hn, e0, e25, fc, fg, fd, fa, fb⟩ := fields_C31w1G21w4D15w6A9w6B3w6 0x4A000005 c g d a b 5 37 (by decide) (by decide)
  generalize layC31w1G21w4D15w6A9w6B3w6 0x4A000005 c g d a b = N at *
  refine roundTrip_row he hn (by rw [e25]; decide) ?_
  rw [row_25 e25]; simp [decodeMajor25, fc, fg, fd, fa, fb, e0, e25]

theorem RoundTrip.cbdec c g d a b : RoundTrip.Statement (.cbdec c g d a b) := by
  have he : encodeNat (.cbdec c g d a b) = some (layC31w1G21w4D15w6A9w6B3w6 0x4A000006 c g d a b) := rfl
  have ⟨hn, e0, e25, fc, fg, fd, fa, fb⟩ := fields_C31w1G21w4D15w6A9w6B3w6 0x4A000006 c g d a b 6 37 (by decide) (by decide)
  generalize layC31w1G21w4D15w6A9w6B3w6 0x4A000006 c g d a b = N at *
  refine roundTrip_row he hn (by rw [e25]; decide) ?_
  rw [row_25 e25]; simp [decodeMajor25, fc, fg, fd, fa, fb, e0, e25]

theorem RoundTrip.mxq c g d a b : RoundTrip.Statement (.mxq c g d a b) := by
  have he : encodeNat (.mxq c g d a b) = some (layC31w1G21w4D15w6A9w6B3w6 0x4A000007 c g d a b) := rfl
  have ⟨hn, e0, e25, fc, fg, fd, fa, fb⟩ := fields_C31w1G21w4D15w6A9w6B3w6 0x4A000007 c g d a b 7 37 (by decide) (by decide)
  generalize layC31w1G21w4D15w6A9w6B3w6 0x4A000007 c g d a b = N at *
  refine roundTrip_row he hn (by rw [e25]; decide) ?_
  rw [row_25 e25]; simp [decodeMajor25, fc, fg, fd, fa, fb, e0, e25]

theorem RoundTrip.ldgB c g d b p : RoundTrip.Statement (.ldgB c g d b p) := by
  have he : encodeNat (.ldgB c g d b p) = some (layC31w1G21w4D15w6B9w6P3w6 0x50000000 c g d b p) := rfl
  have ⟨hn, e0, e25, fc, fg, fd, fb, fp⟩ := fields_C31w1G21w4D15w6B9w6P3w6 0x50000000 c g d b p 0 40 (by decide) (by decide)
  generalize layC31w1G21w4D15w6B9w6P3w6 0x50000000 c g d b p = N at *
  refine roundTrip_row he hn (by rw [e25]; decide) ?_
  rw [row_28 e25]; simp [decodeMajor28, fc, fg, fd, fb, fp, e0, e25]

theorem RoundTrip.ldgBu c g d b p : RoundTrip.Statement (.ldgBu c g d b p) := by
  have he : encodeNat (.ldgBu c g d b p) = some (layC31w1G21w4D15w6B9w6P3w6 0x50000001 c g d b p) := rfl
  have ⟨hn, e0, e25, fc, fg, fd, fb, fp⟩ := fields_C31w1G21w4D15w6B9w6P3w6 0x50000001 c g d b p 1 40 (by decide) (by decide)
  generalize layC31w1G21w4D15w6B9w6P3w6 0x50000001 c g d b p = N at *
  refine roundTrip_row he hn (by rw [e25]; decide) ?_
  rw [row_28 e25]; simp [decodeMajor28, fc, fg, fd, fb, fp, e0, e25]

theorem RoundTrip.ldgH c g d b p : RoundTrip.Statement (.ldgH c g d b p) := by
  have he : encodeNat (.ldgH c g d b p) = some (layC31w1G21w4D15w6B9w6P3w6 0x50000002 c g d b p) := rfl
  have ⟨hn, e0, e25, fc, fg, fd, fb, fp⟩ := fields_C31w1G21w4D15w6B9w6P3w6 0x50000002 c g d b p 2 40 (by decide) (by decide)
  generalize layC31w1G21w4D15w6B9w6P3w6 0x50000002 c g d b p = N at *
  refine roundTrip_row he hn (by rw [e25]; decide) ?_
  rw [row_28 e25]; simp [decodeMajor28, fc, fg, fd, fb, fp, e0, e25]

theorem RoundTrip.ldgHu c g d b p : RoundTrip.Statement (.ldgHu c g d b p) := by
  have he : encodeNat (.ldgHu c g d b p) = some (layC31w1G21w4D15w6B9w6P3w6 0x50000003 c g d b p) := rfl
  have ⟨hn, e0, e25, fc, fg, fd, fb, fp⟩ := fields_C31w1G21w4D15w6B9w6P3w6 0x50000003 c g d b p 3 40 (by decide) (by decide)
  generalize layC31w1G21w4D15w6B9w6P3w6 0x50000003 c g d b p = N at *
  refine roundTrip_row he hn (by rw [e25]; decide) ?_
  rw [row_28 e25]; simp [decodeMajor28, fc, fg, fd, fb, fp, e0, e25]

theorem RoundTrip.ldgW c g d b p : RoundTrip.Statement (.ldgW c g d b p) := by
  have he : encodeNat (.ldgW c g d b p) = some (layC31w1G21w4D15w6B9w6P3w6 0x50000004 c g d b p) := rfl
  have ⟨hn, e0, e25, fc, fg, fd, fb, fp⟩ := fields_C31w1G21w4D15w6B9w6P3w6 0x50000004 c g d b p 4 40 (by decide) (by decide)
  generalize layC31w1G21w4D15w6B9w6P3w6 0x50000004 c g d b p = N at *
  refine roundTrip_row he hn (by rw [e25]; decide) ?_
  rw [row_28 e25]; simp [decodeMajor28, fc, fg, fd, fb, fp, e0, e25]

theorem RoundTrip.ldgWu c g d b p : RoundTrip.Statement (.ldgWu c g d b p) := by
  have he : encodeNat (.ldgWu c g d b p) = some (layC31w1G21w4D15w6B9w6P3w6 0x50000005 c g d b p) := rfl
  have ⟨hn, e0, e25, fc, fg, fd, fb, fp⟩ := fields_C31w1G21w4D15w6B9w6P3w6 0x50000005 c g d b p 5 40 (by decide) (by decide)
  generalize layC31w1G21w4D15w6B9w6P3w6 0x50000005 c g d b p = N at *
  refine roundTrip_row he hn (by rw [e25]; decide) ?_
  rw [row_28 e25]; simp [decodeMajor28, fc, fg, fd, fb, fp, e0, e25]

theorem RoundTrip.ldgD c g d b p : RoundTrip.Statement (.ldgD c g d b p) := by
  have he : encodeNat (.ldgD c g d b p) = some (layC31w1G21w4D15w6B9w6P3w6 0x50000006 c g d b p) := rfl
  have ⟨hn, e0, e25, fc, fg, fd, fb, fp⟩ := fields_C31w1G21w4D15w6B9w6P3w6 0x50000006 c g d b p 6 40 (by decide) (by decide)
  generalize layC31w1G21w4D15w6B9w6P3w6 0x50000006 c g d b p = N at *
  refine roundTrip_row he hn (by rw [e25]; decide) ?_
  rw [row_28 e25]; simp [decodeMajor28, fc, fg, fd, fb, fp, e0, e25]

theorem RoundTrip.ldgQ c g d b p : RoundTrip.Statement (.ldgQ c g d b p) := by
  have he : encodeNat (.ldgQ c g d b p) = some (layC31w1G21w4D15w6B9w6P3w6 0x50000007 c g d b p) := rfl
  have ⟨hn, e0, e25, fc, fg, fd, fb, fp⟩ := fields_C31w1G21w4D15w6B9w6P3w6 0x50000007 c g d b p 7 40 (by decide) (by decide)
  generalize layC31w1G21w4D15w6B9w6P3w6 0x50000007 c g d b p = N at *
  refine roundTrip_row he hn (by rw [e25]; decide) ?_
  rw [row_28 e25]; simp [decodeMajor28, fc, fg, fd, fb, fp, e0, e25]

theorem RoundTrip.stgB c g d b p : RoundTrip.Statement (.stgB c g d b p) := by
  have he : encodeNat (.stgB c g d b p) = some (layC31w1G21w4D15w6B9w6P3w6 0x52000000 c g d b p) := rfl
  have ⟨hn, e0, e25, fc, fg, fd, fb, fp⟩ := fields_C31w1G21w4D15w6B9w6P3w6 0x52000000 c g d b p 0 41 (by decide) (by decide)
  generalize layC31w1G21w4D15w6B9w6P3w6 0x52000000 c g d b p = N at *
  refine roundTrip_row he hn (by rw [e25]; decide) ?_
  rw [row_29 e25]; simp [decodeMajor29, fc, fg, fd, fb, fp, e0, e25]

theorem RoundTrip.stgH c g d b p : RoundTrip.Statement (.stgH c g d b p) := by
  have he : encodeNat (.stgH c g d b p) = some (layC31w1G21w4D15w6B9w6P3w6 0x52000001 c g d b p) := rfl
  have ⟨hn, e0, e25, fc, fg, fd, fb, fp⟩ := fields_C31w1G21w4D15w6B9w6P3w6 0x52000001 c g d b p 1 41 (by decide) (by decide)
  generalize layC31w1G21w4D15w6B9w6P3w6 0x52000001 c g d b p = N at *
  refine roundTrip_row he hn (by rw [e25]; decide) ?_
  rw [row_29 e25]; simp [decodeMajor29, fc, fg, fd, fb, fp, e0, e25]

theorem RoundTrip.stgW c g d b p : RoundTrip.Statement (.stgW c g d b p) := by
  have he : encodeNat (.stgW c g d b p) = some (layC31w1G21w4D15w6B9w6P3w6 0x52000002 c g d b p) := rfl
  have ⟨hn, e0, e25, fc, fg, fd, fb, fp⟩ := fields_C31w1G21w4D15w6B9w6P3w6 0x52000002 c g d b p 2 41 (by decide) (by decide)
  generalize layC31w1G21w4D15w6B9w6P3w6 0x52000002 c g d b p = N at *
  refine roundTrip_row he hn (by rw [e25]; decide) ?_
  rw [row_29 e25]; simp [decodeMajor29, fc, fg, fd, fb, fp, e0, e25]

theorem RoundTrip.stgD c g d b p : RoundTrip.Statement (.stgD c g d b p) := by
  have he : encodeNat (.stgD c g d b p) = some (layC31w1G21w4D15w6B9w6P3w6 0x52000003 c g d b p) := rfl
  have ⟨hn, e0, e25, fc, fg, fd, fb, fp⟩ := fields_C31w1G21w4D15w6B9w6P3w6 0x52000003 c g d b p 3 41 (by decide) (by decide)
  generalize layC31w1G21w4D15w6B9w6P3w6 0x52000003 c g d b p = N at *
  refine roundTrip_row he hn (by rw [e25]; decide) ?_
  rw [row_29 e25]; simp [decodeMajor29, fc, fg, fd, fb, fp, e0, e25]

theorem RoundTrip.stgQ c g d b p : RoundTrip.Statement (.stgQ c g d b p) := by
  have he : encodeNat (.stgQ c g d b p) = some (layC31w1G21w4D15w6B9w6P3w6 0x52000004 c g d b p) := rfl
  have ⟨hn, e0, e25, fc, fg, fd, fb, fp⟩ := fields_C31w1G21w4D15w6B9w6P3w6 0x52000004 c g d b p 4 41 (by decide) (by decide)
  generalize layC31w1G21w4D15w6B9w6P3w6 0x52000004 c g d b p = N at *
  refine roundTrip_row he hn (by rw [e25]; decide) ?_
  rw [row_29 e25]; simp [decodeMajor29, fc, fg, fd, fb, fp, e0, e25]

theorem RoundTrip.stref c g d b p : RoundTrip.Statement (.stref c g d b p) := by
  have he : encodeNat (.stref c g d b p) = some (layC31w1G21w4D15w6B9w6P3w6 0x52000005 c g d b p) := rfl
  have ⟨hn, e0, e25, fc, fg, fd, fb, fp⟩ := fields_C31w1G21w4D15w6B9w6P3w6 0x52000005 c g d b p 5 41 (by decide) (by decide)
  generalize layC31w1G21w4D15w6B9w6P3w6 0x52000005 c g d b p = N at *
  refine roundTrip_row he hn (by rw [e25]; decide) ?_
  rw [row_29 e25]; simp [decodeMajor29, fc, fg, fd, fb, fp, e0, e25]

theorem RoundTrip.sthdr c g d b p : RoundTrip.Statement (.sthdr c g d b p) := by
  have he : encodeNat (.sthdr c g d b p) = some (layC31w1G21w4D15w6B9w6P3w6 0x52000006 c g d b p) := rfl
  have ⟨hn, e0, e25, fc, fg, fd, fb, fp⟩ := fields_C31w1G21w4D15w6B9w6P3w6 0x52000006 c g d b p 6 41 (by decide) (by decide)
  generalize layC31w1G21w4D15w6B9w6P3w6 0x52000006 c g d b p = N at *
  refine roundTrip_row he hn (by rw [e25]; decide) ?_
  rw [row_29 e25]; simp [decodeMajor29, fc, fg, fd, fb, fp, e0, e25]

theorem RoundTrip.strefHomeCheck op : RoundTrip.Statement (.strefHomeCheck op) := roundTrip_event rfl

theorem RoundTrip.ldsB c g d b i : RoundTrip.Statement (.ldsB c g d b i) := by
  have he : encodeNat (.ldsB c g d b i) = some (layC31w1G21w4D15w6B9w6I3w6 0x54000000 c g d b i) := rfl
  have ⟨hn, e0, e25, fc, fg, fd, fb, fi⟩ := fields_C31w1G21w4D15w6B9w6I3w6 0x54000000 c g d b i 0 42 (by decide) (by decide)
  generalize layC31w1G21w4D15w6B9w6I3w6 0x54000000 c g d b i = N at *
  refine roundTrip_row he hn (by rw [e25]; decide) ?_
  rw [row_2A e25]; simp [decodeMajor2A, fc, fg, fd, fb, fi, e0, e25]

theorem RoundTrip.ldsBu c g d b i : RoundTrip.Statement (.ldsBu c g d b i) := by
  have he : encodeNat (.ldsBu c g d b i) = some (layC31w1G21w4D15w6B9w6I3w6 0x54000001 c g d b i) := rfl
  have ⟨hn, e0, e25, fc, fg, fd, fb, fi⟩ := fields_C31w1G21w4D15w6B9w6I3w6 0x54000001 c g d b i 1 42 (by decide) (by decide)
  generalize layC31w1G21w4D15w6B9w6I3w6 0x54000001 c g d b i = N at *
  refine roundTrip_row he hn (by rw [e25]; decide) ?_
  rw [row_2A e25]; simp [decodeMajor2A, fc, fg, fd, fb, fi, e0, e25]

theorem RoundTrip.ldsH c g d b i : RoundTrip.Statement (.ldsH c g d b i) := by
  have he : encodeNat (.ldsH c g d b i) = some (layC31w1G21w4D15w6B9w6I3w6 0x54000002 c g d b i) := rfl
  have ⟨hn, e0, e25, fc, fg, fd, fb, fi⟩ := fields_C31w1G21w4D15w6B9w6I3w6 0x54000002 c g d b i 2 42 (by decide) (by decide)
  generalize layC31w1G21w4D15w6B9w6I3w6 0x54000002 c g d b i = N at *
  refine roundTrip_row he hn (by rw [e25]; decide) ?_
  rw [row_2A e25]; simp [decodeMajor2A, fc, fg, fd, fb, fi, e0, e25]

theorem RoundTrip.ldsHu c g d b i : RoundTrip.Statement (.ldsHu c g d b i) := by
  have he : encodeNat (.ldsHu c g d b i) = some (layC31w1G21w4D15w6B9w6I3w6 0x54000003 c g d b i) := rfl
  have ⟨hn, e0, e25, fc, fg, fd, fb, fi⟩ := fields_C31w1G21w4D15w6B9w6I3w6 0x54000003 c g d b i 3 42 (by decide) (by decide)
  generalize layC31w1G21w4D15w6B9w6I3w6 0x54000003 c g d b i = N at *
  refine roundTrip_row he hn (by rw [e25]; decide) ?_
  rw [row_2A e25]; simp [decodeMajor2A, fc, fg, fd, fb, fi, e0, e25]

theorem RoundTrip.ldsW c g d b i : RoundTrip.Statement (.ldsW c g d b i) := by
  have he : encodeNat (.ldsW c g d b i) = some (layC31w1G21w4D15w6B9w6I3w6 0x54000004 c g d b i) := rfl
  have ⟨hn, e0, e25, fc, fg, fd, fb, fi⟩ := fields_C31w1G21w4D15w6B9w6I3w6 0x54000004 c g d b i 4 42 (by decide) (by decide)
  generalize layC31w1G21w4D15w6B9w6I3w6 0x54000004 c g d b i = N at *
  refine roundTrip_row he hn (by rw [e25]; decide) ?_
  rw [row_2A e25]; simp [decodeMajor2A, fc, fg, fd, fb, fi, e0, e25]

theorem RoundTrip.ldsWu c g d b i : RoundTrip.Statement (.ldsWu c g d b i) := by
  have he : encodeNat (.ldsWu c g d b i) = some (layC31w1G21w4D15w6B9w6I3w6 0x54000005 c g d b i) := rfl
  have ⟨hn, e0, e25, fc, fg, fd, fb, fi⟩ := fields_C31w1G21w4D15w6B9w6I3w6 0x54000005 c g d b i 5 42 (by decide) (by decide)
  generalize layC31w1G21w4D15w6B9w6I3w6 0x54000005 c g d b i = N at *
  refine roundTrip_row he hn (by rw [e25]; decide) ?_
  rw [row_2A e25]; simp [decodeMajor2A, fc, fg, fd, fb, fi, e0, e25]

theorem RoundTrip.ldsD c g d b i : RoundTrip.Statement (.ldsD c g d b i) := by
  have he : encodeNat (.ldsD c g d b i) = some (layC31w1G21w4D15w6B9w6I3w6 0x54000006 c g d b i) := rfl
  have ⟨hn, e0, e25, fc, fg, fd, fb, fi⟩ := fields_C31w1G21w4D15w6B9w6I3w6 0x54000006 c g d b i 6 42 (by decide) (by decide)
  generalize layC31w1G21w4D15w6B9w6I3w6 0x54000006 c g d b i = N at *
  refine roundTrip_row he hn (by rw [e25]; decide) ?_
  rw [row_2A e25]; simp [decodeMajor2A, fc, fg, fd, fb, fi, e0, e25]

theorem RoundTrip.ldsQ c g d b i : RoundTrip.Statement (.ldsQ c g d b i) := by
  have he : encodeNat (.ldsQ c g d b i) = some (layC31w1G21w4D15w6B9w6I3w6 0x54000007 c g d b i) := rfl
  have ⟨hn, e0, e25, fc, fg, fd, fb, fi⟩ := fields_C31w1G21w4D15w6B9w6I3w6 0x54000007 c g d b i 7 42 (by decide) (by decide)
  generalize layC31w1G21w4D15w6B9w6I3w6 0x54000007 c g d b i = N at *
  refine roundTrip_row he hn (by rw [e25]; decide) ?_
  rw [row_2A e25]; simp [decodeMajor2A, fc, fg, fd, fb, fi, e0, e25]

theorem RoundTrip.stsB c g d b i : RoundTrip.Statement (.stsB c g d b i) := by
  have he : encodeNat (.stsB c g d b i) = some (layC31w1G21w4D15w6B9w6I3w6 0x56000000 c g d b i) := rfl
  have ⟨hn, e0, e25, fc, fg, fd, fb, fi⟩ := fields_C31w1G21w4D15w6B9w6I3w6 0x56000000 c g d b i 0 43 (by decide) (by decide)
  generalize layC31w1G21w4D15w6B9w6I3w6 0x56000000 c g d b i = N at *
  refine roundTrip_row he hn (by rw [e25]; decide) ?_
  rw [row_2B e25]; simp [decodeMajor2B, fc, fg, fd, fb, fi, e0, e25]

theorem RoundTrip.stsH c g d b i : RoundTrip.Statement (.stsH c g d b i) := by
  have he : encodeNat (.stsH c g d b i) = some (layC31w1G21w4D15w6B9w6I3w6 0x56000001 c g d b i) := rfl
  have ⟨hn, e0, e25, fc, fg, fd, fb, fi⟩ := fields_C31w1G21w4D15w6B9w6I3w6 0x56000001 c g d b i 1 43 (by decide) (by decide)
  generalize layC31w1G21w4D15w6B9w6I3w6 0x56000001 c g d b i = N at *
  refine roundTrip_row he hn (by rw [e25]; decide) ?_
  rw [row_2B e25]; simp [decodeMajor2B, fc, fg, fd, fb, fi, e0, e25]

theorem RoundTrip.stsW c g d b i : RoundTrip.Statement (.stsW c g d b i) := by
  have he : encodeNat (.stsW c g d b i) = some (layC31w1G21w4D15w6B9w6I3w6 0x56000002 c g d b i) := rfl
  have ⟨hn, e0, e25, fc, fg, fd, fb, fi⟩ := fields_C31w1G21w4D15w6B9w6I3w6 0x56000002 c g d b i 2 43 (by decide) (by decide)
  generalize layC31w1G21w4D15w6B9w6I3w6 0x56000002 c g d b i = N at *
  refine roundTrip_row he hn (by rw [e25]; decide) ?_
  rw [row_2B e25]; simp [decodeMajor2B, fc, fg, fd, fb, fi, e0, e25]

theorem RoundTrip.stsD c g d b i : RoundTrip.Statement (.stsD c g d b i) := by
  have he : encodeNat (.stsD c g d b i) = some (layC31w1G21w4D15w6B9w6I3w6 0x56000003 c g d b i) := rfl
  have ⟨hn, e0, e25, fc, fg, fd, fb, fi⟩ := fields_C31w1G21w4D15w6B9w6I3w6 0x56000003 c g d b i 3 43 (by decide) (by decide)
  generalize layC31w1G21w4D15w6B9w6I3w6 0x56000003 c g d b i = N at *
  refine roundTrip_row he hn (by rw [e25]; decide) ?_
  rw [row_2B e25]; simp [decodeMajor2B, fc, fg, fd, fb, fi, e0, e25]

theorem RoundTrip.stsQ c g d b i : RoundTrip.Statement (.stsQ c g d b i) := by
  have he : encodeNat (.stsQ c g d b i) = some (layC31w1G21w4D15w6B9w6I3w6 0x56000004 c g d b i) := rfl
  have ⟨hn, e0, e25, fc, fg, fd, fb, fi⟩ := fields_C31w1G21w4D15w6B9w6I3w6 0x56000004 c g d b i 4 43 (by decide) (by decide)
  generalize layC31w1G21w4D15w6B9w6I3w6 0x56000004 c g d b i = N at *
  refine roundTrip_row he hn (by rw [e25]; decide) ?_
  rw [row_2B e25]; simp [decodeMajor2B, fc, fg, fd, fb, fi, e0, e25]

theorem RoundTrip.ldfGS c g d b p : RoundTrip.Statement (.ldfGS c g d b p) := by
  have he : encodeNat (.ldfGS c g d b p) = some (layC31w1G21w4D15w6B9w6P3w6 0x58000000 c g d b p) := rfl
  have ⟨hn, e0, e25, fc, fg, fd, fb, fp⟩ := fields_C31w1G21w4D15w6B9w6P3w6 0x58000000 c g d b p 0 44 (by decide) (by decide)
  generalize layC31w1G21w4D15w6B9w6P3w6 0x58000000 c g d b p = N at *
  refine roundTrip_row he hn (by rw [e25]; decide) ?_
  rw [row_2C e25]; simp [decodeMajor2C, fc, fg, fd, fb, fp, e0, e25]

theorem RoundTrip.ldfGD c g d b p : RoundTrip.Statement (.ldfGD c g d b p) := by
  have he : encodeNat (.ldfGD c g d b p) = some (layC31w1G21w4D15w6B9w6P3w6 0x58000001 c g d b p) := rfl
  have ⟨hn, e0, e25, fc, fg, fd, fb, fp⟩ := fields_C31w1G21w4D15w6B9w6P3w6 0x58000001 c g d b p 1 44 (by decide) (by decide)
  generalize layC31w1G21w4D15w6B9w6P3w6 0x58000001 c g d b p = N at *
  refine roundTrip_row he hn (by rw [e25]; decide) ?_
  rw [row_2C e25]; simp [decodeMajor2C, fc, fg, fd, fb, fp, e0, e25]

theorem RoundTrip.ldfGI c g d b p : RoundTrip.Statement (.ldfGI c g d b p) := by
  have he : encodeNat (.ldfGI c g d b p) = some (layC31w1G21w4D15w6B9w6P3w6 0x58000002 c g d b p) := rfl
  have ⟨hn, e0, e25, fc, fg, fd, fb, fp⟩ := fields_C31w1G21w4D15w6B9w6P3w6 0x58000002 c g d b p 2 44 (by decide) (by decide)
  generalize layC31w1G21w4D15w6B9w6P3w6 0x58000002 c g d b p = N at *
  refine roundTrip_row he hn (by rw [e25]; decide) ?_
  rw [row_2C e25]; simp [decodeMajor2C, fc, fg, fd, fb, fp, e0, e25]

theorem RoundTrip.ldfGJ c g d b p : RoundTrip.Statement (.ldfGJ c g d b p) := by
  have he : encodeNat (.ldfGJ c g d b p) = some (layC31w1G21w4D15w6B9w6P3w6 0x58000003 c g d b p) := rfl
  have ⟨hn, e0, e25, fc, fg, fd, fb, fp⟩ := fields_C31w1G21w4D15w6B9w6P3w6 0x58000003 c g d b p 3 44 (by decide) (by decide)
  generalize layC31w1G21w4D15w6B9w6P3w6 0x58000003 c g d b p = N at *
  refine roundTrip_row he hn (by rw [e25]; decide) ?_
  rw [row_2C e25]; simp [decodeMajor2C, fc, fg, fd, fb, fp, e0, e25]

theorem RoundTrip.ldfLS c g d b i : RoundTrip.Statement (.ldfLS c g d b i) := by
  have he : encodeNat (.ldfLS c g d b i) = some (layC31w1G21w4D15w6B9w6I3w6 0x58000004 c g d b i) := rfl
  have ⟨hn, e0, e25, fc, fg, fd, fb, fi⟩ := fields_C31w1G21w4D15w6B9w6I3w6 0x58000004 c g d b i 4 44 (by decide) (by decide)
  generalize layC31w1G21w4D15w6B9w6I3w6 0x58000004 c g d b i = N at *
  refine roundTrip_row he hn (by rw [e25]; decide) ?_
  rw [row_2C e25]; simp [decodeMajor2C, fc, fg, fd, fb, fi, e0, e25]

theorem RoundTrip.ldfLD c g d b i : RoundTrip.Statement (.ldfLD c g d b i) := by
  have he : encodeNat (.ldfLD c g d b i) = some (layC31w1G21w4D15w6B9w6I3w6 0x58000005 c g d b i) := rfl
  have ⟨hn, e0, e25, fc, fg, fd, fb, fi⟩ := fields_C31w1G21w4D15w6B9w6I3w6 0x58000005 c g d b i 5 44 (by decide) (by decide)
  generalize layC31w1G21w4D15w6B9w6I3w6 0x58000005 c g d b i = N at *
  refine roundTrip_row he hn (by rw [e25]; decide) ?_
  rw [row_2C e25]; simp [decodeMajor2C, fc, fg, fd, fb, fi, e0, e25]

theorem RoundTrip.ldfLI c g d b i : RoundTrip.Statement (.ldfLI c g d b i) := by
  have he : encodeNat (.ldfLI c g d b i) = some (layC31w1G21w4D15w6B9w6I3w6 0x58000006 c g d b i) := rfl
  have ⟨hn, e0, e25, fc, fg, fd, fb, fi⟩ := fields_C31w1G21w4D15w6B9w6I3w6 0x58000006 c g d b i 6 44 (by decide) (by decide)
  generalize layC31w1G21w4D15w6B9w6I3w6 0x58000006 c g d b i = N at *
  refine roundTrip_row he hn (by rw [e25]; decide) ?_
  rw [row_2C e25]; simp [decodeMajor2C, fc, fg, fd, fb, fi, e0, e25]

theorem RoundTrip.ldfLJ c g d b i : RoundTrip.Statement (.ldfLJ c g d b i) := by
  have he : encodeNat (.ldfLJ c g d b i) = some (layC31w1G21w4D15w6B9w6I3w6 0x58000007 c g d b i) := rfl
  have ⟨hn, e0, e25, fc, fg, fd, fb, fi⟩ := fields_C31w1G21w4D15w6B9w6I3w6 0x58000007 c g d b i 7 44 (by decide) (by decide)
  generalize layC31w1G21w4D15w6B9w6I3w6 0x58000007 c g d b i = N at *
  refine roundTrip_row he hn (by rw [e25]; decide) ?_
  rw [row_2C e25]; simp [decodeMajor2C, fc, fg, fd, fb, fi, e0, e25]

theorem RoundTrip.stfGS c g d b p : RoundTrip.Statement (.stfGS c g d b p) := by
  have he : encodeNat (.stfGS c g d b p) = some (layC31w1G21w4D15w6B9w6P3w6 0x5A000000 c g d b p) := rfl
  have ⟨hn, e0, e25, fc, fg, fd, fb, fp⟩ := fields_C31w1G21w4D15w6B9w6P3w6 0x5A000000 c g d b p 0 45 (by decide) (by decide)
  generalize layC31w1G21w4D15w6B9w6P3w6 0x5A000000 c g d b p = N at *
  refine roundTrip_row he hn (by rw [e25]; decide) ?_
  rw [row_2D e25]; simp [decodeMajor2D, fc, fg, fd, fb, fp, e0, e25]

theorem RoundTrip.stfGD c g d b p : RoundTrip.Statement (.stfGD c g d b p) := by
  have he : encodeNat (.stfGD c g d b p) = some (layC31w1G21w4D15w6B9w6P3w6 0x5A000001 c g d b p) := rfl
  have ⟨hn, e0, e25, fc, fg, fd, fb, fp⟩ := fields_C31w1G21w4D15w6B9w6P3w6 0x5A000001 c g d b p 1 45 (by decide) (by decide)
  generalize layC31w1G21w4D15w6B9w6P3w6 0x5A000001 c g d b p = N at *
  refine roundTrip_row he hn (by rw [e25]; decide) ?_
  rw [row_2D e25]; simp [decodeMajor2D, fc, fg, fd, fb, fp, e0, e25]

theorem RoundTrip.stfGI c g d b p : RoundTrip.Statement (.stfGI c g d b p) := by
  have he : encodeNat (.stfGI c g d b p) = some (layC31w1G21w4D15w6B9w6P3w6 0x5A000002 c g d b p) := rfl
  have ⟨hn, e0, e25, fc, fg, fd, fb, fp⟩ := fields_C31w1G21w4D15w6B9w6P3w6 0x5A000002 c g d b p 2 45 (by decide) (by decide)
  generalize layC31w1G21w4D15w6B9w6P3w6 0x5A000002 c g d b p = N at *
  refine roundTrip_row he hn (by rw [e25]; decide) ?_
  rw [row_2D e25]; simp [decodeMajor2D, fc, fg, fd, fb, fp, e0, e25]

theorem RoundTrip.stfGJ c g d b p : RoundTrip.Statement (.stfGJ c g d b p) := by
  have he : encodeNat (.stfGJ c g d b p) = some (layC31w1G21w4D15w6B9w6P3w6 0x5A000003 c g d b p) := rfl
  have ⟨hn, e0, e25, fc, fg, fd, fb, fp⟩ := fields_C31w1G21w4D15w6B9w6P3w6 0x5A000003 c g d b p 3 45 (by decide) (by decide)
  generalize layC31w1G21w4D15w6B9w6P3w6 0x5A000003 c g d b p = N at *
  refine roundTrip_row he hn (by rw [e25]; decide) ?_
  rw [row_2D e25]; simp [decodeMajor2D, fc, fg, fd, fb, fp, e0, e25]

theorem RoundTrip.stfLS c g d b i : RoundTrip.Statement (.stfLS c g d b i) := by
  have he : encodeNat (.stfLS c g d b i) = some (layC31w1G21w4D15w6B9w6I3w6 0x5A000004 c g d b i) := rfl
  have ⟨hn, e0, e25, fc, fg, fd, fb, fi⟩ := fields_C31w1G21w4D15w6B9w6I3w6 0x5A000004 c g d b i 4 45 (by decide) (by decide)
  generalize layC31w1G21w4D15w6B9w6I3w6 0x5A000004 c g d b i = N at *
  refine roundTrip_row he hn (by rw [e25]; decide) ?_
  rw [row_2D e25]; simp [decodeMajor2D, fc, fg, fd, fb, fi, e0, e25]

theorem RoundTrip.stfLD c g d b i : RoundTrip.Statement (.stfLD c g d b i) := by
  have he : encodeNat (.stfLD c g d b i) = some (layC31w1G21w4D15w6B9w6I3w6 0x5A000005 c g d b i) := rfl
  have ⟨hn, e0, e25, fc, fg, fd, fb, fi⟩ := fields_C31w1G21w4D15w6B9w6I3w6 0x5A000005 c g d b i 5 45 (by decide) (by decide)
  generalize layC31w1G21w4D15w6B9w6I3w6 0x5A000005 c g d b i = N at *
  refine roundTrip_row he hn (by rw [e25]; decide) ?_
  rw [row_2D e25]; simp [decodeMajor2D, fc, fg, fd, fb, fi, e0, e25]

theorem RoundTrip.stfLI c g d b i : RoundTrip.Statement (.stfLI c g d b i) := by
  have he : encodeNat (.stfLI c g d b i) = some (layC31w1G21w4D15w6B9w6I3w6 0x5A000006 c g d b i) := rfl
  have ⟨hn, e0, e25, fc, fg, fd, fb, fi⟩ := fields_C31w1G21w4D15w6B9w6I3w6 0x5A000006 c g d b i 6 45 (by decide) (by decide)
  generalize layC31w1G21w4D15w6B9w6I3w6 0x5A000006 c g d b i = N at *
  refine roundTrip_row he hn (by rw [e25]; decide) ?_
  rw [row_2D e25]; simp [decodeMajor2D, fc, fg, fd, fb, fi, e0, e25]

theorem RoundTrip.stfLJ c g d b i : RoundTrip.Statement (.stfLJ c g d b i) := by
  have he : encodeNat (.stfLJ c g d b i) = some (layC31w1G21w4D15w6B9w6I3w6 0x5A000007 c g d b i) := rfl
  have ⟨hn, e0, e25, fc, fg, fd, fb, fi⟩ := fields_C31w1G21w4D15w6B9w6I3w6 0x5A000007 c g d b i 7 45 (by decide) (by decide)
  generalize layC31w1G21w4D15w6B9w6I3w6 0x5A000007 c g d b i = N at *
  refine roundTrip_row he hn (by rw [e25]; decide) ?_
  rw [row_2D e25]; simp [decodeMajor2D, fc, fg, fd, fb, fi, e0, e25]

theorem RoundTrip.loadReply op evict : RoundTrip.Statement (.loadReply op evict) := roundTrip_event rfl

theorem RoundTrip.storeFaultFound op : RoundTrip.Statement (.storeFaultFound op) := roundTrip_event rfl

theorem RoundTrip.amogAddW c g d b v : RoundTrip.Statement (.amogAddW c g d b v) := by
  have he : encodeNat (.amogAddW c g d b v) = some (layC31w1G21w4D15w6B9w6V3w6 0x5C000000 c g d b v) := rfl
  have ⟨hn, e0, e25, fc, fg, fd, fb, fv⟩ := fields_C31w1G21w4D15w6B9w6V3w6 0x5C000000 c g d b v 0 46 (by decide) (by decide)
  generalize layC31w1G21w4D15w6B9w6V3w6 0x5C000000 c g d b v = N at *
  refine roundTrip_row he hn (by rw [e25]; decide) ?_
  rw [row_2E e25]; simp [decodeMajor2E, fc, fg, fd, fb, fv, e0, e25]

theorem RoundTrip.amogAddD c g d b v : RoundTrip.Statement (.amogAddD c g d b v) := by
  have he : encodeNat (.amogAddD c g d b v) = some (layC31w1G21w4D15w6B9w6V3w6 0x5C000001 c g d b v) := rfl
  have ⟨hn, e0, e25, fc, fg, fd, fb, fv⟩ := fields_C31w1G21w4D15w6B9w6V3w6 0x5C000001 c g d b v 1 46 (by decide) (by decide)
  generalize layC31w1G21w4D15w6B9w6V3w6 0x5C000001 c g d b v = N at *
  refine roundTrip_row he hn (by rw [e25]; decide) ?_
  rw [row_2E e25]; simp [decodeMajor2E, fc, fg, fd, fb, fv, e0, e25]

theorem RoundTrip.amogMaxW c g d b v : RoundTrip.Statement (.amogMaxW c g d b v) := by
  have he : encodeNat (.amogMaxW c g d b v) = some (layC31w1G21w4D15w6B9w6V3w6 0x5C000002 c g d b v) := rfl
  have ⟨hn, e0, e25, fc, fg, fd, fb, fv⟩ := fields_C31w1G21w4D15w6B9w6V3w6 0x5C000002 c g d b v 2 46 (by decide) (by decide)
  generalize layC31w1G21w4D15w6B9w6V3w6 0x5C000002 c g d b v = N at *
  refine roundTrip_row he hn (by rw [e25]; decide) ?_
  rw [row_2E e25]; simp [decodeMajor2E, fc, fg, fd, fb, fv, e0, e25]

theorem RoundTrip.amogMinW c g d b v : RoundTrip.Statement (.amogMinW c g d b v) := by
  have he : encodeNat (.amogMinW c g d b v) = some (layC31w1G21w4D15w6B9w6V3w6 0x5C000003 c g d b v) := rfl
  have ⟨hn, e0, e25, fc, fg, fd, fb, fv⟩ := fields_C31w1G21w4D15w6B9w6V3w6 0x5C000003 c g d b v 3 46 (by decide) (by decide)
  generalize layC31w1G21w4D15w6B9w6V3w6 0x5C000003 c g d b v = N at *
  refine roundTrip_row he hn (by rw [e25]; decide) ?_
  rw [row_2E e25]; simp [decodeMajor2E, fc, fg, fd, fb, fv, e0, e25]

theorem RoundTrip.amogSwapW c g d b v : RoundTrip.Statement (.amogSwapW c g d b v) := by
  have he : encodeNat (.amogSwapW c g d b v) = some (layC31w1G21w4D15w6B9w6V3w6 0x5C000004 c g d b v) := rfl
  have ⟨hn, e0, e25, fc, fg, fd, fb, fv⟩ := fields_C31w1G21w4D15w6B9w6V3w6 0x5C000004 c g d b v 4 46 (by decide) (by decide)
  generalize layC31w1G21w4D15w6B9w6V3w6 0x5C000004 c g d b v = N at *
  refine roundTrip_row he hn (by rw [e25]; decide) ?_
  rw [row_2E e25]; simp [decodeMajor2E, fc, fg, fd, fb, fv, e0, e25]

theorem RoundTrip.amogSwapD c g d b v : RoundTrip.Statement (.amogSwapD c g d b v) := by
  have he : encodeNat (.amogSwapD c g d b v) = some (layC31w1G21w4D15w6B9w6V3w6 0x5C000005 c g d b v) := rfl
  have ⟨hn, e0, e25, fc, fg, fd, fb, fv⟩ := fields_C31w1G21w4D15w6B9w6V3w6 0x5C000005 c g d b v 5 46 (by decide) (by decide)
  generalize layC31w1G21w4D15w6B9w6V3w6 0x5C000005 c g d b v = N at *
  refine roundTrip_row he hn (by rw [e25]; decide) ?_
  rw [row_2E e25]; simp [decodeMajor2E, fc, fg, fd, fb, fv, e0, e25]

theorem RoundTrip.amogCasW c g d b v : RoundTrip.Statement (.amogCasW c g d b v) := by
  have he : encodeNat (.amogCasW c g d b v) = some (layC31w1G21w4D15w6B9w6V3w6 0x5C000006 c g d b v) := rfl
  have ⟨hn, e0, e25, fc, fg, fd, fb, fv⟩ := fields_C31w1G21w4D15w6B9w6V3w6 0x5C000006 c g d b v 6 46 (by decide) (by decide)
  generalize layC31w1G21w4D15w6B9w6V3w6 0x5C000006 c g d b v = N at *
  refine roundTrip_row he hn (by rw [e25]; decide) ?_
  rw [row_2E e25]; simp [decodeMajor2E, fc, fg, fd, fb, fv, e0, e25]

theorem RoundTrip.amogCasD c g d b v : RoundTrip.Statement (.amogCasD c g d b v) := by
  have he : encodeNat (.amogCasD c g d b v) = some (layC31w1G21w4D15w6B9w6V3w6 0x5C000007 c g d b v) := rfl
  have ⟨hn, e0, e25, fc, fg, fd, fb, fv⟩ := fields_C31w1G21w4D15w6B9w6V3w6 0x5C000007 c g d b v 7 46 (by decide) (by decide)
  generalize layC31w1G21w4D15w6B9w6V3w6 0x5C000007 c g d b v = N at *
  refine roundTrip_row he hn (by rw [e25]; decide) ?_
  rw [row_2E e25]; simp [decodeMajor2E, fc, fg, fd, fb, fv, e0, e25]

theorem RoundTrip.amog2AndD c g d b v : RoundTrip.Statement (.amog2AndD c g d b v) := by
  have he : encodeNat (.amog2AndD c g d b v) = some (layC31w1G21w4D15w6B9w6V3w6 0x5E000000 c g d b v) := rfl
  have ⟨hn, e0, e25, fc, fg, fd, fb, fv⟩ := fields_C31w1G21w4D15w6B9w6V3w6 0x5E000000 c g d b v 0 47 (by decide) (by decide)
  generalize layC31w1G21w4D15w6B9w6V3w6 0x5E000000 c g d b v = N at *
  refine roundTrip_row he hn (by rw [e25]; decide) ?_
  rw [row_2F e25]; simp [decodeMajor2F, fc, fg, fd, fb, fv, e0, e25]

theorem RoundTrip.amog2OrD c g d b v : RoundTrip.Statement (.amog2OrD c g d b v) := by
  have he : encodeNat (.amog2OrD c g d b v) = some (layC31w1G21w4D15w6B9w6V3w6 0x5E000001 c g d b v) := rfl
  have ⟨hn, e0, e25, fc, fg, fd, fb, fv⟩ := fields_C31w1G21w4D15w6B9w6V3w6 0x5E000001 c g d b v 1 47 (by decide) (by decide)
  generalize layC31w1G21w4D15w6B9w6V3w6 0x5E000001 c g d b v = N at *
  refine roundTrip_row he hn (by rw [e25]; decide) ?_
  rw [row_2F e25]; simp [decodeMajor2F, fc, fg, fd, fb, fv, e0, e25]

theorem RoundTrip.amog2XorD c g d b v : RoundTrip.Statement (.amog2XorD c g d b v) := by
  have he : encodeNat (.amog2XorD c g d b v) = some (layC31w1G21w4D15w6B9w6V3w6 0x5E000002 c g d b v) := rfl
  have ⟨hn, e0, e25, fc, fg, fd, fb, fv⟩ := fields_C31w1G21w4D15w6B9w6V3w6 0x5E000002 c g d b v 2 47 (by decide) (by decide)
  generalize layC31w1G21w4D15w6B9w6V3w6 0x5E000002 c g d b v = N at *
  refine roundTrip_row he hn (by rw [e25]; decide) ?_
  rw [row_2F e25]; simp [decodeMajor2F, fc, fg, fd, fb, fv, e0, e25]

theorem RoundTrip.amog2MaxuD c g d b v : RoundTrip.Statement (.amog2MaxuD c g d b v) := by
  have he : encodeNat (.amog2MaxuD c g d b v) = some (layC31w1G21w4D15w6B9w6V3w6 0x5E000003 c g d b v) := rfl
  have ⟨hn, e0, e25, fc, fg, fd, fb, fv⟩ := fields_C31w1G21w4D15w6B9w6V3w6 0x5E000003 c g d b v 3 47 (by decide) (by decide)
  generalize layC31w1G21w4D15w6B9w6V3w6 0x5E000003 c g d b v = N at *
  refine roundTrip_row he hn (by rw [e25]; decide) ?_
  rw [row_2F e25]; simp [decodeMajor2F, fc, fg, fd, fb, fv, e0, e25]

theorem RoundTrip.amog2MinuD c g d b v : RoundTrip.Statement (.amog2MinuD c g d b v) := by
  have he : encodeNat (.amog2MinuD c g d b v) = some (layC31w1G21w4D15w6B9w6V3w6 0x5E000004 c g d b v) := rfl
  have ⟨hn, e0, e25, fc, fg, fd, fb, fv⟩ := fields_C31w1G21w4D15w6B9w6V3w6 0x5E000004 c g d b v 4 47 (by decide) (by decide)
  generalize layC31w1G21w4D15w6B9w6V3w6 0x5E000004 c g d b v = N at *
  refine roundTrip_row he hn (by rw [e25]; decide) ?_
  rw [row_2F e25]; simp [decodeMajor2F, fc, fg, fd, fb, fv, e0, e25]

theorem RoundTrip.amog2AndW c g d b v : RoundTrip.Statement (.amog2AndW c g d b v) := by
  have he : encodeNat (.amog2AndW c g d b v) = some (layC31w1G21w4D15w6B9w6V3w6 0x5E000005 c g d b v) := rfl
  have ⟨hn, e0, e25, fc, fg, fd, fb, fv⟩ := fields_C31w1G21w4D15w6B9w6V3w6 0x5E000005 c g d b v 5 47 (by decide) (by decide)
  generalize layC31w1G21w4D15w6B9w6V3w6 0x5E000005 c g d b v = N at *
  refine roundTrip_row he hn (by rw [e25]; decide) ?_
  rw [row_2F e25]; simp [decodeMajor2F, fc, fg, fd, fb, fv, e0, e25]

theorem RoundTrip.amog2OrW c g d b v : RoundTrip.Statement (.amog2OrW c g d b v) := by
  have he : encodeNat (.amog2OrW c g d b v) = some (layC31w1G21w4D15w6B9w6V3w6 0x5E000006 c g d b v) := rfl
  have ⟨hn, e0, e25, fc, fg, fd, fb, fv⟩ := fields_C31w1G21w4D15w6B9w6V3w6 0x5E000006 c g d b v 6 47 (by decide) (by decide)
  generalize layC31w1G21w4D15w6B9w6V3w6 0x5E000006 c g d b v = N at *
  refine roundTrip_row he hn (by rw [e25]; decide) ?_
  rw [row_2F e25]; simp [decodeMajor2F, fc, fg, fd, fb, fv, e0, e25]

theorem RoundTrip.amog2XorW c g d b v : RoundTrip.Statement (.amog2XorW c g d b v) := by
  have he : encodeNat (.amog2XorW c g d b v) = some (layC31w1G21w4D15w6B9w6V3w6 0x5E000007 c g d b v) := rfl
  have ⟨hn, e0, e25, fc, fg, fd, fb, fv⟩ := fields_C31w1G21w4D15w6B9w6V3w6 0x5E000007 c g d b v 7 47 (by decide) (by decide)
  generalize layC31w1G21w4D15w6B9w6V3w6 0x5E000007 c g d b v = N at *
  refine roundTrip_row he hn (by rw [e25]; decide) ?_
  rw [row_2F e25]; simp [decodeMajor2F, fc, fg, fd, fb, fv, e0, e25]

theorem RoundTrip.amogscAddW c g d b v : RoundTrip.Statement (.amogscAddW c g d b v) := by
  have he : encodeNat (.amogscAddW c g d b v) = some (layC31w1G21w4D15w6B9w6V3w6 0x60000000 c g d b v) := rfl
  have ⟨hn, e0, e25, fc, fg, fd, fb, fv⟩ := fields_C31w1G21w4D15w6B9w6V3w6 0x60000000 c g d b v 0 48 (by decide) (by decide)
  generalize layC31w1G21w4D15w6B9w6V3w6 0x60000000 c g d b v = N at *
  refine roundTrip_row he hn (by rw [e25]; decide) ?_
  rw [row_30 e25]; simp [decodeMajor30, fc, fg, fd, fb, fv, e0, e25]

theorem RoundTrip.amogscAddD c g d b v : RoundTrip.Statement (.amogscAddD c g d b v) := by
  have he : encodeNat (.amogscAddD c g d b v) = some (layC31w1G21w4D15w6B9w6V3w6 0x60000001 c g d b v) := rfl
  have ⟨hn, e0, e25, fc, fg, fd, fb, fv⟩ := fields_C31w1G21w4D15w6B9w6V3w6 0x60000001 c g d b v 1 48 (by decide) (by decide)
  generalize layC31w1G21w4D15w6B9w6V3w6 0x60000001 c g d b v = N at *
  refine roundTrip_row he hn (by rw [e25]; decide) ?_
  rw [row_30 e25]; simp [decodeMajor30, fc, fg, fd, fb, fv, e0, e25]

theorem RoundTrip.amogscMaxW c g d b v : RoundTrip.Statement (.amogscMaxW c g d b v) := by
  have he : encodeNat (.amogscMaxW c g d b v) = some (layC31w1G21w4D15w6B9w6V3w6 0x60000002 c g d b v) := rfl
  have ⟨hn, e0, e25, fc, fg, fd, fb, fv⟩ := fields_C31w1G21w4D15w6B9w6V3w6 0x60000002 c g d b v 2 48 (by decide) (by decide)
  generalize layC31w1G21w4D15w6B9w6V3w6 0x60000002 c g d b v = N at *
  refine roundTrip_row he hn (by rw [e25]; decide) ?_
  rw [row_30 e25]; simp [decodeMajor30, fc, fg, fd, fb, fv, e0, e25]

theorem RoundTrip.amogscMinW c g d b v : RoundTrip.Statement (.amogscMinW c g d b v) := by
  have he : encodeNat (.amogscMinW c g d b v) = some (layC31w1G21w4D15w6B9w6V3w6 0x60000003 c g d b v) := rfl
  have ⟨hn, e0, e25, fc, fg, fd, fb, fv⟩ := fields_C31w1G21w4D15w6B9w6V3w6 0x60000003 c g d b v 3 48 (by decide) (by decide)
  generalize layC31w1G21w4D15w6B9w6V3w6 0x60000003 c g d b v = N at *
  refine roundTrip_row he hn (by rw [e25]; decide) ?_
  rw [row_30 e25]; simp [decodeMajor30, fc, fg, fd, fb, fv, e0, e25]

theorem RoundTrip.amogscSwapW c g d b v : RoundTrip.Statement (.amogscSwapW c g d b v) := by
  have he : encodeNat (.amogscSwapW c g d b v) = some (layC31w1G21w4D15w6B9w6V3w6 0x60000004 c g d b v) := rfl
  have ⟨hn, e0, e25, fc, fg, fd, fb, fv⟩ := fields_C31w1G21w4D15w6B9w6V3w6 0x60000004 c g d b v 4 48 (by decide) (by decide)
  generalize layC31w1G21w4D15w6B9w6V3w6 0x60000004 c g d b v = N at *
  refine roundTrip_row he hn (by rw [e25]; decide) ?_
  rw [row_30 e25]; simp [decodeMajor30, fc, fg, fd, fb, fv, e0, e25]

theorem RoundTrip.amogscSwapD c g d b v : RoundTrip.Statement (.amogscSwapD c g d b v) := by
  have he : encodeNat (.amogscSwapD c g d b v) = some (layC31w1G21w4D15w6B9w6V3w6 0x60000005 c g d b v) := rfl
  have ⟨hn, e0, e25, fc, fg, fd, fb, fv⟩ := fields_C31w1G21w4D15w6B9w6V3w6 0x60000005 c g d b v 5 48 (by decide) (by decide)
  generalize layC31w1G21w4D15w6B9w6V3w6 0x60000005 c g d b v = N at *
  refine roundTrip_row he hn (by rw [e25]; decide) ?_
  rw [row_30 e25]; simp [decodeMajor30, fc, fg, fd, fb, fv, e0, e25]

theorem RoundTrip.amogscCasW c g d b v : RoundTrip.Statement (.amogscCasW c g d b v) := by
  have he : encodeNat (.amogscCasW c g d b v) = some (layC31w1G21w4D15w6B9w6V3w6 0x60000006 c g d b v) := rfl
  have ⟨hn, e0, e25, fc, fg, fd, fb, fv⟩ := fields_C31w1G21w4D15w6B9w6V3w6 0x60000006 c g d b v 6 48 (by decide) (by decide)
  generalize layC31w1G21w4D15w6B9w6V3w6 0x60000006 c g d b v = N at *
  refine roundTrip_row he hn (by rw [e25]; decide) ?_
  rw [row_30 e25]; simp [decodeMajor30, fc, fg, fd, fb, fv, e0, e25]

theorem RoundTrip.amogscCasD c g d b v : RoundTrip.Statement (.amogscCasD c g d b v) := by
  have he : encodeNat (.amogscCasD c g d b v) = some (layC31w1G21w4D15w6B9w6V3w6 0x60000007 c g d b v) := rfl
  have ⟨hn, e0, e25, fc, fg, fd, fb, fv⟩ := fields_C31w1G21w4D15w6B9w6V3w6 0x60000007 c g d b v 7 48 (by decide) (by decide)
  generalize layC31w1G21w4D15w6B9w6V3w6 0x60000007 c g d b v = N at *
  refine roundTrip_row he hn (by rw [e25]; decide) ?_
  rw [row_30 e25]; simp [decodeMajor30, fc, fg, fd, fb, fv, e0, e25]

theorem RoundTrip.amosAddW c g d b v : RoundTrip.Statement (.amosAddW c g d b v) := by
  have he : encodeNat (.amosAddW c g d b v) = some (layC31w1G21w4D15w6B9w6V3w6 0x62000000 c g d b v) := rfl
  have ⟨hn, e0, e25, fc, fg, fd, fb, fv⟩ := fields_C31w1G21w4D15w6B9w6V3w6 0x62000000 c g d b v 0 49 (by decide) (by decide)
  generalize layC31w1G21w4D15w6B9w6V3w6 0x62000000 c g d b v = N at *
  refine roundTrip_row he hn (by rw [e25]; decide) ?_
  rw [row_31 e25]; simp [decodeMajor31, fc, fg, fd, fb, fv, e0, e25]

theorem RoundTrip.amosAddD c g d b v : RoundTrip.Statement (.amosAddD c g d b v) := by
  have he : encodeNat (.amosAddD c g d b v) = some (layC31w1G21w4D15w6B9w6V3w6 0x62000001 c g d b v) := rfl
  have ⟨hn, e0, e25, fc, fg, fd, fb, fv⟩ := fields_C31w1G21w4D15w6B9w6V3w6 0x62000001 c g d b v 1 49 (by decide) (by decide)
  generalize layC31w1G21w4D15w6B9w6V3w6 0x62000001 c g d b v = N at *
  refine roundTrip_row he hn (by rw [e25]; decide) ?_
  rw [row_31 e25]; simp [decodeMajor31, fc, fg, fd, fb, fv, e0, e25]

theorem RoundTrip.amosMaxW c g d b v : RoundTrip.Statement (.amosMaxW c g d b v) := by
  have he : encodeNat (.amosMaxW c g d b v) = some (layC31w1G21w4D15w6B9w6V3w6 0x62000002 c g d b v) := rfl
  have ⟨hn, e0, e25, fc, fg, fd, fb, fv⟩ := fields_C31w1G21w4D15w6B9w6V3w6 0x62000002 c g d b v 2 49 (by decide) (by decide)
  generalize layC31w1G21w4D15w6B9w6V3w6 0x62000002 c g d b v = N at *
  refine roundTrip_row he hn (by rw [e25]; decide) ?_
  rw [row_31 e25]; simp [decodeMajor31, fc, fg, fd, fb, fv, e0, e25]

theorem RoundTrip.amosMinW c g d b v : RoundTrip.Statement (.amosMinW c g d b v) := by
  have he : encodeNat (.amosMinW c g d b v) = some (layC31w1G21w4D15w6B9w6V3w6 0x62000003 c g d b v) := rfl
  have ⟨hn, e0, e25, fc, fg, fd, fb, fv⟩ := fields_C31w1G21w4D15w6B9w6V3w6 0x62000003 c g d b v 3 49 (by decide) (by decide)
  generalize layC31w1G21w4D15w6B9w6V3w6 0x62000003 c g d b v = N at *
  refine roundTrip_row he hn (by rw [e25]; decide) ?_
  rw [row_31 e25]; simp [decodeMajor31, fc, fg, fd, fb, fv, e0, e25]

theorem RoundTrip.amosSwapW c g d b v : RoundTrip.Statement (.amosSwapW c g d b v) := by
  have he : encodeNat (.amosSwapW c g d b v) = some (layC31w1G21w4D15w6B9w6V3w6 0x62000004 c g d b v) := rfl
  have ⟨hn, e0, e25, fc, fg, fd, fb, fv⟩ := fields_C31w1G21w4D15w6B9w6V3w6 0x62000004 c g d b v 4 49 (by decide) (by decide)
  generalize layC31w1G21w4D15w6B9w6V3w6 0x62000004 c g d b v = N at *
  refine roundTrip_row he hn (by rw [e25]; decide) ?_
  rw [row_31 e25]; simp [decodeMajor31, fc, fg, fd, fb, fv, e0, e25]

theorem RoundTrip.amosSwapD c g d b v : RoundTrip.Statement (.amosSwapD c g d b v) := by
  have he : encodeNat (.amosSwapD c g d b v) = some (layC31w1G21w4D15w6B9w6V3w6 0x62000005 c g d b v) := rfl
  have ⟨hn, e0, e25, fc, fg, fd, fb, fv⟩ := fields_C31w1G21w4D15w6B9w6V3w6 0x62000005 c g d b v 5 49 (by decide) (by decide)
  generalize layC31w1G21w4D15w6B9w6V3w6 0x62000005 c g d b v = N at *
  refine roundTrip_row he hn (by rw [e25]; decide) ?_
  rw [row_31 e25]; simp [decodeMajor31, fc, fg, fd, fb, fv, e0, e25]

theorem RoundTrip.amosCasW c g d b v : RoundTrip.Statement (.amosCasW c g d b v) := by
  have he : encodeNat (.amosCasW c g d b v) = some (layC31w1G21w4D15w6B9w6V3w6 0x62000006 c g d b v) := rfl
  have ⟨hn, e0, e25, fc, fg, fd, fb, fv⟩ := fields_C31w1G21w4D15w6B9w6V3w6 0x62000006 c g d b v 6 49 (by decide) (by decide)
  generalize layC31w1G21w4D15w6B9w6V3w6 0x62000006 c g d b v = N at *
  refine roundTrip_row he hn (by rw [e25]; decide) ?_
  rw [row_31 e25]; simp [decodeMajor31, fc, fg, fd, fb, fv, e0, e25]

theorem RoundTrip.amosCasD c g d b v : RoundTrip.Statement (.amosCasD c g d b v) := by
  have he : encodeNat (.amosCasD c g d b v) = some (layC31w1G21w4D15w6B9w6V3w6 0x62000007 c g d b v) := rfl
  have ⟨hn, e0, e25, fc, fg, fd, fb, fv⟩ := fields_C31w1G21w4D15w6B9w6V3w6 0x62000007 c g d b v 7 49 (by decide) (by decide)
  generalize layC31w1G21w4D15w6B9w6V3w6 0x62000007 c g d b v = N at *
  refine roundTrip_row he hn (by rw [e25]; decide) ?_
  rw [row_31 e25]; simp [decodeMajor31, fc, fg, fd, fb, fv, e0, e25]

theorem RoundTrip.atomicPerform op : RoundTrip.Statement (.atomicPerform op) := roundTrip_event rfl

theorem RoundTrip.atomicReply op : RoundTrip.Statement (.atomicReply op) := roundTrip_event rfl

theorem RoundTrip.fence c g p s k : RoundTrip.Statement (.fence c g p s k) := by
  have he : encodeNat (.fence c g p s k) = some (layC31w1G21w4P15w6S9w6K6w3 0x64000000 c g p s k) := rfl
  have ⟨hn, e0, e25, fc, fg, fp, fs, fk⟩ := fields_C31w1G21w4P15w6S9w6K6w3 0x64000000 c g p s k 0 50 (by decide) (by decide)
  generalize layC31w1G21w4P15w6S9w6K6w3 0x64000000 c g p s k = N at *
  refine roundTrip_row he hn (by rw [e25]; decide) ?_
  rw [row_32 e25]; simp [decodeMajor32, fc, fg, fp, fs, fk, e0, e25]

theorem RoundTrip.fenceReleaseHeld op : RoundTrip.Statement (.fenceReleaseHeld op) := roundTrip_event rfl

theorem RoundTrip.pfl c g b p : RoundTrip.Statement (.pfl c g b p) := by
  have he : encodeNat (.pfl c g b p) = some (layC31w1G21w4B9w6P3w6 0x66000000 c g b p) := rfl
  have ⟨hn, e0, e15, e25, fc, fg, fb, fp⟩ := fields_C31w1G21w4B9w6P3w6 0x66000000 c g b p 0 0 51 (by decide) (by decide)
  generalize layC31w1G21w4B9w6P3w6 0x66000000 c g b p = N at *
  refine roundTrip_row he hn (by rw [e25]; decide) ?_
  rw [row_33 e25]; simp [decodeMajor33, fc, fg, fb, fp, e0, e15, e25]

theorem RoundTrip.pfr c g t b l : RoundTrip.Statement (.pfr c g t b l) := by
  have he : encodeNat (.pfr c g t b l) = some (layC31w1G21w4T15w6B9w6L3w6 0x66000001 c g t b l) := rfl
  have ⟨hn, e0, e25, fc, fg, ft, fb, fl⟩ := fields_C31w1G21w4T15w6B9w6L3w6 0x66000001 c g t b l 1 51 (by decide) (by decide)
  generalize layC31w1G21w4T15w6B9w6L3w6 0x66000001 c g t b l = N at *
  refine roundTrip_row he hn (by rw [e25]; decide) ?_
  rw [row_33 e25]; simp [decodeMajor33, fc, fg, ft, fb, fl, e0, e25]

theorem RoundTrip.wbl1 c g b l : RoundTrip.Statement (.wbl1 c g b l) := by
  have he : encodeNat (.wbl1 c g b l) = some (layC31w1G21w4B9w6L3w6 0x66000002 c g b l) := rfl
  have ⟨hn, e0, e15, e25, fc, fg, fb, fl⟩ := fields_C31w1G21w4B9w6L3w6 0x66000002 c g b l 2 0 51 (by decide) (by decide)
  generalize layC31w1G21w4B9w6L3w6 0x66000002 c g b l = N at *
  refine roundTrip_row he hn (by rw [e25]; decide) ?_
  rw [row_33 e25]; simp [decodeMajor33, fc, fg, fb, fl, e0, e15, e25]

theorem RoundTrip.invl1 c g b l : RoundTrip.Statement (.invl1 c g b l) := by
  have he : encodeNat (.invl1 c g b l) = some (layC31w1G21w4B9w6L3w6 0x66000003 c g b l) := rfl
  have ⟨hn, e0, e15, e25, fc, fg, fb, fl⟩ := fields_C31w1G21w4B9w6L3w6 0x66000003 c g b l 3 0 51 (by decide) (by decide)
  generalize layC31w1G21w4B9w6L3w6 0x66000003 c g b l = N at *
  refine roundTrip_row he hn (by rw [e25]; decide) ?_
  rw [row_33 e25]; simp [decodeMajor33, fc, fg, fb, fl, e0, e15, e25]

theorem RoundTrip.acqr c g d b l : RoundTrip.Statement (.acqr c g d b l) := by
  have he : encodeNat (.acqr c g d b l) = some (layC31w1G21w4D15w6B9w6L3w6 0x66000004 c g d b l) := rfl
  have ⟨hn, e0, e25, fc, fg, fd, fb, fl⟩ := fields_C31w1G21w4D15w6B9w6L3w6 0x66000004 c g d b l 4 51 (by decide) (by decide)
  generalize layC31w1G21w4D15w6B9w6L3w6 0x66000004 c g d b l = N at *
  refine roundTrip_row he hn (by rw [e25]; decide) ?_
  rw [row_33 e25]; simp [decodeMajor33, fc, fg, fd, fb, fl, e0, e25]

theorem RoundTrip.acqrComplete op : RoundTrip.Statement (.acqrComplete op) := roundTrip_event rfl

theorem RoundTrip.pub c g d b s : RoundTrip.Statement (.pub c g d b s) := by
  have he : encodeNat (.pub c g d b s) = some (layC31w1G21w4D15w6B9w6S3w6 0x68000000 c g d b s) := rfl
  have ⟨hn, e0, e25, fc, fg, fd, fb, fs⟩ := fields_C31w1G21w4D15w6B9w6S3w6 0x68000000 c g d b s 0 52 (by decide) (by decide)
  generalize layC31w1G21w4D15w6B9w6S3w6 0x68000000 c g d b s = N at *
  refine roundTrip_row he hn (by rw [e25]; decide) ?_
  rw [row_34 e25]; simp [decodeMajor34, fc, fg, fd, fb, fs, e0, e25]

theorem RoundTrip.tagof c g d b p : RoundTrip.Statement (.tagof c g d b p) := by
  have he : encodeNat (.tagof c g d b p) = some (layC31w1G21w4D15w6B9w6P3w6 0x68000001 c g d b p) := rfl
  have ⟨hn, e0, e25, fc, fg, fd, fb, fp⟩ := fields_C31w1G21w4D15w6B9w6P3w6 0x68000001 c g d b p 1 52 (by decide) (by decide)
  generalize layC31w1G21w4D15w6B9w6P3w6 0x68000001 c g d b p = N at *
  refine roundTrip_row he hn (by rw [e25]; decide) ?_
  rw [row_34 e25]; simp [decodeMajor34, fc, fg, fd, fb, fp, e0, e25]

theorem RoundTrip.scopeof c g d b p : RoundTrip.Statement (.scopeof c g d b p) := by
  have he : encodeNat (.scopeof c g d b p) = some (layC31w1G21w4D15w6B9w6P3w6 0x68000002 c g d b p) := rfl
  have ⟨hn, e0, e25, fc, fg, fd, fb, fp⟩ := fields_C31w1G21w4D15w6B9w6P3w6 0x68000002 c g d b p 2 52 (by decide) (by decide)
  generalize layC31w1G21w4D15w6B9w6P3w6 0x68000002 c g d b p = N at *
  refine roundTrip_row he hn (by rw [e25]; decide) ?_
  rw [row_34 e25]; simp [decodeMajor34, fc, fg, fd, fb, fp, e0, e25]

theorem RoundTrip.colr c g d b l : RoundTrip.Statement (.colr c g d b l) := by
  have he : encodeNat (.colr c g d b l) = some (layC31w1G21w4D15w6B9w6L3w6 0x68000003 c g d b l) := rfl
  have ⟨hn, e0, e25, fc, fg, fd, fb, fl⟩ := fields_C31w1G21w4D15w6B9w6L3w6 0x68000003 c g d b l 3 52 (by decide) (by decide)
  generalize layC31w1G21w4D15w6B9w6L3w6 0x68000003 c g d b l = N at *
  refine roundTrip_row he hn (by rw [e25]; decide) ?_
  rw [row_34 e25]; simp [decodeMajor34, fc, fg, fd, fb, fl, e0, e25]

theorem RoundTrip.colof c g d b p : RoundTrip.Statement (.colof c g d b p) := by
  have he : encodeNat (.colof c g d b p) = some (layC31w1G21w4D15w6B9w6P3w6 0x68000004 c g d b p) := rfl
  have ⟨hn, e0, e25, fc, fg, fd, fb, fp⟩ := fields_C31w1G21w4D15w6B9w6P3w6 0x68000004 c g d b p 4 52 (by decide) (by decide)
  generalize layC31w1G21w4D15w6B9w6P3w6 0x68000004 c g d b p = N at *
  refine roundTrip_row he hn (by rw [e25]; decide) ?_
  rw [row_34 e25]; simp [decodeMajor34, fc, fg, fd, fb, fp, e0, e25]

theorem RoundTrip.colrLine op : RoundTrip.Statement (.colrLine op) := roundTrip_event rfl

theorem RoundTrip.walkStart op : RoundTrip.Statement (.walkStart op) := roundTrip_event rfl

theorem RoundTrip.walkObject walk : RoundTrip.Statement (.walkObject walk) := roundTrip_event rfl

theorem RoundTrip.cwait c g b : RoundTrip.Statement (.cwait c g b) := by
  have he : encodeNat (.cwait c g b) = some (layC31w1G21w4B9w6 0x6A000000 c g b) := rfl
  have ⟨hn, e0, e15, e25, fc, fg, fb⟩ := fields_C31w1G21w4B9w6 0x6A000000 c g b 0 0 53 (by decide) (by decide)
  generalize layC31w1G21w4B9w6 0x6A000000 c g b = N at *
  refine roundTrip_row he hn (by rw [e25]; decide) ?_
  rw [row_35 e25]; simp [decodeMajor35, fc, fg, fb, e0, e15, e25]

theorem RoundTrip.cnotify c g b : RoundTrip.Statement (.cnotify c g b) := by
  have he : encodeNat (.cnotify c g b) = some (layC31w1G21w4B9w6 0x6A000001 c g b) := rfl
  have ⟨hn, e0, e15, e25, fc, fg, fb⟩ := fields_C31w1G21w4B9w6 0x6A000001 c g b 1 0 53 (by decide) (by decide)
  generalize layC31w1G21w4B9w6 0x6A000001 c g b = N at *
  refine roundTrip_row he hn (by rw [e25]; decide) ?_
  rw [row_35 e25]; simp [decodeMajor35, fc, fg, fb, e0, e15, e25]

theorem RoundTrip.cnotifyall c g b : RoundTrip.Statement (.cnotifyall c g b) := by
  have he : encodeNat (.cnotifyall c g b) = some (layC31w1G21w4B9w6 0x6A000002 c g b) := rfl
  have ⟨hn, e0, e15, e25, fc, fg, fb⟩ := fields_C31w1G21w4B9w6 0x6A000002 c g b 2 0 53 (by decide) (by decide)
  generalize layC31w1G21w4B9w6 0x6A000002 c g b = N at *
  refine roundTrip_row he hn (by rw [e25]; decide) ?_
  rw [row_35 e25]; simp [decodeMajor35, fc, fg, fb, e0, e15, e25]

theorem RoundTrip.cheld c g d b : RoundTrip.Statement (.cheld c g d b) := by
  have he : encodeNat (.cheld c g d b) = some (layC31w1G21w4D15w6B9w6 0x6A000003 c g d b) := rfl
  have ⟨hn, e0, e25, fc, fg, fd, fb⟩ := fields_C31w1G21w4D15w6B9w6 0x6A000003 c g d b 3 53 (by decide) (by decide)
  generalize layC31w1G21w4D15w6B9w6 0x6A000003 c g d b = N at *
  refine roundTrip_row he hn (by rw [e25]; decide) ?_
  rw [row_35 e25]; simp [decodeMajor35, fc, fg, fd, fb, e0, e25]

theorem RoundTrip.monitorAcquire msg : RoundTrip.Statement (.monitorAcquire msg) := roundTrip_event rfl

theorem RoundTrip.monitorRelease msg : RoundTrip.Statement (.monitorRelease msg) := roundTrip_event rfl

theorem RoundTrip.monitorWait msg : RoundTrip.Statement (.monitorWait msg) := roundTrip_event rfl

theorem RoundTrip.monitorNotify msg : RoundTrip.Statement (.monitorNotify msg) := roundTrip_event rfl

theorem RoundTrip.monitorNotifyAll msg : RoundTrip.Statement (.monitorNotifyAll msg) := roundTrip_event rfl

theorem RoundTrip.monitorGrant reply : RoundTrip.Statement (.monitorGrant reply) := roundTrip_event rfl

theorem RoundTrip.monitorQueuedReply reply : RoundTrip.Statement (.monitorQueuedReply reply) := roundTrip_event rfl

theorem RoundTrip.colourReleaseSend rel : RoundTrip.Statement (.colourReleaseSend rel) := roundTrip_event rfl

theorem RoundTrip.copy c g d s p : RoundTrip.Statement (.copy c g d s p) := by
  have he : encodeNat (.copy c g d s p) = some (layC31w1G21w4D15w6S9w6P3w6 0x6C000000 c g d s p) := rfl
  have ⟨hn, e0, e25, fc, fg, fd, fs, fp⟩ := fields_C31w1G21w4D15w6S9w6P3w6 0x6C000000 c g d s p 0 54 (by decide) (by decide)
  generalize layC31w1G21w4D15w6S9w6P3w6 0x6C000000 c g d s p = N at *
  refine roundTrip_row he hn (by rw [e25]; decide) ?_
  rw [row_36 e25]; simp [decodeMajor36, fc, fg, fd, fs, fp, e0, e25]

theorem RoundTrip.copym c g d s p : RoundTrip.Statement (.copym c g d s p) := by
  have he : encodeNat (.copym c g d s p) = some (layC31w1G21w4D15w6S9w6P3w6 0x6C000001 c g d s p) := rfl
  have ⟨hn, e0, e25, fc, fg, fd, fs, fp⟩ := fields_C31w1G21w4D15w6S9w6P3w6 0x6C000001 c g d s p 1 54 (by decide) (by decide)
  generalize layC31w1G21w4D15w6S9w6P3w6 0x6C000001 c g d s p = N at *
  refine roundTrip_row he hn (by rw [e25]; decide) ?_
  rw [row_36 e25]; simp [decodeMajor36, fc, fg, fd, fs, fp, e0, e25]

theorem RoundTrip.copyb c g d s p : RoundTrip.Statement (.copyb c g d s p) := by
  have he : encodeNat (.copyb c g d s p) = some (layC31w1G21w4D15w6S9w6P3w6 0x6C000002 c g d s p) := rfl
  have ⟨hn, e0, e25, fc, fg, fd, fs, fp⟩ := fields_C31w1G21w4D15w6S9w6P3w6 0x6C000002 c g d s p 2 54 (by decide) (by decide)
  generalize layC31w1G21w4D15w6S9w6P3w6 0x6C000002 c g d s p = N at *
  refine roundTrip_row he hn (by rw [e25]; decide) ?_
  rw [row_36 e25]; simp [decodeMajor36, fc, fg, fd, fs, fp, e0, e25]

theorem RoundTrip.gather c g d x p : RoundTrip.Statement (.gather c g d x p) := by
  have he : encodeNat (.gather c g d x p) = some (layC31w1G21w4D15w6X9w6P3w6 0x6C000003 c g d x p) := rfl
  have ⟨hn, e0, e25, fc, fg, fd, fx, fp⟩ := fields_C31w1G21w4D15w6X9w6P3w6 0x6C000003 c g d x p 3 54 (by decide) (by decide)
  generalize layC31w1G21w4D15w6X9w6P3w6 0x6C000003 c g d x p = N at *
  refine roundTrip_row he hn (by rw [e25]; decide) ?_
  rw [row_36 e25]; simp [decodeMajor36, fc, fg, fd, fx, fp, e0, e25]

theorem RoundTrip.copyStart copy : RoundTrip.Statement (.copyStart copy) := roundTrip_event rfl

theorem RoundTrip.copyEnd copy : RoundTrip.Statement (.copyEnd copy) := roundTrip_event rfl

theorem RoundTrip.gatherEnd copy : RoundTrip.Statement (.gatherEnd copy) := roundTrip_event rfl

theorem RoundTrip.pfrEnd copy : RoundTrip.Statement (.pfrEnd copy) := roundTrip_event rfl

theorem RoundTrip.ringIdleExpiry group : RoundTrip.Statement (.ringIdleExpiry group) := roundTrip_event rfl

theorem RoundTrip.twaitall c g b : RoundTrip.Statement (.twaitall c g b) := by
  have he : encodeNat (.twaitall c g b) = some (layC31w1G21w4B9w6 0x6E000000 c g b) := rfl
  have ⟨hn, e0, e15, e25, fc, fg, fb⟩ := fields_C31w1G21w4B9w6 0x6E000000 c g b 0 0 55 (by decide) (by decide)
  generalize layC31w1G21w4B9w6 0x6E000000 c g b = N at *
  refine roundTrip_row he hn (by rw [e25]; decide) ?_
  rw [row_37 e25]; simp [decodeMajor37, fc, fg, fb, e0, e15, e25]

theorem RoundTrip.twaitany c g b : RoundTrip.Statement (.twaitany c g b) := by
  have he : encodeNat (.twaitany c g b) = some (layC31w1G21w4B9w6 0x6E000001 c g b) := rfl
  have ⟨hn, e0, e15, e25, fc, fg, fb⟩ := fields_C31w1G21w4B9w6 0x6E000001 c g b 1 0 55 (by decide) (by decide)
  generalize layC31w1G21w4B9w6 0x6E000001 c g b = N at *
  refine roundTrip_row he hn (by rw [e25]; decide) ?_
  rw [row_37 e25]; simp [decodeMajor37, fc, fg, fb, e0, e15, e25]

theorem RoundTrip.tfirst c g d b : RoundTrip.Statement (.tfirst c g d b) := by
  have he : encodeNat (.tfirst c g d b) = some (layC31w1G21w4D15w6B9w6 0x6E000002 c g d b) := rfl
  have ⟨hn, e0, e25, fc, fg, fd, fb⟩ := fields_C31w1G21w4D15w6B9w6 0x6E000002 c g d b 2 55 (by decide) (by decide)
  generalize layC31w1G21w4D15w6B9w6 0x6E000002 c g d b = N at *
  refine roundTrip_row he hn (by rw [e25]; decide) ?_
  rw [row_37 e25]; simp [decodeMajor37, fc, fg, fd, fb, e0, e25]

theorem RoundTrip.tclr c g b : RoundTrip.Statement (.tclr c g b) := by
  have he : encodeNat (.tclr c g b) = some (layC31w1G21w4B9w6 0x6E000003 c g b) := rfl
  have ⟨hn, e0, e15, e25, fc, fg, fb⟩ := fields_C31w1G21w4B9w6 0x6E000003 c g b 3 0 55 (by decide) (by decide)
  generalize layC31w1G21w4B9w6 0x6E000003 c g b = N at *
  refine roundTrip_row he hn (by rw [e25]; decide) ?_
  rw [row_37 e25]; simp [decodeMajor37, fc, fg, fb, e0, e15, e25]

theorem RoundTrip.tdef c g d b p : RoundTrip.Statement (.tdef c g d b p) := by
  have he : encodeNat (.tdef c g d b p) = some (layC31w1G21w4D15w6B9w6P3w6 0x70000000 c g d b p) := rfl
  have ⟨hn, e0, e25, fc, fg, fd, fb, fp⟩ := fields_C31w1G21w4D15w6B9w6P3w6 0x70000000 c g d b p 0 56 (by decide) (by decide)
  generalize layC31w1G21w4D15w6B9w6P3w6 0x70000000 c g d b p = N at *
  refine roundTrip_row he hn (by rw [e25]; decide) ?_
  rw [row_38 e25]; simp [decodeMajor38, fc, fg, fd, fb, fp, e0, e25]

theorem RoundTrip.trd c g d t i : RoundTrip.Statement (.trd c g d t i) := by
  have he : encodeNat (.trd c g d t i) = some (layC31w1G21w4D15w6T9w6I3w6 0x70000001 c g d t i) := rfl
  have ⟨hn, e0, e25, fc, fg, fd, ft, fi⟩ := fields_C31w1G21w4D15w6T9w6I3w6 0x70000001 c g d t i 1 56 (by decide) (by decide)
  generalize layC31w1G21w4D15w6T9w6I3w6 0x70000001 c g d t i = N at *
  refine roundTrip_row he hn (by rw [e25]; decide) ?_
  rw [row_38 e25]; simp [decodeMajor38, fc, fg, fd, ft, fi, e0, e25]

theorem RoundTrip.sign c g n : RoundTrip.Statement (.sign c g n) := by
  have he : encodeNat (.sign c g n) = some (layC31w1G21w4N9w6 0x70000002 c g n) := rfl
  have ⟨hn, e0, e15, e25, fc, fg, fn⟩ := fields_C31w1G21w4N9w6 0x70000002 c g n 2 0 56 (by decide) (by decide)
  generalize layC31w1G21w4N9w6 0x70000002 c g n = N at *
  have t0_3 : fld N 0 3 = 2 := sub_eq (lo := 0) (a := 0) e0 (by decide)
  refine roundTrip_row he hn (by rw [e25]; decide) ?_
  rw [row_38 e25]; simp [decodeMajor38, fc, fg, fn, t0_3, e0, e15, e25]

theorem RoundTrip.mldb c g d b : RoundTrip.Statement (.mldb c g d b) := by
  have he : encodeNat (.mldb c g d b) = some (layC31w1G21w4D15w6B9w6 0x70000003 c g d b) := rfl
  have ⟨hn, e0, e25, fc, fg, fd, fb⟩ := fields_C31w1G21w4D15w6B9w6 0x70000003 c g d b 3 56 (by decide) (by decide)
  generalize layC31w1G21w4D15w6B9w6 0x70000003 c g d b = N at *
  have t0_3 : fld N 0 3 = 3 := sub_eq (lo := 0) (a := 0) e0 (by decide)
  refine roundTrip_row he hn (by rw [e25]; decide) ?_
  rw [row_38 e25]; simp [decodeMajor38, fc, fg, fd, fb, t0_3, e0, e25]

theorem RoundTrip.mmq c g d a m : RoundTrip.Statement (.mmq c g d a m) := by
  have he : encodeNat (.mmq c g d a m) = some (layC31w1G21w4D15w6A9w6M3w6 0x70000004 c g d a m) := rfl
  have ⟨hn, e0, e25, fc, fg, fd, fa, fm⟩ := fields_C31w1G21w4D15w6A9w6M3w6 0x70000004 c g d a m 4 56 (by decide) (by decide)
  generalize layC31w1G21w4D15w6A9w6M3w6 0x70000004 c g d a m = N at *
  have u0_9_2 : fld N 0 9 ≠ 2 := sub_ne (lo := 0) (a := 0) e0 (by decide) (by decide)
  have u0_9_3 : fld N 0 9 ≠ 3 := sub_ne (lo := 0) (a := 0) e0 (by decide) (by decide)
  refine roundTrip_row he hn (by rw [e25]; decide) ?_
  rw [row_38 e25]; simp [decodeMajor38, fc, fg, fd, fa, fm, e0, u0_9_2, u0_9_3, e25]

theorem RoundTrip.mcommit c g n : RoundTrip.Statement (.mcommit c g n) := by
  have he : encodeNat (.mcommit c g n) = some (layC31w1G21w4N15w6 0x70000005 c g n) := rfl
  have ⟨hn, e0, e25, fc, fg, fn⟩ := fields_C31w1G21w4N15w6 0x70000005 c g n 5 56 (by decide) (by decide)
  generalize layC31w1G21w4N15w6 0x70000005 c g n = N at *
  have t0_3 : fld N 0 3 = 5 := sub_eq (lo := 0) (a := 0) e0 (by decide)
  have t0_9 : fld N 0 9 = 5 := sub_eq (lo := 0) (a := 0) e0 (by decide)
  refine roundTrip_row he hn (by rw [e25]; decide) ?_
  rw [row_38 e25]; simp [decodeMajor38, fc, fg, fn, t0_3, t0_9, e0, e25]

theorem RoundTrip.mwait c g n : RoundTrip.Statement (.mwait c g n) := by
  have he : encodeNat (.mwait c g n) = some (layC31w1G21w4N15w6 0x70000006 c g n) := rfl
  have ⟨hn, e0, e25, fc, fg, fn⟩ := fields_C31w1G21w4N15w6 0x70000006 c g n 6 56 (by decide) (by decide)
  generalize layC31w1G21w4N15w6 0x70000006 c g n = N at *
  have t0_3 : fld N 0 3 = 6 := sub_eq (lo := 0) (a := 0) e0 (by decide)
  have t0_9 : fld N 0 9 = 6 := sub_eq (lo := 0) (a := 0) e0 (by decide)
  refine roundTrip_row he hn (by rw [e25]; decide) ?_
  rw [row_38 e25]; simp [decodeMajor38, fc, fg, fn, t0_3, t0_9, e0, e25]

theorem RoundTrip.cvset c g n p : RoundTrip.Statement (.cvset c g n p) := by
  have he : encodeNat (.cvset c g n p) = some (layC31w1G21w4N9w6P3w6 0x70000007 c g n p) := rfl
  have ⟨hn, e0, e15, e25, fc, fg, fn, fp⟩ := fields_C31w1G21w4N9w6P3w6 0x70000007 c g n p 7 0 56 (by decide) (by decide)
  generalize layC31w1G21w4N9w6P3w6 0x70000007 c g n p = N at *
  have u0_9_2 : fld N 0 9 ≠ 2 := sub_ne (lo := 0) (a := 0) e0 (by decide) (by decide)
  have u0_9_3 : fld N 0 9 ≠ 3 := sub_ne (lo := 0) (a := 0) e0 (by decide) (by decide)
  have u0_15_5 : fld N 0 15 ≠ 5 := sub_ne (lo := 0) (a := 0) e0 (by decide) (by decide)
  have u0_15_6 : fld N 0 15 ≠ 6 := sub_ne (lo := 0) (a := 0) e0 (by decide) (by decide)
  refine roundTrip_row he hn (by rw [e25]; decide) ?_
  rw [row_38 e25]; simp [decodeMajor38, fc, fg, fn, fp, e0, u0_9_2, u0_9_3, u0_15_5, u0_15_6, e15, e25]

theorem RoundTrip.signApply op : RoundTrip.Statement (.signApply op) := roundTrip_event rfl

theorem RoundTrip.cvsetApply op : RoundTrip.Statement (.cvsetApply op) := roundTrip_event rfl

theorem RoundTrip.engineCommandStart cmd : RoundTrip.Statement (.engineCommandStart cmd) := roundTrip_event rfl

theorem RoundTrip.tdefComplete cmd : RoundTrip.Statement (.tdefComplete cmd) := roundTrip_event rfl

theorem RoundTrip.mldbComplete cmd : RoundTrip.Statement (.mldbComplete cmd) := roundTrip_event rfl

theorem RoundTrip.mmqRow cmd : RoundTrip.Statement (.mmqRow cmd) := roundTrip_event rfl

theorem RoundTrip.mzeroRow cmd : RoundTrip.Statement (.mzeroRow cmd) := roundTrip_event rfl

theorem RoundTrip.mxstRow cmd : RoundTrip.Statement (.mxstRow cmd) := roundTrip_event rfl

theorem RoundTrip.mzero c g b p : RoundTrip.Statement (.mzero c g b p) := by
  have he : encodeNat (.mzero c g b p) = some (layC31w1G21w4B9w6P3w6 0x72000000 c g b p) := rfl
  have ⟨hn, e0, e15, e25, fc, fg, fb, fp⟩ := fields_C31w1G21w4B9w6P3w6 0x72000000 c g b p 0 0 57 (by decide) (by decide)
  generalize layC31w1G21w4B9w6P3w6 0x72000000 c g b p = N at *
  refine roundTrip_row he hn (by rw [e25]; decide) ?_
  rw [row_39 e25]; simp [decodeMajor39, fc, fg, fb, fp, e0, e15, e25]

theorem RoundTrip.mrd c g d b i : RoundTrip.Statement (.mrd c g d b i) := by
  have he : encodeNat (.mrd c g d b i) = some (layC31w1G21w4D15w6B9w6I3w6 0x72000001 c g d b i) := rfl
  have ⟨hn, e0, e25, fc, fg, fd, fb, fi⟩ := fields_C31w1G21w4D15w6B9w6I3w6 0x72000001 c g d b i 1 57 (by decide) (by decide)
  generalize layC31w1G21w4D15w6B9w6I3w6 0x72000001 c g d b i = N at *
  refine roundTrip_row he hn (by rw [e25]; decide) ?_
  rw [row_39 e25]; simp [decodeMajor39, fc, fg, fd, fb, fi, e0, e25]

theorem RoundTrip.mwr c g d b i : RoundTrip.Statement (.mwr c g d b i) := by
  have he : encodeNat (.mwr c g d b i) = some (layC31w1G21w4D15w6B9w6I3w6 0x72000002 c g d b i) := rfl
  have ⟨hn, e0, e25, fc, fg, fd, fb, fi⟩ := fields_C31w1G21w4D15w6B9w6I3w6 0x72000002 c g d b i 2 57 (by decide) (by decide)
  generalize layC31w1G21w4D15w6B9w6I3w6 0x72000002 c g d b i = N at *
  refine roundTrip_row he hn (by rw [e25]; decide) ?_
  rw [row_39 e25]; simp [decodeMajor39, fc, fg, fd, fb, fi, e0, e25]

theorem RoundTrip.stpl c g d a p : RoundTrip.Statement (.stpl c g d a p) := by
  have he : encodeNat (.stpl c g d a p) = some (layC31w1G21w4D15w6A9w6P3w6 0x72000003 c g d a p) := rfl
  have ⟨hn, e0, e25, fc, fg, fd, fa, fp⟩ := fields_C31w1G21w4D15w6A9w6P3w6 0x72000003 c g d a p 3 57 (by decide) (by decide)
  generalize layC31w1G21w4D15w6A9w6P3w6 0x72000003 c g d a p = N at *
  refine roundTrip_row he hn (by rw [e25]; decide) ?_
  rw [row_39 e25]; simp [decodeMajor39, fc, fg, fd, fa, fp, e0, e25]

theorem RoundTrip.mxst c g d b p : RoundTrip.Statement (.mxst c g d b p) := by
  have he : encodeNat (.mxst c g d b p) = some (layC31w1G21w4D15w6B9w6P3w6 0x72000004 c g d b p) := rfl
  have ⟨hn, e0, e25, fc, fg, fd, fb, fp⟩ := fields_C31w1G21w4D15w6B9w6P3w6 0x72000004 c g d b p 4 57 (by decide) (by decide)
  generalize layC31w1G21w4D15w6B9w6P3w6 0x72000004 c g d b p = N at *
  refine roundTrip_row he hn (by rw [e25]; decide) ?_
  rw [row_39 e25]; simp [decodeMajor39, fc, fg, fd, fb, fp, e0, e25]

theorem RoundTrip.binit c g b p : RoundTrip.Statement (.binit c g b p) := by
  have he : encodeNat (.binit c g b p) = some (layC31w1G21w4B9w6P3w6 0x74000000 c g b p) := rfl
  have ⟨hn, e0, e15, e25, fc, fg, fb, fp⟩ := fields_C31w1G21w4B9w6P3w6 0x74000000 c g b p 0 0 58 (by decide) (by decide)
  generalize layC31w1G21w4B9w6P3w6 0x74000000 c g b p = N at *
  refine roundTrip_row he hn (by rw [e25]; decide) ?_
  rw [row_3A e25]; simp [decodeMajor3A, fc, fg, fb, fp, e0, e15, e25]

theorem RoundTrip.arrive c g b p : RoundTrip.Statement (.arrive c g b p) := by
  have he : encodeNat (.arrive c g b p) = some (layC31w1G21w4B9w6P3w6 0x74000001 c g b p) := rfl
  have ⟨hn, e0, e15, e25, fc, fg, fb, fp⟩ := fields_C31w1G21w4B9w6P3w6 0x74000001 c g b p 1 0 58 (by decide) (by decide)
  generalize layC31w1G21w4B9w6P3w6 0x74000001 c g b p = N at *
  refine roundTrip_row he hn (by rw [e25]; decide) ?_
  rw [row_3A e25]; simp [decodeMajor3A, fc, fg, fb, fp, e0, e15, e25]

theorem RoundTrip.bwait c g b p : RoundTrip.Statement (.bwait c g b p) := by
  have he : encodeNat (.bwait c g b p) = some (layC31w1G21w4B9w6P3w6 0x74000002 c g b p) := rfl
  have ⟨hn, e0, e15, e25, fc, fg, fb, fp⟩ := fields_C31w1G21w4B9w6P3w6 0x74000002 c g b p 2 0 58 (by decide) (by decide)
  generalize layC31w1G21w4B9w6P3w6 0x74000002 c g b p = N at *
  refine roundTrip_row he hn (by rw [e25]; decide) ?_
  rw [row_3A e25]; simp [decodeMajor3A, fc, fg, fb, fp, e0, e15, e25]

theorem RoundTrip.arrivew c g b p : RoundTrip.Statement (.arrivew c g b p) := by
  have he : encodeNat (.arrivew c g b p) = some (layC31w1G21w4B9w6P3w6 0x74000003 c g b p) := rfl
  have ⟨hn, e0, e15, e25, fc, fg, fb, fp⟩ := fields_C31w1G21w4B9w6P3w6 0x74000003 c g b p 3 0 58 (by decide) (by decide)
  generalize layC31w1G21w4B9w6P3w6 0x74000003 c g b p = N at *
  refine roundTrip_row he hn (by rw [e25]; decide) ?_
  rw [row_3A e25]; simp [decodeMajor3A, fc, fg, fb, fp, e0, e15, e25]

theorem RoundTrip.nbar c g s : RoundTrip.Statement (.nbar c g s) := by
  have he : encodeNat (.nbar c g s) = some (layC31w1G21w4S3w6 0x74000004 c g s) := rfl
  have ⟨hn, e0, e9, e25, fc, fg, fs⟩ := fields_C31w1G21w4S3w6 0x74000004 c g s 4 0 58 (by decide) (by decide)
  generalize layC31w1G21w4S3w6 0x74000004 c g s = N at *
  refine roundTrip_row he hn (by rw [e25]; decide) ?_
  rw [row_3A e25]; simp [decodeMajor3A, fc, fg, fs, e0, e9, e25]

theorem RoundTrip.binval c g b : RoundTrip.Statement (.binval c g b) := by
  have he : encodeNat (.binval c g b) = some (layC31w1G21w4B9w6 0x74000005 c g b) := rfl
  have ⟨hn, e0, e15, e25, fc, fg, fb⟩ := fields_C31w1G21w4B9w6 0x74000005 c g b 5 0 58 (by decide) (by decide)
  generalize layC31w1G21w4B9w6 0x74000005 c g b = N at *
  have t0_3 : fld N 0 3 = 5 := sub_eq (lo := 0) (a := 0) e0 (by decide)
  refine roundTrip_row he hn (by rw [e25]; decide) ?_
  rw [row_3A e25]; simp [decodeMajor3A, fc, fg, fb, t0_3, e0, e15, e25]

theorem RoundTrip.barrierBankOp op : RoundTrip.Statement (.barrierBankOp op) := roundTrip_event rfl

theorem RoundTrip.nbarPhaseComplete op : RoundTrip.Statement (.nbarPhaseComplete op) := roundTrip_event rfl

theorem RoundTrip.tqpush c g d : RoundTrip.Statement (.tqpush c g d) := by
  have he : encodeNat (.tqpush c g d) = some (layC31w1G21w4D15w6 0x76000000 c g d) := rfl
  have ⟨hn, e0, e25, fc, fg, fd⟩ := fields_C31w1G21w4D15w6 0x76000000 c g d 0 59 (by decide) (by decide)
  generalize layC31w1G21w4D15w6 0x76000000 c g d = N at *
  refine roundTrip_row he hn (by rw [e25]; decide) ?_
  rw [row_3B e25]; simp [decodeMajor3B, fc, fg, fd, e0, e25]

theorem RoundTrip.tqpop c g d : RoundTrip.Statement (.tqpop c g d) := by
  have he : encodeNat (.tqpop c g d) = some (layC31w1G21w4D15w6 0x76000001 c g d) := rfl
  have ⟨hn, e0, e25, fc, fg, fd⟩ := fields_C31w1G21w4D15w6 0x76000001 c g d 1 59 (by decide) (by decide)
  generalize layC31w1G21w4D15w6 0x76000001 c g d = N at *
  refine roundTrip_row he hn (by rw [e25]; decide) ?_
  rw [row_3B e25]; simp [decodeMajor3B, fc, fg, fd, e0, e25]

theorem RoundTrip.amsend c g d b p : RoundTrip.Statement (.amsend c g d b p) := by
  have he : encodeNat (.amsend c g d b p) = some (layC31w1G21w4D15w6B9w6P3w6 0x76000002 c g d b p) := rfl
  have ⟨hn, e0, e25, fc, fg, fd, fb, fp⟩ := fields_C31w1G21w4D15w6B9w6P3w6 0x76000002 c g d b p 2 59 (by decide) (by decide)
  generalize layC31w1G21w4D15w6B9w6P3w6 0x76000002 c g d b p = N at *
  have u0_15_0 : fld N 0 15 ≠ 0 := sub_ne (lo := 0) (a := 0) e0 (by decide) (by decide)
  have u0_15_1 : fld N 0 15 ≠ 1 := sub_ne (lo := 0) (a := 0) e0 (by decide) (by decide)
  refine roundTrip_row he hn (by rw [e25]; decide) ?_
  rw [row_3B e25]; simp [decodeMajor3B, fc, fg, fd, fb, fp, u0_15_0, u0_15_1, e0, e25]

theorem RoundTrip.launch c g d b p : RoundTrip.Statement (.launch c g d b p) := by
  have he : encodeNat (.launch c g d b p) = some (layC31w1G21w4D15w6B9w6P3w6 0x76000003 c g d b p) := rfl
  have ⟨hn, e0, e25, fc, fg, fd, fb, fp⟩ := fields_C31w1G21w4D15w6B9w6P3w6 0x76000003 c g d b p 3 59 (by decide) (by decide)
  generalize layC31w1G21w4D15w6B9w6P3w6 0x76000003 c g d b p = N at *
  have u0_15_0 : fld N 0 15 ≠ 0 := sub_ne (lo := 0) (a := 0) e0 (by decide) (by decide)
  have u0_15_1 : fld N 0 15 ≠ 1 := sub_ne (lo := 0) (a := 0) e0 (by decide) (by decide)
  refine roundTrip_row he hn (by rw [e25]; decide) ?_
  rw [row_3B e25]; simp [decodeMajor3B, fc, fg, fd, fb, fp, u0_15_0, u0_15_1, e0, e25]

theorem RoundTrip.tqPushApply op : RoundTrip.Statement (.tqPushApply op) := roundTrip_event rfl

theorem RoundTrip.tqPopServe op : RoundTrip.Statement (.tqPopServe op) := roundTrip_event rfl

theorem RoundTrip.tqStealServe op : RoundTrip.Statement (.tqStealServe op) := roundTrip_event rfl

theorem RoundTrip.tqpopReply op : RoundTrip.Statement (.tqpopReply op) := roundTrip_event rfl

theorem RoundTrip.amArrival op : RoundTrip.Statement (.amArrival op) := roundTrip_event rfl

theorem RoundTrip.amsendStatus op : RoundTrip.Statement (.amsendStatus op) := roundTrip_event rfl

theorem RoundTrip.handlerGroupPlace msg : RoundTrip.Statement (.handlerGroupPlace msg) := roundTrip_event rfl

theorem RoundTrip.launchStatus op : RoundTrip.Statement (.launchStatus op) := roundTrip_event rfl

theorem RoundTrip.trap c g b : RoundTrip.Statement (.trap c g b) := by
  have he : encodeNat (.trap c g b) = some (layC31w1G21w4B9w6 0x78000000 c g b) := rfl
  have ⟨hn, e0, e15, e25, fc, fg, fb⟩ := fields_C31w1G21w4B9w6 0x78000000 c g b 0 0 60 (by decide) (by decide)
  generalize layC31w1G21w4B9w6 0x78000000 c g b = N at *
  refine roundTrip_row he hn (by rw [e25]; decide) ?_
  rw [row_3C e25]; simp [decodeMajor3C, fc, fg, fb, e0, e15, e25]

theorem RoundTrip.rft c g : RoundTrip.Statement (.rft c g) := by
  have he : encodeNat (.rft c g) = some (layC31w1G21w4 0x78000001 c g) := rfl
  have ⟨hn, e0, e25, fc, fg⟩ := fields_C31w1G21w4 0x78000001 c g 1 60 (by decide) (by decide)
  generalize layC31w1G21w4 0x78000001 c g = N at *
  have t0_9 : fld N 0 9 = 1 := sub_eq (lo := 0) (a := 0) e0 (by decide)
  refine roundTrip_row he hn (by rw [e25]; decide) ?_
  rw [row_3C e25]; simp [decodeMajor3C, fc, fg, t0_9, e0, e25]

theorem RoundTrip.rdtr c g d b : RoundTrip.Statement (.rdtr c g d b) := by
  have he : encodeNat (.rdtr c g d b) = some (layC31w1G21w4D15w6B9w6 0x78000002 c g d b) := rfl
  have ⟨hn, e0, e25, fc, fg, fd, fb⟩ := fields_C31w1G21w4D15w6B9w6 0x78000002 c g d b 2 60 (by decide) (by decide)
  generalize layC31w1G21w4D15w6B9w6 0x78000002 c g d b = N at *
  have u0_21_1 : fld N 0 21 ≠ 1 := sub_ne (lo := 0) (a := 0) e0 (by decide) (by decide)
  refine roundTrip_row he hn (by rw [e25]; decide) ?_
  rw [row_3C e25]; simp [decodeMajor3C, fc, fg, fd, fb, e0, u0_21_1, e25]

theorem RoundTrip.syscall c g b : RoundTrip.Statement (.syscall c g b) := by
  have he : encodeNat (.syscall c g b) = some (layC31w1G21w4B9w6 0x78000003 c g b) := rfl
  have ⟨hn, e0, e15, e25, fc, fg, fb⟩ := fields_C31w1G21w4B9w6 0x78000003 c g b 3 0 60 (by decide) (by decide)
  generalize layC31w1G21w4B9w6 0x78000003 c g b = N at *
  have u0_21_1 : fld N 0 21 ≠ 1 := sub_ne (lo := 0) (a := 0) e0 (by decide) (by decide)
  refine roundTrip_row he hn (by rw [e25]; decide) ?_
  rw [row_3C e25]; simp [decodeMajor3C, fc, fg, fb, e0, u0_21_1, e15, e25]

theorem RoundTrip.dflush c g : RoundTrip.Statement (.dflush c g) := by
  have he : encodeNat (.dflush c g) = some (layC31w1G21w4 0x78000004 c g) := rfl
  have ⟨hn, e0, e25, fc, fg⟩ := fields_C31w1G21w4 0x78000004 c g 4 60 (by decide) (by decide)
  generalize layC31w1G21w4 0x78000004 c g = N at *
  have t0_9 : fld N 0 9 = 4 := sub_eq (lo := 0) (a := 0) e0 (by decide)
  refine roundTrip_row he hn (by rw [e25]; decide) ?_
  rw [row_3C e25]; simp [decodeMajor3C, fc, fg, t0_9, e0, e25]

theorem RoundTrip.rdfpc c g d : RoundTrip.Statement (.rdfpc c g d) := by
  have he : encodeNat (.rdfpc c g d) = some (layC31w1G21w4D15w6 0x78000005 c g d) := rfl
  have ⟨hn, e0, e25, fc, fg, fd⟩ := fields_C31w1G21w4D15w6 0x78000005 c g d 5 60 (by decide) (by decide)
  generalize layC31w1G21w4D15w6 0x78000005 c g d = N at *
  have t0_9 : fld N 0 9 = 5 := sub_eq (lo := 0) (a := 0) e0 (by decide)
  have u0_21_1 : fld N 0 21 ≠ 1 := sub_ne (lo := 0) (a := 0) e0 (by decide) (by decide)
  have u0_21_4 : fld N 0 21 ≠ 4 := sub_ne (lo := 0) (a := 0) e0 (by decide) (by decide)
  refine roundTrip_row he hn (by rw [e25]; decide) ?_
  rw [row_3C e25]; simp [decodeMajor3C, fc, fg, fd, t0_9, u0_21_1, u0_21_4, e0, e25]

theorem RoundTrip.wrfpc c g b : RoundTrip.Statement (.wrfpc c g b) := by
  have he : encodeNat (.wrfpc c g b) = some (layC31w1G21w4B9w6 0x78000006 c g b) := rfl
  have ⟨hn, e0, e15, e25, fc, fg, fb⟩ := fields_C31w1G21w4B9w6 0x78000006 c g b 6 0 60 (by decide) (by decide)
  generalize layC31w1G21w4B9w6 0x78000006 c g b = N at *
  have u0_21_1 : fld N 0 21 ≠ 1 := sub_ne (lo := 0) (a := 0) e0 (by decide) (by decide)
  have u0_21_4 : fld N 0 21 ≠ 4 := sub_ne (lo := 0) (a := 0) e0 (by decide) (by decide)
  have u0_15_5 : fld N 0 15 ≠ 5 := sub_ne (lo := 0) (a := 0) e0 (by decide) (by decide)
  refine roundTrip_row he hn (by rw [e25]; decide) ?_
  rw [row_3C e25]; simp [decodeMajor3C, fc, fg, fb, e0, u0_21_1, u0_21_4, u0_15_5, e15, e25]

theorem RoundTrip.rdhash c g d : RoundTrip.Statement (.rdhash c g d) := by
  have he : encodeNat (.rdhash c g d) = some (layC31w1G21w4D15w6 0x78000007 c g d) := rfl
  have ⟨hn, e0, e25, fc, fg, fd⟩ := fields_C31w1G21w4D15w6 0x78000007 c g d 7 60 (by decide) (by decide)
  generalize layC31w1G21w4D15w6 0x78000007 c g d = N at *
  have t0_9 : fld N 0 9 = 7 := sub_eq (lo := 0) (a := 0) e0 (by decide)
  have u0_21_1 : fld N 0 21 ≠ 1 := sub_ne (lo := 0) (a := 0) e0 (by decide) (by decide)
  have u0_21_4 : fld N 0 21 ≠ 4 := sub_ne (lo := 0) (a := 0) e0 (by decide) (by decide)
  refine roundTrip_row he hn (by rw [e25]; decide) ?_
  rw [row_3C e25]; simp [decodeMajor3C, fc, fg, fd, t0_9, u0_21_1, u0_21_4, e0, e25]

theorem RoundTrip.atomicBufferDrain kernel core : RoundTrip.Statement (.atomicBufferDrain kernel core) := roundTrip_event rfl

theorem RoundTrip.l1SweepWriteback core asid line : RoundTrip.Statement (.l1SweepWriteback core asid line) := roundTrip_event rfl

theorem RoundTrip.writebackArrival wb : RoundTrip.Statement (.writebackArrival wb) := roundTrip_event rfl

theorem RoundTrip.writeThroughArrival wt : RoundTrip.Statement (.writeThroughArrival wt) := roundTrip_event rfl

theorem RoundTrip.kernelRecordAccept die : RoundTrip.Statement (.kernelRecordAccept die) := roundTrip_event rfl

theorem RoundTrip.groupPlace : RoundTrip.Statement (.groupPlace) := roundTrip_event rfl

theorem RoundTrip.groupStart group : RoundTrip.Statement (.groupStart group) := roundTrip_event rfl

theorem RoundTrip.groupRetire group : RoundTrip.Statement (.groupRetire group) := roundTrip_event rfl

theorem RoundTrip.kernelRetire kernel : RoundTrip.Statement (.kernelRetire kernel) := roundTrip_event rfl

theorem RoundTrip.contextSlotAssign core slot asid : RoundTrip.Statement (.contextSlotAssign core slot asid) := roundTrip_event rfl

theorem RoundTrip.contextLoadComplete core asid : RoundTrip.Statement (.contextLoadComplete core asid) := roundTrip_event rfl

theorem RoundTrip.contextSwitchRequest core asid : RoundTrip.Statement (.contextSwitchRequest core asid) := roundTrip_event rfl

theorem RoundTrip.switchExchangeBegin core : RoundTrip.Statement (.switchExchangeBegin core) := roundTrip_event rfl

theorem RoundTrip.switchExchangeEnd core cycles : RoundTrip.Statement (.switchExchangeEnd core cycles) := roundTrip_event rfl

theorem RoundTrip.weightSlotRestoreDone core : RoundTrip.Statement (.weightSlotRestoreDone core) := roundTrip_event rfl

theorem RoundTrip.contextEvict core asid : RoundTrip.Statement (.contextEvict core asid) := roundTrip_event rfl

theorem RoundTrip.contextSaveComplete core asid : RoundTrip.Statement (.contextSaveComplete core asid) := roundTrip_event rfl

theorem RoundTrip.contextDestroy asid : RoundTrip.Statement (.contextDestroy asid) := roundTrip_event rfl

theorem RoundTrip.translation op rewalk : RoundTrip.Statement (.translation op rewalk) := roundTrip_event rfl

theorem RoundTrip.faultReadIndexAdvance asid idx : RoundTrip.Statement (.faultReadIndexAdvance asid idx) := roundTrip_event rfl

theorem RoundTrip.migrationCounterHalve die : RoundTrip.Statement (.migrationCounterHalve die) := roundTrip_event rfl

theorem RoundTrip.inval w0 w1 w2 w3 : RoundTrip.Statement (.inval w0 w1 w2 w3) := roundTrip_event rfl

theorem RoundTrip.purge w0 w1 w2 w3 : RoundTrip.Statement (.purge w0 w1 w2 w3) := roundTrip_event rfl

theorem RoundTrip.move w0 w1 w2 w3 : RoundTrip.Statement (.move w0 w1 w2 w3) := roundTrip_event rfl

theorem RoundTrip.bias w0 w1 w2 w3 : RoundTrip.Statement (.bias w0 w1 w2 w3) := roundTrip_event rfl

theorem RoundTrip.replay w0 w1 w2 w3 : RoundTrip.Statement (.replay w0 w1 w2 w3) := roundTrip_event rfl

theorem RoundTrip.deny w0 w1 w2 w3 : RoundTrip.Statement (.deny w0 w1 w2 w3) := roundTrip_event rfl

theorem RoundTrip.dget w0 w1 w2 w3 : RoundTrip.Statement (.dget w0 w1 w2 w3) := roundTrip_event rfl

theorem RoundTrip.scrub w0 w1 w2 w3 : RoundTrip.Statement (.scrub w0 w1 w2 w3) := roundTrip_event rfl

theorem RoundTrip.queueRegister die hdr asid : RoundTrip.Statement (.queueRegister die hdr asid) := roundTrip_event rfl

theorem RoundTrip.queueDestroy queue : RoundTrip.Statement (.queueDestroy queue) := roundTrip_event rfl

theorem RoundTrip.queueMap queue slot : RoundTrip.Statement (.queueMap queue slot) := roundTrip_event rfl

theorem RoundTrip.queueUnmap queue : RoundTrip.Statement (.queueUnmap queue) := roundTrip_event rfl

theorem RoundTrip.queueWake queue : RoundTrip.Statement (.queueWake queue) := roundTrip_event rfl

theorem RoundTrip.queueSlotTimeslice die : RoundTrip.Statement (.queueSlotTimeslice die) := roundTrip_event rfl

theorem RoundTrip.queueLaunch queue idx : RoundTrip.Statement (.queueLaunch queue idx) := roundTrip_event rfl

theorem RoundTrip.queueCopy queue idx : RoundTrip.Statement (.queueCopy queue idx) := roundTrip_event rfl

theorem RoundTrip.queueSignal queue idx : RoundTrip.Statement (.queueSignal queue idx) := roundTrip_event rfl

theorem RoundTrip.queueWait queue idx : RoundTrip.Statement (.queueWait queue idx) := roundTrip_event rfl

theorem RoundTrip.queueWaitSatisfied queue idx : RoundTrip.Statement (.queueWaitSatisfied queue idx) := roundTrip_event rfl

theorem RoundTrip.queueMarker queue idx : RoundTrip.Statement (.queueMarker queue idx) := roundTrip_event rfl

theorem RoundTrip.queueTimestamp queue idx : RoundTrip.Statement (.queueTimestamp queue idx) := roundTrip_event rfl

theorem RoundTrip.queuePacketComplete queue idx : RoundTrip.Statement (.queuePacketComplete queue idx) := roundTrip_event rfl

theorem RoundTrip.bulkEngineWake bulk : RoundTrip.Statement (.bulkEngineWake bulk) := roundTrip_event rfl

theorem RoundTrip.bulkPacketStart bulk : RoundTrip.Statement (.bulkPacketStart bulk) := roundTrip_event rfl

theorem RoundTrip.bulkPacketComplete bulk idx : RoundTrip.Statement (.bulkPacketComplete bulk idx) := roundTrip_event rfl

theorem RoundTrip.krfet t s d : RoundTrip.Statement (.krfet t s d) := by
  have he : encodeNat (.krfet t s d) = some (layT20w5S15w5D7w5 0x0000000B t s d) := rfl
  have ⟨hn, e0, e12, e25, ft, fs, fd⟩ := fields_T20w5S15w5D7w5 0x0000000B t s d 11 0 0 (by decide) (by decide)
  generalize layT20w5S15w5D7w5 0x0000000B t s d = N at *
  refine roundTrip_of he hn ?_
  simp [decodeKiln, ft, fs, fd, e0, e12, e25]

theorem RoundTrip.kbfx t s d : RoundTrip.Statement (.kbfx t s d) := by
  have he : encodeNat (.kbfx t s d) = some (layT20w5S15w5D7w5 0x0000100B t s d) := rfl
  have ⟨hn, e0, e12, e25, ft, fs, fd⟩ := fields_T20w5S15w5D7w5 0x0000100B t s d 11 1 0 (by decide) (by decide)
  generalize layT20w5S15w5D7w5 0x0000100B t s d = N at *
  refine roundTrip_of he hn ?_
  simp [decodeKiln, ft, fs, fd, e12, e0, e25]

theorem RoundTrip.kswait s d : RoundTrip.Statement (.kswait s d) := by
  have he : encodeNat (.kswait s d) = some (layS15w5D7w5 0x0000200B s d) := rfl
  have ⟨hn, e0, e12, e20, fs, fd⟩ := fields_S15w5D7w5 0x0000200B s d 11 2 0 (by decide) (by decide)
  generalize layS15w5D7w5 0x0000200B s d = N at *
  refine roundTrip_of he hn ?_
  simp [decodeKiln, fs, fd, e12, e0, e20]

theorem RoundTrip.kswaitWake die line : RoundTrip.Statement (.kswaitWake die line) := roundTrip_event rfl

theorem RoundTrip.kdisp t s d : RoundTrip.Statement (.kdisp t s d) := by
  have he : encodeNat (.kdisp t s d) = some (layT20w5S15w5D7w5 0x0000300B t s d) := rfl
  have ⟨hn, e0, e12, e25, ft, fs, fd⟩ := fields_T20w5S15w5D7w5 0x0000300B t s d 11 3 0 (by decide) (by decide)
  generalize layT20w5S15w5D7w5 0x0000300B t s d = N at *
  refine roundTrip_of he hn ?_
  simp [decodeKiln, ft, fs, fd, e12, e0, e25]

theorem RoundTrip.watchdogHeartbeat : RoundTrip.Statement (.watchdogHeartbeat) := roundTrip_event rfl

theorem RoundTrip.watchdogExpiry : RoundTrip.Statement (.watchdogExpiry) := roundTrip_event rfl

theorem RoundTrip.powerGood : RoundTrip.Statement (.powerGood) := roundTrip_event rfl

theorem RoundTrip.imageStartCommand image floor : RoundTrip.Statement (.imageStartCommand image floor) := roundTrip_event rfl

theorem RoundTrip.reducedServiceBegin : RoundTrip.Statement (.reducedServiceBegin) := roundTrip_event rfl

theorem RoundTrip.hbmStackTrained stack : RoundTrip.Statement (.hbmStackTrained stack) := roundTrip_event rfl

theorem RoundTrip.fullServiceBegin : RoundTrip.Statement (.fullServiceBegin) := roundTrip_event rfl

theorem RoundTrip.deviceReset : RoundTrip.Statement (.deviceReset) := roundTrip_event rfl

theorem RoundTrip.powerLimitExceeded : RoundTrip.Statement (.powerLimitExceeded) := roundTrip_event rfl

theorem RoundTrip.thermalTrip quad : RoundTrip.Statement (.thermalTrip quad) := roundTrip_event rfl

theorem RoundTrip.clampSecondStep thermal quad : RoundTrip.Statement (.clampSecondStep thermal quad) := roundTrip_event rfl

theorem RoundTrip.clampRestore thermal quad : RoundTrip.Statement (.clampRestore thermal quad) := roundTrip_event rfl

theorem RoundTrip.clockChangeApply quad : RoundTrip.Statement (.clockChangeApply quad) := roundTrip_event rfl

theorem RoundTrip.powerLimitSet watts : RoundTrip.Statement (.powerLimitSet watts) := roundTrip_event rfl

theorem RoundTrip.rdcSizeSet die gib : RoundTrip.Statement (.rdcSizeSet die gib) := roundTrip_event rfl

theorem RoundTrip.linkEnable link : RoundTrip.Statement (.linkEnable link) := roundTrip_event rfl

theorem RoundTrip.linkDisable link : RoundTrip.Statement (.linkDisable link) := roundTrip_event rfl

theorem RoundTrip.linkTrained link rate : RoundTrip.Statement (.linkTrained link rate) := roundTrip_event rfl

theorem RoundTrip.linkTrainingTimeout link : RoundTrip.Statement (.linkTrainingTimeout link) := roundTrip_event rfl

theorem RoundTrip.linkReplayFailure link : RoundTrip.Statement (.linkReplayFailure link) := roundTrip_event rfl

theorem RoundTrip.linkLockLoss link : RoundTrip.Statement (.linkLockLoss link) := roundTrip_event rfl

theorem RoundTrip.hostModuleFail module : RoundTrip.Statement (.hostModuleFail module) := roundTrip_event rfl

theorem RoundTrip.registerWrite reg val : RoundTrip.Statement (.registerWrite reg val) := roundTrip_event rfl

theorem RoundTrip.contextCreate asid ptDie ptBase handler table walkArea monArea saveArea fbBase fbLog : RoundTrip.Statement (.contextCreate asid ptDie ptBase handler table walkArea monArea saveArea fbBase fbLog) := roundTrip_event rfl

theorem RoundTrip.bulkQueueRegister die hdr asid : RoundTrip.Statement (.bulkQueueRegister die hdr asid) := roundTrip_event rfl

theorem RoundTrip.hostMemoryAccess node addr write data : RoundTrip.Statement (.hostMemoryAccess node addr write data) := roundTrip_event rfl

theorem RoundTrip.clampConditionClear thermal quad : RoundTrip.Statement (.clampConditionClear thermal quad) := roundTrip_event rfl

theorem RoundTrip.cohortSwapComplete core : RoundTrip.Statement (.cohortSwapComplete core) := roundTrip_event rfl

theorem RoundTrip.eventRingReadAdvance idx : RoundTrip.Statement (.eventRingReadAdvance idx) := roundTrip_event rfl

theorem RoundTrip.podJobEnrol job kernel members enrol : RoundTrip.Statement (.podJobEnrol job kernel members enrol) := roundTrip_event rfl

theorem RoundTrip.scratchStorePerform op : RoundTrip.Statement (.scratchStorePerform op) := roundTrip_event rfl

end Sys2Proof.Laws
end

