-- ==== Sys2Proof/Safety.lean ====
section
/-!
DEFINITION. What counts as a safe run: a machine that goes on. A fault or a refusal ends a run (State.lean says when), a trap of a thread does
not: it is a next state (R340).
-/

namespace Sys2Proof

/-- The machine goes on from a state. -/
def Safety.Goes (s : Machine.State) : Prop := ∃ t, Machine.step s = .next t

/-- The states that a state leads to in n steps, each of which answered a next state. -/
inductive Safety.Leads : Nat → Machine.State → Machine.State → Prop where
  | here (s : Machine.State) : Safety.Leads 0 s s
  | more {n : Nat} {s t u : Machine.State} : Machine.step s = .next t → Safety.Leads n t u → Safety.Leads (n + 1) s u

/-- A run is safe when every state it leads to goes on. -/
def Safety.Safe (s : Machine.State) : Prop := ∀ n t, Safety.Leads n s t → Safety.Goes t

/-- A property of states that every step keeps. -/
def Safety.Kept (Inv : Machine.State → Prop) : Prop := ∀ s t, Inv s → Machine.step s = .next t → Inv t

end Sys2Proof
end

