-- ==== Sys2Proof/Certificates/Slice0/Obligations.lean ====
section
/-!
DEFINITION. The statements for the provers. Each says what the manual's rules give an instruction or the machine to do; the vocabulary they share
stands first, in the namespace Claim. A table of rows lets one statement speak of several constructors: every row names its constructor
and gives the rule's value in the manual's own arithmetic.
-/

namespace Sys2Proof.Claim

open Sys2Proof.Machine

/-! ### Vocabulary -/

/-- The forms of the encoded words: chain bit, guard and operand fields. -/
abbrev CtorT := BitVec 1 → BitVec 4 → BitVec 6 → BitVec 6 → BitVec 6 → Instr
abbrev CtorN := BitVec 1 → BitVec 4 → BitVec 6 → BitVec 6 → Instr
abbrev CtorD := BitVec 1 → BitVec 4 → BitVec 6 → Instr
abbrev CtorC := BitVec 1 → BitVec 4 → BitVec 2 → BitVec 3 → BitVec 6 → BitVec 6 → Instr

/-- The state with the threads for which a word with guard `g` executes (R66, R89) changed by `f`; nothing else differs. -/
def onExecuting (s : State) (iss : Issue) (g : BitVec 4) (f : Thread → Thread) : State :=
  { s with threads := s.threads.map fun t => if executes iss g t then f t else t }

/-- The executing threads get results that land `lat` cycles after their pass (R66, R80); nothing else differs. -/
def lands (s : State) (iss : Issue) (g : BitVec 4) (lat : Nat) (srcs : List Reg) (res : Thread → List Eff) : State :=
  onExecuting s iss g fun t => t.receive iss lat (t.depMax (guardReg g :: srcs)) (res t)

/-- The same, where a thread may fault instead (R46, R89, R341). -/
def landsOr (s : State) (iss : Issue) (g : BitVec 4) (lat : Nat) (srcs : List Reg) (res : Thread → Except Flt (List Eff)) : State :=
  onExecuting s iss g fun t => match res t with
    | .ok es => t.receive iss lat (t.depMax (guardReg g :: srcs)) es
    | .error x => t.fault iss s.fresh x

/-- `sext(x, n)` of R24, and the low n bits as a number (`zext`, R24). -/
def sx (n : Nat) (x : Int) : Int := x % 2 ^ n - 2 ^ n * (x / 2 ^ (n - 1) % 2)
def ux (n : Nat) (x : Int) : Int := x % 2 ^ n

/-- A number modulo 2^64 in a register (R110). -/
def word (x : Int) : Word := BitVec.ofInt 64 x

/-- The low n bits of a register, unsigned and signed. -/
def un (n : Nat) (x : Word) : Int := ux n x.toNat
def sn (n : Nat) (x : Word) : Int := sx n x.toNat

/-- 1 or 0. -/
def bit (b : Bool) : Nat := if b then 1 else 0

/-! ### The integer words (R111 to R120) -/

/-- A two-source word at 32 and at 64 bits: constructors, latency, widening of a literal (R69), value before the extension of R110. -/
structure BinRow where
  w : CtorT
  d : CtorT
  lat : Nat
  wd : Widen
  val : Nat → Word → Word → Int

/-- The count of a shift or rotate at N bits. -/
def cnt (n : Nat) (y : Word) : Nat := y.toNat % n

/-- The table of R111. -/
noncomputable def binRows : List BinRow :=
  [ ⟨.addW, .addD, 2, .sign, fun n x y => un n x + un n y⟩,
    ⟨.subW, .subD, 2, .sign, fun n x y => un n x - un n y⟩,
    ⟨.andW, .andD, 2, .sign, fun _ x y => ((x &&& y).toNat : Int)⟩,
    ⟨.orW, .orD, 2, .sign, fun _ x y => ((x ||| y).toNat : Int)⟩,
    ⟨.xorW, .xorD, 2, .sign, fun _ x y => ((x ^^^ y).toNat : Int)⟩,
    ⟨.andnW, .andnD, 2, .sign, fun _ x y => ((x &&& ~~~y).toNat : Int)⟩,
    ⟨.minW, .minD, 2, .sign, fun n x y => min (sn n x) (sn n y)⟩,
    ⟨.maxW, .maxD, 2, .sign, fun n x y => max (sn n x) (sn n y)⟩,
    ⟨.minuW, .minuD, 2, .zero, fun n x y => min (un n x) (un n y)⟩,
    ⟨.maxuW, .maxuD, 2, .zero, fun n x y => max (un n x) (un n y)⟩,
    ⟨.shlW, .shlD, 2, .sign, fun n x y => un n x * 2 ^ cnt n y⟩,
    ⟨.shrW, .shrD, 2, .sign, fun n x y => un n x / 2 ^ cnt n y⟩,
    ⟨.sarW, .sarD, 2, .sign, fun n x y => sn n x / 2 ^ cnt n y⟩,
    ⟨.rotW, .rotD, 2, .sign, fun n x y => un n x * 2 ^ cnt n y + un n x / 2 ^ (n - cnt n y)⟩,
    ⟨.mulW, .mulD, 3, .sign, fun n x y => un n x * un n y⟩,
    ⟨.mulhW, .mulhD, 3, .sign, fun n x y => sn n x * sn n y / 2 ^ n⟩ ]

/-- Other words of two sources and one result: LEA and MULHU of R114, the extracts of R120. -/
structure TwoRow where
  i : CtorT
  lat : Nat
  wd : Widen
  val : Word → Word → Int

/-- The field of R120: from bit `pos` on, `len` bits, cut at the register's end. -/
def fPos (b : Word) : Nat := b.toNat % 64
def fLen (b : Word) : Nat := min (b.toNat / 256 % 128) (64 - fPos b)

noncomputable def twoRows : List TwoRow :=
  [ ⟨.lea1, 2, .sign, fun x y => x.toNat + y.toNat * 1⟩,
    ⟨.lea2, 2, .sign, fun x y => x.toNat + y.toNat * 2⟩,
    ⟨.lea4, 2, .sign, fun x y => x.toNat + y.toNat * 4⟩,
    ⟨.lea8, 2, .sign, fun x y => x.toNat + y.toNat * 8⟩,
    ⟨.lea16, 2, .sign, fun x y => x.toNat + y.toNat * 16⟩,
    ⟨.mulhuD, 3, .zero, fun x y => ((x.toNat * y.toNat / 2 ^ 64 : Nat) : Int)⟩,
    ⟨.bfxu, 2, .sign, fun x y => ux (fLen y) (x.toNat / 2 ^ fPos y)⟩,
    ⟨.bfx, 2, .sign, fun x y => if fLen y = 0 then 0 else sx (fLen y) (x.toNat / 2 ^ fPos y)⟩ ]

/-- Words that read their destination as a third source (R114, R120). -/
structure ThreeRow where
  i : CtorT
  lat : Nat
  val : Word → Word → Word → Int

noncomputable def threeRows : List ThreeRow :=
  [ ⟨.macW, 3, fun z x y => sx 32 (un 32 z + un 32 x * un 32 y)⟩,
    ⟨.macD, 3, fun z x y => z.toNat + x.toNat * y.toNat⟩,
    ⟨.bfi, 2, fun z x y =>
      -- the bits outside the field from d, the field from a
      (z.toNat : Int) - (z.toNat / 2 ^ fPos y % 2 ^ fLen y * 2 ^ fPos y : Nat) + (x.toNat % 2 ^ fLen y * 2 ^ fPos y : Nat)⟩ ]

/-- Words of one source (R115). -/
structure OneRow where
  i : CtorN
  val : Word → Int

noncomputable def oneRows : List OneRow :=
  [ ⟨.mov, fun x => x.toNat⟩,
    ⟨.not, fun x => -1 - x.toNat⟩,
    ⟨.neg, fun x => -(x.toNat : Int)⟩,
    ⟨.abs, fun x => |x.toInt|⟩,
    ⟨.clzW, fun x => 32 - (if un 32 x = 0 then 0 else Nat.log2 (x.toNat % 2 ^ 32) + 1 : Nat)⟩,
    ⟨.clzD, fun x => 64 - (if x = 0 then 0 else Nat.log2 x.toNat + 1 : Nat)⟩,
    ⟨.popc, fun x => (((List.range 64).map fun k => bit (x.getLsbD k)).sum : Nat)⟩,
    ⟨.brevD, fun x => (((List.range 64).map fun k => bit (x.getLsbD (63 - k)) * 2 ^ k).sum : Nat)⟩,
    ⟨.sextB, fun x => sx 8 x.toNat⟩,
    ⟨.sextH, fun x => sx 16 x.toNat⟩,
    ⟨.sextW, fun x => sx 32 x.toNat⟩,
    ⟨.zextB, fun x => ux 8 x.toNat⟩,
    ⟨.zextH, fun x => ux 16 x.toNat⟩,
    ⟨.zextW, fun x => ux 32 x.toNat⟩ ]

/-- The shifts by an immediate (R113): the result of the register form at 32 and 64 bits. -/
structure ShiftRow where
  w : BitVec 1 → BitVec 4 → BitVec 6 → BitVec 6 → BitVec 5 → Instr
  d : CtorT
  val : Nat → Word → Nat → Int

noncomputable def shiftRows : List ShiftRow :=
  [ ⟨.shliW, .shliD, fun n x k => un n x * 2 ^ k⟩,
    ⟨.shriW, .shriD, fun n x k => un n x / 2 ^ k⟩,
    ⟨.sariW, .sariD, fun n x k => sn n x / 2 ^ k⟩,
    ⟨.rotiW, .rotiD, fun n x k => un n x * 2 ^ k + un n x / 2 ^ (n - k)⟩ ]

/-- The division words (R126) at 32 and at 64 bits: quotients round toward zero; a zero divisor gives all ones or the dividend. -/
structure DivRow where
  w : CtorT
  d : CtorT
  wd : Widen
  val : Nat → Word → Word → Int

noncomputable def divRows : List DivRow :=
  [ ⟨.divW, .divD, .sign, fun n x y => if sn n y = 0 then -1 else (sn n x).tdiv (sn n y)⟩,
    ⟨.divuW, .divuD, .zero, fun n x y => if un n y = 0 then -1 else un n x / un n y⟩,
    ⟨.remW, .remD, .sign, fun n x y => if sn n y = 0 then sn n x else (sn n x).tmod (sn n y)⟩,
    ⟨.remuW, .remuD, .zero, fun n x y => if un n y = 0 then un n x else un n x % un n y⟩ ]


/-! ### Compares, predicates, votes and shuffles (R121 to R125) -/

/-- An integer compare (R121): constructor, widening, relation. -/
structure CmpRow where
  i : CtorC
  wd : Widen
  rel : Word → Word → Bool

noncomputable def icmpRows : List CmpRow :=
  [ ⟨.icmpEq, .sign, fun x y => decide (x = y)⟩,
    ⟨.icmpNe, .sign, fun x y => decide (x ≠ y)⟩,
    ⟨.icmpLt, .sign, fun x y => decide (x.toInt < y.toInt)⟩,
    ⟨.icmpLe, .sign, fun x y => decide (x.toInt ≤ y.toInt)⟩,
    ⟨.icmpGt, .sign, fun x y => decide (y.toInt < x.toInt)⟩,
    ⟨.icmpGe, .sign, fun x y => decide (y.toInt ≤ x.toInt)⟩,
    ⟨.icmpLtu, .zero, fun x y => decide (x.toNat < y.toNat)⟩,
    ⟨.icmpLeu, .zero, fun x y => decide (x.toNat ≤ y.toNat)⟩,
    ⟨.icmpGtu, .zero, fun x y => decide (y.toNat < x.toNat)⟩,
    ⟨.icmpGeu, .zero, fun x y => decide (y.toNat ≤ x.toNat)⟩,
    ⟨.icmpTst, .sign, fun x y => decide (x &&& y ≠ 0)⟩,
    ⟨.icmpNtst, .sign, fun x y => decide (x &&& y = 0)⟩ ]

/-- T or F. -/
def tf (b : Bool) : K3 := if b then .t else .f

/-- The exclusive or of R122 and R124. -/
def kx (a b : K3) : K3 := if a = .u ∨ b = .u then .u else tf (decide (a ≠ b))

/-- The undecided witness of R122. -/
def witness (p2 r : K3) : K3 := if r = .u then .t else p2

/-- What a compare writes to P1 and P2 (R122, R123); `c` is the guard's value with its sense applied. -/
def pairOf (ctype : BitVec 3) (c p1 p2 r : K3) : K3 × K3 :=
  if ctype = 0 then (r, kNot r)
  else if ctype = 1 then
    (match c with
     | .t => (r, kNot r)
     | .f => (.f, .t)
     | .u => if r = .f then (.f, .t) else (.u, .u))
  else
    (if ctype = 2 then kAnd p1 r
     else if ctype = 3 then kOr p1 r
     else if ctype = 4 then kAnd p1 (kNot r)
     else if ctype = 5 then kOr p1 (kNot r)
     else if ctype = 6 then kx p1 r
     else kNot (kx p1 r), witness p2 r)

/-- The guard by which a compare executes: a `.gd` compare executes for every thread that issues it (R123). -/
def cmpG (g : BitVec 4) (ctype : BitVec 3) : BitVec 4 := if ctype = 1 then 0 else g

/-- The pair's registers, and a compare's results for a relation. -/
def pairRegs (p : BitVec 2) : List Reg := [.p (2 * p.toNat), .p (2 * p.toNat + 1)]
def pairRes (t : Thread) (g : BitVec 4) (p : BitVec 2) (ctype : BitVec 3) (r : K3) : List Eff :=
  let v := pairOf ctype (t.guardVal g) (t.pred (2 * p.toNat)) (t.pred (2 * p.toNat + 1)) r
  [.p (2 * p.toNat) v.1, .p (2 * p.toNat + 1) v.2]

/-- The words on two predicates (R124), on one, and their values. -/
noncomputable def predTwo : List ((BitVec 1 → BitVec 4 → BitVec 3 → BitVec 3 → BitVec 3 → Instr) × (K3 → K3 → K3)) :=
  [ (.pand, fun a b => if a = .f ∨ b = .f then .f else if a = .t ∧ b = .t then .t else .u),
    (.por, fun a b => if a = .t ∨ b = .t then .t else if a = .f ∧ b = .f then .f else .u),
    (.pxor, kx) ]

noncomputable def predOne : List ((BitVec 1 → BitVec 4 → BitVec 3 → BitVec 3 → Instr) × (K3 → K3)) :=
  [ (.pnot, fun a => if a = .t then .f else if a = .f then .t else .u),
    (.pmov, fun a => a),
    (.pisu, fun a => tf (decide (a = .u))),
    (.pist, fun a => tf (decide (a = .t))) ]

/-- A thread takes part in a cohort word and has this index (R125). -/
def takesPart (s : State) (iss : Issue) (g : BitVec 4) (q : Nat) (t : Thread) : Prop :=
  t ∈ s.threads ∧ executes iss g t = true ∧ t.idx = q

/-- The participants have different indices, as the threads of one cohort do (R90). -/
def distinctIdx (s : State) (iss : Issue) (g : BitVec 4) : Prop :=
  ∀ x ∈ s.threads, ∀ y ∈ s.threads, executes iss g x = true → executes iss g y = true → x.idx = y.idx → x = y

/-- The shuffles (R125): the thread each names, from the width W, the own index i and the value of b. -/
noncomputable def shflRows : List (CtorT × (Nat → Nat → Nat → Int)) :=
  [ (.shflIdx, fun w _ b => b % w),
    (.shflUp, fun _ i b => i - b),
    (.shflDown, fun _ i b => i + b),
    (.shflXor, fun _ i b => ((i ^^^ (b % 128) : Nat) : Int)) ]

/-! ### Random numbers (R128) -/

/-- One round of `rand_block`. -/
def randRound (key : Word) (i : Nat) (x y : Word) : Word × Word :=
  let x' := word (x.toNat + (BitVec.rotateLeft y 17).toNat + key.toNat + i * 0xA3B195E74C2D6F09)
  let m := word (x'.toNat * 0xC86D2F1B35E9A477)
  (x', y ^^^ BitVec.rotateLeft m 29)

/-- `rand_block` of R128: six rounds from (ctr, num). -/
def randOf (key num ctr : Word) : Word :=
  let r := (List.range 6).foldl (fun v i => randRound key i v.1 v.2) (ctr, num)
  r.1 ^^^ r.2

/-! ### Floating point (R25 to R33, R130 to R156) -/

/-- The executing threads get the results of a point word and its exceptions as sticky bits, or, where an enabled exception is raised, take part in the
collected trap FP_EXCEPTION (R133, R341, R343); nothing else differs. -/
def fpLands (s : State) (iss : Issue) (g : BitVec 4) (lat : Nat) (srcs : List Reg) (res : Thread → List Eff × Nat) : State :=
  onExecuting s iss g fun t =>
    let r := res t
    if r.2 &&& t.enables = 0 then t.receive iss lat (t.depMax (guardReg g :: srcs)) (if r.2 = 0 then r.1 else r.1 ++ [.sticky r.2])
    else
      let rs := fpRaisers s iss g fun _ t => res t
      { t with stopped := true
               due := t.due ++ [{ seq := s.fresh, code := fpCodeWord rs, addr := fpReported rs, pc := iss.wordPc, resume := some iss.hdr }] }

/-- A result in the low bits of a floating-point register, zero above (R131), with its exceptions. -/
def fRes (d : BitVec 6) (r : Nat × Nat) : List Eff × Nat := ([.f d.toNat (word (r.1 : Nat))], r.2)

/-- The low bits of a floating-point register that a format uses, and their value (R131). -/
def fBits (F : Fmt) (t : Thread) (k : BitVec 6) : Nat := (t.fr k.toNat).toNat % 2 ^ (F.ebits + F.fbits + 1)
def fVal (F : Fmt) (t : Thread) (k : BitVec 6) : Fp := F.decode (fBits F t k)

/-- A word in two formats, .S and .D, with its value by format. -/
structure PtRow where
  s : CtorT
  d : CtorT
  val : Fmt → RMode → Fp → Fp → Fp → Nat × Nat

/-- Arithmetic (R135) and the fused words (R137); the last operand is the old value of d. -/
noncomputable def ptRows : List PtRow :=
  [ ⟨.faddS, .faddD, fun F m a b _ => F.add m a b⟩,
    ⟨.fsubS, .fsubD, fun F m a b _ => F.add m a b.negate⟩,
    ⟨.fmulS, .fmulD, fun F m a b _ => F.mul m a b⟩ ]

noncomputable def fusedRows : List PtRow :=
  [ ⟨.fmacS, .fmacD, fun F m a b d => F.fused m 0 a b d⟩,
    ⟨.fmscS, .fmscD, fun F m a b d => F.fused m 1 a b d⟩,
    ⟨.fnmacS, .fnmacD, fun F m a b d => F.fused m 2 a b d⟩,
    ⟨.fnmscS, .fnmscD, fun F m a b d => F.fused m 3 a b d⟩ ]

/-- FMIN and FMAX (R136) on the operands' bits. -/
noncomputable def minMaxRows : List (CtorT × CtorT × Bool) := [ (.fminS, .fminD, false), (.fmaxS, .fmaxD, true) ]

/-- The smaller or larger of two operands (R136): a NaN operand is missing, −0 lies below +0, two NaNs give the canonical NaN; a signalling NaN is
invalid. -/
def pickOf (F : Fmt) (larger : Bool) (x y : Nat) : Nat × Nat :=
  let a := F.decode x
  let b := F.decode y
  let below := Fp.lt a b || (Fp.eq a b && a.neg? && !b.neg?)
  (if a.isNan && b.isNan then F.nan
   else if a.isNan then y
   else if b.isNan then x
   else if larger then (if below then y else x) else (if below then x else y),
   if a.isSig || b.isSig then 1 else 0)

/-- The functions of one source (R141, R142) with their latency. -/
structure FnRow where
  s : CtorN
  d : CtorN
  lat : Nat
  val : Fmt → RMode → Nat → Nat × Nat

noncomputable def fnRows : List FnRow :=
  [ ⟨.frcpS, .frcpD, 8, fun F m x => F.div m (.fin false 1 0) (F.decode x)⟩,
    ⟨.frsqS, .frsqD, 8, fun F m x => F.rsq m (F.decode x)⟩,
    ⟨.fexp2S, .fexp2D, 8, fun F _ x => F.exp2 x⟩,
    ⟨.flog2S, .flog2D, 8, fun F _ x => F.log2 x⟩,
    ⟨.fsinS, .fsinD, 8, fun F _ x => F.trig false x⟩,
    ⟨.fcosS, .fcosD, 8, fun F _ x => F.trig true x⟩,
    ⟨.frndS, .frndD, 4, fun F m x => F.rnd m (F.decode x)⟩ ]

/-- The class of R143 as the number of its bit. -/
def classOf (F : Fmt) (x : Nat) : Nat :=
  match F.decode x with
  | .inf true => 0
  | .inf false => 7
  | .nan true => 8
  | .nan false => 9
  | .fin n m _ =>
    if m = 0 then (if n then 3 else 4) else if m < 2 ^ F.fbits then (if n then 2 else 5) else (if n then 1 else 6)

/-- The flagged point words (R134, R135, R141): two sources. -/
noncomputable def flaggedTwo : List PtRow := [ ⟨.fdivS, .fdivD, fun F m a b _ => F.div m a b⟩ ]

/-- What a flagged point word puts under way: its results and sticky bits, or the trap it will call when it finishes. -/
def fpOp (s : State) (iss : Issue) (g : BitVec 4) (res : Thread → List Eff × Nat) (t : Thread) : OpReq :=
  let r := res t
  let rs := fpRaisers s iss g fun _ t => res t
  .plain 0 (if r.2 &&& t.enables = 0 then .fpDivSqrt (if r.2 = 0 then r.1 else r.1 ++ [.sticky r.2]) none
    else .fpDivSqrt [] (some { seq := s.fresh, code := fpCodeWord rs, addr := fpReported rs, pc := iss.wordPc, resume := none }))

/-- The compares of points (R147, R148): relation, and whether a quiet NaN is invalid. -/
structure FcmpRow where
  s : CtorC
  d : CtorC
  quiet : Bool
  rel : Fp → Fp → Bool

/-- Neither is a NaN. -/
def ordered (a b : Fp) : Bool := !a.isNan && !b.isNan

noncomputable def fcmpRows : List FcmpRow :=
  [ ⟨.fcmpEqS, .fcmpEqD, true, fun a b => ordered a b && Fp.eq a b⟩,
    ⟨.fcmpNeS, .fcmpNeD, true, fun a b => !(ordered a b && Fp.eq a b)⟩,
    ⟨.fcmpLtS, .fcmpLtD, false, fun a b => ordered a b && Fp.lt a b⟩,
    ⟨.fcmpLeS, .fcmpLeD, false, fun a b => ordered a b && Fp.le a b⟩,
    ⟨.fcmpGtS, .fcmpGtD, false, fun a b => ordered a b && Fp.lt b a⟩,
    ⟨.fcmpGeS, .fcmpGeD, false, fun a b => ordered a b && Fp.le b a⟩,
    ⟨.fcmpUnS, .fcmpUnD, true, fun a b => !ordered a b⟩,
    ⟨.fcmpOrdS, .fcmpOrdD, true, ordered⟩ ]

/-- The packed words (R154): format, value on one element, whether d is a source. -/
structure PackRow where
  i : CtorT
  F : Fmt
  third : Bool
  val : Fmt → RMode → Fp → Fp → Fp → Nat × Nat

noncomputable def packRows : List PackRow :=
  [ ⟨.hadd2, .h, false, fun F m a b _ => F.add m a b⟩,
    ⟨.hmul2, .h, false, fun F m a b _ => F.mul m a b⟩,
    ⟨.hfma2, .h, true, fun F m a b d => F.fma m a b d⟩,
    ⟨.badd2, .bf, false, fun F m a b _ => F.add m a b⟩,
    ⟨.bmul2, .bf, false, fun F m a b _ => F.mul m a b⟩,
    ⟨.bfma2, .bf, true, fun F m a b d => F.fma m a b d⟩ ]

/-- The number a finite value stands for. -/
def Fp.num : Fp → ℚ
  | .fin n m e => (if n then -1 else 1) * (m : ℚ) * (2 : ℚ) ^ e
  | _ => 0

/-- An exact bound lies at or below, at or above, a number; an infinity stands for a bound that is not reached. -/
def below : Fp → ℚ → Prop
  | .inf n, _ => n = true
  | .nan _, _ => False
  | x, q => Fp.num x ≤ q
def above : Fp → ℚ → Prop
  | .inf n, _ => n = false
  | .nan _, _ => False
  | x, q => q ≤ Fp.num x

/-- A number lies in an interval. -/
def within (v : Iv) (q : ℚ) : Prop := below v.lo q ∧ above v.hi q

/-- A pair of bound bits as an interval. -/
def ivOf (F : Fmt) (b : Nat × Nat) : Iv := ⟨F.decode b.1, F.decode b.2⟩

/-- The four formats with infinities that arithmetic words use (R25). -/
def arithFmts : List Fmt := [.s, .d, .h, .bf]

/-- A value that the format holds, as bits below its width. -/
def heldBy (F : Fmt) (y : Fp) : Prop := ∃ b, b < 2 ^ (F.ebits + F.fbits + 1) ∧ F.decode b = y

/-- Which way a mode rounds a magnitude (R29): to the nearest, toward zero, or away from zero. -/
inductive Side where
  | near
  | trunc
  | away

def sideOf (mode : RMode) (neg : Bool) : Side :=
  match mode with
  | .rne => .near
  | .rtz => .trunc
  | .rup => if neg then .trunc else .away
  | .rdn => if neg then .away else .trunc

/-- The largest finite value of a format and its last place; the smallest normal magnitude and the last place of what lies just below it, where the range
of exponents is unbounded (R25, R29). -/
def topUlp (F : Fmt) : ℚ := (2 : ℚ) ^ ((2 ^ F.ebits - 2 : Int) - F.bias - F.fbits)
def topOf (F : Fmt) : ℚ := (2 ^ (F.fbits + 1) - 1) * topUlp F
def minUlp (F : Fmt) : ℚ := (2 : ℚ) ^ (-(F.bias : Int) - F.fbits)
def minOf (F : Fmt) : ℚ := (2 : ℚ) ^ (1 - (F.bias : Int))

/-- A magnitude rounded with unbounded exponents exceeds the largest finite value, or lies below the smallest normal one (R29). -/
def overflows (F : Fmt) (x : Side) (q : ℚ) : Prop :=
  match x with
  | .near => topOf F + topUlp F / 2 ≤ q
  | .trunc => topOf F + topUlp F ≤ q
  | .away => topOf F < q
def isTiny (F : Fmt) (x : Side) (q : ℚ) : Prop :=
  match x with
  | .near => q < minOf F - minUlp F / 2
  | .trunc => q < minOf F
  | .away => q ≤ minOf F - minUlp F

/-! ### Intervals (R31, R32, R138 to R152) -/

/-- The bound format of types I and J, the bits of an interval operand and its bounds (R31, R131). -/
def bf (j : Bool) : Fmt := if j then .d else .s
def bBits (j : Bool) (t : Thread) (k : BitVec 6) : Nat × Nat :=
  if j then ((t.fr k.toNat).toNat, (t.fr (k.toNat + 1)).toNat)
  else ((t.fr k.toNat).toNat % 2 ^ 32, (t.fr k.toNat).toNat / 2 ^ 32)
def iv (j : Bool) (t : Thread) (k : BitVec 6) : Iv := ivOf (bf j) (bBits j t k)

/-- Writing an interval, and the registers an interval is read from. -/
def ivRes (j : Bool) (d : BitVec 6) (v : Nat × Nat) : List Eff :=
  if j then [.f d.toNat (word (v.1 : Nat)), .f (d.toNat + 1) (word (v.2 : Nat))] else [.f d.toNat (word (v.1 + v.2 * 2 ^ 32 : Nat))]
def ivRegs (j : Bool) (k : BitVec 6) : List Reg := if j then [.f k.toNat, .f (k.toNat + 1)] else [.f k.toNat]

/-- The check of R138: INTERVAL_INVALID for an operand that is neither valid nor the canonical empty value, then EMPTY unless the word accepts
empties. -/
def ivCode (accept : Bool) (vs : List Iv) : Option Nat :=
  if ∃ v ∈ vs, v.valid = false ∧ v.empty? = false then some 0x07
  else if accept = false ∧ ∃ v ∈ vs, v.empty? = true then some 0x06
  else none
def checked (accept : Bool) (vs : List Iv) (es : List Eff) : Except Flt (List Eff) :=
  match ivCode accept vs with
  | some c => .error (.mk2 c 0)
  | none => .ok es

/-- The words of two intervals (R139, R140) in types I and J: function number, latency, whether empties are accepted. -/
noncomputable def ivRows : List (CtorT × CtorT × Nat × Nat × Bool) :=
  [ (.faddI, .faddJ, 0, 4, false), (.fsubI, .fsubJ, 1, 4, false), (.fmulI, .fmulJ, 2, 6, false), (.fhullI, .fhullJ, 4, 4, true),
    (.fisectI, .fisectJ, 5, 4, true), (.fminI, .fminJ, 6, 4, false), (.fmaxI, .fmaxJ, 7, 4, false) ]

noncomputable def ivFusedRows : List (CtorT × CtorT × Nat) :=
  [ (.fmacI, .fmacJ, 0), (.fmscI, .fmscJ, 1), (.fnmacI, .fnmacJ, 2), (.fnmscI, .fnmscJ, 3) ]

/-- The parts of an interval (R146): its bounds' bits, its midpoint (R151), its width rounded up. -/
noncomputable def ivPartRows : List (CtorN × CtorN × (Fmt → Nat × Nat → Nat)) :=
  [ (.iloI, .iloJ, fun _ b => b.1), (.ihiI, .ihiJ, fun _ b => b.2), (.imidI, .imidJ, fun F b => F.mid (ivOf F b)),
    (.iwidI, .iwidJ, fun F b => F.rupB (addB (F.decode b.2) (F.decode b.1).negate)) ]

/-- The compares of intervals (R149): condition code, whether b is read, whether empties are accepted. -/
noncomputable def ivCmpRows : List (CtorC × CtorC × Nat × Bool × Bool) :=
  [ (.fcmpEqI, .fcmpEqJ, 0, true, false), (.fcmpNeI, .fcmpNeJ, 1, true, false), (.fcmpLtI, .fcmpLtJ, 2, true, false),
    (.fcmpLeI, .fcmpLeJ, 3, true, false), (.fcmpGtI, .fcmpGtJ, 4, true, false), (.fcmpGeI, .fcmpGeJ, 5, true, false),
    (.fcmpSubI, .fcmpSubJ, 8, true, true), (.fcmpDisjI, .fcmpDisjJ, 9, true, true), (.fcmpContI, .fcmpContJ, 10, true, true),
    (.fcmpEmptyI, .fcmpEmptyJ, 11, false, true) ]

/-- A bound written as it is, a zero as +0 (R150). -/
def bound0 (F : Fmt) (x : Nat) : Nat := if (F.decode x).isZero then 0 else x

/-! ### Memory words (R157 to R180) -/

/-- The policy operand (R168): none for field 0, otherwise the register or literal; bits 31:23 must be 0. -/
def policy (iss : Issue) (t : Thread) (p : BitVec 6) : Option Word := if p = 0 then none else some (srcG iss t .zero p)
def policyBits (x : Option Word) : Nat := match x with
  | none => 0
  | some w => w.toNat / 2 ^ 23 % 2 ^ 9

/-- The checks of a global access of n bytes at issue: alignment, then the address's high bits, in the order of R160; a bad policy word is ILLEGAL, before
both, where the manual gives no order (log entry 33). -/
def globalAt (n : Nat) (b p : BitVec 6) (iss : Issue) (t : Thread) : Except Flt Word :=
  let a := srcG iss t .zero b
  if policyBits (policy iss t p) ≠ 0 then .error (.mk2 0x01 0)
  else if a.toNat % n ≠ 0 then .error (.mk2 0x02 a)
  else if a.toNat ≥ 2 ^ 52 then .error (.mk2 0x03 a)
  else .ok a

/-- The checks of a scratch access of n bytes at base + index × n (R158, R165): alignment, then the region. -/
def scratchAt (s : State) (n : Nat) (b i : BitVec 6) (iss : Issue) (t : Thread) : Except Flt Word :=
  let a := word ((srcG iss t .zero b).toNat + (srcG iss t .zero i).toNat * n)
  if a.toNat % n ≠ 0 then .error (.mk2 0x02 a)
  else match s.group? t.gid with
    | none => .error (.mk2 0x04 a)
    | some grp => if s.scratchOk grp a n then .ok a else .error (.mk2 0x04 a)

/-- The loads (R163, R164, R166): bytes and destination. -/
noncomputable def ldgRows : List (CtorT × Nat × (Nat → LoadDst)) :=
  [ (.ldgB, 1, fun d => .gS d 1), (.ldgBu, 1, fun d => .gU d 1), (.ldgH, 2, fun d => .gS d 2), (.ldgHu, 2, fun d => .gU d 2),
    (.ldgW, 4, fun d => .gS d 4), (.ldgWu, 4, fun d => .gU d 4), (.ldgD, 8, fun d => .gU d 8), (.ldgQ, 16, .gQ),
    (.ldfGS, 4, .fS), (.ldfGD, 8, .fD), (.ldfGI, 8, .fI), (.ldfGJ, 16, .fJ) ]
noncomputable def ldsRows : List (CtorT × Nat × (Nat → LoadDst)) :=
  [ (.ldsB, 1, fun d => .gS d 1), (.ldsBu, 1, fun d => .gU d 1), (.ldsH, 2, fun d => .gS d 2), (.ldsHu, 2, fun d => .gU d 2),
    (.ldsW, 4, fun d => .gS d 4), (.ldsWu, 4, fun d => .gU d 4), (.ldsD, 8, fun d => .gU d 8), (.ldsQ, 16, .gQ),
    (.ldfLS, 4, .fS), (.ldfLD, 8, .fD), (.ldfLI, 8, .fI), (.ldfLJ, 16, .fJ) ]

/-- The stores (R164): global and scratch constructors, bytes, whether the data stand in floating-point registers. -/
noncomputable def storeRows : List (CtorT × CtorT × Nat × Bool) :=
  [ (.stgB, .stsB, 1, false), (.stgH, .stsH, 2, false), (.stgW, .stsW, 4, false), (.stgD, .stsD, 8, false), (.stgQ, .stsQ, 16, false),
    (.stfGS, .stfLS, 4, true), (.stfGD, .stfLD, 8, true), (.stfGI, .stfLI, 8, true), (.stfGJ, .stfLJ, 16, true) ]

/-- The data of a store as a number: the low n bytes of the register, or the pair; the pair of g0 is zeros. -/
def dataOf (n : Nat) (float : Bool) (d : BitVec 6) (iss : Issue) (t : Thread) : Nat :=
  if float then (if n = 16 then (t.fr d.toNat).toNat + (t.fr (d.toNat + 1)).toNat * 2 ^ 64 else (t.fr d.toNat).toNat % 2 ^ (8 * n))
  else if n = 16 then (if d = 0 then 0 else (t.gr d.toNat).toNat + (t.gr (d.toNat + 1)).toNat * 2 ^ 64)
  else (srcG iss t .sign d).toNat % 2 ^ (8 * n)
def dataRegs (n : Nat) (float : Bool) (d : BitVec 6) : List Reg :=
  let r (k : Nat) : Reg := if float then .f k else .g k
  if n = 16 then [r d.toNat, r (d.toNat + 1)] else [r d.toNat]

/-- The atomics (R171 to R173): function, bytes, rank of sequential consistency. -/
noncomputable def amogRows : List (CtorT × AOp × Nat × Nat) :=
  [ (.amogAddW, .add, 4, 0), (.amogAddD, .add, 8, 0), (.amogMaxW, .max, 4, 0), (.amogMinW, .min, 4, 0), (.amogSwapW, .swap, 4, 0),
    (.amogSwapD, .swap, 8, 0), (.amogCasW, .cas, 4, 0), (.amogCasD, .cas, 8, 0), (.amogscAddW, .add, 4, 1), (.amogscAddD, .add, 8, 1),
    (.amogscMaxW, .max, 4, 1), (.amogscMinW, .min, 4, 1), (.amogscSwapW, .swap, 4, 1), (.amogscSwapD, .swap, 8, 1),
    (.amogscCasW, .cas, 4, 1), (.amogscCasD, .cas, 8, 1), (.amog2AndD, .and, 8, 0), (.amog2OrD, .or, 8, 0), (.amog2XorD, .xor, 8, 0),
    (.amog2MaxuD, .maxu, 8, 0), (.amog2MinuD, .minu, 8, 0), (.amog2AndW, .and, 4, 0), (.amog2OrW, .or, 4, 0), (.amog2XorW, .xor, 4, 0) ]
noncomputable def amosRows : List (CtorT × AOp × Nat) :=
  [ (.amosAddW, .add, 4), (.amosAddD, .add, 8), (.amosMaxW, .max, 4), (.amosMinW, .min, 4), (.amosSwapW, .swap, 4), (.amosSwapD, .swap, 8),
    (.amosCasW, .cas, 4), (.amosCasD, .cas, 8) ]

/-- The new value of a location (R172), on values of N bits. -/
def rmw (op : AOp) (n old v e : Nat) : Nat :=
  match op with
  | .add => (old + v) % 2 ^ n
  | .max => if sx n old < sx n v then v else old
  | .min => if sx n v < sx n old then v else old
  | .swap => v
  | .cas => if old = e then v else old
  | .and => old &&& v
  | .or => old ||| v
  | .xor => old ^^^ v
  | .maxu => if old < v then v else old
  | .minu => if v < old then v else old

/-- No kernel of the state runs in deterministic mode, so that no atomic is buffered (R386, R388). -/
def unbuffered (s : State) : Prop := ∀ k ∈ s.kernels, k.lr.mode ≠ 1

/-! ### Clauses, cohorts and traps -/

/-- A field of n bits of a word from bit lo on. -/
def fld (w : Word) (lo n : Nat) : Nat := (w.extractLsb' lo n).toNat

/-- A state changed at threads, its other parts as they were. -/
def onlyThreads (s t : State) : Prop := t = { s with threads := t.threads } ∧ t.threads.length = s.threads.length

/-! ### Words for which each executing thread acts in turn (R196) -/

/-- The executing threads act one after the other, in ascending cohort index, on the state the earlier ones left; `q` names the word among the words
issued. -/
def inTurn (s : State) (iss : Issue) (g : BitVec 4) (act : State → Thread → State) : State :=
  (s.executing iss g).foldl act { s with fresh := s.fresh + 1 }

/-- The thread faults at the word in issue. -/
def faultAt (s : State) (iss : Issue) (q : Nat) (t : Thread) (code : Nat) (addr : Word) : State :=
  { s with threads := s.threads.map fun x => if x.tid = t.tid then x.fault iss q (.mk2 code addr) else x }

/-! ### The matrix engine (R258, R263 to R277) -/

/-- The fault word that an engine word calls at issue (R277): cause, progress 0, command index 255. -/
def mxAt (cause tid : Nat) : Word := word (cause + 255 * 2 ^ 8 + tid * 2 ^ 32 : Nat)

/-- What an engine word does for a thread: a fault, or a command queued, with MATRIX cause 0x09 at 256 commands (R263). -/
def queues (iss : Issue) (q : Nat) (req : Thread → Except (Nat × Word) CmdReq) (s : State) (t : Thread) : State :=
  match req t with
  | .error x => faultAt s iss q t x.1 x.2
  | .ok r => if 256 ≤ s.cmdCount t.core (s.asidOf t.gid) then faultAt s iss q t 0x0E (mxAt 0x09 0) else s.queueCmd t q r

/-- Operand words that break R258. -/
def tileBad (w : Word) : Bool := decide (fld w 8 8 ≠ 0 ∨ fld w 24 40 ≠ 0)
def ctlBad (s : State) (t : Thread) (w : Word) : Bool :=
  decide (fld w 15 1 ≠ 0 ∨ fld w 20 44 ≠ 0 ∨ (fld w 19 1 = 1 ∧ ((s.kernelOf? t.gid).map (·.lr.cvs)).getD 0 ≤ fld w 16 3))
def cntBad (w : Word) : Bool := decide (fld w 11 53 ≠ 0 ∨ fld w 0 9 = 0 ∨ 256 < fld w 0 9)
def cvOf (w : Word) : Option Nat := if fld w 19 1 = 1 then some (fld w 16 3) else none

/-- A 64-aligned scratch address of the own region with X = 0 (R268, R274). -/
def ownAt (s : State) (t : Thread) (a : Word) : Except (Nat × Word) Word :=
  if a.toNat % 64 ≠ 0 then .error (0x02, a)
  else match s.group? t.gid with
    | none => .error (0x04, a)
    | some g => if fld a 23 1 = 1 ∨ s.scratchOk g a 64 = false then .error (0x04, a) else .ok a

/-- The accumulator element of MRD and MWR (R275): checks in their order, then the byte in the accumulator region. -/
def accumAt (s : State) (b i : BitVec 6) (iss : Issue) (t : Thread) : Except Flt Word :=
  let x := srcG iss t .zero b
  let y := srcG iss t .zero i
  let tid := fld x 0 8
  let e := s.desc t.core (s.asidOf t.gid) tid
  let row := fld x 16 8 + fld y 9 8
  let a := recOffset e.data + 2048 * row + 4 * fld y 0 9
  if tileBad x ∨ fld y 17 47 ≠ 0 then .error (.mk2 0x0E (mxAt 0x08 0))
  else if e.fmt ≠ 6 ∧ e.fmt ≠ 7 then .error (.mk2 0x0E (mxAt 0x01 tid))
  else if e.rows ≤ row then .error (.mk2 0x0E (mxAt 0x02 tid))
  else if fld y 0 9 % 2 ≠ 0 then .error (.mk2 0x02 (word a))
  else if ((s.group? t.gid).map s.accumSize).getD 0 < a + 8 then .error (.mk2 0x0E (mxAt 0x03 tid))
  else .ok (word a)

/-! ### Barriers (R326 to R334) -/

/-- The checks of a barrier word at issue (R329). -/
def barrierAt (s : State) (b : BitVec 6) (iss : Issue) (t : Thread) : Except Flt Word :=
  let a := srcG iss t .zero b
  if a.toNat % 8 ≠ 0 then .error (.mk2 0x02 a)
  else match s.group? t.gid with
    | none => .error (.mk2 0x04 a)
    | some g => if s.scratchOk g a 8 then .ok a else .error (.mk2 0x04 a)

/-- A thread is park-pending for one more cause; one that has parked already is parked for it too, and its flag falls at once where the cause is an
operation that it parks on (R77, R97). -/
def parksFor (s : State) (tid : Nat) (p : Park) : State :=
  let s1 : State := { s with threads := s.threads.map fun x => if x.tid = tid then { x with parks := x.parks ++ [p] } else x }
  match s.thread? tid with
  | some x => if x.st = .parked then s1.parkUse tid p else s1
  | none => s1

/-- Every operation that was put under way since s makes its thread park-pending until it is answered (R97, R331, R333). -/
def parksOn (s : State) (park : Nat → Park) (t : State) : State :=
  (t.ops.filter fun o => decide (s.fresh ≤ o.id)).foldl (fun u o => parksFor u o.tid (park o.id)) t

/-- A thread that was parked, and that a fault has woken, is trapped at once (R93); any other takes its trap at a boundary (R134, R160). -/
def woken (was : TSt) (tid : Nat) (s : State) : State :=
  match s.thread? tid with
  | some x => if was = .parked ∧ x.st = .runnable then s.takeTrap x else s
  | none => s

/-- A flagged operation of a thread ends in a fault: its results are not delivered, its flag falls, its trap is due (R134). -/
def endsInTrap (s : State) (o : Op) (t : Thread) (d : Due) : State :=
  woken t.st o.tid ((((s.modThread o.tid fun t => t.settled o.seq).finishUse o.use o.tid).lateFault o.tid d).dropOp o.id)

/-- A word after c arrivals (R327, R330), on its fields E (bits 15:0), A (31:16) and phase (63:48). -/
def arrivals (w c : Nat) : Nat × Bool :=
  let e := w % 2 ^ 16
  let a := w / 2 ^ 16 % 2 ^ 16
  let p := w / 2 ^ 48 % 2 ^ 16
  if e ≤ a + c then (e + (p + 1) % 2 ^ 16 * 2 ^ 48, true) else (e + (a + c) * 2 ^ 16 + p * 2 ^ 48, false)

/-! ### Copies (R282 to R295) -/

/-- A copy error word with count 0 (R285). -/
def copyAt (cause : Nat) (addr : Word) : Word := word (cause * 2 ^ 56 + addr.toNat % 2 ^ 52 : Nat)

/-- What a word of the copy unit does for a thread (R285, R286): its checks, the seventh of them the 128 entries; then the copy is queued. -/
def enters (iss : Issue) (q : Nat) (req : State → Thread → Except (Nat × Word) CopyReq) (s : State) (t : Thread) : State :=
  match req s t with
  | .error x => faultAt s iss q t x.1 x.2
  | .ok r =>
    if r.len ≠ 0 ∧ 128 ≤ (s.cpys.filter fun c => c.core == t.core && c.len != 0).length then faultAt s iss q t 0x0F (copyAt 0x01 0)
    else s.queueCopy iss q t r

/-- Steps 4 to 6 of R285 for the listed values: alignment, then global addresses, then scratch ranges; the first bad one is reported. -/
def placesOk (s : State) (t : Thread) (aligned : List (Word × Nat)) (globals : List Word) (scratch : List (Word × Nat)) (r : CopyReq) :
    Except (Nat × Word) CopyReq :=
  match aligned.find? fun x => decide (x.1.toNat % x.2 ≠ 0) with
  | some x => .error (0x02, copyAt 0x0A x.1)
  | none => match globals.find? fun a => decide (2 ^ 52 ≤ a.toNat) with
    | some a => .error (0x03, copyAt 0x0B a)
    | none => match s.group? t.gid with
      | none => .error (0x04, copyAt 0x0C 0)
      | some g => match scratch.find? fun x => !s.scratchOk g x.1 x.2 with
        | some x => .error (0x04, copyAt 0x0C x.1)
        | none => .ok r

/-- COPY, COPYM and COPYB on their control word (R284, R285): `bad` the aux field or the tag, `own` the requirement on the sides. -/
def copyOf (s : State) (t : Thread) (w d b : Word) (bad own : Bool) (tag : Option Nat) (kind : CopyKind) (barrier : Option Word) :
    Except (Nat × Word) CopyReq :=
  let ds := fld w 31 1 = 1
  let ss := fld w 30 1 = 1
  let len := fld w 0 22
  if fld w 53 11 ≠ 0 ∨ fld w 22 2 ≠ 0 ∨ bad = true ∨ 2 ^ 21 < len then .error (0x0F, copyAt 0x02 0)
  else if ¬ (ds ∨ ss) ∨ own = false then .error (0x0F, copyAt 0x02 0)
  else
    let at' (o : Word) : Word := word (d.toNat / 2 ^ 21 * 2 ^ 21 + o.toNat : Nat)
    placesOk s t ([(d, 8), (b, 8), (word len, 8)] ++ barrier.toList.map fun o => (o, 8))
      ((if ds then [] else [d]) ++ if ss then [] else [b])
      ((if ds then [(d, len)] else []) ++ (if ss then [(b, len)] else []) ++ barrier.toList.map fun o => (at' o, 8))
      { kind := kind, dst := d, dstS := decide ds, src := b, srcS := decide ss, len := len, tag := tag }

/-- What a tag word does for a thread: a mask bit at or above the `.tags` count faults (R294). -/
def onTags (iss : Issue) (q : Nat) (b : BitVec 6) (act : State → Thread → Word → State) (s : State) (t : Thread) : State :=
  let m := srcG iss t .zero b
  if (List.range 64).any (fun i => decide (s.tagCount t.gid ≤ i) && m.getLsbD i) then faultAt s iss q t 0x0F (copyAt 0x02 0) else act s t m

/-! ### Kernels, groups, messages (R300 to R325) -/

/-- The state with one entry more in a die's launch list. -/
def listed (s : State) (l : LaunchReq) : State := { s with launches := s.launches ++ [l] }

/-- The kernel that an accepted record becomes (R304). -/
def accepted (s : State) (l : LaunchReq) (lr : LaunchRec) (st : KSt) : Kernel :=
  { kid := s.fresh, asid := l.asid, lr := lr, recAddr := l.recAddr, st := st, src := l.src, origin := l.origin, nextGroup := 0, retiredGroups := 0,
    errors := [],
    ring := [], drain := [], streams := [], ranOn := [], held := none }

/-- The conditions of R303 on the fields of a record, as the rule counts them. -/
def recordValid (r : LaunchRec) : Prop :=
  let threads := r.tx * r.ty * r.tz
  let width := 32 * 2 ^ r.width
  let cohorts := threads / width + r.spawn
  let regs := ((threads + r.spawn * width) * 8 * (r.ng + r.nf) + 16383) / 16384
  r.width ≤ 2 ∧ r.spawn ≤ 8 ∧ r.cvs ≤ 8 ∧ r.tags ≤ 64 ∧ r.nf ≤ 64 ∧ (8 ≤ r.ng ∧ r.ng ≤ 62) ∧
  r.entry.toNat < 2 ^ 52 ∧ r.entry.toNat % 12 = 0 ∧ r.fpc &&& ~~~0x1F03 = 0 ∧ threads % width = 0 ∧ threads ≤ 1536 ∧ cohorts * 2 ^ r.width ≤ 48 ∧
  regs + r.scratch + r.accum + r.l1min ≤ 128 ∧
  (r.mode < 2 → r.logBase = 0) ∧ (¬ r.mode < 2 → r.logBase ≠ 0 ∧ r.logBase % 64 = 0)

/-! ### Queues (R297 to R299, R366 to R372) -/

/-- Word i of a header, word k of a packet: 8 bytes of a context at their homes. -/
def hw (s : State) (q : HQueue) (i : Nat) : Nat := s.homeRead q.asid (q.hdr + 8 * i) 8
def putHw (s : State) (q : HQueue) (i v : Nat) : State := s.homeWrite q.asid (q.hdr + 8 * i) 8 v

/-- A queue record changed. -/
def modQ (s : State) (id : Nat) (f : HQueue → HQueue) : State := { s with queues := s.queues.map fun x => if x.id = id then f x else x }

/-- A packet that has started, at a moment: it waits for its end, or has it already. -/
def startedPkt (idx since : Nat) (ended : Bool) (cause : Nat) : Pkt :=
  { idx := idx, since := since, ended := ended, cause := cause, held := none, done := false }

/-- Packet idx of a queue can start now and is well formed (R367, R368). -/
def canStart (s : State) (q : HQueue) (idx ty : Nat) : Prop :=
  s.mayStart q idx = true ∧ s.pktType q.asid q.hdr idx = ty ∧ s.queueBad q idx = false

/-- A packet's start: an uncorrectable error that its reading meets is recorded (R363), its wait tokens are cleared. -/
def started (s : State) (q : HQueue) (idx : Nat) (ended : Bool) (cause : Nat) : State :=
  let u := s.meetPkt q.asid q.hdr idx
  modQ { u with fresh := u.fresh + 1 } q.id fun x => { x with
    tokens := x.tokens &&& ~~~ word (s.pktWord q.asid q.hdr idx 1), started := x.started ++ [startedPkt idx s.fresh ended cause] }

/-- The device adds to a word of 8 bytes at its home; where the home's stack is not in service yet, the addition waits for it (R377). An uncorrectable error
that its read meets poisons the line (R363), and the sum is written all the same (log entry 75). -/
def adds (s : State) (asid va v : Nat) : State :=
  if s.placeOf asid va = .wait then { s with mem := { s.mem with late := s.mem.late ++ [.add asid va v] } }
  else (s.meetRead asid va).homeWrite asid va 8 ((s.homeRead asid va 8 + v) % 2 ^ 64)

/-! ### Page commands (R355 to R361) -/

/-- Word 0 of a page command: code in bits 7:0, the context in bits 31:16, all other bits 0. -/
def cmdWord (code asid : Nat) : Word := word (code + asid * 2 ^ 16 : Nat)

/-- A command that waits for nothing but its turn and its completion address. -/
def pageCmd (w3 : Word) (words : List Nat) : PageCmd :=
  { asid := 0, upTo := 0, waits := [], wts := [], todo := none, addr := w3.toNat, words := words }

/-- A command writes its words at its completion address, where it gives one. -/
def completed (s : State) (w3 : Word) (words : List Nat) : State :=
  { (if w3.toNat < 2 ^ 52 then s.putWords 0 w3.toNat words else s) with
    kiln := { (if w3.toNat < 2 ^ 52 then s.putWords 0 w3.toNat words else s).kiln with pages := [] } }

/-- The completion address of a command leads to no frame that does not exist (R12, R352). -/
def reaches (s : State) (w3 : Word) : Prop := w3.toNat < 2 ^ 52 → ∀ n a, s.placeOf 0 w3.toNat ≠ .hole n a

/-! ### The device -/

/-- A device record changed. -/
def modDev (s : State) (f : Dev → Dev) : State := { s with dev := f s.dev }

/-- The clamps of one quad, or of every quad, changed. -/
def clampsOf (s : State) (thermal : Bool) (quad : Nat) (f : Clamp → Clamp) (cs : Vector Clamp 128) : Prop :=
  ∀ i, i < 128 → ∀ c, s.dev.clamps[i]? = some c → cs[i]? = some (if thermal = false ∨ i = quad then f c else c)

/-- The device's lasting bounds (R13, R20, R22, R374, R378): the power limit, the sizes of the remote-data caches, link rates, clamps and clocks, and
the register x0 of every Kiln core. -/
def deviceBounds (s : State) : Prop :=
  s.dev.powerLimit ≤ 2400 ∧ (∀ (i n : Nat), s.dev.rdcGib[i]? = some n → n ≤ 32) ∧
  (∀ (i : Nat) (l : Link), s.dev.links[i]? = some l → (l.st ≠ .up → l.rate = 0) ∧ (l.st ≠ .down → l.en = true)) ∧
  (∀ (i : Nat) (c : Clamp), s.dev.clamps[i]? = some c → c.pStep ≤ 2 ∧ c.tStep ≤ 2 ∧ (c.mhz = 350 ∨ c.mhz = 525 ∨ c.mhz = 700)) ∧
  ∀ (i : Nat) (k : KilnCore), s.kiln.cores[i]? = some k → k.x[0] = 0

/-! ### The whole machine -/

/-- The words that only read and write registers of their own thread. -/
def registerWord (i : Instr) : Prop :=
  ∃ (c : BitVec 1) (g : BitVec 4) (d a b : BitVec 6),
    (∃ r ∈ binRows, i = r.w c g d a b ∨ i = r.d c g d a b) ∨ (∃ r ∈ twoRows, i = r.i c g d a b) ∨ (∃ r ∈ threeRows, i = r.i c g d a b) ∨
    (∃ r ∈ oneRows, i = r.i c g d a) ∨ (∃ r ∈ shflRows, i = r.1 c g d a b) ∨ (∃ r ∈ ptRows, i = r.s c g d a b ∨ i = r.d c g d a b) ∨
    (∃ r ∈ fusedRows, i = r.s c g d a b ∨ i = r.d c g d a b) ∨ (∃ r ∈ minMaxRows, i = r.1 c g d a b ∨ i = r.2.1 c g d a b) ∨
    (∃ r ∈ fnRows, i = r.s c g d a ∨ i = r.d c g d a) ∨ (∃ r ∈ packRows, i = r.i c g d a b) ∨
    (∃ r ∈ ivRows, i = r.1 c g d a b ∨ i = r.2.1 c g d a b) ∨ (∃ r ∈ ivFusedRows, i = r.1 c g d a b ∨ i = r.2.1 c g d a b) ∨
    (∃ r ∈ ivPartRows, i = r.1 c g d a ∨ i = r.2.1 c g d a) ∨
    (∃ (p : BitVec 2) (k : BitVec 3), (∃ r ∈ icmpRows, i = r.i c g p k a b) ∨ (∃ r ∈ fcmpRows, i = r.s c g p k a b ∨ i = r.d c g p k a b) ∨
      ∃ r ∈ ivCmpRows, i = r.1 c g p k a b ∨ i = r.2.1 c g p k a b) ∨
    (∃ (x y z : BitVec 3), (∃ r ∈ predTwo, i = r.1 c g x y z) ∨ ∃ r ∈ predOne, i = r.1 c g x y) ∨
    (∃ (k : BitVec 3), i = .sel c g d a b k) ∨ (∃ (m : BitVec 9) (n : BitVec 15), i = .addiW c g d a m ∨ i = .addiD c g d a m ∨ i = .movi c g d n) ∨
    i ∈ [Instr.randW c g d a b, .randD c g d a b, .rdclk c g d, .rdtags c g d, .movk c g d a, .rdsr c g d a, .movp c g d a, .rdtr c g d b,
      .rdfpc c g d, .rdhash c g d, .voteAll c g d a, .voteAny c g d a, .ballot c g d a, .ballotu c g d a, .fmovGf c g d a, .fmovFg c g d a,
      .fcpysS c g d a b, .fcpysD c g d a b, .fabsS c g d a, .fabsD c g d a, .fnegS c g d a, .fnegD c g d a, .fclassS c g d a, .fclassD c g d a,
      .cbdec c g d a b, .mxq c g d a b, .imakeS c g d a b, .imakeD c g d a b, .iinflI c g d a b, .iinflJ c g d a b, .iptS c g d a, .iptD c g d a,
      .trd c g d a b, .tfirst c g d b, .cheld c g d b]

/-- A sparse store in canonical form: addresses strictly rising, nothing listed that an unlisted address reads as. -/
def canonical (l : List Host.Cell) : Prop := l.Pairwise (fun x y => x.1 < y.1) ∧ ∀ c ∈ l, c.2 ≠ 0

/-- The machine's stores: memory, the pools, the SRAM of Kiln. -/
def storesCanonical (s : State) : Prop := canonical s.mem.bytes ∧ canonical s.pool.bytes ∧ canonical s.kiln.sram

end Sys2Proof.Claim

open Sys2Proof Sys2Proof.Machine Sys2Proof.Claim

/-! ### Operands and results -/

/-- R68, R69, R76: g0 reads 0, the other general registers their value; field 63 reads the next word of the clause, sign- or zero-extended; p0 reads
T; guard 0 always holds and guard 8 never. -/
def Obligations.SourceOperands : Prop :=
  ∀ (t : Thread) (iss : Issue) (w : Widen),
    srcG iss t w 0 = 0 ∧
    (∀ (k : BitVec 6) (v : Word), k ≠ 0 → k ≠ 63 → t.g[k.toNat]? = some v → srcG iss t w k = v) ∧
    (∀ x : Word32, iss.words[iss.pos + 1]? = some x →
      srcG iss t .sign 63 = word (sx 32 x.toNat) ∧ srcG iss t .zero 63 = word x.toNat) ∧
    t.pred 0 = .t ∧ t.guard 0 = true ∧ t.guard 8 = false ∧
    (∀ (k : Nat) (v : K3), k ≠ 0 → t.p[k]? = some v → t.pred k = v)

/-- R76, R80, R82: a result that is alone on its way to a general register is read there from its landing cycle on and not before; g0 ignores it, every
other register keeps its value, and later results stay on their way. -/
def Sys2Proof.Claim.GeneralResultLands : Prop :=
  ∀ (t : Thread) (iss : Issue) (lat dep d now : Nat) (v : Word), d < 63 → t.lands = [] →
    let u := (t.receive iss lat dep [.g d v]).landUpTo now
    (∀ k, k < 63 → u.gr k = if k = d ∧ d ≠ 0 ∧ iss.cycle t + lat ≤ now then v else t.gr k) ∧
    u.f = t.f ∧ u.p = t.p ∧ u.fpc = t.fpc ∧ u.hash = t.hash ∧ u.trap = t.trap ∧ u.pc = t.pc ∧ u.stack = t.stack ∧
    (u.lands = [] ↔ iss.cycle t + lat ≤ now)

/-- R82: of two results for one register the one that lands later prevails, and of two that land in one cycle the one issued later. -/
def Sys2Proof.Claim.LaterResultPrevails : Prop :=
  ∀ (t : Thread) (iss : Issue) (l1 l2 dep d now : Nat) (v1 v2 : Word), 0 < d → d < 63 → t.lands = [] →
    iss.cycle t + l1 ≤ now → iss.cycle t + l2 ≤ now →
    (((t.receive iss l1 dep [.g d v1]).receive iss l2 dep [.g d v2]).landUpTo now).gr d = if l1 ≤ l2 then v2 else v1

/-- R76, R82, R133: predicates and floating-point registers take their results when they land; p0 ignores its own. Landing cycles are counted on the clock
of the core (log entry 2). -/
def Sys2Proof.Claim.PredicateResultLands : Prop :=
  ∀ (t : Thread) (iss : Issue) (lat dep d now : Nat) (v : K3), d < 8 → t.lands = [] →
    let u := (t.receive iss lat dep [.p d v]).landUpTo now
    (∀ k, k < 8 → u.pred k = if k = d ∧ d ≠ 0 ∧ iss.cycle t + lat ≤ now then v else t.pred k) ∧ u.g = t.g ∧ u.f = t.f ∧ u.fpc = t.fpc

/-! ### Integer words -/

/-- R110, R111: every two-source word of majors 0x05 to 0x08 gives each executing thread the table's value, sign-extended from 32 bits in the .W
form, at the table's latency; a source field 63 reads the widened literal. Nothing else of the machine changes. -/
def Sys2Proof.Claim.IntegerTwoSourceWords : Prop :=
  ∀ r ∈ binRows, ∀ (c : BitVec 1) (g : BitVec 4) (d a b : BitVec 6) (s : State) (iss : Issue), s.cur? = some iss →
    exec (r.w c g d a b) s = .next (lands s iss g r.lat [.g a.toNat, .g b.toNat]
      fun t => [.g d.toNat (word (sx 32 (r.val 32 (srcG iss t r.wd a) (srcG iss t r.wd b))))]) ∧
    exec (r.d c g d a b) s = .next (lands s iss g r.lat [.g a.toNat, .g b.toNat]
      fun t => [.g d.toNat (word (r.val 64 (srcG iss t r.wd a) (srcG iss t r.wd b)))])

/-- R114, R120: LEA, MULHU and the bit-field extracts. -/
def Sys2Proof.Claim.IntegerAddressAndExtractWords : Prop :=
  ∀ r ∈ twoRows, ∀ (c : BitVec 1) (g : BitVec 4) (d a b : BitVec 6) (s : State) (iss : Issue), s.cur? = some iss →
    exec (r.i c g d a b) s = .next (lands s iss g r.lat [.g a.toNat, .g b.toNat]
      fun t => [.g d.toNat (word (r.val (srcG iss t r.wd a) (srcG iss t r.wd b)))])

/-- R114, R120: the words that read d as a third source. -/
def Sys2Proof.Claim.IntegerThreeSourceWords : Prop :=
  ∀ r ∈ threeRows, ∀ (c : BitVec 1) (g : BitVec 4) (d a b : BitVec 6) (s : State) (iss : Issue), s.cur? = some iss →
    exec (r.i c g d a b) s = .next (lands s iss g r.lat [.g a.toNat, .g b.toNat, .g d.toNat]
      fun t => [.g d.toNat (word (r.val (t.gr d.toNat) (srcG iss t .sign a) (srcG iss t .sign b)))])

/-- R115: the words of one source. -/
def Sys2Proof.Claim.IntegerOneSourceWords : Prop :=
  ∀ r ∈ oneRows, ∀ (c : BitVec 1) (g : BitVec 4) (d a : BitVec 6) (s : State) (iss : Issue), s.cur? = some iss →
    exec (r.i c g d a) s = .next (lands s iss g 2 [.g a.toNat]
      fun t => [.g d.toNat (word (r.val (srcG iss t .sign a)))])

/-- R113: the shifts and rotates by an immediate. -/
def Sys2Proof.Claim.IntegerShiftImmediates : Prop :=
  ∀ r ∈ shiftRows, ∀ (c : BitVec 1) (g : BitVec 4) (d a i : BitVec 6) (j : BitVec 5) (s : State) (iss : Issue), s.cur? = some iss →
    exec (r.w c g d a j) s = .next (lands s iss g 2 [.g a.toNat]
      fun t => [.g d.toNat (word (sx 32 (r.val 32 (srcG iss t .sign a) j.toNat)))]) ∧
    exec (r.d c g d a i) s = .next (lands s iss g 2 [.g a.toNat]
      fun t => [.g d.toNat (word (r.val 64 (srcG iss t .sign a) i.toNat))])

/-- R112, whole: ADDI.W and ADDI.D compute a + sext(imm9, 9), MOVI writes sext(imm15, 15), with L = 2; an immediate lies in the stated range. -/
def Obligations.ImmediateWords : Prop :=
  ∀ (c : BitVec 1) (g : BitVec 4) (d a : BitVec 6) (i : BitVec 9) (j : BitVec 15) (s : State) (iss : Issue), s.cur? = some iss →
    exec (.addiW c g d a i) s = .next (lands s iss g 2 [.g a.toNat]
      fun t => [.g d.toNat (word (sx 32 (un 32 (srcG iss t .sign a) + sx 9 i.toNat)))]) ∧
    exec (.addiD c g d a i) s = .next (lands s iss g 2 [.g a.toNat]
      fun t => [.g d.toNat (word ((srcG iss t .sign a).toNat + sx 9 i.toNat))]) ∧
    exec (.movi c g d j) s = .next (lands s iss g 2 [] fun _ => [.g d.toNat (word (sx 15 j.toNat))]) ∧
    (-256 ≤ sx 9 i.toNat ∧ sx 9 i.toNat ≤ 255) ∧ (-16384 ≤ sx 15 j.toNat ∧ sx 15 j.toNat ≤ 16383)

/-- R126: a divide is put under way for each executing thread, flagged, with the quotient or remainder that it will write (-1 and the dividend for a
zero divisor); DIVIDE_COMPLETE delivers it. -/
def Obligations.DivideWords : Prop :=
  (∀ r ∈ divRows, ∀ (c : BitVec 1) (g : BitVec 4) (d a b : BitVec 6) (s : State),
    exec (r.w c g d a b) s = .next (s.startOps g true false [.g a.toNat, .g b.toNat] fun iss t =>
      .ok (.plain 0 (.divide [.g d.toNat (word (sx 32 (r.val 32 (srcG iss t r.wd a) (srcG iss t r.wd b))))]))) ∧
    exec (r.d c g d a b) s = .next (s.startOps g true false [.g a.toNat, .g b.toNat] fun iss t =>
      .ok (.plain 0 (.divide [.g d.toNat (word (r.val 64 (srcG iss t r.wd a) (srcG iss t r.wd b)))])))) ∧
  ∀ (id : Nat) (s : State) (o : Op) (es : List Eff), s.op? id = some o → o.kind = .divide es →
    exec (.divideComplete id) s = .next (s.finishOp o 0 es)

/-- R121 to R123: the integer compares write the table's pair for every combining type; a `.gd` compare executes whatever its guard holds. -/
def Obligations.IntegerCompares : Prop :=
  ∀ r ∈ icmpRows, ∀ (c : BitVec 1) (g : BitVec 4) (p : BitVec 2) (k : BitVec 3) (a b : BitVec 6) (s : State) (iss : Issue), s.cur? = some iss →
    exec (r.i c g p k a b) s = .next (lands s iss (cmpG g k) 2 (.g a.toNat :: .g b.toNat :: guardReg g :: pairRegs p)
      fun t => pairRes t g p k (tf (r.rel (srcG iss t r.wd a) (srcG iss t r.wd b))))

/-- R124: the predicate words. -/
def Sys2Proof.Claim.PredicateWords : Prop :=
  ∀ (c : BitVec 1) (g : BitVec 4) (d a b : BitVec 3) (s : State) (iss : Issue), s.cur? = some iss →
    (∀ r ∈ predTwo, exec (r.1 c g d a b) s = .next (lands s iss g 2 [.p a.toNat, .p b.toNat]
      fun t => [.p d.toNat (r.2 (t.pred a.toNat) (t.pred b.toNat))])) ∧
    (∀ r ∈ predOne, exec (r.1 c g d a) s = .next (lands s iss g 2 [.p a.toNat] fun t => [.p d.toNat (r.2 (t.pred a.toNat))])) ∧
    (a.toNat < 3 → exec (.pset c g d a) s = .next (lands s iss g 2 []
      fun _ => [.p d.toNat (if a = 0 then .f else if a = 1 then .t else .u)]))

/-- R125: votes and ballots over the participants. -/
def Sys2Proof.Claim.VotesAndBallots : Prop :=
  ∀ (c : BitVec 1) (g : BitVec 4) (d a : BitVec 6) (s : State) (iss : Issue), s.cur? = some iss →
    ∃ all any lo hi : Word,
      exec (.voteAll c g d a) s = .next (lands s iss g 3 [.g a.toNat] fun _ => [.g d.toNat all]) ∧
      exec (.voteAny c g d a) s = .next (lands s iss g 3 [.g a.toNat] fun _ => [.g d.toNat any]) ∧
      exec (.ballot c g d a) s = .next (lands s iss g 3 [.g a.toNat] fun _ => [.g d.toNat lo]) ∧
      exec (.ballotu c g d a) s = .next (lands s iss g 3 [.g a.toNat] fun _ => [.g d.toNat hi]) ∧
      (all = 1 ∨ all = 0) ∧ (all = 1 ↔ ∀ t ∈ s.threads, executes iss g t = true → srcG iss t .sign a ≠ 0) ∧
      (any = 1 ∨ any = 0) ∧ (any = 1 ↔ ∃ t ∈ s.threads, executes iss g t = true ∧ srcG iss t .sign a ≠ 0) ∧
      (∀ q, q < 64 → (lo.getLsbD q = true ↔ ∃ t, takesPart s iss g q t ∧ srcG iss t .sign a ≠ 0)) ∧
      ∀ q, q < 64 → (hi.getLsbD q = true ↔ ∃ t, takesPart s iss g (64 + q) t ∧ srcG iss t .sign a ≠ 0)

/-- R125: each shuffle gives a thread the value of a of the participant it names, and its own where that one lies outside the cohort or does not
take part. -/
def Obligations.Shuffles : Prop :=
  ∀ r ∈ shflRows, ∀ (c : BitVec 1) (g : BitVec 4) (d a b : BitVec 6) (s : State) (iss : Issue), s.cur? = some iss → distinctIdx s iss g →
    ∃ v : Thread → Word,
      exec (r.1 c g d a b) s = .next (lands s iss g 3 [.g a.toNat, .g b.toNat] fun t => [.g d.toNat (v t)]) ∧
      ∀ t ∈ s.threads, executes iss g t = true →
        let w := 32 * s.passesOf iss
        let src := r.2 w t.idx (srcG iss t .sign b).toNat
        (∀ q : Nat, src = q → q < w → ∀ x, takesPart s iss g q x → v t = srcG iss x .sign a) ∧
        ((src < 0 ∨ (w : Int) ≤ src ∨ ∀ x, ¬ takesPart s iss g src.toNat x) → v t = srcG iss t .sign a)

/-- R109, R116 to R119, R280: RDSR gives each executing thread the register that its number names: the table of R119. -/
def Sys2Proof.Claim.SpecialRegisters : Prop :=
  ∀ (c : BitVec 1) (g : BitVec 4) (d n : BitVec 6) (s : State) (iss : Issue), s.cur? = some iss →
    ∃ v : Thread → Word, exec (.rdsr c g d n) s = .next (lands s iss g 2 [] fun t => [.g d.toNat (v t)]) ∧
    ∀ (t : Thread) (grp : Group) (k : Kernel) (h : Cohort), s.group? t.gid = some grp → s.kernel? grp.kid = some k → s.cohort? t.cid = some h →
      let gx := max 1 k.lr.gx
      let gy := max 1 k.lr.gy
      let value (i : Nat) (x : Word) : Prop := n.toNat = i → v t = x
      value 0 (word t.lane) ∧ value 1 (word t.slot) ∧
      value 2 (word (h.idx + t.pass * 2 ^ 16 : Nat)) ∧
      value 3 (word grp.index) ∧
      value 4 (word (grp.index % gx + grp.index / gx % gy * 2 ^ 21 + grp.index / gx / gy * 2 ^ 42 : Nat)) ∧
      value 5 (word (k.lr.tx + k.lr.ty * 2 ^ 16 + k.lr.tz * 2 ^ 32 : Nat)) ∧
      value 6 (word (t.core % 128 : Nat)) ∧ value 7 (word (t.core % 128 / 4 : Nat)) ∧ value 8 (word (t.core / 128 : Nat)) ∧
      value 9 (word s.dev.pkgid) ∧
      value 10 (word (iss.t0 + t.pass : Nat)) ∧
      -- the tags, the ring's depth, the held colours and the hash as they stood before the group of words
      value 11 iss.tagsRd ∧ value 12 iss.stageRd ∧
      value 13 t.fpc ∧ value 14 t.trap.code ∧ value 15 t.trap.addr ∧ value 16 t.trap.pc ∧ value 17 t.heldRd ∧
      -- the slots of the lane, one for each pass of each spare cohort of the group, that no thread holds
      value 18 (word ((((s.cohorts.filter fun x => x.gid == t.gid && x.spare).map fun x =>
        ((List.range x.passes).filter fun j => decide (∀ y ∈ s.threads, ¬ (y.cid = x.cid ∧ y.lane = t.lane ∧ y.pass = j ∧ y.freed = false))).length).sum : Nat))) ∧
      value 19 t.hashRd

/-- R127, R128, R116, R117, R109, R345, R398: selection, random numbers, and the words that read what the thread and the core hold. -/
def Sys2Proof.Claim.SelectionAndReads : Prop :=
  ∀ (c : BitVec 1) (g : BitVec 4) (d a b : BitVec 6) (k : BitVec 3) (s : State) (iss : Issue), s.cur? = some iss →
    exec (.sel c g d a b k) s = .next (lands s iss g 2 [.g a.toNat, .g b.toNat, .p k.toNat]
      fun t => [.g d.toNat (if t.pred k.toNat = .t then srcG iss t .sign a else srcG iss t .sign b)]) ∧
    exec (.randD c g d a b) s = .next (lands s iss g 2 [.g a.toNat, .g b.toNat]
      fun t => [.g d.toNat (randOf (srcG iss t .sign a) t.num (srcG iss t .sign b))]) ∧
    exec (.randW c g d a b) s = .next (lands s iss g 2 [.g a.toNat, .g b.toNat]
      fun t => [.g d.toNat (word (sx 32 (randOf (srcG iss t .sign a) t.num (word (un 32 (srcG iss t .sign b)))).toNat))]) ∧
    exec (.rdclk c g d) s = .next (lands s iss g 2 [] fun t => [.g d.toNat (word (iss.t0 + t.pass : Nat))]) ∧
    exec (.rdtags c g d) s = .next (lands s iss g 2 [] fun _ => [.g d.toNat iss.tagsRd]) ∧
    exec (.movk c g d a) s = .next (lands s iss g 2 []
      fun t => [.g d.toNat (((s.kernelOf? t.gid).bind fun x => x.lr.args[a.toNat]?).getD 0)]) ∧
    exec (.movp c g d a) s = .next (lands s iss g 2 (.g a.toNat :: (List.range 7).map fun i => Reg.p (i + 1))
      fun t => .g d.toNat (word (((List.range 8).map fun i => K3.code (t.pred i) * 4 ^ i).sum : Nat)) ::
        (if a = 0 then [] else (List.range 7).map fun i => Eff.p (i + 1) (K3.ofCode ((srcG iss t .sign a).toNat / 4 ^ (i + 1) % 4)))) ∧
    exec (.rdtr c g d b) s = .next (lands s iss g 4 [.g b.toNat]
      fun t => [.g d.toNat (match (srcG iss t .zero b).toNat % 4 with
        | 0 => t.trap.code | 1 => t.trap.addr | 2 => t.trap.pc | _ => t.trap.resume)]) ∧
    exec (.rdfpc c g d) s = .next (lands s iss g 4 [] fun t => [.g d.toNat t.fpc]) ∧
    exec (.rdhash c g d) s = .next (lands s iss g 4 [] fun t => [.g d.toNat t.hash])

/-! ### Control flow and the system group -/

/-- R106: the branches decide by the value of their guard with its sense applied; U follows the disposition, and faults UNDECIDED for plain BR. -/
def Obligations.Branches : Prop :=
  ∀ (g : BitVec 4) (i : BitVec 19) (s : State) (iss : Issue), s.cur? = some iss →
    let there := iss.pk + word (12 * sx 19 i.toNat)
    let decided (u : Thread → Thread) : State := onExecuting s iss 0 fun t => match t.guardVal g with
      | .t => { t with next := some there }
      | .f => t
      | .u => u t
    exec (.brUt g i) s = .next (decided fun t => { t with next := some there }) ∧
    exec (.brUf g i) s = .next (decided fun t => { t with next := none }) ∧
    exec (.br g i) s = .next (decided fun t => t.fault iss s.fresh (.mk2 0x05 there)) ∧
    exec (.brUl g i) s = .next (decided fun t => { t with next := some (iss.pk + word (12 * sx 32 (iss.wordAt (iss.pos + 1)).toNat)) })

/-- R104, R107, R108: jumps and calls; a call pushes the fall-through address, and with sixteen entries faults CALL_DEPTH, pushing nothing. -/
def Sys2Proof.Claim.JumpsAndCalls : Prop :=
  ∀ (g : BitVec 4) (i : BitVec 25) (a : BitVec 6) (s : State) (iss : Issue), s.cur? = some iss →
    let there := iss.pk + word (12 * sx 25 i.toNat)
    let call (t : Thread) (x : Word) : Thread :=
      if t.stack.length < 16 then { t with stack := iss.fall.setWidth 52 :: t.stack, next := some x }
      else t.fault iss s.fresh (.mk2 0x17 0)
    exec (.jmp i) s = .next (onExecuting s iss 0 fun t => { t with next := some there }) ∧
    exec (.call i) s = .next (onExecuting s iss 0 fun t => call t there) ∧
    exec (.jmpr g a) s = .next (onExecuting s iss g fun t => { t with next := some (srcG iss t .sign a) }) ∧
    exec (.callr g a) s = .next (onExecuting s iss g fun t => call t (srcG iss t .sign a))

/-- R104, R108, R240, R241: RET takes the newest entry as the next address, faults RET_EMPTY on an empty stack, and gives up the colours acquired in
the frame that ends: each leaves the thread's held set and a release of it follows; the thread remembers where the frame ended. A colour that CWAIT has given
up and that is not granted again yet is not released (the model's choice, log entry 61). Registers stay. -/
def Sys2Proof.Claim.Returns : Prop :=
  ∀ (g : BitVec 4) (s : State) (iss : Issue), s.cur? = some iss → (s.threads.map Thread.tid).Nodup →
    ∃ t : State, exec (.ret g) s = .next t ∧ t.threads.length = s.threads.length ∧
      t = { s with threads := t.threads, rels := t.rels, fresh := t.fresh } ∧
      ∀ (k : Nat) (x : Thread), s.threads[k]? = some x → ∃ y, t.threads[k]? = some y ∧
        (executes iss g x = false → y = x) ∧
        (executes iss g x = true → x.stack = [] → y = x.fault iss s.fresh (.mk2 0x0C 0)) ∧
        ∀ e rest, executes iss g x = true → x.stack = e :: rest →
          let ends (h : Held) : Bool := h.depth == rest.length + 1 && h.st != .waiting
          y = { x with stack := rest, next := some (e.setWidth 64), held := x.held.filter fun h => !ends h, retAt := y.retAt } ∧
          (x.stack.length, s.fresh) ∈ y.retAt ∧
          ∀ h ∈ x.held, ends h = true → ∃ r ∈ t.rels, r.tid = x.tid ∧ r.colour = h.colour ∧ r.depth = h.depth ∧ r.wait = false

/-- R66, R67, R74, R109, R398: NOP does nothing; YIELD and DFLUSH mark the cohort when they execute for at least one thread, and otherwise do nothing. -/
def Sys2Proof.Claim.CohortMarks : Prop :=
  ∀ (c : BitVec 1) (g : BitVec 4) (s : State) (iss : Issue), s.cur? = some iss →
    let some? := ∃ t ∈ s.threads, executes iss g t = true
    exec (.nop c g) s = .next s ∧
    (some? → exec (.yield c g) s = .next (s.modCohort iss.cid fun k => { k with yieldNext := true })) ∧
    (¬ some? → exec (.yield c g) s = .next s) ∧
    (some? → exec (.dflush c g) s = .next (s.modCohort iss.cid fun k => { k with flushEnd := true })) ∧
    (¬ some? → exec (.dflush c g) s = .next s)

/-- R80, R116, R119, R133, R345: WRSR and WRFPC leave their value for the end of the clause; `sr.trappc` is written by trapped threads only; at the end
`sr.fpc` keeps the writable bits. -/
def Sys2Proof.Claim.SpecialRegisterWrites : Prop :=
  ∀ (c : BitVec 1) (g : BitVec 4) (n a : BitVec 6) (s : State) (iss : Issue), s.cur? = some iss →
    (n ≠ 16 → exec (.wrsr c g n a) s =
      .next (onExecuting s iss g fun t => { t with srPend := t.srPend ++ [(n.toNat, srcG iss t .sign a)] })) ∧
    exec (.wrsr c g 16 a) s = .next (onExecuting s iss g fun t =>
      if t.trapped then { t with srPend := t.srPend ++ [(16, srcG iss t .sign a)] } else t.fault iss s.fresh (.mk2 0x01 0)) ∧
    exec (.wrfpc c g a) s = .next (onExecuting s iss g fun t => { t with srPend := t.srPend ++ [(13, srcG iss t .zero a)] }) ∧
    (∀ (t : Thread) (v : Word), t.srPend = [(13, v)] → t.stickyNow = 0 → t.applySr.fpc = v &&& 0x1F1F03 ∧ t.applySr.srPend = []) ∧
    (∀ (t : Thread) (v : Word), t.srPend = [(16, v)] → t.applySr.trap.pc = v ∧ t.applySr.trap.resume = v ∧ t.applySr.fpc = t.fpc)

/-- R341, R345, R346: TRAP and SYSCALL make the SOFTWARE trap due, with their operand as address, SC for SYSCALL and the fall-through address to resume
at; RFT marks the return of a trapped thread, and is ILLEGAL for any other. -/
def Sys2Proof.Claim.TrapWords : Prop :=
  ∀ (c : BitVec 1) (g : BitVec 4) (b : BitVec 6) (s : State) (iss : Issue), s.cur? = some iss →
    let soft (sc : Nat) : State := onExecuting s iss g fun t =>
      { t with stopped := true, due := t.due ++ [{ seq := s.fresh, code := word (0x13 + 0x100 * sc + 2 ^ 16 + t.pass * 2 ^ 24 : Nat),
                                                   addr := srcG iss t .zero b, pc := iss.wordPc, resume := some iss.fall }] }
    exec (.trap c g b) s = .next (soft 0) ∧
    exec (.syscall c g b) s = .next (soft 1) ∧
    exec (.rft c g) s = .next (onExecuting s iss g fun t =>
      if t.trapped then { t with rft := true } else t.fault iss s.fresh (.mk2 0x01 0))

/-- R108, R363, R393, R395, R397: EXIT marks the thread, which leaves at the end of the clause; outside record and replay, of a trapped thread, and of a replaying
one whose store hash is that of its entry, nothing else changes; a replaying thread whose hash differs faults REPLAY_DIVERGED instead; in record mode each thread,
in ascending cohort index, writes its hash to its entry. Where the log cannot be read for an uncorrectable error the thread faults UNCORRECTABLE at the word it
reads instead (log entry 74). -/
def Sys2Proof.Claim.ExitWord : Prop :=
  ∀ (g : BitVec 4) (s : State) (iss : Issue), s.cur? = some iss →
    let leaves : State := onExecuting s iss g fun t => { t with exiting := true }
    -- the entry of a thread: 8 bytes for each thread of each logical cohort of each group, behind the offset that the log header gives
    let entry (k : Kernel) (t : Thread) : Nat :=
      let w := 32 * 2 ^ k.lr.width
      k.lr.logBase + s.homeRead k.asid (k.lr.logBase + 8) 8
        + 8 * ((((s.group? t.gid).map Group.index).getD 0) * (k.lr.tx * k.lr.ty * k.lr.tz + k.lr.spawn * w)
          + w * (((s.cohort? t.cid).map Cohort.idx).getD 0) + t.idx)
    ((∀ t ∈ s.threads, executes iss g t = true → t.trapped = true ∨ ∀ k, s.kernelOf? t.gid = some k →
        k.lr.mode < 2 ∨ (k.lr.mode = 3 ∧ s.hashBad k t.tid = none ∧ t.hash = BitVec.ofNat 64 (s.homeRead k.asid (s.hashEntry k t.tid) 8))) →
      exec (.exit g) s = .next leaves) ∧
    ((∀ t ∈ s.threads, executes iss g t = true → t.trapped = false ∧ ∃ k, s.kernelOf? t.gid = some k ∧ k.lr.mode = 2 ∧ s.hashBad k t.tid = none) →
      exec (.exit g) s = .next ((s.executing iss g).foldl (fun u t => match u.kernelOf? t.gid with
        | some k => (match u.hashBad k t.tid with
          | none => u.homeWrite k.asid (u.hashEntry k t.tid) 8 t.hash.toNat
          | some a => u.meetRead k.asid a)
        | none => u) leaves)) ∧
    ((∀ t ∈ s.threads, executes iss g t = true → t.trapped = false ∧ ∃ k a, s.kernelOf? t.gid = some k ∧ 2 ≤ k.lr.mode ∧ s.hashBad k t.tid = some a) →
      ∃ t : State, exec (.exit g) s = .next t ∧ t.threads = (onExecuting s iss g fun t => t.fault iss s.fresh (.mk2 0x14
        (BitVec.ofNat 64 (((s.kernelOf? t.gid).bind fun k => s.hashBad k t.tid).getD 0)))).threads) ∧
    -- the words that are read: the log header, and the entry in replay mode
    (∀ k tid, s.hashBad k tid = (k.lr.logBase :: (if k.lr.mode = 3 then [s.hashEntry k tid] else [])).find? (s.badLine k.asid)) ∧
    (∀ t k, s.thread? t.tid = some t → s.hashEntry k t.tid = entry k t) ∧
    ((∀ t ∈ s.threads, executes iss g t = true → t.trapped = false ∧ ∃ k, s.kernelOf? t.gid = some k ∧ k.lr.mode = 3 ∧
        s.hashBad k t.tid = none ∧ t.hash ≠ BitVec.ofNat 64 (s.homeRead k.asid (s.hashEntry k t.tid) 8)) →
      ∃ t : State, exec (.exit g) s = .next t ∧ t.threads = (onExecuting s iss g fun t => t.fault iss s.fresh (.mk2 0x15
        (((s.kernelOf? t.gid).map fun k => BitVec.ofNat 64 (s.homeRead k.asid (s.hashEntry k t.tid) 8)).getD 0))).threads)

/-! ### Floating point -/

/-- R130 to R133, R135, R137: addition, subtraction, multiplication and the fused words in .S and .D round once in RM and land with L = 4, with their
exceptions as sticky bits or as the collected trap. -/
def Sys2Proof.Claim.PointArithmetic : Prop :=
  ∀ (c : BitVec 1) (g : BitVec 4) (d a b : BitVec 6) (s : State) (iss : Issue), s.cur? = some iss →
    (∀ r ∈ ptRows,
      exec (r.s c g d a b) s = .next (fpLands s iss g 4 [.f a.toNat, .f b.toNat]
        fun t => fRes d (r.val .s t.rmode (fVal .s t a) (fVal .s t b) (.nan false))) ∧
      exec (r.d c g d a b) s = .next (fpLands s iss g 4 [.f a.toNat, .f b.toNat]
        fun t => fRes d (r.val .d t.rmode (fVal .d t a) (fVal .d t b) (.nan false)))) ∧
    ∀ r ∈ fusedRows,
      exec (r.s c g d a b) s = .next (fpLands s iss g 4 [.f a.toNat, .f b.toNat, .f d.toNat]
        fun t => fRes d (r.val .s t.rmode (fVal .s t a) (fVal .s t b) (fVal .s t d))) ∧
      exec (r.d c g d a b) s = .next (fpLands s iss g 4 [.f a.toNat, .f b.toNat, .f d.toNat]
        fun t => fRes d (r.val .d t.rmode (fVal .d t a) (fVal .d t b) (fVal .d t d)))

/-- R136, R141, R143: minimum, maximum, the sign words and the class. -/
def Sys2Proof.Claim.PointSelections : Prop :=
  ∀ (c : BitVec 1) (g : BitVec 4) (d a b : BitVec 6) (s : State) (iss : Issue), s.cur? = some iss →
    (∀ r ∈ minMaxRows,
      exec (r.1 c g d a b) s = .next (fpLands s iss g 4 [.f a.toNat, .f b.toNat] fun t => fRes d (pickOf .s r.2.2 (fBits .s t a) (fBits .s t b))) ∧
      exec (r.2.1 c g d a b) s = .next (fpLands s iss g 4 [.f a.toNat, .f b.toNat]
        fun t => fRes d (pickOf .d r.2.2 (fBits .d t a) (fBits .d t b)))) ∧
    exec (.fcpysS c g d a b) s = .next (lands s iss g 4 [.f a.toNat, .f b.toNat]
      fun t => [.f d.toNat (word (fBits .s t a % 2 ^ 31 + fBits .s t b / 2 ^ 31 * 2 ^ 31 : Nat))]) ∧
    exec (.fcpysD c g d a b) s = .next (lands s iss g 4 [.f a.toNat, .f b.toNat]
      fun t => [.f d.toNat (word (fBits .d t a % 2 ^ 63 + fBits .d t b / 2 ^ 63 * 2 ^ 63 : Nat))]) ∧
    exec (.fabsS c g d a) s = .next (lands s iss g 4 [.f a.toNat] fun t => [.f d.toNat (word (fBits .s t a % 2 ^ 31 : Nat))]) ∧
    exec (.fabsD c g d a) s = .next (lands s iss g 4 [.f a.toNat] fun t => [.f d.toNat (word (fBits .d t a % 2 ^ 63 : Nat))]) ∧
    exec (.fnegS c g d a) s = .next (lands s iss g 4 [.f a.toNat]
      fun t => [.f d.toNat (word ((fBits .s t a + 2 ^ 31) % 2 ^ 32 : Nat))]) ∧
    exec (.fnegD c g d a) s = .next (lands s iss g 4 [.f a.toNat]
      fun t => [.f d.toNat (word ((fBits .d t a + 2 ^ 63) % 2 ^ 64 : Nat))]) ∧
    exec (.fclassS c g d a) s = .next (lands s iss g 4 [.f a.toNat] fun t => [.g d.toNat (word (2 ^ classOf .s (fBits .s t a) : Nat))]) ∧
    exec (.fclassD c g d a) s = .next (lands s iss g 4 [.f a.toNat] fun t => [.g d.toNat (word (2 ^ classOf .d (fBits .d t a) : Nat))])

/-- R141, R142: the functions of one source, with the latency of R80. -/
def Sys2Proof.Claim.PointFunctions : Prop :=
  ∀ r ∈ fnRows, ∀ (c : BitVec 1) (g : BitVec 4) (d a : BitVec 6) (s : State) (iss : Issue), s.cur? = some iss →
    exec (r.s c g d a) s = .next (fpLands s iss g r.lat [.f a.toNat] fun t => fRes d (r.val .s t.rmode (fBits .s t a))) ∧
    exec (r.d c g d a) s = .next (fpLands s iss g r.lat [.f a.toNat] fun t => fRes d (r.val .d t.rmode (fBits .d t a)))

/-- R134, R135, R141: division and square root are flagged; their results or their trap are fixed at issue and take effect when they finish. -/
def Obligations.FlaggedPointWords : Prop :=
  (∀ (c : BitVec 1) (g : BitVec 4) (d a b : BitVec 6) (s : State),
    (∀ r ∈ flaggedTwo,
      exec (r.s c g d a b) s = .next (s.startOps g true false [.f a.toNat, .f b.toNat] fun iss t =>
        .ok (fpOp s iss g (fun t => fRes d (r.val .s t.rmode (fVal .s t a) (fVal .s t b) (.nan false))) t)) ∧
      exec (r.d c g d a b) s = .next (s.startOps g true false [.f a.toNat, .f b.toNat] fun iss t =>
        .ok (fpOp s iss g (fun t => fRes d (r.val .d t.rmode (fVal .d t a) (fVal .d t b) (.nan false))) t))) ∧
    exec (.fsqrtS c g d a) s = .next (s.startOps g true false [.f a.toNat] fun iss t =>
      .ok (fpOp s iss g (fun t => fRes d (Fmt.sqrt .s t.rmode (fVal .s t a))) t)) ∧
    exec (.fsqrtD c g d a) s = .next (s.startOps g true false [.f a.toNat] fun iss t =>
      .ok (fpOp s iss g (fun t => fRes d (Fmt.sqrt .d t.rmode (fVal .d t a))) t))) ∧
  ∀ (id : Nat) (s : State) (o : Op) (t : Thread) (es : List Eff) (x : Due), s.op? id = some o → s.thread? o.tid = some t →
    (o.kind = .fpDivSqrt es none → exec (.fpDivideSqrtComplete id) s = .next (s.finishOp o 0 es)) ∧
    (o.kind = .fpDivSqrt es (some x) → exec (.fpDivideSqrtComplete id) s = .next (endsInTrap s o t x))

/-- R122, R123, R147, R148: the compares of points; −0 equals +0, a NaN is unordered; a `.gd` compare whose guard is F evaluates nothing. -/
def Obligations.PointCompares : Prop :=
  ∀ r ∈ fcmpRows, ∀ (c : BitVec 1) (g : BitVec 4) (p : BitVec 2) (k : BitVec 3) (a b : BitVec 6) (s : State) (iss : Issue), s.cur? = some iss →
    let res (F : Fmt) (t : Thread) : List Eff × Nat :=
      let x := fVal F t a
      let y := fVal F t b
      if k = 1 ∧ t.guardVal g = .f then (pairRes t g p k .f, 0)
      else (pairRes t g p k (tf (r.rel x y)), if x.isSig ∨ y.isSig ∨ (r.quiet = false ∧ ordered x y = false) then 1 else 0)
    let regs : List Reg := .f a.toNat :: .f b.toNat :: guardReg g :: pairRegs p
    exec (r.s c g p k a b) s = .next (fpLands s iss (cmpG g k) 4 regs (res .s)) ∧
    exec (r.d c g p k a b) s = .next (fpLands s iss (cmpG g k) 4 regs (res .d))

/-- R86, R144 to R146, R154 to R156: conversions, moves, packed words, CBDEC and MXQ. -/
def Obligations.ConversionsAndPackedWords : Prop :=
  ∀ (c : BitVec 1) (g : BitVec 4) (d a b : BitVec 6) (x y : BitVec 3) (s : State) (iss : Issue), s.cur? = some iss →
    let src := Fmt.ofCode y.toNat
    let bits := if x.toNat < 2 then 32 else 64
    let signed := x.toNat % 2 == 0
    let toInt (m : Thread → RMode) (t : Thread) : List Eff × Nat :=
      let r := toInteger signed bits (m t) (fVal src t a)
      ([.g d.toNat (word r.1)], r.2)
    exec (.fcvtFloat c g d a x y) s = .next (fpLands s iss g 4 [.f a.toNat]
      fun t => fRes d (convert (Fmt.ofCode x.toNat) src (decide (4 ≤ x.toNat)) t.rmode (fBits src t a))) ∧
    exec (.fcvtToInt c g d a x y) s = .next (fpLands s iss g 4 [.f a.toNat] (toInt Thread.rmode)) ∧
    exec (.fcvtz c g d a x y) s = .next (fpLands s iss g 4 [.f a.toNat] (toInt fun _ => .rtz)) ∧
    exec (.fcvtFromInt c g d a x y) s = .next (fpLands s iss g 4 [.g a.toNat] fun t =>
      let v := srcG iss t (if signed then .sign else .zero) a
      fRes d (src.round t.rmode (Fp.ofInt (if signed then sx bits v.toNat else ux bits v.toNat) 0 false))) ∧
    exec (.fmovGf c g d a) s = .next (lands s iss g 4 [.g a.toNat] fun t => [.f d.toNat (srcG iss t .sign a)]) ∧
    exec (.fmovFg c g d a) s = .next (lands s iss g 4 [.f a.toNat] fun t => [.g d.toNat (t.fr a.toNat)]) ∧
    (∀ r ∈ packRows, exec (r.i c g d a b) s = .next (fpLands s iss g 4
      ([.f a.toNat, .f b.toNat] ++ if r.third then [.f d.toNat] else []) fun t =>
        let one (k : Nat) : Nat × Nat :=
          let e (i : BitVec 6) : Fp := r.F.decode ((t.fr i.toNat).toNat / 2 ^ (16 * k) % 2 ^ 16)
          r.val r.F t.rmode (e a) (e b) (e d)
        ([.f d.toNat (word ((one 0).1 + (one 1).1 * 2 ^ 16 : Nat))], (one 0).2 ||| (one 1).2))) ∧
    exec (.cbdec c g d a b) s = .next (lands s iss g 4 [.g a.toNat, .g b.toNat] fun t =>
      let idx := (srcG iss t .sign a).toNat % 2 ^ 16
      let entry := (srcG iss t .sign b).toNat % 2 ^ 16
      [.g d.toNat (word (((List.range 8).map fun i => (cbWeight idx entry i % 16).toNat * 16 ^ i).sum : Nat))]) ∧
    exec (.mxq c g d a b) s = .next (fpLands s iss g 4 [.f a.toNat, .g b.toNat] fun t =>
      let k := (srcG iss t .sign b).toNat
      let r := mxqOf t.rmode (fVal .s t a) (k % 256) (k / 256 % 32)
      ([.g d.toNat (word r.1)], r.2))

/-- R29, R33: the directed modes give the nearest value of the format on their side: RDN the greatest at or below the exact value, RUP the least at or
above, RTZ the one of these toward zero. -/
def Sys2Proof.Claim.DirectedRounding : Prop :=
  ∀ F ∈ arithFmts, ∀ (n : Bool) (m : Nat) (e : Int), m ≠ 0 →
    let q := Fp.num (.fin n m e)
    let dn := F.decode (F.round .rdn (.fin n m e)).1
    let up := F.decode (F.round .rup (.fin n m e)).1
    below dn q ∧ above up q ∧
    (∀ y, heldBy F y → y.isNan = false → below y q → Fp.le y dn = true) ∧
    (∀ y, heldBy F y → y.isNan = false → above y q → Fp.le up y = true) ∧
    (F.round .rtz (.fin n m e)).1 = (F.round (if n then .rup else .rdn) (.fin n m e)).1

/-- R29: round to nearest gives a value of the format that no other finite value of the format lies nearer to; of two that lie equally near it gives the one
whose last bit is 0. From half a place above the largest finite value on it gives an infinity. -/
def Sys2Proof.Claim.NearestRounding : Prop :=
  ∀ F ∈ arithFmts, ∀ (n : Bool) (m : Nat) (e : Int), m ≠ 0 →
    let q := Fp.num (.fin n m e)
    let bits := (F.round .rne (.fin n m e)).1
    let r := F.decode bits
    (|q| < topOf F + topUlp F / 2 → ∃ n' m' e', r = .fin n' m' e' ∧
      (∀ k j i, heldBy F (.fin k j i) → |Fp.num r - q| ≤ |Fp.num (.fin k j i) - q|) ∧
      ∀ k j i, heldBy F (.fin k j i) → Fp.num (.fin k j i) ≠ Fp.num r → |Fp.num (.fin k j i) - q| = |Fp.num r - q| → bits % 2 = 0) ∧
    (topOf F + topUlp F / 2 ≤ |q| → r = .inf n)

/-- R29, R132: the conditions that rounding raises, as the sticky bits of `sr.fpc` number them: overflow and inexact where the magnitude rounded with unbounded
exponents exceeds the largest finite value; otherwise inexact where the result differs from the exact value, with underflow where the magnitude so rounded
lies below the smallest normal one. -/
def Sys2Proof.Claim.RoundingExceptions : Prop :=
  ∀ F ∈ arithFmts, ∀ (mode : RMode) (n : Bool) (m : Nat) (e : Int), m ≠ 0 →
    let q := Fp.num (.fin n m e)
    let r := F.round mode (.fin n m e)
    let x := sideOf mode n
    (overflows F x |q| → r.2 = 4 + 16) ∧
    (¬ overflows F x |q| → Fp.num (F.decode r.1) = q → r.2 = 0) ∧
    (¬ overflows F x |q| → Fp.num (F.decode r.1) ≠ q → isTiny F x |q| → r.2 = 8 + 16) ∧
    (¬ overflows F x |q| → Fp.num (F.decode r.1) ≠ q → ¬ isTiny F x |q| → r.2 = 16)

/-- R25, R26: rounding a finite value that the format holds gives back its bits and raises nothing, subnormals among them; the sign of zero stays. -/
def Sys2Proof.Claim.HeldValuesRoundToThemselves : Prop :=
  ∀ F ∈ [Fmt.s, .d, .h, .bf, .e5, .e4], ∀ (mode : RMode) (b : Nat), b < 2 ^ (F.ebits + F.fbits + 1) →
    ∀ n m e, F.decode b = .fin n m e → F.round mode (.fin n m e) = (b, 0)

/-- R135: the sum and the product of finite operands are their exact values rounded once. A sum that is exactly zero raises nothing and is +0, and −0 in RDN, but
the sum of two zeros of one sign has that sign; a product's sign is that of IEEE 754. -/
def Sys2Proof.Claim.SumsAndProductsRoundOnce : Prop :=
  ∀ F ∈ arithFmts, ∀ (mode : RMode) (n1 n2 : Bool) (m1 m2 : Nat) (e1 e2 : Int),
    let a := Fp.fin n1 m1 e1
    let b := Fp.fin n2 m2 e2
    (Fp.num a + Fp.num b ≠ 0 → ∃ n m e, m ≠ 0 ∧ Fp.num (.fin n m e) = Fp.num a + Fp.num b ∧ F.add mode a b = F.round mode (.fin n m e)) ∧
    (Fp.num a + Fp.num b = 0 → (F.decode (F.add mode a b).1).isZero = true ∧ (F.add mode a b).2 = 0 ∧
      (F.decode (F.add mode a b).1).neg? = if m1 = 0 ∧ m2 = 0 ∧ n1 = n2 then n1 else decide (mode = .rdn)) ∧
    ∃ m e, Fp.num (.fin (n1 != n2) m e) = Fp.num a * Fp.num b ∧ F.mul mode a b = F.round mode (.fin (n1 != n2) m e)

/-! ### Intervals -/

/-- R138 to R140, R146, R150: the interval words that are not flagged: their check, then their result. -/
def Obligations.IntervalWords : Prop :=
  ∀ (c : BitVec 1) (g : BitVec 4) (d a b : BitVec 6) (s : State) (iss : Issue), s.cur? = some iss →
    (∀ r ∈ ivRows, ∀ j : Bool, exec ((if j then r.2.1 else r.1) c g d a b) s =
      .next (landsOr s iss g r.2.2.2.1 (ivRegs j a ++ ivRegs j b) fun t =>
        checked r.2.2.2.2 [iv j t a, iv j t b] (ivRes j d ((bf j).ivArith r.2.2.1 (iv j t a) (iv j t b))))) ∧
    (∀ r ∈ ivFusedRows, ∀ j : Bool, exec ((if j then r.2.1 else r.1) c g d a b) s =
      .next (landsOr s iss g 4 (ivRegs j a ++ ivRegs j b ++ ivRegs j d) fun t =>
        checked false [iv j t a, iv j t b, iv j t d] (ivRes j d ((bf j).ivFused r.2.2 (iv j t a) (iv j t b) (iv j t d))))) ∧
    (∀ r ∈ ivPartRows, ∀ j : Bool, exec ((if j then r.2.1 else r.1) c g d a) s =
      .next (landsOr s iss g 4 (ivRegs j a) fun t => checked false [iv j t a] [.f d.toNat (word (r.2.2 (bf j) (bBits j t a) : Nat))])) ∧
    (∀ j : Bool, exec (if j then .imakeD c g d a b else .imakeS c g d a b) s = .next (landsOr s iss g 4 [.f a.toNat, .f b.toNat] fun t =>
      let v : Iv := ⟨fVal (bf j) t a, fVal (bf j) t b⟩
      if v.valid = false ∧ v.empty? = false then .error (.mk2 0x07 0)
      else .ok (ivRes j d (bound0 (bf j) (fBits (bf j) t a), bound0 (bf j) (fBits (bf j) t b))))) ∧
    (∀ j : Bool, exec (if j then .iinflJ c g d a b else .iinflI c g d a b) s = .next (landsOr s iss g 4 (.f b.toNat :: ivRegs j a) fun t =>
      let e := fVal (bf j) t b
      if e.isNan then .error (.mk2 0x07 0)
      else checked false [iv j t a] (ivRes j d ((bf j).rdnB (addB (iv j t a).lo e.abs.negate), (bf j).rupB (addB (iv j t a).hi e.abs))))) ∧
    exec (.iptS c g d a) s = .next (landsOr s iss g 4 [.f a.toNat] fun t => match fVal .d t a with
      | .fin n m e => .ok (ivRes false d (Fmt.s.rdnB (.fin n m e), Fmt.s.rupB (.fin n m e)))
      | _ => .error (.mk2 0x07 0)) ∧
    exec (.iptD c g d a) s = .next (landsOr s iss g 4 [.f a.toNat] fun t => match fVal .d t a with
      | .fin .. => .ok (ivRes true d (bound0 .d (t.fr a.toNat).toNat, bound0 .d (t.fr a.toNat).toNat))
      | _ => .error (.mk2 0x07 0))

/-- R122, R123, R138, R149: the compares of intervals. -/
def Obligations.IntervalCompares : Prop :=
  ∀ r ∈ ivCmpRows, ∀ (j : Bool) (c : BitVec 1) (g : BitVec 4) (p : BitVec 2) (k : BitVec 3) (a b : BitVec 6) (s : State) (iss : Issue),
    s.cur? = some iss →
    let cond := r.2.2.1
    let both := r.2.2.2.1
    exec ((if j then r.2.1 else r.1) c g p k a b) s =
      .next (landsOr s iss (cmpG g k) 4 (ivRegs j a ++ (if both then ivRegs j b else []) ++ guardReg g :: pairRegs p) fun t =>
        if k = 1 ∧ t.guardVal g = .f then .ok (pairRes t g p k .f)
        else checked r.2.2.2.2 (iv j t a :: if both then [iv j t b] else []) (pairRes t g p k (ivRel cond (iv j t a) (iv j t b))))

/-- R134, R138, R139, R152, R153: interval division and BISECT are flagged: what is under way, the trap it will call, and how BISECT ends: where the
interval cannot be split or no spare slot is free, the interval and U; otherwise the lower half and T for the parent and the upper half and F for a
child. -/
def Obligations.FlaggedIntervalWords : Prop :=
  (∀ (j : Bool) (c : BitVec 1) (g : BitVec 4) (d a b : BitVec 6) (k : BitVec 3) (s : State),
    let late (iss : Issue) (t : Thread) (code : Nat) : Due :=
      { seq := s.fresh, code := word (code + 2 ^ 16 + t.pass * 2 ^ 24 : Nat), addr := 0, pc := iss.wordPc, resume := none }
    exec (if j then .fdivJ c g d a b else .fdivI c g d a b) s = .next (s.startOps g true false (ivRegs j a ++ ivRegs j b) fun iss t =>
      .ok (.plain 0 (match ivCode false [iv j t a, iv j t b] with
        | some code => .fpDivSqrt [] (some (late iss t code))
        | none => .fpDivSqrt (ivRes j d ((bf j).divIv (iv j t a) (iv j t b))) none))) ∧
    exec (if j then .bisectJ c g d a k else .bisectI c g d a k) s = .next (s.startOps g true false (ivRegs j a) fun iss t =>
      .ok (.plain 0 (.bisect d.toNat k.toNat j (bBits j t a).1 (bBits j t a).2 ((ivCode false [iv j t a]).map (late iss t)) none)))) ∧
  ∀ (id : Nat) (s : State) (o : Op) (d : BitVec 6) (k : Nat) (j : Bool) (lo hi : Nat) (f : Option Due) (pc : Word) (t : Thread),
    s.op? id = some o → o.kind = .bisect d.toNat k j lo hi f (some pc) → s.thread? o.tid = some t → s.bisectWaits o = false →
    let v := ivOf (bf j) (lo, hi)
    let m := (bf j).mid v
    let splits := Fp.lt v.lo ((bf j).decode m) && Fp.lt ((bf j).decode m) v.hi
    (∀ x, f = some x → exec (.bisectComplete id) s = .next (endsInTrap s o t x)) ∧
    (f = none → splits = false ∨ s.spareSlot? t = none →
      exec (.bisectComplete id) s = .next (s.finishOp o 0 (ivRes j d (lo, hi) ++ [.p k .u]))) ∧
    ∀ (h : Cohort) (pass : Nat), f = none → splits = true → s.spareSlot? t = some (h, pass) →
      exec (.bisectComplete id) s =
        .next ((s.spawn t h pass pc (ivRes j d (m, hi) ++ [.p k .f])).finishOp o 0 (ivRes j d (lo, m) ++ [.p k .t]))

/-- R33, R139: the sum and the difference of two valid intervals contain the sum and the difference of any numbers in them. -/
def Sys2Proof.Claim.IntervalSumsContain : Prop :=
  ∀ F ∈ [Fmt.s, .d], ∀ (a b : Nat × Nat) (x y : ℚ), (ivOf F a).valid = true → (ivOf F b).valid = true →
    within (ivOf F a) x → within (ivOf F b) y →
    within (ivOf F (F.ivArith 0 (ivOf F a) (ivOf F b))) (x + y) ∧ within (ivOf F (F.ivArith 1 (ivOf F a) (ivOf F b))) (x - y)

/-- R33, R139, R140: products, fused sums, quotients by an interval without 0, hulls and intersections contain what they should. -/
def Sys2Proof.Claim.IntervalProductsContain : Prop :=
  ∀ F ∈ [Fmt.s, .d], ∀ (a b d : Nat × Nat) (x y z : ℚ),
    (ivOf F a).valid = true → (ivOf F b).valid = true → (ivOf F d).valid = true →
    within (ivOf F a) x → within (ivOf F b) y → within (ivOf F d) z →
    within (ivOf F (F.ivArith 2 (ivOf F a) (ivOf F b))) (x * y) ∧
    within (ivOf F (F.ivFused 0 (ivOf F a) (ivOf F b) (ivOf F d))) (x * y + z) ∧
    within (ivOf F (F.ivFused 1 (ivOf F a) (ivOf F b) (ivOf F d))) (x * y - z) ∧
    within (ivOf F (F.ivFused 2 (ivOf F a) (ivOf F b) (ivOf F d))) (-(x * y + z)) ∧
    within (ivOf F (F.ivFused 3 (ivOf F a) (ivOf F b) (ivOf F d))) (-(x * y - z)) ∧
    (y ≠ 0 → within (ivOf F (F.divIv (ivOf F a) (ivOf F b))) (x / y)) ∧
    within (ivOf F (F.ivArith 4 (ivOf F a) (ivOf F b))) x ∧
    (within (ivOf F b) x → within (ivOf F (F.ivArith 5 (ivOf F a) (ivOf F b))) x)

/-! ### Operations under way -/

/-- R77, R79, R196: starting an operation: one new operation for each executing thread that does not fault at issue, in ascending cohort index,
behind those under way; a flagged word raises its flag by one when there is any; registers, memory and everything else stay. -/
def Sys2Proof.Claim.OperationsStart : Prop :=
  ∀ (s : State) (iss : Issue) (g : BitVec 4) (flagged hashed : Bool) (srcs : List Reg) (mk : Issue → Thread → Except Flt OpReq),
    s.cur? = some iss →
    let t := s.startOps g flagged hashed srcs mk
    let want := (s.executing iss g).filterMap fun x => match mk iss x with
      | .ok r => some (x.tid, r.addr, r.kind)
      | .error _ => none
    t.ops.take s.ops.length = s.ops ∧
    (t.ops.drop s.ops.length).map (fun o => (o.tid, o.addr, o.kind)) = want ∧
    (∀ o ∈ t.ops.drop s.ops.length, o.st = .queued ∧ o.pc = iss.wordPc ∧ o.hdr = iss.hdr ∧ (o.use.isSome = flagged)) ∧
    t = { s with threads := t.threads, ops := t.ops, fresh := t.fresh, issues := t.issues, uses := t.uses, cohorts := t.cohorts } ∧
    (flagged = false → t.cohorts = s.cohorts ∧ t.uses = s.uses) ∧
    (flagged = true → want ≠ [] → t.cohorts = s.cohorts.map fun c => if c.cid = iss.cid then
      { c with flags := c.flags.setIfInBounds iss.flag (c.flags[iss.flag]?.getD 0 + 1) } else c) ∧
    (flagged = true → want = [] → t.cohorts = s.cohorts ∧ t.uses = s.uses) ∧
    t.threads.length = s.threads.length ∧
    ∀ (k : Nat) (x : Thread), s.threads[k]? = some x → ∃ y, t.threads[k]? = some y ∧ y.tid = x.tid ∧ y.g = x.g ∧ y.f = x.f ∧ y.p = x.p ∧
      y.fpc = x.fpc ∧ y.pc = x.pc ∧ y.lands = x.lands ∧ y.held = x.held ∧ y.trap = x.trap ∧ (executes iss g x = false → y = x) ∧
      ∀ e, executes iss g x = true → mk iss x = .error e → y = { x.fault iss s.fresh e with hseq := if hashed then x.hseq + 1 else x.hseq }

/-- R77, R79, R133: finishing a flagged operation: its results reach the thread's registers, its flag falls by one when it was the last of its use,
the operation is gone; the registers it does not name, memory and the other threads stay. -/
def Sys2Proof.Claim.OperationsFinish : Prop :=
  ∀ (s : State) (o : Op) (dep d : Nat) (v : Word) (x : Thread), (s.threads.map Thread.tid).Nodup → s.thread? o.tid = some x → 0 < d → d < 63 →
    x.overwritten o.seq (.g d v) = false →
    let t := s.finishOp o dep [.g d v]
    (∃ y, t.thread? o.tid = some y ∧ y.gr d = v ∧ (∀ k, k < 63 → k ≠ d → y.gr k = x.gr k) ∧ y.f = x.f ∧ y.p = x.p ∧ y.fpc = x.fpc ∧
      y.pc = x.pc ∧ y.trap = x.trap ∧ y.held = x.held ∧ y.lands = x.lands) ∧
    (∀ i, i ≠ o.tid → (∀ w, s.thread? i = some w → .fault o.id ∉ w.parks) → t.thread? i = s.thread? i) ∧
    t.op? o.id = none ∧ t.mem = s.mem ∧ t.pool = s.pool ∧ t.dev = s.dev ∧
    (∀ u c w, o.use = some u → s.uses.find? (·.id == u) = some w → w.left.filter (· != o.tid) = [] → s.cohort? w.cid = some c →
      ∃ c', t.cohort? w.cid = some c' ∧ c'.flags = c.flags.setIfInBounds w.flag (c.flags[w.flag]?.getD 0 - 1)) ∧
    (o.use = none → t.cohorts = s.cohorts)

/-! ### Loads and stores -/

/-- R157 to R160, R163 to R168: the loads: their checks at issue, and the access they put under way, flagged. That a bad policy word comes before the checks of
the address is log entry 33. -/
def Sys2Proof.Claim.LoadWords : Prop :=
  ∀ (c : BitVec 1) (g : BitVec 4) (d b p : BitVec 6) (s : State),
    (∀ r ∈ ldgRows, exec (r.1 c g d b p) s = .next (s.startOps g true false [.g b.toNat, .g p.toNat] fun iss t =>
      (globalAt r.2.1 b p iss t).map fun a => .plain a (.load (r.2.2 d.toNat) r.2.1 (policy iss t p)))) ∧
    ∀ r ∈ ldsRows, exec (r.1 c g d b p) s = .next (s.startOps g true false [.g b.toNat, .g p.toNat] fun iss t =>
      (scratchAt s r.2.1 b p iss t).map fun a => .plain a (.loadS (r.2.2 d.toNat) r.2.1))

/-- R160, R164, R165, R167, R392: the stores, with the data they take at issue and their contribution to the store hash; a global store is performed as
soon as nothing keeps it. That a bad policy word comes before the checks of the address is log entry 33. -/
def Obligations.StoreWords : Prop :=
  ∀ r ∈ storeRows, ∀ (c : BitVec 1) (g : BitVec 4) (d b p : BitVec 6) (s : State),
    let n := r.2.2.1
    let v := dataOf n r.2.2.2 d
    let regs : List Reg := .g b.toNat :: .g p.toNat :: dataRegs n r.2.2.2 d
    exec (r.1 c g d b p) s = .next (s.startOps g false true regs fun iss t =>
      (globalAt n b p iss t).map fun a =>
        { addr := a, kind := .store (v iss t) n (policy iss t p) false, stored := some (n, v iss t) }).pump ∧
    exec (r.2.1 c g d b p) s = .next (s.startOps g false true regs fun iss t =>
      (scratchAt s n b p iss t).map fun a => { addr := a, kind := .storeS (v iss t) n, stored := some (n, v iss t) })

/-- R164, R166: what a load's bytes give: sign or zero extension, the pair, a float in the low bits, an interval. -/
def Sys2Proof.Claim.LoadedValues : Prop :=
  ∀ (d : Nat) (v : Nat),
    (∀ n, n = 1 ∨ n = 2 ∨ n = 4 ∨ n = 8 → loadEffs (.gS d n) v = [.g d (word (sx (8 * n) v))] ∧ loadEffs (.gU d n) v = [.g d (word (ux (8 * n) v))]) ∧
    loadEffs (.gQ d) v = [.g d (word (ux 64 v)), .g (d + 1) (word (v / 2 ^ 64 : Nat))] ∧
    loadEffs (.fS d) v = [.f d (word (ux 32 v))] ∧ loadEffs (.fD d) v = [.f d (word (ux 64 v))] ∧ loadEffs (.fI d) v = [.f d (word (ux 64 v))] ∧
    loadEffs (.fJ d) v = [.f d (word (ux 64 v)), .f (d + 1) (word (v / 2 ^ 64 : Nat))] ∧
    (loadIvBad (.fI d) v = true ↔
      (ivOf .s (v % 2 ^ 32, v / 2 ^ 32 % 2 ^ 32)).valid = false ∧ (ivOf .s (v % 2 ^ 32, v / 2 ^ 32 % 2 ^ 32)).empty? = false) ∧
    (loadIvBad (.fJ d) v = true ↔
      (ivOf .d (v % 2 ^ 64, v / 2 ^ 64 % 2 ^ 64)).valid = false ∧ (ivOf .d (v % 2 ^ 64, v / 2 ^ 64 % 2 ^ 64)).empty? = false)

/-- R77, R157, R160, R164, R354, R358, R363, R377: LOAD_REPLY performs an access that nothing keeps back and delivers its value; a page without the
permission faults PROTECTION at the flag, an absent page is a page fault, a translation whose way is not open yet waits, and an uncorrectable error faults
UNCORRECTABLE and marks its line, also where it is in the line of a page table. Of an access that breaks several checks the first in this order is reported
(log entry 34). A load that has read a peer returns with the acknowledgement of its request, and faults UNCORRECTABLE when no plane is up that could bring it
(log entry 7). -/
def Sys2Proof.Claim.LoadReplies : Prop :=
  ∀ (id : Nat) (s s1 : State) (o : Op) (x : Thread) (dst : LoadDst) (n v : Nat) (pol : Option Word) (h : Home) (grp : Group),
    s.op? id = some o → s.hole? o = none →
    (o.kind = .load dst n pol → o.st = .performed v →
      ((∀ r ∈ s.mem.unacked, r.id ≠ o.id) → exec (.loadReply id false) s = .next (s.finishOp o 0 (loadEffs dst v)).pump) ∧
      ((∃ r ∈ s.mem.unacked, r.id = o.id) →
        let u : State := { s with mem := { s.mem with unacked := s.mem.unacked.filter fun x => x.id != o.id } }
        (s.planes ≠ [] → exec (.loadReply id false) s = .next (u.finishOp o 0 (loadEffs dst v)).pump) ∧
        (s.planes = [] → exec (.loadReply id false) s = .next (u.faultOp o 0x14 o.addr).pump))) ∧
    (o.kind = .load dst n pol → s.gate o = true → s.homeFor o false = (s1, .ok h) → permOk o.kind h.entry = false →
      exec (.loadReply id false) s = .next (((s1.faultOp o 0x03 o.addr).deliver id).pump)) ∧
    (o.kind = .load dst n pol → s.gate o = true → s.homeFor o false = (s1, .ok h) → permOk o.kind h.entry = true →
      s1.stackTrained h.node h.addr = true → s1.frameExists h.node h.addr = true → s1.thread? o.tid = some x →
      mColour (s1.metaSeen o.core o.asid (o.addr.toNat / 64) h) = 0 →
      let s2 := s1.modOp id fun y => { y with met := true }
      (s2.uncorrectable o h = false → exec (.loadReply id false) s = .next (((s2.atHome o h).deliver id).pump)) ∧
      (s2.uncorrectable o h = true →
        exec (.loadReply id false) s = .next ((((s2.meetError h).faultOp o 0x14 o.addr).deliver id).pump))) ∧
    (∀ l mf, o.kind = .load dst n pol → s.gate o = true → s.homeFor o false = (s1, .error (.absent l mf)) →
      exec (.loadReply id false) s = .next (((s1.pageFault o o.addr.toNat l mf).deliver id).pump)) ∧
    (o.kind = .load dst n pol → s.gate o = true → s.homeFor o false = (s1, .error .wait) → exec (.loadReply id false) s = .next s1.pump) ∧
    (∀ node addr, o.kind = .load dst n pol → s.gate o = true → s.homeFor o false = (s1, .error (.bad node addr)) →
      exec (.loadReply id false) s = .next ((((s1.meetLine node addr).faultOp o 0x14 o.addr).deliver id).pump)) ∧
    (o.kind = .loadS dst n → s.gate o = true → s.scratchHeld o = false → s.scratchTarget o = some grp →
      s.regionBad grp.core grp.scratch (o.addr.toNat % 2 ^ 21) n = false →
      v = s.regionRead grp.core grp.scratch (o.addr.toNat % 2 ^ 21) n → loadIvBad dst v = false →
      exec (.loadReply id false) s = .next (((s.modOp id fun o => { o with st := .performed v }).deliver id).pump))

/-- R161, R162, R167, R182: a store performed at a home is a store into the line, but for the bytes that a mate with a higher index has stored. On a
cached page, where the L1 holds the line or has room for it, it writes the core's L1 and no memory: a load by the same core then finds the bytes stored,
every other byte of the line as a load found it before, and every other line as before. -/
def Sys2Proof.Claim.StoreThenLoad : Prop :=
  (∀ (s : State) (o : Op) (h : Home) (v n : Nat) (pol : Option Word), o.kind = .store v n pol false →
    s.atHome o h = ((s.storeLine o.core o.asid o.addr.toNat n v h pol 0 o.lost).shadow o).dropOp o.id) ∧
  ∀ (s : State) (core asid va n v : Nat) (h : Home) (k : Nat), va % 64 + n ≤ 64 → h.node ≠ 4 → peHB h.entry = false →
    ((s.l1? core asid (va / 64)).isSome = true ∨
      ∃ gr, s.lineGranule? core (va / 64) = some gr ∧ ((s.coreAt core).l1.filter fun l => l.granule == gr).length < 256) →
    let s1 := s.storeLine core asid va n v h none k 0
    s1 = { s with cores := s1.cores, fresh := s1.fresh } ∧
    lineSlice (s1.loadLine core asid va n h 0 0 none).2.data (va % 64) n = v % 2 ^ (8 * n) ∧
    (∀ j, j < 64 → j < va % 64 ∨ va % 64 + n ≤ j →
      lineSlice (s1.loadLine core asid (va / 64 * 64 + j) 1 h 0 0 none).2.data j 1 =
        lineSlice (s.loadLine core asid (va / 64 * 64 + j) 1 h 0 0 none).2.data j 1) ∧
    ∀ (x m : Nat) (y : Home), x / 64 ≠ va / 64 →
      (s1.loadLine core asid x m y 0 0 none).2.data = (s.loadLine core asid x m y 0 0 none).2.data

/-- R158, R161, R162, R167, R276, R316, R328: a scratch store reaches its bank: the bytes of its region, but for those that a mate with a higher index
has stored, and nothing else; the threads of a pass of STPL that name one address make one store, which waits until nothing keeps any of them, and in which
each thread stores the planes of its own word (log entry 63); a live barrier word is not overwritten (BARRIER_CLOBBER is found instead). -/
def Sys2Proof.Claim.ScratchStores : Prop :=
  ∀ (id : Nat) (s : State) (o : Op) (grp : Group) (v n planes : Nat) (src : Word), s.op? id = some o →
    let off := o.addr.toNat % 2 ^ 21
    (o.kind = .storeS v n → s.gate o = true → s.scratchHeld o = false → s.scratchTarget o = some grp →
      (s.liveOver grp.core grp.scratch off n = false →
        exec (.scratchStorePerform id) s = .next (((s.regionStore grp.core grp.scratch off v o.lost n).shadow o).dropOp o.id).pump) ∧
      (s.liveOver grp.core grp.scratch off n = true →
        exec (.scratchStorePerform id) s = .next (s.modOp o.id fun y =>
          { y with st := .faulted { seq := y.seq, code := 0x0D, addr := o.addr, pc := y.pc, resume := none } }).pump)) ∧
    (o.kind = .stpl planes src → s.gate o = true → s.scratchHeld o = false → s.scratchTarget o = some grp →
      (∀ j, j < planes → s.liveOver grp.core grp.scratch (off + 128 * j) 4 = false) →
      ((∀ m ∈ s.stplMates o, s.gate m = true) →
        exec (.scratchStorePerform id) s = .next ((s.stplMates o).foldl (fun s m => (s.stplOne grp m).dropOp m.id) s).pump) ∧
      ((∃ m ∈ s.stplMates o, s.gate m = false) → exec (.scratchStorePerform id) s = .next s.pump)) ∧
    (o.kind = .stpl planes src → s.stplOne grp o = { s with
      pool := stplGo grp.core (((s.thread? o.tid).map (·.lane)).getD 0) grp.scratch off src planes s.pool }) ∧
    (∀ w : Word, o.kind = .mwr w → s.gate o = true → (∀ y ∈ s.saved, y.gid ≠ o.gid) → s.group? o.gid = some grp → grp.st ≠ .retired →
      s.liveOver grp.core grp.accum o.addr.toNat 8 = false →
      exec (.scratchStorePerform id) s =
        .next (((s.regionStore grp.core grp.accum o.addr.toNat w.toNat o.lost 8).shadow o).dropOp o.id).pump)

/-- R161, R306, R316: a write to a region changes the bytes it stores and no other byte of the pool, and they read back little-endian; a store leaves out
the bytes that are lost to a mate. -/
def Sys2Proof.Claim.RegionBytes : Prop :=
  ∀ (s : State) (core off v n : Nat) (gs : List Nat), gs.Nodup → (∀ x ∈ gs, x < 128) → off + n ≤ gs.length * 2 ^ 14 →
    let t := s.regionWrite core gs off v n
    t.regionRead core gs off n = v % 2 ^ (8 * n) ∧
    (∀ a, (∀ i, i < n → regionByte core gs (off + i) ≠ some a) → cellsRead t.pool.bytes a = cellsRead s.pool.bytes a) ∧
    t = { s with pool := t.pool } ∧ t.pool.live = s.pool.live ∧ t.pool.lastAsid = s.pool.lastAsid ∧ s.regionStore core gs off v 0 n = t ∧
    ∀ (lost i b : Nat), i < n → regionByte core gs (off + i) = some b →
      cellsRead (s.regionStore core gs off v lost n).pool.bytes b = cellsRead (if lost.testBit i then s else t).pool.bytes b

/-- R93, R134, R160, R354, R358, R392: a store's fault is found later: its hash contribution is taken back and the trap is due, or taken where the thread was
parked on the store; TRANSLATION performs a store, and finds the home of the other accesses, by the page table where its translation is made anew, or raises
their page fault, or, where the line of a table has an uncorrectable error, ends them UNCORRECTABLE and marks that line (R363). -/
def Sys2Proof.Claim.StoreFaultsAndTranslations : Prop :=
  ∀ (id : Nat) (s s1 : State) (o : Op) (x : Thread) (v n : Nat) (pol : Option Word) (dst : LoadDst) (d : Due) (h : Home),
    s.op? id = some o → s.thread? o.tid = some x →
    let found (back : Word) : State :=
      woken x.st o.tid (((s.modThread o.tid fun t => { t with hash := t.hash - back }).lateFault o.tid
        { d with code := word (d.code.toNat + 2 ^ 16 + x.pass * 2 ^ 24 : Nat) }).dropOp o.id)
    (o.kind = .store v n pol false → o.st = .faulted d → exec (.storeFaultFound id) s = .next (found (mixStore o.hseq o.addr n v))) ∧
    (o.kind = .store v n pol true → o.st = .faulted d →
      exec (.storeFaultFound id) s = .next (found (mixStore o.hseq o.addr n (v % 2 ^ 32)))) ∧
    (o.kind = .storeS v n → o.st = .faulted d → exec (.storeFaultFound id) s = .next (found (mixStore o.hseq o.addr n v))) ∧
    (o.kind = .store v n pol false → s.gate o = true → s.hole? o = none →
      exec (.translation id false) s = .next (s.performGlobal o false false).pump) ∧
    (o.kind = .load dst n pol → s.gate o = true → s.hole? o = none → s.homeFor o false = (s1, .ok h) →
      exec (.translation id false) s = .next s1) ∧
    (o.kind = .load dst n pol → s.gate o = true → s.hole? o = none → s.homeFor o true = (s1, .ok h) →
      exec (.translation id true) s = .next (s1.modOp o.id fun o => { o with rewalk := true })) ∧
    (∀ l mf, o.kind = .load dst n pol → s.gate o = true → s.homeFor o false = (s1, .error (.absent l mf)) →
      exec (.translation id false) s = .next (s1.pageFault o o.addr.toNat l mf)) ∧
    ∀ node addr, o.kind = .load dst n pol → s.gate o = true → s.homeFor o false = (s1, .error (.bad node addr)) →
      exec (.translation id false) s = .next ((s1.meetLine node addr).faultOp o 0x14 o.addr)

/-! ### Fences, cache words, atomics -/

/-- R174 to R180: the fence, prefetch and cache words: their checks, what they put under way; those that need no flag are performed as soon as
nothing keeps them. That a bad policy word of PFL comes before the check of its address is log entry 33. -/
def Sys2Proof.Claim.FenceAndCacheWords : Prop :=
  ∀ (c : BitVec 1) (g : BitVec 4) (d b l : BitVec 6) (k : BitVec 3) (s : State),
    let range (mk : Nat → OpKind) (iss : Issue) (t : Thread) : Except Flt OpReq :=
      let a := srcG iss t .zero b
      if a.toNat ≥ 2 ^ 52 then .error (.mk2 0x03 a) else .ok (.plain a (mk ((srcG iss t .zero l).toNat % 2 ^ 32)))
    exec (.fence c g d b k) s = .next (s.startOps g false false [] fun _ _ => .ok (.plain 0 (.fence d.toNat b.toNat k.toNat))).pump ∧
    exec (.pfl c g b l) s = .next (s.startOps g false false [.g b.toNat, .g l.toNat] fun iss t =>
      (globalAt 1 b l iss t).map fun a => .plain a (.pfl (policy iss t l))).pump ∧
    exec (.wbl1 c g b l) s = .next (s.startOps g false false [.g b.toNat, .g l.toNat] (range .wbl1)).pump ∧
    exec (.invl1 c g b l) s = .next (s.startOps g false false [.g b.toNat, .g l.toNat] (range .invl1)).pump ∧
    exec (.acqr c g d b l) s = .next (s.startOps g true false [.g b.toNat, .g l.toNat, .g d.toNat] fun iss t =>
      let v := (srcG iss t .sign d).toNat
      if v ≥ 128 then .error (.mk2 0x03 (srcG iss t .zero b)) else range (.acqr (iss.core / 128 * 128 + v)) iss t)

/-- R167, R175, R176, R179, R180, R182, R183, R188, R377, R382: a fence whose predecessors are done takes effect and goes: below quad scope no cache changes,
and from quad scope on an acquire leaves no line of the context in the core's L1; from package scope on it waits while a write-through of its die and context,
or one that the write-back of its core's L1 would make, has its way to its home closed (log entries 7 and 48). ACQR writes back and drops the range in both L1s;
the sweep sends back a dirty line. Write-backs and write-throughs arrive, those of a line in order: a write-back at the home where its die keeps no copies, and
otherwise in the die's copy, with a write-through to the home; one to a peer is a request under the next sequence number on the plane of its line, which is kept
until it arrives, and the peer records it with the old value 0 as it arrives (log entry 7); none arrives whose way is closed. -/
def Sys2Proof.Claim.CacheEvents : Prop :=
  ∀ (id : Nat) (s : State),
    (∀ (o : Op) (p q k : Nat), s.op? id = some o → o.kind = .fence p q k → s.gate o = true → p ≠ 0 → q ≠ 0 → k < 2 →
      ∃ t : State, exec (.fenceReleaseHeld id) s = .next t.pump ∧ t.op? id = none ∧ t.mem = { s.mem with relAcq := t.mem.relAcq } ∧
        t.cores = s.cores) ∧
    (∀ (o : Op) (p q k : Nat), s.op? id = some o → o.kind = .fence p q k → s.gate o = true → p ≠ 0 → q % 2 = 1 → 2 ≤ k →
      (∀ w ∈ (s.cleanL1 o.core (·.asid == o.asid)).mem.wts, w.die = o.core / 128 → w.asid = o.asid → 4 ≤ k → s.wtStuck w = false) →
      ∃ t : State, exec (.fenceReleaseHeld id) s = .next t.pump ∧ t.op? id = none ∧ ∀ l ∈ (t.coreAt o.core).l1, l.asid ≠ o.asid) ∧
    (∀ (o : Op) (p q k : Nat) (w : WriteThrough), s.op? id = some o → o.kind = .fence p q k → s.gate o = true → p ≠ 0 → q ≠ 0 → 4 ≤ k →
      w ∈ (s.cleanL1 o.core (·.asid == o.asid)).mem.wts → w.die = o.core / 128 → w.asid = o.asid → s.wtStuck w = true → w.home.node < 8 ∨ 5 ≤ k →
      exec (.fenceReleaseHeld id) s = .next s.pump) ∧
    (∀ (o : Op) (victim len : Nat), s.op? id = some o → o.kind = .acqr victim len → s.gate o = true →
      let s1 := if victim = o.core then s else s.dropL1 victim (inRange o.asid o.addr.toNat len)
      exec (.acqrComplete id) s = .next (((s1.dropL1 o.core (inRange o.asid o.addr.toNat len)).finishOp o 0 []).pump)) ∧
    (∀ (core asid line : Nat) (l : L1Line), s.l1? core asid line = some l → l.dirty ≠ 0 →
      ∃ t : State, exec (.l1SweepWriteback core asid line) s = .next t ∧
        t.mem = { s.mem with wbs := t.mem.wbs } ∧
        (∃ w, t.mem.wbs = s.mem.wbs ++ [w] ∧ w.data = l.data ∧ w.mask = l.dirty ∧ w.home = l.home ∧ w.core = core) ∧
        ∀ x, t.l1? core asid line = some x → x.dirty = 0 ∧ x.data = l.data ∧ x.valid = l.valid) ∧
    (∀ w : WriteBack, s.mem.wbs.find? (fun x => x.id == id) = some w → copyable (dieOf w.core) w.home = false → w.mask ≠ 0 →
      (s.wbWaits w = true → exec (.writebackArrival id) s = .next s) ∧
      (s.wbWaits w = false → ∃ t : State, exec (.writebackArrival id) s = .next t ∧ t = { s with mem := t.mem } ∧
        let m := s.mem.mergeHome w.home w.data w.mask w.kinds
        t.mem.bytes = m.bytes ∧ t.mem.lineMeta = m.lineMeta ∧ t.mem.wbs = s.mem.wbs.filter (·.id != w.id) ∧ t.mem.wts = s.mem.wts)) ∧
    (∀ w : WriteBack, s.mem.wbs.find? (fun x => x.id == id) = some w → copyable (dieOf w.core) w.home = true → w.mask ≠ 0 →
      (s.wbWaits w = true → exec (.writebackArrival id) s = .next s) ∧
      (s.wbWaits w = false → ∃ (t : State) (x : WriteThrough) (c : DieCopy), exec (.writebackArrival id) s = .next t ∧
        t = { s with mem := t.mem, fresh := s.fresh + 1 } ∧ t.mem.bytes = s.mem.bytes ∧ t.mem.lineMeta = s.mem.lineMeta ∧
        t.mem.wbs = s.mem.wbs.filter (·.id != w.id) ∧ t.mem.wts = s.mem.wts ++ [x] ∧
        x.die = dieOf w.core ∧ x.asid = w.asid ∧ x.line = w.line ∧ x.data = w.data ∧ x.mask = w.mask ∧ x.kinds = w.kinds ∧ x.home = w.home ∧
        (w.home.node < 8 → t.mem.unacked = s.mem.unacked ∧ t.mem.peerSeq = s.mem.peerSeq) ∧
        (8 ≤ w.home.node → t.mem.peerSeq = s.mem.peerSeq + 1 ∧ t.mem.unacked = s.mem.unacked ++
          [{ id := x.id, pkg := (w.home.node - 8) / 4, plane := s.planeOf w.line, line := w.line, seq := s.mem.peerSeq }]) ∧
        t.copyOf? (dieOf w.core) w.asid w.line = some c ∧
        (∀ c0, s.copyOf? (dieOf w.core) w.asid w.line = some c0 →
          c.data = mergeLine c0.data w.data w.mask ∧ c.valid = c0.valid ||| w.mask ∧ c.filled = c0.filled) ∧
        (s.copyOf? (dieOf w.core) w.asid w.line = none → c.data = mergeLine 0 w.data w.mask ∧ c.valid = w.mask ∧ c.home = w.home))) ∧
    (∀ w : WriteThrough, s.mem.wts.find? (fun x => x.id == id) = some w →
      (s.wtWaits w = true ∨ s.wtStuck w = true → exec (.writeThroughArrival id) s = .next s) ∧
      (s.wtWaits w = false → s.wtStuck w = false → s.mem.unacked.find? (fun r => r.id == w.id) = none →
        exec (.writeThroughArrival id) s = .next { s with
          mem := { (s.mem.mergeHome w.home w.data w.mask w.kinds) with wts := s.mem.wts.filter (·.id != w.id) } }) ∧
      (∀ r, s.wtWaits w = false → s.wtStuck w = false → s.mem.unacked.find? (fun r => r.id == w.id) = some r →
        ∃ t : State, exec (.writeThroughArrival id) s = .next t ∧
        t = { s with mem := t.mem } ∧ t.mem.bytes = (s.mem.mergeHome w.home w.data w.mask w.kinds).bytes ∧
        t.mem.wts = s.mem.wts.filter (·.id != w.id) ∧ t.mem.unacked = s.mem.unacked.filter (·.id != w.id) ∧ t.mem.peerSeq = s.mem.peerSeq ∧
        { pkg := r.pkg, seq := r.seq, old := 0 : PeerDone } ∈ t.mem.peerLog))

/-- R171 to R173, R388: the atomics at issue outside deterministic mode: their checks (range before alignment), their operands (the compare value of
CAS is d's), flagged. -/
def Obligations.AtomicWords : Prop :=
  ∀ (c : BitVec 1) (g : BitVec 4) (d b v : BitVec 6) (s : State), unbuffered s →
    (∀ r ∈ amogRows, exec (r.1 c g d b v) s = .next (s.startOps g true true [.g b.toNat, .g v.toNat, .g d.toNat] fun iss t =>
      let a := srcG iss t .zero b
      if a.toNat ≥ 2 ^ 52 then .error (.mk2 0x03 a)
      else if a.toNat % r.2.2.1 ≠ 0 then .error (.mk2 0x02 a)
      else .ok (.plain a (.atomic r.2.1 r.2.2.1 (srcG iss t .zero v) (t.gr d.toNat) d.toNat r.2.2.2)))) ∧
    ∀ r ∈ amosRows, exec (r.1 c g d b v) s = .next (s.startOps g true true [.g b.toNat, .g v.toNat, .g d.toNat] fun iss t =>
      let a := srcG iss t .zero b
      match s.group? t.gid with
      | none => .error (.mk2 0x04 a)
      | some grp =>
        if s.scratchOk grp a r.2.2 = false then .error (.mk2 0x04 a)
        else if a.toNat % r.2.2 ≠ 0 then .error (.mk2 0x02 a)
        else .ok (.plain a (.atomicS r.2.1 r.2.2 (srcG iss t .zero v) (t.gr d.toNat) d.toNat)))

/-- R172: the read-modify-write functions, on values of N bits. -/
def Sys2Proof.Claim.AtomicFunctions : Prop :=
  ∀ (op : AOp) (n old v e : Nat), n = 32 ∨ n = 64 → old < 2 ^ n → v < 2 ^ n → e < 2 ^ n →
    atomicNew op n old v e = rmw op n old v e ∧ atomicNew op n old v e < 2 ^ n

/-- R77, R172, R173, R328, R382, R390, R392: an atomic performed at its bank reads the old value, writes the new one and keeps the old one for its reply; the reply
writes it, sign-extended from 32 bits, and adds to the store hash; from a peer the reply is the acknowledgement of the request, with the value in the peer's
record, and with no link up it faults UNCORRECTABLE (both log entry 7, DEDUCED). An atomic that a flush point has drained is performed as the drain says. -/
def Sys2Proof.Claim.AtomicEvents : Prop :=
  ∀ (id : Nat) (s : State) (o : Op) (op : AOp) (n old d rank : Nat) (v e : Word) (grp : Group), s.op? id = some o →
    let off := o.addr.toNat % 2 ^ 21
    let s1 := s.fenceEffect o.tid o.seq o.core o.asid 2 true true
    (o.kind = .atomicS op n v e d → s.gate o = true → s.scratchHeld o = false → s.buffered o = false → s.turnWaits o = false →
      s.flushOf o = none → s1.scratchTarget o = some grp → s1.liveOver grp.core grp.scratch off n = false →
      s1.regionBad grp.core grp.scratch off n = false → old = s1.regionRead grp.core grp.scratch off n →
      let new := atomicNew op (8 * n) old (v.toNat % 2 ^ (8 * n)) (e.toNat % 2 ^ (8 * n))
      exec (.atomicPerform id) s = .next (((if op = .swap ∨ new ≠ old then s1.regionWrite grp.core grp.scratch off new n else s1).modOp o.id
        fun o => { o with st := .performed old }).pump)) ∧
    (o.kind = .atomic op n v e d rank → s.buffered o = false → s.turnWaits o = false → s.hole? o = none → s.flushOf o = none →
      exec (.atomicPerform id) s = .next (s.performAtomicG o false).pump) ∧
    (o.kind = .atomic op n v e d rank → s.buffered o = false → s.turnWaits o = false → s.hole? o = none → s.flushOf o ≠ none →
      exec (.atomicPerform id) s = .next (s.performEntry id).pump) ∧
    let reply (u : State) (old : Nat) : State := (u.modThread o.tid fun t => { t with hash := t.hash + mixAtomic o.hseq o.addr n old }).finishOp o 0
      [.g d (if n = 4 then word (sx 32 old) else word old)]
    (o.kind = .atomicS op n v e d → o.st = .performed old → exec (.atomicReply id) s = .next (reply s old).pump) ∧
    (o.kind = .atomic op n v e d rank → o.st = .performed old →
      ((∀ r ∈ s.mem.unacked, r.id ≠ o.id) → exec (.atomicReply id) s = .next (reply s old).pump) ∧
      ∀ r, s.mem.unacked.find? (fun x => x.id == o.id) = some r →
        let u : State := { s with mem := { s.mem with unacked := s.mem.unacked.filter fun x => x.id != o.id } }
        (s.planes ≠ [] → ∀ y, s.mem.peerLog.find? (fun y => y.pkg == r.pkg && y.seq == r.seq) = some y →
          exec (.atomicReply id) s = .next (reply u y.old).pump) ∧
        (s.planes = [] → exec (.atomicReply id) s = .next (u.faultOp o 0x14 o.addr).pump))

/-- R172, R180 to R183: a global atomic at its home. What the issuing core's L1 holds of the line, and what its die has written through and is on its way,
reaches the home first; then the home's bytes become the new value, the operation keeps the old one, and neither that L1 nor the die's L2 holds a copy. With
nothing dirty and nothing on its way the home's bytes are those before; a dirty line of the own die's memory, or one write-through, has been merged. -/
def Sys2Proof.Claim.AtomicAtHome : Prop :=
  ∀ (s : State) (o : Op) (op : AOp) (n d rank : Nat) (v e : Word) (h : Home), o.kind = .atomic op n v e d rank → s.op? o.id = some o →
    o.addr.toNat % 64 + n ≤ 64 →
    let die := o.core / 128
    let line := o.addr.toNat / 64
    let mine (l : L1Line) : Bool := l.asid == o.asid && l.line == line
    let ours (w : WriteThrough) : Bool := w.die == die && w.asid == o.asid && w.line == line
    let s2 := (s.dropL1 o.core mine).drainLine die o.asid line
    let old := s2.mem.rd h.node (h.addr + o.addr.toNat % 64) n
    let new := atomicNew op (8 * n) old (v.toNat % 2 ^ (8 * n)) (e.toNat % 2 ^ (8 * n))
    let t := s.atHome o h
    (t.op? o.id).map Op.st = some (.performed old) ∧
    t.mem.bytes = (if op = .swap ∨ new ≠ old then
      (s2.mem.mergeHome h (BitVec.ofNat 512 (new * 2 ^ (8 * (o.addr.toNat % 64)))) (byteMask (o.addr.toNat % 64) n) 0).bytes else s2.mem.bytes) ∧
    t.pool = s.pool ∧ t.threads = s.threads ∧ t.copyOf? die o.asid line = none ∧ (∀ l ∈ (t.coreAt o.core).l1, mine l = false) ∧
    -- what the home held before the read-modify-write
    ((∀ w ∈ s.mem.wbs, w.core ≠ o.core) →
      ((∀ l ∈ (s.coreAt o.core).l1, mine l = true → l.dirty = 0) → (∀ w ∈ s.mem.wts, ours w = false) → s2.mem.bytes = s.mem.bytes) ∧
      (∀ l, (s.coreAt o.core).l1.filter mine = [l] → l.dirty ≠ 0 → copyable die l.home = false → (∀ w ∈ s.mem.wts, ours w = false) →
        s2.mem.bytes = (s.mem.mergeHome l.home l.data l.dirty l.mdata).bytes) ∧
      ∀ w, (∀ l ∈ (s.coreAt o.core).l1, mine l = true → l.dirty = 0) → s.mem.wts.filter ours = [w] → s.wtStuck w = false →
        s2.mem.bytes = (s.mem.mergeHome w.home w.data w.mask w.kinds).bytes)

/-- R386, R388 to R390: at the end of a deterministic kernel the buffered atomics drain in their order. That ATOMIC_BUFFER_DRAIN is the drain at the kernel's
end is log entry 38 (DEDUCED). -/
def Sys2Proof.Claim.AtomicBufferDrains : Prop :=
  ∀ (kernel core : Nat) (s : State) (k : Kernel), s.kernel? kernel = some k → k.lr.mode = 1 → s.buffersFor kernel core = true →
    k.st = .running → (∀ t ∈ s.threads, (s.kernelOf? t.gid).map (·.kid) ≠ some k.kid ∨ t.st = .exited) →
    exec (.atomicBufferDrain kernel core) s = .next (s.drainAtomics kernel fun _ => true).pump

/-! ### Objects and the monitor -/

/-- R210, R217 to R221, R234: STREF, STHDR, PUB and the words that read metadata. That a bad policy word comes before the checks of the address, and which
check of PUB is reported first, is log entry 33. -/
def Sys2Proof.Claim.ObjectWords : Prop :=
  ∀ (c : BitVec 1) (g : BitVec 4) (d b p : BitVec 6) (s : State),
    exec (.stref c g d b p) s = .next (s.startOps g true true [.g b.toNat, .g p.toNat, .g d.toNat] fun iss t =>
      let v := srcG iss t .sign d
      match globalAt 8 b p iss t with
      | .error x => .error x
      | .ok a => if v.toNat < 2 ^ 52 ∧ v.toNat % 8 = 0 then .ok { addr := a, kind := .stref v, stored := some (8, v.toNat) }
        else .error (.mk2 0x03 a)) ∧
    exec (.sthdr c g d b p) s = .next (s.startOps g false true [.g b.toNat, .g p.toNat, .g d.toNat] fun iss t =>
      let v := (srcG iss t .sign d).toNat % 2 ^ 32
      (globalAt 8 b p iss t).map fun a => { addr := a, kind := .store v 8 (policy iss t p) true, stored := some (8, v) }).pump ∧
    (∀ r ∈ [(Instr.tagof, 0), (.scopeof, 1), (.colof, 2)],
      exec (r.1 c g d b p) s = .next (s.startOps g true false [.g b.toNat, .g p.toNat] fun iss t =>
        (globalAt 1 b p iss t).map fun a => .plain a (.readMeta r.2 d.toNat (policy iss t p)))) ∧
    exec (.pub c g d b p) s = .next (s.startOps g true false [.g b.toNat] fun iss t =>
      let r := srcG iss t .zero b
      if r.toNat ≥ 2 ^ 52 then .error (.mk2 0x03 r) else if r.toNat % 8 ≠ 0 then .error (.mk2 0x02 r)
      else .ok (.plain r (.pub p.toNat d.toNat)))

/-- R213, R217, R218, R363, R382: STREF at the home slice: where the value is the address of a header whose effective scope is below that of the destination's
line, it ends in ESCAPE; where that header's line, or a page table on the way to it, has an uncorrectable error, or its package is out of reach, it ends
UNCORRECTABLE, and the line with the error is marked; otherwise its 8 bytes are stored at the home, of a peer by a request that it records (log entry 7), the word
becomes a reference, and the operation is done. A value whose page has no translation, or
whose frame does not exist, names no header, and is stored (log entry 52). A page without metadata faults PROTECTION. -/
def Sys2Proof.Claim.ReferenceStores : Prop :=
  ∀ (id : Nat) (s s1 : State) (o : Op) (v : Word) (h : Home) (x : Thread), s.op? id = some o → o.kind = .stref v → s.hole? o = none →
    s.gate o = true → s.homeFor o false = (s1, .ok h) → peWR h.entry = true → s1.stackTrained h.node h.addr = true →
    s1.frameExists h.node h.addr = true → s1.headerWaits o = false → s1.thread? o.tid = some x →
    mColour (s1.metaSeen o.core o.asid (o.addr.toNat / 64) h) = 0 →
    let die := o.core / 128
    let va := o.addr.toNat
    let s2 := s1.modOp id fun y => { y with met := true }
    s2.uncorrectable o h = false →
    let s3 := s2.countMiss die o.asid (va / 64) h
    let fails (u : State) (code : Nat) : State := (u.modThread o.tid fun t =>
      { t with hash := t.hash - mixStore o.hseq o.addr 8 v.toNat }).faultOp o code o.addr
    let s4 := (s3.dropL1 o.core fun l => l.asid == o.asid && l.line == va / 64).drainLine die o.asid (va / 64)
    let scope := effScope (s4.mem.metaAt h.node h.addr)
    let escapes : Prop := 1 ≤ scope ∧ v ≠ 0 ∧ ∃ hh, s4.homeAt die o.asid v.toNat = .ok hh ∧
      s4.frameExists hh.node hh.addr = true ∧ peME hh.entry = true ∧
      mKind (s4.mem.metaAt hh.node hh.addr) (v.toNat % 64 / 8) = 2 ∧ effScope (s4.mem.metaAt hh.node hh.addr) < scope
    (peME h.entry = false → exec (.strefHomeCheck id) s = .next (fails s3 0x03).pump) ∧
    -- the line at which reading the header meets an error
    let badAt (n a : Nat) : Prop := 1 ≤ scope ∧ v ≠ 0 ∧ (s4.homeAt die o.asid v.toNat = .error (.bad n a) ∨ ∃ hh,
      s4.homeAt die o.asid v.toNat = .ok hh ∧ s4.frameExists hh.node hh.addr = true ∧ peME hh.entry = true ∧ s4.unreadable hh = true ∧
      hh.node = n ∧ hh.addr = a)
    (∀ n a, peME h.entry = true → badAt n a → exec (.strefHomeCheck id) s = .next (fails (s4.meetLine n a) 0x14).pump) ∧
    (peME h.entry = true → (∀ n a, ¬ badAt n a) → escapes → exec (.strefHomeCheck id) s = .next (fails s4 0x09).pump) ∧
    (peME h.entry = true → (∀ n a, ¬ badAt n a) → ¬ escapes → o.lost = 0 → ∃ t : State, exec (.strefHomeCheck id) s = .next t.pump ∧ t.op? id = none ∧
      let m := s4.mem.mergeHome h (BitVec.ofNat 512 (v.toNat * 2 ^ (8 * (va % 64)))) (byteMask (va % 64) 8) (setKind 0 (va % 64 / 8) 1)
      t.mem.bytes = m.bytes ∧ t.mem.lineMeta = m.lineMeta ∧
      (8 ≤ h.node → t.mem.peerSeq = s4.mem.peerSeq + 1 ∧ { pkg := (h.node - 8) / 4, seq := s4.mem.peerSeq, old := 0 : PeerDone } ∈ t.mem.peerLog))

/-- R181, R213, R222 to R227, R382: a walk starts after its release, for which it waits while a way is closed (log entry 48), and takes one address at a time, reading
the word's kind at the point of coherence of its scope, at a peer by a request (log entry 7): 0 and words that are no header are passed over, an object whose scope at
the home slice is wide enough too; when none is left, what the walk wrote back reaches its homes, for which the walk waits where a way is closed, the count of raised
objects is written and the flag falls. -/
def Sys2Proof.Claim.Walks : Prop :=
  ∀ (id : Nat) (s : State),
    (∀ (o : Op) (scope d : Nat), s.op? id = some o → o.kind = .pub scope d → s.gate o = true → (∀ w ∈ s.walks, w.op ≠ o.id) →
      s.walkTurn o = false →
      let s1 := s.releaseAt o.tid o.core o.asid (scope + 1)
      (s.releaseStuck o.core o.asid (scope + 1) = true → exec (.walkStart id) s = .next s) ∧
      (s.releaseStuck o.core o.asid (scope + 1) = false → exec (.walkStart id) s = .next { s1 with
        walks := s1.walks ++ [{ id := s1.fresh, op := o.id, quad := o.core / 4, core := o.core, asid := o.asid, tid := o.tid, scope := scope,
                                queue := [o.addr.toNat % 2 ^ 52], raised := 0, obj := none, lines := [], spilled := 0, absent := none }]
        fresh := s1.fresh + 1 })) ∧
    (∀ (w : Walk) (o : Op) (scope d a : Nat) (rest : List Nat) (hm : Home), s.walks.find? (fun x => x.id == id) = some w →
      (∀ x ∈ s.walks, x.quad = w.quad → w.id ≤ x.id) → s.op? w.op = some o → o.st = .queued → o.kind = .pub scope d → w.obj = none →
      let skip : Walk := { w with queue := rest, absent := none }
      -- the write-throughs of the lines that the walk has raised
      let wrote (x : WriteThrough) : Bool := x.die == w.core / 128 && x.asid == w.asid && w.lines.contains x.line
      (w.queue = [] → (∀ x ∈ s.mem.wts, wrote x = true → s.wtStuck x = false) → exec (.walkObject id) s =
        .next (({ s.drain wrote with walks := (s.drain wrote).walks.filter fun x => x.id != w.id } : State).finishOp o 0 [.g d (word w.raised)])) ∧
      (w.queue = [] → (∃ x ∈ s.mem.wts, wrote x = true ∧ s.wtStuck x = true) → exec (.walkObject id) s = .next s) ∧
      (w.queue = 0 :: rest → exec (.walkObject id) s = .next (s.setWalk skip)) ∧
      (w.queue = a :: rest → a ≠ 0 → a < 2 ^ 52 → s.walkMeet w a 8 = .home hm →
        let r := s.walkRead w a hm
        (peME hm.entry = false ∨ mKind r.2.mdata (a % 64 / 8) ≠ 2 ∨ w.scope ≤ effScope (r.1.mem.metaAt hm.node hm.addr)) →
        exec (.walkObject id) s = .next (r.1.setWalk skip)) ∧
      (3 ≤ w.scope → let u := s.countMiss (w.core / 128) w.asid (a / 64) hm
        (hm.node < 8 → s.walkRead w a hm = (u, s.readHome hm)) ∧
        (8 ≤ hm.node → ∃ q, (s.walkRead w a hm).2 = { s.readHome hm with req := some q } ∧ q.pkg = (hm.node - 8) / 4 ∧ q.seq = s.mem.peerSeq ∧
          q.plane = s.planeOf (a / 64) ∧ (s.walkRead w a hm).1 = { u with mem := { u.mem with peerSeq := s.mem.peerSeq + 1 } })))

/-- R231 to R233: COLR and one line of it: every copy of the line is written back and dropped, then its colour is set at the home; a line that has
another colour, a coloured line of a peer package, and a page without metadata or write permission end in PROTECTION, and so does an address past 2^52 (log entry
80); a line that cannot be read, or the line of a page table with an error, ends in UNCORRECTABLE and is marked (R363, R382; that the colour is read at the home
is log entry 7's reading of a peer); with no line left nothing more happens. -/
def Sys2Proof.Claim.ColourLines : Prop :=
  (∀ (c : BitVec 1) (g : BitVec 4) (d b l : BitVec 6) (s : State),
    exec (.colr c g d b l) s = .next (s.startOps g false false [.g b.toNat, .g l.toNat, .g d.toNat] fun iss t =>
      let k := (srcG iss t .sign d).toNat
      let a := srcG iss t .zero b
      let n := (srcG iss t .zero l).toNat % 2 ^ 32
      if k = 0 ∨ k > 63 then .error (.mk2 0x0B a)
      else if a.toNat ≥ 2 ^ 52 then .error (.mk2 0x03 a)
      else if a.toNat % 64 ≠ 0 ∨ n % 64 ≠ 0 then .error (.mk2 0x02 a)
      else .ok (.plain a (.colr k n))).pump) ∧
  (∀ (id : Nat) (s s1 : State) (o : Op) (k left : Nat) (h : Home), s.op? id = some o → o.kind = .colr k left → s.gate o = true →
    (left = 0 → exec (.colrLine id) s = .next (s.dropOp o.id).pump) ∧
    (left ≠ 0 → 2 ^ 52 ≤ o.addr.toNat → exec (.colrLine id) s = .next (s.foundFault o 0x03 o.addr).pump) ∧
    (left ≠ 0 → o.addr.toNat < 2 ^ 52 → s.homeFor o false = (s1, .ok h) → peME h.entry = false ∨ peWR h.entry = false →
      exec (.colrLine id) s = .next (s1.foundFault o 0x03 o.addr).pump) ∧
    (∀ node addr, left ≠ 0 → o.addr.toNat < 2 ^ 52 → s.homeFor o false = (s1, .error (.bad node addr)) →
      exec (.colrLine id) s = .next ((s1.meetLine node addr).foundFault o 0x14 o.addr).pump)) ∧
  ∀ (id : Nat) (s s1 : State) (o : Op) (k left : Nat) (h : Home), s.op? id = some o → o.kind = .colr k left → s.gate o = true → left ≠ 0 →
    o.addr.toNat < 2 ^ 52 → s.hole? o = none → s.homeFor o false = (s1, .ok h) → peME h.entry = true → peWR h.entry = true →
    s1.stackTrained h.node h.addr = true → s1.frameExists h.node h.addr = true →
    let peer : Prop := mColour (s1.mem.metaAt h.node h.addr) ≠ 0 ∧ 8 ≤ h.node
    -- at a peer the colour is set by a request, which it records
    let s2 := (if h.node < 8 then s1 else s1.writePeer h (o.addr.toNat / 64)).purgeLines fun _ _ x => x.node == h.node && x.addr == h.addr
    let md := s2.mem.metaAt h.node h.addr
    let s3 : State := { s2 with mem := s2.mem.setMeta h.node h.addr (setColour md k) }
    (s1.unreadable h = true → exec (.colrLine id) s = .next ((s1.meetError h).foundFault o 0x14 o.addr).pump) ∧
    (s1.unreadable h = false → peer → exec (.colrLine id) s = .next (s1.foundFault o 0x03 o.addr).pump) ∧
    (s1.unreadable h = false → ¬ peer → mColour md ≠ 0 → mColour md ≠ k → exec (.colrLine id) s = .next (s2.foundFault o 0x03 o.addr).pump) ∧
    (s1.unreadable h = false → ¬ peer → mColour md = 0 ∨ mColour md = k → exec (.colrLine id) s = .next (if left ≤ 64 then (s3.dropOp o.id).pump
      else (s3.modOp o.id fun o => { o with addr := o.addr + 64, kind := .colr k (left - 64) }).pump))

/-- R238, R244 to R247: the monitor words: MONITOR for a colour out of range or not held, and for a CWAIT below a higher held colour; the messages
they send, and what CHELD reads. -/
def Obligations.MonitorWords : Prop :=
  ∀ (c : BitVec 1) (g : BitVec 4) (d b : BitVec 6) (s : State) (iss : Issue), s.cur? = some iss →
    let holds (t : Thread) (k : Nat) : Bool := t.held.any fun h => h.colour == k && h.st != .waiting
    let okFor (top : Bool) (t : Thread) : Bool :=
      let k := (srcG iss t .zero b).toNat
      decide (1 ≤ k ∧ k ≤ 63) && holds t k && !(top && t.held.any fun h => h.st != .waiting && decide (k < h.colour))
    let bad (top : Bool) (t : Thread) : Thread := if okFor top t then t else t.fault iss s.fresh (.mk2 0x0B 0)
    (∀ r ∈ [(Instr.cnotify, MsgKind.notify), (.cnotifyall, .notifyAll)],
      ∃ t : State, exec (r.1 c g b) s = .next t ∧ t = { onExecuting s iss g (bad false) with msgs := t.msgs, fresh := t.fresh } ∧
        t.msgs.take s.msgs.length = s.msgs ∧
        (t.msgs.drop s.msgs.length).map (fun m => (m.tid, m.colour, m.kind)) =
          ((s.executing iss g).filter (okFor false)).map fun x => (x.tid, (srcG iss x .zero b).toNat, r.2)) ∧
    -- CWAIT: each thread that may gives its colour up, in ascending cohort index, and waits; its wait message will follow
    ((s.threads.map Thread.tid).Nodup → ∃ t : State, exec (.cwait c g b) s = .next t ∧
      t = { s with threads := t.threads, rels := t.rels, fresh := t.fresh } ∧ t.threads.length = s.threads.length ∧
      t.rels.take s.rels.length = s.rels ∧
      (t.rels.drop s.rels.length).map (fun r => (r.tid, r.colour, r.depth, r.wait)) = ((s.executing iss g).filter (okFor true)).map (fun x =>
        let k := (srcG iss x .zero b).toNat
        (x.tid, k, ((x.held.find? fun h => h.colour == k).map Held.depth).getD 0, true)) ∧
      ∀ (i : Nat) (x : Thread), s.threads[i]? = some x → ∃ y, t.threads[i]? = some y ∧
        (executes iss g x = false → y = x) ∧
        (executes iss g x = true → okFor true x = false → y = x.fault iss s.fresh (.mk2 0x0B 0)) ∧
        (executes iss g x = true → okFor true x = true →
          let k := (srcG iss x .zero b).toNat
          ∃ q, s.fresh ≤ q ∧ y = { x with
            held := x.held.map fun h => if h.colour = k then { h with st := .waiting } else h, parks := x.parks ++ [.cwait k q] } ∧
            holds y k = false)) ∧
    ((∀ x ∈ s.threads, executes iss g x = true → okFor true x = false) →
      exec (.cwait c g b) s = .next (onExecuting s iss g fun t => t.fault iss s.fresh (.mk2 0x0B 0))) ∧
    exec (.cheld c g d b) s = .next (lands s iss g 4 [.g b.toNat] fun t =>
      [.g d.toNat (match t.held.find? fun h => h.colour == (srcG iss t .zero b).toNat && h.st != .waiting with
        | none => 0
        | some h => word (1 + h.depth : Nat))])

/-- R236, R242: the home slice serves a monitor's messages as its table says: owner, entry queue, wait set, and the reply. -/
def Sys2Proof.Claim.MonitorMessages : Prop :=
  ∀ (id : Nat) (s : State) (m : Msg), s.msgs.find? (fun x => x.id == id) = some m → s.msgWaits m = false →
    let s1 : State := { s with msgs := s.msgs.filter fun x => x.id != id }
    let mon := s1.monitorAt m.asid m.colour
    let answer (t : State) (tid depth : Nat) (grant : Bool) : State := { t with
      replies := t.replies ++ [{ id := t.fresh, tid := tid, asid := m.asid, colour := m.colour, depth := depth, grant := grant }]
      fresh := t.fresh + 1 }
    (m.kind = .acquire → mon.owner = none → exec (.monitorAcquire id) s =
      .next (answer (s1.setMonitor { mon with owner := some (m.tid, m.depth) }) m.tid m.depth true)) ∧
    (m.kind = .acquire → mon.owner ≠ none → exec (.monitorAcquire id) s =
      .next (answer (s1.setMonitor { mon with entry := mon.entry ++ [(m.tid, m.depth)] }) m.tid m.depth false)) ∧
    (m.kind = .release → mon.entry = [] → exec (.monitorRelease id) s = .next (s1.setMonitor { mon with owner := none })) ∧
    (∀ e rest, m.kind = .release → mon.entry = e :: rest → mon.asid = m.asid → mon.colour = m.colour → exec (.monitorRelease id) s =
      .next (answer (s1.setMonitor { mon with owner := some e, entry := rest }) e.1 e.2 true)) ∧
    (m.kind = .wait → mon.entry = [] → exec (.monitorWait id) s =
      .next (s1.setMonitor { mon with owner := none, waiters := mon.waiters ++ [(m.tid, m.depth)] })) ∧
    (∀ e rest, m.kind = .wait → mon.entry = e :: rest → mon.asid = m.asid → mon.colour = m.colour → exec (.monitorWait id) s =
      .next (answer (s1.setMonitor { mon with owner := some e, entry := rest, waiters := mon.waiters ++ [(m.tid, m.depth)] }) e.1 e.2 true)) ∧
    (m.kind = .notify → mon.waiters = [] → exec (.monitorNotify id) s = .next s1) ∧
    (∀ w rest, m.kind = .notify → mon.waiters = w :: rest → exec (.monitorNotify id) s =
      .next (s1.setMonitor { mon with entry := mon.entry ++ [w], waiters := rest })) ∧
    (m.kind = .notifyAll → exec (.monitorNotifyAll id) s =
      .next (s1.setMonitor { mon with entry := mon.entry ++ mon.waiters, waiters := [] }))

/-- R238, R239, R241, R245: replies at the core and the release that a thread owes: a grant acquires and lets the held accesses go on; a queued reply
makes the thread park; a release is sent once the earlier accesses are done and the colour is the thread's. -/
def Sys2Proof.Claim.MonitorReplies : Prop :=
  (∀ (id : Nat) (s : State) (r : Reply) (x : Thread), s.replies.find? (fun y => y.id == id) = some r → s.thread? r.tid = some x →
    s.replyWaits r x.core = false →
    let s1 : State := { s with replies := s.replies.filter fun y => y.id != id }
    -- a grant's acquire drops what the core's L1 holds of the context without a colour or with this one, and bounds the thread's later reads
    (r.grant = true → (∀ l ∈ ((s1.grantAcquire x.core r.asid r.tid r.colour).coreAt x.core).l1, l.asid = r.asid →
      peME l.home.entry = true ∧ mColour l.mdata ≠ 0 ∧ mColour l.mdata ≠ r.colour)) ∧
    (r.grant = true → exec (.monitorGrant id) s =
      .next (((s1.grantAcquire x.core r.asid r.tid r.colour).granted r.tid r.colour).pump)) ∧
    (r.grant = false → x.st = .exited → exec (.monitorQueuedReply id) s = .next s1) ∧
    (r.grant = false → x.st ≠ .exited → exec (.monitorQueuedReply id) s = .next (parksFor s1 r.tid (.colour r.colour)))) ∧
  ∀ (id : Nat) (s : State) (r : Rel), s.rels.find? (fun y => y.id == id) = some r →
    (∀ o ∈ s.ops, o.tid = r.tid → o.seq < r.seq → o.kind.beforeRelease = true → o.waiting = false) →
    (∀ y ∈ s.rels, y.tid = r.tid → y.colour = r.colour → r.id ≤ y.id) →
    (∀ m ∈ s.msgs, m.tid = r.tid → m.colour = r.colour → m.kind = .notify ∨ m.kind = .notifyAll) →
    (s.monitorAt r.asid r.colour).owner.map (·.1) = some r.tid → (∀ y ∈ s.replies, y.tid = r.tid → y.colour ≠ r.colour) →
    (s.releaseWrites r).drainStuck (r.core / 128) r.asid 4 = false →
    -- a line of a page without metadata has no colour
    let colour (l : L1Line) : Nat := if peME l.home.entry then mColour l.mdata else 0
    let s1 := (s.cleanL1 r.core fun l => l.asid == r.asid && (colour l == 0 || colour l == r.colour)).drainDie (r.core / 128) r.asid
    exec (.colourReleaseSend id) s = .next { s1 with
      rels := s1.rels.filter fun y => y.id != id
      msgs := s1.msgs ++ [{ id := s1.fresh, tid := r.tid, gid := r.gid, asid := r.asid, colour := r.colour, depth := r.depth,
                            kind := if r.wait then .wait else .release, grp := 0 }]
      fresh := s1.fresh + 1 }

/-! ### Clauses, cohorts and traps -/

/-- R66, R73, R75, R94: a clause starts when none is in issue, the cohort that the scheduler picks has a header at its frontier, the waited-for flags
are 0 and its own flags have room; its words are fetched, its threads are those that stand at the frontier, the lowest program counter of the cohort. -/
def Sys2Proof.Claim.ClauseStarts : Prop :=
  ∀ (w : BitVec 12) (a b : BitVec 4) (y : BitVec 1) (l : BitVec 3) (s : State) (p : Pick) (x : Word) (h : Hdr) (c : Cohort)
    (ws : List Word32) (s1 : State), s.cur? = none →
    (s.schedule s.turn).pick s.turn = (s1, some p) → p.head = .hdr x h → s1.cohort? p.cid = some c →
    (∀ n, n < 12 → w.getLsbD n = true → c.flags[n]?.getD 0 = 0) →
    (∀ n, n = a.toNat ∨ (n = b.toNat ∧ b ≠ 15) → c.flags[n]?.getD 0 + (if a = b then 2 else 1) ≤ 15) →
    s1.fetchClause s.turn p.asid x.toNat (3 * (l.toNat + 1)) = .ok ws →
    (∃ t iss, exec (.clauseStart w a b y l) s = .next t ∧ t.issues.find? (fun i => i.core == s.turn) = some iss ∧
      iss.cid = p.cid ∧ iss.hdr = x ∧ iss.words = ws ∧ iss.pos = 1 ∧ iss.aFlag = a.toNat ∧ iss.bFlag = b.toNat ∧ iss.flagged = 0 ∧
      (∀ th ∈ s1.threads, (th.cid = p.cid ∧ th.live = true ∧ th.pc = x) → th.tid ∈ iss.tids) ∧
      (∀ i ∈ iss.tids, ∃ th ∈ s1.threads, th.tid = i ∧ th.cid = p.cid ∧ th.live = true ∧ th.pc = x) ∧
      (∃ n, t.threads =
        s1.threads.map fun th => if th.cid = p.cid ∧ th.live = true ∧ th.pc = x then th.begin (s1.coreAt s.turn).clock n else th) ∧
      t.pool = s1.pool ∧ t.ops = s1.ops) ∧
    ∀ th ∈ s1.threads, th.cid = p.cid → th.live = true → x.toNat ≤ th.pc.toNat

/-- R80, R82, R100, R102: what the events of cohorts and threads do. -/
def Obligations.CohortEvents : Prop :=
  (∀ (core : Nat) (s : State), ∃ t, exec (.resultLands core) s = .next t ∧ onlyThreads s t ∧
    ∀ (k : Nat) (x : Thread), s.threads[k]? = some x → ∃ y, t.threads[k]? = some y ∧ (x.core ≠ core → y = x) ∧
      (x.core = core → ∀ l, l ∈ y.lands ↔ l ∈ x.lands ∧ (s.coreAt core).clock < l.due)) ∧
  (∀ (core cohort p : Nat) (s : State) (c : Cohort) (x : Slot), s.cohort? cohort = some c → s.slotOf? core (s.asidOf c.gid) = some x →
    x.ready ≠ [] → 256 ≤ c.waitCount → (∀ i ∈ s.issues, i.core ≠ core) → p < 8 → x.active[p]? = some (some cohort) →
    (∀ q, q < p → x.active[q]? ≠ some (some cohort)) →
    exec (.waitCountExpiry core cohort) s =
      .next ((s.modSlot core (s.asidOf c.gid) fun y => (y.leave p cohort).swapIn p (s.coreAt core).clock).modCohort cohort fun c => { c with waitCount := 0 })) ∧
  (∀ (core p cid due : Nat) (s : State) (x : Slot), (s.coreAt core).running? = some x →
    ((∀ y ∈ x.swapping, (s.coreAt core).clock < y.2.2) → exec (.cohortSwapComplete core) s = .next s) ∧
    (x.swapping.find? (fun y => decide (y.2.2 ≤ (s.coreAt core).clock)) = some (p, cid, due) → exec (.cohortSwapComplete core) s =
      .next ((s.modSlot core x.asid fun y => { y with
        swapping := y.swapping.filter (· != (p, cid, due)), active := y.active.setIfInBounds p (some cid) }).modCohort cid
        fun c => { c with waitCount := 0 }))) ∧
  (∀ (thread : Nat) (s : State) (x : Thread), s.thread? thread = some x → x.st = .exited → x.freed = false → s.idleThread thread = true →
    exec (.threadSlotFree thread) s = .next { s with threads := s.threads.map fun t => if t.tid = thread then { t with freed := true } else t }) ∧
  ∀ (cohort : Nat) (s : State) (c : Cohort), s.cohort? cohort = some c → c.stands = true →
    (∀ t ∈ s.threads, t.cid = cohort → t.st = .exited ∧ t.freed = true) → (∀ n, n < 12 → c.flags[n]? = some 0) →
    (c.spare = false → exec (.cohortRetire cohort) s =
      .next ((s.modCohort cohort fun c => if c.spare then { c with formed := false, waitCount := 0, yieldNext := false, yieldedAt := none, flushEnd := false } else { c with retired := true }).modSlot c.core
        (s.asidOf c.gid) fun x => x.drop cohort)) ∧
    (c.spare = true → ∃ t, exec (.cohortRetire cohort) s = .next t ∧ ∀ k ∈ t.cohorts, k.cid = cohort → k.spare = true → k.formed = false)

/-- R341, R344: a thread that is due a trap takes the earliest one: the record, the mark, the handler's address; a trapped thread, or one of a context
without a handler, exits with a kernel error instead. -/
def Obligations.TrapsTaken : Prop :=
  ∀ (s : State) (t : Thread), t.due ≠ [] →
    let h := s.handlerOf t.gid
    ∃ d ∈ t.due, (∀ e ∈ t.due, d.seq ≤ e.seq) ∧
      (t.trapped = false → h ≠ 0 → s.takeTrap t = { s with threads := s.threads.map fun x => if x.tid = t.tid then
        { x with trap := { code := d.code, addr := d.addr, pc := d.pc, resume := d.resume.getD x.pc }
                 trapped := true, pc := h, st := .runnable, due := [], stopped := false, next := none, rft := false } else x }) ∧
      (t.trapped = true ∨ h = 0 →
        (∀ x ∈ (s.takeTrap t).threads, x.tid = t.tid → x.st = .exited ∧ x.due = [] ∧ x.trapped = false) ∧
        ∀ g, s.group? t.gid = some g → (s.takeTrap t).kernels =
          s.kernels.map fun k => if k.kid = g.kid then { k with errors := k.errors ++ [(d.code.toNat % 256, d.pc)] } else k)

/-- R95, R346: at the end of a clause each of its threads goes to the address its branch chose or to the fall-through, and one that executed RFT leaves
its trap for the resume address; nothing else moves. -/
def Sys2Proof.Claim.ClauseEnds : Prop :=
  ∀ (s : State) (iss : Issue), (s.threads.map Thread.tid).Nodup → (∀ x ∈ s.threads, x.exiting = false ∧ (x.cid = iss.cid → x.due = [])) →
    (∀ c ∈ s.cohorts, c.cid = iss.cid → c.flushEnd = false) →
    let t := s.finishClause iss
    t.threads.length = s.threads.length ∧ (∀ i ∈ t.issues, i.core ≠ iss.core) ∧ t.mem = { s.mem with wbs := t.mem.wbs } ∧ t.pool = s.pool ∧
    ∀ (k : Nat) (x : Thread), s.threads[k]? = some x → ∃ y, t.threads[k]? = some y ∧ (x.tid ∉ iss.tids → y = x) ∧
      (x.tid ∈ iss.tids → y.g = x.g ∧ y.f = x.f ∧ y.p = x.p ∧ y.stack = x.stack ∧ (x.srPend = [] → y.trap = x.trap) ∧
        (x.rft = false → y.pc = x.next.getD iss.fall ∧ y.trapped = x.trapped) ∧
        (x.rft = true → y.pc = x.trap.resume ∧ y.trapped = false))

/-! ### The matrix engine -/

/-- R196, R252, R258, R263, R268 to R271, R274 to R276: the engine words: for each executing thread in turn the checks of its operand words, then a command
in the queue. The order of a word's checks (operand words, then addresses, then room; for MRD and MWR format, row, evenness, region) is log entry 54; that a core
holds 256 commands for each context is log entry 36. -/
def Sys2Proof.Claim.EngineWords : Prop :=
  ∀ (c : BitVec 1) (g : BitVec 4) (d a b : BitVec 6) (s : State) (iss : Issue), s.cur? = some iss →
    let q := s.fresh
    let bad : Except (Nat × Word) CmdReq := .error (0x0E, mxAt 0x08 0)
    let rd (t : Thread) (x : BitVec 6) : Word := srcG iss t .zero x
    let rs (t : Thread) : Word := srcG iss t .sign d
    exec (.tdef c g d a b) s = .next (inTurn s iss g (queues iss q fun t =>
      if rs t ≥ 256 then bad
      else (ownAt s t (rd t a)).map fun x => { kind := .tdef (rs t).toNat x (rd t b).toInt, cv := none })) ∧
    exec (.mldb c g d a) s = .next (inTurn s iss g (queues iss q fun t =>
      let w := rs t
      let x := rd t a
      if ctlBad s t w = true ∨ fld w 9 5 ≠ 0 ∨ fld w 0 9 ≠ 0 ∨ tileBad x = true ∨ fld x 16 8 ≠ 0 then bad
      else .ok { kind := .mldb (fld x 0 8) (fld w 14 1), cv := cvOf w })) ∧
    exec (.mmq c g d a b) s = .next (inTurn s iss g (queues iss q fun t =>
      let w := rs t
      let x := rd t a
      let y := rd t b
      if ctlBad s t w = true ∨ fld w 9 5 = 1 ∨ 16 < fld w 9 5 ∨ fld w 0 9 = 0 ∨ 256 < fld w 0 9 ∨ tileBad x = true ∨ tileBad y = true then bad
      else .ok { kind := .mmq (fld x 0 8) (fld y 0 8) (fld x 16 8) (fld y 16 8) (fld w 14 1) (fld w 9 5) (fld w 0 9), cv := cvOf w })) ∧
    exec (.mzero c g a b) s = .next (inTurn s iss g (queues iss q fun t =>
      let x := rd t a
      let n := rd t b
      if tileBad x = true ∨ cntBad n = true ∨ fld n 9 2 ≠ 0 then bad
      else .ok { kind := .mzero (fld x 0 8) (fld x 16 8) (fld n 0 9), cv := none })) ∧
    exec (.mxst c g d a b) s = .next (inTurn s iss g (queues iss q fun t =>
      let x := rd t a
      let n := rd t b
      if tileBad x = true ∨ cntBad n = true ∨ fld n 9 2 = 3 then bad
      else (ownAt s t (rs t)).map fun o => { kind := .mxst (fld x 0 8) (fld x 16 8) (fld n 0 9) (fld n 9 2) o, cv := none })) ∧
    exec (.trd c g d a b) s = .next (landsOr s iss g 4 [.g a.toNat, .g b.toNat] fun t =>
      let x := rd t a
      let i := rd t b
      if x ≥ 256 ∨ i ≥ 8 then .error (.mk2 0x0E (mxAt 0x08 0))
      else .ok [.g d.toNat (word ((s.coreAt t.core).tidEntry (s.asidOf t.gid) x.toNat |>.extractLsb' (64 * i.toNat) 64).toNat)]) ∧
    exec (.mrd c g d a b) s = .next (s.startOps g true false [.g a.toNat, .g b.toNat] fun iss t =>
      (accumAt s a b iss t).map fun x => .plain x (.mrd d.toNat)) ∧
    exec (.mwr c g d a b) s = .next (s.startOps g false false [.g a.toNat, .g b.toNat, .g d.toNat] fun iss t =>
      (accumAt s a b iss t).map fun x => .plain x (.mwr (srcG iss t .sign d))) ∧
    exec (.stpl c g d a b) s = .next (s.startOps g false false [.g d.toNat, .g a.toNat, .g b.toNat] fun iss t =>
      let x := srcG iss t .zero a
      let n := (srcG iss t .zero b).toNat
      if n < 2 ∨ 16 < n then .error (.mk2 0x0E (mxAt 0x08 0))
      else if x.toNat % 4 ≠ 0 then .error (.mk2 0x02 x)
      else match s.group? t.gid with
        | none => .error (.mk2 0x04 x)
        | some grp => if s.scratchOk grp x (128 * (n - 1) + 4) then .ok (.plain x (.stpl n (srcG iss t .sign d))) else .error (.mk2 0x04 x))

/-- R263, R266: a command joins the queue last, in its thread's open matrix group, which is opened where there is none; into a faulted group nothing is
queued. -/
def Sys2Proof.Claim.CommandsQueue : Prop :=
  ∀ (s : State) (t : Thread) (q : Nat) (r : CmdReq), s.thread? t.tid = some t → (∀ m ∈ s.mgroups, m.id < s.fresh) →
    let u := s.queueCmd t q r
    (t.matGrp = none → ∃ m x, u.mgroups = s.mgroups ++ [m] ∧ m.tid = t.tid ∧ m.closed = none ∧ m.fault = none ∧ m.queued = 1 ∧
      u.cmds = s.cmds ++ [x] ∧ x.grp = m.id ∧ x.kind = r.kind ∧ x.cv = r.cv ∧ x.started = false ∧ x.index = 0 ∧
      ∀ y ∈ u.threads, y.tid = t.tid → y.matGrp = some m.id) ∧
    ∀ (i : Nat) (m : MGroup), t.matGrp = some i → s.mgroups.find? (fun x => x.id == i) = some m →
      u.threads = s.threads ∧
      (m.fault ≠ none → u.cmds = s.cmds) ∧
      (m.fault = none → ∃ x, u.cmds = s.cmds ++ [x] ∧ x.grp = i ∧ x.kind = r.kind ∧ x.cv = r.cv ∧ x.started = false ∧ x.index = m.queued)

/-- R195, R261, R262: SIGN puts its delivery under way; CVSET takes effect at once, unless an earlier word of its register is still to be applied. They are
applied in order for each register of the group; SIGN adds 1, saturating, and not while a scratch store of the thread issued before it is still to be
performed; CVSET sets E and clears S. -/
def Obligations.ConvergenceRegisters : Prop :=
  (∀ (c : BitVec 1) (g : BitVec 4) (n p : BitVec 6) (s : State),
    exec (.sign c g n) s = .next (s.startOps g false false [] fun _ _ => .ok (.plain 0 (.sign n.toNat))) ∧
    let s1 := s.startOps g false false [.g p.toNat] fun iss t => .ok (.plain 0 (.cvset n.toNat ((srcG iss t .zero p).toNat % 2 ^ 16)))
    exec (.cvset c g n p) s = .next ((List.range (s1.fresh - s.fresh)).foldl (fun u k => u.applyCvset (s.fresh + k)) s1)) ∧
  (∀ (id : Nat) (s : State), exec (.cvsetApply id) s = .next (s.applyCvset id)) ∧
  ∀ (id : Nat) (s : State) (o : Op) (grp : Group), s.op? id = some o → s.groups = [grp] → grp.gid = o.gid →
    (∀ n, o.kind = .sign n → (∀ p ∈ s.ops, p.gid = o.gid → p.id < o.id → p.kind.cv? ≠ some n) → s.gate o = true →
      ∀ r, grp.cv[n]? = some r → ∃ t h, exec (.signApply id) s = .next t ∧ t.groups = [h] ∧ h.cv[n]? = some { e := r.e, s := min (r.s + 1) 65535 } ∧
        (∀ k, k ≠ n → h.cv[k]? = grp.cv[k]?) ∧ t.ops = s.ops.filter fun p => p.id != id) ∧
    (∀ n e, o.kind = .cvset n e → (∀ p ∈ s.ops, p.gid = o.gid → p.id < o.id → p.kind.cv? ≠ some n) →
      n < grp.cv.length → ∃ t h, exec (.cvsetApply id) s = .next t ∧ t.groups = [h] ∧ h.cv[n]? = some { e := e, s := 0 } ∧
        (∀ k, k ≠ n → h.cv[k]? = grp.cv[k]?) ∧ t.ops = s.ops.filter fun p => p.id != id)

/-- R195, whole: SIGN is not delivered while a scratch store that its thread issued before it is still to be performed. Operations are numbered in the
order in which they are issued. -/
def Obligations.SignWaitsForStores : Prop :=
  ∀ (id : Nat) (s : State) (o p : Op) (n : Nat), s.op? id = some o → o.kind = .sign n → p ∈ s.ops → p.tid = o.tid → p.id < o.id →
    p.waiting = true →
    ((∃ v z, p.kind = .storeS v z) ∨ (∃ k v, p.kind = .stpl k v) ∨ (∃ v, p.kind = .mwr v) ∨ ∃ e, p.kind = .binit e) →
    exec (.signApply id) s = .next s

/-- R266, R267, R281, R294, R295: MCOMMIT marks its tag and closes the thread's group on it, thread by thread: a group with a command left stays open on the tag;
for a thread without an open group, and for one whose group has no command left, the tag's operation ends at once, and a faulted group is kept for MWAIT. MWAIT
on a tag that is ready is at its release point: it reports the thread's faulted groups on the tag, by the earliest; on a tag that is not, the thread is
park-pending. -/
def Sys2Proof.Claim.CommitAndWait : Prop :=
  (∀ (c : BitVec 1) (g : BitVec 4) (n : BitVec 6) (s : State) (iss : Issue), s.cur? = some iss →
    exec (.mcommit c g n) s = .next ((s.executing iss g).foldl (fun u t => u.commitGroup n.toNat t) s) ∧
    exec (.mwait c g n) s = .next ((s.executing iss g).foldl (fun u t => u.tagWait t (.mwait n.toNat iss.wordPc s.fresh)) s)) ∧
  (∀ (s : State) (t : Thread) (k : Nat) (m : MGroup), s.thread? t.tid = some t → t.matGrp = some m.id → m ∈ s.mgroups →
    (∀ x ∈ s.mgroups, x.id = m.id → x = m) → m.done = false → (∃ c ∈ s.cmds, c.grp = m.id) →
    let u := s.commitGroup k t
    (∀ x ∈ u.mgroups, x.id = m.id → x.closed = some (some k)) ∧ (∀ y ∈ u.threads, y.tid = t.tid → y.matGrp = none) ∧ u.cmds = s.cmds ∧
    ∀ n, s.tagOf t.gid k = (t.core, n) → n < 64 → u.tagAt t.core n = (s.tagAt t.core n).mark) ∧
  -- no command of the thread is left: the tag's operation begins and ends, and the tag is ready unless others are outstanding on it
  (∀ (s : State) (t : Thread) (k : Nat), s.thread? t.tid = some t →
    let x := s.tagOf t.gid k
    let ends (g : Tag) : Tag := { g with ready := decide (g.outstanding = 0) }
    let ended (u : State) : State := u.modCore x.1 fun c => { c with tags := c.tags.setIfInBounds x.2 (ends (c.tags[x.2]?.getD Tag.clear)) }
    (t.matGrp = none → s.commitGroup k t = (ended s).wakeTags t.gid) ∧
    ∀ m : MGroup, t.matGrp = some m.id → s.mgroups.find? (fun y => y.id == m.id) = some m → m.gid = t.gid → m.done = false →
      (∀ c ∈ s.cmds, c.grp ≠ m.id) →
      let u : State := { s with threads := s.threads.map fun y => if y.tid = t.tid then { y with matGrp := none } else y }
      (m.fault = none → s.commitGroup k t = (ended { u with mgroups := s.mgroups.filter fun y => y.id != m.id }).wakeTags t.gid) ∧
      (m.fault ≠ none → s.commitGroup k t = (ended { u with mgroups := s.mgroups.map fun y =>
        if y.id = m.id then { y with closed := some (some k), done := true } else y }).wakeTags t.gid)) ∧
  ∀ (s : State) (t : Thread) (n q : Nat) (pc : Word), s.thread? t.tid = some t →
    let mine (m : MGroup) : Bool := m.tid == t.tid && m.closed == some (some n) && m.fault.isSome && !m.reported
    ((s.tagView t.gid).getLsbD n = false → s.tagWait t (.mwait n pc q) = parksFor s t.tid (.mwait n pc q)) ∧
    ((s.tagView t.gid).getLsbD n = true → (∀ m ∈ s.mgroups, mine m = false) → s.tagWait t (.mwait n pc q) = s) ∧
    ∀ m, (s.tagView t.gid).getLsbD n = true → s.mgroups.find? mine = some m → s.tagWait t (.mwait n pc q) =
      ({ s with mgroups := s.mgroups.map fun y => if mine y = true then { y with reported := true } else y } : State).lateFault t.tid
        { seq := q, code := word (0x0E + 2 ^ 16 + t.pass * 2 ^ 24 : Nat), addr := m.fault.getD 0, pc := pc, resume := none }

/-- R260, R265, R268, R270 to R274: a command starts on its unit when it is ready and no earlier one is; TDEF writes its entry or faults with it
cleared, MLDB leaves its slot loaded, and the row commands do one row of 2048 bytes of the accumulator a time; a read that meets an uncorrectable error
faults with cause 0x07 (R277), of the shape table only an entry that a codeword selects. -/
def Obligations.EngineEvents : Prop :=
  (∀ (cmd : Nat) (s : State) (c : Cmd), s.cmd? cmd = some c → s.cmdReady c = true → s.unitFree c = true →
    exec (.engineCommandStart cmd) s = .next (s.startCmd c)) ∧
  ∀ (cmd : Nat) (s : State) (c : Cmd), s.cmd? cmd = some c → c.started = true → s.runningAsid? c.core = some c.asid →
    (s.coreAt c.core).exchange = none → (s.coreAt c.core).restoring = false → c.stop = none →
    (∀ t addr bias, c.kind = .tdef t addr bias →
      let e := Desc.ofEntry (BitVec.ofNat 512 (c.snap[0]?.getD 0))
      let z := s.regionSizes c.gid
      (e.placed bias z.1 z.2 = none → exec (.tdefComplete cmd) s = .next ((s.modCore c.core fun k => k.setTid c.asid t 0).faultCmd c 0x06 t)) ∧
      ∀ x, e.placed bias z.1 z.2 = some x → exec (.tdefComplete cmd) s = .next ((s.modCore c.core fun k => k.setTid c.asid t x.entry).endCmd c)) ∧
    (∀ t slot, c.kind = .mldb t slot →
      let e := s.desc c.core c.asid t
      let r := s.decoderReads c.gid e
      let bad : Prop := s.scratchBad c.gid (recOffset e.data) (bSize e.fmt) = true ∨ s.scratchBad c.gid (recOffset e.scale) 16384 = true ∨
        (e.fmt = 5 ∧ ∃ j, j < 256 ∧ s.scratchBad c.gid (recOffset e.book + 2 * j) 2 = true ∧
          ∃ row ∈ r.1, ∃ n, n < 512 ∧ row / 65536 ^ n % 65536 / 256 = j)
      c.snap = r.1 ++ r.2.1 ++ r.2.2 →
      (bad → exec (.mldbComplete cmd) s = .next ((s.setWslot c.core
        { asid := c.asid, num := slot, st := .empty, fmt := 0, data := [], scale := [], book := [] }).faultCmd c 0x07 t)) ∧
      (¬ bad →
        exec (.mldbComplete cmd) s = .next ((s.setWslot c.core
          { asid := c.asid, num := slot, st := .loaded, fmt := e.fmt, data := r.1, scale := r.2.1, book := r.2.2 }).endCmd c))) ∧
    (∀ a m afirst mfirst slot pa count rows scales, c.kind = .mmq a m afirst mfirst slot pa count →
      c.snap = [rows, scales] ∨ (c.snap = [] ∧ s.rowReads c = [rows, scales]) →
      let x := s.desc c.core c.asid a
      let y := s.desc c.core c.asid m
      let o := recOffset y.data + 2048 * (mfirst + c.progress)
      let acc := s.accumOf c.gid o 2048
      let q := if pa = 0 then x.planes else pa
      let w := s.wslot c.core c.asid slot
      (∀ t, s.rowBad c a m afirst mfirst q = some t → exec (.mmqRow cmd) s = .next (s.faultCmd c 0x07 t)) ∧
      (s.rowBad c a m afirst mfirst q = none → exec (.mmqRow cmd) s = .next ((s.setAccum c.gid o
        (if y.fmt = 6 then mmqFp32 w acc rows scales x.planes q else mmqInt32 w acc rows x.planes q) 2048).rowDone c count))) ∧
    (∀ t first count, c.kind = .mzero t first count →
      exec (.mzeroRow cmd) s =
        .next ((s.setAccum c.gid (recOffset (s.desc c.core c.asid t).data + 2048 * (first + c.progress)) 0 2048).rowDone c count)) ∧
    ∀ t first count out dst grp, c.kind = .mxst t first count out dst → s.group? c.gid = some grp →
      let o := recOffset (s.desc c.core c.asid t).data + 2048 * (first + c.progress)
      let row := s.accumOf c.gid o 2048
      (s.accumBad c.gid o 2048 = true → exec (.mxstRow cmd) s = .next (s.faultCmd c 0x07 t)) ∧
      (s.accumBad c.gid o 2048 = false → out = 0 → exec (.mxstRow cmd) s =
        .next ((s.regionWrite grp.core grp.scratch (dst.toNat % 2 ^ 21 + 2048 * c.progress) row 2048).rowDone c count)) ∧
      (s.accumBad c.gid o 2048 = false → out = 1 ∨ out = 2 → exec (.mxstRow cmd) s = .next ((s.regionWrite grp.core grp.scratch (dst.toNat % 2 ^ 21 + 1024 * c.progress)
        (packRow16 ((List.range 512).map fun i => (convert (if out = 1 then .bf else .h) .s false .rne (row / 2 ^ (32 * i) % 2 ^ 32)).1))
        1024).rowDone c count))

/-- R44: an integer accumulator takes the exact sum of its old value and of the 1024 products of its column, saturated to 32 bits. -/
def Obligations.IntegerRowUpdate : Prop :=
  ∀ (w : WSlot) (acc row planes pa n : Nat), n < 512 →
    let sum : Int := ((List.range 1024).map fun k => aInt row planes pa k * (w.rowAt k)[n]?.getD 0).sum
    elemAt (mmqInt32 w acc row planes pa) n = (ux 32 (max (-2 ^ 31) (min (2 ^ 31 - 1) (sx 32 (elemAt acc n) + sum)))).toNat

/-! ### Barriers -/

/-- R329 to R333: the barrier words check their address and go to the bank; BWAIT, ARRIVEW and NBAR make the thread park-pending until their answer (from their
issue on: log entry 37). -/
def Sys2Proof.Claim.BarrierWords : Prop :=
  ∀ (c : BitVec 1) (g : BitVec 4) (b p : BitVec 6) (s : State),
    let low (iss : Issue) (t : Thread) : Nat := (srcG iss t .zero p).toNat % 2 ^ 16
    let count (iss : Issue) (t : Thread) : Nat := if p = 0 then 1 else low iss t
    let rs : List Reg := [.g b.toNat, .g p.toNat]
    let word' (regs : List Reg) (k : Issue → Thread → OpKind) : State := s.startOps g false false regs fun iss t =>
      (barrierAt s b iss t).map fun a => .plain a (k iss t)
    exec (.binit c g b p) s = .next (word' rs fun iss t => .binit (low iss t)) ∧
    exec (.arrive c g b p) s = .next (word' rs fun iss t => .arrive (count iss t)) ∧
    exec (.binval c g b) s = .next (word' [.g b.toNat] fun _ _ => .binval) ∧
    exec (.bwait c g b p) s = .next (parksOn s .fault (word' rs fun iss t => .bwait (low iss t))) ∧
    exec (.arrivew c g b p) s = .next (parksOn s .fault (word' rs fun iss t => .arrivew (count iss t))) ∧
    exec (.nbar c g p) s = .next (parksOn s .nbar (s.startOps g false false [] fun _ _ => .ok (.plain 0 (.nbar p.toNat))))

/-- R330 to R332: what the bank does with a barrier word of the pool byte w that nothing holds back: BINIT on a free word, ARRIVE and BWAIT on a live
one, BINVAL, and BARRIER_CLOBBER for a BINIT on a live word or with E = 0. BINVAL of a live word clears it; each other thread that is parked on it wakes and takes
BARRIER_CLOBBER where it parked, and an ARRIVEW that has arrived and is not answered yet faults; a wait of the executing thread itself ends (log entry
37). -/
def Sys2Proof.Claim.BarrierBank : Prop :=
  ∀ (id : Nat) (s : State) (o : Op) (w : BarAt), s.op? id = some o → s.gate o = true → s.scratchHeld o = false →
    s.barrierWord? o = some w → s.bankTurn o = false →
    let old := s.poolWord w.byte
    let put (u : State) (v : Nat) : State := { u with pool := { u.pool with bytes := cellsWriteN w.byte v 8 u.pool.bytes } }
    let arrived (u : State) (v : Nat) : State := (put u v).noteArrivals w [o.gid]
    let release := s.fenceEffect o.tid o.seq o.core o.asid (if w.grp.core = o.core then 1 else 2) true false
    (∀ e, o.kind = .binit e → s.isLive w.byte = false → e ≠ 0 → e < 2 ^ 16 →
      ∃ t : State, exec (.barrierBankOp id) s = .next (t.dropOp id).pump ∧
        t = { s with pool := { s.pool with bytes := cellsWriteN w.byte e 8 s.pool.bytes, live := setInsert (w.byte / 8) s.pool.live }
                     groups := t.groups } ∧ t.arrivedAt w = []) ∧
    (∀ e, o.kind = .binit e → s.isLive w.byte = true ∨ e = 0 → exec (.barrierBankOp id) s = .next (s.foundFault o 0x0D o.addr).pump) ∧
    (∀ c, o.kind = .arrive c →
      let s1 := release
      let r := arrivals (s1.poolWord w.byte) c
      (s1.isLive w.byte = true → c ≠ 0 → r.2 = false → exec (.barrierBankOp id) s = .next (arrived (s1.dropOp id) r.1).pump) ∧
      (s1.isLive w.byte = true → c ≠ 0 → r.2 = true →
        exec (.barrierBankOp id) s = .next ((arrived (s1.dropOp id) r.1).phaseAdvance w).pump) ∧
      (s1.isLive w.byte = true → c = 0 → exec (.barrierBankOp id) s = .next (s1.dropOp id).pump) ∧
      (s1.isLive w.byte = false → exec (.barrierBankOp id) s = .next (s1.faultOp o 0x0D o.addr).pump)) ∧
    (∀ p x, o.kind = .bwait p → s.thread? o.tid = some x → s.isLive w.byte = true →
      (old / 2 ^ 48 % 2 ^ 16 ≠ p → exec (.barrierBankOp id) s = .next ((s.wakeAcquire w.grp.core o.seq x).dropOp id).pump) ∧
      (old / 2 ^ 48 % 2 ^ 16 = p → x.st ≠ .exited → exec (.barrierBankOp id) s =
        .next ((parksFor s o.tid (.barrier w.grp.gid w.off p o.pc o.addr o.seq)).dropOp id).pump) ∧
      (old / 2 ^ 48 % 2 ^ 16 = p → x.st = .exited → exec (.barrierBankOp id) s = .next (s.dropOp id).pump)) ∧
    (∀ p, o.kind = .bwait p → s.isLive w.byte = false → exec (.barrierBankOp id) s = .next (s.faultOp o 0x0D o.addr).pump) ∧
    (∀ c, o.kind = .arrivew c →
      let s1 := release
      (s1.isLive w.byte = false → exec (.barrierBankOp id) s = .next ((s1.faultOp o 0x0D o.addr).answerGroup w o.grpSeq).pump) ∧
      (s1.isLive w.byte = true → exec (.barrierBankOp id) s = .next (((s1.modOp id fun p =>
        { p with kind := .bwait (s1.poolWord w.byte / 2 ^ 48 % 2 ^ 16), st := .performed 0 }).arriveAt w c o.gid).answerGroup w o.grpSeq).pump)) ∧
    (o.kind = .binval → s.isLive w.byte = false → exec (.barrierBankOp id) s = .next (s.dropOp id).pump) ∧
    let cleared : State := { s with pool := { s.pool with live := s.pool.live.filter (· != w.byte / 8) } }
    let nobody : Prop := ∀ t ∈ s.threads, ∀ p ∈ t.parks, waitsOn w p = false
    -- an ARRIVEW at the word that has arrived and that the bank has not answered
    let pends (p : Op) : Prop := p.waiting = false ∧ (∃ q, p.kind = .bwait q) ∧ (s.barrierWord? p).map BarAt.byte = some w.byte
    let mayRest : Prop := ∀ x ∈ s.threads, x.tid = o.tid → x.st = .parked → x.parks ≠ []
    (o.kind = .binval → s.isLive w.byte = true → nobody → mayRest → (∀ p ∈ s.ops, ¬ pends p) →
      exec (.barrierBankOp id) s = .next (cleared.dropOp id).pump) ∧
    (∀ p, o.kind = .binval → s.isLive w.byte = true → nobody → p ∈ s.ops → pends p → p.tid ≠ o.tid → (∀ y ∈ s.ops, pends y → y = p) →
      (s.ops.map Op.id).Nodup →
      exec (.barrierBankOp id) s = .next (((cleared.faultOp p 0x0D p.addr).endPark o.tid (waitsOn w)).dropOp id).pump) ∧
    (o.kind = .binval → s.isLive w.byte = true → (∀ p ∈ s.ops, ¬ pends p) → (s.threads.map Thread.tid).Nodup →
      (∀ x ∈ s.threads, .fault id ∉ x.parks) →
      -- the other waiters wait for nothing else, and may take their trap
      (∀ x ∈ s.threads, x.tid ≠ o.tid → (∃ p ∈ x.parks, waitsOn w p = true) →
        x.st = .parked ∧ x.trapped = false ∧ x.due = [] ∧ s.handlerOf x.gid ≠ 0 ∧ ∃ n pc a q, x.parks = [.barrier w.grp.gid w.off n pc a q]) →
      ∃ t : State, exec (.barrierBankOp id) s = .next t.pump ∧ t = { cleared with threads := t.threads, ops := s.ops.filter fun p => p.id != id } ∧
        t.threads.length = s.threads.length ∧
        ∀ (i : Nat) (x : Thread), s.threads[i]? = some x → ∃ y, t.threads[i]? = some y ∧
          (x.tid = o.tid →
            let ps := x.parks.filter fun p => !waitsOn w p
            y = { x with parks := ps, st := if x.st = .parked ∧ ps = [] then .runnable else x.st }) ∧
          (x.tid ≠ o.tid → (∀ p ∈ x.parks, waitsOn w p = false) → y = x) ∧
          ∀ n pc a q, x.tid ≠ o.tid → x.parks = [.barrier w.grp.gid w.off n pc a q] → y = { x with
            parks := [], st := .runnable, trapped := true, pc := s.handlerOf x.gid, due := [], stopped := false, next := none, rft := false
            trap := { code := word (0x0D + 2 ^ 16 + x.pass * 2 ^ 24 : Nat), addr := a, pc := pc, resume := x.pc } })

/-- R333, R334, R383: a phase of a barrier network completes when every participant that has not exited has arrived: each makes the release and the acquire at
the scope, and wakes. At a scope above the core the kernel must run; at pod scope it must be enrolled, every other member package must have reported, and a plane
must be up, this package reports in its turn, and the reports are then forgotten. That a report is an event of its own, that an arrival makes its release when the
phase completes, and that the report to each other member is a request under the next sequence number, is log entries 37 and 7. -/
def Sys2Proof.Claim.NetworkPhases : Prop :=
  ∀ (id scope : Nat) (s : State) (o : Op) (x : Thread) (os : List Op), s.op? id = some o → o.kind = .nbar scope → s.thread? o.tid = some x →
    let kid := ((s.kernelOf? x.gid).map Kernel.kid).getD 0
    let mayComplete : Prop := scope < 2 ∨ ∃ k, s.kernelOf? x.gid = some k ∧ k.st = .running ∧
      (scope < 5 ∨ ∃ j ∈ s.dev.jobs, j.kid = k.kid ∧ s.planes ≠ [] ∧ ∀ m ∈ j.members, m = s.dev.pkgid ∨ m ∈ j.reports)
    (¬ mayComplete → exec (.nbarPhaseComplete id) s = .next s) ∧
    ((∃ u ∈ s.participants x scope, s.arrival? scope u.tid = none) → exec (.nbarPhaseComplete id) s = .next s) ∧
    (mayComplete → s.leaverPending x scope = false → (s.participants x scope).map (fun u => s.arrival? scope u.tid) = os.map some →
      let s1 := os.foldl (fun s o => s.fenceEffect o.tid o.seq o.core o.asid scope true false) s
      (∀ g k, s1.group? x.gid = some g → s1.kernel? g.kid = some k → k.lr.mode ≠ 1) →
      -- the other members of the kernel's pod jobs, to each of which a report goes
      let others := ((s.dev.jobs.filter fun j => j.kid == kid).map fun j => (j.members.filter (· != s.dev.pkgid)).length).sum
      let reported : State := { s1 with mem := { s1.mem with peerSeq := s1.mem.peerSeq + others } }
      let s2 : State := if scope < 5 then s1 else modDev reported fun d => { d with
        jobs := d.jobs.map fun j => if j.kid = kid then { j with reports := [] } else j }
      exec (.nbarPhaseComplete id) s = .next (os.foldl (fun s o =>
        ((s.fenceEffect o.tid o.seq o.core o.asid scope false true).dropOp o.id).endPark o.tid (· == .nbar o.id)) s2).pump)

/-- R327, R330: an arrival as the bank counts it never goes past E, and a word's fields stay in their places. -/
def Sys2Proof.Claim.ArrivalCounts : Prop :=
  ∀ (w c : Nat), w % 2 ^ 16 ≠ 0 → w / 2 ^ 16 % 2 ^ 16 < w % 2 ^ 16 → w < 2 ^ 64 → w / 2 ^ 32 % 2 ^ 16 = 0 →
    bwArrive w c = arrivals w c ∧ (bwArrive w c).1 % 2 ^ 16 = w % 2 ^ 16 ∧
    (bwArrive w c).1 / 2 ^ 16 % 2 ^ 16 < w % 2 ^ 16 ∧ (bwArrive w c).1 < 2 ^ 64

/-! ### Copies and tags -/

/-- R178, R283 to R286, R289, R290, R292: the words of the copy unit, thread by thread: d, base and the control word take a zero-extended literal, except
the pair of GATHER. The literal in d is zero-extended where R69's table has a sign extension (R283, log entry 55); GATHER asks for the alignments of R292 alone (log
entry 69). -/
def Sys2Proof.Claim.CopyWords : Prop :=
  ∀ (c : BitVec 1) (g : BitVec 4) (d b p : BitVec 6) (s : State) (iss : Issue), s.cur? = some iss →
    let q := s.fresh
    let rs (t : Thread) : Word := srcG iss t .zero d
    let rz (t : Thread) (x : BitVec 6) : Word := srcG iss t .zero x
    let noTag (s : State) (t : Thread) (k : Nat) : Bool := decide (s.tagCount t.gid ≤ k)
    exec (.copy c g d b p) s = .next (inTurn s iss g (enters iss q fun s t =>
      let w := rz t p
      let lo := fld w 32 4
      let hi := fld w 36 4
      let ring := fld w 40 1 = 1
      copyOf s t w (rs t) (rz t b) (decide (fld w 41 12 ≠ 0 ∨ (ring ∧ ¬ (1 ≤ lo ∧ lo ≤ hi ∧ hi ≤ 8)) ∨ (¬ ring ∧ (lo ≠ 0 ∨ hi ≠ 0))) || noTag s t (fld w 24 6))
        true (some (fld w 24 6)) (.copy (if ring then some (lo, hi) else none)) none)) ∧
    exec (.copym c g d b p) s = .next (inTurn s iss g (enters iss q fun s t =>
      let w := rz t p
      copyOf s t w (rs t) (rz t b) (decide (fld w 36 17 ≠ 0) || noTag s t (fld w 24 6))
        (decide (fld w 31 1 = 1 ∧ fld (rs t) 23 1 = 0 ∧ fld w 32 4 ≠ 0)) (some (fld w 24 6)) (.copym (fld w 32 4)) none)) ∧
    exec (.copyb c g d b p) s = .next (inTurn s iss g (enters iss q fun s t =>
      let w := rz t p
      copyOf s t w (rs t) (rz t b) (decide (fld w 24 6 ≠ 0)) (decide (fld w 31 1 = 1)) none (.copyb (fld w 32 21)) (some (word (fld w 32 21))))) ∧
    exec (.gather c g d b p) s = .next (inTurn s iss g (enters iss q fun s t =>
      let base := t.gr p.toNat
      let w := t.gr (p.toNat + 1)
      let n := fld w 0 13
      let e := [4, 8, 16, 64][fld w 16 2]?.getD 64
      if fld w 13 3 ≠ 0 ∨ fld w 18 6 ≠ 0 ∨ fld w 30 34 ≠ 0 ∨ n = 0 ∨ 4096 < n ∨ noTag s t (fld w 24 6) = true then .error (0x0F, copyAt 0x02 0)
      else placesOk s t [(rs t, e), (rz t b, 4), (base, e)] [base] [(rs t, e * n), (rz t b, 4 * n)]
        { kind := .gather e n (rz t b), dst := rs t, dstS := true, src := base, srcS := false, len := e * n, tag := some (fld w 24 6) })) ∧
    exec (.pfr c g d b p) s = .next (inTurn s iss g (enters iss q fun _ t =>
      let a := rz t b
      if 2 ^ 52 ≤ a.toNat then .error (0x03, a)
      else .ok { kind := .pfr, dst := 0, dstS := false, src := a, srcS := false, len := (rz t p).toNat % 2 ^ 32, tag := some d.toNat }))

/-- R281, R286, R287, R293: a copy that is queued marks its tag and takes an entry; one of length 0 ends at once; it starts when nothing earlier it
depends on is left, and a range prefetch and an idle ring end as their rules say. That a copy reads and writes all of its bytes in one step, at its end, is log
entry 35; a page of it that was denied before ends it in failure then (R291, R339). -/
def Sys2Proof.Claim.CopyEvents : Prop :=
  (∀ (s : State) (iss : Issue) (q : Nat) (t : Thread) (r : CopyReq), r.len ≠ 0 →
    let u := s.queueCopy iss q t r
    ∃ x, u.cpys = s.cpys ++ [x] ∧ x.tid = t.tid ∧ x.kind = r.kind ∧ x.dst = r.dst ∧ x.src = r.src ∧ x.len = r.len ∧ x.tag = r.tag ∧ x.seq = q ∧
      x.pc = iss.wordPc ∧ u.mem = s.mem ∧ u.pool = s.pool ∧
      ∀ k, r.tag = some k → (s.tagOf t.gid k).2 < 64 →
        u.tagAt (s.tagOf t.gid k).1 (s.tagOf t.gid k).2 = (s.tagAt (s.tagOf t.gid k).1 (s.tagOf t.gid k).2).mark) ∧
  (∀ (id : Nat) (s : State) (c : Copy), s.copy? id = some c → c.started = false → s.engineHeld c.tid c.seq = false → s.sourcePending c = false →
    s.copyKnown c = true → s.ringFull c = false → s.footWaits c.core c.asid c.id (s.copyFoot c) = false → exec (.copyStart id) s = .next (s.startCopy c)) ∧
  (∀ (id : Nat) (s : State) (c : Copy), s.copy? id = some c → c.started = true → c.held = none → s.copyHole? c c.places = none →
    (∀ e n i, c.kind ≠ .gather e n i) → c.kind ≠ .pfr → exec (.copyEnd id) s = .next (s.endCopy c c.denied).pump) ∧
  (∀ (id e n : Nat) (i : Word) (s : State) (c : Copy), s.copy? id = some c → c.started = true → c.held = none → c.kind = .gather e n i →
    s.copyHole? c (s.gatherPlaces c e n i) = none → exec (.gatherEnd id) s = .next (s.endGather c c.denied e n i).pump) ∧
  (∀ (id : Nat) (s : State) (c : Copy), s.copy? id = some c → c.kind = .pfr → c.src.toNat + c.len ≤ 2 ^ 52 →
    let lines := (c.src.toNat + c.len + 63) / 64 - c.src.toNat / 64
    -- log entry 35: the lines of a range prefetch are brought in at its end
    let r := s.prefetchGo c (c.src.toNat / 64) none lines
    exec (.pfrEnd id) s = .next (r.1.finishCopy c r.2)) ∧
  ∀ (gid : Nat) (s : State) (grp : Group), s.group? gid = some grp → 8 ≤ grp.ringIdle →
    exec (.ringIdleExpiry gid) s = .next { s with groups := s.groups.map fun g =>
      if g.gid = gid ∧ 8 ≤ g.ringIdle then { g with ring := some (max (g.ring.getD 0 - 1) g.ringLo), ringIdle := 0 } else g }

/-- R288: a copy of one 8-byte word between regions of its own group's scratch writes the word it reads at its source; it reads and writes at its end (log
entry 35). -/
def Sys2Proof.Claim.CopiedWord : Prop :=
  ∀ (s : State) (c : Copy) (grp : Group), c.kind = .copy none → c.srcS = true → c.dstS = true → c.len = 8 →
    s.group? c.gid = some grp → s.scratchGroup? grp c.src = some grp → s.scratchGroup? grp c.dst = some grp →
    (∀ v ∈ s.saved, v.gid ≠ grp.gid) → s.liveOver grp.core grp.scratch (c.dst.toNat % 2 ^ 21) 8 = false →
    s.regionBad grp.core grp.scratch (c.src.toNat % 2 ^ 21) 8 = false →
    s.endCopy c none = (s.regionWrite grp.core grp.scratch (c.dst.toNat % 2 ^ 21)
      (s.regionRead grp.core grp.scratch (c.src.toNat % 2 ^ 21) 8) 8).finishCopy c none

/-- R280 to R282, R294, R295: the tag words; a wait ends at once when the ready bits already satisfy it, and otherwise makes the thread park-pending. -/
def Obligations.TagWords : Prop :=
  (∀ (c : BitVec 1) (g : BitVec 4) (d b : BitVec 6) (s : State) (iss : Issue), s.cur? = some iss →
    let q := s.fresh
    exec (.twaitall c g b) s = .next (inTurn s iss g (onTags iss q b fun s t m => s.tagWait t (.tagAll m iss.wordPc q))) ∧
    exec (.twaitany c g b) s = .next (inTurn s iss g (onTags iss q b fun s t m =>
      if m = 0 then s.reportTags t 0 true iss.wordPc q else s.tagWait t (.tagAny m iss.wordPc q))) ∧
    exec (.tclr c g b) s = .next (inTurn s iss g (onTags iss q b fun s t m =>
      ((List.range 64).filter fun k => m.getLsbD k).foldl (fun s k => s.emptyTag t.gid k) s)) ∧
    exec (.tfirst c g d b) s = .next (landsOr s iss g 4 [.g b.toNat] fun t =>
      let m := srcG iss t .zero b
      if (List.range 64).any (fun i => decide (s.tagCount t.gid ≤ i) && m.getLsbD i) then .error (.mk2 0x0F (copyAt 0x02 0))
      else .ok [.g d.toNat (word (((List.range 64).find? fun i => (iss.tagsRd &&& m).getLsbD i).getD 64 : Nat))])) ∧
  ∀ (s : State) (t : Thread) (m pc : Word) (q : Nat),
    (s.tagView t.gid &&& m ≠ m → s.tagWait t (.tagAll m pc q) = parksFor s t.tid (.tagAll m pc q)) ∧
    (m ≠ 0 → s.tagView t.gid &&& m = 0 → s.tagWait t (.tagAny m pc q) = parksFor s t.tid (.tagAny m pc q)) ∧
    (s.tagView t.gid &&& m = m → (∀ k, k < s.tagCount t.gid → (s.tagAt (s.tagOf t.gid k).1 (s.tagOf t.gid k).2).err = none) →
      s.tagWait t (.tagAll m pc q) = s)

/-! ### Kernels, groups, tasks and messages -/

/-- R303: the conditions on a record's fields are those of the rule. -/
def Sys2Proof.Claim.RecordConditions : Prop := ∀ r : LaunchRec, r.fieldsOk = true ↔ recordValid r

/-- R304, R310 to R313: LAUNCH checks its addresses at issue, PROTECTION before alignment (log entry 33); at the dispatcher it makes a release at package scope, reads
its record and writes 0 or 1; a record is accepted or rejected in the order of its die's list. That the record of a LAUNCH is read when its status is made, and that of
a launch packet when the dispatcher takes it, is log entry 40 (DEDUCED); that the records of launch packets are taken over all dies in the order in which the packets
started is log entry 28 (DEDUCED). -/
def Sys2Proof.Claim.Launches : Prop :=
  (∀ (c : BitVec 1) (g : BitVec 4) (d b p : BitVec 6) (s : State),
    exec (.launch c g d b p) s = .next (s.startOps g true false [.g b.toNat, .g p.toNat] fun iss t =>
      let a := srcG iss t .zero b
      let w := srcG iss t .zero p
      if 2 ^ 52 ≤ a.toNat then .error (.mk2 0x03 a)
      else if a.toNat % 64 ≠ 0 then .error (.mk2 0x02 a)
      else if 2 ^ 52 ≤ w.toNat then .error (.mk2 0x03 w)
      else if w.toNat % 8 ≠ 0 then .error (.mk2 0x02 w)
      else .ok (.plain a (.launch d.toNat (if p = 0 then none else some w.toNat))))) ∧
  (∀ (id d : Nat) (done : Option Nat) (s : State) (o : Op) (ws : List Word), s.op? id = some o → o.kind = .launch d done → s.gate o = true →
    s.launchTurn o = false → s.releaseStuck o.core o.asid 4 = false →
    let s1 := s.fenceEffect o.tid o.seq o.core o.asid 4 true false
    let die := o.core / 128
    s1.readRec die o.asid o.addr.toNat = .ok ws →
    (s1.recOk die o.asid ws = false → exec (.launchStatus id) s = .next (s1.faultOp o 0x12 o.addr).pump) ∧
    (s1.recOk die o.asid ws = true → (s1.launches.filter fun l => l.die == die).length < 1024 → exec (.launchStatus id) s =
      .next ((listed s1 { die := die, asid := o.asid, recAddr := o.addr.toNat, src := .launch done, origin := s1.originOf o.gid,
                          lr := some (LaunchRec.ofWords ws), held := none }).finishOp o 0 [.g d 0]).pump) ∧
    (s1.recOk die o.asid ws = true → 1024 ≤ (s1.launches.filter fun l => l.die == die).length →
      exec (.launchStatus id) s = .next (s1.finishOp o 0 [.g d 1]).pump)) ∧
  ∀ (die : Nat) (s : State) (l : LaunchReq), s.launches.find? (fun x => x.die == die) = some l →
    let packet (x : LaunchReq) : Prop := ∃ q i, x.src = .queue q i
    (l.held ≠ none → exec (.kernelRecordAccept die) s = .next s) ∧
    -- log entry 28: a packet that started earlier is still to be accepted, on this die or another
    (∀ pre x post, packet l → x ≠ l → s.launches = pre ++ x :: post → (∀ y ∈ pre, ¬ packet y) → packet x → exec (.kernelRecordAccept die) s = .next s) ∧
    (l.held = none → (packet l → ∃ pre post, s.launches = pre ++ l :: post ∧ ∀ y ∈ pre, ¬ packet y) →
    let s1 (k : Kernel) : State := { s with launches := s.launches.erase l, kernels := s.kernels ++ [k], fresh := s.fresh + 1 }
    -- log entry 40: a LAUNCH's record has been read, a packet's is read now
    (∀ r, l.lr = some r → exec (.kernelRecordAccept die) s = .next (s1 (accepted s l r .queued))) ∧
    ∀ ws, l.lr = none → s.readRec die l.asid l.recAddr = .ok ws →
      (l.recAddr % 64 = 0 ∧ s.recOk die l.asid ws = true →
        exec (.kernelRecordAccept die) s = .next (s1 (accepted s l (LaunchRec.ofWords ws) .queued))) ∧
      ∀ q i, l.src = .queue q i → ¬ (l.recAddr % 64 = 0 ∧ s.recOk die l.asid ws = true) →
        exec (.kernelRecordAccept die) s = .next (modQ (s1 (accepted s l (LaunchRec.ofWords ws) .rejected)) q fun x =>
          { x with started := x.started.map fun p => if p.idx = i then { p with ended := true, cause := 2 } else p }))

/-- R201, R304 to R309, R311, R312, R314, R315, R317, R324: placing a group on the first core that can take it, handler groups first, starting it after the L1
reclaim with the acquire that its launch asks for, its retirement and its kernel's. That a group starts and retires only while its context runs on the core is log
entry 39; that a completion word's page fault has a record of kind 2 with core 0 and no lanes is log entry 72 (DESIGN CHOICE); that the retirement waits while a
write-through of the context, or one that its cores' L1s still owe, has its way closed is log entry 48 (DEDUCED); that the device's add asks no permission is log
entry 75. -/
def Sys2Proof.Claim.GroupEvents : Prop :=
  (∀ (s : State) (k : Kernel), let s0 := s.amsgs.foldl State.tryHandler s
    (s0.nextKernel? = none → exec .groupPlace s = .next s0) ∧
    (s0.nextKernel? = some k → s0.offer k = none → exec .groupPlace s = .next s0) ∧
    ∀ core f, s0.nextKernel? = some k → s0.offer k = some (core, f) →
      exec .groupPlace s = .next (modDev (s0.placeGroup k k.nextGroup core f) fun d => { d with rotation := (core % 128 * 4 + core / 128 + 1) % 512 })) ∧
  -- log entry 39: while the context runs there
  (∀ (id : Nat) (s : State) (g : Group), s.group? id = some g → g.st = .placed → s.runningAsid? g.core = some g.asid →
    ∃ t, exec (.groupStart id) s = .next t ∧ (∀ h ∈ t.groups, h.gid = id → h.st = .running) ∧
      (∀ c ∈ t.cohorts, c.gid = id → c.spare = false → c.formed = true) ∧
      ∀ k, s.kernel? g.kid = some k →
        -- R309: no line of the group's granules is left in the L1; except before a handler, whose acquire (R325) drops lines of its own, every other one stays
        (∀ l ∈ (t.coreAt g.core).l1, l.granule ∉ g.regs ++ g.scratch ++ g.accum) ∧
        ((∀ m n, k.src ≠ .handler m n) → ∀ l ∈ (s.coreAt g.core).l1, l.granule ∉ g.regs ++ g.scratch ++ g.accum → l ∈ (t.coreAt g.core).l1) ∧
        -- R311, R325: the threads read no copy that was filled before now
        ((∀ m n, k.src = .handler m n → 4 ≤ n) → ∀ x ∈ t.threads, x.gid = id → s.fresh ≤ x.acq)) ∧
  -- log entry 39 again
  (∀ (id : Nat) (s : State) (g : Group), s.group? id = some g → g.st = .running ∨ g.st = .retiring → s.cohortsOver id = true →
    s.runningAsid? g.core = some g.asid →
    (s.groupQuiet id = false → exec (.groupRetire id) s =
      .next { s with groups := s.groups.map fun h => if h.gid = id then { h with st := .retiring } else h }) ∧
    (s.groupQuiet id = true → ∃ t, exec (.groupRetire id) s = .next t ∧ (∀ h ∈ t.groups, h.gid ≠ g.gid) ∧ (∀ x ∈ t.threads, x.gid ≠ g.gid) ∧
      (∀ x ∈ t.cohorts, x.gid ≠ g.gid) ∧
      ∀ w ∈ t.pool.live, ¬ (8 * w / 2 ^ 21 = g.core ∧ 8 * w % 2 ^ 21 / 2 ^ 14 ∈ g.regs ++ g.scratch ++ g.accum))) ∧
  ∀ (id : Nat) (s : State) (k : Kernel), s.kernel? id = some k → k.st = .draining →
    -- R312, R358: the completion word's page fault, and a write-through that cannot reach its home (log entry 48), hold the kernel
    let s0 := k.ranOn.foldl (fun u c => u.cleanL1 c (·.asid == k.asid)) s
    ((k.held ≠ none ∨ ∃ w ∈ s0.mem.wts, w.asid = k.asid ∧ s0.wtStuck w = true) → exec (.kernelRetire id) s = .next s) ∧
    (k.held = none → (∀ w ∈ s0.mem.wts, w.asid = k.asid → s0.wtStuck w = false) →
    -- the record's kind, core and lanes: log entry 72
    (∀ a l mf, k.src = .launch (some a) → s.translate 0 k.asid a false = .none l mf →
      let r := s.putFault { asid := k.asid, seq := 0, va := a, kind := 2, level := l, mf := mf, core := 0, lanes := 0, passes := 0, count := 1 }
      exec (.kernelRetire id) s = .next { r.1 with kernels := r.1.kernels.map fun x => if x.kid = id then { x with held := some r.2 } else x }) ∧
    let s1 := (s.settleKernel k).writeCounts k
    let s2 : State := { s1 with kernels := s1.kernels.map fun x => if x.kid = id then { x with st := .retired, held := none } else x }
    (∀ q i, k.src = .queue q i → exec (.kernelRetire id) s = .next (modQ s2 q fun x =>
      { x with started := x.started.map fun p => if p.idx = i then { p with ended := true, cause := if k.errors = [] then 0 else 3 } else p })) ∧
    let s3 := s2.originError k
    (k.src = .launch none → exec (.kernelRetire id) s = .next s3) ∧
    (∀ m n, k.src = .handler m n → exec (.kernelRetire id) s = .next s3) ∧
    (∀ a h, k.src = .launch (some a) → s.placeOf k.asid a = .home h →
      exec (.kernelRetire id) s = .next (adds s3 k.asid a 1)) ∧
    (k.errors = [] ∨ k.origin = none → s3 = s2))

/-- R317 to R321: a task queue is a stack for its own core and gives its oldest entry to a thief: push at the front, pop from the front, steal from the
back; the task word names the core and whether it was stolen. A push is a release and a pop from the own queue an acquire, at core scope. Which core a thief asks is a
free value of the model, `Config.stealVictim`, taken modulo the candidates (log entry 15, DESIGN CHOICE): the clause of TQ_STEAL_SERVE holds whichever it is. -/
def Sys2Proof.Claim.TaskQueues : Prop :=
  (∀ (c : BitVec 1) (g : BitVec 4) (d : BitVec 6) (s : State) (iss : Issue), s.cur? = some iss →
    exec (.tqpush c g d) s = .next (s.startOps g false false [.g d.toNat] fun i t =>
      let v := srcG i t .sign d
      if 4096 ≤ s.taskCount iss.core + ((s.executing iss g).filter fun u => decide (u.idx < t.idx)).length then .error (.mk2 0x13 v)
      else .ok (.plain 0 (.tqpush (v.setWidth 48)))) ∧
    exec (.tqpop c g d) s = .next (s.startOps g true false [] fun _ _ => .ok (.plain 0 (.tqpop d.toNat 0)))) ∧
  ∀ (id : Nat) (s : State) (o : Op), s.op? id = some o →
    let kid := s.kidOf o
    let mine := (s.coreAt o.core).tasks kid
    (∀ v, o.kind = .tqpush v → s.gate o = true → s.serves o.core o.asid = true →
      let s1 := s.fenceEffect o.tid o.seq o.core o.asid 1 true false
      exec (.tqPushApply id) s = .next ((s1.modCore o.core fun c => c.setTasks kid (v :: c.tasks kid)).dropOp id).pump) ∧
    (∀ d v rest, o.kind = .tqpop d 0 → o.st = .queued → s.popTurn o = false → s.serves o.core o.asid = true → mine = v :: rest →
      exec (.tqPopServe id) s = .next (((s.modCore o.core fun c => c.setTasks kid rest).fenceEffect o.tid o.seq o.core o.asid 1 false true).modOp o.id fun p =>
        { p with st := .performed (v.toNat + o.core % 128 * 2 ^ 48) })) ∧
    -- log entry 15: the victim is a free value
    (∀ d n v, o.kind = .tqpop d (n + 1) → o.st = .queued → n < 8 → s.victims o ≠ [] →
      let thief := (s.victims o)[Config.stealVictim id (n + 1) % (s.victims o).length]?.getD o.core
      s.serves thief o.asid = true → ((s.coreAt thief).tasks kid).getLast? = some v →
      exec (.tqStealServe id) s = .next ((s.modCore thief fun c => c.setTasks kid ((s.coreAt thief).tasks kid).dropLast).modOp o.id fun p =>
        { p with st := .performed (v.toNat + thief % 128 * 2 ^ 48 + 2 ^ 62) })) ∧
    ∀ d n v, o.kind = .tqpop d n → o.st = .performed v → exec (.tqpopReply id) s = .next (s.finishOp o 0 [.g d (word v)])

/-- R322 to R325: AMSEND's checks; a message that reaches its core is kept with its payload and answered 0, and answered 1 where 64 entries stand; the
oldest entry of a core becomes a group of one cohort with the payload as its arguments. To a peer package it is a request (R381, R382), whose status is a free value
below 3 (log entry 21) that comes with the acknowledgement, and which without a plane ends UNCORRECTABLE (log entry 7). That 64 entries (status 1) are looked for before the
handler (status 2), and which context is bound to the sender's pod job, is log entry 22. -/
def Sys2Proof.Claim.ActiveMessages : Prop :=
  (∀ (c : BitVec 1) (g : BitVec 4) (d b p : BitVec 6) (s : State),
    exec (.amsend c g d b p) s = .next (s.startOps g true false [.g b.toNat, .g p.toNat] fun iss t =>
      let a := srcG iss t .zero b
      let w := srcG iss t .zero p
      if fld w 19 5 ≠ 0 ∨ fld w 30 34 ≠ 0 then .error (.mk2 0x13 a)
      else match ownAt s t a with
        | .ok a => .ok (.plain a (.amsend d.toNat w.toNat))
        | .error x => .error (.mk2 x.1 x.2))) ∧
  (∀ (id d : Nat) (w : Word) (s : State) (o : Op), s.op? id = some o → o.kind = .amsend d w.toNat → s.gate o = true → s.amTurn o = false →
    let core := fld w 7 2 * 128 + fld w 0 7
    let scope := amScope s o.core (Target.ofWord w)
    let s1 := s.fenceEffect o.tid o.seq o.core o.asid scope true false
    s.payloadAway o = false → s.releaseStuck o.core o.asid scope = false → s1.dev.pkgid = fld w 9 10 → 64 ≤ (s1.amsgs.filter fun m => m.core == core).length →
    exec (.amArrival id) s = .next (s1.modOp o.id fun p => { p with st := .performed 1 }).pump) ∧
  (∀ (id d : Nat) (w : Word) (s : State) (o : Op) (x : Ctx) (r : LaunchRec), s.op? id = some o → o.kind = .amsend d w.toNat → s.gate o = true →
    s.amTurn o = false →
    let core := fld w 7 2 * 128 + fld w 0 7
    let scope := amScope s o.core (Target.ofWord w)
    let s1 := s.fenceEffect o.tid o.seq o.core o.asid scope true false
    s.payloadAway o = false → s.releaseStuck o.core o.asid scope = false → s1.dev.pkgid = fld w 9 10 → (s1.amsgs.filter fun m => m.core == core).length < 64 → s1.boundCtx? o.gid o.asid = some x →
    s1.handlerRec? (fld w 7 2) x (fld w 24 6) = some r →
    ∃ m, exec (.amArrival id) s =
          .next (({ s1 with amsgs := s1.amsgs ++ [m], fresh := s1.fresh + 1 } : State).modOp o.id fun p => { p with st := .performed 0 }).pump ∧
      m.core = core ∧ m.asid = x.asid ∧ m.handler = fld w 24 6 ∧ m.lr = r ∧ m.origin = s1.originOf o.gid ∧ m.scope = scope ∧
      m.payload = (List.range 8).map (fun i => word (s1.scratchOf o.gid (o.addr.toNat % 2 ^ 21 + 8 * i) 8 : Nat)) ∧
      m.sender = word (o.core % 128 + o.core / 128 * 2 ^ 7 + s1.dev.pkgid * 2 ^ 9 : Nat)) ∧
  (∀ (id d : Nat) (w : Word) (s : State) (o : Op), s.op? id = some o → o.kind = .amsend d w.toNat → s.gate o = true → s.amTurn o = false →
    s.payloadAway o = false → s.dev.pkgid ≠ fld w 9 10 →
    (s.scaleUp = false → exec (.amArrival id) s = .next (s.faultOp o 0x14 o.addr).pump) ∧
    let scope := amScope s o.core (Target.ofWord w)
    let s1 := s.fenceEffect o.tid o.seq o.core o.asid scope true false
    (s.scaleUp = true → s.releaseStuck o.core o.asid scope = false → ∃ v, v < 3 ∧ exec (.amArrival id) s = .next (({ s1 with mem := { s1.mem with
      peerSeq := s1.mem.peerSeq + 1
      unacked := s1.mem.unacked ++ [{ id := o.id, pkg := fld w 9 10, plane := s1.planeOf (o.addr.toNat / 64), line := o.addr.toNat / 64,
                                      seq := s1.mem.peerSeq }] } } : State).modOp o.id fun p => { p with st := .performed v }).pump)) ∧
  (∀ (id d n v : Nat) (s : State) (o : Op), s.op? id = some o → o.kind = .amsend d n → o.st = .performed v →
    ((∀ r ∈ s.mem.unacked, r.id ≠ o.id) → exec (.amsendStatus id) s = .next (s.finishOp o 0 [.g d (word v)])) ∧
    ((∃ r ∈ s.mem.unacked, r.id = o.id) →
      let u : State := { s with mem := { s.mem with unacked := s.mem.unacked.filter fun x => x.id != o.id } }
      (s.planes ≠ [] → exec (.amsendStatus id) s = .next (u.finishOp o 0 [.g d (word v)])) ∧
      (s.planes = [] → exec (.amsendStatus id) s = .next (u.faultOp o 0x14 o.addr)))) ∧
  ∀ (id : Nat) (s : State) (m : AMsg), s.amsgs.find? (fun x => x.id == id) = some m →
    let lr := m.lr.handler (m.payload ++ [m.sender])
    ((∃ x ∈ s.amsgs, x.core = m.core ∧ x.id < m.id) → exec (.handlerGroupPlace id) s = .next s) ∧
    (s.fit? lr s.fresh 0 m.core = none → exec (.handlerGroupPlace id) s = .next s) ∧
    ∀ f, (∀ x ∈ s.amsgs, x.core = m.core → m.id ≤ x.id) → s.fit? lr s.fresh 0 m.core = some f →
      let k := newKernel s.fresh m.asid 0 lr (.handler m.id m.scope) m.origin .placing
      exec (.handlerGroupPlace id) s = .next
        (({ s with kernels := s.kernels ++ [k], fresh := s.fresh + 1, amsgs := s.amsgs.filter fun x => x.id != id } : State).placeGroup k 0 m.core f)

/-! ### Contexts -/

/-- R335 to R338: assigning a slot, asking for a switch, the exchange, the restore of weight slots, eviction, saving and loading, creation and
destruction of a context. That the eviction of an idle context leaves nothing to save, and that images are taken at the eviction while the granules stay until the
save completes, is log entry 39; that a slot's lastActive is 0 when it is assigned is log entry 57 (DESIGN CHOICE); that the exchange has its length, of 1 to 64 cycles,
as an operand, by which the clock goes on, is log entry 10 (DESIGN CHOICE). -/
def Obligations.ContextEvents : Prop :=
  -- log entry 57: lastActive := 0
  (∀ (core slot asid : Nat) (s : State) (c : Ctx), s.ctx? asid = some c → core < 512 → slot < 3 →
    (∀ x ∈ (s.coreAt core).slots, x.num ≠ slot ∧ x.asid ≠ asid) →
    exec (.contextSlotAssign core slot asid) s = .next ((s.modCore core fun k => { k with slots := k.slots ++
      [{ num := slot, asid := asid, st := if (∃ v ∈ c.savedOn, v.1 = core) then .loading else .ready, active := .replicate 8 none, pending := [],
         ready := [], swapping := [], lastActive := 0 }] }).switchOn core)) ∧
  (∀ (core asid : Nat) (s : State) (x y : Slot), (s.coreAt core).switchReq = [] → (s.coreAt core).slots = [x, y] → x.st = .running →
    x.asid ≠ asid → y.asid = asid → y.st = .ready → (s.coreAt core).exchange = none →
    exec (.contextSwitchRequest core asid) s =
      .next ((s.modCore core fun k => { k with slots := [{ x with st := .stopping }, y], switchReq := [asid] }).stopEngine core x.asid)) ∧
  (∀ (core asid : Nat) (s : State) (x y : Slot), (s.coreAt core).switchReq = [asid] → (s.coreAt core).slots = [x, y] → x.st = .stopping →
    x.asid ≠ asid → y.asid = asid → y.st = .ready → (s.coreAt core).exchange = none → (∀ i ∈ s.issues, i.core ≠ core) →
    (s.engineStopped core x.asid = false → exec (.switchExchangeBegin core) s = .next s) ∧
    (s.engineStopped core x.asid = true → exec (.switchExchangeBegin core) s =
      .next (s.modCore core fun k => { k with slots := [{ x with st := .exchanging }, y], switchReq := [], exchange := some asid }))) ∧
  -- log entry 10: the length of the exchange is an operand
  (∀ (core cycles asid : Nat) (s : State) (x y : Slot), (s.coreAt core).switchReq = [] → (s.coreAt core).slots = [x, y] → x.st = .exchanging →
    x.asid ≠ asid → y.asid = asid → y.st = .ready → (s.coreAt core).exchange = some asid → 1 ≤ cycles → cycles ≤ 64 →
    let loaded := (s.coreAt core).wslots.any fun w => w.asid == asid && w.st != .empty
    let s1 := (s.setClock core ((s.coreAt core).clock + cycles)).modCore core fun k =>
      { k with slots := [{ x with st := .ready }, { y with st := .running }], exchange := none, restoring := loaded }
    exec (.switchExchangeEnd core cycles) s = .next (if loaded = true then s1 else s1.resumeEngine core asid).pump) ∧
  (∀ (core : Nat) (s : State), let s1 := s.modCore core fun k => { k with restoring := false }
    ((s.coreAt core).restoring = false → exec (.weightSlotRestoreDone core) s = .next s1) ∧
    ∀ x, (s.coreAt core).restoring = true → (s.coreAt core).runner? = some x → exec (.weightSlotRestoreDone core) s =
      .next (if x.st = .running then s1.resumeEngine core x.asid else s1)) ∧
  (∀ (core asid : Nat) (s : State) (x : Slot), s.slotOf? core asid = some x → x.st = .ready → (s.coreAt core).switchesTo asid = false →
    (s.idleOn core asid = true → exec (.contextEvict core asid) s =
      .next (s.modCore core fun k => { k with slots := k.slots.filter fun y => y.asid != asid })) ∧
    (s.idleOn core asid = false → ∃ t, exec (.contextEvict core asid) s = .next t ∧ t.saved = s.saved ++ (s.ctxGroups core asid).map s.imageOf ∧
      t.pool = s.pool ∧ ∀ y ∈ (t.coreAt core).slots, y.asid = asid → y.st = .saving)) ∧
  (∀ (core asid : Nat) (s : State) (x : Slot), s.slotOf? core asid = some x → x.st = .saving →
    ∃ t, exec (.contextSaveComplete core asid) s = .next t ∧ (∀ y ∈ (t.coreAt core).slots, y.asid ≠ asid) ∧
      ∀ c ∈ t.ctxs, c.asid = asid → (core, x) ∈ c.savedOn) ∧
  (∀ (core asid : Nat) (s : State) (x : Slot) (c : Ctx), s.slotOf? core asid = some x → s.ctx? asid = some c → x.st = .loading →
    let vs := s.saved.filter fun v => v.core == core && v.asid == asid
    let old := ((c.savedOn.find? (·.1 == core)).map (·.2)).getD x
    ((s.freeGranules core).length < s.loadNeed core vs → exec (.contextLoadComplete core asid) s = .next s) ∧
    (s.loadNeed core vs ≤ (s.freeGranules core).length → exec (.contextLoadComplete core asid) s =
      .next ((((vs.foldl State.restoreGroup s).modSlot core asid fun y => { old with num := y.num, st := .ready }).modCtx asid
        fun c => { c with savedOn := c.savedOn.filter fun v => v.1 != core }).switchOn core).pump)) ∧
  (∀ (asid ptDie ptBase : Nat) (handler : Word) (table : List Nat) (walkArea monArea saveArea fbBase fbLog : Nat) (s : State),
    1 ≤ asid → asid < 2 ^ 16 → 10 ≤ fbLog → fbLog ≤ 20 → (∀ c ∈ s.ctxs, c.asid = asid → c.alive = false) →
    ∃ t, exec (.contextCreate asid ptDie ptBase handler table walkArea monArea saveArea fbBase fbLog) s = .next t ∧
      t.ctx? asid = some { asid := asid, ptDie := ptDie, ptBase := ptBase, handler := handler, table := table.take 64, walkArea := walkArea,
                           monArea := monArea, saveArea := saveArea, fbBase := fbBase, fbLog := fbLog, fbRead := 0, fbWrite := 0, fbDone := 0, fbSeq := 0,
                           fbOverflow := false, fbHeld := [], savedOn := [], alive := true } ∧
      (∀ k ∈ t.cores, (∀ e ∈ k.tids, e.1.1 ≠ asid) ∧ ∀ w ∈ k.wslots, w.asid ≠ asid) ∧ t.mem = s.mem) ∧
  ∀ (asid : Nat) (s : State) (c : Ctx), s.ctx? asid = some c →
    ∃ t, exec (.contextDestroy asid) s = .next t ∧ t.ctx? asid = none ∧
      -- the answers of peers that its operations waited for are waited for no longer
      t.mem = { s.mem with unacked := s.mem.unacked.filter fun r => (s.op? r.id).map Op.asid != some asid } ∧ (∀ o ∈ t.ops, o.asid ≠ asid) ∧
      (∀ g ∈ t.groups, g.asid ≠ asid) ∧ (∀ k ∈ t.kernels, k.asid ≠ asid) ∧ ∀ k ∈ t.cores, ∀ x ∈ k.slots, x.asid ≠ asid

/-! ### Queues and bulk queues -/

/-- R366, R371, R372: registering, mapping, waking, unmapping and destroying a host command queue, and the end of a time slice: what each leaves in the
queue and in its header, whose line is marked where its reading meets an uncorrectable error (R363). A mapping takes the token word and the done index from the header.
The conditions of a registration, the wake word that a mapping sets to 0, and the steps of an unmapping taken as one are log entry 27; that a header is used as it stands,
whatever the reading of it meets, is log entry 58. -/
def Sys2Proof.Claim.QueueSlots : Prop :=
  (∀ (die hdr asid : Nat) (s : State) (c : Ctx), die < 4 → hdr % 64 = 0 → s.ctx? asid = some c → s.inDevice asid hdr = true →
    s.homeRead asid (hdr + 24) 8 / 2 ^ 16 % 2 ^ 16 = asid → (s.queues.filter fun q => q.die == die && q.st != .destroyed).length < 1024 →
    ∃ q, exec (.queueRegister die hdr asid) s =
        .next (putHw { s.meetRead asid hdr with queues := s.queues ++ [q], fresh := s.fresh + 1 } q 4 0) ∧
      q.die = die ∧ q.hdr = hdr ∧ q.asid = asid ∧ q.st = .created ∧ q.slot = none ∧ q.tokens = 0 ∧ q.doneIdx = hw s q 1 ∧ q.started = []) ∧
  (∀ (id slot : Nat) (s : State) (q : HQueue), s.queue? id = some q → q.slot = none → slot < 32 → s.queueInSlot? q.die slot = none →
    let placed (x : HQueue) : HQueue :=
      { x with slot := some slot, st := .mapped, since := s.fresh, listed := false, tokens := word (hw s q 4), doneIdx := hw s q 1 }
    let u := modQ (putHw (s.meetRead q.asid q.hdr) q 5 0) id placed
    exec (.queueMap id slot) s = .next (({ u with fresh := u.fresh + 1 } : State).settleQueue id)) ∧
  (∀ (id : Nat) (s : State) (q : HQueue), s.queue? id = some q → q.slot ≠ none →
    (∀ k, q.slot = some k → exec (.queueWake id) s = .next (((putHw (s.meetRead q.asid q.hdr) q 5 0).settleQueue id).eventLine q.die k)) ∧
    exec (.queueDestroy id) s = .next (s.hostEvent evQueueRefused id 0) ∧
    let s1 := putHw (putHw (s.meetRead q.asid q.hdr) q 4 q.tokens.toNat) q 1 q.doneIdx
    exec (.queueUnmap id) s = .next (modQ (putHw s1 q 5 0) q.id fun x => { x with slot := none, st := .unmapped, listed := hw s1 q 5 != 0 })) ∧
  (∀ (id : Nat) (s : State) (q : HQueue), s.queue? id = some q → q.slot = none →
    exec (.queueDestroy id) s = .next (modQ s id fun x => { x with st := .destroyed, started := [], listed := false })) ∧
  ∀ (die : Nat) (s : State), 32 ≤ (s.queues.filter fun q => q.die == die && q.slot.isSome).length →
    (∃ q ∈ s.queues, q.die = die ∧ s.queueWaits q = true) →
    ∃ q ∈ s.queues, q.die = die ∧ q.slot ≠ none ∧ (∀ x ∈ s.queues, x.die = die → x.slot ≠ none → q.since ≤ x.since) ∧
      exec (.queueSlotTimeslice die) s = .next (s.unmapQueue q)

/-- R367 to R369: the packets of a queue start in the order of their indexes once their wait tokens are set; a malformed one fails at once with
cause 0x01. The add of a signal is a release: the packet waits while a write-through that it covers has its way closed (R188, log entry 48). That it is found out at the
start, and the permissions that the accesses at word A need, is log entry 28; that an uncorrectable error there fails the packet with cause 4, and that a packet that
cannot be read counts as malformed, is log entry 58. -/
def Sys2Proof.Claim.QueuePackets : Prop :=
  ∀ (id i : Nat) (s : State) (q : HQueue), s.queue? id = some q →
    let w (k : Nat) : Nat := s.pktWord q.asid q.hdr i k
    (canStart s q i 1 → s.launchOpen q.die = true → exec (.queueLaunch id i) s = .next (started (listed s
      { die := q.die, asid := q.asid, recAddr := w 3, src := .queue id i, origin := some (id, i), lr := none, held := none }) q i false 0)) ∧
    (canStart s q i 1 → s.launchOpen q.die = false → exec (.queueLaunch id i) s = .next (started s q i false 0)) ∧
    (canStart s q i 2 → exec (.queueCopy id i) s = .next (started s q i false 0)) ∧
    (∀ h, canStart s q i 3 → s.wordMeet q (w 3) atomicOk true = .home h → s.frameExists h.node h.addr = true →
      (s.drainStuck q.die q.asid 5 = true → exec (.queueSignal id i) s = .next (started s q i false 0)) ∧
      (s.drainStuck q.die q.asid 5 = false →
        exec (.queueSignal id i) s = .next ((adds (s.drainDie q.die q.asid) q.asid (w 3) (w 4)).startPkt q i true 0))) ∧
    (∀ h, canStart s q i 4 → s.wordMeet q (w 3) peRD true = .home h → s.frameExists h.node h.addr = true →
      exec (.queueWait id i) s = .next (started s q i false 0)) ∧
    (canStart s q i 5 → w 3 = 0 → exec (.queueMarker id i) s = .next (started s q i true 0)) ∧
    (∀ h, canStart s q i 5 → w 3 ≠ 0 → s.wordMeet q (w 3) peWR false = .home h → s.frameExists h.node h.addr = true →
      ∃ u : State, u = s.homeWrite q.asid (w 3) 8 (w 4) ∧ exec (.queueMarker id i) s = .next (u.startPkt q i true 0)) ∧
    (∀ h, canStart s q i 6 → s.wordMeet q (w 3) peWR false = .home h → s.frameExists h.node h.addr = true →
      exec (.queueTimestamp id i) s = .next (started s q i true 0)) ∧
    (∀ r ∈ [(3, Instr.queueSignal id i, atomicOk, true), (4, .queueWait id i, peRD, true), (5, .queueMarker id i, peWR, false),
        (6, .queueTimestamp id i, peWR, false)], canStart s q i r.1 → r.1 ≠ 5 ∨ w 3 ≠ 0 →
      (s.wordMeet q (w 3) r.2.2.1 r.2.2.2 = .wait → exec r.2.1 s = .next (started s q i false 0)) ∧
      ∀ c, s.wordMeet q (w 3) r.2.2.1 r.2.2.2 = .bad c → exec r.2.1 s =
        .next (if c = 5 then (s.meetErrorAt q.die q.asid (w 3) r.2.2.1).startPkt q i true 4 else started s q i true 4)) ∧
    (∀ r ∈ [(1, Instr.queueLaunch id i), (2, .queueCopy id i), (3, .queueSignal id i), (4, .queueWait id i), (5, .queueMarker id i),
        (6, .queueTimestamp id i)],
      s.mayStart q i = true → s.pktType q.asid q.hdr i = r.1 → s.queueBad q i = true → exec r.2 s = .next (started s q i true 1))

/-- R367 to R370: a wait packet ends when its word has reached the value; a packet whose effect has ended completes, with its tokens, its V bit, its
cause and the done index. The launch packets that found no room enter the launch lists in the order in which they started. How far the timestamp has gone on at a
read of it is a free value (log entry 18). -/
def Sys2Proof.Claim.QueueCompletions : Prop :=
  ∀ (id i : Nat) (s : State) (q : HQueue), s.queue? id = some q →
    let w (k : Nat) : Nat := s.pktWord q.asid q.hdr i k
    (∀ h, (∃ p ∈ q.started, p.idx = i ∧ p.ended = false) → s.pktType q.asid q.hdr i = 4 → s.wordMeet q (w 3) peRD true = .home h →
      s.frameExists h.node h.addr = true →
      (w 4 ≤ s.homeRead q.asid (w 3) 8 → exec (.queueWaitSatisfied id i) s = .next (modQ (s.podAcquire q.die q.asid) id fun x =>
        { x with started := x.started.map fun p => if p.idx = i then { p with ended := true, cause := 0 } else p })) ∧
      (¬ w 4 ≤ s.homeRead q.asid (w 3) 8 → exec (.queueWaitSatisfied id i) s = .next s)) ∧
    (∀ p, q.started.find? (fun x => x.idx == i) = some p → p.done = false → p.held = none →
      (p.cause ≠ 0 → exec (.queuePacketComplete id i) s = .next (s.finishPkt q i p.cause)) ∧
      (p.cause = 0 → p.ended = true → s.pktType q.asid q.hdr i ≠ 6 → exec (.queuePacketComplete id i) s = .next (s.finishPkt q i 0)) ∧
      (p.cause = 0 → p.ended = false → s.pktType q.asid q.hdr i = 4 ∨ (s.pktType q.asid q.hdr i = 1 ∧ s.unlisted q p = false) →
        exec (.queuePacketComplete id i) s = .next s) ∧
      (p.cause = 0 → p.ended = false → s.pktType q.asid q.hdr i = 1 → s.unlisted q p = true →
        ((s.launches.filter fun l => l.die == q.die).length < 1024 →
          (∀ x ∈ s.queues, ∀ y ∈ x.started, s.unlisted x y = true → (x, y) ≠ (q, p) → p.since < y.since) →
          exec (.queuePacketComplete id i) s = .next (listed s
            { die := q.die, asid := q.asid, recAddr := w 3, src := .queue q.id i, origin := some (q.id, i), lr := none, held := none })) ∧
        ((1024 ≤ (s.launches.filter fun l => l.die == q.die).length ∨ ∃ x ∈ s.queues, ∃ y ∈ x.started, s.unlisted x y = true ∧ y.since < p.since) →
          exec (.queuePacketComplete id i) s = .next s)) ∧
      (∀ h, p.cause = 0 → p.ended = false → s.pktType q.asid q.hdr i = 3 → s.wordMeet q (w 3) atomicOk true = .home h →
        s.frameExists h.node h.addr = true →
        (s.drainStuck q.die q.asid 5 = true → exec (.queuePacketComplete id i) s = .next s) ∧
        (s.drainStuck q.die q.asid 5 = false →
          exec (.queuePacketComplete id i) s = .next ((adds (s.drainDie q.die q.asid) q.asid (w 3) (w 4)).finishPkt q i 0))) ∧
      (∀ h, p.cause = 0 → p.ended = false → s.pktType q.asid q.hdr i = 5 → w 3 ≠ 0 → s.wordMeet q (w 3) peWR false = .home h →
        s.frameExists h.node h.addr = true →
        exec (.queuePacketComplete id i) s = .next ((s.homeWrite q.asid (w 3) 8 (w 4)).finishPkt q i 0)) ∧
      (∀ h, p.cause = 0 → s.pktType q.asid q.hdr i = 6 → s.wordMeet q (w 3) peWR false = .home h → s.frameExists h.node h.addr = true →
        let t := (s.dev.timestamp + Config.elapsed s.fresh) % 2 ^ 64
        let u : State := { s with dev := { s.dev with timestamp := t }, fresh := s.fresh + 1 }
        exec (.queuePacketComplete id i) s = .next ((u.homeWrite q.asid (w 3) 8 t).finishPkt q i 0)) ∧
      ∀ c u, p.cause = 0 → p.ended = false → s.pktType q.asid q.hdr i = 2 →
        let m : Move := { die := q.die, asid := q.asid, dst := w 3, src := w 4, len := w 5, fill := none, sig := 0 }
        s.runMove m q.id none = .over u c → s.copyHole? (m.asCopy 0) m.places = none →
        exec (.queuePacketComplete id i) s = .next (u.finishPkt q i (if c = 0 then 0 else 0x10 + c)))

/-- R297 to R299: a bulk queue registers, wakes, starts its packets in order while fewer than 16 run, and completes each: the signal's add, V and cause,
the done index; the add is a release, and the packet waits for it while a write-through that it covers has its way closed (R188, log entry 48). The conditions of a
registration are log entry 27; that a packet which cannot be read counts as malformed is log entry 58. -/
def Sys2Proof.Claim.BulkQueues : Prop :=
  (∀ (die hdr asid : Nat) (s : State) (c : Ctx), die < 4 → hdr % 64 = 0 → s.ctx? asid = some c → s.inDevice asid hdr = true →
    (s.bulks.filter fun b => b.die == die).length < 256 →
    ∃ b, exec (.bulkQueueRegister die hdr asid) s = .next { s.meetRead asid hdr with bulks := s.bulks ++ [b], fresh := s.fresh + 1 } ∧ b.die = die ∧ b.hdr = hdr ∧
      b.asid = asid ∧ b.doneIdx = s.homeRead asid (hdr + 8) 8 ∧ b.nextIdx = b.doneIdx ∧ b.running = []) ∧
  (∀ (id : Nat) (s : State), exec (.bulkEngineWake id) s =
    .next { s with bulks := s.bulks.map fun b => if b.id = id then { b with awake := true } else b }) ∧
  (∀ (id : Nat) (s : State) (b : BulkQ), s.bulk? id = some b → b.awake = true → (b.running.filter fun p => !p.done).length < 16 →
    (s.bulkReady b = false → exec (.bulkPacketStart id) s =
      .next { s with bulks := s.bulks.map fun x => if x.id = id then { x with awake := false } else x }) ∧
    (s.bulkReady b = true → let u := s.meetPkt b.asid b.hdr b.nextIdx
      exec (.bulkPacketStart id) s = .next { u with bulks := u.bulks.map fun x =>
        if x.id = id then { x with running := x.running ++ [startedPkt x.nextIdx s.fresh false 0], nextIdx := x.nextIdx + 1 } else x })) ∧
  (∀ (id i : Nat) (s : State) (b : BulkQ) (p : Pkt), s.bulk? id = some b →
    b.running.find? (fun p => p.idx == i && !p.done && p.held.isNone) = some p →
    let m := s.bulkMove b i
    (p.ended = false → s.bulkBad b i = true → s.copyHole? (m.asCopy 0) m.sigPlaces = none →
      exec (.bulkPacketComplete id i) s = .next (s.signalBulk b i 0x08 none)) ∧
    (p.ended = true → s.copyHole? (m.asCopy 0) (if s.bulkBad b i then m.sigPlaces else m.places) = none →
      exec (.bulkPacketComplete id i) s = .next (s.signalBulk b i p.cause none)) ∧
    ∀ u c, p.ended = false → s.bulkBad b i = false → s.copyHole? (m.asCopy 0) m.places = none → s.runMove m b.id none = .over u c →
      exec (.bulkPacketComplete id i) s = .next (u.signalBulk b i c none)) ∧
  ∀ (s : State) (b : BulkQ) (i c : Nat), let m := s.bulkMove b i
    s.copyHolds (m.asCopy 0) none m.sigPlaces = none →
      let waits : Prop := m.sigPlaces ≠ [] ∧ s.sigCause m none = 0 ∧ s.drainStuck b.die b.asid 5 = true
      (¬ waits → s.signalBulk b i c none = s.finishBulk b m i c none) ∧
      (waits → s.signalBulk b i c none = { s with bulks := s.bulks.map fun x => if x.id = b.id then { x with
        running := x.running.map fun p => if p.idx = i then { p with ended := true, cause := c } else p } else x })

/-! ### Pages and the host -/

/-- R356, R357, R360, R361, R363, R364, R377: the page commands of a well-formed word 0: the effect, then completion in the order of their ring, of INVAL, PURGE and BIAS
when the write-throughs of their range have arrived; a command that needs a table or a frame whose stack is not trained keeps its place in the ring with its words; without
a leaf MOVE and BIAS are refused, and so they are where a table's line has an uncorrectable error (log entry 73), which is marked; another code or a set reserved bit
refuses each with an event and nothing else. That each command is one step, where the words of SCRUB stand, and what MOVE refuses is log entry 29; the types of the events
are log entry 23. -/
def Sys2Proof.Claim.PageCommands : Prop :=
  (∀ (w3 : Word) (words : List Nat) (s : State),
    (s.kiln.pages = [] → (w3.toNat < 2 ^ 52 → s.placeOf 0 w3.toNat ≠ .wait) → s.endPageCmd (pageCmd w3 words) = completed s w3 words) ∧
    ∀ c rest, s.kiln.pages = c :: rest → s.pagePending c = true →
      s.endPageCmd (pageCmd w3 words) = { s with kiln := { s.kiln with pages := c :: rest ++ [pageCmd w3 words] } }) ∧
  ∀ (asid : Nat) (w0 w1 w2 w3 : Word) (s : State), asid < 2 ^ 16 →
    let ends (u : State) : State := u.endPageCmd (pageCmd w3 [1])
    -- the command completes when the write-throughs of a range that are on their way have arrived
    let ranged (u : State) (a n : Nat) : State :=
      u.endPageCmd { pageCmd w3 [1] with wts := (u.mem.wts.filter fun w => lineIn asid a n w.asid w.line).map WriteThrough.id }
    -- the command keeps its place in the ring, and its words
    let held (code : Nat) : State := s.endPageCmd { pageCmd w3 [1] with todo := some (cmdWord code asid, w1, w2, w3) }
    let refused (u : State) : State := u.hostEvent evPageRefused asid w1.toNat
    (w1.toNat < 2 ^ 52 →
      (s.leaf? asid w1.toNat = .none → exec (.move (cmdWord 3 asid) w1 w2 w3) s = .next (refused s) ∧
        (w2.toNat ≤ 1 → exec (.bias (cmdWord 4 asid) w1 w2 w3) s = .next (refused s))) ∧
      (∀ n a, s.leaf? asid w1.toNat = .bad n a → exec (.move (cmdWord 3 asid) w1 w2 w3) s = .next (refused (s.meetLine n a)) ∧
        (w2.toNat ≤ 1 → exec (.bias (cmdWord 4 asid) w1 w2 w3) s = .next (refused (s.meetLine n a)))) ∧
      (reaches s w3 → s.leaf? asid w1.toNat = .wait → exec (.move (cmdWord 3 asid) w1 w2 w3) s = .next (held 3) ∧
        (w2.toNat ≤ 1 → exec (.bias (cmdWord 4 asid) w1 w2 w3) s = .next (held 4)))) ∧
    (reaches s w3 →
    (w1.toNat < 2 ^ 52 →
      exec (.inval (cmdWord 1 asid) w1 w2 w3) s = .next (ranged (s.invalRange asid w1.toNat w2.toNat) w1.toNat w2.toNat).pump ∧
      exec (.purge (cmdWord 2 asid) w1 w2 w3) s = .next (ranged (s.purgeRange asid w1.toNat w2.toNat) w1.toNat w2.toNat).pump) ∧
    (∀ l, s.leaf? asid w1.toNat = .leaf l → w1.toNat < 2 ^ 52 →
      (s.moveBad l w2 = false → s.frameExists (peNode l.entry) (peFrame l.entry * 2 ^ 12 + l.size - 64) = true →
        (s.moveOpen l w2 = false → exec (.move (cmdWord 3 asid) w1 w2 w3) s = .next (held 3)) ∧
        (∀ u, s.moveOpen l w2 = true → s.movePage asid w1.toNat l w2 = (u, none) →
          exec (.move (cmdWord 3 asid) w1 w2 w3) s = .next (ends u).pump) ∧
        ∀ u a, s.moveOpen l w2 = true → s.movePage asid w1.toNat l w2 = (u, some a) →
          exec (.move (cmdWord 3 asid) w1 w2 w3) s = .next (ends (u.hostEvent evMoveAborted asid a)).pump) ∧
      (w2 = 1 → let u := s.purgeRange asid l.base l.size
        exec (.bias (cmdWord 4 asid) w1 w2 w3) s = .next (ranged (({ u with mem := u.mem.writeLeaf l w1.toNat (l.entry ||| 0x4000) } : State).invalRange
          asid l.base l.size) l.base l.size).pump) ∧
      (w2 = 0 → exec (.bias (cmdWord 4 asid) w1 w2 w3) s = .next (ranged (({ s with mem := s.mem.writeLeaf l w1.toNat (l.entry &&& ~~~0x4000) } :
        State).invalRange asid l.base l.size) l.base l.size).pump)) ∧
    (s.ctx? asid ≠ none →
      exec (.replay (cmdWord 5 asid) w1 w2 w3) s = .next ((s.replay asid w2.toNat).endPageCmd
        { pageCmd w3 [1] with asid := asid, upTo := w2.toNat, waits := (s.heldOps asid w2.toNat).filter fun i => s.walks.all fun w => w.op != i }).pump ∧
      (w1.toNat < 2 ^ 52 → w2 = 0 → exec (.deny (cmdWord 6 asid) w1 w2 w3) s = .next (ends (s.deny asid (w1.toNat / 4096))).pump)) ∧
    (w1.toNat < 2 ^ 36 → w2.toNat < 4 →
      let die := w2.toNat
      let e := physKey die (w1.toNat * 4096) / 2 ^ 21
      let answers (v : Nat) (m : Mem) : Prop := exec (.dget (cmdWord 7 asid) w1 w2 w3) s =
        .next (({ s with mem := m } : State).endPageCmd (pageCmd w3 ((List.range 8).map fun i => v / 2 ^ (64 * i) % 2 ^ 64))).pump
      -- where the driver has placed no side table the bits stand beside memory (log entry 50)
      (s.mem.sideAt die = none →
        answers (((s.mem.dirtyMap.find? fun x => x.1 == e).map (·.2)).getD 0) { s.mem with dirtyMap := s.mem.dirtyMap.filter fun x => x.1 != e }) ∧
      ∀ base, s.mem.sideAt die = some base →
        let a := base + 64 * (w1.toNat / 512)
        (s.stackTrained die base = true → answers (s.mem.rd die a 64) ((s.meetLine die a).mem.wr die a 64 0)) ∧
        (s.stackTrained die base = false → exec (.dget (cmdWord 7 asid) w1 w2 w3) s = .next (held 7))) ∧
    (let die := fld w1 36 2
     let a := fld w1 0 36 * 4096
     let n := w2.toNat * 4096
     fld w1 38 26 = 0 → w2 = 0 ∨ s.frameExists die (a + n - 64) = true →
      (w2 = 0 ∨ (s.stackTrained die a = true ∧ s.stackTrained die (a + n - 64) = true) →
        exec (.scrub (cmdWord 8 asid) w1 w2 w3) s = .next (ends { s with mem := s.mem.scrub (physKey die a) n }).pump) ∧
      (w2 ≠ 0 → ¬ (s.stackTrained die a = true ∧ s.stackTrained die (a + n - 64) = true) →
        exec (.scrub (cmdWord 8 asid) w1 w2 w3) s = .next (held 8)))) ∧
    ∀ r ∈ [(1, Instr.inval w0 w1 w2 w3), (2, .purge w0 w1 w2 w3), (3, .move w0 w1 w2 w3), (4, .bias w0 w1 w2 w3), (5, .replay w0 w1 w2 w3),
        (6, .deny w0 w1 w2 w3), (7, .dget w0 w1 w2 w3), (8, .scrub w0 w1 w2 w3)],
      fld w0 0 8 ≠ r.1 ∨ fld w0 8 8 ≠ 0 ∨ fld w0 32 32 ≠ 0 → exec r.2 s = .next (s.hostEvent evPageRefused (fld w0 16 16) w1.toNat)

/-- R211, R357, R359, R361, R363, R364, R377, R378: the driver's read index, the migration counters, and the host's accesses to memory: while the host port is up
(log entry 59) a write stores its bytes, or waits for its stack, and a read changes nothing but what it finds unreadable. -/
def Sys2Proof.Claim.DriverAndHost : Prop :=
  (∀ (asid idx : Nat) (s : State) (c : Ctx), s.ctx? asid = some c → c.fbRead < idx → idx ≤ c.fbWrite → c.fbHeld = [] →
    exec (.faultReadIndexAdvance asid idx) s = .next { s with
      ctxs := s.ctxs.map fun x => if x.asid = asid then { x with fbRead := idx, fbDone := max x.fbDone idx, fbHeld := [], fbOverflow := false } else x
      faultRecs := dropRecs asid (idx - c.fbRead) s.faultRecs }) ∧
  (∀ (die : Nat) (s : State), ∃ t, exec (.migrationCounterHalve die) s = .next { s with mem := { s.mem with mig := t } } ∧
    t.length = s.mem.mig.length ∧ ∀ (k : Nat) (m : MigCount), s.mem.mig[k]? = some m → ∃ n, t[k]? = some n ∧ n.die = m.die ∧ n.region = m.region ∧
      n.count = (if m.die = die then m.count / 2 else m.count)) ∧
  ∀ (node addr : Nat) (data : List Byte) (s : State), s.frameExists node addr = true → s.frameExists node (addr + (data.length - 1)) = true →
    let last := addr + (data.length - 1)
    let opened : Prop := node < 4 → s.hostUp = true
    let trained : Prop := node < 4 → s.stackTrained node addr = true ∧ s.stackTrained node last = true
    (¬ opened → ∀ w, exec (.hostMemoryAccess node addr w data) s = .next s) ∧
    (opened → ¬ trained → exec (.hostMemoryAccess node addr false data) s = .next s ∧
      exec (.hostMemoryAccess node addr true data) s = .next { s with mem := { s.mem with late := s.mem.late ++ [.host node addr data] } }) ∧
    (opened → trained →
      (∃ p l, exec (.hostMemoryAccess node addr false data) s = .next { s with mem := { s.mem with poison := p, latent := l } } ∧
        (∀ k ∈ s.mem.poison, k ∈ p) ∧ (∀ k ∈ s.mem.latent, k ∉ l → k ∈ p ∧ lineKey node addr ≤ k ∧ k ≤ lineKey node last)) ∧
      ∃ t : Mem, exec (.hostMemoryAccess node addr true data) s = .next { s with mem := t, fresh := s.fresh + 1 } ∧
        -- a page of 2 MiB or larger marks its frame in the side table of its die, which is in memory once the driver has placed it (R357)
        ∀ (k : Nat), (∀ base, node < 4 → s.mem.sideAt node = some base → ¬ (physKey node base ≤ k ∧ k < physKey node base + 64 * 81920)) →
          cellsRead t.bytes k = (if h : physKey node addr ≤ k ∧ k - physKey node addr < data.length then data[k - physKey node addr]
            else cellsRead s.mem.bytes k))

/-! ### Kiln and the device -/

/-- R374, R375: Kiln's extension instructions: their results, the register x0, and their exceptions; the entry of an exception is RISC-V's, the model's
choice (log entry 24). That KRFET reads through ASID 0 and raises cause 24 for what cannot be read, an uncorrectable error too, that KDISP's record belongs to the context of
the slot's queue, and that rd is 1 for a packet that may not start or that others precede (R368), is log entry 31. -/
def Sys2Proof.Claim.KilnWords : Prop :=
  ∀ (r2 r1 d : BitVec 5) (s : State),
    let k := s.kilnCore
    let die := s.kilnIdx / 4
    let x (r : BitVec 5) : Word := if r = 0 then 0 else k.x[r.toNat]?.getD 0
    let done (u : State) (v : Word) : State := u.setKiln { k with
      x := (if d = 0 then k.x else k.x.setIfInBounds d.toNat v), pc := k.pc + 4, stalled := none, minstret := k.minstret + 1 }
    let trapAt (u : State) (cause : Nat) (v : Word) : State := u.setKiln { k with
      mcause := word cause, mtval := v, mepc := k.pc, pc := k.mtvec &&& ~~~3, stalled := none
      mstatus := (k.mstatus &&& ~~~0x88) ||| (k.mstatus / 8 % 2 * 128) ||| 0x1800 }
    let trap (cause : Nat) (v : Word) : State := trapAt s cause v
    (x r2 < 2 ^ 15 → (x r2).getLsbD 7 = false →
      exec (.kbfx r2 r1 d) s = .next (done s (word (ux (fLen (x r2)) ((x r1).toNat / 2 ^ fPos (x r2)))))) ∧
    ((x r2 ≥ 2 ^ 15 ∨ (x r2).getLsbD 7 = true) → exec (.kbfx r2 r1 d) s = .next (trap 25 (x r2))) ∧
    -- a table's line with an error, met on the way, is marked (R363)
    let missed (va : Nat) : State := if 2 ^ 52 ≤ va then s else s.meetTable 0 va
    ((x r1).toNat % 64 ≠ 0 ∨ (∃ n a, s.kilnReads (x r1).toNat = .hole n a) → exec (.krfet r2 r1 d) s = .next (trap 24 (x r1))) ∧
    ((x r1).toNat % 64 = 0 → s.kilnReads (x r1).toNat = .absent → exec (.krfet r2 r1 d) s = .next (trapAt (missed (x r1).toNat) 24 (x r1))) ∧
    ((x r1).toNat % 64 = 0 → s.kilnReads (x r1).toNat = .wait → exec (.krfet r2 r1 d) s = .next s) ∧
    (∀ h, (x r1).toNat % 64 = 0 → s.kilnReads (x r1).toNat = .home h → s.unreadable h = true →
      exec (.krfet r2 r1 d) s = .next (trapAt (s.meetError h) 24 (x r1))) ∧
    (∀ h, (x r1).toNat % 64 = 0 → s.kilnReads (x r1).toNat = .home h → s.unreadable h = false →
      let hdr := (x r1).toNat
      let i := (x r2).toNat
      let n := s.homeRead 0 (hdr + 24) 8 % 32
      let a := s.homeRead 0 (hdr + 16) 8 + 64 * (i % 2 ^ n)
      (n < 4 ∨ 16 < n ∨ (∃ m b, s.kilnReads a = .hole m b) → exec (.krfet r2 r1 d) s = .next (trap 24 (x r1))) ∧
      (4 ≤ n → n ≤ 16 → s.kilnReads a = .absent → exec (.krfet r2 r1 d) s = .next (trapAt (missed a) 24 (x r1))) ∧
      (4 ≤ n → n ≤ 16 → s.kilnReads a = .wait → exec (.krfet r2 r1 d) s = .next s) ∧
      (∀ h, 4 ≤ n → n ≤ 16 → s.kilnReads a = .home h → s.unreadable h = true → exec (.krfet r2 r1 d) s = .next (trapAt (s.meetError h) 24 (x r1))) ∧
      (∀ h, 4 ≤ n → n ≤ 16 → s.kilnReads a = .home h → s.unreadable h = false → exec (.krfet r2 r1 d) s = .next (done { s with kiln := { s.kiln with
          sram := cellsWriteN (die * 2 ^ 19 + 0x40000 + 64 * (i % 8)) (s.homeRead 0 a 64) 64 s.kiln.sram } }
        (let w := s.homeRead 0 a 8
         if w % 2 = 1 ∧ w / 2 % 2 = i / 2 ^ n % 2 then word w else 0)))) ∧
    (x r1 = 0 ∨ x r1 ≥ 2 ^ 36 → exec (.kswait r1 d) s = .next (trap 26 (x r1))) ∧
    (x r1 ≠ 0 → x r1 < 2 ^ 36 →
      let ev : Word := s.kiln.events[die]?.getD 0
      (ev &&& x r1 = 0 → exec (.kswait r1 d) s = .next (s.setKiln { k with stalled := some (32 * r1.toNat + d.toNat) })) ∧
      (ev &&& x r1 ≠ 0 → exec (.kswait r1 d) s = .next (done { s with kiln := { s.kiln with
        events := s.kiln.events.setIfInBounds die (ev &&& ~~~ x r1) } } (ev &&& x r1)))) ∧
    ((x r1).toNat % 64 ≠ 0 → exec (.kdisp r2 r1 d) s = .next (trap 27 (x r1))) ∧
    ((x r1).toNat % 64 = 0 → s.queueInSlot? die (fld (x r2) 0 5) = none → exec (.kdisp r2 r1 d) s = .next (trap 27 (x r2))) ∧
    ∀ q, (x r1).toNat % 64 = 0 → s.queueInSlot? die (fld (x r2) 0 5) = some q →
      (1024 ≤ (s.launches.filter fun l => l.die == die).length → exec (.kdisp r2 r1 d) s = .next (done s 1)) ∧
      ((s.launches.filter fun l => l.die == die).length < 1024 →
        let i := fld (x r2) 16 32
        let lists (u : State) : State := listed u
          { die := die, asid := q.asid, recAddr := (x r1).toNat, src := .queue q.id i, origin := some (q.id, i), lr := none, held := none }
        (∀ p, q.started.find? (fun y => y.idx == i) = some p →
          (s.firstUnlisted = some (q, p) → exec (.kdisp r2 r1 d) s = .next (done (lists s) 0)) ∧
          (s.firstUnlisted ≠ some (q, p) → exec (.kdisp r2 r1 d) s = .next (done s 1))) ∧
        ((∀ p ∈ q.started, p.idx ≠ i) →
          (s.firstUnlisted = none → canStart s q i 1 → exec (.kdisp r2 r1 d) s = .next (done (lists (started s q i false 0)) 0)) ∧
          (s.firstUnlisted ≠ none ∨ ¬ canStart s q i 1 → exec (.kdisp r2 r1 d) s = .next (done s 1))))

/-- R374: an event line that no core waits for becomes pending; a core that waits for it takes it, and goes on with the mask of what it got. -/
def Sys2Proof.Claim.KilnEvents : Prop :=
  ∀ (die line : Nat) (s : State), die < 4 → line < 36 →
    let ev : Word := s.kiln.events[die]?.getD 0 ||| (1#64 <<< line)
    ((∀ i, i < 4 → ∀ k, s.kiln.cores[4 * die + i]? = some k → k.stalled = none) →
      exec (.kswaitWake die line) s = .next { s with kiln := { s.kiln with events := s.kiln.events.setIfInBounds die ev } }) ∧
    ∀ (i r d : Nat) (k : KilnCore), i < 4 → s.kiln.cores[4 * die + i]? = some k → k.stalled = some (32 * r + d) → d < 32 → 0 < r → 0 < d →
      k.rd r &&& ev ≠ 0 → (∀ j, j < 4 → j ≠ i → ∀ y, s.kiln.cores[4 * die + j]? = some y → y.stalled = none) →
      exec (.kswaitWake die line) s = .next { s with kiln := { s.kiln with
        events := s.kiln.events.setIfInBounds die (ev &&& ~~~ k.rd r)
        cores := s.kiln.cores.setIfInBounds (4 * die + i)
          { k with x := k.x.setIfInBounds d (ev &&& k.rd r), pc := k.pc + 4, stalled := none, minstret := k.minstret + 1 } } }

/-- R13, R20, R21: the clamps of power and temperature, the clock of a quad, which changes between clauses and between rows of its arrays (log entry 32), and the size of
a remote-data cache while no kernel is resident on its die (log entry 60); lines beyond a smaller size leave the die (log entry 6). -/
def Sys2Proof.Claim.ClampsAndClocks : Prop :=
  ∀ (thermal : Bool) (quad : Nat) (s : State), quad < 128 →
    let becomes (i : Instr) (th : Bool) (f : Clamp → Clamp) : Prop :=
      ∃ cs, exec i s = .next (modDev s fun d => { d with clamps := cs }) ∧ clampsOf s th quad f cs
    becomes .powerLimitExceeded false (fun c => { c with pOn := true, pStep := max 1 c.pStep }) ∧
    becomes (.thermalTrip quad) true (fun c => { c with tOn := true, tStep := max 1 c.tStep }) ∧
    becomes (.clampSecondStep thermal quad) thermal (fun c =>
      if thermal then (if c.tOn ∧ c.tStep = 1 then { c with tStep := 2 } else c)
      else if c.pOn ∧ c.pStep = 1 then { c with pStep := 2 } else c) ∧
    becomes (.clampConditionClear thermal quad) thermal (fun c => if thermal then { c with tOn := false } else { c with pOn := false }) ∧
    becomes (.clampRestore thermal quad) thermal (fun c =>
      if thermal then (if c.tOn then c else { c with tStep := c.tStep - 1 }) else if c.pOn then c else { c with pStep := c.pStep - 1 }) ∧
    ((∀ i ∈ s.issues, i.core / 4 ≠ quad) → (∀ c ∈ s.cmds, c.core / 4 = quad → c.inRow = false) → becomes (.clockChangeApply quad) true (fun c => { c with mhz :=
      (let steps := max c.pStep c.tStep
       if s.dev.service ≠ .full then 350 else if steps = 0 then 700 else if steps = 1 then 525 else 350) })) ∧
    (∀ w, w ≤ 2400 → exec (.powerLimitSet w) s = .next (modDev s fun d => { d with powerLimit := w })) ∧
    ∀ die gib, die < 4 → gib ≤ 32 → (∀ g ∈ s.groups, g.core / 128 = die → g.st = .retired) →
      exec (.rdcSizeSet die gib) s = .next ((List.range 32).foldl (fun u k => u.trimSlice die k 0 0)
        (modDev s fun d => { d with rdcGib := d.rdcGib.setIfInBounds die gib }))

/-- R378 to R380, R382, R383: a link's states, a host module's failure, and enrolment in a pod job. When a scale-up link leaves up, every request that is not acknowledged
is sent again, on the plane that the hash gives over those that are up; when one comes up, those that found no plane are sent (log entry 7). What a training counts and
starts from is log entry 32; the type of a link's event is log entry 23. -/
def Sys2Proof.Claim.LinksAndJobs : Prop :=
  (∀ (i rate : Nat) (s : State) (l : Link), s.dev.links[i]? = some l →
    let put (x : Link) : State := modDev s fun d => { d with links := d.links.setIfInBounds i x }
    let again (which : PeerReq → Bool) (u : State) : State := { u with mem := { u.mem with
      unacked := u.mem.unacked.map fun r => if which r = true then { r with plane := u.planeOf r.line } else r } }
    let lost (x : Link) : State := if l.st = .up ∧ i < 16 then again (fun _ => true) (put x) else put x
    let gained (x : Link) : State := if i < 16 then again (fun r => r.plane == none) (put x) else put x
    (l.st ≠ .down → exec (.linkEnable i) s = .next (put { l with en := true })) ∧
    (l.st = .down → i < 28 → s.dev.service ≠ .full → exec (.linkEnable i) s = .next (put { l with en := true })) ∧
    (l.st = .down → i = 28 ∨ s.dev.service = .full → ∃ t, exec (.linkEnable i) s = .next t ∧
      t.dev.links[i]? = some { l with en := true, st := .training, replays := 0 } ∧ ∀ j, j ≠ i → t.dev.links[j]? = s.dev.links[j]?) ∧
    (l.st = .down → exec (.linkDisable i) s = .next (put { l with en := false, st := .down, rate := 0 }).pump) ∧
    (l.st ≠ .down → exec (.linkDisable i) s = .next ((lost { l with en := false, st := .down, rate := 0 }).hostEvent evLink i 0).pump) ∧
    (l.st = .training → 0 < rate → rate < 256 →
      exec (.linkTrained i rate) s = .next ((gained { l with st := .up, rate := rate }).hostEvent evLink i 2).pump) ∧
    (l.st = .training → exec (.linkTrainingTimeout i) s = .next ((put { l with st := .failed, rate := 0 }).hostEvent evLink i 3)) ∧
    (l.st = .up → exec (.linkLockLoss i) s = .next ((lost { l with st := .failed, rate := 0 }).hostEvent evLink i 3) ∧
      exec (.linkReplayFailure i) s =
        .next ((lost { l with st := .failed, rate := 0, replays := min 65535 (l.replays + 8) }).hostEvent evLink i 3))) ∧
  (∀ (m : Nat) (s : State) (l : Link), s.dev.links[28]? = some l →
    let s1 := modDev s fun d => { d with modules := d.modules.setIfInBounds m false }
    let dead : Prop := l.st = .up ∧ ∀ (k : Nat) (b : Bool), s1.dev.modules[k]? = some b → b = false
    (¬ dead → exec (.hostModuleFail m) s = .next s1) ∧
    (dead → exec (.hostModuleFail m) s =
      .next ((modDev s1 fun d => { d with links := d.links.setIfInBounds 28 { l with st := .failed, rate := 0 } }).hostEvent evLink 28 3))) ∧
  ∀ (job kid : Nat) (members : List Nat) (s : State) (k : Kernel), s.kernel? kid = some k → members.length ≤ 1024 → (∀ m ∈ members, m < 1024) →
    -- a member that stays has reported what it has reported (log entry 37)
    let kept := ((s.dev.jobs.filter fun j => j.job == job).flatMap fun j => j.reports).filter fun m => decide (m ∈ members)
    exec (.podJobEnrol job kid members true) s = .next (modDev s fun d => { d with
      jobs := (d.jobs.filter fun j => j.job != job) ++ [{ job := job, kid := kid, members := members, reports := kept }] }) ∧
    exec (.podJobEnrol job kid members false) s = .next (modDev s fun d => { d with jobs := d.jobs.filter fun j => j.job != job })

/-- R2, R357, R373, R376, R377: power-up, the services, the event ring's reader, the watchdog and register writes. What POWER_GOOD and DEVICE_RESET leave as it was is
log entry 25, the signature check log entry 20, the training of stacks log entry 32, the watchdog's vector and event type log entry 23, and the numbers of the registers
log entry 26. -/
def Sys2Proof.Claim.DeviceEvents : Prop :=
  ∀ (s : State),
    (∃ t, exec .powerGood s = .next t ∧ t.dev = State.reset.dev ∧ t.cores = [] ∧ t.threads = [] ∧ t.kiln = State.reset.kiln ∧ t.mem.tlb = [] ∧
      t.agenda = s.agenda ∧ ∀ a, a < 4 * 2 ^ 52 → cellsRead t.mem.bytes a = 0) ∧
    (∃ t, exec .deviceReset s = .next t ∧ t.dev.service = .maskRom ∧ t.dev.window = true ∧ t.cores = [] ∧ t.threads = [] ∧ t.ctxs = [] ∧
      t.kiln = State.reset.kiln ∧ t.dev.timestamp = s.dev.timestamp) ∧
    (∀ image floor, s.dev.window = true →
      (Config.signatureGood image = true → exec (.imageStartCommand image floor) s =
        .next (modDev s fun d => { d with service := .imageGood, window := false, status := 0, floor := floor, repair := some image })) ∧
      (Config.signatureGood image = false → exec (.imageStartCommand image floor) s =
        .next (modDev s fun d => { d with service := .badImage, status := 0xE1 }))) ∧
    (s.dev.service = .imageGood → ∃ t, exec .reducedServiceBegin s = .next t ∧ t.dev.service = .reduced ∧
      (∀ (i : Nat) (c : Clamp), t.dev.clamps[i]? = some c → c.mhz = 350) ∧ ∀ i, i < 8 → i % 2 = 0 → t.dev.hbm[i]? = some true) ∧
    (∀ st, st < 8 → s.dev.service = .reduced ∨ s.dev.service = .full →
      exec (.hbmStackTrained st) s = .next (modDev s fun d => { d with hbm := d.hbm.setIfInBounds st true }).pump) ∧
    (s.dev.service = .reduced → (∀ (i : Nat) (l : Link), i < 28 → s.dev.links[i]? = some l → l.en = false) →
      exec .fullServiceBegin s = .next (modDev s fun d => { d with service := .full, hbm := .replicate 8 true }).pump) ∧
    (∀ i, s.dev.ring.read < i → i ≤ s.dev.ring.write → exec (.eventRingReadAdvance i) s =
      .next ((List.range 4).foldl (fun u die => u.eventLine die 35) (modDev s fun d => { d with
        ring := { d.ring with read := i, done := max d.ring.done i, entries := d.ring.entries.drop (i - d.ring.read) } }))) ∧
    exec .watchdogHeartbeat s = .next (modDev s fun d => { d with heartbeat := true }) ∧
    ((∀ x ∈ s.dev.irqs, x.1 ≠ 0) → exec .watchdogExpiry s = .next ((modDev s fun d =>
      { d with heartbeat := false, irq := d.irq + 1, irqs := d.irqs ++ [(0, false)] }).hostEvent evWatchdog 0 0)) ∧
    ((∃ x ∈ s.dev.irqs, x.1 = 0) → exec .watchdogExpiry s = .next ((modDev s fun d =>
      { d with heartbeat := false, irqs := d.irqs.map fun x => if x.1 = 0 then (0, true) else x }).hostEvent evWatchdog 0 0)) ∧
    (∀ v : Word, exec (.registerWrite 4 v) s = .next (modDev s fun d => { d with ring := { d.ring with base := v.toNat } }) ∧
      exec (.registerWrite 5 v) s = .next { s with mem := { s.mem with migBase := v.toNat } }) ∧
    -- the side table of a die's dirty bitmaps: 81,920 entries of 64 bytes
    (∀ (v : Word) (i : Nat), i < 4 →
      (v.toNat % 64 = 0 ∧ s.frameExists i (v.toNat + (64 * 81920 - 64)) = true →
        exec (.registerWrite (48 + i) v) s = .next { s with mem := s.mem.placeSide i v.toNat }) ∧
      (¬ (v.toNat % 64 = 0 ∧ s.frameExists i (v.toNat + (64 * 81920 - 64)) = true) → exec (.registerWrite (48 + i) v) s = .next s)) ∧
    (∀ v : Word, v < 65536 → exec (.registerWrite 2 v) s = .next { s with mem := { s.mem with migHigh := v.toNat } } ∧
      exec (.registerWrite 3 v) s = .next { s with mem := { s.mem with migLow := v.toNat } }) ∧
    (∀ v : Word, v ≥ 65536 → exec (.registerWrite 2 v) s = .next s ∧ exec (.registerWrite 3 v) s = .next s) ∧
    (∀ v : Word, 6 ≤ v → v ≤ 16 → exec (.registerWrite 0 v) s =
      .next (modDev s fun d => { d with
        ring := { d.ring with log := v.toNat, read := 0, write := 0, done := 0, seq := 0, dropped := 0, entries := [] } })) ∧
    (∀ v : Word, v < 1024 → exec (.registerWrite 1 v) s = .next (modDev s fun d => { d with pkgid := v.toNat }) ∧
      ∀ (i : Nat) (l : Link), i < 16 → s.dev.links[i]? = some l →
        exec (.registerWrite (16 + i) v) s = .next (modDev s fun d => { d with links := d.links.setIfInBounds i { l with peer := v.toNat } })) ∧
    ∀ (v : Word) (i lo hi : Nat), i < 8 → s.dev.windows[i]? = some (lo, hi) →
      exec (.registerWrite (32 + i) v) s = .next (modDev s fun d => { d with windows := d.windows.setIfInBounds i (v.toNat, hi) }) ∧
      exec (.registerWrite (40 + i) v) s = .next (modDev s fun d => { d with windows := d.windows.setIfInBounds i (lo, v.toNat) })

/-! ### The whole machine -/

/-- R66, R68, R75, R80, R89, R101, R374, R377: a step of a core performs the decoded word at the place of its clause, on the state with the results due
landed and the faults of the whole group found where a group starts, and moves past the word and its literal; a core without a clause starts the clause of
the header it picked; a Kiln core performs the word at its program counter; an event of the environment is performed as it is. What the device does by
itself follows every step. What steps there are and how the agents interleave is the model's (log entries 1 and 2). -/
def Obligations.StepRunsDecoded : Prop :=
  (∀ (s : State) (c : Nat) (rest : List Agent) (iss : Issue) (i : Instr), s.agenda = .core c :: rest → c < 512 → s.inService = true →
    let s0 : State := { ({ s with agenda := rest } : State).dropReserved with turn := c }
    s0.cur? = some iss → decode (iss.wordAt iss.pos) = .ok i →
    let lit := readsLiteral i
    let runs (u : State) : Prop := step s = match exec i u with
      | .next t => .next (t.moveTo c (iss.pos + if lit then 2 else 1) (lit || (iss.wordAt iss.pos).toNat < 2 ^ 31)).afterStep
      | .fault f => .fault f
      | .refused r => .refused r
    (iss.grp ≠ iss.pos → runs s0) ∧
    ∀ k h, iss.grp = iss.pos → s.cohort? iss.cid = some h → s.kernelOf? h.gid = some k → badPlace k.lr iss = none →
      runs ((s0.landGroup iss).settleGroup iss)) ∧
  (∀ (s : State) (iss : Issue), (groupFrom iss.words 3 iss.pos).length < 2 → s.settleGroup iss = s) ∧
  (∀ (s s1 : State) (c : Nat) (rest : List Agent) (p : Pick) (x : Word) (h : Hdr), s.agenda = .core c :: rest → c < 512 → s.inService = true →
    let s0 : State := { ({ s with agenda := rest } : State).dropReserved with turn := c }
    s0.cur? = none → (s0.schedule c).pick c = (s1, some p) → p.head = .hdr x h →
    s1.fetchHole? c p.asid x.toNat (3 * (h.len + 1)) = none → step s = afterOut (exec h.instr s0)) ∧
  (∀ (s : State) (c : Nat) (rest : List Agent) (w : Nat), s.agenda = .core c :: rest → 512 ≤ c → s.dev.service ≠ .maskRom →
    s.dev.service ≠ .badImage →
    let s0 : State := { s with agenda := rest, turn := c }
    s0.kilnCore.stalled = none →
    let s1 := s0.setKiln { s0.kilnCore with mcycle := s0.kilnCore.mcycle + 1 }
    let x : RvWord := { k := s1.kilnCore, w := w, len := 4, raw := w }
    -- w is the word fetched at the program counter
    (∀ go : RvWord → Host.Outcome State Fault Refusal, s1.kilnWord go = go x) →
    (w % 128 = 0x0B → (∀ i, decodeKiln w = some i → step s = afterOut (exec i s1)) ∧
      (decodeKiln w = none → step s = .next (s1.setKiln (s1.kilnCore.trap 2 (word w))).afterStep)) ∧
    (w % 128 ≠ 0x0B → step s = afterOut (x.run s1))) ∧
  (∀ (s : State) (rest : List Agent) (i : Instr), s.agenda = .act i :: rest → encodeNat i = none →
    (s.inService = true ∨ deviceEvent i = true → step s = afterOut (exec i ({ s with agenda := rest } : State).dropReserved)) ∧
    (s.inService = false → deviceEvent i = false → step s = .next ({ s with agenda := rest } : State).afterStep)) ∧
  ∀ (s : State), s.agenda = [] → s.turn < 512 → s.inService = true → s.cur? ≠ none → step s = step { s with agenda := [.core s.turn] }

/-- The words that the manual gives as examples decode to their instructions. -/
def Obligations.DecodeWords : Prop :=
  ∀ x ∈ [(0x76020A32, Instr.amsend 0 0 4 5 6), (0x68020A04, .colof 0 0 4 5 0), (0x68028833, .colr 0 0 5 4 6), (0x7000002F, .cvset 0 0 0 5),
      (0x78000004, .dflush 0 0), (0x640102C0, .fence 0 0 2 1 3), (0x76020A33, .launch 0 0 4 5 6), (0x70010005, .mcommit 0 0 2),
      (0x70030E03, .mldb 0 0 6 7), (0x70041254, .mmq 0 0 8 9 10), (0x70010006, .mwait 0 0 2), (0x78020007, .rdhash 0 0 4), (0x70000002, .sign 0 0 0),
      (0x70020A00, .tdef 0 0 4 5 0), (0x76028001, .tqpop 0 0 5), (0x76020000, .tqpush 0 0 4), (0x70058861, .trd 0 0 11 4 12)],
    decode (BitVec.ofNat 32 x.1) = .ok x.2

/-- R65, R72, R83 to R88, R374: encoding and decoding agree: every well-formed instruction is what its word decodes to. -/
def Obligations.EncodeDecode : Prop := ∀ (i : Instr) (w : Word32), i.wf = true → encode i = some w → decode w = .ok i

/-- R65, R83 to R88: no bit of a word is dropped: a word that decodes is the word of its instruction. -/
def Obligations.WordsHaveOneMeaning : Prop := ∀ (w : Word32) (i : Instr), decode w = .ok i → encode i = some w

/-- R66, R80, R89: a word that only works on registers changes nothing but its threads, and of a thread only the results on their way and, where it
faults, the trap it is due: registers, flags, special registers and the program counter stay until a result lands, and no byte of memory changes. -/
def Obligations.RegisterWordsFrame : Prop :=
  ∀ (i : Instr) (s t : State), registerWord i → exec i s = .next t →
    t = { s with threads := t.threads } ∧ t.threads.length = s.threads.length ∧
    ∀ (k : Nat) (x : Thread), s.threads[k]? = some x → ∃ y, t.threads[k]? = some y ∧ y = { x with lands := y.lands, due := y.due, stopped := y.stopped }

/-- R12, R20, R374, R377 to R379, R12, R254, R305: what reset leaves: no thread, kernel, group, context, queue or operation; the mask ROM runs and the
download window is open; no HBM stack is trained; each die's remote-data cache has its default size; the links' status words are 0; no clamp is
in force. The bounds of the device and the canonical form of its stores hold. Values at reset that the manual does not give are those of log entry 4. -/
def Obligations.ResetValues : Prop :=
  let r := State.reset
  r.threads = [] ∧ r.cohorts = [] ∧ r.groups = [] ∧ r.kernels = [] ∧ r.ctxs = [] ∧ r.queues = [] ∧ r.bulks = [] ∧ r.ops = [] ∧ r.cmds = [] ∧
  r.cpys = [] ∧ r.monitors = [] ∧ r.amsgs = [] ∧ r.walks = [] ∧ r.pool.live = [] ∧ r.mem.poison = [] ∧ r.mem.lineMeta = [] ∧
  r.dev.service = .maskRom ∧ r.dev.window = true ∧ (∀ (i : Nat) (b : Bool), r.dev.hbm[i]? = some b → b = false) ∧
  (∀ (i n : Nat), r.dev.rdcGib[i]? = some n → n = 8) ∧
  (∀ (i : Nat) (l : Link), r.dev.links[i]? = some l → l.st = .down ∧ l.en = false ∧ l.rate = 0 ∧ l.peer = 0 ∧ l.replays = 0) ∧
  (∀ (i : Nat) (c : Clamp), r.dev.clamps[i]? = some c → c.pStep = 0 ∧ c.tStep = 0) ∧ deviceBounds r ∧ storesCanonical r

/-- R13, R20, R22, R374, R378: every step keeps the device's bounds. -/
def Obligations.DeviceBoundsKept : Prop := ∀ (s t : State), deviceBounds s → step s = .next t → deviceBounds t

/-- Every step keeps the machine's stores in canonical form, so that stores with the same bytes are the same data. The canonical form (addresses strictly rising, no
entry 0) and what an unwritten byte reads as are the model's (log entry 5). -/
def Obligations.StoresStayCanonical : Prop := ∀ (s t : State), storesCanonical s → step s = .next t → storesCanonical t

/-! ### The statements made of parts -/

/-- R127, R128, R116 to R119, R109, R345, R398: selection, random numbers, the special registers, and the words that read what the thread and the core
hold. -/
def Obligations.TransferWords : Prop :=
  Claim.SelectionAndReads ∧ Claim.SpecialRegisters

/-- R76, R80, R82, R133: how results reach the registers: a result alone on its way, two results for one register, predicates. -/
def Obligations.ResultsLand : Prop :=
  Claim.GeneralResultLands ∧ Claim.LaterResultPrevails ∧ Claim.PredicateResultLands

/-- R110, R111, R113 to R115, R120: the integer words of two, three and one source, and the shifts by an immediate. -/
def Obligations.IntegerWords : Prop :=
  Claim.IntegerTwoSourceWords ∧ Claim.IntegerAddressAndExtractWords ∧ Claim.IntegerThreeSourceWords ∧ Claim.IntegerOneSourceWords ∧ Claim.IntegerShiftImmediates

/-- R124, R125: the words on predicates, the votes and the ballots. -/
def Obligations.PredicatesAndVotes : Prop :=
  Claim.PredicateWords ∧ Claim.VotesAndBallots

/-- R104, R107, R108, R240, R241: jumps, calls and returns. What the clauses take from the model's own choices is log entry 61, named at each. -/
def Obligations.JumpsCallsAndReturns : Prop :=
  Claim.JumpsAndCalls ∧ Claim.Returns

/-- R66, R67, R74, R80, R108, R109, R116, R119, R133, R341, R345, R346, R395 to R398: the words of the system group. What a clause takes from the model's own
choice is log entry 74, named there. -/
def Obligations.SystemWords : Prop :=
  Claim.CohortMarks ∧ Claim.SpecialRegisterWrites ∧ Claim.TrapWords ∧ Claim.ExitWord

/-- R130 to R137, R141 to R143: the point words that are not flagged. -/
def Obligations.PointWords : Prop :=
  Claim.PointArithmetic ∧ Claim.PointSelections ∧ Claim.PointFunctions

/-- R29, R33: what each rounding mode gives, and the conditions that rounding raises. -/
def Obligations.RoundingModes : Prop :=
  Claim.DirectedRounding ∧ Claim.NearestRounding ∧ Claim.RoundingExceptions

/-- R25, R26, R135: values of a format stay as they are; sums and products are rounded once. -/
def Obligations.RoundedOnce : Prop :=
  Claim.HeldValuesRoundToThemselves ∧ Claim.SumsAndProductsRoundOnce

/-- R31, R32, R139: the results of interval addition and multiplication contain every result on their operands. -/
def Obligations.IntervalResultsContain : Prop :=
  Claim.IntervalSumsContain ∧ Claim.IntervalProductsContain

/-- R77, R79, R196, R392: putting operations under way and finishing them. -/
def Obligations.FlaggedOperations : Prop :=
  Claim.OperationsStart ∧ Claim.OperationsFinish

/-- R157 to R169: the loads, their replies and the values they deliver. What the clauses take from the model's own choices is log entries 7, 33 and 34,
named at each. -/
def Obligations.Loads : Prop :=
  Claim.LoadWords ∧ Claim.LoadedValues ∧ Claim.LoadReplies

/-- R161, R164, R167, R316: what a store leaves in L1 and in a region. -/
def Obligations.StoredBytes : Prop :=
  Claim.StoreThenLoad ∧ Claim.RegionBytes

/-- R134, R158, R160, R162, R276, R316, R328, R354, R392: the events of stores. What the clauses take from the model's own choices is log entry 63, named at
each. -/
def Obligations.StoreEvents : Prop :=
  Claim.ScratchStores ∧ Claim.StoreFaultsAndTranslations

/-- R167, R174 to R180, R183, R188: fences, cache words and their events. What the clauses take from the model's own choices is log entries 7, 33 and 48, named at each: 7
and 48 are DEDUCED. -/
def Obligations.FencesAndCaches : Prop :=
  Claim.FenceAndCacheWords ∧ Claim.CacheEvents

/-- R77, R172, R173, R181, R328, R386 to R392: what the atomics do. What the clauses take from the model's own choices is log entries 7 and 38, both DEDUCED, named at
each. -/
def Obligations.AtomicsPerformed : Prop :=
  Claim.AtomicFunctions ∧ Claim.AtomicEvents ∧ Claim.AtomicAtHome ∧ Claim.AtomicBufferDrains

/-- R178, R210, R217, R219 to R222, R232 to R234, R281 to R293: the object words and the words of the copy unit at issue. What the clauses take from the
model's own choices is log entries 33, 55 and 69, named at each. -/
def Obligations.ObjectAndCopyWords : Prop :=
  Claim.ObjectWords ∧ Claim.CopyWords

/-- R217 to R226, R232 to R234: reference stores at the home, publication walks and colour changes. What the clauses take from the model's own choices is log
entries 7, 48, 52 and 80, named at each. -/
def Obligations.Objects : Prop :=
  Claim.ReferenceStores ∧ Claim.Walks ∧ Claim.ColourLines

/-- R236, R238 to R242, R245: monitors and the threads that wait for them. -/
def Obligations.MonitorEvents : Prop :=
  Claim.MonitorMessages ∧ Claim.MonitorReplies

/-- R66, R73, R75, R94, R95, R346: how a clause starts and ends. -/
def Obligations.ClauseStartsAndEnds : Prop :=
  Claim.ClauseStarts ∧ Claim.ClauseEnds

/-- R196, R258, R263 to R277: the words of the matrix engine and what they queue. What the clauses take from the model's own choices is log entries 36 and 54,
named at each. -/
def Obligations.EngineWordsQueue : Prop :=
  Claim.EngineWords ∧ Claim.CommandsQueue ∧ Claim.CommitAndWait

/-- R326 to R334: barrier words, the bank, and the barrier networks. What the clauses take from the model's own choices is log entries 7 and 37, named at each. -/
def Obligations.Barriers : Prop :=
  Claim.BarrierWords ∧ Claim.BarrierBank ∧ Claim.NetworkPhases ∧ Claim.ArrivalCounts

/-- R178, R281 to R293: the events of copies, and the word that a copy carries. What the clauses take from the model's own choices is log entry 35, named at
each. -/
def Obligations.Copies : Prop :=
  Claim.CopyEvents ∧ Claim.CopiedWord

/-- R201, R300 to R317: launches, kernels and groups. What the clauses take from the model's own choices is log entries 28, 33, 39, 40, 48, 72 and 75, named at
each: 72 and 75 are DESIGN CHOICE, 28, 39, 40 and 48 DEDUCED. -/
def Obligations.KernelsAndGroups : Prop :=
  Claim.RecordConditions ∧ Claim.Launches ∧ Claim.GroupEvents

/-- R317 to R325: task queues and active messages. What the clauses take from the model's own choices is log entries 7, 15, 21 and 22, named at each; the core a thief
asks (15) and the status of a message to a peer (21) are free values. -/
def Obligations.TasksAndMessages : Prop :=
  Claim.TaskQueues ∧ Claim.ActiveMessages

/-- R297 to R299, R366 to R372: host command queues and bulk queues. What the clauses take from the model's own choices is log entries 18, 27, 28, 48, 58
and 75, named at each. -/
def Obligations.CommandAndBulkQueues : Prop :=
  Claim.QueueSlots ∧ Claim.QueuePackets ∧ Claim.QueueCompletions ∧ Claim.BulkQueues

/-- R211, R356 to R364: page commands, the driver and the host. What the clauses take from the model's own choices is log entries 23, 29, 50, 59 and 73,
named at each. -/
def Obligations.PagesAndHost : Prop :=
  Claim.PageCommands ∧ Claim.DriverAndHost

/-- R374, R375: the extension instructions of Kiln and its event lines. What the clauses take from the model's own choices is log entries 24 and 31, named at
each. -/
def Obligations.Kiln : Prop :=
  Claim.KilnWords ∧ Claim.KilnEvents

/-- R2, R13, R20 to R22, R373, R376 to R380, R383: clamps, links, services and registers. What the clauses take from the model's own choices is log entries 6,
7, 20, 23, 25, 26, 32, 37 and 60, named at each. -/
def Obligations.Device : Prop :=
  Claim.ClampsAndClocks ∧ Claim.LinksAndJobs ∧ Claim.DeviceEvents
end

