-- ==== Sys2Proof/Laws/Memory.lean ====
section
/-!
SUPPORT. The byte stores: what a read finds after a write, and that every operation on a store keeps its canonical form.
-/

namespace Sys2Proof.Machine

/-- The canonical form as a property of the list. -/
theorem cellsWf_iff (l : List Host.Cell) :
    cellsWf l = true ↔ l.Pairwise (fun x y => x.1 < y.1) ∧ ∀ c ∈ l, c.2 ≠ emptyByte := by
  induction l with
  | nil => simp [cellsWf]
  | cons c l ih =>
    simp only [cellsWf, Bool.and_eq_true, decide_eq_true_eq, List.all_eq_true, ih, List.pairwise_cons, List.forall_mem_cons]
    tauto

/-- An address below every listed one reads as unwritten. -/
theorem cellsRead_below (a : Nat) (l : List Host.Cell) (h : ∀ c ∈ l, a < c.1) : cellsRead l a = emptyByte := by
  induction l with
  | nil => rfl
  | cons c l ih =>
    obtain ⟨k, b⟩ := c
    have hk := h (k, b) (by simp)
    simp only [cellsRead]
    rw [if_neg (by omega)]
    exact ih fun c hc => h c (by simp [hc])

/-- Every entry of a store after a put is the new one or an old one of another address. -/
theorem mem_cellsPut (a : Nat) (v : Byte) (l : List Host.Cell) (x : Host.Cell) (h : x ∈ cellsPut a v l) : x = (a, v) ∨ x ∈ l := by
  induction l with
  | nil => simpa [cellsPut] using h
  | cons c l ih =>
    obtain ⟨k, b⟩ := c
    simp only [cellsPut] at h
    split at h
    · simpa using h
    · split at h
      · simp only [List.mem_cons] at h ⊢; tauto
      · simp only [List.mem_cons] at h ⊢
        rcases h with h | h
        · tauto
        · have := ih h; tauto

/-- A put keeps addresses rising. -/
theorem cellsPut_pairwise (a : Nat) (v : Byte) (l : List Host.Cell) (h : l.Pairwise fun x y => x.1 < y.1) :
    (cellsPut a v l).Pairwise fun x y => x.1 < y.1 := by
  induction l with
  | nil => simp [cellsPut]
  | cons c l ih =>
    obtain ⟨k, b⟩ := c
    rw [List.pairwise_cons] at h
    simp only [cellsPut]
    split
    · rename_i hlt
      refine List.pairwise_cons.2 ⟨fun x hx => ?_, List.pairwise_cons.2 h⟩
      rcases List.mem_cons.1 hx with rfl | hx
      · exact hlt
      · have := h.1 x hx; simp only at this ⊢; omega
    · split
      · rename_i hne heq
        subst heq
        exact List.pairwise_cons.2 ⟨fun x hx => h.1 x hx, h.2⟩
      · refine List.pairwise_cons.2 ⟨fun x hx => ?_, ih h.2⟩
        rcases mem_cellsPut a v l x hx with rfl | hx
        · simp only; omega
        · exact h.1 x hx

/-- Leaving entries out keeps the canonical form. -/
theorem cellsWf_filter (p : Host.Cell → Bool) (l : List Host.Cell) (h : cellsWf l = true) : cellsWf (l.filter p) = true := by
  rw [cellsWf_iff] at h ⊢
  exact ⟨h.1.filter _, fun c hc => h.2 c (List.mem_of_mem_filter hc)⟩

/-- A write of one byte keeps the canonical form. -/
theorem cellsWf_cellsWrite (a : Nat) (v : Byte) (l : List Host.Cell) (h : cellsWf l = true) : cellsWf (cellsWrite a v l) = true := by
  unfold cellsWrite
  split
  · exact cellsWf_filter _ l h
  · rename_i hv
    rw [cellsWf_iff] at h ⊢
    refine ⟨cellsPut_pairwise a v l h.1, fun c hc => ?_⟩
    rcases mem_cellsPut a v l c hc with rfl | hc
    · exact hv
    · exact h.2 c hc

/-- A write of several bytes keeps the canonical form. -/
theorem cellsWf_cellsWriteN (n a v : Nat) (l : List Host.Cell) (h : cellsWf l = true) : cellsWf (cellsWriteN a v n l) = true := by
  induction n generalizing a v l with
  | zero => exact h
  | succ n ih => exact ih _ _ _ (cellsWf_cellsWrite _ _ _ h)

/-- Writing one byte for each entry of a list keeps the canonical form. -/
theorem cellsWf_foldl_cellsWrite {α : Type} (f : α → Nat) (g : α → Byte) (xs : List α) (l : List Host.Cell) (h : cellsWf l = true) :
    cellsWf (xs.foldl (fun m x => cellsWrite (f x) (g x) m) l) = true := by
  induction xs generalizing l with
  | nil => exact h
  | cons x xs ih => exact ih _ (cellsWf_cellsWrite _ _ _ h)

/-- A read after a put. -/
theorem cellsRead_cellsPut (a : Nat) (v : Byte) (l : List Host.Cell) (b : Nat) :
    cellsRead (cellsPut a v l) b = if b = a then v else cellsRead l b := by
  induction l with
  | nil => simp [cellsPut, cellsRead]
  | cons c l ih =>
    obtain ⟨k, w⟩ := c
    simp only [cellsPut]
    split
    · simp [cellsRead]
    · split
      · rename_i _ h
        subst h
        by_cases hb : b = a <;> simp [cellsRead, hb]
      · rename_i h1 h2
        simp only [cellsRead, ih]
        by_cases hb : b = k
        · subst hb; simp [show ¬ b = a from fun h => h2 h.symm]
        · simp [hb]

/-- A read of a store without the entries of one address. -/
theorem cellsRead_filter (a : Nat) (l : List Host.Cell) (b : Nat) :
    cellsRead (l.filter fun c => c.1 != a) b = if b = a then emptyByte else cellsRead l b := by
  induction l with
  | nil => simp [cellsRead]
  | cons c l ih =>
    obtain ⟨k, w⟩ := c
    by_cases hk : k = a
    · subst hk
      simp only [List.filter_cons, bne_self_eq_false, Bool.false_eq_true, if_false, ih, cellsRead]
      split <;> simp_all
    · have : ((k, w).1 != a) = true := by simpa using hk
      simp only [List.filter_cons, this, if_true, cellsRead, ih]
      by_cases hb : b = k
      · subst hb; simp [hk]
      · simp [hb]

/-- A read after a write: the byte written at its address, every other byte as before. -/
theorem cellsRead_cellsWrite (a : Nat) (v : Byte) (l : List Host.Cell) (b : Nat) :
    cellsRead (cellsWrite a v l) b = if b = a then v else cellsRead l b := by
  unfold cellsWrite
  split
  · rename_i h
    subst h
    exact cellsRead_filter a l b
  · exact cellsRead_cellsPut a v l b

/-- A byte outside those that a write covers reads as before. -/
theorem cellsRead_cellsWriteN_other (n a v : Nat) (l : List Host.Cell) (b : Nat) (h : b < a ∨ a + n ≤ b) :
    cellsRead (cellsWriteN a v n l) b = cellsRead l b := by
  induction n generalizing a v l with
  | zero => rfl
  | succ n ih =>
    simp only [cellsWriteN]
    rw [ih _ _ _ (by omega), cellsRead_cellsWrite, if_neg (by omega)]

/-- Reading bytes that a write does not touch. -/
theorem cellsReadN_congr (n a : Nat) (l m : List Host.Cell) (h : ∀ i, i < n → cellsRead l (a + i) = cellsRead m (a + i)) :
    cellsReadN l a n = cellsReadN m a n := by
  induction n generalizing a with
  | zero => rfl
  | succ n ih =>
    simp only [cellsReadN]
    have h0 := h 0 (by omega)
    rw [Nat.add_zero] at h0
    rw [h0, ih (a + 1) fun i hi => by have := h (i + 1) (by omega); rwa [show a + (i + 1) = a + 1 + i by omega] at this]

/-- What was written is read. -/
theorem cellsReadN_cellsWriteN (n a v : Nat) (l : List Host.Cell) : cellsReadN (cellsWriteN a v n l) a n = v % 256 ^ n := by
  induction n generalizing a v l with
  | zero => simp [cellsReadN, Nat.mod_one]
  | succ n ih =>
    simp only [cellsReadN, cellsWriteN]
    rw [ih, cellsRead_cellsWriteN_other _ _ _ _ _ (by omega), cellsRead_cellsWrite, if_pos rfl]
    rw [BitVec.toNat_ofNat, show (256 : Nat) ^ (n + 1) = 256 * 256 ^ n from by rw [Nat.pow_succ, Nat.mul_comm], Nat.mod_mul]

/-- A number read from n bytes is below 256^n. -/
theorem cellsReadN_lt (n a : Nat) (l : List Host.Cell) : cellsReadN l a n < 256 ^ n := by
  induction n generalizing a with
  | zero => simp [cellsReadN]
  | succ n ih =>
    simp only [cellsReadN, Nat.pow_succ]
    have := ih (a + 1)
    have := (cellsRead l a).isLt
    omega

/-- Stores in canonical form that read alike are the same list. -/
theorem cells_ext (l m : List Host.Cell) (hl : cellsWf l = true) (hm : cellsWf m = true) (h : ∀ a, cellsRead l a = cellsRead m a) : l = m := by
  induction l generalizing m with
  | nil =>
    cases m with
    | nil => rfl
    | cons c m =>
      obtain ⟨k, b⟩ := c
      rw [cellsWf_iff] at hm
      exact absurd (h k).symm (by simpa [cellsRead] using hm.2 (k, b) (by simp))
  | cons c l ih =>
    obtain ⟨k, b⟩ := c
    have hl' := (cellsWf_iff _).1 hl
    cases m with
    | nil => exact absurd (h k) (by simpa [cellsRead] using hl'.2 (k, b) (by simp))
    | cons d m =>
      obtain ⟨j, w⟩ := d
      have hm' := (cellsWf_iff _).1 hm
      have pl := List.pairwise_cons.1 hl'.1
      have pm := List.pairwise_cons.1 hm'.1
      have hkj : k = j := by
        by_contra hne
        rcases Nat.lt_or_gt_of_ne hne with hlt | hgt
        · have e := h k
          simp only [cellsRead, if_neg hne] at e
          rw [cellsRead_below k m fun c hc => Nat.lt_trans hlt (pm.1 c hc)] at e
          exact hl'.2 (k, b) (by simp) e
        · have e := h j
          simp only [cellsRead, if_neg (Ne.symm hne)] at e
          rw [cellsRead_below j l fun c hc => Nat.lt_trans hgt (pl.1 c hc)] at e
          exact hm'.2 (j, w) (by simp) e.symm
      subst hkj
      have hb : b = w := by simpa [cellsRead] using h k
      subst hb
      have wl : cellsWf l = true := (cellsWf_iff l).2 ⟨pl.2, fun c hc => hl'.2 c (by simp [hc])⟩
      have wm : cellsWf m = true := (cellsWf_iff m).2 ⟨pm.2, fun c hc => hm'.2 c (by simp [hc])⟩
      rw [ih m wl wm fun a => ?_]
      by_cases ha : a = k
      · subst ha
        rw [cellsRead_below a l fun c hc => pl.1 c hc, cellsRead_below a m fun c hc => pm.1 c hc]
      · have := h a
        simpa [cellsRead, ha] using this

/-! ### The operations on memory -/

/-- Reading back a write at a home. -/
theorem Mem.rd_wr (m : Mem) (node addr n v : Nat) : (m.wr node addr n v).rd node addr n = v % 256 ^ n := cellsReadN_cellsWriteN n _ v _

theorem Mem.wr_wf (m : Mem) (node addr n v : Nat) (h : cellsWf m.bytes = true) : cellsWf (m.wr node addr n v).bytes = true :=
  cellsWf_cellsWriteN _ _ _ _ h

@[simp] theorem Mem.setMeta_bytes (m : Mem) (node addr : Nat) (v : BitVec 32) : (m.setMeta node addr v).bytes = m.bytes := rfl

/-- A bitmap entry is changed in its side table or beside memory (R357). -/
theorem Mem.setDirty_wf (m : Mem) (e v : Nat) (h : cellsWf m.bytes = true) : cellsWf (m.setDirty e v).bytes = true := by
  unfold Mem.setDirty
  split
  · exact Mem.wr_wf _ _ _ _ _ h
  · exact h

theorem Mem.markDirty_wf (m : Mem) (h : Home) (w : cellsWf m.bytes = true) : cellsWf (m.markDirty h).bytes = true := by
  unfold Mem.markDirty
  split
  · exact Mem.setDirty_wf _ _ _ w
  · exact w

/-- A page below 2 MiB has no dirty bits. -/
theorem Mem.markDirty_small (m : Mem) (h : Home) (hb : h.big = false) : m.markDirty h = m := by simp [Mem.markDirty, hb]

/-- What a line's dirty bytes leave of memory at their home in a page below 2 MiB: nothing for an empty mask, otherwise the merged line. -/
theorem Mem.mergeHome_bytes (m : Mem) (h : Home) (data : BitVec 512) (mask : BitVec 64) (kinds : BitVec 32) (hb : h.big = false) :
    (m.mergeHome h data mask kinds).bytes = if mask = 0 then m.bytes else
      (m.wr h.node h.addr 64 (mergeLine (BitVec.ofNat 512 (m.rd h.node h.addr 64)) data mask).toNat).bytes := by
  unfold Mem.mergeHome
  split
  · rfl
  · dsimp only
    rw [Mem.markDirty_small _ _ hb]
    split <;> rfl

theorem Mem.mergeHome_wf (m : Mem) (h : Home) (data : BitVec 512) (mask : BitVec 64) (kinds : BitVec 32) (w : cellsWf m.bytes = true) :
    cellsWf (m.mergeHome h data mask kinds).bytes = true := by
  unfold Mem.mergeHome
  split
  · exact w
  · apply Mem.markDirty_wf
    split <;> exact Mem.wr_wf _ _ _ _ _ w

/-- A fold of changes that each keep the form keeps it. -/
theorem wf_foldl {α β : Type} (p : β → Bool) (f : β → α → β) (hf : ∀ b a, p b = true → p (f b a) = true) (xs : List α) (b : β)
    (h : p b = true) : p (xs.foldl f b) = true := by
  induction xs generalizing b with
  | nil => exact h
  | cons x xs ih => exact ih _ (hf _ _ h)

theorem Mem.writeLeaf_wf (m : Mem) (l : Leaf) (va : Nat) (e : Word) (h : cellsWf m.bytes = true) : cellsWf (m.writeLeaf l va e).bytes = true :=
  wf_foldl (fun m : Mem => cellsWf m.bytes) _ (fun m _ hm => Mem.wr_wf m _ _ _ _ hm) _ m h

theorem Mem.copyFrame_wf (m : Mem) (src dst len : Nat) (h : cellsWf m.bytes = true) : cellsWf (m.copyFrame src dst len).bytes = true :=
  cellsWf_foldl_cellsWrite _ _ _ _ (cellsWf_filter _ _ h)

@[simp] theorem Mem.poisonFrame_bytes (m : Mem) (at' len : Nat) : (m.poisonFrame at' len).bytes = m.bytes := rfl

theorem Mem.scrub_wf (m : Mem) (at' len : Nat) (h : cellsWf m.bytes = true) : cellsWf (m.scrub at' len).bytes = true := cellsWf_filter _ _ h

/-- A fold of changes that leave the bytes alone leaves them alone. -/
theorem Mem.foldl_bytes {α : Type} (f : Mem → α → Mem) (hf : ∀ m a, (f m a).bytes = m.bytes) (xs : List α) (m : Mem) :
    (xs.foldl f m).bytes = m.bytes := by
  induction xs generalizing m with
  | nil => rfl
  | cons x xs ih => exact (ih _).trans (hf _ _)

@[simp] theorem Mem.dataKinds_bytes (m : Mem) (node addr n : Nat) : (m.dataKinds node addr n).bytes = m.bytes := by
  unfold Mem.dataKinds
  split
  · rfl
  · apply Mem.foldl_bytes
    intro _ _
    rfl

theorem Mem.dirtyRange_wf (m : Mem) (k node addr n : Nat) (h : cellsWf m.bytes = true) : cellsWf (m.dirtyRange k node addr n).bytes = true := by
  unfold Mem.dirtyRange
  split
  · exact h
  · exact wf_foldl (fun m : Mem => cellsWf m.bytes) _ (fun m _ hm => Mem.markDirty_wf m _ hm) _ m h

theorem Mem.placeSide_wf (m : Mem) (die base : Nat) (h : cellsWf m.bytes = true) : cellsWf (m.placeSide die base).bytes = true :=
  wf_foldl (fun m : Mem => cellsWf m.bytes) _ (fun m _ hm => Mem.setDirty_wf m _ _ hm) _ _ h

theorem writeBytes_wf (a : Nat) (bs : List Byte) (l : List Host.Cell) (h : cellsWf l = true) : cellsWf (writeBytes a bs l) = true := by
  induction bs generalizing a l with
  | nil => exact h
  | cons b bs ih => exact ih _ _ (cellsWf_cellsWrite _ _ _ h)

/-- What the host's and the peers' memory keeps over a power loss. -/
theorem outsideCells_wf (l : List Host.Cell) (h : cellsWf l = true) : cellsWf (outsideCells l) = true := cellsWf_filter _ _ h

/-! ### The operations on the cores' pools -/

theorem poolWriteN_wf (core : Nat) (gs : List Nat) (n o v : Nat) (p : Pool) (h : cellsWf p.bytes = true) :
    cellsWf (poolWriteN core gs o v n p).bytes = true := by
  induction n generalizing o v p with
  | zero => exact h
  | succ n ih =>
    apply ih
    split
    · exact cellsWf_cellsWrite _ _ _ h
    · exact h

theorem poolStoreN_wf (core : Nat) (gs : List Nat) (n o v lost : Nat) (p : Pool) (h : cellsWf p.bytes = true) :
    cellsWf (poolStoreN core gs o v lost n p).bytes = true := by
  induction n generalizing o v lost p with
  | zero => exact h
  | succ n ih =>
    apply ih
    split
    · split
      · exact h
      · exact cellsWf_cellsWrite _ _ _ h
    · exact h

theorem stplGo_wf (core lane : Nat) (gs : List Nat) (o : Nat) (src : Word) (n : Nat) (p : Pool) (h : cellsWf p.bytes = true) :
    cellsWf (stplGo core lane gs o src n p).bytes = true := by
  induction n with
  | zero => exact h
  | succ n ih =>
    simp only [stplGo]
    split
    · exact ih
    · exact cellsWf_cellsWrite _ _ _ ih

theorem wipe_wf (core : Nat) (gs : List Nat) (l : List Host.Cell) (h : cellsWf l = true) : cellsWf (wipe core gs l) = true := cellsWf_filter _ _ h

theorem Pool.take_wf (p : Pool) (core asid : Nat) (gs : List Nat) (h : cellsWf p.bytes = true) : cellsWf (p.take core asid gs).bytes = true :=
  wipe_wf _ _ _ h

/-! ### The whole state -/

/-- The form of the state is that of its three stores. -/
theorem wf_of_stores (s t : State) (h : Memory.wf s = true) (hm : cellsWf s.mem.bytes = true → cellsWf t.mem.bytes = true)
    (hp : cellsWf s.pool.bytes = true → cellsWf t.pool.bytes = true) (hk : cellsWf s.kiln.sram = true → cellsWf t.kiln.sram = true) :
    Memory.wf t = true := by
  simp only [Memory.wf, Bool.and_eq_true] at h ⊢
  exact ⟨⟨hm h.1.1, hp h.1.2⟩, hk h.2⟩

/-- A change of nothing but the memory, by an operation that keeps the form. -/
theorem wf_mem (s : State) (m : Mem) (h : Memory.wf s = true) (hm : cellsWf s.mem.bytes = true → cellsWf m.bytes = true) :
    Memory.wf { s with mem := m } = true := wf_of_stores s _ h hm id id

/-- A change of nothing but the pools. -/
theorem wf_pool (s : State) (p : Pool) (h : Memory.wf s = true) (hp : cellsWf s.pool.bytes = true → cellsWf p.bytes = true) :
    Memory.wf { s with pool := p } = true := wf_of_stores s _ h id hp id

/-- A read that meets an uncorrectable error (R363) changes no byte. -/
theorem State.meetLine_wf (s : State) (node addr : Nat) (h : Memory.wf s = true) : Memory.wf (s.meetLine node addr) = true := by
  simp only [State.meetLine]
  split
  · exact wf_mem s _ h id
  · exact h

theorem State.meetTable_wf (s : State) (asid va : Nat) (h : Memory.wf s = true) : Memory.wf (s.meetTable asid va) = true := by
  unfold State.meetTable
  split
  · exact State.meetLine_wf _ _ _ h
  · exact h

theorem State.meetRead_wf (s : State) (asid va : Nat) (h : Memory.wf s = true) : Memory.wf (s.meetRead asid va) = true := by
  unfold State.meetRead
  split
  · exact State.meetLine_wf _ _ _ h
  · exact State.meetTable_wf _ _ _ h

/-- A request to a peer (R382) changes no byte of memory, and neither does its record. -/
theorem State.sent_wf (s : State) (r : PeerReq) (wait : Bool) (h : Memory.wf s = true) : Memory.wf (s.sent r wait) = true := wf_mem s _ h id

theorem State.recorded_wf (s : State) (r : PeerReq) (old : Nat) (h : Memory.wf s = true) : Memory.wf (s.recorded r old) = true := wf_mem s _ h id

theorem State.ackPeer_wf (s : State) (id : Nat) (h : Memory.wf s = true) : Memory.wf (s.ackPeer id) = true := wf_mem s _ h fun x => x

theorem State.writePeer_wf (s : State) (x : Home) (line : Nat) (h : Memory.wf s = true) : Memory.wf (s.writePeer x line) = true := by
  unfold State.writePeer
  split
  · exact h
  · exact State.recorded_wf _ _ _ (State.sent_wf _ _ _ h)

/-- A write by the device itself. -/
theorem State.homeWrite_wf (s : State) (asid va n v : Nat) (h : Memory.wf s = true) : Memory.wf (s.homeWrite asid va n v) = true := by
  unfold State.homeWrite
  split
  · exact wf_mem _ _ (s.writePeer_wf _ _ h) (Mem.mergeHome_wf _ _ _ _ _)
  · exact wf_mem s _ h id
  · exact State.meetTable_wf _ _ _ h

/-- A write to a region of a pool. -/
theorem State.regionWrite_wf (s : State) (core : Nat) (gs : List Nat) (o v n : Nat) (h : Memory.wf s = true) :
    Memory.wf (s.regionWrite core gs o v n) = true := wf_pool s _ h (poolWriteN_wf _ _ _ _ _ _)

/-- A word of a pool. -/
theorem State.setPoolWord_wf (s : State) (b v : Nat) (h : Memory.wf s = true) : Memory.wf (s.setPoolWord b v) = true :=
  wf_pool s _ h (cellsWf_cellsWriteN _ _ _ _)

/-- A write-through that reaches its home. -/
theorem State.wtArrives_wf (s : State) (w : WriteThrough) (h : Memory.wf s = true) : Memory.wf (s.wtArrives w) = true := by
  unfold State.wtArrives
  dsimp only
  split
  · exact wf_mem _ _ (State.ackPeer_wf _ _ (State.recorded_wf _ _ _ h)) (Mem.mergeHome_wf _ _ _ _ _)
  · exact wf_mem s _ h (Mem.mergeHome_wf _ _ _ _ _)

/-- Write-throughs drained. -/
theorem State.drain_wf (s : State) (which : WriteThrough → Bool) (h : Memory.wf s = true) : Memory.wf (s.drain which) = true :=
  wf_foldl Memory.wf _ (fun s w hs => State.wtArrives_wf s w hs) _ s h

/-- Lines that leave an L2 slice (R169) change no byte of memory. -/
theorem State.evictL2s_wf (s : State) (die slice : Nat) (own : Bool) (left n : Nat) (h : Memory.wf s = true) :
    Memory.wf (s.evictL2s die slice own left n) = true := by
  induction n generalizing s with
  | zero => exact h
  | succ n ih =>
    unfold State.evictL2s
    split
    · exact h
    · exact ih _ (wf_of_stores s _ h id id id)

theorem State.trimSlice_wf (s : State) (die slice spare spareOwn : Nat) (h : Memory.wf s = true) :
    Memory.wf (s.trimSlice die slice spare spareOwn) = true :=
  State.evictL2s_wf _ _ _ _ _ _ (State.evictL2s_wf _ _ _ _ _ _ h)

theorem State.roomL2_wf (s : State) (die line : Nat) (own : Bool) (h : Memory.wf s = true) : Memory.wf (s.roomL2 die line own) = true :=
  State.trimSlice_wf _ _ _ _ _ h

/-- A change of the memory beside its bytes. -/
theorem wf_beside (s : State) (m : Mem) (h : Memory.wf s = true) (e : m.bytes = s.mem.bytes) : Memory.wf { s with mem := m } = true :=
  wf_mem s m h fun x => e ▸ x

theorem State.addCopy_wf (s : State) (c : DieCopy) (h : Memory.wf s = true) : Memory.wf (s.addCopy c) = true := by
  have h1 := s.roomL2_wf c.die c.line false h
  simp only [State.addCopy]
  generalize s.roomL2 c.die c.line false = u at h1 ⊢
  exact wf_beside u _ h1 rfl

theorem State.touchOwn_wf (s : State) (die asid line : Nat) (x : Home) (alloc : Bool) (cls : Nat) (h : Memory.wf s = true) :
    Memory.wf (s.touchOwn die asid line x alloc cls) = true := by
  have h1 := s.roomL2_wf die line true h
  simp only [State.touchOwn]
  generalize s.roomL2 die line true = u at h1 ⊢
  split_ifs
  · exact wf_beside s _ h rfl
  · exact wf_beside u _ h1 rfl
  · exact h

/-- A line of a die's L2 that write-backs change, and the write-through that leaves it, hold no store of bytes. -/
theorem wf_sent (u : State) (ws : List WriteThrough) (n : Nat) (h : Memory.wf u = true) :
    Memory.wf { u with mem := { u.mem with wts := ws }, fresh := n } = true := wf_of_stores u _ h id id id

/-- Dirty bytes that reach a die's L2. -/
theorem State.mergeL2_wf (s : State) (die asid line : Nat) (x : Home) (data : BitVec 512) (mask : BitVec 64) (kinds : BitVec 32) (alloc : Bool)
    (cls : Nat) (h : Memory.wf s = true) : Memory.wf (s.mergeL2 die asid line x data mask kinds alloc cls) = true := by
  have h1 := (s.touchOwn die asid line x alloc cls).writePeer_wf x line (s.touchOwn_wf die asid line x alloc cls h)
  have h2 := fun c => s.addCopy_wf c h
  simp only [State.mergeL2]
  generalize (s.touchOwn die asid line x alloc cls).writePeer x line = u at h1 ⊢
  generalize s.addCopy = f at h2 ⊢
  split_ifs
  · exact h
  · exact wf_mem u _ h1 (Mem.mergeHome_wf _ _ _ _ _)
  all_goals
    apply wf_sent
    first
      | exact State.sent_wf _ _ _ (wf_beside s _ h rfl)
      | exact State.sent_wf _ _ _ (h2 _)
      | exact State.sent_wf _ _ _ h
      | exact wf_beside s _ h rfl
      | exact h2 _

/-- Words written one after another by the device itself. -/
theorem State.homeWriteWords_wf (s : State) (asid va : Nat) (vs : List Nat) (h : Memory.wf s = true) :
    Memory.wf (s.homeWriteWords asid va vs) = true := by
  induction vs generalizing s va with
  | nil => exact h
  | cons v vs ih => exact ih _ _ (State.homeWrite_wf _ _ _ _ _ h)

/-- An addition by the device itself. -/
theorem State.deviceAdd_wf (s : State) (asid va v : Nat) (h : Memory.wf s = true) : Memory.wf (s.deviceAdd asid va v) = true := by
  unfold State.deviceAdd
  split
  · exact wf_mem s _ h id
  · exact State.homeWrite_wf _ _ _ _ _ (State.meetRead_wf _ _ _ h)

/-- The host's own write, and one that was held (R377). -/
theorem State.hostPut_wf (s : State) (node addr : Nat) (data : List Byte) (h : Memory.wf s = true) : Memory.wf (s.hostPut node addr data) = true := by
  refine wf_of_stores s _ h (fun w => ?_) id id
  have := writeBytes_wf (physKey node addr) data _ w
  simp only [State.hostPut]
  split
  · exact Mem.dirtyRange_wf _ _ _ _ _ (by rw [Mem.dataKinds_bytes]; exact this)
  · exact this

/-- The pieces of a word that crosses a line. -/
theorem State.piecesWrite_wf (s : State) (asid va v : Nat) (h : Memory.wf s = true) : Memory.wf (s.piecesWrite asid va v) = true :=
  wf_foldl Memory.wf _ (fun _ _ hs => State.homeWrite_wf _ _ _ _ _ hs) _ s h

theorem State.putWords_wf (s : State) (asid va : Nat) (vs : List Nat) (h : Memory.wf s = true) : Memory.wf (s.putWords asid va vs) = true := by
  induction vs generalizing s va with
  | nil => exact h
  | cons v vs ih => exact ih _ _ (State.piecesWrite_wf _ _ _ _ h)

/-- Words written to the host's memory. -/
theorem Mem.putHost_wf (m : Mem) (a : Nat) (vs : List Nat) (h : cellsWf m.bytes = true) : cellsWf (m.putHost a vs).bytes = true := by
  induction vs generalizing m a with
  | nil => exact h
  | cons v vs ih => exact ih _ _ (Mem.wr_wf _ _ _ _ _ h)

/-- A store to a region of a pool that leaves out the bytes that a later store has already written. -/
theorem State.regionStore_wf (s : State) (core : Nat) (gs : List Nat) (o v lost n : Nat) (h : Memory.wf s = true) :
    Memory.wf (s.regionStore core gs o v lost n) = true := wf_pool s _ h (poolStoreN_wf _ _ _ _ _ _ _)

/-- The stores after reset. -/
theorem reset_wf : Memory.wf State.reset = true := rfl

end Sys2Proof.Machine
end

