-- ==== Sys2Proof/Laws/Ops.lean ====
section
/-!
SUPPORT. What the shared operations do, said once: the words that act on the threads that execute them, and what starting an operation leaves alone.
-/

namespace Sys2Proof.Machine

/-- A thread executes a word exactly when it issues the word's clause and its guard holds (R66, R89). -/
theorem executes_eq (iss : Issue) (g : BitVec 4) (t : Thread) : executes iss g t = (issuesIt iss t && t.guard g) := by
  simp [executes, issuesIt]

/-- What a change of the issuing threads that looks at the guard first does. -/
theorem onIssuing_guard (s : State) (iss : Issue) (h : s.cur? = some iss) (g : BitVec 4) (f : Issue → Thread → Thread) :
    s.onIssuing (fun i t => if t.guard g then f i t else t) =
      { s with threads := s.threads.map fun t => if executes iss g t then f iss t else t } := by
  simp only [State.onIssuing, h, executes_eq]
  congr 1
  apply List.map_congr_left
  intro t _
  cases issuesIt iss t <;> cases t.guard g <;> simp

/-- A fixed-latency word: results on their way, or a fault, for each executing thread; nothing else changes (R66, R80). -/
theorem fixedWord_next (g : BitVec 4) (lat : Nat) (srcs : List Reg) (f : Issue → Thread → Except Flt (List Eff)) (s : State) (iss : Issue)
    (h : s.cur? = some iss) :
    fixedWord g lat srcs f s = .next { s with threads := s.threads.map fun t => if executes iss g t then
      (match f iss t with
       | .ok es => t.receive iss lat (t.depMax (guardReg g :: srcs)) es
       | .error x => t.fault iss s.fresh x) else t } := by
  have := onIssuing_guard s iss h g (fun i t => match f i t with
       | .ok es => t.receive i lat (t.depMax (guardReg g :: srcs)) es
       | .error x => t.fault i s.fresh x)
  exact congrArg _ this

/-- A word that acts on its thread's own marks (R66). -/
theorem threadWord_next (g : BitVec 4) (f : Issue → Thread → Except Flt Thread) (s : State) (iss : Issue) (h : s.cur? = some iss) :
    threadWord g f s = .next { s with threads := s.threads.map fun t => if executes iss g t then
      (match f iss t with
       | .ok u => u
       | .error x => t.fault iss s.fresh x) else t } := by
  have := onIssuing_guard s iss h g (fun i t => match f i t with
       | .ok u => u
       | .error x => t.fault i s.fresh x)
  exact congrArg _ this

/-- A fixed-latency point word: results and sticky bits, or the collected trap (R133, R343). -/
theorem fpWord_next (g : BitVec 4) (lat : Nat) (srcs : List Reg) (f : Issue → Thread → List Eff × Nat) (s : State) (iss : Issue)
    (h : s.cur? = some iss) :
    fpWord g lat srcs f s = .next { s with threads := s.threads.map fun t => if executes iss g t then
      (if t.trapped? (f iss t).2 = 0 then
         t.receive iss lat (t.depMax (guardReg g :: srcs)) (if (f iss t).2 = 0 then (f iss t).1 else (f iss t).1 ++ [.sticky (f iss t).2])
       else t.raise { seq := s.fresh, code := fpCodeWord (fpRaisers s iss g f), addr := fpReported (fpRaisers s iss g f),
                      pc := iss.wordPc, resume := some iss.hdr }) else t } := by
  have := onIssuing_guard s iss h g (fun i t =>
      if t.trapped? (f i t).2 = 0 then
         t.receive i lat (t.depMax (guardReg g :: srcs)) (if (f i t).2 = 0 then (f i t).1 else (f i t).1 ++ [.sticky (f i t).2])
       else t.raise { seq := s.fresh, code := fpCodeWord (fpRaisers s i g f), addr := fpReported (fpRaisers s i g f),
                      pc := i.wordPc, resume := some i.hdr })
  exact congrArg _ this

/-- Every thread has guard 0 (R66). -/
@[simp] theorem guard_zero (t : Thread) : t.guard 0 = true := rfl

/-- A word of an instruction outside any clause has no effect. -/
theorem fixedWord_idle (g : BitVec 4) (lat : Nat) (srcs : List Reg) (f : Issue → Thread → Except Flt (List Eff)) (s : State)
    (h : s.cur? = none) : fixedWord g lat srcs f s = .next s := by
  simp [fixedWord, State.onIssuing, h]

end Sys2Proof.Machine
end

