-- ==== Sys2Proof/Laws/State.lean ====
section
/-!
SUPPORT. What each update of the state leaves alone, one lemma a field, and what it does to the field it changes: no later proof unfolds a record
update. The updates stand in the order of their definitions.
-/

namespace Sys2Proof.Machine

set_option Elab.async false

/-- A field that every round of a fold leaves alone is the same after the fold. -/
theorem foldl_field {α β γ : Type} (p : β → γ) (f : β → α → β) (h : ∀ b x, p (f b x) = p b) (xs : List α) (b : β) : p (xs.foldl f b) = p b := by
  induction xs generalizing b with
  | nil => rfl
  | cons x xs ih => exact (ih _).trans (h _ _)

/-! `State.setCore` changes `cores`. -/
@[simp] theorem State.setCore_agenda (s : State) (k : Core) : (State.setCore s k).agenda = s.agenda := by unfold State.setCore; split <;> rfl
@[simp] theorem State.setCore_turn (s : State) (k : Core) : (State.setCore s k).turn = s.turn := by unfold State.setCore; split <;> rfl
@[simp] theorem State.setCore_fresh (s : State) (k : Core) : (State.setCore s k).fresh = s.fresh := by unfold State.setCore; split <;> rfl
@[simp] theorem State.setCore_threads (s : State) (k : Core) : (State.setCore s k).threads = s.threads := by unfold State.setCore; split <;> rfl
@[simp] theorem State.setCore_cohorts (s : State) (k : Core) : (State.setCore s k).cohorts = s.cohorts := by unfold State.setCore; split <;> rfl
@[simp] theorem State.setCore_issues (s : State) (k : Core) : (State.setCore s k).issues = s.issues := by unfold State.setCore; split <;> rfl
@[simp] theorem State.setCore_groups (s : State) (k : Core) : (State.setCore s k).groups = s.groups := by unfold State.setCore; split <;> rfl
@[simp] theorem State.setCore_kernels (s : State) (k : Core) : (State.setCore s k).kernels = s.kernels := by unfold State.setCore; split <;> rfl
@[simp] theorem State.setCore_launches (s : State) (k : Core) : (State.setCore s k).launches = s.launches := by unfold State.setCore; split <;> rfl
@[simp] theorem State.setCore_ops (s : State) (k : Core) : (State.setCore s k).ops = s.ops := by unfold State.setCore; split <;> rfl
@[simp] theorem State.setCore_uses (s : State) (k : Core) : (State.setCore s k).uses = s.uses := by unfold State.setCore; split <;> rfl
@[simp] theorem State.setCore_mgroups (s : State) (k : Core) : (State.setCore s k).mgroups = s.mgroups := by unfold State.setCore; split <;> rfl
@[simp] theorem State.setCore_cmds (s : State) (k : Core) : (State.setCore s k).cmds = s.cmds := by unfold State.setCore; split <;> rfl
@[simp] theorem State.setCore_cpys (s : State) (k : Core) : (State.setCore s k).cpys = s.cpys := by unfold State.setCore; split <;> rfl
@[simp] theorem State.setCore_monitors (s : State) (k : Core) : (State.setCore s k).monitors = s.monitors := by unfold State.setCore; split <;> rfl
@[simp] theorem State.setCore_msgs (s : State) (k : Core) : (State.setCore s k).msgs = s.msgs := by unfold State.setCore; split <;> rfl
@[simp] theorem State.setCore_replies (s : State) (k : Core) : (State.setCore s k).replies = s.replies := by unfold State.setCore; split <;> rfl
@[simp] theorem State.setCore_rels (s : State) (k : Core) : (State.setCore s k).rels = s.rels := by unfold State.setCore; split <;> rfl
@[simp] theorem State.setCore_walks (s : State) (k : Core) : (State.setCore s k).walks = s.walks := by unfold State.setCore; split <;> rfl
@[simp] theorem State.setCore_mem (s : State) (k : Core) : (State.setCore s k).mem = s.mem := by unfold State.setCore; split <;> rfl
@[simp] theorem State.setCore_pool (s : State) (k : Core) : (State.setCore s k).pool = s.pool := by unfold State.setCore; split <;> rfl
@[simp] theorem State.setCore_saved (s : State) (k : Core) : (State.setCore s k).saved = s.saved := by unfold State.setCore; split <;> rfl
@[simp] theorem State.setCore_faultRecs (s : State) (k : Core) : (State.setCore s k).faultRecs = s.faultRecs := by unfold State.setCore; split <;> rfl
@[simp] theorem State.setCore_ctxs (s : State) (k : Core) : (State.setCore s k).ctxs = s.ctxs := by unfold State.setCore; split <;> rfl
@[simp] theorem State.setCore_amsgs (s : State) (k : Core) : (State.setCore s k).amsgs = s.amsgs := by unfold State.setCore; split <;> rfl
@[simp] theorem State.setCore_queues (s : State) (k : Core) : (State.setCore s k).queues = s.queues := by unfold State.setCore; split <;> rfl
@[simp] theorem State.setCore_bulks (s : State) (k : Core) : (State.setCore s k).bulks = s.bulks := by unfold State.setCore; split <;> rfl
@[simp] theorem State.setCore_kiln (s : State) (k : Core) : (State.setCore s k).kiln = s.kiln := by unfold State.setCore; split <;> rfl
@[simp] theorem State.setCore_dev (s : State) (k : Core) : (State.setCore s k).dev = s.dev := by unfold State.setCore; split <;> rfl

/-! `State.modCore` changes `cores`. -/
@[simp] theorem State.modCore_agenda (s : State) (c : Nat) (f : Core → Core) : (State.modCore s c f).agenda = s.agenda := by unfold State.modCore; simp
@[simp] theorem State.modCore_turn (s : State) (c : Nat) (f : Core → Core) : (State.modCore s c f).turn = s.turn := by unfold State.modCore; simp
@[simp] theorem State.modCore_fresh (s : State) (c : Nat) (f : Core → Core) : (State.modCore s c f).fresh = s.fresh := by unfold State.modCore; simp
@[simp] theorem State.modCore_threads (s : State) (c : Nat) (f : Core → Core) : (State.modCore s c f).threads = s.threads := by unfold State.modCore; simp
@[simp] theorem State.modCore_cohorts (s : State) (c : Nat) (f : Core → Core) : (State.modCore s c f).cohorts = s.cohorts := by unfold State.modCore; simp
@[simp] theorem State.modCore_issues (s : State) (c : Nat) (f : Core → Core) : (State.modCore s c f).issues = s.issues := by unfold State.modCore; simp
@[simp] theorem State.modCore_groups (s : State) (c : Nat) (f : Core → Core) : (State.modCore s c f).groups = s.groups := by unfold State.modCore; simp
@[simp] theorem State.modCore_kernels (s : State) (c : Nat) (f : Core → Core) : (State.modCore s c f).kernels = s.kernels := by unfold State.modCore; simp
@[simp] theorem State.modCore_launches (s : State) (c : Nat) (f : Core → Core) : (State.modCore s c f).launches = s.launches := by unfold State.modCore; simp
@[simp] theorem State.modCore_ops (s : State) (c : Nat) (f : Core → Core) : (State.modCore s c f).ops = s.ops := by unfold State.modCore; simp
@[simp] theorem State.modCore_uses (s : State) (c : Nat) (f : Core → Core) : (State.modCore s c f).uses = s.uses := by unfold State.modCore; simp
@[simp] theorem State.modCore_mgroups (s : State) (c : Nat) (f : Core → Core) : (State.modCore s c f).mgroups = s.mgroups := by unfold State.modCore; simp
@[simp] theorem State.modCore_cmds (s : State) (c : Nat) (f : Core → Core) : (State.modCore s c f).cmds = s.cmds := by unfold State.modCore; simp
@[simp] theorem State.modCore_cpys (s : State) (c : Nat) (f : Core → Core) : (State.modCore s c f).cpys = s.cpys := by unfold State.modCore; simp
@[simp] theorem State.modCore_monitors (s : State) (c : Nat) (f : Core → Core) : (State.modCore s c f).monitors = s.monitors := by unfold State.modCore; simp
@[simp] theorem State.modCore_msgs (s : State) (c : Nat) (f : Core → Core) : (State.modCore s c f).msgs = s.msgs := by unfold State.modCore; simp
@[simp] theorem State.modCore_replies (s : State) (c : Nat) (f : Core → Core) : (State.modCore s c f).replies = s.replies := by unfold State.modCore; simp
@[simp] theorem State.modCore_rels (s : State) (c : Nat) (f : Core → Core) : (State.modCore s c f).rels = s.rels := by unfold State.modCore; simp
@[simp] theorem State.modCore_walks (s : State) (c : Nat) (f : Core → Core) : (State.modCore s c f).walks = s.walks := by unfold State.modCore; simp
@[simp] theorem State.modCore_mem (s : State) (c : Nat) (f : Core → Core) : (State.modCore s c f).mem = s.mem := by unfold State.modCore; simp
@[simp] theorem State.modCore_pool (s : State) (c : Nat) (f : Core → Core) : (State.modCore s c f).pool = s.pool := by unfold State.modCore; simp
@[simp] theorem State.modCore_saved (s : State) (c : Nat) (f : Core → Core) : (State.modCore s c f).saved = s.saved := by unfold State.modCore; simp
@[simp] theorem State.modCore_faultRecs (s : State) (c : Nat) (f : Core → Core) : (State.modCore s c f).faultRecs = s.faultRecs := by unfold State.modCore; simp
@[simp] theorem State.modCore_ctxs (s : State) (c : Nat) (f : Core → Core) : (State.modCore s c f).ctxs = s.ctxs := by unfold State.modCore; simp
@[simp] theorem State.modCore_amsgs (s : State) (c : Nat) (f : Core → Core) : (State.modCore s c f).amsgs = s.amsgs := by unfold State.modCore; simp
@[simp] theorem State.modCore_queues (s : State) (c : Nat) (f : Core → Core) : (State.modCore s c f).queues = s.queues := by unfold State.modCore; simp
@[simp] theorem State.modCore_bulks (s : State) (c : Nat) (f : Core → Core) : (State.modCore s c f).bulks = s.bulks := by unfold State.modCore; simp
@[simp] theorem State.modCore_kiln (s : State) (c : Nat) (f : Core → Core) : (State.modCore s c f).kiln = s.kiln := by unfold State.modCore; simp
@[simp] theorem State.modCore_dev (s : State) (c : Nat) (f : Core → Core) : (State.modCore s c f).dev = s.dev := by unfold State.modCore; simp

/-! `State.modThread` changes `threads`. -/
@[simp] theorem State.modThread_agenda (s : State) (tid : Nat) (f : Thread → Thread) : (State.modThread s tid f).agenda = s.agenda := rfl
@[simp] theorem State.modThread_turn (s : State) (tid : Nat) (f : Thread → Thread) : (State.modThread s tid f).turn = s.turn := rfl
@[simp] theorem State.modThread_fresh (s : State) (tid : Nat) (f : Thread → Thread) : (State.modThread s tid f).fresh = s.fresh := rfl
@[simp] theorem State.modThread_threads (s : State) (tid : Nat) (f : Thread → Thread) : (State.modThread s tid f).threads = s.threads.map fun t => if t.tid = tid then f t else t := rfl
@[simp] theorem State.modThread_cohorts (s : State) (tid : Nat) (f : Thread → Thread) : (State.modThread s tid f).cohorts = s.cohorts := rfl
@[simp] theorem State.modThread_issues (s : State) (tid : Nat) (f : Thread → Thread) : (State.modThread s tid f).issues = s.issues := rfl
@[simp] theorem State.modThread_groups (s : State) (tid : Nat) (f : Thread → Thread) : (State.modThread s tid f).groups = s.groups := rfl
@[simp] theorem State.modThread_kernels (s : State) (tid : Nat) (f : Thread → Thread) : (State.modThread s tid f).kernels = s.kernels := rfl
@[simp] theorem State.modThread_launches (s : State) (tid : Nat) (f : Thread → Thread) : (State.modThread s tid f).launches = s.launches := rfl
@[simp] theorem State.modThread_cores (s : State) (tid : Nat) (f : Thread → Thread) : (State.modThread s tid f).cores = s.cores := rfl
@[simp] theorem State.modThread_ops (s : State) (tid : Nat) (f : Thread → Thread) : (State.modThread s tid f).ops = s.ops := rfl
@[simp] theorem State.modThread_uses (s : State) (tid : Nat) (f : Thread → Thread) : (State.modThread s tid f).uses = s.uses := rfl
@[simp] theorem State.modThread_mgroups (s : State) (tid : Nat) (f : Thread → Thread) : (State.modThread s tid f).mgroups = s.mgroups := rfl
@[simp] theorem State.modThread_cmds (s : State) (tid : Nat) (f : Thread → Thread) : (State.modThread s tid f).cmds = s.cmds := rfl
@[simp] theorem State.modThread_cpys (s : State) (tid : Nat) (f : Thread → Thread) : (State.modThread s tid f).cpys = s.cpys := rfl
@[simp] theorem State.modThread_monitors (s : State) (tid : Nat) (f : Thread → Thread) : (State.modThread s tid f).monitors = s.monitors := rfl
@[simp] theorem State.modThread_msgs (s : State) (tid : Nat) (f : Thread → Thread) : (State.modThread s tid f).msgs = s.msgs := rfl
@[simp] theorem State.modThread_replies (s : State) (tid : Nat) (f : Thread → Thread) : (State.modThread s tid f).replies = s.replies := rfl
@[simp] theorem State.modThread_rels (s : State) (tid : Nat) (f : Thread → Thread) : (State.modThread s tid f).rels = s.rels := rfl
@[simp] theorem State.modThread_walks (s : State) (tid : Nat) (f : Thread → Thread) : (State.modThread s tid f).walks = s.walks := rfl
@[simp] theorem State.modThread_mem (s : State) (tid : Nat) (f : Thread → Thread) : (State.modThread s tid f).mem = s.mem := rfl
@[simp] theorem State.modThread_pool (s : State) (tid : Nat) (f : Thread → Thread) : (State.modThread s tid f).pool = s.pool := rfl
@[simp] theorem State.modThread_saved (s : State) (tid : Nat) (f : Thread → Thread) : (State.modThread s tid f).saved = s.saved := rfl
@[simp] theorem State.modThread_faultRecs (s : State) (tid : Nat) (f : Thread → Thread) : (State.modThread s tid f).faultRecs = s.faultRecs := rfl
@[simp] theorem State.modThread_ctxs (s : State) (tid : Nat) (f : Thread → Thread) : (State.modThread s tid f).ctxs = s.ctxs := rfl
@[simp] theorem State.modThread_amsgs (s : State) (tid : Nat) (f : Thread → Thread) : (State.modThread s tid f).amsgs = s.amsgs := rfl
@[simp] theorem State.modThread_queues (s : State) (tid : Nat) (f : Thread → Thread) : (State.modThread s tid f).queues = s.queues := rfl
@[simp] theorem State.modThread_bulks (s : State) (tid : Nat) (f : Thread → Thread) : (State.modThread s tid f).bulks = s.bulks := rfl
@[simp] theorem State.modThread_kiln (s : State) (tid : Nat) (f : Thread → Thread) : (State.modThread s tid f).kiln = s.kiln := rfl
@[simp] theorem State.modThread_dev (s : State) (tid : Nat) (f : Thread → Thread) : (State.modThread s tid f).dev = s.dev := rfl

/-! `State.modCohort` changes `cohorts`. -/
@[simp] theorem State.modCohort_agenda (s : State) (cid : Nat) (f : Cohort → Cohort) : (State.modCohort s cid f).agenda = s.agenda := rfl
@[simp] theorem State.modCohort_turn (s : State) (cid : Nat) (f : Cohort → Cohort) : (State.modCohort s cid f).turn = s.turn := rfl
@[simp] theorem State.modCohort_fresh (s : State) (cid : Nat) (f : Cohort → Cohort) : (State.modCohort s cid f).fresh = s.fresh := rfl
@[simp] theorem State.modCohort_threads (s : State) (cid : Nat) (f : Cohort → Cohort) : (State.modCohort s cid f).threads = s.threads := rfl
@[simp] theorem State.modCohort_cohorts (s : State) (cid : Nat) (f : Cohort → Cohort) : (State.modCohort s cid f).cohorts = s.cohorts.map fun c => if c.cid = cid then f c else c := rfl
@[simp] theorem State.modCohort_issues (s : State) (cid : Nat) (f : Cohort → Cohort) : (State.modCohort s cid f).issues = s.issues := rfl
@[simp] theorem State.modCohort_groups (s : State) (cid : Nat) (f : Cohort → Cohort) : (State.modCohort s cid f).groups = s.groups := rfl
@[simp] theorem State.modCohort_kernels (s : State) (cid : Nat) (f : Cohort → Cohort) : (State.modCohort s cid f).kernels = s.kernels := rfl
@[simp] theorem State.modCohort_launches (s : State) (cid : Nat) (f : Cohort → Cohort) : (State.modCohort s cid f).launches = s.launches := rfl
@[simp] theorem State.modCohort_cores (s : State) (cid : Nat) (f : Cohort → Cohort) : (State.modCohort s cid f).cores = s.cores := rfl
@[simp] theorem State.modCohort_ops (s : State) (cid : Nat) (f : Cohort → Cohort) : (State.modCohort s cid f).ops = s.ops := rfl
@[simp] theorem State.modCohort_uses (s : State) (cid : Nat) (f : Cohort → Cohort) : (State.modCohort s cid f).uses = s.uses := rfl
@[simp] theorem State.modCohort_mgroups (s : State) (cid : Nat) (f : Cohort → Cohort) : (State.modCohort s cid f).mgroups = s.mgroups := rfl
@[simp] theorem State.modCohort_cmds (s : State) (cid : Nat) (f : Cohort → Cohort) : (State.modCohort s cid f).cmds = s.cmds := rfl
@[simp] theorem State.modCohort_cpys (s : State) (cid : Nat) (f : Cohort → Cohort) : (State.modCohort s cid f).cpys = s.cpys := rfl
@[simp] theorem State.modCohort_monitors (s : State) (cid : Nat) (f : Cohort → Cohort) : (State.modCohort s cid f).monitors = s.monitors := rfl
@[simp] theorem State.modCohort_msgs (s : State) (cid : Nat) (f : Cohort → Cohort) : (State.modCohort s cid f).msgs = s.msgs := rfl
@[simp] theorem State.modCohort_replies (s : State) (cid : Nat) (f : Cohort → Cohort) : (State.modCohort s cid f).replies = s.replies := rfl
@[simp] theorem State.modCohort_rels (s : State) (cid : Nat) (f : Cohort → Cohort) : (State.modCohort s cid f).rels = s.rels := rfl
@[simp] theorem State.modCohort_walks (s : State) (cid : Nat) (f : Cohort → Cohort) : (State.modCohort s cid f).walks = s.walks := rfl
@[simp] theorem State.modCohort_mem (s : State) (cid : Nat) (f : Cohort → Cohort) : (State.modCohort s cid f).mem = s.mem := rfl
@[simp] theorem State.modCohort_pool (s : State) (cid : Nat) (f : Cohort → Cohort) : (State.modCohort s cid f).pool = s.pool := rfl
@[simp] theorem State.modCohort_saved (s : State) (cid : Nat) (f : Cohort → Cohort) : (State.modCohort s cid f).saved = s.saved := rfl
@[simp] theorem State.modCohort_faultRecs (s : State) (cid : Nat) (f : Cohort → Cohort) : (State.modCohort s cid f).faultRecs = s.faultRecs := rfl
@[simp] theorem State.modCohort_ctxs (s : State) (cid : Nat) (f : Cohort → Cohort) : (State.modCohort s cid f).ctxs = s.ctxs := rfl
@[simp] theorem State.modCohort_amsgs (s : State) (cid : Nat) (f : Cohort → Cohort) : (State.modCohort s cid f).amsgs = s.amsgs := rfl
@[simp] theorem State.modCohort_queues (s : State) (cid : Nat) (f : Cohort → Cohort) : (State.modCohort s cid f).queues = s.queues := rfl
@[simp] theorem State.modCohort_bulks (s : State) (cid : Nat) (f : Cohort → Cohort) : (State.modCohort s cid f).bulks = s.bulks := rfl
@[simp] theorem State.modCohort_kiln (s : State) (cid : Nat) (f : Cohort → Cohort) : (State.modCohort s cid f).kiln = s.kiln := rfl
@[simp] theorem State.modCohort_dev (s : State) (cid : Nat) (f : Cohort → Cohort) : (State.modCohort s cid f).dev = s.dev := rfl

/-! `State.modGroup` changes `groups`. -/
@[simp] theorem State.modGroup_agenda (s : State) (gid : Nat) (f : Group → Group) : (State.modGroup s gid f).agenda = s.agenda := rfl
@[simp] theorem State.modGroup_turn (s : State) (gid : Nat) (f : Group → Group) : (State.modGroup s gid f).turn = s.turn := rfl
@[simp] theorem State.modGroup_fresh (s : State) (gid : Nat) (f : Group → Group) : (State.modGroup s gid f).fresh = s.fresh := rfl
@[simp] theorem State.modGroup_threads (s : State) (gid : Nat) (f : Group → Group) : (State.modGroup s gid f).threads = s.threads := rfl
@[simp] theorem State.modGroup_cohorts (s : State) (gid : Nat) (f : Group → Group) : (State.modGroup s gid f).cohorts = s.cohorts := rfl
@[simp] theorem State.modGroup_issues (s : State) (gid : Nat) (f : Group → Group) : (State.modGroup s gid f).issues = s.issues := rfl
@[simp] theorem State.modGroup_groups (s : State) (gid : Nat) (f : Group → Group) : (State.modGroup s gid f).groups = s.groups.map fun g => if g.gid = gid then f g else g := rfl
@[simp] theorem State.modGroup_kernels (s : State) (gid : Nat) (f : Group → Group) : (State.modGroup s gid f).kernels = s.kernels := rfl
@[simp] theorem State.modGroup_launches (s : State) (gid : Nat) (f : Group → Group) : (State.modGroup s gid f).launches = s.launches := rfl
@[simp] theorem State.modGroup_cores (s : State) (gid : Nat) (f : Group → Group) : (State.modGroup s gid f).cores = s.cores := rfl
@[simp] theorem State.modGroup_ops (s : State) (gid : Nat) (f : Group → Group) : (State.modGroup s gid f).ops = s.ops := rfl
@[simp] theorem State.modGroup_uses (s : State) (gid : Nat) (f : Group → Group) : (State.modGroup s gid f).uses = s.uses := rfl
@[simp] theorem State.modGroup_mgroups (s : State) (gid : Nat) (f : Group → Group) : (State.modGroup s gid f).mgroups = s.mgroups := rfl
@[simp] theorem State.modGroup_cmds (s : State) (gid : Nat) (f : Group → Group) : (State.modGroup s gid f).cmds = s.cmds := rfl
@[simp] theorem State.modGroup_cpys (s : State) (gid : Nat) (f : Group → Group) : (State.modGroup s gid f).cpys = s.cpys := rfl
@[simp] theorem State.modGroup_monitors (s : State) (gid : Nat) (f : Group → Group) : (State.modGroup s gid f).monitors = s.monitors := rfl
@[simp] theorem State.modGroup_msgs (s : State) (gid : Nat) (f : Group → Group) : (State.modGroup s gid f).msgs = s.msgs := rfl
@[simp] theorem State.modGroup_replies (s : State) (gid : Nat) (f : Group → Group) : (State.modGroup s gid f).replies = s.replies := rfl
@[simp] theorem State.modGroup_rels (s : State) (gid : Nat) (f : Group → Group) : (State.modGroup s gid f).rels = s.rels := rfl
@[simp] theorem State.modGroup_walks (s : State) (gid : Nat) (f : Group → Group) : (State.modGroup s gid f).walks = s.walks := rfl
@[simp] theorem State.modGroup_mem (s : State) (gid : Nat) (f : Group → Group) : (State.modGroup s gid f).mem = s.mem := rfl
@[simp] theorem State.modGroup_pool (s : State) (gid : Nat) (f : Group → Group) : (State.modGroup s gid f).pool = s.pool := rfl
@[simp] theorem State.modGroup_saved (s : State) (gid : Nat) (f : Group → Group) : (State.modGroup s gid f).saved = s.saved := rfl
@[simp] theorem State.modGroup_faultRecs (s : State) (gid : Nat) (f : Group → Group) : (State.modGroup s gid f).faultRecs = s.faultRecs := rfl
@[simp] theorem State.modGroup_ctxs (s : State) (gid : Nat) (f : Group → Group) : (State.modGroup s gid f).ctxs = s.ctxs := rfl
@[simp] theorem State.modGroup_amsgs (s : State) (gid : Nat) (f : Group → Group) : (State.modGroup s gid f).amsgs = s.amsgs := rfl
@[simp] theorem State.modGroup_queues (s : State) (gid : Nat) (f : Group → Group) : (State.modGroup s gid f).queues = s.queues := rfl
@[simp] theorem State.modGroup_bulks (s : State) (gid : Nat) (f : Group → Group) : (State.modGroup s gid f).bulks = s.bulks := rfl
@[simp] theorem State.modGroup_kiln (s : State) (gid : Nat) (f : Group → Group) : (State.modGroup s gid f).kiln = s.kiln := rfl
@[simp] theorem State.modGroup_dev (s : State) (gid : Nat) (f : Group → Group) : (State.modGroup s gid f).dev = s.dev := rfl

/-! `State.modKernel` changes `kernels`. -/
@[simp] theorem State.modKernel_agenda (s : State) (kid : Nat) (f : Kernel → Kernel) : (State.modKernel s kid f).agenda = s.agenda := rfl
@[simp] theorem State.modKernel_turn (s : State) (kid : Nat) (f : Kernel → Kernel) : (State.modKernel s kid f).turn = s.turn := rfl
@[simp] theorem State.modKernel_fresh (s : State) (kid : Nat) (f : Kernel → Kernel) : (State.modKernel s kid f).fresh = s.fresh := rfl
@[simp] theorem State.modKernel_threads (s : State) (kid : Nat) (f : Kernel → Kernel) : (State.modKernel s kid f).threads = s.threads := rfl
@[simp] theorem State.modKernel_cohorts (s : State) (kid : Nat) (f : Kernel → Kernel) : (State.modKernel s kid f).cohorts = s.cohorts := rfl
@[simp] theorem State.modKernel_issues (s : State) (kid : Nat) (f : Kernel → Kernel) : (State.modKernel s kid f).issues = s.issues := rfl
@[simp] theorem State.modKernel_groups (s : State) (kid : Nat) (f : Kernel → Kernel) : (State.modKernel s kid f).groups = s.groups := rfl
@[simp] theorem State.modKernel_kernels (s : State) (kid : Nat) (f : Kernel → Kernel) : (State.modKernel s kid f).kernels = s.kernels.map fun k => if k.kid = kid then f k else k := rfl
@[simp] theorem State.modKernel_launches (s : State) (kid : Nat) (f : Kernel → Kernel) : (State.modKernel s kid f).launches = s.launches := rfl
@[simp] theorem State.modKernel_cores (s : State) (kid : Nat) (f : Kernel → Kernel) : (State.modKernel s kid f).cores = s.cores := rfl
@[simp] theorem State.modKernel_ops (s : State) (kid : Nat) (f : Kernel → Kernel) : (State.modKernel s kid f).ops = s.ops := rfl
@[simp] theorem State.modKernel_uses (s : State) (kid : Nat) (f : Kernel → Kernel) : (State.modKernel s kid f).uses = s.uses := rfl
@[simp] theorem State.modKernel_mgroups (s : State) (kid : Nat) (f : Kernel → Kernel) : (State.modKernel s kid f).mgroups = s.mgroups := rfl
@[simp] theorem State.modKernel_cmds (s : State) (kid : Nat) (f : Kernel → Kernel) : (State.modKernel s kid f).cmds = s.cmds := rfl
@[simp] theorem State.modKernel_cpys (s : State) (kid : Nat) (f : Kernel → Kernel) : (State.modKernel s kid f).cpys = s.cpys := rfl
@[simp] theorem State.modKernel_monitors (s : State) (kid : Nat) (f : Kernel → Kernel) : (State.modKernel s kid f).monitors = s.monitors := rfl
@[simp] theorem State.modKernel_msgs (s : State) (kid : Nat) (f : Kernel → Kernel) : (State.modKernel s kid f).msgs = s.msgs := rfl
@[simp] theorem State.modKernel_replies (s : State) (kid : Nat) (f : Kernel → Kernel) : (State.modKernel s kid f).replies = s.replies := rfl
@[simp] theorem State.modKernel_rels (s : State) (kid : Nat) (f : Kernel → Kernel) : (State.modKernel s kid f).rels = s.rels := rfl
@[simp] theorem State.modKernel_walks (s : State) (kid : Nat) (f : Kernel → Kernel) : (State.modKernel s kid f).walks = s.walks := rfl
@[simp] theorem State.modKernel_mem (s : State) (kid : Nat) (f : Kernel → Kernel) : (State.modKernel s kid f).mem = s.mem := rfl
@[simp] theorem State.modKernel_pool (s : State) (kid : Nat) (f : Kernel → Kernel) : (State.modKernel s kid f).pool = s.pool := rfl
@[simp] theorem State.modKernel_saved (s : State) (kid : Nat) (f : Kernel → Kernel) : (State.modKernel s kid f).saved = s.saved := rfl
@[simp] theorem State.modKernel_faultRecs (s : State) (kid : Nat) (f : Kernel → Kernel) : (State.modKernel s kid f).faultRecs = s.faultRecs := rfl
@[simp] theorem State.modKernel_ctxs (s : State) (kid : Nat) (f : Kernel → Kernel) : (State.modKernel s kid f).ctxs = s.ctxs := rfl
@[simp] theorem State.modKernel_amsgs (s : State) (kid : Nat) (f : Kernel → Kernel) : (State.modKernel s kid f).amsgs = s.amsgs := rfl
@[simp] theorem State.modKernel_queues (s : State) (kid : Nat) (f : Kernel → Kernel) : (State.modKernel s kid f).queues = s.queues := rfl
@[simp] theorem State.modKernel_bulks (s : State) (kid : Nat) (f : Kernel → Kernel) : (State.modKernel s kid f).bulks = s.bulks := rfl
@[simp] theorem State.modKernel_kiln (s : State) (kid : Nat) (f : Kernel → Kernel) : (State.modKernel s kid f).kiln = s.kiln := rfl
@[simp] theorem State.modKernel_dev (s : State) (kid : Nat) (f : Kernel → Kernel) : (State.modKernel s kid f).dev = s.dev := rfl

/-! `State.modCtx` changes `ctxs`. -/
@[simp] theorem State.modCtx_agenda (s : State) (asid : Nat) (f : Ctx → Ctx) : (State.modCtx s asid f).agenda = s.agenda := rfl
@[simp] theorem State.modCtx_turn (s : State) (asid : Nat) (f : Ctx → Ctx) : (State.modCtx s asid f).turn = s.turn := rfl
@[simp] theorem State.modCtx_fresh (s : State) (asid : Nat) (f : Ctx → Ctx) : (State.modCtx s asid f).fresh = s.fresh := rfl
@[simp] theorem State.modCtx_threads (s : State) (asid : Nat) (f : Ctx → Ctx) : (State.modCtx s asid f).threads = s.threads := rfl
@[simp] theorem State.modCtx_cohorts (s : State) (asid : Nat) (f : Ctx → Ctx) : (State.modCtx s asid f).cohorts = s.cohorts := rfl
@[simp] theorem State.modCtx_issues (s : State) (asid : Nat) (f : Ctx → Ctx) : (State.modCtx s asid f).issues = s.issues := rfl
@[simp] theorem State.modCtx_groups (s : State) (asid : Nat) (f : Ctx → Ctx) : (State.modCtx s asid f).groups = s.groups := rfl
@[simp] theorem State.modCtx_kernels (s : State) (asid : Nat) (f : Ctx → Ctx) : (State.modCtx s asid f).kernels = s.kernels := rfl
@[simp] theorem State.modCtx_launches (s : State) (asid : Nat) (f : Ctx → Ctx) : (State.modCtx s asid f).launches = s.launches := rfl
@[simp] theorem State.modCtx_cores (s : State) (asid : Nat) (f : Ctx → Ctx) : (State.modCtx s asid f).cores = s.cores := rfl
@[simp] theorem State.modCtx_ops (s : State) (asid : Nat) (f : Ctx → Ctx) : (State.modCtx s asid f).ops = s.ops := rfl
@[simp] theorem State.modCtx_uses (s : State) (asid : Nat) (f : Ctx → Ctx) : (State.modCtx s asid f).uses = s.uses := rfl
@[simp] theorem State.modCtx_mgroups (s : State) (asid : Nat) (f : Ctx → Ctx) : (State.modCtx s asid f).mgroups = s.mgroups := rfl
@[simp] theorem State.modCtx_cmds (s : State) (asid : Nat) (f : Ctx → Ctx) : (State.modCtx s asid f).cmds = s.cmds := rfl
@[simp] theorem State.modCtx_cpys (s : State) (asid : Nat) (f : Ctx → Ctx) : (State.modCtx s asid f).cpys = s.cpys := rfl
@[simp] theorem State.modCtx_monitors (s : State) (asid : Nat) (f : Ctx → Ctx) : (State.modCtx s asid f).monitors = s.monitors := rfl
@[simp] theorem State.modCtx_msgs (s : State) (asid : Nat) (f : Ctx → Ctx) : (State.modCtx s asid f).msgs = s.msgs := rfl
@[simp] theorem State.modCtx_replies (s : State) (asid : Nat) (f : Ctx → Ctx) : (State.modCtx s asid f).replies = s.replies := rfl
@[simp] theorem State.modCtx_rels (s : State) (asid : Nat) (f : Ctx → Ctx) : (State.modCtx s asid f).rels = s.rels := rfl
@[simp] theorem State.modCtx_walks (s : State) (asid : Nat) (f : Ctx → Ctx) : (State.modCtx s asid f).walks = s.walks := rfl
@[simp] theorem State.modCtx_mem (s : State) (asid : Nat) (f : Ctx → Ctx) : (State.modCtx s asid f).mem = s.mem := rfl
@[simp] theorem State.modCtx_pool (s : State) (asid : Nat) (f : Ctx → Ctx) : (State.modCtx s asid f).pool = s.pool := rfl
@[simp] theorem State.modCtx_saved (s : State) (asid : Nat) (f : Ctx → Ctx) : (State.modCtx s asid f).saved = s.saved := rfl
@[simp] theorem State.modCtx_faultRecs (s : State) (asid : Nat) (f : Ctx → Ctx) : (State.modCtx s asid f).faultRecs = s.faultRecs := rfl
@[simp] theorem State.modCtx_ctxs (s : State) (asid : Nat) (f : Ctx → Ctx) : (State.modCtx s asid f).ctxs = s.ctxs.map fun c => if c.asid = asid then f c else c := rfl
@[simp] theorem State.modCtx_amsgs (s : State) (asid : Nat) (f : Ctx → Ctx) : (State.modCtx s asid f).amsgs = s.amsgs := rfl
@[simp] theorem State.modCtx_queues (s : State) (asid : Nat) (f : Ctx → Ctx) : (State.modCtx s asid f).queues = s.queues := rfl
@[simp] theorem State.modCtx_bulks (s : State) (asid : Nat) (f : Ctx → Ctx) : (State.modCtx s asid f).bulks = s.bulks := rfl
@[simp] theorem State.modCtx_kiln (s : State) (asid : Nat) (f : Ctx → Ctx) : (State.modCtx s asid f).kiln = s.kiln := rfl
@[simp] theorem State.modCtx_dev (s : State) (asid : Nat) (f : Ctx → Ctx) : (State.modCtx s asid f).dev = s.dev := rfl

/-! `State.modOp` changes `ops`. -/
@[simp] theorem State.modOp_agenda (s : State) (id : Nat) (f : Op → Op) : (State.modOp s id f).agenda = s.agenda := rfl
@[simp] theorem State.modOp_turn (s : State) (id : Nat) (f : Op → Op) : (State.modOp s id f).turn = s.turn := rfl
@[simp] theorem State.modOp_fresh (s : State) (id : Nat) (f : Op → Op) : (State.modOp s id f).fresh = s.fresh := rfl
@[simp] theorem State.modOp_threads (s : State) (id : Nat) (f : Op → Op) : (State.modOp s id f).threads = s.threads := rfl
@[simp] theorem State.modOp_cohorts (s : State) (id : Nat) (f : Op → Op) : (State.modOp s id f).cohorts = s.cohorts := rfl
@[simp] theorem State.modOp_issues (s : State) (id : Nat) (f : Op → Op) : (State.modOp s id f).issues = s.issues := rfl
@[simp] theorem State.modOp_groups (s : State) (id : Nat) (f : Op → Op) : (State.modOp s id f).groups = s.groups := rfl
@[simp] theorem State.modOp_kernels (s : State) (id : Nat) (f : Op → Op) : (State.modOp s id f).kernels = s.kernels := rfl
@[simp] theorem State.modOp_launches (s : State) (id : Nat) (f : Op → Op) : (State.modOp s id f).launches = s.launches := rfl
@[simp] theorem State.modOp_cores (s : State) (id : Nat) (f : Op → Op) : (State.modOp s id f).cores = s.cores := rfl
@[simp] theorem State.modOp_ops (s : State) (id : Nat) (f : Op → Op) : (State.modOp s id f).ops = s.ops.map fun o => if o.id = id then f o else o := rfl
@[simp] theorem State.modOp_uses (s : State) (id : Nat) (f : Op → Op) : (State.modOp s id f).uses = s.uses := rfl
@[simp] theorem State.modOp_mgroups (s : State) (id : Nat) (f : Op → Op) : (State.modOp s id f).mgroups = s.mgroups := rfl
@[simp] theorem State.modOp_cmds (s : State) (id : Nat) (f : Op → Op) : (State.modOp s id f).cmds = s.cmds := rfl
@[simp] theorem State.modOp_cpys (s : State) (id : Nat) (f : Op → Op) : (State.modOp s id f).cpys = s.cpys := rfl
@[simp] theorem State.modOp_monitors (s : State) (id : Nat) (f : Op → Op) : (State.modOp s id f).monitors = s.monitors := rfl
@[simp] theorem State.modOp_msgs (s : State) (id : Nat) (f : Op → Op) : (State.modOp s id f).msgs = s.msgs := rfl
@[simp] theorem State.modOp_replies (s : State) (id : Nat) (f : Op → Op) : (State.modOp s id f).replies = s.replies := rfl
@[simp] theorem State.modOp_rels (s : State) (id : Nat) (f : Op → Op) : (State.modOp s id f).rels = s.rels := rfl
@[simp] theorem State.modOp_walks (s : State) (id : Nat) (f : Op → Op) : (State.modOp s id f).walks = s.walks := rfl
@[simp] theorem State.modOp_mem (s : State) (id : Nat) (f : Op → Op) : (State.modOp s id f).mem = s.mem := rfl
@[simp] theorem State.modOp_pool (s : State) (id : Nat) (f : Op → Op) : (State.modOp s id f).pool = s.pool := rfl
@[simp] theorem State.modOp_saved (s : State) (id : Nat) (f : Op → Op) : (State.modOp s id f).saved = s.saved := rfl
@[simp] theorem State.modOp_faultRecs (s : State) (id : Nat) (f : Op → Op) : (State.modOp s id f).faultRecs = s.faultRecs := rfl
@[simp] theorem State.modOp_ctxs (s : State) (id : Nat) (f : Op → Op) : (State.modOp s id f).ctxs = s.ctxs := rfl
@[simp] theorem State.modOp_amsgs (s : State) (id : Nat) (f : Op → Op) : (State.modOp s id f).amsgs = s.amsgs := rfl
@[simp] theorem State.modOp_queues (s : State) (id : Nat) (f : Op → Op) : (State.modOp s id f).queues = s.queues := rfl
@[simp] theorem State.modOp_bulks (s : State) (id : Nat) (f : Op → Op) : (State.modOp s id f).bulks = s.bulks := rfl
@[simp] theorem State.modOp_kiln (s : State) (id : Nat) (f : Op → Op) : (State.modOp s id f).kiln = s.kiln := rfl
@[simp] theorem State.modOp_dev (s : State) (id : Nat) (f : Op → Op) : (State.modOp s id f).dev = s.dev := rfl

/-! `State.dropOp` changes `threads` and `ops`. -/
@[simp] theorem State.dropOp_agenda (s : State) (id : Nat) : (State.dropOp s id).agenda = s.agenda := rfl
@[simp] theorem State.dropOp_turn (s : State) (id : Nat) : (State.dropOp s id).turn = s.turn := rfl
@[simp] theorem State.dropOp_fresh (s : State) (id : Nat) : (State.dropOp s id).fresh = s.fresh := rfl
@[simp] theorem State.dropOp_cohorts (s : State) (id : Nat) : (State.dropOp s id).cohorts = s.cohorts := rfl
@[simp] theorem State.dropOp_issues (s : State) (id : Nat) : (State.dropOp s id).issues = s.issues := rfl
@[simp] theorem State.dropOp_groups (s : State) (id : Nat) : (State.dropOp s id).groups = s.groups := rfl
@[simp] theorem State.dropOp_kernels (s : State) (id : Nat) : (State.dropOp s id).kernels = s.kernels := rfl
@[simp] theorem State.dropOp_launches (s : State) (id : Nat) : (State.dropOp s id).launches = s.launches := rfl
@[simp] theorem State.dropOp_cores (s : State) (id : Nat) : (State.dropOp s id).cores = s.cores := rfl
@[simp] theorem State.dropOp_ops (s : State) (id : Nat) : (State.dropOp s id).ops = s.ops.filter (·.id != id) := rfl
@[simp] theorem State.dropOp_uses (s : State) (id : Nat) : (State.dropOp s id).uses = s.uses := rfl
@[simp] theorem State.dropOp_mgroups (s : State) (id : Nat) : (State.dropOp s id).mgroups = s.mgroups := rfl
@[simp] theorem State.dropOp_cmds (s : State) (id : Nat) : (State.dropOp s id).cmds = s.cmds := rfl
@[simp] theorem State.dropOp_cpys (s : State) (id : Nat) : (State.dropOp s id).cpys = s.cpys := rfl
@[simp] theorem State.dropOp_monitors (s : State) (id : Nat) : (State.dropOp s id).monitors = s.monitors := rfl
@[simp] theorem State.dropOp_msgs (s : State) (id : Nat) : (State.dropOp s id).msgs = s.msgs := rfl
@[simp] theorem State.dropOp_replies (s : State) (id : Nat) : (State.dropOp s id).replies = s.replies := rfl
@[simp] theorem State.dropOp_rels (s : State) (id : Nat) : (State.dropOp s id).rels = s.rels := rfl
@[simp] theorem State.dropOp_walks (s : State) (id : Nat) : (State.dropOp s id).walks = s.walks := rfl
@[simp] theorem State.dropOp_mem (s : State) (id : Nat) : (State.dropOp s id).mem = s.mem := rfl
@[simp] theorem State.dropOp_pool (s : State) (id : Nat) : (State.dropOp s id).pool = s.pool := rfl
@[simp] theorem State.dropOp_saved (s : State) (id : Nat) : (State.dropOp s id).saved = s.saved := rfl
@[simp] theorem State.dropOp_faultRecs (s : State) (id : Nat) : (State.dropOp s id).faultRecs = s.faultRecs := rfl
@[simp] theorem State.dropOp_ctxs (s : State) (id : Nat) : (State.dropOp s id).ctxs = s.ctxs := rfl
@[simp] theorem State.dropOp_amsgs (s : State) (id : Nat) : (State.dropOp s id).amsgs = s.amsgs := rfl
@[simp] theorem State.dropOp_queues (s : State) (id : Nat) : (State.dropOp s id).queues = s.queues := rfl
@[simp] theorem State.dropOp_bulks (s : State) (id : Nat) : (State.dropOp s id).bulks = s.bulks := rfl
@[simp] theorem State.dropOp_kiln (s : State) (id : Nat) : (State.dropOp s id).kiln = s.kiln := rfl
@[simp] theorem State.dropOp_dev (s : State) (id : Nat) : (State.dropOp s id).dev = s.dev := rfl

/-! `State.tick` changes `fresh`. -/
@[simp] theorem State.tick_agenda (s : State) (n : Nat) : (State.tick s n).agenda = s.agenda := rfl
@[simp] theorem State.tick_turn (s : State) (n : Nat) : (State.tick s n).turn = s.turn := rfl
@[simp] theorem State.tick_fresh (s : State) (n : Nat) : (State.tick s n).fresh = s.fresh + n := rfl
@[simp] theorem State.tick_threads (s : State) (n : Nat) : (State.tick s n).threads = s.threads := rfl
@[simp] theorem State.tick_cohorts (s : State) (n : Nat) : (State.tick s n).cohorts = s.cohorts := rfl
@[simp] theorem State.tick_issues (s : State) (n : Nat) : (State.tick s n).issues = s.issues := rfl
@[simp] theorem State.tick_groups (s : State) (n : Nat) : (State.tick s n).groups = s.groups := rfl
@[simp] theorem State.tick_kernels (s : State) (n : Nat) : (State.tick s n).kernels = s.kernels := rfl
@[simp] theorem State.tick_launches (s : State) (n : Nat) : (State.tick s n).launches = s.launches := rfl
@[simp] theorem State.tick_cores (s : State) (n : Nat) : (State.tick s n).cores = s.cores := rfl
@[simp] theorem State.tick_ops (s : State) (n : Nat) : (State.tick s n).ops = s.ops := rfl
@[simp] theorem State.tick_uses (s : State) (n : Nat) : (State.tick s n).uses = s.uses := rfl
@[simp] theorem State.tick_mgroups (s : State) (n : Nat) : (State.tick s n).mgroups = s.mgroups := rfl
@[simp] theorem State.tick_cmds (s : State) (n : Nat) : (State.tick s n).cmds = s.cmds := rfl
@[simp] theorem State.tick_cpys (s : State) (n : Nat) : (State.tick s n).cpys = s.cpys := rfl
@[simp] theorem State.tick_monitors (s : State) (n : Nat) : (State.tick s n).monitors = s.monitors := rfl
@[simp] theorem State.tick_msgs (s : State) (n : Nat) : (State.tick s n).msgs = s.msgs := rfl
@[simp] theorem State.tick_replies (s : State) (n : Nat) : (State.tick s n).replies = s.replies := rfl
@[simp] theorem State.tick_rels (s : State) (n : Nat) : (State.tick s n).rels = s.rels := rfl
@[simp] theorem State.tick_walks (s : State) (n : Nat) : (State.tick s n).walks = s.walks := rfl
@[simp] theorem State.tick_mem (s : State) (n : Nat) : (State.tick s n).mem = s.mem := rfl
@[simp] theorem State.tick_pool (s : State) (n : Nat) : (State.tick s n).pool = s.pool := rfl
@[simp] theorem State.tick_saved (s : State) (n : Nat) : (State.tick s n).saved = s.saved := rfl
@[simp] theorem State.tick_faultRecs (s : State) (n : Nat) : (State.tick s n).faultRecs = s.faultRecs := rfl
@[simp] theorem State.tick_ctxs (s : State) (n : Nat) : (State.tick s n).ctxs = s.ctxs := rfl
@[simp] theorem State.tick_amsgs (s : State) (n : Nat) : (State.tick s n).amsgs = s.amsgs := rfl
@[simp] theorem State.tick_queues (s : State) (n : Nat) : (State.tick s n).queues = s.queues := rfl
@[simp] theorem State.tick_bulks (s : State) (n : Nat) : (State.tick s n).bulks = s.bulks := rfl
@[simp] theorem State.tick_kiln (s : State) (n : Nat) : (State.tick s n).kiln = s.kiln := rfl
@[simp] theorem State.tick_dev (s : State) (n : Nat) : (State.tick s n).dev = s.dev := rfl

/-! `State.modIssue` changes `issues`. -/
@[simp] theorem State.modIssue_agenda (s : State) (core : Nat) (f : Issue → Issue) : (State.modIssue s core f).agenda = s.agenda := rfl
@[simp] theorem State.modIssue_turn (s : State) (core : Nat) (f : Issue → Issue) : (State.modIssue s core f).turn = s.turn := rfl
@[simp] theorem State.modIssue_fresh (s : State) (core : Nat) (f : Issue → Issue) : (State.modIssue s core f).fresh = s.fresh := rfl
@[simp] theorem State.modIssue_threads (s : State) (core : Nat) (f : Issue → Issue) : (State.modIssue s core f).threads = s.threads := rfl
@[simp] theorem State.modIssue_cohorts (s : State) (core : Nat) (f : Issue → Issue) : (State.modIssue s core f).cohorts = s.cohorts := rfl
@[simp] theorem State.modIssue_issues (s : State) (core : Nat) (f : Issue → Issue) : (State.modIssue s core f).issues = s.issues.map fun i => if i.core = core then f i else i := rfl
@[simp] theorem State.modIssue_groups (s : State) (core : Nat) (f : Issue → Issue) : (State.modIssue s core f).groups = s.groups := rfl
@[simp] theorem State.modIssue_kernels (s : State) (core : Nat) (f : Issue → Issue) : (State.modIssue s core f).kernels = s.kernels := rfl
@[simp] theorem State.modIssue_launches (s : State) (core : Nat) (f : Issue → Issue) : (State.modIssue s core f).launches = s.launches := rfl
@[simp] theorem State.modIssue_cores (s : State) (core : Nat) (f : Issue → Issue) : (State.modIssue s core f).cores = s.cores := rfl
@[simp] theorem State.modIssue_ops (s : State) (core : Nat) (f : Issue → Issue) : (State.modIssue s core f).ops = s.ops := rfl
@[simp] theorem State.modIssue_uses (s : State) (core : Nat) (f : Issue → Issue) : (State.modIssue s core f).uses = s.uses := rfl
@[simp] theorem State.modIssue_mgroups (s : State) (core : Nat) (f : Issue → Issue) : (State.modIssue s core f).mgroups = s.mgroups := rfl
@[simp] theorem State.modIssue_cmds (s : State) (core : Nat) (f : Issue → Issue) : (State.modIssue s core f).cmds = s.cmds := rfl
@[simp] theorem State.modIssue_cpys (s : State) (core : Nat) (f : Issue → Issue) : (State.modIssue s core f).cpys = s.cpys := rfl
@[simp] theorem State.modIssue_monitors (s : State) (core : Nat) (f : Issue → Issue) : (State.modIssue s core f).monitors = s.monitors := rfl
@[simp] theorem State.modIssue_msgs (s : State) (core : Nat) (f : Issue → Issue) : (State.modIssue s core f).msgs = s.msgs := rfl
@[simp] theorem State.modIssue_replies (s : State) (core : Nat) (f : Issue → Issue) : (State.modIssue s core f).replies = s.replies := rfl
@[simp] theorem State.modIssue_rels (s : State) (core : Nat) (f : Issue → Issue) : (State.modIssue s core f).rels = s.rels := rfl
@[simp] theorem State.modIssue_walks (s : State) (core : Nat) (f : Issue → Issue) : (State.modIssue s core f).walks = s.walks := rfl
@[simp] theorem State.modIssue_mem (s : State) (core : Nat) (f : Issue → Issue) : (State.modIssue s core f).mem = s.mem := rfl
@[simp] theorem State.modIssue_pool (s : State) (core : Nat) (f : Issue → Issue) : (State.modIssue s core f).pool = s.pool := rfl
@[simp] theorem State.modIssue_saved (s : State) (core : Nat) (f : Issue → Issue) : (State.modIssue s core f).saved = s.saved := rfl
@[simp] theorem State.modIssue_faultRecs (s : State) (core : Nat) (f : Issue → Issue) : (State.modIssue s core f).faultRecs = s.faultRecs := rfl
@[simp] theorem State.modIssue_ctxs (s : State) (core : Nat) (f : Issue → Issue) : (State.modIssue s core f).ctxs = s.ctxs := rfl
@[simp] theorem State.modIssue_amsgs (s : State) (core : Nat) (f : Issue → Issue) : (State.modIssue s core f).amsgs = s.amsgs := rfl
@[simp] theorem State.modIssue_queues (s : State) (core : Nat) (f : Issue → Issue) : (State.modIssue s core f).queues = s.queues := rfl
@[simp] theorem State.modIssue_bulks (s : State) (core : Nat) (f : Issue → Issue) : (State.modIssue s core f).bulks = s.bulks := rfl
@[simp] theorem State.modIssue_kiln (s : State) (core : Nat) (f : Issue → Issue) : (State.modIssue s core f).kiln = s.kiln := rfl
@[simp] theorem State.modIssue_dev (s : State) (core : Nat) (f : Issue → Issue) : (State.modIssue s core f).dev = s.dev := rfl

/-! `State.onIssuing` changes `threads`. -/
@[simp] theorem State.onIssuing_agenda (s : State) (f : Issue → Thread → Thread) : (State.onIssuing s f).agenda = s.agenda := by unfold State.onIssuing; split <;> rfl
@[simp] theorem State.onIssuing_turn (s : State) (f : Issue → Thread → Thread) : (State.onIssuing s f).turn = s.turn := by unfold State.onIssuing; split <;> rfl
@[simp] theorem State.onIssuing_fresh (s : State) (f : Issue → Thread → Thread) : (State.onIssuing s f).fresh = s.fresh := by unfold State.onIssuing; split <;> rfl
@[simp] theorem State.onIssuing_cohorts (s : State) (f : Issue → Thread → Thread) : (State.onIssuing s f).cohorts = s.cohorts := by unfold State.onIssuing; split <;> rfl
@[simp] theorem State.onIssuing_issues (s : State) (f : Issue → Thread → Thread) : (State.onIssuing s f).issues = s.issues := by unfold State.onIssuing; split <;> rfl
@[simp] theorem State.onIssuing_groups (s : State) (f : Issue → Thread → Thread) : (State.onIssuing s f).groups = s.groups := by unfold State.onIssuing; split <;> rfl
@[simp] theorem State.onIssuing_kernels (s : State) (f : Issue → Thread → Thread) : (State.onIssuing s f).kernels = s.kernels := by unfold State.onIssuing; split <;> rfl
@[simp] theorem State.onIssuing_launches (s : State) (f : Issue → Thread → Thread) : (State.onIssuing s f).launches = s.launches := by unfold State.onIssuing; split <;> rfl
@[simp] theorem State.onIssuing_cores (s : State) (f : Issue → Thread → Thread) : (State.onIssuing s f).cores = s.cores := by unfold State.onIssuing; split <;> rfl
@[simp] theorem State.onIssuing_ops (s : State) (f : Issue → Thread → Thread) : (State.onIssuing s f).ops = s.ops := by unfold State.onIssuing; split <;> rfl
@[simp] theorem State.onIssuing_uses (s : State) (f : Issue → Thread → Thread) : (State.onIssuing s f).uses = s.uses := by unfold State.onIssuing; split <;> rfl
@[simp] theorem State.onIssuing_mgroups (s : State) (f : Issue → Thread → Thread) : (State.onIssuing s f).mgroups = s.mgroups := by unfold State.onIssuing; split <;> rfl
@[simp] theorem State.onIssuing_cmds (s : State) (f : Issue → Thread → Thread) : (State.onIssuing s f).cmds = s.cmds := by unfold State.onIssuing; split <;> rfl
@[simp] theorem State.onIssuing_cpys (s : State) (f : Issue → Thread → Thread) : (State.onIssuing s f).cpys = s.cpys := by unfold State.onIssuing; split <;> rfl
@[simp] theorem State.onIssuing_monitors (s : State) (f : Issue → Thread → Thread) : (State.onIssuing s f).monitors = s.monitors := by unfold State.onIssuing; split <;> rfl
@[simp] theorem State.onIssuing_msgs (s : State) (f : Issue → Thread → Thread) : (State.onIssuing s f).msgs = s.msgs := by unfold State.onIssuing; split <;> rfl
@[simp] theorem State.onIssuing_replies (s : State) (f : Issue → Thread → Thread) : (State.onIssuing s f).replies = s.replies := by unfold State.onIssuing; split <;> rfl
@[simp] theorem State.onIssuing_rels (s : State) (f : Issue → Thread → Thread) : (State.onIssuing s f).rels = s.rels := by unfold State.onIssuing; split <;> rfl
@[simp] theorem State.onIssuing_walks (s : State) (f : Issue → Thread → Thread) : (State.onIssuing s f).walks = s.walks := by unfold State.onIssuing; split <;> rfl
@[simp] theorem State.onIssuing_mem (s : State) (f : Issue → Thread → Thread) : (State.onIssuing s f).mem = s.mem := by unfold State.onIssuing; split <;> rfl
@[simp] theorem State.onIssuing_pool (s : State) (f : Issue → Thread → Thread) : (State.onIssuing s f).pool = s.pool := by unfold State.onIssuing; split <;> rfl
@[simp] theorem State.onIssuing_saved (s : State) (f : Issue → Thread → Thread) : (State.onIssuing s f).saved = s.saved := by unfold State.onIssuing; split <;> rfl
@[simp] theorem State.onIssuing_faultRecs (s : State) (f : Issue → Thread → Thread) : (State.onIssuing s f).faultRecs = s.faultRecs := by unfold State.onIssuing; split <;> rfl
@[simp] theorem State.onIssuing_ctxs (s : State) (f : Issue → Thread → Thread) : (State.onIssuing s f).ctxs = s.ctxs := by unfold State.onIssuing; split <;> rfl
@[simp] theorem State.onIssuing_amsgs (s : State) (f : Issue → Thread → Thread) : (State.onIssuing s f).amsgs = s.amsgs := by unfold State.onIssuing; split <;> rfl
@[simp] theorem State.onIssuing_queues (s : State) (f : Issue → Thread → Thread) : (State.onIssuing s f).queues = s.queues := by unfold State.onIssuing; split <;> rfl
@[simp] theorem State.onIssuing_bulks (s : State) (f : Issue → Thread → Thread) : (State.onIssuing s f).bulks = s.bulks := by unfold State.onIssuing; split <;> rfl
@[simp] theorem State.onIssuing_kiln (s : State) (f : Issue → Thread → Thread) : (State.onIssuing s f).kiln = s.kiln := by unfold State.onIssuing; split <;> rfl
@[simp] theorem State.onIssuing_dev (s : State) (f : Issue → Thread → Thread) : (State.onIssuing s f).dev = s.dev := by unfold State.onIssuing; split <;> rfl

/-! `State.finishUse` changes `cohorts` and `uses`. -/
@[simp] theorem State.finishUse_agenda (s : State) (use : Option Nat) (tid : Nat) : (State.finishUse s use tid).agenda = s.agenda := by unfold State.finishUse; dsimp only; (repeat' split) <;> simp
@[simp] theorem State.finishUse_turn (s : State) (use : Option Nat) (tid : Nat) : (State.finishUse s use tid).turn = s.turn := by unfold State.finishUse; dsimp only; (repeat' split) <;> simp
@[simp] theorem State.finishUse_fresh (s : State) (use : Option Nat) (tid : Nat) : (State.finishUse s use tid).fresh = s.fresh := by unfold State.finishUse; dsimp only; (repeat' split) <;> simp
@[simp] theorem State.finishUse_threads (s : State) (use : Option Nat) (tid : Nat) : (State.finishUse s use tid).threads = s.threads := by unfold State.finishUse; dsimp only; (repeat' split) <;> simp
@[simp] theorem State.finishUse_issues (s : State) (use : Option Nat) (tid : Nat) : (State.finishUse s use tid).issues = s.issues := by unfold State.finishUse; dsimp only; (repeat' split) <;> simp
@[simp] theorem State.finishUse_groups (s : State) (use : Option Nat) (tid : Nat) : (State.finishUse s use tid).groups = s.groups := by unfold State.finishUse; dsimp only; (repeat' split) <;> simp
@[simp] theorem State.finishUse_kernels (s : State) (use : Option Nat) (tid : Nat) : (State.finishUse s use tid).kernels = s.kernels := by unfold State.finishUse; dsimp only; (repeat' split) <;> simp
@[simp] theorem State.finishUse_launches (s : State) (use : Option Nat) (tid : Nat) : (State.finishUse s use tid).launches = s.launches := by unfold State.finishUse; dsimp only; (repeat' split) <;> simp
@[simp] theorem State.finishUse_cores (s : State) (use : Option Nat) (tid : Nat) : (State.finishUse s use tid).cores = s.cores := by unfold State.finishUse; dsimp only; (repeat' split) <;> simp
@[simp] theorem State.finishUse_ops (s : State) (use : Option Nat) (tid : Nat) : (State.finishUse s use tid).ops = s.ops := by unfold State.finishUse; dsimp only; (repeat' split) <;> simp
@[simp] theorem State.finishUse_mgroups (s : State) (use : Option Nat) (tid : Nat) : (State.finishUse s use tid).mgroups = s.mgroups := by unfold State.finishUse; dsimp only; (repeat' split) <;> simp
@[simp] theorem State.finishUse_cmds (s : State) (use : Option Nat) (tid : Nat) : (State.finishUse s use tid).cmds = s.cmds := by unfold State.finishUse; dsimp only; (repeat' split) <;> simp
@[simp] theorem State.finishUse_cpys (s : State) (use : Option Nat) (tid : Nat) : (State.finishUse s use tid).cpys = s.cpys := by unfold State.finishUse; dsimp only; (repeat' split) <;> simp
@[simp] theorem State.finishUse_monitors (s : State) (use : Option Nat) (tid : Nat) : (State.finishUse s use tid).monitors = s.monitors := by unfold State.finishUse; dsimp only; (repeat' split) <;> simp
@[simp] theorem State.finishUse_msgs (s : State) (use : Option Nat) (tid : Nat) : (State.finishUse s use tid).msgs = s.msgs := by unfold State.finishUse; dsimp only; (repeat' split) <;> simp
@[simp] theorem State.finishUse_replies (s : State) (use : Option Nat) (tid : Nat) : (State.finishUse s use tid).replies = s.replies := by unfold State.finishUse; dsimp only; (repeat' split) <;> simp
@[simp] theorem State.finishUse_rels (s : State) (use : Option Nat) (tid : Nat) : (State.finishUse s use tid).rels = s.rels := by unfold State.finishUse; dsimp only; (repeat' split) <;> simp
@[simp] theorem State.finishUse_walks (s : State) (use : Option Nat) (tid : Nat) : (State.finishUse s use tid).walks = s.walks := by unfold State.finishUse; dsimp only; (repeat' split) <;> simp
@[simp] theorem State.finishUse_mem (s : State) (use : Option Nat) (tid : Nat) : (State.finishUse s use tid).mem = s.mem := by unfold State.finishUse; dsimp only; (repeat' split) <;> simp
@[simp] theorem State.finishUse_pool (s : State) (use : Option Nat) (tid : Nat) : (State.finishUse s use tid).pool = s.pool := by unfold State.finishUse; dsimp only; (repeat' split) <;> simp
@[simp] theorem State.finishUse_saved (s : State) (use : Option Nat) (tid : Nat) : (State.finishUse s use tid).saved = s.saved := by unfold State.finishUse; dsimp only; (repeat' split) <;> simp
@[simp] theorem State.finishUse_faultRecs (s : State) (use : Option Nat) (tid : Nat) : (State.finishUse s use tid).faultRecs = s.faultRecs := by unfold State.finishUse; dsimp only; (repeat' split) <;> simp
@[simp] theorem State.finishUse_ctxs (s : State) (use : Option Nat) (tid : Nat) : (State.finishUse s use tid).ctxs = s.ctxs := by unfold State.finishUse; dsimp only; (repeat' split) <;> simp
@[simp] theorem State.finishUse_amsgs (s : State) (use : Option Nat) (tid : Nat) : (State.finishUse s use tid).amsgs = s.amsgs := by unfold State.finishUse; dsimp only; (repeat' split) <;> simp
@[simp] theorem State.finishUse_queues (s : State) (use : Option Nat) (tid : Nat) : (State.finishUse s use tid).queues = s.queues := by unfold State.finishUse; dsimp only; (repeat' split) <;> simp
@[simp] theorem State.finishUse_bulks (s : State) (use : Option Nat) (tid : Nat) : (State.finishUse s use tid).bulks = s.bulks := by unfold State.finishUse; dsimp only; (repeat' split) <;> simp
@[simp] theorem State.finishUse_kiln (s : State) (use : Option Nat) (tid : Nat) : (State.finishUse s use tid).kiln = s.kiln := by unfold State.finishUse; dsimp only; (repeat' split) <;> simp
@[simp] theorem State.finishUse_dev (s : State) (use : Option Nat) (tid : Nat) : (State.finishUse s use tid).dev = s.dev := by unfold State.finishUse; dsimp only; (repeat' split) <;> simp

/-! `State.markFlag` changes `cohorts` and `issues` and `uses`. -/
@[simp] theorem State.markFlag_agenda (s : State) (iss : Issue) (id : Nat) (tids : List Nat) : (State.markFlag s iss id tids).agenda = s.agenda := by unfold State.markFlag; split <;> rfl
@[simp] theorem State.markFlag_turn (s : State) (iss : Issue) (id : Nat) (tids : List Nat) : (State.markFlag s iss id tids).turn = s.turn := by unfold State.markFlag; split <;> rfl
@[simp] theorem State.markFlag_fresh (s : State) (iss : Issue) (id : Nat) (tids : List Nat) : (State.markFlag s iss id tids).fresh = s.fresh := by unfold State.markFlag; split <;> rfl
@[simp] theorem State.markFlag_threads (s : State) (iss : Issue) (id : Nat) (tids : List Nat) : (State.markFlag s iss id tids).threads = s.threads := by unfold State.markFlag; split <;> rfl
@[simp] theorem State.markFlag_groups (s : State) (iss : Issue) (id : Nat) (tids : List Nat) : (State.markFlag s iss id tids).groups = s.groups := by unfold State.markFlag; split <;> rfl
@[simp] theorem State.markFlag_kernels (s : State) (iss : Issue) (id : Nat) (tids : List Nat) : (State.markFlag s iss id tids).kernels = s.kernels := by unfold State.markFlag; split <;> rfl
@[simp] theorem State.markFlag_launches (s : State) (iss : Issue) (id : Nat) (tids : List Nat) : (State.markFlag s iss id tids).launches = s.launches := by unfold State.markFlag; split <;> rfl
@[simp] theorem State.markFlag_cores (s : State) (iss : Issue) (id : Nat) (tids : List Nat) : (State.markFlag s iss id tids).cores = s.cores := by unfold State.markFlag; split <;> rfl
@[simp] theorem State.markFlag_ops (s : State) (iss : Issue) (id : Nat) (tids : List Nat) : (State.markFlag s iss id tids).ops = s.ops := by unfold State.markFlag; split <;> rfl
@[simp] theorem State.markFlag_mgroups (s : State) (iss : Issue) (id : Nat) (tids : List Nat) : (State.markFlag s iss id tids).mgroups = s.mgroups := by unfold State.markFlag; split <;> rfl
@[simp] theorem State.markFlag_cmds (s : State) (iss : Issue) (id : Nat) (tids : List Nat) : (State.markFlag s iss id tids).cmds = s.cmds := by unfold State.markFlag; split <;> rfl
@[simp] theorem State.markFlag_cpys (s : State) (iss : Issue) (id : Nat) (tids : List Nat) : (State.markFlag s iss id tids).cpys = s.cpys := by unfold State.markFlag; split <;> rfl
@[simp] theorem State.markFlag_monitors (s : State) (iss : Issue) (id : Nat) (tids : List Nat) : (State.markFlag s iss id tids).monitors = s.monitors := by unfold State.markFlag; split <;> rfl
@[simp] theorem State.markFlag_msgs (s : State) (iss : Issue) (id : Nat) (tids : List Nat) : (State.markFlag s iss id tids).msgs = s.msgs := by unfold State.markFlag; split <;> rfl
@[simp] theorem State.markFlag_replies (s : State) (iss : Issue) (id : Nat) (tids : List Nat) : (State.markFlag s iss id tids).replies = s.replies := by unfold State.markFlag; split <;> rfl
@[simp] theorem State.markFlag_rels (s : State) (iss : Issue) (id : Nat) (tids : List Nat) : (State.markFlag s iss id tids).rels = s.rels := by unfold State.markFlag; split <;> rfl
@[simp] theorem State.markFlag_walks (s : State) (iss : Issue) (id : Nat) (tids : List Nat) : (State.markFlag s iss id tids).walks = s.walks := by unfold State.markFlag; split <;> rfl
@[simp] theorem State.markFlag_mem (s : State) (iss : Issue) (id : Nat) (tids : List Nat) : (State.markFlag s iss id tids).mem = s.mem := by unfold State.markFlag; split <;> rfl
@[simp] theorem State.markFlag_pool (s : State) (iss : Issue) (id : Nat) (tids : List Nat) : (State.markFlag s iss id tids).pool = s.pool := by unfold State.markFlag; split <;> rfl
@[simp] theorem State.markFlag_saved (s : State) (iss : Issue) (id : Nat) (tids : List Nat) : (State.markFlag s iss id tids).saved = s.saved := by unfold State.markFlag; split <;> rfl
@[simp] theorem State.markFlag_faultRecs (s : State) (iss : Issue) (id : Nat) (tids : List Nat) : (State.markFlag s iss id tids).faultRecs = s.faultRecs := by unfold State.markFlag; split <;> rfl
@[simp] theorem State.markFlag_ctxs (s : State) (iss : Issue) (id : Nat) (tids : List Nat) : (State.markFlag s iss id tids).ctxs = s.ctxs := by unfold State.markFlag; split <;> rfl
@[simp] theorem State.markFlag_amsgs (s : State) (iss : Issue) (id : Nat) (tids : List Nat) : (State.markFlag s iss id tids).amsgs = s.amsgs := by unfold State.markFlag; split <;> rfl
@[simp] theorem State.markFlag_queues (s : State) (iss : Issue) (id : Nat) (tids : List Nat) : (State.markFlag s iss id tids).queues = s.queues := by unfold State.markFlag; split <;> rfl
@[simp] theorem State.markFlag_bulks (s : State) (iss : Issue) (id : Nat) (tids : List Nat) : (State.markFlag s iss id tids).bulks = s.bulks := by unfold State.markFlag; split <;> rfl
@[simp] theorem State.markFlag_kiln (s : State) (iss : Issue) (id : Nat) (tids : List Nat) : (State.markFlag s iss id tids).kiln = s.kiln := by unfold State.markFlag; split <;> rfl
@[simp] theorem State.markFlag_dev (s : State) (iss : Issue) (id : Nat) (tids : List Nat) : (State.markFlag s iss id tids).dev = s.dev := by unfold State.markFlag; split <;> rfl

/-! `State.startOps` changes `fresh` and `threads` and `cohorts` and `issues` and `ops` and `uses`. -/
@[simp] theorem State.startOps_agenda (s : State) (g : BitVec 4) (flagged : Bool) (hashed : Bool) (srcs : List Reg) (mk : Issue → Thread → Except Flt OpReq) : (State.startOps s g flagged hashed srcs mk).agenda = s.agenda := by unfold State.startOps; (repeat' split) <;> simp
@[simp] theorem State.startOps_turn (s : State) (g : BitVec 4) (flagged : Bool) (hashed : Bool) (srcs : List Reg) (mk : Issue → Thread → Except Flt OpReq) : (State.startOps s g flagged hashed srcs mk).turn = s.turn := by unfold State.startOps; (repeat' split) <;> simp
@[simp] theorem State.startOps_groups (s : State) (g : BitVec 4) (flagged : Bool) (hashed : Bool) (srcs : List Reg) (mk : Issue → Thread → Except Flt OpReq) : (State.startOps s g flagged hashed srcs mk).groups = s.groups := by unfold State.startOps; (repeat' split) <;> simp
@[simp] theorem State.startOps_kernels (s : State) (g : BitVec 4) (flagged : Bool) (hashed : Bool) (srcs : List Reg) (mk : Issue → Thread → Except Flt OpReq) : (State.startOps s g flagged hashed srcs mk).kernels = s.kernels := by unfold State.startOps; (repeat' split) <;> simp
@[simp] theorem State.startOps_launches (s : State) (g : BitVec 4) (flagged : Bool) (hashed : Bool) (srcs : List Reg) (mk : Issue → Thread → Except Flt OpReq) : (State.startOps s g flagged hashed srcs mk).launches = s.launches := by unfold State.startOps; (repeat' split) <;> simp
@[simp] theorem State.startOps_cores (s : State) (g : BitVec 4) (flagged : Bool) (hashed : Bool) (srcs : List Reg) (mk : Issue → Thread → Except Flt OpReq) : (State.startOps s g flagged hashed srcs mk).cores = s.cores := by unfold State.startOps; (repeat' split) <;> simp
@[simp] theorem State.startOps_mgroups (s : State) (g : BitVec 4) (flagged : Bool) (hashed : Bool) (srcs : List Reg) (mk : Issue → Thread → Except Flt OpReq) : (State.startOps s g flagged hashed srcs mk).mgroups = s.mgroups := by unfold State.startOps; (repeat' split) <;> simp
@[simp] theorem State.startOps_cmds (s : State) (g : BitVec 4) (flagged : Bool) (hashed : Bool) (srcs : List Reg) (mk : Issue → Thread → Except Flt OpReq) : (State.startOps s g flagged hashed srcs mk).cmds = s.cmds := by unfold State.startOps; (repeat' split) <;> simp
@[simp] theorem State.startOps_cpys (s : State) (g : BitVec 4) (flagged : Bool) (hashed : Bool) (srcs : List Reg) (mk : Issue → Thread → Except Flt OpReq) : (State.startOps s g flagged hashed srcs mk).cpys = s.cpys := by unfold State.startOps; (repeat' split) <;> simp
@[simp] theorem State.startOps_monitors (s : State) (g : BitVec 4) (flagged : Bool) (hashed : Bool) (srcs : List Reg) (mk : Issue → Thread → Except Flt OpReq) : (State.startOps s g flagged hashed srcs mk).monitors = s.monitors := by unfold State.startOps; (repeat' split) <;> simp
@[simp] theorem State.startOps_msgs (s : State) (g : BitVec 4) (flagged : Bool) (hashed : Bool) (srcs : List Reg) (mk : Issue → Thread → Except Flt OpReq) : (State.startOps s g flagged hashed srcs mk).msgs = s.msgs := by unfold State.startOps; (repeat' split) <;> simp
@[simp] theorem State.startOps_replies (s : State) (g : BitVec 4) (flagged : Bool) (hashed : Bool) (srcs : List Reg) (mk : Issue → Thread → Except Flt OpReq) : (State.startOps s g flagged hashed srcs mk).replies = s.replies := by unfold State.startOps; (repeat' split) <;> simp
@[simp] theorem State.startOps_rels (s : State) (g : BitVec 4) (flagged : Bool) (hashed : Bool) (srcs : List Reg) (mk : Issue → Thread → Except Flt OpReq) : (State.startOps s g flagged hashed srcs mk).rels = s.rels := by unfold State.startOps; (repeat' split) <;> simp
@[simp] theorem State.startOps_walks (s : State) (g : BitVec 4) (flagged : Bool) (hashed : Bool) (srcs : List Reg) (mk : Issue → Thread → Except Flt OpReq) : (State.startOps s g flagged hashed srcs mk).walks = s.walks := by unfold State.startOps; (repeat' split) <;> simp
@[simp] theorem State.startOps_mem (s : State) (g : BitVec 4) (flagged : Bool) (hashed : Bool) (srcs : List Reg) (mk : Issue → Thread → Except Flt OpReq) : (State.startOps s g flagged hashed srcs mk).mem = s.mem := by unfold State.startOps; (repeat' split) <;> simp
@[simp] theorem State.startOps_pool (s : State) (g : BitVec 4) (flagged : Bool) (hashed : Bool) (srcs : List Reg) (mk : Issue → Thread → Except Flt OpReq) : (State.startOps s g flagged hashed srcs mk).pool = s.pool := by unfold State.startOps; (repeat' split) <;> simp
@[simp] theorem State.startOps_saved (s : State) (g : BitVec 4) (flagged : Bool) (hashed : Bool) (srcs : List Reg) (mk : Issue → Thread → Except Flt OpReq) : (State.startOps s g flagged hashed srcs mk).saved = s.saved := by unfold State.startOps; (repeat' split) <;> simp
@[simp] theorem State.startOps_faultRecs (s : State) (g : BitVec 4) (flagged : Bool) (hashed : Bool) (srcs : List Reg) (mk : Issue → Thread → Except Flt OpReq) : (State.startOps s g flagged hashed srcs mk).faultRecs = s.faultRecs := by unfold State.startOps; (repeat' split) <;> simp
@[simp] theorem State.startOps_ctxs (s : State) (g : BitVec 4) (flagged : Bool) (hashed : Bool) (srcs : List Reg) (mk : Issue → Thread → Except Flt OpReq) : (State.startOps s g flagged hashed srcs mk).ctxs = s.ctxs := by unfold State.startOps; (repeat' split) <;> simp
@[simp] theorem State.startOps_amsgs (s : State) (g : BitVec 4) (flagged : Bool) (hashed : Bool) (srcs : List Reg) (mk : Issue → Thread → Except Flt OpReq) : (State.startOps s g flagged hashed srcs mk).amsgs = s.amsgs := by unfold State.startOps; (repeat' split) <;> simp
@[simp] theorem State.startOps_queues (s : State) (g : BitVec 4) (flagged : Bool) (hashed : Bool) (srcs : List Reg) (mk : Issue → Thread → Except Flt OpReq) : (State.startOps s g flagged hashed srcs mk).queues = s.queues := by unfold State.startOps; (repeat' split) <;> simp
@[simp] theorem State.startOps_bulks (s : State) (g : BitVec 4) (flagged : Bool) (hashed : Bool) (srcs : List Reg) (mk : Issue → Thread → Except Flt OpReq) : (State.startOps s g flagged hashed srcs mk).bulks = s.bulks := by unfold State.startOps; (repeat' split) <;> simp
@[simp] theorem State.startOps_kiln (s : State) (g : BitVec 4) (flagged : Bool) (hashed : Bool) (srcs : List Reg) (mk : Issue → Thread → Except Flt OpReq) : (State.startOps s g flagged hashed srcs mk).kiln = s.kiln := by unfold State.startOps; (repeat' split) <;> simp
@[simp] theorem State.startOps_dev (s : State) (g : BitVec 4) (flagged : Bool) (hashed : Bool) (srcs : List Reg) (mk : Issue → Thread → Except Flt OpReq) : (State.startOps s g flagged hashed srcs mk).dev = s.dev := by unfold State.startOps; (repeat' split) <;> simp

/-! `State.kernelError` changes `kernels`. -/
@[simp] theorem State.kernelError_agenda (s : State) (gid : Nat) (code : Nat) (pc : Word) : (State.kernelError s gid code pc).agenda = s.agenda := by unfold State.kernelError; split <;> rfl
@[simp] theorem State.kernelError_turn (s : State) (gid : Nat) (code : Nat) (pc : Word) : (State.kernelError s gid code pc).turn = s.turn := by unfold State.kernelError; split <;> rfl
@[simp] theorem State.kernelError_fresh (s : State) (gid : Nat) (code : Nat) (pc : Word) : (State.kernelError s gid code pc).fresh = s.fresh := by unfold State.kernelError; split <;> rfl
@[simp] theorem State.kernelError_threads (s : State) (gid : Nat) (code : Nat) (pc : Word) : (State.kernelError s gid code pc).threads = s.threads := by unfold State.kernelError; split <;> rfl
@[simp] theorem State.kernelError_cohorts (s : State) (gid : Nat) (code : Nat) (pc : Word) : (State.kernelError s gid code pc).cohorts = s.cohorts := by unfold State.kernelError; split <;> rfl
@[simp] theorem State.kernelError_issues (s : State) (gid : Nat) (code : Nat) (pc : Word) : (State.kernelError s gid code pc).issues = s.issues := by unfold State.kernelError; split <;> rfl
@[simp] theorem State.kernelError_groups (s : State) (gid : Nat) (code : Nat) (pc : Word) : (State.kernelError s gid code pc).groups = s.groups := by unfold State.kernelError; split <;> rfl
@[simp] theorem State.kernelError_launches (s : State) (gid : Nat) (code : Nat) (pc : Word) : (State.kernelError s gid code pc).launches = s.launches := by unfold State.kernelError; split <;> rfl
@[simp] theorem State.kernelError_cores (s : State) (gid : Nat) (code : Nat) (pc : Word) : (State.kernelError s gid code pc).cores = s.cores := by unfold State.kernelError; split <;> rfl
@[simp] theorem State.kernelError_ops (s : State) (gid : Nat) (code : Nat) (pc : Word) : (State.kernelError s gid code pc).ops = s.ops := by unfold State.kernelError; split <;> rfl
@[simp] theorem State.kernelError_uses (s : State) (gid : Nat) (code : Nat) (pc : Word) : (State.kernelError s gid code pc).uses = s.uses := by unfold State.kernelError; split <;> rfl
@[simp] theorem State.kernelError_mgroups (s : State) (gid : Nat) (code : Nat) (pc : Word) : (State.kernelError s gid code pc).mgroups = s.mgroups := by unfold State.kernelError; split <;> rfl
@[simp] theorem State.kernelError_cmds (s : State) (gid : Nat) (code : Nat) (pc : Word) : (State.kernelError s gid code pc).cmds = s.cmds := by unfold State.kernelError; split <;> rfl
@[simp] theorem State.kernelError_cpys (s : State) (gid : Nat) (code : Nat) (pc : Word) : (State.kernelError s gid code pc).cpys = s.cpys := by unfold State.kernelError; split <;> rfl
@[simp] theorem State.kernelError_monitors (s : State) (gid : Nat) (code : Nat) (pc : Word) : (State.kernelError s gid code pc).monitors = s.monitors := by unfold State.kernelError; split <;> rfl
@[simp] theorem State.kernelError_msgs (s : State) (gid : Nat) (code : Nat) (pc : Word) : (State.kernelError s gid code pc).msgs = s.msgs := by unfold State.kernelError; split <;> rfl
@[simp] theorem State.kernelError_replies (s : State) (gid : Nat) (code : Nat) (pc : Word) : (State.kernelError s gid code pc).replies = s.replies := by unfold State.kernelError; split <;> rfl
@[simp] theorem State.kernelError_rels (s : State) (gid : Nat) (code : Nat) (pc : Word) : (State.kernelError s gid code pc).rels = s.rels := by unfold State.kernelError; split <;> rfl
@[simp] theorem State.kernelError_walks (s : State) (gid : Nat) (code : Nat) (pc : Word) : (State.kernelError s gid code pc).walks = s.walks := by unfold State.kernelError; split <;> rfl
@[simp] theorem State.kernelError_mem (s : State) (gid : Nat) (code : Nat) (pc : Word) : (State.kernelError s gid code pc).mem = s.mem := by unfold State.kernelError; split <;> rfl
@[simp] theorem State.kernelError_pool (s : State) (gid : Nat) (code : Nat) (pc : Word) : (State.kernelError s gid code pc).pool = s.pool := by unfold State.kernelError; split <;> rfl
@[simp] theorem State.kernelError_saved (s : State) (gid : Nat) (code : Nat) (pc : Word) : (State.kernelError s gid code pc).saved = s.saved := by unfold State.kernelError; split <;> rfl
@[simp] theorem State.kernelError_faultRecs (s : State) (gid : Nat) (code : Nat) (pc : Word) : (State.kernelError s gid code pc).faultRecs = s.faultRecs := by unfold State.kernelError; split <;> rfl
@[simp] theorem State.kernelError_ctxs (s : State) (gid : Nat) (code : Nat) (pc : Word) : (State.kernelError s gid code pc).ctxs = s.ctxs := by unfold State.kernelError; split <;> rfl
@[simp] theorem State.kernelError_amsgs (s : State) (gid : Nat) (code : Nat) (pc : Word) : (State.kernelError s gid code pc).amsgs = s.amsgs := by unfold State.kernelError; split <;> rfl
@[simp] theorem State.kernelError_queues (s : State) (gid : Nat) (code : Nat) (pc : Word) : (State.kernelError s gid code pc).queues = s.queues := by unfold State.kernelError; split <;> rfl
@[simp] theorem State.kernelError_bulks (s : State) (gid : Nat) (code : Nat) (pc : Word) : (State.kernelError s gid code pc).bulks = s.bulks := by unfold State.kernelError; split <;> rfl
@[simp] theorem State.kernelError_kiln (s : State) (gid : Nat) (code : Nat) (pc : Word) : (State.kernelError s gid code pc).kiln = s.kiln := by unfold State.kernelError; split <;> rfl
@[simp] theorem State.kernelError_dev (s : State) (gid : Nat) (code : Nat) (pc : Word) : (State.kernelError s gid code pc).dev = s.dev := by unfold State.kernelError; split <;> rfl

/-! `State.releaseColours` changes `fresh` and `threads` and `rels`. -/
@[simp] theorem State.releaseColours_agenda (s : State) (tid : Nat) (which : Held → Bool) : (State.releaseColours s tid which).agenda = s.agenda := by unfold State.releaseColours; split <;> rfl
@[simp] theorem State.releaseColours_turn (s : State) (tid : Nat) (which : Held → Bool) : (State.releaseColours s tid which).turn = s.turn := by unfold State.releaseColours; split <;> rfl
@[simp] theorem State.releaseColours_cohorts (s : State) (tid : Nat) (which : Held → Bool) : (State.releaseColours s tid which).cohorts = s.cohorts := by unfold State.releaseColours; split <;> rfl
@[simp] theorem State.releaseColours_issues (s : State) (tid : Nat) (which : Held → Bool) : (State.releaseColours s tid which).issues = s.issues := by unfold State.releaseColours; split <;> rfl
@[simp] theorem State.releaseColours_groups (s : State) (tid : Nat) (which : Held → Bool) : (State.releaseColours s tid which).groups = s.groups := by unfold State.releaseColours; split <;> rfl
@[simp] theorem State.releaseColours_kernels (s : State) (tid : Nat) (which : Held → Bool) : (State.releaseColours s tid which).kernels = s.kernels := by unfold State.releaseColours; split <;> rfl
@[simp] theorem State.releaseColours_launches (s : State) (tid : Nat) (which : Held → Bool) : (State.releaseColours s tid which).launches = s.launches := by unfold State.releaseColours; split <;> rfl
@[simp] theorem State.releaseColours_cores (s : State) (tid : Nat) (which : Held → Bool) : (State.releaseColours s tid which).cores = s.cores := by unfold State.releaseColours; split <;> rfl
@[simp] theorem State.releaseColours_ops (s : State) (tid : Nat) (which : Held → Bool) : (State.releaseColours s tid which).ops = s.ops := by unfold State.releaseColours; split <;> rfl
@[simp] theorem State.releaseColours_uses (s : State) (tid : Nat) (which : Held → Bool) : (State.releaseColours s tid which).uses = s.uses := by unfold State.releaseColours; split <;> rfl
@[simp] theorem State.releaseColours_mgroups (s : State) (tid : Nat) (which : Held → Bool) : (State.releaseColours s tid which).mgroups = s.mgroups := by unfold State.releaseColours; split <;> rfl
@[simp] theorem State.releaseColours_cmds (s : State) (tid : Nat) (which : Held → Bool) : (State.releaseColours s tid which).cmds = s.cmds := by unfold State.releaseColours; split <;> rfl
@[simp] theorem State.releaseColours_cpys (s : State) (tid : Nat) (which : Held → Bool) : (State.releaseColours s tid which).cpys = s.cpys := by unfold State.releaseColours; split <;> rfl
@[simp] theorem State.releaseColours_monitors (s : State) (tid : Nat) (which : Held → Bool) : (State.releaseColours s tid which).monitors = s.monitors := by unfold State.releaseColours; split <;> rfl
@[simp] theorem State.releaseColours_msgs (s : State) (tid : Nat) (which : Held → Bool) : (State.releaseColours s tid which).msgs = s.msgs := by unfold State.releaseColours; split <;> rfl
@[simp] theorem State.releaseColours_replies (s : State) (tid : Nat) (which : Held → Bool) : (State.releaseColours s tid which).replies = s.replies := by unfold State.releaseColours; split <;> rfl
@[simp] theorem State.releaseColours_walks (s : State) (tid : Nat) (which : Held → Bool) : (State.releaseColours s tid which).walks = s.walks := by unfold State.releaseColours; split <;> rfl
@[simp] theorem State.releaseColours_mem (s : State) (tid : Nat) (which : Held → Bool) : (State.releaseColours s tid which).mem = s.mem := by unfold State.releaseColours; split <;> rfl
@[simp] theorem State.releaseColours_pool (s : State) (tid : Nat) (which : Held → Bool) : (State.releaseColours s tid which).pool = s.pool := by unfold State.releaseColours; split <;> rfl
@[simp] theorem State.releaseColours_saved (s : State) (tid : Nat) (which : Held → Bool) : (State.releaseColours s tid which).saved = s.saved := by unfold State.releaseColours; split <;> rfl
@[simp] theorem State.releaseColours_faultRecs (s : State) (tid : Nat) (which : Held → Bool) : (State.releaseColours s tid which).faultRecs = s.faultRecs := by unfold State.releaseColours; split <;> rfl
@[simp] theorem State.releaseColours_ctxs (s : State) (tid : Nat) (which : Held → Bool) : (State.releaseColours s tid which).ctxs = s.ctxs := by unfold State.releaseColours; split <;> rfl
@[simp] theorem State.releaseColours_amsgs (s : State) (tid : Nat) (which : Held → Bool) : (State.releaseColours s tid which).amsgs = s.amsgs := by unfold State.releaseColours; split <;> rfl
@[simp] theorem State.releaseColours_queues (s : State) (tid : Nat) (which : Held → Bool) : (State.releaseColours s tid which).queues = s.queues := by unfold State.releaseColours; split <;> rfl
@[simp] theorem State.releaseColours_bulks (s : State) (tid : Nat) (which : Held → Bool) : (State.releaseColours s tid which).bulks = s.bulks := by unfold State.releaseColours; split <;> rfl
@[simp] theorem State.releaseColours_kiln (s : State) (tid : Nat) (which : Held → Bool) : (State.releaseColours s tid which).kiln = s.kiln := by unfold State.releaseColours; split <;> rfl
@[simp] theorem State.releaseColours_dev (s : State) (tid : Nat) (which : Held → Bool) : (State.releaseColours s tid which).dev = s.dev := by unfold State.releaseColours; split <;> rfl

/-! `State.exitThread` changes `fresh` and `threads` and `mgroups` and `rels`. -/
@[simp] theorem State.exitThread_agenda (s : State) (tid : Nat) : (State.exitThread s tid).agenda = s.agenda := by unfold State.exitThread; (repeat' split) <;> simp
@[simp] theorem State.exitThread_turn (s : State) (tid : Nat) : (State.exitThread s tid).turn = s.turn := by unfold State.exitThread; (repeat' split) <;> simp
@[simp] theorem State.exitThread_cohorts (s : State) (tid : Nat) : (State.exitThread s tid).cohorts = s.cohorts := by unfold State.exitThread; (repeat' split) <;> simp
@[simp] theorem State.exitThread_issues (s : State) (tid : Nat) : (State.exitThread s tid).issues = s.issues := by unfold State.exitThread; (repeat' split) <;> simp
@[simp] theorem State.exitThread_groups (s : State) (tid : Nat) : (State.exitThread s tid).groups = s.groups := by unfold State.exitThread; (repeat' split) <;> simp
@[simp] theorem State.exitThread_kernels (s : State) (tid : Nat) : (State.exitThread s tid).kernels = s.kernels := by unfold State.exitThread; (repeat' split) <;> simp
@[simp] theorem State.exitThread_launches (s : State) (tid : Nat) : (State.exitThread s tid).launches = s.launches := by unfold State.exitThread; (repeat' split) <;> simp
@[simp] theorem State.exitThread_cores (s : State) (tid : Nat) : (State.exitThread s tid).cores = s.cores := by unfold State.exitThread; (repeat' split) <;> simp
@[simp] theorem State.exitThread_ops (s : State) (tid : Nat) : (State.exitThread s tid).ops = s.ops := by unfold State.exitThread; (repeat' split) <;> simp
@[simp] theorem State.exitThread_uses (s : State) (tid : Nat) : (State.exitThread s tid).uses = s.uses := by unfold State.exitThread; (repeat' split) <;> simp
@[simp] theorem State.exitThread_cmds (s : State) (tid : Nat) : (State.exitThread s tid).cmds = s.cmds := by unfold State.exitThread; (repeat' split) <;> simp
@[simp] theorem State.exitThread_cpys (s : State) (tid : Nat) : (State.exitThread s tid).cpys = s.cpys := by unfold State.exitThread; (repeat' split) <;> simp
@[simp] theorem State.exitThread_monitors (s : State) (tid : Nat) : (State.exitThread s tid).monitors = s.monitors := by unfold State.exitThread; (repeat' split) <;> simp
@[simp] theorem State.exitThread_msgs (s : State) (tid : Nat) : (State.exitThread s tid).msgs = s.msgs := by unfold State.exitThread; (repeat' split) <;> simp
@[simp] theorem State.exitThread_replies (s : State) (tid : Nat) : (State.exitThread s tid).replies = s.replies := by unfold State.exitThread; (repeat' split) <;> simp
@[simp] theorem State.exitThread_walks (s : State) (tid : Nat) : (State.exitThread s tid).walks = s.walks := by unfold State.exitThread; (repeat' split) <;> simp
@[simp] theorem State.exitThread_mem (s : State) (tid : Nat) : (State.exitThread s tid).mem = s.mem := by unfold State.exitThread; (repeat' split) <;> simp
@[simp] theorem State.exitThread_pool (s : State) (tid : Nat) : (State.exitThread s tid).pool = s.pool := by unfold State.exitThread; (repeat' split) <;> simp
@[simp] theorem State.exitThread_saved (s : State) (tid : Nat) : (State.exitThread s tid).saved = s.saved := by unfold State.exitThread; (repeat' split) <;> simp
@[simp] theorem State.exitThread_faultRecs (s : State) (tid : Nat) : (State.exitThread s tid).faultRecs = s.faultRecs := by unfold State.exitThread; (repeat' split) <;> simp
@[simp] theorem State.exitThread_ctxs (s : State) (tid : Nat) : (State.exitThread s tid).ctxs = s.ctxs := by unfold State.exitThread; (repeat' split) <;> simp
@[simp] theorem State.exitThread_amsgs (s : State) (tid : Nat) : (State.exitThread s tid).amsgs = s.amsgs := by unfold State.exitThread; (repeat' split) <;> simp
@[simp] theorem State.exitThread_queues (s : State) (tid : Nat) : (State.exitThread s tid).queues = s.queues := by unfold State.exitThread; (repeat' split) <;> simp
@[simp] theorem State.exitThread_bulks (s : State) (tid : Nat) : (State.exitThread s tid).bulks = s.bulks := by unfold State.exitThread; (repeat' split) <;> simp
@[simp] theorem State.exitThread_kiln (s : State) (tid : Nat) : (State.exitThread s tid).kiln = s.kiln := by unfold State.exitThread; (repeat' split) <;> simp
@[simp] theorem State.exitThread_dev (s : State) (tid : Nat) : (State.exitThread s tid).dev = s.dev := by unfold State.exitThread; (repeat' split) <;> simp

/-! `State.takeTrap` changes `fresh` and `threads` and `kernels` and `mgroups` and `rels`. -/
@[simp] theorem State.takeTrap_agenda (s : State) (t : Thread) : (State.takeTrap s t).agenda = s.agenda := by unfold State.takeTrap; dsimp only; (repeat' split) <;> simp
@[simp] theorem State.takeTrap_turn (s : State) (t : Thread) : (State.takeTrap s t).turn = s.turn := by unfold State.takeTrap; dsimp only; (repeat' split) <;> simp
@[simp] theorem State.takeTrap_cohorts (s : State) (t : Thread) : (State.takeTrap s t).cohorts = s.cohorts := by unfold State.takeTrap; dsimp only; (repeat' split) <;> simp
@[simp] theorem State.takeTrap_issues (s : State) (t : Thread) : (State.takeTrap s t).issues = s.issues := by unfold State.takeTrap; dsimp only; (repeat' split) <;> simp
@[simp] theorem State.takeTrap_groups (s : State) (t : Thread) : (State.takeTrap s t).groups = s.groups := by unfold State.takeTrap; dsimp only; (repeat' split) <;> simp
@[simp] theorem State.takeTrap_launches (s : State) (t : Thread) : (State.takeTrap s t).launches = s.launches := by unfold State.takeTrap; dsimp only; (repeat' split) <;> simp
@[simp] theorem State.takeTrap_cores (s : State) (t : Thread) : (State.takeTrap s t).cores = s.cores := by unfold State.takeTrap; dsimp only; (repeat' split) <;> simp
@[simp] theorem State.takeTrap_ops (s : State) (t : Thread) : (State.takeTrap s t).ops = s.ops := by unfold State.takeTrap; dsimp only; (repeat' split) <;> simp
@[simp] theorem State.takeTrap_uses (s : State) (t : Thread) : (State.takeTrap s t).uses = s.uses := by unfold State.takeTrap; dsimp only; (repeat' split) <;> simp
@[simp] theorem State.takeTrap_cmds (s : State) (t : Thread) : (State.takeTrap s t).cmds = s.cmds := by unfold State.takeTrap; dsimp only; (repeat' split) <;> simp
@[simp] theorem State.takeTrap_cpys (s : State) (t : Thread) : (State.takeTrap s t).cpys = s.cpys := by unfold State.takeTrap; dsimp only; (repeat' split) <;> simp
@[simp] theorem State.takeTrap_monitors (s : State) (t : Thread) : (State.takeTrap s t).monitors = s.monitors := by unfold State.takeTrap; dsimp only; (repeat' split) <;> simp
@[simp] theorem State.takeTrap_msgs (s : State) (t : Thread) : (State.takeTrap s t).msgs = s.msgs := by unfold State.takeTrap; dsimp only; (repeat' split) <;> simp
@[simp] theorem State.takeTrap_replies (s : State) (t : Thread) : (State.takeTrap s t).replies = s.replies := by unfold State.takeTrap; dsimp only; (repeat' split) <;> simp
@[simp] theorem State.takeTrap_walks (s : State) (t : Thread) : (State.takeTrap s t).walks = s.walks := by unfold State.takeTrap; dsimp only; (repeat' split) <;> simp
@[simp] theorem State.takeTrap_mem (s : State) (t : Thread) : (State.takeTrap s t).mem = s.mem := by unfold State.takeTrap; dsimp only; (repeat' split) <;> simp
@[simp] theorem State.takeTrap_pool (s : State) (t : Thread) : (State.takeTrap s t).pool = s.pool := by unfold State.takeTrap; dsimp only; (repeat' split) <;> simp
@[simp] theorem State.takeTrap_saved (s : State) (t : Thread) : (State.takeTrap s t).saved = s.saved := by unfold State.takeTrap; dsimp only; (repeat' split) <;> simp
@[simp] theorem State.takeTrap_faultRecs (s : State) (t : Thread) : (State.takeTrap s t).faultRecs = s.faultRecs := by unfold State.takeTrap; dsimp only; (repeat' split) <;> simp
@[simp] theorem State.takeTrap_ctxs (s : State) (t : Thread) : (State.takeTrap s t).ctxs = s.ctxs := by unfold State.takeTrap; dsimp only; (repeat' split) <;> simp
@[simp] theorem State.takeTrap_amsgs (s : State) (t : Thread) : (State.takeTrap s t).amsgs = s.amsgs := by unfold State.takeTrap; dsimp only; (repeat' split) <;> simp
@[simp] theorem State.takeTrap_queues (s : State) (t : Thread) : (State.takeTrap s t).queues = s.queues := by unfold State.takeTrap; dsimp only; (repeat' split) <;> simp
@[simp] theorem State.takeTrap_bulks (s : State) (t : Thread) : (State.takeTrap s t).bulks = s.bulks := by unfold State.takeTrap; dsimp only; (repeat' split) <;> simp
@[simp] theorem State.takeTrap_kiln (s : State) (t : Thread) : (State.takeTrap s t).kiln = s.kiln := by unfold State.takeTrap; dsimp only; (repeat' split) <;> simp
@[simp] theorem State.takeTrap_dev (s : State) (t : Thread) : (State.takeTrap s t).dev = s.dev := by unfold State.takeTrap; dsimp only; (repeat' split) <;> simp

/-! `State.lateFault` changes `threads` and `kernels`. -/
@[simp] theorem State.lateFault_agenda (s : State) (tid : Nat) (d : Due) : (State.lateFault s tid d).agenda = s.agenda := by unfold State.lateFault; (repeat' split) <;> simp
@[simp] theorem State.lateFault_turn (s : State) (tid : Nat) (d : Due) : (State.lateFault s tid d).turn = s.turn := by unfold State.lateFault; (repeat' split) <;> simp
@[simp] theorem State.lateFault_fresh (s : State) (tid : Nat) (d : Due) : (State.lateFault s tid d).fresh = s.fresh := by unfold State.lateFault; (repeat' split) <;> simp
@[simp] theorem State.lateFault_cohorts (s : State) (tid : Nat) (d : Due) : (State.lateFault s tid d).cohorts = s.cohorts := by unfold State.lateFault; (repeat' split) <;> simp
@[simp] theorem State.lateFault_issues (s : State) (tid : Nat) (d : Due) : (State.lateFault s tid d).issues = s.issues := by unfold State.lateFault; (repeat' split) <;> simp
@[simp] theorem State.lateFault_groups (s : State) (tid : Nat) (d : Due) : (State.lateFault s tid d).groups = s.groups := by unfold State.lateFault; (repeat' split) <;> simp
@[simp] theorem State.lateFault_launches (s : State) (tid : Nat) (d : Due) : (State.lateFault s tid d).launches = s.launches := by unfold State.lateFault; (repeat' split) <;> simp
@[simp] theorem State.lateFault_cores (s : State) (tid : Nat) (d : Due) : (State.lateFault s tid d).cores = s.cores := by unfold State.lateFault; (repeat' split) <;> simp
@[simp] theorem State.lateFault_ops (s : State) (tid : Nat) (d : Due) : (State.lateFault s tid d).ops = s.ops := by unfold State.lateFault; (repeat' split) <;> simp
@[simp] theorem State.lateFault_uses (s : State) (tid : Nat) (d : Due) : (State.lateFault s tid d).uses = s.uses := by unfold State.lateFault; (repeat' split) <;> simp
@[simp] theorem State.lateFault_mgroups (s : State) (tid : Nat) (d : Due) : (State.lateFault s tid d).mgroups = s.mgroups := by unfold State.lateFault; (repeat' split) <;> simp
@[simp] theorem State.lateFault_cmds (s : State) (tid : Nat) (d : Due) : (State.lateFault s tid d).cmds = s.cmds := by unfold State.lateFault; (repeat' split) <;> simp
@[simp] theorem State.lateFault_cpys (s : State) (tid : Nat) (d : Due) : (State.lateFault s tid d).cpys = s.cpys := by unfold State.lateFault; (repeat' split) <;> simp
@[simp] theorem State.lateFault_monitors (s : State) (tid : Nat) (d : Due) : (State.lateFault s tid d).monitors = s.monitors := by unfold State.lateFault; (repeat' split) <;> simp
@[simp] theorem State.lateFault_msgs (s : State) (tid : Nat) (d : Due) : (State.lateFault s tid d).msgs = s.msgs := by unfold State.lateFault; (repeat' split) <;> simp
@[simp] theorem State.lateFault_replies (s : State) (tid : Nat) (d : Due) : (State.lateFault s tid d).replies = s.replies := by unfold State.lateFault; (repeat' split) <;> simp
@[simp] theorem State.lateFault_rels (s : State) (tid : Nat) (d : Due) : (State.lateFault s tid d).rels = s.rels := by unfold State.lateFault; (repeat' split) <;> simp
@[simp] theorem State.lateFault_walks (s : State) (tid : Nat) (d : Due) : (State.lateFault s tid d).walks = s.walks := by unfold State.lateFault; (repeat' split) <;> simp
@[simp] theorem State.lateFault_mem (s : State) (tid : Nat) (d : Due) : (State.lateFault s tid d).mem = s.mem := by unfold State.lateFault; (repeat' split) <;> simp
@[simp] theorem State.lateFault_pool (s : State) (tid : Nat) (d : Due) : (State.lateFault s tid d).pool = s.pool := by unfold State.lateFault; (repeat' split) <;> simp
@[simp] theorem State.lateFault_saved (s : State) (tid : Nat) (d : Due) : (State.lateFault s tid d).saved = s.saved := by unfold State.lateFault; (repeat' split) <;> simp
@[simp] theorem State.lateFault_faultRecs (s : State) (tid : Nat) (d : Due) : (State.lateFault s tid d).faultRecs = s.faultRecs := by unfold State.lateFault; (repeat' split) <;> simp
@[simp] theorem State.lateFault_ctxs (s : State) (tid : Nat) (d : Due) : (State.lateFault s tid d).ctxs = s.ctxs := by unfold State.lateFault; (repeat' split) <;> simp
@[simp] theorem State.lateFault_amsgs (s : State) (tid : Nat) (d : Due) : (State.lateFault s tid d).amsgs = s.amsgs := by unfold State.lateFault; (repeat' split) <;> simp
@[simp] theorem State.lateFault_queues (s : State) (tid : Nat) (d : Due) : (State.lateFault s tid d).queues = s.queues := by unfold State.lateFault; (repeat' split) <;> simp
@[simp] theorem State.lateFault_bulks (s : State) (tid : Nat) (d : Due) : (State.lateFault s tid d).bulks = s.bulks := by unfold State.lateFault; (repeat' split) <;> simp
@[simp] theorem State.lateFault_kiln (s : State) (tid : Nat) (d : Due) : (State.lateFault s tid d).kiln = s.kiln := by unfold State.lateFault; (repeat' split) <;> simp
@[simp] theorem State.lateFault_dev (s : State) (tid : Nat) (d : Due) : (State.lateFault s tid d).dev = s.dev := by unfold State.lateFault; (repeat' split) <;> simp

/-! `State.parkUse` changes `cohorts` and `ops` and `uses`. -/
@[simp] theorem State.parkUse_agenda (s : State) (tid : Nat) (p : Park) : (State.parkUse s tid p).agenda = s.agenda := by unfold State.parkUse; exact foldl_field (fun s : State => s.agenda) _ (fun s x => by simp) _ _
@[simp] theorem State.parkUse_turn (s : State) (tid : Nat) (p : Park) : (State.parkUse s tid p).turn = s.turn := by unfold State.parkUse; exact foldl_field (fun s : State => s.turn) _ (fun s x => by simp) _ _
@[simp] theorem State.parkUse_fresh (s : State) (tid : Nat) (p : Park) : (State.parkUse s tid p).fresh = s.fresh := by unfold State.parkUse; exact foldl_field (fun s : State => s.fresh) _ (fun s x => by simp) _ _
@[simp] theorem State.parkUse_threads (s : State) (tid : Nat) (p : Park) : (State.parkUse s tid p).threads = s.threads := by unfold State.parkUse; exact foldl_field (fun s : State => s.threads) _ (fun s x => by simp) _ _
@[simp] theorem State.parkUse_issues (s : State) (tid : Nat) (p : Park) : (State.parkUse s tid p).issues = s.issues := by unfold State.parkUse; exact foldl_field (fun s : State => s.issues) _ (fun s x => by simp) _ _
@[simp] theorem State.parkUse_groups (s : State) (tid : Nat) (p : Park) : (State.parkUse s tid p).groups = s.groups := by unfold State.parkUse; exact foldl_field (fun s : State => s.groups) _ (fun s x => by simp) _ _
@[simp] theorem State.parkUse_kernels (s : State) (tid : Nat) (p : Park) : (State.parkUse s tid p).kernels = s.kernels := by unfold State.parkUse; exact foldl_field (fun s : State => s.kernels) _ (fun s x => by simp) _ _
@[simp] theorem State.parkUse_launches (s : State) (tid : Nat) (p : Park) : (State.parkUse s tid p).launches = s.launches := by unfold State.parkUse; exact foldl_field (fun s : State => s.launches) _ (fun s x => by simp) _ _
@[simp] theorem State.parkUse_cores (s : State) (tid : Nat) (p : Park) : (State.parkUse s tid p).cores = s.cores := by unfold State.parkUse; exact foldl_field (fun s : State => s.cores) _ (fun s x => by simp) _ _
@[simp] theorem State.parkUse_mgroups (s : State) (tid : Nat) (p : Park) : (State.parkUse s tid p).mgroups = s.mgroups := by unfold State.parkUse; exact foldl_field (fun s : State => s.mgroups) _ (fun s x => by simp) _ _
@[simp] theorem State.parkUse_cmds (s : State) (tid : Nat) (p : Park) : (State.parkUse s tid p).cmds = s.cmds := by unfold State.parkUse; exact foldl_field (fun s : State => s.cmds) _ (fun s x => by simp) _ _
@[simp] theorem State.parkUse_cpys (s : State) (tid : Nat) (p : Park) : (State.parkUse s tid p).cpys = s.cpys := by unfold State.parkUse; exact foldl_field (fun s : State => s.cpys) _ (fun s x => by simp) _ _
@[simp] theorem State.parkUse_monitors (s : State) (tid : Nat) (p : Park) : (State.parkUse s tid p).monitors = s.monitors := by unfold State.parkUse; exact foldl_field (fun s : State => s.monitors) _ (fun s x => by simp) _ _
@[simp] theorem State.parkUse_msgs (s : State) (tid : Nat) (p : Park) : (State.parkUse s tid p).msgs = s.msgs := by unfold State.parkUse; exact foldl_field (fun s : State => s.msgs) _ (fun s x => by simp) _ _
@[simp] theorem State.parkUse_replies (s : State) (tid : Nat) (p : Park) : (State.parkUse s tid p).replies = s.replies := by unfold State.parkUse; exact foldl_field (fun s : State => s.replies) _ (fun s x => by simp) _ _
@[simp] theorem State.parkUse_rels (s : State) (tid : Nat) (p : Park) : (State.parkUse s tid p).rels = s.rels := by unfold State.parkUse; exact foldl_field (fun s : State => s.rels) _ (fun s x => by simp) _ _
@[simp] theorem State.parkUse_walks (s : State) (tid : Nat) (p : Park) : (State.parkUse s tid p).walks = s.walks := by unfold State.parkUse; exact foldl_field (fun s : State => s.walks) _ (fun s x => by simp) _ _
@[simp] theorem State.parkUse_mem (s : State) (tid : Nat) (p : Park) : (State.parkUse s tid p).mem = s.mem := by unfold State.parkUse; exact foldl_field (fun s : State => s.mem) _ (fun s x => by simp) _ _
@[simp] theorem State.parkUse_pool (s : State) (tid : Nat) (p : Park) : (State.parkUse s tid p).pool = s.pool := by unfold State.parkUse; exact foldl_field (fun s : State => s.pool) _ (fun s x => by simp) _ _
@[simp] theorem State.parkUse_saved (s : State) (tid : Nat) (p : Park) : (State.parkUse s tid p).saved = s.saved := by unfold State.parkUse; exact foldl_field (fun s : State => s.saved) _ (fun s x => by simp) _ _
@[simp] theorem State.parkUse_faultRecs (s : State) (tid : Nat) (p : Park) : (State.parkUse s tid p).faultRecs = s.faultRecs := by unfold State.parkUse; exact foldl_field (fun s : State => s.faultRecs) _ (fun s x => by simp) _ _
@[simp] theorem State.parkUse_ctxs (s : State) (tid : Nat) (p : Park) : (State.parkUse s tid p).ctxs = s.ctxs := by unfold State.parkUse; exact foldl_field (fun s : State => s.ctxs) _ (fun s x => by simp) _ _
@[simp] theorem State.parkUse_amsgs (s : State) (tid : Nat) (p : Park) : (State.parkUse s tid p).amsgs = s.amsgs := by unfold State.parkUse; exact foldl_field (fun s : State => s.amsgs) _ (fun s x => by simp) _ _
@[simp] theorem State.parkUse_queues (s : State) (tid : Nat) (p : Park) : (State.parkUse s tid p).queues = s.queues := by unfold State.parkUse; exact foldl_field (fun s : State => s.queues) _ (fun s x => by simp) _ _
@[simp] theorem State.parkUse_bulks (s : State) (tid : Nat) (p : Park) : (State.parkUse s tid p).bulks = s.bulks := by unfold State.parkUse; exact foldl_field (fun s : State => s.bulks) _ (fun s x => by simp) _ _
@[simp] theorem State.parkUse_kiln (s : State) (tid : Nat) (p : Park) : (State.parkUse s tid p).kiln = s.kiln := by unfold State.parkUse; exact foldl_field (fun s : State => s.kiln) _ (fun s x => by simp) _ _
@[simp] theorem State.parkUse_dev (s : State) (tid : Nat) (p : Park) : (State.parkUse s tid p).dev = s.dev := by unfold State.parkUse; exact foldl_field (fun s : State => s.dev) _ (fun s x => by simp) _ _

/-! `State.addPark` changes `threads` and `cohorts` and `ops` and `uses`. -/
@[simp] theorem State.addPark_agenda (s : State) (tid : Nat) (p : Park) : (State.addPark s tid p).agenda = s.agenda := by unfold State.addPark; split <;> simp
@[simp] theorem State.addPark_turn (s : State) (tid : Nat) (p : Park) : (State.addPark s tid p).turn = s.turn := by unfold State.addPark; split <;> simp
@[simp] theorem State.addPark_fresh (s : State) (tid : Nat) (p : Park) : (State.addPark s tid p).fresh = s.fresh := by unfold State.addPark; split <;> simp
@[simp] theorem State.addPark_issues (s : State) (tid : Nat) (p : Park) : (State.addPark s tid p).issues = s.issues := by unfold State.addPark; split <;> simp
@[simp] theorem State.addPark_groups (s : State) (tid : Nat) (p : Park) : (State.addPark s tid p).groups = s.groups := by unfold State.addPark; split <;> simp
@[simp] theorem State.addPark_kernels (s : State) (tid : Nat) (p : Park) : (State.addPark s tid p).kernels = s.kernels := by unfold State.addPark; split <;> simp
@[simp] theorem State.addPark_launches (s : State) (tid : Nat) (p : Park) : (State.addPark s tid p).launches = s.launches := by unfold State.addPark; split <;> simp
@[simp] theorem State.addPark_cores (s : State) (tid : Nat) (p : Park) : (State.addPark s tid p).cores = s.cores := by unfold State.addPark; split <;> simp
@[simp] theorem State.addPark_mgroups (s : State) (tid : Nat) (p : Park) : (State.addPark s tid p).mgroups = s.mgroups := by unfold State.addPark; split <;> simp
@[simp] theorem State.addPark_cmds (s : State) (tid : Nat) (p : Park) : (State.addPark s tid p).cmds = s.cmds := by unfold State.addPark; split <;> simp
@[simp] theorem State.addPark_cpys (s : State) (tid : Nat) (p : Park) : (State.addPark s tid p).cpys = s.cpys := by unfold State.addPark; split <;> simp
@[simp] theorem State.addPark_monitors (s : State) (tid : Nat) (p : Park) : (State.addPark s tid p).monitors = s.monitors := by unfold State.addPark; split <;> simp
@[simp] theorem State.addPark_msgs (s : State) (tid : Nat) (p : Park) : (State.addPark s tid p).msgs = s.msgs := by unfold State.addPark; split <;> simp
@[simp] theorem State.addPark_replies (s : State) (tid : Nat) (p : Park) : (State.addPark s tid p).replies = s.replies := by unfold State.addPark; split <;> simp
@[simp] theorem State.addPark_rels (s : State) (tid : Nat) (p : Park) : (State.addPark s tid p).rels = s.rels := by unfold State.addPark; split <;> simp
@[simp] theorem State.addPark_walks (s : State) (tid : Nat) (p : Park) : (State.addPark s tid p).walks = s.walks := by unfold State.addPark; split <;> simp
@[simp] theorem State.addPark_mem (s : State) (tid : Nat) (p : Park) : (State.addPark s tid p).mem = s.mem := by unfold State.addPark; split <;> simp
@[simp] theorem State.addPark_pool (s : State) (tid : Nat) (p : Park) : (State.addPark s tid p).pool = s.pool := by unfold State.addPark; split <;> simp
@[simp] theorem State.addPark_saved (s : State) (tid : Nat) (p : Park) : (State.addPark s tid p).saved = s.saved := by unfold State.addPark; split <;> simp
@[simp] theorem State.addPark_faultRecs (s : State) (tid : Nat) (p : Park) : (State.addPark s tid p).faultRecs = s.faultRecs := by unfold State.addPark; split <;> simp
@[simp] theorem State.addPark_ctxs (s : State) (tid : Nat) (p : Park) : (State.addPark s tid p).ctxs = s.ctxs := by unfold State.addPark; split <;> simp
@[simp] theorem State.addPark_amsgs (s : State) (tid : Nat) (p : Park) : (State.addPark s tid p).amsgs = s.amsgs := by unfold State.addPark; split <;> simp
@[simp] theorem State.addPark_queues (s : State) (tid : Nat) (p : Park) : (State.addPark s tid p).queues = s.queues := by unfold State.addPark; split <;> simp
@[simp] theorem State.addPark_bulks (s : State) (tid : Nat) (p : Park) : (State.addPark s tid p).bulks = s.bulks := by unfold State.addPark; split <;> simp
@[simp] theorem State.addPark_kiln (s : State) (tid : Nat) (p : Park) : (State.addPark s tid p).kiln = s.kiln := by unfold State.addPark; split <;> simp
@[simp] theorem State.addPark_dev (s : State) (tid : Nat) (p : Park) : (State.addPark s tid p).dev = s.dev := by unfold State.addPark; split <;> simp

/-! `State.endPark` changes `threads`. -/
@[simp] theorem State.endPark_agenda (s : State) (tid : Nat) (which : Park → Bool) : (State.endPark s tid which).agenda = s.agenda := rfl
@[simp] theorem State.endPark_turn (s : State) (tid : Nat) (which : Park → Bool) : (State.endPark s tid which).turn = s.turn := rfl
@[simp] theorem State.endPark_fresh (s : State) (tid : Nat) (which : Park → Bool) : (State.endPark s tid which).fresh = s.fresh := rfl
@[simp] theorem State.endPark_cohorts (s : State) (tid : Nat) (which : Park → Bool) : (State.endPark s tid which).cohorts = s.cohorts := rfl
@[simp] theorem State.endPark_issues (s : State) (tid : Nat) (which : Park → Bool) : (State.endPark s tid which).issues = s.issues := rfl
@[simp] theorem State.endPark_groups (s : State) (tid : Nat) (which : Park → Bool) : (State.endPark s tid which).groups = s.groups := rfl
@[simp] theorem State.endPark_kernels (s : State) (tid : Nat) (which : Park → Bool) : (State.endPark s tid which).kernels = s.kernels := rfl
@[simp] theorem State.endPark_launches (s : State) (tid : Nat) (which : Park → Bool) : (State.endPark s tid which).launches = s.launches := rfl
@[simp] theorem State.endPark_cores (s : State) (tid : Nat) (which : Park → Bool) : (State.endPark s tid which).cores = s.cores := rfl
@[simp] theorem State.endPark_ops (s : State) (tid : Nat) (which : Park → Bool) : (State.endPark s tid which).ops = s.ops := rfl
@[simp] theorem State.endPark_uses (s : State) (tid : Nat) (which : Park → Bool) : (State.endPark s tid which).uses = s.uses := rfl
@[simp] theorem State.endPark_mgroups (s : State) (tid : Nat) (which : Park → Bool) : (State.endPark s tid which).mgroups = s.mgroups := rfl
@[simp] theorem State.endPark_cmds (s : State) (tid : Nat) (which : Park → Bool) : (State.endPark s tid which).cmds = s.cmds := rfl
@[simp] theorem State.endPark_cpys (s : State) (tid : Nat) (which : Park → Bool) : (State.endPark s tid which).cpys = s.cpys := rfl
@[simp] theorem State.endPark_monitors (s : State) (tid : Nat) (which : Park → Bool) : (State.endPark s tid which).monitors = s.monitors := rfl
@[simp] theorem State.endPark_msgs (s : State) (tid : Nat) (which : Park → Bool) : (State.endPark s tid which).msgs = s.msgs := rfl
@[simp] theorem State.endPark_replies (s : State) (tid : Nat) (which : Park → Bool) : (State.endPark s tid which).replies = s.replies := rfl
@[simp] theorem State.endPark_rels (s : State) (tid : Nat) (which : Park → Bool) : (State.endPark s tid which).rels = s.rels := rfl
@[simp] theorem State.endPark_walks (s : State) (tid : Nat) (which : Park → Bool) : (State.endPark s tid which).walks = s.walks := rfl
@[simp] theorem State.endPark_mem (s : State) (tid : Nat) (which : Park → Bool) : (State.endPark s tid which).mem = s.mem := rfl
@[simp] theorem State.endPark_pool (s : State) (tid : Nat) (which : Park → Bool) : (State.endPark s tid which).pool = s.pool := rfl
@[simp] theorem State.endPark_saved (s : State) (tid : Nat) (which : Park → Bool) : (State.endPark s tid which).saved = s.saved := rfl
@[simp] theorem State.endPark_faultRecs (s : State) (tid : Nat) (which : Park → Bool) : (State.endPark s tid which).faultRecs = s.faultRecs := rfl
@[simp] theorem State.endPark_ctxs (s : State) (tid : Nat) (which : Park → Bool) : (State.endPark s tid which).ctxs = s.ctxs := rfl
@[simp] theorem State.endPark_amsgs (s : State) (tid : Nat) (which : Park → Bool) : (State.endPark s tid which).amsgs = s.amsgs := rfl
@[simp] theorem State.endPark_queues (s : State) (tid : Nat) (which : Park → Bool) : (State.endPark s tid which).queues = s.queues := rfl
@[simp] theorem State.endPark_bulks (s : State) (tid : Nat) (which : Park → Bool) : (State.endPark s tid which).bulks = s.bulks := rfl
@[simp] theorem State.endPark_kiln (s : State) (tid : Nat) (which : Park → Bool) : (State.endPark s tid which).kiln = s.kiln := rfl
@[simp] theorem State.endPark_dev (s : State) (tid : Nat) (which : Park → Bool) : (State.endPark s tid which).dev = s.dev := rfl

/-! `State.finishOp` changes `fresh` and `threads` and `cohorts` and `ops` and `uses`. -/
@[simp] theorem State.finishOp_agenda (s : State) (o : Op) (dep : Nat) (es : List Eff) : (State.finishOp s o dep es).agenda = s.agenda := by unfold State.finishOp; simp
@[simp] theorem State.finishOp_turn (s : State) (o : Op) (dep : Nat) (es : List Eff) : (State.finishOp s o dep es).turn = s.turn := by unfold State.finishOp; simp
@[simp] theorem State.finishOp_issues (s : State) (o : Op) (dep : Nat) (es : List Eff) : (State.finishOp s o dep es).issues = s.issues := by unfold State.finishOp; simp
@[simp] theorem State.finishOp_groups (s : State) (o : Op) (dep : Nat) (es : List Eff) : (State.finishOp s o dep es).groups = s.groups := by unfold State.finishOp; simp
@[simp] theorem State.finishOp_kernels (s : State) (o : Op) (dep : Nat) (es : List Eff) : (State.finishOp s o dep es).kernels = s.kernels := by unfold State.finishOp; simp
@[simp] theorem State.finishOp_launches (s : State) (o : Op) (dep : Nat) (es : List Eff) : (State.finishOp s o dep es).launches = s.launches := by unfold State.finishOp; simp
@[simp] theorem State.finishOp_cores (s : State) (o : Op) (dep : Nat) (es : List Eff) : (State.finishOp s o dep es).cores = s.cores := by unfold State.finishOp; simp
@[simp] theorem State.finishOp_mgroups (s : State) (o : Op) (dep : Nat) (es : List Eff) : (State.finishOp s o dep es).mgroups = s.mgroups := by unfold State.finishOp; simp
@[simp] theorem State.finishOp_cmds (s : State) (o : Op) (dep : Nat) (es : List Eff) : (State.finishOp s o dep es).cmds = s.cmds := by unfold State.finishOp; simp
@[simp] theorem State.finishOp_cpys (s : State) (o : Op) (dep : Nat) (es : List Eff) : (State.finishOp s o dep es).cpys = s.cpys := by unfold State.finishOp; simp
@[simp] theorem State.finishOp_monitors (s : State) (o : Op) (dep : Nat) (es : List Eff) : (State.finishOp s o dep es).monitors = s.monitors := by unfold State.finishOp; simp
@[simp] theorem State.finishOp_msgs (s : State) (o : Op) (dep : Nat) (es : List Eff) : (State.finishOp s o dep es).msgs = s.msgs := by unfold State.finishOp; simp
@[simp] theorem State.finishOp_replies (s : State) (o : Op) (dep : Nat) (es : List Eff) : (State.finishOp s o dep es).replies = s.replies := by unfold State.finishOp; simp
@[simp] theorem State.finishOp_rels (s : State) (o : Op) (dep : Nat) (es : List Eff) : (State.finishOp s o dep es).rels = s.rels := by unfold State.finishOp; simp
@[simp] theorem State.finishOp_walks (s : State) (o : Op) (dep : Nat) (es : List Eff) : (State.finishOp s o dep es).walks = s.walks := by unfold State.finishOp; simp
@[simp] theorem State.finishOp_mem (s : State) (o : Op) (dep : Nat) (es : List Eff) : (State.finishOp s o dep es).mem = s.mem := by unfold State.finishOp; simp
@[simp] theorem State.finishOp_pool (s : State) (o : Op) (dep : Nat) (es : List Eff) : (State.finishOp s o dep es).pool = s.pool := by unfold State.finishOp; simp
@[simp] theorem State.finishOp_saved (s : State) (o : Op) (dep : Nat) (es : List Eff) : (State.finishOp s o dep es).saved = s.saved := by unfold State.finishOp; simp
@[simp] theorem State.finishOp_faultRecs (s : State) (o : Op) (dep : Nat) (es : List Eff) : (State.finishOp s o dep es).faultRecs = s.faultRecs := by unfold State.finishOp; simp
@[simp] theorem State.finishOp_ctxs (s : State) (o : Op) (dep : Nat) (es : List Eff) : (State.finishOp s o dep es).ctxs = s.ctxs := by unfold State.finishOp; simp
@[simp] theorem State.finishOp_amsgs (s : State) (o : Op) (dep : Nat) (es : List Eff) : (State.finishOp s o dep es).amsgs = s.amsgs := by unfold State.finishOp; simp
@[simp] theorem State.finishOp_queues (s : State) (o : Op) (dep : Nat) (es : List Eff) : (State.finishOp s o dep es).queues = s.queues := by unfold State.finishOp; simp
@[simp] theorem State.finishOp_bulks (s : State) (o : Op) (dep : Nat) (es : List Eff) : (State.finishOp s o dep es).bulks = s.bulks := by unfold State.finishOp; simp
@[simp] theorem State.finishOp_kiln (s : State) (o : Op) (dep : Nat) (es : List Eff) : (State.finishOp s o dep es).kiln = s.kiln := by unfold State.finishOp; simp
@[simp] theorem State.finishOp_dev (s : State) (o : Op) (dep : Nat) (es : List Eff) : (State.finishOp s o dep es).dev = s.dev := by unfold State.finishOp; simp

/-! `State.trapWoken` changes `fresh` and `threads` and `kernels` and `mgroups` and `rels`. -/
@[simp] theorem State.trapWoken_agenda (s : State) (was : TSt) (tid : Nat) : (State.trapWoken s was tid).agenda = s.agenda := by unfold State.trapWoken; (repeat' split) <;> simp
@[simp] theorem State.trapWoken_turn (s : State) (was : TSt) (tid : Nat) : (State.trapWoken s was tid).turn = s.turn := by unfold State.trapWoken; (repeat' split) <;> simp
@[simp] theorem State.trapWoken_cohorts (s : State) (was : TSt) (tid : Nat) : (State.trapWoken s was tid).cohorts = s.cohorts := by unfold State.trapWoken; (repeat' split) <;> simp
@[simp] theorem State.trapWoken_issues (s : State) (was : TSt) (tid : Nat) : (State.trapWoken s was tid).issues = s.issues := by unfold State.trapWoken; (repeat' split) <;> simp
@[simp] theorem State.trapWoken_groups (s : State) (was : TSt) (tid : Nat) : (State.trapWoken s was tid).groups = s.groups := by unfold State.trapWoken; (repeat' split) <;> simp
@[simp] theorem State.trapWoken_launches (s : State) (was : TSt) (tid : Nat) : (State.trapWoken s was tid).launches = s.launches := by unfold State.trapWoken; (repeat' split) <;> simp
@[simp] theorem State.trapWoken_cores (s : State) (was : TSt) (tid : Nat) : (State.trapWoken s was tid).cores = s.cores := by unfold State.trapWoken; (repeat' split) <;> simp
@[simp] theorem State.trapWoken_ops (s : State) (was : TSt) (tid : Nat) : (State.trapWoken s was tid).ops = s.ops := by unfold State.trapWoken; (repeat' split) <;> simp
@[simp] theorem State.trapWoken_uses (s : State) (was : TSt) (tid : Nat) : (State.trapWoken s was tid).uses = s.uses := by unfold State.trapWoken; (repeat' split) <;> simp
@[simp] theorem State.trapWoken_cmds (s : State) (was : TSt) (tid : Nat) : (State.trapWoken s was tid).cmds = s.cmds := by unfold State.trapWoken; (repeat' split) <;> simp
@[simp] theorem State.trapWoken_cpys (s : State) (was : TSt) (tid : Nat) : (State.trapWoken s was tid).cpys = s.cpys := by unfold State.trapWoken; (repeat' split) <;> simp
@[simp] theorem State.trapWoken_monitors (s : State) (was : TSt) (tid : Nat) : (State.trapWoken s was tid).monitors = s.monitors := by unfold State.trapWoken; (repeat' split) <;> simp
@[simp] theorem State.trapWoken_msgs (s : State) (was : TSt) (tid : Nat) : (State.trapWoken s was tid).msgs = s.msgs := by unfold State.trapWoken; (repeat' split) <;> simp
@[simp] theorem State.trapWoken_replies (s : State) (was : TSt) (tid : Nat) : (State.trapWoken s was tid).replies = s.replies := by unfold State.trapWoken; (repeat' split) <;> simp
@[simp] theorem State.trapWoken_walks (s : State) (was : TSt) (tid : Nat) : (State.trapWoken s was tid).walks = s.walks := by unfold State.trapWoken; (repeat' split) <;> simp
@[simp] theorem State.trapWoken_mem (s : State) (was : TSt) (tid : Nat) : (State.trapWoken s was tid).mem = s.mem := by unfold State.trapWoken; (repeat' split) <;> simp
@[simp] theorem State.trapWoken_pool (s : State) (was : TSt) (tid : Nat) : (State.trapWoken s was tid).pool = s.pool := by unfold State.trapWoken; (repeat' split) <;> simp
@[simp] theorem State.trapWoken_saved (s : State) (was : TSt) (tid : Nat) : (State.trapWoken s was tid).saved = s.saved := by unfold State.trapWoken; (repeat' split) <;> simp
@[simp] theorem State.trapWoken_faultRecs (s : State) (was : TSt) (tid : Nat) : (State.trapWoken s was tid).faultRecs = s.faultRecs := by unfold State.trapWoken; (repeat' split) <;> simp
@[simp] theorem State.trapWoken_ctxs (s : State) (was : TSt) (tid : Nat) : (State.trapWoken s was tid).ctxs = s.ctxs := by unfold State.trapWoken; (repeat' split) <;> simp
@[simp] theorem State.trapWoken_amsgs (s : State) (was : TSt) (tid : Nat) : (State.trapWoken s was tid).amsgs = s.amsgs := by unfold State.trapWoken; (repeat' split) <;> simp
@[simp] theorem State.trapWoken_queues (s : State) (was : TSt) (tid : Nat) : (State.trapWoken s was tid).queues = s.queues := by unfold State.trapWoken; (repeat' split) <;> simp
@[simp] theorem State.trapWoken_bulks (s : State) (was : TSt) (tid : Nat) : (State.trapWoken s was tid).bulks = s.bulks := by unfold State.trapWoken; (repeat' split) <;> simp
@[simp] theorem State.trapWoken_kiln (s : State) (was : TSt) (tid : Nat) : (State.trapWoken s was tid).kiln = s.kiln := by unfold State.trapWoken; (repeat' split) <;> simp
@[simp] theorem State.trapWoken_dev (s : State) (was : TSt) (tid : Nat) : (State.trapWoken s was tid).dev = s.dev := by unfold State.trapWoken; (repeat' split) <;> simp

/-! `State.endInFault` changes `fresh` and `threads` and `kernels` and `ops` and `mgroups` and `rels`. -/
@[simp] theorem State.endInFault_agenda (s : State) (o : Op) (t : Thread) (d : Due) : (State.endInFault s o t d).agenda = s.agenda := by unfold State.endInFault; simp
@[simp] theorem State.endInFault_turn (s : State) (o : Op) (t : Thread) (d : Due) : (State.endInFault s o t d).turn = s.turn := by unfold State.endInFault; simp
@[simp] theorem State.endInFault_cohorts (s : State) (o : Op) (t : Thread) (d : Due) : (State.endInFault s o t d).cohorts = s.cohorts := by unfold State.endInFault; simp
@[simp] theorem State.endInFault_issues (s : State) (o : Op) (t : Thread) (d : Due) : (State.endInFault s o t d).issues = s.issues := by unfold State.endInFault; simp
@[simp] theorem State.endInFault_groups (s : State) (o : Op) (t : Thread) (d : Due) : (State.endInFault s o t d).groups = s.groups := by unfold State.endInFault; simp
@[simp] theorem State.endInFault_launches (s : State) (o : Op) (t : Thread) (d : Due) : (State.endInFault s o t d).launches = s.launches := by unfold State.endInFault; simp
@[simp] theorem State.endInFault_cores (s : State) (o : Op) (t : Thread) (d : Due) : (State.endInFault s o t d).cores = s.cores := by unfold State.endInFault; simp
@[simp] theorem State.endInFault_uses (s : State) (o : Op) (t : Thread) (d : Due) : (State.endInFault s o t d).uses = s.uses := by unfold State.endInFault; simp
@[simp] theorem State.endInFault_cmds (s : State) (o : Op) (t : Thread) (d : Due) : (State.endInFault s o t d).cmds = s.cmds := by unfold State.endInFault; simp
@[simp] theorem State.endInFault_cpys (s : State) (o : Op) (t : Thread) (d : Due) : (State.endInFault s o t d).cpys = s.cpys := by unfold State.endInFault; simp
@[simp] theorem State.endInFault_monitors (s : State) (o : Op) (t : Thread) (d : Due) : (State.endInFault s o t d).monitors = s.monitors := by unfold State.endInFault; simp
@[simp] theorem State.endInFault_msgs (s : State) (o : Op) (t : Thread) (d : Due) : (State.endInFault s o t d).msgs = s.msgs := by unfold State.endInFault; simp
@[simp] theorem State.endInFault_replies (s : State) (o : Op) (t : Thread) (d : Due) : (State.endInFault s o t d).replies = s.replies := by unfold State.endInFault; simp
@[simp] theorem State.endInFault_walks (s : State) (o : Op) (t : Thread) (d : Due) : (State.endInFault s o t d).walks = s.walks := by unfold State.endInFault; simp
@[simp] theorem State.endInFault_mem (s : State) (o : Op) (t : Thread) (d : Due) : (State.endInFault s o t d).mem = s.mem := by unfold State.endInFault; simp
@[simp] theorem State.endInFault_pool (s : State) (o : Op) (t : Thread) (d : Due) : (State.endInFault s o t d).pool = s.pool := by unfold State.endInFault; simp
@[simp] theorem State.endInFault_saved (s : State) (o : Op) (t : Thread) (d : Due) : (State.endInFault s o t d).saved = s.saved := by unfold State.endInFault; simp
@[simp] theorem State.endInFault_faultRecs (s : State) (o : Op) (t : Thread) (d : Due) : (State.endInFault s o t d).faultRecs = s.faultRecs := by unfold State.endInFault; simp
@[simp] theorem State.endInFault_ctxs (s : State) (o : Op) (t : Thread) (d : Due) : (State.endInFault s o t d).ctxs = s.ctxs := by unfold State.endInFault; simp
@[simp] theorem State.endInFault_amsgs (s : State) (o : Op) (t : Thread) (d : Due) : (State.endInFault s o t d).amsgs = s.amsgs := by unfold State.endInFault; simp
@[simp] theorem State.endInFault_queues (s : State) (o : Op) (t : Thread) (d : Due) : (State.endInFault s o t d).queues = s.queues := by unfold State.endInFault; simp
@[simp] theorem State.endInFault_bulks (s : State) (o : Op) (t : Thread) (d : Due) : (State.endInFault s o t d).bulks = s.bulks := by unfold State.endInFault; simp
@[simp] theorem State.endInFault_kiln (s : State) (o : Op) (t : Thread) (d : Due) : (State.endInFault s o t d).kiln = s.kiln := by unfold State.endInFault; simp
@[simp] theorem State.endInFault_dev (s : State) (o : Op) (t : Thread) (d : Due) : (State.endInFault s o t d).dev = s.dev := by unfold State.endInFault; simp

/-! `State.flaggedFault` changes `fresh` and `threads` and `cohorts` and `kernels` and `ops` and `uses` and `mgroups` and `rels`. -/
@[simp] theorem State.flaggedFault_agenda (s : State) (o : Op) (d : Due) : (State.flaggedFault s o d).agenda = s.agenda := by unfold State.flaggedFault; split <;> simp
@[simp] theorem State.flaggedFault_turn (s : State) (o : Op) (d : Due) : (State.flaggedFault s o d).turn = s.turn := by unfold State.flaggedFault; split <;> simp
@[simp] theorem State.flaggedFault_issues (s : State) (o : Op) (d : Due) : (State.flaggedFault s o d).issues = s.issues := by unfold State.flaggedFault; split <;> simp
@[simp] theorem State.flaggedFault_groups (s : State) (o : Op) (d : Due) : (State.flaggedFault s o d).groups = s.groups := by unfold State.flaggedFault; split <;> simp
@[simp] theorem State.flaggedFault_launches (s : State) (o : Op) (d : Due) : (State.flaggedFault s o d).launches = s.launches := by unfold State.flaggedFault; split <;> simp
@[simp] theorem State.flaggedFault_cores (s : State) (o : Op) (d : Due) : (State.flaggedFault s o d).cores = s.cores := by unfold State.flaggedFault; split <;> simp
@[simp] theorem State.flaggedFault_cmds (s : State) (o : Op) (d : Due) : (State.flaggedFault s o d).cmds = s.cmds := by unfold State.flaggedFault; split <;> simp
@[simp] theorem State.flaggedFault_cpys (s : State) (o : Op) (d : Due) : (State.flaggedFault s o d).cpys = s.cpys := by unfold State.flaggedFault; split <;> simp
@[simp] theorem State.flaggedFault_monitors (s : State) (o : Op) (d : Due) : (State.flaggedFault s o d).monitors = s.monitors := by unfold State.flaggedFault; split <;> simp
@[simp] theorem State.flaggedFault_msgs (s : State) (o : Op) (d : Due) : (State.flaggedFault s o d).msgs = s.msgs := by unfold State.flaggedFault; split <;> simp
@[simp] theorem State.flaggedFault_replies (s : State) (o : Op) (d : Due) : (State.flaggedFault s o d).replies = s.replies := by unfold State.flaggedFault; split <;> simp
@[simp] theorem State.flaggedFault_walks (s : State) (o : Op) (d : Due) : (State.flaggedFault s o d).walks = s.walks := by unfold State.flaggedFault; split <;> simp
@[simp] theorem State.flaggedFault_mem (s : State) (o : Op) (d : Due) : (State.flaggedFault s o d).mem = s.mem := by unfold State.flaggedFault; split <;> simp
@[simp] theorem State.flaggedFault_pool (s : State) (o : Op) (d : Due) : (State.flaggedFault s o d).pool = s.pool := by unfold State.flaggedFault; split <;> simp
@[simp] theorem State.flaggedFault_saved (s : State) (o : Op) (d : Due) : (State.flaggedFault s o d).saved = s.saved := by unfold State.flaggedFault; split <;> simp
@[simp] theorem State.flaggedFault_faultRecs (s : State) (o : Op) (d : Due) : (State.flaggedFault s o d).faultRecs = s.faultRecs := by unfold State.flaggedFault; split <;> simp
@[simp] theorem State.flaggedFault_ctxs (s : State) (o : Op) (d : Due) : (State.flaggedFault s o d).ctxs = s.ctxs := by unfold State.flaggedFault; split <;> simp
@[simp] theorem State.flaggedFault_amsgs (s : State) (o : Op) (d : Due) : (State.flaggedFault s o d).amsgs = s.amsgs := by unfold State.flaggedFault; split <;> simp
@[simp] theorem State.flaggedFault_queues (s : State) (o : Op) (d : Due) : (State.flaggedFault s o d).queues = s.queues := by unfold State.flaggedFault; split <;> simp
@[simp] theorem State.flaggedFault_bulks (s : State) (o : Op) (d : Due) : (State.flaggedFault s o d).bulks = s.bulks := by unfold State.flaggedFault; split <;> simp
@[simp] theorem State.flaggedFault_kiln (s : State) (o : Op) (d : Due) : (State.flaggedFault s o d).kiln = s.kiln := by unfold State.flaggedFault; split <;> simp
@[simp] theorem State.flaggedFault_dev (s : State) (o : Op) (d : Due) : (State.flaggedFault s o d).dev = s.dev := by unfold State.flaggedFault; split <;> simp

/-! `State.faultOp` changes `fresh` and `threads` and `cohorts` and `kernels` and `ops` and `uses` and `mgroups` and `rels`. -/
@[simp] theorem State.faultOp_agenda (s : State) (o : Op) (code : Nat) (addr : Word) : (State.faultOp s o code addr).agenda = s.agenda := by unfold State.faultOp; (repeat' split) <;> simp
@[simp] theorem State.faultOp_turn (s : State) (o : Op) (code : Nat) (addr : Word) : (State.faultOp s o code addr).turn = s.turn := by unfold State.faultOp; (repeat' split) <;> simp
@[simp] theorem State.faultOp_issues (s : State) (o : Op) (code : Nat) (addr : Word) : (State.faultOp s o code addr).issues = s.issues := by unfold State.faultOp; (repeat' split) <;> simp
@[simp] theorem State.faultOp_groups (s : State) (o : Op) (code : Nat) (addr : Word) : (State.faultOp s o code addr).groups = s.groups := by unfold State.faultOp; (repeat' split) <;> simp
@[simp] theorem State.faultOp_launches (s : State) (o : Op) (code : Nat) (addr : Word) : (State.faultOp s o code addr).launches = s.launches := by unfold State.faultOp; (repeat' split) <;> simp
@[simp] theorem State.faultOp_cores (s : State) (o : Op) (code : Nat) (addr : Word) : (State.faultOp s o code addr).cores = s.cores := by unfold State.faultOp; (repeat' split) <;> simp
@[simp] theorem State.faultOp_cmds (s : State) (o : Op) (code : Nat) (addr : Word) : (State.faultOp s o code addr).cmds = s.cmds := by unfold State.faultOp; (repeat' split) <;> simp
@[simp] theorem State.faultOp_cpys (s : State) (o : Op) (code : Nat) (addr : Word) : (State.faultOp s o code addr).cpys = s.cpys := by unfold State.faultOp; (repeat' split) <;> simp
@[simp] theorem State.faultOp_monitors (s : State) (o : Op) (code : Nat) (addr : Word) : (State.faultOp s o code addr).monitors = s.monitors := by unfold State.faultOp; (repeat' split) <;> simp
@[simp] theorem State.faultOp_msgs (s : State) (o : Op) (code : Nat) (addr : Word) : (State.faultOp s o code addr).msgs = s.msgs := by unfold State.faultOp; (repeat' split) <;> simp
@[simp] theorem State.faultOp_replies (s : State) (o : Op) (code : Nat) (addr : Word) : (State.faultOp s o code addr).replies = s.replies := by unfold State.faultOp; (repeat' split) <;> simp
@[simp] theorem State.faultOp_walks (s : State) (o : Op) (code : Nat) (addr : Word) : (State.faultOp s o code addr).walks = s.walks := by unfold State.faultOp; (repeat' split) <;> simp
@[simp] theorem State.faultOp_mem (s : State) (o : Op) (code : Nat) (addr : Word) : (State.faultOp s o code addr).mem = s.mem := by unfold State.faultOp; (repeat' split) <;> simp
@[simp] theorem State.faultOp_pool (s : State) (o : Op) (code : Nat) (addr : Word) : (State.faultOp s o code addr).pool = s.pool := by unfold State.faultOp; (repeat' split) <;> simp
@[simp] theorem State.faultOp_saved (s : State) (o : Op) (code : Nat) (addr : Word) : (State.faultOp s o code addr).saved = s.saved := by unfold State.faultOp; (repeat' split) <;> simp
@[simp] theorem State.faultOp_faultRecs (s : State) (o : Op) (code : Nat) (addr : Word) : (State.faultOp s o code addr).faultRecs = s.faultRecs := by unfold State.faultOp; (repeat' split) <;> simp
@[simp] theorem State.faultOp_ctxs (s : State) (o : Op) (code : Nat) (addr : Word) : (State.faultOp s o code addr).ctxs = s.ctxs := by unfold State.faultOp; (repeat' split) <;> simp
@[simp] theorem State.faultOp_amsgs (s : State) (o : Op) (code : Nat) (addr : Word) : (State.faultOp s o code addr).amsgs = s.amsgs := by unfold State.faultOp; (repeat' split) <;> simp
@[simp] theorem State.faultOp_queues (s : State) (o : Op) (code : Nat) (addr : Word) : (State.faultOp s o code addr).queues = s.queues := by unfold State.faultOp; (repeat' split) <;> simp
@[simp] theorem State.faultOp_bulks (s : State) (o : Op) (code : Nat) (addr : Word) : (State.faultOp s o code addr).bulks = s.bulks := by unfold State.faultOp; (repeat' split) <;> simp
@[simp] theorem State.faultOp_kiln (s : State) (o : Op) (code : Nat) (addr : Word) : (State.faultOp s o code addr).kiln = s.kiln := by unfold State.faultOp; (repeat' split) <;> simp
@[simp] theorem State.faultOp_dev (s : State) (o : Op) (code : Nat) (addr : Word) : (State.faultOp s o code addr).dev = s.dev := by unfold State.faultOp; (repeat' split) <;> simp

/-! `State.fillTlb` changes `mem`. -/
@[simp] theorem State.fillTlb_agenda (s : State) (die : Nat) (asid : Nat) (e : Word) (base : Nat) (size : Nat) : (State.fillTlb s die asid e base size).agenda = s.agenda := by unfold State.fillTlb; split <;> rfl
@[simp] theorem State.fillTlb_turn (s : State) (die : Nat) (asid : Nat) (e : Word) (base : Nat) (size : Nat) : (State.fillTlb s die asid e base size).turn = s.turn := by unfold State.fillTlb; split <;> rfl
@[simp] theorem State.fillTlb_fresh (s : State) (die : Nat) (asid : Nat) (e : Word) (base : Nat) (size : Nat) : (State.fillTlb s die asid e base size).fresh = s.fresh := by unfold State.fillTlb; split <;> rfl
@[simp] theorem State.fillTlb_threads (s : State) (die : Nat) (asid : Nat) (e : Word) (base : Nat) (size : Nat) : (State.fillTlb s die asid e base size).threads = s.threads := by unfold State.fillTlb; split <;> rfl
@[simp] theorem State.fillTlb_cohorts (s : State) (die : Nat) (asid : Nat) (e : Word) (base : Nat) (size : Nat) : (State.fillTlb s die asid e base size).cohorts = s.cohorts := by unfold State.fillTlb; split <;> rfl
@[simp] theorem State.fillTlb_issues (s : State) (die : Nat) (asid : Nat) (e : Word) (base : Nat) (size : Nat) : (State.fillTlb s die asid e base size).issues = s.issues := by unfold State.fillTlb; split <;> rfl
@[simp] theorem State.fillTlb_groups (s : State) (die : Nat) (asid : Nat) (e : Word) (base : Nat) (size : Nat) : (State.fillTlb s die asid e base size).groups = s.groups := by unfold State.fillTlb; split <;> rfl
@[simp] theorem State.fillTlb_kernels (s : State) (die : Nat) (asid : Nat) (e : Word) (base : Nat) (size : Nat) : (State.fillTlb s die asid e base size).kernels = s.kernels := by unfold State.fillTlb; split <;> rfl
@[simp] theorem State.fillTlb_launches (s : State) (die : Nat) (asid : Nat) (e : Word) (base : Nat) (size : Nat) : (State.fillTlb s die asid e base size).launches = s.launches := by unfold State.fillTlb; split <;> rfl
@[simp] theorem State.fillTlb_cores (s : State) (die : Nat) (asid : Nat) (e : Word) (base : Nat) (size : Nat) : (State.fillTlb s die asid e base size).cores = s.cores := by unfold State.fillTlb; split <;> rfl
@[simp] theorem State.fillTlb_ops (s : State) (die : Nat) (asid : Nat) (e : Word) (base : Nat) (size : Nat) : (State.fillTlb s die asid e base size).ops = s.ops := by unfold State.fillTlb; split <;> rfl
@[simp] theorem State.fillTlb_uses (s : State) (die : Nat) (asid : Nat) (e : Word) (base : Nat) (size : Nat) : (State.fillTlb s die asid e base size).uses = s.uses := by unfold State.fillTlb; split <;> rfl
@[simp] theorem State.fillTlb_mgroups (s : State) (die : Nat) (asid : Nat) (e : Word) (base : Nat) (size : Nat) : (State.fillTlb s die asid e base size).mgroups = s.mgroups := by unfold State.fillTlb; split <;> rfl
@[simp] theorem State.fillTlb_cmds (s : State) (die : Nat) (asid : Nat) (e : Word) (base : Nat) (size : Nat) : (State.fillTlb s die asid e base size).cmds = s.cmds := by unfold State.fillTlb; split <;> rfl
@[simp] theorem State.fillTlb_cpys (s : State) (die : Nat) (asid : Nat) (e : Word) (base : Nat) (size : Nat) : (State.fillTlb s die asid e base size).cpys = s.cpys := by unfold State.fillTlb; split <;> rfl
@[simp] theorem State.fillTlb_monitors (s : State) (die : Nat) (asid : Nat) (e : Word) (base : Nat) (size : Nat) : (State.fillTlb s die asid e base size).monitors = s.monitors := by unfold State.fillTlb; split <;> rfl
@[simp] theorem State.fillTlb_msgs (s : State) (die : Nat) (asid : Nat) (e : Word) (base : Nat) (size : Nat) : (State.fillTlb s die asid e base size).msgs = s.msgs := by unfold State.fillTlb; split <;> rfl
@[simp] theorem State.fillTlb_replies (s : State) (die : Nat) (asid : Nat) (e : Word) (base : Nat) (size : Nat) : (State.fillTlb s die asid e base size).replies = s.replies := by unfold State.fillTlb; split <;> rfl
@[simp] theorem State.fillTlb_rels (s : State) (die : Nat) (asid : Nat) (e : Word) (base : Nat) (size : Nat) : (State.fillTlb s die asid e base size).rels = s.rels := by unfold State.fillTlb; split <;> rfl
@[simp] theorem State.fillTlb_walks (s : State) (die : Nat) (asid : Nat) (e : Word) (base : Nat) (size : Nat) : (State.fillTlb s die asid e base size).walks = s.walks := by unfold State.fillTlb; split <;> rfl
@[simp] theorem State.fillTlb_pool (s : State) (die : Nat) (asid : Nat) (e : Word) (base : Nat) (size : Nat) : (State.fillTlb s die asid e base size).pool = s.pool := by unfold State.fillTlb; split <;> rfl
@[simp] theorem State.fillTlb_saved (s : State) (die : Nat) (asid : Nat) (e : Word) (base : Nat) (size : Nat) : (State.fillTlb s die asid e base size).saved = s.saved := by unfold State.fillTlb; split <;> rfl
@[simp] theorem State.fillTlb_faultRecs (s : State) (die : Nat) (asid : Nat) (e : Word) (base : Nat) (size : Nat) : (State.fillTlb s die asid e base size).faultRecs = s.faultRecs := by unfold State.fillTlb; split <;> rfl
@[simp] theorem State.fillTlb_ctxs (s : State) (die : Nat) (asid : Nat) (e : Word) (base : Nat) (size : Nat) : (State.fillTlb s die asid e base size).ctxs = s.ctxs := by unfold State.fillTlb; split <;> rfl
@[simp] theorem State.fillTlb_amsgs (s : State) (die : Nat) (asid : Nat) (e : Word) (base : Nat) (size : Nat) : (State.fillTlb s die asid e base size).amsgs = s.amsgs := by unfold State.fillTlb; split <;> rfl
@[simp] theorem State.fillTlb_queues (s : State) (die : Nat) (asid : Nat) (e : Word) (base : Nat) (size : Nat) : (State.fillTlb s die asid e base size).queues = s.queues := by unfold State.fillTlb; split <;> rfl
@[simp] theorem State.fillTlb_bulks (s : State) (die : Nat) (asid : Nat) (e : Word) (base : Nat) (size : Nat) : (State.fillTlb s die asid e base size).bulks = s.bulks := by unfold State.fillTlb; split <;> rfl
@[simp] theorem State.fillTlb_kiln (s : State) (die : Nat) (asid : Nat) (e : Word) (base : Nat) (size : Nat) : (State.fillTlb s die asid e base size).kiln = s.kiln := by unfold State.fillTlb; split <;> rfl
@[simp] theorem State.fillTlb_dev (s : State) (die : Nat) (asid : Nat) (e : Word) (base : Nat) (size : Nat) : (State.fillTlb s die asid e base size).dev = s.dev := by unfold State.fillTlb; split <;> rfl

/-! `State.meetLine` changes `mem`. -/
@[simp] theorem State.meetLine_agenda (s : State) (node addr : Nat) : (State.meetLine s node addr).agenda = s.agenda := by unfold State.meetLine; dsimp only; split <;> rfl
@[simp] theorem State.meetLine_turn (s : State) (node addr : Nat) : (State.meetLine s node addr).turn = s.turn := by unfold State.meetLine; dsimp only; split <;> rfl
@[simp] theorem State.meetLine_fresh (s : State) (node addr : Nat) : (State.meetLine s node addr).fresh = s.fresh := by unfold State.meetLine; dsimp only; split <;> rfl
@[simp] theorem State.meetLine_threads (s : State) (node addr : Nat) : (State.meetLine s node addr).threads = s.threads := by unfold State.meetLine; dsimp only; split <;> rfl
@[simp] theorem State.meetLine_cohorts (s : State) (node addr : Nat) : (State.meetLine s node addr).cohorts = s.cohorts := by unfold State.meetLine; dsimp only; split <;> rfl
@[simp] theorem State.meetLine_issues (s : State) (node addr : Nat) : (State.meetLine s node addr).issues = s.issues := by unfold State.meetLine; dsimp only; split <;> rfl
@[simp] theorem State.meetLine_groups (s : State) (node addr : Nat) : (State.meetLine s node addr).groups = s.groups := by unfold State.meetLine; dsimp only; split <;> rfl
@[simp] theorem State.meetLine_kernels (s : State) (node addr : Nat) : (State.meetLine s node addr).kernels = s.kernels := by unfold State.meetLine; dsimp only; split <;> rfl
@[simp] theorem State.meetLine_launches (s : State) (node addr : Nat) : (State.meetLine s node addr).launches = s.launches := by unfold State.meetLine; dsimp only; split <;> rfl
@[simp] theorem State.meetLine_cores (s : State) (node addr : Nat) : (State.meetLine s node addr).cores = s.cores := by unfold State.meetLine; dsimp only; split <;> rfl
@[simp] theorem State.meetLine_ops (s : State) (node addr : Nat) : (State.meetLine s node addr).ops = s.ops := by unfold State.meetLine; dsimp only; split <;> rfl
@[simp] theorem State.meetLine_uses (s : State) (node addr : Nat) : (State.meetLine s node addr).uses = s.uses := by unfold State.meetLine; dsimp only; split <;> rfl
@[simp] theorem State.meetLine_mgroups (s : State) (node addr : Nat) : (State.meetLine s node addr).mgroups = s.mgroups := by unfold State.meetLine; dsimp only; split <;> rfl
@[simp] theorem State.meetLine_cmds (s : State) (node addr : Nat) : (State.meetLine s node addr).cmds = s.cmds := by unfold State.meetLine; dsimp only; split <;> rfl
@[simp] theorem State.meetLine_cpys (s : State) (node addr : Nat) : (State.meetLine s node addr).cpys = s.cpys := by unfold State.meetLine; dsimp only; split <;> rfl
@[simp] theorem State.meetLine_monitors (s : State) (node addr : Nat) : (State.meetLine s node addr).monitors = s.monitors := by unfold State.meetLine; dsimp only; split <;> rfl
@[simp] theorem State.meetLine_msgs (s : State) (node addr : Nat) : (State.meetLine s node addr).msgs = s.msgs := by unfold State.meetLine; dsimp only; split <;> rfl
@[simp] theorem State.meetLine_replies (s : State) (node addr : Nat) : (State.meetLine s node addr).replies = s.replies := by unfold State.meetLine; dsimp only; split <;> rfl
@[simp] theorem State.meetLine_rels (s : State) (node addr : Nat) : (State.meetLine s node addr).rels = s.rels := by unfold State.meetLine; dsimp only; split <;> rfl
@[simp] theorem State.meetLine_walks (s : State) (node addr : Nat) : (State.meetLine s node addr).walks = s.walks := by unfold State.meetLine; dsimp only; split <;> rfl
@[simp] theorem State.meetLine_pool (s : State) (node addr : Nat) : (State.meetLine s node addr).pool = s.pool := by unfold State.meetLine; dsimp only; split <;> rfl
@[simp] theorem State.meetLine_saved (s : State) (node addr : Nat) : (State.meetLine s node addr).saved = s.saved := by unfold State.meetLine; dsimp only; split <;> rfl
@[simp] theorem State.meetLine_faultRecs (s : State) (node addr : Nat) : (State.meetLine s node addr).faultRecs = s.faultRecs := by unfold State.meetLine; dsimp only; split <;> rfl
@[simp] theorem State.meetLine_ctxs (s : State) (node addr : Nat) : (State.meetLine s node addr).ctxs = s.ctxs := by unfold State.meetLine; dsimp only; split <;> rfl
@[simp] theorem State.meetLine_amsgs (s : State) (node addr : Nat) : (State.meetLine s node addr).amsgs = s.amsgs := by unfold State.meetLine; dsimp only; split <;> rfl
@[simp] theorem State.meetLine_queues (s : State) (node addr : Nat) : (State.meetLine s node addr).queues = s.queues := by unfold State.meetLine; dsimp only; split <;> rfl
@[simp] theorem State.meetLine_bulks (s : State) (node addr : Nat) : (State.meetLine s node addr).bulks = s.bulks := by unfold State.meetLine; dsimp only; split <;> rfl
@[simp] theorem State.meetLine_kiln (s : State) (node addr : Nat) : (State.meetLine s node addr).kiln = s.kiln := by unfold State.meetLine; dsimp only; split <;> rfl
@[simp] theorem State.meetLine_dev (s : State) (node addr : Nat) : (State.meetLine s node addr).dev = s.dev := by unfold State.meetLine; dsimp only; split <;> rfl

/-! `State.meetError` changes `mem`. -/
@[simp] theorem State.meetError_agenda (s : State) (h : Home) : (State.meetError s h).agenda = s.agenda := by unfold State.meetError; simp
@[simp] theorem State.meetError_turn (s : State) (h : Home) : (State.meetError s h).turn = s.turn := by unfold State.meetError; simp
@[simp] theorem State.meetError_fresh (s : State) (h : Home) : (State.meetError s h).fresh = s.fresh := by unfold State.meetError; simp
@[simp] theorem State.meetError_threads (s : State) (h : Home) : (State.meetError s h).threads = s.threads := by unfold State.meetError; simp
@[simp] theorem State.meetError_cohorts (s : State) (h : Home) : (State.meetError s h).cohorts = s.cohorts := by unfold State.meetError; simp
@[simp] theorem State.meetError_issues (s : State) (h : Home) : (State.meetError s h).issues = s.issues := by unfold State.meetError; simp
@[simp] theorem State.meetError_groups (s : State) (h : Home) : (State.meetError s h).groups = s.groups := by unfold State.meetError; simp
@[simp] theorem State.meetError_kernels (s : State) (h : Home) : (State.meetError s h).kernels = s.kernels := by unfold State.meetError; simp
@[simp] theorem State.meetError_launches (s : State) (h : Home) : (State.meetError s h).launches = s.launches := by unfold State.meetError; simp
@[simp] theorem State.meetError_cores (s : State) (h : Home) : (State.meetError s h).cores = s.cores := by unfold State.meetError; simp
@[simp] theorem State.meetError_ops (s : State) (h : Home) : (State.meetError s h).ops = s.ops := by unfold State.meetError; simp
@[simp] theorem State.meetError_uses (s : State) (h : Home) : (State.meetError s h).uses = s.uses := by unfold State.meetError; simp
@[simp] theorem State.meetError_mgroups (s : State) (h : Home) : (State.meetError s h).mgroups = s.mgroups := by unfold State.meetError; simp
@[simp] theorem State.meetError_cmds (s : State) (h : Home) : (State.meetError s h).cmds = s.cmds := by unfold State.meetError; simp
@[simp] theorem State.meetError_cpys (s : State) (h : Home) : (State.meetError s h).cpys = s.cpys := by unfold State.meetError; simp
@[simp] theorem State.meetError_monitors (s : State) (h : Home) : (State.meetError s h).monitors = s.monitors := by unfold State.meetError; simp
@[simp] theorem State.meetError_msgs (s : State) (h : Home) : (State.meetError s h).msgs = s.msgs := by unfold State.meetError; simp
@[simp] theorem State.meetError_replies (s : State) (h : Home) : (State.meetError s h).replies = s.replies := by unfold State.meetError; simp
@[simp] theorem State.meetError_rels (s : State) (h : Home) : (State.meetError s h).rels = s.rels := by unfold State.meetError; simp
@[simp] theorem State.meetError_walks (s : State) (h : Home) : (State.meetError s h).walks = s.walks := by unfold State.meetError; simp
@[simp] theorem State.meetError_pool (s : State) (h : Home) : (State.meetError s h).pool = s.pool := by unfold State.meetError; simp
@[simp] theorem State.meetError_saved (s : State) (h : Home) : (State.meetError s h).saved = s.saved := by unfold State.meetError; simp
@[simp] theorem State.meetError_faultRecs (s : State) (h : Home) : (State.meetError s h).faultRecs = s.faultRecs := by unfold State.meetError; simp
@[simp] theorem State.meetError_ctxs (s : State) (h : Home) : (State.meetError s h).ctxs = s.ctxs := by unfold State.meetError; simp
@[simp] theorem State.meetError_amsgs (s : State) (h : Home) : (State.meetError s h).amsgs = s.amsgs := by unfold State.meetError; simp
@[simp] theorem State.meetError_queues (s : State) (h : Home) : (State.meetError s h).queues = s.queues := by unfold State.meetError; simp
@[simp] theorem State.meetError_bulks (s : State) (h : Home) : (State.meetError s h).bulks = s.bulks := by unfold State.meetError; simp
@[simp] theorem State.meetError_kiln (s : State) (h : Home) : (State.meetError s h).kiln = s.kiln := by unfold State.meetError; simp
@[simp] theorem State.meetError_dev (s : State) (h : Home) : (State.meetError s h).dev = s.dev := by unfold State.meetError; simp

/-! `State.sent` changes `mem`. -/
@[simp] theorem State.sent_agenda (s : State) (r : PeerReq) (wait : Bool) : (State.sent s r wait).agenda = s.agenda := rfl
@[simp] theorem State.sent_turn (s : State) (r : PeerReq) (wait : Bool) : (State.sent s r wait).turn = s.turn := rfl
@[simp] theorem State.sent_fresh (s : State) (r : PeerReq) (wait : Bool) : (State.sent s r wait).fresh = s.fresh := rfl
@[simp] theorem State.sent_threads (s : State) (r : PeerReq) (wait : Bool) : (State.sent s r wait).threads = s.threads := rfl
@[simp] theorem State.sent_cohorts (s : State) (r : PeerReq) (wait : Bool) : (State.sent s r wait).cohorts = s.cohorts := rfl
@[simp] theorem State.sent_issues (s : State) (r : PeerReq) (wait : Bool) : (State.sent s r wait).issues = s.issues := rfl
@[simp] theorem State.sent_groups (s : State) (r : PeerReq) (wait : Bool) : (State.sent s r wait).groups = s.groups := rfl
@[simp] theorem State.sent_kernels (s : State) (r : PeerReq) (wait : Bool) : (State.sent s r wait).kernels = s.kernels := rfl
@[simp] theorem State.sent_launches (s : State) (r : PeerReq) (wait : Bool) : (State.sent s r wait).launches = s.launches := rfl
@[simp] theorem State.sent_cores (s : State) (r : PeerReq) (wait : Bool) : (State.sent s r wait).cores = s.cores := rfl
@[simp] theorem State.sent_ops (s : State) (r : PeerReq) (wait : Bool) : (State.sent s r wait).ops = s.ops := rfl
@[simp] theorem State.sent_uses (s : State) (r : PeerReq) (wait : Bool) : (State.sent s r wait).uses = s.uses := rfl
@[simp] theorem State.sent_mgroups (s : State) (r : PeerReq) (wait : Bool) : (State.sent s r wait).mgroups = s.mgroups := rfl
@[simp] theorem State.sent_cmds (s : State) (r : PeerReq) (wait : Bool) : (State.sent s r wait).cmds = s.cmds := rfl
@[simp] theorem State.sent_cpys (s : State) (r : PeerReq) (wait : Bool) : (State.sent s r wait).cpys = s.cpys := rfl
@[simp] theorem State.sent_monitors (s : State) (r : PeerReq) (wait : Bool) : (State.sent s r wait).monitors = s.monitors := rfl
@[simp] theorem State.sent_msgs (s : State) (r : PeerReq) (wait : Bool) : (State.sent s r wait).msgs = s.msgs := rfl
@[simp] theorem State.sent_replies (s : State) (r : PeerReq) (wait : Bool) : (State.sent s r wait).replies = s.replies := rfl
@[simp] theorem State.sent_rels (s : State) (r : PeerReq) (wait : Bool) : (State.sent s r wait).rels = s.rels := rfl
@[simp] theorem State.sent_walks (s : State) (r : PeerReq) (wait : Bool) : (State.sent s r wait).walks = s.walks := rfl
@[simp] theorem State.sent_pool (s : State) (r : PeerReq) (wait : Bool) : (State.sent s r wait).pool = s.pool := rfl
@[simp] theorem State.sent_saved (s : State) (r : PeerReq) (wait : Bool) : (State.sent s r wait).saved = s.saved := rfl
@[simp] theorem State.sent_faultRecs (s : State) (r : PeerReq) (wait : Bool) : (State.sent s r wait).faultRecs = s.faultRecs := rfl
@[simp] theorem State.sent_ctxs (s : State) (r : PeerReq) (wait : Bool) : (State.sent s r wait).ctxs = s.ctxs := rfl
@[simp] theorem State.sent_amsgs (s : State) (r : PeerReq) (wait : Bool) : (State.sent s r wait).amsgs = s.amsgs := rfl
@[simp] theorem State.sent_queues (s : State) (r : PeerReq) (wait : Bool) : (State.sent s r wait).queues = s.queues := rfl
@[simp] theorem State.sent_bulks (s : State) (r : PeerReq) (wait : Bool) : (State.sent s r wait).bulks = s.bulks := rfl
@[simp] theorem State.sent_kiln (s : State) (r : PeerReq) (wait : Bool) : (State.sent s r wait).kiln = s.kiln := rfl
@[simp] theorem State.sent_dev (s : State) (r : PeerReq) (wait : Bool) : (State.sent s r wait).dev = s.dev := rfl

/-! `State.recorded` changes `mem`. -/
@[simp] theorem State.recorded_agenda (s : State) (r : PeerReq) (old : Nat) : (State.recorded s r old).agenda = s.agenda := rfl
@[simp] theorem State.recorded_turn (s : State) (r : PeerReq) (old : Nat) : (State.recorded s r old).turn = s.turn := rfl
@[simp] theorem State.recorded_fresh (s : State) (r : PeerReq) (old : Nat) : (State.recorded s r old).fresh = s.fresh := rfl
@[simp] theorem State.recorded_threads (s : State) (r : PeerReq) (old : Nat) : (State.recorded s r old).threads = s.threads := rfl
@[simp] theorem State.recorded_cohorts (s : State) (r : PeerReq) (old : Nat) : (State.recorded s r old).cohorts = s.cohorts := rfl
@[simp] theorem State.recorded_issues (s : State) (r : PeerReq) (old : Nat) : (State.recorded s r old).issues = s.issues := rfl
@[simp] theorem State.recorded_groups (s : State) (r : PeerReq) (old : Nat) : (State.recorded s r old).groups = s.groups := rfl
@[simp] theorem State.recorded_kernels (s : State) (r : PeerReq) (old : Nat) : (State.recorded s r old).kernels = s.kernels := rfl
@[simp] theorem State.recorded_launches (s : State) (r : PeerReq) (old : Nat) : (State.recorded s r old).launches = s.launches := rfl
@[simp] theorem State.recorded_cores (s : State) (r : PeerReq) (old : Nat) : (State.recorded s r old).cores = s.cores := rfl
@[simp] theorem State.recorded_ops (s : State) (r : PeerReq) (old : Nat) : (State.recorded s r old).ops = s.ops := rfl
@[simp] theorem State.recorded_uses (s : State) (r : PeerReq) (old : Nat) : (State.recorded s r old).uses = s.uses := rfl
@[simp] theorem State.recorded_mgroups (s : State) (r : PeerReq) (old : Nat) : (State.recorded s r old).mgroups = s.mgroups := rfl
@[simp] theorem State.recorded_cmds (s : State) (r : PeerReq) (old : Nat) : (State.recorded s r old).cmds = s.cmds := rfl
@[simp] theorem State.recorded_cpys (s : State) (r : PeerReq) (old : Nat) : (State.recorded s r old).cpys = s.cpys := rfl
@[simp] theorem State.recorded_monitors (s : State) (r : PeerReq) (old : Nat) : (State.recorded s r old).monitors = s.monitors := rfl
@[simp] theorem State.recorded_msgs (s : State) (r : PeerReq) (old : Nat) : (State.recorded s r old).msgs = s.msgs := rfl
@[simp] theorem State.recorded_replies (s : State) (r : PeerReq) (old : Nat) : (State.recorded s r old).replies = s.replies := rfl
@[simp] theorem State.recorded_rels (s : State) (r : PeerReq) (old : Nat) : (State.recorded s r old).rels = s.rels := rfl
@[simp] theorem State.recorded_walks (s : State) (r : PeerReq) (old : Nat) : (State.recorded s r old).walks = s.walks := rfl
@[simp] theorem State.recorded_pool (s : State) (r : PeerReq) (old : Nat) : (State.recorded s r old).pool = s.pool := rfl
@[simp] theorem State.recorded_saved (s : State) (r : PeerReq) (old : Nat) : (State.recorded s r old).saved = s.saved := rfl
@[simp] theorem State.recorded_faultRecs (s : State) (r : PeerReq) (old : Nat) : (State.recorded s r old).faultRecs = s.faultRecs := rfl
@[simp] theorem State.recorded_ctxs (s : State) (r : PeerReq) (old : Nat) : (State.recorded s r old).ctxs = s.ctxs := rfl
@[simp] theorem State.recorded_amsgs (s : State) (r : PeerReq) (old : Nat) : (State.recorded s r old).amsgs = s.amsgs := rfl
@[simp] theorem State.recorded_queues (s : State) (r : PeerReq) (old : Nat) : (State.recorded s r old).queues = s.queues := rfl
@[simp] theorem State.recorded_bulks (s : State) (r : PeerReq) (old : Nat) : (State.recorded s r old).bulks = s.bulks := rfl
@[simp] theorem State.recorded_kiln (s : State) (r : PeerReq) (old : Nat) : (State.recorded s r old).kiln = s.kiln := rfl
@[simp] theorem State.recorded_dev (s : State) (r : PeerReq) (old : Nat) : (State.recorded s r old).dev = s.dev := rfl

/-! `State.writePeer` changes `mem`. -/
@[simp] theorem State.writePeer_agenda (s : State) (h : Home) (line : Nat) : (State.writePeer s h line).agenda = s.agenda := by unfold State.writePeer; split <;> rfl
@[simp] theorem State.writePeer_turn (s : State) (h : Home) (line : Nat) : (State.writePeer s h line).turn = s.turn := by unfold State.writePeer; split <;> rfl
@[simp] theorem State.writePeer_fresh (s : State) (h : Home) (line : Nat) : (State.writePeer s h line).fresh = s.fresh := by unfold State.writePeer; split <;> rfl
@[simp] theorem State.writePeer_threads (s : State) (h : Home) (line : Nat) : (State.writePeer s h line).threads = s.threads := by unfold State.writePeer; split <;> rfl
@[simp] theorem State.writePeer_cohorts (s : State) (h : Home) (line : Nat) : (State.writePeer s h line).cohorts = s.cohorts := by unfold State.writePeer; split <;> rfl
@[simp] theorem State.writePeer_issues (s : State) (h : Home) (line : Nat) : (State.writePeer s h line).issues = s.issues := by unfold State.writePeer; split <;> rfl
@[simp] theorem State.writePeer_groups (s : State) (h : Home) (line : Nat) : (State.writePeer s h line).groups = s.groups := by unfold State.writePeer; split <;> rfl
@[simp] theorem State.writePeer_kernels (s : State) (h : Home) (line : Nat) : (State.writePeer s h line).kernels = s.kernels := by unfold State.writePeer; split <;> rfl
@[simp] theorem State.writePeer_launches (s : State) (h : Home) (line : Nat) : (State.writePeer s h line).launches = s.launches := by unfold State.writePeer; split <;> rfl
@[simp] theorem State.writePeer_cores (s : State) (h : Home) (line : Nat) : (State.writePeer s h line).cores = s.cores := by unfold State.writePeer; split <;> rfl
@[simp] theorem State.writePeer_ops (s : State) (h : Home) (line : Nat) : (State.writePeer s h line).ops = s.ops := by unfold State.writePeer; split <;> rfl
@[simp] theorem State.writePeer_uses (s : State) (h : Home) (line : Nat) : (State.writePeer s h line).uses = s.uses := by unfold State.writePeer; split <;> rfl
@[simp] theorem State.writePeer_mgroups (s : State) (h : Home) (line : Nat) : (State.writePeer s h line).mgroups = s.mgroups := by unfold State.writePeer; split <;> rfl
@[simp] theorem State.writePeer_cmds (s : State) (h : Home) (line : Nat) : (State.writePeer s h line).cmds = s.cmds := by unfold State.writePeer; split <;> rfl
@[simp] theorem State.writePeer_cpys (s : State) (h : Home) (line : Nat) : (State.writePeer s h line).cpys = s.cpys := by unfold State.writePeer; split <;> rfl
@[simp] theorem State.writePeer_monitors (s : State) (h : Home) (line : Nat) : (State.writePeer s h line).monitors = s.monitors := by unfold State.writePeer; split <;> rfl
@[simp] theorem State.writePeer_msgs (s : State) (h : Home) (line : Nat) : (State.writePeer s h line).msgs = s.msgs := by unfold State.writePeer; split <;> rfl
@[simp] theorem State.writePeer_replies (s : State) (h : Home) (line : Nat) : (State.writePeer s h line).replies = s.replies := by unfold State.writePeer; split <;> rfl
@[simp] theorem State.writePeer_rels (s : State) (h : Home) (line : Nat) : (State.writePeer s h line).rels = s.rels := by unfold State.writePeer; split <;> rfl
@[simp] theorem State.writePeer_walks (s : State) (h : Home) (line : Nat) : (State.writePeer s h line).walks = s.walks := by unfold State.writePeer; split <;> rfl
@[simp] theorem State.writePeer_pool (s : State) (h : Home) (line : Nat) : (State.writePeer s h line).pool = s.pool := by unfold State.writePeer; split <;> rfl
@[simp] theorem State.writePeer_saved (s : State) (h : Home) (line : Nat) : (State.writePeer s h line).saved = s.saved := by unfold State.writePeer; split <;> rfl
@[simp] theorem State.writePeer_faultRecs (s : State) (h : Home) (line : Nat) : (State.writePeer s h line).faultRecs = s.faultRecs := by unfold State.writePeer; split <;> rfl
@[simp] theorem State.writePeer_ctxs (s : State) (h : Home) (line : Nat) : (State.writePeer s h line).ctxs = s.ctxs := by unfold State.writePeer; split <;> rfl
@[simp] theorem State.writePeer_amsgs (s : State) (h : Home) (line : Nat) : (State.writePeer s h line).amsgs = s.amsgs := by unfold State.writePeer; split <;> rfl
@[simp] theorem State.writePeer_queues (s : State) (h : Home) (line : Nat) : (State.writePeer s h line).queues = s.queues := by unfold State.writePeer; split <;> rfl
@[simp] theorem State.writePeer_bulks (s : State) (h : Home) (line : Nat) : (State.writePeer s h line).bulks = s.bulks := by unfold State.writePeer; split <;> rfl
@[simp] theorem State.writePeer_kiln (s : State) (h : Home) (line : Nat) : (State.writePeer s h line).kiln = s.kiln := by unfold State.writePeer; split <;> rfl
@[simp] theorem State.writePeer_dev (s : State) (h : Home) (line : Nat) : (State.writePeer s h line).dev = s.dev := by unfold State.writePeer; split <;> rfl

/-! `State.readPeer` changes `mem`. -/
@[simp] theorem State.readPeer_agenda (s : State) (h : Home) (line : Nat) : (State.readPeer s h line).1.agenda = s.agenda := by unfold State.readPeer; split <;> rfl
@[simp] theorem State.readPeer_turn (s : State) (h : Home) (line : Nat) : (State.readPeer s h line).1.turn = s.turn := by unfold State.readPeer; split <;> rfl
@[simp] theorem State.readPeer_fresh (s : State) (h : Home) (line : Nat) : (State.readPeer s h line).1.fresh = s.fresh := by unfold State.readPeer; split <;> rfl
@[simp] theorem State.readPeer_threads (s : State) (h : Home) (line : Nat) : (State.readPeer s h line).1.threads = s.threads := by unfold State.readPeer; split <;> rfl
@[simp] theorem State.readPeer_cohorts (s : State) (h : Home) (line : Nat) : (State.readPeer s h line).1.cohorts = s.cohorts := by unfold State.readPeer; split <;> rfl
@[simp] theorem State.readPeer_issues (s : State) (h : Home) (line : Nat) : (State.readPeer s h line).1.issues = s.issues := by unfold State.readPeer; split <;> rfl
@[simp] theorem State.readPeer_groups (s : State) (h : Home) (line : Nat) : (State.readPeer s h line).1.groups = s.groups := by unfold State.readPeer; split <;> rfl
@[simp] theorem State.readPeer_kernels (s : State) (h : Home) (line : Nat) : (State.readPeer s h line).1.kernels = s.kernels := by unfold State.readPeer; split <;> rfl
@[simp] theorem State.readPeer_launches (s : State) (h : Home) (line : Nat) : (State.readPeer s h line).1.launches = s.launches := by unfold State.readPeer; split <;> rfl
@[simp] theorem State.readPeer_cores (s : State) (h : Home) (line : Nat) : (State.readPeer s h line).1.cores = s.cores := by unfold State.readPeer; split <;> rfl
@[simp] theorem State.readPeer_ops (s : State) (h : Home) (line : Nat) : (State.readPeer s h line).1.ops = s.ops := by unfold State.readPeer; split <;> rfl
@[simp] theorem State.readPeer_uses (s : State) (h : Home) (line : Nat) : (State.readPeer s h line).1.uses = s.uses := by unfold State.readPeer; split <;> rfl
@[simp] theorem State.readPeer_mgroups (s : State) (h : Home) (line : Nat) : (State.readPeer s h line).1.mgroups = s.mgroups := by unfold State.readPeer; split <;> rfl
@[simp] theorem State.readPeer_cmds (s : State) (h : Home) (line : Nat) : (State.readPeer s h line).1.cmds = s.cmds := by unfold State.readPeer; split <;> rfl
@[simp] theorem State.readPeer_cpys (s : State) (h : Home) (line : Nat) : (State.readPeer s h line).1.cpys = s.cpys := by unfold State.readPeer; split <;> rfl
@[simp] theorem State.readPeer_monitors (s : State) (h : Home) (line : Nat) : (State.readPeer s h line).1.monitors = s.monitors := by unfold State.readPeer; split <;> rfl
@[simp] theorem State.readPeer_msgs (s : State) (h : Home) (line : Nat) : (State.readPeer s h line).1.msgs = s.msgs := by unfold State.readPeer; split <;> rfl
@[simp] theorem State.readPeer_replies (s : State) (h : Home) (line : Nat) : (State.readPeer s h line).1.replies = s.replies := by unfold State.readPeer; split <;> rfl
@[simp] theorem State.readPeer_rels (s : State) (h : Home) (line : Nat) : (State.readPeer s h line).1.rels = s.rels := by unfold State.readPeer; split <;> rfl
@[simp] theorem State.readPeer_walks (s : State) (h : Home) (line : Nat) : (State.readPeer s h line).1.walks = s.walks := by unfold State.readPeer; split <;> rfl
@[simp] theorem State.readPeer_pool (s : State) (h : Home) (line : Nat) : (State.readPeer s h line).1.pool = s.pool := by unfold State.readPeer; split <;> rfl
@[simp] theorem State.readPeer_saved (s : State) (h : Home) (line : Nat) : (State.readPeer s h line).1.saved = s.saved := by unfold State.readPeer; split <;> rfl
@[simp] theorem State.readPeer_faultRecs (s : State) (h : Home) (line : Nat) : (State.readPeer s h line).1.faultRecs = s.faultRecs := by unfold State.readPeer; split <;> rfl
@[simp] theorem State.readPeer_ctxs (s : State) (h : Home) (line : Nat) : (State.readPeer s h line).1.ctxs = s.ctxs := by unfold State.readPeer; split <;> rfl
@[simp] theorem State.readPeer_amsgs (s : State) (h : Home) (line : Nat) : (State.readPeer s h line).1.amsgs = s.amsgs := by unfold State.readPeer; split <;> rfl
@[simp] theorem State.readPeer_queues (s : State) (h : Home) (line : Nat) : (State.readPeer s h line).1.queues = s.queues := by unfold State.readPeer; split <;> rfl
@[simp] theorem State.readPeer_bulks (s : State) (h : Home) (line : Nat) : (State.readPeer s h line).1.bulks = s.bulks := by unfold State.readPeer; split <;> rfl
@[simp] theorem State.readPeer_kiln (s : State) (h : Home) (line : Nat) : (State.readPeer s h line).1.kiln = s.kiln := by unfold State.readPeer; split <;> rfl
@[simp] theorem State.readPeer_dev (s : State) (h : Home) (line : Nat) : (State.readPeer s h line).1.dev = s.dev := by unfold State.readPeer; split <;> rfl

/-! `State.keepPeer` changes `mem`. -/
@[simp] theorem State.keepPeer_agenda (s : State) (id : Nat) (r : Option PeerReq) : (State.keepPeer s id r).agenda = s.agenda := by unfold State.keepPeer; split <;> rfl
@[simp] theorem State.keepPeer_turn (s : State) (id : Nat) (r : Option PeerReq) : (State.keepPeer s id r).turn = s.turn := by unfold State.keepPeer; split <;> rfl
@[simp] theorem State.keepPeer_fresh (s : State) (id : Nat) (r : Option PeerReq) : (State.keepPeer s id r).fresh = s.fresh := by unfold State.keepPeer; split <;> rfl
@[simp] theorem State.keepPeer_threads (s : State) (id : Nat) (r : Option PeerReq) : (State.keepPeer s id r).threads = s.threads := by unfold State.keepPeer; split <;> rfl
@[simp] theorem State.keepPeer_cohorts (s : State) (id : Nat) (r : Option PeerReq) : (State.keepPeer s id r).cohorts = s.cohorts := by unfold State.keepPeer; split <;> rfl
@[simp] theorem State.keepPeer_issues (s : State) (id : Nat) (r : Option PeerReq) : (State.keepPeer s id r).issues = s.issues := by unfold State.keepPeer; split <;> rfl
@[simp] theorem State.keepPeer_groups (s : State) (id : Nat) (r : Option PeerReq) : (State.keepPeer s id r).groups = s.groups := by unfold State.keepPeer; split <;> rfl
@[simp] theorem State.keepPeer_kernels (s : State) (id : Nat) (r : Option PeerReq) : (State.keepPeer s id r).kernels = s.kernels := by unfold State.keepPeer; split <;> rfl
@[simp] theorem State.keepPeer_launches (s : State) (id : Nat) (r : Option PeerReq) : (State.keepPeer s id r).launches = s.launches := by unfold State.keepPeer; split <;> rfl
@[simp] theorem State.keepPeer_cores (s : State) (id : Nat) (r : Option PeerReq) : (State.keepPeer s id r).cores = s.cores := by unfold State.keepPeer; split <;> rfl
@[simp] theorem State.keepPeer_ops (s : State) (id : Nat) (r : Option PeerReq) : (State.keepPeer s id r).ops = s.ops := by unfold State.keepPeer; split <;> rfl
@[simp] theorem State.keepPeer_uses (s : State) (id : Nat) (r : Option PeerReq) : (State.keepPeer s id r).uses = s.uses := by unfold State.keepPeer; split <;> rfl
@[simp] theorem State.keepPeer_mgroups (s : State) (id : Nat) (r : Option PeerReq) : (State.keepPeer s id r).mgroups = s.mgroups := by unfold State.keepPeer; split <;> rfl
@[simp] theorem State.keepPeer_cmds (s : State) (id : Nat) (r : Option PeerReq) : (State.keepPeer s id r).cmds = s.cmds := by unfold State.keepPeer; split <;> rfl
@[simp] theorem State.keepPeer_cpys (s : State) (id : Nat) (r : Option PeerReq) : (State.keepPeer s id r).cpys = s.cpys := by unfold State.keepPeer; split <;> rfl
@[simp] theorem State.keepPeer_monitors (s : State) (id : Nat) (r : Option PeerReq) : (State.keepPeer s id r).monitors = s.monitors := by unfold State.keepPeer; split <;> rfl
@[simp] theorem State.keepPeer_msgs (s : State) (id : Nat) (r : Option PeerReq) : (State.keepPeer s id r).msgs = s.msgs := by unfold State.keepPeer; split <;> rfl
@[simp] theorem State.keepPeer_replies (s : State) (id : Nat) (r : Option PeerReq) : (State.keepPeer s id r).replies = s.replies := by unfold State.keepPeer; split <;> rfl
@[simp] theorem State.keepPeer_rels (s : State) (id : Nat) (r : Option PeerReq) : (State.keepPeer s id r).rels = s.rels := by unfold State.keepPeer; split <;> rfl
@[simp] theorem State.keepPeer_walks (s : State) (id : Nat) (r : Option PeerReq) : (State.keepPeer s id r).walks = s.walks := by unfold State.keepPeer; split <;> rfl
@[simp] theorem State.keepPeer_pool (s : State) (id : Nat) (r : Option PeerReq) : (State.keepPeer s id r).pool = s.pool := by unfold State.keepPeer; split <;> rfl
@[simp] theorem State.keepPeer_saved (s : State) (id : Nat) (r : Option PeerReq) : (State.keepPeer s id r).saved = s.saved := by unfold State.keepPeer; split <;> rfl
@[simp] theorem State.keepPeer_faultRecs (s : State) (id : Nat) (r : Option PeerReq) : (State.keepPeer s id r).faultRecs = s.faultRecs := by unfold State.keepPeer; split <;> rfl
@[simp] theorem State.keepPeer_ctxs (s : State) (id : Nat) (r : Option PeerReq) : (State.keepPeer s id r).ctxs = s.ctxs := by unfold State.keepPeer; split <;> rfl
@[simp] theorem State.keepPeer_amsgs (s : State) (id : Nat) (r : Option PeerReq) : (State.keepPeer s id r).amsgs = s.amsgs := by unfold State.keepPeer; split <;> rfl
@[simp] theorem State.keepPeer_queues (s : State) (id : Nat) (r : Option PeerReq) : (State.keepPeer s id r).queues = s.queues := by unfold State.keepPeer; split <;> rfl
@[simp] theorem State.keepPeer_bulks (s : State) (id : Nat) (r : Option PeerReq) : (State.keepPeer s id r).bulks = s.bulks := by unfold State.keepPeer; split <;> rfl
@[simp] theorem State.keepPeer_kiln (s : State) (id : Nat) (r : Option PeerReq) : (State.keepPeer s id r).kiln = s.kiln := by unfold State.keepPeer; split <;> rfl
@[simp] theorem State.keepPeer_dev (s : State) (id : Nat) (r : Option PeerReq) : (State.keepPeer s id r).dev = s.dev := by unfold State.keepPeer; split <;> rfl

/-! `State.resendPeer` changes `mem`. -/
@[simp] theorem State.resendPeer_agenda (s : State) : (State.resendPeer s).agenda = s.agenda := rfl
@[simp] theorem State.resendPeer_turn (s : State) : (State.resendPeer s).turn = s.turn := rfl
@[simp] theorem State.resendPeer_fresh (s : State) : (State.resendPeer s).fresh = s.fresh := rfl
@[simp] theorem State.resendPeer_threads (s : State) : (State.resendPeer s).threads = s.threads := rfl
@[simp] theorem State.resendPeer_cohorts (s : State) : (State.resendPeer s).cohorts = s.cohorts := rfl
@[simp] theorem State.resendPeer_issues (s : State) : (State.resendPeer s).issues = s.issues := rfl
@[simp] theorem State.resendPeer_groups (s : State) : (State.resendPeer s).groups = s.groups := rfl
@[simp] theorem State.resendPeer_kernels (s : State) : (State.resendPeer s).kernels = s.kernels := rfl
@[simp] theorem State.resendPeer_launches (s : State) : (State.resendPeer s).launches = s.launches := rfl
@[simp] theorem State.resendPeer_cores (s : State) : (State.resendPeer s).cores = s.cores := rfl
@[simp] theorem State.resendPeer_ops (s : State) : (State.resendPeer s).ops = s.ops := rfl
@[simp] theorem State.resendPeer_uses (s : State) : (State.resendPeer s).uses = s.uses := rfl
@[simp] theorem State.resendPeer_mgroups (s : State) : (State.resendPeer s).mgroups = s.mgroups := rfl
@[simp] theorem State.resendPeer_cmds (s : State) : (State.resendPeer s).cmds = s.cmds := rfl
@[simp] theorem State.resendPeer_cpys (s : State) : (State.resendPeer s).cpys = s.cpys := rfl
@[simp] theorem State.resendPeer_monitors (s : State) : (State.resendPeer s).monitors = s.monitors := rfl
@[simp] theorem State.resendPeer_msgs (s : State) : (State.resendPeer s).msgs = s.msgs := rfl
@[simp] theorem State.resendPeer_replies (s : State) : (State.resendPeer s).replies = s.replies := rfl
@[simp] theorem State.resendPeer_rels (s : State) : (State.resendPeer s).rels = s.rels := rfl
@[simp] theorem State.resendPeer_walks (s : State) : (State.resendPeer s).walks = s.walks := rfl
@[simp] theorem State.resendPeer_pool (s : State) : (State.resendPeer s).pool = s.pool := rfl
@[simp] theorem State.resendPeer_saved (s : State) : (State.resendPeer s).saved = s.saved := rfl
@[simp] theorem State.resendPeer_faultRecs (s : State) : (State.resendPeer s).faultRecs = s.faultRecs := rfl
@[simp] theorem State.resendPeer_ctxs (s : State) : (State.resendPeer s).ctxs = s.ctxs := rfl
@[simp] theorem State.resendPeer_amsgs (s : State) : (State.resendPeer s).amsgs = s.amsgs := rfl
@[simp] theorem State.resendPeer_queues (s : State) : (State.resendPeer s).queues = s.queues := rfl
@[simp] theorem State.resendPeer_bulks (s : State) : (State.resendPeer s).bulks = s.bulks := rfl
@[simp] theorem State.resendPeer_kiln (s : State) : (State.resendPeer s).kiln = s.kiln := rfl
@[simp] theorem State.resendPeer_dev (s : State) : (State.resendPeer s).dev = s.dev := rfl

/-! `State.sendWaiting` changes `mem`. -/
@[simp] theorem State.sendWaiting_agenda (s : State) : (State.sendWaiting s).agenda = s.agenda := rfl
@[simp] theorem State.sendWaiting_turn (s : State) : (State.sendWaiting s).turn = s.turn := rfl
@[simp] theorem State.sendWaiting_fresh (s : State) : (State.sendWaiting s).fresh = s.fresh := rfl
@[simp] theorem State.sendWaiting_threads (s : State) : (State.sendWaiting s).threads = s.threads := rfl
@[simp] theorem State.sendWaiting_cohorts (s : State) : (State.sendWaiting s).cohorts = s.cohorts := rfl
@[simp] theorem State.sendWaiting_issues (s : State) : (State.sendWaiting s).issues = s.issues := rfl
@[simp] theorem State.sendWaiting_groups (s : State) : (State.sendWaiting s).groups = s.groups := rfl
@[simp] theorem State.sendWaiting_kernels (s : State) : (State.sendWaiting s).kernels = s.kernels := rfl
@[simp] theorem State.sendWaiting_launches (s : State) : (State.sendWaiting s).launches = s.launches := rfl
@[simp] theorem State.sendWaiting_cores (s : State) : (State.sendWaiting s).cores = s.cores := rfl
@[simp] theorem State.sendWaiting_ops (s : State) : (State.sendWaiting s).ops = s.ops := rfl
@[simp] theorem State.sendWaiting_uses (s : State) : (State.sendWaiting s).uses = s.uses := rfl
@[simp] theorem State.sendWaiting_mgroups (s : State) : (State.sendWaiting s).mgroups = s.mgroups := rfl
@[simp] theorem State.sendWaiting_cmds (s : State) : (State.sendWaiting s).cmds = s.cmds := rfl
@[simp] theorem State.sendWaiting_cpys (s : State) : (State.sendWaiting s).cpys = s.cpys := rfl
@[simp] theorem State.sendWaiting_monitors (s : State) : (State.sendWaiting s).monitors = s.monitors := rfl
@[simp] theorem State.sendWaiting_msgs (s : State) : (State.sendWaiting s).msgs = s.msgs := rfl
@[simp] theorem State.sendWaiting_replies (s : State) : (State.sendWaiting s).replies = s.replies := rfl
@[simp] theorem State.sendWaiting_rels (s : State) : (State.sendWaiting s).rels = s.rels := rfl
@[simp] theorem State.sendWaiting_walks (s : State) : (State.sendWaiting s).walks = s.walks := rfl
@[simp] theorem State.sendWaiting_pool (s : State) : (State.sendWaiting s).pool = s.pool := rfl
@[simp] theorem State.sendWaiting_saved (s : State) : (State.sendWaiting s).saved = s.saved := rfl
@[simp] theorem State.sendWaiting_faultRecs (s : State) : (State.sendWaiting s).faultRecs = s.faultRecs := rfl
@[simp] theorem State.sendWaiting_ctxs (s : State) : (State.sendWaiting s).ctxs = s.ctxs := rfl
@[simp] theorem State.sendWaiting_amsgs (s : State) : (State.sendWaiting s).amsgs = s.amsgs := rfl
@[simp] theorem State.sendWaiting_queues (s : State) : (State.sendWaiting s).queues = s.queues := rfl
@[simp] theorem State.sendWaiting_bulks (s : State) : (State.sendWaiting s).bulks = s.bulks := rfl
@[simp] theorem State.sendWaiting_kiln (s : State) : (State.sendWaiting s).kiln = s.kiln := rfl
@[simp] theorem State.sendWaiting_dev (s : State) : (State.sendWaiting s).dev = s.dev := rfl

/-! `State.ackPeer` changes `mem`. -/
@[simp] theorem State.ackPeer_agenda (s : State) (id : Nat) : (State.ackPeer s id).agenda = s.agenda := rfl
@[simp] theorem State.ackPeer_turn (s : State) (id : Nat) : (State.ackPeer s id).turn = s.turn := rfl
@[simp] theorem State.ackPeer_fresh (s : State) (id : Nat) : (State.ackPeer s id).fresh = s.fresh := rfl
@[simp] theorem State.ackPeer_threads (s : State) (id : Nat) : (State.ackPeer s id).threads = s.threads := rfl
@[simp] theorem State.ackPeer_cohorts (s : State) (id : Nat) : (State.ackPeer s id).cohorts = s.cohorts := rfl
@[simp] theorem State.ackPeer_issues (s : State) (id : Nat) : (State.ackPeer s id).issues = s.issues := rfl
@[simp] theorem State.ackPeer_groups (s : State) (id : Nat) : (State.ackPeer s id).groups = s.groups := rfl
@[simp] theorem State.ackPeer_kernels (s : State) (id : Nat) : (State.ackPeer s id).kernels = s.kernels := rfl
@[simp] theorem State.ackPeer_launches (s : State) (id : Nat) : (State.ackPeer s id).launches = s.launches := rfl
@[simp] theorem State.ackPeer_cores (s : State) (id : Nat) : (State.ackPeer s id).cores = s.cores := rfl
@[simp] theorem State.ackPeer_ops (s : State) (id : Nat) : (State.ackPeer s id).ops = s.ops := rfl
@[simp] theorem State.ackPeer_uses (s : State) (id : Nat) : (State.ackPeer s id).uses = s.uses := rfl
@[simp] theorem State.ackPeer_mgroups (s : State) (id : Nat) : (State.ackPeer s id).mgroups = s.mgroups := rfl
@[simp] theorem State.ackPeer_cmds (s : State) (id : Nat) : (State.ackPeer s id).cmds = s.cmds := rfl
@[simp] theorem State.ackPeer_cpys (s : State) (id : Nat) : (State.ackPeer s id).cpys = s.cpys := rfl
@[simp] theorem State.ackPeer_monitors (s : State) (id : Nat) : (State.ackPeer s id).monitors = s.monitors := rfl
@[simp] theorem State.ackPeer_msgs (s : State) (id : Nat) : (State.ackPeer s id).msgs = s.msgs := rfl
@[simp] theorem State.ackPeer_replies (s : State) (id : Nat) : (State.ackPeer s id).replies = s.replies := rfl
@[simp] theorem State.ackPeer_rels (s : State) (id : Nat) : (State.ackPeer s id).rels = s.rels := rfl
@[simp] theorem State.ackPeer_walks (s : State) (id : Nat) : (State.ackPeer s id).walks = s.walks := rfl
@[simp] theorem State.ackPeer_pool (s : State) (id : Nat) : (State.ackPeer s id).pool = s.pool := rfl
@[simp] theorem State.ackPeer_saved (s : State) (id : Nat) : (State.ackPeer s id).saved = s.saved := rfl
@[simp] theorem State.ackPeer_faultRecs (s : State) (id : Nat) : (State.ackPeer s id).faultRecs = s.faultRecs := rfl
@[simp] theorem State.ackPeer_ctxs (s : State) (id : Nat) : (State.ackPeer s id).ctxs = s.ctxs := rfl
@[simp] theorem State.ackPeer_amsgs (s : State) (id : Nat) : (State.ackPeer s id).amsgs = s.amsgs := rfl
@[simp] theorem State.ackPeer_queues (s : State) (id : Nat) : (State.ackPeer s id).queues = s.queues := rfl
@[simp] theorem State.ackPeer_bulks (s : State) (id : Nat) : (State.ackPeer s id).bulks = s.bulks := rfl
@[simp] theorem State.ackPeer_kiln (s : State) (id : Nat) : (State.ackPeer s id).kiln = s.kiln := rfl
@[simp] theorem State.ackPeer_dev (s : State) (id : Nat) : (State.ackPeer s id).dev = s.dev := rfl

/-! `State.wtArrives` changes `mem`. -/
@[simp] theorem State.wtArrives_agenda (s : State) (w : WriteThrough) : (State.wtArrives s w).agenda = s.agenda := by unfold State.wtArrives; dsimp only; split <;> simp
@[simp] theorem State.wtArrives_turn (s : State) (w : WriteThrough) : (State.wtArrives s w).turn = s.turn := by unfold State.wtArrives; dsimp only; split <;> simp
@[simp] theorem State.wtArrives_fresh (s : State) (w : WriteThrough) : (State.wtArrives s w).fresh = s.fresh := by unfold State.wtArrives; dsimp only; split <;> simp
@[simp] theorem State.wtArrives_threads (s : State) (w : WriteThrough) : (State.wtArrives s w).threads = s.threads := by unfold State.wtArrives; dsimp only; split <;> simp
@[simp] theorem State.wtArrives_cohorts (s : State) (w : WriteThrough) : (State.wtArrives s w).cohorts = s.cohorts := by unfold State.wtArrives; dsimp only; split <;> simp
@[simp] theorem State.wtArrives_issues (s : State) (w : WriteThrough) : (State.wtArrives s w).issues = s.issues := by unfold State.wtArrives; dsimp only; split <;> simp
@[simp] theorem State.wtArrives_groups (s : State) (w : WriteThrough) : (State.wtArrives s w).groups = s.groups := by unfold State.wtArrives; dsimp only; split <;> simp
@[simp] theorem State.wtArrives_kernels (s : State) (w : WriteThrough) : (State.wtArrives s w).kernels = s.kernels := by unfold State.wtArrives; dsimp only; split <;> simp
@[simp] theorem State.wtArrives_launches (s : State) (w : WriteThrough) : (State.wtArrives s w).launches = s.launches := by unfold State.wtArrives; dsimp only; split <;> simp
@[simp] theorem State.wtArrives_cores (s : State) (w : WriteThrough) : (State.wtArrives s w).cores = s.cores := by unfold State.wtArrives; dsimp only; split <;> simp
@[simp] theorem State.wtArrives_ops (s : State) (w : WriteThrough) : (State.wtArrives s w).ops = s.ops := by unfold State.wtArrives; dsimp only; split <;> simp
@[simp] theorem State.wtArrives_uses (s : State) (w : WriteThrough) : (State.wtArrives s w).uses = s.uses := by unfold State.wtArrives; dsimp only; split <;> simp
@[simp] theorem State.wtArrives_mgroups (s : State) (w : WriteThrough) : (State.wtArrives s w).mgroups = s.mgroups := by unfold State.wtArrives; dsimp only; split <;> simp
@[simp] theorem State.wtArrives_cmds (s : State) (w : WriteThrough) : (State.wtArrives s w).cmds = s.cmds := by unfold State.wtArrives; dsimp only; split <;> simp
@[simp] theorem State.wtArrives_cpys (s : State) (w : WriteThrough) : (State.wtArrives s w).cpys = s.cpys := by unfold State.wtArrives; dsimp only; split <;> simp
@[simp] theorem State.wtArrives_monitors (s : State) (w : WriteThrough) : (State.wtArrives s w).monitors = s.monitors := by unfold State.wtArrives; dsimp only; split <;> simp
@[simp] theorem State.wtArrives_msgs (s : State) (w : WriteThrough) : (State.wtArrives s w).msgs = s.msgs := by unfold State.wtArrives; dsimp only; split <;> simp
@[simp] theorem State.wtArrives_replies (s : State) (w : WriteThrough) : (State.wtArrives s w).replies = s.replies := by unfold State.wtArrives; dsimp only; split <;> simp
@[simp] theorem State.wtArrives_rels (s : State) (w : WriteThrough) : (State.wtArrives s w).rels = s.rels := by unfold State.wtArrives; dsimp only; split <;> simp
@[simp] theorem State.wtArrives_walks (s : State) (w : WriteThrough) : (State.wtArrives s w).walks = s.walks := by unfold State.wtArrives; dsimp only; split <;> simp
@[simp] theorem State.wtArrives_pool (s : State) (w : WriteThrough) : (State.wtArrives s w).pool = s.pool := by unfold State.wtArrives; dsimp only; split <;> simp
@[simp] theorem State.wtArrives_saved (s : State) (w : WriteThrough) : (State.wtArrives s w).saved = s.saved := by unfold State.wtArrives; dsimp only; split <;> simp
@[simp] theorem State.wtArrives_faultRecs (s : State) (w : WriteThrough) : (State.wtArrives s w).faultRecs = s.faultRecs := by unfold State.wtArrives; dsimp only; split <;> simp
@[simp] theorem State.wtArrives_ctxs (s : State) (w : WriteThrough) : (State.wtArrives s w).ctxs = s.ctxs := by unfold State.wtArrives; dsimp only; split <;> simp
@[simp] theorem State.wtArrives_amsgs (s : State) (w : WriteThrough) : (State.wtArrives s w).amsgs = s.amsgs := by unfold State.wtArrives; dsimp only; split <;> simp
@[simp] theorem State.wtArrives_queues (s : State) (w : WriteThrough) : (State.wtArrives s w).queues = s.queues := by unfold State.wtArrives; dsimp only; split <;> simp
@[simp] theorem State.wtArrives_bulks (s : State) (w : WriteThrough) : (State.wtArrives s w).bulks = s.bulks := by unfold State.wtArrives; dsimp only; split <;> simp
@[simp] theorem State.wtArrives_kiln (s : State) (w : WriteThrough) : (State.wtArrives s w).kiln = s.kiln := by unfold State.wtArrives; dsimp only; split <;> simp
@[simp] theorem State.wtArrives_dev (s : State) (w : WriteThrough) : (State.wtArrives s w).dev = s.dev := by unfold State.wtArrives; dsimp only; split <;> simp

/-! `State.drain` changes `mem`. -/
@[simp] theorem State.drain_agenda (s : State) (which : WriteThrough → Bool) : (State.drain s which).agenda = s.agenda := by unfold State.drain; exact foldl_field (fun s : State => s.agenda) _ (fun s x => by simp) _ _
@[simp] theorem State.drain_turn (s : State) (which : WriteThrough → Bool) : (State.drain s which).turn = s.turn := by unfold State.drain; exact foldl_field (fun s : State => s.turn) _ (fun s x => by simp) _ _
@[simp] theorem State.drain_fresh (s : State) (which : WriteThrough → Bool) : (State.drain s which).fresh = s.fresh := by unfold State.drain; exact foldl_field (fun s : State => s.fresh) _ (fun s x => by simp) _ _
@[simp] theorem State.drain_threads (s : State) (which : WriteThrough → Bool) : (State.drain s which).threads = s.threads := by unfold State.drain; exact foldl_field (fun s : State => s.threads) _ (fun s x => by simp) _ _
@[simp] theorem State.drain_cohorts (s : State) (which : WriteThrough → Bool) : (State.drain s which).cohorts = s.cohorts := by unfold State.drain; exact foldl_field (fun s : State => s.cohorts) _ (fun s x => by simp) _ _
@[simp] theorem State.drain_issues (s : State) (which : WriteThrough → Bool) : (State.drain s which).issues = s.issues := by unfold State.drain; exact foldl_field (fun s : State => s.issues) _ (fun s x => by simp) _ _
@[simp] theorem State.drain_groups (s : State) (which : WriteThrough → Bool) : (State.drain s which).groups = s.groups := by unfold State.drain; exact foldl_field (fun s : State => s.groups) _ (fun s x => by simp) _ _
@[simp] theorem State.drain_kernels (s : State) (which : WriteThrough → Bool) : (State.drain s which).kernels = s.kernels := by unfold State.drain; exact foldl_field (fun s : State => s.kernels) _ (fun s x => by simp) _ _
@[simp] theorem State.drain_launches (s : State) (which : WriteThrough → Bool) : (State.drain s which).launches = s.launches := by unfold State.drain; exact foldl_field (fun s : State => s.launches) _ (fun s x => by simp) _ _
@[simp] theorem State.drain_cores (s : State) (which : WriteThrough → Bool) : (State.drain s which).cores = s.cores := by unfold State.drain; exact foldl_field (fun s : State => s.cores) _ (fun s x => by simp) _ _
@[simp] theorem State.drain_ops (s : State) (which : WriteThrough → Bool) : (State.drain s which).ops = s.ops := by unfold State.drain; exact foldl_field (fun s : State => s.ops) _ (fun s x => by simp) _ _
@[simp] theorem State.drain_uses (s : State) (which : WriteThrough → Bool) : (State.drain s which).uses = s.uses := by unfold State.drain; exact foldl_field (fun s : State => s.uses) _ (fun s x => by simp) _ _
@[simp] theorem State.drain_mgroups (s : State) (which : WriteThrough → Bool) : (State.drain s which).mgroups = s.mgroups := by unfold State.drain; exact foldl_field (fun s : State => s.mgroups) _ (fun s x => by simp) _ _
@[simp] theorem State.drain_cmds (s : State) (which : WriteThrough → Bool) : (State.drain s which).cmds = s.cmds := by unfold State.drain; exact foldl_field (fun s : State => s.cmds) _ (fun s x => by simp) _ _
@[simp] theorem State.drain_cpys (s : State) (which : WriteThrough → Bool) : (State.drain s which).cpys = s.cpys := by unfold State.drain; exact foldl_field (fun s : State => s.cpys) _ (fun s x => by simp) _ _
@[simp] theorem State.drain_monitors (s : State) (which : WriteThrough → Bool) : (State.drain s which).monitors = s.monitors := by unfold State.drain; exact foldl_field (fun s : State => s.monitors) _ (fun s x => by simp) _ _
@[simp] theorem State.drain_msgs (s : State) (which : WriteThrough → Bool) : (State.drain s which).msgs = s.msgs := by unfold State.drain; exact foldl_field (fun s : State => s.msgs) _ (fun s x => by simp) _ _
@[simp] theorem State.drain_replies (s : State) (which : WriteThrough → Bool) : (State.drain s which).replies = s.replies := by unfold State.drain; exact foldl_field (fun s : State => s.replies) _ (fun s x => by simp) _ _
@[simp] theorem State.drain_rels (s : State) (which : WriteThrough → Bool) : (State.drain s which).rels = s.rels := by unfold State.drain; exact foldl_field (fun s : State => s.rels) _ (fun s x => by simp) _ _
@[simp] theorem State.drain_walks (s : State) (which : WriteThrough → Bool) : (State.drain s which).walks = s.walks := by unfold State.drain; exact foldl_field (fun s : State => s.walks) _ (fun s x => by simp) _ _
@[simp] theorem State.drain_pool (s : State) (which : WriteThrough → Bool) : (State.drain s which).pool = s.pool := by unfold State.drain; exact foldl_field (fun s : State => s.pool) _ (fun s x => by simp) _ _
@[simp] theorem State.drain_saved (s : State) (which : WriteThrough → Bool) : (State.drain s which).saved = s.saved := by unfold State.drain; exact foldl_field (fun s : State => s.saved) _ (fun s x => by simp) _ _
@[simp] theorem State.drain_faultRecs (s : State) (which : WriteThrough → Bool) : (State.drain s which).faultRecs = s.faultRecs := by unfold State.drain; exact foldl_field (fun s : State => s.faultRecs) _ (fun s x => by simp) _ _
@[simp] theorem State.drain_ctxs (s : State) (which : WriteThrough → Bool) : (State.drain s which).ctxs = s.ctxs := by unfold State.drain; exact foldl_field (fun s : State => s.ctxs) _ (fun s x => by simp) _ _
@[simp] theorem State.drain_amsgs (s : State) (which : WriteThrough → Bool) : (State.drain s which).amsgs = s.amsgs := by unfold State.drain; exact foldl_field (fun s : State => s.amsgs) _ (fun s x => by simp) _ _
@[simp] theorem State.drain_queues (s : State) (which : WriteThrough → Bool) : (State.drain s which).queues = s.queues := by unfold State.drain; exact foldl_field (fun s : State => s.queues) _ (fun s x => by simp) _ _
@[simp] theorem State.drain_bulks (s : State) (which : WriteThrough → Bool) : (State.drain s which).bulks = s.bulks := by unfold State.drain; exact foldl_field (fun s : State => s.bulks) _ (fun s x => by simp) _ _
@[simp] theorem State.drain_kiln (s : State) (which : WriteThrough → Bool) : (State.drain s which).kiln = s.kiln := by unfold State.drain; exact foldl_field (fun s : State => s.kiln) _ (fun s x => by simp) _ _
@[simp] theorem State.drain_dev (s : State) (which : WriteThrough → Bool) : (State.drain s which).dev = s.dev := by unfold State.drain; exact foldl_field (fun s : State => s.dev) _ (fun s x => by simp) _ _

/-! `State.drainDie` changes `mem`. -/
@[simp] theorem State.drainDie_agenda (s : State) (die : Nat) (asid : Nat) : (State.drainDie s die asid).agenda = s.agenda := by unfold State.drainDie; exact foldl_field (fun s : State => s.agenda) _ (fun s x => by simp) _ _
@[simp] theorem State.drainDie_turn (s : State) (die : Nat) (asid : Nat) : (State.drainDie s die asid).turn = s.turn := by unfold State.drainDie; exact foldl_field (fun s : State => s.turn) _ (fun s x => by simp) _ _
@[simp] theorem State.drainDie_fresh (s : State) (die : Nat) (asid : Nat) : (State.drainDie s die asid).fresh = s.fresh := by unfold State.drainDie; exact foldl_field (fun s : State => s.fresh) _ (fun s x => by simp) _ _
@[simp] theorem State.drainDie_threads (s : State) (die : Nat) (asid : Nat) : (State.drainDie s die asid).threads = s.threads := by unfold State.drainDie; exact foldl_field (fun s : State => s.threads) _ (fun s x => by simp) _ _
@[simp] theorem State.drainDie_cohorts (s : State) (die : Nat) (asid : Nat) : (State.drainDie s die asid).cohorts = s.cohorts := by unfold State.drainDie; exact foldl_field (fun s : State => s.cohorts) _ (fun s x => by simp) _ _
@[simp] theorem State.drainDie_issues (s : State) (die : Nat) (asid : Nat) : (State.drainDie s die asid).issues = s.issues := by unfold State.drainDie; exact foldl_field (fun s : State => s.issues) _ (fun s x => by simp) _ _
@[simp] theorem State.drainDie_groups (s : State) (die : Nat) (asid : Nat) : (State.drainDie s die asid).groups = s.groups := by unfold State.drainDie; exact foldl_field (fun s : State => s.groups) _ (fun s x => by simp) _ _
@[simp] theorem State.drainDie_kernels (s : State) (die : Nat) (asid : Nat) : (State.drainDie s die asid).kernels = s.kernels := by unfold State.drainDie; exact foldl_field (fun s : State => s.kernels) _ (fun s x => by simp) _ _
@[simp] theorem State.drainDie_launches (s : State) (die : Nat) (asid : Nat) : (State.drainDie s die asid).launches = s.launches := by unfold State.drainDie; exact foldl_field (fun s : State => s.launches) _ (fun s x => by simp) _ _
@[simp] theorem State.drainDie_cores (s : State) (die : Nat) (asid : Nat) : (State.drainDie s die asid).cores = s.cores := by unfold State.drainDie; exact foldl_field (fun s : State => s.cores) _ (fun s x => by simp) _ _
@[simp] theorem State.drainDie_ops (s : State) (die : Nat) (asid : Nat) : (State.drainDie s die asid).ops = s.ops := by unfold State.drainDie; exact foldl_field (fun s : State => s.ops) _ (fun s x => by simp) _ _
@[simp] theorem State.drainDie_uses (s : State) (die : Nat) (asid : Nat) : (State.drainDie s die asid).uses = s.uses := by unfold State.drainDie; exact foldl_field (fun s : State => s.uses) _ (fun s x => by simp) _ _
@[simp] theorem State.drainDie_mgroups (s : State) (die : Nat) (asid : Nat) : (State.drainDie s die asid).mgroups = s.mgroups := by unfold State.drainDie; exact foldl_field (fun s : State => s.mgroups) _ (fun s x => by simp) _ _
@[simp] theorem State.drainDie_cmds (s : State) (die : Nat) (asid : Nat) : (State.drainDie s die asid).cmds = s.cmds := by unfold State.drainDie; exact foldl_field (fun s : State => s.cmds) _ (fun s x => by simp) _ _
@[simp] theorem State.drainDie_cpys (s : State) (die : Nat) (asid : Nat) : (State.drainDie s die asid).cpys = s.cpys := by unfold State.drainDie; exact foldl_field (fun s : State => s.cpys) _ (fun s x => by simp) _ _
@[simp] theorem State.drainDie_monitors (s : State) (die : Nat) (asid : Nat) : (State.drainDie s die asid).monitors = s.monitors := by unfold State.drainDie; exact foldl_field (fun s : State => s.monitors) _ (fun s x => by simp) _ _
@[simp] theorem State.drainDie_msgs (s : State) (die : Nat) (asid : Nat) : (State.drainDie s die asid).msgs = s.msgs := by unfold State.drainDie; exact foldl_field (fun s : State => s.msgs) _ (fun s x => by simp) _ _
@[simp] theorem State.drainDie_replies (s : State) (die : Nat) (asid : Nat) : (State.drainDie s die asid).replies = s.replies := by unfold State.drainDie; exact foldl_field (fun s : State => s.replies) _ (fun s x => by simp) _ _
@[simp] theorem State.drainDie_rels (s : State) (die : Nat) (asid : Nat) : (State.drainDie s die asid).rels = s.rels := by unfold State.drainDie; exact foldl_field (fun s : State => s.rels) _ (fun s x => by simp) _ _
@[simp] theorem State.drainDie_walks (s : State) (die : Nat) (asid : Nat) : (State.drainDie s die asid).walks = s.walks := by unfold State.drainDie; exact foldl_field (fun s : State => s.walks) _ (fun s x => by simp) _ _
@[simp] theorem State.drainDie_pool (s : State) (die : Nat) (asid : Nat) : (State.drainDie s die asid).pool = s.pool := by unfold State.drainDie; exact foldl_field (fun s : State => s.pool) _ (fun s x => by simp) _ _
@[simp] theorem State.drainDie_saved (s : State) (die : Nat) (asid : Nat) : (State.drainDie s die asid).saved = s.saved := by unfold State.drainDie; exact foldl_field (fun s : State => s.saved) _ (fun s x => by simp) _ _
@[simp] theorem State.drainDie_faultRecs (s : State) (die : Nat) (asid : Nat) : (State.drainDie s die asid).faultRecs = s.faultRecs := by unfold State.drainDie; exact foldl_field (fun s : State => s.faultRecs) _ (fun s x => by simp) _ _
@[simp] theorem State.drainDie_ctxs (s : State) (die : Nat) (asid : Nat) : (State.drainDie s die asid).ctxs = s.ctxs := by unfold State.drainDie; exact foldl_field (fun s : State => s.ctxs) _ (fun s x => by simp) _ _
@[simp] theorem State.drainDie_amsgs (s : State) (die : Nat) (asid : Nat) : (State.drainDie s die asid).amsgs = s.amsgs := by unfold State.drainDie; exact foldl_field (fun s : State => s.amsgs) _ (fun s x => by simp) _ _
@[simp] theorem State.drainDie_queues (s : State) (die : Nat) (asid : Nat) : (State.drainDie s die asid).queues = s.queues := by unfold State.drainDie; exact foldl_field (fun s : State => s.queues) _ (fun s x => by simp) _ _
@[simp] theorem State.drainDie_bulks (s : State) (die : Nat) (asid : Nat) : (State.drainDie s die asid).bulks = s.bulks := by unfold State.drainDie; exact foldl_field (fun s : State => s.bulks) _ (fun s x => by simp) _ _
@[simp] theorem State.drainDie_kiln (s : State) (die : Nat) (asid : Nat) : (State.drainDie s die asid).kiln = s.kiln := by unfold State.drainDie; exact foldl_field (fun s : State => s.kiln) _ (fun s x => by simp) _ _
@[simp] theorem State.drainDie_dev (s : State) (die : Nat) (asid : Nat) : (State.drainDie s die asid).dev = s.dev := by unfold State.drainDie; exact foldl_field (fun s : State => s.dev) _ (fun s x => by simp) _ _

/-! `State.drainLine` changes `mem`. -/
@[simp] theorem State.drainLine_agenda (s : State) (die : Nat) (asid : Nat) (line : Nat) : (State.drainLine s die asid line).agenda = s.agenda := by unfold State.drainLine; exact foldl_field (fun s : State => s.agenda) _ (fun s x => by simp) _ _
@[simp] theorem State.drainLine_turn (s : State) (die : Nat) (asid : Nat) (line : Nat) : (State.drainLine s die asid line).turn = s.turn := by unfold State.drainLine; exact foldl_field (fun s : State => s.turn) _ (fun s x => by simp) _ _
@[simp] theorem State.drainLine_fresh (s : State) (die : Nat) (asid : Nat) (line : Nat) : (State.drainLine s die asid line).fresh = s.fresh := by unfold State.drainLine; exact foldl_field (fun s : State => s.fresh) _ (fun s x => by simp) _ _
@[simp] theorem State.drainLine_threads (s : State) (die : Nat) (asid : Nat) (line : Nat) : (State.drainLine s die asid line).threads = s.threads := by unfold State.drainLine; exact foldl_field (fun s : State => s.threads) _ (fun s x => by simp) _ _
@[simp] theorem State.drainLine_cohorts (s : State) (die : Nat) (asid : Nat) (line : Nat) : (State.drainLine s die asid line).cohorts = s.cohorts := by unfold State.drainLine; exact foldl_field (fun s : State => s.cohorts) _ (fun s x => by simp) _ _
@[simp] theorem State.drainLine_issues (s : State) (die : Nat) (asid : Nat) (line : Nat) : (State.drainLine s die asid line).issues = s.issues := by unfold State.drainLine; exact foldl_field (fun s : State => s.issues) _ (fun s x => by simp) _ _
@[simp] theorem State.drainLine_groups (s : State) (die : Nat) (asid : Nat) (line : Nat) : (State.drainLine s die asid line).groups = s.groups := by unfold State.drainLine; exact foldl_field (fun s : State => s.groups) _ (fun s x => by simp) _ _
@[simp] theorem State.drainLine_kernels (s : State) (die : Nat) (asid : Nat) (line : Nat) : (State.drainLine s die asid line).kernels = s.kernels := by unfold State.drainLine; exact foldl_field (fun s : State => s.kernels) _ (fun s x => by simp) _ _
@[simp] theorem State.drainLine_launches (s : State) (die : Nat) (asid : Nat) (line : Nat) : (State.drainLine s die asid line).launches = s.launches := by unfold State.drainLine; exact foldl_field (fun s : State => s.launches) _ (fun s x => by simp) _ _
@[simp] theorem State.drainLine_cores (s : State) (die : Nat) (asid : Nat) (line : Nat) : (State.drainLine s die asid line).cores = s.cores := by unfold State.drainLine; exact foldl_field (fun s : State => s.cores) _ (fun s x => by simp) _ _
@[simp] theorem State.drainLine_ops (s : State) (die : Nat) (asid : Nat) (line : Nat) : (State.drainLine s die asid line).ops = s.ops := by unfold State.drainLine; exact foldl_field (fun s : State => s.ops) _ (fun s x => by simp) _ _
@[simp] theorem State.drainLine_uses (s : State) (die : Nat) (asid : Nat) (line : Nat) : (State.drainLine s die asid line).uses = s.uses := by unfold State.drainLine; exact foldl_field (fun s : State => s.uses) _ (fun s x => by simp) _ _
@[simp] theorem State.drainLine_mgroups (s : State) (die : Nat) (asid : Nat) (line : Nat) : (State.drainLine s die asid line).mgroups = s.mgroups := by unfold State.drainLine; exact foldl_field (fun s : State => s.mgroups) _ (fun s x => by simp) _ _
@[simp] theorem State.drainLine_cmds (s : State) (die : Nat) (asid : Nat) (line : Nat) : (State.drainLine s die asid line).cmds = s.cmds := by unfold State.drainLine; exact foldl_field (fun s : State => s.cmds) _ (fun s x => by simp) _ _
@[simp] theorem State.drainLine_cpys (s : State) (die : Nat) (asid : Nat) (line : Nat) : (State.drainLine s die asid line).cpys = s.cpys := by unfold State.drainLine; exact foldl_field (fun s : State => s.cpys) _ (fun s x => by simp) _ _
@[simp] theorem State.drainLine_monitors (s : State) (die : Nat) (asid : Nat) (line : Nat) : (State.drainLine s die asid line).monitors = s.monitors := by unfold State.drainLine; exact foldl_field (fun s : State => s.monitors) _ (fun s x => by simp) _ _
@[simp] theorem State.drainLine_msgs (s : State) (die : Nat) (asid : Nat) (line : Nat) : (State.drainLine s die asid line).msgs = s.msgs := by unfold State.drainLine; exact foldl_field (fun s : State => s.msgs) _ (fun s x => by simp) _ _
@[simp] theorem State.drainLine_replies (s : State) (die : Nat) (asid : Nat) (line : Nat) : (State.drainLine s die asid line).replies = s.replies := by unfold State.drainLine; exact foldl_field (fun s : State => s.replies) _ (fun s x => by simp) _ _
@[simp] theorem State.drainLine_rels (s : State) (die : Nat) (asid : Nat) (line : Nat) : (State.drainLine s die asid line).rels = s.rels := by unfold State.drainLine; exact foldl_field (fun s : State => s.rels) _ (fun s x => by simp) _ _
@[simp] theorem State.drainLine_walks (s : State) (die : Nat) (asid : Nat) (line : Nat) : (State.drainLine s die asid line).walks = s.walks := by unfold State.drainLine; exact foldl_field (fun s : State => s.walks) _ (fun s x => by simp) _ _
@[simp] theorem State.drainLine_pool (s : State) (die : Nat) (asid : Nat) (line : Nat) : (State.drainLine s die asid line).pool = s.pool := by unfold State.drainLine; exact foldl_field (fun s : State => s.pool) _ (fun s x => by simp) _ _
@[simp] theorem State.drainLine_saved (s : State) (die : Nat) (asid : Nat) (line : Nat) : (State.drainLine s die asid line).saved = s.saved := by unfold State.drainLine; exact foldl_field (fun s : State => s.saved) _ (fun s x => by simp) _ _
@[simp] theorem State.drainLine_faultRecs (s : State) (die : Nat) (asid : Nat) (line : Nat) : (State.drainLine s die asid line).faultRecs = s.faultRecs := by unfold State.drainLine; exact foldl_field (fun s : State => s.faultRecs) _ (fun s x => by simp) _ _
@[simp] theorem State.drainLine_ctxs (s : State) (die : Nat) (asid : Nat) (line : Nat) : (State.drainLine s die asid line).ctxs = s.ctxs := by unfold State.drainLine; exact foldl_field (fun s : State => s.ctxs) _ (fun s x => by simp) _ _
@[simp] theorem State.drainLine_amsgs (s : State) (die : Nat) (asid : Nat) (line : Nat) : (State.drainLine s die asid line).amsgs = s.amsgs := by unfold State.drainLine; exact foldl_field (fun s : State => s.amsgs) _ (fun s x => by simp) _ _
@[simp] theorem State.drainLine_queues (s : State) (die : Nat) (asid : Nat) (line : Nat) : (State.drainLine s die asid line).queues = s.queues := by unfold State.drainLine; exact foldl_field (fun s : State => s.queues) _ (fun s x => by simp) _ _
@[simp] theorem State.drainLine_bulks (s : State) (die : Nat) (asid : Nat) (line : Nat) : (State.drainLine s die asid line).bulks = s.bulks := by unfold State.drainLine; exact foldl_field (fun s : State => s.bulks) _ (fun s x => by simp) _ _
@[simp] theorem State.drainLine_kiln (s : State) (die : Nat) (asid : Nat) (line : Nat) : (State.drainLine s die asid line).kiln = s.kiln := by unfold State.drainLine; exact foldl_field (fun s : State => s.kiln) _ (fun s x => by simp) _ _
@[simp] theorem State.drainLine_dev (s : State) (die : Nat) (asid : Nat) (line : Nat) : (State.drainLine s die asid line).dev = s.dev := by unfold State.drainLine; exact foldl_field (fun s : State => s.dev) _ (fun s x => by simp) _ _

/-! `State.dropCopies` changes `mem`. -/
@[simp] theorem State.dropCopies_agenda (s : State) (which : DieCopy → Bool) : (State.dropCopies s which).agenda = s.agenda := rfl
@[simp] theorem State.dropCopies_turn (s : State) (which : DieCopy → Bool) : (State.dropCopies s which).turn = s.turn := rfl
@[simp] theorem State.dropCopies_fresh (s : State) (which : DieCopy → Bool) : (State.dropCopies s which).fresh = s.fresh := rfl
@[simp] theorem State.dropCopies_threads (s : State) (which : DieCopy → Bool) : (State.dropCopies s which).threads = s.threads := rfl
@[simp] theorem State.dropCopies_cohorts (s : State) (which : DieCopy → Bool) : (State.dropCopies s which).cohorts = s.cohorts := rfl
@[simp] theorem State.dropCopies_issues (s : State) (which : DieCopy → Bool) : (State.dropCopies s which).issues = s.issues := rfl
@[simp] theorem State.dropCopies_groups (s : State) (which : DieCopy → Bool) : (State.dropCopies s which).groups = s.groups := rfl
@[simp] theorem State.dropCopies_kernels (s : State) (which : DieCopy → Bool) : (State.dropCopies s which).kernels = s.kernels := rfl
@[simp] theorem State.dropCopies_launches (s : State) (which : DieCopy → Bool) : (State.dropCopies s which).launches = s.launches := rfl
@[simp] theorem State.dropCopies_cores (s : State) (which : DieCopy → Bool) : (State.dropCopies s which).cores = s.cores := rfl
@[simp] theorem State.dropCopies_ops (s : State) (which : DieCopy → Bool) : (State.dropCopies s which).ops = s.ops := rfl
@[simp] theorem State.dropCopies_uses (s : State) (which : DieCopy → Bool) : (State.dropCopies s which).uses = s.uses := rfl
@[simp] theorem State.dropCopies_mgroups (s : State) (which : DieCopy → Bool) : (State.dropCopies s which).mgroups = s.mgroups := rfl
@[simp] theorem State.dropCopies_cmds (s : State) (which : DieCopy → Bool) : (State.dropCopies s which).cmds = s.cmds := rfl
@[simp] theorem State.dropCopies_cpys (s : State) (which : DieCopy → Bool) : (State.dropCopies s which).cpys = s.cpys := rfl
@[simp] theorem State.dropCopies_monitors (s : State) (which : DieCopy → Bool) : (State.dropCopies s which).monitors = s.monitors := rfl
@[simp] theorem State.dropCopies_msgs (s : State) (which : DieCopy → Bool) : (State.dropCopies s which).msgs = s.msgs := rfl
@[simp] theorem State.dropCopies_replies (s : State) (which : DieCopy → Bool) : (State.dropCopies s which).replies = s.replies := rfl
@[simp] theorem State.dropCopies_rels (s : State) (which : DieCopy → Bool) : (State.dropCopies s which).rels = s.rels := rfl
@[simp] theorem State.dropCopies_walks (s : State) (which : DieCopy → Bool) : (State.dropCopies s which).walks = s.walks := rfl
@[simp] theorem State.dropCopies_pool (s : State) (which : DieCopy → Bool) : (State.dropCopies s which).pool = s.pool := rfl
@[simp] theorem State.dropCopies_saved (s : State) (which : DieCopy → Bool) : (State.dropCopies s which).saved = s.saved := rfl
@[simp] theorem State.dropCopies_faultRecs (s : State) (which : DieCopy → Bool) : (State.dropCopies s which).faultRecs = s.faultRecs := rfl
@[simp] theorem State.dropCopies_ctxs (s : State) (which : DieCopy → Bool) : (State.dropCopies s which).ctxs = s.ctxs := rfl
@[simp] theorem State.dropCopies_amsgs (s : State) (which : DieCopy → Bool) : (State.dropCopies s which).amsgs = s.amsgs := rfl
@[simp] theorem State.dropCopies_queues (s : State) (which : DieCopy → Bool) : (State.dropCopies s which).queues = s.queues := rfl
@[simp] theorem State.dropCopies_bulks (s : State) (which : DieCopy → Bool) : (State.dropCopies s which).bulks = s.bulks := rfl
@[simp] theorem State.dropCopies_kiln (s : State) (which : DieCopy → Bool) : (State.dropCopies s which).kiln = s.kiln := rfl
@[simp] theorem State.dropCopies_dev (s : State) (which : DieCopy → Bool) : (State.dropCopies s which).dev = s.dev := rfl

/-! `State.dropOwn` changes `mem`. -/
@[simp] theorem State.dropOwn_agenda (s : State) (which : OwnLine → Bool) : (State.dropOwn s which).agenda = s.agenda := rfl
@[simp] theorem State.dropOwn_turn (s : State) (which : OwnLine → Bool) : (State.dropOwn s which).turn = s.turn := rfl
@[simp] theorem State.dropOwn_fresh (s : State) (which : OwnLine → Bool) : (State.dropOwn s which).fresh = s.fresh := rfl
@[simp] theorem State.dropOwn_threads (s : State) (which : OwnLine → Bool) : (State.dropOwn s which).threads = s.threads := rfl
@[simp] theorem State.dropOwn_cohorts (s : State) (which : OwnLine → Bool) : (State.dropOwn s which).cohorts = s.cohorts := rfl
@[simp] theorem State.dropOwn_issues (s : State) (which : OwnLine → Bool) : (State.dropOwn s which).issues = s.issues := rfl
@[simp] theorem State.dropOwn_groups (s : State) (which : OwnLine → Bool) : (State.dropOwn s which).groups = s.groups := rfl
@[simp] theorem State.dropOwn_kernels (s : State) (which : OwnLine → Bool) : (State.dropOwn s which).kernels = s.kernels := rfl
@[simp] theorem State.dropOwn_launches (s : State) (which : OwnLine → Bool) : (State.dropOwn s which).launches = s.launches := rfl
@[simp] theorem State.dropOwn_cores (s : State) (which : OwnLine → Bool) : (State.dropOwn s which).cores = s.cores := rfl
@[simp] theorem State.dropOwn_ops (s : State) (which : OwnLine → Bool) : (State.dropOwn s which).ops = s.ops := rfl
@[simp] theorem State.dropOwn_uses (s : State) (which : OwnLine → Bool) : (State.dropOwn s which).uses = s.uses := rfl
@[simp] theorem State.dropOwn_mgroups (s : State) (which : OwnLine → Bool) : (State.dropOwn s which).mgroups = s.mgroups := rfl
@[simp] theorem State.dropOwn_cmds (s : State) (which : OwnLine → Bool) : (State.dropOwn s which).cmds = s.cmds := rfl
@[simp] theorem State.dropOwn_cpys (s : State) (which : OwnLine → Bool) : (State.dropOwn s which).cpys = s.cpys := rfl
@[simp] theorem State.dropOwn_monitors (s : State) (which : OwnLine → Bool) : (State.dropOwn s which).monitors = s.monitors := rfl
@[simp] theorem State.dropOwn_msgs (s : State) (which : OwnLine → Bool) : (State.dropOwn s which).msgs = s.msgs := rfl
@[simp] theorem State.dropOwn_replies (s : State) (which : OwnLine → Bool) : (State.dropOwn s which).replies = s.replies := rfl
@[simp] theorem State.dropOwn_rels (s : State) (which : OwnLine → Bool) : (State.dropOwn s which).rels = s.rels := rfl
@[simp] theorem State.dropOwn_walks (s : State) (which : OwnLine → Bool) : (State.dropOwn s which).walks = s.walks := rfl
@[simp] theorem State.dropOwn_pool (s : State) (which : OwnLine → Bool) : (State.dropOwn s which).pool = s.pool := rfl
@[simp] theorem State.dropOwn_saved (s : State) (which : OwnLine → Bool) : (State.dropOwn s which).saved = s.saved := rfl
@[simp] theorem State.dropOwn_faultRecs (s : State) (which : OwnLine → Bool) : (State.dropOwn s which).faultRecs = s.faultRecs := rfl
@[simp] theorem State.dropOwn_ctxs (s : State) (which : OwnLine → Bool) : (State.dropOwn s which).ctxs = s.ctxs := rfl
@[simp] theorem State.dropOwn_amsgs (s : State) (which : OwnLine → Bool) : (State.dropOwn s which).amsgs = s.amsgs := rfl
@[simp] theorem State.dropOwn_queues (s : State) (which : OwnLine → Bool) : (State.dropOwn s which).queues = s.queues := rfl
@[simp] theorem State.dropOwn_bulks (s : State) (which : OwnLine → Bool) : (State.dropOwn s which).bulks = s.bulks := rfl
@[simp] theorem State.dropOwn_kiln (s : State) (which : OwnLine → Bool) : (State.dropOwn s which).kiln = s.kiln := rfl
@[simp] theorem State.dropOwn_dev (s : State) (which : OwnLine → Bool) : (State.dropOwn s which).dev = s.dev := rfl

/-! `State.evictL2s` changes `mem`. -/
@[simp] theorem State.evictL2s_agenda (s : State) (die : Nat) (slice : Nat) (ownOnly : Bool) (left : Nat) (ws : Nat) : (State.evictL2s s die slice ownOnly left ws).agenda = s.agenda := by
  induction ws generalizing s with
  | zero => rfl
  | succ n ih =>
    unfold State.evictL2s
    split
    · rfl
    · exact (ih _).trans (by simp)
@[simp] theorem State.evictL2s_turn (s : State) (die : Nat) (slice : Nat) (ownOnly : Bool) (left : Nat) (ws : Nat) : (State.evictL2s s die slice ownOnly left ws).turn = s.turn := by
  induction ws generalizing s with
  | zero => rfl
  | succ n ih =>
    unfold State.evictL2s
    split
    · rfl
    · exact (ih _).trans (by simp)
@[simp] theorem State.evictL2s_fresh (s : State) (die : Nat) (slice : Nat) (ownOnly : Bool) (left : Nat) (ws : Nat) : (State.evictL2s s die slice ownOnly left ws).fresh = s.fresh := by
  induction ws generalizing s with
  | zero => rfl
  | succ n ih =>
    unfold State.evictL2s
    split
    · rfl
    · exact (ih _).trans (by simp)
@[simp] theorem State.evictL2s_threads (s : State) (die : Nat) (slice : Nat) (ownOnly : Bool) (left : Nat) (ws : Nat) : (State.evictL2s s die slice ownOnly left ws).threads = s.threads := by
  induction ws generalizing s with
  | zero => rfl
  | succ n ih =>
    unfold State.evictL2s
    split
    · rfl
    · exact (ih _).trans (by simp)
@[simp] theorem State.evictL2s_cohorts (s : State) (die : Nat) (slice : Nat) (ownOnly : Bool) (left : Nat) (ws : Nat) : (State.evictL2s s die slice ownOnly left ws).cohorts = s.cohorts := by
  induction ws generalizing s with
  | zero => rfl
  | succ n ih =>
    unfold State.evictL2s
    split
    · rfl
    · exact (ih _).trans (by simp)
@[simp] theorem State.evictL2s_issues (s : State) (die : Nat) (slice : Nat) (ownOnly : Bool) (left : Nat) (ws : Nat) : (State.evictL2s s die slice ownOnly left ws).issues = s.issues := by
  induction ws generalizing s with
  | zero => rfl
  | succ n ih =>
    unfold State.evictL2s
    split
    · rfl
    · exact (ih _).trans (by simp)
@[simp] theorem State.evictL2s_groups (s : State) (die : Nat) (slice : Nat) (ownOnly : Bool) (left : Nat) (ws : Nat) : (State.evictL2s s die slice ownOnly left ws).groups = s.groups := by
  induction ws generalizing s with
  | zero => rfl
  | succ n ih =>
    unfold State.evictL2s
    split
    · rfl
    · exact (ih _).trans (by simp)
@[simp] theorem State.evictL2s_kernels (s : State) (die : Nat) (slice : Nat) (ownOnly : Bool) (left : Nat) (ws : Nat) : (State.evictL2s s die slice ownOnly left ws).kernels = s.kernels := by
  induction ws generalizing s with
  | zero => rfl
  | succ n ih =>
    unfold State.evictL2s
    split
    · rfl
    · exact (ih _).trans (by simp)
@[simp] theorem State.evictL2s_launches (s : State) (die : Nat) (slice : Nat) (ownOnly : Bool) (left : Nat) (ws : Nat) : (State.evictL2s s die slice ownOnly left ws).launches = s.launches := by
  induction ws generalizing s with
  | zero => rfl
  | succ n ih =>
    unfold State.evictL2s
    split
    · rfl
    · exact (ih _).trans (by simp)
@[simp] theorem State.evictL2s_cores (s : State) (die : Nat) (slice : Nat) (ownOnly : Bool) (left : Nat) (ws : Nat) : (State.evictL2s s die slice ownOnly left ws).cores = s.cores := by
  induction ws generalizing s with
  | zero => rfl
  | succ n ih =>
    unfold State.evictL2s
    split
    · rfl
    · exact (ih _).trans (by simp)
@[simp] theorem State.evictL2s_ops (s : State) (die : Nat) (slice : Nat) (ownOnly : Bool) (left : Nat) (ws : Nat) : (State.evictL2s s die slice ownOnly left ws).ops = s.ops := by
  induction ws generalizing s with
  | zero => rfl
  | succ n ih =>
    unfold State.evictL2s
    split
    · rfl
    · exact (ih _).trans (by simp)
@[simp] theorem State.evictL2s_uses (s : State) (die : Nat) (slice : Nat) (ownOnly : Bool) (left : Nat) (ws : Nat) : (State.evictL2s s die slice ownOnly left ws).uses = s.uses := by
  induction ws generalizing s with
  | zero => rfl
  | succ n ih =>
    unfold State.evictL2s
    split
    · rfl
    · exact (ih _).trans (by simp)
@[simp] theorem State.evictL2s_mgroups (s : State) (die : Nat) (slice : Nat) (ownOnly : Bool) (left : Nat) (ws : Nat) : (State.evictL2s s die slice ownOnly left ws).mgroups = s.mgroups := by
  induction ws generalizing s with
  | zero => rfl
  | succ n ih =>
    unfold State.evictL2s
    split
    · rfl
    · exact (ih _).trans (by simp)
@[simp] theorem State.evictL2s_cmds (s : State) (die : Nat) (slice : Nat) (ownOnly : Bool) (left : Nat) (ws : Nat) : (State.evictL2s s die slice ownOnly left ws).cmds = s.cmds := by
  induction ws generalizing s with
  | zero => rfl
  | succ n ih =>
    unfold State.evictL2s
    split
    · rfl
    · exact (ih _).trans (by simp)
@[simp] theorem State.evictL2s_cpys (s : State) (die : Nat) (slice : Nat) (ownOnly : Bool) (left : Nat) (ws : Nat) : (State.evictL2s s die slice ownOnly left ws).cpys = s.cpys := by
  induction ws generalizing s with
  | zero => rfl
  | succ n ih =>
    unfold State.evictL2s
    split
    · rfl
    · exact (ih _).trans (by simp)
@[simp] theorem State.evictL2s_monitors (s : State) (die : Nat) (slice : Nat) (ownOnly : Bool) (left : Nat) (ws : Nat) : (State.evictL2s s die slice ownOnly left ws).monitors = s.monitors := by
  induction ws generalizing s with
  | zero => rfl
  | succ n ih =>
    unfold State.evictL2s
    split
    · rfl
    · exact (ih _).trans (by simp)
@[simp] theorem State.evictL2s_msgs (s : State) (die : Nat) (slice : Nat) (ownOnly : Bool) (left : Nat) (ws : Nat) : (State.evictL2s s die slice ownOnly left ws).msgs = s.msgs := by
  induction ws generalizing s with
  | zero => rfl
  | succ n ih =>
    unfold State.evictL2s
    split
    · rfl
    · exact (ih _).trans (by simp)
@[simp] theorem State.evictL2s_replies (s : State) (die : Nat) (slice : Nat) (ownOnly : Bool) (left : Nat) (ws : Nat) : (State.evictL2s s die slice ownOnly left ws).replies = s.replies := by
  induction ws generalizing s with
  | zero => rfl
  | succ n ih =>
    unfold State.evictL2s
    split
    · rfl
    · exact (ih _).trans (by simp)
@[simp] theorem State.evictL2s_rels (s : State) (die : Nat) (slice : Nat) (ownOnly : Bool) (left : Nat) (ws : Nat) : (State.evictL2s s die slice ownOnly left ws).rels = s.rels := by
  induction ws generalizing s with
  | zero => rfl
  | succ n ih =>
    unfold State.evictL2s
    split
    · rfl
    · exact (ih _).trans (by simp)
@[simp] theorem State.evictL2s_walks (s : State) (die : Nat) (slice : Nat) (ownOnly : Bool) (left : Nat) (ws : Nat) : (State.evictL2s s die slice ownOnly left ws).walks = s.walks := by
  induction ws generalizing s with
  | zero => rfl
  | succ n ih =>
    unfold State.evictL2s
    split
    · rfl
    · exact (ih _).trans (by simp)
@[simp] theorem State.evictL2s_pool (s : State) (die : Nat) (slice : Nat) (ownOnly : Bool) (left : Nat) (ws : Nat) : (State.evictL2s s die slice ownOnly left ws).pool = s.pool := by
  induction ws generalizing s with
  | zero => rfl
  | succ n ih =>
    unfold State.evictL2s
    split
    · rfl
    · exact (ih _).trans (by simp)
@[simp] theorem State.evictL2s_saved (s : State) (die : Nat) (slice : Nat) (ownOnly : Bool) (left : Nat) (ws : Nat) : (State.evictL2s s die slice ownOnly left ws).saved = s.saved := by
  induction ws generalizing s with
  | zero => rfl
  | succ n ih =>
    unfold State.evictL2s
    split
    · rfl
    · exact (ih _).trans (by simp)
@[simp] theorem State.evictL2s_faultRecs (s : State) (die : Nat) (slice : Nat) (ownOnly : Bool) (left : Nat) (ws : Nat) : (State.evictL2s s die slice ownOnly left ws).faultRecs = s.faultRecs := by
  induction ws generalizing s with
  | zero => rfl
  | succ n ih =>
    unfold State.evictL2s
    split
    · rfl
    · exact (ih _).trans (by simp)
@[simp] theorem State.evictL2s_ctxs (s : State) (die : Nat) (slice : Nat) (ownOnly : Bool) (left : Nat) (ws : Nat) : (State.evictL2s s die slice ownOnly left ws).ctxs = s.ctxs := by
  induction ws generalizing s with
  | zero => rfl
  | succ n ih =>
    unfold State.evictL2s
    split
    · rfl
    · exact (ih _).trans (by simp)
@[simp] theorem State.evictL2s_amsgs (s : State) (die : Nat) (slice : Nat) (ownOnly : Bool) (left : Nat) (ws : Nat) : (State.evictL2s s die slice ownOnly left ws).amsgs = s.amsgs := by
  induction ws generalizing s with
  | zero => rfl
  | succ n ih =>
    unfold State.evictL2s
    split
    · rfl
    · exact (ih _).trans (by simp)
@[simp] theorem State.evictL2s_queues (s : State) (die : Nat) (slice : Nat) (ownOnly : Bool) (left : Nat) (ws : Nat) : (State.evictL2s s die slice ownOnly left ws).queues = s.queues := by
  induction ws generalizing s with
  | zero => rfl
  | succ n ih =>
    unfold State.evictL2s
    split
    · rfl
    · exact (ih _).trans (by simp)
@[simp] theorem State.evictL2s_bulks (s : State) (die : Nat) (slice : Nat) (ownOnly : Bool) (left : Nat) (ws : Nat) : (State.evictL2s s die slice ownOnly left ws).bulks = s.bulks := by
  induction ws generalizing s with
  | zero => rfl
  | succ n ih =>
    unfold State.evictL2s
    split
    · rfl
    · exact (ih _).trans (by simp)
@[simp] theorem State.evictL2s_kiln (s : State) (die : Nat) (slice : Nat) (ownOnly : Bool) (left : Nat) (ws : Nat) : (State.evictL2s s die slice ownOnly left ws).kiln = s.kiln := by
  induction ws generalizing s with
  | zero => rfl
  | succ n ih =>
    unfold State.evictL2s
    split
    · rfl
    · exact (ih _).trans (by simp)
@[simp] theorem State.evictL2s_dev (s : State) (die : Nat) (slice : Nat) (ownOnly : Bool) (left : Nat) (ws : Nat) : (State.evictL2s s die slice ownOnly left ws).dev = s.dev := by
  induction ws generalizing s with
  | zero => rfl
  | succ n ih =>
    unfold State.evictL2s
    split
    · rfl
    · exact (ih _).trans (by simp)

/-! `State.trimSlice` changes `mem`. -/
@[simp] theorem State.trimSlice_agenda (s : State) (die : Nat) (slice : Nat) (spare : Nat) (spareOwn : Nat) : (State.trimSlice s die slice spare spareOwn).agenda = s.agenda := (State.evictL2s_agenda _ _ _ _ _ _).trans (State.evictL2s_agenda _ _ _ _ _ _)
@[simp] theorem State.trimSlice_turn (s : State) (die : Nat) (slice : Nat) (spare : Nat) (spareOwn : Nat) : (State.trimSlice s die slice spare spareOwn).turn = s.turn := (State.evictL2s_turn _ _ _ _ _ _).trans (State.evictL2s_turn _ _ _ _ _ _)
@[simp] theorem State.trimSlice_fresh (s : State) (die : Nat) (slice : Nat) (spare : Nat) (spareOwn : Nat) : (State.trimSlice s die slice spare spareOwn).fresh = s.fresh := (State.evictL2s_fresh _ _ _ _ _ _).trans (State.evictL2s_fresh _ _ _ _ _ _)
@[simp] theorem State.trimSlice_threads (s : State) (die : Nat) (slice : Nat) (spare : Nat) (spareOwn : Nat) : (State.trimSlice s die slice spare spareOwn).threads = s.threads := (State.evictL2s_threads _ _ _ _ _ _).trans (State.evictL2s_threads _ _ _ _ _ _)
@[simp] theorem State.trimSlice_cohorts (s : State) (die : Nat) (slice : Nat) (spare : Nat) (spareOwn : Nat) : (State.trimSlice s die slice spare spareOwn).cohorts = s.cohorts := (State.evictL2s_cohorts _ _ _ _ _ _).trans (State.evictL2s_cohorts _ _ _ _ _ _)
@[simp] theorem State.trimSlice_issues (s : State) (die : Nat) (slice : Nat) (spare : Nat) (spareOwn : Nat) : (State.trimSlice s die slice spare spareOwn).issues = s.issues := (State.evictL2s_issues _ _ _ _ _ _).trans (State.evictL2s_issues _ _ _ _ _ _)
@[simp] theorem State.trimSlice_groups (s : State) (die : Nat) (slice : Nat) (spare : Nat) (spareOwn : Nat) : (State.trimSlice s die slice spare spareOwn).groups = s.groups := (State.evictL2s_groups _ _ _ _ _ _).trans (State.evictL2s_groups _ _ _ _ _ _)
@[simp] theorem State.trimSlice_kernels (s : State) (die : Nat) (slice : Nat) (spare : Nat) (spareOwn : Nat) : (State.trimSlice s die slice spare spareOwn).kernels = s.kernels := (State.evictL2s_kernels _ _ _ _ _ _).trans (State.evictL2s_kernels _ _ _ _ _ _)
@[simp] theorem State.trimSlice_launches (s : State) (die : Nat) (slice : Nat) (spare : Nat) (spareOwn : Nat) : (State.trimSlice s die slice spare spareOwn).launches = s.launches := (State.evictL2s_launches _ _ _ _ _ _).trans (State.evictL2s_launches _ _ _ _ _ _)
@[simp] theorem State.trimSlice_cores (s : State) (die : Nat) (slice : Nat) (spare : Nat) (spareOwn : Nat) : (State.trimSlice s die slice spare spareOwn).cores = s.cores := (State.evictL2s_cores _ _ _ _ _ _).trans (State.evictL2s_cores _ _ _ _ _ _)
@[simp] theorem State.trimSlice_ops (s : State) (die : Nat) (slice : Nat) (spare : Nat) (spareOwn : Nat) : (State.trimSlice s die slice spare spareOwn).ops = s.ops := (State.evictL2s_ops _ _ _ _ _ _).trans (State.evictL2s_ops _ _ _ _ _ _)
@[simp] theorem State.trimSlice_uses (s : State) (die : Nat) (slice : Nat) (spare : Nat) (spareOwn : Nat) : (State.trimSlice s die slice spare spareOwn).uses = s.uses := (State.evictL2s_uses _ _ _ _ _ _).trans (State.evictL2s_uses _ _ _ _ _ _)
@[simp] theorem State.trimSlice_mgroups (s : State) (die : Nat) (slice : Nat) (spare : Nat) (spareOwn : Nat) : (State.trimSlice s die slice spare spareOwn).mgroups = s.mgroups := (State.evictL2s_mgroups _ _ _ _ _ _).trans (State.evictL2s_mgroups _ _ _ _ _ _)
@[simp] theorem State.trimSlice_cmds (s : State) (die : Nat) (slice : Nat) (spare : Nat) (spareOwn : Nat) : (State.trimSlice s die slice spare spareOwn).cmds = s.cmds := (State.evictL2s_cmds _ _ _ _ _ _).trans (State.evictL2s_cmds _ _ _ _ _ _)
@[simp] theorem State.trimSlice_cpys (s : State) (die : Nat) (slice : Nat) (spare : Nat) (spareOwn : Nat) : (State.trimSlice s die slice spare spareOwn).cpys = s.cpys := (State.evictL2s_cpys _ _ _ _ _ _).trans (State.evictL2s_cpys _ _ _ _ _ _)
@[simp] theorem State.trimSlice_monitors (s : State) (die : Nat) (slice : Nat) (spare : Nat) (spareOwn : Nat) : (State.trimSlice s die slice spare spareOwn).monitors = s.monitors := (State.evictL2s_monitors _ _ _ _ _ _).trans (State.evictL2s_monitors _ _ _ _ _ _)
@[simp] theorem State.trimSlice_msgs (s : State) (die : Nat) (slice : Nat) (spare : Nat) (spareOwn : Nat) : (State.trimSlice s die slice spare spareOwn).msgs = s.msgs := (State.evictL2s_msgs _ _ _ _ _ _).trans (State.evictL2s_msgs _ _ _ _ _ _)
@[simp] theorem State.trimSlice_replies (s : State) (die : Nat) (slice : Nat) (spare : Nat) (spareOwn : Nat) : (State.trimSlice s die slice spare spareOwn).replies = s.replies := (State.evictL2s_replies _ _ _ _ _ _).trans (State.evictL2s_replies _ _ _ _ _ _)
@[simp] theorem State.trimSlice_rels (s : State) (die : Nat) (slice : Nat) (spare : Nat) (spareOwn : Nat) : (State.trimSlice s die slice spare spareOwn).rels = s.rels := (State.evictL2s_rels _ _ _ _ _ _).trans (State.evictL2s_rels _ _ _ _ _ _)
@[simp] theorem State.trimSlice_walks (s : State) (die : Nat) (slice : Nat) (spare : Nat) (spareOwn : Nat) : (State.trimSlice s die slice spare spareOwn).walks = s.walks := (State.evictL2s_walks _ _ _ _ _ _).trans (State.evictL2s_walks _ _ _ _ _ _)
@[simp] theorem State.trimSlice_pool (s : State) (die : Nat) (slice : Nat) (spare : Nat) (spareOwn : Nat) : (State.trimSlice s die slice spare spareOwn).pool = s.pool := (State.evictL2s_pool _ _ _ _ _ _).trans (State.evictL2s_pool _ _ _ _ _ _)
@[simp] theorem State.trimSlice_saved (s : State) (die : Nat) (slice : Nat) (spare : Nat) (spareOwn : Nat) : (State.trimSlice s die slice spare spareOwn).saved = s.saved := (State.evictL2s_saved _ _ _ _ _ _).trans (State.evictL2s_saved _ _ _ _ _ _)
@[simp] theorem State.trimSlice_faultRecs (s : State) (die : Nat) (slice : Nat) (spare : Nat) (spareOwn : Nat) : (State.trimSlice s die slice spare spareOwn).faultRecs = s.faultRecs := (State.evictL2s_faultRecs _ _ _ _ _ _).trans (State.evictL2s_faultRecs _ _ _ _ _ _)
@[simp] theorem State.trimSlice_ctxs (s : State) (die : Nat) (slice : Nat) (spare : Nat) (spareOwn : Nat) : (State.trimSlice s die slice spare spareOwn).ctxs = s.ctxs := (State.evictL2s_ctxs _ _ _ _ _ _).trans (State.evictL2s_ctxs _ _ _ _ _ _)
@[simp] theorem State.trimSlice_amsgs (s : State) (die : Nat) (slice : Nat) (spare : Nat) (spareOwn : Nat) : (State.trimSlice s die slice spare spareOwn).amsgs = s.amsgs := (State.evictL2s_amsgs _ _ _ _ _ _).trans (State.evictL2s_amsgs _ _ _ _ _ _)
@[simp] theorem State.trimSlice_queues (s : State) (die : Nat) (slice : Nat) (spare : Nat) (spareOwn : Nat) : (State.trimSlice s die slice spare spareOwn).queues = s.queues := (State.evictL2s_queues _ _ _ _ _ _).trans (State.evictL2s_queues _ _ _ _ _ _)
@[simp] theorem State.trimSlice_bulks (s : State) (die : Nat) (slice : Nat) (spare : Nat) (spareOwn : Nat) : (State.trimSlice s die slice spare spareOwn).bulks = s.bulks := (State.evictL2s_bulks _ _ _ _ _ _).trans (State.evictL2s_bulks _ _ _ _ _ _)
@[simp] theorem State.trimSlice_kiln (s : State) (die : Nat) (slice : Nat) (spare : Nat) (spareOwn : Nat) : (State.trimSlice s die slice spare spareOwn).kiln = s.kiln := (State.evictL2s_kiln _ _ _ _ _ _).trans (State.evictL2s_kiln _ _ _ _ _ _)
@[simp] theorem State.trimSlice_dev (s : State) (die : Nat) (slice : Nat) (spare : Nat) (spareOwn : Nat) : (State.trimSlice s die slice spare spareOwn).dev = s.dev := (State.evictL2s_dev _ _ _ _ _ _).trans (State.evictL2s_dev _ _ _ _ _ _)

/-! `State.roomL2` changes `mem`. -/
@[simp] theorem State.roomL2_agenda (s : State) (die : Nat) (line : Nat) (own : Bool) : (State.roomL2 s die line own).agenda = s.agenda := by unfold State.roomL2; simp
@[simp] theorem State.roomL2_turn (s : State) (die : Nat) (line : Nat) (own : Bool) : (State.roomL2 s die line own).turn = s.turn := by unfold State.roomL2; simp
@[simp] theorem State.roomL2_fresh (s : State) (die : Nat) (line : Nat) (own : Bool) : (State.roomL2 s die line own).fresh = s.fresh := by unfold State.roomL2; simp
@[simp] theorem State.roomL2_threads (s : State) (die : Nat) (line : Nat) (own : Bool) : (State.roomL2 s die line own).threads = s.threads := by unfold State.roomL2; simp
@[simp] theorem State.roomL2_cohorts (s : State) (die : Nat) (line : Nat) (own : Bool) : (State.roomL2 s die line own).cohorts = s.cohorts := by unfold State.roomL2; simp
@[simp] theorem State.roomL2_issues (s : State) (die : Nat) (line : Nat) (own : Bool) : (State.roomL2 s die line own).issues = s.issues := by unfold State.roomL2; simp
@[simp] theorem State.roomL2_groups (s : State) (die : Nat) (line : Nat) (own : Bool) : (State.roomL2 s die line own).groups = s.groups := by unfold State.roomL2; simp
@[simp] theorem State.roomL2_kernels (s : State) (die : Nat) (line : Nat) (own : Bool) : (State.roomL2 s die line own).kernels = s.kernels := by unfold State.roomL2; simp
@[simp] theorem State.roomL2_launches (s : State) (die : Nat) (line : Nat) (own : Bool) : (State.roomL2 s die line own).launches = s.launches := by unfold State.roomL2; simp
@[simp] theorem State.roomL2_cores (s : State) (die : Nat) (line : Nat) (own : Bool) : (State.roomL2 s die line own).cores = s.cores := by unfold State.roomL2; simp
@[simp] theorem State.roomL2_ops (s : State) (die : Nat) (line : Nat) (own : Bool) : (State.roomL2 s die line own).ops = s.ops := by unfold State.roomL2; simp
@[simp] theorem State.roomL2_uses (s : State) (die : Nat) (line : Nat) (own : Bool) : (State.roomL2 s die line own).uses = s.uses := by unfold State.roomL2; simp
@[simp] theorem State.roomL2_mgroups (s : State) (die : Nat) (line : Nat) (own : Bool) : (State.roomL2 s die line own).mgroups = s.mgroups := by unfold State.roomL2; simp
@[simp] theorem State.roomL2_cmds (s : State) (die : Nat) (line : Nat) (own : Bool) : (State.roomL2 s die line own).cmds = s.cmds := by unfold State.roomL2; simp
@[simp] theorem State.roomL2_cpys (s : State) (die : Nat) (line : Nat) (own : Bool) : (State.roomL2 s die line own).cpys = s.cpys := by unfold State.roomL2; simp
@[simp] theorem State.roomL2_monitors (s : State) (die : Nat) (line : Nat) (own : Bool) : (State.roomL2 s die line own).monitors = s.monitors := by unfold State.roomL2; simp
@[simp] theorem State.roomL2_msgs (s : State) (die : Nat) (line : Nat) (own : Bool) : (State.roomL2 s die line own).msgs = s.msgs := by unfold State.roomL2; simp
@[simp] theorem State.roomL2_replies (s : State) (die : Nat) (line : Nat) (own : Bool) : (State.roomL2 s die line own).replies = s.replies := by unfold State.roomL2; simp
@[simp] theorem State.roomL2_rels (s : State) (die : Nat) (line : Nat) (own : Bool) : (State.roomL2 s die line own).rels = s.rels := by unfold State.roomL2; simp
@[simp] theorem State.roomL2_walks (s : State) (die : Nat) (line : Nat) (own : Bool) : (State.roomL2 s die line own).walks = s.walks := by unfold State.roomL2; simp
@[simp] theorem State.roomL2_pool (s : State) (die : Nat) (line : Nat) (own : Bool) : (State.roomL2 s die line own).pool = s.pool := by unfold State.roomL2; simp
@[simp] theorem State.roomL2_saved (s : State) (die : Nat) (line : Nat) (own : Bool) : (State.roomL2 s die line own).saved = s.saved := by unfold State.roomL2; simp
@[simp] theorem State.roomL2_faultRecs (s : State) (die : Nat) (line : Nat) (own : Bool) : (State.roomL2 s die line own).faultRecs = s.faultRecs := by unfold State.roomL2; simp
@[simp] theorem State.roomL2_ctxs (s : State) (die : Nat) (line : Nat) (own : Bool) : (State.roomL2 s die line own).ctxs = s.ctxs := by unfold State.roomL2; simp
@[simp] theorem State.roomL2_amsgs (s : State) (die : Nat) (line : Nat) (own : Bool) : (State.roomL2 s die line own).amsgs = s.amsgs := by unfold State.roomL2; simp
@[simp] theorem State.roomL2_queues (s : State) (die : Nat) (line : Nat) (own : Bool) : (State.roomL2 s die line own).queues = s.queues := by unfold State.roomL2; simp
@[simp] theorem State.roomL2_bulks (s : State) (die : Nat) (line : Nat) (own : Bool) : (State.roomL2 s die line own).bulks = s.bulks := by unfold State.roomL2; simp
@[simp] theorem State.roomL2_kiln (s : State) (die : Nat) (line : Nat) (own : Bool) : (State.roomL2 s die line own).kiln = s.kiln := by unfold State.roomL2; simp
@[simp] theorem State.roomL2_dev (s : State) (die : Nat) (line : Nat) (own : Bool) : (State.roomL2 s die line own).dev = s.dev := by unfold State.roomL2; simp

/-! `State.addCopy` changes `mem`. -/
@[simp] theorem State.addCopy_agenda (s : State) (c : DieCopy) : (State.addCopy s c).agenda = s.agenda := by unfold State.addCopy; simp
@[simp] theorem State.addCopy_turn (s : State) (c : DieCopy) : (State.addCopy s c).turn = s.turn := by unfold State.addCopy; simp
@[simp] theorem State.addCopy_fresh (s : State) (c : DieCopy) : (State.addCopy s c).fresh = s.fresh := by unfold State.addCopy; simp
@[simp] theorem State.addCopy_threads (s : State) (c : DieCopy) : (State.addCopy s c).threads = s.threads := by unfold State.addCopy; simp
@[simp] theorem State.addCopy_cohorts (s : State) (c : DieCopy) : (State.addCopy s c).cohorts = s.cohorts := by unfold State.addCopy; simp
@[simp] theorem State.addCopy_issues (s : State) (c : DieCopy) : (State.addCopy s c).issues = s.issues := by unfold State.addCopy; simp
@[simp] theorem State.addCopy_groups (s : State) (c : DieCopy) : (State.addCopy s c).groups = s.groups := by unfold State.addCopy; simp
@[simp] theorem State.addCopy_kernels (s : State) (c : DieCopy) : (State.addCopy s c).kernels = s.kernels := by unfold State.addCopy; simp
@[simp] theorem State.addCopy_launches (s : State) (c : DieCopy) : (State.addCopy s c).launches = s.launches := by unfold State.addCopy; simp
@[simp] theorem State.addCopy_cores (s : State) (c : DieCopy) : (State.addCopy s c).cores = s.cores := by unfold State.addCopy; simp
@[simp] theorem State.addCopy_ops (s : State) (c : DieCopy) : (State.addCopy s c).ops = s.ops := by unfold State.addCopy; simp
@[simp] theorem State.addCopy_uses (s : State) (c : DieCopy) : (State.addCopy s c).uses = s.uses := by unfold State.addCopy; simp
@[simp] theorem State.addCopy_mgroups (s : State) (c : DieCopy) : (State.addCopy s c).mgroups = s.mgroups := by unfold State.addCopy; simp
@[simp] theorem State.addCopy_cmds (s : State) (c : DieCopy) : (State.addCopy s c).cmds = s.cmds := by unfold State.addCopy; simp
@[simp] theorem State.addCopy_cpys (s : State) (c : DieCopy) : (State.addCopy s c).cpys = s.cpys := by unfold State.addCopy; simp
@[simp] theorem State.addCopy_monitors (s : State) (c : DieCopy) : (State.addCopy s c).monitors = s.monitors := by unfold State.addCopy; simp
@[simp] theorem State.addCopy_msgs (s : State) (c : DieCopy) : (State.addCopy s c).msgs = s.msgs := by unfold State.addCopy; simp
@[simp] theorem State.addCopy_replies (s : State) (c : DieCopy) : (State.addCopy s c).replies = s.replies := by unfold State.addCopy; simp
@[simp] theorem State.addCopy_rels (s : State) (c : DieCopy) : (State.addCopy s c).rels = s.rels := by unfold State.addCopy; simp
@[simp] theorem State.addCopy_walks (s : State) (c : DieCopy) : (State.addCopy s c).walks = s.walks := by unfold State.addCopy; simp
@[simp] theorem State.addCopy_pool (s : State) (c : DieCopy) : (State.addCopy s c).pool = s.pool := by unfold State.addCopy; simp
@[simp] theorem State.addCopy_saved (s : State) (c : DieCopy) : (State.addCopy s c).saved = s.saved := by unfold State.addCopy; simp
@[simp] theorem State.addCopy_faultRecs (s : State) (c : DieCopy) : (State.addCopy s c).faultRecs = s.faultRecs := by unfold State.addCopy; simp
@[simp] theorem State.addCopy_ctxs (s : State) (c : DieCopy) : (State.addCopy s c).ctxs = s.ctxs := by unfold State.addCopy; simp
@[simp] theorem State.addCopy_amsgs (s : State) (c : DieCopy) : (State.addCopy s c).amsgs = s.amsgs := by unfold State.addCopy; simp
@[simp] theorem State.addCopy_queues (s : State) (c : DieCopy) : (State.addCopy s c).queues = s.queues := by unfold State.addCopy; simp
@[simp] theorem State.addCopy_bulks (s : State) (c : DieCopy) : (State.addCopy s c).bulks = s.bulks := by unfold State.addCopy; simp
@[simp] theorem State.addCopy_kiln (s : State) (c : DieCopy) : (State.addCopy s c).kiln = s.kiln := by unfold State.addCopy; simp
@[simp] theorem State.addCopy_dev (s : State) (c : DieCopy) : (State.addCopy s c).dev = s.dev := by unfold State.addCopy; simp

/-! `State.touchOwn` changes `mem`. -/
@[simp] theorem State.touchOwn_agenda (s : State) (die : Nat) (asid : Nat) (line : Nat) (h : Home) (alloc : Bool) (cls : Nat) : (State.touchOwn s die asid line h alloc cls).agenda = s.agenda := by unfold State.touchOwn; (repeat' split) <;> simp
@[simp] theorem State.touchOwn_turn (s : State) (die : Nat) (asid : Nat) (line : Nat) (h : Home) (alloc : Bool) (cls : Nat) : (State.touchOwn s die asid line h alloc cls).turn = s.turn := by unfold State.touchOwn; (repeat' split) <;> simp
@[simp] theorem State.touchOwn_fresh (s : State) (die : Nat) (asid : Nat) (line : Nat) (h : Home) (alloc : Bool) (cls : Nat) : (State.touchOwn s die asid line h alloc cls).fresh = s.fresh := by unfold State.touchOwn; (repeat' split) <;> simp
@[simp] theorem State.touchOwn_threads (s : State) (die : Nat) (asid : Nat) (line : Nat) (h : Home) (alloc : Bool) (cls : Nat) : (State.touchOwn s die asid line h alloc cls).threads = s.threads := by unfold State.touchOwn; (repeat' split) <;> simp
@[simp] theorem State.touchOwn_cohorts (s : State) (die : Nat) (asid : Nat) (line : Nat) (h : Home) (alloc : Bool) (cls : Nat) : (State.touchOwn s die asid line h alloc cls).cohorts = s.cohorts := by unfold State.touchOwn; (repeat' split) <;> simp
@[simp] theorem State.touchOwn_issues (s : State) (die : Nat) (asid : Nat) (line : Nat) (h : Home) (alloc : Bool) (cls : Nat) : (State.touchOwn s die asid line h alloc cls).issues = s.issues := by unfold State.touchOwn; (repeat' split) <;> simp
@[simp] theorem State.touchOwn_groups (s : State) (die : Nat) (asid : Nat) (line : Nat) (h : Home) (alloc : Bool) (cls : Nat) : (State.touchOwn s die asid line h alloc cls).groups = s.groups := by unfold State.touchOwn; (repeat' split) <;> simp
@[simp] theorem State.touchOwn_kernels (s : State) (die : Nat) (asid : Nat) (line : Nat) (h : Home) (alloc : Bool) (cls : Nat) : (State.touchOwn s die asid line h alloc cls).kernels = s.kernels := by unfold State.touchOwn; (repeat' split) <;> simp
@[simp] theorem State.touchOwn_launches (s : State) (die : Nat) (asid : Nat) (line : Nat) (h : Home) (alloc : Bool) (cls : Nat) : (State.touchOwn s die asid line h alloc cls).launches = s.launches := by unfold State.touchOwn; (repeat' split) <;> simp
@[simp] theorem State.touchOwn_cores (s : State) (die : Nat) (asid : Nat) (line : Nat) (h : Home) (alloc : Bool) (cls : Nat) : (State.touchOwn s die asid line h alloc cls).cores = s.cores := by unfold State.touchOwn; (repeat' split) <;> simp
@[simp] theorem State.touchOwn_ops (s : State) (die : Nat) (asid : Nat) (line : Nat) (h : Home) (alloc : Bool) (cls : Nat) : (State.touchOwn s die asid line h alloc cls).ops = s.ops := by unfold State.touchOwn; (repeat' split) <;> simp
@[simp] theorem State.touchOwn_uses (s : State) (die : Nat) (asid : Nat) (line : Nat) (h : Home) (alloc : Bool) (cls : Nat) : (State.touchOwn s die asid line h alloc cls).uses = s.uses := by unfold State.touchOwn; (repeat' split) <;> simp
@[simp] theorem State.touchOwn_mgroups (s : State) (die : Nat) (asid : Nat) (line : Nat) (h : Home) (alloc : Bool) (cls : Nat) : (State.touchOwn s die asid line h alloc cls).mgroups = s.mgroups := by unfold State.touchOwn; (repeat' split) <;> simp
@[simp] theorem State.touchOwn_cmds (s : State) (die : Nat) (asid : Nat) (line : Nat) (h : Home) (alloc : Bool) (cls : Nat) : (State.touchOwn s die asid line h alloc cls).cmds = s.cmds := by unfold State.touchOwn; (repeat' split) <;> simp
@[simp] theorem State.touchOwn_cpys (s : State) (die : Nat) (asid : Nat) (line : Nat) (h : Home) (alloc : Bool) (cls : Nat) : (State.touchOwn s die asid line h alloc cls).cpys = s.cpys := by unfold State.touchOwn; (repeat' split) <;> simp
@[simp] theorem State.touchOwn_monitors (s : State) (die : Nat) (asid : Nat) (line : Nat) (h : Home) (alloc : Bool) (cls : Nat) : (State.touchOwn s die asid line h alloc cls).monitors = s.monitors := by unfold State.touchOwn; (repeat' split) <;> simp
@[simp] theorem State.touchOwn_msgs (s : State) (die : Nat) (asid : Nat) (line : Nat) (h : Home) (alloc : Bool) (cls : Nat) : (State.touchOwn s die asid line h alloc cls).msgs = s.msgs := by unfold State.touchOwn; (repeat' split) <;> simp
@[simp] theorem State.touchOwn_replies (s : State) (die : Nat) (asid : Nat) (line : Nat) (h : Home) (alloc : Bool) (cls : Nat) : (State.touchOwn s die asid line h alloc cls).replies = s.replies := by unfold State.touchOwn; (repeat' split) <;> simp
@[simp] theorem State.touchOwn_rels (s : State) (die : Nat) (asid : Nat) (line : Nat) (h : Home) (alloc : Bool) (cls : Nat) : (State.touchOwn s die asid line h alloc cls).rels = s.rels := by unfold State.touchOwn; (repeat' split) <;> simp
@[simp] theorem State.touchOwn_walks (s : State) (die : Nat) (asid : Nat) (line : Nat) (h : Home) (alloc : Bool) (cls : Nat) : (State.touchOwn s die asid line h alloc cls).walks = s.walks := by unfold State.touchOwn; (repeat' split) <;> simp
@[simp] theorem State.touchOwn_pool (s : State) (die : Nat) (asid : Nat) (line : Nat) (h : Home) (alloc : Bool) (cls : Nat) : (State.touchOwn s die asid line h alloc cls).pool = s.pool := by unfold State.touchOwn; (repeat' split) <;> simp
@[simp] theorem State.touchOwn_saved (s : State) (die : Nat) (asid : Nat) (line : Nat) (h : Home) (alloc : Bool) (cls : Nat) : (State.touchOwn s die asid line h alloc cls).saved = s.saved := by unfold State.touchOwn; (repeat' split) <;> simp
@[simp] theorem State.touchOwn_faultRecs (s : State) (die : Nat) (asid : Nat) (line : Nat) (h : Home) (alloc : Bool) (cls : Nat) : (State.touchOwn s die asid line h alloc cls).faultRecs = s.faultRecs := by unfold State.touchOwn; (repeat' split) <;> simp
@[simp] theorem State.touchOwn_ctxs (s : State) (die : Nat) (asid : Nat) (line : Nat) (h : Home) (alloc : Bool) (cls : Nat) : (State.touchOwn s die asid line h alloc cls).ctxs = s.ctxs := by unfold State.touchOwn; (repeat' split) <;> simp
@[simp] theorem State.touchOwn_amsgs (s : State) (die : Nat) (asid : Nat) (line : Nat) (h : Home) (alloc : Bool) (cls : Nat) : (State.touchOwn s die asid line h alloc cls).amsgs = s.amsgs := by unfold State.touchOwn; (repeat' split) <;> simp
@[simp] theorem State.touchOwn_queues (s : State) (die : Nat) (asid : Nat) (line : Nat) (h : Home) (alloc : Bool) (cls : Nat) : (State.touchOwn s die asid line h alloc cls).queues = s.queues := by unfold State.touchOwn; (repeat' split) <;> simp
@[simp] theorem State.touchOwn_bulks (s : State) (die : Nat) (asid : Nat) (line : Nat) (h : Home) (alloc : Bool) (cls : Nat) : (State.touchOwn s die asid line h alloc cls).bulks = s.bulks := by unfold State.touchOwn; (repeat' split) <;> simp
@[simp] theorem State.touchOwn_kiln (s : State) (die : Nat) (asid : Nat) (line : Nat) (h : Home) (alloc : Bool) (cls : Nat) : (State.touchOwn s die asid line h alloc cls).kiln = s.kiln := by unfold State.touchOwn; (repeat' split) <;> simp
@[simp] theorem State.touchOwn_dev (s : State) (die : Nat) (asid : Nat) (line : Nat) (h : Home) (alloc : Bool) (cls : Nat) : (State.touchOwn s die asid line h alloc cls).dev = s.dev := by unfold State.touchOwn; (repeat' split) <;> simp

/-! `State.countMiss` changes `mem`. -/
@[simp] theorem State.countMiss_agenda (s : State) (die : Nat) (asid : Nat) (line : Nat) (h : Home) : (State.countMiss s die asid line h).agenda = s.agenda := by unfold State.countMiss; split <;> rfl
@[simp] theorem State.countMiss_turn (s : State) (die : Nat) (asid : Nat) (line : Nat) (h : Home) : (State.countMiss s die asid line h).turn = s.turn := by unfold State.countMiss; split <;> rfl
@[simp] theorem State.countMiss_fresh (s : State) (die : Nat) (asid : Nat) (line : Nat) (h : Home) : (State.countMiss s die asid line h).fresh = s.fresh := by unfold State.countMiss; split <;> rfl
@[simp] theorem State.countMiss_threads (s : State) (die : Nat) (asid : Nat) (line : Nat) (h : Home) : (State.countMiss s die asid line h).threads = s.threads := by unfold State.countMiss; split <;> rfl
@[simp] theorem State.countMiss_cohorts (s : State) (die : Nat) (asid : Nat) (line : Nat) (h : Home) : (State.countMiss s die asid line h).cohorts = s.cohorts := by unfold State.countMiss; split <;> rfl
@[simp] theorem State.countMiss_issues (s : State) (die : Nat) (asid : Nat) (line : Nat) (h : Home) : (State.countMiss s die asid line h).issues = s.issues := by unfold State.countMiss; split <;> rfl
@[simp] theorem State.countMiss_groups (s : State) (die : Nat) (asid : Nat) (line : Nat) (h : Home) : (State.countMiss s die asid line h).groups = s.groups := by unfold State.countMiss; split <;> rfl
@[simp] theorem State.countMiss_kernels (s : State) (die : Nat) (asid : Nat) (line : Nat) (h : Home) : (State.countMiss s die asid line h).kernels = s.kernels := by unfold State.countMiss; split <;> rfl
@[simp] theorem State.countMiss_launches (s : State) (die : Nat) (asid : Nat) (line : Nat) (h : Home) : (State.countMiss s die asid line h).launches = s.launches := by unfold State.countMiss; split <;> rfl
@[simp] theorem State.countMiss_cores (s : State) (die : Nat) (asid : Nat) (line : Nat) (h : Home) : (State.countMiss s die asid line h).cores = s.cores := by unfold State.countMiss; split <;> rfl
@[simp] theorem State.countMiss_ops (s : State) (die : Nat) (asid : Nat) (line : Nat) (h : Home) : (State.countMiss s die asid line h).ops = s.ops := by unfold State.countMiss; split <;> rfl
@[simp] theorem State.countMiss_uses (s : State) (die : Nat) (asid : Nat) (line : Nat) (h : Home) : (State.countMiss s die asid line h).uses = s.uses := by unfold State.countMiss; split <;> rfl
@[simp] theorem State.countMiss_mgroups (s : State) (die : Nat) (asid : Nat) (line : Nat) (h : Home) : (State.countMiss s die asid line h).mgroups = s.mgroups := by unfold State.countMiss; split <;> rfl
@[simp] theorem State.countMiss_cmds (s : State) (die : Nat) (asid : Nat) (line : Nat) (h : Home) : (State.countMiss s die asid line h).cmds = s.cmds := by unfold State.countMiss; split <;> rfl
@[simp] theorem State.countMiss_cpys (s : State) (die : Nat) (asid : Nat) (line : Nat) (h : Home) : (State.countMiss s die asid line h).cpys = s.cpys := by unfold State.countMiss; split <;> rfl
@[simp] theorem State.countMiss_monitors (s : State) (die : Nat) (asid : Nat) (line : Nat) (h : Home) : (State.countMiss s die asid line h).monitors = s.monitors := by unfold State.countMiss; split <;> rfl
@[simp] theorem State.countMiss_msgs (s : State) (die : Nat) (asid : Nat) (line : Nat) (h : Home) : (State.countMiss s die asid line h).msgs = s.msgs := by unfold State.countMiss; split <;> rfl
@[simp] theorem State.countMiss_replies (s : State) (die : Nat) (asid : Nat) (line : Nat) (h : Home) : (State.countMiss s die asid line h).replies = s.replies := by unfold State.countMiss; split <;> rfl
@[simp] theorem State.countMiss_rels (s : State) (die : Nat) (asid : Nat) (line : Nat) (h : Home) : (State.countMiss s die asid line h).rels = s.rels := by unfold State.countMiss; split <;> rfl
@[simp] theorem State.countMiss_walks (s : State) (die : Nat) (asid : Nat) (line : Nat) (h : Home) : (State.countMiss s die asid line h).walks = s.walks := by unfold State.countMiss; split <;> rfl
@[simp] theorem State.countMiss_pool (s : State) (die : Nat) (asid : Nat) (line : Nat) (h : Home) : (State.countMiss s die asid line h).pool = s.pool := by unfold State.countMiss; split <;> rfl
@[simp] theorem State.countMiss_saved (s : State) (die : Nat) (asid : Nat) (line : Nat) (h : Home) : (State.countMiss s die asid line h).saved = s.saved := by unfold State.countMiss; split <;> rfl
@[simp] theorem State.countMiss_faultRecs (s : State) (die : Nat) (asid : Nat) (line : Nat) (h : Home) : (State.countMiss s die asid line h).faultRecs = s.faultRecs := by unfold State.countMiss; split <;> rfl
@[simp] theorem State.countMiss_ctxs (s : State) (die : Nat) (asid : Nat) (line : Nat) (h : Home) : (State.countMiss s die asid line h).ctxs = s.ctxs := by unfold State.countMiss; split <;> rfl
@[simp] theorem State.countMiss_amsgs (s : State) (die : Nat) (asid : Nat) (line : Nat) (h : Home) : (State.countMiss s die asid line h).amsgs = s.amsgs := by unfold State.countMiss; split <;> rfl
@[simp] theorem State.countMiss_queues (s : State) (die : Nat) (asid : Nat) (line : Nat) (h : Home) : (State.countMiss s die asid line h).queues = s.queues := by unfold State.countMiss; split <;> rfl
@[simp] theorem State.countMiss_bulks (s : State) (die : Nat) (asid : Nat) (line : Nat) (h : Home) : (State.countMiss s die asid line h).bulks = s.bulks := by unfold State.countMiss; split <;> rfl
@[simp] theorem State.countMiss_kiln (s : State) (die : Nat) (asid : Nat) (line : Nat) (h : Home) : (State.countMiss s die asid line h).kiln = s.kiln := by unfold State.countMiss; split <;> rfl
@[simp] theorem State.countMiss_dev (s : State) (die : Nat) (asid : Nat) (line : Nat) (h : Home) : (State.countMiss s die asid line h).dev = s.dev := by unfold State.countMiss; split <;> rfl

/-! `State.mergeL2` changes `fresh` and `mem`. -/
@[simp] theorem State.mergeL2_agenda (s : State) (die asid line : Nat) (h : Home) (data : BitVec 512) (mask : BitVec 64) (kinds : BitVec 32) (alloc : Bool) (cls : Nat) : (State.mergeL2 s die asid line h data mask kinds alloc cls).agenda = s.agenda := by unfold State.mergeL2; dsimp only; (repeat' split) <;> simp
@[simp] theorem State.mergeL2_turn (s : State) (die asid line : Nat) (h : Home) (data : BitVec 512) (mask : BitVec 64) (kinds : BitVec 32) (alloc : Bool) (cls : Nat) : (State.mergeL2 s die asid line h data mask kinds alloc cls).turn = s.turn := by unfold State.mergeL2; dsimp only; (repeat' split) <;> simp
@[simp] theorem State.mergeL2_threads (s : State) (die asid line : Nat) (h : Home) (data : BitVec 512) (mask : BitVec 64) (kinds : BitVec 32) (alloc : Bool) (cls : Nat) : (State.mergeL2 s die asid line h data mask kinds alloc cls).threads = s.threads := by unfold State.mergeL2; dsimp only; (repeat' split) <;> simp
@[simp] theorem State.mergeL2_cohorts (s : State) (die asid line : Nat) (h : Home) (data : BitVec 512) (mask : BitVec 64) (kinds : BitVec 32) (alloc : Bool) (cls : Nat) : (State.mergeL2 s die asid line h data mask kinds alloc cls).cohorts = s.cohorts := by unfold State.mergeL2; dsimp only; (repeat' split) <;> simp
@[simp] theorem State.mergeL2_issues (s : State) (die asid line : Nat) (h : Home) (data : BitVec 512) (mask : BitVec 64) (kinds : BitVec 32) (alloc : Bool) (cls : Nat) : (State.mergeL2 s die asid line h data mask kinds alloc cls).issues = s.issues := by unfold State.mergeL2; dsimp only; (repeat' split) <;> simp
@[simp] theorem State.mergeL2_groups (s : State) (die asid line : Nat) (h : Home) (data : BitVec 512) (mask : BitVec 64) (kinds : BitVec 32) (alloc : Bool) (cls : Nat) : (State.mergeL2 s die asid line h data mask kinds alloc cls).groups = s.groups := by unfold State.mergeL2; dsimp only; (repeat' split) <;> simp
@[simp] theorem State.mergeL2_kernels (s : State) (die asid line : Nat) (h : Home) (data : BitVec 512) (mask : BitVec 64) (kinds : BitVec 32) (alloc : Bool) (cls : Nat) : (State.mergeL2 s die asid line h data mask kinds alloc cls).kernels = s.kernels := by unfold State.mergeL2; dsimp only; (repeat' split) <;> simp
@[simp] theorem State.mergeL2_launches (s : State) (die asid line : Nat) (h : Home) (data : BitVec 512) (mask : BitVec 64) (kinds : BitVec 32) (alloc : Bool) (cls : Nat) : (State.mergeL2 s die asid line h data mask kinds alloc cls).launches = s.launches := by unfold State.mergeL2; dsimp only; (repeat' split) <;> simp
@[simp] theorem State.mergeL2_cores (s : State) (die asid line : Nat) (h : Home) (data : BitVec 512) (mask : BitVec 64) (kinds : BitVec 32) (alloc : Bool) (cls : Nat) : (State.mergeL2 s die asid line h data mask kinds alloc cls).cores = s.cores := by unfold State.mergeL2; dsimp only; (repeat' split) <;> simp
@[simp] theorem State.mergeL2_ops (s : State) (die asid line : Nat) (h : Home) (data : BitVec 512) (mask : BitVec 64) (kinds : BitVec 32) (alloc : Bool) (cls : Nat) : (State.mergeL2 s die asid line h data mask kinds alloc cls).ops = s.ops := by unfold State.mergeL2; dsimp only; (repeat' split) <;> simp
@[simp] theorem State.mergeL2_uses (s : State) (die asid line : Nat) (h : Home) (data : BitVec 512) (mask : BitVec 64) (kinds : BitVec 32) (alloc : Bool) (cls : Nat) : (State.mergeL2 s die asid line h data mask kinds alloc cls).uses = s.uses := by unfold State.mergeL2; dsimp only; (repeat' split) <;> simp
@[simp] theorem State.mergeL2_mgroups (s : State) (die asid line : Nat) (h : Home) (data : BitVec 512) (mask : BitVec 64) (kinds : BitVec 32) (alloc : Bool) (cls : Nat) : (State.mergeL2 s die asid line h data mask kinds alloc cls).mgroups = s.mgroups := by unfold State.mergeL2; dsimp only; (repeat' split) <;> simp
@[simp] theorem State.mergeL2_cmds (s : State) (die asid line : Nat) (h : Home) (data : BitVec 512) (mask : BitVec 64) (kinds : BitVec 32) (alloc : Bool) (cls : Nat) : (State.mergeL2 s die asid line h data mask kinds alloc cls).cmds = s.cmds := by unfold State.mergeL2; dsimp only; (repeat' split) <;> simp
@[simp] theorem State.mergeL2_cpys (s : State) (die asid line : Nat) (h : Home) (data : BitVec 512) (mask : BitVec 64) (kinds : BitVec 32) (alloc : Bool) (cls : Nat) : (State.mergeL2 s die asid line h data mask kinds alloc cls).cpys = s.cpys := by unfold State.mergeL2; dsimp only; (repeat' split) <;> simp
@[simp] theorem State.mergeL2_monitors (s : State) (die asid line : Nat) (h : Home) (data : BitVec 512) (mask : BitVec 64) (kinds : BitVec 32) (alloc : Bool) (cls : Nat) : (State.mergeL2 s die asid line h data mask kinds alloc cls).monitors = s.monitors := by unfold State.mergeL2; dsimp only; (repeat' split) <;> simp
@[simp] theorem State.mergeL2_msgs (s : State) (die asid line : Nat) (h : Home) (data : BitVec 512) (mask : BitVec 64) (kinds : BitVec 32) (alloc : Bool) (cls : Nat) : (State.mergeL2 s die asid line h data mask kinds alloc cls).msgs = s.msgs := by unfold State.mergeL2; dsimp only; (repeat' split) <;> simp
@[simp] theorem State.mergeL2_replies (s : State) (die asid line : Nat) (h : Home) (data : BitVec 512) (mask : BitVec 64) (kinds : BitVec 32) (alloc : Bool) (cls : Nat) : (State.mergeL2 s die asid line h data mask kinds alloc cls).replies = s.replies := by unfold State.mergeL2; dsimp only; (repeat' split) <;> simp
@[simp] theorem State.mergeL2_rels (s : State) (die asid line : Nat) (h : Home) (data : BitVec 512) (mask : BitVec 64) (kinds : BitVec 32) (alloc : Bool) (cls : Nat) : (State.mergeL2 s die asid line h data mask kinds alloc cls).rels = s.rels := by unfold State.mergeL2; dsimp only; (repeat' split) <;> simp
@[simp] theorem State.mergeL2_walks (s : State) (die asid line : Nat) (h : Home) (data : BitVec 512) (mask : BitVec 64) (kinds : BitVec 32) (alloc : Bool) (cls : Nat) : (State.mergeL2 s die asid line h data mask kinds alloc cls).walks = s.walks := by unfold State.mergeL2; dsimp only; (repeat' split) <;> simp
@[simp] theorem State.mergeL2_pool (s : State) (die asid line : Nat) (h : Home) (data : BitVec 512) (mask : BitVec 64) (kinds : BitVec 32) (alloc : Bool) (cls : Nat) : (State.mergeL2 s die asid line h data mask kinds alloc cls).pool = s.pool := by unfold State.mergeL2; dsimp only; (repeat' split) <;> simp
@[simp] theorem State.mergeL2_saved (s : State) (die asid line : Nat) (h : Home) (data : BitVec 512) (mask : BitVec 64) (kinds : BitVec 32) (alloc : Bool) (cls : Nat) : (State.mergeL2 s die asid line h data mask kinds alloc cls).saved = s.saved := by unfold State.mergeL2; dsimp only; (repeat' split) <;> simp
@[simp] theorem State.mergeL2_faultRecs (s : State) (die asid line : Nat) (h : Home) (data : BitVec 512) (mask : BitVec 64) (kinds : BitVec 32) (alloc : Bool) (cls : Nat) : (State.mergeL2 s die asid line h data mask kinds alloc cls).faultRecs = s.faultRecs := by unfold State.mergeL2; dsimp only; (repeat' split) <;> simp
@[simp] theorem State.mergeL2_ctxs (s : State) (die asid line : Nat) (h : Home) (data : BitVec 512) (mask : BitVec 64) (kinds : BitVec 32) (alloc : Bool) (cls : Nat) : (State.mergeL2 s die asid line h data mask kinds alloc cls).ctxs = s.ctxs := by unfold State.mergeL2; dsimp only; (repeat' split) <;> simp
@[simp] theorem State.mergeL2_amsgs (s : State) (die asid line : Nat) (h : Home) (data : BitVec 512) (mask : BitVec 64) (kinds : BitVec 32) (alloc : Bool) (cls : Nat) : (State.mergeL2 s die asid line h data mask kinds alloc cls).amsgs = s.amsgs := by unfold State.mergeL2; dsimp only; (repeat' split) <;> simp
@[simp] theorem State.mergeL2_queues (s : State) (die asid line : Nat) (h : Home) (data : BitVec 512) (mask : BitVec 64) (kinds : BitVec 32) (alloc : Bool) (cls : Nat) : (State.mergeL2 s die asid line h data mask kinds alloc cls).queues = s.queues := by unfold State.mergeL2; dsimp only; (repeat' split) <;> simp
@[simp] theorem State.mergeL2_bulks (s : State) (die asid line : Nat) (h : Home) (data : BitVec 512) (mask : BitVec 64) (kinds : BitVec 32) (alloc : Bool) (cls : Nat) : (State.mergeL2 s die asid line h data mask kinds alloc cls).bulks = s.bulks := by unfold State.mergeL2; dsimp only; (repeat' split) <;> simp
@[simp] theorem State.mergeL2_kiln (s : State) (die asid line : Nat) (h : Home) (data : BitVec 512) (mask : BitVec 64) (kinds : BitVec 32) (alloc : Bool) (cls : Nat) : (State.mergeL2 s die asid line h data mask kinds alloc cls).kiln = s.kiln := by unfold State.mergeL2; dsimp only; (repeat' split) <;> simp
@[simp] theorem State.mergeL2_dev (s : State) (die asid line : Nat) (h : Home) (data : BitVec 512) (mask : BitVec 64) (kinds : BitVec 32) (alloc : Bool) (cls : Nat) : (State.mergeL2 s die asid line h data mask kinds alloc cls).dev = s.dev := by unfold State.mergeL2; dsimp only; (repeat' split) <;> simp

/-! `State.wbArrives` changes `fresh` and `mem`. -/
@[simp] theorem State.wbArrives_agenda (s : State) (w : WriteBack) : (State.wbArrives s w).agenda = s.agenda := by unfold State.wbArrives; simp
@[simp] theorem State.wbArrives_turn (s : State) (w : WriteBack) : (State.wbArrives s w).turn = s.turn := by unfold State.wbArrives; simp
@[simp] theorem State.wbArrives_threads (s : State) (w : WriteBack) : (State.wbArrives s w).threads = s.threads := by unfold State.wbArrives; simp
@[simp] theorem State.wbArrives_cohorts (s : State) (w : WriteBack) : (State.wbArrives s w).cohorts = s.cohorts := by unfold State.wbArrives; simp
@[simp] theorem State.wbArrives_issues (s : State) (w : WriteBack) : (State.wbArrives s w).issues = s.issues := by unfold State.wbArrives; simp
@[simp] theorem State.wbArrives_groups (s : State) (w : WriteBack) : (State.wbArrives s w).groups = s.groups := by unfold State.wbArrives; simp
@[simp] theorem State.wbArrives_kernels (s : State) (w : WriteBack) : (State.wbArrives s w).kernels = s.kernels := by unfold State.wbArrives; simp
@[simp] theorem State.wbArrives_launches (s : State) (w : WriteBack) : (State.wbArrives s w).launches = s.launches := by unfold State.wbArrives; simp
@[simp] theorem State.wbArrives_cores (s : State) (w : WriteBack) : (State.wbArrives s w).cores = s.cores := by unfold State.wbArrives; simp
@[simp] theorem State.wbArrives_ops (s : State) (w : WriteBack) : (State.wbArrives s w).ops = s.ops := by unfold State.wbArrives; simp
@[simp] theorem State.wbArrives_uses (s : State) (w : WriteBack) : (State.wbArrives s w).uses = s.uses := by unfold State.wbArrives; simp
@[simp] theorem State.wbArrives_mgroups (s : State) (w : WriteBack) : (State.wbArrives s w).mgroups = s.mgroups := by unfold State.wbArrives; simp
@[simp] theorem State.wbArrives_cmds (s : State) (w : WriteBack) : (State.wbArrives s w).cmds = s.cmds := by unfold State.wbArrives; simp
@[simp] theorem State.wbArrives_cpys (s : State) (w : WriteBack) : (State.wbArrives s w).cpys = s.cpys := by unfold State.wbArrives; simp
@[simp] theorem State.wbArrives_monitors (s : State) (w : WriteBack) : (State.wbArrives s w).monitors = s.monitors := by unfold State.wbArrives; simp
@[simp] theorem State.wbArrives_msgs (s : State) (w : WriteBack) : (State.wbArrives s w).msgs = s.msgs := by unfold State.wbArrives; simp
@[simp] theorem State.wbArrives_replies (s : State) (w : WriteBack) : (State.wbArrives s w).replies = s.replies := by unfold State.wbArrives; simp
@[simp] theorem State.wbArrives_rels (s : State) (w : WriteBack) : (State.wbArrives s w).rels = s.rels := by unfold State.wbArrives; simp
@[simp] theorem State.wbArrives_walks (s : State) (w : WriteBack) : (State.wbArrives s w).walks = s.walks := by unfold State.wbArrives; simp
@[simp] theorem State.wbArrives_pool (s : State) (w : WriteBack) : (State.wbArrives s w).pool = s.pool := by unfold State.wbArrives; simp
@[simp] theorem State.wbArrives_saved (s : State) (w : WriteBack) : (State.wbArrives s w).saved = s.saved := by unfold State.wbArrives; simp
@[simp] theorem State.wbArrives_faultRecs (s : State) (w : WriteBack) : (State.wbArrives s w).faultRecs = s.faultRecs := by unfold State.wbArrives; simp
@[simp] theorem State.wbArrives_ctxs (s : State) (w : WriteBack) : (State.wbArrives s w).ctxs = s.ctxs := by unfold State.wbArrives; simp
@[simp] theorem State.wbArrives_amsgs (s : State) (w : WriteBack) : (State.wbArrives s w).amsgs = s.amsgs := by unfold State.wbArrives; simp
@[simp] theorem State.wbArrives_queues (s : State) (w : WriteBack) : (State.wbArrives s w).queues = s.queues := by unfold State.wbArrives; simp
@[simp] theorem State.wbArrives_bulks (s : State) (w : WriteBack) : (State.wbArrives s w).bulks = s.bulks := by unfold State.wbArrives; simp
@[simp] theorem State.wbArrives_kiln (s : State) (w : WriteBack) : (State.wbArrives s w).kiln = s.kiln := by unfold State.wbArrives; simp
@[simp] theorem State.wbArrives_dev (s : State) (w : WriteBack) : (State.wbArrives s w).dev = s.dev := by unfold State.wbArrives; simp

/-! `State.flushWbs` changes `fresh` and `mem`. -/
@[simp] theorem State.flushWbs_agenda (s : State) (which : WriteBack → Bool) : (State.flushWbs s which).agenda = s.agenda := by unfold State.flushWbs; exact foldl_field (fun s : State => s.agenda) _ (fun s x => by simp) _ _
@[simp] theorem State.flushWbs_turn (s : State) (which : WriteBack → Bool) : (State.flushWbs s which).turn = s.turn := by unfold State.flushWbs; exact foldl_field (fun s : State => s.turn) _ (fun s x => by simp) _ _
@[simp] theorem State.flushWbs_threads (s : State) (which : WriteBack → Bool) : (State.flushWbs s which).threads = s.threads := by unfold State.flushWbs; exact foldl_field (fun s : State => s.threads) _ (fun s x => by simp) _ _
@[simp] theorem State.flushWbs_cohorts (s : State) (which : WriteBack → Bool) : (State.flushWbs s which).cohorts = s.cohorts := by unfold State.flushWbs; exact foldl_field (fun s : State => s.cohorts) _ (fun s x => by simp) _ _
@[simp] theorem State.flushWbs_issues (s : State) (which : WriteBack → Bool) : (State.flushWbs s which).issues = s.issues := by unfold State.flushWbs; exact foldl_field (fun s : State => s.issues) _ (fun s x => by simp) _ _
@[simp] theorem State.flushWbs_groups (s : State) (which : WriteBack → Bool) : (State.flushWbs s which).groups = s.groups := by unfold State.flushWbs; exact foldl_field (fun s : State => s.groups) _ (fun s x => by simp) _ _
@[simp] theorem State.flushWbs_kernels (s : State) (which : WriteBack → Bool) : (State.flushWbs s which).kernels = s.kernels := by unfold State.flushWbs; exact foldl_field (fun s : State => s.kernels) _ (fun s x => by simp) _ _
@[simp] theorem State.flushWbs_launches (s : State) (which : WriteBack → Bool) : (State.flushWbs s which).launches = s.launches := by unfold State.flushWbs; exact foldl_field (fun s : State => s.launches) _ (fun s x => by simp) _ _
@[simp] theorem State.flushWbs_cores (s : State) (which : WriteBack → Bool) : (State.flushWbs s which).cores = s.cores := by unfold State.flushWbs; exact foldl_field (fun s : State => s.cores) _ (fun s x => by simp) _ _
@[simp] theorem State.flushWbs_ops (s : State) (which : WriteBack → Bool) : (State.flushWbs s which).ops = s.ops := by unfold State.flushWbs; exact foldl_field (fun s : State => s.ops) _ (fun s x => by simp) _ _
@[simp] theorem State.flushWbs_uses (s : State) (which : WriteBack → Bool) : (State.flushWbs s which).uses = s.uses := by unfold State.flushWbs; exact foldl_field (fun s : State => s.uses) _ (fun s x => by simp) _ _
@[simp] theorem State.flushWbs_mgroups (s : State) (which : WriteBack → Bool) : (State.flushWbs s which).mgroups = s.mgroups := by unfold State.flushWbs; exact foldl_field (fun s : State => s.mgroups) _ (fun s x => by simp) _ _
@[simp] theorem State.flushWbs_cmds (s : State) (which : WriteBack → Bool) : (State.flushWbs s which).cmds = s.cmds := by unfold State.flushWbs; exact foldl_field (fun s : State => s.cmds) _ (fun s x => by simp) _ _
@[simp] theorem State.flushWbs_cpys (s : State) (which : WriteBack → Bool) : (State.flushWbs s which).cpys = s.cpys := by unfold State.flushWbs; exact foldl_field (fun s : State => s.cpys) _ (fun s x => by simp) _ _
@[simp] theorem State.flushWbs_monitors (s : State) (which : WriteBack → Bool) : (State.flushWbs s which).monitors = s.monitors := by unfold State.flushWbs; exact foldl_field (fun s : State => s.monitors) _ (fun s x => by simp) _ _
@[simp] theorem State.flushWbs_msgs (s : State) (which : WriteBack → Bool) : (State.flushWbs s which).msgs = s.msgs := by unfold State.flushWbs; exact foldl_field (fun s : State => s.msgs) _ (fun s x => by simp) _ _
@[simp] theorem State.flushWbs_replies (s : State) (which : WriteBack → Bool) : (State.flushWbs s which).replies = s.replies := by unfold State.flushWbs; exact foldl_field (fun s : State => s.replies) _ (fun s x => by simp) _ _
@[simp] theorem State.flushWbs_rels (s : State) (which : WriteBack → Bool) : (State.flushWbs s which).rels = s.rels := by unfold State.flushWbs; exact foldl_field (fun s : State => s.rels) _ (fun s x => by simp) _ _
@[simp] theorem State.flushWbs_walks (s : State) (which : WriteBack → Bool) : (State.flushWbs s which).walks = s.walks := by unfold State.flushWbs; exact foldl_field (fun s : State => s.walks) _ (fun s x => by simp) _ _
@[simp] theorem State.flushWbs_pool (s : State) (which : WriteBack → Bool) : (State.flushWbs s which).pool = s.pool := by unfold State.flushWbs; exact foldl_field (fun s : State => s.pool) _ (fun s x => by simp) _ _
@[simp] theorem State.flushWbs_saved (s : State) (which : WriteBack → Bool) : (State.flushWbs s which).saved = s.saved := by unfold State.flushWbs; exact foldl_field (fun s : State => s.saved) _ (fun s x => by simp) _ _
@[simp] theorem State.flushWbs_faultRecs (s : State) (which : WriteBack → Bool) : (State.flushWbs s which).faultRecs = s.faultRecs := by unfold State.flushWbs; exact foldl_field (fun s : State => s.faultRecs) _ (fun s x => by simp) _ _
@[simp] theorem State.flushWbs_ctxs (s : State) (which : WriteBack → Bool) : (State.flushWbs s which).ctxs = s.ctxs := by unfold State.flushWbs; exact foldl_field (fun s : State => s.ctxs) _ (fun s x => by simp) _ _
@[simp] theorem State.flushWbs_amsgs (s : State) (which : WriteBack → Bool) : (State.flushWbs s which).amsgs = s.amsgs := by unfold State.flushWbs; exact foldl_field (fun s : State => s.amsgs) _ (fun s x => by simp) _ _
@[simp] theorem State.flushWbs_queues (s : State) (which : WriteBack → Bool) : (State.flushWbs s which).queues = s.queues := by unfold State.flushWbs; exact foldl_field (fun s : State => s.queues) _ (fun s x => by simp) _ _
@[simp] theorem State.flushWbs_bulks (s : State) (which : WriteBack → Bool) : (State.flushWbs s which).bulks = s.bulks := by unfold State.flushWbs; exact foldl_field (fun s : State => s.bulks) _ (fun s x => by simp) _ _
@[simp] theorem State.flushWbs_kiln (s : State) (which : WriteBack → Bool) : (State.flushWbs s which).kiln = s.kiln := by unfold State.flushWbs; exact foldl_field (fun s : State => s.kiln) _ (fun s x => by simp) _ _
@[simp] theorem State.flushWbs_dev (s : State) (which : WriteBack → Bool) : (State.flushWbs s which).dev = s.dev := by unfold State.flushWbs; exact foldl_field (fun s : State => s.dev) _ (fun s x => by simp) _ _

/-! `State.sendBack` changes `fresh` and `cores` and `mem`. -/
@[simp] theorem State.sendBack_agenda (s : State) (core : Nat) (l : L1Line) : (State.sendBack s core l).agenda = s.agenda := by unfold State.sendBack; (repeat' split) <;> simp
@[simp] theorem State.sendBack_turn (s : State) (core : Nat) (l : L1Line) : (State.sendBack s core l).turn = s.turn := by unfold State.sendBack; (repeat' split) <;> simp
@[simp] theorem State.sendBack_threads (s : State) (core : Nat) (l : L1Line) : (State.sendBack s core l).threads = s.threads := by unfold State.sendBack; (repeat' split) <;> simp
@[simp] theorem State.sendBack_cohorts (s : State) (core : Nat) (l : L1Line) : (State.sendBack s core l).cohorts = s.cohorts := by unfold State.sendBack; (repeat' split) <;> simp
@[simp] theorem State.sendBack_issues (s : State) (core : Nat) (l : L1Line) : (State.sendBack s core l).issues = s.issues := by unfold State.sendBack; (repeat' split) <;> simp
@[simp] theorem State.sendBack_groups (s : State) (core : Nat) (l : L1Line) : (State.sendBack s core l).groups = s.groups := by unfold State.sendBack; (repeat' split) <;> simp
@[simp] theorem State.sendBack_kernels (s : State) (core : Nat) (l : L1Line) : (State.sendBack s core l).kernels = s.kernels := by unfold State.sendBack; (repeat' split) <;> simp
@[simp] theorem State.sendBack_launches (s : State) (core : Nat) (l : L1Line) : (State.sendBack s core l).launches = s.launches := by unfold State.sendBack; (repeat' split) <;> simp
@[simp] theorem State.sendBack_ops (s : State) (core : Nat) (l : L1Line) : (State.sendBack s core l).ops = s.ops := by unfold State.sendBack; (repeat' split) <;> simp
@[simp] theorem State.sendBack_uses (s : State) (core : Nat) (l : L1Line) : (State.sendBack s core l).uses = s.uses := by unfold State.sendBack; (repeat' split) <;> simp
@[simp] theorem State.sendBack_mgroups (s : State) (core : Nat) (l : L1Line) : (State.sendBack s core l).mgroups = s.mgroups := by unfold State.sendBack; (repeat' split) <;> simp
@[simp] theorem State.sendBack_cmds (s : State) (core : Nat) (l : L1Line) : (State.sendBack s core l).cmds = s.cmds := by unfold State.sendBack; (repeat' split) <;> simp
@[simp] theorem State.sendBack_cpys (s : State) (core : Nat) (l : L1Line) : (State.sendBack s core l).cpys = s.cpys := by unfold State.sendBack; (repeat' split) <;> simp
@[simp] theorem State.sendBack_monitors (s : State) (core : Nat) (l : L1Line) : (State.sendBack s core l).monitors = s.monitors := by unfold State.sendBack; (repeat' split) <;> simp
@[simp] theorem State.sendBack_msgs (s : State) (core : Nat) (l : L1Line) : (State.sendBack s core l).msgs = s.msgs := by unfold State.sendBack; (repeat' split) <;> simp
@[simp] theorem State.sendBack_replies (s : State) (core : Nat) (l : L1Line) : (State.sendBack s core l).replies = s.replies := by unfold State.sendBack; (repeat' split) <;> simp
@[simp] theorem State.sendBack_rels (s : State) (core : Nat) (l : L1Line) : (State.sendBack s core l).rels = s.rels := by unfold State.sendBack; (repeat' split) <;> simp
@[simp] theorem State.sendBack_walks (s : State) (core : Nat) (l : L1Line) : (State.sendBack s core l).walks = s.walks := by unfold State.sendBack; (repeat' split) <;> simp
@[simp] theorem State.sendBack_pool (s : State) (core : Nat) (l : L1Line) : (State.sendBack s core l).pool = s.pool := by unfold State.sendBack; (repeat' split) <;> simp
@[simp] theorem State.sendBack_saved (s : State) (core : Nat) (l : L1Line) : (State.sendBack s core l).saved = s.saved := by unfold State.sendBack; (repeat' split) <;> simp
@[simp] theorem State.sendBack_faultRecs (s : State) (core : Nat) (l : L1Line) : (State.sendBack s core l).faultRecs = s.faultRecs := by unfold State.sendBack; (repeat' split) <;> simp
@[simp] theorem State.sendBack_ctxs (s : State) (core : Nat) (l : L1Line) : (State.sendBack s core l).ctxs = s.ctxs := by unfold State.sendBack; (repeat' split) <;> simp
@[simp] theorem State.sendBack_amsgs (s : State) (core : Nat) (l : L1Line) : (State.sendBack s core l).amsgs = s.amsgs := by unfold State.sendBack; (repeat' split) <;> simp
@[simp] theorem State.sendBack_queues (s : State) (core : Nat) (l : L1Line) : (State.sendBack s core l).queues = s.queues := by unfold State.sendBack; (repeat' split) <;> simp
@[simp] theorem State.sendBack_bulks (s : State) (core : Nat) (l : L1Line) : (State.sendBack s core l).bulks = s.bulks := by unfold State.sendBack; (repeat' split) <;> simp
@[simp] theorem State.sendBack_kiln (s : State) (core : Nat) (l : L1Line) : (State.sendBack s core l).kiln = s.kiln := by unfold State.sendBack; (repeat' split) <;> simp
@[simp] theorem State.sendBack_dev (s : State) (core : Nat) (l : L1Line) : (State.sendBack s core l).dev = s.dev := by unfold State.sendBack; (repeat' split) <;> simp

/-! `State.raiseBound` changes `mem`. -/
@[simp] theorem State.raiseBound_agenda (s : State) (die : Nat) (asid : Nat) (m : Nat) : (State.raiseBound s die asid m).agenda = s.agenda := by unfold State.raiseBound; split <;> rfl
@[simp] theorem State.raiseBound_turn (s : State) (die : Nat) (asid : Nat) (m : Nat) : (State.raiseBound s die asid m).turn = s.turn := by unfold State.raiseBound; split <;> rfl
@[simp] theorem State.raiseBound_fresh (s : State) (die : Nat) (asid : Nat) (m : Nat) : (State.raiseBound s die asid m).fresh = s.fresh := by unfold State.raiseBound; split <;> rfl
@[simp] theorem State.raiseBound_threads (s : State) (die : Nat) (asid : Nat) (m : Nat) : (State.raiseBound s die asid m).threads = s.threads := by unfold State.raiseBound; split <;> rfl
@[simp] theorem State.raiseBound_cohorts (s : State) (die : Nat) (asid : Nat) (m : Nat) : (State.raiseBound s die asid m).cohorts = s.cohorts := by unfold State.raiseBound; split <;> rfl
@[simp] theorem State.raiseBound_issues (s : State) (die : Nat) (asid : Nat) (m : Nat) : (State.raiseBound s die asid m).issues = s.issues := by unfold State.raiseBound; split <;> rfl
@[simp] theorem State.raiseBound_groups (s : State) (die : Nat) (asid : Nat) (m : Nat) : (State.raiseBound s die asid m).groups = s.groups := by unfold State.raiseBound; split <;> rfl
@[simp] theorem State.raiseBound_kernels (s : State) (die : Nat) (asid : Nat) (m : Nat) : (State.raiseBound s die asid m).kernels = s.kernels := by unfold State.raiseBound; split <;> rfl
@[simp] theorem State.raiseBound_launches (s : State) (die : Nat) (asid : Nat) (m : Nat) : (State.raiseBound s die asid m).launches = s.launches := by unfold State.raiseBound; split <;> rfl
@[simp] theorem State.raiseBound_cores (s : State) (die : Nat) (asid : Nat) (m : Nat) : (State.raiseBound s die asid m).cores = s.cores := by unfold State.raiseBound; split <;> rfl
@[simp] theorem State.raiseBound_ops (s : State) (die : Nat) (asid : Nat) (m : Nat) : (State.raiseBound s die asid m).ops = s.ops := by unfold State.raiseBound; split <;> rfl
@[simp] theorem State.raiseBound_uses (s : State) (die : Nat) (asid : Nat) (m : Nat) : (State.raiseBound s die asid m).uses = s.uses := by unfold State.raiseBound; split <;> rfl
@[simp] theorem State.raiseBound_mgroups (s : State) (die : Nat) (asid : Nat) (m : Nat) : (State.raiseBound s die asid m).mgroups = s.mgroups := by unfold State.raiseBound; split <;> rfl
@[simp] theorem State.raiseBound_cmds (s : State) (die : Nat) (asid : Nat) (m : Nat) : (State.raiseBound s die asid m).cmds = s.cmds := by unfold State.raiseBound; split <;> rfl
@[simp] theorem State.raiseBound_cpys (s : State) (die : Nat) (asid : Nat) (m : Nat) : (State.raiseBound s die asid m).cpys = s.cpys := by unfold State.raiseBound; split <;> rfl
@[simp] theorem State.raiseBound_monitors (s : State) (die : Nat) (asid : Nat) (m : Nat) : (State.raiseBound s die asid m).monitors = s.monitors := by unfold State.raiseBound; split <;> rfl
@[simp] theorem State.raiseBound_msgs (s : State) (die : Nat) (asid : Nat) (m : Nat) : (State.raiseBound s die asid m).msgs = s.msgs := by unfold State.raiseBound; split <;> rfl
@[simp] theorem State.raiseBound_replies (s : State) (die : Nat) (asid : Nat) (m : Nat) : (State.raiseBound s die asid m).replies = s.replies := by unfold State.raiseBound; split <;> rfl
@[simp] theorem State.raiseBound_rels (s : State) (die : Nat) (asid : Nat) (m : Nat) : (State.raiseBound s die asid m).rels = s.rels := by unfold State.raiseBound; split <;> rfl
@[simp] theorem State.raiseBound_walks (s : State) (die : Nat) (asid : Nat) (m : Nat) : (State.raiseBound s die asid m).walks = s.walks := by unfold State.raiseBound; split <;> rfl
@[simp] theorem State.raiseBound_pool (s : State) (die : Nat) (asid : Nat) (m : Nat) : (State.raiseBound s die asid m).pool = s.pool := by unfold State.raiseBound; split <;> rfl
@[simp] theorem State.raiseBound_saved (s : State) (die : Nat) (asid : Nat) (m : Nat) : (State.raiseBound s die asid m).saved = s.saved := by unfold State.raiseBound; split <;> rfl
@[simp] theorem State.raiseBound_faultRecs (s : State) (die : Nat) (asid : Nat) (m : Nat) : (State.raiseBound s die asid m).faultRecs = s.faultRecs := by unfold State.raiseBound; split <;> rfl
@[simp] theorem State.raiseBound_ctxs (s : State) (die : Nat) (asid : Nat) (m : Nat) : (State.raiseBound s die asid m).ctxs = s.ctxs := by unfold State.raiseBound; split <;> rfl
@[simp] theorem State.raiseBound_amsgs (s : State) (die : Nat) (asid : Nat) (m : Nat) : (State.raiseBound s die asid m).amsgs = s.amsgs := by unfold State.raiseBound; split <;> rfl
@[simp] theorem State.raiseBound_queues (s : State) (die : Nat) (asid : Nat) (m : Nat) : (State.raiseBound s die asid m).queues = s.queues := by unfold State.raiseBound; split <;> rfl
@[simp] theorem State.raiseBound_bulks (s : State) (die : Nat) (asid : Nat) (m : Nat) : (State.raiseBound s die asid m).bulks = s.bulks := by unfold State.raiseBound; split <;> rfl
@[simp] theorem State.raiseBound_kiln (s : State) (die : Nat) (asid : Nat) (m : Nat) : (State.raiseBound s die asid m).kiln = s.kiln := by unfold State.raiseBound; split <;> rfl
@[simp] theorem State.raiseBound_dev (s : State) (die : Nat) (asid : Nat) (m : Nat) : (State.raiseBound s die asid m).dev = s.dev := by unfold State.raiseBound; split <;> rfl

/-! `State.passBound` changes `mem`. -/
@[simp] theorem State.passBound_agenda (s : State) (tid : Nat) (core : Nat) (asid : Nat) : (State.passBound s tid core asid).agenda = s.agenda := by unfold State.passBound; simp
@[simp] theorem State.passBound_turn (s : State) (tid : Nat) (core : Nat) (asid : Nat) : (State.passBound s tid core asid).turn = s.turn := by unfold State.passBound; simp
@[simp] theorem State.passBound_fresh (s : State) (tid : Nat) (core : Nat) (asid : Nat) : (State.passBound s tid core asid).fresh = s.fresh := by unfold State.passBound; simp
@[simp] theorem State.passBound_threads (s : State) (tid : Nat) (core : Nat) (asid : Nat) : (State.passBound s tid core asid).threads = s.threads := by unfold State.passBound; simp
@[simp] theorem State.passBound_cohorts (s : State) (tid : Nat) (core : Nat) (asid : Nat) : (State.passBound s tid core asid).cohorts = s.cohorts := by unfold State.passBound; simp
@[simp] theorem State.passBound_issues (s : State) (tid : Nat) (core : Nat) (asid : Nat) : (State.passBound s tid core asid).issues = s.issues := by unfold State.passBound; simp
@[simp] theorem State.passBound_groups (s : State) (tid : Nat) (core : Nat) (asid : Nat) : (State.passBound s tid core asid).groups = s.groups := by unfold State.passBound; simp
@[simp] theorem State.passBound_kernels (s : State) (tid : Nat) (core : Nat) (asid : Nat) : (State.passBound s tid core asid).kernels = s.kernels := by unfold State.passBound; simp
@[simp] theorem State.passBound_launches (s : State) (tid : Nat) (core : Nat) (asid : Nat) : (State.passBound s tid core asid).launches = s.launches := by unfold State.passBound; simp
@[simp] theorem State.passBound_cores (s : State) (tid : Nat) (core : Nat) (asid : Nat) : (State.passBound s tid core asid).cores = s.cores := by unfold State.passBound; simp
@[simp] theorem State.passBound_ops (s : State) (tid : Nat) (core : Nat) (asid : Nat) : (State.passBound s tid core asid).ops = s.ops := by unfold State.passBound; simp
@[simp] theorem State.passBound_uses (s : State) (tid : Nat) (core : Nat) (asid : Nat) : (State.passBound s tid core asid).uses = s.uses := by unfold State.passBound; simp
@[simp] theorem State.passBound_mgroups (s : State) (tid : Nat) (core : Nat) (asid : Nat) : (State.passBound s tid core asid).mgroups = s.mgroups := by unfold State.passBound; simp
@[simp] theorem State.passBound_cmds (s : State) (tid : Nat) (core : Nat) (asid : Nat) : (State.passBound s tid core asid).cmds = s.cmds := by unfold State.passBound; simp
@[simp] theorem State.passBound_cpys (s : State) (tid : Nat) (core : Nat) (asid : Nat) : (State.passBound s tid core asid).cpys = s.cpys := by unfold State.passBound; simp
@[simp] theorem State.passBound_monitors (s : State) (tid : Nat) (core : Nat) (asid : Nat) : (State.passBound s tid core asid).monitors = s.monitors := by unfold State.passBound; simp
@[simp] theorem State.passBound_msgs (s : State) (tid : Nat) (core : Nat) (asid : Nat) : (State.passBound s tid core asid).msgs = s.msgs := by unfold State.passBound; simp
@[simp] theorem State.passBound_replies (s : State) (tid : Nat) (core : Nat) (asid : Nat) : (State.passBound s tid core asid).replies = s.replies := by unfold State.passBound; simp
@[simp] theorem State.passBound_rels (s : State) (tid : Nat) (core : Nat) (asid : Nat) : (State.passBound s tid core asid).rels = s.rels := by unfold State.passBound; simp
@[simp] theorem State.passBound_walks (s : State) (tid : Nat) (core : Nat) (asid : Nat) : (State.passBound s tid core asid).walks = s.walks := by unfold State.passBound; simp
@[simp] theorem State.passBound_pool (s : State) (tid : Nat) (core : Nat) (asid : Nat) : (State.passBound s tid core asid).pool = s.pool := by unfold State.passBound; simp
@[simp] theorem State.passBound_saved (s : State) (tid : Nat) (core : Nat) (asid : Nat) : (State.passBound s tid core asid).saved = s.saved := by unfold State.passBound; simp
@[simp] theorem State.passBound_faultRecs (s : State) (tid : Nat) (core : Nat) (asid : Nat) : (State.passBound s tid core asid).faultRecs = s.faultRecs := by unfold State.passBound; simp
@[simp] theorem State.passBound_ctxs (s : State) (tid : Nat) (core : Nat) (asid : Nat) : (State.passBound s tid core asid).ctxs = s.ctxs := by unfold State.passBound; simp
@[simp] theorem State.passBound_amsgs (s : State) (tid : Nat) (core : Nat) (asid : Nat) : (State.passBound s tid core asid).amsgs = s.amsgs := by unfold State.passBound; simp
@[simp] theorem State.passBound_queues (s : State) (tid : Nat) (core : Nat) (asid : Nat) : (State.passBound s tid core asid).queues = s.queues := by unfold State.passBound; simp
@[simp] theorem State.passBound_bulks (s : State) (tid : Nat) (core : Nat) (asid : Nat) : (State.passBound s tid core asid).bulks = s.bulks := by unfold State.passBound; simp
@[simp] theorem State.passBound_kiln (s : State) (tid : Nat) (core : Nat) (asid : Nat) : (State.passBound s tid core asid).kiln = s.kiln := by unfold State.passBound; simp
@[simp] theorem State.passBound_dev (s : State) (tid : Nat) (core : Nat) (asid : Nat) : (State.passBound s tid core asid).dev = s.dev := by unfold State.passBound; simp

/-! `State.bound` changes `threads` and `ops` and `cpys`. -/
@[simp] theorem State.bound_agenda (s : State) (tid : Nat) (seq : Nat) (m : Nat) : (State.bound s tid seq m).agenda = s.agenda := rfl
@[simp] theorem State.bound_turn (s : State) (tid : Nat) (seq : Nat) (m : Nat) : (State.bound s tid seq m).turn = s.turn := rfl
@[simp] theorem State.bound_fresh (s : State) (tid : Nat) (seq : Nat) (m : Nat) : (State.bound s tid seq m).fresh = s.fresh := rfl
@[simp] theorem State.bound_cohorts (s : State) (tid : Nat) (seq : Nat) (m : Nat) : (State.bound s tid seq m).cohorts = s.cohorts := rfl
@[simp] theorem State.bound_issues (s : State) (tid : Nat) (seq : Nat) (m : Nat) : (State.bound s tid seq m).issues = s.issues := rfl
@[simp] theorem State.bound_groups (s : State) (tid : Nat) (seq : Nat) (m : Nat) : (State.bound s tid seq m).groups = s.groups := rfl
@[simp] theorem State.bound_kernels (s : State) (tid : Nat) (seq : Nat) (m : Nat) : (State.bound s tid seq m).kernels = s.kernels := rfl
@[simp] theorem State.bound_launches (s : State) (tid : Nat) (seq : Nat) (m : Nat) : (State.bound s tid seq m).launches = s.launches := rfl
@[simp] theorem State.bound_cores (s : State) (tid : Nat) (seq : Nat) (m : Nat) : (State.bound s tid seq m).cores = s.cores := rfl
@[simp] theorem State.bound_uses (s : State) (tid : Nat) (seq : Nat) (m : Nat) : (State.bound s tid seq m).uses = s.uses := rfl
@[simp] theorem State.bound_mgroups (s : State) (tid : Nat) (seq : Nat) (m : Nat) : (State.bound s tid seq m).mgroups = s.mgroups := rfl
@[simp] theorem State.bound_cmds (s : State) (tid : Nat) (seq : Nat) (m : Nat) : (State.bound s tid seq m).cmds = s.cmds := rfl
@[simp] theorem State.bound_monitors (s : State) (tid : Nat) (seq : Nat) (m : Nat) : (State.bound s tid seq m).monitors = s.monitors := rfl
@[simp] theorem State.bound_msgs (s : State) (tid : Nat) (seq : Nat) (m : Nat) : (State.bound s tid seq m).msgs = s.msgs := rfl
@[simp] theorem State.bound_replies (s : State) (tid : Nat) (seq : Nat) (m : Nat) : (State.bound s tid seq m).replies = s.replies := rfl
@[simp] theorem State.bound_rels (s : State) (tid : Nat) (seq : Nat) (m : Nat) : (State.bound s tid seq m).rels = s.rels := rfl
@[simp] theorem State.bound_walks (s : State) (tid : Nat) (seq : Nat) (m : Nat) : (State.bound s tid seq m).walks = s.walks := rfl
@[simp] theorem State.bound_mem (s : State) (tid : Nat) (seq : Nat) (m : Nat) : (State.bound s tid seq m).mem = s.mem := rfl
@[simp] theorem State.bound_pool (s : State) (tid : Nat) (seq : Nat) (m : Nat) : (State.bound s tid seq m).pool = s.pool := rfl
@[simp] theorem State.bound_saved (s : State) (tid : Nat) (seq : Nat) (m : Nat) : (State.bound s tid seq m).saved = s.saved := rfl
@[simp] theorem State.bound_faultRecs (s : State) (tid : Nat) (seq : Nat) (m : Nat) : (State.bound s tid seq m).faultRecs = s.faultRecs := rfl
@[simp] theorem State.bound_ctxs (s : State) (tid : Nat) (seq : Nat) (m : Nat) : (State.bound s tid seq m).ctxs = s.ctxs := rfl
@[simp] theorem State.bound_amsgs (s : State) (tid : Nat) (seq : Nat) (m : Nat) : (State.bound s tid seq m).amsgs = s.amsgs := rfl
@[simp] theorem State.bound_queues (s : State) (tid : Nat) (seq : Nat) (m : Nat) : (State.bound s tid seq m).queues = s.queues := rfl
@[simp] theorem State.bound_bulks (s : State) (tid : Nat) (seq : Nat) (m : Nat) : (State.bound s tid seq m).bulks = s.bulks := rfl
@[simp] theorem State.bound_kiln (s : State) (tid : Nat) (seq : Nat) (m : Nat) : (State.bound s tid seq m).kiln = s.kiln := rfl
@[simp] theorem State.bound_dev (s : State) (tid : Nat) (seq : Nat) (m : Nat) : (State.bound s tid seq m).dev = s.dev := rfl

/-! `State.regionStore` changes `pool`. -/
@[simp] theorem State.regionStore_agenda (s : State) (core : Nat) (gs : List Nat) (o : Nat) (v : Nat) (lost : Nat) (n : Nat) : (State.regionStore s core gs o v lost n).agenda = s.agenda := rfl
@[simp] theorem State.regionStore_turn (s : State) (core : Nat) (gs : List Nat) (o : Nat) (v : Nat) (lost : Nat) (n : Nat) : (State.regionStore s core gs o v lost n).turn = s.turn := rfl
@[simp] theorem State.regionStore_fresh (s : State) (core : Nat) (gs : List Nat) (o : Nat) (v : Nat) (lost : Nat) (n : Nat) : (State.regionStore s core gs o v lost n).fresh = s.fresh := rfl
@[simp] theorem State.regionStore_threads (s : State) (core : Nat) (gs : List Nat) (o : Nat) (v : Nat) (lost : Nat) (n : Nat) : (State.regionStore s core gs o v lost n).threads = s.threads := rfl
@[simp] theorem State.regionStore_cohorts (s : State) (core : Nat) (gs : List Nat) (o : Nat) (v : Nat) (lost : Nat) (n : Nat) : (State.regionStore s core gs o v lost n).cohorts = s.cohorts := rfl
@[simp] theorem State.regionStore_issues (s : State) (core : Nat) (gs : List Nat) (o : Nat) (v : Nat) (lost : Nat) (n : Nat) : (State.regionStore s core gs o v lost n).issues = s.issues := rfl
@[simp] theorem State.regionStore_groups (s : State) (core : Nat) (gs : List Nat) (o : Nat) (v : Nat) (lost : Nat) (n : Nat) : (State.regionStore s core gs o v lost n).groups = s.groups := rfl
@[simp] theorem State.regionStore_kernels (s : State) (core : Nat) (gs : List Nat) (o : Nat) (v : Nat) (lost : Nat) (n : Nat) : (State.regionStore s core gs o v lost n).kernels = s.kernels := rfl
@[simp] theorem State.regionStore_launches (s : State) (core : Nat) (gs : List Nat) (o : Nat) (v : Nat) (lost : Nat) (n : Nat) : (State.regionStore s core gs o v lost n).launches = s.launches := rfl
@[simp] theorem State.regionStore_cores (s : State) (core : Nat) (gs : List Nat) (o : Nat) (v : Nat) (lost : Nat) (n : Nat) : (State.regionStore s core gs o v lost n).cores = s.cores := rfl
@[simp] theorem State.regionStore_ops (s : State) (core : Nat) (gs : List Nat) (o : Nat) (v : Nat) (lost : Nat) (n : Nat) : (State.regionStore s core gs o v lost n).ops = s.ops := rfl
@[simp] theorem State.regionStore_uses (s : State) (core : Nat) (gs : List Nat) (o : Nat) (v : Nat) (lost : Nat) (n : Nat) : (State.regionStore s core gs o v lost n).uses = s.uses := rfl
@[simp] theorem State.regionStore_mgroups (s : State) (core : Nat) (gs : List Nat) (o : Nat) (v : Nat) (lost : Nat) (n : Nat) : (State.regionStore s core gs o v lost n).mgroups = s.mgroups := rfl
@[simp] theorem State.regionStore_cmds (s : State) (core : Nat) (gs : List Nat) (o : Nat) (v : Nat) (lost : Nat) (n : Nat) : (State.regionStore s core gs o v lost n).cmds = s.cmds := rfl
@[simp] theorem State.regionStore_cpys (s : State) (core : Nat) (gs : List Nat) (o : Nat) (v : Nat) (lost : Nat) (n : Nat) : (State.regionStore s core gs o v lost n).cpys = s.cpys := rfl
@[simp] theorem State.regionStore_monitors (s : State) (core : Nat) (gs : List Nat) (o : Nat) (v : Nat) (lost : Nat) (n : Nat) : (State.regionStore s core gs o v lost n).monitors = s.monitors := rfl
@[simp] theorem State.regionStore_msgs (s : State) (core : Nat) (gs : List Nat) (o : Nat) (v : Nat) (lost : Nat) (n : Nat) : (State.regionStore s core gs o v lost n).msgs = s.msgs := rfl
@[simp] theorem State.regionStore_replies (s : State) (core : Nat) (gs : List Nat) (o : Nat) (v : Nat) (lost : Nat) (n : Nat) : (State.regionStore s core gs o v lost n).replies = s.replies := rfl
@[simp] theorem State.regionStore_rels (s : State) (core : Nat) (gs : List Nat) (o : Nat) (v : Nat) (lost : Nat) (n : Nat) : (State.regionStore s core gs o v lost n).rels = s.rels := rfl
@[simp] theorem State.regionStore_walks (s : State) (core : Nat) (gs : List Nat) (o : Nat) (v : Nat) (lost : Nat) (n : Nat) : (State.regionStore s core gs o v lost n).walks = s.walks := rfl
@[simp] theorem State.regionStore_mem (s : State) (core : Nat) (gs : List Nat) (o : Nat) (v : Nat) (lost : Nat) (n : Nat) : (State.regionStore s core gs o v lost n).mem = s.mem := rfl
@[simp] theorem State.regionStore_saved (s : State) (core : Nat) (gs : List Nat) (o : Nat) (v : Nat) (lost : Nat) (n : Nat) : (State.regionStore s core gs o v lost n).saved = s.saved := rfl
@[simp] theorem State.regionStore_faultRecs (s : State) (core : Nat) (gs : List Nat) (o : Nat) (v : Nat) (lost : Nat) (n : Nat) : (State.regionStore s core gs o v lost n).faultRecs = s.faultRecs := rfl
@[simp] theorem State.regionStore_ctxs (s : State) (core : Nat) (gs : List Nat) (o : Nat) (v : Nat) (lost : Nat) (n : Nat) : (State.regionStore s core gs o v lost n).ctxs = s.ctxs := rfl
@[simp] theorem State.regionStore_amsgs (s : State) (core : Nat) (gs : List Nat) (o : Nat) (v : Nat) (lost : Nat) (n : Nat) : (State.regionStore s core gs o v lost n).amsgs = s.amsgs := rfl
@[simp] theorem State.regionStore_queues (s : State) (core : Nat) (gs : List Nat) (o : Nat) (v : Nat) (lost : Nat) (n : Nat) : (State.regionStore s core gs o v lost n).queues = s.queues := rfl
@[simp] theorem State.regionStore_bulks (s : State) (core : Nat) (gs : List Nat) (o : Nat) (v : Nat) (lost : Nat) (n : Nat) : (State.regionStore s core gs o v lost n).bulks = s.bulks := rfl
@[simp] theorem State.regionStore_kiln (s : State) (core : Nat) (gs : List Nat) (o : Nat) (v : Nat) (lost : Nat) (n : Nat) : (State.regionStore s core gs o v lost n).kiln = s.kiln := rfl
@[simp] theorem State.regionStore_dev (s : State) (core : Nat) (gs : List Nat) (o : Nat) (v : Nat) (lost : Nat) (n : Nat) : (State.regionStore s core gs o v lost n).dev = s.dev := rfl

/-! `State.regionWrite` changes `pool`. -/
@[simp] theorem State.regionWrite_agenda (s : State) (core : Nat) (gs : List Nat) (o : Nat) (v : Nat) (n : Nat) : (State.regionWrite s core gs o v n).agenda = s.agenda := rfl
@[simp] theorem State.regionWrite_turn (s : State) (core : Nat) (gs : List Nat) (o : Nat) (v : Nat) (n : Nat) : (State.regionWrite s core gs o v n).turn = s.turn := rfl
@[simp] theorem State.regionWrite_fresh (s : State) (core : Nat) (gs : List Nat) (o : Nat) (v : Nat) (n : Nat) : (State.regionWrite s core gs o v n).fresh = s.fresh := rfl
@[simp] theorem State.regionWrite_threads (s : State) (core : Nat) (gs : List Nat) (o : Nat) (v : Nat) (n : Nat) : (State.regionWrite s core gs o v n).threads = s.threads := rfl
@[simp] theorem State.regionWrite_cohorts (s : State) (core : Nat) (gs : List Nat) (o : Nat) (v : Nat) (n : Nat) : (State.regionWrite s core gs o v n).cohorts = s.cohorts := rfl
@[simp] theorem State.regionWrite_issues (s : State) (core : Nat) (gs : List Nat) (o : Nat) (v : Nat) (n : Nat) : (State.regionWrite s core gs o v n).issues = s.issues := rfl
@[simp] theorem State.regionWrite_groups (s : State) (core : Nat) (gs : List Nat) (o : Nat) (v : Nat) (n : Nat) : (State.regionWrite s core gs o v n).groups = s.groups := rfl
@[simp] theorem State.regionWrite_kernels (s : State) (core : Nat) (gs : List Nat) (o : Nat) (v : Nat) (n : Nat) : (State.regionWrite s core gs o v n).kernels = s.kernels := rfl
@[simp] theorem State.regionWrite_launches (s : State) (core : Nat) (gs : List Nat) (o : Nat) (v : Nat) (n : Nat) : (State.regionWrite s core gs o v n).launches = s.launches := rfl
@[simp] theorem State.regionWrite_cores (s : State) (core : Nat) (gs : List Nat) (o : Nat) (v : Nat) (n : Nat) : (State.regionWrite s core gs o v n).cores = s.cores := rfl
@[simp] theorem State.regionWrite_ops (s : State) (core : Nat) (gs : List Nat) (o : Nat) (v : Nat) (n : Nat) : (State.regionWrite s core gs o v n).ops = s.ops := rfl
@[simp] theorem State.regionWrite_uses (s : State) (core : Nat) (gs : List Nat) (o : Nat) (v : Nat) (n : Nat) : (State.regionWrite s core gs o v n).uses = s.uses := rfl
@[simp] theorem State.regionWrite_mgroups (s : State) (core : Nat) (gs : List Nat) (o : Nat) (v : Nat) (n : Nat) : (State.regionWrite s core gs o v n).mgroups = s.mgroups := rfl
@[simp] theorem State.regionWrite_cmds (s : State) (core : Nat) (gs : List Nat) (o : Nat) (v : Nat) (n : Nat) : (State.regionWrite s core gs o v n).cmds = s.cmds := rfl
@[simp] theorem State.regionWrite_cpys (s : State) (core : Nat) (gs : List Nat) (o : Nat) (v : Nat) (n : Nat) : (State.regionWrite s core gs o v n).cpys = s.cpys := rfl
@[simp] theorem State.regionWrite_monitors (s : State) (core : Nat) (gs : List Nat) (o : Nat) (v : Nat) (n : Nat) : (State.regionWrite s core gs o v n).monitors = s.monitors := rfl
@[simp] theorem State.regionWrite_msgs (s : State) (core : Nat) (gs : List Nat) (o : Nat) (v : Nat) (n : Nat) : (State.regionWrite s core gs o v n).msgs = s.msgs := rfl
@[simp] theorem State.regionWrite_replies (s : State) (core : Nat) (gs : List Nat) (o : Nat) (v : Nat) (n : Nat) : (State.regionWrite s core gs o v n).replies = s.replies := rfl
@[simp] theorem State.regionWrite_rels (s : State) (core : Nat) (gs : List Nat) (o : Nat) (v : Nat) (n : Nat) : (State.regionWrite s core gs o v n).rels = s.rels := rfl
@[simp] theorem State.regionWrite_walks (s : State) (core : Nat) (gs : List Nat) (o : Nat) (v : Nat) (n : Nat) : (State.regionWrite s core gs o v n).walks = s.walks := rfl
@[simp] theorem State.regionWrite_mem (s : State) (core : Nat) (gs : List Nat) (o : Nat) (v : Nat) (n : Nat) : (State.regionWrite s core gs o v n).mem = s.mem := rfl
@[simp] theorem State.regionWrite_saved (s : State) (core : Nat) (gs : List Nat) (o : Nat) (v : Nat) (n : Nat) : (State.regionWrite s core gs o v n).saved = s.saved := rfl
@[simp] theorem State.regionWrite_faultRecs (s : State) (core : Nat) (gs : List Nat) (o : Nat) (v : Nat) (n : Nat) : (State.regionWrite s core gs o v n).faultRecs = s.faultRecs := rfl
@[simp] theorem State.regionWrite_ctxs (s : State) (core : Nat) (gs : List Nat) (o : Nat) (v : Nat) (n : Nat) : (State.regionWrite s core gs o v n).ctxs = s.ctxs := rfl
@[simp] theorem State.regionWrite_amsgs (s : State) (core : Nat) (gs : List Nat) (o : Nat) (v : Nat) (n : Nat) : (State.regionWrite s core gs o v n).amsgs = s.amsgs := rfl
@[simp] theorem State.regionWrite_queues (s : State) (core : Nat) (gs : List Nat) (o : Nat) (v : Nat) (n : Nat) : (State.regionWrite s core gs o v n).queues = s.queues := rfl
@[simp] theorem State.regionWrite_bulks (s : State) (core : Nat) (gs : List Nat) (o : Nat) (v : Nat) (n : Nat) : (State.regionWrite s core gs o v n).bulks = s.bulks := rfl
@[simp] theorem State.regionWrite_kiln (s : State) (core : Nat) (gs : List Nat) (o : Nat) (v : Nat) (n : Nat) : (State.regionWrite s core gs o v n).kiln = s.kiln := rfl
@[simp] theorem State.regionWrite_dev (s : State) (core : Nat) (gs : List Nat) (o : Nat) (v : Nat) (n : Nat) : (State.regionWrite s core gs o v n).dev = s.dev := rfl

/-! `State.holdWrite` changes `mem`. -/
@[simp] theorem State.holdWrite_agenda (s : State) (w : LateWrite) : (State.holdWrite s w).agenda = s.agenda := rfl
@[simp] theorem State.holdWrite_turn (s : State) (w : LateWrite) : (State.holdWrite s w).turn = s.turn := rfl
@[simp] theorem State.holdWrite_fresh (s : State) (w : LateWrite) : (State.holdWrite s w).fresh = s.fresh := rfl
@[simp] theorem State.holdWrite_threads (s : State) (w : LateWrite) : (State.holdWrite s w).threads = s.threads := rfl
@[simp] theorem State.holdWrite_cohorts (s : State) (w : LateWrite) : (State.holdWrite s w).cohorts = s.cohorts := rfl
@[simp] theorem State.holdWrite_issues (s : State) (w : LateWrite) : (State.holdWrite s w).issues = s.issues := rfl
@[simp] theorem State.holdWrite_groups (s : State) (w : LateWrite) : (State.holdWrite s w).groups = s.groups := rfl
@[simp] theorem State.holdWrite_kernels (s : State) (w : LateWrite) : (State.holdWrite s w).kernels = s.kernels := rfl
@[simp] theorem State.holdWrite_launches (s : State) (w : LateWrite) : (State.holdWrite s w).launches = s.launches := rfl
@[simp] theorem State.holdWrite_cores (s : State) (w : LateWrite) : (State.holdWrite s w).cores = s.cores := rfl
@[simp] theorem State.holdWrite_ops (s : State) (w : LateWrite) : (State.holdWrite s w).ops = s.ops := rfl
@[simp] theorem State.holdWrite_uses (s : State) (w : LateWrite) : (State.holdWrite s w).uses = s.uses := rfl
@[simp] theorem State.holdWrite_mgroups (s : State) (w : LateWrite) : (State.holdWrite s w).mgroups = s.mgroups := rfl
@[simp] theorem State.holdWrite_cmds (s : State) (w : LateWrite) : (State.holdWrite s w).cmds = s.cmds := rfl
@[simp] theorem State.holdWrite_cpys (s : State) (w : LateWrite) : (State.holdWrite s w).cpys = s.cpys := rfl
@[simp] theorem State.holdWrite_monitors (s : State) (w : LateWrite) : (State.holdWrite s w).monitors = s.monitors := rfl
@[simp] theorem State.holdWrite_msgs (s : State) (w : LateWrite) : (State.holdWrite s w).msgs = s.msgs := rfl
@[simp] theorem State.holdWrite_replies (s : State) (w : LateWrite) : (State.holdWrite s w).replies = s.replies := rfl
@[simp] theorem State.holdWrite_rels (s : State) (w : LateWrite) : (State.holdWrite s w).rels = s.rels := rfl
@[simp] theorem State.holdWrite_walks (s : State) (w : LateWrite) : (State.holdWrite s w).walks = s.walks := rfl
@[simp] theorem State.holdWrite_pool (s : State) (w : LateWrite) : (State.holdWrite s w).pool = s.pool := rfl
@[simp] theorem State.holdWrite_saved (s : State) (w : LateWrite) : (State.holdWrite s w).saved = s.saved := rfl
@[simp] theorem State.holdWrite_faultRecs (s : State) (w : LateWrite) : (State.holdWrite s w).faultRecs = s.faultRecs := rfl
@[simp] theorem State.holdWrite_ctxs (s : State) (w : LateWrite) : (State.holdWrite s w).ctxs = s.ctxs := rfl
@[simp] theorem State.holdWrite_amsgs (s : State) (w : LateWrite) : (State.holdWrite s w).amsgs = s.amsgs := rfl
@[simp] theorem State.holdWrite_queues (s : State) (w : LateWrite) : (State.holdWrite s w).queues = s.queues := rfl
@[simp] theorem State.holdWrite_bulks (s : State) (w : LateWrite) : (State.holdWrite s w).bulks = s.bulks := rfl
@[simp] theorem State.holdWrite_kiln (s : State) (w : LateWrite) : (State.holdWrite s w).kiln = s.kiln := rfl
@[simp] theorem State.holdWrite_dev (s : State) (w : LateWrite) : (State.holdWrite s w).dev = s.dev := rfl

/-! `State.meetTable` changes `mem`. -/
@[simp] theorem State.meetTable_agenda (s : State) (asid va : Nat) : (State.meetTable s asid va).agenda = s.agenda := by unfold State.meetTable; split <;> simp
@[simp] theorem State.meetTable_turn (s : State) (asid va : Nat) : (State.meetTable s asid va).turn = s.turn := by unfold State.meetTable; split <;> simp
@[simp] theorem State.meetTable_fresh (s : State) (asid va : Nat) : (State.meetTable s asid va).fresh = s.fresh := by unfold State.meetTable; split <;> simp
@[simp] theorem State.meetTable_threads (s : State) (asid va : Nat) : (State.meetTable s asid va).threads = s.threads := by unfold State.meetTable; split <;> simp
@[simp] theorem State.meetTable_cohorts (s : State) (asid va : Nat) : (State.meetTable s asid va).cohorts = s.cohorts := by unfold State.meetTable; split <;> simp
@[simp] theorem State.meetTable_issues (s : State) (asid va : Nat) : (State.meetTable s asid va).issues = s.issues := by unfold State.meetTable; split <;> simp
@[simp] theorem State.meetTable_groups (s : State) (asid va : Nat) : (State.meetTable s asid va).groups = s.groups := by unfold State.meetTable; split <;> simp
@[simp] theorem State.meetTable_kernels (s : State) (asid va : Nat) : (State.meetTable s asid va).kernels = s.kernels := by unfold State.meetTable; split <;> simp
@[simp] theorem State.meetTable_launches (s : State) (asid va : Nat) : (State.meetTable s asid va).launches = s.launches := by unfold State.meetTable; split <;> simp
@[simp] theorem State.meetTable_cores (s : State) (asid va : Nat) : (State.meetTable s asid va).cores = s.cores := by unfold State.meetTable; split <;> simp
@[simp] theorem State.meetTable_ops (s : State) (asid va : Nat) : (State.meetTable s asid va).ops = s.ops := by unfold State.meetTable; split <;> simp
@[simp] theorem State.meetTable_uses (s : State) (asid va : Nat) : (State.meetTable s asid va).uses = s.uses := by unfold State.meetTable; split <;> simp
@[simp] theorem State.meetTable_mgroups (s : State) (asid va : Nat) : (State.meetTable s asid va).mgroups = s.mgroups := by unfold State.meetTable; split <;> simp
@[simp] theorem State.meetTable_cmds (s : State) (asid va : Nat) : (State.meetTable s asid va).cmds = s.cmds := by unfold State.meetTable; split <;> simp
@[simp] theorem State.meetTable_cpys (s : State) (asid va : Nat) : (State.meetTable s asid va).cpys = s.cpys := by unfold State.meetTable; split <;> simp
@[simp] theorem State.meetTable_monitors (s : State) (asid va : Nat) : (State.meetTable s asid va).monitors = s.monitors := by unfold State.meetTable; split <;> simp
@[simp] theorem State.meetTable_msgs (s : State) (asid va : Nat) : (State.meetTable s asid va).msgs = s.msgs := by unfold State.meetTable; split <;> simp
@[simp] theorem State.meetTable_replies (s : State) (asid va : Nat) : (State.meetTable s asid va).replies = s.replies := by unfold State.meetTable; split <;> simp
@[simp] theorem State.meetTable_rels (s : State) (asid va : Nat) : (State.meetTable s asid va).rels = s.rels := by unfold State.meetTable; split <;> simp
@[simp] theorem State.meetTable_walks (s : State) (asid va : Nat) : (State.meetTable s asid va).walks = s.walks := by unfold State.meetTable; split <;> simp
@[simp] theorem State.meetTable_pool (s : State) (asid va : Nat) : (State.meetTable s asid va).pool = s.pool := by unfold State.meetTable; split <;> simp
@[simp] theorem State.meetTable_saved (s : State) (asid va : Nat) : (State.meetTable s asid va).saved = s.saved := by unfold State.meetTable; split <;> simp
@[simp] theorem State.meetTable_faultRecs (s : State) (asid va : Nat) : (State.meetTable s asid va).faultRecs = s.faultRecs := by unfold State.meetTable; split <;> simp
@[simp] theorem State.meetTable_ctxs (s : State) (asid va : Nat) : (State.meetTable s asid va).ctxs = s.ctxs := by unfold State.meetTable; split <;> simp
@[simp] theorem State.meetTable_amsgs (s : State) (asid va : Nat) : (State.meetTable s asid va).amsgs = s.amsgs := by unfold State.meetTable; split <;> simp
@[simp] theorem State.meetTable_queues (s : State) (asid va : Nat) : (State.meetTable s asid va).queues = s.queues := by unfold State.meetTable; split <;> simp
@[simp] theorem State.meetTable_bulks (s : State) (asid va : Nat) : (State.meetTable s asid va).bulks = s.bulks := by unfold State.meetTable; split <;> simp
@[simp] theorem State.meetTable_kiln (s : State) (asid va : Nat) : (State.meetTable s asid va).kiln = s.kiln := by unfold State.meetTable; split <;> simp
@[simp] theorem State.meetTable_dev (s : State) (asid va : Nat) : (State.meetTable s asid va).dev = s.dev := by unfold State.meetTable; split <;> simp

/-! `State.homeWrite` changes `mem`. -/
@[simp] theorem State.homeWrite_agenda (s : State) (asid va n v : Nat) : (State.homeWrite s asid va n v).agenda = s.agenda := by unfold State.homeWrite; split <;> simp
@[simp] theorem State.homeWrite_turn (s : State) (asid va n v : Nat) : (State.homeWrite s asid va n v).turn = s.turn := by unfold State.homeWrite; split <;> simp
@[simp] theorem State.homeWrite_fresh (s : State) (asid va n v : Nat) : (State.homeWrite s asid va n v).fresh = s.fresh := by unfold State.homeWrite; split <;> simp
@[simp] theorem State.homeWrite_threads (s : State) (asid va n v : Nat) : (State.homeWrite s asid va n v).threads = s.threads := by unfold State.homeWrite; split <;> simp
@[simp] theorem State.homeWrite_cohorts (s : State) (asid va n v : Nat) : (State.homeWrite s asid va n v).cohorts = s.cohorts := by unfold State.homeWrite; split <;> simp
@[simp] theorem State.homeWrite_issues (s : State) (asid va n v : Nat) : (State.homeWrite s asid va n v).issues = s.issues := by unfold State.homeWrite; split <;> simp
@[simp] theorem State.homeWrite_groups (s : State) (asid va n v : Nat) : (State.homeWrite s asid va n v).groups = s.groups := by unfold State.homeWrite; split <;> simp
@[simp] theorem State.homeWrite_kernels (s : State) (asid va n v : Nat) : (State.homeWrite s asid va n v).kernels = s.kernels := by unfold State.homeWrite; split <;> simp
@[simp] theorem State.homeWrite_launches (s : State) (asid va n v : Nat) : (State.homeWrite s asid va n v).launches = s.launches := by unfold State.homeWrite; split <;> simp
@[simp] theorem State.homeWrite_cores (s : State) (asid va n v : Nat) : (State.homeWrite s asid va n v).cores = s.cores := by unfold State.homeWrite; split <;> simp
@[simp] theorem State.homeWrite_ops (s : State) (asid va n v : Nat) : (State.homeWrite s asid va n v).ops = s.ops := by unfold State.homeWrite; split <;> simp
@[simp] theorem State.homeWrite_uses (s : State) (asid va n v : Nat) : (State.homeWrite s asid va n v).uses = s.uses := by unfold State.homeWrite; split <;> simp
@[simp] theorem State.homeWrite_mgroups (s : State) (asid va n v : Nat) : (State.homeWrite s asid va n v).mgroups = s.mgroups := by unfold State.homeWrite; split <;> simp
@[simp] theorem State.homeWrite_cmds (s : State) (asid va n v : Nat) : (State.homeWrite s asid va n v).cmds = s.cmds := by unfold State.homeWrite; split <;> simp
@[simp] theorem State.homeWrite_cpys (s : State) (asid va n v : Nat) : (State.homeWrite s asid va n v).cpys = s.cpys := by unfold State.homeWrite; split <;> simp
@[simp] theorem State.homeWrite_monitors (s : State) (asid va n v : Nat) : (State.homeWrite s asid va n v).monitors = s.monitors := by unfold State.homeWrite; split <;> simp
@[simp] theorem State.homeWrite_msgs (s : State) (asid va n v : Nat) : (State.homeWrite s asid va n v).msgs = s.msgs := by unfold State.homeWrite; split <;> simp
@[simp] theorem State.homeWrite_replies (s : State) (asid va n v : Nat) : (State.homeWrite s asid va n v).replies = s.replies := by unfold State.homeWrite; split <;> simp
@[simp] theorem State.homeWrite_rels (s : State) (asid va n v : Nat) : (State.homeWrite s asid va n v).rels = s.rels := by unfold State.homeWrite; split <;> simp
@[simp] theorem State.homeWrite_walks (s : State) (asid va n v : Nat) : (State.homeWrite s asid va n v).walks = s.walks := by unfold State.homeWrite; split <;> simp
@[simp] theorem State.homeWrite_pool (s : State) (asid va n v : Nat) : (State.homeWrite s asid va n v).pool = s.pool := by unfold State.homeWrite; split <;> simp
@[simp] theorem State.homeWrite_saved (s : State) (asid va n v : Nat) : (State.homeWrite s asid va n v).saved = s.saved := by unfold State.homeWrite; split <;> simp
@[simp] theorem State.homeWrite_faultRecs (s : State) (asid va n v : Nat) : (State.homeWrite s asid va n v).faultRecs = s.faultRecs := by unfold State.homeWrite; split <;> simp
@[simp] theorem State.homeWrite_ctxs (s : State) (asid va n v : Nat) : (State.homeWrite s asid va n v).ctxs = s.ctxs := by unfold State.homeWrite; split <;> simp
@[simp] theorem State.homeWrite_amsgs (s : State) (asid va n v : Nat) : (State.homeWrite s asid va n v).amsgs = s.amsgs := by unfold State.homeWrite; split <;> simp
@[simp] theorem State.homeWrite_queues (s : State) (asid va n v : Nat) : (State.homeWrite s asid va n v).queues = s.queues := by unfold State.homeWrite; split <;> simp
@[simp] theorem State.homeWrite_bulks (s : State) (asid va n v : Nat) : (State.homeWrite s asid va n v).bulks = s.bulks := by unfold State.homeWrite; split <;> simp
@[simp] theorem State.homeWrite_kiln (s : State) (asid va n v : Nat) : (State.homeWrite s asid va n v).kiln = s.kiln := by unfold State.homeWrite; split <;> simp
@[simp] theorem State.homeWrite_dev (s : State) (asid va n v : Nat) : (State.homeWrite s asid va n v).dev = s.dev := by unfold State.homeWrite; split <;> simp

/-! `State.meetRead` changes `mem`. -/
@[simp] theorem State.meetRead_agenda (s : State) (asid va : Nat) : (State.meetRead s asid va).agenda = s.agenda := by unfold State.meetRead; split <;> simp
@[simp] theorem State.meetRead_turn (s : State) (asid va : Nat) : (State.meetRead s asid va).turn = s.turn := by unfold State.meetRead; split <;> simp
@[simp] theorem State.meetRead_fresh (s : State) (asid va : Nat) : (State.meetRead s asid va).fresh = s.fresh := by unfold State.meetRead; split <;> simp
@[simp] theorem State.meetRead_threads (s : State) (asid va : Nat) : (State.meetRead s asid va).threads = s.threads := by unfold State.meetRead; split <;> simp
@[simp] theorem State.meetRead_cohorts (s : State) (asid va : Nat) : (State.meetRead s asid va).cohorts = s.cohorts := by unfold State.meetRead; split <;> simp
@[simp] theorem State.meetRead_issues (s : State) (asid va : Nat) : (State.meetRead s asid va).issues = s.issues := by unfold State.meetRead; split <;> simp
@[simp] theorem State.meetRead_groups (s : State) (asid va : Nat) : (State.meetRead s asid va).groups = s.groups := by unfold State.meetRead; split <;> simp
@[simp] theorem State.meetRead_kernels (s : State) (asid va : Nat) : (State.meetRead s asid va).kernels = s.kernels := by unfold State.meetRead; split <;> simp
@[simp] theorem State.meetRead_launches (s : State) (asid va : Nat) : (State.meetRead s asid va).launches = s.launches := by unfold State.meetRead; split <;> simp
@[simp] theorem State.meetRead_cores (s : State) (asid va : Nat) : (State.meetRead s asid va).cores = s.cores := by unfold State.meetRead; split <;> simp
@[simp] theorem State.meetRead_ops (s : State) (asid va : Nat) : (State.meetRead s asid va).ops = s.ops := by unfold State.meetRead; split <;> simp
@[simp] theorem State.meetRead_uses (s : State) (asid va : Nat) : (State.meetRead s asid va).uses = s.uses := by unfold State.meetRead; split <;> simp
@[simp] theorem State.meetRead_mgroups (s : State) (asid va : Nat) : (State.meetRead s asid va).mgroups = s.mgroups := by unfold State.meetRead; split <;> simp
@[simp] theorem State.meetRead_cmds (s : State) (asid va : Nat) : (State.meetRead s asid va).cmds = s.cmds := by unfold State.meetRead; split <;> simp
@[simp] theorem State.meetRead_cpys (s : State) (asid va : Nat) : (State.meetRead s asid va).cpys = s.cpys := by unfold State.meetRead; split <;> simp
@[simp] theorem State.meetRead_monitors (s : State) (asid va : Nat) : (State.meetRead s asid va).monitors = s.monitors := by unfold State.meetRead; split <;> simp
@[simp] theorem State.meetRead_msgs (s : State) (asid va : Nat) : (State.meetRead s asid va).msgs = s.msgs := by unfold State.meetRead; split <;> simp
@[simp] theorem State.meetRead_replies (s : State) (asid va : Nat) : (State.meetRead s asid va).replies = s.replies := by unfold State.meetRead; split <;> simp
@[simp] theorem State.meetRead_rels (s : State) (asid va : Nat) : (State.meetRead s asid va).rels = s.rels := by unfold State.meetRead; split <;> simp
@[simp] theorem State.meetRead_walks (s : State) (asid va : Nat) : (State.meetRead s asid va).walks = s.walks := by unfold State.meetRead; split <;> simp
@[simp] theorem State.meetRead_pool (s : State) (asid va : Nat) : (State.meetRead s asid va).pool = s.pool := by unfold State.meetRead; split <;> simp
@[simp] theorem State.meetRead_saved (s : State) (asid va : Nat) : (State.meetRead s asid va).saved = s.saved := by unfold State.meetRead; split <;> simp
@[simp] theorem State.meetRead_faultRecs (s : State) (asid va : Nat) : (State.meetRead s asid va).faultRecs = s.faultRecs := by unfold State.meetRead; split <;> simp
@[simp] theorem State.meetRead_ctxs (s : State) (asid va : Nat) : (State.meetRead s asid va).ctxs = s.ctxs := by unfold State.meetRead; split <;> simp
@[simp] theorem State.meetRead_amsgs (s : State) (asid va : Nat) : (State.meetRead s asid va).amsgs = s.amsgs := by unfold State.meetRead; split <;> simp
@[simp] theorem State.meetRead_queues (s : State) (asid va : Nat) : (State.meetRead s asid va).queues = s.queues := by unfold State.meetRead; split <;> simp
@[simp] theorem State.meetRead_bulks (s : State) (asid va : Nat) : (State.meetRead s asid va).bulks = s.bulks := by unfold State.meetRead; split <;> simp
@[simp] theorem State.meetRead_kiln (s : State) (asid va : Nat) : (State.meetRead s asid va).kiln = s.kiln := by unfold State.meetRead; split <;> simp
@[simp] theorem State.meetRead_dev (s : State) (asid va : Nat) : (State.meetRead s asid va).dev = s.dev := by unfold State.meetRead; split <;> simp

/-! `State.deviceAdd` changes `mem`. -/
@[simp] theorem State.deviceAdd_agenda (s : State) (asid va v : Nat) : (State.deviceAdd s asid va v).agenda = s.agenda := by unfold State.deviceAdd; split <;> simp
@[simp] theorem State.deviceAdd_turn (s : State) (asid va v : Nat) : (State.deviceAdd s asid va v).turn = s.turn := by unfold State.deviceAdd; split <;> simp
@[simp] theorem State.deviceAdd_fresh (s : State) (asid va v : Nat) : (State.deviceAdd s asid va v).fresh = s.fresh := by unfold State.deviceAdd; split <;> simp
@[simp] theorem State.deviceAdd_threads (s : State) (asid va v : Nat) : (State.deviceAdd s asid va v).threads = s.threads := by unfold State.deviceAdd; split <;> simp
@[simp] theorem State.deviceAdd_cohorts (s : State) (asid va v : Nat) : (State.deviceAdd s asid va v).cohorts = s.cohorts := by unfold State.deviceAdd; split <;> simp
@[simp] theorem State.deviceAdd_issues (s : State) (asid va v : Nat) : (State.deviceAdd s asid va v).issues = s.issues := by unfold State.deviceAdd; split <;> simp
@[simp] theorem State.deviceAdd_groups (s : State) (asid va v : Nat) : (State.deviceAdd s asid va v).groups = s.groups := by unfold State.deviceAdd; split <;> simp
@[simp] theorem State.deviceAdd_kernels (s : State) (asid va v : Nat) : (State.deviceAdd s asid va v).kernels = s.kernels := by unfold State.deviceAdd; split <;> simp
@[simp] theorem State.deviceAdd_launches (s : State) (asid va v : Nat) : (State.deviceAdd s asid va v).launches = s.launches := by unfold State.deviceAdd; split <;> simp
@[simp] theorem State.deviceAdd_cores (s : State) (asid va v : Nat) : (State.deviceAdd s asid va v).cores = s.cores := by unfold State.deviceAdd; split <;> simp
@[simp] theorem State.deviceAdd_ops (s : State) (asid va v : Nat) : (State.deviceAdd s asid va v).ops = s.ops := by unfold State.deviceAdd; split <;> simp
@[simp] theorem State.deviceAdd_uses (s : State) (asid va v : Nat) : (State.deviceAdd s asid va v).uses = s.uses := by unfold State.deviceAdd; split <;> simp
@[simp] theorem State.deviceAdd_mgroups (s : State) (asid va v : Nat) : (State.deviceAdd s asid va v).mgroups = s.mgroups := by unfold State.deviceAdd; split <;> simp
@[simp] theorem State.deviceAdd_cmds (s : State) (asid va v : Nat) : (State.deviceAdd s asid va v).cmds = s.cmds := by unfold State.deviceAdd; split <;> simp
@[simp] theorem State.deviceAdd_cpys (s : State) (asid va v : Nat) : (State.deviceAdd s asid va v).cpys = s.cpys := by unfold State.deviceAdd; split <;> simp
@[simp] theorem State.deviceAdd_monitors (s : State) (asid va v : Nat) : (State.deviceAdd s asid va v).monitors = s.monitors := by unfold State.deviceAdd; split <;> simp
@[simp] theorem State.deviceAdd_msgs (s : State) (asid va v : Nat) : (State.deviceAdd s asid va v).msgs = s.msgs := by unfold State.deviceAdd; split <;> simp
@[simp] theorem State.deviceAdd_replies (s : State) (asid va v : Nat) : (State.deviceAdd s asid va v).replies = s.replies := by unfold State.deviceAdd; split <;> simp
@[simp] theorem State.deviceAdd_rels (s : State) (asid va v : Nat) : (State.deviceAdd s asid va v).rels = s.rels := by unfold State.deviceAdd; split <;> simp
@[simp] theorem State.deviceAdd_walks (s : State) (asid va v : Nat) : (State.deviceAdd s asid va v).walks = s.walks := by unfold State.deviceAdd; split <;> simp
@[simp] theorem State.deviceAdd_pool (s : State) (asid va v : Nat) : (State.deviceAdd s asid va v).pool = s.pool := by unfold State.deviceAdd; split <;> simp
@[simp] theorem State.deviceAdd_saved (s : State) (asid va v : Nat) : (State.deviceAdd s asid va v).saved = s.saved := by unfold State.deviceAdd; split <;> simp
@[simp] theorem State.deviceAdd_faultRecs (s : State) (asid va v : Nat) : (State.deviceAdd s asid va v).faultRecs = s.faultRecs := by unfold State.deviceAdd; split <;> simp
@[simp] theorem State.deviceAdd_ctxs (s : State) (asid va v : Nat) : (State.deviceAdd s asid va v).ctxs = s.ctxs := by unfold State.deviceAdd; split <;> simp
@[simp] theorem State.deviceAdd_amsgs (s : State) (asid va v : Nat) : (State.deviceAdd s asid va v).amsgs = s.amsgs := by unfold State.deviceAdd; split <;> simp
@[simp] theorem State.deviceAdd_queues (s : State) (asid va v : Nat) : (State.deviceAdd s asid va v).queues = s.queues := by unfold State.deviceAdd; split <;> simp
@[simp] theorem State.deviceAdd_bulks (s : State) (asid va v : Nat) : (State.deviceAdd s asid va v).bulks = s.bulks := by unfold State.deviceAdd; split <;> simp
@[simp] theorem State.deviceAdd_kiln (s : State) (asid va v : Nat) : (State.deviceAdd s asid va v).kiln = s.kiln := by unfold State.deviceAdd; split <;> simp
@[simp] theorem State.deviceAdd_dev (s : State) (asid va v : Nat) : (State.deviceAdd s asid va v).dev = s.dev := by unfold State.deviceAdd; split <;> simp

/-! `State.hostEvent` changes `dev`. -/
@[simp] theorem State.hostEvent_agenda (s : State) (kind : Nat) (id : Nat) (payload : Nat) : (State.hostEvent s kind id payload).agenda = s.agenda := rfl
@[simp] theorem State.hostEvent_turn (s : State) (kind : Nat) (id : Nat) (payload : Nat) : (State.hostEvent s kind id payload).turn = s.turn := rfl
@[simp] theorem State.hostEvent_fresh (s : State) (kind : Nat) (id : Nat) (payload : Nat) : (State.hostEvent s kind id payload).fresh = s.fresh := rfl
@[simp] theorem State.hostEvent_threads (s : State) (kind : Nat) (id : Nat) (payload : Nat) : (State.hostEvent s kind id payload).threads = s.threads := rfl
@[simp] theorem State.hostEvent_cohorts (s : State) (kind : Nat) (id : Nat) (payload : Nat) : (State.hostEvent s kind id payload).cohorts = s.cohorts := rfl
@[simp] theorem State.hostEvent_issues (s : State) (kind : Nat) (id : Nat) (payload : Nat) : (State.hostEvent s kind id payload).issues = s.issues := rfl
@[simp] theorem State.hostEvent_groups (s : State) (kind : Nat) (id : Nat) (payload : Nat) : (State.hostEvent s kind id payload).groups = s.groups := rfl
@[simp] theorem State.hostEvent_kernels (s : State) (kind : Nat) (id : Nat) (payload : Nat) : (State.hostEvent s kind id payload).kernels = s.kernels := rfl
@[simp] theorem State.hostEvent_launches (s : State) (kind : Nat) (id : Nat) (payload : Nat) : (State.hostEvent s kind id payload).launches = s.launches := rfl
@[simp] theorem State.hostEvent_cores (s : State) (kind : Nat) (id : Nat) (payload : Nat) : (State.hostEvent s kind id payload).cores = s.cores := rfl
@[simp] theorem State.hostEvent_ops (s : State) (kind : Nat) (id : Nat) (payload : Nat) : (State.hostEvent s kind id payload).ops = s.ops := rfl
@[simp] theorem State.hostEvent_uses (s : State) (kind : Nat) (id : Nat) (payload : Nat) : (State.hostEvent s kind id payload).uses = s.uses := rfl
@[simp] theorem State.hostEvent_mgroups (s : State) (kind : Nat) (id : Nat) (payload : Nat) : (State.hostEvent s kind id payload).mgroups = s.mgroups := rfl
@[simp] theorem State.hostEvent_cmds (s : State) (kind : Nat) (id : Nat) (payload : Nat) : (State.hostEvent s kind id payload).cmds = s.cmds := rfl
@[simp] theorem State.hostEvent_cpys (s : State) (kind : Nat) (id : Nat) (payload : Nat) : (State.hostEvent s kind id payload).cpys = s.cpys := rfl
@[simp] theorem State.hostEvent_monitors (s : State) (kind : Nat) (id : Nat) (payload : Nat) : (State.hostEvent s kind id payload).monitors = s.monitors := rfl
@[simp] theorem State.hostEvent_msgs (s : State) (kind : Nat) (id : Nat) (payload : Nat) : (State.hostEvent s kind id payload).msgs = s.msgs := rfl
@[simp] theorem State.hostEvent_replies (s : State) (kind : Nat) (id : Nat) (payload : Nat) : (State.hostEvent s kind id payload).replies = s.replies := rfl
@[simp] theorem State.hostEvent_rels (s : State) (kind : Nat) (id : Nat) (payload : Nat) : (State.hostEvent s kind id payload).rels = s.rels := rfl
@[simp] theorem State.hostEvent_walks (s : State) (kind : Nat) (id : Nat) (payload : Nat) : (State.hostEvent s kind id payload).walks = s.walks := rfl
@[simp] theorem State.hostEvent_mem (s : State) (kind : Nat) (id : Nat) (payload : Nat) : (State.hostEvent s kind id payload).mem = s.mem := rfl
@[simp] theorem State.hostEvent_pool (s : State) (kind : Nat) (id : Nat) (payload : Nat) : (State.hostEvent s kind id payload).pool = s.pool := rfl
@[simp] theorem State.hostEvent_saved (s : State) (kind : Nat) (id : Nat) (payload : Nat) : (State.hostEvent s kind id payload).saved = s.saved := rfl
@[simp] theorem State.hostEvent_faultRecs (s : State) (kind : Nat) (id : Nat) (payload : Nat) : (State.hostEvent s kind id payload).faultRecs = s.faultRecs := rfl
@[simp] theorem State.hostEvent_ctxs (s : State) (kind : Nat) (id : Nat) (payload : Nat) : (State.hostEvent s kind id payload).ctxs = s.ctxs := rfl
@[simp] theorem State.hostEvent_amsgs (s : State) (kind : Nat) (id : Nat) (payload : Nat) : (State.hostEvent s kind id payload).amsgs = s.amsgs := rfl
@[simp] theorem State.hostEvent_queues (s : State) (kind : Nat) (id : Nat) (payload : Nat) : (State.hostEvent s kind id payload).queues = s.queues := rfl
@[simp] theorem State.hostEvent_bulks (s : State) (kind : Nat) (id : Nat) (payload : Nat) : (State.hostEvent s kind id payload).bulks = s.bulks := rfl
@[simp] theorem State.hostEvent_kiln (s : State) (kind : Nat) (id : Nat) (payload : Nat) : (State.hostEvent s kind id payload).kiln = s.kiln := rfl

/-! `State.foundFault` changes `fresh` and `threads` and `cohorts` and `kernels` and `ops` and `uses` and `mgroups` and `rels`. -/
@[simp] theorem State.foundFault_agenda (s : State) (o : Op) (code : Nat) (addr : Word) : (State.foundFault s o code addr).agenda = s.agenda := by unfold State.foundFault; dsimp only; split <;> simp
@[simp] theorem State.foundFault_turn (s : State) (o : Op) (code : Nat) (addr : Word) : (State.foundFault s o code addr).turn = s.turn := by unfold State.foundFault; dsimp only; split <;> simp
@[simp] theorem State.foundFault_issues (s : State) (o : Op) (code : Nat) (addr : Word) : (State.foundFault s o code addr).issues = s.issues := by unfold State.foundFault; dsimp only; split <;> simp
@[simp] theorem State.foundFault_groups (s : State) (o : Op) (code : Nat) (addr : Word) : (State.foundFault s o code addr).groups = s.groups := by unfold State.foundFault; dsimp only; split <;> simp
@[simp] theorem State.foundFault_launches (s : State) (o : Op) (code : Nat) (addr : Word) : (State.foundFault s o code addr).launches = s.launches := by unfold State.foundFault; dsimp only; split <;> simp
@[simp] theorem State.foundFault_cores (s : State) (o : Op) (code : Nat) (addr : Word) : (State.foundFault s o code addr).cores = s.cores := by unfold State.foundFault; dsimp only; split <;> simp
@[simp] theorem State.foundFault_cmds (s : State) (o : Op) (code : Nat) (addr : Word) : (State.foundFault s o code addr).cmds = s.cmds := by unfold State.foundFault; dsimp only; split <;> simp
@[simp] theorem State.foundFault_cpys (s : State) (o : Op) (code : Nat) (addr : Word) : (State.foundFault s o code addr).cpys = s.cpys := by unfold State.foundFault; dsimp only; split <;> simp
@[simp] theorem State.foundFault_monitors (s : State) (o : Op) (code : Nat) (addr : Word) : (State.foundFault s o code addr).monitors = s.monitors := by unfold State.foundFault; dsimp only; split <;> simp
@[simp] theorem State.foundFault_msgs (s : State) (o : Op) (code : Nat) (addr : Word) : (State.foundFault s o code addr).msgs = s.msgs := by unfold State.foundFault; dsimp only; split <;> simp
@[simp] theorem State.foundFault_replies (s : State) (o : Op) (code : Nat) (addr : Word) : (State.foundFault s o code addr).replies = s.replies := by unfold State.foundFault; dsimp only; split <;> simp
@[simp] theorem State.foundFault_walks (s : State) (o : Op) (code : Nat) (addr : Word) : (State.foundFault s o code addr).walks = s.walks := by unfold State.foundFault; dsimp only; split <;> simp
@[simp] theorem State.foundFault_mem (s : State) (o : Op) (code : Nat) (addr : Word) : (State.foundFault s o code addr).mem = s.mem := by unfold State.foundFault; dsimp only; split <;> simp
@[simp] theorem State.foundFault_pool (s : State) (o : Op) (code : Nat) (addr : Word) : (State.foundFault s o code addr).pool = s.pool := by unfold State.foundFault; dsimp only; split <;> simp
@[simp] theorem State.foundFault_saved (s : State) (o : Op) (code : Nat) (addr : Word) : (State.foundFault s o code addr).saved = s.saved := by unfold State.foundFault; dsimp only; split <;> simp
@[simp] theorem State.foundFault_faultRecs (s : State) (o : Op) (code : Nat) (addr : Word) : (State.foundFault s o code addr).faultRecs = s.faultRecs := by unfold State.foundFault; dsimp only; split <;> simp
@[simp] theorem State.foundFault_ctxs (s : State) (o : Op) (code : Nat) (addr : Word) : (State.foundFault s o code addr).ctxs = s.ctxs := by unfold State.foundFault; dsimp only; split <;> simp
@[simp] theorem State.foundFault_amsgs (s : State) (o : Op) (code : Nat) (addr : Word) : (State.foundFault s o code addr).amsgs = s.amsgs := by unfold State.foundFault; dsimp only; split <;> simp
@[simp] theorem State.foundFault_queues (s : State) (o : Op) (code : Nat) (addr : Word) : (State.foundFault s o code addr).queues = s.queues := by unfold State.foundFault; dsimp only; split <;> simp
@[simp] theorem State.foundFault_bulks (s : State) (o : Op) (code : Nat) (addr : Word) : (State.foundFault s o code addr).bulks = s.bulks := by unfold State.foundFault; dsimp only; split <;> simp
@[simp] theorem State.foundFault_kiln (s : State) (o : Op) (code : Nat) (addr : Word) : (State.foundFault s o code addr).kiln = s.kiln := by unfold State.foundFault; dsimp only; split <;> simp
@[simp] theorem State.foundFault_dev (s : State) (o : Op) (code : Nat) (addr : Word) : (State.foundFault s o code addr).dev = s.dev := by unfold State.foundFault; dsimp only; split <;> simp

/-! `State.storeFault` changes `fresh` and `threads` and `kernels` and `ops` and `mgroups` and `rels`. -/
@[simp] theorem State.storeFault_agenda (s : State) (o : Op) (d : Due) : (State.storeFault s o d).agenda = s.agenda := by unfold State.storeFault; split <;> simp
@[simp] theorem State.storeFault_turn (s : State) (o : Op) (d : Due) : (State.storeFault s o d).turn = s.turn := by unfold State.storeFault; split <;> simp
@[simp] theorem State.storeFault_cohorts (s : State) (o : Op) (d : Due) : (State.storeFault s o d).cohorts = s.cohorts := by unfold State.storeFault; split <;> simp
@[simp] theorem State.storeFault_issues (s : State) (o : Op) (d : Due) : (State.storeFault s o d).issues = s.issues := by unfold State.storeFault; split <;> simp
@[simp] theorem State.storeFault_groups (s : State) (o : Op) (d : Due) : (State.storeFault s o d).groups = s.groups := by unfold State.storeFault; split <;> simp
@[simp] theorem State.storeFault_launches (s : State) (o : Op) (d : Due) : (State.storeFault s o d).launches = s.launches := by unfold State.storeFault; split <;> simp
@[simp] theorem State.storeFault_cores (s : State) (o : Op) (d : Due) : (State.storeFault s o d).cores = s.cores := by unfold State.storeFault; split <;> simp
@[simp] theorem State.storeFault_uses (s : State) (o : Op) (d : Due) : (State.storeFault s o d).uses = s.uses := by unfold State.storeFault; split <;> simp
@[simp] theorem State.storeFault_cmds (s : State) (o : Op) (d : Due) : (State.storeFault s o d).cmds = s.cmds := by unfold State.storeFault; split <;> simp
@[simp] theorem State.storeFault_cpys (s : State) (o : Op) (d : Due) : (State.storeFault s o d).cpys = s.cpys := by unfold State.storeFault; split <;> simp
@[simp] theorem State.storeFault_monitors (s : State) (o : Op) (d : Due) : (State.storeFault s o d).monitors = s.monitors := by unfold State.storeFault; split <;> simp
@[simp] theorem State.storeFault_msgs (s : State) (o : Op) (d : Due) : (State.storeFault s o d).msgs = s.msgs := by unfold State.storeFault; split <;> simp
@[simp] theorem State.storeFault_replies (s : State) (o : Op) (d : Due) : (State.storeFault s o d).replies = s.replies := by unfold State.storeFault; split <;> simp
@[simp] theorem State.storeFault_walks (s : State) (o : Op) (d : Due) : (State.storeFault s o d).walks = s.walks := by unfold State.storeFault; split <;> simp
@[simp] theorem State.storeFault_mem (s : State) (o : Op) (d : Due) : (State.storeFault s o d).mem = s.mem := by unfold State.storeFault; split <;> simp
@[simp] theorem State.storeFault_pool (s : State) (o : Op) (d : Due) : (State.storeFault s o d).pool = s.pool := by unfold State.storeFault; split <;> simp
@[simp] theorem State.storeFault_saved (s : State) (o : Op) (d : Due) : (State.storeFault s o d).saved = s.saved := by unfold State.storeFault; split <;> simp
@[simp] theorem State.storeFault_faultRecs (s : State) (o : Op) (d : Due) : (State.storeFault s o d).faultRecs = s.faultRecs := by unfold State.storeFault; split <;> simp
@[simp] theorem State.storeFault_ctxs (s : State) (o : Op) (d : Due) : (State.storeFault s o d).ctxs = s.ctxs := by unfold State.storeFault; split <;> simp
@[simp] theorem State.storeFault_amsgs (s : State) (o : Op) (d : Due) : (State.storeFault s o d).amsgs = s.amsgs := by unfold State.storeFault; split <;> simp
@[simp] theorem State.storeFault_queues (s : State) (o : Op) (d : Due) : (State.storeFault s o d).queues = s.queues := by unfold State.storeFault; split <;> simp
@[simp] theorem State.storeFault_bulks (s : State) (o : Op) (d : Due) : (State.storeFault s o d).bulks = s.bulks := by unfold State.storeFault; split <;> simp
@[simp] theorem State.storeFault_kiln (s : State) (o : Op) (d : Due) : (State.storeFault s o d).kiln = s.kiln := by unfold State.storeFault; split <;> simp
@[simp] theorem State.storeFault_dev (s : State) (o : Op) (d : Due) : (State.storeFault s o d).dev = s.dev := by unfold State.storeFault; split <;> simp

/-! `State.parkUses` changes `cohorts` and `ops` and `uses`. -/
@[simp] theorem State.parkUses_agenda (s : State) (t : Thread) : (State.parkUses s t).agenda = s.agenda := by unfold State.parkUses; exact foldl_field (fun s : State => s.agenda) _ (fun s x => by simp) _ _
@[simp] theorem State.parkUses_turn (s : State) (t : Thread) : (State.parkUses s t).turn = s.turn := by unfold State.parkUses; exact foldl_field (fun s : State => s.turn) _ (fun s x => by simp) _ _
@[simp] theorem State.parkUses_fresh (s : State) (t : Thread) : (State.parkUses s t).fresh = s.fresh := by unfold State.parkUses; exact foldl_field (fun s : State => s.fresh) _ (fun s x => by simp) _ _
@[simp] theorem State.parkUses_threads (s : State) (t : Thread) : (State.parkUses s t).threads = s.threads := by unfold State.parkUses; exact foldl_field (fun s : State => s.threads) _ (fun s x => by simp) _ _
@[simp] theorem State.parkUses_issues (s : State) (t : Thread) : (State.parkUses s t).issues = s.issues := by unfold State.parkUses; exact foldl_field (fun s : State => s.issues) _ (fun s x => by simp) _ _
@[simp] theorem State.parkUses_groups (s : State) (t : Thread) : (State.parkUses s t).groups = s.groups := by unfold State.parkUses; exact foldl_field (fun s : State => s.groups) _ (fun s x => by simp) _ _
@[simp] theorem State.parkUses_kernels (s : State) (t : Thread) : (State.parkUses s t).kernels = s.kernels := by unfold State.parkUses; exact foldl_field (fun s : State => s.kernels) _ (fun s x => by simp) _ _
@[simp] theorem State.parkUses_launches (s : State) (t : Thread) : (State.parkUses s t).launches = s.launches := by unfold State.parkUses; exact foldl_field (fun s : State => s.launches) _ (fun s x => by simp) _ _
@[simp] theorem State.parkUses_cores (s : State) (t : Thread) : (State.parkUses s t).cores = s.cores := by unfold State.parkUses; exact foldl_field (fun s : State => s.cores) _ (fun s x => by simp) _ _
@[simp] theorem State.parkUses_mgroups (s : State) (t : Thread) : (State.parkUses s t).mgroups = s.mgroups := by unfold State.parkUses; exact foldl_field (fun s : State => s.mgroups) _ (fun s x => by simp) _ _
@[simp] theorem State.parkUses_cmds (s : State) (t : Thread) : (State.parkUses s t).cmds = s.cmds := by unfold State.parkUses; exact foldl_field (fun s : State => s.cmds) _ (fun s x => by simp) _ _
@[simp] theorem State.parkUses_cpys (s : State) (t : Thread) : (State.parkUses s t).cpys = s.cpys := by unfold State.parkUses; exact foldl_field (fun s : State => s.cpys) _ (fun s x => by simp) _ _
@[simp] theorem State.parkUses_monitors (s : State) (t : Thread) : (State.parkUses s t).monitors = s.monitors := by unfold State.parkUses; exact foldl_field (fun s : State => s.monitors) _ (fun s x => by simp) _ _
@[simp] theorem State.parkUses_msgs (s : State) (t : Thread) : (State.parkUses s t).msgs = s.msgs := by unfold State.parkUses; exact foldl_field (fun s : State => s.msgs) _ (fun s x => by simp) _ _
@[simp] theorem State.parkUses_replies (s : State) (t : Thread) : (State.parkUses s t).replies = s.replies := by unfold State.parkUses; exact foldl_field (fun s : State => s.replies) _ (fun s x => by simp) _ _
@[simp] theorem State.parkUses_rels (s : State) (t : Thread) : (State.parkUses s t).rels = s.rels := by unfold State.parkUses; exact foldl_field (fun s : State => s.rels) _ (fun s x => by simp) _ _
@[simp] theorem State.parkUses_walks (s : State) (t : Thread) : (State.parkUses s t).walks = s.walks := by unfold State.parkUses; exact foldl_field (fun s : State => s.walks) _ (fun s x => by simp) _ _
@[simp] theorem State.parkUses_mem (s : State) (t : Thread) : (State.parkUses s t).mem = s.mem := by unfold State.parkUses; exact foldl_field (fun s : State => s.mem) _ (fun s x => by simp) _ _
@[simp] theorem State.parkUses_pool (s : State) (t : Thread) : (State.parkUses s t).pool = s.pool := by unfold State.parkUses; exact foldl_field (fun s : State => s.pool) _ (fun s x => by simp) _ _
@[simp] theorem State.parkUses_saved (s : State) (t : Thread) : (State.parkUses s t).saved = s.saved := by unfold State.parkUses; exact foldl_field (fun s : State => s.saved) _ (fun s x => by simp) _ _
@[simp] theorem State.parkUses_faultRecs (s : State) (t : Thread) : (State.parkUses s t).faultRecs = s.faultRecs := by unfold State.parkUses; exact foldl_field (fun s : State => s.faultRecs) _ (fun s x => by simp) _ _
@[simp] theorem State.parkUses_ctxs (s : State) (t : Thread) : (State.parkUses s t).ctxs = s.ctxs := by unfold State.parkUses; exact foldl_field (fun s : State => s.ctxs) _ (fun s x => by simp) _ _
@[simp] theorem State.parkUses_amsgs (s : State) (t : Thread) : (State.parkUses s t).amsgs = s.amsgs := by unfold State.parkUses; exact foldl_field (fun s : State => s.amsgs) _ (fun s x => by simp) _ _
@[simp] theorem State.parkUses_queues (s : State) (t : Thread) : (State.parkUses s t).queues = s.queues := by unfold State.parkUses; exact foldl_field (fun s : State => s.queues) _ (fun s x => by simp) _ _
@[simp] theorem State.parkUses_bulks (s : State) (t : Thread) : (State.parkUses s t).bulks = s.bulks := by unfold State.parkUses; exact foldl_field (fun s : State => s.bulks) _ (fun s x => by simp) _ _
@[simp] theorem State.parkUses_kiln (s : State) (t : Thread) : (State.parkUses s t).kiln = s.kiln := by unfold State.parkUses; exact foldl_field (fun s : State => s.kiln) _ (fun s x => by simp) _ _
@[simp] theorem State.parkUses_dev (s : State) (t : Thread) : (State.parkUses s t).dev = s.dev := by unfold State.parkUses; exact foldl_field (fun s : State => s.dev) _ (fun s x => by simp) _ _

/-! `State.modSlot` changes `cores`. -/
@[simp] theorem State.modSlot_agenda (s : State) (core : Nat) (asid : Nat) (f : Slot → Slot) : (State.modSlot s core asid f).agenda = s.agenda := by unfold State.modSlot; simp
@[simp] theorem State.modSlot_turn (s : State) (core : Nat) (asid : Nat) (f : Slot → Slot) : (State.modSlot s core asid f).turn = s.turn := by unfold State.modSlot; simp
@[simp] theorem State.modSlot_fresh (s : State) (core : Nat) (asid : Nat) (f : Slot → Slot) : (State.modSlot s core asid f).fresh = s.fresh := by unfold State.modSlot; simp
@[simp] theorem State.modSlot_threads (s : State) (core : Nat) (asid : Nat) (f : Slot → Slot) : (State.modSlot s core asid f).threads = s.threads := by unfold State.modSlot; simp
@[simp] theorem State.modSlot_cohorts (s : State) (core : Nat) (asid : Nat) (f : Slot → Slot) : (State.modSlot s core asid f).cohorts = s.cohorts := by unfold State.modSlot; simp
@[simp] theorem State.modSlot_issues (s : State) (core : Nat) (asid : Nat) (f : Slot → Slot) : (State.modSlot s core asid f).issues = s.issues := by unfold State.modSlot; simp
@[simp] theorem State.modSlot_groups (s : State) (core : Nat) (asid : Nat) (f : Slot → Slot) : (State.modSlot s core asid f).groups = s.groups := by unfold State.modSlot; simp
@[simp] theorem State.modSlot_kernels (s : State) (core : Nat) (asid : Nat) (f : Slot → Slot) : (State.modSlot s core asid f).kernels = s.kernels := by unfold State.modSlot; simp
@[simp] theorem State.modSlot_launches (s : State) (core : Nat) (asid : Nat) (f : Slot → Slot) : (State.modSlot s core asid f).launches = s.launches := by unfold State.modSlot; simp
@[simp] theorem State.modSlot_ops (s : State) (core : Nat) (asid : Nat) (f : Slot → Slot) : (State.modSlot s core asid f).ops = s.ops := by unfold State.modSlot; simp
@[simp] theorem State.modSlot_uses (s : State) (core : Nat) (asid : Nat) (f : Slot → Slot) : (State.modSlot s core asid f).uses = s.uses := by unfold State.modSlot; simp
@[simp] theorem State.modSlot_mgroups (s : State) (core : Nat) (asid : Nat) (f : Slot → Slot) : (State.modSlot s core asid f).mgroups = s.mgroups := by unfold State.modSlot; simp
@[simp] theorem State.modSlot_cmds (s : State) (core : Nat) (asid : Nat) (f : Slot → Slot) : (State.modSlot s core asid f).cmds = s.cmds := by unfold State.modSlot; simp
@[simp] theorem State.modSlot_cpys (s : State) (core : Nat) (asid : Nat) (f : Slot → Slot) : (State.modSlot s core asid f).cpys = s.cpys := by unfold State.modSlot; simp
@[simp] theorem State.modSlot_monitors (s : State) (core : Nat) (asid : Nat) (f : Slot → Slot) : (State.modSlot s core asid f).monitors = s.monitors := by unfold State.modSlot; simp
@[simp] theorem State.modSlot_msgs (s : State) (core : Nat) (asid : Nat) (f : Slot → Slot) : (State.modSlot s core asid f).msgs = s.msgs := by unfold State.modSlot; simp
@[simp] theorem State.modSlot_replies (s : State) (core : Nat) (asid : Nat) (f : Slot → Slot) : (State.modSlot s core asid f).replies = s.replies := by unfold State.modSlot; simp
@[simp] theorem State.modSlot_rels (s : State) (core : Nat) (asid : Nat) (f : Slot → Slot) : (State.modSlot s core asid f).rels = s.rels := by unfold State.modSlot; simp
@[simp] theorem State.modSlot_walks (s : State) (core : Nat) (asid : Nat) (f : Slot → Slot) : (State.modSlot s core asid f).walks = s.walks := by unfold State.modSlot; simp
@[simp] theorem State.modSlot_mem (s : State) (core : Nat) (asid : Nat) (f : Slot → Slot) : (State.modSlot s core asid f).mem = s.mem := by unfold State.modSlot; simp
@[simp] theorem State.modSlot_pool (s : State) (core : Nat) (asid : Nat) (f : Slot → Slot) : (State.modSlot s core asid f).pool = s.pool := by unfold State.modSlot; simp
@[simp] theorem State.modSlot_saved (s : State) (core : Nat) (asid : Nat) (f : Slot → Slot) : (State.modSlot s core asid f).saved = s.saved := by unfold State.modSlot; simp
@[simp] theorem State.modSlot_faultRecs (s : State) (core : Nat) (asid : Nat) (f : Slot → Slot) : (State.modSlot s core asid f).faultRecs = s.faultRecs := by unfold State.modSlot; simp
@[simp] theorem State.modSlot_ctxs (s : State) (core : Nat) (asid : Nat) (f : Slot → Slot) : (State.modSlot s core asid f).ctxs = s.ctxs := by unfold State.modSlot; simp
@[simp] theorem State.modSlot_amsgs (s : State) (core : Nat) (asid : Nat) (f : Slot → Slot) : (State.modSlot s core asid f).amsgs = s.amsgs := by unfold State.modSlot; simp
@[simp] theorem State.modSlot_queues (s : State) (core : Nat) (asid : Nat) (f : Slot → Slot) : (State.modSlot s core asid f).queues = s.queues := by unfold State.modSlot; simp
@[simp] theorem State.modSlot_bulks (s : State) (core : Nat) (asid : Nat) (f : Slot → Slot) : (State.modSlot s core asid f).bulks = s.bulks := by unfold State.modSlot; simp
@[simp] theorem State.modSlot_kiln (s : State) (core : Nat) (asid : Nat) (f : Slot → Slot) : (State.modSlot s core asid f).kiln = s.kiln := by unfold State.modSlot; simp
@[simp] theorem State.modSlot_dev (s : State) (core : Nat) (asid : Nat) (f : Slot → Slot) : (State.modSlot s core asid f).dev = s.dev := by unfold State.modSlot; simp

/-! `State.setWalk` changes `walks`. -/
@[simp] theorem State.setWalk_agenda (s : State) (w : Walk) : (State.setWalk s w).agenda = s.agenda := rfl
@[simp] theorem State.setWalk_turn (s : State) (w : Walk) : (State.setWalk s w).turn = s.turn := rfl
@[simp] theorem State.setWalk_fresh (s : State) (w : Walk) : (State.setWalk s w).fresh = s.fresh := rfl
@[simp] theorem State.setWalk_threads (s : State) (w : Walk) : (State.setWalk s w).threads = s.threads := rfl
@[simp] theorem State.setWalk_cohorts (s : State) (w : Walk) : (State.setWalk s w).cohorts = s.cohorts := rfl
@[simp] theorem State.setWalk_issues (s : State) (w : Walk) : (State.setWalk s w).issues = s.issues := rfl
@[simp] theorem State.setWalk_groups (s : State) (w : Walk) : (State.setWalk s w).groups = s.groups := rfl
@[simp] theorem State.setWalk_kernels (s : State) (w : Walk) : (State.setWalk s w).kernels = s.kernels := rfl
@[simp] theorem State.setWalk_launches (s : State) (w : Walk) : (State.setWalk s w).launches = s.launches := rfl
@[simp] theorem State.setWalk_cores (s : State) (w : Walk) : (State.setWalk s w).cores = s.cores := rfl
@[simp] theorem State.setWalk_ops (s : State) (w : Walk) : (State.setWalk s w).ops = s.ops := rfl
@[simp] theorem State.setWalk_uses (s : State) (w : Walk) : (State.setWalk s w).uses = s.uses := rfl
@[simp] theorem State.setWalk_mgroups (s : State) (w : Walk) : (State.setWalk s w).mgroups = s.mgroups := rfl
@[simp] theorem State.setWalk_cmds (s : State) (w : Walk) : (State.setWalk s w).cmds = s.cmds := rfl
@[simp] theorem State.setWalk_cpys (s : State) (w : Walk) : (State.setWalk s w).cpys = s.cpys := rfl
@[simp] theorem State.setWalk_monitors (s : State) (w : Walk) : (State.setWalk s w).monitors = s.monitors := rfl
@[simp] theorem State.setWalk_msgs (s : State) (w : Walk) : (State.setWalk s w).msgs = s.msgs := rfl
@[simp] theorem State.setWalk_replies (s : State) (w : Walk) : (State.setWalk s w).replies = s.replies := rfl
@[simp] theorem State.setWalk_rels (s : State) (w : Walk) : (State.setWalk s w).rels = s.rels := rfl
@[simp] theorem State.setWalk_mem (s : State) (w : Walk) : (State.setWalk s w).mem = s.mem := rfl
@[simp] theorem State.setWalk_pool (s : State) (w : Walk) : (State.setWalk s w).pool = s.pool := rfl
@[simp] theorem State.setWalk_saved (s : State) (w : Walk) : (State.setWalk s w).saved = s.saved := rfl
@[simp] theorem State.setWalk_faultRecs (s : State) (w : Walk) : (State.setWalk s w).faultRecs = s.faultRecs := rfl
@[simp] theorem State.setWalk_ctxs (s : State) (w : Walk) : (State.setWalk s w).ctxs = s.ctxs := rfl
@[simp] theorem State.setWalk_amsgs (s : State) (w : Walk) : (State.setWalk s w).amsgs = s.amsgs := rfl
@[simp] theorem State.setWalk_queues (s : State) (w : Walk) : (State.setWalk s w).queues = s.queues := rfl
@[simp] theorem State.setWalk_bulks (s : State) (w : Walk) : (State.setWalk s w).bulks = s.bulks := rfl
@[simp] theorem State.setWalk_kiln (s : State) (w : Walk) : (State.setWalk s w).kiln = s.kiln := rfl
@[simp] theorem State.setWalk_dev (s : State) (w : Walk) : (State.setWalk s w).dev = s.dev := rfl

/-! `State.setMonitor` changes `monitors`. -/
@[simp] theorem State.setMonitor_agenda (s : State) (m : Monitor) : (State.setMonitor s m).agenda = s.agenda := rfl
@[simp] theorem State.setMonitor_turn (s : State) (m : Monitor) : (State.setMonitor s m).turn = s.turn := rfl
@[simp] theorem State.setMonitor_fresh (s : State) (m : Monitor) : (State.setMonitor s m).fresh = s.fresh := rfl
@[simp] theorem State.setMonitor_threads (s : State) (m : Monitor) : (State.setMonitor s m).threads = s.threads := rfl
@[simp] theorem State.setMonitor_cohorts (s : State) (m : Monitor) : (State.setMonitor s m).cohorts = s.cohorts := rfl
@[simp] theorem State.setMonitor_issues (s : State) (m : Monitor) : (State.setMonitor s m).issues = s.issues := rfl
@[simp] theorem State.setMonitor_groups (s : State) (m : Monitor) : (State.setMonitor s m).groups = s.groups := rfl
@[simp] theorem State.setMonitor_kernels (s : State) (m : Monitor) : (State.setMonitor s m).kernels = s.kernels := rfl
@[simp] theorem State.setMonitor_launches (s : State) (m : Monitor) : (State.setMonitor s m).launches = s.launches := rfl
@[simp] theorem State.setMonitor_cores (s : State) (m : Monitor) : (State.setMonitor s m).cores = s.cores := rfl
@[simp] theorem State.setMonitor_ops (s : State) (m : Monitor) : (State.setMonitor s m).ops = s.ops := rfl
@[simp] theorem State.setMonitor_uses (s : State) (m : Monitor) : (State.setMonitor s m).uses = s.uses := rfl
@[simp] theorem State.setMonitor_mgroups (s : State) (m : Monitor) : (State.setMonitor s m).mgroups = s.mgroups := rfl
@[simp] theorem State.setMonitor_cmds (s : State) (m : Monitor) : (State.setMonitor s m).cmds = s.cmds := rfl
@[simp] theorem State.setMonitor_cpys (s : State) (m : Monitor) : (State.setMonitor s m).cpys = s.cpys := rfl
@[simp] theorem State.setMonitor_msgs (s : State) (m : Monitor) : (State.setMonitor s m).msgs = s.msgs := rfl
@[simp] theorem State.setMonitor_replies (s : State) (m : Monitor) : (State.setMonitor s m).replies = s.replies := rfl
@[simp] theorem State.setMonitor_rels (s : State) (m : Monitor) : (State.setMonitor s m).rels = s.rels := rfl
@[simp] theorem State.setMonitor_walks (s : State) (m : Monitor) : (State.setMonitor s m).walks = s.walks := rfl
@[simp] theorem State.setMonitor_mem (s : State) (m : Monitor) : (State.setMonitor s m).mem = s.mem := rfl
@[simp] theorem State.setMonitor_pool (s : State) (m : Monitor) : (State.setMonitor s m).pool = s.pool := rfl
@[simp] theorem State.setMonitor_saved (s : State) (m : Monitor) : (State.setMonitor s m).saved = s.saved := rfl
@[simp] theorem State.setMonitor_faultRecs (s : State) (m : Monitor) : (State.setMonitor s m).faultRecs = s.faultRecs := rfl
@[simp] theorem State.setMonitor_ctxs (s : State) (m : Monitor) : (State.setMonitor s m).ctxs = s.ctxs := rfl
@[simp] theorem State.setMonitor_amsgs (s : State) (m : Monitor) : (State.setMonitor s m).amsgs = s.amsgs := rfl
@[simp] theorem State.setMonitor_queues (s : State) (m : Monitor) : (State.setMonitor s m).queues = s.queues := rfl
@[simp] theorem State.setMonitor_bulks (s : State) (m : Monitor) : (State.setMonitor s m).bulks = s.bulks := rfl
@[simp] theorem State.setMonitor_kiln (s : State) (m : Monitor) : (State.setMonitor s m).kiln = s.kiln := rfl
@[simp] theorem State.setMonitor_dev (s : State) (m : Monitor) : (State.setMonitor s m).dev = s.dev := rfl

/-! `State.modTag` changes `cores`. -/
@[simp] theorem State.modTag_agenda (s : State) (core : Nat) (n : Nat) (f : Tag → Tag) : (State.modTag s core n f).agenda = s.agenda := by unfold State.modTag; simp
@[simp] theorem State.modTag_turn (s : State) (core : Nat) (n : Nat) (f : Tag → Tag) : (State.modTag s core n f).turn = s.turn := by unfold State.modTag; simp
@[simp] theorem State.modTag_fresh (s : State) (core : Nat) (n : Nat) (f : Tag → Tag) : (State.modTag s core n f).fresh = s.fresh := by unfold State.modTag; simp
@[simp] theorem State.modTag_threads (s : State) (core : Nat) (n : Nat) (f : Tag → Tag) : (State.modTag s core n f).threads = s.threads := by unfold State.modTag; simp
@[simp] theorem State.modTag_cohorts (s : State) (core : Nat) (n : Nat) (f : Tag → Tag) : (State.modTag s core n f).cohorts = s.cohorts := by unfold State.modTag; simp
@[simp] theorem State.modTag_issues (s : State) (core : Nat) (n : Nat) (f : Tag → Tag) : (State.modTag s core n f).issues = s.issues := by unfold State.modTag; simp
@[simp] theorem State.modTag_groups (s : State) (core : Nat) (n : Nat) (f : Tag → Tag) : (State.modTag s core n f).groups = s.groups := by unfold State.modTag; simp
@[simp] theorem State.modTag_kernels (s : State) (core : Nat) (n : Nat) (f : Tag → Tag) : (State.modTag s core n f).kernels = s.kernels := by unfold State.modTag; simp
@[simp] theorem State.modTag_launches (s : State) (core : Nat) (n : Nat) (f : Tag → Tag) : (State.modTag s core n f).launches = s.launches := by unfold State.modTag; simp
@[simp] theorem State.modTag_ops (s : State) (core : Nat) (n : Nat) (f : Tag → Tag) : (State.modTag s core n f).ops = s.ops := by unfold State.modTag; simp
@[simp] theorem State.modTag_uses (s : State) (core : Nat) (n : Nat) (f : Tag → Tag) : (State.modTag s core n f).uses = s.uses := by unfold State.modTag; simp
@[simp] theorem State.modTag_mgroups (s : State) (core : Nat) (n : Nat) (f : Tag → Tag) : (State.modTag s core n f).mgroups = s.mgroups := by unfold State.modTag; simp
@[simp] theorem State.modTag_cmds (s : State) (core : Nat) (n : Nat) (f : Tag → Tag) : (State.modTag s core n f).cmds = s.cmds := by unfold State.modTag; simp
@[simp] theorem State.modTag_cpys (s : State) (core : Nat) (n : Nat) (f : Tag → Tag) : (State.modTag s core n f).cpys = s.cpys := by unfold State.modTag; simp
@[simp] theorem State.modTag_monitors (s : State) (core : Nat) (n : Nat) (f : Tag → Tag) : (State.modTag s core n f).monitors = s.monitors := by unfold State.modTag; simp
@[simp] theorem State.modTag_msgs (s : State) (core : Nat) (n : Nat) (f : Tag → Tag) : (State.modTag s core n f).msgs = s.msgs := by unfold State.modTag; simp
@[simp] theorem State.modTag_replies (s : State) (core : Nat) (n : Nat) (f : Tag → Tag) : (State.modTag s core n f).replies = s.replies := by unfold State.modTag; simp
@[simp] theorem State.modTag_rels (s : State) (core : Nat) (n : Nat) (f : Tag → Tag) : (State.modTag s core n f).rels = s.rels := by unfold State.modTag; simp
@[simp] theorem State.modTag_walks (s : State) (core : Nat) (n : Nat) (f : Tag → Tag) : (State.modTag s core n f).walks = s.walks := by unfold State.modTag; simp
@[simp] theorem State.modTag_mem (s : State) (core : Nat) (n : Nat) (f : Tag → Tag) : (State.modTag s core n f).mem = s.mem := by unfold State.modTag; simp
@[simp] theorem State.modTag_pool (s : State) (core : Nat) (n : Nat) (f : Tag → Tag) : (State.modTag s core n f).pool = s.pool := by unfold State.modTag; simp
@[simp] theorem State.modTag_saved (s : State) (core : Nat) (n : Nat) (f : Tag → Tag) : (State.modTag s core n f).saved = s.saved := by unfold State.modTag; simp
@[simp] theorem State.modTag_faultRecs (s : State) (core : Nat) (n : Nat) (f : Tag → Tag) : (State.modTag s core n f).faultRecs = s.faultRecs := by unfold State.modTag; simp
@[simp] theorem State.modTag_ctxs (s : State) (core : Nat) (n : Nat) (f : Tag → Tag) : (State.modTag s core n f).ctxs = s.ctxs := by unfold State.modTag; simp
@[simp] theorem State.modTag_amsgs (s : State) (core : Nat) (n : Nat) (f : Tag → Tag) : (State.modTag s core n f).amsgs = s.amsgs := by unfold State.modTag; simp
@[simp] theorem State.modTag_queues (s : State) (core : Nat) (n : Nat) (f : Tag → Tag) : (State.modTag s core n f).queues = s.queues := by unfold State.modTag; simp
@[simp] theorem State.modTag_bulks (s : State) (core : Nat) (n : Nat) (f : Tag → Tag) : (State.modTag s core n f).bulks = s.bulks := by unfold State.modTag; simp
@[simp] theorem State.modTag_kiln (s : State) (core : Nat) (n : Nat) (f : Tag → Tag) : (State.modTag s core n f).kiln = s.kiln := by unfold State.modTag; simp
@[simp] theorem State.modTag_dev (s : State) (core : Nat) (n : Nat) (f : Tag → Tag) : (State.modTag s core n f).dev = s.dev := by unfold State.modTag; simp

/-! `State.modCv` changes `groups`. -/
@[simp] theorem State.modCv_agenda (s : State) (gid : Nat) (n : Nat) (f : ConvReg → ConvReg) : (State.modCv s gid n f).agenda = s.agenda := rfl
@[simp] theorem State.modCv_turn (s : State) (gid : Nat) (n : Nat) (f : ConvReg → ConvReg) : (State.modCv s gid n f).turn = s.turn := rfl
@[simp] theorem State.modCv_fresh (s : State) (gid : Nat) (n : Nat) (f : ConvReg → ConvReg) : (State.modCv s gid n f).fresh = s.fresh := rfl
@[simp] theorem State.modCv_threads (s : State) (gid : Nat) (n : Nat) (f : ConvReg → ConvReg) : (State.modCv s gid n f).threads = s.threads := rfl
@[simp] theorem State.modCv_cohorts (s : State) (gid : Nat) (n : Nat) (f : ConvReg → ConvReg) : (State.modCv s gid n f).cohorts = s.cohorts := rfl
@[simp] theorem State.modCv_issues (s : State) (gid : Nat) (n : Nat) (f : ConvReg → ConvReg) : (State.modCv s gid n f).issues = s.issues := rfl
@[simp] theorem State.modCv_kernels (s : State) (gid : Nat) (n : Nat) (f : ConvReg → ConvReg) : (State.modCv s gid n f).kernels = s.kernels := rfl
@[simp] theorem State.modCv_launches (s : State) (gid : Nat) (n : Nat) (f : ConvReg → ConvReg) : (State.modCv s gid n f).launches = s.launches := rfl
@[simp] theorem State.modCv_cores (s : State) (gid : Nat) (n : Nat) (f : ConvReg → ConvReg) : (State.modCv s gid n f).cores = s.cores := rfl
@[simp] theorem State.modCv_ops (s : State) (gid : Nat) (n : Nat) (f : ConvReg → ConvReg) : (State.modCv s gid n f).ops = s.ops := rfl
@[simp] theorem State.modCv_uses (s : State) (gid : Nat) (n : Nat) (f : ConvReg → ConvReg) : (State.modCv s gid n f).uses = s.uses := rfl
@[simp] theorem State.modCv_mgroups (s : State) (gid : Nat) (n : Nat) (f : ConvReg → ConvReg) : (State.modCv s gid n f).mgroups = s.mgroups := rfl
@[simp] theorem State.modCv_cmds (s : State) (gid : Nat) (n : Nat) (f : ConvReg → ConvReg) : (State.modCv s gid n f).cmds = s.cmds := rfl
@[simp] theorem State.modCv_cpys (s : State) (gid : Nat) (n : Nat) (f : ConvReg → ConvReg) : (State.modCv s gid n f).cpys = s.cpys := rfl
@[simp] theorem State.modCv_monitors (s : State) (gid : Nat) (n : Nat) (f : ConvReg → ConvReg) : (State.modCv s gid n f).monitors = s.monitors := rfl
@[simp] theorem State.modCv_msgs (s : State) (gid : Nat) (n : Nat) (f : ConvReg → ConvReg) : (State.modCv s gid n f).msgs = s.msgs := rfl
@[simp] theorem State.modCv_replies (s : State) (gid : Nat) (n : Nat) (f : ConvReg → ConvReg) : (State.modCv s gid n f).replies = s.replies := rfl
@[simp] theorem State.modCv_rels (s : State) (gid : Nat) (n : Nat) (f : ConvReg → ConvReg) : (State.modCv s gid n f).rels = s.rels := rfl
@[simp] theorem State.modCv_walks (s : State) (gid : Nat) (n : Nat) (f : ConvReg → ConvReg) : (State.modCv s gid n f).walks = s.walks := rfl
@[simp] theorem State.modCv_mem (s : State) (gid : Nat) (n : Nat) (f : ConvReg → ConvReg) : (State.modCv s gid n f).mem = s.mem := rfl
@[simp] theorem State.modCv_pool (s : State) (gid : Nat) (n : Nat) (f : ConvReg → ConvReg) : (State.modCv s gid n f).pool = s.pool := rfl
@[simp] theorem State.modCv_saved (s : State) (gid : Nat) (n : Nat) (f : ConvReg → ConvReg) : (State.modCv s gid n f).saved = s.saved := rfl
@[simp] theorem State.modCv_faultRecs (s : State) (gid : Nat) (n : Nat) (f : ConvReg → ConvReg) : (State.modCv s gid n f).faultRecs = s.faultRecs := rfl
@[simp] theorem State.modCv_ctxs (s : State) (gid : Nat) (n : Nat) (f : ConvReg → ConvReg) : (State.modCv s gid n f).ctxs = s.ctxs := rfl
@[simp] theorem State.modCv_amsgs (s : State) (gid : Nat) (n : Nat) (f : ConvReg → ConvReg) : (State.modCv s gid n f).amsgs = s.amsgs := rfl
@[simp] theorem State.modCv_queues (s : State) (gid : Nat) (n : Nat) (f : ConvReg → ConvReg) : (State.modCv s gid n f).queues = s.queues := rfl
@[simp] theorem State.modCv_bulks (s : State) (gid : Nat) (n : Nat) (f : ConvReg → ConvReg) : (State.modCv s gid n f).bulks = s.bulks := rfl
@[simp] theorem State.modCv_kiln (s : State) (gid : Nat) (n : Nat) (f : ConvReg → ConvReg) : (State.modCv s gid n f).kiln = s.kiln := rfl
@[simp] theorem State.modCv_dev (s : State) (gid : Nat) (n : Nat) (f : ConvReg → ConvReg) : (State.modCv s gid n f).dev = s.dev := rfl

/-! `State.setWslot` changes `cores`. -/
@[simp] theorem State.setWslot_agenda (s : State) (core : Nat) (x : WSlot) : (State.setWslot s core x).agenda = s.agenda := by unfold State.setWslot; simp
@[simp] theorem State.setWslot_turn (s : State) (core : Nat) (x : WSlot) : (State.setWslot s core x).turn = s.turn := by unfold State.setWslot; simp
@[simp] theorem State.setWslot_fresh (s : State) (core : Nat) (x : WSlot) : (State.setWslot s core x).fresh = s.fresh := by unfold State.setWslot; simp
@[simp] theorem State.setWslot_threads (s : State) (core : Nat) (x : WSlot) : (State.setWslot s core x).threads = s.threads := by unfold State.setWslot; simp
@[simp] theorem State.setWslot_cohorts (s : State) (core : Nat) (x : WSlot) : (State.setWslot s core x).cohorts = s.cohorts := by unfold State.setWslot; simp
@[simp] theorem State.setWslot_issues (s : State) (core : Nat) (x : WSlot) : (State.setWslot s core x).issues = s.issues := by unfold State.setWslot; simp
@[simp] theorem State.setWslot_groups (s : State) (core : Nat) (x : WSlot) : (State.setWslot s core x).groups = s.groups := by unfold State.setWslot; simp
@[simp] theorem State.setWslot_kernels (s : State) (core : Nat) (x : WSlot) : (State.setWslot s core x).kernels = s.kernels := by unfold State.setWslot; simp
@[simp] theorem State.setWslot_launches (s : State) (core : Nat) (x : WSlot) : (State.setWslot s core x).launches = s.launches := by unfold State.setWslot; simp
@[simp] theorem State.setWslot_ops (s : State) (core : Nat) (x : WSlot) : (State.setWslot s core x).ops = s.ops := by unfold State.setWslot; simp
@[simp] theorem State.setWslot_uses (s : State) (core : Nat) (x : WSlot) : (State.setWslot s core x).uses = s.uses := by unfold State.setWslot; simp
@[simp] theorem State.setWslot_mgroups (s : State) (core : Nat) (x : WSlot) : (State.setWslot s core x).mgroups = s.mgroups := by unfold State.setWslot; simp
@[simp] theorem State.setWslot_cmds (s : State) (core : Nat) (x : WSlot) : (State.setWslot s core x).cmds = s.cmds := by unfold State.setWslot; simp
@[simp] theorem State.setWslot_cpys (s : State) (core : Nat) (x : WSlot) : (State.setWslot s core x).cpys = s.cpys := by unfold State.setWslot; simp
@[simp] theorem State.setWslot_monitors (s : State) (core : Nat) (x : WSlot) : (State.setWslot s core x).monitors = s.monitors := by unfold State.setWslot; simp
@[simp] theorem State.setWslot_msgs (s : State) (core : Nat) (x : WSlot) : (State.setWslot s core x).msgs = s.msgs := by unfold State.setWslot; simp
@[simp] theorem State.setWslot_replies (s : State) (core : Nat) (x : WSlot) : (State.setWslot s core x).replies = s.replies := by unfold State.setWslot; simp
@[simp] theorem State.setWslot_rels (s : State) (core : Nat) (x : WSlot) : (State.setWslot s core x).rels = s.rels := by unfold State.setWslot; simp
@[simp] theorem State.setWslot_walks (s : State) (core : Nat) (x : WSlot) : (State.setWslot s core x).walks = s.walks := by unfold State.setWslot; simp
@[simp] theorem State.setWslot_mem (s : State) (core : Nat) (x : WSlot) : (State.setWslot s core x).mem = s.mem := by unfold State.setWslot; simp
@[simp] theorem State.setWslot_pool (s : State) (core : Nat) (x : WSlot) : (State.setWslot s core x).pool = s.pool := by unfold State.setWslot; simp
@[simp] theorem State.setWslot_saved (s : State) (core : Nat) (x : WSlot) : (State.setWslot s core x).saved = s.saved := by unfold State.setWslot; simp
@[simp] theorem State.setWslot_faultRecs (s : State) (core : Nat) (x : WSlot) : (State.setWslot s core x).faultRecs = s.faultRecs := by unfold State.setWslot; simp
@[simp] theorem State.setWslot_ctxs (s : State) (core : Nat) (x : WSlot) : (State.setWslot s core x).ctxs = s.ctxs := by unfold State.setWslot; simp
@[simp] theorem State.setWslot_amsgs (s : State) (core : Nat) (x : WSlot) : (State.setWslot s core x).amsgs = s.amsgs := by unfold State.setWslot; simp
@[simp] theorem State.setWslot_queues (s : State) (core : Nat) (x : WSlot) : (State.setWslot s core x).queues = s.queues := by unfold State.setWslot; simp
@[simp] theorem State.setWslot_bulks (s : State) (core : Nat) (x : WSlot) : (State.setWslot s core x).bulks = s.bulks := by unfold State.setWslot; simp
@[simp] theorem State.setWslot_kiln (s : State) (core : Nat) (x : WSlot) : (State.setWslot s core x).kiln = s.kiln := by unfold State.setWslot; simp
@[simp] theorem State.setWslot_dev (s : State) (core : Nat) (x : WSlot) : (State.setWslot s core x).dev = s.dev := by unfold State.setWslot; simp

/-! `State.setAccum` changes `pool`. -/
@[simp] theorem State.setAccum_agenda (s : State) (gid : Nat) (o : Nat) (v : Nat) (n : Nat) : (State.setAccum s gid o v n).agenda = s.agenda := by unfold State.setAccum; split <;> rfl
@[simp] theorem State.setAccum_turn (s : State) (gid : Nat) (o : Nat) (v : Nat) (n : Nat) : (State.setAccum s gid o v n).turn = s.turn := by unfold State.setAccum; split <;> rfl
@[simp] theorem State.setAccum_fresh (s : State) (gid : Nat) (o : Nat) (v : Nat) (n : Nat) : (State.setAccum s gid o v n).fresh = s.fresh := by unfold State.setAccum; split <;> rfl
@[simp] theorem State.setAccum_threads (s : State) (gid : Nat) (o : Nat) (v : Nat) (n : Nat) : (State.setAccum s gid o v n).threads = s.threads := by unfold State.setAccum; split <;> rfl
@[simp] theorem State.setAccum_cohorts (s : State) (gid : Nat) (o : Nat) (v : Nat) (n : Nat) : (State.setAccum s gid o v n).cohorts = s.cohorts := by unfold State.setAccum; split <;> rfl
@[simp] theorem State.setAccum_issues (s : State) (gid : Nat) (o : Nat) (v : Nat) (n : Nat) : (State.setAccum s gid o v n).issues = s.issues := by unfold State.setAccum; split <;> rfl
@[simp] theorem State.setAccum_groups (s : State) (gid : Nat) (o : Nat) (v : Nat) (n : Nat) : (State.setAccum s gid o v n).groups = s.groups := by unfold State.setAccum; split <;> rfl
@[simp] theorem State.setAccum_kernels (s : State) (gid : Nat) (o : Nat) (v : Nat) (n : Nat) : (State.setAccum s gid o v n).kernels = s.kernels := by unfold State.setAccum; split <;> rfl
@[simp] theorem State.setAccum_launches (s : State) (gid : Nat) (o : Nat) (v : Nat) (n : Nat) : (State.setAccum s gid o v n).launches = s.launches := by unfold State.setAccum; split <;> rfl
@[simp] theorem State.setAccum_cores (s : State) (gid : Nat) (o : Nat) (v : Nat) (n : Nat) : (State.setAccum s gid o v n).cores = s.cores := by unfold State.setAccum; split <;> rfl
@[simp] theorem State.setAccum_ops (s : State) (gid : Nat) (o : Nat) (v : Nat) (n : Nat) : (State.setAccum s gid o v n).ops = s.ops := by unfold State.setAccum; split <;> rfl
@[simp] theorem State.setAccum_uses (s : State) (gid : Nat) (o : Nat) (v : Nat) (n : Nat) : (State.setAccum s gid o v n).uses = s.uses := by unfold State.setAccum; split <;> rfl
@[simp] theorem State.setAccum_mgroups (s : State) (gid : Nat) (o : Nat) (v : Nat) (n : Nat) : (State.setAccum s gid o v n).mgroups = s.mgroups := by unfold State.setAccum; split <;> rfl
@[simp] theorem State.setAccum_cmds (s : State) (gid : Nat) (o : Nat) (v : Nat) (n : Nat) : (State.setAccum s gid o v n).cmds = s.cmds := by unfold State.setAccum; split <;> rfl
@[simp] theorem State.setAccum_cpys (s : State) (gid : Nat) (o : Nat) (v : Nat) (n : Nat) : (State.setAccum s gid o v n).cpys = s.cpys := by unfold State.setAccum; split <;> rfl
@[simp] theorem State.setAccum_monitors (s : State) (gid : Nat) (o : Nat) (v : Nat) (n : Nat) : (State.setAccum s gid o v n).monitors = s.monitors := by unfold State.setAccum; split <;> rfl
@[simp] theorem State.setAccum_msgs (s : State) (gid : Nat) (o : Nat) (v : Nat) (n : Nat) : (State.setAccum s gid o v n).msgs = s.msgs := by unfold State.setAccum; split <;> rfl
@[simp] theorem State.setAccum_replies (s : State) (gid : Nat) (o : Nat) (v : Nat) (n : Nat) : (State.setAccum s gid o v n).replies = s.replies := by unfold State.setAccum; split <;> rfl
@[simp] theorem State.setAccum_rels (s : State) (gid : Nat) (o : Nat) (v : Nat) (n : Nat) : (State.setAccum s gid o v n).rels = s.rels := by unfold State.setAccum; split <;> rfl
@[simp] theorem State.setAccum_walks (s : State) (gid : Nat) (o : Nat) (v : Nat) (n : Nat) : (State.setAccum s gid o v n).walks = s.walks := by unfold State.setAccum; split <;> rfl
@[simp] theorem State.setAccum_mem (s : State) (gid : Nat) (o : Nat) (v : Nat) (n : Nat) : (State.setAccum s gid o v n).mem = s.mem := by unfold State.setAccum; split <;> rfl
@[simp] theorem State.setAccum_saved (s : State) (gid : Nat) (o : Nat) (v : Nat) (n : Nat) : (State.setAccum s gid o v n).saved = s.saved := by unfold State.setAccum; split <;> rfl
@[simp] theorem State.setAccum_faultRecs (s : State) (gid : Nat) (o : Nat) (v : Nat) (n : Nat) : (State.setAccum s gid o v n).faultRecs = s.faultRecs := by unfold State.setAccum; split <;> rfl
@[simp] theorem State.setAccum_ctxs (s : State) (gid : Nat) (o : Nat) (v : Nat) (n : Nat) : (State.setAccum s gid o v n).ctxs = s.ctxs := by unfold State.setAccum; split <;> rfl
@[simp] theorem State.setAccum_amsgs (s : State) (gid : Nat) (o : Nat) (v : Nat) (n : Nat) : (State.setAccum s gid o v n).amsgs = s.amsgs := by unfold State.setAccum; split <;> rfl
@[simp] theorem State.setAccum_queues (s : State) (gid : Nat) (o : Nat) (v : Nat) (n : Nat) : (State.setAccum s gid o v n).queues = s.queues := by unfold State.setAccum; split <;> rfl
@[simp] theorem State.setAccum_bulks (s : State) (gid : Nat) (o : Nat) (v : Nat) (n : Nat) : (State.setAccum s gid o v n).bulks = s.bulks := by unfold State.setAccum; split <;> rfl
@[simp] theorem State.setAccum_kiln (s : State) (gid : Nat) (o : Nat) (v : Nat) (n : Nat) : (State.setAccum s gid o v n).kiln = s.kiln := by unfold State.setAccum; split <;> rfl
@[simp] theorem State.setAccum_dev (s : State) (gid : Nat) (o : Nat) (v : Nat) (n : Nat) : (State.setAccum s gid o v n).dev = s.dev := by unfold State.setAccum; split <;> rfl

/-! `State.modCmd` changes `cmds`. -/
@[simp] theorem State.modCmd_agenda (s : State) (id : Nat) (f : Cmd → Cmd) : (State.modCmd s id f).agenda = s.agenda := rfl
@[simp] theorem State.modCmd_turn (s : State) (id : Nat) (f : Cmd → Cmd) : (State.modCmd s id f).turn = s.turn := rfl
@[simp] theorem State.modCmd_fresh (s : State) (id : Nat) (f : Cmd → Cmd) : (State.modCmd s id f).fresh = s.fresh := rfl
@[simp] theorem State.modCmd_threads (s : State) (id : Nat) (f : Cmd → Cmd) : (State.modCmd s id f).threads = s.threads := rfl
@[simp] theorem State.modCmd_cohorts (s : State) (id : Nat) (f : Cmd → Cmd) : (State.modCmd s id f).cohorts = s.cohorts := rfl
@[simp] theorem State.modCmd_issues (s : State) (id : Nat) (f : Cmd → Cmd) : (State.modCmd s id f).issues = s.issues := rfl
@[simp] theorem State.modCmd_groups (s : State) (id : Nat) (f : Cmd → Cmd) : (State.modCmd s id f).groups = s.groups := rfl
@[simp] theorem State.modCmd_kernels (s : State) (id : Nat) (f : Cmd → Cmd) : (State.modCmd s id f).kernels = s.kernels := rfl
@[simp] theorem State.modCmd_launches (s : State) (id : Nat) (f : Cmd → Cmd) : (State.modCmd s id f).launches = s.launches := rfl
@[simp] theorem State.modCmd_cores (s : State) (id : Nat) (f : Cmd → Cmd) : (State.modCmd s id f).cores = s.cores := rfl
@[simp] theorem State.modCmd_ops (s : State) (id : Nat) (f : Cmd → Cmd) : (State.modCmd s id f).ops = s.ops := rfl
@[simp] theorem State.modCmd_uses (s : State) (id : Nat) (f : Cmd → Cmd) : (State.modCmd s id f).uses = s.uses := rfl
@[simp] theorem State.modCmd_mgroups (s : State) (id : Nat) (f : Cmd → Cmd) : (State.modCmd s id f).mgroups = s.mgroups := rfl
@[simp] theorem State.modCmd_cmds (s : State) (id : Nat) (f : Cmd → Cmd) : (State.modCmd s id f).cmds = s.cmds.map fun c => if c.id = id then f c else c := rfl
@[simp] theorem State.modCmd_cpys (s : State) (id : Nat) (f : Cmd → Cmd) : (State.modCmd s id f).cpys = s.cpys := rfl
@[simp] theorem State.modCmd_monitors (s : State) (id : Nat) (f : Cmd → Cmd) : (State.modCmd s id f).monitors = s.monitors := rfl
@[simp] theorem State.modCmd_msgs (s : State) (id : Nat) (f : Cmd → Cmd) : (State.modCmd s id f).msgs = s.msgs := rfl
@[simp] theorem State.modCmd_replies (s : State) (id : Nat) (f : Cmd → Cmd) : (State.modCmd s id f).replies = s.replies := rfl
@[simp] theorem State.modCmd_rels (s : State) (id : Nat) (f : Cmd → Cmd) : (State.modCmd s id f).rels = s.rels := rfl
@[simp] theorem State.modCmd_walks (s : State) (id : Nat) (f : Cmd → Cmd) : (State.modCmd s id f).walks = s.walks := rfl
@[simp] theorem State.modCmd_mem (s : State) (id : Nat) (f : Cmd → Cmd) : (State.modCmd s id f).mem = s.mem := rfl
@[simp] theorem State.modCmd_pool (s : State) (id : Nat) (f : Cmd → Cmd) : (State.modCmd s id f).pool = s.pool := rfl
@[simp] theorem State.modCmd_saved (s : State) (id : Nat) (f : Cmd → Cmd) : (State.modCmd s id f).saved = s.saved := rfl
@[simp] theorem State.modCmd_faultRecs (s : State) (id : Nat) (f : Cmd → Cmd) : (State.modCmd s id f).faultRecs = s.faultRecs := rfl
@[simp] theorem State.modCmd_ctxs (s : State) (id : Nat) (f : Cmd → Cmd) : (State.modCmd s id f).ctxs = s.ctxs := rfl
@[simp] theorem State.modCmd_amsgs (s : State) (id : Nat) (f : Cmd → Cmd) : (State.modCmd s id f).amsgs = s.amsgs := rfl
@[simp] theorem State.modCmd_queues (s : State) (id : Nat) (f : Cmd → Cmd) : (State.modCmd s id f).queues = s.queues := rfl
@[simp] theorem State.modCmd_bulks (s : State) (id : Nat) (f : Cmd → Cmd) : (State.modCmd s id f).bulks = s.bulks := rfl
@[simp] theorem State.modCmd_kiln (s : State) (id : Nat) (f : Cmd → Cmd) : (State.modCmd s id f).kiln = s.kiln := rfl
@[simp] theorem State.modCmd_dev (s : State) (id : Nat) (f : Cmd → Cmd) : (State.modCmd s id f).dev = s.dev := rfl

/-! `State.stopEngine` changes `cmds`. -/
@[simp] theorem State.stopEngine_agenda (s : State) (core : Nat) (asid : Nat) : (State.stopEngine s core asid).agenda = s.agenda := rfl
@[simp] theorem State.stopEngine_turn (s : State) (core : Nat) (asid : Nat) : (State.stopEngine s core asid).turn = s.turn := rfl
@[simp] theorem State.stopEngine_fresh (s : State) (core : Nat) (asid : Nat) : (State.stopEngine s core asid).fresh = s.fresh := rfl
@[simp] theorem State.stopEngine_threads (s : State) (core : Nat) (asid : Nat) : (State.stopEngine s core asid).threads = s.threads := rfl
@[simp] theorem State.stopEngine_cohorts (s : State) (core : Nat) (asid : Nat) : (State.stopEngine s core asid).cohorts = s.cohorts := rfl
@[simp] theorem State.stopEngine_issues (s : State) (core : Nat) (asid : Nat) : (State.stopEngine s core asid).issues = s.issues := rfl
@[simp] theorem State.stopEngine_groups (s : State) (core : Nat) (asid : Nat) : (State.stopEngine s core asid).groups = s.groups := rfl
@[simp] theorem State.stopEngine_kernels (s : State) (core : Nat) (asid : Nat) : (State.stopEngine s core asid).kernels = s.kernels := rfl
@[simp] theorem State.stopEngine_launches (s : State) (core : Nat) (asid : Nat) : (State.stopEngine s core asid).launches = s.launches := rfl
@[simp] theorem State.stopEngine_cores (s : State) (core : Nat) (asid : Nat) : (State.stopEngine s core asid).cores = s.cores := rfl
@[simp] theorem State.stopEngine_ops (s : State) (core : Nat) (asid : Nat) : (State.stopEngine s core asid).ops = s.ops := rfl
@[simp] theorem State.stopEngine_uses (s : State) (core : Nat) (asid : Nat) : (State.stopEngine s core asid).uses = s.uses := rfl
@[simp] theorem State.stopEngine_mgroups (s : State) (core : Nat) (asid : Nat) : (State.stopEngine s core asid).mgroups = s.mgroups := rfl
@[simp] theorem State.stopEngine_cpys (s : State) (core : Nat) (asid : Nat) : (State.stopEngine s core asid).cpys = s.cpys := rfl
@[simp] theorem State.stopEngine_monitors (s : State) (core : Nat) (asid : Nat) : (State.stopEngine s core asid).monitors = s.monitors := rfl
@[simp] theorem State.stopEngine_msgs (s : State) (core : Nat) (asid : Nat) : (State.stopEngine s core asid).msgs = s.msgs := rfl
@[simp] theorem State.stopEngine_replies (s : State) (core : Nat) (asid : Nat) : (State.stopEngine s core asid).replies = s.replies := rfl
@[simp] theorem State.stopEngine_rels (s : State) (core : Nat) (asid : Nat) : (State.stopEngine s core asid).rels = s.rels := rfl
@[simp] theorem State.stopEngine_walks (s : State) (core : Nat) (asid : Nat) : (State.stopEngine s core asid).walks = s.walks := rfl
@[simp] theorem State.stopEngine_mem (s : State) (core : Nat) (asid : Nat) : (State.stopEngine s core asid).mem = s.mem := rfl
@[simp] theorem State.stopEngine_pool (s : State) (core : Nat) (asid : Nat) : (State.stopEngine s core asid).pool = s.pool := rfl
@[simp] theorem State.stopEngine_saved (s : State) (core : Nat) (asid : Nat) : (State.stopEngine s core asid).saved = s.saved := rfl
@[simp] theorem State.stopEngine_faultRecs (s : State) (core : Nat) (asid : Nat) : (State.stopEngine s core asid).faultRecs = s.faultRecs := rfl
@[simp] theorem State.stopEngine_ctxs (s : State) (core : Nat) (asid : Nat) : (State.stopEngine s core asid).ctxs = s.ctxs := rfl
@[simp] theorem State.stopEngine_amsgs (s : State) (core : Nat) (asid : Nat) : (State.stopEngine s core asid).amsgs = s.amsgs := rfl
@[simp] theorem State.stopEngine_queues (s : State) (core : Nat) (asid : Nat) : (State.stopEngine s core asid).queues = s.queues := rfl
@[simp] theorem State.stopEngine_bulks (s : State) (core : Nat) (asid : Nat) : (State.stopEngine s core asid).bulks = s.bulks := rfl
@[simp] theorem State.stopEngine_kiln (s : State) (core : Nat) (asid : Nat) : (State.stopEngine s core asid).kiln = s.kiln := rfl
@[simp] theorem State.stopEngine_dev (s : State) (core : Nat) (asid : Nat) : (State.stopEngine s core asid).dev = s.dev := rfl

/-! `State.resumeEngine` changes `cmds`. -/
@[simp] theorem State.resumeEngine_agenda (s : State) (core : Nat) (asid : Nat) : (State.resumeEngine s core asid).agenda = s.agenda := rfl
@[simp] theorem State.resumeEngine_turn (s : State) (core : Nat) (asid : Nat) : (State.resumeEngine s core asid).turn = s.turn := rfl
@[simp] theorem State.resumeEngine_fresh (s : State) (core : Nat) (asid : Nat) : (State.resumeEngine s core asid).fresh = s.fresh := rfl
@[simp] theorem State.resumeEngine_threads (s : State) (core : Nat) (asid : Nat) : (State.resumeEngine s core asid).threads = s.threads := rfl
@[simp] theorem State.resumeEngine_cohorts (s : State) (core : Nat) (asid : Nat) : (State.resumeEngine s core asid).cohorts = s.cohorts := rfl
@[simp] theorem State.resumeEngine_issues (s : State) (core : Nat) (asid : Nat) : (State.resumeEngine s core asid).issues = s.issues := rfl
@[simp] theorem State.resumeEngine_groups (s : State) (core : Nat) (asid : Nat) : (State.resumeEngine s core asid).groups = s.groups := rfl
@[simp] theorem State.resumeEngine_kernels (s : State) (core : Nat) (asid : Nat) : (State.resumeEngine s core asid).kernels = s.kernels := rfl
@[simp] theorem State.resumeEngine_launches (s : State) (core : Nat) (asid : Nat) : (State.resumeEngine s core asid).launches = s.launches := rfl
@[simp] theorem State.resumeEngine_cores (s : State) (core : Nat) (asid : Nat) : (State.resumeEngine s core asid).cores = s.cores := rfl
@[simp] theorem State.resumeEngine_ops (s : State) (core : Nat) (asid : Nat) : (State.resumeEngine s core asid).ops = s.ops := rfl
@[simp] theorem State.resumeEngine_uses (s : State) (core : Nat) (asid : Nat) : (State.resumeEngine s core asid).uses = s.uses := rfl
@[simp] theorem State.resumeEngine_mgroups (s : State) (core : Nat) (asid : Nat) : (State.resumeEngine s core asid).mgroups = s.mgroups := rfl
@[simp] theorem State.resumeEngine_cpys (s : State) (core : Nat) (asid : Nat) : (State.resumeEngine s core asid).cpys = s.cpys := rfl
@[simp] theorem State.resumeEngine_monitors (s : State) (core : Nat) (asid : Nat) : (State.resumeEngine s core asid).monitors = s.monitors := rfl
@[simp] theorem State.resumeEngine_msgs (s : State) (core : Nat) (asid : Nat) : (State.resumeEngine s core asid).msgs = s.msgs := rfl
@[simp] theorem State.resumeEngine_replies (s : State) (core : Nat) (asid : Nat) : (State.resumeEngine s core asid).replies = s.replies := rfl
@[simp] theorem State.resumeEngine_rels (s : State) (core : Nat) (asid : Nat) : (State.resumeEngine s core asid).rels = s.rels := rfl
@[simp] theorem State.resumeEngine_walks (s : State) (core : Nat) (asid : Nat) : (State.resumeEngine s core asid).walks = s.walks := rfl
@[simp] theorem State.resumeEngine_mem (s : State) (core : Nat) (asid : Nat) : (State.resumeEngine s core asid).mem = s.mem := rfl
@[simp] theorem State.resumeEngine_pool (s : State) (core : Nat) (asid : Nat) : (State.resumeEngine s core asid).pool = s.pool := rfl
@[simp] theorem State.resumeEngine_saved (s : State) (core : Nat) (asid : Nat) : (State.resumeEngine s core asid).saved = s.saved := rfl
@[simp] theorem State.resumeEngine_faultRecs (s : State) (core : Nat) (asid : Nat) : (State.resumeEngine s core asid).faultRecs = s.faultRecs := rfl
@[simp] theorem State.resumeEngine_ctxs (s : State) (core : Nat) (asid : Nat) : (State.resumeEngine s core asid).ctxs = s.ctxs := rfl
@[simp] theorem State.resumeEngine_amsgs (s : State) (core : Nat) (asid : Nat) : (State.resumeEngine s core asid).amsgs = s.amsgs := rfl
@[simp] theorem State.resumeEngine_queues (s : State) (core : Nat) (asid : Nat) : (State.resumeEngine s core asid).queues = s.queues := rfl
@[simp] theorem State.resumeEngine_bulks (s : State) (core : Nat) (asid : Nat) : (State.resumeEngine s core asid).bulks = s.bulks := rfl
@[simp] theorem State.resumeEngine_kiln (s : State) (core : Nat) (asid : Nat) : (State.resumeEngine s core asid).kiln = s.kiln := rfl
@[simp] theorem State.resumeEngine_dev (s : State) (core : Nat) (asid : Nat) : (State.resumeEngine s core asid).dev = s.dev := rfl

/-! `State.setPoolWord` changes `pool`. -/
@[simp] theorem State.setPoolWord_agenda (s : State) (b : Nat) (v : Nat) : (State.setPoolWord s b v).agenda = s.agenda := rfl
@[simp] theorem State.setPoolWord_turn (s : State) (b : Nat) (v : Nat) : (State.setPoolWord s b v).turn = s.turn := rfl
@[simp] theorem State.setPoolWord_fresh (s : State) (b : Nat) (v : Nat) : (State.setPoolWord s b v).fresh = s.fresh := rfl
@[simp] theorem State.setPoolWord_threads (s : State) (b : Nat) (v : Nat) : (State.setPoolWord s b v).threads = s.threads := rfl
@[simp] theorem State.setPoolWord_cohorts (s : State) (b : Nat) (v : Nat) : (State.setPoolWord s b v).cohorts = s.cohorts := rfl
@[simp] theorem State.setPoolWord_issues (s : State) (b : Nat) (v : Nat) : (State.setPoolWord s b v).issues = s.issues := rfl
@[simp] theorem State.setPoolWord_groups (s : State) (b : Nat) (v : Nat) : (State.setPoolWord s b v).groups = s.groups := rfl
@[simp] theorem State.setPoolWord_kernels (s : State) (b : Nat) (v : Nat) : (State.setPoolWord s b v).kernels = s.kernels := rfl
@[simp] theorem State.setPoolWord_launches (s : State) (b : Nat) (v : Nat) : (State.setPoolWord s b v).launches = s.launches := rfl
@[simp] theorem State.setPoolWord_cores (s : State) (b : Nat) (v : Nat) : (State.setPoolWord s b v).cores = s.cores := rfl
@[simp] theorem State.setPoolWord_ops (s : State) (b : Nat) (v : Nat) : (State.setPoolWord s b v).ops = s.ops := rfl
@[simp] theorem State.setPoolWord_uses (s : State) (b : Nat) (v : Nat) : (State.setPoolWord s b v).uses = s.uses := rfl
@[simp] theorem State.setPoolWord_mgroups (s : State) (b : Nat) (v : Nat) : (State.setPoolWord s b v).mgroups = s.mgroups := rfl
@[simp] theorem State.setPoolWord_cmds (s : State) (b : Nat) (v : Nat) : (State.setPoolWord s b v).cmds = s.cmds := rfl
@[simp] theorem State.setPoolWord_cpys (s : State) (b : Nat) (v : Nat) : (State.setPoolWord s b v).cpys = s.cpys := rfl
@[simp] theorem State.setPoolWord_monitors (s : State) (b : Nat) (v : Nat) : (State.setPoolWord s b v).monitors = s.monitors := rfl
@[simp] theorem State.setPoolWord_msgs (s : State) (b : Nat) (v : Nat) : (State.setPoolWord s b v).msgs = s.msgs := rfl
@[simp] theorem State.setPoolWord_replies (s : State) (b : Nat) (v : Nat) : (State.setPoolWord s b v).replies = s.replies := rfl
@[simp] theorem State.setPoolWord_rels (s : State) (b : Nat) (v : Nat) : (State.setPoolWord s b v).rels = s.rels := rfl
@[simp] theorem State.setPoolWord_walks (s : State) (b : Nat) (v : Nat) : (State.setPoolWord s b v).walks = s.walks := rfl
@[simp] theorem State.setPoolWord_mem (s : State) (b : Nat) (v : Nat) : (State.setPoolWord s b v).mem = s.mem := rfl
@[simp] theorem State.setPoolWord_saved (s : State) (b : Nat) (v : Nat) : (State.setPoolWord s b v).saved = s.saved := rfl
@[simp] theorem State.setPoolWord_faultRecs (s : State) (b : Nat) (v : Nat) : (State.setPoolWord s b v).faultRecs = s.faultRecs := rfl
@[simp] theorem State.setPoolWord_ctxs (s : State) (b : Nat) (v : Nat) : (State.setPoolWord s b v).ctxs = s.ctxs := rfl
@[simp] theorem State.setPoolWord_amsgs (s : State) (b : Nat) (v : Nat) : (State.setPoolWord s b v).amsgs = s.amsgs := rfl
@[simp] theorem State.setPoolWord_queues (s : State) (b : Nat) (v : Nat) : (State.setPoolWord s b v).queues = s.queues := rfl
@[simp] theorem State.setPoolWord_bulks (s : State) (b : Nat) (v : Nat) : (State.setPoolWord s b v).bulks = s.bulks := rfl
@[simp] theorem State.setPoolWord_kiln (s : State) (b : Nat) (v : Nat) : (State.setPoolWord s b v).kiln = s.kiln := rfl
@[simp] theorem State.setPoolWord_dev (s : State) (b : Nat) (v : Nat) : (State.setPoolWord s b v).dev = s.dev := rfl

/-! `State.modQueue` changes `queues`. -/
@[simp] theorem State.modQueue_agenda (s : State) (q : Nat) (f : HQueue → HQueue) : (State.modQueue s q f).agenda = s.agenda := rfl
@[simp] theorem State.modQueue_turn (s : State) (q : Nat) (f : HQueue → HQueue) : (State.modQueue s q f).turn = s.turn := rfl
@[simp] theorem State.modQueue_fresh (s : State) (q : Nat) (f : HQueue → HQueue) : (State.modQueue s q f).fresh = s.fresh := rfl
@[simp] theorem State.modQueue_threads (s : State) (q : Nat) (f : HQueue → HQueue) : (State.modQueue s q f).threads = s.threads := rfl
@[simp] theorem State.modQueue_cohorts (s : State) (q : Nat) (f : HQueue → HQueue) : (State.modQueue s q f).cohorts = s.cohorts := rfl
@[simp] theorem State.modQueue_issues (s : State) (q : Nat) (f : HQueue → HQueue) : (State.modQueue s q f).issues = s.issues := rfl
@[simp] theorem State.modQueue_groups (s : State) (q : Nat) (f : HQueue → HQueue) : (State.modQueue s q f).groups = s.groups := rfl
@[simp] theorem State.modQueue_kernels (s : State) (q : Nat) (f : HQueue → HQueue) : (State.modQueue s q f).kernels = s.kernels := rfl
@[simp] theorem State.modQueue_launches (s : State) (q : Nat) (f : HQueue → HQueue) : (State.modQueue s q f).launches = s.launches := rfl
@[simp] theorem State.modQueue_cores (s : State) (q : Nat) (f : HQueue → HQueue) : (State.modQueue s q f).cores = s.cores := rfl
@[simp] theorem State.modQueue_ops (s : State) (q : Nat) (f : HQueue → HQueue) : (State.modQueue s q f).ops = s.ops := rfl
@[simp] theorem State.modQueue_uses (s : State) (q : Nat) (f : HQueue → HQueue) : (State.modQueue s q f).uses = s.uses := rfl
@[simp] theorem State.modQueue_mgroups (s : State) (q : Nat) (f : HQueue → HQueue) : (State.modQueue s q f).mgroups = s.mgroups := rfl
@[simp] theorem State.modQueue_cmds (s : State) (q : Nat) (f : HQueue → HQueue) : (State.modQueue s q f).cmds = s.cmds := rfl
@[simp] theorem State.modQueue_cpys (s : State) (q : Nat) (f : HQueue → HQueue) : (State.modQueue s q f).cpys = s.cpys := rfl
@[simp] theorem State.modQueue_monitors (s : State) (q : Nat) (f : HQueue → HQueue) : (State.modQueue s q f).monitors = s.monitors := rfl
@[simp] theorem State.modQueue_msgs (s : State) (q : Nat) (f : HQueue → HQueue) : (State.modQueue s q f).msgs = s.msgs := rfl
@[simp] theorem State.modQueue_replies (s : State) (q : Nat) (f : HQueue → HQueue) : (State.modQueue s q f).replies = s.replies := rfl
@[simp] theorem State.modQueue_rels (s : State) (q : Nat) (f : HQueue → HQueue) : (State.modQueue s q f).rels = s.rels := rfl
@[simp] theorem State.modQueue_walks (s : State) (q : Nat) (f : HQueue → HQueue) : (State.modQueue s q f).walks = s.walks := rfl
@[simp] theorem State.modQueue_mem (s : State) (q : Nat) (f : HQueue → HQueue) : (State.modQueue s q f).mem = s.mem := rfl
@[simp] theorem State.modQueue_pool (s : State) (q : Nat) (f : HQueue → HQueue) : (State.modQueue s q f).pool = s.pool := rfl
@[simp] theorem State.modQueue_saved (s : State) (q : Nat) (f : HQueue → HQueue) : (State.modQueue s q f).saved = s.saved := rfl
@[simp] theorem State.modQueue_faultRecs (s : State) (q : Nat) (f : HQueue → HQueue) : (State.modQueue s q f).faultRecs = s.faultRecs := rfl
@[simp] theorem State.modQueue_ctxs (s : State) (q : Nat) (f : HQueue → HQueue) : (State.modQueue s q f).ctxs = s.ctxs := rfl
@[simp] theorem State.modQueue_amsgs (s : State) (q : Nat) (f : HQueue → HQueue) : (State.modQueue s q f).amsgs = s.amsgs := rfl
@[simp] theorem State.modQueue_bulks (s : State) (q : Nat) (f : HQueue → HQueue) : (State.modQueue s q f).bulks = s.bulks := rfl
@[simp] theorem State.modQueue_kiln (s : State) (q : Nat) (f : HQueue → HQueue) : (State.modQueue s q f).kiln = s.kiln := rfl
@[simp] theorem State.modQueue_dev (s : State) (q : Nat) (f : HQueue → HQueue) : (State.modQueue s q f).dev = s.dev := rfl

/-! `State.packetEnds` changes `queues`. -/
@[simp] theorem State.packetEnds_agenda (s : State) (q : Nat) (idx : Nat) (cause : Nat) : (State.packetEnds s q idx cause).agenda = s.agenda := rfl
@[simp] theorem State.packetEnds_turn (s : State) (q : Nat) (idx : Nat) (cause : Nat) : (State.packetEnds s q idx cause).turn = s.turn := rfl
@[simp] theorem State.packetEnds_fresh (s : State) (q : Nat) (idx : Nat) (cause : Nat) : (State.packetEnds s q idx cause).fresh = s.fresh := rfl
@[simp] theorem State.packetEnds_threads (s : State) (q : Nat) (idx : Nat) (cause : Nat) : (State.packetEnds s q idx cause).threads = s.threads := rfl
@[simp] theorem State.packetEnds_cohorts (s : State) (q : Nat) (idx : Nat) (cause : Nat) : (State.packetEnds s q idx cause).cohorts = s.cohorts := rfl
@[simp] theorem State.packetEnds_issues (s : State) (q : Nat) (idx : Nat) (cause : Nat) : (State.packetEnds s q idx cause).issues = s.issues := rfl
@[simp] theorem State.packetEnds_groups (s : State) (q : Nat) (idx : Nat) (cause : Nat) : (State.packetEnds s q idx cause).groups = s.groups := rfl
@[simp] theorem State.packetEnds_kernels (s : State) (q : Nat) (idx : Nat) (cause : Nat) : (State.packetEnds s q idx cause).kernels = s.kernels := rfl
@[simp] theorem State.packetEnds_launches (s : State) (q : Nat) (idx : Nat) (cause : Nat) : (State.packetEnds s q idx cause).launches = s.launches := rfl
@[simp] theorem State.packetEnds_cores (s : State) (q : Nat) (idx : Nat) (cause : Nat) : (State.packetEnds s q idx cause).cores = s.cores := rfl
@[simp] theorem State.packetEnds_ops (s : State) (q : Nat) (idx : Nat) (cause : Nat) : (State.packetEnds s q idx cause).ops = s.ops := rfl
@[simp] theorem State.packetEnds_uses (s : State) (q : Nat) (idx : Nat) (cause : Nat) : (State.packetEnds s q idx cause).uses = s.uses := rfl
@[simp] theorem State.packetEnds_mgroups (s : State) (q : Nat) (idx : Nat) (cause : Nat) : (State.packetEnds s q idx cause).mgroups = s.mgroups := rfl
@[simp] theorem State.packetEnds_cmds (s : State) (q : Nat) (idx : Nat) (cause : Nat) : (State.packetEnds s q idx cause).cmds = s.cmds := rfl
@[simp] theorem State.packetEnds_cpys (s : State) (q : Nat) (idx : Nat) (cause : Nat) : (State.packetEnds s q idx cause).cpys = s.cpys := rfl
@[simp] theorem State.packetEnds_monitors (s : State) (q : Nat) (idx : Nat) (cause : Nat) : (State.packetEnds s q idx cause).monitors = s.monitors := rfl
@[simp] theorem State.packetEnds_msgs (s : State) (q : Nat) (idx : Nat) (cause : Nat) : (State.packetEnds s q idx cause).msgs = s.msgs := rfl
@[simp] theorem State.packetEnds_replies (s : State) (q : Nat) (idx : Nat) (cause : Nat) : (State.packetEnds s q idx cause).replies = s.replies := rfl
@[simp] theorem State.packetEnds_rels (s : State) (q : Nat) (idx : Nat) (cause : Nat) : (State.packetEnds s q idx cause).rels = s.rels := rfl
@[simp] theorem State.packetEnds_walks (s : State) (q : Nat) (idx : Nat) (cause : Nat) : (State.packetEnds s q idx cause).walks = s.walks := rfl
@[simp] theorem State.packetEnds_mem (s : State) (q : Nat) (idx : Nat) (cause : Nat) : (State.packetEnds s q idx cause).mem = s.mem := rfl
@[simp] theorem State.packetEnds_pool (s : State) (q : Nat) (idx : Nat) (cause : Nat) : (State.packetEnds s q idx cause).pool = s.pool := rfl
@[simp] theorem State.packetEnds_saved (s : State) (q : Nat) (idx : Nat) (cause : Nat) : (State.packetEnds s q idx cause).saved = s.saved := rfl
@[simp] theorem State.packetEnds_faultRecs (s : State) (q : Nat) (idx : Nat) (cause : Nat) : (State.packetEnds s q idx cause).faultRecs = s.faultRecs := rfl
@[simp] theorem State.packetEnds_ctxs (s : State) (q : Nat) (idx : Nat) (cause : Nat) : (State.packetEnds s q idx cause).ctxs = s.ctxs := rfl
@[simp] theorem State.packetEnds_amsgs (s : State) (q : Nat) (idx : Nat) (cause : Nat) : (State.packetEnds s q idx cause).amsgs = s.amsgs := rfl
@[simp] theorem State.packetEnds_bulks (s : State) (q : Nat) (idx : Nat) (cause : Nat) : (State.packetEnds s q idx cause).bulks = s.bulks := rfl
@[simp] theorem State.packetEnds_kiln (s : State) (q : Nat) (idx : Nat) (cause : Nat) : (State.packetEnds s q idx cause).kiln = s.kiln := rfl
@[simp] theorem State.packetEnds_dev (s : State) (q : Nat) (idx : Nat) (cause : Nat) : (State.packetEnds s q idx cause).dev = s.dev := rfl

/-! `State.takeLaunch` changes `launches`. -/
@[simp] theorem State.takeLaunch_agenda (s : State) (l : LaunchReq) : (State.takeLaunch s l).agenda = s.agenda := rfl
@[simp] theorem State.takeLaunch_turn (s : State) (l : LaunchReq) : (State.takeLaunch s l).turn = s.turn := rfl
@[simp] theorem State.takeLaunch_fresh (s : State) (l : LaunchReq) : (State.takeLaunch s l).fresh = s.fresh := rfl
@[simp] theorem State.takeLaunch_threads (s : State) (l : LaunchReq) : (State.takeLaunch s l).threads = s.threads := rfl
@[simp] theorem State.takeLaunch_cohorts (s : State) (l : LaunchReq) : (State.takeLaunch s l).cohorts = s.cohorts := rfl
@[simp] theorem State.takeLaunch_issues (s : State) (l : LaunchReq) : (State.takeLaunch s l).issues = s.issues := rfl
@[simp] theorem State.takeLaunch_groups (s : State) (l : LaunchReq) : (State.takeLaunch s l).groups = s.groups := rfl
@[simp] theorem State.takeLaunch_kernels (s : State) (l : LaunchReq) : (State.takeLaunch s l).kernels = s.kernels := rfl
@[simp] theorem State.takeLaunch_cores (s : State) (l : LaunchReq) : (State.takeLaunch s l).cores = s.cores := rfl
@[simp] theorem State.takeLaunch_ops (s : State) (l : LaunchReq) : (State.takeLaunch s l).ops = s.ops := rfl
@[simp] theorem State.takeLaunch_uses (s : State) (l : LaunchReq) : (State.takeLaunch s l).uses = s.uses := rfl
@[simp] theorem State.takeLaunch_mgroups (s : State) (l : LaunchReq) : (State.takeLaunch s l).mgroups = s.mgroups := rfl
@[simp] theorem State.takeLaunch_cmds (s : State) (l : LaunchReq) : (State.takeLaunch s l).cmds = s.cmds := rfl
@[simp] theorem State.takeLaunch_cpys (s : State) (l : LaunchReq) : (State.takeLaunch s l).cpys = s.cpys := rfl
@[simp] theorem State.takeLaunch_monitors (s : State) (l : LaunchReq) : (State.takeLaunch s l).monitors = s.monitors := rfl
@[simp] theorem State.takeLaunch_msgs (s : State) (l : LaunchReq) : (State.takeLaunch s l).msgs = s.msgs := rfl
@[simp] theorem State.takeLaunch_replies (s : State) (l : LaunchReq) : (State.takeLaunch s l).replies = s.replies := rfl
@[simp] theorem State.takeLaunch_rels (s : State) (l : LaunchReq) : (State.takeLaunch s l).rels = s.rels := rfl
@[simp] theorem State.takeLaunch_walks (s : State) (l : LaunchReq) : (State.takeLaunch s l).walks = s.walks := rfl
@[simp] theorem State.takeLaunch_mem (s : State) (l : LaunchReq) : (State.takeLaunch s l).mem = s.mem := rfl
@[simp] theorem State.takeLaunch_pool (s : State) (l : LaunchReq) : (State.takeLaunch s l).pool = s.pool := rfl
@[simp] theorem State.takeLaunch_saved (s : State) (l : LaunchReq) : (State.takeLaunch s l).saved = s.saved := rfl
@[simp] theorem State.takeLaunch_faultRecs (s : State) (l : LaunchReq) : (State.takeLaunch s l).faultRecs = s.faultRecs := rfl
@[simp] theorem State.takeLaunch_ctxs (s : State) (l : LaunchReq) : (State.takeLaunch s l).ctxs = s.ctxs := rfl
@[simp] theorem State.takeLaunch_amsgs (s : State) (l : LaunchReq) : (State.takeLaunch s l).amsgs = s.amsgs := rfl
@[simp] theorem State.takeLaunch_queues (s : State) (l : LaunchReq) : (State.takeLaunch s l).queues = s.queues := rfl
@[simp] theorem State.takeLaunch_bulks (s : State) (l : LaunchReq) : (State.takeLaunch s l).bulks = s.bulks := rfl
@[simp] theorem State.takeLaunch_kiln (s : State) (l : LaunchReq) : (State.takeLaunch s l).kiln = s.kiln := rfl
@[simp] theorem State.takeLaunch_dev (s : State) (l : LaunchReq) : (State.takeLaunch s l).dev = s.dev := rfl

/-! `State.setHdr` changes `mem`. -/
@[simp] theorem State.setHdr_agenda (s : State) (asid : Nat) (hdr : Nat) (i : Nat) (v : Nat) : (State.setHdr s asid hdr i v).agenda = s.agenda := by unfold State.setHdr; simp
@[simp] theorem State.setHdr_turn (s : State) (asid : Nat) (hdr : Nat) (i : Nat) (v : Nat) : (State.setHdr s asid hdr i v).turn = s.turn := by unfold State.setHdr; simp
@[simp] theorem State.setHdr_fresh (s : State) (asid : Nat) (hdr : Nat) (i : Nat) (v : Nat) : (State.setHdr s asid hdr i v).fresh = s.fresh := by unfold State.setHdr; simp
@[simp] theorem State.setHdr_threads (s : State) (asid : Nat) (hdr : Nat) (i : Nat) (v : Nat) : (State.setHdr s asid hdr i v).threads = s.threads := by unfold State.setHdr; simp
@[simp] theorem State.setHdr_cohorts (s : State) (asid : Nat) (hdr : Nat) (i : Nat) (v : Nat) : (State.setHdr s asid hdr i v).cohorts = s.cohorts := by unfold State.setHdr; simp
@[simp] theorem State.setHdr_issues (s : State) (asid : Nat) (hdr : Nat) (i : Nat) (v : Nat) : (State.setHdr s asid hdr i v).issues = s.issues := by unfold State.setHdr; simp
@[simp] theorem State.setHdr_groups (s : State) (asid : Nat) (hdr : Nat) (i : Nat) (v : Nat) : (State.setHdr s asid hdr i v).groups = s.groups := by unfold State.setHdr; simp
@[simp] theorem State.setHdr_kernels (s : State) (asid : Nat) (hdr : Nat) (i : Nat) (v : Nat) : (State.setHdr s asid hdr i v).kernels = s.kernels := by unfold State.setHdr; simp
@[simp] theorem State.setHdr_launches (s : State) (asid : Nat) (hdr : Nat) (i : Nat) (v : Nat) : (State.setHdr s asid hdr i v).launches = s.launches := by unfold State.setHdr; simp
@[simp] theorem State.setHdr_cores (s : State) (asid : Nat) (hdr : Nat) (i : Nat) (v : Nat) : (State.setHdr s asid hdr i v).cores = s.cores := by unfold State.setHdr; simp
@[simp] theorem State.setHdr_ops (s : State) (asid : Nat) (hdr : Nat) (i : Nat) (v : Nat) : (State.setHdr s asid hdr i v).ops = s.ops := by unfold State.setHdr; simp
@[simp] theorem State.setHdr_uses (s : State) (asid : Nat) (hdr : Nat) (i : Nat) (v : Nat) : (State.setHdr s asid hdr i v).uses = s.uses := by unfold State.setHdr; simp
@[simp] theorem State.setHdr_mgroups (s : State) (asid : Nat) (hdr : Nat) (i : Nat) (v : Nat) : (State.setHdr s asid hdr i v).mgroups = s.mgroups := by unfold State.setHdr; simp
@[simp] theorem State.setHdr_cmds (s : State) (asid : Nat) (hdr : Nat) (i : Nat) (v : Nat) : (State.setHdr s asid hdr i v).cmds = s.cmds := by unfold State.setHdr; simp
@[simp] theorem State.setHdr_cpys (s : State) (asid : Nat) (hdr : Nat) (i : Nat) (v : Nat) : (State.setHdr s asid hdr i v).cpys = s.cpys := by unfold State.setHdr; simp
@[simp] theorem State.setHdr_monitors (s : State) (asid : Nat) (hdr : Nat) (i : Nat) (v : Nat) : (State.setHdr s asid hdr i v).monitors = s.monitors := by unfold State.setHdr; simp
@[simp] theorem State.setHdr_msgs (s : State) (asid : Nat) (hdr : Nat) (i : Nat) (v : Nat) : (State.setHdr s asid hdr i v).msgs = s.msgs := by unfold State.setHdr; simp
@[simp] theorem State.setHdr_replies (s : State) (asid : Nat) (hdr : Nat) (i : Nat) (v : Nat) : (State.setHdr s asid hdr i v).replies = s.replies := by unfold State.setHdr; simp
@[simp] theorem State.setHdr_rels (s : State) (asid : Nat) (hdr : Nat) (i : Nat) (v : Nat) : (State.setHdr s asid hdr i v).rels = s.rels := by unfold State.setHdr; simp
@[simp] theorem State.setHdr_walks (s : State) (asid : Nat) (hdr : Nat) (i : Nat) (v : Nat) : (State.setHdr s asid hdr i v).walks = s.walks := by unfold State.setHdr; simp
@[simp] theorem State.setHdr_pool (s : State) (asid : Nat) (hdr : Nat) (i : Nat) (v : Nat) : (State.setHdr s asid hdr i v).pool = s.pool := by unfold State.setHdr; simp
@[simp] theorem State.setHdr_saved (s : State) (asid : Nat) (hdr : Nat) (i : Nat) (v : Nat) : (State.setHdr s asid hdr i v).saved = s.saved := by unfold State.setHdr; simp
@[simp] theorem State.setHdr_faultRecs (s : State) (asid : Nat) (hdr : Nat) (i : Nat) (v : Nat) : (State.setHdr s asid hdr i v).faultRecs = s.faultRecs := by unfold State.setHdr; simp
@[simp] theorem State.setHdr_ctxs (s : State) (asid : Nat) (hdr : Nat) (i : Nat) (v : Nat) : (State.setHdr s asid hdr i v).ctxs = s.ctxs := by unfold State.setHdr; simp
@[simp] theorem State.setHdr_amsgs (s : State) (asid : Nat) (hdr : Nat) (i : Nat) (v : Nat) : (State.setHdr s asid hdr i v).amsgs = s.amsgs := by unfold State.setHdr; simp
@[simp] theorem State.setHdr_queues (s : State) (asid : Nat) (hdr : Nat) (i : Nat) (v : Nat) : (State.setHdr s asid hdr i v).queues = s.queues := by unfold State.setHdr; simp
@[simp] theorem State.setHdr_bulks (s : State) (asid : Nat) (hdr : Nat) (i : Nat) (v : Nat) : (State.setHdr s asid hdr i v).bulks = s.bulks := by unfold State.setHdr; simp
@[simp] theorem State.setHdr_kiln (s : State) (asid : Nat) (hdr : Nat) (i : Nat) (v : Nat) : (State.setHdr s asid hdr i v).kiln = s.kiln := by unfold State.setHdr; simp
@[simp] theorem State.setHdr_dev (s : State) (asid : Nat) (hdr : Nat) (i : Nat) (v : Nat) : (State.setHdr s asid hdr i v).dev = s.dev := by unfold State.setHdr; simp

/-! `State.answerPop` changes `ops`. -/
@[simp] theorem State.answerPop_agenda (s : State) (o : Op) (v : Nat) : (State.answerPop s o v).agenda = s.agenda := rfl
@[simp] theorem State.answerPop_turn (s : State) (o : Op) (v : Nat) : (State.answerPop s o v).turn = s.turn := rfl
@[simp] theorem State.answerPop_fresh (s : State) (o : Op) (v : Nat) : (State.answerPop s o v).fresh = s.fresh := rfl
@[simp] theorem State.answerPop_threads (s : State) (o : Op) (v : Nat) : (State.answerPop s o v).threads = s.threads := rfl
@[simp] theorem State.answerPop_cohorts (s : State) (o : Op) (v : Nat) : (State.answerPop s o v).cohorts = s.cohorts := rfl
@[simp] theorem State.answerPop_issues (s : State) (o : Op) (v : Nat) : (State.answerPop s o v).issues = s.issues := rfl
@[simp] theorem State.answerPop_groups (s : State) (o : Op) (v : Nat) : (State.answerPop s o v).groups = s.groups := rfl
@[simp] theorem State.answerPop_kernels (s : State) (o : Op) (v : Nat) : (State.answerPop s o v).kernels = s.kernels := rfl
@[simp] theorem State.answerPop_launches (s : State) (o : Op) (v : Nat) : (State.answerPop s o v).launches = s.launches := rfl
@[simp] theorem State.answerPop_cores (s : State) (o : Op) (v : Nat) : (State.answerPop s o v).cores = s.cores := rfl
@[simp] theorem State.answerPop_uses (s : State) (o : Op) (v : Nat) : (State.answerPop s o v).uses = s.uses := rfl
@[simp] theorem State.answerPop_mgroups (s : State) (o : Op) (v : Nat) : (State.answerPop s o v).mgroups = s.mgroups := rfl
@[simp] theorem State.answerPop_cmds (s : State) (o : Op) (v : Nat) : (State.answerPop s o v).cmds = s.cmds := rfl
@[simp] theorem State.answerPop_cpys (s : State) (o : Op) (v : Nat) : (State.answerPop s o v).cpys = s.cpys := rfl
@[simp] theorem State.answerPop_monitors (s : State) (o : Op) (v : Nat) : (State.answerPop s o v).monitors = s.monitors := rfl
@[simp] theorem State.answerPop_msgs (s : State) (o : Op) (v : Nat) : (State.answerPop s o v).msgs = s.msgs := rfl
@[simp] theorem State.answerPop_replies (s : State) (o : Op) (v : Nat) : (State.answerPop s o v).replies = s.replies := rfl
@[simp] theorem State.answerPop_rels (s : State) (o : Op) (v : Nat) : (State.answerPop s o v).rels = s.rels := rfl
@[simp] theorem State.answerPop_walks (s : State) (o : Op) (v : Nat) : (State.answerPop s o v).walks = s.walks := rfl
@[simp] theorem State.answerPop_mem (s : State) (o : Op) (v : Nat) : (State.answerPop s o v).mem = s.mem := rfl
@[simp] theorem State.answerPop_pool (s : State) (o : Op) (v : Nat) : (State.answerPop s o v).pool = s.pool := rfl
@[simp] theorem State.answerPop_saved (s : State) (o : Op) (v : Nat) : (State.answerPop s o v).saved = s.saved := rfl
@[simp] theorem State.answerPop_faultRecs (s : State) (o : Op) (v : Nat) : (State.answerPop s o v).faultRecs = s.faultRecs := rfl
@[simp] theorem State.answerPop_ctxs (s : State) (o : Op) (v : Nat) : (State.answerPop s o v).ctxs = s.ctxs := rfl
@[simp] theorem State.answerPop_amsgs (s : State) (o : Op) (v : Nat) : (State.answerPop s o v).amsgs = s.amsgs := rfl
@[simp] theorem State.answerPop_queues (s : State) (o : Op) (v : Nat) : (State.answerPop s o v).queues = s.queues := rfl
@[simp] theorem State.answerPop_bulks (s : State) (o : Op) (v : Nat) : (State.answerPop s o v).bulks = s.bulks := rfl
@[simp] theorem State.answerPop_kiln (s : State) (o : Op) (v : Nat) : (State.answerPop s o v).kiln = s.kiln := rfl
@[simp] theorem State.answerPop_dev (s : State) (o : Op) (v : Nat) : (State.answerPop s o v).dev = s.dev := rfl

/-! `State.setKilnAt` changes `kiln`. -/
@[simp] theorem State.setKilnAt_agenda (s : State) (i : Nat) (k : KilnCore) : (State.setKilnAt s i k).agenda = s.agenda := rfl
@[simp] theorem State.setKilnAt_turn (s : State) (i : Nat) (k : KilnCore) : (State.setKilnAt s i k).turn = s.turn := rfl
@[simp] theorem State.setKilnAt_fresh (s : State) (i : Nat) (k : KilnCore) : (State.setKilnAt s i k).fresh = s.fresh := rfl
@[simp] theorem State.setKilnAt_threads (s : State) (i : Nat) (k : KilnCore) : (State.setKilnAt s i k).threads = s.threads := rfl
@[simp] theorem State.setKilnAt_cohorts (s : State) (i : Nat) (k : KilnCore) : (State.setKilnAt s i k).cohorts = s.cohorts := rfl
@[simp] theorem State.setKilnAt_issues (s : State) (i : Nat) (k : KilnCore) : (State.setKilnAt s i k).issues = s.issues := rfl
@[simp] theorem State.setKilnAt_groups (s : State) (i : Nat) (k : KilnCore) : (State.setKilnAt s i k).groups = s.groups := rfl
@[simp] theorem State.setKilnAt_kernels (s : State) (i : Nat) (k : KilnCore) : (State.setKilnAt s i k).kernels = s.kernels := rfl
@[simp] theorem State.setKilnAt_launches (s : State) (i : Nat) (k : KilnCore) : (State.setKilnAt s i k).launches = s.launches := rfl
@[simp] theorem State.setKilnAt_cores (s : State) (i : Nat) (k : KilnCore) : (State.setKilnAt s i k).cores = s.cores := rfl
@[simp] theorem State.setKilnAt_ops (s : State) (i : Nat) (k : KilnCore) : (State.setKilnAt s i k).ops = s.ops := rfl
@[simp] theorem State.setKilnAt_uses (s : State) (i : Nat) (k : KilnCore) : (State.setKilnAt s i k).uses = s.uses := rfl
@[simp] theorem State.setKilnAt_mgroups (s : State) (i : Nat) (k : KilnCore) : (State.setKilnAt s i k).mgroups = s.mgroups := rfl
@[simp] theorem State.setKilnAt_cmds (s : State) (i : Nat) (k : KilnCore) : (State.setKilnAt s i k).cmds = s.cmds := rfl
@[simp] theorem State.setKilnAt_cpys (s : State) (i : Nat) (k : KilnCore) : (State.setKilnAt s i k).cpys = s.cpys := rfl
@[simp] theorem State.setKilnAt_monitors (s : State) (i : Nat) (k : KilnCore) : (State.setKilnAt s i k).monitors = s.monitors := rfl
@[simp] theorem State.setKilnAt_msgs (s : State) (i : Nat) (k : KilnCore) : (State.setKilnAt s i k).msgs = s.msgs := rfl
@[simp] theorem State.setKilnAt_replies (s : State) (i : Nat) (k : KilnCore) : (State.setKilnAt s i k).replies = s.replies := rfl
@[simp] theorem State.setKilnAt_rels (s : State) (i : Nat) (k : KilnCore) : (State.setKilnAt s i k).rels = s.rels := rfl
@[simp] theorem State.setKilnAt_walks (s : State) (i : Nat) (k : KilnCore) : (State.setKilnAt s i k).walks = s.walks := rfl
@[simp] theorem State.setKilnAt_mem (s : State) (i : Nat) (k : KilnCore) : (State.setKilnAt s i k).mem = s.mem := rfl
@[simp] theorem State.setKilnAt_pool (s : State) (i : Nat) (k : KilnCore) : (State.setKilnAt s i k).pool = s.pool := rfl
@[simp] theorem State.setKilnAt_saved (s : State) (i : Nat) (k : KilnCore) : (State.setKilnAt s i k).saved = s.saved := rfl
@[simp] theorem State.setKilnAt_faultRecs (s : State) (i : Nat) (k : KilnCore) : (State.setKilnAt s i k).faultRecs = s.faultRecs := rfl
@[simp] theorem State.setKilnAt_ctxs (s : State) (i : Nat) (k : KilnCore) : (State.setKilnAt s i k).ctxs = s.ctxs := rfl
@[simp] theorem State.setKilnAt_amsgs (s : State) (i : Nat) (k : KilnCore) : (State.setKilnAt s i k).amsgs = s.amsgs := rfl
@[simp] theorem State.setKilnAt_queues (s : State) (i : Nat) (k : KilnCore) : (State.setKilnAt s i k).queues = s.queues := rfl
@[simp] theorem State.setKilnAt_bulks (s : State) (i : Nat) (k : KilnCore) : (State.setKilnAt s i k).bulks = s.bulks := rfl
@[simp] theorem State.setKilnAt_dev (s : State) (i : Nat) (k : KilnCore) : (State.setKilnAt s i k).dev = s.dev := rfl

/-! `State.setKiln` changes `kiln`. -/
@[simp] theorem State.setKiln_agenda (s : State) (k : KilnCore) : (State.setKiln s k).agenda = s.agenda := rfl
@[simp] theorem State.setKiln_turn (s : State) (k : KilnCore) : (State.setKiln s k).turn = s.turn := rfl
@[simp] theorem State.setKiln_fresh (s : State) (k : KilnCore) : (State.setKiln s k).fresh = s.fresh := rfl
@[simp] theorem State.setKiln_threads (s : State) (k : KilnCore) : (State.setKiln s k).threads = s.threads := rfl
@[simp] theorem State.setKiln_cohorts (s : State) (k : KilnCore) : (State.setKiln s k).cohorts = s.cohorts := rfl
@[simp] theorem State.setKiln_issues (s : State) (k : KilnCore) : (State.setKiln s k).issues = s.issues := rfl
@[simp] theorem State.setKiln_groups (s : State) (k : KilnCore) : (State.setKiln s k).groups = s.groups := rfl
@[simp] theorem State.setKiln_kernels (s : State) (k : KilnCore) : (State.setKiln s k).kernels = s.kernels := rfl
@[simp] theorem State.setKiln_launches (s : State) (k : KilnCore) : (State.setKiln s k).launches = s.launches := rfl
@[simp] theorem State.setKiln_cores (s : State) (k : KilnCore) : (State.setKiln s k).cores = s.cores := rfl
@[simp] theorem State.setKiln_ops (s : State) (k : KilnCore) : (State.setKiln s k).ops = s.ops := rfl
@[simp] theorem State.setKiln_uses (s : State) (k : KilnCore) : (State.setKiln s k).uses = s.uses := rfl
@[simp] theorem State.setKiln_mgroups (s : State) (k : KilnCore) : (State.setKiln s k).mgroups = s.mgroups := rfl
@[simp] theorem State.setKiln_cmds (s : State) (k : KilnCore) : (State.setKiln s k).cmds = s.cmds := rfl
@[simp] theorem State.setKiln_cpys (s : State) (k : KilnCore) : (State.setKiln s k).cpys = s.cpys := rfl
@[simp] theorem State.setKiln_monitors (s : State) (k : KilnCore) : (State.setKiln s k).monitors = s.monitors := rfl
@[simp] theorem State.setKiln_msgs (s : State) (k : KilnCore) : (State.setKiln s k).msgs = s.msgs := rfl
@[simp] theorem State.setKiln_replies (s : State) (k : KilnCore) : (State.setKiln s k).replies = s.replies := rfl
@[simp] theorem State.setKiln_rels (s : State) (k : KilnCore) : (State.setKiln s k).rels = s.rels := rfl
@[simp] theorem State.setKiln_walks (s : State) (k : KilnCore) : (State.setKiln s k).walks = s.walks := rfl
@[simp] theorem State.setKiln_mem (s : State) (k : KilnCore) : (State.setKiln s k).mem = s.mem := rfl
@[simp] theorem State.setKiln_pool (s : State) (k : KilnCore) : (State.setKiln s k).pool = s.pool := rfl
@[simp] theorem State.setKiln_saved (s : State) (k : KilnCore) : (State.setKiln s k).saved = s.saved := rfl
@[simp] theorem State.setKiln_faultRecs (s : State) (k : KilnCore) : (State.setKiln s k).faultRecs = s.faultRecs := rfl
@[simp] theorem State.setKiln_ctxs (s : State) (k : KilnCore) : (State.setKiln s k).ctxs = s.ctxs := rfl
@[simp] theorem State.setKiln_amsgs (s : State) (k : KilnCore) : (State.setKiln s k).amsgs = s.amsgs := rfl
@[simp] theorem State.setKiln_queues (s : State) (k : KilnCore) : (State.setKiln s k).queues = s.queues := rfl
@[simp] theorem State.setKiln_bulks (s : State) (k : KilnCore) : (State.setKiln s k).bulks = s.bulks := rfl
@[simp] theorem State.setKiln_dev (s : State) (k : KilnCore) : (State.setKiln s k).dev = s.dev := rfl

/-! `State.setLines` changes `kiln`. -/
@[simp] theorem State.setLines_agenda (s : State) (die : Nat) (v : Word) : (State.setLines s die v).agenda = s.agenda := rfl
@[simp] theorem State.setLines_turn (s : State) (die : Nat) (v : Word) : (State.setLines s die v).turn = s.turn := rfl
@[simp] theorem State.setLines_fresh (s : State) (die : Nat) (v : Word) : (State.setLines s die v).fresh = s.fresh := rfl
@[simp] theorem State.setLines_threads (s : State) (die : Nat) (v : Word) : (State.setLines s die v).threads = s.threads := rfl
@[simp] theorem State.setLines_cohorts (s : State) (die : Nat) (v : Word) : (State.setLines s die v).cohorts = s.cohorts := rfl
@[simp] theorem State.setLines_issues (s : State) (die : Nat) (v : Word) : (State.setLines s die v).issues = s.issues := rfl
@[simp] theorem State.setLines_groups (s : State) (die : Nat) (v : Word) : (State.setLines s die v).groups = s.groups := rfl
@[simp] theorem State.setLines_kernels (s : State) (die : Nat) (v : Word) : (State.setLines s die v).kernels = s.kernels := rfl
@[simp] theorem State.setLines_launches (s : State) (die : Nat) (v : Word) : (State.setLines s die v).launches = s.launches := rfl
@[simp] theorem State.setLines_cores (s : State) (die : Nat) (v : Word) : (State.setLines s die v).cores = s.cores := rfl
@[simp] theorem State.setLines_ops (s : State) (die : Nat) (v : Word) : (State.setLines s die v).ops = s.ops := rfl
@[simp] theorem State.setLines_uses (s : State) (die : Nat) (v : Word) : (State.setLines s die v).uses = s.uses := rfl
@[simp] theorem State.setLines_mgroups (s : State) (die : Nat) (v : Word) : (State.setLines s die v).mgroups = s.mgroups := rfl
@[simp] theorem State.setLines_cmds (s : State) (die : Nat) (v : Word) : (State.setLines s die v).cmds = s.cmds := rfl
@[simp] theorem State.setLines_cpys (s : State) (die : Nat) (v : Word) : (State.setLines s die v).cpys = s.cpys := rfl
@[simp] theorem State.setLines_monitors (s : State) (die : Nat) (v : Word) : (State.setLines s die v).monitors = s.monitors := rfl
@[simp] theorem State.setLines_msgs (s : State) (die : Nat) (v : Word) : (State.setLines s die v).msgs = s.msgs := rfl
@[simp] theorem State.setLines_replies (s : State) (die : Nat) (v : Word) : (State.setLines s die v).replies = s.replies := rfl
@[simp] theorem State.setLines_rels (s : State) (die : Nat) (v : Word) : (State.setLines s die v).rels = s.rels := rfl
@[simp] theorem State.setLines_walks (s : State) (die : Nat) (v : Word) : (State.setLines s die v).walks = s.walks := rfl
@[simp] theorem State.setLines_mem (s : State) (die : Nat) (v : Word) : (State.setLines s die v).mem = s.mem := rfl
@[simp] theorem State.setLines_pool (s : State) (die : Nat) (v : Word) : (State.setLines s die v).pool = s.pool := rfl
@[simp] theorem State.setLines_saved (s : State) (die : Nat) (v : Word) : (State.setLines s die v).saved = s.saved := rfl
@[simp] theorem State.setLines_faultRecs (s : State) (die : Nat) (v : Word) : (State.setLines s die v).faultRecs = s.faultRecs := rfl
@[simp] theorem State.setLines_ctxs (s : State) (die : Nat) (v : Word) : (State.setLines s die v).ctxs = s.ctxs := rfl
@[simp] theorem State.setLines_amsgs (s : State) (die : Nat) (v : Word) : (State.setLines s die v).amsgs = s.amsgs := rfl
@[simp] theorem State.setLines_queues (s : State) (die : Nat) (v : Word) : (State.setLines s die v).queues = s.queues := rfl
@[simp] theorem State.setLines_bulks (s : State) (die : Nat) (v : Word) : (State.setLines s die v).bulks = s.bulks := rfl
@[simp] theorem State.setLines_dev (s : State) (die : Nat) (v : Word) : (State.setLines s die v).dev = s.dev := rfl

/-! `State.kilnWake` changes `kiln`. -/
@[simp] theorem State.kilnWake_agenda (s : State) (i : Nat) : (State.kilnWake s i).agenda = s.agenda := by unfold State.kilnWake; dsimp only; (repeat' split) <;> simp
@[simp] theorem State.kilnWake_turn (s : State) (i : Nat) : (State.kilnWake s i).turn = s.turn := by unfold State.kilnWake; dsimp only; (repeat' split) <;> simp
@[simp] theorem State.kilnWake_fresh (s : State) (i : Nat) : (State.kilnWake s i).fresh = s.fresh := by unfold State.kilnWake; dsimp only; (repeat' split) <;> simp
@[simp] theorem State.kilnWake_threads (s : State) (i : Nat) : (State.kilnWake s i).threads = s.threads := by unfold State.kilnWake; dsimp only; (repeat' split) <;> simp
@[simp] theorem State.kilnWake_cohorts (s : State) (i : Nat) : (State.kilnWake s i).cohorts = s.cohorts := by unfold State.kilnWake; dsimp only; (repeat' split) <;> simp
@[simp] theorem State.kilnWake_issues (s : State) (i : Nat) : (State.kilnWake s i).issues = s.issues := by unfold State.kilnWake; dsimp only; (repeat' split) <;> simp
@[simp] theorem State.kilnWake_groups (s : State) (i : Nat) : (State.kilnWake s i).groups = s.groups := by unfold State.kilnWake; dsimp only; (repeat' split) <;> simp
@[simp] theorem State.kilnWake_kernels (s : State) (i : Nat) : (State.kilnWake s i).kernels = s.kernels := by unfold State.kilnWake; dsimp only; (repeat' split) <;> simp
@[simp] theorem State.kilnWake_launches (s : State) (i : Nat) : (State.kilnWake s i).launches = s.launches := by unfold State.kilnWake; dsimp only; (repeat' split) <;> simp
@[simp] theorem State.kilnWake_cores (s : State) (i : Nat) : (State.kilnWake s i).cores = s.cores := by unfold State.kilnWake; dsimp only; (repeat' split) <;> simp
@[simp] theorem State.kilnWake_ops (s : State) (i : Nat) : (State.kilnWake s i).ops = s.ops := by unfold State.kilnWake; dsimp only; (repeat' split) <;> simp
@[simp] theorem State.kilnWake_uses (s : State) (i : Nat) : (State.kilnWake s i).uses = s.uses := by unfold State.kilnWake; dsimp only; (repeat' split) <;> simp
@[simp] theorem State.kilnWake_mgroups (s : State) (i : Nat) : (State.kilnWake s i).mgroups = s.mgroups := by unfold State.kilnWake; dsimp only; (repeat' split) <;> simp
@[simp] theorem State.kilnWake_cmds (s : State) (i : Nat) : (State.kilnWake s i).cmds = s.cmds := by unfold State.kilnWake; dsimp only; (repeat' split) <;> simp
@[simp] theorem State.kilnWake_cpys (s : State) (i : Nat) : (State.kilnWake s i).cpys = s.cpys := by unfold State.kilnWake; dsimp only; (repeat' split) <;> simp
@[simp] theorem State.kilnWake_monitors (s : State) (i : Nat) : (State.kilnWake s i).monitors = s.monitors := by unfold State.kilnWake; dsimp only; (repeat' split) <;> simp
@[simp] theorem State.kilnWake_msgs (s : State) (i : Nat) : (State.kilnWake s i).msgs = s.msgs := by unfold State.kilnWake; dsimp only; (repeat' split) <;> simp
@[simp] theorem State.kilnWake_replies (s : State) (i : Nat) : (State.kilnWake s i).replies = s.replies := by unfold State.kilnWake; dsimp only; (repeat' split) <;> simp
@[simp] theorem State.kilnWake_rels (s : State) (i : Nat) : (State.kilnWake s i).rels = s.rels := by unfold State.kilnWake; dsimp only; (repeat' split) <;> simp
@[simp] theorem State.kilnWake_walks (s : State) (i : Nat) : (State.kilnWake s i).walks = s.walks := by unfold State.kilnWake; dsimp only; (repeat' split) <;> simp
@[simp] theorem State.kilnWake_mem (s : State) (i : Nat) : (State.kilnWake s i).mem = s.mem := by unfold State.kilnWake; dsimp only; (repeat' split) <;> simp
@[simp] theorem State.kilnWake_pool (s : State) (i : Nat) : (State.kilnWake s i).pool = s.pool := by unfold State.kilnWake; dsimp only; (repeat' split) <;> simp
@[simp] theorem State.kilnWake_saved (s : State) (i : Nat) : (State.kilnWake s i).saved = s.saved := by unfold State.kilnWake; dsimp only; (repeat' split) <;> simp
@[simp] theorem State.kilnWake_faultRecs (s : State) (i : Nat) : (State.kilnWake s i).faultRecs = s.faultRecs := by unfold State.kilnWake; dsimp only; (repeat' split) <;> simp
@[simp] theorem State.kilnWake_ctxs (s : State) (i : Nat) : (State.kilnWake s i).ctxs = s.ctxs := by unfold State.kilnWake; dsimp only; (repeat' split) <;> simp
@[simp] theorem State.kilnWake_amsgs (s : State) (i : Nat) : (State.kilnWake s i).amsgs = s.amsgs := by unfold State.kilnWake; dsimp only; (repeat' split) <;> simp
@[simp] theorem State.kilnWake_queues (s : State) (i : Nat) : (State.kilnWake s i).queues = s.queues := by unfold State.kilnWake; dsimp only; (repeat' split) <;> simp
@[simp] theorem State.kilnWake_bulks (s : State) (i : Nat) : (State.kilnWake s i).bulks = s.bulks := by unfold State.kilnWake; dsimp only; (repeat' split) <;> simp
@[simp] theorem State.kilnWake_dev (s : State) (i : Nat) : (State.kilnWake s i).dev = s.dev := by unfold State.kilnWake; dsimp only; (repeat' split) <;> simp

/-! `State.eventLine` changes `kiln`. -/
@[simp] theorem State.eventLine_agenda (s : State) (die : Nat) (line : Nat) : (State.eventLine s die line).agenda = s.agenda := by unfold State.eventLine; exact foldl_field (fun s : State => s.agenda) _ (fun s x => by simp) _ _
@[simp] theorem State.eventLine_turn (s : State) (die : Nat) (line : Nat) : (State.eventLine s die line).turn = s.turn := by unfold State.eventLine; exact foldl_field (fun s : State => s.turn) _ (fun s x => by simp) _ _
@[simp] theorem State.eventLine_fresh (s : State) (die : Nat) (line : Nat) : (State.eventLine s die line).fresh = s.fresh := by unfold State.eventLine; exact foldl_field (fun s : State => s.fresh) _ (fun s x => by simp) _ _
@[simp] theorem State.eventLine_threads (s : State) (die : Nat) (line : Nat) : (State.eventLine s die line).threads = s.threads := by unfold State.eventLine; exact foldl_field (fun s : State => s.threads) _ (fun s x => by simp) _ _
@[simp] theorem State.eventLine_cohorts (s : State) (die : Nat) (line : Nat) : (State.eventLine s die line).cohorts = s.cohorts := by unfold State.eventLine; exact foldl_field (fun s : State => s.cohorts) _ (fun s x => by simp) _ _
@[simp] theorem State.eventLine_issues (s : State) (die : Nat) (line : Nat) : (State.eventLine s die line).issues = s.issues := by unfold State.eventLine; exact foldl_field (fun s : State => s.issues) _ (fun s x => by simp) _ _
@[simp] theorem State.eventLine_groups (s : State) (die : Nat) (line : Nat) : (State.eventLine s die line).groups = s.groups := by unfold State.eventLine; exact foldl_field (fun s : State => s.groups) _ (fun s x => by simp) _ _
@[simp] theorem State.eventLine_kernels (s : State) (die : Nat) (line : Nat) : (State.eventLine s die line).kernels = s.kernels := by unfold State.eventLine; exact foldl_field (fun s : State => s.kernels) _ (fun s x => by simp) _ _
@[simp] theorem State.eventLine_launches (s : State) (die : Nat) (line : Nat) : (State.eventLine s die line).launches = s.launches := by unfold State.eventLine; exact foldl_field (fun s : State => s.launches) _ (fun s x => by simp) _ _
@[simp] theorem State.eventLine_cores (s : State) (die : Nat) (line : Nat) : (State.eventLine s die line).cores = s.cores := by unfold State.eventLine; exact foldl_field (fun s : State => s.cores) _ (fun s x => by simp) _ _
@[simp] theorem State.eventLine_ops (s : State) (die : Nat) (line : Nat) : (State.eventLine s die line).ops = s.ops := by unfold State.eventLine; exact foldl_field (fun s : State => s.ops) _ (fun s x => by simp) _ _
@[simp] theorem State.eventLine_uses (s : State) (die : Nat) (line : Nat) : (State.eventLine s die line).uses = s.uses := by unfold State.eventLine; exact foldl_field (fun s : State => s.uses) _ (fun s x => by simp) _ _
@[simp] theorem State.eventLine_mgroups (s : State) (die : Nat) (line : Nat) : (State.eventLine s die line).mgroups = s.mgroups := by unfold State.eventLine; exact foldl_field (fun s : State => s.mgroups) _ (fun s x => by simp) _ _
@[simp] theorem State.eventLine_cmds (s : State) (die : Nat) (line : Nat) : (State.eventLine s die line).cmds = s.cmds := by unfold State.eventLine; exact foldl_field (fun s : State => s.cmds) _ (fun s x => by simp) _ _
@[simp] theorem State.eventLine_cpys (s : State) (die : Nat) (line : Nat) : (State.eventLine s die line).cpys = s.cpys := by unfold State.eventLine; exact foldl_field (fun s : State => s.cpys) _ (fun s x => by simp) _ _
@[simp] theorem State.eventLine_monitors (s : State) (die : Nat) (line : Nat) : (State.eventLine s die line).monitors = s.monitors := by unfold State.eventLine; exact foldl_field (fun s : State => s.monitors) _ (fun s x => by simp) _ _
@[simp] theorem State.eventLine_msgs (s : State) (die : Nat) (line : Nat) : (State.eventLine s die line).msgs = s.msgs := by unfold State.eventLine; exact foldl_field (fun s : State => s.msgs) _ (fun s x => by simp) _ _
@[simp] theorem State.eventLine_replies (s : State) (die : Nat) (line : Nat) : (State.eventLine s die line).replies = s.replies := by unfold State.eventLine; exact foldl_field (fun s : State => s.replies) _ (fun s x => by simp) _ _
@[simp] theorem State.eventLine_rels (s : State) (die : Nat) (line : Nat) : (State.eventLine s die line).rels = s.rels := by unfold State.eventLine; exact foldl_field (fun s : State => s.rels) _ (fun s x => by simp) _ _
@[simp] theorem State.eventLine_walks (s : State) (die : Nat) (line : Nat) : (State.eventLine s die line).walks = s.walks := by unfold State.eventLine; exact foldl_field (fun s : State => s.walks) _ (fun s x => by simp) _ _
@[simp] theorem State.eventLine_mem (s : State) (die : Nat) (line : Nat) : (State.eventLine s die line).mem = s.mem := by unfold State.eventLine; exact foldl_field (fun s : State => s.mem) _ (fun s x => by simp) _ _
@[simp] theorem State.eventLine_pool (s : State) (die : Nat) (line : Nat) : (State.eventLine s die line).pool = s.pool := by unfold State.eventLine; exact foldl_field (fun s : State => s.pool) _ (fun s x => by simp) _ _
@[simp] theorem State.eventLine_saved (s : State) (die : Nat) (line : Nat) : (State.eventLine s die line).saved = s.saved := by unfold State.eventLine; exact foldl_field (fun s : State => s.saved) _ (fun s x => by simp) _ _
@[simp] theorem State.eventLine_faultRecs (s : State) (die : Nat) (line : Nat) : (State.eventLine s die line).faultRecs = s.faultRecs := by unfold State.eventLine; exact foldl_field (fun s : State => s.faultRecs) _ (fun s x => by simp) _ _
@[simp] theorem State.eventLine_ctxs (s : State) (die : Nat) (line : Nat) : (State.eventLine s die line).ctxs = s.ctxs := by unfold State.eventLine; exact foldl_field (fun s : State => s.ctxs) _ (fun s x => by simp) _ _
@[simp] theorem State.eventLine_amsgs (s : State) (die : Nat) (line : Nat) : (State.eventLine s die line).amsgs = s.amsgs := by unfold State.eventLine; exact foldl_field (fun s : State => s.amsgs) _ (fun s x => by simp) _ _
@[simp] theorem State.eventLine_queues (s : State) (die : Nat) (line : Nat) : (State.eventLine s die line).queues = s.queues := by unfold State.eventLine; exact foldl_field (fun s : State => s.queues) _ (fun s x => by simp) _ _
@[simp] theorem State.eventLine_bulks (s : State) (die : Nat) (line : Nat) : (State.eventLine s die line).bulks = s.bulks := by unfold State.eventLine; exact foldl_field (fun s : State => s.bulks) _ (fun s x => by simp) _ _
@[simp] theorem State.eventLine_dev (s : State) (die : Nat) (line : Nat) : (State.eventLine s die line).dev = s.dev := by unfold State.eventLine; exact foldl_field (fun s : State => s.dev) _ (fun s x => by simp) _ _

/-! `State.piecesWrite` changes `mem`. -/
@[simp] theorem State.piecesWrite_agenda (s : State) (asid : Nat) (va : Nat) (v : Nat) : (State.piecesWrite s asid va v).agenda = s.agenda := by unfold State.piecesWrite; exact foldl_field (fun s : State => s.agenda) _ (fun s x => by simp) _ _
@[simp] theorem State.piecesWrite_turn (s : State) (asid : Nat) (va : Nat) (v : Nat) : (State.piecesWrite s asid va v).turn = s.turn := by unfold State.piecesWrite; exact foldl_field (fun s : State => s.turn) _ (fun s x => by simp) _ _
@[simp] theorem State.piecesWrite_fresh (s : State) (asid : Nat) (va : Nat) (v : Nat) : (State.piecesWrite s asid va v).fresh = s.fresh := by unfold State.piecesWrite; exact foldl_field (fun s : State => s.fresh) _ (fun s x => by simp) _ _
@[simp] theorem State.piecesWrite_threads (s : State) (asid : Nat) (va : Nat) (v : Nat) : (State.piecesWrite s asid va v).threads = s.threads := by unfold State.piecesWrite; exact foldl_field (fun s : State => s.threads) _ (fun s x => by simp) _ _
@[simp] theorem State.piecesWrite_cohorts (s : State) (asid : Nat) (va : Nat) (v : Nat) : (State.piecesWrite s asid va v).cohorts = s.cohorts := by unfold State.piecesWrite; exact foldl_field (fun s : State => s.cohorts) _ (fun s x => by simp) _ _
@[simp] theorem State.piecesWrite_issues (s : State) (asid : Nat) (va : Nat) (v : Nat) : (State.piecesWrite s asid va v).issues = s.issues := by unfold State.piecesWrite; exact foldl_field (fun s : State => s.issues) _ (fun s x => by simp) _ _
@[simp] theorem State.piecesWrite_groups (s : State) (asid : Nat) (va : Nat) (v : Nat) : (State.piecesWrite s asid va v).groups = s.groups := by unfold State.piecesWrite; exact foldl_field (fun s : State => s.groups) _ (fun s x => by simp) _ _
@[simp] theorem State.piecesWrite_kernels (s : State) (asid : Nat) (va : Nat) (v : Nat) : (State.piecesWrite s asid va v).kernels = s.kernels := by unfold State.piecesWrite; exact foldl_field (fun s : State => s.kernels) _ (fun s x => by simp) _ _
@[simp] theorem State.piecesWrite_launches (s : State) (asid : Nat) (va : Nat) (v : Nat) : (State.piecesWrite s asid va v).launches = s.launches := by unfold State.piecesWrite; exact foldl_field (fun s : State => s.launches) _ (fun s x => by simp) _ _
@[simp] theorem State.piecesWrite_cores (s : State) (asid : Nat) (va : Nat) (v : Nat) : (State.piecesWrite s asid va v).cores = s.cores := by unfold State.piecesWrite; exact foldl_field (fun s : State => s.cores) _ (fun s x => by simp) _ _
@[simp] theorem State.piecesWrite_ops (s : State) (asid : Nat) (va : Nat) (v : Nat) : (State.piecesWrite s asid va v).ops = s.ops := by unfold State.piecesWrite; exact foldl_field (fun s : State => s.ops) _ (fun s x => by simp) _ _
@[simp] theorem State.piecesWrite_uses (s : State) (asid : Nat) (va : Nat) (v : Nat) : (State.piecesWrite s asid va v).uses = s.uses := by unfold State.piecesWrite; exact foldl_field (fun s : State => s.uses) _ (fun s x => by simp) _ _
@[simp] theorem State.piecesWrite_mgroups (s : State) (asid : Nat) (va : Nat) (v : Nat) : (State.piecesWrite s asid va v).mgroups = s.mgroups := by unfold State.piecesWrite; exact foldl_field (fun s : State => s.mgroups) _ (fun s x => by simp) _ _
@[simp] theorem State.piecesWrite_cmds (s : State) (asid : Nat) (va : Nat) (v : Nat) : (State.piecesWrite s asid va v).cmds = s.cmds := by unfold State.piecesWrite; exact foldl_field (fun s : State => s.cmds) _ (fun s x => by simp) _ _
@[simp] theorem State.piecesWrite_cpys (s : State) (asid : Nat) (va : Nat) (v : Nat) : (State.piecesWrite s asid va v).cpys = s.cpys := by unfold State.piecesWrite; exact foldl_field (fun s : State => s.cpys) _ (fun s x => by simp) _ _
@[simp] theorem State.piecesWrite_monitors (s : State) (asid : Nat) (va : Nat) (v : Nat) : (State.piecesWrite s asid va v).monitors = s.monitors := by unfold State.piecesWrite; exact foldl_field (fun s : State => s.monitors) _ (fun s x => by simp) _ _
@[simp] theorem State.piecesWrite_msgs (s : State) (asid : Nat) (va : Nat) (v : Nat) : (State.piecesWrite s asid va v).msgs = s.msgs := by unfold State.piecesWrite; exact foldl_field (fun s : State => s.msgs) _ (fun s x => by simp) _ _
@[simp] theorem State.piecesWrite_replies (s : State) (asid : Nat) (va : Nat) (v : Nat) : (State.piecesWrite s asid va v).replies = s.replies := by unfold State.piecesWrite; exact foldl_field (fun s : State => s.replies) _ (fun s x => by simp) _ _
@[simp] theorem State.piecesWrite_rels (s : State) (asid : Nat) (va : Nat) (v : Nat) : (State.piecesWrite s asid va v).rels = s.rels := by unfold State.piecesWrite; exact foldl_field (fun s : State => s.rels) _ (fun s x => by simp) _ _
@[simp] theorem State.piecesWrite_walks (s : State) (asid : Nat) (va : Nat) (v : Nat) : (State.piecesWrite s asid va v).walks = s.walks := by unfold State.piecesWrite; exact foldl_field (fun s : State => s.walks) _ (fun s x => by simp) _ _
@[simp] theorem State.piecesWrite_pool (s : State) (asid : Nat) (va : Nat) (v : Nat) : (State.piecesWrite s asid va v).pool = s.pool := by unfold State.piecesWrite; exact foldl_field (fun s : State => s.pool) _ (fun s x => by simp) _ _
@[simp] theorem State.piecesWrite_saved (s : State) (asid : Nat) (va : Nat) (v : Nat) : (State.piecesWrite s asid va v).saved = s.saved := by unfold State.piecesWrite; exact foldl_field (fun s : State => s.saved) _ (fun s x => by simp) _ _
@[simp] theorem State.piecesWrite_faultRecs (s : State) (asid : Nat) (va : Nat) (v : Nat) : (State.piecesWrite s asid va v).faultRecs = s.faultRecs := by unfold State.piecesWrite; exact foldl_field (fun s : State => s.faultRecs) _ (fun s x => by simp) _ _
@[simp] theorem State.piecesWrite_ctxs (s : State) (asid : Nat) (va : Nat) (v : Nat) : (State.piecesWrite s asid va v).ctxs = s.ctxs := by unfold State.piecesWrite; exact foldl_field (fun s : State => s.ctxs) _ (fun s x => by simp) _ _
@[simp] theorem State.piecesWrite_amsgs (s : State) (asid : Nat) (va : Nat) (v : Nat) : (State.piecesWrite s asid va v).amsgs = s.amsgs := by unfold State.piecesWrite; exact foldl_field (fun s : State => s.amsgs) _ (fun s x => by simp) _ _
@[simp] theorem State.piecesWrite_queues (s : State) (asid : Nat) (va : Nat) (v : Nat) : (State.piecesWrite s asid va v).queues = s.queues := by unfold State.piecesWrite; exact foldl_field (fun s : State => s.queues) _ (fun s x => by simp) _ _
@[simp] theorem State.piecesWrite_bulks (s : State) (asid : Nat) (va : Nat) (v : Nat) : (State.piecesWrite s asid va v).bulks = s.bulks := by unfold State.piecesWrite; exact foldl_field (fun s : State => s.bulks) _ (fun s x => by simp) _ _
@[simp] theorem State.piecesWrite_kiln (s : State) (asid : Nat) (va : Nat) (v : Nat) : (State.piecesWrite s asid va v).kiln = s.kiln := by unfold State.piecesWrite; exact foldl_field (fun s : State => s.kiln) _ (fun s x => by simp) _ _
@[simp] theorem State.piecesWrite_dev (s : State) (asid : Nat) (va : Nat) (v : Nat) : (State.piecesWrite s asid va v).dev = s.dev := by unfold State.piecesWrite; exact foldl_field (fun s : State => s.dev) _ (fun s x => by simp) _ _

/-! `State.modBulk` changes `bulks`. -/
@[simp] theorem State.modBulk_agenda (s : State) (id : Nat) (f : BulkQ → BulkQ) : (State.modBulk s id f).agenda = s.agenda := rfl
@[simp] theorem State.modBulk_turn (s : State) (id : Nat) (f : BulkQ → BulkQ) : (State.modBulk s id f).turn = s.turn := rfl
@[simp] theorem State.modBulk_fresh (s : State) (id : Nat) (f : BulkQ → BulkQ) : (State.modBulk s id f).fresh = s.fresh := rfl
@[simp] theorem State.modBulk_threads (s : State) (id : Nat) (f : BulkQ → BulkQ) : (State.modBulk s id f).threads = s.threads := rfl
@[simp] theorem State.modBulk_cohorts (s : State) (id : Nat) (f : BulkQ → BulkQ) : (State.modBulk s id f).cohorts = s.cohorts := rfl
@[simp] theorem State.modBulk_issues (s : State) (id : Nat) (f : BulkQ → BulkQ) : (State.modBulk s id f).issues = s.issues := rfl
@[simp] theorem State.modBulk_groups (s : State) (id : Nat) (f : BulkQ → BulkQ) : (State.modBulk s id f).groups = s.groups := rfl
@[simp] theorem State.modBulk_kernels (s : State) (id : Nat) (f : BulkQ → BulkQ) : (State.modBulk s id f).kernels = s.kernels := rfl
@[simp] theorem State.modBulk_launches (s : State) (id : Nat) (f : BulkQ → BulkQ) : (State.modBulk s id f).launches = s.launches := rfl
@[simp] theorem State.modBulk_cores (s : State) (id : Nat) (f : BulkQ → BulkQ) : (State.modBulk s id f).cores = s.cores := rfl
@[simp] theorem State.modBulk_ops (s : State) (id : Nat) (f : BulkQ → BulkQ) : (State.modBulk s id f).ops = s.ops := rfl
@[simp] theorem State.modBulk_uses (s : State) (id : Nat) (f : BulkQ → BulkQ) : (State.modBulk s id f).uses = s.uses := rfl
@[simp] theorem State.modBulk_mgroups (s : State) (id : Nat) (f : BulkQ → BulkQ) : (State.modBulk s id f).mgroups = s.mgroups := rfl
@[simp] theorem State.modBulk_cmds (s : State) (id : Nat) (f : BulkQ → BulkQ) : (State.modBulk s id f).cmds = s.cmds := rfl
@[simp] theorem State.modBulk_cpys (s : State) (id : Nat) (f : BulkQ → BulkQ) : (State.modBulk s id f).cpys = s.cpys := rfl
@[simp] theorem State.modBulk_monitors (s : State) (id : Nat) (f : BulkQ → BulkQ) : (State.modBulk s id f).monitors = s.monitors := rfl
@[simp] theorem State.modBulk_msgs (s : State) (id : Nat) (f : BulkQ → BulkQ) : (State.modBulk s id f).msgs = s.msgs := rfl
@[simp] theorem State.modBulk_replies (s : State) (id : Nat) (f : BulkQ → BulkQ) : (State.modBulk s id f).replies = s.replies := rfl
@[simp] theorem State.modBulk_rels (s : State) (id : Nat) (f : BulkQ → BulkQ) : (State.modBulk s id f).rels = s.rels := rfl
@[simp] theorem State.modBulk_walks (s : State) (id : Nat) (f : BulkQ → BulkQ) : (State.modBulk s id f).walks = s.walks := rfl
@[simp] theorem State.modBulk_mem (s : State) (id : Nat) (f : BulkQ → BulkQ) : (State.modBulk s id f).mem = s.mem := rfl
@[simp] theorem State.modBulk_pool (s : State) (id : Nat) (f : BulkQ → BulkQ) : (State.modBulk s id f).pool = s.pool := rfl
@[simp] theorem State.modBulk_saved (s : State) (id : Nat) (f : BulkQ → BulkQ) : (State.modBulk s id f).saved = s.saved := rfl
@[simp] theorem State.modBulk_faultRecs (s : State) (id : Nat) (f : BulkQ → BulkQ) : (State.modBulk s id f).faultRecs = s.faultRecs := rfl
@[simp] theorem State.modBulk_ctxs (s : State) (id : Nat) (f : BulkQ → BulkQ) : (State.modBulk s id f).ctxs = s.ctxs := rfl
@[simp] theorem State.modBulk_amsgs (s : State) (id : Nat) (f : BulkQ → BulkQ) : (State.modBulk s id f).amsgs = s.amsgs := rfl
@[simp] theorem State.modBulk_queues (s : State) (id : Nat) (f : BulkQ → BulkQ) : (State.modBulk s id f).queues = s.queues := rfl
@[simp] theorem State.modBulk_kiln (s : State) (id : Nat) (f : BulkQ → BulkQ) : (State.modBulk s id f).kiln = s.kiln := rfl
@[simp] theorem State.modBulk_dev (s : State) (id : Nat) (f : BulkQ → BulkQ) : (State.modBulk s id f).dev = s.dev := rfl

/-! `State.podAcquire` changes `fresh` and `mem`. -/
@[simp] theorem State.podAcquire_agenda (s : State) (die : Nat) (asid : Nat) : (State.podAcquire s die asid).agenda = s.agenda := by unfold State.podAcquire; simp
@[simp] theorem State.podAcquire_turn (s : State) (die : Nat) (asid : Nat) : (State.podAcquire s die asid).turn = s.turn := by unfold State.podAcquire; simp
@[simp] theorem State.podAcquire_threads (s : State) (die : Nat) (asid : Nat) : (State.podAcquire s die asid).threads = s.threads := by unfold State.podAcquire; simp
@[simp] theorem State.podAcquire_cohorts (s : State) (die : Nat) (asid : Nat) : (State.podAcquire s die asid).cohorts = s.cohorts := by unfold State.podAcquire; simp
@[simp] theorem State.podAcquire_issues (s : State) (die : Nat) (asid : Nat) : (State.podAcquire s die asid).issues = s.issues := by unfold State.podAcquire; simp
@[simp] theorem State.podAcquire_groups (s : State) (die : Nat) (asid : Nat) : (State.podAcquire s die asid).groups = s.groups := by unfold State.podAcquire; simp
@[simp] theorem State.podAcquire_kernels (s : State) (die : Nat) (asid : Nat) : (State.podAcquire s die asid).kernels = s.kernels := by unfold State.podAcquire; simp
@[simp] theorem State.podAcquire_launches (s : State) (die : Nat) (asid : Nat) : (State.podAcquire s die asid).launches = s.launches := by unfold State.podAcquire; simp
@[simp] theorem State.podAcquire_cores (s : State) (die : Nat) (asid : Nat) : (State.podAcquire s die asid).cores = s.cores := by unfold State.podAcquire; simp
@[simp] theorem State.podAcquire_ops (s : State) (die : Nat) (asid : Nat) : (State.podAcquire s die asid).ops = s.ops := by unfold State.podAcquire; simp
@[simp] theorem State.podAcquire_uses (s : State) (die : Nat) (asid : Nat) : (State.podAcquire s die asid).uses = s.uses := by unfold State.podAcquire; simp
@[simp] theorem State.podAcquire_mgroups (s : State) (die : Nat) (asid : Nat) : (State.podAcquire s die asid).mgroups = s.mgroups := by unfold State.podAcquire; simp
@[simp] theorem State.podAcquire_cmds (s : State) (die : Nat) (asid : Nat) : (State.podAcquire s die asid).cmds = s.cmds := by unfold State.podAcquire; simp
@[simp] theorem State.podAcquire_cpys (s : State) (die : Nat) (asid : Nat) : (State.podAcquire s die asid).cpys = s.cpys := by unfold State.podAcquire; simp
@[simp] theorem State.podAcquire_monitors (s : State) (die : Nat) (asid : Nat) : (State.podAcquire s die asid).monitors = s.monitors := by unfold State.podAcquire; simp
@[simp] theorem State.podAcquire_msgs (s : State) (die : Nat) (asid : Nat) : (State.podAcquire s die asid).msgs = s.msgs := by unfold State.podAcquire; simp
@[simp] theorem State.podAcquire_replies (s : State) (die : Nat) (asid : Nat) : (State.podAcquire s die asid).replies = s.replies := by unfold State.podAcquire; simp
@[simp] theorem State.podAcquire_rels (s : State) (die : Nat) (asid : Nat) : (State.podAcquire s die asid).rels = s.rels := by unfold State.podAcquire; simp
@[simp] theorem State.podAcquire_walks (s : State) (die : Nat) (asid : Nat) : (State.podAcquire s die asid).walks = s.walks := by unfold State.podAcquire; simp
@[simp] theorem State.podAcquire_pool (s : State) (die : Nat) (asid : Nat) : (State.podAcquire s die asid).pool = s.pool := by unfold State.podAcquire; simp
@[simp] theorem State.podAcquire_saved (s : State) (die : Nat) (asid : Nat) : (State.podAcquire s die asid).saved = s.saved := by unfold State.podAcquire; simp
@[simp] theorem State.podAcquire_faultRecs (s : State) (die : Nat) (asid : Nat) : (State.podAcquire s die asid).faultRecs = s.faultRecs := by unfold State.podAcquire; simp
@[simp] theorem State.podAcquire_ctxs (s : State) (die : Nat) (asid : Nat) : (State.podAcquire s die asid).ctxs = s.ctxs := by unfold State.podAcquire; simp
@[simp] theorem State.podAcquire_amsgs (s : State) (die : Nat) (asid : Nat) : (State.podAcquire s die asid).amsgs = s.amsgs := by unfold State.podAcquire; simp
@[simp] theorem State.podAcquire_queues (s : State) (die : Nat) (asid : Nat) : (State.podAcquire s die asid).queues = s.queues := by unfold State.podAcquire; simp
@[simp] theorem State.podAcquire_bulks (s : State) (die : Nat) (asid : Nat) : (State.podAcquire s die asid).bulks = s.bulks := by unfold State.podAcquire; simp
@[simp] theorem State.podAcquire_kiln (s : State) (die : Nat) (asid : Nat) : (State.podAcquire s die asid).kiln = s.kiln := by unfold State.podAcquire; simp
@[simp] theorem State.podAcquire_dev (s : State) (die : Nat) (asid : Nat) : (State.podAcquire s die asid).dev = s.dev := by unfold State.podAcquire; simp

/-! `State.refuseCmd` changes `dev`. -/
@[simp] theorem State.refuseCmd_agenda (s : State) (w0 : Word) (w1 : Word) : (State.refuseCmd s w0 w1).agenda = s.agenda := rfl
@[simp] theorem State.refuseCmd_turn (s : State) (w0 : Word) (w1 : Word) : (State.refuseCmd s w0 w1).turn = s.turn := rfl
@[simp] theorem State.refuseCmd_fresh (s : State) (w0 : Word) (w1 : Word) : (State.refuseCmd s w0 w1).fresh = s.fresh := rfl
@[simp] theorem State.refuseCmd_threads (s : State) (w0 : Word) (w1 : Word) : (State.refuseCmd s w0 w1).threads = s.threads := rfl
@[simp] theorem State.refuseCmd_cohorts (s : State) (w0 : Word) (w1 : Word) : (State.refuseCmd s w0 w1).cohorts = s.cohorts := rfl
@[simp] theorem State.refuseCmd_issues (s : State) (w0 : Word) (w1 : Word) : (State.refuseCmd s w0 w1).issues = s.issues := rfl
@[simp] theorem State.refuseCmd_groups (s : State) (w0 : Word) (w1 : Word) : (State.refuseCmd s w0 w1).groups = s.groups := rfl
@[simp] theorem State.refuseCmd_kernels (s : State) (w0 : Word) (w1 : Word) : (State.refuseCmd s w0 w1).kernels = s.kernels := rfl
@[simp] theorem State.refuseCmd_launches (s : State) (w0 : Word) (w1 : Word) : (State.refuseCmd s w0 w1).launches = s.launches := rfl
@[simp] theorem State.refuseCmd_cores (s : State) (w0 : Word) (w1 : Word) : (State.refuseCmd s w0 w1).cores = s.cores := rfl
@[simp] theorem State.refuseCmd_ops (s : State) (w0 : Word) (w1 : Word) : (State.refuseCmd s w0 w1).ops = s.ops := rfl
@[simp] theorem State.refuseCmd_uses (s : State) (w0 : Word) (w1 : Word) : (State.refuseCmd s w0 w1).uses = s.uses := rfl
@[simp] theorem State.refuseCmd_mgroups (s : State) (w0 : Word) (w1 : Word) : (State.refuseCmd s w0 w1).mgroups = s.mgroups := rfl
@[simp] theorem State.refuseCmd_cmds (s : State) (w0 : Word) (w1 : Word) : (State.refuseCmd s w0 w1).cmds = s.cmds := rfl
@[simp] theorem State.refuseCmd_cpys (s : State) (w0 : Word) (w1 : Word) : (State.refuseCmd s w0 w1).cpys = s.cpys := rfl
@[simp] theorem State.refuseCmd_monitors (s : State) (w0 : Word) (w1 : Word) : (State.refuseCmd s w0 w1).monitors = s.monitors := rfl
@[simp] theorem State.refuseCmd_msgs (s : State) (w0 : Word) (w1 : Word) : (State.refuseCmd s w0 w1).msgs = s.msgs := rfl
@[simp] theorem State.refuseCmd_replies (s : State) (w0 : Word) (w1 : Word) : (State.refuseCmd s w0 w1).replies = s.replies := rfl
@[simp] theorem State.refuseCmd_rels (s : State) (w0 : Word) (w1 : Word) : (State.refuseCmd s w0 w1).rels = s.rels := rfl
@[simp] theorem State.refuseCmd_walks (s : State) (w0 : Word) (w1 : Word) : (State.refuseCmd s w0 w1).walks = s.walks := rfl
@[simp] theorem State.refuseCmd_mem (s : State) (w0 : Word) (w1 : Word) : (State.refuseCmd s w0 w1).mem = s.mem := rfl
@[simp] theorem State.refuseCmd_pool (s : State) (w0 : Word) (w1 : Word) : (State.refuseCmd s w0 w1).pool = s.pool := rfl
@[simp] theorem State.refuseCmd_saved (s : State) (w0 : Word) (w1 : Word) : (State.refuseCmd s w0 w1).saved = s.saved := rfl
@[simp] theorem State.refuseCmd_faultRecs (s : State) (w0 : Word) (w1 : Word) : (State.refuseCmd s w0 w1).faultRecs = s.faultRecs := rfl
@[simp] theorem State.refuseCmd_ctxs (s : State) (w0 : Word) (w1 : Word) : (State.refuseCmd s w0 w1).ctxs = s.ctxs := rfl
@[simp] theorem State.refuseCmd_amsgs (s : State) (w0 : Word) (w1 : Word) : (State.refuseCmd s w0 w1).amsgs = s.amsgs := rfl
@[simp] theorem State.refuseCmd_queues (s : State) (w0 : Word) (w1 : Word) : (State.refuseCmd s w0 w1).queues = s.queues := rfl
@[simp] theorem State.refuseCmd_bulks (s : State) (w0 : Word) (w1 : Word) : (State.refuseCmd s w0 w1).bulks = s.bulks := rfl
@[simp] theorem State.refuseCmd_kiln (s : State) (w0 : Word) (w1 : Word) : (State.refuseCmd s w0 w1).kiln = s.kiln := rfl

/-! `State.dropTlb` changes `mem`. -/
@[simp] theorem State.dropTlb_agenda (s : State) (asid : Nat) (a : Nat) (len : Nat) : (State.dropTlb s asid a len).agenda = s.agenda := rfl
@[simp] theorem State.dropTlb_turn (s : State) (asid : Nat) (a : Nat) (len : Nat) : (State.dropTlb s asid a len).turn = s.turn := rfl
@[simp] theorem State.dropTlb_fresh (s : State) (asid : Nat) (a : Nat) (len : Nat) : (State.dropTlb s asid a len).fresh = s.fresh := rfl
@[simp] theorem State.dropTlb_threads (s : State) (asid : Nat) (a : Nat) (len : Nat) : (State.dropTlb s asid a len).threads = s.threads := rfl
@[simp] theorem State.dropTlb_cohorts (s : State) (asid : Nat) (a : Nat) (len : Nat) : (State.dropTlb s asid a len).cohorts = s.cohorts := rfl
@[simp] theorem State.dropTlb_issues (s : State) (asid : Nat) (a : Nat) (len : Nat) : (State.dropTlb s asid a len).issues = s.issues := rfl
@[simp] theorem State.dropTlb_groups (s : State) (asid : Nat) (a : Nat) (len : Nat) : (State.dropTlb s asid a len).groups = s.groups := rfl
@[simp] theorem State.dropTlb_kernels (s : State) (asid : Nat) (a : Nat) (len : Nat) : (State.dropTlb s asid a len).kernels = s.kernels := rfl
@[simp] theorem State.dropTlb_launches (s : State) (asid : Nat) (a : Nat) (len : Nat) : (State.dropTlb s asid a len).launches = s.launches := rfl
@[simp] theorem State.dropTlb_cores (s : State) (asid : Nat) (a : Nat) (len : Nat) : (State.dropTlb s asid a len).cores = s.cores := rfl
@[simp] theorem State.dropTlb_ops (s : State) (asid : Nat) (a : Nat) (len : Nat) : (State.dropTlb s asid a len).ops = s.ops := rfl
@[simp] theorem State.dropTlb_uses (s : State) (asid : Nat) (a : Nat) (len : Nat) : (State.dropTlb s asid a len).uses = s.uses := rfl
@[simp] theorem State.dropTlb_mgroups (s : State) (asid : Nat) (a : Nat) (len : Nat) : (State.dropTlb s asid a len).mgroups = s.mgroups := rfl
@[simp] theorem State.dropTlb_cmds (s : State) (asid : Nat) (a : Nat) (len : Nat) : (State.dropTlb s asid a len).cmds = s.cmds := rfl
@[simp] theorem State.dropTlb_cpys (s : State) (asid : Nat) (a : Nat) (len : Nat) : (State.dropTlb s asid a len).cpys = s.cpys := rfl
@[simp] theorem State.dropTlb_monitors (s : State) (asid : Nat) (a : Nat) (len : Nat) : (State.dropTlb s asid a len).monitors = s.monitors := rfl
@[simp] theorem State.dropTlb_msgs (s : State) (asid : Nat) (a : Nat) (len : Nat) : (State.dropTlb s asid a len).msgs = s.msgs := rfl
@[simp] theorem State.dropTlb_replies (s : State) (asid : Nat) (a : Nat) (len : Nat) : (State.dropTlb s asid a len).replies = s.replies := rfl
@[simp] theorem State.dropTlb_rels (s : State) (asid : Nat) (a : Nat) (len : Nat) : (State.dropTlb s asid a len).rels = s.rels := rfl
@[simp] theorem State.dropTlb_walks (s : State) (asid : Nat) (a : Nat) (len : Nat) : (State.dropTlb s asid a len).walks = s.walks := rfl
@[simp] theorem State.dropTlb_pool (s : State) (asid : Nat) (a : Nat) (len : Nat) : (State.dropTlb s asid a len).pool = s.pool := rfl
@[simp] theorem State.dropTlb_saved (s : State) (asid : Nat) (a : Nat) (len : Nat) : (State.dropTlb s asid a len).saved = s.saved := rfl
@[simp] theorem State.dropTlb_faultRecs (s : State) (asid : Nat) (a : Nat) (len : Nat) : (State.dropTlb s asid a len).faultRecs = s.faultRecs := rfl
@[simp] theorem State.dropTlb_ctxs (s : State) (asid : Nat) (a : Nat) (len : Nat) : (State.dropTlb s asid a len).ctxs = s.ctxs := rfl
@[simp] theorem State.dropTlb_amsgs (s : State) (asid : Nat) (a : Nat) (len : Nat) : (State.dropTlb s asid a len).amsgs = s.amsgs := rfl
@[simp] theorem State.dropTlb_queues (s : State) (asid : Nat) (a : Nat) (len : Nat) : (State.dropTlb s asid a len).queues = s.queues := rfl
@[simp] theorem State.dropTlb_bulks (s : State) (asid : Nat) (a : Nat) (len : Nat) : (State.dropTlb s asid a len).bulks = s.bulks := rfl
@[simp] theorem State.dropTlb_kiln (s : State) (asid : Nat) (a : Nat) (len : Nat) : (State.dropTlb s asid a len).kiln = s.kiln := rfl
@[simp] theorem State.dropTlb_dev (s : State) (asid : Nat) (a : Nat) (len : Nat) : (State.dropTlb s asid a len).dev = s.dev := rfl

/-! `State.setLink` changes `mem` and `dev`. -/
@[simp] theorem State.setLink_agenda (s : State) (i : Nat) (l : Link) : (State.setLink s i l).agenda = s.agenda := by unfold State.setLink; (repeat' split) <;> rfl
@[simp] theorem State.setLink_turn (s : State) (i : Nat) (l : Link) : (State.setLink s i l).turn = s.turn := by unfold State.setLink; (repeat' split) <;> rfl
@[simp] theorem State.setLink_fresh (s : State) (i : Nat) (l : Link) : (State.setLink s i l).fresh = s.fresh := by unfold State.setLink; (repeat' split) <;> rfl
@[simp] theorem State.setLink_threads (s : State) (i : Nat) (l : Link) : (State.setLink s i l).threads = s.threads := by unfold State.setLink; (repeat' split) <;> rfl
@[simp] theorem State.setLink_cohorts (s : State) (i : Nat) (l : Link) : (State.setLink s i l).cohorts = s.cohorts := by unfold State.setLink; (repeat' split) <;> rfl
@[simp] theorem State.setLink_issues (s : State) (i : Nat) (l : Link) : (State.setLink s i l).issues = s.issues := by unfold State.setLink; (repeat' split) <;> rfl
@[simp] theorem State.setLink_groups (s : State) (i : Nat) (l : Link) : (State.setLink s i l).groups = s.groups := by unfold State.setLink; (repeat' split) <;> rfl
@[simp] theorem State.setLink_kernels (s : State) (i : Nat) (l : Link) : (State.setLink s i l).kernels = s.kernels := by unfold State.setLink; (repeat' split) <;> rfl
@[simp] theorem State.setLink_launches (s : State) (i : Nat) (l : Link) : (State.setLink s i l).launches = s.launches := by unfold State.setLink; (repeat' split) <;> rfl
@[simp] theorem State.setLink_cores (s : State) (i : Nat) (l : Link) : (State.setLink s i l).cores = s.cores := by unfold State.setLink; (repeat' split) <;> rfl
@[simp] theorem State.setLink_ops (s : State) (i : Nat) (l : Link) : (State.setLink s i l).ops = s.ops := by unfold State.setLink; (repeat' split) <;> rfl
@[simp] theorem State.setLink_uses (s : State) (i : Nat) (l : Link) : (State.setLink s i l).uses = s.uses := by unfold State.setLink; (repeat' split) <;> rfl
@[simp] theorem State.setLink_mgroups (s : State) (i : Nat) (l : Link) : (State.setLink s i l).mgroups = s.mgroups := by unfold State.setLink; (repeat' split) <;> rfl
@[simp] theorem State.setLink_cmds (s : State) (i : Nat) (l : Link) : (State.setLink s i l).cmds = s.cmds := by unfold State.setLink; (repeat' split) <;> rfl
@[simp] theorem State.setLink_cpys (s : State) (i : Nat) (l : Link) : (State.setLink s i l).cpys = s.cpys := by unfold State.setLink; (repeat' split) <;> rfl
@[simp] theorem State.setLink_monitors (s : State) (i : Nat) (l : Link) : (State.setLink s i l).monitors = s.monitors := by unfold State.setLink; (repeat' split) <;> rfl
@[simp] theorem State.setLink_msgs (s : State) (i : Nat) (l : Link) : (State.setLink s i l).msgs = s.msgs := by unfold State.setLink; (repeat' split) <;> rfl
@[simp] theorem State.setLink_replies (s : State) (i : Nat) (l : Link) : (State.setLink s i l).replies = s.replies := by unfold State.setLink; (repeat' split) <;> rfl
@[simp] theorem State.setLink_rels (s : State) (i : Nat) (l : Link) : (State.setLink s i l).rels = s.rels := by unfold State.setLink; (repeat' split) <;> rfl
@[simp] theorem State.setLink_walks (s : State) (i : Nat) (l : Link) : (State.setLink s i l).walks = s.walks := by unfold State.setLink; (repeat' split) <;> rfl
@[simp] theorem State.setLink_pool (s : State) (i : Nat) (l : Link) : (State.setLink s i l).pool = s.pool := by unfold State.setLink; (repeat' split) <;> rfl
@[simp] theorem State.setLink_saved (s : State) (i : Nat) (l : Link) : (State.setLink s i l).saved = s.saved := by unfold State.setLink; (repeat' split) <;> rfl
@[simp] theorem State.setLink_faultRecs (s : State) (i : Nat) (l : Link) : (State.setLink s i l).faultRecs = s.faultRecs := by unfold State.setLink; (repeat' split) <;> rfl
@[simp] theorem State.setLink_ctxs (s : State) (i : Nat) (l : Link) : (State.setLink s i l).ctxs = s.ctxs := by unfold State.setLink; (repeat' split) <;> rfl
@[simp] theorem State.setLink_amsgs (s : State) (i : Nat) (l : Link) : (State.setLink s i l).amsgs = s.amsgs := by unfold State.setLink; (repeat' split) <;> rfl
@[simp] theorem State.setLink_queues (s : State) (i : Nat) (l : Link) : (State.setLink s i l).queues = s.queues := by unfold State.setLink; (repeat' split) <;> rfl
@[simp] theorem State.setLink_bulks (s : State) (i : Nat) (l : Link) : (State.setLink s i l).bulks = s.bulks := by unfold State.setLink; (repeat' split) <;> rfl
@[simp] theorem State.setLink_kiln (s : State) (i : Nat) (l : Link) : (State.setLink s i l).kiln = s.kiln := by unfold State.setLink; (repeat' split) <;> rfl

/-! `State.modClamps` changes `dev`. -/
@[simp] theorem State.modClamps_agenda (s : State) (thermal : Bool) (quad : Nat) (f : Clamp → Clamp) : (State.modClamps s thermal quad f).agenda = s.agenda := rfl
@[simp] theorem State.modClamps_turn (s : State) (thermal : Bool) (quad : Nat) (f : Clamp → Clamp) : (State.modClamps s thermal quad f).turn = s.turn := rfl
@[simp] theorem State.modClamps_fresh (s : State) (thermal : Bool) (quad : Nat) (f : Clamp → Clamp) : (State.modClamps s thermal quad f).fresh = s.fresh := rfl
@[simp] theorem State.modClamps_threads (s : State) (thermal : Bool) (quad : Nat) (f : Clamp → Clamp) : (State.modClamps s thermal quad f).threads = s.threads := rfl
@[simp] theorem State.modClamps_cohorts (s : State) (thermal : Bool) (quad : Nat) (f : Clamp → Clamp) : (State.modClamps s thermal quad f).cohorts = s.cohorts := rfl
@[simp] theorem State.modClamps_issues (s : State) (thermal : Bool) (quad : Nat) (f : Clamp → Clamp) : (State.modClamps s thermal quad f).issues = s.issues := rfl
@[simp] theorem State.modClamps_groups (s : State) (thermal : Bool) (quad : Nat) (f : Clamp → Clamp) : (State.modClamps s thermal quad f).groups = s.groups := rfl
@[simp] theorem State.modClamps_kernels (s : State) (thermal : Bool) (quad : Nat) (f : Clamp → Clamp) : (State.modClamps s thermal quad f).kernels = s.kernels := rfl
@[simp] theorem State.modClamps_launches (s : State) (thermal : Bool) (quad : Nat) (f : Clamp → Clamp) : (State.modClamps s thermal quad f).launches = s.launches := rfl
@[simp] theorem State.modClamps_cores (s : State) (thermal : Bool) (quad : Nat) (f : Clamp → Clamp) : (State.modClamps s thermal quad f).cores = s.cores := rfl
@[simp] theorem State.modClamps_ops (s : State) (thermal : Bool) (quad : Nat) (f : Clamp → Clamp) : (State.modClamps s thermal quad f).ops = s.ops := rfl
@[simp] theorem State.modClamps_uses (s : State) (thermal : Bool) (quad : Nat) (f : Clamp → Clamp) : (State.modClamps s thermal quad f).uses = s.uses := rfl
@[simp] theorem State.modClamps_mgroups (s : State) (thermal : Bool) (quad : Nat) (f : Clamp → Clamp) : (State.modClamps s thermal quad f).mgroups = s.mgroups := rfl
@[simp] theorem State.modClamps_cmds (s : State) (thermal : Bool) (quad : Nat) (f : Clamp → Clamp) : (State.modClamps s thermal quad f).cmds = s.cmds := rfl
@[simp] theorem State.modClamps_cpys (s : State) (thermal : Bool) (quad : Nat) (f : Clamp → Clamp) : (State.modClamps s thermal quad f).cpys = s.cpys := rfl
@[simp] theorem State.modClamps_monitors (s : State) (thermal : Bool) (quad : Nat) (f : Clamp → Clamp) : (State.modClamps s thermal quad f).monitors = s.monitors := rfl
@[simp] theorem State.modClamps_msgs (s : State) (thermal : Bool) (quad : Nat) (f : Clamp → Clamp) : (State.modClamps s thermal quad f).msgs = s.msgs := rfl
@[simp] theorem State.modClamps_replies (s : State) (thermal : Bool) (quad : Nat) (f : Clamp → Clamp) : (State.modClamps s thermal quad f).replies = s.replies := rfl
@[simp] theorem State.modClamps_rels (s : State) (thermal : Bool) (quad : Nat) (f : Clamp → Clamp) : (State.modClamps s thermal quad f).rels = s.rels := rfl
@[simp] theorem State.modClamps_walks (s : State) (thermal : Bool) (quad : Nat) (f : Clamp → Clamp) : (State.modClamps s thermal quad f).walks = s.walks := rfl
@[simp] theorem State.modClamps_mem (s : State) (thermal : Bool) (quad : Nat) (f : Clamp → Clamp) : (State.modClamps s thermal quad f).mem = s.mem := rfl
@[simp] theorem State.modClamps_pool (s : State) (thermal : Bool) (quad : Nat) (f : Clamp → Clamp) : (State.modClamps s thermal quad f).pool = s.pool := rfl
@[simp] theorem State.modClamps_saved (s : State) (thermal : Bool) (quad : Nat) (f : Clamp → Clamp) : (State.modClamps s thermal quad f).saved = s.saved := rfl
@[simp] theorem State.modClamps_faultRecs (s : State) (thermal : Bool) (quad : Nat) (f : Clamp → Clamp) : (State.modClamps s thermal quad f).faultRecs = s.faultRecs := rfl
@[simp] theorem State.modClamps_ctxs (s : State) (thermal : Bool) (quad : Nat) (f : Clamp → Clamp) : (State.modClamps s thermal quad f).ctxs = s.ctxs := rfl
@[simp] theorem State.modClamps_amsgs (s : State) (thermal : Bool) (quad : Nat) (f : Clamp → Clamp) : (State.modClamps s thermal quad f).amsgs = s.amsgs := rfl
@[simp] theorem State.modClamps_queues (s : State) (thermal : Bool) (quad : Nat) (f : Clamp → Clamp) : (State.modClamps s thermal quad f).queues = s.queues := rfl
@[simp] theorem State.modClamps_bulks (s : State) (thermal : Bool) (quad : Nat) (f : Clamp → Clamp) : (State.modClamps s thermal quad f).bulks = s.bulks := rfl
@[simp] theorem State.modClamps_kiln (s : State) (thermal : Bool) (quad : Nat) (f : Clamp → Clamp) : (State.modClamps s thermal quad f).kiln = s.kiln := rfl

/-! `State.interrupt` changes `dev`. -/
@[simp] theorem State.interrupt_agenda (s : State) (vector : Nat) : (State.interrupt s vector).agenda = s.agenda := by unfold State.interrupt; split <;> rfl
@[simp] theorem State.interrupt_turn (s : State) (vector : Nat) : (State.interrupt s vector).turn = s.turn := by unfold State.interrupt; split <;> rfl
@[simp] theorem State.interrupt_fresh (s : State) (vector : Nat) : (State.interrupt s vector).fresh = s.fresh := by unfold State.interrupt; split <;> rfl
@[simp] theorem State.interrupt_threads (s : State) (vector : Nat) : (State.interrupt s vector).threads = s.threads := by unfold State.interrupt; split <;> rfl
@[simp] theorem State.interrupt_cohorts (s : State) (vector : Nat) : (State.interrupt s vector).cohorts = s.cohorts := by unfold State.interrupt; split <;> rfl
@[simp] theorem State.interrupt_issues (s : State) (vector : Nat) : (State.interrupt s vector).issues = s.issues := by unfold State.interrupt; split <;> rfl
@[simp] theorem State.interrupt_groups (s : State) (vector : Nat) : (State.interrupt s vector).groups = s.groups := by unfold State.interrupt; split <;> rfl
@[simp] theorem State.interrupt_kernels (s : State) (vector : Nat) : (State.interrupt s vector).kernels = s.kernels := by unfold State.interrupt; split <;> rfl
@[simp] theorem State.interrupt_launches (s : State) (vector : Nat) : (State.interrupt s vector).launches = s.launches := by unfold State.interrupt; split <;> rfl
@[simp] theorem State.interrupt_cores (s : State) (vector : Nat) : (State.interrupt s vector).cores = s.cores := by unfold State.interrupt; split <;> rfl
@[simp] theorem State.interrupt_ops (s : State) (vector : Nat) : (State.interrupt s vector).ops = s.ops := by unfold State.interrupt; split <;> rfl
@[simp] theorem State.interrupt_uses (s : State) (vector : Nat) : (State.interrupt s vector).uses = s.uses := by unfold State.interrupt; split <;> rfl
@[simp] theorem State.interrupt_mgroups (s : State) (vector : Nat) : (State.interrupt s vector).mgroups = s.mgroups := by unfold State.interrupt; split <;> rfl
@[simp] theorem State.interrupt_cmds (s : State) (vector : Nat) : (State.interrupt s vector).cmds = s.cmds := by unfold State.interrupt; split <;> rfl
@[simp] theorem State.interrupt_cpys (s : State) (vector : Nat) : (State.interrupt s vector).cpys = s.cpys := by unfold State.interrupt; split <;> rfl
@[simp] theorem State.interrupt_monitors (s : State) (vector : Nat) : (State.interrupt s vector).monitors = s.monitors := by unfold State.interrupt; split <;> rfl
@[simp] theorem State.interrupt_msgs (s : State) (vector : Nat) : (State.interrupt s vector).msgs = s.msgs := by unfold State.interrupt; split <;> rfl
@[simp] theorem State.interrupt_replies (s : State) (vector : Nat) : (State.interrupt s vector).replies = s.replies := by unfold State.interrupt; split <;> rfl
@[simp] theorem State.interrupt_rels (s : State) (vector : Nat) : (State.interrupt s vector).rels = s.rels := by unfold State.interrupt; split <;> rfl
@[simp] theorem State.interrupt_walks (s : State) (vector : Nat) : (State.interrupt s vector).walks = s.walks := by unfold State.interrupt; split <;> rfl
@[simp] theorem State.interrupt_mem (s : State) (vector : Nat) : (State.interrupt s vector).mem = s.mem := by unfold State.interrupt; split <;> rfl
@[simp] theorem State.interrupt_pool (s : State) (vector : Nat) : (State.interrupt s vector).pool = s.pool := by unfold State.interrupt; split <;> rfl
@[simp] theorem State.interrupt_saved (s : State) (vector : Nat) : (State.interrupt s vector).saved = s.saved := by unfold State.interrupt; split <;> rfl
@[simp] theorem State.interrupt_faultRecs (s : State) (vector : Nat) : (State.interrupt s vector).faultRecs = s.faultRecs := by unfold State.interrupt; split <;> rfl
@[simp] theorem State.interrupt_ctxs (s : State) (vector : Nat) : (State.interrupt s vector).ctxs = s.ctxs := by unfold State.interrupt; split <;> rfl
@[simp] theorem State.interrupt_amsgs (s : State) (vector : Nat) : (State.interrupt s vector).amsgs = s.amsgs := by unfold State.interrupt; split <;> rfl
@[simp] theorem State.interrupt_queues (s : State) (vector : Nat) : (State.interrupt s vector).queues = s.queues := by unfold State.interrupt; split <;> rfl
@[simp] theorem State.interrupt_bulks (s : State) (vector : Nat) : (State.interrupt s vector).bulks = s.bulks := by unfold State.interrupt; split <;> rfl
@[simp] theorem State.interrupt_kiln (s : State) (vector : Nat) : (State.interrupt s vector).kiln = s.kiln := by unfold State.interrupt; split <;> rfl

/-! ### Operations that go over the lines of an L1 -/

/-! `State.cleanL1` changes `fresh` and `cores` and `mem`. -/
@[simp] theorem State.cleanL1_agenda (s : State) (core : Nat) (which : L1Line → Bool) : (State.cleanL1 s core which).agenda = s.agenda := by
  dsimp only [State.cleanL1]
  rw [State.modCore_agenda, foldl_field (fun s : State => s.agenda) _ (fun s x => by simp)]
  simp
@[simp] theorem State.cleanL1_turn (s : State) (core : Nat) (which : L1Line → Bool) : (State.cleanL1 s core which).turn = s.turn := by
  dsimp only [State.cleanL1]
  rw [State.modCore_turn, foldl_field (fun s : State => s.turn) _ (fun s x => by simp)]
  simp
@[simp] theorem State.cleanL1_threads (s : State) (core : Nat) (which : L1Line → Bool) : (State.cleanL1 s core which).threads = s.threads := by
  dsimp only [State.cleanL1]
  rw [State.modCore_threads, foldl_field (fun s : State => s.threads) _ (fun s x => by simp)]
  simp
@[simp] theorem State.cleanL1_cohorts (s : State) (core : Nat) (which : L1Line → Bool) : (State.cleanL1 s core which).cohorts = s.cohorts := by
  dsimp only [State.cleanL1]
  rw [State.modCore_cohorts, foldl_field (fun s : State => s.cohorts) _ (fun s x => by simp)]
  simp
@[simp] theorem State.cleanL1_issues (s : State) (core : Nat) (which : L1Line → Bool) : (State.cleanL1 s core which).issues = s.issues := by
  dsimp only [State.cleanL1]
  rw [State.modCore_issues, foldl_field (fun s : State => s.issues) _ (fun s x => by simp)]
  simp
@[simp] theorem State.cleanL1_groups (s : State) (core : Nat) (which : L1Line → Bool) : (State.cleanL1 s core which).groups = s.groups := by
  dsimp only [State.cleanL1]
  rw [State.modCore_groups, foldl_field (fun s : State => s.groups) _ (fun s x => by simp)]
  simp
@[simp] theorem State.cleanL1_kernels (s : State) (core : Nat) (which : L1Line → Bool) : (State.cleanL1 s core which).kernels = s.kernels := by
  dsimp only [State.cleanL1]
  rw [State.modCore_kernels, foldl_field (fun s : State => s.kernels) _ (fun s x => by simp)]
  simp
@[simp] theorem State.cleanL1_launches (s : State) (core : Nat) (which : L1Line → Bool) : (State.cleanL1 s core which).launches = s.launches := by
  dsimp only [State.cleanL1]
  rw [State.modCore_launches, foldl_field (fun s : State => s.launches) _ (fun s x => by simp)]
  simp
@[simp] theorem State.cleanL1_ops (s : State) (core : Nat) (which : L1Line → Bool) : (State.cleanL1 s core which).ops = s.ops := by
  dsimp only [State.cleanL1]
  rw [State.modCore_ops, foldl_field (fun s : State => s.ops) _ (fun s x => by simp)]
  simp
@[simp] theorem State.cleanL1_uses (s : State) (core : Nat) (which : L1Line → Bool) : (State.cleanL1 s core which).uses = s.uses := by
  dsimp only [State.cleanL1]
  rw [State.modCore_uses, foldl_field (fun s : State => s.uses) _ (fun s x => by simp)]
  simp
@[simp] theorem State.cleanL1_mgroups (s : State) (core : Nat) (which : L1Line → Bool) : (State.cleanL1 s core which).mgroups = s.mgroups := by
  dsimp only [State.cleanL1]
  rw [State.modCore_mgroups, foldl_field (fun s : State => s.mgroups) _ (fun s x => by simp)]
  simp
@[simp] theorem State.cleanL1_cmds (s : State) (core : Nat) (which : L1Line → Bool) : (State.cleanL1 s core which).cmds = s.cmds := by
  dsimp only [State.cleanL1]
  rw [State.modCore_cmds, foldl_field (fun s : State => s.cmds) _ (fun s x => by simp)]
  simp
@[simp] theorem State.cleanL1_cpys (s : State) (core : Nat) (which : L1Line → Bool) : (State.cleanL1 s core which).cpys = s.cpys := by
  dsimp only [State.cleanL1]
  rw [State.modCore_cpys, foldl_field (fun s : State => s.cpys) _ (fun s x => by simp)]
  simp
@[simp] theorem State.cleanL1_monitors (s : State) (core : Nat) (which : L1Line → Bool) : (State.cleanL1 s core which).monitors = s.monitors := by
  dsimp only [State.cleanL1]
  rw [State.modCore_monitors, foldl_field (fun s : State => s.monitors) _ (fun s x => by simp)]
  simp
@[simp] theorem State.cleanL1_msgs (s : State) (core : Nat) (which : L1Line → Bool) : (State.cleanL1 s core which).msgs = s.msgs := by
  dsimp only [State.cleanL1]
  rw [State.modCore_msgs, foldl_field (fun s : State => s.msgs) _ (fun s x => by simp)]
  simp
@[simp] theorem State.cleanL1_replies (s : State) (core : Nat) (which : L1Line → Bool) : (State.cleanL1 s core which).replies = s.replies := by
  dsimp only [State.cleanL1]
  rw [State.modCore_replies, foldl_field (fun s : State => s.replies) _ (fun s x => by simp)]
  simp
@[simp] theorem State.cleanL1_rels (s : State) (core : Nat) (which : L1Line → Bool) : (State.cleanL1 s core which).rels = s.rels := by
  dsimp only [State.cleanL1]
  rw [State.modCore_rels, foldl_field (fun s : State => s.rels) _ (fun s x => by simp)]
  simp
@[simp] theorem State.cleanL1_walks (s : State) (core : Nat) (which : L1Line → Bool) : (State.cleanL1 s core which).walks = s.walks := by
  dsimp only [State.cleanL1]
  rw [State.modCore_walks, foldl_field (fun s : State => s.walks) _ (fun s x => by simp)]
  simp
@[simp] theorem State.cleanL1_pool (s : State) (core : Nat) (which : L1Line → Bool) : (State.cleanL1 s core which).pool = s.pool := by
  dsimp only [State.cleanL1]
  rw [State.modCore_pool, foldl_field (fun s : State => s.pool) _ (fun s x => by simp)]
  simp
@[simp] theorem State.cleanL1_saved (s : State) (core : Nat) (which : L1Line → Bool) : (State.cleanL1 s core which).saved = s.saved := by
  dsimp only [State.cleanL1]
  rw [State.modCore_saved, foldl_field (fun s : State => s.saved) _ (fun s x => by simp)]
  simp
@[simp] theorem State.cleanL1_faultRecs (s : State) (core : Nat) (which : L1Line → Bool) : (State.cleanL1 s core which).faultRecs = s.faultRecs := by
  dsimp only [State.cleanL1]
  rw [State.modCore_faultRecs, foldl_field (fun s : State => s.faultRecs) _ (fun s x => by simp)]
  simp
@[simp] theorem State.cleanL1_ctxs (s : State) (core : Nat) (which : L1Line → Bool) : (State.cleanL1 s core which).ctxs = s.ctxs := by
  dsimp only [State.cleanL1]
  rw [State.modCore_ctxs, foldl_field (fun s : State => s.ctxs) _ (fun s x => by simp)]
  simp
@[simp] theorem State.cleanL1_amsgs (s : State) (core : Nat) (which : L1Line → Bool) : (State.cleanL1 s core which).amsgs = s.amsgs := by
  dsimp only [State.cleanL1]
  rw [State.modCore_amsgs, foldl_field (fun s : State => s.amsgs) _ (fun s x => by simp)]
  simp
@[simp] theorem State.cleanL1_queues (s : State) (core : Nat) (which : L1Line → Bool) : (State.cleanL1 s core which).queues = s.queues := by
  dsimp only [State.cleanL1]
  rw [State.modCore_queues, foldl_field (fun s : State => s.queues) _ (fun s x => by simp)]
  simp
@[simp] theorem State.cleanL1_bulks (s : State) (core : Nat) (which : L1Line → Bool) : (State.cleanL1 s core which).bulks = s.bulks := by
  dsimp only [State.cleanL1]
  rw [State.modCore_bulks, foldl_field (fun s : State => s.bulks) _ (fun s x => by simp)]
  simp
@[simp] theorem State.cleanL1_kiln (s : State) (core : Nat) (which : L1Line → Bool) : (State.cleanL1 s core which).kiln = s.kiln := by
  dsimp only [State.cleanL1]
  rw [State.modCore_kiln, foldl_field (fun s : State => s.kiln) _ (fun s x => by simp)]
  simp
@[simp] theorem State.cleanL1_dev (s : State) (core : Nat) (which : L1Line → Bool) : (State.cleanL1 s core which).dev = s.dev := by
  dsimp only [State.cleanL1]
  rw [State.modCore_dev, foldl_field (fun s : State => s.dev) _ (fun s x => by simp)]
  simp

/-! `State.dropL1` changes `fresh` and `cores` and `mem`. -/
@[simp] theorem State.dropL1_agenda (s : State) (core : Nat) (which : L1Line → Bool) : (State.dropL1 s core which).agenda = s.agenda := by simp [State.dropL1]
@[simp] theorem State.dropL1_turn (s : State) (core : Nat) (which : L1Line → Bool) : (State.dropL1 s core which).turn = s.turn := by simp [State.dropL1]
@[simp] theorem State.dropL1_threads (s : State) (core : Nat) (which : L1Line → Bool) : (State.dropL1 s core which).threads = s.threads := by simp [State.dropL1]
@[simp] theorem State.dropL1_cohorts (s : State) (core : Nat) (which : L1Line → Bool) : (State.dropL1 s core which).cohorts = s.cohorts := by simp [State.dropL1]
@[simp] theorem State.dropL1_issues (s : State) (core : Nat) (which : L1Line → Bool) : (State.dropL1 s core which).issues = s.issues := by simp [State.dropL1]
@[simp] theorem State.dropL1_groups (s : State) (core : Nat) (which : L1Line → Bool) : (State.dropL1 s core which).groups = s.groups := by simp [State.dropL1]
@[simp] theorem State.dropL1_kernels (s : State) (core : Nat) (which : L1Line → Bool) : (State.dropL1 s core which).kernels = s.kernels := by simp [State.dropL1]
@[simp] theorem State.dropL1_launches (s : State) (core : Nat) (which : L1Line → Bool) : (State.dropL1 s core which).launches = s.launches := by simp [State.dropL1]
@[simp] theorem State.dropL1_ops (s : State) (core : Nat) (which : L1Line → Bool) : (State.dropL1 s core which).ops = s.ops := by simp [State.dropL1]
@[simp] theorem State.dropL1_uses (s : State) (core : Nat) (which : L1Line → Bool) : (State.dropL1 s core which).uses = s.uses := by simp [State.dropL1]
@[simp] theorem State.dropL1_mgroups (s : State) (core : Nat) (which : L1Line → Bool) : (State.dropL1 s core which).mgroups = s.mgroups := by simp [State.dropL1]
@[simp] theorem State.dropL1_cmds (s : State) (core : Nat) (which : L1Line → Bool) : (State.dropL1 s core which).cmds = s.cmds := by simp [State.dropL1]
@[simp] theorem State.dropL1_cpys (s : State) (core : Nat) (which : L1Line → Bool) : (State.dropL1 s core which).cpys = s.cpys := by simp [State.dropL1]
@[simp] theorem State.dropL1_monitors (s : State) (core : Nat) (which : L1Line → Bool) : (State.dropL1 s core which).monitors = s.monitors := by simp [State.dropL1]
@[simp] theorem State.dropL1_msgs (s : State) (core : Nat) (which : L1Line → Bool) : (State.dropL1 s core which).msgs = s.msgs := by simp [State.dropL1]
@[simp] theorem State.dropL1_replies (s : State) (core : Nat) (which : L1Line → Bool) : (State.dropL1 s core which).replies = s.replies := by simp [State.dropL1]
@[simp] theorem State.dropL1_rels (s : State) (core : Nat) (which : L1Line → Bool) : (State.dropL1 s core which).rels = s.rels := by simp [State.dropL1]
@[simp] theorem State.dropL1_walks (s : State) (core : Nat) (which : L1Line → Bool) : (State.dropL1 s core which).walks = s.walks := by simp [State.dropL1]
@[simp] theorem State.dropL1_pool (s : State) (core : Nat) (which : L1Line → Bool) : (State.dropL1 s core which).pool = s.pool := by simp [State.dropL1]
@[simp] theorem State.dropL1_saved (s : State) (core : Nat) (which : L1Line → Bool) : (State.dropL1 s core which).saved = s.saved := by simp [State.dropL1]
@[simp] theorem State.dropL1_faultRecs (s : State) (core : Nat) (which : L1Line → Bool) : (State.dropL1 s core which).faultRecs = s.faultRecs := by simp [State.dropL1]
@[simp] theorem State.dropL1_ctxs (s : State) (core : Nat) (which : L1Line → Bool) : (State.dropL1 s core which).ctxs = s.ctxs := by simp [State.dropL1]
@[simp] theorem State.dropL1_amsgs (s : State) (core : Nat) (which : L1Line → Bool) : (State.dropL1 s core which).amsgs = s.amsgs := by simp [State.dropL1]
@[simp] theorem State.dropL1_queues (s : State) (core : Nat) (which : L1Line → Bool) : (State.dropL1 s core which).queues = s.queues := by simp [State.dropL1]
@[simp] theorem State.dropL1_bulks (s : State) (core : Nat) (which : L1Line → Bool) : (State.dropL1 s core which).bulks = s.bulks := by simp [State.dropL1]
@[simp] theorem State.dropL1_kiln (s : State) (core : Nat) (which : L1Line → Bool) : (State.dropL1 s core which).kiln = s.kiln := by simp [State.dropL1]
@[simp] theorem State.dropL1_dev (s : State) (core : Nat) (which : L1Line → Bool) : (State.dropL1 s core which).dev = s.dev := by simp [State.dropL1]

/-! `State.setClock` changes `fresh` and `cores` and `mem`. -/
@[simp] theorem State.setClock_agenda (s : State) (core : Nat) (cycle : Nat) : (State.setClock s core cycle).agenda = s.agenda := by
  dsimp only [State.setClock]
  rw [foldl_field (fun s : State => s.agenda) _ (fun s x => by simp)]
  simp
@[simp] theorem State.setClock_turn (s : State) (core : Nat) (cycle : Nat) : (State.setClock s core cycle).turn = s.turn := by
  dsimp only [State.setClock]
  rw [foldl_field (fun s : State => s.turn) _ (fun s x => by simp)]
  simp
@[simp] theorem State.setClock_threads (s : State) (core : Nat) (cycle : Nat) : (State.setClock s core cycle).threads = s.threads := by
  dsimp only [State.setClock]
  rw [foldl_field (fun s : State => s.threads) _ (fun s x => by simp)]
  simp
@[simp] theorem State.setClock_cohorts (s : State) (core : Nat) (cycle : Nat) : (State.setClock s core cycle).cohorts = s.cohorts := by
  dsimp only [State.setClock]
  rw [foldl_field (fun s : State => s.cohorts) _ (fun s x => by simp)]
  simp
@[simp] theorem State.setClock_issues (s : State) (core : Nat) (cycle : Nat) : (State.setClock s core cycle).issues = s.issues := by
  dsimp only [State.setClock]
  rw [foldl_field (fun s : State => s.issues) _ (fun s x => by simp)]
  simp
@[simp] theorem State.setClock_groups (s : State) (core : Nat) (cycle : Nat) : (State.setClock s core cycle).groups = s.groups := by
  dsimp only [State.setClock]
  rw [foldl_field (fun s : State => s.groups) _ (fun s x => by simp)]
  simp
@[simp] theorem State.setClock_kernels (s : State) (core : Nat) (cycle : Nat) : (State.setClock s core cycle).kernels = s.kernels := by
  dsimp only [State.setClock]
  rw [foldl_field (fun s : State => s.kernels) _ (fun s x => by simp)]
  simp
@[simp] theorem State.setClock_launches (s : State) (core : Nat) (cycle : Nat) : (State.setClock s core cycle).launches = s.launches := by
  dsimp only [State.setClock]
  rw [foldl_field (fun s : State => s.launches) _ (fun s x => by simp)]
  simp
@[simp] theorem State.setClock_ops (s : State) (core : Nat) (cycle : Nat) : (State.setClock s core cycle).ops = s.ops := by
  dsimp only [State.setClock]
  rw [foldl_field (fun s : State => s.ops) _ (fun s x => by simp)]
  simp
@[simp] theorem State.setClock_uses (s : State) (core : Nat) (cycle : Nat) : (State.setClock s core cycle).uses = s.uses := by
  dsimp only [State.setClock]
  rw [foldl_field (fun s : State => s.uses) _ (fun s x => by simp)]
  simp
@[simp] theorem State.setClock_mgroups (s : State) (core : Nat) (cycle : Nat) : (State.setClock s core cycle).mgroups = s.mgroups := by
  dsimp only [State.setClock]
  rw [foldl_field (fun s : State => s.mgroups) _ (fun s x => by simp)]
  simp
@[simp] theorem State.setClock_cmds (s : State) (core : Nat) (cycle : Nat) : (State.setClock s core cycle).cmds = s.cmds := by
  dsimp only [State.setClock]
  rw [foldl_field (fun s : State => s.cmds) _ (fun s x => by simp)]
  simp
@[simp] theorem State.setClock_cpys (s : State) (core : Nat) (cycle : Nat) : (State.setClock s core cycle).cpys = s.cpys := by
  dsimp only [State.setClock]
  rw [foldl_field (fun s : State => s.cpys) _ (fun s x => by simp)]
  simp
@[simp] theorem State.setClock_monitors (s : State) (core : Nat) (cycle : Nat) : (State.setClock s core cycle).monitors = s.monitors := by
  dsimp only [State.setClock]
  rw [foldl_field (fun s : State => s.monitors) _ (fun s x => by simp)]
  simp
@[simp] theorem State.setClock_msgs (s : State) (core : Nat) (cycle : Nat) : (State.setClock s core cycle).msgs = s.msgs := by
  dsimp only [State.setClock]
  rw [foldl_field (fun s : State => s.msgs) _ (fun s x => by simp)]
  simp
@[simp] theorem State.setClock_replies (s : State) (core : Nat) (cycle : Nat) : (State.setClock s core cycle).replies = s.replies := by
  dsimp only [State.setClock]
  rw [foldl_field (fun s : State => s.replies) _ (fun s x => by simp)]
  simp
@[simp] theorem State.setClock_rels (s : State) (core : Nat) (cycle : Nat) : (State.setClock s core cycle).rels = s.rels := by
  dsimp only [State.setClock]
  rw [foldl_field (fun s : State => s.rels) _ (fun s x => by simp)]
  simp
@[simp] theorem State.setClock_walks (s : State) (core : Nat) (cycle : Nat) : (State.setClock s core cycle).walks = s.walks := by
  dsimp only [State.setClock]
  rw [foldl_field (fun s : State => s.walks) _ (fun s x => by simp)]
  simp
@[simp] theorem State.setClock_pool (s : State) (core : Nat) (cycle : Nat) : (State.setClock s core cycle).pool = s.pool := by
  dsimp only [State.setClock]
  rw [foldl_field (fun s : State => s.pool) _ (fun s x => by simp)]
  simp
@[simp] theorem State.setClock_saved (s : State) (core : Nat) (cycle : Nat) : (State.setClock s core cycle).saved = s.saved := by
  dsimp only [State.setClock]
  rw [foldl_field (fun s : State => s.saved) _ (fun s x => by simp)]
  simp
@[simp] theorem State.setClock_faultRecs (s : State) (core : Nat) (cycle : Nat) : (State.setClock s core cycle).faultRecs = s.faultRecs := by
  dsimp only [State.setClock]
  rw [foldl_field (fun s : State => s.faultRecs) _ (fun s x => by simp)]
  simp
@[simp] theorem State.setClock_ctxs (s : State) (core : Nat) (cycle : Nat) : (State.setClock s core cycle).ctxs = s.ctxs := by
  dsimp only [State.setClock]
  rw [foldl_field (fun s : State => s.ctxs) _ (fun s x => by simp)]
  simp
@[simp] theorem State.setClock_amsgs (s : State) (core : Nat) (cycle : Nat) : (State.setClock s core cycle).amsgs = s.amsgs := by
  dsimp only [State.setClock]
  rw [foldl_field (fun s : State => s.amsgs) _ (fun s x => by simp)]
  simp
@[simp] theorem State.setClock_queues (s : State) (core : Nat) (cycle : Nat) : (State.setClock s core cycle).queues = s.queues := by
  dsimp only [State.setClock]
  rw [foldl_field (fun s : State => s.queues) _ (fun s x => by simp)]
  simp
@[simp] theorem State.setClock_bulks (s : State) (core : Nat) (cycle : Nat) : (State.setClock s core cycle).bulks = s.bulks := by
  dsimp only [State.setClock]
  rw [foldl_field (fun s : State => s.bulks) _ (fun s x => by simp)]
  simp
@[simp] theorem State.setClock_kiln (s : State) (core : Nat) (cycle : Nat) : (State.setClock s core cycle).kiln = s.kiln := by
  dsimp only [State.setClock]
  rw [foldl_field (fun s : State => s.kiln) _ (fun s x => by simp)]
  simp
@[simp] theorem State.setClock_dev (s : State) (core : Nat) (cycle : Nat) : (State.setClock s core cycle).dev = s.dev := by
  dsimp only [State.setClock]
  rw [foldl_field (fun s : State => s.dev) _ (fun s x => by simp)]
  simp

/-! `State.roomL1` changes `fresh` and `cores` and `mem`. -/
@[simp] theorem State.roomL1_agenda (s : State) (core : Nat) (granule : Nat) : (State.roomL1 s core granule).agenda = s.agenda := by
  dsimp only [State.roomL1]
  (repeat' split) <;> simp
@[simp] theorem State.roomL1_turn (s : State) (core : Nat) (granule : Nat) : (State.roomL1 s core granule).turn = s.turn := by
  dsimp only [State.roomL1]
  (repeat' split) <;> simp
@[simp] theorem State.roomL1_threads (s : State) (core : Nat) (granule : Nat) : (State.roomL1 s core granule).threads = s.threads := by
  dsimp only [State.roomL1]
  (repeat' split) <;> simp
@[simp] theorem State.roomL1_cohorts (s : State) (core : Nat) (granule : Nat) : (State.roomL1 s core granule).cohorts = s.cohorts := by
  dsimp only [State.roomL1]
  (repeat' split) <;> simp
@[simp] theorem State.roomL1_issues (s : State) (core : Nat) (granule : Nat) : (State.roomL1 s core granule).issues = s.issues := by
  dsimp only [State.roomL1]
  (repeat' split) <;> simp
@[simp] theorem State.roomL1_groups (s : State) (core : Nat) (granule : Nat) : (State.roomL1 s core granule).groups = s.groups := by
  dsimp only [State.roomL1]
  (repeat' split) <;> simp
@[simp] theorem State.roomL1_kernels (s : State) (core : Nat) (granule : Nat) : (State.roomL1 s core granule).kernels = s.kernels := by
  dsimp only [State.roomL1]
  (repeat' split) <;> simp
@[simp] theorem State.roomL1_launches (s : State) (core : Nat) (granule : Nat) : (State.roomL1 s core granule).launches = s.launches := by
  dsimp only [State.roomL1]
  (repeat' split) <;> simp
@[simp] theorem State.roomL1_ops (s : State) (core : Nat) (granule : Nat) : (State.roomL1 s core granule).ops = s.ops := by
  dsimp only [State.roomL1]
  (repeat' split) <;> simp
@[simp] theorem State.roomL1_uses (s : State) (core : Nat) (granule : Nat) : (State.roomL1 s core granule).uses = s.uses := by
  dsimp only [State.roomL1]
  (repeat' split) <;> simp
@[simp] theorem State.roomL1_mgroups (s : State) (core : Nat) (granule : Nat) : (State.roomL1 s core granule).mgroups = s.mgroups := by
  dsimp only [State.roomL1]
  (repeat' split) <;> simp
@[simp] theorem State.roomL1_cmds (s : State) (core : Nat) (granule : Nat) : (State.roomL1 s core granule).cmds = s.cmds := by
  dsimp only [State.roomL1]
  (repeat' split) <;> simp
@[simp] theorem State.roomL1_cpys (s : State) (core : Nat) (granule : Nat) : (State.roomL1 s core granule).cpys = s.cpys := by
  dsimp only [State.roomL1]
  (repeat' split) <;> simp
@[simp] theorem State.roomL1_monitors (s : State) (core : Nat) (granule : Nat) : (State.roomL1 s core granule).monitors = s.monitors := by
  dsimp only [State.roomL1]
  (repeat' split) <;> simp
@[simp] theorem State.roomL1_msgs (s : State) (core : Nat) (granule : Nat) : (State.roomL1 s core granule).msgs = s.msgs := by
  dsimp only [State.roomL1]
  (repeat' split) <;> simp
@[simp] theorem State.roomL1_replies (s : State) (core : Nat) (granule : Nat) : (State.roomL1 s core granule).replies = s.replies := by
  dsimp only [State.roomL1]
  (repeat' split) <;> simp
@[simp] theorem State.roomL1_rels (s : State) (core : Nat) (granule : Nat) : (State.roomL1 s core granule).rels = s.rels := by
  dsimp only [State.roomL1]
  (repeat' split) <;> simp
@[simp] theorem State.roomL1_walks (s : State) (core : Nat) (granule : Nat) : (State.roomL1 s core granule).walks = s.walks := by
  dsimp only [State.roomL1]
  (repeat' split) <;> simp
@[simp] theorem State.roomL1_pool (s : State) (core : Nat) (granule : Nat) : (State.roomL1 s core granule).pool = s.pool := by
  dsimp only [State.roomL1]
  (repeat' split) <;> simp
@[simp] theorem State.roomL1_saved (s : State) (core : Nat) (granule : Nat) : (State.roomL1 s core granule).saved = s.saved := by
  dsimp only [State.roomL1]
  (repeat' split) <;> simp
@[simp] theorem State.roomL1_faultRecs (s : State) (core : Nat) (granule : Nat) : (State.roomL1 s core granule).faultRecs = s.faultRecs := by
  dsimp only [State.roomL1]
  (repeat' split) <;> simp
@[simp] theorem State.roomL1_ctxs (s : State) (core : Nat) (granule : Nat) : (State.roomL1 s core granule).ctxs = s.ctxs := by
  dsimp only [State.roomL1]
  (repeat' split) <;> simp
@[simp] theorem State.roomL1_amsgs (s : State) (core : Nat) (granule : Nat) : (State.roomL1 s core granule).amsgs = s.amsgs := by
  dsimp only [State.roomL1]
  (repeat' split) <;> simp
@[simp] theorem State.roomL1_queues (s : State) (core : Nat) (granule : Nat) : (State.roomL1 s core granule).queues = s.queues := by
  dsimp only [State.roomL1]
  (repeat' split) <;> simp
@[simp] theorem State.roomL1_bulks (s : State) (core : Nat) (granule : Nat) : (State.roomL1 s core granule).bulks = s.bulks := by
  dsimp only [State.roomL1]
  (repeat' split) <;> simp
@[simp] theorem State.roomL1_kiln (s : State) (core : Nat) (granule : Nat) : (State.roomL1 s core granule).kiln = s.kiln := by
  dsimp only [State.roomL1]
  (repeat' split) <;> simp
@[simp] theorem State.roomL1_dev (s : State) (core : Nat) (granule : Nat) : (State.roomL1 s core granule).dev = s.dev := by
  dsimp only [State.roomL1]
  (repeat' split) <;> simp

/-! `State.putL1` changes `fresh` and `cores` and `mem`. -/
@[simp] theorem State.putL1_agenda (s : State) (core : Nat) (l : L1Line) : (State.putL1 s core l).agenda = s.agenda := by unfold State.putL1; split <;> simp
@[simp] theorem State.putL1_turn (s : State) (core : Nat) (l : L1Line) : (State.putL1 s core l).turn = s.turn := by unfold State.putL1; split <;> simp
@[simp] theorem State.putL1_threads (s : State) (core : Nat) (l : L1Line) : (State.putL1 s core l).threads = s.threads := by unfold State.putL1; split <;> simp
@[simp] theorem State.putL1_cohorts (s : State) (core : Nat) (l : L1Line) : (State.putL1 s core l).cohorts = s.cohorts := by unfold State.putL1; split <;> simp
@[simp] theorem State.putL1_issues (s : State) (core : Nat) (l : L1Line) : (State.putL1 s core l).issues = s.issues := by unfold State.putL1; split <;> simp
@[simp] theorem State.putL1_groups (s : State) (core : Nat) (l : L1Line) : (State.putL1 s core l).groups = s.groups := by unfold State.putL1; split <;> simp
@[simp] theorem State.putL1_kernels (s : State) (core : Nat) (l : L1Line) : (State.putL1 s core l).kernels = s.kernels := by unfold State.putL1; split <;> simp
@[simp] theorem State.putL1_launches (s : State) (core : Nat) (l : L1Line) : (State.putL1 s core l).launches = s.launches := by unfold State.putL1; split <;> simp
@[simp] theorem State.putL1_ops (s : State) (core : Nat) (l : L1Line) : (State.putL1 s core l).ops = s.ops := by unfold State.putL1; split <;> simp
@[simp] theorem State.putL1_uses (s : State) (core : Nat) (l : L1Line) : (State.putL1 s core l).uses = s.uses := by unfold State.putL1; split <;> simp
@[simp] theorem State.putL1_mgroups (s : State) (core : Nat) (l : L1Line) : (State.putL1 s core l).mgroups = s.mgroups := by unfold State.putL1; split <;> simp
@[simp] theorem State.putL1_cmds (s : State) (core : Nat) (l : L1Line) : (State.putL1 s core l).cmds = s.cmds := by unfold State.putL1; split <;> simp
@[simp] theorem State.putL1_cpys (s : State) (core : Nat) (l : L1Line) : (State.putL1 s core l).cpys = s.cpys := by unfold State.putL1; split <;> simp
@[simp] theorem State.putL1_monitors (s : State) (core : Nat) (l : L1Line) : (State.putL1 s core l).monitors = s.monitors := by unfold State.putL1; split <;> simp
@[simp] theorem State.putL1_msgs (s : State) (core : Nat) (l : L1Line) : (State.putL1 s core l).msgs = s.msgs := by unfold State.putL1; split <;> simp
@[simp] theorem State.putL1_replies (s : State) (core : Nat) (l : L1Line) : (State.putL1 s core l).replies = s.replies := by unfold State.putL1; split <;> simp
@[simp] theorem State.putL1_rels (s : State) (core : Nat) (l : L1Line) : (State.putL1 s core l).rels = s.rels := by unfold State.putL1; split <;> simp
@[simp] theorem State.putL1_walks (s : State) (core : Nat) (l : L1Line) : (State.putL1 s core l).walks = s.walks := by unfold State.putL1; split <;> simp
@[simp] theorem State.putL1_pool (s : State) (core : Nat) (l : L1Line) : (State.putL1 s core l).pool = s.pool := by unfold State.putL1; split <;> simp
@[simp] theorem State.putL1_saved (s : State) (core : Nat) (l : L1Line) : (State.putL1 s core l).saved = s.saved := by unfold State.putL1; split <;> simp
@[simp] theorem State.putL1_faultRecs (s : State) (core : Nat) (l : L1Line) : (State.putL1 s core l).faultRecs = s.faultRecs := by unfold State.putL1; split <;> simp
@[simp] theorem State.putL1_ctxs (s : State) (core : Nat) (l : L1Line) : (State.putL1 s core l).ctxs = s.ctxs := by unfold State.putL1; split <;> simp
@[simp] theorem State.putL1_amsgs (s : State) (core : Nat) (l : L1Line) : (State.putL1 s core l).amsgs = s.amsgs := by unfold State.putL1; split <;> simp
@[simp] theorem State.putL1_queues (s : State) (core : Nat) (l : L1Line) : (State.putL1 s core l).queues = s.queues := by unfold State.putL1; split <;> simp
@[simp] theorem State.putL1_bulks (s : State) (core : Nat) (l : L1Line) : (State.putL1 s core l).bulks = s.bulks := by unfold State.putL1; split <;> simp
@[simp] theorem State.putL1_kiln (s : State) (core : Nat) (l : L1Line) : (State.putL1 s core l).kiln = s.kiln := by unfold State.putL1; split <;> simp
@[simp] theorem State.putL1_dev (s : State) (core : Nat) (l : L1Line) : (State.putL1 s core l).dev = s.dev := by unfold State.putL1; split <;> simp

/-! `State.storeLine` changes `fresh` and `cores` and `mem`. -/
@[simp] theorem State.storeLine_agenda (s : State) (core : Nat) (asid : Nat) (va : Nat) (n : Nat) (v : Nat) (h : Home) (pol : Option Word) (kind : Nat) (lost : Nat) : (State.storeLine s core asid va n v h pol kind lost).agenda = s.agenda := by
  dsimp only [State.storeLine]
  (repeat' split) <;> simp
@[simp] theorem State.storeLine_turn (s : State) (core : Nat) (asid : Nat) (va : Nat) (n : Nat) (v : Nat) (h : Home) (pol : Option Word) (kind : Nat) (lost : Nat) : (State.storeLine s core asid va n v h pol kind lost).turn = s.turn := by
  dsimp only [State.storeLine]
  (repeat' split) <;> simp
@[simp] theorem State.storeLine_threads (s : State) (core : Nat) (asid : Nat) (va : Nat) (n : Nat) (v : Nat) (h : Home) (pol : Option Word) (kind : Nat) (lost : Nat) : (State.storeLine s core asid va n v h pol kind lost).threads = s.threads := by
  dsimp only [State.storeLine]
  (repeat' split) <;> simp
@[simp] theorem State.storeLine_cohorts (s : State) (core : Nat) (asid : Nat) (va : Nat) (n : Nat) (v : Nat) (h : Home) (pol : Option Word) (kind : Nat) (lost : Nat) : (State.storeLine s core asid va n v h pol kind lost).cohorts = s.cohorts := by
  dsimp only [State.storeLine]
  (repeat' split) <;> simp
@[simp] theorem State.storeLine_issues (s : State) (core : Nat) (asid : Nat) (va : Nat) (n : Nat) (v : Nat) (h : Home) (pol : Option Word) (kind : Nat) (lost : Nat) : (State.storeLine s core asid va n v h pol kind lost).issues = s.issues := by
  dsimp only [State.storeLine]
  (repeat' split) <;> simp
@[simp] theorem State.storeLine_groups (s : State) (core : Nat) (asid : Nat) (va : Nat) (n : Nat) (v : Nat) (h : Home) (pol : Option Word) (kind : Nat) (lost : Nat) : (State.storeLine s core asid va n v h pol kind lost).groups = s.groups := by
  dsimp only [State.storeLine]
  (repeat' split) <;> simp
@[simp] theorem State.storeLine_kernels (s : State) (core : Nat) (asid : Nat) (va : Nat) (n : Nat) (v : Nat) (h : Home) (pol : Option Word) (kind : Nat) (lost : Nat) : (State.storeLine s core asid va n v h pol kind lost).kernels = s.kernels := by
  dsimp only [State.storeLine]
  (repeat' split) <;> simp
@[simp] theorem State.storeLine_launches (s : State) (core : Nat) (asid : Nat) (va : Nat) (n : Nat) (v : Nat) (h : Home) (pol : Option Word) (kind : Nat) (lost : Nat) : (State.storeLine s core asid va n v h pol kind lost).launches = s.launches := by
  dsimp only [State.storeLine]
  (repeat' split) <;> simp
@[simp] theorem State.storeLine_ops (s : State) (core : Nat) (asid : Nat) (va : Nat) (n : Nat) (v : Nat) (h : Home) (pol : Option Word) (kind : Nat) (lost : Nat) : (State.storeLine s core asid va n v h pol kind lost).ops = s.ops := by
  dsimp only [State.storeLine]
  (repeat' split) <;> simp
@[simp] theorem State.storeLine_uses (s : State) (core : Nat) (asid : Nat) (va : Nat) (n : Nat) (v : Nat) (h : Home) (pol : Option Word) (kind : Nat) (lost : Nat) : (State.storeLine s core asid va n v h pol kind lost).uses = s.uses := by
  dsimp only [State.storeLine]
  (repeat' split) <;> simp
@[simp] theorem State.storeLine_mgroups (s : State) (core : Nat) (asid : Nat) (va : Nat) (n : Nat) (v : Nat) (h : Home) (pol : Option Word) (kind : Nat) (lost : Nat) : (State.storeLine s core asid va n v h pol kind lost).mgroups = s.mgroups := by
  dsimp only [State.storeLine]
  (repeat' split) <;> simp
@[simp] theorem State.storeLine_cmds (s : State) (core : Nat) (asid : Nat) (va : Nat) (n : Nat) (v : Nat) (h : Home) (pol : Option Word) (kind : Nat) (lost : Nat) : (State.storeLine s core asid va n v h pol kind lost).cmds = s.cmds := by
  dsimp only [State.storeLine]
  (repeat' split) <;> simp
@[simp] theorem State.storeLine_cpys (s : State) (core : Nat) (asid : Nat) (va : Nat) (n : Nat) (v : Nat) (h : Home) (pol : Option Word) (kind : Nat) (lost : Nat) : (State.storeLine s core asid va n v h pol kind lost).cpys = s.cpys := by
  dsimp only [State.storeLine]
  (repeat' split) <;> simp
@[simp] theorem State.storeLine_monitors (s : State) (core : Nat) (asid : Nat) (va : Nat) (n : Nat) (v : Nat) (h : Home) (pol : Option Word) (kind : Nat) (lost : Nat) : (State.storeLine s core asid va n v h pol kind lost).monitors = s.monitors := by
  dsimp only [State.storeLine]
  (repeat' split) <;> simp
@[simp] theorem State.storeLine_msgs (s : State) (core : Nat) (asid : Nat) (va : Nat) (n : Nat) (v : Nat) (h : Home) (pol : Option Word) (kind : Nat) (lost : Nat) : (State.storeLine s core asid va n v h pol kind lost).msgs = s.msgs := by
  dsimp only [State.storeLine]
  (repeat' split) <;> simp
@[simp] theorem State.storeLine_replies (s : State) (core : Nat) (asid : Nat) (va : Nat) (n : Nat) (v : Nat) (h : Home) (pol : Option Word) (kind : Nat) (lost : Nat) : (State.storeLine s core asid va n v h pol kind lost).replies = s.replies := by
  dsimp only [State.storeLine]
  (repeat' split) <;> simp
@[simp] theorem State.storeLine_rels (s : State) (core : Nat) (asid : Nat) (va : Nat) (n : Nat) (v : Nat) (h : Home) (pol : Option Word) (kind : Nat) (lost : Nat) : (State.storeLine s core asid va n v h pol kind lost).rels = s.rels := by
  dsimp only [State.storeLine]
  (repeat' split) <;> simp
@[simp] theorem State.storeLine_walks (s : State) (core : Nat) (asid : Nat) (va : Nat) (n : Nat) (v : Nat) (h : Home) (pol : Option Word) (kind : Nat) (lost : Nat) : (State.storeLine s core asid va n v h pol kind lost).walks = s.walks := by
  dsimp only [State.storeLine]
  (repeat' split) <;> simp
@[simp] theorem State.storeLine_pool (s : State) (core : Nat) (asid : Nat) (va : Nat) (n : Nat) (v : Nat) (h : Home) (pol : Option Word) (kind : Nat) (lost : Nat) : (State.storeLine s core asid va n v h pol kind lost).pool = s.pool := by
  dsimp only [State.storeLine]
  (repeat' split) <;> simp
@[simp] theorem State.storeLine_saved (s : State) (core : Nat) (asid : Nat) (va : Nat) (n : Nat) (v : Nat) (h : Home) (pol : Option Word) (kind : Nat) (lost : Nat) : (State.storeLine s core asid va n v h pol kind lost).saved = s.saved := by
  dsimp only [State.storeLine]
  (repeat' split) <;> simp
@[simp] theorem State.storeLine_faultRecs (s : State) (core : Nat) (asid : Nat) (va : Nat) (n : Nat) (v : Nat) (h : Home) (pol : Option Word) (kind : Nat) (lost : Nat) : (State.storeLine s core asid va n v h pol kind lost).faultRecs = s.faultRecs := by
  dsimp only [State.storeLine]
  (repeat' split) <;> simp
@[simp] theorem State.storeLine_ctxs (s : State) (core : Nat) (asid : Nat) (va : Nat) (n : Nat) (v : Nat) (h : Home) (pol : Option Word) (kind : Nat) (lost : Nat) : (State.storeLine s core asid va n v h pol kind lost).ctxs = s.ctxs := by
  dsimp only [State.storeLine]
  (repeat' split) <;> simp
@[simp] theorem State.storeLine_amsgs (s : State) (core : Nat) (asid : Nat) (va : Nat) (n : Nat) (v : Nat) (h : Home) (pol : Option Word) (kind : Nat) (lost : Nat) : (State.storeLine s core asid va n v h pol kind lost).amsgs = s.amsgs := by
  dsimp only [State.storeLine]
  (repeat' split) <;> simp
@[simp] theorem State.storeLine_queues (s : State) (core : Nat) (asid : Nat) (va : Nat) (n : Nat) (v : Nat) (h : Home) (pol : Option Word) (kind : Nat) (lost : Nat) : (State.storeLine s core asid va n v h pol kind lost).queues = s.queues := by
  dsimp only [State.storeLine]
  (repeat' split) <;> simp
@[simp] theorem State.storeLine_bulks (s : State) (core : Nat) (asid : Nat) (va : Nat) (n : Nat) (v : Nat) (h : Home) (pol : Option Word) (kind : Nat) (lost : Nat) : (State.storeLine s core asid va n v h pol kind lost).bulks = s.bulks := by
  dsimp only [State.storeLine]
  (repeat' split) <;> simp
@[simp] theorem State.storeLine_kiln (s : State) (core : Nat) (asid : Nat) (va : Nat) (n : Nat) (v : Nat) (h : Home) (pol : Option Word) (kind : Nat) (lost : Nat) : (State.storeLine s core asid va n v h pol kind lost).kiln = s.kiln := by
  dsimp only [State.storeLine]
  (repeat' split) <;> simp
@[simp] theorem State.storeLine_dev (s : State) (core : Nat) (asid : Nat) (va : Nat) (n : Nat) (v : Nat) (h : Home) (pol : Option Word) (kind : Nat) (lost : Nat) : (State.storeLine s core asid va n v h pol kind lost).dev = s.dev := by
  dsimp only [State.storeLine]
  (repeat' split) <;> simp

/-! `State.releaseAt` changes `fresh` and `cores` and `mem`. -/
@[simp] theorem State.releaseAt_agenda (s : State) (tid : Nat) (core : Nat) (asid : Nat) (scope : Nat) : (State.releaseAt s tid core asid scope).agenda = s.agenda := by
  dsimp only [State.releaseAt]
  (repeat' split) <;> simp
@[simp] theorem State.releaseAt_turn (s : State) (tid : Nat) (core : Nat) (asid : Nat) (scope : Nat) : (State.releaseAt s tid core asid scope).turn = s.turn := by
  dsimp only [State.releaseAt]
  (repeat' split) <;> simp
@[simp] theorem State.releaseAt_threads (s : State) (tid : Nat) (core : Nat) (asid : Nat) (scope : Nat) : (State.releaseAt s tid core asid scope).threads = s.threads := by
  dsimp only [State.releaseAt]
  (repeat' split) <;> simp
@[simp] theorem State.releaseAt_cohorts (s : State) (tid : Nat) (core : Nat) (asid : Nat) (scope : Nat) : (State.releaseAt s tid core asid scope).cohorts = s.cohorts := by
  dsimp only [State.releaseAt]
  (repeat' split) <;> simp
@[simp] theorem State.releaseAt_issues (s : State) (tid : Nat) (core : Nat) (asid : Nat) (scope : Nat) : (State.releaseAt s tid core asid scope).issues = s.issues := by
  dsimp only [State.releaseAt]
  (repeat' split) <;> simp
@[simp] theorem State.releaseAt_groups (s : State) (tid : Nat) (core : Nat) (asid : Nat) (scope : Nat) : (State.releaseAt s tid core asid scope).groups = s.groups := by
  dsimp only [State.releaseAt]
  (repeat' split) <;> simp
@[simp] theorem State.releaseAt_kernels (s : State) (tid : Nat) (core : Nat) (asid : Nat) (scope : Nat) : (State.releaseAt s tid core asid scope).kernels = s.kernels := by
  dsimp only [State.releaseAt]
  (repeat' split) <;> simp
@[simp] theorem State.releaseAt_launches (s : State) (tid : Nat) (core : Nat) (asid : Nat) (scope : Nat) : (State.releaseAt s tid core asid scope).launches = s.launches := by
  dsimp only [State.releaseAt]
  (repeat' split) <;> simp
@[simp] theorem State.releaseAt_ops (s : State) (tid : Nat) (core : Nat) (asid : Nat) (scope : Nat) : (State.releaseAt s tid core asid scope).ops = s.ops := by
  dsimp only [State.releaseAt]
  (repeat' split) <;> simp
@[simp] theorem State.releaseAt_uses (s : State) (tid : Nat) (core : Nat) (asid : Nat) (scope : Nat) : (State.releaseAt s tid core asid scope).uses = s.uses := by
  dsimp only [State.releaseAt]
  (repeat' split) <;> simp
@[simp] theorem State.releaseAt_mgroups (s : State) (tid : Nat) (core : Nat) (asid : Nat) (scope : Nat) : (State.releaseAt s tid core asid scope).mgroups = s.mgroups := by
  dsimp only [State.releaseAt]
  (repeat' split) <;> simp
@[simp] theorem State.releaseAt_cmds (s : State) (tid : Nat) (core : Nat) (asid : Nat) (scope : Nat) : (State.releaseAt s tid core asid scope).cmds = s.cmds := by
  dsimp only [State.releaseAt]
  (repeat' split) <;> simp
@[simp] theorem State.releaseAt_cpys (s : State) (tid : Nat) (core : Nat) (asid : Nat) (scope : Nat) : (State.releaseAt s tid core asid scope).cpys = s.cpys := by
  dsimp only [State.releaseAt]
  (repeat' split) <;> simp
@[simp] theorem State.releaseAt_monitors (s : State) (tid : Nat) (core : Nat) (asid : Nat) (scope : Nat) : (State.releaseAt s tid core asid scope).monitors = s.monitors := by
  dsimp only [State.releaseAt]
  (repeat' split) <;> simp
@[simp] theorem State.releaseAt_msgs (s : State) (tid : Nat) (core : Nat) (asid : Nat) (scope : Nat) : (State.releaseAt s tid core asid scope).msgs = s.msgs := by
  dsimp only [State.releaseAt]
  (repeat' split) <;> simp
@[simp] theorem State.releaseAt_replies (s : State) (tid : Nat) (core : Nat) (asid : Nat) (scope : Nat) : (State.releaseAt s tid core asid scope).replies = s.replies := by
  dsimp only [State.releaseAt]
  (repeat' split) <;> simp
@[simp] theorem State.releaseAt_rels (s : State) (tid : Nat) (core : Nat) (asid : Nat) (scope : Nat) : (State.releaseAt s tid core asid scope).rels = s.rels := by
  dsimp only [State.releaseAt]
  (repeat' split) <;> simp
@[simp] theorem State.releaseAt_walks (s : State) (tid : Nat) (core : Nat) (asid : Nat) (scope : Nat) : (State.releaseAt s tid core asid scope).walks = s.walks := by
  dsimp only [State.releaseAt]
  (repeat' split) <;> simp
@[simp] theorem State.releaseAt_pool (s : State) (tid : Nat) (core : Nat) (asid : Nat) (scope : Nat) : (State.releaseAt s tid core asid scope).pool = s.pool := by
  dsimp only [State.releaseAt]
  (repeat' split) <;> simp
@[simp] theorem State.releaseAt_saved (s : State) (tid : Nat) (core : Nat) (asid : Nat) (scope : Nat) : (State.releaseAt s tid core asid scope).saved = s.saved := by
  dsimp only [State.releaseAt]
  (repeat' split) <;> simp
@[simp] theorem State.releaseAt_faultRecs (s : State) (tid : Nat) (core : Nat) (asid : Nat) (scope : Nat) : (State.releaseAt s tid core asid scope).faultRecs = s.faultRecs := by
  dsimp only [State.releaseAt]
  (repeat' split) <;> simp
@[simp] theorem State.releaseAt_ctxs (s : State) (tid : Nat) (core : Nat) (asid : Nat) (scope : Nat) : (State.releaseAt s tid core asid scope).ctxs = s.ctxs := by
  dsimp only [State.releaseAt]
  (repeat' split) <;> simp
@[simp] theorem State.releaseAt_amsgs (s : State) (tid : Nat) (core : Nat) (asid : Nat) (scope : Nat) : (State.releaseAt s tid core asid scope).amsgs = s.amsgs := by
  dsimp only [State.releaseAt]
  (repeat' split) <;> simp
@[simp] theorem State.releaseAt_queues (s : State) (tid : Nat) (core : Nat) (asid : Nat) (scope : Nat) : (State.releaseAt s tid core asid scope).queues = s.queues := by
  dsimp only [State.releaseAt]
  (repeat' split) <;> simp
@[simp] theorem State.releaseAt_bulks (s : State) (tid : Nat) (core : Nat) (asid : Nat) (scope : Nat) : (State.releaseAt s tid core asid scope).bulks = s.bulks := by
  dsimp only [State.releaseAt]
  (repeat' split) <;> simp
@[simp] theorem State.releaseAt_kiln (s : State) (tid : Nat) (core : Nat) (asid : Nat) (scope : Nat) : (State.releaseAt s tid core asid scope).kiln = s.kiln := by
  dsimp only [State.releaseAt]
  (repeat' split) <;> simp
@[simp] theorem State.releaseAt_dev (s : State) (tid : Nat) (core : Nat) (asid : Nat) (scope : Nat) : (State.releaseAt s tid core asid scope).dev = s.dev := by
  dsimp only [State.releaseAt]
  (repeat' split) <;> simp

/-! `State.acquireAt` changes `fresh` and `threads` and `cores` and `ops` and `cpys` and `mem`. -/
@[simp] theorem State.acquireAt_agenda (s : State) (tid : Nat) (seq : Nat) (core : Nat) (asid : Nat) (scope : Nat) : (State.acquireAt s tid seq core asid scope).agenda = s.agenda := by
  dsimp only [State.acquireAt]
  (repeat' split) <;> simp
@[simp] theorem State.acquireAt_turn (s : State) (tid : Nat) (seq : Nat) (core : Nat) (asid : Nat) (scope : Nat) : (State.acquireAt s tid seq core asid scope).turn = s.turn := by
  dsimp only [State.acquireAt]
  (repeat' split) <;> simp
@[simp] theorem State.acquireAt_cohorts (s : State) (tid : Nat) (seq : Nat) (core : Nat) (asid : Nat) (scope : Nat) : (State.acquireAt s tid seq core asid scope).cohorts = s.cohorts := by
  dsimp only [State.acquireAt]
  (repeat' split) <;> simp
@[simp] theorem State.acquireAt_issues (s : State) (tid : Nat) (seq : Nat) (core : Nat) (asid : Nat) (scope : Nat) : (State.acquireAt s tid seq core asid scope).issues = s.issues := by
  dsimp only [State.acquireAt]
  (repeat' split) <;> simp
@[simp] theorem State.acquireAt_groups (s : State) (tid : Nat) (seq : Nat) (core : Nat) (asid : Nat) (scope : Nat) : (State.acquireAt s tid seq core asid scope).groups = s.groups := by
  dsimp only [State.acquireAt]
  (repeat' split) <;> simp
@[simp] theorem State.acquireAt_kernels (s : State) (tid : Nat) (seq : Nat) (core : Nat) (asid : Nat) (scope : Nat) : (State.acquireAt s tid seq core asid scope).kernels = s.kernels := by
  dsimp only [State.acquireAt]
  (repeat' split) <;> simp
@[simp] theorem State.acquireAt_launches (s : State) (tid : Nat) (seq : Nat) (core : Nat) (asid : Nat) (scope : Nat) : (State.acquireAt s tid seq core asid scope).launches = s.launches := by
  dsimp only [State.acquireAt]
  (repeat' split) <;> simp
@[simp] theorem State.acquireAt_uses (s : State) (tid : Nat) (seq : Nat) (core : Nat) (asid : Nat) (scope : Nat) : (State.acquireAt s tid seq core asid scope).uses = s.uses := by
  dsimp only [State.acquireAt]
  (repeat' split) <;> simp
@[simp] theorem State.acquireAt_mgroups (s : State) (tid : Nat) (seq : Nat) (core : Nat) (asid : Nat) (scope : Nat) : (State.acquireAt s tid seq core asid scope).mgroups = s.mgroups := by
  dsimp only [State.acquireAt]
  (repeat' split) <;> simp
@[simp] theorem State.acquireAt_cmds (s : State) (tid : Nat) (seq : Nat) (core : Nat) (asid : Nat) (scope : Nat) : (State.acquireAt s tid seq core asid scope).cmds = s.cmds := by
  dsimp only [State.acquireAt]
  (repeat' split) <;> simp
@[simp] theorem State.acquireAt_monitors (s : State) (tid : Nat) (seq : Nat) (core : Nat) (asid : Nat) (scope : Nat) : (State.acquireAt s tid seq core asid scope).monitors = s.monitors := by
  dsimp only [State.acquireAt]
  (repeat' split) <;> simp
@[simp] theorem State.acquireAt_msgs (s : State) (tid : Nat) (seq : Nat) (core : Nat) (asid : Nat) (scope : Nat) : (State.acquireAt s tid seq core asid scope).msgs = s.msgs := by
  dsimp only [State.acquireAt]
  (repeat' split) <;> simp
@[simp] theorem State.acquireAt_replies (s : State) (tid : Nat) (seq : Nat) (core : Nat) (asid : Nat) (scope : Nat) : (State.acquireAt s tid seq core asid scope).replies = s.replies := by
  dsimp only [State.acquireAt]
  (repeat' split) <;> simp
@[simp] theorem State.acquireAt_rels (s : State) (tid : Nat) (seq : Nat) (core : Nat) (asid : Nat) (scope : Nat) : (State.acquireAt s tid seq core asid scope).rels = s.rels := by
  dsimp only [State.acquireAt]
  (repeat' split) <;> simp
@[simp] theorem State.acquireAt_walks (s : State) (tid : Nat) (seq : Nat) (core : Nat) (asid : Nat) (scope : Nat) : (State.acquireAt s tid seq core asid scope).walks = s.walks := by
  dsimp only [State.acquireAt]
  (repeat' split) <;> simp
@[simp] theorem State.acquireAt_pool (s : State) (tid : Nat) (seq : Nat) (core : Nat) (asid : Nat) (scope : Nat) : (State.acquireAt s tid seq core asid scope).pool = s.pool := by
  dsimp only [State.acquireAt]
  (repeat' split) <;> simp
@[simp] theorem State.acquireAt_saved (s : State) (tid : Nat) (seq : Nat) (core : Nat) (asid : Nat) (scope : Nat) : (State.acquireAt s tid seq core asid scope).saved = s.saved := by
  dsimp only [State.acquireAt]
  (repeat' split) <;> simp
@[simp] theorem State.acquireAt_faultRecs (s : State) (tid : Nat) (seq : Nat) (core : Nat) (asid : Nat) (scope : Nat) : (State.acquireAt s tid seq core asid scope).faultRecs = s.faultRecs := by
  dsimp only [State.acquireAt]
  (repeat' split) <;> simp
@[simp] theorem State.acquireAt_ctxs (s : State) (tid : Nat) (seq : Nat) (core : Nat) (asid : Nat) (scope : Nat) : (State.acquireAt s tid seq core asid scope).ctxs = s.ctxs := by
  dsimp only [State.acquireAt]
  (repeat' split) <;> simp
@[simp] theorem State.acquireAt_amsgs (s : State) (tid : Nat) (seq : Nat) (core : Nat) (asid : Nat) (scope : Nat) : (State.acquireAt s tid seq core asid scope).amsgs = s.amsgs := by
  dsimp only [State.acquireAt]
  (repeat' split) <;> simp
@[simp] theorem State.acquireAt_queues (s : State) (tid : Nat) (seq : Nat) (core : Nat) (asid : Nat) (scope : Nat) : (State.acquireAt s tid seq core asid scope).queues = s.queues := by
  dsimp only [State.acquireAt]
  (repeat' split) <;> simp
@[simp] theorem State.acquireAt_bulks (s : State) (tid : Nat) (seq : Nat) (core : Nat) (asid : Nat) (scope : Nat) : (State.acquireAt s tid seq core asid scope).bulks = s.bulks := by
  dsimp only [State.acquireAt]
  (repeat' split) <;> simp
@[simp] theorem State.acquireAt_kiln (s : State) (tid : Nat) (seq : Nat) (core : Nat) (asid : Nat) (scope : Nat) : (State.acquireAt s tid seq core asid scope).kiln = s.kiln := by
  dsimp only [State.acquireAt]
  (repeat' split) <;> simp
@[simp] theorem State.acquireAt_dev (s : State) (tid : Nat) (seq : Nat) (core : Nat) (asid : Nat) (scope : Nat) : (State.acquireAt s tid seq core asid scope).dev = s.dev := by
  dsimp only [State.acquireAt]
  (repeat' split) <;> simp

/-! `State.fenceEffect` changes `fresh` and `threads` and `cores` and `ops` and `cpys` and `mem`. -/
@[simp] theorem State.fenceEffect_agenda (s : State) (tid : Nat) (seq : Nat) (core : Nat) (asid : Nat) (scope : Nat) (rel : Bool) (acq : Bool) : (State.fenceEffect s tid seq core asid scope rel acq).agenda = s.agenda := by
  dsimp only [State.fenceEffect]
  (repeat' split) <;> simp
@[simp] theorem State.fenceEffect_turn (s : State) (tid : Nat) (seq : Nat) (core : Nat) (asid : Nat) (scope : Nat) (rel : Bool) (acq : Bool) : (State.fenceEffect s tid seq core asid scope rel acq).turn = s.turn := by
  dsimp only [State.fenceEffect]
  (repeat' split) <;> simp
@[simp] theorem State.fenceEffect_cohorts (s : State) (tid : Nat) (seq : Nat) (core : Nat) (asid : Nat) (scope : Nat) (rel : Bool) (acq : Bool) : (State.fenceEffect s tid seq core asid scope rel acq).cohorts = s.cohorts := by
  dsimp only [State.fenceEffect]
  (repeat' split) <;> simp
@[simp] theorem State.fenceEffect_issues (s : State) (tid : Nat) (seq : Nat) (core : Nat) (asid : Nat) (scope : Nat) (rel : Bool) (acq : Bool) : (State.fenceEffect s tid seq core asid scope rel acq).issues = s.issues := by
  dsimp only [State.fenceEffect]
  (repeat' split) <;> simp
@[simp] theorem State.fenceEffect_groups (s : State) (tid : Nat) (seq : Nat) (core : Nat) (asid : Nat) (scope : Nat) (rel : Bool) (acq : Bool) : (State.fenceEffect s tid seq core asid scope rel acq).groups = s.groups := by
  dsimp only [State.fenceEffect]
  (repeat' split) <;> simp
@[simp] theorem State.fenceEffect_kernels (s : State) (tid : Nat) (seq : Nat) (core : Nat) (asid : Nat) (scope : Nat) (rel : Bool) (acq : Bool) : (State.fenceEffect s tid seq core asid scope rel acq).kernels = s.kernels := by
  dsimp only [State.fenceEffect]
  (repeat' split) <;> simp
@[simp] theorem State.fenceEffect_launches (s : State) (tid : Nat) (seq : Nat) (core : Nat) (asid : Nat) (scope : Nat) (rel : Bool) (acq : Bool) : (State.fenceEffect s tid seq core asid scope rel acq).launches = s.launches := by
  dsimp only [State.fenceEffect]
  (repeat' split) <;> simp
@[simp] theorem State.fenceEffect_uses (s : State) (tid : Nat) (seq : Nat) (core : Nat) (asid : Nat) (scope : Nat) (rel : Bool) (acq : Bool) : (State.fenceEffect s tid seq core asid scope rel acq).uses = s.uses := by
  dsimp only [State.fenceEffect]
  (repeat' split) <;> simp
@[simp] theorem State.fenceEffect_mgroups (s : State) (tid : Nat) (seq : Nat) (core : Nat) (asid : Nat) (scope : Nat) (rel : Bool) (acq : Bool) : (State.fenceEffect s tid seq core asid scope rel acq).mgroups = s.mgroups := by
  dsimp only [State.fenceEffect]
  (repeat' split) <;> simp
@[simp] theorem State.fenceEffect_cmds (s : State) (tid : Nat) (seq : Nat) (core : Nat) (asid : Nat) (scope : Nat) (rel : Bool) (acq : Bool) : (State.fenceEffect s tid seq core asid scope rel acq).cmds = s.cmds := by
  dsimp only [State.fenceEffect]
  (repeat' split) <;> simp
@[simp] theorem State.fenceEffect_monitors (s : State) (tid : Nat) (seq : Nat) (core : Nat) (asid : Nat) (scope : Nat) (rel : Bool) (acq : Bool) : (State.fenceEffect s tid seq core asid scope rel acq).monitors = s.monitors := by
  dsimp only [State.fenceEffect]
  (repeat' split) <;> simp
@[simp] theorem State.fenceEffect_msgs (s : State) (tid : Nat) (seq : Nat) (core : Nat) (asid : Nat) (scope : Nat) (rel : Bool) (acq : Bool) : (State.fenceEffect s tid seq core asid scope rel acq).msgs = s.msgs := by
  dsimp only [State.fenceEffect]
  (repeat' split) <;> simp
@[simp] theorem State.fenceEffect_replies (s : State) (tid : Nat) (seq : Nat) (core : Nat) (asid : Nat) (scope : Nat) (rel : Bool) (acq : Bool) : (State.fenceEffect s tid seq core asid scope rel acq).replies = s.replies := by
  dsimp only [State.fenceEffect]
  (repeat' split) <;> simp
@[simp] theorem State.fenceEffect_rels (s : State) (tid : Nat) (seq : Nat) (core : Nat) (asid : Nat) (scope : Nat) (rel : Bool) (acq : Bool) : (State.fenceEffect s tid seq core asid scope rel acq).rels = s.rels := by
  dsimp only [State.fenceEffect]
  (repeat' split) <;> simp
@[simp] theorem State.fenceEffect_walks (s : State) (tid : Nat) (seq : Nat) (core : Nat) (asid : Nat) (scope : Nat) (rel : Bool) (acq : Bool) : (State.fenceEffect s tid seq core asid scope rel acq).walks = s.walks := by
  dsimp only [State.fenceEffect]
  (repeat' split) <;> simp
@[simp] theorem State.fenceEffect_pool (s : State) (tid : Nat) (seq : Nat) (core : Nat) (asid : Nat) (scope : Nat) (rel : Bool) (acq : Bool) : (State.fenceEffect s tid seq core asid scope rel acq).pool = s.pool := by
  dsimp only [State.fenceEffect]
  (repeat' split) <;> simp
@[simp] theorem State.fenceEffect_saved (s : State) (tid : Nat) (seq : Nat) (core : Nat) (asid : Nat) (scope : Nat) (rel : Bool) (acq : Bool) : (State.fenceEffect s tid seq core asid scope rel acq).saved = s.saved := by
  dsimp only [State.fenceEffect]
  (repeat' split) <;> simp
@[simp] theorem State.fenceEffect_faultRecs (s : State) (tid : Nat) (seq : Nat) (core : Nat) (asid : Nat) (scope : Nat) (rel : Bool) (acq : Bool) : (State.fenceEffect s tid seq core asid scope rel acq).faultRecs = s.faultRecs := by
  dsimp only [State.fenceEffect]
  (repeat' split) <;> simp
@[simp] theorem State.fenceEffect_ctxs (s : State) (tid : Nat) (seq : Nat) (core : Nat) (asid : Nat) (scope : Nat) (rel : Bool) (acq : Bool) : (State.fenceEffect s tid seq core asid scope rel acq).ctxs = s.ctxs := by
  dsimp only [State.fenceEffect]
  (repeat' split) <;> simp
@[simp] theorem State.fenceEffect_amsgs (s : State) (tid : Nat) (seq : Nat) (core : Nat) (asid : Nat) (scope : Nat) (rel : Bool) (acq : Bool) : (State.fenceEffect s tid seq core asid scope rel acq).amsgs = s.amsgs := by
  dsimp only [State.fenceEffect]
  (repeat' split) <;> simp
@[simp] theorem State.fenceEffect_queues (s : State) (tid : Nat) (seq : Nat) (core : Nat) (asid : Nat) (scope : Nat) (rel : Bool) (acq : Bool) : (State.fenceEffect s tid seq core asid scope rel acq).queues = s.queues := by
  dsimp only [State.fenceEffect]
  (repeat' split) <;> simp
@[simp] theorem State.fenceEffect_bulks (s : State) (tid : Nat) (seq : Nat) (core : Nat) (asid : Nat) (scope : Nat) (rel : Bool) (acq : Bool) : (State.fenceEffect s tid seq core asid scope rel acq).bulks = s.bulks := by
  dsimp only [State.fenceEffect]
  (repeat' split) <;> simp
@[simp] theorem State.fenceEffect_kiln (s : State) (tid : Nat) (seq : Nat) (core : Nat) (asid : Nat) (scope : Nat) (rel : Bool) (acq : Bool) : (State.fenceEffect s tid seq core asid scope rel acq).kiln = s.kiln := by
  dsimp only [State.fenceEffect]
  (repeat' split) <;> simp
@[simp] theorem State.fenceEffect_dev (s : State) (tid : Nat) (seq : Nat) (core : Nat) (asid : Nat) (scope : Nat) (rel : Bool) (acq : Bool) : (State.fenceEffect s tid seq core asid scope rel acq).dev = s.dev := by
  dsimp only [State.fenceEffect]
  (repeat' split) <;> simp

/-! `State.meetErrorAt` changes `mem`. -/
@[simp] theorem State.meetErrorAt_agenda (s : State) (die asid va : Nat) (allows : Word → Bool) : (State.meetErrorAt s die asid va allows).agenda = s.agenda := by unfold State.meetErrorAt; split <;> simp
@[simp] theorem State.meetErrorAt_turn (s : State) (die asid va : Nat) (allows : Word → Bool) : (State.meetErrorAt s die asid va allows).turn = s.turn := by unfold State.meetErrorAt; split <;> simp
@[simp] theorem State.meetErrorAt_fresh (s : State) (die asid va : Nat) (allows : Word → Bool) : (State.meetErrorAt s die asid va allows).fresh = s.fresh := by unfold State.meetErrorAt; split <;> simp
@[simp] theorem State.meetErrorAt_threads (s : State) (die asid va : Nat) (allows : Word → Bool) : (State.meetErrorAt s die asid va allows).threads = s.threads := by unfold State.meetErrorAt; split <;> simp
@[simp] theorem State.meetErrorAt_cohorts (s : State) (die asid va : Nat) (allows : Word → Bool) : (State.meetErrorAt s die asid va allows).cohorts = s.cohorts := by unfold State.meetErrorAt; split <;> simp
@[simp] theorem State.meetErrorAt_issues (s : State) (die asid va : Nat) (allows : Word → Bool) : (State.meetErrorAt s die asid va allows).issues = s.issues := by unfold State.meetErrorAt; split <;> simp
@[simp] theorem State.meetErrorAt_groups (s : State) (die asid va : Nat) (allows : Word → Bool) : (State.meetErrorAt s die asid va allows).groups = s.groups := by unfold State.meetErrorAt; split <;> simp
@[simp] theorem State.meetErrorAt_kernels (s : State) (die asid va : Nat) (allows : Word → Bool) : (State.meetErrorAt s die asid va allows).kernels = s.kernels := by unfold State.meetErrorAt; split <;> simp
@[simp] theorem State.meetErrorAt_launches (s : State) (die asid va : Nat) (allows : Word → Bool) : (State.meetErrorAt s die asid va allows).launches = s.launches := by unfold State.meetErrorAt; split <;> simp
@[simp] theorem State.meetErrorAt_cores (s : State) (die asid va : Nat) (allows : Word → Bool) : (State.meetErrorAt s die asid va allows).cores = s.cores := by unfold State.meetErrorAt; split <;> simp
@[simp] theorem State.meetErrorAt_ops (s : State) (die asid va : Nat) (allows : Word → Bool) : (State.meetErrorAt s die asid va allows).ops = s.ops := by unfold State.meetErrorAt; split <;> simp
@[simp] theorem State.meetErrorAt_uses (s : State) (die asid va : Nat) (allows : Word → Bool) : (State.meetErrorAt s die asid va allows).uses = s.uses := by unfold State.meetErrorAt; split <;> simp
@[simp] theorem State.meetErrorAt_mgroups (s : State) (die asid va : Nat) (allows : Word → Bool) : (State.meetErrorAt s die asid va allows).mgroups = s.mgroups := by unfold State.meetErrorAt; split <;> simp
@[simp] theorem State.meetErrorAt_cmds (s : State) (die asid va : Nat) (allows : Word → Bool) : (State.meetErrorAt s die asid va allows).cmds = s.cmds := by unfold State.meetErrorAt; split <;> simp
@[simp] theorem State.meetErrorAt_cpys (s : State) (die asid va : Nat) (allows : Word → Bool) : (State.meetErrorAt s die asid va allows).cpys = s.cpys := by unfold State.meetErrorAt; split <;> simp
@[simp] theorem State.meetErrorAt_monitors (s : State) (die asid va : Nat) (allows : Word → Bool) : (State.meetErrorAt s die asid va allows).monitors = s.monitors := by unfold State.meetErrorAt; split <;> simp
@[simp] theorem State.meetErrorAt_msgs (s : State) (die asid va : Nat) (allows : Word → Bool) : (State.meetErrorAt s die asid va allows).msgs = s.msgs := by unfold State.meetErrorAt; split <;> simp
@[simp] theorem State.meetErrorAt_replies (s : State) (die asid va : Nat) (allows : Word → Bool) : (State.meetErrorAt s die asid va allows).replies = s.replies := by unfold State.meetErrorAt; split <;> simp
@[simp] theorem State.meetErrorAt_rels (s : State) (die asid va : Nat) (allows : Word → Bool) : (State.meetErrorAt s die asid va allows).rels = s.rels := by unfold State.meetErrorAt; split <;> simp
@[simp] theorem State.meetErrorAt_walks (s : State) (die asid va : Nat) (allows : Word → Bool) : (State.meetErrorAt s die asid va allows).walks = s.walks := by unfold State.meetErrorAt; split <;> simp
@[simp] theorem State.meetErrorAt_pool (s : State) (die asid va : Nat) (allows : Word → Bool) : (State.meetErrorAt s die asid va allows).pool = s.pool := by unfold State.meetErrorAt; split <;> simp
@[simp] theorem State.meetErrorAt_saved (s : State) (die asid va : Nat) (allows : Word → Bool) : (State.meetErrorAt s die asid va allows).saved = s.saved := by unfold State.meetErrorAt; split <;> simp
@[simp] theorem State.meetErrorAt_faultRecs (s : State) (die asid va : Nat) (allows : Word → Bool) : (State.meetErrorAt s die asid va allows).faultRecs = s.faultRecs := by unfold State.meetErrorAt; split <;> simp
@[simp] theorem State.meetErrorAt_ctxs (s : State) (die asid va : Nat) (allows : Word → Bool) : (State.meetErrorAt s die asid va allows).ctxs = s.ctxs := by unfold State.meetErrorAt; split <;> simp
@[simp] theorem State.meetErrorAt_amsgs (s : State) (die asid va : Nat) (allows : Word → Bool) : (State.meetErrorAt s die asid va allows).amsgs = s.amsgs := by unfold State.meetErrorAt; split <;> simp
@[simp] theorem State.meetErrorAt_queues (s : State) (die asid va : Nat) (allows : Word → Bool) : (State.meetErrorAt s die asid va allows).queues = s.queues := by unfold State.meetErrorAt; split <;> simp
@[simp] theorem State.meetErrorAt_bulks (s : State) (die asid va : Nat) (allows : Word → Bool) : (State.meetErrorAt s die asid va allows).bulks = s.bulks := by unfold State.meetErrorAt; split <;> simp
@[simp] theorem State.meetErrorAt_kiln (s : State) (die asid va : Nat) (allows : Word → Bool) : (State.meetErrorAt s die asid va allows).kiln = s.kiln := by unfold State.meetErrorAt; split <;> simp
@[simp] theorem State.meetErrorAt_dev (s : State) (die asid va : Nat) (allows : Word → Bool) : (State.meetErrorAt s die asid va allows).dev = s.dev := by unfold State.meetErrorAt; split <;> simp

/-! `State.putWords` changes `mem`. -/
@[simp] theorem State.putWords_agenda (s : State) (asid : Nat) (va : Nat) (ws : List Nat) : (State.putWords s asid va ws).agenda = s.agenda := by
  induction ws generalizing s va with
  | nil => rfl
  | cons v vs ih => exact (ih _ _).trans (by simp)
@[simp] theorem State.putWords_turn (s : State) (asid : Nat) (va : Nat) (ws : List Nat) : (State.putWords s asid va ws).turn = s.turn := by
  induction ws generalizing s va with
  | nil => rfl
  | cons v vs ih => exact (ih _ _).trans (by simp)
@[simp] theorem State.putWords_fresh (s : State) (asid : Nat) (va : Nat) (ws : List Nat) : (State.putWords s asid va ws).fresh = s.fresh := by
  induction ws generalizing s va with
  | nil => rfl
  | cons v vs ih => exact (ih _ _).trans (by simp)
@[simp] theorem State.putWords_threads (s : State) (asid : Nat) (va : Nat) (ws : List Nat) : (State.putWords s asid va ws).threads = s.threads := by
  induction ws generalizing s va with
  | nil => rfl
  | cons v vs ih => exact (ih _ _).trans (by simp)
@[simp] theorem State.putWords_cohorts (s : State) (asid : Nat) (va : Nat) (ws : List Nat) : (State.putWords s asid va ws).cohorts = s.cohorts := by
  induction ws generalizing s va with
  | nil => rfl
  | cons v vs ih => exact (ih _ _).trans (by simp)
@[simp] theorem State.putWords_issues (s : State) (asid : Nat) (va : Nat) (ws : List Nat) : (State.putWords s asid va ws).issues = s.issues := by
  induction ws generalizing s va with
  | nil => rfl
  | cons v vs ih => exact (ih _ _).trans (by simp)
@[simp] theorem State.putWords_groups (s : State) (asid : Nat) (va : Nat) (ws : List Nat) : (State.putWords s asid va ws).groups = s.groups := by
  induction ws generalizing s va with
  | nil => rfl
  | cons v vs ih => exact (ih _ _).trans (by simp)
@[simp] theorem State.putWords_kernels (s : State) (asid : Nat) (va : Nat) (ws : List Nat) : (State.putWords s asid va ws).kernels = s.kernels := by
  induction ws generalizing s va with
  | nil => rfl
  | cons v vs ih => exact (ih _ _).trans (by simp)
@[simp] theorem State.putWords_launches (s : State) (asid : Nat) (va : Nat) (ws : List Nat) : (State.putWords s asid va ws).launches = s.launches := by
  induction ws generalizing s va with
  | nil => rfl
  | cons v vs ih => exact (ih _ _).trans (by simp)
@[simp] theorem State.putWords_cores (s : State) (asid : Nat) (va : Nat) (ws : List Nat) : (State.putWords s asid va ws).cores = s.cores := by
  induction ws generalizing s va with
  | nil => rfl
  | cons v vs ih => exact (ih _ _).trans (by simp)
@[simp] theorem State.putWords_ops (s : State) (asid : Nat) (va : Nat) (ws : List Nat) : (State.putWords s asid va ws).ops = s.ops := by
  induction ws generalizing s va with
  | nil => rfl
  | cons v vs ih => exact (ih _ _).trans (by simp)
@[simp] theorem State.putWords_uses (s : State) (asid : Nat) (va : Nat) (ws : List Nat) : (State.putWords s asid va ws).uses = s.uses := by
  induction ws generalizing s va with
  | nil => rfl
  | cons v vs ih => exact (ih _ _).trans (by simp)
@[simp] theorem State.putWords_mgroups (s : State) (asid : Nat) (va : Nat) (ws : List Nat) : (State.putWords s asid va ws).mgroups = s.mgroups := by
  induction ws generalizing s va with
  | nil => rfl
  | cons v vs ih => exact (ih _ _).trans (by simp)
@[simp] theorem State.putWords_cmds (s : State) (asid : Nat) (va : Nat) (ws : List Nat) : (State.putWords s asid va ws).cmds = s.cmds := by
  induction ws generalizing s va with
  | nil => rfl
  | cons v vs ih => exact (ih _ _).trans (by simp)
@[simp] theorem State.putWords_cpys (s : State) (asid : Nat) (va : Nat) (ws : List Nat) : (State.putWords s asid va ws).cpys = s.cpys := by
  induction ws generalizing s va with
  | nil => rfl
  | cons v vs ih => exact (ih _ _).trans (by simp)
@[simp] theorem State.putWords_monitors (s : State) (asid : Nat) (va : Nat) (ws : List Nat) : (State.putWords s asid va ws).monitors = s.monitors := by
  induction ws generalizing s va with
  | nil => rfl
  | cons v vs ih => exact (ih _ _).trans (by simp)
@[simp] theorem State.putWords_msgs (s : State) (asid : Nat) (va : Nat) (ws : List Nat) : (State.putWords s asid va ws).msgs = s.msgs := by
  induction ws generalizing s va with
  | nil => rfl
  | cons v vs ih => exact (ih _ _).trans (by simp)
@[simp] theorem State.putWords_replies (s : State) (asid : Nat) (va : Nat) (ws : List Nat) : (State.putWords s asid va ws).replies = s.replies := by
  induction ws generalizing s va with
  | nil => rfl
  | cons v vs ih => exact (ih _ _).trans (by simp)
@[simp] theorem State.putWords_rels (s : State) (asid : Nat) (va : Nat) (ws : List Nat) : (State.putWords s asid va ws).rels = s.rels := by
  induction ws generalizing s va with
  | nil => rfl
  | cons v vs ih => exact (ih _ _).trans (by simp)
@[simp] theorem State.putWords_walks (s : State) (asid : Nat) (va : Nat) (ws : List Nat) : (State.putWords s asid va ws).walks = s.walks := by
  induction ws generalizing s va with
  | nil => rfl
  | cons v vs ih => exact (ih _ _).trans (by simp)
@[simp] theorem State.putWords_pool (s : State) (asid : Nat) (va : Nat) (ws : List Nat) : (State.putWords s asid va ws).pool = s.pool := by
  induction ws generalizing s va with
  | nil => rfl
  | cons v vs ih => exact (ih _ _).trans (by simp)
@[simp] theorem State.putWords_saved (s : State) (asid : Nat) (va : Nat) (ws : List Nat) : (State.putWords s asid va ws).saved = s.saved := by
  induction ws generalizing s va with
  | nil => rfl
  | cons v vs ih => exact (ih _ _).trans (by simp)
@[simp] theorem State.putWords_faultRecs (s : State) (asid : Nat) (va : Nat) (ws : List Nat) : (State.putWords s asid va ws).faultRecs = s.faultRecs := by
  induction ws generalizing s va with
  | nil => rfl
  | cons v vs ih => exact (ih _ _).trans (by simp)
@[simp] theorem State.putWords_ctxs (s : State) (asid : Nat) (va : Nat) (ws : List Nat) : (State.putWords s asid va ws).ctxs = s.ctxs := by
  induction ws generalizing s va with
  | nil => rfl
  | cons v vs ih => exact (ih _ _).trans (by simp)
@[simp] theorem State.putWords_amsgs (s : State) (asid : Nat) (va : Nat) (ws : List Nat) : (State.putWords s asid va ws).amsgs = s.amsgs := by
  induction ws generalizing s va with
  | nil => rfl
  | cons v vs ih => exact (ih _ _).trans (by simp)
@[simp] theorem State.putWords_queues (s : State) (asid : Nat) (va : Nat) (ws : List Nat) : (State.putWords s asid va ws).queues = s.queues := by
  induction ws generalizing s va with
  | nil => rfl
  | cons v vs ih => exact (ih _ _).trans (by simp)
@[simp] theorem State.putWords_bulks (s : State) (asid : Nat) (va : Nat) (ws : List Nat) : (State.putWords s asid va ws).bulks = s.bulks := by
  induction ws generalizing s va with
  | nil => rfl
  | cons v vs ih => exact (ih _ _).trans (by simp)
@[simp] theorem State.putWords_kiln (s : State) (asid : Nat) (va : Nat) (ws : List Nat) : (State.putWords s asid va ws).kiln = s.kiln := by
  induction ws generalizing s va with
  | nil => rfl
  | cons v vs ih => exact (ih _ _).trans (by simp)
@[simp] theorem State.putWords_dev (s : State) (asid : Nat) (va : Nat) (ws : List Nat) : (State.putWords s asid va ws).dev = s.dev := by
  induction ws generalizing s va with
  | nil => rfl
  | cons v vs ih => exact (ih _ _).trans (by simp)

/-! ### Reading a record after an update -/

/-- The core put into the state is the one found; every other core is as it was. -/
theorem State.coreAt_setCore (s : State) (k : Core) (c : Nat) : (s.setCore k).coreAt c = if c = k.id then k else s.coreAt c := by
  have hmap : ∀ l : List Core, (l.map fun x => if x.id = k.id then k else x).find? (·.id == c) =
      if c = k.id then (if l.any (·.id == k.id) then some k else none) else l.find? (·.id == c) := by
    intro l
    induction l with
    | nil => simp
    | cons x l ih =>
      simp only [List.map_cons, List.find?_cons, ih, List.any_cons]
      by_cases h1 : x.id = k.id
      · by_cases h2 : c = k.id
        · simp [h1, h2]
        · have : (k.id == c) = false := by rw [beq_eq_false_iff_ne]; exact fun e => h2 e.symm
          simp [h1, h2, this]
      · have h3 : (x.id == k.id) = false := beq_eq_false_iff_ne.2 h1
        by_cases h2 : c = k.id <;> simp [h1, h2, h3]
  unfold State.coreAt State.setCore
  split
  · rename_i h
    simp only [hmap, h, if_true]
    split <;> rfl
  · rename_i h
    simp only [List.find?_append, List.find?_singleton]
    by_cases hc : c = k.id
    · have hn : s.cores.find? (·.id == k.id) = none := by
        rw [List.find?_eq_none]
        intro x hx hk
        exact h (List.any_eq_true.2 ⟨x, hx, hk⟩)
      simp [hc, hn]
    · have : (k.id == c) = false := by rw [beq_eq_false_iff_ne]; exact fun e => hc e.symm
      simp [hc, this]

/-- A core found is the one asked for. -/
theorem State.coreAt_id (s : State) (c : Nat) : (s.coreAt c).id = c := by
  unfold State.coreAt
  cases h : s.cores.find? (·.id == c) with
  | none => rfl
  | some x => simpa using List.find?_some h

/-- A core after a change of it that keeps its number; every other core is as it was. -/
theorem State.coreAt_modCore (s : State) (c : Nat) (f : Core → Core) (h : ∀ k, (f k).id = k.id) (d : Nat) :
    (s.modCore c f).coreAt d = if d = c then f (s.coreAt c) else s.coreAt d := by
  unfold State.modCore
  rw [State.coreAt_setCore, h, State.coreAt_id]

/-- Finding a record by its number after a change of one record that keeps the numbers. -/
theorem find?_map_key {α : Type} (key : α → Nat) (f : α → α) (hf : ∀ x, key (f x) = key x) (l : List α) (a b : Nat) :
    (l.map fun x => if key x = a then f x else x).find? (fun x => key x == b) =
      if b = a then (l.find? fun x => key x == b).map f else l.find? fun x => key x == b := by
  induction l with
  | nil => simp
  | cons x l ih =>
    simp only [List.map_cons, List.find?_cons, ih]
    by_cases h1 : key x = a
    · by_cases h2 : b = a
      · simp [h1, h2, hf]
      · have : (a == b) = false := by rw [beq_eq_false_iff_ne]; exact fun e => h2 e.symm
        simp [h1, h2, hf, this]
    · have h3 : (key x == a) = false := beq_eq_false_iff_ne.2 h1
      by_cases h2 : b = a <;> simp [h1, h2, h3]

theorem State.thread?_modThread (s : State) (tid : Nat) (f : Thread → Thread) (h : ∀ t, (f t).tid = t.tid) (u : Nat) :
    (s.modThread tid f).thread? u = if u = tid then (s.thread? u).map f else s.thread? u := find?_map_key Thread.tid f h s.threads tid u

theorem State.group?_modGroup (s : State) (gid : Nat) (f : Group → Group) (h : ∀ g, (f g).gid = g.gid) (u : Nat) :
    (s.modGroup gid f).group? u = if u = gid then (s.group? u).map f else s.group? u := find?_map_key Group.gid f h s.groups gid u

theorem State.kernel?_modKernel (s : State) (kid : Nat) (f : Kernel → Kernel) (h : ∀ k, (f k).kid = k.kid) (u : Nat) :
    (s.modKernel kid f).kernel? u = if u = kid then (s.kernel? u).map f else s.kernel? u := find?_map_key Kernel.kid f h s.kernels kid u

theorem State.cohort?_modCohort (s : State) (cid : Nat) (f : Cohort → Cohort) (h : ∀ k, (f k).cid = k.cid) (u : Nat) :
    (s.modCohort cid f).cohort? u = if u = cid then (s.cohort? u).map f else s.cohort? u := find?_map_key Cohort.cid f h s.cohorts cid u

theorem State.op?_modOp (s : State) (id : Nat) (f : Op → Op) (h : ∀ o, (f o).id = o.id) (u : Nat) :
    (s.modOp id f).op? u = if u = id then (s.op? u).map f else s.op? u := find?_map_key Op.id f h s.ops id u

end Sys2Proof.Machine
end

