-- ==== Sys2Proof/Tests/Slice0.lean ====
section
/-!
SUPPORT. The model's own tests. Words are written out field by field from the manual's encodings, expected values are worked out by hand from the rules
that a test names, and for every statement of Obligations.lean that has hypotheses a concrete state meets them, clause by clause.
-/

namespace Sys2Proof.Tests

set_option Elab.async false

open Sys2Proof.Machine Sys2Proof.Claim

/-! ### Small states -/

/-- Fields of a word, from bit 31 down: (width, value). -/
def bits (l : List (Nat × Nat)) : BitVec 32 := BitVec.ofNat 32 (l.foldl (fun n x => n * 2 ^ x.1 + x.2) 0)

/-- Core 0 with a clause in issue: kernel 1, group 2, cohort 3 and its one thread 4; the next free number is 5. -/
def fx : State := State.reset.placeInClause 0 false false
def fxIss : Issue :=
  { core := 0, cid := 3, hdr := 0, words := [0x7E0001E0, 0, 0], aFlag := 0, bFlag := 15, pos := 1, t0 := 0, grp := 1, flagged := 0, tids := [4],
    tagsRd := 0, stageRd := 0 }

/-- Its one thread, its group, cohort, kernel. -/
def fxT : Thread := fx.threads.getD 0 (placedThread placedLaunch 2 3 0 0 0 0 4 0)

/-- The same with values in the thread's registers. -/
def regs {n : Nat} (l : List (Nat × Word)) : Vector Word n := l.foldl (fun v x => v.setIfInBounds x.1 x.2) (.replicate n 0)
def withT (f : Thread → Thread) : State := { fx with threads := fx.threads.map f }
def fxG (l : List (Nat × Word)) : State := withT fun t => { t with g := regs l }
def fxF (l : List (Nat × Word)) : State := withT fun t => { t with f := regs l }
def fxP (l : List (Nat × K3)) : State := withT fun t => { t with p := l.foldl (fun v x => v.setIfInBounds x.1 x.2) (.replicate 8 .f) }

/-- What an instruction sends to the registers of the one thread, the codes of the traps it makes due, the operations it starts. -/
noncomputable def sends (s : State) (i : Instr) : List Eff := match exec i s with
  | .next t => t.threads.flatMap fun x => x.lands.map (·.eff)
  | _ => []
noncomputable def dues (s : State) (i : Instr) : List Nat := match exec i s with
  | .next t => t.threads.flatMap fun x => x.due.map (·.code.toNat % 256)
  | _ => []
noncomputable def starts (s : State) (i : Instr) : List (Word × OpKind) := match exec i s with
  | .next t => t.ops.map fun o => (o.addr, o.kind)
  | _ => []
/-- What is left in the thread's register k after an instruction, and how a state looks after it. -/
noncomputable def after {α : Type} (f : State → α) (s : State) (i : Instr) : Option α := match exec i s with
  | .next t => some (f t)
  | _ => none

/-- An operation of the thread, under way as number 5. -/
def op5 (k : OpKind) (a : Word) : Op :=
  { id := 5, tid := 4, gid := 2, core := 0, asid := 1, pc := 4, hdr := 0, use := none, seq := 5, addr := a, kind := k, st := .queued, hseq := 0,
    acq := 0, acqC := 0, dep := 0, grpSeq := 5, lost := 0, met := false, depth := 0, rewalk := false }
def onOp (s : State) (o : Op) : State := { s with ops := s.ops ++ [o], fresh := 6 }

/-- The first 2 MiB of context 1 at die 0, with metadata and all permissions (R352). -/
def leafME : Word := 0x000000000000203F
def mapped (s : State) : State :=
  { s with mem := { s.mem with tlb := [{ die := 0, asid := 1, base := 0, size := 2 ^ 21, entry := leafME }] } }
def homeOfLine (a : Nat) : Home := { node := 0, addr := a / 64 * 64, entry := leafME, big := true, size := 2 ^ 21 }
def writes (s : State) (l : List (Nat × Nat)) : State :=
  { s with mem := { s.mem with bytes := l.foldl (fun m x => cellsWriteN x.1 x.2 8 m) s.mem.bytes } }

/-! ### Behaviour, one step each -/

/-- R110, R111, R113 to R115, R120: wraps, signs, counts and fields at their edges. -/
theorem test_integer : ∀ x ∈ ([
    (.addW 0 0 3 1 2, [(1, 0x7FFFFFFF), (2, 1)], 0xFFFFFFFF80000000),
    (.subD 0 0 3 1 2, [(2, 1)], 0xFFFFFFFFFFFFFFFF),
    (.andnW 0 0 3 1 2, [(1, 0xFF), (2, 0x0F)], 0xF0),
    (.minW 0 0 3 1 2, [(1, 0xFFFFFFFF), (2, 1)], 0xFFFFFFFFFFFFFFFF),
    (.minuW 0 0 3 1 2, [(1, 0xFFFFFFFF), (2, 1)], 1),
    (.maxD 0 0 3 1 2, [(1, 0x8000000000000000), (2, 1)], 1),
    (.maxuD 0 0 3 1 2, [(1, 0x8000000000000000), (2, 1)], 0x8000000000000000),
    (.shlW 0 0 3 1 2, [(1, 1), (2, 31)], 0xFFFFFFFF80000000),
    (.shrW 0 0 3 1 2, [(1, 0xFFFFFFFF80000000), (2, 31)], 1),
    (.sarW 0 0 3 1 2, [(1, 0x80000000), (2, 4)], 0xFFFFFFFFF8000000),
    (.rotW 0 0 3 1 2, [(1, 0x80000001), (2, 1)], 3),
    (.shlD 0 0 3 1 2, [(1, 5), (2, 64)], 5),
    (.mulhW 0 0 3 1 2, [(1, 0x80000000), (2, 0x80000000)], 0x40000000),
    (.mulhD 0 0 3 1 2, [(1, 0xFFFFFFFFFFFFFFFF), (2, 1)], 0xFFFFFFFFFFFFFFFF),
    (.mulhuD 0 0 3 1 2, [(1, 0xFFFFFFFFFFFFFFFF), (2, 2)], 1),
    (.addiW 0 0 3 1 0x100, [(1, 0)], 0xFFFFFFFFFFFFFF00),
    (.movi 0 0 3 0x4000, [], 0xFFFFFFFFFFFFC000),
    (.lea8 0 0 3 1 2, [(1, 1), (2, 2)], 17),
    (.macW 0 0 3 1 2, [(1, 2), (2, 3), (3, 0xFFFFFFFF)], 5),
    (.not 0 0 3 1, [(1, 0)], 0xFFFFFFFFFFFFFFFF),
    (.abs 0 0 3 1, [(1, 0xFFFFFFFFFFFFFFFE)], 2),
    (.clzW 0 0 3 1, [(1, 0)], 32),
    (.clzD 0 0 3 1, [(1, 1)], 63),
    (.popc 0 0 3 1, [(1, 0xFFFFFFFFFFFFFFFF)], 64),
    (.brevD 0 0 3 1, [(1, 2)], 0x4000000000000000),
    (.sextB 0 0 3 1, [(1, 0x80)], 0xFFFFFFFFFFFFFF80),
    (.zextH 0 0 3 1, [(1, 0x18001)], 0x8001),
    (.bfx 0 0 3 1 2, [(1, 0xF0), (2, 0x404)], 0xFFFFFFFFFFFFFFFF),
    (.bfxu 0 0 3 1 2, [(1, 0xF0), (2, 0x404)], 15),
    (.bfi 0 0 3 1 2, [(1, 0xAB), (2, 0x804), (3, 0xFFFF)], 0xFABF),
    (.sel 0 0 3 1 2 0, [(1, 7), (2, 8)], 7)
  ] : List (Instr × List (Nat × Word) × Word)), sends (fxG x.2.1) x.1 = [.g 3 x.2.2] := by decide

/-- R126: quotients round toward zero; a zero divisor and the one overflow. -/
theorem test_divide : ∀ x ∈ ([
    (.divW 0 0 3 1 2, [(1, 0xFFFFFFFFFFFFFFF9), (2, 2)], 0xFFFFFFFFFFFFFFFD),
    (.remW 0 0 3 1 2, [(1, 0xFFFFFFFFFFFFFFF9), (2, 2)], 0xFFFFFFFFFFFFFFFF),
    (.divuD 0 0 3 1 2, [(1, 7), (2, 0)], 0xFFFFFFFFFFFFFFFF),
    (.remuD 0 0 3 1 2, [(1, 7), (2, 0)], 7),
    (.divD 0 0 3 1 2, [(1, 0x8000000000000000), (2, 0xFFFFFFFFFFFFFFFF)], 0x8000000000000000)
  ] : List (Instr × List (Nat × Word) × Word)), starts (fxG x.2.1) x.1 = [(0, .divide [.g 3 x.2.2])] := by decide

/-- R122 to R124: three-valued logic and the combining types. -/
theorem test_predicates : ∀ x ∈ ([
    (.pand 0 0 3 1 2, [(1, .u), (2, .f)], [.p 3 .f]),
    (.por 0 0 3 1 2, [(1, .u), (2, .t)], [.p 3 .t]),
    (.pxor 0 0 3 1 2, [(1, .u), (2, .t)], [.p 3 .u]),
    (.pnot 0 0 3 1, [(1, .u)], [.p 3 .u]),
    (.pisu 0 0 3 1, [(1, .u)], [.p 3 .t]),
    (.pset 0 0 3 2, [], [.p 3 .u]),
    (.icmpEq 0 0 1 0 0 0, [], [.p 2 .t, .p 3 .f]),
    (.icmpEq 0 1 1 1 0 0, [(1, .u)], [.p 2 .u, .p 3 .u]),
    (.icmpNe 0 0 1 3 0 0, [(2, .u)], [.p 2 .u, .p 3 .f])
  ] : List (Instr × List (Nat × K3) × List Eff)), sends (fxP x.2.1) x.1 = x.2.2 := by decide

/-- R135 to R154: sums, signed zeros, classes, conversions, packed words, intervals. -/
theorem test_points : ∀ x ∈ ([
    (.faddS 0 0 3 1 2, [(1, 0x3F800000), (2, 0x40000000)], [.f 3 0x40400000]),
    (.fmulD 0 0 3 1 2, [(1, 0x4008000000000000), (2, 0xC000000000000000)], [.f 3 0xC018000000000000]),
    (.fmacS 0 0 3 1 2, [(1, 0x40000000), (2, 0x40400000), (3, 0x3F800000)], [.f 3 0x40E00000]),
    (.fminS 0 0 3 1 2, [(1, 0), (2, 0x80000000)], [.f 3 0x80000000]),
    (.fmaxD 0 0 3 1 2, [(1, 0x7FF8000000000000), (2, 0x3FF0000000000000)], [.f 3 0x3FF0000000000000]),
    (.fnegS 0 0 3 1, [(1, 0x3F800000)], [.f 3 0xBF800000]),
    (.fclassS 0 0 3 1, [(1, 0x80000000)], [.g 3 8]),
    (.fclassD 0 0 3 1, [(1, 0x7FF8000000000000)], [.g 3 0x200]),
    (.fcvtz 0 0 3 1 2 1, [(1, 0xBFF8000000000000)], [.g 3 0xFFFFFFFFFFFFFFFF, .sticky 16]),
    (.hadd2 0 0 3 1 2, [(1, 0x3C003C00), (2, 0x40003C00)], [.f 3 0x42004000]),
    (.faddI 0 0 3 1 2, [(1, 0x400000003F800000), (2, 0x3F8000003F800000)], [.f 3 0x4040000040000000]),
    (.fhullI 0 0 3 1 2, [(1, 0x3F8000003F800000), (2, 0x4000000040000000)], [.f 3 0x400000003F800000]),
    (.imidI 0 0 3 1, [(1, 0x404000003F800000)], [.f 3 0x40000000]),
    (.fmovGf 0 0 3 0, [], [.f 3 0])
  ] : List (Instr × List (Nat × Word) × List Eff)), sends (fxF x.2.1) x.1 = x.2.2 := by decide

/-- R138, R152: an interval whose bounds stand the wrong way round is invalid; the canonical empty value is EMPTY for a sum. -/
theorem test_interval_faults : dues (fxF [(1, 0x3F80000040000000)]) (.faddI 0 0 3 1 2) = [0x07] ∧
    dues (fxF [(1, 0xFF8000007F800000)]) (.faddI 0 0 3 1 2) = [0x06] := by decide

/-- R106 to R108: the displacement counts in packets; a plain branch on U faults; CALL pushes the fall-through address; RET without an entry faults. -/
theorem test_control :
    after (fun s => s.threads.map (·.next)) fx (.jmp 3) = some [some 36] ∧
    after (fun s => s.threads.map (·.next)) fx (.jmp 0x1FFFFFF) = some [some 0xFFFFFFFFFFFFFFF4] ∧
    dues (fxP [(1, .u)]) (.br 1 1) = [0x05] ∧
    after (fun s => s.threads.map (·.stack)) fx (.call 1) = some [[12]] ∧
    dues fx (.ret 0) = [0x0C] := by decide

/-- R119, R341, R346: TRAP, SYSCALL, and RFT outside a trap. -/
theorem test_system : dues fx (.trap 0 0 0) = [0x13] ∧ dues fx (.syscall 0 0 0) = [0x13] ∧ dues fx (.rft 0 0) = [0x01] ∧
    sends fx (.rdsr 0 0 3 0) = [.g 3 0] := by decide

/-- R157, R160, R163, R172: the checks of the accesses and what they put under way. -/
theorem test_accesses :
    starts (fxG [(1, 0x1000)]) (.ldgW 0 0 3 1 0) = [(0x1000, .load (.gS 3 4) 4 none)] ∧
    dues (fxG [(1, 0x1001)]) (.ldgW 0 0 3 1 0) = [0x02] ∧
    dues (fxG [(1, 0x10000000000000)]) (.ldgB 0 0 3 1 0) = [0x03] ∧
    starts (fxG [(1, 0x20), (2, 1)]) (.ldsD 0 0 3 1 2) = [(0x28, .loadS (.gU 3 8) 8)] ∧
    dues (fxG [(1, 0x4000)]) (.ldsD 0 0 3 1 0) = [0x04] ∧
    starts (fxG [(1, 0x40), (2, 7), (3, 9)]) (.amogCasD 0 0 3 1 2) = [(0x40, .atomic .cas 8 7 9 3 0)] ∧
    dues (fxG [(1, 0x44)]) (.amogAddD 0 0 3 1 2) = [0x02] := by decide

/-- R167: a store enters the line in L1, and marks its bytes dirty. -/
theorem test_store : after (fun s => ((s.coreAt 0).l1.map fun l => (l.line, l.dirty, l.data), s.mem.bytes))
    (mapped (fxG [(1, 0x1004), (2, 0xAABBCCDD)])) (.stgW 0 0 2 1 0) = some ([(0x40, 0xF0, 0xAABBCCDD00000000)], []) := by decide +kernel

/-- R164, R172: a scratch load reads little-endian and is sign-extended; a scratch atomic returns the old value. -/
theorem test_bank :
    after (fun s => s.threads.map fun t => t.gr 3)
      (onOp { fx with pool := { fx.pool with bytes := [(2 * 2 ^ 14 + 8, 0x34), (2 * 2 ^ 14 + 9, 0x92)] } } (op5 (.loadS (.gS 3 2) 2) 8)) (.loadReply 5 false)
      = some [0xFFFFFFFFFFFF9234] ∧
    after (fun s => (s.ops.map (·.st), s.pool.bytes))
      (onOp { fx with pool := { fx.pool with bytes := [(2 * 2 ^ 14 + 8, 2)] } } (op5 (.atomicS .add 4 3 0 3) 8)) (.atomicPerform 5)
      = some ([.performed 2], [(2 * 2 ^ 14 + 8, 5)]) := by decide

/-- R163, R182: a load of a line from its home. -/
theorem test_load : after (fun s => s.threads.map fun t => t.gr 3)
    (onOp (mapped (writes fx [(0x1000, 0x1122334455667788)])) (op5 (.load (.gU 3 4) 4 none) 0x1004)) (.loadReply 5 false) = some [0x11223344] := by decide +kernel

/-- R217, R218: a reference store marks the word a reference and stores it at the home; an unaligned reference is PROTECTION. -/
theorem test_reference :
    after (fun s => (mKind (s.mem.metaAt 0 0x1000) 1, s.mem.rd 0 0x1008 8)) (onOp (mapped fx) (op5 (.stref 0x2000) 0x1008)) (.strefHomeCheck 5)
      = some (1, 0x2000) ∧
    dues (fxG [(1, 0x1000), (2, 0x2004)]) (.stref 0 0 2 1 0) = [0x03] := by decide +kernel

/-- R327, R330 to R332: BINIT makes a live word with E; its arrival completes a phase of one. -/
theorem test_barrier :
    after (fun s => (s.pool.bytes, s.pool.live)) (onOp fx (op5 (.binit 3) 16)) (.barrierBankOp 5) = some ([(2 * 2 ^ 14 + 16, 3)], [(2 * 2 ^ 14 + 16) / 8]) ∧
    after (fun s => s.pool.bytes)
      (onOp { fx with pool := { fx.pool with bytes := [(2 * 2 ^ 14 + 16, 1)], live := [(2 * 2 ^ 14 + 16) / 8] } } (op5 (.arrive 1) 16)) (.barrierBankOp 5)
      = some [(2 * 2 ^ 14 + 16, 1), (2 * 2 ^ 14 + 22, 1)] := by decide

/-- R262: SIGN adds to S and saturates; CVSET sets E and clears S. -/
theorem test_convergence :
    after (fun s => s.groups.map fun g => g.cv.head?) (onOp fx (op5 (.sign 0) 0)) (.signApply 5) = some [some { e := 0, s := 1 }] ∧
    after (fun s => s.groups.map fun g => g.cv.head?) (onOp fx (op5 (.cvset 0 9) 0)) (.cvsetApply 5) = some [some { e := 9, s := 0 }] := by decide

/-- R236, R242: an acquire of a free monitor makes the thread its owner and is granted. -/
theorem test_monitor : after (fun s => (s.monitors.map fun m => (m.colour, m.owner), s.replies.map fun r => (r.tid, r.grant)))
    { fx with msgs := [{ id := 5, tid := 4, gid := 2, asid := 1, colour := 9, depth := 0, kind := .acquire, grp := 0 }], fresh := 6 } (.monitorAcquire 5)
    = some ([(9, some (4, 0))], [(4, true)]) := by decide

/-- R318, R319: a push is the first to be popped by its own core; the task word names the core. -/
theorem test_tasks :
    after (fun s => (s.coreAt 0).tasks 1) (onOp fx (op5 (.tqpush 7) 0)) (.tqPushApply 5) = some [7] ∧
    after (fun s => s.ops.map (·.st)) (onOp (fx.modCore 0 fun c => c.setTasks 1 [7, 8]) (op5 (.tqpop 3 0) 0)) (.tqPopServe 5) = some [.performed 7] := by
  decide

/-- R374, R375: KBFX on bits 7:4, and its exception 25 with a wrong length. -/
theorem test_kiln :
    (let s := State.reset.placeKiln 0
     let k := s.kiln.cores[0]
     let on (v : Word) : State := s.setKiln { k with x := (k.x.setIfInBounds 1 0xAB).setIfInBounds 2 v }
     after (fun t => (t.kiln.cores[0].x[3], t.kiln.cores[0].pc)) (({ on 0x404 with turn := 512 } : State)) (.kbfx 2 1 3) = some (0xA, 4) ∧
     after (fun t => t.kiln.cores[0].mcause) (({ on 0x84 with turn := 512 } : State)) (.kbfx 2 1 3) = some 25) := by decide

/-- R65, R66: the placed word is the first that runs. -/
theorem test_first_step : (match step (State.reset.withFetchWord 32 0x00000000) with
    | .next t => t.issues.map (·.pos)
    | _ => []) = [2] := by decide

/-! ### Decoding: words written out from the encodings -/

/-- CLAUSE_START to ADD_D. -/
theorem test_decode_1 : ∀ x ∈ ([
    ([(7, 63), (12, 3), (4, 6), (4, 8), (1, 1), (1, 0), (3, 3)], .clauseStart 3 6 8 1 3),
    ([(1, 0), (6, 0), (4, 1), (21, 0)], .nop 0 1),
    ([(1, 0), (6, 0), (4, 1), (21, 1)], .yield 0 1),
    ([(1, 0), (6, 0), (4, 1), (6, 4), (15, 2)], .rdclk 0 1 4),
    ([(1, 0), (6, 0), (4, 1), (6, 4), (15, 3)], .rdtags 0 1 4),
    ([(7, 1), (4, 1), (2, 0), (19, 5)], .brUt 1 5),
    ([(7, 1), (4, 1), (2, 1), (19, 5)], .brUf 1 5),
    ([(7, 1), (4, 1), (2, 2), (19, 5)], .br 1 5),
    ([(7, 1), (4, 1), (2, 3), (19, 5)], .brUl 1 5),
    ([(7, 2), (25, 5)], .jmp 5),
    ([(7, 3), (25, 5)], .call 5),
    ([(7, 4), (4, 1), (6, 0), (6, 6), (9, 0)], .jmpr 1 6),
    ([(7, 4), (4, 1), (6, 0), (6, 6), (9, 1)], .callr 1 6),
    ([(7, 4), (4, 1), (21, 2)], .ret 1),
    ([(7, 4), (4, 1), (21, 3)], .exit 1),
    ([(1, 0), (6, 5), (4, 1), (6, 4), (6, 6), (6, 8), (3, 0)], .addW 0 1 4 6 8),
    ([(1, 0), (6, 5), (4, 1), (6, 4), (6, 6), (6, 8), (3, 1)], .subW 0 1 4 6 8),
    ([(1, 0), (6, 5), (4, 1), (6, 4), (6, 6), (6, 8), (3, 2)], .andW 0 1 4 6 8),
    ([(1, 0), (6, 5), (4, 1), (6, 4), (6, 6), (6, 8), (3, 3)], .orW 0 1 4 6 8),
    ([(1, 0), (6, 5), (4, 1), (6, 4), (6, 6), (6, 8), (3, 4)], .xorW 0 1 4 6 8),
    ([(1, 0), (6, 5), (4, 1), (6, 4), (6, 6), (6, 8), (3, 5)], .andnW 0 1 4 6 8),
    ([(1, 0), (6, 5), (4, 1), (6, 4), (6, 6), (6, 8), (3, 6)], .minW 0 1 4 6 8),
    ([(1, 0), (6, 5), (4, 1), (6, 4), (6, 6), (6, 8), (3, 7)], .maxW 0 1 4 6 8),
    ([(1, 0), (6, 6), (4, 1), (6, 4), (6, 6), (6, 8), (3, 0)], .addD 0 1 4 6 8)] : List (List (Nat × Nat) × Instr)),
    decode (bits x.1) = .ok x.2 := by decide

/-- SUB_D to ADDI_W. -/
theorem test_decode_2 : ∀ x ∈ ([
    ([(1, 0), (6, 6), (4, 1), (6, 4), (6, 6), (6, 8), (3, 1)], .subD 0 1 4 6 8),
    ([(1, 0), (6, 6), (4, 1), (6, 4), (6, 6), (6, 8), (3, 2)], .andD 0 1 4 6 8),
    ([(1, 0), (6, 6), (4, 1), (6, 4), (6, 6), (6, 8), (3, 3)], .orD 0 1 4 6 8),
    ([(1, 0), (6, 6), (4, 1), (6, 4), (6, 6), (6, 8), (3, 4)], .xorD 0 1 4 6 8),
    ([(1, 0), (6, 6), (4, 1), (6, 4), (6, 6), (6, 8), (3, 5)], .andnD 0 1 4 6 8),
    ([(1, 0), (6, 6), (4, 1), (6, 4), (6, 6), (6, 8), (3, 6)], .minD 0 1 4 6 8),
    ([(1, 0), (6, 6), (4, 1), (6, 4), (6, 6), (6, 8), (3, 7)], .maxD 0 1 4 6 8),
    ([(1, 0), (6, 7), (4, 1), (6, 4), (6, 6), (6, 8), (3, 0)], .minuW 0 1 4 6 8),
    ([(1, 0), (6, 7), (4, 1), (6, 4), (6, 6), (6, 8), (3, 1)], .maxuW 0 1 4 6 8),
    ([(1, 0), (6, 7), (4, 1), (6, 4), (6, 6), (6, 8), (3, 2)], .shlW 0 1 4 6 8),
    ([(1, 0), (6, 7), (4, 1), (6, 4), (6, 6), (6, 8), (3, 3)], .shrW 0 1 4 6 8),
    ([(1, 0), (6, 7), (4, 1), (6, 4), (6, 6), (6, 8), (3, 4)], .sarW 0 1 4 6 8),
    ([(1, 0), (6, 7), (4, 1), (6, 4), (6, 6), (6, 8), (3, 5)], .rotW 0 1 4 6 8),
    ([(1, 0), (6, 7), (4, 1), (6, 4), (6, 6), (6, 8), (3, 6)], .mulW 0 1 4 6 8),
    ([(1, 0), (6, 7), (4, 1), (6, 4), (6, 6), (6, 8), (3, 7)], .mulhW 0 1 4 6 8),
    ([(1, 0), (6, 8), (4, 1), (6, 4), (6, 6), (6, 8), (3, 0)], .minuD 0 1 4 6 8),
    ([(1, 0), (6, 8), (4, 1), (6, 4), (6, 6), (6, 8), (3, 1)], .maxuD 0 1 4 6 8),
    ([(1, 0), (6, 8), (4, 1), (6, 4), (6, 6), (6, 8), (3, 2)], .shlD 0 1 4 6 8),
    ([(1, 0), (6, 8), (4, 1), (6, 4), (6, 6), (6, 8), (3, 3)], .shrD 0 1 4 6 8),
    ([(1, 0), (6, 8), (4, 1), (6, 4), (6, 6), (6, 8), (3, 4)], .sarD 0 1 4 6 8),
    ([(1, 0), (6, 8), (4, 1), (6, 4), (6, 6), (6, 8), (3, 5)], .rotD 0 1 4 6 8),
    ([(1, 0), (6, 8), (4, 1), (6, 4), (6, 6), (6, 8), (3, 6)], .mulD 0 1 4 6 8),
    ([(1, 0), (6, 8), (4, 1), (6, 4), (6, 6), (6, 8), (3, 7)], .mulhD 0 1 4 6 8),
    ([(1, 0), (6, 9), (4, 1), (6, 4), (6, 6), (9, 5)], .addiW 0 1 4 6 5)] : List (List (Nat × Nat) × Instr)),
    decode (bits x.1) = .ok x.2 := by decide

/-- ADDI_D to CLZ_D. -/
theorem test_decode_3 : ∀ x ∈ ([
    ([(1, 0), (6, 10), (4, 1), (6, 4), (6, 6), (9, 5)], .addiD 0 1 4 6 5),
    ([(1, 0), (6, 11), (4, 1), (6, 4), (6, 6), (4, 0), (5, 5)], .shliW 0 1 4 6 5),
    ([(1, 0), (6, 11), (4, 1), (6, 4), (6, 6), (4, 2), (5, 5)], .shriW 0 1 4 6 5),
    ([(1, 0), (6, 11), (4, 1), (6, 4), (6, 6), (4, 4), (5, 5)], .sariW 0 1 4 6 5),
    ([(1, 0), (6, 11), (4, 1), (6, 4), (6, 6), (4, 6), (5, 5)], .rotiW 0 1 4 6 5),
    ([(1, 0), (6, 11), (4, 1), (6, 4), (6, 6), (3, 4), (6, 5)], .shliD 0 1 4 6 5),
    ([(1, 0), (6, 11), (4, 1), (6, 4), (6, 6), (3, 5), (6, 5)], .shriD 0 1 4 6 5),
    ([(1, 0), (6, 11), (4, 1), (6, 4), (6, 6), (3, 6), (6, 5)], .sariD 0 1 4 6 5),
    ([(1, 0), (6, 11), (4, 1), (6, 4), (6, 6), (3, 7), (6, 5)], .rotiD 0 1 4 6 5),
    ([(1, 0), (6, 12), (4, 1), (6, 4), (15, 5)], .movi 0 1 4 5),
    ([(1, 0), (6, 13), (4, 1), (6, 4), (6, 6), (6, 8), (3, 0)], .lea1 0 1 4 6 8),
    ([(1, 0), (6, 13), (4, 1), (6, 4), (6, 6), (6, 8), (3, 1)], .lea2 0 1 4 6 8),
    ([(1, 0), (6, 13), (4, 1), (6, 4), (6, 6), (6, 8), (3, 2)], .lea4 0 1 4 6 8),
    ([(1, 0), (6, 13), (4, 1), (6, 4), (6, 6), (6, 8), (3, 3)], .lea8 0 1 4 6 8),
    ([(1, 0), (6, 13), (4, 1), (6, 4), (6, 6), (6, 8), (3, 4)], .lea16 0 1 4 6 8),
    ([(1, 0), (6, 13), (4, 1), (6, 4), (6, 6), (6, 8), (3, 5)], .macW 0 1 4 6 8),
    ([(1, 0), (6, 13), (4, 1), (6, 4), (6, 6), (6, 8), (3, 6)], .macD 0 1 4 6 8),
    ([(1, 0), (6, 13), (4, 1), (6, 4), (6, 6), (6, 8), (3, 7)], .mulhuD 0 1 4 6 8),
    ([(1, 0), (6, 14), (4, 1), (6, 4), (6, 6), (9, 0)], .mov 0 1 4 6),
    ([(1, 0), (6, 14), (4, 1), (6, 4), (6, 6), (9, 1)], .not 0 1 4 6),
    ([(1, 0), (6, 14), (4, 1), (6, 4), (6, 6), (9, 2)], .neg 0 1 4 6),
    ([(1, 0), (6, 14), (4, 1), (6, 4), (6, 6), (9, 3)], .abs 0 1 4 6),
    ([(1, 0), (6, 14), (4, 1), (6, 4), (6, 6), (9, 4)], .clzW 0 1 4 6),
    ([(1, 0), (6, 14), (4, 1), (6, 4), (6, 6), (9, 5)], .clzD 0 1 4 6)] : List (List (Nat × Nat) × Instr)),
    decode (bits x.1) = .ok x.2 := by decide

/-- POPC to ICMP_GTU. -/
theorem test_decode_4 : ∀ x ∈ ([
    ([(1, 0), (6, 14), (4, 1), (6, 4), (6, 6), (9, 6)], .popc 0 1 4 6),
    ([(1, 0), (6, 14), (4, 1), (6, 4), (6, 6), (9, 7)], .brevD 0 1 4 6),
    ([(1, 0), (6, 14), (4, 1), (6, 4), (6, 6), (9, 8)], .sextB 0 1 4 6),
    ([(1, 0), (6, 14), (4, 1), (6, 4), (6, 6), (9, 9)], .sextH 0 1 4 6),
    ([(1, 0), (6, 14), (4, 1), (6, 4), (6, 6), (9, 10)], .sextW 0 1 4 6),
    ([(1, 0), (6, 14), (4, 1), (6, 4), (6, 6), (9, 11)], .zextB 0 1 4 6),
    ([(1, 0), (6, 14), (4, 1), (6, 4), (6, 6), (9, 12)], .zextH 0 1 4 6),
    ([(1, 0), (6, 14), (4, 1), (6, 4), (6, 6), (9, 13)], .zextW 0 1 4 6),
    ([(1, 0), (6, 14), (4, 1), (6, 4), (6, 3), (9, 16)], .movk 0 1 4 3),
    ([(1, 0), (6, 14), (4, 1), (6, 4), (6, 9), (9, 17)], .rdsr 0 1 4 9),
    ([(1, 0), (6, 14), (4, 1), (6, 16), (6, 6), (9, 18)], .wrsr 0 1 16 6),
    ([(1, 0), (6, 14), (4, 1), (6, 4), (6, 6), (9, 19)], .movp 0 1 4 6),
    ([(1, 0), (6, 15), (4, 1), (6, 4), (6, 6), (6, 8), (3, 0)], .bfx 0 1 4 6 8),
    ([(1, 0), (6, 15), (4, 1), (6, 4), (6, 6), (6, 8), (3, 1)], .bfxu 0 1 4 6 8),
    ([(1, 0), (6, 15), (4, 1), (6, 4), (6, 6), (6, 8), (3, 2)], .bfi 0 1 4 6 8),
    ([(1, 0), (6, 16), (4, 1), (2, 2), (3, 1), (4, 0), (6, 6), (6, 8)], .icmpEq 0 1 2 1 6 8),
    ([(1, 0), (6, 16), (4, 1), (2, 2), (3, 1), (4, 1), (6, 6), (6, 8)], .icmpNe 0 1 2 1 6 8),
    ([(1, 0), (6, 16), (4, 1), (2, 2), (3, 1), (4, 2), (6, 6), (6, 8)], .icmpLt 0 1 2 1 6 8),
    ([(1, 0), (6, 16), (4, 1), (2, 2), (3, 1), (4, 3), (6, 6), (6, 8)], .icmpLe 0 1 2 1 6 8),
    ([(1, 0), (6, 16), (4, 1), (2, 2), (3, 1), (4, 4), (6, 6), (6, 8)], .icmpGt 0 1 2 1 6 8),
    ([(1, 0), (6, 16), (4, 1), (2, 2), (3, 1), (4, 5), (6, 6), (6, 8)], .icmpGe 0 1 2 1 6 8),
    ([(1, 0), (6, 16), (4, 1), (2, 2), (3, 1), (4, 6), (6, 6), (6, 8)], .icmpLtu 0 1 2 1 6 8),
    ([(1, 0), (6, 16), (4, 1), (2, 2), (3, 1), (4, 7), (6, 6), (6, 8)], .icmpLeu 0 1 2 1 6 8),
    ([(1, 0), (6, 16), (4, 1), (2, 2), (3, 1), (4, 8), (6, 6), (6, 8)], .icmpGtu 0 1 2 1 6 8)] : List (List (Nat × Nat) × Instr)),
    decode (bits x.1) = .ok x.2 := by decide

/-- ICMP_GEU to DIV_D. -/
theorem test_decode_5 : ∀ x ∈ ([
    ([(1, 0), (6, 16), (4, 1), (2, 2), (3, 1), (4, 9), (6, 6), (6, 8)], .icmpGeu 0 1 2 1 6 8),
    ([(1, 0), (6, 16), (4, 1), (2, 2), (3, 1), (4, 10), (6, 6), (6, 8)], .icmpTst 0 1 2 1 6 8),
    ([(1, 0), (6, 16), (4, 1), (2, 2), (3, 1), (4, 11), (6, 6), (6, 8)], .icmpNtst 0 1 2 1 6 8),
    ([(1, 0), (6, 17), (4, 1), (3, 4), (3, 6), (3, 0), (12, 0)], .pand 0 1 4 6 0),
    ([(1, 0), (6, 17), (4, 1), (3, 4), (3, 6), (3, 0), (12, 1)], .por 0 1 4 6 0),
    ([(1, 0), (6, 17), (4, 1), (3, 4), (3, 6), (3, 0), (12, 2)], .pxor 0 1 4 6 0),
    ([(1, 0), (6, 17), (4, 1), (3, 4), (3, 6), (15, 3)], .pnot 0 1 4 6),
    ([(1, 0), (6, 17), (4, 1), (3, 4), (3, 6), (15, 4)], .pmov 0 1 4 6),
    ([(1, 0), (6, 17), (4, 1), (3, 4), (3, 6), (15, 5)], .pisu 0 1 4 6),
    ([(1, 0), (6, 17), (4, 1), (3, 4), (3, 6), (15, 6)], .pist 0 1 4 6),
    ([(1, 0), (6, 17), (4, 1), (3, 4), (3, 1), (15, 7)], .pset 0 1 4 1),
    ([(1, 0), (6, 18), (4, 1), (6, 4), (6, 6), (9, 0)], .voteAll 0 1 4 6),
    ([(1, 0), (6, 18), (4, 1), (6, 4), (6, 6), (9, 1)], .voteAny 0 1 4 6),
    ([(1, 0), (6, 18), (4, 1), (6, 4), (6, 6), (9, 2)], .ballot 0 1 4 6),
    ([(1, 0), (6, 18), (4, 1), (6, 4), (6, 6), (9, 3)], .ballotu 0 1 4 6),
    ([(1, 0), (6, 18), (4, 1), (6, 4), (6, 6), (6, 8), (3, 4)], .shflIdx 0 1 4 6 8),
    ([(1, 0), (6, 18), (4, 1), (6, 4), (6, 6), (6, 8), (3, 5)], .shflUp 0 1 4 6 8),
    ([(1, 0), (6, 18), (4, 1), (6, 4), (6, 6), (6, 8), (3, 6)], .shflDown 0 1 4 6 8),
    ([(1, 0), (6, 18), (4, 1), (6, 4), (6, 6), (6, 8), (3, 7)], .shflXor 0 1 4 6 8),
    ([(1, 0), (6, 19), (4, 1), (6, 4), (6, 6), (6, 8), (3, 0)], .divW 0 1 4 6 8),
    ([(1, 0), (6, 19), (4, 1), (6, 4), (6, 6), (6, 8), (3, 1)], .divuW 0 1 4 6 8),
    ([(1, 0), (6, 19), (4, 1), (6, 4), (6, 6), (6, 8), (3, 2)], .remW 0 1 4 6 8),
    ([(1, 0), (6, 19), (4, 1), (6, 4), (6, 6), (6, 8), (3, 3)], .remuW 0 1 4 6 8),
    ([(1, 0), (6, 19), (4, 1), (6, 4), (6, 6), (6, 8), (3, 4)], .divD 0 1 4 6 8)] : List (List (Nat × Nat) × Instr)),
    decode (bits x.1) = .ok x.2 := by decide

/-- DIVU_D to FDIV_I. -/
theorem test_decode_6 : ∀ x ∈ ([
    ([(1, 0), (6, 19), (4, 1), (6, 4), (6, 6), (6, 8), (3, 5)], .divuD 0 1 4 6 8),
    ([(1, 0), (6, 19), (4, 1), (6, 4), (6, 6), (6, 8), (3, 6)], .remD 0 1 4 6 8),
    ([(1, 0), (6, 19), (4, 1), (6, 4), (6, 6), (6, 8), (3, 7)], .remuD 0 1 4 6 8),
    ([(1, 0), (6, 20), (4, 1), (6, 4), (6, 6), (6, 8), (3, 3)], .sel 0 1 4 6 8 3),
    ([(1, 0), (6, 21), (4, 1), (6, 4), (6, 6), (6, 8), (3, 0)], .randW 0 1 4 6 8),
    ([(1, 0), (6, 21), (4, 1), (6, 4), (6, 6), (6, 8), (3, 1)], .randD 0 1 4 6 8),
    ([(1, 0), (6, 24), (4, 1), (6, 4), (6, 6), (6, 8), (3, 0)], .faddS 0 1 4 6 8),
    ([(1, 0), (6, 24), (4, 1), (6, 4), (6, 6), (6, 8), (3, 1)], .fsubS 0 1 4 6 8),
    ([(1, 0), (6, 24), (4, 1), (6, 4), (6, 6), (6, 8), (3, 2)], .fmulS 0 1 4 6 8),
    ([(1, 0), (6, 24), (4, 1), (6, 4), (6, 6), (6, 8), (3, 3)], .fdivS 0 1 4 6 8),
    ([(1, 0), (6, 24), (4, 1), (6, 4), (6, 6), (6, 8), (3, 4)], .fminS 0 1 4 6 8),
    ([(1, 0), (6, 24), (4, 1), (6, 4), (6, 6), (6, 8), (3, 5)], .fmaxS 0 1 4 6 8),
    ([(1, 0), (6, 24), (4, 1), (6, 4), (6, 6), (6, 8), (3, 6)], .fcpysS 0 1 4 6 8),
    ([(1, 0), (6, 25), (4, 1), (6, 4), (6, 6), (6, 8), (3, 0)], .faddD 0 1 4 6 8),
    ([(1, 0), (6, 25), (4, 1), (6, 4), (6, 6), (6, 8), (3, 1)], .fsubD 0 1 4 6 8),
    ([(1, 0), (6, 25), (4, 1), (6, 4), (6, 6), (6, 8), (3, 2)], .fmulD 0 1 4 6 8),
    ([(1, 0), (6, 25), (4, 1), (6, 4), (6, 6), (6, 8), (3, 3)], .fdivD 0 1 4 6 8),
    ([(1, 0), (6, 25), (4, 1), (6, 4), (6, 6), (6, 8), (3, 4)], .fminD 0 1 4 6 8),
    ([(1, 0), (6, 25), (4, 1), (6, 4), (6, 6), (6, 8), (3, 5)], .fmaxD 0 1 4 6 8),
    ([(1, 0), (6, 25), (4, 1), (6, 4), (6, 6), (6, 8), (3, 6)], .fcpysD 0 1 4 6 8),
    ([(1, 0), (6, 26), (4, 1), (6, 4), (6, 6), (6, 8), (3, 0)], .faddI 0 1 4 6 8),
    ([(1, 0), (6, 26), (4, 1), (6, 4), (6, 6), (6, 8), (3, 1)], .fsubI 0 1 4 6 8),
    ([(1, 0), (6, 26), (4, 1), (6, 4), (6, 6), (6, 8), (3, 2)], .fmulI 0 1 4 6 8),
    ([(1, 0), (6, 26), (4, 1), (6, 4), (6, 6), (6, 8), (3, 3)], .fdivI 0 1 4 6 8)] : List (List (Nat × Nat) × Instr)),
    decode (bits x.1) = .ok x.2 := by decide

/-- FHULL_I to FNMSC_I. -/
theorem test_decode_7 : ∀ x ∈ ([
    ([(1, 0), (6, 26), (4, 1), (6, 4), (6, 6), (6, 8), (3, 4)], .fhullI 0 1 4 6 8),
    ([(1, 0), (6, 26), (4, 1), (6, 4), (6, 6), (6, 8), (3, 5)], .fisectI 0 1 4 6 8),
    ([(1, 0), (6, 26), (4, 1), (6, 4), (6, 6), (6, 8), (3, 6)], .fminI 0 1 4 6 8),
    ([(1, 0), (6, 26), (4, 1), (6, 4), (6, 6), (6, 8), (3, 7)], .fmaxI 0 1 4 6 8),
    ([(1, 0), (6, 27), (4, 1), (6, 4), (6, 6), (6, 8), (3, 0)], .faddJ 0 1 4 6 8),
    ([(1, 0), (6, 27), (4, 1), (6, 4), (6, 6), (6, 8), (3, 1)], .fsubJ 0 1 4 6 8),
    ([(1, 0), (6, 27), (4, 1), (6, 4), (6, 6), (6, 8), (3, 2)], .fmulJ 0 1 4 6 8),
    ([(1, 0), (6, 27), (4, 1), (6, 4), (6, 6), (6, 8), (3, 3)], .fdivJ 0 1 4 6 8),
    ([(1, 0), (6, 27), (4, 1), (6, 4), (6, 6), (6, 8), (3, 4)], .fhullJ 0 1 4 6 8),
    ([(1, 0), (6, 27), (4, 1), (6, 4), (6, 6), (6, 8), (3, 5)], .fisectJ 0 1 4 6 8),
    ([(1, 0), (6, 27), (4, 1), (6, 4), (6, 6), (6, 8), (3, 6)], .fminJ 0 1 4 6 8),
    ([(1, 0), (6, 27), (4, 1), (6, 4), (6, 6), (6, 8), (3, 7)], .fmaxJ 0 1 4 6 8),
    ([(1, 0), (6, 28), (4, 1), (6, 4), (6, 6), (6, 8), (3, 0)], .fmacS 0 1 4 6 8),
    ([(1, 0), (6, 28), (4, 1), (6, 4), (6, 6), (6, 8), (3, 1)], .fmscS 0 1 4 6 8),
    ([(1, 0), (6, 28), (4, 1), (6, 4), (6, 6), (6, 8), (3, 2)], .fnmacS 0 1 4 6 8),
    ([(1, 0), (6, 28), (4, 1), (6, 4), (6, 6), (6, 8), (3, 3)], .fnmscS 0 1 4 6 8),
    ([(1, 0), (6, 28), (4, 1), (6, 4), (6, 6), (6, 8), (3, 4)], .fmacD 0 1 4 6 8),
    ([(1, 0), (6, 28), (4, 1), (6, 4), (6, 6), (6, 8), (3, 5)], .fmscD 0 1 4 6 8),
    ([(1, 0), (6, 28), (4, 1), (6, 4), (6, 6), (6, 8), (3, 6)], .fnmacD 0 1 4 6 8),
    ([(1, 0), (6, 28), (4, 1), (6, 4), (6, 6), (6, 8), (3, 7)], .fnmscD 0 1 4 6 8),
    ([(1, 0), (6, 29), (4, 1), (6, 4), (6, 6), (6, 8), (3, 0)], .fmacI 0 1 4 6 8),
    ([(1, 0), (6, 29), (4, 1), (6, 4), (6, 6), (6, 8), (3, 1)], .fmscI 0 1 4 6 8),
    ([(1, 0), (6, 29), (4, 1), (6, 4), (6, 6), (6, 8), (3, 2)], .fnmacI 0 1 4 6 8),
    ([(1, 0), (6, 29), (4, 1), (6, 4), (6, 6), (6, 8), (3, 3)], .fnmscI 0 1 4 6 8)] : List (List (Nat × Nat) × Instr)),
    decode (bits x.1) = .ok x.2 := by decide

/-- FMAC_J to FCOS_D. -/
theorem test_decode_8 : ∀ x ∈ ([
    ([(1, 0), (6, 29), (4, 1), (6, 4), (6, 6), (6, 8), (3, 4)], .fmacJ 0 1 4 6 8),
    ([(1, 0), (6, 29), (4, 1), (6, 4), (6, 6), (6, 8), (3, 5)], .fmscJ 0 1 4 6 8),
    ([(1, 0), (6, 29), (4, 1), (6, 4), (6, 6), (6, 8), (3, 6)], .fnmacJ 0 1 4 6 8),
    ([(1, 0), (6, 29), (4, 1), (6, 4), (6, 6), (6, 8), (3, 7)], .fnmscJ 0 1 4 6 8),
    ([(1, 0), (6, 30), (4, 1), (6, 4), (6, 6), (9, 0)], .fabsS 0 1 4 6),
    ([(1, 0), (6, 30), (4, 1), (6, 4), (6, 6), (9, 1)], .fnegS 0 1 4 6),
    ([(1, 0), (6, 30), (4, 1), (6, 4), (6, 6), (9, 2)], .fsqrtS 0 1 4 6),
    ([(1, 0), (6, 30), (4, 1), (6, 4), (6, 6), (9, 3)], .frcpS 0 1 4 6),
    ([(1, 0), (6, 30), (4, 1), (6, 4), (6, 6), (9, 4)], .frsqS 0 1 4 6),
    ([(1, 0), (6, 30), (4, 1), (6, 4), (6, 6), (9, 5)], .fexp2S 0 1 4 6),
    ([(1, 0), (6, 30), (4, 1), (6, 4), (6, 6), (9, 6)], .flog2S 0 1 4 6),
    ([(1, 0), (6, 30), (4, 1), (6, 4), (6, 6), (9, 7)], .fsinS 0 1 4 6),
    ([(1, 0), (6, 30), (4, 1), (6, 4), (6, 6), (9, 8)], .fcosS 0 1 4 6),
    ([(1, 0), (6, 30), (4, 1), (6, 4), (6, 6), (9, 9)], .frndS 0 1 4 6),
    ([(1, 0), (6, 30), (4, 1), (6, 4), (6, 6), (9, 10)], .fclassS 0 1 4 6),
    ([(1, 0), (6, 30), (4, 1), (6, 4), (6, 6), (9, 16)], .fabsD 0 1 4 6),
    ([(1, 0), (6, 30), (4, 1), (6, 4), (6, 6), (9, 17)], .fnegD 0 1 4 6),
    ([(1, 0), (6, 30), (4, 1), (6, 4), (6, 6), (9, 18)], .fsqrtD 0 1 4 6),
    ([(1, 0), (6, 30), (4, 1), (6, 4), (6, 6), (9, 19)], .frcpD 0 1 4 6),
    ([(1, 0), (6, 30), (4, 1), (6, 4), (6, 6), (9, 20)], .frsqD 0 1 4 6),
    ([(1, 0), (6, 30), (4, 1), (6, 4), (6, 6), (9, 21)], .fexp2D 0 1 4 6),
    ([(1, 0), (6, 30), (4, 1), (6, 4), (6, 6), (9, 22)], .flog2D 0 1 4 6),
    ([(1, 0), (6, 30), (4, 1), (6, 4), (6, 6), (9, 23)], .fsinD 0 1 4 6),
    ([(1, 0), (6, 30), (4, 1), (6, 4), (6, 6), (9, 24)], .fcosD 0 1 4 6)] : List (List (Nat × Nat) × Instr)),
    decode (bits x.1) = .ok x.2 := by decide

/-- FRND_D to FCMP_GE_S. -/
theorem test_decode_9 : ∀ x ∈ ([
    ([(1, 0), (6, 30), (4, 1), (6, 4), (6, 6), (9, 25)], .frndD 0 1 4 6),
    ([(1, 0), (6, 30), (4, 1), (6, 4), (6, 6), (9, 26)], .fclassD 0 1 4 6),
    ([(1, 0), (6, 31), (4, 1), (6, 4), (6, 6), (3, 0), (3, 3), (3, 5)], .fcvtFloat 0 1 4 6 3 5),
    ([(1, 0), (6, 31), (4, 1), (6, 4), (6, 6), (3, 1), (3, 3), (3, 1)], .fcvtToInt 0 1 4 6 3 1),
    ([(1, 0), (6, 31), (4, 1), (6, 4), (6, 6), (3, 2), (3, 3), (3, 1)], .fcvtFromInt 0 1 4 6 3 1),
    ([(1, 0), (6, 31), (4, 1), (6, 4), (6, 6), (3, 4), (3, 3), (3, 1)], .fcvtz 0 1 4 6 3 1),
    ([(1, 0), (6, 31), (4, 1), (6, 4), (6, 6), (9, 192)], .fmovGf 0 1 4 6),
    ([(1, 0), (6, 31), (4, 1), (6, 4), (6, 6), (9, 193)], .fmovFg 0 1 4 6),
    ([(1, 0), (6, 31), (4, 1), (6, 4), (6, 6), (9, 194)], .iptS 0 1 4 6),
    ([(1, 0), (6, 31), (4, 1), (6, 4), (6, 6), (9, 195)], .iptD 0 1 4 6),
    ([(1, 0), (6, 31), (4, 1), (6, 4), (6, 6), (9, 196)], .iloI 0 1 4 6),
    ([(1, 0), (6, 31), (4, 1), (6, 4), (6, 6), (9, 197)], .ihiI 0 1 4 6),
    ([(1, 0), (6, 31), (4, 1), (6, 4), (6, 6), (9, 198)], .imidI 0 1 4 6),
    ([(1, 0), (6, 31), (4, 1), (6, 4), (6, 6), (9, 199)], .iwidI 0 1 4 6),
    ([(1, 0), (6, 31), (4, 1), (6, 4), (6, 6), (9, 200)], .iloJ 0 1 4 6),
    ([(1, 0), (6, 31), (4, 1), (6, 4), (6, 6), (9, 201)], .ihiJ 0 1 4 6),
    ([(1, 0), (6, 31), (4, 1), (6, 4), (6, 6), (9, 202)], .imidJ 0 1 4 6),
    ([(1, 0), (6, 31), (4, 1), (6, 4), (6, 6), (9, 203)], .iwidJ 0 1 4 6),
    ([(1, 0), (6, 32), (4, 1), (2, 2), (3, 1), (4, 0), (6, 6), (6, 8)], .fcmpEqS 0 1 2 1 6 8),
    ([(1, 0), (6, 32), (4, 1), (2, 2), (3, 1), (4, 1), (6, 6), (6, 8)], .fcmpNeS 0 1 2 1 6 8),
    ([(1, 0), (6, 32), (4, 1), (2, 2), (3, 1), (4, 2), (6, 6), (6, 8)], .fcmpLtS 0 1 2 1 6 8),
    ([(1, 0), (6, 32), (4, 1), (2, 2), (3, 1), (4, 3), (6, 6), (6, 8)], .fcmpLeS 0 1 2 1 6 8),
    ([(1, 0), (6, 32), (4, 1), (2, 2), (3, 1), (4, 4), (6, 6), (6, 8)], .fcmpGtS 0 1 2 1 6 8),
    ([(1, 0), (6, 32), (4, 1), (2, 2), (3, 1), (4, 5), (6, 6), (6, 8)], .fcmpGeS 0 1 2 1 6 8)] : List (List (Nat × Nat) × Instr)),
    decode (bits x.1) = .ok x.2 := by decide

/-- FCMP_UN_S to FCMP_LE_J. -/
theorem test_decode_10 : ∀ x ∈ ([
    ([(1, 0), (6, 32), (4, 1), (2, 2), (3, 1), (4, 6), (6, 6), (6, 8)], .fcmpUnS 0 1 2 1 6 8),
    ([(1, 0), (6, 32), (4, 1), (2, 2), (3, 1), (4, 7), (6, 6), (6, 8)], .fcmpOrdS 0 1 2 1 6 8),
    ([(1, 0), (6, 33), (4, 1), (2, 2), (3, 1), (4, 0), (6, 6), (6, 8)], .fcmpEqD 0 1 2 1 6 8),
    ([(1, 0), (6, 33), (4, 1), (2, 2), (3, 1), (4, 1), (6, 6), (6, 8)], .fcmpNeD 0 1 2 1 6 8),
    ([(1, 0), (6, 33), (4, 1), (2, 2), (3, 1), (4, 2), (6, 6), (6, 8)], .fcmpLtD 0 1 2 1 6 8),
    ([(1, 0), (6, 33), (4, 1), (2, 2), (3, 1), (4, 3), (6, 6), (6, 8)], .fcmpLeD 0 1 2 1 6 8),
    ([(1, 0), (6, 33), (4, 1), (2, 2), (3, 1), (4, 4), (6, 6), (6, 8)], .fcmpGtD 0 1 2 1 6 8),
    ([(1, 0), (6, 33), (4, 1), (2, 2), (3, 1), (4, 5), (6, 6), (6, 8)], .fcmpGeD 0 1 2 1 6 8),
    ([(1, 0), (6, 33), (4, 1), (2, 2), (3, 1), (4, 6), (6, 6), (6, 8)], .fcmpUnD 0 1 2 1 6 8),
    ([(1, 0), (6, 33), (4, 1), (2, 2), (3, 1), (4, 7), (6, 6), (6, 8)], .fcmpOrdD 0 1 2 1 6 8),
    ([(1, 0), (6, 34), (4, 1), (2, 2), (3, 1), (4, 0), (6, 6), (6, 8)], .fcmpEqI 0 1 2 1 6 8),
    ([(1, 0), (6, 34), (4, 1), (2, 2), (3, 1), (4, 1), (6, 6), (6, 8)], .fcmpNeI 0 1 2 1 6 8),
    ([(1, 0), (6, 34), (4, 1), (2, 2), (3, 1), (4, 2), (6, 6), (6, 8)], .fcmpLtI 0 1 2 1 6 8),
    ([(1, 0), (6, 34), (4, 1), (2, 2), (3, 1), (4, 3), (6, 6), (6, 8)], .fcmpLeI 0 1 2 1 6 8),
    ([(1, 0), (6, 34), (4, 1), (2, 2), (3, 1), (4, 4), (6, 6), (6, 8)], .fcmpGtI 0 1 2 1 6 8),
    ([(1, 0), (6, 34), (4, 1), (2, 2), (3, 1), (4, 5), (6, 6), (6, 8)], .fcmpGeI 0 1 2 1 6 8),
    ([(1, 0), (6, 34), (4, 1), (2, 2), (3, 1), (4, 8), (6, 6), (6, 8)], .fcmpSubI 0 1 2 1 6 8),
    ([(1, 0), (6, 34), (4, 1), (2, 2), (3, 1), (4, 9), (6, 6), (6, 8)], .fcmpDisjI 0 1 2 1 6 8),
    ([(1, 0), (6, 34), (4, 1), (2, 2), (3, 1), (4, 10), (6, 6), (6, 8)], .fcmpContI 0 1 2 1 6 8),
    ([(1, 0), (6, 34), (4, 1), (2, 2), (3, 1), (4, 11), (6, 6), (6, 8)], .fcmpEmptyI 0 1 2 1 6 8),
    ([(1, 0), (6, 35), (4, 1), (2, 2), (3, 1), (4, 0), (6, 6), (6, 8)], .fcmpEqJ 0 1 2 1 6 8),
    ([(1, 0), (6, 35), (4, 1), (2, 2), (3, 1), (4, 1), (6, 6), (6, 8)], .fcmpNeJ 0 1 2 1 6 8),
    ([(1, 0), (6, 35), (4, 1), (2, 2), (3, 1), (4, 2), (6, 6), (6, 8)], .fcmpLtJ 0 1 2 1 6 8),
    ([(1, 0), (6, 35), (4, 1), (2, 2), (3, 1), (4, 3), (6, 6), (6, 8)], .fcmpLeJ 0 1 2 1 6 8)] : List (List (Nat × Nat) × Instr)),
    decode (bits x.1) = .ok x.2 := by decide

/-- FCMP_GT_J to LDG_HU. -/
theorem test_decode_11 : ∀ x ∈ ([
    ([(1, 0), (6, 35), (4, 1), (2, 2), (3, 1), (4, 4), (6, 6), (6, 8)], .fcmpGtJ 0 1 2 1 6 8),
    ([(1, 0), (6, 35), (4, 1), (2, 2), (3, 1), (4, 5), (6, 6), (6, 8)], .fcmpGeJ 0 1 2 1 6 8),
    ([(1, 0), (6, 35), (4, 1), (2, 2), (3, 1), (4, 8), (6, 6), (6, 8)], .fcmpSubJ 0 1 2 1 6 8),
    ([(1, 0), (6, 35), (4, 1), (2, 2), (3, 1), (4, 9), (6, 6), (6, 8)], .fcmpDisjJ 0 1 2 1 6 8),
    ([(1, 0), (6, 35), (4, 1), (2, 2), (3, 1), (4, 10), (6, 6), (6, 8)], .fcmpContJ 0 1 2 1 6 8),
    ([(1, 0), (6, 35), (4, 1), (2, 2), (3, 1), (4, 11), (6, 6), (6, 8)], .fcmpEmptyJ 0 1 2 1 6 8),
    ([(1, 0), (6, 36), (4, 1), (6, 4), (6, 6), (6, 8), (3, 0)], .imakeS 0 1 4 6 8),
    ([(1, 0), (6, 36), (4, 1), (6, 4), (6, 6), (6, 8), (3, 1)], .imakeD 0 1 4 6 8),
    ([(1, 0), (6, 36), (4, 1), (6, 4), (6, 6), (3, 0), (3, 3), (3, 2)], .bisectI 0 1 4 6 3),
    ([(1, 0), (6, 36), (4, 1), (6, 4), (6, 6), (3, 0), (3, 3), (3, 3)], .bisectJ 0 1 4 6 3),
    ([(1, 0), (6, 36), (4, 1), (6, 4), (6, 6), (6, 8), (3, 4)], .iinflI 0 1 4 6 8),
    ([(1, 0), (6, 36), (4, 1), (6, 4), (6, 6), (6, 8), (3, 5)], .iinflJ 0 1 4 6 8),
    ([(1, 0), (6, 37), (4, 1), (6, 4), (6, 6), (6, 8), (3, 0)], .hadd2 0 1 4 6 8),
    ([(1, 0), (6, 37), (4, 1), (6, 4), (6, 6), (6, 8), (3, 1)], .hmul2 0 1 4 6 8),
    ([(1, 0), (6, 37), (4, 1), (6, 4), (6, 6), (6, 8), (3, 2)], .hfma2 0 1 4 6 8),
    ([(1, 0), (6, 37), (4, 1), (6, 4), (6, 6), (6, 8), (3, 3)], .badd2 0 1 4 6 8),
    ([(1, 0), (6, 37), (4, 1), (6, 4), (6, 6), (6, 8), (3, 4)], .bmul2 0 1 4 6 8),
    ([(1, 0), (6, 37), (4, 1), (6, 4), (6, 6), (6, 8), (3, 5)], .bfma2 0 1 4 6 8),
    ([(1, 0), (6, 37), (4, 1), (6, 4), (6, 6), (6, 8), (3, 6)], .cbdec 0 1 4 6 8),
    ([(1, 0), (6, 37), (4, 1), (6, 4), (6, 6), (6, 8), (3, 7)], .mxq 0 1 4 6 8),
    ([(1, 0), (6, 40), (4, 1), (6, 4), (6, 8), (6, 2), (3, 0)], .ldgB 0 1 4 8 2),
    ([(1, 0), (6, 40), (4, 1), (6, 4), (6, 8), (6, 2), (3, 1)], .ldgBu 0 1 4 8 2),
    ([(1, 0), (6, 40), (4, 1), (6, 4), (6, 8), (6, 2), (3, 2)], .ldgH 0 1 4 8 2),
    ([(1, 0), (6, 40), (4, 1), (6, 4), (6, 8), (6, 2), (3, 3)], .ldgHu 0 1 4 8 2)] : List (List (Nat × Nat) × Instr)),
    decode (bits x.1) = .ok x.2 := by decide

/-- LDG_W to STS_Q. -/
theorem test_decode_12 : ∀ x ∈ ([
    ([(1, 0), (6, 40), (4, 1), (6, 4), (6, 8), (6, 2), (3, 4)], .ldgW 0 1 4 8 2),
    ([(1, 0), (6, 40), (4, 1), (6, 4), (6, 8), (6, 2), (3, 5)], .ldgWu 0 1 4 8 2),
    ([(1, 0), (6, 40), (4, 1), (6, 4), (6, 8), (6, 2), (3, 6)], .ldgD 0 1 4 8 2),
    ([(1, 0), (6, 40), (4, 1), (6, 4), (6, 8), (6, 2), (3, 7)], .ldgQ 0 1 4 8 2),
    ([(1, 0), (6, 41), (4, 1), (6, 4), (6, 8), (6, 2), (3, 0)], .stgB 0 1 4 8 2),
    ([(1, 0), (6, 41), (4, 1), (6, 4), (6, 8), (6, 2), (3, 1)], .stgH 0 1 4 8 2),
    ([(1, 0), (6, 41), (4, 1), (6, 4), (6, 8), (6, 2), (3, 2)], .stgW 0 1 4 8 2),
    ([(1, 0), (6, 41), (4, 1), (6, 4), (6, 8), (6, 2), (3, 3)], .stgD 0 1 4 8 2),
    ([(1, 0), (6, 41), (4, 1), (6, 4), (6, 8), (6, 2), (3, 4)], .stgQ 0 1 4 8 2),
    ([(1, 0), (6, 41), (4, 1), (6, 4), (6, 8), (6, 2), (3, 5)], .stref 0 1 4 8 2),
    ([(1, 0), (6, 41), (4, 1), (6, 4), (6, 8), (6, 2), (3, 6)], .sthdr 0 1 4 8 2),
    ([(1, 0), (6, 42), (4, 1), (6, 4), (6, 8), (6, 5), (3, 0)], .ldsB 0 1 4 8 5),
    ([(1, 0), (6, 42), (4, 1), (6, 4), (6, 8), (6, 5), (3, 1)], .ldsBu 0 1 4 8 5),
    ([(1, 0), (6, 42), (4, 1), (6, 4), (6, 8), (6, 5), (3, 2)], .ldsH 0 1 4 8 5),
    ([(1, 0), (6, 42), (4, 1), (6, 4), (6, 8), (6, 5), (3, 3)], .ldsHu 0 1 4 8 5),
    ([(1, 0), (6, 42), (4, 1), (6, 4), (6, 8), (6, 5), (3, 4)], .ldsW 0 1 4 8 5),
    ([(1, 0), (6, 42), (4, 1), (6, 4), (6, 8), (6, 5), (3, 5)], .ldsWu 0 1 4 8 5),
    ([(1, 0), (6, 42), (4, 1), (6, 4), (6, 8), (6, 5), (3, 6)], .ldsD 0 1 4 8 5),
    ([(1, 0), (6, 42), (4, 1), (6, 4), (6, 8), (6, 5), (3, 7)], .ldsQ 0 1 4 8 5),
    ([(1, 0), (6, 43), (4, 1), (6, 4), (6, 8), (6, 5), (3, 0)], .stsB 0 1 4 8 5),
    ([(1, 0), (6, 43), (4, 1), (6, 4), (6, 8), (6, 5), (3, 1)], .stsH 0 1 4 8 5),
    ([(1, 0), (6, 43), (4, 1), (6, 4), (6, 8), (6, 5), (3, 2)], .stsW 0 1 4 8 5),
    ([(1, 0), (6, 43), (4, 1), (6, 4), (6, 8), (6, 5), (3, 3)], .stsD 0 1 4 8 5),
    ([(1, 0), (6, 43), (4, 1), (6, 4), (6, 8), (6, 5), (3, 4)], .stsQ 0 1 4 8 5)] : List (List (Nat × Nat) × Instr)),
    decode (bits x.1) = .ok x.2 := by decide

/-- LDF_G_S to AMOG_CAS_D. -/
theorem test_decode_13 : ∀ x ∈ ([
    ([(1, 0), (6, 44), (4, 1), (6, 4), (6, 8), (6, 2), (3, 0)], .ldfGS 0 1 4 8 2),
    ([(1, 0), (6, 44), (4, 1), (6, 4), (6, 8), (6, 2), (3, 1)], .ldfGD 0 1 4 8 2),
    ([(1, 0), (6, 44), (4, 1), (6, 4), (6, 8), (6, 2), (3, 2)], .ldfGI 0 1 4 8 2),
    ([(1, 0), (6, 44), (4, 1), (6, 4), (6, 8), (6, 2), (3, 3)], .ldfGJ 0 1 4 8 2),
    ([(1, 0), (6, 44), (4, 1), (6, 4), (6, 8), (6, 5), (3, 4)], .ldfLS 0 1 4 8 5),
    ([(1, 0), (6, 44), (4, 1), (6, 4), (6, 8), (6, 5), (3, 5)], .ldfLD 0 1 4 8 5),
    ([(1, 0), (6, 44), (4, 1), (6, 4), (6, 8), (6, 5), (3, 6)], .ldfLI 0 1 4 8 5),
    ([(1, 0), (6, 44), (4, 1), (6, 4), (6, 8), (6, 5), (3, 7)], .ldfLJ 0 1 4 8 5),
    ([(1, 0), (6, 45), (4, 1), (6, 4), (6, 8), (6, 2), (3, 0)], .stfGS 0 1 4 8 2),
    ([(1, 0), (6, 45), (4, 1), (6, 4), (6, 8), (6, 2), (3, 1)], .stfGD 0 1 4 8 2),
    ([(1, 0), (6, 45), (4, 1), (6, 4), (6, 8), (6, 2), (3, 2)], .stfGI 0 1 4 8 2),
    ([(1, 0), (6, 45), (4, 1), (6, 4), (6, 8), (6, 2), (3, 3)], .stfGJ 0 1 4 8 2),
    ([(1, 0), (6, 45), (4, 1), (6, 4), (6, 8), (6, 5), (3, 4)], .stfLS 0 1 4 8 5),
    ([(1, 0), (6, 45), (4, 1), (6, 4), (6, 8), (6, 5), (3, 5)], .stfLD 0 1 4 8 5),
    ([(1, 0), (6, 45), (4, 1), (6, 4), (6, 8), (6, 5), (3, 6)], .stfLI 0 1 4 8 5),
    ([(1, 0), (6, 45), (4, 1), (6, 4), (6, 8), (6, 5), (3, 7)], .stfLJ 0 1 4 8 5),
    ([(1, 0), (6, 46), (4, 1), (6, 4), (6, 8), (6, 11), (3, 0)], .amogAddW 0 1 4 8 11),
    ([(1, 0), (6, 46), (4, 1), (6, 4), (6, 8), (6, 11), (3, 1)], .amogAddD 0 1 4 8 11),
    ([(1, 0), (6, 46), (4, 1), (6, 4), (6, 8), (6, 11), (3, 2)], .amogMaxW 0 1 4 8 11),
    ([(1, 0), (6, 46), (4, 1), (6, 4), (6, 8), (6, 11), (3, 3)], .amogMinW 0 1 4 8 11),
    ([(1, 0), (6, 46), (4, 1), (6, 4), (6, 8), (6, 11), (3, 4)], .amogSwapW 0 1 4 8 11),
    ([(1, 0), (6, 46), (4, 1), (6, 4), (6, 8), (6, 11), (3, 5)], .amogSwapD 0 1 4 8 11),
    ([(1, 0), (6, 46), (4, 1), (6, 4), (6, 8), (6, 11), (3, 6)], .amogCasW 0 1 4 8 11),
    ([(1, 0), (6, 46), (4, 1), (6, 4), (6, 8), (6, 11), (3, 7)], .amogCasD 0 1 4 8 11)] : List (List (Nat × Nat) × Instr)),
    decode (bits x.1) = .ok x.2 := by decide

/-- AMOG2_AND_D to AMOS_CAS_D. -/
theorem test_decode_14 : ∀ x ∈ ([
    ([(1, 0), (6, 47), (4, 1), (6, 4), (6, 8), (6, 11), (3, 0)], .amog2AndD 0 1 4 8 11),
    ([(1, 0), (6, 47), (4, 1), (6, 4), (6, 8), (6, 11), (3, 1)], .amog2OrD 0 1 4 8 11),
    ([(1, 0), (6, 47), (4, 1), (6, 4), (6, 8), (6, 11), (3, 2)], .amog2XorD 0 1 4 8 11),
    ([(1, 0), (6, 47), (4, 1), (6, 4), (6, 8), (6, 11), (3, 3)], .amog2MaxuD 0 1 4 8 11),
    ([(1, 0), (6, 47), (4, 1), (6, 4), (6, 8), (6, 11), (3, 4)], .amog2MinuD 0 1 4 8 11),
    ([(1, 0), (6, 47), (4, 1), (6, 4), (6, 8), (6, 11), (3, 5)], .amog2AndW 0 1 4 8 11),
    ([(1, 0), (6, 47), (4, 1), (6, 4), (6, 8), (6, 11), (3, 6)], .amog2OrW 0 1 4 8 11),
    ([(1, 0), (6, 47), (4, 1), (6, 4), (6, 8), (6, 11), (3, 7)], .amog2XorW 0 1 4 8 11),
    ([(1, 0), (6, 48), (4, 1), (6, 4), (6, 8), (6, 11), (3, 0)], .amogscAddW 0 1 4 8 11),
    ([(1, 0), (6, 48), (4, 1), (6, 4), (6, 8), (6, 11), (3, 1)], .amogscAddD 0 1 4 8 11),
    ([(1, 0), (6, 48), (4, 1), (6, 4), (6, 8), (6, 11), (3, 2)], .amogscMaxW 0 1 4 8 11),
    ([(1, 0), (6, 48), (4, 1), (6, 4), (6, 8), (6, 11), (3, 3)], .amogscMinW 0 1 4 8 11),
    ([(1, 0), (6, 48), (4, 1), (6, 4), (6, 8), (6, 11), (3, 4)], .amogscSwapW 0 1 4 8 11),
    ([(1, 0), (6, 48), (4, 1), (6, 4), (6, 8), (6, 11), (3, 5)], .amogscSwapD 0 1 4 8 11),
    ([(1, 0), (6, 48), (4, 1), (6, 4), (6, 8), (6, 11), (3, 6)], .amogscCasW 0 1 4 8 11),
    ([(1, 0), (6, 48), (4, 1), (6, 4), (6, 8), (6, 11), (3, 7)], .amogscCasD 0 1 4 8 11),
    ([(1, 0), (6, 49), (4, 1), (6, 4), (6, 8), (6, 11), (3, 0)], .amosAddW 0 1 4 8 11),
    ([(1, 0), (6, 49), (4, 1), (6, 4), (6, 8), (6, 11), (3, 1)], .amosAddD 0 1 4 8 11),
    ([(1, 0), (6, 49), (4, 1), (6, 4), (6, 8), (6, 11), (3, 2)], .amosMaxW 0 1 4 8 11),
    ([(1, 0), (6, 49), (4, 1), (6, 4), (6, 8), (6, 11), (3, 3)], .amosMinW 0 1 4 8 11),
    ([(1, 0), (6, 49), (4, 1), (6, 4), (6, 8), (6, 11), (3, 4)], .amosSwapW 0 1 4 8 11),
    ([(1, 0), (6, 49), (4, 1), (6, 4), (6, 8), (6, 11), (3, 5)], .amosSwapD 0 1 4 8 11),
    ([(1, 0), (6, 49), (4, 1), (6, 4), (6, 8), (6, 11), (3, 6)], .amosCasW 0 1 4 8 11),
    ([(1, 0), (6, 49), (4, 1), (6, 4), (6, 8), (6, 11), (3, 7)], .amosCasD 0 1 4 8 11)] : List (List (Nat × Nat) × Instr)),
    decode (bits x.1) = .ok x.2 := by decide

/-- FENCE to TDEF. -/
theorem test_decode_15 : ∀ x ∈ ([
    ([(1, 0), (6, 50), (4, 1), (6, 2), (6, 9), (3, 3), (6, 0)], .fence 0 1 2 9 3),
    ([(1, 0), (6, 51), (4, 1), (6, 0), (6, 8), (6, 2), (3, 0)], .pfl 0 1 8 2),
    ([(1, 0), (6, 51), (4, 1), (6, 1), (6, 8), (6, 11), (3, 1)], .pfr 0 1 1 8 11),
    ([(1, 0), (6, 51), (4, 1), (6, 0), (6, 8), (6, 9), (3, 2)], .wbl1 0 1 8 9),
    ([(1, 0), (6, 51), (4, 1), (6, 0), (6, 8), (6, 9), (3, 3)], .invl1 0 1 8 9),
    ([(1, 0), (6, 51), (4, 1), (6, 4), (6, 8), (6, 11), (3, 4)], .acqr 0 1 4 8 11),
    ([(1, 0), (6, 52), (4, 1), (6, 4), (6, 8), (6, 3), (3, 0)], .pub 0 1 4 8 3),
    ([(1, 0), (6, 52), (4, 1), (6, 4), (6, 8), (6, 2), (3, 1)], .tagof 0 1 4 8 2),
    ([(1, 0), (6, 52), (4, 1), (6, 4), (6, 8), (6, 2), (3, 2)], .scopeof 0 1 4 8 2),
    ([(1, 0), (6, 52), (4, 1), (6, 4), (6, 8), (6, 11), (3, 3)], .colr 0 1 4 8 11),
    ([(1, 0), (6, 52), (4, 1), (6, 4), (6, 8), (6, 2), (3, 4)], .colof 0 1 4 8 2),
    ([(1, 0), (6, 53), (4, 1), (6, 0), (6, 8), (9, 0)], .cwait 0 1 8),
    ([(1, 0), (6, 53), (4, 1), (6, 0), (6, 8), (9, 1)], .cnotify 0 1 8),
    ([(1, 0), (6, 53), (4, 1), (6, 0), (6, 8), (9, 2)], .cnotifyall 0 1 8),
    ([(1, 0), (6, 53), (4, 1), (6, 4), (6, 8), (9, 3)], .cheld 0 1 4 8),
    ([(1, 0), (6, 54), (4, 1), (6, 4), (6, 9), (6, 2), (3, 0)], .copy 0 1 4 9 2),
    ([(1, 0), (6, 54), (4, 1), (6, 4), (6, 9), (6, 2), (3, 1)], .copym 0 1 4 9 2),
    ([(1, 0), (6, 54), (4, 1), (6, 4), (6, 9), (6, 2), (3, 2)], .copyb 0 1 4 9 2),
    ([(1, 0), (6, 54), (4, 1), (6, 4), (6, 9), (6, 2), (3, 3)], .gather 0 1 4 9 2),
    ([(1, 0), (6, 55), (4, 1), (6, 0), (6, 8), (9, 0)], .twaitall 0 1 8),
    ([(1, 0), (6, 55), (4, 1), (6, 0), (6, 8), (9, 1)], .twaitany 0 1 8),
    ([(1, 0), (6, 55), (4, 1), (6, 4), (6, 8), (9, 2)], .tfirst 0 1 4 8),
    ([(1, 0), (6, 55), (4, 1), (6, 0), (6, 8), (9, 3)], .tclr 0 1 8),
    ([(1, 0), (6, 56), (4, 1), (6, 4), (6, 8), (6, 2), (3, 0)], .tdef 0 1 4 8 2)] : List (List (Nat × Nat) × Instr)),
    decode (bits x.1) = .ok x.2 := by decide

/-- TRD to RFT. -/
theorem test_decode_16 : ∀ x ∈ ([
    ([(1, 0), (6, 56), (4, 1), (6, 4), (6, 1), (6, 5), (3, 1)], .trd 0 1 4 1 5),
    ([(1, 0), (6, 56), (4, 1), (6, 0), (6, 7), (9, 2)], .sign 0 1 7),
    ([(1, 0), (6, 56), (4, 1), (6, 4), (6, 8), (9, 3)], .mldb 0 1 4 8),
    ([(1, 0), (6, 56), (4, 1), (6, 4), (6, 6), (6, 11), (3, 4)], .mmq 0 1 4 6 11),
    ([(1, 0), (6, 56), (4, 1), (6, 7), (15, 5)], .mcommit 0 1 7),
    ([(1, 0), (6, 56), (4, 1), (6, 7), (15, 6)], .mwait 0 1 7),
    ([(1, 0), (6, 56), (4, 1), (6, 0), (6, 7), (6, 2), (3, 7)], .cvset 0 1 7 2),
    ([(1, 0), (6, 57), (4, 1), (6, 0), (6, 8), (6, 2), (3, 0)], .mzero 0 1 8 2),
    ([(1, 0), (6, 57), (4, 1), (6, 4), (6, 8), (6, 5), (3, 1)], .mrd 0 1 4 8 5),
    ([(1, 0), (6, 57), (4, 1), (6, 4), (6, 8), (6, 5), (3, 2)], .mwr 0 1 4 8 5),
    ([(1, 0), (6, 57), (4, 1), (6, 4), (6, 6), (6, 2), (3, 3)], .stpl 0 1 4 6 2),
    ([(1, 0), (6, 57), (4, 1), (6, 4), (6, 8), (6, 2), (3, 4)], .mxst 0 1 4 8 2),
    ([(1, 0), (6, 58), (4, 1), (6, 0), (6, 8), (6, 2), (3, 0)], .binit 0 1 8 2),
    ([(1, 0), (6, 58), (4, 1), (6, 0), (6, 8), (6, 2), (3, 1)], .arrive 0 1 8 2),
    ([(1, 0), (6, 58), (4, 1), (6, 0), (6, 8), (6, 2), (3, 2)], .bwait 0 1 8 2),
    ([(1, 0), (6, 58), (4, 1), (6, 0), (6, 8), (6, 2), (3, 3)], .arrivew 0 1 8 2),
    ([(1, 0), (6, 58), (4, 1), (12, 0), (6, 4), (3, 4)], .nbar 0 1 4),
    ([(1, 0), (6, 58), (4, 1), (6, 0), (6, 8), (9, 5)], .binval 0 1 8),
    ([(1, 0), (6, 59), (4, 1), (6, 4), (15, 0)], .tqpush 0 1 4),
    ([(1, 0), (6, 59), (4, 1), (6, 4), (15, 1)], .tqpop 0 1 4),
    ([(1, 0), (6, 59), (4, 1), (6, 4), (6, 8), (6, 2), (3, 2)], .amsend 0 1 4 8 2),
    ([(1, 0), (6, 59), (4, 1), (6, 4), (6, 8), (6, 2), (3, 3)], .launch 0 1 4 8 2),
    ([(1, 0), (6, 60), (4, 1), (6, 0), (6, 8), (9, 0)], .trap 0 1 8),
    ([(1, 0), (6, 60), (4, 1), (21, 1)], .rft 0 1)] : List (List (Nat × Nat) × Instr)),
    decode (bits x.1) = .ok x.2 := by decide

/-- RDTR to KDISP. -/
theorem test_decode_17 : ∀ x ∈ ([
    ([(1, 0), (6, 60), (4, 1), (6, 4), (6, 8), (9, 2)], .rdtr 0 1 4 8),
    ([(1, 0), (6, 60), (4, 1), (6, 0), (6, 8), (9, 3)], .syscall 0 1 8),
    ([(1, 0), (6, 60), (4, 1), (21, 4)], .dflush 0 1),
    ([(1, 0), (6, 60), (4, 1), (6, 4), (15, 5)], .rdfpc 0 1 4),
    ([(1, 0), (6, 60), (4, 1), (6, 0), (6, 8), (9, 6)], .wrfpc 0 1 8),
    ([(1, 0), (6, 60), (4, 1), (6, 4), (15, 7)], .rdhash 0 1 4),
    ([(7, 0), (5, 1), (5, 5), (3, 0), (5, 4), (7, 11)], .krfet 1 5 4),
    ([(7, 0), (5, 1), (5, 5), (3, 1), (5, 4), (7, 11)], .kbfx 1 5 4),
    ([(12, 0), (5, 3), (3, 2), (5, 4), (7, 11)], .kswait 3 4),
    ([(7, 0), (5, 1), (5, 5), (3, 3), (5, 4), (7, 11)], .kdisp 1 5 4)] : List (List (Nat × Nat) × Instr)),
    decode (bits x.1) = .ok x.2 := by decide

/-! ### Well-formedness and refusals -/

/-- One ill-formed term for each check of WellFormed.lean: each is refused. -/
theorem test_ill_formed : ∀ i ∈ ([
    .clauseStart 0 12 0 0 0, .clauseStart 0 0 12 0 0, .addW 0 0 63 1 2, .movi 0 0 63 0, .movk 0 0 1 32, .movk 0 0 63 0, .rdsr 0 0 1 20,
    .rdsr 0 0 63 0, .wrsr 0 0 12 1, .pset 0 0 1 3, .faddJ 0 0 1 2 4, .faddJ 0 0 0 3 4, .faddJ 0 0 0 2 5, .fmacJ 0 0 2 4 7, .fcvtFloat 0 0 1 2 6 0,
    .fcvtFloat 0 0 1 2 0 6, .fcvtFloat 0 0 1 2 3 3, .fcvtToInt 0 0 63 2 0 0, .fcvtToInt 0 0 1 2 4 0, .fcvtToInt 0 0 1 2 0 2,
    .fcvtFromInt 0 0 1 2 4 0, .fcvtFromInt 0 0 1 2 0 2, .fcvtz 0 0 63 2 0 0, .fcvtz 0 0 1 2 4 0, .fcvtz 0 0 1 2 0 2, .iptD 0 0 1 2,
    .iloJ 0 0 1 3, .fcmpEqJ 0 0 1 0 1 2, .fcmpEqJ 0 0 1 0 2 1, .imakeD 0 0 1 2 3, .bisectJ 0 0 1 2 1, .bisectJ 0 0 2 1 1, .iinflJ 0 0 2 3 1,
    .ldgQ 0 0 0 1 2, .ldgQ 0 0 62 1 2, .ldgQ 0 0 3 1 2, .stgQ 0 0 62 1 2, .stgQ 0 0 3 1 2, .ldsQ 0 0 0 1 2, .ldsQ 0 0 62 1 2, .ldsQ 0 0 3 1 2,
    .stsQ 0 0 62 1 2, .stsQ 0 0 3 1 2, .ldfGJ 0 0 1 2 3, .stfGJ 0 0 1 2 3, .fence 0 0 0 0 6, .pub 0 0 63 1 1, .pub 0 0 1 1 0, .pub 0 0 1 1 5,
    .gather 0 0 1 2 0, .gather 0 0 1 2 62, .gather 0 0 1 2 3, .nbar 0 0 6, .resultLands 0, .powerGood
  ] : List Instr), i.wf = false := by decide

/-- Their neighbours inside the bounds are well formed. -/
theorem test_well_formed : ∀ i ∈ ([
    .clauseStart 0 11 11 0 7, .clauseStart 0 11 15 1 0, .addW 0 0 62 63 63, .movk 0 0 1 31, .rdsr 0 0 1 19, .wrsr 0 0 13 1, .wrsr 0 0 16 1,
    .pset 0 0 1 2, .faddJ 0 0 62 0 4, .fcvtFloat 0 0 1 2 5 0, .fcvtToInt 0 0 1 2 3 1, .ldgQ 0 0 60 1 2, .ldgQ 0 0 2 1 2, .stgQ 0 0 0 1 2,
    .stgQ 0 0 60 1 2, .fence 0 0 0 0 5, .pub 0 0 1 1 4, .gather 0 0 1 2 60, .nbar 0 0 5
  ] : List Instr), i.wf = true := by decide

/-- R85, R89: the reserved majors 0x16, 0x17, 0x26, 0x27, 0x3D and 0x3E; a function that no row has; an operand that is not well formed. -/
theorem test_refused : (∀ m ∈ ([0x16, 0x17, 0x26, 0x27, 0x3D, 0x3E] : List Nat), decode (bits [(1, 0), (6, m), (25, 0)]) = .error .reservedMajor) ∧
    decode (bits [(1, 0), (6, 0), (4, 0), (21, 4)]) = .error .reservedFunction ∧
    decode (bits [(1, 0), (6, 5), (4, 0), (6, 63), (6, 1), (6, 2), (3, 0)]) = .error .badOperand := by decide

/-! ### Witnesses: every statement's hypotheses can be met -/

/-- A property of every entry of a vector holds at every index. -/
theorem all_entries {α : Type} {n : Nat} {P : α → Prop} (v : Vector α n) (h : ∀ x ∈ v.toList, P x) (i : Nat) (x : α) (e : v[i]? = some x) : P x := by
  obtain ⟨hi, rfl⟩ := Vector.getElem?_eq_some_iff.mp e
  exact h _ (by simp [Vector.mem_toList_iff])

theorem witness_SourceOperands : (1 : BitVec 6) ≠ 0 ∧ (62 : BitVec 6) ≠ 63 ∧ fxT.g[1]? = some 0 ∧ fxT.g[62]? = some 0 ∧ fxIss.words[fxIss.pos + 1]? = some 0 ∧
    fxT.p[1]? = some .f ∧ fxT.p[7]? = some .f := by decide

theorem witness_ResultsLand : (0 < 62 ∧ 62 < 63) ∧ (7 < 8) ∧ fxT.lands = [] ∧ fxIss.cycle fxT + 2 ≤ 2 ∧ fxIss.cycle fxT + 3 ≤ 3 := by decide

theorem witness_ImmediateWords : fx.cur? = some fxIss := by decide
theorem witness_IntegerWords : fx.cur? = some fxIss ∧ binRows.length = 16 ∧ twoRows.length = 8 ∧ threeRows.length = 3 ∧ oneRows.length = 14 ∧
    shiftRows.length = 4 := by decide
theorem witness_DivideWords : (onOp fx (op5 (.divide [.g 1 7]) 0)).op? 5 = some (op5 (.divide [.g 1 7]) 0) ∧ divRows.length = 4 := by decide
theorem witness_IntegerCompares : fx.cur? = some fxIss ∧ icmpRows.length = 12 := by decide
theorem witness_PredicatesAndVotes : fx.cur? = some fxIss ∧ (2 : BitVec 3).toNat < 3 ∧ predTwo.length = 3 ∧ predOne.length = 4 := by decide

/-- The shuffle's cases: the own index; an index below 0, at W, and of no participant. -/
theorem witness_Shuffles : fx.cur? = some fxIss ∧ distinctIdx fx fxIss 0 ∧ takesPart fx fxIss 0 0 fxT ∧ fxT.idx = 0 ∧ 32 * fx.passesOf fxIss = 32 ∧
    (∀ x ∈ fx.threads, ¬ takesPart fx fxIss 0 5 x) := by
  unfold distinctIdx takesPart; decide

theorem witness_TransferWords : fx.cur? = some fxIss := by decide
theorem witness_Branches : fx.cur? = some fxIss := by decide

/-- A stack of one entry with a colour of the frame it ends. -/
def fxRet : State := withT fun t => { t with stack := [24], held := [{ colour := 5, depth := 1, st := .granted }] }
theorem witness_JumpsCallsAndReturns : fx.cur? = some fxIss ∧ fxRet.cur? = some fxIss ∧ (fxRet.threads.map Thread.tid).Nodup ∧
    fxRet.threads.all (fun t => executes fxIss 0 t && t.stack == [24] && t.held.any fun h => h.depth == 1 && h.st != .waiting) ∧
    fx.threads.all (fun t => executes fxIss 0 t && t.stack == []) ∧
    after (fun s => (s.threads.map fun t => (t.stack, t.next, t.held.length), s.rels.map (·.colour))) fxRet (.ret 0) = some ([([], some 24, 0)], [5]) := by
  decide

/-- A replaying kernel, whose entry of the hash table differs from the thread's hash; a thread in a trap. -/
def fxReplay : State :=
  { (mapped fx) with
    kernels := fx.kernels.map fun k => { k with lr := { k.lr with mode := 3, logBase := 64 } }
    threads := fx.threads.map fun t => { t with hash := 7 } }
theorem witness_SystemWords : fx.cur? = some fxIss ∧ (∃ t ∈ fx.threads, executes fxIss 0 t = true) ∧ (¬ ∃ t ∈ fx.threads, executes fxIss 8 t = true) ∧
    (13 : BitVec 6) ≠ 16 ∧ (∀ t ∈ fx.threads, executes fxIss 0 t = true → ∀ k ∈ fx.kernels, k.lr.mode < 2) ∧ fxReplay.cur? = some fxIss ∧
    (∀ t ∈ fxReplay.threads, executes fxIss 0 t = true → t.trapped = false ∧ ∃ k ∈ fxReplay.kernels, fxReplay.kernelOf? t.gid = some k ∧ k.lr.mode = 3 ∧
      t.hash ≠ BitVec.ofNat 64 (fxReplay.homeRead k.asid (fxReplay.hashEntry k t.tid) 8)) := by decide +kernel
theorem witness_SystemWords_writes : (({ fxT with srPend := [(13, 5)] } : Thread).srPend = [(13, 5)] ∧ fxT.stickyNow = 0) ∧
    ({ fxT with srPend := [(16, 5)] } : Thread).srPend = [(16, 5)] ∧ ({ fxT with srPend := [(13, 0xFFFFFFFF)] } : Thread).applySr.fpc = 0x1F1F03 := by decide

theorem witness_PointWords : fx.cur? = some fxIss ∧ ptRows.length = 3 ∧ fusedRows.length = 4 ∧ minMaxRows.length = 2 ∧ fnRows.length = 7 := by decide
theorem witness_FlaggedPointWords : (onOp fx (op5 (.fpDivSqrt [.f 1 7] none) 0)).op? 5 = some (op5 (.fpDivSqrt [.f 1 7] none) 0) ∧
    (let d : Due := { seq := 1, code := 8, addr := 0, pc := 0, resume := none }
     (onOp fx (op5 (.fpDivSqrt [] (some d)) 0)).op? 5 = some (op5 (.fpDivSqrt [] (some d)) 0)) := by decide
theorem witness_PointCompares : fx.cur? = some fxIss ∧ fcmpRows.length = 8 := by decide
theorem witness_ConversionsAndPackedWords : fx.cur? = some fxIss ∧ packRows.length = 6 := by decide

/-- The number 1 and its neighbours: a value that is held, one that is not, one that overflows. -/
theorem witness_RoundingModes : Fmt.s ∈ arithFmts ∧ Fmt.bf ∈ arithFmts ∧ (1 : Nat) ≠ 0 ∧
    (Fmt.s.round .rne (.fin false 1 0)).1 = 0x3F800000 ∧ (Fmt.s.round .rne (.fin false 1 128)).1 = 0x7F800000 ∧
    (Fmt.s.round .rdn (.fin false 1 128)).1 = 0x7F7FFFFF ∧ (Fmt.s.round .rup (.fin false 1 (-200))).1 = 1 := by
  simp [arithFmts]; decide +kernel
theorem witness_RoundedOnce : 0x7F7FFFFF < 2 ^ (Fmt.s.ebits + Fmt.s.fbits + 1) ∧ Fmt.s.decode 1 = .fin false 1 (-149) ∧
    Fmt.s.decode 0x80000000 = .fin true 0 (-149) ∧ Fmt.s.add .rne (.fin false 1 0) (.fin true 1 0) = (0, 0) ∧
    Fmt.s.add .rdn (.fin false 1 0) (.fin true 1 0) = (0x80000000, 0) := by decide +kernel
theorem witness_IntervalWords : fx.cur? = some fxIss ∧ ivRows.length = 7 ∧ ivFusedRows.length = 4 ∧ ivPartRows.length = 4 := by decide
theorem witness_IntervalCompares : fx.cur? = some fxIss ∧ ivCmpRows.length = 10 := by decide

/-- The interval [1, 2] is valid and holds 1 and 2; the interval [−∞, +∞] is valid and holds them too. -/
theorem witness_IntervalResultsContain : (ivOf .s (0x3F800000, 0x40000000)).valid = true ∧ (ivOf .s (0xFF800000, 0x7F800000)).valid = true := by decide +kernel
theorem witness_IntervalResultsContain_within : within (ivOf .s (0x3F800000, 0x40000000)) 1 ∧ within (ivOf .s (0x3F800000, 0x40000000)) 2 := by
  have e : ivOf .s (0x3F800000, 0x40000000) = ⟨.fin false 8388608 (-23), .fin false 8388608 (-22)⟩ := by decide +kernel
  rw [e]
  constructor <;> constructor <;> norm_num [below, above, Fp.num]

/-- A parent with a spare slot beside it. -/
def fxSpare : State :=
  { fx with cohorts := fx.cohorts ++ [{ placedCohort placedLaunch 2 0 9 1 1 with spare := true }] }
def biOp (lo hi : Nat) (f : Option Due) : Op := op5 (.bisect 2 1 false lo hi f (some 36)) 0
theorem witness_FlaggedIntervalWords :
    (let d : Due := { seq := 1, code := 7, addr := 0, pc := 0, resume := none }
     (onOp fx (biOp 0 0 (some d))).op? 5 = some (biOp 0 0 (some d)) ∧ (onOp fx (biOp 0 0 (some d))).bisectWaits (biOp 0 0 (some d)) = false) ∧
    (onOp fx (biOp 0x3F800000 0x40000000 none)).thread? 4 = some fxT ∧ (onOp fx (biOp 0x3F800000 0x40000000 none)).spareSlot? fxT = none ∧
    ((onOp fxSpare (biOp 0x3F800000 0x40000000 none)).spareSlot? fxT).map (fun x => (x.1.cid, x.2)) = some (9, 0) ∧
    after (fun s => s.threads.map fun t => (t.tid, t.fr 2, t.pred 1)) (onOp fxSpare (biOp 0x3F800000 0x40000000 none)) (.bisectComplete 5) =
      some [(4, 0x3FC000003F800000, .t), (6, 0x400000003FC00000, .f)] := by decide +kernel

theorem witness_FlaggedOperations : fx.cur? = some fxIss ∧ (fx.executing fxIss 0).map (·.tid) = [4] ∧
    (let s : State := onOp { fx with uses := [{ id := 9, cid := 3, flag := 0, left := [4] }] } { op5 (.loadS (.gU 1 8) 8) 0 with use := some 9 }
     (s.threads.map Thread.tid).Nodup ∧ s.thread? 4 = some fxT ∧ fxT.overwritten 5 (.g 1 7) = false ∧ (s.cohort? 3).isSome = true ∧
     (s.uses.find? fun u => u.id == 9) = some { id := 9, cid := 3, flag := 0, left := [4] } ∧ ([4].filter fun x => x != 4) = []) := by decide

/-- A mapped page that may only be written; one without metadata; a page of another die. -/
def mappedAs (e : Word) (s : State) : State :=
  { s with mem := { s.mem with tlb := [{ die := 0, asid := 1, base := 0, size := 2 ^ 21, entry := e }] } }

/-- What stands between a translated access and its home (R157, R160, R238, R363, R377), with nothing in the way. -/
def clearAt (s : State) (o : Op) : Bool :=
  match s.homeFor o false with
  | (_, .error _) => false
  | (s1, .ok h) => s1.stackTrained h.node h.addr && s1.frameExists h.node h.addr && (s1.thread? o.tid).isSome
      && mColour (s1.metaSeen o.core o.asid (o.addr.toNat / 64) h) == 0 && !(s1.modOp o.id fun y => { y with met := true }).uncorrectable o h
def homeIs (s : State) (o : Op) (h : Home) : Bool := match (s.homeFor o false).2 with
  | .ok x => x == h
  | .error _ => false

theorem witness_Loads : ldgRows.length = 12 ∧ ldsRows.length = 12 ∧
    (let o := op5 (.load (.gU 3 8) 8 none) 0x1008
     let p : Op := { o with st := .performed 7 }
     (onOp fx p).op? 5 = some p ∧ (onOp fx p).hole? p = none) ∧
    (let o := op5 (.load (.gU 3 8) 8 none) 0x1008
     let s := onOp (mappedAs 0x2005 fx) o
     s.op? 5 = some o ∧ s.hole? o = none ∧ s.gate o = true ∧ homeIs s o { homeOfLine 0x1008 with entry := 0x2005 } = true ∧ permOk o.kind 0x2005 = false) ∧
    (let o := op5 (.load (.gU 3 8) 8 none) 0x1FFFF8
     let s := onOp (mapped fx) o
     s.hole? o = none ∧ s.gate o = true ∧ homeIs s o (homeOfLine 0x1FFFF8) = true ∧ permOk o.kind leafME = true ∧ clearAt s o = true) ∧
    (let o := op5 (.load (.gU 3 8) 8 none) 0x200000
     let s := onOp (mapped fx) o
     s.hole? o = none ∧ s.gate o = true ∧ (s.homeFor o false).2 = .error (.absent 4 false)) ∧
    (let o := op5 (.loadS (.fI 3) 8) 0x3FF8
     let s := onOp fx o
     s.op? 5 = some o ∧ s.hole? o = none ∧ s.gate o = true ∧ s.scratchHeld o = false ∧ (s.scratchTarget o).map (·.gid) = some 2 ∧
     s.regionBad 0 [2] 0x3FF8 8 = false ∧ loadIvBad (.fI 3) (s.regionRead 0 [2] 0x3FF8 8) = false) := by decide +kernel

theorem witness_StoreWords : storeRows.length = 9 := by decide

theorem witness_StoredBytes : (56 % 64 + 8 ≤ 64 ∧ (homeOfLine 56).node ≠ 4 ∧ peHB (homeOfLine 56).entry = false) ∧
    ((fx.lineGranule? 0 0).isSome = true ∧ (fx.coreAt 0).l1 = [] ∧
     let s := fx.storeLine 0 1 56 8 0x1122 (homeOfLine 0) none 0 0
     lineSlice (s.loadLine 0 1 56 8 (homeOfLine 0) 0 0 none).2.data 56 8 = 0x1122 ∧
     lineSlice (s.loadLine 0 1 55 1 (homeOfLine 0) 0 0 none).2.data 55 1 = 0) ∧
    ([2, 3].Nodup ∧ (∀ x ∈ [2, 3], x < 128) ∧ 2 * 2 ^ 14 - 8 + 8 ≤ [2, 3].length * 2 ^ 14 ∧
     (fx.regionWrite 0 [2, 3] (2 * 2 ^ 14 - 8) 7 8).regionRead 0 [2, 3] (2 * 2 ^ 14 - 8) 8 = 7 ∧
     regionByte 0 [2, 3] (2 ^ 14 - 1 + 7) = some (3 * 2 ^ 14 + 6) ∧ (0x80 : Nat).testBit 7 = true) := by decide +kernel

/-- A live barrier word at scratch offset 16 of the group. -/
def fxLive (w : Nat) : State :=
  { fx with pool := { fx.pool with bytes := cellsWriteN (2 * 2 ^ 14 + 16) w 8 [], live := [(2 * 2 ^ 14 + 16) / 8] } }

theorem witness_StoreEvents :
    (let o := op5 (.storeS 7 8) 0x3FF8
     let s := onOp (fxLive 1) o
     s.op? 5 = some o ∧ s.gate o = true ∧ s.scratchHeld o = false ∧ (s.scratchTarget o).map (·.gid) = some 2 ∧ s.liveOver 0 [2] 0x3FF8 8 = false) ∧
    (let o := op5 (.storeS 7 8) 16
     let s := onOp (fxLive 1) o
     s.gate o = true ∧ s.scratchHeld o = false ∧ (s.scratchTarget o).map (·.gid) = some 2 ∧ s.liveOver 0 [2] 16 8 = true) ∧
    (let o := op5 (.stpl 2 3) 32
     let s := onOp (fxLive 1) o
     s.gate o = true ∧ s.scratchHeld o = false ∧ (s.scratchTarget o).map (·.gid) = some 2 ∧ (∀ j, j < 2 → s.liveOver 0 [2] (32 + 128 * j) 4 = false) ∧
     s.stplMates o = [o]) ∧
    (let o := op5 (.mwr 7) 8
     let s := onOp fx o
     s.gate o = true ∧ (∀ y ∈ s.saved, y.gid ≠ 2) ∧ (s.group? 2).map (fun g => (g.accum, g.st)) = some ([3], .running) ∧
     s.liveOver 0 [3] 8 8 = false) ∧
    (let d : Due := { seq := 5, code := 3, addr := 0x1000, pc := 4, resume := none }
     let o : Op := { op5 (.store 7 8 none false) 0x1000 with st := .faulted d }
     (onOp fx o).op? 5 = some o ∧ ((onOp fx o).thread? 4).isSome = true) ∧
    (let o := op5 (.store 7 8 none false) 0x1000
     let s := onOp (mapped fx) o
     s.op? 5 = some o ∧ (s.thread? 4).isSome = true ∧ s.gate o = true ∧ s.hole? o = none) ∧
    (let o := op5 (.load (.gU 3 8) 8 none) 0x1000
     let s := onOp (mapped fx) o
     s.gate o = true ∧ s.hole? o = none ∧ homeIs s o (homeOfLine 0x1000) = true) := by decide +kernel

/-- A line of the L1 that has been dirty since cycle 0, at a core whose clock stands at 4096. -/
def dirtyLine : L1Line :=
  { asid := 1, line := 64, granule := 5, data := 7, valid := 1, dirty := 1, mdata := 0, home := homeOfLine 0x1000, cls := 0, since := 0, filled := 0,
    placed := 0, used := 0 }
def fxDirty : State := fx.modCore 0 fun k => { k with l1 := [dirtyLine], clock := 4096 }

theorem witness_FencesAndCaches :
    (let o := op5 (.fence 2 1 1) 0
     (onOp fx o).op? 5 = some o ∧ (onOp fx o).gate o = true) ∧
    (let o := op5 (.fence 1 1 2) 0
     (onOp fxDirty o).op? 5 = some o ∧ (onOp fxDirty o).gate o = true ∧ (fxDirty.coreAt 0).l1 ≠ []) ∧
    (let o := op5 (.acqr 127 64) 0x1000
     (onOp fx o).op? 5 = some o ∧ (onOp fx o).gate o = true) ∧
    (fxDirty.l1? 0 1 64 = some dirtyLine ∧ dirtyLine.dirty ≠ 0) ∧
    (let w : WriteBack := { id := 5, core := 0, asid := 1, line := 64, data := 7, mask := 1, kinds := 0, home := homeOfLine 0x1000, cls := 0 }
     let s : State := { fx with mem := { fx.mem with wbs := [w] } }
     s.mem.wbs.find? (fun x => x.id == 5) = some w ∧ s.wbWaits w = false ∧ ({ fx with mem := { fx.mem with wbs := [{ w with id := 4 }, w] } } : State).wbWaits w = true ∧ copyable (dieOf w.core) w.home = false ∧ w.mask ≠ 0) ∧
    (let w : WriteThrough := { id := 5, die := 1, asid := 1, line := 64, data := 7, mask := 1, kinds := 0, home := homeOfLine 0x1000 }
     let s : State := { fx with mem := { fx.mem with wts := [w] } }
     s.mem.wts.find? (fun x => x.id == 5) = some w ∧ s.wtWaits w = false) := by decide +kernel

theorem witness_AtomicWords : (∀ k ∈ fx.kernels, k.lr.mode ≠ 1) ∧ fx.kernels ≠ [] ∧ amogRows.length = 24 ∧ amosRows.length = 8 := by decide

/-- A deterministic kernel with its one thread exited and an atomic in the buffer. -/
def fxDet : State :=
  (onOp { (mapped fx) with
    kernels := fx.kernels.map fun k => { k with lr := { k.lr with mode := 1 } }
    threads := fx.threads.map fun t => { t with st := .exited } } (op5 (.atomic .add 8 1 0 3 0) 0x1000)).modCore 0 fun k => { k with atomBuf := [5] }

theorem witness_AtomicsPerformed : (2 ^ 32 - 1 < 2 ^ 32 ∧ 2 ^ 64 - 1 < 2 ^ 64) ∧
    (let o := op5 (.atomicS .add 4 1 0 3) 0x3FFC
     let s := onOp fx o
     let s1 := s.fenceEffect 4 5 0 1 2 true true
     s.op? 5 = some o ∧ s.gate o = true ∧ s.scratchHeld o = false ∧ s.buffered o = false ∧ s.turnWaits o = false ∧
     (s1.scratchTarget o).map (·.gid) = some 2 ∧ s1.liveOver 0 [2] 0x3FFC 4 = false ∧ s1.regionBad 0 [2] 0x3FFC 4 = false) ∧
    (let o := op5 (.atomic .add 8 1 0 3 0) 0x1000
     let s := onOp (mapped fx) o
     s.buffered o = false ∧ s.turnWaits o = false ∧ s.hole? o = none) ∧
    (let o : Op := { op5 (.atomic .add 8 1 0 3 0) 0x1000 with st := .performed 7 }
     (onOp fx o).op? 5 = some o) ∧
    (let o := op5 (.atomic .swap 8 1 0 3 0) 0x1038
     let s := onOp (mapped fx) o
     s.op? 5 = some o ∧ (s.coreAt 0).l1 = [] ∧ s.mem.wbs = [] ∧ s.mem.wts = [] ∧ 0x1038 % 64 + 8 ≤ 64 ∧
     (s.atHome o (homeOfLine 0x1038)).mem.rd 0 0x1038 8 = 1) ∧
    ((fxDet.kernel? 1).map (fun k => (k.lr.mode, k.st)) = some (1, .running) ∧ fxDet.buffersFor 1 0 = true ∧ ∀ t ∈ fxDet.threads, t.st = .exited) := by
  decide +kernel

/-- A walk for operation 5 that has an address before it. -/
def fxWalk (q : List Nat) : State :=
  { onOp (mapped fx) (op5 (.pub 2 3) 0x1000) with
    walks := [{ id := 6, op := 5, quad := 0, core := 0, asid := 1, tid := 4, scope := 2, queue := q, raised := 1, obj := none, lines := [], spilled := 0,
                absent := none }]
    fresh := 7 }

theorem witness_Objects :
    (let o := op5 (.stref 0x2000) 0x1000
     let s := onOp (mapped fx) o
     s.op? 5 = some o ∧ s.hole? o = none ∧ s.gate o = true ∧ homeIs s o (homeOfLine 0x1000) = true ∧ peWR leafME = true ∧ clearAt s o = true ∧
     peME leafME = true) ∧
    (let o := op5 (.stref 0x2000) 0x1000
     let s := onOp (mappedAs 0x2007 fx) o
     s.hole? o = none ∧ s.gate o = true ∧ homeIs s o { homeOfLine 0x1000 with entry := 0x2007 } = true ∧ peWR 0x2007 = true ∧ clearAt s o = true ∧
     peME 0x2007 = false) ∧
    (let o := op5 (.pub 2 3) 0x1000
     (onOp fx o).op? 5 = some o ∧ (onOp fx o).gate o = true ∧ (onOp fx o).walks = [] ∧ (onOp fx o).walkTurn o = false) ∧
    (∀ q ∈ [[], [0, 8], [0x1000]], ((fxWalk q).walks.find? fun x => x.id == 6).isSome = true ∧ (∀ x ∈ (fxWalk q).walks, x.quad = 0 → 6 ≤ x.id) ∧
      ((fxWalk q).op? 5).map (·.st) = some .queued) ∧
    ((fxWalk [0x1000]).walks.head?.map fun w => (fxWalk [0x1000]).walkMeet w 0x1000 8) = some (.home (homeOfLine 0x1000)) ∧
    ((fxWalk [0x1000]).walks.head?.map fun w => mKind ((fxWalk [0x1000]).walkRead w 0x1000 (homeOfLine 0x1000)).2.mdata 0) = some 0 := by decide +kernel

theorem witness_Objects_colours : ∀ left ∈ [64, 128],
    (let o := op5 (.colr 63 left) 0x1000
     let s := onOp (mapped fx) o
     s.op? 5 = some o ∧ s.gate o = true ∧ left ≠ 0 ∧ s.hole? o = none ∧ homeIs s o (homeOfLine 0x1000) = true ∧ peME leafME = true ∧ peWR leafME = true ∧
     (s.homeFor o false).1.stackTrained 0 0x1000 = true ∧ (s.homeFor o false).1.frameExists 0 0x1000 = true ∧ mColour (s.mem.metaAt 0 0x1000) = 0) := by
  decide +kernel

/-- A thread that holds colour 63. -/
def fxHolds : State := withT fun t => { t with held := [{ colour := 63, depth := 2, st := .granted }], g := regs [(1, 63)] }
theorem witness_MonitorWords : fx.cur? = some fxIss ∧ fxHolds.cur? = some fxIss ∧ (∃ x, fxHolds.executing fxIss 0 = [x] ∧ fxHolds.threads = [x]) ∧
    (fxHolds.threads.all fun t => srcG fxIss t .zero 1 == 63) ∧ (∀ x ∈ fx.threads, x.held = []) ∧
    sends fxHolds (.cheld 0 0 3 1) = [.g 3 3] ∧ after (fun s => s.msgs.map fun m => (m.colour, m.kind)) fxHolds (.cnotify 0 0 1) = some [(63, .notify)] := by
  refine ⟨by decide, by decide, ⟨_, rfl, rfl⟩, by decide, by decide, by decide, by decide⟩

/-- A monitor of colour 9 with the owner, entry queue and wait set given, and one message for it. -/
def fxMsg (k : MsgKind) (owner : Option (Nat × Nat)) (entry waiters : List (Nat × Nat)) : State :=
  { fx with monitors := [{ asid := 1, colour := 9, owner := owner, entry := entry, waiters := waiters }]
            msgs := [{ id := 5, tid := 4, gid := 2, asid := 1, colour := 9, depth := 0, kind := k, grp := 0 }], fresh := 6 }

/-- Each message on each kind of monitor that its clause names. -/
theorem witness_MonitorEvents : ∀ x ∈ [(MsgKind.acquire, none, [], []), (.acquire, some (8, 0), [], []), (.release, some (4, 0), [], []),
      (.release, some (4, 0), [(8, 1)], []), (.wait, some (4, 0), [], []), (.wait, some (4, 0), [(8, 1)], []), (.notify, some (4, 0), [], []),
      (.notify, some (4, 0), [], [(8, 1)]), (.notifyAll, some (4, 0), [], [(8, 1)])],
    let s := fxMsg x.1 x.2.1 x.2.2.1 x.2.2.2
    (s.msgs.find? fun m => m.id == 5).map (fun m => s.msgWaits m) = some false ∧ (s.monitorAt 1 9).owner = x.2.1 ∧ (s.monitorAt 1 9).entry = x.2.2.1 ∧
    (s.monitorAt 1 9).waiters = x.2.2.2 ∧ (s.monitorAt 1 9).asid = 1 ∧ (s.monitorAt 1 9).colour = 9 := by decide

/-- Replies of both kinds, to a thread that goes on and to one that has exited; a release that is due. -/
def fxReply (grant : Bool) (st : TSt) : State :=
  { withT (fun t => { t with st := st, held := [{ colour := 9, depth := 0, st := .sent }] }) with
    replies := [{ id := 5, tid := 4, asid := 1, colour := 9, depth := 0, grant := grant }], fresh := 6 }
theorem witness_MonitorEvents_replies : (∀ x ∈ [(true, TSt.runnable), (false, .exited), (false, .runnable)],
    let s := fxReply x.1 x.2
    (s.replies.find? fun y => y.id == 5).map (fun r => s.replyWaits r 0) = some false ∧ (s.thread? 4).map (·.core) = some 0) ∧
    (let s : State := { fx with rels := [{ id := 5, tid := 4, gid := 2, asid := 1, core := 0, colour := 9, depth := 0, seq := 9, wait := true }]
                                monitors := [{ asid := 1, colour := 9, owner := some (4, 0), entry := [], waiters := [] }] }
     (s.rels.find? fun y => y.id == 5).isSome = true ∧ s.ops = [] ∧ s.replies = [] ∧ (s.monitorAt 1 9).owner.map (·.1) = some 4) := by decide

/-- A slot of core 0 changed. -/
def fxSlot (f : Slot → Slot) : State := fx.modCore 0 fun k => { k with slots := k.slots.map f }

theorem witness_CohortEvents :
    (let s := (fxSlot fun x => { x with ready := [8], pending := [8] }).modCohort 3 fun c => { c with waitCount := 256 }
     let s : State := { s with issues := [] }
     (s.cohort? 3).map (·.waitCount) = some 256 ∧ (s.slotOf? 0 1).map (·.ready) = some [8] ∧ s.issues = [] ∧
     ((s.slotOf? 0 1).bind fun x => x.active[0]?) = some (some 3)) ∧
    (let s := fxSlot fun x => { x with swapping := [(6, 8, 9), (7, 3, 0)] }
     (s.coreAt 0).running?.map (·.swapping.find? fun y => decide (y.2.2 ≤ (s.coreAt 0).clock)) = some (some (7, 3, 0)) ∧ (s.coreAt 0).clock < 9) ∧
    (let s := withT fun t => { t with st := .exited }
     (s.thread? 4).map (fun t => (t.st, t.freed)) = some (.exited, false) ∧ s.idleThread 4 = true) ∧
    (∀ spare ∈ [false, true],
     let s := (withT fun t => { t with st := .exited, freed := true }).modCohort 3 fun c => { c with spare := spare }
     (s.cohort? 3).map (fun c => (c.stands, c.spare)) = some (true, spare) ∧ (∀ t ∈ s.threads, t.st = .exited ∧ t.freed = true) ∧
     (s.cohort? 3).all fun c => (List.range 12).all fun n => c.flags[n]? == some 0) := by decide

/-- A thread that is due a trap, of a context with and without a handler, and one already in a trap. -/
def dueT (trapped : Bool) : Thread :=
  { fxT with trapped := trapped, due := [{ seq := 6, code := 1, addr := 0, pc := 0, resume := none }, { seq := 5, code := 2, addr := 0, pc := 0, resume := none }] }
def fxHandler : State := { fx with ctxs := fx.ctxs.map fun c => { c with handler := 120 } }
theorem witness_TrapsTaken : (dueT false).due ≠ [] ∧ fxHandler.handlerOf 2 ≠ 0 ∧ fx.handlerOf 2 = 0 ∧ (dueT true).trapped = true ∧
    (fx.group? (dueT true).gid).map (·.kid) = some 1 := by decide

/-- A core that picks the placed header; one at the end of its clause, with and without RFT. -/
def fxHeader : State := { (State.reset.placeHeader 0x7E0001E0) with agenda := [] }
theorem witness_ClauseStartsAndEnds : fxHeader.cur? = none ∧
    (let r := (fxHeader.schedule fxHeader.turn).pick 0
     (r.2.map fun p => (p.cid, match p.head with | .hdr x _ => x.toNat | _ => 1)) = some (3, 0) ∧
     (r.1.cohort? 3).all (fun c => c.flags.toList.all (· == 0)) = true ∧
     (match r.1.fetchClause 0 1 0 3 with | .ok ws => ws | .error _ => []) = [0x7E0001E0, 0, 0]) ∧
    (∀ x ∈ fx.threads, x.exiting = false ∧ (x.cid = fxIss.cid → x.due = [])) ∧ (∀ c ∈ fx.cohorts, c.cid = fxIss.cid → c.flushEnd = false) ∧
    (∀ x ∈ fx.threads, x.tid ∈ fxIss.tids ∧ x.srPend = [] ∧ x.rft = false) ∧ (∀ x ∈ (withT fun t => { t with rft := true }).threads, x.rft = true) := by
  decide +kernel

theorem witness_ConvergenceRegisters :
    (let s := onOp fx (op5 (.sign 7) 0)
     s.op? 5 = some (op5 (.sign 7) 0) ∧ (s.groups.map (·.gid)) = [2] ∧ s.gate (op5 (.sign 7) 0) = true ∧ (∀ g ∈ s.groups, g.cv[7]? = some { e := 0, s := 0 }) ∧
     ∀ p ∈ s.ops, ¬ p.id < 5) ∧
    (let s := onOp fx (op5 (.cvset 7 65535) 0)
     s.op? 5 = some (op5 (.cvset 7 65535) 0) ∧ (∀ g ∈ s.groups, 7 < g.cv.length) ∧ ∀ p ∈ s.ops, ¬ p.id < 5) := by decide

/-- Each kind of scratch store before a SIGN. -/
theorem witness_SignWaitsForStores : ∀ k ∈ [OpKind.storeS 7 8, .stpl 2 3, .mwr 7, .binit 1],
    let p := op5 k 0
    let o : Op := { op5 (.sign 0) 0 with id := 6 }
    let s : State := { fx with ops := [p, o], fresh := 7 }
    s.op? 6 = some o ∧ p ∈ s.ops ∧ p.tid = o.tid ∧ p.id < o.id ∧ p.waiting = true ∧ after (fun t => t == s) s (.signApply 6) = some true := by decide +kernel

/-- A command of the thread's group 2, first of its matrix group 5. -/
def cmd6 (k : CmdKind) (snap : List Nat) : Cmd :=
  { id := 6, tid := 4, gid := 2, core := 0, asid := 1, grp := 5, index := 0, seq := 5, cv := none, kind := k, started := true, progress := 0, snap := snap,
    stop := none }
def mgrp5 : MGroup :=
  { id := 5, tid := 4, gid := 2, core := 0, queued := 1, closed := none, done := false, fault := none, reported := false }
def onCmd (c : Cmd) : State :=
  { (withT fun t => { t with matGrp := some 5 }) with cmds := [c], mgroups := [mgrp5], fresh := 7 }

/-- A well-formed descriptor: an FP32 accumulator of one row at offset 0 of region 1. -/
def accEntry : Nat := 6 + 1 * 2 ^ 16 + 512 * 2 ^ 32 + 2 ^ 23 * 2 ^ 64
theorem witness_EngineEvents :
    (let c : Cmd := { cmd6 (.mzero 0 0 1) [] with started := false }
     (onCmd c).cmd? 6 = some c ∧ (onCmd c).cmdReady c = true ∧ (onCmd c).unitFree c = true) ∧
    (∀ x ∈ [CmdKind.tdef 3 0 0, .mzero 0 0 1, .mxst 0 0 1 0 0, .mxst 0 0 1 2 0],
      (onCmd (cmd6 x [])).cmd? 6 = some (cmd6 x []) ∧ (onCmd (cmd6 x [])).runningAsid? 0 = some 1 ∧ ((onCmd (cmd6 x [])).coreAt 0).exchange = none ∧
      ((onCmd (cmd6 x [])).coreAt 0).restoring = false) ∧
    (Desc.ofEntry 0).placed 0 16384 16384 = none ∧ ((Desc.ofEntry (BitVec.ofNat 512 accEntry)).placed 0 16384 16384).isSome = true ∧
    (onCmd (cmd6 (.tdef 3 0 0) [])).regionSizes 2 = (16384, 16384) ∧
    (let c := cmd6 (.mmq 0 1 0 0 0 2 1) [7, 9]
     (onCmd c).cmd? 6 = some c ∧ c.snap = [7, 9] ∧ (onCmd c).rowBad c 0 1 0 0 1 = none ∧ (onCmd c).accumBad 2 0 2048 = false) ∧
    (let s : State := { (onCmd (cmd6 (.mxst 0 0 1 0 0) [])) with pool := { fx.pool with bad := [(3 * 2 ^ 14 + 8) / 8] } }
     s.accumBad 2 0 2048 = true) := by decide +kernel
theorem witness_EngineEvents_decoder :
    (let c0 := cmd6 (.mldb 0 0) []
     let r := fx.decoderReads 99 (fx.desc 0 1 0)
     let c : Cmd := { c0 with gid := 99, snap := r.1 ++ r.2.1 ++ r.2.2 }
     let q := (onCmd c).decoderReads c.gid ((onCmd c).desc c.core c.asid 0)
     c.snap = q.1 ++ q.2.1 ++ q.2.2 ∧ c.snap.length = 1056 ∧ (onCmd c).group? c.gid = none) := by decide +kernel

theorem witness_IntegerRowUpdate : 0 < 512 ∧ 511 < 512 := by decide

theorem witness_EngineWordsQueue : fx.cur? = some fxIss ∧ fx.thread? fxT.tid = some fxT ∧ fxT.matGrp = none ∧ (∀ m ∈ fx.mgroups, m.id < fx.fresh) ∧
    (let s := onCmd (cmd6 (.mzero 0 0 1) [])
     (s.thread? 4).map (·.matGrp) = some (some 5) ∧ s.mgroups.find? (fun x => x.id == 5) = some mgrp5 ∧ mgrp5.fault = none ∧ mgrp5.done = false ∧
     (∀ m ∈ s.mgroups, m.id < s.fresh) ∧ (∀ x ∈ s.mgroups, x.id = 5 → x = mgrp5) ∧ ∃ c ∈ s.cmds, c.grp = 5) ∧
    (({ mgrp5 with fault := some 1 } : MGroup).fault ≠ none) := by decide

/-- Barrier words of each kind at the bank: on a free word, on a live one, at the last arrival of a phase and before it, in its phase and after. -/
def barW : Nat := 2 * 2 ^ 14 + 16
theorem witness_Barriers :
    (let s := onOp fx (op5 (.binit 65535) 16)
     let o := op5 (.binit 65535) 16
     s.op? 5 = some o ∧ s.gate o = true ∧ s.scratchHeld o = false ∧ (s.barrierWord? o).map (fun x => (x.grp.gid, x.off, x.byte)) = some (2, 16, barW) ∧
     s.bankTurn o = false ∧ s.isLive barW = false ∧ 65535 < 2 ^ 16) ∧
    (∀ k ∈ [OpKind.binit 1, .binit 0, .arrive 1, .arrive 0, .bwait 0, .bwait 1, .arrivew 1, .binval],
     let s := onOp (fxLive 2) (op5 k 16)
     let o := op5 k 16
     s.op? 5 = some o ∧ s.gate o = true ∧ s.scratchHeld o = false ∧ (s.barrierWord? o).map (fun x => (x.grp.gid, x.off, x.byte)) = some (2, 16, barW) ∧
     s.bankTurn o = false ∧ s.isLive barW = true ∧ s.poolWord barW / 2 ^ 48 % 2 ^ 16 = 0 ∧ ∀ t ∈ s.threads, t.parks = []) ∧
    (∀ k ∈ [OpKind.arrive 1, .bwait 0, .arrivew 1, .binval],
     let s := onOp fx (op5 k 16)
     s.gate (op5 k 16) = true ∧ s.isLive barW = false) ∧
    (arrivals 2 1 = (2 + 2 ^ 16, false) ∧ arrivals 2 2 = (2 + 2 ^ 48, true)) := by decide
theorem witness_Barriers_networks : ∀ k ∈ [0, 1],
    let o := op5 (.nbar k) 0
    let s := onOp fx o
    s.op? 5 = some o ∧ s.thread? 4 = some fxT ∧ s.leaverPending fxT k = false ∧ (s.participants fxT k).map (fun u => s.arrival? k u.tid) = [some o] ∧
    (∀ x ∈ s.kernels, x.lr.mode ≠ 1) := by decide
theorem witness_Barriers_counts : (0xFFFF : Nat) % 2 ^ 16 ≠ 0 ∧ 0xFFFF / 2 ^ 16 % 2 ^ 16 < 0xFFFF % 2 ^ 16 ∧ 0xFFFF < 2 ^ 64 ∧ 0xFFFF / 2 ^ 32 % 2 ^ 16 = 0 := by
  decide

/-- A copy of one word within the group's scratch, and one of each other kind. -/
def copy6 (k : CopyKind) : Copy :=
  { id := 6, tid := 4, gid := 2, core := 0, asid := 1, seq := 5, pc := 4, kind := k, dst := 64, dstS := true, src := 128, srcS := true, len := 8,
    tag := some 0, started := true, held := none, denied := none, acq := 0, acqC := 0 }
def onCopy (c : Copy) : State := { (mapped fx) with cpys := [c], fresh := 7 }

theorem witness_Copies : fx.cur? = some fxIss ∧ (fx.tagOf 2 0).2 < 64 ∧
    (let c := { copy6 (.copy none) with started := false }
     let s := onCopy c
     s.copy? 6 = some c ∧ s.engineHeld 4 5 = false ∧ s.sourcePending c = false ∧ s.copyKnown c = true ∧ s.ringFull c = false ∧ s.footWaits 0 1 6 (s.copyFoot c) = false) ∧
    (∀ k ∈ [CopyKind.copy none, .copym 3, .copyb 16], (onCopy (copy6 k)).copy? 6 = some (copy6 k) ∧ (onCopy (copy6 k)).copyHole? (copy6 k) (copy6 k).places = none) ∧
    (let c : Copy := { copy6 (.gather 4 2 128) with src := 0x1000, srcS := false }
     (onCopy c).copy? 6 = some c ∧ (onCopy c).copyHole? c ((onCopy c).gatherPlaces c 4 2 128) = none) ∧
    (let c : Copy := { copy6 .pfr with src := 0x1000, srcS := false, dstS := false, len := 128 }
     (onCopy c).copy? 6 = some c ∧ c.src.toNat + c.len ≤ 2 ^ 52) ∧
    (let s := fx.modGroup 2 fun g => { g with ring := some 4, ringLo := 2, ringHi := 8, ringIdle := 8 }
     (s.group? 2).map (·.ringIdle) = some 8 ∧ after (fun t => t.groups.map fun g => (g.ring, g.ringIdle)) s (.ringIdleExpiry 2) = some [(some 3, 0)]) ∧
    (let c := copy6 (.copy none)
     let s := onCopy c
     c.len = 8 ∧ (s.group? 2).map (fun g => ((s.scratchGroup? g c.src).map (·.gid), (s.scratchGroup? g c.dst).map (·.gid))) = some (some 2, some 2) ∧
     s.saved = [] ∧ s.liveOver 0 [2] 64 8 = false ∧ s.regionBad 0 [2] 128 8 = false) := by decide +kernel

/-- No tag is ready; every tag is ready. -/
def fxTags : State := fx.modCore 0 fun k => { k with tags := .replicate 64 { ready := true, outstanding := 0, err := none } }
theorem witness_TagWords : fx.cur? = some fxIss ∧ fx.tagView 2 &&& 5 ≠ 5 ∧ fx.tagView 2 &&& 5 = 0 ∧ (5 : Word) ≠ 0 ∧ fxTags.tagView 2 &&& 5 = 5 ∧
    (∀ k, k < fxTags.tagCount 2 → (fxTags.tagAt (fxTags.tagOf 2 k).1 (fxTags.tagOf 2 k).2).err = none) ∧
    sends fxTags (.tfirst 0 0 3 0) = [.g 3 64] := by decide

/-- A valid launch record at 0x1000: one group of 32 threads, eight general registers, one granule of scratch (R300 to R302). -/
def recWords : List (Nat × Nat) := [(0x1000, 1 + 2 ^ 21 + 2 ^ 42), (0x1008, 32 + 2 ^ 16 + 2 ^ 32), (0x1018, 8 * 2 ^ 8), (0x1020, 1)]
def fxRec : State := writes (mapped fx) recWords
def readable (s : State) (a : Nat) : List Word := match s.readRec 0 1 a with
  | .ok ws => ws
  | _ => []
def req (lr : Option LaunchRec) (src : Source) (a : Nat) : LaunchReq :=
  { die := 0, asid := 1, recAddr := a, src := src, origin := none, lr := lr, held := none }
def fullList : List LaunchReq := List.replicate 1024 (req none (.launch none) 0x1000)

theorem witness_KernelsAndGroups :
    (let o := op5 (.launch 3 none) 0x1000
     let s := onOp fxRec o
     let s1 := s.fenceEffect 4 5 0 1 4 true false
     s.op? 5 = some o ∧ s.gate o = true ∧ s.launchTurn o = false ∧ (readable s1 0x1000).length = 64 ∧ s1.recOk 0 1 (readable s1 0x1000) = true ∧
     (s1.launches.filter fun l => l.die == 0).length < 1024 ∧ (readable s1 0x2000).length = 64 ∧ s1.recOk 0 1 (readable s1 0x2000) = false ∧
     1024 ≤ (fullList.filter fun l => l.die == 0).length) ∧
    (∀ x ∈ [(req (some placedLaunch) (.launch none) 0x1000, true), (req none (.launch none) 0x1000, true), (req none (.queue 7 0) 0x2000, false)],
     let s : State := { fxRec with launches := [x.1] }
     s.launches.find? (fun y => y.die == 0) = some x.1 ∧ x.1.held = none ∧ s.recOk 0 1 (readable s x.1.recAddr) = x.2 ∧ (readable s x.1.recAddr).length = 64) := by
  decide +kernel

/-- A kernel with a group to place; a placed group; a group whose cohorts have retired; a draining kernel of each source. -/
def kernelSt (st : KSt) (src : Source) : State := { fx with kernels := fx.kernels.map fun k => { k with st := st, src := src, nextGroup := 0 } }
theorem witness_KernelsAndGroups_groups :
    (((kernelSt .queued (.launch none)).nextKernel?.bind fun k => (kernelSt .queued (.launch none)).offer k).isSome = true) ∧
    (kernelSt .running (.launch none)).amsgs = [] ∧
    (let s := fx.modGroup 2 fun g => { g with st := .placed }
     (s.group? 2).map (·.st) = some .placed ∧ s.runningAsid? 0 = some 1) ∧
    (∀ b ∈ [true, false],
     let s0 : State := { fx with cohorts := fx.cohorts.map fun c => { c with retired := true } }
     let s := if b then s0 else onOp s0 (op5 (.loadS (.gU 1 8) 8) 0)
     (s.group? 2).map (·.st) = some .running ∧ s.cohortsOver 2 = true ∧ s.runningAsid? 0 = some 1 ∧ s.groupQuiet 2 = b) ∧
    (∀ src ∈ [Source.queue 7 0, .launch none, .launch (some 0x1000), .handler 7 4],
     ((kernelSt .draining src).kernel? 1).map (fun k => (k.st, k.src, k.errors)) = some (.draining, src, [])) ∧
    (match (mapped (kernelSt .draining (.launch (some 0x1000)))).placeOf 1 0x1000 with | .home h => h == homeOfLine 0x1000 | _ => false) = true ∧
    recordValid placedLaunch := by
  refine ⟨by decide +kernel, by decide, by decide, by decide, by decide, by decide +kernel, ?_⟩
  unfold recordValid
  decide

/-- Two groups of one kernel on cores 0 and 1, so that core 1 can be stolen from. -/
def fxTwo : State := { fx with groups := fx.groups ++ fx.groups.map fun g => { g with gid := 9, core := 1, index := 1 } }
theorem witness_TasksAndMessages :
    (let o := op5 (.tqpush 7) 0
     fx.cur? = some fxIss ∧ (onOp fx o).op? 5 = some o ∧ (onOp fx o).gate o = true ∧ (onOp fx o).serves 0 1 = true) ∧
    (let s := onOp (fx.modCore 0 fun c => c.setTasks 1 [7, 8]) (op5 (.tqpop 3 0) 0)
     s.popTurn (op5 (.tqpop 3 0) 0) = false ∧ (s.coreAt 0).tasks (s.kidOf (op5 (.tqpop 3 0) 0)) = [7, 8]) ∧
    (let o := op5 (.tqpop 3 8) 0
     let s := onOp (fxTwo.modCore 1 fun c => { c.setTasks 1 [7, 8] with slots := [Slot.fresh 0 1 .running] }) o
     s.op? 5 = some o ∧ s.victims o = [1] ∧ s.serves 1 1 = true ∧ ((s.coreAt 1).tasks (s.kidOf o)).getLast? = some 8) ∧
    (let o : Op := { op5 (.tqpop 3 0) 0 with st := .performed 7 }
     (onOp fx o).op? 5 = some o) := by decide

/-- A context whose handler entry 0 is the record at 0x1000; a message from the thread to core 0; a waiting entry. -/
def fxTable : State :=
  { fxRec with ctxs := fxRec.ctxs.map fun c => { c with table := [0x1000] }, dev := { fxRec.dev with bindings := [(3, 1)] } }
def amsg7 (h : Nat) : AMsg := { id := 7, core := 1, asid := 1, handler := h, lr := placedLaunch, origin := none, payload := List.replicate 8 0, sender := 0, scope := 1 }
theorem witness_TasksAndMessages_messages :
    (let o := op5 (.amsend 3 1) 0
     let s : State := onOp { fxTable with amsgs := List.replicate 64 (amsg7 0) } o
     let s1 := s.fenceEffect 4 5 0 1 (amScope s 0 (Target.ofWord 1)) true false
     s.op? 5 = some o ∧ s.gate o = true ∧ s.amTurn o = false ∧ s.payloadAway o = false ∧ s1.dev.pkgid = fld 1 9 10 ∧ 64 ≤ (s1.amsgs.filter fun m => m.core == 1).length) ∧
    (let o := op5 (.amsend 3 1) 0
     let s := onOp fxTable o
     let s1 := s.fenceEffect 4 5 0 1 (amScope s 0 (Target.ofWord 1)) true false
     s.op? 5 = some o ∧ s.gate o = true ∧ s.amTurn o = false ∧ s.payloadAway o = false ∧ s1.dev.pkgid = fld 1 9 10 ∧ (s1.amsgs.filter fun m => m.core == 1).length < 64 ∧
     ((s1.boundCtx? 2 1).bind fun x => s1.handlerRec? 0 x 0).isSome = true) ∧
    (let o : Op := { op5 (.amsend 3 1) 0 with st := .performed 1 }
     (onOp fx o).op? 5 = some o) ∧
    (∀ core ∈ [0, 1],
     let m := { amsg7 0 with core := core }
     let s : State := { fxTable with amsgs := [m] }
     s.amsgs.find? (fun x => x.id == 7) = some m ∧ (∀ x ∈ s.amsgs, x.core = core → 7 ≤ x.id) ∧
     (s.fit? (m.lr.handler (m.payload ++ [m.sender])) s.fresh 0 core).isSome = (core == 1)) := by
  decide +kernel

/-- Two slots of core 0: context 1 in state x, context 2 in state y. -/
def fxSlots (x y : SlotSt) (req : List Nat) (ex : Option Nat) : State :=
  { (fx.modCore 0 fun k => { k with slots := [Slot.fresh 0 1 x, Slot.fresh 1 2 y], switchReq := req, exchange := ex }) with
    issues := [], ctxs := fx.ctxs ++ fx.ctxs.map fun c => { c with asid := 2 } }
theorem witness_ContextEvents :
    ((fx.ctx? 1).isSome = true ∧ 511 < 512 ∧ 2 < 3 ∧ ∀ x ∈ (fx.coreAt 511).slots, x.num ≠ 2 ∧ x.asid ≠ 1) ∧
    (let s := fxSlots .running .ready [] none
     (s.coreAt 0).switchReq = [] ∧ (s.coreAt 0).slots = [Slot.fresh 0 1 .running, Slot.fresh 1 2 .ready] ∧ (s.coreAt 0).exchange = none) ∧
    (let s := fxSlots .stopping .ready [2] none
     (s.coreAt 0).switchReq = [2] ∧ (s.coreAt 0).slots = [Slot.fresh 0 1 .stopping, Slot.fresh 1 2 .ready] ∧ (s.coreAt 0).exchange = none ∧
     (∀ i ∈ s.issues, i.core ≠ 0) ∧ s.engineStopped 0 1 = true ∧
     ({ s with cmds := [{ cmd6 (.mzero 0 0 2) [] with stop := some 1 }] } : State).engineStopped 0 1 = false) ∧
    (let s := fxSlots .exchanging .ready [] (some 2)
     (s.coreAt 0).slots = [Slot.fresh 0 1 .exchanging, Slot.fresh 1 2 .ready] ∧ (s.coreAt 0).exchange = some 2 ∧ (1 ≤ 64 ∧ 64 ≤ 64) ∧
     (s.coreAt 0).wslots = []) ∧
    (let s := (fxSlots .running .ready [] none).modCore 0 fun k => { k with restoring := true }
     (s.coreAt 0).restoring = true ∧ ((s.coreAt 0).runner?).map (·.st) = some .running) ∧
    (let s := fxSlots .running .ready [] none
     s.slotOf? 0 2 = some (Slot.fresh 1 2 .ready) ∧ (s.coreAt 0).switchesTo 2 = false ∧ s.idleOn 0 2 = true) ∧
    (let s := fxSlots .ready .running [] none
     s.slotOf? 0 1 = some (Slot.fresh 0 1 .ready) ∧ (s.coreAt 0).switchesTo 1 = false ∧ s.idleOn 0 1 = false) ∧
    (let s := fxSlots .running .saving [] none
     s.slotOf? 0 2 = some (Slot.fresh 1 2 .saving)) ∧
    (let s := fxSlots .running .loading [] none
     s.slotOf? 0 2 = some (Slot.fresh 1 2 .loading) ∧ (s.ctx? 2).isSome = true ∧
     s.loadNeed 0 (s.saved.filter fun v => v.core == 0 && v.asid == 2) ≤ (s.freeGranules 0).length) ∧
    (65535 < 2 ^ 16 ∧ ∀ c ∈ fx.ctxs, c.asid = 65535 → c.alive = false) := by decide +kernel

/-- A host command queue whose header stands at 0x1000 and whose packets stand at 0x2000, with the packet of index 0 claimed: its type and word A. -/
def q7 (st : QSt) (slot : Option Nat) (started : List Pkt) : HQueue :=
  { id := 7, die := 0, hdr := 0x1000, asid := 1, st := st, slot := slot, since := 1, listed := false, tokens := 0, doneIdx := 0, started := started }
def ringAt (ty a : Nat) : State :=
  writes (mapped fx) [(0x1000, 1), (0x1010, 0x2000), (0x1018, 4), (0x2000, 1 + ty * 256), (0x2018, a)]
def onQ (ty a : Nat) (q : HQueue) : State := { ringAt ty a with queues := [q], fresh := 8 }
def runQ : HQueue := q7 .running (some 31) []
def begunQ (p : Pkt) : HQueue := q7 .running (some 31) [p]

/-- A packet can start, and whether it is well formed. -/
def startable (s : State) (ty : Nat) (bad : Bool) : Bool :=
  s.mayStart runQ 0 && s.pktType 1 0x1000 0 == ty && s.queueBad runQ 0 == bad
def meets (s : State) (a : Nat) (ok : Word → Bool) (reads : Bool) : Option Home := match s.wordMeet runQ a ok reads with
  | .home h => some h
  | _ => none
def refuses (s : State) (a : Nat) (ok : Word → Bool) (reads : Bool) : Bool := match s.wordMeet runQ a ok reads with
  | .bad _ => true
  | _ => false

theorem witness_CommandAndBulkQueues :
    (3 < 4 ∧ 0x1000 % 64 = 0 ∧ ((mapped fx).ctx? 1).isSome = true ∧ (mapped fx).inDevice 1 0x1000 = true ∧ (mapped fx).queues = [] ∧ (mapped fx).bulks = []) ∧
    (let s := onQ 1 0x1000 (q7 .created none [])
     s.queue? 7 = some (q7 .created none []) ∧ 31 < 32 ∧ s.queueInSlot? 0 31 = none) ∧
    (onQ 1 0x1000 runQ).queue? 7 = some runQ ∧
    (let qs : List HQueue := (List.range 32).map fun k => { q7 .running (some k) [] with id := 10 + k, since := 40 - k }
     let s : State := { ringAt 1 0 with queues := { q7 .created none [] with listed := true } :: qs }
     32 ≤ (s.queues.filter fun q => q.die == 0 && q.slot.isSome).length ∧ ∃ q ∈ s.queues, q.die = 0 ∧ s.queueWaits q = true) := by decide +kernel

theorem witness_CommandAndBulkQueues_packets :
    (∀ ty ∈ [1, 2, 3, 4, 5, 6], startable (onQ ty 0x3000 runQ) ty false = true) ∧ startable (onQ 5 0 runQ) 5 false = true ∧
    (∀ ty ∈ [1, 2, 3, 4, 5, 6], startable (writes (onQ ty 0x3000 runQ) [(0x2030, 1)]) ty true = true) ∧
    meets (onQ 3 0x3000 runQ) 0x3000 atomicOk true = some (homeOfLine 0x3000) ∧ meets (onQ 4 0x3000 runQ) 0x3000 peRD true = some (homeOfLine 0x3000) ∧
    meets (onQ 5 0x3000 runQ) 0x3000 peWR false = some (homeOfLine 0x3000) ∧ (onQ 5 0x3000 runQ).frameExists 0 0x3000 = true ∧
    (∀ ty ∈ [3, 4, 6], startable (onQ ty (2 ^ 52) runQ) ty false = true) ∧ refuses (onQ 3 (2 ^ 52) runQ) (2 ^ 52) atomicOk true = true ∧
    refuses (onQ 4 (2 ^ 52) runQ) (2 ^ 52) peRD true = true ∧ refuses (onQ 6 (2 ^ 52) runQ) (2 ^ 52) peWR false = true ∧
    ((onQ 1 0x3000 runQ).launches.filter fun l => l.die == 0).length < 1024 := by decide +kernel

theorem witness_CommandAndBulkQueues_completions :
    (∀ v ∈ [0, 1],
     let s := writes (onQ 4 0x3000 (begunQ (startedPkt 0 0 false 0))) [(0x2020, v)]
     (s.queue? 7).map (·.started) = some [startedPkt 0 0 false 0] ∧ s.pktType 1 0x1000 0 = 4 ∧ meets s 0x3000 peRD true = some (homeOfLine 0x3000) ∧
     (s.pktWord 1 0x1000 0 4 ≤ s.homeRead 1 0x3000 8 ↔ v = 0)) ∧
    (∀ x ∈ [(1, startedPkt 0 0 true 1), (3, startedPkt 0 0 true 0), (4, startedPkt 0 0 false 0), (6, startedPkt 0 0 true 0)],
     let s := onQ x.1 0x3000 (begunQ x.2)
     (s.queue? 7).map (fun q => q.started.find? fun y => y.idx == 0) = some (some x.2) ∧ x.2.done = false ∧ x.2.held = none ∧
     s.pktType 1 0x1000 0 = x.1) ∧
    (let s := writes (onQ 2 0x3000 (begunQ (startedPkt 0 0 false 0))) [(0x2020, 0x4000), (0x2028, 8)]
     let m : Move := { die := 0, asid := 1, dst := 0x3000, src := 0x4000, len := 8, fill := none, sig := 0 }
     s.pktType 1 0x1000 0 = 2 ∧ s.queueMove (begunQ (startedPkt 0 0 false 0)) 0 = m ∧ s.copyHole? (m.asCopy 0) m.places = none ∧
     (match s.runMove m 7 none with | .over _ c => c == 0 | _ => false) = true) := by decide +kernel

def b7 (run : List Pkt) : BulkQ := { id := 7, die := 0, hdr := 0x1000, asid := 1, awake := true, doneIdx := 0, nextIdx := 0, running := run }
theorem witness_CommandAndBulkQueues_bulk :
    (let s : State := { ringAt 1 8 with bulks := [b7 []] }
     s.bulk? 7 = some (b7 []) ∧ (b7 []).awake = true ∧ ((b7 []).running.filter fun p => !p.done).length < 16 ∧ s.bulkReady (b7 []) = true) ∧
    (∀ ty ∈ [1, 3],
     let b := b7 [startedPkt 0 0 false 0]
     let s : State := writes { ringAt ty 8 with bulks := [b] } [(0x2008, 0x4000), (0x2010, 0x3000)]
     let m := s.bulkMove b 0
     s.bulk? 7 = some b ∧ (∃ p ∈ b.running, p.idx = 0 ∧ p.done = false ∧ p.held = none) ∧ s.bulkBad b 0 = (ty == 3) ∧
     (ty = 1 → s.copyHole? (m.asCopy 0) m.places = none ∧ (match s.runMove m 7 none with | .over _ c => c == 0 | _ => false) = true)) := by
  decide +kernel

/-- A page table of context 1 with one page of 2 MiB, in its own frames; the same with a poisoned line in the page. -/
def leafPT (frame : Nat) : Word := BitVec.ofNat 64 (0x203F + frame * 2 ^ 16)
def fxPT (poison : List Nat) : State :=
  let s := writes { fx with ctxs := fx.ctxs.map fun c => { c with ptBase := 0x100000 } }
    [(0x100000, 1 + 0x101 * 2 ^ 16), (0x101000, 1 + 0x102 * 2 ^ 16), (0x102000, 1 + 0x103 * 2 ^ 16), (0x103000, (leafPT 1024).toNat)]
  { s with mem := { s.mem with poison := poison } }
def theLeaf : Leaf := { node := 0, tab := 0x103000, level := 1, entry := leafPT 1024, base := 0, size := 2 ^ 21 }

/-- A REPLAY that waits for the operation it requeued. -/
def waitsFor5 : PageCmd := { asid := 1, upTo := 0, waits := [5], wts := [], addr := 2 ^ 52, words := [1], todo := none }
/-- No HBM stack is trained. -/
def untrained (s : State) : State := { s with dev := { s.dev with hbm := .replicate 8 false } }

theorem witness_PagesAndHost : 1 < 2 ^ 16 ∧ (0x1FFFFF : Word).toNat < 2 ^ 52 ∧ (fxPT []).leaf? 1 0x1FFFFF = .leaf theLeaf ∧
    (fxPT []).kiln.pages = [] ∧ (fxPT []).placeOf 0 0x1000 = .absent ∧ (fxPT []).ctx? 1 ≠ none ∧
    (fxPT []).moveBad theLeaf (leafPT 2048) = false ∧ (fxPT []).moveOpen theLeaf (leafPT 2048) = true ∧
    (untrained (fxPT [])).moveBad theLeaf (leafPT 2048) = false ∧ (untrained (fxPT [])).moveOpen theLeaf (leafPT 2048) = false ∧
    (fxPT []).frameExists (peNode theLeaf.entry) (peFrame theLeaf.entry * 2 ^ 12 + theLeaf.size - 64) = true ∧
    ((fxPT []).movePage 1 0 theLeaf (leafPT 2048)).2 = none ∧
    (let s := fxPT [1024 * 4096 / 64 + 1]
     s.leaf? 1 0 = .leaf theLeaf ∧ s.moveBad theLeaf (leafPT 2048) = false ∧ s.moveOpen theLeaf (leafPT 2048) = true ∧
     (s.movePage 1 0 theLeaf (leafPT 2048)).2 = some 64) ∧
    ((0xFFFFFFFFF : Word).toNat < 2 ^ 36 ∧ (3 : Word).toNat < 4) ∧
    (fld 0x3FFFFFFFFF 38 26 = 0 ∧ (0 : Word) = 0 ∧ fx.frameExists (fld 5 36 2) (fld 5 0 36 * 4096 + (2 : Word).toNat * 4096 - 64) = true) ∧
    (∀ a ∈ [fld 5 0 36 * 4096, fld 5 0 36 * 4096 + 2 * 4096 - 64],
      fx.stackTrained (fld 5 36 2) a = true ∧ (untrained fx).stackTrained (fld 5 36 2) a = false) ∧
    (fld 0x100 8 8 ≠ 0 ∧ fld 9 0 8 ≠ 8 ∧ fld 0x100000001 32 32 ≠ 0) := by decide +kernel

theorem witness_PagesAndHost_pending :
    (let s := onOp { fx with kiln := { fx.kiln with pages := [waitsFor5] } } (op5 (.load (.gU 3 8) 8 none) 0x1000)
     s.kiln.pages = [waitsFor5] ∧ s.pagePending waitsFor5 = true) ∧
    (let s : State := { fx with kiln := { fx.kiln with pages := [] } }
     s.kiln.pages = [] ∧ (0x1000 < 2 ^ 52 → s.placeOf 0 0x1000 ≠ .wait)) := by decide +kernel

/-- The page of context 1 at 80 GiB, in the second stack of die 0, which is not trained. -/
def upper (s : State) : State :=
  { s with mem := { s.mem with tlb := { die := 0, asid := 1, base := 80 * 2 ^ 30, size := 2 ^ 21, entry := leafPT (20 * 2 ^ 20) } :: s.mem.tlb }
           dev := { s.dev with hbm := s.dev.hbm.setIfInBounds 1 false } }
def waits (s : State) (ok : Word → Bool) (reads : Bool) : Bool := match s.wordMeet runQ (80 * 2 ^ 30) ok reads with
  | .wait => true
  | _ => false
theorem witness_CommandAndBulkQueues_waiting :
    (∀ q ∈ [runQ], (onQ 1 0x3000 q).launchOpen q.die = true ∧ ({ onQ 1 0x3000 q with launches := fullList } : State).launchOpen q.die = false ∧
      startable { onQ 1 0x3000 q with launches := fullList } 1 false = true) ∧
    (∀ ty ∈ [3, 4, 5, 6], let s := upper (onQ ty (80 * 2 ^ 30) runQ)
      startable s ty false = true ∧ waits s atomicOk true && waits s peRD true && waits s peWR false) := by decide +kernel

theorem witness_CommandAndBulkQueues_late :
    (let p := startedPkt 0 0 false 0
     let s := onQ 1 0x3000 (begunQ p)
     (begunQ p).started.find? (fun x => x.idx == 0) = some p ∧ p.done = false ∧ p.held = none ∧ p.cause = 0 ∧ p.ended = false ∧
     s.unlisted (begunQ p) p = true ∧ (s.launches.filter fun l => l.die == 0).length < 1024 ∧ (begunQ p).started.find? (s.unlisted (begunQ p)) = some p ∧
     (let t : State := { s with launches := fullList.map fun l => { l with src := .queue 7 0, origin := some (7, 0) } }
      t.unlisted (begunQ p) p = false)) ∧
    (∀ ty ∈ [3, 5, 6], let s := onQ ty 0x3000 (begunQ (startedPkt 0 0 false 0))
      s.pktType 1 0x1000 0 = ty ∧ meets s 0x3000 atomicOk true = some (homeOfLine 0x3000) ∧ meets s 0x3000 peWR false = some (homeOfLine 0x3000) ∧
      s.pktWord 1 0x1000 0 3 = 0x3000 ∧ s.frameExists 0 0x3000 = true) ∧
    (let b := b7 [startedPkt 0 0 true 3]
     let s : State := writes { ringAt 1 8 with bulks := [b] } [(0x2008, 0x4000), (0x2010, 0x3000)]
     let m := s.bulkMove b 0
     (b.running.find? fun p => p.idx == 0 && !p.done && p.held.isNone) = some (startedPkt 0 0 true 3) ∧
     s.copyHole? (m.asCopy 0) (if s.bulkBad b 0 then m.sigPlaces else m.places) = none ∧
     (s.copyHolds (m.asCopy 0) none m.sigPlaces).isNone = true ∧ s.copyHole? (m.asCopy 0) m.sigPlaces = none) := by decide +kernel

/-- The host port is up. -/
def fxHost : State := { fx with dev := { fx.dev with links := fx.dev.links.setIfInBounds 28 { st := .up, en := true, rate := 1, peer := 0, replays := 0 } } }
theorem witness_PagesAndHost_driver :
    (let s : State := { fx with ctxs := fx.ctxs.map fun c => { c with fbWrite := 2 } }
     (s.ctx? 1).map (fun c => (c.fbRead, c.fbWrite, c.fbHeld)) = some (0, 2, []) ∧ 0 < 2 ∧ 2 ≤ 2) ∧
    fx.frameExists 0 (152 * 2 ^ 30 - 2) = true ∧ fx.frameExists 0 (152 * 2 ^ 30 - 2 + ([1, 2].length - 1)) = true ∧ fx.frameExists 0 (152 * 2 ^ 30) = false ∧
    after (fun t => (List.range 3).map fun i => cellsRead t.mem.bytes (4 * 2 ^ 52 + 16 + i)) fx (.hostMemoryAccess 4 16 true [1, 2]) = some [1, 2, 0] ∧
    fxHost.hostUp = true ∧ fx.hostUp = false := by
  decide +kernel

/-- A Kiln core with values in registers 1 and 2. -/
def fxK (r1 r2 : Word) : State :=
  let s : State := { (mapped fx) with turn := 512 }
  s.setKiln { s.kilnCore with x := (s.kilnCore.x.setIfInBounds 1 r1).setIfInBounds 2 r2 }
/-- A ring of Kiln at 0x1000 of ASID 0 with the number n as log2 of its entries. -/
def fxRing (n : Nat) : State :=
  let s := writes (fxK 0x1000 0) [(0x1010, 0x2000), (0x1018, n), (0x2000, 1)]
  { s with mem := { s.mem with tlb := [{ die := 0, asid := 0, base := 0, size := 2 ^ 21, entry := leafME }] } }

theorem witness_Kiln :
    ((0x3F3F : Word) < 2 ^ 15 ∧ (0x3F3F : Word).getLsbD 7 = false ∧ (0x8000 : Word) ≥ 2 ^ 15 ∧ (0x80 : Word).getLsbD 7 = true) ∧
    ((fxK 0x1001 0).kilnReads 0x1000 = .absent ∧ (0x1001 : Word).toNat % 64 ≠ 0 ∧ (untrained (fxRing 4)).kilnReads 0x1000 = .wait) ∧
    (∀ n ∈ [3, 4, 16, 17],
     let s := fxRing n
     s.kilnReads 0x1000 = .home (homeOfLine 0x1000) ∧ s.homeRead 0 0x1018 8 % 32 = n ∧
     s.kilnReads (s.homeRead 0 0x1010 8) = .home (homeOfLine 0x2000)) ∧
    (let s := fxRing 4
     let t := writes s [(0x1010, 2 ^ 52)]
     t.kilnReads (t.homeRead 0 0x1010 8) = .absent ∧
     (let u := writes s [(0x1010, 80 * 2 ^ 30)]
      let v : State := { u with mem := { u.mem with tlb := { die := 0, asid := 0, base := 80 * 2 ^ 30, size := 2 ^ 21, entry := leafPT (20 * 2 ^ 20) } :: u.mem.tlb }
                                dev := { u.dev with hbm := u.dev.hbm.setIfInBounds 1 false } }
      v.kilnReads 0x1000 = .home (homeOfLine 0x1000) ∧ v.kilnReads (v.homeRead 0 0x1010 8) = .wait)) ∧
    ((0 : Word) = 0 ∧ (0x1000000000 : Word) ≥ 2 ^ 36 ∧ (0xFFFFFFFFF : Word) ≠ 0 ∧ (0xFFFFFFFFF : Word) < 2 ^ 36) ∧
    (let s : State := { onQ 1 0x1000 runQ with turn := 512 }
     s.queueInSlot? 0 (fld 31 0 5) = some runQ ∧ s.queueInSlot? 0 (fld 30 0 5) = none ∧ (s.launches.filter fun l => l.die == 0).length < 1024 ∧
     (∀ p ∈ runQ.started, p.idx ≠ 0) ∧ 1024 ≤ (fullList.filter fun l => l.die == 0).length) ∧
    (∃ p ∈ (begunQ (startedPkt 0 0 false 0)).started, p.idx = 0) := by decide +kernel

theorem witness_Kiln_events : (3 < 4 ∧ 35 < 36) ∧ (∀ i, i < 4 → (fx.kiln.cores[4 * 3 + i]?).map (·.stalled) = some none) ∧
    (let s := (fxK 0x800000000 0).setKiln { (fxK 0x800000000 0).kilnCore with stalled := some (32 * 1 + 3) }
     (s.kiln.cores[0]?).map (fun k => (k.stalled, k.rd 1 &&& (s.kiln.events[0]?.getD 0 ||| (1#64 <<< 35)))) = some (some (32 * 1 + 3), 0x800000000) ∧
     ∀ j, j < 4 → j ≠ 0 → (s.kiln.cores[j]?).map (·.stalled) = some none) := by decide

/-- A link in each state; the services. -/
def fxLink (st : LinkSt) (sv : Service) : State :=
  { fx with dev := { fx.dev with links := fx.dev.links.setIfInBounds 27 { st := st, en := true, rate := 0, peer := 0, replays := 0 }, service := sv } }
theorem witness_Device :
    (127 < 128 ∧ (∀ i ∈ fx.issues, i.core / 4 ≠ 127) ∧ 2400 ≤ 2400 ∧ (3 < 4 ∧ 32 ≤ 32) ∧ ∀ g ∈ fx.groups, g.core / 128 = 3 → g.st = .retired) ∧
    (∀ st ∈ [LinkSt.down, .training, .up, .failed], ∀ sv ∈ [Service.full, .reduced],
     ((fxLink st sv).dev.links[27]?).map (·.st) = some st ∧ (fxLink st sv).dev.service = sv) ∧
    (0 < 255 ∧ 255 < 256) ∧ (fx.kernel? 1).isSome = true ∧ ((List.replicate 1024 1023).length ≤ 1024 ∧ ∀ m ∈ List.replicate 1024 1023, m < 1024) := by
  decide +kernel

theorem witness_Device_events : State.reset.dev.window = true ∧ (0 < 4 * 2 ^ 52) ∧
    (let s : State := { fx with dev := { fx.dev with service := .imageGood } }
     s.dev.service = .imageGood) ∧
    (let s : State := { fx with dev := { fx.dev with service := .reduced } }
     s.dev.service = .reduced ∧ 7 < 8 ∧ ∀ l ∈ s.dev.links.toList, l.en = false) ∧
    (let s : State := { fx with dev := { fx.dev with ring := { fx.dev.ring with write := 1 } } }
     s.dev.ring.read < 1 ∧ 1 ≤ s.dev.ring.write) ∧
    ((65535 : Word) < 65536 ∧ (65536 : Word) ≥ 65536 ∧ (6 : Word) ≤ 16 ∧ (16 : Word) ≤ 16 ∧ (1023 : Word) < 1024) ∧
    (15 < 16 ∧ (fx.dev.links[15]?).isSome = true ∧ 7 < 8 ∧ fx.dev.windows[7]? = some (0, 0)) := by decide

/-- The host port and its modules, and the interrupt of the watchdog, not yet taken or pending already. -/
theorem witness_Device_host :
    (fx.dev.links[28]?).map (·.st) = some .down ∧ (fxHost.dev.links[28]?).map (·.st) = some .up ∧
    (let s : State := { fxHost with dev := { fxHost.dev with modules := .replicate _ false } }
     ∀ b ∈ (s.dev.modules.setIfInBounds 1 false).toList, b = false) ∧
    (fxHost.dev.modules.setIfInBounds 1 false).toList.all (· == false) = false ∧
    (∀ x ∈ fx.dev.irqs, x.1 ≠ 0) ∧
    (let s : State := { fx with dev := { fx.dev with irqs := [(3, false), (0, false)] } }
     ∃ x ∈ s.dev.irqs, x.1 = 0) := by decide +kernel

/-! ### Witnesses of further clauses, in the order of the statements -/

theorem witness_TransferWords_registers : ∃ t grp k h, fx.thread? 4 = some t ∧ fx.group? t.gid = some grp ∧ fx.kernel? grp.kid = some k ∧
    fx.cohort? t.cid = some h ∧ sends fx (.rdsr 0 0 3 11) = [.g 3 fxIss.tagsRd] := ⟨_, _, _, _, rfl, rfl, rfl, rfl, by decide +kernel⟩

/-- A recording kernel with its log at 64; a replaying one whose thread's hash is that of its entry. -/
def fxLog (m hash : Nat) : State :=
  { (mapped fx) with
    kernels := fx.kernels.map fun k => { k with lr := { k.lr with mode := m, logBase := 64 } }
    threads := fx.threads.map fun t => { t with hash := BitVec.ofNat 64 hash } }

theorem witness_SystemWords_exit :
    (∀ t ∈ (fxLog 2 7).threads, executes fxIss 0 t = true ∧ t.trapped = false ∧ ((fxLog 2 7).kernelOf? t.gid).map (fun k => k.lr.mode) = some 2) ∧
    (∀ t ∈ (fxLog 3 0).threads, executes fxIss 0 t = true ∧ ((fxLog 3 0).kernelOf? t.gid).map (fun k => (k.lr.mode,
      BitVec.ofNat 64 ((fxLog 3 0).homeRead k.asid ((fxLog 3 0).hashEntry k t.tid) 8))) = some (3, t.hash)) ∧
    (fxLog 2 7).cur? = some fxIss ∧ (fxLog 3 0).cur? = some fxIss ∧
    after (fun s => s.mem.rd 0 64 8) (fxLog 2 7) (.exit 0) = some 7 ∧
    after (fun s => s.threads.map (·.exiting)) (fxLog 3 0) (.exit 0) = some [true] := by decide +kernel

/-- Halfway between two neighbours the last bit is 0, downward and upward; half a place above the largest value gives an infinity (R29). -/
theorem witness_RoundingModes_ties : (Fmt.s.round .rne (.fin false (2 ^ 24 + 1) 0)).1 = 0x4B800000 ∧
    (Fmt.s.round .rne (.fin false (2 ^ 24 + 3) 0)).1 = 0x4B800002 ∧ (Fmt.h.round .rne (.fin true 65520 0)) = (0xFC00, 20) ∧
    (Fmt.h.round .rne (.fin false 65519 0)) = (0x7BFF, 16) := by decide +kernel

/-- 2^128 overflows in every mode; 1 does not; 2^-200 is tiny, and 1 is not. -/
theorem witness_RoundingModes_exceptions : ∀ x ∈ [Side.near, .trunc, .away],
    overflows .s x (2 ^ 128 : ℚ) ∧ ¬ overflows .s x 1 ∧ isTiny .s x (1 / 2 ^ 200 : ℚ) ∧ ¬ isTiny .s x 1 := by
  intro x _
  cases x <;> norm_num [overflows, isTiny, topOf, topUlp, minOf, minUlp, Fmt.bias, Fmt.s]

theorem witness_RoundingModes_flags : Fmt.s.round .rtz (.fin false 1 128) = (0x7F7FFFFF, 20) ∧ Fmt.s.round .rne (.fin false 1 0) = (0x3F800000, 0) ∧
    Fmt.s.round .rne (.fin false 1 (-200)) = (0, 24) ∧ Fmt.s.round .rne (.fin false (2 ^ 24 + 1) 0) = (0x4B800000, 16) := by decide +kernel

/-- Sums that are exactly zero: of a number and its opposite, of two zeros of one sign and of two signs; a product with a zero. -/
theorem witness_RoundedOnce_signs : Fmt.s.add .rdn (.fin false 0 0) (.fin false 0 0) = (0, 0) ∧ Fmt.s.add .rne (.fin true 0 0) (.fin true 0 0) = (0x80000000, 0) ∧
    Fmt.s.add .rne (.fin true 0 0) (.fin false 0 0) = (0, 0) ∧ Fmt.s.mul .rne (.fin true 0 0) (.fin false 1 0) = (0x80000000, 0) := by decide +kernel

/-- A state with latent errors at lines of memory. -/
def fxLatent (l : List Nat) (s : State) : State := { s with mem := { s.mem with latent := l } }

theorem witness_Loads_errors :
    (let o := op5 (.load (.gU 3 8) 8 none) 0x1008
     let s := onOp (fxLatent [lineKey 0 0x1000] (mapped fx)) o
     s.gate o = true ∧ homeIs s o (homeOfLine 0x1008) = true ∧ (s.thread? 4).isSome = true ∧
     ({ s with ops := s.ops.map fun y => { y with met := true } } : State).uncorrectable o (homeOfLine 0x1008) = true) ∧
    (let o := op5 (.load (.gU 3 8) 8 none) 0x1008
     let s := untrained (onOp (fxPT []) o)
     s.hole? o = none ∧ s.gate o = true ∧ (s.homeFor o false).2 = .error .wait) := by decide +kernel

/-- Two threads of one pass at one address: the second waits for an earlier store of its own, or for nothing. -/
theorem witness_StoreEvents_stpl : ∀ b ∈ [true, false],
    (let o := op5 (.stpl 2 3) 32
     let m : Op := { o with id := 7, tid := 9 }
     let p : Op := { op5 (.storeS 7 8) 32 with id := 4, tid := 9, grpSeq := 4 }
     let s : State := { fx with ops := (if b then [] else [p]) ++ [o, m], threads := fx.threads ++ fx.threads.map fun t => { t with tid := 9, lane := 1 } }
     s.op? 5 = some o ∧ s.stplMates o = [o, m] ∧ s.gate o = true ∧ s.gate m = b ∧ s.scratchHeld o = false ∧ (s.scratchTarget o).map (·.gid) = some 2 ∧
     ∀ j, j < 2 → s.liveOver 0 [2] (32 + 128 * j) 4 = false) := by decide +kernel

theorem witness_StoreEvents_faults :
    (∀ k ∈ [OpKind.store 7 8 none true, .storeS 7 8],
     let d : Due := { seq := 5, code := 3, addr := 0x1000, pc := 4, resume := none }
     let o : Op := { op5 k 0x1000 with st := .faulted d }
     (onOp fx o).op? 5 = some o ∧ ((onOp fx o).thread? 4).isSome = true) ∧
    (let o := op5 (.load (.gU 3 8) 8 none) 0x1000
     let s := onOp (fxPT []) o
     s.gate o = true ∧ s.hole? o = none ∧ (match (s.homeFor o true).2 with | .ok _ => true | _ => false) = true) ∧
    (let o := op5 (.load (.gU 3 8) 8 none) 0x200000
     let s := onOp (fxPT []) o
     s.gate o = true ∧ s.hole? o = none ∧ (s.homeFor o false).2 = .error (.absent 1 false)) := by decide +kernel

/-- The scale-up link of plane 3 is up. -/
def linked (s : State) : State :=
  { s with dev := { s.dev with links := s.dev.links.setIfInBounds 3 { st := .up, en := true, rate := 1, peer := 0, replays := 0 } } }

/-- A line of a peer package, and a write-through to a home. -/
def peerLine : Home := { node := 9, addr := 0x1000, entry := leafME, big := true, size := 2 ^ 21 }

def wt5 (die : Nat) (h : Home) : WriteThrough := { id := 5, die := die, asid := 1, line := 64, data := 7, mask := 1, kinds := 0, home := h }

def onWt (w : WriteThrough) (s : State) : State := { s with mem := { s.mem with wts := [w] } }

theorem witness_FencesAndCaches_fences :
    (let o := op5 (.fence 1 1 4) 0
     let s := onOp (onWt (wt5 0 peerLine) fxDirty) o
     s.op? 5 = some o ∧ s.gate o = true ∧ (∀ w ∈ (onOp fxDirty o).mem.wts, w.die = 0 → s.wtStuck w = false)) ∧
    (let o := op5 (.fence 1 1 5) 0
     let s := onOp (onWt (wt5 0 peerLine) fxDirty) o
     s.op? 5 = some o ∧ s.gate o = true ∧ s.wtStuck (wt5 0 peerLine) = true ∧ (wt5 0 peerLine) ∈ s.mem.wts) := by decide +kernel

/-- Write-backs of a core of die 1 to a line of die 0: with and without a copy there, and behind an earlier one. -/
def wb5 : WriteBack := { id := 5, core := 128, asid := 1, line := 64, data := 7, mask := 1, kinds := 0, home := homeOfLine 0x1000, cls := 0 }

def copy0 : DieCopy :=
  { die := 1, asid := 1, line := 64, data := 9, valid := 2, mdata := 0, home := homeOfLine 0x1000, filled := 3, cls := 0, used := 0 }

theorem witness_FencesAndCaches_writebacks : copyable (dieOf wb5.core) wb5.home = true ∧ wb5.mask ≠ 0 ∧
    (∀ cs ∈ [[], [copy0]],
     let s : State := { fx with mem := { fx.mem with wbs := [wb5], copies := cs } }
     s.mem.wbs.find? (fun x => x.id == 5) = some wb5 ∧ s.wbWaits wb5 = false ∧ s.copyOf? 1 1 64 = cs.head? ∧
     ({ s with mem := { s.mem with wbs := [{ wb5 with id := 4 }, wb5] } } : State).wbWaits wb5 = true) := by decide +kernel

theorem witness_FencesAndCaches_writethroughs :
    (let s := onWt (wt5 1 (homeOfLine 0x1000)) fx
     s.mem.wts.find? (fun x => x.id == 5) = some (wt5 1 (homeOfLine 0x1000)) ∧ s.wtWaits (wt5 1 (homeOfLine 0x1000)) = false ∧
     s.wtStuck (wt5 1 (homeOfLine 0x1000)) = false ∧ (untrained s).wtStuck (wt5 1 (homeOfLine 0x1000)) = true) ∧
    (let s := onWt (wt5 0 peerLine) (linked fx)
     s.wtWaits (wt5 0 peerLine) = false ∧ s.wtStuck (wt5 0 peerLine) = false ∧ s.planes = [3]) := by decide +kernel

theorem witness_AtomicsPerformed_events :
    (let o := op5 (.atomic .add 8 1 0 3 0) 0x1000
     let s := onOp { (mapped fx) with kernels := fx.kernels.map fun k => { k with drain := [(5, 3)] } } o
     s.buffered o = false ∧ s.turnWaits o = false ∧ s.hole? o = none ∧ s.flushOf o = some 3 ∧ (onOp fx o).flushOf o = none) ∧
    (let o : Op := { op5 (.atomic .add 8 1 0 3 0) 0x1000 with st := .performed 7 }
     let r : PeerReq := { id := 5, pkg := 0, plane := some 3, line := 64, seq := 2 }
     let s : State := onOp { fx with mem := { fx.mem with unacked := [r], peerLog := [{ pkg := 0, seq := 2, old := 7 }] } } o
     s.op? 5 = some o ∧ s.mem.unacked.find? (fun x => x.id == o.id) = some r ∧ s.planes = [] ∧ (linked s).planes ≠ [] ∧
     ((linked s).mem.peerLog.find? fun y => y.pkg == r.pkg && y.seq == r.seq).map (·.old) = some 7) := by decide +kernel

/-- An atomic at a line that the core's L1 holds dirty, and at one for which a write-through of its die is on its way. -/
theorem witness_AtomicsPerformed_home :
    (let o := op5 (.atomic .swap 8 1 0 3 0) 0x1000
     let s := onOp fxDirty o
     s.op? o.id = some o ∧ (∀ w ∈ s.mem.wbs, w.core ≠ o.core) ∧ (s.coreAt 0).l1.filter (fun l => l.asid == 1 && l.line == 64) = [dirtyLine] ∧
     dirtyLine.dirty ≠ 0 ∧ copyable 0 dirtyLine.home = false ∧ s.mem.wts = []) ∧
    (let o := op5 (.atomic .swap 8 1 0 3 0) 0x1000
     let s := onOp (onWt (wt5 0 (homeOfLine 0x1000)) fx) o
     (s.coreAt 0).l1 = [] ∧ s.mem.wts.filter (fun w => w.die == 0 && w.asid == 1 && w.line == 64) = [wt5 0 (homeOfLine 0x1000)] ∧
     s.wtStuck (wt5 0 (homeOfLine 0x1000)) = false) := by decide +kernel

/-- A reference store of the address of a header of scope 0 into a line of scope 1, and into one of scope 0. -/
def fxHdr (sc : Nat) : State :=
  let s := mapped fx
  { s with mem := (s.mem.setMeta 0 0x1000 (BitVec.ofNat 32 (sc * 2 ^ 22))).setMeta 0 0x2000 2 }

theorem witness_Objects_references : ∀ sc ∈ [0, 1],
    (let o := op5 (.stref 0x2000) 0x1000
     let s := onOp (fxHdr sc) o
     s.op? 5 = some o ∧ s.hole? o = none ∧ s.gate o = true ∧ homeIs s o (homeOfLine 0x1000) = true ∧ s.headerWaits o = false ∧ clearAt s o = true ∧
     o.lost = 0 ∧ effScope (s.mem.metaAt 0 0x1000) = sc ∧ mKind (s.mem.metaAt 0 0x2000) 0 = 2 ∧ effScope (s.mem.metaAt 0 0x2000) = 0 ∧
     (match s.homeAt 0 1 0x2000 with | .ok h => h == homeOfLine 0x2000 | _ => false) = true ∧ s.frameExists 0 0x2000 = true) := by decide +kernel

theorem witness_Objects_walks :
    (let o := op5 (.pub 4 3) 0x1000
     let s := onOp (onWt (wt5 0 (homeOfLine 0x1000)) fx) o
     s.gate o = true ∧ s.walks = [] ∧ s.walkTurn o = false ∧ s.drainStuck 0 1 5 = false ∧ (untrained s).drainStuck 0 1 5 = true) ∧
    (let s := onWt (wt5 0 (homeOfLine 0x1000)) (fxWalk [])
     let t : State := { s with walks := s.walks.map fun w => { w with lines := [64] } }
     ∃ x ∈ t.mem.wts, (∀ w ∈ t.walks, x.die = w.core / 128 ∧ x.asid = w.asid ∧ w.lines.contains x.line = true) ∧ t.wtStuck x = false ∧
       (untrained t).wtStuck x = true) := by decide +kernel

theorem witness_Objects_colour_refusals :
    ((onOp fx (op5 (.colr 63 0) 0x1000)).gate (op5 (.colr 63 0) 0x1000) = true ∧ (onOp fx (op5 (.colr 63 64) (2 ^ 52))).gate (op5 (.colr 63 64) (2 ^ 52)) = true) ∧
    (let o := op5 (.colr 63 64) 0x1000
     let s := onOp (mappedAs 0x2007 fx) o
     s.gate o = true ∧ homeIs s o { homeOfLine 0x1000 with entry := 0x2007 } = true ∧ peME 0x2007 = false) ∧
    (∀ n ∈ [0, 9],
     let o := op5 (.colr 63 64) 0x1000
     let s0 := mapped fx
     let s : State := onOp { s0 with mem := { s0.mem.setMeta n 0x1000 (setColour 0 5) with
        own := [{ die := 0, asid := 1, line := 64, home := { homeOfLine 0x1000 with node := n }, cls := 0, used := 0 }] } } o
     s.gate o = true ∧ homeIs s o { homeOfLine 0x1000 with node := n } = true ∧ mColour (s.mem.metaAt n 0x1000) = 5 ∧ s.stackTrained n 0x1000 = true) := by
  decide +kernel

/-- Two threads that hold one colour each; CWAIT gives up both. -/
def fxHolds2 : State :=
  { fxHolds with
    threads := fxHolds.threads ++ fxHolds.threads.map fun t => { t with tid := 9, lane := 1, held := [{ colour := 62, depth := 1, st := .granted }], g := regs [(1, 62)] }
    issues := [{ fxIss with tids := [4, 9] }] }

theorem witness_MonitorWords_two : (fxHolds2.threads.map Thread.tid).Nodup ∧ fxHolds2.cur?.map (·.tids) = some [4, 9] ∧
    after (fun s => s.threads.map (·.parks)) fxHolds2 (.cwait 0 0 1) = some [[.cwait 63 5], [.cwait 62 6]] ∧
    after (fun s => s.rels.map fun r => (r.tid, r.colour, r.depth, r.wait)) fxHolds2 (.cwait 0 0 1) = some [(4, 63, 2, true), (9, 62, 1, true)] := by
  decide +kernel

theorem witness_MonitorEvents_release :
    (let r : Rel := { id := 5, tid := 4, gid := 2, asid := 1, core := 0, colour := 9, depth := 0, seq := 9, wait := true }
     let s : State := { fx with rels := [r], monitors := [{ asid := 1, colour := 9, owner := some (4, 0), entry := [], waiters := [] }] }
     s.rels.find? (fun y => y.id == 5) = some r ∧ s.ops = [] ∧ s.msgs = [] ∧ s.replies = [] ∧ (s.monitorAt 1 9).owner.map (·.1) = some 4 ∧
     s.drainStuck 0 1 4 = false) ∧
    (fxReply true .runnable).replies.map (·.grant) = [true] ∧ (fxReply false .exited).threads.map (·.st) = [.exited] := by decide +kernel

/-- A thread without an open group; with one that has no command left, faulted or not; tags that are ready. -/
def fxGrp (fault : Option Word) (closed : Option (Option Nat)) : State :=
  { (withT fun t => { t with matGrp := if closed.isSome then none else some 5 }) with mgroups := [{ mgrp5 with fault := fault, closed := closed }], fresh := 7 }

theorem witness_EngineWordsQueue_commits : ((fxGrp (some 1) none).thread? 4).map (·.matGrp) = some (some 5) ∧
    ((fxGrp none none).mgroups.find? fun y => y.id == 5).map (fun m => (m.gid, m.done, m.fault)) = some (2, false, none) ∧
    ((fxGrp (some 1) none).mgroups.find? fun y => y.id == 5).map (fun m => (m.gid, m.done, m.fault)) = some (2, false, some 1) ∧
    (fxGrp none none).cmds = [] ∧ fxT.matGrp = none := by decide

theorem witness_EngineWordsQueue_waits : (fx.tagView 2).getLsbD 0 = false ∧ (fxTags.tagView 2).getLsbD 0 = true ∧ fxTags.mgroups = [] ∧
    (let s : State := { fxGrp (some 1) (some (some 0)) with cores := fxTags.cores }
     (s.tagView 2).getLsbD 0 = true ∧
     (s.mgroups.find? fun m => m.tid == 4 && m.closed == some (some 0) && m.fault.isSome && !m.reported).isSome = true) := by decide

/-- The word of fxLive with a second thread, number 9, parked on it, in a context with a handler. -/
def fxWaiter : State :=
  { fxLive 2 with
    ctxs := fxHandler.ctxs
    threads := fx.threads ++ fx.threads.map fun t => { t with tid := 9, lane := 1, st := .parked, parks := [.barrier 2 16 0 8 16 3] } }

theorem witness_Barriers_clears :
    (let o := op5 .binval 16
     let s := onOp fxWaiter o
     s.op? 5 = some o ∧ s.gate o = true ∧ s.scratchHeld o = false ∧ (s.barrierWord? o).map (fun x => (x.grp.gid, x.off, x.byte)) = some (2, 16, barW) ∧
     s.bankTurn o = false ∧ s.isLive barW = true ∧ s.ops = [o] ∧ (s.threads.map Thread.tid).Nodup ∧ (∀ x ∈ s.threads, .fault 5 ∉ x.parks) ∧
     (∀ x ∈ s.threads, x.tid ≠ 4 → x.st = .parked ∧ x.trapped = false ∧ x.due = [] ∧ s.handlerOf x.gid ≠ 0 ∧ x.parks = [.barrier 2 16 0 8 16 3]) ∧
     after (fun t => t.threads.map fun x => (x.st, x.pc, x.trap.code.toNat % 256)) s (.barrierBankOp 5) = some [(.frontier, 0, 0), (.runnable, 120, 0x0D)]) := by decide +kernel

theorem witness_Barriers_arrived :
    -- an ARRIVEW of another thread that has arrived
    (let o := op5 .binval 16
     let p : Op := { op5 (.bwait 0) 16 with id := 4, tid := 9, st := .performed 0 }
     let s : State := { (fxLive 2) with ops := [p, o], threads := fx.threads ++ fx.threads.map fun t => { t with tid := 9, lane := 1 } }
     s.gate o = true ∧ s.bankTurn o = false ∧ p.waiting = false ∧ (s.barrierWord? p).map BarAt.byte = some barW ∧ (s.ops.map Op.id).Nodup ∧
     (∀ t ∈ s.threads, t.parks = [] ∧ t.st ≠ .parked)) ∧
    -- BWAIT of a thread that has exited
    (let o := op5 (.bwait 0) 16
     let s := onOp { fxLive 2 with threads := fx.threads.map fun t => { t with st := .exited } } o
     s.gate o = true ∧ s.bankTurn o = false ∧ (s.thread? 4).map (·.st) = some .exited ∧ s.poolWord barW / 2 ^ 48 % 2 ^ 16 = 0) := by decide +kernel

/-- A pod job of the kernel with the packages 0 and 7, of which 7 has reported or not. -/
def fxJob (rs : List Nat) : State :=
  linked { fx with dev := { fx.dev with jobs := [{ job := 1, kid := 1, members := [0, 7], reports := rs }] } }

theorem witness_Barriers_scopes : (∀ k ∈ [2, 3, 4, 5],
    let o := op5 (.nbar k) 0
    let s := onOp (fxJob [7]) o
    s.op? 5 = some o ∧ s.thread? 4 = some fxT ∧ s.leaverPending fxT k = false ∧ (s.participants fxT k).map (fun u => s.arrival? k u.tid) = [some o] ∧
    (s.kernelOf? 2).map (fun x => (x.kid, x.st, x.lr.mode)) = some (1, .running, 0)) ∧
    (∀ j ∈ (fxJob [7]).dev.jobs, ∀ m ∈ j.members, m = (fxJob [7]).dev.pkgid ∨ m ∈ j.reports) ∧ (fxJob [7]).planes ≠ [] ∧
    (∃ j ∈ (fxJob []).dev.jobs, ∃ m ∈ j.members, ¬ (m = (fxJob []).dev.pkgid ∨ m ∈ j.reports)) ∧ fx.planes = [] ∧
    (let s : State := { fx with threads := fx.threads ++ fx.threads.map fun t => { t with tid := 9, lane := 1 } }
     ∃ u ∈ (onOp s (op5 (.nbar 1) 0)).participants fxT 1, (onOp s (op5 (.nbar 1) 0)).arrival? 1 u.tid = none) := by decide +kernel

theorem witness_ClauseStartsAndEnds_threads : (fx.threads.map Thread.tid).Nodup := by decide

/-- A launch packet's record behind that of a packet that started earlier on another die; one that a page fault holds. -/
def pktReq (die i : Nat) : LaunchReq := { req none (.queue 7 i) 0x1000 with die := die }

theorem witness_KernelsAndGroups_order :
    (let s : State := { fxRec with launches := [pktReq 1 0, pktReq 0 1] }
     s.launches.find? (fun x => x.die == 0) = some (pktReq 0 1) ∧ s.launches = [] ++ pktReq 1 0 :: [pktReq 0 1] ∧ pktReq 1 0 ≠ pktReq 0 1 ∧
     after (fun t => t == s) s (.kernelRecordAccept 0) = some true) ∧
    ({ pktReq 0 1 with held := some 2 } : LaunchReq).held ≠ none ∧
    (onOp fxRec (op5 (.launch 3 none) 0x1000)).drainStuck 0 1 4 = false := by decide +kernel

/-- A draining kernel with its completion word's page fault outstanding, with a write-through that waits, with a page without a leaf; a handler's group. -/
theorem witness_KernelsAndGroups_holds :
    (let s := kernelSt .draining (.launch (some 0x1000))
     (s.kernel? 1).map (·.st) = some .draining ∧ (∀ k ∈ s.kernels, k.held = none) ∧ s.mem.wts = [] ∧ s.translate 0 1 0x1000 false = .none 4 false ∧
     (∃ w ∈ (untrained (onWt (wt5 0 (homeOfLine 0x1000)) s)).mem.wts, w.asid = 1 ∧ (untrained s).wtStuck w = true) ∧
     ({ newKernel 1 1 0 placedLaunch (.launch none) none .placing with held := some 3 } : Kernel).held ≠ none) ∧
    (let s := (kernelSt .placing (.handler 7 4)).modGroup 2 fun g => { g with st := .placed }
     (s.group? 2).map (·.st) = some .placed ∧ s.runningAsid? 0 = some 1 ∧ (∀ m n, (Source.handler 7 4) = .handler m n → 4 ≤ n)) := by
  refine ⟨by decide +kernel, by decide +kernel, by decide +kernel, ?_⟩
  intro m n h
  cases h
  decide

theorem witness_TasksAndMessages_pops :
    (let o := op5 (.tqpop 3 0) 0
     let s := onOp (fx.modCore 0 fun c => c.setTasks 1 [7, 8]) o
     s.op? 5 = some o ∧ o.st = .queued ∧ s.popTurn o = false ∧ s.serves 0 1 = true ∧ s.kidOf o = 1 ∧ (s.coreAt 0).tasks 1 = [7, 8]) ∧
    (let o := op5 (.amsend 3 (1 + 9 * 2 ^ 9)) 0
     let s := onOp fxTable o
     s.op? 5 = some o ∧ s.gate o = true ∧ s.amTurn o = false ∧ s.payloadAway o = false ∧ s.dev.pkgid ≠ fld (1 + 9 * 2 ^ 9) 9 10 ∧ s.scaleUp = false) ∧
    (let o := op5 (.amsend 3 1) 0
     (onOp fxTable o).drainStuck 0 1 (amScope (onOp fxTable o) 0 (Target.ofWord 1)) = false) := by decide +kernel

def refusesWith (s : State) (a : Nat) (ok : Word → Bool) (reads : Bool) : Option Nat := match s.wordMeet runQ a ok reads with
  | .bad c => some c
  | _ => none

theorem witness_CommandAndBulkQueues_errors :
    (∀ ty ∈ [3, 4], startable (fxLatent [lineKey 0 0x3000] (onQ ty 0x3000 runQ)) ty false = true) ∧
    refusesWith (fxLatent [lineKey 0 0x3000] (onQ 3 0x3000 runQ)) 0x3000 atomicOk true = some 5 ∧
    refusesWith (fxLatent [lineKey 0 0x3000] (onQ 4 0x3000 runQ)) 0x3000 peRD true = some 5 ∧
    (refusesWith (onQ 3 (2 ^ 52) runQ) (2 ^ 52) atomicOk true).map (decide <| · = 5) = some false := by decide +kernel

/-- Two launch packets that wait for room, of which index 0 started first. -/
theorem witness_CommandAndBulkQueues_order :
    (let p := startedPkt 0 0 false 0
     let y := startedPkt 1 3 false 0
     let s := writes (onQ 1 0x3000 (q7 .running (some 31) [p, y])) [(0x2040, 0x101)]
     s.queues.map (fun q => (s.unlisted q p, s.unlisted q y)) = [(true, true)] ∧ p.since < y.since ∧
     (s.launches.filter fun l => l.die == 0).length < 1024 ∧ s.launchOpen 0 = false) ∧
    (let s : State := { onQ 1 0x3000 (begunQ (startedPkt 0 0 false 0)) with launches := fullList }
     1024 ≤ (s.launches.filter fun l => l.die == 0).length) := by decide +kernel

theorem witness_CommandAndBulkQueues_sleep :
    (let s : State := { writes (ringAt 1 8) [(0x2000, 0)] with bulks := [b7 []] }
     s.bulk? 7 = some (b7 []) ∧ s.bulkReady (b7 []) = false) := by decide +kernel

/-- The side table of die 0 at 2 GiB. -/
def fxSide : State := { fx with mem := fx.mem.placeSide 0 (2 ^ 31) }

theorem witness_PagesAndHost_side : fx.mem.sideAt 0 = none ∧ fxSide.mem.sideAt 0 = some (2 ^ 31) ∧ fxSide.stackTrained 0 (2 ^ 31) = true ∧
    (untrained fxSide).stackTrained 0 (2 ^ 31) = false ∧ (2 ^ 31 : Word).toNat % 64 = 0 ∧ fx.frameExists 0 ((2 ^ 31 : Word).toNat + (64 * 81920 - 64)) = true ∧
    fx.frameExists 3 ((2 ^ 38 : Word).toNat + (64 * 81920 - 64)) = false ∧
    after (fun t => t.mem.sideAt 3) fx (.registerWrite 51 (2 ^ 31)) = some (some (2 ^ 31)) ∧
    after (fun t => t == fx) fx (.registerWrite 51 (2 ^ 38)) = some true := by decide +kernel

theorem witness_PagesAndHost_host : fxHost.stackTrained 0 16 = true ∧ fxHost.stackTrained 0 17 = true ∧ (untrained fxHost).stackTrained 0 16 = false ∧
    fx.hostUp = false ∧ after (fun t => t.mem.late) (untrained fxHost) (.hostMemoryAccess 0 16 true [1, 2]) = some [.host 0 16 [1, 2]] := by decide +kernel

theorem witness_Kiln_errors :
    (let s := fxLatent [lineKey 0 0x1000] (fxRing 4)
     s.kilnReads 0x1000 = .home (homeOfLine 0x1000) ∧ s.unreadable (homeOfLine 0x1000) = true ∧ (fxRing 4).unreadable (homeOfLine 0x1000) = false) ∧
    (let s := fxLatent [lineKey 0 0x2000] (fxRing 4)
     s.unreadable (homeOfLine 0x1000) = false ∧ s.kilnReads (s.homeRead 0 0x1010 8) = .home (homeOfLine 0x2000) ∧
     s.unreadable (homeOfLine 0x2000) = true) := by decide +kernel

/-- An MMQ between two rows of its array, and with one in progress; a link that leaves up with a request on its plane; a host port that is down already. -/
theorem witness_Device_rows : (∀ c ∈ [cmd6 (.mmq 0 1 0 0 0 2 1) [], cmd6 (.mzero 0 0 1) []], c.inRow = false) ∧
    (let r : PeerReq := { id := 5, pkg := 0, plane := some 3, line := 64, seq := 2 }
     let s : State := linked { fx with mem := { fx.mem with unacked := [r] } }
     (s.dev.links[3]?).map (·.st) = some .up ∧ s.mem.unacked ≠ []) ∧
    (fx.dev.links[28]?).map (·.st) = some .down := by decide +kernel

/-- A decoder's run on a tile of codewords whose shape table, at scratch offset 0, holds an error in its entries 4 j to 4 j + 3. -/
def tile5 : Desc := { reserved := false, fmt := 5, planes := 0, rows := 0, cols := 0, data := 2 ^ 19, scale := 2 ^ 20, book := 0 }

def fxShape (j : Nat) : State := { fx with pool := { fx.pool with bad := [(2 * 2 ^ 14 + 8 * j) / 8] } }

theorem regionRead_cmds (s : State) (cs : List Cmd) (core : Nat) (gs : List Nat) : ∀ n o, ({ s with cmds := cs } : State).regionRead core gs o n = s.regionRead core gs o n
  | 0, _ => rfl
  | n + 1, o => by simp only [State.regionRead, regionRead_cmds s cs core gs n]

theorem witness_EngineEvents_decoder_reads (s : State) (e : Desc) : ∃ c : Cmd, let u : State := { s with cmds := [c] }
    u.cmds = [c] ∧ c.started = true ∧ c.kind = .mldb 0 0 ∧ c.snap = (u.decoderReads 2 e).1 ++ (u.decoderReads 2 e).2.1 ++ (u.decoderReads 2 e).2.2 :=
  let c := cmd6 (.mldb 0 0) ((s.decoderReads 2 e).1 ++ (s.decoderReads 2 e).2.1 ++ (s.decoderReads 2 e).2.2)
  have h : ∀ g o n, ({ s with cmds := [c] } : State).scratchOf g o n = s.scratchOf g o n := by
    intro g o n
    unfold State.scratchOf
    cases h : s.group? g <;> simp only [show ({ s with cmds := [c] } : State).group? g = s.group? g from rfl, h, regionRead_cmds]
  have h2 : ({ s with cmds := [c] } : State).decoderReads 2 e = s.decoderReads 2 e := by simp only [State.decoderReads, h]
  ⟨c, rfl, rfl, rfl, by rw [h2]; rfl⟩

theorem witness_EngineEvents_decoder_error : (fxShape 0).scratchBad 2 (recOffset tile5.book + 2 * 0) 2 = true ∧
    (fxShape 1).scratchBad 2 (recOffset tile5.book + 2 * 3) 2 = false ∧ (fxShape 1).scratchBad 2 (recOffset tile5.book + 2 * 4) 2 = true ∧
    ∃ row ∈ ((fxShape 0).decoderReads 2 tile5).1, ∃ n, n < 512 ∧ row / 65536 ^ n % 65536 / 256 = 0 := by
  refine ⟨by decide +kernel, by decide +kernel, by decide +kernel, _, List.mem_map.mpr ⟨0, by decide, rfl⟩, 0, by decide, by decide +kernel⟩

/-! ### Witnesses of the clauses about errors, requests to peers and held commands -/

/-- The table of the leaf has an uncorrectable error: of a load, of COLR and of the firmware's commands; a page without a leaf; a table that is not in service. -/
theorem witness_tables_unreadable :
    (∀ o ∈ [op5 (.load (.gU 3 8) 8 none) 0x1008, op5 (.colr 63 64) 0x1000],
     let s := onOp (fxLatent [lineKey 0 0x103000] (fxPT [])) o
     s.op? 5 = some o ∧ s.gate o = true ∧ s.hole? o = none ∧ (s.homeFor o false).2 = .error (.bad 0 0x103000)) ∧
    (fxLatent [lineKey 0 0x103000] (fxPT [])).leaf? 1 0 = .bad 0 0x103000 ∧ (fxPT []).leaf? 1 0x200000 = .none ∧
    (untrained (fxPT [])).leaf? 1 0 = .wait ∧ (2 ^ 52 : Word).toNat = 2 ^ 52 := by decide +kernel

/-- A load, and a message, that a peer has served, with the request still to be acknowledged; with a plane up and with none. -/
theorem witness_requests_acknowledged : ∀ k ∈ [OpKind.load (.gU 3 8) 8 none, .amsend 3 1],
    let o : Op := { op5 k 0x1008 with st := .performed 7 }
    let s : State := onOp { fx with mem := { fx.mem with unacked := [{ id := 5, pkg := 0, plane := some 3, line := 64, seq := 2 }] } } o
    s.op? 5 = some o ∧ s.hole? o = none ∧ (∃ r ∈ s.mem.unacked, r.id = o.id) ∧ s.planes = [] ∧ (linked s).planes ≠ [] ∧
    ∀ r ∈ (onOp fx o).mem.unacked, r.id ≠ o.id := by decide +kernel

/-- A write-through to a peer with its request; a write-back to a peer, which makes one. -/
theorem witness_requests_writethroughs :
    (let r : PeerReq := { id := 5, pkg := 0, plane := some 3, line := 64, seq := 2 }
     let s0 := linked (onWt (wt5 0 peerLine) fx)
     let s : State := { s0 with mem := { s0.mem with unacked := [r] } }
     s.mem.wts.find? (fun x => x.id == 5) = some (wt5 0 peerLine) ∧ s.wtWaits (wt5 0 peerLine) = false ∧ s.wtStuck (wt5 0 peerLine) = false ∧
     s.mem.unacked.find? (fun r => r.id == 5) = some r ∧ s0.mem.unacked.find? (fun r => r.id == 5) = none ∧
     after (fun t => (t.mem.unacked.length, t.mem.peerLog.map (·.old), t.mem.rd 9 0x1000 1)) s (.writeThroughArrival 5) = some (0, [0], 7)) ∧
    (let w : WriteBack := { wb5 with core := 0, home := peerLine }
     let s : State := { fx with mem := { fx.mem with wbs := [w] } }
     copyable (dieOf w.core) w.home = true ∧ s.wbWaits w = false ∧ 8 ≤ w.home.node ∧
     after (fun t => t.mem.unacked.map fun r => (r.pkg, r.plane, r.seq)) (linked s) (.writebackArrival 5) = some [(0, some 3, 0)] ∧
     after (fun t => t.mem.unacked.map (·.plane)) s (.writebackArrival 5) = some [none]) := by decide +kernel

/-- An L1 with a dirty line of a peer, which its write-back cannot bring there: a fence at pod scope, a walk and a kernel's end wait. -/
def fxOwes : State := fx.modCore 0 fun k => { k with l1 := [{ dirtyLine with home := peerLine }] }

theorem witness_releases_held :
    (let o := op5 (.fence 1 1 5) 0
     let s := onOp fxOwes o
     s.op? 5 = some o ∧ s.gate o = true ∧ s.mem.wts = [] ∧ (∃ w ∈ (s.cleanL1 0 (·.asid == 1)).mem.wts, w.die = 0 ∧ w.asid = 1 ∧ s.wtStuck w = true ∧ 8 ≤ w.home.node) ∧
     (∀ w ∈ ((linked s).cleanL1 0 (·.asid == 1)).mem.wts, (linked s).wtStuck w = false) ∧ after (fun t => (t.op? 5).isSome) s (.fenceReleaseHeld 5) = some true ∧
     after (fun t => (t.op? 5).isSome) (linked s) (.fenceReleaseHeld 5) = some false) ∧
    (let o := op5 (.pub 4 3) 0x1000
     (onOp fxOwes o).releaseStuck 0 1 5 = true ∧ (onOp (linked fxOwes) o).releaseStuck 0 1 5 = false) ∧
    (let s : State := { fxOwes with kernels := (kernelSt .draining (.launch none)).kernels.map fun k => { k with ranOn := [0] } }
     (s.kernel? 1).map (fun k => (k.st, k.held, k.ranOn)) = some (.draining, none, [0]) ∧
     after (fun t => t == s) s (.kernelRetire 1) = some true ∧ after (fun t => t == linked s) (linked s) (.kernelRetire 1) = some false) := by decide +kernel

/-- The log's header cannot be read; in replay mode, the entry behind it cannot. -/
theorem witness_SystemWords_exit_unreadable :
    (∀ m ∈ [2, 3], ∀ a ∈ [64, 128],
     let s := fxLatent [lineKey 0 a] (writes (fxLog m 0) [(72, 64)])
     s.cur? = some fxIss ∧ ∀ t ∈ s.threads, executes fxIss 0 t = true ∧ t.trapped = false ∧
       ((s.kernelOf? t.gid).map fun k => s.hashBad k t.tid) = some (if a = 64 then some 64 else if m = 3 then some 128 else none)) ∧
    after (fun t => t.threads.map fun x => x.due.map fun d => (d.code.toNat % 256, d.addr)) (fxLatent [lineKey 0 64] (fxLog 2 7)) (.exit 0) =
      some [[(0x14, 64)]] := by decide +kernel

/-- STREF of the address of a header whose line has an error, and of one whose table has. -/
theorem witness_Objects_references_unreadable :
    (let o := op5 (.stref 0x2000) 0x1000
     let s := onOp (fxLatent [lineKey 0 0x2000] (fxHdr 1)) o
     s.op? 5 = some o ∧ s.gate o = true ∧ homeIs s o (homeOfLine 0x1000) = true ∧ s.headerWaits o = false ∧ clearAt s o = true ∧
     s.unreadable (homeOfLine 0x2000) = true ∧ s.unreadable (homeOfLine 0x1000) = false ∧ effScope (s.mem.metaAt 0 0x1000) = 1) ∧
    (let o := op5 (.stref 0x200000) 0x1000
     let s0 := fxPT []
     let s : State := onOp (fxLatent [lineKey 0 0x103000] { s0 with mem := { (fxHdr 1).mem with bytes := s0.mem.bytes } }) o
     s.gate o = true ∧ s.headerWaits o = false ∧ clearAt s o = true ∧ (match s.homeAt 0 1 0x200000 with | .error (.bad n a) => (n, a) | _ => (9, 0)) = (0, 0x103008)) ∧
    (let o := op5 (.colr 63 64) 0x1000
     let s := onOp (fxLatent [lineKey 0 0x1000] (mapped fx)) o
     s.gate o = true ∧ homeIs s o (homeOfLine 0x1000) = true ∧ (s.homeFor o false).1.unreadable (homeOfLine 0x1000) = true) := by decide +kernel

/-- A message to a peer that a plane reaches. -/
theorem witness_TasksAndMessages_peer :
    (let o := op5 (.amsend 3 (1 + 9 * 2 ^ 9)) 0
     let s := linked (onOp fxTable o)
     s.op? 5 = some o ∧ s.gate o = true ∧ s.amTurn o = false ∧ s.payloadAway o = false ∧ s.dev.pkgid ≠ fld (1 + 9 * 2 ^ 9) 9 10 ∧ s.scaleUp = true ∧
     s.releaseStuck 0 1 (amScope s 0 (Target.ofWord (1 + 9 * 2 ^ 9))) = false ∧
     after (fun t => t.mem.unacked.map fun r => (r.id, r.pkg, r.plane, r.line, r.seq)) s (.amArrival 5) = some [(5, 9, some 3, 0, 0)]) := by decide +kernel

/-- A signal of a command queue, at its start and later, and of a bulk queue, behind a write-through whose way is closed. -/
theorem witness_CommandAndBulkQueues_signals :
    (let s := onWt (wt5 0 peerLine) (onQ 3 0x3000 runQ)
     startable s 3 false = true ∧ meets s 0x3000 atomicOk true = some (homeOfLine 0x3000) ∧ s.drainStuck 0 1 5 = true ∧ (linked s).drainStuck 0 1 5 = false ∧
     after (fun t => t.mem.rd 0 0x3000 8) s (.queueSignal 7 0) = some 0) ∧
    (let s := onWt (wt5 0 peerLine) (onQ 3 0x3000 (begunQ (startedPkt 0 0 false 0)))
     s.pktType 1 0x1000 0 = 3 ∧ s.drainStuck 0 1 5 = true ∧ after (fun t => t == s) s (.queuePacketComplete 7 0) = some true) ∧
    (let b := b7 [startedPkt 0 0 true 0]
     let s : State := onWt (wt5 0 peerLine) (writes { ringAt 1 8 with bulks := [b] } [(0x2008, 0x4000), (0x2010, 0x3000), (0x2020, 0x5000)])
     let m := s.bulkMove b 0
     (s.copyHolds (m.asCopy 0) none m.sigPlaces).isNone = true ∧ m.sigPlaces ≠ [] ∧ s.sigCause m none = 0 ∧ s.drainStuck b.die b.asid 5 = true) := by decide +kernel

/-- KDISP for a packet that has started and is the first that waits, for one that others precede, and for one that has still to start. -/
theorem witness_Kiln_dispatch :
    (let s : State := { onQ 1 0x1000 (begunQ (startedPkt 0 0 false 0)) with turn := 512 }
     s.firstUnlisted = some (begunQ (startedPkt 0 0 false 0), startedPkt 0 0 false 0) ∧ s.queueInSlot? 0 (fld 31 0 5) = some (begunQ (startedPkt 0 0 false 0))) ∧
    (let q := q7 .running (some 31) [startedPkt 0 0 false 0, startedPkt 1 3 false 0]
     let s : State := { writes (onQ 1 0x1000 q) [(0x2040, 0x101)] with turn := 512 }
     q.started.find? (fun y => y.idx == 1) = some (startedPkt 1 3 false 0) ∧ s.firstUnlisted = some (q, startedPkt 0 0 false 0)) ∧
    (let s : State := { onQ 1 0x1000 runQ with turn := 512 }
     s.firstUnlisted = none ∧ startable s 1 false = true ∧ startable { onQ 2 0x1000 runQ with turn := 512 } 1 false = false ∧
     after (fun t => (t.launches.length, t.kilnCore.rd 3)) (s.setKiln { s.kilnCore with x := (s.kilnCore.x.setIfInBounds 1 0x1000).setIfInBounds 2 31 })
       (.kdisp 2 1 3) = some (1, 0)) := by decide +kernel

/-- MOVE, DGET and SCRUB of frames that are not in service keep their places in the ring; an INVAL waits for a write-through of its range. -/
theorem witness_PagesAndHost_held :
    after (fun t => t.kiln.pages.map (·.todo.isSome)) (untrained (fxPT [])) (.move (cmdWord 3 1) 0 (leafPT 2048) (2 ^ 52)) = some [true] ∧
    after (fun t => t.kiln.pages.map (·.todo.isSome)) (untrained fxSide) (.dget (cmdWord 7 1) 0 0 (2 ^ 52)) = some [true] ∧
    after (fun t => t.kiln.pages.map (·.todo.isSome)) (untrained fx) (.scrub (cmdWord 8 0) 0 1 (2 ^ 52)) = some [true] ∧
    after (fun t => t.kiln.pages.map (·.wts)) (onWt (wt5 0 peerLine) fx) (.inval (cmdWord 1 1) 0 0 (2 ^ 52)) = some [[5]] ∧
    after (fun t => t.kiln.pages.map (·.wts)) (onWt (wt5 0 peerLine) fx) (.inval (cmdWord 1 2) 0 0 (2 ^ 52)) = some [] := by decide +kernel

/-- Links of a plane and of none that leave up, or come up, with requests that wait. -/
theorem witness_Device_requests :
    let r (p : Option Nat) : PeerReq := { id := 5, pkg := 0, plane := p, line := 64, seq := 2 }
    let on (p : Option Nat) (s : State) : State := { s with mem := { s.mem with unacked := [r p] } }
    let plane (t : State) : List (Option Nat) := t.mem.unacked.map (·.plane)
    let training : State := { fx with dev := { fx.dev with links := fx.dev.links.setIfInBounds 3 { st := .training, en := true, rate := 0, peer := 0, replays := 0 } } }
    after plane (on (some 3) (linked fx)) (.linkLockLoss 3) = some [none] ∧ after plane (on none training) (.linkTrained 3 1) = some [some 3] ∧
    after plane (on (some 7) training) (.linkTrained 3 1) = some [some 7] := by decide +kernel

/-! ### Kiln's base instructions -/

/-- RV64IMAC as the base standard has it: ADDI x1, x0, 5; SUB x3, x1, x2; MULHU x3, x1, x2; C.ADDI x1, 1; JAL x1, 8. -/
theorem test_kiln_base :
    let run (w : Nat) (f : KilnCore → KilnCore) : Option (List Word × Word × Word) :=
      let s := State.reset.placeKiln (BitVec.ofNat 32 w)
      let s1 : State := { s with agenda := [], turn := 512 }
      match (s1.setKiln (f s1.kilnCore)).kilnWord fun x => x.run (s1.setKiln (f s1.kilnCore)) with
      | .next t => some ([t.kilnCore.rd 1, t.kilnCore.rd 3], t.kilnCore.pc, t.kilnCore.mcause)
      | _ => none
    let regs (a b : Word) (k : KilnCore) : KilnCore := { k with x := (k.x.setIfInBounds 1 a).setIfInBounds 2 b }
    run 0x00500093 id = some ([5, 0], 4, 0) ∧
    run 0x402081B3 (regs 5 7) = some ([5, 0xFFFFFFFFFFFFFFFE], 4, 0) ∧
    run 0x0220B1B3 (regs 0xFFFFFFFFFFFFFFFF 2) = some ([0xFFFFFFFFFFFFFFFF, 1], 4, 0) ∧
    run 0x00000085 (regs 5 7) = some ([6, 0], 2, 0) ∧
    run 0x008000EF id = some ([4, 0], 8, 0) := by decide +kernel

/-! ### Witnesses: the whole machine -/

theorem witness_StepRunsDecoded :
    fx.agenda = [.core 0] ∧ fx.inService = true ∧ fx.cur? = some fxIss ∧ decode (fxIss.wordAt fxIss.pos) = .ok (.nop 0 0) ∧ fxIss.grp = fxIss.pos ∧
    (fx.cohort? 3).isSome = true ∧ ((fx.kernelOf? 2).map fun k => badPlace k.lr fxIss) = some none ∧
    (let s : State := { fx with issues := [{ fxIss with grp := 0 }] }
     s.cur? = some { fxIss with grp := 0 } ∧ ({ fxIss with grp := 0 } : Issue).grp ≠ fxIss.pos) ∧
    (groupFrom fxIss.words 3 fxIss.pos).length < 2 ∧
    (let r := (fxHeader.schedule 0).pick 0
     fxHeader.cur? = none ∧ (r.2.map fun p => match p.head with | .hdr _ h => (p.asid, h.len) | _ => (9, 9)) = some (1, 0) ∧
     ∀ n ∈ [1, 3], r.1.fetchHole? 0 1 ((r.1.frontier 3).getD 0).toNat n = none) ∧
    encodeNat .powerGood = none ∧ deviceEvent .powerGood = true ∧ State.reset.inService = false ∧ deviceEvent (.bulkPacketStart 7) = false ∧
    (let s : State := { fx with agenda := [] }
     s.agenda = [] ∧ s.turn < 512 ∧ s.inService = true ∧ s.cur? ≠ none) := by decide +kernel

/-- Words at the program counter of a Kiln core: one of the extension, one that the extension leaves reserved, and ADDI x1, x0, 5. -/
theorem witness_StepRunsDecoded_kiln : ∀ x ∈ [(0x0000000B, true), (0xFE00700B, false), (0x00500093, false)],
    let s := State.reset.placeKiln (BitVec.ofNat 32 x.1)
    let u : State := { s with agenda := [], turn := 512 }
    s.agenda = [.core 512] ∧ s.dev.service ≠ .maskRom ∧ s.dev.service ≠ .badImage ∧ u.kilnCore.stalled = none ∧
    (decodeKiln x.1).isSome = x.2 ∧
    (match u.kilnWord fun r => .next (u.setKiln { r.k with pc := word r.w, mtval := word r.len, mepc := word r.raw }) with
     | .next t => some (t.kilnCore.pc, t.kilnCore.mtval, t.kilnCore.mepc)
     | _ => none) = some (word x.1, 4, word x.1) := by decide +kernel
theorem witness_StepRunsDecoded_go : ∀ go : RvWord → Out,
    let u : State := { State.reset.placeKiln 0x00500093 with agenda := [], turn := 512 }
    u.kilnWord go = go { k := u.kilnCore, w := 0x00500093, len := 4, raw := 0x00500093 } := fun _ => rfl

theorem witness_EncodeDecode : (Instr.addW 1 15 62 63 0).wf = true ∧ (encode (.addW 1 15 62 63 0)).isSome = true ∧
    (Instr.clauseStart 0xFFF 11 15 1 7).wf = true ∧ (encode (.clauseStart 0xFFF 11 15 1 7)).isSome = true := by decide
theorem witness_WordsHaveOneMeaning : decode 0x76020A32 = .ok (.amsend 0 0 4 5 6) := by decide

theorem witness_RegisterWordsFrame : registerWord (.rdclk 0 0 3) ∧ ∃ t, exec (.rdclk 0 0 3) fx = .next t := by
  constructor
  · refine ⟨0, 0, 3, 0, 0, ?_⟩
    iterate 17 apply Or.inr
    exact List.mem_cons_of_mem _ (List.mem_cons_of_mem _ List.mem_cons_self)
  · exact ⟨_, rfl⟩

theorem witness_DeviceBoundsKept : deviceBounds fx ∧ ∃ t, step fx = .next t := by
  refine ⟨⟨by decide, ?_, ?_, ?_, ?_⟩, ⟨_, rfl⟩⟩
  · exact all_entries (P := fun n => n ≤ 32) fx.dev.rdcGib (by decide)
  · exact all_entries (P := fun l => (l.st ≠ .up → l.rate = 0) ∧ (l.st ≠ .down → l.en = true)) fx.dev.links (by decide)
  · exact all_entries (P := fun c => c.pStep ≤ 2 ∧ c.tStep ≤ 2 ∧ (c.mhz = 350 ∨ c.mhz = 525 ∨ c.mhz = 700)) fx.dev.clamps (by decide +kernel)
  · exact all_entries (P := fun k => k.x[0] = 0) fx.kiln.cores (by decide)

theorem witness_StoresStayCanonical : storesCanonical (fxLive 1) ∧ ∃ t, step (fxLive 1) = .next t := by
  refine ⟨?_, ⟨_, rfl⟩⟩
  unfold storesCanonical canonical
  decide

end Sys2Proof.Tests
end

section
/-!
SUPPORT. The integer rows of the matrix engine (R42 to R44): what an element of a packed row reads, and that the column sums taken block by
block are the exact sum over the 1024 rows of the tile.
-/

namespace Sys2Proof.Machine

/-- The two spellings of `sext` of R24, the model's and the manual's, agree where the width is not zero. -/
theorem sextInt_eq_sx {n : Nat} (hn : 0 < n) (x : Nat) : sextInt x n = Claim.sx n x := by
  obtain ⟨k, rfl⟩ : ∃ k, n = k + 1 := ⟨n - 1, by omega⟩
  have hsplit : x / 2 ^ k % 2 = x % 2 ^ (k + 1) / 2 ^ k := by rw [pow_succ, Nat.mod_mul_right_div_self]
  have hlt : x % 2 ^ (k + 1) < 2 ^ (k + 1) := Nat.mod_lt _ (by positivity)
  have htop : Claim.sx (k + 1) x = ((x % 2 ^ (k + 1) : Nat) : Int) - 2 ^ (k + 1) * ((x / 2 ^ k % 2 : Nat) : Int) := by
    simp [Claim.sx]
  rw [htop, hsplit]
  by_cases hm : x % 2 ^ (k + 1) < 2 ^ k
  · simp [sextInt, hm, Nat.div_eq_of_lt hm]
  · have hone : x % 2 ^ (k + 1) / 2 ^ k = 1 := by
      rw [pow_succ] at hlt
      exact Nat.div_eq_of_lt_le (by omega) (by omega)
    simp [sextInt, hm, hone]

/-- Entry n of a numbered list stands beside its number. -/
theorem withIdx_getElem? {α : Type} (xs : List α) (a n : Nat) : (withIdx a xs)[n]? = xs[n]?.map fun x => (a + n, x) := by
  induction xs generalizing a n with
  | nil => rfl
  | cons x xs ih =>
    cases n with
    | zero => rfl
    | succ n => simp [withIdx, ih, Nat.add_right_comm, Nat.add_assoc]

/-! ### Packed rows -/

theorem packRow_cons (e : Nat) (es : List Nat) : packRow (e :: es) = e + 2 ^ 32 * packRow es := rfl

theorem elemAt_zero_of_lt {e : Nat} (he : e < 2 ^ 32) (r : Nat) : elemAt (e + 2 ^ 32 * r) 0 = e := by
  rw [elemAt, Nat.mul_zero, pow_zero, Nat.div_one, Nat.add_mul_mod_self_left, Nat.mod_eq_of_lt he]

theorem elemAt_succ_of_lt {e : Nat} (he : e < 2 ^ 32) (r n : Nat) : elemAt (e + 2 ^ 32 * r) (n + 1) = elemAt r n := by
  have hdiv : (e + 2 ^ 32 * r) / 2 ^ 32 = r := by omega
  rw [elemAt, elemAt, Nat.mul_succ, Nat.add_comm _ 32, pow_add, ← Nat.div_div_eq_div_mul, hdiv]

/-- A packed row of 4-byte elements gives each of them back (R42). -/
theorem elemAt_packRow (es : List Nat) (h : ∀ e ∈ es, e < 2 ^ 32) (n : Nat) : elemAt (packRow es) n = es[n]?.getD 0 := by
  induction es generalizing n with
  | nil => simp [packRow, elemAt]
  | cons e es ih =>
    obtain ⟨he, hes⟩ := List.forall_mem_cons.1 h
    rw [packRow_cons]
    cases n with
    | zero => exact elemAt_zero_of_lt he _
    | succ n => exact (elemAt_succ_of_lt he _ n).trans (ih hes n)

/-! ### Sums by column -/

/-- A fold that adds one list after another, entry by entry, adds up each column on its own. -/
theorem foldl_zipWith_add_getElem? {ι : Type} (f : ι → Int → Int) (r : ι → List Int) (ks : List ι) (acc : List Int) (n : Nat)
    (hr : ∀ k ∈ ks, n < (r k).length) (hacc : n < acc.length) :
    (ks.foldl (fun a k => List.zipWith (fun s w => s + f k w) a (r k)) acc)[n]? =
      some (acc[n]?.getD 0 + (ks.map fun k => f k ((r k)[n]?.getD 0)).sum) := by
  induction ks generalizing acc with
  | nil => simp [hacc]
  | cons k ks ih =>
    obtain ⟨hk, hks⟩ := List.forall_mem_cons.1 hr
    rw [List.foldl_cons, ih _ hks (by simp [hk, hacc])]
    simp [hk, hacc, add_assoc]

/-- The same from a list of zeros: what stands in a column is the column's sum. -/
theorem foldl_zipWith_add_zeros {ι : Type} (f : ι → Int → Int) (r : ι → List Int) (ks : List ι) {m n : Nat} (hr : ∀ k ∈ ks, n < (r k).length)
    (hn : n < m) :
    (ks.foldl (fun a k => List.zipWith (fun s w => s + f k w) a (r k)) (List.replicate m 0))[n]? =
      some (ks.map fun k => f k ((r k)[n]?.getD 0)).sum := by
  rw [foldl_zipWith_add_getElem? f r ks _ n hr (by simpa using hn)]
  simp [hn]

/-- A sum over `b * m` numbers, taken in `b` blocks of `m`. -/
theorem sum_range_blocks (f : Nat → Int) (m b : Nat) :
    ((List.range b).map fun j => ((List.range m).map fun i => f (m * j + i)).sum).sum = ((List.range (m * b)).map f).sum := by
  induction b with
  | zero => simp
  | succ b ih => simp [List.range_succ (n := b), Nat.mul_succ, List.range_add, ih, Function.comp_def]

theorem rowWeights_length (fmt k row book : Nat) : (rowWeights fmt k row book).length = 512 := by
  unfold rowWeights
  split <;> rw [List.length_map, List.length_range]

theorem WSlot.rowAt_length (x : WSlot) (k : Nat) : (x.rowAt k).length = 512 := rowWeights_length ..

/-- R44's sum of column n: the exact sum of the 1024 products. -/
def columnSum (x : WSlot) (row planes pa n : Nat) : Int :=
  ((List.range 1024).map fun k => aInt row planes pa k * (x.rowAt k)[n]?.getD 0).sum

theorem blockSums_getElem? (x : WSlot) (row planes pa b : Nat) {n : Nat} (hn : n < 512) :
    (blockSums x row planes pa b)[n]? =
      some ((List.range 32).map fun i => aInt row planes pa (32 * b + i) * (x.rowAt (32 * b + i))[n]?.getD 0).sum :=
  foldl_zipWith_add_zeros (fun i w => aInt row planes pa (32 * b + i) * w) (fun i => x.rowAt (32 * b + i)) (List.range 32)
    (fun i _ => (x.rowAt_length (32 * b + i)).symm ▸ hn) hn

/-- The block sums of the 32 blocks, added up by column, are the exact sums of the columns. -/
theorem foldl_blockSums_getElem? (x : WSlot) (row planes pa : Nat) {n : Nat} (hn : n < 512) :
    (((List.range 32).map (blockSums x row planes pa)).foldl (fun a b => List.zipWith (· + ·) a b) (List.replicate 512 0))[n]? =
      some (columnSum x row planes pa n) := by
  have hlen (b : Nat) : n < (blockSums x row planes pa b).length := by
    obtain ⟨h, -⟩ := List.getElem?_eq_some_iff.1 (blockSums_getElem? x row planes pa b hn)
    exact h
  rw [List.foldl_map, foldl_zipWith_add_zeros (fun _ w => w) (blockSums x row planes pa) (List.range 32) (fun b _ => hlen b) hn,
    columnSum, ← sum_range_blocks _ 32 32]
  simp only [blockSums_getElem? x row planes pa _ hn, Option.getD_some]

/-- The new value of an integer accumulator: the old one and its column's sum, added and saturated once (R44). -/
theorem elemAt_mmqInt32 (x : WSlot) (acc row planes pa : Nat) {n : Nat} (hn : n < 512) :
    elemAt (mmqInt32 x acc row planes pa) n =
      (max (-2 ^ 31) (min (2 ^ 31 - 1) (sextInt (elemAt acc n) 32 + columnSum x row planes pa n)) % 2 ^ 32).toNat := by
  rw [mmqInt32, elemAt_packRow]
  · simp only [List.getElem?_map, withIdx_getElem?, foldl_blockSums_getElem? x row planes pa hn, Option.map_some, Option.getD_some, Nat.zero_add]
  · intro e he
    obtain ⟨t, -, rfl⟩ := List.mem_map.1 he
    dsimp only
    omega

/-- Settles O22: an element of the packed row is its accumulator's new value, whose block sums add up to the column's exact sum. -/
theorem integerRowUpdate : Obligations.IntegerRowUpdate := by
  intro w acc row planes pa n hn
  rw [elemAt_mmqInt32 w acc row planes pa hn, sextInt_eq_sx (by decide)]
  rfl

end Sys2Proof.Machine
end

section
/-!
SUPPORT. Integer values (R23, R24, R110): the manual's integers beside the machine's bit vectors, and what the immediate words (R112) and the
divide words (R126) compute.
-/

namespace Sys2Proof.Machine

/-! ### Integers modulo 2^n -/

/-- `sext` of R24 is the signed value of the low `n` bits. -/
theorem sx_eq_toInt {n : Nat} (hn : 0 < n) (x : Int) : Claim.sx n x = (BitVec.ofInt n x).toInt := by
  obtain ⟨k, rfl⟩ : ∃ k, n = k + 1 := ⟨n - 1, by omega⟩
  have hsplit : x % (2 ^ k * 2) = x % 2 ^ k + 2 ^ k * (x / 2 ^ k % 2) := by
    simp only [Int.emod_def, ← Int.ediv_ediv_of_nonneg (show (0 : Int) ≤ 2 ^ k by positivity)]
    ring
  have hlow : 0 ≤ x % 2 ^ k ∧ x % 2 ^ k < 2 ^ k := ⟨Int.emod_nonneg _ (by positivity), Int.emod_lt_of_pos _ (by positivity)⟩
  simp only [Claim.sx, BitVec.toInt_ofInt, Int.bmod_def, pow_succ, Nat.cast_mul, Nat.cast_pow, Nat.cast_ofNat, Nat.add_sub_cancel, hsplit]
  obtain hbit | hbit := Int.emod_two_eq_zero_or_one (x / 2 ^ k)
  · rw [hbit, if_pos (by omega)]
    ring
  · rw [hbit, if_neg (by omega)]
    ring

/-- The low n bits of a register as a signed number. -/
theorem sn_eq_toInt {n : Nat} (hn : 0 < n) (x : Word) : Claim.sn n x = (x.setWidth n).toInt := by
  rw [Claim.sn, sx_eq_toInt hn, BitVec.ofInt_natCast, BitVec.ofNat_toNat]

/-- The low n bits of a register as an unsigned number. -/
theorem un_eq_toNat (n : Nat) (x : Word) : Claim.un n x = (x.setWidth n).toNat := by
  simp [Claim.un, Claim.ux]

/-- A number extended from n bits into a register (R110) is the extension of its low n bits. -/
theorem word_sx {n : Nat} (hn : 0 < n) (x : Int) : Claim.word (Claim.sx n x) = (BitVec.ofInt n x).signExtend 64 := by
  rw [sx_eq_toInt hn]
  rfl

theorem sx_toNat {n : Nat} (hn : 0 < n) (x : BitVec n) : Claim.sx n x.toNat = x.toInt := by
  rw [sx_eq_toInt hn, BitVec.ofInt_natCast, BitVec.ofNat_toNat, BitVec.setWidth_eq]

/-! ### The immediate words -/

/-- A fixed-latency word that faults no thread lands its results and does nothing else (R66, R80). -/
theorem fixedWord_lands {s : State} {iss : Issue} (h : s.cur? = some iss) (g : BitVec 4) (lat : Nat) (srcs : List Reg)
    (res : Issue → Thread → List Eff) :
    fixedWord g lat srcs (fun i t => .ok (res i t)) s = .next (Claim.lands s iss g lat srcs (res iss)) :=
  fixedWord_next g lat srcs _ s iss h

/-- A word of one source lands the value that its function gives. -/
theorem unWord_lands {s : State} {iss : Issue} (h : s.cur? = some iss) (g : BitVec 4) (d a : BitVec 6) {f : Word → Word} {v : Word → Int}
    (hv : ∀ x, f x = Claim.word (v x)) :
    unWord g d a f s = .next (Claim.lands s iss g 2 [.g a.toNat] fun t => [.g d.toNat (Claim.word (v (srcG iss t .sign a)))]) := by
  simp only [unWord, hv]
  exact fixedWord_lands h g 2 [.g a.toNat] fun i t => [.g d.toNat (Claim.word (v (srcG i t .sign a)))]

theorem addiW_value (i : BitVec 9) (x : Word) :
    sx32 (lo32 x + i.signExtend 32) = Claim.word (Claim.sx 32 (Claim.un 32 x + Claim.sx 9 i.toNat)) := by
  rw [word_sx (by decide), un_eq_toNat, sx_toNat (by decide), BitVec.ofInt_add, BitVec.ofInt_natCast, BitVec.ofNat_toNat, BitVec.setWidth_eq]
  rfl

theorem addiD_value (i : BitVec 9) (x : Word) : x + i.signExtend 64 = Claim.word (x.toNat + Claim.sx 9 i.toNat) := by
  rw [sx_toNat (by decide), Claim.word, BitVec.ofInt_add, BitVec.ofInt_natCast, BitVec.ofNat_toNat, BitVec.setWidth_eq]
  rfl

theorem movi_value (j : BitVec 15) : j.signExtend 64 = Claim.word (Claim.sx 15 j.toNat) := by
  rw [sx_toNat (by decide)]
  rfl

theorem sx_toNat_range {n : Nat} (hn : 0 < n) (x : BitVec n) : -2 ^ (n - 1) ≤ Claim.sx n x.toNat ∧ Claim.sx n x.toNat ≤ 2 ^ (n - 1) - 1 := by
  rw [sx_toNat hn]
  exact ⟨x.le_toInt, Int.le_sub_one_of_lt x.toInt_lt⟩

/-- Settles O2: each word lands the sum, or the immediate itself, as an integer modulo 2^64, and an immediate of n bits is a signed n-bit number. -/
theorem immediateWords : Obligations.ImmediateWords := by
  intro c g d a i j s iss h
  refine ⟨unWord_lands h g d a (addiW_value i), unWord_lands h g d a (addiD_value i), ?_, sx_toNat_range (by decide) i, sx_toNat_range (by decide) j⟩
  rw [← movi_value]
  exact fixedWord_lands h g 2 [] fun _ _ => [.g d.toNat (j.signExtend 64)]

/-! ### The divide words -/

section
variable {n : Nat} (x y : Word)

theorem ofInt_un : BitVec.ofInt n (Claim.un n x) = x.setWidth n := by
  rw [un_eq_toNat, BitVec.ofInt_natCast, BitVec.ofNat_toNat, BitVec.setWidth_eq]

theorem un_eq_zero : Claim.un n y = 0 ↔ y.setWidth n = 0 := by
  rw [un_eq_toNat, Int.natCast_eq_zero, BitVec.toNat_eq, BitVec.ofNat_eq_ofNat, BitVec.toNat_zero]

theorem ofInt_sn (hn : 0 < n) : BitVec.ofInt n (Claim.sn n x) = x.setWidth n := by
  rw [sn_eq_toInt hn, BitVec.ofInt_toInt]

theorem sn_eq_zero (hn : 0 < n) : Claim.sn n y = 0 ↔ y.setWidth n = 0 := by
  rw [sn_eq_toInt hn, ← BitVec.toInt_inj]
  simp

theorem ofInt_neg_one : BitVec.ofInt n (-1) = BitVec.allOnes n := by
  rw [BitVec.ofInt_neg, ← BitVec.neg_one_eq_allOnes]
  rfl

/-- R126's signed quotient, with -1 for a zero divisor. -/
theorem divS_setWidth (hn : 0 < n) :
    divS (x.setWidth n) (y.setWidth n) = BitVec.ofInt n (if Claim.sn n y = 0 then -1 else (Claim.sn n x).tdiv (Claim.sn n y)) := by
  simp only [divS, ← sn_eq_zero y hn, apply_ite (BitVec.ofInt n), ofInt_neg_one, sn_eq_toInt hn]

/-- R126's unsigned quotient, with 2^n - 1 for a zero divisor. -/
theorem divU_setWidth :
    divU (x.setWidth n) (y.setWidth n) = BitVec.ofInt n (if Claim.un n y = 0 then -1 else Claim.un n x / Claim.un n y) := by
  simp only [divU, ← un_eq_zero y, apply_ite (BitVec.ofInt n), ofInt_neg_one, un_eq_toNat, ← Int.natCast_ediv, BitVec.ofInt_natCast]

/-- R126's signed remainder, with the dividend for a zero divisor. -/
theorem remS_setWidth (hn : 0 < n) :
    remS (x.setWidth n) (y.setWidth n) = BitVec.ofInt n (if Claim.sn n y = 0 then Claim.sn n x else (Claim.sn n x).tmod (Claim.sn n y)) := by
  simp only [remS, ← sn_eq_zero y hn, apply_ite (BitVec.ofInt n), ofInt_sn x hn]
  simp only [sn_eq_toInt hn]

/-- R126's unsigned remainder, with the dividend for a zero divisor. -/
theorem remU_setWidth :
    remU (x.setWidth n) (y.setWidth n) = BitVec.ofInt n (if Claim.un n y = 0 then Claim.un n x else Claim.un n x % Claim.un n y) := by
  simp only [remU, ← un_eq_zero y, apply_ite (BitVec.ofInt n), ofInt_un]
  simp only [un_eq_toNat, ← Int.natCast_emod, BitVec.ofInt_natCast]

end

/-- The operations that a divide word with the value `v` puts under way. -/
def startDivides (s : State) (g : BitVec 4) (d a b : BitVec 6) (w : Widen) (v : Word → Word → Int) : State :=
  s.startOps g true false [.g a.toNat, .g b.toNat] fun iss t =>
    .ok (.plain 0 (.divide [.g d.toNat (Claim.word (v (srcG iss t w a) (srcG iss t w b)))]))

/-- A divide at both widths: where `f` gives the low n bits of the integer `v n`, the .W word writes `v 32` extended from 32 bits (R110) and the .D word
`v 64`. -/
theorem divWord_starts (g : BitVec 4) (d a b : BitVec 6) (w : Widen) {f : {n : Nat} → BitVec n → BitVec n → BitVec n} {v : Nat → Word → Word → Int}
    (hv : ∀ {n : Nat}, 0 < n → ∀ x y : Word, f (x.setWidth n) (y.setWidth n) = BitVec.ofInt n (v n x y)) (s : State) :
    divWord g d a b w (onW f) s = .next (startDivides s g d a b w fun x y => Claim.sx 32 (v 32 x y)) ∧
    divWord g d a b w f s = .next (startDivides s g d a b w (v 64)) := by
  have hW (x y : Word) : onW f x y = Claim.word (Claim.sx 32 (v 32 x y)) := by
    rw [word_sx (by decide), ← hv (by decide)]
    rfl
  have hD (x y : Word) : f x y = Claim.word (v 64 x y) := by
    rw [Claim.word, ← hv (by decide), BitVec.setWidth_eq, BitVec.setWidth_eq]
  constructor
  · simp only [divWord, hW]
    rfl
  · simp only [divWord, hD]
    rfl

theorem exec_divideComplete {id : Nat} {s : State} {o : Op} {es : List Eff} (ho : s.op? id = some o) (hk : o.kind = .divide es) :
    exec (.divideComplete id) s = .next (s.finishOp o 0 es) := by
  change execDivideComplete id s = _
  simp only [execDivideComplete, ho, hk]

/-- Settles O3: each row's function on bit vectors gives the low bits of the row's integer, at 32 and at 64 bits alike. -/
theorem divideWords : Obligations.DivideWords := by
  refine ⟨fun r hr c g d a b s => ?_, fun id s o es => exec_divideComplete⟩
  simp only [Claim.divRows, List.mem_cons, List.not_mem_nil, or_false] at hr
  obtain rfl | rfl | rfl | rfl := hr
  · exact divWord_starts g d a b .sign (f := divS) (fun hn x y => divS_setWidth x y hn) s
  · exact divWord_starts g d a b .zero (f := divU) (fun _ x y => divU_setWidth x y) s
  · exact divWord_starts g d a b .sign (f := remS) (fun hn x y => remS_setWidth x y hn) s
  · exact divWord_starts g d a b .zero (f := remU) (fun _ x y => remU_setWidth x y) s

end Sys2Proof.Machine
end

section
/-!
SUPPORT. The delivery of SIGN (R195, R262): it waits for the earlier scratch stores of its thread, but not for the entries of the atomic buffer (R388).
-/

namespace Sys2Proof.Machine

/-- What counts as a scratch store for SIGN (R195): the stores of R164, STPL and MWR (R262) and BINIT (R330). -/
def OpKind.IsScratchStore (k : OpKind) : Prop :=
  (∃ v z, k = .storeS v z) ∨ (∃ m v, k = .stpl m v) ∨ (∃ v, k = .mwr v) ∨ ∃ e, k = .binit e

section
variable {s : State} {id n : Nat} {o p : Op}

theorem exec_signApply (ho : s.op? id = some o) (hk : o.kind = .sign n) :
    exec (.signApply id) s = .next (if s.cvWaits o || !s.gate o then s
      else (s.modCv o.gid n fun r => { r with s := min (r.s + 1) 65535 }).dropOp o.id) := by
  change execSignApply id s = _
  simp only [execSignApply, ho, hk]
  split <;> rfl

/-- A SIGN that may be delivered is no longer under way afterwards. -/
theorem exec_signApply_of_gate (ho : s.op? id = some o) (hk : o.kind = .sign n) (hc : s.cvWaits o = false) (hg : s.gate o = true) :
    ∃ t, exec (.signApply id) s = .next t ∧ t.op? o.id = none := by
  refine ⟨_, exec_signApply ho hk, ?_⟩
  simp [hc, hg, State.dropOp, State.op?]

theorem exec_signApply_of_not_gate (ho : s.op? id = some o) (hk : o.kind = .sign n) (hg : s.gate o = false) :
    exec (.signApply id) s = .next s := by
  simp [exec_signApply ho hk, hg]

theorem blocks_sign (hk : o.kind = .sign n) (hw : p.waiting = true) (hp : p.kind.IsScratchStore) : blocks p o = true := by
  obtain ⟨v, z, h⟩ | ⟨m, v, h⟩ | ⟨v, h⟩ | ⟨e, h⟩ := hp <;> simp [blocks, hk, hw, h, OpKind.isBinit]

/-- An earlier operation of the thread that blocks an operation closes its gate, unless the operation passes it by as an entry of the
atomic buffer (R388). -/
theorem State.gate_eq_false_of_blocks (hp : p ∈ s.ops) (ht : p.tid = o.tid) (hid : p.id < o.id) (hb : blocks p o = true)
    (hpass : s.passedBy p o = false) : s.gate o = false := by
  have hall : (s.ops.all fun q => !(q.tid == o.tid && decide (q.id < o.id)) || s.passedBy q o || !blocks q o) = false :=
    List.all_eq_false.mpr ⟨p, hp, by simp [ht, hid, hpass, hb]⟩
  simp only [State.gate, hall, Bool.and_false, Bool.false_and]

theorem State.passedBy_eq_false (hbuf : s.buffered p = false) (hflush : s.flushOf p = none) : s.passedBy p o = false := by
  simp [State.passedBy, hbuf, hflush]

/-- R195 where the earlier scratch store stands neither in an atomic buffer (R388) nor in the drain of a flush point (R390): SIGN waits for it. -/
theorem signApply_waits_of_not_buffered (ho : s.op? id = some o) (hk : o.kind = .sign n) (hp : p ∈ s.ops) (ht : p.tid = o.tid)
    (hid : p.id < o.id) (hw : p.waiting = true) (hs : p.kind.IsScratchStore) (hbuf : s.buffered p = false) (hflush : s.flushOf p = none) :
    exec (.signApply id) s = .next s :=
  exec_signApply_of_not_gate ho hk
    (State.gate_eq_false_of_blocks hp ht hid (blocks_sign hk hw hs) (State.passedBy_eq_false hbuf hflush))

end

/-! ### A scratch store in the atomic buffer -/

/-- A scratch store of 8 bytes, still to be performed. -/
def queuedStore : Op :=
  { id := 5, tid := 4, gid := 2, core := 0, asid := 1, pc := 0, hdr := 0, use := none, seq := 5, addr := 0, kind := .storeS 7 8, st := .queued,
    hseq := 0, acq := 0, acqC := 0, dep := 0, grpSeq := 5, lost := 0, met := false, depth := 0, rewalk := false }

/-- The SIGN that the store's thread issued next. -/
def laterSign : Op := { queuedStore with id := 6, seq := 6, grpSeq := 6, kind := .sign 0 }

/-- Both under way after reset, with the store's number in the atomic buffer of its core. -/
def storeBuffered : State :=
  { State.reset.modCore 0 (fun c => { c with atomBuf := [queuedStore.id] }) with ops := [queuedStore, laterSign], fresh := 7 }

theorem storeBuffered_gate : storeBuffered.cvWaits laterSign = false ∧ storeBuffered.gate laterSign = true := by decide

/-- Refutes O20: a later operation passes by whatever stands in its core's atomic buffer (R388), and no hypothesis of the statement keeps a scratch
store out of it. In `storeBuffered` the buffer holds one, and the SIGN behind it is delivered. R388 has only atomics enter the buffer, so this is
a gap of the statement and not an order that R195 forbids: `signApply_waits_of_not_buffered` is R195 for a store that is not in the buffer. -/
theorem not_signWaitsForStores : ¬ Obligations.SignWaitsForStores := by
  unfold Obligations.SignWaitsForStores
  intro h
  have hwaits : exec (.signApply 6) storeBuffered = .next storeBuffered :=
    h 6 storeBuffered laterSign queuedStore 0 rfl rfl (by simp [storeBuffered]) rfl (by decide) rfl (.inl ⟨7, 8, rfl⟩)
  obtain ⟨hc, hg⟩ := storeBuffered_gate
  obtain ⟨t, hdelivered, hgone⟩ := exec_signApply_of_gate (id := 6) (s := storeBuffered) (o := laterSign) rfl rfl hc hg
  obtain rfl : storeBuffered = t := Host.Outcome.next.inj (hwaits.symm.trans hdelivered)
  exact absurd hgone (by decide)

end Sys2Proof.Machine
end

section
/-!
SUPPORT. The encoding as a whole (R65, R83 to R88): decoding gives back what was encoded, and a word that decodes is the word of its instruction.
-/

namespace Sys2Proof.Laws

/-- The round trip of every instruction, from the lemma of its constructor. -/
theorem roundTrip : ∀ i : Instr, RoundTrip.Statement i
  | .clauseStart w a b y l => RoundTrip.clauseStart w a b y l
  | .waitCountExpiry core cohort => RoundTrip.waitCountExpiry core cohort
  | .resultLands core => RoundTrip.resultLands core
  | .threadSlotFree thread => RoundTrip.threadSlotFree thread
  | .cohortRetire cohort => RoundTrip.cohortRetire cohort
  | .nop c g => RoundTrip.nop c g
  | .yield c g => RoundTrip.yield c g
  | .rdclk c g d => RoundTrip.rdclk c g d
  | .rdtags c g d => RoundTrip.rdtags c g d
  | .brUt g i => RoundTrip.brUt g i
  | .brUf g i => RoundTrip.brUf g i
  | .br g i => RoundTrip.br g i
  | .brUl g i => RoundTrip.brUl g i
  | .jmp i => RoundTrip.jmp i
  | .call i => RoundTrip.call i
  | .jmpr g a => RoundTrip.jmpr g a
  | .callr g a => RoundTrip.callr g a
  | .ret g => RoundTrip.ret g
  | .exit g => RoundTrip.exit g
  | .addW c g d a b => RoundTrip.addW c g d a b
  | .subW c g d a b => RoundTrip.subW c g d a b
  | .andW c g d a b => RoundTrip.andW c g d a b
  | .orW c g d a b => RoundTrip.orW c g d a b
  | .xorW c g d a b => RoundTrip.xorW c g d a b
  | .andnW c g d a b => RoundTrip.andnW c g d a b
  | .minW c g d a b => RoundTrip.minW c g d a b
  | .maxW c g d a b => RoundTrip.maxW c g d a b
  | .addD c g d a b => RoundTrip.addD c g d a b
  | .subD c g d a b => RoundTrip.subD c g d a b
  | .andD c g d a b => RoundTrip.andD c g d a b
  | .orD c g d a b => RoundTrip.orD c g d a b
  | .xorD c g d a b => RoundTrip.xorD c g d a b
  | .andnD c g d a b => RoundTrip.andnD c g d a b
  | .minD c g d a b => RoundTrip.minD c g d a b
  | .maxD c g d a b => RoundTrip.maxD c g d a b
  | .minuW c g d a b => RoundTrip.minuW c g d a b
  | .maxuW c g d a b => RoundTrip.maxuW c g d a b
  | .shlW c g d a b => RoundTrip.shlW c g d a b
  | .shrW c g d a b => RoundTrip.shrW c g d a b
  | .sarW c g d a b => RoundTrip.sarW c g d a b
  | .rotW c g d a b => RoundTrip.rotW c g d a b
  | .mulW c g d a b => RoundTrip.mulW c g d a b
  | .mulhW c g d a b => RoundTrip.mulhW c g d a b
  | .minuD c g d a b => RoundTrip.minuD c g d a b
  | .maxuD c g d a b => RoundTrip.maxuD c g d a b
  | .shlD c g d a b => RoundTrip.shlD c g d a b
  | .shrD c g d a b => RoundTrip.shrD c g d a b
  | .sarD c g d a b => RoundTrip.sarD c g d a b
  | .rotD c g d a b => RoundTrip.rotD c g d a b
  | .mulD c g d a b => RoundTrip.mulD c g d a b
  | .mulhD c g d a b => RoundTrip.mulhD c g d a b
  | .addiW c g d a i => RoundTrip.addiW c g d a i
  | .addiD c g d a i => RoundTrip.addiD c g d a i
  | .shliW c g d a i => RoundTrip.shliW c g d a i
  | .shriW c g d a i => RoundTrip.shriW c g d a i
  | .sariW c g d a i => RoundTrip.sariW c g d a i
  | .rotiW c g d a i => RoundTrip.rotiW c g d a i
  | .shliD c g d a i => RoundTrip.shliD c g d a i
  | .shriD c g d a i => RoundTrip.shriD c g d a i
  | .sariD c g d a i => RoundTrip.sariD c g d a i
  | .rotiD c g d a i => RoundTrip.rotiD c g d a i
  | .movi c g d i => RoundTrip.movi c g d i
  | .lea1 c g d a b => RoundTrip.lea1 c g d a b
  | .lea2 c g d a b => RoundTrip.lea2 c g d a b
  | .lea4 c g d a b => RoundTrip.lea4 c g d a b
  | .lea8 c g d a b => RoundTrip.lea8 c g d a b
  | .lea16 c g d a b => RoundTrip.lea16 c g d a b
  | .macW c g d a b => RoundTrip.macW c g d a b
  | .macD c g d a b => RoundTrip.macD c g d a b
  | .mulhuD c g d a b => RoundTrip.mulhuD c g d a b
  | .mov c g d a => RoundTrip.mov c g d a
  | .not c g d a => RoundTrip.not c g d a
  | .neg c g d a => RoundTrip.neg c g d a
  | .abs c g d a => RoundTrip.abs c g d a
  | .clzW c g d a => RoundTrip.clzW c g d a
  | .clzD c g d a => RoundTrip.clzD c g d a
  | .popc c g d a => RoundTrip.popc c g d a
  | .brevD c g d a => RoundTrip.brevD c g d a
  | .sextB c g d a => RoundTrip.sextB c g d a
  | .sextH c g d a => RoundTrip.sextH c g d a
  | .sextW c g d a => RoundTrip.sextW c g d a
  | .zextB c g d a => RoundTrip.zextB c g d a
  | .zextH c g d a => RoundTrip.zextH c g d a
  | .zextW c g d a => RoundTrip.zextW c g d a
  | .movk c g d k => RoundTrip.movk c g d k
  | .rdsr c g d s => RoundTrip.rdsr c g d s
  | .wrsr c g s a => RoundTrip.wrsr c g s a
  | .movp c g d a => RoundTrip.movp c g d a
  | .bfx c g d a b => RoundTrip.bfx c g d a b
  | .bfxu c g d a b => RoundTrip.bfxu c g d a b
  | .bfi c g d a b => RoundTrip.bfi c g d a b
  | .icmpEq c g p t a b => RoundTrip.icmpEq c g p t a b
  | .icmpNe c g p t a b => RoundTrip.icmpNe c g p t a b
  | .icmpLt c g p t a b => RoundTrip.icmpLt c g p t a b
  | .icmpLe c g p t a b => RoundTrip.icmpLe c g p t a b
  | .icmpGt c g p t a b => RoundTrip.icmpGt c g p t a b
  | .icmpGe c g p t a b => RoundTrip.icmpGe c g p t a b
  | .icmpLtu c g p t a b => RoundTrip.icmpLtu c g p t a b
  | .icmpLeu c g p t a b => RoundTrip.icmpLeu c g p t a b
  | .icmpGtu c g p t a b => RoundTrip.icmpGtu c g p t a b
  | .icmpGeu c g p t a b => RoundTrip.icmpGeu c g p t a b
  | .icmpTst c g p t a b => RoundTrip.icmpTst c g p t a b
  | .icmpNtst c g p t a b => RoundTrip.icmpNtst c g p t a b
  | .pand c g d a b => RoundTrip.pand c g d a b
  | .por c g d a b => RoundTrip.por c g d a b
  | .pxor c g d a b => RoundTrip.pxor c g d a b
  | .pnot c g d a => RoundTrip.pnot c g d a
  | .pmov c g d a => RoundTrip.pmov c g d a
  | .pisu c g d a => RoundTrip.pisu c g d a
  | .pist c g d a => RoundTrip.pist c g d a
  | .pset c g d v => RoundTrip.pset c g d v
  | .voteAll c g d a => RoundTrip.voteAll c g d a
  | .voteAny c g d a => RoundTrip.voteAny c g d a
  | .ballot c g d a => RoundTrip.ballot c g d a
  | .ballotu c g d a => RoundTrip.ballotu c g d a
  | .shflIdx c g d a b => RoundTrip.shflIdx c g d a b
  | .shflUp c g d a b => RoundTrip.shflUp c g d a b
  | .shflDown c g d a b => RoundTrip.shflDown c g d a b
  | .shflXor c g d a b => RoundTrip.shflXor c g d a b
  | .divW c g d a b => RoundTrip.divW c g d a b
  | .divuW c g d a b => RoundTrip.divuW c g d a b
  | .remW c g d a b => RoundTrip.remW c g d a b
  | .remuW c g d a b => RoundTrip.remuW c g d a b
  | .divD c g d a b => RoundTrip.divD c g d a b
  | .divuD c g d a b => RoundTrip.divuD c g d a b
  | .remD c g d a b => RoundTrip.remD c g d a b
  | .remuD c g d a b => RoundTrip.remuD c g d a b
  | .divideComplete op => RoundTrip.divideComplete op
  | .sel c g d a b k => RoundTrip.sel c g d a b k
  | .randW c g d a b => RoundTrip.randW c g d a b
  | .randD c g d a b => RoundTrip.randD c g d a b
  | .faddS c g d a b => RoundTrip.faddS c g d a b
  | .fsubS c g d a b => RoundTrip.fsubS c g d a b
  | .fmulS c g d a b => RoundTrip.fmulS c g d a b
  | .fdivS c g d a b => RoundTrip.fdivS c g d a b
  | .fminS c g d a b => RoundTrip.fminS c g d a b
  | .fmaxS c g d a b => RoundTrip.fmaxS c g d a b
  | .fcpysS c g d a b => RoundTrip.fcpysS c g d a b
  | .faddD c g d a b => RoundTrip.faddD c g d a b
  | .fsubD c g d a b => RoundTrip.fsubD c g d a b
  | .fmulD c g d a b => RoundTrip.fmulD c g d a b
  | .fdivD c g d a b => RoundTrip.fdivD c g d a b
  | .fminD c g d a b => RoundTrip.fminD c g d a b
  | .fmaxD c g d a b => RoundTrip.fmaxD c g d a b
  | .fcpysD c g d a b => RoundTrip.fcpysD c g d a b
  | .faddI c g d a b => RoundTrip.faddI c g d a b
  | .fsubI c g d a b => RoundTrip.fsubI c g d a b
  | .fmulI c g d a b => RoundTrip.fmulI c g d a b
  | .fdivI c g d a b => RoundTrip.fdivI c g d a b
  | .fhullI c g d a b => RoundTrip.fhullI c g d a b
  | .fisectI c g d a b => RoundTrip.fisectI c g d a b
  | .fminI c g d a b => RoundTrip.fminI c g d a b
  | .fmaxI c g d a b => RoundTrip.fmaxI c g d a b
  | .faddJ c g d a b => RoundTrip.faddJ c g d a b
  | .fsubJ c g d a b => RoundTrip.fsubJ c g d a b
  | .fmulJ c g d a b => RoundTrip.fmulJ c g d a b
  | .fdivJ c g d a b => RoundTrip.fdivJ c g d a b
  | .fhullJ c g d a b => RoundTrip.fhullJ c g d a b
  | .fisectJ c g d a b => RoundTrip.fisectJ c g d a b
  | .fminJ c g d a b => RoundTrip.fminJ c g d a b
  | .fmaxJ c g d a b => RoundTrip.fmaxJ c g d a b
  | .fpDivideSqrtComplete op => RoundTrip.fpDivideSqrtComplete op
  | .fmacS c g d a b => RoundTrip.fmacS c g d a b
  | .fmscS c g d a b => RoundTrip.fmscS c g d a b
  | .fnmacS c g d a b => RoundTrip.fnmacS c g d a b
  | .fnmscS c g d a b => RoundTrip.fnmscS c g d a b
  | .fmacD c g d a b => RoundTrip.fmacD c g d a b
  | .fmscD c g d a b => RoundTrip.fmscD c g d a b
  | .fnmacD c g d a b => RoundTrip.fnmacD c g d a b
  | .fnmscD c g d a b => RoundTrip.fnmscD c g d a b
  | .fmacI c g d a b => RoundTrip.fmacI c g d a b
  | .fmscI c g d a b => RoundTrip.fmscI c g d a b
  | .fnmacI c g d a b => RoundTrip.fnmacI c g d a b
  | .fnmscI c g d a b => RoundTrip.fnmscI c g d a b
  | .fmacJ c g d a b => RoundTrip.fmacJ c g d a b
  | .fmscJ c g d a b => RoundTrip.fmscJ c g d a b
  | .fnmacJ c g d a b => RoundTrip.fnmacJ c g d a b
  | .fnmscJ c g d a b => RoundTrip.fnmscJ c g d a b
  | .fabsS c g d a => RoundTrip.fabsS c g d a
  | .fnegS c g d a => RoundTrip.fnegS c g d a
  | .fsqrtS c g d a => RoundTrip.fsqrtS c g d a
  | .frcpS c g d a => RoundTrip.frcpS c g d a
  | .frsqS c g d a => RoundTrip.frsqS c g d a
  | .fexp2S c g d a => RoundTrip.fexp2S c g d a
  | .flog2S c g d a => RoundTrip.flog2S c g d a
  | .fsinS c g d a => RoundTrip.fsinS c g d a
  | .fcosS c g d a => RoundTrip.fcosS c g d a
  | .frndS c g d a => RoundTrip.frndS c g d a
  | .fclassS c g d a => RoundTrip.fclassS c g d a
  | .fabsD c g d a => RoundTrip.fabsD c g d a
  | .fnegD c g d a => RoundTrip.fnegD c g d a
  | .fsqrtD c g d a => RoundTrip.fsqrtD c g d a
  | .frcpD c g d a => RoundTrip.frcpD c g d a
  | .frsqD c g d a => RoundTrip.frsqD c g d a
  | .fexp2D c g d a => RoundTrip.fexp2D c g d a
  | .flog2D c g d a => RoundTrip.flog2D c g d a
  | .fsinD c g d a => RoundTrip.fsinD c g d a
  | .fcosD c g d a => RoundTrip.fcosD c g d a
  | .frndD c g d a => RoundTrip.frndD c g d a
  | .fclassD c g d a => RoundTrip.fclassD c g d a
  | .fcvtFloat c g d a x y => RoundTrip.fcvtFloat c g d a x y
  | .fcvtToInt c g d a x y => RoundTrip.fcvtToInt c g d a x y
  | .fcvtFromInt c g d a x y => RoundTrip.fcvtFromInt c g d a x y
  | .fcvtz c g d a x y => RoundTrip.fcvtz c g d a x y
  | .fmovGf c g d a => RoundTrip.fmovGf c g d a
  | .fmovFg c g d a => RoundTrip.fmovFg c g d a
  | .iptS c g d a => RoundTrip.iptS c g d a
  | .iptD c g d a => RoundTrip.iptD c g d a
  | .iloI c g d a => RoundTrip.iloI c g d a
  | .ihiI c g d a => RoundTrip.ihiI c g d a
  | .imidI c g d a => RoundTrip.imidI c g d a
  | .iwidI c g d a => RoundTrip.iwidI c g d a
  | .iloJ c g d a => RoundTrip.iloJ c g d a
  | .ihiJ c g d a => RoundTrip.ihiJ c g d a
  | .imidJ c g d a => RoundTrip.imidJ c g d a
  | .iwidJ c g d a => RoundTrip.iwidJ c g d a
  | .fcmpEqS c g p t a b => RoundTrip.fcmpEqS c g p t a b
  | .fcmpNeS c g p t a b => RoundTrip.fcmpNeS c g p t a b
  | .fcmpLtS c g p t a b => RoundTrip.fcmpLtS c g p t a b
  | .fcmpLeS c g p t a b => RoundTrip.fcmpLeS c g p t a b
  | .fcmpGtS c g p t a b => RoundTrip.fcmpGtS c g p t a b
  | .fcmpGeS c g p t a b => RoundTrip.fcmpGeS c g p t a b
  | .fcmpUnS c g p t a b => RoundTrip.fcmpUnS c g p t a b
  | .fcmpOrdS c g p t a b => RoundTrip.fcmpOrdS c g p t a b
  | .fcmpEqD c g p t a b => RoundTrip.fcmpEqD c g p t a b
  | .fcmpNeD c g p t a b => RoundTrip.fcmpNeD c g p t a b
  | .fcmpLtD c g p t a b => RoundTrip.fcmpLtD c g p t a b
  | .fcmpLeD c g p t a b => RoundTrip.fcmpLeD c g p t a b
  | .fcmpGtD c g p t a b => RoundTrip.fcmpGtD c g p t a b
  | .fcmpGeD c g p t a b => RoundTrip.fcmpGeD c g p t a b
  | .fcmpUnD c g p t a b => RoundTrip.fcmpUnD c g p t a b
  | .fcmpOrdD c g p t a b => RoundTrip.fcmpOrdD c g p t a b
  | .fcmpEqI c g p t a b => RoundTrip.fcmpEqI c g p t a b
  | .fcmpNeI c g p t a b => RoundTrip.fcmpNeI c g p t a b
  | .fcmpLtI c g p t a b => RoundTrip.fcmpLtI c g p t a b
  | .fcmpLeI c g p t a b => RoundTrip.fcmpLeI c g p t a b
  | .fcmpGtI c g p t a b => RoundTrip.fcmpGtI c g p t a b
  | .fcmpGeI c g p t a b => RoundTrip.fcmpGeI c g p t a b
  | .fcmpSubI c g p t a b => RoundTrip.fcmpSubI c g p t a b
  | .fcmpDisjI c g p t a b => RoundTrip.fcmpDisjI c g p t a b
  | .fcmpContI c g p t a b => RoundTrip.fcmpContI c g p t a b
  | .fcmpEmptyI c g p t a b => RoundTrip.fcmpEmptyI c g p t a b
  | .fcmpEqJ c g p t a b => RoundTrip.fcmpEqJ c g p t a b
  | .fcmpNeJ c g p t a b => RoundTrip.fcmpNeJ c g p t a b
  | .fcmpLtJ c g p t a b => RoundTrip.fcmpLtJ c g p t a b
  | .fcmpLeJ c g p t a b => RoundTrip.fcmpLeJ c g p t a b
  | .fcmpGtJ c g p t a b => RoundTrip.fcmpGtJ c g p t a b
  | .fcmpGeJ c g p t a b => RoundTrip.fcmpGeJ c g p t a b
  | .fcmpSubJ c g p t a b => RoundTrip.fcmpSubJ c g p t a b
  | .fcmpDisjJ c g p t a b => RoundTrip.fcmpDisjJ c g p t a b
  | .fcmpContJ c g p t a b => RoundTrip.fcmpContJ c g p t a b
  | .fcmpEmptyJ c g p t a b => RoundTrip.fcmpEmptyJ c g p t a b
  | .imakeS c g d a b => RoundTrip.imakeS c g d a b
  | .imakeD c g d a b => RoundTrip.imakeD c g d a b
  | .bisectI c g d a k => RoundTrip.bisectI c g d a k
  | .bisectJ c g d a k => RoundTrip.bisectJ c g d a k
  | .bisectComplete op => RoundTrip.bisectComplete op
  | .iinflI c g d a b => RoundTrip.iinflI c g d a b
  | .iinflJ c g d a b => RoundTrip.iinflJ c g d a b
  | .hadd2 c g d a b => RoundTrip.hadd2 c g d a b
  | .hmul2 c g d a b => RoundTrip.hmul2 c g d a b
  | .hfma2 c g d a b => RoundTrip.hfma2 c g d a b
  | .badd2 c g d a b => RoundTrip.badd2 c g d a b
  | .bmul2 c g d a b => RoundTrip.bmul2 c g d a b
  | .bfma2 c g d a b => RoundTrip.bfma2 c g d a b
  | .cbdec c g d a b => RoundTrip.cbdec c g d a b
  | .mxq c g d a b => RoundTrip.mxq c g d a b
  | .ldgB c g d b p => RoundTrip.ldgB c g d b p
  | .ldgBu c g d b p => RoundTrip.ldgBu c g d b p
  | .ldgH c g d b p => RoundTrip.ldgH c g d b p
  | .ldgHu c g d b p => RoundTrip.ldgHu c g d b p
  | .ldgW c g d b p => RoundTrip.ldgW c g d b p
  | .ldgWu c g d b p => RoundTrip.ldgWu c g d b p
  | .ldgD c g d b p => RoundTrip.ldgD c g d b p
  | .ldgQ c g d b p => RoundTrip.ldgQ c g d b p
  | .stgB c g d b p => RoundTrip.stgB c g d b p
  | .stgH c g d b p => RoundTrip.stgH c g d b p
  | .stgW c g d b p => RoundTrip.stgW c g d b p
  | .stgD c g d b p => RoundTrip.stgD c g d b p
  | .stgQ c g d b p => RoundTrip.stgQ c g d b p
  | .stref c g d b p => RoundTrip.stref c g d b p
  | .sthdr c g d b p => RoundTrip.sthdr c g d b p
  | .strefHomeCheck op => RoundTrip.strefHomeCheck op
  | .ldsB c g d b i => RoundTrip.ldsB c g d b i
  | .ldsBu c g d b i => RoundTrip.ldsBu c g d b i
  | .ldsH c g d b i => RoundTrip.ldsH c g d b i
  | .ldsHu c g d b i => RoundTrip.ldsHu c g d b i
  | .ldsW c g d b i => RoundTrip.ldsW c g d b i
  | .ldsWu c g d b i => RoundTrip.ldsWu c g d b i
  | .ldsD c g d b i => RoundTrip.ldsD c g d b i
  | .ldsQ c g d b i => RoundTrip.ldsQ c g d b i
  | .stsB c g d b i => RoundTrip.stsB c g d b i
  | .stsH c g d b i => RoundTrip.stsH c g d b i
  | .stsW c g d b i => RoundTrip.stsW c g d b i
  | .stsD c g d b i => RoundTrip.stsD c g d b i
  | .stsQ c g d b i => RoundTrip.stsQ c g d b i
  | .ldfGS c g d b p => RoundTrip.ldfGS c g d b p
  | .ldfGD c g d b p => RoundTrip.ldfGD c g d b p
  | .ldfGI c g d b p => RoundTrip.ldfGI c g d b p
  | .ldfGJ c g d b p => RoundTrip.ldfGJ c g d b p
  | .ldfLS c g d b i => RoundTrip.ldfLS c g d b i
  | .ldfLD c g d b i => RoundTrip.ldfLD c g d b i
  | .ldfLI c g d b i => RoundTrip.ldfLI c g d b i
  | .ldfLJ c g d b i => RoundTrip.ldfLJ c g d b i
  | .stfGS c g d b p => RoundTrip.stfGS c g d b p
  | .stfGD c g d b p => RoundTrip.stfGD c g d b p
  | .stfGI c g d b p => RoundTrip.stfGI c g d b p
  | .stfGJ c g d b p => RoundTrip.stfGJ c g d b p
  | .stfLS c g d b i => RoundTrip.stfLS c g d b i
  | .stfLD c g d b i => RoundTrip.stfLD c g d b i
  | .stfLI c g d b i => RoundTrip.stfLI c g d b i
  | .stfLJ c g d b i => RoundTrip.stfLJ c g d b i
  | .loadReply op evict => RoundTrip.loadReply op evict
  | .storeFaultFound op => RoundTrip.storeFaultFound op
  | .amogAddW c g d b v => RoundTrip.amogAddW c g d b v
  | .amogAddD c g d b v => RoundTrip.amogAddD c g d b v
  | .amogMaxW c g d b v => RoundTrip.amogMaxW c g d b v
  | .amogMinW c g d b v => RoundTrip.amogMinW c g d b v
  | .amogSwapW c g d b v => RoundTrip.amogSwapW c g d b v
  | .amogSwapD c g d b v => RoundTrip.amogSwapD c g d b v
  | .amogCasW c g d b v => RoundTrip.amogCasW c g d b v
  | .amogCasD c g d b v => RoundTrip.amogCasD c g d b v
  | .amog2AndD c g d b v => RoundTrip.amog2AndD c g d b v
  | .amog2OrD c g d b v => RoundTrip.amog2OrD c g d b v
  | .amog2XorD c g d b v => RoundTrip.amog2XorD c g d b v
  | .amog2MaxuD c g d b v => RoundTrip.amog2MaxuD c g d b v
  | .amog2MinuD c g d b v => RoundTrip.amog2MinuD c g d b v
  | .amog2AndW c g d b v => RoundTrip.amog2AndW c g d b v
  | .amog2OrW c g d b v => RoundTrip.amog2OrW c g d b v
  | .amog2XorW c g d b v => RoundTrip.amog2XorW c g d b v
  | .amogscAddW c g d b v => RoundTrip.amogscAddW c g d b v
  | .amogscAddD c g d b v => RoundTrip.amogscAddD c g d b v
  | .amogscMaxW c g d b v => RoundTrip.amogscMaxW c g d b v
  | .amogscMinW c g d b v => RoundTrip.amogscMinW c g d b v
  | .amogscSwapW c g d b v => RoundTrip.amogscSwapW c g d b v
  | .amogscSwapD c g d b v => RoundTrip.amogscSwapD c g d b v
  | .amogscCasW c g d b v => RoundTrip.amogscCasW c g d b v
  | .amogscCasD c g d b v => RoundTrip.amogscCasD c g d b v
  | .amosAddW c g d b v => RoundTrip.amosAddW c g d b v
  | .amosAddD c g d b v => RoundTrip.amosAddD c g d b v
  | .amosMaxW c g d b v => RoundTrip.amosMaxW c g d b v
  | .amosMinW c g d b v => RoundTrip.amosMinW c g d b v
  | .amosSwapW c g d b v => RoundTrip.amosSwapW c g d b v
  | .amosSwapD c g d b v => RoundTrip.amosSwapD c g d b v
  | .amosCasW c g d b v => RoundTrip.amosCasW c g d b v
  | .amosCasD c g d b v => RoundTrip.amosCasD c g d b v
  | .atomicPerform op => RoundTrip.atomicPerform op
  | .atomicReply op => RoundTrip.atomicReply op
  | .fence c g p s k => RoundTrip.fence c g p s k
  | .fenceReleaseHeld op => RoundTrip.fenceReleaseHeld op
  | .pfl c g b p => RoundTrip.pfl c g b p
  | .pfr c g t b l => RoundTrip.pfr c g t b l
  | .wbl1 c g b l => RoundTrip.wbl1 c g b l
  | .invl1 c g b l => RoundTrip.invl1 c g b l
  | .acqr c g d b l => RoundTrip.acqr c g d b l
  | .acqrComplete op => RoundTrip.acqrComplete op
  | .pub c g d b s => RoundTrip.pub c g d b s
  | .tagof c g d b p => RoundTrip.tagof c g d b p
  | .scopeof c g d b p => RoundTrip.scopeof c g d b p
  | .colr c g d b l => RoundTrip.colr c g d b l
  | .colof c g d b p => RoundTrip.colof c g d b p
  | .colrLine op => RoundTrip.colrLine op
  | .walkStart op => RoundTrip.walkStart op
  | .walkObject walk => RoundTrip.walkObject walk
  | .cwait c g b => RoundTrip.cwait c g b
  | .cnotify c g b => RoundTrip.cnotify c g b
  | .cnotifyall c g b => RoundTrip.cnotifyall c g b
  | .cheld c g d b => RoundTrip.cheld c g d b
  | .monitorAcquire msg => RoundTrip.monitorAcquire msg
  | .monitorRelease msg => RoundTrip.monitorRelease msg
  | .monitorWait msg => RoundTrip.monitorWait msg
  | .monitorNotify msg => RoundTrip.monitorNotify msg
  | .monitorNotifyAll msg => RoundTrip.monitorNotifyAll msg
  | .monitorGrant reply => RoundTrip.monitorGrant reply
  | .monitorQueuedReply reply => RoundTrip.monitorQueuedReply reply
  | .colourReleaseSend rel => RoundTrip.colourReleaseSend rel
  | .copy c g d s p => RoundTrip.copy c g d s p
  | .copym c g d s p => RoundTrip.copym c g d s p
  | .copyb c g d s p => RoundTrip.copyb c g d s p
  | .gather c g d x p => RoundTrip.gather c g d x p
  | .copyStart copy => RoundTrip.copyStart copy
  | .copyEnd copy => RoundTrip.copyEnd copy
  | .gatherEnd copy => RoundTrip.gatherEnd copy
  | .pfrEnd copy => RoundTrip.pfrEnd copy
  | .ringIdleExpiry group => RoundTrip.ringIdleExpiry group
  | .twaitall c g b => RoundTrip.twaitall c g b
  | .twaitany c g b => RoundTrip.twaitany c g b
  | .tfirst c g d b => RoundTrip.tfirst c g d b
  | .tclr c g b => RoundTrip.tclr c g b
  | .tdef c g d b p => RoundTrip.tdef c g d b p
  | .trd c g d t i => RoundTrip.trd c g d t i
  | .sign c g n => RoundTrip.sign c g n
  | .mldb c g d b => RoundTrip.mldb c g d b
  | .mmq c g d a m => RoundTrip.mmq c g d a m
  | .mcommit c g n => RoundTrip.mcommit c g n
  | .mwait c g n => RoundTrip.mwait c g n
  | .cvset c g n p => RoundTrip.cvset c g n p
  | .signApply op => RoundTrip.signApply op
  | .cvsetApply op => RoundTrip.cvsetApply op
  | .engineCommandStart cmd => RoundTrip.engineCommandStart cmd
  | .tdefComplete cmd => RoundTrip.tdefComplete cmd
  | .mldbComplete cmd => RoundTrip.mldbComplete cmd
  | .mmqRow cmd => RoundTrip.mmqRow cmd
  | .mzeroRow cmd => RoundTrip.mzeroRow cmd
  | .mxstRow cmd => RoundTrip.mxstRow cmd
  | .mzero c g b p => RoundTrip.mzero c g b p
  | .mrd c g d b i => RoundTrip.mrd c g d b i
  | .mwr c g d b i => RoundTrip.mwr c g d b i
  | .stpl c g d a p => RoundTrip.stpl c g d a p
  | .mxst c g d b p => RoundTrip.mxst c g d b p
  | .binit c g b p => RoundTrip.binit c g b p
  | .arrive c g b p => RoundTrip.arrive c g b p
  | .bwait c g b p => RoundTrip.bwait c g b p
  | .arrivew c g b p => RoundTrip.arrivew c g b p
  | .nbar c g s => RoundTrip.nbar c g s
  | .binval c g b => RoundTrip.binval c g b
  | .barrierBankOp op => RoundTrip.barrierBankOp op
  | .nbarPhaseComplete op => RoundTrip.nbarPhaseComplete op
  | .tqpush c g d => RoundTrip.tqpush c g d
  | .tqpop c g d => RoundTrip.tqpop c g d
  | .amsend c g d b p => RoundTrip.amsend c g d b p
  | .launch c g d b p => RoundTrip.launch c g d b p
  | .tqPushApply op => RoundTrip.tqPushApply op
  | .tqPopServe op => RoundTrip.tqPopServe op
  | .tqStealServe op => RoundTrip.tqStealServe op
  | .tqpopReply op => RoundTrip.tqpopReply op
  | .amArrival op => RoundTrip.amArrival op
  | .amsendStatus op => RoundTrip.amsendStatus op
  | .handlerGroupPlace msg => RoundTrip.handlerGroupPlace msg
  | .launchStatus op => RoundTrip.launchStatus op
  | .trap c g b => RoundTrip.trap c g b
  | .rft c g => RoundTrip.rft c g
  | .rdtr c g d b => RoundTrip.rdtr c g d b
  | .syscall c g b => RoundTrip.syscall c g b
  | .dflush c g => RoundTrip.dflush c g
  | .rdfpc c g d => RoundTrip.rdfpc c g d
  | .wrfpc c g b => RoundTrip.wrfpc c g b
  | .rdhash c g d => RoundTrip.rdhash c g d
  | .atomicBufferDrain kernel core => RoundTrip.atomicBufferDrain kernel core
  | .l1SweepWriteback core asid line => RoundTrip.l1SweepWriteback core asid line
  | .writebackArrival wb => RoundTrip.writebackArrival wb
  | .writeThroughArrival wt => RoundTrip.writeThroughArrival wt
  | .kernelRecordAccept die => RoundTrip.kernelRecordAccept die
  | .groupPlace => RoundTrip.groupPlace
  | .groupStart group => RoundTrip.groupStart group
  | .groupRetire group => RoundTrip.groupRetire group
  | .kernelRetire kernel => RoundTrip.kernelRetire kernel
  | .contextSlotAssign core slot asid => RoundTrip.contextSlotAssign core slot asid
  | .contextLoadComplete core asid => RoundTrip.contextLoadComplete core asid
  | .contextSwitchRequest core asid => RoundTrip.contextSwitchRequest core asid
  | .switchExchangeBegin core => RoundTrip.switchExchangeBegin core
  | .switchExchangeEnd core cycles => RoundTrip.switchExchangeEnd core cycles
  | .weightSlotRestoreDone core => RoundTrip.weightSlotRestoreDone core
  | .contextEvict core asid => RoundTrip.contextEvict core asid
  | .contextSaveComplete core asid => RoundTrip.contextSaveComplete core asid
  | .contextDestroy asid => RoundTrip.contextDestroy asid
  | .translation op rewalk => RoundTrip.translation op rewalk
  | .faultReadIndexAdvance asid idx => RoundTrip.faultReadIndexAdvance asid idx
  | .migrationCounterHalve die => RoundTrip.migrationCounterHalve die
  | .inval w0 w1 w2 w3 => RoundTrip.inval w0 w1 w2 w3
  | .purge w0 w1 w2 w3 => RoundTrip.purge w0 w1 w2 w3
  | .move w0 w1 w2 w3 => RoundTrip.move w0 w1 w2 w3
  | .bias w0 w1 w2 w3 => RoundTrip.bias w0 w1 w2 w3
  | .replay w0 w1 w2 w3 => RoundTrip.replay w0 w1 w2 w3
  | .deny w0 w1 w2 w3 => RoundTrip.deny w0 w1 w2 w3
  | .dget w0 w1 w2 w3 => RoundTrip.dget w0 w1 w2 w3
  | .scrub w0 w1 w2 w3 => RoundTrip.scrub w0 w1 w2 w3
  | .queueRegister die hdr asid => RoundTrip.queueRegister die hdr asid
  | .queueDestroy queue => RoundTrip.queueDestroy queue
  | .queueMap queue slot => RoundTrip.queueMap queue slot
  | .queueUnmap queue => RoundTrip.queueUnmap queue
  | .queueWake queue => RoundTrip.queueWake queue
  | .queueSlotTimeslice die => RoundTrip.queueSlotTimeslice die
  | .queueLaunch queue idx => RoundTrip.queueLaunch queue idx
  | .queueCopy queue idx => RoundTrip.queueCopy queue idx
  | .queueSignal queue idx => RoundTrip.queueSignal queue idx
  | .queueWait queue idx => RoundTrip.queueWait queue idx
  | .queueWaitSatisfied queue idx => RoundTrip.queueWaitSatisfied queue idx
  | .queueMarker queue idx => RoundTrip.queueMarker queue idx
  | .queueTimestamp queue idx => RoundTrip.queueTimestamp queue idx
  | .queuePacketComplete queue idx => RoundTrip.queuePacketComplete queue idx
  | .bulkEngineWake bulk => RoundTrip.bulkEngineWake bulk
  | .bulkPacketStart bulk => RoundTrip.bulkPacketStart bulk
  | .bulkPacketComplete bulk idx => RoundTrip.bulkPacketComplete bulk idx
  | .krfet t s d => RoundTrip.krfet t s d
  | .kbfx t s d => RoundTrip.kbfx t s d
  | .kswait s d => RoundTrip.kswait s d
  | .kswaitWake die line => RoundTrip.kswaitWake die line
  | .kdisp t s d => RoundTrip.kdisp t s d
  | .watchdogHeartbeat => RoundTrip.watchdogHeartbeat
  | .watchdogExpiry => RoundTrip.watchdogExpiry
  | .powerGood => RoundTrip.powerGood
  | .imageStartCommand image floor => RoundTrip.imageStartCommand image floor
  | .reducedServiceBegin => RoundTrip.reducedServiceBegin
  | .hbmStackTrained stack => RoundTrip.hbmStackTrained stack
  | .fullServiceBegin => RoundTrip.fullServiceBegin
  | .deviceReset => RoundTrip.deviceReset
  | .powerLimitExceeded => RoundTrip.powerLimitExceeded
  | .thermalTrip quad => RoundTrip.thermalTrip quad
  | .clampSecondStep thermal quad => RoundTrip.clampSecondStep thermal quad
  | .clampRestore thermal quad => RoundTrip.clampRestore thermal quad
  | .clockChangeApply quad => RoundTrip.clockChangeApply quad
  | .powerLimitSet watts => RoundTrip.powerLimitSet watts
  | .rdcSizeSet die gib => RoundTrip.rdcSizeSet die gib
  | .linkEnable link => RoundTrip.linkEnable link
  | .linkDisable link => RoundTrip.linkDisable link
  | .linkTrained link rate => RoundTrip.linkTrained link rate
  | .linkTrainingTimeout link => RoundTrip.linkTrainingTimeout link
  | .linkReplayFailure link => RoundTrip.linkReplayFailure link
  | .linkLockLoss link => RoundTrip.linkLockLoss link
  | .hostModuleFail module => RoundTrip.hostModuleFail module
  | .registerWrite reg val => RoundTrip.registerWrite reg val
  | .contextCreate asid ptDie ptBase handler table walkArea monArea saveArea fbBase fbLog => RoundTrip.contextCreate asid ptDie ptBase handler table walkArea monArea saveArea fbBase fbLog
  | .bulkQueueRegister die hdr asid => RoundTrip.bulkQueueRegister die hdr asid
  | .hostMemoryAccess node addr write data => RoundTrip.hostMemoryAccess node addr write data
  | .clampConditionClear thermal quad => RoundTrip.clampConditionClear thermal quad
  | .cohortSwapComplete core => RoundTrip.cohortSwapComplete core
  | .eventRingReadAdvance idx => RoundTrip.eventRingReadAdvance idx
  | .podJobEnrol job kernel members enrol => RoundTrip.podJobEnrol job kernel members enrol
  | .scratchStorePerform op => RoundTrip.scratchStorePerform op

/-- Settles O27: the round trip of the instruction's own constructor. -/
theorem encodeDecode : Obligations.EncodeDecode := fun i w hi he => roundTrip i hi w he

end Sys2Proof.Laws
end

section
/-!
SUPPORT. No bit of a word is dropped (R65, R83 to R88): the fields of a word and the fixed fields of its row make up the word again, one lemma for each
layout, so that every row answers an instruction whose word is the one that was read.
-/

namespace Sys2Proof.Laws

/-! ### Words from their fields -/

theorem word_C31w1G21w4 {n base v0 v25 : Nat} (hn : n < 2 ^ 32) (h : fld n 0 21 = v0 ∧ fld n 25 6 = v25) (hB : base = v0 * 2 ^ 0 + v25 * 2 ^ 25) :
    layC31w1G21w4 base (BitVec.ofNat 1 (fld n 31 1)) (BitVec.ofNat 4 (fld n 21 4)) = n := by
  simp only [layC31w1G21w4, fld, BitVec.toNat_ofNat, Nat.mod_mod, Nat.reducePow, Nat.div_one] at *
  omega

theorem word_C31w1G21w4D15w6 {n base v0 v25 : Nat} (hn : n < 2 ^ 32) (h : fld n 0 15 = v0 ∧ fld n 25 6 = v25) (hB : base = v0 * 2 ^ 0 + v25 * 2 ^ 25) :
    layC31w1G21w4D15w6 base (BitVec.ofNat 1 (fld n 31 1)) (BitVec.ofNat 4 (fld n 21 4)) (BitVec.ofNat 6 (fld n 15 6)) = n := by
  simp only [layC31w1G21w4D15w6, fld, BitVec.toNat_ofNat, Nat.mod_mod, Nat.reducePow, Nat.div_one] at *
  omega

theorem word_G21w4I0w19 {n base v19 v25 : Nat} (hn : n < 2 ^ 32) (h : fld n 19 2 = v19 ∧ fld n 25 7 = v25) (hB : base = v19 * 2 ^ 19 + v25 * 2 ^ 25) :
    layG21w4I0w19 base (BitVec.ofNat 4 (fld n 21 4)) (BitVec.ofNat 19 (fld n 0 19)) = n := by
  simp only [layG21w4I0w19, fld, BitVec.toNat_ofNat, Nat.mod_mod, Nat.reducePow, Nat.div_one] at *
  omega

theorem word_I0w25 {n base v25 : Nat} (hn : n < 2 ^ 32) (h : fld n 25 7 = v25) (hB : base = v25 * 2 ^ 25) :
    layI0w25 base (BitVec.ofNat 25 (fld n 0 25)) = n := by
  simp only [layI0w25, fld, BitVec.toNat_ofNat, Nat.mod_mod, Nat.reducePow, Nat.div_one] at *
  omega

theorem word_G21w4A9w6 {n base v0 v15 v25 : Nat} (hn : n < 2 ^ 32) (h : fld n 0 9 = v0 ∧ fld n 15 6 = v15 ∧ fld n 25 7 = v25) (hB : base = v0 * 2 ^ 0 + v15 * 2 ^ 15 + v25 * 2 ^ 25) :
    layG21w4A9w6 base (BitVec.ofNat 4 (fld n 21 4)) (BitVec.ofNat 6 (fld n 9 6)) = n := by
  simp only [layG21w4A9w6, fld, BitVec.toNat_ofNat, Nat.mod_mod, Nat.reducePow, Nat.div_one] at *
  omega

theorem word_G21w4 {n base v0 v25 : Nat} (hn : n < 2 ^ 32) (h : fld n 0 21 = v0 ∧ fld n 25 7 = v25) (hB : base = v0 * 2 ^ 0 + v25 * 2 ^ 25) :
    layG21w4 base (BitVec.ofNat 4 (fld n 21 4)) = n := by
  simp only [layG21w4, fld, BitVec.toNat_ofNat, Nat.mod_mod, Nat.reducePow, Nat.div_one] at *
  omega

theorem word_C31w1G21w4D15w6A9w6B3w6 {n base v0 v25 : Nat} (hn : n < 2 ^ 32) (h : fld n 0 3 = v0 ∧ fld n 25 6 = v25) (hB : base = v0 * 2 ^ 0 + v25 * 2 ^ 25) :
    layC31w1G21w4D15w6A9w6B3w6 base (BitVec.ofNat 1 (fld n 31 1)) (BitVec.ofNat 4 (fld n 21 4)) (BitVec.ofNat 6 (fld n 15 6)) (BitVec.ofNat 6 (fld n 9 6)) (BitVec.ofNat 6 (fld n 3 6)) = n := by
  simp only [layC31w1G21w4D15w6A9w6B3w6, fld, BitVec.toNat_ofNat, Nat.mod_mod, Nat.reducePow, Nat.div_one] at *
  omega

theorem word_C31w1G21w4D15w6A9w6I0w9 {n base v25 : Nat} (hn : n < 2 ^ 32) (h : fld n 25 6 = v25) (hB : base = v25 * 2 ^ 25) :
    layC31w1G21w4D15w6A9w6I0w9 base (BitVec.ofNat 1 (fld n 31 1)) (BitVec.ofNat 4 (fld n 21 4)) (BitVec.ofNat 6 (fld n 15 6)) (BitVec.ofNat 6 (fld n 9 6)) (BitVec.ofNat 9 (fld n 0 9)) = n := by
  simp only [layC31w1G21w4D15w6A9w6I0w9, fld, BitVec.toNat_ofNat, Nat.mod_mod, Nat.reducePow, Nat.div_one] at *
  omega

theorem word_C31w1G21w4D15w6A9w6I0w5 {n base v5 v25 : Nat} (hn : n < 2 ^ 32) (h : fld n 5 4 = v5 ∧ fld n 25 6 = v25) (hB : base = v5 * 2 ^ 5 + v25 * 2 ^ 25) :
    layC31w1G21w4D15w6A9w6I0w5 base (BitVec.ofNat 1 (fld n 31 1)) (BitVec.ofNat 4 (fld n 21 4)) (BitVec.ofNat 6 (fld n 15 6)) (BitVec.ofNat 6 (fld n 9 6)) (BitVec.ofNat 5 (fld n 0 5)) = n := by
  simp only [layC31w1G21w4D15w6A9w6I0w5, fld, BitVec.toNat_ofNat, Nat.mod_mod, Nat.reducePow, Nat.div_one] at *
  omega

theorem word_C31w1G21w4D15w6A9w6I0w6 {n base v6 v25 : Nat} (hn : n < 2 ^ 32) (h : fld n 6 3 = v6 ∧ fld n 25 6 = v25) (hB : base = v6 * 2 ^ 6 + v25 * 2 ^ 25) :
    layC31w1G21w4D15w6A9w6I0w6 base (BitVec.ofNat 1 (fld n 31 1)) (BitVec.ofNat 4 (fld n 21 4)) (BitVec.ofNat 6 (fld n 15 6)) (BitVec.ofNat 6 (fld n 9 6)) (BitVec.ofNat 6 (fld n 0 6)) = n := by
  simp only [layC31w1G21w4D15w6A9w6I0w6, fld, BitVec.toNat_ofNat, Nat.mod_mod, Nat.reducePow, Nat.div_one] at *
  omega

theorem word_C31w1G21w4D15w6I0w15 {n base v25 : Nat} (hn : n < 2 ^ 32) (h : fld n 25 6 = v25) (hB : base = v25 * 2 ^ 25) :
    layC31w1G21w4D15w6I0w15 base (BitVec.ofNat 1 (fld n 31 1)) (BitVec.ofNat 4 (fld n 21 4)) (BitVec.ofNat 6 (fld n 15 6)) (BitVec.ofNat 15 (fld n 0 15)) = n := by
  simp only [layC31w1G21w4D15w6I0w15, fld, BitVec.toNat_ofNat, Nat.mod_mod, Nat.reducePow, Nat.div_one] at *
  omega

theorem word_C31w1G21w4D15w6A9w6 {n base v0 v25 : Nat} (hn : n < 2 ^ 32) (h : fld n 0 9 = v0 ∧ fld n 25 6 = v25) (hB : base = v0 * 2 ^ 0 + v25 * 2 ^ 25) :
    layC31w1G21w4D15w6A9w6 base (BitVec.ofNat 1 (fld n 31 1)) (BitVec.ofNat 4 (fld n 21 4)) (BitVec.ofNat 6 (fld n 15 6)) (BitVec.ofNat 6 (fld n 9 6)) = n := by
  simp only [layC31w1G21w4D15w6A9w6, fld, BitVec.toNat_ofNat, Nat.mod_mod, Nat.reducePow, Nat.div_one] at *
  omega

theorem word_C31w1G21w4D15w6K9w6 {n base v0 v25 : Nat} (hn : n < 2 ^ 32) (h : fld n 0 9 = v0 ∧ fld n 25 6 = v25) (hB : base = v0 * 2 ^ 0 + v25 * 2 ^ 25) :
    layC31w1G21w4D15w6K9w6 base (BitVec.ofNat 1 (fld n 31 1)) (BitVec.ofNat 4 (fld n 21 4)) (BitVec.ofNat 6 (fld n 15 6)) (BitVec.ofNat 6 (fld n 9 6)) = n := by
  simp only [layC31w1G21w4D15w6K9w6, fld, BitVec.toNat_ofNat, Nat.mod_mod, Nat.reducePow, Nat.div_one] at *
  omega

theorem word_C31w1G21w4D15w6S9w6 {n base v0 v25 : Nat} (hn : n < 2 ^ 32) (h : fld n 0 9 = v0 ∧ fld n 25 6 = v25) (hB : base = v0 * 2 ^ 0 + v25 * 2 ^ 25) :
    layC31w1G21w4D15w6S9w6 base (BitVec.ofNat 1 (fld n 31 1)) (BitVec.ofNat 4 (fld n 21 4)) (BitVec.ofNat 6 (fld n 15 6)) (BitVec.ofNat 6 (fld n 9 6)) = n := by
  simp only [layC31w1G21w4D15w6S9w6, fld, BitVec.toNat_ofNat, Nat.mod_mod, Nat.reducePow, Nat.div_one] at *
  omega

theorem word_C31w1G21w4S15w6A9w6 {n base v0 v25 : Nat} (hn : n < 2 ^ 32) (h : fld n 0 9 = v0 ∧ fld n 25 6 = v25) (hB : base = v0 * 2 ^ 0 + v25 * 2 ^ 25) :
    layC31w1G21w4S15w6A9w6 base (BitVec.ofNat 1 (fld n 31 1)) (BitVec.ofNat 4 (fld n 21 4)) (BitVec.ofNat 6 (fld n 15 6)) (BitVec.ofNat 6 (fld n 9 6)) = n := by
  simp only [layC31w1G21w4S15w6A9w6, fld, BitVec.toNat_ofNat, Nat.mod_mod, Nat.reducePow, Nat.div_one] at *
  omega

theorem word_C31w1G21w4P19w2T16w3A6w6B0w6 {n base v12 v25 : Nat} (hn : n < 2 ^ 32) (h : fld n 12 4 = v12 ∧ fld n 25 6 = v25) (hB : base = v12 * 2 ^ 12 + v25 * 2 ^ 25) :
    layC31w1G21w4P19w2T16w3A6w6B0w6 base (BitVec.ofNat 1 (fld n 31 1)) (BitVec.ofNat 4 (fld n 21 4)) (BitVec.ofNat 2 (fld n 19 2)) (BitVec.ofNat 3 (fld n 16 3)) (BitVec.ofNat 6 (fld n 6 6)) (BitVec.ofNat 6 (fld n 0 6)) = n := by
  simp only [layC31w1G21w4P19w2T16w3A6w6B0w6, fld, BitVec.toNat_ofNat, Nat.mod_mod, Nat.reducePow, Nat.div_one] at *
  omega

theorem word_C31w1G21w4D18w3A15w3B12w3 {n base v0 v25 : Nat} (hn : n < 2 ^ 32) (h : fld n 0 12 = v0 ∧ fld n 25 6 = v25) (hB : base = v0 * 2 ^ 0 + v25 * 2 ^ 25) :
    layC31w1G21w4D18w3A15w3B12w3 base (BitVec.ofNat 1 (fld n 31 1)) (BitVec.ofNat 4 (fld n 21 4)) (BitVec.ofNat 3 (fld n 18 3)) (BitVec.ofNat 3 (fld n 15 3)) (BitVec.ofNat 3 (fld n 12 3)) = n := by
  simp only [layC31w1G21w4D18w3A15w3B12w3, fld, BitVec.toNat_ofNat, Nat.mod_mod, Nat.reducePow, Nat.div_one] at *
  omega

theorem word_C31w1G21w4D18w3A15w3 {n base v0 v25 : Nat} (hn : n < 2 ^ 32) (h : fld n 0 15 = v0 ∧ fld n 25 6 = v25) (hB : base = v0 * 2 ^ 0 + v25 * 2 ^ 25) :
    layC31w1G21w4D18w3A15w3 base (BitVec.ofNat 1 (fld n 31 1)) (BitVec.ofNat 4 (fld n 21 4)) (BitVec.ofNat 3 (fld n 18 3)) (BitVec.ofNat 3 (fld n 15 3)) = n := by
  simp only [layC31w1G21w4D18w3A15w3, fld, BitVec.toNat_ofNat, Nat.mod_mod, Nat.reducePow, Nat.div_one] at *
  omega

theorem word_C31w1G21w4D18w3V15w3 {n base v0 v25 : Nat} (hn : n < 2 ^ 32) (h : fld n 0 15 = v0 ∧ fld n 25 6 = v25) (hB : base = v0 * 2 ^ 0 + v25 * 2 ^ 25) :
    layC31w1G21w4D18w3V15w3 base (BitVec.ofNat 1 (fld n 31 1)) (BitVec.ofNat 4 (fld n 21 4)) (BitVec.ofNat 3 (fld n 18 3)) (BitVec.ofNat 3 (fld n 15 3)) = n := by
  simp only [layC31w1G21w4D18w3V15w3, fld, BitVec.toNat_ofNat, Nat.mod_mod, Nat.reducePow, Nat.div_one] at *
  omega

theorem word_C31w1G21w4D15w6A9w6B3w6K0w3 {n base v25 : Nat} (hn : n < 2 ^ 32) (h : fld n 25 6 = v25) (hB : base = v25 * 2 ^ 25) :
    layC31w1G21w4D15w6A9w6B3w6K0w3 base (BitVec.ofNat 1 (fld n 31 1)) (BitVec.ofNat 4 (fld n 21 4)) (BitVec.ofNat 6 (fld n 15 6)) (BitVec.ofNat 6 (fld n 9 6)) (BitVec.ofNat 6 (fld n 3 6)) (BitVec.ofNat 3 (fld n 0 3)) = n := by
  simp only [layC31w1G21w4D15w6A9w6B3w6K0w3, fld, BitVec.toNat_ofNat, Nat.mod_mod, Nat.reducePow, Nat.div_one] at *
  omega

theorem word_C31w1G21w4D15w6A9w6X3w3Y0w3 {n base v6 v25 : Nat} (hn : n < 2 ^ 32) (h : fld n 6 3 = v6 ∧ fld n 25 6 = v25) (hB : base = v6 * 2 ^ 6 + v25 * 2 ^ 25) :
    layC31w1G21w4D15w6A9w6X3w3Y0w3 base (BitVec.ofNat 1 (fld n 31 1)) (BitVec.ofNat 4 (fld n 21 4)) (BitVec.ofNat 6 (fld n 15 6)) (BitVec.ofNat 6 (fld n 9 6)) (BitVec.ofNat 3 (fld n 3 3)) (BitVec.ofNat 3 (fld n 0 3)) = n := by
  simp only [layC31w1G21w4D15w6A9w6X3w3Y0w3, fld, BitVec.toNat_ofNat, Nat.mod_mod, Nat.reducePow, Nat.div_one] at *
  omega

theorem word_C31w1G21w4D15w6A9w6K3w3 {n base v0 v6 v25 : Nat} (hn : n < 2 ^ 32) (h : fld n 0 3 = v0 ∧ fld n 6 3 = v6 ∧ fld n 25 6 = v25) (hB : base = v0 * 2 ^ 0 + v6 * 2 ^ 6 + v25 * 2 ^ 25) :
    layC31w1G21w4D15w6A9w6K3w3 base (BitVec.ofNat 1 (fld n 31 1)) (BitVec.ofNat 4 (fld n 21 4)) (BitVec.ofNat 6 (fld n 15 6)) (BitVec.ofNat 6 (fld n 9 6)) (BitVec.ofNat 3 (fld n 3 3)) = n := by
  simp only [layC31w1G21w4D15w6A9w6K3w3, fld, BitVec.toNat_ofNat, Nat.mod_mod, Nat.reducePow, Nat.div_one] at *
  obtain ⟨h0, h6, h25⟩ := h
  have hlow : n % 512 = v0 + n / 8 % 8 * 8 + v6 * 64 := by omega
  clear h0 h6
  generalize n / 8 % 8 = k at *
  omega

theorem word_C31w1G21w4D15w6B9w6P3w6 {n base v0 v25 : Nat} (hn : n < 2 ^ 32) (h : fld n 0 3 = v0 ∧ fld n 25 6 = v25) (hB : base = v0 * 2 ^ 0 + v25 * 2 ^ 25) :
    layC31w1G21w4D15w6B9w6P3w6 base (BitVec.ofNat 1 (fld n 31 1)) (BitVec.ofNat 4 (fld n 21 4)) (BitVec.ofNat 6 (fld n 15 6)) (BitVec.ofNat 6 (fld n 9 6)) (BitVec.ofNat 6 (fld n 3 6)) = n := by
  simp only [layC31w1G21w4D15w6B9w6P3w6, fld, BitVec.toNat_ofNat, Nat.mod_mod, Nat.reducePow, Nat.div_one] at *
  omega

theorem word_C31w1G21w4D15w6B9w6I3w6 {n base v0 v25 : Nat} (hn : n < 2 ^ 32) (h : fld n 0 3 = v0 ∧ fld n 25 6 = v25) (hB : base = v0 * 2 ^ 0 + v25 * 2 ^ 25) :
    layC31w1G21w4D15w6B9w6I3w6 base (BitVec.ofNat 1 (fld n 31 1)) (BitVec.ofNat 4 (fld n 21 4)) (BitVec.ofNat 6 (fld n 15 6)) (BitVec.ofNat 6 (fld n 9 6)) (BitVec.ofNat 6 (fld n 3 6)) = n := by
  simp only [layC31w1G21w4D15w6B9w6I3w6, fld, BitVec.toNat_ofNat, Nat.mod_mod, Nat.reducePow, Nat.div_one] at *
  omega

theorem word_C31w1G21w4D15w6B9w6V3w6 {n base v0 v25 : Nat} (hn : n < 2 ^ 32) (h : fld n 0 3 = v0 ∧ fld n 25 6 = v25) (hB : base = v0 * 2 ^ 0 + v25 * 2 ^ 25) :
    layC31w1G21w4D15w6B9w6V3w6 base (BitVec.ofNat 1 (fld n 31 1)) (BitVec.ofNat 4 (fld n 21 4)) (BitVec.ofNat 6 (fld n 15 6)) (BitVec.ofNat 6 (fld n 9 6)) (BitVec.ofNat 6 (fld n 3 6)) = n := by
  simp only [layC31w1G21w4D15w6B9w6V3w6, fld, BitVec.toNat_ofNat, Nat.mod_mod, Nat.reducePow, Nat.div_one] at *
  omega

theorem word_C31w1G21w4P15w6S9w6K6w3 {n base v0 v25 : Nat} (hn : n < 2 ^ 32) (h : fld n 0 6 = v0 ∧ fld n 25 6 = v25) (hB : base = v0 * 2 ^ 0 + v25 * 2 ^ 25) :
    layC31w1G21w4P15w6S9w6K6w3 base (BitVec.ofNat 1 (fld n 31 1)) (BitVec.ofNat 4 (fld n 21 4)) (BitVec.ofNat 6 (fld n 15 6)) (BitVec.ofNat 6 (fld n 9 6)) (BitVec.ofNat 3 (fld n 6 3)) = n := by
  simp only [layC31w1G21w4P15w6S9w6K6w3, fld, BitVec.toNat_ofNat, Nat.mod_mod, Nat.reducePow, Nat.div_one] at *
  omega

theorem word_C31w1G21w4B9w6P3w6 {n base v0 v15 v25 : Nat} (hn : n < 2 ^ 32) (h : fld n 0 3 = v0 ∧ fld n 15 6 = v15 ∧ fld n 25 6 = v25) (hB : base = v0 * 2 ^ 0 + v15 * 2 ^ 15 + v25 * 2 ^ 25) :
    layC31w1G21w4B9w6P3w6 base (BitVec.ofNat 1 (fld n 31 1)) (BitVec.ofNat 4 (fld n 21 4)) (BitVec.ofNat 6 (fld n 9 6)) (BitVec.ofNat 6 (fld n 3 6)) = n := by
  simp only [layC31w1G21w4B9w6P3w6, fld, BitVec.toNat_ofNat, Nat.mod_mod, Nat.reducePow, Nat.div_one] at *
  omega

theorem word_C31w1G21w4T15w6B9w6L3w6 {n base v0 v25 : Nat} (hn : n < 2 ^ 32) (h : fld n 0 3 = v0 ∧ fld n 25 6 = v25) (hB : base = v0 * 2 ^ 0 + v25 * 2 ^ 25) :
    layC31w1G21w4T15w6B9w6L3w6 base (BitVec.ofNat 1 (fld n 31 1)) (BitVec.ofNat 4 (fld n 21 4)) (BitVec.ofNat 6 (fld n 15 6)) (BitVec.ofNat 6 (fld n 9 6)) (BitVec.ofNat 6 (fld n 3 6)) = n := by
  simp only [layC31w1G21w4T15w6B9w6L3w6, fld, BitVec.toNat_ofNat, Nat.mod_mod, Nat.reducePow, Nat.div_one] at *
  omega

theorem word_C31w1G21w4B9w6L3w6 {n base v0 v15 v25 : Nat} (hn : n < 2 ^ 32) (h : fld n 0 3 = v0 ∧ fld n 15 6 = v15 ∧ fld n 25 6 = v25) (hB : base = v0 * 2 ^ 0 + v15 * 2 ^ 15 + v25 * 2 ^ 25) :
    layC31w1G21w4B9w6L3w6 base (BitVec.ofNat 1 (fld n 31 1)) (BitVec.ofNat 4 (fld n 21 4)) (BitVec.ofNat 6 (fld n 9 6)) (BitVec.ofNat 6 (fld n 3 6)) = n := by
  simp only [layC31w1G21w4B9w6L3w6, fld, BitVec.toNat_ofNat, Nat.mod_mod, Nat.reducePow, Nat.div_one] at *
  omega

theorem word_C31w1G21w4D15w6B9w6L3w6 {n base v0 v25 : Nat} (hn : n < 2 ^ 32) (h : fld n 0 3 = v0 ∧ fld n 25 6 = v25) (hB : base = v0 * 2 ^ 0 + v25 * 2 ^ 25) :
    layC31w1G21w4D15w6B9w6L3w6 base (BitVec.ofNat 1 (fld n 31 1)) (BitVec.ofNat 4 (fld n 21 4)) (BitVec.ofNat 6 (fld n 15 6)) (BitVec.ofNat 6 (fld n 9 6)) (BitVec.ofNat 6 (fld n 3 6)) = n := by
  simp only [layC31w1G21w4D15w6B9w6L3w6, fld, BitVec.toNat_ofNat, Nat.mod_mod, Nat.reducePow, Nat.div_one] at *
  omega

theorem word_C31w1G21w4D15w6B9w6S3w6 {n base v0 v25 : Nat} (hn : n < 2 ^ 32) (h : fld n 0 3 = v0 ∧ fld n 25 6 = v25) (hB : base = v0 * 2 ^ 0 + v25 * 2 ^ 25) :
    layC31w1G21w4D15w6B9w6S3w6 base (BitVec.ofNat 1 (fld n 31 1)) (BitVec.ofNat 4 (fld n 21 4)) (BitVec.ofNat 6 (fld n 15 6)) (BitVec.ofNat 6 (fld n 9 6)) (BitVec.ofNat 6 (fld n 3 6)) = n := by
  simp only [layC31w1G21w4D15w6B9w6S3w6, fld, BitVec.toNat_ofNat, Nat.mod_mod, Nat.reducePow, Nat.div_one] at *
  omega

theorem word_C31w1G21w4B9w6 {n base v0 v15 v25 : Nat} (hn : n < 2 ^ 32) (h : fld n 0 9 = v0 ∧ fld n 15 6 = v15 ∧ fld n 25 6 = v25) (hB : base = v0 * 2 ^ 0 + v15 * 2 ^ 15 + v25 * 2 ^ 25) :
    layC31w1G21w4B9w6 base (BitVec.ofNat 1 (fld n 31 1)) (BitVec.ofNat 4 (fld n 21 4)) (BitVec.ofNat 6 (fld n 9 6)) = n := by
  simp only [layC31w1G21w4B9w6, fld, BitVec.toNat_ofNat, Nat.mod_mod, Nat.reducePow, Nat.div_one] at *
  omega

theorem word_C31w1G21w4D15w6B9w6 {n base v0 v25 : Nat} (hn : n < 2 ^ 32) (h : fld n 0 9 = v0 ∧ fld n 25 6 = v25) (hB : base = v0 * 2 ^ 0 + v25 * 2 ^ 25) :
    layC31w1G21w4D15w6B9w6 base (BitVec.ofNat 1 (fld n 31 1)) (BitVec.ofNat 4 (fld n 21 4)) (BitVec.ofNat 6 (fld n 15 6)) (BitVec.ofNat 6 (fld n 9 6)) = n := by
  simp only [layC31w1G21w4D15w6B9w6, fld, BitVec.toNat_ofNat, Nat.mod_mod, Nat.reducePow, Nat.div_one] at *
  omega

theorem word_C31w1G21w4D15w6S9w6P3w6 {n base v0 v25 : Nat} (hn : n < 2 ^ 32) (h : fld n 0 3 = v0 ∧ fld n 25 6 = v25) (hB : base = v0 * 2 ^ 0 + v25 * 2 ^ 25) :
    layC31w1G21w4D15w6S9w6P3w6 base (BitVec.ofNat 1 (fld n 31 1)) (BitVec.ofNat 4 (fld n 21 4)) (BitVec.ofNat 6 (fld n 15 6)) (BitVec.ofNat 6 (fld n 9 6)) (BitVec.ofNat 6 (fld n 3 6)) = n := by
  simp only [layC31w1G21w4D15w6S9w6P3w6, fld, BitVec.toNat_ofNat, Nat.mod_mod, Nat.reducePow, Nat.div_one] at *
  omega

theorem word_C31w1G21w4D15w6X9w6P3w6 {n base v0 v25 : Nat} (hn : n < 2 ^ 32) (h : fld n 0 3 = v0 ∧ fld n 25 6 = v25) (hB : base = v0 * 2 ^ 0 + v25 * 2 ^ 25) :
    layC31w1G21w4D15w6X9w6P3w6 base (BitVec.ofNat 1 (fld n 31 1)) (BitVec.ofNat 4 (fld n 21 4)) (BitVec.ofNat 6 (fld n 15 6)) (BitVec.ofNat 6 (fld n 9 6)) (BitVec.ofNat 6 (fld n 3 6)) = n := by
  simp only [layC31w1G21w4D15w6X9w6P3w6, fld, BitVec.toNat_ofNat, Nat.mod_mod, Nat.reducePow, Nat.div_one] at *
  omega

theorem word_C31w1G21w4D15w6T9w6I3w6 {n base v0 v25 : Nat} (hn : n < 2 ^ 32) (h : fld n 0 3 = v0 ∧ fld n 25 6 = v25) (hB : base = v0 * 2 ^ 0 + v25 * 2 ^ 25) :
    layC31w1G21w4D15w6T9w6I3w6 base (BitVec.ofNat 1 (fld n 31 1)) (BitVec.ofNat 4 (fld n 21 4)) (BitVec.ofNat 6 (fld n 15 6)) (BitVec.ofNat 6 (fld n 9 6)) (BitVec.ofNat 6 (fld n 3 6)) = n := by
  simp only [layC31w1G21w4D15w6T9w6I3w6, fld, BitVec.toNat_ofNat, Nat.mod_mod, Nat.reducePow, Nat.div_one] at *
  omega

theorem word_C31w1G21w4N9w6 {n base v0 v15 v25 : Nat} (hn : n < 2 ^ 32) (h : fld n 0 9 = v0 ∧ fld n 15 6 = v15 ∧ fld n 25 6 = v25) (hB : base = v0 * 2 ^ 0 + v15 * 2 ^ 15 + v25 * 2 ^ 25) :
    layC31w1G21w4N9w6 base (BitVec.ofNat 1 (fld n 31 1)) (BitVec.ofNat 4 (fld n 21 4)) (BitVec.ofNat 6 (fld n 9 6)) = n := by
  simp only [layC31w1G21w4N9w6, fld, BitVec.toNat_ofNat, Nat.mod_mod, Nat.reducePow, Nat.div_one] at *
  omega

theorem word_C31w1G21w4D15w6A9w6M3w6 {n base v0 v25 : Nat} (hn : n < 2 ^ 32) (h : fld n 0 3 = v0 ∧ fld n 25 6 = v25) (hB : base = v0 * 2 ^ 0 + v25 * 2 ^ 25) :
    layC31w1G21w4D15w6A9w6M3w6 base (BitVec.ofNat 1 (fld n 31 1)) (BitVec.ofNat 4 (fld n 21 4)) (BitVec.ofNat 6 (fld n 15 6)) (BitVec.ofNat 6 (fld n 9 6)) (BitVec.ofNat 6 (fld n 3 6)) = n := by
  simp only [layC31w1G21w4D15w6A9w6M3w6, fld, BitVec.toNat_ofNat, Nat.mod_mod, Nat.reducePow, Nat.div_one] at *
  omega

theorem word_C31w1G21w4N15w6 {n base v0 v25 : Nat} (hn : n < 2 ^ 32) (h : fld n 0 15 = v0 ∧ fld n 25 6 = v25) (hB : base = v0 * 2 ^ 0 + v25 * 2 ^ 25) :
    layC31w1G21w4N15w6 base (BitVec.ofNat 1 (fld n 31 1)) (BitVec.ofNat 4 (fld n 21 4)) (BitVec.ofNat 6 (fld n 15 6)) = n := by
  simp only [layC31w1G21w4N15w6, fld, BitVec.toNat_ofNat, Nat.mod_mod, Nat.reducePow, Nat.div_one] at *
  omega

theorem word_C31w1G21w4N9w6P3w6 {n base v0 v15 v25 : Nat} (hn : n < 2 ^ 32) (h : fld n 0 3 = v0 ∧ fld n 15 6 = v15 ∧ fld n 25 6 = v25) (hB : base = v0 * 2 ^ 0 + v15 * 2 ^ 15 + v25 * 2 ^ 25) :
    layC31w1G21w4N9w6P3w6 base (BitVec.ofNat 1 (fld n 31 1)) (BitVec.ofNat 4 (fld n 21 4)) (BitVec.ofNat 6 (fld n 9 6)) (BitVec.ofNat 6 (fld n 3 6)) = n := by
  simp only [layC31w1G21w4N9w6P3w6, fld, BitVec.toNat_ofNat, Nat.mod_mod, Nat.reducePow, Nat.div_one] at *
  omega

theorem word_C31w1G21w4D15w6A9w6P3w6 {n base v0 v25 : Nat} (hn : n < 2 ^ 32) (h : fld n 0 3 = v0 ∧ fld n 25 6 = v25) (hB : base = v0 * 2 ^ 0 + v25 * 2 ^ 25) :
    layC31w1G21w4D15w6A9w6P3w6 base (BitVec.ofNat 1 (fld n 31 1)) (BitVec.ofNat 4 (fld n 21 4)) (BitVec.ofNat 6 (fld n 15 6)) (BitVec.ofNat 6 (fld n 9 6)) (BitVec.ofNat 6 (fld n 3 6)) = n := by
  simp only [layC31w1G21w4D15w6A9w6P3w6, fld, BitVec.toNat_ofNat, Nat.mod_mod, Nat.reducePow, Nat.div_one] at *
  omega

theorem word_C31w1G21w4S3w6 {n base v0 v9 v25 : Nat} (hn : n < 2 ^ 32) (h : fld n 0 3 = v0 ∧ fld n 9 12 = v9 ∧ fld n 25 6 = v25) (hB : base = v0 * 2 ^ 0 + v9 * 2 ^ 9 + v25 * 2 ^ 25) :
    layC31w1G21w4S3w6 base (BitVec.ofNat 1 (fld n 31 1)) (BitVec.ofNat 4 (fld n 21 4)) (BitVec.ofNat 6 (fld n 3 6)) = n := by
  simp only [layC31w1G21w4S3w6, fld, BitVec.toNat_ofNat, Nat.mod_mod, Nat.reducePow, Nat.div_one] at *
  omega

theorem word_W13w12A9w4B5w4Y4w1L0w3 {n base v3 v25 : Nat} (hn : n < 2 ^ 32) (h : fld n 3 1 = v3 ∧ fld n 25 7 = v25) (hB : base = v3 * 2 ^ 3 + v25 * 2 ^ 25) :
    layW13w12A9w4B5w4Y4w1L0w3 base (BitVec.ofNat 12 (fld n 13 12)) (BitVec.ofNat 4 (fld n 9 4)) (BitVec.ofNat 4 (fld n 5 4)) (BitVec.ofNat 1 (fld n 4 1)) (BitVec.ofNat 3 (fld n 0 3)) = n := by
  simp only [layW13w12A9w4B5w4Y4w1L0w3, fld, BitVec.toNat_ofNat, Nat.mod_mod, Nat.reducePow, Nat.div_one] at *
  omega

theorem word_T20w5S15w5D7w5 {n base v0 v12 v25 : Nat} (hn : n < 2 ^ 32) (h : fld n 0 7 = v0 ∧ fld n 12 3 = v12 ∧ fld n 25 7 = v25) (hB : base = v0 * 2 ^ 0 + v12 * 2 ^ 12 + v25 * 2 ^ 25) :
    layT20w5S15w5D7w5 base (BitVec.ofNat 5 (fld n 20 5)) (BitVec.ofNat 5 (fld n 15 5)) (BitVec.ofNat 5 (fld n 7 5)) = n := by
  simp only [layT20w5S15w5D7w5, fld, BitVec.toNat_ofNat, Nat.mod_mod, Nat.reducePow, Nat.div_one] at *
  omega

theorem word_S15w5D7w5 {n base v0 v12 v20 : Nat} (hn : n < 2 ^ 32) (h : fld n 0 7 = v0 ∧ fld n 12 3 = v12 ∧ fld n 20 12 = v20) (hB : base = v0 * 2 ^ 0 + v12 * 2 ^ 12 + v20 * 2 ^ 20) :
    layS15w5D7w5 base (BitVec.ofNat 5 (fld n 15 5)) (BitVec.ofNat 5 (fld n 7 5)) = n := by
  simp only [layS15w5D7w5, fld, BitVec.toNat_ofNat, Nat.mod_mod, Nat.reducePow, Nat.div_one] at *
  omega

/-! ### The rows -/

/-- What a decoder answers is encoded as the word it was read from. -/
def Exact (n : Nat) (o : Option Instr) : Prop := ∀ i, o = some i → encodeNat i = some n

theorem exact_none (n : Nat) : Exact n none := fun _ h => nomatch h

theorem exact_row {n : Nat} {p : Prop} [Decidable p] {i : Instr} {o : Option Instr} (hi : p → encodeNat i = some n) (ho : Exact n o) :
    Exact n (if p then some i else o) := by
  split
  · rename_i hp
    rintro _ ⟨⟩
    exact hi hp
  · exact ho

theorem exact_orElse {n : Nat} {a b : Option Instr} (ha : Exact n a) (hb : Exact n b) : Exact n (a.orElse fun _ => b) := by
  cases a with
  | none => exact hb
  | some i => exact ha

theorem decodeMajor00_exact {n : Nat} (hn : n < 2 ^ 32) : Exact n (decodeMajor00 n) := by
  unfold decodeMajor00
  iterate 2 refine exact_row (fun h => congrArg some (word_C31w1G21w4 hn h rfl)) ?_
  iterate 2 refine exact_row (fun h => congrArg some (word_C31w1G21w4D15w6 hn h rfl)) ?_
  exact exact_none n

theorem decodeMajor01_exact {n : Nat} (hn : n < 2 ^ 32) : Exact n (decodeMajor01 n) := by
  unfold decodeMajor01
  iterate 4 refine exact_row (fun h => congrArg some (word_G21w4I0w19 hn h rfl)) ?_
  exact exact_none n

theorem decodeMajor02_exact {n : Nat} (hn : n < 2 ^ 32) : Exact n (decodeMajor02 n) := by
  unfold decodeMajor02
  refine exact_row (fun h => congrArg some (word_I0w25 hn h rfl)) ?_
  exact exact_none n

theorem decodeMajor03_exact {n : Nat} (hn : n < 2 ^ 32) : Exact n (decodeMajor03 n) := by
  unfold decodeMajor03
  refine exact_row (fun h => congrArg some (word_I0w25 hn h rfl)) ?_
  exact exact_none n

theorem decodeMajor04_exact {n : Nat} (hn : n < 2 ^ 32) : Exact n (decodeMajor04 n) := by
  unfold decodeMajor04
  iterate 2 refine exact_row (fun h => congrArg some (word_G21w4A9w6 hn h rfl)) ?_
  iterate 2 refine exact_row (fun h => congrArg some (word_G21w4 hn h rfl)) ?_
  exact exact_none n

theorem decodeMajor05_exact {n : Nat} (hn : n < 2 ^ 32) : Exact n (decodeMajor05 n) := by
  unfold decodeMajor05
  iterate 8 refine exact_row (fun h => congrArg some (word_C31w1G21w4D15w6A9w6B3w6 hn h rfl)) ?_
  exact exact_none n

theorem decodeMajor06_exact {n : Nat} (hn : n < 2 ^ 32) : Exact n (decodeMajor06 n) := by
  unfold decodeMajor06
  iterate 8 refine exact_row (fun h => congrArg some (word_C31w1G21w4D15w6A9w6B3w6 hn h rfl)) ?_
  exact exact_none n

theorem decodeMajor07_exact {n : Nat} (hn : n < 2 ^ 32) : Exact n (decodeMajor07 n) := by
  unfold decodeMajor07
  iterate 8 refine exact_row (fun h => congrArg some (word_C31w1G21w4D15w6A9w6B3w6 hn h rfl)) ?_
  exact exact_none n

theorem decodeMajor08_exact {n : Nat} (hn : n < 2 ^ 32) : Exact n (decodeMajor08 n) := by
  unfold decodeMajor08
  iterate 8 refine exact_row (fun h => congrArg some (word_C31w1G21w4D15w6A9w6B3w6 hn h rfl)) ?_
  exact exact_none n

theorem decodeMajor09_exact {n : Nat} (hn : n < 2 ^ 32) : Exact n (decodeMajor09 n) := by
  unfold decodeMajor09
  refine exact_row (fun h => congrArg some (word_C31w1G21w4D15w6A9w6I0w9 hn h rfl)) ?_
  exact exact_none n

theorem decodeMajor0A_exact {n : Nat} (hn : n < 2 ^ 32) : Exact n (decodeMajor0A n) := by
  unfold decodeMajor0A
  refine exact_row (fun h => congrArg some (word_C31w1G21w4D15w6A9w6I0w9 hn h rfl)) ?_
  exact exact_none n

theorem decodeMajor0B_exact {n : Nat} (hn : n < 2 ^ 32) : Exact n (decodeMajor0B n) := by
  unfold decodeMajor0B
  iterate 4 refine exact_row (fun h => congrArg some (word_C31w1G21w4D15w6A9w6I0w5 hn h rfl)) ?_
  iterate 4 refine exact_row (fun h => congrArg some (word_C31w1G21w4D15w6A9w6I0w6 hn h rfl)) ?_
  exact exact_none n

theorem decodeMajor0C_exact {n : Nat} (hn : n < 2 ^ 32) : Exact n (decodeMajor0C n) := by
  unfold decodeMajor0C
  refine exact_row (fun h => congrArg some (word_C31w1G21w4D15w6I0w15 hn h rfl)) ?_
  exact exact_none n

theorem decodeMajor0D_exact {n : Nat} (hn : n < 2 ^ 32) : Exact n (decodeMajor0D n) := by
  unfold decodeMajor0D
  iterate 8 refine exact_row (fun h => congrArg some (word_C31w1G21w4D15w6A9w6B3w6 hn h rfl)) ?_
  exact exact_none n

theorem decodeMajor0E_exact {n : Nat} (hn : n < 2 ^ 32) : Exact n (decodeMajor0E n) := by
  unfold decodeMajor0E
  iterate 14 refine exact_row (fun h => congrArg some (word_C31w1G21w4D15w6A9w6 hn h rfl)) ?_
  refine exact_row (fun h => congrArg some (word_C31w1G21w4D15w6K9w6 hn h rfl)) ?_
  refine exact_row (fun h => congrArg some (word_C31w1G21w4D15w6S9w6 hn h rfl)) ?_
  refine exact_row (fun h => congrArg some (word_C31w1G21w4S15w6A9w6 hn h rfl)) ?_
  refine exact_row (fun h => congrArg some (word_C31w1G21w4D15w6A9w6 hn h rfl)) ?_
  exact exact_none n

theorem decodeMajor0F_exact {n : Nat} (hn : n < 2 ^ 32) : Exact n (decodeMajor0F n) := by
  unfold decodeMajor0F
  iterate 3 refine exact_row (fun h => congrArg some (word_C31w1G21w4D15w6A9w6B3w6 hn h rfl)) ?_
  exact exact_none n

theorem decodeMajor10_exact {n : Nat} (hn : n < 2 ^ 32) : Exact n (decodeMajor10 n) := by
  unfold decodeMajor10
  iterate 12 refine exact_row (fun h => congrArg some (word_C31w1G21w4P19w2T16w3A6w6B0w6 hn h rfl)) ?_
  exact exact_none n

theorem decodeMajor11_exact {n : Nat} (hn : n < 2 ^ 32) : Exact n (decodeMajor11 n) := by
  unfold decodeMajor11
  iterate 3 refine exact_row (fun h => congrArg some (word_C31w1G21w4D18w3A15w3B12w3 hn h rfl)) ?_
  iterate 4 refine exact_row (fun h => congrArg some (word_C31w1G21w4D18w3A15w3 hn h rfl)) ?_
  refine exact_row (fun h => congrArg some (word_C31w1G21w4D18w3V15w3 hn h rfl)) ?_
  exact exact_none n

theorem decodeMajor12_exact {n : Nat} (hn : n < 2 ^ 32) : Exact n (decodeMajor12 n) := by
  unfold decodeMajor12
  iterate 4 refine exact_row (fun h => congrArg some (word_C31w1G21w4D15w6A9w6 hn h rfl)) ?_
  iterate 4 refine exact_row (fun h => congrArg some (word_C31w1G21w4D15w6A9w6B3w6 hn h rfl)) ?_
  exact exact_none n

theorem decodeMajor13_exact {n : Nat} (hn : n < 2 ^ 32) : Exact n (decodeMajor13 n) := by
  unfold decodeMajor13
  iterate 8 refine exact_row (fun h => congrArg some (word_C31w1G21w4D15w6A9w6B3w6 hn h rfl)) ?_
  exact exact_none n

theorem decodeMajor14_exact {n : Nat} (hn : n < 2 ^ 32) : Exact n (decodeMajor14 n) := by
  unfold decodeMajor14
  refine exact_row (fun h => congrArg some (word_C31w1G21w4D15w6A9w6B3w6K0w3 hn h rfl)) ?_
  exact exact_none n

theorem decodeMajor15_exact {n : Nat} (hn : n < 2 ^ 32) : Exact n (decodeMajor15 n) := by
  unfold decodeMajor15
  iterate 2 refine exact_row (fun h => congrArg some (word_C31w1G21w4D15w6A9w6B3w6 hn h rfl)) ?_
  exact exact_none n

theorem decodeMajor18_exact {n : Nat} (hn : n < 2 ^ 32) : Exact n (decodeMajor18 n) := by
  unfold decodeMajor18
  iterate 7 refine exact_row (fun h => congrArg some (word_C31w1G21w4D15w6A9w6B3w6 hn h rfl)) ?_
  exact exact_none n

theorem decodeMajor19_exact {n : Nat} (hn : n < 2 ^ 32) : Exact n (decodeMajor19 n) := by
  unfold decodeMajor19
  iterate 7 refine exact_row (fun h => congrArg some (word_C31w1G21w4D15w6A9w6B3w6 hn h rfl)) ?_
  exact exact_none n

theorem decodeMajor1A_exact {n : Nat} (hn : n < 2 ^ 32) : Exact n (decodeMajor1A n) := by
  unfold decodeMajor1A
  iterate 8 refine exact_row (fun h => congrArg some (word_C31w1G21w4D15w6A9w6B3w6 hn h rfl)) ?_
  exact exact_none n

theorem decodeMajor1B_exact {n : Nat} (hn : n < 2 ^ 32) : Exact n (decodeMajor1B n) := by
  unfold decodeMajor1B
  iterate 8 refine exact_row (fun h => congrArg some (word_C31w1G21w4D15w6A9w6B3w6 hn h rfl)) ?_
  exact exact_none n

theorem decodeMajor1C_exact {n : Nat} (hn : n < 2 ^ 32) : Exact n (decodeMajor1C n) := by
  unfold decodeMajor1C
  iterate 8 refine exact_row (fun h => congrArg some (word_C31w1G21w4D15w6A9w6B3w6 hn h rfl)) ?_
  exact exact_none n

theorem decodeMajor1D_exact {n : Nat} (hn : n < 2 ^ 32) : Exact n (decodeMajor1D n) := by
  unfold decodeMajor1D
  iterate 8 refine exact_row (fun h => congrArg some (word_C31w1G21w4D15w6A9w6B3w6 hn h rfl)) ?_
  exact exact_none n

theorem decodeMajor1E_exact {n : Nat} (hn : n < 2 ^ 32) : Exact n (decodeMajor1E n) := by
  unfold decodeMajor1E
  iterate 22 refine exact_row (fun h => congrArg some (word_C31w1G21w4D15w6A9w6 hn h rfl)) ?_
  exact exact_none n

theorem decodeMajor1F_exact {n : Nat} (hn : n < 2 ^ 32) : Exact n (decodeMajor1F n) := by
  unfold decodeMajor1F
  iterate 4 refine exact_row (fun h => congrArg some (word_C31w1G21w4D15w6A9w6X3w3Y0w3 hn h rfl)) ?_
  iterate 12 refine exact_row (fun h => congrArg some (word_C31w1G21w4D15w6A9w6 hn h rfl)) ?_
  exact exact_none n

theorem decodeMajor20_exact {n : Nat} (hn : n < 2 ^ 32) : Exact n (decodeMajor20 n) := by
  unfold decodeMajor20
  iterate 8 refine exact_row (fun h => congrArg some (word_C31w1G21w4P19w2T16w3A6w6B0w6 hn h rfl)) ?_
  exact exact_none n

theorem decodeMajor21_exact {n : Nat} (hn : n < 2 ^ 32) : Exact n (decodeMajor21 n) := by
  unfold decodeMajor21
  iterate 8 refine exact_row (fun h => congrArg some (word_C31w1G21w4P19w2T16w3A6w6B0w6 hn h rfl)) ?_
  exact exact_none n

theorem decodeMajor22_exact {n : Nat} (hn : n < 2 ^ 32) : Exact n (decodeMajor22 n) := by
  unfold decodeMajor22
  iterate 10 refine exact_row (fun h => congrArg some (word_C31w1G21w4P19w2T16w3A6w6B0w6 hn h rfl)) ?_
  exact exact_none n

theorem decodeMajor23_exact {n : Nat} (hn : n < 2 ^ 32) : Exact n (decodeMajor23 n) := by
  unfold decodeMajor23
  iterate 10 refine exact_row (fun h => congrArg some (word_C31w1G21w4P19w2T16w3A6w6B0w6 hn h rfl)) ?_
  exact exact_none n

theorem decodeMajor24_exact {n : Nat} (hn : n < 2 ^ 32) : Exact n (decodeMajor24 n) := by
  unfold decodeMajor24
  iterate 2 refine exact_row (fun h => congrArg some (word_C31w1G21w4D15w6A9w6B3w6 hn h rfl)) ?_
  iterate 2 refine exact_row (fun h => congrArg some (word_C31w1G21w4D15w6A9w6K3w3 hn h rfl)) ?_
  iterate 2 refine exact_row (fun h => congrArg some (word_C31w1G21w4D15w6A9w6B3w6 hn h rfl)) ?_
  exact exact_none n

theorem decodeMajor25_exact {n : Nat} (hn : n < 2 ^ 32) : Exact n (decodeMajor25 n) := by
  unfold decodeMajor25
  iterate 8 refine exact_row (fun h => congrArg some (word_C31w1G21w4D15w6A9w6B3w6 hn h rfl)) ?_
  exact exact_none n

theorem decodeMajor28_exact {n : Nat} (hn : n < 2 ^ 32) : Exact n (decodeMajor28 n) := by
  unfold decodeMajor28
  iterate 8 refine exact_row (fun h => congrArg some (word_C31w1G21w4D15w6B9w6P3w6 hn h rfl)) ?_
  exact exact_none n

theorem decodeMajor29_exact {n : Nat} (hn : n < 2 ^ 32) : Exact n (decodeMajor29 n) := by
  unfold decodeMajor29
  iterate 7 refine exact_row (fun h => congrArg some (word_C31w1G21w4D15w6B9w6P3w6 hn h rfl)) ?_
  exact exact_none n

theorem decodeMajor2A_exact {n : Nat} (hn : n < 2 ^ 32) : Exact n (decodeMajor2A n) := by
  unfold decodeMajor2A
  iterate 8 refine exact_row (fun h => congrArg some (word_C31w1G21w4D15w6B9w6I3w6 hn h rfl)) ?_
  exact exact_none n

theorem decodeMajor2B_exact {n : Nat} (hn : n < 2 ^ 32) : Exact n (decodeMajor2B n) := by
  unfold decodeMajor2B
  iterate 5 refine exact_row (fun h => congrArg some (word_C31w1G21w4D15w6B9w6I3w6 hn h rfl)) ?_
  exact exact_none n

theorem decodeMajor2C_exact {n : Nat} (hn : n < 2 ^ 32) : Exact n (decodeMajor2C n) := by
  unfold decodeMajor2C
  iterate 4 refine exact_row (fun h => congrArg some (word_C31w1G21w4D15w6B9w6P3w6 hn h rfl)) ?_
  iterate 4 refine exact_row (fun h => congrArg some (word_C31w1G21w4D15w6B9w6I3w6 hn h rfl)) ?_
  exact exact_none n

theorem decodeMajor2D_exact {n : Nat} (hn : n < 2 ^ 32) : Exact n (decodeMajor2D n) := by
  unfold decodeMajor2D
  iterate 4 refine exact_row (fun h => congrArg some (word_C31w1G21w4D15w6B9w6P3w6 hn h rfl)) ?_
  iterate 4 refine exact_row (fun h => congrArg some (word_C31w1G21w4D15w6B9w6I3w6 hn h rfl)) ?_
  exact exact_none n

theorem decodeMajor2E_exact {n : Nat} (hn : n < 2 ^ 32) : Exact n (decodeMajor2E n) := by
  unfold decodeMajor2E
  iterate 8 refine exact_row (fun h => congrArg some (word_C31w1G21w4D15w6B9w6V3w6 hn h rfl)) ?_
  exact exact_none n

theorem decodeMajor2F_exact {n : Nat} (hn : n < 2 ^ 32) : Exact n (decodeMajor2F n) := by
  unfold decodeMajor2F
  iterate 8 refine exact_row (fun h => congrArg some (word_C31w1G21w4D15w6B9w6V3w6 hn h rfl)) ?_
  exact exact_none n

theorem decodeMajor30_exact {n : Nat} (hn : n < 2 ^ 32) : Exact n (decodeMajor30 n) := by
  unfold decodeMajor30
  iterate 8 refine exact_row (fun h => congrArg some (word_C31w1G21w4D15w6B9w6V3w6 hn h rfl)) ?_
  exact exact_none n

theorem decodeMajor31_exact {n : Nat} (hn : n < 2 ^ 32) : Exact n (decodeMajor31 n) := by
  unfold decodeMajor31
  iterate 8 refine exact_row (fun h => congrArg some (word_C31w1G21w4D15w6B9w6V3w6 hn h rfl)) ?_
  exact exact_none n

theorem decodeMajor32_exact {n : Nat} (hn : n < 2 ^ 32) : Exact n (decodeMajor32 n) := by
  unfold decodeMajor32
  refine exact_row (fun h => congrArg some (word_C31w1G21w4P15w6S9w6K6w3 hn h rfl)) ?_
  exact exact_none n

theorem decodeMajor33_exact {n : Nat} (hn : n < 2 ^ 32) : Exact n (decodeMajor33 n) := by
  unfold decodeMajor33
  refine exact_row (fun h => congrArg some (word_C31w1G21w4B9w6P3w6 hn h rfl)) ?_
  refine exact_row (fun h => congrArg some (word_C31w1G21w4T15w6B9w6L3w6 hn h rfl)) ?_
  iterate 2 refine exact_row (fun h => congrArg some (word_C31w1G21w4B9w6L3w6 hn h rfl)) ?_
  refine exact_row (fun h => congrArg some (word_C31w1G21w4D15w6B9w6L3w6 hn h rfl)) ?_
  exact exact_none n

theorem decodeMajor34_exact {n : Nat} (hn : n < 2 ^ 32) : Exact n (decodeMajor34 n) := by
  unfold decodeMajor34
  refine exact_row (fun h => congrArg some (word_C31w1G21w4D15w6B9w6S3w6 hn h rfl)) ?_
  iterate 2 refine exact_row (fun h => congrArg some (word_C31w1G21w4D15w6B9w6P3w6 hn h rfl)) ?_
  refine exact_row (fun h => congrArg some (word_C31w1G21w4D15w6B9w6L3w6 hn h rfl)) ?_
  refine exact_row (fun h => congrArg some (word_C31w1G21w4D15w6B9w6P3w6 hn h rfl)) ?_
  exact exact_none n

theorem decodeMajor35_exact {n : Nat} (hn : n < 2 ^ 32) : Exact n (decodeMajor35 n) := by
  unfold decodeMajor35
  iterate 3 refine exact_row (fun h => congrArg some (word_C31w1G21w4B9w6 hn h rfl)) ?_
  refine exact_row (fun h => congrArg some (word_C31w1G21w4D15w6B9w6 hn h rfl)) ?_
  exact exact_none n

theorem decodeMajor36_exact {n : Nat} (hn : n < 2 ^ 32) : Exact n (decodeMajor36 n) := by
  unfold decodeMajor36
  iterate 3 refine exact_row (fun h => congrArg some (word_C31w1G21w4D15w6S9w6P3w6 hn h rfl)) ?_
  refine exact_row (fun h => congrArg some (word_C31w1G21w4D15w6X9w6P3w6 hn h rfl)) ?_
  exact exact_none n

theorem decodeMajor37_exact {n : Nat} (hn : n < 2 ^ 32) : Exact n (decodeMajor37 n) := by
  unfold decodeMajor37
  iterate 2 refine exact_row (fun h => congrArg some (word_C31w1G21w4B9w6 hn h rfl)) ?_
  refine exact_row (fun h => congrArg some (word_C31w1G21w4D15w6B9w6 hn h rfl)) ?_
  refine exact_row (fun h => congrArg some (word_C31w1G21w4B9w6 hn h rfl)) ?_
  exact exact_none n

theorem decodeMajor38_exact {n : Nat} (hn : n < 2 ^ 32) : Exact n (decodeMajor38 n) := by
  unfold decodeMajor38
  refine exact_row (fun h => congrArg some (word_C31w1G21w4D15w6B9w6P3w6 hn h rfl)) ?_
  refine exact_row (fun h => congrArg some (word_C31w1G21w4D15w6T9w6I3w6 hn h rfl)) ?_
  refine exact_row (fun h => congrArg some (word_C31w1G21w4N9w6 hn h rfl)) ?_
  refine exact_row (fun h => congrArg some (word_C31w1G21w4D15w6B9w6 hn h rfl)) ?_
  refine exact_row (fun h => congrArg some (word_C31w1G21w4D15w6A9w6M3w6 hn h rfl)) ?_
  iterate 2 refine exact_row (fun h => congrArg some (word_C31w1G21w4N15w6 hn h rfl)) ?_
  refine exact_row (fun h => congrArg some (word_C31w1G21w4N9w6P3w6 hn h rfl)) ?_
  exact exact_none n

theorem decodeMajor39_exact {n : Nat} (hn : n < 2 ^ 32) : Exact n (decodeMajor39 n) := by
  unfold decodeMajor39
  refine exact_row (fun h => congrArg some (word_C31w1G21w4B9w6P3w6 hn h rfl)) ?_
  iterate 2 refine exact_row (fun h => congrArg some (word_C31w1G21w4D15w6B9w6I3w6 hn h rfl)) ?_
  refine exact_row (fun h => congrArg some (word_C31w1G21w4D15w6A9w6P3w6 hn h rfl)) ?_
  refine exact_row (fun h => congrArg some (word_C31w1G21w4D15w6B9w6P3w6 hn h rfl)) ?_
  exact exact_none n

theorem decodeMajor3A_exact {n : Nat} (hn : n < 2 ^ 32) : Exact n (decodeMajor3A n) := by
  unfold decodeMajor3A
  iterate 4 refine exact_row (fun h => congrArg some (word_C31w1G21w4B9w6P3w6 hn h rfl)) ?_
  refine exact_row (fun h => congrArg some (word_C31w1G21w4S3w6 hn h rfl)) ?_
  refine exact_row (fun h => congrArg some (word_C31w1G21w4B9w6 hn h rfl)) ?_
  exact exact_none n

theorem decodeMajor3B_exact {n : Nat} (hn : n < 2 ^ 32) : Exact n (decodeMajor3B n) := by
  unfold decodeMajor3B
  iterate 2 refine exact_row (fun h => congrArg some (word_C31w1G21w4D15w6 hn h rfl)) ?_
  iterate 2 refine exact_row (fun h => congrArg some (word_C31w1G21w4D15w6B9w6P3w6 hn h rfl)) ?_
  exact exact_none n

theorem decodeMajor3C_exact {n : Nat} (hn : n < 2 ^ 32) : Exact n (decodeMajor3C n) := by
  unfold decodeMajor3C
  refine exact_row (fun h => congrArg some (word_C31w1G21w4B9w6 hn h rfl)) ?_
  refine exact_row (fun h => congrArg some (word_C31w1G21w4 hn h rfl)) ?_
  refine exact_row (fun h => congrArg some (word_C31w1G21w4D15w6B9w6 hn h rfl)) ?_
  refine exact_row (fun h => congrArg some (word_C31w1G21w4B9w6 hn h rfl)) ?_
  refine exact_row (fun h => congrArg some (word_C31w1G21w4 hn h rfl)) ?_
  refine exact_row (fun h => congrArg some (word_C31w1G21w4D15w6 hn h rfl)) ?_
  refine exact_row (fun h => congrArg some (word_C31w1G21w4B9w6 hn h rfl)) ?_
  refine exact_row (fun h => congrArg some (word_C31w1G21w4D15w6 hn h rfl)) ?_
  exact exact_none n

theorem decodeMajor3F_exact {n : Nat} (hn : n < 2 ^ 32) : Exact n (decodeMajor3F n) := by
  unfold decodeMajor3F
  refine exact_row (fun h => congrArg some (word_W13w12A9w4B5w4Y4w1L0w3 hn h rfl)) ?_
  exact exact_none n

theorem decodeKiln_exact {n : Nat} (hn : n < 2 ^ 32) : Exact n (decodeKiln n) := by
  unfold decodeKiln
  iterate 2 refine exact_row (fun h => congrArg some (word_T20w5S15w5D7w5 hn h rfl)) ?_
  refine exact_row (fun h => congrArg some (word_S15w5D7w5 hn h rfl)) ?_
  refine exact_row (fun h => congrArg some (word_T20w5S15w5D7w5 hn h rfl)) ?_
  exact exact_none n

theorem decodeRow_exact {n : Nat} (hn : n < 2 ^ 32) : Exact n (decodeRow n) := by
  unfold decodeRow
  split
  · exact exact_orElse (decodeMajor00_exact hn) (decodeKiln_exact hn)
  · exact decodeMajor01_exact hn
  · exact decodeMajor02_exact hn
  · exact decodeMajor03_exact hn
  · exact decodeMajor04_exact hn
  · exact decodeMajor05_exact hn
  · exact decodeMajor06_exact hn
  · exact decodeMajor07_exact hn
  · exact decodeMajor08_exact hn
  · exact decodeMajor09_exact hn
  · exact decodeMajor0A_exact hn
  · exact decodeMajor0B_exact hn
  · exact decodeMajor0C_exact hn
  · exact decodeMajor0D_exact hn
  · exact decodeMajor0E_exact hn
  · exact decodeMajor0F_exact hn
  · exact decodeMajor10_exact hn
  · exact decodeMajor11_exact hn
  · exact decodeMajor12_exact hn
  · exact decodeMajor13_exact hn
  · exact decodeMajor14_exact hn
  · exact decodeMajor15_exact hn
  · exact decodeMajor18_exact hn
  · exact decodeMajor19_exact hn
  · exact decodeMajor1A_exact hn
  · exact decodeMajor1B_exact hn
  · exact decodeMajor1C_exact hn
  · exact decodeMajor1D_exact hn
  · exact decodeMajor1E_exact hn
  · exact decodeMajor1F_exact hn
  · exact decodeMajor20_exact hn
  · exact decodeMajor21_exact hn
  · exact decodeMajor22_exact hn
  · exact decodeMajor23_exact hn
  · exact decodeMajor24_exact hn
  · exact decodeMajor25_exact hn
  · exact decodeMajor28_exact hn
  · exact decodeMajor29_exact hn
  · exact decodeMajor2A_exact hn
  · exact decodeMajor2B_exact hn
  · exact decodeMajor2C_exact hn
  · exact decodeMajor2D_exact hn
  · exact decodeMajor2E_exact hn
  · exact decodeMajor2F_exact hn
  · exact decodeMajor30_exact hn
  · exact decodeMajor31_exact hn
  · exact decodeMajor32_exact hn
  · exact decodeMajor33_exact hn
  · exact decodeMajor34_exact hn
  · exact decodeMajor35_exact hn
  · exact decodeMajor36_exact hn
  · exact decodeMajor37_exact hn
  · exact decodeMajor38_exact hn
  · exact decodeMajor39_exact hn
  · exact decodeMajor3A_exact hn
  · exact decodeMajor3B_exact hn
  · exact decodeMajor3C_exact hn
  · exact decodeMajor3F_exact hn
  · exact exact_none n

/-- Settles O28: the decoder answers what a row answers, and the word of that is the word read. -/
theorem wordsHaveOneMeaning : Obligations.WordsHaveOneMeaning := by
  intro w i h
  have hn : w.toNat < 2 ^ 32 := w.isLt
  have hrow : (decodeKiln w.toNat).orElse (fun _ => decodeRow w.toNat) = some i := by
    simp only [decode] at h
    split at h
    · split at h <;> exact nomatch h
    · rename_i j hj
      split at h
      · exact hj.trans (congrArg some (Except.ok.inj h))
      · exact nomatch h
  rw [encode, exact_orElse (decodeKiln_exact hn) (decodeRow_exact hn) i hrow, Option.map_some, BitVec.ofNat_toNat, BitVec.setWidth_eq]

end Sys2Proof.Laws
end

section
/-!
SUPPORT. The integer words (R110 to R115, R120): the bit-vector functions of the machine beside the manual's integers, at both widths, and the words that
land them.
-/

namespace Sys2Proof.Machine

open Claim

/-! ### Functions at both widths -/

/-- A function on bit vectors gives, at the widths of the integer words, the low bits of the integers of a row of R111. -/
def Computes (f : (n : Nat) → BitVec n → BitVec n → BitVec n) (v : Nat → Word → Word → Int) : Prop :=
  ∀ n, n = 32 ∨ n = 64 → ∀ x y : Word, f n (x.setWidth n) (y.setWidth n) = BitVec.ofInt n (v n x y)

section
variable {n : Nat}

theorem ofInt_sub (x y : Int) : BitVec.ofInt n (x - y) = BitVec.ofInt n x - BitVec.ofInt n y := by
  rw [Int.sub_eq_add_neg, BitVec.ofInt_add, BitVec.ofInt_neg, BitVec.sub_eq_add_neg]

theorem ofInt_toNat (x : Word) : BitVec.ofInt n (x.toNat : Int) = x.setWidth n := by
  rw [BitVec.ofInt_natCast, BitVec.ofNat_toNat]

theorem setWidth_lt (x y : Word) : (x.setWidth n).ult (y.setWidth n) = decide (un n x < un n y) := by
  rw [un_eq_toNat, un_eq_toNat, BitVec.ult_eq_decide]
  norm_cast

theorem setWidth_slt (hn : 0 < n) (x y : Word) : (x.setWidth n).slt (y.setWidth n) = decide (sn n x < sn n y) := by
  rw [sn_eq_toInt hn, sn_eq_toInt hn, BitVec.slt_eq_decide]

/-- A count in the low bits of a register is the same at each width. -/
theorem setWidth_toNat_mod (hn : n = 32 ∨ n = 64) (y : Word) : (y.setWidth n).toNat % n = y.toNat % n := by
  rw [BitVec.toNat_setWidth]
  obtain rfl | rfl := hn <;> omega

theorem shiftLeft_eq_ofInt (x : Word) (k : Nat) : x.setWidth n <<< k = BitVec.ofInt n (un n x * 2 ^ k) := by
  rw [un_eq_toNat, show ((x.setWidth n).toNat : Int) * 2 ^ k = ((x.setWidth n).toNat * 2 ^ k : Nat) by push_cast; rfl, BitVec.ofInt_natCast]
  apply BitVec.eq_of_toNat_eq
  simp [Nat.shiftLeft_eq]

theorem ushiftRight_eq_ofInt (x : Word) (k : Nat) : x.setWidth n >>> k = BitVec.ofInt n (un n x / 2 ^ k) := by
  rw [un_eq_toNat, show ((x.setWidth n).toNat : Int) / 2 ^ k = ((x.setWidth n).toNat / 2 ^ k : Nat) by push_cast; rfl, BitVec.ofInt_natCast]
  apply BitVec.eq_of_toNat_eq
  rw [BitVec.toNat_ushiftRight, BitVec.toNat_ofNat, Nat.shiftRight_eq_div_pow, Nat.mod_eq_of_lt]
  exact Nat.lt_of_le_of_lt (Nat.div_le_self _ _) (x.setWidth n).isLt

theorem sshiftRight_eq_ofInt (hn : 0 < n) (x : Word) (k : Nat) : (x.setWidth n).sshiftRight k = BitVec.ofInt n (sn n x / 2 ^ k) := by
  rw [sn_eq_toInt hn, ← BitVec.ofInt_toInt (x := (x.setWidth n).sshiftRight k), BitVec.toInt_sshiftRight, Int.shiftRight_eq_div_pow]
  push_cast
  rfl

/-- The two parts of a rotated value have no bit in common. -/
theorem rotate_eq_add (x : BitVec n) {k : Nat} (hk : k < n) : x <<< k ||| x >>> ((n - k) % n) =
    x <<< k + (if k = 0 then 0 else x >>> (n - k)) := by
  obtain rfl | hpos := Nat.eq_zero_or_pos k
  · simp
  · rw [if_neg (by omega), Nat.mod_eq_of_lt (by omega)]
    refine (BitVec.add_eq_or_of_and_eq_zero _ _ (BitVec.eq_of_getLsbD_eq fun i hi => ?_)).symm
    by_cases hik : i < k
    · simp [hik]
    · simp [BitVec.getLsbD_of_ge x (n - k + i) (by omega)]

theorem un_div_pow (x : Word) : un n x / 2 ^ n = 0 :=
  Int.ediv_eq_zero_of_lt (Int.emod_nonneg _ (by positivity)) (Int.emod_lt_of_pos _ (by positivity))

theorem rot_eq_ofInt (x : Word) {k : Nat} (hk : k < n) :
    x.setWidth n <<< k ||| x.setWidth n >>> ((n - k) % n) = BitVec.ofInt n (un n x * 2 ^ k + un n x / 2 ^ (n - k)) := by
  rw [rotate_eq_add _ hk, BitVec.ofInt_add, ← shiftLeft_eq_ofInt, ← ushiftRight_eq_ofInt]
  split
  · subst k
    rw [Nat.sub_zero, ushiftRight_eq_ofInt, un_div_pow]
    rfl
  · rfl

end

theorem Computes.add : Computes (fun _ x y => x + y) fun n x y => un n x + un n y := by
  intro n _ x y
  rw [BitVec.ofInt_add, ofInt_un, ofInt_un]

theorem Computes.sub : Computes (fun _ x y => x - y) fun n x y => un n x - un n y := by
  intro n _ x y
  rw [ofInt_sub, ofInt_un, ofInt_un]

theorem Computes.mul : Computes (fun _ x y => x * y) fun n x y => un n x * un n y := by
  intro n _ x y
  rw [BitVec.ofInt_mul, ofInt_un, ofInt_un]

theorem Computes.and : Computes (fun _ x y => x &&& y) fun _ x y => ((x &&& y).toNat : Int) := by
  intro n _ x y
  rw [ofInt_toNat, BitVec.setWidth_and]

theorem Computes.or : Computes (fun _ x y => x ||| y) fun _ x y => ((x ||| y).toNat : Int) := by
  intro n _ x y
  rw [ofInt_toNat, BitVec.setWidth_or]

theorem Computes.xor : Computes (fun _ x y => x ^^^ y) fun _ x y => ((x ^^^ y).toNat : Int) := by
  intro n _ x y
  rw [ofInt_toNat, BitVec.setWidth_xor]

theorem Computes.andn : Computes (fun _ x y => x &&& ~~~y) fun _ x y => ((x &&& ~~~y).toNat : Int) := by
  intro n hn x y
  rw [ofInt_toNat, BitVec.setWidth_and, BitVec.setWidth_not (by omega)]

theorem Computes.minS : Computes (fun _ => minS) fun n x y => min (sn n x) (sn n y) := by
  intro n hn x y
  have hpos : 0 < n := by omega
  simp only [Machine.minS]
  rw [setWidth_slt hpos, min_def_lt, apply_ite (BitVec.ofInt n), ofInt_sn x hpos, ofInt_sn y hpos]
  simp

theorem Computes.maxS : Computes (fun _ => maxS) fun n x y => max (sn n x) (sn n y) := by
  intro n hn x y
  have hpos : 0 < n := by omega
  simp only [Machine.maxS]
  rw [setWidth_slt hpos, max_def_lt, apply_ite (BitVec.ofInt n), ofInt_sn x hpos, ofInt_sn y hpos]
  simp

theorem Computes.minU : Computes (fun _ => minU) fun n x y => min (un n x) (un n y) := by
  intro n _ x y
  simp only [Machine.minU]
  rw [setWidth_lt, min_def_lt, apply_ite (BitVec.ofInt n), ofInt_un, ofInt_un]
  simp

theorem Computes.maxU : Computes (fun _ => maxU) fun n x y => max (un n x) (un n y) := by
  intro n _ x y
  simp only [Machine.maxU]
  rw [setWidth_lt, max_def_lt, apply_ite (BitVec.ofInt n), ofInt_un, ofInt_un]
  simp

theorem Computes.shl : Computes (fun _ x y => shl x y.toNat) fun n x y => un n x * 2 ^ cnt n y := by
  intro n hn x y
  simp only [Machine.shl]
  rw [setWidth_toNat_mod hn, shiftLeft_eq_ofInt, cnt]

theorem Computes.shr : Computes (fun _ x y => shr x y.toNat) fun n x y => un n x / 2 ^ cnt n y := by
  intro n hn x y
  simp only [Machine.shr]
  rw [setWidth_toNat_mod hn, ushiftRight_eq_ofInt, cnt]

theorem Computes.sar : Computes (fun _ x y => sar x y.toNat) fun n x y => sn n x / 2 ^ cnt n y := by
  intro n hn x y
  simp only [Machine.sar]
  rw [setWidth_toNat_mod hn, sshiftRight_eq_ofInt (by omega), cnt]

theorem Computes.rot : Computes (fun _ x y => rot x y.toNat) fun n x y => un n x * 2 ^ cnt n y + un n x / 2 ^ (n - cnt n y) := by
  intro n hn x y
  simp only [Machine.rot]
  rw [setWidth_toNat_mod hn, rot_eq_ofInt x (Nat.mod_lt _ (by omega)), cnt]

theorem Computes.mulhS : Computes (fun _ => mulhS) fun n x y => sn n x * sn n y / 2 ^ n := by
  intro n hn x y
  simp only [Machine.mulhS]
  rw [sn_eq_toInt (by omega), sn_eq_toInt (by omega)]

/-! ### Words of two sources -/

section
variable {s : State} {iss : Issue} {g : BitVec 4} {d a b : BitVec 6} {lat : Nat} {w : Widen}

/-- A word of two sources lands the value that its function gives. -/
theorem binWord_lands (h : s.cur? = some iss) {f : Word → Word → Word} {v : Word → Word → Int} (hv : ∀ x y, f x y = word (v x y)) :
    binWord g d a b lat w f s = .next (lands s iss g lat [.g a.toNat, .g b.toNat]
      fun t => [.g d.toNat (word (v (srcG iss t w a) (srcG iss t w b)))]) := by
  simp only [binWord, hv]
  exact fixedWord_lands h g lat [.g a.toNat, .g b.toNat] fun i t => [.g d.toNat (word (v (srcG i t w a) (srcG i t w b)))]

/-- The same at both widths: the .W word lands the result at 32 bits, extended (R110), the .D word that at 64 bits. -/
theorem Computes.binWord_lands {f : (n : Nat) → BitVec n → BitVec n → BitVec n} {v : Nat → Word → Word → Int} (hf : Computes f v)
    (h : s.cur? = some iss) :
    binWord g d a b lat w (onW (f 32)) s = .next (lands s iss g lat [.g a.toNat, .g b.toNat]
      fun t => [.g d.toNat (word (sx 32 (v 32 (srcG iss t w a) (srcG iss t w b))))]) ∧
    binWord g d a b lat w (f 64) s = .next (lands s iss g lat [.g a.toNat, .g b.toNat]
      fun t => [.g d.toNat (word (v 64 (srcG iss t w a) (srcG iss t w b)))]) := by
  refine ⟨Machine.binWord_lands (v := fun x y => sx 32 (v 32 x y)) h fun x y => ?_, Machine.binWord_lands h fun x y => ?_⟩
  · rw [word_sx (by decide), ← hf 32 (.inl rfl)]
    rfl
  · simpa [word] using hf 64 (.inr rfl) x y

end

theorem integerTwoSourceWords : IntegerTwoSourceWords := by
  intro r hr c g d a b s iss h
  simp only [binRows, List.mem_cons, List.not_mem_nil, or_false] at hr
  obtain rfl | rfl | rfl | rfl | rfl | rfl | rfl | rfl | rfl | rfl | rfl | rfl | rfl | rfl | rfl | rfl := hr
  · exact Computes.add.binWord_lands h
  · exact Computes.sub.binWord_lands h
  · exact Computes.and.binWord_lands h
  · exact Computes.or.binWord_lands h
  · exact Computes.xor.binWord_lands h
  · exact Computes.andn.binWord_lands h
  · exact Computes.minS.binWord_lands h
  · exact Computes.maxS.binWord_lands h
  · exact Computes.minU.binWord_lands h
  · exact Computes.maxU.binWord_lands h
  · exact Computes.shl.binWord_lands h
  · exact Computes.shr.binWord_lands h
  · exact Computes.sar.binWord_lands h
  · exact Computes.rot.binWord_lands h
  · exact Computes.mul.binWord_lands h
  · exact Computes.mulhS.binWord_lands h

/-! ### Integers in registers -/

theorem word_natCast (n : Nat) : word (n : Int) = BitVec.ofNat 64 n := BitVec.ofInt_natCast ..

theorem word_toNat (x : Word) : word x.toNat = x := by rw [word_natCast, BitVec.ofNat_toNat, BitVec.setWidth_eq]

theorem word_add (i j : Int) : word (i + j) = word i + word j := BitVec.ofInt_add ..

theorem word_sub (i j : Int) : word (i - j) = word i - word j := ofInt_sub ..

theorem word_mul (i j : Int) : word (i * j) = word i * word j := BitVec.ofInt_mul ..

/-- The sign extension and the zero extension of the low bits of a register (R24). -/
theorem word_sx_toNat {n : Nat} (hn : 0 < n) (x : Word) : (x.setWidth n).signExtend 64 = word (sx n x.toNat) := by
  rw [word_sx hn, ofInt_toNat]

theorem word_ux_toNat (n : Nat) (x : Word) : (x.setWidth n).setWidth 64 = word (ux n x.toNat) := by
  rw [show ux n x.toNat = un n x from rfl, un_eq_toNat, word_natCast, BitVec.ofNat_toNat]

/-! ### Addresses and fields -/

theorem fPos_add_fLen_le (y : Word) : fPos y + fLen y ≤ 64 := by
  simp only [fLen, fPos]
  omega

theorem bfxu_value (x y : Word) : BitVec.ofNat 64 (x.toNat / 2 ^ fieldPos y % 2 ^ fieldLen y) = word (ux (fLen y) (x.toNat / 2 ^ fPos y)) := by
  rw [← word_natCast]
  push_cast
  rfl

theorem bfx_value (x y : Word) :
    BitVec.ofInt 64 (sextInt (x.toNat / 2 ^ fieldPos y) (fieldLen y)) = word (if fLen y = 0 then 0 else sx (fLen y) (x.toNat / 2 ^ fPos y)) := by
  change word _ = _
  congr 1
  change sextInt (x.toNat / 2 ^ fPos y) (fLen y) = _
  split
  · next h => simp [h, sextInt]
  · next h =>
    rw [sextInt_eq_sx (Nat.pos_of_ne_zero h)]
    push_cast
    rfl

/-- The bits of a number under a field's mask are the field in its place. -/
theorem and_field (a len pos : Nat) : a &&& (2 ^ len - 1) * 2 ^ pos = a / 2 ^ pos % 2 ^ len * 2 ^ pos := by
  apply Nat.eq_of_testBit_eq
  intro i
  simp only [Nat.testBit_and, Nat.testBit_mul_two_pow, Nat.testBit_two_pow_sub_one, Nat.testBit_mod_two_pow, Nat.testBit_div_two_pow]
  by_cases hi : pos ≤ i
  · rw [Nat.sub_add_cancel hi]
    simp [hi, Bool.and_comm]
  · simp [hi]

theorem fieldMask_toNat (y : Word) : (fieldMask y).toNat = (2 ^ fLen y - 1) * 2 ^ fPos y := by
  have hle := fPos_add_fLen_le y
  change (BitVec.ofNat 64 ((2 ^ fLen y - 1) * 2 ^ fPos y)).toNat = _
  rw [BitVec.toNat_ofNat, Nat.mod_eq_of_lt]
  calc (2 ^ fLen y - 1) * 2 ^ fPos y < 2 ^ fLen y * 2 ^ fPos y := by
        have := Nat.two_pow_pos (fLen y)
        exact Nat.mul_lt_mul_of_pos_right (by omega) (Nat.two_pow_pos _)
    _ = 2 ^ (fLen y + fPos y) := (pow_add ..).symm
    _ ≤ 2 ^ 64 := Nat.pow_le_pow_right (by decide) (by omega)

/-- The bits of a register within a field, as a number. -/
theorem and_fieldMask (z y : Word) : z &&& fieldMask y = word (z.toNat / 2 ^ fPos y % 2 ^ fLen y * 2 ^ fPos y : Nat) := by
  rw [word_natCast]
  apply BitVec.eq_of_toNat_eq
  have hlt : z.toNat / 2 ^ fPos y % 2 ^ fLen y * 2 ^ fPos y < 2 ^ 64 := by
    rw [← and_field]
    exact Nat.lt_of_le_of_lt Nat.and_le_left z.isLt
  rw [BitVec.toNat_and, fieldMask_toNat, and_field, BitVec.toNat_ofNat, Nat.mod_eq_of_lt hlt]

/-- The bits of a register outside a mask are those of the mask taken away. -/
theorem and_not_eq_sub (z m : Word) : z &&& ~~~m = z - (z &&& m) := by
  have hz : (z &&& ~~~m) + (z &&& m) = z := by
    rw [BitVec.add_eq_or_of_and_eq_zero]
    · ext i
      simp only [BitVec.getElem_or, BitVec.getElem_and, BitVec.getElem_not]
      cases z[i] <;> cases m[i] <;> rfl
    · ext i
      simp only [BitVec.getElem_and, BitVec.getElem_not]
      cases z[i] <;> cases m[i] <;> simp
  exact (BitVec.sub_eq_iff_eq_add.2 hz.symm).symm

/-- A number put in its place in a word of `n` bits, and read there. -/
theorem mul_pow_mod_div_mod {n pos len : Nat} (a : Nat) (h : pos + len ≤ n) : a * 2 ^ pos % 2 ^ n / 2 ^ pos % 2 ^ len = a % 2 ^ len := by
  obtain ⟨k, rfl⟩ := Nat.exists_eq_add_of_le h
  rw [Nat.add_assoc, pow_add, pow_add, Nat.mul_comm a, Nat.mul_mod_mul_left, Nat.mul_div_cancel_left _ (Nat.two_pow_pos _),
    Nat.mod_mul_right_mod]

theorem shiftLeft_and_fieldMask (x y : Word) : x <<< fPos y &&& fieldMask y = word (x.toNat % 2 ^ fLen y * 2 ^ fPos y : Nat) := by
  rw [and_fieldMask, BitVec.toNat_shiftLeft, Nat.shiftLeft_eq, mul_pow_mod_div_mod _ (fPos_add_fLen_le y)]

theorem bfi_value (z x y : Word) : (z &&& ~~~fieldMask y) ||| ((x <<< fieldPos y) &&& fieldMask y) =
    word ((z.toNat : Int) - (z.toNat / 2 ^ fPos y % 2 ^ fLen y * 2 ^ fPos y : Nat) + (x.toNat % 2 ^ fLen y * 2 ^ fPos y : Nat)) := by
  have hdisj : (z &&& ~~~fieldMask y) &&& (x <<< fPos y &&& fieldMask y) = 0#64 := by
    ext i
    simp only [BitVec.getElem_and, BitVec.getElem_not]
    cases (fieldMask y)[i] <;> simp
  rw [word_add, word_sub, word_toNat, ← and_fieldMask, ← shiftLeft_and_fieldMask, ← and_not_eq_sub, BitVec.add_eq_or_of_and_eq_zero _ _ hdisj]
  rfl

theorem integerAddressAndExtractWords : IntegerAddressAndExtractWords := by
  intro r hr c g d a b s iss h
  simp only [twoRows, List.mem_cons, List.not_mem_nil, or_false] at hr
  have hlea (k : Nat) (x y : Word) : x + y * BitVec.ofNat 64 k = word (x.toNat + y.toNat * (k : Int)) := by
    rw [word_add, word_mul, word_toNat, word_toNat, word_natCast]
  obtain rfl | rfl | rfl | rfl | rfl | rfl | rfl | rfl := hr
  · exact binWord_lands h (hlea 1)
  · exact binWord_lands h (hlea 2)
  · exact binWord_lands h (hlea 4)
  · exact binWord_lands h (hlea 8)
  · exact binWord_lands h (hlea 16)
  · exact binWord_lands (f := mulhU) h fun x y => (word_natCast _).symm
  · exact binWord_lands h bfxu_value
  · exact binWord_lands h bfx_value

theorem terWord_lands {s : State} {iss : Issue} (h : s.cur? = some iss) {g : BitVec 4} {d a b : BitVec 6} {lat : Nat} {f : Word → Word → Word → Word}
    {v : Word → Word → Word → Int} (hv : ∀ z x y, f z x y = word (v z x y)) :
    terWord g d a b lat f s = .next (lands s iss g lat [.g a.toNat, .g b.toNat, .g d.toNat]
      fun t => [.g d.toNat (word (v (t.gr d.toNat) (srcG iss t .sign a) (srcG iss t .sign b)))]) := by
  simp only [terWord, hv]
  exact fixedWord_lands h g lat _ fun i t => [.g d.toNat (word (v (t.gr d.toNat) (srcG i t .sign a) (srcG i t .sign b)))]

theorem macW_value (z x y : Word) : sx32 (lo32 z + lo32 x * lo32 y) = word (sx 32 (un 32 z + un 32 x * un 32 y)) := by
  rw [word_sx (by decide), BitVec.ofInt_add, BitVec.ofInt_mul, ofInt_un, ofInt_un, ofInt_un]
  rfl

theorem macD_value (z x y : Word) : z + x * y = word (z.toNat + x.toNat * y.toNat) := by
  rw [word_add, word_mul, word_toNat, word_toNat, word_toNat]

theorem integerThreeSourceWords : IntegerThreeSourceWords := by
  intro r hr c g d a b s iss h
  simp only [threeRows, List.mem_cons, List.not_mem_nil, or_false] at hr
  obtain rfl | rfl | rfl := hr
  · exact terWord_lands h macW_value
  · exact terWord_lands h macD_value
  · exact terWord_lands h bfi_value

/-! ### Words of one source -/

theorem not_value (x : Word) : ~~~x = word (-1 - x.toNat) := by
  rw [word_sub, word_toNat]
  exact (BitVec.allOnes_sub_eq_not x).symm

theorem neg_value (x : Word) : 0 - x = word (-(x.toNat : Int)) := by
  rw [← zero_sub, word_sub, word_toNat]
  rfl

theorem abs_value (x : Word) : (if x.msb then 0 - x else x) = word |x.toInt| := by
  have hx : word x.toInt = x := BitVec.ofInt_toInt
  rw [BitVec.msb_eq_toInt]
  by_cases hneg : x.toInt < 0
  · rw [abs_of_neg hneg, if_pos (by simpa using hneg), ← zero_sub, word_sub, hx]
    rfl
  · rw [abs_of_nonneg (not_lt.1 hneg), if_neg (by simpa using hneg), hx]

theorem bitLen_le_of_lt {m n : Nat} (h : m < 2 ^ n) : bitLen m ≤ n := by
  unfold bitLen
  split
  · exact Nat.zero_le n
  · next hm => exact (Nat.log2_lt hm).2 h

theorem clz_value (n : Nat) (x : Word) : BitVec.ofNat 64 (clz n x.toNat) = word ((n : Int) - bitLen (x.toNat % 2 ^ n)) := by
  rw [← word_natCast, clz, Nat.cast_sub (bitLen_le_of_lt (Nat.mod_lt _ (Nat.two_pow_pos n)))]

theorem clzW_value (x : Word) :
    BitVec.ofNat 64 (clz 32 x.toNat) = word (32 - (if un 32 x = 0 then 0 else Nat.log2 (x.toNat % 2 ^ 32) + 1 : Nat)) := by
  have hzero : (un 32 x = 0) = (x.toNat % 2 ^ 32 = 0) := by
    rw [un_eq_toNat, BitVec.toNat_setWidth, Int.natCast_eq_zero]
  rw [clz_value]
  simp only [bitLen, hzero]
  rfl

theorem clzD_value (x : Word) : BitVec.ofNat 64 (clz 64 x.toNat) = word (64 - (if x = 0 then 0 else Nat.log2 x.toNat + 1 : Nat)) := by
  have hzero : (x.toNat = 0) = (x = 0) := by simp [BitVec.toNat_eq]
  rw [clz_value, Nat.mod_eq_of_lt x.isLt]
  simp only [bitLen, hzero]
  rfl

theorem ones_eq_sum (x : Word) (n : Nat) : ones x n = ((List.range n).map fun k => bit (x.getLsbD k)).sum := by
  induction n with
  | zero => rfl
  | succ n ih => simp [ones, ih, List.range_succ, bit, Nat.add_comm]

theorem popc_value (x : Word) : BitVec.ofNat 64 (ones x 64) = word (((List.range 64).map fun k => bit (x.getLsbD k)).sum : Nat) := by
  rw [ones_eq_sum, word_natCast]

theorem revBits_eq_sum (x : Word) (n : Nat) : revBits x n = ∑ k ∈ Finset.range n, bit (x.getLsbD k) * 2 ^ (63 - k) := by
  induction n with
  | zero => rfl
  | succ n ih => simp [revBits, ih, Finset.sum_range_succ, bit, Nat.add_comm]

theorem brev_value (x : Word) :
    BitVec.ofNat 64 (revBits x 64) = word (((List.range 64).map fun k => bit (x.getLsbD (63 - k)) * 2 ^ k).sum : Nat) := by
  have hsum : ((List.range 64).map fun k => bit (x.getLsbD (63 - k)) * 2 ^ k).sum =
      ∑ k ∈ Finset.range 64, bit (x.getLsbD (63 - k)) * 2 ^ k := rfl
  rw [word_natCast, hsum, revBits_eq_sum, ← Finset.sum_range_reflect]
  refine congrArg _ (Finset.sum_congr rfl fun k hk => ?_)
  have hk := Finset.mem_range.1 hk
  rw [show 63 - (64 - 1 - k) = k by omega]

theorem integerOneSourceWords : IntegerOneSourceWords := by
  intro r hr c g d a s iss h
  simp only [oneRows, List.mem_cons, List.not_mem_nil, or_false] at hr
  obtain rfl | rfl | rfl | rfl | rfl | rfl | rfl | rfl | rfl | rfl | rfl | rfl | rfl | rfl := hr
  · exact unWord_lands h g d a fun x => (word_toNat x).symm
  · exact unWord_lands h g d a not_value
  · exact unWord_lands h g d a neg_value
  · exact unWord_lands h g d a abs_value
  · exact unWord_lands h g d a clzW_value
  · exact unWord_lands h g d a clzD_value
  · have hland := unWord_lands h g d a popc_value
    exact hland
  · have hland := unWord_lands h g d a brev_value
    exact hland
  · exact unWord_lands h g d a (word_sx_toNat (by decide))
  · exact unWord_lands h g d a (word_sx_toNat (by decide))
  · exact unWord_lands h g d a (word_sx_toNat (by decide))
  · exact unWord_lands h g d a (word_ux_toNat 8)
  · exact unWord_lands h g d a (word_ux_toNat 16)
  · exact unWord_lands h g d a (word_ux_toNat 32)

/-! ### Shifts by an immediate -/

section
variable {f : (n : Nat) → BitVec n → Nat → BitVec n} {v : Nat → Word → Nat → Int}

/-- A shift at both widths, where `f` gives the low bits of the integer `v` for every count below the width. -/
theorem shiftWord_lands (hf : ∀ n, n = 32 ∨ n = 64 → ∀ (x : Word) (k : Nat), k < n → f n (x.setWidth n) k = BitVec.ofInt n (v n x k))
    {s : State} {iss : Issue} (h : s.cur? = some iss) (g : BitVec 4) (d a i : BitVec 6) (j : BitVec 5) :
    unWord g d a (fun x => sx32 (f 32 (lo32 x) j.toNat)) s = .next (lands s iss g 2 [.g a.toNat]
      fun t => [.g d.toNat (word (sx 32 (v 32 (srcG iss t .sign a) j.toNat)))]) ∧
    unWord g d a (fun x => f 64 x i.toNat) s = .next (lands s iss g 2 [.g a.toNat]
      fun t => [.g d.toNat (word (v 64 (srcG iss t .sign a) i.toNat))]) := by
  refine ⟨unWord_lands h g d a (v := fun x => sx 32 (v 32 x j.toNat)) fun x => ?_,
    unWord_lands h g d a (v := fun x => v 64 x i.toNat) fun x => ?_⟩
  · rw [word_sx (by decide), ← hf 32 (.inl rfl) x j.toNat j.isLt]
    rfl
  · simpa [word] using hf 64 (.inr rfl) x i.toNat i.isLt

end

theorem integerShiftImmediates : IntegerShiftImmediates := by
  intro r hr c g d a i j s iss h
  simp only [shiftRows, List.mem_cons, List.not_mem_nil, or_false] at hr
  obtain rfl | rfl | rfl | rfl := hr
  · refine shiftWord_lands (f := fun _ => shl) (fun n _ x k hk => ?_) h g d a i j
    rw [shl, Nat.mod_eq_of_lt hk, shiftLeft_eq_ofInt]
  · refine shiftWord_lands (f := fun _ => shr) (fun n _ x k hk => ?_) h g d a i j
    rw [shr, Nat.mod_eq_of_lt hk, ushiftRight_eq_ofInt]
  · refine shiftWord_lands (f := fun _ => sar) (fun n hn x k hk => ?_) h g d a i j
    rw [sar, Nat.mod_eq_of_lt hk, sshiftRight_eq_ofInt (by omega)]
  · refine shiftWord_lands (f := fun _ => rot) (fun n _ x k hk => ?_) h g d a i j
    rw [rot, Nat.mod_eq_of_lt hk, rot_eq_ofInt x hk]

/-- Settles O34: each row's function on bit vectors gives the low bits of the row's integer, at 32 and at 64 bits alike. -/
theorem integerWords : Obligations.IntegerWords :=
  ⟨integerTwoSourceWords, integerAddressAndExtractWords, integerThreeSourceWords, integerOneSourceWords, integerShiftImmediates⟩

end Sys2Proof.Machine
end

section
/-!
SUPPORT. Operands, landing results (R66 to R69, R76, R80 to R82), the compares, and the words on predicates and on the participants of a cohort (R121 to
R125).
-/

namespace Sys2Proof.Machine

open Claim

/-! ### Operands -/

theorem srcG_zero (iss : Issue) (t : Thread) (w : Widen) : srcG iss t w 0 = 0 := rfl

theorem srcG_of_ne (iss : Issue) (t : Thread) (w : Widen) {k : BitVec 6} (h : k ≠ 63) : srcG iss t w k = t.gr k.toNat :=
  if_neg fun e => h (BitVec.eq_of_toNat_eq e)

theorem Thread.gr_of_getElem? {t : Thread} {k : Nat} {v : Word} (hk : k ≠ 0) (h : t.g[k]? = some v) : t.gr k = v := by
  rw [Thread.gr, if_neg hk, h, Option.getD_some]

theorem Thread.pred_of_getElem? {t : Thread} {k : Nat} {v : K3} (hk : k ≠ 0) (h : t.p[k]? = some v) : t.pred k = v := by
  rw [Thread.pred, if_neg hk, h, Option.getD_some]

theorem srcG_literal {iss : Issue} {x : Word32} (h : iss.words[iss.pos + 1]? = some x) (t : Thread) :
    srcG iss t .sign 63 = word (sx 32 x.toNat) ∧ srcG iss t .zero 63 = word x.toNat := by
  have hw : iss.wordAt (iss.pos + 1) = x := by rw [Issue.wordAt, h, Option.getD_some]
  constructor
  · rw [sx_toNat (by decide)]
    exact congrArg (·.signExtend 64) hw
  · rw [word_natCast, BitVec.ofNat_toNat]
    exact congrArg (·.zeroExtend 64) hw

/-- Settles O1: a source field reads g0 as 0, another register, or the widened literal; p0 makes guard 0 hold and guard 8 fail. -/
theorem sourceOperands : Obligations.SourceOperands := by
  intro t iss w
  refine ⟨srcG_zero iss t w, fun k v h0 h63 hv => ?_, fun x hx => srcG_literal hx t, rfl, rfl, rfl, fun k v => Thread.pred_of_getElem?⟩
  rw [srcG_of_ne iss t w h63]
  exact Thread.gr_of_getElem? (fun e => h0 (BitVec.eq_of_toNat_eq e)) hv

/-! ### Results that land -/

section
variable (t : Thread) (iss : Issue) (lat dep now : Nat) (e : Eff)

theorem Thread.land_lands (l : Landing) (ls : List Landing) : ({ t with lands := ls } : Thread).land l = { t.land l with lands := ls } := by
  obtain ⟨due, e, dep⟩ := l
  cases e with
  | g k v => simp only [Thread.land, Thread.put, Thread.setG]; split <;> rfl
  | f k v => rfl
  | p k v => simp only [Thread.land, Thread.put, Thread.setP]; split <;> rfl
  | sticky b => rfl

/-- A result of a thread with nothing else on its way lands from its cycle on. -/
theorem Thread.landUpTo_receive_alone (h : t.lands = []) : (t.receive iss lat dep [e]).landUpTo now =
    if iss.cycle t + lat ≤ now then t.land ⟨iss.cycle t + lat, e, dep⟩ else { t with lands := [⟨iss.cycle t + lat, e, dep⟩] } := by
  have hrec : t.receive iss lat dep [e] = { t with lands := [⟨iss.cycle t + lat, e, dep⟩] } := by simp [Thread.receive, insertBy, h]
  have hland : t.land ⟨iss.cycle t + lat, e, dep⟩ = { t.land ⟨iss.cycle t + lat, e, dep⟩ with lands := [] } := by
    rw [← Thread.land_lands, ← h]
  rw [hrec]
  split
  · next hle =>
    rw [hland]
    simp [Thread.landUpTo, hle, Thread.land_lands]
  · next hgt => simp [Thread.landUpTo, hgt, Nat.lt_of_not_le hgt]

theorem Thread.gr_setG (d k : Nat) (v : Word) (hk : k < 63) : (t.setG d v).gr k = if k = d ∧ d ≠ 0 then v else t.gr k := by
  by_cases hd : d = 0
  · simp [Thread.setG, hd]
  · by_cases hkd : k = d
    · subst hkd
      simp [Thread.setG, Thread.gr, hd, hk]
    · simp [Thread.setG, Thread.gr, hd, hkd, Vector.getElem?_setIfInBounds_ne (Ne.symm hkd)]

theorem Thread.pred_setP (d k : Nat) (v : K3) (hk : k < 8) : (t.setP d v).pred k = if k = d ∧ d ≠ 0 then v else t.pred k := by
  by_cases hd : d = 0
  · simp [Thread.setP, hd]
  · by_cases hkd : k = d
    · subst hkd
      simp [Thread.setP, Thread.pred, hd, hk]
    · simp [Thread.setP, Thread.pred, hd, hkd, Vector.getElem?_setIfInBounds_ne (Ne.symm hkd)]

/-- What a write to a general register leaves alone. -/
theorem Thread.setG_frame (d : Nat) (v : Word) : t.setG d v = { t with g := (t.setG d v).g } := by
  unfold Thread.setG
  split <;> rfl

theorem Thread.setP_frame (d : Nat) (v : K3) : t.setP d v = { t with p := (t.setP d v).p } := by
  unfold Thread.setP
  split <;> rfl

theorem Thread.gr_land_g (due d k : Nat) (v : Word) (hk : k < 63) : (t.land ⟨due, .g d v, dep⟩).gr k = if k = d ∧ d ≠ 0 then v else t.gr k :=
  t.gr_setG d k v hk

theorem Thread.pred_land_p (due d k : Nat) (v : K3) (hk : k < 8) :
    (t.land ⟨due, .p d v, dep⟩).pred k = if k = d ∧ d ≠ 0 then v else t.pred k :=
  t.pred_setP d k v hk

end

theorem generalResultLands : GeneralResultLands := by
  intro t iss lat dep d now v _ hl
  dsimp only
  rw [t.landUpTo_receive_alone iss lat dep now (.g d v) hl]
  split
  · next hle =>
    refine ⟨fun k hk => ?_, ?_⟩
    · simp only [t.gr_land_g dep _ d k v hk, hle, and_true]
    · simp only [Thread.land, Thread.put]
      rw [t.setG_frame d v]
      simp [hle, hl]
  · next hgt => simp [hgt, Thread.gr]

/-- Of two results for register d that land one after the other the second prevails. -/
theorem Thread.gr_land_land (t : Thread) (l : Landing) {due d dep : Nat} (v : Word) (hd : 0 < d) (hd63 : d < 63) :
    ((t.land l).land ⟨due, .g d v, dep⟩).gr d = v := by
  rw [Thread.gr_land_g _ _ _ _ _ _ hd63, if_pos ⟨rfl, Nat.pos_iff_ne_zero.1 hd⟩]

theorem laterResultPrevails : LaterResultPrevails := by
  intro t iss l1 l2 dep d now v1 v2 hd hd63 hl h1 h2
  simp only [Thread.receive, hl, List.foldl_cons, List.foldl_nil, insertBy, Issue.cycle, Nat.add_lt_add_iff_left] at h1 h2 ⊢
  by_cases hlt : l2 < l1
  · rw [if_pos hlt, if_neg (by omega)]
    simp only [Thread.landUpTo, List.filter_cons, List.filter_nil, h1, h2, decide_true, if_true, List.foldl_cons, List.foldl_nil]
    exact Thread.gr_land_land (due := iss.t0 + t.pass + l1) (dep := dep) _ _ v1 hd hd63
  · rw [if_neg hlt, if_pos (by omega)]
    simp only [Thread.landUpTo, List.filter_cons, List.filter_nil, h1, h2, decide_true, if_true, List.foldl_cons, List.foldl_nil]
    exact Thread.gr_land_land (due := iss.t0 + t.pass + l2) (dep := dep) _ _ v2 hd hd63

theorem predicateResultLands : PredicateResultLands := by
  intro t iss lat dep d now v _ hl
  dsimp only
  rw [t.landUpTo_receive_alone iss lat dep now (.p d v) hl]
  split
  · next hle =>
    refine ⟨fun k hk => ?_, ?_⟩
    · simp only [t.pred_land_p dep _ d k v hk, hle, and_true]
    · simp only [Thread.land, Thread.put]
      rw [t.setP_frame d v]
      simp
  · next hgt => simp [hgt, Thread.pred]

/-- Settles O33: a landing writes its register and nothing else, and landings are kept in the order of their cycles and of their issue. -/
theorem resultsLand : Obligations.ResultsLand := ⟨generalResultLands, laterResultPrevails, predicateResultLands⟩

/-! ### Compares -/

/-- The model's exclusive or is that of R122. -/
theorem kXor_eq_kx (a b : K3) : kXor a b = kx a b := by cases a <;> cases b <;> rfl

/-- The pair that a compare writes (R122, R123), type by type. -/
theorem combine_eq_pairOf (k : BitVec 3) (c p1 p2 r : K3) : combine k.toNat c p1 p2 r = pairOf k c p1 p2 r := by
  have hk : k = 0 ∨ k = 1 ∨ k = 2 ∨ k = 3 ∨ k = 4 ∨ k = 5 ∨ k = 6 ∨ k = 7 := by revert k; decide
  obtain rfl | rfl | rfl | rfl | rfl | rfl | rfl | rfl := hk
  · rfl
  · cases c <;> cases r <;> rfl
  · rfl
  · rfl
  · rfl
  · rfl
  · exact Prod.ext (kXor_eq_kx p1 r) rfl
  · exact Prod.ext (congrArg kNot (kXor_eq_kx p1 r)) rfl

theorem pairEffs_eq_pairRes (t : Thread) (g : BitVec 4) (p : BitVec 2) (k : BitVec 3) (r : K3) : pairEffs t g p k r = pairRes t g p k r := by
  simp only [pairEffs, combine_eq_pairOf]
  rfl

/-- An integer compare lands the pair of its relation. -/
theorem icmpWord_lands {s : State} {iss : Issue} (h : s.cur? = some iss) (g : BitVec 4) (p : BitVec 2) (k : BitVec 3) (a b : BitVec 6) {w : Widen}
    {cond : Nat} {rel : Word → Word → Bool} (hrel : ∀ x y, icmpRel cond x y = tf (rel x y)) :
    icmpWord g p k a b w cond s = .next (lands s iss (cmpG g k) 2 (.g a.toNat :: .g b.toNat :: guardReg g :: pairRegs p)
      fun t => pairRes t g p k (tf (rel (srcG iss t w a) (srcG iss t w b)))) := by
  simp only [icmpWord, pairEffs_eq_pairRes, hrel]
  exact fixedWord_lands h _ 2 _ fun i t => pairRes t g p k (tf (rel (srcG i t w a) (srcG i t w b)))

theorem icmpNe_rel (x y : Word) : icmpRel 1 x y = tf (decide (x ≠ y)) := by
  rw [decide_not]
  rfl

theorem icmpTst_rel (x y : Word) : icmpRel 10 x y = tf (decide (x &&& y ≠ 0)) := by
  rw [decide_not]
  rfl

/-- Settles O4: each row's relation is the machine's, and the pair is that of R122 and R123 for every combining type. -/
theorem integerCompares : Obligations.IntegerCompares := by
  intro r hr c g p k a b s iss h
  simp only [icmpRows, List.mem_cons, List.not_mem_nil, or_false] at hr
  obtain rfl | rfl | rfl | rfl | rfl | rfl | rfl | rfl | rfl | rfl | rfl | rfl := hr
  · exact icmpWord_lands h g p k a b fun _ _ => rfl
  · exact icmpWord_lands h g p k a b icmpNe_rel
  · exact icmpWord_lands h g p k a b fun _ _ => rfl
  · exact icmpWord_lands h g p k a b fun _ _ => rfl
  · exact icmpWord_lands h g p k a b fun _ _ => rfl
  · exact icmpWord_lands h g p k a b fun _ _ => rfl
  · exact icmpWord_lands h g p k a b fun _ _ => rfl
  · exact icmpWord_lands h g p k a b fun _ _ => rfl
  · exact icmpWord_lands h g p k a b fun _ _ => rfl
  · exact icmpWord_lands h g p k a b fun _ _ => rfl
  · exact icmpWord_lands h g p k a b icmpTst_rel
  · exact icmpWord_lands h g p k a b fun _ _ => rfl

/-! ### Words on predicates -/

theorem predWord_lands {s : State} {iss : Issue} (h : s.cur? = some iss) (g : BitVec 4) (d : BitVec 3) (srcs : List (BitVec 3)) {f v : Thread → K3}
    (hv : ∀ t, f t = v t) : predWord g d srcs f s = .next (lands s iss g 2 (srcs.map fun k => .p k.toNat) fun t => [.p d.toNat (v t)]) := by
  obtain rfl : f = v := funext hv
  exact fixedWord_lands h g 2 _ fun _ t => [.p d.toNat (f t)]

theorem kAnd_eq (a b : K3) : kAnd a b = if a = .f ∨ b = .f then .f else if a = .t ∧ b = .t then .t else .u := by
  cases a <;> cases b <;> rfl

theorem kOr_eq (a b : K3) : kOr a b = if a = .t ∨ b = .t then .t else if a = .f ∧ b = .f then .f else .u := by
  cases a <;> cases b <;> rfl

theorem kNot_eq (a : K3) : kNot a = if a = .t then .f else if a = .f then .t else .u := by
  cases a <;> rfl

/-- The codes of R76, but for the reserved one. -/
theorem ofCode_eq {a : BitVec 3} (h : a.toNat < 3) : K3.ofCode a.toNat = if a = 0 then .f else if a = 1 then .t else .u := by
  revert h
  revert a
  decide

theorem predicateWords : PredicateWords := by
  intro c g d a b s iss h
  refine ⟨fun r hr => ?_, fun r hr => ?_, fun ha => predWord_lands h g d [] fun _ => ofCode_eq ha⟩
  · simp only [predTwo, List.mem_cons, List.not_mem_nil, or_false] at hr
    obtain rfl | rfl | rfl := hr
    · exact predWord_lands h g d [a, b] fun _ => kAnd_eq _ _
    · exact predWord_lands h g d [a, b] fun _ => kOr_eq _ _
    · exact predWord_lands h g d [a, b] fun _ => kXor_eq_kx _ _
  · simp only [predOne, List.mem_cons, List.not_mem_nil, or_false] at hr
    obtain rfl | rfl | rfl | rfl := hr
    · exact predWord_lands h g d [a] fun _ => kNot_eq _
    · exact predWord_lands h g d [a] fun _ => rfl
    · exact predWord_lands h g d [a] fun _ => rfl
    · exact predWord_lands h g d [a] fun _ => rfl

/-! ### Votes and ballots -/

theorem mem_insertBy {α : Type} (key : α → Nat) (x y : α) (l : List α) : y ∈ insertBy key x l ↔ y = x ∨ y ∈ l := by
  induction l with
  | nil => simp [insertBy]
  | cons z l ih =>
    rw [insertBy]
    split
    · simp
    · simp only [List.mem_cons, ih]
      tauto

theorem mem_foldl_insertBy {α : Type} (key : α → Nat) (y : α) (l acc : List α) :
    y ∈ l.foldl (fun acc x => insertBy key x acc) acc ↔ y ∈ l ∨ y ∈ acc := by
  induction l generalizing acc with
  | nil => simp
  | cons x l ih =>
    rw [List.foldl_cons, ih, mem_insertBy, List.mem_cons]
    tauto

/-- Sorting keeps the members. -/
theorem mem_sortBy {α : Type} (key : α → Nat) (y : α) (l : List α) : y ∈ sortBy key l ↔ y ∈ l := by
  simp [sortBy, mem_foldl_insertBy]

theorem mem_executing {s : State} {iss : Issue} {g : BitVec 4} {t : Thread} :
    t ∈ s.executing iss g ↔ t ∈ s.threads ∧ executes iss g t = true := by
  rw [State.executing, mem_sortBy, List.mem_filter]

/-- The bits of a ballot: bit q for a participant lo + q whose value is not 0. -/
theorem testBit_ballot (lo q : Nat) (ps : List (Nat × Word)) (m : Nat) (hq : q < 64) :
    (ps.foldl (fun m x => if x.2 != 0 && decide (lo ≤ x.1 ∧ x.1 < lo + 64) then m ||| 2 ^ (x.1 - lo) else m) m).testBit q = true ↔
      m.testBit q = true ∨ ∃ x ∈ ps, x.1 = lo + q ∧ x.2 ≠ 0 := by
  induction ps generalizing m with
  | nil => simp
  | cons x ps ih =>
    rw [List.foldl_cons, ih, List.exists_mem_cons_iff, ← or_assoc]
    refine or_congr_left ?_
    split
    · next hx =>
      obtain ⟨hval, hlo, -⟩ : x.2 ≠ 0 ∧ lo ≤ x.1 ∧ x.1 < lo + 64 := by simpa using hx
      have hbit : x.1 - lo = q ↔ x.1 = lo + q := by omega
      simp only [Nat.testBit_or, Nat.testBit_two_pow, Bool.or_eq_true, decide_eq_true_eq, hbit, hval, ne_eq, not_false_eq_true, and_true]
    · next hx =>
      refine (or_iff_left fun ⟨hidx, hval⟩ => hx ?_).symm
      simp only [Bool.and_eq_true, bne_iff_ne, decide_eq_true_eq]
      exact ⟨hval, by omega, by omega⟩

theorem getLsbD_ballotOf (lo q : Nat) (ps : List (Nat × Word)) (hq : q < 64) :
    (ballotOf lo ps).getLsbD q = true ↔ ∃ x ∈ ps, x.1 = lo + q ∧ x.2 ≠ 0 := by
  rw [ballotOf, BitVec.getLsbD_ofNat, decide_eq_true hq, Bool.true_and, testBit_ballot lo q ps 0 hq]
  simp

/-- A vote or ballot lands, for every thread that takes part, what its function makes of all of them. -/
theorem voteWord_lands {s : State} {iss : Issue} (h : s.cur? = some iss) (g : BitVec 4) (d a : BitVec 6) (f : List (Nat × Word) → Word) :
    voteWord g d a f s = .next (lands s iss g 3 [.g a.toNat] fun _ =>
      [.g d.toNat (f ((s.executing iss g).map fun t => (t.idx, srcG iss t .sign a)))]) :=
  fixedWord_lands h g 3 [.g a.toNat] fun i _ => [.g d.toNat (f ((s.executing i g).map fun t : Thread => (t.idx, srcG i t .sign a)))]

theorem ballot_participants (s : State) (iss : Issue) (g : BitVec 4) (a : BitVec 6) (lo q : Nat) (hq : q < 64) :
    (ballotOf lo ((s.executing iss g).map fun t => (t.idx, srcG iss t .sign a))).getLsbD q = true ↔
      ∃ t, takesPart s iss g (lo + q) t ∧ srcG iss t .sign a ≠ 0 := by
  rw [getLsbD_ballotOf lo q _ hq]
  simp only [List.mem_map, mem_executing, takesPart]
  constructor
  · rintro ⟨_, ⟨t, ⟨hmem, hex⟩, rfl⟩, hidx, hv⟩
    exact ⟨t, ⟨hmem, hex, hidx⟩, hv⟩
  · rintro ⟨t, ⟨hmem, hex, hidx⟩, hv⟩
    exact ⟨_, ⟨t, ⟨hmem, hex⟩, rfl⟩, hidx, hv⟩

theorem ite_one_zero (p : Prop) [Decidable p] :
    ((if p then 1 else 0 : Word) = 1 ∨ (if p then 1 else 0 : Word) = 0) ∧ ((if p then 1 else 0 : Word) = 1 ↔ p) := by
  split <;> simp_all

theorem votesAndBallots : VotesAndBallots := by
  intro c g d a s iss h
  let ps := (s.executing iss g).map fun t => (t.idx, srcG iss t .sign a)
  have hall : (ps.all (fun x => x.2 != 0) = true) ↔ ∀ t ∈ s.threads, executes iss g t = true → srcG iss t .sign a ≠ 0 := by
    simp [ps, mem_executing]
  have hany : (ps.any (fun x => x.2 != 0) = true) ↔ ∃ t ∈ s.threads, executes iss g t = true ∧ srcG iss t .sign a ≠ 0 := by
    simp [ps, mem_executing, and_assoc]
  obtain ⟨hall01, hall1⟩ := ite_one_zero (ps.all (fun x => x.2 != 0) = true)
  obtain ⟨hany01, hany1⟩ := ite_one_zero (ps.any (fun x => x.2 != 0) = true)
  refine ⟨if ps.all (fun x => x.2 != 0) then 1 else 0, if ps.any (fun x => x.2 != 0) then 1 else 0, ballotOf 0 ps, ballotOf 64 ps,
    voteWord_lands h g d a fun ps => if ps.all (fun x => x.2 != 0) then 1 else 0,
    voteWord_lands h g d a fun ps => if ps.any (fun x => x.2 != 0) then 1 else 0,
    voteWord_lands h g d a (ballotOf 0), voteWord_lands h g d a (ballotOf 64), hall01, hall1.trans hall, hany01, hany1.trans hany, fun q hq => ?_, fun q hq => ballot_participants s iss g a 64 q hq⟩
  simpa using ballot_participants s iss g a 0 q hq

/-- Settles O35: the words on predicates by their tables, votes and ballots by the threads that take part. -/
theorem predicatesAndVotes : Obligations.PredicatesAndVotes := ⟨predicateWords, votesAndBallots⟩

end Sys2Proof.Machine
end

section
/-!
SUPPORT. The words of control flow, of the system group, and those that read special registers (R104 to R109, R116 to R119, R127, R128, R341 to R346, R393
to R398).
-/

namespace Sys2Proof.Machine

open Claim

/-! ### Words that act on their thread -/

section
variable {s : State} {iss : Issue}

/-- What a thread becomes by what a word answers for it: the new thread, or a fault at issue (R66, R89). -/
def Thread.answered (iss : Issue) (seq : Nat) (t : Thread) : Except Flt Thread → Thread
  | .ok u => u
  | .error x => t.fault iss seq x

theorem onExecuting_congr {g : BitVec 4} {f u : Thread → Thread} (h : ∀ t ∈ s.threads, executes iss g t = true → f t = u t) :
    onExecuting s iss g f = onExecuting s iss g u := by
  unfold onExecuting
  congr 1
  refine List.map_congr_left fun t ht => ?_
  split
  · next hex => exact h t ht hex
  · rfl

/-- A word that changes marks of its thread, as a change of the executing threads. -/
theorem onIssuing_threadOne (h : s.cur? = some iss) (g : BitVec 4) (f : Issue → Thread → Except Flt Thread) :
    s.onIssuing (threadOne g s.fresh f) = onExecuting s iss g fun t => t.answered iss s.fresh (f iss t) := by
  refine (Host.Outcome.next.inj (threadWord_next g f s iss h)).trans (onExecuting_congr fun t _ _ => ?_)
  cases f iss t <;> rfl

theorem threadWord_eq (h : s.cur? = some iss) (g : BitVec 4) {f : Issue → Thread → Except Flt Thread} {u : Thread → Thread}
    (hu : ∀ t, t.answered iss s.fresh (f iss t) = u t) : threadWord g f s = .next (onExecuting s iss g u) := by
  rw [threadWord, onIssuing_threadOne h g f, onExecuting_congr fun t _ _ => hu t]

/-! ### Branches -/

theorem target_eq {n : Nat} (hn : 0 < n) (i : BitVec n) : iss.target i.toInt = iss.pk + word (12 * sx n i.toNat) := by
  rw [sx_toNat hn]
  rfl

theorem brWord_eq (h : s.cur? = some iss) (g : BitVec 4) (i : BitVec 19) {f : Issue → Except Flt (Option Word)} {u : Thread → Thread}
    (hu : ∀ t, t.answered iss s.fresh ((f iss).map fun x => { t with next := x }) = u t) :
    brWord g i f s = .next (onExecuting s iss 0 fun t => match t.guardVal g with
      | .t => { t with next := some (iss.pk + word (12 * sx 19 i.toNat)) }
      | .f => t
      | .u => u t) := by
  refine threadWord_eq h 0 fun t => ?_
  cases t.guardVal g with
  | t => rw [← target_eq (by decide)]; rfl
  | f => rfl
  | u => exact hu t

theorem literal_toInt : (iss.literal .sign).toInt = ((iss.wordAt (iss.pos + 1)).toInt : Int) :=
  BitVec.toInt_signExtend_of_le (by decide)

/-- Settles O7: the target of a branch is 12 bytes for each packet of its signed displacement, and U follows the disposition. -/
theorem branches : Obligations.Branches := by
  intro g i s iss h
  refine ⟨brWord_eq h g i fun t => ?_, brWord_eq h g i fun t => rfl, brWord_eq h g i fun t => ?_, brWord_eq h g i fun t => ?_⟩
  · rw [target_eq (by decide)]
    rfl
  · rw [target_eq (by decide)]
    rfl
  · rw [literal_toInt, target_eq (by decide)]
    rfl

/-! ### Jumps, calls and returns -/

theorem push_map_eq (t : Thread) (x : Word) :
    t.answered iss s.fresh ((t.push iss).map fun u => { u with next := some x }) =
      if t.stack.length < 16 then { t with stack := iss.fall.setWidth 52 :: t.stack, next := some x } else t.fault iss s.fresh (.mk2 0x17 0) := by
  by_cases hlen : t.stack.length < 16
  · rw [Thread.push, if_neg (Nat.not_le.2 hlen), if_pos hlen]
    rfl
  · rw [Thread.push, if_pos (Nat.not_lt.1 hlen), if_neg hlen]
    rfl

theorem jumpsAndCalls : JumpsAndCalls := by
  intro g i a s iss h
  dsimp only
  rw [← target_eq (by decide)]
  exact ⟨threadWord_eq h 0 fun _ => rfl, threadWord_eq h 0 fun t => push_map_eq t _, threadWord_eq h g fun _ => rfl,
    threadWord_eq h g fun t => push_map_eq t _⟩

end

/-! ### Selection, random numbers and reads -/

theorem randRounds_eq_foldl (key : Word) (n i : Nat) (x y : Word) :
    randRounds key n i x y =
      ((List.range' i n).foldl (fun v i => randRound key i v.1 v.2) (x, y)).1 ^^^ ((List.range' i n).foldl (fun v i => randRound key i v.1 v.2) (x, y)).2 := by
  induction n generalizing i x y with
  | zero => rfl
  | succ n ih =>
    have hround : randRound key i x y = (x + ((y <<< 17) ||| (y >>> 47)) + key + BitVec.ofNat 64 (i * 0xA3B195E74C2D6F09),
        y ^^^ BitVec.rotateLeft ((x + ((y <<< 17) ||| (y >>> 47)) + key + BitVec.ofNat 64 (i * 0xA3B195E74C2D6F09)) * 0xC86D2F1B35E9A477#64) 29) := by
      have hconst (m : Nat) : word (m : Int) = BitVec.ofNat 64 m := word_natCast m
      have hmul : word (14442251373962175607 : Int) = 0xC86D2F1B35E9A477#64 := hconst _
      have hkey : word (11795373719708069641 : Int) = BitVec.ofNat 64 0xA3B195E74C2D6F09 := hconst _
      have hrot : BitVec.rotateLeft y 17 = (y <<< 17) ||| (y >>> 47) := rfl
      simp only [randRound, word_add, word_mul, hconst, hmul, hkey, hrot, BitVec.ofNat_mul, BitVec.ofNat_toNat,
        BitVec.setWidth_eq]
    rw [List.range'_succ, List.foldl_cons, hround, randRounds, ih]
    rfl

theorem randBlock_eq (key num ctr : Word) : randBlock key num ctr = randOf key num ctr := by
  rw [randBlock, randRounds_eq_foldl, randOf, List.range_eq_range']

theorem packPreds_eq (t : Thread) (n : Nat) : t.packPreds n = ((List.range n).map fun i => K3.code (t.pred i) * 4 ^ i).sum := by
  induction n with
  | zero => rfl
  | succ n ih => simp [Thread.packPreds, ih, List.range_succ]

theorem ofCode_mod (n : Nat) : K3.ofCode (n % 4) = K3.ofCode n := by
  rw [K3.ofCode, K3.ofCode, Nat.mod_mod]

theorem randW_value (x num y : Word) :
    sx32 (lo32 (randBlock x num ((lo32 y).setWidth 64))) = word (sx 32 (randOf x num (word (un 32 y))).toNat) := by
  rw [randBlock_eq, ← word_sx_toNat (by decide), un_eq_toNat, word_natCast, BitVec.ofNat_toNat]
  rfl

theorem movp_effects (t : Thread) (d a : BitVec 6) (x : Word) :
    Eff.g d.toNat (BitVec.ofNat 64 (t.packPreds 8)) ::
        (if a = 0 then [] else (List.range 7).map fun i => Eff.p (i + 1) (K3.ofCode (x.toNat / 4 ^ (i + 1)))) =
      .g d.toNat (word (((List.range 8).map fun i => K3.code (t.pred i) * 4 ^ i).sum : Nat)) ::
        (if a = 0 then [] else (List.range 7).map fun i => Eff.p (i + 1) (K3.ofCode (x.toNat / 4 ^ (i + 1) % 4))) := by
  simp only [packPreds_eq, word_natCast, ofCode_mod]

theorem selectionAndReads : SelectionAndReads := by
  intro c g d a b k s iss h
  refine ⟨fixedWord_lands h g 2 _ _, ?_, ?_, fixedWord_lands h g 2 [] _, fixedWord_lands h g 2 [] _, fixedWord_lands h g 2 [] _, ?_,
    ?_, fixedWord_lands h g 4 [] _, fixedWord_lands h g 4 [] _⟩
  · simp only [← randBlock_eq]
    exact fixedWord_lands h g 2 _ _
  · simp only [← randW_value]
    exact fixedWord_lands h g 2 _ _
  · simp only [← movp_effects]
    exact fixedWord_lands h g 2 _ _
  · exact fixedWord_lands h g 4 _ _

end Sys2Proof.Machine
end

section
/-!
SUPPORT. Special registers read, returns and exits (R104, R108, R119, R240, R241, R393 to R397), and the words of the system group.
-/

namespace Sys2Proof.Machine

open Claim

/-! ### Special registers (R119) -/

theorem spawnFree_eq (s : State) (t : Thread) : s.spawnFree t =
    ((s.cohorts.filter fun x => x.gid == t.gid && x.spare).map fun x =>
      ((List.range x.passes).filter fun j => decide (∀ y ∈ s.threads, ¬ (y.cid = x.cid ∧ y.lane = t.lane ∧ y.pass = j ∧ y.freed = false))).length).sum := by
  have hfree (c : Cohort) (j : Nat) : (!(s.threads.any fun x => x.cid == c.cid && x.lane == t.lane && x.pass == j && !x.freed)) =
      decide (∀ y ∈ s.threads, ¬ (y.cid = c.cid ∧ y.lane = t.lane ∧ y.pass = j ∧ y.freed = false)) := by
    rw [Bool.eq_iff_iff]
    simp [and_assoc]
  simp only [State.spawnFree, hfree]

theorem specialRegisters : SpecialRegisters := by
  intro c g d n s iss h
  refine ⟨fun t => s.readSr iss t n.toNat, fixedWord_lands h g 2 [] _, fun t grp k ch hg hk hc => ?_⟩
  have hkernel : s.kernelOf? t.gid = some k := by simp [State.kernelOf?, hg, hk]
  simp only [word_natCast, ← spawnFree_eq]
  refine ⟨?_, ?_, ?_, ?_, ?_, ?_, ?_, ?_, ?_, ?_, ?_, ?_, ?_, ?_, ?_, ?_, ?_, ?_, ?_, ?_⟩ <;> intro hn <;>
    simp only [hn, State.readSr, hkernel, hg, hc, Option.map_some, Option.getD_some, Issue.cycle]

/-- Settles O6: selection, random numbers and the table of R119, register by register. -/
theorem transferWords : Obligations.TransferWords := ⟨selectionAndReads, specialRegisters⟩

/-! ### Returns (R108, R240, R241) -/

/-- The colours of the frame that a return of the thread ends. -/
def Thread.endsFrame (t : Thread) (h : Held) : Bool := h.depth == t.stack.length && h.st != .waiting

/-- A thread without the held colours that it gives up. -/
def Thread.giveUp (x : Thread) (which : Held → Bool) : Thread := { x with held := x.held.filter fun h => !which h }

/-- What RET releases of one thread. -/
def State.endFrame (s : State) (t : Thread) : State := if t.stack = [] then s else s.releaseColours t.tid t.endsFrame

/-- What `endFrame` of `t` leaves of a thread. -/
def Thread.afterFrameOf (x t : Thread) : Thread := if x.tid = t.tid ∧ t.stack ≠ [] then x.giveUp t.endsFrame else x

theorem Thread.afterFrameOf_tid (x t : Thread) : (x.afterFrameOf t).tid = x.tid := by
  unfold Thread.afterFrameOf
  split <;> rfl

theorem Thread.afterFrameOf_idem (x t : Thread) : (x.afterFrameOf t).afterFrameOf t = x.afterFrameOf t := by
  by_cases h : x.tid = t.tid ∧ t.stack ≠ []
  · have hx : (x.giveUp t.endsFrame).afterFrameOf t = (x.giveUp t.endsFrame).giveUp t.endsFrame := if_pos h
    simp only [Thread.afterFrameOf, if_pos h] at hx ⊢
    rw [hx]
    simp [Thread.giveUp, List.filter_filter]
  · simp only [Thread.afterFrameOf, if_neg h]

theorem map_thread?_none {s : State} {tid : Nat} (h : s.thread? tid = none) (f : Thread → Thread) :
    (s.threads.map fun x => if x.tid = tid then f x else x) = s.threads := by
  refine (List.map_congr_left fun x hx => ?_).trans (List.map_id _)
  have hne := List.find?_eq_none.1 h x hx
  exact if_neg fun e => hne (by simpa using e)

theorem State.endFrame_threads (s : State) (t : Thread) : (s.endFrame t).threads = s.threads.map fun x => x.afterFrameOf t := by
  unfold State.endFrame
  split
  · next hs => simp [Thread.afterFrameOf, hs]
  · next hs =>
    simp only [Thread.afterFrameOf, ne_eq, hs, not_false_eq_true, and_true]
    unfold State.releaseColours
    split
    · next hnone => exact (map_thread?_none hnone _).symm
    · rfl

theorem State.endFrame_frame (s : State) (t : Thread) :
    s.endFrame t = { s with threads := (s.endFrame t).threads, rels := (s.endFrame t).rels, fresh := (s.endFrame t).fresh } := by
  unfold State.endFrame State.releaseColours
  split
  · rfl
  · split <;> rfl

theorem State.endFrame_rels_mono (s : State) (t : Thread) {r : Rel} (h : r ∈ s.rels) : r ∈ (s.endFrame t).rels := by
  unfold State.endFrame State.releaseColours
  split
  · exact h
  · split
    · exact h
    · exact List.mem_append_left _ h

theorem exists_withIdx {α : Type} (n : Nat) {l : List α} {x : α} (h : x ∈ l) : ∃ i, (i, x) ∈ withIdx n l := by
  induction l generalizing n with
  | nil => cases h
  | cons y l ih =>
    rcases List.mem_cons.1 h with rfl | h
    · exact ⟨n, List.mem_cons_self⟩
    · obtain ⟨i, hi⟩ := ih (n + 1) h
      exact ⟨i, List.mem_cons_of_mem _ hi⟩

/-- Each colour of the frame that ends gets a release. -/
theorem State.endFrame_releases {s : State} {t x : Thread} (hx : s.thread? t.tid = some x) (hs : t.stack ≠ []) {h : Held} (hh : h ∈ x.held)
    (he : t.endsFrame h = true) : ∃ r ∈ (s.endFrame t).rels, r.tid = t.tid ∧ r.colour = h.colour ∧ r.depth = h.depth ∧ r.wait = false := by
  obtain ⟨i, hi⟩ := exists_withIdx s.fresh (List.mem_filter.2 ⟨hh, he⟩)
  unfold State.endFrame State.releaseColours
  rw [if_neg hs, hx]
  exact ⟨_, List.mem_append_right _ (List.mem_map_of_mem hi), rfl, rfl, rfl, rfl⟩

theorem frame_trans {a b c : State} (h : b = { a with threads := b.threads, rels := b.rels, fresh := b.fresh })
    (h' : c = { b with threads := c.threads, rels := c.rels, fresh := c.fresh }) :
    c = { a with threads := c.threads, rels := c.rels, fresh := c.fresh } := by
  rw [h', h]

section
variable (ts : List Thread) (s : State)

theorem State.foldl_endFrame_threads : (ts.foldl State.endFrame s).threads = s.threads.map fun x => ts.foldl Thread.afterFrameOf x := by
  induction ts generalizing s with
  | nil => simp
  | cons t ts ih => rw [List.foldl_cons, ih, State.endFrame_threads, List.map_map]; rfl

theorem State.foldl_endFrame_frame : ts.foldl State.endFrame s =
    { s with threads := (ts.foldl State.endFrame s).threads, rels := (ts.foldl State.endFrame s).rels, fresh := (ts.foldl State.endFrame s).fresh } := by
  induction ts generalizing s with
  | nil => rfl
  | cons t ts ih => exact frame_trans (s.endFrame_frame t) (ih _)

theorem State.foldl_endFrame_rels_mono {r : Rel} (h : r ∈ s.rels) : r ∈ (ts.foldl State.endFrame s).rels := by
  induction ts generalizing s with
  | nil => exact h
  | cons t ts ih => exact ih _ (s.endFrame_rels_mono t h)

end

theorem Thread.foldl_afterFrameOf_tid (ts : List Thread) (x : Thread) : (ts.foldl Thread.afterFrameOf x).tid = x.tid := by
  induction ts generalizing x with
  | nil => rfl
  | cons t ts ih => rw [List.foldl_cons, ih, Thread.afterFrameOf_tid]

/-- Threads of other numbers leave a thread as it is. -/
theorem Thread.foldl_afterFrameOf_of_ne {ts : List Thread} {x : Thread} (h : ∀ t ∈ ts, t.tid ≠ x.tid) : ts.foldl Thread.afterFrameOf x = x := by
  induction ts with
  | nil => rfl
  | cons t ts ih =>
    have ht : x.afterFrameOf t = x := if_neg fun e => h t List.mem_cons_self e.1.symm
    rw [List.foldl_cons, ht, ih fun u hu => h u (List.mem_cons_of_mem _ hu)]

/-- Of a list with one thread of the number, this one's frame ends. -/
theorem Thread.foldl_afterFrameOf_of_mem {ts : List Thread} {x t : Thread} (ht : t ∈ ts) (huniq : ∀ u ∈ ts, u.tid = x.tid → u = t) :
    ts.foldl Thread.afterFrameOf x = x.afterFrameOf t := by
  induction ts generalizing x with
  | nil => cases ht
  | cons u ts ih =>
    have hrest (y : Thread) (hy : y.tid = x.tid) (w : Thread) (hw : w ∈ ts) (e : w.tid = y.tid) : w = t :=
      huniq w (List.mem_cons_of_mem _ hw) (e.trans hy)
    rw [List.foldl_cons]
    by_cases hu : u = t
    · subst hu
      by_cases hmem : u ∈ ts
      · rw [ih hmem (hrest _ (x.afterFrameOf_tid u)), Thread.afterFrameOf_idem]
      · exact Thread.foldl_afterFrameOf_of_ne fun w hw e => hmem (hrest _ (x.afterFrameOf_tid u) w hw e ▸ hw)
    · have hx : x.afterFrameOf u = x := if_neg fun e => hu (huniq u List.mem_cons_self e.1.symm)
      rw [hx]
      exact ih ((List.mem_cons.1 ht).resolve_left (Ne.symm hu)) (hrest x rfl)

/-- What RET makes of one thread that executes it, but for its held colours. -/
def Thread.returned (s : State) (iss : Issue) (x : Thread) : Thread :=
  match x.stack with
  | [] => x.fault iss s.fresh (.mk2 0x0C 0)
  | e :: rest => { x with
      stack := rest, next := some (e.setWidth 64)
      retAt := (x.stack.length, s.fresh) :: x.retAt.filter fun r => s.ops.any fun o => o.tid == x.tid && o.depth == r.1 && decide (o.seq < r.2) }

theorem Thread.returned_of_nil {s : State} {iss : Issue} {x : Thread} (h : x.stack = []) : x.returned s iss = x.fault iss s.fresh (.mk2 0x0C 0) := by
  rw [Thread.returned, h]

theorem Thread.returned_tid (s : State) (iss : Issue) (x : Thread) : (x.returned s iss).tid = x.tid := by
  unfold Thread.returned
  split <;> rfl

theorem Thread.returned_held (s : State) (iss : Issue) (x : Thread) : (x.returned s iss).held = x.held := by
  unfold Thread.returned
  split <;> rfl

/-- What RET answers for one thread, before any colour is given up. -/
def Thread.ret (s : State) (t : Thread) : Except Flt Thread := (t.pop).map fun u => { u with
  retAt := (t.stack.length, s.fresh) :: t.retAt.filter fun r => s.ops.any fun o => o.tid == t.tid && o.depth == r.1 && decide (o.seq < r.2) }

theorem ret_eq {s : State} {iss : Issue} (h : s.cur? = some iss) (g : BitVec 4) :
    exec (.ret g) s = .next ((s.executing iss g).foldl State.endFrame (onExecuting s iss g (Thread.returned s iss))) := by
  have hone : onExecuting s iss g (Thread.returned s iss) = onExecuting s iss g fun t => t.answered iss s.fresh (t.ret s) := by
    refine onExecuting_congr fun t _ _ => ?_
    cases hs : t.stack with
    | nil => simp [Thread.returned, Thread.ret, Thread.pop, hs, Except.map, Thread.answered, tcRetEmpty]
    | cons e rest => simp [Thread.returned, Thread.ret, Thread.pop, hs, Except.map, Thread.answered]
  rw [hone, ← onIssuing_threadOne h g fun _ t => t.ret s]
  change execRet g s = _
  rw [execRet, h]
  rfl

section
variable {s : State} {iss : Issue} {g : BitVec 4}

theorem onExecuting_frame (f : Thread → Thread) : onExecuting s iss g f =
    { s with threads := (onExecuting s iss g f).threads, rels := (onExecuting s iss g f).rels, fresh := (onExecuting s iss g f).fresh } := rfl

theorem eq_of_tid_eq (hn : (s.threads.map Thread.tid).Nodup) {x y : Thread} (hx : x ∈ s.threads) (hy : y ∈ s.threads) (h : x.tid = y.tid) : x = y :=
  List.inj_on_of_nodup_map hn hx hy h

theorem thread?_of_mem (hn : (s.threads.map Thread.tid).Nodup) {x : Thread} (hx : x ∈ s.threads) : s.thread? x.tid = some x := by
  cases h : s.thread? x.tid with
  | none => exact absurd (List.find?_eq_none.1 h x hx) (by simp)
  | some y =>
    have hy := List.find?_some h
    exact congrArg some (eq_of_tid_eq hn (List.mem_of_find?_eq_some h) hx (by simpa using hy))

theorem thread?_map (f : Thread → Thread) (hf : ∀ t, (f t).tid = t.tid) (l : List Thread) (u : State) (hu : u.threads = l.map f) (tid : Nat) :
    u.thread? tid = (l.find? (·.tid == tid)).map f := by
  rw [State.thread?, hu, List.find?_map]
  congr 2
  funext t
  simp [hf]

/-- What the whole word leaves of a thread that executes it. -/
theorem ret_thread (hn : (s.threads.map Thread.tid).Nodup) {x : Thread} (hx : x ∈ s.threads) (hex : executes iss g x = true) :
    (s.executing iss g).foldl Thread.afterFrameOf (x.returned s iss) = (x.returned s iss).afterFrameOf x :=
  Thread.foldl_afterFrameOf_of_mem (mem_executing.2 ⟨hx, hex⟩) fun _ hu e =>
    eq_of_tid_eq hn (mem_executing.1 hu).1 hx (e.trans (x.returned_tid s iss))

/-- A thread after the returns, and after the frames of `before` have ended. -/
def Thread.returnedAfter (s : State) (iss : Issue) (g : BitVec 4) (before : List Thread) (t : Thread) : Thread :=
  before.foldl Thread.afterFrameOf (if executes iss g t then t.returned s iss else t)

/-- The releases that RET leaves behind for a thread. -/
theorem ret_releases (hn : (s.threads.map Thread.tid).Nodup) {x : Thread} (hx : x ∈ s.threads) (hex : executes iss g x = true) (hs : x.stack ≠ [])
    {h : Held} (hh : h ∈ x.held) (he : x.endsFrame h = true) :
    ∃ r ∈ ((s.executing iss g).foldl State.endFrame (onExecuting s iss g (Thread.returned s iss))).rels,
      r.tid = x.tid ∧ r.colour = h.colour ∧ r.depth = h.depth ∧ r.wait = false := by
  obtain ⟨before, after, hsplit, hfirst⟩ := List.eq_append_cons_of_mem (mem_executing.2 ⟨hx, hex⟩)
  rw [hsplit, List.foldl_append, List.foldl_cons]
  have hin : ∀ u ∈ before, u.tid ≠ x.tid := fun u hu e => by
    have hu' : u ∈ s.executing iss g := by rw [hsplit]; exact List.mem_append_left _ hu
    exact hfirst (eq_of_tid_eq hn (mem_executing.1 hu').1 hx e ▸ hu)
  have hf (t : Thread) : (t.returnedAfter s iss g before).tid = t.tid := by
    simp only [Thread.returnedAfter, Thread.foldl_afterFrameOf_tid]
    split
    · exact t.returned_tid s iss
    · rfl
  have hthreads : (before.foldl State.endFrame (onExecuting s iss g (Thread.returned s iss))).threads = s.threads.map (·.returnedAfter s iss g before) := by
    rw [State.foldl_endFrame_threads]
    simp [onExecuting, Thread.returnedAfter]
  have hfound := thread?_map _ hf s.threads _ hthreads x.tid
  have hfx : x.returnedAfter s iss g before = x.returned s iss := by
    rw [Thread.returnedAfter, if_pos hex]
    exact Thread.foldl_afterFrameOf_of_ne fun u hu => by rw [x.returned_tid]; exact hin u hu
  change _ = (s.thread? x.tid).map _ at hfound
  rw [thread?_of_mem hn hx, Option.map_some, hfx] at hfound
  obtain ⟨r, hr, hspec⟩ := State.endFrame_releases hfound hs ((x.returned_held s iss).symm ▸ hh) he
  exact ⟨r, State.foldl_endFrame_rels_mono _ _ hr, hspec⟩

end

theorem returns : Returns := by
  intro g s iss h hn
  refine ⟨_, ret_eq h g, ?_, frame_trans (onExecuting_frame _) (State.foldl_endFrame_frame _ _), fun k x hk => ?_⟩
  · rw [State.foldl_endFrame_threads]
    simp [onExecuting]
  have hx : x ∈ s.threads := List.mem_of_getElem? hk
  refine ⟨(s.executing iss g).foldl Thread.afterFrameOf (if executes iss g x then x.returned s iss else x), ?_, fun hex => ?_, fun hex hs => ?_,
    fun e rest hex hs => ?_⟩
  · rw [State.foldl_endFrame_threads]
    simp [onExecuting, hk]
  · rw [hex, if_neg Bool.false_ne_true]
    exact Thread.foldl_afterFrameOf_of_ne fun u hu e => by
      rw [eq_of_tid_eq hn (mem_executing.1 hu).1 hx e] at hu
      exact Bool.false_ne_true (hex.symm.trans (mem_executing.1 hu).2)
  · rw [if_pos hex, ret_thread hn hx hex, Thread.returned_of_nil hs]
    exact if_neg fun e => e.2 hs
  · have hne : x.stack ≠ [] := by rw [hs]; exact List.cons_ne_nil e rest
    have hends (h : Held) : (h.depth == rest.length + 1 && h.st != .waiting) = x.endsFrame h := by rw [Thread.endsFrame, hs, List.length_cons]
    have hafter : (x.returned s iss).afterFrameOf x = (x.returned s iss).giveUp x.endsFrame := if_pos ⟨x.returned_tid s iss, hne⟩
    rw [if_pos hex, ret_thread hn hx hex, hafter]
    simp only [hends]
    refine ⟨?_, ?_, fun h hh he => ret_releases hn hx hex hne hh he⟩
    · simp only [Thread.giveUp, Thread.returned, hs]
    · simp only [Thread.giveUp, Thread.returned, hs]
      exact List.mem_cons_self

/-- Settles O36: jumps, calls and returns; a return gives up the colours of the frame that ends. -/
theorem jumpsCallsAndReturns : Obligations.JumpsCallsAndReturns := ⟨jumpsAndCalls, returns⟩

end Sys2Proof.Machine
end

section
/-!
SUPPORT. The words of the system group (R66, R67, R74, R80, R108, R109, R116, R133, R341, R345, R346, R393 to R398).
-/

namespace Sys2Proof.Machine

open Claim

/-! ### Marks, special registers and traps -/

section
variable {s : State} {iss : Issue} (h : s.cur? = some iss) (g : BitVec 4) (f : Cohort → Cohort)
include h

theorem cohortWord_some (hex : ∃ t ∈ s.threads, executes iss g t = true) : cohortWord g f s = .next (s.modCohort iss.cid f) := by
  obtain ⟨t, ht, hx⟩ := hex
  have hne : (s.executing iss g).isEmpty = false := by
    rw [List.isEmpty_eq_false_iff_exists_mem]
    exact ⟨t, mem_executing.2 ⟨ht, hx⟩⟩
  rw [cohortWord, h]
  simp [hne]

theorem cohortWord_none (hex : ¬ ∃ t ∈ s.threads, executes iss g t = true) : cohortWord g f s = .next s := by
  have hnil : s.executing iss g = [] := List.eq_nil_iff_forall_not_mem.2 fun t ht => hex ⟨t, mem_executing.1 ht⟩
  rw [cohortWord, h]
  simp [hnil]

end

theorem cohortMarks : CohortMarks := by
  intro c g s iss h
  exact ⟨rfl, cohortWord_some h g _, cohortWord_none h g _, cohortWord_some h g _, cohortWord_none h g _⟩

theorem specialRegisterWrites : SpecialRegisterWrites := by
  intro c g n a s iss h
  refine ⟨fun hn => threadWord_eq h g fun t => ?_, threadWord_eq h g fun t => ?_, threadWord_eq h g fun _ => rfl, fun t v hp hs => ?_, fun t v hp => ?_⟩
  · rw [if_neg fun e => hn e.1]
    rfl
  · cases t.trapped <;> simp [Thread.answered, tcIllegal]
  · simp [Thread.applySr, hp, hs, fpcMask]
  · simp [Thread.applySr, hp]

theorem codeWord_soft (t : Thread) (sc : Bool) : codeWord t tcSoftware sc = word (0x13 + 0x100 * (if sc then 1 else 0) + 2 ^ 16 + t.pass * 2 ^ 24 : Nat) := by
  rw [word_natCast]
  cases sc <;> rfl

theorem trapWords : TrapWords := by
  intro c g b s iss h
  refine ⟨threadWord_eq h g fun t => ?_, threadWord_eq h g fun t => ?_, threadWord_eq h g fun t => ?_⟩
  · simp only [Thread.answered, Thread.fault, codeWord_soft]
    rfl
  · simp only [Thread.answered, Thread.fault, codeWord_soft]
    rfl
  · cases t.trapped <;> rfl

/-! ### EXIT -/

/-- A change of a thread that keeps what the log calls it (R393). -/
def KeepsName (f : Thread → Thread) : Prop := ∀ t, (f t).tid = t.tid ∧ (f t).gid = t.gid ∧ (f t).cid = t.cid ∧ (f t).idx = t.idx

theorem KeepsName.ite {f : Thread → Thread} (hf : KeepsName f) (p : Thread → Bool) : KeepsName fun t => if p t then f t else t := by
  intro t
  cases h : p t with
  | true => simpa [h] using hf t
  | false => simp [h]

section
variable {s : State} {f : Thread → Thread} (hf : KeepsName f)
include hf

theorem logName_map (tid : Nat) : ({ s with threads := s.threads.map f } : State).logName tid = s.logName tid := by
  have hfind := thread?_map f (fun t => (hf t).1) s.threads { s with threads := s.threads.map f } rfl tid
  simp only [State.logName, hfind]
  change (match (s.thread? tid).map f with | none => _ | some t => _) = _
  cases s.thread? tid with
  | none => rfl
  | some t =>
    obtain ⟨-, hgid, hcid, hidx⟩ := hf t
    simp only [Option.map_some, hgid, hcid, hidx]
    rfl

theorem hashEntry_map (k : Kernel) (tid : Nat) : ({ s with threads := s.threads.map f } : State).hashEntry k tid = s.hashEntry k tid := by
  simp only [State.hashEntry, logName_map hf]
  rfl

theorem hashBad_map (k : Kernel) (tid : Nat) : ({ s with threads := s.threads.map f } : State).hashBad k tid = s.hashBad k tid := by
  simp only [State.hashBad, hashEntry_map hf]
  rfl

end

theorem exitRecord_threads (s : State) (t : Thread) : (s.exitRecord t).threads = s.threads := by
  unfold State.exitRecord
  split
  · rfl
  · (repeat' split) <;> simp

theorem foldl_exitRecord_threads (ts : List Thread) (s : State) : (ts.foldl State.exitRecord s).threads = s.threads := by
  induction ts generalizing s with
  | nil => rfl
  | cons t ts ih => rw [List.foldl_cons, ih, exitRecord_threads]

theorem exit_eq {s : State} {iss : Issue} (h : s.cur? = some iss) (g : BitVec 4) :
    exec (.exit g) s = .next ((s.executing iss g).foldl State.exitRecord
      (onExecuting s iss g fun t => t.answered iss s.fresh (s.exitCheck t))) := by
  rw [← onIssuing_threadOne h g fun _ t => s.exitCheck t]
  change execExit g s = _
  rw [execExit, h]

section
variable {s : State} {iss : Issue} {g : BitVec 4}

/-- A thread that EXIT marks in every mode in which nothing else changes (R395, R397). -/
def leavesQuietly (s : State) (t : Thread) : Prop := t.trapped = true ∨ ∀ k, s.kernelOf? t.gid = some k →
  k.lr.mode < 2 ∨ (k.lr.mode = 3 ∧ s.hashBad k t.tid = none ∧ t.hash = BitVec.ofNat 64 (s.homeRead k.asid (s.hashEntry k t.tid) 8))

theorem exitCheck_quiet {t : Thread} (h : leavesQuietly s t) : s.exitCheck t = .ok { t with exiting := true } := by
  unfold State.exitCheck
  split
  · rfl
  · next k hk =>
    split
    · rfl
    · next hmode =>
      rw [not_or] at hmode
      obtain ht | h := h
      · exact absurd ht hmode.2
      obtain hlow | ⟨-, hbad, hhash⟩ := h k hk
      · exact absurd hlow hmode.1
      rw [hbad]
      simp [hhash]

theorem exitRecord_quiet {u : State} (hk : u.kernelOf? = s.kernelOf?) (hbad : u.hashBad = s.hashBad) {t : Thread} (h : leavesQuietly s t) :
    u.exitRecord t = u := by
  unfold State.exitRecord
  rw [hk, hbad]
  split
  · rfl
  · next k hk =>
    split
    · rfl
    · next hmode =>
      rw [not_or] at hmode
      obtain ht | h := h
      · exact absurd ht hmode.2
      obtain hlow | ⟨hthree, hbad, -⟩ := h k hk
      · exact absurd hlow hmode.1
      rw [hbad]
      simp [hthree]

/-- A thread whose kernel records or replays (R393). -/
theorem exitCheck_logged {t : Thread} {k : Kernel} (hk : s.kernelOf? t.gid = some k) (hm : 2 ≤ k.lr.mode) (ht : t.trapped = false) :
    s.exitCheck t = match s.hashBad k t.tid with
      | some a => .error (.mk2 tcUncorrectable (BitVec.ofNat 64 a))
      | none => if k.lr.mode = 3 ∧ t.hash ≠ BitVec.ofNat 64 (s.homeRead k.asid (s.hashEntry k t.tid) 8)
        then .error (.mk2 tcDiverged (BitVec.ofNat 64 (s.homeRead k.asid (s.hashEntry k t.tid) 8))) else .ok { t with exiting := true } := by
  simp only [State.exitCheck, hk]
  rw [if_neg (by simp [ht]; omega)]
  cases s.hashBad k t.tid with
  | some a => rfl
  | none => simp [ht]

theorem keepsName_exiting : KeepsName fun t => { t with exiting := true } := fun _ => ⟨rfl, rfl, rfl, rfl⟩

/-- The state after EXIT has marked its threads reads the log as the one before. -/
theorem hashBad_exiting : (onExecuting s iss g fun t => { t with exiting := true }).hashBad = s.hashBad := by
  funext k tid
  exact hashBad_map (keepsName_exiting.ite (executes iss g)) k tid

theorem kernelOf?_onExecuting (f : Thread → Thread) : (onExecuting s iss g f).kernelOf? = s.kernelOf? := rfl

theorem foldl_exitRecord_quiet {ts : List Thread} {u : State} (hk : u.kernelOf? = s.kernelOf?) (hbad : u.hashBad = s.hashBad)
    (h : ∀ t ∈ ts, leavesQuietly s t) : ts.foldl State.exitRecord u = u := by
  induction ts with
  | nil => rfl
  | cons t ts ih =>
    rw [List.foldl_cons, exitRecord_quiet hk hbad (h t List.mem_cons_self)]
    exact ih fun x hx => h x (List.mem_cons_of_mem _ hx)

theorem exit_quiet (h : s.cur? = some iss) (hq : ∀ t ∈ s.threads, executes iss g t = true → leavesQuietly s t) :
    exec (.exit g) s = .next (onExecuting s iss g fun t => { t with exiting := true }) := by
  have hmarks : (onExecuting s iss g fun t => t.answered iss s.fresh (s.exitCheck t)) = onExecuting s iss g fun t => { t with exiting := true } :=
    onExecuting_congr fun t ht hex => by rw [exitCheck_quiet (hq t ht hex)]; rfl
  rw [exit_eq h, hmarks, foldl_exitRecord_quiet (kernelOf?_onExecuting _) hashBad_exiting fun t ht => hq t (mem_executing.1 ht).1 (mem_executing.1 ht).2]

/-- What EXIT does to the log for one thread of a kernel in record mode (R395). -/
def State.recordHash (u : State) (t : Thread) : State :=
  match u.kernelOf? t.gid with
  | some k => (match u.hashBad k t.tid with
    | none => u.homeWrite k.asid (u.hashEntry k t.tid) 8 t.hash.toNat
    | some a => u.meetRead k.asid a)
  | none => u

/-- A thread of a kernel in record mode that is not trapped. -/
def recorded (s : State) (t : Thread) : Prop := t.trapped = false ∧ ∃ k, s.kernelOf? t.gid = some k ∧ k.lr.mode = 2

theorem exitRecord_recorded {t : Thread} (h : recorded s t) : s.exitRecord t = s.recordHash t := by
  obtain ⟨ht, k, hk, hm⟩ := h
  simp only [State.exitRecord, State.recordHash, hk]
  rw [if_neg (by simp [hm, ht])]
  cases s.hashBad k t.tid with
  | some a => rfl
  | none => exact if_pos hm

theorem recordHash_kernelOf? (u : State) (t : Thread) : (u.recordHash t).kernelOf? = u.kernelOf? := by
  funext gid
  unfold State.recordHash
  split
  · split <;> simp [State.kernelOf?, State.group?, State.kernel?]
  · rfl

theorem foldl_exitRecord_recorded {ts : List Thread} {u : State} (hk : u.kernelOf? = s.kernelOf?) (h : ∀ t ∈ ts, recorded s t) :
    ts.foldl State.exitRecord u = ts.foldl State.recordHash u := by
  induction ts generalizing u with
  | nil => rfl
  | cons t ts ih =>
    have ht : recorded u t := by
      unfold recorded
      rw [hk]
      exact h t List.mem_cons_self
    rw [List.foldl_cons, List.foldl_cons, exitRecord_recorded ht]
    exact ih ((recordHash_kernelOf? u t).trans hk) fun x hx => h x (List.mem_cons_of_mem _ hx)

theorem exit_record (h : s.cur? = some iss) (hr : ∀ t ∈ s.threads, executes iss g t = true →
      t.trapped = false ∧ ∃ k, s.kernelOf? t.gid = some k ∧ k.lr.mode = 2 ∧ s.hashBad k t.tid = none) :
    exec (.exit g) s = .next ((s.executing iss g).foldl State.recordHash (onExecuting s iss g fun t => { t with exiting := true })) := by
  have hmarks : (onExecuting s iss g fun t => t.answered iss s.fresh (s.exitCheck t)) = onExecuting s iss g fun t => { t with exiting := true } :=
    onExecuting_congr fun t ht hex => by
      obtain ⟨htr, k, hk, hm, hbad⟩ := hr t ht hex
      rw [exitCheck_logged hk (by omega) htr, hbad]
      simp [hm, Thread.answered]
  rw [exit_eq h, hmarks, foldl_exitRecord_recorded (kernelOf?_onExecuting _) fun t ht => ?_]
  obtain ⟨hts, hex⟩ := mem_executing.1 ht
  obtain ⟨htr, k, hk, hm, -⟩ := hr t hts hex
  exact ⟨htr, k, hk, hm⟩

/-- Where every executing thread faults, EXIT leaves the threads with their faults. -/
theorem exit_faults (h : s.cur? = some iss) {x : Thread → Flt} (hx : ∀ t ∈ s.threads, executes iss g t = true → s.exitCheck t = .error (x t)) :
    ∃ t : State, exec (.exit g) s = .next t ∧ t.threads = (onExecuting s iss g fun t => t.fault iss s.fresh (x t)).threads := by
  refine ⟨_, exit_eq h g, ?_⟩
  rw [foldl_exitRecord_threads, onExecuting_congr fun t ht hex => congrArg (t.answered iss s.fresh) (hx t ht hex)]
  rfl

end

theorem hashEntry_eq {s : State} {t : Thread} (h : s.thread? t.tid = some t) (k : Kernel) : s.hashEntry k t.tid =
    k.lr.logBase + s.homeRead k.asid (k.lr.logBase + 8) 8 + 8 * ((((s.group? t.gid).map Group.index).getD 0) *
      (k.lr.tx * k.lr.ty * k.lr.tz + k.lr.spawn * (32 * 2 ^ k.lr.width)) + 32 * 2 ^ k.lr.width * (((s.cohort? t.cid).map Cohort.idx).getD 0) + t.idx) := by
  simp only [State.hashEntry, State.logName, h]

theorem exitWord : ExitWord := by
  intro g s iss h
  refine ⟨exit_quiet h, exit_record h, fun hbad => exit_faults h fun t ht hex => ?_, fun _ _ => rfl, fun t k ht => hashEntry_eq ht k,
    fun hdiv => exit_faults h fun t ht hex => ?_⟩
  · obtain ⟨htr, k, a, hk, hm, ha⟩ := hbad t ht hex
    rw [exitCheck_logged hk hm htr]
    simp [ha, hk, tcUncorrectable]
  · obtain ⟨htr, k, hk, hm, hnone, hne⟩ := hdiv t ht hex
    rw [exitCheck_logged hk (by omega) htr]
    simp [hnone, hk, hm, hne, tcDiverged]

/-- Settles O37: the marks of a cohort, special registers written, traps, and EXIT in its modes. -/
theorem systemWords : Obligations.SystemWords := ⟨cohortMarks, specialRegisterWrites, trapWords, exitWord⟩


end Sys2Proof.Machine
end

section
/-!
SUPPORT. The shuffles (R125) on a cohort without passes, where the place that SHFL_IDX names is not below the width.
-/

namespace Sys2Proof.Machine

open Claim

/-- The placed thread, in another lane, with a value in g1. -/
def shuffler (tid lane : Nat) (v : Word) (t : Thread) : Thread := { t with tid := tid, lane := lane, g := t.g.set 1 v }

/-- Two threads of the placed cohort, in lanes 0 and 1, that hold 10 and 20 in g1; the cohort has no pass. -/
def shuffleState : State :=
  let s := State.reset.placeInClause 0 false false
  { s with
    threads := s.threads.flatMap fun t => [shuffler 4 0 10 t, shuffler 5 1 20 t]
    cohorts := s.cohorts.map fun c => { c with passes := 0 }
    issues := s.issues.map fun i => { i with tids := [4, 5] } }

def shuffleIssue : Issue :=
  { core := 0, cid := 3, hdr := 0, words := (placedClause 0 false false).2, aFlag := 0, bFlag := 15, pos := (placedClause 0 false false).1, t0 := 0,
    grp := (placedClause 0 false false).1, flagged := 0, tids := [4, 5], tagsRd := 0, stageRd := 0 }

theorem shuffleState_cur : shuffleState.cur? = some shuffleIssue := by decide

theorem shuffleState_idx : ∀ x ∈ shuffleState.threads, ∀ y ∈ shuffleState.threads, x.idx = y.idx → x = y := by decide

/-- The results that a step leaves on their way to a thread. -/
def landsAt (o : Out) (tid : Nat) : Option (List Landing) :=
  match o with
  | .next u => (u.thread? tid).map Thread.lands
  | _ => none

theorem shuffleState_gives : landsAt (exec (.shflIdx 0 0 3 1 0) shuffleState) 5 = some [⟨3, .g 3 10, 0⟩] := by decide

theorem shuffle_lands (v : Thread → Word) (t : Thread) (ht : shuffleState.threads[1]? = some t) :
    landsAt (.next (lands shuffleState shuffleIssue 0 3 [.g 1, .g 0] fun t => [.g 3 (v t)])) 5 = some [⟨3, .g 3 (v t), 0⟩] := by
  obtain rfl : _ = t := Option.some.inj ht
  rfl

/-- Refutes O5: where the cohort has no pass, the width is 0, and SHFL_IDX still names participant b, as b modulo 0 is b; the statement asks for the own
value of a thread, since no place lies below the width. Thread 5 holds 20 and gets the 10 of thread 4. -/
theorem not_shuffles : ¬ Obligations.Shuffles := by
  intro hall
  obtain ⟨v, hexec, hv⟩ := hall (.shflIdx, fun w _ b => b % w) List.mem_cons_self 0 0 3 1 0 shuffleState shuffleIssue shuffleState_cur
    fun x hx y hy _ _ => shuffleState_idx x hx y hy
  obtain ⟨t, ht, hex, hown, hw⟩ : ∃ t, shuffleState.threads[1]? = some t ∧ executes shuffleIssue 0 t = true ∧
      srcG shuffleIssue t .sign 1 = 20 ∧ shuffleState.passesOf shuffleIssue = 0 := by
    refine ⟨_, rfl, ?_, ?_, ?_⟩ <;> decide
  have hval : v t = 20 := by
    rw [← hown]
    refine (hv t (List.mem_of_getElem? ht) hex).2 (.inr (.inl ?_))
    simp [hw]
  have hgives := shuffleState_gives
  rw [hexec] at hgives
  have hsame := (shuffle_lands v t ht).symm.trans hgives
  rw [hval] at hsame
  exact absurd hsame (by decide)

end Sys2Proof.Machine
end

section
/-!
SUPPORT. The point words of the F pipe (R130 to R137, R141 to R148, R154 to R156): what they land, and how the flagged ones end.
-/

namespace Sys2Proof.Machine

open Claim

section
variable {s : State} {iss : Issue} (h : s.cur? = some iss) (g : BitVec 4)
include h

/-- A point word of fixed latency lands its results with their exceptions, or its trap. -/
theorem fpWord_lands (lat : Nat) (srcs : List Reg) {f : Issue → Thread → List Eff × Nat} {res : Thread → List Eff × Nat}
    (hf : ∀ t, f iss t = res t) : fpWord g lat srcs f s = .next (fpLands s iss g lat srcs res) := by
  obtain rfl : f iss = res := funext hf
  exact fpWord_next g lat srcs f s iss h

/-- A word of fixed latency lands what it computes. -/
theorem fixedWord_lands_of_eq (lat : Nat) (srcs : List Reg) {f : Issue → Thread → Except Flt (List Eff)} {res : Thread → List Eff}
    (hf : ∀ t, f iss t = .ok (res t)) : fixedWord g lat srcs f s = .next (lands s iss g lat srcs res) := by
  rw [← fixedWord_lands h g lat srcs fun _ => res, fixedWord, fixedWord]
  have hone (t : Thread) : fixedOne g s.fresh lat srcs f iss t = fixedOne g s.fresh lat srcs (fun _ t => .ok (res t)) iss t := by
    simp only [fixedOne, hf]
  simp only [State.onIssuing, h, hone]

end

theorem toF_eq (d : BitVec 6) (v : Nat) : toF d v = .f d.toNat (word (v : Nat)) := by rw [word_natCast]; rfl

theorem toG_eq (d : BitVec 6) (v : Nat) : toG d v = .g d.toNat (word (v : Nat)) := by rw [word_natCast]; rfl

/-- One result in the low bits of a register, with its exceptions. -/
theorem toF_eq_fRes (d : BitVec 6) (r : Nat × Nat) : ([toF d r.1], r.2) = fRes d r := by rw [toF_eq]; rfl

theorem bitsOf_eq (F : Fmt) (t : Thread) (k : BitVec 6) : F.bitsOf (t.fr k.toNat) = fBits F t k := rfl

theorem pt_eq (F : Fmt) (t : Thread) (k : BitVec 6) : t.pt F k = fVal F t k := rfl

/-! ### Arithmetic (R135, R137) -/

section
variable {s : State} {iss : Issue} (h : s.cur? = some iss) (F : Fmt) (g : BitVec 4) (d a b : BitVec 6)
include h

theorem ptBin_lands (f : RMode → Fp → Fp → Nat × Nat) : ptBin F g d a b f s =
    .next (fpLands s iss g 4 [.f a.toNat, .f b.toNat] fun t => fRes d (f t.rmode (fVal F t a) (fVal F t b))) :=
  fpWord_lands h g 4 _ fun _ => toF_eq_fRes d _

theorem ptFused_lands (fn : Nat) : ptFused F fn g d a b s = .next (fpLands s iss g 4 [.f a.toNat, .f b.toNat, .f d.toNat]
    fun t => fRes d (F.fused t.rmode fn (fVal F t a) (fVal F t b) (fVal F t d))) :=
  fpWord_lands h g 4 _ fun _ => toF_eq_fRes d _

theorem ptUn_lands (lat : Nat) (f : RMode → Nat → Nat × Nat) : ptUn lat F g d a f s =
    .next (fpLands s iss g lat [.f a.toNat] fun t => fRes d (f t.rmode (fBits F t a))) :=
  fpWord_lands h g lat _ fun _ => toF_eq_fRes d _

end

theorem pointArithmetic : PointArithmetic := by
  intro c g d a b s iss h
  refine ⟨fun r hr => ?_, fun r hr => ?_⟩
  · simp only [ptRows, List.mem_cons, List.not_mem_nil, or_false] at hr
    obtain rfl | rfl | rfl := hr
    · exact ⟨ptBin_lands h .s g d a b Fmt.s.add, ptBin_lands h .d g d a b Fmt.d.add⟩
    · exact ⟨ptBin_lands h .s g d a b fun m x y => Fmt.s.add m x y.negate, ptBin_lands h .d g d a b fun m x y => Fmt.d.add m x y.negate⟩
    · exact ⟨ptBin_lands h .s g d a b Fmt.s.mul, ptBin_lands h .d g d a b Fmt.d.mul⟩
  · simp only [fusedRows, List.mem_cons, List.not_mem_nil, or_false] at hr
    obtain rfl | rfl | rfl | rfl := hr
    · exact ⟨ptFused_lands h .s g d a b 0, ptFused_lands h .d g d a b 0⟩
    · exact ⟨ptFused_lands h .s g d a b 1, ptFused_lands h .d g d a b 1⟩
    · exact ⟨ptFused_lands h .s g d a b 2, ptFused_lands h .d g d a b 2⟩
    · exact ⟨ptFused_lands h .s g d a b 3, ptFused_lands h .d g d a b 3⟩

/-! ### Selections (R136, R141, R143) -/

theorem minMax_eq_pickOf (F : Fmt) (larger : Bool) (x y : Nat) : F.minMax larger x y = pickOf F larger x y := by
  have hsig : sigExc [F.decode x, F.decode y] = if (F.decode x).isSig || (F.decode y).isSig then 1 else 0 := by simp [sigExc]
  simp only [Fmt.minMax, pickOf, hsig]
  generalize (Fp.lt (F.decode x) (F.decode y) || (F.decode x).eq (F.decode y) && (F.decode x).neg? && !(F.decode y).neg?) = below
  split
  · rfl
  · split
    · rfl
    · split
      · rfl
      · cases larger <;> cases below <;> rfl

theorem classBit_eq_classOf (F : Fmt) (x : Nat) : F.classBit x = classOf F x := by
  simp only [Fmt.classBit, classOf]
  cases F.decode x with
  | nan sig => cases sig <;> rfl
  | inf n => cases n <;> rfl
  | fin n m e => rfl

theorem fBits_lt (F : Fmt) (t : Thread) (k : BitVec 6) : fBits F t k < 2 ^ (F.ebits + F.fbits + 1) := Nat.mod_lt _ (by positivity)

/-- Changing the sign bit, as FNEG does. -/
theorem flipSign_eq {x n : Nat} (hx : x < 2 ^ (n + 1)) : x % 2 ^ n + (1 - x / 2 ^ n) * 2 ^ n = (x + 2 ^ n) % 2 ^ (n + 1) := by
  rw [pow_succ] at hx ⊢
  have hpos : 0 < 2 ^ n := by positivity
  generalize 2 ^ n = p at hx hpos ⊢
  by_cases hlt : x < p
  · rw [Nat.mod_eq_of_lt hlt, Nat.div_eq_of_lt hlt, Nat.mod_eq_of_lt (by omega), Nat.sub_zero, Nat.one_mul]
  · obtain ⟨y, rfl⟩ := Nat.exists_eq_add_of_le (Nat.not_lt.1 hlt)
    have hy : y < p := by omega
    rw [Nat.add_mod_left, Nat.add_div_left _ hpos, Nat.mod_eq_of_lt hy, Nat.div_eq_of_lt hy, show p + y + p = y + p * 2 by omega, Nat.add_mod_right,
      Nat.mod_eq_of_lt (by omega), Nat.sub_self, Nat.zero_mul, Nat.add_zero]

theorem fBits_s_lt (t : Thread) (k : BitVec 6) : fBits .s t k < 2 ^ (31 + 1) := fBits_lt .s t k

theorem fBits_d_lt (t : Thread) (k : BitVec 6) : fBits .d t k < 2 ^ (63 + 1) := fBits_lt .d t k

section
variable {s : State} {iss : Issue} (h : s.cur? = some iss) (F : Fmt) (g : BitVec 4) (d a b : BitVec 6)
include h

theorem ptMinMax_lands (larger : Bool) : ptMinMax F larger g d a b s =
    .next (fpLands s iss g 4 [.f a.toNat, .f b.toNat] fun t => fRes d (pickOf F larger (fBits F t a) (fBits F t b))) :=
  fpWord_lands h g 4 _ fun t => by rw [← minMax_eq_pickOf]; exact toF_eq_fRes d _

theorem ptSign_lands (more : List Reg) {sign : Thread → Nat → Nat} {v : Thread → Nat}
    (hv : ∀ t, fBits F t a % 2 ^ F.signBit + sign t (fBits F t a / 2 ^ F.signBit) * 2 ^ F.signBit = v t) :
    ptSign F g d a more sign s = .next (lands s iss g 4 (.f a.toNat :: more) fun t => [.f d.toNat (word (v t : Nat))]) :=
  fixedWord_lands_of_eq h g 4 _ fun t => by rw [← hv, ← toF_eq]; rfl

theorem classWord_lands : fixedWord g 4 [.f a.toNat] (fun _ t => .ok [toG d (2 ^ F.classBit (F.bitsOf (t.fr a.toNat)))]) s =
    .next (lands s iss g 4 [.f a.toNat] fun t => [.g d.toNat (word (2 ^ classOf F (fBits F t a) : Nat))]) :=
  fixedWord_lands_of_eq h g 4 _ fun t => by rw [classBit_eq_classOf, toG_eq]; rfl

end

section
variable {s : State} {iss : Issue} (h : s.cur? = some iss) (g : BitVec 4) (d a b : BitVec 6)
include h

theorem fcpysS_lands : execFcpysS g d a b s = .next (lands s iss g 4 [.f a.toNat, .f b.toNat]
    fun t => [.f d.toNat (word (fBits .s t a % 2 ^ 31 + fBits .s t b / 2 ^ 31 * 2 ^ 31 : Nat))]) :=
  ptSign_lands h .s g d a [.f b.toNat] fun _ => rfl

theorem fcpysD_lands : execFcpysD g d a b s = .next (lands s iss g 4 [.f a.toNat, .f b.toNat]
    fun t => [.f d.toNat (word (fBits .d t a % 2 ^ 63 + fBits .d t b / 2 ^ 63 * 2 ^ 63 : Nat))]) :=
  ptSign_lands h .d g d a [.f b.toNat] fun _ => rfl

theorem fabsS_lands : execFabsS g d a s = .next (lands s iss g 4 [.f a.toNat] fun t => [.f d.toNat (word (fBits .s t a % 2 ^ 31 : Nat))]) :=
  ptSign_lands h .s g d a [] fun _ => by rw [Nat.zero_mul, Nat.add_zero]; rfl

theorem fabsD_lands : execFabsD g d a s = .next (lands s iss g 4 [.f a.toNat] fun t => [.f d.toNat (word (fBits .d t a % 2 ^ 63 : Nat))]) :=
  ptSign_lands h .d g d a [] fun _ => by rw [Nat.zero_mul, Nat.add_zero]; rfl

theorem fnegS_lands : execFnegS g d a s = .next (lands s iss g 4 [.f a.toNat]
    fun t => [.f d.toNat (word ((fBits .s t a + 2 ^ 31) % 2 ^ 32 : Nat))]) :=
  ptSign_lands h .s g d a [] fun t => flipSign_eq (fBits_s_lt t a)

theorem fnegD_lands : execFnegD g d a s = .next (lands s iss g 4 [.f a.toNat]
    fun t => [.f d.toNat (word ((fBits .d t a + 2 ^ 63) % 2 ^ 64 : Nat))]) :=
  ptSign_lands h .d g d a [] fun t => flipSign_eq (fBits_d_lt t a)

end

theorem pointSelections : PointSelections := by
  intro c g d a b s iss h
  refine ⟨fun r hr => ?_, fcpysS_lands h g d a b, fcpysD_lands h g d a b,
    fabsS_lands h g d a, fabsD_lands h g d a, fnegS_lands h g d a, fnegD_lands h g d a,
    classWord_lands h .s g d a, classWord_lands h .d g d a⟩
  · simp only [minMaxRows, List.mem_cons, List.not_mem_nil, or_false] at hr
    obtain rfl | rfl := hr
    · exact ⟨ptMinMax_lands h .s g d a b false, ptMinMax_lands h .d g d a b false⟩
    · exact ⟨ptMinMax_lands h .s g d a b true, ptMinMax_lands h .d g d a b true⟩

/-! ### Functions (R141, R142) -/

theorem pointFunctions : PointFunctions := by
  intro r hr c g d a s iss h
  simp only [fnRows, List.mem_cons, List.not_mem_nil, or_false] at hr
  obtain rfl | rfl | rfl | rfl | rfl | rfl | rfl := hr
  · exact ⟨ptUn_lands h .s g d a 8 fun m x => Fmt.s.rcp m (Fmt.s.decode x), ptUn_lands h .d g d a 8 fun m x => Fmt.d.rcp m (Fmt.d.decode x)⟩
  · exact ⟨ptUn_lands h .s g d a 8 fun m x => Fmt.s.rsq m (Fmt.s.decode x), ptUn_lands h .d g d a 8 fun m x => Fmt.d.rsq m (Fmt.d.decode x)⟩
  · exact ⟨ptUn_lands h .s g d a 8 fun _ x => Fmt.s.exp2 x, ptUn_lands h .d g d a 8 fun _ x => Fmt.d.exp2 x⟩
  · exact ⟨ptUn_lands h .s g d a 8 fun _ x => Fmt.s.log2 x, ptUn_lands h .d g d a 8 fun _ x => Fmt.d.log2 x⟩
  · exact ⟨ptUn_lands h .s g d a 8 fun _ x => Fmt.s.trig false x, ptUn_lands h .d g d a 8 fun _ x => Fmt.d.trig false x⟩
  · exact ⟨ptUn_lands h .s g d a 8 fun _ x => Fmt.s.trig true x, ptUn_lands h .d g d a 8 fun _ x => Fmt.d.trig true x⟩
  · exact ⟨ptUn_lands h .s g d a 4 fun m x => Fmt.s.rnd m (Fmt.s.decode x), ptUn_lands h .d g d a 4 fun m x => Fmt.d.rnd m (Fmt.d.decode x)⟩

/-- Settles O38: arithmetic, selections and functions, each row through the shared form of its words. -/
theorem pointWords : Obligations.PointWords := ⟨pointArithmetic, pointSelections, pointFunctions⟩

end Sys2Proof.Machine
end

section
/-!
SUPPORT. The flagged point words (R134, R135, R141), the compares of points (R147, R148), conversions, packed words, CBDEC and MXQ (R144 to R146, R154 to R156).
-/

namespace Sys2Proof.Machine

open Claim

/-! ### Flagged words (R134) -/

theorem trapWoken_eq_woken (was : TSt) (tid : Nat) (s : State) : s.trapWoken was tid = woken was tid s := by
  unfold State.trapWoken woken
  cases s.thread? tid <;> rfl

/-- A flagged operation of a thread that exists ends in the trap that it calls. -/
theorem flaggedFault_eq {s : State} {o : Op} {t : Thread} (h : s.thread? o.tid = some t) (d : Due) : s.flaggedFault o d = endsInTrap s o t d := by
  rw [State.flaggedFault, h, endsInTrap, ← trapWoken_eq_woken]
  rfl

theorem ptFlagged_starts (g : BitVec 4) (srcs : List Reg) {f res : Thread → List Eff × Nat} (hf : ∀ t, f t = res t) (s : State) :
    ptFlagged g srcs f s = .next (s.startOps g true false srcs fun iss t => .ok (fpOp s iss g res t)) := by
  obtain rfl : f = res := funext hf
  rfl

/-- Settles O8: division and square root put their result or their trap under way, which takes effect when they finish. -/
theorem flaggedPointWords : Obligations.FlaggedPointWords := by
  refine ⟨fun c g d a b s => ⟨fun r hr => ?_, ptFlagged_starts g _ (fun _ => toF_eq_fRes d _) s, ptFlagged_starts g _ (fun _ => toF_eq_fRes d _) s⟩,
    fun id s o t es x ho ht => ⟨fun hk => ?_, fun hk => ?_⟩⟩
  · obtain rfl := List.mem_singleton.1 hr
    exact ⟨ptFlagged_starts g _ (fun _ => toF_eq_fRes d _) s, ptFlagged_starts g _ (fun _ => toF_eq_fRes d _) s⟩
  · change execFpDivideSqrtComplete id s = _
    simp only [execFpDivideSqrtComplete, ho, hk]
  · change execFpDivideSqrtComplete id s = _
    simp only [execFpDivideSqrtComplete, ho, hk, flaggedFault_eq ht]

/-! ### Compares (R147, R148) -/

/-- What a compare of points says by a relation, with the invalid condition (R147). -/
def PtRelIs (cond : Nat) (quiet : Bool) (rel : Fp → Fp → Bool) : Prop :=
  ∀ x y : Fp, ptRel cond x y = (tf (rel x y), if x.isSig ∨ y.isSig ∨ (quiet = false ∧ ordered x y = false) then 1 else 0)

theorem isNan_of_isSig {x : Fp} (h : x.isSig = true) : x.isNan = true := by
  cases x with
  | nan sig => rfl
  | inf n => exact absurd h Bool.false_ne_true
  | fin n m e => exact absurd h Bool.false_ne_true

theorem sigExc_pair (x y : Fp) : sigExc [x, y] = if x.isSig = true ∨ y.isSig = true then 1 else 0 := by
  simp [sigExc]

/-- The conditions of a compare that is invalid for every NaN. -/
theorem ordered_false_iff (x y : Fp) : ordered x y = false ↔ (x.isNan || y.isNan) = true := by
  cases hx : x.isNan <;> cases hy : y.isNan <;> simp [ordered, hx, hy]

theorem invalidOfNan (x y : Fp) : (if (x.isNan || y.isNan) = true then 1 else 0) =
    if x.isSig = true ∨ y.isSig = true ∨ (False ∨ ordered x y = false) then 1 else 0 := by
  simp only [ordered_false_iff, false_or]
  refine if_congr ⟨fun h => .inr (.inr h), fun h => ?_⟩ rfl rfl
  obtain h | h | h := h
  · simp [isNan_of_isSig h]
  · simp [isNan_of_isSig h]
  · exact h

theorem not_nan_eq_ordered (x y : Fp) : (!(x.isNan || y.isNan)) = ordered x y := by rw [ordered, Bool.not_or]

theorem PtRelIs.quiet {cond : Nat} (hc : ¬ (2 ≤ cond ∧ cond ≤ 5)) {rel : Fp → Fp → Bool} (hr : ∀ x y, (ptRel cond x y).1 = tf (rel x y)) :
    PtRelIs cond true rel := by
  intro x y
  refine Prod.ext (hr x y) ?_
  simp [ptRel, hc, sigExc_pair]

theorem PtRelIs.signalling {cond : Nat} (hc : 2 ≤ cond ∧ cond ≤ 5) {rel : Fp → Fp → Bool} (hr : ∀ x y, (ptRel cond x y).1 = tf (rel x y)) :
    PtRelIs cond false rel := by
  intro x y
  refine Prod.ext (hr x y) ?_
  have h := invalidOfNan x y
  simp only [ptRel, hc, and_self, if_true]
  simpa using h

theorem ptCmp_lands {s : State} {iss : Issue} (h : s.cur? = some iss) (F : Fmt) (g : BitVec 4) (p : BitVec 2) (k : BitVec 3) (a b : BitVec 6)
    {cond : Nat} {quiet : Bool} {rel : Fp → Fp → Bool} (hrel : PtRelIs cond quiet rel) :
    ptCmp F cond g p k a b s = .next (fpLands s iss (cmpG g k) 4 (.f a.toNat :: .f b.toNat :: guardReg g :: pairRegs p) fun t =>
      if k = 1 ∧ t.guardVal g = .f then (pairRes t g p k .f, 0)
      else (pairRes t g p k (tf (rel (fVal F t a) (fVal F t b))),
        if (fVal F t a).isSig ∨ (fVal F t b).isSig ∨ (quiet = false ∧ ordered (fVal F t a) (fVal F t b) = false) then 1 else 0)) := by
  refine fpWord_lands h (cmpG g k) 4 _ fun t => ?_
  simp only [pt_eq, pairEffs_eq_pairRes, hrel (fVal F t a) (fVal F t b)]

theorem tf_eq_ite (b : Bool) : (if b = true then K3.t else K3.f) = tf b := rfl

/-- Settles O9: each relation of R148, with the invalid condition of a signalling NaN, or of any NaN. -/
theorem pointCompares : Obligations.PointCompares := by
  intro r hr c g p k a b s iss h
  simp only [fcmpRows, List.mem_cons, List.not_mem_nil, or_false] at hr
  obtain rfl | rfl | rfl | rfl | rfl | rfl | rfl | rfl := hr
  · have hrel : PtRelIs 0 true fun a b => ordered a b && Fp.eq a b := .quiet (by decide) fun x y => by simp only [← not_nan_eq_ordered]; rfl
    exact ⟨ptCmp_lands h .s g p k a b hrel, ptCmp_lands h .d g p k a b hrel⟩
  · have hrel : PtRelIs 1 true fun a b => !(ordered a b && Fp.eq a b) := .quiet (by decide) fun x y => by
      rw [← not_nan_eq_ordered, Bool.not_and, Bool.not_not]; rfl
    exact ⟨ptCmp_lands h .s g p k a b hrel, ptCmp_lands h .d g p k a b hrel⟩
  · have hrel : PtRelIs 2 false fun a b => ordered a b && Fp.lt a b := .signalling (by decide) fun x y => by simp only [← not_nan_eq_ordered]; rfl
    exact ⟨ptCmp_lands h .s g p k a b hrel, ptCmp_lands h .d g p k a b hrel⟩
  · have hrel : PtRelIs 3 false fun a b => ordered a b && Fp.le a b := .signalling (by decide) fun x y => by simp only [← not_nan_eq_ordered]; rfl
    exact ⟨ptCmp_lands h .s g p k a b hrel, ptCmp_lands h .d g p k a b hrel⟩
  · have hrel : PtRelIs 4 false fun a b => ordered a b && Fp.lt b a := .signalling (by decide) fun x y => by simp only [← not_nan_eq_ordered]; rfl
    exact ⟨ptCmp_lands h .s g p k a b hrel, ptCmp_lands h .d g p k a b hrel⟩
  · have hrel : PtRelIs 5 false fun a b => ordered a b && Fp.le b a := .signalling (by decide) fun x y => by simp only [← not_nan_eq_ordered]; rfl
    exact ⟨ptCmp_lands h .s g p k a b hrel, ptCmp_lands h .d g p k a b hrel⟩
  · have hrel : PtRelIs 6 true fun a b => !ordered a b := .quiet (by decide) fun x y => by rw [← not_nan_eq_ordered, Bool.not_not]; rfl
    exact ⟨ptCmp_lands h .s g p k a b hrel, ptCmp_lands h .d g p k a b hrel⟩
  · have hrel : PtRelIs 7 true ordered := .quiet (by decide) fun x y => by rw [← not_nan_eq_ordered]; rfl
    exact ⟨ptCmp_lands h .s g p k a b hrel, ptCmp_lands h .d g p k a b hrel⟩

/-! ### Conversions (R144, R145) -/

theorem intBits_pos (x : BitVec 3) : 0 < intBits x := by
  unfold intBits
  split <;> decide

/-- The integer that a conversion reads. -/
theorem fromInt_eq (x : BitVec 3) (v : Word) : (if intSigned x = true then sextInt v.toNat (intBits x) else ((v.toNat % 2 ^ intBits x : Nat) : Int)) =
    if (x.toNat % 2 == 0) = true then sx (if x.toNat < 2 then 32 else 64) v.toNat else ux (if x.toNat < 2 then 32 else 64) v.toNat := by
  rw [sextInt_eq_sx (intBits_pos x)]
  simp [intSigned, intBits, ux]

theorem fromInt_widen (x : BitVec 3) : (if x.toNat % 2 = 1 then Widen.zero else .sign) = if (x.toNat % 2 == 0) = true then .sign else .zero := by
  obtain h | h : x.toNat % 2 = 0 ∨ x.toNat % 2 = 1 := by omega
  · simp [h]
  · simp [h]

section
variable {s : State} {iss : Issue} (h : s.cur? = some iss) (g : BitVec 4) (d a b : BitVec 6)
include h

theorem fcvtFromInt_lands (x y : BitVec 3) : execFcvtFromInt g d a x y s = .next (fpLands s iss g 4 [.g a.toNat] fun t =>
    fRes d ((Fmt.ofCode y.toNat).round t.rmode (Fp.ofInt (if (x.toNat % 2 == 0) = true
      then sx (if x.toNat < 2 then 32 else 64) (srcG iss t (if (x.toNat % 2 == 0) = true then .sign else .zero) a).toNat
      else ux (if x.toNat < 2 then 32 else 64) (srcG iss t (if (x.toNat % 2 == 0) = true then .sign else .zero) a).toNat) 0 false))) := by
  refine fpWord_lands h g 4 _ fun t => ?_
  simp only [toF_eq_fRes, fromInt_eq, fromInt_widen]

/-! ### Packed words, CBDEC and MXQ (R154 to R156) -/

/-- The results of a packed word (R154). -/
def packRes (d : BitVec 6) (f : Thread → (BitVec 6 → Nat) → Nat × Nat) (t : Thread) : List Eff × Nat :=
  ([.f d.toNat (word (((f t fun i => (t.fr i.toNat).toNat / 2 ^ (16 * 0) % 2 ^ 16).1 +
      (f t fun i => (t.fr i.toNat).toNat / 2 ^ (16 * 1) % 2 ^ 16).1 * 2 ^ 16 : Nat)))],
    (f t fun i => (t.fr i.toNat).toNat / 2 ^ (16 * 0) % 2 ^ 16).2 ||| (f t fun i => (t.fr i.toNat).toNat / 2 ^ (16 * 1) % 2 ^ 16).2)

theorem packWord_lands (srcs : List (BitVec 6)) {f : Thread → (Word → Nat) → Nat × Nat} {r : Thread → (BitVec 6 → Nat) → Nat × Nat}
    (hf : ∀ t e, f t e = r t fun i => e (t.fr i.toNat)) :
    packWord g d srcs f s = .next (fpLands s iss g 4 (srcs.map fun k => .f k.toNat) (packRes d r)) := by
  refine fpWord_lands h g 4 _ fun t => ?_
  simp only [hf, toF_eq, packRes, Nat.mul_zero, pow_zero, Nat.div_one, Nat.mul_one]

end

theorem cbPack_eq_sum (idx entry n : Nat) : cbPack idx entry n = ((List.range n).map fun i => (cbWeight idx entry i % 16).toNat * 16 ^ i).sum := by
  induction n with
  | zero => rfl
  | succ n ih => rw [cbPack, ih, List.range_succ]; simp

theorem packRows_land {s : State} {iss : Issue} (h : s.cur? = some iss) (c : BitVec 1) (g : BitVec 4) (d a b : BitVec 6) :
    ∀ r ∈ packRows, exec (r.i c g d a b) s = .next (fpLands s iss g 4 ([.f a.toNat, .f b.toNat] ++ if r.third then [.f d.toNat] else [])
      (packRes d fun t e => r.val r.F t.rmode (r.F.decode (e a)) (r.F.decode (e b)) (r.F.decode (e d)))) := by
  intro r hr
  simp only [packRows, List.mem_cons, List.not_mem_nil, or_false] at hr
  obtain rfl | rfl | rfl | rfl | rfl | rfl := hr
  · change execHadd2 g d a b s = _
    rw [execHadd2, packWord_lands h g d [a, b] (r := fun t e => Fmt.h.add t.rmode (Fmt.h.decode (e a)) (Fmt.h.decode (e b))) fun _ _ => rfl]
    rfl
  · change execHmul2 g d a b s = _
    rw [execHmul2, packWord_lands h g d [a, b] (r := fun t e => Fmt.h.mul t.rmode (Fmt.h.decode (e a)) (Fmt.h.decode (e b))) fun _ _ => rfl]
    rfl
  · change execHfma2 g d a b s = _
    rw [execHfma2, packWord_lands h g d [a, b, d] (r := fun t e => Fmt.h.fma t.rmode (Fmt.h.decode (e a)) (Fmt.h.decode (e b)) (Fmt.h.decode (e d))) fun _ _ => rfl]
    rfl
  · change execBadd2 g d a b s = _
    rw [execBadd2, packWord_lands h g d [a, b] (r := fun t e => Fmt.bf.add t.rmode (Fmt.bf.decode (e a)) (Fmt.bf.decode (e b))) fun _ _ => rfl]
    rfl
  · change execBmul2 g d a b s = _
    rw [execBmul2, packWord_lands h g d [a, b] (r := fun t e => Fmt.bf.mul t.rmode (Fmt.bf.decode (e a)) (Fmt.bf.decode (e b))) fun _ _ => rfl]
    rfl
  · change execBfma2 g d a b s = _
    rw [execBfma2, packWord_lands h g d [a, b, d] (r := fun t e => Fmt.bf.fma t.rmode (Fmt.bf.decode (e a)) (Fmt.bf.decode (e b)) (Fmt.bf.decode (e d))) fun _ _ => rfl]
    rfl

/-- Settles O10: conversions and moves by their shared forms, packed words element by element. -/
theorem conversionsAndPackedWords : Obligations.ConversionsAndPackedWords := by
  intro c g d a b x y s iss h
  exact ⟨fpWord_lands h g 4 _ fun _ => toF_eq_fRes d _, fpWord_lands h g 4 _ fun _ => rfl, fpWord_lands h g 4 _ fun _ => rfl,
    fcvtFromInt_lands h g d a x y, fixedWord_lands h g 4 _ _, fixedWord_lands h g 4 _ _, packRows_land h c g d a b,
    fixedWord_lands_of_eq h g 4 _ fun _ => by rw [toG_eq, cbPack_eq_sum], fpWord_lands h g 4 _ fun _ => rfl⟩

end Sys2Proof.Machine
end

section
/-!
SUPPORT. The interval words (R138 to R140, R146, R149 to R153): their check, their result, and the flagged ones from issue to completion.
-/

namespace Sys2Proof.Machine

open Claim

/-! ### Operands and results -/

theorem ivEffs_eq (j : Bool) (d : BitVec 6) (v : Nat × Nat) : ivEffs j d.toNat v = ivRes j d v := by
  simp only [ivEffs, ivRes, word_natCast]

theorem ivCode_eq_ivFault (accept : Bool) (vs : List Iv) : ivCode accept vs = ivFault accept vs := by
  have hinvalid : (∃ v ∈ vs, v.valid = false ∧ v.empty? = false) ↔ vs.any Iv.invalid = true := by simp [Iv.invalid]
  have hempty : (accept = false ∧ ∃ v ∈ vs, v.empty? = true) ↔ (!accept && vs.any Iv.empty?) = true := by simp
  simp only [ivCode, ivFault, hinvalid, hempty]

theorem checked_eq (accept : Bool) (vs : List Iv) (es : List Eff) : checked accept vs es = ivChecked accept vs es := by
  cases h : ivFault accept vs with
  | none => simp only [checked, ivChecked, ivCode_eq_ivFault, h]
  | some c => simp only [checked, ivChecked, ivCode_eq_ivFault, h]

theorem ivFmt_eq (j : Bool) : ivFmt j = bf j := rfl

theorem iv_eq (j : Bool) (t : Thread) (k : BitVec 6) : t.iv j k = Claim.iv j t k := rfl

theorem ivSrcs_cons (j : Bool) (k : BitVec 6) (ks : List (BitVec 6)) : ivSrcs j (k :: ks) = ivRegs j k ++ ivSrcs j ks := rfl

theorem ivSrcs_nil (j : Bool) : ivSrcs j [] = [] := rfl

theorem ivSrcs_one (j : Bool) (a : BitVec 6) : ivSrcs j [a] = ivRegs j a := List.append_nil _

theorem ivSrcs_two (j : Bool) (a b : BitVec 6) : ivSrcs j [a, b] = ivRegs j a ++ ivRegs j b := by simp [ivSrcs_cons, ivSrcs_nil]

section
variable {s : State} {iss : Issue} (h : s.cur? = some iss) (g : BitVec 4) (d a b : BitVec 6)
include h

/-- A word of fixed latency that may fault lands what it computes, or faults. -/
theorem fixedWord_landsOr (lat : Nat) {srcs regs : List Reg} (hregs : srcs = regs) {f : Issue → Thread → Except Flt (List Eff)}
    {res : Thread → Except Flt (List Eff)} (hf : ∀ t, f iss t = res t) : fixedWord g lat srcs f s = .next (landsOr s iss g lat regs res) := by
  obtain rfl : f iss = res := funext hf
  subst hregs
  exact fixedWord_next g lat srcs f s iss h

theorem ivBin_lands (j : Bool) (fn lat : Nat) : ivBin j fn lat g d a b s = .next (landsOr s iss g lat (ivRegs j a ++ ivRegs j b) fun t =>
    checked (fn == 4 || fn == 5) [iv j t a, iv j t b] (ivRes j d ((bf j).ivArith fn (iv j t a) (iv j t b)))) :=
  fixedWord_landsOr h g lat (ivSrcs_two j a b) fun _ => by rw [checked_eq, ivEffs_eq]; rfl

theorem ivFusedWord_lands (j : Bool) (fn : Nat) : ivFusedWord j fn g d a b s =
    .next (landsOr s iss g 4 (ivRegs j a ++ ivRegs j b ++ ivRegs j d) fun t =>
      checked false [iv j t a, iv j t b, iv j t d] (ivRes j d ((bf j).ivFused fn (iv j t a) (iv j t b) (iv j t d)))) :=
  fixedWord_landsOr h g 4 (by simp [ivSrcs_cons, ivSrcs_nil]) fun _ => by rw [checked_eq, ivEffs_eq]; rfl

theorem ivPart_lands (j : Bool) {f v : Thread → Nat} (hf : ∀ t, f t = v t) : ivPart j g d a f s = .next (landsOr s iss g 4 (ivRegs j a) fun t =>
    checked false [iv j t a] [.f d.toNat (word (v t : Nat))]) :=
  fixedWord_landsOr h g 4 (ivSrcs_one j a) fun t => by rw [checked_eq, toF_eq, hf]; rfl

theorem imakeWord_lands (j : Bool) : imakeWord j g d a b s = .next (landsOr s iss g 4 [.f a.toNat, .f b.toNat] fun t =>
    let v : Iv := ⟨fVal (bf j) t a, fVal (bf j) t b⟩
    if v.valid = false ∧ v.empty? = false then .error (.mk2 0x07 0)
    else .ok (ivRes j d (bound0 (bf j) (fBits (bf j) t a), bound0 (bf j) (fBits (bf j) t b)))) := by
  refine fixedWord_landsOr h g 4 rfl fun t => ?_
  simp only [ivEffs_eq, Iv.invalid, Bool.and_eq_true, Bool.not_eq_true']
  rfl

theorem iinflWord_lands (j : Bool) : iinflWord j g d a b s = .next (landsOr s iss g 4 (.f b.toNat :: ivRegs j a) fun t =>
    let e := fVal (bf j) t b
    if e.isNan then .error (.mk2 0x07 0)
    else checked false [iv j t a] (ivRes j d ((bf j).rdnB (addB (iv j t a).lo e.abs.negate), (bf j).rupB (addB (iv j t a).hi e.abs)))) := by
  refine fixedWord_landsOr h g 4 (congrArg _ (ivSrcs_one j a)) fun t => ?_
  simp only [ivEffs_eq, checked_eq]
  rfl

/-- IPT writes what it computes for a finite point, and faults for any other. -/
theorem iptWord_lands {f : Nat → List Eff} {res : Thread → Except Flt (List Eff)} (hfin : ∀ t n m e, fVal .d t a = .fin n m e → res t = .ok (f (fBits .d t a)))
    (hother : ∀ t, (∀ n m e, fVal .d t a ≠ .fin n m e) → res t = .error (.mk2 0x07 0)) :
    iptWord g a f s = .next (landsOr s iss g 4 [.f a.toNat] res) := by
  refine fixedWord_landsOr h g 4 rfl fun t => ?_
  have hbits : (t.fr a.toNat).toNat = fBits .d t a := (Nat.mod_eq_of_lt (t.fr a.toNat).isLt).symm
  rw [pt_eq, hbits]
  cases hfv : fVal .d t a with
  | fin n m e => exact (hfin t n m e hfv).symm
  | inf n => exact (hother t fun _ _ _ e => by rw [hfv] at e; cases e).symm
  | nan sig => exact (hother t fun _ _ _ e => by rw [hfv] at e; cases e).symm

end

theorem ivRows_land {s : State} {iss : Issue} (h : s.cur? = some iss) (c : BitVec 1) (g : BitVec 4) (d a b : BitVec 6) : ∀ r ∈ ivRows, ∀ j : Bool,
    exec ((if j then r.2.1 else r.1) c g d a b) s = .next (landsOr s iss g r.2.2.2.1 (ivRegs j a ++ ivRegs j b) fun t =>
      checked r.2.2.2.2 [iv j t a, iv j t b] (ivRes j d ((bf j).ivArith r.2.2.1 (iv j t a) (iv j t b)))) := by
  intro r hr j
  simp only [ivRows, List.mem_cons, List.not_mem_nil, or_false] at hr
  obtain rfl | rfl | rfl | rfl | rfl | rfl | rfl := hr
  · cases j with
    | false => exact ivBin_lands h g d a b false 0 4
    | true => exact ivBin_lands h g d a b true 0 4
  · cases j with
    | false => exact ivBin_lands h g d a b false 1 4
    | true => exact ivBin_lands h g d a b true 1 4
  · cases j with
    | false => exact ivBin_lands h g d a b false 2 6
    | true => exact ivBin_lands h g d a b true 2 6
  · cases j with
    | false => exact ivBin_lands h g d a b false 4 4
    | true => exact ivBin_lands h g d a b true 4 4
  · cases j with
    | false => exact ivBin_lands h g d a b false 5 4
    | true => exact ivBin_lands h g d a b true 5 4
  · cases j with
    | false => exact ivBin_lands h g d a b false 6 4
    | true => exact ivBin_lands h g d a b true 6 4
  · cases j with
    | false => exact ivBin_lands h g d a b false 7 4
    | true => exact ivBin_lands h g d a b true 7 4

theorem ivFusedRows_land {s : State} {iss : Issue} (h : s.cur? = some iss) (c : BitVec 1) (g : BitVec 4) (d a b : BitVec 6) :
    ∀ r ∈ ivFusedRows, ∀ j : Bool, exec ((if j then r.2.1 else r.1) c g d a b) s =
      .next (landsOr s iss g 4 (ivRegs j a ++ ivRegs j b ++ ivRegs j d) fun t =>
        checked false [iv j t a, iv j t b, iv j t d] (ivRes j d ((bf j).ivFused r.2.2 (iv j t a) (iv j t b) (iv j t d)))) := by
  intro r hr j
  simp only [ivFusedRows, List.mem_cons, List.not_mem_nil, or_false] at hr
  obtain rfl | rfl | rfl | rfl := hr
  · cases j with
    | false => exact ivFusedWord_lands h g d a b false 0
    | true => exact ivFusedWord_lands h g d a b true 0
  · cases j with
    | false => exact ivFusedWord_lands h g d a b false 1
    | true => exact ivFusedWord_lands h g d a b true 1
  · cases j with
    | false => exact ivFusedWord_lands h g d a b false 2
    | true => exact ivFusedWord_lands h g d a b true 2
  · cases j with
    | false => exact ivFusedWord_lands h g d a b false 3
    | true => exact ivFusedWord_lands h g d a b true 3

theorem ivPartRows_land {s : State} {iss : Issue} (h : s.cur? = some iss) (c : BitVec 1) (g : BitVec 4) (d a : BitVec 6) :
    ∀ r ∈ ivPartRows, ∀ j : Bool, exec ((if j then r.2.1 else r.1) c g d a) s =
      .next (landsOr s iss g 4 (ivRegs j a) fun t => checked false [iv j t a] [.f d.toNat (word (r.2.2 (bf j) (bBits j t a) : Nat))]) := by
  intro r hr j
  simp only [ivPartRows, List.mem_cons, List.not_mem_nil, or_false] at hr
  obtain rfl | rfl | rfl | rfl := hr
  · cases j with
    | false => exact ivPart_lands h g d a false fun _ => rfl
    | true => exact ivPart_lands h g d a true fun _ => rfl
  · cases j with
    | false => exact ivPart_lands h g d a false fun _ => rfl
    | true => exact ivPart_lands h g d a true fun _ => rfl
  · cases j with
    | false => exact ivPart_lands h g d a false fun _ => rfl
    | true => exact ivPart_lands h g d a true fun _ => rfl
  · cases j with
    | false => exact ivPart_lands h g d a false fun _ => rfl
    | true => exact ivPart_lands h g d a true fun _ => rfl

/-- Settles O11: each family of interval words by its shared form, in both types. -/
theorem intervalWords : Obligations.IntervalWords := by
  intro c g d a b s iss h
  refine ⟨ivRows_land h c g d a b, ivFusedRows_land h c g d a b, ivPartRows_land h c g d a, fun j => ?_, fun j => ?_, ?_, ?_⟩
  · cases j with
    | false => exact imakeWord_lands h g d a b false
    | true => exact imakeWord_lands h g d a b true
  · cases j with
    | false => exact iinflWord_lands h g d a b false
    | true => exact iinflWord_lands h g d a b true
  · change execIptS g d a s = _
    refine iptWord_lands h g a (fun t n m e hv => ?_) fun t hv => ?_
    · simp only [hv, ivEffs_eq]
      rw [← hv]
      rfl
    · split
      · next n m e heq => exact absurd heq (hv n m e)
      · rfl
  · change execIptD g d a s = _
    refine iptWord_lands h g a (fun t n m e hv => ?_) fun t hv => ?_
    · have hbits : (t.fr a.toNat).toNat = fBits .d t a := (Nat.mod_eq_of_lt (t.fr a.toNat).isLt).symm
      simp only [hv, ivEffs_eq, hbits]
      rfl
    · split
      · next n m e heq => exact absurd heq (hv n m e)
      · rfl

end Sys2Proof.Machine
end

section
/-!
SUPPORT. The compares of intervals (R149), interval division and BISECT (R134, R139, R152, R153).
-/

namespace Sys2Proof.Machine

open Claim

theorem ivCmp_lands {s : State} {iss : Issue} (h : s.cur? = some iss) (j : Bool) (g : BitVec 4) (p : BitVec 2) (k : BitVec 3) (a b : BitVec 6)
    (cond : Nat) {both accept : Bool} (hboth : (cond != 11) = both) (haccept : decide (8 ≤ cond) = accept) :
    ivCmp j cond g p k a b s =
      .next (landsOr s iss (cmpG g k) 4 (ivRegs j a ++ (if both then ivRegs j b else []) ++ guardReg g :: pairRegs p) fun t =>
        if k = 1 ∧ t.guardVal g = .f then .ok (pairRes t g p k .f)
        else checked accept (iv j t a :: if both then [iv j t b] else []) (pairRes t g p k (ivRel cond (iv j t a) (iv j t b)))) := by
  subst hboth haccept
  refine fixedWord_landsOr h (cmpG g k) 4 ?_ fun t => ?_
  · cases (cond != 11) <;> simp [ivSrcs_one, ivSrcs_two] <;> rfl
  · simp only [pairEffs_eq_pairRes, checked_eq, iv_eq]
    cases (cond != 11) <;> rfl

/-- Settles O12: the compares of intervals, row by row, in both types. -/
theorem intervalCompares : Obligations.IntervalCompares := by
  intro r hr j c g p k a b s iss h
  simp only [ivCmpRows, List.mem_cons, List.not_mem_nil, or_false] at hr
  obtain rfl | rfl | rfl | rfl | rfl | rfl | rfl | rfl | rfl | rfl := hr
  · cases j with
    | false => exact ivCmp_lands h false g p k a b 0 rfl rfl
    | true => exact ivCmp_lands h true g p k a b 0 rfl rfl
  · cases j with
    | false => exact ivCmp_lands h false g p k a b 1 rfl rfl
    | true => exact ivCmp_lands h true g p k a b 1 rfl rfl
  · cases j with
    | false => exact ivCmp_lands h false g p k a b 2 rfl rfl
    | true => exact ivCmp_lands h true g p k a b 2 rfl rfl
  · cases j with
    | false => exact ivCmp_lands h false g p k a b 3 rfl rfl
    | true => exact ivCmp_lands h true g p k a b 3 rfl rfl
  · cases j with
    | false => exact ivCmp_lands h false g p k a b 4 rfl rfl
    | true => exact ivCmp_lands h true g p k a b 4 rfl rfl
  · cases j with
    | false => exact ivCmp_lands h false g p k a b 5 rfl rfl
    | true => exact ivCmp_lands h true g p k a b 5 rfl rfl
  · cases j with
    | false => exact ivCmp_lands h false g p k a b 8 rfl rfl
    | true => exact ivCmp_lands h true g p k a b 8 rfl rfl
  · cases j with
    | false => exact ivCmp_lands h false g p k a b 9 rfl rfl
    | true => exact ivCmp_lands h true g p k a b 9 rfl rfl
  · cases j with
    | false => exact ivCmp_lands h false g p k a b 10 rfl rfl
    | true => exact ivCmp_lands h true g p k a b 10 rfl rfl
  · cases j with
    | false => exact ivCmp_lands h false g p k a b 11 rfl rfl
    | true => exact ivCmp_lands h true g p k a b 11 rfl rfl

/-! ### Division and BISECT -/

/-- The trap that a flagged interval word will call (R134, R138). -/
theorem ivDue_eq (s : State) (iss : Issue) (t : Thread) (code : Nat) : ivDue s iss t code =
    { seq := s.fresh, code := word (code + 2 ^ 16 + t.pass * 2 ^ 24 : Nat), addr := 0, pc := iss.wordPc, resume := none } := by
  rw [word_natCast]
  rfl

theorem ivDiv_starts (j : Bool) (g : BitVec 4) (d a b : BitVec 6) (s : State) :
    ivDiv j g d a b s = .next (s.startOps g true false (ivRegs j a ++ ivRegs j b) fun iss t =>
      .ok (.plain 0 (match ivCode false [iv j t a, iv j t b] with
        | some code => .fpDivSqrt [] (some
            { seq := s.fresh, code := word (code + 2 ^ 16 + t.pass * 2 ^ 24 : Nat), addr := 0, pc := iss.wordPc, resume := none })
        | none => .fpDivSqrt (ivRes j d ((bf j).divIv (iv j t a) (iv j t b))) none))) := by
  simp only [ivDiv, opWord, ivSrcs_two, ivCode_eq_ivFault, ivDue_eq, ivEffs_eq]
  rfl

theorem bisectWord_starts (j : Bool) (g : BitVec 4) (d a : BitVec 6) (k : BitVec 3) (s : State) :
    bisectWord j g d a k s = .next (s.startOps g true false (ivRegs j a) fun iss t =>
      .ok (.plain 0 (.bisect d.toNat k.toNat j (bBits j t a).1 (bBits j t a).2 ((ivCode false [iv j t a]).map fun code =>
        { seq := s.fresh, code := word (code + 2 ^ 16 + t.pass * 2 ^ 24 : Nat), addr := 0, pc := iss.wordPc, resume := none }) none))) := by
  have hdue (iss : Issue) (t : Thread) := funext (ivDue_eq s iss t)
  simp only [bisectWord, opWord, ivSrcs_one, ivCode_eq_ivFault, hdue]
  rfl

section
variable {s : State} {o : Op} {id d k : Nat} {j : Bool} {lo hi : Nat} {f : Option Due} {pc : Word}

theorem bisectComplete_eq (ho : s.op? id = some o) (hk : o.kind = .bisect d k j lo hi f (some pc)) (hw : s.bisectWaits o = false) :
    exec (.bisectComplete id) s = match f with
      | some x => .next (s.flaggedFault o x)
      | none => .next (s.bisectDone o d k j lo hi pc) := by
  change execBisectComplete id s = _
  simp only [execBisectComplete, ho, hk, hw, Bool.false_eq_true, if_false]
  cases f <;> rfl

end

section
variable {s : State} {o : Op} {t : Thread} (ht : s.thread? o.tid = some t) (d : BitVec 6) (k : Nat) (j : Bool) (lo hi : Nat) (pc : Word)
include ht

/-- An interval that is not split stays whole, with an undecided predicate. -/
theorem bisectDone_whole (h : (bf j).splittable (ivOf (bf j) (lo, hi)) = false ∨ s.spareSlot? t = none) :
    s.bisectDone o d.toNat k j lo hi pc = s.finishOp o 0 (ivRes j d (lo, hi) ++ [.p k .u]) := by
  simp only [State.bisectDone, ht, ivEffs_eq]
  change (if !(bf j).splittable (ivOf (bf j) (lo, hi)) then _ else _) = _
  obtain h | h := h
  · simp [h]
  · split
    · rfl
    · rw [h]

theorem bisectDone_split (hsplit : (bf j).splittable (ivOf (bf j) (lo, hi)) = true) {c : Cohort} {pass : Nat}
    (hslot : s.spareSlot? t = some (c, pass)) : s.bisectDone o d.toNat k j lo hi pc =
      (s.spawn t c pass pc (ivRes j d ((bf j).mid (ivOf (bf j) (lo, hi)), hi) ++ [.p k .f])).finishOp o 0
        (ivRes j d (lo, (bf j).mid (ivOf (bf j) (lo, hi))) ++ [.p k .t]) := by
  simp only [State.bisectDone, ht, ivEffs_eq]
  change (if !(bf j).splittable (ivOf (bf j) (lo, hi)) then _ else _) = _
  rw [hsplit, hslot]
  rfl

end

/-- Settles O13: what division and BISECT put under way, the trap that they will call, and how a BISECT ends. -/
theorem flaggedIntervalWords : Obligations.FlaggedIntervalWords := by
  refine ⟨fun j c g d a b k s => ⟨?_, ?_⟩, fun id s o d k j lo hi f pc t ho hk ht hw => ⟨?_, ?_, ?_⟩⟩
  · cases j with
    | false => exact ivDiv_starts false g d a b s
    | true => exact ivDiv_starts true g d a b s
  · cases j with
    | false => exact bisectWord_starts false g d a k s
    | true => exact bisectWord_starts true g d a k s
  · rintro x rfl
    rw [bisectComplete_eq ho hk hw]
    simp only [flaggedFault_eq ht]
  · rintro rfl hwhole
    rw [bisectComplete_eq ho hk hw]
    simp only [bisectDone_whole ht d k j lo hi pc hwhole]
  · rintro c pass rfl hsplit hslot
    rw [bisectComplete_eq ho hk hw]
    simp only [bisectDone_split ht d k j lo hi pc hsplit hslot]

end Sys2Proof.Machine
end

section
/-!
SUPPORT. Operations under way (R77, R79, R196): what starting one adds, and what finishing one leaves.
-/

namespace Sys2Proof.Machine

open Claim

/-! ### Starting -/

theorem withIdx_map_snd {α : Type} (n : Nat) (l : List α) : (withIdx n l).map Prod.snd = l := by
  induction l generalizing n with
  | nil => rfl
  | cons x l ih => exact congrArg (x :: ·) (ih (n + 1))

/-- The threads for which a word puts an operation under way, with what it asks for. -/
def State.requests (s : State) (iss : Issue) (g : BitVec 4) (mk : Issue → Thread → Except Flt OpReq) : List (Thread × OpReq) :=
  (s.executing iss g).filterMap fun t => match mk iss t with
    | .ok r => some (t, r)
    | .error _ => none

section
variable {s : State} {iss : Issue} (h : s.cur? = some iss) (g : BitVec 4) (flagged hashed : Bool) (srcs : List Reg)
  (mk : Issue → Thread → Except Flt OpReq)

theorem newOps_map {α : Type} (use : Option Nat) (id : Nat) (f : Op → α) (f' : Thread × OpReq → α)
    (hf : ∀ a b i t r, f (mkOp s iss use a b i t r) = f' (t, r)) :
    (s.newOps iss g use srcs mk id).map f = (s.requests iss g mk).map f' := by
  have hrw : (s.newOps iss g use srcs mk id).map f = ((withIdx id (s.requests iss g mk)).map Prod.snd).map f' := by
    rw [State.newOps, List.map_map, List.map_map]
    exact List.map_congr_left fun x _ => hf ..
  rw [hrw, withIdx_map_snd]

theorem mem_newOps {use : Option Nat} {id : Nat} {o : Op} (ho : o ∈ s.newOps iss g use srcs mk id) :
    ∃ a b i t r, o = mkOp s iss use a b i t r := by
  obtain ⟨x, -, rfl⟩ := List.mem_map.1 ho
  exact ⟨_, _, _, _, _, rfl⟩

/-- What the threads want, as the statement lists it. -/
theorem requests_map : (s.requests iss g mk).map (fun x => (x.1.tid, x.2.addr, x.2.kind)) =
    (s.executing iss g).filterMap fun x => match mk iss x with
      | .ok r => some (x.tid, r.addr, r.kind)
      | .error _ => none := by
  rw [State.requests, List.map_filterMap]
  congr 1
  funext t
  cases mk iss t <;> rfl

/-- Marking the flag for threads changes nothing but the cohort's flags, the uses and the clause's count. -/
theorem markFlag_eq (u : State) (id : Nat) (tids : List Nat) : u.markFlag iss id tids =
    { u with cohorts := (u.markFlag iss id tids).cohorts, uses := (u.markFlag iss id tids).uses, issues := (u.markFlag iss id tids).issues } := by
  unfold State.markFlag
  split <;> rfl

theorem markFlag_cohorts (u : State) (id : Nat) {tids : List Nat} (hne : tids ≠ []) : (u.markFlag iss id tids).cohorts =
    u.cohorts.map fun c => if c.cid = iss.cid then { c with flags := c.flags.setIfInBounds iss.flag (c.flags[iss.flag]?.getD 0 + 1) } else c := by
  unfold State.markFlag
  rw [if_neg hne]
  rfl

theorem markFlag_nil (u : State) (id : Nat) : (u.markFlag iss id []).cohorts = u.cohorts ∧ (u.markFlag iss id []).uses = u.uses := ⟨rfl, rfl⟩

include h

theorem onIssuing_opThread : s.onIssuing (opThread g s.fresh hashed mk) = onExecuting s iss g (opThread 0 s.fresh hashed mk iss) :=
  onIssuing_guard s iss h g (opThread 0 s.fresh hashed mk)

/-- Putting operations under way: the threads, the new operations, and the flag's mark where the word is flagged. -/
theorem startOps_eq : s.startOps g flagged hashed srcs mk =
    let os := s.newOps iss g (if flagged then some (s.fresh + 1) else none) srcs mk (s.fresh + 2)
    let s1 := onExecuting s iss g (opThread 0 s.fresh hashed mk iss)
    let s2 := if flagged then s1.markFlag iss (s.fresh + 1) (os.map (·.tid)) else s1
    { s2 with ops := s2.ops ++ os, fresh := s.fresh + 2 + os.length } := by
  rw [← onIssuing_opThread h, State.startOps, h]

end

/-- What starting an operation leaves of the thread's registers and of its place. -/
theorem opThread_frame (seq : Nat) (hashed : Bool) (mk : Issue → Thread → Except Flt OpReq) (iss : Issue) (x : Thread) :
    let y := opThread 0 seq hashed mk iss x
    y.tid = x.tid ∧ y.g = x.g ∧ y.f = x.f ∧ y.p = x.p ∧ y.fpc = x.fpc ∧ y.pc = x.pc ∧ y.lands = x.lands ∧ y.held = x.held ∧ y.trap = x.trap := by
  dsimp only
  unfold opThread
  rw [guard_zero, if_pos rfl]
  cases mk iss x <;> exact ⟨rfl, rfl, rfl, rfl, rfl, rfl, rfl, rfl, rfl⟩

theorem opThread_error {seq : Nat} {hashed : Bool} {mk : Issue → Thread → Except Flt OpReq} {iss : Issue} {x : Thread} {e : Flt} (h : mk iss x = .error e) :
    opThread 0 seq hashed mk iss x = { x.fault iss seq e with hseq := if hashed then x.hseq + 1 else x.hseq } := by
  unfold opThread
  rw [guard_zero, if_pos rfl, h]

theorem operationsStart : OperationsStart := by
  intro s iss g flagged hashed srcs mk h
  have hmap {α : Type} (use : Option Nat) (id : Nat) (f : Op → α) (f' : Thread × OpReq → α) := newOps_map (s := s) (iss := iss) g srcs mk use id f f'
  have htids (use : Option Nat) (id : Nat) : (s.newOps iss g use srcs mk id).map (·.tid) = [] ↔ s.requests iss g mk = [] := by
    rw [hmap use id (·.tid) (·.1.tid) fun _ _ _ _ _ => rfl, List.map_eq_nil_iff]
  have hops : (if flagged then (onExecuting s iss g (opThread 0 s.fresh hashed mk iss)).markFlag iss (s.fresh + 1)
      ((s.newOps iss g (if flagged then some (s.fresh + 1) else none) srcs mk (s.fresh + 2)).map (·.tid))
      else onExecuting s iss g (opThread 0 s.fresh hashed mk iss)).ops = s.ops := by
    split
    · rw [markFlag_eq]; rfl
    · rfl
  have hthreads : (s.startOps g flagged hashed srcs mk).threads = s.threads.map fun t => if executes iss g t then opThread 0 s.fresh hashed mk iss t else t := by
    rw [startOps_eq h]
    dsimp only
    split
    · rw [markFlag_eq]; rfl
    · rfl
  have hwant : (s.requests iss g mk = []) ↔ (s.executing iss g).filterMap (fun x => match mk iss x with
      | .ok r => some (x.tid, r.addr, r.kind)
      | .error _ => none) = [] := by
    rw [← requests_map, List.map_eq_nil_iff]
  dsimp only
  refine ⟨?_, ?_, fun o ho => ?_, ?_, ?_, ?_, ?_, ?_, ?_⟩
  · rw [startOps_eq h]
    simp only [hops, List.take_left']
  · rw [startOps_eq h]
    simp only [hops, List.drop_left']
    rw [hmap _ _ _ (fun x => (x.1.tid, x.2.addr, x.2.kind)) fun _ _ _ _ _ => rfl, requests_map] <;> rfl
  · rw [startOps_eq h] at ho
    simp only [hops, List.drop_left'] at ho
    obtain ⟨a, b, i, t, r, rfl⟩ := mem_newOps g srcs mk ho
    exact ⟨rfl, rfl, rfl, by cases flagged <;> rfl⟩
  · rw [startOps_eq h]
    dsimp only
    cases flagged with
    | false => rfl
    | true => rw [if_pos rfl, markFlag_eq]; rfl
  · rintro rfl
    rw [startOps_eq h]
    exact ⟨rfl, rfl⟩
  · rintro rfl hne
    rw [startOps_eq h]
    exact markFlag_cohorts _ _ fun e => hne (hwant.1 ((htids _ _).1 e))
  · rintro rfl hnil
    rw [startOps_eq h]
    dsimp only
    rw [if_pos rfl, (htids _ _).2 (hwant.2 hnil)]
    exact ⟨rfl, rfl⟩
  · rw [hthreads, List.length_map]
  · intro k x hk
    refine ⟨if executes iss g x then opThread 0 s.fresh hashed mk iss x else x, by rw [hthreads]; simp [hk], ?_⟩
    cases hex : executes iss g x with
    | false => simp
    | true =>
      obtain ⟨h1, h2, h3, h4, h5, h6, h7, h8, h9⟩ := opThread_frame s.fresh hashed mk iss x
      simp only [if_true]
      exact ⟨h1, h2, h3, h4, h5, h6, h7, h8, h9, fun e => absurd e (by decide), fun e _ he => opThread_error he⟩

/-! ### Finishing -/

/-- An operation that is over leaves of each thread all but what it waits for. -/
def Thread.sameRegs (x y : Thread) : Prop :=
  y.tid = x.tid ∧ y.g = x.g ∧ y.f = x.f ∧ y.p = x.p ∧ y.fpc = x.fpc ∧ y.pc = x.pc ∧ y.trap = x.trap ∧ y.held = x.held ∧ y.lands = x.lands

/-- What the end of an operation makes of one thread that may wait for it. -/
def Thread.unparked (id : Nat) (t : Thread) : Thread :=
  if t.parks.contains (.fault id) then
    { t with parks := t.parks.filter (· != .fault id), st := if t.st = .parked ∧ t.parks.filter (· != .fault id) = [] then .runnable else t.st }
  else t

theorem dropOp_threads (s : State) (id : Nat) : (s.dropOp id).threads = s.threads.map (Thread.unparked id) := rfl

theorem Thread.unparked_sameRegs (id : Nat) (t : Thread) : t.sameRegs (t.unparked id) := by
  unfold Thread.unparked
  split <;> exact ⟨rfl, rfl, rfl, rfl, rfl, rfl, rfl, rfl, rfl⟩

theorem Thread.unparked_of_not_mem {id : Nat} {t : Thread} (h : .fault id ∉ t.parks) : t.unparked id = t :=
  if_neg fun hc => h (List.contains_iff_mem.1 hc)

theorem finishUse_threads (s : State) (use : Option Nat) (tid : Nat) : (s.finishUse use tid).threads = s.threads := by simp

theorem finishOp_thread? (s : State) (o : Op) (dep : Nat) (es : List Eff) (i : Nat) (hw : ∀ t : Thread, (t.write o.seq (max dep o.dep) s.fresh es).tid = t.tid) :
    (s.finishOp o dep es).thread? i =
      ((s.thread? i).map fun t => if i = o.tid then t.write o.seq (max dep o.dep) s.fresh es else t).map (Thread.unparked o.id) := by
  have hthreads : (s.finishOp o dep es).threads =
      (s.modThread o.tid fun t => t.write o.seq (max dep o.dep) s.fresh es).threads.map (Thread.unparked o.id) := by
    rw [State.finishOp]
    change (((s.modThread o.tid _).finishUse o.use o.tid).dropOp o.id).threads = _
    rw [dropOp_threads, finishUse_threads]
  rw [thread?_map _ (fun t => (t.unparked_sameRegs o.id).1) _ _ hthreads]
  congr 1
  change (s.modThread o.tid _).thread? i = _
  rw [State.thread?_modThread _ _ _ hw]
  cases s.thread? i with
  | none => split <;> rfl
  | some t => split <;> simp_all

/-- Writing one general register, as a flagged operation does when no other word has written it since. -/
theorem Thread.write_g {x : Thread} {seq dep pick d : Nat} {v : Word} (h : x.overwritten seq (.g d v) = false) :
    x.write seq dep pick [.g d v] = ({ x.setG d v with gdep := x.gdep.setIfInBounds d dep } : Thread).settled seq := by
  simp only [Thread.write, List.foldl_cons, List.foldl_nil, h, Bool.false_and, Bool.false_eq_true, if_false]
  rfl

theorem Thread.gr_congr {x y : Thread} (h : y.g = x.g) (k : Nat) : y.gr k = x.gr k := by rw [Thread.gr, Thread.gr, h]

theorem Thread.write_g_frame {x : Thread} {seq dep pick d : Nat} {v : Word} (h : x.overwritten seq (.g d v) = false) :
    let y := x.write seq dep pick [.g d v]
    (∀ k, k < 63 → y.gr k = if k = d ∧ d ≠ 0 then v else x.gr k) ∧ y.f = x.f ∧ y.p = x.p ∧ y.fpc = x.fpc ∧ y.pc = x.pc ∧ y.trap = x.trap ∧
      y.held = x.held ∧ y.lands = x.lands := by
  rw [Thread.write_g h]
  refine ⟨fun k hk => x.gr_setG d k v hk, ?_⟩
  rw [Thread.setG_frame]
  exact ⟨rfl, rfl, rfl, rfl, rfl, rfl, rfl⟩

theorem Thread.write_tid (t : Thread) (seq dep pick d : Nat) (v : Word) : (t.write seq dep pick [.g d v]).tid = t.tid := by
  simp only [Thread.write, List.foldl_cons, List.foldl_nil, Thread.settled]
  split
  · rfl
  · change (t.setG d v).tid = t.tid
    rw [Thread.setG_frame]

theorem finishUse_flags {s : State} {u tid : Nat} {w : FlagUse} {c : Cohort} (hw : s.uses.find? (·.id == u) = some w)
    (hleft : w.left.filter (· != tid) = []) (hc : s.cohort? w.cid = some c) : ∃ c', (s.finishUse (some u) tid).cohort? w.cid = some c' ∧
      c'.flags = c.flags.setIfInBounds w.flag (c.flags[w.flag]?.getD 0 - 1) := by
  simp only [State.finishUse, hw, hleft, if_true]
  have hfound := State.cohort?_modCohort s w.cid
    (fun c => { c with flags := c.flags.setIfInBounds w.flag (c.flags[w.flag]?.getD 0 - 1) }) (fun _ => rfl) w.cid
  rw [if_pos rfl, hc] at hfound
  exact ⟨_, hfound, rfl⟩

theorem operationsFinish : OperationsFinish := by
  intro s o dep d v x hn hx hd hd63 hov
  have htid (t : Thread) := t.write_tid o.seq (max dep o.dep) s.fresh d v
  dsimp only
  refine ⟨?_, fun i hi hpark => ?_, ?_, ?_, ?_, ?_, fun u c w hu hw hleft hc => ?_, fun hu => ?_⟩
  · rw [finishOp_thread? s o dep _ o.tid htid, hx]
    refine ⟨_, rfl, ?_⟩
    simp only [if_true]
    obtain ⟨hgr, hf, hp, hfpc, hpc, htrap, hheld, hlands⟩ := Thread.write_g_frame (dep := max dep o.dep) (pick := s.fresh) hov
    obtain ⟨-, hg', hf', hp', hfpc', hpc', htrap', hheld', hlands'⟩ := (x.write o.seq (max dep o.dep) s.fresh [.g d v]).unparked_sameRegs o.id
    refine ⟨?_, fun k hk hkd => ?_, hf'.trans hf, hp'.trans hp, hfpc'.trans hfpc, hpc'.trans hpc, htrap'.trans htrap, hheld'.trans hheld,
      hlands'.trans hlands⟩
    · rw [Thread.gr_congr hg', hgr d hd63, if_pos ⟨rfl, by omega⟩]
    · rw [Thread.gr_congr hg', hgr k hk, if_neg fun e => hkd e.1]
  · rw [finishOp_thread? s o dep _ i htid]
    cases hfound : s.thread? i with
    | none => rfl
    | some w => simp only [Option.map_some, if_neg hi, Thread.unparked_of_not_mem (hpark w hfound)]
  · refine List.find?_eq_none.2 fun y hy => ?_
    have hy' := (List.mem_filter.1 hy).2
    simpa using hy'
  · simp
  · simp
  · simp
  · obtain ⟨c', hc', hflags⟩ := finishUse_flags (s := s.modThread o.tid fun t => t.write o.seq (max dep o.dep) s.fresh [.g d v]) (tid := o.tid) hw hleft hc
    refine ⟨c', ?_, hflags⟩
    rw [State.finishOp, hu]
    exact hc'
  · rw [State.finishOp, hu]
    rfl

/-- Settles O42: one operation for each request, the flag's mark, and what the end of an operation delivers and leaves. -/
theorem flaggedOperations : Obligations.FlaggedOperations := ⟨operationsStart, operationsFinish⟩

end Sys2Proof.Machine
end

section
/-!
SUPPORT. Memory words at issue (R157 to R180, R217 to R221, R234): the checks of their addresses and what they put under way.
-/

namespace Sys2Proof.Machine

open Claim

/-! ### Checks of addresses (R158, R160, R165, R168) -/

theorem polIllegal_iff (x : Option Word) : polIllegal x = true ↔ policyBits x ≠ 0 := by
  cases x with
  | none => simp [polIllegal, policyBits]
  | some w => simp [polIllegal, policyBits, policyBad]

theorem globalReq_eq (n : Nat) (b p : BitVec 6) (mk : Option Word → OpKind) (stored : Option (Nat × Nat)) (iss : Issue) (t : Thread) :
    globalReq n b p mk stored iss t = (globalAt n b p iss t).map fun a => { addr := a, kind := mk (policy iss t p), stored := stored } := by
  simp only [globalReq, globalAt]
  rw [if_congr (polIllegal_iff (polOf iss t p)) rfl rfl]
  change (if policyBits (policy iss t p) ≠ 0 then _ else _) = _
  split
  · rfl
  · simp only [bne_iff_ne]
    split
    · rfl
    · split
      · rfl
      · rfl

theorem scratchReq_eq (s : State) (n : Nat) (b i : BitVec 6) (k : OpKind) (stored : Option (Nat × Nat)) (iss : Issue) (t : Thread) :
    scratchReq s n b i k stored iss t = (scratchAt s n b i iss t).map fun a => { addr := a, kind := k, stored := stored } := by
  have haddr : srcG iss t .zero b + srcG iss t .zero i * BitVec.ofNat 64 n =
      word ((srcG iss t .zero b).toNat + (srcG iss t .zero i).toNat * n) := by
    rw [word_add, word_mul, word_toNat, word_toNat, word_natCast]
  simp only [scratchReq, scratchAt, haddr, bne_iff_ne]
  generalize word ((srcG iss t .zero b).toNat + (srcG iss t .zero i).toNat * n) = a
  by_cases hm : a.toNat % n ≠ 0
  · simp only [if_pos hm, Except.map, tcMisaligned]
  · cases hg : s.group? t.gid with
    | none => simp only [if_neg hm, Except.map, tcScratch]
    | some grp =>
      by_cases hok : s.scratchOk grp a n = true
      · simp only [if_neg hm, if_pos hok, Except.map]
      · simp only [if_neg hm, if_neg hok, Except.map, tcScratch]

/-! ### Loads (R164 to R166) -/

theorem ldgWord_starts (n : Nat) (dst : LoadDst) (g : BitVec 4) (b p : BitVec 6) (s : State) :
    ldgWord n dst g b p s = .next (s.startOps g true false [.g b.toNat, .g p.toNat] fun iss t =>
      (globalAt n b p iss t).map fun a => .plain a (.load dst n (policy iss t p))) := by
  simp only [ldgWord, opWord, globalReq_eq]
  rfl

theorem ldsWord_starts (n : Nat) (dst : LoadDst) (g : BitVec 4) (b i : BitVec 6) (s : State) :
    ldsWord n dst g b i s = .next (s.startOps g true false [.g b.toNat, .g i.toNat] fun iss t =>
      (scratchAt s n b i iss t).map fun a => .plain a (.loadS dst n)) := by
  simp only [ldsWord, opWord, scratchReq_eq]
  rfl

theorem loadWords : LoadWords := by
  intro c g d b p s
  refine ⟨fun r hr => ?_, fun r hr => ?_⟩
  · simp only [ldgRows, List.mem_cons, List.not_mem_nil, or_false] at hr
    obtain rfl | rfl | rfl | rfl | rfl | rfl | rfl | rfl | rfl | rfl | rfl | rfl := hr
    all_goals exact ldgWord_starts _ _ g b p s
  · simp only [ldsRows, List.mem_cons, List.not_mem_nil, or_false] at hr
    obtain rfl | rfl | rfl | rfl | rfl | rfl | rfl | rfl | rfl | rfl | rfl | rfl := hr
    all_goals exact ldsWord_starts _ _ g b p s

/-! ### Stores (R164, R165, R167) -/

/-- The data of a store as the machine takes them. -/
def storeData (n : Nat) (float : Bool) (d : BitVec 6) : Issue → Thread → Nat := if float then storeF n d else storeG n d

theorem storeData_eq (n : Nat) (float : Bool) (d : BitVec 6) : storeData n float d = dataOf n float d := by
  cases float <;> rfl

theorem stgWord_starts (n : Nat) (float : Bool) (g : BitVec 4) (d b p : BitVec 6) (s : State) :
    stgWord n (storeData n float d) g (dataRegs n float d) b p s =
      .next (s.startOps g false true (.g b.toNat :: .g p.toNat :: dataRegs n float d) fun iss t => (globalAt n b p iss t).map fun a =>
        { addr := a, kind := .store (dataOf n float d iss t) n (policy iss t p) false, stored := some (n, dataOf n float d iss t) }).pump := by
  simp only [stgWord, globalReq_eq, storeData_eq]

theorem stsWord_starts (n : Nat) (float : Bool) (g : BitVec 4) (d b i : BitVec 6) (s : State) :
    stsWord n (storeData n float d) g (dataRegs n float d) b i s =
      .next (s.startOps g false true (.g b.toNat :: .g i.toNat :: dataRegs n float d) fun iss t => (scratchAt s n b i iss t).map fun a =>
        { addr := a, kind := .storeS (dataOf n float d iss t) n, stored := some (n, dataOf n float d iss t) }) := by
  simp only [stsWord, opWord, scratchReq_eq, storeData_eq]

/-- Settles O14: the global and the scratch store of each row, by their shared forms. -/
theorem storeWords : Obligations.StoreWords := by
  intro r hr c g d b p s
  simp only [storeRows, List.mem_cons, List.not_mem_nil, or_false] at hr
  obtain rfl | rfl | rfl | rfl | rfl | rfl | rfl | rfl | rfl := hr
  · exact ⟨stgWord_starts 1 false g d b p s, stsWord_starts 1 false g d b p s⟩
  · exact ⟨stgWord_starts 2 false g d b p s, stsWord_starts 2 false g d b p s⟩
  · exact ⟨stgWord_starts 4 false g d b p s, stsWord_starts 4 false g d b p s⟩
  · exact ⟨stgWord_starts 8 false g d b p s, stsWord_starts 8 false g d b p s⟩
  · exact ⟨stgWord_starts 16 false g d b p s, stsWord_starts 16 false g d b p s⟩
  · exact ⟨stgWord_starts 4 true g d b p s, stsWord_starts 4 true g d b p s⟩
  · exact ⟨stgWord_starts 8 true g d b p s, stsWord_starts 8 true g d b p s⟩
  · exact ⟨stgWord_starts 8 true g d b p s, stsWord_starts 8 true g d b p s⟩
  · exact ⟨stgWord_starts 16 true g d b p s, stsWord_starts 16 true g d b p s⟩

/-! ### Atomics (R171 to R173) -/

theorem startOps_kernelOf? (s : State) (g : BitVec 4) (flagged hashed : Bool) (srcs : List Reg) (mk : Issue → Thread → Except Flt OpReq) :
    (s.startOps g flagged hashed srcs mk).kernelOf? = s.kernelOf? := by
  funext gid
  simp [State.kernelOf?, State.group?, State.kernel?]

theorem deterministic_of_unbuffered {s : State} (h : unbuffered s) (gid : Nat) : s.deterministic gid = false := by
  unfold State.deterministic
  cases hk : s.kernelOf? gid with
  | none => rfl
  | some k =>
    obtain ⟨grp, -, hkernel⟩ := Option.bind_eq_some_iff.1 hk
    simpa using h k (List.mem_of_find?_eq_some hkernel)

/-- An atomic word of a machine without deterministic kernels only puts its operations under way. -/
theorem amoWord_starts {s : State} (h : unbuffered s) (g : BitVec 4) (d b v : BitVec 6) {mk req : Issue → Thread → Except Flt OpReq}
    (hmk : ∀ iss t, mk iss t = req iss t) :
    amoWord g d b v mk s = .next (s.startOps g true true [.g b.toNat, .g v.toNat, .g d.toNat] req) := by
  obtain rfl : mk = req := funext fun iss => funext (hmk iss)
  have hdet (gid : Nat) : (s.startOps g true true [.g b.toNat, .g v.toNat, .g d.toNat] mk).deterministic gid = false := by
    rw [State.deterministic, startOps_kernelOf?]
    exact deterministic_of_unbuffered h gid
  simp only [amoWord, hdet, Bool.and_false, List.filter_false, List.foldl_nil]

theorem amoReq_eq (op : AOp) (n rank : Nat) (d b v : BitVec 6) (iss : Issue) (t : Thread) : amoReq op n rank d b v iss t =
    (let a := srcG iss t .zero b
     if a.toNat ≥ 2 ^ 52 then .error (.mk2 0x03 a)
     else if a.toNat % n ≠ 0 then .error (.mk2 0x02 a)
     else .ok (.plain a (.atomic op n (srcG iss t .zero v) (t.gr d.toNat) d.toNat rank))) := by
  simp only [amoReq, bne_iff_ne]
  rfl

theorem amosReq_eq (s : State) (op : AOp) (n : Nat) (d b v : BitVec 6) (iss : Issue) (t : Thread) : amosReq s op n d b v iss t =
    (let a := srcG iss t .zero b
     match s.group? t.gid with
     | none => .error (.mk2 0x04 a)
     | some grp =>
       if s.scratchOk grp a n = false then .error (.mk2 0x04 a)
       else if a.toNat % n ≠ 0 then .error (.mk2 0x02 a)
       else .ok (.plain a (.atomicS op n (srcG iss t .zero v) (t.gr d.toNat) d.toNat))) := by
  simp only [amosReq, bne_iff_ne, Bool.not_eq_true']
  rfl

/-- Settles O15: the requests of the global and of the scratch atomics; no buffer takes them outside deterministic mode. -/
theorem atomicWords : Obligations.AtomicWords := by
  intro c g d b v s h
  refine ⟨fun r hr => ?_, fun r hr => ?_⟩
  · simp only [amogRows, List.mem_cons, List.not_mem_nil, or_false] at hr
    obtain rfl | rfl | rfl | rfl | rfl | rfl | rfl | rfl | rfl | rfl | rfl | rfl | rfl | rfl | rfl | rfl | rfl | rfl | rfl | rfl | rfl | rfl | rfl | rfl := hr
    all_goals exact amoWord_starts h g d b v fun iss t => amoReq_eq _ _ _ d b v iss t
  · simp only [amosRows, List.mem_cons, List.not_mem_nil, or_false] at hr
    obtain rfl | rfl | rfl | rfl | rfl | rfl | rfl | rfl := hr
    all_goals exact amoWord_starts h g d b v fun iss t => amosReq_eq s _ _ d b v iss t

end Sys2Proof.Machine
end

section
/-!
SUPPORT. The monitor words (R238, R244 to R247): the check of their colour, the messages they send, and what CWAIT gives up.
-/

namespace Sys2Proof.Machine

open Claim

/-! ### The executing threads in order -/

theorem insertBy_perm {α : Type} (key : α → Nat) (x : α) (l : List α) : (insertBy key x l).Perm (x :: l) := by
  induction l with
  | nil => exact .refl _
  | cons y l ih =>
    rw [insertBy]
    split
    · exact .refl _
    · exact (ih.cons y).trans (.swap x y l)

theorem foldl_insertBy_perm {α : Type} (key : α → Nat) (l acc : List α) : (l.foldl (fun acc x => insertBy key x acc) acc).Perm (l ++ acc) := by
  induction l generalizing acc with
  | nil => exact .refl _
  | cons x l ih => exact (ih _).trans (((insertBy_perm key x acc).append_left l).trans List.perm_middle)

theorem sortBy_perm {α : Type} (key : α → Nat) (l : List α) : (sortBy key l).Perm l := by
  have h := foldl_insertBy_perm key l []
  rwa [List.append_nil] at h

/-- Threads of different numbers stay so among those that a word executes for. -/
theorem executing_tids_nodup {s : State} (h : (s.threads.map Thread.tid).Nodup) (iss : Issue) (g : BitVec 4) :
    ((s.executing iss g).map Thread.tid).Nodup := by
  refine ((sortBy_perm Thread.idx _).map Thread.tid).nodup_iff.2 (h.sublist ?_)
  exact (List.filter_sublist).map Thread.tid

/-! ### The check (R244) -/

/-- The colour that a monitor word names. -/
def colourOf (b : BitVec 6) (iss : Issue) (t : Thread) : Nat := (srcG iss t .zero b).toNat

/-- Whether a thread may execute a monitor word: the colour is in range and held, for CWAIT as the highest. -/
def mayMonitor (top : Bool) (b : BitVec 6) (iss : Issue) (t : Thread) : Bool :=
  decide (1 ≤ colourOf b iss t ∧ colourOf b iss t ≤ 63) && t.holds (colourOf b iss t) &&
    !(top && t.held.any fun h => h.st != .waiting && decide (colourOf b iss t < h.colour))

theorem monitorReq_eq (top : Bool) (b : BitVec 6) (iss : Issue) (t : Thread) :
    monitorReq top b iss t = if mayMonitor top b iss t then .ok (colourOf b iss t) else .error (.mk2 0x0B 0) := by
  unfold monitorReq mayMonitor colourOf
  generalize (srcG iss t .zero b).toNat = k
  dsimp only
  by_cases hrange : 1 ≤ k ∧ k ≤ 63
  · rw [if_neg (by omega), decide_eq_true hrange, Bool.true_and]
    cases t.holds k with
    | false => rfl
    | true =>
      cases (top && t.held.any fun h => h.st != .waiting && decide (k < h.colour)) <;> rfl
  · rw [if_pos (by omega), decide_eq_false hrange]
    rfl

theorem monitorOks_eq (s : State) (top : Bool) (g : BitVec 4) (b : BitVec 6) (iss : Issue) :
    s.monitorOks top g b iss = ((s.executing iss g).filter (mayMonitor top b iss)).map fun t => (t, colourOf b iss t) := by
  rw [State.monitorOks, ← List.filterMap_eq_map, List.filterMap_filter]
  congr 1
  funext t
  rw [monitorReq_eq]
  cases mayMonitor top b iss t <;> rfl

/-- Where a thread may execute a monitor word it stays; otherwise it faults. -/
def Thread.monitored (top : Bool) (b : BitVec 6) (iss : Issue) (seq : Nat) (t : Thread) : Thread :=
  if mayMonitor top b iss t then t else t.fault iss seq (.mk2 0x0B 0)

theorem monitored_answers (top : Bool) (b : BitVec 6) (iss : Issue) (seq : Nat) (t : Thread) :
    t.answered iss seq ((monitorReq top b iss t).map fun _ => t) = t.monitored top b iss seq := by
  rw [monitorReq_eq, Thread.monitored]
  cases mayMonitor top b iss t <;> rfl

/-! ### Notifications (R244) -/

theorem notifyWord_eq {s : State} {iss : Issue} (h : s.cur? = some iss) (kind : MsgKind) (g : BitVec 4) (b : BitVec 6) :
    ∃ t : State, notifyWord kind g b s = .next t ∧
      t = { onExecuting s iss g (Thread.monitored false b iss s.fresh) with msgs := t.msgs, fresh := t.fresh } ∧
      t.msgs.take s.msgs.length = s.msgs ∧
      (t.msgs.drop s.msgs.length).map (fun m => (m.tid, m.colour, m.kind)) =
        ((s.executing iss g).filter (mayMonitor false b iss)).map fun x => (x.tid, colourOf b iss x, kind) := by
  have hone : s.onIssuing (threadOne g s.fresh fun iss t => (monitorReq false b iss t).map fun _ => t) =
      onExecuting s iss g (Thread.monitored false b iss s.fresh) := by
    rw [onIssuing_threadOne h]
    exact onExecuting_congr fun t _ _ => monitored_answers false b iss s.fresh t
  rw [notifyWord, h]
  dsimp only
  rw [hone, monitorOks_eq]
  refine ⟨_, rfl, rfl, ?_, ?_⟩
  · exact List.take_left' rfl
  · refine (congrArg (List.map _) (List.drop_left' (l₁ := s.msgs) rfl)).trans ?_
    rw [List.map_map]
    change (withIdx _ _).map ((fun p : Thread × Nat => (p.1.tid, p.2, kind)) ∘ Prod.snd) = _
    rw [← List.map_map, withIdx_map_snd, List.map_map]
    rfl

/-! ### CWAIT (R245) -/

/-- A thread that has given a colour up. -/
def Thread.gaveUp (x : Thread) (c q : Nat) : Thread :=
  { x with held := x.held.map fun h => if h.colour = c then { h with st := .waiting } else h, parks := x.parks ++ [.cwait c q] }

theorem Thread.gaveUp_not_holds (x : Thread) (c q : Nat) : (x.gaveUp c q).holds c = false := by
  rw [Thread.holds, Thread.gaveUp, List.any_map, List.any_eq_false]
  intro h _
  by_cases hc : h.colour = c <;> simp [hc]

/-- What the wait message of a thread will say. -/
def relOf (p : Thread × Nat) : Nat × Nat × Nat × Bool := (p.1.tid, p.2, ((p.1.held.find? fun h => h.colour == p.2).map Held.depth).getD 0, true)

theorem State.giveUp_frame (u : State) (p : Thread × Nat) :
    u.giveUp p = { u with threads := (u.giveUp p).threads, rels := (u.giveUp p).rels, fresh := u.fresh + 1 } := rfl

theorem State.giveUp_threads (u : State) (p : Thread × Nat) :
    (u.giveUp p).threads = u.threads.map fun x => if x.tid = p.1.tid then x.gaveUp p.2 u.fresh else x := rfl

theorem foldl_giveUp_frame (ps : List (Thread × Nat)) (u : State) : ps.foldl State.giveUp u =
    { u with threads := (ps.foldl State.giveUp u).threads, rels := (ps.foldl State.giveUp u).rels, fresh := (ps.foldl State.giveUp u).fresh } := by
  induction ps generalizing u with
  | nil => rfl
  | cons p ps ih => exact frame_trans (u.giveUp_frame p) (ih _)

theorem foldl_giveUp_rels (ps : List (Thread × Nat)) (u : State) : ∃ rs, (ps.foldl State.giveUp u).rels = u.rels ++ rs ∧
    rs.map (fun r => (r.tid, r.colour, r.depth, r.wait)) = ps.map relOf := by
  induction ps generalizing u with
  | nil => exact ⟨[], (List.append_nil _).symm, rfl⟩
  | cons p ps ih =>
    obtain ⟨rs, hrs, hmap⟩ := ih (u.giveUp p)
    refine ⟨_ :: rs, by rw [List.foldl_cons, hrs]; exact List.append_assoc _ [_] _, ?_⟩
    rw [List.map_cons, List.map_cons, hmap]
    rfl

theorem foldl_giveUp_length (ps : List (Thread × Nat)) (u : State) : (ps.foldl State.giveUp u).threads.length = u.threads.length := by
  induction ps generalizing u with
  | nil => rfl
  | cons p ps ih => rw [List.foldl_cons, ih, State.giveUp_threads, List.length_map]

/-- Threads that do not wait stay; each thread that waits gives its own colour up. -/
theorem foldl_giveUp_thread {ps : List (Thread × Nat)} (hn : (ps.map fun p => p.1.tid).Nodup) {u : State} {i : Nat} {x : Thread}
    (hx : u.threads[i]? = some x) : ∃ y, (ps.foldl State.giveUp u).threads[i]? = some y ∧ ((∀ p ∈ ps, p.1.tid ≠ x.tid) → y = x) ∧
      ∀ p ∈ ps, p.1.tid = x.tid → ∃ q, u.fresh ≤ q ∧ y = x.gaveUp p.2 q := by
  induction ps generalizing u x with
  | nil => exact ⟨x, hx, fun _ => rfl, fun p hp => absurd hp (List.not_mem_nil)⟩
  | cons p ps ih =>
    obtain ⟨hp, hps⟩ := List.nodup_cons.1 hn
    have hnext : (u.giveUp p).threads[i]? = some (if x.tid = p.1.tid then x.gaveUp p.2 u.fresh else x) := by
      rw [State.giveUp_threads, List.getElem?_map, hx]
      rfl
    obtain ⟨y, hy, hstay, hgive⟩ := ih hps hnext
    refine ⟨y, hy, fun hne => ?_, fun r hr e => ?_⟩
    · have hxp : x.tid ≠ p.1.tid := (hne p List.mem_cons_self).symm
      rw [if_neg hxp] at hstay
      exact hstay fun r hr => hne r (List.mem_cons_of_mem _ hr)
    · obtain rfl | hr := List.mem_cons.1 hr
      · rw [if_pos e.symm] at hstay
        refine ⟨u.fresh, le_rfl, hstay fun r' hr' e' => hp ?_⟩
        exact List.mem_map.2 ⟨r', hr', e'.trans e.symm⟩
      · have hxp : x.tid ≠ p.1.tid := fun e' => hp (List.mem_map.2 ⟨r, hr, e.trans e'⟩)
        rw [if_neg hxp] at hgive
        obtain ⟨q, hq, hyq⟩ := hgive r hr e
        exact ⟨q, (Nat.le_succ _).trans hq, hyq⟩

section
variable {s : State} {iss : Issue} (h : s.cur? = some iss) (g : BitVec 4) (b : BitVec 6)
include h

theorem cwait_eq : execCwait g b s = .next ((((s.executing iss g).filter (mayMonitor true b iss)).map fun t => (t, colourOf b iss t)).foldl State.giveUp
    (onExecuting s iss g (Thread.monitored true b iss s.fresh))) := by
  have hone : s.onIssuing (threadOne g s.fresh fun iss t => (monitorReq true b iss t).map fun _ => t) =
      onExecuting s iss g (Thread.monitored true b iss s.fresh) := by
    rw [onIssuing_threadOne h]
    exact onExecuting_congr fun t _ _ => monitored_answers true b iss s.fresh t
  rw [execCwait, h]
  dsimp only
  rw [hone, monitorOks_eq]

theorem cwait_refused (hbad : ∀ x ∈ s.threads, executes iss g x = true → mayMonitor true b iss x = false) :
    execCwait g b s = .next (onExecuting s iss g fun t => t.fault iss s.fresh (.mk2 0x0B 0)) := by
  have hnone : (s.executing iss g).filter (mayMonitor true b iss) = [] := List.filter_eq_nil_iff.2 fun t ht => by
    obtain ⟨hts, hex⟩ := mem_executing.1 ht
    simp [hbad t hts hex]
  rw [cwait_eq h, hnone, List.map_nil, List.foldl_nil]
  refine congrArg Host.Outcome.next (onExecuting_congr fun t ht hex => ?_)
  rw [Thread.monitored, hbad t ht hex]
  rfl

end

theorem cwait_thread {s : State} {iss : Issue} (g : BitVec 4) (b : BitVec 6) (hn : (s.threads.map Thread.tid).Nodup) {i : Nat} {x : Thread}
    (hx : s.threads[i]? = some x) :
    ∃ y, ((((s.executing iss g).filter (mayMonitor true b iss)).map fun t => (t, colourOf b iss t)).foldl State.giveUp
        (onExecuting s iss g (Thread.monitored true b iss s.fresh))).threads[i]? = some y ∧
      (executes iss g x = false → y = x) ∧
      (executes iss g x = true → mayMonitor true b iss x = false → y = x.fault iss s.fresh (.mk2 0x0B 0)) ∧
      (executes iss g x = true → mayMonitor true b iss x = true → ∃ q, s.fresh ≤ q ∧ y = x.gaveUp (colourOf b iss x) q) := by
  have hmem : x ∈ s.threads := List.mem_of_getElem? hx
  have htids : ((((s.executing iss g).filter (mayMonitor true b iss)).map fun t => (t, colourOf b iss t)).map fun p => p.1.tid).Nodup := by
    rw [List.map_map]
    exact (executing_tids_nodup hn iss g).sublist ((List.filter_sublist).map Thread.tid)
  -- a thread of the list is the one of its number
  have hsame : ∀ p ∈ ((s.executing iss g).filter (mayMonitor true b iss)).map (fun t => (t, colourOf b iss t)), p.1.tid = x.tid →
      executes iss g x = true ∧ mayMonitor true b iss x = true := fun p hp e => by
    obtain ⟨t, ht, rfl⟩ := List.mem_map.1 hp
    obtain ⟨hexec, hmay⟩ := List.mem_filter.1 ht
    obtain ⟨hts, hex⟩ := mem_executing.1 hexec
    obtain rfl := eq_of_tid_eq hn hts hmem e
    exact ⟨hex, hmay⟩
  have hmid : (onExecuting s iss g (Thread.monitored true b iss s.fresh)).threads[i]? =
      some (if executes iss g x then x.monitored true b iss s.fresh else x) := by
    simp [onExecuting, hx]
  obtain ⟨y, hy, hstay, hgive⟩ := foldl_giveUp_thread htids hmid
  have htid : (if executes iss g x then x.monitored true b iss s.fresh else x).tid = x.tid := by
    split
    · rw [Thread.monitored]
      split <;> rfl
    · rfl
  rw [htid] at hstay hgive
  refine ⟨y, hy, fun hex => ?_, fun hex hmay => ?_, fun hex hmay => ?_⟩
  · rw [hstay fun p hp e => by rw [(hsame p hp e).1] at hex; exact Bool.noConfusion hex, hex]
    rfl
  · rw [hstay fun p hp e => by rw [(hsame p hp e).2] at hmay; exact Bool.noConfusion hmay, if_pos hex, Thread.monitored, hmay]
    rfl
  · obtain ⟨q, hq, hyq⟩ := hgive (x, colourOf b iss x)
      (List.mem_map_of_mem (List.mem_filter.2 ⟨mem_executing.2 ⟨hmem, hex⟩, hmay⟩)) rfl
    refine ⟨q, hq, ?_⟩
    rw [hyq, if_pos hex, Thread.monitored, if_pos hmay]

theorem cheld_lands {s : State} {iss : Issue} (h : s.cur? = some iss) (g : BitVec 4) (d b : BitVec 6) :
    execCheld g d b s = .next (lands s iss g 4 [.g b.toNat] fun t =>
      [.g d.toNat (match t.held.find? fun h => h.colour == (srcG iss t .zero b).toNat && h.st != .waiting with
        | none => 0
        | some h => word (1 + h.depth : Nat))]) := by
  refine fixedWord_lands_of_eq h g 4 _ fun t => ?_
  simp only [word_natCast]
  cases t.held.find? fun h => h.colour == (srcG iss t .zero b).toNat && h.st != .waiting <;> rfl

/-- Settles O16: notifications send their messages, CWAIT gives the colours up thread by thread, CHELD reads the depth. -/
theorem monitorWords : Obligations.MonitorWords := by
  intro c g d b s iss h
  refine ⟨fun r hr => ?_, fun hn => ?_, cwait_refused h g b, cheld_lands h g d b⟩
  · simp only [List.mem_cons, List.not_mem_nil, or_false] at hr
    obtain rfl | rfl := hr
    · exact notifyWord_eq h .notify g b
    · exact notifyWord_eq h .notifyAll g b
  · obtain ⟨rs, hrs, hmap⟩ := foldl_giveUp_rels (((s.executing iss g).filter (mayMonitor true b iss)).map fun t => (t, colourOf b iss t))
      (onExecuting s iss g (Thread.monitored true b iss s.fresh))
    refine ⟨_, cwait_eq h g b, frame_trans (onExecuting_frame _) (foldl_giveUp_frame _ _), ?_, ?_, ?_, fun i x hx => ?_⟩
    · rw [foldl_giveUp_length]
      simp [onExecuting]
    · rw [hrs]
      exact List.take_left' rfl
    · rw [hrs]
      refine (congrArg (List.map _) (List.drop_left' (l₁ := s.rels) rfl)).trans ?_
      rw [hmap, List.map_map]
      rfl
    · obtain ⟨y, hy, hstay, hfault, hgive⟩ := cwait_thread g b hn hx
      refine ⟨y, hy, hstay, hfault, fun hex hmay => ?_⟩
      obtain ⟨q, hq, rfl⟩ := hgive hex hmay
      exact ⟨q, hq, rfl, x.gaveUp_not_holds _ q⟩

end Sys2Proof.Machine
end

section
/-!
SUPPORT. Events of cohorts and threads (R80, R82, R100, R102), traps taken (R340, R341, R344), and convergence registers (R261, R262).
-/

namespace Sys2Proof.Machine

open Claim

/-! ### Cohort events -/

theorem waitCountExpiry_swaps {core cohort p : Nat} {s : State} {c : Cohort} {x : Slot} (hc : s.cohort? cohort = some c)
    (hx : s.slotOf? core (s.asidOf c.gid) = some x) (hready : x.ready ≠ []) (hwait : 256 ≤ c.waitCount) (hidle : ∀ i ∈ s.issues, i.core ≠ core)
    (hp : p < 8) (hat : x.active[p]? = some (some cohort)) (hfirst : ∀ q, q < p → x.active[q]? ≠ some (some cohort)) :
    exec (.waitCountExpiry core cohort) s =
      .next ((s.modSlot core (s.asidOf c.gid) fun y => (y.leave p cohort).swapIn p (s.coreAt core).clock).modCohort cohort fun c => { c with waitCount := 0 }) := by
  have hfind : (List.range 8).find? (fun q => x.active[q]?.getD none == some cohort) = some p := by
    rw [List.find?_range_eq_some]
    refine ⟨by simp [hat], List.mem_range.2 hp, fun q hq => ?_⟩
    have hne := hfirst q hq
    have hq8 : q < 8 := hq.trans hp
    simp only [Vector.getElem?_eq_getElem hq8, Option.getD_some, ne_eq, Option.some.injEq] at hne ⊢
    simpa using hne
  have hissues : s.issues.any (·.core == core) = false := List.any_eq_false.2 fun i hi => by simpa using hidle i hi
  change execWaitCountExpiry core cohort s = _
  simp only [execWaitCountExpiry, hc, hx, hfind, hissues]
  rw [if_neg]
  simp [hready, hwait]

theorem swapComplete_none {core : Nat} {s : State} {x : Slot} (hx : (s.coreAt core).running? = some x)
    (h : ∀ y ∈ x.swapping, (s.coreAt core).clock < y.2.2) : exec (.cohortSwapComplete core) s = .next s := by
  have hfind : x.swapping.find? (fun y => decide (y.2.2 ≤ (s.coreAt core).clock)) = none :=
    List.find?_eq_none.2 fun y hy => by simpa using h y hy
  change execCohortSwapComplete core s = _
  simp only [execCohortSwapComplete, hx, hfind]

theorem swapComplete_some {core p cid due : Nat} {s : State} {x : Slot} (hx : (s.coreAt core).running? = some x)
    (h : x.swapping.find? (fun y => decide (y.2.2 ≤ (s.coreAt core).clock)) = some (p, cid, due)) : exec (.cohortSwapComplete core) s =
      .next ((s.modSlot core x.asid fun y => { y with
        swapping := y.swapping.filter (· != (p, cid, due)), active := y.active.setIfInBounds p (some cid) }).modCohort cid
        fun c => { c with waitCount := 0 }) := by
  change execCohortSwapComplete core s = _
  simp only [execCohortSwapComplete, hx, h]

/-- A cohort of which every thread has exited and left its slot, with its flags at 0, retires. -/
theorem cohortRetire_eq {cohort : Nat} {s : State} {c : Cohort} (hc : s.cohort? cohort = some c) (hstands : c.stands = true)
    (hts : ∀ t ∈ s.threads, t.cid = cohort → t.st = .exited ∧ t.freed = true) (hflags : ∀ n, n < 12 → c.flags[n]? = some 0) :
    exec (.cohortRetire cohort) s = .next ((s.modCohort cohort fun c =>
      if c.spare then { c with formed := false, waitCount := 0, yieldNext := false, yieldedAt := none, flushEnd := false }
      else { c with retired := true }).modSlot c.core (s.asidOf c.gid) fun x => x.drop cohort) := by
  have hall : (s.threadsOf cohort).all (fun t => t.st == .exited && t.freed) = true := by
    refine List.all_eq_true.2 fun t ht => ?_
    obtain ⟨ht, hcid⟩ := List.mem_filter.1 ht
    obtain ⟨hst, hfreed⟩ := hts t ht (by simpa using hcid)
    simp [hst, hfreed]
  have hzero : c.flags.toList.all (· == 0) = true := by
    refine List.all_eq_true.2 fun n hn => ?_
    obtain ⟨i, hi, rfl⟩ := List.getElem_of_mem hn
    have hi12 : i < 12 := by simpa using hi
    have hflag := hflags i hi12
    rw [Vector.getElem?_eq_getElem hi12, Option.some.injEq] at hflag
    simpa using hflag
  change execCohortRetire cohort s = _
  simp only [execCohortRetire, hc, hstands, hall, hzero]
  rfl

theorem cohortRetire_spare {s : State} {cohort core asid : Nat} {k : Cohort} (f : Slot → Slot)
    (hk : k ∈ ((s.modCohort cohort fun c =>
      if c.spare then { c with formed := false, waitCount := 0, yieldNext := false, yieldedAt := none, flushEnd := false }
      else { c with retired := true }).modSlot core asid f).cohorts) (hcid : k.cid = cohort) (hspare : k.spare = true) : k.formed = false := by
  rw [State.modSlot_cohorts] at hk
  obtain ⟨c, -, rfl⟩ := List.mem_map.1 hk
  by_cases hc : c.cid = cohort
  · cases hs : c.spare <;> simp_all
  · simp_all

/-- Settles O17: what each event of cohorts and threads leaves. -/
theorem cohortEvents : Obligations.CohortEvents := by
  refine ⟨fun core s => ?_, fun core cohort p s c x => waitCountExpiry_swaps, fun core p cid due s x hx => ⟨swapComplete_none hx, swapComplete_some hx⟩,
    fun thread s x hx hst hfreed hidle => ?_, fun cohort s c hc hstands hts hflags => ⟨fun _ => cohortRetire_eq hc hstands hts hflags, fun _ => ?_⟩⟩
  · refine ⟨_, rfl, ⟨rfl, List.length_map ..⟩, fun k x hx => ?_⟩
    refine ⟨if x.core = core then x.landUpTo (s.coreAt core).clock else x, by simp [hx], fun h => if_neg h, fun h l => ?_⟩
    rw [if_pos h]
    simp [Thread.landUpTo]
  · change execThreadSlotFree thread s = _
    simp only [execThreadSlotFree, hx, hst, hfreed, hidle]
    rfl
  · exact ⟨_, cohortRetire_eq hc hstands hts hflags, fun k hk => cohortRetire_spare _ hk⟩

/-! ### Traps -/

theorem minBy_eq_none {α : Type} {key : α → Nat} {l : List α} : minBy key l = none ↔ l = [] := by
  cases l with
  | nil => simp [minBy]
  | cons x l =>
    simp only [minBy]
    cases minBy key l with
    | none => simp
    | some y =>
      dsimp only
      split <;> simp

/-- The entry of the least key. -/
theorem minBy_spec {α : Type} {key : α → Nat} {l : List α} {d : α} (h : minBy key l = some d) : d ∈ l ∧ ∀ e ∈ l, key d ≤ key e := by
  induction l generalizing d with
  | nil => cases h
  | cons x l ih =>
    simp only [minBy] at h
    cases hrest : minBy key l with
    | none =>
      rw [hrest] at h
      obtain rfl := Option.some.inj h
      simp [minBy_eq_none.1 hrest]
    | some y =>
      rw [hrest] at h
      obtain ⟨hy, hmin⟩ := ih hrest
      dsimp only at h
      split at h
      · next hlt =>
        obtain rfl := Option.some.inj h
        exact ⟨List.mem_cons_of_mem _ hy, fun e he => (List.mem_cons.1 he).elim (fun h => h ▸ hlt.le) (hmin e)⟩
      · next hge =>
        obtain rfl := Option.some.inj h
        exact ⟨List.mem_cons_self, fun e he => (List.mem_cons.1 he).elim (fun h => h ▸ le_rfl) fun he => (Nat.not_lt.1 hge).trans (hmin e he)⟩

theorem takeTrap_enters {s : State} {t : Thread} {d : Due} (hd : minBy Due.seq t.due = some d) (ht : t.trapped = false) (hh : s.handlerOf t.gid ≠ 0) :
    s.takeTrap t = s.modThread t.tid fun x => x.enterTrap d (s.handlerOf t.gid) x.pc := by
  have hc : (t.trapped || s.handlerOf t.gid == 0) = false := by rw [ht, Bool.false_or]; exact beq_eq_false_iff_ne.2 hh
  simp only [State.takeTrap, hd, hc]
  rfl

theorem takeTrap_exits {s : State} {t : Thread} {d : Due} (hd : minBy Due.seq t.due = some d) (h : t.trapped = true ∨ s.handlerOf t.gid = 0) :
    s.takeTrap t = ((s.kernelError t.gid (d.code.toNat % 256) d.pc).exitThread t.tid).modThread t.tid fun t => { t with due := [] } := by
  have hc : (t.trapped || s.handlerOf t.gid == 0) = true := by simpa using h
  simp only [State.takeTrap, hd, hc]
  rfl

/-- A thread that has exited is not trapped any more. -/
theorem exitThread_thread {s : State} {tid : Nat} {x : Thread} (hx : x ∈ (s.exitThread tid).threads) (htid : x.tid = tid) :
    x.st = .exited ∧ x.trapped = false := by
  unfold State.exitThread at hx
  cases hfound : s.thread? tid with
  | none =>
    rw [hfound] at hx
    exact absurd (List.find?_eq_none.1 hfound x hx) (by simp [htid])
  | some t =>
    rw [hfound] at hx
    obtain ⟨y, -, rfl⟩ := List.mem_map.1 hx
    by_cases hy : y.tid = tid
    · rw [if_pos hy]
      exact ⟨rfl, rfl⟩
    · rw [if_neg hy] at htid
      exact absurd htid hy

/-- Settles O18: the earliest trap that is due is taken, by the handler or as an exit with a kernel error. -/
theorem trapsTaken : Obligations.TrapsTaken := by
  intro s t hdue
  obtain ⟨d, hd⟩ : ∃ d, minBy Due.seq t.due = some d := Option.ne_none_iff_exists'.1 fun h => hdue (minBy_eq_none.1 h)
  obtain ⟨hmem, hmin⟩ := minBy_spec hd
  refine ⟨d, hmem, hmin, fun ht hh => by rw [takeTrap_enters hd ht hh]; rfl, fun h => ⟨fun x hx htid => ?_, fun g hg => ?_⟩⟩
  · rw [takeTrap_exits hd h] at hx
    obtain ⟨y, hy, rfl⟩ := List.mem_map.1 hx
    by_cases hyt : y.tid = t.tid
    · rw [if_pos hyt]
      obtain ⟨hst, htr⟩ := exitThread_thread hy hyt
      exact ⟨hst, rfl, htr⟩
    · rw [if_neg hyt] at htid
      exact absurd htid hyt
  · rw [takeTrap_exits hd h]
    simp only [State.modThread_kernels, State.exitThread_kernels, State.kernelError, hg]
    rfl

/-! ### Convergence registers (R261, R262) -/

section
variable {s : State} {id n : Nat} {o : Op}

theorem cvWaits_eq_false (hk : o.kind.cv? = some n) (h : ∀ p ∈ s.ops, p.gid = o.gid → p.id < o.id → p.kind.cv? ≠ some n) : s.cvWaits o = false := by
  refine List.any_eq_false.2 fun p hp hc => ?_
  rw [hk] at hc
  simp only [Bool.and_eq_true, beq_iff_eq, decide_eq_true_eq] at hc
  obtain ⟨⟨hgid, hid⟩, hcv⟩ := hc
  exact h p hp hgid hid hcv

theorem op?_id (h : s.op? id = some o) : o.id = id := by simpa using List.find?_some h

theorem exec_cvsetApply_of_not_waits {e : Nat} (ho : s.op? id = some o) (hk : o.kind = .cvset n e) (hc : s.cvWaits o = false) :
    exec (.cvsetApply id) s = .next ((s.modCv o.gid n fun _ => { e := e, s := 0 }).dropOp o.id) := by
  change Host.Outcome.next (s.applyCvset id) = _
  simp only [State.applyCvset, ho, hk, hc]
  rfl

/-- Changing one register of the only group, and ending the operation that did it. -/
theorem modCv_dropOp (f : ConvReg → ConvReg) (ho : s.op? id = some o) {grp : Group} (hs : s.groups = [grp]) (hg : grp.gid = o.gid) {r : ConvReg}
    (hr : grp.cv[n]? = some r) : ∃ h, ((s.modCv o.gid n f).dropOp o.id).groups = [h] ∧ h.cv[n]? = some (f r) ∧ (∀ k, k ≠ n → h.cv[k]? = grp.cv[k]?) ∧
      ((s.modCv o.gid n f).dropOp o.id).ops = s.ops.filter fun p => p.id != id := by
  refine ⟨{ grp with cv := (withIdx 0 grp.cv).map fun x => if x.1 = n then f x.2 else x.2 }, ?_, ?_, fun k hk => ?_, ?_⟩
  · change (s.groups.map fun g => if g.gid = o.gid then _ else g) = _
    rw [hs, List.map_singleton, if_pos hg]
  · simp [withIdx_getElem?, hr]
  · cases hrk : grp.cv[k]? <;> simp [withIdx_getElem?, hrk, hk]
  · rw [← op?_id ho]
    rfl

end

/-- Settles O19: SIGN and CVSET put their words under way; each is applied in order, to its own register. -/
theorem convergenceRegisters : Obligations.ConvergenceRegisters := by
  refine ⟨fun c g n p s => ⟨rfl, rfl⟩, fun id s => rfl, fun id s o grp ho hs hg => ⟨fun n hk hwait hgate r hr => ?_, fun n e hk hwait hn => ?_⟩⟩
  · have hc := cvWaits_eq_false (by rw [hk]; rfl) hwait
    obtain ⟨h, hgroups, hnew, hrest, hops⟩ := modCv_dropOp (fun r => { r with s := min (r.s + 1) 65535 }) ho hs hg hr
    refine ⟨_, h, exec_signApply ho hk, ?_⟩
    rw [hc, hgate]
    exact ⟨hgroups, hnew, hrest, hops⟩
  · have hc := cvWaits_eq_false (by rw [hk]; rfl) hwait
    obtain ⟨h, hgroups, hnew, hrest, hops⟩ := modCv_dropOp (fun _ => { e := e, s := 0 }) ho hs hg (List.getElem?_eq_getElem hn)
    exact ⟨_, h, exec_cvsetApply_of_not_waits ho hk hc, hgroups, hnew, hrest, hops⟩

end Sys2Proof.Machine
end

section
/-!
SUPPORT. Commands of the matrix engine as they start and run (R260, R265, R268 to R274, R277).
-/

namespace Sys2Proof.Machine

open Claim

/-! ### The command that runs -/

theorem running?_eq {s : State} {cmd : Nat} {c : Cmd} (h : s.cmd? cmd = some c) (hst : c.started = true)
    (hrun : s.runningAsid? c.core = some c.asid) (hex : (s.coreAt c.core).exchange = none) (hre : (s.coreAt c.core).restoring = false)
    (hstop : c.stop = none) : s.running? cmd = some c := by
  simp [State.running?, h, hst, hrun, hex, hre, hstop]

theorem exec_engineCommandStart_of_ready {s : State} {cmd : Nat} {c : Cmd} (h : s.cmd? cmd = some c) (hr : s.cmdReady c = true)
    (hf : s.unitFree c = true) : exec (.engineCommandStart cmd) s = .next (s.startCmd c) := by
  change execEngineCommandStart cmd s = _
  simp [execEngineCommandStart, h, hr, hf]

/-! ### TDEF -/

theorem tdefComplete_of_placed {s : State} {cmd : Nat} {c : Cmd} {t : Nat} {addr : Word} {bias : Int} (hc : s.running? cmd = some c)
    (hk : c.kind = .tdef t addr bias) (o : Option Desc)
    (ho : (Desc.ofEntry (BitVec.ofNat 512 (c.snap[0]?.getD 0))).placed bias (s.regionSizes c.gid).1 (s.regionSizes c.gid).2 = o) :
    exec (.tdefComplete cmd) s = .next (match (generalizing := false) o with
      | none => (s.modCore c.core fun k => k.setTid c.asid t 0).faultCmd c 0x06 t
      | some x => (s.modCore c.core fun k => k.setTid c.asid t x.entry).endCmd c) := by
  change execTdefComplete cmd s = _
  simp only [execTdefComplete, hc, State.endTdef, hk, ho] <;> cases o <;> rfl

/-! ### MLDB -/

/-- Rows that no store changed are read as they are. -/
theorem decodedRows_self (id place bytes : Nat) (rows : List Nat) : decodedRows id place bytes rows rows = rows := by
  induction rows generalizing place with
  | nil => rfl
  | cons r rs ih =>
    have := ih (place + 1)
    simp only [decodedRows, List.zip_cons_cons, withIdx, List.map_cons] at this ⊢
    rw [this]; simp [decodedRow]

theorem decoderReads_scale_length (s : State) (gid : Nat) (e : Desc) : (s.decoderReads gid e).2.1.length = 32 := by
  simp [State.decoderReads]

theorem decoderBad_iff (s : State) (gid : Nat) (e : Desc) (rows : List Nat) :
    s.decoderBad gid e rows = true ↔
      s.scratchBad gid (recOffset e.data) (bSize e.fmt) = true ∨ s.scratchBad gid (recOffset e.scale) 16384 = true ∨
        (e.fmt = 5 ∧ ∃ j, j < 256 ∧ s.scratchBad gid (recOffset e.book + 2 * j) 2 = true ∧
          ∃ row ∈ rows, ∃ n, n < 512 ∧ row / 65536 ^ n % 65536 / 256 = j) := by
  simp [State.decoderBad, selectsEntry, or_assoc]

/-- MLDB whose rows no store changed: it faults, or its slot holds the rows (R270, R277). -/
theorem mldbComplete_unraced {s : State} {cmd : Nat} {c : Cmd} {t slot : Nat} {e : Desc} {r : List Nat × List Nat × List Nat}
    (hc : s.running? cmd = some c) (hk : c.kind = .mldb t slot) (he : s.desc c.core c.asid t = e) (hr : s.decoderReads c.gid e = r)
    (hs : c.snap = r.1 ++ r.2.1 ++ r.2.2) :
    exec (.mldbComplete cmd) s = if s.decoderBad c.gid e r.1 = true then
      .next ((s.setWslot c.core { asid := c.asid, num := slot, st := .empty, fmt := 0, data := [], scale := [], book := [] }).faultCmd c 0x07 t)
    else .next ((s.setWslot c.core
      { asid := c.asid, num := slot, st := .loaded, fmt := e.fmt, data := r.1, scale := r.2.1, book := r.2.2 }).endCmd c) := by
  have hlen : r.2.1.length = 32 := hr ▸ decoderReads_scale_length s c.gid e
  have hs' : c.snap = r.1 ++ (r.2.1 ++ r.2.2) := by rw [hs, List.append_assoc]
  have h1 : c.snap.take r.1.length = r.1 := by rw [hs', List.take_left' rfl]
  have h2 : (c.snap.drop r.1.length).take 32 = r.2.1 := by rw [hs', List.drop_left' rfl, List.take_left' hlen]
  have h3 : c.snap.drop (r.1.length + 32) = r.2.2 := by
    rw [hs', ← List.drop_drop, List.drop_left' rfl, List.drop_left' hlen]
  change execMldbComplete cmd s = _
  simp only [execMldbComplete, hc, hk, he, hr, h1, h2, h3, decodedRows_self]

/-! ### Rows -/

theorem mmqRow_eq {s : State} {cmd : Nat} {c : Cmd} {a m afirst mfirst slot pa count rows scales : Nat} (hc : s.running? cmd = some c)
    (hk : c.kind = .mmq a m afirst mfirst slot pa count)
    (hs : c.snap = [rows, scales] ∨ (c.snap = [] ∧ s.rowReads c = [rows, scales])) :
    let x := s.desc c.core c.asid a
    let y := s.desc c.core c.asid m
    let o := recOffset y.data + 2048 * (mfirst + c.progress)
    let acc := s.accumOf c.gid o 2048
    let q := if pa = 0 then x.planes else pa
    let w := s.wslot c.core c.asid slot
    exec (.mmqRow cmd) s = match s.rowBad c a m afirst mfirst q with
      | some t => .next (s.faultCmd c 0x07 t)
      | none => .next ((s.setAccum c.gid o
          (if y.fmt = 6 then mmqFp32 w acc rows scales x.planes q else mmqInt32 w acc rows x.planes q) 2048).rowDone c count) := by
  have hrd : (if c.snap = [] then s.rowReads c else c.snap) = [rows, scales] := by
    obtain h | ⟨h, h'⟩ := hs
    · rw [if_neg (by simp [h]), h]
    · rw [if_pos h, h']
  change execMmqRow cmd s = _
  simp only [execMmqRow, hc, hk, hrd]
  rfl

theorem mzeroRow_eq {s : State} {cmd : Nat} {c : Cmd} {t first count : Nat} (hc : s.running? cmd = some c)
    (hk : c.kind = .mzero t first count) : exec (.mzeroRow cmd) s =
      .next ((s.setAccum c.gid (recOffset (s.desc c.core c.asid t).data + 2048 * (first + c.progress)) 0 2048).rowDone c count) := by
  change execMzeroRow cmd s = _
  simp only [execMzeroRow, hc, hk]

theorem mxstRow_eq {s : State} {cmd : Nat} {c : Cmd} {t first count out : Nat} {dst : Word} {grp : Group} (hc : s.running? cmd = some c)
    (hk : c.kind = .mxst t first count out dst) (hg : s.group? c.gid = some grp) :
    let o := recOffset (s.desc c.core c.asid t).data + 2048 * (first + c.progress)
    let row := s.accumOf c.gid o 2048
    exec (.mxstRow cmd) s = .next (if s.accumBad c.gid o 2048 = true then s.faultCmd c 0x07 t
      else (s.regionWrite grp.core grp.scratch (dst.toNat % 2 ^ 21 + (if out = 0 then 2048 else 1024) * c.progress)
        (if out = 0 then row else packRow16 ((List.range 512).map fun i => outElem out (elemAt row i)))
        (if out = 0 then 2048 else 1024)).rowDone c count) := by
  change execMxstRow cmd s = _
  simp only [execMxstRow, hc, hk, hg]
  split <;> rfl

theorem outElem_eq {out : Nat} (h : out = 1 ∨ out = 2) (v : Nat) :
    outElem out v = (convert (if out = 1 then .bf else .h) .s false .rne v).1 := by
  obtain rfl | rfl := h <;> rfl

/-- Settles O21: a command starts when its conditions hold, and of the command that runs each event is an equation of the model. -/
theorem engineEvents : Obligations.EngineEvents := by
  unfold Obligations.EngineEvents
  refine ⟨fun cmd s c h hr hf => exec_engineCommandStart_of_ready h hr hf, fun cmd s c h hst hrun hex hre hstop => ?_⟩
  have hc := running?_eq h hst hrun hex hre hstop
  refine ⟨fun t addr bias hk => ⟨fun hp => tdefComplete_of_placed hc hk none hp, fun x hp => tdefComplete_of_placed hc hk (some x) hp⟩,
    ?_, fun a m afirst mfirst slot pa count rows scales hk hs => ?_, fun t first count hk => mzeroRow_eq hc hk,
    fun t first count out dst grp hk hg => ?_⟩
  · intro t slot hk e r bad hs
    have hbad : s.decoderBad c.gid e r.1 = true ↔ bad := decoderBad_iff s c.gid e r.1
    have hm := mldbComplete_unraced hc hk rfl rfl hs
    exact ⟨fun hb => hm.trans (by rw [if_pos (hbad.2 hb)]), fun hb => hm.trans (by rw [if_neg (mt hbad.1 hb)])⟩
  · have hm := mmqRow_eq hc hk hs
    exact ⟨fun t ht => hm.trans (by rw [ht]), fun ht => hm.trans (by rw [ht])⟩
  · intro o row
    have hm := mxstRow_eq hc hk hg
    refine ⟨fun hb => hm.trans (by rw [if_pos hb]), fun hb h0 => hm.trans ?_, fun hb h12 => hm.trans ?_⟩
    · rw [if_neg (by simp [o, hb] : ¬ s.accumBad c.gid _ 2048 = true)]; simp only [h0, if_true]; rfl
    · have h0 : out ≠ 0 := by omega
      rw [if_neg (by simp [o, hb] : ¬ s.accumBad c.gid _ 2048 = true)]
      simp only [if_neg h0, outElem_eq h12]
      rfl

end Sys2Proof.Machine
end

section
/-!
SUPPORT. The tag words and the tag waits (R280 to R282, R294, R295).
-/

namespace Sys2Proof.Machine

open Claim

/-- A thread that a cause holds is park-pending or parked for it (R97). -/
theorem addPark_eq (s : State) (tid : Nat) (p : Park) : s.addPark tid p = parksFor s tid p := by
  simp only [State.addPark, parksFor]
  cases h : s.thread? tid with
  | none => simp; rfl
  | some x => by_cases hp : x.st = .parked <;> simp [hp] <;> rfl

/-! ### The mask of a tag word -/

/-- A mask has a bit at or above n exactly where it is at least 2^n. -/
theorem any_bit_above_iff (n : Nat) (m : Word) :
    (List.range 64).any (fun i => decide (n ≤ i) && m.getLsbD i) = true ↔ 2 ^ n ≤ m.toNat := by
  constructor
  · intro h
    obtain ⟨i, -, hi⟩ := List.any_eq_true.1 h
    simp only [Bool.and_eq_true, decide_eq_true_eq] at hi
    exact (Nat.pow_le_pow_right (by decide) hi.1).trans (Nat.ge_two_pow_of_testBit hi.2)
  · intro h
    obtain ⟨i, hni, hi⟩ := Nat.exists_ge_and_testBit_of_ge_two_pow h
    refine List.any_eq_true.2 ⟨i, List.mem_range.2 (not_le.1 fun h64 => ?_), by simp [hni]; exact hi⟩
    rw [← BitVec.getLsbD, BitVec.getLsbD_of_ge _ _ h64] at hi
    exact Bool.noConfusion hi

/-- The fault word of a copy word that breaks a rule on its operands (R282, R285). -/
theorem copyFlt_operand : copyFlt tcCopy 0x02 0 = .mk2 0x0F (copyAt 0x02 0) := rfl

theorem tagMask_eq (s : State) (iss : Issue) (t : Thread) (b : BitVec 6) :
    tagMask s iss t b = if (List.range 64).any (fun i => decide (s.tagCount t.gid ≤ i) && (srcG iss t .zero b).getLsbD i) then
      .error (.mk2 0x0F (copyAt 0x02 0)) else .ok (srcG iss t .zero b) := by
  simp only [tagMask, any_bit_above_iff, copyFlt_operand]

/-! ### The words -/

theorem tagOne_eq (iss : Issue) (q : Nat) (b : BitVec 6) (f : State → Thread → Word → State) : tagOne iss q b f = onTags iss q b f := by
  funext s t
  cases hm : (List.range 64).any fun i => decide (s.tagCount t.gid ≤ i) && (srcG iss t .zero b).getLsbD i <;>
    simp only [tagOne, onTags, tagMask_eq, hm, if_true, Bool.false_eq_true, if_false]
  rfl

theorem tagWord_eq {s : State} {iss : Issue} (h : s.cur? = some iss) (g : BitVec 4) (b : BitVec 6)
    (f : Issue → Nat → State → Thread → Word → State) : tagWord g b f s = .next (inTurn s iss g (onTags iss s.fresh b (f iss s.fresh))) := by
  simp only [tagWord, h, tagOne_eq, inTurn]

theorem tfirst_lands {s : State} {iss : Issue} (h : s.cur? = some iss) (g : BitVec 4) (d b : BitVec 6) :
    execTfirst g d b s = .next (landsOr s iss g 4 [.g b.toNat] fun t =>
      if (List.range 64).any (fun i => decide (s.tagCount t.gid ≤ i) && (srcG iss t .zero b).getLsbD i) then .error (.mk2 0x0F (copyAt 0x02 0))
      else .ok [.g d.toNat (word (((List.range 64).find? fun i => (iss.tagsRd &&& srcG iss t .zero b).getLsbD i).getD 64 : Nat))]) := by
  refine fixedWord_landsOr h g 4 rfl fun t => ?_
  rw [tagMask_eq]
  split
  · rfl
  · simp only [Except.map, word_natCast]; rfl

/-! ### Waits -/

theorem tagWait_of_not_done {s : State} {t : Thread} {p : Park} (h : tagWaitDone (s.tagView t.gid) p = false) :
    s.tagWait t p = parksFor s t.tid p := by
  rw [State.tagWait, h, if_neg Bool.false_ne_true, addPark_eq]

theorem tagWait_of_done {s : State} {t : Thread} {p : Park} (h : tagWaitDone (s.tagView t.gid) p = true) :
    s.tagWait t p = s.releasePoint t p := by
  rw [State.tagWait, if_pos h]

/-- Without an error state there is nothing to report (R295). -/
theorem reportTags_of_no_error {s : State} {t : Thread} (h : ∀ k, k < s.tagCount t.gid → (s.tagAt (s.tagOf t.gid k).1 (s.tagOf t.gid k).2).err = none)
    (m : Nat) (any : Bool) (pc : Word) (q : Nat) : s.reportTags t m any pc q = s := by
  have hnone : s.reported t.gid m any = [] := List.filter_eq_nil_iff.2 fun k hk => by simp [h k (List.mem_range.1 hk)]
  rw [State.reportTags, hnone]

/-- Settles O23: the tag words act thread by thread, and a wait parks its thread exactly where the ready bits do not satisfy it. -/
theorem tagWords : Obligations.TagWords := by
  unfold Obligations.TagWords
  refine ⟨fun c g d b s iss h => ⟨?_, ?_, ?_, tfirst_lands h g d b⟩, fun s t m pc q => ⟨fun h => ?_, fun hm h => ?_, fun h herr => ?_⟩⟩
  · change execTwaitall g b s = _
    exact tagWord_eq h g b _
  · change execTwaitany g b s = _
    exact tagWord_eq h g b _
  · change execTclr g b s = _
    exact tagWord_eq h g b _
  · exact tagWait_of_not_done (beq_eq_false_iff_ne.2 h)
  · exact tagWait_of_not_done (by rw [tagWaitDone, h, beq_eq_false_iff_ne.2 hm]; rfl)
  · rw [tagWait_of_done (by simp [tagWaitDone, h])]
    exact reportTags_of_no_error herr _ _ _ _

end Sys2Proof.Machine
end

section
/-!
SUPPORT. One step of the machine: the agent that has the turn, the word it performs, and what follows (R66, R68, R89, R374, R377).
-/

namespace Sys2Proof.Machine

open Claim

/-! ### The turn -/

theorem dropReserved_inService (s : State) : s.dropReserved.inService = s.inService := by
  rw [State.dropReserved]; split <;> rfl

theorem dropReserved_cur? (s : State) : s.dropReserved.cur? = s.cur? := by
  rw [State.dropReserved]; split <;> rfl

theorem dropReserved_turn (s : State) : s.dropReserved.turn = s.turn := by
  rw [State.dropReserved]; split <;> rfl

theorem dropReserved_cohort? (s : State) (c : Nat) : s.dropReserved.cohort? c = s.cohort? c := by
  rw [State.dropReserved]; split <;> rfl

theorem dropReserved_kernelOf? (s : State) (g : Nat) : s.dropReserved.kernelOf? g = s.kernelOf? g := by
  rw [State.dropReserved]; split <;> rfl

/-- A core below 512 that has the turn acts in service, without the reservations of Kiln. -/
theorem step_core {s : State} {c : Nat} {rest : List Agent} (ha : s.agenda = .core c :: rest) (hc : c < 512) (hs : s.inService = true) :
    step s = afterOut (coreStep { ({ s with agenda := rest } : State).dropReserved with turn := c }) := by
  have hs' : ({ s with agenda := rest } : State).inService = true := hs
  simp only [step, ha, agentStep, if_neg (not_le.2 hc), hs', if_true]

theorem step_kiln {s : State} {c : Nat} {rest : List Agent} (ha : s.agenda = .core c :: rest) (hc : 512 ≤ c) :
    step s = afterOut (kilnStep { s with agenda := rest, turn := c }) := by
  simp only [step, ha, agentStep, coreStep, if_pos hc]

theorem coreStep_of_cur {s : State} {iss : Issue} (ht : s.turn < 512) (h : s.cur? = some iss) : coreStep s = issueStep s iss := by
  simp only [coreStep, if_neg (not_le.2 ht), h]

theorem coreStep_of_none {s : State} (ht : s.turn < 512) (h : s.cur? = none) : coreStep s = startStep s := by
  simp only [coreStep, if_neg (not_le.2 ht), h]

/-! ### The word in issue -/

theorem cur?_core {s : State} {iss : Issue} (h : s.cur? = some iss) : iss.core = s.turn := by
  simpa using List.find?_some h

/-- The word in issue is performed, and the clause moves past it and its literal (R68). -/
theorem issueWord_eq {s : State} {iss : Issue} {i : Instr} (hd : decode (iss.wordAt iss.pos) = .ok i) :
    afterOut (issueWord s iss) = match exec i s with
      | .next t => .next (t.moveTo iss.core (iss.pos + if readsLiteral i then 2 else 1)
          (readsLiteral i || (iss.wordAt iss.pos).toNat < 2 ^ 31)).afterStep
      | .fault f => .fault f
      | .refused r => .refused r := by
  have hc : ((iss.wordAt iss.pos).toNat / 2 ^ 31 == 0) = decide ((iss.wordAt iss.pos).toNat < 2 ^ 31) := by
    rw [Bool.eq_iff_iff]; simp [Nat.div_eq_zero_iff]
  simp only [issueWord, hd, hc]
  cases exec i s <;> rfl

theorem issueStep_inside {s : State} {iss : Issue} (h : iss.grp ≠ iss.pos) : issueStep s iss = issueWord s iss := by
  simp [issueStep, h]

theorem issueStep_start {s : State} {iss : Issue} {c : Cohort} {k : Kernel} (h : iss.grp = iss.pos) (hc : s.cohort? iss.cid = some c)
    (hk : s.kernelOf? c.gid = some k) (hb : badPlace k.lr iss = none) :
    issueStep s iss = issueWord ((s.landGroup iss).settleGroup iss) iss := by
  simp [issueStep, h, hc, hk, hb]

theorem settleGroup_of_one {s : State} {iss : Issue} (h : (groupFrom iss.words 3 iss.pos).length < 2) : s.settleGroup iss = s :=
  if_pos h

/-! ### Starting a clause -/

theorem startStep_header {s s1 : State} {p : Pick} {x : Word} {h : Hdr} (hp : (s.schedule s.turn).pick s.turn = (s1, some p))
    (hh : p.head = .hdr x h) (hf : s1.fetchHole? s.turn p.asid x.toNat (3 * (h.len + 1)) = none) : startStep s = exec h.instr s := by
  simp only [startStep, hp, hh, hf]

/-! ### Kiln -/

/-- What a Kiln core does with the word it fetched (R374). -/
noncomputable def kilnDoes (s : State) (x : RvWord) : Out :=
  if x.len = 4 ∧ x.w % 128 = 11 then
    match decodeKiln x.w with
    | some i => exec i s
    | none => x.illegal s
  else x.run s

theorem kilnStep_awake {s : State} (h : s.kilnCore.stalled = none) (h1 : s.dev.service ≠ .maskRom) (h2 : s.dev.service ≠ .badImage) :
    let s1 := s.setKiln { s.kilnCore with mcycle := s.kilnCore.mcycle + 1 }
    kilnStep s = s1.kilnWord (kilnDoes s1) := by
  rw [kilnStep, if_neg (by simp [h, h1, h2])]
  rfl

theorem kilnDoes_extension {s : State} {x : RvWord} (hl : x.len = 4) (hw : x.w % 128 = 11) {i : Instr} (hi : decodeKiln x.w = some i) :
    kilnDoes s x = exec i s := by
  rw [kilnDoes, if_pos ⟨hl, hw⟩, hi]

theorem kilnDoes_illegal {s : State} {x : RvWord} (hl : x.len = 4) (hw : x.w % 128 = 11) (hi : decodeKiln x.w = none) :
    kilnDoes s x = .next (s.setKiln (x.k.trap 2 (word x.raw))) := by
  rw [kilnDoes, if_pos ⟨hl, hw⟩, hi]
  rw [word_natCast]; rfl

theorem kilnDoes_base {s : State} {x : RvWord} (hw : x.w % 128 ≠ 11) : kilnDoes s x = x.run s :=
  if_neg fun h => hw h.2

/-! ### The environment -/

theorem step_act {s : State} {rest : List Agent} {i : Instr} (ha : s.agenda = .act i :: rest) (he : encodeNat i = none) :
    step s = afterOut (if s.inService || deviceEvent i then exec i ({ s with agenda := rest } : State).dropReserved
      else .next { s with agenda := rest }) := by
  have hs : ({ s with agenda := rest } : State).inService = s.inService := rfl
  simp [step, ha, agentStep, isEvent, he, hs]

/-- Settles O25: the turn gives a core, a Kiln core or an event, and each performs what it stands at. -/
theorem stepRunsDecoded : Obligations.StepRunsDecoded := by
  unfold Obligations.StepRunsDecoded
  refine ⟨?word, fun s iss h => settleGroup_of_one h, ?start, ?kiln, ?act, ?itself⟩
  case word =>
    intro s c rest iss i ha hc hs s0 hcur hd lit runs
    have hcore : iss.core = c := cur?_core hcur
    have hstep : step s = afterOut (issueStep s0 iss) := (step_core ha hc hs).trans (congrArg afterOut (coreStep_of_cur hc hcur))
    refine ⟨fun h => ?_, fun k h hg hk hl hb => ?_⟩
    · change step s = _
      rw [hstep, issueStep_inside h, issueWord_eq hd, hcore] <;> rfl
    · have hk0 : s0.cohort? iss.cid = some h := (dropReserved_cohort? _ _).trans hk
      have hl0 : s0.kernelOf? h.gid = some k := (dropReserved_kernelOf? _ _).trans hl
      change step s = _
      rw [hstep, issueStep_start hg hk0 hl0 hb, issueWord_eq hd, hcore] <;> rfl
  case start =>
    intro s s1 c rest p x h ha hc hs s0 hcur hp hh hf
    rw [step_core ha hc hs, coreStep_of_none hc hcur, startStep_header hp hh hf]
  case kiln =>
    intro s c rest w ha hc h1 h2 s0 hst s1 x hgo
    have hstep : step s = afterOut (kilnDoes s1 x) :=
      (step_kiln ha hc).trans (congrArg afterOut ((kilnStep_awake hst h1 h2).trans (hgo _)))
    refine ⟨fun hw => ⟨fun i hi => ?_, fun hi => ?_⟩, fun hw => ?_⟩
    · rw [hstep, kilnDoes_extension rfl hw hi]
    · rw [hstep, kilnDoes_illegal rfl hw hi, afterOut]
    · rw [hstep, kilnDoes_base hw]
  case act =>
    intro s rest i ha he
    refine ⟨fun h => ?_, fun h1 h2 => ?_⟩
    · rw [step_act ha he, if_pos (by simpa using h)]
    · rw [step_act ha he, if_neg (by simp [h1, h2])]
      rfl
  case itself =>
    intro s ha ht hs hcur
    have hd : s.dropReserved.cur?.isSome = true := by rw [dropReserved_cur?]; exact Option.isSome_iff_ne_none.2 hcur
    have hright := step_core (s := { s with agenda := [.core s.turn] }) rfl ht hs
    have hstate : ({ ({ s with agenda := [.core s.turn] } : State) with agenda := [] } : State) = s := by rw [← ha]
    have hturn : ({ s.dropReserved with turn := s.turn } : State) = s.dropReserved := by rw [← dropReserved_turn s]
    rw [hright, hstate, hturn]
    simp only [step, ha, selfStep, State.carryOn, not_le.2 ht, hs, hd, dropReserved_turn, ht, decide_false, decide_true, Bool.false_and, Bool.true_and,
      Bool.not_true, Bool.false_eq_true, if_true, if_false]

end Sys2Proof.Machine
end

section
/-!
SUPPORT. The words that the manual writes out (R83), and the state that reset leaves (R12, R374, R377).
-/

namespace Sys2Proof.Machine

open Claim

/-- Settles O26: each word of the list decodes by the tables of its major opcode. -/
theorem decodeWords : Obligations.DecodeWords := by
  unfold Obligations.DecodeWords
  decide

/-! ### Reset -/

/-- What holds of the one value that a replicated vector holds is true of each of its entries. -/
theorem getElem?_replicate_imp {α : Type} {n : Nat} {a : α} {P : α → Prop} (h : P a) (i : Nat) (x : α)
    (hx : (Vector.replicate n a)[i]? = some x) : P x := by
  obtain ⟨hi, rfl⟩ := Vector.getElem?_eq_some_iff.1 hx
  rwa [Vector.getElem_replicate]

theorem reset_deviceBounds : deviceBounds State.reset := by
  refine ⟨by decide, getElem?_replicate_imp (by decide), getElem?_replicate_imp (by decide), getElem?_replicate_imp (by decide),
    getElem?_replicate_imp (by decide)⟩

theorem canonical_nil : canonical [] := ⟨List.Pairwise.nil, fun _ h => absurd h List.not_mem_nil⟩

/-- Settles O30: the lists of the state are empty at reset, and every entry of a table of the device has its one value. -/
theorem resetValues : Obligations.ResetValues := by
  unfold Obligations.ResetValues
  refine ⟨rfl, rfl, rfl, rfl, rfl, rfl, rfl, rfl, rfl, rfl, rfl, rfl, rfl, rfl, rfl, rfl, rfl, rfl, ?_, ?_, ?_, ?_, reset_deviceBounds,
    canonical_nil, canonical_nil, canonical_nil⟩
  · exact getElem?_replicate_imp rfl
  · exact getElem?_replicate_imp rfl
  · exact getElem?_replicate_imp (by decide)
  · exact getElem?_replicate_imp ⟨rfl, rfl⟩

end Sys2Proof.Machine
end

section
/-!
SUPPORT. What a word on registers leaves unchanged (R66, R80, R89).
-/

namespace Sys2Proof.Machine

open Claim

/-- Of a thread only the results on their way, the traps due and the stop differ. -/
def SameButResults (x y : Thread) : Prop := y = { x with lands := y.lands, due := y.due, stopped := y.stopped }

/-- Only the threads differ, each in its results on their way and its traps. -/
def RegisterOnly (s t : State) : Prop :=
  t = { s with threads := t.threads } ∧ t.threads.length = s.threads.length ∧
    ∀ (k : Nat) (x : Thread), s.threads[k]? = some x → ∃ y, t.threads[k]? = some y ∧ SameButResults x y

/-- The instruction changes nothing but results and traps, in whatever state. -/
def OnRegisters (i : Instr) : Prop := ∀ s t : State, exec i s = .next t → RegisterOnly s t

/-! ### The two kinds of register word -/

theorem sameButResults_refl (x : Thread) : SameButResults x x := rfl
theorem sameButResults_receive (x : Thread) (iss : Issue) (lat dep : Nat) (es : List Eff) : SameButResults x (x.receive iss lat dep es) := rfl
theorem sameButResults_raise (x : Thread) (d : Due) : SameButResults x (x.raise d) := rfl

theorem onIssuing_registerOnly {s : State} {f : Issue → Thread → Thread} (hf : ∀ iss x, SameButResults x (f iss x)) :
    RegisterOnly s (s.onIssuing f) := by
  rw [State.onIssuing]
  cases s.cur? with
  | none => exact ⟨rfl, rfl, fun k x hx => ⟨x, hx, rfl⟩⟩
  | some iss =>
    refine ⟨rfl, List.length_map _, fun k x hx => ⟨_, by rw [List.getElem?_map, hx]; rfl, ?_⟩⟩
    simp only []
    split
    · exact hf iss x
    · exact rfl

theorem fixedWord_registerOnly {g : BitVec 4} {lat : Nat} {srcs : List Reg} {f : Issue → Thread → Except Flt (List Eff)} {s t : State}
    (h : fixedWord g lat srcs f s = .next t) : RegisterOnly s t := by
  obtain rfl := Host.Outcome.next.inj h
  refine onIssuing_registerOnly fun iss x => ?_
  rw [fixedOne]
  split
  · cases f iss x with
    | ok es => exact sameButResults_receive ..
    | error e => exact sameButResults_raise ..
  · exact sameButResults_refl x

theorem fpWord_registerOnly {g : BitVec 4} {lat : Nat} {srcs : List Reg} {f : Issue → Thread → List Eff × Nat} {s t : State}
    (h : fpWord g lat srcs f s = .next t) : RegisterOnly s t := by
  obtain rfl := Host.Outcome.next.inj h
  refine onIssuing_registerOnly fun iss x => ?_
  rw [fpOne]
  split
  · simp only []
    split
    · exact sameButResults_receive ..
    · exact sameButResults_raise ..
  · exact sameButResults_refl x

/-! ### The tables of instructions -/

section
variable (c : BitVec 1) (g : BitVec 4) (d a b : BitVec 6)

theorem binRows_onRegisters {r : BinRow} (hr : r ∈ binRows) : OnRegisters (r.w c g d a b) ∧ OnRegisters (r.d c g d a b) := by
  simp only [binRows, List.mem_cons, List.not_mem_nil, or_false] at hr
  rcases hr with rfl | rfl | rfl | rfl | rfl | rfl | rfl | rfl | rfl | rfl | rfl | rfl | rfl | rfl | rfl | rfl <;>
    exact ⟨fun _ _ h => fixedWord_registerOnly h, fun _ _ h => fixedWord_registerOnly h⟩

theorem twoRows_onRegisters {r : TwoRow} (hr : r ∈ twoRows) : OnRegisters (r.i c g d a b) := by
  simp only [twoRows, List.mem_cons, List.not_mem_nil, or_false] at hr
  rcases hr with rfl | rfl | rfl | rfl | rfl | rfl | rfl | rfl <;> exact fun _ _ h => fixedWord_registerOnly h

theorem threeRows_onRegisters {r : ThreeRow} (hr : r ∈ threeRows) : OnRegisters (r.i c g d a b) := by
  simp only [threeRows, List.mem_cons, List.not_mem_nil, or_false] at hr
  rcases hr with rfl | rfl | rfl <;> exact fun _ _ h => fixedWord_registerOnly h

theorem oneRows_onRegisters {r : OneRow} (hr : r ∈ oneRows) : OnRegisters (r.i c g d a) := by
  simp only [oneRows, List.mem_cons, List.not_mem_nil, or_false] at hr
  rcases hr with rfl | rfl | rfl | rfl | rfl | rfl | rfl | rfl | rfl | rfl | rfl | rfl | rfl | rfl <;>
    exact fun _ _ h => fixedWord_registerOnly h

theorem shflRows_onRegisters {r : CtorT × (Nat → Nat → Nat → Int)} (hr : r ∈ shflRows) : OnRegisters (r.1 c g d a b) := by
  simp only [shflRows, List.mem_cons, List.not_mem_nil, or_false] at hr
  rcases hr with rfl | rfl | rfl | rfl <;> exact fun _ _ h => fixedWord_registerOnly h

theorem ptRows_onRegisters {r : PtRow} (hr : r ∈ ptRows) : OnRegisters (r.s c g d a b) ∧ OnRegisters (r.d c g d a b) := by
  simp only [ptRows, List.mem_cons, List.not_mem_nil, or_false] at hr
  rcases hr with rfl | rfl | rfl <;> exact ⟨fun _ _ h => fpWord_registerOnly h, fun _ _ h => fpWord_registerOnly h⟩

theorem fusedRows_onRegisters {r : PtRow} (hr : r ∈ fusedRows) : OnRegisters (r.s c g d a b) ∧ OnRegisters (r.d c g d a b) := by
  simp only [fusedRows, List.mem_cons, List.not_mem_nil, or_false] at hr
  rcases hr with rfl | rfl | rfl | rfl <;> exact ⟨fun _ _ h => fpWord_registerOnly h, fun _ _ h => fpWord_registerOnly h⟩

theorem minMaxRows_onRegisters {r : CtorT × CtorT × Bool} (hr : r ∈ minMaxRows) :
    OnRegisters (r.1 c g d a b) ∧ OnRegisters (r.2.1 c g d a b) := by
  simp only [minMaxRows, List.mem_cons, List.not_mem_nil, or_false] at hr
  rcases hr with rfl | rfl <;> exact ⟨fun _ _ h => fpWord_registerOnly h, fun _ _ h => fpWord_registerOnly h⟩

theorem fnRows_onRegisters {r : FnRow} (hr : r ∈ fnRows) : OnRegisters (r.s c g d a) ∧ OnRegisters (r.d c g d a) := by
  simp only [fnRows, List.mem_cons, List.not_mem_nil, or_false] at hr
  rcases hr with rfl | rfl | rfl | rfl | rfl | rfl | rfl <;>
    exact ⟨fun _ _ h => fpWord_registerOnly h, fun _ _ h => fpWord_registerOnly h⟩

theorem packRows_onRegisters {r : PackRow} (hr : r ∈ packRows) : OnRegisters (r.i c g d a b) := by
  simp only [packRows, List.mem_cons, List.not_mem_nil, or_false] at hr
  rcases hr with rfl | rfl | rfl | rfl | rfl | rfl <;> exact fun _ _ h => fpWord_registerOnly h

theorem ivRows_onRegisters {r : CtorT × CtorT × Nat × Nat × Bool} (hr : r ∈ ivRows) :
    OnRegisters (r.1 c g d a b) ∧ OnRegisters (r.2.1 c g d a b) := by
  simp only [ivRows, List.mem_cons, List.not_mem_nil, or_false] at hr
  rcases hr with rfl | rfl | rfl | rfl | rfl | rfl | rfl <;>
    exact ⟨fun _ _ h => fixedWord_registerOnly h, fun _ _ h => fixedWord_registerOnly h⟩

theorem ivFusedRows_onRegisters {r : CtorT × CtorT × Nat} (hr : r ∈ ivFusedRows) :
    OnRegisters (r.1 c g d a b) ∧ OnRegisters (r.2.1 c g d a b) := by
  simp only [ivFusedRows, List.mem_cons, List.not_mem_nil, or_false] at hr
  rcases hr with rfl | rfl | rfl | rfl <;> exact ⟨fun _ _ h => fixedWord_registerOnly h, fun _ _ h => fixedWord_registerOnly h⟩

theorem ivPartRows_onRegisters {r : CtorN × CtorN × (Fmt → Nat × Nat → Nat)} (hr : r ∈ ivPartRows) :
    OnRegisters (r.1 c g d a) ∧ OnRegisters (r.2.1 c g d a) := by
  simp only [ivPartRows, List.mem_cons, List.not_mem_nil, or_false] at hr
  rcases hr with rfl | rfl | rfl | rfl <;> exact ⟨fun _ _ h => fixedWord_registerOnly h, fun _ _ h => fixedWord_registerOnly h⟩

theorem icmpRows_onRegisters (p : BitVec 2) (k : BitVec 3) {r : CmpRow} (hr : r ∈ icmpRows) : OnRegisters (r.i c g p k a b) := by
  simp only [icmpRows, List.mem_cons, List.not_mem_nil, or_false] at hr
  rcases hr with rfl | rfl | rfl | rfl | rfl | rfl | rfl | rfl | rfl | rfl | rfl | rfl <;> exact fun _ _ h => fixedWord_registerOnly h

theorem fcmpRows_onRegisters (p : BitVec 2) (k : BitVec 3) {r : FcmpRow} (hr : r ∈ fcmpRows) :
    OnRegisters (r.s c g p k a b) ∧ OnRegisters (r.d c g p k a b) := by
  simp only [fcmpRows, List.mem_cons, List.not_mem_nil, or_false] at hr
  rcases hr with rfl | rfl | rfl | rfl | rfl | rfl | rfl | rfl <;>
    exact ⟨fun _ _ h => fpWord_registerOnly h, fun _ _ h => fpWord_registerOnly h⟩

theorem ivCmpRows_onRegisters (p : BitVec 2) (k : BitVec 3) {r : CtorC × CtorC × Nat × Bool × Bool} (hr : r ∈ ivCmpRows) :
    OnRegisters (r.1 c g p k a b) ∧ OnRegisters (r.2.1 c g p k a b) := by
  simp only [ivCmpRows, List.mem_cons, List.not_mem_nil, or_false] at hr
  rcases hr with rfl | rfl | rfl | rfl | rfl | rfl | rfl | rfl | rfl | rfl <;>
    exact ⟨fun _ _ h => fixedWord_registerOnly h, fun _ _ h => fixedWord_registerOnly h⟩

theorem predTwo_onRegisters (x y z : BitVec 3) {r : (BitVec 1 → BitVec 4 → BitVec 3 → BitVec 3 → BitVec 3 → Instr) × (K3 → K3 → K3)}
    (hr : r ∈ predTwo) : OnRegisters (r.1 c g x y z) := by
  simp only [predTwo, List.mem_cons, List.not_mem_nil, or_false] at hr
  rcases hr with rfl | rfl | rfl <;> exact fun _ _ h => fixedWord_registerOnly h

theorem predOne_onRegisters (x y : BitVec 3) {r : (BitVec 1 → BitVec 4 → BitVec 3 → BitVec 3 → Instr) × (K3 → K3)}
    (hr : r ∈ predOne) : OnRegisters (r.1 c g x y) := by
  simp only [predOne, List.mem_cons, List.not_mem_nil, or_false] at hr
  rcases hr with rfl | rfl | rfl | rfl <;> exact fun _ _ h => fixedWord_registerOnly h

theorem sel_onRegisters (k : BitVec 3) : OnRegisters (.sel c g d a b k) := fun _ _ h => fixedWord_registerOnly h

theorem immediates_onRegisters (m : BitVec 9) (n : BitVec 15) :
    OnRegisters (.addiW c g d a m) ∧ OnRegisters (.addiD c g d a m) ∧ OnRegisters (.movi c g d n) :=
  ⟨fun _ _ h => fixedWord_registerOnly h, fun _ _ h => fixedWord_registerOnly h, fun _ _ h => fixedWord_registerOnly h⟩

theorem mxq_onRegisters : OnRegisters (.mxq c g d a b) := fun _ _ h => fpWord_registerOnly h

theorem transfers_onRegisters : ∀ i ∈ [Instr.randW c g d a b, .randD c g d a b, .rdclk c g d, .rdtags c g d, .movk c g d a, .rdsr c g d a,
    .movp c g d a, .rdtr c g d b, .rdfpc c g d, .rdhash c g d, .voteAll c g d a, .voteAny c g d a, .ballot c g d a, .ballotu c g d a,
    .fmovGf c g d a, .fmovFg c g d a, .fcpysS c g d a b, .fcpysD c g d a b, .fabsS c g d a, .fabsD c g d a, .fnegS c g d a, .fnegD c g d a,
    .fclassS c g d a, .fclassD c g d a, .cbdec c g d a b, .imakeS c g d a b, .imakeD c g d a b, .iinflI c g d a b,
    .iinflJ c g d a b, .iptS c g d a, .iptD c g d a, .trd c g d a b, .tfirst c g d b, .cheld c g d b], OnRegisters i := by
  simp only [List.forall_mem_cons, List.not_mem_nil, false_imp_iff, implies_true, and_true]
  refine ⟨?_, ?_, ?_, ?_, ?_, ?_, ?_, ?_, ?_, ?_, ?_, ?_, ?_, ?_, ?_, ?_, ?_, ?_, ?_, ?_, ?_, ?_, ?_, ?_, ?_, ?_, ?_, ?_, ?_, ?_, ?_, ?_, ?_, ?_⟩ <;>
    exact fun _ _ h => fixedWord_registerOnly h

end

/-- Settles O29: every word of the list is a fixed-latency word, of integers or of points. -/
theorem registerWordsFrame : Obligations.RegisterWordsFrame := by
  unfold Obligations.RegisterWordsFrame
  intro i s t hi h
  suffices hon : OnRegisters i from hon s t h
  obtain ⟨c, g, d, a, b, hi⟩ := hi
  obtain ⟨r, hr, rfl | rfl⟩ | ⟨r, hr, rfl⟩ | ⟨r, hr, rfl⟩ | ⟨r, hr, rfl⟩ | ⟨r, hr, rfl⟩ | ⟨r, hr, rfl | rfl⟩ | ⟨r, hr, rfl | rfl⟩ |
    ⟨r, hr, rfl | rfl⟩ | ⟨r, hr, rfl | rfl⟩ | ⟨r, hr, rfl⟩ | ⟨r, hr, rfl | rfl⟩ | ⟨r, hr, rfl | rfl⟩ | ⟨r, hr, rfl | rfl⟩ |
    ⟨p, k, ⟨r, hr, rfl⟩ | ⟨r, hr, rfl | rfl⟩ | ⟨r, hr, rfl | rfl⟩⟩ | ⟨x, y, z, ⟨r, hr, rfl⟩ | ⟨r, hr, rfl⟩⟩ | ⟨k, rfl⟩ |
    ⟨m, n, rfl | rfl | rfl⟩ | hi := hi
  · exact (binRows_onRegisters c g d a b hr).1
  · exact (binRows_onRegisters c g d a b hr).2
  · exact twoRows_onRegisters c g d a b hr
  · exact threeRows_onRegisters c g d a b hr
  · exact oneRows_onRegisters c g d a hr
  · exact shflRows_onRegisters c g d a b hr
  · exact (ptRows_onRegisters c g d a b hr).1
  · exact (ptRows_onRegisters c g d a b hr).2
  · exact (fusedRows_onRegisters c g d a b hr).1
  · exact (fusedRows_onRegisters c g d a b hr).2
  · exact (minMaxRows_onRegisters c g d a b hr).1
  · exact (minMaxRows_onRegisters c g d a b hr).2
  · exact (fnRows_onRegisters c g d a hr).1
  · exact (fnRows_onRegisters c g d a hr).2
  · exact packRows_onRegisters c g d a b hr
  · exact (ivRows_onRegisters c g d a b hr).1
  · exact (ivRows_onRegisters c g d a b hr).2
  · exact (ivFusedRows_onRegisters c g d a b hr).1
  · exact (ivFusedRows_onRegisters c g d a b hr).2
  · exact (ivPartRows_onRegisters c g d a hr).1
  · exact (ivPartRows_onRegisters c g d a hr).2
  · exact icmpRows_onRegisters c g a b p k hr
  · exact (fcmpRows_onRegisters c g a b p k hr).1
  · exact (fcmpRows_onRegisters c g a b p k hr).2
  · exact (ivCmpRows_onRegisters c g a b p k hr).1
  · exact (ivCmpRows_onRegisters c g a b p k hr).2
  · exact predTwo_onRegisters c g x y z hr
  · exact predOne_onRegisters c g x y hr
  · exact sel_onRegisters c g d a b k
  · exact (immediates_onRegisters c g d a m n).1
  · exact (immediates_onRegisters c g d a m n).2.1
  · exact (immediates_onRegisters c g d a m n).2.2
  · obtain rfl | hi' := eq_or_ne i (.mxq c g d a b)
    · exact mxq_onRegisters c g d a b
    · refine transfers_onRegisters c g d a b i ?_
      simp only [List.mem_cons, hi', false_or] at hi ⊢
      exact hi

end Sys2Proof.Machine
end

section
/-!
SUPPORT. Messages at the monitors' home slices and replies at the cores (R236, R238, R239, R241, R242).
-/

namespace Sys2Proof.Machine

open Claim

/-! ### Messages -/

/-- A message whose turn has come is served (R236, R242). -/
theorem monitorServe_eq {s : State} {id : Nat} {m : Msg} (h : s.msgs.find? (fun x => x.id == id) = some m) (hw : s.msgWaits m = false)
    {kind : MsgKind} (hk : m.kind = kind) (f : State → Msg → Monitor → State) :
    monitorServe kind f id s = .next (f { s with msgs := s.msgs.filter fun x => x.id != id } m
      (State.monitorAt { s with msgs := s.msgs.filter fun x => x.id != id } m.asid m.colour)) := by
  simp only [monitorServe, h]
  rw [if_neg (by simp [hk, hw])]

theorem passOn_nil {s : State} {m : Monitor} (h : m.entry = []) : s.passOn m = s.setMonitor { m with owner := none } := by
  rw [State.passOn, h]

theorem passOn_cons {s : State} {m : Monitor} {e : Nat × Nat} {rest : List (Nat × Nat)} (h : m.entry = e :: rest) :
    s.passOn m = (s.setMonitor { m with owner := some e, entry := rest }).reply e.1 m.asid m.colour e.2 true := by
  rw [State.passOn, h]

/-- The home slice serves each kind of message as the table of R236 says. -/
theorem monitorMessages : Sys2Proof.Claim.MonitorMessages := by
  unfold Sys2Proof.Claim.MonitorMessages
  intro id s m h hw s1 mon answer
  have serve {kind : MsgKind} (hk : m.kind = kind) (f) : monitorServe kind f id s = .next (f s1 m mon) := monitorServe_eq h hw hk f
  refine ⟨fun hk ho => ?_, fun hk ho => ?_, fun hk he => ?_, fun e rest hk he ha hc => ?_, fun hk he => ?_, fun e rest hk he ha hc => ?_,
    fun hk he => ?_, fun w rest hk he => ?_, fun hk => ?_⟩
  · change execMonitorAcquire id s = _
    rw [execMonitorAcquire, serve hk, ho]; rfl
  · obtain ⟨o, ho⟩ := Option.ne_none_iff_exists'.1 ho
    change execMonitorAcquire id s = _
    rw [execMonitorAcquire, serve hk, ho]; rfl
  · change execMonitorRelease id s = _
    rw [execMonitorRelease, serve hk, passOn_nil he]
  · change execMonitorRelease id s = _
    rw [execMonitorRelease, serve hk, passOn_cons he, ha, hc]; rfl
  · change execMonitorWait id s = _
    rw [execMonitorWait, serve hk, passOn_nil (by exact he)]
  · change execMonitorWait id s = _
    rw [execMonitorWait, serve hk, passOn_cons (by exact he), ha, hc]; rfl
  · change execMonitorNotify id s = _
    rw [execMonitorNotify, serve hk, he]
  · change execMonitorNotify id s = _
    rw [execMonitorNotify, serve hk, he]
  · change execMonitorNotifyAll id s = _
    rw [execMonitorNotifyAll, serve hk]

/-! ### Replies -/

/-- A line that a drop selects is not left in the L1 (R182). -/
theorem dropL1_not_selected {s : State} {core : Nat} {which : L1Line → Bool} {l : L1Line} (hl : l ∈ ((s.dropL1 core which).coreAt core).l1) :
    which l = false := by
  rw [State.dropL1, State.coreAt_modCore _ _ _ (by intro k; rfl), if_pos rfl] at hl
  simpa using (List.mem_filter.1 hl).2

theorem monitorGrant_eq {s : State} {id : Nat} {r : Reply} {x : Thread} (h : s.replies.find? (fun y => y.id == id) = some r)
    (hx : s.thread? r.tid = some x) (hw : s.replyWaits r x.core = false) (hg : r.grant = true) :
    exec (.monitorGrant id) s = .next (((State.grantAcquire { s with replies := s.replies.filter fun y => y.id != id }
      x.core r.asid r.tid r.colour).granted r.tid r.colour).pump) := by
  change execMonitorGrant id s = _
  simp only [execMonitorGrant, h, hx, hg, hw]
  rfl

theorem monitorQueuedReply_eq {s : State} {id : Nat} {r : Reply} {x : Thread} (h : s.replies.find? (fun y => y.id == id) = some r)
    (hx : s.thread? r.tid = some x) (hw : s.replyWaits r x.core = false) (hg : r.grant = false) :
    exec (.monitorQueuedReply id) s = .next (if x.st = .exited then { s with replies := s.replies.filter fun y => y.id != id }
      else parksFor { s with replies := s.replies.filter fun y => y.id != id } r.tid (.colour r.colour)) := by
  change execMonitorQueuedReply id s = _
  simp only [execMonitorQueuedReply, h, hx, hg, hw, addPark_eq]
  rfl

/-- A release is ready when the earlier accesses are done, the colour is the thread's, and nothing of the thread for the colour is under way. -/
theorem relReady_of {s : State} {r : Rel} (hops : ∀ o ∈ s.ops, o.tid = r.tid → o.seq < r.seq → o.kind.beforeRelease = true → o.waiting = false)
    (hrels : ∀ y ∈ s.rels, y.tid = r.tid → y.colour = r.colour → r.id ≤ y.id)
    (hmsgs : ∀ m ∈ s.msgs, m.tid = r.tid → m.colour = r.colour → m.kind = .notify ∨ m.kind = .notifyAll)
    (hown : (s.monitorAt r.asid r.colour).owner.map (·.1) = some r.tid) (hrep : ∀ y ∈ s.replies, y.tid = r.tid → y.colour ≠ r.colour)
    (hdrain : (s.releaseWrites r).drainStuck (dieOf r.core) r.asid 4 = false) : s.relReady r = true := by
  simp only [State.relReady, Bool.and_eq_true, List.all_eq_true, hown, hdrain]
  refine ⟨⟨⟨⟨⟨fun o ho => ?_, fun y hy => ?_⟩, fun m hm => ?_⟩, by simp⟩, rfl⟩, fun y hy => ?_⟩
  · by_contra hc
    simp only [Bool.not_eq_true, Bool.not_eq_false', Bool.and_eq_true, beq_iff_eq, decide_eq_true_eq] at hc
    obtain ⟨⟨⟨ht, hs⟩, hb⟩, hwt⟩ := hc
    exact Bool.noConfusion (hwt.symm.trans (hops o ho ht hs hb))
  · by_contra hc
    simp only [Bool.not_eq_true, Bool.not_eq_false', Bool.and_eq_true, beq_iff_eq, decide_eq_true_eq] at hc
    obtain ⟨⟨ht, hcol⟩, hlt⟩ := hc
    exact absurd (hrels y hy ht hcol) (not_le.2 hlt)
  · by_contra hc
    simp only [Bool.not_eq_true, Bool.not_eq_false', Bool.and_eq_true, beq_iff_eq, bne_iff_ne] at hc
    obtain ⟨⟨⟨ht, hcol⟩, hn⟩, hna⟩ := hc
    exact (hmsgs m hm ht hcol).elim hn hna
  · by_contra hc
    simp only [Bool.not_eq_true, Bool.not_eq_false', Bool.and_eq_true, beq_iff_eq] at hc
    exact hrep y hy hc.1 hc.2

/-- Replies at the core, and the release that a thread owes. -/
theorem monitorReplies : Sys2Proof.Claim.MonitorReplies := by
  unfold Sys2Proof.Claim.MonitorReplies
  refine ⟨fun id s r x h hx hw => ?_, fun id s r h hops hrels hmsgs hown hrep hdrain => ?_⟩
  · intro s1
    refine ⟨fun _ l hl ha => ?_, fun hg => monitorGrant_eq h hx hw hg, fun hg he => ?_, fun hg he => ?_⟩
    · have hsel := dropL1_not_selected (s := s1) (core := x.core)
        (which := fun l => l.asid == r.asid && (l.colour == 0 || l.colour == r.colour)) hl
      by_cases hme : peME l.home.entry = true
      · simpa [L1Line.colour, ha, hme] using hsel
      · simp [L1Line.colour, ha, hme] at hsel
    · rw [monitorQueuedReply_eq h hx hw hg, if_pos he]
    · rw [monitorQueuedReply_eq h hx hw hg, if_neg he]
  · change execColourReleaseSend id s = _
    simp only [execColourReleaseSend, h, relReady_of hops hrels hmsgs hown hrep hdrain]
    rfl

/-- Settles O50: the messages at the home slices and the replies at the cores. -/
theorem monitorEvents : Obligations.MonitorEvents := by
  unfold Obligations.MonitorEvents
  exact ⟨monitorMessages, monitorReplies⟩

end Sys2Proof.Machine
end

section
/-!
SUPPORT. What the memory's own operations change of the state: its memory and the next fresh number (R180 to R183, R188).
-/

namespace Sys2Proof.Machine

/-- Nothing but the memory and the next fresh number differs. -/
def MemOnly (s t : State) : Prop := t = { s with fresh := t.fresh, mem := t.mem }

theorem MemOnly.refl (s : State) : MemOnly s s := rfl
theorem MemOnly.of_mem (s : State) (m : Mem) : MemOnly s { s with mem := m } := rfl
theorem MemOnly.of_fresh (s : State) (n : Nat) : MemOnly s { s with fresh := n } := rfl
theorem MemOnly.of_both (s : State) (m : Mem) (n : Nat) : MemOnly s { s with fresh := n, mem := m } := rfl

theorem MemOnly.trans {a b c : State} (h : MemOnly a b) (h' : MemOnly b c) : MemOnly a c := by
  rw [MemOnly] at h h' ⊢
  rw [h', h]

theorem MemOnly.ite {c : Prop} [Decidable c] {s t u : State} (ht : MemOnly s t) (hu : MemOnly s u) : MemOnly s (if c then t else u) := by
  split
  · exact ht
  · exact hu

theorem MemOnly.foldl {α : Type} {f : State → α → State} (h : ∀ s x, MemOnly s (f s x)) (l : List α) (s : State) : MemOnly s (l.foldl f s) := by
  induction l generalizing s with
  | nil => exact .refl s
  | cons x l ih => exact (h s x).trans (ih _)

section
variable {s t : State} (h : MemOnly s t)
include h

theorem MemOnly.threads : t.threads = s.threads := by rw [h]
theorem MemOnly.cohorts : t.cohorts = s.cohorts := by rw [h]
theorem MemOnly.issues : t.issues = s.issues := by rw [h]
theorem MemOnly.groups : t.groups = s.groups := by rw [h]
theorem MemOnly.kernels : t.kernels = s.kernels := by rw [h]
theorem MemOnly.cores : t.cores = s.cores := by rw [h]
theorem MemOnly.ops : t.ops = s.ops := by rw [h]
theorem MemOnly.pool : t.pool = s.pool := by rw [h]
theorem MemOnly.kiln : t.kiln = s.kiln := by rw [h]
theorem MemOnly.dev : t.dev = s.dev := by rw [h]

end

/-! ### The operations -/

theorem State.writePeer_memOnly (s : State) (h : Home) (line : Nat) : MemOnly s (s.writePeer h line) := by
  rw [State.writePeer]
  split
  · exact .refl s
  · exact .of_mem s _

theorem State.wtArrives_memOnly (s : State) (w : WriteThrough) : MemOnly s (s.wtArrives w) := by
  rw [State.wtArrives]
  cases s.peerReq? w.id <;> exact .of_mem s _

theorem State.drain_memOnly (s : State) (which : WriteThrough → Bool) : MemOnly s (s.drain which) :=
  .foldl State.wtArrives_memOnly _ s

theorem State.evictL2s_memOnly (s : State) (die slice : Nat) (ownOnly : Bool) (left n : Nat) : MemOnly s (s.evictL2s die slice ownOnly left n) := by
  induction n generalizing s with
  | zero => exact .refl s
  | succ n ih =>
    rw [State.evictL2s]
    exact .ite (.refl s) (((MemOnly.of_mem s _).trans (.of_mem _ _)).trans (ih _))

theorem State.roomL2_memOnly (s : State) (die line : Nat) (own : Bool) : MemOnly s (s.roomL2 die line own) :=
  (s.evictL2s_memOnly ..).trans (State.evictL2s_memOnly ..)

theorem State.addCopy_memOnly (s : State) (c : DieCopy) : MemOnly s (s.addCopy c) :=
  (s.roomL2_memOnly ..).trans (.of_mem _ _)

theorem State.touchOwn_memOnly (s : State) (die asid line : Nat) (h : Home) (alloc : Bool) (cls : Nat) :
    MemOnly s (s.touchOwn die asid line h alloc cls) := by
  rw [State.touchOwn]
  exact .ite (.of_mem s _) (.ite ((s.roomL2_memOnly ..).trans (.of_mem _ _)) (.refl s))

theorem State.countMiss_memOnly (s : State) (die asid line : Nat) (h : Home) : MemOnly s (s.countMiss die asid line h) := by
  rw [State.countMiss]
  exact .ite (.refl s) (.of_mem s _)

theorem State.readPeer_memOnly (s : State) (h : Home) (line : Nat) : MemOnly s (s.readPeer h line).1 := by
  rw [State.readPeer]
  split
  · exact .refl s
  · exact .of_mem s _

theorem State.fetchHome_memOnly (s : State) (die asid line : Nat) (h : Home) : MemOnly s (s.fetchHome die asid line h).1 :=
  ((s.drain_memOnly _).trans (State.countMiss_memOnly ..)).trans (State.readPeer_memOnly ..)

theorem State.mergeL2_memOnly (s : State) (die asid line : Nat) (h : Home) (data : BitVec 512) (mask : BitVec 64) (kinds : BitVec 32)
    (alloc : Bool) (cls : Nat) : MemOnly s (s.mergeL2 die asid line h data mask kinds alloc cls) := by
  have sent (s : State) : MemOnly s (if h.node < 8 then s else s.sent (s.newPeer 0 (nodePkg h.node) line) true) :=
    .ite (.refl s) (.of_mem s _)
  rw [State.mergeL2]
  refine .ite (.refl s) (.ite (((s.touchOwn_memOnly ..).trans (State.writePeer_memOnly ..)).trans (.of_mem _ _)) ?_)
  refine MemOnly.trans (MemOnly.trans (.ite (.of_mem s _) (.ite (s.addCopy_memOnly _) (.refl s))) (.ite (.refl _) (.of_mem _ _)))
    (MemOnly.of_both _ _ _)

theorem State.readL2_memOnly (s : State) (die asid line : Nat) (h : Home) (bound : Nat) (alloc : Bool) (cls : Nat) :
    MemOnly s (s.readL2 die asid line h bound alloc cls).1 := by
  rw [State.readL2]
  split
  · split
    · exact s.touchOwn_memOnly ..
    · exact (s.touchOwn_memOnly ..).trans (State.fetchHome_memOnly ..)
  · cases s.copyOf? die asid line with
    | none =>
      cases alloc with
      | true => exact ((s.fetchHome_memOnly ..).trans (State.addCopy_memOnly ..)).trans (.of_fresh _ _)
      | false => exact s.fetchHome_memOnly ..
    | some c =>
      simp only []
      split
      · split
        · have hd : MemOnly s (if bound == 0 then s else s.drainLine die asid line) := .ite (.refl s) (s.drain_memOnly _)
          exact hd.trans (.of_mem _ _)
        · have hf := s.fetchHome_memOnly die asid line h
          generalize s.fetchHome die asid line h = x at hf ⊢
          exact hf.trans (.of_mem _ _)
      · exact (s.fetchHome_memOnly ..).trans (.of_both _ _ _)

theorem State.fetchLines_memOnly (s : State) (die asid line n : Nat) : MemOnly s (s.fetchLines die asid line n) := by
  induction n generalizing s line with
  | zero => exact .refl s
  | succ n ih =>
    rw [State.fetchLines]
    refine MemOnly.trans ?_ (ih _ _)
    cases s.homeWith die asid (64 * line) peEX with
    | error e => exact .refl s
    | ok h => exact s.readL2_memOnly ..

/-! ### Write-backs of an L1 that its clock calls for (R182) -/

/-- Write-backs set out; of the memory nothing else differs, and of the rest only the cores and the next fresh number. -/
def SendsOnly (s t : State) : Prop :=
  t = { s with fresh := t.fresh, cores := t.cores, mem := { s.mem with wbs := t.mem.wbs } }

theorem SendsOnly.refl (s : State) : SendsOnly s s := rfl

theorem SendsOnly.trans {a b c : State} (h : SendsOnly a b) (h' : SendsOnly b c) : SendsOnly a c := by
  rw [SendsOnly] at h h' ⊢
  rw [h', h]

theorem SendsOnly.foldl {α : Type} {f : State → α → State} (h : ∀ s x, SendsOnly s (f s x)) (l : List α) (s : State) :
    SendsOnly s (l.foldl f s) := by
  induction l generalizing s with
  | nil => exact .refl s
  | cons x l ih => exact (h s x).trans (ih _)

theorem State.setCore_sendsOnly (s : State) (k : Core) : SendsOnly s (s.setCore k) := by
  rw [State.setCore]
  split <;> rfl

theorem State.sendBack_sendsOnly (s : State) (core : Nat) (l : L1Line) : SendsOnly s (s.sendBack core l) := by
  rw [State.sendBack]
  split
  · exact .refl s
  · exact (s.setCore_sendsOnly _).trans rfl

theorem State.setClock_sendsOnly (s : State) (core cycle : Nat) : SendsOnly s (s.setClock core cycle) :=
  (s.setCore_sendsOnly _).trans (.foldl (fun s l => s.sendBack_sendsOnly core l) _ _)

theorem State.setClock_mem (s : State) (core cycle : Nat) : (s.setClock core cycle).mem = { s.mem with wbs := (s.setClock core cycle).mem.wbs } := by
  conv_lhs => rw [s.setClock_sendsOnly core cycle]

end Sys2Proof.Machine
end

section
/-!
SUPPORT. How a clause starts (R73, R94, R101) and how it ends (R95, R346).
-/

namespace Sys2Proof.Machine

open Claim

/-! ### The frontier -/

theorem standsAt_iff {cid : Nat} {x : Word} {t : Thread} : standsAt cid x t = true ↔ t.cid = cid ∧ t.live = true ∧ t.pc = x := by
  simp [standsAt, and_assoc]

theorem headAt_hdr {s : State} {core asid : Nat} {o : Option Word} {x : Word} {h : Hdr} (he : s.headAt core asid o = .hdr x h) : o = some x := by
  cases o with
  | none => cases he
  | some y =>
    rw [State.headAt] at he
    split at he
    · cases he
    · split at he
      · cases he
      · cases hf : s.fetchWord core asid y.toNat with
        | word w =>
          rw [hf] at he
          cases hw : Hdr.ofWord w with
          | none => simp only [hw] at he; cases he
          | some h' => simp only [hw] at he; cases he; rfl
        | _ => rw [hf] at he; cases he

/-- The frontier is the lowest program counter of the cohort's live threads (R94). -/
theorem frontier_le {s : State} {cid : Nat} {x : Word} (h : s.frontier cid = some x) {t : Thread} (ht : t ∈ s.threads) (hc : t.cid = cid)
    (hl : t.live = true) : x.toNat ≤ t.pc.toNat := by
  obtain ⟨m, hm, rfl⟩ := Option.map_eq_some_iff.1 h
  refine (minBy_spec hm).2 t (List.mem_filter.2 ⟨List.mem_filter.2 ⟨ht, ?_⟩, hl⟩)
  simp [hc]

/-- The cohort that the scheduler picks stands at the head that it is picked with. -/
theorem pickFrom_head {s s1 : State} {core asid : Nat} {cs : List (Nat × Nat)} {p : Pick} (h : s.pickFrom core asid cs = (s1, some p)) :
    p.head = s1.head core asid p.cid := by
  induction cs generalizing s with
  | nil => cases h
  | cons c rest ih =>
    rw [State.pickFrom] at h
    split at h
    · exact ih h
    · simp only [] at h
      split at h
      · exact ih h
      · cases h
        rfl

theorem pick_head {s s1 : State} {core : Nat} {p : Pick} (h : s.pick core = (s1, some p)) : ∃ asid, p.head = s1.head core asid p.cid := by
  rw [State.pick] at h
  split at h
  · cases h
  · cases hr : (s.coreAt core).running? with
    | none => rw [hr] at h; cases h
    | some x => rw [hr] at h; exact ⟨_, pickFrom_head h⟩

/-! ### The start -/

/-- Conditions 2 and 3 of R73 on the fields of a header's word. -/
theorem startOk_of {c : Cohort} {w : BitVec 12} {a b : BitVec 4} (hw : ∀ n, n < 12 → w.getLsbD n = true → c.flags[n]?.getD 0 = 0)
    (hf : ∀ n, n = a.toNat ∨ (n = b.toNat ∧ b ≠ 15) → c.flags[n]?.getD 0 + (if a = b then 2 else 1) ≤ 15) :
    c.startOk w.toNat a.toNat b.toNat = true := by
  have hab : (a.toNat = b.toNat) = (a = b) := propext BitVec.toNat_inj
  simp only [Cohort.startOk, hab, Bool.and_eq_true, Bool.or_eq_true, List.all_eq_true, List.mem_range, decide_eq_true_eq, beq_iff_eq]
  refine ⟨⟨fun n hn => ?_, hf _ (.inl rfl)⟩, ?_⟩
  · cases hb : w.getLsbD n with
    | true => exact .inr (hw n hn hb)
    | false =>
      left
      rw [BitVec.getLsbD, Nat.testBit_eq_decide_div_mod_eq, decide_eq_false_iff_not] at hb
      omega
  · obtain rfl | hb := eq_or_ne b 15
    · exact .inl rfl
    · exact .inr (hf _ (.inr ⟨rfl, hb⟩))

section
variable (s : State) (core : Nat) (p : Pick) (x : Word) (ws : List Word32) (a b : Nat)

theorem State.begin_threads : (s.begin core p x ws a b).threads =
    s.threads.map fun t => if standsAt p.cid x t then t.begin (s.coreAt core).clock s.fresh else t := by
  simp [State.begin]

theorem State.begin_pool : (s.begin core p x ws a b).pool = s.pool := by simp [State.begin]

theorem State.begin_ops : (s.begin core p x ws a b).ops = s.ops := by simp [State.begin]

theorem State.begin_issue : (s.begin core p x ws a b).issues.find? (fun i => i.core == core) = some
    { core := core, cid := p.cid, hdr := x, words := ws, aFlag := a, bFlag := b, pos := 1, t0 := (s.coreAt core).clock, grp := 1, flagged := 0,
      tids := (s.threads.filter (standsAt p.cid x)).map (·.tid), tagsRd := 0, stageRd := 0 } := by
  have hnone : (s.issues.filter fun i => i.core != core).find? (fun i => i.core == core) = none :=
    List.find?_eq_none.2 fun i hi => by simpa using (List.mem_filter.1 hi).2
  simp [State.begin, List.find?_append, hnone]

end

/-- A clause starts where the scheduler picks a cohort at a header. -/
theorem clauseStarts : Sys2Proof.Claim.ClauseStarts := by
  unfold Sys2Proof.Claim.ClauseStarts
  intro w a b y l s p x h c ws s1 hcur hp hh hc hw hf hfetch
  constructor
  · obtain ⟨s2, hm, hs2⟩ : ∃ s2, MemOnly s1 s2 ∧ s1.startClause s.turn p x a.toNat b.toNat l.toNat = s2.begin s.turn p x ws a.toNat b.toNat :=
      ⟨_, s1.fetchLines_memOnly .., by rw [State.startClause, hfetch]⟩
    have hex : exec (.clauseStart w a b y l) s = .next (s2.begin s.turn p x ws a.toNat b.toNat) := by
      change execClauseStart w a b y l s = _
      rw [execClauseStart, if_neg (by simp [hcur]), hp]
      simp only [hh, hc, startOk_of hw hf, if_true, hs2]
    have hclock : (s2.coreAt s.turn).clock = (s1.coreAt s.turn).clock := by rw [State.coreAt, hm.cores, ← State.coreAt]
    refine ⟨_, _, hex, s2.begin_issue .., rfl, rfl, rfl, rfl, rfl, rfl, rfl, fun th hth hat => ?_, fun i hi => ?_, ⟨s2.fresh, ?_⟩, ?_, ?_⟩
    · exact List.mem_map_of_mem (List.mem_filter.2 ⟨hm.threads ▸ hth, standsAt_iff.2 hat⟩)
    · obtain ⟨th, hth, rfl⟩ := List.mem_map.1 hi
      obtain ⟨hmem, hat⟩ := List.mem_filter.1 hth
      exact ⟨th, hm.threads ▸ hmem, rfl, standsAt_iff.1 hat⟩
    · rw [State.begin_threads, hm.threads, hclock]
      simp only [standsAt_iff]
    · rw [State.begin_pool, hm.pool]
    · rw [State.begin_ops, hm.ops]
  · intro th hth hcid hlive
    obtain ⟨asid, hp'⟩ := pick_head hp
    exact frontier_le (headAt_hdr (hp'.symm.trans hh)) hth hcid hlive

/-! ### The end -/

/-- The special registers that a thread wrote: its control register and its trap record, no other part of it (R80, R133, R341). -/
theorem foldl_sr_eq (l : List (Nat × Word)) (t : Thread) : ∃ f r, (l.foldl (fun t x =>
      if x.1 = 13 then { t with fpc := (x.2 &&& fpcMask) ||| BitVec.ofNat 64 (t.stickyNow % 32 * 2 ^ 16) }
      else { t with trap := { t.trap with pc := x.2, resume := x.2 } }) t) = { t with fpc := f, trap := r } := by
  induction l generalizing t with
  | nil => exact ⟨_, _, rfl⟩
  | cons x l ih =>
    rw [List.foldl_cons]
    split
    · obtain ⟨f, r, h⟩ := ih { t with fpc := (x.2 &&& fpcMask) ||| BitVec.ofNat 64 (t.stickyNow % 32 * 2 ^ 16) }
      exact ⟨f, r, h⟩
    · obtain ⟨f, r, h⟩ := ih { t with trap := { t.trap with pc := x.2, resume := x.2 } }
      exact ⟨f, r, h⟩

/-- A thread that leaves a clause goes to its next address; its registers, its stack and its traps stay (R95). -/
theorem leaveClause_eq (fall : Word) (t : Thread) : ∃ f r, t.leaveClause fall =
    { t with fpc := f, trap := r, srPend := [], pc := t.next.getD fall, st := .runnable, next := none, stopped := false } ∧
    (t.srPend = [] → r = t.trap) := by
  obtain ⟨f, r, h⟩ := foldl_sr_eq t.srPend t
  refine ⟨f, r, ?_, fun hs => ?_⟩
  · rw [Thread.leaveClause, Thread.applySr, h]
  · rw [hs] at h
    exact (congrArg Thread.trap h).symm

/-- Of the threads of a clause those that executed RFT, with the address each returns to (R346). -/
def returnsOf (s : State) (iss : Issue) : List (Nat × Word) :=
  ((s.threads.filter fun t => iss.tids.contains t.tid).filter fun t => t.rft).map fun t => (t.tid, t.trap.resume)

/-- What the end of a clause makes of a thread. -/
def Thread.leftClause (s : State) (iss : Issue) (t : Thread) : Thread :=
  let u := if iss.tids.contains t.tid then t.leaveClause iss.fall else t
  match (returnsOf s iss).find? (·.1 == u.tid) with
  | some r => if u.rft && u.st != .exited then u.leaveTrap r.2 else u
  | none => u

theorem settleTraps_of_none {s : State} {cid : Nat} (h : ∀ t ∈ s.threads, t.cid = cid → t.due = []) : s.settleTraps cid = s := by
  have hnone : (s.threads.filter fun t => t.cid == cid && (t.st == .runnable || t.st == .frontier) && t.due != []) = [] :=
    List.filter_eq_nil_iff.2 fun t ht => by
      by_cases hc : t.cid = cid
      · simp [hc, h t ht hc]
      · simp [hc]
  rw [State.settleTraps, hnone]
  rfl

theorem finishClause_eq {s : State} {iss : Issue} (hex : ∀ x ∈ s.threads, x.exiting = false) (hdue : ∀ x ∈ s.threads, x.cid = iss.cid → x.due = [])
    (hflush : ∀ c ∈ s.cohorts, c.cid = iss.cid → c.flushEnd = false) :
    ∃ ops, s.finishClause iss = State.setClock { s with
      threads := s.threads.map (Thread.leftClause s iss)
      issues := s.issues.filter fun i => i.core != iss.core
      ops := ops } iss.core iss.t0 := by
  have hleaving : ((s.threads.filter fun t => iss.tids.contains t.tid).filter fun t => t.exiting && !t.stopped) = [] :=
    List.filter_eq_nil_iff.2 fun t ht => by simp [hex t (List.mem_filter.1 ht).1]
  rw [State.finishClause, hleaving]
  simp only [List.map_nil, List.foldl_nil]
  rw [settleTraps_of_none]
  · rw [List.map_map]
    cases hc : State.cohort? _ iss.cid with
    | none => exact ⟨_, rfl⟩
    | some c =>
      have hmem := List.mem_of_find?_eq_some hc
      rw [State.setClock_cohorts] at hmem
      have hid : c.cid = iss.cid := by simpa using List.find?_some hc
      simp only [hflush c hmem hid]
      exact ⟨_, rfl⟩
  · intro t ht hcid
    obtain ⟨x, hx, rfl⟩ := List.mem_map.1 ht
    by_cases hin : iss.tids.contains x.tid = true
    · obtain ⟨f, r, hl, -⟩ := leaveClause_eq iss.fall x
      rw [if_pos hin, hl] at hcid ⊢
      exact hdue x hx hcid
    · rw [if_neg hin] at hcid ⊢
      exact hdue x hx hcid

section
variable {s : State} {iss : Issue} {x : Thread} (hn : (s.threads.map Thread.tid).Nodup) (hx : x ∈ s.threads)

theorem leftClause_outside (h : x.tid ∉ iss.tids) : Thread.leftClause s iss x = x := by
  have hout : iss.tids.contains x.tid = false := by simpa using h
  have hnone : (returnsOf s iss).find? (·.1 == x.tid) = none := by
    refine List.find?_eq_none.2 fun r hr => ?_
    obtain ⟨t, ht, rfl⟩ := List.mem_map.1 hr
    have hin := (List.mem_filter.1 (List.mem_filter.1 ht).1).2
    intro he
    have he' : t.tid = x.tid := eq_of_beq he
    rw [he', hout] at hin
    exact Bool.noConfusion hin
  simp only [Thread.leftClause, hout, Bool.false_eq_true, if_false, hnone]

theorem leftClause_inside (h : x.tid ∈ iss.tids) (hrft : x.rft = false) : Thread.leftClause s iss x = x.leaveClause iss.fall := by
  have hin : iss.tids.contains x.tid = true := by simpa using h
  obtain ⟨f, r, hl, -⟩ := leaveClause_eq iss.fall x
  have hr : (x.leaveClause iss.fall).rft = false := by rw [hl]; exact hrft
  simp only [Thread.leftClause, hin, if_true, hr, Bool.false_and, Bool.false_eq_true, if_false]
  cases (returnsOf s iss).find? (·.1 == (x.leaveClause iss.fall).tid) <;> rfl

include hn hx in
theorem leftClause_returning (h : x.tid ∈ iss.tids) (hrft : x.rft = true) :
    Thread.leftClause s iss x = (x.leaveClause iss.fall).leaveTrap x.trap.resume := by
  have hin : iss.tids.contains x.tid = true := by simpa using h
  obtain ⟨f, r, hl, -⟩ := leaveClause_eq iss.fall x
  have hfind : (returnsOf s iss).find? (·.1 == x.tid) = some (x.tid, x.trap.resume) := by
    have hmem : (x.tid, x.trap.resume) ∈ returnsOf s iss :=
      List.mem_map_of_mem (List.mem_filter.2 ⟨List.mem_filter.2 ⟨hx, hin⟩, hrft⟩)
    have hsome : ((returnsOf s iss).find? (·.1 == x.tid)).isSome = true := List.find?_isSome.2 ⟨_, hmem, beq_self_eq_true x.tid⟩
    obtain ⟨q, hr⟩ := Option.isSome_iff_exists.1 hsome
    obtain ⟨t, ht, rfl⟩ := List.mem_map.1 (List.mem_of_find?_eq_some hr)
    have hts := (List.mem_filter.1 (List.mem_filter.1 ht).1).1
    have htid : t.tid = x.tid := by simpa using List.find?_some hr
    rw [hr, eq_of_tid_eq hn hts hx htid]
  have htid : (x.leaveClause iss.fall).tid = x.tid := by rw [hl]
  have hlive : ((x.leaveClause iss.fall).rft && (x.leaveClause iss.fall).st != .exited) = true := by rw [hl]; simp [hrft]
  simp only [Thread.leftClause, hin, if_true, htid, hfind, hlive]

end

/-- A clause ends. -/
theorem clauseEnds : Sys2Proof.Claim.ClauseEnds := by
  unfold Sys2Proof.Claim.ClauseEnds
  intro s iss hn hq hflush t
  obtain ⟨ops, ht⟩ := finishClause_eq (fun x hx => (hq x hx).1) (fun x hx => (hq x hx).2) hflush
  have hth : t.threads = s.threads.map (Thread.leftClause s iss) := (congrArg State.threads ht).trans (by simp)
  refine ⟨by rw [hth, List.length_map], fun i hi => ?_, ?_, (congrArg State.pool ht).trans (by simp), fun k x hk => ?_⟩
  · rw [show t.issues = _ from (congrArg State.issues ht).trans (State.setClock_issues ..)] at hi
    simpa using (List.mem_filter.1 hi).2
  · rw [show t = _ from ht]
    exact State.setClock_mem ..
  · have hx : x ∈ s.threads := List.mem_of_getElem? hk
    refine ⟨Thread.leftClause s iss x, by rw [hth, List.getElem?_map, hk]; rfl, leftClause_outside, fun hin => ?_⟩
    obtain ⟨f, r, hl, hr⟩ := leaveClause_eq iss.fall x
    cases hrft : x.rft with
    | false =>
      rw [leftClause_inside hin hrft, hl]
      exact ⟨rfl, rfl, rfl, rfl, hr, fun _ => ⟨rfl, rfl⟩, nofun⟩
    | true =>
      rw [leftClause_returning hn hx hin hrft, hl]
      exact ⟨rfl, rfl, rfl, rfl, hr, nofun, fun _ => ⟨rfl, rfl⟩⟩

/-- Settles O51: how a clause starts, and how it ends. -/
theorem clauseStartsAndEnds : Obligations.ClauseStartsAndEnds := by
  unfold Obligations.ClauseStartsAndEnds
  exact ⟨clauseStarts, clauseEnds⟩

end Sys2Proof.Machine
end

section
/-!
SUPPORT. The words of the matrix engine at issue, their commands in the queue, MCOMMIT and MWAIT (R258, R263, R266 to R277).
-/

namespace Sys2Proof.Machine

open Claim

/-! ### Fields of operand words (R258) -/

theorem fld_eq (w : Word) (lo n : Nat) : Claim.fld w lo n = w.toNat / 2 ^ lo % 2 ^ n := by
  rw [Claim.fld, BitVec.extractLsb'_toNat, Nat.shiftRight_eq_div_pow]

/-- A field that reaches the top of the word. -/
theorem fld_top (w : Word) {lo n : Nat} (h : 64 ≤ lo + n) : Claim.fld w lo n = w.toNat / 2 ^ lo := by
  rw [fld_eq]
  refine Nat.mod_eq_of_lt (Nat.div_lt_of_lt_mul ?_)
  rw [← pow_add]
  exact w.isLt.trans_le (Nat.pow_le_pow_right (by decide) h)

theorem tileRef_bad (w : Word) : (TileRef.ofWord w).bad = tileBad w := by
  simp only [TileRef.ofWord, tileBad, fld_top w (show 64 ≤ 24 + 40 by decide), fld_eq]
  rw [Bool.eq_iff_iff]; simp [or_comm]

theorem tileRef_tid (w : Word) : (TileRef.ofWord w).tid = Claim.fld w 0 8 := by simp [TileRef.ofWord, fld_eq]
theorem tileRef_first (w : Word) : (TileRef.ofWord w).first = Claim.fld w 16 8 := by simp [TileRef.ofWord, fld_eq]

theorem ctlWord_slot (w : Word) : (CtlWord.ofWord w).slot = Claim.fld w 14 1 := by simp [CtlWord.ofWord, fld_eq]
theorem ctlWord_pa (w : Word) : (CtlWord.ofWord w).pa = Claim.fld w 9 5 := by simp [CtlWord.ofWord, fld_eq]
theorem ctlWord_count (w : Word) : (CtlWord.ofWord w).count = Claim.fld w 0 9 := by simp [CtlWord.ofWord, fld_eq]
theorem ctlWord_reg (w : Word) : (CtlWord.ofWord w).reg = cvOf w := by simp [CtlWord.ofWord, CtlWord.reg, cvOf, fld_eq]

/-- The control word breaks R258, or names a convergence register that the launch does not have. -/
theorem ctlWord_bad_iff (s : State) (t : Thread) (w : Word) :
    ctlBad s t w = true ↔ (CtlWord.ofWord w).bad = true ∨
      ((CtlWord.ofWord w).ce = true ∧ s.cvCount t.gid ≤ (CtlWord.ofWord w).cv) := by
  simp only [ctlBad, CtlWord.ofWord, State.cvCount, fld_top w (show 64 ≤ 20 + 44 by decide), fld_eq]
  simp [or_assoc, or_comm]

theorem cntWord_bad_iff (w : Word) : cntBad w = true ↔
    (CntWord.ofWord w).bad = true ∨ (CntWord.ofWord w).count = 0 ∨ 256 < (CntWord.ofWord w).count := by
  simp [cntBad, CntWord.ofWord, fld_top w (show 64 ≤ 11 + 53 by decide), fld_eq]

theorem cntWord_out (w : Word) : (CntWord.ofWord w).out = Claim.fld w 9 2 := by simp [CntWord.ofWord, fld_eq]
theorem cntWord_count (w : Word) : (CntWord.ofWord w).count = Claim.fld w 0 9 := by simp [CntWord.ofWord, fld_eq]

theorem idxWord_bad (w : Word) : (IdxWord.ofWord w).bad = true ↔ Claim.fld w 17 47 ≠ 0 := by
  simp [IdxWord.ofWord, fld_top w (show 64 ≤ 17 + 47 by decide)]
theorem idxWord_row (w : Word) : (IdxWord.ofWord w).row = Claim.fld w 9 8 := by simp [IdxWord.ofWord, fld_eq]
theorem idxWord_element (w : Word) : (IdxWord.ofWord w).element = Claim.fld w 0 9 := by simp [IdxWord.ofWord, fld_eq]

theorem scrAddr_x (a : Word) : (ScrAddr.ofWord a).x = true ↔ Claim.fld a 23 1 = 1 := by simp [ScrAddr.ofWord, fld_eq]

/-! ### Issue -/

/-- A pair of code and address as the fault that it stands for. -/
def asFlt {α : Type} : Except (Nat × Word) α → Except Flt α := Except.mapError fun x => .mk2 x.1 x.2

theorem mxFlt_eq (cause tid : Nat) : mxFlt cause tid = .mk2 0x0E (mxAt cause tid) := by
  simp only [mxFlt, mxAt, mxWord, word_natCast, tcMatrix]
  norm_num

theorem engineOne_eq {iss : Issue} {q : Nat} {mk : Issue → Thread → Except Flt CmdReq} {req : Thread → Except (Nat × Word) CmdReq}
    (h : ∀ t, mk iss t = asFlt (req t)) : engineOne iss q mk = queues iss q req := by
  funext s t
  simp only [engineOne, queues, h]
  cases req t with
  | error x => rfl
  | ok r =>
    simp only [asFlt, Except.mapError, cmdLimit, mxFlt_eq]
    rfl

theorem engineWord_eq {s : State} {iss : Issue} (h : s.cur? = some iss) (g : BitVec 4) {mk : Issue → Thread → Except Flt CmdReq}
    {req : Thread → Except (Nat × Word) CmdReq} (hreq : ∀ t, mk iss t = asFlt (req t)) :
    engineWord g mk s = .next (inTurn s iss g (queues iss s.fresh req)) := by
  simp only [engineWord, h, engineOne_eq hreq, inTurn]

theorem ownScratch_eq (s : State) (t : Thread) (a : Word) : ownScratch s t a = asFlt (ownAt s t a) := by
  simp only [ownScratch, ownAt, bne_iff_ne]
  split
  · rfl
  · cases s.group? t.gid with
    | none => rfl
    | some g =>
      simp only [← scrAddr_x, Bool.or_eq_true, Bool.not_eq_true']
      split <;> rfl

theorem map_asFlt {α β : Type} (f : α → β) (x : Except (Nat × Word) α) : (asFlt x).map f = asFlt (x.map f) := by
  cases x <;> rfl

/-- A choice between the fault of an operand word and a request, whose conditions agree. -/
theorem ite_asFlt {p q : Prop} [Decidable p] [Decidable q] (h : p ↔ q) {x y : Except Flt CmdReq} {x' y' : Except (Nat × Word) CmdReq}
    (hx : x = asFlt x') (hy : y = asFlt y') : (if p then x else y) = asFlt (if q then x' else y') := by
  subst hx hy
  by_cases hq : q
  · rw [if_pos (h.2 hq), if_pos hq]
  · rw [if_neg (mt h.1 hq), if_neg hq]

theorem mxFlt_asFlt (cause tid : Nat) : (.error (mxFlt cause tid) : Except Flt CmdReq) = asFlt (.error (0x0E, mxAt cause tid)) := by
  rw [mxFlt_eq]; rfl

/-- The checks of MRD and MWR (R275). -/
theorem accumReq_eq (s : State) (b i : BitVec 6) (k : OpKind) (iss : Issue) (t : Thread) :
    accumReq s b i k iss t = (accumAt s b i iss t).map fun x => .plain x k := by
  simp only [accumReq, accumAt, Bool.or_eq_true, tileRef_bad, idxWord_bad, tileRef_tid, tileRef_first, idxWord_row, idxWord_element, mxFlt_eq,
    State.desc, bne_iff_ne, Bool.and_eq_true, word_natCast]
  split
  · rfl
  split
  · rfl
  split
  · rfl
  split
  · rfl
  split <;> rfl

section
variable {s : State} {iss : Issue} (h : s.cur? = some iss) (c : BitVec 1) (g : BitVec 4) (d a b : BitVec 6)
include h

theorem trd_lands : execTrd g d a b s = .next (landsOr s iss g 4 [.g a.toNat, .g b.toNat] fun t =>
    if srcG iss t .zero a ≥ 256 ∨ srcG iss t .zero b ≥ 8 then .error (.mk2 0x0E (mxAt 0x08 0))
    else .ok [.g d.toNat (word ((s.coreAt t.core).tidEntry (s.asidOf t.gid) (srcG iss t .zero a).toNat
      |>.extractLsb' (64 * (srcG iss t .zero b).toNat) 64).toNat)]) := by
  refine fixedWord_landsOr h g 4 rfl fun t => ?_
  have hx : ((srcG iss t .zero a).toNat / 256 != 0 || (srcG iss t .zero b).toNat / 8 != 0) = true ↔
      srcG iss t .zero a ≥ 256 ∨ srcG iss t .zero b ≥ 8 := by
    simp only [Bool.or_eq_true, bne_iff_ne, ge_iff_le, BitVec.le_def]
    change _ ↔ 256 ≤ _ ∨ 8 ≤ _
    omega
  simp only [hx, mxFlt_eq, word_natCast]
  split
  · rfl
  · refine congrArg (fun v => Except.ok [Eff.g d.toNat v]) (BitVec.eq_of_toNat_eq ?_)
    simp [Nat.shiftRight_eq_div_pow]

theorem tdef_queues : execTdef g d a b s = .next (inTurn s iss g (queues iss s.fresh fun t =>
    if srcG iss t .sign d ≥ 256 then .error (0x0E, mxAt 0x08 0)
    else (ownAt s t (srcG iss t .zero a)).map fun x =>
      { kind := .tdef (srcG iss t .sign d).toNat x (srcG iss t .zero b).toInt, cv := none })) := by
  refine engineWord_eq h g fun t => ite_asFlt ?_ (mxFlt_asFlt _ _) ?_
  · simp only [bne_iff_ne, ge_iff_le, BitVec.le_def]
    change _ ↔ 256 ≤ _
    omega
  · rw [ownScratch_eq, map_asFlt]

theorem mldb_queues : execMldb g d a s = .next (inTurn s iss g (queues iss s.fresh fun t =>
    if ctlBad s t (srcG iss t .sign d) = true ∨ Claim.fld (srcG iss t .sign d) 9 5 ≠ 0 ∨ Claim.fld (srcG iss t .sign d) 0 9 ≠ 0 ∨
      tileBad (srcG iss t .zero a) = true ∨ Claim.fld (srcG iss t .zero a) 16 8 ≠ 0 then .error (0x0E, mxAt 0x08 0)
    else .ok { kind := .mldb (Claim.fld (srcG iss t .zero a) 0 8) (Claim.fld (srcG iss t .sign d) 14 1), cv := cvOf (srcG iss t .sign d) })) := by
  refine engineWord_eq h g fun t => ite_asFlt ?_ (mxFlt_asFlt _ _) ?_
  · simp only [Bool.or_eq_true, Bool.and_eq_true, decide_eq_true_eq, bne_iff_ne, ctlWord_bad_iff, tileRef_bad, tileRef_first, ctlWord_pa, ctlWord_count]
    tauto
  · simp only [tileRef_tid, ctlWord_slot, ctlWord_reg]; rfl

theorem mmq_queues : execMmq g d a b s = .next (inTurn s iss g (queues iss s.fresh fun t =>
    if ctlBad s t (srcG iss t .sign d) = true ∨ Claim.fld (srcG iss t .sign d) 9 5 = 1 ∨ 16 < Claim.fld (srcG iss t .sign d) 9 5 ∨
      Claim.fld (srcG iss t .sign d) 0 9 = 0 ∨ 256 < Claim.fld (srcG iss t .sign d) 0 9 ∨ tileBad (srcG iss t .zero a) = true ∨
      tileBad (srcG iss t .zero b) = true then .error (0x0E, mxAt 0x08 0)
    else .ok ⟨.mmq (Claim.fld (srcG iss t .zero a) 0 8) (Claim.fld (srcG iss t .zero b) 0 8) (Claim.fld (srcG iss t .zero a) 16 8)
      (Claim.fld (srcG iss t .zero b) 16 8) (Claim.fld (srcG iss t .sign d) 14 1) (Claim.fld (srcG iss t .sign d) 9 5)
      (Claim.fld (srcG iss t .sign d) 0 9), cvOf (srcG iss t .sign d)⟩)) := by
  refine engineWord_eq h g fun t => ite_asFlt ?_ (mxFlt_asFlt _ _) ?_
  · simp only [Bool.or_eq_true, Bool.and_eq_true, decide_eq_true_eq, beq_iff_eq, ctlWord_bad_iff, tileRef_bad, ctlWord_pa, ctlWord_count]
    tauto
  · simp only [tileRef_tid, tileRef_first, ctlWord_slot, ctlWord_pa, ctlWord_count, ctlWord_reg]; rfl

theorem mzero_queues : execMzero g a b s = .next (inTurn s iss g (queues iss s.fresh fun t =>
    if tileBad (srcG iss t .zero a) = true ∨ cntBad (srcG iss t .zero b) = true ∨ Claim.fld (srcG iss t .zero b) 9 2 ≠ 0 then
      .error (0x0E, mxAt 0x08 0)
    else .ok { kind := .mzero (Claim.fld (srcG iss t .zero a) 0 8) (Claim.fld (srcG iss t .zero a) 16 8) (Claim.fld (srcG iss t .zero b) 0 9),
               cv := none })) := by
  refine engineWord_eq h g fun t => ite_asFlt ?_ (mxFlt_asFlt _ _) ?_
  · simp only [Bool.or_eq_true, decide_eq_true_eq, beq_iff_eq, bne_iff_ne, cntWord_bad_iff, tileRef_bad, cntWord_out]
    tauto
  · simp only [tileRef_tid, tileRef_first, cntWord_count]; rfl

theorem mxst_queues : execMxst g d a b s = .next (inTurn s iss g (queues iss s.fresh fun t =>
    if tileBad (srcG iss t .zero a) = true ∨ cntBad (srcG iss t .zero b) = true ∨ Claim.fld (srcG iss t .zero b) 9 2 = 3 then
      .error (0x0E, mxAt 0x08 0)
    else (ownAt s t (srcG iss t .sign d)).map fun o => ⟨.mxst (Claim.fld (srcG iss t .zero a) 0 8) (Claim.fld (srcG iss t .zero a) 16 8)
      (Claim.fld (srcG iss t .zero b) 0 9) (Claim.fld (srcG iss t .zero b) 9 2) o, none⟩)) := by
  refine engineWord_eq h g fun t => ite_asFlt ?_ (mxFlt_asFlt _ _) ?_
  · simp only [Bool.or_eq_true, decide_eq_true_eq, beq_iff_eq, cntWord_bad_iff, tileRef_bad, cntWord_out]
    tauto
  · simp only [tileRef_tid, tileRef_first, cntWord_count, cntWord_out]
    rw [ownScratch_eq, map_asFlt]

end

theorem stpl_starts (g : BitVec 4) (d a b : BitVec 6) (s : State) :
    execStpl g d a b s = .next (s.startOps g false false [.g d.toNat, .g a.toNat, .g b.toNat] fun iss t =>
      let x := srcG iss t .zero a
      let n := (srcG iss t .zero b).toNat
      if n < 2 ∨ 16 < n then .error (.mk2 0x0E (mxAt 0x08 0))
      else if x.toNat % 4 ≠ 0 then .error (.mk2 0x02 x)
      else match s.group? t.gid with
        | none => .error (.mk2 0x04 x)
        | some grp => if s.scratchOk grp x (128 * (n - 1) + 4) then .ok (.plain x (.stpl n (srcG iss t .sign d))) else .error (.mk2 0x04 x)) := by
  simp only [execStpl, opWord, mxFlt_eq, bne_iff_ne]
  rfl

/-- The words of the engine. -/
theorem engineWords : Sys2Proof.Claim.EngineWords := by
  unfold Sys2Proof.Claim.EngineWords
  intro c g d a b s iss h
  refine ⟨tdef_queues h g d a b, mldb_queues h g d a, mmq_queues h g d a b, mzero_queues h g a b, mxst_queues h g d a b, trd_lands h g d a b, ?_, ?_,
    stpl_starts g d a b s⟩
  · change execMrd g d a b s = _
    simp only [execMrd, opWord]
    exact congrArg (fun f => Host.Outcome.next (s.startOps g true false [.g a.toNat, .g b.toNat] f)) (funext₂ fun iss t => accumReq_eq ..)
  · change execMwr g d a b s = _
    simp only [execMwr, opWord]
    exact congrArg (fun f => Host.Outcome.next (s.startOps g false false [.g a.toNat, .g b.toNat, .g d.toNat] f))
      (funext₂ fun iss t => accumReq_eq ..)

end Sys2Proof.Machine
end

section
/-!
SUPPORT. The queue of the matrix engine, MCOMMIT and MWAIT (R263, R266, R267).
-/

namespace Sys2Proof.Machine

open Claim

/-! ### The queue -/

/-- The command that a thread queues. -/
def newCmd (s : State) (t : Thread) (q : Nat) (r : CmdReq) (id grp index : Nat) : Cmd :=
  { id := id, tid := t.tid, gid := t.gid, core := t.core, asid := s.asidOf t.gid, grp := grp, index := index, seq := q, cv := r.cv, kind := r.kind,
    started := false, progress := 0, snap := [], stop := none }

/-- The group that a thread opens. -/
def newGroup (s : State) (t : Thread) : MGroup :=
  { id := s.fresh, tid := t.tid, gid := t.gid, core := t.core, queued := 0, closed := none, done := false, fault := none, reported := false }

/-- A map that changes the entries of one number only leaves the others. -/
theorem map_eq_self_of_ne {α : Type} {key : α → Nat} {n : Nat} {f : α → α} {l : List α} (h : ∀ x ∈ l, key x ≠ n) :
    (l.map fun x => if key x = n then f x else x) = l :=
  (List.map_congr_left fun x hx => if_neg (h x hx)).trans (List.map_id' l)

theorem queueCmd_opens {s : State} {t : Thread} (ht : s.thread? t.tid = some t) (hm : t.matGrp = none) (hf : ∀ m ∈ s.mgroups, m.id < s.fresh)
    (q : Nat) (r : CmdReq) : s.queueCmd t q r = { s.modThread t.tid (fun t => { t with matGrp := some s.fresh }) with
      mgroups := s.mgroups ++ [{ newGroup s t with queued := 1 }], cmds := s.cmds ++ [newCmd s t q r (s.fresh + 1) s.fresh 0], fresh := s.fresh + 2 } := by
  have hopen : s.openGroup t = ({ s.modThread t.tid (fun t => { t with matGrp := some s.fresh }) with
      mgroups := s.mgroups ++ [newGroup s t], fresh := s.fresh + 1 }, s.fresh) := by
    simp only [State.openGroup, ht, Option.bind_some, hm]
    rfl
  have hnone : s.mgroups.find? (fun m => m.id == s.fresh) = none :=
    List.find?_eq_none.2 fun m hm => by simpa using (hf m hm).ne
  have hmap : (s.mgroups.map fun x => if x.id = s.fresh then { x with queued := x.queued + 1 } else x) = s.mgroups :=
    map_eq_self_of_ne fun m hm => (hf m hm).ne
  simp only [State.queueCmd, hopen, List.find?_append, hnone, List.map_append, hmap]
  simp [newGroup, newCmd]

theorem queueCmd_joins {s : State} {t : Thread} (ht : s.thread? t.tid = some t) {i : Nat} (hi : t.matGrp = some i) {m : MGroup}
    (hm : s.mgroups.find? (fun x => x.id == i) = some m) (q : Nat) (r : CmdReq) :
    s.queueCmd t q r =
      let s1 : State := { s with mgroups := s.mgroups.map fun x => if x.id = i then { x with queued := x.queued + 1 } else x }
      if m.fault.isSome then s1 else { s1 with cmds := s.cmds ++ [newCmd s t q r s.fresh i m.queued], fresh := s.fresh + 1 } := by
  have hopen : s.openGroup t = (s, i) := by simp only [State.openGroup, ht, Option.bind_some, hi]
  simp only [State.queueCmd, hopen, hm]
  rfl

/-- A command joins the queue last. -/
theorem commandsQueue : Sys2Proof.Claim.CommandsQueue := by
  unfold Sys2Proof.Claim.CommandsQueue
  intro s t q r ht hf u
  refine ⟨fun hm => ?_, fun i m hi hm => ?_⟩
  · have hu : u = _ := queueCmd_opens ht hm hf q r
    rw [hu]
    refine ⟨_, _, rfl, rfl, rfl, rfl, rfl, rfl, rfl, rfl, rfl, rfl, rfl, fun y hy hyt => ?_⟩
    obtain ⟨x, hx, rfl⟩ := List.mem_map.1 hy
    by_cases hxt : x.tid = t.tid
    · rw [if_pos hxt]; rfl
    · rw [if_neg hxt] at hyt; exact absurd hyt hxt
  · have hu : u = _ := queueCmd_joins ht hi hm q r
    rw [hu]
    cases hfault : m.fault with
    | some w => exact ⟨rfl, fun _ => rfl, nofun⟩
    | none => exact ⟨rfl, fun h => absurd rfl h, fun _ => ⟨_, rfl, rfl, rfl, rfl, rfl, rfl⟩⟩

/-! ### Changes of a core -/

/-- The cores where one has been replaced, or added. -/
def replaceCore (cs : List Core) (k : Core) : List Core :=
  if cs.any (·.id == k.id) then cs.map fun c => if c.id = k.id then k else c else cs ++ [k]

theorem setCore_eq (s : State) (k : Core) : s.setCore k = { s with cores := replaceCore s.cores k } := by
  rw [State.setCore, replaceCore]
  split <;> rfl

theorem replaceCore_twice (cs : List Core) {k k' : Core} (h : k'.id = k.id) : replaceCore (replaceCore cs k) k' = replaceCore cs k' := by
  simp only [replaceCore, h]
  cases hany : cs.any (·.id == k.id) with
  | true =>
    have hany' : (cs.map fun c => if c.id = k.id then k else c).any (·.id == k.id) = true := by
      obtain ⟨c, hc, he⟩ := List.any_eq_true.1 hany
      exact List.any_eq_true.2 ⟨k, List.mem_map.2 ⟨c, hc, if_pos (eq_of_beq he)⟩, beq_self_eq_true _⟩
    simp only [if_true, hany', List.map_map]
    refine List.map_congr_left fun c _ => ?_
    by_cases hc : c.id = k.id <;> simp [hc]
  | false =>
    have hne : ∀ c ∈ cs, c.id ≠ k.id := fun c hc => by simpa using List.any_eq_false.1 hany c hc
    simp only [Bool.false_eq_true, if_false, List.any_append, List.any_cons, beq_self_eq_true, Bool.true_or, Bool.or_true, if_true,
      List.map_append, map_eq_self_of_ne hne, List.map_cons, List.map_nil]

/-- Two changes of a core one after the other are one. -/
theorem modCore_modCore (s : State) (c : Nat) {f g : Core → Core} (hf : ∀ k, (f k).id = k.id) (hg : ∀ k, (g k).id = k.id) :
    (s.modCore c f).modCore c g = s.modCore c fun k => g (f k) := by
  have hid : (g (f (s.coreAt c))).id = (f (s.coreAt c)).id := by rw [hg]
  rw [State.modCore, State.coreAt_modCore s c f hf c, if_pos rfl, State.modCore, State.modCore, setCore_eq, setCore_eq, setCore_eq,
    replaceCore_twice _ hid]

theorem modTag_modTag (s : State) (c n : Nat) (f g : Tag → Tag) : (s.modTag c n f).modTag c n g = s.modTag c n fun t => g (f t) := by
  rw [State.modTag, State.modTag, State.modTag, modCore_modCore _ _ (by intro k; rfl) (by intro k; rfl)]
  refine congrArg _ (funext fun k => ?_)
  by_cases hn : n < 64
  · simp [hn]
  · have hout : ∀ (v : Vector Tag 64) (x : Tag), v.setIfInBounds n x = v := fun v x => Vector.setIfInBounds_eq_of_size_le (not_lt.1 hn)
    simp only [hout]

/-! ### MCOMMIT -/

theorem modTag_eq (s : State) (c n : Nat) (f : Tag → Tag) : s.modTag c n f =
    { s with cores := replaceCore s.cores { s.coreAt c with tags := (s.coreAt c).tags.setIfInBounds n (f (s.tagAt c n)) } } :=
  setCore_eq s _

/-- An operation that begins on a tag and ends at once: the tag is ready unless others are outstanding on it (R281). -/
theorem finish_mark (t : Tag) : t.mark.finish = { t with ready := decide (t.outstanding = 0) } := by
  simp [Tag.mark, Tag.finish]

theorem modTag_tagOf (s : State) (c n : Nat) (f : Tag → Tag) (gid k : Nat) : (s.modTag c n f).tagOf gid k = s.tagOf gid k := by
  simp only [State.tagOf, State.group?, State.modTag_groups]

theorem mark_tagEnds (s : State) (gid k : Nat) : (s.modTag (s.tagOf gid k).1 (s.tagOf gid k).2 Tag.mark).tagEnds gid k none =
    (s.modTag (s.tagOf gid k).1 (s.tagOf gid k).2 fun t => { t with ready := decide (t.outstanding = 0) }).wakeTags gid := by
  simp only [State.tagEnds, modTag_tagOf, modTag_modTag, finish_mark]

/-- A thread without an open group: the tag's operation begins and ends (R267). -/
theorem commitGroup_of_none {s : State} {t : Thread} (ht : s.thread? t.tid = some t) (hm : t.matGrp = none) (k : Nat) :
    s.commitGroup k t = (s.modTag (s.tagOf t.gid k).1 (s.tagOf t.gid k).2 Tag.mark).tagEnds t.gid k none := by
  have ht' : (s.modTag (s.tagOf t.gid k).1 (s.tagOf t.gid k).2 Tag.mark).thread? t.tid = some t := by
    rw [State.thread?, State.modTag_threads]; exact ht
  simp only [State.commitGroup, ht', Option.bind_some, hm]

/-- The state in which a thread's open group is closed on a tag, before the group's end is looked for (R266). -/
def closedOn (s : State) (t : Thread) (k m : Nat) : State :=
  { s with
    threads := s.threads.map fun y => if y.tid = t.tid then { y with matGrp := none } else y
    mgroups := s.mgroups.map fun g => if g.id = m then { g with closed := some (some k) } else g }

theorem commitGroup_of_some {s : State} {t : Thread} (ht : s.thread? t.tid = some t) {m : Nat} (hm : t.matGrp = some m) (k : Nat) :
    s.commitGroup k t = ((closedOn s t k m).modTag (s.tagOf t.gid k).1 (s.tagOf t.gid k).2 Tag.mark).groupEnds m := by
  have ht' : (s.modTag (s.tagOf t.gid k).1 (s.tagOf t.gid k).2 Tag.mark).thread? t.tid = some t := by
    rw [State.thread?, State.modTag_threads]; exact ht
  simp only [State.commitGroup, ht', Option.bind_some, hm]
  rw [modTag_eq, modTag_eq]
  rfl

theorem find?_closed {l : List MGroup} {m : MGroup} (h : l.find? (fun y => y.id == m.id) = some m) (c : Option (Option Nat)) :
    (l.map fun g => if g.id = m.id then { g with closed := c } else g).find? (fun y => y.id == m.id) = some { m with closed := c } := by
  rw [find?_map_key MGroup.id (fun g => { g with closed := c }) (fun _ => rfl), if_pos rfl, h]
  rfl

/-- A group with a command left stays open on its tag (R266). -/
theorem groupEnds_of_cmd {s : State} {m : Nat} {tag : Option Nat} (hclosed : ∀ g ∈ s.mgroups, g.id = m → g.closed = some tag)
    (hc : ∃ c ∈ s.cmds, c.grp = m) : s.groupEnds m = s := by
  obtain ⟨c, hc, hgrp⟩ := hc
  have hany : s.cmds.any (·.grp == m) = true := List.any_eq_true.2 ⟨c, hc, by simp [hgrp]⟩
  rw [State.groupEnds]
  cases hf : s.mgroups.find? (·.id == m) with
  | none => rfl
  | some g =>
    have hg := hclosed g (List.mem_of_find?_eq_some hf) (by simpa using List.find?_some hf)
    simp only [hg, hany, Bool.or_true, if_true]

/-- A closed group without a command left is over; a faulted one is kept for MWAIT (R266, R267). -/
theorem groupEnds_of_done {s : State} {m : MGroup} {k : Nat} (hf : s.mgroups.find? (fun y => y.id == m.id) = some m)
    (hclosed : m.closed = some (some k)) (hd : m.done = false) (hc : ∀ c ∈ s.cmds, c.grp ≠ m.id) : s.groupEnds m.id =
      ({ s with mgroups := if m.fault.isNone then s.mgroups.filter (·.id != m.id)
          else s.mgroups.map fun x => if x.id = m.id then { x with done := true } else x } : State).tagEnds m.gid k none := by
  have hany : s.cmds.any (·.grp == m.id) = false := List.any_eq_false.2 fun c h => by simpa using hc c h
  simp only [State.groupEnds, hf, hclosed, hd, hany, Bool.or_self, Bool.false_eq_true, if_false]

theorem filter_map_closed (l : List MGroup) (m : Nat) (c : Option (Option Nat)) :
    (l.map fun g => if g.id = m then { g with closed := c } else g).filter (·.id != m) = l.filter (·.id != m) := by
  induction l with
  | nil => rfl
  | cons g l ih => by_cases h : g.id = m <;> simp [h, ih]

theorem map_map_closed (l : List MGroup) (m : Nat) (c : Option (Option Nat)) :
    ((l.map fun g => if g.id = m then { g with closed := c } else g).map fun x => if x.id = m then { x with done := true } else x) =
      l.map fun y => if y.id = m then { y with closed := c, done := true } else y := by
  rw [List.map_map]
  refine List.map_congr_left fun g _ => ?_
  by_cases h : g.id = m <;> simp [h]

/-- What becomes of the groups where one is closed on a tag without a command left: it is over, or kept for MWAIT (R266, R267). -/
def endedGroups (s : State) (m : MGroup) (k : Nat) : List MGroup :=
  if m.fault.isNone then s.mgroups.filter (·.id != m.id)
  else s.mgroups.map fun y => if y.id = m.id then { y with closed := some (some k), done := true } else y

/-- A group closed without a command left: what becomes of it, and the tag's operation begins and ends (R266, R267). -/
theorem commitGroup_of_empty {s : State} {t : Thread} (ht : s.thread? t.tid = some t) {m : MGroup} (hm : t.matGrp = some m.id) (k : Nat)
    (hf : s.mgroups.find? (fun y => y.id == m.id) = some m) (hgid : m.gid = t.gid) (hd : m.done = false) (hc : ∀ c ∈ s.cmds, c.grp ≠ m.id) :
    s.commitGroup k t = (State.modTag { closedOn s t k m.id with mgroups := endedGroups s m k } (s.tagOf t.gid k).1 (s.tagOf t.gid k).2
      fun g => { g with ready := decide (g.outstanding = 0) }).wakeTags t.gid := by
  have hfind : ((closedOn s t k m.id).modTag (s.tagOf t.gid k).1 (s.tagOf t.gid k).2 Tag.mark).mgroups.find? (fun y => y.id == m.id) =
      some { m with closed := some (some k) } := by
    rw [State.modTag_mgroups]; exact find?_closed hf _
  rw [commitGroup_of_some ht hm, groupEnds_of_done (m := { m with closed := some (some k) }) hfind rfl hd (by rw [State.modTag_cmds]; exact hc),
    State.modTag_mgroups, hgid]
  simp only [closedOn, filter_map_closed, map_map_closed]
  refine Eq.trans ?_ (mark_tagEnds { closedOn s t k m.id with mgroups := endedGroups s m k } t.gid k)
  rw [modTag_eq, modTag_eq]
  rfl

/-! ### MWAIT -/

theorem reportEngine_of_none {s : State} {t : Thread} {n : Nat}
    (h : ∀ m ∈ s.mgroups, (m.tid == t.tid && m.closed == some (some n) && m.fault.isSome && !m.reported) = false) (pc : Word) (q : Nat) :
    s.reportEngine t n pc q = s := by
  have hnone : s.mgroups.find? (fun m => m.tid == t.tid && m.closed == some (some n) && m.fault.isSome && !m.reported) = none :=
    List.find?_eq_none.2 fun m hm => by rw [h m hm]; exact Bool.false_ne_true
  simp only [State.reportEngine, hnone]

theorem reportEngine_of_some {s : State} {t : Thread} (ht : s.thread? t.tid = some t) {n : Nat} {m : MGroup}
    (h : s.mgroups.find? (fun m => m.tid == t.tid && m.closed == some (some n) && m.fault.isSome && !m.reported) = some m) (pc : Word) (q : Nat) :
    s.reportEngine t n pc q = State.lateFault { s with mgroups := s.mgroups.map fun y =>
        if (y.tid == t.tid && y.closed == some (some n) && y.fault.isSome && !y.reported) = true then { y with reported := true } else y } t.tid
      { seq := q, code := word (0x0E + 2 ^ 16 + t.pass * 2 ^ 24 : Nat), addr := m.fault.getD 0, pc := pc, resume := none } := by
  have hcode : codeWord t tcMatrix false = word (0x0E + 2 ^ 16 + t.pass * 2 ^ 24 : Nat) := by
    rw [word_natCast]; rfl
  have ht' (l : List MGroup) : State.thread? { s with mgroups := l } t.tid = some t := ht
  simp only [State.reportEngine, h, State.wordFault, ht', hcode]

/-- MCOMMIT closes groups on tags, and MWAIT waits for them. -/
theorem commitAndWait : Sys2Proof.Claim.CommitAndWait := by
  unfold Sys2Proof.Claim.CommitAndWait
  refine ⟨fun c g n s iss h => ⟨?_, ?_⟩, fun s t k m ht hm hmem huniq hd hcmd => ?_, fun s t k ht => ?_, fun s t n q pc ht => ?_⟩
  · change execMcommit g n s = _
    simp only [execMcommit, h]
  · change execMwait g n s = _
    simp only [execMwait, h]
  · have hclosed : ∀ x ∈ (closedOn s t k m.id).mgroups, x.id = m.id → x.closed = some (some k) := fun x hx hid => by
      obtain ⟨y, -, rfl⟩ := List.mem_map.1 hx
      by_cases hy : y.id = m.id
      · rw [if_pos hy]
      · rw [if_neg hy] at hid; exact absurd hid hy
    have hu : s.commitGroup k t = (closedOn s t k m.id).modTag (s.tagOf t.gid k).1 (s.tagOf t.gid k).2 Tag.mark := by
      rw [commitGroup_of_some ht hm]
      exact groupEnds_of_cmd (tag := some k) (by rw [State.modTag_mgroups]; exact hclosed) (by rw [State.modTag_cmds]; exact hcmd)
    rw [hu]
    refine ⟨?_, ?_, ?_, fun n hn h64 => ?_⟩
    · rw [State.modTag_mgroups]; exact hclosed
    · rw [State.modTag_threads]
      intro y hy hyt
      obtain ⟨x, -, rfl⟩ := List.mem_map.1 hy
      by_cases hx : x.tid = t.tid
      · rw [if_pos hx]
      · rw [if_neg hx] at hyt; exact absurd hyt hx
    · rw [State.modTag_cmds]; rfl
    · rw [hn, State.tagAt, State.modTag, State.coreAt_modCore _ _ _ (by intro k; rfl), if_pos rfl]
      simp only [Vector.getElem?_setIfInBounds_self, h64, if_true, Option.getD_some]
      rfl
  · intro x ends ended
    refine ⟨fun hm => (commitGroup_of_none ht hm k).trans (mark_tagEnds s t.gid k), ?_⟩
    intro m hm hf hgid hd hc u
    have h := commitGroup_of_empty ht hm k hf hgid hd hc
    refine ⟨fun hfault => h.trans ?_, fun hfault => h.trans ?_⟩
    · rw [endedGroups, if_pos (by simp [hfault])]; rfl
    · rw [endedGroups, if_neg (by simpa using hfault)]; rfl
  · intro mine
    exact ⟨fun hv => tagWait_of_not_done (p := .mwait n pc q) hv,
      fun hv hnone => (tagWait_of_done (p := .mwait n pc q) hv).trans (reportEngine_of_none hnone pc q),
      fun m hv hfind => (tagWait_of_done (p := .mwait n pc q) hv).trans (reportEngine_of_some ht hfind pc q)⟩

/-- Settles O52: the words of the engine, its queue, and the groups that MCOMMIT closes and MWAIT waits for. -/
theorem engineWordsQueue : Obligations.EngineWordsQueue := by
  unfold Obligations.EngineWordsQueue
  exact ⟨engineWords, commandsQueue, commitAndWait⟩

end Sys2Proof.Machine
end

section
/-!
SUPPORT. Barrier words at issue and at the bank (R326 to R332), and the barrier networks (R333, R334, R383).
-/

namespace Sys2Proof.Machine

open Claim

/-! ### The fields of a barrier word (R326, R327) -/

/-- The arrivals that the bank counts are those of R327, whatever the word. -/
theorem bwArrive_eq (w c : Nat) : bwArrive w c = arrivals w c := by
  simp only [bwArrive, arrivals, bwExpected, bwArrived, bwPhase, bwMake, Nat.mod_mod]
  by_cases h : w % 2 ^ 16 ≤ w / 2 ^ 16 % 2 ^ 16 + c
  · rw [if_pos h, if_pos h, Nat.zero_mod, Nat.zero_mul, Nat.add_zero]
  · rw [if_neg h, if_neg h, Nat.mod_eq_of_lt (show w / 2 ^ 16 % 2 ^ 16 + c < 2 ^ 16 by omega)]

/-- R327, R330: the fields of a word after arrivals. -/
theorem arrivalCounts : Sys2Proof.Claim.ArrivalCounts := by
  unfold Sys2Proof.Claim.ArrivalCounts
  intro w c hE hA hw hz
  refine ⟨bwArrive_eq w c, ?_⟩
  simp only [bwArrive_eq, arrivals]
  split
  · refine ⟨?_, ?_, ?_⟩ <;> simp only <;> omega
  · refine ⟨?_, ?_, ?_⟩ <;> simp only <;> omega

/-! ### The words at issue -/

theorem barrierReq_eq (s : State) (b : BitVec 6) (mk : Issue → Thread → OpKind) (iss : Issue) (t : Thread) :
    barrierReq s b mk iss t = (barrierAt s b iss t).map fun a => .plain a (mk iss t) := by
  simp only [barrierReq, barrierAt, bne_iff_ne]
  split
  · rfl
  · cases s.group? t.gid with
    | none => rfl
    | some g => simp only []; split <;> rfl

theorem waitWord_eq (g : BitVec 4) (srcs : List Reg) (mk : Issue → Thread → Except Flt OpReq) (park : Nat → Park) (s : State) :
    waitWord g srcs mk park s = .next (parksOn s park (s.startOps g false false srcs mk)) := by
  simp only [waitWord, parksOn, addPark_eq]

theorem barrierWords : Sys2Proof.Claim.BarrierWords := by
  unfold Sys2Proof.Claim.BarrierWords
  intro c g b p s low count rs word'
  have hreq (regs : List Reg) (k : Issue → Thread → OpKind) : s.startOps g false false regs (barrierReq s b k) = word' regs k :=
    congrArg (s.startOps g false false regs) (funext₂ fun iss t => barrierReq_eq s b k iss t)
  refine ⟨?_, ?_, ?_, ?_, ?_, ?_⟩
  · change execBinit g b p s = _
    rw [execBinit, opWord, hreq]
  · change execArrive g b p s = _
    rw [execArrive, opWord, hreq]
    rfl
  · change execBinval g b s = _
    rw [execBinval, opWord, hreq]
  · change execBwait g b p s = _
    rw [execBwait, waitWord_eq, hreq]
  · change execArrivew g b p s = _
    rw [execArrivew, waitWord_eq, hreq]
    rfl
  · change execNbar g p s = _
    rw [execNbar, waitWord_eq]

/-! ### The bank -/

section
variable {id : Nat} {s : State} {o : Op} {w : BarAt} (h : s.op? id = some o) (hg : s.gate o = true) (hh : s.scratchHeld o = false)
  (hw : s.barrierWord? o = some w) (ht : s.bankTurn o = false)
include h hg hh ht

theorem barrierBankOp_eq (hk : o.kind.barrier? = true) : exec (.barrierBankOp id) s = .next (s.bankOp o).pump := by
  change execBarrierBankOp id s = _
  simp only [execBarrierBankOp, h, hk, hg, hh, ht]
  rfl

end

theorem arriveAt_zero (s : State) (w : BarAt) (gid : Nat) : s.arriveAt w 0 gid = s := rfl

theorem arriveAt_eq (s : State) (w : BarAt) {c : Nat} (hc : c ≠ 0) (gid : Nat) : s.arriveAt w c gid =
    let r := arrivals (s.poolWord w.byte) c
    let s1 := (s.setPoolWord w.byte r.1).noteArrivals w [gid]
    if r.2 then s1.phaseAdvance w else s1 := by
  simp only [State.arriveAt, if_neg hc, bwArrive_eq]

/-- The state whose word a BINIT has made live (R330). -/
def inited (s : State) (w : BarAt) (e : Nat) : State :=
  { (s.setPoolWord w.byte e).clearArrivals w with
    pool := { (s.setPoolWord w.byte e).pool with live := setInsert (liveIdx w.byte) s.pool.live } }

/-- The scope of a barrier word's release: core where the word lies on the thread's core, quad otherwise (R334). -/
abbrev bankRelease (s : State) (o : Op) (w : BarAt) : State :=
  s.fenceEffect o.tid o.seq o.core o.asid (if w.grp.core = o.core then 1 else 2) true false

section
variable {s : State} {o : Op} {w : BarAt} (hw : s.barrierWord? o = some w)
include hw

theorem bankOp_binit_free {e : Nat} (hk : o.kind = .binit e) (hl : s.isLive w.byte = false) (he : e ≠ 0) (h16 : e < 2 ^ 16) :
    s.bankOp o = (inited s w e).dropOp o.id := by
  have hb : bwMake 0 0 e = e := by rw [bwMake, Nat.mod_eq_of_lt h16]; rfl
  have he' : (e == 0) = false := beq_eq_false_iff_ne.2 he
  simp only [State.bankOp, hw, hk, hl, he', Bool.or_self, Bool.false_eq_true, if_false, hb]
  rfl

theorem bankOp_binit_clobber {e : Nat} (hk : o.kind = .binit e) (hl : s.isLive w.byte = true ∨ e = 0) :
    s.bankOp o = s.foundFault o 0x0D o.addr := by
  have hc : (s.isLive w.byte || e == 0) = true := by simpa using hl
  simp only [State.bankOp, hw, hk, hc, if_true]
  rfl

theorem bankOp_arrive_dead {c : Nat} (hk : o.kind = .arrive c) (hl : (bankRelease s o w).isLive w.byte = false) :
    s.bankOp o = (bankRelease s o w).faultOp o 0x0D o.addr := by
  simp only [State.bankOp, hw, hk]
  rw [hl]; rfl

theorem bankOp_arrive_live {c : Nat} (hk : o.kind = .arrive c) (hl : (bankRelease s o w).isLive w.byte = true) :
    s.bankOp o = ((bankRelease s o w).dropOp o.id).arriveAt w c o.gid := by
  simp only [State.bankOp, hw, hk]
  rw [hl]; rfl

theorem bankOp_arrive_counts {c : Nat} (hk : o.kind = .arrive c) (hl : (bankRelease s o w).isLive w.byte = true) (hc : c ≠ 0) :
    s.bankOp o =
      let r := arrivals ((bankRelease s o w).poolWord w.byte) c
      let u := (((bankRelease s o w).dropOp o.id).setPoolWord w.byte r.1).noteArrivals w [o.gid]
      if r.2 then u.phaseAdvance w else u := by
  have hword : ((bankRelease s o w).dropOp o.id).poolWord w.byte = (bankRelease s o w).poolWord w.byte := by
    simp only [State.poolWord, State.dropOp_pool]
  rw [bankOp_arrive_live hw hk hl, arriveAt_eq _ _ hc]
  simp only [hword]

theorem bankOp_bwait_dead {p : Nat} (hk : o.kind = .bwait p) (hl : s.isLive w.byte = false) : s.bankOp o = s.faultOp o 0x0D o.addr := by
  simp only [State.bankOp, hw, hk, hl]
  rfl

theorem bankOp_bwait_live {p : Nat} (hk : o.kind = .bwait p) (hl : s.isLive w.byte = true) : s.bankOp o = s.answerWait w o p := by
  simp only [State.bankOp, hw, hk, hl]
  rfl

theorem bankOp_arrivew_dead {c : Nat} (hk : o.kind = .arrivew c) (hl : (bankRelease s o w).isLive w.byte = false) :
    s.bankOp o = ((bankRelease s o w).faultOp o 0x0D o.addr).answerGroup w o.grpSeq := by
  simp only [State.bankOp, hw, hk]
  rw [hl]; rfl

theorem bankOp_arrivew_live {c : Nat} (hk : o.kind = .arrivew c) (hl : (bankRelease s o w).isLive w.byte = true) :
    s.bankOp o = ((((bankRelease s o w).modOp o.id fun p =>
      { p with kind := .bwait ((bankRelease s o w).poolWord w.byte / 2 ^ 48 % 2 ^ 16), st := .performed 0 }).arriveAt w c o.gid).answerGroup w o.grpSeq) := by
  simp only [State.bankOp, hw, hk]
  rw [hl]; rfl

theorem bankOp_binval_dead (hk : o.kind = .binval) (hl : s.isLive w.byte = false) : s.bankOp o = s.dropOp o.id := by
  simp only [State.bankOp, hw, hk, hl]
  rfl

theorem bankOp_binval_live (hk : o.kind = .binval) (hl : s.isLive w.byte = true) : s.bankOp o = (s.clearWord w o).dropOp o.id := by
  simp only [State.bankOp, hw, hk, hl]
  rfl

end

theorem answerWait_passed {s : State} {w : BarAt} {o : Op} {p : Nat} {x : Thread} (hx : s.thread? o.tid = some x)
    (hp : s.poolWord w.byte / 2 ^ 48 % 2 ^ 16 ≠ p) : s.answerWait w o p = (s.wakeAcquire w.grp.core o.seq x).dropOp o.id := by
  have hne : (bwPhase (s.poolWord w.byte) != p) = true := bne_iff_ne.2 hp
  simp only [State.answerWait, hne, if_true, hx]

theorem answerWait_now {s : State} {w : BarAt} {o : Op} {p : Nat} {x : Thread} (hx : s.thread? o.tid = some x)
    (hl : s.isLive w.byte = true) (hp : s.poolWord w.byte / 2 ^ 48 % 2 ^ 16 = p) : s.answerWait w o p =
      if x.st = .exited then s.dropOp o.id else (parksFor s o.tid (.barrier w.grp.gid w.off p o.pc o.addr o.seq)).dropOp o.id := by
  have hne : (bwPhase (s.poolWord w.byte) != p) = false := by rw [← hp]; exact bne_self_eq_false _
  simp only [State.answerWait, hne, Bool.false_eq_true, if_false, hl, Bool.not_true, hx, Option.map_some, Option.some.injEq, addPark_eq]

/-! ### BINVAL (R332) -/

/-- The state whose word a BINVAL has cleared. -/
def unlived (s : State) (w : BarAt) : State := { s with pool := { s.pool with live := setErase (liveIdx w.byte) s.pool.live } }

/-- An ARRIVEW at the word that has arrived and that the bank has not answered. -/
def Pends (s : State) (w : BarAt) (p : Op) : Prop :=
  p.waiting = false ∧ (∃ q, p.kind = .bwait q) ∧ (s.barrierWord? p).map BarAt.byte = some w.byte

theorem unanswered_iff (s : State) (w : BarAt) (p : Op) : (unlived s w).unanswered w p = true ↔ Pends s w p := by
  have hword : (unlived s w).barrierWord? p = s.barrierWord? p := rfl
  have hkind : (match p.kind with
      | .bwait _ => true
      | _ => false) = true ↔ ∃ q, p.kind = .bwait q := by
    cases p.kind <;> simp
  simp only [State.unanswered, Pends, hword, Bool.and_eq_true, Bool.not_eq_true', beq_iff_eq]
  tauto

theorem unanswered_none {s : State} {w : BarAt} (h : ∀ p ∈ s.ops, ¬ Pends s w p) : s.ops.filter ((unlived s w).unanswered w) = [] :=
  List.filter_eq_nil_iff.2 fun p hp => mt (unanswered_iff s w p).1 (h p hp)

/-- The threads other than the executing one that wait on the word. -/
def waiters (s : State) (w : BarAt) (o : Op) : List Thread := s.threads.filter fun t => t.tid != o.tid && t.parks.any (waitsOn w)

theorem waiters_none {s : State} {w : BarAt} (h : ∀ t ∈ s.threads, ∀ p ∈ t.parks, waitsOn w p = false) (o : Op) : waiters s w o = [] :=
  List.filter_eq_nil_iff.2 fun t ht => by
    have hany : t.parks.any (waitsOn w) = false := List.any_eq_false.2 fun p hp => by simp [h t ht p hp]
    simp [hany]

theorem clearWord_eq (s : State) (w : BarAt) (o : Op) : s.clearWord w o =
    (((s.ops.filter ((unlived s w).unanswered w)).foldl (fun s p => if p.tid = o.tid then s.dropOp p.id else s.faultOp p tcClobber p.addr)
      ((waiters s w o).foldl (fun s t => s.faultWaiter w t) (unlived s w))).endPark o.tid (waitsOn w)) := rfl

/-- A wait that no thread has ends without effect. -/
theorem endPark_eq_self {s : State} {tid : Nat} {which : Park → Bool} (hp : ∀ t ∈ s.threads, ∀ p ∈ t.parks, which p = false)
    (hst : ∀ x ∈ s.threads, x.tid = tid → x.st = .parked → x.parks ≠ []) : s.endPark tid which = s := by
  have hmap : s.threads.map (fun t => if t.tid = tid then
      { t with parks := t.parks.filter (fun p => !which p), st := if t.st = .parked ∧ t.parks.filter (fun p => !which p) = [] then .runnable else t.st }
      else t) = s.threads := by
    refine (List.map_congr_left fun t ht => ?_).trans (List.map_id' _)
    split
    · next htid =>
      have hfil : t.parks.filter (fun p => !which p) = t.parks := List.filter_eq_self.2 fun p hpm => by simp [hp t ht p hpm]
      rw [hfil, if_neg fun hc => hst t ht htid hc.1 hc.2]
    · rfl
  simp only [State.endPark, State.modThread, hmap]

/-- What a thread that waits on a cleared word becomes: it wakes and takes BARRIER_CLOBBER where it parked (R93, R332). -/
def Thread.clobbered (handler : Word) (w : BarAt) (x : Thread) : Thread :=
  match x.parks.find? (waitsOn w) with
  | some (.barrier _ _ _ pc a _) => { x with
      parks := [], st := .runnable, trapped := true, pc := handler, due := [], stopped := false, next := none, rft := false
      trap := { code := codeWord x tcClobber false, addr := a, pc := pc, resume := x.pc } }
  | _ => x

/-- A thread that waits for nothing but the word, and may take its trap. -/
def MayClobber (s : State) (w : BarAt) (x : Thread) : Prop :=
  x.st = .parked ∧ x.trapped = false ∧ x.due = [] ∧ s.handlerOf x.gid ≠ 0 ∧ ∃ n pc a q, x.parks = [.barrier w.grp.gid w.off n pc a q]

theorem clobbered_eq {w : BarAt} {x : Thread} {n pc a q} (h : x.parks = [.barrier w.grp.gid w.off n pc a q]) (handler : Word) :
    x.clobbered handler w = { x with
      parks := [], st := .runnable, trapped := true, pc := handler, due := [], stopped := false, next := none, rft := false
      trap := { code := codeWord x tcClobber false, addr := a, pc := pc, resume := x.pc } } := by
  have hfind : x.parks.find? (waitsOn w) = some (.barrier w.grp.gid w.off n pc a q) := by simp [h, waitsOn]
  simp only [Thread.clobbered, hfind]

theorem clobbered_tid (w : BarAt) (x : Thread) (handler : Word) : (x.clobbered handler w).tid = x.tid := by
  rw [Thread.clobbered]; split <;> rfl

/-- One waiter of a cleared word takes its trap; nothing else changes. -/
theorem faultWaiter_eq {s : State} (hn : (s.threads.map Thread.tid).Nodup) {w : BarAt} {t : Thread} (ht : t ∈ s.threads) (hm : MayClobber s w t) :
    s.faultWaiter w t = s.modThread t.tid fun x => x.clobbered (s.handlerOf x.gid) w := by
  obtain ⟨hst, htr, hdue, hh, n, pc, a, q, hp⟩ := hm
  have hfind : t.parks.find? (waitsOn w) = some (.barrier w.grp.gid w.off n pc a q) := by simp [hp, waitsOn]
  have hone : ∀ x ∈ s.threads, x.tid = t.tid → x = t := fun x hx hxt => eq_of_tid_eq hn hx ht hxt
  have hthread : s.thread? t.tid = some t := thread?_of_mem hn ht
  let d : Due := { seq := q, code := codeWord t tcClobber false, addr := a, pc := pc, resume := none }
  have hlate : s.lateFault t.tid d = s.modThread t.tid fun x => { x with due := [d] } := by
    have hne : t.st ≠ .exited := by rw [hst]; exact nofun
    simp only [State.lateFault, hthread, if_neg hne, State.modThread]
    congr 1
    refine List.map_congr_left fun x hx => ?_
    by_cases hx' : x.tid = t.tid
    · rw [if_pos hx', if_pos hx', hone x hx hx', hdue]; rfl
    · rw [if_neg hx', if_neg hx']
  let woken : Thread := { t with due := [d], parks := [], st := .runnable }
  have hend : (s.lateFault t.tid d).endPark t.tid (waitsOn w) = s.modThread t.tid fun _ => woken := by
    rw [hlate]
    simp only [State.endPark, State.modThread, List.map_map]
    congr 1
    refine List.map_congr_left fun x hx => ?_
    by_cases hx' : x.tid = t.tid
    · simp [hone x hx hx', hp, waitsOn, hst, woken]
    · simp [hx']
  have hwoken : (s.modThread t.tid fun _ => woken).thread? t.tid = some woken := by
    have hmem : woken ∈ (s.modThread t.tid fun _ => woken).threads := List.mem_map.2 ⟨t, ht, if_pos rfl⟩
    have hn' : ((s.modThread t.tid fun _ => woken).threads.map Thread.tid).Nodup := by
      rw [show (s.modThread t.tid fun _ => woken).threads.map Thread.tid = s.threads.map Thread.tid from ?_]
      · exact hn
      · simp only [State.modThread, List.map_map]
        refine List.map_congr_left fun x _ => ?_
        by_cases hx' : x.tid = t.tid
        · simp [hx', woken]
        · simp [hx']
    exact thread?_of_mem hn' hmem
  have htrap : (s.modThread t.tid fun _ => woken).trapWoken .parked t.tid =
      (s.modThread t.tid fun _ => woken).modThread t.tid fun x => x.enterTrap d (s.handlerOf t.gid) x.pc := by
    rw [State.trapWoken, hwoken]
    exact (if_pos ⟨rfl, rfl⟩).trans (takeTrap_enters (t := woken) (d := d) rfl htr hh)
  simp only [State.faultWaiter, hfind]
  rw [hst, show State.endPark _ _ _ = _ from hend, htrap]
  simp only [State.modThread, List.map_map]
  congr 1
  refine List.map_congr_left fun x hx => ?_
  by_cases hx' : x.tid = t.tid
  · simp [hone x hx hx', woken, clobbered_eq hp, Thread.enterTrap, d]
  · simp [hx']

/-- All the waiters of a cleared word take their trap, one after another. -/
theorem foldl_faultWaiter {s : State} (hn : (s.threads.map Thread.tid).Nodup) {w : BarAt} {ws : List Thread} (hws : (ws.map Thread.tid).Nodup)
    (h : ∀ t ∈ ws, t ∈ s.threads ∧ MayClobber s w t) : ws.foldl (fun s t => s.faultWaiter w t) s =
      { s with threads := s.threads.map fun x => if x.tid ∈ ws.map Thread.tid then x.clobbered (s.handlerOf x.gid) w else x } := by
  induction ws generalizing s with
  | nil => simp
  | cons t ws ih =>
    obtain ⟨ht, hm⟩ := h t List.mem_cons_self
    obtain ⟨hnew, hws'⟩ := List.nodup_cons.1 hws
    have hone := faultWaiter_eq hn ht hm
    have htids : ((s.modThread t.tid fun x => x.clobbered (s.handlerOf x.gid) w).threads.map Thread.tid) = s.threads.map Thread.tid := by
      simp only [State.modThread, List.map_map]
      refine List.map_congr_left fun x _ => ?_
      by_cases hx : x.tid = t.tid <;> simp [hx, clobbered_tid]
    rw [List.foldl_cons, hone, ih (by rw [htids]; exact hn) hws']
    · simp only [State.modThread, List.map_map]
      congr 1
      refine List.map_congr_left fun x _ => ?_
      by_cases hx : x.tid = t.tid
      · have hout : t.tid ∉ ws.map Thread.tid := hnew
        simp only [Function.comp_apply, hx, if_true, clobbered_tid, List.map_cons, List.mem_cons, true_or, if_neg hout]
      · simp only [Function.comp_apply, hx, if_false, List.map_cons, List.mem_cons, false_or]
        rfl
    · intro u hu
      obtain ⟨hus, hum⟩ := h u (List.mem_cons_of_mem _ hu)
      have hne : u.tid ≠ t.tid := fun he => hnew (he ▸ List.mem_map_of_mem hu)
      exact ⟨List.mem_map.2 ⟨u, hus, if_neg hne⟩, hum⟩

theorem mem_waiters {s : State} {w : BarAt} {o : Op} {x : Thread} : x ∈ waiters s w o ↔
    x ∈ s.threads ∧ x.tid ≠ o.tid ∧ ∃ p ∈ x.parks, waitsOn w p = true := by
  simp [waiters, List.any_eq_true]

theorem waiters_tids_nodup {s : State} (hn : (s.threads.map Thread.tid).Nodup) (w : BarAt) (o : Op) : ((waiters s w o).map Thread.tid).Nodup :=
  hn.sublist (List.filter_sublist.map Thread.tid)

/-- What BINVAL of a live word makes of a thread. -/
def Thread.unbarred (s : State) (w : BarAt) (o : Op) (x : Thread) : Thread :=
  let y := if x.tid ∈ (waiters s w o).map Thread.tid then x.clobbered (s.handlerOf x.gid) w else x
  if y.tid = o.tid then
    let ps := y.parks.filter fun p => !waitsOn w p
    { y with parks := ps, st := if y.st = .parked ∧ ps = [] then .runnable else y.st }
  else y

theorem clearWord_of_waiters {s : State} (hn : (s.threads.map Thread.tid).Nodup) {w : BarAt} {o : Op} (hp : ∀ p ∈ s.ops, ¬ Pends s w p)
    (hm : ∀ x ∈ s.threads, x.tid ≠ o.tid → (∃ p ∈ x.parks, waitsOn w p = true) → MayClobber s w x) :
    s.clearWord w o = { unlived s w with threads := s.threads.map (Thread.unbarred s w o) } := by
  have hfold := foldl_faultWaiter (s := unlived s w) hn (waiters_tids_nodup hn w o) fun t ht => by
    obtain ⟨hts, hto, hpk⟩ := mem_waiters.1 ht
    exact ⟨hts, hm t hts hto hpk⟩
  rw [clearWord_eq, unanswered_none hp, List.foldl_nil, hfold]
  simp only [State.endPark, State.modThread, List.map_map]
  congr 1

section
variable {s : State} {w : BarAt} {o : Op} {x : Thread} (hn : (s.threads.map Thread.tid).Nodup) (hx : x ∈ s.threads)
include hn hx

theorem mem_waiters_tids : x.tid ∈ (waiters s w o).map Thread.tid ↔ x.tid ≠ o.tid ∧ ∃ p ∈ x.parks, waitsOn w p = true := by
  constructor
  · intro h
    obtain ⟨y, hy, he⟩ := List.mem_map.1 h
    obtain ⟨hys, hyo, hyp⟩ := mem_waiters.1 hy
    obtain rfl := eq_of_tid_eq hn hys hx he
    exact ⟨hyo, hyp⟩
  · rintro ⟨ho, hp⟩
    exact List.mem_map_of_mem (mem_waiters.2 ⟨hx, ho, hp⟩)

theorem unbarred_own (ho : x.tid = o.tid) : x.unbarred s w o =
    { x with parks := x.parks.filter fun p => !waitsOn w p,
             st := if x.st = .parked ∧ (x.parks.filter fun p => !waitsOn w p) = [] then .runnable else x.st } := by
  have hout : x.tid ∉ (waiters s w o).map Thread.tid := fun h => ((mem_waiters_tids hn hx).1 h).1 ho
  simp only [Thread.unbarred, if_neg hout, if_pos ho]

theorem unbarred_other (ho : x.tid ≠ o.tid) (hp : ∀ p ∈ x.parks, waitsOn w p = false) : x.unbarred s w o = x := by
  have hout : x.tid ∉ (waiters s w o).map Thread.tid := fun h => by
    obtain ⟨-, p, hpm, hpw⟩ := (mem_waiters_tids hn hx).1 h
    exact Bool.noConfusion (hpw.symm.trans (hp p hpm))
  simp only [Thread.unbarred, if_neg hout, if_neg ho]

theorem unbarred_waiter (ho : x.tid ≠ o.tid) {n pc a q} (hp : x.parks = [.barrier w.grp.gid w.off n pc a q]) :
    x.unbarred s w o = x.clobbered (s.handlerOf x.gid) w := by
  have hin : x.tid ∈ (waiters s w o).map Thread.tid := (mem_waiters_tids hn hx).2 ⟨ho, by simp [hp, waitsOn]⟩
  simp only [Thread.unbarred, if_pos hin, clobbered_tid, if_neg ho]

end

/-- No thread parks on an operation after a BINVAL that none parked on before. -/
theorem unbarred_parks {s : State} {w : BarAt} {o : Op} {x : Thread} {p : Park} (h : p ∈ (x.unbarred s w o).parks) : p ∈ x.parks := by
  have hclob (hd : Word) : p ∈ (x.clobbered hd w).parks → p ∈ x.parks := by
    rw [Thread.clobbered]
    split
    · exact fun h => absurd h List.not_mem_nil
    · exact id
  have hmid : p ∈ (if x.tid ∈ (waiters s w o).map Thread.tid then x.clobbered (s.handlerOf x.gid) w else x).parks → p ∈ x.parks := by
    split
    · exact hclob _
    · exact id
  have hout (y : Thread) : p ∈ (if y.tid = o.tid then
      { y with parks := y.parks.filter fun p => !waitsOn w p,
               st := if y.st = .parked ∧ (y.parks.filter fun p => !waitsOn w p) = [] then .runnable else y.st } else y).parks → p ∈ y.parks := by
    by_cases hy : y.tid = o.tid
    · rw [if_pos hy]
      exact fun h => (List.mem_filter.1 h).1
    · rw [if_neg hy]
      exact id
  exact hmid (hout _ h)

/-- An operation that no thread parks on goes alone. -/
theorem dropOp_of_unparked {s : State} {id : Nat} (h : ∀ x ∈ s.threads, .fault id ∉ x.parks) :
    s.dropOp id = { s with ops := s.ops.filter (·.id != id) } := by
  have hmap : s.threads.map (fun t => if t.parks.contains (.fault id) then
      { t with parks := t.parks.filter (· != .fault id), st := if t.st = .parked ∧ t.parks.filter (· != .fault id) = [] then .runnable else t.st }
      else t) = s.threads :=
    (List.map_congr_left fun t ht => if_neg (by simpa using h t ht)).trans (List.map_id' _)
  simp only [State.dropOp, hmap]

/-! ### What the bank does -/

theorem filter_eq_singleton {α : Type} [DecidableEq α] {l : List α} {p : α → Bool} {x : α} (hn : l.Nodup) (hx : x ∈ l) (hpx : p x = true)
    (h : ∀ y ∈ l, p y = true → y = x) : l.filter p = [x] :=
  List.perm_singleton.1 ((List.perm_ext_iff_of_nodup (hn.filter p) (List.nodup_singleton x)).2 fun y => by
    simp only [List.mem_filter, List.mem_singleton]
    exact ⟨fun hy => h y hy.1 hy.2, fun hy => hy ▸ ⟨hx, hpx⟩⟩)

/-- BINVAL of a word that no thread is parked on, with an ARRIVEW of another thread that is not answered yet. -/
theorem clearWord_of_pending {s : State} {w : BarAt} {o p : Op} (hnobody : ∀ t ∈ s.threads, ∀ p ∈ t.parks, waitsOn w p = false)
    (hp : p ∈ s.ops) (hpend : Pends s w p) (hto : p.tid ≠ o.tid) (hone : ∀ y ∈ s.ops, Pends s w y → y = p) (hn : (s.ops.map Op.id).Nodup) :
    s.clearWord w o = ((unlived s w).faultOp p 0x0D p.addr).endPark o.tid (waitsOn w) := by
  have hfil : s.ops.filter ((unlived s w).unanswered w) = [p] :=
    filter_eq_singleton (List.Nodup.of_map _ hn) hp ((unanswered_iff s w p).2 hpend) fun y hy hyp => hone y hy ((unanswered_iff s w y).1 hyp)
  rw [clearWord_eq, waiters_none hnobody, hfil, List.foldl_nil, List.foldl_cons, List.foldl_nil, if_neg hto]
  rfl

theorem clearWord_of_nobody {s : State} {w : BarAt} {o : Op} (hnobody : ∀ t ∈ s.threads, ∀ p ∈ t.parks, waitsOn w p = false)
    (hp : ∀ p ∈ s.ops, ¬ Pends s w p) (hrest : ∀ x ∈ s.threads, x.tid = o.tid → x.st = .parked → x.parks ≠ []) :
    s.clearWord w o = unlived s w := by
  rw [clearWord_eq, waiters_none hnobody, unanswered_none hp, List.foldl_nil, List.foldl_nil]
  exact endPark_eq_self (s := unlived s w) hnobody hrest

theorem clearArrivals_arrivedAt (s : State) (w : BarAt) : (s.clearArrivals w).arrivedAt w = [] := by
  simp only [State.arrivedAt, State.clearArrivals]
  rw [State.group?_modGroup _ _ _ (by intro g; rfl), if_pos rfl]
  cases s.group? w.grp.gid with
  | none => rfl
  | some g => simp [List.filter_filter]

/-- The bank performs a barrier word. -/
theorem barrierBank : Sys2Proof.Claim.BarrierBank := by
  unfold Sys2Proof.Claim.BarrierBank
  intro id s o w h hg hh hw ht old put arrived release
  have hid : o.id = id := op?_id h
  have run (hk : o.kind.barrier? = true) : exec (.barrierBankOp id) s = .next (s.bankOp o).pump := barrierBankOp_eq h hg hh ht hk
  have kind {k : OpKind} (hk : o.kind = k) (hb : k.barrier? = true) : o.kind.barrier? = true := hk ▸ hb
  refine ⟨fun e hk hl he h16 => ?_, fun e hk hl => ?_, fun c hk => ?_, fun p x hk hx hl => ?_, fun p hk hl => ?_, fun c hk => ?_, fun hk hl => ?_, ?_⟩
  · refine ⟨inited s w e, (run (kind hk rfl)).trans ?_, ?_, ?_⟩
    · rw [bankOp_binit_free hw hk hl he h16, hid]
    · rfl
    · exact clearArrivals_arrivedAt (s.setPoolWord w.byte e) w
  · rw [run (kind hk rfl), bankOp_binit_clobber hw hk hl]
  · intro s1 r
    refine ⟨fun hl hc hr => ?_, fun hl hc hr => ?_, fun hl hc => ?_, fun hl => ?_⟩
    · rw [run (kind hk rfl), bankOp_arrive_counts hw hk hl hc, hid]
      exact congrArg (fun u => Host.Outcome.next (State.pump u)) (if_neg (by simpa [r, s1, release] using hr))
    · rw [run (kind hk rfl), bankOp_arrive_counts hw hk hl hc, hid]
      exact congrArg (fun u => Host.Outcome.next (State.pump u)) (if_pos hr)
    · rw [run (kind hk rfl), bankOp_arrive_live hw hk hl, hid, hc, arriveAt_zero]
    · rw [run (kind hk rfl), bankOp_arrive_dead hw hk hl]
  · have hans := (run (kind hk rfl)).trans (congrArg (fun u => Host.Outcome.next u.pump) (bankOp_bwait_live hw hk hl))
    refine ⟨fun hp => ?_, fun hp hst => ?_, fun hp hst => ?_⟩
    · rw [hans, answerWait_passed hx hp, hid]
    · rw [hans, answerWait_now hx hl hp, if_neg hst, hid]
    · rw [hans, answerWait_now hx hl hp, if_pos hst, hid]
  · rw [run (kind hk rfl), bankOp_bwait_dead hw hk hl]
  · intro s1
    refine ⟨fun hl => ?_, fun hl => ?_⟩
    · rw [run (kind hk rfl), bankOp_arrivew_dead hw hk hl]
    · rw [run (kind hk rfl), bankOp_arrivew_live hw hk hl, hid]
  · rw [run (kind hk rfl), bankOp_binval_dead hw hk hl, hid]
  · intro cleared nobody pends mayRest
    refine ⟨fun hk hl hnobody hrest hp => ?_, fun p hk hl hnobody hp hpend hto hone hn => ?_, fun hk hl hp hn hpark hm => ?_⟩
    · rw [run (kind hk rfl), bankOp_binval_live hw hk hl, clearWord_of_nobody hnobody hp hrest, hid]
      rfl
    · rw [run (kind hk rfl), bankOp_binval_live hw hk hl, clearWord_of_pending hnobody hp hpend hto hone hn, hid]
      rfl
    · have hclear := clearWord_of_waiters hn hp hm
      have hdrop : (s.clearWord w o).dropOp id = { unlived s w with
          threads := s.threads.map (Thread.unbarred s w o), ops := s.ops.filter (·.id != id) } := by
        rw [hclear]
        refine dropOp_of_unparked fun y hy hf => ?_
        obtain ⟨x, hx, rfl⟩ := List.mem_map.1 hy
        exact hpark x hx (unbarred_parks hf)
      refine ⟨{ unlived s w with threads := s.threads.map (Thread.unbarred s w o), ops := s.ops.filter (·.id != id) }, ?_, rfl, List.length_map _,
        fun i x hi => ?_⟩
      · exact (run (kind hk rfl)).trans (by rw [bankOp_binval_live hw hk hl, hid, hdrop])
      · have hx : x ∈ s.threads := List.mem_of_getElem? hi
        refine ⟨x.unbarred s w o, by rw [List.getElem?_map, hi]; rfl, unbarred_own hn hx, unbarred_other hn hx, fun n pc a q hto hpk => ?_⟩
        rw [unbarred_waiter hn hx hto hpk, clobbered_eq hpk, show codeWord x tcClobber false = word (0x0D + 2 ^ 16 + x.pass * 2 ^ 24 : Nat) by
          rw [word_natCast]; rfl]

end Sys2Proof.Machine
end

section
/-!
SUPPORT. The phases of the barrier networks (R333, R334, R383).
-/

namespace Sys2Proof.Machine

open Claim

/-! ### Whether a phase completes -/

/-- The conditions of a scope on the completion of a phase (R333, R383). -/
def MayComplete (s : State) (x : Thread) (scope : Nat) : Prop :=
  scope < 2 ∨ ∃ k, s.kernelOf? x.gid = some k ∧ k.st = .running ∧
    (scope < 5 ∨ ∃ j ∈ s.dev.jobs, j.kid = k.kid ∧ s.planes ≠ [] ∧ ∀ m ∈ j.members, m = s.dev.pkgid ∨ m ∈ j.reports)

theorem podReported_iff (s : State) (j : PodJob) :
    s.podReported j = true ↔ s.planes ≠ [] ∧ ∀ m ∈ j.members, m = s.dev.pkgid ∨ m ∈ j.reports := by
  simp [State.podReported, State.scaleUp]

theorem nbarOpen_iff (s : State) (x : Thread) (scope : Nat) : s.nbarOpen x scope = true ↔ MayComplete s x scope := by
  rw [State.nbarOpen, MayComplete]
  by_cases h : scope < 2
  · simp [h]
  · rw [if_neg h]
    cases hk : s.kernelOf? x.gid with
    | none => simp [h]
    | some k => simp [h, podReported_iff]

section
variable {s : State} {id scope : Nat} {o : Op} {x : Thread} (h : s.op? id = some o) (hk : o.kind = .nbar scope) (hx : s.thread? o.tid = some x)
include h hk hx

/-- A phase that is not open, or for which somebody has not arrived or has still to leave, does not complete. -/
theorem nbarPhaseComplete_waits (hno : (!s.nbarOpen x scope || decide ((((s.participants x scope).filterMap fun u => s.arrival? scope u.tid)).length <
      (s.participants x scope).length) || s.leaverPending x scope) = true) : exec (.nbarPhaseComplete id) s = .next s := by
  change execNbarPhaseComplete id s = _
  simp only [execNbarPhaseComplete, h, hk, hx, hno, if_true]

theorem nbarPhaseComplete_completes {os : List Op} (hopen : s.nbarOpen x scope = true) (hleave : s.leaverPending x scope = false)
    (hos : (s.participants x scope).filterMap (fun u => s.arrival? scope u.tid) = os) (hlen : os.length = (s.participants x scope).length) :
    exec (.nbarPhaseComplete id) s =
      let s1 := os.foldl (fun s o => s.fenceEffect o.tid o.seq o.core o.asid scope true false) s
      let kid := ((s.kernelOf? x.gid).map (·.kid)).getD 0
      let s2 := ((s1.phaseDrain [x.gid] ((s.participants x scope).map (·.core))).sendReports kid scope).clearReports kid scope
      .next (os.foldl (fun s o => ((s.fenceEffect o.tid o.seq o.core o.asid scope false true).dropOp o.id).endPark o.tid (· == .nbar o.id)) s2).pump := by
  have hgo : (!s.nbarOpen x scope || decide (os.length < (s.participants x scope).length) || s.leaverPending x scope) = false := by
    simp [hopen, hleave, hlen]
  change execNbarPhaseComplete id s = _
  simp only [execNbarPhaseComplete, h, hk, hx, hos, hgo, Bool.false_eq_true, if_false]

end

/-- Where one of a list's entries has no image, fewer images than entries are found. -/
theorem length_filterMap_lt {α β : Type} {f : α → Option β} {l : List α} (h : ∃ x ∈ l, f x = none) : (l.filterMap f).length < l.length := by
  induction l with
  | nil => simp at h
  | cons a l ih =>
    have hle := List.length_filterMap_le f l
    cases ha : f a with
    | none => rw [List.filterMap_cons_none ha, List.length_cons]; omega
    | some b =>
      rw [List.filterMap_cons_some ha, List.length_cons, List.length_cons]
      obtain ⟨x, hx, hn⟩ := h
      obtain rfl | hx := List.mem_cons.1 hx
      · rw [hn] at ha; cases ha
      · exact Nat.succ_lt_succ (ih ⟨x, hx, hn⟩)

theorem filterMap_of_map_some {α β : Type} {f : α → Option β} {l : List α} {os : List β} (h : l.map f = os.map some) : l.filterMap f = os := by
  rw [← Function.id_comp f, ← List.filterMap_map, h, List.filterMap_map]
  exact List.filterMap_some

/-! ### What a phase does -/

/-- A kernel that is not deterministic has no buffered atomics to drain (R389). -/
theorem phaseDrain_of_plain {s : State} {gid : Nat} (h : ∀ k, s.kernelOf? gid = some k → k.lr.mode ≠ 1) (cores : List Nat) :
    s.phaseDrain [gid] cores = s := by
  have hnone : ([gid].filterMap fun g => s.kernelOf? g).filter (fun k => k.lr.mode == 1) = [] := by
    refine List.filter_eq_nil_iff.2 fun k hk => ?_
    obtain ⟨g, hg, hgk⟩ := List.mem_filterMap.1 hk
    rw [List.mem_singleton.1 hg] at hgk
    simpa using h k hgk
  rw [State.phaseDrain, hnone]
  rfl

/-- The state after n requests that nothing waits for. -/
def sentMany (s : State) (n : Nat) : State := { s with mem := { s.mem with peerSeq := s.mem.peerSeq + n } }

theorem sentMany_add (s : State) (n m : Nat) : sentMany (sentMany s n) m = sentMany s (n + m) := by
  simp only [sentMany, Nat.add_assoc]

theorem foldl_sent (ms : List Nat) (s : State) : ms.foldl (fun s m => s.sent { s.newPeer 0 m 0 with plane := s.planes.head? } false) s =
    sentMany s ms.length := by
  induction ms generalizing s with
  | nil => rfl
  | cons m ms ih =>
    rw [List.foldl_cons, ih, List.length_cons, Nat.add_comm, ← sentMany_add]
    rfl

theorem foldl_reports (js : List PodJob) (s : State) : js.foldl (fun s j => (j.members.filter (· != s.dev.pkgid)).foldl (fun s m =>
      s.sent { s.newPeer 0 m 0 with plane := s.planes.head? } false) s) s =
    sentMany s ((js.map fun j => (j.members.filter (· != s.dev.pkgid)).length).sum) := by
  induction js generalizing s with
  | nil => rfl
  | cons j js ih =>
    rw [List.foldl_cons, foldl_sent, ih, sentMany_add]
    rfl

/-- The reports of a completed pod phase: one request to each other member, and the reports of the phase are forgotten (R383). -/
theorem reports_eq (s : State) (kid scope : Nat) : (s.sendReports kid scope).clearReports kid scope =
    if scope < 5 then s else modDev (sentMany s (((s.dev.jobs.filter fun j => j.kid == kid).map fun j =>
      (j.members.filter (· != s.dev.pkgid)).length).sum)) fun d => { d with
        jobs := d.jobs.map fun j => if j.kid = kid then { j with reports := [] } else j } := by
  by_cases h : scope < 5
  · simp only [State.sendReports, State.clearReports, if_pos h]
  · simp only [State.sendReports, State.clearReports, if_neg h, foldl_reports]
    rfl

theorem foldl_releases_groups (os : List Op) (scope : Nat) (s : State) :
    (os.foldl (fun s o => s.fenceEffect o.tid o.seq o.core o.asid scope true false) s).groups = s.groups ∧
    (os.foldl (fun s o => s.fenceEffect o.tid o.seq o.core o.asid scope true false) s).kernels = s.kernels ∧
    (os.foldl (fun s o => s.fenceEffect o.tid o.seq o.core o.asid scope true false) s).dev = s.dev :=
  ⟨foldl_field (fun s : State => s.groups) _ (fun s o => by simp) os s, foldl_field (fun s : State => s.kernels) _ (fun s o => by simp) os s,
    foldl_field (fun s : State => s.dev) _ (fun s o => by simp) os s⟩

/-- The phases of the networks. -/
theorem networkPhases : Sys2Proof.Claim.NetworkPhases := by
  unfold Sys2Proof.Claim.NetworkPhases
  intro id scope s o x os h hk hx kid mayComplete
  have hopen : s.nbarOpen x scope = true ↔ mayComplete := nbarOpen_iff s x scope
  refine ⟨fun hno => ?_, fun hno => ?_, fun hmay hleave hos => ?_⟩
  · have hclosed : s.nbarOpen x scope = false := Bool.eq_false_iff.2 (mt hopen.1 hno)
    exact nbarPhaseComplete_waits h hk hx (by simp [hclosed])
  · have hlt := length_filterMap_lt hno
    exact nbarPhaseComplete_waits h hk hx (by simp [hlt])
  · intro s1 hplain others reported s2
    have hfil := filterMap_of_map_some hos
    have hlen : os.length = (s.participants x scope).length := by simpa using (congrArg List.length hos).symm
    have hdrain (cores : List Nat) : s1.phaseDrain [x.gid] cores = s1 := phaseDrain_of_plain (fun k hkk => by
      obtain ⟨g, hgg, hgk⟩ := Option.bind_eq_some_iff.1 hkk
      exact hplain g k hgg hgk) cores
    obtain ⟨-, -, hdev⟩ := foldl_releases_groups os scope s
    have hs2 : (s1.sendReports kid scope).clearReports kid scope = s2 := by
      rw [reports_eq, show s1.dev = s.dev from hdev]
      rfl
    rw [nbarPhaseComplete_completes h hk hx (hopen.2 hmay) hleave hfil hlen]
    simp only []
    rw [show State.phaseDrain _ _ _ = s1 from hdrain _]
    exact congrArg (fun u => Host.Outcome.next (State.pump (os.foldl _ u))) hs2

/-- Settles O53: the barrier words, the bank, the networks, and the counts of arrivals. -/
theorem barriers : Obligations.Barriers := by
  unfold Obligations.Barriers
  exact ⟨barrierWords, barrierBank, networkPhases, arrivalCounts⟩

end Sys2Proof.Machine
end

section
/-!
SUPPORT. Contexts on cores (R335 to R338).
-/

namespace Sys2Proof.Machine

open Claim

/-! ### A core's slots -/

/-- A change that leaves a core as it is leaves the machine as it is, where the core is listed once. -/
theorem modCore_eq_self {s : State} {c : Nat} {f : Core → Core} {cs : List Core} (hc : s.cores = replaceCore cs (s.coreAt c))
    (hf : f (s.coreAt c) = s.coreAt c) : s.modCore c f = s := by
  rw [State.modCore, hf, setCore_eq, hc, replaceCore_twice cs rfl, ← hc]

theorem modCore_congr (s : State) (c : Nat) {f g : Core → Core} (h : f (s.coreAt c) = g (s.coreAt c)) : s.modCore c f = s.modCore c g :=
  congrArg s.setCore h

theorem coreAt_modCore_self (s : State) (c : Nat) {f : Core → Core} (hf : ∀ k, (f k).id = k.id) : (s.modCore c f).coreAt c = f (s.coreAt c) := by
  rw [State.coreAt_modCore s c f hf, if_pos rfl]

theorem modCore_cores (s : State) (c : Nat) {f : Core → Core} (hf : ∀ k, (f k).id = k.id) :
    (s.modCore c f).cores = replaceCore s.cores ((s.modCore c f).coreAt c) := by
  rw [coreAt_modCore_self s c hf, State.modCore, setCore_eq]

/-- Of two slots the one that runs or stops is the running one. -/
theorem runner?_first {k : Core} {x y : Slot} (hk : k.slots = [x, y]) (hx : x.st = .running ∨ x.st = .stopping) : k.runner? = some x := by
  rcases hx with hx | hx <;> simp [Core.runner?, hk, hx]

theorem canSwitchTo_second {k : Core} {x y : Slot} {asid : Nat} (hk : k.slots = [x, y]) (ha : y.asid = asid) (hy : y.st = .ready) :
    k.canSwitchTo asid = true := by
  simp [Core.canSwitchTo, hk, ha, hy]

theorem bringForward_single (k : Core) (a : Nat) : k.bringForward [a] = [a] := by
  rw [Core.bringForward]
  by_cases h : k.canSwitchTo a <;> simp [h]

/-- Nothing stops where no context is asked for. -/
theorem switchOn_of_no_request {s : State} {core : Nat} {cs : List Core} (hc : s.cores = replaceCore cs (s.coreAt core))
    (hr : (s.coreAt core).switchReq = []) : s.switchOn core = s := by
  rw [State.switchOn]
  cases (s.coreAt core).runner? with
  | none => rfl
  | some r =>
    have hreq : (s.coreAt core).bringForward ((s.coreAt core).dropIdle r.asid (s.coreAt core).switchReq) = [] := by rw [hr]; rfl
    simp only [hreq, List.any_nil, Bool.false_eq_true, if_false]
    rw [modCore_eq_self hc (by rw [← hr]), ite_self]

/-! ### Switching -/

theorem switchRequest_stops {core asid : Nat} {s : State} {x y : Slot} (hr : (s.coreAt core).switchReq = []) (hs : (s.coreAt core).slots = [x, y])
    (hx : x.st = .running) (hxa : x.asid ≠ asid) (hya : y.asid = asid) (hy : y.st = .ready) (he : (s.coreAt core).exchange = none) :
    exec (.contextSwitchRequest core asid) s =
      .next ((s.modCore core fun k => { k with slots := [{ x with st := .stopping }, y], switchReq := [asid] }).stopEngine core x.asid) := by
  have hk : (s.modCore core fun k => { k with switchReq := k.switchReq ++ [asid] }).coreAt core =
      { s.coreAt core with switchReq := [asid] } := by
    rw [coreAt_modCore_self _ _ (by intro k; rfl), hr]
    rfl
  have hya' : y.asid ≠ x.asid := fun h => hxa (h.symm.trans hya)
  obtain ⟨k, hkdef⟩ : ∃ k : Core, k = { s.coreAt core with switchReq := [asid] } := ⟨_, rfl⟩
  have hks : k.slots = [x, y] := by rw [hkdef]; exact hs
  have hke : k.exchange = none := by rw [hkdef]; exact he
  have hcan : k.canSwitchTo asid = true := canSwitchTo_second hks hya hy
  have hreq : k.bringForward (k.dropIdle x.asid k.switchReq) = [asid] := by
    rw [show k.switchReq = [asid] by rw [hkdef], Core.dropIdle, if_neg (Ne.symm hxa), hcan, if_pos rfl, bringForward_single]
  change execContextSwitchRequest core asid s = _
  rw [execContextSwitchRequest, State.switchOn, hk, ← hkdef]
  simp only [runner?_first hks (.inl hx), hx, hke, hreq, List.any_cons, hcan, Bool.true_or, if_true, Option.isSome_none, Bool.or_false,
    bne_self_eq_false, Bool.false_eq_true, if_false]
  rw [State.modSlot, modCore_modCore _ _ (by intro k; rfl) (by intro k; rfl), modCore_modCore _ _ (by intro k; rfl) (by intro k; rfl)]
  refine congrArg (fun t : State => Host.Outcome.next (t.stopEngine core x.asid)) (modCore_congr s core ?_)
  simp only [hs, List.map_cons, List.map_nil, if_true, if_neg hya']

theorem exchangeBegin_eq {core asid : Nat} {s : State} {x y : Slot} (hr : (s.coreAt core).switchReq = [asid]) (hs : (s.coreAt core).slots = [x, y])
    (hx : x.st = .stopping) (hxa : x.asid ≠ asid) (hya : y.asid = asid) (hy : y.st = .ready) (he : (s.coreAt core).exchange = none)
    (hi : ∀ i ∈ s.issues, i.core ≠ core) :
    exec (.switchExchangeBegin core) s = if s.engineStopped core x.asid = false then .next s else
      .next (s.modCore core fun k => { k with slots := [{ x with st := .exchanging }, y], switchReq := [], exchange := some asid }) := by
  have hany : s.issues.any (·.core == core) = false := List.any_eq_false.2 fun i him => by simpa using hi i him
  have hya' : y.asid ≠ x.asid := fun h => hxa (h.symm.trans hya)
  change execSwitchExchangeBegin core s = _
  simp only [execSwitchExchangeBegin, hr, bringForward_single, he, canSwitchTo_second hs hya hy, hany, runner?_first hs (.inr hx), hx,
    Option.isSome_none, Bool.not_true, Bool.or_self, Bool.false_eq_true, if_false]
  rw [if_neg (by decide)]
  cases hst : s.engineStopped core x.asid with
  | false => rfl
  | true =>
    simp only [Bool.not_true, Bool.false_eq_true, if_false, Bool.true_eq_false]
    rw [State.modSlot, modCore_modCore _ _ (by intro k; rfl) (by intro k; rfl)]
    refine congrArg Host.Outcome.next (modCore_congr s core ?_)
    simp only [hs, List.map_cons, List.map_nil, if_true, if_neg hya']

/-- A core's clock goes on: of the cores only the counter and the lines differ. -/
theorem setClock_coreAt (s : State) (core n c : Nat) : ∃ l m, (s.setClock core n).coreAt c = { s.coreAt c with l1 := l, clock := m } := by
  have hback : ∀ (ls : List L1Line) (u : State), ∃ l, (ls.foldl (fun s l => s.sendBack core l) u).coreAt c = { u.coreAt c with l1 := l } := by
    intro ls
    induction ls with
    | nil => exact fun u => ⟨_, rfl⟩
    | cons x ls ih =>
      intro u
      obtain ⟨l, hl⟩ := ih (u.sendBack core x)
      have hx : ∃ l, (u.sendBack core x).coreAt c = { u.coreAt c with l1 := l } := by
        rw [State.sendBack]
        split
        · exact ⟨_, rfl⟩
        · refine (?_ : ∃ l, (u.modCore core _).coreAt c = { u.coreAt c with l1 := l })
          rw [State.coreAt_modCore _ _ _ (by intro k; rfl)]
          split
          · next h => subst h; exact ⟨_, rfl⟩
          · exact ⟨_, rfl⟩
      obtain ⟨l', hl'⟩ := hx
      exact ⟨l, by rw [List.foldl_cons, hl, hl']⟩
  obtain ⟨l, hl⟩ := hback _ (s.modCore core fun k => { k with clock := n })
  by_cases h : c = core
  · rw [h] at hl ⊢
    exact ⟨l, n, hl.trans (by rw [coreAt_modCore_self _ _ (by intro k; rfl)])⟩
  · exact ⟨l, _, hl.trans (by rw [State.coreAt_modCore _ _ _ (by intro k; rfl), if_neg h])⟩

theorem exchangeEnd_eq {core cycles asid : Nat} {s : State} {x y : Slot} (hr : (s.coreAt core).switchReq = [])
    (hs : (s.coreAt core).slots = [x, y]) (hx : x.st = .exchanging) (hya : y.asid = asid) (hy : y.st = .ready)
    (he : (s.coreAt core).exchange = some asid) (h1 : 1 ≤ cycles) (h64 : cycles ≤ 64) :
    let loaded := (s.coreAt core).wslots.any fun w => w.asid == asid && w.st != .empty
    let s1 := (s.setClock core ((s.coreAt core).clock + cycles)).modCore core fun k =>
      { k with slots := [{ x with st := .ready }, { y with st := .running }], exchange := none, restoring := loaded }
    exec (.switchExchangeEnd core cycles) s = .next (if loaded = true then s1 else s1.resumeEngine core asid).pump := by
  intro loaded s1
  have hid : ∀ k : Core, ({ k with slots := [{ x with st := .ready }, { y with st := .running }], exchange := none, restoring := loaded } : Core).id
      = k.id := by intro k; rfl
  change execSwitchExchangeEnd core cycles s = _
  simp only [execSwitchExchangeEnd, he]
  rw [if_neg (by omega)]
  obtain ⟨l, m, hclk⟩ := setClock_coreAt s core ((s.coreAt core).clock + cycles) core
  have hs1 : ((s.setClock core ((s.coreAt core).clock + cycles)).modCore core fun k => { k with
        exchange := none, restoring := loaded
        slots := k.slots.map fun x =>
          if x.st = .exchanging then { x with st := .ready } else if x.asid = asid then { x with st := .running } else x }) = s1 := by
    refine modCore_congr _ core ?_
    simp only [hclk, hs, List.map_cons, List.map_nil, hx, hy, hya, if_true]
    rw [if_neg (by decide)]
  rw [hs1]
  have hcores : s1.cores = replaceCore (s.setClock core ((s.coreAt core).clock + cycles)).cores (s1.coreAt core) := modCore_cores _ core hid
  have hreq : (s1.coreAt core).switchReq = [] := by
    rw [coreAt_modCore_self _ core hid, hclk]
    exact hr
  rw [switchOn_of_no_request (cs := (s.setClock core ((s.coreAt core).clock + cycles)).cores) (by split <;> exact hcores) (by split <;> exact hreq)]

theorem restoreDone_eq {core : Nat} {s : State} :
    let s1 := s.modCore core fun k => { k with restoring := false }
    ((s.coreAt core).restoring = false → exec (.weightSlotRestoreDone core) s = .next s1) ∧
    ∀ x, (s.coreAt core).restoring = true → (s.coreAt core).runner? = some x → exec (.weightSlotRestoreDone core) s =
      .next (if x.st = .running then s1.resumeEngine core x.asid else s1) := by
  intro s1
  refine ⟨fun h => ?_, fun x h hx => ?_⟩
  · change execWeightSlotRestoreDone core s = _
    rw [execWeightSlotRestoreDone]
    cases (s.coreAt core).runner? with
    | none => rfl
    | some r => simp only [h, Bool.false_and, Bool.false_eq_true, if_false]; rfl
  · change execWeightSlotRestoreDone core s = _
    simp only [execWeightSlotRestoreDone, hx, h, Bool.true_and, beq_iff_eq]
    rfl

/-! ### Saving and loading -/

theorem mem_modSlot {s : State} {core asid : Nat} {f : Slot → Slot} {y : Slot} (hy : y ∈ ((s.modSlot core asid f).coreAt core).slots) :
    ∃ x ∈ (s.coreAt core).slots, y = if x.asid = asid then f x else x := by
  rw [State.modSlot, coreAt_modCore_self _ _ (by intro k; rfl)] at hy
  obtain ⟨x, hx, rfl⟩ := List.mem_map.1 hy
  exact ⟨x, hx, rfl⟩

theorem contextEvict_eq {core asid : Nat} {s : State} {x : Slot} (hs : s.slotOf? core asid = some x) (hx : x.st = .ready)
    (hto : (s.coreAt core).switchesTo asid = false) :
    exec (.contextEvict core asid) s =
      if s.idleOn core asid then .next (s.modCore core fun k => { k with slots := k.slots.filter fun y => y.asid != asid })
      else .next { s.modSlot core asid (fun x => { x with st := .saving }) with
        saved := s.saved ++ (s.ctxGroups core asid).map s.imageOf } := by
  change execContextEvict core asid s = _
  simp only [execContextEvict, hs, hx, hto]
  rw [if_neg (by decide), State.modSlot_saved]

theorem saveComplete_eq {core asid : Nat} {s : State} {x : Slot} (hs : s.slotOf? core asid = some x) (hx : x.st = .saving) :
    ∃ u : State, exec (.contextSaveComplete core asid) s = .next ((u.modCtx asid fun c =>
      { c with savedOn := (c.savedOn.filter (·.1 != core)) ++ [(core, x)] }).modCore core fun k =>
        { k with slots := k.slots.filter (·.asid != asid) }) := by
  rw [show exec (.contextSaveComplete core asid) s = execContextSaveComplete core asid s from rfl]
  simp only [execContextSaveComplete, hs]
  rw [if_neg (by simp [hx])]
  exact ⟨_, rfl⟩

/-! ### Creation and destruction -/

theorem ctx?_modCtx_dead (s : State) (asid : Nat) {f : Ctx → Ctx} (hf : ∀ c, (f c).alive = false) : (s.modCtx asid f).ctx? asid = none := by
  refine List.find?_eq_none.2 fun c hc => ?_
  obtain ⟨x, -, rfl⟩ := List.mem_map.1 (show c ∈ s.ctxs.map _ from hc)
  by_cases hx : x.asid = asid
  · simp [hx, hf]
  · simp [hx]

/-- What going on and stopping changes: the commands and, of the cores, the states of their slots and the held requests. -/
structure OnlySwitches (s t : State) : Prop where
  rest : t = { s with cores := t.cores, cmds := t.cmds }
  slots : ∀ P : Nat → Prop, (∀ k ∈ s.cores, ∀ x ∈ k.slots, P x.asid) → ∀ k ∈ t.cores, ∀ x ∈ k.slots, P x.asid

theorem OnlySwitches.refl (s : State) : OnlySwitches s s := ⟨rfl, fun _ h => h⟩

theorem OnlySwitches.trans {a b c : State} (h : OnlySwitches a b) (h' : OnlySwitches b c) : OnlySwitches a c :=
  ⟨by rw [h'.rest, h.rest], fun P hP => h'.slots P (h.slots P hP)⟩

theorem cmds_onlySwitches (s : State) (l : List Cmd) : OnlySwitches s { s with cmds := l } := ⟨rfl, fun _ h => h⟩

/-- A change of a core that gives its slots to no other context. -/
theorem modCore_onlySwitches (s : State) (c : Nat) {f : Core → Core} (hf : ∀ k, ∀ x ∈ (f k).slots, ∃ y ∈ k.slots, x.asid = y.asid) :
    OnlySwitches s (s.modCore c f) := by
  refine ⟨by rw [State.modCore, setCore_eq], fun P hP k hk x hx => ?_⟩
  rw [State.modCore, setCore_eq] at hk
  have hnew : ∀ x ∈ (f (s.coreAt c)).slots, P x.asid := fun x hx => by
    obtain ⟨y, hy, he⟩ := hf _ x hx
    rw [he]
    rw [State.coreAt] at hy
    cases hfd : s.cores.find? (·.id == c) with
    | none => rw [hfd] at hy; exact absurd hy List.not_mem_nil
    | some k0 => rw [hfd] at hy; exact hP k0 (List.mem_of_find?_eq_some hfd) y hy
  rw [replaceCore] at hk
  split at hk
  · obtain ⟨k0, hk0, rfl⟩ := List.mem_map.1 hk
    split at hx
    · exact hnew x hx
    · exact hP k0 hk0 x hx
  · rcases List.mem_append.1 hk with h | h
    · exact hP k h x hx
    · rw [List.mem_singleton.1 h] at hx; exact hnew x hx

theorem modSlot_onlySwitches (s : State) (core asid : Nat) {f : Slot → Slot} (hf : ∀ x, (f x).asid = x.asid) :
    OnlySwitches s (s.modSlot core asid f) :=
  modCore_onlySwitches s core fun k x hx => by
    obtain ⟨y, hy, rfl⟩ := List.mem_map.1 hx
    exact ⟨y, hy, by split; exacts [hf y, rfl]⟩

theorem switchOn_onlySwitches (s : State) (core : Nat) : OnlySwitches s (s.switchOn core) := by
  rw [State.switchOn]
  cases (s.coreAt core).runner? with
  | none => exact .refl s
  | some r =>
    simp only []
    split
    · exact .refl s
    · have h1 : ∀ reqs, OnlySwitches s (s.modCore core fun k => { k with switchReq := reqs }) := fun reqs =>
        modCore_onlySwitches s core fun k x hx => ⟨x, hx, rfl⟩
      split
      · exact ((h1 _).trans (modSlot_onlySwitches _ _ _ (by intro x; rfl))).trans (cmds_onlySwitches _ _)
      · exact h1 _

theorem unstop_onlySwitches (s : State) (core : Nat) : OnlySwitches s (s.unstop core) := by
  rw [State.unstop]
  cases s.stopsForNothing core with
  | none => exact .refl s
  | some r => exact ((modSlot_onlySwitches _ _ _ (by intro x; rfl)).trans (cmds_onlySwitches _ _)).trans (switchOn_onlySwitches _ _)

theorem unstops_onlySwitches (l : List Nat) (s : State) : OnlySwitches s (l.foldl State.unstop s) := by
  induction l generalizing s with
  | nil => exact .refl s
  | cons c l ih => exact (unstop_onlySwitches s c).trans (ih _)

theorem dropCtx_slots (s : State) (asid : Nat) : ∀ k ∈ (s.dropCtx asid).cores, ∀ x ∈ k.slots, x.asid ≠ asid := by
  intro k hk x hx
  obtain ⟨k0, -, rfl⟩ := List.mem_map.1 (show k ∈ s.cores.map _ from hk)
  obtain ⟨y, hy, rfl⟩ := List.mem_map.1 hx
  have hne : y.asid ≠ asid := by simpa using (List.mem_filter.1 hy).2
  split <;> exact hne

theorem contextDestroy_eq {asid : Nat} {s : State} {c : Ctx} (hc : s.ctx? asid = some c) :
    ∃ t, exec (.contextDestroy asid) s = .next t ∧
      OnlySwitches ((s.dropCtx asid).modCtx asid fun c => { c with alive := false, savedOn := [] }) t := by
  rw [show exec (.contextDestroy asid) s = execContextDestroy asid s from rfl]
  simp only [execContextDestroy, hc]
  exact ⟨_, rfl, unstops_onlySwitches _ _⟩

/-- Settles O24: each event's check passes, and a change of a core after a change of it is one change. -/
theorem contextEvents : Obligations.ContextEvents := by
  unfold Obligations.ContextEvents
  refine ⟨?assign, ?request, ?begin_, ?end_, fun _ _ => restoreDone_eq, ?evict, ?save, ?load, ?create, ?destroy⟩
  case assign =>
    intro core slot asid s c hc hcore hslot hfree
    have hany : (s.coreAt core).slots.any (fun x => x.num == slot || x.asid == asid) = false :=
      List.any_eq_false.2 fun x hx => by simpa using hfree x hx
    change execContextSlotAssign core slot asid s = _
    simp only [execContextSlotAssign, hc, hany]
    rw [if_neg (by simp; omega)]
    simp only [List.any_eq_true, beq_iff_eq]
    rfl
  case request =>
    intro core asid s x y hr hs hx hxa hya hy he
    exact switchRequest_stops hr hs hx hxa hya hy he
  case begin_ =>
    intro core asid s x y hr hs hx hxa hya hy he hi
    have h := exchangeBegin_eq hr hs hx hxa hya hy he hi
    exact ⟨fun hst => by rw [h, if_pos hst], fun hst => by rw [h, if_neg (by simp [hst])]⟩
  case end_ =>
    intro core cycles asid s x y hr hs hx _ hya hy he h1 h64
    exact exchangeEnd_eq hr hs hx hya hy he h1 h64
  case evict =>
    intro core asid s x hs hx hto
    have h := contextEvict_eq hs hx hto
    refine ⟨fun hi => by rw [h, if_pos hi], fun hi => ⟨_, by rw [h, if_neg (by simp [hi])], rfl, ?_, fun y hy hya => ?_⟩⟩
    · exact State.modSlot_pool ..
    · obtain ⟨z, -, rfl⟩ := mem_modSlot hy
      by_cases hz : z.asid = asid
      · rw [if_pos hz]
      · rw [if_neg hz] at hya; exact absurd hya hz
  case save =>
    intro core asid s x hs hx
    obtain ⟨u, hu⟩ := saveComplete_eq hs hx
    refine ⟨_, hu, fun y hy => ?_, fun c hc hca => ?_⟩
    · rw [coreAt_modCore_self _ _ (by intro k; rfl)] at hy
      simpa using (List.mem_filter.1 hy).2
    · rw [State.modCore_ctxs, State.modCtx_ctxs] at hc
      obtain ⟨z, -, rfl⟩ := List.mem_map.1 hc
      by_cases hz : z.asid = asid
      · rw [if_pos hz]; exact List.mem_append_right _ (List.mem_singleton.2 rfl)
      · rw [if_neg hz] at hca; exact absurd hca hz
  case load =>
    intro core asid s x c hs hc hx vs old
    rw [show exec (.contextLoadComplete core asid) s = execContextLoadComplete core asid s from rfl]
    simp only [execContextLoadComplete, hs, hc, hx, bne_self_eq_false, Bool.false_or, decide_eq_true_eq]
    exact ⟨fun hn => if_pos hn, fun hn => if_neg (not_lt.2 hn)⟩
  case create =>
    intro asid ptDie ptBase handler table walkArea monArea saveArea fbBase fbLog s h1 h2 h10 h20 hdead
    have hany : s.ctxs.any (fun c => c.asid == asid && c.alive) = false :=
      List.any_eq_false.2 fun c hc => by
        by_cases ha : c.asid = asid <;> simp [ha, hdead c hc]
    rw [show exec (.contextCreate asid ptDie ptBase handler table walkArea monArea saveArea fbBase fbLog) s =
      execContextCreate asid ptDie ptBase handler table walkArea monArea saveArea fbBase fbLog s from rfl, execContextCreate, hany,
      if_neg (by simp; omega)]
    refine ⟨_, rfl, ?_, fun k hk => ?_, rfl⟩
    · have hnone : (s.ctxs.filter (·.asid != asid)).find? (fun c => c.asid == asid && c.alive) = none :=
        List.find?_eq_none.2 fun c hc => by
          have := (List.mem_filter.1 hc).2
          simp_all
      rw [State.ctx?, List.find?_append, hnone]
      simp
    · obtain ⟨k0, -, rfl⟩ := List.mem_map.1 hk
      exact ⟨fun e he => by simpa using (List.mem_filter.1 he).2, fun w hw => by simpa using (List.mem_filter.1 hw).2⟩
  case destroy =>
    intro asid s c hc
    obtain ⟨t, ht, hsw⟩ := contextDestroy_eq hc
    have hne : ∀ {α : Type} {f : α → Nat} {l : List α} {x : α}, x ∈ l.filter (fun y => f y != asid) → f x ≠ asid := fun hx => by
      simpa using (List.mem_filter.1 hx).2
    have hgroups : t.groups = (s.dropCtx asid).groups := by rw [hsw.rest]; rfl
    refine ⟨t, ht, ?_, ?_, fun o ho => ?_, fun g hg hga => ?_, fun k hk => ?_, hsw.slots (· ≠ asid) (dropCtx_slots s asid)⟩
    · rw [hsw.rest]; exact ctx?_modCtx_dead _ _ fun _ => rfl
    · rw [hsw.rest]; rfl
    · rw [hsw.rest] at ho; exact hne (f := Op.asid) ho
    · rw [hgroups] at hg
      obtain ⟨hg0, hgn⟩ := List.mem_filter.1 (show g ∈ s.groups.filter _ from hg)
      have hin : g.gid ∈ (s.groups.filter (·.asid == asid)).map (·.gid) :=
        List.mem_map.2 ⟨g, List.mem_filter.2 ⟨hg0, by simp [hga]⟩, rfl⟩
      simp [hin] at hgn
    · rw [hsw.rest] at hk; exact hne (f := Kernel.asid) hk

end Sys2Proof.Machine
end

section
/-!
SUPPORT. The words of the copy unit at issue, and the events of copies (R283 to R293).
-/

namespace Sys2Proof.Machine

open Claim

/-! ### Fields of control words (R284, R292) -/

theorem copyFlt_eq (code cause addr : Nat) : copyFlt code cause addr = .mk2 code (copyAt cause (word addr)) := by
  have hmod : addr % 2 ^ 64 % 2 ^ 52 = addr % 2 ^ 52 := Nat.mod_mod_of_dvd _ (by norm_num)
  simp only [copyFlt, copyWord, copyAt, word_natCast, BitVec.toNat_ofNat, hmod]
  norm_num

theorem copyFlt_toNat (code cause : Nat) (a : Word) : copyFlt code cause a.toNat = .mk2 code (copyAt cause a) := by
  rw [copyFlt_eq, word_toNat]

theorem copyCtl_bad (w : Word) : (CopyCtl.ofWord w).bad = true ↔ Claim.fld w 53 11 ≠ 0 ∨ Claim.fld w 22 2 ≠ 0 := by
  simp [CopyCtl.ofWord, fld_top w (show 64 ≤ 53 + 11 by decide), fld_eq]

theorem copyCtl_ds (w : Word) : (CopyCtl.ofWord w).ds = decide (Claim.fld w 31 1 = 1) := by
  rw [Bool.eq_iff_iff]; simp [CopyCtl.ofWord, fld_eq]
theorem copyCtl_ss (w : Word) : (CopyCtl.ofWord w).ss = decide (Claim.fld w 30 1 = 1) := by
  rw [Bool.eq_iff_iff]; simp [CopyCtl.ofWord, fld_eq]
theorem copyCtl_tag (w : Word) : (CopyCtl.ofWord w).tag = Claim.fld w 24 6 := by simp [CopyCtl.ofWord, fld_eq]
theorem copyCtl_len (w : Word) : (CopyCtl.ofWord w).len = Claim.fld w 0 22 := by simp [CopyCtl.ofWord, fld_eq]
theorem copyCtl_aux (w : Word) : (CopyCtl.ofWord w).aux = Claim.fld w 32 21 := by simp [CopyCtl.ofWord, fld_eq]

/-- A field as the low part of a longer one. -/
theorem fld_low (w : Word) (lo : Nat) {n m : Nat} (h : n ≤ m) : Claim.fld w lo m % 2 ^ n = Claim.fld w lo n := by
  rw [fld_eq, fld_eq, Nat.mod_mod_of_dvd _ (pow_dvd_pow 2 h)]

/-- A field as a part of a longer one. -/
theorem fld_part (w : Word) (lo : Nat) {k n m : Nat} (h : k + n ≤ m) : Claim.fld w lo m / 2 ^ k % 2 ^ n = Claim.fld w (lo + k) n := by
  obtain ⟨j, rfl⟩ := Nat.exists_eq_add_of_le (show k ≤ m by omega)
  rw [fld_eq, fld_eq, pow_add, Nat.mod_mul_right_div_self, Nat.mod_mod_of_dvd _ (pow_dvd_pow 2 (by omega)), Nat.div_div_eq_div_mul, pow_add]

/-- The upper part of a field. -/
theorem fld_high (w : Word) (lo k n : Nat) : Claim.fld w lo (k + n) / 2 ^ k = Claim.fld w (lo + k) n := by
  rw [fld_eq, fld_eq, pow_add, Nat.mod_mul_right_div_self, Nat.div_div_eq_div_mul, pow_add]

/-! ### The checks (R285) -/

theorem firstOdd_eq (l : List (Word × Nat)) :
    firstOdd (l.map fun x => (x.1.toNat, x.2)) = (l.find? fun x => decide (x.1.toNat % x.2 ≠ 0)).map fun x => x.1.toNat := by
  induction l with
  | nil => rfl
  | cons x l ih =>
    rw [List.map_cons, firstOdd, List.find?_cons]
    by_cases h : x.1.toNat % x.2 = 0
    · simp [h, ih]
    · simp [h]

theorem firstHigh_eq (l : List Word) : firstHigh l = l.find? fun a => decide (2 ^ 52 ≤ a.toNat) := by
  induction l with
  | nil => rfl
  | cons a l ih =>
    rw [firstHigh, List.find?_cons]
    by_cases h : 2 ^ 52 ≤ a.toNat <;> simp only [h, ih, if_true, if_false, decide_true, decide_false]

theorem firstOutside_eq (s : State) (g : Group) (l : List (Word × Nat)) :
    firstOutside s g l = (l.find? fun x => !s.scratchOk g x.1 x.2).map (·.1) := by
  induction l with
  | nil => rfl
  | cons x l ih =>
    rw [firstOutside, List.find?_cons]
    cases h : s.scratchOk g x.1 x.2 <;> simp [h, ih]

theorem copyPlaces_eq (s : State) (t : Thread) (l : List (Word × Nat)) (globals : List Word) (scratch : List (Word × Nat)) (r : CopyReq) :
    copyPlaces s t (l.map fun x => (x.1.toNat, x.2)) globals scratch r = asFlt (placesOk s t l globals scratch r) := by
  rw [copyPlaces, placesOk, firstOdd_eq, firstHigh_eq]
  cases l.find? fun x => decide (x.1.toNat % x.2 ≠ 0) with
  | some x => exact congrArg Except.error (copyFlt_toNat ..)
  | none =>
    simp only [Option.map_none]
    cases globals.find? fun a => decide (2 ^ 52 ≤ a.toNat) with
    | some a => exact congrArg Except.error (copyFlt_toNat ..)
    | none =>
      cases s.group? t.gid with
      | none => exact congrArg Except.error (copyFlt_eq ..)
      | some g =>
        simp only [firstOutside_eq]
        cases scratch.find? fun x => !s.scratchOk g x.1 x.2 with
        | some x => exact congrArg Except.error (copyFlt_toNat ..)
        | none => rfl

/-- The fault of a control word. -/
theorem copyFlt_control : (.error (copyFlt tcCopy 0x02 0) : Except Flt CopyReq) = asFlt (.error (0x0F, copyAt 0x02 0)) := by
  rw [copyFlt_eq]; rfl

theorem ite_copyFlt {p q : Prop} [Decidable p] [Decidable q] (h : p ↔ q) {y : Except Flt CopyReq} {y' : Except (Nat × Word) CopyReq}
    (hy : ¬ q → y = asFlt y') :
    (if p then .error (copyFlt tcCopy 0x02 0) else y) = asFlt (if q then .error (0x0F, copyAt 0x02 0) else y') := by
  by_cases hq : q
  · rw [if_pos (h.2 hq), if_pos hq, copyFlt_control]
  · rw [if_neg (mt h.1 hq), if_neg hq, hy hq]

/-- What a control word says of the aux field and of the tag (R284). -/
def ctlBadTag (s : State) (t : Thread) (w : CopyCtl) : Option Nat → Bool
  | none => w.tag != 0
  | some k => decide (s.tagCount t.gid ≤ k)

/-- COPY, COPYM and COPYB: where the aux field is good, the kinds agree, and so do the sides' conditions, the model's checks are the rule's. -/
theorem copyReq_eq {s : State} {t : Thread} {w d b : Word} {auxOk own own' bad : Bool} {tag : Option Nat} {kind kind' : CopyKind}
    {barrier : Option Nat} {barrier' : Option Word} (hbad : (!auxOk || ctlBadTag s t (CopyCtl.ofWord w) tag) = bad)
    (hgood : bad = false → own = own' ∧ kind = kind') (hbar : barrier = barrier'.map (·.toNat)) :
    copyReq s t (CopyCtl.ofWord w) auxOk own tag kind barrier d b = asFlt (copyOf s t w d b bad own' tag kind' barrier') := by
  subst hbad hbar
  simp only [copyReq, copyOf]
  refine ite_copyFlt ?_ fun hq => ?_
  · rw [copyCtl_len]
    cases tag <;> simp only [ctlBadTag, Bool.or_eq_true, copyCtl_bad, decide_eq_true_eq] <;> tauto
  · obtain ⟨rfl, rfl⟩ := hgood (by simpa using (not_or.1 (not_or.1 (not_or.1 hq).2).2).1)
    refine ite_copyFlt (by simp [copyCtl_ds, copyCtl_ss]) fun _ => ?_
    rw [← copyPlaces_eq]
    have hlen : (word (Claim.fld w 0 22 : Nat)).toNat = Claim.fld w 0 22 := by
      rw [word_natCast, BitVec.toNat_ofNat]
      exact Nat.mod_eq_of_lt ((BitVec.isLt _).trans (by norm_num))
    simp only [copyCtl_ds, copyCtl_ss, copyCtl_len, decide_eq_true_eq]
    have hat (o : Word) : word ((d.toNat / 2 ^ 21 * 2 ^ 21 + o.toNat : Nat) : Int) = atOffset d o.toNat := word_natCast _
    cases barrier' <;>
      simp only [hlen, hat, Option.map_some, Option.map_none, Option.toList_some, Option.toList_none, List.map_append, List.map_cons, List.map_nil]

theorem asFlt_mk2 {α : Type} (c : Nat) (a : Word) : (asFlt (.error (c, a)) : Except Flt α) = .error (.mk2 c a) := rfl

/-! ### Issue -/

theorem copyOne_eq {iss : Issue} {q : Nat} {mk : State → Issue → Thread → Except Flt CopyReq} {req : State → Thread → Except (Nat × Word) CopyReq}
    (h : ∀ s t, mk s iss t = asFlt (req s t)) : copyOne iss q mk = enters iss q req := by
  funext s t
  rw [copyOne, enters, h]
  cases req s t with
  | error x => rfl
  | ok r =>
    refine if_congr (by rw [Bool.and_eq_true, bne_iff_ne, decide_eq_true_iff]; rfl) ?_ rfl
    rw [copyFlt_eq]
    rfl

theorem copyUnitWord_eq {s : State} {iss : Issue} (h : s.cur? = some iss) (g : BitVec 4)
    {mk : State → Issue → Thread → Except Flt CopyReq} {req : State → Thread → Except (Nat × Word) CopyReq}
    (hreq : ∀ s t, mk s iss t = asFlt (req s t)) : copyUnitWord g mk s = .next (inTurn s iss g (enters iss s.fresh req)) := by
  simp only [copyUnitWord, h, copyOne_eq hreq, inTurn]

/-- The ring stage that the aux field of COPY asks for, and where the field breaks R284. -/
theorem ringOfAux_eq (w : Word) : ringOfAux (Claim.fld w 32 21) =
    if Claim.fld w 41 12 ≠ 0 ∨ (Claim.fld w 40 1 = 1 ∧ ¬ (1 ≤ Claim.fld w 32 4 ∧ Claim.fld w 32 4 ≤ Claim.fld w 36 4 ∧ Claim.fld w 36 4 ≤ 8)) ∨
      (¬ Claim.fld w 40 1 = 1 ∧ (Claim.fld w 32 4 ≠ 0 ∨ Claim.fld w 36 4 ≠ 0)) then none
    else some (if Claim.fld w 40 1 = 1 then some (Claim.fld w 32 4, Claim.fld w 36 4) else none) := by
  have hlo : Claim.fld w 32 21 % 16 = Claim.fld w 32 4 := fld_low w 32 (show 4 ≤ 21 by decide)
  have hhi : Claim.fld w 32 21 / 16 % 16 = Claim.fld w 36 4 := fld_part w 32 (show 4 + 4 ≤ 21 by decide)
  have hring : Claim.fld w 32 21 / 2 ^ 8 % 2 = Claim.fld w 40 1 := fld_part w 32 (show 8 + 1 ≤ 21 by decide)
  have htop : Claim.fld w 32 21 / 2 ^ 9 = Claim.fld w 41 12 := fld_high w 32 9 12
  have hbit : Claim.fld w 40 1 < 2 := (w.extractLsb' 40 1).isLt
  rw [ringOfAux]
  simp only [hlo, hhi, hring, htop, bne_iff_ne, beq_iff_eq, Bool.and_eq_true, decide_eq_true_eq]
  by_cases ht : Claim.fld w 41 12 = 0
  · rcases (show Claim.fld w 40 1 = 0 ∨ Claim.fld w 40 1 = 1 by omega) with hr | hr
    · by_cases hz : Claim.fld w 32 4 = 0 <;> simp [ht, hr, hz]
    · by_cases hd : 1 ≤ Claim.fld w 32 4 ∧ Claim.fld w 32 4 ≤ Claim.fld w 36 4 ∧ Claim.fld w 36 4 ≤ 8 <;> simp only [ht, hr, hd] <;> simp
  · simp [ht]

section
variable {s : State} {iss : Issue} (h : s.cur? = some iss) (g : BitVec 4) (d b p : BitVec 6)
include h

theorem copy_queues (c : BitVec 1) : exec (.copy c g d b p) s = .next (inTurn s iss g (enters iss s.fresh fun s t =>
    let w := srcG iss t .zero p
    let lo := Claim.fld w 32 4
    let hi := Claim.fld w 36 4
    let ring := Claim.fld w 40 1 = 1
    copyOf s t w (srcG iss t .zero d) (srcG iss t .zero b)
      (decide (Claim.fld w 41 12 ≠ 0 ∨ (ring ∧ ¬ (1 ≤ lo ∧ lo ≤ hi ∧ hi ≤ 8)) ∨ (¬ ring ∧ (lo ≠ 0 ∨ hi ≠ 0))) ||
        decide (s.tagCount t.gid ≤ Claim.fld w 24 6))
      true (some (Claim.fld w 24 6)) (.copy (if ring then some (lo, hi) else none)) none)) := by
  refine (show execCopy g d b p s = _ from copyUnitWord_eq h g fun s t => ?_)
  simp only [copyCtl_tag, copyCtl_aux, ringOfAux_eq]
  refine copyReq_eq (barrier := none) (barrier' := none) ?_ (fun hgood => ⟨rfl, ?_⟩) rfl
  · rw [ctlBadTag]
    congr 1
    rw [Bool.eq_iff_iff, decide_eq_true_eq]
    split <;> simp_all
  · rw [if_neg (by simpa using (Bool.or_eq_false_iff.1 hgood).1)]
    rfl

theorem copym_queues (c : BitVec 1) : exec (.copym c g d b p) s = .next (inTurn s iss g (enters iss s.fresh fun s t =>
    let w := srcG iss t .zero p
    copyOf s t w (srcG iss t .zero d) (srcG iss t .zero b)
      (decide (Claim.fld w 36 17 ≠ 0) || decide (s.tagCount t.gid ≤ Claim.fld w 24 6))
      (decide (Claim.fld w 31 1 = 1 ∧ Claim.fld (srcG iss t .zero d) 23 1 = 0 ∧ Claim.fld w 32 4 ≠ 0)) (some (Claim.fld w 24 6))
      (.copym (Claim.fld w 32 4)) none)) := by
  refine (show execCopym g d b p s = _ from copyUnitWord_eq h g fun s t => ?_)
  have hhigh : Claim.fld (srcG iss t .zero p) 32 21 / 2 ^ 4 = Claim.fld (srcG iss t .zero p) 36 17 := fld_high _ 32 4 17
  have hlow := fld_low (srcG iss t .zero p) 32 (show 4 ≤ 21 by decide)
  have hx : (ScrAddr.ofWord (srcG iss t .zero d)).x = decide (Claim.fld (srcG iss t .zero d) 23 1 = 1) := by
    rw [Bool.eq_iff_iff, scrAddr_x, decide_eq_true_eq]
  have hbit : Claim.fld (srcG iss t .zero d) 23 1 < 2 := (BitVec.extractLsb' 23 1 _).isLt
  simp only [copyCtl_tag, copyCtl_aux, copyCtl_ds, hx]
  refine copyReq_eq (barrier := none) (barrier' := none) ?_ (fun hgood => ?_) rfl
  · rw [ctlBadTag]
    congr 1
    rw [Bool.eq_iff_iff, decide_eq_true_eq, Bool.not_eq_true', decide_eq_false_iff_not]
    omega
  · have h0 : Claim.fld (srcG iss t .zero p) 36 17 = 0 := by simpa using (Bool.or_eq_false_iff.1 hgood).1
    have haux : Claim.fld (srcG iss t .zero p) 32 21 = Claim.fld (srcG iss t .zero p) 32 4 := by omega
    rw [haux]
    refine ⟨?_, rfl⟩
    rw [Bool.eq_iff_iff]
    simp only [Bool.and_eq_true, decide_eq_true_eq, Bool.not_eq_true', decide_eq_false_iff_not, bne_iff_ne, and_assoc]
    refine and_congr_right fun _ => and_congr_left fun _ => ?_
    omega

theorem copyb_queues (c : BitVec 1) : exec (.copyb c g d b p) s = .next (inTurn s iss g (enters iss s.fresh fun s t =>
    let w := srcG iss t .zero p
    copyOf s t w (srcG iss t .zero d) (srcG iss t .zero b) (decide (Claim.fld w 24 6 ≠ 0)) (decide (Claim.fld w 31 1 = 1)) none
      (.copyb (Claim.fld w 32 21)) (some (word (Claim.fld w 32 21 : Nat))))) := by
  refine (show execCopyb g d b p s = _ from copyUnitWord_eq h g fun s t => ?_)
  simp only [copyCtl_aux, copyCtl_ds]
  refine copyReq_eq ?_ (fun _ => ⟨rfl, rfl⟩) ?_
  · rw [ctlBadTag, copyCtl_tag, Bool.eq_iff_iff]
    simp
  · have hlt : Claim.fld (srcG iss t .zero p) 32 21 < 2 ^ 64 := (BitVec.isLt _).trans (by norm_num)
    rw [Option.map_some, word_natCast, BitVec.toNat_ofNat, Nat.mod_eq_of_lt hlt]

theorem gather_queues (c : BitVec 1) : exec (.gather c g d b p) s = .next (inTurn s iss g (enters iss s.fresh fun s t =>
    let base := t.gr p.toNat
    let w := t.gr (p.toNat + 1)
    let n := Claim.fld w 0 13
    let e := [4, 8, 16, 64][Claim.fld w 16 2]?.getD 64
    if Claim.fld w 13 3 ≠ 0 ∨ Claim.fld w 18 6 ≠ 0 ∨ Claim.fld w 30 34 ≠ 0 ∨ n = 0 ∨ 4096 < n ∨
      decide (s.tagCount t.gid ≤ Claim.fld w 24 6) = true then .error (0x0F, copyAt 0x02 0)
    else placesOk s t [(srcG iss t .zero d, e), (srcG iss t .zero b, 4), (base, e)] [base]
        [(srcG iss t .zero d, e * n), (srcG iss t .zero b, 4 * n)]
        { kind := .gather e n (srcG iss t .zero b), dst := srcG iss t .zero d, dstS := true, src := base, srcS := false, len := e * n,
          tag := some (Claim.fld w 24 6) })) := by
  refine (show execGather g d b p s = _ from copyUnitWord_eq h g fun s t => ?_)
  obtain ⟨w, hw⟩ : ∃ w, w = t.gr (p.toNat + 1) := ⟨_, rfl⟩
  simp only [← hw]
  have hcount : (GatherCtl.ofWord w).count = Claim.fld w 0 13 := by simp [GatherCtl.ofWord, fld_eq]
  have htag : (GatherCtl.ofWord w).tag = Claim.fld w 24 6 := by simp [GatherCtl.ofWord, fld_eq]
  have hbad : (GatherCtl.ofWord w).bad = true ↔ Claim.fld w 30 34 ≠ 0 ∨ Claim.fld w 18 6 ≠ 0 ∨ Claim.fld w 13 3 ≠ 0 := by
    simp [GatherCtl.ofWord, fld_top w (show 64 ≤ 30 + 34 by decide), fld_eq, or_assoc]
  have hsize : (GatherCtl.ofWord w).esize = [4, 8, 16, 64][Claim.fld w 16 2]?.getD 64 := by
    have hn : Claim.fld w 16 2 = w.toNat / 2 ^ 16 % 4 := fld_eq w 16 2
    have hlt : Claim.fld w 16 2 < 4 := (w.extractLsb' 16 2).isLt
    simp only [GatherCtl.ofWord, ← hn]
    interval_cases Claim.fld w 16 2 <;> rfl
  simp only [hcount, htag, hsize]
  refine ite_copyFlt ?_ fun _ => ?_
  · simp only [Bool.or_eq_true, hbad, beq_iff_eq, decide_eq_true_eq]
    tauto
  · exact copyPlaces_eq s t [(_, _), (_, _), (_, _)] ..

theorem pfr_queues (c : BitVec 1) : exec (.pfr c g d b p) s = .next (inTurn s iss g (enters iss s.fresh fun _ t =>
    let a := srcG iss t .zero b
    if 2 ^ 52 ≤ a.toNat then .error (0x03, a)
    else .ok { kind := .pfr, dst := 0, dstS := false, src := a, srcS := false, len := (srcG iss t .zero p).toNat % 2 ^ 32,
               tag := some d.toNat })) := by
  refine (show execPfr g d b p s = _ from copyUnitWord_eq h g fun s t => ?_)
  by_cases ha : 2 ^ 52 ≤ (srcG iss t .zero b).toNat
  · simp only [ha, if_true]; rfl
  · simp only [ha, if_false]; rfl

end

/-- R285, R286: the words of the copy unit. -/
theorem copyWords : Sys2Proof.Claim.CopyWords := by
  unfold Sys2Proof.Claim.CopyWords
  intro c g d b p s iss h q rs rz noTag
  exact ⟨copy_queues h g d b p c, copym_queues h g d b p c, copyb_queues h g d b p c, gather_queues h g d b p c, pfr_queues h g d b p c⟩

/-! ### The events -/

/-- The state where a word's tag is marked (R286). -/
def markedTag (s : State) (t : Thread) (r : CopyReq) : State :=
  match r.tag with
  | none => s
  | some k => s.modTag (s.tagOf t.gid k).1 (s.tagOf t.gid k).2 Tag.mark

theorem queueCopy_eq {s : State} {iss : Issue} {q : Nat} {t : Thread} {r : CopyReq} (hr : r.len ≠ 0) :
    ∃ x : Copy, s.queueCopy iss q t r = { markedTag s t r with cpys := (markedTag s t r).cpys ++ [x], fresh := (markedTag s t r).fresh + 1 } ∧
      x.tid = t.tid ∧ x.kind = r.kind ∧ x.dst = r.dst ∧ x.src = r.src ∧ x.len = r.len ∧ x.tag = r.tag ∧ x.seq = q ∧ x.pc = iss.wordPc := by
  rw [State.queueCopy]
  simp only [hr, false_and, if_false]
  exact ⟨_, rfl, rfl, rfl, rfl, rfl, rfl, rfl, rfl, rfl⟩

theorem tagAt_modTag {s : State} {c n : Nat} (f : Tag → Tag) (hn : n < 64) : (s.modTag c n f).tagAt c n = f (s.tagAt c n) := by
  rw [State.tagAt, State.modTag, coreAt_modCore_self _ _ (by intro k; rfl)]
  simp [hn, State.tagAt]

theorem copyEvents_hold : Sys2Proof.Claim.CopyEvents := by
  unfold Sys2Proof.Claim.CopyEvents
  refine ⟨?queue, ?start, ?end_, ?gather, ?pfr, ?ring⟩
  case queue =>
    intro s iss q t r hr u
    obtain ⟨x, hu, hx⟩ := queueCopy_eq (s := s) (iss := iss) (q := q) (t := t) hr
    obtain ⟨h1, h2, h3, h4, h5, h6, h7, h8⟩ := hx
    have hm : (markedTag s t r).cpys = s.cpys ∧ (markedTag s t r).mem = s.mem ∧ (markedTag s t r).pool = s.pool := by
      rw [markedTag]
      split
      · exact ⟨rfl, rfl, rfl⟩
      · exact ⟨State.modTag_cpys .., State.modTag_mem .., State.modTag_pool ..⟩
    obtain ⟨hc, hmem, hpool⟩ := hm
    refine ⟨x, (congrArg State.cpys hu).trans (congrArg (· ++ [x]) hc), h1, h2, h3, h4, h5, h6, h7, h8, (congrArg State.mem hu).trans hmem,
      (congrArg State.pool hu).trans hpool, fun k hk hlt => ?_⟩
    rw [show u = _ from hu]
    change (markedTag s t r).tagAt _ _ = _
    simp only [markedTag, hk]
    exact tagAt_modTag _ hlt
  case start =>
    intro id s c hc hst hheld hsrc hknown hfull hfoot
    change execCopyStart id s = _
    simp only [execCopyStart, hc, hst, hheld, hsrc, hknown, hfull, hfoot]
    rfl
  case end_ =>
    intro id s c hc hst hheld hhole hg hp
    change execCopyEnd id s = _
    simp only [execCopyEnd, hc]
    cases hk : c.kind with
    | gather e n i => exact absurd hk (hg e n i)
    | pfr => exact absurd hk hp
    | copy r => simp [hst, hheld, orCopyHole, hhole]
    | copym m => simp [hst, hheld, orCopyHole, hhole]
    | copyb o => simp [hst, hheld, orCopyHole, hhole]
  case gather =>
    intro id e n i s c hc hst hheld hk hhole
    change execGatherEnd id s = _
    simp [execGatherEnd, hc, hk, hst, hheld, orCopyHole, hhole]
  case pfr =>
    intro id s c hc hk hle lines r
    change execPfrEnd id s = _
    simp only [execPfrEnd, hc, hk, Nat.min_eq_left hle]
    rfl
  case ring =>
    intro gid s grp hg hi
    change execRingIdleExpiry gid s = _
    simp only [execRingIdleExpiry, hg]
    rw [if_neg (not_lt.2 hi), State.modGroup]
    refine congrArg (fun gs => Host.Outcome.next { s with groups := gs }) (List.map_congr_left fun x _ => ?_)
    by_cases hx : x.gid = gid
    · by_cases h8 : 8 ≤ x.ringIdle
      · rw [if_pos hx, if_pos ⟨hx, h8⟩, Group.ringExpire, if_neg (not_lt.2 h8)]
      · rw [if_pos hx, if_neg fun h => h8 h.2, Group.ringExpire, if_pos (not_le.1 h8)]
    · rw [if_neg hx, if_neg fun h => hx h.1]

/-- R288: one word between regions of a group's scratch. -/
theorem copiedWord : Sys2Proof.Claim.CopiedWord := by
  unfold Sys2Proof.Claim.CopiedWord
  intro s c grp hk hsrc hdst hlen hg hgs hgd haway hlive hbad
  have htargets : s.copyTargets c = [grp] := by simp only [State.copyTargets, hk, hg, Option.bind_some, hgd, Option.toList_some]
  have hregion : s.copyRegion c c.src = some grp := by simp only [State.copyRegion, hg, Option.bind_some, hgs]
  have hstay : s.away grp = false := List.any_eq_false.2 fun v hv => by simpa using haway v hv
  have hplaces : c.places = [] := by simp [Copy.places, hsrc, hdst]
  have hstops : s.copyStops c none c.places ([grp] ++ [grp]) = none := by
    simp [State.copyStops, hstay, hplaces, State.copyHolds]
  have hread : s.copyRead c none (8 * 0) 8 = (s, .ok (s.regionRead grp.core grp.scratch (c.src.toNat % 2 ^ 21) 8)) := by
    simp [-Nat.reducePow, State.copyRead, hsrc, hg, hgs, hbad]
  have hput (v : Nat) : s.copyPut c (8 * 0) 8 v = (s.regionWrite grp.core grp.scratch (c.dst.toNat % 2 ^ 21) v 8, none) := by
    simp [-Nat.reducePow, State.copyPut, hdst, htargets, hlive]
  rw [State.endCopy]
  simp only [hdst, hsrc, htargets, hregion, if_true, Option.toList_some, hstops, hlen, hk]
  rw [show 8 / 8 = 0 + 1 from rfl, copyGo, hread]
  simp only [State.writeBlocked, hdst, hput, copyGo, State.copybArrival, hk, if_true, Bool.false_and, Bool.false_eq_true, if_false]
  rfl

/-- Settles O54: the words of the copy unit, the events of copies, and a word that a copy carries. -/
theorem copies : Obligations.Copies := ⟨copyEvents_hold, copiedWord⟩

end Sys2Proof.Machine
end

section
/-!
SUPPORT. References, headers, metadata reads and PUB at issue (R217 to R221, R234).
-/

namespace Sys2Proof.Machine

open Claim

/-- A reference is 0 or the multiple of 8 of an address: the check of R217 names 0 apart though 0 is such a multiple. -/
theorem refOk_iff (v : Word) : refOk v = true ↔ v.toNat < 2 ^ 52 ∧ v.toNat % 8 = 0 := by
  have hzero : (v == 0) = true → v.toNat % 8 = 0 := fun h => by rw [eq_of_beq h]; rfl
  rw [refOk, Bool.and_eq_true, Bool.or_eq_true, beq_iff_eq, beq_iff_eq]
  refine and_congr (by omega) ⟨fun h => h.elim id hzero, .inl⟩

theorem metaWord_starts (what : Nat) (g : BitVec 4) (d b p : BitVec 6) (s : State) :
    metaWord what g d b p s = .next (s.startOps g true false [.g b.toNat, .g p.toNat] fun iss t =>
      (globalAt 1 b p iss t).map fun a => .plain a (.readMeta what d.toNat (policy iss t p))) := by
  simp only [metaWord, opWord, globalReq_eq]
  rfl

/-- R217 to R221, R234: each word puts under way what its checks allow. -/
theorem objectWords : Sys2Proof.Claim.ObjectWords := by
  unfold Sys2Proof.Claim.ObjectWords
  intro c g d b p s
  refine ⟨?stref, ?sthdr, fun r hr => ?reads, ?pub⟩
  case stref =>
    change execStref g d b p s = _
    refine congrArg (fun f => Host.Outcome.next (s.startOps g true true _ f)) (funext fun iss => funext fun t => ?_)
    simp only [globalReq_eq]
    cases globalAt 8 b p iss t with
    | error x => rfl
    | ok a =>
      simp only [Except.map, refOk_iff]
      rfl
  case sthdr =>
    change execSthdr g d b p s = _
    simp only [execSthdr, globalReq_eq]
  case reads =>
    simp only [List.mem_cons, List.not_mem_nil, or_false] at hr
    obtain rfl | rfl | rfl := hr
    all_goals exact metaWord_starts _ g d b p s
  case pub =>
    change execPub g d b p s = _
    simp only [execPub, opWord, bne_iff_ne]
    rfl

/-- Settles O48: the object words, and the words of the copy unit. -/
theorem objectAndCopyWords : Obligations.ObjectAndCopyWords := ⟨objectWords, copyWords⟩

end Sys2Proof.Machine
end

section
/-!
SUPPORT. Clamps, clocks, links, services and device registers (R2, R13, R20 to R22, R373 to R383).
-/

namespace Sys2Proof.Machine

open Claim

/-! ### Clamps and clocks (R13, R20, R21) -/

/-- A change of the clamps is one of those of a quad, or of all. -/
theorem modClamps_becomes (s : State) (thermal : Bool) {quad : Nat} (hq : quad < 128) (f : Clamp → Clamp) :
    ∃ cs, s.modClamps thermal quad f = modDev s (fun d => { d with clamps := cs }) ∧ clampsOf s thermal quad f cs := by
  refine ⟨_, rfl, fun i hi c hc => ?_⟩
  have hget : s.dev.clamps[i]? = some s.dev.clamps[i] := Vector.getElem?_eq_getElem hi
  obtain rfl : s.dev.clamps[i] = c := Option.some.inj (hget.symm.trans hc)
  cases thermal with
  | false => simp [Vector.getElem?_map, hget]
  | true =>
    rw [Vector.getElem?_eq_getElem hq]
    by_cases h : i = quad
    · subst h; simp [hq]
    · simp [h, Ne.symm h, hget]

theorem target_eq_steps (service : Service) (c : Clamp) : c.target service =
    (let steps := max c.pStep c.tStep
     if service ≠ .full then 350 else if steps = 0 then 700 else if steps = 1 then 525 else 350) := by
  cases service with
  | full =>
    simp only [Clamp.target]
    rcases max c.pStep c.tStep with _ | _ | n <;> rfl
  | _ => rfl

theorem clampsAndClocks : Sys2Proof.Claim.ClampsAndClocks := by
  unfold Sys2Proof.Claim.ClampsAndClocks
  intro thermal quad s hq becomes
  have hmod (i : Instr) (th : Bool) (f : Clamp → Clamp) (h : exec i s = .next (s.modClamps th quad f)) : becomes i th f := by
    obtain ⟨cs, hcs, hof⟩ := modClamps_becomes s th hq f
    exact ⟨cs, h.trans (congrArg Host.Outcome.next hcs), hof⟩
  refine ⟨hmod _ _ _ rfl, hmod _ _ _ rfl, hmod _ _ _ ?second, hmod _ _ _ rfl, hmod _ _ _ rfl, fun hi hc => hmod _ _ _ ?clock, fun w hw => ?limit,
    fun die gib hd hg hr => ?rdc⟩
  case second =>
    change execClampSecondStep thermal quad s = _
    simp only [execClampSecondStep, Bool.and_eq_true, beq_iff_eq]
  case clock =>
    have hissue : s.issues.any (fun i => quadOf i.core == quad) = false := List.any_eq_false.2 fun i him => by simpa [quadOf] using hi i him
    have hcmd : s.cmds.any (fun c => quadOf c.core == quad && c.inRow) = false := List.any_eq_false.2 fun c hcm => by
      by_cases h : c.core / 4 = quad <;> simp [quadOf, h, hc c hcm]
    change execClockChangeApply quad s = _
    simp only [execClockChangeApply, hissue, hcmd, target_eq_steps]
    rfl
  case limit =>
    change execPowerLimitSet w s = _
    rw [execPowerLimitSet, if_neg (not_lt.2 hw)]
    rfl
  case rdc =>
    have hres : s.groups.any (fun g => g.st != .retired && dieOf g.core == die) = false := List.any_eq_false.2 fun g hgm => by
      by_cases h : g.core / 128 = die <;> simp [dieOf, h, hr g hgm]
    change execRdcSizeSet die gib s = _
    rw [execRdcSizeSet, if_neg (by rw [hres]; simp; omega)]
    rfl

/-! ### Links (R378 to R380, R383) -/

theorem link_of_some {s : State} {i : Nat} {l : Link} (h : s.dev.links[i]? = some l) : s.link i = l := by rw [State.link, h]; rfl

theorem lt_of_link {s : State} {i : Nat} {l : Link} (h : s.dev.links[i]? = some l) : i < 29 := by
  by_contra hi
  rw [Vector.getElem?_eq_none (not_lt.1 hi)] at h
  exact absurd h nofun

/-- The record of a link replaced. -/
def putLink (s : State) (i : Nat) (l : Link) : State := modDev s fun d => { d with links := d.links.setIfInBounds i l }

theorem setLink_of_same {s : State} {i : Nat} {l x : Link} (h : s.dev.links[i]? = some l) (hst : x.st = l.st) : s.setLink i x = putLink s i x := by
  rw [State.setLink, link_of_some h]
  exact if_pos hst

theorem setLink_of_change {s : State} {i : Nat} {l x : Link} (h : s.dev.links[i]? = some l) (hst : x.st ≠ l.st) : s.setLink i x =
    (if 16 ≤ i then putLink s i x else if l.st = .up then (putLink s i x).resendPeer
      else if x.st = .up then (putLink s i x).sendWaiting else putLink s i x).hostEvent evLink i x.st.code := by
  rw [State.setLink, link_of_some h]
  exact if_neg hst

theorem setLink_links (s : State) (i : Nat) (x : Link) : (s.setLink i x).dev.links = s.dev.links.setIfInBounds i x := by
  rw [State.setLink]
  simp only []
  split
  · rfl
  · split
    · rfl
    · split
      · rfl
      · split <;> rfl

theorem setLink_service (s : State) (i : Nat) (x : Link) : (s.setLink i x).dev.service = s.dev.service := by
  rw [State.setLink]
  simp only []
  split
  · rfl
  · split
    · rfl
    · split
      · rfl
      · split <;> rfl

/-- The requests for which a condition holds are sent on the plane that the hash now gives (R382). -/
def sentAgain (which : PeerReq → Bool) (u : State) : State := { u with mem := { u.mem with
  unacked := u.mem.unacked.map fun r => if which r = true then { r with plane := u.planeOf r.line } else r } }

theorem resendPeer_eq (u : State) : u.resendPeer = sentAgain (fun _ => true) u := rfl

theorem sendWaiting_eq (u : State) : u.sendWaiting = sentAgain (fun r => r.plane == none) u := by
  simp only [State.sendWaiting, sentAgain, beq_iff_eq]

/-- A link that leaves up. -/
theorem setLink_lost {s : State} {i : Nat} {l x : Link} (h : s.dev.links[i]? = some l) (hst : x.st ≠ l.st) (hx : x.st ≠ .up) : s.setLink i x =
    (if l.st = .up ∧ i < 16 then sentAgain (fun _ => true) (putLink s i x) else putLink s i x).hostEvent evLink i x.st.code := by
  rw [setLink_of_change h hst, if_neg hx]
  by_cases hi : i < 16
  · by_cases hup : l.st = .up
    · rw [if_neg (not_le.2 hi), if_pos hup, if_pos ⟨hup, hi⟩, resendPeer_eq]
    · rw [if_neg (not_le.2 hi), if_neg hup, if_neg fun h => hup h.1]
  · rw [if_pos (not_lt.1 hi), if_neg fun h => hi h.2]

/-- A link that comes up. -/
theorem setLink_gained {s : State} {i : Nat} {l x : Link} (h : s.dev.links[i]? = some l) (hl : l.st ≠ .up) (hx : x.st = .up) : s.setLink i x =
    (if i < 16 then sentAgain (fun r => r.plane == none) (putLink s i x) else putLink s i x).hostEvent evLink i 2 := by
  rw [setLink_of_change h (by rw [hx]; exact Ne.symm hl), if_neg hl, if_pos hx, sendWaiting_eq, hx]
  by_cases hi : i < 16
  · rw [if_neg (not_le.2 hi), if_pos hi]; rfl
  · rw [if_pos (not_lt.1 hi), if_neg hi]; rfl

theorem trainLink_of_not {s : State} {i : Nat} (h : (s.link i).st ≠ .down ∨ s.linkMayTrain i = false ∨ (s.link i).en = false) : s.trainLink i = s := by
  rw [State.trainLink]
  refine if_neg fun hc => ?_
  simp only [Bool.and_eq_true, beq_iff_eq] at hc
  obtain ⟨⟨hen, hdown⟩, hmay⟩ := hc
  rcases h with h | h | h
  · exact h hdown
  · rw [h] at hmay; exact absurd hmay nofun
  · rw [h] at hen; exact absurd hen nofun

theorem link_put {s : State} {i : Nat} {l : Link} (x : Link) (h : s.dev.links[i]? = some l) : (putLink s i x).dev.links[i]? = some x := by
  have hi := lt_of_link h
  exact (Vector.getElem?_setIfInBounds_self_of_lt hi)

theorem linkEnable_eq {s : State} {i : Nat} {l : Link} (h : s.dev.links[i]? = some l) :
    exec (.linkEnable i) s = .next ((putLink s i { l with en := true }).trainLink i) := by
  change execLinkEnable i s = _
  rw [execLinkEnable, if_neg (show ¬ linkCount ≤ i from not_le.2 (lt_of_link h)), link_of_some h]
  exact congrArg (fun t : State => Host.Outcome.next (t.trainLink i)) (setLink_of_same h rfl)

theorem linkEnable_trains {s : State} {i : Nat} {l : Link} (h : s.dev.links[i]? = some l) (hd : l.st = .down)
    (hmay : i = 28 ∨ s.dev.service = .full) : ∃ t, exec (.linkEnable i) s = .next t ∧
      t.dev.links[i]? = some { l with en := true, st := .training, replays := 0 } ∧ ∀ j, j ≠ i → t.dev.links[j]? = s.dev.links[j]? := by
  have hput : (putLink s i { l with en := true }).dev.links[i]? = some { l with en := true } := link_put _ h
  have htrain : (putLink s i { l with en := true }).trainLink i =
      (putLink s i { l with en := true }).setLink i { l with en := true, st := .training, replays := 0 } := by
    rw [State.trainLink, link_of_some hput]
    refine if_pos ?_
    simp only [hd, beq_self_eq_true, Bool.and_self, Bool.true_and, State.linkMayTrain, Bool.or_eq_true, beq_iff_eq]
    exact hmay
  refine ⟨_, linkEnable_eq h, ?_, fun j hj => ?_⟩
  · rw [htrain, setLink_links]
    exact Vector.getElem?_setIfInBounds_self_of_lt (lt_of_link h)
  · rw [htrain, setLink_links]
    simp [putLink, modDev, Ne.symm hj]

theorem linkDisable_eq {s : State} {i : Nat} {l : Link} (h : s.dev.links[i]? = some l) :
    exec (.linkDisable i) s = .next (s.setLink i { l with en := false, st := .down, rate := 0 }).pump := by
  change execLinkDisable i s = _
  rw [execLinkDisable, if_neg (show ¬ linkCount ≤ i from not_le.2 (lt_of_link h)), link_of_some h]

theorem linkTrained_eq {s : State} {i rate : Nat} {l : Link} (h : s.dev.links[i]? = some l) (hl : l.st = .training) (h0 : 0 < rate)
    (h256 : rate < 256) : exec (.linkTrained i rate) s = .next (s.setLink i { l with st := .up, rate := rate }).pump := by
  have hi := lt_of_link h
  change execLinkTrained i rate s = _
  rw [execLinkTrained, link_of_some h, if_neg]
  rw [hl, bne_self_eq_false, Bool.false_or, decide_eq_true_iff, linkCount]
  omega

theorem hostModuleFail_eq (m : Nat) {s : State} {l : Link} (h : s.dev.links[28]? = some l) :
    let s1 := modDev s fun d => { d with modules := d.modules.setIfInBounds m false }
    exec (.hostModuleFail m) s = .next (if l.st = .up ∧ s1.dev.modules.toList.all (! ·) then s1.setLink 28 { l with st := .failed, rate := 0 } else s1) := by
  intro s1
  have hs1 : s1.link hostPort = l := link_of_some (s := s1) h
  change execHostModuleFail m s = _
  rw [← hs1]
  rfl

theorem all_false_iff {n : Nat} (v : Vector Bool n) : v.toList.all (! ·) = true ↔ ∀ (k : Nat) (b : Bool), v[k]? = some b → b = false := by
  rw [List.all_eq_true]
  constructor
  · intro h k b hb
    have hmem : b ∈ v.toList := by
      rw [Vector.mem_toList_iff]
      exact Vector.mem_of_getElem? hb
    simpa using h b hmem
  · intro h b hb
    rw [Vector.mem_toList_iff] at hb
    obtain ⟨k, hk⟩ := Vector.getElem?_of_mem hb
    simpa using h k b hk

theorem podJobEnrol_eq {job kid : Nat} {members : List Nat} {s : State} {k : Kernel} (hk : s.kernel? kid = some k) (hl : members.length ≤ 1024)
    (hm : ∀ m ∈ members, m < 1024) (enrol : Bool) : exec (.podJobEnrol job kid members enrol) s = .next (modDev s fun d => { d with
      jobs := (d.jobs.filter fun j => j.job != job) ++
        if enrol then [⟨job, kid, members, ((d.jobs.filter fun j => j.job == job).flatMap fun j => j.reports).filter fun m => decide (m ∈ members)⟩]
        else [] }) := by
  have hany : members.any (fun m => decide (1024 ≤ m)) = false := List.any_eq_false.2 fun m hmm => by simpa using hm m hmm
  change execPodJobEnrol job kid members enrol s = _
  rw [execPodJobEnrol]
  cases enrol with
  | false => simp [modDev]
  | true =>
    rw [Bool.not_true, if_neg (by decide), if_neg (by rw [hk, hany]; simp; exact hl)]
    have hcont : members.contains = fun m => decide (m ∈ members) := funext fun m => List.contains_eq_mem ..
    simp only [modDev, if_true, hcont]

theorem linksAndJobs : Sys2Proof.Claim.LinksAndJobs := by
  unfold Sys2Proof.Claim.LinksAndJobs
  refine ⟨fun i rate s l h => ?links, fun m s l h => ?module, fun job kid members s k hk hl hm => ?job⟩
  case links =>
    intro put again lost gained
    have hput : (putLink s i { l with en := true }).dev.links[i]? = some { l with en := true } := link_put _ h
    refine ⟨fun hd => ?_, fun hd hi hs => ?_, linkEnable_trains h, fun hd => ?_, fun hd => ?_, fun hl h0 h256 => ?_, fun hl => ?_,
      fun hl => ⟨?_, ?_⟩⟩
    · rw [linkEnable_eq h, trainLink_of_not (.inl (by rw [link_of_some hput]; exact hd))]
      rfl
    · have hmay : (putLink s i { l with en := true }).linkMayTrain i = false := by
        rw [State.linkMayTrain, Bool.or_eq_false_iff]
        exact ⟨beq_false_of_ne (by rw [hostPort]; omega), beq_false_of_ne hs⟩
      rw [linkEnable_eq h, trainLink_of_not (.inr (.inl hmay))]
      rfl
    · rw [linkDisable_eq h, setLink_of_same h hd.symm]
      rfl
    · rw [linkDisable_eq h, setLink_lost h (Ne.symm hd) (by simp)]
      rfl
    · rw [linkTrained_eq h hl h0 h256, setLink_gained h (by rw [hl]; decide) rfl]
      rfl
    · change execLinkTrainingTimeout i s = _
      rw [execLinkTrainingTimeout, link_of_some h, hl, if_neg (by decide), setLink_lost h (by simp [hl]) (by simp), if_neg (by simp [hl])]
      rfl
    · change execLinkLockLoss i s = _
      rw [execLinkLockLoss, link_of_some h, hl, if_neg (by decide), setLink_lost h (by simp [hl]) (by simp)]
      rfl
    · change execLinkReplayFailure i s = _
      rw [execLinkReplayFailure, link_of_some h, hl, if_neg (by decide), setLink_lost h (by simp [hl]) (by simp)]
      rfl
  case module =>
    intro s1 dead
    have hdead : (l.st = .up ∧ s1.dev.modules.toList.all (! ·) = true) ↔ dead := and_congr_right fun _ => all_false_iff _
    have hl1 : s1.dev.links[28]? = some l := h
    refine ⟨fun hd => ?_, fun hd => ?_⟩
    · rw [hostModuleFail_eq m h, if_neg (mt hdead.1 hd)]
    · rw [hostModuleFail_eq m h, if_pos (hdead.2 hd), setLink_lost hl1 (by simp [hd.1]) (by simp), if_neg (by omega)]
      rfl
  case job =>
    intro kept
    refine ⟨podJobEnrol_eq hk hl hm true, ?_⟩
    rw [podJobEnrol_eq hk hl hm false]
    simp only [Bool.false_eq_true, if_false, List.append_nil]

/-! ### Power-up, events and registers (R2, R373, R376, R377) -/

theorem cellsRead_outside {l : List Host.Cell} {a : Nat} (h : a < 4 * 2 ^ 52) : cellsRead (outsideCells l) a = 0 :=
  cellsRead_below a _ fun c hc => by
    have := of_decide_eq_true (List.mem_filter.1 hc).2
    omega

theorem trainStacks_getElem? (hbm : Vector Bool 8) (l : List Nat) {i : Nat} (hi : i < 8) (hm : i ∈ l ∨ hbm[i]? = some true) :
    (trainStacks hbm l)[i]? = some true := by
  induction l generalizing hbm with
  | nil => exact hm.resolve_left List.not_mem_nil
  | cons x l ih =>
    refine ih (hbm.setIfInBounds x true) ?_
    by_cases hx : x = i
    · exact .inr (by rw [hx]; exact Vector.getElem?_setIfInBounds_self_of_lt hi)
    · refine hm.imp (fun h => (List.mem_cons.1 h).resolve_left (Ne.symm hx)) fun h => ?_
      rw [Vector.getElem?_setIfInBounds_ne hx]
      exact h

/-- No enabled link waits for full service. -/
theorem trainLinks_of_disabled {s : State} (l : List Nat) (h : ∀ i ∈ l, (s.link i).en = false) : l.foldl State.trainLink s = s := by
  induction l with
  | nil => rfl
  | cons i l ih =>
    rw [List.foldl_cons, trainLink_of_not (.inr (.inr (h i List.mem_cons_self))), ih fun j hj => h j (List.mem_cons_of_mem _ hj)]

theorem registerWrite_setReg {reg : Nat} (v : Word) (s : State) (h : reg ≠ 2 ∧ reg ≠ 3 ∧ reg ≠ 5 ∧ ¬ (48 ≤ reg ∧ reg < 52)) :
    exec (.registerWrite reg v) s = .next (modDev s fun d => d.setReg reg v.toNat) := by
  obtain ⟨h2, h3, h5, h48⟩ := h
  change execRegisterWrite reg v s = _
  rw [execRegisterWrite, if_neg h2, if_neg h3, if_neg h5, if_neg h48]
  rfl

theorem setReg_link {d : Dev} {i v : Nat} {l : Link} (hi : i < 16) (hv : v < 1024) (h : d.links[i]? = some l) :
    d.setReg (16 + i) v = { d with links := d.links.setIfInBounds i { l with peer := v } } := by
  rw [Dev.setReg, if_neg (by omega), if_neg (by omega), if_neg (by omega), if_pos (by omega), if_pos hv]
  simp only [Nat.add_sub_cancel_left, h]

theorem setReg_window {d : Dev} {i v lo hi : Nat} (hi8 : i < 8) (h : d.windows[i]? = some (lo, hi)) :
    d.setReg (32 + i) v = { d with windows := d.windows.setIfInBounds i (v, hi) } ∧
    d.setReg (40 + i) v = { d with windows := d.windows.setIfInBounds i (lo, v) } := by
  constructor
  · rw [Dev.setReg, if_neg (by omega), if_neg (by omega), if_neg (by omega), if_neg (by omega), if_pos (by omega)]
    simp only [Nat.add_sub_cancel_left, h]
  · rw [Dev.setReg, if_neg (by omega), if_neg (by omega), if_neg (by omega), if_neg (by omega), if_neg (by omega), if_pos (by omega)]
    simp only [Nat.add_sub_cancel_left, h]

theorem sideTable_write (v : Word) (s : State) {i : Nat} (hi : i < 4) : exec (.registerWrite (48 + i) v) s =
    .next (if v.toNat % 64 = 0 ∧ s.frameExists i (v.toNat + (64 * 81920 - 64)) = true then { s with mem := s.mem.placeSide i v.toNat } else s) := by
  have hsize : v.toNat + sideSize - 64 = v.toNat + (64 * 81920 - 64) := by simp only [sideSize]; omega
  change execRegisterWrite (48 + i) v s = _
  rw [execRegisterWrite, if_neg (by omega), if_neg (by omega), if_neg (by omega), if_pos (by omega), Nat.add_sub_cancel_left, hsize]

theorem deviceEvents : Sys2Proof.Claim.DeviceEvents := by
  unfold Sys2Proof.Claim.DeviceEvents
  intro s
  refine ⟨⟨_, rfl, rfl, rfl, rfl, rfl, rfl, rfl, fun a ha => cellsRead_outside ha⟩, ⟨_, rfl, rfl, rfl, rfl, rfl, rfl, rfl, rfl⟩, fun image floor hw => ?image,
    fun hs => ?reduced, fun st hst hs => ?trained, fun hs hen => ?full, fun i hr hw => ?ring, rfl, fun hi => ?first, fun hi => ?merged, fun v => ⟨?base, ?mig⟩,
    fun v i hi => ⟨fun h => ?_, fun h => ?_⟩, fun v hv => ?marks, fun v hv => ?nomarks, fun v h6 h16 => ?log, fun v hv => ⟨?pkg, fun i l hi hl => ?peer⟩,
    fun v i lo hi hi8 hw => ?window⟩
  case image =>
    refine ⟨fun hg => ?_, fun hg => ?_⟩
    · change execImageStartCommand image floor s = _
      rw [execImageStartCommand, hw, hg]; rfl
    · change execImageStartCommand image floor s = _
      rw [execImageStartCommand, hw, hg]; rfl
  case reduced =>
    rw [show exec .reducedServiceBegin s = execReducedServiceBegin s from rfl, execReducedServiceBegin, hs, if_neg (by decide)]
    refine ⟨_, rfl, rfl, fun i c hc => ?_, fun i hi he => trainStacks_getElem? _ _ hi (.inl ?_)⟩
    · rw [Vector.getElem?_map] at hc
      obtain ⟨x, -, rfl⟩ := Option.map_eq_some_iff.1 hc
      rfl
    · interval_cases i <;> simp at he ⊢
  case trained =>
    change execHbmStackTrained st s = _
    rw [execHbmStackTrained, if_neg]
    · rfl
    · rcases hs with hs | hs <;> simp [hs, hst]
  case full =>
    change execFullServiceBegin s = _
    rw [execFullServiceBegin, hs, if_neg (by decide)]
    refine congrArg (fun t : State => Host.Outcome.next t.pump) (trainLinks_of_disabled _ fun i hi => ?_)
    have hi28 : i < 28 := List.mem_range.1 hi
    have hl : s.dev.links[i]? = some s.dev.links[i] := Vector.getElem?_eq_getElem (by omega)
    rw [link_of_some (s := { s with dev := { s.dev with service := .full, hbm := .replicate 8 true } }) hl]
    exact hen i _ hi28 hl
  case ring =>
    change execEventRingReadAdvance i s = _
    rw [execEventRingReadAdvance, if_neg (by omega)]
    rfl
  case first =>
    have hany : s.dev.irqs.any (fun x => x.1 == 0) = false := List.any_eq_false.2 fun x hx => by simpa using hi x hx
    change execWatchdogExpiry s = _
    simp only [execWatchdogExpiry, State.interrupt, watchdogVector, hany]
    rfl
  case merged =>
    obtain ⟨x, hx, h0⟩ := hi
    have hany : s.dev.irqs.any (fun x => x.1 == 0) = true := List.any_eq_true.2 ⟨x, hx, by simpa using h0⟩
    change execWatchdogExpiry s = _
    simp only [execWatchdogExpiry, State.interrupt, watchdogVector, hany]
    rfl
  case base => exact registerWrite_setReg v s (by decide)
  case mig => rfl
  · rw [sideTable_write v s hi, if_pos h]
  · rw [sideTable_write v s hi, if_neg h]
  case marks =>
    have hlt : v.toNat < 65536 := hv
    exact ⟨congrArg Host.Outcome.next (if_pos hlt), congrArg Host.Outcome.next (if_pos hlt)⟩
  case nomarks =>
    have hle : 65536 ≤ v.toNat := hv
    exact ⟨congrArg Host.Outcome.next (if_neg (not_lt.2 hle)), congrArg Host.Outcome.next (if_neg (not_lt.2 hle))⟩
  case log =>
    have hv : 6 ≤ v.toNat ∧ v.toNat ≤ 16 := ⟨h6, h16⟩
    rw [registerWrite_setReg v s (by decide)]
    refine congrArg Host.Outcome.next (congrArg (fun d => { s with dev := d }) ?_)
    simp only [Dev.setReg, if_true, decide_eq_true hv]
  case pkg =>
    have hlt : v.toNat < 1024 := hv
    rw [registerWrite_setReg v s (by decide)]
    refine congrArg Host.Outcome.next (congrArg (fun d => { s with dev := d }) ?_)
    simp only [Dev.setReg, one_ne_zero, if_false, if_true, hlt]
  case peer =>
    rw [registerWrite_setReg v s (by omega)]
    exact congrArg Host.Outcome.next (congrArg (fun d => { s with dev := d }) (setReg_link hi hv hl))
  case window =>
    rw [registerWrite_setReg v s (by omega), registerWrite_setReg v s (by omega)]
    obtain ⟨h1, h2⟩ := setReg_window (v := v.toNat) hi8 hw
    exact ⟨congrArg Host.Outcome.next (congrArg (fun d => { s with dev := d }) h1),
      congrArg Host.Outcome.next (congrArg (fun d => { s with dev := d }) h2)⟩

/-- Settles O60: the clamps and clocks, the links and jobs, and the other events of the device. -/
theorem device : Obligations.Device := ⟨clampsAndClocks, linksAndJobs, deviceEvents⟩

end Sys2Proof.Machine
end

section
/-!
SUPPORT. Kiln's extension instructions and its event lines (R374, R375).
-/

namespace Sys2Proof.Machine

open Claim

/-! ### A Kiln core -/

/-- The register of a Kiln core by its field. -/
def kilnReg (k : KilnCore) (r : BitVec 5) : Word := if r = 0 then 0 else k.x[r.toNat]?.getD 0

theorem toNat_eq_zero5 (r : BitVec 5) : r.toNat = 0 ↔ r = 0 := by
  rw [← BitVec.toNat_inj]; rfl

theorem rd_eq (k : KilnCore) (r : BitVec 5) : k.rd r.toNat = kilnReg k r := if_congr (toNat_eq_zero5 r) rfl rfl

/-- A core after an instruction of 4 bytes. -/
def kilnDone (k : KilnCore) (d : BitVec 5) (v : Word) : KilnCore :=
  { k with x := (if d = 0 then k.x else k.x.setIfInBounds d.toNat v), pc := k.pc + 4, stalled := none, minstret := k.minstret + 1 }

theorem done_eq (k : KilnCore) (d : BitVec 5) (v : Word) : k.done d.toNat v = kilnDone k d v := by
  simp only [KilnCore.done, KilnCore.doneBy, KilnCore.put, kilnDone, toNat_eq_zero5]
  rfl

/-- A core after an exception, as RISC-V enters it (log entry 24). -/
def kilnTrapped (k : KilnCore) (cause : Nat) (v : Word) : KilnCore :=
  { k with
    mcause := word cause, mtval := v, mepc := k.pc, pc := k.mtvec &&& ~~~3, stalled := none
    mstatus := (k.mstatus &&& ~~~0x88) ||| (k.mstatus / 8 % 2 * 128) ||| 0x1800 }

theorem mie_bit (m : Word) : ((m >>> 3) &&& 1) <<< 7 = m / 8 % 2 * 128 := by
  apply BitVec.eq_of_toNat_eq
  have h1 : (m.toNat >>> 3) &&& 1 = m.toNat / 8 % 2 := by rw [Nat.and_one_is_mod, Nat.shiftRight_eq_div_pow]
  have h2 : m.toNat / 8 % 2 < 2 := Nat.mod_lt _ (by decide)
  simp [BitVec.toNat_shiftLeft, BitVec.toNat_and, BitVec.toNat_ushiftRight, BitVec.toNat_mul, BitVec.toNat_umod, BitVec.toNat_udiv, h1,
    Nat.shiftLeft_eq]

theorem trap_eq (k : KilnCore) (cause : Nat) (v : Word) : k.trap cause v = kilnTrapped k cause v := by
  simp only [KilnCore.trap, kilnTrapped, mie_bit, word_natCast]
  rfl

theorem setKilnAt_setKilnAt (s : State) (i : Nat) (k k' : KilnCore) : (s.setKilnAt i k).setKilnAt i k' = s.setKilnAt i k' := by
  simp [State.setKilnAt]

/-! ### The words -/

/-- KRFET once the header is read: the packet at `a`, whose phase is that of packet i of a ring of 2^n (R299, R374). -/
def krfetPkt (s : State) (hdr : Word) (d : BitVec 5) (i n a : Nat) : Out :=
  match s.kilnReads a with
  | .wait => .next s
  | .absent => .next ((if 2 ^ 52 ≤ a then s else s.meetTable 0 a).setKiln (kilnTrapped s.kilnCore 24 hdr))
  | .hole _ _ => .next (s.setKiln (kilnTrapped s.kilnCore 24 hdr))
  | .home h =>
    if s.unreadable h then .next ((s.meetError h).setKiln (kilnTrapped s.kilnCore 24 hdr))
    else .next (({ s with kiln := { s.kiln with
        sram := cellsWriteN (s.kilnIdx / 4 * 2 ^ 19 + 0x40000 + 64 * (i % 8)) (s.homeRead 0 a 64) 64 s.kiln.sram } } : State).setKiln
      (kilnDone s.kilnCore d (if s.homeRead 0 a 8 % 2 = 1 ∧ s.homeRead 0 a 8 / 2 % 2 = i / 2 ^ n % 2 then word (s.homeRead 0 a 8) else 0)))

section
variable (r2 r1 d : BitVec 5) (s : State)

theorem kbfx_eq : exec (.kbfx r2 r1 d) s =
    let k := s.kilnCore
    let f := kilnReg k r2
    if 2 ^ 15 ≤ f.toNat ∨ f.getLsbD 7 = true then .next (s.setKiln (kilnTrapped k 25 f))
    else .next (s.setKiln (kilnDone k d (word (ux (fLen f) ((kilnReg k r1).toNat / 2 ^ fPos f))))) := by
  have hbig (n : Nat) : n / 2 ^ 15 ≠ 0 ↔ 2 ^ 15 ≤ n := by omega
  change execKbfx r2 r1 d s = _
  simp only [execKbfx, rd_eq, done_eq, trap_eq, hbig]
  refine ite_congr rfl (fun _ => rfl) fun _ => ?_
  rw [← word_natCast, ux]
  push_cast
  rfl

theorem krfet_eq : exec (.krfet r2 r1 d) s =
    let k := s.kilnCore
    let hdr := kilnReg k r1
    let i := (kilnReg k r2).toNat
    let trapAt (u : State) : Out := .next (u.setKiln (kilnTrapped k 24 hdr))
    let missed (va : Nat) : State := if 2 ^ 52 ≤ va then s else s.meetTable 0 va
    let n := s.homeRead 0 (hdr.toNat + 24) 8 % 32
    let a := s.homeRead 0 (hdr.toNat + 16) 8 + 64 * (i % 2 ^ n)
    if hdr.toNat % 64 ≠ 0 then trapAt s
    else match s.kilnReads hdr.toNat with
      | .wait => .next s
      | .absent => trapAt (missed hdr.toNat)
      | .hole _ _ => trapAt s
      | .home h =>
        if s.unreadable h then trapAt (s.meetError h)
        else if n < 4 ∨ 16 < n then trapAt s
        else krfetPkt s hdr d i n a := by
  change execKrfet r2 r1 d s = _
  simp only [execKrfet, krfetPkt, rd_eq, done_eq, trap_eq, State.pktValid, Bool.and_eq_true, beq_iff_eq, word_natCast, State.kilnMissed]
  rfl

theorem kswait_eq : exec (.kswait r1 d) s =
    let k := s.kilnCore
    let m := kilnReg k r1
    let ev : Word := s.kiln.events[s.kilnIdx / 4]?.getD 0
    if m = 0 ∨ 2 ^ 36 ≤ m.toNat then .next (s.setKiln (kilnTrapped k 26 m))
    else if ev &&& m = 0 then .next (s.setKiln { k with stalled := some (32 * r1.toNat + d.toNat) })
    else .next (({ s with kiln := { s.kiln with events := s.kiln.events.setIfInBounds (s.kilnIdx / 4) (ev &&& ~~~ m) } } : State).setKiln
      (kilnDone k d (ev &&& m))) := by
  obtain ⟨m, hm⟩ : ∃ m, m = kilnReg s.kilnCore r1 := ⟨_, rfl⟩
  obtain ⟨ev, hev⟩ : ∃ ev, ev = s.eventLines (s.kilnIdx / 4) := ⟨_, rfl⟩
  obtain ⟨k', hk'⟩ : ∃ k' : KilnCore, k' = { s.kilnCore with stalled := some (32 * r1.toNat + d.toNat) } := ⟨_, rfl⟩
  have hbig (n : Nat) : n / 2 ^ 36 ≠ 0 ↔ 2 ^ 36 ≤ n := by omega
  change execKswait r1 d s = _
  simp only [execKswait, rd_eq, trap_eq, hbig, ← hm, ← hk']
  refine ite_congr rfl (fun _ => rfl) fun _ => ?_
  have hidx : s.kilnIdx < 16 := Nat.mod_lt _ (by decide)
  have hat : (s.setKiln k').kilnAt s.kilnIdx = k' := by
    simp [State.setKiln, State.setKilnAt, State.kilnAt, hidx]
  have hreg : (32 * r1.toNat + d.toNat) / 32 = r1.toNat := by have := d.isLt; omega
  have hdst : (32 * r1.toNat + d.toNat) % 32 = d.toNat := by have := d.isLt; omega
  have hst : k'.stalled = some (32 * r1.toNat + d.toNat) := by rw [hk']
  have hrd : k'.rd r1.toNat = m := by rw [hk', hm, ← rd_eq]; simp only [KilnCore.rd]
  have hlines : (s.setKiln k').eventLines (s.kilnIdx / 4) = ev := by
    rw [hev]; simp only [State.eventLines, State.setKiln, State.setKilnAt]
  have hcut : ev &&& ~~~(ev &&& m) = ev &&& ~~~m := by
    rw [BitVec.not_and, BitVec.and_or_distrib_left, BitVec.and_not_self]
    exact BitVec.zero_or
  have hdone : kilnDone k' d (ev &&& m) = kilnDone s.kilnCore d (ev &&& m) := by rw [hk']; simp only [kilnDone]
  rw [State.kilnWake]
  simp only [hat, hst, hreg, hdst, hrd, done_eq, hlines, hcut, hdone]
  change Host.Outcome.next _ = if s.eventLines (s.kilnIdx / 4) &&& m = 0 then _ else _
  rw [← hev]
  by_cases h0 : ev &&& m = 0
  · rw [if_pos h0, if_pos h0, hk']
  · rw [if_neg h0, if_neg h0]
    refine congrArg Host.Outcome.next ?_
    change ((s.setKilnAt s.kilnIdx k').setKilnAt s.kilnIdx (kilnDone s.kilnCore d (ev &&& m))).setLines _ _ = _
    rw [setKilnAt_setKilnAt, hev]
    rfl

/-- The packet is listed (R368). -/
def kdispLists (s : State) (q : HQueue) (a i : Nat) (u : State) : State :=
  listed u { die := s.kilnIdx / 4, asid := q.asid, recAddr := a, src := .queue q.id i, origin := some (q.id, i), lr := none, held := none }

theorem startPkt_eq (s : State) (q : HQueue) (i : Nat) (ended : Bool) (cause : Nat) : s.startPkt q i ended cause = started s q i ended cause := by
  have hfresh : (s.meetPkt q.asid q.hdr i).fresh = s.fresh := by simp only [State.meetPkt, State.meetRead_fresh]
  simp only [State.startPkt, started, hfresh, word_natCast]
  rfl

theorem kdisp_eq {q : HQueue} (ha : (kilnReg s.kilnCore r1).toNat % 64 = 0)
    (hq : s.queueInSlot? (s.kilnIdx / 4) (Claim.fld (kilnReg s.kilnCore r2) 0 5) = some q) :
    let k := s.kilnCore
    let i := Claim.fld (kilnReg k r2) 16 32
    exec (.kdisp r2 r1 d) s = if 1024 ≤ (s.launches.filter fun l => l.die == s.kilnIdx / 4).length ∨ s.kdispOpen q i = false then
        .next (s.setKiln (kilnDone k d 1))
      else .next ((kdispLists s q (kilnReg k r1).toNat i
        (if q.started.any (·.idx == i) then s else started s q i false 0)).setKiln (kilnDone k d 0)) := by
  have hfld (w : Word) (lo n : Nat) : bitsOf w lo n = Claim.fld w lo n := (fld_eq w lo n).symm
  have hcount : s.launchCount (s.kilnIdx / 4) = (s.launches.filter fun l => l.die == s.kilnIdx / 4).length := rfl
  change execKdisp r2 r1 d s = _
  simp only [execKdisp, rd_eq, done_eq, hfld, ha, ne_eq, not_true_eq_false, if_false, hq, hcount, launchLimit, startPkt_eq, Bool.or_eq_true,
    decide_eq_true_eq, Bool.not_eq_true']
  refine ite_congr rfl (fun _ => rfl) fun _ => ?_
  rw [State.setKiln, State.setKiln]
  split
  · rfl
  · rfl

end

/-- A launch packet that has started and comes first of those that wait may be dispatched; one that has not started where it may start and none waits. -/
theorem kdispOpen_iff (s : State) (q : HQueue) (i : Nat) : s.kdispOpen q i = true ↔
    match q.started.find? (·.idx == i) with
    | some p => s.firstUnlisted = some (q, p)
    | none => s.firstUnlisted = none ∧ canStart s q i 1 := by
  rw [State.kdispOpen]
  cases q.started.find? (·.idx == i) with
  | some p => exact beq_iff_eq
  | none => simp [canStart, and_assoc]

theorem kilnWords : Sys2Proof.Claim.KilnWords := by
  unfold Sys2Proof.Claim.KilnWords
  intro r2 r1 d s k die x done trapAt trap
  have h15 (w : Word) : w < 2 ^ 15 ↔ ¬ 2 ^ 15 ≤ w.toNat := by rw [BitVec.lt_def]; simp
  have h36 (w : Word) : w < 2 ^ 36 ↔ ¬ 2 ^ 36 ≤ w.toNat := by rw [BitVec.lt_def]; simp
  have h15' (w : Word) : w ≥ 2 ^ 15 ↔ 2 ^ 15 ≤ w.toNat := by rw [ge_iff_le, BitVec.le_def]; simp
  have h36' (w : Word) : w ≥ 2 ^ 36 ↔ 2 ^ 36 ≤ w.toNat := by rw [ge_iff_le, BitVec.le_def]; simp
  have hfetch := krfet_eq r2 r1 d s
  refine ⟨fun h7 hb => ?_, fun h => ?_, ?_⟩
  · rw [kbfx_eq]
    exact if_neg fun h => h.elim ((h15 _).1 h7) fun h => by rw [show (kilnReg s.kilnCore r2).getLsbD 7 = false from hb] at h; exact absurd h nofun
  · rw [kbfx_eq]
    exact if_pos (h.imp_left (h15' _).1)
  intro missed
  refine ⟨fun h => ?_, fun h64 h => ?_, fun h64 h => ?_, fun hm h64 h hu => ?_, ?_, fun h => ?_, ?_, fun h => ?_, fun h64 h => ?_, fun q h64 hq => ?_⟩
  · rw [hfetch]
    rcases h with h | ⟨n, a, h⟩
    · exact if_pos h
    · simp only [show s.kilnReads (kilnReg s.kilnCore r1).toNat = _ from h]
      exact ite_self _
  · rw [hfetch]
    simp only [show s.kilnReads (kilnReg s.kilnCore r1).toNat = _ from h]
    exact if_neg (not_not.2 h64)
  · rw [hfetch]
    simp only [show s.kilnReads (kilnReg s.kilnCore r1).toNat = _ from h]
    exact if_neg (not_not.2 h64)
  · rw [hfetch]
    simp only [show s.kilnReads (kilnReg s.kilnCore r1).toNat = _ from h, hu, if_true]
    exact if_neg (not_not.2 h64)
  · intro hm h64 h hu hdr i n a
    have hgo := hfetch.trans (if_neg (not_not.2 h64))
    simp only [show s.kilnReads (kilnReg s.kilnCore r1).toNat = _ from h, hu, Bool.false_eq_true, if_false] at hgo
    change _ = if n < 4 ∨ 16 < n then Host.Outcome.next (trap 24 (x r1)) else krfetPkt s (x r1) d i n a at hgo
    have hpkt (h4 : 4 ≤ n) (h16 : n ≤ 16) := hgo.trans (if_neg (show ¬ (n < 4 ∨ 16 < n) by omega))
    refine ⟨fun hn => ?_, fun h4 h16 ha => ?_, fun h4 h16 ha => ?_, fun hp h4 h16 ha hu => ?_, fun hp h4 h16 ha hu => ?_⟩
    · rw [hgo]
      by_cases hb : n < 4 ∨ 16 < n
      · exact if_pos hb
      · obtain ⟨m, b, hmb⟩ := (hn.resolve_left fun h => hb (.inl h)).resolve_left fun h => hb (.inr h)
        rw [if_neg hb, krfetPkt]
        simp only [hmb]
        rfl
    · rw [hpkt h4 h16, krfetPkt]
      simp only [ha]
      rfl
    · rw [hpkt h4 h16, krfetPkt]
      simp only [ha]
    · rw [hpkt h4 h16, krfetPkt]
      simp only [ha, hu, if_true]
      rfl
    · rw [hpkt h4 h16, krfetPkt]
      simp only [ha, hu, Bool.false_eq_true, if_false]
      rfl
  · rw [kswait_eq]
    exact if_pos (h.imp_right (h36' _).1)
  · intro h0 hlt ev
    have hgo := (kswait_eq r1 d s).trans (if_neg (not_or.2 ⟨h0, (h36 _).1 hlt⟩))
    exact ⟨fun h => hgo.trans (if_pos h), fun h => hgo.trans (if_neg h)⟩
  · change execKdisp r2 r1 d s = _
    simp only [execKdisp, rd_eq, trap_eq]
    exact if_pos h
  · change execKdisp r2 r1 d s = _
    have hnone : s.queueInSlot? (s.kilnIdx / 4) (bitsOf (kilnReg s.kilnCore r2) 0 5) = none := by
      rw [show bitsOf (kilnReg s.kilnCore r2) 0 5 = _ from (fld_eq _ 0 5).symm]
      exact h
    simp only [execKdisp, rd_eq, trap_eq, hnone]
    exact if_neg (not_not.2 h64)
  · have hgo := kdisp_eq r2 r1 d s (q := q) h64 hq
    refine ⟨fun hfull => hgo.trans (if_pos (.inl hfull)), ?_⟩
    intro hroom i lists
    replace hgo : exec (.kdisp r2 r1 d) s = if 1024 ≤ (s.launches.filter fun l => l.die == die).length ∨ s.kdispOpen q i = false
      then .next (done s 1) else .next (done (lists (if q.started.any (·.idx == i) then s else started s q i false 0)) 0) := hgo
    refine ⟨fun p hp => ?_, fun hnew => ?_⟩
    · have hopen := (kdispOpen_iff s q i).trans (by rw [hp])
      have hin : q.started.any (·.idx == i) = true := List.any_eq_true.2 ⟨p, List.mem_of_find?_eq_some hp, by simpa using List.find?_some hp⟩
      refine ⟨fun hf => hgo.trans ?_, fun hf => hgo.trans (if_pos (.inr (by simpa using mt hopen.1 hf)))⟩
      rw [if_neg (not_or.2 ⟨not_le.2 hroom, by simpa using hopen.2 hf⟩), if_pos hin]
    · have hfind : q.started.find? (·.idx == i) = none := List.find?_eq_none.2 fun p hp => by simpa using hnew p hp
      have hin : q.started.any (·.idx == i) = false := List.any_eq_false.2 fun p hp => by simpa using hnew p hp
      have hopen := (kdispOpen_iff s q i).trans (by rw [hfind])
      refine ⟨fun hf hc => hgo.trans ?_, fun hf => hgo.trans (if_pos (.inr (by simpa using mt hopen.1 (not_and_or.2 hf))))⟩
      rw [if_neg (not_or.2 ⟨not_le.2 hroom, by simpa using hopen.2 ⟨hf, hc⟩⟩), if_neg (by rw [hin]; decide)]

/-! ### Event lines -/

theorem kilnWake_of_running {s : State} {i : Nat} (h : ∀ k, s.kiln.cores[i]? = some k → k.stalled = none) : s.kilnWake i = s := by
  have hst : (s.kilnAt i).stalled = none := by
    rw [State.kilnAt]
    cases hk : s.kiln.cores[i]? with
    | none => rfl
    | some k => exact h k hk
  rw [State.kilnWake]
  simp only [hst]

theorem kilnWake_takes {s : State} {i r d : Nat} {k : KilnCore} (hk : s.kiln.cores[i]? = some k) (hst : k.stalled = some (32 * r + d)) (hd : d < 32)
    (hd0 : 0 < d) (hgot : s.eventLines (i / 4) &&& k.rd r ≠ 0) :
    s.kilnWake i = { s with kiln := { s.kiln with
      events := s.kiln.events.setIfInBounds (i / 4) (s.eventLines (i / 4) &&& ~~~ k.rd r)
      cores := s.kiln.cores.setIfInBounds i { k with
        x := k.x.setIfInBounds d (s.eventLines (i / 4) &&& k.rd r), pc := k.pc + 4, stalled := none, minstret := k.minstret + 1 } } } := by
  have hat : s.kilnAt i = k := by rw [State.kilnAt, hk]; rfl
  have hreg : (32 * r + d) / 32 = r := by omega
  have hdst : (32 * r + d) % 32 = d := by omega
  have hcut (ev m : Word) : ev &&& ~~~(ev &&& m) = ev &&& ~~~m := by
    rw [BitVec.not_and, BitVec.and_or_distrib_left, BitVec.and_not_self]
    exact BitVec.zero_or
  rw [State.kilnWake]
  simp only [hat, hst, hreg, hdst, if_neg hgot, hcut, KilnCore.done, KilnCore.doneBy, KilnCore.put, if_neg hd0.ne']
  rfl

/-- The four cores of a die are looked at in turn: where one only waits, the others change nothing. -/
theorem foldl_wake_single {s : State} {die i : Nat} {u : State} (hi : i < 4) (hu : s.kilnWake (4 * die + i) = u)
    (hs : ∀ j, j < 4 → j ≠ i → s.kilnWake (4 * die + j) = s) (hu' : ∀ j, j < 4 → j ≠ i → u.kilnWake (4 * die + j) = u) :
    (List.range 4).foldl (fun s j => s.kilnWake (4 * die + j)) s = u := by
  rw [show List.range 4 = [0, 1, 2, 3] from rfl]
  simp only [List.foldl_cons, List.foldl_nil]
  interval_cases i
  · rw [hu, hu' 1 (by decide) (by decide), hu' 2 (by decide) (by decide), hu' 3 (by decide) (by decide)]
  · rw [hs 0 (by decide) (by decide), hu, hu' 2 (by decide) (by decide), hu' 3 (by decide) (by decide)]
  · rw [hs 0 (by decide) (by decide), hs 1 (by decide) (by decide), hu, hu' 3 (by decide) (by decide)]
  · rw [hs 0 (by decide) (by decide), hs 1 (by decide) (by decide), hs 2 (by decide) (by decide), hu]

theorem kilnEvents : Sys2Proof.Claim.KilnEvents := by
  unfold Sys2Proof.Claim.KilnEvents
  intro die line s hdie hline ev
  have hexec : exec (.kswaitWake die line) s = .next (s.eventLine die line) := by
    change execKswaitWake die line s = _
    rw [execKswaitWake, if_neg (by omega)]
  refine ⟨fun hrun => ?_, fun i r d k hi hk hst hd hr hd0 hgot hrun => ?_⟩
  · rw [hexec, State.eventLine]
    refine congrArg Host.Outcome.next (foldl_wake_single (by decide : 0 < 4) ?_ ?_ ?_)
    · exact kilnWake_of_running (s := s.setLines die ev) (hrun 0 (by decide))
    · exact fun j hj _ => kilnWake_of_running (s := s.setLines die ev) (hrun j hj)
    · exact fun j hj _ => kilnWake_of_running (s := s.setLines die ev) (hrun j hj)
  · have hdiv : (4 * die + i) / 4 = die := by omega
    have hlines : (s.setLines die ev).eventLines die = ev := by
      simp [State.setLines, State.eventLines, hdie]
    have hwake := kilnWake_takes (s := s.setLines die ev) hk hst hd hd0 (by rw [hdiv, hlines, BitVec.and_comm]; exact hgot)
    rw [hdiv, hlines] at hwake
    rw [hexec, State.eventLine]
    refine congrArg Host.Outcome.next ((foldl_wake_single hi hwake ?_ fun j hj hji => ?_).trans ?_)
    · exact fun j hj hji => kilnWake_of_running (s := s.setLines die ev) (hrun j hj hji)
    · refine kilnWake_of_running fun y hy => hrun j hj hji y ?_
      rw [← hy]
      exact (Vector.getElem?_setIfInBounds_ne (by omega)).symm
    · simp [State.setLines]

/-- Settles O59: Kiln's extension instructions and its event lines. -/
theorem kiln : Obligations.Kiln := ⟨kilnWords, kilnEvents⟩

end Sys2Proof.Machine
end

section
/-!
SUPPORT. Mapping a host command queue (R366, R371, R372): what the machine takes from the headers of two records of one number.
-/

namespace Sys2Proof.Machine

open Claim

/-! ### What a mapping leaves of the done indexes -/

theorem settleQueue_doneIdx (s : State) (id : Nat) : (s.settleQueue id).queues.map HQueue.doneIdx = s.queues.map HQueue.doneIdx := by
  rw [State.settleQueue]
  cases s.queue? id with
  | none => rfl
  | some q =>
    simp only []
    split
    · rfl
    · rw [State.modQueue, List.map_map]
      exact List.map_congr_left fun x _ => by simp only [Function.comp]; split <;> rfl

/-- Of every record of the number the machine takes the done index that stands in the record's own header. -/
theorem queueMap_doneIdx {id slot : Nat} {s t : State} {q : HQueue} (hq : s.queue? id = some q) (hs : q.slot = none) (hlt : slot < 32)
    (hfree : s.queueInSlot? q.die slot = none) (ht : exec (.queueMap id slot) s = .next t) :
    t.queues.map HQueue.doneIdx = s.queues.map fun x => if x.id = id then hw s x 1 else x.doneIdx := by
  have hexec : exec (.queueMap id slot) s = execQueueMap id slot s := rfl
  simp only [hexec, execQueueMap, hq, hs, hfree, Option.isSome_none, Bool.false_or, Bool.or_false] at ht
  rw [if_neg (by simpa using hlt)] at ht
  rw [← Host.Outcome.next.inj ht, settleQueue_doneIdx, State.modQueue, List.map_map]
  simp only [State.setHdr, State.homeWrite_queues, State.meetRead_queues]
  exact List.map_congr_left fun x _ => by simp only [Function.comp]; split <;> rfl

/-! ### Two records of one number -/

/-- A queue of context 1 with number 0, whose header stands at `hdr`. -/
def queueAt (hdr : Nat) : HQueue :=
  { id := 0, die := 0, hdr := hdr, asid := placedAsid, st := .created, slot := none, since := 0, listed := false, tokens := 0, doneIdx := 0, started := [] }

/-- Two queues of number 0: the done index in the first one's header is 1, in the second one's 0. -/
def twinQueues : State :=
  let s := State.reset.withThread .runnable
  { s with
    queues := [queueAt 0, queueAt 64]
    mem := { s.mem with
      bytes := cellsWriteN (physKey 0 (256 * 2 ^ 12 + 8)) 1 8 []
      tlb := [{ die := 0, asid := placedAsid, base := 0, size := 2 ^ 12, entry := placedLeaf }] } }

theorem twinQueues_words : hw twinQueues (queueAt 0) 1 = 1 ∧ hw twinQueues (queueAt 64) 1 = 0 := by decide

/-- Refutes O57: of two records of one number a mapping gives each the done index of its own header, and not that of the record it finds first. -/
theorem not_commandAndBulkQueues : ¬ Obligations.CommandAndBulkQueues := by
  unfold Obligations.CommandAndBulkQueues
  rintro ⟨hslots, -⟩
  have hq : twinQueues.queue? 0 = some (queueAt 0) := rfl
  have hmap := hslots.2.1 0 0 twinQueues (queueAt 0) hq rfl (by decide) rfl
  have hdone := queueMap_doneIdx hq rfl (by decide) rfl hmap
  obtain ⟨h0, h64⟩ := twinQueues_words
  rw [settleQueue_doneIdx] at hdone
  simp only [modQ, putHw, State.homeWrite_queues, State.meetRead_queues, List.map_map] at hdone
  have htwo : twinQueues.queues = [queueAt 0, queueAt 64] := rfl
  rw [htwo] at hdone
  have hsnd := congrArg (fun l : List Nat => l[1]?) hdone
  have hlast : some (hw twinQueues (queueAt 0) 1) = some (hw twinQueues (queueAt 64) 1) := hsnd
  rw [h0, h64] at hlast
  exact absurd hlast (by decide)

end Sys2Proof.Machine
end

section
/-!
SUPPORT. Page commands, the driver and the host (R355 to R364).
-/

namespace Sys2Proof.Machine

open Claim

/-! ### The words of a command -/

theorem word_natCast_toNat {n : Nat} (h : n < 2 ^ 64) : (word (n : Nat)).toNat = n := by
  rw [word_natCast, BitVec.toNat_ofNat, Nat.mod_eq_of_lt h]

theorem cmdWord_toNat {code asid : Nat} (hc : code < 2 ^ 8) (ha : asid < 2 ^ 16) : (cmdWord code asid).toNat = code + asid * 2 ^ 16 :=
  word_natCast_toNat (by omega)

theorem cmdAsid_cmdWord {code asid : Nat} (hc : code < 2 ^ 8) (ha : asid < 2 ^ 16) : cmdAsid (cmdWord code asid) = asid := by
  rw [cmdAsid, bitsOf, cmdWord_toNat hc ha]
  omega

theorem cmdBad_cmdWord {code asid : Nat} (hc : code < 2 ^ 8) (ha : asid < 2 ^ 16) : cmdBad code (cmdWord code asid) = false := by
  simp only [cmdBad, bitsOf, cmdWord_toNat hc ha, Bool.or_eq_false_iff, bne_eq_false_iff_eq]
  refine ⟨⟨?_, ?_⟩, ?_⟩ <;> omega

theorem bitsOf_eq_fld (w : Word) (lo n : Nat) : bitsOf w lo n = Claim.fld w lo n := (fld_eq w lo n).symm

theorem cmdBad_of {code : Nat} {w : Word} (h : Claim.fld w 0 8 ≠ code ∨ Claim.fld w 8 8 ≠ 0 ∨ Claim.fld w 32 32 ≠ 0) : cmdBad code w = true := by
  simp only [cmdBad, bitsOf_eq_fld, Bool.or_eq_true, bne_iff_ne]
  tauto

theorem decide_le_eq_false {a b : Nat} (h : b < a) : decide (a ≤ b) = false := decide_eq_false (by omega)

theorem orPageHole_of_reaches {s : State} {w3 : Word} (h : reaches s w3) (t : Out) : s.orPageHole w3 t = t := by
  unfold State.orPageHole
  split
  · next hw => split
               · next n a hp => exact absurd hp (h hw n a)
               · rfl
  · rfl

/-! ### The ring of commands -/

theorem not_heldUpTo_zero (o : Option Nat) : heldUpTo 0 o = false := by
  cases o with
  | none => rfl
  | some q => exact decide_eq_false (by omega)

theorem not_heldBelow_zero (s : State) (asid : Nat) : s.heldBelow asid 0 = false := by
  simp [State.heldBelow, not_heldUpTo_zero]

theorem not_pagePending_pageCmd {s : State} {w3 : Word} (words : List Nat) (h : w3.toNat < 2 ^ 52 → s.placeOf 0 w3.toNat ≠ .wait) :
    s.pagePending (pageCmd w3 words) = false := by
  simp only [State.pagePending, pageCmd, not_heldBelow_zero]
  simp only [Option.isSome_none, List.any_nil, Bool.or_self, Bool.false_or, Bool.and_eq_false_imp, beq_eq_false_iff_ne]
  exact fun hd => h (of_decide_eq_true hd)

theorem endPageCmd_pageCmd {s : State} {w3 : Word} (words : List Nat) (he : s.kiln.pages = [])
    (h : w3.toNat < 2 ^ 52 → s.placeOf 0 w3.toNat ≠ .wait) : s.endPageCmd (pageCmd w3 words) = completed s w3 words := by
  rw [State.endPageCmd, he, List.nil_append, servePages, if_neg (by simp [not_pagePending_pageCmd words h])]
  rfl

theorem endPageCmd_of_pending {s : State} {c : PageCmd} {rest : List PageCmd} (he : s.kiln.pages = c :: rest) (h : s.pagePending c = true) (c1 : PageCmd) :
    s.endPageCmd c1 = { s with kiln := { s.kiln with pages := c :: rest ++ [c1] } } := by
  rw [State.endPageCmd, he, List.cons_append, servePages, if_pos h]

/-! ### Commands of a leaf -/

section
variable {s : State} {asid : Nat} {w1 : Word} (ha : asid < 2 ^ 16)
include ha

/-- MOVE of a well-formed word goes by what the firmware finds of its page. -/
theorem moveCmd_eq (w2 w3 : Word) (hva : w1.toNat < 2 ^ 52) : s.moveCmd (cmdWord 3 asid) w1 w2 w3 = s.withLeaf (cmdWord 3 asid) w1 fun l =>
    if s.moveBad l w2 then .refused (s.refuseCmd (cmdWord 3 asid) w1)
    else if !s.frameExists (peNode l.entry) (peFrame l.entry * 2 ^ 12 + l.size - 64) then
      .hole (peNode l.entry) (peFrame l.entry * 2 ^ 12 + l.size - 64)
    else if !s.moveOpen l w2 then .wait
    else match s.movePage asid w1.toNat l w2 with
      | (s1, none) => .done s1 (cmdDone w3)
      | (s1, some a) => .done (s1.hostEvent evMoveAborted asid a) (cmdDone w3) := by
  simp only [State.moveCmd, cmdBad_cmdWord (code := 3) (by decide) ha, cmdAsid_cmdWord (code := 3) (by decide) ha, decide_le_eq_false hva,
    Bool.or_self, Bool.false_eq_true, if_false] <;> rfl

theorem biasCmd_eq (w2 w3 : Word) (hva : w1.toNat < 2 ^ 52) (h2 : w2.toNat ≤ 1) :
    s.biasCmd (cmdWord 4 asid) w1 w2 w3 = s.withLeaf (cmdWord 4 asid) w1 fun l =>
    let s1 := if w2 = 1 then s.purgeRange asid l.base l.size else s
    let e := if w2 = 1 then l.entry ||| (1#64 <<< 14) else l.entry &&& ~~~(1#64 <<< 14)
    let s3 := ({ s1 with mem := s1.mem.writeLeaf l w1.toNat e } : State).invalRange asid l.base l.size
    .done s3 { cmdDone w3 with wts := s3.leftIn asid l.base l.size } := by
  simp only [State.biasCmd, cmdBad_cmdWord (code := 4) (by decide) ha, cmdAsid_cmdWord (code := 4) (by decide) ha, decide_le_eq_false hva,
    decide_eq_false (show ¬ 1 < w2.toNat by omega), Bool.or_self, Bool.false_eq_true, if_false]

theorem withLeaf_of_leaf {code : Nat} (hc : code < 2 ^ 8) (f : Leaf → CmdRes) {l : Leaf} (h : s.leaf? asid w1.toNat = .leaf l) :
    s.withLeaf (cmdWord code asid) w1 f = f l := by
  rw [State.withLeaf, cmdAsid_cmdWord hc ha, h]

theorem withLeaf_of_none {code : Nat} (hc : code < 2 ^ 8) (f : Leaf → CmdRes) (h : s.leaf? asid w1.toNat = .none) :
    s.withLeaf (cmdWord code asid) w1 f = .refused (s.hostEvent evPageRefused asid w1.toNat) := by
  rw [State.withLeaf, State.refuseCmd, cmdAsid_cmdWord hc ha, h]

theorem withLeaf_of_bad {code : Nat} (hc : code < 2 ^ 8) (f : Leaf → CmdRes) {n a : Nat} (h : s.leaf? asid w1.toNat = .bad n a) :
    s.withLeaf (cmdWord code asid) w1 f = .refused ((s.meetLine n a).hostEvent evPageRefused asid w1.toNat) := by
  rw [State.withLeaf, cmdAsid_cmdWord hc ha, h]
  exact congrArg CmdRes.refused (by rw [State.refuseCmd, cmdAsid_cmdWord hc ha])

theorem withLeaf_of_wait {code : Nat} (hc : code < 2 ^ 8) (f : Leaf → CmdRes) (h : s.leaf? asid w1.toNat = .wait) :
    s.withLeaf (cmdWord code asid) w1 f = .wait := by
  rw [State.withLeaf, cmdAsid_cmdWord hc ha, h]

end

/-! ### The bitmap entry of a frame (R357) -/

theorem wordsOf_eq (v n : Nat) : wordsOf v n = (List.range n).map fun i => v / 2 ^ (64 * i) % 2 ^ 64 := by
  induction n generalizing v with
  | zero => rfl
  | succ n ih =>
    rw [wordsOf, ih, List.range_succ_eq_map, List.map_cons, List.map_map]
    refine congrArg₂ _ (by simp) (List.map_congr_left fun i _ => ?_)
    rw [Function.comp_apply, Nat.div_div_eq_div_mul, ← pow_add, Nat.mul_succ, Nat.add_comm]

/-- The bitmap entry of a frame of a die belongs to that die's table. -/
theorem frame_div {die p : Nat} (hp : p < 2 ^ 40) : physKey die (p * 2 ^ 12) / 2 ^ 21 / 2 ^ 31 = die := by
  unfold physKey
  omega

theorem frame_mod {die p : Nat} (hp : p < 2 ^ 36) : physKey die (p * 2 ^ 12) / 2 ^ 21 % 2 ^ 31 = p / 512 := by
  unfold physKey
  omega

/-! ### Bytes that the host writes -/

theorem cellsRead_writeBytes (a : Nat) (bs : List Byte) (m : List Host.Cell) (k : Nat) :
    cellsRead (writeBytes a bs m) k = if h : a ≤ k ∧ k - a < bs.length then bs[k - a] else cellsRead m k := by
  induction bs generalizing a m with
  | nil => simp [writeBytes]
  | cons b bs ih =>
    rw [writeBytes, ih, cellsRead_cellsWrite]
    by_cases h : a + 1 ≤ k ∧ k - (a + 1) < bs.length
    · obtain ⟨i, rfl⟩ : ∃ i, k = a + 1 + i := ⟨k - (a + 1), by omega⟩
      have hi : i < bs.length := by omega
      have e : a + 1 + i - a = i + 1 := by omega
      have e1 : a + 1 + i - (a + 1) = i := by omega
      rw [dif_pos h, dif_pos ⟨by omega, by simp only [e, List.length_cons]; omega⟩]
      simp only [e, e1, List.getElem_cons_succ]
    · rw [dif_neg h]
      by_cases hk : k = a
      · subst hk; simp
      · rw [if_neg hk, dif_neg (by simp only [List.length_cons]; omega)]

/-- The side table of a die that the driver has placed holds no byte at a place. -/
def offSide (m : Mem) (node k : Nat) : Prop :=
  ∀ base, m.sideAt node = some base → ¬ (physKey node base ≤ k ∧ k < physKey node base + 64 * 81920)

theorem setDirty_sideAt (m : Mem) (e v node : Nat) : (m.setDirty e v).sideAt node = m.sideAt node := by
  unfold Mem.setDirty
  split <;> rfl

theorem markDirty_sideAt (m : Mem) (h : Home) (node : Nat) : (m.markDirty h).sideAt node = m.sideAt node := by
  unfold Mem.markDirty
  split
  · exact setDirty_sideAt _ _ _ _
  · rfl

/-- Marking a frame of a die writes no byte outside the die's side table. -/
theorem cellsRead_markDirty {m : Mem} {h : Home} {k : Nat} (hk : offSide m h.node k) (ha : h.addr < 160 * 2 ^ 30) :
    cellsRead (m.markDirty h).bytes k = cellsRead m.bytes k := by
  unfold Mem.markDirty
  split
  · have hd : physKey h.node h.addr / 2 ^ 21 / 2 ^ 31 = h.node := by unfold physKey; omega
    have hm : physKey h.node h.addr / 2 ^ 21 % 2 ^ 31 < 81920 := by unfold physKey; omega
    simp only [Mem.setDirty, hd]
    split
    · next base hb =>
      refine cellsRead_cellsWriteN_other _ _ _ _ _ ?_
      have := hk base hb
      unfold physKey at this ⊢
      omega
    · rfl
  · rfl

theorem setMeta_frame (m : Mem) (f : Mem → Nat → Mem) (hb : ∀ m i, (f m i).bytes = m.bytes ∧ (f m i).sideBase = m.sideBase) (l : List Nat) :
    (l.foldl f m).bytes = m.bytes ∧ (l.foldl f m).sideBase = m.sideBase := by
  induction l generalizing m with
  | nil => exact ⟨rfl, rfl⟩
  | cons i l ih => exact ⟨(ih _).1.trans (hb m i).1, (ih _).2.trans (hb m i).2⟩

theorem dataKinds_frame (m : Mem) (node addr n : Nat) :
    (m.dataKinds node addr n).bytes = m.bytes ∧ (m.dataKinds node addr n).sideBase = m.sideBase := by
  unfold Mem.dataKinds
  split
  · exact ⟨rfl, rfl⟩
  · exact setMeta_frame m (fun m i => m.setMeta node ((addr / 64 + i) * 64) (kindsOver (m.metaAt node ((addr / 64 + i) * 64)) 0
      (max addr ((addr / 64 + i) * 64) - (addr / 64 + i) * 64)
      (min (addr + n) ((addr / 64 + i) * 64 + 64) - max addr ((addr / 64 + i) * 64)))) (fun _ _ => ⟨rfl, rfl⟩) _

theorem cellsRead_foldl_markDirty {node k : Nat} (home : Nat → Home) (l : List Nat) (hn : ∀ i ∈ l, (home i).node = node ∧ (home i).addr < 160 * 2 ^ 30)
    (m : Mem) (hk : offSide m node k) :
    cellsRead (l.foldl (fun m i => m.markDirty (home i)) m).bytes k = cellsRead m.bytes k := by
  induction l generalizing m with
  | nil => rfl
  | cons i l ih =>
    obtain ⟨hi, ha⟩ := hn i List.mem_cons_self
    rw [List.foldl_cons, ih (fun j hj => hn j (List.mem_cons_of_mem _ hj)) _ (by intro b hb; rw [markDirty_sideAt] at hb; exact hk b hb),
      cellsRead_markDirty (by rw [hi]; exact hk) ha]

theorem cellsRead_dirtyRange {m : Mem} {node addr n k : Nat} (x : Nat) (hk : offSide m node k) (ha : addr + (n - 1) < 160 * 2 ^ 30) :
    cellsRead (m.dirtyRange x node addr n).bytes k = cellsRead m.bytes k := by
  unfold Mem.dirtyRange
  split
  · rfl
  · refine cellsRead_foldl_markDirty (node := node)
      (fun i => { node := node, addr := (addr / 2 ^ 12 + i) * 2 ^ 12, entry := 0, size := 2 ^ 12, big := Config.hostPageBig x (addr / 2 ^ 12 + i) }) _
      (fun i hi => ⟨rfl, ?_⟩) m hk
    have := List.mem_range.1 hi
    show (addr / 2 ^ 12 + i) * 2 ^ 12 < _
    omega

theorem frameExists_lt {s : State} {node addr : Nat} (hn : node < 4) (h : s.frameExists node addr = true) : addr < 160 * 2 ^ 30 := by
  rw [State.frameExists, dif_pos hn] at h
  have := of_decide_eq_true h
  exact this.trans_le (Nat.mul_le_mul_right _ (Nat.sub_le _ _))

theorem hostPut_bytes {s : State} {node addr k : Nat} {data : List Byte} (ha : node < 4 → addr + (data.length - 1) < 160 * 2 ^ 30)
    (hk : node < 4 → offSide s.mem node k) : cellsRead (s.hostPut node addr data).mem.bytes k =
      if h : physKey node addr ≤ k ∧ k - physKey node addr < data.length then data[k - physKey node addr] else cellsRead s.mem.bytes k := by
  rw [← cellsRead_writeBytes]
  unfold State.hostPut
  by_cases hn : node < 4
  · obtain ⟨hb, hs⟩ := dataKinds_frame { s.mem with bytes := writeBytes (physKey node addr) data s.mem.bytes } node addr data.length
    simp only [if_pos hn]
    rw [cellsRead_dirtyRange _ (fun b h => hk hn b (by rw [← h, Mem.sideAt, Mem.sideAt, hs])) (ha hn), hb]
  · simp only [if_neg hn]

/-! ### Lines that the host reads -/

theorem mem_setInsert {a k : Nat} {l : List Nat} : k ∈ setInsert a l ↔ k = a ∨ k ∈ l := by
  induction l with
  | nil => simp [setInsert]
  | cons b l ih =>
    unfold setInsert
    split
    · simp
    · split
      · next h => subst h; simp
      · simp only [List.mem_cons, ih]; tauto

/-- A read of some lines that changes nothing but what it finds unreadable there. -/
def MeetsIn (inRange : Nat → Prop) (s t : State) : Prop :=
  ∃ p l, t = { s with mem := { s.mem with poison := p, latent := l } } ∧ (∀ k ∈ s.mem.poison, k ∈ p) ∧
    ∀ k ∈ s.mem.latent, k ∉ l → k ∈ p ∧ inRange k

theorem MeetsIn.refl (r : Nat → Prop) (s : State) : MeetsIn r s s := ⟨_, _, rfl, fun _ h => h, fun _ h hn => absurd h hn⟩

theorem MeetsIn.trans {r : Nat → Prop} {s t u : State} (h : MeetsIn r s t) (g : MeetsIn r t u) : MeetsIn r s u := by
  obtain ⟨p, l, rfl, hp, hl⟩ := h
  obtain ⟨p', l', rfl, hp', hl'⟩ := g
  refine ⟨p', l', rfl, fun k hk => hp' k (hp k hk), fun k hk hn => ?_⟩
  by_cases hkl : k ∈ l
  · exact hl' k hkl hn
  · exact ⟨hp' k (hl k hk hkl).1, (hl k hk hkl).2⟩

theorem meetLine_meetsIn (s : State) {r : Nat → Prop} {node addr : Nat} (h : r (lineKey node addr)) : MeetsIn r s (s.meetLine node addr) := by
  unfold State.meetLine
  dsimp only
  split
  · refine ⟨_, _, rfl, fun k hk => mem_setInsert.2 (.inr hk), fun k hk hn => ?_⟩
    have hke : k = lineKey node addr := by
      by_contra hne
      exact hn (List.mem_filter.2 ⟨hk, bne_iff_ne.2 hne⟩)
    exact ⟨mem_setInsert.2 (.inl hke), hke ▸ h⟩
  · exact MeetsIn.refl _ _

theorem foldl_meetsIn {r : Nat → Prop} (f : State → Nat → State) (l : List Nat) (hf : ∀ s, ∀ i ∈ l, MeetsIn r s (f s i)) (s : State) :
    MeetsIn r s (l.foldl f s) := by
  induction l generalizing s with
  | nil => exact MeetsIn.refl _ _
  | cons i l ih => exact (hf s i List.mem_cons_self).trans (ih (fun s j hj => hf s j (List.mem_cons_of_mem _ hj)) _)

theorem meetRange_meetsIn (s : State) (node addr n : Nat) :
    MeetsIn (fun k => lineKey node addr ≤ k ∧ k ≤ lineKey node (addr + (n - 1))) s (s.meetRange node addr n) := by
  unfold State.meetRange
  split
  · exact MeetsIn.refl _ _
  · refine foldl_meetsIn _ _ (fun s i hi => meetLine_meetsIn s ?_) s
    have := List.mem_range.1 hi
    dsimp only [lineKey, physKey]
    constructor <;> omega

/-! ### Page commands -/

section
variable {s : State} {asid : Nat} {w1 w2 w3 : Word} (ha : asid < 2 ^ 16)
include ha

theorem moveAndBias_stopped (hva : w1.toNat < 2 ^ 52) :
    let refused (u : State) : State := u.hostEvent evPageRefused asid w1.toNat
    let held (code : Nat) : State := s.endPageCmd { pageCmd w3 [1] with todo := some (cmdWord code asid, w1, w2, w3) }
    (s.leaf? asid w1.toNat = .none → exec (.move (cmdWord 3 asid) w1 w2 w3) s = .next (refused s) ∧
      (w2.toNat ≤ 1 → exec (.bias (cmdWord 4 asid) w1 w2 w3) s = .next (refused s))) ∧
    (∀ n a, s.leaf? asid w1.toNat = .bad n a → exec (.move (cmdWord 3 asid) w1 w2 w3) s = .next (refused (s.meetLine n a)) ∧
      (w2.toNat ≤ 1 → exec (.bias (cmdWord 4 asid) w1 w2 w3) s = .next (refused (s.meetLine n a)))) ∧
    (reaches s w3 → s.leaf? asid w1.toNat = .wait → exec (.move (cmdWord 3 asid) w1 w2 w3) s = .next (held 3) ∧
      (w2.toNat ≤ 1 → exec (.bias (cmdWord 4 asid) w1 w2 w3) s = .next (held 4))) := by
  intro refused held
  have move : exec (.move (cmdWord 3 asid) w1 w2 w3) s = s.serveCmd _ w1 w2 w3 (s.moveCmd (cmdWord 3 asid) w1 w2 w3) := rfl
  have bias : exec (.bias (cmdWord 4 asid) w1 w2 w3) s = s.serveCmd _ w1 w2 w3 (s.biasCmd (cmdWord 4 asid) w1 w2 w3) := rfl
  rw [move, bias, moveCmd_eq ha _ _ hva]
  refine ⟨fun h => ?_, fun n a h => ?_, fun hr h => ?_⟩
  · rw [withLeaf_of_none ha (by decide) _ h]
    exact ⟨rfl, fun h2 => by rw [biasCmd_eq ha _ _ hva h2, withLeaf_of_none ha (by decide) _ h]; rfl⟩
  · rw [withLeaf_of_bad ha (by decide) _ h]
    exact ⟨rfl, fun h2 => by rw [biasCmd_eq ha _ _ hva h2, withLeaf_of_bad ha (by decide) _ h]; rfl⟩
  · rw [withLeaf_of_wait ha (by decide) _ h]
    exact ⟨orPageHole_of_reaches hr _, fun h2 => by
      rw [biasCmd_eq ha _ _ hva h2, withLeaf_of_wait ha (by decide) _ h]; exact orPageHole_of_reaches hr _⟩

theorem inval_purge (hr : reaches s w3) (hva : w1.toNat < 2 ^ 52) :
    let ranged (u : State) (a n : Nat) : State :=
      u.endPageCmd { pageCmd w3 [1] with wts := (u.mem.wts.filter fun w => lineIn asid a n w.asid w.line).map WriteThrough.id }
    exec (.inval (cmdWord 1 asid) w1 w2 w3) s = .next (ranged (s.invalRange asid w1.toNat w2.toNat) w1.toNat w2.toNat).pump ∧
    exec (.purge (cmdWord 2 asid) w1 w2 w3) s = .next (ranged (s.purgeRange asid w1.toNat w2.toNat) w1.toNat w2.toNat).pump := by
  intro ranged
  constructor
  · change execInval _ w1 w2 w3 s = _
    rw [execInval, cmdBad_cmdWord (by decide) ha, decide_le_eq_false hva, if_neg (by decide), orPageHole_of_reaches hr, cmdAsid_cmdWord (by decide) ha]
    rfl
  · change execPurge _ w1 w2 w3 s = _
    rw [execPurge, cmdBad_cmdWord (by decide) ha, decide_le_eq_false hva, if_neg (by decide), orPageHole_of_reaches hr, cmdAsid_cmdWord (by decide) ha]
    rfl

theorem move_of_leaf (hr : reaches s w3) {l : Leaf} (hl : s.leaf? asid w1.toNat = .leaf l) (hva : w1.toNat < 2 ^ 52) (hb : s.moveBad l w2 = false)
    (hf : s.frameExists (peNode l.entry) (peFrame l.entry * 2 ^ 12 + l.size - 64) = true) :
    (s.moveOpen l w2 = false → exec (.move (cmdWord 3 asid) w1 w2 w3) s =
      .next (s.endPageCmd { pageCmd w3 [1] with todo := some (cmdWord 3 asid, w1, w2, w3) })) ∧
    (∀ u, s.moveOpen l w2 = true → s.movePage asid w1.toNat l w2 = (u, none) →
      exec (.move (cmdWord 3 asid) w1 w2 w3) s = .next (u.endPageCmd (pageCmd w3 [1])).pump) ∧
    ∀ u a, s.moveOpen l w2 = true → s.movePage asid w1.toNat l w2 = (u, some a) →
      exec (.move (cmdWord 3 asid) w1 w2 w3) s = .next ((u.hostEvent evMoveAborted asid a).endPageCmd (pageCmd w3 [1])).pump := by
  have move : exec (.move (cmdWord 3 asid) w1 w2 w3) s = s.serveCmd _ w1 w2 w3 (s.moveCmd (cmdWord 3 asid) w1 w2 w3) := rfl
  rw [move, moveCmd_eq ha _ _ hva, withLeaf_of_leaf ha (by decide) _ hl, if_neg (by simp [hb]), if_neg (by rw [hf]; decide)]
  refine ⟨fun ho => ?_, fun u ho hm => ?_, fun u a ho hm => ?_⟩
  · rw [if_pos (by simp [ho])]
    exact orPageHole_of_reaches hr _
  · rw [if_neg (by simp [ho]), hm]
    exact orPageHole_of_reaches hr _
  · rw [if_neg (by simp [ho]), hm]
    exact orPageHole_of_reaches hr _

theorem bias_of_leaf (hr : reaches s w3) {l : Leaf} (hl : s.leaf? asid w1.toNat = .leaf l) (hva : w1.toNat < 2 ^ 52) :
    let ranged (u : State) (a n : Nat) : State :=
      u.endPageCmd { pageCmd w3 [1] with wts := (u.mem.wts.filter fun w => lineIn asid a n w.asid w.line).map WriteThrough.id }
    (w2 = 1 → let u := s.purgeRange asid l.base l.size
      exec (.bias (cmdWord 4 asid) w1 w2 w3) s = .next (ranged (({ u with mem := u.mem.writeLeaf l w1.toNat (l.entry ||| 0x4000) } : State).invalRange
        asid l.base l.size) l.base l.size).pump) ∧
    (w2 = 0 → exec (.bias (cmdWord 4 asid) w1 w2 w3) s = .next (ranged (({ s with mem := s.mem.writeLeaf l w1.toNat (l.entry &&& ~~~0x4000) } :
      State).invalRange asid l.base l.size) l.base l.size).pump) := by
  intro ranged
  have bias : exec (.bias (cmdWord 4 asid) w1 w2 w3) s = s.serveCmd _ w1 w2 w3 (s.biasCmd (cmdWord 4 asid) w1 w2 w3) := rfl
  have bit : (1#64 <<< 14) = 0x4000 := by decide
  constructor
  · intro h2 u
    rw [bias, biasCmd_eq ha _ _ hva (by rw [h2]; decide), withLeaf_of_leaf ha (by decide) _ hl, if_pos h2, if_pos h2, bit]
    exact orPageHole_of_reaches hr _
  · intro h2
    rw [bias, biasCmd_eq ha _ _ hva (by rw [h2]; decide), withLeaf_of_leaf ha (by decide) _ hl, if_neg (by rw [h2]; decide), if_neg (by rw [h2]; decide), bit]
    exact orPageHole_of_reaches hr _

theorem replay_deny (hr : reaches s w3) (hx : s.ctx? asid ≠ none) :
    exec (.replay (cmdWord 5 asid) w1 w2 w3) s = .next ((s.replay asid w2.toNat).endPageCmd
      { pageCmd w3 [1] with asid := asid, upTo := w2.toNat, waits := (s.heldOps asid w2.toNat).filter fun i => s.walks.all fun w => w.op != i }).pump ∧
    (w1.toNat < 2 ^ 52 → w2 = 0 →
      exec (.deny (cmdWord 6 asid) w1 w2 w3) s = .next ((s.deny asid (w1.toNat / 4096)).endPageCmd (pageCmd w3 [1])).pump) := by
  have hx1 : (s.ctx? asid).isNone = false := Option.isNone_eq_false_iff.2 (Option.isSome_iff_ne_none.2 hx)
  constructor
  · change execReplay _ w1 w2 w3 s = _
    rw [execReplay, cmdBad_cmdWord (by decide) ha, cmdAsid_cmdWord (by decide) ha, hx1, if_neg (by decide)]
    exact orPageHole_of_reaches hr _
  · intro hva h2
    change execDeny _ w1 w2 w3 s = _
    rw [execDeny, cmdBad_cmdWord (by decide) ha, cmdAsid_cmdWord (by decide) ha, hx1, decide_le_eq_false hva, h2, if_neg (by decide)]
    exact orPageHole_of_reaches hr _

/-- DGET of a well-formed word whose entry can be reached or not. -/
theorem dgetCmd_eq (h1 : w1.toNat < 2 ^ 36) (h2 : w2.toNat < 4) : s.dgetCmd (cmdWord 7 asid) w1 w2 w3 =
    let e := physKey w2.toNat (w1.toNat * 2 ^ 12) / 2 ^ 21
    let s1 := s.meetSide w2.toNat e
    if !s.sideOpen w2.toNat then .wait
    else .done { s1 with mem := s1.mem.setDirty e 0 } { cmdDone w3 with words := wordsOf (s.mem.dirtyOf e) 8 } := by
  rw [State.dgetCmd, cmdBad_cmdWord (by decide) ha, decide_eq_false (by omega : ¬ (2 ^ 36 ≤ w1.toNat ∨ 4 ≤ w2.toNat)), if_neg (by decide)]

theorem dget_answers (hr : reaches s w3) (h1 : w1.toNat < 2 ^ 36) (h2 : w2.toNat < 4) :
    let die := w2.toNat
    let e := physKey die (w1.toNat * 4096) / 2 ^ 21
    let answers (v : Nat) (m : Mem) : Prop := exec (.dget (cmdWord 7 asid) w1 w2 w3) s =
      .next (({ s with mem := m } : State).endPageCmd (pageCmd w3 ((List.range 8).map fun i => v / 2 ^ (64 * i) % 2 ^ 64))).pump
    (s.mem.sideAt die = none →
      answers (((s.mem.dirtyMap.find? fun x => x.1 == e).map (·.2)).getD 0) { s.mem with dirtyMap := s.mem.dirtyMap.filter fun x => x.1 != e }) ∧
    ∀ base, s.mem.sideAt die = some base →
      let a := base + 64 * (w1.toNat / 512)
      (s.stackTrained die base = true → answers (s.mem.rd die a 64) ((s.meetLine die a).mem.wr die a 64 0)) ∧
      (s.stackTrained die base = false → exec (.dget (cmdWord 7 asid) w1 w2 w3) s =
        .next (s.endPageCmd { pageCmd w3 [1] with todo := some (cmdWord 7 asid, w1, w2, w3) })) := by
  intro die e answers
  have dget : exec (.dget (cmdWord 7 asid) w1 w2 w3) s = s.serveCmd _ w1 w2 w3 (s.dgetCmd (cmdWord 7 asid) w1 w2 w3) := rfl
  have hd : e / 2 ^ 31 = die := frame_div (by omega)
  have hm : e % 2 ^ 31 = w1.toNat / 512 := frame_mod h1
  have he : physKey w2.toNat (w1.toNat * 2 ^ 12) / 2 ^ 21 = e := rfl
  have words := wordsOf_eq
  simp only [answers, dget, dgetCmd_eq ha h1 h2, he, words]
  refine ⟨fun hn => ?_, fun base hb => ⟨fun ht => ?_, fun ht => ?_⟩⟩
  · have ho : s.sideOpen w2.toNat = true := by rw [State.sideOpen, hn]
    have hms : s.meetSide w2.toNat e = s := by rw [State.meetSide, hn]
    rw [if_neg (by simp [ho]), hms, Mem.dirtyOf, Mem.setDirty, hd, hn]
    exact orPageHole_of_reaches hr _
  · have ho : s.sideOpen w2.toNat = true := by rw [State.sideOpen, hb]; exact ht
    have hms : s.meetSide w2.toNat e = s.meetLine die (base + 64 * (w1.toNat / 512)) := by rw [State.meetSide, hb, hm]
    have hsa : (s.meetLine die (base + 64 * (w1.toNat / 512))).mem.sideAt die = some base := by
      unfold State.meetLine; dsimp only; split <;> exact hb
    have hsm : ∀ m : Mem, ({ s.meetLine die (base + 64 * (w1.toNat / 512)) with mem := m } : State) = { s with mem := m } := by
      intro m; unfold State.meetLine; dsimp only; split <;> rfl
    rw [if_neg (by simp [ho]), hms, Mem.dirtyOf, Mem.setDirty, hd, hb, hsa, hm, hsm]
    exact orPageHole_of_reaches hr _
  · have ho : s.sideOpen w2.toNat = false := by rw [State.sideOpen, hb]; exact ht
    rw [if_pos (by simp [ho])]
    exact orPageHole_of_reaches hr _

theorem scrub_ends (hr : reaches s w3) :
    let die := Claim.fld w1 36 2
    let a := Claim.fld w1 0 36 * 4096
    let n := w2.toNat * 4096
    Claim.fld w1 38 26 = 0 → w2 = 0 ∨ s.frameExists die (a + n - 64) = true →
      (w2 = 0 ∨ (s.stackTrained die a = true ∧ s.stackTrained die (a + n - 64) = true) →
        exec (.scrub (cmdWord 8 asid) w1 w2 w3) s = .next ({ s with mem := s.mem.scrub (physKey die a) n }.endPageCmd (pageCmd w3 [1])).pump) ∧
      (w2 ≠ 0 → ¬ (s.stackTrained die a = true ∧ s.stackTrained die (a + n - 64) = true) →
        exec (.scrub (cmdWord 8 asid) w1 w2 w3) s = .next (s.endPageCmd { pageCmd w3 [1] with todo := some (cmdWord 8 asid, w1, w2, w3) })) := by
  intro die a n h0 hf
  have scrub : exec (.scrub (cmdWord 8 asid) w1 w2 w3) s = s.serveCmd _ w1 w2 w3 (s.scrubCmd (cmdWord 8 asid) w1 w2 w3) := rfl
  have hz : w2 = 0 ↔ n = 0 := by
    rw [← BitVec.toNat_inj]
    show w2.toNat = 0 ↔ w2.toNat * 4096 = 0
    omega
  have bad : (cmdBad 8 (cmdWord 8 asid) || Claim.fld w1 38 26 != 0 || (n != 0 && !s.frameExists die (a + n - 64))) = false := by
    rw [cmdBad_cmdWord (by decide) ha, h0]
    rcases hf with h | h
    · simp [hz.1 h]
    · simp [h]
  have eq : s.scrubCmd (cmdWord 8 asid) w1 w2 w3 = if n != 0 && !(s.stackTrained die a && s.stackTrained die (a + n - 64)) then .wait
      else .done { s with mem := s.mem.scrub (physKey die a) n } (cmdDone w3) := by
    simp only [State.scrubCmd, bitsOf_eq_fld]
    exact if_neg (fun h => by cases bad.symm.trans h)
  rw [scrub, eq]
  constructor
  · intro ht
    rw [if_neg ?_]
    · exact orPageHole_of_reaches hr _
    · rcases ht with h | ⟨h, h'⟩
      · simp [hz.1 h]
      · simp [h, h']
  · intro h2 ht
    rw [if_pos ?_]
    · exact orPageHole_of_reaches hr _
    · have : n ≠ 0 := fun h => h2 (hz.2 h)
      simp only [Bool.and_eq_true, bne_iff_ne, Bool.not_eq_true', ← Bool.not_eq_true]
      exact ⟨this, ht⟩

end

theorem page_refused (s : State) (w0 w1 w2 w3 : Word) :
    ∀ r ∈ [(1, Instr.inval w0 w1 w2 w3), (2, .purge w0 w1 w2 w3), (3, .move w0 w1 w2 w3), (4, .bias w0 w1 w2 w3), (5, .replay w0 w1 w2 w3),
        (6, .deny w0 w1 w2 w3), (7, .dget w0 w1 w2 w3), (8, .scrub w0 w1 w2 w3)],
      Claim.fld w0 0 8 ≠ r.1 ∨ Claim.fld w0 8 8 ≠ 0 ∨ Claim.fld w0 32 32 ≠ 0 → exec r.2 s = .next (s.hostEvent evPageRefused (Claim.fld w0 16 16) w1.toNat) := by
  intro r hr h
  have ev : s.hostEvent evPageRefused (Claim.fld w0 16 16) w1.toNat = s.refuseCmd w0 w1 := by rw [State.refuseCmd, cmdAsid, bitsOf_eq_fld]
  rw [ev]
  simp only [List.mem_cons, List.not_mem_nil, or_false] at hr
  rcases hr with rfl | rfl | rfl | rfl | rfl | rfl | rfl | rfl <;> have hb := cmdBad_of h
  · exact if_pos (by simp [hb])
  · exact if_pos (by simp [hb])
  · exact congrArg (s.serveCmd w0 w1 w2 w3) (if_pos (by simp [hb]) : s.moveCmd w0 w1 w2 w3 = _)
  · exact congrArg (s.serveCmd w0 w1 w2 w3) (if_pos (by simp [hb]) : s.biasCmd w0 w1 w2 w3 = _)
  · exact if_pos (by simp [hb])
  · exact if_pos (by simp [hb])
  · exact congrArg (s.serveCmd w0 w1 w2 w3) (if_pos (by simp [hb]) : s.dgetCmd w0 w1 w2 w3 = _)
  · exact congrArg (s.serveCmd w0 w1 w2 w3) (if_pos (by simp [hb]) : s.scrubCmd w0 w1 w2 w3 = _)

theorem pageCommands : PageCommands := by
  refine ⟨fun w3 words s => ⟨endPageCmd_pageCmd words, fun c rest he hp => endPageCmd_of_pending he hp _⟩,
    fun asid w0 w1 w2 w3 s ha => ?_⟩
  intro ends ranged held refused
  refine ⟨fun hva => moveAndBias_stopped ha hva, fun hr => ⟨fun hva => inval_purge ha hr hva, fun l hl hva => ⟨fun hb hf => ?_, bias_of_leaf ha hr hl hva⟩,
    fun hx => replay_deny ha hr hx, fun h1 h2 => dget_answers ha hr h1 h2, scrub_ends ha hr⟩, page_refused s w0 w1 w2 w3⟩
  exact move_of_leaf ha hr hl hva hb hf

/-! ### The driver and the host -/

theorem faultRead_advances {s : State} {asid idx : Nat} {c : Ctx} (hc : s.ctx? asid = some c) (h1 : c.fbRead < idx) (h2 : idx ≤ c.fbWrite)
    (hh : c.fbHeld = []) : exec (.faultReadIndexAdvance asid idx) s = .next { s with
      ctxs := s.ctxs.map fun x => if x.asid = asid then { x with fbRead := idx, fbDone := max x.fbDone idx, fbHeld := [], fbOverflow := false } else x
      faultRecs := dropRecs asid (idx - c.fbRead) s.faultRecs } := by
  change execFaultReadIndexAdvance asid idx s = _
  rw [execFaultReadIndexAdvance, hc]
  dsimp only
  rw [if_neg (by omega), hh]
  rfl

theorem migration_halves (die : Nat) (s : State) : ∃ t, exec (.migrationCounterHalve die) s = .next { s with mem := { s.mem with mig := t } } ∧
    t.length = s.mem.mig.length ∧ ∀ (k : Nat) (m : MigCount), s.mem.mig[k]? = some m → ∃ n, t[k]? = some n ∧ n.die = m.die ∧ n.region = m.region ∧
      n.count = (if m.die = die then m.count / 2 else m.count) := by
  refine ⟨_, rfl, List.length_map _, fun k m hm => ⟨_, by rw [List.getElem?_map, hm]; rfl, ?_⟩⟩
  dsimp only
  split <;> exact ⟨rfl, rfl, rfl⟩

theorem rangeTrained_iff (s : State) (node addr n : Nat) : s.rangeTrained node addr n = true ↔
    (node < 4 → s.stackTrained node addr = true ∧ s.stackTrained node (addr + (n - 1)) = true) := by
  rw [State.rangeTrained, Bool.or_eq_true, Bool.and_eq_true, decide_eq_true_iff]
  constructor
  · rintro (h | h) hn
    · omega
    · exact h
  · intro h
    by_cases hn : node < 4
    · exact .inr (h hn)
    · exact .inl (by omega)

theorem host_accesses {node addr : Nat} {data : List Byte} {s : State} (h1 : s.frameExists node addr = true)
    (h2 : s.frameExists node (addr + (data.length - 1)) = true) (write : Bool) : exec (.hostMemoryAccess node addr write data) s =
      if node < 4 ∧ s.hostUp = false then .next s
      else if s.rangeTrained node addr data.length = false then
        .next (if write then { s with mem := { s.mem with late := s.mem.late ++ [.host node addr data] } } else s)
      else .next (if write then s.hostPut node addr data else s.meetRange node addr data.length) := by
  change execHostMemoryAccess node addr write data s = _
  simp only [execHostMemoryAccess, h1, h2, Bool.not_true, Bool.false_eq_true, if_false, Bool.not_eq_true']
  rfl

theorem driverAndHost : DriverAndHost := by
  refine ⟨fun asid idx s c => faultRead_advances, migration_halves, fun node addr data s h1 h2 => ?_⟩
  intro last opened trained
  have ht : trained ↔ s.rangeTrained node addr data.length = true := (rangeTrained_iff _ _ _ _).symm
  have ho : ¬ opened ↔ node < 4 ∧ s.hostUp = false := by simp only [opened, Classical.not_imp, Bool.not_eq_true]
  simp only [host_accesses h1 h2]
  refine ⟨fun h w => if_pos (ho.1 h), fun h hn => ?_, fun h hy => ?_⟩
  · have hr : s.rangeTrained node addr data.length = false := Bool.not_eq_true _ ▸ mt ht.2 hn
    simp only [if_neg (fun g => ho.2 g h), if_pos hr]
    exact ⟨rfl, rfl⟩
  · have hr : ¬ s.rangeTrained node addr data.length = false := by simp [ht.1 hy]
    simp only [if_neg (fun g => ho.2 g h), if_neg hr]
    constructor
    · obtain ⟨p, l, he, hp, hl⟩ := meetRange_meetsIn s node addr data.length
      exact ⟨p, l, congrArg Host.Outcome.next he, hp, hl⟩
    · refine ⟨(s.hostPut node addr data).mem, rfl, fun k hk => hostPut_bytes (fun hn => frameExists_lt hn h2) fun hn base hb => hk base hn hb⟩

/-- Settles O58: each page command's word is well formed, so its checks pass and its effect and its place in the ring are those of the claim; the host's
accesses go by the checks of their frames, and marking their frames stays within the side table. -/
theorem pagesAndHost : Obligations.PagesAndHost := ⟨pageCommands, driverAndHost⟩

end Sys2Proof.Machine
end

section
/-!
SUPPORT. Launch records, launches and the life of a group (R300 to R316).
-/

namespace Sys2Proof.Machine

open Claim

/-! ### Launch records (R303) -/

/-- A word keeps all its bits under a mask when it has none outside. -/
theorem and_eq_self_iff (w m : Word) : w &&& m = w ↔ w &&& ~~~m = 0 := by
  constructor
  · intro h; rw [← h]; ext i hi; simp
  · intro h
    ext i hi
    have hb := congrArg (·.getLsbD i) h
    simp only [BitVec.getLsbD_and, BitVec.getLsbD_not, hi, decide_true, Bool.true_and] at hb
    simp only [← BitVec.getLsbD_eq_getElem]
    cases hw : w.getLsbD i <;> cases hm : m.getLsbD i <;> simp_all

theorem recordConditions : RecordConditions := by
  intro r
  have hf : r.fpc &&& 0x1F03 = r.fpc ↔ r.fpc &&& ~~~0x1F03 = 0 := and_eq_self_iff _ _
  simp only [LaunchRec.fieldsOk, recordValid, Bool.and_eq_true, decide_eq_true_eq, beq_iff_eq, hf]
  simp only [LaunchRec.threads, LaunchRec.cohortWidth, LaunchRec.slots, LaunchRec.ordinary, LaunchRec.passes, LaunchRec.granules, LaunchRec.regGranules]
  by_cases hm : r.mode < 2
  · simp only [hm, if_true, beq_iff_eq, true_imp_iff, not_true, false_imp_iff, and_true]
    tauto
  · simp only [hm, if_false, Bool.and_eq_true, bne_iff_ne, beq_iff_eq, false_imp_iff, not_false_eq_true, true_imp_iff, true_and]
    tauto

/-! ### Launches (R304, R310 to R313) -/

theorem launch_starts (c : BitVec 1) (g : BitVec 4) (d b p : BitVec 6) (s : State) :
    exec (.launch c g d b p) s = .next (s.startOps g true false [.g b.toNat, .g p.toNat] fun iss t =>
      let a := srcG iss t .zero b
      let w := srcG iss t .zero p
      if 2 ^ 52 ≤ a.toNat then .error (.mk2 0x03 a)
      else if a.toNat % 64 ≠ 0 then .error (.mk2 0x02 a)
      else if 2 ^ 52 ≤ w.toNat then .error (.mk2 0x03 w)
      else if w.toNat % 8 ≠ 0 then .error (.mk2 0x02 w)
      else .ok (.plain a (.launch d.toNat (if p = 0 then none else some w.toNat)))) := by
  change execLaunch g d b p s = _
  simp only [execLaunch, opWord, bne_iff_ne]
  rfl

/-- A LAUNCH whose turn it is, and whose release can be made, reads its record. -/
theorem launchStatus_eq {s : State} {id d : Nat} {done : Option Nat} {o : Op} (ho : s.op? id = some o) (hk : o.kind = .launch d done)
    (hg : s.gate o = true) (ht : s.launchTurn o = false) (hr : s.releaseStuck o.core o.asid 4 = false) :
    exec (.launchStatus id) s = s.launchOp o d done := by
  change execLaunchStatus id s = _
  rw [execLaunchStatus, ho]
  simp only [hk, hg, ht, hr, Bool.not_true, Bool.or_self, Bool.false_eq_true, if_false]

theorem launchOp_of_read {s : State} {o : Op} (d : Nat) (done : Option Nat) {ws : List Word}
    (h : (s.fenceEffect o.tid o.seq o.core o.asid 4 true false).readRec (dieOf o.core) o.asid o.addr.toNat = .ok ws) :
    let s1 := s.fenceEffect o.tid o.seq o.core o.asid 4 true false
    s.launchOp o d done =
      if s1.recOk (dieOf o.core) o.asid ws = false then .next (s1.faultOp o tcLaunch o.addr).pump
      else if launchLimit ≤ s1.launchCount (dieOf o.core) then .next (s1.finishOp o 0 [.g d 1]).pump
      else .next ((listed s1 { die := dieOf o.core, asid := o.asid, recAddr := o.addr.toNat, src := .launch done, origin := s1.originOf o.gid,
                               lr := some (LaunchRec.ofWords ws), held := none }).finishOp o 0 [.g d 0]).pump := by
  intro s1
  simp only [State.launchOp, h, Bool.not_eq_true']
  rfl

theorem not_packetTurn {s : State} {l : LaunchReq} {pre post : List LaunchReq} (he : s.launches = pre ++ l :: post)
    (hp : ∀ y ∈ pre, y.ofPacket = false) : s.packetTurn l = false := by
  cases hl : l.ofPacket with
  | false => rw [State.packetTurn, hl, Bool.false_and]
  | true =>
    have hf : s.launches.find? LaunchReq.ofPacket = some l := by
      rw [he, List.find?_append, List.find?_eq_none.2 (fun y hy => by simp [hp y hy])]
      simp [hl]
    rw [State.packetTurn, hf, bne_self_eq_false, Bool.and_false]

theorem packetTurn_of_earlier {s : State} {l x : LaunchReq} {pre post : List LaunchReq} (hl : l.ofPacket = true) (hx : x ≠ l)
    (he : s.launches = pre ++ x :: post) (hp : ∀ y ∈ pre, y.ofPacket = false) (hxp : x.ofPacket = true) : s.packetTurn l = true := by
  have hf : s.launches.find? LaunchReq.ofPacket = some x := by
    rw [he, List.find?_append, List.find?_eq_none.2 (fun y hy => by simp [hp y hy])]
    simp [hxp]
  rw [State.packetTurn, hf, hl, Bool.true_and, bne_iff_ne]
  exact fun h => hx (Option.some.inj h)

theorem ofPacket_iff (l : LaunchReq) : l.ofPacket = true ↔ ∃ q i, l.src = .queue q i := by
  rw [LaunchReq.ofPacket]
  cases l.src <;> simp

theorem ofPacket_eq_false_iff (l : LaunchReq) : l.ofPacket = false ↔ ¬ ∃ q i, l.src = .queue q i := by
  rw [← ofPacket_iff, Bool.not_eq_true]

theorem kernelRecordAccept_eq {s : State} {die : Nat} {l : LaunchReq} (h : s.launches.find? (fun x => x.die == die) = some l) :
    exec (.kernelRecordAccept die) s = if l.held.isSome || s.packetTurn l then .next s else s.takeRec l := by
  change execKernelRecordAccept die s = _
  rw [execKernelRecordAccept, h]

theorem acceptRec_of_valid (s : State) (l : LaunchReq) (r : LaunchRec) : s.acceptRec l r true =
    { s with launches := s.launches.erase l, kernels := s.kernels ++ [accepted s l r .queued], fresh := s.fresh + 1 } := rfl

theorem acceptRec_of_invalid (s : State) (l : LaunchReq) (r : LaunchRec) {q i : Nat} (hs : l.src = .queue q i) : s.acceptRec l r false =
    modQ { s with launches := s.launches.erase l, kernels := s.kernels ++ [accepted s l r .rejected], fresh := s.fresh + 1 } q fun x =>
      { x with started := x.started.map fun p => if p.idx = i then { p with ended := true, cause := 2 } else p } := by
  unfold State.acceptRec State.sourceEnds
  rw [hs]
  simp only [newKernel, hs, accepted]
  rfl

theorem takeRec_of_read {s : State} {l : LaunchReq} {ws : List Word} (hr : l.lr = none) (h : s.readRec l.die l.asid l.recAddr = .ok ws) :
    s.takeRec l = .next (s.acceptRec l (LaunchRec.ofWords ws) (l.recAddr % 64 == 0 && s.recOk l.die l.asid ws)) := by
  rw [State.takeRec, hr]
  simp only [h]

theorem launches : Launches := by
  refine ⟨launch_starts, fun id d done s o ws ho hk hg ht hr => ?_, fun die s l hl => ?_⟩
  · intro s1 die hread
    have e := launchOp_of_read d done hread
    rw [launchStatus_eq ho hk hg ht hr, e]
    refine ⟨fun h => if_pos h, fun h hc => ?_, fun h hc => ?_⟩
    · rw [if_neg (by rw [show s1.recOk (dieOf o.core) o.asid ws = true from h]; decide)]
      exact if_neg (Nat.not_le.2 hc)
    · rw [if_neg (by rw [show s1.recOk (dieOf o.core) o.asid ws = true from h]; decide)]
      exact if_pos hc
  · intro packet
    have hd : l.die = die := by simpa using List.find?_some hl
    have hpk (x : LaunchReq) : packet x ↔ x.ofPacket = true := (ofPacket_iff x).symm
    have hnp (x : LaunchReq) : ¬ packet x ↔ x.ofPacket = false := by rw [hpk, Bool.not_eq_true]
    rw [kernelRecordAccept_eq hl]
    refine ⟨fun hh => ?_, fun pre x post hp hx he hpre hxp => ?_, fun hh hfirst => ?_⟩
    · rw [Option.isSome_iff_ne_none.2 hh, Bool.true_or, if_pos rfl]
    · rw [packetTurn_of_earlier ((hpk l).1 hp) hx he (fun y hy => (hnp y).1 (hpre y hy)) ((hpk x).1 hxp), Bool.or_true, if_pos rfl]
    · intro s1
      have hturn : s.packetTurn l = false := by
        by_cases hp : packet l
        · obtain ⟨pre, post, he, hpre⟩ := hfirst hp
          exact not_packetTurn he fun y hy => (hnp y).1 (hpre y hy)
        · rw [State.packetTurn, (hnp l).1 hp, Bool.false_and]
      rw [hh, hturn, Option.isSome_none, Bool.or_self, if_neg (by decide)]
      refine ⟨fun r hr => (by simp only [State.takeRec, hr, acceptRec_of_valid] : s.takeRec l = .next (s.acceptRec l r true)), fun ws hr hread => ?_⟩
      rw [← hd] at hread
      rw [takeRec_of_read hr hread, ← hd]
      refine ⟨fun ⟨ha, hok⟩ => ?_, fun q i hs hn => ?_⟩
      · rw [ha, hok]
        exact congrArg _ (acceptRec_of_valid s l _)
      · have hb : (l.recAddr % 64 == 0 && s.recOk l.die l.asid ws) = false := by
          rw [← Bool.not_eq_true, Bool.and_eq_true, beq_iff_eq]
          exact hn
        rw [hb]
        exact congrArg _ (acceptRec_of_invalid s l _ hs)

/-! ### The start of a group (R309, R311, R314, R325) -/

theorem mergeL2_fresh_le (s : State) (die asid line : Nat) (h : Home) (data : BitVec 512) (mask : BitVec 64) (kinds : BitVec 32) (alloc : Bool)
    (cls : Nat) : s.fresh ≤ (s.mergeL2 die asid line h data mask kinds alloc cls).fresh := by
  unfold State.mergeL2
  split
  · exact Nat.le_refl _
  · split
    · simp
    · exact Nat.le_succ _

/-- A fold whose steps never lower the next fresh number does not lower it. -/
theorem foldl_fresh_le {α : Type} (f : State → α → State) (hf : ∀ s x, s.fresh ≤ (f s x).fresh) (l : List α) (s : State) :
    s.fresh ≤ (l.foldl f s).fresh := by
  induction l generalizing s with
  | nil => exact Nat.le_refl _
  | cons x l ih => exact (hf s x).trans (ih _)

theorem flushWbs_fresh_le (s : State) (which : WriteBack → Bool) : s.fresh ≤ (s.flushWbs which).fresh :=
  foldl_fresh_le State.wbArrives (fun s w => mergeL2_fresh_le { s with mem := { s.mem with wbs := s.mem.wbs.filter (·.id != w.id) } } ..) _ s

theorem cleanL1_fresh_le (s : State) (core : Nat) (which : L1Line → Bool) : s.fresh ≤ (s.cleanL1 core which).fresh := by
  rw [State.cleanL1, State.modCore_fresh]
  exact (flushWbs_fresh_le s _).trans (foldl_fresh_le _ (fun _ _ => mergeL2_fresh_le _ _ _ _ _ _ _ _ _ _) _ _)

theorem dropL1_fresh_le (s : State) (core : Nat) (which : L1Line → Bool) : s.fresh ≤ (s.dropL1 core which).fresh := by
  rw [State.dropL1, State.modCore_fresh]
  exact cleanL1_fresh_le s core which

theorem flushWbs_memOnly (s : State) (which : WriteBack → Bool) : MemOnly s (s.flushWbs which) :=
  .foldl (fun _ _ => (MemOnly.of_mem _ _).trans (State.mergeL2_memOnly ..)) _ s

theorem MemOnly.coreAt {s t : State} (h : MemOnly s t) (c : Nat) : t.coreAt c = s.coreAt c := by
  rw [State.coreAt, State.coreAt, h.cores]

/-- The lines of L1s after a write-back: those that are selected are clean. -/
theorem cleanL1_l1 (s : State) (core c : Nat) (which : L1Line → Bool) : ((s.cleanL1 core which).coreAt c).l1 =
    if c = core then (s.coreAt c).l1.map fun l => if which l then { l with dirty := 0 } else l else (s.coreAt c).l1 := by
  have hm : MemOnly s (((s.flushWbs fun w => w.core == core).coreAt core).l1.filter which |>.foldl
      (fun s l => s.mergeL2 (dieOf core) l.asid l.line l.home l.data l.dirty l.mdata true l.cls) (s.flushWbs fun w => w.core == core)) :=
    (flushWbs_memOnly s _).trans (.foldl (fun _ _ => State.mergeL2_memOnly ..) _ _)
  rw [State.cleanL1, State.coreAt_modCore _ _ _ (by intro k; rfl)]
  by_cases h : c = core
  · subst h; rw [if_pos rfl, if_pos rfl, hm.coreAt]
  · rw [if_neg h, if_neg h, hm.coreAt]

theorem dropL1_l1 (s : State) (core c : Nat) {which : L1Line → Bool} (hw : ∀ l, which { l with dirty := 0 } = which l) : ((s.dropL1 core which).coreAt c).l1 =
    if c = core then (s.coreAt c).l1.filter fun l => !which l else (s.coreAt c).l1 := by
  rw [State.dropL1, State.coreAt_modCore _ _ _ (by intro k; rfl)]
  by_cases h : c = core
  · subst h
    rw [if_pos rfl, if_pos rfl]
    simp only [cleanL1_l1, if_true, List.filter_map]
    rw [List.filter_congr (q := fun l => !which l) (fun l _ => by
      rw [Function.comp_apply]
      by_cases h : which l = true
      · rw [if_pos h, hw]
      · rw [if_neg h])]
    refine (List.map_congr_left (g := id) fun l hl => ?_).trans (List.map_id _)
    have := (List.mem_filter.1 hl).2
    rw [if_neg (by simpa using this), id_eq]
  · rw [if_neg h, if_neg h, cleanL1_l1, if_neg h]

/-- An acquire brings no line into an L1. -/
theorem acquireAt_l1_subset (s : State) (tid seq core asid scope c : Nat) :
    ((s.acquireAt tid seq core asid scope).coreAt c).l1 ⊆ (s.coreAt c).l1 := by
  have hd : ((if scope < 2 then s else s.dropL1 core (·.asid == asid)).coreAt c).l1 ⊆ (s.coreAt c).l1 := by
    split
    · exact List.Subset.refl _
    · rw [dropL1_l1 _ _ _ (by intro l; rfl)]
      split
      · exact List.filter_subset_self _
      · exact List.Subset.refl _
  unfold State.acquireAt
  dsimp only
  split <;> exact hd

/-- What a group's start leaves of the machine before its cohorts may issue: the acquire brings no line into the core's L1, and touches neither groups nor
kernels nor cohorts. -/
theorem startAcquire_frame (s : State) (g : Group) (src : Source) :
    let r := s.startAcquire g src
    r.1.groups = s.groups ∧ r.1.kernels = s.kernels ∧ r.1.cohorts = s.cohorts ∧ ((r.1.coreAt g.core).l1 ⊆ (s.coreAt g.core).l1) ∧
      ((∀ m n, src ≠ .handler m n) → (r.1.coreAt g.core).l1 = (s.coreAt g.core).l1) ∧
      ((∀ m n, src = .handler m n → 4 ≤ n) → s.fresh ≤ r.2) := by
  intro r
  cases src with
  | handler m n =>
    have hr : r = ((s.fenceEffect 0 0 g.core g.asid n false true),
      if 4 ≤ n then (s.fenceEffect 0 0 g.core g.asid n false true).fresh - 1
      else (s.fenceEffect 0 0 g.core g.asid n false true).relBound (dieOf g.core) g.asid) := rfl
    rw [hr]
    refine ⟨by simp, by simp, by simp, acquireAt_l1_subset .., fun h => absurd rfl (h m n), fun h => ?_⟩
    have h4 := h m n rfl
    rw [if_pos h4]
    simp only [State.fenceEffect, State.acquireAt, Bool.false_eq_true, if_false, if_true, if_neg (show ¬ n < 4 by omega),
      if_neg (show ¬ n < 2 by omega), State.bound_fresh]
    have := dropL1_fresh_le s g.core (·.asid == g.asid)
    omega
  | launch done => exact ⟨rfl, rfl, rfl, List.Subset.refl _, fun _ => rfl, fun _ => Nat.le_succ _⟩
  | queue q i => exact ⟨rfl, rfl, rfl, List.Subset.refl _, fun _ => rfl, fun _ => Nat.le_succ _⟩

/-- A group whose cohorts may issue. -/
def groupStarted (s : State) (g : Group) (bound : Nat) (own : List Nat) : State :=
  { (s.modGroup g.gid fun g => { g with st := .running }) with
    cohorts := s.cohorts.map fun c => if own.contains c.cid then { c with formed := true } else c
    threads := s.threads.map fun t => if t.gid = g.gid then { t with acq := bound } else t
    fresh := s.fresh + 1 }

/-- The cohorts of a group that a start forms. -/
def ownCohorts (s : State) (gid : Nat) : List Nat := (s.cohorts.filter fun c => c.gid == gid && !c.spare).map (·.cid)

theorem groupStart_eq {s : State} {id : Nat} {g : Group} (h : s.group? id = some g) (hst : g.st = .placed) (hr : s.runningAsid? g.core = some g.asid) :
    let r := (s.reclaim g).startAcquire g ((((s.reclaim g).kernel? g.kid).map (·.src)).getD (.launch none))
    let s3 := groupStarted r.1 g r.2 (ownCohorts r.1 g.gid)
    exec (.groupStart id) s = .next (if s3.deterministic g.gid then s3
      else s3.modSlot g.core g.asid fun x => { x with pending := x.pending ++ ownCohorts r.1 g.gid }) := by
  have hid : g.gid = id := by simpa using List.find?_some h
  subst hid
  change execGroupStart g.gid s = _
  have hc : ¬ (g.st != .placed || s.runningAsid? g.core != some g.asid) = true := by simp [hst, hr]
  unfold execGroupStart
  simp only [h, if_neg hc]
  generalize (s.reclaim g).startAcquire g _ = r
  rfl

theorem groupStarted_coreAt (s : State) (g : Group) (bound : Nat) (own : List Nat) (c : Nat) : (groupStarted s g bound own).coreAt c = s.coreAt c := rfl

theorem modSlot_l1 (s : State) (core asid c : Nat) (f : Slot → Slot) : ((s.modSlot core asid f).coreAt c).l1 = (s.coreAt c).l1 := by
  rw [State.modSlot, State.coreAt_modCore _ _ _ (by intro k; rfl)]
  split
  · next h => rw [h]
  · rfl

theorem group_starts {id : Nat} {s : State} {g : Group} (h : s.group? id = some g) (hst : g.st = .placed) (hr : s.runningAsid? g.core = some g.asid) :
    ∃ t, exec (.groupStart id) s = .next t ∧ (∀ h ∈ t.groups, h.gid = id → h.st = .running) ∧
      (∀ c ∈ t.cohorts, c.gid = id → c.spare = false → c.formed = true) ∧
      ∀ k, s.kernel? g.kid = some k →
        (∀ l ∈ (t.coreAt g.core).l1, l.granule ∉ g.regs ++ g.scratch ++ g.accum) ∧
        ((∀ m n, k.src ≠ .handler m n) → ∀ l ∈ (s.coreAt g.core).l1, l.granule ∉ g.regs ++ g.scratch ++ g.accum → l ∈ (t.coreAt g.core).l1) ∧
        ((∀ m n, k.src = .handler m n → 4 ≤ n) → ∀ x ∈ t.threads, x.gid = id → s.fresh ≤ x.acq) := by
  have hid : g.gid = id := by simpa using List.find?_some h
  have he := groupStart_eq h hst hr
  obtain ⟨hgr, hke, hco, hsub, heq, hfr⟩ := startAcquire_frame (s.reclaim g) g ((((s.reclaim g).kernel? g.kid).map (·.src)).getD (.launch none))
  have hl1 : ((s.reclaim g).coreAt g.core).l1 = (s.coreAt g.core).l1.filter fun l => !(g.regs ++ g.scratch ++ g.accum).contains l.granule := by
    rw [State.reclaim, dropL1_l1 _ _ _ (by intro l; rfl), if_pos rfl]
  have hk1 : (s.reclaim g).kernel? g.kid = s.kernel? g.kid := by rw [State.reclaim, State.kernel?, State.kernel?, State.dropL1_kernels]
  generalize (s.reclaim g).startAcquire g _ = r at *
  have l1eq (c : Nat) (b : Bool) : ((if b then groupStarted r.1 g r.2 (ownCohorts r.1 g.gid)
      else (groupStarted r.1 g r.2 (ownCohorts r.1 g.gid)).modSlot g.core g.asid fun x =>
        { x with pending := x.pending ++ ownCohorts r.1 g.gid }).coreAt c).l1 = (r.1.coreAt c).l1 := by
    cases b
    · exact modSlot_l1 ..
    · rfl
  refine ⟨_, he, ?_, ?_, fun k hk => ⟨?_, fun hn l hl hg => ?_, fun hn x hx hxg => ?_⟩⟩
  · intro x hx hxg
    have hx1 : x ∈ (r.1.modGroup g.gid fun g => { g with st := .running }).groups := by
      split at hx
      · exact hx
      · rwa [State.modSlot_groups] at hx
    obtain ⟨y, hy, rfl⟩ := List.mem_map.1 hx1
    split at hxg
    · next hyg => rw [if_pos hyg]
    · next hyg => exact absurd (hxg.trans hid.symm) hyg
  · intro c hc hg hsp
    have hc1 : c ∈ (groupStarted r.1 g r.2 (ownCohorts r.1 g.gid)).cohorts := by
      split at hc
      · exact hc
      · rwa [State.modSlot_cohorts] at hc
    obtain ⟨y, hy, rfl⟩ := List.mem_map.1 hc1
    split at hg
    · next hyg => rw [if_pos hyg]
    · next hyg =>
      rw [if_neg hyg] at hsp
      exact absurd (List.contains_iff_mem.2 (List.mem_map.2 ⟨y, List.mem_filter.2 ⟨hy, by simp [hg, hid, hsp]⟩, rfl⟩)) hyg
  · intro l hl
    rw [l1eq] at hl
    have := (List.mem_filter.1 (hl1 ▸ hsub hl)).2
    simpa using this
  · rw [l1eq, heq (by rw [hk1, hk]; exact hn), hl1]
    exact List.mem_filter.2 ⟨hl, by simpa using hg⟩
  · have hx1 : x ∈ (groupStarted r.1 g r.2 (ownCohorts r.1 g.gid)).threads := by
      split at hx
      · exact hx
      · rwa [State.modSlot_threads] at hx
    obtain ⟨y, hy, rfl⟩ := List.mem_map.1 hx1
    have hb : s.fresh ≤ r.2 := (dropL1_fresh_le s g.core _).trans (hfr (by rw [hk1, hk]; exact hn))
    split at hxg
    · next hyg => rw [if_pos hyg]; exact hb
    · next hyg => exact absurd (hxg.trans hid.symm) hyg

/-! ### Placement and retirement (R307, R312, R314, R315) -/

theorem group_placed (s : State) (k : Kernel) : let s0 := s.amsgs.foldl State.tryHandler s
    (s0.nextKernel? = none → exec .groupPlace s = .next s0) ∧
    (s0.nextKernel? = some k → s0.offer k = none → exec .groupPlace s = .next s0) ∧
    ∀ core f, s0.nextKernel? = some k → s0.offer k = some (core, f) →
      exec .groupPlace s = .next (modDev (s0.placeGroup k k.nextGroup core f) fun d => { d with rotation := (core % 128 * 4 + core / 128 + 1) % 512 }) := by
  intro s0
  have he : exec .groupPlace s = execGroupPlace s := rfl
  refine ⟨fun h => ?_, fun h ho => ?_, fun core f h ho => ?_⟩
  · rw [he, execGroupPlace, h]
  · have ho1 : (s.amsgs.foldl State.tryHandler s).offer k = none := ho
    rw [he, execGroupPlace, h]
    simp only [ho1, s0]
  · have ho1 : (s.amsgs.foldl State.tryHandler s).offer k = some (core, f) := ho
    rw [he, execGroupPlace, h]
    simp only [ho1, rotationOf, modDev, s0]

/-- A group's retirement is counted without touching what is left of the machine's groups. -/
theorem countRetired_frame (s : State) (kid : Nat) : (s.countRetired kid).groups = s.groups ∧ (s.countRetired kid).threads = s.threads ∧
    (s.countRetired kid).cohorts = s.cohorts ∧ (s.countRetired kid).pool = s.pool := by
  unfold State.countRetired
  cases s.kernel? kid with
  | none => exact ⟨rfl, rfl, rfl, rfl⟩
  | some k =>
    dsimp only
    split <;> exact ⟨rfl, rfl, rfl, rfl⟩

theorem group_retires {id : Nat} {s : State} {g : Group} (h : s.group? id = some g) (hst : g.st = .running ∨ g.st = .retiring)
    (hover : s.cohortsOver id = true) (hr : s.runningAsid? g.core = some g.asid) :
    (s.groupQuiet id = false → exec (.groupRetire id) s =
      .next { s with groups := s.groups.map fun h => if h.gid = id then { h with st := .retiring } else h }) ∧
    (s.groupQuiet id = true → ∃ t, exec (.groupRetire id) s = .next t ∧ (∀ h ∈ t.groups, h.gid ≠ g.gid) ∧ (∀ x ∈ t.threads, x.gid ≠ g.gid) ∧
      (∀ x ∈ t.cohorts, x.gid ≠ g.gid) ∧
      ∀ w ∈ t.pool.live, ¬ (8 * w / 2 ^ 21 = g.core ∧ 8 * w % 2 ^ 21 / 2 ^ 14 ∈ g.regs ++ g.scratch ++ g.accum)) := by
  have he : exec (.groupRetire id) s = if !s.groupQuiet id then .next (s.modGroup id fun g => { g with st := .retiring })
      else .next (((s.groupErrors id).returnGroup g).countRetired g.kid) := by
    change execGroupRetire id s = _
    rw [execGroupRetire, h]
    exact if_neg (by rcases hst with e | e <;> simp [e, hover, hr])
  rw [he]
  refine ⟨fun hq => by rw [hq, if_pos (by decide)]; rfl, fun hq => ⟨_, by rw [hq]; exact if_neg (by decide), ?_⟩⟩
  obtain ⟨hgs, hts, hcs, hp⟩ := countRetired_frame ((s.groupErrors id).returnGroup g) g.kid
  rw [hgs, hts, hcs, hp]
  refine ⟨fun x hx => ?_, fun x hx => ?_, fun x hx => ?_, fun w hw => ?_⟩
  · simpa using (List.mem_filter.1 hx).2
  · simpa using (List.mem_filter.1 hx).2
  · simpa using (List.mem_filter.1 hx).2
  · have := (List.mem_filter.1 hw).2
    rintro ⟨hc, hm⟩
    rw [Bool.not_eq_true', ← Bool.not_eq_true] at this
    exact this (Bool.and_eq_true_iff.2 ⟨beq_iff_eq.2 hc, List.contains_iff_mem.2 hm⟩)

theorem kernelRetire_eq {s : State} {id : Nat} {k : Kernel} (h : s.kernel? id = some k) (hst : k.st = .draining) :
    exec (.kernelRetire id) s = if k.held.isSome then .next s else s.retireKernel k := by
  change execKernelRetire id s = _
  rw [execKernelRetire, h]
  simp only [hst, bne_self_eq_false, Bool.false_or]

theorem kernelStuck_iff (s : State) (k : Kernel) : s.kernelStuck k = true ↔
    ∃ w ∈ (k.ranOn.foldl (fun u c => u.cleanL1 c (·.asid == k.asid)) s).mem.wts, w.asid = k.asid ∧
      (k.ranOn.foldl (fun u c => u.cleanL1 c (·.asid == k.asid)) s).wtStuck w = true := by
  rw [State.kernelStuck, List.any_eq_true]
  simp only [Bool.and_eq_true, beq_iff_eq]

theorem retireKernel_of_open {s : State} {k : Kernel} (h : s.kernelStuck k = false) (hs : ∀ a, k.src ≠ .launch (some a)) :
    s.retireKernel k = .next ((s.endKernel k).sourceEnds k.src (if k.errors = [] then 0 else 0x03)) := by
  unfold State.retireKernel
  rw [if_neg (by simp [h])]
  split
  · next a ha => exact absurd ha (hs a)
  · rfl

theorem placeOf_of_none {s : State} {asid a l : Nat} {mf : Bool} {h : Home} (ht : s.translate 0 asid a false = .none l mf) : s.placeOf asid a ≠ .home h := by
  rw [State.placeOf, ht]
  nofun

theorem retireKernel_of_home {s : State} {k : Kernel} {a : Nat} {x : Home} (h : s.kernelStuck k = false) (hs : k.src = .launch (some a))
    (hp : s.placeOf k.asid a = .home x) : s.retireKernel k = .next ((s.endKernel k).deviceAdd k.asid a 1) := by
  unfold State.retireKernel
  rw [if_neg (by simp [h]), hs]
  dsimp only
  split
  · next l mf ht => exact absurd hp (placeOf_of_none ht)
  · rw [State.atPlace, hp]

theorem deviceAdd_eq_adds (s : State) (asid a v : Nat) : s.deviceAdd asid a v = adds s asid a v := by
  unfold State.deviceAdd adds
  split
  · next h => rw [if_pos h]; rfl
  · next h => rw [if_neg h]

theorem kernel_retires {id : Nat} {s : State} {k : Kernel} (h : s.kernel? id = some k) (hst : k.st = .draining) :
    let s0 := k.ranOn.foldl (fun u c => u.cleanL1 c (·.asid == k.asid)) s
    ((k.held ≠ none ∨ ∃ w ∈ s0.mem.wts, w.asid = k.asid ∧ s0.wtStuck w = true) → exec (.kernelRetire id) s = .next s) ∧
    (k.held = none → (∀ w ∈ s0.mem.wts, w.asid = k.asid → s0.wtStuck w = false) →
    (∀ a l mf, k.src = .launch (some a) → s.translate 0 k.asid a false = .none l mf →
      let r := s.putFault { asid := k.asid, seq := 0, va := a, kind := 2, level := l, mf := mf, core := 0, lanes := 0, passes := 0, count := 1 }
      exec (.kernelRetire id) s = .next { r.1 with kernels := r.1.kernels.map fun x => if x.kid = id then { x with held := some r.2 } else x }) ∧
    let s1 := (s.settleKernel k).writeCounts k
    let s2 : State := { s1 with kernels := s1.kernels.map fun x => if x.kid = id then { x with st := .retired, held := none } else x }
    (∀ q i, k.src = .queue q i → exec (.kernelRetire id) s = .next (modQ s2 q fun x =>
      { x with started := x.started.map fun p => if p.idx = i then { p with ended := true, cause := if k.errors = [] then 0 else 3 } else p })) ∧
    let s3 := s2.originError k
    (k.src = .launch none → exec (.kernelRetire id) s = .next s3) ∧
    (∀ m n, k.src = .handler m n → exec (.kernelRetire id) s = .next s3) ∧
    (∀ a h, k.src = .launch (some a) → s.placeOf k.asid a = .home h →
      exec (.kernelRetire id) s = .next (adds s3 k.asid a 1)) ∧
    (k.errors = [] ∨ k.origin = none → s3 = s2)) := by
  intro s0
  have hid : k.kid = id := by simpa using List.find?_some h
  rw [kernelRetire_eq h hst]
  refine ⟨fun hb => ?_, fun hh hw => ?_⟩
  · by_cases hk : k.held.isSome = true
    · rw [if_pos hk]
    · have hs : s.kernelStuck k = true := (kernelStuck_iff s k).2 (hb.resolve_left fun hn => hk (Option.isSome_iff_ne_none.2 hn))
      rw [if_neg hk, State.retireKernel, if_pos hs]
  · have hs : s.kernelStuck k = false := by
      rw [← Bool.not_eq_true, kernelStuck_iff]
      rintro ⟨w, hm, ha, hstuck⟩
      rw [hw w hm ha] at hstuck
      cases hstuck
    rw [hh, Option.isSome_none, if_neg (by decide)]
    refine ⟨fun a l mf hsrc ht => ?_, ?_⟩
    · intro r
      unfold State.retireKernel
      rw [if_neg (by simp [hs]), hsrc]
      simp only [ht]
      rw [← hid]
      rfl
    · intro s1 s2
      have hend : s.endKernel k = s2.originError k := by rw [State.endKernel, State.modKernel, hid]
      refine ⟨fun q i hsrc => ?_, fun hsrc => ?_, fun m n hsrc => ?_, fun a x hsrc hp => ?_, fun he => ?_⟩
      · have ho : s2.originError k = s2 := by unfold State.originError; rw [hsrc]
        rw [retireKernel_of_open hs (by simp [hsrc]), hend, ho, hsrc]
        rfl
      · rw [retireKernel_of_open hs (by simp [hsrc]), hend, hsrc]
        rfl
      · rw [retireKernel_of_open hs (by simp [hsrc]), hend, hsrc]
        rfl
      · rw [retireKernel_of_home hs hsrc hp, hend, deviceAdd_eq_adds]
      · show s2.originError k = s2
        unfold State.originError
        rcases he with he | he <;> simp only [he]
        · split <;> rfl
        · cases k.src <;> rfl

theorem groupEvents : GroupEvents :=
  ⟨group_placed, fun _ _ _ h hst hr => group_starts h hst hr, fun _ _ _ h hst hover hr => group_retires h hst hover hr,
    fun _ _ _ h hst => kernel_retires h hst⟩

/-- Settles O55: the record's conditions are those of the rule field by field; the dispatcher, the placement and the retirement go by the branches of their
events, and an acquire or a reclaim takes lines from an L1 and brings none. -/
theorem kernelsAndGroups : Obligations.KernelsAndGroups := ⟨recordConditions, launches, groupEvents⟩

end Sys2Proof.Machine
end

section
/-!
SUPPORT. Task queues and active messages (R317 to R325).
-/

namespace Sys2Proof.Machine

open Claim

/-! ### Task queues -/

theorem tqpush_starts (c : BitVec 1) (g : BitVec 4) (d : BitVec 6) {s : State} {iss : Issue} (h : s.cur? = some iss) :
    exec (.tqpush c g d) s = .next (s.startOps g false false [.g d.toNat] fun i t =>
      let v := srcG i t .sign d
      if 4096 ≤ s.taskCount iss.core + ((s.executing iss g).filter fun u => decide (u.idx < t.idx)).length then .error (.mk2 0x13 v)
      else .ok (.plain 0 (.tqpush (v.setWidth 48)))) := by
  change execTqpush g d s = _
  rw [execTqpush, h]
  rfl

theorem taskWord_own (core : Nat) (v : BitVec 48) : taskWord false core v = v.toNat + core % 128 * 2 ^ 48 := by
  rw [taskWord, if_neg (by decide), Nat.add_zero]

theorem taskWord_stolen (core : Nat) (v : BitVec 48) : taskWord true core v = v.toNat + core % 128 * 2 ^ 48 + 2 ^ 62 := by
  rw [taskWord, if_pos rfl]

theorem taskQueues : TaskQueues := by
  refine ⟨fun c g d s iss h => ⟨tqpush_starts c g d h, rfl⟩, fun id s o ho => ?_⟩
  intro kid mine
  refine ⟨fun v hk hg hs => ?_, fun d v rest hk hst hp hs hm => ?_, fun d n v hk hst hn hv => ?_, fun d n v hk hst => ?_⟩
  · intro s1
    change execTqPushApply id s = _
    rw [execTqPushApply, ho]
    simp only [hk, hg, hs, Bool.not_true, Bool.or_self, Bool.false_eq_true, if_false]
    rfl
  · change execTqPopServe id s = _
    have hm1 : (s.coreAt o.core).tasks (s.kidOf o) = v :: rest := hm
    rw [execTqPopServe, ho]
    simp only [hk, hst, hp, hs, Bool.not_true, Bool.or_self, Bool.false_eq_true, if_false, hm1, State.answerPop, taskWord_own]
    rfl
  · intro thief hs hl
    change execTqStealServe id s = _
    have he : ¬ ((s.victims o).isEmpty = true ∨ 8 ≤ n) := by
      rw [List.isEmpty_iff]
      exact not_or.2 ⟨hv, by omega⟩
    have hs1 : s.serves ((s.victims o)[Config.stealVictim id (n + 1) % (s.victims o).length]?.getD o.core) o.asid = true := hs
    have hl1 : ((s.coreAt ((s.victims o)[Config.stealVictim id (n + 1) % (s.victims o).length]?.getD o.core)).tasks (s.kidOf o)).getLast? = some v := hl
    rw [execTqStealServe, ho]
    simp only [hk, hst, if_neg he, hs1, Bool.not_true, Bool.false_eq_true, if_false, hl1, State.answerPop, taskWord_stolen]
    rfl
  · change execTqpopReply id s = _
    rw [execTqpopReply, ho]
    simp only [hk, hst, ← word_natCast]

/-! ### Messages -/

theorem target_bad_iff (w : Word) : (Target.ofWord w).bad = true ↔ Claim.fld w 19 5 ≠ 0 ∨ Claim.fld w 30 34 ≠ 0 := by
  simp only [Target.ofWord, bitsOf_eq_fld, Bool.or_eq_true, bne_iff_ne]

/-- A word that needs an aligned address in its own scratch. -/
theorem plain_of_own (s : State) (t : Thread) (a : Word) (k : OpKind) : (asFlt (ownAt s t a)).map (fun a => OpReq.plain a k) =
    match ownAt s t a with
    | .ok a => .ok (.plain a k)
    | .error x => .error (.mk2 x.1 x.2) := by
  cases ownAt s t a with
  | ok a => simp only [asFlt, Except.map, Except.mapError]
  | error x => simp only [asFlt, Except.map, Except.mapError]

theorem amsend_starts (c : BitVec 1) (g : BitVec 4) (d b p : BitVec 6) (s : State) :
    exec (.amsend c g d b p) s = .next (s.startOps g true false [.g b.toNat, .g p.toNat] fun iss t =>
      let a := srcG iss t .zero b
      let w := srcG iss t .zero p
      if Claim.fld w 19 5 ≠ 0 ∨ Claim.fld w 30 34 ≠ 0 then .error (.mk2 0x13 a)
      else match ownAt s t a with
        | .ok a => .ok (.plain a (.amsend d.toNat w.toNat))
        | .error x => .error (.mk2 x.1 x.2)) := by
  have he : exec (.amsend c g d b p) s = execAmsend g d b p s := rfl
  rw [he]
  simp only [execAmsend, opWord, target_bad_iff, ownScratch_eq, plain_of_own]
  rfl

section
variable {id d : Nat} {w : Word} {s : State} {o : Op} (ho : s.op? id = some o) (hk : o.kind = .amsend d w.toNat) (hg : s.gate o = true)
  (ht : s.amTurn o = false) (hp : s.payloadAway o = false)
include ho hk hg ht hp

/-- A message that may arrive goes by its target word. -/
theorem amArrival_eq : exec (.amArrival id) s =
    if (Claim.fld w 9 10 != s.dev.pkgid && !s.scaleUp) = true then .next (s.faultOp o tcUncorrectable o.addr).pump
    else if s.releaseStuck o.core o.asid (amScope s o.core (Target.ofWord w)) = true then .next s
    else .next ((s.fenceEffect o.tid o.seq o.core o.asid (amScope s o.core (Target.ofWord w)) true false).amDeliver o (Target.ofWord w)).pump := by
  change execAmArrival id s = _
  rw [execAmArrival, ho]
  simp only [hk, hg, ht, hp, Bool.not_true, Bool.or_self, Bool.false_eq_true, if_false, BitVec.ofNat_toNat, BitVec.setWidth_eq, ← bitsOf_eq_fld]
  rfl

/-- A message to this package is delivered after its release. -/
theorem amArrival_here (hr : s.releaseStuck o.core o.asid (amScope s o.core (Target.ofWord w)) = false) (hh : s.dev.pkgid = Claim.fld w 9 10) :
    exec (.amArrival id) s =
      .next ((s.fenceEffect o.tid o.seq o.core o.asid (amScope s o.core (Target.ofWord w)) true false).amDeliver o (Target.ofWord w)).pump := by
  rw [amArrival_eq ho hk hg ht hp, hh, bne_self_eq_false, Bool.false_and, if_neg (by decide), hr, if_neg (by decide)]

end

/-- What a message's delivery in this package comes to. -/
theorem amDeliver_here {s : State} {o : Op} {w : Word} (hh : s.dev.pkgid = Claim.fld w 9 10) : s.amDeliver o (Target.ofWord w) =
    let core := Claim.fld w 7 2 * 128 + Claim.fld w 0 7
    let answer (s : State) (v : Nat) : State := s.modOp o.id fun o => { o with st := .performed v }
    if 64 ≤ (s.amsgs.filter fun m => m.core == core).length then answer s 1
    else match s.boundCtx? o.gid o.asid with
      | none => answer s 2
      | some c => match s.handlerRec? (Claim.fld w 7 2) c (Claim.fld w 24 6) with
        | none => answer (s.meetHandler (Claim.fld w 7 2) c (Claim.fld w 24 6)) 2
        | some lr =>
          answer { s with
            fresh := s.fresh + 1
            amsgs := s.amsgs ++ [{
              id := s.fresh, core := core, asid := c.asid, handler := Claim.fld w 24 6, lr := lr, origin := s.originOf o.gid
              payload := (List.range 8).map fun i => BitVec.ofNat 64 (s.scratchOf o.gid (o.addr.toNat % 2 ^ 21 + 8 * i) 8)
              sender := BitVec.ofNat 64 (o.core % 128 + dieOf o.core * 2 ^ 7 + s.dev.pkgid * 2 ^ 9)
              scope := amScope s o.core (Target.ofWord w) }] } 0 := by
  have hn : ¬ (Claim.fld w 9 10 != s.dev.pkgid) = true := by simp [hh]
  simp only [State.amDeliver, Target.ofWord, bitsOf_eq_fld, if_neg hn] <;> rfl

/-- A message to a peer package is a request, answered with a status below 3 (R381, log entry 21). -/
theorem amDeliver_peer {s : State} {o : Op} {w : Word} (hh : s.dev.pkgid ≠ Claim.fld w 9 10) : s.amDeliver o (Target.ofWord w) =
    (s.sent (s.newPeer o.id (Claim.fld w 9 10) (o.addr.toNat / 64)) true).modOp o.id fun p =>
      { p with st := .performed (Config.peerStatus o.id % 3) } := by
  have hn : (Claim.fld w 9 10 != s.dev.pkgid) = true := by simp [Ne.symm hh]
  simp only [State.amDeliver, Target.ofWord, bitsOf_eq_fld, if_pos hn]

theorem amScope_congr {s t : State} (h : t.dev = s.dev) (core : Nat) (x : Target) : amScope t core x = amScope s core x := by
  simp only [amScope, h]

theorem amsendStatus_eq {id d n v : Nat} {s : State} {o : Op} (ho : s.op? id = some o) (hk : o.kind = .amsend d n) (hst : o.st = .performed v) :
    exec (.amsendStatus id) s = .next (s.fromPeer o fun s _ => s.finishOp o 0 [.g d (word (v : Nat))]) := by
  change execAmsendStatus id s = _
  rw [execAmsendStatus, ho]
  simp only [hk, hst, ← word_natCast]

theorem handlerGroupPlace_eq {id : Nat} {s : State} {m : AMsg} (h : s.amsgs.find? (fun x => x.id == id) = some m) :
    exec (.handlerGroupPlace id) s = .next (s.tryHandler m) := by
  change execHandlerGroupPlace id s = _
  rw [execHandlerGroupPlace, h]

theorem tryHandler_of_later {s : State} {m : AMsg} (h : ∃ x ∈ s.amsgs, x.core = m.core ∧ x.id < m.id) : s.tryHandler m = s := by
  obtain ⟨x, hx, hc, hlt⟩ := h
  rw [State.tryHandler, if_pos (List.any_eq_true.2 ⟨x, hx, by simp [hc, hlt]⟩)]

theorem tryHandler_of_unfit {s : State} {m : AMsg} (h : s.fit? (m.lr.handler (m.payload ++ [m.sender])) s.fresh 0 m.core = none) :
    s.tryHandler m = s := by
  unfold State.tryHandler State.placeHandler
  dsimp only
  rw [h]
  split <;> rfl

theorem tryHandler_of_fit {s : State} {m : AMsg} {f : Fit} (hm : ∀ x ∈ s.amsgs, x.core = m.core → m.id ≤ x.id)
    (h : s.fit? (m.lr.handler (m.payload ++ [m.sender])) s.fresh 0 m.core = some f) : s.tryHandler m =
      let k := newKernel s.fresh m.asid 0 (m.lr.handler (m.payload ++ [m.sender])) (.handler m.id m.scope) m.origin .placing
      ({ s with kernels := s.kernels ++ [k], fresh := s.fresh + 1, amsgs := s.amsgs.filter fun x => x.id != m.id } : State).placeGroup k 0 m.core f := by
  have hn : ¬ (s.amsgs.any fun x => x.core == m.core && decide (x.id < m.id)) = true := by
    simp only [List.any_eq_true, Bool.and_eq_true, beq_iff_eq, decide_eq_true_eq]
    rintro ⟨x, hx, hc, hlt⟩
    exact absurd hlt (Nat.not_lt.2 (hm x hx hc))
  unfold State.tryHandler State.placeHandler
  dsimp only
  rw [if_neg hn, h]
  rfl

theorem activeMessages : ActiveMessages := by
  refine ⟨amsend_starts, fun id d w s o ho hk hg ht => ?_, fun id d w s o x r ho hk hg ht => ?_, fun id d w s o ho hk hg ht hp hpk => ⟨fun hu => ?_, ?_⟩,
    fun id d n v s o ho hk hst => ⟨fun hn => ?_, fun hy => ?_⟩, fun id s m hm => ?_⟩
  · intro core scope s1 hp hr hh hfull
    have hd : s1.dev = s.dev := State.fenceEffect_dev ..
    rw [amArrival_here ho hk hg ht hp hr (by rw [← hd]; exact hh), amDeliver_here hh]
    exact congrArg (fun u : State => Host.Outcome.next u.pump) (if_pos hfull)
  · intro core scope s1 hp hr hh hroom hx hrec
    have hd : s1.dev = s.dev := State.fenceEffect_dev ..
    rw [amArrival_here ho hk hg ht hp hr (by rw [← hd]; exact hh), amDeliver_here hh]
    have hn : ¬ 64 ≤ (s1.amsgs.filter fun m => m.core == core).length := by omega
    dsimp only
    rw [if_neg hn, hx]
    dsimp only
    rw [hrec]
    exact ⟨_, rfl, rfl, rfl, rfl, rfl, rfl, amScope_congr hd .., by simp only [← word_natCast], (word_natCast _).symm⟩
  · rw [amArrival_eq ho hk hg ht hp, if_pos (by simp [hu, Ne.symm hpk])]
    rfl
  · intro scope s1 hu hr
    have hd : s1.dev = s.dev := State.fenceEffect_dev ..
    refine ⟨Config.peerStatus o.id % 3, Nat.mod_lt _ (by decide), ?_⟩
    rw [amArrival_eq ho hk hg ht hp, if_neg (by simp [hu]), hr, if_neg (by decide), amDeliver_peer (by rw [hd]; exact hpk)]
    rfl
  · have hr : s.peerReq? o.id = none := List.find?_eq_none.2 fun r h => by simpa using hn r h
    rw [amsendStatus_eq ho hk hst, State.fromPeer, hr]
  · intro u
    obtain ⟨r, hr⟩ : ∃ r, s.peerReq? o.id = some r := by
      obtain ⟨r, hm, he⟩ := hy
      exact Option.isSome_iff_exists.1 (List.find?_isSome.2 ⟨r, hm, by simp [he]⟩)
    rw [amsendStatus_eq ho hk hst, State.fromPeer, hr]
    refine ⟨fun hp => ?_, fun hp => ?_⟩
    · have hu : s.scaleUp = true := by simp [State.scaleUp, hp]
      simp only [hu, if_true]
      rfl
    · have hu : s.scaleUp = false := by simp [State.scaleUp, hp]
      simp only [hu, Bool.false_eq_true, if_false]
      rfl
  · intro lr
    have hid : m.id = id := by simpa using List.find?_some hm
    rw [handlerGroupPlace_eq hm]
    refine ⟨fun h => by rw [tryHandler_of_later h], fun h => by rw [tryHandler_of_unfit h], fun f hmin h => ?_⟩
    rw [tryHandler_of_fit hmin h, hid]

/-- Settles O56: the task-queue engine and the messages go by the branches of their events; a message's release changes no register of the device, so that its
scope and its package are those it was sent with. -/
theorem tasksAndMessages : Obligations.TasksAndMessages := ⟨taskQueues, activeMessages⟩

end Sys2Proof.Machine
end

section
/-!
SUPPORT. The replies of loads and the values they deliver (R77, R157, R160, R164, R166, R238, R354, R358, R363).
-/

namespace Sys2Proof.Machine

open Claim

/-! ### What a load's bytes give (R164, R166) -/

theorem word_ux_natCast (n v : Nat) : word (ux n v) = BitVec.ofNat 64 (v % 2 ^ n) := by
  have h : ux n v = ((v % 2 ^ n : Nat) : Int) := by rw [ux]; push_cast; rfl
  rw [h, word_natCast]

theorem word_ux64_natCast (v : Nat) : word (ux 64 v) = BitVec.ofNat 64 v := by
  rw [word_ux_natCast]
  exact BitVec.eq_of_toNat_eq (by simp)

theorem iv_invalid_iff (v : Iv) : v.invalid = true ↔ v.valid = false ∧ v.empty? = false := by
  rw [Iv.invalid, Bool.and_eq_true, Bool.not_eq_true', Bool.not_eq_true']

theorem loadedValues : LoadedValues := by
  intro d v
  refine ⟨fun n hn => ⟨?_, ?_⟩, ?_, ?_, ?_, ?_, ?_, iv_invalid_iff _, iv_invalid_iff _⟩
  · rw [loadEffs, sextInt_eq_sx (by omega)]; rfl
  · rw [loadEffs, word_ux_natCast]
  · rw [loadEffs, word_ux64_natCast, word_natCast]
  · rw [loadEffs, word_ux_natCast]
  · rw [loadEffs, word_ux64_natCast]
  · rw [loadEffs, word_ux64_natCast]
  · rw [loadEffs, word_ux64_natCast, word_natCast]

/-! ### An operation that nothing keeps back -/

/-- An operation that may be performed has not been performed. -/
theorem State.queued_of_gate {s : State} {o : Op} (h : s.gate o = true) : o.st = .queued := by
  unfold State.gate at h
  simp only [Bool.and_eq_true] at h
  obtain ⟨⟨⟨hq, -⟩, -⟩, -⟩ := h
  cases hs : o.st <;> simp [hs] at hq
  rfl

theorem State.gate_eq_false_of_performed {s : State} {o : Op} {v : Nat} (h : o.st = .performed v) : s.gate o = false := by
  rw [← Bool.not_eq_true]
  intro hg
  simp [State.queued_of_gate hg] at h

/-- Finding a home changes nothing but the TLBs. -/
theorem locate_memOnly (s : State) (die asid va : Nat) (rewalk : Bool) : MemOnly s (s.locate die asid va rewalk).1 := by
  unfold State.locate
  cases s.translate die asid va rewalk with
  | leaf e base size => exact .ite (.refl s) (.of_mem s _)
  | none l mf => exact .refl s
  | wait => exact .refl s
  | bad n a => exact .refl s

theorem homeFor_memOnly (s : State) (o : Op) (rewalk : Bool) : MemOnly s (s.homeFor o rewalk).1 := by
  unfold State.homeFor
  dsimp only
  split
  · split
    · exact .refl s
    · exact locate_memOnly ..
  · exact locate_memOnly ..

theorem op?_of_homeFor {s s1 : State} {o : Op} {rewalk : Bool} {r : Except Miss Home} (h : s.homeFor o rewalk = (s1, r)) (id : Nat) :
    s1.op? id = s.op? id := by
  have := (homeFor_memOnly s o rewalk).ops
  rw [h] at this
  rw [State.op?, State.op?, this]

theorem orHole_of_none {s : State} {o : Op} (h : s.hole? o = none) (t : State) : orHole s o t = .next t := by
  rw [orHole, h]

section
variable {s s1 : State} {o : Op} {dst : LoadDst} {n : Nat} {pol : Option Word} (hk : o.kind = .load dst n pol)
include hk

theorem foundFault_of_load (s : State) (code : Nat) (a : Word) : s.foundFault o code a = s.faultOp o code a := by
  rw [State.foundFault, hk]

section
variable {id : Nat} (ho : s.op? id = some o) (hh : s.hole? o = none)
include ho hh

theorem loadReply_eq : exec (.loadReply id false) s = .next ((s.performGlobal o false false).deliver id).pump := by
  change execLoadReply id false s = _
  rw [execLoadReply, ho]
  simp only [hk]
  exact orHole_of_none hh _

/-- A load that has been performed is delivered; from a peer with the acknowledgement of its request (R382). -/
theorem loadReply_delivers {v : Nat} (hst : o.st = .performed v) :
    ((∀ r ∈ s.mem.unacked, r.id ≠ o.id) → exec (.loadReply id false) s = .next (s.finishOp o 0 (loadEffs dst v)).pump) ∧
    ((∃ r ∈ s.mem.unacked, r.id = o.id) →
      let u : State := { s with mem := { s.mem with unacked := s.mem.unacked.filter fun x => x.id != o.id } }
      (s.planes ≠ [] → exec (.loadReply id false) s = .next (u.finishOp o 0 (loadEffs dst v)).pump) ∧
      (s.planes = [] → exec (.loadReply id false) s = .next (u.faultOp o 0x14 o.addr).pump)) := by
  have he : exec (.loadReply id false) s = .next (s.fromPeer o fun s _ => s.finishOp o 0 (loadEffs dst v)).pump := by
    rw [loadReply_eq hk ho hh, State.performGlobal, State.gate_eq_false_of_performed hst, if_pos (by decide), State.deliver, ho]
    simp only [State.deliverLoad, hst, hk]
  rw [he]
  constructor
  · intro hn
    rw [State.fromPeer, show s.peerReq? o.id = none from List.find?_eq_none.2 fun r h => by simpa using hn r h]
  · rintro ⟨r, hm, hr⟩ u
    obtain ⟨q, hq⟩ : ∃ q, s.peerReq? o.id = some q := Option.isSome_iff_exists.1 (List.find?_isSome.2 ⟨r, hm, by simp [hr]⟩)
    rw [State.fromPeer, hq]
    refine ⟨fun hp => ?_, fun hp => ?_⟩
    · exact congrArg (fun u : State => Host.Outcome.next u.pump) (if_pos (by simp [State.scaleUp, hp]))
    · exact congrArg (fun u : State => Host.Outcome.next u.pump) (if_neg (by simp [State.scaleUp, hp]))

end

section
variable (hg : s.gate o = true)
include hg

/-- A load whose home is known, where its page allows it and it can be reached, meets the line's colour. -/
theorem performGlobal_of_home {h : Home} (hf : s.homeFor o false = (s1, .ok h)) (hp : permOk o.kind h.entry = true)
    (ht : s1.stackTrained h.node h.addr = true) (hx : s1.frameExists h.node h.addr = true) {s2 : State} (hc : s1.meetColour o h = (s2, true)) :
    s.performGlobal o false false = if s2.uncorrectable o h then (s2.meetError h).foundFault o tcUncorrectable o.addr else s2.atHome o h := by
  rw [State.performGlobal, hg, if_neg (by decide), hf]
  have hw : s1.headerWaits o = false := by rw [State.headerWaits, hk]
  simp only [hp, ht, hx, hw, hc, Bool.not_true, Bool.or_self, Bool.false_eq_true, if_false]
  simp only [State.countRequest, hk]

theorem performGlobal_of_refused {h : Home} (hf : s.homeFor o false = (s1, .ok h)) (hp : permOk o.kind h.entry = false) :
    s.performGlobal o false false = s1.faultOp o tcProtection o.addr := by
  rw [State.performGlobal, hg, if_neg (by decide), hf]
  simp only [hp, Bool.not_false, if_true]
  exact foundFault_of_load hk _ _ _

theorem performGlobal_of_bad {node a : Nat} (hf : s.homeFor o false = (s1, .error (.bad node a))) :
    s.performGlobal o false false = (s1.meetLine node a).faultOp o tcUncorrectable o.addr := by
  rw [State.performGlobal, hg, if_neg (by decide), hf]
  exact foundFault_of_load hk _ _ _

end

end

theorem performGlobal_of_absent {s s1 : State} {o : Op} (hg : s.gate o = true) {l : Nat} {mf : Bool}
    (hf : s.homeFor o false = (s1, .error (.absent l mf))) : s.performGlobal o false false = s1.pageFault o o.addr.toNat l mf := by
  rw [State.performGlobal, hg, if_neg (by decide), hf]

theorem performGlobal_of_wait {s s1 : State} {o : Op} (hg : s.gate o = true) (hf : s.homeFor o false = (s1, .error .wait)) :
    s.performGlobal o false false = s1 := by
  rw [State.performGlobal, hg, if_neg (by decide), hf]

/-- An access to a line without a colour passes. -/
theorem meetColour_of_zero {s : State} {o : Op} {h : Home} {x : Thread} (hx : s.thread? o.tid = some x)
    (hc : mColour (s.metaSeen o.core o.asid (o.addr.toNat / 64) h) = 0) :
    s.meetColour o h = (s.modOp o.id fun y => { y with met := true }, true) := by
  rw [State.meetColour, hx]
  simp only [hc, ite_self, bne_self_eq_false, Bool.false_and, Bool.false_eq_true, if_false, colourCheck, if_true]

/-- A scratch load that can be read is performed at its bank. -/
theorem performScratchLoad_of_read {s : State} {o : Op} {dst : LoadDst} {n : Nat} {grp : Group} (hk : o.kind = .loadS dst n) (hg : s.gate o = true)
    (hh : s.scratchHeld o = false) (ht : s.scratchTarget o = some grp)
    (hb : s.regionBad grp.core grp.scratch (o.addr.toNat % 2 ^ 21) n = false)
    (hi : loadIvBad dst (s.regionRead grp.core grp.scratch (o.addr.toNat % 2 ^ 21) n) = false) :
    s.performScratchLoad o = s.modOp o.id fun y => { y with st := .performed (s.regionRead grp.core grp.scratch (o.addr.toNat % 2 ^ 21) n) } := by
  have ho : (ScrAddr.ofWord o.addr).offset = o.addr.toNat % 2 ^ 21 := rfl
  rw [State.performScratchLoad, hg, if_neg (by decide)]
  simp only [hk, hh, ht, ho, Option.map_some, Option.getD_some, hb, hi, Bool.false_eq_true, if_false]

theorem loadReplies : LoadReplies := by
  intro id s s1 o x dst n v pol h grp ho hh
  have hid : o.id = id := op?_id ho
  refine ⟨fun hk hst => loadReply_delivers hk ho hh hst, fun hk hg hf hp => ?_, fun hk hg hf hp ht hx hth hc => ?_, fun l mf hk hg hf => ?_,
    fun hk hg hf => ?_, fun node a hk hg hf => ?_, fun hk hg hsh ht hb hv hi => ?_⟩
  · rw [loadReply_eq hk ho hh, performGlobal_of_refused hk hg hf hp]
    rfl
  · intro s2
    have hc2 : s1.meetColour o h = (s2, true) := by rw [meetColour_of_zero hth hc, hid]
    rw [loadReply_eq hk ho hh, performGlobal_of_home hk hg hf hp ht hx hc2]
    refine ⟨fun hu => by rw [hu, if_neg (by decide)], fun hu => ?_⟩
    rw [hu, if_pos rfl, foundFault_of_load hk]
    rfl
  · rw [loadReply_eq hk ho hh, performGlobal_of_absent hg hf]
  · have hd : s1.deliver id = s1 := by
      rw [State.deliver, op?_of_homeFor hf, ho]
      simp only [State.deliverLoad, State.queued_of_gate hg]
    rw [loadReply_eq hk ho hh, performGlobal_of_wait hg hf, hd]
  · rw [loadReply_eq hk ho hh, performGlobal_of_bad hk hg hf]
    rfl
  · subst hv
    change execLoadReply id false s = _
    rw [execLoadReply, ho]
    simp only [hk, performScratchLoad_of_read hk hg hsh ht hb hi, hid]

/-- Settles O43: at issue by the checks of each word, and at the reply by the first check that the access breaks; a line without a colour is passed, so that
the access reaches its home. -/
theorem loads : Obligations.Loads := ⟨loadWords, loadedValues, loadReplies⟩

end Sys2Proof.Machine
end

section
/-!
SUPPORT. How stores are performed or fault (R160, R161, R167, R276, R316, R328, R354, R358).
-/

namespace Sys2Proof.Machine

open Claim

/-! ### Stores at the scratch banks -/

section
variable {s : State} {o : Op} {grp : Group} {v n planes : Nat} {src : Word} (hg : s.gate o = true)
include hg

theorem performScratchStore_of_store (hk : o.kind = .storeS v n) (hh : s.scratchHeld o = false) (ht : s.scratchTarget o = some grp) :
    s.performScratchStore o = if s.liveOver grp.core grp.scratch (ScrAddr.ofWord o.addr).offset n = true then s.foundFault o tcClobber o.addr
      else ((s.regionStore grp.core grp.scratch (ScrAddr.ofWord o.addr).offset v o.lost n).shadow o).dropOp o.id := by
  rw [State.performScratchStore, hg, hh, if_neg (by decide), ht]
  simp only [hk]

theorem performScratchStore_of_stpl (hk : o.kind = .stpl planes src) (hh : s.scratchHeld o = false) (ht : s.scratchTarget o = some grp)
    (hl : ∀ j, j < planes → s.liveOver grp.core grp.scratch ((ScrAddr.ofWord o.addr).offset + 128 * j) 4 = false) :
    s.performScratchStore o = if (s.stplMates o).all s.gate = false then s
      else (s.stplMates o).foldl (fun s m => (s.stplOne grp m).dropOp m.id) s := by
  have hn : ((List.range planes).any fun j => s.liveOver grp.core grp.scratch ((ScrAddr.ofWord o.addr).offset + 128 * j) 4) = false :=
    List.any_eq_false.2 fun j hj => by simp [hl j (List.mem_range.1 hj)]
  rw [State.performScratchStore, hg, hh, if_neg (by decide), ht]
  simp only [hk, hn, Bool.false_eq_true, if_false, Bool.not_eq_true']

theorem performMwr_stores {w : Word} (hs : ∀ y ∈ s.saved, y.gid ≠ o.gid) (hgr : s.group? o.gid = some grp) (hr : grp.st ≠ .retired)
    (hl : s.liveOver grp.core grp.accum o.addr.toNat 8 = false) :
    s.performMwr o w = ((s.regionStore grp.core grp.accum o.addr.toNat w.toNat o.lost 8).shadow o).dropOp o.id := by
  have hn : (s.saved.any fun x => x.gid == o.gid) = false := List.any_eq_false.2 fun y hy => by simpa using hs y hy
  have hres : grp.resident = true := by simpa [Group.resident] using hr
  rw [State.performMwr, hg, hn, if_neg (by decide), hgr]
  simp only [hres, hl, Bool.not_true, Bool.false_eq_true, if_false]

end

theorem scratchStores : ScratchStores := by
  intro id s o grp v n planes src ho off
  have he : exec (.scratchStorePerform id) s = execScratchStorePerform id s := rfl
  rw [he, execScratchStorePerform, ho]
  refine ⟨fun hk hg hh ht => ?_, fun hk hg hh ht hl => ?_, fun hk => ?_, fun w hk hg hs hgr hr hl => ?_⟩
  · simp only [hk, performScratchStore_of_store hg hk hh ht]
    refine ⟨fun hl => congrArg (fun u : State => Host.Outcome.next u.pump) (if_neg fun h => Bool.false_ne_true (hl.symm.trans h)), fun hl => ?_⟩
    refine congrArg (fun u : State => Host.Outcome.next u.pump) ((if_pos hl).trans ?_)
    rw [State.foundFault, hk]
    rfl
  · simp only [hk, performScratchStore_of_stpl hg hk hh ht hl]
    refine ⟨fun hm => ?_, fun ⟨m, hm, hmg⟩ => ?_⟩
    · rw [List.all_eq_true.2 hm, if_neg (by decide)]
    · rw [if_pos (List.all_eq_false.2 ⟨m, hm, by simp [hmg]⟩)]
  · rw [State.stplOne, hk]
    rfl
  · simp only [hk, performMwr_stores hg hs hgr hr hl]

/-! ### Store faults and translations -/

/-- A store of a thread that exists ends in its fault: its hash contribution is taken back, and the trap is due (R93, R160, R392). -/
theorem storeFault_eq {s : State} {o : Op} {x : Thread} {d : Due} {back : Word} (hx : s.thread? o.tid = some x)
    (hb : back = match o.kind with
      | .store v n _ hdr => mixStore o.hseq o.addr n (if hdr then v % 2 ^ 32 else v)
      | .storeS v n => mixStore o.hseq o.addr n v
      | _ => 0) :
    s.storeFault o d = woken x.st o.tid (((s.modThread o.tid fun t => { t with hash := t.hash - back }).lateFault o.tid
      { d with code := word (d.code.toNat + 2 ^ 16 + x.pass * 2 ^ 24 : Nat) }).dropOp o.id) := by
  subst hb
  rw [State.storeFault, hx, ← trapWoken_eq_woken, word_natCast]
  rfl

theorem translation_eq {id : Nat} {s : State} {o : Op} {dst : LoadDst} {n : Nat} {pol : Option Word} (rewalk : Bool) (ho : s.op? id = some o)
    (hk : o.kind = .load dst n pol) (hg : s.gate o = true) (hh : s.hole? o = none) :
    exec (.translation id rewalk) s = .next (s.translated o rewalk) := by
  change execTranslation id rewalk s = _
  rw [execTranslation, ho]
  simp only [hk, hg, OpKind.access, OpKind.classes]
  exact orHole_of_none hh _

theorem hole?_of_error {s s1 : State} {o : Op} {e : Miss} (h : s.homeFor o false = (s1, .error e)) : s.hole? o = none := by
  rw [State.hole?, h]

theorem modOp_of_eq (s : State) (id : Nat) {f : Op → Op} (h : ∀ o, f o = o) : s.modOp id f = s := by
  have : (s.ops.map fun o => if o.id = id then f o else o) = s.ops :=
    (List.map_congr_left fun o _ => by rw [h, ite_self]; rfl).trans (List.map_id _)
  rw [State.modOp, this]

theorem storeFaultsAndTranslations : StoreFaultsAndTranslations := by
  intro id s s1 o x v n pol dst d h ho hx found
  have hf : exec (.storeFaultFound id) s = execStoreFaultFound id s := rfl
  rw [hf, execStoreFaultFound, ho]
  refine ⟨fun hk hst => ?_, fun hk hst => ?_, fun hk hst => ?_, fun hk hg hh => ?_, fun hk hg hh hm => ?_, fun hk hg hh hm => ?_,
    fun l mf hk hg hm => ?_, fun node a hk hg hm => ?_⟩
  · simp only [hst]
    exact congrArg _ (storeFault_eq hx (by rw [hk]; rfl))
  · simp only [hst]
    exact congrArg _ (storeFault_eq hx (by rw [hk]; rfl))
  · simp only [hst]
    exact congrArg _ (storeFault_eq hx (by rw [hk]))
  · change execTranslation id false s = _
    rw [execTranslation, ho]
    simp only [hk, hg, OpKind.access, OpKind.classes]
    exact orHole_of_none hh _
  · rw [translation_eq false ho hk hg hh, State.translated, hm]
    exact congrArg _ (modOp_of_eq s1 o.id fun y => by simp)
  · rw [translation_eq true ho hk hg hh, State.translated, hm]
    simp only [Bool.or_true]
  · rw [translation_eq false ho hk hg (hole?_of_error hm), State.translated, hm]
  · rw [translation_eq false ho hk hg (hole?_of_error hm), State.translated, hm]
    exact congrArg _ (foundFault_of_load hk _ _ _)

/-- Settles O45: each store that nothing keeps takes the branch of its bank or of its fault, and a translation that finds a home changes nothing else. -/
theorem storeEvents : Obligations.StoreEvents := ⟨scratchStores, storeFaultsAndTranslations⟩

end Sys2Proof.Machine
end

section
/-!
SUPPORT. The bytes and metadata at the homes, and what the caches' events do to them (R167, R180, R182, R183, R188, R382).
-/

namespace Sys2Proof.Machine

open Claim

/-! ### What stands at the homes -/

/-- The same bytes, metadata and dirty bits at every home. -/
structure SameHomes (m m' : Mem) : Prop where
  bytes : m'.bytes = m.bytes
  lineMeta : m'.lineMeta = m.lineMeta
  sideBase : m'.sideBase = m.sideBase
  dirtyMap : m'.dirtyMap = m.dirtyMap

theorem SameHomes.refl (m : Mem) : SameHomes m m := ⟨rfl, rfl, rfl, rfl⟩

theorem SameHomes.trans {a b c : Mem} (h : SameHomes a b) (g : SameHomes b c) : SameHomes a c :=
  ⟨g.bytes.trans h.bytes, g.lineMeta.trans h.lineMeta, g.sideBase.trans h.sideBase, g.dirtyMap.trans h.dirtyMap⟩

theorem SameHomes.setDirty {m m' : Mem} (h : SameHomes m m') (e v : Nat) : SameHomes (m.setDirty e v) (m'.setDirty e v) := by
  obtain ⟨hb, hl, hs, hd⟩ := h
  have hsa (d : Nat) : m'.sideAt d = m.sideAt d := by rw [Mem.sideAt, Mem.sideAt, hs]
  simp only [Mem.setDirty, hsa]
  split
  · exact ⟨by simp only [Mem.wr, hb], hl, hs, hd⟩
  · exact ⟨hb, hl, hs, by simp only [hd]⟩

theorem SameHomes.markDirty {m m' : Mem} (h : SameHomes m m') (x : Home) : SameHomes (m.markDirty x) (m'.markDirty x) := by
  have hd (e : Nat) : m'.dirtyOf e = m.dirtyOf e := by simp only [Mem.dirtyOf, Mem.sideAt, Mem.rd, h.sideBase, h.bytes, h.dirtyMap]
  simp only [Mem.markDirty, hd]
  split
  · exact h.setDirty _ _
  · exact h

/-- What is merged at a home depends on what stands at the homes alone. -/
theorem SameHomes.mergeHome {m m' : Mem} (h : SameHomes m m') (x : Home) (data : BitVec 512) (mask : BitVec 64) (kinds : BitVec 32) :
    SameHomes (m.mergeHome x data mask kinds) (m'.mergeHome x data mask kinds) := by
  unfold Mem.mergeHome
  split
  · exact h
  · refine SameHomes.markDirty ?_ x
    have hr : m'.rd x.node x.addr 64 = m.rd x.node x.addr 64 := by simp only [Mem.rd, h.bytes]
    have hw (d : Nat) : SameHomes (m.wr x.node x.addr 64 d) (m'.wr x.node x.addr 64 d) :=
      ⟨by simp only [Mem.wr, h.bytes], h.lineMeta, h.sideBase, h.dirtyMap⟩
    simp only [hr]
    split
    · exact ⟨(hw _).bytes, by simp only [Mem.setMeta, Mem.metaAt, (hw _).lineMeta], h.sideBase, h.dirtyMap⟩
    · exact hw _

/-- The memory apart from what stands at the homes: a merge there leaves it as it is. -/
theorem mergeHome_eq (m : Mem) (x : Home) (data : BitVec 512) (mask : BitVec 64) (kinds : BitVec 32) : m.mergeHome x data mask kinds =
    { m with bytes := (m.mergeHome x data mask kinds).bytes, lineMeta := (m.mergeHome x data mask kinds).lineMeta,
             dirtyMap := (m.mergeHome x data mask kinds).dirtyMap } := by
  have hs (m : Mem) (e v : Nat) : m.setDirty e v = { m with bytes := (m.setDirty e v).bytes, dirtyMap := (m.setDirty e v).dirtyMap } := by
    unfold Mem.setDirty
    split <;> rfl
  have hd (m : Mem) : m.markDirty x = { m with bytes := (m.markDirty x).bytes, dirtyMap := (m.markDirty x).dirtyMap } := by
    unfold Mem.markDirty
    split
    · exact hs _ _ _
    · rfl
  unfold Mem.mergeHome
  split
  · rfl
  · dsimp only
    rw [hd]
    split <;> rfl

theorem mergeHome_wts (m : Mem) (x : Home) (data : BitVec 512) (mask : BitVec 64) (kinds : BitVec 32) :
    (m.mergeHome x data mask kinds).wts = m.wts := by rw [mergeHome_eq]

theorem mergeHome_wbs (m : Mem) (x : Home) (data : BitVec 512) (mask : BitVec 64) (kinds : BitVec 32) :
    (m.mergeHome x data mask kinds).wbs = m.wbs := by rw [mergeHome_eq]

/-! ### The dies' copies -/

/-- Lines leave a die's slice: the memory is the same but for fewer copies and own lines. -/
theorem evictL2s_mem (s : State) (die slice : Nat) (ownOnly : Bool) (left n : Nat) :
    let t := s.evictL2s die slice ownOnly left n
    t.mem = { s.mem with copies := t.mem.copies, own := t.mem.own } ∧ t.mem.copies ⊆ s.mem.copies := by
  induction n generalizing s with
  | zero => exact ⟨rfl, List.Subset.refl _⟩
  | succ n ih =>
    unfold State.evictL2s
    dsimp only
    split
    · exact ⟨rfl, List.Subset.refl _⟩
    · obtain ⟨hm, hc⟩ := ih ((s.dropCopies (s.victimsL2 die slice ownOnly).1).dropOwn (s.victimsL2 die slice ownOnly).2)
      refine ⟨hm.trans rfl, List.Subset.trans hc (List.filter_subset_self _)⟩

theorem roomL2_mem (s : State) (die line : Nat) (own : Bool) :
    let t := s.roomL2 die line own
    t.mem = { s.mem with copies := t.mem.copies, own := t.mem.own } ∧ t.mem.copies ⊆ s.mem.copies := by
  intro t
  obtain ⟨h1, c1⟩ := evictL2s_mem s die (sliceOf line) true (sliceLines - if own then 1 else 0) (s.linesIn die (sliceOf line) true)
  generalize hu : s.evictL2s die (sliceOf line) true (sliceLines - if own then 1 else 0) (s.linesIn die (sliceOf line) true) = u at h1 c1
  obtain ⟨h2, c2⟩ := evictL2s_mem u die (sliceOf line) false (u.cacheLines die - 1) (u.linesIn die (sliceOf line) false)
  have ht : t = u.evictL2s die (sliceOf line) false (u.cacheLines die - 1) (u.linesIn die (sliceOf line) false) := by
    rw [← hu]; rfl
  rw [ht]
  exact ⟨h2.trans (by rw [h1]), List.Subset.trans c2 c1⟩

theorem touchOwn_mem (s : State) (die asid line : Nat) (h : Home) (alloc : Bool) (cls : Nat) :
    let t := s.touchOwn die asid line h alloc cls
    t.mem = { s.mem with copies := t.mem.copies, own := t.mem.own } := by
  unfold State.touchOwn
  split
  · rfl
  · split
    · dsimp only
      rw [(roomL2_mem s die line true).1]
    · rfl

theorem writePeer_mem (s : State) (h : Home) (line : Nat) : (s.writePeer h line).mem =
    { s.mem with peerSeq := (s.writePeer h line).mem.peerSeq, peerLog := (s.writePeer h line).mem.peerLog } := by
  unfold State.writePeer
  split <;> rfl

/-- Dirty bytes that reach a die which keeps no copy of their line are merged at its home. -/
theorem mergeL2_of_home {s : State} {die asid line : Nat} {h : Home} {data : BitVec 512} {mask : BitVec 64} (kinds : BitVec 32) (alloc : Bool) (cls : Nat)
    (hc : copyable die h = false) (hm : mask ≠ 0) :
    let t := s.mergeL2 die asid line h data mask kinds alloc cls
    t = { s with mem := t.mem } ∧ SameHomes (s.mem.mergeHome h data mask kinds) t.mem ∧ t.mem.wbs = s.mem.wbs ∧ t.mem.wts = s.mem.wts := by
  intro t
  have ht : t = { (s.touchOwn die asid line h alloc cls).writePeer h line with
      mem := ((s.touchOwn die asid line h alloc cls).writePeer h line).mem.mergeHome h data mask kinds } := by
    show s.mergeL2 die asid line h data mask kinds alloc cls = _
    rw [State.mergeL2, if_neg hm, hc]
    rfl
  have hmem : ((s.touchOwn die asid line h alloc cls).writePeer h line).mem = { s.mem with
      copies := ((s.touchOwn die asid line h alloc cls).writePeer h line).mem.copies
      own := ((s.touchOwn die asid line h alloc cls).writePeer h line).mem.own
      peerSeq := ((s.touchOwn die asid line h alloc cls).writePeer h line).mem.peerSeq
      peerLog := ((s.touchOwn die asid line h alloc cls).writePeer h line).mem.peerLog } := by
    rw [writePeer_mem, touchOwn_mem]
  have hs : SameHomes s.mem ((s.touchOwn die asid line h alloc cls).writePeer h line).mem := by
    rw [hmem]
    exact ⟨rfl, rfl, rfl, rfl⟩
  have hst : MemOnly s t := by
    show MemOnly s (s.mergeL2 ..)
    exact State.mergeL2_memOnly ..
  have hf : t.fresh = s.fresh := by rw [ht]; simp
  refine ⟨?_, ?_, ?_, ?_⟩
  · rw [MemOnly, hf] at hst
    exact hst
  · rw [ht]; exact hs.mergeHome h data mask kinds
  · rw [ht]; show (Mem.mergeHome ..).wbs = _; rw [mergeHome_wbs, hmem]
  · rw [ht]; show (Mem.mergeHome ..).wts = _; rw [mergeHome_wts, hmem]

end Sys2Proof.Machine
end

section
/-!
SUPPORT. Fences, cache words and the events of the caches (R167, R175 to R184, R188, R382).
-/

namespace Sys2Proof.Machine

open Claim

/-! ### The words at issue -/

theorem cacheReq_eq (b : BitVec 6) (mk : Nat → OpKind) (l : BitVec 6) (iss : Issue) (t : Thread) : cacheReq b mk l iss t =
    if (srcG iss t .zero b).toNat ≥ 2 ^ 52 then .error (.mk2 0x03 (srcG iss t .zero b))
    else .ok (.plain (srcG iss t .zero b) (mk ((srcG iss t .zero l).toNat % 2 ^ 32))) := rfl

theorem fenceAndCacheWords : FenceAndCacheWords := by
  intro c g d b l k s range
  refine ⟨rfl, ?_, rfl, rfl, ?_⟩
  · change execPfl g b l s = _
    simp only [execPfl, globalReq_eq]
    rfl
  · change execAcqr g d b l s = _
    simp only [execAcqr, opWord, bne_iff_ne]
    refine congrArg (fun f => Host.Outcome.next (s.startOps g true false [.g b.toNat, .g l.toNat, .g d.toNat] f)) (funext₂ fun iss t => ?_)
    refine if_congr ?_ rfl rfl
    have := (srcG iss t .sign d).isLt
    omega

/-! ### Fences -/

theorem op?_dropOp (s : State) (id : Nat) : (s.dropOp id).op? id = none :=
  List.find?_eq_none.2 fun o ho => by simpa using (List.mem_filter.1 ho).2

theorem fenceRelease_eq {id : Nat} {s : State} {o : Op} {p q k : Nat} (ho : s.op? id = some o) (hk : o.kind = .fence p q k) (hg : s.gate o = true)
    (hp : p ≠ 0) (hq : q ≠ 0) : exec (.fenceReleaseHeld id) s = .next (if s.releaseStuck o.core o.asid k then s
      else (s.fenceEffect o.tid o.seq o.core o.asid k (p / 2 % 2 == 1 || decide (q / 2 ≠ 0)) (q % 2 == 1)).dropOp o.id).pump := by
  change execFenceReleaseHeld id s = _
  rw [execFenceReleaseHeld, ho]
  simp only [State.performFence, hk, hg, Bool.not_true, Bool.false_eq_true, if_false, if_neg (not_or.2 ⟨hp, hq⟩)]

theorem wtStuck_congr {s t : State} (h : t.dev = s.dev) (w : WriteThrough) : t.wtStuck w = s.wtStuck w := by
  simp only [State.wtStuck, State.stackTrained, State.unreachable, State.scaleUp, State.planes, State.hostUp, h]

theorem cleanL1_dev (s : State) (core : Nat) (which : L1Line → Bool) : (s.cleanL1 core which).dev = s.dev := by simp

theorem releaseStuck_iff (s : State) (core asid k : Nat) : s.releaseStuck core asid k = true ↔
    ∃ w ∈ (s.cleanL1 core (·.asid == asid)).mem.wts, w.die = core / 128 ∧ w.asid = asid ∧ s.wtStuck w = true ∧ 4 ≤ k ∧ (w.home.node < 8 ∨ 5 ≤ k) := by
  simp only [State.releaseStuck, State.drainStuck, List.any_eq_true, Bool.and_eq_true, beq_iff_eq, decide_eq_true_eq, dieOf,
    wtStuck_congr (cleanL1_dev s core _), and_assoc]

/-- Nothing of the memory and the caches differs but what acquires have made visible. -/
def BoundsOnly (s t : State) : Prop := (∃ r, t.mem = { s.mem with relAcq := r }) ∧ t.cores = s.cores

theorem releaseAt_narrow (s : State) (tid core asid : Nat) {k : Nat} (hk : k < 2) : BoundsOnly s (s.releaseAt tid core asid k) := by
  simp only [State.releaseAt, if_pos hk, if_pos (show k < 4 by omega), State.passBound, State.raiseBound]
  split <;> exact ⟨⟨_, rfl⟩, rfl⟩

theorem acquireAt_narrow (s : State) (tid seq core asid : Nat) {k : Nat} (hk : k < 2) :
    (s.acquireAt tid seq core asid k).mem = s.mem ∧ (s.acquireAt tid seq core asid k).cores = s.cores := by
  simp only [State.acquireAt, if_pos hk, if_pos (show k < 4 by omega)]
  exact ⟨rfl, rfl⟩

/-- Below quad scope a fence changes no cache. -/
theorem fenceEffect_narrow (s : State) (tid seq core asid : Nat) {k : Nat} (rel acq : Bool) (hk : k < 2) :
    BoundsOnly s (s.fenceEffect tid seq core asid k rel acq) := by
  have hr : BoundsOnly s (if rel then s.releaseAt tid core asid k else s) := by
    cases rel
    · exact ⟨⟨_, rfl⟩, rfl⟩
    · exact releaseAt_narrow s tid core asid hk
  unfold State.fenceEffect
  cases acq
  · exact hr
  · obtain ⟨hm, hc⟩ := acquireAt_narrow (if rel then s.releaseAt tid core asid k else s) tid seq core asid hk
    exact ⟨hr.1.imp fun _ h => hm.trans h, hc.trans hr.2⟩

/-- From quad scope on an acquire leaves no line of its context in the core's L1. -/
theorem acquireAt_l1 (s : State) (tid seq core asid : Nat) {k : Nat} (hk : 2 ≤ k) :
    ∀ l ∈ ((s.acquireAt tid seq core asid k).coreAt core).l1, l.asid ≠ asid := by
  have hc : (s.acquireAt tid seq core asid k).cores = (s.dropL1 core (·.asid == asid)).cores := by
    unfold State.acquireAt
    rw [if_neg (show ¬ k < 2 by omega)]
    split <;> rfl
  intro l hl
  rw [State.coreAt, hc] at hl
  simpa using dropL1_not_selected hl

/-! ### The sweep (R182) -/

theorem sendBack_sends {s : State} {core asid line : Nat} {l : L1Line} (hl : s.l1? core asid line = some l) (hd : l.dirty ≠ 0) :
    let t := s.sendBack core l
    t.mem = { s.mem with wbs := t.mem.wbs } ∧
    (∃ w, t.mem.wbs = s.mem.wbs ++ [w] ∧ w.data = l.data ∧ w.mask = l.dirty ∧ w.home = l.home ∧ w.core = core) ∧
    ∀ x, t.l1? core asid line = some x → x.dirty = 0 ∧ x.data = l.data ∧ x.valid = l.valid := by
  have hkey : l.asid = asid ∧ l.line = line := by simpa using List.find?_some hl
  intro t
  have ht : t = _ := if_neg hd
  have hcore : (t.coreAt core).l1 = (s.coreAt core).l1.map fun x => if x.asid = l.asid ∧ x.line = l.line then { x with dirty := 0 } else x := by
    rw [ht]
    exact congrArg Core.l1 ((State.coreAt_modCore _ _ _ (by intro k; rfl) core).trans (if_pos rfl))
  refine ⟨?_, ?_, fun x hx => ?_⟩
  · rw [ht]; simp
  · rw [ht]
    exact ⟨_, congrArg (fun m : Mem => m.wbs ++ [_]) (State.modCore_mem s core _), rfl, rfl, rfl, rfl⟩
  · rw [State.l1?, hcore, List.find?_map] at hx
    have hp : (fun y : L1Line => y.asid == asid && y.line == line) ∘
        (fun x : L1Line => if x.asid = l.asid ∧ x.line = l.line then { x with dirty := 0 } else x) = fun y => y.asid == asid && y.line == line := by
      funext y
      simp only [Function.comp_apply]
      split <;> rfl
    rw [hp, show List.find? (fun y : L1Line => y.asid == asid && y.line == line) (s.coreAt core).l1 = some l from hl, Option.map_some,
      if_pos ⟨rfl, rfl⟩] at hx
    obtain rfl := Option.some.inj hx
    exact ⟨rfl, rfl, rfl⟩

/-! ### Write-backs and write-throughs on their way (R180, R183, R188, R382) -/

theorem copyOf?_key {s : State} {die asid line : Nat} {c : DieCopy} (h : s.copyOf? die asid line = some c) :
    c.die = die ∧ c.asid = asid ∧ c.line = line := by
  simpa [and_assoc] using List.find?_some h

/-- The copy of a line that a write-back finds or allocates, with its bytes. -/
def writtenBack (s : State) (h : Home) (data : BitVec 512) (mask : BitVec 64) (kinds : BitVec 32) (cls : Nat) (c : DieCopy) : DieCopy :=
  { c with data := mergeLine c.data data mask, valid := c.valid ||| mask,
           mdata := if peME h.entry then mergeKinds c.mdata kinds mask 8 else c.mdata, cls := cls, used := s.fresh }

/-- The copy that a write-back allocates. -/
def newCopy (s : State) (die asid line : Nat) (h : Home) (cls : Nat) : DieCopy :=
  { die := die, asid := asid, line := line, data := 0, valid := 0, mdata := s.mem.metaAt h.node h.addr, home := h, filled := s.fresh, cls := cls,
    used := s.fresh }

/-- The copies of a die once a write-back has reached it. -/
def copiesAfter (s : State) (die asid line : Nat) (h : Home) (data : BitVec 512) (mask : BitVec 64) (kinds : BitVec 32) (cls : Nat) : State :=
  if (s.copyOf? die asid line).isSome then
    { s with mem := { s.mem with copies := s.mem.copies.map fun c =>
        if c.die = die ∧ c.asid = asid ∧ c.line = line then writtenBack s h data mask kinds cls c else c } }
  else s.addCopy (writtenBack s h data mask kinds cls (newCopy s die asid line h cls))

theorem addCopy_frame (s : State) (c : DieCopy) : ∃ cs ow, s.addCopy c = { s with mem := { s.mem with copies := cs, own := ow } } := by
  have hm := s.roomL2_memOnly c.die c.line false
  rw [MemOnly, State.roomL2_fresh, (roomL2_mem s c.die c.line false).1] at hm
  refine ⟨(s.roomL2 c.die c.line false).mem.copies ++ [c], (s.roomL2 c.die c.line false).mem.own, ?_⟩
  unfold State.addCopy
  generalize s.roomL2 c.die c.line false = u at hm
  rw [hm]

/-- Only the die's lines differ. -/
theorem copiesAfter_frame (s : State) (die asid line : Nat) (h : Home) (data : BitVec 512) (mask : BitVec 64) (kinds : BitVec 32) (cls : Nat) :
    ∃ cs ow, copiesAfter s die asid line h data mask kinds cls = { s with mem := { s.mem with copies := cs, own := ow } } := by
  unfold copiesAfter
  split
  · exact ⟨_, _, rfl⟩
  · exact addCopy_frame s _

theorem copiesAfter_found (s : State) (die asid line : Nat) (h : Home) (data : BitVec 512) (mask : BitVec 64) (kinds : BitVec 32) (cls : Nat) :
    ∃ c, (copiesAfter s die asid line h data mask kinds cls).copyOf? die asid line = some c ∧
      (∀ c0, s.copyOf? die asid line = some c0 → c.data = mergeLine c0.data data mask ∧ c.valid = c0.valid ||| mask ∧ c.filled = c0.filled) ∧
      (s.copyOf? die asid line = none → c.data = mergeLine 0 data mask ∧ c.valid = mask ∧ c.home = h) := by
  unfold copiesAfter
  cases hc : s.copyOf? die asid line with
  | some c0 =>
    refine ⟨writtenBack s h data mask kinds cls c0, ?_, fun c1 h1 => ?_, nofun⟩
    · rw [Option.isSome_some, if_pos rfl]
      show List.find? _ (List.map _ s.mem.copies) = _
      rw [List.find?_map]
      have hp : (fun c : DieCopy => c.die == die && c.asid == asid && c.line == line) ∘
          (fun c : DieCopy => if c.die = die ∧ c.asid = asid ∧ c.line = line then writtenBack s h data mask kinds cls c else c) =
          fun c => c.die == die && c.asid == asid && c.line == line := by
        funext y
        simp only [Function.comp_apply]
        split <;> rfl
      rw [hp, show List.find? (fun c : DieCopy => c.die == die && c.asid == asid && c.line == line) s.mem.copies = some c0 from hc,
        Option.map_some, if_pos (copyOf?_key hc)]
    · obtain rfl := Option.some.inj h1
      exact ⟨rfl, rfl, rfl⟩
  | none =>
    refine ⟨writtenBack s h data mask kinds cls (newCopy s die asid line h cls), ?_, fun c0 h0 => absurd h0 (Option.some_ne_none c0).symm, fun _ => ?_⟩
    rw [Option.isSome_none, if_neg (by decide)]
    show List.find? _ ((s.roomL2 die line false).mem.copies ++ [_]) = _
    rw [List.find?_append, List.find?_eq_none.2 fun c hm => List.find?_eq_none.1 hc c ((roomL2_mem s die line false).2 hm)]
    simp only [writtenBack, newCopy, Option.none_or, List.find?_cons, beq_self_eq_true, Bool.and_self]
    simp only [writtenBack, newCopy]
    exact ⟨trivial, BitVec.zero_or, trivial⟩

/-- A write-through leaves a die for its home; one to a peer is a request (R183, R381). -/
def launchWt (s : State) (n : Nat) (h : Home) (line : Nat) (x : WriteThrough) : State :=
  let s1 := if h.node < 8 then s else s.sent (s.newPeer n (nodePkg h.node) line) true
  { s1 with mem := { s1.mem with wts := s1.mem.wts ++ [x] }, fresh := n + 1 }

/-- Dirty bytes that reach a die which may keep copies of their line are in its copy, and on their way to the home. -/
theorem mergeL2_of_copy {s : State} {die asid line : Nat} {h : Home} {data : BitVec 512} {mask : BitVec 64} (kinds : BitVec 32) (cls : Nat)
    (hc : copyable die h = true) (hm : mask ≠ 0) :
    let t := s.mergeL2 die asid line h data mask kinds true cls
    let x : WriteThrough := { id := s.fresh, die := die, asid := asid, line := line, data := data, mask := mask, kinds := kinds, home := h }
    t = { s with mem := t.mem, fresh := s.fresh + 1 } ∧ t.mem.bytes = s.mem.bytes ∧ t.mem.lineMeta = s.mem.lineMeta ∧ t.mem.wbs = s.mem.wbs ∧
    t.mem.wts = s.mem.wts ++ [x] ∧
    (h.node < 8 → t.mem.unacked = s.mem.unacked ∧ t.mem.peerSeq = s.mem.peerSeq) ∧
    (8 ≤ h.node → t.mem.peerSeq = s.mem.peerSeq + 1 ∧ t.mem.unacked = s.mem.unacked ++
      [{ id := s.fresh, pkg := (h.node - 8) / 4, plane := s.planeOf line, line := line, seq := s.mem.peerSeq }]) ∧
    ∃ c, t.copyOf? die asid line = some c ∧
      (∀ c0, s.copyOf? die asid line = some c0 → c.data = mergeLine c0.data data mask ∧ c.valid = c0.valid ||| mask ∧ c.filled = c0.filled) ∧
      (s.copyOf? die asid line = none → c.data = mergeLine 0 data mask ∧ c.valid = mask ∧ c.home = h) := by
  intro t x
  obtain ⟨cs, ow, hs1⟩ := copiesAfter_frame s die asid line h data mask kinds cls
  obtain ⟨c, hc1, hc2⟩ := copiesAfter_found s die asid line h data mask kinds cls
  have ht : t = launchWt (copiesAfter s die asid line h data mask kinds cls) s.fresh h line x := by
    show s.mergeL2 die asid line h data mask kinds true cls = _
    rw [State.mergeL2, if_neg hm, if_neg (by simp [hc])]
    rfl
  have hcopy : t.copyOf? die asid line = (copiesAfter s die asid line h data mask kinds cls).copyOf? die asid line := by
    rw [ht, launchWt]
    split <;> rfl
  refine ⟨?_, ?_, ?_, ?_, ?_, fun hn => ?_, fun hn => ?_, c, hcopy.trans hc1, hc2⟩
  all_goals rw [ht, hs1, launchWt]
  · split <;> rfl
  · split <;> rfl
  · split <;> rfl
  · split <;> rfl
  · split <;> rfl
  · rw [if_pos hn]
    exact ⟨rfl, rfl⟩
  · rw [if_neg (by omega)]
    exact ⟨rfl, rfl⟩

theorem writebackArrival_eq {id : Nat} {s : State} {w : WriteBack} (h : s.mem.wbs.find? (fun x => x.id == id) = some w) :
    exec (.writebackArrival id) s = .next (if s.wbWaits w then s else s.wbArrives w) := by
  change execWritebackArrival id s = _
  rw [execWritebackArrival, h]

theorem writeThroughArrival_eq {id : Nat} {s : State} {w : WriteThrough} (h : s.mem.wts.find? (fun x => x.id == id) = some w) :
    exec (.writeThroughArrival id) s = .next (if s.wtWaits w || s.wtStuck w then s else s.wtArrives w) := by
  change execWriteThroughArrival id s = _
  rw [execWriteThroughArrival, h]

/-- A write-through that arrives is merged at its home; the request of one to a peer is recorded there and acknowledged. -/
theorem wtArrives_frame (s : State) (w : WriteThrough) :
    s.wtArrives w = { s with mem := (s.wtArrives w).mem } ∧ SameHomes (s.mem.mergeHome w.home w.data w.mask w.kinds) (s.wtArrives w).mem ∧
    (s.wtArrives w).mem.wts = s.mem.wts.filter (·.id != w.id) ∧ (s.wtArrives w).mem.peerSeq = s.mem.peerSeq := by
  unfold State.wtArrives
  cases s.peerReq? w.id with
  | none =>
    refine ⟨rfl, ⟨rfl, rfl, rfl, rfl⟩, rfl, ?_⟩
    show (Mem.mergeHome ..).peerSeq = _
    rw [mergeHome_eq]
  | some r =>
    have hs : SameHomes s.mem ((s.recorded r 0).ackPeer w.id).mem := ⟨rfl, rfl, rfl, rfl⟩
    have hm := hs.mergeHome w.home w.data w.mask w.kinds
    refine ⟨rfl, ⟨hm.bytes, hm.lineMeta, hm.sideBase, hm.dirtyMap⟩, rfl, ?_⟩
    show (Mem.mergeHome ..).peerSeq = _
    rw [mergeHome_eq]
    rfl

theorem wtArrives_of_peer {s : State} {w : WriteThrough} {r : PeerReq} (h : s.peerReq? w.id = some r) :
    (s.wtArrives w).mem.unacked = s.mem.unacked.filter (·.id != w.id) ∧
    ({ pkg := r.pkg, seq := r.seq, old := 0 } : PeerDone) ∈ (s.wtArrives w).mem.peerLog := by
  rw [State.wtArrives, h]
  dsimp only
  rw [mergeHome_eq]
  exact ⟨rfl, List.mem_append_right _ (List.mem_singleton.2 rfl)⟩

theorem cacheEvents : CacheEvents := by
  intro id s
  refine ⟨fun o p q k ho hk hg hp hq h2 => ?_, fun o p q k ho hk hg hp hq h2 hw => ?_, fun o p q k w ho hk hg hp hq h4 hm hd ha hs hn => ?_,
    fun o v len ho hk hg => ?_, fun core asid line l hl hd => ?_, fun w hw hc hm => ⟨fun hwt => ?_, fun hwt => ?_⟩,
    fun w hw hc hm => ⟨fun hwt => ?_, fun hwt => ?_⟩, fun w hw => ⟨fun hs => ?_, fun h1 h2 hr => ?_, fun r h1 h2 hr => ?_⟩⟩
  · have hid : o.id = id := op?_id ho
    have hs : s.releaseStuck o.core o.asid k = false := by
      rw [← Bool.not_eq_true, releaseStuck_iff]
      rintro ⟨w, -, -, -, -, h4, -⟩
      omega
    obtain ⟨⟨r, hmem⟩, hcores⟩ := fenceEffect_narrow s o.tid o.seq o.core o.asid (p / 2 % 2 == 1 || decide (q / 2 ≠ 0)) (q % 2 == 1) h2
    refine ⟨(s.fenceEffect o.tid o.seq o.core o.asid k _ _).dropOp o.id, by rw [fenceRelease_eq ho hk hg hp hq, hs, if_neg (by decide)],
      by rw [hid]; exact op?_dropOp _ _, ?_, hcores⟩
    rw [State.dropOp_mem, hmem]
  · have hs : s.releaseStuck o.core o.asid k = false := by
      rw [← Bool.not_eq_true, releaseStuck_iff]
      rintro ⟨w, hm, hd, ha, hst, h4, -⟩
      rw [hw w hm hd ha h4] at hst
      cases hst
    have hid : o.id = id := op?_id ho
    refine ⟨_, by rw [fenceRelease_eq ho hk hg hp (by omega), hs, if_neg (by decide)], by rw [hid]; exact op?_dropOp _ _, ?_⟩
    rw [State.fenceEffect, if_pos (by simp [hq])]
    exact acquireAt_l1 _ o.tid o.seq o.core o.asid h2
  · rw [fenceRelease_eq ho hk hg hp hq, (releaseStuck_iff ..).2 ⟨w, hm, hd, ha, hs, h4, hn⟩, if_pos rfl]
  · intro s1
    change execAcqrComplete id s = _
    rw [execAcqrComplete, ho]
    simp only [hk, hg, Bool.not_true, Bool.false_eq_true, if_false]
    rfl
  · refine ⟨_, ?_, sendBack_sends hl hd⟩
    change execL1SweepWriteback core asid line s = _
    rw [execL1SweepWriteback, hl]
  · rw [writebackArrival_eq hw, if_pos hwt]
  · obtain ⟨he, hh, hb, ht⟩ := mergeL2_of_home (s := { s with mem := { s.mem with wbs := s.mem.wbs.filter (·.id != w.id) } }) (asid := w.asid)
      (line := w.line) (data := w.data) w.kinds true w.cls hc hm
    have hsame : SameHomes s.mem { s.mem with wbs := s.mem.wbs.filter (·.id != w.id) } := ⟨rfl, rfl, rfl, rfl⟩
    have hall := (hsame.mergeHome w.home w.data w.mask w.kinds).trans hh
    exact ⟨s.wbArrives w, by rw [writebackArrival_eq hw, hwt, if_neg (by decide)], he, hall.bytes, hall.lineMeta, hb, ht⟩
  · rw [writebackArrival_eq hw, if_pos hwt]
  · obtain ⟨he, hb, hl, hwb, hwts, hn1, hn2, c, hc1, hc2, hc3⟩ := mergeL2_of_copy
      (s := { s with mem := { s.mem with wbs := s.mem.wbs.filter (·.id != w.id) } }) (asid := w.asid) (line := w.line) (data := w.data) w.kinds w.cls hc hm
    exact ⟨s.wbArrives w, _, c, by rw [writebackArrival_eq hw, hwt, if_neg (by decide)], he, hb, hl, hwb, hwts, rfl, rfl, rfl, rfl, rfl, rfl, rfl, hn1, hn2, hc1, hc2, hc3⟩
  · rw [writeThroughArrival_eq hw, if_pos (by rcases hs with h | h <;> simp [h])]
  · rw [writeThroughArrival_eq hw, h1, h2, if_neg (by decide), State.wtArrives, show s.peerReq? w.id = none from hr]
  · obtain ⟨he, hh, hwts, hseq⟩ := wtArrives_frame s w
    obtain ⟨hu, hlog⟩ := wtArrives_of_peer (s := s) hr
    exact ⟨_, by rw [writeThroughArrival_eq hw, h1, h2, if_neg (by decide)], he, hh.bytes, hwts, hu, hseq, hlog⟩

/-- Settles O46: a fence goes by its scope and by whether its release is stuck; dirty bytes that leave an L1 are merged at the home or in the die's copy, and a
merge at a home depends on nothing but what stands there. -/
theorem fencesAndCaches : Obligations.FencesAndCaches := ⟨fenceAndCacheWords, cacheEvents⟩

end Sys2Proof.Machine
end

section
/-!
SUPPORT. What atomics do when they are performed (R172, R173, R180 to R183, R382, R388 to R390, R392).
-/

namespace Sys2Proof.Machine

open Claim

/-! ### The functions (R172) -/

theorem atomicFunctions : AtomicFunctions := by
  intro op n old v e hn ho hv he
  have hpos : 0 < n := by omega
  have hmod : (old + v) % 2 ^ n < 2 ^ n := Nat.mod_lt _ (Nat.two_pow_pos n)
  have eq : atomicNew op n old v e = rmw op n old v e := by
    cases op with
    | max => simp only [atomicNew, rmw, sextInt_eq_sx hpos]
    | min => simp only [atomicNew, rmw, sextInt_eq_sx hpos]
    | maxu => simp only [atomicNew, rmw]; split <;> omega
    | minu => simp only [atomicNew, rmw]; split <;> omega
    | add => rfl
    | and => rfl
    | or => rfl
    | xor => rfl
    | swap => rfl
    | cas => rfl
  refine ⟨eq, ?_⟩
  cases op with
  | add => exact hmod
  | max => simp only [atomicNew]; split <;> assumption
  | min => simp only [atomicNew]; split <;> assumption
  | maxu => exact Nat.max_lt.2 ⟨ho, hv⟩
  | minu => exact (Nat.min_le_left _ _).trans_lt ho
  | and => exact Nat.and_lt_two_pow _ hv
  | or => exact Nat.or_lt_two_pow ho hv
  | xor => exact Nat.xor_lt_two_pow ho hv
  | swap => exact hv
  | cas => simp only [atomicNew]; split <;> assumption

/-! ### The events -/

theorem atomicEff_eq (d n old : Nat) : atomicEff d n old = [.g d (if n = 4 then word (sx 32 old) else word (old : Nat))] := by
  rw [atomicEff, sextInt_eq_sx (by decide), word_natCast]
  rfl

theorem atomicWrites_iff (op : AOp) (old new : Nat) : atomicWrites op old new = true ↔ op = .swap ∨ new ≠ old := by
  rw [atomicWrites, Bool.or_eq_true, beq_iff_eq, bne_iff_ne]

theorem performAtomicS_of_bank {s : State} {o : Op} {op : AOp} {n d : Nat} {v e : Word} {grp : Group} (hk : o.kind = .atomicS op n v e d)
    (hg : s.gate o = true) (hh : s.scratchHeld o = false) :
    let off := o.addr.toNat % 2 ^ 21
    let s1 := s.fenceEffect o.tid o.seq o.core o.asid 2 true true
    let old := s1.regionRead grp.core grp.scratch off n
    let new := atomicNew op (8 * n) old (v.toNat % 2 ^ (8 * n)) (e.toNat % 2 ^ (8 * n))
    s1.scratchTarget o = some grp → s1.liveOver grp.core grp.scratch off n = false → s1.regionBad grp.core grp.scratch off n = false →
    s.performAtomicS o =
      (if op = .swap ∨ new ≠ old then s1.regionWrite grp.core grp.scratch off new n else s1).modOp o.id fun o => { o with st := .performed old } := by
  intro off s1 old new ht hl hb
  have hl1 : s1.liveOver grp.core grp.scratch (ScrAddr.ofWord o.addr).offset n = false := hl
  have hb1 : s1.regionBad grp.core grp.scratch (ScrAddr.ofWord o.addr).offset n = false := hb
  rw [State.performAtomicS, hg, hh, if_neg (by decide)]
  simp only [hk]
  rw [show (s.fenceEffect o.tid o.seq o.core o.asid 2 true true).scratchTarget o = some grp from ht]
  dsimp only
  rw [if_neg (fun h => Bool.false_ne_true (hl1.symm.trans h)), if_neg (fun h => Bool.false_ne_true (hb1.symm.trans h))]
  exact congrArg (fun u : State => u.modOp o.id fun o => { o with st := .performed old }) (if_congr (atomicWrites_iff op old new) rfl rfl)

theorem deliverAtomic_of_scratch {s : State} {o : Op} {op : AOp} {n d old : Nat} {v e : Word} (hk : o.kind = .atomicS op n v e d)
    (hst : o.st = .performed old) : s.deliverAtomic o =
      (s.modThread o.tid fun t => { t with hash := t.hash + mixAtomic o.hseq o.addr n old }).finishOp o 0
        [.g d (if n = 4 then word (sx 32 old) else word (old : Nat))] := by
  rw [← atomicEff_eq]
  simp only [State.deliverAtomic, hst, hk]

theorem deliverAtomic_of_global {s : State} {o : Op} {op : AOp} {n d old rank : Nat} {v e : Word} (hk : o.kind = .atomic op n v e d rank)
    (hst : o.st = .performed old) : s.deliverAtomic o = s.fromPeer o fun s r =>
      (s.modThread o.tid fun t => { t with hash := t.hash + mixAtomic o.hseq o.addr n ((r.bind s.peerAnswer).getD old) }).finishOp o 0
        [.g d (if n = 4 then word (sx 32 ((r.bind s.peerAnswer).getD old : Nat)) else word ((r.bind s.peerAnswer).getD old : Nat))] := by
  simp only [← atomicEff_eq]
  simp only [State.deliverAtomic, hst, hk]

theorem atomicPerform_eq {id : Nat} {s : State} {o : Op} (ho : s.op? id = some o) (hb : s.buffered o = false) (ht : s.turnWaits o = false) :
    exec (.atomicPerform id) s = if (s.flushOf o).isSome then orHole s o (s.performEntry id).pump
      else match o.kind with
        | .atomic .. => orHole s o (s.performAtomicG o false).pump
        | .atomicS .. => .next (s.performAtomicS o).pump
        | _ => .next s := by
  change execAtomicPerform id s = _
  rw [execAtomicPerform, ho]
  simp only [hb, ht, Bool.or_self, Bool.false_eq_true, if_false] <;> rfl

theorem atomicReply_eq {id : Nat} {s : State} {o : Op} (ho : s.op? id = some o) : exec (.atomicReply id) s = .next (s.deliverAtomic o).pump := by
  change execAtomicReply id s = _
  rw [execAtomicReply, ho]

theorem atomicEvents : AtomicEvents := by
  intro id s o op n old d rank v e grp ho off s1
  refine ⟨fun hk hg hh hb ht hf htg hl hbad hold => ?_, fun hk hb ht hh hf => ?_, fun hk hb ht hh hf => ?_, ?_⟩
  · intro new
    rw [atomicPerform_eq ho hb ht, hf, Option.isSome_none, if_neg (by decide), hk]
    have := performAtomicS_of_bank hk hg hh htg hl hbad
    subst hold
    exact congrArg (fun u : State => Host.Outcome.next u.pump) this
  · rw [atomicPerform_eq ho hb ht, hf, Option.isSome_none, if_neg (by decide), hk]
    exact orHole_of_none hh _
  · rw [atomicPerform_eq ho hb ht, Option.isSome_iff_ne_none.2 hf, if_pos rfl]
    exact orHole_of_none hh _
  · intro reply
    refine ⟨fun hk hst => by rw [atomicReply_eq ho, deliverAtomic_of_scratch hk hst], fun hk hst => ⟨fun hn => ?_, fun r hr => ?_⟩⟩
    · have hp : s.peerReq? o.id = none := List.find?_eq_none.2 fun r h => by simpa using hn r h
      rw [atomicReply_eq ho, deliverAtomic_of_global hk hst, State.fromPeer, hp]
      rfl
    · intro u
      have hp : s.peerReq? o.id = some r := hr
      rw [atomicReply_eq ho, deliverAtomic_of_global hk hst, State.fromPeer, hp]
      refine ⟨fun hpl y hy => ?_, fun hpl => ?_⟩
      · have ha : ((some r).bind (s.ackPeer o.id).peerAnswer).getD old = y.old := by
          rw [Option.bind_some, State.peerAnswer]
          show ((s.mem.peerLog.find? _).map _).getD old = _
          rw [hy]
          rfl
        have hs : s.scaleUp = true := by simp [State.scaleUp, hpl]
        simp only [hs, if_true, ha]
        rfl
      · have hs : s.scaleUp = false := by simp [State.scaleUp, hpl]
        simp only [hs, Bool.false_eq_true, if_false]
        rfl

theorem atomicBufferDrains : AtomicBufferDrains := by
  intro kernel core s k hk hm hb hst ht
  have ho : s.kernelOver k = true := by
    simp only [State.kernelOver, hst, beq_self_eq_true, Bool.true_and, List.all_eq_true, Bool.or_eq_true, bne_iff_ne, beq_iff_eq]
    exact ht
  change execAtomicBufferDrain kernel core s = _
  rw [execAtomicBufferDrain, hk]
  exact if_pos ⟨hm, hb, ho⟩

/-! ### A global atomic at its home -/

theorem flushWbs_of_none {s : State} {core : Nat} (hw : ∀ w ∈ s.mem.wbs, w.core ≠ core) : s.flushWbs (fun w => w.core == core) = s := by
  rw [State.flushWbs, List.filter_eq_nil_iff.2 fun w h => by simpa using hw w h]
  rfl

theorem drain_of_none {s : State} {which : WriteThrough → Bool} (hw : ∀ w ∈ s.mem.wts, which w = false) : s.drain which = s := by
  rw [State.drain, List.filter_eq_nil_iff.2 fun w h => by simp [hw w h]]
  rfl

theorem foldl_mergeL2_of_clean (die : Nat) (ls : List L1Line) (hc : ∀ l ∈ ls, l.dirty = 0) (s : State) :
    ls.foldl (fun s l => s.mergeL2 die l.asid l.line l.home l.data l.dirty l.mdata true l.cls) s = s := by
  induction ls generalizing s with
  | nil => rfl
  | cons l ls ih =>
    rw [List.foldl_cons, State.mergeL2, if_pos (hc l List.mem_cons_self)]
    exact ih (fun x hx => hc x (List.mem_cons_of_mem _ hx)) s

/-- What a drop of L1 lines leaves in memory, where no write-back of the core is on its way. -/
theorem dropL1_mem {s : State} {core : Nat} {which : L1Line → Bool} (hw : ∀ w ∈ s.mem.wbs, w.core ≠ core) : (s.dropL1 core which).mem =
    (((s.coreAt core).l1.filter which).foldl (fun s l => s.mergeL2 (dieOf core) l.asid l.line l.home l.data l.dirty l.mdata true l.cls) s).mem := by
  rw [State.dropL1, State.modCore_mem, State.cleanL1, State.modCore_mem, flushWbs_of_none hw]

theorem dropL1_mem_of_clean {s : State} {core : Nat} {which : L1Line → Bool} (hw : ∀ w ∈ s.mem.wbs, w.core ≠ core)
    (hc : ∀ l ∈ (s.coreAt core).l1, which l = true → l.dirty = 0) : (s.dropL1 core which).mem = s.mem := by
  rw [dropL1_mem hw, foldl_mergeL2_of_clean _ _ fun l hl => hc l (List.mem_filter.1 hl).1 (List.mem_filter.1 hl).2]

theorem dropL1_dev (s : State) (core : Nat) (which : L1Line → Bool) : (s.dropL1 core which).dev = s.dev := by simp

/-- The home's bytes as an atomic finds them, with one write-through of the line on its way and open. -/
theorem drain_of_single {s : State} {which : WriteThrough → Bool} {w : WriteThrough} (hf : s.mem.wts.filter which = [w]) (hs : s.wtStuck w = false) :
    s.drain which = s.wtArrives w := by
  have : s.mem.wts.filter (fun w => which w && !s.wtStuck w) = [w] := by
    rw [List.filter_congr (q := fun x => !s.wtStuck x && which x) (fun x _ => Bool.and_comm _ _), ← List.filter_filter, hf]
    simp [hs]
  rw [State.drain, this]
  rfl

/-- The state in which an atomic reads its home: what its core and its die have of the line has arrived. -/
def atomicReads (s : State) (o : Op) : State :=
  (s.dropL1 o.core fun l => l.asid == o.asid && l.line == o.addr.toNat / 64).drainLine (dieOf o.core) o.asid (o.addr.toNat / 64)

/-- The state in which an atomic has been performed at its home with an old value and a new one, before the operation keeps the old one. -/
def atomicPlaced (s2 : State) (o : Op) (h : Home) (op : AOp) (n old new : Nat) : State :=
  let line := o.addr.toNat / 64
  let s3 := if atomicWrites op old new then
      { s2 with mem := s2.mem.mergeHome h (BitVec.ofNat 512 (new * 2 ^ (8 * (o.addr.toNat % 64)))) (byteMask (o.addr.toNat % 64) n) 0 }
    else s2
  let s4 := s3.dropCopies fun c => c.die == dieOf o.core && c.asid == o.asid && c.line == line
  let r := s4.newPeer o.id (nodePkg h.node) line
  if h.node < 8 then s4 else (s4.sent r true).recorded r old

theorem atomicPlaced_memOnly (s2 : State) (o : Op) (h : Home) (op : AOp) (n old new : Nat) : MemOnly s2 (atomicPlaced s2 o h op n old new) := by
  unfold atomicPlaced
  dsimp only
  split <;> split <;> rfl

theorem atomicPlaced_bytes (s2 : State) (o : Op) (h : Home) (op : AOp) (n old new : Nat) :
    (atomicPlaced s2 o h op n old new).mem.bytes = (if op = .swap ∨ new ≠ old then
      (s2.mem.mergeHome h (BitVec.ofNat 512 (new * 2 ^ (8 * (o.addr.toNat % 64)))) (byteMask (o.addr.toNat % 64) n) 0).bytes else s2.mem.bytes) := by
  rw [← if_congr (atomicWrites_iff op old new) rfl rfl]
  unfold atomicPlaced
  dsimp only
  split <;> split <;> rfl

theorem atomicPlaced_copyOf? (s2 : State) (o : Op) (h : Home) (op : AOp) (n old new : Nat) :
    (atomicPlaced s2 o h op n old new).copyOf? (dieOf o.core) o.asid (o.addr.toNat / 64) = none := by
  have hd (u : State) (c : DieCopy → Bool) : (u.dropCopies c).mem.copies.find? c = none :=
    List.find?_eq_none.2 fun x hx => by simpa using (List.mem_filter.1 hx).2
  unfold atomicPlaced
  dsimp only
  split <;> exact hd _ _

/-- What an atomic at its home leaves of the machine. -/
theorem atHome_atomic {s : State} {o : Op} {op : AOp} {n d rank : Nat} {v e : Word} (h : Home) (hk : o.kind = .atomic op n v e d rank) :
    let s2 := atomicReads s o
    let old := s2.mem.rd h.node (h.addr + o.addr.toNat % 64) n
    let new := atomicNew op (8 * n) old (v.toNat % 2 ^ (8 * n)) (e.toNat % 2 ^ (8 * n))
    s.atHome o h = (atomicPlaced s2 o h op n old new).modOp o.id fun o => { o with st := .performed old } := by
  simp only [State.atHome, hk]
  rfl

theorem atomicAtHome : AtomicAtHome := by
  intro s o op n d rank v e h hk ho hn die line mine ours s2 old new t
  have ht : t = (atomicPlaced s2 o h op n old new).modOp o.id fun o => { o with st := .performed old } := atHome_atomic h hk
  have hm : MemOnly s2 (atomicPlaced s2 o h op n old new) := atomicPlaced_memOnly ..
  have hs2 : MemOnly (s.dropL1 o.core mine) s2 := State.drain_memOnly ..
  refine ⟨?_, ?_, ?_, ?_, ?_, ?_, fun hw => ⟨fun hcl hno => ?_, fun l hl hd hcp hno => ?_, fun w hcl hf hs => ?_⟩⟩
  · have hops : (atomicPlaced s2 o h op n old new).op? o.id = some o := by
      rw [State.op?, hm.ops, hs2.ops, State.dropL1_ops]
      exact ho
    rw [ht, State.op?_modOp _ _ _ (by intro k; rfl), if_pos rfl, hops]
    rfl
  · rw [ht]
    exact atomicPlaced_bytes ..
  · rw [ht, State.modOp_pool, hm.pool, hs2.pool, State.dropL1_pool]
  · rw [ht, State.modOp_threads, hm.threads, hs2.threads, State.dropL1_threads]
  · rw [ht]
    exact atomicPlaced_copyOf? ..
  · intro l hl
    have hcore : t.coreAt o.core = (s.dropL1 o.core mine).coreAt o.core := by
      rw [ht]
      exact (hm.coreAt _).trans (hs2.coreAt _)
    exact dropL1_not_selected (hcore ▸ hl)
  · have hd := dropL1_mem_of_clean (which := mine) hw hcl
    show (State.drain _ _).mem.bytes = _
    rw [drain_of_none (by rw [hd]; exact hno), hd]
  · have hdm : (s.dropL1 o.core mine).mem = (s.mergeL2 (dieOf o.core) l.asid l.line l.home l.data l.dirty l.mdata true l.cls).mem := by
      rw [dropL1_mem hw, hl]
      rfl
    obtain ⟨-, hh, -, hwts⟩ := mergeL2_of_home (s := s) (die := dieOf o.core) (asid := l.asid) (line := l.line) (data := l.data) l.mdata true l.cls hcp hd
    show (State.drain _ _).mem.bytes = _
    rw [drain_of_none (by rw [hdm, hwts]; exact hno), hdm]
    exact hh.bytes
  · have hd := dropL1_mem_of_clean (which := mine) hw hcl
    show (State.drain _ _).mem.bytes = _
    rw [drain_of_single (w := w) (by rw [hd]; exact hf) (by rw [wtStuck_congr (dropL1_dev ..)]; exact hs), (wtArrives_frame _ w).2.1.bytes, hd]

/-- Settles O47: the functions are those of the rule on values of N bits; an atomic at its bank or its home takes the branch of its checks, and what its core and
its die hold of the line is merged at the home before it reads there. -/
theorem atomicsPerformed : Obligations.AtomicsPerformed := ⟨atomicFunctions, atomicEvents, atomicAtHome, atomicBufferDrains⟩

end Sys2Proof.Machine
end

section
/-!
SUPPORT. Reference stores at the home, publication walks and colour changes (R213, R217 to R227, R231 to R233).
-/

namespace Sys2Proof.Machine

open Claim

/-! ### Reference stores -/

theorem headerBad_eq_some_iff (s : State) (die asid : Nat) (v : Word) (scope n a : Nat) : s.headerBad die asid v scope = some (n, a) ↔
    1 ≤ scope ∧ v ≠ 0 ∧ (s.homeAt die asid v.toNat = .error (.bad n a) ∨ ∃ hh, s.homeAt die asid v.toNat = .ok hh ∧
      s.frameExists hh.node hh.addr = true ∧ peME hh.entry = true ∧ s.unreadable hh = true ∧ hh.node = n ∧ hh.addr = a) := by
  rw [State.headerBad, State.headerHome]
  by_cases h0 : scope = 0 ∨ v = 0
  · rw [if_pos h0]
    exact ⟨nofun, fun ⟨h1, h2, _⟩ => (h0.elim (by omega) h2).elim⟩
  · rw [if_neg h0]
    obtain ⟨h1, h2⟩ := not_or.1 h0
    have h3 : 1 ≤ scope := Nat.one_le_iff_ne_zero.2 h1
    cases hh : s.homeAt die asid v.toNat with
    | error e => cases e <;> simp [h3, show ¬ v = 0#64 from h2]
    | ok x =>
      by_cases hc : (s.frameExists x.node x.addr && peME x.entry && s.unreadable x) = true
      · have hc' := hc
        simp only [Bool.and_eq_true] at hc'
        simp [h3, hc'.1.1, hc'.1.2, hc'.2, show ¬ v = 0#64 from h2]
      · simp only [if_neg hc]
        simp only [Bool.and_eq_true, not_and] at hc
        constructor
        · nofun
        · rintro ⟨-, -, h | ⟨y, hy, hf, hm, hu, -, -⟩⟩
          · cases h
          · obtain rfl : x = y := by simpa using hy
            exact absurd hu (hc ⟨hf, hm⟩)

theorem escapes_iff (s : State) (die asid : Nat) (v : Word) (scope : Nat) : s.escapes die asid v scope = true ↔
    1 ≤ scope ∧ v ≠ 0 ∧ ∃ hh, s.homeAt die asid v.toNat = .ok hh ∧ s.frameExists hh.node hh.addr = true ∧ peME hh.entry = true ∧
      mKind (s.mem.metaAt hh.node hh.addr) (v.toNat % 64 / 8) = 2 ∧ effScope (s.mem.metaAt hh.node hh.addr) < scope := by
  rw [State.escapes, State.headerHome]
  cases hh : s.homeAt die asid v.toNat with
  | error e => simp
  | ok x => simp [and_assoc]

section
variable {s s1 : State} {o : Op} {v : Word} {h : Home} (hk : o.kind = .stref v)
include hk

theorem foundFault_of_stref (s : State) (code : Nat) (a : Word) : s.foundFault o code a =
    (s.modThread o.tid fun t => { t with hash := t.hash - mixStore o.hseq o.addr 8 v.toNat }).faultOp o code a := by
  rw [State.foundFault, hk]

/-- A reference store whose home is known, where its page allows it and it can be reached, is judged there. -/
theorem performGlobal_stref {x : Thread} (hg : s.gate o = true) (hf : s.homeFor o false = (s1, .ok h)) (hp : peWR h.entry = true)
    (ht : s1.stackTrained h.node h.addr = true) (hx : s1.frameExists h.node h.addr = true) (hw : s1.headerWaits o = false)
    (hth : s1.thread? o.tid = some x) (hc : mColour (s1.metaSeen o.core o.asid (o.addr.toNat / 64) h) = 0)
    (hu : (s1.modOp o.id fun y => { y with met := true }).uncorrectable o h = false) :
    s.performGlobal o false false =
      ((s1.modOp o.id fun y => { y with met := true }).countMiss (dieOf o.core) o.asid (o.addr.toNat / 64) h).atHome o h := by
  have hpm : permOk o.kind h.entry = true := by
    rw [hk]
    exact hp
  rw [State.performGlobal, hg, if_neg (by decide), hf]
  simp only [hpm, ht, hx, hw, Bool.not_true, Bool.or_self, Bool.false_eq_true, if_false, meetColour_of_zero hth hc, hu]
  simp only [State.countRequest, hk]

/-- The state in which a reference store is judged: what its core and its die have of the line has arrived. -/
def strefJudged (s : State) (o : Op) : State :=
  (s.dropL1 o.core fun l => l.asid == o.asid && l.line == o.addr.toNat / 64).drainLine (dieOf o.core) o.asid (o.addr.toNat / 64)

/-- The word stored at the home has become a reference, also in the die's copy. -/
def strefStored (s2 : State) (o : Op) (v : Word) (h : Home) : State :=
  let va := o.addr.toNat
  let m1 := (s2.writePeer h (va / 64)).mem.mergeHome h (BitVec.ofNat 512 (v.toNat * 2 ^ (8 * (va % 64)))) (byteMask (va % 64) 8) (setKind 0 (va % 64 / 8) 1)
  { s2 with mem := { m1 with copies := m1.copies.map fun c => if c.die = dieOf o.core ∧ c.asid = o.asid ∧ c.line = va / 64 then
      { c with data := linePut c.data (va % 64) 8 v.toNat, valid := c.valid ||| byteMask (va % 64) 8, mdata := setKind c.mdata (va % 64 / 8) 1 } else c } }

theorem atHome_stref_of_plain (s : State) (hm : peME h.entry = false) : s.atHome o h = s.foundFault o tcProtection o.addr := by
  simp only [State.atHome, hk, hm, Bool.not_false, if_true]

section
variable (hm : peME h.entry = true)
include hm

theorem atHome_stref_of_bad {n a : Nat} (hb : (strefJudged s o).headerBad (dieOf o.core) o.asid v
      (effScope ((strefJudged s o).mem.metaAt h.node h.addr)) = some (n, a)) :
    s.atHome o h = ((strefJudged s o).meetLine n a).foundFault o tcUncorrectable o.addr := by
  rw [strefJudged] at hb ⊢
  simp only [State.atHome, hk, hm, Bool.not_true, Bool.false_eq_true, if_false, hb]

variable (hb : (strefJudged s o).headerBad (dieOf o.core) o.asid v (effScope ((strefJudged s o).mem.metaAt h.node h.addr)) = none)
include hb

theorem atHome_stref_of_escape (he : (strefJudged s o).escapes (dieOf o.core) o.asid v
      (effScope ((strefJudged s o).mem.metaAt h.node h.addr)) = true) : s.atHome o h = (strefJudged s o).foundFault o tcEscape o.addr := by
  rw [strefJudged] at hb he ⊢
  simp only [State.atHome, hk, hm, Bool.not_true, Bool.false_eq_true, if_false, hb, he, if_true]

theorem atHome_stref_of_stored (he : (strefJudged s o).escapes (dieOf o.core) o.asid v
      (effScope ((strefJudged s o).mem.metaAt h.node h.addr)) = false) (hl : o.lost = 0) :
    s.atHome o h = ((strefStored (strefJudged s o) o v h).shadow o).finishOp o 0 [] := by
  rw [strefJudged] at hb he ⊢
  simp only [State.atHome, hk, hm, Bool.not_true, Bool.false_eq_true, if_false, hb, he, hl, bne_self_eq_false]
  rfl

end

end

theorem strefStored_mem (s2 : State) (o : Op) (v : Word) (h : Home) :
    let va := o.addr.toNat
    let m := s2.mem.mergeHome h (BitVec.ofNat 512 (v.toNat * 2 ^ (8 * (va % 64)))) (byteMask (va % 64) 8) (setKind 0 (va % 64 / 8) 1)
    let t := (strefStored s2 o v h).mem
    t.bytes = m.bytes ∧ t.lineMeta = m.lineMeta ∧
      (8 ≤ h.node → t.peerSeq = s2.mem.peerSeq + 1 ∧ ({ pkg := (h.node - 8) / 4, seq := s2.mem.peerSeq, old := 0 } : PeerDone) ∈ t.peerLog) := by
  intro va m t
  have hs : SameHomes s2.mem (s2.writePeer h (va / 64)).mem := by
    rw [writePeer_mem]
    exact ⟨rfl, rfl, rfl, rfl⟩
  have hm := hs.mergeHome h (BitVec.ofNat 512 (v.toNat * 2 ^ (8 * (va % 64)))) (byteMask (va % 64) 8) (setKind 0 (va % 64 / 8) 1)
  refine ⟨hm.bytes, hm.lineMeta, fun h8 => ?_⟩
  have hw : s2.writePeer h (va / 64) = (s2.sent (s2.newPeer 0 (nodePkg h.node) (va / 64)) false).recorded (s2.newPeer 0 (nodePkg h.node) (va / 64)) 0 :=
    if_neg (by omega)
  have ht : t.peerSeq = (s2.writePeer h (va / 64)).mem.peerSeq ∧ t.peerLog = (s2.writePeer h (va / 64)).mem.peerLog := by
    constructor
    · show (Mem.mergeHome ..).peerSeq = _
      rw [mergeHome_eq]
    · show (Mem.mergeHome ..).peerLog = _
      rw [mergeHome_eq]
  rw [ht.1, ht.2, hw]
  exact ⟨rfl, List.mem_append_right _ (List.mem_singleton.2 rfl)⟩

theorem op?_finishOp (s : State) (o : Op) (dep : Nat) (es : List Eff) : (s.finishOp o dep es).op? o.id = none :=
  op?_dropOp ((s.modThread o.tid fun t => t.write o.seq (max dep o.dep) s.fresh es).finishUse o.use o.tid) o.id

theorem referenceStores : ReferenceStores := by
  intro id s s1 o v h x ho hk hh hg hf hp ht hx hw hth hc die va s2 hu s3 fails s4 scope escapes
  have hid : o.id = id := op?_id ho
  have hs2 : (s1.modOp o.id fun y => { y with met := true }) = s2 := by rw [hid]
  have he : exec (.strefHomeCheck id) s = .next (s3.atHome o h).pump := by
    change execStrefHomeCheck id s = _
    rw [execStrefHomeCheck, ho]
    simp only [hk]
    rw [performGlobal_stref hk hg hf hp ht hx hw hth hc (by rw [hs2]; exact hu), hs2]
    exact orHole_of_none hh _
  clear_value s3
  have hfa (u : State) (code : Nat) : u.foundFault o code o.addr = fails u code := foundFault_of_stref hk u code o.addr
  rw [he]
  refine ⟨fun hm => by rw [atHome_stref_of_plain hk s3 hm, hfa]; rfl, ?_⟩
  intro badAt
  have hb (n a : Nat) : badAt n a ↔ s4.headerBad die o.asid v scope = some (n, a) := (headerBad_eq_some_iff ..).symm
  have hnone (hno : ∀ n a, ¬ badAt n a) : s4.headerBad die o.asid v scope = none :=
    Option.eq_none_iff_forall_ne_some.2 fun p hp => hno p.1 p.2 ((hb _ _).2 hp)
  have hes : escapes ↔ s4.escapes die o.asid v scope = true := (escapes_iff ..).symm
  refine ⟨fun n a hm hba => ?_, fun hm hno hesc => ?_, fun hm hno hesc hl => ?_⟩
  · rw [atHome_stref_of_bad hk hm ((hb n a).1 hba), hfa]
    rfl
  · rw [atHome_stref_of_escape hk hm (hnone hno) (hes.1 hesc), hfa]
    rfl
  · have hne : s4.escapes die o.asid v scope = false := by
      rw [← Bool.not_eq_true]
      exact fun hn => hesc (hes.2 hn)
    refine ⟨((strefStored s4 o v h).shadow o).finishOp o 0 [], by rw [atHome_stref_of_stored hk hm (hnone hno) hne hl]; rfl, ?_, ?_⟩
    · rw [← hid]
      exact op?_finishOp _ _ _ _
    · rw [State.finishOp_mem]
      exact strefStored_mem s4 o v h

/-! ### Walks -/

theorem walkStart_eq {id : Nat} {s : State} {o : Op} {scope d : Nat} (ho : s.op? id = some o) (hk : o.kind = .pub scope d) (hg : s.gate o = true)
    (hw : ∀ w ∈ s.walks, w.op ≠ o.id) (ht : s.walkTurn o = false) : exec (.walkStart id) s =
      let s1 := s.releaseAt o.tid o.core o.asid (scope + 1)
      if s.releaseStuck o.core o.asid (scope + 1) then .next s
      else .next { s1 with
        walks := s1.walks ++ [{ id := s1.fresh, op := o.id, quad := o.core / 4, core := o.core, asid := o.asid, tid := o.tid, scope := scope,
                                queue := [o.addr.toNat % 2 ^ 52], raised := 0, obj := none, lines := [], spilled := 0, absent := none }]
        fresh := s1.fresh + 1 } := by
  have hn : (s.walks.any fun w => w.op == o.id) = false := List.any_eq_false.2 fun w hm => by simpa using hw w hm
  change execWalkStart id s = _
  rw [execWalkStart, ho]
  simp only [hk, hg, hn, ht, Bool.not_true, Bool.false_or]
  rfl

section
variable {id : Nat} {s : State} {w : Walk} (hw : s.walks.find? (fun x => x.id == id) = some w)
include hw

/-- A walk whose turn it is goes on. -/
theorem walkObject_eq {o : Op} (hmin : ∀ x ∈ s.walks, x.quad = w.quad → w.id ≤ x.id) (ho : s.op? w.op = some o) (hst : o.st = .queued) :
    exec (.walkObject id) s = s.walkStep w := by
  have hn : (s.walks.any fun x => x.quad == w.quad && decide (x.id < w.id)) = false :=
    List.any_eq_false.2 fun x hm => by
      simp only [Bool.and_eq_true, beq_iff_eq, decide_eq_true_eq, not_and, Nat.not_lt]
      exact hmin x hm
  change execWalkObject id s = _
  rw [execWalkObject, hw]
  simp only [hn, Bool.false_eq_true, if_false, ho, Option.map_some, hst]

end

section
variable {s : State} {w : Walk} (hobj : w.obj = none)
include hobj

theorem walkStep_nil (hq : w.queue = []) : s.walkStep w = .next (s.walkEnd w) := by
  rw [State.walkStep, hobj, hq]

theorem walkStep_null {rest : List Nat} (hq : w.queue = 0 :: rest) : s.walkStep w = .next (s.setWalk { w with queue := rest, absent := none }) := by
  rw [State.walkStep, hobj, hq]
  rfl

/-- A word that is no header is passed over, and an object whose scope at the home is wide enough (R213, R223). -/
theorem walkStep_passes {a : Nat} {rest : List Nat} {hm : Home} (hq : w.queue = a :: rest) (ha : a ≠ 0) (hmeet : s.walkMeet w a 8 = .home hm)
    (hp : peME hm.entry = false ∨ mKind (s.walkRead w a hm).2.mdata (a % 64 / 8) ≠ 2 ∨
      w.scope ≤ effScope ((s.walkRead w a hm).1.mem.metaAt hm.node hm.addr)) :
    s.walkStep w = .next ((s.walkRead w a hm).1.setWalk { w with queue := rest, absent := none }) := by
  rw [State.walkStep, hobj, hq]
  simp only [if_neg ha, hmeet]
  by_cases h1 : (peME hm.entry && mKind (s.walkRead w a hm).2.mdata (a % 64 / 8) == 2) = true
  · have hsc : w.scope ≤ effScope ((s.walkRead w a hm).1.mem.metaAt hm.node hm.addr) := by
      rw [Bool.and_eq_true, beq_iff_eq] at h1
      rcases hp with h | h | h
      · rw [h] at h1; exact absurd h1.1 (by decide)
      · exact absurd h1.2 h
      · exact h
    rw [h1, if_neg (by decide), if_pos hsc]
  · rw [Bool.not_eq_true] at h1
    rw [h1, if_pos (by decide)]

end

/-- A walk with nothing left ends once what it wrote back can reach its homes (R222). -/
theorem walkEnd_eq {s : State} {w : Walk} {o : Op} {scope d : Nat} (ho : s.op? w.op = some o) (hk : o.kind = .pub scope d) : s.walkEnd w =
    if s.mem.wts.any fun x => w.wrote x && s.wtStuck x then s
    else ({ s.drain w.wrote with walks := (s.drain w.wrote).walks.filter fun x => x.id != w.id } : State).finishOp o 0 [.g d (BitVec.ofNat 64 w.raised)] := by
  have hops : ({ s.drain w.wrote with walks := (s.drain w.wrote).walks.filter fun x => x.id != w.id } : State).op? w.op = some o := by
    rw [State.op?]
    show List.find? _ (s.drain w.wrote).ops = _
    rw [(s.drain_memOnly _).ops]
    exact ho
  simp only [State.walkEnd, State.walkOver, hops, hk]

theorem countMiss_mem (s : State) (die asid line : Nat) (h : Home) : (s.countMiss die asid line h).mem =
    { s.mem with mig := (s.countMiss die asid line h).mem.mig, migBuf := (s.countMiss die asid line h).mem.migBuf } := by
  unfold State.countMiss
  split <;> rfl

/-- From package scope on the walker reads a line at its home, at a peer by a request (R181, R223). -/
theorem walkRead_home (s : State) (w : Walk) (a : Nat) (hm : Home) (h3 : 3 ≤ w.scope) :
    let u := s.countMiss (w.core / 128) w.asid (a / 64) hm
    (hm.node < 8 → s.walkRead w a hm = (u, s.readHome hm)) ∧
    (8 ≤ hm.node → ∃ q, (s.walkRead w a hm).2 = { s.readHome hm with req := some q } ∧ q.pkg = (hm.node - 8) / 4 ∧ q.seq = s.mem.peerSeq ∧
      q.plane = s.planeOf (a / 64) ∧ (s.walkRead w a hm).1 = { u with mem := { u.mem with peerSeq := s.mem.peerSeq + 1 } }) := by
  intro u
  have hmem : u.mem = { s.mem with mig := u.mem.mig, migBuf := u.mem.migBuf } := countMiss_mem ..
  have hread (t : State) (ht : t.mem.bytes = s.mem.bytes ∧ t.mem.lineMeta = s.mem.lineMeta ∧ t.fresh = s.fresh) : t.readHome hm = s.readHome hm := by
    simp only [State.readHome, Mem.rd, Mem.metaAt, ht.1, ht.2.1, ht.2.2]
  have hfr : u.fresh = s.fresh := State.countMiss_fresh ..
  have hwr : s.walkRead w a hm = ((u.readPeer hm (a / 64)).1, { (u.readPeer hm (a / 64)).1.readHome hm with req := (u.readPeer hm (a / 64)).2 }) := by
    rw [State.walkRead, if_pos h3]
    rfl
  rw [hwr]
  constructor
  · intro h8
    have hrp : u.readPeer hm (a / 64) = (u, none) := if_pos h8
    rw [hrp, hread u ⟨by rw [hmem], by rw [hmem], hfr⟩]
    rfl
  · intro h8
    have hrp : u.readPeer hm (a / 64) =
        (u.sent (u.newPeer 0 (nodePkg hm.node) (a / 64)) false, some (u.newPeer 0 (nodePkg hm.node) (a / 64))) := if_neg (by omega)
    have hps : u.mem.peerSeq = s.mem.peerSeq := by rw [hmem]
    have hdev : u.dev = s.dev := (s.countMiss_memOnly ..).dev
    rw [hrp]
    refine ⟨u.newPeer 0 (nodePkg hm.node) (a / 64), ?_, rfl, hps, ?_, ?_⟩
    · dsimp only
      rw [hread (u.sent (u.newPeer 0 (nodePkg hm.node) (a / 64)) false) ⟨by show u.mem.bytes = _; rw [hmem], by show u.mem.lineMeta = _; rw [hmem], hfr⟩]
    · simp only [State.newPeer, State.planeOf, State.planes, hdev]
    · rw [← hps]
      rfl

theorem walks : Walks := by
  intro id s
  refine ⟨fun o scope d ho hk hg hw ht => ?_, fun w o scope d a rest hm hw hmin ho hst hk hobj => ?_⟩
  · intro s1
    rw [walkStart_eq ho hk hg hw ht]
    exact ⟨fun hs => by rw [hs]; rfl, fun hs => by rw [hs]; rfl⟩
  · intro skip wrote
    rw [walkObject_eq hw hmin ho hst]
    refine ⟨fun hq hopen => ?_, fun hq hstuck => ?_, fun hq => walkStep_null hobj hq, fun hq ha hlt hmeet => ?_, fun h3 => walkRead_home s w a hm h3⟩
    · have hn : (s.mem.wts.any fun x => w.wrote x && s.wtStuck x) = false := List.any_eq_false.2 fun x hx => by
        simp only [Bool.and_eq_true, not_and, Bool.not_eq_true]
        exact hopen x hx
      rw [walkStep_nil hobj hq, walkEnd_eq ho hk, hn, if_neg (by decide), word_natCast]
      rfl
    · obtain ⟨x, hx, h1, h2⟩ := hstuck
      have hy : (s.mem.wts.any fun x => w.wrote x && s.wtStuck x) = true := List.any_eq_true.2 ⟨x, hx, by rw [h2, Bool.and_true]; exact h1⟩
      rw [walkStep_nil hobj hq, walkEnd_eq ho hk, hy, if_pos rfl]
    · intro r hp
      exact walkStep_passes hobj hq ha hmeet hp

/-! ### Colours of lines -/

theorem colr_starts (c : BitVec 1) (g : BitVec 4) (d b l : BitVec 6) (s : State) :
    exec (.colr c g d b l) s = .next (s.startOps g false false [.g b.toNat, .g l.toNat, .g d.toNat] fun iss t =>
      let k := (srcG iss t .sign d).toNat
      let a := srcG iss t .zero b
      let n := (srcG iss t .zero l).toNat % 2 ^ 32
      if k = 0 ∨ k > 63 then .error (.mk2 0x0B a)
      else if a.toNat ≥ 2 ^ 52 then .error (.mk2 0x03 a)
      else if a.toNat % 64 ≠ 0 ∨ n % 64 ≠ 0 then .error (.mk2 0x02 a)
      else .ok (.plain a (.colr k n))).pump := by
  change execColr g d b l s = _
  simp only [execColr, Nat.lt_one_iff, Bool.or_eq_true, bne_iff_ne]
  rfl

section
variable {id : Nat} {s s1 : State} {o : Op} {k left : Nat} {h : Home} (ho : s.op? id = some o) (hk : o.kind = .colr k left) (hg : s.gate o = true)
include ho hk hg

theorem colrLine_eq : exec (.colrLine id) s =
    if s.colourRefused o left then .next (s.colourLine o k left).pump else orHole s o (s.colourLine o k left).pump := by
  change execColrLine id s = _
  rw [execColrLine, ho]
  simp only [hk, hg, Bool.not_true, Bool.false_eq_true, if_false]

theorem colrLine_of_refused (hr : s.colourRefused o left = true) : exec (.colrLine id) s = .next (s.colourLine o k left).pump := by
  rw [colrLine_eq ho hk hg, if_pos hr]

theorem colrLine_of_open (hh : s.hole? o = none) : exec (.colrLine id) s = .next (s.colourLine o k left).pump := by
  rw [colrLine_eq ho hk hg, orHole_of_none hh, ite_self]

end

theorem colourRefused_of_page {s s1 : State} {o : Op} {left : Nat} {h : Home} (hf : s.homeFor o false = (s1, .ok h))
    (hp : peME h.entry = false ∨ peWR h.entry = false) : s.colourRefused o left = true := by
  rw [State.colourRefused, hf]
  rcases hp with hp | hp <;> simp [hp]

section
variable {s s1 : State} {o : Op} {left : Nat} {h : Home} (hl : left ≠ 0) (ha : o.addr.toNat < 2 ^ 52)
include hl ha

theorem colourLine_of_page (k : Nat) (hf : s.homeFor o false = (s1, .ok h)) (hp : peME h.entry = false ∨ peWR h.entry = false) :
    s.colourLine o k left = s1.foundFault o tcProtection o.addr := by
  rw [State.colourLine, if_neg hl, if_neg (by omega), hf]
  exact if_pos (by rcases hp with hp | hp <;> simp [hp])

/-- A line whose page admits COLR and that can be reached: its colour is read at its home, then every copy is dropped and the colour is set. -/
theorem colourLine_of_home (k : Nat) (hf : s.homeFor o false = (s1, .ok h)) (hm : peME h.entry = true) (hw : peWR h.entry = true)
    (ht : s1.stackTrained h.node h.addr = true) (hx : s1.frameExists h.node h.addr = true) : s.colourLine o k left =
      if s1.unreadable h then (s1.meetError h).foundFault o tcUncorrectable o.addr
      else if mColour (s1.mem.metaAt h.node h.addr) != 0 && decide (h.node ≥ 8) then s1.foundFault o tcProtection o.addr
      else
        let s2 := (s1.writePeer h (o.addr.toNat / 64)).purgeLines fun _ _ x => x.node == h.node && x.addr == h.addr
        let md := s2.mem.metaAt h.node h.addr
        if mColour md != 0 && mColour md != k then s2.foundFault o tcProtection o.addr
        else
          let s3 : State := { s2 with mem := s2.mem.setMeta h.node h.addr (setColour md k) }
          if left ≤ 64 then s3.dropOp o.id
          else s3.modOp o.id fun o => { o with addr := o.addr + 64, kind := .colr k (left - 64) } := by
  rw [State.colourLine, if_neg hl, if_neg (by omega), hf]
  simp only [hm, hw, ht, hx, Bool.not_true, Bool.or_self, Bool.false_eq_true, if_false]

end

theorem colourLines : ColourLines := by
  refine ⟨colr_starts, fun id s s1 o k left h ho hk hg => ⟨fun hl => ?_, fun hl ha => ?_, fun hl ha hf hp => ?_, fun n a hl ha hf => ?_⟩,
    fun id s s1 o k left h ho hk hg hl ha hh hf hm hw ht hx => ?_⟩
  · rw [colrLine_of_refused ho hk hg (by simp [State.colourRefused, hl]), State.colourLine, if_pos hl]
  · rw [colrLine_of_refused ho hk hg (by rw [State.colourRefused, decide_eq_true ha]; simp), State.colourLine, if_neg hl, if_pos ha]
    rfl
  · rw [colrLine_of_refused ho hk hg (colourRefused_of_page hf hp), colourLine_of_page hl ha k hf hp]
    rfl
  · rw [colrLine_of_open ho hk hg (hole?_of_error hf), State.colourLine, if_neg hl, if_neg (by omega), hf]
    rfl
  · intro peer s2 md s3
    have hs2 : (s1.writePeer h (o.addr.toNat / 64)).purgeLines (fun _ _ x => x.node == h.node && x.addr == h.addr) = s2 := by
      show _ = State.purgeLines (if h.node < 8 then s1 else s1.writePeer h (o.addr.toNat / 64)) _
      split
      · next h8 => rw [State.writePeer, if_pos h8]
      · rfl
    have hpe : (mColour (s1.mem.metaAt h.node h.addr) != 0 && decide (h.node ≥ 8)) = true ↔ peer := by
      rw [Bool.and_eq_true, bne_iff_ne, decide_eq_true_iff]
    have he : exec (.colrLine id) s = _ := colrLine_of_open ho hk hg hh
    rw [he, colourLine_of_home hl ha k hf hm hw ht hx, hs2]
    refine ⟨fun hu => ?_, fun hu hp => ?_, fun hu hp h0 hk' => ?_, fun hu hp hc => ?_⟩
    · rw [hu, if_pos rfl]
      rfl
    · rw [hu, if_neg (by decide), if_pos (hpe.2 hp)]
      rfl
    · have hc : (mColour (s2.mem.metaAt h.node h.addr) != 0 && mColour (s2.mem.metaAt h.node h.addr) != k) = true := by
        rw [Bool.and_eq_true, bne_iff_ne, bne_iff_ne]
        exact ⟨h0, hk'⟩
      rw [hu, if_neg (by decide), if_neg (fun g => hp (hpe.1 g))]
      dsimp only
      rw [if_pos hc]
      rfl
    · have hn : ¬ (mColour (s2.mem.metaAt h.node h.addr) != 0 && mColour (s2.mem.metaAt h.node h.addr) != k) = true := by
        rw [Bool.and_eq_true, bne_iff_ne, bne_iff_ne]
        rintro ⟨g0, g1⟩
        exact hc.elim g0 g1
      rw [hu, if_neg (by decide), if_neg (fun g => hp (hpe.1 g))]
      dsimp only
      rw [if_neg hn]
      split <;> rfl

/-- Settles O49: a reference store is judged in the state in which its line has arrived at the home; a walk goes by the head of its queue and what it reads there;
a colour is set once every copy of the line has gone. -/
theorem objects : Obligations.Objects := ⟨referenceStores, walks, colourLines⟩

end Sys2Proof.Machine
end

section
/-!
SUPPORT. A store and a load of another line (R162, R167, R169, R180): a store into L1 takes a moment, and what the load then merges carries later moments than it
would have carried before; a full slice whose lines are stamped with moments to come gives up another line for it.
-/

namespace Sys2Proof.Machine

open Claim

/-! ### A slice that is full but for one line -/

theorem evictL2s_of_le {s : State} {die slice left : Nat} {ownOnly : Bool} (h : s.linesIn die slice ownOnly ≤ left) (n : Nat) :
    s.evictL2s die slice ownOnly left n = s := by
  cases n with
  | zero => rfl
  | succ n => rw [State.evictL2s, if_pos h]

/-- A slice that has one line too many gives up one victim. -/
theorem evictL2s_of_one {s t : State} {die slice left : Nat} {ownOnly : Bool} (h : left < s.linesIn die slice ownOnly)
    (ht : (s.dropCopies (s.victimsL2 die slice ownOnly).1).dropOwn (s.victimsL2 die slice ownOnly).2 = t) (hr : t.linesIn die slice ownOnly ≤ left) :
    s.evictL2s die slice ownOnly left (s.linesIn die slice ownOnly) = t := by
  obtain ⟨n, hn⟩ : ∃ n, s.linesIn die slice ownOnly = n + 1 := ⟨_, (Nat.succ_pred_eq_of_pos (Nat.lt_of_le_of_lt (Nat.zero_le _) h)).symm⟩
  rw [hn, State.evictL2s, if_neg (Nat.not_le.2 h)]
  dsimp only
  rw [ht, evictL2s_of_le hr]

theorem trimSlice_of_ownRoom {s : State} {die slice spare spareOwn : Nat} (h : s.linesIn die slice true ≤ sliceLines - spareOwn) :
    s.trimSlice die slice spare spareOwn = s.evictL2s die slice false (s.cacheLines die - spare) (s.linesIn die slice false) := by
  rw [State.trimSlice, evictL2s_of_le h]

theorem minBy_replicate {α : Type} (key : α → Nat) (x : α) (n : Nat) : minBy key (List.replicate (n + 1) x) = some x := by
  induction n with
  | zero => rfl
  | succ n ih =>
    rw [List.replicate_succ, minBy, ih]
    exact if_neg (Nat.lt_irrefl _)

theorem addCopy_of_room {s : State} {c : DieCopy} (h : s.roomL2 c.die c.line false = s) :
    s.addCopy c = { s with mem := { s.mem with copies := s.mem.copies ++ [c] } } := by
  rw [State.addCopy, h]

theorem mergeL2_eq_launchWt {s : State} {die asid line : Nat} {h : Home} {mask : BitVec 64} (data : BitVec 512) (kinds : BitVec 32) (cls : Nat) (hm : mask ≠ 0)
    (hc : copyable die h = true) : s.mergeL2 die asid line h data mask kinds true cls =
      launchWt (copiesAfter s die asid line h data mask kinds cls) s.fresh h line
        { id := s.fresh, die := die, asid := asid, line := line, data := data, mask := mask, kinds := kinds, home := h } := by
  rw [State.mergeL2, if_neg hm, if_neg (by rw [hc]; decide)]
  rfl

/-- Whole lines of die 0 that one core has written back and that have not arrived: to home 1, then to the die's own memory. -/
def farWb : WriteBack :=
  { id := 1, core := 0, asid := 0, line := 0, data := 1, mask := BitVec.allOnes 64, kinds := 0, home := ⟨1, 0, 0, false, 0⟩, cls := 0 }

def nearWb : WriteBack :=
  { id := 2, core := 0, asid := 0, line := 0, data := 0, mask := 1, kinds := 0, home := ⟨0, 0, 0, false, 0⟩, cls := 0 }

/-- A line of die 0's own memory, last used at moment 1. -/
def stampedOwn : OwnLine := { die := 0, asid := 1, line := 0, home := ⟨0, 0, 0, false, 0⟩, cls := 0, used := 1 }

/-- The slice of line 0 of die 0 has room for one line. -/
def crowded (n f : Nat) (cs : List Core) (copies : List DieCopy) (own : List OwnLine) (wbs : List WriteBack) (wts : List WriteThrough) : State :=
  { State.reset with
    cores := cs
    fresh := f
    dev := { State.reset.dev with rdcGib := .replicate 4 0 }
    mem := { State.reset.mem with copies := copies, own := List.replicate n stampedOwn ++ own, wbs := wbs, wts := wts } }

section
variable (n f g : Nat) (cs : List Core)

/-- The copy and the write-through that the first write-back leaves. -/
def farCopy : DieCopy :=
  { die := 0, asid := 0, line := 0, data := mergeLine 0 1 (BitVec.allOnes 64), valid := 0 ||| BitVec.allOnes 64, mdata := 0, home := ⟨1, 0, 0, false, 0⟩, filled := f, cls := 0,
    used := f }

def farWt : WriteThrough := { id := f, die := 0, asid := 0, line := 0, data := 1, mask := BitVec.allOnes 64, kinds := 0, home := ⟨1, 0, 0, false, 0⟩ }

def nearOwn : OwnLine := { die := 0, asid := 0, line := 0, home := ⟨0, 0, 0, false, 0⟩, cls := 0, used := f + 1 }

theorem sliceOwn_crowded (copies : List DieCopy) (wbs : List WriteBack) (wts : List WriteThrough) :
    (crowded n f cs copies [] wbs wts).sliceOwn 0 0 = List.replicate n stampedOwn := by
  show List.filter _ (List.replicate n stampedOwn ++ []) = _
  rw [List.append_nil, List.filter_replicate]
  rfl

theorem cacheLines_crowded (copies : List DieCopy) (own : List OwnLine) (wbs : List WriteBack) (wts : List WriteThrough) :
    (crowded n f cs copies own wbs wts).cacheLines 0 = sliceLines := by
  show sliceLines + 0 * 2 ^ 30 / 64 / 32 = sliceLines
  simp only [Nat.zero_mul, Nat.zero_div, Nat.add_zero]

theorem linesIn_crowded (copies : List DieCopy) (wbs : List WriteBack) (wts : List WriteThrough) (ownOnly : Bool) :
    (crowded n f cs copies [] wbs wts).linesIn 0 0 ownOnly =
      (if ownOnly then 0 else (copies.filter fun c => c.die == 0 && sliceOf c.line == 0).length) + n := by
  rw [State.linesIn, sliceOwn_crowded, List.length_replicate]
  rfl

theorem sliceCopies_far (wbs : List WriteBack) (wts : List WriteThrough) : (crowded n f cs [farCopy g] [] wbs wts).sliceCopies 0 0 = [farCopy g] := by
  have h0 : sliceOf 0 = 0 := by decide
  show List.filter _ [farCopy g] = _
  simp [farCopy, h0]

theorem linesIn_far (wbs : List WriteBack) (wts : List WriteThrough) : (crowded n f cs [farCopy g] [] wbs wts).linesIn 0 0 false = 1 + n := by
  rw [State.linesIn, sliceOwn_crowded, List.length_replicate, sliceCopies_far]
  rfl

/-- The first write-back finds room. -/
theorem wbArrives_far (hn : n + 1 = sliceLines) :
    (crowded n f cs [] [] [farWb, nearWb] []).wbArrives farWb = crowded n (f + 1) cs [farCopy f] [] [nearWb] [farWt f] := by
  have hr : (crowded n f cs [] [] [nearWb] []).roomL2 0 0 false = crowded n f cs [] [] [nearWb] [] := by
    show State.trimSlice _ 0 0 1 0 = _
    rw [trimSlice_of_ownRoom (by rw [linesIn_crowded, if_pos rfl]; omega), evictL2s_of_le]
    rw [linesIn_crowded, cacheLines_crowded]
    show 0 + n ≤ _
    omega
  show (crowded n f cs [] [] [nearWb] []).mergeL2 0 0 0 ⟨1, 0, 0, false, 0⟩ 1 (BitVec.allOnes 64) 0 true 0 = _
  rw [mergeL2_eq_launchWt _ _ _ (by decide) (by decide), copiesAfter, if_neg nofun]
  show launchWt (State.addCopy _ (farCopy f)) _ _ _ _ = _
  rw [addCopy_of_room hr]
  rfl

theorem minBy_own (hn : n + 1 = sliceLines) : minBy (fun c : OwnLine => victimKey c.cls c.used) (List.replicate n stampedOwn) = some stampedOwn := by
  obtain ⟨m, rfl⟩ := Nat.exists_eq_succ_of_ne_zero (n := n) (by rintro rfl; exact absurd hn (by decide))
  exact minBy_replicate _ _ _

/-- The second write-back needs a line, and takes it from those least recently used: the copy where that has been used before the other lines. -/
theorem roomL2_near (hn : n + 1 = sliceLines) : (crowded n (f + 1) cs [farCopy f] [] [] [farWt f]).roomL2 0 0 true =
    if f = 0 then crowded n (f + 1) cs [] [] [] [farWt f] else crowded 0 (f + 1) cs [farCopy f] [] [] [farWt f] := by
  have hk : victimKey (farCopy f).cls (farCopy f).used < victimKey stampedOwn.cls stampedOwn.used ↔ f = 0 := by
    show (2 - 0) * 2 ^ 64 + f < (2 - 0) * 2 ^ 64 + 1 ↔ f = 0
    exact Nat.add_lt_add_iff_left.trans Nat.lt_one_iff
  have hv : (crowded n (f + 1) cs [farCopy f] [] [] [farWt f]).victimsL2 0 0 false =
      if f = 0 then (fun x => x.die == 0 && x.asid == 0 && x.line == 0, fun _ => false)
      else (fun _ => false, fun x => x.die == 0 && x.asid == 1 && x.line == 0) := by
    rw [State.victimsL2, sliceOwn_crowded, minBy_own n hn, sliceCopies_far]
    simp only [Bool.false_eq_true, if_false, minBy, hk]
    rfl
  show State.trimSlice _ 0 0 1 1 = _
  rw [trimSlice_of_ownRoom (by rw [linesIn_crowded, if_pos rfl]; omega), cacheLines_crowded]
  apply evictL2s_of_one
  · rw [linesIn_far]
    omega
  · rw [hv]
    by_cases h0 : f = 0
    · rw [if_pos h0, if_pos h0]
      have ho : (List.replicate n stampedOwn ++ []).filter (fun _ => !false) = List.replicate n stampedOwn ++ [] := List.filter_eq_self.2 fun _ _ => rfl
      exact congrArg (fun l => ({ crowded n (f + 1) cs [] [] [] [farWt f] with mem := { (crowded n (f + 1) cs [] [] [] [farWt f]).mem with own := l } } : State)) ho
    · rw [if_neg h0, if_neg h0]
      have ho : (List.replicate n stampedOwn ++ []).filter (fun x => !(x.die == 0 && x.asid == 1 && x.line == 0)) = List.replicate 0 stampedOwn ++ [] := by
        rw [List.append_nil, List.filter_replicate]
        rfl
      exact congrArg (fun l => ({ crowded 0 (f + 1) cs [farCopy f] [] [] [farWt f] with
        mem := { (crowded 0 (f + 1) cs [farCopy f] [] [] [farWt f]).mem with own := l } } : State)) ho
  · by_cases h0 : f = 0
    · rw [if_pos h0, linesIn_crowded]
      show 0 + n ≤ _
      omega
    · rw [if_neg h0, linesIn_far]
      decide

theorem cellsReadN_nil (a n : Nat) : cellsReadN [] a n = 0 := by
  induction n generalizing a with
  | zero => rfl
  | succ n ih =>
    rw [cellsReadN, ih]
    rfl

theorem mergeHome_near_bytes {m : Mem} (hm : m.bytes = []) : (m.mergeHome ⟨0, 0, 0, false, 0⟩ 0 1 0).bytes = [] := by
  rw [Mem.mergeHome, if_neg (by decide)]
  simp only [show peME 0 = false from rfl, Bool.false_eq_true, if_false, Mem.markDirty, false_and, Mem.wr, Mem.rd, hm, cellsReadN_nil]
  have h0 : mergeLine (BitVec.ofNat 512 0) (0#512) 1 = 0#512 := by
    rw [mergeLine]
    simp only [BitVec.zero_and, BitVec.or_zero]
  rw [BitVec.ofNat_eq_ofNat, h0, BitVec.toNat_zero]
  decide

/-- The copies that the two write-backs leave, and the write-through of the first. -/
theorem flushWbs_crowded (hn : n + 1 = sliceLines) :
    let u := (crowded n f cs [] [] [farWb, nearWb] []).flushWbs fun w => w.core == 0 && w.asid == 0 && w.line == 0
    u.mem.copies = (if f = 0 then [] else [farCopy f]) ∧ u.mem.bytes = [] ∧ u.mem.wts = [farWt f] := by
  intro u
  have hu : u = (crowded n (f + 1) cs [farCopy f] [] [nearWb] [farWt f]).wbArrives nearWb := by
    rw [← wbArrives_far n f cs hn]
    rfl
  have hown : (crowded n (f + 1) cs [farCopy f] [] [] [farWt f]).ownLine? 0 0 0 = none := by
    show List.find? _ (List.replicate n stampedOwn ++ []) = none
    rw [List.append_nil, List.find?_eq_none]
    intro x hx
    rw [List.eq_of_mem_replicate hx]
    decide
  have hm : u = { (crowded n (f + 1) cs [farCopy f] [] [] [farWt f]).touchOwn 0 0 0 ⟨0, 0, 0, false, 0⟩ true 0 with
      mem := ((crowded n (f + 1) cs [farCopy f] [] [] [farWt f]).touchOwn 0 0 0 ⟨0, 0, 0, false, 0⟩ true 0).mem.mergeHome ⟨0, 0, 0, false, 0⟩ 0 1 0 } := by
    rw [hu]
    show State.mergeL2 _ 0 0 0 ⟨0, 0, 0, false, 0⟩ 0 1 0 true 0 = _
    rw [State.mergeL2, if_neg (by decide), if_pos (by decide)]
    rfl
  rw [hm, State.touchOwn, hown, roomL2_near n f cs hn]
  by_cases h0 : f = 0
  · simp only [if_pos h0]
    exact ⟨rfl, mergeHome_near_bytes rfl, rfl⟩
  · simp only [if_neg h0]
    exact ⟨rfl, mergeHome_near_bytes rfl, rfl⟩

end

/-! ### The store and the load -/

/-- The line that a store puts into an L1 that has room for it. -/
def storedLine (s : State) (core asid va n v : Nat) (h : Home) (kind gr : Nat) : L1Line :=
  let mask := byteMask (va % 64) n &&& ~~~(BitVec.ofNat 64 (0 * 2 ^ (va % 64)))
  { asid := asid, line := va / 64, granule := gr, data := BitVec.ofNat 512 (v * 2 ^ (8 * (va % 64))), valid := mask, dirty := mask,
    mdata := if peME h.entry then kindsMask (s.metaSeen core asid (va / 64) h) kind mask 8 else s.mem.metaAt h.node h.addr, home := h,
    cls := Policy.class none (va / 64), since := (s.coreAt core).clock, filled := s.fresh, placed := s.fresh, used := s.fresh }

theorem storeLine_of_new {s : State} {core asid va n : Nat} {h : Home} {gr : Nat} (v kind : Nat) (hm : byteMask (va % 64) n &&& ~~~(BitVec.ofNat 64 (0 * 2 ^ (va % 64))) ≠ 0)
    (hc : h.cached = true) (hl : s.l1? core asid (va / 64) = none) (hg : s.lineGranule? core (va / 64) = some gr)
    (hr : ((s.coreAt core).l1.filter fun l => l.granule == gr).length < granuleLines) : s.storeLine core asid va n v h none kind 0 =
      ({ s with fresh := s.fresh + 1 } : State).modCore core fun k => { k with l1 := k.l1 ++ [storedLine s core asid va n v h kind gr] } := by
  have hp (l : L1Line) (ha : l.asid = asid) (hb : l.line = va / 64) (hgr : l.granule = gr) : ({ s with fresh := s.fresh + 1 } : State).putL1 core l =
      ({ s with fresh := s.fresh + 1 } : State).modCore core fun k => { k with l1 := k.l1 ++ [l] } := by
    have hn : ({ s with fresh := s.fresh + 1 } : State).l1? core l.asid l.line = none := by
      rw [ha, hb]
      exact hl
    have hroom : ({ s with fresh := s.fresh + 1 } : State).roomL1 core gr = { s with fresh := s.fresh + 1 } := if_pos hr
    rw [State.putL1, hn, hgr, hroom]
    rfl
  unfold State.storeLine
  dsimp only
  rw [if_neg hm, hc, hl, hg]
  exact hp _ rfl rfl rfl

theorem loadLine_data_of_missing {s : State} {core asid va : Nat} (n : Nat) (y : Home)
    (hl : s.l1? core asid (va / 64) = none) : (s.loadLine core asid va n y 0 0 none).2 =
      ((s.flushWbs fun w => w.core == core && w.asid == asid && w.line == va / 64).readL2 (dieOf core) asid (va / 64) y 0 true (Policy.class none (va / 64))).2 := by
  have h0 : (s.flushWbs fun w => w.core == core && w.asid == asid && w.line == va / 64).l1? core asid (va / 64) = none := by
    rw [State.l1?, (flushWbs_memOnly s _).coreAt]
    exact hl
  unfold State.loadLine
  simp only [h0]
  split
  · rfl
  · split <;> rfl

section
variable {s : State} {y : Home} {asid line : Nat} (hy : copyable 0 y = true)
include hy

theorem readL2_data_of_whole {c : DieCopy} (hc : s.copyOf? 0 asid line = some c) (hv : c.valid = BitVec.allOnes 64) (cls : Nat) :
    (s.readL2 0 asid line y 0 true cls).2.data = c.data := by
  rw [State.readL2, if_neg (by rw [hy]; decide), hc]
  simp only [Nat.zero_le, if_true, hv, beq_self_eq_true, Bool.true_or]

theorem readL2_data_of_absent (hc : s.copyOf? 0 asid line = none) (hb : s.mem.bytes = []) (hn : y.node < 8)
    (hw : ∀ w ∈ s.mem.wts, s.wtStuck w = true) (cls : Nat) : (s.readL2 0 asid line y 0 true cls).2.data = 0 := by
  have hd : s.drainLine 0 asid line = s := by
    rw [State.drainLine, State.drain, List.filter_eq_nil_iff.2 fun w h => by simp [hw w h]]
    rfl
  have hm := countMiss_mem s 0 asid line y
  have hf : (s.fetchHome 0 asid line y).2.data = BitVec.ofNat 512 (s.mem.rd y.node y.addr 64) := by
    rw [State.fetchHome, hd, State.readPeer, if_pos hn]
    show BitVec.ofNat 512 (Mem.rd (State.mem _) _ _ 64) = _
    rw [Mem.rd, hm]
    rfl
  rw [State.readL2, if_neg (by rw [hy]; decide), hc]
  simp only [if_true]
  rw [hf, Mem.rd, hb, cellsReadN_nil]
  rfl

end

theorem crowded_data (n : Nat) (hn : n + 1 = sliceLines) (f : Nat) (cs : List Core)
    (hl : (crowded n f cs [] [] [farWb, nearWb] []).l1? 0 0 0 = none) :
    ((crowded n f cs [] [] [farWb, nearWb] []).loadLine 0 0 0 1 ⟨2, 0, 0, false, 0⟩ 0 0 none).2.data = if f = 0 then 0 else 1 := by
  obtain ⟨hc, hb, hw⟩ := flushWbs_crowded n f cs hn
  rw [loadLine_data_of_missing 1 _ hl]
  have hd := (flushWbs_memOnly (crowded n f cs [] [] [farWb, nearWb] []) fun w => w.core == 0 && w.asid == 0 && w.line == 0).dev
  show (State.readL2 (State.flushWbs _ _) 0 0 0 _ 0 true _).2.data = _
  generalize (crowded n f cs [] [] [farWb, nearWb] []).flushWbs (fun w => w.core == 0 && w.asid == 0 && w.line == 0) = u at hc hb hw hd ⊢
  by_cases h0 : f = 0
  · rw [if_pos h0] at hc ⊢
    refine readL2_data_of_absent (by decide) (by rw [State.copyOf?, hc]; rfl) hb (by decide) (fun w h => ?_) _
    rw [hw, List.mem_singleton] at h
    rw [h, State.wtStuck, State.stackTrained, hd]
    rfl
  · rw [if_neg h0] at hc ⊢
    rw [readL2_data_of_whole (by decide) (c := farCopy f) (by rw [State.copyOf?, hc]; rfl) rfl]
    show mergeLine 0 1 (BitVec.allOnes 64) = 1
    decide +kernel

/-- Refutes O44: the slice of line 0 of die 0 is full but for one line, all its lines are stamped with moment 1, the current moment is 0, and core 0 has written
back line 0 twice, to another die's memory and to its own. A store to line 1 takes moment 0. A load of line 0 first merges the two write-backs: the first leaves a
copy, and the second takes the place of the least recently used line, which is that copy at moment 0 and another line at moment 1. -/
theorem not_storedBytes : ¬ Obligations.StoredBytes := by
  intro h
  obtain ⟨n, hn⟩ : ∃ n, n + 1 = sliceLines := ⟨sliceLines - 1, by decide⟩
  obtain ⟨h1, -, -, h4⟩ := h.1.2 (crowded n 0 [] [] [] [farWb, nearWb] []) 0 0 64 1 0 ⟨0, 0, 0, false, 0⟩ 0 (by decide) (by decide) (by decide)
    (Or.inr ⟨1, rfl, Nat.zero_lt_succ _⟩)
  have hc : (crowded n 0 [] [] [] [farWb, nearWb] []).storeLine 0 0 64 1 0 ⟨0, 0, 0, false, 0⟩ none 0 0 = _ := storeLine_of_new 0 0 (gr := 1) (by decide) rfl rfl rfl (by show 0 < granuleLines; decide)
  have hl : ((crowded n 0 [] [] [] [farWb, nearWb] []).storeLine 0 0 64 1 0 ⟨0, 0, 0, false, 0⟩ none 0 0).l1? 0 0 0 = none := by
    rw [hc, State.l1?, coreAt_modCore_self _ _ (by intro k; rfl)]
    rfl
  have hf : ((crowded n 0 [] [] [] [farWb, nearWb] []).storeLine 0 0 64 1 0 ⟨0, 0, 0, false, 0⟩ none 0 0).fresh = 1 := by
    rw [hc, State.modCore_fresh]
    rfl
  obtain ⟨cs, hs⟩ : ∃ cs, (crowded n 0 [] [] [] [farWb, nearWb] []).storeLine 0 0 64 1 0 ⟨0, 0, 0, false, 0⟩ none 0 0 =
      crowded n 1 cs [] [] [farWb, nearWb] [] := ⟨_, h1.trans (by rw [hf]; rfl)⟩
  have heq := h4 0 1 ⟨2, 0, 0, false, 0⟩ (by decide)
  rw [hs] at heq hl
  rw [crowded_data n hn 1 cs hl, crowded_data n hn 0 [] rfl, if_neg Nat.one_ne_zero, if_pos rfl] at heq
  exact absurd (congrArg (fun d : BitVec 512 => d.getLsbD 0) heq) (by simp)

end Sys2Proof.Machine
end

section
/-!
SUPPORT. What every step keeps: the canonical form of the byte stores (log entry 5) and the bounds of the device (R13, R20, R22, R374, R378). One lemma for each
operation of the state, in the order of the model, says that it keeps both.
-/

namespace Sys2Proof.Machine

open Claim

/-- A state has what an earlier state has: stores in canonical form, and the device within its bounds. -/
def Kept (s0 s : State) : Prop := (Memory.wf s0 = true → Memory.wf s = true) ∧ (deviceBounds s0 → deviceBounds s)

theorem Kept.refl (s : State) : Kept s s := ⟨id, id⟩

/-- A step that keeps the stores in form and touches neither the device nor Kiln. -/
theorem Kept.of_wf {s0 s t : State} (hk : Kept s0 s) (hw : Memory.wf s = true → Memory.wf t = true) (hd : t.dev = s.dev) (hkiln : t.kiln = s.kiln) : Kept s0 t := by
  refine ⟨fun h => hw (hk.1 h), fun h => ?_⟩
  have h' := hk.2 h
  rw [deviceBounds, ← hd, ← hkiln] at h'
  exact h'

/-- A change of nothing but the memory. -/
theorem Kept.setMem {s0 s : State} (hk : Kept s0 s) {m : Mem} (hm : cellsWf s.mem.bytes = true → cellsWf m.bytes = true) : Kept s0 { s with mem := m } :=
  hk.of_wf (fun h => wf_mem s m h hm) rfl rfl

/-- A change of nothing but the pools. -/
theorem Kept.setPool {s0 s : State} (hk : Kept s0 s) {p : Pool} (hp : cellsWf s.pool.bytes = true → cellsWf p.bytes = true) : Kept s0 { s with pool := p } :=
  hk.of_wf (fun h => wf_pool s p h hp) rfl rfl

section
variable {s0 s : State} {agenda : List Agent} {turn fresh : Nat} {threads : List Thread} {cohorts : List Cohort} {issues : List Issue} {groups : List Group}
  {kernels : List Kernel} {launches : List LaunchReq} {cores : List Core} {ops : List Op} {uses : List FlagUse} {mgroups : List MGroup} {cmds : List Cmd}
  {cpys : List Copy} {monitors : List Monitor} {msgs : List Msg} {replies : List Reply} {rels : List Rel} {walks : List Walk} {mem : Mem} {saved : List Saved}
  {faultRecs : List FaultRec} {ctxs : List Ctx} {amsgs : List AMsg} {queues : List HQueue} {bulks : List BulkQ}

/-- A change of anything but memory, the pools, Kiln and the device. -/
theorem Kept.others (hk : Kept s0 s) : Kept s0 ⟨agenda, turn, fresh, threads, cohorts, issues, groups, kernels, launches, cores, ops, uses, mgroups, cmds, cpys,
    monitors, msgs, replies, rels, walks, s.mem, s.pool, saved, faultRecs, ctxs, amsgs, queues, bulks, s.kiln, s.dev⟩ := hk

/-- The same with a change of what memory holds beside its bytes. -/
theorem Kept.othersMem (hk : Kept s0 s) (hm : mem.bytes = s.mem.bytes) : Kept s0 ⟨agenda, turn, fresh, threads, cohorts, issues, groups, kernels, launches, cores,
    ops, uses, mgroups, cmds, cpys, monitors, msgs, replies, rels, walks, mem, s.pool, saved, faultRecs, ctxs, amsgs, queues, bulks, s.kiln, s.dev⟩ := by
  refine hk.of_wf (fun h => wf_of_stores s _ h ?_ id id) rfl rfl
  rw [hm]
  exact id

/-- The same with a change of what the pools hold beside their bytes. -/
theorem Kept.othersPool {pool : Pool} (hk : Kept s0 s) (hp : pool.bytes = s.pool.bytes) : Kept s0 ⟨agenda, turn, fresh, threads, cohorts, issues, groups, kernels,
    launches, cores, ops, uses, mgroups, cmds, cpys, monitors, msgs, replies, rels, walks, s.mem, pool, saved, faultRecs, ctxs, amsgs, queues, bulks, s.kiln,
    s.dev⟩ := by
  refine hk.of_wf (fun h => wf_of_stores s _ h id ?_ id) rfl rfl
  rw [hp]
  exact id

end

theorem Kept.ite {s0 s t : State} {c : Prop} [Decidable c] (hs : Kept s0 s) (ht : Kept s0 t) : Kept s0 (if c then s else t) := by
  split
  · exact hs
  · exact ht

theorem Kept.ite_fst {α : Type} {s0 : State} {p q : State × α} {c : Prop} [Decidable c] (hp : Kept s0 p.1) (hq : Kept s0 q.1) :
    Kept s0 (if c then p else q).1 := by
  split
  · exact hp
  · exact hq

/-- A state that an operation gives beside another answer. -/
theorem Kept.fst {α : Type} {s0 s1 : State} {p : State × α} {a : α} (hk : Kept s0 p.1) (h : p = (s1, a)) : Kept s0 s1 := by
  rw [h] at hk
  exact hk

theorem Kept.foldl {α : Type} {s0 : State} {f : State → α → State} (hf : ∀ {s}, Kept s0 s → ∀ x, Kept s0 (f s x)) (l : List α) {s : State} (h : Kept s0 s) :
    Kept s0 (l.foldl f s) := by
  induction l generalizing s with
  | nil => exact h
  | cons x l ih => exact ih (hf h x)

section
variable {s0 s : State} (hk : Kept s0 s)
include hk

theorem State.setCore_kept {k : Core} : Kept s0 (s.setCore k) := by
  unfold State.setCore
  exact Kept.ite (Kept.others hk) (Kept.others hk)

theorem State.modCore_kept {c : Nat} {f : Core → Core} : Kept s0 (s.modCore c f) := by
  unfold State.modCore
  exact State.setCore_kept hk

theorem State.modThread_kept {tid : Nat} {f : Thread → Thread} : Kept s0 (s.modThread tid f) := by
  unfold State.modThread
  exact Kept.others hk

theorem State.modCohort_kept {cid : Nat} {f : Cohort → Cohort} : Kept s0 (s.modCohort cid f) := by
  unfold State.modCohort
  exact Kept.others hk

theorem State.modGroup_kept {gid : Nat} {f : Group → Group} : Kept s0 (s.modGroup gid f) := by
  unfold State.modGroup
  exact Kept.others hk

theorem State.modKernel_kept {kid : Nat} {f : Kernel → Kernel} : Kept s0 (s.modKernel kid f) := by
  unfold State.modKernel
  exact Kept.others hk

theorem State.modCtx_kept {asid : Nat} {f : Ctx → Ctx} : Kept s0 (s.modCtx asid f) := by
  unfold State.modCtx
  exact Kept.others hk

theorem State.modOp_kept {id : Nat} {f : Op → Op} : Kept s0 (s.modOp id f) := by
  unfold State.modOp
  exact Kept.others hk

theorem State.dropOp_kept {id : Nat} : Kept s0 (s.dropOp id) := by
  unfold State.dropOp
  dsimp only
  exact Kept.others hk

theorem State.tick_kept {n : Nat} : Kept s0 (s.tick n) := by
  unfold State.tick
  exact Kept.others hk

theorem State.modIssue_kept {core : Nat} {f : Issue → Issue} : Kept s0 (s.modIssue core f) := by
  unfold State.modIssue
  exact Kept.others hk

theorem State.onIssuing_kept {f : Issue → Thread → Thread} : Kept s0 (s.onIssuing f) := by
  unfold State.onIssuing
  split
  · exact hk
  · exact Kept.others hk

theorem State.finishUse_kept {use : Option Nat} {tid : Nat} : Kept s0 (s.finishUse use tid) := by
  unfold State.finishUse
  dsimp only
  repeat' split
  · exact hk
  · exact hk
  · exact Kept.others (State.modCohort_kept hk)
  · exact Kept.others hk

theorem State.markFlag_kept {iss : Issue} {id : Nat} {tids : List Nat} : Kept s0 (s.markFlag iss id tids) := by
  unfold State.markFlag
  dsimp only
  exact Kept.ite (State.modIssue_kept hk) (Kept.others (State.modCohort_kept (State.modIssue_kept hk)))

theorem State.startOps_kept {g : BitVec 4} {flagged hashed : Bool} {srcs : List Reg} {mk : Issue → Thread → Except Flt OpReq} : Kept s0
    (s.startOps g flagged hashed srcs mk) := by
  unfold State.startOps
  dsimp only
  split
  · exact hk
  · exact Kept.others (Kept.ite (State.markFlag_kept (State.onIssuing_kept hk)) (State.onIssuing_kept hk))

theorem State.kernelError_kept {gid : Nat} {code : Nat} {pc : Word} : Kept s0 (s.kernelError gid code pc) := by
  unfold State.kernelError
  split
  · exact hk
  · exact State.modKernel_kept hk

theorem State.releaseColours_kept {tid : Nat} {which : Held → Bool} : Kept s0 (s.releaseColours tid which) := by
  unfold State.releaseColours
  dsimp only
  split
  · exact hk
  · exact Kept.others (State.modThread_kept hk)

theorem State.exitThread_kept {tid : Nat} : Kept s0 (s.exitThread tid) := by
  unfold State.exitThread
  dsimp only
  repeat' split
  · exact hk
  · exact State.modThread_kept (State.releaseColours_kept hk)
  · exact State.modThread_kept (Kept.others (State.releaseColours_kept hk))

theorem State.takeTrap_kept {t : Thread} : Kept s0 (s.takeTrap t) := by
  unfold State.takeTrap
  dsimp only
  split
  · exact hk
  · exact Kept.ite (State.modThread_kept (State.exitThread_kept (State.kernelError_kept hk))) (State.modThread_kept hk)

theorem State.settleTraps_kept {cid : Nat} : Kept s0 (s.settleTraps cid) := by
  unfold State.settleTraps
  dsimp only
  exact Kept.foldl (fun hk _ => State.takeTrap_kept hk) _ hk

theorem State.lateFault_kept {tid : Nat} {d : Due} : Kept s0 (s.lateFault tid d) := by
  unfold State.lateFault
  split
  · exact hk
  · exact Kept.ite (State.kernelError_kept hk) (State.modThread_kept hk)

theorem State.parkUse_kept {tid : Nat} {p : Park} : Kept s0 (s.parkUse tid p) := by
  unfold State.parkUse
  dsimp only
  exact Kept.foldl (fun hk _ => State.modOp_kept (State.finishUse_kept hk)) _ hk

theorem State.addPark_kept {tid : Nat} {p : Park} : Kept s0 (s.addPark tid p) := by
  unfold State.addPark
  dsimp only
  exact Kept.ite (State.parkUse_kept (State.modThread_kept hk)) (State.modThread_kept hk)

theorem State.endPark_kept {tid : Nat} {which : Park → Bool} : Kept s0 (s.endPark tid which) := by
  unfold State.endPark
  dsimp only
  exact State.modThread_kept hk

theorem State.finishOp_kept {o : Op} {dep : Nat} {es : List Eff} : Kept s0 (s.finishOp o dep es) := by
  unfold State.finishOp
  exact State.tick_kept (State.dropOp_kept (State.finishUse_kept (State.modThread_kept hk)))

theorem State.trapWoken_kept {was : TSt} {tid : Nat} : Kept s0 (s.trapWoken was tid) := by
  unfold State.trapWoken
  split
  · exact hk
  · exact Kept.ite (State.takeTrap_kept hk) hk

theorem State.endInFault_kept {o : Op} {t : Thread} {d : Due} : Kept s0 (s.endInFault o t d) := by
  unfold State.endInFault
  exact State.trapWoken_kept (State.dropOp_kept (State.lateFault_kept hk))

theorem State.flaggedFault_kept {o : Op} {d : Due} : Kept s0 (s.flaggedFault o d) := by
  unfold State.flaggedFault
  split
  · exact State.dropOp_kept hk
  · exact State.endInFault_kept (State.finishUse_kept (State.modThread_kept hk))

theorem State.faultOp_kept {o : Op} {code : Nat} {addr : Word} : Kept s0 (s.faultOp o code addr) := by
  unfold State.faultOp
  split
  · exact State.dropOp_kept hk
  · exact State.flaggedFault_kept hk

end

end Sys2Proof.Machine
end

section
/-!
SUPPORT. What every step keeps: the operations of memory, of the dies' L2s and of the L1s.
-/

namespace Sys2Proof.Machine

open Claim

section
variable {s0 s : State} (hk : Kept s0 s)
include hk

theorem State.meetLine_kept {node addr : Nat} : Kept s0 (s.meetLine node addr) :=
  hk.of_wf (State.meetLine_wf s _ _) (State.meetLine_dev ..) (State.meetLine_kiln ..)

theorem State.sent_kept {r : PeerReq} {wait : Bool} : Kept s0 (s.sent r wait) :=
  hk.of_wf (State.sent_wf s _ _) (State.sent_dev ..) (State.sent_kiln ..)

theorem State.recorded_kept {r : PeerReq} {old : Nat} : Kept s0 (s.recorded r old) :=
  hk.of_wf (State.recorded_wf s _ _) (State.recorded_dev ..) (State.recorded_kiln ..)

theorem State.ackPeer_kept {id : Nat} : Kept s0 (s.ackPeer id) :=
  hk.of_wf (State.ackPeer_wf s _) (State.ackPeer_dev ..) (State.ackPeer_kiln ..)

theorem State.writePeer_kept {h : Home} {line : Nat} : Kept s0 (s.writePeer h line) :=
  hk.of_wf (State.writePeer_wf s _ _) (State.writePeer_dev ..) (State.writePeer_kiln ..)

theorem State.wtArrives_kept {w : WriteThrough} : Kept s0 (s.wtArrives w) :=
  hk.of_wf (State.wtArrives_wf s _) (State.wtArrives_dev ..) (State.wtArrives_kiln ..)

theorem State.drain_kept {which : WriteThrough → Bool} : Kept s0 (s.drain which) :=
  hk.of_wf (State.drain_wf s _) (State.drain_dev ..) (State.drain_kiln ..)

theorem State.trimSlice_kept {die slice spare spareOwn : Nat} : Kept s0 (s.trimSlice die slice spare spareOwn) :=
  hk.of_wf (State.trimSlice_wf s _ _ _ _) (State.trimSlice_dev ..) (State.trimSlice_kiln ..)

theorem State.addCopy_kept {c : DieCopy} : Kept s0 (s.addCopy c) :=
  hk.of_wf (State.addCopy_wf s _) (State.addCopy_dev ..) (State.addCopy_kiln ..)

theorem State.touchOwn_kept {die asid line : Nat} {h : Home} {alloc : Bool} {cls : Nat} : Kept s0 (s.touchOwn die asid line h alloc cls) :=
  hk.of_wf (State.touchOwn_wf s _ _ _ _ _ _) (State.touchOwn_dev ..) (State.touchOwn_kiln ..)

theorem State.mergeL2_kept {die asid line : Nat} {h : Home} {data : BitVec 512} {mask : BitVec 64} {kinds : BitVec 32} {alloc : Bool} {cls : Nat} : Kept s0
    (s.mergeL2 die asid line h data mask kinds alloc cls) :=
  hk.of_wf (State.mergeL2_wf s _ _ _ _ _ _ _ _ _) (State.mergeL2_dev ..) (State.mergeL2_kiln ..)

theorem State.regionStore_kept {core : Nat} {gs : List Nat} {o v lost n : Nat} : Kept s0 (s.regionStore core gs o v lost n) :=
  hk.of_wf (State.regionStore_wf s _ _ _ _ _ _) (State.regionStore_dev ..) (State.regionStore_kiln ..)

theorem State.regionWrite_kept {core : Nat} {gs : List Nat} {o v n : Nat} : Kept s0 (s.regionWrite core gs o v n) :=
  hk.of_wf (State.regionWrite_wf s _ _ _ _ _) (State.regionWrite_dev ..) (State.regionWrite_kiln ..)

theorem State.meetTable_kept {asid va : Nat} : Kept s0 (s.meetTable asid va) :=
  hk.of_wf (State.meetTable_wf s _ _) (State.meetTable_dev ..) (State.meetTable_kiln ..)

theorem State.homeWrite_kept {asid va n v : Nat} : Kept s0 (s.homeWrite asid va n v) :=
  hk.of_wf (State.homeWrite_wf s _ _ _ _) (State.homeWrite_dev ..) (State.homeWrite_kiln ..)

theorem State.meetRead_kept {asid va : Nat} : Kept s0 (s.meetRead asid va) :=
  hk.of_wf (State.meetRead_wf s _ _) (State.meetRead_dev ..) (State.meetRead_kiln ..)

theorem State.deviceAdd_kept {asid va v : Nat} : Kept s0 (s.deviceAdd asid va v) :=
  hk.of_wf (State.deviceAdd_wf s _ _ _) (State.deviceAdd_dev ..) (State.deviceAdd_kiln ..)

theorem State.setPoolWord_kept {b v : Nat} : Kept s0 (s.setPoolWord b v) :=
  hk.of_wf (State.setPoolWord_wf s _ _) (State.setPoolWord_dev ..) (State.setPoolWord_kiln ..)

theorem State.piecesWrite_kept {asid va v : Nat} : Kept s0 (s.piecesWrite asid va v) :=
  hk.of_wf (State.piecesWrite_wf s _ _ _) (State.piecesWrite_dev ..) (State.piecesWrite_kiln ..)

theorem State.putWords_kept {asid va : Nat} {vs : List Nat} : Kept s0 (s.putWords asid va vs) :=
  hk.of_wf (State.putWords_wf s _ _ _) (State.putWords_dev ..) (State.putWords_kiln ..)

theorem State.meetError_kept {h : Home} : Kept s0 (s.meetError h) := by
  unfold State.meetError
  exact State.meetLine_kept hk

theorem State.fillTlb_kept {die asid : Nat} {e : Word} {base size : Nat} : Kept s0 (s.fillTlb die asid e base size) := by
  unfold State.fillTlb
  dsimp only
  exact Kept.ite hk (Kept.othersMem hk (by rfl))

theorem State.keepPeer_kept {id : Nat} {r : Option PeerReq} : Kept s0 (s.keepPeer id r) := by
  unfold State.keepPeer
  dsimp only
  split
  · exact hk
  · exact Kept.othersMem hk (by rfl)

theorem State.resendPeer_kept : Kept s0 (s.resendPeer) := by
  unfold State.resendPeer
  dsimp only
  exact Kept.othersMem hk (by rfl)

theorem State.sendWaiting_kept : Kept s0 (s.sendWaiting) := by
  unfold State.sendWaiting
  dsimp only
  exact Kept.othersMem hk (by rfl)

theorem State.drainDie_kept {die asid : Nat} : Kept s0 (s.drainDie die asid) := by
  unfold State.drainDie
  exact State.drain_kept hk

theorem State.drainLine_kept {die asid line : Nat} : Kept s0 (s.drainLine die asid line) := by
  unfold State.drainLine
  exact State.drain_kept hk

theorem State.dropCopies_kept {which : DieCopy → Bool} : Kept s0 (s.dropCopies which) := by
  unfold State.dropCopies
  dsimp only
  exact Kept.othersMem hk (by rfl)

theorem State.dropOwn_kept {which : OwnLine → Bool} : Kept s0 (s.dropOwn which) := by
  unfold State.dropOwn
  dsimp only
  exact Kept.othersMem hk (by rfl)

theorem State.countMiss_kept {die asid line : Nat} {h : Home} : Kept s0 (s.countMiss die asid line h) := by
  unfold State.countMiss
  dsimp only
  exact Kept.ite hk (Kept.othersMem hk (by rfl))

theorem State.wbArrives_kept {w : WriteBack} : Kept s0 (s.wbArrives w) := by
  unfold State.wbArrives
  dsimp only
  exact State.mergeL2_kept (Kept.othersMem hk (by rfl))

theorem State.flushWbs_kept {which : WriteBack → Bool} : Kept s0 (s.flushWbs which) := by
  unfold State.flushWbs
  exact Kept.foldl (fun hk _ => State.wbArrives_kept hk) _ hk

theorem State.cleanL1_kept {core : Nat} {which : L1Line → Bool} : Kept s0 (s.cleanL1 core which) := by
  unfold State.cleanL1
  dsimp only
  exact State.modCore_kept (Kept.foldl (fun hk _ => State.mergeL2_kept hk) _ (State.flushWbs_kept hk))

theorem State.dropL1_kept {core : Nat} {which : L1Line → Bool} : Kept s0 (s.dropL1 core which) := by
  unfold State.dropL1
  exact State.modCore_kept (State.cleanL1_kept hk)

theorem State.sendBack_kept {core : Nat} {l : L1Line} : Kept s0 (s.sendBack core l) := by
  unfold State.sendBack
  dsimp only
  exact Kept.ite hk (Kept.othersMem (State.modCore_kept hk) (by rfl))

theorem State.setClock_kept {core cycle : Nat} : Kept s0 (s.setClock core cycle) := by
  unfold State.setClock
  dsimp only
  exact Kept.foldl (fun hk _ => State.sendBack_kept hk) _ (State.modCore_kept hk)

theorem State.roomL1_kept {core granule : Nat} : Kept s0 (s.roomL1 core granule) := by
  unfold State.roomL1
  dsimp only
  repeat' split
  · exact hk
  · exact hk
  · exact State.dropL1_kept hk

theorem State.putL1_kept {core : Nat} {l : L1Line} : Kept s0 (s.putL1 core l) := by
  unfold State.putL1
  exact Kept.ite (State.modCore_kept hk) (State.modCore_kept (State.roomL1_kept hk))

theorem State.storeLine_kept {core asid va n v : Nat} {h : Home} {pol : Option Word} {kind lost : Nat} : Kept s0 (s.storeLine core asid va n v h pol kind lost) := by
  unfold State.storeLine
  dsimp only
  repeat' split
  · exact hk
  · exact State.mergeL2_kept (State.flushWbs_kept (State.putL1_kept hk))
  · exact State.mergeL2_kept (State.flushWbs_kept (State.putL1_kept hk))
  · exact State.mergeL2_kept (State.flushWbs_kept hk)
  · exact State.mergeL2_kept (State.flushWbs_kept hk)
  · exact State.putL1_kept hk
  · exact State.putL1_kept hk
  · exact State.putL1_kept hk
  · exact State.putL1_kept hk
  · exact State.mergeL2_kept (State.flushWbs_kept (State.putL1_kept hk))
  · exact State.mergeL2_kept (State.flushWbs_kept (State.putL1_kept hk))
  · exact State.mergeL2_kept (State.flushWbs_kept hk)
  · exact State.mergeL2_kept (State.flushWbs_kept hk)
  · exact State.putL1_kept (Kept.others hk)
  · exact State.putL1_kept (Kept.others hk)

theorem State.raiseBound_kept {die asid m : Nat} : Kept s0 (s.raiseBound die asid m) := by
  unfold State.raiseBound
  dsimp only
  exact Kept.ite hk (Kept.othersMem hk (by rfl))

theorem State.passBound_kept {tid core asid : Nat} : Kept s0 (s.passBound tid core asid) := by
  unfold State.passBound
  exact State.raiseBound_kept hk

theorem State.releaseAt_kept {tid core asid scope : Nat} : Kept s0 (s.releaseAt tid core asid scope) := by
  unfold State.releaseAt
  dsimp only
  exact Kept.ite (Kept.ite (State.passBound_kept hk) (State.cleanL1_kept (State.passBound_kept hk))) (State.drainDie_kept (Kept.ite (State.passBound_kept hk)
    (State.cleanL1_kept (State.passBound_kept hk))))

theorem State.bound_kept {tid seq m : Nat} : Kept s0 (s.bound tid seq m) := by
  unfold State.bound
  dsimp only
  exact Kept.others (State.modThread_kept hk)

theorem State.acquireAt_kept {tid seq core asid scope : Nat} : Kept s0 (s.acquireAt tid seq core asid scope) := by
  unfold State.acquireAt
  dsimp only
  exact Kept.ite (State.bound_kept (Kept.ite hk (State.dropL1_kept hk))) (State.bound_kept (Kept.others (Kept.ite hk (State.dropL1_kept hk))))

theorem State.fenceEffect_kept {tid seq core asid scope : Nat} {rel acq : Bool} : Kept s0 (s.fenceEffect tid seq core asid scope rel acq) := by
  unfold State.fenceEffect
  dsimp only
  exact Kept.ite (State.acquireAt_kept (Kept.ite (State.releaseAt_kept hk) hk)) (Kept.ite (State.releaseAt_kept hk) hk)

theorem State.holdWrite_kept {w : LateWrite} : Kept s0 (s.holdWrite w) := by
  unfold State.holdWrite
  dsimp only
  exact Kept.othersMem hk (by rfl)

theorem State.putChunk_kept {k : Kernel} {i n : Nat} {x : LogName} {run : Nat} : Kept s0 (s.putChunk k i n x run) := by
  unfold State.putChunk
  dsimp only
  exact State.homeWrite_kept (State.homeWrite_kept (State.homeWrite_kept (State.homeWrite_kept hk)))

theorem State.setOverflow_kept {k : Kernel} {i : Nat} : Kept s0 (s.setOverflow k i) := by
  unfold State.setOverflow
  dsimp only
  exact State.homeWrite_kept hk

theorem State.logAppend_kept {k : Kernel} {i tid : Nat} : Kept s0 (s.logAppend k i tid) := by
  unfold State.logAppend
  dsimp only
  exact Kept.ite hk (Kept.ite (State.putChunk_kept hk) (Kept.ite (Kept.ite (State.modKernel_kept (State.putChunk_kept hk)) (State.setOverflow_kept
    (State.modKernel_kept (State.putChunk_kept hk)))) (State.modKernel_kept (State.setOverflow_kept hk))))

theorem State.reviewGates_kept : Kept s0 (s.reviewGates) := by
  unfold State.reviewGates
  dsimp only
  exact Kept.foldl (fun hk _ => Kept.foldl (fun hk _ => State.modKernel_kept hk) _ hk) _ hk

theorem State.gateUse_kept {k : Kernel} {i : Nat} : Kept s0 (s.gateUse k i) := by
  unfold State.gateUse
  dsimp only
  exact Kept.ite hk (State.modKernel_kept hk)

theorem State.shadow_kept {o : Op} : Kept s0 (s.shadow o) := by
  unfold State.shadow
  exact Kept.others hk

theorem State.hostEvent_kept {kind id payload : Nat} : Kept s0 (s.hostEvent kind id payload) := by
  unfold State.hostEvent
  dsimp only
  exact hk

theorem State.putFault_kept {r : FaultRec} : Kept s0 (s.putFault r).1 := by
  unfold State.putFault
  dsimp only
  split
  · exact hk
  · exact Kept.ite_fst (Kept.others (State.modCtx_kept hk)) (State.modCtx_kept (Kept.ite hk (State.hostEvent_kept hk)))

theorem State.parkOn_kept {tid id : Nat} : Kept s0 (s.parkOn tid id) := by
  unfold State.parkOn
  exact Kept.ite hk (State.addPark_kept hk)

theorem State.sendAcquire_kept {o : Op} {c : Nat} : Kept s0 (s.sendAcquire o c) := by
  unfold State.sendAcquire
  dsimp only
  split
  · exact hk
  · exact Kept.others (State.modOp_kept (State.modThread_kept hk))

theorem State.purgeLines_kept {sel : Nat → Nat → Home → Bool} : Kept s0 (s.purgeLines sel) := by
  unfold State.purgeLines
  dsimp only
  exact State.dropOwn_kept (State.dropCopies_kept (State.drain_kept (State.flushWbs_kept (Kept.foldl (fun hk _ => State.dropL1_kept hk) _ hk))))

theorem State.foundFault_kept {o : Op} {code : Nat} {addr : Word} : Kept s0 (s.foundFault o code addr) := by
  unfold State.foundFault
  dsimp only
  split
  · exact State.modOp_kept hk
  · exact State.modOp_kept hk
  · exact State.modOp_kept hk
  · exact State.modOp_kept hk
  · exact State.modOp_kept hk
  · exact State.modOp_kept hk
  · exact State.faultOp_kept (State.modThread_kept hk)
  · exact State.faultOp_kept hk

theorem State.storeFault_kept {o : Op} {d : Due} : Kept s0 (s.storeFault o d) := by
  unfold State.storeFault
  dsimp only
  split
  · exact State.dropOp_kept hk
  · exact State.endInFault_kept (State.modThread_kept hk)

theorem State.countRequest_kept {o : Op} {h : Home} : Kept s0 (s.countRequest o h) := by
  unfold State.countRequest
  split
  · exact State.countMiss_kept hk
  · exact State.countMiss_kept hk
  · exact hk

theorem State.readPeer_kept {h : Home} {line : Nat} : Kept s0 (s.readPeer h line).1 := by
  unfold State.readPeer
  dsimp only
  split
  · exact hk
  · exact State.sent_kept hk

theorem State.fetchHome_kept {die asid line : Nat} {h : Home} : Kept s0 (s.fetchHome die asid line h).1 := by
  unfold State.fetchHome
  dsimp only
  exact State.readPeer_kept (State.countMiss_kept (State.drainLine_kept hk))

theorem State.readL2_kept {die asid line : Nat} {h : Home} {bound : Nat} {alloc : Bool} {cls : Nat} : Kept s0 (s.readL2 die asid line h bound alloc cls).1 := by
  have hf := State.fetchHome_kept hk (die := die) (asid := asid) (line := line) (h := h)
  have ht := State.touchOwn_kept hk (die := die) (asid := asid) (line := line) (h := h) (alloc := alloc) (cls := cls)
  have hd := State.drainLine_kept hk (die := die) (asid := asid) (line := line)
  unfold State.readL2
  dsimp only
  generalize s.fetchHome die asid line h = p at hf ⊢
  generalize s.touchOwn die asid line h alloc cls = u at ht ⊢
  generalize s.drainLine die asid line = v at hd ⊢
  split
  · exact Kept.ite_fst ht (State.fetchHome_kept ht)
  · split
    · refine Kept.ite_fst ?_ hf
      split
      · exact Kept.ite hk hd
      · exact hf
    · exact Kept.ite_fst (p := (_, _)) (State.addCopy_kept hf) hf

theorem State.loadLine_kept {core asid va n : Nat} {h : Home} {bound boundC : Nat} {pol : Option Word} : Kept s0
    (s.loadLine core asid va n h bound boundC pol).1 := by
  unfold State.loadLine
  extract_lets line need cls s1 s2
  have h1 : Kept s0 s1 := State.flushWbs_kept hk
  clear_value s1
  have h2 : Kept s0 s2 := by
    simp only [s2]
    split
    · exact Kept.ite h1 (State.dropL1_kept h1)
    · exact h1
  clear_value s2
  have h3 := State.readL2_kept h2 (die := dieOf core) (asid := asid) (line := line) (h := h) (bound := max bound boundC) (alloc := l2Alloc pol) (cls := cls)
  dsimp only
  generalize s2.readL2 (dieOf core) asid line h (max bound boundC) (l2Alloc pol) cls = p at h3 ⊢
  split
  · exact Kept.ite_fst (State.putL1_kept h2) (Kept.others (Kept.ite (State.putL1_kept h3) (State.putL1_kept h3)))
  · refine Kept.ite_fst h3 ?_
    split
    · exact h3
    · exact State.putL1_kept (Kept.others h3)

theorem State.locate_kept {die asid va : Nat} {rewalk : Bool} : Kept s0 (s.locate die asid va rewalk).1 := by
  unfold State.locate
  split
  · exact hk
  · exact hk
  · exact hk
  · exact State.fillTlb_kept hk

theorem State.homeFor_kept {o : Op} {rewalk : Bool} : Kept s0 (s.homeFor o rewalk).1 := by
  unfold State.homeFor
  dsimp only
  repeat' split
  · exact hk
  · exact State.locate_kept hk
  · exact State.locate_kept hk

theorem State.pageFault_kept {o : Op} {va level : Nat} {mf : Bool} : Kept s0 (s.pageFault o va level mf) := by
  unfold State.pageFault
  dsimp only
  exact Kept.ite (Kept.foldl (fun hk _ => State.parkOn_kept hk) _ (Kept.foldl (fun hk _ => State.modOp_kept hk) _ (State.putFault_kept hk))) (Kept.foldl
    (fun hk _ => State.modOp_kept hk) _ (State.putFault_kept hk))

theorem State.meetColour_kept {o : Op} {h : Home} : Kept s0 (s.meetColour o h).1 := by
  unfold State.meetColour
  dsimp only
  repeat' split
  · exact State.dropOp_kept hk
  · exact State.foundFault_kept hk
  · exact State.modOp_kept hk
  · exact State.foundFault_kept hk
  · exact hk
  · exact State.sendAcquire_kept hk
  · exact State.modOp_kept hk
  · exact State.foundFault_kept hk
  · exact State.modOp_kept hk
  · exact State.foundFault_kept hk
  · exact hk
  · exact State.sendAcquire_kept hk
  · exact State.modOp_kept hk

end

end Sys2Proof.Machine
end

section
/-!
SUPPORT. What every step keeps: accesses, stores and atomics as they are performed.
-/

namespace Sys2Proof.Machine

open Claim

section
variable {s0 s : State} (hk : Kept s0 s)
include hk

theorem State.makeCurrent_kept {kid core cid : Nat} : Kept s0 (s.makeCurrent kid core cid) := by
  unfold State.makeCurrent
  exact State.modKernel_kept hk

/-- A change of nothing but the bytes at one line's home. -/
theorem Kept.mergeHome {h : Home} {data : BitVec 512} {mask : BitVec 64} {kinds : BitVec 32} : Kept s0 { s with mem := s.mem.mergeHome h data mask kinds } :=
  hk.setMem fun w => Mem.mergeHome_wf _ _ _ _ _ w

theorem strefJudged_kept {o : Op} : Kept s0 (strefJudged s o) := State.drainLine_kept (State.dropL1_kept hk)

theorem strefStored_kept {o : Op} {v : Word} {h : Home} : Kept s0 (strefStored s o v h) :=
  hk.setMem fun w => Mem.mergeHome_wf _ _ _ _ _ (by rw [writePeer_mem]; exact w)

theorem State.atHome_kept {o : Op} {h : Home} : Kept s0 (s.atHome o h) := by
  unfold State.atHome
  extract_lets va line die
  split
  · exact Kept.ite (State.faultOp_kept (State.loadLine_kept hk)) (Kept.others (State.modOp_kept (State.keepPeer_kept (State.loadLine_kept hk))))
  · exact State.dropOp_kept (State.shadow_kept (State.storeLine_kept hk))
  · dsimp only
    exact State.modOp_kept (State.keepPeer_kept (Kept.ite_fst (State.readL2_kept hk) (State.loadLine_kept hk)))
  · refine Kept.ite (State.foundFault_kept hk) ?_
    have hj := strefJudged_kept hk (o := o)
    split
    · exact State.foundFault_kept (State.meetLine_kept hj)
    · exact Kept.ite (State.foundFault_kept hj) (Kept.ite (State.finishOp_kept hj) (State.finishOp_kept (State.shadow_kept (strefStored_kept hj))))
  · have hj := strefJudged_kept hk (o := o)
    have hs (u : State) (hu : Kept s0 u) (r : PeerReq) (old : Nat) : Kept s0 (if h.node < 8 then u else (u.sent r true).recorded r old) :=
      Kept.ite hu (State.recorded_kept (State.sent_kept hu))
    exact State.modOp_kept (hs _ (State.dropCopies_kept (Kept.ite (Kept.mergeHome hj) hj)) _ _)
  · exact hk

theorem State.stplOne_kept {g : Group} {o : Op} : Kept s0 (s.stplOne g o) := by
  unfold State.stplOne
  split
  · exact hk.setPool fun w => stplGo_wf _ _ _ _ _ _ _ w
  · exact hk

theorem State.ringStep_kept {k : Kernel} {core : Nat} : Kept s0 (s.ringStep k core) := by
  have hm : Kept s0 ((s.ringMove k core).getD s) := by
    unfold State.ringMove
    cases (s.ringAfter k core).find? fun c => (s.threadsOf c).any Thread.live with
    | none => exact hk
    | some c => exact State.makeCurrent_kept hk
  exact Kept.ite hk hm

theorem State.fromPeer_kept {o : Op} {done : State → Option PeerReq → State} (hd : ∀ {u}, Kept s0 u → ∀ r, Kept s0 (done u r)) : Kept s0 (s.fromPeer o done) := by
  unfold State.fromPeer
  split
  · exact hd hk _
  · exact Kept.ite (hd (State.ackPeer_kept hk) _) (State.faultOp_kept (State.ackPeer_kept hk))

theorem State.deliverLoad_kept {o : Op} : Kept s0 (s.deliverLoad o) := by
  unfold State.deliverLoad
  split
  · exact State.fromPeer_kept hk fun hk _ => State.finishOp_kept hk
  · exact State.finishOp_kept hk
  · exact State.finishOp_kept hk
  · exact State.fromPeer_kept hk fun hk _ => State.finishOp_kept hk
  · exact hk

theorem State.deliverAtomic_kept {o : Op} : Kept s0 (s.deliverAtomic o) := by
  unfold State.deliverAtomic
  split
  · exact State.fromPeer_kept hk fun hk _ => State.finishOp_kept (State.modThread_kept hk)
  · exact State.finishOp_kept (State.modThread_kept hk)
  · exact hk

theorem State.performGlobal_kept {o : Op} {rewalk only : Bool} : Kept s0 (s.performGlobal o rewalk only) := by
  unfold State.performGlobal
  repeat' split
  · exact hk
  · exact Kept.fst (State.homeFor_kept hk) ‹_›
  · exact State.foundFault_kept (State.meetLine_kept (Kept.fst (State.homeFor_kept hk) ‹_›))
  · exact State.pageFault_kept (Kept.fst (State.homeFor_kept hk) ‹_›)
  · exact State.foundFault_kept (Kept.fst (State.homeFor_kept hk) ‹_›)
  · exact Kept.fst (State.homeFor_kept hk) ‹_›
  · exact Kept.fst (State.meetColour_kept (Kept.fst (State.homeFor_kept hk) ‹_›)) ‹_›
  · exact Kept.fst (State.meetColour_kept (Kept.fst (State.homeFor_kept hk) ‹_›)) ‹_›
  · exact State.foundFault_kept (State.meetError_kept (Kept.fst (State.meetColour_kept (Kept.fst (State.homeFor_kept hk) ‹_›)) ‹_›))
  · exact State.atHome_kept (Kept.fst (State.meetColour_kept (Kept.fst (State.homeFor_kept hk) ‹_›)) ‹_›)
  · exact State.foundFault_kept (Kept.fst (State.meetColour_kept (Kept.fst (State.homeFor_kept hk) ‹_›)) ‹_›)
  · exact State.atHome_kept (State.countRequest_kept (Kept.fst (State.meetColour_kept (Kept.fst (State.homeFor_kept hk) ‹_›)) ‹_›))

theorem State.performScratchStore_kept {o : Op} : Kept s0 (s.performScratchStore o) := by
  unfold State.performScratchStore
  dsimp only
  repeat' split
  · exact hk
  · exact State.dropOp_kept hk
  · exact State.foundFault_kept hk
  · exact State.dropOp_kept (State.shadow_kept (State.regionStore_kept hk))
  · exact hk
  · exact Kept.foldl (fun hk _ => State.foundFault_kept hk) _ hk
  · exact Kept.foldl (fun hk _ => State.dropOp_kept (State.stplOne_kept hk)) _ hk
  · exact hk

theorem State.performMwr_kept {o : Op} {v : Word} : Kept s0 (s.performMwr o v) := by
  unfold State.performMwr
  repeat' split
  · exact hk
  · exact State.dropOp_kept hk
  · exact State.dropOp_kept hk
  · exact State.foundFault_kept hk
  · exact State.dropOp_kept (State.shadow_kept (State.regionStore_kept hk))

theorem State.performScratchLoad_kept {o : Op} : Kept s0 (s.performScratchLoad o) := by
  unfold State.performScratchLoad
  dsimp only
  repeat' split
  · exact hk
  · exact hk
  · exact State.faultOp_kept hk
  · exact State.faultOp_kept hk
  · exact State.modOp_kept hk
  · exact State.faultOp_kept hk
  · exact State.modOp_kept hk
  · exact hk
  · exact State.faultOp_kept hk
  · exact State.modOp_kept hk
  · exact State.modOp_kept hk
  · exact hk

theorem State.performAtomicS_kept {o : Op} : Kept s0 (s.performAtomicS o) := by
  unfold State.performAtomicS
  dsimp only
  repeat' split
  · exact hk
  · exact State.modOp_kept (State.fenceEffect_kept hk)
  · exact State.faultOp_kept (State.fenceEffect_kept hk)
  · exact State.faultOp_kept (State.fenceEffect_kept hk)
  · exact State.modOp_kept (State.regionWrite_kept (State.fenceEffect_kept hk))
  · exact State.modOp_kept (State.fenceEffect_kept hk)
  · exact hk

theorem State.performAtomicG_kept {o : Op} {rewalk : Bool} : Kept s0 (s.performAtomicG o rewalk) := by
  unfold State.performAtomicG
  dsimp only
  repeat' split
  · exact hk
  · exact hk
  · exact State.dropOp_kept hk
  · exact State.performGlobal_kept (State.fenceEffect_kept hk)
  · exact State.performGlobal_kept hk
  · exact State.performGlobal_kept (Kept.fst (State.homeFor_kept hk) ‹_›)
  · exact State.performGlobal_kept (Kept.fst (State.homeFor_kept hk) ‹_›)
  · exact State.performGlobal_kept (State.fenceEffect_kept (Kept.fst (State.homeFor_kept hk) ‹_›))
  · exact State.performGlobal_kept (Kept.fst (State.homeFor_kept hk) ‹_›)
  · exact Kept.fst (State.homeFor_kept hk) ‹_›
  · exact State.faultOp_kept (State.meetRead_kept (Kept.fst (State.homeFor_kept hk) ‹_›))
  · exact State.logAppend_kept (State.performGlobal_kept (State.fenceEffect_kept (Kept.fst (State.homeFor_kept hk) ‹_›)))
  · exact State.logAppend_kept (State.performGlobal_kept (Kept.fst (State.homeFor_kept hk) ‹_›))
  · exact State.performGlobal_kept (State.fenceEffect_kept (Kept.fst (State.homeFor_kept hk) ‹_›))
  · exact State.performGlobal_kept (Kept.fst (State.homeFor_kept hk) ‹_›)
  · exact Kept.fst (State.homeFor_kept hk) ‹_›
  · exact State.faultOp_kept (State.modKernel_kept (Kept.fst (State.homeFor_kept hk) ‹_›))
  · exact State.gateUse_kept (State.performGlobal_kept (State.fenceEffect_kept (Kept.fst (State.homeFor_kept hk) ‹_›)))
  · exact State.gateUse_kept (State.performGlobal_kept (Kept.fst (State.homeFor_kept hk) ‹_›))
  · exact State.performGlobal_kept (State.fenceEffect_kept (Kept.fst (State.homeFor_kept hk) ‹_›))
  · exact State.performGlobal_kept (Kept.fst (State.homeFor_kept hk) ‹_›)
  · exact hk
  · exact State.dropOp_kept hk
  · exact State.performGlobal_kept (State.fenceEffect_kept hk)
  · exact State.performGlobal_kept hk
  · exact State.performGlobal_kept (Kept.fst (State.homeFor_kept hk) ‹_›)
  · exact State.performGlobal_kept (Kept.fst (State.homeFor_kept hk) ‹_›)
  · exact State.performGlobal_kept (State.fenceEffect_kept (Kept.fst (State.homeFor_kept hk) ‹_›))
  · exact State.performGlobal_kept (Kept.fst (State.homeFor_kept hk) ‹_›)
  · exact Kept.fst (State.homeFor_kept hk) ‹_›
  · exact State.faultOp_kept (State.meetRead_kept (Kept.fst (State.homeFor_kept hk) ‹_›))
  · exact State.logAppend_kept (State.performGlobal_kept (State.fenceEffect_kept (Kept.fst (State.homeFor_kept hk) ‹_›)))
  · exact State.logAppend_kept (State.performGlobal_kept (Kept.fst (State.homeFor_kept hk) ‹_›))
  · exact State.performGlobal_kept (State.fenceEffect_kept (Kept.fst (State.homeFor_kept hk) ‹_›))
  · exact State.performGlobal_kept (Kept.fst (State.homeFor_kept hk) ‹_›)
  · exact Kept.fst (State.homeFor_kept hk) ‹_›
  · exact State.faultOp_kept (State.modKernel_kept (Kept.fst (State.homeFor_kept hk) ‹_›))
  · exact State.gateUse_kept (State.performGlobal_kept (State.fenceEffect_kept (Kept.fst (State.homeFor_kept hk) ‹_›)))
  · exact State.gateUse_kept (State.performGlobal_kept (Kept.fst (State.homeFor_kept hk) ‹_›))
  · exact State.performGlobal_kept (State.fenceEffect_kept (Kept.fst (State.homeFor_kept hk) ‹_›))
  · exact State.performGlobal_kept (Kept.fst (State.homeFor_kept hk) ‹_›)

theorem State.performFence_kept {o : Op} : Kept s0 (s.performFence o) := by
  unfold State.performFence
  repeat' split
  · exact hk
  · exact State.dropOp_kept hk
  · exact hk
  · exact State.dropOp_kept (State.fenceEffect_kept hk)
  · exact hk

theorem State.performCache_kept {o : Op} : Kept s0 (s.performCache o) := by
  unfold State.performCache
  repeat' split
  · exact hk
  · exact State.dropOp_kept (State.cleanL1_kept hk)
  · exact State.dropOp_kept (State.dropL1_kept hk)
  · exact hk

theorem State.performPfl_kept {o : Op} : Kept s0 (s.performPfl o) := by
  unfold State.performPfl
  dsimp only
  repeat' split
  · exact State.dropOp_kept (State.meetLine_kept (Kept.fst (State.homeFor_kept hk) ‹_›))
  · exact State.dropOp_kept (Kept.fst (State.homeFor_kept hk) ‹_›)
  · exact State.dropOp_kept (Kept.fst (State.homeFor_kept hk) ‹_›)
  · exact State.dropOp_kept (State.meetError_kept (Kept.fst (State.homeFor_kept hk) ‹_›))
  · exact State.dropOp_kept (State.loadLine_kept (State.readL2_kept (Kept.fst (State.homeFor_kept hk) ‹_›)))
  · exact State.dropOp_kept (State.loadLine_kept (Kept.fst (State.homeFor_kept hk) ‹_›))
  · exact hk

theorem State.leaveNbar_kept {o : Op} {scope : Nat} : Kept s0 (s.leaveNbar o scope) := by
  unfold State.leaveNbar
  exact Kept.ite (State.dropOp_kept (State.fenceEffect_kept hk)) hk

theorem State.tryOp_kept {id : Nat} : Kept s0 (s.tryOp id) := by
  unfold State.tryOp
  repeat' split
  · exact hk
  · exact State.performGlobal_kept hk
  · exact hk
  · exact State.performGlobal_kept hk
  · exact hk
  · exact State.performGlobal_kept hk
  · exact hk
  · exact State.performGlobal_kept hk
  · exact hk
  · exact State.performCache_kept hk
  · exact State.performCache_kept hk
  · exact State.performPfl_kept hk
  · exact State.performFence_kept hk
  · exact State.leaveNbar_kept hk
  · exact hk

theorem State.pump_kept : Kept s0 (s.pump) := by
  unfold State.pump
  exact Kept.foldl (fun hk _ => State.tryOp_kept hk) _ hk

theorem State.performEarlier_kept {id : Nat} : Kept s0 (s.performEarlier id) := by
  unfold State.performEarlier
  repeat' split
  · exact hk
  · exact State.performGlobal_kept hk
  · exact State.performGlobal_kept hk
  · exact State.performGlobal_kept hk
  · exact State.performScratchLoad_kept hk
  · exact State.performScratchLoad_kept hk
  · exact State.performScratchStore_kept hk
  · exact State.performScratchStore_kept hk
  · exact State.performMwr_kept hk
  · exact hk
  · exact hk
  · exact State.tryOp_kept hk

theorem State.performEntry_kept {id : Nat} : Kept s0 (s.performEntry id) := by
  unfold State.performEntry
  dsimp only
  repeat' split
  · exact hk
  · exact hk
  · exact State.performAtomicS_kept (Kept.foldl (fun hk _ => State.cleanL1_kept hk) _ hk)
  · exact State.performAtomicG_kept (Kept.foldl (fun hk _ => State.cleanL1_kept hk) _ hk)
  · exact State.deliverAtomic_kept (State.performAtomicS_kept (Kept.foldl (fun hk _ => State.cleanL1_kept hk) _ hk))
  · exact State.deliverAtomic_kept (State.performAtomicG_kept (Kept.foldl (fun hk _ => State.cleanL1_kept hk) _ hk))
  · exact hk

theorem State.drainAtomics_kept {kid : Nat} {cores : Nat → Bool} : Kept s0 (s.drainAtomics kid cores) := by
  unfold State.drainAtomics
  dsimp only
  exact Kept.ite hk (Kept.foldl (fun hk _ => State.performEntry_kept hk) _ (Kept.foldl (fun hk _ => State.performEarlier_kept hk) _ (State.modKernel_kept
    (Kept.others hk))))

theorem State.drainOn_kept {kid core : Nat} : Kept s0 (s.drainOn kid core) := by
  unfold State.drainOn
  exact State.drainAtomics_kept hk

end

end Sys2Proof.Machine
end

section
/-!
SUPPORT. What every step keeps: the scheduler, clauses, and the barrier networks.
-/

namespace Sys2Proof.Machine

open Claim

section
variable {s0 s : State} (hk : Kept s0 s)
include hk

theorem State.meetErrorAt_kept {die asid va : Nat} {allows : Word → Bool} : Kept s0 (s.meetErrorAt die asid va allows) := by
  unfold State.meetErrorAt
  split
  · exact State.meetLine_kept hk
  · exact hk
  · exact State.meetError_kept hk

theorem State.fetchLines_kept {die asid line n : Nat} : Kept s0 (s.fetchLines die asid line n) := by
  induction n generalizing s line with
  | zero => exact hk
  | succ n ih =>
    rw [State.fetchLines]
    split
    · exact ih hk
    · exact ih (State.readL2_kept hk)

theorem State.parkUses_kept {t : Thread} : Kept s0 (s.parkUses t) := by
  unfold State.parkUses
  exact Kept.foldl (fun hk _ => State.parkUse_kept hk) _ hk

theorem State.parkAll_kept {cid : Nat} : Kept s0 (s.parkAll cid) := by
  unfold State.parkAll
  dsimp only
  exact Kept.foldl (fun hk _ => State.modThread_kept (State.parkUses_kept hk)) _ hk

theorem State.settle_kept {cid : Nat} : Kept s0 (s.settle cid) := by
  unfold State.settle
  exact State.parkAll_kept (State.settleTraps_kept hk)

theorem State.settleHeld_kept {core asid cid : Nat} : Kept s0 (s.settleHeld core asid cid) := by
  unfold State.settleHeld
  exact Kept.ite (State.parkAll_kept hk) hk

theorem State.modSlot_kept {core asid : Nat} {f : Slot → Slot} : Kept s0 (s.modSlot core asid f) := by
  unfold State.modSlot
  exact State.modCore_kept hk

theorem State.refreshReady_kept {core asid : Nat} : Kept s0 (s.refreshReady core asid) := by
  unfold State.refreshReady
  dsimp only
  exact State.modSlot_kept hk

theorem State.noteReady_kept : Kept s0 (s.noteReady) := by
  unfold State.noteReady
  exact Kept.foldl (fun hk _ => Kept.foldl (fun hk _ => State.refreshReady_kept hk) _ hk) _ hk

theorem State.reviewPlace_kept {core asid : Nat} {place : Nat} : Kept s0 (s.reviewPlace core asid place) := by
  unfold State.reviewPlace
  dsimp only
  repeat' split
  · exact State.refreshReady_kept hk
  · exact State.refreshReady_kept hk
  · exact State.modSlot_kept (State.refreshReady_kept hk)
  · exact State.modCohort_kept (State.modSlot_kept (State.refreshReady_kept hk))
  · exact State.modCohort_kept (State.modSlot_kept (State.refreshReady_kept hk))
  · exact State.refreshReady_kept hk
  · exact State.modSlot_kept (State.refreshReady_kept hk)
  · exact State.modCohort_kept (State.modSlot_kept (State.refreshReady_kept hk))
  · exact State.modCohort_kept (State.modSlot_kept (State.refreshReady_kept hk))
  · exact State.refreshReady_kept hk

theorem State.fillPlace_kept {core asid : Nat} {place : Nat} : Kept s0 (s.fillPlace core asid place) := by
  unfold State.fillPlace
  exact State.modSlot_kept hk

theorem State.ringMove_kept {k : Kernel} {core : Nat} {t : State} (ht : s.ringMove k core = some t) : Kept s0 t := by
  rw [State.ringMove, Option.map_eq_some_iff] at ht
  obtain ⟨c, -, rfl⟩ := ht
  exact State.makeCurrent_kept hk

theorem State.reviewRing_kept {core asid : Nat} {k : Kernel} : Kept s0 (s.reviewRing core asid k) := by
  unfold State.reviewRing
  extract_lets s1
  have h1 : Kept s0 s1 := State.ringStep_kept hk
  clear_value s1
  split
  · exact h1
  · next cid _ =>
    extract_lets h s2
    have h2 : Kept s0 s2 := by
      simp only [s2]
      split
      · exact h1
      · split
        · exact h1
        · next u hu => exact State.modCohort_kept (State.ringMove_kept h1 hu)
    clear_value s2 h
    split
    · exact Kept.ite (State.drainOn_kept h2) h2
    · exact h2

theorem State.settleCore_kept {core : Nat} : Kept s0 (s.settleCore core) := by
  unfold State.settleCore
  split
  · exact hk
  · exact Kept.foldl (fun hk _ => State.settleHeld_kept hk) _ hk

theorem State.schedule_kept {core : Nat} : Kept s0 (s.schedule core) := by
  unfold State.schedule
  dsimp only
  split
  · exact hk
  · exact Kept.foldl (fun hk _ => State.reviewPlace_kept hk) _ (Kept.foldl (fun hk _ => State.fillPlace_kept hk) _ (State.refreshReady_kept (Kept.foldl
    (fun hk _ => State.reviewRing_kept hk) _ (State.settleCore_kept hk))))

theorem State.pickFrom_kept {core asid : Nat} {cs : List (Nat × Nat)} : Kept s0 (s.pickFrom core asid cs).1 := by
  induction cs generalizing s with
  | nil => exact hk
  | cons c rest ih =>
    rw [State.pickFrom]
    exact Kept.ite_fst (ih hk) (Kept.ite_fst (ih (State.settle_kept hk)) (State.settle_kept hk))

theorem State.pick_kept {core : Nat} : Kept s0 (s.pick core).1 := by
  unfold State.pick
  repeat' split
  · exact hk
  · exact hk
  · exact State.pickFrom_kept hk

theorem State.startFault_kept {cid : Nat} {x : Word} {code : Nat} {addr : Word} : Kept s0 (s.startFault cid x code addr) := by
  unfold State.startFault
  dsimp only
  exact State.settleTraps_kept (Kept.others hk)

theorem State.startAbsent_kept {core asid cid : Nat} {x : Word} {va : Nat} {level : Nat} {mf : Bool} : Kept s0 (s.startAbsent core asid cid x va level mf) := by
  unfold State.startAbsent
  dsimp only
  split
  · exact Kept.others hk
  · exact State.parkAll_kept (State.pageFault_kept (Kept.others hk))

theorem State.begin_kept {core : Nat} {p : Pick} {x : Word} {words : List Word32} {a b : Nat} : Kept s0 (s.begin core p x words a b) := by
  unfold State.begin
  dsimp only
  exact State.modSlot_kept (State.modCohort_kept (Kept.others hk))

theorem State.startClause_kept {core : Nat} {p : Pick} {x : Word} {a b len : Nat} : Kept s0 (s.startClause core p x a b len) := by
  unfold State.startClause
  repeat' split
  · exact State.begin_kept (State.fetchLines_kept hk)
  · exact State.startFault_kept hk
  · exact State.startFault_kept (State.meetErrorAt_kept hk)
  · exact State.startAbsent_kept hk
  · exact hk
  · exact hk
  · exact hk

theorem State.dropDue_kept {tid : Nat} : Kept s0 (s.dropDue tid) := by
  unfold State.dropDue
  split
  · exact hk
  · exact State.modThread_kept (Kept.foldl (fun hk _ => State.kernelError_kept hk) _ hk)

theorem State.finishClause_kept {iss : Issue} : Kept s0 (s.finishClause iss) := by
  unfold State.finishClause
  dsimp only
  repeat' split
  · exact State.setClock_kept (Kept.others (State.settleTraps_kept (Kept.foldl (fun hk _ => State.dropDue_kept (State.exitThread_kept hk)) _ (Kept.others hk))))
  · exact State.modCohort_kept (State.setClock_kept (Kept.others (State.settleTraps_kept (Kept.foldl (fun hk _ => State.dropDue_kept
    (State.exitThread_kept hk)) _ (Kept.others hk)))))
  · exact State.drainOn_kept (State.modCohort_kept (State.setClock_kept (Kept.others (State.settleTraps_kept (Kept.foldl (fun hk _ => State.dropDue_kept
    (State.exitThread_kept hk)) _ (Kept.others hk))))))
  · exact State.modCohort_kept (State.setClock_kept (Kept.others (State.settleTraps_kept (Kept.foldl (fun hk _ => State.dropDue_kept
    (State.exitThread_kept hk)) _ (Kept.others hk)))))
  · exact State.setClock_kept (Kept.others (State.settleTraps_kept (Kept.foldl (fun hk _ => State.dropDue_kept (State.exitThread_kept hk)) _ (Kept.others hk))))

theorem State.landGroup_kept {iss : Issue} : Kept s0 (s.landGroup iss) := by
  unfold State.landGroup
  dsimp only
  exact Kept.others (State.modIssue_kept hk)

theorem State.moveTo_kept {core q : Nat} {groupEnds : Bool} : Kept s0 (s.moveTo core q groupEnds) := by
  unfold State.moveTo
  dsimp only
  split
  · exact hk
  · exact Kept.ite (State.finishClause_kept (Kept.others (State.modIssue_kept hk))) (Kept.others (State.modIssue_kept hk))

theorem State.illegalGroup_kept {iss : Issue} {p : Nat} : Kept s0 (s.illegalGroup iss p) := by
  unfold State.illegalGroup
  exact Kept.others hk

theorem State.evictLine_kept {o : Op} : Kept s0 (s.evictLine o) := by
  unfold State.evictLine
  exact State.dropL1_kept hk

theorem State.deliver_kept {id : Nat} : Kept s0 (s.deliver id) := by
  unfold State.deliver
  split
  · exact hk
  · exact State.deliverLoad_kept hk

theorem State.translated_kept {o : Op} {rewalk : Bool} : Kept s0 (s.translated o rewalk) := by
  unfold State.translated
  split
  · exact State.modOp_kept (Kept.fst (State.homeFor_kept hk) ‹_›)
  · exact Kept.fst (State.homeFor_kept hk) ‹_›
  · exact State.foundFault_kept (State.meetLine_kept (Kept.fst (State.homeFor_kept hk) ‹_›))
  · exact State.pageFault_kept (Kept.fst (State.homeFor_kept hk) ‹_›)

theorem State.evictFromL1_kept {core asid line : Nat} : Kept s0 (s.evictFromL1 core asid line) := by
  unfold State.evictFromL1
  exact State.dropL1_kept hk

theorem State.evictFromL2_kept {die asid line : Nat} : Kept s0 (s.evictFromL2 die asid line) := by
  unfold State.evictFromL2
  exact State.dropOwn_kept (State.dropCopies_kept hk)

theorem State.strikeLine_kept {node addr : Nat} : Kept s0 (s.strikeLine node addr) := by
  unfold State.strikeLine
  dsimp only
  exact Kept.othersMem hk (by rfl)

theorem State.strikePool_kept {core byte : Nat} : Kept s0 (s.strikePool core byte) := by
  unfold State.strikePool
  dsimp only
  exact Kept.othersPool hk (by rfl)

theorem State.bufferOp_kept {o : Op} : Kept s0 (s.bufferOp o) := by
  unfold State.bufferOp
  dsimp only
  exact State.modCore_kept (Kept.ite (Kept.foldl (fun hk _ => State.drainOn_kept hk) _ hk) hk)

theorem State.phaseDrain_kept {gids cores : List Nat} : Kept s0 (s.phaseDrain gids cores) := by
  unfold State.phaseDrain
  dsimp only
  exact Kept.foldl (fun hk _ => State.drainAtomics_kept hk) _ hk

theorem State.wakeAcquire_kept {core seq : Nat} {t : Thread} : Kept s0 (s.wakeAcquire core seq t) := by
  unfold State.wakeAcquire
  exact State.fenceEffect_kept hk

theorem State.noteArrivals_kept {w : BarAt} {who : List Nat} : Kept s0 (s.noteArrivals w who) := by
  unfold State.noteArrivals
  exact State.modGroup_kept hk

theorem State.clearArrivals_kept {w : BarAt} : Kept s0 (s.clearArrivals w) := by
  unfold State.clearArrivals
  exact State.modGroup_kept hk

theorem State.phaseAdvance_kept {w : BarAt} : Kept s0 (s.phaseAdvance w) := by
  unfold State.phaseAdvance
  dsimp only
  exact Kept.foldl (fun hk _ => State.endPark_kept (State.wakeAcquire_kept hk)) _ (State.clearArrivals_kept (State.phaseDrain_kept hk))

theorem State.arriveAt_kept {w : BarAt} {c gid : Nat} : Kept s0 (s.arriveAt w c gid) := by
  unfold State.arriveAt
  dsimp only
  exact Kept.ite hk (Kept.ite (State.phaseAdvance_kept (State.noteArrivals_kept (State.setPoolWord_kept hk))) (State.noteArrivals_kept (State.setPoolWord_kept hk)))

theorem State.copyArrive_kept {h : Group} {o : Nat} {gid : Nat} : Kept s0 (s.copyArrive h o gid) := by
  unfold State.copyArrive
  split
  · exact hk
  · exact Kept.ite (State.arriveAt_kept hk) hk

theorem State.answerWait_kept {w : BarAt} {o : Op} {p : Nat} : Kept s0 (s.answerWait w o p) := by
  unfold State.answerWait
  dsimp only
  repeat' split
  · exact State.dropOp_kept hk
  · exact State.dropOp_kept (State.wakeAcquire_kept hk)
  · exact State.faultOp_kept hk
  · exact State.dropOp_kept hk
  · exact State.dropOp_kept (State.addPark_kept hk)

theorem State.answerGroup_kept {w : BarAt} {grp : Nat} : Kept s0 (s.answerGroup w grp) := by
  unfold State.answerGroup
  refine Kept.ite hk (Kept.foldl (fun hk p => ?_) _ hk)
  split
  · exact State.answerWait_kept hk
  · exact hk

theorem State.faultWaiter_kept {w : BarAt} {t : Thread} : Kept s0 (s.faultWaiter w t) := by
  unfold State.faultWaiter
  split
  · exact State.trapWoken_kept (State.endPark_kept (State.lateFault_kept hk))
  · exact hk

theorem State.clearWord_kept {w : BarAt} {o : Op} : Kept s0 (s.clearWord w o) := by
  unfold State.clearWord
  dsimp only
  exact State.endPark_kept (Kept.foldl (fun hk _ => Kept.ite (State.dropOp_kept hk) (State.faultOp_kept hk)) _ (Kept.foldl
    (fun hk _ => State.faultWaiter_kept hk) _ (Kept.othersPool hk (by rfl))))

theorem State.bankOp_kept {o : Op} : Kept s0 (s.bankOp o) := by
  unfold State.bankOp
  dsimp only
  repeat' split
  · exact State.faultOp_kept hk
  · exact State.faultOp_kept hk
  · exact State.dropOp_kept hk
  · exact State.foundFault_kept hk
  · exact State.dropOp_kept (Kept.othersPool (State.clearArrivals_kept (State.setPoolWord_kept hk)) (by rfl))
  · exact State.faultOp_kept (State.fenceEffect_kept hk)
  · exact State.arriveAt_kept (State.dropOp_kept (State.fenceEffect_kept hk))
  · exact State.faultOp_kept (State.fenceEffect_kept hk)
  · exact State.arriveAt_kept (State.dropOp_kept (State.fenceEffect_kept hk))
  · exact State.faultOp_kept hk
  · exact State.answerWait_kept hk
  · exact State.answerGroup_kept (State.faultOp_kept (State.fenceEffect_kept hk))
  · exact State.answerGroup_kept (State.arriveAt_kept (State.modOp_kept (State.fenceEffect_kept hk)))
  · exact State.answerGroup_kept (State.faultOp_kept (State.fenceEffect_kept hk))
  · exact State.answerGroup_kept (State.arriveAt_kept (State.modOp_kept (State.fenceEffect_kept hk)))
  · exact State.dropOp_kept (State.clearWord_kept hk)
  · exact State.dropOp_kept hk
  · exact hk

theorem State.clearReports_kept {kid scope : Nat} : Kept s0 (s.clearReports kid scope) := by
  unfold State.clearReports
  dsimp only
  refine Kept.ite hk ?_
  exact hk

theorem State.podReport_kept {job pkg : Nat} : Kept s0 (s.podReport job pkg) := by
  unfold State.podReport
  dsimp only
  refine Kept.ite ?_ hk
  exact hk

theorem State.sendReports_kept {kid scope : Nat} : Kept s0 (s.sendReports kid scope) := by
  unfold State.sendReports
  dsimp only
  exact Kept.ite hk (Kept.foldl (fun hk _ => Kept.foldl (fun hk _ => State.sent_kept hk) _ hk) _ hk)

theorem State.exitRecord_kept {t : Thread} : Kept s0 (s.exitRecord t) := by
  unfold State.exitRecord
  repeat' split
  · exact hk
  · exact hk
  · exact State.meetRead_kept hk
  · exact State.homeWrite_kept hk
  · exact hk

theorem State.modTag_kept {core n : Nat} {f : Tag → Tag} : Kept s0 (s.modTag core n f) := by
  unfold State.modTag
  exact State.modCore_kept hk

theorem State.wordFault_kept {tid seq : Nat} {pc : Word} {code : Nat} {addr : Word} : Kept s0 (s.wordFault tid seq pc code addr) := by
  unfold State.wordFault
  split
  · exact hk
  · exact State.lateFault_kept hk

theorem State.reportTags_kept {t : Thread} {m : Nat} {any : Bool} {pc : Word} {seq : Nat} : Kept s0 (s.reportTags t m any pc seq) := by
  unfold State.reportTags
  dsimp only
  split
  · exact hk
  · exact State.wordFault_kept (Kept.foldl (fun hk _ => State.modTag_kept hk) _ hk)

end

end Sys2Proof.Machine
end

section
/-!
SUPPORT. What every step keeps: tags, copies, the matrix engine, kernels and groups.
-/

namespace Sys2Proof.Machine

open Claim

section
variable {s0 s : State} (hk : Kept s0 s)
include hk

theorem State.reportEngine_kept {t : Thread} {n : Nat} {pc : Word} {seq : Nat} : Kept s0 (s.reportEngine t n pc seq) := by
  unfold State.reportEngine
  dsimp only
  split
  · exact hk
  · exact State.wordFault_kept (Kept.others hk)

theorem State.releasePoint_kept {t : Thread} {p : Park} : Kept s0 (s.releasePoint t p) := by
  unfold State.releasePoint
  split
  · exact State.reportTags_kept hk
  · exact State.reportTags_kept hk
  · exact State.reportEngine_kept hk
  · exact hk

theorem State.wakeTags_kept {gid : Nat} : Kept s0 (s.wakeTags gid) := by
  unfold State.wakeTags
  dsimp only
  exact Kept.foldl (fun hk _ => Kept.foldl (fun hk _ => State.endPark_kept (State.releasePoint_kept hk)) _ hk) _ hk

theorem State.tagEnds_kept {gid k : Nat} {failure : Option (Nat × Nat)} : Kept s0 (s.tagEnds gid k failure) := by
  unfold State.tagEnds
  dsimp only
  exact State.wakeTags_kept (State.modTag_kept hk)

theorem State.tagWait_kept {t : Thread} {p : Park} : Kept s0 (s.tagWait t p) := by
  unfold State.tagWait
  exact Kept.ite (State.releasePoint_kept hk) (State.addPark_kept hk)

theorem State.ringInstall_kept {gid lo hi started : Nat} : Kept s0 (s.ringInstall gid lo hi started) := by
  unfold State.ringInstall
  exact State.modGroup_kept hk

theorem State.ringAdjust_kept {gid : Nat} {tag : Option Nat} {ended : Nat} : Kept s0 (s.ringAdjust gid tag ended) := by
  unfold State.ringAdjust
  dsimp only
  exact State.modGroup_kept hk

theorem State.emptyCopy_kept {t : Thread} {r : CopyReq} : Kept s0 (s.emptyCopy t r) := by
  unfold State.emptyCopy
  dsimp only
  repeat' split
  · exact hk
  · exact State.copyArrive_kept hk
  · exact State.ringAdjust_kept (State.ringInstall_kept hk)
  · exact hk
  · exact State.tagEnds_kept (State.ringAdjust_kept (State.ringInstall_kept hk))
  · exact State.tagEnds_kept hk

theorem State.queueCopy_kept {iss : Issue} {seq : Nat} {t : Thread} {r : CopyReq} : Kept s0 (s.queueCopy iss seq t r) := by
  unfold State.queueCopy
  dsimp only
  split
  · exact Kept.ite (State.emptyCopy_kept hk) (Kept.others hk)
  · exact Kept.ite (State.emptyCopy_kept (State.modTag_kept hk)) (Kept.others (State.modTag_kept hk))

theorem copyOne_kept {iss : Issue} {seq : Nat} {mk : State → Issue → Thread → Except Flt CopyReq} {t : Thread} : Kept s0 (copyOne iss seq mk s t) := by
  unfold copyOne
  split
  · exact State.modThread_kept hk
  · exact Kept.ite (State.modThread_kept hk) (State.queueCopy_kept hk)

theorem State.startCopy_kept {c : Copy} : Kept s0 (s.startCopy c) := by
  unfold State.startCopy
  dsimp only
  repeat' split
  · exact Kept.others (State.ringInstall_kept (State.cleanL1_kept hk))
  · exact Kept.others (State.ringInstall_kept hk)
  · exact Kept.others (State.ringInstall_kept hk)
  · exact Kept.others (State.ringInstall_kept (State.cleanL1_kept hk))
  · exact Kept.others (State.cleanL1_kept hk)
  · exact Kept.others hk
  · exact Kept.others hk
  · exact Kept.others (State.cleanL1_kept hk)

theorem State.copyRead_kept {c : Copy} {denied : Option Nat} {o n : Nat} : Kept s0 (s.copyRead c denied o n).1 := by
  unfold State.copyRead
  dsimp only
  repeat' split
  · exact hk
  · exact hk
  · exact hk
  · exact State.readL2_kept hk
  · exact State.meetErrorAt_kept hk
  · exact hk
  · exact hk

/-- A fold whose state goes beside another answer. -/
theorem Kept.foldl_fst {α β : Type} {f : State × β → α → State × β} (hf : ∀ p, Kept s0 p.1 → ∀ x, Kept s0 (f p x).1) (l : List α) {b : β} :
    Kept s0 (l.foldl f (s, b)).1 := by
  induction l generalizing s b with
  | nil => exact hk
  | cons x l ih => exact ih (hf (s, b) hk x)

theorem State.copyPut_kept {c : Copy} {o n v : Nat} : Kept s0 (s.copyPut c o n v).1 := by
  unfold State.copyPut
  split
  · refine Kept.foldl_fst hk (fun p hp x => ?_) _
    exact Kept.ite_fst hp (State.regionWrite_kept hp)
  · dsimp only
    split
    · exact State.mergeL2_kept hk
    · exact hk

theorem copyGo_kept {c : Copy} {denied : Option Nat} {n i : Nat} {p : Progress} : Kept s0 (copyGo c denied n i p s).1 := by
  induction n generalizing s i p with
  | zero => exact hk
  | succ n ih =>
    rw [copyGo]
    split
    · next h => exact ih (Kept.fst (State.copyRead_kept hk) h)
    · next s1 v h =>
      have h1 : Kept s0 s1 := Kept.fst (State.copyRead_kept hk) h
      split
      · exact ih h1
      · refine Kept.ite_fst (ih h1) ?_
        split
        · next h => exact ih (Kept.fst (State.copyPut_kept h1) h)
        · next h => exact ih (Kept.fst (State.copyPut_kept h1) h)

theorem State.holdCopy_kept {c : Copy} {va level : Nat} {mf : Bool} : Kept s0 (s.holdCopy c va level mf) := by
  unfold State.holdCopy
  dsimp only
  exact Kept.others (State.putFault_kept hk)

theorem State.finishCopy_kept {c : Copy} {err : Option (Nat × Nat)} : Kept s0 (s.finishCopy c err) := by
  unfold State.finishCopy
  dsimp only
  repeat' split
  · exact State.tagEnds_kept (Kept.others (State.ringAdjust_kept hk))
  · exact State.tagEnds_kept (Kept.others hk)
  · exact Kept.others (State.ringAdjust_kept hk)
  · exact Kept.others hk
  · exact State.wordFault_kept (Kept.others (State.ringAdjust_kept hk))
  · exact State.wordFault_kept (Kept.others hk)

theorem State.copybArrival_kept {c : Copy} : Kept s0 (s.copybArrival c) := by
  unfold State.copybArrival
  repeat' split
  · exact hk
  · exact State.copyArrive_kept hk
  · exact hk

theorem State.copyStops_kept {c : Copy} {denied : Option Nat} {places : List (Nat × Bool)} {regions : List Group} {t : State}
    (ht : s.copyStops c denied places regions = some t) : Kept s0 t := by
  unfold State.copyStops at ht
  split at ht
  · exact Option.some.inj ht ▸ hk
  · split at ht
    · split at ht
      · exact Option.some.inj ht ▸ hk
      · cases ht
    · split at ht
      · exact Option.some.inj ht ▸ State.holdCopy_kept hk
      · exact Option.some.inj ht ▸ hk
      · cases ht

theorem State.endCopy_kept {c : Copy} {denied : Option Nat} : Kept s0 (s.endCopy c denied) := by
  unfold State.endCopy
  extract_lets regions
  split
  · next h => exact State.copyStops_kept hk h
  · exact State.finishCopy_kept (State.copybArrival_kept (copyGo_kept (Kept.ite hk (State.dropL1_kept hk))))

theorem State.gatherElem_kept {c : Copy} {denied : Option Nat} {a es : Nat} : Kept s0 (s.gatherElem c denied a es).1 := by
  unfold State.gatherElem
  exact Kept.ite_fst hk (State.copyRead_kept hk)

theorem gatherRead_kept {c : Copy} {denied : Option Nat} {es : Nat} {index : Word} {n i : Nat} {p : Progress} :
    Kept s0 (gatherRead c denied es index n i p s).1 := by
  induction n generalizing s i p with
  | zero => exact hk
  | succ n ih =>
    rw [gatherRead]
    exact ih (Kept.ite_fst hk (State.gatherElem_kept hk))

theorem gatherWrite_kept {c : Copy} {es : Nat} {vs : List Nat} {o : Nat} {p : Progress} : Kept s0 (gatherWrite c es vs o p s).1 := by
  induction vs generalizing s o p with
  | nil => exact hk
  | cons v vs ih =>
    rw [gatherWrite]
    refine ih (Kept.foldl_fst hk (fun x hx j => ?_) _)
    split
    · next h => exact Kept.fst (State.copyPut_kept hx) h
    · next h => exact Kept.fst (State.copyPut_kept hx) h

theorem State.endGather_kept {c : Copy} {denied : Option Nat} {es count : Nat} {index : Word} : Kept s0 (s.endGather c denied es count index) := by
  unfold State.endGather
  split
  · next h => exact State.copyStops_kept hk h
  · exact State.finishCopy_kept (gatherWrite_kept (gatherRead_kept hk))

theorem State.prefetchGo_kept {c : Copy} {line n : Nat} {skipped : Option (Nat × Nat)} : Kept s0 (s.prefetchGo c line skipped n).1 := by
  induction n generalizing s line skipped with
  | zero => exact hk
  | succ n ih =>
    rw [State.prefetchGo]
    split
    · exact ih (State.readL2_kept hk)
    · exact ih (State.meetErrorAt_kept hk)
    · exact ih hk

theorem tagOne_kept {iss : Issue} {seq : Nat} {b : BitVec 6} {f : State → Thread → Word → State} {t : Thread} (hf : ∀ m, Kept s0 (f s t m)) :
    Kept s0 (tagOne iss seq b f s t) := by
  unfold tagOne
  split
  · exact State.modThread_kept hk
  · exact hf _

theorem State.emptyTag_kept {gid k : Nat} : Kept s0 (s.emptyTag gid k) := by
  unfold State.emptyTag
  dsimp only
  split
  · exact State.modTag_kept (State.kernelError_kept hk)
  · exact State.modTag_kept hk

theorem State.groupEnds_kept {m : Nat} : Kept s0 (s.groupEnds m) := by
  unfold State.groupEnds
  dsimp only
  repeat' split
  · exact hk
  · exact hk
  · exact hk
  · exact Kept.others hk
  · exact Kept.others hk
  · exact State.tagEnds_kept (Kept.others hk)
  · exact State.tagEnds_kept (Kept.others hk)

theorem State.endCmd_kept {c : Cmd} : Kept s0 (s.endCmd c) := by
  unfold State.endCmd
  exact State.groupEnds_kept (Kept.others hk)

theorem State.faultCmd_kept {c : Cmd} {cause tid : Nat} : Kept s0 (s.faultCmd c cause tid) := by
  unfold State.faultCmd
  dsimp only
  exact State.groupEnds_kept (Kept.others hk)

theorem State.openGroup_kept {t : Thread} : Kept s0 (s.openGroup t).1 := by
  unfold State.openGroup
  dsimp only
  split
  · exact hk
  · exact Kept.others (State.modThread_kept hk)

theorem State.queueCmd_kept {t : Thread} {seq : Nat} {r : CmdReq} : Kept s0 (s.queueCmd t seq r) := by
  unfold State.queueCmd
  dsimp only
  split
  · exact State.openGroup_kept hk
  · exact Kept.ite (Kept.others (State.openGroup_kept hk)) (Kept.others (State.openGroup_kept hk))

theorem engineOne_kept {iss : Issue} {seq : Nat} {mk : Issue → Thread → Except Flt CmdReq} {t : Thread} : Kept s0 (engineOne iss seq mk s t) := by
  unfold engineOne
  split
  · exact State.modThread_kept hk
  · exact Kept.ite (State.modThread_kept hk) (State.queueCmd_kept hk)

theorem State.modCv_kept {gid n : Nat} {f : ConvReg → ConvReg} : Kept s0 (s.modCv gid n f) := by
  unfold State.modCv
  exact State.modGroup_kept hk

theorem State.applyCvset_kept {id : Nat} : Kept s0 (s.applyCvset id) := by
  unfold State.applyCvset
  repeat' split
  · exact hk
  · exact hk
  · exact State.dropOp_kept (State.modCv_kept hk)
  · exact hk

theorem State.commitGroup_kept {k : Nat} {t : Thread} : Kept s0 (s.commitGroup k t) := by
  unfold State.commitGroup
  dsimp only
  split
  · exact State.tagEnds_kept (State.modTag_kept hk)
  · exact State.groupEnds_kept (Kept.others (State.modThread_kept (State.modTag_kept hk)))

theorem State.setWslot_kept {core : Nat} {x : WSlot} : Kept s0 (s.setWslot core x) := by
  unfold State.setWslot
  exact State.modCore_kept hk

theorem State.setAccum_kept {gid o v n : Nat} : Kept s0 (s.setAccum gid o v n) := by
  unfold State.setAccum
  split
  · exact hk
  · exact State.regionWrite_kept hk

theorem State.modCmd_kept {id : Nat} {f : Cmd → Cmd} : Kept s0 (s.modCmd id f) := by
  unfold State.modCmd
  exact Kept.others hk

theorem State.startCmd_kept {c : Cmd} : Kept s0 (s.startCmd c) := by
  unfold State.startCmd
  dsimp only
  repeat' split
  · exact State.faultCmd_kept (State.setWslot_kept hk)
  · exact State.faultCmd_kept hk
  · exact State.modCmd_kept hk
  · exact State.modCmd_kept (State.setWslot_kept hk)
  · exact State.modCmd_kept hk
  · exact State.modCmd_kept hk

theorem State.stopEngine_kept {core asid : Nat} : Kept s0 (s.stopEngine core asid) := by
  unfold State.stopEngine
  exact Kept.others hk

theorem State.resumeEngine_kept {core asid : Nat} : Kept s0 (s.resumeEngine core asid) := by
  unfold State.resumeEngine
  exact Kept.others hk

theorem State.endTdef_kept {c : Cmd} : Kept s0 (s.endTdef c) := by
  unfold State.endTdef
  dsimp only
  repeat' split
  · exact State.faultCmd_kept (State.modCore_kept hk)
  · exact State.endCmd_kept (State.modCore_kept hk)
  · exact hk

theorem State.rowDone_kept {c : Cmd} {count : Nat} : Kept s0 (s.rowDone c count) := by
  unfold State.rowDone
  dsimp only
  exact Kept.ite (State.endCmd_kept hk) (State.modCmd_kept hk)

theorem State.metBad_kept {die asid code va : Nat} : Kept s0 (s.metBad die asid code va) := by
  unfold State.metBad
  exact Kept.ite (State.meetErrorAt_kept hk) hk

theorem State.modQueue_kept {q : Nat} {f : HQueue → HQueue} : Kept s0 (s.modQueue q f) := by
  unfold State.modQueue
  exact Kept.others hk

theorem State.packetEnds_kept {q idx cause : Nat} : Kept s0 (s.packetEnds q idx cause) := by
  unfold State.packetEnds
  exact State.modQueue_kept hk

theorem State.sourceEnds_kept {src : Source} {cause : Nat} : Kept s0 (s.sourceEnds src cause) := by
  unfold State.sourceEnds
  split
  · exact State.packetEnds_kept hk
  · exact hk

theorem State.takeLaunch_kept {l : LaunchReq} : Kept s0 (s.takeLaunch l) := by
  unfold State.takeLaunch
  exact Kept.others hk

theorem State.acceptRec_kept {l : LaunchReq} {lr : LaunchRec} {ok : Bool} : Kept s0 (s.acceptRec l lr ok) := by
  unfold State.acceptRec
  dsimp only
  exact Kept.ite (Kept.others (State.takeLaunch_kept hk)) (State.sourceEnds_kept (Kept.others (State.takeLaunch_kept hk)))

theorem State.holdLaunch_kept {l : LaunchReq} {va level : Nat} {mf : Bool} : Kept s0 (s.holdLaunch l va level mf) := by
  unfold State.holdLaunch
  dsimp only
  exact Kept.others (State.putFault_kept hk)

theorem State.placeGroup_kept {k : Kernel} {idx core : Nat} {f : Fit} : Kept s0 (s.placeGroup k idx core f) := by
  unfold State.placeGroup
  extract_lets lr gid cid0 tid0 g cs w ts tags s1
  have h1 : Kept s0 s1 := State.modCore_kept hk
  clear_value s1
  exact State.modKernel_kept (Kept.others (h1.setPool fun w => Pool.take_wf _ _ _ _ w))

theorem State.placeHandler_kept {m : AMsg} {t : State} (ht : s.placeHandler m = some t) : Kept s0 t := by
  rw [State.placeHandler, Option.map_eq_some_iff] at ht
  obtain ⟨f, -, rfl⟩ := ht
  exact State.placeGroup_kept (Kept.others hk)

theorem State.tryHandler_kept {m : AMsg} : Kept s0 (s.tryHandler m) := by
  unfold State.tryHandler
  refine Kept.ite hk ?_
  cases h : s.placeHandler m with
  | none => exact hk
  | some t => exact State.placeHandler_kept hk h

theorem State.reclaim_kept {g : Group} : Kept s0 (s.reclaim g) := by
  unfold State.reclaim
  exact State.dropL1_kept hk

theorem State.startAcquire_kept {g : Group} {src : Source} : Kept s0 (s.startAcquire g src).1 := by
  unfold State.startAcquire
  dsimp only
  split
  · exact State.fenceEffect_kept hk
  · exact Kept.others hk

theorem State.groupErrors_kept {gid : Nat} : Kept s0 (s.groupErrors gid) := by
  unfold State.groupErrors
  dsimp only
  exact Kept.foldl (fun hk _ => State.kernelError_kept hk) _ (Kept.foldl (fun hk _ => State.emptyTag_kept hk) _ hk)

theorem State.returnGroup_kept {g : Group} : Kept s0 (s.returnGroup g) := by
  unfold State.returnGroup
  dsimp only
  exact Kept.othersPool hk (by rfl)

theorem State.dropTasks_kept {kid : Nat} : Kept s0 (s.dropTasks kid) := by
  unfold State.dropTasks
  exact Kept.others hk

theorem State.countRetired_kept {kid : Nat} : Kept s0 (s.countRetired kid) := by
  unfold State.countRetired
  dsimp only
  split
  · exact hk
  · exact Kept.ite (State.dropTasks_kept (State.modKernel_kept hk)) (State.modKernel_kept hk)

theorem State.settleKernel_kept {k : Kernel} : Kept s0 (s.settleKernel k) := by
  unfold State.settleKernel
  dsimp only
  split
  · exact State.drain_kept (Kept.foldl (fun hk _ => State.cleanL1_kept hk) _ hk)
  · exact State.dropCopies_kept (State.drain_kept (Kept.foldl (fun hk _ => State.dropL1_kept hk) _ hk))

theorem State.writeCounts_kept {k : Kernel} : Kept s0 (s.writeCounts k) := by
  unfold State.writeCounts
  dsimp only
  exact Kept.ite hk (Kept.ite (State.meetRead_kept hk) (Kept.foldl (fun hk _ => State.homeWrite_kept (State.homeWrite_kept (State.homeWrite_kept
    (State.homeWrite_kept hk)))) _ hk))

theorem State.setHdr_kept {asid hdr i v : Nat} : Kept s0 (s.setHdr asid hdr i v) := by
  unfold State.setHdr
  exact State.homeWrite_kept hk

theorem State.stickyError_kept {q : HQueue} {i cause : Nat} : Kept s0 (s.stickyError q i cause) := by
  unfold State.stickyError
  dsimp only
  exact State.setHdr_kept hk

theorem State.originError_kept {k : Kernel} : Kept s0 (s.originError k) := by
  unfold State.originError
  repeat' split
  · exact hk
  · exact hk
  · exact hk
  · exact hk
  · exact State.stickyError_kept hk

theorem State.endKernel_kept {k : Kernel} : Kept s0 (s.endKernel k) := by
  unfold State.endKernel
  exact State.originError_kept (State.modKernel_kept (State.writeCounts_kept (State.settleKernel_kept hk)))

theorem State.answerPop_kept {o : Op} {v : Nat} : Kept s0 (s.answerPop o v) := by
  unfold State.answerPop
  exact State.modOp_kept hk

theorem State.bindJob_kept {job asid : Nat} {bound : Bool} : Kept s0 (s.bindJob job asid bound) := by
  unfold State.bindJob
  dsimp only
  exact hk

theorem State.meetHandler_kept {die : Nat} {c : Ctx} {h : Nat} : Kept s0 (s.meetHandler die c h) := by
  unfold State.meetHandler
  split
  · exact State.metBad_kept hk
  · exact hk

theorem State.amDeliver_kept {o : Op} {t : Target} : Kept s0 (s.amDeliver o t) := by
  unfold State.amDeliver
  dsimp only
  repeat' split
  · exact State.modOp_kept (State.sent_kept hk)
  · exact State.modOp_kept hk
  · exact State.modOp_kept hk
  · exact State.modOp_kept (State.meetHandler_kept hk)
  · exact State.modOp_kept (Kept.others hk)

end

end Sys2Proof.Machine
end

section
/-!
SUPPORT. What every step keeps: contexts, the event lines of Kiln, moves and queues.
-/

namespace Sys2Proof.Machine

open Claim

/-- A link that is within the device's bounds: a rate only while it is up, and enabled unless it is down (R378). -/
def linkBounded (l : Link) : Prop := (l.st ≠ .up → l.rate = 0) ∧ (l.st ≠ .down → l.en = true)

/-- A clamp that is within the device's bounds (R20, R22). -/
def clampBounded (c : Clamp) : Prop := c.pStep ≤ 2 ∧ c.tStep ≤ 2 ∧ (c.mhz = 350 ∨ c.mhz = 525 ∨ c.mhz = 700)

/-- The part of the device's bounds that is about the device's own record. -/
def devBounded (d : Dev) : Prop :=
  d.powerLimit ≤ 2400 ∧ (∀ (i n : Nat), d.rdcGib[i]? = some n → n ≤ 32) ∧ (∀ (i : Nat) (l : Link), d.links[i]? = some l → linkBounded l) ∧
  ∀ (i : Nat) (c : Clamp), d.clamps[i]? = some c → clampBounded c

/-- The part that is about Kiln: x0 of every core holds 0. -/
def kilnBounded (k : Kiln) : Prop := ∀ (i : Nat) (c : KilnCore), k.cores[i]? = some c → c.x[0] = 0

theorem deviceBounds_iff (s : State) : deviceBounds s ↔ devBounded s.dev ∧ kilnBounded s.kiln :=
  ⟨fun ⟨hp, hr, hl, hc, hx⟩ => ⟨⟨hp, hr, hl, hc⟩, hx⟩, fun ⟨⟨hp, hr, hl, hc⟩, hx⟩ => ⟨hp, hr, hl, hc, hx⟩⟩

/-- A change of nothing but the device's record. -/
theorem Kept.setDev {s0 s : State} (hk : Kept s0 s) {d : Dev} (hd : devBounded s.dev → devBounded d) : Kept s0 { s with dev := d } := by
  refine ⟨hk.1, fun h => (deviceBounds_iff _).2 ?_⟩
  obtain ⟨h1, h2⟩ := (deviceBounds_iff _).1 (hk.2 h)
  exact ⟨hd h1, h2⟩

/-- A change that leaves the bytes of the stores and Kiln alone. -/
theorem Kept.of_bytes {s0 s t : State} (hk : Kept s0 s) (hm : t.mem.bytes = s.mem.bytes) (hp : t.pool.bytes = s.pool.bytes)
    (hd : devBounded s.dev → devBounded t.dev) (hx : t.kiln = s.kiln) : Kept s0 t := by
  refine ⟨fun h => wf_of_stores s t (hk.1 h) ?_ ?_ ?_, fun h => (deviceBounds_iff _).2 ?_⟩
  · rw [hm]
    exact id
  · rw [hp]
    exact id
  · rw [hx]
    exact id
  · obtain ⟨h1, h2⟩ := (deviceBounds_iff _).1 (hk.2 h)
    rw [hx]
    exact ⟨hd h1, h2⟩

/-- A change of nothing but Kiln. -/
theorem Kept.setKilnState {s0 s : State} (hk : Kept s0 s) {k : Kiln} (hs : cellsWf s.kiln.sram = true → cellsWf k.sram = true)
    (hx : deviceBounds s0 → kilnBounded s.kiln → kilnBounded k) : Kept s0 { s with kiln := k } := by
  refine ⟨fun h => wf_of_stores s _ (hk.1 h) id id hs, fun h => (deviceBounds_iff _).2 ?_⟩
  obtain ⟨h1, h2⟩ := (deviceBounds_iff _).1 (hk.2 h)
  exact ⟨h1, hx h h2⟩

@[simp] theorem KilnCore.put_zero (k : KilnCore) (r : Nat) (v : Word) : (k.put r v).x[0] = k.x[0] := by
  unfold KilnCore.put
  by_cases h : r = 0
  · simp [h]
  · simp [h]

@[simp] theorem KilnCore.doneBy_zero (k : KilnCore) (n r : Nat) (v : Word) : (k.doneBy n r v).x[0] = k.x[0] := KilnCore.put_zero k r v

@[simp] theorem KilnCore.done_zero (k : KilnCore) (r : Nat) (v : Word) : (k.done r v).x[0] = k.x[0] := KilnCore.doneBy_zero k 4 r v

@[simp] theorem KilnCore.trap_zero (k : KilnCore) (cause : Nat) (val : Word) : (k.trap cause val).x[0] = k.x[0] := rfl

/-- The register x0 of a Kiln core, also of one that does not exist. -/
theorem kilnBounded.kilnAt {s : State} (h : kilnBounded s.kiln) (i : Nat) : (s.kilnAt i).x[0] = 0 := by
  unfold State.kilnAt
  cases hc : s.kiln.cores[i]? with
  | some c => exact h i c hc
  | none => rfl

section
variable {s0 s : State} (hk : Kept s0 s)
include hk

theorem Kept.kilnAt_zero (h : deviceBounds s0) (i : Nat) : (s.kilnAt i).x[0] = 0 := ((deviceBounds_iff s).1 (hk.2 h)).2.kilnAt i

theorem Kept.kilnCore_zero (h : deviceBounds s0) : s.kilnCore.x[0] = 0 := hk.kilnAt_zero h s.kilnIdx

theorem State.setKilnAt_kept {i : Nat} {k : KilnCore} (hx : deviceBounds s0 → k.x[0] = 0) : Kept s0 (s.setKilnAt i k) := by
  refine hk.setKilnState id fun h hb j c hc => ?_
  rw [Vector.getElem?_setIfInBounds] at hc
  split at hc
  · split at hc
    · cases hc
      exact hx h
    · cases hc
  · exact hb j c hc

theorem State.setKiln_kept {k : KilnCore} (hx : deviceBounds s0 → k.x[0] = 0) : Kept s0 (s.setKiln k) := State.setKilnAt_kept hk hx

theorem State.switchOn_kept {core : Nat} : Kept s0 (s.switchOn core) := by
  unfold State.switchOn
  dsimp only
  split
  · exact hk
  · exact Kept.ite hk (Kept.ite (State.stopEngine_kept (State.modSlot_kept (State.modCore_kept hk))) (State.modCore_kept hk))

/-- A change of the pools beside one that keeps what is kept. -/
theorem Kept.withPool {t : State} (ht : Kept s0 t) {p : Pool} (hp : cellsWf s.pool.bytes = true → cellsWf p.bytes = true) {saved : List Saved} :
    Kept s0 { t with pool := p, saved := saved } := by
  refine ⟨fun h => wf_of_stores t _ (ht.1 h) id (fun _ => hp ?_) id, ht.2⟩
  have hs := hk.1 h
  simp only [Memory.wf, Bool.and_eq_true] at hs
  obtain ⟨⟨_, hpool⟩, _⟩ := hs
  exact hpool

theorem State.restoreGroup_kept {v : Saved} : Kept s0 (s.restoreGroup v) := by
  unfold State.restoreGroup
  split
  · exact hk
  · split
    · exact hk
    · refine Kept.withPool hk (State.reclaim_kept (State.modGroup_kept hk)) fun h => ?_
      exact cellsWf_foldl_cellsWrite _ _ _ _ (wipe_wf _ _ _ (Pool.take_wf _ _ _ _ h))

theorem State.dropCtx_kept {asid : Nat} : Kept s0 (s.dropCtx asid) := hk.of_bytes rfl rfl id rfl

theorem State.unstop_kept {core : Nat} : Kept s0 (s.unstop core) := by
  unfold State.unstop
  split
  · exact hk
  · exact State.switchOn_kept (State.resumeEngine_kept (State.modSlot_kept hk))

theorem CoreImage.into_kept {m : CoreImage} : Kept s0 (m.into s) := by
  unfold CoreImage.into
  extract_lets s1
  have h1 : Kept s0 s1 := State.modCore_kept hk
  clear_value s1
  exact Kept.foldl (fun hk _ => State.modTag_kept hk) _ h1

theorem State.loadSnapshot_kept {m : CtxImage} : Kept s0 (s.loadSnapshot m) := by
  unfold State.loadSnapshot
  dsimp only
  split
  · exact hk
  · exact Kept.foldl (fun hk _ => CoreImage.into_kept hk) _ (Kept.others (State.dropCtx_kept hk))

theorem State.setLines_kept {die : Nat} {v : Word} : Kept s0 (s.setLines die v) := hk.setKilnState id fun _ h => h

theorem State.kilnWake_kept {i : Nat} : Kept s0 (s.kilnWake i) := by
  unfold State.kilnWake
  extract_lets k
  split
  · exact hk
  · extract_lets got
    refine Kept.ite hk (State.setKilnAt_kept (State.setLines_kept hk) fun h => ?_)
    rw [KilnCore.done_zero]
    exact hk.kilnAt_zero h i

theorem State.eventLine_kept {die line : Nat} : Kept s0 (s.eventLine die line) := by
  unfold State.eventLine
  exact Kept.foldl (fun hk _ => State.kilnWake_kept hk) _ (State.setLines_kept hk)

theorem State.meetPkt_kept {asid hdr i : Nat} : Kept s0 (s.meetPkt asid hdr i) := by
  unfold State.meetPkt
  exact State.meetRead_kept (State.meetRead_kept hk)

theorem State.closePkt_kept {asid hdr i cause : Nat} : Kept s0 (s.closePkt asid hdr i cause) := by
  unfold State.closePkt
  dsimp only
  exact State.homeWrite_kept (State.meetPkt_kept hk)

theorem State.piecesRead_kept {asid va : Nat} : Kept s0 (s.piecesRead asid va).1 := by
  unfold State.piecesRead
  refine Kept.foldl_fst hk (fun p hp _ => ?_) _
  split
  · exact State.readPeer_kept hp
  · exact hp

theorem moveGo_kept {m : Move} {c : Copy} {denied : Option Nat} {n i : Nat} {p : Progress} : Kept s0 (moveGo m c denied n i p s).1 := by
  induction n generalizing s i p with
  | zero => exact hk
  | succ n ih =>
    rw [moveGo]
    extract_lets r
    have hr : Kept s0 r.1 := by
      unfold r
      split
      · exact hk
      · exact State.piecesRead_kept hk
    clear_value r
    split
    · exact ih (Kept.ite (State.meetErrorAt_kept hk) hk)
    · exact Kept.ite_fst (ih hk) (ih (State.piecesWrite_kept hr))

theorem State.moveFault_kept {m : Move} {va level : Nat} {mf : Bool} : Kept s0 (s.moveFault m va level mf).1 := by
  unfold State.moveFault
  exact State.putFault_kept hk

theorem State.modBulk_kept {id : Nat} {f : BulkQ → BulkQ} : Kept s0 (s.modBulk id f) := by
  unfold State.modBulk
  exact Kept.others hk

theorem State.bulkError_kept {b : BulkQ} {i cause : Nat} : Kept s0 (s.bulkError b i cause) := by
  unfold State.bulkError
  dsimp only
  exact State.setHdr_kept hk

theorem State.podAdd_kept {die asid va v : Nat} : Kept s0 (s.podAdd die asid va v) := by
  unfold State.podAdd
  exact State.deviceAdd_kept (State.drainDie_kept hk)

theorem State.finishBulk_kept {b : BulkQ} {m : Move} {i cause : Nat} {denied : Option Nat} : Kept s0 (s.finishBulk b m i cause denied) := by
  unfold State.finishBulk
  dsimp only
  exact State.modBulk_kept (State.setHdr_kept (Kept.ite (State.closePkt_kept (Kept.ite (State.podAdd_kept hk) (Kept.ite (State.meetErrorAt_kept hk) hk)))
    (State.bulkError_kept (State.closePkt_kept (Kept.ite (State.podAdd_kept hk) (Kept.ite (State.meetErrorAt_kept hk) hk))))))

theorem State.modBulkPkt_kept {b i : Nat} {f : Pkt → Pkt} : Kept s0 (s.modBulkPkt b i f) := by
  unfold State.modBulkPkt
  exact State.modBulk_kept hk

theorem State.signalBulk_kept {b : BulkQ} {i cause : Nat} {denied : Option Nat} : Kept s0 (s.signalBulk b i cause denied) := by
  unfold State.signalBulk
  dsimp only
  split
  · exact State.modBulkPkt_kept (State.moveFault_kept hk)
  · exact State.modBulkPkt_kept hk
  · exact Kept.ite (State.modBulkPkt_kept hk) (State.finishBulk_kept hk)

/-- What a move that has ended leaves. -/
theorem State.runMove_kept {m : Move} {id cause : Nat} {denied : Option Nat} {t : State} (h : s.runMove m id denied = .over t cause) : Kept s0 t := by
  unfold State.runMove at h
  split at h
  · next x hx =>
    subst h
    unfold State.moveStops at hx
    dsimp only at hx
    split at hx
    · split at hx <;> cases hx
    · split at hx <;> cases hx
  · cases h
    exact moveGo_kept hk

theorem State.endBulk_kept {b : BulkQ} {p : Pkt} {denied : Option Nat} : Kept s0 (s.endBulk b p denied) := by
  unfold State.endBulk
  refine Kept.ite (State.signalBulk_kept hk) (Kept.ite (State.signalBulk_kept hk) ?_)
  split
  · exact hk
  · exact State.modBulkPkt_kept (State.moveFault_kept hk)
  · next h => exact State.signalBulk_kept (State.runMove_kept hk h)

theorem State.settleQueue_kept {id : Nat} : Kept s0 (s.settleQueue id) := by
  unfold State.settleQueue
  split
  · exact hk
  · exact Kept.ite hk (State.modQueue_kept hk)

theorem State.startPkt_kept {q : HQueue} {i : Nat} {ended : Bool} {cause : Nat} : Kept s0 (s.startPkt q i ended cause) := by
  unfold State.startPkt
  dsimp only
  exact State.modQueue_kept (Kept.others (State.meetPkt_kept hk))

theorem State.unmapQueue_kept {q : HQueue} : Kept s0 (s.unmapQueue q) := by
  unfold State.unmapQueue
  dsimp only
  exact State.modQueue_kept (State.setHdr_kept (State.setHdr_kept (State.setHdr_kept (State.meetRead_kept hk))))

theorem State.listLaunch_kept {q : HQueue} {idx : Nat} : Kept s0 (s.listLaunch q idx) := by
  unfold State.listLaunch
  dsimp only
  exact Kept.others hk

theorem State.podAcquire_kept {die asid : Nat} : Kept s0 (s.podAcquire die asid) := by
  unfold State.podAcquire
  dsimp only
  exact Kept.others (State.raiseBound_kept hk)

theorem State.finishPkt_kept {q : HQueue} {i cause : Nat} : Kept s0 (s.finishPkt q i cause) := by
  unfold State.finishPkt
  dsimp only
  exact State.settleQueue_kept (State.modQueue_kept (State.setHdr_kept (Kept.ite (State.closePkt_kept (Kept.ite (State.modQueue_kept hk)
    (State.setHdr_kept hk))) (State.stickyError_kept (State.closePkt_kept (Kept.ite (State.modQueue_kept hk) (State.setHdr_kept hk)))))))

theorem State.endQueueCopy_kept {q : HQueue} {i : Nat} {denied : Option Nat} : Kept s0 (s.endQueueCopy q i denied) := by
  unfold State.endQueueCopy
  extract_lets m
  split
  · exact hk
  · exact State.modQueue_kept (State.moveFault_kept hk)
  · next h => exact State.finishPkt_kept (State.runMove_kept hk h)

theorem State.readTimestamp_kept : Kept s0 (s.readTimestamp).1 := by
  unfold State.readTimestamp
  dsimp only
  exact hk

end

end Sys2Proof.Machine
end

section
/-!
SUPPORT. What every step keeps: the device, its links, clamps and registers. An answer keeps what the state that it goes on with keeps.
-/

namespace Sys2Proof.Machine

open Claim

/-- An answer that goes on goes on with a state that has what an earlier state has. -/
def OutKept (s0 : State) (o : Out) : Prop := ∀ t, o = .next t → Kept s0 t

theorem OutKept.next {s0 t : State} (h : Kept s0 t) : OutKept s0 (.next t) := fun _ e => Host.Outcome.next.inj e ▸ h

theorem OutKept.fault {s0 : State} {f : Fault} : OutKept s0 (.fault f) := fun _ h => by cases h

theorem OutKept.refused {s0 : State} {r : Refusal} : OutKept s0 (.refused r) := fun _ h => by cases h

theorem OutKept.ite {s0 : State} {c : Prop} [Decidable c] {o o' : Out} (h : OutKept s0 o) (h' : OutKept s0 o') : OutKept s0 (if c then o else o') := by
  split
  · exact h
  · exact h'

theorem devBounded.ite {c : Prop} [Decidable c] {d d' : Dev} (h : devBounded d) (h' : devBounded d') : devBounded (if c then d else d') := by
  split
  · exact h
  · exact h'

/-- A link's peer changes. -/
theorem devBounded.setPeer {d : Dev} (h : devBounded d) (i v : Nat) :
    devBounded { d with links := match d.links[i]? with
      | some l => d.links.setIfInBounds i { l with peer := v }
      | none => d.links } := by
  obtain ⟨hp, hr, hl, hc⟩ := h
  refine ⟨hp, hr, fun j l hj => ?_, hc⟩
  dsimp only at hj
  split at hj
  · next l0 h0 =>
    rw [Vector.getElem?_setIfInBounds] at hj
    split at hj
    · split at hj
      · cases hj
        exact ⟨(hl _ _ h0).1, (hl _ _ h0).2⟩
      · cases hj
    · exact hl j l hj
  · exact hl j l hj

theorem Dev.setReg_bounded (d : Dev) (reg v : Nat) (h : devBounded d) : devBounded (d.setReg reg v) := by
  unfold Dev.setReg
  refine devBounded.ite (devBounded.ite h h) (devBounded.ite (devBounded.ite h h) (devBounded.ite h (devBounded.ite (devBounded.ite ?_ h) ?_)))
  · exact h.setPeer _ _
  · exact devBounded.ite h (devBounded.ite h h)

theorem Clamp.target_bounded (c : Clamp) (x : Service) : c.target x = 350 ∨ c.target x = 525 ∨ c.target x = 700 := by
  unfold Clamp.target
  split
  · exact Or.inr (Or.inr rfl)
  · exact Or.inr (Or.inl rfl)
  · exact Or.inl rfl

section
variable {s0 s : State} (hk : Kept s0 s)
include hk

theorem Kept.mem_wf (h : Memory.wf s0 = true) : cellsWf s.mem.bytes = true := by
  have hs := hk.1 h
  simp only [Memory.wf, Bool.and_eq_true] at hs
  obtain ⟨⟨hmem, _⟩, _⟩ := hs
  exact hmem

/-- The link of a number is within the bounds, also where no such link exists. -/
theorem Kept.link_bounded (h : deviceBounds s0) (i : Nat) : linkBounded (s.link i) := by
  obtain ⟨⟨_, _, hl, _⟩, _⟩ := (deviceBounds_iff s).1 (hk.2 h)
  unfold State.link
  cases hi : s.dev.links[i]? with
  | some l => exact hl i l hi
  | none => exact ⟨fun _ => rfl, fun h => absurd rfl h⟩

theorem State.setLink_kept {i : Nat} {l : Link} (hl : linkBounded (s.link i) → linkBounded l) : Kept s0 (s.setLink i l) := by
  unfold State.setLink
  extract_lets d s1
  have h1 : Kept s0 s1 := by
    refine ⟨hk.1, fun h => (deviceBounds_iff _).2 ?_⟩
    obtain ⟨⟨hp, hr, hls, hc⟩, hx⟩ := (deviceBounds_iff _).1 (hk.2 h)
    refine ⟨⟨hp, hr, fun j m hm => ?_, hc⟩, hx⟩
    have hm' : (s.dev.links.setIfInBounds i l)[j]? = some m := hm
    rw [Vector.getElem?_setIfInBounds] at hm'
    split at hm'
    · split at hm'
      · cases hm'
        exact hl (hk.link_bounded h i)
      · cases hm'
    · exact hls j m hm'
  clear_value s1
  exact Kept.ite h1 (State.hostEvent_kept (Kept.ite h1 (Kept.ite (State.resendPeer_kept h1) (Kept.ite (State.sendWaiting_kept h1) h1))))

theorem State.trainLink_kept {i : Nat} : Kept s0 (s.trainLink i) := by
  unfold State.trainLink
  extract_lets l
  split
  · next h =>
    simp only [Bool.and_eq_true, beq_iff_eq] at h
    obtain ⟨⟨hen, hst⟩, _⟩ := h
    exact State.setLink_kept hk fun hb => ⟨fun _ => hb.1 (fun e => by rw [hst] at e; cases e), fun _ => hen⟩
  · exact hk

theorem State.countReplay_kept {i : Nat} : Kept s0 (s.countReplay i) := by
  unfold State.countReplay
  exact Kept.ite (State.setLink_kept hk fun hb => hb) hk

theorem State.modClamps_kept {thermal : Bool} {quad : Nat} {f : Clamp → Clamp} (hf : ∀ c, clampBounded c → clampBounded (f c)) :
    Kept s0 (s.modClamps thermal quad f) := by
  unfold State.modClamps
  refine hk.setDev fun ⟨hp, hr, hl, hc⟩ => ⟨hp, hr, hl, ?_⟩
  intro i c hi
  dsimp only at hi
  split at hi
  · split at hi
    · next c0 h0 =>
      rw [Vector.getElem?_setIfInBounds] at hi
      split at hi
      · split at hi
        · cases hi
          exact hf c0 (hc _ _ h0)
        · cases hi
      · exact hc i c hi
    · exact hc i c hi
  · rw [Vector.getElem?_map] at hi
    obtain ⟨c0, h0, rfl⟩ := Option.map_eq_some_iff.1 hi
    exact hf c0 (hc i c0 h0)

/-- A link that is not down and fails. -/
theorem State.failLink_kept {i replays : Nat} {st : LinkSt} (h : (s.link i).st = st) (hd : st ≠ .down) :
    Kept s0 (s.setLink i { s.link i with st := .failed, rate := 0, replays := replays }) :=
  State.setLink_kept hk fun ⟨_, he⟩ => ⟨fun _ => rfl, fun _ => he (h ▸ hd)⟩

theorem execPowerGood_kept : OutKept s0 (execPowerGood s) := by
  unfold execPowerGood
  refine OutKept.next ⟨fun h => wf_of_stores State.reset _ reset_wf (fun _ => ?_) id id, fun _ => ?_⟩
  · exact outsideCells_wf _ (hk.mem_wf h)
  · exact reset_deviceBounds

theorem execDeviceReset_kept : OutKept s0 (execDeviceReset s) := by
  unfold execDeviceReset
  refine OutKept.next ⟨fun h => wf_of_stores State.reset _ reset_wf (fun _ => ?_) id id, fun _ => ?_⟩
  · exact hk.mem_wf h
  · exact reset_deviceBounds

theorem execImageStartCommand_kept {image : Nat} {floor : List Nat} : OutKept s0 (execImageStartCommand image floor s) := by
  unfold execImageStartCommand
  exact OutKept.ite (OutKept.next hk) (OutKept.ite (OutKept.next (hk.setDev id)) (OutKept.next (hk.setDev id)))

theorem execReducedServiceBegin_kept : OutKept s0 (execReducedServiceBegin s) := by
  unfold execReducedServiceBegin
  refine OutKept.ite (OutKept.next hk) (OutKept.next (hk.setDev fun ⟨hp, hr, hl, hc⟩ => ⟨hp, hr, hl, fun i c hi => ?_⟩))
  dsimp only at hi
  rw [Vector.getElem?_map] at hi
  obtain ⟨c0, h0, rfl⟩ := Option.map_eq_some_iff.1 hi
  obtain ⟨h1, h2, _⟩ := hc i c0 h0
  exact ⟨h1, h2, Or.inl rfl⟩

theorem execHbmStackTrained_kept {stack : Nat} : OutKept s0 (execHbmStackTrained stack s) := by
  unfold execHbmStackTrained
  exact OutKept.ite (OutKept.next hk) (OutKept.next (State.pump_kept (hk.setDev id)))

theorem execFullServiceBegin_kept : OutKept s0 (execFullServiceBegin s) := by
  unfold execFullServiceBegin
  exact OutKept.ite (OutKept.next hk) (OutKept.next (State.pump_kept (Kept.foldl (fun hk _ => State.trainLink_kept hk) _ (hk.setDev id))))

theorem execPowerLimitExceeded_kept : OutKept s0 (execPowerLimitExceeded s) :=
  OutKept.next (State.modClamps_kept hk fun _ ⟨hp, ht, hm⟩ => ⟨by dsimp only; omega, ht, hm⟩)

theorem execThermalTrip_kept {quad : Nat} : OutKept s0 (execThermalTrip quad s) :=
  OutKept.next (State.modClamps_kept hk fun _ ⟨hp, ht, hm⟩ => ⟨hp, by dsimp only; omega, hm⟩)

theorem execClampSecondStep_kept {thermal : Bool} {quad : Nat} : OutKept s0 (execClampSecondStep thermal quad s) := by
  refine OutKept.next (State.modClamps_kept hk fun c ⟨hp, ht, hm⟩ => ?_)
  split
  · split
    · exact ⟨hp, Nat.le_refl 2, hm⟩
    · exact ⟨hp, ht, hm⟩
  · split
    · exact ⟨Nat.le_refl 2, ht, hm⟩
    · exact ⟨hp, ht, hm⟩

theorem execClampConditionClear_kept {thermal : Bool} {quad : Nat} : OutKept s0 (execClampConditionClear thermal quad s) := by
  refine OutKept.next (State.modClamps_kept hk fun c ⟨hp, ht, hm⟩ => ?_)
  split
  · exact ⟨hp, ht, hm⟩
  · exact ⟨hp, ht, hm⟩

theorem execClampRestore_kept {thermal : Bool} {quad : Nat} : OutKept s0 (execClampRestore thermal quad s) := by
  refine OutKept.next (State.modClamps_kept hk fun c ⟨hp, ht, hm⟩ => ?_)
  split
  · split
    · exact ⟨hp, ht, hm⟩
    · exact ⟨hp, by dsimp only; omega, hm⟩
  · split
    · exact ⟨hp, ht, hm⟩
    · exact ⟨by dsimp only; omega, ht, hm⟩

theorem execClockChangeApply_kept {quad : Nat} : OutKept s0 (execClockChangeApply quad s) := by
  unfold execClockChangeApply
  exact OutKept.ite (OutKept.next hk) (OutKept.next (State.modClamps_kept hk fun c ⟨hp, ht, _⟩ => ⟨hp, ht, Clamp.target_bounded c _⟩))

theorem execPowerLimitSet_kept {watts : Nat} : OutKept s0 (execPowerLimitSet watts s) := by
  unfold execPowerLimitSet
  split
  · exact OutKept.next hk
  · next h => exact OutKept.next (hk.setDev fun ⟨_, hr, hl, hc⟩ => ⟨Nat.le_of_not_lt h, hr, hl, hc⟩)

theorem execRdcSizeSet_kept {die gib : Nat} : OutKept s0 (execRdcSizeSet die gib s) := by
  unfold execRdcSizeSet
  split
  · exact OutKept.next hk
  · next h =>
    rw [not_or] at h
    obtain ⟨hg, _⟩ := h
    refine OutKept.next (Kept.foldl (fun hk _ => State.trimSlice_kept hk) _ (hk.setDev fun ⟨hp, hr, hl, hc⟩ => ⟨hp, fun i n hi => ?_, hl, hc⟩))
    dsimp only at hi
    rw [Vector.getElem?_setIfInBounds] at hi
    split at hi
    · split at hi
      · cases hi
        exact Nat.le_of_not_lt hg
      · cases hi
    · exact hr i n hi

theorem State.recordIn_kept {x : PeerDone} : Kept s0 (s.recordIn x) := by
  unfold State.recordIn
  dsimp only
  exact Kept.othersMem hk (by rfl)

theorem State.peerWork_kept {pkg seq : Nat} {h : Home} {w : PeerWork} : Kept s0 (s.peerWork pkg seq h w) := by
  cases w with
  | merge data mask kinds => exact State.recordIn_kept (hk.setMem (Mem.mergeHome_wf _ _ _ _ _))
  | atomic op off bytes v e =>
    unfold State.peerWork
    refine Kept.ite (State.meetError_kept hk) (Kept.ite hk ?_)
    extract_lets old new s1
    exact State.recordIn_kept (Kept.ite (hk.setMem (Mem.mergeHome_wf _ _ _ _ _)) hk)
  | read => exact State.meetError_kept hk

theorem State.peerRequest_kept {pkg seq node addr : Nat} {w : PeerWork} : Kept s0 (s.peerRequest pkg seq node addr w) := by
  unfold State.peerRequest
  extract_lets line h
  exact Kept.ite hk (Kept.others (State.peerWork_kept hk))

theorem execLinkEnable_kept {link : Nat} : OutKept s0 (execLinkEnable link s) := by
  unfold execLinkEnable
  exact OutKept.ite (OutKept.next hk) (OutKept.next (State.trainLink_kept (State.setLink_kept hk fun ⟨hr, _⟩ => ⟨hr, fun _ => rfl⟩)))

theorem execLinkDisable_kept {link : Nat} : OutKept s0 (execLinkDisable link s) := by
  unfold execLinkDisable
  exact OutKept.ite (OutKept.next hk) (OutKept.next (State.pump_kept (State.setLink_kept hk fun _ => ⟨fun _ => rfl, fun h => absurd rfl h⟩)))

theorem execLinkTrained_kept {link rate : Nat} : OutKept s0 (execLinkTrained link rate s) := by
  unfold execLinkTrained
  split
  · exact OutKept.next hk
  · next h =>
    simp only [Bool.or_eq_true, bne_iff_ne, not_or, not_not] at h
    obtain ⟨hst, _⟩ := h
    refine OutKept.next (State.pump_kept (State.setLink_kept hk fun ⟨_, he⟩ => ⟨fun h => absurd rfl h, fun _ => he ?_⟩))
    rw [hst]
    nofun

theorem execLinkTrainingTimeout_kept {link : Nat} : OutKept s0 (execLinkTrainingTimeout link s) := by
  unfold execLinkTrainingTimeout
  split
  · exact OutKept.next hk
  · next h => exact OutKept.next (State.failLink_kept hk (st := .training) (by simpa using h) nofun)

theorem execLinkReplayFailure_kept {link : Nat} : OutKept s0 (execLinkReplayFailure link s) := by
  unfold execLinkReplayFailure
  split
  · exact OutKept.next hk
  · next h => exact OutKept.next (State.failLink_kept hk (st := .up) (by simpa using h) nofun)

theorem execLinkLockLoss_kept {link : Nat} : OutKept s0 (execLinkLockLoss link s) := by
  unfold execLinkLockLoss
  split
  · exact OutKept.next hk
  · next h => exact OutKept.next (State.failLink_kept hk (st := .up) (by simpa using h) nofun)

theorem execHostModuleFail_kept {module : Nat} : OutKept s0 (execHostModuleFail module s) := by
  unfold execHostModuleFail
  extract_lets d s1 l
  have h1 : Kept s0 s1 := hk.setDev id
  refine OutKept.next ?_
  split
  · next h => exact State.failLink_kept h1 (st := .up) h.1 nofun
  · exact h1

theorem execPodJobEnrol_kept {job kernel : Nat} {members : List Nat} {enrol : Bool} : OutKept s0 (execPodJobEnrol job kernel members enrol s) := by
  unfold execPodJobEnrol
  exact OutKept.ite (OutKept.next (hk.setDev id)) (OutKept.ite (OutKept.next hk) (OutKept.next (hk.setDev id)))

theorem execEventRingReadAdvance_kept {idx : Nat} : OutKept s0 (execEventRingReadAdvance idx s) := by
  unfold execEventRingReadAdvance
  exact OutKept.ite (OutKept.next hk) (OutKept.next (Kept.foldl (fun hk _ => State.eventLine_kept hk) _ (hk.setDev id)))

theorem execWatchdogHeartbeat_kept : OutKept s0 (execWatchdogHeartbeat s) := OutKept.next (hk.setDev id)

theorem State.interrupt_kept {vector : Nat} : Kept s0 (s.interrupt vector) := by
  unfold State.interrupt
  exact Kept.ite (hk.setDev id) (hk.setDev id)

theorem State.irqWindowOver_kept {vector : Nat} : Kept s0 (s.irqWindowOver vector) := by
  unfold State.irqWindowOver
  split
  · exact hk
  · exact Kept.ite (hk.setDev id) (hk.setDev id)

theorem execWatchdogExpiry_kept : OutKept s0 (execWatchdogExpiry s) := by
  unfold execWatchdogExpiry
  extract_lets d s1
  have h1 : Kept s0 s1 := hk.setDev id
  exact OutKept.next (State.hostEvent_kept (State.interrupt_kept h1))

theorem execRegisterWrite_kept {reg : Nat} {val : Word} : OutKept s0 (execRegisterWrite reg val s) := by
  unfold execRegisterWrite
  refine OutKept.ite (OutKept.next (Kept.ite (hk.setMem id) hk)) (OutKept.ite (OutKept.next (Kept.ite (hk.setMem id) hk)) ?_)
  refine OutKept.ite (OutKept.next (hk.setMem id)) (OutKept.ite (OutKept.next (Kept.ite (hk.setMem (Mem.placeSide_wf _ _ _)) hk)) ?_)
  exact OutKept.next (hk.setDev (Dev.setReg_bounded _ _ _))

end

end Sys2Proof.Machine
end

section
/-!
SUPPORT. What every step keeps: Kiln's words, monitors, objects and their walks.
-/

namespace Sys2Proof.Machine

open Claim

section
variable {s0 s : State} (hk : Kept s0 s)
include hk

omit hk in
@[simp] theorem KilnCore.setCsr_zero (k : KilnCore) (n : Nat) (v : Word) : (k.setCsr n v).x[0] = k.x[0] := by
  unfold KilnCore.setCsr
  split <;> rfl

theorem State.spotWrite_kept {p : KilnSpot} {n v : Nat} : Kept s0 (s.spotWrite p n v) := by
  unfold State.spotWrite
  extract_lets q s1
  have h1 : Kept s0 s1 := by
    unfold s1
    split
    · exact hk.setKilnState (cellsWf_cellsWriteN _ _ _ _) fun _ h => h
    · exact hk.setMem (Mem.mergeHome_wf _ _ _ _ _)
  clear_value s1
  refine h1.setKilnState id fun _ hb i c hi => ?_
  dsimp only at hi
  rw [Vector.getElem?_map] at hi
  obtain ⟨c0, h0, rfl⟩ := Option.map_eq_some_iff.1 hi
  split
  · exact hb i c0 h0
  · exact hb i c0 h0

theorem State.kilnAccess_kept {k : KilnCore} {va : Word} {n misaligned denied : Nat} {perm : Word → Bool} {write : Bool} {go : KilnSpot → Out}
    (hx : deviceBounds s0 → k.x[0] = 0) (hgo : ∀ p, OutKept s0 (go p)) : OutKept s0 (s.kilnAccess k va n misaligned denied perm write go) := by
  have ht : ∀ {c : Nat} {v : Word}, deviceBounds s0 → (k.trap c v).x[0] = 0 := hx
  unfold State.kilnAccess
  refine OutKept.ite (OutKept.next (State.setKiln_kept hk ht)) ?_
  split
  · exact hgo _
  · exact OutKept.next (State.setKiln_kept hk ht)
  · exact OutKept.next (State.hostEvent_kept (State.setKiln_kept hk ht))
  · exact OutKept.next (State.setKiln_kept (State.meetLine_kept hk) ht)
  · exact OutKept.next hk

/-! The base words, of a core whose x0 holds 0. -/

section
variable {x : RvWord} (hx : deviceBounds s0 → x.k.x[0] = 0)
include hx

omit hk in
theorem RvWord.doneBy_bounded {n r : Nat} {v : Word} (h : deviceBounds s0) : (x.k.doneBy n r v).x[0] = 0 := (KilnCore.doneBy_zero _ _ _ _).trans (hx h)

theorem RvWord.puts_kept {v : Word} : Kept s0 (x.puts s v) := State.setKiln_kept hk (RvWord.doneBy_bounded hx (n := x.len))

theorem RvWord.orIllegal_kept {v : Option Word} : Kept s0 (x.orIllegal s v) := by
  cases v with
  | some v => exact RvWord.puts_kept hk hx
  | none => exact State.setKiln_kept hk hx

theorem RvWord.illegal_kept : OutKept s0 (x.illegal s) := OutKept.next (RvWord.orIllegal_kept hk hx)

theorem RvWord.jump_kept {target : Word} : OutKept s0 (x.jump s target) := OutKept.next (State.setKiln_kept hk (RvWord.doneBy_bounded hx (n := x.len)))

theorem RvWord.branch_kept : OutKept s0 (x.branch s) := by
  unfold RvWord.branch
  split
  · exact RvWord.illegal_kept hk hx
  · exact OutKept.next (State.setKiln_kept hk (RvWord.doneBy_bounded hx (n := x.len)))

theorem RvWord.load_kept : OutKept s0 (x.load s) := by
  unfold RvWord.load
  exact OutKept.ite (RvWord.illegal_kept hk hx) (State.kilnAccess_kept hk hx fun _ => OutKept.next (RvWord.puts_kept hk hx))

theorem RvWord.store_kept : OutKept s0 (x.store s) := by
  unfold RvWord.store
  exact OutKept.ite (RvWord.illegal_kept hk hx)
    (State.kilnAccess_kept hk hx fun _ => OutKept.next (State.spotWrite_kept (State.setKiln_kept hk (RvWord.doneBy_bounded hx (n := x.len)))))

theorem RvWord.atomic_kept : OutKept s0 (x.atomic s) := by
  unfold RvWord.atomic
  extract_lets n f5
  refine OutKept.ite (RvWord.illegal_kept hk hx) (OutKept.ite (OutKept.ite (RvWord.illegal_kept hk hx) ?_) (OutKept.ite ?_ ?_))
  · exact State.kilnAccess_kept hk hx fun _ => OutKept.next (State.setKiln_kept hk (RvWord.doneBy_bounded hx (n := x.len)))
  · refine State.kilnAccess_kept hk hx fun p => OutKept.next ?_
    have h1 : ∀ {v : Word}, Kept s0 (s.setKiln { x.k.doneBy x.len x.rd v with reserved := none }) := State.setKiln_kept hk (RvWord.doneBy_bounded hx (n := x.len))
    exact Kept.ite (State.spotWrite_kept h1) h1
  · split
    · exact RvWord.illegal_kept hk hx
    · exact State.kilnAccess_kept hk hx fun _ => OutKept.next (State.spotWrite_kept (RvWord.puts_kept hk hx))

theorem RvWord.csrWord_kept : OutKept s0 (x.csrWord s) := by
  unfold RvWord.csrWord
  extract_lets n src v writes
  split
  · exact RvWord.illegal_kept hk hx
  · refine OutKept.ite (RvWord.illegal_kept hk hx) (OutKept.next (State.setKiln_kept hk fun h => ?_))
    split
    · exact (KilnCore.setCsr_zero _ _ _).trans (RvWord.doneBy_bounded hx h)
    · exact RvWord.doneBy_bounded hx h

theorem RvWord.system_kept : OutKept s0 (x.system s) := by
  unfold RvWord.system
  refine OutKept.ite (RvWord.csrWord_kept hk hx) ?_
  split
  · exact OutKept.next (State.setKiln_kept hk hx)
  · exact OutKept.next (State.setKiln_kept hk hx)
  · exact OutKept.next (State.setKiln_kept hk hx)
  · exact OutKept.next (RvWord.puts_kept hk hx)
  · exact RvWord.illegal_kept hk hx

theorem RvWord.run_kept : OutKept s0 (x.run s) := by
  have hputs : ∀ {v}, OutKept s0 (.next (x.puts s v)) := OutKept.next (RvWord.puts_kept hk hx)
  have hor : ∀ {v}, OutKept s0 (.next (x.orIllegal s v)) := OutKept.next (RvWord.orIllegal_kept hk hx)
  have hill := RvWord.illegal_kept hk hx
  unfold RvWord.run
  split
  · exact hputs
  · exact hputs
  · exact RvWord.jump_kept hk hx
  · exact OutKept.ite (RvWord.jump_kept hk hx) hill
  · exact RvWord.branch_kept hk hx
  · exact RvWord.load_kept hk hx
  · exact RvWord.store_kept hk hx
  · exact hor
  · exact hor
  · exact hor
  · exact hor
  · exact OutKept.ite (OutKept.next (State.setKiln_kept hk (RvWord.doneBy_bounded hx (n := x.len)))) hill
  · exact RvWord.atomic_kept hk hx
  · exact RvWord.system_kept hk hx
  · exact hill

end

theorem Kept.kilnTrap {c : Nat} {v : Word} (h : deviceBounds s0) : (s.kilnCore.trap c v).x[0] = 0 := (KilnCore.trap_zero _ _ _).trans (hk.kilnCore_zero h)

theorem State.kilnWord_kept {go : RvWord → Out} (hgo : ∀ x : RvWord, (deviceBounds s0 → x.k.x[0] = 0) → OutKept s0 (go x)) : OutKept s0 (s.kilnWord go) := by
  have hx := hk.kilnCore_zero
  unfold State.kilnWord
  refine State.kilnAccess_kept hk hx fun p => OutKept.ite ?_ ?_
  · exact State.kilnAccess_kept hk hx fun q => hgo _ hx
  · split
    · exact hgo _ hx
    · exact OutKept.next (State.setKiln_kept hk hk.kilnTrap)

theorem Kept.kilnDone {r : Nat} {v : Word} (h : deviceBounds s0) : (s.kilnCore.done r v).x[0] = 0 := (KilnCore.done_zero _ _ _).trans (hk.kilnCore_zero h)

theorem State.spawn_kept {t : Thread} {c : Cohort} {pass : Nat} {pc : Word} {es : List Eff} : Kept s0 (s.spawn t c pass pc es) := by
  unfold State.spawn
  dsimp only
  split
  · exact hk
  · exact Kept.ite (Kept.others (State.modCohort_kept (State.modGroup_kept hk))) (Kept.others (State.modSlot_kept (Kept.others (State.modCohort_kept
    (State.modGroup_kept hk)))))

theorem State.bisectDone_kept {o : Op} {d k : Nat} {j : Bool} {lo hi : Nat} {pc : Word} : Kept s0 (s.bisectDone o d k j lo hi pc) := by
  unfold State.bisectDone
  dsimp only
  repeat' split
  · exact State.dropOp_kept hk
  · exact State.finishOp_kept hk
  · exact State.finishOp_kept hk
  · exact State.finishOp_kept (State.spawn_kept hk)

theorem State.kilnMissed_kept {va : Nat} : Kept s0 (s.kilnMissed va) := by
  unfold State.kilnMissed
  exact Kept.ite hk (State.meetTable_kept hk)

theorem execKrfet_kept {rs2 rs1 rd : BitVec 5} : OutKept s0 (execKrfet rs2 rs1 rd s) := by
  have hbad : ∀ {c : Nat} {v : Word}, OutKept s0 (.next (s.setKiln (s.kilnCore.trap c v))) := OutKept.next (State.setKiln_kept hk hk.kilnTrap)
  unfold execKrfet
  dsimp only
  refine OutKept.ite hbad ?_
  split
  · exact OutKept.next hk
  · exact OutKept.next (State.setKiln_kept (State.kilnMissed_kept hk) hk.kilnTrap)
  · exact hbad
  · refine OutKept.ite (OutKept.next (State.setKiln_kept (State.meetError_kept hk) hk.kilnTrap)) (OutKept.ite hbad ?_)
    split
    · exact OutKept.next hk
    · exact OutKept.next (State.setKiln_kept (State.kilnMissed_kept hk) hk.kilnTrap)
    · exact hbad
    · refine OutKept.ite (OutKept.next (State.setKiln_kept (State.meetError_kept hk) hk.kilnTrap)) (OutKept.next (State.setKiln_kept ?_ hk.kilnDone))
      exact hk.setKilnState (cellsWf_cellsWriteN _ _ _ _) fun _ h => h

theorem execKbfx_kept {rs2 rs1 rd : BitVec 5} : OutKept s0 (execKbfx rs2 rs1 rd s) := by
  unfold execKbfx
  exact OutKept.ite (OutKept.next (State.setKiln_kept hk hk.kilnTrap)) (OutKept.next (State.setKiln_kept hk hk.kilnDone))

theorem execKswait_kept {rs1 rd : BitVec 5} : OutKept s0 (execKswait rs1 rd s) := by
  unfold execKswait
  refine OutKept.ite (OutKept.next (State.setKiln_kept hk hk.kilnTrap)) (OutKept.next (State.kilnWake_kept (State.setKiln_kept hk fun h => ?_)))
  dsimp only
  exact hk.kilnCore_zero h

theorem execKdisp_kept {rs2 rs1 rd : BitVec 5} : OutKept s0 (execKdisp rs2 rs1 rd s) := by
  unfold execKdisp
  extract_lets k a w die
  refine OutKept.ite (OutKept.next (State.setKiln_kept hk hk.kilnTrap)) ?_
  split
  · exact OutKept.next (State.setKiln_kept hk hk.kilnTrap)
  · refine OutKept.ite (OutKept.next (State.setKiln_kept hk hk.kilnDone)) (OutKept.next (State.setKiln_kept (Kept.others ?_) hk.kilnDone))
    exact Kept.ite hk (State.startPkt_kept hk)

theorem State.colourLine_kept {o : Op} {c left : Nat} : Kept s0 (s.colourLine o c left) := by
  unfold State.colourLine
  refine Kept.ite (State.dropOp_kept hk) (Kept.ite (State.foundFault_kept hk) ?_)
  extract_lets va
  have h1 := fun {s1 : State} {r : Except Miss Home} (h : s.homeFor o false = (s1, r)) => Kept.fst (State.homeFor_kept hk) h
  split
  · next h => exact h1 h
  · next h => exact State.foundFault_kept (State.meetLine_kept (h1 h))
  · next h => exact State.pageFault_kept (h1 h)
  · next h =>
    refine Kept.ite (State.foundFault_kept (h1 h)) (Kept.ite (h1 h) (Kept.ite (State.foundFault_kept (State.meetError_kept (h1 h)))
      (Kept.ite (State.foundFault_kept (h1 h)) ?_)))
    extract_lets s2 md s3
    have h2 : Kept s0 s2 := State.purgeLines_kept (State.writePeer_kept (h1 h))
    clear_value s2
    have h3 : Kept s0 s3 := h2.setMem id
    exact Kept.ite (State.foundFault_kept h2) (Kept.ite (State.dropOp_kept h3) (State.modOp_kept h3))

theorem State.giveUp_kept {x : Thread × Nat} : Kept s0 (s.giveUp x) := by
  unfold State.giveUp
  dsimp only
  exact Kept.others (State.modThread_kept hk)

theorem State.setMonitor_kept {m : Monitor} : Kept s0 (s.setMonitor m) := by
  unfold State.setMonitor
  exact Kept.others hk

theorem State.reply_kept {tid asid c depth : Nat} {grant : Bool} : Kept s0 (s.reply tid asid c depth grant) := by
  unfold State.reply
  exact Kept.others hk

theorem State.passOn_kept {m : Monitor} : Kept s0 (s.passOn m) := by
  unfold State.passOn
  split
  · exact State.setMonitor_kept hk
  · exact State.reply_kept (State.setMonitor_kept hk)

theorem State.grantAcquire_kept {core asid tid c : Nat} : Kept s0 (s.grantAcquire core asid tid c) := by
  unfold State.grantAcquire
  dsimp only
  exact Kept.others (State.modThread_kept (State.dropL1_kept hk))

theorem State.granted_kept {tid c : Nat} : Kept s0 (s.granted tid c) := by
  unfold State.granted
  dsimp only
  exact State.endPark_kept (Kept.ite (State.modThread_kept (Kept.others hk)) (State.endPark_kept (State.modThread_kept (Kept.others hk))))

theorem State.releaseWrites_kept {r : Rel} : Kept s0 (s.releaseWrites r) := by
  unfold State.releaseWrites
  exact State.cleanL1_kept hk

theorem State.pubRelease_kept {tid core asid scope : Nat} : Kept s0 (s.pubRelease tid core asid scope) := by
  unfold State.pubRelease
  exact State.releaseAt_kept hk

theorem State.walkRead_kept {w : Walk} {va : Nat} {h : Home} : Kept s0 (s.walkRead w va h).1 := by
  unfold State.walkRead
  exact Kept.ite_fst (State.readPeer_kept (State.countMiss_kept hk)) (State.readL2_kept hk)

theorem State.raiseLine_kept {w : Walk} {line : Nat} {h : Home} : Kept s0 (s.raiseLine w line h) := by
  unfold State.raiseLine
  extract_lets die s1 s2 up m s3
  have h1 : Kept s0 s1 := State.cleanL1_kept hk
  clear_value s1
  have h2 : Kept s0 s2 := State.writePeer_kept (Kept.ite (State.drainLine_kept h1) h1)
  clear_value s2
  have hm : m.bytes = s2.mem.bytes := by
    unfold m
    split
    · exact Mem.setMeta_bytes _ _ _ _
    · rfl
  have h3 : Kept s0 s3 := h2.setMem fun h => (congrArg cellsWf hm).trans h
  exact State.modCore_kept h3

theorem State.raiseLines_kept {w : Walk} {line n : Nat} : Kept s0 (s.raiseLines w line n).1 := by
  induction n generalizing s line with
  | zero => exact hk
  | succ n ih =>
    rw [State.raiseLines]
    split
    · exact ih (State.raiseLine_kept hk)
    · exact hk

theorem State.objectRefs_kept {w : Walk} {a n : Nat} : Kept s0 (s.objectRefs w a n).1 := by
  induction n generalizing s a with
  | zero => exact hk
  | succ n ih =>
    rw [State.objectRefs]
    split
    · exact ih (Kept.ite (State.walkRead_kept hk) hk)
    · exact ih hk

theorem State.setWalk_kept {w : Walk} : Kept s0 (s.setWalk w) := by
  unfold State.setWalk
  exact Kept.others hk

theorem State.spill_kept {w : Walk} {held : Nat} {rs : List Nat} : Kept s0 (s.spill w held rs).1 := by
  induction rs generalizing s w held with
  | nil => exact hk
  | cons r rs ih =>
    rw [State.spill]
    exact Kept.ite_fst (ih hk) (ih (State.homeWrite_kept hk))

theorem State.walkOver_kept {w : Walk} {last : State → Op → State} (hl : ∀ {t : State}, Kept s0 t → ∀ o, Kept s0 (last t o)) :
    Kept s0 (s.walkOver w last) := by
  unfold State.walkOver
  refine Kept.ite hk ?_
  extract_lets s1 s2
  have h2 : Kept s0 s2 := Kept.others (State.drain_kept hk)
  clear_value s2
  split
  · exact h2
  · exact hl h2 _

theorem State.walkFault_kept {w : Walk} {code addr : Nat} : Kept s0 (s.walkFault w code addr) :=
  State.walkOver_kept hk fun ht _ => State.faultOp_kept ht

theorem State.walkEnd_kept {w : Walk} : Kept s0 (s.walkEnd w) := by
  refine State.walkOver_kept hk fun ht o => ?_
  split
  · exact State.finishOp_kept ht
  · exact ht

theorem State.walkStop_kept {w : Walk} {va : Nat} {m : Met} : OutKept s0 (s.walkStop w va m) := by
  unfold State.walkStop
  split
  · exact OutKept.next hk
  · exact OutKept.next hk
  · exact OutKept.fault
  · exact OutKept.next (State.walkFault_kept (Kept.ite (State.meetErrorAt_kept hk) hk))
  · dsimp only
    split
    · exact OutKept.next (State.setWalk_kept hk)
    · exact OutKept.next (State.pageFault_kept (State.setWalk_kept hk))

theorem State.walkScan_kept {w : Walk} {h len : Nat} : Kept s0 (s.walkScan w h len) := by
  unfold State.walkScan
  rcases hr : s.objectRefs w h len with ⟨t, refs⟩
  have ht : Kept s0 t := Kept.fst (State.objectRefs_kept hk) hr
  dsimp only
  rcases hu : t.spill w w.queue.length (refs.take (walkLimit - w.queue.length)) with ⟨u, n⟩
  have hu' : Kept s0 u := Kept.fst (State.spill_kept ht) hu
  dsimp only
  split
  · exact State.walkFault_kept hu'
  · exact State.setWalk_kept hu'

theorem State.walkRaise_kept {w : Walk} {h len line : Nat} : OutKept s0 (s.walkRaise w h len line) := by
  unfold State.walkRaise
  dsimp only
  repeat' split
  · exact State.walkStop_kept (State.setWalk_kept (State.raiseLines_kept hk))
  · exact State.walkStop_kept (State.setWalk_kept (State.raiseLines_kept hk))
  · exact OutKept.next (State.walkScan_kept (State.setWalk_kept (State.raiseLines_kept hk)))

theorem State.walkStep_kept {w : Walk} : OutKept s0 (s.walkStep w) := by
  unfold State.walkStep
  dsimp only
  repeat' split
  · exact State.walkRaise_kept hk
  · exact OutKept.next (State.walkEnd_kept hk)
  · exact OutKept.next (State.setWalk_kept hk)
  · exact OutKept.next (State.setWalk_kept (State.walkRead_kept hk))
  · exact OutKept.next (State.setWalk_kept (State.walkRead_kept hk))
  · exact OutKept.next (State.walkFault_kept (State.walkRead_kept hk))
  · exact State.walkRaise_kept (State.walkRead_kept hk)
  · exact State.walkStop_kept hk

end

end Sys2Proof.Machine
end

section
/-!
SUPPORT. What every step keeps: walks, launches, page commands, replay and denial, and the host's accesses.
-/

namespace Sys2Proof.Machine

open Claim

section
variable {s0 s : State} (hk : Kept s0 s)
include hk

theorem OutKept.atPlace {asid va : Nat} {o : Out} (h : OutKept s0 o) : OutKept s0 (s.atPlace asid va o) := by
  unfold State.atPlace
  split
  · exact OutKept.next hk
  · exact OutKept.fault
  · exact h

omit hk in
theorem OutKept.orHole {o : Op} {t : State} (ht : Kept s0 t) : OutKept s0 (orHole s o t) := by
  unfold Machine.orHole
  split
  · exact OutKept.fault
  · exact OutKept.next ht

omit hk in
theorem OutKept.orCopyHole {c : Copy} {places : List (Nat × Bool)} {t : State} (ht : Kept s0 t) : OutKept s0 (orCopyHole s c places t) := by
  unfold Machine.orCopyHole
  split
  · exact OutKept.fault
  · exact OutKept.next ht

omit hk in
theorem OutKept.orPageHole {w3 : Word} {o : Out} (h : OutKept s0 o) : OutKept s0 (s.orPageHole w3 o) := by
  unfold State.orPageHole
  refine OutKept.ite ?_ h
  split
  · exact OutKept.fault
  · exact h

theorem orSame_kept {o : Out} (h : OutKept s0 o) : Kept s0 (orSame s o) := by
  cases o with
  | next t => exact h t rfl
  | fault f => exact hk
  | refused r => exact hk

/-! Launches and kernels. -/

theorem State.takeRec_kept {l : LaunchReq} : OutKept s0 (s.takeRec l) := by
  unfold State.takeRec
  split
  · exact OutKept.next (State.acceptRec_kept hk)
  · split
    · exact OutKept.next (State.acceptRec_kept hk)
    · exact OutKept.next (State.holdLaunch_kept hk)
    · exact OutKept.next (State.acceptRec_kept (State.metBad_kept hk))
    · exact OutKept.fault
    · exact OutKept.next hk

theorem State.launchOp_kept {o : Op} {d : Nat} {completion : Option Nat} : OutKept s0 (s.launchOp o d completion) := by
  unfold State.launchOp
  extract_lets die s1
  have h1 : Kept s0 s1 := State.fenceEffect_kept hk
  clear_value s1
  split
  · exact OutKept.next (State.pump_kept (State.pageFault_kept h1))
  · exact OutKept.next (State.pump_kept (State.faultOp_kept (State.metBad_kept h1)))
  · exact OutKept.fault
  · exact OutKept.next hk
  · refine OutKept.ite (OutKept.next (State.pump_kept (State.faultOp_kept h1))) (OutKept.ite (OutKept.next (State.pump_kept (State.finishOp_kept h1))) ?_)
    exact OutKept.next (State.pump_kept (State.finishOp_kept (Kept.others h1)))

theorem State.retireKernel_kept {k : Kernel} : OutKept s0 (s.retireKernel k) := by
  unfold State.retireKernel
  refine OutKept.ite (OutKept.next hk) ?_
  split
  · split
    · exact OutKept.next (State.modKernel_kept (State.putFault_kept hk))
    · exact OutKept.atPlace hk (OutKept.next (State.deviceAdd_kept (State.endKernel_kept hk)))
  · exact OutKept.next (State.sourceEnds_kept (State.endKernel_kept hk))

theorem State.refuseCmd_kept {w0 w1 : Word} : Kept s0 (s.refuseCmd w0 w1) := by
  unfold State.refuseCmd
  exact State.hostEvent_kept hk

omit hk in
theorem servePages_kept {cs : List PageCmd} {s : State} (hk : Kept s0 s) : Kept s0 (servePages cs s) := by
  induction cs generalizing s with
  | nil => exact hk.setKilnState id fun _ h => h
  | cons c cs ih =>
    rw [servePages]
    exact Kept.ite (hk.setKilnState id fun _ h => h) (ih (Kept.ite (State.putWords_kept hk) hk))

theorem State.endPageCmd_kept {c : PageCmd} : Kept s0 (s.endPageCmd c) := servePages_kept hk

theorem State.pageDone_kept {w3 : Word} : Kept s0 (s.pageDone w3) := by
  unfold State.pageDone
  exact State.endPageCmd_kept hk

theorem State.dropTlb_kept {asid a len : Nat} : Kept s0 (s.dropTlb asid a len) := by
  unfold State.dropTlb
  dsimp only
  exact Kept.othersMem hk (by rfl)

theorem State.invalRange_kept {asid a len : Nat} : Kept s0 (s.invalRange asid a len) := by
  unfold State.invalRange
  exact State.drain_kept (State.dropTlb_kept hk)

theorem State.purgeRange_kept {asid a len : Nat} : Kept s0 (s.purgeRange asid a len) := by
  unfold State.purgeRange
  exact State.invalRange_kept (State.purgeLines_kept hk)

theorem State.rangeDone_kept {asid a len : Nat} {w3 : Word} : Kept s0 (s.rangeDone asid a len w3) := by
  unfold State.rangeDone
  dsimp only
  exact State.endPageCmd_kept hk

theorem State.meetSide_kept {die e : Nat} : Kept s0 (s.meetSide die e) := by
  unfold State.meetSide
  split
  · exact State.meetLine_kept hk
  · exact hk

theorem State.movePage_kept {asid va : Nat} {l : Leaf} {new : Word} : Kept s0 (s.movePage asid va l new).1 := by
  unfold State.movePage
  extract_lets s1 src dst
  have h1 : Kept s0 s1 := State.purgeRange_kept hk
  clear_value s1
  split
  · exact h1.setMem (Mem.copyFrame_wf _ _ _ _)
  · exact State.dropTlb_kept (h1.setMem fun h => Mem.writeLeaf_wf _ _ _ _ (Mem.copyFrame_wf _ _ _ _ h))

/-! The effects of page commands. -/

omit hk in
/-- What a command leaves, refused or done. -/
def CmdKept (s0 : State) : CmdRes → Prop
  | .refused s => Kept s0 s
  | .hole _ _ => True
  | .wait => True
  | .done s _ => Kept s0 s

omit hk in
theorem CmdKept.ite {c : Prop} [Decidable c] {r r' : CmdRes} (h : CmdKept s0 r) (h' : CmdKept s0 r') : CmdKept s0 (if c then r else r') := by
  split
  · exact h
  · exact h'

theorem CmdKept.refuse {w0 w1 : Word} : CmdKept s0 (.refused (s.refuseCmd w0 w1)) := State.refuseCmd_kept hk

theorem State.withLeaf_kept {w0 w1 : Word} {f : Leaf → CmdRes} (hf : ∀ l, CmdKept s0 (f l)) : CmdKept s0 (s.withLeaf w0 w1 f) := by
  unfold State.withLeaf
  split
  · exact CmdKept.refuse hk
  · exact CmdKept.refuse (State.meetLine_kept hk)
  · trivial
  · exact hf _

theorem State.moveCmd_kept {w0 w1 w2 w3 : Word} : CmdKept s0 (s.moveCmd w0 w1 w2 w3) := by
  unfold State.moveCmd
  refine CmdKept.ite (CmdKept.refuse hk) (State.withLeaf_kept hk fun l => CmdKept.ite (CmdKept.refuse hk) (CmdKept.ite trivial (CmdKept.ite trivial ?_)))
  split
  · next h => exact Kept.fst (State.movePage_kept hk) h
  · next h => exact State.hostEvent_kept (Kept.fst (State.movePage_kept hk) h)

theorem State.biasCmd_kept {w0 w1 w2 w3 : Word} : CmdKept s0 (s.biasCmd w0 w1 w2 w3) := by
  unfold State.biasCmd
  extract_lets va
  refine CmdKept.ite (CmdKept.refuse hk) (State.withLeaf_kept hk fun l => ?_)
  extract_lets s1 e s2 s3
  have h1 : Kept s0 s1 := Kept.ite (State.purgeRange_kept hk) hk
  clear_value s1
  have h2 : Kept s0 s2 := h1.setMem (Mem.writeLeaf_wf _ _ _ _)
  exact State.invalRange_kept h2

theorem State.dgetCmd_kept {w0 w1 w2 w3 : Word} : CmdKept s0 (s.dgetCmd w0 w1 w2 w3) := by
  unfold State.dgetCmd
  exact CmdKept.ite (CmdKept.refuse hk) (CmdKept.ite trivial ((State.meetSide_kept hk).setMem (Mem.setDirty_wf _ _ _)))

theorem State.scrubCmd_kept {w0 w1 w2 w3 : Word} : CmdKept s0 (s.scrubCmd w0 w1 w2 w3) := by
  unfold State.scrubCmd
  exact CmdKept.ite (CmdKept.refuse hk) (CmdKept.ite trivial (hk.setMem (Mem.scrub_wf _ _ _)))

theorem State.heldCmd_kept {x : Word × Word × Word × Word} : CmdKept s0 (s.heldCmd x) := by
  unfold State.heldCmd
  split
  · exact State.moveCmd_kept hk
  · exact State.biasCmd_kept hk
  · exact State.dgetCmd_kept hk
  · exact State.scrubCmd_kept hk

theorem State.serveCmd_kept {w0 w1 w2 w3 : Word} {r : CmdRes} (hr : CmdKept s0 r) : OutKept s0 (s.serveCmd w0 w1 w2 w3 r) := by
  cases r with
  | refused s1 => exact OutKept.next hr
  | hole node addr => exact OutKept.fault
  | wait => exact OutKept.orPageHole (OutKept.next (State.endPageCmd_kept hk))
  | done s1 c => exact OutKept.orPageHole (OutKept.next (State.pump_kept (State.endPageCmd_kept hr)))

omit hk in
theorem retryCmds_kept {cs : List PageCmd} {s : State} (hk : Kept s0 s) : Kept s0 (retryCmds cs s).1 := by
  induction cs generalizing s with
  | nil => exact hk
  | cons c cs ih =>
    rw [retryCmds]
    split
    · exact ih hk
    · next x _ =>
      have hx : CmdKept s0 (s.heldCmd x) := State.heldCmd_kept hk
      split
      · next h => exact ih (by rwa [h] at hx)
      · next h => exact ih (by rwa [h] at hx)
      · exact ih hk

theorem State.deliverRetried_kept {id : Nat} : Kept s0 (match s.op? id with
    | none => s
    | some o1 => (s.deliverLoad o1).deliverAtomic o1) := by
  split
  · exact hk
  · exact State.deliverAtomic_kept (State.deliverLoad_kept hk)

theorem State.retryOp_kept {id : Nat} : Kept s0 (s.retryOp id) := by
  unfold State.retryOp
  extract_lets s1 after
  have h1 : Kept s0 s1 := State.modOp_kept hk
  clear_value s1
  have hafter : ∀ {t}, Kept s0 t → Kept s0 (after t) := fun ht => State.deliverRetried_kept ht
  clear_value after
  split
  · exact hk
  · next o _ =>
    generalize o.kind = kind
    cases kind
    case load => exact hafter (State.performGlobal_kept h1)
    case readMeta => exact hafter (State.performGlobal_kept h1)
    case store => exact State.performGlobal_kept h1
    case stref => exact State.performGlobal_kept h1
    case atomic => exact Kept.ite (State.performEntry_kept (State.modOp_kept h1)) (hafter (State.performAtomicG_kept h1))
    case colr => exact State.colourLine_kept h1
    case fetch =>
      dsimp only
      split
      · exact State.pageFault_kept h1
      · exact State.dropOp_kept h1
    case pub =>
      dsimp only
      split
      · exact orSame_kept h1 (State.walkStep_kept h1)
      · exact h1
    case launch => exact orSame_kept h1 (State.launchOp_kept h1)
    all_goals exact h1

theorem State.retryCopy_kept {c : Copy} : Kept s0 (s.retryCopy c) := by
  unfold State.retryCopy
  split
  · exact State.endGather_kept hk
  · exact State.endCopy_kept hk

theorem State.retryQueuePkt_kept {q : Nat} {p : Pkt} : Kept s0 (s.retryQueuePkt q p) := by
  unfold State.retryQueuePkt
  split
  · exact hk
  · exact State.endQueueCopy_kept hk

theorem State.retryBulkPkt_kept {b : Nat} {p : Pkt} : Kept s0 (s.retryBulkPkt b p) := by
  unfold State.retryBulkPkt
  split
  · exact hk
  · exact State.endBulk_kept hk

theorem State.retryKernel_kept {k : Kernel} : Kept s0 (s.retryKernel k) :=
  orSame_kept (State.modKernel_kept hk) (State.retireKernel_kept (State.modKernel_kept hk))

theorem State.replay_kept {asid n : Nat} : Kept s0 (s.replay asid n) := by
  unfold State.replay
  refine Kept.foldl (fun hk _ => State.retryKernel_kept hk) _ (Kept.foldl (fun hk _ => State.retryBulkPkt_kept hk) _ ?_)
  refine Kept.foldl (fun hk _ => State.retryQueuePkt_kept hk) _ (Kept.foldl (fun hk _ => orSame_kept hk (State.takeRec_kept hk)) _ ?_)
  refine Kept.foldl (fun hk _ => State.retryCopy_kept hk) _ (Kept.foldl (fun hk _ => State.performEntry_kept hk) _ ?_)
  exact Kept.foldl (fun hk _ => State.retryOp_kept hk) _ hk

theorem State.denyOp_kept {o : Op} : Kept s0 (s.denyOp o) := by
  unfold State.denyOp
  dsimp only
  repeat' split
  · exact State.walkFault_kept hk
  · exact State.faultOp_kept hk
  · exact State.storeFault_kept (State.foundFault_kept hk)
  · exact State.foundFault_kept hk
  · exact State.foundFault_kept hk

theorem State.denyCopy_kept {page : Nat} {c : Copy} : Kept s0 (s.denyCopy page c) := by
  unfold State.denyCopy
  dsimp only
  split
  · exact Kept.ite (State.endGather_kept (Kept.others hk)) hk
  · exact Kept.ite (State.endCopy_kept (Kept.others hk)) hk

theorem State.denyKernel_kept {page : Nat} {k : Kernel} : Kept s0 (s.denyKernel page k) := by
  unfold State.denyKernel
  split
  · exact Kept.ite (orSame_kept (State.modKernel_kept hk) (State.retireKernel_kept (State.modKernel_kept hk))) hk
  · exact hk

theorem State.deny_kept {asid page : Nat} : Kept s0 (s.deny asid page) := by
  unfold State.deny
  refine Kept.foldl (fun hk b => Kept.foldl (fun hk p => ?_) _ hk) _ (Kept.foldl (fun hk _ => State.denyKernel_kept hk) _ ?_)
  · split
    · exact State.endBulk_kept hk
    · exact hk
  refine Kept.foldl (fun hk q => Kept.foldl (fun hk p => ?_) _ hk) _ (Kept.foldl (fun hk _ => State.acceptRec_kept hk) _ ?_)
  · split
    · exact State.endQueueCopy_kept hk
    · exact hk
  exact Kept.foldl (fun hk _ => State.denyCopy_kept hk) _ (Kept.foldl (fun hk _ => State.denyOp_kept hk) _ hk)

theorem State.writeHeld_kept {r : FaultRec} : Kept s0 (s.writeHeld r) := by
  unfold State.writeHeld
  split
  · next h => exact Kept.fst (State.putFault_kept hk) h
  · next s1 q _ h =>
    have h1 : Kept s0 s1 := Kept.fst (State.putFault_kept hk) h
    split
    · split
      · exact Kept.others h1
      · exact h1
    · dsimp only
      split
      · exact State.modQueue_kept h1
      · split
        · exact State.modBulk_kept h1
        · exact h1
    · dsimp only
      split
      · exact Kept.others h1
      · exact Kept.ite (Kept.others h1) h1
      · split
        · exact State.modKernel_kept h1
        · exact h1

theorem State.hostPut_kept {node addr : Nat} {data : List Byte} : Kept s0 (s.hostPut node addr data) :=
  hk.of_wf (State.hostPut_wf _ _ _ _) rfl rfl

theorem State.meetRange_kept {node addr n : Nat} : Kept s0 (s.meetRange node addr n) := by
  unfold State.meetRange
  exact Kept.ite hk (Kept.foldl (fun hk _ => State.meetError_kept hk) _ hk)

theorem State.loadLineImage_kept {asid va : Nat} {base : Word} {l : BitVec 512 × BitVec 32} : Kept s0 (s.loadLineImage asid va base l) := by
  unfold State.loadLineImage
  split
  · extract_lets md s1 m
    have h1 : Kept s0 s1 := State.writePeer_kept hk
    clear_value s1
    have hm : cellsWf s1.mem.bytes = true → cellsWf m.bytes = true := Mem.mergeHome_wf _ _ _ _ _
    clear_value m
    refine h1.setMem fun h => ?_
    split
    · rw [Mem.setMeta_bytes]
      exact hm h
    · exact hm h
  · exact hk

theorem State.loadImage_kept {asid : Nat} {base : Word} {lines : List (BitVec 512 × BitVec 32)} : OutKept s0 (s.loadImage asid base lines) := by
  unfold State.loadImage
  extract_lets ls ps
  split
  · exact OutKept.fault
  · exact OutKept.ite (OutKept.next hk) (OutKept.next (Kept.foldl (fun hk _ => State.loadLineImage_kept hk) _ hk))

end

end Sys2Proof.Machine
end

section
/-!
SUPPORT. What every step keeps: what the device does by itself after a step, and what a core does beside its words.
-/

namespace Sys2Proof.Machine

open Claim

section
variable {s0 s : State} (hk : Kept s0 s)
include hk

theorem State.tryPut_kept {asid va : Nat} {ws : List Nat} {t : State} (h : s.tryPut asid va ws = some t) : Kept s0 t := by
  unfold State.tryPut at h
  split at h
  · cases h
    exact State.putWords_kept hk
  · cases h

theorem ringPut_kept {asid i : Nat} {place : Nat → Nat} {es : List (List Nat)} : Kept s0 (ringPut asid place i es s).1 := by
  induction es generalizing s i with
  | nil => exact hk
  | cons e es ih =>
    rw [ringPut]
    split
    · next h => exact ih (State.tryPut_kept hk h)
    · exact hk

theorem State.flushFaults_kept {c : Ctx} : Kept s0 (s.flushFaults c) := by
  unfold State.flushFaults
  exact Kept.ite hk (State.modCtx_kept (ringPut_kept hk))

theorem State.flushEvents_kept : Kept s0 s.flushEvents := by
  unfold State.flushEvents
  extract_lets r es d
  refine Kept.ite hk ?_
  have hmem : Kept s0 { s with mem := es.foldl (fun m e => m.putHost (r.base + 32 * (e.1 % 2 ^ r.log)) e.2.words) s.mem } :=
    hk.setMem fun h => wf_foldl (fun m : Mem => cellsWf m.bytes) _ (fun m e hm => Mem.putHost_wf m _ _ hm) es s.mem h
  exact hmem.setDev id

theorem State.flushRequests_kept : Kept s0 s.flushRequests := by
  unfold State.flushRequests
  exact Kept.ite hk (Kept.othersMem (ringPut_kept hk) rfl)

theorem State.resumePages_kept : Kept s0 s.resumePages := by
  unfold State.resumePages
  refine Kept.ite hk ?_
  extract_lets r u k t0 t1 t2
  have h0 : Kept s0 t0 := (retryCmds_kept hk).setKilnState id fun _ h => h
  clear_value t0
  have h2 : Kept s0 t2 := servePages_kept (Kept.foldl (fun hk _ => Kept.ite (State.replay_kept hk) hk) _ h0)
  exact Kept.ite h2 (State.pump_kept h2)

theorem State.settleCores_kept : Kept s0 (s.settleCores) := by
  unfold State.settleCores
  exact Kept.foldl (fun hk _ => State.settleCore_kept hk) _ hk

theorem State.leaveNbars_kept : Kept s0 s.leaveNbars := by
  unfold State.leaveNbars
  refine Kept.foldl (fun hk i => ?_) _ hk
  split
  · split
    · exact State.leaveNbar_kept hk
    · exact hk
  · exact hk

theorem State.tryLate_kept {w : LateWrite} : Kept s0 (s.tryLate w) := by
  unfold State.tryLate
  split
  · exact State.homeWrite_kept hk
  · exact State.deviceAdd_kept hk
  · exact Kept.ite (State.hostPut_kept hk) (State.holdWrite_kept hk)

theorem State.settleLate_kept : Kept s0 s.settleLate := by
  unfold State.settleLate
  exact Kept.ite hk (Kept.foldl (fun hk _ => State.tryLate_kept hk) _ (hk.setMem id))

theorem State.afterStep_kept : Kept s0 s.afterStep := by
  unfold State.afterStep
  refine State.noteReady_kept (State.settleCores_kept (State.leaveNbars_kept (State.reviewGates_kept ?_)))
  refine State.flushEvents_kept (State.flushRequests_kept (Kept.foldl (fun hk _ => State.flushFaults_kept hk) _ ?_))
  exact State.resumePages_kept (State.settleLate_kept hk)

omit hk in
theorem afterOut_kept {o : Out} (h : OutKept s0 o) : OutKept s0 (afterOut o) := by
  cases o with
  | next t => exact OutKept.next (State.afterStep_kept (h t rfl))
  | fault f => exact OutKept.fault
  | refused r => exact OutKept.refused

theorem State.faultGroup_kept {t : State} : Kept s0 (s.faultGroup t) := by
  unfold State.faultGroup
  exact Kept.others hk

theorem State.passCycle_kept {core : Nat} : Kept s0 (s.passCycle core) := by
  unfold State.passCycle
  exact State.setClock_kept hk

theorem State.idle_kept : Kept s0 s.idle := by
  unfold State.idle
  exact Kept.foldl (fun hk _ => State.passCycle_kept (State.pick_kept (State.schedule_kept hk))) _ hk

theorem State.keepPace_kept {core : Nat} : Kept s0 (s.keepPace core) := by
  unfold State.keepPace
  dsimp only
  exact Kept.foldl (fun hk _ => State.setClock_kept hk) _ hk

theorem State.dropReserved_kept : Kept s0 s.dropReserved := by
  unfold State.dropReserved
  refine Kept.ite hk (hk.setKilnState id fun _ hb i c hi => ?_)
  dsimp only at hi
  rw [Vector.getElem?_map] at hi
  obtain ⟨c0, h0, rfl⟩ := Option.map_eq_some_iff.1 hi
  exact hb i c0 h0

end

end Sys2Proof.Machine
end

section
/-!
SUPPORT. What every step keeps: the words of the cores.
-/

namespace Sys2Proof.Machine

open Claim

section
variable {s0 s : State} (hk : Kept s0 s)
include hk

theorem fixedWord_kept {g : BitVec 4} {lat : Nat} {srcs : List Reg} {f : Issue → Thread → Except Flt (List Eff)} : OutKept s0 (fixedWord g lat srcs f s) := by
  unfold fixedWord
  exact OutKept.next (State.onIssuing_kept hk)

theorem fpWord_kept {g : BitVec 4} {lat : Nat} {srcs : List Reg} {f : Issue → Thread → List Eff × Nat} : OutKept s0 (fpWord g lat srcs f s) := by
  unfold fpWord
  exact OutKept.next (State.onIssuing_kept hk)

theorem threadWord_kept {g : BitVec 4} {f : Issue → Thread → Except Flt Thread} : OutKept s0 (threadWord g f s) := by
  unfold threadWord
  exact OutKept.next (State.onIssuing_kept hk)

theorem opWord_kept {g : BitVec 4} {flagged hashed : Bool} {srcs : List Reg} {mk : Issue → Thread → Except Flt OpReq} : OutKept s0
    (opWord g flagged hashed srcs mk s) := by
  unfold opWord
  exact OutKept.next (State.startOps_kept hk)

/-- Words whose operations are performed at once where nothing keeps them. -/
theorem pumpedWord_kept {g : BitVec 4} {flagged hashed : Bool} {srcs : List Reg} {mk : Issue → Thread → Except Flt OpReq} :
    OutKept s0 (.next (s.startOps g flagged hashed srcs mk).pump) :=
  OutKept.next (State.pump_kept (State.startOps_kept hk))

theorem amoWord_kept {g : BitVec 4} {d b v : BitVec 6} {mk : Issue → Thread → Except Flt OpReq} : OutKept s0 (amoWord g d b v mk s) := by
  unfold amoWord
  dsimp only
  exact OutKept.next (Kept.foldl (fun hk _ => State.bufferOp_kept hk) _ (State.startOps_kept hk))

theorem waitWord_kept {g : BitVec 4} {srcs : List Reg} {mk : Issue → Thread → Except Flt OpReq} {park : Nat → Park} : OutKept s0 (waitWord g srcs mk park s) := by
  unfold waitWord
  dsimp only
  exact OutKept.next (Kept.foldl (fun hk _ => State.addPark_kept hk) _ (State.startOps_kept hk))

theorem cohortWord_kept {g : BitVec 4} {f : Cohort → Cohort} : OutKept s0 (cohortWord g f s) := by
  unfold cohortWord
  split
  · exact OutKept.next hk
  · exact OutKept.ite (OutKept.next hk) (OutKept.next (State.modCohort_kept hk))

theorem copyUnitWord_kept {g : BitVec 4} {mk : State → Issue → Thread → Except Flt CopyReq} : OutKept s0 (copyUnitWord g mk s) := by
  unfold copyUnitWord
  split
  · exact OutKept.next hk
  · exact OutKept.next (Kept.foldl (fun hk _ => copyOne_kept hk) _ (Kept.others hk))

theorem tagWord_kept {g : BitVec 4} {b : BitVec 6} {f : Issue → Nat → State → Thread → Word → State}
    (hf : ∀ {s}, Kept s0 s → ∀ iss seq t m, Kept s0 (f iss seq s t m)) : OutKept s0 (tagWord g b f s) := by
  unfold tagWord
  split
  · exact OutKept.next hk
  · exact OutKept.next (Kept.foldl (fun hk _ => tagOne_kept hk fun _ => hf hk _ _ _ _) _ (Kept.others hk))

theorem engineWord_kept {g : BitVec 4} {mk : Issue → Thread → Except Flt CmdReq} : OutKept s0 (engineWord g mk s) := by
  unfold engineWord
  split
  · exact OutKept.next hk
  · exact OutKept.next (Kept.foldl (fun hk _ => engineOne_kept hk) _ (Kept.others hk))

theorem notifyWord_kept {kind : MsgKind} {g : BitVec 4} {b : BitVec 6} : OutKept s0 (notifyWord kind g b s) := by
  unfold notifyWord
  dsimp only
  split
  · exact OutKept.next hk
  · exact OutKept.next (Kept.others (State.onIssuing_kept hk))

theorem execCvset_kept {g : BitVec 4} {n p : BitVec 6} : OutKept s0 (execCvset g n p s) := by
  unfold execCvset
  dsimp only
  exact OutKept.next (Kept.foldl (fun hk _ => State.applyCvset_kept hk) _ (State.startOps_kept hk))

theorem execMcommit_kept {g : BitVec 4} {n : BitVec 6} : OutKept s0 (execMcommit g n s) := by
  unfold execMcommit
  split
  · exact OutKept.next hk
  · exact OutKept.next (Kept.foldl (fun hk _ => State.commitGroup_kept hk) _ hk)

theorem execMwait_kept {g : BitVec 4} {n : BitVec 6} : OutKept s0 (execMwait g n s) := by
  unfold execMwait
  split
  · exact OutKept.next hk
  · exact OutKept.next (Kept.foldl (fun hk _ => State.tagWait_kept hk) _ hk)

theorem execRet_kept {g : BitVec 4} : OutKept s0 (execRet g s) := by
  unfold execRet
  dsimp only
  split
  · exact OutKept.next hk
  · exact OutKept.next (Kept.foldl (fun hk _ => Kept.ite hk (State.releaseColours_kept hk)) _ (State.onIssuing_kept hk))

theorem execExit_kept {g : BitVec 4} : OutKept s0 (execExit g s) := by
  unfold execExit
  dsimp only
  split
  · exact OutKept.next hk
  · exact OutKept.next (Kept.foldl (fun hk _ => State.exitRecord_kept hk) _ (State.onIssuing_kept hk))

theorem execTqpush_kept {g : BitVec 4} {d : BitVec 6} : OutKept s0 (execTqpush g d s) := by
  unfold execTqpush
  dsimp only
  split
  · exact OutKept.next hk
  · exact opWord_kept hk

theorem execCwait_kept {g : BitVec 4} {b : BitVec 6} : OutKept s0 (execCwait g b s) := by
  unfold execCwait
  dsimp only
  split
  · exact OutKept.next hk
  · exact OutKept.next (Kept.foldl (fun hk _ => State.giveUp_kept hk) _ (State.onIssuing_kept hk))

theorem execClauseStart_kept {w : BitVec 12} {a b : BitVec 4} {_y : BitVec 1} {l : BitVec 3} : OutKept s0 (execClauseStart w a b _y l s) := by
  unfold execClauseStart
  repeat' split
  · exact OutKept.next hk
  · exact OutKept.next (Kept.fst (State.pick_kept (State.schedule_kept hk)) ‹_›)
  · exact OutKept.next (State.startClause_kept (Kept.fst (State.pick_kept (State.schedule_kept hk)) ‹_›))
  · exact OutKept.next (Kept.fst (State.pick_kept (State.schedule_kept hk)) ‹_›)
  · exact OutKept.next (Kept.fst (State.pick_kept (State.schedule_kept hk)) ‹_›)

theorem execTwaitall_kept {g : BitVec 4} {b : BitVec 6} : OutKept s0 (execTwaitall g b s) :=
  tagWord_kept hk fun hk _ _ _ _ => State.tagWait_kept hk

theorem execTwaitany_kept {g : BitVec 4} {b : BitVec 6} : OutKept s0 (execTwaitany g b s) :=
  tagWord_kept hk fun hk _ _ _ _ => Kept.ite (State.reportTags_kept hk) (State.tagWait_kept hk)

theorem execTclr_kept {g : BitVec 4} {b : BitVec 6} : OutKept s0 (execTclr g b s) :=
  tagWord_kept hk fun hk _ _ _ _ => Kept.foldl (fun hk _ => State.emptyTag_kept hk) _ hk

end

end Sys2Proof.Machine
end

section
/-!
SUPPORT. What every step keeps: the events.
-/

namespace Sys2Proof.Machine

open Claim

section
variable {s0 s : State} (hk : Kept s0 s)
include hk

omit hk in
theorem OutKept.orMoveHole {m : Move} {t : State} (ht : Kept s0 t) : OutKept s0 (orMoveHole s m t) := OutKept.orCopyHole ht

/-! The start of a packet. -/

omit hk in
/-- What the start of a packet goes on with. -/
def BegunKept (s0 : State) : Begun → Prop
  | .wait => True
  | .hole _ => True
  | .go s _ _ => Kept s0 s

omit hk in
theorem BegunKept.ite {c : Prop} [Decidable c] {b b' : Begun} (h : BegunKept s0 b) (h' : BegunKept s0 b') : BegunKept s0 (if c then b else b') := by
  split
  · exact h
  · exact h'

omit hk in
theorem BegunKept.go {b : Begun} {t : State} {ended : Bool} {cause : Nat} (h : b = .go t ended cause) (hb : BegunKept s0 b) : Kept s0 t := by
  rw [h] at hb
  exact hb

theorem State.owed_kept {q : HQueue} {idx : Nat} {b : Begun} (hb : BegunKept s0 b) : OutKept s0 (s.owed q idx b) := by
  cases b with
  | wait => exact OutKept.next hk
  | hole f => exact OutKept.fault
  | go t ended cause => exact OutKept.next (State.finishPkt_kept hb)

theorem queueStart_kept {queue idx ty : Nat} {act : HQueue → Begun} (ha : ∀ q, BegunKept s0 (act q)) : OutKept s0 (queueStart queue idx ty act s) := by
  unfold queueStart
  split
  · exact OutKept.next hk
  · next q _ =>
    refine OutKept.ite (OutKept.next hk) (OutKept.ite (OutKept.next (State.startPkt_kept hk)) ?_)
    split
    · exact OutKept.next (State.startPkt_kept hk)
    · exact OutKept.fault
    · next h => exact OutKept.next (State.startPkt_kept (BegunKept.go h (ha q)))

theorem State.atWord_kept {q : HQueue} {a : Nat} {ok : Word → Bool} {reads : Bool} {b : Begun} (hb : BegunKept s0 b) :
    BegunKept s0 (s.atWord q a ok reads b) := by
  unfold State.atWord
  split
  · exact BegunKept.ite hb trivial
  · trivial
  · exact State.meetErrorAt_kept hk
  · exact hk

theorem State.signalEffect_kept {q : HQueue} {idx : Nat} : BegunKept s0 (s.signalEffect q idx) := by
  unfold State.signalEffect
  exact State.atWord_kept hk (BegunKept.ite trivial (State.podAdd_kept hk))

theorem State.markerEffect_kept {q : HQueue} {idx : Nat} : BegunKept s0 (s.markerEffect q idx) := by
  unfold State.markerEffect
  exact BegunKept.ite hk (State.atWord_kept hk (State.homeWrite_kept hk))

theorem execQueueLaunch_kept {queue idx : Nat} : OutKept s0 (execQueueLaunch queue idx s) :=
  queueStart_kept hk fun _ => BegunKept.ite (State.listLaunch_kept hk) trivial

theorem execQueueCopy_kept {queue idx : Nat} : OutKept s0 (execQueueCopy queue idx s) := queueStart_kept hk fun _ => hk

theorem execQueueSignal_kept {queue idx : Nat} : OutKept s0 (execQueueSignal queue idx s) := queueStart_kept hk fun _ => State.signalEffect_kept hk

theorem execQueueWait_kept {queue idx : Nat} : OutKept s0 (execQueueWait queue idx s) := queueStart_kept hk fun _ => State.atWord_kept hk hk

theorem execQueueMarker_kept {queue idx : Nat} : OutKept s0 (execQueueMarker queue idx s) := queueStart_kept hk fun _ => State.markerEffect_kept hk

theorem execQueueTimestamp_kept {queue idx : Nat} : OutKept s0 (execQueueTimestamp queue idx s) := queueStart_kept hk fun _ => State.atWord_kept hk hk

theorem execQueueWaitSatisfied_kept {queue idx : Nat} : OutKept s0 (execQueueWaitSatisfied queue idx s) := by
  unfold execQueueWaitSatisfied
  split
  · exact OutKept.next hk
  · next q _ =>
    refine OutKept.ite (OutKept.next hk) ?_
    split
    · exact OutKept.next hk
    · exact OutKept.fault
    · next h =>
      refine OutKept.next (State.packetEnds_kept ?_)
      exact BegunKept.go h (State.atWord_kept hk (BegunKept.ite (State.podAcquire_kept hk) trivial))

theorem execQueuePacketComplete_kept {queue idx : Nat} : OutKept s0 (execQueuePacketComplete queue idx s) := by
  unfold execQueuePacketComplete
  split
  · exact OutKept.next hk
  · split
    · refine OutKept.ite ?_ (OutKept.next hk)
      dsimp only
      split
      · exact OutKept.next (State.startPkt_kept hk)
      · exact OutKept.next (State.finishPkt_kept (State.startPkt_kept hk))
    · refine OutKept.ite (OutKept.next hk) (OutKept.ite (OutKept.next (State.finishPkt_kept hk)) ?_)
      split
      · exact State.owed_kept hk (State.atWord_kept hk (State.homeWrite_kept (State.readTimestamp_kept hk)))
      · exact OutKept.next (State.finishPkt_kept hk)
      · exact OutKept.ite (OutKept.next (State.listLaunch_kept hk)) (OutKept.next hk)
      · exact OutKept.orMoveHole (State.endQueueCopy_kept hk)
      · exact State.owed_kept hk (State.signalEffect_kept hk)
      · exact State.owed_kept hk (State.markerEffect_kept hk)
      · exact OutKept.next hk

/-! The messages of the monitors. -/

theorem monitorServe_kept {kind : MsgKind} {f : State → Msg → Monitor → State} {msg : Nat} (hf : ∀ {t}, Kept s0 t → ∀ m mon, Kept s0 (f t m mon)) :
    OutKept s0 (monitorServe kind f msg s) := by
  unfold monitorServe
  split
  · exact OutKept.next hk
  · exact OutKept.ite (OutKept.next hk) (OutKept.next (hf (Kept.others hk) _ _))

theorem execMonitorAcquire_kept {msg : Nat} : OutKept s0 (execMonitorAcquire msg s) := by
  refine monitorServe_kept hk fun hk m mon => ?_
  split
  · exact State.reply_kept (State.setMonitor_kept hk)
  · exact State.reply_kept (State.setMonitor_kept hk)

theorem execMonitorRelease_kept {msg : Nat} : OutKept s0 (execMonitorRelease msg s) := monitorServe_kept hk fun hk _ _ => State.passOn_kept hk

theorem execMonitorWait_kept {msg : Nat} : OutKept s0 (execMonitorWait msg s) := monitorServe_kept hk fun hk _ _ => State.passOn_kept hk

theorem execMonitorNotify_kept {msg : Nat} : OutKept s0 (execMonitorNotify msg s) := by
  refine monitorServe_kept hk fun hk m mon => ?_
  split
  · exact hk
  · exact State.setMonitor_kept hk

theorem execMonitorNotifyAll_kept {msg : Nat} : OutKept s0 (execMonitorNotifyAll msg s) := monitorServe_kept hk fun hk _ _ => State.setMonitor_kept hk

/-! The page commands. -/

theorem execMove_kept {w0 w1 w2 w3 : Word} : OutKept s0 (execMove w0 w1 w2 w3 s) := State.serveCmd_kept hk (State.moveCmd_kept hk)

theorem execBias_kept {w0 w1 w2 w3 : Word} : OutKept s0 (execBias w0 w1 w2 w3 s) := State.serveCmd_kept hk (State.biasCmd_kept hk)

theorem execDget_kept {w0 w1 w2 w3 : Word} : OutKept s0 (execDget w0 w1 w2 w3 s) := State.serveCmd_kept hk (State.dgetCmd_kept hk)

theorem execScrub_kept {w0 w1 w2 w3 : Word} : OutKept s0 (execScrub w0 w1 w2 w3 s) := State.serveCmd_kept hk (State.scrubCmd_kept hk)

/-! The other events. -/

theorem execLoadReply_kept {op : Nat} {evict : Bool} : OutKept s0 (execLoadReply op evict s) := by
  unfold execLoadReply
  dsimp only
  repeat' split
  · exact OutKept.next hk
  · exact OutKept.orHole (State.pump_kept (State.deliver_kept (State.performGlobal_kept (State.evictLine_kept hk))))
  · exact OutKept.orHole (State.pump_kept (State.deliver_kept (State.performGlobal_kept hk)))
  · exact OutKept.orHole (State.pump_kept (State.deliver_kept (State.performGlobal_kept hk)))
  · exact OutKept.next (State.pump_kept (State.deliver_kept (State.performScratchLoad_kept hk)))
  · exact OutKept.next (State.pump_kept (State.deliver_kept (State.performScratchLoad_kept hk)))
  · exact OutKept.next hk

theorem execStoreFaultFound_kept {op : Nat} : OutKept s0 (execStoreFaultFound op s) := by
  unfold execStoreFaultFound
  repeat' split
  · exact OutKept.next hk
  · exact OutKept.next (State.storeFault_kept hk)
  · exact OutKept.next hk

theorem execScratchStorePerform_kept {op : Nat} : OutKept s0 (execScratchStorePerform op s) := by
  unfold execScratchStorePerform
  repeat' split
  · exact OutKept.next hk
  · exact OutKept.next (State.pump_kept (State.performScratchStore_kept hk))
  · exact OutKept.next (State.pump_kept (State.performScratchStore_kept hk))
  · exact OutKept.next (State.pump_kept (State.performMwr_kept hk))
  · exact OutKept.next hk

theorem execTranslation_kept {op : Nat} {rewalk : Bool} : OutKept s0 (execTranslation op rewalk s) := by
  unfold execTranslation
  repeat' split
  · exact OutKept.next hk
  · exact OutKept.next hk
  · exact OutKept.orHole (State.pump_kept (State.performGlobal_kept hk))
  · exact OutKept.orHole (State.translated_kept hk)
  · exact OutKept.orHole (State.translated_kept hk)
  · exact OutKept.orHole (State.translated_kept hk)
  · exact OutKept.orHole (State.translated_kept hk)
  · exact OutKept.next hk

theorem execFenceReleaseHeld_kept {op : Nat} : OutKept s0 (execFenceReleaseHeld op s) := by
  unfold execFenceReleaseHeld
  split
  · exact OutKept.next hk
  · exact OutKept.next (State.pump_kept (State.performFence_kept hk))

theorem execAcqrComplete_kept {op : Nat} : OutKept s0 (execAcqrComplete op s) := by
  unfold execAcqrComplete
  dsimp only
  repeat' split
  · exact OutKept.next hk
  · exact OutKept.next hk
  · exact OutKept.next (State.pump_kept (State.finishOp_kept (State.dropL1_kept hk)))
  · exact OutKept.next (State.pump_kept (State.finishOp_kept (State.dropL1_kept (State.dropL1_kept hk))))
  · exact OutKept.next hk

theorem execL1SweepWriteback_kept {core asid line : Nat} : OutKept s0 (execL1SweepWriteback core asid line s) := by
  unfold execL1SweepWriteback
  split
  · exact OutKept.next hk
  · exact OutKept.next (State.sendBack_kept hk)

theorem execWritebackArrival_kept {wb : Nat} : OutKept s0 (execWritebackArrival wb s) := by
  unfold execWritebackArrival
  split
  · exact OutKept.next hk
  · exact OutKept.next (Kept.ite hk (State.wbArrives_kept hk))

theorem execWriteThroughArrival_kept {wt : Nat} : OutKept s0 (execWriteThroughArrival wt s) := by
  unfold execWriteThroughArrival
  split
  · exact OutKept.next hk
  · exact OutKept.next (Kept.ite hk (State.wtArrives_kept hk))

theorem execAtomicPerform_kept {op : Nat} : OutKept s0 (execAtomicPerform op s) := by
  unfold execAtomicPerform
  repeat' split
  · exact OutKept.next hk
  · exact OutKept.next hk
  · exact OutKept.orHole (State.pump_kept (State.performEntry_kept hk))
  · exact OutKept.orHole (State.pump_kept (State.performAtomicG_kept hk))
  · exact OutKept.next (State.pump_kept (State.performAtomicS_kept hk))
  · exact OutKept.next hk

theorem execAtomicReply_kept {op : Nat} : OutKept s0 (execAtomicReply op s) := by
  unfold execAtomicReply
  split
  · exact OutKept.next hk
  · exact OutKept.next (State.pump_kept (State.deliverAtomic_kept hk))

theorem execAtomicBufferDrain_kept {kernel core : Nat} : OutKept s0 (execAtomicBufferDrain kernel core s) := by
  unfold execAtomicBufferDrain
  split
  · exact OutKept.next hk
  · exact OutKept.ite (OutKept.next (State.pump_kept (State.drainAtomics_kept hk))) (OutKept.next hk)

theorem execBarrierBankOp_kept {op : Nat} : OutKept s0 (execBarrierBankOp op s) := by
  unfold execBarrierBankOp
  split
  · exact OutKept.next hk
  · exact OutKept.ite (OutKept.next hk) (OutKept.ite (OutKept.next hk) (OutKept.next (State.pump_kept (State.bankOp_kept hk))))

theorem execNbarPhaseComplete_kept {op : Nat} : OutKept s0 (execNbarPhaseComplete op s) := by
  unfold execNbarPhaseComplete
  dsimp only
  repeat' split
  · exact OutKept.next hk
  · exact OutKept.next hk
  · exact OutKept.next (State.pump_kept (Kept.foldl (fun hk _ => State.endPark_kept (State.dropOp_kept (State.fenceEffect_kept hk))) _
    (State.clearReports_kept (State.sendReports_kept (State.phaseDrain_kept (Kept.foldl (fun hk _ => State.fenceEffect_kept hk) _ hk))))))
  · exact OutKept.next hk

theorem execWaitCountExpiry_kept {core cohort : Nat} : OutKept s0 (execWaitCountExpiry core cohort s) := by
  unfold execWaitCountExpiry
  dsimp only
  repeat' split
  · exact OutKept.next hk
  · exact OutKept.next hk
  · exact OutKept.next hk
  · exact OutKept.next hk
  · exact OutKept.next (State.modCohort_kept (State.modSlot_kept hk))

theorem execCohortSwapComplete_kept {core : Nat} : OutKept s0 (execCohortSwapComplete core s) := by
  unfold execCohortSwapComplete
  repeat' split
  · exact OutKept.next hk
  · exact OutKept.next hk
  · exact OutKept.next (State.modCohort_kept (State.modSlot_kept hk))

theorem execResultLands_kept {core : Nat} : OutKept s0 (execResultLands core s) := by
  unfold execResultLands
  dsimp only
  exact OutKept.next (Kept.others hk)

theorem execThreadSlotFree_kept {thread : Nat} : OutKept s0 (execThreadSlotFree thread s) := by
  unfold execThreadSlotFree
  split
  · exact OutKept.next hk
  · exact OutKept.ite (OutKept.next (State.modThread_kept hk)) (OutKept.next hk)

theorem execCohortRetire_kept {cohort : Nat} : OutKept s0 (execCohortRetire cohort s) := by
  unfold execCohortRetire
  dsimp only
  split
  · exact OutKept.next hk
  · exact OutKept.ite (OutKept.next hk) (OutKept.next (State.modSlot_kept (State.modCohort_kept hk)))

theorem execCopyStart_kept {copy : Nat} : OutKept s0 (execCopyStart copy s) := by
  unfold execCopyStart
  split
  · exact OutKept.next hk
  · exact OutKept.ite (OutKept.next hk) (OutKept.next (State.startCopy_kept hk))

theorem execCopyEnd_kept {copy : Nat} : OutKept s0 (execCopyEnd copy s) := by
  unfold execCopyEnd
  repeat' split
  · exact OutKept.next hk
  · exact OutKept.next hk
  · exact OutKept.next hk
  · exact OutKept.next hk
  · exact OutKept.orCopyHole (State.pump_kept (State.endCopy_kept hk))

theorem execGatherEnd_kept {copy : Nat} : OutKept s0 (execGatherEnd copy s) := by
  unfold execGatherEnd
  repeat' split
  · exact OutKept.next hk
  · exact OutKept.next hk
  · exact OutKept.orCopyHole (State.pump_kept (State.endGather_kept hk))
  · exact OutKept.next hk

theorem execPfrEnd_kept {copy : Nat} : OutKept s0 (execPfrEnd copy s) := by
  unfold execPfrEnd
  dsimp only
  repeat' split
  · exact OutKept.next hk
  · exact OutKept.next (State.finishCopy_kept (State.prefetchGo_kept hk))
  · exact OutKept.next hk

theorem execRingIdleExpiry_kept {group : Nat} : OutKept s0 (execRingIdleExpiry group s) := by
  unfold execRingIdleExpiry
  split
  · exact OutKept.next hk
  · exact OutKept.ite (OutKept.next hk) (OutKept.next (State.modGroup_kept hk))

theorem execFpDivideSqrtComplete_kept {op : Nat} : OutKept s0 (execFpDivideSqrtComplete op s) := by
  unfold execFpDivideSqrtComplete
  repeat' split
  · exact OutKept.next (State.finishOp_kept hk)
  · exact OutKept.next (State.flaggedFault_kept hk)
  · exact OutKept.next hk
  · exact OutKept.next hk

theorem execSignApply_kept {op : Nat} : OutKept s0 (execSignApply op s) := by
  unfold execSignApply
  repeat' split
  · exact OutKept.next hk
  · exact OutKept.next hk
  · exact OutKept.next (State.dropOp_kept (State.modCv_kept hk))
  · exact OutKept.next hk

theorem execCvsetApply_kept {op : Nat} : OutKept s0 (execCvsetApply op s) := by
  unfold execCvsetApply
  exact OutKept.next (State.applyCvset_kept hk)

theorem execEngineCommandStart_kept {cmd : Nat} : OutKept s0 (execEngineCommandStart cmd s) := by
  unfold execEngineCommandStart
  split
  · exact OutKept.next hk
  · exact OutKept.ite (OutKept.next (State.startCmd_kept hk)) (OutKept.next hk)

theorem execTdefComplete_kept {cmd : Nat} : OutKept s0 (execTdefComplete cmd s) := by
  unfold execTdefComplete
  split
  · exact OutKept.next hk
  · exact OutKept.next (State.endTdef_kept hk)

theorem execMldbComplete_kept {cmd : Nat} : OutKept s0 (execMldbComplete cmd s) := by
  unfold execMldbComplete
  dsimp only
  repeat' split
  · exact OutKept.next hk
  · exact OutKept.next (State.faultCmd_kept (State.setWslot_kept hk))
  · exact OutKept.next (State.endCmd_kept (State.setWslot_kept hk))
  · exact OutKept.next hk

theorem execMmqRow_kept {cmd : Nat} : OutKept s0 (execMmqRow cmd s) := by
  unfold execMmqRow
  dsimp only
  repeat' split
  · exact OutKept.next hk
  · exact OutKept.next (State.faultCmd_kept hk)
  · exact OutKept.next (State.rowDone_kept (State.setAccum_kept hk))
  · exact OutKept.next (State.rowDone_kept (State.setAccum_kept hk))
  · exact OutKept.next (State.rowDone_kept (State.setAccum_kept hk))
  · exact OutKept.next (State.rowDone_kept (State.setAccum_kept hk))
  · exact OutKept.next (State.rowDone_kept (State.setAccum_kept hk))
  · exact OutKept.next (State.rowDone_kept (State.setAccum_kept hk))
  · exact OutKept.next (State.rowDone_kept (State.setAccum_kept hk))
  · exact OutKept.next (State.rowDone_kept (State.setAccum_kept hk))
  · exact OutKept.next hk

theorem execMzeroRow_kept {cmd : Nat} : OutKept s0 (execMzeroRow cmd s) := by
  unfold execMzeroRow
  repeat' split
  · exact OutKept.next hk
  · exact OutKept.next (State.rowDone_kept (State.setAccum_kept hk))
  · exact OutKept.next hk

theorem execMxstRow_kept {cmd : Nat} : OutKept s0 (execMxstRow cmd s) := by
  unfold execMxstRow
  dsimp only
  repeat' split
  · exact OutKept.next hk
  · exact OutKept.next hk
  · exact OutKept.next (State.faultCmd_kept hk)
  · exact OutKept.next (State.rowDone_kept (State.regionWrite_kept hk))
  · exact OutKept.next (State.rowDone_kept (State.regionWrite_kept hk))
  · exact OutKept.next hk

theorem execKernelRecordAccept_kept {die : Nat} : OutKept s0 (execKernelRecordAccept die s) := by
  unfold execKernelRecordAccept
  split
  · exact OutKept.next hk
  · exact OutKept.ite (OutKept.next hk) (State.takeRec_kept hk)

theorem execLaunchStatus_kept {op : Nat} : OutKept s0 (execLaunchStatus op s) := by
  unfold execLaunchStatus
  repeat' split
  · exact OutKept.next hk
  · exact OutKept.next hk
  · exact State.launchOp_kept hk
  · exact OutKept.next hk

theorem execGroupPlace_kept : OutKept s0 (execGroupPlace s) := by
  unfold execGroupPlace
  dsimp only
  repeat' split
  · exact OutKept.next (Kept.foldl (fun hk _ => State.tryHandler_kept hk) _ hk)
  · exact OutKept.next (Kept.foldl (fun hk _ => State.tryHandler_kept hk) _ hk)
  · exact OutKept.next (State.placeGroup_kept (Kept.foldl (fun hk _ => State.tryHandler_kept hk) _ hk))

theorem execGroupStart_kept {group : Nat} : OutKept s0 (execGroupStart group s) := by
  unfold execGroupStart
  dsimp only
  split
  · exact OutKept.next hk
  · exact OutKept.ite (OutKept.next hk) (OutKept.next (Kept.ite (Kept.others (State.modGroup_kept (State.startAcquire_kept (State.reclaim_kept hk))))
    (State.modSlot_kept (Kept.others (State.modGroup_kept (State.startAcquire_kept (State.reclaim_kept hk)))))))

theorem execGroupRetire_kept {group : Nat} : OutKept s0 (execGroupRetire group s) := by
  unfold execGroupRetire
  split
  · exact OutKept.next hk
  · exact OutKept.ite (OutKept.next hk) (OutKept.ite (OutKept.next (State.modGroup_kept hk)) (OutKept.next (State.countRetired_kept (State.returnGroup_kept
    (State.groupErrors_kept hk)))))

theorem execKernelRetire_kept {kernel : Nat} : OutKept s0 (execKernelRetire kernel s) := by
  unfold execKernelRetire
  split
  · exact OutKept.next hk
  · exact OutKept.ite (OutKept.next hk) (State.retireKernel_kept hk)

theorem execTqPushApply_kept {op : Nat} : OutKept s0 (execTqPushApply op s) := by
  unfold execTqPushApply
  dsimp only
  repeat' split
  · exact OutKept.next hk
  · exact OutKept.next hk
  · exact OutKept.next (State.pump_kept (State.dropOp_kept (State.modCore_kept (State.fenceEffect_kept hk))))
  · exact OutKept.next hk

theorem execTqPopServe_kept {op : Nat} : OutKept s0 (execTqPopServe op s) := by
  unfold execTqPopServe
  dsimp only
  repeat' split
  · exact OutKept.next hk
  · exact OutKept.next hk
  · exact OutKept.next (State.answerPop_kept (State.fenceEffect_kept (State.modCore_kept hk)))
  · exact OutKept.next (State.modOp_kept hk)
  · exact OutKept.next (State.answerPop_kept hk)
  · exact OutKept.next hk

theorem execTqStealServe_kept {op : Nat} : OutKept s0 (execTqStealServe op s) := by
  unfold execTqStealServe
  dsimp only
  repeat' split
  · exact OutKept.next hk
  · exact OutKept.next (State.answerPop_kept hk)
  · exact OutKept.next hk
  · exact OutKept.next (State.answerPop_kept (State.modCore_kept hk))
  · exact OutKept.next (State.answerPop_kept hk)
  · exact OutKept.next (State.modOp_kept hk)
  · exact OutKept.next hk

theorem execTqpopReply_kept {op : Nat} : OutKept s0 (execTqpopReply op s) := by
  unfold execTqpopReply
  repeat' split
  · exact OutKept.next hk
  · exact OutKept.next (State.finishOp_kept hk)
  · exact OutKept.next hk

theorem execAmArrival_kept {op : Nat} : OutKept s0 (execAmArrival op s) := by
  unfold execAmArrival
  dsimp only
  repeat' split
  · exact OutKept.next hk
  · exact OutKept.next hk
  · exact OutKept.next (State.pump_kept (State.faultOp_kept hk))
  · exact OutKept.next hk
  · exact OutKept.next (State.pump_kept (State.amDeliver_kept (State.fenceEffect_kept hk)))
  · exact OutKept.next hk

theorem execAmsendStatus_kept {op : Nat} : OutKept s0 (execAmsendStatus op s) := by
  unfold execAmsendStatus
  repeat' split
  · exact OutKept.next hk
  · exact OutKept.next (State.fromPeer_kept hk fun hu _ => State.finishOp_kept hu)
  · exact OutKept.next hk

theorem execHandlerGroupPlace_kept {msg : Nat} : OutKept s0 (execHandlerGroupPlace msg s) := by
  unfold execHandlerGroupPlace
  split
  · exact OutKept.next hk
  · exact OutKept.next (State.tryHandler_kept hk)

theorem execContextSlotAssign_kept {core slot asid : Nat} : OutKept s0 (execContextSlotAssign core slot asid s) := by
  unfold execContextSlotAssign
  dsimp only
  split
  · exact OutKept.next hk
  · exact OutKept.ite (OutKept.next hk) (OutKept.next (State.switchOn_kept (State.modCore_kept hk)))

theorem execContextSwitchRequest_kept {core asid : Nat} : OutKept s0 (execContextSwitchRequest core asid s) := by
  unfold execContextSwitchRequest
  exact OutKept.next (State.switchOn_kept (State.modCore_kept hk))

theorem execContextEvict_kept {core asid : Nat} : OutKept s0 (execContextEvict core asid s) := by
  unfold execContextEvict
  dsimp only
  split
  · exact OutKept.next hk
  · exact OutKept.ite (OutKept.next hk) (OutKept.ite (OutKept.next (State.modCore_kept hk)) (OutKept.next (Kept.others (State.modSlot_kept hk))))

theorem execContextSaveComplete_kept {core asid : Nat} : OutKept s0 (execContextSaveComplete core asid s) := by
  unfold execContextSaveComplete
  dsimp only
  split
  · exact OutKept.next hk
  · exact OutKept.ite (OutKept.next hk) (OutKept.next (State.modCore_kept (State.modCtx_kept (Kept.othersPool hk (by rfl)))))

theorem execContextLoadComplete_kept {core asid : Nat} : OutKept s0 (execContextLoadComplete core asid s) := by
  unfold execContextLoadComplete
  dsimp only
  split
  · exact OutKept.ite (OutKept.next hk) (OutKept.next (State.pump_kept (State.switchOn_kept (State.modCtx_kept (State.modSlot_kept (Kept.foldl
    (fun hk _ => State.restoreGroup_kept hk) _ hk))))))
  · exact OutKept.next hk

theorem execSwitchExchangeBegin_kept {core : Nat} : OutKept s0 (execSwitchExchangeBegin core s) := by
  unfold execSwitchExchangeBegin
  dsimp only
  repeat' split
  · exact OutKept.next hk
  · exact OutKept.next hk
  · exact OutKept.next (State.modCore_kept hk)
  · exact OutKept.next (State.switchOn_kept hk)
  · exact OutKept.next hk
  · exact OutKept.next (State.modCore_kept (State.modSlot_kept hk))

theorem execSwitchExchangeEnd_kept {core cycles : Nat} : OutKept s0 (execSwitchExchangeEnd core cycles s) := by
  unfold execSwitchExchangeEnd
  dsimp only
  split
  · exact OutKept.next hk
  · exact OutKept.ite (OutKept.next hk) (OutKept.next (State.pump_kept (State.switchOn_kept (Kept.ite (State.modCore_kept (State.setClock_kept hk))
    (State.resumeEngine_kept (State.modCore_kept (State.setClock_kept hk)))))))

theorem execWeightSlotRestoreDone_kept {core : Nat} : OutKept s0 (execWeightSlotRestoreDone core s) := by
  unfold execWeightSlotRestoreDone
  dsimp only
  split
  · exact OutKept.next (State.modCore_kept hk)
  · exact OutKept.next (Kept.ite (State.resumeEngine_kept (State.modCore_kept hk)) (State.modCore_kept hk))

theorem execContextCreate_kept {asid ptDie ptBase : Nat} {handler : Word} {table : List Nat} {walkArea monArea saveArea fbBase fbLog : Nat} : OutKept s0
    (execContextCreate asid ptDie ptBase handler table walkArea monArea saveArea fbBase fbLog s) := by
  unfold execContextCreate
  dsimp only
  exact OutKept.ite (OutKept.next hk) (OutKept.next (Kept.others hk))

theorem execContextDestroy_kept {asid : Nat} : OutKept s0 (execContextDestroy asid s) := by
  unfold execContextDestroy
  dsimp only
  split
  · exact OutKept.next hk
  · exact OutKept.next (Kept.foldl (fun hk _ => State.unstop_kept hk) _ (State.modCtx_kept (State.dropCtx_kept hk)))

theorem execBulkQueueRegister_kept {die hdr asid : Nat} : OutKept s0 (execBulkQueueRegister die hdr asid s) := by
  unfold execBulkQueueRegister
  dsimp only
  exact OutKept.ite (OutKept.next hk) (OutKept.next (Kept.others (State.meetRead_kept hk)))

theorem execBulkEngineWake_kept {bulk : Nat} : OutKept s0 (execBulkEngineWake bulk s) := by
  unfold execBulkEngineWake
  exact OutKept.next (State.modBulk_kept hk)

theorem execBulkPacketStart_kept {bulk : Nat} : OutKept s0 (execBulkPacketStart bulk s) := by
  unfold execBulkPacketStart
  split
  · exact OutKept.next hk
  · exact OutKept.ite (OutKept.next hk) (OutKept.ite (OutKept.next (State.modBulk_kept hk)) (OutKept.next (State.modBulk_kept (State.meetPkt_kept hk))))

theorem execBulkPacketComplete_kept {bulk idx : Nat} : OutKept s0 (execBulkPacketComplete bulk idx s) := by
  unfold execBulkPacketComplete
  dsimp only
  repeat' split
  · exact OutKept.next hk
  · exact OutKept.next hk
  · exact OutKept.orCopyHole (State.endBulk_kept hk)
  · exact OutKept.orCopyHole (State.endBulk_kept hk)

theorem execQueueRegister_kept {die hdr asid : Nat} : OutKept s0 (execQueueRegister die hdr asid s) := by
  unfold execQueueRegister
  dsimp only
  exact OutKept.ite (OutKept.next hk) (OutKept.next (State.setHdr_kept (Kept.others (State.meetRead_kept hk))))

theorem execQueueDestroy_kept {queue : Nat} : OutKept s0 (execQueueDestroy queue s) := by
  unfold execQueueDestroy
  split
  · exact OutKept.next hk
  · exact OutKept.ite (OutKept.next (State.hostEvent_kept hk)) (OutKept.next (State.modQueue_kept hk))

theorem execQueueMap_kept {queue slot : Nat} : OutKept s0 (execQueueMap queue slot s) := by
  unfold execQueueMap
  dsimp only
  split
  · exact OutKept.next hk
  · exact OutKept.ite (OutKept.next hk) (OutKept.next (State.settleQueue_kept (Kept.others (State.modQueue_kept (State.setHdr_kept (State.meetRead_kept hk))))))

theorem execQueueUnmap_kept {queue : Nat} : OutKept s0 (execQueueUnmap queue s) := by
  unfold execQueueUnmap
  split
  · exact OutKept.next hk
  · exact OutKept.ite (OutKept.next hk) (OutKept.next (State.unmapQueue_kept hk))

theorem execQueueWake_kept {queue : Nat} : OutKept s0 (execQueueWake queue s) := by
  unfold execQueueWake
  repeat' split
  · exact OutKept.next hk
  · exact OutKept.next hk
  · exact OutKept.next (State.eventLine_kept (State.settleQueue_kept (State.setHdr_kept (State.meetRead_kept hk))))

theorem execQueueSlotTimeslice_kept {die : Nat} : OutKept s0 (execQueueSlotTimeslice die s) := by
  unfold execQueueSlotTimeslice
  dsimp only
  repeat' split
  · exact OutKept.next hk
  · exact OutKept.next hk
  · exact OutKept.next (State.unmapQueue_kept hk)

theorem execDivideComplete_kept {op : Nat} : OutKept s0 (execDivideComplete op s) := by
  unfold execDivideComplete
  repeat' split
  · exact OutKept.next (State.finishOp_kept hk)
  · exact OutKept.next hk
  · exact OutKept.next hk

theorem execBisectComplete_kept {op : Nat} : OutKept s0 (execBisectComplete op s) := by
  unfold execBisectComplete
  repeat' split
  · exact OutKept.next hk
  · exact OutKept.next (State.flaggedFault_kept hk)
  · exact OutKept.next (State.bisectDone_kept hk)
  · exact OutKept.next hk
  · exact OutKept.next hk

theorem execKswaitWake_kept {die line : Nat} : OutKept s0 (execKswaitWake die line s) := by
  unfold execKswaitWake
  exact OutKept.ite (OutKept.next hk) (OutKept.next (State.eventLine_kept hk))

theorem execColrLine_kept {op : Nat} : OutKept s0 (execColrLine op s) := by
  unfold execColrLine
  repeat' split
  · exact OutKept.next hk
  · exact OutKept.next hk
  · exact OutKept.next (State.pump_kept (State.colourLine_kept hk))
  · exact OutKept.orHole (State.pump_kept (State.colourLine_kept hk))
  · exact OutKept.next hk

theorem execMonitorGrant_kept {reply : Nat} : OutKept s0 (execMonitorGrant reply s) := by
  unfold execMonitorGrant
  dsimp only
  repeat' split
  · exact OutKept.next hk
  · exact OutKept.next hk
  · exact OutKept.next hk
  · exact OutKept.next (State.pump_kept (State.granted_kept (State.grantAcquire_kept (Kept.others hk))))

theorem execMonitorQueuedReply_kept {reply : Nat} : OutKept s0 (execMonitorQueuedReply reply s) := by
  unfold execMonitorQueuedReply
  dsimp only
  repeat' split
  · exact OutKept.next hk
  · exact OutKept.next hk
  · exact OutKept.next hk
  · exact OutKept.next (Kept.others hk)
  · exact OutKept.next (State.addPark_kept (Kept.others hk))

theorem execColourReleaseSend_kept {rel : Nat} : OutKept s0 (execColourReleaseSend rel s) := by
  unfold execColourReleaseSend
  dsimp only
  split
  · exact OutKept.next hk
  · exact OutKept.ite (OutKept.next hk) (OutKept.next (Kept.others (State.drainDie_kept (State.releaseWrites_kept hk))))

theorem execStrefHomeCheck_kept {op : Nat} : OutKept s0 (execStrefHomeCheck op s) := by
  unfold execStrefHomeCheck
  repeat' split
  · exact OutKept.next hk
  · exact OutKept.orHole (State.pump_kept (State.performGlobal_kept hk))
  · exact OutKept.next hk

theorem execWalkStart_kept {op : Nat} : OutKept s0 (execWalkStart op s) := by
  unfold execWalkStart
  dsimp only
  repeat' split
  · exact OutKept.next hk
  · exact OutKept.next hk
  · exact OutKept.next (Kept.others (State.pubRelease_kept hk))
  · exact OutKept.next hk

theorem execWalkObject_kept {walk : Nat} : OutKept s0 (execWalkObject walk s) := by
  unfold execWalkObject
  repeat' split
  · exact OutKept.next hk
  · exact OutKept.next hk
  · exact State.walkStep_kept hk
  · exact OutKept.next hk

theorem execInval_kept {w0 w1 w2 w3 : Word} : OutKept s0 (execInval w0 w1 w2 w3 s) := by
  unfold execInval
  exact OutKept.ite (OutKept.next (State.refuseCmd_kept hk)) (OutKept.orPageHole (OutKept.next (State.pump_kept (State.rangeDone_kept (State.invalRange_kept hk)))))

theorem execPurge_kept {w0 w1 w2 w3 : Word} : OutKept s0 (execPurge w0 w1 w2 w3 s) := by
  unfold execPurge
  exact OutKept.ite (OutKept.next (State.refuseCmd_kept hk)) (OutKept.orPageHole (OutKept.next (State.pump_kept (State.rangeDone_kept (State.purgeRange_kept hk)))))

theorem execReplay_kept {w0 w1 w2 w3 : Word} : OutKept s0 (execReplay w0 w1 w2 w3 s) := by
  unfold execReplay
  dsimp only
  exact OutKept.ite (OutKept.next (State.refuseCmd_kept hk)) (OutKept.orPageHole (OutKept.next (State.pump_kept (State.endPageCmd_kept (State.replay_kept hk)))))

theorem execDeny_kept {w0 w1 w2 w3 : Word} : OutKept s0 (execDeny w0 w1 w2 w3 s) := by
  unfold execDeny
  exact OutKept.ite (OutKept.next (State.refuseCmd_kept hk)) (OutKept.orPageHole (OutKept.next (State.pump_kept (State.pageDone_kept (State.deny_kept hk)))))

theorem execFaultReadIndexAdvance_kept {asid idx : Nat} : OutKept s0 (execFaultReadIndexAdvance asid idx s) := by
  unfold execFaultReadIndexAdvance
  dsimp only
  split
  · exact OutKept.next hk
  · exact OutKept.ite (OutKept.next hk) (OutKept.next (Kept.foldl (fun hk _ => State.writeHeld_kept hk) _ (Kept.others (State.modCtx_kept hk))))

theorem execMigrationCounterHalve_kept {die : Nat} : OutKept s0 (execMigrationCounterHalve die s) := by
  unfold execMigrationCounterHalve
  dsimp only
  exact OutKept.next (Kept.othersMem hk (by rfl))

theorem execHostMemoryAccess_kept {node addr : Nat} {write : Bool} {data : List Byte} : OutKept s0 (execHostMemoryAccess node addr write data s) := by
  unfold execHostMemoryAccess
  dsimp only
  exact OutKept.ite OutKept.fault (OutKept.ite OutKept.fault (OutKept.ite (OutKept.next hk) (OutKept.ite (OutKept.next (Kept.ite
    (State.holdWrite_kept hk) hk)) (OutKept.next (Kept.ite (State.hostPut_kept hk) (State.meetRange_kept hk))))))

end

end Sys2Proof.Machine
end

section
/-!
SUPPORT. What every step keeps: every instruction and event, issuing and the turns.
-/

namespace Sys2Proof.Machine

open Claim

section
variable {s0 s : State} (hk : Kept s0 s)
include hk

theorem exec_kept {i : Instr} : OutKept s0 (exec i s) := by
  cases i
  case clauseStart w a b y l => exact execClauseStart_kept hk (_y := y)
  case waitCountExpiry => exact execWaitCountExpiry_kept hk
  case resultLands => exact execResultLands_kept hk
  case threadSlotFree => exact execThreadSlotFree_kept hk
  case cohortRetire => exact execCohortRetire_kept hk
  case nop => exact OutKept.next hk
  case yield | dflush => exact cohortWord_kept hk
  case rdclk | rdtags | addW | subW | andW | orW | xorW | andnW | minW | maxW | addD | subD | andD | orD | xorD | andnD | minD | maxD | minuW | maxuW | shlW | shrW
      | sarW | rotW | mulW | mulhW | minuD | maxuD | shlD | shrD | sarD | rotD | mulD | mulhD | addiW | addiD | shliW | shriW | sariW | rotiW | shliD | shriD | sariD
      | rotiD | movi | lea1 | lea2 | lea4 | lea8 | lea16 | macW | macD | mulhuD | mov | not | neg | abs | clzW | clzD | popc | brevD | sextB | sextH | sextW | zextB
      | zextH | zextW | movk | rdsr | movp | bfx | bfxu | bfi | icmpEq | icmpNe | icmpLt | icmpLe | icmpGt | icmpGe | icmpLtu | icmpLeu | icmpGtu | icmpGeu | icmpTst
      | icmpNtst | pand | por | pxor | pnot | pmov | pisu | pist | pset | voteAll | voteAny | ballot | ballotu | shflIdx | shflUp | shflDown | shflXor | sel | randW
      | randD | fcpysS | fcpysD | faddI | fsubI | fmulI | fhullI | fisectI | fminI | fmaxI | faddJ | fsubJ | fmulJ | fhullJ | fisectJ | fminJ | fmaxJ | fmacI | fmscI
      | fnmacI | fnmscI | fmacJ | fmscJ | fnmacJ | fnmscJ | fabsS | fnegS | fclassS | fabsD | fnegD | fclassD | fmovGf | fmovFg | iptS | iptD | iloI | ihiI | imidI
      | iwidI | iloJ | ihiJ | imidJ | iwidJ | fcmpEqI | fcmpNeI | fcmpLtI | fcmpLeI | fcmpGtI | fcmpGeI | fcmpSubI | fcmpDisjI | fcmpContI | fcmpEmptyI | fcmpEqJ
      | fcmpNeJ | fcmpLtJ | fcmpLeJ | fcmpGtJ | fcmpGeJ | fcmpSubJ | fcmpDisjJ | fcmpContJ | fcmpEmptyJ | imakeS | imakeD | iinflI | iinflJ | cbdec | cheld | tfirst
      | trd | rdtr | rdfpc | rdhash => exact fixedWord_kept hk
  case brUt | brUf | br | brUl | jmp | call | jmpr | callr | wrsr | trap | rft | syscall | wrfpc => exact threadWord_kept hk
  case ret => exact execRet_kept hk
  case exit => exact execExit_kept hk
  case divW | divuW | remW | remuW | divD | divuD | remD | remuD | fdivS | fdivD | fdivI | fdivJ | fsqrtS | fsqrtD | bisectI | bisectJ | ldgB | ldgBu | ldgH | ldgHu
      | ldgW | ldgWu | ldgD | ldgQ | stref | ldsB | ldsBu | ldsH | ldsHu | ldsW | ldsWu | ldsD | ldsQ | stsB | stsH | stsW | stsD | stsQ | ldfGS | ldfGD | ldfGI
      | ldfGJ | ldfLS | ldfLD | ldfLI | ldfLJ | stfLS | stfLD | stfLI | stfLJ | acqr | pub | tagof | scopeof | colof | sign | mrd | mwr | stpl | binit | arrive
      | binval | tqpop | amsend | launch => exact opWord_kept hk
  case divideComplete => exact execDivideComplete_kept hk
  case faddS | fsubS | fmulS | fminS | fmaxS | faddD | fsubD | fmulD | fminD | fmaxD | fmacS | fmscS | fnmacS | fnmscS | fmacD | fmscD | fnmacD | fnmscD | frcpS
      | frsqS | fexp2S | flog2S | fsinS | fcosS | frndS | frcpD | frsqD | fexp2D | flog2D | fsinD | fcosD | frndD | fcvtFloat | fcvtToInt | fcvtFromInt | fcvtz
      | fcmpEqS | fcmpNeS | fcmpLtS | fcmpLeS | fcmpGtS | fcmpGeS | fcmpUnS | fcmpOrdS | fcmpEqD | fcmpNeD | fcmpLtD | fcmpLeD | fcmpGtD | fcmpGeD | fcmpUnD
      | fcmpOrdD | hadd2 | hmul2 | hfma2 | badd2 | bmul2 | bfma2 | mxq => exact fpWord_kept hk
  case fpDivideSqrtComplete => exact execFpDivideSqrtComplete_kept hk
  case bisectComplete => exact execBisectComplete_kept hk
  case stgB | stgH | stgW | stgD | stgQ | sthdr | stfGS | stfGD | stfGI | stfGJ | fence | pfl | wbl1 | invl1 | colr => exact pumpedWord_kept hk
  case strefHomeCheck => exact execStrefHomeCheck_kept hk
  case loadReply => exact execLoadReply_kept hk
  case storeFaultFound => exact execStoreFaultFound_kept hk
  case amogAddW | amogAddD | amogMaxW | amogMinW | amogSwapW | amogSwapD | amogCasW | amogCasD | amog2AndD | amog2OrD | amog2XorD | amog2MaxuD | amog2MinuD
      | amog2AndW | amog2OrW | amog2XorW | amogscAddW | amogscAddD | amogscMaxW | amogscMinW | amogscSwapW | amogscSwapD | amogscCasW | amogscCasD | amosAddW
      | amosAddD | amosMaxW | amosMinW | amosSwapW | amosSwapD | amosCasW | amosCasD => exact amoWord_kept hk
  case atomicPerform => exact execAtomicPerform_kept hk
  case atomicReply => exact execAtomicReply_kept hk
  case fenceReleaseHeld => exact execFenceReleaseHeld_kept hk
  case pfr | copy | copym | copyb | gather => exact copyUnitWord_kept hk
  case acqrComplete => exact execAcqrComplete_kept hk
  case colrLine => exact execColrLine_kept hk
  case walkStart => exact execWalkStart_kept hk
  case walkObject => exact execWalkObject_kept hk
  case cwait => exact execCwait_kept hk
  case cnotify | cnotifyall => exact notifyWord_kept hk
  case monitorAcquire => exact execMonitorAcquire_kept hk
  case monitorRelease => exact execMonitorRelease_kept hk
  case monitorWait => exact execMonitorWait_kept hk
  case monitorNotify => exact execMonitorNotify_kept hk
  case monitorNotifyAll => exact execMonitorNotifyAll_kept hk
  case monitorGrant => exact execMonitorGrant_kept hk
  case monitorQueuedReply => exact execMonitorQueuedReply_kept hk
  case colourReleaseSend => exact execColourReleaseSend_kept hk
  case copyStart => exact execCopyStart_kept hk
  case copyEnd => exact execCopyEnd_kept hk
  case gatherEnd => exact execGatherEnd_kept hk
  case pfrEnd => exact execPfrEnd_kept hk
  case ringIdleExpiry => exact execRingIdleExpiry_kept hk
  case twaitall => exact execTwaitall_kept hk
  case twaitany => exact execTwaitany_kept hk
  case tclr => exact execTclr_kept hk
  case tdef | mldb | mmq | mzero | mxst => exact engineWord_kept hk
  case mcommit => exact execMcommit_kept hk
  case mwait => exact execMwait_kept hk
  case cvset => exact execCvset_kept hk
  case signApply => exact execSignApply_kept hk
  case cvsetApply => exact execCvsetApply_kept hk
  case engineCommandStart => exact execEngineCommandStart_kept hk
  case tdefComplete => exact execTdefComplete_kept hk
  case mldbComplete => exact execMldbComplete_kept hk
  case mmqRow => exact execMmqRow_kept hk
  case mzeroRow => exact execMzeroRow_kept hk
  case mxstRow => exact execMxstRow_kept hk
  case bwait | arrivew | nbar => exact waitWord_kept hk
  case barrierBankOp => exact execBarrierBankOp_kept hk
  case nbarPhaseComplete => exact execNbarPhaseComplete_kept hk
  case tqpush => exact execTqpush_kept hk
  case tqPushApply => exact execTqPushApply_kept hk
  case tqPopServe => exact execTqPopServe_kept hk
  case tqStealServe => exact execTqStealServe_kept hk
  case tqpopReply => exact execTqpopReply_kept hk
  case amArrival => exact execAmArrival_kept hk
  case amsendStatus => exact execAmsendStatus_kept hk
  case handlerGroupPlace => exact execHandlerGroupPlace_kept hk
  case launchStatus => exact execLaunchStatus_kept hk
  case atomicBufferDrain => exact execAtomicBufferDrain_kept hk
  case l1SweepWriteback => exact execL1SweepWriteback_kept hk
  case writebackArrival => exact execWritebackArrival_kept hk
  case writeThroughArrival => exact execWriteThroughArrival_kept hk
  case kernelRecordAccept => exact execKernelRecordAccept_kept hk
  case groupPlace =>
    rw [exec]
    exact execGroupPlace_kept hk
  case groupStart => exact execGroupStart_kept hk
  case groupRetire => exact execGroupRetire_kept hk
  case kernelRetire => exact execKernelRetire_kept hk
  case contextSlotAssign => exact execContextSlotAssign_kept hk
  case contextLoadComplete => exact execContextLoadComplete_kept hk
  case contextSwitchRequest => exact execContextSwitchRequest_kept hk
  case switchExchangeBegin => exact execSwitchExchangeBegin_kept hk
  case switchExchangeEnd => exact execSwitchExchangeEnd_kept hk
  case weightSlotRestoreDone => exact execWeightSlotRestoreDone_kept hk
  case contextEvict => exact execContextEvict_kept hk
  case contextSaveComplete => exact execContextSaveComplete_kept hk
  case contextDestroy => exact execContextDestroy_kept hk
  case translation => exact execTranslation_kept hk
  case faultReadIndexAdvance => exact execFaultReadIndexAdvance_kept hk
  case migrationCounterHalve => exact execMigrationCounterHalve_kept hk
  case inval => exact execInval_kept hk
  case purge => exact execPurge_kept hk
  case move => exact execMove_kept hk
  case bias => exact execBias_kept hk
  case replay => exact execReplay_kept hk
  case deny => exact execDeny_kept hk
  case dget => exact execDget_kept hk
  case scrub => exact execScrub_kept hk
  case queueRegister => exact execQueueRegister_kept hk
  case queueDestroy => exact execQueueDestroy_kept hk
  case queueMap => exact execQueueMap_kept hk
  case queueUnmap => exact execQueueUnmap_kept hk
  case queueWake => exact execQueueWake_kept hk
  case queueSlotTimeslice => exact execQueueSlotTimeslice_kept hk
  case queueLaunch => exact execQueueLaunch_kept hk
  case queueCopy => exact execQueueCopy_kept hk
  case queueSignal => exact execQueueSignal_kept hk
  case queueWait => exact execQueueWait_kept hk
  case queueWaitSatisfied => exact execQueueWaitSatisfied_kept hk
  case queueMarker => exact execQueueMarker_kept hk
  case queueTimestamp => exact execQueueTimestamp_kept hk
  case queuePacketComplete => exact execQueuePacketComplete_kept hk
  case bulkEngineWake => exact execBulkEngineWake_kept hk
  case bulkPacketStart => exact execBulkPacketStart_kept hk
  case bulkPacketComplete => exact execBulkPacketComplete_kept hk
  case krfet => exact execKrfet_kept hk
  case kbfx => exact execKbfx_kept hk
  case kswait => exact execKswait_kept hk
  case kswaitWake => exact execKswaitWake_kept hk
  case kdisp => exact execKdisp_kept hk
  case watchdogHeartbeat => exact execWatchdogHeartbeat_kept hk
  case watchdogExpiry => exact execWatchdogExpiry_kept hk
  case powerGood => exact execPowerGood_kept hk
  case imageStartCommand => exact execImageStartCommand_kept hk
  case reducedServiceBegin => exact execReducedServiceBegin_kept hk
  case hbmStackTrained => exact execHbmStackTrained_kept hk
  case fullServiceBegin => exact execFullServiceBegin_kept hk
  case deviceReset => exact execDeviceReset_kept hk
  case powerLimitExceeded => exact execPowerLimitExceeded_kept hk
  case thermalTrip => exact execThermalTrip_kept hk
  case clampSecondStep => exact execClampSecondStep_kept hk
  case clampRestore => exact execClampRestore_kept hk
  case clockChangeApply => exact execClockChangeApply_kept hk
  case powerLimitSet => exact execPowerLimitSet_kept hk
  case rdcSizeSet => exact execRdcSizeSet_kept hk
  case linkEnable => exact execLinkEnable_kept hk
  case linkDisable => exact execLinkDisable_kept hk
  case linkTrained => exact execLinkTrained_kept hk
  case linkTrainingTimeout => exact execLinkTrainingTimeout_kept hk
  case linkReplayFailure => exact execLinkReplayFailure_kept hk
  case linkLockLoss => exact execLinkLockLoss_kept hk
  case hostModuleFail => exact execHostModuleFail_kept hk
  case registerWrite => exact execRegisterWrite_kept hk
  case contextCreate => exact execContextCreate_kept hk
  case bulkQueueRegister => exact execBulkQueueRegister_kept hk
  case hostMemoryAccess => exact execHostMemoryAccess_kept hk
  case clampConditionClear => exact execClampConditionClear_kept hk
  case cohortSwapComplete => exact execCohortSwapComplete_kept hk
  case eventRingReadAdvance => exact execEventRingReadAdvance_kept hk
  case podJobEnrol => exact execPodJobEnrol_kept hk
  case scratchStorePerform => exact execScratchStorePerform_kept hk

/-! Issuing. -/

theorem issueWord_kept {iss : Issue} : OutKept s0 (issueWord s iss) := by
  unfold issueWord
  split
  · exact OutKept.next (State.moveTo_kept hk)
  · next i _ =>
    have hi : OutKept s0 (exec i s) := exec_kept hk
    split
    · next h => exact OutKept.next (State.moveTo_kept (hi _ h))
    · exact hi

theorem State.settleGroup_kept {iss : Issue} : Kept s0 (s.settleGroup iss) := by
  unfold State.settleGroup
  exact Kept.ite hk (State.faultGroup_kept hk)

theorem issueStep_kept {iss : Issue} : OutKept s0 (issueStep s iss) := by
  unfold issueStep
  refine OutKept.ite (issueWord_kept hk) ?_
  extract_lets s1
  have h1 : Kept s0 s1 := State.landGroup_kept hk
  clear_value s1
  split
  · exact OutKept.next (State.moveTo_kept h1)
  · split
    · exact OutKept.next (State.moveTo_kept (State.illegalGroup_kept h1))
    · exact issueWord_kept (State.settleGroup_kept h1)

theorem startStep_kept : OutKept s0 (startStep s) := by
  unfold startStep
  extract_lets core
  have h1 : ∀ {s1 p}, (s.schedule core).pick core = (s1, p) → Kept s0 s1 := fun h => Kept.fst (State.pick_kept (State.schedule_kept hk)) h
  split
  · next h => exact OutKept.next (State.passCycle_kept (h1 h))
  · next h =>
    split
    · split
      · exact OutKept.fault
      · exact exec_kept hk
    · exact OutKept.next (State.startFault_kept (Kept.ite (State.meetErrorAt_kept (h1 h)) (h1 h)))
    · exact OutKept.next (State.startAbsent_kept (h1 h))
    · exact OutKept.fault
    · exact OutKept.next (h1 h)
    · exact OutKept.next (State.passCycle_kept (h1 h))

theorem kilnStep_kept : OutKept s0 (kilnStep s) := by
  unfold kilnStep
  refine OutKept.ite (OutKept.next hk) ?_
  extract_lets k s1
  have h1 : Kept s0 s1 := by
    refine State.setKiln_kept hk fun h => ?_
    dsimp only
    exact hk.kilnCore_zero h
  clear_value s1
  refine State.kilnWord_kept h1 fun x hx => OutKept.ite ?_ (RvWord.run_kept h1 hx)
  split
  · exact exec_kept h1
  · exact RvWord.illegal_kept h1 hx

theorem coreStep_kept : OutKept s0 (coreStep s) := by
  unfold coreStep
  refine OutKept.ite (kilnStep_kept hk) ?_
  split
  · exact issueStep_kept hk
  · exact startStep_kept hk

/-! Turns. -/

theorem firstEvent_kept {es : List Instr} {o : Out} (h : firstEvent s es = some o) : OutKept s0 o := by
  induction es with
  | nil => cases h
  | cons e es ih =>
    rw [firstEvent] at h
    have he : OutKept s0 (exec e s) := exec_kept hk
    split at h
    · next hn =>
      split at h
      · exact ih h
      · cases h
        exact OutKept.next (he _ hn)
    · cases h
      exact he

theorem State.carryOn_kept : OutKept s0 s.carryOn := by
  unfold State.carryOn
  refine OutKept.ite (coreStep_kept hk) ?_
  split
  · next h => exact firstEvent_kept hk h
  · split
    · exact coreStep_kept (Kept.others (State.keepPace_kept hk))
    · exact OutKept.next (State.idle_kept hk)

theorem selfStep_kept : OutKept s0 (selfStep s) := by
  unfold selfStep
  refine OutKept.ite (kilnStep_kept hk) (OutKept.ite (OutKept.next (State.idle_kept hk)) (State.carryOn_kept (State.dropReserved_kept hk)))

theorem agentStep_kept {a : Agent} : OutKept s0 (agentStep a s) := by
  unfold agentStep
  split
  · exact OutKept.ite (exec_kept (State.dropReserved_kept hk)) (OutKept.next hk)
  · exact OutKept.ite (coreStep_kept (Kept.others hk)) (OutKept.ite (coreStep_kept (Kept.others (State.dropReserved_kept hk))) (OutKept.next hk))
  · exact OutKept.next (State.evictFromL1_kept hk)
  · exact OutKept.next (State.evictFromL2_kept hk)
  · exact OutKept.next (Kept.ite (State.strikeLine_kept hk) hk)
  · exact OutKept.next (Kept.ite (State.strikePool_kept hk) hk)
  · exact OutKept.next (State.countReplay_kept hk)
  · exact OutKept.next (State.irqWindowOver_kept hk)
  · exact OutKept.next (Kept.ite (State.bindJob_kept hk) hk)
  · exact State.loadImage_kept (State.dropReserved_kept hk)
  · exact OutKept.next (State.podReport_kept hk)
  · exact OutKept.next (State.peerRequest_kept (State.dropReserved_kept hk))
  · exact OutKept.next (Kept.ite (State.loadSnapshot_kept hk) hk)

end

/-- A step keeps what is kept. -/
theorem step_kept {s t : State} (h : step s = .next t) : Kept s t := by
  unfold step at h
  refine afterOut_kept ?_ t h
  split
  · exact agentStep_kept (Kept.others (Kept.refl s))
  · exact selfStep_kept (Kept.refl s)

theorem canonical_iff (l : List Host.Cell) : canonical l ↔ cellsWf l = true := (cellsWf_iff l).symm

theorem storesCanonical_iff (s : State) : storesCanonical s ↔ Memory.wf s = true := by
  simp only [storesCanonical, canonical_iff, Memory.wf, Bool.and_eq_true, and_assoc]

/-- Settles O31: one lemma for every operation of the state says that it keeps the bounds; x0 of a Kiln core is written by no result, a clamp's steps and
clock and a link's rate only as the bounds allow. -/
theorem deviceBoundsKept : Obligations.DeviceBoundsKept := by
  unfold Obligations.DeviceBoundsKept
  intro s t hs h
  exact (step_kept h).2 hs

/-- Settles O32: stores are only written through `cellsWrite`, filtered, or replaced by others that are in form. -/
theorem storesStayCanonical : Obligations.StoresStayCanonical := by
  unfold Obligations.StoresStayCanonical
  intro s t hs h
  exact (storesCanonical_iff t).2 ((step_kept h).1 ((storesCanonical_iff s).1 hs))

end Sys2Proof.Machine
end

section
/-!
SUPPORT. The finite values of a format in their order (R25): the bits of a magnitude, read as a number, are its place among the magnitudes that the format holds.
-/

namespace Sys2Proof.Machine

open Claim

/-- A format with infinities: R25's but for E4M3. -/
structure Fmt.Plain (F : Fmt) : Prop where
  noE4 : F.e4m3 = false
  ebits : 2 ≤ F.ebits
  fbits : 1 ≤ F.fbits

theorem Fmt.plain_of_mem {F : Fmt} (h : F ∈ [Fmt.s, .d, .h, .bf, .e5]) : F.Plain := by
  simp only [List.mem_cons, List.not_mem_nil, or_false] at h
  rcases h with rfl | rfl | rfl | rfl | rfl <;> exact ⟨rfl, by decide, by decide⟩

theorem Fmt.plain_of_arith {F : Fmt} (h : F ∈ arithFmts) : F.Plain := by
  refine Fmt.plain_of_mem ?_
  simp only [arithFmts, List.mem_cons, List.not_mem_nil, or_false] at h ⊢
  tauto

/-- The sign bit of a sign. -/
def Fmt.signOf (F : Fmt) (neg : Bool) : Nat := if neg then 2 ^ F.signBit else 0

/-- The exponent of the last place of the subnormal numbers. -/
def Fmt.xmin (F : Fmt) : Int := F.emin - F.fbits

/-- The magnitude with the bits N, where an exponent field of all ones is taken as any other. -/
def Fmt.ordVal (F : Fmt) (N : Nat) : ℚ :=
  if N < 2 ^ F.fbits then N * (2 : ℚ) ^ F.xmin
  else ((2 ^ F.fbits + N % 2 ^ F.fbits : Nat) : ℚ) * (2 : ℚ) ^ (F.xmin + ((N / 2 ^ F.fbits : Nat) : Int) - 1)

/-- A significand q at an exponent j places above the least: its number in the order. -/
theorem Fmt.ordVal_normal (F : Fmt) (j q : Nat) (hq : 2 ^ F.fbits ≤ q) (hq2 : q ≤ 2 ^ (F.fbits + 1)) :
    F.ordVal (j * 2 ^ F.fbits + q) = q * (2 : ℚ) ^ (F.xmin + j) := by
  have hp : 0 < 2 ^ F.fbits := Nat.pow_pos (by decide)
  rw [pow_succ] at hq2
  have hge : ¬ j * 2 ^ F.fbits + q < 2 ^ F.fbits := by
    have := Nat.zero_le (j * 2 ^ F.fbits)
    omega
  rw [Fmt.ordVal, if_neg hge]
  obtain ⟨r, rfl⟩ := Nat.exists_eq_add_of_le hq
  rcases Nat.lt_or_ge r (2 ^ F.fbits) with hr | hr
  · have e : j * 2 ^ F.fbits + (2 ^ F.fbits + r) = r + (j + 1) * 2 ^ F.fbits := by ring
    have hm : (r + (j + 1) * 2 ^ F.fbits) % 2 ^ F.fbits = r := by rw [Nat.add_mul_mod_self_right, Nat.mod_eq_of_lt hr]
    have hd : (r + (j + 1) * 2 ^ F.fbits) / 2 ^ F.fbits = j + 1 := by rw [Nat.add_mul_div_right _ _ hp, Nat.div_eq_of_lt hr, Nat.zero_add]
    rw [e, hm, hd]
    congr 2
    push_cast
    ring
  · have hr' : r = 2 ^ F.fbits := by omega
    subst hr'
    have e : j * 2 ^ F.fbits + (2 ^ F.fbits + 2 ^ F.fbits) = (j + 2) * 2 ^ F.fbits := by ring
    rw [e, Nat.mul_mod_left, Nat.mul_div_cancel _ hp]
    have h2 : (2 : ℚ) ^ (F.xmin + ((j + 2 : Nat) : Int) - 1) = 2 * (2 : ℚ) ^ (F.xmin + j) := by
      rw [← zpow_one_add₀ (by norm_num : (2 : ℚ) ≠ 0)]
      congr 1
      push_cast
      ring
    rw [h2]
    push_cast
    ring

/-- A significand q at the least exponent. -/
theorem Fmt.ordVal_low (F : Fmt) (q : Nat) (hq : q ≤ 2 ^ (F.fbits + 1)) : F.ordVal q = q * (2 : ℚ) ^ F.xmin := by
  rcases Nat.lt_or_ge q (2 ^ F.fbits) with h | h
  · rw [Fmt.ordVal, if_pos h]
  · have := F.ordVal_normal 0 q h hq
    simpa using this

/-- Every number is that of a significand at an exponent. -/
theorem Fmt.ord_cases (F : Fmt) (N : Nat) :
    N < 2 ^ F.fbits ∨ ∃ j q, N = j * 2 ^ F.fbits + q ∧ 2 ^ F.fbits ≤ q ∧ q < 2 ^ (F.fbits + 1) := by
  have hp : 0 < 2 ^ F.fbits := Nat.pow_pos (by decide)
  rcases Nat.lt_or_ge N (2 ^ F.fbits) with h | h
  · exact Or.inl h
  · refine Or.inr ⟨N / 2 ^ F.fbits - 1, 2 ^ F.fbits + N % 2 ^ F.fbits, ?_, Nat.le_add_right _ _, ?_⟩
    · have h1 : 1 ≤ N / 2 ^ F.fbits := (Nat.one_le_div_iff hp).2 h
      have h2 := Nat.div_add_mod N (2 ^ F.fbits)
      obtain ⟨k, hk⟩ := Nat.exists_eq_add_of_le h1
      rw [hk, Nat.add_sub_cancel_left]
      rw [hk] at h2
      linarith
    · have := Nat.mod_lt N hp
      rw [pow_succ]
      omega

theorem Fmt.ordVal_lt_succ (F : Fmt) (N : Nat) : F.ordVal N < F.ordVal (N + 1) := by
  have h2 : ∀ x : Int, (0 : ℚ) < 2 ^ x := fun x => zpow_pos (by norm_num) x
  rcases F.ord_cases N with h | ⟨j, q, rfl, hq, hq2⟩
  · rw [F.ordVal_low N (by rw [pow_succ]; omega), F.ordVal_low (N + 1) (by rw [pow_succ]; omega)]
    refine mul_lt_mul_of_pos_right ?_ (h2 _)
    exact_mod_cast Nat.lt_succ_self N
  · rw [F.ordVal_normal j q hq (le_of_lt hq2), Nat.add_assoc, F.ordVal_normal j (q + 1) (by omega) hq2]
    refine mul_lt_mul_of_pos_right ?_ (h2 _)
    exact_mod_cast Nat.lt_succ_self q

theorem Fmt.ordVal_strictMono (F : Fmt) : StrictMono F.ordVal := strictMono_nat_of_lt_succ F.ordVal_lt_succ

theorem Fmt.ordVal_zero (F : Fmt) : F.ordVal 0 = 0 := by
  rw [F.ordVal_low 0 (Nat.zero_le _)]
  simp

/-! ### Bits -/

section
variable {F : Fmt} (hF : F.Plain)
include hF

omit hF in
theorem Fmt.infBits_lt (F : Fmt) : F.infBits < 2 ^ F.signBit := by
  have hp : 0 < 2 ^ F.fbits := Nat.pow_pos (by decide)
  have he : 0 < 2 ^ F.ebits := Nat.pow_pos (by decide)
  unfold Fmt.infBits Fmt.signBit
  rw [pow_add]
  exact Nat.mul_lt_mul_of_pos_right (by omega) hp

theorem Fmt.Plain.maxBits_succ : F.maxBits + 1 = F.infBits := by
  have hp : 0 < 2 ^ F.fbits := Nat.pow_pos (by decide)
  have he : 2 ^ 2 ≤ 2 ^ F.ebits := Nat.pow_le_pow_right (by decide) hF.ebits
  have : 0 < (2 ^ F.ebits - 1) * 2 ^ F.fbits := Nat.mul_pos (by omega) hp
  simp only [Fmt.maxBits, Fmt.infBits, hF.noE4, Bool.false_eq_true, if_false]
  omega

omit hF in
/-- The fields of a sign and a magnitude. -/
theorem Fmt.fields (F : Fmt) (neg : Bool) {N : Nat} (hN : N < 2 ^ F.signBit) :
    ((F.signOf neg + N) / 2 ^ F.signBit % 2 == 1) = neg ∧ (F.signOf neg + N) / 2 ^ F.fbits % 2 ^ F.ebits = N / 2 ^ F.fbits ∧
    (F.signOf neg + N) % 2 ^ F.fbits = N % 2 ^ F.fbits := by
  have hp : 0 < 2 ^ F.fbits := Nat.pow_pos (by decide)
  have hs : 2 ^ F.signBit = 2 ^ F.ebits * 2 ^ F.fbits := by rw [Fmt.signBit, pow_add]
  have hq : N / 2 ^ F.fbits < 2 ^ F.ebits := by rwa [Nat.div_lt_iff_lt_mul hp, ← hs]
  cases neg with
  | false =>
    simp only [Fmt.signOf, Bool.false_eq_true, if_false, Nat.zero_add]
    refine ⟨?_, Nat.mod_eq_of_lt hq, trivial⟩
    rw [Nat.div_eq_of_lt hN]
    rfl
  | true =>
    simp only [Fmt.signOf, if_true]
    refine ⟨?_, ?_, ?_⟩
    · rw [Nat.add_div_left _ (Nat.pow_pos (by decide)), Nat.div_eq_of_lt hN]
      rfl
    · rw [hs, Nat.add_comm, Nat.add_mul_div_right _ _ hp, Nat.add_mod_right, Nat.mod_eq_of_lt hq]
    · rw [hs, Nat.add_comm, Nat.add_mul_mod_self_right]

/-- A finite magnitude's bits. -/
theorem Fmt.Plain.decode_ord {N : Nat} (hN : N < F.infBits) (neg : Bool) :
    ∃ m e, F.decode (F.signOf neg + N) = .fin neg m e ∧ (m : ℚ) * (2 : ℚ) ^ e = F.ordVal N := by
  have hp : 0 < 2 ^ F.fbits := Nat.pow_pos (by decide)
  obtain ⟨h1, h2, h3⟩ := F.fields neg (lt_trans hN F.infBits_lt)
  have hex : N / 2 ^ F.fbits ≠ 2 ^ F.ebits - 1 := by
    have : N / 2 ^ F.fbits < 2 ^ F.ebits - 1 := (Nat.div_lt_iff_lt_mul hp).2 hN
    omega
  simp only [Fmt.decode, h1, h2, h3, hF.noE4, Bool.false_eq_true, if_false, if_neg hex]
  rcases Nat.lt_or_ge N (2 ^ F.fbits) with h | h
  · rw [if_pos (Nat.div_eq_of_lt h)]
    refine ⟨_, _, rfl, ?_⟩
    rw [Nat.mod_eq_of_lt h, F.ordVal_low N (by rw [pow_succ]; omega), Fmt.xmin]
  · have h0 : N / 2 ^ F.fbits ≠ 0 := Nat.pos_iff_ne_zero.1 (Nat.div_pos h hp)
    rw [if_neg h0]
    refine ⟨_, _, rfl, ?_⟩
    rw [Fmt.ordVal, if_neg (Nat.not_lt.2 h)]
    congr 2
    rw [Fmt.xmin, Fmt.emin]
    ring

/-- The bits of an infinity. -/
theorem Fmt.Plain.decode_inf (neg : Bool) : F.decode (F.signOf neg + F.infBits) = .inf neg := by
  have hp : 0 < 2 ^ F.fbits := Nat.pow_pos (by decide)
  obtain ⟨h1, h2, h3⟩ := F.fields neg F.infBits_lt
  have hd : F.infBits / 2 ^ F.fbits = 2 ^ F.ebits - 1 := Nat.mul_div_cancel _ hp
  have hm : F.infBits % 2 ^ F.fbits = 0 := Nat.mul_mod_left _ _
  simp only [Fmt.decode, h1, h2, h3, hd, hm, hF.noE4, Bool.false_eq_true, if_false, if_true]

/-- The bits of a finite value are its sign and the number of its magnitude. -/
theorem Fmt.Plain.ord_of_decode {b : Nat} (hb : b < 2 ^ (F.ebits + F.fbits + 1)) {n : Bool} {m : Nat} {e : Int} (h : F.decode b = .fin n m e) :
    ∃ N, N < F.infBits ∧ b = F.signOf n + N ∧ (m : ℚ) * (2 : ℚ) ^ e = F.ordVal N := by
  have hp : 0 < 2 ^ F.fbits := Nat.pow_pos (by decide)
  have hs : 0 < 2 ^ F.signBit := Nat.pow_pos (by decide)
  have hb' : b / 2 ^ F.signBit < 2 := by
    rw [Nat.div_lt_iff_lt_mul hs, ← pow_succ']
    exact hb
  obtain ⟨neg, hneg⟩ : ∃ neg, b = F.signOf neg + b % 2 ^ F.signBit := by
    have h2 := Nat.div_add_mod b (2 ^ F.signBit)
    rcases Nat.lt_or_ge (b / 2 ^ F.signBit) 1 with h1 | h1
    · refine ⟨false, ?_⟩
      rw [Nat.lt_one_iff.1 h1, Nat.mul_zero] at h2
      simp only [Fmt.signOf, Bool.false_eq_true, if_false]
      omega
    · refine ⟨true, ?_⟩
      have h3 : b / 2 ^ F.signBit = 1 := by omega
      rw [h3, Nat.mul_one] at h2
      simp only [Fmt.signOf, if_true]
      omega
  have hN : b % 2 ^ F.signBit < 2 ^ F.signBit := Nat.mod_lt _ hs
  generalize b % 2 ^ F.signBit = N at hneg hN
  subst hneg
  have hfin : N < F.infBits := by
    by_contra hge
    obtain ⟨h1, h2, h3⟩ := F.fields neg hN
    have hd : N / 2 ^ F.fbits = 2 ^ F.ebits - 1 := by
      have hlo : 2 ^ F.ebits - 1 ≤ N / 2 ^ F.fbits := (Nat.le_div_iff_mul_le hp).2 (Nat.not_lt.1 hge)
      have hhi : N / 2 ^ F.fbits < 2 ^ F.ebits := by
        rw [Nat.div_lt_iff_lt_mul hp, ← pow_add]
        exact hN
      omega
    simp only [Fmt.decode, h1, h2, h3, hd, hF.noE4, Bool.false_eq_true, if_false, if_true] at h
    split at h
    · cases h
    · cases h
  obtain ⟨m', e', hd, hv⟩ := hF.decode_ord hfin neg
  rw [hd] at h
  cases h
  exact ⟨N, hfin, rfl, hv⟩

end

end Sys2Proof.Machine
end

section
/-!
SUPPORT. Rounding to a multiple of a power of two (R29), read off the exact number.
-/

namespace Sys2Proof.Machine

open Claim

theorem two_zpow_pos (x : Int) : (0 : ℚ) < 2 ^ x := zpow_pos (by norm_num) x

theorem two_zpow_add (x y : Int) : (2 : ℚ) ^ (x + y) = 2 ^ x * 2 ^ y := zpow_add₀ (by norm_num) x y

theorem two_zpow_le {x y : Int} (h : x ≤ y) : (2 : ℚ) ^ x ≤ 2 ^ y := zpow_le_zpow_right₀ (by norm_num) h

theorem two_zpow_lt {x y : Int} (h : x < y) : (2 : ℚ) ^ x < 2 ^ y := zpow_lt_zpow_right₀ (by norm_num) h

/-- Whether a number of places is rounded to the next whole one. -/
def sideUp (x : Claim.Side) (y : ℚ) : Bool :=
  match x with
  | .near => decide (1 / 2 < y - ⌊y⌋₊) || (decide (y - ⌊y⌋₊ = 1 / 2) && ⌊y⌋₊ % 2 == 1)
  | .trunc => false
  | .away => decide (y ≠ ⌊y⌋₊)

/-- A number of places rounded to a whole one. -/
def sideRound (x : Claim.Side) (y : ℚ) : Nat := if sideUp x y then ⌊y⌋₊ + 1 else ⌊y⌋₊

theorem floor_le_sideRound (x : Claim.Side) (y : ℚ) : ⌊y⌋₊ ≤ sideRound x y := by
  unfold sideRound
  split <;> omega

theorem sideRound_le (x : Claim.Side) (y : ℚ) : sideRound x y ≤ ⌊y⌋₊ + 1 := by
  unfold sideRound
  split <;> omega

/-- A whole number stays as it is. -/
theorem sideRound_whole (x : Claim.Side) {y : ℚ} (h : y = ⌊y⌋₊) : sideRound x y = ⌊y⌋₊ := by
  have hz : y - ⌊y⌋₊ = 0 := sub_eq_zero.2 h
  have hu : sideUp x y = false := by
    cases x with
    | near =>
      simp only [sideUp, hz]
      norm_num
    | trunc => rfl
    | away => simp only [sideUp, ne_eq, ← h, not_true, decide_false]
  simp [sideRound, hu]

/-- What the model asks of the kept part q, the remainder r of 2^k and what is lost below is what the exact number asks. The lost part
is less than a unit 2^p of which the number that is cut is a multiple, and half a place too. -/
theorem roundsUp_eq {mode : RMode} {neg : Bool} {q r k p c : Nat} {sticky : Bool} {f : ℚ} (hr : r = c * 2 ^ p) (hrk : r < 2 ^ k) (hpk : p < k) (h0 : 0 ≤ f)
    (h1 : f < 2 ^ p) (hs : sticky = true ↔ f ≠ 0) :
    ⌊(q : ℚ) + (r + f) / 2 ^ k⌋₊ = q ∧ roundsUp mode neg q r k sticky = sideUp (sideOf mode neg) ((q : ℚ) + (r + f) / 2 ^ k) ∧
    (r != 0 || sticky) = decide ((q : ℚ) + (r + f) / 2 ^ k ≠ q) := by
  obtain ⟨d, rfl⟩ := Nat.exists_eq_add_of_lt hpk
  have hp : (0 : ℚ) < 2 ^ p := by positivity
  have hk : (0 : ℚ) < 2 ^ (p + d + 1) := by positivity
  have hc : c < 2 ^ (d + 1) := by
    rw [hr, show p + d + 1 = (d + 1) + p by ring, pow_add] at hrk
    exact Nat.lt_of_mul_lt_mul_right hrk
  have hcq : (c : ℚ) + 1 ≤ 2 ^ (d + 1) := by exact_mod_cast hc
  have hrf0 : 0 ≤ ((r : ℚ) + f) / 2 ^ (p + d + 1) := by positivity
  have hrf1 : ((r : ℚ) + f) / 2 ^ (p + d + 1) < 1 := by
    rw [div_lt_one hk, hr, show p + d + 1 = (d + 1) + p by ring, pow_add]
    push_cast
    nlinarith
  have hfl : ⌊(q : ℚ) + (r + f) / 2 ^ (p + d + 1)⌋₊ = q := by
    rw [Nat.floor_eq_iff (by positivity)]
    constructor <;> linarith
  have hz : (q : ℚ) + (r + f) / 2 ^ (p + d + 1) ≠ q ↔ r ≠ 0 ∨ f ≠ 0 := by
    rw [Ne, add_eq_left, div_eq_zero_iff, or_iff_left hk.ne']
    constructor
    · intro h
      by_contra hn
      rw [not_or, not_not, not_not] at hn
      exact h (by rw [hn.1, hn.2]; simp)
    · rintro (h | h) he
      · have : (0 : ℚ) < r := by exact_mod_cast Nat.pos_of_ne_zero h
        linarith
      · have : (0 : ℚ) ≤ r := Nat.cast_nonneg r
        exact h (by linarith)
  have hinex : (r != 0 || sticky) = decide ((q : ℚ) + (r + f) / 2 ^ (p + d + 1) ≠ q) := by
    rw [Bool.eq_iff_iff]
    simp only [Bool.or_eq_true, bne_iff_ne, hs, decide_eq_true_eq]
    exact hz.symm
  refine ⟨hfl, ?_, hinex⟩
  have hhalf : (q : ℚ) + (r + f) / 2 ^ (p + d + 1) - q = (r + f) / 2 ^ (p + d + 1) := add_sub_cancel_left _ _
  have hmid : ((r : ℚ) + f) / 2 ^ (p + d + 1) = 1 / 2 ↔ (r : ℚ) + f = 2 ^ (p + d) := by
    rw [div_eq_iff hk.ne', pow_succ]
    constructor <;> intro h <;> linarith
  have hgt : 1 / 2 < ((r : ℚ) + f) / 2 ^ (p + d + 1) ↔ (2 : ℚ) ^ (p + d) < r + f := by
    rw [lt_div_iff₀ hk, pow_succ]
    constructor <;> intro h <;> linarith
  -- the remainder lies a whole unit below half a place, or at or above it
  have hcmp : r < 2 ^ (p + d) → (r : ℚ) + f < 2 ^ (p + d) := by
    intro h
    rw [hr, Nat.add_comm p d, pow_add] at h
    have hcd : (c : ℚ) + 1 ≤ 2 ^ d := by exact_mod_cast Nat.lt_of_mul_lt_mul_right h
    rw [hr, Nat.add_comm p d, pow_add]
    push_cast
    nlinarith
  have hcast : ∀ h : r = 2 ^ (p + d), (r : ℚ) = 2 ^ (p + d) := fun h => by exact_mod_cast congrArg (Nat.cast (R := ℚ)) h
  cases mode with
  | rne =>
    simp only [roundsUp, sideOf, sideUp, hfl, hhalf]
    rw [if_neg (by omega), Nat.add_sub_cancel, Bool.eq_iff_iff]
    simp only [Bool.or_eq_true, Bool.and_eq_true, decide_eq_true_eq, beq_iff_eq, hs, hgt, hmid]
    rcases Nat.lt_trichotomy r (2 ^ (p + d)) with h | h | h
    · have := hcmp h
      constructor
      · rintro (h' | ⟨h', -⟩) <;> omega
      · rintro (h' | ⟨h', -⟩) <;> linarith
    · have hq := hcast h
      constructor
      · rintro (h' | ⟨-, hf | hodd⟩)
        · omega
        · exact Or.inl (by rw [hq]; exact lt_add_of_pos_right _ (lt_of_le_of_ne h0 (Ne.symm hf)))
        · rcases eq_or_ne f 0 with hf | hf
          · exact Or.inr ⟨by rw [hq, hf, add_zero], hodd⟩
          · exact Or.inl (by rw [hq]; exact lt_add_of_pos_right _ (lt_of_le_of_ne h0 (Ne.symm hf)))
      · rintro (h' | ⟨-, hodd⟩)
        · exact Or.inr ⟨h, Or.inl (by intro hf; rw [hq, hf, add_zero] at h'; exact lt_irrefl _ h')⟩
        · exact Or.inr ⟨h, Or.inr hodd⟩
    · have hq : (2 : ℚ) ^ (p + d) < r := by exact_mod_cast h
      exact ⟨fun _ => Or.inl (by linarith), fun _ => Or.inl h⟩
  | rtz => rfl
  | rup =>
    simp only [roundsUp, sideOf, hinex]
    cases neg with
    | true => simp [sideUp]
    | false => simp only [Bool.not_false, Bool.and_true, Bool.false_eq_true, if_false, sideUp, hfl]
  | rdn =>
    simp only [roundsUp, sideOf, hinex]
    cases neg with
    | true => simp only [Bool.and_true, if_true, sideUp, hfl]
    | false => simp [sideUp]

/-- Rounding at a place above the last one of the number: the number is (m + f)·2^e, f what is lost below. -/
theorem roundAt_eq {mode : RMode} {neg : Bool} {m : Nat} {e t : Int} {sticky : Bool} {f : ℚ} {p : Nat} (hm : 2 ^ p ∣ m) (ht : e + p < t) (h0 : 0 ≤ f)
    (h1 : f < 2 ^ p) (hs : sticky = true ↔ f ≠ 0) :
    roundAt mode neg m e sticky t =
      (sideRound (sideOf mode neg) ((m + f) * 2 ^ e / 2 ^ t), decide ((m + f) * 2 ^ e / 2 ^ t ≠ (⌊((m : ℚ) + f) * 2 ^ e / 2 ^ t⌋₊ : ℚ))) := by
  obtain ⟨k, rfl⟩ : ∃ k : Nat, t = e + k := ⟨(t - e).toNat, by omega⟩
  have hk : ((e + k - e : Int)).toNat = k := by omega
  have hpk : p < k := by omega
  have hr : ∃ c, m % 2 ^ k = c * 2 ^ p := by
    obtain ⟨c, hc⟩ := (Nat.dvd_mod_iff (pow_dvd_pow 2 (le_of_lt hpk))).2 hm
    exact ⟨c, by rw [hc, Nat.mul_comm]⟩
  obtain ⟨c, hc⟩ := hr
  have hy : ((m : ℚ) + f) * 2 ^ e / 2 ^ (e + (k : Int)) = ((m / 2 ^ k : Nat) : ℚ) + ((m % 2 ^ k : Nat) + f) / 2 ^ k := by
    have hmq : (m : ℚ) = ((m / 2 ^ k : Nat) : ℚ) * 2 ^ k + ((m % 2 ^ k : Nat) : ℚ) := by
      have := Nat.div_add_mod m (2 ^ k)
      have hq : ((2 ^ k * (m / 2 ^ k) + m % 2 ^ k : Nat) : ℚ) = m := by rw [this]
      push_cast at hq ⊢
      linarith
    have hpk' : (2 : ℚ) ^ k ≠ 0 := by positivity
    have hpe : (2 : ℚ) ^ e ≠ 0 := (two_zpow_pos e).ne'
    rw [two_zpow_add, zpow_natCast, hmq]
    field_simp
    ring
  obtain ⟨hfl, hup, hin⟩ := roundsUp_eq (mode := mode) (neg := neg) (q := m / 2 ^ k) hc (Nat.mod_lt _ (Nat.pow_pos (by decide))) hpk h0 h1 hs
  have hsub : m - m / 2 ^ k * 2 ^ k = m % 2 ^ k := by
    have := Nat.div_add_mod m (2 ^ k)
    rw [Nat.mul_comm] at this
    omega
  rw [hy]
  unfold roundAt
  rw [if_neg (by omega)]
  simp only [hk, Nat.shiftRight_eq_div_pow, Nat.shiftLeft_eq, hsub, hup, hin, sideRound, hfl]

/-! ### The bits of a number -/

theorem bitLen_bounds {m : Nat} (h : m ≠ 0) : 2 ^ (bitLen m - 1) ≤ m ∧ m < 2 ^ bitLen m ∧ 1 ≤ bitLen m := by
  rw [bitLen, if_neg h]
  exact ⟨Nat.log2_self_le h, Nat.lt_log2_self, by omega⟩

theorem bitLen_eq {m n : Nat} (h1 : 2 ^ n ≤ m) (h2 : m < 2 ^ (n + 1)) : bitLen m = n + 1 := by
  have hm : m ≠ 0 := by
    have := Nat.pow_pos (n := n) (show 0 < 2 by decide)
    omega
  rw [bitLen, if_neg hm, (Nat.log2_eq_iff hm).2 ⟨h1, h2⟩]

theorem scaleUp_cast (m : Nat) (k : Int) (h : 0 ≤ k) : (scaleUp m k : ℚ) = m * 2 ^ k := by
  rw [scaleUp, Nat.shiftLeft_eq]
  push_cast
  rw [← zpow_natCast, Int.toNat_of_nonneg h]

/-- The comparison of two dyadic numbers is that of the numbers. -/
theorem dyGt_iff (a : Nat) (x : Int) (b : Nat) (y : Int) : dyGt a x b y = true ↔ (b : ℚ) * 2 ^ y < a * 2 ^ x := by
  unfold dyGt
  split
  · next h =>
    have e : (2 : ℚ) ^ x = 2 ^ (x - y) * 2 ^ y := by
      rw [← two_zpow_add]
      congr 1
      ring
    rw [decide_eq_true_eq, gt_iff_lt, ← Nat.cast_lt (α := ℚ), scaleUp_cast _ _ (by omega), e, ← mul_assoc]
    exact (mul_lt_mul_iff_left₀ (two_zpow_pos y)).symm
  · next h =>
    have e : (2 : ℚ) ^ y = 2 ^ (y - x) * 2 ^ x := by
      rw [← two_zpow_add]
      congr 1
      ring
    rw [decide_eq_true_eq, gt_iff_lt, ← Nat.cast_lt (α := ℚ), scaleUp_cast _ _ (by omega), e, ← mul_assoc]
    exact (mul_lt_mul_iff_left₀ (two_zpow_pos x)).symm

end Sys2Proof.Machine
end

section
/-!
SUPPORT. The one rounding of R29 as a function of the exact number: which of the two neighbouring values of the format it gives, when it overflows, and what it raises.
-/

namespace Sys2Proof.Machine

open Claim

/-! ### Packing -/

theorem Fmt.pack_zero (F : Fmt) (neg : Bool) (x : Int) : F.pack neg 0 x = F.signOf neg := by simp [Fmt.pack, Fmt.signOf]

/-- A significand of full length, or the power of two behind it, at an exponent j places above the least. -/
theorem Fmt.pack_normal (F : Fmt) (neg : Bool) (j q : Nat) (hq : 2 ^ F.fbits ≤ q) (hq2 : q ≤ 2 ^ (F.fbits + 1)) :
    F.pack neg q (F.xmin + j) = F.signOf neg + (j * 2 ^ F.fbits + q) := by
  have hp : 0 < 2 ^ F.fbits := Nat.pow_pos (by decide)
  have hx : F.xmin + F.fbits = F.emin := by rw [Fmt.xmin]; ring
  have hb : F.emin + F.bias = 1 := by rw [Fmt.emin]; ring
  have hq0 : q ≠ 0 := by omega
  rcases Nat.lt_or_ge q (2 ^ (F.fbits + 1)) with h | h
  · have hlen := bitLen_eq hq h
    have htop : F.xmin + j + ((F.fbits + 1 : Nat) : Int) - 1 = F.emin + j := by push_cast; omega
    have ht : F.emin + j - F.fbits = F.xmin + j := by omega
    have hs : scaleUp q (F.xmin + j - (F.xmin + j)) = q := by simp [scaleUp]
    have he : (F.emin + j + F.bias).toNat = j + 1 := by omega
    simp only [Fmt.pack, if_neg hq0, hlen, htop, ht, hs, he, le_refl, if_true]
    rw [if_neg (by omega), Fmt.signOf, Nat.add_mul]
    omega
  · have he : q = 2 ^ (F.fbits + 1) := le_antisymm hq2 h
    have hlen : bitLen q = F.fbits + 1 + 1 := bitLen_eq h (by rw [he, pow_succ _ (F.fbits + 1)]; omega)
    have htop : F.xmin + j + ((F.fbits + 1 + 1 : Nat) : Int) - 1 = F.emin + j + 1 := by push_cast; omega
    have ht : F.emin + j + 1 - F.fbits = F.xmin + j + 1 := by omega
    have hs : (F.xmin + j + 1 - (F.xmin + j)).toNat = 1 := by omega
    have hsh : q >>> 1 = 2 ^ F.fbits := by rw [Nat.shiftRight_eq_div_pow, he, pow_succ, pow_one, Nat.mul_div_cancel _ (by decide)]
    have hex : (F.emin + j + 1 + F.bias).toNat = j + 2 := by omega
    have h1 : ¬ F.emin + j + 1 < F.emin := by omega
    have h2 : ¬ F.xmin + j + 1 ≤ F.xmin + j := by omega
    simp only [Fmt.pack, if_neg hq0, hlen, htop, ht, hs, hsh, hex, if_neg h1, if_neg h2]
    rw [he, pow_succ, Fmt.signOf, Nat.add_mul]
    omega

/-- A significand at the least exponent. -/
theorem Fmt.pack_low (F : Fmt) (neg : Bool) (q : Nat) (hq : q ≤ 2 ^ F.fbits) : F.pack neg q F.xmin = F.signOf neg + q := by
  rcases Nat.lt_or_ge q (2 ^ F.fbits) with h | h
  · rcases Nat.eq_zero_or_pos q with rfl | h0
    · exact F.pack_zero neg _
    · obtain ⟨hb, -, hb1⟩ := bitLen_bounds (Nat.pos_iff_ne_zero.1 h0)
      have hlen : bitLen q - 1 < F.fbits := (Nat.pow_lt_pow_iff_right (by decide)).1 (lt_of_le_of_lt hb h)
      have htop : F.xmin + bitLen q - 1 < F.emin := by rw [Fmt.xmin]; omega
      have hs : scaleUp q (F.xmin - F.xmin) = q := by simp [scaleUp]
      simp only [Fmt.pack, if_neg (Nat.pos_iff_ne_zero.1 h0), if_pos htop]
      rw [← Fmt.xmin, if_pos (le_refl _), hs, Fmt.signOf]
  · have he : q = 2 ^ F.fbits := le_antisymm hq h
    have := F.pack_normal neg 0 q h (by rw [pow_succ]; omega)
    simpa using this

/-- What lies just below the least normal number, rounded to it. -/
theorem Fmt.pack_carry (F : Fmt) (neg : Bool) : F.pack neg (2 ^ (F.fbits + 1)) (F.xmin - 1) = F.signOf neg + 2 ^ F.fbits := by
  have hx : F.xmin + F.fbits = F.emin := by rw [Fmt.xmin]; ring
  have hb : F.emin + F.bias = 1 := by rw [Fmt.emin]; ring
  have hq0 : 2 ^ (F.fbits + 1) ≠ 0 := (Nat.pow_pos (by decide)).ne'
  have hlen : bitLen (2 ^ (F.fbits + 1)) = F.fbits + 1 + 1 := bitLen_eq (le_refl _) (Nat.pow_lt_pow_right (by decide) (Nat.lt_succ_self _))
  have htop : F.xmin - 1 + ((F.fbits + 1 + 1 : Nat) : Int) - 1 = F.emin := by push_cast; omega
  have ht : F.emin - F.fbits = F.xmin := rfl
  have hs : (F.xmin - (F.xmin - 1)).toNat = 1 := by omega
  have hsh : 2 ^ (F.fbits + 1) >>> 1 = 2 ^ F.fbits := by rw [Nat.shiftRight_eq_div_pow, pow_succ, pow_one, Nat.mul_div_cancel _ (by decide)]
  have hex : (F.emin + F.bias).toNat = 1 := by omega
  have h1 : ¬ F.xmin ≤ F.xmin - 1 := by omega
  simp only [Fmt.pack, if_neg hq0, hlen, htop, ht, hs, hsh, hex, lt_irrefl, if_false, if_neg h1]
  rw [Fmt.signOf]
  omega

/-! ### When rounding reaches a power of two -/

/-- Whether a number with last place u is rounded to B or beyond. -/
def sideReaches (x : Claim.Side) (B u v : ℚ) : Prop :=
  match x with
  | .near => B - u / 2 ≤ v
  | .trunc => B ≤ v
  | .away => B - u < v

/-- A number of b + 1 places before the point that is rounded to a whole one. -/
theorem le_sideRound_iff (x : Claim.Side) (b : Nat) (hb : 1 ≤ b) {y : ℚ} (h0 : 0 ≤ y) (h : y < 2 ^ b) :
    2 ^ b ≤ sideRound x y ↔ sideReaches x (2 ^ b) 1 y := by
  have hfl : (⌊y⌋₊ : ℚ) ≤ y := Nat.floor_le h0
  have hfl2 : y < ⌊y⌋₊ + 1 := Nat.lt_floor_add_one y
  have hlt : ⌊y⌋₊ < 2 ^ b := by
    rw [Nat.floor_lt h0]
    exact_mod_cast h
  have hodd : (2 ^ b - 1) % 2 = 1 := by
    obtain ⟨c, rfl⟩ := Nat.exists_eq_add_of_le' hb
    have := Nat.pow_pos (n := c) (show 0 < 2 by decide)
    rw [pow_succ]
    omega
  have hiff : 2 ^ b ≤ sideRound x y ↔ sideUp x y = true ∧ ⌊y⌋₊ = 2 ^ b - 1 := by
    unfold sideRound
    split
    · next hu => simp only [hu, true_and]; omega
    · next hu => simp only [hu, Bool.false_eq_true, false_and, iff_false]; omega
  have hc : ((2 ^ b - 1 : Nat) : ℚ) = 2 ^ b - 1 := by
    rw [Nat.cast_sub Nat.one_le_two_pow]
    push_cast
    rfl
  have hq : ⌊y⌋₊ = 2 ^ b - 1 ↔ (2 : ℚ) ^ b - 1 ≤ y := by
    rw [← hc, ← Nat.le_floor_iff h0]
    omega
  rw [hiff]
  constructor
  · rintro ⟨hu, he⟩
    have hyq := hq.1 he
    have hec : (⌊y⌋₊ : ℚ) = 2 ^ b - 1 := by rw [he, hc]
    cases x with
    | near =>
      simp only [sideUp, hec, Bool.or_eq_true, Bool.and_eq_true, decide_eq_true_eq] at hu
      show (2 : ℚ) ^ b - 1 / 2 ≤ y
      rcases hu with h1 | ⟨h1, -⟩ <;> linarith
    | trunc => cases hu
    | away =>
      simp only [sideUp, hec, decide_eq_true_eq] at hu
      exact lt_of_le_of_ne hyq (Ne.symm hu)
  · intro hr
    have hyq : (2 : ℚ) ^ b - 1 ≤ y := by
      cases x with
      | near =>
        have hr' : (2 : ℚ) ^ b - 1 / 2 ≤ y := hr
        linarith
      | trunc => exact absurd hr (not_le.2 h)
      | away => exact le_of_lt hr
    have he := hq.2 hyq
    have hec : (⌊y⌋₊ : ℚ) = 2 ^ b - 1 := by rw [he, hc]
    refine ⟨?_, he⟩
    cases x with
    | near =>
      have hr' : (2 : ℚ) ^ b - 1 / 2 ≤ y := hr
      simp only [sideUp, he, hc, hodd, Bool.or_eq_true, Bool.and_eq_true, decide_eq_true_eq, beq_self_eq_true, and_true]
      rcases eq_or_lt_of_le hr' with h1 | h1
      · exact Or.inr (by linarith)
      · exact Or.inl (by linarith)
    | trunc => exact absurd hr (not_le.2 h)
    | away =>
      have hr' : (2 : ℚ) ^ b - 1 < y := hr
      simp only [sideUp, hec, decide_eq_true_eq]
      exact hr'.ne'

/-- A number of b + 1 significant places, rounded to its last place 2^t, reaches 2^(t0 + b + 1) as the side has it for a last place 2^t0. -/
theorem sideRound_reaches (x : Claim.Side) (b : Nat) (hb : 1 ≤ b) {t t0 : Int} {v : ℚ} (hlo : 2 ^ (t + b) ≤ v) (hhi : v < 2 ^ (t + b + 1)) :
    (2 : ℚ) ^ (t0 + b + 1) ≤ (sideRound x (v / 2 ^ t) : ℚ) * 2 ^ t ↔ sideReaches x (2 ^ (t0 + b + 1)) (2 ^ t0) v := by
  have hu := two_zpow_pos t
  have hy0 : (2 : ℚ) ^ b ≤ v / 2 ^ t := by
    rw [le_div_iff₀ hu, ← zpow_natCast, ← two_zpow_add, add_comm]
    exact hlo
  have hy1 : v / 2 ^ t < (2 : ℚ) ^ (b + 1) := by
    rw [div_lt_iff₀ hu, ← zpow_natCast, ← two_zpow_add]
    refine lt_of_lt_of_eq hhi ?_
    congr 1
    push_cast
    ring
  have hy00 : 0 ≤ v / 2 ^ t := le_trans (by positivity) hy0
  have hQlo : (2 : ℚ) ^ b ≤ sideRound x (v / 2 ^ t) := by
    have h1 : 2 ^ b ≤ ⌊v / 2 ^ t⌋₊ := Nat.le_floor (by exact_mod_cast hy0)
    exact_mod_cast le_trans h1 (floor_le_sideRound x _)
  have hQhi : (sideRound x (v / 2 ^ t) : ℚ) ≤ 2 ^ (b + 1) := by
    have h1 : ⌊v / 2 ^ t⌋₊ < 2 ^ (b + 1) := (Nat.floor_lt hy00).2 (by exact_mod_cast hy1)
    exact_mod_cast le_trans (sideRound_le x _) h1
  have hB : ∀ s : Int, (2 : ℚ) ^ (s + b + 1) = 2 ^ (b + 1) * 2 ^ s := fun s => by
    rw [← zpow_natCast, ← two_zpow_add]
    congr 1
    push_cast
    ring
  rcases lt_trichotomy t t0 with h | rfl | h
  · -- the number lies below
    have h1 : (2 : ℚ) ^ (t + b + 1) ≤ 2 ^ (t0 + b) := two_zpow_le (by omega)
    have h2 : (2 : ℚ) ^ (t0 + b + 1) = 2 * 2 ^ (t0 + b) := by rw [two_zpow_add, zpow_one, mul_comm]
    have h3 : (2 : ℚ) ^ t0 ≤ 2 ^ (t0 + b) := two_zpow_le (by omega)
    have h4 := two_zpow_pos t0
    refine iff_of_false (not_le.2 ?_) ?_
    · calc (sideRound x (v / 2 ^ t) : ℚ) * 2 ^ t ≤ 2 ^ (b + 1) * 2 ^ t := mul_le_mul_of_nonneg_right hQhi (le_of_lt hu)
        _ = 2 ^ (t + b + 1) := (hB t).symm
        _ < 2 ^ (t0 + b + 1) := by linarith
    · cases x with
      | near =>
        simp only [sideReaches, not_le]
        linarith
      | trunc =>
        simp only [sideReaches, not_le]
        linarith
      | away =>
        simp only [sideReaches, not_lt]
        linarith
  · have hc : (2 : ℚ) ^ (t + b + 1) ≤ (sideRound x (v / 2 ^ t) : ℚ) * 2 ^ t ↔ 2 ^ (b + 1) ≤ sideRound x (v / 2 ^ t) := by
      rw [hB, mul_le_mul_iff_left₀ hu]
      exact_mod_cast Iff.rfl
    rw [hc, le_sideRound_iff x (b + 1) (by omega) hy00 hy1]
    have hv : v = v / 2 ^ t * 2 ^ t := (div_mul_cancel₀ _ hu.ne').symm
    generalize v / 2 ^ t = y at hv
    subst hv
    rw [hB]
    cases x with
    | near =>
      simp only [sideReaches]
      rw [show (2 : ℚ) ^ (b + 1) * 2 ^ t - 2 ^ t / 2 = (2 ^ (b + 1) - 1 / 2) * 2 ^ t by ring, mul_le_mul_iff_left₀ hu]
    | trunc =>
      simp only [sideReaches]
      rw [mul_le_mul_iff_left₀ hu]
    | away =>
      simp only [sideReaches]
      rw [show (2 : ℚ) ^ (b + 1) * 2 ^ t - 2 ^ t = (2 ^ (b + 1) - 1) * 2 ^ t by ring, mul_lt_mul_iff_left₀ hu]
  · -- the number lies above
    have h1 : (2 : ℚ) ^ (t0 + b + 1) ≤ 2 ^ (t + b) := two_zpow_le (by omega)
    have h2 := two_zpow_pos t0
    refine iff_of_true ?_ ?_
    · calc (2 : ℚ) ^ (t0 + b + 1) ≤ 2 ^ (t + b) := h1
        _ = 2 ^ b * 2 ^ t := by rw [← zpow_natCast, ← two_zpow_add, add_comm]
        _ ≤ _ := mul_le_mul_of_nonneg_right hQlo (le_of_lt hu)
    · cases x with
      | near =>
        simp only [sideReaches]
        linarith
      | trunc =>
        simp only [sideReaches]
        linarith
      | away =>
        simp only [sideReaches]
        linarith

end Sys2Proof.Machine
end

section
/-!
SUPPORT. The one rounding of R29 read off the exact number: the value of the format it gives, when it overflows, and the conditions that it raises.
-/

namespace Sys2Proof.Machine

open Claim

/-- The rounding of a magnitude v whose first place is F.fbits places above 2^t. -/
def Fmt.roundExact (F : Fmt) (mode : RMode) (neg : Bool) (v : ℚ) (t : Int) : Nat × Nat :=
  let x := sideOf mode neg
  if topOf F < sideRound x (v / 2 ^ t) * 2 ^ t then (F.overflow mode neg, 4 + 16)
  else if (sideRound x (v / 2 ^ t) : ℚ) * 2 ^ t < 2 ^ F.emin then
    (F.pack neg (sideRound x (v / 2 ^ F.xmin)) F.xmin, if v / 2 ^ F.xmin ≠ ⌊v / 2 ^ F.xmin⌋₊ then 8 + 16 else 0)
  else (F.pack neg (sideRound x (v / 2 ^ t)) t, if v / 2 ^ t ≠ ⌊v / 2 ^ t⌋₊ then 16 else 0)

theorem Fmt.Plain.topOf_eq {F : Fmt} (hF : F.Plain) : topOf F = F.maxM * 2 ^ F.maxE := by
  have h1 : 1 ≤ 2 ^ (F.fbits + 1) := Nat.one_le_two_pow
  simp only [topOf, topUlp, Fmt.maxM, Fmt.maxE, hF.noE4, Bool.false_eq_true, if_false]
  rw [Nat.cast_sub h1]
  push_cast
  rfl

/-- A number whose places are cut: what stands below the cut is what the flag tells. -/
structure Cut (F : Fmt) (m : Nat) (sticky : Bool) (f : ℚ) : Prop where
  pos : m ≠ 0
  low : 0 ≤ f
  high : f < 1
  flag : sticky = true ↔ f ≠ 0
  places : f ≠ 0 → F.fbits + 2 ≤ bitLen m

theorem Cut.exact (F : Fmt) {m : Nat} (hm : m ≠ 0) : Cut F m false 0 := ⟨hm, le_refl _, one_pos, by simp, fun h => absurd rfl h⟩

section
variable {F : Fmt} {m : Nat} {e : Int} {sticky : Bool} {f : ℚ} (hc : Cut F m sticky f)
include hc

/-- The first place of the number. -/
theorem Cut.bounds : (2 : ℚ) ^ (e + bitLen m - 1) ≤ (m + f) * 2 ^ e ∧ ((m : ℚ) + f) * 2 ^ e < 2 ^ (e + bitLen m) := by
  obtain ⟨h1, h2, h3⟩ := bitLen_bounds hc.pos
  have he := two_zpow_pos e
  have hlo : (2 : ℚ) ^ (bitLen m - 1) ≤ m := by exact_mod_cast h1
  have hhi : (m : ℚ) + 1 ≤ 2 ^ bitLen m := by exact_mod_cast h2
  have hl := hc.low
  have hh := hc.high
  constructor
  · rw [show e + bitLen m - 1 = ((bitLen m - 1 : Nat) : Int) + e by omega, two_zpow_add, zpow_natCast]
    exact mul_le_mul_of_nonneg_right (by linarith) (le_of_lt he)
  · rw [add_comm e, two_zpow_add, zpow_natCast]
    exact mul_lt_mul_of_pos_right (by linarith) he

/-- The model's rounding is that of the exact number. -/
theorem Fmt.Plain.roundMag_eq (hF : F.Plain) (mode : RMode) (neg : Bool) :
    F.roundMag mode false neg m e sticky = F.roundExact mode neg ((m + f) * 2 ^ e) (e + bitLen m - 1 - F.fbits) := by
  obtain ⟨h1, h2, h3⟩ := bitLen_bounds hc.pos
  have hlen : bitLen (m <<< (F.fbits + 4)) = bitLen m + (F.fbits + 4) := by
    obtain ⟨c, hlc⟩ := Nat.exists_eq_add_of_le' h3
    rw [hlc, Nat.add_sub_cancel] at h1
    rw [hlc] at h2
    rw [hlc, show c + 1 + (F.fbits + 4) = c + (F.fbits + 4) + 1 by ring, Nat.shiftLeft_eq]
    refine bitLen_eq ?_ ?_
    · rw [pow_add]
      exact Nat.mul_le_mul_right _ h1
    · rw [show c + (F.fbits + 4) + 1 = c + 1 + (F.fbits + 4) by ring, pow_add 2 (c + 1) (F.fbits + 4)]
      exact Nat.mul_lt_mul_of_pos_right h2 (Nat.two_pow_pos _)
  have ht : e - ((F.fbits + 4 : Nat) : Int) + ((bitLen m + (F.fbits + 4) : Nat) : Int) - 1 - F.fbits = e + bitLen m - 1 - F.fbits := by
    push_cast
    ring
  -- the number over the padded significand
  have hv : (((m <<< (F.fbits + 4) : Nat) : ℚ) + f * 2 ^ (F.fbits + 4)) * 2 ^ (e - ((F.fbits + 4 : Nat) : Int)) = (m + f) * 2 ^ e := by
    rw [Nat.shiftLeft_eq, sub_eq_add_neg, two_zpow_add, zpow_neg, zpow_natCast]
    have : (2 : ℚ) ^ (F.fbits + 4) ≠ 0 := by positivity
    push_cast
    field_simp
  have hround : ∀ t : Int, e + bitLen m - 1 - F.fbits ≤ t → roundAt mode neg (m <<< (F.fbits + 4)) (e - ((F.fbits + 4 : Nat) : Int)) sticky t =
      (sideRound (sideOf mode neg) ((m + f) * 2 ^ e / 2 ^ t), decide ((m + f) * 2 ^ e / 2 ^ t ≠ (⌊((m : ℚ) + f) * 2 ^ e / 2 ^ t⌋₊ : ℚ))) := by
    intro t hle
    rw [← hv]
    by_cases hf : f = 0
    · refine roundAt_eq (p := 0) (one_dvd _) (by push_cast; omega) ?_ ?_ ?_
      · rw [hf, zero_mul]
      · rw [hf, zero_mul]
        norm_num
      · rw [hc.flag, hf, zero_mul]
    · have hp := hc.places hf
      have hpos : (0 : ℚ) < 2 ^ (F.fbits + 4) := by positivity
      refine roundAt_eq (p := F.fbits + 4) ?_ (by push_cast; omega) (mul_nonneg hc.low (le_of_lt hpos)) ?_ ?_
      · rw [Nat.shiftLeft_eq]
        exact Nat.dvd_mul_left _ _
      · have := mul_lt_mul_of_pos_right hc.high hpos
        rwa [one_mul] at this
      · rw [hc.flag, Ne, Ne, mul_eq_zero, or_iff_left hpos.ne']
  obtain ⟨hlo, hhi⟩ := hc.bounds (e := e)
  generalize ((m : ℚ) + f) * 2 ^ e = v at hround hlo hhi
  have hL : (F.xmin : Int) = F.emin - F.fbits := rfl
  have hfirst := hround _ (le_refl _)
  generalize htt : e + (bitLen m : Int) - 1 - F.fbits = t at ht hround hfirst
  have hu := two_zpow_pos t
  have hQ : 1 ≤ sideRound (sideOf mode neg) (v / 2 ^ t) := by
    refine le_trans ?_ (floor_le_sideRound _ _)
    refine Nat.le_floor ?_
    rw [Nat.cast_one, le_div_iff₀ hu, one_mul]
    exact le_trans (two_zpow_le (by omega)) hlo
  unfold Fmt.roundMag Fmt.roundExact
  simp only [hlen, ht, hfirst, Bool.false_eq_true, if_false]
  have hover : dyGt (sideRound (sideOf mode neg) (v / 2 ^ t)) t F.maxM F.maxE = true ↔ topOf F < sideRound (sideOf mode neg) (v / 2 ^ t) * 2 ^ t := by
    rw [dyGt_iff, hF.topOf_eq]
  have hlow : t + (bitLen (sideRound (sideOf mode neg) (v / 2 ^ t)) : Int) - 1 < F.emin ↔
      (sideRound (sideOf mode neg) (v / 2 ^ t) : ℚ) * 2 ^ t < 2 ^ F.emin := by
    obtain ⟨hlo, hhi⟩ := (Cut.exact F (Nat.pos_iff_ne_zero.1 hQ)).bounds (e := t)
    rw [add_zero] at hlo hhi
    constructor
    · intro h
      exact lt_of_lt_of_le hhi (two_zpow_le (by omega))
    · intro h
      by_contra hn
      exact absurd h (not_lt.2 (le_trans (two_zpow_le (by omega)) hlo))
  by_cases ho : topOf F < sideRound (sideOf mode neg) (v / 2 ^ t) * 2 ^ t
  · rw [if_pos (hover.2 ho), if_pos ho]
  · rw [if_neg (mt hover.1 ho), if_neg ho]
    by_cases hl : (sideRound (sideOf mode neg) (v / 2 ^ t) : ℚ) * 2 ^ t < 2 ^ F.emin
    · have hlt := hlow.2 hl
      have hb := (bitLen_bounds (Nat.pos_iff_ne_zero.1 hQ)).2.2
      have hQb : F.fbits + 1 ≤ bitLen (sideRound (sideOf mode neg) (v / 2 ^ t)) := by
        have hq : 2 ^ F.fbits ≤ sideRound (sideOf mode neg) (v / 2 ^ t) := by
          refine le_trans (Nat.le_floor ?_) (floor_le_sideRound _ _)
          push_cast
          rw [le_div_iff₀ hu, ← zpow_natCast, ← two_zpow_add]
          exact le_trans (two_zpow_le (by omega)) hlo
        have hb2 := (bitLen_bounds (Nat.pos_iff_ne_zero.1 hQ)).2.1
        exact (Nat.pow_lt_pow_iff_right (by decide)).1 (lt_of_le_of_lt hq hb2)
      rw [if_pos hlt, if_pos hl, ← hL, hround F.xmin (by omega)]
      simp
    · rw [if_neg (mt hlow.1 hl), if_neg hl]
      simp

end

end Sys2Proof.Machine
end

section
/-!
SUPPORT. What rounding gives, among the values of the format in their order (R29): one of the two neighbours of the exact number, by the side that the mode takes.
-/

namespace Sys2Proof.Machine

open Claim

/-- Whether a magnitude goes to the upper one of its neighbours, the numbers N and N + 1. -/
def Fmt.ordUp (F : Fmt) (x : Claim.Side) (N : Nat) (v : ℚ) : Bool :=
  match x with
  | .near => decide (F.ordVal N + F.ordVal (N + 1) < 2 * v) || (decide (F.ordVal N + F.ordVal (N + 1) = 2 * v) && N % 2 == 1)
  | .trunc => false
  | .away => decide (v ≠ F.ordVal N)

/-- The place of the rounded magnitude. -/
def Fmt.ordRound (F : Fmt) (x : Claim.Side) (N : Nat) (v : ℚ) : Nat := if F.ordUp x N v then N + 1 else N

theorem Fmt.ordRound_exact (F : Fmt) (x : Claim.Side) (N : Nat) : F.ordRound x N (F.ordVal N) = N := by
  have h := F.ordVal_lt_succ N
  have hu : F.ordUp x N (F.ordVal N) = false := by
    cases x with
    | near =>
      simp only [Fmt.ordUp, Bool.or_eq_false_iff, Bool.and_eq_false_iff, decide_eq_false_iff_not]
      exact ⟨by linarith, Or.inl (by linarith)⟩
    | trunc => rfl
    | away => simp [Fmt.ordUp]
  simp [Fmt.ordRound, hu]

/-- The neighbours of a number in a row of equal places u, and the way it goes. -/
theorem Fmt.ordRound_eq (F : Fmt) (x : Claim.Side) {N : Nat} {v u : ℚ} (hu : 0 < u) (h : F.ordVal N = ⌊v / u⌋₊ * u)
    (h1 : F.ordVal (N + 1) = ((⌊v / u⌋₊ + 1 : Nat) : ℚ) * u) (hp : N % 2 = ⌊v / u⌋₊ % 2) :
    F.ordRound x N v = N + (sideRound x (v / u) - ⌊v / u⌋₊) := by
  have hup : F.ordUp x N v = sideUp x (v / u) := by
    have hv : v = v / u * u := (div_mul_cancel₀ _ hu.ne').symm
    have hsum : F.ordVal N + F.ordVal (N + 1) = (2 * ⌊v / u⌋₊ + 1) * u := by
      rw [h, h1]
      push_cast
      ring
    have h2v : 2 * v = 2 * (v / u) * u := by rw [mul_assoc, ← hv]
    cases x with
    | near =>
      simp only [Fmt.ordUp, sideUp, hp, hsum, h2v, mul_lt_mul_iff_left₀ hu, mul_left_inj' hu.ne']
      have hgt : 2 * (⌊v / u⌋₊ : ℚ) + 1 < 2 * (v / u) ↔ 1 / 2 < v / u - ⌊v / u⌋₊ := by constructor <;> intro h <;> linarith
      have hmid : 2 * (⌊v / u⌋₊ : ℚ) + 1 = 2 * (v / u) ↔ v / u - ⌊v / u⌋₊ = 1 / 2 := by constructor <;> intro h <;> linarith
      simp only [hgt, hmid]
    | trunc => rfl
    | away =>
      simp only [Fmt.ordUp, sideUp, h]
      rw [decide_eq_decide, Ne, Ne, ← div_eq_iff hu.ne']
  unfold Fmt.ordRound sideRound
  rw [hup]
  split <;> omega

section
variable {F : Fmt} (hF : F.Plain)
include hF

/-- The place of the largest finite value, and of the power of two behind it. -/
theorem Fmt.Plain.top_places : ∃ c : Nat, F.maxBits = c * 2 ^ F.fbits + (2 ^ (F.fbits + 1) - 1) ∧ F.infBits = c * 2 ^ F.fbits + 2 ^ (F.fbits + 1) ∧
    (2 : Int) ^ F.ebits - 2 - F.bias - F.fbits = F.xmin + c := by
  have hp : 0 < 2 ^ F.fbits := Nat.two_pow_pos _
  have he : 2 ^ 2 ≤ 2 ^ F.ebits := Nat.pow_le_pow_right (by decide) hF.ebits
  obtain ⟨c, hc⟩ : ∃ c, 2 ^ F.ebits = c + 3 := ⟨2 ^ F.ebits - 3, by omega⟩
  have hi : F.infBits = c * 2 ^ F.fbits + 2 ^ (F.fbits + 1) := by
    rw [Fmt.infBits, hc, show c + 3 - 1 = c + 2 by omega, Nat.add_mul, pow_succ]
    ring
  have hm := hF.maxBits_succ
  refine ⟨c, by rw [pow_succ] at hi ⊢; omega, hi, ?_⟩
  have hcz : (2 : Int) ^ F.ebits = c + 3 := by exact_mod_cast hc
  rw [hcz, Fmt.xmin, Fmt.emin]
  ring

theorem Fmt.Plain.topOf_ord : topOf F = F.ordVal F.maxBits := by
  have hp : 0 < 2 ^ F.fbits := Nat.two_pow_pos _
  obtain ⟨c, hm, -, hx⟩ := hF.top_places
  have h1 : 2 ^ F.fbits ≤ 2 ^ (F.fbits + 1) - 1 := by rw [pow_succ]; omega
  rw [hm, F.ordVal_normal c _ h1 (Nat.sub_le _ _), topOf, topUlp, Nat.cast_sub Nat.one_le_two_pow, hx]
  push_cast
  rfl

/-- The magnitudes that overflow are those that rounding takes to the power of two behind the largest finite value. -/
theorem Fmt.Plain.overflows_iff (x : Claim.Side) (v : ℚ) :
    ∃ t0 : Int, F.ordVal F.infBits = 2 ^ (t0 + F.fbits + 1) ∧ (overflows F x v ↔ sideReaches x (2 ^ (t0 + F.fbits + 1)) (2 ^ t0) v) := by
  have hp : 0 < 2 ^ F.fbits := Nat.two_pow_pos _
  obtain ⟨c, -, hi, hx⟩ := hF.top_places
  have h1 : 2 ^ F.fbits ≤ 2 ^ (F.fbits + 1) := by rw [pow_succ]; omega
  have hB : (2 : ℚ) ^ (F.xmin + c + F.fbits + 1) = 2 ^ (F.fbits + 1) * 2 ^ (F.xmin + c) := by
    rw [← zpow_natCast, ← two_zpow_add]
    congr 1
    push_cast
    ring
  refine ⟨F.xmin + c, ?_, ?_⟩
  · rw [hi, F.ordVal_normal c _ h1 (le_refl _), hB]
    push_cast
    rfl
  · rw [hB]
    cases x with
    | near =>
      simp only [overflows, sideReaches, topOf, topUlp, hx]
      constructor <;> intro h <;> linarith
    | trunc =>
      simp only [overflows, sideReaches, topOf, topUlp, hx]
      constructor <;> intro h <;> linarith
    | away =>
      simp only [overflows, sideReaches, topOf, topUlp, hx]
      constructor <;> intro h <;> linarith

omit hF in
/-- The magnitudes that are tiny are those that rounding leaves below the least normal number. -/
theorem Fmt.isTiny_iff (F : Fmt) (x : Claim.Side) (v : ℚ) : isTiny F x v ↔ ¬ sideReaches x (2 ^ F.emin) (2 ^ (F.xmin - 1)) v := by
  have hu : minUlp F = 2 ^ (F.xmin - 1) := by
    rw [minUlp, Fmt.xmin, Fmt.emin]
    congr 1
    ring
  have hm : minOf F = 2 ^ F.emin := rfl
  cases x with
  | near => simp only [isTiny, sideReaches, hu, hm, not_le]
  | trunc => simp only [isTiny, sideReaches, hm, not_le]
  | away => simp only [isTiny, sideReaches, hu, hm, not_lt]

/-- What the rounding of a magnitude v is to be: an overflow, or the bits of a neighbour of v and the conditions raised. -/
def Fmt.RoundsTo (F : Fmt) (mode : RMode) (neg : Bool) (v : ℚ) (r : Nat × Nat) : Prop :=
  (overflows F (sideOf mode neg) v ∧ r = (F.overflow mode neg, 4 + 16)) ∨
  (¬ overflows F (sideOf mode neg) v ∧ ∃ N, F.ordVal N ≤ v ∧ v < F.ordVal (N + 1) ∧ F.ordRound (sideOf mode neg) N v ≤ F.maxBits ∧
    r.1 = F.signOf neg + F.ordRound (sideOf mode neg) N v ∧
    (v = F.ordVal N → r.2 = 0) ∧ (v ≠ F.ordVal N → isTiny F (sideOf mode neg) v → r.2 = 8 + 16) ∧
    (v ≠ F.ordVal N → ¬ isTiny F (sideOf mode neg) v → r.2 = 16))

section
variable (mode : RMode) (neg : Bool) {v : ℚ} {t : Int} (hlo : (2 : ℚ) ^ (t + F.fbits) ≤ v) (hhi : v < 2 ^ (t + F.fbits + 1))
include hlo hhi

/-- The rounding of a magnitude at or above the least normal number. -/
theorem Fmt.Plain.roundExact_normal (hn : F.emin ≤ t + F.fbits) : F.RoundsTo mode neg v (F.roundExact mode neg v t) := by
  have hp : 0 < 2 ^ F.fbits := Nat.two_pow_pos _
  have hu := two_zpow_pos t
  obtain ⟨j, rfl⟩ : ∃ j : Nat, t = F.xmin + j := ⟨(t - F.xmin).toNat, by have : F.xmin = F.emin - F.fbits := rfl; omega⟩
  have hv0 : 0 ≤ v := le_trans (le_of_lt (two_zpow_pos _)) hlo
  have hq1 : 2 ^ F.fbits ≤ ⌊v / 2 ^ (F.xmin + (j : Int))⌋₊ := by
    refine Nat.le_floor ?_
    push_cast
    rw [le_div_iff₀ hu, ← zpow_natCast, ← two_zpow_add]
    exact le_trans (two_zpow_le (by omega)) hlo
  have hq2 : ⌊v / 2 ^ (F.xmin + (j : Int))⌋₊ < 2 ^ (F.fbits + 1) := by
    rw [Nat.floor_lt (div_nonneg hv0 (le_of_lt hu))]
    push_cast
    rw [div_lt_iff₀ hu, ← zpow_natCast, ← two_zpow_add]
    exact lt_of_lt_of_le hhi (two_zpow_le (by push_cast; omega))
  have hreach := fun t0 => sideRound_reaches (sideOf mode neg) F.fbits hF.fbits (t0 := t0) hlo hhi
  have hfl := Nat.floor_le (div_nonneg hv0 (le_of_lt hu))
  have hfl2 := Nat.lt_floor_add_one (v / 2 ^ (F.xmin + (j : Int)))
  have hQ1 := floor_le_sideRound (sideOf mode neg) (v / 2 ^ (F.xmin + (j : Int)))
  have hQ2 := sideRound_le (sideOf mode neg) (v / 2 ^ (F.xmin + (j : Int)))
  have hN := F.ordVal_normal j _ hq1 (le_of_lt hq2)
  have hN1 := F.ordVal_normal j _ (le_trans hq1 (Nat.le_succ _)) hq2
  have hK := F.ordVal_normal j _ (le_trans hq1 hQ1) (le_trans hQ2 hq2)
  have hround := F.ordRound_eq (sideOf mode neg) (N := j * 2 ^ F.fbits + ⌊v / 2 ^ (F.xmin + (j : Int))⌋₊) hu hN hN1 (by
    obtain ⟨c, hc⟩ := Nat.exists_eq_add_of_le' hF.fbits
    rw [hc, pow_succ, ← Nat.mul_assoc, Nat.add_comm, Nat.add_mul_mod_self_right])
  rw [show j * 2 ^ F.fbits + ⌊v / 2 ^ (F.xmin + (j : Int))⌋₊ + (sideRound (sideOf mode neg) (v / 2 ^ (F.xmin + (j : Int))) - ⌊v / 2 ^ (F.xmin + (j : Int))⌋₊)
    = j * 2 ^ F.fbits + sideRound (sideOf mode neg) (v / 2 ^ (F.xmin + (j : Int))) by omega] at hround
  have hpack := F.pack_normal neg j _ (le_trans hq1 hQ1) (le_trans hQ2 hq2)
  have hexact : v = F.ordVal (j * 2 ^ F.fbits + ⌊v / 2 ^ (F.xmin + (j : Int))⌋₊) ↔ v / 2 ^ (F.xmin + (j : Int)) = ⌊v / 2 ^ (F.xmin + (j : Int))⌋₊ := by
    rw [hN, div_eq_iff hu.ne']
  obtain ⟨t0, hinf, hov⟩ := hF.overflows_iff (sideOf mode neg) v
  -- the result lies beyond the largest finite value where the magnitude overflows
  have hover : topOf F < sideRound (sideOf mode neg) (v / 2 ^ (F.xmin + (j : Int))) * 2 ^ (F.xmin + (j : Int)) ↔ overflows F (sideOf mode neg) v := by
    rw [hov, ← hreach t0, ← hinf, hF.topOf_ord, ← hK, F.ordVal_strictMono.lt_iff_lt, F.ordVal_strictMono.le_iff_le, ← hF.maxBits_succ]
    exact Iff.rfl
  have hlow : ¬ (sideRound (sideOf mode neg) (v / 2 ^ (F.xmin + (j : Int))) : ℚ) * 2 ^ (F.xmin + (j : Int)) < 2 ^ F.emin := by
    rw [not_lt]
    have h1 : (2 : ℚ) ^ F.fbits ≤ sideRound (sideOf mode neg) (v / 2 ^ (F.xmin + (j : Int))) := by exact_mod_cast le_trans hq1 hQ1
    calc (2 : ℚ) ^ F.emin ≤ 2 ^ ((F.fbits : Int) + (F.xmin + j)) := two_zpow_le (by omega)
      _ = 2 ^ F.fbits * 2 ^ (F.xmin + (j : Int)) := by rw [two_zpow_add, zpow_natCast]
      _ ≤ _ := mul_le_mul_of_nonneg_right h1 (le_of_lt hu)
  by_cases ho : overflows F (sideOf mode neg) v
  · refine Or.inl ⟨ho, ?_⟩
    simp only [Fmt.roundExact, if_pos (hover.2 ho)]
  · refine Or.inr ⟨ho, j * 2 ^ F.fbits + ⌊v / 2 ^ (F.xmin + (j : Int))⌋₊, ?_, ?_, ?_, ?_, ?_, ?_, ?_⟩
    · rw [hN]
      exact (le_div_iff₀ hu).1 hfl
    · rw [Nat.add_assoc, hN1]
      push_cast
      exact (div_lt_iff₀ hu).1 hfl2
    · rw [hround, ← F.ordVal_strictMono.le_iff_le, hK, ← hF.topOf_ord]
      exact not_lt.1 (mt hover.1 ho)
    · rw [hround, ← hpack]
      simp only [Fmt.roundExact, if_neg (mt hover.1 ho), if_neg hlow]
    · intro he
      simp only [Fmt.roundExact, if_neg (mt hover.1 ho), if_neg hlow]
      rw [if_neg (not_not.2 (hexact.1 he))]
    · intro _ htiny
      rw [F.isTiny_iff, ← (show F.xmin - 1 + F.fbits + 1 = F.emin by rw [Fmt.xmin]; ring), ← hreach (F.xmin - 1),
        show F.xmin - 1 + F.fbits + 1 = F.emin by rw [Fmt.xmin]; ring] at htiny
      exact absurd (not_le.1 htiny) hlow
    · intro he _
      simp only [Fmt.roundExact, if_neg (mt hover.1 ho), if_neg hlow]
      rw [if_pos (mt hexact.2 he)]

/-- The rounding of a magnitude below the least normal number. -/
theorem Fmt.Plain.roundExact_low (hn : t + F.fbits < F.emin) : F.RoundsTo mode neg v (F.roundExact mode neg v t) := by
  have hp : 0 < 2 ^ F.fbits := Nat.two_pow_pos _
  have hu := two_zpow_pos t
  have hux := two_zpow_pos F.xmin
  have hx : F.xmin = F.emin - F.fbits := rfl
  have hv0 : 0 ≤ v := le_trans (le_of_lt (two_zpow_pos _)) hlo
  have hvm : v < 2 ^ F.emin := lt_of_lt_of_le hhi (two_zpow_le (by omega))
  have hem : (2 : ℚ) ^ F.emin = 2 ^ F.fbits * 2 ^ F.xmin := by
    rw [← zpow_natCast, ← two_zpow_add]
    congr 1
    omega
  have hz0 : 0 ≤ v / 2 ^ F.xmin := div_nonneg hv0 (le_of_lt hux)
  have hz1 : v / 2 ^ F.xmin < 2 ^ F.fbits := by
    rw [div_lt_iff₀ hux, ← hem]
    exact hvm
  have hq : ⌊v / 2 ^ F.xmin⌋₊ < 2 ^ F.fbits := (Nat.floor_lt hz0).2 (by exact_mod_cast hz1)
  have hpp : 2 ^ (F.fbits + 1) = 2 ^ F.fbits * 2 := pow_succ _ _
  have hN := F.ordVal_low ⌊v / 2 ^ F.xmin⌋₊ (by omega)
  have hN1 := F.ordVal_low (⌊v / 2 ^ F.xmin⌋₊ + 1) (by omega)
  have hQ1 := floor_le_sideRound (sideOf mode neg) (v / 2 ^ F.xmin)
  have hQ2 := sideRound_le (sideOf mode neg) (v / 2 ^ F.xmin)
  have hround : F.ordRound (sideOf mode neg) ⌊v / 2 ^ F.xmin⌋₊ v = sideRound (sideOf mode neg) (v / 2 ^ F.xmin) := by
    rw [F.ordRound_eq (sideOf mode neg) hux hN hN1 rfl]
    omega
  have hexact : v = F.ordVal ⌊v / 2 ^ F.xmin⌋₊ ↔ v / 2 ^ F.xmin = ⌊v / 2 ^ F.xmin⌋₊ := by rw [hN, div_eq_iff hux.ne']
  have hmaxge : 2 ^ F.fbits ≤ F.maxBits := by
    obtain ⟨c, hm, -, -⟩ := hF.top_places
    have := Nat.zero_le (c * 2 ^ F.fbits)
    omega
  have htop : (2 : ℚ) ^ F.emin ≤ topOf F := by
    rw [hF.topOf_ord, hem]
    have h1 := F.ordVal_low (2 ^ F.fbits) (by omega)
    push_cast at h1
    rw [← h1]
    exact F.ordVal_strictMono.monotone hmaxge
  have hover : ¬ overflows F (sideOf mode neg) v := by
    have hul : 0 < topUlp F := two_zpow_pos _
    cases sideOf mode neg with
    | near =>
      simp only [overflows, not_le]
      linarith
    | trunc =>
      simp only [overflows, not_le]
      linarith
    | away =>
      simp only [overflows, not_lt]
      linarith
  have hQhi : sideRound (sideOf mode neg) (v / 2 ^ t) ≤ 2 ^ (F.fbits + 1) := by
    refine le_trans (sideRound_le _ _) ?_
    refine (Nat.floor_lt (div_nonneg hv0 (le_of_lt hu))).2 ?_
    push_cast
    rw [div_lt_iff₀ hu, ← zpow_natCast, ← two_zpow_add]
    exact lt_of_lt_of_le hhi (two_zpow_le (by push_cast; omega))
  have hQm : (sideRound (sideOf mode neg) (v / 2 ^ t) : ℚ) * 2 ^ t ≤ 2 ^ F.emin := by
    have h1 : (sideRound (sideOf mode neg) (v / 2 ^ t) : ℚ) ≤ 2 ^ (F.fbits + 1) := by exact_mod_cast hQhi
    calc (sideRound (sideOf mode neg) (v / 2 ^ t) : ℚ) * 2 ^ t ≤ 2 ^ (F.fbits + 1) * 2 ^ t := mul_le_mul_of_nonneg_right h1 (le_of_lt hu)
      _ = 2 ^ (((F.fbits + 1 : Nat) : Int) + t) := by rw [two_zpow_add, zpow_natCast]
      _ ≤ 2 ^ F.emin := two_zpow_le (by push_cast; omega)
  have hno : ¬ topOf F < sideRound (sideOf mode neg) (v / 2 ^ t) * 2 ^ t := not_lt.2 (le_trans hQm htop)
  have htiny : isTiny F (sideOf mode neg) v ↔ (sideRound (sideOf mode neg) (v / 2 ^ t) : ℚ) * 2 ^ t < 2 ^ F.emin := by
    have he : F.xmin - 1 + F.fbits + 1 = F.emin := by omega
    have h := sideRound_reaches (sideOf mode neg) F.fbits hF.fbits (t0 := F.xmin - 1) hlo hhi
    rw [he] at h
    rw [F.isTiny_iff, ← h, not_le]
  refine Or.inr ⟨hover, ⌊v / 2 ^ F.xmin⌋₊, ?_, ?_, ?_, ?_⟩
  · rw [hN]
    exact (le_div_iff₀ hux).1 (Nat.floor_le hz0)
  · rw [hN1]
    push_cast
    exact (div_lt_iff₀ hux).1 (Nat.lt_floor_add_one _)
  · rw [hround]
    omega
  · by_cases hl : (sideRound (sideOf mode neg) (v / 2 ^ t) : ℚ) * 2 ^ t < 2 ^ F.emin
    · simp only [Fmt.roundExact, if_neg hno, if_pos hl, hround]
      refine ⟨F.pack_low neg _ (by omega), fun he => ?_, fun he _ => ?_, fun _ hnt => absurd (htiny.2 hl) hnt⟩
      · rw [if_neg (not_not.2 (hexact.1 he))]
      · rw [if_pos (mt hexact.2 he)]
    · -- the place above is reached: the least normal number itself
      have hnt := mt htiny.1 hl
      have hte : t = F.xmin - 1 := by
        by_contra hne
        have h1 : (sideRound (sideOf mode neg) (v / 2 ^ t) : ℚ) ≤ 2 ^ (F.fbits + 1) := by exact_mod_cast hQhi
        refine hl ?_
        calc (sideRound (sideOf mode neg) (v / 2 ^ t) : ℚ) * 2 ^ t ≤ 2 ^ (F.fbits + 1) * 2 ^ t := mul_le_mul_of_nonneg_right h1 (le_of_lt hu)
          _ = 2 ^ (((F.fbits + 1 : Nat) : Int) + t) := by rw [two_zpow_add, zpow_natCast]
          _ < 2 ^ F.emin := two_zpow_lt (by push_cast; omega)
      have hQe : sideRound (sideOf mode neg) (v / 2 ^ t) = 2 ^ (F.fbits + 1) := by
        refine le_antisymm hQhi ?_
        have h1 : (2 : ℚ) ^ F.emin = 2 ^ (F.fbits + 1) * 2 ^ t := by
          rw [← zpow_natCast, ← two_zpow_add]
          congr 1
          push_cast
          omega
        have h2 := not_lt.1 hl
        rw [h1, mul_le_mul_iff_left₀ hu] at h2
        exact_mod_cast h2
      have hnw : v / 2 ^ t ≠ ⌊v / 2 ^ t⌋₊ := by
        intro hw
        rw [sideRound_whole _ hw, ← hw, div_mul_cancel₀ _ hu.ne'] at hl
        exact hl hvm
      have hQs : sideRound (sideOf mode neg) (v / 2 ^ F.xmin) = 2 ^ F.fbits := by
        refine le_antisymm (by omega) ((le_sideRound_iff _ _ hF.fbits hz0 hz1).2 ?_)
        have hr := not_not.1 (mt (F.isTiny_iff (sideOf mode neg) v).2 hnt)
        have hhalf : (2 : ℚ) ^ (F.xmin - 1) = 2 ^ F.xmin / 2 := by rw [sub_eq_add_neg, two_zpow_add]; norm_num; ring
        rw [hem, hhalf] at hr
        have hvz : v = v / 2 ^ F.xmin * 2 ^ F.xmin := (div_mul_cancel₀ _ hux.ne').symm
        generalize v / 2 ^ F.xmin = z at hvz
        subst hvz
        cases hside : sideOf mode neg with
        | near =>
          rw [hside] at hr
          simp only [sideReaches] at hr ⊢
          nlinarith
        | trunc =>
          rw [hside] at hr
          simp only [sideReaches] at hr ⊢
          exact (mul_le_mul_iff_left₀ hux).1 hr
        | away =>
          rw [hside] at hr
          simp only [sideReaches] at hr ⊢
          nlinarith
      have hne : v ≠ F.ordVal ⌊v / 2 ^ F.xmin⌋₊ := by
        intro he
        have hw := hexact.1 he
        rw [sideRound_whole _ hw] at hQs
        omega
      simp only [Fmt.roundExact, if_neg hno, if_neg hl, hround]
      refine ⟨?_, fun he => absurd he hne, fun _ h => absurd h hnt, fun _ _ => by rw [if_pos hnw]⟩
      rw [hQs, hQe, hte]
      exact F.pack_carry neg

/-- The rounding of R29 of a magnitude. -/
theorem Fmt.Plain.roundExact_spec : F.RoundsTo mode neg v (F.roundExact mode neg v t) := by
  rcases le_or_gt F.emin (t + F.fbits) with h | h
  · exact hF.roundExact_normal mode neg hlo hhi h
  · exact hF.roundExact_low mode neg hlo hhi h

end

/-- The model's rounding of a number whose places are cut. -/
theorem Fmt.Plain.roundMag_spec {m : Nat} {e : Int} {sticky : Bool} {f : ℚ} (hc : Cut F m sticky f) (mode : RMode) (neg : Bool) :
    F.RoundsTo mode neg ((m + f) * 2 ^ e) (F.roundMag mode false neg m e sticky) := by
  obtain ⟨hlo, hhi⟩ := hc.bounds (e := e)
  rw [hF.roundMag_eq hc]
  refine hF.roundExact_spec mode neg ?_ ?_
  · rwa [show e + (bitLen m : Int) - 1 - F.fbits + F.fbits = e + bitLen m - 1 by ring]
  · rwa [show e + (bitLen m : Int) - 1 - F.fbits + F.fbits + 1 = e + bitLen m by ring]

/-- The model's rounding of an exact number. -/
theorem Fmt.Plain.round_spec {m : Nat} (hm : m ≠ 0) (e : Int) (mode : RMode) (neg : Bool) :
    F.RoundsTo mode neg (m * 2 ^ e) (F.round mode (.fin neg m e)) := by
  have h := hF.roundMag_spec (Cut.exact F hm) (e := e) mode neg
  rw [add_zero] at h
  simpa only [Fmt.round, if_neg hm] using h

end

end Sys2Proof.Machine
end

section
/-!
SUPPORT. The numbers that values stand for, on the line with its two ends: what the model's order and exact sum say of them (R29, R33, R135).
-/

namespace Sys2Proof.Machine

open Claim

/-- A number on the extended line. -/
noncomputable def onLine (q : ℚ) : EReal := ((q : ℝ) : EReal)

theorem onLine_le {p q : ℚ} : onLine p ≤ onLine q ↔ p ≤ q := by
  rw [onLine, onLine, EReal.coe_le_coe_iff]
  exact Rat.cast_le

theorem onLine_lt {p q : ℚ} : onLine p < onLine q ↔ p < q := by
  rw [onLine, onLine, EReal.coe_lt_coe_iff]
  exact Rat.cast_lt

theorem onLine_zero : onLine 0 = 0 := by simp [onLine]

theorem onLine_neg (q : ℚ) : onLine (-q) = -onLine q := by
  rw [onLine, onLine, Rat.cast_neg, EReal.coe_neg]

/-- Where a value lies: an infinity at its end of the line. -/
noncomputable def Fp.place : Fp → EReal
  | .inf n => if n then ⊥ else ⊤
  | x => onLine (Fp.num x)

@[simp] theorem Fp.place_neg_inf : (Fp.inf true).place = ⊥ := rfl

@[simp] theorem Fp.place_inf : (Fp.inf false).place = ⊤ := rfl

theorem Fp.place_fin (n : Bool) (m : Nat) (e : Int) : (Fp.fin n m e).place = onLine (Fp.num (.fin n m e)) := rfl

/-- A magnitude with its sign. -/
def signed (n : Bool) (v : ℚ) : ℚ := if n then -v else v

theorem Fp.num_fin (n : Bool) (m : Nat) (e : Int) : Fp.num (.fin n m e) = signed n (m * 2 ^ e) := by
  cases n <;> simp [Fp.num, signed]

theorem Fp.num_eq_zero {n : Bool} {m : Nat} {e : Int} : Fp.num (.fin n m e) = 0 ↔ m = 0 := by
  have h := (two_zpow_pos e).ne'
  cases n <;> simp [Fp.num, h]

theorem abs_signed {v : ℚ} (h : 0 ≤ v) (n : Bool) : |signed n v| = v := by
  cases n with
  | false => exact abs_of_nonneg h
  | true => exact (abs_neg v).trans (abs_of_nonneg h)

theorem signed_inj {n : Bool} {v w : ℚ} : signed n v = signed n w ↔ v = w := by
  cases n <;> simp [signed]

theorem below_iff (x : Fp) (q : ℚ) : below x q ↔ x.isNan = false ∧ x.place ≤ onLine q := by
  cases x with
  | nan s => simp [below, Fp.isNan]
  | inf n => cases n <;> simp [below, Fp.isNan, onLine]
  | fin n m e => simp only [below, Fp.isNan, true_and, Fp.place_fin, onLine_le]

theorem above_iff (x : Fp) (q : ℚ) : above x q ↔ x.isNan = false ∧ onLine q ≤ x.place := by
  cases x with
  | nan s => simp [above, Fp.isNan]
  | inf n => cases n <;> simp [above, Fp.isNan, onLine]
  | fin n m e => simp only [above, Fp.isNan, true_and, Fp.place_fin, onLine_le]

theorem sgn_cast (n : Bool) (k : Nat) : ((sgn n k : Int) : ℚ) = signed n k := by
  cases n <;> simp [sgn, signed]

/-- The exact sum of two finite values, as an integer and an exponent, is the sum of their numbers. -/
theorem addExact_num (n1 : Bool) (m1 : Nat) (e1 : Int) (n2 : Bool) (m2 : Nat) (e2 : Int) :
    ((addExact n1 m1 e1 n2 m2 e2).1 : ℚ) * 2 ^ (addExact n1 m1 e1 n2 m2 e2).2 = Fp.num (.fin n1 m1 e1) + Fp.num (.fin n2 m2 e2) := by
  have hs : ∀ (n : Bool) (m : Nat) (e x : Int), x ≤ e → ((sgn n (scaleUp m (e - x)) : Int) : ℚ) * 2 ^ x = Fp.num (.fin n m e) := by
    intro n m e x h
    have he : (2 : ℚ) ^ e = 2 ^ (e - x) * 2 ^ x := by
      rw [← two_zpow_add]
      congr 1
      ring
    rw [sgn_cast, Fp.num_fin, scaleUp_cast _ _ (by omega), he]
    cases n <;> simp only [signed, if_true, Bool.false_eq_true, if_false] <;> ring
  rw [addExact]
  simp only [Int.cast_add, add_mul]
  rw [hs n1 m1 e1 _ (min_le_left _ _), hs n2 m2 e2 _ (min_le_right _ _)]

/-- A signed integer at an exponent, as a value. -/
theorem Fp.num_ofInt (k e : Int) (z : Bool) : Fp.num (Fp.ofInt k e z) = k * 2 ^ e := by
  unfold Fp.ofInt
  split
  · next h => simp [Fp.num, h]
  · rw [Fp.num_fin, Nat.cast_natAbs]
    rcases lt_or_ge k 0 with h | h
    · simp [signed, h, abs_of_neg h]
    · simp [signed, not_lt.2 h, abs_of_nonneg h]

theorem Fp.num_not (n : Bool) (m : Nat) (e : Int) : Fp.num (.fin (!n) m e) = -Fp.num (.fin n m e) := by
  cases n <;> simp [Fp.num]

/-- The order of two values that are not NaN is that of their places. -/
theorem Fp.cmp_spec {a b : Fp} (ha : a.isNan = false) (hb : b.isNan = false) :
    (Fp.cmp a b < 0 ↔ a.place < b.place) ∧ (Fp.cmp a b ≤ 0 ↔ a.place ≤ b.place) := by
  cases a with
  | nan s => cases ha
  | inf n =>
    cases b with
    | nan s => cases hb
    | inf k => cases n <;> cases k <;> simp [Fp.cmp]
    | fin k j i => cases n <;> simp [Fp.cmp, Fp.place_fin, onLine]
  | fin n m e =>
    cases b with
    | nan s => cases hb
    | inf k => cases k <;> simp [Fp.cmp, Fp.place_fin, onLine]
    | fin k j i =>
      have hs := addExact_num n m e (!k) j i
      rw [Fp.num_not, ← sub_eq_add_neg] at hs
      have hp := two_zpow_pos (addExact n m e (!k) j i).2
      have hlt : Fp.num (.fin n m e) < Fp.num (.fin k j i) ↔ (addExact n m e (!k) j i).1 < 0 := by
        rw [← sub_neg, ← hs, ← zero_mul ((2 : ℚ) ^ (addExact n m e (!k) j i).2), mul_lt_mul_iff_left₀ hp, Int.cast_lt_zero]
      have hle : Fp.num (.fin n m e) ≤ Fp.num (.fin k j i) ↔ (addExact n m e (!k) j i).1 ≤ 0 := by
        rw [← sub_nonpos, ← hs, ← zero_mul ((2 : ℚ) ^ (addExact n m e (!k) j i).2), mul_le_mul_iff_left₀ hp, Int.cast_nonpos]
      rw [Fp.place_fin, Fp.place_fin, onLine_lt, onLine_le, hlt, hle]
      simp only [Fp.cmp]
      split
      · omega
      · split <;> omega

theorem Fp.le_iff {a b : Fp} (ha : a.isNan = false) (hb : b.isNan = false) : Fp.le a b = true ↔ a.place ≤ b.place := by
  rw [Fp.le, decide_eq_true_eq, (Fp.cmp_spec ha hb).2]

theorem Fp.lt_iff {a b : Fp} (ha : a.isNan = false) (hb : b.isNan = false) : Fp.lt a b = true ↔ a.place < b.place := by
  rw [Fp.lt, decide_eq_true_eq, (Fp.cmp_spec ha hb).1]

end Sys2Proof.Machine
end

section
/-!
SUPPORT. What each rounding mode gives, in numbers (R29, R132).
-/

namespace Sys2Proof.Machine

open Claim

/-- The magnitude of the bits K, that of an infinity at the end of the line. -/
noncomputable def Fmt.magOf (F : Fmt) (K : Nat) : EReal := if K = F.infBits then ⊤ else onLine (F.ordVal K)

/-- A place on the line with a sign. -/
noncomputable def signedPlace (n : Bool) (x : EReal) : EReal := if n then -x else x

theorem onLine_signed (n : Bool) (v : ℚ) : onLine (signed n v) = signedPlace n (onLine v) := by
  cases n with
  | false => rfl
  | true => exact onLine_neg v

theorem signedPlace_false (x : EReal) : signedPlace false x = x := rfl

section
variable {F : Fmt} (hF : F.Plain)
include hF

omit hF in
theorem Fmt.magOf_mono {K L : Nat} (h : K ≤ L) (hL : L ≤ F.infBits) : F.magOf K ≤ F.magOf L := by
  unfold Fmt.magOf
  by_cases hLi : L = F.infBits
  · rw [if_pos hLi]
    exact le_top
  · rw [if_neg hLi, if_neg (by omega), onLine_le]
    exact F.ordVal_strictMono.monotone h

omit hF in
theorem Fmt.magOf_fin {K : Nat} (h : K < F.infBits) : F.magOf K = onLine (F.ordVal K) := if_neg (by omega)

omit hF in
theorem Fmt.magOf_nonneg (F : Fmt) (K : Nat) : 0 ≤ F.magOf K := by
  unfold Fmt.magOf
  split
  · exact le_top
  · rw [← onLine_zero, onLine_le, ← F.ordVal_zero]
    exact F.ordVal_strictMono.monotone (Nat.zero_le K)

/-- The value of a sign and a magnitude. -/
theorem Fmt.Plain.decode_place (n : Bool) {K : Nat} (h : K ≤ F.infBits) :
    (F.decode (F.signOf n + K)).isNan = false ∧ (F.decode (F.signOf n + K)).place = signedPlace n (F.magOf K) := by
  rcases Nat.lt_or_eq_of_le h with h | rfl
  · obtain ⟨m, e, hd, hv⟩ := hF.decode_ord h n
    rw [hd, Fp.place_fin, Fp.num_fin, hv, onLine_signed, Fmt.magOf_fin h]
    exact ⟨rfl, rfl⟩
  · rw [hF.decode_inf n, Fmt.magOf, if_pos rfl]
    cases n with
    | false => exact ⟨rfl, rfl⟩
    | true => exact ⟨rfl, rfl⟩

/-- The number of a finite value with the bits K. -/
theorem Fmt.Plain.decode_num (n : Bool) {K : Nat} (h : K < F.infBits) : ∃ m e, F.decode (F.signOf n + K) = .fin n m e ∧
    Fp.num (F.decode (F.signOf n + K)) = signed n (F.ordVal K) := by
  obtain ⟨m, e, hd, hv⟩ := hF.decode_ord h n
  exact ⟨m, e, hd, by rw [hd, Fp.num_fin, hv]⟩

/-- The values that the format holds are those of its signs and magnitudes. -/
theorem Fmt.Plain.held_place {y : Fp} (hy : heldBy F y) (hn : y.isNan = false) : ∃ n K, K ≤ F.infBits ∧ y.place = signedPlace n (F.magOf K) := by
  obtain ⟨b, hb, rfl⟩ := hy
  cases hd : F.decode b with
  | nan s =>
    rw [hd] at hn
    cases hn
  | inf n =>
    refine ⟨n, F.infBits, le_refl _, ?_⟩
    rw [Fmt.magOf, if_pos rfl]
    cases n with
    | false => rfl
    | true => rfl
  | fin n m e =>
    obtain ⟨N, hN, -, hv⟩ := hF.ord_of_decode hb hd
    exact ⟨n, N, le_of_lt hN, by rw [Fp.place_fin, Fp.num_fin, hv, onLine_signed, Fmt.magOf_fin hN]⟩

theorem Fmt.Plain.held_num {n : Bool} {m : Nat} {e : Int} (hy : heldBy F (.fin n m e)) : ∃ K, Fp.num (.fin n m e) = signed n (F.ordVal K) := by
  obtain ⟨b, hb, hd⟩ := hy
  obtain ⟨N, -, -, hv⟩ := hF.ord_of_decode hb hd
  exact ⟨N, by rw [Fp.num_fin, hv]⟩

theorem Fmt.Plain.maxBits_lt : F.maxBits < F.infBits := by
  have := hF.maxBits_succ
  omega

/-! ### Toward zero and away from it -/

omit hF in
theorem Fmt.overflow_trunc (F : Fmt) {mode : RMode} {n : Bool} (hs : sideOf mode n = .trunc) : F.overflow mode n = F.signOf n + F.maxBits := by
  revert hs
  cases mode <;> cases n <;> simp [sideOf, Fmt.overflow, Fmt.signOf]

omit hF in
theorem Fmt.overflow_away (F : Fmt) {mode : RMode} {n : Bool} (hs : sideOf mode n = .away) : F.overflow mode n = F.signOf n + F.infBits := by
  revert hs
  cases mode <;> cases n <;> simp [sideOf, Fmt.overflow, Fmt.signOf]

section
variable {mode : RMode} {n : Bool} {v : ℚ} {r : Nat × Nat} (hr : F.RoundsTo mode n v r)
include hr

/-- Toward zero: the greatest magnitude at or below. -/
theorem Fmt.Plain.trunc_spec (hs : sideOf mode n = .trunc) :
    ∃ K, K ≤ F.infBits ∧ r.1 = F.signOf n + K ∧ F.magOf K ≤ onLine v ∧ ∀ L, L ≤ F.infBits → F.magOf L ≤ onLine v → L ≤ K := by
  have hlt := hF.maxBits_lt
  have hfin : ∀ {L : Nat}, L ≤ F.infBits → F.magOf L ≤ onLine v → L ≤ F.maxBits ∧ F.ordVal L ≤ v := by
    intro L hL hle
    have hne : L ≠ F.infBits := by
      rintro rfl
      rw [Fmt.magOf, if_pos rfl, top_le_iff] at hle
      exact EReal.coe_ne_top _ hle
    have := hF.maxBits_succ
    rw [Fmt.magOf_fin (by omega), onLine_le] at hle
    exact ⟨by omega, hle⟩
  rcases hr with ⟨ho, rfl⟩ | ⟨ho, N, hN, hN1, hK, h1, -⟩
  · rw [hs] at ho
    refine ⟨F.maxBits, le_of_lt hlt, ?_, ?_, fun L hL h => (hfin hL h).1⟩
    · exact F.overflow_trunc hs
    · rw [Fmt.magOf_fin hlt, onLine_le, ← hF.topOf_ord]
      have := two_zpow_pos ((2 ^ F.ebits - 2 : Int) - F.bias - F.fbits)
      simp only [overflows, topUlp] at ho
      linarith
  · have hNK : F.ordRound (sideOf mode n) N v = N := by rw [hs]; rfl
    rw [hNK] at hK h1
    refine ⟨N, by omega, h1, ?_, fun L hL h => ?_⟩
    · rw [Fmt.magOf_fin (by omega), onLine_le]
      exact hN
    · have := F.ordVal_strictMono.lt_iff_lt.1 (lt_of_le_of_lt (hfin hL h).2 hN1)
      omega

/-- Away from zero: the least magnitude at or above. -/
theorem Fmt.Plain.away_spec (hs : sideOf mode n = .away) :
    ∃ K, K ≤ F.infBits ∧ r.1 = F.signOf n + K ∧ onLine v ≤ F.magOf K ∧ ∀ L, L ≤ F.infBits → onLine v ≤ F.magOf L → K ≤ L := by
  have hlt := hF.maxBits_lt
  have hfin : ∀ {L : Nat}, L ≤ F.infBits → onLine v ≤ F.magOf L → L = F.infBits ∨ v ≤ F.ordVal L := by
    intro L hL hle
    rcases Nat.lt_or_eq_of_le hL with h | h
    · rw [Fmt.magOf_fin h, onLine_le] at hle
      exact Or.inr hle
    · exact Or.inl h
  rcases hr with ⟨ho, rfl⟩ | ⟨ho, N, hN, hN1, hK, h1, -⟩
  · rw [hs] at ho
    refine ⟨F.infBits, le_refl _, ?_, ?_, fun L hL h => ?_⟩
    · exact F.overflow_away hs
    · rw [Fmt.magOf, if_pos rfl]
      exact le_top
    · rcases hfin hL h with rfl | h
      · exact le_refl _
      · simp only [overflows, hF.topOf_ord] at ho
        have := F.ordVal_strictMono.lt_iff_lt.1 (lt_of_lt_of_le ho h)
        have := hF.maxBits_succ
        omega
  · refine ⟨_, le_trans hK (le_of_lt hlt), h1, ?_, fun L hL h => ?_⟩
    · rw [Fmt.magOf_fin (lt_of_le_of_lt hK hlt), onLine_le, hs]
      by_cases he : v = F.ordVal N
      · rw [he, F.ordRound_exact]
      · rw [Fmt.ordRound, Fmt.ordUp, if_pos (decide_eq_true he)]
        exact le_of_lt hN1
    · rcases hfin hL h with rfl | h
      · exact le_trans hK (le_of_lt hlt)
      · rw [hs]
        by_cases he : v = F.ordVal N
        · rw [he, F.ordRound_exact]
          exact F.ordVal_strictMono.le_iff_le.1 (he ▸ h)
        · rw [Fmt.ordRound, Fmt.ordUp, if_pos (decide_eq_true he)]
          exact F.ordVal_strictMono.lt_iff_lt.1 (lt_of_lt_of_le (lt_of_le_of_ne hN (Ne.symm he)) h)

end

end

end Sys2Proof.Machine
end

section
/-!
SUPPORT. Settles O39: what each rounding mode gives, in numbers (R29, R33, R132).
-/

namespace Sys2Proof.Machine

open Claim

section
variable {F : Fmt} (hF : F.Plain) {v : ℚ} (hv : 0 < v) {mode : RMode} {n : Bool} {r : Nat × Nat} (hr : F.RoundsTo mode n v r)
include hF hv hr

/-- A mode that rounds a number down: the greatest value at or below it. -/
theorem Fmt.Plain.greatest_below (hs : sideOf mode n = if n then .away else .trunc) :
    below (F.decode r.1) (signed n v) ∧ ∀ y, heldBy F y → y.isNan = false → below y (signed n v) → Fp.le y (F.decode r.1) = true := by
  have h0 : 0 < onLine v := by rwa [← onLine_zero, onLine_lt]
  simp only [below_iff, onLine_signed]
  cases n with
  | false =>
    obtain ⟨K, hK, h1, hle, hmax⟩ := hF.trunc_spec hr hs
    obtain ⟨hnan, hp⟩ := hF.decode_place false hK
    rw [← h1] at hnan hp
    refine ⟨⟨hnan, hp ▸ hle⟩, fun y hy hyn ⟨_, hyq⟩ => ?_⟩
    rw [Fp.le_iff hyn hnan, hp]
    obtain ⟨k, L, hL, hyp⟩ := hF.held_place hy hyn
    rw [hyp] at hyq ⊢
    cases k with
    | false => exact F.magOf_mono (hmax L hL hyq) hK
    | true => exact le_trans (EReal.neg_le_zero.2 (F.magOf_nonneg L)) (F.magOf_nonneg K)
  | true =>
    obtain ⟨K, hK, h1, hle, hmin⟩ := hF.away_spec hr hs
    obtain ⟨hnan, hp⟩ := hF.decode_place true hK
    rw [← h1] at hnan hp
    refine ⟨⟨hnan, hp ▸ EReal.neg_le_neg_iff.2 hle⟩, fun y hy hyn ⟨_, hyq⟩ => ?_⟩
    rw [Fp.le_iff hyn hnan, hp]
    obtain ⟨k, L, hL, hyp⟩ := hF.held_place hy hyn
    rw [hyp] at hyq ⊢
    cases k with
    | false => exact absurd (le_trans (F.magOf_nonneg L) hyq) (not_le.2 (EReal.neg_lt_zero.2 h0))
    | true => exact EReal.neg_le_neg_iff.2 (F.magOf_mono (hmin L hL (EReal.neg_le_neg_iff.1 hyq)) hL)

/-- A mode that rounds a number up: the least value at or above it. -/
theorem Fmt.Plain.least_above (hs : sideOf mode n = if n then .trunc else .away) :
    above (F.decode r.1) (signed n v) ∧ ∀ y, heldBy F y → y.isNan = false → above y (signed n v) → Fp.le (F.decode r.1) y = true := by
  have h0 : 0 < onLine v := by rwa [← onLine_zero, onLine_lt]
  simp only [above_iff, onLine_signed]
  cases n with
  | false =>
    obtain ⟨K, hK, h1, hle, hmin⟩ := hF.away_spec hr hs
    obtain ⟨hnan, hp⟩ := hF.decode_place false hK
    rw [← h1] at hnan hp
    refine ⟨⟨hnan, hp ▸ hle⟩, fun y hy hyn ⟨_, hyq⟩ => ?_⟩
    rw [Fp.le_iff hnan hyn, hp]
    obtain ⟨k, L, hL, hyp⟩ := hF.held_place hy hyn
    rw [hyp] at hyq ⊢
    cases k with
    | false => exact F.magOf_mono (hmin L hL hyq) hL
    | true => exact absurd (le_trans hyq (EReal.neg_le_zero.2 (F.magOf_nonneg L))) (not_le.2 h0)
  | true =>
    obtain ⟨K, hK, h1, hle, hmax⟩ := hF.trunc_spec hr hs
    obtain ⟨hnan, hp⟩ := hF.decode_place true hK
    rw [← h1] at hnan hp
    refine ⟨⟨hnan, hp ▸ EReal.neg_le_neg_iff.2 hle⟩, fun y hy hyn ⟨_, hyq⟩ => ?_⟩
    rw [Fp.le_iff hnan hyn, hp]
    obtain ⟨k, L, hL, hyp⟩ := hF.held_place hy hyn
    rw [hyp] at hyq ⊢
    cases k with
    | false => exact le_trans (EReal.neg_le_zero.2 (F.magOf_nonneg K)) (F.magOf_nonneg L)
    | true => exact EReal.neg_le_neg_iff.2 (F.magOf_mono (hmax L hL (EReal.neg_le_neg_iff.1 hyq)) hK)

omit hv in
/-- Two modes that round the magnitude toward zero give the same value. -/
theorem Fmt.Plain.trunc_unique {mode' : RMode} {r' : Nat × Nat} (hr' : F.RoundsTo mode' n v r') (hs : sideOf mode n = .trunc) (hs' : sideOf mode' n = .trunc) :
    r.1 = r'.1 := by
  obtain ⟨K, hK, h1, hle, hmax⟩ := hF.trunc_spec hr hs
  obtain ⟨L, hL, h1', hle', hmax'⟩ := hF.trunc_spec hr' hs'
  rw [h1, h1', le_antisymm (hmax' K hK hle) (hmax L hL hle')]

end

theorem mag_pos {m : Nat} (hm : m ≠ 0) (e : Int) : (0 : ℚ) < m * 2 ^ e :=
  mul_pos (by exact_mod_cast Nat.pos_of_ne_zero hm) (two_zpow_pos e)

theorem directedRounding : Claim.DirectedRounding := by
  intro F hF n m e hm
  have hp := Fmt.plain_of_arith hF
  have hr := fun mode => hp.round_spec hm e mode n
  obtain ⟨hb, hbm⟩ := hp.greatest_below (mag_pos hm e) (hr .rdn) rfl
  obtain ⟨ha, ham⟩ := hp.least_above (mag_pos hm e) (hr .rup) rfl
  simp only [Fp.num_fin]
  refine ⟨hb, ha, hbm, ham, ?_⟩
  cases n with
  | false => exact hp.trunc_unique (hr .rtz) (hr .rdn) rfl rfl
  | true => exact hp.trunc_unique (hr .rtz) (hr .rup) rfl rfl

/-! ### To the nearest -/

/-- How far the magnitudes of a format lie from a number between two neighbours. -/
theorem Fmt.ordVal_distance (F : Fmt) {N L : Nat} {v : ℚ} (h : F.ordVal N ≤ v) (h1 : v < F.ordVal (N + 1)) :
    (L ≤ N → |F.ordVal L - v| = v - F.ordVal L ∧ F.ordVal L ≤ F.ordVal N) ∧
    (N < L → |F.ordVal L - v| = F.ordVal L - v ∧ F.ordVal (N + 1) ≤ F.ordVal L) := by
  refine ⟨fun hL => ?_, fun hL => ?_⟩
  · have hle := F.ordVal_strictMono.monotone hL
    exact ⟨by rw [abs_of_nonpos (by linarith), neg_sub], hle⟩
  · have hle := F.ordVal_strictMono.monotone (show N + 1 ≤ L from hL)
    exact ⟨abs_of_nonneg (by linarith), hle⟩

/-- The neighbour taken lies at least as near as any magnitude. -/
theorem Fmt.ordRound_nearest (F : Fmt) {N : Nat} {v : ℚ} (h : F.ordVal N ≤ v) (h1 : v < F.ordVal (N + 1)) (L : Nat) :
    |F.ordVal (F.ordRound .near N v) - v| ≤ |F.ordVal L - v| := by
  obtain ⟨hN, -⟩ := (F.ordVal_distance (L := N) h h1).1 (le_refl _)
  obtain ⟨hN1, -⟩ := (F.ordVal_distance (L := N + 1) h h1).2 (Nat.lt_succ_self _)
  have hK : |F.ordVal (F.ordRound .near N v) - v| ≤ v - F.ordVal N ∧ |F.ordVal (F.ordRound .near N v) - v| ≤ F.ordVal (N + 1) - v := by
    rw [Fmt.ordRound]
    split
    · next hu =>
      simp only [Fmt.ordUp, Bool.or_eq_true, Bool.and_eq_true, decide_eq_true_eq] at hu
      rw [hN1]
      refine ⟨?_, le_refl _⟩
      rcases hu with hu | ⟨hu, -⟩ <;> linarith
    · next hu =>
      simp only [Fmt.ordUp, Bool.or_eq_true, Bool.and_eq_true, decide_eq_true_eq, not_or, not_lt] at hu
      rw [hN]
      exact ⟨le_refl _, by linarith [hu.1]⟩
  rcases Nat.lt_or_ge N L with hL | hL
  · obtain ⟨hd, hle⟩ := (F.ordVal_distance (L := L) h h1).2 hL
    linarith [hK.2]
  · obtain ⟨hd, hle⟩ := (F.ordVal_distance (L := L) h h1).1 hL
    linarith [hK.1]

/-- Of two that lie equally near, the one with an even number. -/
theorem Fmt.ordRound_even (F : Fmt) {N L : Nat} {v : ℚ} (h : F.ordVal N ≤ v) (h1 : v < F.ordVal (N + 1)) (hL : L ≠ F.ordRound .near N v)
    (he : |F.ordVal L - v| = |F.ordVal (F.ordRound .near N v) - v|) : F.ordRound .near N v % 2 = 0 := by
  obtain ⟨hN, -⟩ := (F.ordVal_distance (L := N) h h1).1 (le_refl _)
  obtain ⟨hN1, -⟩ := (F.ordVal_distance (L := N + 1) h h1).2 (Nat.lt_succ_self _)
  have hmN := F.ordRound_nearest h h1 N
  have hmN1 := F.ordRound_nearest h h1 (N + 1)
  -- the other one is the other neighbour
  have hLN : L = N ∨ L = N + 1 := by
    rcases Nat.lt_or_ge N L with hlt | hge
    · obtain ⟨hd, -⟩ := (F.ordVal_distance (L := L) h h1).2 hlt
      refine Or.inr (le_antisymm (F.ordVal_strictMono.le_iff_le.1 ?_) hlt)
      linarith
    · obtain ⟨hd, -⟩ := (F.ordVal_distance (L := L) h h1).1 hge
      refine Or.inl (le_antisymm hge (F.ordVal_strictMono.le_iff_le.1 ?_))
      linarith
  have hsum : F.ordVal N + F.ordVal (N + 1) = 2 * v := by
    unfold Fmt.ordRound at he hL
    split at he
    · next hu =>
      rw [if_pos hu] at hL
      have : L = N := by omega
      rw [this, hN, hN1] at he
      linarith
    · next hu =>
      rw [if_neg hu] at hL
      have : L = N + 1 := by omega
      rw [this, hN, hN1] at he
      linarith
  simp only [Fmt.ordRound, Fmt.ordUp, hsum, lt_irrefl, decide_false, decide_true, Bool.false_or, Bool.true_and, beq_iff_eq]
  split <;> omega

/-- A held magnitude with a sign, seen from a number: it lies at least as far as the magnitude from the number's. -/
theorem signed_distance {v w : ℚ} (hv : 0 < v) (hw : 0 ≤ w) (n k : Bool) :
    |w - v| ≤ |signed k w - signed n v| ∧ (n ≠ k → w = 0 ∨ v < |signed k w - signed n v|) ∧ (n = k → |signed k w - signed n v| = |w - v|) := by
  have hne : ∀ x y : ℚ, |-x - -y| = |x - y| := fun x y => by rw [← abs_neg]; congr 1; ring
  have hopp : |w + v| = w + v := abs_of_nonneg (by linarith)
  have hle : |w - v| ≤ w + v := abs_le.2 ⟨by linarith, by linarith⟩
  have hz : w = 0 ∨ v < w + v := by
    rcases eq_or_lt_of_le hw with h | h
    · exact Or.inl h.symm
    · exact Or.inr (by linarith)
  cases n with
  | false =>
    cases k with
    | false => exact ⟨le_refl _, fun h => absurd rfl h, fun _ => rfl⟩
    | true =>
      have : |signed true w - signed false v| = w + v := by
        rw [← hopp, ← abs_neg]
        congr 1
        simp only [signed, if_true, Bool.false_eq_true, if_false]
        ring
      rw [this]
      exact ⟨hle, fun _ => hz, fun h => by cases h⟩
  | true =>
    cases k with
    | false =>
      have : |signed false w - signed true v| = w + v := by
        rw [← hopp]
        congr 1
        simp only [signed, if_true, Bool.false_eq_true, if_false]
        ring
      rw [this]
      exact ⟨hle, fun _ => hz, fun h => by cases h⟩
    | true => exact ⟨le_of_eq (hne w v).symm, fun h => absurd rfl h, fun _ => hne w v⟩

theorem Fmt.signOf_even (F : Fmt) (hs : 1 ≤ F.fbits) (n : Bool) : F.signOf n % 2 = 0 := by
  obtain ⟨c, hc⟩ := Nat.exists_eq_add_of_le' (show 1 ≤ F.signBit by rw [Fmt.signBit]; omega)
  cases n with
  | false => rfl
  | true =>
    simp only [Fmt.signOf, if_true, hc, pow_succ]
    omega

theorem nearestRounding : Claim.NearestRounding := by
  intro F hF n m e hm
  have hp := Fmt.plain_of_arith hF
  have hv := mag_pos hm e
  have hr := hp.round_spec hm e .rne n
  simp only [Fp.num_fin n m e, abs_signed (le_of_lt hv)]
  generalize hq : (m : ℚ) * 2 ^ e = v at hv hr
  generalize F.round .rne (.fin n m e) = r at hr
  have hover : overflows F (sideOf .rne n) v ↔ topOf F + topUlp F / 2 ≤ v := Iff.rfl
  rw [Fmt.RoundsTo, hover] at hr
  refine ⟨fun hlt => ?_, fun hle => ?_⟩
  · rcases hr with ⟨ho, -⟩ | ⟨-, N, hN, hN1, hK, h1, -⟩
    · exact absurd hlt (not_lt.2 ho)
    obtain ⟨m', e', hd, hnum⟩ := hp.decode_num n (lt_of_le_of_lt hK hp.maxBits_lt)
    rw [← h1] at hd hnum
    have hpos : ∀ L, 0 ≤ F.ordVal L := fun L => by
      rw [← F.ordVal_zero]
      exact F.ordVal_strictMono.monotone (Nat.zero_le L)
    have hself := (signed_distance hv (hpos (F.ordRound .near N v)) n n).2.2 rfl
    refine ⟨n, m', e', hd, fun k j i hy => ?_, fun k j i hy hne heq => ?_⟩
    · obtain ⟨L, hL⟩ := hp.held_num hy
      rw [hnum, hL]
      exact le_trans (le_of_eq hself) (le_trans (F.ordRound_nearest hN hN1 L) (signed_distance hv (hpos L) n k).1)
    · obtain ⟨L, hL⟩ := hp.held_num hy
      rw [hnum, hL] at heq hne
      obtain ⟨-, hdiff, hsame⟩ := signed_distance hv (hpos L) n k
      have hbits : F.ordRound .near N v % 2 = 0 := by
        by_cases hnk : n = k
        · subst hnk
          refine F.ordRound_even (L := L) hN hN1 (fun h => hne (by rw [h]; rfl)) ?_
          exact (hsame rfl).symm.trans (heq.trans hself)
        · -- a value of the other sign is 0
          have hz0 := F.ordRound_nearest hN hN1 0
          rw [F.ordVal_zero, zero_sub, abs_neg, abs_of_pos hv] at hz0
          rcases hdiff hnk with h0 | hfar
          · have hzero : ∀ b, signed b (0 : ℚ) = 0 := fun b => by cases b <;> simp [signed]
            have hdist : |signed k (F.ordVal L) - signed n v| = v := by rw [h0, hzero, zero_sub, abs_neg, abs_signed (le_of_lt hv)]
            refine F.ordRound_even (L := 0) hN hN1 (fun h => hne ?_) ?_
            · change _ = signed n (F.ordVal (F.ordRound .near N v))
              rw [h0, ← h, F.ordVal_zero, hzero, hzero]
            · rw [F.ordVal_zero, zero_sub, abs_neg, abs_of_pos hv]
              exact hdist.symm.trans (heq.trans hself)
          · exact absurd (heq.trans hself) (ne_of_gt (lt_of_le_of_lt hz0 hfar))
      have := F.signOf_even hp.fbits n
      change r.1 = F.signOf n + F.ordRound .near N v at h1
      omega
  · rcases hr with ⟨-, rfl⟩ | ⟨ho, -⟩
    · exact hp.decode_inf n
    · exact absurd hle ho

/-! ### The conditions raised -/

/-- The rounded value is the number itself where the format holds it, and only there. -/
theorem Fmt.ordVal_ordRound_eq (F : Fmt) (x : Claim.Side) {N : Nat} {v : ℚ} (h1 : v < F.ordVal (N + 1)) : F.ordVal (F.ordRound x N v) = v ↔ v = F.ordVal N := by
  constructor
  · intro h
    rw [Fmt.ordRound] at h
    split at h
    · exact absurd h (ne_of_gt h1)
    · exact h.symm
  · rintro rfl
    rw [F.ordRound_exact]

theorem roundingExceptions : Claim.RoundingExceptions := by
  intro F hF mode n m e hm
  have hp := Fmt.plain_of_arith hF
  have hv := mag_pos hm e
  have hr := hp.round_spec hm e mode n
  simp only [Fp.num_fin n m e, abs_signed (le_of_lt hv)]
  rcases hr with ⟨ho, hr⟩ | ⟨ho, N, -, hN1, hK, h1, hexact, htiny, hnormal⟩
  · rw [hr]
    exact ⟨fun _ => rfl, fun h => absurd ho h, fun h => absurd ho h, fun h => absurd ho h⟩
  · obtain ⟨-, -, -, hnum⟩ := hp.decode_num n (lt_of_le_of_lt hK hp.maxBits_lt)
    rw [← h1] at hnum
    have hiff : Fp.num (F.decode (F.round mode (.fin n m e)).1) = signed n (m * 2 ^ e) ↔ (m * 2 ^ e : ℚ) = F.ordVal N := by
      rw [hnum, signed_inj, F.ordVal_ordRound_eq _ hN1]
    exact ⟨fun h => absurd h ho, fun _ h => hexact (hiff.1 h), fun _ h => htiny (mt hiff.2 h), fun _ h => hnormal (mt hiff.2 h)⟩

/-- Settles O39: the rounded magnitude is one of its two neighbours among those the format holds. -/
theorem roundingModes : Obligations.RoundingModes := ⟨directedRounding, nearestRounding, roundingExceptions⟩

end Sys2Proof.Machine
end

section
/-!
SUPPORT. Settles O40: values that a format holds stay as they are; sums and products are rounded once (R25, R26, R135).
-/

namespace Sys2Proof.Machine

open Claim

/-- A value that a format with infinities holds. -/
theorem Fmt.Plain.round_held {F : Fmt} (hF : F.Plain) (mode : RMode) {b : Nat} (hb : b < 2 ^ (F.ebits + F.fbits + 1)) {n : Bool} {m : Nat} {e : Int}
    (hd : F.decode b = .fin n m e) : F.round mode (.fin n m e) = (b, 0) := by
  obtain ⟨N, hN, rfl, hv⟩ := hF.ord_of_decode hb hd
  have hmax := hF.maxBits_succ
  rcases eq_or_ne m 0 with rfl | hm
  · have hz : N = 0 := by
      rw [Nat.cast_zero, zero_mul, ← F.ordVal_zero] at hv
      exact (F.ordVal_strictMono.injective hv).symm
    rw [Fmt.round, if_pos rfl, F.pack_zero, hz, Nat.add_zero]
  · have hle : F.ordVal N ≤ topOf F := by
      rw [hF.topOf_ord]
      exact F.ordVal_strictMono.monotone (by omega)
    have hno : ¬ overflows F (sideOf mode n) (m * 2 ^ e) := by
      have hu : 0 < topUlp F := two_zpow_pos _
      rw [hv]
      cases sideOf mode n with
      | near =>
        simp only [overflows, not_le]
        linarith
      | trunc =>
        simp only [overflows, not_le]
        linarith
      | away =>
        simp only [overflows, not_lt]
        exact hle
    rcases hF.round_spec hm e mode n with ⟨ho, -⟩ | ⟨-, L, hL, hL1, -, h1, hexact, -⟩
    · exact absurd ho hno
    · rw [hv] at hL hL1
      have hLN : L = N := le_antisymm (F.ordVal_strictMono.le_iff_le.1 hL) (Nat.lt_succ_iff.1 (F.ordVal_strictMono.lt_iff_lt.1 hL1))
      subst hLN
      refine Prod.ext ?_ (hexact hv)
      rw [h1, hv, F.ordRound_exact]

/-- The values of E4M3. -/
theorem round_held_e4 : ∀ (mode : RMode) (b : Nat), b < 2 ^ 8 → ∀ n m e, Fmt.e4.decode b = .fin n m e → Fmt.e4.round mode (.fin n m e) = (b, 0) := by
  have h : ∀ mode ∈ [RMode.rne, .rtz, .rup, .rdn], ∀ b < 2 ^ 8,
      (Fmt.e4.decode b).isNan = true ∨ Fmt.e4.decode b = .inf true ∨ Fmt.e4.decode b = .inf false ∨ Fmt.e4.round mode (Fmt.e4.decode b) = (b, 0) := by
    decide +kernel
  intro mode b hb n m e hd
  have hm : mode ∈ [RMode.rne, .rtz, .rup, .rdn] := by cases mode <;> decide
  have hc := h mode hm b hb
  simpa [hd, Fp.isNan] using hc

theorem heldValuesRoundToThemselves : Claim.HeldValuesRoundToThemselves := by
  intro F hF mode b hb n m e hd
  rcases eq_or_ne F .e4 with rfl | hne
  · exact round_held_e4 mode b hb n m e hd
  · have hp : F.Plain := by
      refine Fmt.plain_of_mem ?_
      simp only [List.mem_cons, List.not_mem_nil, or_false] at hF ⊢
      tauto
    exact hp.round_held mode hb hd

/-! ### Sums and products -/

theorem Fp.num_mul (n1 n2 : Bool) (m1 m2 : Nat) (e1 e2 : Int) :
    Fp.num (.fin (n1 != n2) (m1 * m2) (e1 + e2)) = Fp.num (.fin n1 m1 e1) * Fp.num (.fin n2 m2 e2) := by
  simp only [Fp.num_fin, two_zpow_add, Nat.cast_mul]
  cases n1 <;> cases n2 <;> simp [signed] <;> ring

/-- An exact sum is 0 where its integer is. -/
theorem addExact_eq_zero (n1 : Bool) (m1 : Nat) (e1 : Int) (n2 : Bool) (m2 : Nat) (e2 : Int) :
    Fp.num (.fin n1 m1 e1) + Fp.num (.fin n2 m2 e2) = 0 ↔ (addExact n1 m1 e1 n2 m2 e2).1 = 0 := by
  rw [← addExact_num, mul_eq_zero, or_iff_left (two_zpow_pos _).ne', Int.cast_eq_zero]

theorem Fmt.add_fin (F : Fmt) (mode : RMode) (n1 n2 : Bool) (m1 m2 : Nat) (e1 e2 : Int) : F.add mode (.fin n1 m1 e1) (.fin n2 m2 e2) =
    if (addExact n1 m1 e1 n2 m2 e2).1 = 0 then (F.pack (if m1 = 0 ∧ m2 = 0 ∧ n1 = n2 then n1 else decide (mode = .rdn)) 0 0, 0)
    else F.round mode (Fp.ofInt (addExact n1 m1 e1 n2 m2 e2).1 (addExact n1 m1 e1 n2 m2 e2).2 false) := rfl

/-- A packed zero. -/
theorem Fmt.Plain.decode_pack_zero {F : Fmt} (hF : F.Plain) (n : Bool) :
    (F.decode (F.pack n 0 0)).isZero = true ∧ (F.decode (F.pack n 0 0)).neg? = n := by
  have h0 : 0 < F.infBits := lt_of_le_of_lt (Nat.zero_le _) hF.maxBits_lt
  obtain ⟨m, e, hd, hv⟩ := hF.decode_ord h0 n
  rw [F.ordVal_zero, mul_eq_zero, or_iff_left (two_zpow_pos e).ne', Nat.cast_eq_zero] at hv
  rw [F.pack_zero, ← Nat.add_zero (F.signOf n), hd, hv]
  exact ⟨rfl, rfl⟩

theorem sumsAndProductsRoundOnce : Claim.SumsAndProductsRoundOnce := by
  intro F hF mode n1 n2 m1 m2 e1 e2
  have hp := Fmt.plain_of_arith hF
  simp only [ne_eq, addExact_eq_zero, F.add_fin]
  refine ⟨fun h => ?_, fun h => ?_, ?_⟩
  · refine ⟨decide ((addExact n1 m1 e1 n2 m2 e2).1 < 0), (addExact n1 m1 e1 n2 m2 e2).1.natAbs, (addExact n1 m1 e1 n2 m2 e2).2, Int.natAbs_ne_zero.2 h, ?_, ?_⟩
    · rw [← addExact_num, ← Fp.num_ofInt _ _ false, Fp.ofInt, if_neg h]
    · rw [if_neg h, Fp.ofInt, if_neg h]
  · rw [if_pos h]
    obtain ⟨hz, hn⟩ := hp.decode_pack_zero (if m1 = 0 ∧ m2 = 0 ∧ n1 = n2 then n1 else decide (mode = .rdn))
    exact ⟨hz, rfl, hn⟩
  · exact ⟨m1 * m2, e1 + e2, Fp.num_mul n1 n2 m1 m2 e1 e2, rfl⟩

/-- Settles O40: a held value is its own lower neighbour; the exact sum and product are integers at an exponent. -/
theorem roundedOnce : Obligations.RoundedOnce := ⟨heldValuesRoundToThemselves, sumsAndProductsRoundOnce⟩

end Sys2Proof.Machine
end

section
/-!
SUPPORT. Exact bounds on the line: their sums, products, least and greatest, and the outward rounding of an interval (R33, R139).
-/

namespace Sys2Proof.Machine

open Claim

/-! ### Exact bounds -/

theorem Fp.ofInt_fin (k e : Int) (z : Bool) : ∃ n m i, Fp.ofInt k e z = .fin n m i := by
  unfold Fp.ofInt
  split
  · exact ⟨_, _, _, rfl⟩
  · exact ⟨_, _, _, rfl⟩

theorem addB_fin (n1 : Bool) (m1 : Nat) (e1 : Int) (n2 : Bool) (m2 : Nat) (e2 : Int) : ∃ n m e, addB (.fin n1 m1 e1) (.fin n2 m2 e2) = .fin n m e ∧
    Fp.num (.fin n m e) = Fp.num (.fin n1 m1 e1) + Fp.num (.fin n2 m2 e2) := by
  obtain ⟨n, m, e, h⟩ := Fp.ofInt_fin (addExact n1 m1 e1 n2 m2 e2).1 (addExact n1 m1 e1 n2 m2 e2).2 false
  exact ⟨n, m, e, h, by rw [← h, Fp.num_ofInt, addExact_num]⟩

theorem below_addB {a b : Fp} {x y : ℚ} (ha : below a x) (hb : below b y) : below (addB a b) (x + y) := by
  cases a with
  | nan s => cases ha
  | inf n => exact ha
  | fin n1 m1 e1 =>
    cases b with
    | nan s => cases hb
    | inf n => exact hb
    | fin n2 m2 e2 =>
      obtain ⟨n, m, e, h, hn⟩ := addB_fin n1 m1 e1 n2 m2 e2
      rw [h]
      exact le_trans (le_of_eq hn) (add_le_add ha hb)

theorem above_addB {a b : Fp} {x y : ℚ} (ha : above a x) (hb : above b y) : above (addB a b) (x + y) := by
  cases a with
  | nan s => cases ha
  | inf n => exact ha
  | fin n1 m1 e1 =>
    cases b with
    | nan s => cases hb
    | inf n => exact hb
    | fin n2 m2 e2 =>
      obtain ⟨n, m, e, h, hn⟩ := addB_fin n1 m1 e1 n2 m2 e2
      rw [h]
      exact le_trans (add_le_add ha hb) (le_of_eq hn.symm)

theorem above_negate {a : Fp} {x : ℚ} (h : below a x) : above a.negate (-x) := by
  cases a with
  | nan s => cases h
  | inf n => exact congrArg not h
  | fin n m e =>
    change _ ≤ Fp.num (.fin (!n) m e)
    rw [Fp.num_not]
    exact neg_le_neg h

theorem below_negate {a : Fp} {x : ℚ} (h : above a x) : below a.negate (-x) := by
  cases a with
  | nan s => cases h
  | inf n => exact congrArg not h
  | fin n m e =>
    change Fp.num (.fin (!n) m e) ≤ _
    rw [Fp.num_not]
    exact neg_le_neg h

theorem within_add {a b : Iv} {x y : ℚ} (ha : within a x) (hb : within b y) : within (a.add b) (x + y) :=
  ⟨below_addB ha.1 hb.1, above_addB ha.2 hb.2⟩

theorem within_neg {v : Iv} {x : ℚ} (h : within v x) : within v.neg (-x) := ⟨below_negate h.2, above_negate h.1⟩

theorem within_entire (q : ℚ) : within .entire q := ⟨rfl, rfl⟩

theorem minB_spec {a b : Fp} (ha : a.isNan = false) (hb : b.isNan = false) : (minB a b).isNan = false ∧ (minB a b).place = min a.place b.place := by
  unfold minB
  by_cases h : a.le b = true
  · rw [if_pos h]
    exact ⟨ha, (min_eq_left ((Fp.le_iff ha hb).1 h)).symm⟩
  · rw [if_neg h]
    exact ⟨hb, (min_eq_right (le_of_lt (not_le.1 (mt (Fp.le_iff ha hb).2 h)))).symm⟩

theorem maxB_spec {a b : Fp} (ha : a.isNan = false) (hb : b.isNan = false) : (maxB a b).isNan = false ∧ (maxB a b).place = max a.place b.place := by
  unfold maxB
  by_cases h : a.le b = true
  · rw [if_pos h]
    exact ⟨hb, (max_eq_right ((Fp.le_iff ha hb).1 h)).symm⟩
  · rw [if_neg h]
    exact ⟨ha, (max_eq_left (le_of_lt (not_le.1 (mt (Fp.le_iff ha hb).2 h)))).symm⟩

/-! ### Products -/

theorem onLine_mul (x y : ℚ) : onLine (x * y) = onLine x * onLine y := by
  rw [onLine, onLine, onLine, Rat.cast_mul, EReal.coe_mul]

/-- An infinity times a number that is not 0. -/
theorem inf_mul_signed (n k : Bool) {v : ℚ} (hv : 0 < v) : (Fp.inf n).place * onLine (signed k v) = (Fp.inf (n != k)).place := by
  have hpos : (0 : ℝ) < (v : ℝ) := by exact_mod_cast hv
  rw [onLine]
  cases k with
  | false =>
    cases n with
    | false => exact EReal.top_mul_coe_of_pos hpos
    | true => exact EReal.bot_mul_coe_of_pos hpos
  | true =>
    have hneg : ((signed true v : ℚ) : ℝ) < 0 := by
      rw [signed, if_pos rfl, Rat.cast_neg]
      exact neg_lt_zero.2 hpos
    cases n with
    | false => exact EReal.top_mul_coe_of_neg hneg
    | true => exact EReal.bot_mul_coe_of_neg hneg

theorem inf_mul_place (n k : Bool) {j : Nat} (hj : j ≠ 0) (i : Int) : (Fp.inf n).place * (Fp.fin k j i).place = (Fp.inf (n != k)).place := by
  rw [Fp.place_fin, Fp.num_fin, inf_mul_signed n k (mag_pos hj i)]

theorem inf_mul_inf (n k : Bool) : (Fp.inf n).place * (Fp.inf k).place = (Fp.inf (n != k)).place := by
  cases n <;> cases k <;> simp

theorem Fp.place_zero (n : Bool) (e : Int) : (Fp.fin n 0 e).place = 0 := by
  rw [Fp.place_fin, Fp.num_eq_zero.2 rfl, onLine_zero]

theorem Fp.place_of_isZero {a : Fp} (h : a.isZero = true) : a.place = 0 := by
  cases a with
  | nan s => cases h
  | inf n => cases h
  | fin n m e =>
    rw [beq_iff_eq.1 (show (m == 0) = true from h)]
    exact Fp.place_zero n e

/-- The product of two exact bounds, where 0 times an infinity is 0. -/
theorem mulB_spec {a b : Fp} (ha : a.isNan = false) (hb : b.isNan = false) : (mulB a b).isNan = false ∧ (mulB a b).place = a.place * b.place := by
  unfold mulB
  by_cases hz : (a.isZero || b.isZero) = true
  · rw [if_pos hz, Fp.place_zero]
    refine ⟨rfl, ?_⟩
    rcases Bool.or_eq_true_iff.1 hz with h | h
    · rw [Fp.place_of_isZero h, zero_mul]
    · rw [Fp.place_of_isZero h, mul_zero]
  · rw [if_neg hz]
    rw [Bool.or_eq_true_iff, not_or] at hz
    obtain ⟨hza, hzb⟩ := hz
    have hfin : ∀ {n m e}, ¬ (Fp.fin n m e).isZero = true → m ≠ 0 := fun h hm => h (beq_iff_eq.2 hm)
    cases a with
    | nan s => cases ha
    | inf n =>
      cases b with
      | nan s => cases hb
      | inf k => exact ⟨rfl, (inf_mul_inf n k).symm⟩
      | fin k j i =>
        rw [mulExact, if_neg (hfin hzb)]
        exact ⟨rfl, (inf_mul_place n k (hfin hzb) i).symm⟩
    | fin n m e =>
      cases b with
      | nan s => cases hb
      | inf k =>
        rw [mulExact, if_neg (hfin hza), mul_comm, inf_mul_place k n (hfin hza) e, bne_comm]
        exact ⟨rfl, rfl⟩
      | fin k j i =>
        refine ⟨rfl, ?_⟩
        change onLine (Fp.num (.fin (n != k) (m * j) (e + i))) = _
        rw [Fp.num_mul, onLine_mul]
        rfl

/-- A product with one factor between two others. -/
theorem between_mul (a : EReal) {y p q : EReal} (hp : p ≤ y) (hq : y ≤ q) : min (a * p) (a * q) ≤ a * y ∧ a * y ≤ max (a * p) (a * q) := by
  rcases le_total 0 a with h | h
  · exact ⟨min_le_of_left_le (mul_le_mul_of_nonneg_left hp h), le_max_of_le_right (mul_le_mul_of_nonneg_left hq h)⟩
  · have hn : 0 ≤ -a := EReal.neg_nonneg.2 h
    have hneg : ∀ {r s : EReal}, r ≤ s → a * s ≤ a * r := fun hrs => by
      have := mul_le_mul_of_nonneg_left hrs hn
      rwa [EReal.neg_mul, EReal.neg_mul, EReal.neg_le_neg_iff] at this
    exact ⟨min_le_of_right_le (hneg hq), le_max_of_le_left (hneg hp)⟩

/-- A product of two numbers lies between the products of the ends. -/
theorem corners_mul {x y p q r s : EReal} (hp : p ≤ x) (hq : x ≤ q) (hr : r ≤ y) (hs : y ≤ s) :
    min (min (p * r) (p * s)) (min (q * r) (q * s)) ≤ x * y ∧ x * y ≤ max (max (p * r) (p * s)) (max (q * r) (q * s)) := by
  obtain ⟨hlo, hhi⟩ := between_mul y hp hq
  rw [mul_comm y, mul_comm y, mul_comm y] at hlo hhi
  obtain ⟨hplo, hphi⟩ := between_mul p hr hs
  obtain ⟨hqlo, hqhi⟩ := between_mul q hr hs
  exact ⟨le_trans (min_le_min hplo hqlo) hlo, le_trans hhi (max_le_max hphi hqhi)⟩

theorem within_iff (v : Iv) (q : ℚ) : within v q ↔ (v.lo.isNan = false ∧ v.lo.place ≤ onLine q) ∧ (v.hi.isNan = false ∧ onLine q ≤ v.hi.place) := by
  rw [within, below_iff, above_iff]

theorem within_mul {a b : Iv} {x y : ℚ} (ha : within a x) (hb : within b y) : within (a.mul b) (x * y) := by
  rw [within_iff] at ha hb
  obtain ⟨⟨hal, hax⟩, hah, hxa⟩ := ha
  obtain ⟨⟨hbl, hby⟩, hbh, hyb⟩ := hb
  obtain ⟨hlo, hhi⟩ := corners_mul hax hxa hby hyb
  obtain ⟨hp, hpp⟩ := mulB_spec hal hbl
  obtain ⟨hq, hqp⟩ := mulB_spec hal hbh
  obtain ⟨hr, hrp⟩ := mulB_spec hah hbl
  obtain ⟨hs, hsp⟩ := mulB_spec hah hbh
  obtain ⟨hpq, hpqp⟩ := minB_spec hp hq
  obtain ⟨hrs, hrsp⟩ := minB_spec hr hs
  obtain ⟨hPQ, hPQp⟩ := maxB_spec hp hq
  obtain ⟨hRS, hRSp⟩ := maxB_spec hr hs
  obtain ⟨hmin, hminp⟩ := minB_spec hpq hrs
  obtain ⟨hmax, hmaxp⟩ := maxB_spec hPQ hRS
  rw [within_iff, onLine_mul]
  refine ⟨⟨hmin, ?_⟩, hmax, ?_⟩
  · change Fp.place (minB (minB (mulB a.lo b.lo) (mulB a.lo b.hi)) (minB (mulB a.hi b.lo) (mulB a.hi b.hi))) ≤ _
    rwa [hminp, hpqp, hrsp, hpp, hqp, hrp, hsp]
  · change _ ≤ Fp.place (maxB (maxB (mulB a.lo b.lo) (mulB a.lo b.hi)) (maxB (mulB a.hi b.lo) (mulB a.hi b.hi)))
    rwa [hmaxp, hPQp, hRSp, hpp, hqp, hrp, hsp]

/-! ### Outward rounding -/

section
variable {F : Fmt} (hF : F.Plain)
include hF

/-- The bits 0. -/
theorem Fmt.Plain.decode_bits_zero : (F.decode 0).isNan = false ∧ (F.decode 0).place = 0 := by
  have h := hF.decode_place false (Nat.zero_le F.infBits)
  rwa [Fmt.signOf, if_neg Bool.false_ne_true, Nat.zero_add, signedPlace_false, F.magOf_fin (lt_of_le_of_lt (Nat.zero_le _) hF.maxBits_lt), F.ordVal_zero,
    onLine_zero] at h

/-- Zeros and infinities keep their place. -/
theorem Fmt.Plain.round_place (mode : RMode) {x : Fp} (hx : x.isNan = false) (h : ∀ n m e, x = .fin n m e → m = 0) :
    (F.decode (F.round mode x).1).isNan = false ∧ (F.decode (F.round mode x).1).place = x.place := by
  cases x with
  | nan s => cases hx
  | inf n =>
    have hd : F.decode (F.round mode (.inf n)).1 = .inf n := hF.decode_inf n
    rw [hd]
    exact ⟨hx, rfl⟩
  | fin n m e =>
    rw [h n m e rfl, Fmt.round, if_pos rfl, Fp.place_zero]
    have hz := (hF.decode_pack_zero n).1
    refine ⟨?_, Fp.place_of_isZero hz⟩
    cases hd : F.decode (F.pack n 0 0) with
    | nan s =>
      rw [hd] at hz
      cases hz
    | inf k => rfl
    | fin k j i => rfl

/-- Rounding down gives a value at or below. -/
theorem Fmt.Plain.round_down {x : Fp} (hx : x.isNan = false) :
    (F.decode (F.round .rdn x).1).isNan = false ∧ (F.decode (F.round .rdn x).1).place ≤ x.place := by
  by_cases h : ∀ n m e, x = .fin n m e → m = 0
  · obtain ⟨h1, h2⟩ := hF.round_place .rdn hx h
    exact ⟨h1, le_of_eq h2⟩
  · push Not at h
    obtain ⟨n, m, e, rfl, hm⟩ := h
    rw [Fp.place_fin, Fp.num_fin, ← below_iff]
    exact (hF.greatest_below (mag_pos hm e) (hF.round_spec hm e .rdn n) rfl).1

/-- Rounding up gives a value at or above. -/
theorem Fmt.Plain.round_up {x : Fp} (hx : x.isNan = false) :
    (F.decode (F.round .rup x).1).isNan = false ∧ x.place ≤ (F.decode (F.round .rup x).1).place := by
  by_cases h : ∀ n m e, x = .fin n m e → m = 0
  · obtain ⟨h1, h2⟩ := hF.round_place .rup hx h
    exact ⟨h1, le_of_eq h2.symm⟩
  · push Not at h
    obtain ⟨n, m, e, rfl, hm⟩ := h
    rw [Fp.place_fin, Fp.num_fin, ← above_iff]
    exact (hF.least_above (mag_pos hm e) (hF.round_spec hm e .rup n) rfl).1

/-- Writing +0 for every zero keeps the place. -/
theorem Fmt.Plain.plusZero_place (z : Nat) : (F.decode (if (F.decode z).isZero then 0 else z)).place = (F.decode z).place ∧
    ((F.decode z).isNan = false → (F.decode (if (F.decode z).isZero then 0 else z)).isNan = false) := by
  obtain ⟨h1, h2⟩ := hF.decode_bits_zero
  by_cases hz : (F.decode z).isZero = true
  · rw [if_pos hz, h2, Fp.place_of_isZero hz]
    exact ⟨rfl, fun _ => h1⟩
  · rw [if_neg hz]
    exact ⟨rfl, id⟩

/-- The outward rounding of an interval contains what the interval contains. -/
theorem Fmt.Plain.within_outward {v : Iv} {q : ℚ} (h : within v q) : within (ivOf F (F.outward v)) q := by
  rw [within_iff] at h ⊢
  obtain ⟨⟨hl, hlq⟩, hh, hhq⟩ := h
  obtain ⟨hd, hdp⟩ := hF.round_down hl
  obtain ⟨hu, hup⟩ := hF.round_up hh
  obtain ⟨hzp, hz⟩ := hF.plusZero_place (F.round .rdn v.lo).1
  obtain ⟨hzp', hz'⟩ := hF.plusZero_place (F.round .rup v.hi).1
  exact ⟨⟨hz hd, le_trans (le_of_eq hzp) (le_trans hdp hlq)⟩, hz' hu, le_trans hhq (le_trans hup (le_of_eq hzp'.symm))⟩

end

end Sys2Proof.Machine
end

section
/-!
SUPPORT. Settles O41: the results of interval words contain the results on the numbers of their operands (R33, R139, R140).
-/

namespace Sys2Proof.Machine

open Claim

/-! ### Quotients -/

/-- What 1 divided by a bound comes to: 0 at infinity. -/
def recipOf : Fp → ℚ
  | .fin n m e => (Fp.num (.fin n m e))⁻¹
  | _ => 0

/-- The quotient of two magnitudes, cut to a whole number of places. -/
theorem divMag_cut {F : Fmt} (hF : F.fbits ≤ 52) {m1 m2 : Nat} (h1 : m1 ≠ 0) (h2 : m2 ≠ 0) (e1 e2 : Int) : ∃ f,
    Cut F (divMag m1 e1 m2 e2).1 (divMag m1 e1 m2 e2).2.2 f ∧
    (((divMag m1 e1 m2 e2).1 : ℚ) + f) * 2 ^ (divMag m1 e1 m2 e2).2.1 = m1 * 2 ^ e1 / (m2 * 2 ^ e2) := by
  have hm2 : (0 : ℚ) < m2 := by exact_mod_cast Nat.pos_of_ne_zero h2
  simp only [divMag, Nat.shiftLeft_eq]
  generalize hk : bitLen m2 + 70 = k
  have hbig : 2 ^ 70 ≤ m1 * 2 ^ k / m2 := by
    rw [Nat.le_div_iff_mul_le (Nat.pos_of_ne_zero h2), ← hk, pow_add, Nat.mul_comm (2 ^ bitLen m2), ← Nat.mul_assoc]
    exact Nat.mul_le_mul (Nat.le_mul_of_pos_left _ (Nat.pos_of_ne_zero h1)) (le_of_lt (bitLen_bounds h2).2.1)
  have hq0 : m1 * 2 ^ k / m2 ≠ 0 := by
    have : 0 < 2 ^ 70 := Nat.two_pow_pos 70
    omega
  have hdiv := Nat.div_add_mod (m1 * 2 ^ k) m2
  have hmod := Nat.mod_lt (m1 * 2 ^ k) (Nat.pos_of_ne_zero h2)
  have hsub : m1 * 2 ^ k - m1 * 2 ^ k / m2 * m2 = m1 * 2 ^ k % m2 := by
    rw [Nat.mul_comm] at hdiv
    omega
  rw [hsub]
  generalize m1 * 2 ^ k / m2 = q at hbig hq0 hdiv
  generalize hr : m1 * 2 ^ k % m2 = r at hdiv hmod
  refine ⟨(r : ℚ) / m2, ⟨hq0, by positivity, ?_, ?_, fun _ => ?_⟩, ?_⟩
  · rw [div_lt_one hm2]
    exact_mod_cast hmod
  · rw [bne_iff_ne, Ne, Ne, div_eq_zero_iff, or_iff_left hm2.ne', Nat.cast_eq_zero]
  · have hlt : 2 ^ 70 < 2 ^ bitLen q := lt_of_le_of_lt hbig (bitLen_bounds hq0).2.1
    have := (Nat.pow_lt_pow_iff_right (by decide)).1 hlt
    omega
  · have hv : (q : ℚ) + r / m2 = m1 * 2 ^ k / m2 := by
      rw [eq_div_iff hm2.ne', add_mul, div_mul_cancel₀ _ hm2.ne', mul_comm]
      exact_mod_cast hdiv
    have he : (2 : ℚ) ^ (e1 - e2 - (k : Int)) = 2 ^ e1 / 2 ^ e2 / 2 ^ k := by rw [zpow_sub₀ two_ne_zero, zpow_sub₀ two_ne_zero, zpow_natCast]
    have hp : (2 : ℚ) ^ k ≠ 0 := by positivity
    have hp2 := (two_zpow_pos e2).ne'
    rw [hv, he]
    field_simp

theorem signed_mul (n k : Bool) (v w : ℚ) : signed n v * signed k w = signed (n != k) (v * w) := by
  cases n <;> cases k <;> simp [signed]

section
variable {F : Fmt} (hF : F.Plain) (hb : F.fbits ≤ 52)
include hF hb

/-- A quotient of finite values that are not 0, rounded. -/
theorem Fmt.Plain.div_spec (mode : RMode) (n1 n2 : Bool) {m1 m2 : Nat} (h1 : m1 ≠ 0) (h2 : m2 ≠ 0) (e1 e2 : Int) :
    F.RoundsTo mode (n1 != n2) (m1 * 2 ^ e1 / (m2 * 2 ^ e2)) (F.div mode (.fin n1 m1 e1) (.fin n2 m2 e2)) := by
  obtain ⟨f, hc, hv⟩ := divMag_cut hb h1 h2 e1 e2
  have h := hF.roundMag_spec hc (e := (divMag m1 e1 m2 e2).2.1) mode (n1 != n2)
  rw [hv] at h
  rw [Fmt.div, if_neg h2, if_neg h1]
  exact h

omit hF hb in
theorem Fmt.quotB_inf (F : Fmt) (mode : RMode) (a : Fp) (k : Bool) : F.quotB mode a (.inf k) = .fin false 0 0 := rfl

omit hF hb in
theorem Fmt.quotB_fin (F : Fmt) (mode : RMode) (a : Fp) (k : Bool) (j : Nat) (i : Int) :
    F.quotB mode a (.fin k j i) = if a.isZero then .fin false 0 0 else F.decode (F.div mode a (.fin k j i)).1 := rfl

/-- The quotient of two bounds: exact, or the rounding of the quotient of two numbers. -/
theorem Fmt.Plain.quotB_cases (mode : RMode) {a b : Fp} (ha : a.isNan = false) (hb' : b.isNan = false) (hz : b.isZero = false) :
    ((F.quotB mode a b).isNan = false ∧ (F.quotB mode a b).place = a.place * onLine (recipOf b)) ∨
    ∃ n v r, 0 < v ∧ a.place * onLine (recipOf b) = onLine (signed n v) ∧ F.RoundsTo mode n v r ∧ F.quotB mode a b = F.decode r.1 := by
  cases b with
  | nan s => cases hb'
  | inf k =>
    refine Or.inl ⟨rfl, ?_⟩
    change _ = a.place * onLine 0
    rw [F.quotB_inf, Fp.place_zero, onLine_zero, mul_zero]
  | fin k j i =>
    have hj : j ≠ 0 := beq_eq_false_iff_ne.1 hz
    have hrecip : recipOf (.fin k j i) = signed k (j * 2 ^ i)⁻¹ := by
      change (Fp.num (.fin k j i))⁻¹ = _
      rw [Fp.num_fin]
      cases k <;> simp [signed, inv_neg]
    by_cases hza : a.isZero = true
    · rw [F.quotB_fin, if_pos hza, Fp.place_of_isZero hza, zero_mul, Fp.place_zero]
      exact Or.inl ⟨rfl, rfl⟩
    · rw [F.quotB_fin, if_neg hza, hrecip]
      cases a with
      | nan s => cases ha
      | inf n =>
        have hd : F.decode (F.div mode (.inf n) (.fin k j i)).1 = .inf (n != k) := hF.decode_inf (n != k)
        rw [hd, inf_mul_signed n k (inv_pos.2 (mag_pos hj i))]
        exact Or.inl ⟨rfl, rfl⟩
      | fin n m e =>
        have hm : m ≠ 0 := fun h => hza (beq_iff_eq.2 h)
        refine Or.inr ⟨n != k, m * 2 ^ e / (j * 2 ^ i), _, div_pos (mag_pos hm e) (mag_pos hj i), ?_, hF.div_spec hb mode n k hm hj e i, rfl⟩
        rw [Fp.place_fin, ← onLine_mul, Fp.num_fin, signed_mul, div_eq_mul_inv]

theorem Fmt.Plain.quotB_down {a b : Fp} (ha : a.isNan = false) (hb' : b.isNan = false) (hz : b.isZero = false) :
    (F.quotB .rdn a b).isNan = false ∧ (F.quotB .rdn a b).place ≤ a.place * onLine (recipOf b) := by
  rcases hF.quotB_cases hb .rdn ha hb' hz with ⟨h1, h2⟩ | ⟨n, v, r, hv, he, hr, hq⟩
  · exact ⟨h1, le_of_eq h2⟩
  · rw [he, hq, ← below_iff]
    exact (hF.greatest_below hv hr rfl).1

theorem Fmt.Plain.quotB_up {a b : Fp} (ha : a.isNan = false) (hb' : b.isNan = false) (hz : b.isZero = false) :
    (F.quotB .rup a b).isNan = false ∧ a.place * onLine (recipOf b) ≤ (F.quotB .rup a b).place := by
  rcases hF.quotB_cases hb .rup ha hb' hz with ⟨h1, h2⟩ | ⟨n, v, r, hv, he, hr, hq⟩
  · exact ⟨h1, le_of_eq h2.symm⟩
  · rw [he, hq, ← above_iff]
    exact (hF.least_above hv hr rfl).1

omit hF hb in
/-- The number 1 divided by a number of an interval that does not hold 0. -/
theorem recip_between {b : Iv} {y : ℚ} (hw : within b y) (hz : b.hasZero = false) :
    b.lo.isZero = false ∧ b.hi.isZero = false ∧ recipOf b.hi ≤ y⁻¹ ∧ y⁻¹ ≤ recipOf b.lo := by
  obtain ⟨lo, hi⟩ := b
  obtain ⟨hlo, hhi⟩ := hw
  have hzero := Fp.place_zero false 0
  -- one end lies on the far side of 0
  have hside : 0 < lo.place ∨ hi.place < 0 := by
    rw [below_iff] at hlo
    rw [above_iff] at hhi
    rw [Iv.hasZero, Bool.and_eq_false_iff, ← Bool.not_eq_true, ← Bool.not_eq_true, Fp.le_iff hlo.1 rfl, Fp.le_iff rfl hhi.1, hzero, not_le, not_le] at hz
    exact hz
  have hcast : ∀ {n m e}, (0 < (Fp.fin n m e).place ↔ 0 < Fp.num (.fin n m e)) ∧ ((Fp.fin n m e).place < 0 ↔ Fp.num (.fin n m e) < 0) := by
    intro n m e
    rw [Fp.place_fin, ← onLine_zero, onLine_lt, onLine_lt]
    exact ⟨Iff.rfl, Iff.rfl⟩
  have hne : ∀ {n m e}, Fp.num (.fin n m e) ≠ 0 → (Fp.fin n m e).isZero = false := fun h => beq_eq_false_iff_ne.2 (mt Fp.num_eq_zero.2 h)
  cases lo with
  | nan s => cases hlo
  | inf n =>
    rw [show n = true from hlo, Fp.place_neg_inf] at hside
    have hneg := hside.resolve_left not_lt_bot
    cases hi with
    | nan s => cases hhi
    | inf k =>
      rw [show k = false from hhi] at hneg
      exact absurd hneg not_top_lt
    | fin k j i =>
      have hh := hcast.2.1 hneg
      have hy : y ≤ Fp.num (.fin k j i) := hhi
      have hy0 : y < 0 := lt_of_le_of_lt hy hh
      exact ⟨rfl, hne (ne_of_lt hh), (inv_le_inv_of_neg hh hy0).2 hy, inv_nonpos.2 (le_of_lt hy0)⟩
  | fin n m e =>
    have hx : Fp.num (.fin n m e) ≤ y := hlo
    cases hi with
    | nan s => cases hhi
    | inf k =>
      rw [show k = false from hhi] at hside
      have hl := hcast.1.1 (hside.resolve_right not_top_lt)
      have hy0 : 0 < y := lt_of_lt_of_le hl hx
      exact ⟨hne (ne_of_gt hl), rfl, inv_nonneg.2 (le_of_lt hy0), (inv_le_inv₀ hy0 hl).2 hx⟩
    | fin k j i =>
      have hy : y ≤ Fp.num (.fin k j i) := hhi
      rcases hside with hl | hh
      · have hl := hcast.1.1 hl
        have hy0 : 0 < y := lt_of_lt_of_le hl hx
        have hh : 0 < Fp.num (.fin k j i) := lt_of_lt_of_le hy0 hy
        exact ⟨hne (ne_of_gt hl), hne (ne_of_gt hh), (inv_le_inv₀ hh hy0).2 hy, (inv_le_inv₀ hy0 hl).2 hx⟩
      · have hh := hcast.2.1 hh
        have hy0 : y < 0 := lt_of_le_of_lt hy hh
        have hl : Fp.num (.fin n m e) < 0 := lt_of_le_of_lt hx hy0
        exact ⟨hne (ne_of_lt hl), hne (ne_of_lt hh), (inv_le_inv_of_neg hh hy0).2 hy, (inv_le_inv_of_neg hy0 hl).2 hx⟩

/-- Interval division contains the quotients. -/
theorem Fmt.Plain.within_div {a b : Iv} {x y : ℚ} (ha : within a x) (hw : within b y) : within (ivOf F (F.divIv a b)) (x / y) := by
  unfold Fmt.divIv
  by_cases hz : b.hasZero = true
  · rw [if_pos hz]
    exact hF.within_outward (within_entire _)
  · rw [if_neg hz]
    obtain ⟨hzl, hzh, hrl, hrh⟩ := recip_between hw (Bool.not_eq_true _ ▸ hz)
    refine hF.within_outward ?_
    rw [within_iff] at ha hw ⊢
    obtain ⟨⟨hal, hax⟩, hah, hxa⟩ := ha
    obtain ⟨⟨hbl, -⟩, hbh, -⟩ := hw
    obtain ⟨hlo, hhi⟩ := corners_mul hax hxa (onLine_le.2 hrl) (onLine_le.2 hrh)
    obtain ⟨hp, hpp⟩ := hF.quotB_down hb hal hbl hzl
    obtain ⟨hq, hqp⟩ := hF.quotB_down hb hal hbh hzh
    obtain ⟨hr, hrp⟩ := hF.quotB_down hb hah hbl hzl
    obtain ⟨hs, hsp⟩ := hF.quotB_down hb hah hbh hzh
    obtain ⟨hP, hPp⟩ := hF.quotB_up hb hal hbl hzl
    obtain ⟨hQ, hQp⟩ := hF.quotB_up hb hal hbh hzh
    obtain ⟨hR, hRp⟩ := hF.quotB_up hb hah hbl hzl
    obtain ⟨hS, hSp⟩ := hF.quotB_up hb hah hbh hzh
    obtain ⟨hpq, hpqp⟩ := minB_spec hp hq
    obtain ⟨hrs, hrsp⟩ := minB_spec hr hs
    obtain ⟨hPQ, hPQp⟩ := maxB_spec hP hQ
    obtain ⟨hRS, hRSp⟩ := maxB_spec hR hS
    obtain ⟨hmin, hminp⟩ := minB_spec hpq hrs
    obtain ⟨hmax, hmaxp⟩ := maxB_spec hPQ hRS
    rw [div_eq_mul_inv, onLine_mul]
    refine ⟨⟨hmin, ?_⟩, hmax, ?_⟩
    · rw [hminp, hpqp, hrsp]
      refine le_trans ?_ hlo
      rw [min_comm (_ * onLine (recipOf b.hi)), min_comm (_ * onLine (recipOf b.hi))]
      exact min_le_min (min_le_min hpp hqp) (min_le_min hrp hsp)
    · rw [hmaxp, hPQp, hRSp]
      refine le_trans hhi ?_
      rw [max_comm (_ * onLine (recipOf b.hi)), max_comm (_ * onLine (recipOf b.hi))]
      exact max_le_max (max_le_max hPp hQp) (max_le_max hRp hSp)

end

/-! ### The interval words -/

theorem plain_bound {F : Fmt} (h : F ∈ [Fmt.s, .d]) : F.Plain ∧ F.fbits ≤ 52 := by
  simp only [List.mem_cons, List.not_mem_nil, or_false] at h
  rcases h with rfl | rfl
  · exact ⟨Fmt.plain_of_mem (by simp), by decide⟩
  · exact ⟨Fmt.plain_of_mem (by simp), by decide⟩

theorem intervalSumsContain : Claim.IntervalSumsContain := by
  intro F hF a b x y _ _ ha hb
  obtain ⟨hp, -⟩ := plain_bound hF
  refine ⟨hp.within_outward (within_add ha hb), ?_⟩
  rw [sub_eq_add_neg]
  exact hp.within_outward (within_add ha (within_neg hb))

theorem not_empty_of_valid {v : Iv} (h : v.valid = true) : v.empty? = false := by
  simp only [Iv.valid, Bool.and_eq_true, bne_iff_ne] at h
  obtain ⟨⟨-, hlo⟩, -⟩ := h
  rw [Iv.empty?, beq_false_of_ne hlo, Bool.false_and]

/-- The hull of two intervals contains what one of them contains. -/
theorem within_hull {a b : Iv} {x y : ℚ} (ha : within a x) (hb : within b y) : within ⟨minB a.lo b.lo, maxB a.hi b.hi⟩ x := by
  rw [within_iff] at ha hb ⊢
  obtain ⟨⟨hal, hax⟩, hah, hxa⟩ := ha
  obtain ⟨⟨hbl, -⟩, hbh, -⟩ := hb
  obtain ⟨h1, h2⟩ := minB_spec hal hbl
  obtain ⟨h3, h4⟩ := maxB_spec hah hbh
  exact ⟨⟨h1, h2 ▸ min_le_of_left_le hax⟩, h3, h4 ▸ le_max_of_le_left hxa⟩

/-- The intersection of two intervals contains what both contain. -/
theorem within_inter {a b : Iv} {x : ℚ} (ha : within a x) (hb : within b x) :
    Fp.lt (minB a.hi b.hi) (maxB a.lo b.lo) = false ∧ within ⟨maxB a.lo b.lo, minB a.hi b.hi⟩ x := by
  rw [within_iff] at ha hb ⊢
  obtain ⟨⟨hal, hax⟩, hah, hxa⟩ := ha
  obtain ⟨⟨hbl, hbx⟩, hbh, hxb⟩ := hb
  obtain ⟨h1, h2⟩ := maxB_spec hal hbl
  obtain ⟨h3, h4⟩ := minB_spec hah hbh
  have hlo : (maxB a.lo b.lo).place ≤ onLine x := h2 ▸ max_le hax hbx
  have hhi : onLine x ≤ (minB a.hi b.hi).place := h4 ▸ le_min hxa hxb
  refine ⟨?_, ⟨h1, hlo⟩, h3, hhi⟩
  rw [← Bool.not_eq_true, Fp.lt_iff h3 h1, not_lt]
  exact le_trans hlo hhi

theorem intervalProductsContain : Claim.IntervalProductsContain := by
  intro F hF a b d x y z hva hvb _ ha hb hd
  obtain ⟨hp, hbits⟩ := plain_bound hF
  have hm := within_mul ha hb
  have hea := not_empty_of_valid hva
  have heb := not_empty_of_valid hvb
  refine ⟨hp.within_outward hm, hp.within_outward (within_add hm hd), ?_, hp.within_outward (within_neg (within_add hm hd)), ?_,
    fun _ => hp.within_div hbits ha hb, ?_, fun hbx => ?_⟩
  · rw [sub_eq_add_neg]
    exact hp.within_outward (within_add hm (within_neg hd))
  · rw [sub_eq_add_neg]
    exact hp.within_outward (within_neg (within_add hm (within_neg hd)))
  · simp only [Fmt.ivArith, hea, heb, Bool.false_eq_true, if_false]
    exact hp.within_outward (within_hull ha hb)
  · obtain ⟨hlt, hw⟩ := within_inter ha hbx
    simp only [Fmt.ivArith, hea, heb, hlt, Bool.or_false, Bool.false_eq_true, if_false]
    exact hp.within_outward hw

/-- Settles O41: exact ends that enclose the results, rounded outward. -/
theorem intervalResultsContain : Obligations.IntervalResultsContain := ⟨intervalSumsContain, intervalProductsContain⟩

end Sys2Proof.Machine
end
